-- ==== Sys2Proof/Word.lean ====
section
/-! DEFINITION. The word types of the KZ8840 model and their plainest facts.  The device is a block (it has no program
counter), so the words are those of its dictionary (R30), its host registers (R450) and its frames. -/

namespace Sys2Proof

/-- One byte: the unit of dictionary values, frames and buffers (R31). -/
abbrev Byte := BitVec 8

/-- One host register (R450). -/
abbrev Word32 := BitVec 32

/-- A node identity or a MAC address (R6). -/
abbrev Word48 := BitVec 48

/-- An Ethernet port number, 0 to 19 (R7). -/
abbrev Port := Fin 20

/-- A CAN controller number, 0 to 7. -/
abbrev CanId := Fin 8

/-- A slice number, 0 to 8. -/
abbrev Slice := Fin 9

end Sys2Proof
end

