-- ==== Sys2Proof/Syntax.lean ====
section
/-! DEFINITION. The commands of the KZ8840, one constructor for each row of spec/opcode_table.json, and the plain data that
their operands carry: frames as they arrive at the balls, requests as they reach the dictionary agent, and the readings
and outcomes that the spec leaves to the world outside the device. -/

namespace Sys2Proof

/-! ### Access paths -/

/-- Where a dictionary request comes from (R39, R51): an SDO server, a KDA session with the sequence number of the
frame, the PCIe mailbox or the serial mailbox. -/
inductive Src where
  | sdo (c : CanId)
  | kda (session seq : BitVec 32)
  | pcie
  | serial
  deriving DecidableEq, Repr

/-- The two attachments of the host (R450). -/
inductive HostPath where
  | pcie | serial
  deriving DecidableEq, Repr

/-- Target of a plain write: a dictionary entry or a host register without a row of its own (R35, R450). -/
inductive WriteTarget where
  | entry (src : Src) (idx : BitVec 16) (sub : BitVec 8) (off : BitVec 32) (data : List Byte)
  | hostReg (path : HostPath) (offset : BitVec 14) (value : Word32)
  deriving DecidableEq, Repr

/-- The outcome of a step of an SDO transfer as the wire shows it (R53): the whole transfer, or the fault that ends it.
DESIGN CHOICE, unsafe (log entry 113). -/
inductive SdoFault where
  | none | toggle | specifier | blockSequence | memory
  deriving DecidableEq, Repr

/-- The data of a block download, with the CRC that the client gives at its end (R53). -/
structure SdoBlock where
  bytes : List Byte
  crc : BitVec 16
  deriving DecidableEq, Repr

/-- What a client asks for in a block upload: the number of segments in a block and the protocol switch threshold (R53). -/
structure SdoBlockStart where
  size : BitVec 8
  pst : BitVec 8
  deriving DecidableEq, Repr

/-- First address and number of bytes of a serial write (R448). -/
structure SerialRange where
  address : BitVec 16
  count : Byte
  deriving DecidableEq, Repr

/-- Where a KDA frame comes from and which address of the node it names (R55, R60): the port, the peer's MAC address, IPv4
address and UDP port, and the destination address of the frame. -/
structure KdaPeer where
  port : Port
  mac : Word48
  ip : BitVec 32
  udp : BitVec 16
  own : BitVec 32
  deriving DecidableEq, Repr

/-- A KDA frame (R55, R56) but for its opcode and its payload, and the outcome of its tag check. -/
structure KdaHeader where
  peer : KdaPeer
  /-- UDP destination port -/
  udpPort : BitVec 16
  ipv4 : Bool
  fragmented : Bool
  magic : BitVec 16
  version : BitVec 8
  session : BitVec 32
  seq : BitVec 32
  length : BitVec 16
  reserved : BitVec 16
  /-- the authentication tag of R56 verifies under the session key -/
  tagOk : Bool
  deriving DecidableEq, Repr

/-! ### Frames -/

/-- A frame as a port receives it: the bytes from the destination address to the end of the payload, without FCS, and
what the PCS and the FCS check found (R175). -/
structure RxFrame where
  bytes : List Byte
  fcsOk : Bool
  alignError : Bool
  symbolError : Bool
  deriving DecidableEq, Repr

/-- Which lookup engine's decision an internal fault corrupts (R123). DESIGN CHOICE, unsafe (log entry 113). -/
structure EngineFault where
  wrong0 : Bool
  wrong1 : Bool
  deriving DecidableEq, Repr

/-! ### Springcount (chapter 03) -/

/-- Header of a Springcount frame (R78) as received. -/
structure ScHeader where
  protocol : BitVec 8
  version : BitVec 8
  laneB : Bool
  more : Bool
  originator : Word48
  round : BitVec 16
  seq : BitVec 16
  length : BitVec 16
  hops : BitVec 8
  segment : BitVec 8
  deriving DecidableEq, Repr

/-- Payload of PROBE and PROBE_REPLY (R80). -/
structure ProbeBody where
  rear : Bool
  laneB : Bool
  safe : Bool
  inhibit : Bool
  needsCommit : Bool
  standardOnly : Bool
  epoch : BitVec 16
  topo : BitVec 32
  deriving DecidableEq, Repr

/-- A census record (R80). -/
structure CensusRec where
  ident : Word48
  vehicle : BitVec 32
  consist : BitVec 128
  position : BitVec 2
  nodesMinus1 : BitVec 2
  fromRear : Bool
  safe : Bool
  leading : Bool
  leadingRear : Bool
  inhibit : Bool
  standardOnly : Bool
  partnerLost : Bool
  laneA : Bool
  laneB : Bool
  epoch : BitVec 16
  deriving DecidableEq, Repr

/-- A commit entry (R80). -/
structure CommitEntry where
  ident : Word48
  node : BitVec 8
  consist : BitVec 8
  vehicle : BitVec 8
  inverse : Bool
  consistInverse : Bool
  primary : Bool
  held : Bool
  deriving DecidableEq, Repr

/-- Vehicle and consist identity of one numbered node, as the train network directory shows them (R117). -/
structure DirIds where
  vehicle : BitVec 32
  consist : BitVec 128
  deriving DecidableEq, Repr

/-- Payload of a COMMIT (R80). DEDUCED, safe (log entry 26). -/
structure CommitBody where
  epoch : BitVec 16
  topo : BitVec 32
  countdown : BitVec 32
  nodes : BitVec 8
  consists : BitVec 8
  refEnd : Word48
  entries : List CommitEntry
  deriving DecidableEq, Repr

/-- A COMMIT with what the directory shows of its nodes (R80, R117). DEDUCED, safe (log entry 26). -/
structure CommitFrame where
  body : CommitBody
  ids : List DirIds
  deriving DecidableEq, Repr

/-- A topology that TTDP declares valid on this node (R76): what the engine takes from it. -/
structure TtdpTopology where
  epochIds : List DirIds
  entries : List CommitEntry
  topo : BitVec 32
  consists : BitVec 8
  refEnd : Word48
  deriving DecidableEq, Repr

/-! ### Time (chapter 06) -/

/-- Announce data (IEEE 802.1AS): the grandmaster's attributes and the path. -/
structure AnnounceMsg where
  prio1 : BitVec 8
  clockClass : BitVec 8
  accuracy : BitVec 8
  variance : BitVec 16
  prio2 : BitVec 8
  gm : BitVec 64
  steps : BitVec 16
  sender : BitVec 64
  utc : Int
  deriving DecidableEq, Repr

/-- The two capture inputs (R214). -/
inductive CapInput where
  | pps | tevt
  deriving DecidableEq, Repr

/-! ### Schedule (chapter 07) -/

/-- Fields of a distribution frame that every kind uses (R231). -/
structure DistHead where
  version : BitVec 8
  length : BitVec 16
  identity : BitVec 32
  generation : BitVec 32
  reserved : BitVec 32
  deriving DecidableEq, Repr

/-- Fields of a distribution frame whose use its kind decides (R231). -/
structure DistTail where
  /-- image size of an OFFER, chunk number of a REQUEST or CHUNK -/
  number : BitVec 32
  crc : BitVec 32
  activation : BitVec 64
  deriving DecidableEq, Repr

/-- Head of a distribution frame after its kind (R231). -/
structure DistHeader extends DistHead, DistTail where
  deriving DecidableEq, Repr

/-! ### Fabric (chapter 04) -/

/-- Trigger of a slice retirement (R146). DESIGN CHOICE, unsafe (log entry 113). -/
inductive SliceTrigger where
  | uncorrectable | parity | correctable
  deriving DecidableEq, Repr

/-- Failure of the LPDDR4X (R143). -/
inductive DdrFailure where
  | uncorrectable | training
  deriving DecidableEq, Repr

/-! ### Streams, message buses and gateway (chapters 08 to 10) -/

/-- An AVTP packet as it arrives (R264, R265). PRESUMED, unsafe (log entry 59). -/
structure AvtpPacket where
  dest : Word48
  vlan : BitVec 12
  subtype : BitVec 8
  tu : Bool
  seq : BitVec 8
  streamId : BitVec 64
  timestamp : BitVec 32
  format : BitVec 8
  nsr : BitVec 4
  channels : BitVec 10
  depth : BitVec 8
  data : List Byte
  deriving DecidableEq, Repr

/-- A CAN frame as a controller receives it (R302, R310). -/
structure CanFrame where
  ident : BitVec 29
  extended : Bool
  remote : Bool
  fdf : Bool
  /-- the res bit of a CAN FD frame is recessive (R299) -/
  res : Bool
  brs : Bool
  esi : Bool
  dlc : BitVec 4
  data : List Byte
  deriving DecidableEq, Repr

/-- A bus error of ISO 11898-1 (0x27x1:04), and the protocol exception of R299. -/
inductive CanErrorKind where
  | stuff | form | acknowledgement | bit1 | bit0 | crc | protocolException
  deriving DecidableEq, Repr

/-- A detected bus error: its kind, its phase, and whether a dominant bit was seen after or while the error flag was
sent, on which the change of TEC and REC depends (R298). -/
structure CanError where
  kind : CanErrorKind
  dataPhase : Bool
  dominant : Bool
  deriving DecidableEq, Repr

/-- A TRDP frame delivered to the gateway (R323, R325): the UDP frame's addresses and the TRDP header. -/
structure TrdpMsg where
  sourceIp : BitVec 32
  sourcePort : BitVec 16
  msgType : BitVec 16
  comId : BitVec 32
  topo : BitVec 32
  seq : BitVec 32
  session : BitVec 128
  fcsOk : Bool
  data : List Byte
  deriving DecidableEq, Repr

/-! ### Sleep and wake (chapter 13) -/

/-- A keep-alive frame (R395), as its payload bytes. -/
structure KeepAliveMsg where
  kind : BitVec 8
  version : BitVec 8
  flags : BitVec 8
  reserved : BitVec 8
  sender : Word48
  holder : Word48
  epoch : BitVec 16
  tailZero : Bool
  deriving DecidableEq, Repr

/-- Other wake sources accepted in the same sample: bit n − 1 for source n (R403). -/
abbrev AlsoAccepted := BitVec 17

/-! ### Supplies (chapter 16) -/

/-- A rail whose reset threshold or power-good is watched (R477). -/
inductive Rail where
  | vddioA | vddCore | pgCore | pgIo
  deriving DecidableEq, Repr

/-! ### Recorder (chapter 12) -/

/-- Cause of a medium failure (byte 19 of the alarm of R379). -/
inductive MediumCause where
  | error | timeout | readBack | absent | ddr
  deriving DecidableEq, Repr

/-- What one ageing sensor measures: its replica delay, and its shift after normalisation with its fused coefficients, both
in ps (R506). DESIGN CHOICE, unsafe (log entry 113). -/
structure SensorReading where
  delay : Int
  shift : Int
  deriving DecidableEq, Repr

/-- Outcome of the recorder's start-up scan that the medium decides (R385). -/
inductive ScanOutcome where
  | logFound | blank | failed
  deriving DecidableEq, Repr

/-- A DEBUG_ACCESS operation (R548). DESIGN CHOICE, unsafe (log entry 102); DESIGN CHOICE, unsafe (log entry 113). -/
inductive DebugOp where
  | observe | halt | resume | write
  deriving DecidableEq, Repr

/-! ### The commands -/

/-- The commands of spec/opcode_table.json, each with its rule: first those that carry
operands, then those that carry none, both in the order of the table. -/
inductive Instr where
  /-- DICTIONARY_WRITE (R35). -/
  | dictionaryWrite (t : WriteTarget)
  /-- COUNTER_CLEAR (R64). -/
  | counterClear (src : Src) (idx : BitVec 16) (sub : BitVec 8) (data : List Byte)
  /-- COMMIT (R41). -/
  | commit (src : Src) (value : Word32)
  /-- ISLAND_ACK_TIMEOUT (R45). -/
  | islandAckTimeout (island : Fin 41)
  /-- FENCE (R47). -/
  | fence (src : Src) (token : Word32)
  /-- DISCARD_STAGING (R63). -/
  | discardStaging (src : Src)
  /-- SAVE_ALL (R49). -/
  | saveAll (src : Src)
  /-- RESTORE_DEFAULTS (R49). -/
  | restoreDefaults (src : Src)
  /-- IMAGE_DATA (R50). -/
  | imageData (src : Src) (off : BitVec 32) (data : List Byte)
  /-- VERIFY_AND_STAGE (R50). -/
  | verifyAndStage (src : Src)
  /-- ABANDON_IMAGE (R66). -/
  | abandonImage (src : Src)
  /-- SDO_DOWNLOAD (R53). -/
  | sdoDownload (c : CanId) (idx : BitVec 16) (sub : BitVec 8) (data : List Byte) (finished : Bool) (fault : SdoFault)
  /-- SDO_UPLOAD (R53). -/
  | sdoUpload (c : CanId) (idx : BitVec 16) (sub : BitVec 8) (finished : Bool) (fault : SdoFault)
  /-- SDO_BLOCK_DOWNLOAD (R53). -/
  | sdoBlockDownload (c : CanId) (idx : BitVec 16) (sub : BitVec 8) (data : SdoBlock) (finished : Bool) (fault : SdoFault)
  /-- SDO_BLOCK_UPLOAD (R53). -/
  | sdoBlockUpload (c : CanId) (idx : BitVec 16) (sub : BitVec 8) (pst : SdoBlockStart) (finished : Bool) (fault : SdoFault)
  /-- SDO_SERVER_TIMEOUT (R54). -/
  | sdoServerTimeout (c : CanId)
  /-- OPEN (R542). -/
  | kdaOpen (h : KdaHeader) (payload : List Byte)
  /-- PROOF (R544). -/
  | proof (h : KdaHeader) (payload : List Byte)
  /-- CLOSE (R542). -/
  | close (h : KdaHeader)
  /-- READ (R58). -/
  | kdaRead (h : KdaHeader) (payload : List Byte)
  /-- WRITE (R58). -/
  | kdaWrite (h : KdaHeader) (payload : List Byte)
  /-- KEEPALIVE (R57). -/
  | keepalive (h : KdaHeader)
  /-- KDA_OPCODE_INVALID (R57). -/
  | kdaOpcodeInvalid (h : KdaHeader) (opcode : BitVec 8)
  /-- SESSION_EXPIRY (R59). -/
  | sessionExpiry (session : BitVec 32)
  /-- CHALLENGE_TIMEOUT (R544). -/
  | challengeTimeout (session : BitVec 32)
  /-- MB_DOORBELL (R452). -/
  | mbDoorbell (path : HostPath)
  /-- FAST_START_THERMAL_END (R23). -/
  | fastStartThermalEnd (reading : Int)
  /-- PROBE (R70). -/
  | probe (p : Port) (h : ScHeader) (b : ProbeBody)
  /-- PROBE_REPLY (R70). -/
  | probeReply (p : Port) (h : ScHeader) (b : ProbeBody)
  /-- PROBE_REPEAT (R71). -/
  | probeRepeat (p : Port)
  /-- PROBE_LOSS (R71). -/
  | probeLoss (p : Port)
  /-- HELLO (R74). -/
  | hello (p : Port) (sender : Word48) (fast : Bool)
  /-- HELLO_PERIOD (R74). -/
  | helloPeriod (p : Port)
  /-- HELLO_TIMEOUT (R71). -/
  | helloTimeout (p : Port)
  /-- TOPOLOGY (R74). -/
  | topology (p : Port) (sender : Word48) (topo : BitVec 32) (inhibit : Bool)
  /-- TTDP_TOPOLOGY_VALID (R76). -/
  | ttdpTopologyValid (t : TtdpTopology)
  /-- CLAIM (R86). -/
  | claim (p : Port) (h : ScHeader) (lowest : Word48)
  /-- CENSUS (R90). -/
  | census (p : Port) (h : ScHeader)
  /-- REPORT (R90). -/
  | report (p : Port) (h : ScHeader) (recs : List CensusRec)
  /-- SPRINGCOUNT_COMMIT (R96). -/
  | springcountCommit (p : Port) (h : ScHeader) (b : CommitFrame)
  /-- ACK (R97). -/
  | ack (p : Port) (h : ScHeader) (count : BitVec 16) (epoch : BitVec 16)
  /-- ABORT (R97). -/
  | abort (p : Port) (h : ScHeader) (cause : BitVec 8) (epoch : BitVec 16)
  /-- COMMIT_REQUEST (R108). -/
  | commitRequest (p : Port) (h : ScHeader) (epoch : BitVec 16)
  /-- STATE (R103). -/
  | state (p : Port) (h : ScHeader) (inhibit : Bool) (epoch : BitVec 16)
  /-- STATE_SILENCE (R103). -/
  | stateSilence (requester : Word48)
  /-- INHIBIT_REQUEST (R103). -/
  | inhibitRequest (src : Src) (value : BitVec 8)
  /-- LEADING_REQUEST (R112). -/
  | leadingRequest (src : Src) (value : BitVec 8)
  /-- PAIR (R105). -/
  | pair (p : Port) (h : ScHeader) (primary : Bool) (epoch : BitVec 16) (partner : Word48)
  /-- FRAME_RECEIVE (R119). -/
  | frameReceive (p : Port) (f : RxFrame) (e : EngineFault)
  /-- EGRESS_SEND (R119). -/
  | egressSend (p : Port) (q : Fin 8)
  /-- ENGINE_SELF_TEST_END (R124). -/
  | engineSelfTestEnd (engine1 pass : Bool)
  /-- LEARNED_ENTRY_AGEING (R131). -/
  | learnedEntryAgeing (row : BitVec 16)
  /-- SPILL_READBACK (R142). -/
  | spillReadback (p : Port) (q : Fin 8)
  /-- LPDDR4X_FAILURE (R143). -/
  | lpddr4xFailure (f : DdrFailure)
  /-- SLICE_FAULT (R146). -/
  | sliceFault (slice : Slice) (t : SliceTrigger)
  /-- ROTATE_SLICE (R149). -/
  | rotateSlice (src : Src) (value : BitVec 8)
  /-- LANE_UP (R164). -/
  | laneUp (p : Port)
  /-- LANE_DOWN (R164). -/
  | laneDown (p : Port)
  /-- LINK_DOWN_DEBOUNCE (R166). -/
  | linkDownDebounce (p : Port)
  /-- LINK_UP_HOLD (R169). -/
  | linkUpHold (p : Port)
  /-- PHY_RELEASE_DELAY (R169). -/
  | phyReleaseDelay (p : Port)
  /-- PHY_SCRIPT_COMPLETE (R173). -/
  | phyScriptComplete (p : Port) (ok : Bool) (record : BitVec 8)
  /-- PHY_SCRIPT_POLL_TIMEOUT (R173). -/
  | phyScriptPollTimeout (p : Port)
  /-- PHY_RESET_REQUEST (R171). -/
  | phyResetRequest (src : Src) (p : Port)
  /-- PHY_RESET_END (R171). -/
  | phyResetEnd (g : Fin 4)
  /-- PHY_INTERRUPT (R172). -/
  | phyInterrupt (g : Fin 4) (status : List (Port × BitVec 16))
  /-- PHY_STATUS_POLL (R172). -/
  | phyStatusPoll (p : Port) (status : BitVec 16)
  /-- PHY_REGISTER_READ (R174). -/
  | phyRegisterRead (src : Src) (p : Port) (answer : Option (BitVec 16))
  /-- PHY_REGISTER_WRITE (R174). -/
  | phyRegisterWrite (src : Src) (p : Port) (value : BitVec 16)
  /-- AUTO_NEGOTIATION_RESTART (R165). -/
  | autoNegotiationRestart (p : Port)
  /-- MAC_CONTROL_FRAME (R161). -/
  | macControlFrame (p : Port) (opcode : BitVec 16)
  /-- PAUSE (R181). -/
  | pause (p : Port) (quanta : BitVec 16)
  /-- PAUSE_END (R181). -/
  | pauseEnd (p : Port)
  /-- PAUSE_WATCHDOG (R182). -/
  | pauseWatchdog (p : Port)
  /-- PAUSE_HOLD_OFF_END (R182). -/
  | pauseHoldOffEnd (p : Port)
  /-- PAUSE_TIME_RESET (R182). -/
  | pauseTimeReset (p : Port)
  /-- SYNC (R205). -/
  | sync (p : Port) (seq : BitVec 16) (gm : BitVec 64) (twoStep : Bool) (origin : Int)
  /-- FOLLOW_UP (R199). -/
  | followUp (p : Port) (seq : BitVec 16) (origin : Int)
  /-- ANNOUNCE (R205). -/
  | announce (p : Port) (a : AnnounceMsg)
  /-- PDELAY_REQ (R199). -/
  | pdelayReq (p : Port) (seq : BitVec 16)
  /-- PDELAY_RESP (R199). -/
  | pdelayResp (p : Port) (seq : BitVec 16) (roundTripPs turnaroundPs : BitVec 48) (ratioPpt : Int)
  /-- PDELAY_INTERVAL (R200). -/
  | pdelayInterval (p : Port)
  /-- STEP_REQUEST (R215). -/
  | stepRequest (src : Src) (amount : BitVec 64)
  /-- CAPTURE_EDGE (R214). -/
  | captureEdge (inp : CapInput) (rising : Bool)
  /-- CAPTURE_RECORD_READ (R214). -/
  | captureRecordRead (src : Src)
  /-- TRANSMIT_TIMESTAMP_READ (R210). -/
  | transmitTimestampRead (src : Src) (p : Port)
  /-- LAUNCH_TIME (R211). -/
  | launchTime (p : Port) (q : Fin 8)
  /-- LAUNCH_LATE_DISCARD (R211). -/
  | launchLateDiscard (p : Port) (q : Fin 8)
  /-- WINDOW_OPEN (R238). -/
  | windowOpen (p : Port) (window : BitVec 16)
  /-- WINDOW_HARD_CLOSE (R239). -/
  | windowHardClose (p : Port)
  /-- RECEIVE_ENTRY_CLOSE (R246). -/
  | receiveEntryClose (p : Port) (window : BitVec 16)
  /-- OFFER (R233). -/
  | offer (p : Port) (h : DistHead) (size crc : BitVec 32) (activation : BitVec 64)
  /-- REQUEST (R233). -/
  | request (p : Port) (h : DistHead) (chunk : DistTail)
  /-- CHUNK (R233). -/
  | chunk (p : Port) (h : DistHead) (number : DistTail) (data : List Byte)
  /-- SEQUENCE_HISTORY_RESET (R244). -/
  | sequenceHistoryReset (window : BitVec 16)
  /-- AVTP_PACKET (R272). -/
  | avtpPacket (a : AvtpPacket)
  /-- TALKER_PACKET (R264). -/
  | talkerPacket (k : Fin 64) (frames : List (List (BitVec 32)))
  /-- SAMPLE_FETCH (R465). -/
  | sampleFetch (k : Fin 64)
  /-- STREAM_TIMEOUT (R275). -/
  | streamTimeout (k : Fin 64)
  /-- INTEGRATION_COMPLETE (R297). -/
  | integrationComplete (c : CanId)
  /-- CAN_FRAME_RECEIVED (R302). -/
  | canFrameReceived (c : CanId) (f : CanFrame)
  /-- CAN_RECEIVE_ERROR (R298). -/
  | canReceiveError (c : CanId) (e : CanError)
  /-- ATTEMPT_START (R306). -/
  | attemptStart (c : CanId)
  /-- ARBITRATION_LOST (R304). -/
  | arbitrationLost (c : CanId)
  /-- CAN_TRANSMIT_SUCCESS (R306). -/
  | canTransmitSuccess (c : CanId) (delay : BitVec 8)
  /-- CAN_TRANSMIT_ERROR (R305). -/
  | canTransmitError (c : CanId) (e : CanError)
  /-- BUS_OFF_HOLD_OFF_END (R297). -/
  | busOffHoldOffEnd (c : CanId)
  /-- BUS_OFF_RECOVERY_COMPLETE (R297). -/
  | busOffRecoveryComplete (c : CanId)
  /-- CANDIDATE_DWELL_END (R296). -/
  | candidateDwellEnd (c : CanId)
  /-- OBJECT_FRAME (R310). -/
  | objectFrame (src : Src) (c : CanId) (data : List Byte)
  /-- OBJECT_REQUEST (R306). -/
  | objectRequest (src : Src) (c : CanId)
  /-- OBJECT_CANCEL (R307). -/
  | objectCancel (src : Src) (c : CanId)
  /-- OBJECT_ACKNOWLEDGE (R306). -/
  | objectAcknowledge (src : Src) (c : CanId)
  /-- BUS_OFF_RECOVERY_REQUEST (R315). -/
  | busOffRecoveryRequest (src : Src) (c : CanId)
  /-- TELEGRAM_DUE (R329). -/
  | telegramDue (k : Fin 64)
  /-- CAN_OBJECT_DUE (R329). -/
  | canObjectDue (c : CanId) (o : Fin 126)
  /-- PD_TELEGRAM (R332). -/
  | pdTelegram (m : TrdpMsg)
  /-- TELEGRAM_TIMEOUT (R332). -/
  | telegramTimeout (k : Fin 64)
  /-- MR_REQUEST (R334). -/
  | mrRequest (m : TrdpMsg)
  /-- MN_NOTIFICATION (R334). -/
  | mnNotification (m : TrdpMsg)
  /-- MP_REPLY (R342). -/
  | mpReply (m : TrdpMsg)
  /-- ME_ERROR_REPLY (R342). -/
  | meErrorReply (m : TrdpMsg)
  /-- TRANSACTION_TIMEOUT (R342). -/
  | transactionTimeout (n : Fin 32)
  /-- PREFETCH_LIFETIME_END (R341). -/
  | prefetchLifetimeEnd (n : Fin 32) (addr : BitVec 16)
  /-- LOG_RECORD_READ (R343). -/
  | logRecordRead (src : Src)
  /-- SILENCE_RESET (R360). -/
  | silenceReset (ch : Fin 256)
  /-- MISMATCH_FLAG_CLEAR (R361). -/
  | mismatchFlagClear (src : Src) (word : Fin 4) (value : BitVec 64)
  /-- HOST_ENTRY (R390). -/
  | hostEntry (src : Src) (data : List Byte)
  /-- FREEZE (R377). -/
  | freeze (src : Src)
  /-- UNFREEZE (R378). -/
  | unfreeze (src : Src)
  /-- MEDIUM_FAILURE (R379). -/
  | mediumFailure (cause : MediumCause)
  /-- MEDIUM_RETRY (R380). -/
  | mediumRetry (ok : Bool)
  /-- ENTRIES_READ (R376). -/
  | entriesRead (src : Src)
  /-- SCAN_COMPLETE (R385). -/
  | scanComplete (o : ScanOutcome)
  /-- KEEP_ALIVE (R396). -/
  | keepAlive (p : Port) (m : KeepAliveMsg)
  /-- SILENT_SIDE (R397). -/
  | silentSide (rear : Bool)
  /-- HOST_AWAKE_REQUEST (R394). -/
  | hostAwakeRequest (src : Src) (value : BitVec 8)
  /-- TRAIN_WAKE_LINE (R403). -/
  | trainWakeLine (also : AlsoAccepted)
  /-- LOCAL_WAKE (R404). -/
  | localWake (b : Bool) (also : AlsoAccepted)
  /-- BUS_WAKE (R405). -/
  | busWake (c : CanId) (also : AlsoAccepted)
  /-- PHY_WAKE (R406). -/
  | phyWake (g : Fin 4) (also : AlsoAccepted)
  /-- PHY_WAKE_READOUT_END (R406). -/
  | phyWakeReadoutEnd (woken : List Port)
  /-- WAKE_TIMER (R403). -/
  | wakeTimer (also : AlsoAccepted)
  /-- COMPANION_FAULT_LINE (R423). -/
  | companionFaultLine (n : Fin 4)
  /-- STATUS_FRAME (R421). -/
  | statusFrame (n : Fin 4) (bytes : Vector Byte 8)
  /-- READ_REPLY (R421). -/
  | readReply (n : Fin 4) (bytes : Vector Byte 8)
  /-- TRANSFER_GAP (R423). -/
  | transferGap (n : Fin 4)
  /-- LINK_RETRY (R424). -/
  | linkRetry (n : Fin 4)
  /-- INRUSH_WINDOW_END (R426). -/
  | inrushWindowEnd (k : Fin 32)
  /-- RETRY_DELAY_END (R428). -/
  | retryDelayEnd (k : Fin 32)
  /-- RETRY_REFILL (R428). -/
  | retryRefill (k : Fin 32)
  /-- THERMAL_LATCH_RELEASE (R429). -/
  | thermalLatchRelease (k : Fin 32)
  /-- CLAMP_BIN_EXPIRY (R430). -/
  | clampBinExpiry (k : Fin 32)
  /-- UNLOCK (R430). -/
  | unlock (src : Src) (n : Fin 4) (value : BitVec 8)
  /-- PULSE_EDGE (R431). -/
  | pulseEdge (k : Fin 32)
  /-- COMMAND (R438). -/
  | command (src : Src) (k : Fin 32) (value : BitVec 8)
  /-- RESTORE_SLOT (R435). -/
  | restoreSlot (n : Fin 4)
  /-- INT_STATUS_CLEAR (R454). -/
  | intStatusClear (path : HostPath) (value : Word32)
  /-- TIME_LO_READ (R457). -/
  | timeLoRead (path : HostPath)
  /-- TCAP_TRIGGER (R458). -/
  | tcapTrigger (path : HostPath)
  /-- TCAP_HI_READ (R458). -/
  | tcapHiRead (path : HostPath)
  /-- TCAP_STATUS_READ (R458). -/
  | tcapStatusRead (path : HostPath)
  /-- HSP_STATUS_READ (R450). -/
  | hspStatusRead (path : HostPath)
  /-- DROPS_READ (R459). -/
  | dropsRead (path : HostPath) (ring : Fin 10)
  /-- RING_ENABLE (R459). -/
  | ringEnable (path : HostPath) (ring : Fin 10)
  /-- RING_DISABLE (R459). -/
  | ringDisable (path : HostPath) (ring : Fin 10)
  /-- TAIL (R459). -/
  | tail (path : HostPath) (ring : Fin 10) (value : Word32)
  /-- DMA_ERROR (R466). -/
  | dmaError (ring : Fin 10)
  /-- DMA_COMPLETION_TIMEOUT (R466). -/
  | dmaCompletionTimeout (ring : Fin 10)
  /-- SERIAL_WRITE (R449). -/
  | serialWrite (address : SerialRange) (data : List Byte) (crc : Byte)
  /-- SERIAL_READ (R448). -/
  | serialRead (address : BitVec 13) (words : Nat)
  /-- SERIAL_UNKNOWN_COMMAND (R449). -/
  | serialUnknownCommand (command : BitVec 8)
  /-- SUPPLY_WARNING (R475). -/
  | supplyWarning (core : Bool) (mv : BitVec 16)
  /-- SUPPLY_WARNING_CLEAR (R475). -/
  | supplyWarningClear (core : Bool)
  /-- SUPPLY_RESET (R477). -/
  | supplyReset (rail : Rail)
  /-- POWER_GOOD_LOSS (R477). -/
  | powerGoodLoss (io : Bool)
  /-- POR_N_RELEASED (R483). -/
  | porNReleased (straps : BitVec 4) (test : Bool)
  /-- FIRMWARE_IMAGE_DATA (R485). -/
  | firmwareImageData (src : Src) (off : BitVec 32) (data : List Byte)
  /-- VERIFY_AND_WRITE (R485). -/
  | verifyAndWrite (src : Src)
  /-- FIRMWARE_ABANDON (R502). -/
  | firmwareAbandon (src : Src)
  /-- WARM_RESET (R501). -/
  | warmReset (src : Src)
  /-- BYPASS_REFRESH_LOSS (R495). -/
  | bypassRefreshLoss (laneB : Bool)
  /-- PMBUS_ALERT (R473). -/
  | pmbusAlert (status : BitVec 16)
  /-- GPIO_OUTPUT (R569). -/
  | gpioOutput (src : Src) (value : BitVec 8)
  /-- JUNCTION_TEMPERATURE_MAXIMUM (R580). -/
  | junctionTemperatureMaximum (reading : Int)
  /-- SENSOR_SCAN (R506). -/
  | sensorScan (readings : List SensorReading)
  /-- READ_VOUT (R516). -/
  | readVout (mv : BitVec 16)
  /-- SNAPSHOT_NOW (R524). -/
  | snapshotNow (src : Src)
  /-- TRACKER_RESET (R528). -/
  | trackerReset (src : Src)
  /-- SECURE (R534). -/
  | secure (src : Src)
  /-- VOID (R534). -/
  | void (src : Src)
  /-- RETURN_TOKEN (R534). -/
  | returnToken (src : Src) (token : List Byte)
  /-- AUTH_RESPONSE (R547). -/
  | authResponse (token : List Byte)
  /-- DEBUG_ACCESS (R548). -/
  | debugAccess (op : DebugOp)
  /-- BYPASS (R546). -/
  | bypass (code : BitVec 5)
  /-- DMA_READ_COMPLETION (R461). -/
  | dmaReadCompletion (ring : Fin 10) (bytes : List Byte)
  /-- WAKE_INPUT_INACTIVE (R404). -/
  | wakeInputInactive (source : Fin 18)
  /-- RING_MODERATION_END (R459). -/
  | ringModerationEnd (ring : Fin 10)
  /-- APPLY_POINT (R43). -/
  | applyPoint
  /-- COMMIT_HOLD_RELEASE (R45). -/
  | commitHoldRelease
  /-- COMMIT_HOLD_TIMEOUT (R45). -/
  | commitHoldTimeout
  /-- FENCE_COMPLETE (R47). -/
  | fenceComplete
  /-- STAGING_IDLE_TIMEOUT (R39). -/
  | stagingIdleTimeout
  /-- IMAGE_VERIFICATION_END (R50). -/
  | imageVerificationEnd
  /-- KDA_LOCKOUT_END (R544). -/
  | kdaLockoutEnd
  /-- FAST_START_TIMEOUT (R23). -/
  | fastStartTimeout
  /-- ENGINE_TEST_STEP (R21). -/
  | engineTestStep
  /-- SETTLE_TIMER (R87). -/
  | settleTimer
  /-- CENSUS_TIMEOUT (R91). -/
  | censusTimeout
  /-- ACK_DEADLINE (R97). -/
  | ackDeadline
  /-- CENSUS_WAIT_TIMEOUT (R111). -/
  | censusWaitTimeout
  /-- COMMIT_WAIT_TIMEOUT (R111). -/
  | commitWaitTimeout
  /-- BACK_OFF_END (R89). -/
  | backOffEnd
  /-- SWITCH_POINT (R98). -/
  | switchPoint
  /-- OVERLAP_END (R101). -/
  | overlapEnd
  /-- COMMIT_REQUEST_TIMEOUT (R108). -/
  | commitRequestTimeout
  /-- STATE_REPEAT (R103). -/
  | stateRepeat
  /-- PAIR_PERIOD (R105). -/
  | pairPeriod
  /-- PAIR_LOSS (R106). -/
  | pairLoss
  /-- SPARE_TEST_PASS (R145). -/
  | spareTestPass
  /-- SPARE_TEST_FAILURE (R150). -/
  | spareTestFailure
  /-- ROTATION_COMPLETE (R149). -/
  | rotationComplete
  /-- SYNC_INTERVAL (R199). -/
  | syncInterval
  /-- ANNOUNCE_INTERVAL (R199). -/
  | announceInterval
  /-- SYNC_RECEIPT_TIMEOUT (R205). -/
  | syncReceiptTimeout
  /-- ANNOUNCE_RECEIPT_TIMEOUT (R216). -/
  | announceReceiptTimeout
  /-- STEP_POINT (R204). -/
  | stepPoint
  /-- HOLDOVER_LIMIT (R205). -/
  | holdoverLimit
  /-- ROUND_HOLD_END (R207). -/
  | roundHoldEnd
  /-- PPS_OUT_PULSE (R212). -/
  | ppsOutPulse
  /-- TEVT_OUT_PULSE (R213). -/
  | tevtOutPulse
  /-- PPS_IN_LOSS (R215). -/
  | ppsInLoss
  /-- TRACKER_UPDATE (R509). -/
  | trackerUpdate
  /-- TRACKER_HOURLY_MEAN (R508). -/
  | trackerHourlyMean
  /-- GATE_BANK_BUILT (R230). -/
  | gateBankBuilt
  /-- GATE_SWITCH_BOUNDARY (R250). -/
  | gateSwitchBoundary
  /-- CYCLE_BOUNDARY (R249). -/
  | cycleBoundary
  /-- OFFER_PERIOD (R232). -/
  | offerPeriod
  /-- CHUNK_TIMEOUT (R233). -/
  | chunkTimeout
  /-- SCHEDULE_IMAGE_VERIFIED (R233). -/
  | scheduleImageVerified
  /-- ACTIVATION_BOUNDARY (R234). -/
  | activationBoundary
  /-- HOLDOVER_FENCE_TIME (R247). -/
  | holdoverFenceTime
  /-- STREAM_SWITCH_BOUNDARY (R276). -/
  | streamSwitchBoundary
  /-- RESERVATION_BANK_BUILT (R267). -/
  | reservationBankBuilt
  /-- REPHASE_END (R278). -/
  | rephaseEnd
  /-- FLUSH_DELAY (R374). -/
  | flushDelay
  /-- LOG_WRITE_COMPLETE (R375). -/
  | logWriteComplete
  /-- FREEZE_LIMIT (R378). -/
  | freezeLimit
  /-- KEEP_ALIVE_PERIOD (R396). -/
  | keepAlivePeriod
  /-- MAXIMUM_AWAKE_EXPIRY (R394). -/
  | maximumAwakeExpiry
  /-- POST_WAKE_HOLD_END (R393). -/
  | postWakeHoldEnd
  /-- READY_SLEEP_EXPIRY (R399). -/
  | readySleepExpiry
  /-- QUIESCE (R400). -/
  | quiesce
  /-- SLEEP_ENTRY (R400). -/
  | sleepEntry
  /-- TWL_OUT_PULSE_END (R409). -/
  | twlOutPulseEnd
  /-- PERST_N_FALL (R447). -/
  | perstNFall
  /-- PERST_N_RISE (R447). -/
  | perstNRise
  /-- FUNCTION_LEVEL_RESET (R467). -/
  | functionLevelReset
  /-- SUPPLY_RETURN (R477). -/
  | supplyReturn
  /-- POR_N_ASSERTED (R478). -/
  | porNAsserted
  /-- PG_CORE_RISE (R471). -/
  | pgCoreRise
  /-- PG_IO_RISE (R483). -/
  | pgIoRise
  /-- RAIL_ENABLE_TIMEOUT (R471). -/
  | railEnableTimeout
  /-- RAIL_ENABLE_RETRY (R471). -/
  | railEnableRetry
  /-- IMAGE_SELECTION_RETRY (R484). -/
  | imageSelectionRetry
  /-- CONTROL_COMPLEX_READY (R489). -/
  | controlComplexReady
  /-- WATCHDOG_WRITE (R489). -/
  | watchdogWrite
  /-- WATCHDOG_TRIP (R490). -/
  | watchdogTrip
  /-- STABLE_TIME (R491). -/
  | stableTime
  /-- IMAGE_CONFIRM (R482). -/
  | imageConfirm
  /-- FIRMWARE_WRITE_END (R485). -/
  | firmwareWriteEnd
  /-- WAKE_BOOT_TIMEOUT (R496). -/
  | wakeBootTimeout
  /-- HEARTBEAT_LOSS (R28). -/
  | heartbeatLoss
  /-- PLANNING_PERIOD (R511). -/
  | planningPeriod
  /-- PLAN_APPLY (R516). -/
  | planApply
  /-- READ_VOUT_TIMEOUT (R519). -/
  | readVoutTimeout
  /-- HEALTH_RECORD_WRITE (R510). -/
  | healthRecordWrite
  /-- SNAPSHOT_PERIOD (R524). -/
  | snapshotPeriod
  /-- EXTEST (R546). -/
  | extest
  /-- IDCODE (R546). -/
  | idcode
  /-- SAMPLE_PRELOAD (R546). -/
  | samplePreload
  /-- AUTH_CHALLENGE (R547). -/
  | authChallenge
  /-- SCAN_TEST (R548). -/
  | scanTest
  /-- DEBUG_PORT_RESET (R546). -/
  | debugPortReset
  /-- GRANT_EXPIRY (R547). -/
  | grantExpiry
  /-- DEBUG_LOCKOUT_END (R547). -/
  | debugLockoutEnd
  /-- RANDOM_SOURCE_FAILURE (R540). -/
  | randomSourceFailure
  /-- RANDOM_SOURCE_RECOVERY (R540). -/
  | randomSourceRecovery
  /-- RETIREMENT_COMPLETE (R147). -/
  | retirementComplete
  /-- PPS_OUT_PULSE_END (R212). -/
  | ppsOutPulseEnd
  /-- TEVT_OUT_PULSE_END (R213). -/
  | tevtOutPulseEnd
  /-- PPS_IN_HOLDOVER_LIMIT (R215). -/
  | ppsInHoldoverLimit
  deriving DecidableEq, Repr

end Sys2Proof
end

