-- ==== Sys2Proof/WellFormed.lean ====
section
/-! DEFINITION. What the types of the operands leave open about a command as it can reach the device: the lengths of frames
and records, and relations between the fields of one operand.  `exec` does not depend on these checks; they say which
terms stand for something that the spec describes. -/

namespace Sys2Proof

/-- Data bytes that a DLC stands for (R310): up to 8 in a classical frame, up to 64 in a CAN FD frame. -/
def dlcLength (fdf : Bool) (dlc : BitVec 4) : Nat :=
  if dlc.toNat ≤ 8 then dlc.toNat
  else if !fdf then 8
  else match dlc.toNat with
    | 9 => 12
    | 10 => 16
    | 11 => 20
    | 12 => 24
    | 13 => 32
    | 14 => 48
    | _ => 64

/-- A CAN frame as ISO 11898-1 allows it (R290): data as its DLC says, a base identifier of 11 bits, no remote CAN FD
frame, bit rate switching and the res bit in CAN FD only. -/
def CanFrame.ok (f : CanFrame) : Bool :=
  (if f.remote then f.data.isEmpty else f.data.length == dlcLength f.fdf f.dlc) &&
    (f.extended || decide (f.ident.toNat < 2048)) && !(f.remote && f.fdf) && (f.fdf || !(f.brs || f.res))

/-- A received Ethernet frame, runts and oversize frames among them (R175), as far as the device looks at it: an oversize
frame is cut at the byte after the length limit, which is at most 9,216 (R176). -/
def RxFrame.ok (f : RxFrame) : Bool := decide (f.bytes.length ≤ 9217)

/-- A COMMIT has no consist number above its consist count (R80, R93). -/
def CommitBody.ok (b : CommitBody) : Bool := b.entries.all (fun e => decide (e.consist.toNat ≤ b.consists.toNat))

/-- A Springcount frame names a node that is not nil (R6, R78). -/
def ScHeader.ok (h : ScHeader) : Bool := h.originator != 0

/-- The checks on a command. -/
def Instr.wellFormed : Instr → Bool
  | .frameReceive _ f _ => f.ok
  | .canFrameReceived _ f => f.ok
  | .probe _ h _ => h.ok
  | .probeReply _ h _ => h.ok
  | .claim _ h _ => h.ok
  | .census _ h => h.ok
  | .report _ h _ => h.ok
  | .springcountCommit _ h b => h.ok && b.body.ok && b.ids.length == b.body.entries.length
  | .ack _ h _ _ => h.ok
  | .abort _ h _ _ => h.ok
  | .commitRequest _ h _ => h.ok
  | .state _ h _ _ => h.ok
  | .pair _ h _ _ _ => h.ok
  | .macControlFrame _ opcode => opcode != 1
  | .ttdpTopologyValid t => t.entries.length == t.epochIds.length
  | .sensorScan r => r.length == 128
  | .pdTelegram m => decide (m.data.length ≤ 1432)
  | .avtpPacket a => decide (a.data.length ≤ 1476)
  | .chunk _ _ _ d => decide (d.length ≤ 1024)
  | _ => true

end Sys2Proof
end

