-- ==== Sys2Proof/Decode.lean ====
section
/-! DEFINITION. The command that a table word spells.  spec/opcode_table.json gives its rows no bits ("fields" is empty in
every row), so no word spells a command: the commands arrive at the balls in the formats of their own chapters. -/

namespace Sys2Proof

/-- The command that the bits of a table row spell: no row has bits, so there is none. DESIGN CHOICE, safe (log entry 1). -/
def decodeTableWord (_nbits _w : Nat) : Option Instr := none

end Sys2Proof
end

