-- ==== Sys2Proof/Config.lean ====
section
/-! DEFINITION. The free values of the model: what the spec leaves open, or gives by reference to a standard's
cryptography or to another maker's computation.  Each is an opaque constant without a body, so that no proof can see a
value of it.  Every one is named in notes/assumptions. -/

namespace Sys2Proof.Config

/-- A natural number that the spec leaves open; the argument is the value counter of the state (`Dev.fresh`). DESIGN CHOICE,
safe (log entry 7). -/
opaque freeNat : Nat → Nat

/-- An integer that the spec leaves open (the servo's choice of rate, R203). DESIGN CHOICE, safe (log entry 7). -/
opaque freeInt : Nat → Int

/-- Bytes from the device's random source (R540, R545, R547): value counter and length. DESIGN CHOICE, safe (log entry 8). -/
opaque randomBytes : Nat → Nat → List Byte

/-- The ETB topology counter of IEC 61375-2-5 over a numbered train, given as the bytes of its commit entries and identities
(R93). PRESUMED, safe (log entry 11). -/
opaque etbTopoCount : List Byte → BitVec 32

/-- Body of a gPTP message after its header of 34 bytes, by value counter and message type (IEEE 802.1AS). PRESUMED, safe
(log entry 121). -/
opaque ptpBody : Nat → Nat → List Byte

/-- Payload of a TTDP HELLO frame (IEC 61375-2-5): sender, port, whether its mode is fast, and the sender's inhibition.
PRESUMED, safe (log entry 121). -/
opaque helloBody : Nat → Nat → Bool → Bool → List Byte

/-- Payload of a TTDP TOPOLOGY frame (IEC 61375-2-5): sender, topology counter, the numbering's bytes, and the sender's
inhibition. PRESUMED, safe (log entry 121). -/
opaque topologyBody : Nat → Nat → List Byte → Bool → List Byte

/-- The MAC address of a device with an IPv4 address of the consist. PRESUMED, safe (log entry 121). -/
opaque macOf : Nat → Nat

/-- ECDSA P-256 verification: public key, message, signature (R535). DESIGN CHOICE, safe (log entry 8). -/
opaque ecdsaVerify : List Byte → List Byte → List Byte → Bool

/-- An ECDSA P-256 signature under the device key (R542). DESIGN CHOICE, safe (log entry 8). -/
opaque ecdsaSign : List Byte → List Byte

/-- AES-256-CMAC under a session key (R56, R543). DESIGN CHOICE, safe (log entry 8). -/
opaque aesCmac : List Byte → List Byte → List Byte

/-- HKDF-SHA-256: a session key from the shared secret, the salt and the info (R543). DESIGN CHOICE, safe (log entry 8). -/
opaque deriveKey : List Byte → List Byte → List Byte → List Byte

/-- SHA-256 (R535). DESIGN CHOICE, safe (log entry 8). -/
opaque sha256 : List Byte → List Byte

/-- ECDH P-256: the device's ephemeral key, numbered by the value counter, and a peer's public key (R543). DESIGN CHOICE,
safe (log entry 8). -/
opaque ecdhShared : Nat → List Byte → List Byte

/-- Stantoune's public keys by number (R535). DESIGN CHOICE, safe (log entry 8). -/
opaque stantouneKey : Nat → List Byte

/-- The device's public key, made at manufacture (R541). DESIGN CHOICE, safe (log entry 8). -/
opaque devicePublicKey : List Byte

/-- The device's certificate, signed by the Stantoune service key (R541). DESIGN CHOICE, safe (log entry 8). -/
opaque deviceCertificate : List Byte

/-- The device's ephemeral public key, numbered by the value counter (R542, R543). DESIGN CHOICE, safe (log entry 8). -/
opaque ephemeralKey : Nat → List Byte

/-- The entry writes that a verified configuration image holds (R50): index, subindex, offset and bytes. DESIGN CHOICE, safe
(log entry 9). -/
opaque imageWrites : List Byte → List (Nat × Nat × Nat × List Byte)

/-- What the head of a configuration image names (R50): product code, firmware major line and image identifier. DESIGN
CHOICE, safe (log entry 9). -/
opaque imageHead : List Byte → Nat × Nat × Nat

/-- The event catalogue of the running firmware, 0x2A05:01 (R370). DESIGN CHOICE, safe (log entry 10). -/
opaque eventCatalogue : List Byte

end Sys2Proof.Config
end

