-- ==== Sys2Proof/Machine/State.lean ====
section
/-! DEFINITION. The state of the KZ8840 as plain data: one record for each subsystem (R10, R16), the object dictionary with
its staging set, what the commands of a moment send out, and the queue of the commands that wait. -/

namespace Sys2Proof.Machine

/-- Why the device would stop.  No command of the spec stops it, so no meaning raises a fault. DESIGN CHOICE, safe (log entry
104). -/
inductive Fault where
  /-- Stress beyond an absolute maximum rating (R576), after which the spec promises nothing.  Raised by no command,
  because no command of the table carries such a stress; a stop there would be safe. -/
  | stress
  deriving DecidableEq, Repr

/-- Why a command has no meaning. -/
inductive Refusal where
  /-- Raised by an arm of `exec` whose command has no meaning yet; safe. -/
  | notModelled (mnemonic : String)
  deriving DecidableEq, Repr

/-! ### Dictionary values and entries (chapter 02) -/

/-- A dictionary value: a number of a fixed-size type as its unsigned encoding (R30), or the bytes of a string or domain. -/
inductive Value where
  | num (n : Nat)
  | bytes (bs : List Byte)
  deriving DecidableEq, Repr

/-- Type of an entry (R30); the argument of a string or domain type is its greatest length in bytes. -/
inductive EntryType where
  | bool | u8 | u16 | u32 | u64 | i8 | i16 | i32 | i64
  | vstr (max : Nat) | ostr (max : Nat) | domain (max : Nat)
  deriving DecidableEq, Repr

/-- Persistence class (R33). -/
inductive Persist where
  | vol | sto | fac
  deriving DecidableEq, Repr

/-- Default of an entry row: a number, the index less a base, or bytes. -/
inductive Dflt where
  | n (v : Nat)
  | off (base : Nat)
  | nil
  | str (s : String)
  | bytes16
  | candidates
  deriving DecidableEq, Repr

/-- What rows 3 and 4 of R35 accept beyond the type (R603, R604). DESIGN CHOICE, unsafe (log entry 107). -/
inductive Range where
  | any
  | rng (lo hi : Int)
  /-- a range, or one value beside it -/
  | rngOr (lo hi special : Int)
  | oneOf (vs : List Int)
  | mask (m : Nat)
  | maskNonzero (m : Nat)
  /-- Observer, Operator or Maintainer; Vendor is refused as too high (R65, R555) -/
  | role
  /-- a counter: 0 only, at once -/
  | zero
  /-- one length; every other is refused with 0x0607_0010 -/
  | lenNamed (n : Nat)
  /-- one length within the bounds of its type -/
  | lenExact (n : Nat)
  | lenRange (lo hi : Nat)
  /-- a whole number of records -/
  | records (size lo hi : Nat)
  | lwake
  | busFilter
  | phyGroup
  | evSource
  deriving DecidableEq, Repr

/-- A row of the entry tables. -/
structure EntryRow where
  base : Nat
  count : Nat
  stride : Nat
  subLo : Nat
  subCount : Nat
  ty : EntryType
  /-- rights of Observer, Operator, Maintainer, Vendor in four hexadecimal digits: 1 read, 2 write -/
  acc : Nat
  dflt : Dflt
  pers : Persist
  imm : Bool
  /-- "applies at schedule cycle boundary" (R43) -/
  atBoundary : Bool
  range : Range
  deriving DecidableEq, Repr

/-- A session that can own the staging set (R39). -/
inductive Session where
  | sdo (c : Nat)
  | kda (id : BitVec 32)
  | pcie
  | serial
  deriving DecidableEq, Repr

/-- One staged write with its staged value (R39, R602). -/
structure Staged where
  idx : Nat
  sub : Nat
  val : Value
  /-- offset and length of each write to a large-table segment (R69) -/
  spans : List (Nat × Nat)
  deriving DecidableEq, Repr

/-- What a request asks (R58, R61). -/
inductive ReqOp where
  | read (wanted : Nat)
  | write (data : List Byte)
  deriving DecidableEq, Repr

/-- A request at the dictionary agent. -/
structure Req where
  src : Src
  idx : Nat
  sub : Nat
  off : Nat
  op : ReqOp
  /-- what the PHY answers to an MDIO read that the request makes (R174); none leaves it free -/
  phy : Option (BitVec 16)
  deriving DecidableEq, Repr

/-- A set handed to the commit controller (R43). -/
structure Commit where
  src : Src
  staged : List Staged
  /-- apply point, train time ns -/
  applyAt : Nat
  atBoundary : Bool
  /-- identifier and security version of the configuration image it carries (R50, R539) -/
  image : Option (Nat × Nat)
  deriving DecidableEq, Repr

/-- A commit held during an inauguration (R45). -/
structure HeldCommit where
  src : Src
  deadline : Nat
  /-- train epoch when the commit was written -/
  epoch : Nat
  deriving DecidableEq, Repr

/-- One copy of the configuration region: its header, and its records as the committed values and table bytes that differ
from the defaults (R48). -/
structure CfgCopy where
  magic : BitVec 32
  generation : Nat
  /-- number of records, and bytes of records -/
  count : Nat
  size : Nat
  epoch : Nat
  imageId : Nat
  product : BitVec 32
  majorLine : BitVec 8
  crc : BitVec 32
  values : List (Nat × Value)
  tables : List Host.Cell
  /-- marked so that the next boot uses defaults (R49) -/
  marked : Bool
  deriving DecidableEq, Repr

/-- A segmented or block SDO transfer in progress (R54). -/
structure SdoXfer where
  idx : Nat
  sub : Nat
  deadline : Nat
  deriving DecidableEq, Repr

/-- Protocol of the request that an SDO server serves (R53): expedited or segmented, block download, or block upload with
the client's protocol switch threshold. -/
inductive SdoMode where
  | normal | blockDown | blockUp (threshold : Nat)
  deriving DecidableEq, Repr

/-- Answer to a request (R58, R61). -/
structure Resp where
  idx : Nat
  sub : Nat
  write : Bool
  abort : Nat
  data : List Byte
  total : Nat
  deriving DecidableEq, Repr

/-- A KDA session (R55 to R60), open or half open (R544). -/
structure KdaSession where
  id : BitVec 32
  open_ : Bool
  role : Nat
  /-- where the last valid frame came from (R60) -/
  peer : KdaPeer
  key : List Byte
  /-- T of R543: the OPEN payload, bytes 0 to 79 of the CHALLENGE payload and the session identifier -/
  transcript : List Byte
  lastSeq : BitVec 32
  /-- opcode and payload of the stored response; none while a request is outstanding (R59) -/
  stored : Option (Nat × List Byte)
  deadline : Nat
  deriving DecidableEq, Repr

/-- Island 35's dictionary agent with the committed dictionary. -/
structure DictS where
  /-- committed values that differ from the entry's default, keyed by 256 × index + subindex, rising -/
  od : List (Nat × Value)
  /-- bytes of the large tables (R69) that are not 0, at 4096 × (256 × (index − 0x5000) + subindex) + offset -/
  mem : List Host.Cell
  epoch : Nat
  fenceToken : Nat
  staged : List Staged
  owner : Option Session
  idleDeadline : Option Nat
  lastRefused : Bool
  commit : Option Commit
  heldCommit : Option HeldCommit
  fence : Option (Src × Nat)
  queue : List Req
  copy0 : CfgCopy
  copy1 : CfgCopy
  image : List Byte
  imageStatus : Nat
  /-- session whose write of 1 to 0x2011:02 awaits the end of the verification -/
  imageBy : Option Src
  /-- identifier and security version of the image whose writes are in the staging set -/
  imageStaged : Option (Nat × Nat)
  sdo : Vector (Option SdoXfer) 8
  sdoMode : Vector SdoMode 8
  sessions : List KdaSession
  /-- a commit's answer that waits for the restart of the control complex (R498) -/
  owed : Option (Src × Nat)
  kdaSecond : Nat
  kdaCount : Vector Nat 20
  deriving DecidableEq, Repr
/-! ### The node as a whole (chapters 00 and 01) -/

/-- What is fused or fitted at manufacture and never changes in the field (R2, R6, R143, R480). DESIGN CHOICE, unsafe (log
entry 92). -/
structure ChipS where
  ident : Word48
  /-- EX grade -/
  ex : Bool
  /-- fitted LPDDR4X, MiB; 0 when none is fitted -/
  ddrMiB : Nat
  /-- an eMMC is fitted and answers -/
  emmc : Bool
  /-- the VDD_CORE regulator answers on PMBus, in linear mode (R473) -/
  regLinear : Bool
  /-- slices and lookup engines that fail their tests at boot (R151) -/
  badSlices : List Slice
  badEngine0 : Bool
  badEngine1 : Bool
  /-- slots of the Tarn entry area whose writes fail their read-back (R382) -/
  tarnBad : List Nat
  deriving DecidableEq, Repr

/-- Operating profiles (R21 to R23) and the readings of the whole chip. -/
structure NodeS where
  /-- active profile, 0 to 4 -/
  profile : Nat
  /-- profile before Fast-start -/
  before : Nat
  fastEnd : Option Nat
  fastEndedAt : Option Nat
  /-- junction temperature, units of 0.1 °C (R507) -/
  junction : Int
  vddio : Nat
  vcore : Nat
  /-- the next step of Test-in-service: slices and engines in turn (R21) -/
  testStep : Nat
  /-- a step of Test-in-service is under way (R21) -/
  stepBusy : Bool
  /-- the built-in self-tests of Commissioning run (R21, R23) -/
  selfTests : Bool
  /-- profile that follows the end of the step (R23) -/
  nextProfile : Option Nat
  /-- last severity 7 event of R580 -/
  overTempAt : Option Nat
  deriving DecidableEq, Repr
/-! ### Inauguration (chapter 03) -/

/-- State of the inauguration engine (R111); the code is 0x2101:01. -/
inductive InState where
  | unnumbered | steady | claiming | census | reporting | committing | standard | held | late
  deriving DecidableEq, Repr

/-- A neighbour heard on a backbone port (R70, R71). -/
structure Neighbour where
  ident : Word48
  /-- a PROBE or PROBE_REPLY has arrived from it -/
  probed : Bool
  deadline : Nat
  deriving DecidableEq, Repr

/-- Discovery on one backbone port. -/
structure BackPort where
  heard : Option Neighbour
  /-- PROBEs are sent every 1 ms (R71) -/
  fast : Bool
  /-- the TTDP mode in force on the port is fast -/
  ttdpFast : Bool
  unanswered : Nat
  standardOnly : Bool
  probeDue : Option Nat
  helloDue : Option Nat
  deriving DecidableEq, Repr

/-- Key of a Springcount frame (R81). -/
structure ScKey where
  kind : Nat
  originator : Word48
  round : BitVec 16
  seq : BitVec 16
  segment : BitVec 8
  deriving DecidableEq, Repr

/-- An accepted copy of a Springcount frame: its key, when it arrived and whether it is the lane B copy (R81). -/
structure ScSeen where
  key : ScKey
  time : Nat
  laneB : Bool
  deriving DecidableEq, Repr

/-- A segment of a REPORT as the leader holds it (R90, R91). -/
structure ReportSegment where
  segment : Nat
  more : Bool
  recs : List CensusRec
  deriving DecidableEq, Repr

/-- A CLAIM of a higher round that is held until the switch point (R110): its round, its identity and when its first copy
arrived. -/
structure HeldClaim where
  round : BitVec 16
  lowest : Word48
  time : Nat
  deriving DecidableEq, Repr

/-- One row of the train network directory (R117). -/
structure DirNode where
  ident : Word48
  vehicle : Nat
  consist : Nat
  inverse : Bool
  consistInverse : Bool
  primary : Bool
  held : Bool
  vehicleId : BitVec 32
  consistId : BitVec 128
  deriving DecidableEq, Repr

/-- A numbering of the train under one epoch. -/
structure Numbering where
  epoch : Nat
  topo : BitVec 32
  node : Nat
  consist : Nat
  vehicle : Nat
  inverse : Bool
  consistInverse : Bool
  primary : Bool
  refEnd : Word48
  consists : Nat
  dir : List DirNode
  deriving DecidableEq, Repr

/-- An accepted COMMIT (R96): its body, the identities that the directory of its epoch shows (R117), the local time of the
switch point and the side it came from. -/
structure AcceptedCommit where
  body : CommitBody
  ids : List DirIds
  originator : Word48
  switchAt : Nat
  fromRear : Option Bool
  deriving DecidableEq, Repr

/-- Island 31. -/
structure InaugS where
  state : InState
  standard : Bool
  round : BitVec 16
  now : Numbering
  prev : Option Numbering
  /-- 0x2104:03 -/
  prevEpoch : Nat
  overlapEnd : Option Nat
  leader : Word48
  roundStart : Option Nat
  /-- the round's start counts from the node's own detection (R113) -/
  roundOwn : Bool
  ports : Vector BackPort 4
  /-- the lane B port of the side passes TTDP and Springcount only (R72): front, rear -/
  crossedFront : Bool
  crossedRear : Bool
  lowest : Word48
  settle : Option Nat
  censusWait : Option Nat
  commitWait : Option Nat
  /-- leader: deadline of the census (R91) and of the ACKs (R97) -/
  censusDeadline : Option Nat
  ackDeadline : Option Nat
  backOff : Option Nat
  requestDeadline : Option Nat
  /-- ports whose neighbour has been asked for a COMMIT (R108) -/
  asked : List Port
  /-- REPORT segments collected by the leader: front and rear -/
  frontSegs : List ReportSegment
  rearSegs : List ReportSegment
  /-- sides from which the leader waits for no REPORT: front and rear -/
  frontDone : Bool
  rearDone : Bool
  /-- side from which the CENSUS came (true: rear) -/
  censusFromRear : Option Bool
  accepted : Option AcceptedCommit
  lastCommit : Option AcceptedCommit
  acksFront : Nat
  acksRear : Nat
  seen : List ScSeen
  seq : BitVec 16
  heldClaim : Option HeldClaim
  /-- when the node detected a change that waits for the switch point, and the ports that revealed it (R110) -/
  heldOwn : Option (Nat × List Port)
  failedRounds : Nat
  /-- requesters of inhibit with their expiry; none for the node's own (R103) -/
  requesters : List (Word48 × Option Nat)
  ttdpInhibit : Bool
  stateDue : Option Nat
  heldCouplings : List Port
  /-- a change of configuration is held as a coupling (R110) -/
  heldConfig : Bool
  /-- the accepted COMMIT is a copy that a neighbour returned (R108) -/
  lateCopy : Bool
  partner : Option Word48
  partnerPrimary : Bool
  pairDeadline : Option Nat
  pairDue : Option Nat
  pairState : Nat
  partnerLost : Bool
  outage : Bool
  /-- an outage of the pair has ended, so its state follows the numbering at each switch point (R106) -/
  follows : Bool
  deriving DecidableEq, Repr
/-! ### Switching fabric (chapter 04) -/

/-- Where a write-back is due when a frame has left or was discarded (R461). -/
structure HostOrigin where
  ring : Fin 10
  index : Nat
  /-- byte 11 of the descriptor as fetched -/
  flags : Byte
  /-- which enabling of the ring the descriptor belongs to -/
  session : Nat
  deriving DecidableEq, Repr

/-- One copy of a frame in a queue (R119). -/
structure QFrame where
  /-- number that its copies share -/
  uid : Nat
  bytes : List Byte
  ingress : Option Port
  /-- decided queue class, 0 to 7 -/
  cls : Nat
  vlan : Nat
  pcp : Nat
  /-- train time of its timestamp point in units of 0.5 ns; local time at which it reached this queue -/
  stamp : Nat
  queuedAt : Nat
  stepGen : Nat
  unsure : Bool
  epoch : Nat
  prevBank : Bool
  copyToHost : Bool
  untranslatable : Bool
  errFlags : Nat
  /-- the bytes that end the frame where they are not its right FCS (R176, R177) -/
  trailer : Option (List Byte)
  /-- it may be sent cut-through (R120) -/
  cut : Bool
  spilled : Bool
  /-- window of the gate list entry that classed it Q6 -/
  window : Option Nat
  launch : Option (BitVec 32)
  tsIdent : Option Nat
  host : Option HostOrigin
  deriving DecidableEq, Repr

/-- State of a lookup engine (R125). -/
inductive EngineState where
  | inService | selfTest | retired
  deriving DecidableEq, Repr

/-- A slice retirement or planned rotation in progress (R147, R149). -/
structure SliceWork where
  slice : Slice
  /-- the spare that takes its place; none when no spare exists -/
  incoming : Option Slice
  rotation : Bool
  cause : Nat
  started : Nat
  deriving DecidableEq, Repr

/-- Resolution of one translation bank (R135): its epoch, topology counter and own train subnet. -/
structure BankEpoch where
  epoch : Nat
  topo : BitVec 32
  consist : Nat
  /-- resolved prefix of each record that was valid at the resolution: (row, prefix) -/
  resolved : List (Nat × Nat)
  deriving DecidableEq, Repr

/-- A learned unicast entry (R131) with the local time of the last frame seen. -/
structure Learned where
  row : Nat
  mac : Nat
  vlan : Nat
  port : Port
  seen : Nat
  deriving DecidableEq, Repr

/-- Islands 20 to 29. -/
structure FabricS where
  /-- false until commit epoch 1 has applied (R152) -/
  forwarding : Bool
  queues : Vector (Vector (List QFrame) 8) 20
  hostQueue : List QFrame
  nextUid : Nat
  /-- cells of each frame held: frame number and the slices of its cells in order (R122) -/
  cells : List (Nat × List Slice)
  /-- slice that received the previous frame's first cell (R122) -/
  lastFirst : Option Slice
  /-- active slices in allocation order -/
  active : List Slice
  spare : Option Slice
  retired : List Slice
  /-- retirements and the rotation in progress, oldest first -/
  works : List SliceWork
  shadow : Fin 3
  /-- when the present pass of the spare's test started (R145) -/
  passStart : Nat
  engine0 : EngineState
  engine1 : EngineState
  blame0 : List Nat
  blame1 : List Nat
  walkerBusyUntil : Nat
  learned : List Learned
  /-- host frames of which a copy has left while others still wait -/
  sentUids : List Nat
  bank : Bool
  bank0 : Option BankEpoch
  bank1 : Option BankEpoch
  /-- queues that spill: (port, queue) (R142) -/
  spilling : List (Nat × Nat)
  spillFailed : Bool
  deriving DecidableEq, Repr
/-! ### Ageing, margins and event counters (chapter 17) -/

/-- One ageing sensor (R505, R506), in ps. -/
structure Sensor where
  slack : Int
  shift : Int
  measured : Bool
  deriving DecidableEq, Repr

/-- The reference tracker (R508, R509), in ppt. -/
structure Tracker where
  sum : Int
  count : Nat
  hours : List Int
  periodSum : Int
  periodHours : Nat
  history : List Int
  estimate : Int
  drift : Int
  learned : Nat
  learning : Bool
  /-- local time at which extrapolation started -/
  since : Nat
  updateAt : Option Nat
  deriving DecidableEq, Repr

/-- A health record copy in eMMC (R510). -/
structure HealthCopy where
  valid : Bool
  generation : Nat
  estimate : Int
  drift : Int
  history : List Int
  learned : Nat
  shifts : List Int
  deriving DecidableEq, Repr

/-- State of the margin planner (R519). -/
inductive PlanState where
  | idle | planning | pending | confirming | held
  deriving DecidableEq, Repr

/-- Lane equalisation settings (R183, R514). -/
structure EqSet where
  pre : Nat
  main : Nat
  post : Nat
  mode : Nat
  ctle : Nat
  deriving DecidableEq, Repr

/-- A plan handed to the commit controller (R516). DESIGN CHOICE, unsafe (log entry 99). -/
structure Plan where
  clocks : List (Nat × Nat)
  vcore : Option Nat
  guardAdd : Nat
  eq : List (Nat × EqSet)
  /-- clock steps that wait for the confirmation of a voltage rise, or a voltage fall that waits for clock steps -/
  followClocks : List (Nat × Nat)
  followVcore : Option Nat
  deriving DecidableEq, Repr

/-- One event counter (R521). -/
structure EvCounter where
  value : BitVec 48
  overflow : Bool
  snap : BitVec 48
  deriving DecidableEq, Repr

/-- Sensors, tracker, planner and event counters. -/
structure HealthS where
  sensors : Vector Sensor 128
  tracker : Tracker
  copy0 : HealthCopy
  copy1 : HealthCopy
  recordDue : Option Nat
  planner : PlanState
  plan : Option Plan
  /-- clocks to go back to if the voltage step fails, and the voltage commanded, mV (R516) -/
  undo : List (Nat × Nat)
  commanded : Nat
  scanDue : Option Nat
  planDue : Option Nat
  /-- local time of the last snapshot: triggers on one edge take one (R524) -/
  snapAt : Option Nat
  /-- train time of the last snapshot by period (R524) -/
  lastSnap : Option Nat
  confirmBy : Option Nat
  applyAt : Option Nat
  prevAmple : Bool
  clocks : Vector Nat 41
  exhausted : BitVec 64
  /-- sum of squares and count of 0x2400:04 over the planning period (R515) -/
  offsetSq : Nat
  offsetCount : Nat
  symbolErrs : Vector Nat 20
  counters : Vector EvCounter 64
  deriving DecidableEq, Repr
/-! ### Ports (chapter 05) -/

/-- Link state of a port (R169); the code is 0x2300 + p:1D. -/
inductive LinkState where
  | disabled | phyStart | acquiring | upHold | up | phyFault
  deriving DecidableEq, Repr

/-- A PHY script in progress (R173). -/
structure ScriptRun where
  record : Nat
  started : Nat
  pollDeadline : Option Nat
  deriving DecidableEq, Repr

/-- Island p: MAC, PCS and lane of one port. -/
structure PortS where
  link : LinkState
  laneUp : Bool
  /-- link bit of the external PHY as last read (R164, R172) -/
  phyLink : Bool
  /-- local time since which the lane has not been up while the port is Up (R166) -/
  downSince : Option Nat
  holdEnd : Option Nat
  releaseAt : Option Nat
  script : Option ScriptRun
  anRestart : Option Nat
  statusPoll : Option Nat
  /-- active line rate (0x2300 + p:1E) -/
  rate : Nat
  eq : EqSet
  /-- DFE setting that the receiver has adapted; none while the DFE is disabled (R183) -/
  dfe : Option Nat
  /-- end of the frame that the MAC is sending -/
  txUntil : Nat
  /-- that frame is sent cut-through -/
  txCut : Bool
  /-- queue of that frame and the slices of its cells (R121) -/
  txQueue : Nat
  txCells : List Slice
  pauseUntil : Option Nat
  /-- a pause that waits for the end of the frame in transmission (R181): its length -/
  pausePending : Option Nat
  /-- accumulated pause time up to the last change, and since when the port has been paused or unpaused (R182) -/
  pauseAcc : Nat
  pauseSince : Nat
  pauseIgnoreUntil : Option Nat
  deriving DecidableEq, Repr

/-- Ports 0 to 19 with the PHY group balls (R171). -/
structure PortsS where
  p : Vector PortS 20
  /-- PHYRSTg_N released -/
  phyReleased : Vector Bool 4
  releasedAt : Vector Nat 4
  pulseEnd : Vector (Option Nat) 4
  /-- status reads wait for the end of a script (R184) -/
  phyIntPending : Vector Bool 4
  deriving DecidableEq, Repr
/-! ### Time base (chapter 06) -/

/-- State of the time base (R205); the code is 0x2400:01. -/
inductive TimeState where
  | unsynchronised | grandmaster | acquiring | synchronised | holdover | stepPending
  deriving DecidableEq, Repr

/-- One timestamp or capture record under R192, before packing. -/
structure TsRecord where
  /-- train time of the event in units of 0.5 ns -/
  half : Nat
  overflow : Bool
  /-- taken while 0x2400:01 was neither 1 nor 3 -/
  unsure : Bool
  /-- capture records: TEVT_IN -/
  tevt : Bool
  /-- capture records: rising edge -/
  rising : Bool
  ident : Nat
  deriving DecidableEq, Repr

/-- A step held in island 30 (R204, R205): signed amount and step point, both in ns of train time. -/
structure ArmedStep where
  amount : Int
  point : Nat
  /-- the point was fixed from an epoch switch point, under the first case of R204 -/
  firstCase : Bool
  deriving DecidableEq, Repr

/-- Role of a gPTP port (0x2410 + p:02). -/
inductive PtpRole where
  | disabled | master | slave | passive
  deriving DecidableEq, Repr

/-- A two-step Sync that waits for its Follow_Up (R199). -/
structure PendingSync where
  port : Port
  seq : BitVec 16
  gm : BitVec 64
  /-- train time of receipt, in units of 0.5 ns -/
  rx : Nat
  deriving DecidableEq, Repr

/-- Per-port part of the time base (R199, R200, R210, R223). -/
structure PortTime where
  role : PtpRole
  /-- mean link delay, ps -/
  linkDelay : Nat
  /-- neighbour rate ratio minus 1, ppt -/
  ratio : Int
  delayValid : Bool
  /-- an exchange has been completed since reset, so that the link delay is a measured one (R200) -/
  measured : Bool
  /-- sequence number of the outstanding Pdelay_Req -/
  outstanding : Option (BitVec 16)
  /-- requests sent since the port entered Up -/
  requests : Nat
  nextPdelay : Option Nat
  /-- Announce data gathered on this port with the local time of its receipt (R199) -/
  announce : Option (AnnounceMsg × Nat)
  txQueue : List TsRecord
  txOverflow : Bool
  nextIdent : Nat
  deriving DecidableEq, Repr

/-- Island 30's time base. -/
structure TimeS where
  /-- free-running counter F (R187), in units of 2^-32 ns -/
  fRaw : Nat
  /-- anchor A and base B of R188, in units of 2^-32 ns -/
  anchor : Nat
  base : Int
  /-- rate ρ, ppt (0x2400:05) -/
  rate : Int
  state : TimeState
  offset : Int
  gmIdentity : BitVec 64
  gmClass : Nat
  stepsRemoved : Nat
  lastStep : Int
  utcOffset : Int
  slavePort : Option Port
  /-- consecutive Syncs counted by the two lock rows of R205 -/
  goodSyncs : Nat
  badSyncs : Nat
  armed : Option ArmedStep
  pendingSync : Option PendingSync
  /-- train time of the last epoch switch point while no Sync of a grandmaster adopted after it has come (R204) -/
  switchRef : Option Nat
  /-- a grandmaster was adopted after that switch point and none of its Syncs has come yet (R204) -/
  adoptedAfterSwitch : Bool
  holdSince : Option Nat
  holdLimitPassed : Bool
  syncDeadline : Option Nat
  announceDeadline : Option Nat
  /-- end of the gPTP hold of a round (R207) -/
  roundHold : Option Nat
  /-- the hold lasts up to the moment TTDP declares a topology valid (R207) -/
  ttdpHold : Bool
  /-- port that revealed the change of the round in progress (R207) -/
  revealed : List Port
  /-- end of the Announce burst of R208 -/
  burstUntil : Option Nat
  /-- local time of the apply point of commit epoch 1 (R216) -/
  appliedAt : Option Nat
  /-- coarse count of the always-on island, ns, and whether it runs (R216) -/
  coarse : Nat
  /-- step generation (R311) -/
  stepGen : Nat
  captures : List TsRecord
  capOverflow : Bool
  capIdent : Nat
  /-- local time of the last captured edge of PPS_IN and of TEVT_IN (R214) -/
  lastEdge : Option Nat
  lastEdgeT : Option Nat
  ppsInLevel : Bool
  tevtInLevel : Bool
  ppsOut : Bool
  ppsOutEnd : Option Nat
  tevtOut : Bool
  tevtOutEnd : Option Nat
  /-- next TEVT_OUT instant, train time ns (R213) -/
  tevtNext : Option Nat
  /-- local time of the last PPS_IN edge while it disciplines the node (R215) -/
  ppsInLast : Option Nat
  ppsInLostAt : Option Nat
  /-- clock class announced as grandmaster (R198, R215) -/
  ownClass : Nat
  syncSeq : BitVec 16
  pdelaySeq : BitVec 16
  /-- second in which the first queue overflow was recorded (R224) -/
  overflowSecond : Option Nat
  ports : Vector PortTime 20
  deriving DecidableEq, Repr
/-! ### Scheduled traffic (chapter 07) -/

/-- One window record of a train schedule image (R226). -/
structure Window where
  id : Nat
  redundant : Bool
  whole : Bool
  rank : Nat
  talker : BitVec 32
  offset : Nat
  length : Nat
  guardNs : Nat
  hop : Nat
  maxFrame : Nat
  stream : Word48
  vlan : Nat
  listener : BitVec 32
  deriving DecidableEq, Repr

/-- A schedule image that passed its checks (R225). -/
structure SchedImage where
  identity : BitVec 32
  generation : Nat
  cycle : Nat
  baseNs : Nat
  windows : List Window
  raw : List Byte
  activation : Nat
  deriving DecidableEq, Repr

/-- One entry of a gate list (R242). -/
structure GateEntry where
  port : Port
  openNs : Nat
  length : Nat
  guardNs : Nat
  window : Nat
  maxFrame : Nat
  receive : Bool
  redundant : Bool
  stream : Word48
  vlan : Nat
  deriving DecidableEq, Repr

/-- Sequence recovery of one redundant window (R244) and sequence generation at its talker (R243). -/
structure SeqState where
  window : Nat
  next : BitVec 16
  started : Bool
  highest : BitVec 16
  history : List (BitVec 16)
  resetAt : Option Nat
  deriving DecidableEq, Repr

/-- Counters of one window, 0x2504:02 to 0x2504:08 (R259). -/
structure WinCounters where
  window : Nat
  counts : Vector Nat 7
  deriving DecidableEq, Repr

/-- Schedule state (R254); the code is 0x2500:01. -/
inductive SchedState where
  | off | waiting | running | fenced | localOnly
  deriving DecidableEq, Repr

/-- Reception of a schedule image (R233). -/
structure Reception where
  generation : Nat
  size : Nat
  crc : BitVec 32
  activation : Nat
  port : Port
  chunk : Nat
  repeats : Nat
  data : List Byte
  deadline : Nat
  /-- every chunk held: the checks run -/
  verifying : Bool
  deriving DecidableEq, Repr

/-- An open window of a port (R238). -/
structure OpenWindow where
  entry : GateEntry
  /-- train time of its opening and of the hard close, ns -/
  openedAt : Nat
  closeAt : Nat
  /-- the hard close has come; the rest of the window is its guard band (R239, R241) -/
  closed : Bool
  deriving DecidableEq, Repr

/-- Scheduled traffic of the node. -/
structure SchedS where
  state : SchedState
  image : Option SchedImage
  pending : Option SchedImage
  reception : Option Reception
  /-- ports that offered a generation: (port, generation) -/
  offers : List (Port × Nat)
  /-- the newest generation that was offered above those held, with its activation time (R235) -/
  offered : Option (Nat × Nat)
  lastRefused : Bool
  gates : List GateEntry
  built : Option (List GateEntry)
  /-- train epoch for which the bank was built (R11) -/
  builtFor : Nat
  bankOne : Bool
  /-- the builder is at work (R230, R245) -/
  building : Bool
  /-- the change to the built bank waits for a boundary (R250) -/
  switchPending : Bool
  lastBoundary : Nat
  /-- train time of the last epoch switch point (R234) -/
  lastSwitch : Nat
  windows : Vector (Option OpenWindow) 20
  /-- receive entries in which a frame of the window came: (port, window) -/
  arrived : List (Port × Nat)
  seqs : List SeqState
  counters : List WinCounters
  /-- cycles in which every Sync was good, and whether one came (R249) -/
  goodCycles : Nat
  syncSeen : Bool
  badSeen : Bool
  /-- cycles since the last Sync -/
  sinceSync : Nat
  /-- no window opens until this train time (R252) -/
  cutUntil : Option Nat
  /-- the state left when an apply point set 0x2501:01 = 0: the gates close at the next boundary (R254) -/
  closing : Option SchedState
  guardAdd : Nat
  offerDue : Option Nat
  /-- the OFFER 10 ms after an epoch switch point (R232) -/
  switchOffer : Option Nat
  deriving DecidableEq, Repr
/-! ### Announcement and intercom streams (chapter 08) -/

/-- State of a stream (R275); the code is 0x2610 + s:0C. -/
inductive StreamState where
  | off | waiting | playing | holding | sending
  deriving DecidableEq, Repr

/-- One local stream. -/
structure StreamS where
  state : StreamState
  mr : Bool
  /-- talker: number of the next packet; listener: number of the last accepted one -/
  seq : BitVec 8
  /-- listener: number of the grid frame of the next packet's first sample (R273) -/
  expected : Nat
  timeout : Option Nat
  /-- host talker: number of the grid frame of the first buffered frame (R465) -/
  bufFrame : Nat
  /-- host talker: sample blocks fetched and not yet sent (R465) -/
  buffer : List Byte
  deriving DecidableEq, Repr

/-- A reservation placed on this node's ports, or the node's own as talker node (R267). -/
structure ResPlaced where
  row : Nat
  address : Word48
  vlan : Nat
  bandwidth : Nat
  ports : List Port
  here : Bool
  deriving DecidableEq, Repr

/-- Island 32's stream engine. -/
structure StreamsS where
  s : Vector StreamS 64
  bank0 : List ResPlaced
  bank1 : List ResPlaced
  bankOne : Bool
  /-- the bank built for the new epoch (R267) and whether its change waits for a boundary (R276) -/
  built : Option (List ResPlaced)
  /-- the epoch that it was built for -/
  builtFor : Nat
  building : Bool
  switchPending : Bool
  /-- train time of the last stream switch boundary (R276) -/
  lastBoundary : Option Nat
  /-- Q5 credit of each port in units of 10^-9 bit, and the local time of its last change (R268) -/
  credit : Vector (Int × Nat) 20
  /-- distance of each rate's grid from its grid times, ns: 16, 32 and 48 kHz (R278) -/
  gridOff : Vector Int 3
  rephaseEnd : Option Nat
  /-- ports that revealed a coupling, each with the epoch in force then: they send no Q5 frame until the stream switch boundary of
  the round's epoch (R277) -/
  held : List (Port × Nat)
  /-- audio ports whose clocks run (R281, R283) -/
  running : Vector Bool 4
  deriving DecidableEq, Repr
/-! ### Message-bus controllers (chapter 09) -/

/-- Controller state (R297); the code is 0x27x1:01. -/
inductive CanState where
  | off | integrating | errorActive | errorPassive | busOff | recovering | detecting
  deriving DecidableEq, Repr

/-- Nominal bit timing (R292). -/
structure CanTiming where
  prescaler : Nat
  tseg1 : Nat
  tseg2 : Nat
  sjw : Nat
  triple : Bool
  deriving DecidableEq, Repr

/-- One message object: status code of R309, its frame record (R310) and its attempt. -/
structure CanObj where
  status : Nat
  ident : BitVec 29
  extended : Bool
  remote : Bool
  fdf : Bool
  brs : Bool
  esi : Bool
  dlc : BitVec 4
  data : List Byte
  stamp : BitVec 32
  unsure : Bool
  stepGen : Nat
  /-- failed attempts so far -/
  failures : Nat
  /-- a cancel flagged the attempt (R307) -/
  cancel : Bool
  deriving DecidableEq, Repr

/-- One controller. -/
structure CanCtl where
  state : CanState
  /-- mode in force; a rate-detection controller that adopted Normal behaviour shows `adopted` -/
  mode : Nat
  adopted : Bool
  tec : Nat
  recv : Nat
  alone : Bool
  ackErrors : Nat
  timing : Option CanTiming
  /-- objects that differ from Armed or Idle without data, by number, rising -/
  objs : List (Nat × CanObj)
  /-- object whose attempt is on the bus, and the train time of its start-of-frame in ns -/
  sending : Option Nat
  sofAt : Nat
  sofUnsure : Bool
  sofGen : Nat
  /-- the controller leaves its mode when the attempt ends: some true to start again, some false to stay Off (R314) -/
  leaving : Option Bool
  /-- the configuration record of the object on the bus has changed: the object is reset when the attempt ends (R314) -/
  renewed : Bool
  holdOffEnd : Option Nat
  recoveryAsked : Bool
  candidate : Nat
  candidateFrames : Nat
  dwellEnd : Option Nat
  exceptionSecond : Option Nat
  /-- level of CANc_STB: high asks the transceiver for standby (R291) -/
  stb : Bool
  /-- level of CANc_TXD at the end of the last command: high is recessive (R291) -/
  txd : Bool
  deriving DecidableEq, Repr
/-! ### Gateway and check units (chapters 10 and 11) -/

/-- One telegram (R329 to R332). -/
structure Telegram where
  data : List Byte
  fresh : Bool
  seq : BitVec 32
  timeout : Option Nat
  /-- train time of the last due time served, ns -/
  lastDue : Option Nat
  deriving DecidableEq, Repr

/-- Data staged for a gateway transmit object (R329). -/
structure TxStage where
  data : List Byte
  fresh : Bool
  lastDue : Option Nat
  deriving DecidableEq, Repr

/-- Who asked for a transaction (R334, R336). -/
inductive Requester where
  | backbone (ip : BitVec 32) (port : BitVec 16) (session : BitVec 128)
  | can
  deriving DecidableEq, Repr

/-- An open transaction (R336). -/
structure Txn where
  who : Requester
  tag : BitVec 32
  addr : Nat
  write : Bool
  data : List Byte
  posted : Bool
  epoch : Nat
  topo : BitVec 32
  deadline : Option Nat
  deriving DecidableEq, Repr

/-- A prefetched value (R339). -/
structure CacheEntry where
  addr : Nat
  data : List Byte
  deadline : Nat
  deriving DecidableEq, Repr

/-- State of a transaction channel (R342). -/
inductive ChanState where
  | idle | opened | prefetching
  deriving DecidableEq, Repr

/-- One transaction channel. -/
structure GwChan where
  state : ChanState
  txn : Option Txn
  /-- address whose read is outstanding, and those still due (R339) -/
  fetching : Option Nat
  due : List Nat
  fetchDeadline : Option Nat
  cache : List CacheEntry
  waiting : Option Txn
  deriving DecidableEq, Repr

/-- One record of the gateway error log (R343). -/
structure GwLog where
  tag : BitVec 32
  addr : Nat
  chan : Nat
  kind : Nat
  status : Nat
  canSide : Bool
  epoch : Nat
  time : Nat
  deriving DecidableEq, Repr

/-- Island 33's gateway. -/
structure GwS where
  /-- running since commit epoch 1 applied (R344) -/
  running : Bool
  telegrams : Vector Telegram 64
  stages : List (Nat × TxStage)
  chans : Vector GwChan 32
  log : List GwLog
  deriving DecidableEq, Repr

/-- State of a check channel (R360). -/
inductive CheckState where
  | off | initial | valid | invalid
  deriving DecidableEq, Repr

/-- One check channel (R354, R360, R365). -/
structure CheckCh where
  state : CheckState
  last : Nat
  run : Nat
  kind : Nat
  silence : Option Nat
  passed : Nat
  crc : Nat
  repeats : Nat
  skips : Nat
  expectedFails : Nat
  lengths : Nat
  lost : Nat
  deriving DecidableEq, Repr
/-! ### Sediment event recorder (chapter 12) -/

/-- Recorder state (R386); the code is 0x2A00:01. -/
inductive RecState where
  | off | scanning | logging | frozen | ring | writeBack | closed
  deriving DecidableEq, Repr

/-- One recorder entry (R368) before it is packed into 64 bytes. -/
structure Entry where
  seq : Nat
  sev : Nat
  viaHolding : Bool
  viaRing : Bool
  restored : Bool
  unsure : Bool
  src : Nat
  code : Nat
  time : Nat
  epoch : Nat
  stepGen : Nat
  inst : Nat
  boot : Nat
  fmt : Nat
  payload : List Byte
  deriving DecidableEq, Repr

/-- The values of the summary record (R373) that are not derived from the log. -/
structure Summary where
  valid : Bool
  fmt : Nat
  slots : Nat
  generation : Nat
  lastWritten : Nat
  drops : Vector Nat 8
  holdingDrops : Nat
  ringDrops : Nat
  failures : Nat
  deriving DecidableEq, Repr

/-- A last word (R383). -/
structure LastWord where
  generation : Nat
  cause : Nat
  recState : Nat
  epoch : Nat
  time : Nat
  node : Nat
  profile : Nat
  timeState : Nat
  lastSeq : Nat
  lastWritten : Nat
  notInLog : Nat
  boot : Nat
  drops : Vector Nat 8
  vddio : Nat
  vcore : Nat
  temp : Int
  deriving DecidableEq, Repr

/-- The Tarn store (R381): it keeps its contents without supply. -/
structure Tarn where
  generation : Nat
  bootCount : Nat
  enteredLastWord : Nat
  newestSlot : Nat
  writes : Nat
  /-- the two header copies as stored -/
  header0 : List Byte
  header1 : List Byte
  words : Vector (Option LastWord) 4
  area : List (Nat × Entry)
  deriving DecidableEq, Repr

/-- Island 34's recorder with the memories it keeps. -/
structure RecS where
  state : RecState
  lastSeq : Nat
  /-- staging buffer, oldest first, each with the local time of its arrival (R374) -/
  staging : List (Entry × Nat)
  /-- entries of an eMMC write in progress (R375) -/
  inflight : List Entry
  holding : List (Nat × Entry)
  holdingDrops : Vector Nat 8
  /-- on-chip ring of 4,096 slots -/
  ring : List (Nat × Entry)
  /-- entries raised while Scanning or Off, without sequence numbers yet (R385, R504) -/
  early : List Entry
  /-- the eMMC log: occupied slots in rising order (R372) -/
  log : List (Nat × Entry)
  summary : Summary
  tarn : Tarn
  /-- local times of the Tarn copies that the limit of R382 governs -/
  tarnCopies : List Nat
  freezeEnd : Option Nat
  retryAt : Option Nat
  mediumFailed : Bool
  ddrFailed : Bool
  /-- drops of the ring and the entry area that the summary takes at write-back (R387) -/
  dropsDue : Nat
  /-- a Tarn write has just failed its read-back; its event follows (R382) -/
  tarnMissed : Bool
  /-- the write-back in progress follows Ring (R380) -/
  afterRing : Bool
  writeDeadline : Option Nat
  deriving DecidableEq, Repr
/-! ### Sleep and wake (chapter 13) -/

/-- Sleep state (R411); the code is 0x2B00:01. -/
inductive SleepState where
  | awake | readySleep | committing | asleep | waking
  deriving DecidableEq, Repr

/-- What the latest valid keep-alive of a side says (R396, R397). -/
structure SideInfo where
  flags : Byte
  need : Bool
  scope : Nat
  holder : Word48
  silent : Bool
  deadline : Option Nat
  deriving DecidableEq, Repr

/-- What a keep-alive says (R395, R396). -/
structure KeepSummary where
  need : Bool
  scope : Nat
  holder : Word48
  ready : Bool
  final : Bool
  deriving DecidableEq, Repr

/-- A wake record (R407) with the sources accepted in its sample. -/
structure WakeRec where
  source : Nat
  latched : Bool
  fromSleep : Bool
  scope : Nat
  ports : List Port
  time : Nat
  sources : Nat
  deriving DecidableEq, Repr

/-- Island 40's sleep and wake manager. DESIGN CHOICE, unsafe (log entry 77). -/
structure SleepS where
  state : SleepState
  scope : Nat
  wokenPorts : List Port
  front : SideInfo
  rear : SideInfo
  requestDeadline : Option Nat
  holdEnd : Option Nat
  holdScope : Nat
  levelA : Bool
  levelB : Bool
  readyDeadline : Option Nat
  committedAt : Option Nat
  quiesced : Bool
  latched : Option WakeRec
  history : List WakeRec
  /-- accepted wake inputs: not accepted again before they have been inactive, with the end of their minimum time -/
  spent : List (Nat × Option Nat)
  twlOutEnd : Option Nat
  timerEnd : Option Nat
  /-- wake that waits for the PHY readout, its readout ports and the start of the readout (R406) -/
  readout : Option (WakeRec × List Port × Nat)
  periodDue : Option Nat
  /-- own need and scope as last judged (R409) -/
  lastNeed : Bool
  lastScope : Nat
  /-- what the last keep-alives said on the front and on the rear side, and when they were sent (R396) -/
  toldFront : Option KeepSummary
  toldRear : Option KeepSummary
  lastSent : Option Nat
  /-- sides found silent when last judged (R397) -/
  silentFront : Bool
  silentRear : Bool
  deriving DecidableEq, Repr
/-! ### Load channels and companion links (chapter 14) -/

/-- State of a load channel (R438); the code is 0x2C20 + k:0E. -/
inductive LoadState where
  | off | inrush | on | retryWait | tripped | thermalLatch | locked | supplyHold | pulseGap
  deriving DecidableEq, Repr

/-- One load channel. -/
structure LoadCh where
  state : LoadState
  command : Bool
  retries : Nat
  delayEnd : Option Nat
  /-- a restart fell due while the companion supply was low (R434) -/
  restartDue : Bool
  windowEnd : Option Nat
  extended : Bool
  refillAt : Option Nat
  /-- a retry was spent at the thermal shutdown (R429) -/
  spentAtLatch : Bool
  latched : Bool
  warmClearSince : Option Nat
  /-- clamp reports in the 100 bins of 100 ms: (bin number, µJ) -/
  bins : List (Nat × Nat)
  current : Nat
  temperature : Int
  /-- train time of the last pulse edge handled, ns -/
  edge : Nat
  deriving DecidableEq, Repr

/-- State of a companion link (0x2C10 + n:02). -/
inductive LinkSt where
  | off | identifying | configuring | running | supplyLow | fault | wrongDevice
  deriving DecidableEq, Repr

/-- A transfer that has been sent and not answered yet: its READ (register, channel), whether it carried the first
configuration record, its start, and whether its status frame was good. -/
structure Transfer where
  read : Option (Nat × Nat)
  config : Bool
  start : Nat
  good : Option Bool
  deriving DecidableEq, Repr

/-- One companion link. -/
structure Companion where
  link : LinkSt
  ident : BitVec 32
  supplyMv : Nat
  flags : Byte
  /-- sequence of the last command and of the one before it (R420, R424) -/
  seq : Nat
  prevSeq : Option Nat
  inFlight : Option Transfer
  bad : Nat
  /-- configuration records still to be written (register, channel, value) -/
  config : List (Nat × Nat × Nat)
  /-- registers whose READ is due (register, channel) -/
  reads : List (Nat × Nat)
  /-- output state as last reported, and the channels held on by the companion itself (R435, R437) -/
  outputs : Byte
  keep : Byte
  /-- a transfer starts when the one in progress ends; a short one (R423) -/
  again : Bool
  againShort : Bool
  restoreAt : Option Nat
  lowWas : Bool
  gapDue : Option Nat
  /-- earliest start of the next transfer (R419, R432) -/
  freeAt : Nat
  retryAt : Option Nat
  currentPoll : Nat
  tempPoll : Nat
  deriving DecidableEq, Repr

/-- Island 39's load-channel supervisor. -/
structure LoadsS where
  ch : Vector LoadCh 32
  comp : Vector Companion 4
  deriving DecidableEq, Repr
/-! ### Host link (chapter 15) -/

/-- A mailbox (R61, R452): its window as bytes that are not 0, and MB_STATUS. -/
structure Mailbox where
  window : List Host.Cell
  busy : Bool
  done : Bool
  aborted : Bool
  overrun : Bool
  /-- the PCIe response is to be discarded, because PERST_N fell while BUSY (R453) -/
  discard : Bool
  deriving DecidableEq, Repr

/-- Snapshot of TIME_LO on one path (R457). -/
structure TimeSnap where
  ns : BitVec 64
  state : Nat
  stepGen : Nat
  deriving DecidableEq, Repr

/-- Capture registers (R458). -/
structure TCap where
  ns : BitVec 64
  valid : Bool
  replaced : Bool
  path : Nat
  stepGen : Nat
  count : Nat
  deriving DecidableEq, Repr

/-- What a DMA read in progress is for (R459, R461, R465). -/
inductive DmaFor where
  | descriptor (index : Nat)
  | buffer (index : Nat) (desc : List Byte)
  deriving DecidableEq, Repr

/-- A DMA read that awaits its completion. -/
structure DmaRead where
  what : DmaFor
  deadline : Nat
  deriving DecidableEq, Repr

/-- One descriptor ring (R459). -/
structure Ring where
  base : BitVec 64
  size : Nat
  tail : Nat
  head : Nat
  enable : Bool
  running : Bool
  moderation : Nat
  error : Nat
  drops : Nat
  lastInt : Option Nat
  deferred : Bool
  /-- next descriptor to fetch -/
  fetch : Nat
  reading : Option DmaRead
  /-- receive and listener rings: descriptors fetched, oldest first, with their indices -/
  ready : List (Nat × List Byte)
  /-- write-backs that wait for the ones before them: index, byte 11 and bytes from 24 on (R459) -/
  doneEarly : List (Nat × Byte × List Byte)
  /-- how often the ring has been enabled -/
  session : Nat
  deriving DecidableEq, Repr

/-- Islands 38 and 39: the host register block. DESIGN CHOICE, safe (log entry 84); DESIGN CHOICE, unsafe (log entry 86). -/
structure HostS where
  intStatus : BitVec 32
  enMsi : BitVec 32
  enPin : BitVec 32
  scratch : BitVec 32
  mbPcie : Mailbox
  mbSerial : Mailbox
  snapPcie : TimeSnap
  snapSerial : TimeSnap
  tcap : TCap
  /-- HSP_STATUS counts (R449, R450) -/
  hspBad : Nat
  hspUnknown : Nat
  /-- bit [2] of the next status byte (R448) -/
  serialRefused : Bool
  perst : Bool
  linkUp : Bool
  /-- WAKE_N is driven low (R447) -/
  wakeLow : Bool
  /-- MSI-X table without its mask bits: three words for each vector (R446, R455) -/
  msiTable : Vector Word32 48
  msiMask : Vector Bool 16
  msiPending : Vector Bool 16
  rings : Vector Ring 10
  deriving DecidableEq, Repr
/-! ### Supplies, power states, reset and recovery (chapter 16) -/

/-- Power state (R486); the code is 0x2D00:01. -/
inductive PowerState where
  | booting | active | standby | sleep | resetHeld
  deriving DecidableEq, Repr

/-- State byte of a firmware image header (R480). -/
inductive ImageState where
  | new | trial | confirmed | failed | invalid
  deriving DecidableEq, Repr

/-- A firmware partition: its header, and the image after the header (R480). -/
structure Partition where
  magicOk : Bool
  generation : Nat
  release : BitVec 32
  length : Nat
  state : ImageState
  trialBoots : Nat
  product : Nat
  /-- signature and load checks pass (R481) -/
  loads : Bool
  /-- firmware security version of its signature block (chapter 18) -/
  security : Nat
  deriving DecidableEq, Repr

/-- State of the recovery sequencer (R493). -/
inductive RecoverySeq where
  | watching | holding | recovery | recoveryHeld
  deriving DecidableEq, Repr

/-- How a ball that may be left undriven stands. -/
inductive Drive where
  | high | low | undriven
  deriving DecidableEq, Repr

/-- Island 40's platform state, with the partitions and the regulator. -/
structure PowerS where
  state : PowerState
  /-- step of R483 that the boot in progress has passed; 0 when no boot is in progress -/
  bootStep : Nat
  /-- the boot in progress follows a wake: 6 or 7, or the cause of R478 that it will show -/
  bootCause : Nat
  porN : Bool
  railCore : Bool
  railDdr : Bool
  pgCore : Bool
  pgIo : Bool
  ddrRiseAt : Option Nat
  railDeadline : Option Nat
  railRetry : Option Nat
  enablesFellAt : Option Nat
  selectRetry : Option Nat
  warnIo : Bool
  warnCore : Bool
  /-- local time of the last VDDIO_A warning (R476) -/
  warnIoAt : Option Nat
  bootStart : Nat
  wakeDeadline : Option Nat
  safeN : Bool
  resetOutN : Bool
  /-- BYP_A_N and BYP_B_N driven high; otherwise undriven (R496) -/
  bypassA : Bool
  bypassB : Bool
  /-- HOST_STATUS[0] and [3] (R451) -/
  agentReady : Bool
  booted : Bool
  restarts : Nat
  seqState : RecoverySeq
  episode : Nat
  latch : Bool
  epochAppliedBeforeEpisode : Bool
  readyDeadline : Option Nat
  watchdogDeadline : Option Nat
  stableDeadline : Option Nat
  confirmDeadline : Option Nat
  stale : BitVec 64
  partA : Partition
  partB : Partition
  bootedB : Bool
  fwImage : List Byte
  /-- image verified, to be written (R485) -/
  fwWriting : Option Partition
  pmbusAddr : Nat
  island40Failed : Bool
  deriving DecidableEq, Repr
/-! ### Security, lifecycle and debug (chapter 18) -/

/-- Instruction of the debug port (R546). -/
inductive DebugIr where
  | extest | idcode | samplePreload | authChallenge | authResponse | debugAccess | scanTest | bypass
  deriving DecidableEq, Repr

/-- Island 36 with its fuses, and the debug port. -/
structure SecS where
  /-- 1 Open, 2 Secured, 3 Returned, 4 Void (R533) -/
  lifecycle : Nat
  /-- fused integrator positions: key and whether it is revoked -/
  positions : List (List Byte × Bool)
  /-- firmware security version in fuses (R538) -/
  fwVersion : Nat
  keysZeroised : Bool
  randomOk : Bool
  proofFails : List Nat
  proofLockEnd : Option Nat
  ir : DebugIr
  level : Nat
  grantEnd : Option Nat
  nonce : List Byte
  authFails : List Nat
  authLockEnd : Option Nat
  scanStarted : Bool
  halted : Bool
  deriving DecidableEq, Repr

/-! ### Balls with state of their own (chapter 19) -/

/-- Straps, production test and the general-purpose balls (R567 to R570). -/
structure PinsS where
  strapPcie : Bool
  strapHsp : Bool
  strapW8 : Bool
  strapPmb : Bool
  testMode : Bool
  /-- levels that the board drives on GPIO0 to GPIO5 -/
  gpioIn : BitVec 6
  /-- GPIO0 to GPIO5 follow their entries (R569) -/
  gpioLive : Bool
  /-- GPIO0 to GPIO5 that hold their output while the device rests, and the levels that they hold (R569) -/
  gpioHold : BitVec 6
  gpioHeld : BitVec 6
  deriving DecidableEq, Repr
/-! ### What a command sends -/

/-- Payload of a Springcount frame that the device sends (R80). -/
inductive ScBody where
  | probe (b : ProbeBody)
  | probeReply (b : ProbeBody)
  | claim (lowest : Word48)
  | census
  | report (recs : List CensusRec)
  | commit (b : CommitBody)
  | ack (count epoch : Nat)
  | abort (cause epoch : Nat)
  | commitRequest (epoch : Nat)
  | state (inhibit : Bool) (epoch : Nat)
  | pair (primary : Bool) (epoch : Nat) (partner : Word48)
  deriving DecidableEq, Repr

/-- A gPTP message that the device sends (R199); times of peer delay messages are in units of 0.5 ns. -/
inductive PtpMsg where
  | sync (seq : BitVec 16) (gm : BitVec 64)
  /-- origin time in ns, and the correctionField in units of 2^-16 ns -/
  | followUp (seq : BitVec 16) (gm : BitVec 64) (origin correction : Int)
  | announce (a : AnnounceMsg)
  | pdelayReq (seq : BitVec 16)
  | pdelayResp (seq : BitVec 16) (received : Int)
  | pdelayRespFollowUp (seq : BitVec 16) (sent : Int)
  deriving DecidableEq, Repr

/-- One thing that leaves the device: a frame, an answer, a message or a bus access. DESIGN CHOICE, safe (log entry 6);
DESIGN CHOICE, safe (log entry 66); DESIGN CHOICE, unsafe (log entry 110). -/
inductive Out where
  | answer (dest : Src) (r : Resp)
  | sdoAbort (c : Nat) (idx sub code : Nat)
  /-- data bytes of a CAN frame of an SDO server with its COB-ID (R53, R54) -/
  | sdo (c cob : Nat) (bytes : List Byte)
  | kda (peer : KdaPeer) (session seq : BitVec 32) (opcode : Nat) (payload tag : List Byte)
  | hostReg (path : HostPath) (offset : Nat) (value : Word32)
  | serialReply (bytes : List Byte)
  | frame (port : Port) (queue : Nat) (bytes : List Byte)
  | badFcs (port : Port)
  | springcount (port : Port) (orig : Word48) (round seq : BitVec 16) (segment hops : Nat) (more : Bool) (b : ScBody)
  | hello (port : Port) (fast inhibit : Bool)
  | topology (port : Port) (topo : BitVec 32) (epoch : Nat) (dir : List DirNode) (inhibit : Bool)
  | ptp (port : Port) (m : PtpMsg)
  | dist (port : Port) (kind identity generation activation number crc : Nat) (data : List Byte)
  | msi (vector : Nat)
  | dmaRead (ring : Nat) (addr len : Nat)
  | dmaWrite (ring : Nat) (addr : Nat) (bytes : List Byte)
  /-- one access on an MDIO bus: bus, PHY address and clause (R174) -/
  | mdio (port : Port) (bus phy clause dev reg : Nat) (write : Option Nat)
  | pmbus (command value : Nat)
  | trdp (ip : Nat) (port msgType comId topo seq : Nat) (session : BitVec 128) (replyStatus : Int) (data : List Byte)
  | canStart (c o : Nat)
  /-- what a listener puts into its audio port from a grid time on: for each frame, the slots with their samples (R282) -/
  | play (stream port grid : Nat) (frames : List (List (Nat × List Byte)))
  | mute (stream samples : Nat)
  | transfer (link : Nat) (bytes : List Byte) (read : Bool)
  | debug (bytes : List Byte)
  deriving DecidableEq, Repr

/-! ### The whole device -/

/-- Everything of the device but its queue of commands. -/
structure Dev where
  /-- local time since power-on reset, ns, on the device's own clock -/
  now : Nat
  /-- how many free values have been used -/
  fresh : Nat
  /-- what the present command sends, in order -/
  out : List Out
  dict : DictS
  node : NodeS
  chip : ChipS
  inaug : InaugS
  fab : FabricS
  ports : PortsS
  time : TimeS
  sched : SchedS
  strm : StreamsS
  can : Vector CanCtl 8
  gw : GwS
  /-- check channels that are not Off, by number, rising -/
  chk : List (Nat × CheckCh)
  recd : RecS
  sleep : SleepS
  load : LoadsS
  host : HostS
  pow : PowerS
  health : HealthS
  sec : SecS
  pins : PinsS
  deriving DecidableEq, Repr

/-- The state: the device, and the commands that wait, first in, first out. DESIGN CHOICE, safe (log entry 1). -/
structure State where
  dev : Dev
  pending : List Instr
  deriving DecidableEq, Repr

/-! ### Reset: the state while POR_N is asserted (R478, R483) -/

/-- No numbering: epoch 0 (R109). -/
def Numbering.none : Numbering :=
  { epoch := 0, topo := 0, node := 0, consist := 0, vehicle := 0, inverse := false, consistInverse := false,
    primary := false, refEnd := 0, consists := 0, dir := [] }

/-- A backbone port without a neighbour. -/
def BackPort.reset : BackPort :=
  { heard := none, fast := true, ttdpFast := false, unanswered := 0, standardOnly := false, probeDue := none, helloDue := none }

/-- The inauguration engine before its first round (R109). -/
def InaugS.reset : InaugS :=
  { state := .unnumbered, standard := false, round := 0, now := Numbering.none, prev := none, prevEpoch := 0,
    overlapEnd := none, leader := 0, roundStart := none, roundOwn := false, ports := Vector.replicate 4 BackPort.reset,
    crossedFront := false, crossedRear := false, lowest := 0, settle := none, censusWait := none, commitWait := none,
    censusDeadline := none, ackDeadline := none, backOff := none, requestDeadline := none, asked := [],
    frontSegs := [], rearSegs := [], frontDone := false, rearDone := false, censusFromRear := none, accepted := none,
    lastCommit := none, acksFront := 0, acksRear := 0, seen := [], seq := 0, heldClaim := none, heldOwn := none,
    failedRounds := 0, requesters := [], ttdpInhibit := false, stateDue := none, heldCouplings := [], heldConfig := false, lateCopy := false, partner := none,
    partnerPrimary := false, pairDeadline := none, pairDue := none, pairState := 0, partnerLost := false,
    outage := false, follows := false }

/-- The fabric before commit epoch 1: slices 0 to 7 active, slice 8 spare (R122, R152). -/
def FabricS.reset : FabricS :=
  { forwarding := false, queues := Vector.replicate 20 (Vector.replicate 8 []), hostQueue := [], nextUid := 0,
    cells := [], lastFirst := none, active := [0, 1, 2, 3, 4, 5, 6, 7], spare := some 8, retired := [],
    works := [], shadow := 0, passStart := 0, engine0 := .inService,
    engine1 := .inService, blame0 := [], blame1 := [], walkerBusyUntil := 0, learned := [], sentUids := [], bank := false,
    bank0 := none, bank1 := none, spilling := [], spillFailed := false }

/-- Nominal equalisation settings. -/
def EqSet.reset : EqSet := { pre := 0, main := 0, post := 0, mode := 0, ctle := 0 }

/-- A port while its lane has no power. -/
def PortS.reset : PortS :=
  { link := .disabled, laneUp := false, phyLink := false, downSince := none, holdEnd := none, releaseAt := none,
    script := none, anRestart := none, statusPoll := none, rate := 0, eq := EqSet.reset, dfe := none, txUntil := 0, txCut := false,
    txQueue := 0, txCells := [],
    pauseUntil := none, pausePending := none, pauseAcc := 0, pauseSince := 0, pauseIgnoreUntil := none }

/-- All ports without power, every PHY group held in reset (R170). -/
def PortsS.reset : PortsS :=
  { p := Vector.replicate 20 PortS.reset, phyReleased := Vector.replicate 4 false,
    releasedAt := Vector.replicate 4 0, pulseEnd := Vector.replicate 4 none,
    phyIntPending := Vector.replicate 4 false }

/-- A port's part of the time base before its first exchange. -/
def PortTime.reset : PortTime :=
  { role := .disabled, linkDelay := 0, ratio := 0, delayValid := false, measured := false, outstanding := none, requests := 0,
    nextPdelay := none, announce := none, txQueue := [], txOverflow := false, nextIdent := 0 }

/-- The time base: Unsynchronised, every register 0 (R187, R216). -/
def TimeS.reset : TimeS :=
  { fRaw := 0, anchor := 0, base := 0, rate := 0, state := .unsynchronised, offset := 0, gmIdentity := 0, gmClass := 248,
    stepsRemoved := 0, lastStep := 0, utcOffset := 0, slavePort := none, goodSyncs := 0, badSyncs := 0, armed := none,
    pendingSync := none, switchRef := none, adoptedAfterSwitch := false, holdSince := none, holdLimitPassed := false,
    syncDeadline := none, announceDeadline := none, roundHold := none, ttdpHold := false, revealed := [], burstUntil := none,
    appliedAt := none, coarse := 0, stepGen := 0, captures := [], capOverflow := false, capIdent := 0, lastEdge := none,
    lastEdgeT := none, ppsInLevel := false, tevtInLevel := false, ppsOut := false, ppsOutEnd := none, tevtOut := false,
    tevtOutEnd := none, tevtNext := none, ppsInLast := none, ppsInLostAt := none, ownClass := 248, syncSeq := 0,
    pdelaySeq := 0, overflowSecond := none, ports := Vector.replicate 20 PortTime.reset }

/-- No schedule (R254). -/
def SchedS.reset : SchedS :=
  { state := .off, image := none, pending := none, reception := none, offers := [], offered := none, lastRefused := false, gates := [],
    built := none, builtFor := 0, bankOne := false, building := false, switchPending := false, lastBoundary := 0, lastSwitch := 0,
    windows := Vector.replicate 20 none, arrived := [], seqs := [], counters := [], goodCycles := 0, syncSeen := false,
    badSeen := false, sinceSync := 0, cutUntil := none, closing := none, guardAdd := 0, offerDue := none,
    switchOffer := none }

/-- A stream that is Off (R283). -/
def StreamS.reset : StreamS :=
  { state := .off, mr := false, seq := 0, expected := 0, timeout := none, bufFrame := 0, buffer := [] }

/-- The stream engine with every stream Off and every audio port disabled (R283). -/
def StreamsS.reset : StreamsS :=
  { s := Vector.replicate 64 StreamS.reset, bank0 := [], bank1 := [], bankOne := false, built := none,
    builtFor := 0, building := false, switchPending := false, credit := Vector.replicate 20 (0, 0), gridOff := Vector.replicate 3 0, rephaseEnd := none,
    held := [], lastBoundary := none, running := Vector.replicate 4 false }

/-- A controller that is Off, every object Armed or Idle without data (R313). -/
def CanCtl.reset : CanCtl :=
  { state := .off, mode := 0, adopted := false, tec := 0, recv := 0, alone := false, ackErrors := 0, timing := none,
    objs := [], sending := none, sofAt := 0, sofUnsure := false, sofGen := 0, leaving := none, renewed := false, holdOffEnd := none,
    recoveryAsked := false, candidate := 0, candidateFrames := 0, dwellEnd := none, exceptionSecond := none,
    stb := true, txd := true }

/-- The gateway before commit epoch 1 (R344). -/
def GwS.reset : GwS :=
  { running := false,
    telegrams := Vector.replicate 64 { data := [], fresh := false, seq := 0, timeout := none, lastDue := none }, stages := [],
    chans := Vector.replicate 32
      { state := .idle, txn := none, fetching := none, due := [], fetchDeadline := none, cache := [], waiting := none },
    log := [] }

/-- A blank Tarn store. -/
def Tarn.blank : Tarn :=
  { generation := 0, bootCount := 0, enteredLastWord := 0, newestSlot := 0, writes := 0, header0 := [], header1 := [],
    words := Vector.replicate 4 none, area := [] }

/-- The recorder without power (R386). -/
def RecS.reset : RecS :=
  { state := .off, lastSeq := 0, staging := [], inflight := [], holding := [], holdingDrops := Vector.replicate 8 0,
    ring := [], early := [], log := [],
    summary := { valid := false, fmt := 0, slots := 0, generation := 0, lastWritten := 0, drops := Vector.replicate 8 0,
                 holdingDrops := 0, ringDrops := 0, failures := 0 },
    tarn := Tarn.blank, tarnCopies := [], freezeEnd := none, retryAt := none, mediumFailed := false, ddrFailed := false,
    dropsDue := 0, tarnMissed := false,
    afterRing := false, writeDeadline := none }

/-- A side from which nothing has been heard. -/
def SideInfo.reset : SideInfo := { flags := 0, need := false, scope := 0, holder := 0, silent := false, deadline := none }

/-- The sleep and wake manager after power-on reset: Awake, scope train (R410, R411). -/
def SleepS.reset : SleepS :=
  { state := .awake, scope := 2, wokenPorts := [], front := SideInfo.reset, rear := SideInfo.reset,
    requestDeadline := none, holdEnd := none, holdScope := 2, levelA := false, levelB := false, readyDeadline := none,
    committedAt := none, quiesced := false, latched := none, history := [], spent := [], twlOutEnd := none,
    timerEnd := none, readout := none, periodDue := none, lastNeed := true, lastScope := 2,
    toldFront := none, toldRear := none, lastSent := none, silentFront := false, silentRear := false }

/-- A load channel that is Off with its retries full (R438, 0x2C20 + k:0F). -/
def LoadCh.reset : LoadCh :=
  { state := .off, command := false, retries := 3, delayEnd := none, restartDue := false, windowEnd := none,
    extended := false, refillAt := none, spentAtLatch := false, latched := false, warmClearSince := none, bins := [],
    current := 0, temperature := 0, edge := 0 }

/-- A companion link that is off. -/
def Companion.reset : Companion :=
  { link := .off, ident := 0, supplyMv := 0, flags := 0, seq := 0, prevSeq := none, inFlight := none, bad := 0,
    config := [], reads := [], outputs := 0, keep := 0, again := false, againShort := false, restoreAt := none,
    lowWas := false, gapDue := none, freeAt := 0, retryAt := none, currentPoll := 0, tempPoll := 0 }

/-- The load-channel supervisor without power. -/
def LoadsS.reset : LoadsS := { ch := Vector.replicate 32 LoadCh.reset, comp := Vector.replicate 4 Companion.reset }

/-- An idle mailbox (R452). -/
def Mailbox.reset : Mailbox :=
  { window := [], busy := false, done := false, aborted := false, overrun := false, discard := false }

/-- A disabled ring (R459). -/
def Ring.reset : Ring :=
  { base := 0, size := 0, tail := 0, head := 0, enable := false, running := false, moderation := 0, error := 0,
    drops := 0, lastInt := none, deferred := false, fetch := 0, reading := none, ready := [], doneEarly := [],
    session := 0 }

/-- The host registers at reset (R447, R450). -/
def HostS.reset : HostS :=
  { intStatus := 0, enMsi := 0, enPin := 0, scratch := 0, mbPcie := Mailbox.reset, mbSerial := Mailbox.reset,
    snapPcie := { ns := 0, state := 0, stepGen := 0 }, snapSerial := { ns := 0, state := 0, stepGen := 0 },
    tcap := { ns := 0, valid := false, replaced := false, path := 0, stepGen := 0, count := 0 },
    hspBad := 0, hspUnknown := 0, serialRefused := false, perst := true, linkUp := false, wakeLow := false,
    msiTable := Vector.replicate 48 0, msiMask := Vector.replicate 16 true, msiPending := Vector.replicate 16 false,
    rings := Vector.replicate 10 Ring.reset }

/-- An empty firmware partition: it holds no image that could load. -/
def Partition.blank : Partition :=
  { magicOk := false, generation := 0, release := 0, length := 0, state := .invalid, trialBoots := 0, product := 0,
    loads := false, security := 0 }

/-- The image with which partition A leaves the factory, confirmed; the model's choice. DESIGN CHOICE, unsafe (log entry 3).
-/
def Partition.factory : Partition :=
  { magicOk := true, generation := 1, release := 0x00000304, length := 4096, state := .confirmed, trialBoots := 0,
    product := 0x8840, loads := true, security := 0 }

/-- Platform state while POR_N is asserted (R478, R483). -/
def PowerS.reset : PowerS :=
  { state := .resetHeld, bootStep := 0, bootCause := 1, porN := false, railCore := false, railDdr := false,
    pgCore := false, pgIo := false, ddrRiseAt := none, railDeadline := none, railRetry := none, enablesFellAt := none,
    selectRetry := none, warnIo := false, warnCore := false, warnIoAt := none, bootStart := 0, wakeDeadline := none,
    safeN := false, resetOutN := false, bypassA := false, bypassB := false, agentReady := false, booted := false,
    restarts := 0, seqState := .watching, episode := 0, latch := false, epochAppliedBeforeEpisode := false,
    readyDeadline := none, watchdogDeadline := none, stableDeadline := none, confirmDeadline := none, stale := 0,
    partA := Partition.factory, partB := Partition.blank, bootedB := false, fwImage := [], fwWriting := none,
    pmbusAddr := 0, island40Failed := false }

/-- An empty reference tracker (R508). -/
def Tracker.reset : Tracker :=
  { sum := 0, count := 0, hours := [], periodSum := 0, periodHours := 0, history := [], estimate := 0, drift := 0,
    learned := 0, learning := false, since := 0, updateAt := none }

/-- A health record copy that holds nothing (R510). -/
def HealthCopy.blank : HealthCopy :=
  { valid := false, generation := 0, estimate := 0, drift := 0, history := [], learned := 0, shifts := [] }

/-- Nominal clock of an island in kHz; a MAC island at 10GBASE-R (R16). -/
def nominalClock (i : Nat) : Nat :=
  if i < 20 then 156250 else if i < 29 then 500000 else if i = 29 then 400000 else if i = 30 then 250000
  else if i ≤ 32 then 200000 else if i = 33 then 80000 else if i = 34 then 200000 else if i = 35 then 800000
  else if i = 36 then 200000 else if i = 37 then 533250 else if i = 38 then 250000 else if i = 39 then 100000 else 25000

/-- Nominal clocks of all islands (R16). -/
def nominalClocks : Vector Nat 41 := Vector.ofFn (fun i => nominalClock i.val)

/-- Health functions before their first measurement. -/
def HealthS.reset : HealthS :=
  { sensors := Vector.replicate 128 { slack := 0, shift := 0, measured := false }, tracker := Tracker.reset,
    copy0 := HealthCopy.blank, copy1 := HealthCopy.blank, recordDue := none, planner := .idle, plan := none, undo := [],
    commanded := 800, scanDue := none, planDue := none, snapAt := none, lastSnap := none,
    confirmBy := none, applyAt := none, prevAmple := false, clocks := nominalClocks, exhausted := 0,
    offsetSq := 0, offsetCount := 0, symbolErrs := Vector.replicate 20 0,
    counters := Vector.replicate 64 { value := 0, overflow := false, snap := 0 } }

/-- Security as shipped: lifecycle Open (R533). -/
def SecS.reset : SecS :=
  { lifecycle := 1, positions := [], fwVersion := 0, keysZeroised := false, randomOk := true, proofFails := [],
    proofLockEnd := none, ir := .idcode, level := 0, grantEnd := none, nonce := [], authFails := [], authLockEnd := none,
    scanStarted := false, halted := false }

/-- The balls before the straps are latched (R567, R569). -/
def PinsS.reset : PinsS :=
  { strapPcie := false, strapHsp := false, strapW8 := false, strapPmb := false, testMode := false, gpioIn := 0,
    gpioLive := false, gpioHold := 0, gpioHeld := 0 }

/-- A configuration copy that was never written (R48). -/
def CfgCopy.blank : CfgCopy :=
  { magic := 0, generation := 0, count := 0, size := 0, epoch := 0, imageId := 0, product := 0, majorLine := 0, crc := 0,
    values := [], tables := [], marked := false }

/-- The dictionary with every entry at its default and nothing staged. -/
def DictS.reset : DictS :=
  { od := [], mem := [], epoch := 0, fenceToken := 0, staged := [], owner := none, idleDeadline := none,
    lastRefused := false, commit := none, heldCommit := none, fence := none, queue := [], copy0 := CfgCopy.blank,
    copy1 := CfgCopy.blank, image := [], imageStatus := 0, imageBy := none, imageStaged := none,
    sdo := Vector.replicate 8 none, sdoMode := Vector.replicate 8 .normal, sessions := [], owed := none, kdaSecond := 0, kdaCount := Vector.replicate 20 0 }

/-- The device while POR_N is asserted.  The fused identity, the fitted memory and the eMMC are the model's choice. DESIGN
CHOICE, unsafe (log entry 3); DESIGN CHOICE, safe (log entry 7). -/
def Dev.reset : Dev :=
  { now := 0, fresh := 0, out := [], dict := DictS.reset,
    node := { profile := 0, before := 0, fastEnd := none, fastEndedAt := none, junction := 250, vddio := 3300,
              vcore := 800, testStep := 0, stepBusy := false, selfTests := false, nextProfile := none, overTempAt := none },
    chip := { ident := 0x02B41C000311#48, ex := false, ddrMiB := 1024, emmc := true, regLinear := true,
              badSlices := [], badEngine0 := false, badEngine1 := false, tarnBad := [] },
    inaug := InaugS.reset, fab := FabricS.reset, ports := PortsS.reset, time := TimeS.reset, sched := SchedS.reset,
    strm := StreamsS.reset, can := Vector.replicate 8 CanCtl.reset, gw := GwS.reset, chk := [], recd := RecS.reset,
    sleep := SleepS.reset, load := LoadsS.reset, host := HostS.reset, pow := PowerS.reset, health := HealthS.reset,
    sec := SecS.reset, pins := PinsS.reset }

/-- The state right after reset, with no command waiting. DESIGN CHOICE, unsafe (log entry 3). -/
def State.reset : State := { dev := Dev.reset, pending := [] }

end Sys2Proof.Machine
end

