-- ==== Sys2Proof/Machine/Entries.lean ====
section
/-! DEFINITION. The dictionary entries of the spec's own tables (R4, R21, R62 to R66 and each chapter's entry tables):
index pattern, type, access right of each role, default, persistence class, staged or immediate, and the range that
row 4 of R35 checks. -/

namespace Sys2Proof.Machine

/-- Entries of R4, R62: indices from 0x1000 to 0x10FF. -/
def entries10 : List EntryRow := [
  ⟨0x1008, 1, 1, 0x00, 1, .vstr 255, 0x1111, .str "KZ8840", .fac, false, false, .any⟩,
  ⟨0x1009, 1, 1, 0x00, 1, .vstr 255, 0x1111, .str "B1", .fac, false, false, .any⟩,
  ⟨0x100A, 1, 1, 0x00, 1, .vstr 255, 0x1111, .nil, .fac, false, false, .any⟩,
  ⟨0x1018, 1, 1, 0x00, 1, .u8, 0x1111, .n 4, .fac, false, false, .any⟩,
  ⟨0x1018, 1, 1, 0x01, 1, .u32, 0x1111, .n 0xE3B, .fac, false, false, .any⟩,
  ⟨0x1018, 1, 1, 0x02, 1, .u32, 0x1111, .n 0x8840, .fac, false, false, .any⟩,
  ⟨0x1018, 1, 1, 0x03, 1, .u32, 0x1111, .n 0xB10304, .fac, false, false, .any⟩,
  ⟨0x1018, 1, 1, 0x04, 1, .u32, 0x1111, .n 0, .fac, false, false, .any⟩,
  ⟨0x1000, 1, 1, 0x00, 1, .u32, 0x1111, .n 0, .fac, false, false, .any⟩,
  ⟨0x1001, 1, 1, 0x00, 1, .u8, 0x1111, .n 0, .vol, false, false, .any⟩,
  ⟨0x1010, 1, 1, 0x00, 1, .u8, 0x1111, .n 1, .fac, false, false, .any⟩,
  ⟨0x1010, 1, 1, 0x01, 1, .u32, 0x1133, .n 1, .vol, true, false, .any⟩,
  ⟨0x1011, 1, 1, 0x00, 1, .u8, 0x1111, .n 1, .fac, false, false, .any⟩,
  ⟨0x1011, 1, 1, 0x01, 1, .u32, 0x1133, .n 1, .vol, true, false, .any⟩]

/-- Entries of R62: indices from 0x1200 to 0x12FF. -/
def entries12 : List EntryRow := [
  ⟨0x1200, 8, 1, 0x00, 1, .u8, 0x1111, .n 2, .fac, false, false, .any⟩,
  ⟨0x1200, 8, 1, 0x01, 1, .u32, 0x1133, .n 0, .sto, false, false, .any⟩,
  ⟨0x1200, 8, 1, 0x02, 1, .u32, 0x1133, .n 0, .sto, false, false, .any⟩]

/-- Entries of R21, R63, R64, R65, R66: indices from 0x2000 to 0x20FF. -/
def entries20 : List EntryRow := [
  ⟨0x2001, 1, 1, 0x00, 1, .u8, 0x1111, .n 6, .fac, false, false, .any⟩,
  ⟨0x2001, 1, 1, 0x01, 1, .u8, 0x1133, .n 0, .vol, false, false, .oneOf [0, 1, 2, 3]⟩,
  ⟨0x2001, 1, 1, 0x02, 1, .u8, 0x1111, .n 0, .vol, false, false, .any⟩,
  ⟨0x2001, 1, 1, 0x03, 1, .u8, 0x1133, .n 0, .sto, false, false, .oneOf [0, 1, 2]⟩,
  ⟨0x2001, 1, 1, 0x04, 1, .u16, 0x1111, .n 0, .vol, false, false, .any⟩,
  ⟨0x2001, 1, 1, 0x05, 1, .u32, 0x1111, .n 0, .vol, false, false, .any⟩,
  ⟨0x2001, 1, 1, 0x06, 1, .u8, 0x1111, .n 0, .vol, false, false, .any⟩,
  ⟨0x2002, 1, 1, 0x00, 1, .u8, 0x1111, .n 8, .fac, false, false, .any⟩,
  ⟨0x2002, 1, 1, 0x01, 1, .u32, 0x1333, .n 1, .vol, true, false, .any⟩,
  ⟨0x2002, 1, 1, 0x02, 1, .u32, 0x1333, .n 0, .vol, true, false, .any⟩,
  ⟨0x2002, 1, 1, 0x03, 1, .u16, 0x1111, .n 0, .vol, false, false, .any⟩,
  ⟨0x2002, 1, 1, 0x04, 1, .u8, 0x1111, .n 0, .vol, false, false, .any⟩,
  ⟨0x2002, 1, 1, 0x05, 1, .u32, 0x1111, .n 0, .vol, false, false, .any⟩,
  ⟨0x2002, 1, 1, 0x06, 1, .u8, 0x1333, .n 0, .vol, true, false, .oneOf [1]⟩,
  ⟨0x2002, 1, 1, 0x07, 1, .u16, 0x1133, .n 0x3C, .sto, false, false, .rng 10 600⟩,
  ⟨0x2002, 1, 1, 0x08, 1, .u32, 0x1111, .n 0, .vol, false, false, .any⟩,
  ⟨0x2003, 1, 1, 0x00, 1, .u8, 0x1111, .n 0xA, .fac, false, false, .any⟩,
  ⟨0x2003, 1, 1, 0x01, 1, .u32, 0x1133, .n 0, .vol, true, false, .zero⟩,
  ⟨0x2003, 1, 1, 0x02, 1, .u32, 0x1133, .n 0, .vol, true, false, .zero⟩,
  ⟨0x2003, 1, 1, 0x03, 1, .u32, 0x1133, .n 0, .vol, true, false, .zero⟩,
  ⟨0x2003, 1, 1, 0x04, 1, .u32, 0x1133, .n 0, .vol, true, false, .zero⟩,
  ⟨0x2003, 1, 1, 0x05, 1, .u32, 0x1133, .n 0, .vol, true, false, .zero⟩,
  ⟨0x2003, 1, 1, 0x06, 1, .u32, 0x1133, .n 0, .vol, true, false, .zero⟩,
  ⟨0x2003, 1, 1, 0x07, 1, .u32, 0x1133, .n 0, .vol, true, false, .zero⟩,
  ⟨0x2003, 1, 1, 0x08, 1, .u32, 0x1133, .n 0, .vol, true, false, .zero⟩,
  ⟨0x2003, 1, 1, 0x09, 1, .u32, 0x1133, .n 0, .vol, true, false, .zero⟩,
  ⟨0x2003, 1, 1, 0x0A, 1, .u32, 0x1133, .n 0, .vol, true, false, .zero⟩,
  ⟨0x2010, 1, 1, 0x00, 1, .u8, 0x1111, .n 0x12, .fac, false, false, .any⟩,
  ⟨0x2010, 1, 1, 0x01, 8, .u8, 0x1133, .n 0, .sto, false, false, .role⟩,
  ⟨0x2010, 1, 1, 0x09, 1, .u8, 0x1133, .n 0, .sto, false, false, .any⟩,
  ⟨0x2010, 1, 1, 0x0A, 1, .u8, 0x1133, .n 0x7F, .sto, false, false, .rng 1 127⟩,
  ⟨0x2010, 1, 1, 0x0B, 1, .u16, 0x1133, .n 0x1F4, .sto, false, false, .rng 100 10000⟩,
  ⟨0x2010, 1, 1, 0x0C, 1, .u32, 0x1133, .n 0xFFFFF, .sto, false, false, .maskNonzero 0x000FFFFF⟩,
  ⟨0x2010, 1, 1, 0x0D, 1, .u8, 0x1133, .n 8, .sto, false, false, .rng 1 8⟩,
  ⟨0x2010, 1, 1, 0x0E, 1, .u16, 0x1133, .n 0x1E, .sto, false, false, .rng 5 600⟩,
  ⟨0x2010, 1, 1, 0x0F, 1, .u8, 0x1133, .n 1, .sto, false, false, .rng 0 2⟩,
  ⟨0x2010, 1, 1, 0x10, 1, .u8, 0x1133, .n 1, .sto, false, false, .rng 0 2⟩,
  ⟨0x2010, 1, 1, 0x11, 1, .u8, 0x1111, .n 0, .vol, false, false, .any⟩,
  ⟨0x2010, 1, 1, 0x12, 1, .u32, 0x1111, .n 0, .vol, false, false, .any⟩,
  ⟨0x2011, 1, 1, 0x00, 1, .u8, 0x1111, .n 5, .fac, false, false, .any⟩,
  ⟨0x2011, 1, 1, 0x01, 1, .domain 16777216, 0x0022, .nil, .vol, true, false, .any⟩,
  ⟨0x2011, 1, 1, 0x02, 1, .u8, 0x0022, .n 0, .vol, true, false, .oneOf [1, 2]⟩,
  ⟨0x2011, 1, 1, 0x03, 1, .u8, 0x1111, .n 0, .vol, false, false, .any⟩,
  ⟨0x2011, 1, 1, 0x04, 1, .u32, 0x1111, .n 0, .sto, false, false, .any⟩,
  ⟨0x2011, 1, 1, 0x05, 1, .u32, 0x1111, .n 0, .vol, false, false, .any⟩]

/-- Entries of R112, R113, R114, R115: indices from 0x2100 to 0x21FF. -/
def entries21a : List EntryRow := [
  ⟨0x2100, 1, 1, 0x00, 1, .u8, 0x1111, .n 6, .fac, false, false, .any⟩,
  ⟨0x2100, 1, 1, 0x01, 1, .bool, 0x1133, .n 1, .sto, false, false, .any⟩,
  ⟨0x2100, 1, 1, 0x02, 1, .u32, 0x1133, .n 0, .sto, false, false, .any⟩,
  ⟨0x2100, 1, 1, 0x03, 1, .u8, 0x1133, .n 0, .sto, false, false, .rng 0 3⟩,
  ⟨0x2100, 1, 1, 0x04, 1, .u8, 0x1133, .n 1, .sto, false, false, .rng 1 4⟩,
  ⟨0x2100, 1, 1, 0x05, 1, .ostr 255, 0x1133, .bytes16, .sto, false, false, .lenNamed 16⟩,
  ⟨0x2100, 1, 1, 0x06, 1, .u8, 0x1333, .n 0, .vol, true, false, .oneOf [0, 1, 2]⟩,
  ⟨0x2101, 1, 1, 0x00, 1, .u8, 0x1111, .n 0x10, .fac, false, false, .any⟩,
  ⟨0x2101, 1, 1, 0x01, 1, .u8, 0x1111, .n 0, .vol, false, false, .any⟩,
  ⟨0x2101, 1, 1, 0x02, 1, .u8, 0x1111, .n 0, .vol, false, false, .any⟩,
  ⟨0x2101, 1, 1, 0x03, 1, .u32, 0x1111, .n 0, .vol, false, false, .any⟩,
  ⟨0x2101, 1, 1, 0x04, 1, .u16, 0x1111, .n 0, .vol, false, false, .any⟩,
  ⟨0x2101, 1, 1, 0x05, 1, .u8, 0x1111, .n 0, .vol, false, false, .any⟩,
  ⟨0x2101, 1, 1, 0x06, 1, .u8, 0x1111, .n 0, .vol, false, false, .any⟩,
  ⟨0x2101, 1, 1, 0x07, 1, .u8, 0x1111, .n 0, .vol, false, false, .any⟩,
  ⟨0x2101, 1, 1, 0x08, 1, .u8, 0x1111, .n 0, .vol, false, false, .any⟩,
  ⟨0x2101, 1, 1, 0x09, 1, .u64, 0x1111, .n 0, .vol, false, false, .any⟩,
  ⟨0x2101, 1, 1, 0x0A, 1, .u8, 0x1111, .n 0, .vol, false, false, .any⟩,
  ⟨0x2101, 1, 1, 0x0B, 1, .u8, 0x1111, .n 0, .vol, false, false, .any⟩,
  ⟨0x2101, 1, 1, 0x0C, 1, .u64, 0x1111, .n 0, .vol, false, false, .any⟩,
  ⟨0x2101, 1, 1, 0x0D, 1, .u32, 0x1111, .n 0, .vol, false, false, .any⟩,
  ⟨0x2101, 1, 1, 0x0E, 1, .u32, 0x1111, .n 0, .vol, false, false, .any⟩,
  ⟨0x2101, 1, 1, 0x0F, 1, .u16, 0x1111, .n 0, .vol, false, false, .any⟩,
  ⟨0x2101, 1, 1, 0x10, 1, .u8, 0x1111, .n 0, .vol, false, false, .any⟩,
  ⟨0x2102, 1, 1, 0x00, 1, .u8, 0x1111, .n 5, .fac, false, false, .any⟩,
  ⟨0x2102, 1, 1, 0x01, 1, .u16, 0x1133, .n 0x64, .sto, false, false, .rng 50 1000⟩,
  ⟨0x2102, 1, 1, 0x02, 1, .u16, 0x1133, .n 0x82, .sto, false, false, .rng 65 3000⟩,
  ⟨0x2102, 1, 1, 0x03, 1, .u16, 0x1133, .n 0xF, .sto, false, false, .rng 10 100⟩,
  ⟨0x2102, 1, 1, 0x04, 1, .u16, 0x1133, .n 0x2D, .sto, false, false, .rng 20 300⟩,
  ⟨0x2102, 1, 1, 0x05, 1, .u8, 0x1133, .n 3, .sto, false, false, .rng 1 10⟩,
  ⟨0x2103, 1, 1, 0x00, 1, .u8, 0x1111, .n 6, .fac, false, false, .any⟩,
  ⟨0x2103, 1, 1, 0x01, 1, .u8, 0x1133, .n 5, .sto, false, false, .rng 1 50⟩,
  ⟨0x2103, 1, 1, 0x02, 1, .u8, 0x1133, .n 3, .sto, false, false, .rng 2 10⟩,
  ⟨0x2103, 1, 1, 0x03, 1, .u16, 0x1133, .n 0x7D0, .sto, false, false, .rng 2000 3000⟩,
  ⟨0x2103, 1, 1, 0x04, 1, .u16, 0x1133, .n 0xBB8, .sto, false, false, .rng 2500 6000⟩,
  ⟨0x2103, 1, 1, 0x05, 1, .u16, 0x1133, .n 0xFA0, .sto, false, false, .rng 3000 4500⟩,
  ⟨0x2103, 1, 1, 0x06, 1, .u16, 0x1133, .n 0x5DC, .sto, false, false, .rng 1000 2000⟩,
  ⟨0x2104, 1, 1, 0x00, 1, .u8, 0x1111, .n 4, .fac, false, false, .any⟩,
  ⟨0x2104, 1, 1, 0x01, 1, .u16, 0x1133, .n 0x1F4, .sto, false, false, .rng 100 5000⟩,
  ⟨0x2104, 1, 1, 0x02, 1, .u16, 0x1111, .n 0, .vol, false, false, .any⟩,
  ⟨0x2104, 1, 1, 0x03, 1, .u16, 0x1111, .n 0, .vol, false, false, .any⟩,
  ⟨0x2104, 1, 1, 0x04, 1, .bool, 0x1111, .n 0, .vol, false, false, .any⟩,
  ⟨0x2105, 1, 1, 0x00, 1, .u8, 0x1111, .n 5, .fac, false, false, .any⟩,
  ⟨0x2105, 1, 1, 0x01, 1, .bool, 0x1333, .n 0, .vol, true, false, .any⟩,
  ⟨0x2105, 1, 1, 0x02, 1, .bool, 0x1111, .n 0, .vol, false, false, .any⟩,
  ⟨0x2105, 1, 1, 0x03, 1, .u8, 0x1111, .n 0, .vol, false, false, .any⟩,
  ⟨0x2105, 1, 1, 0x04, 1, .domain 65536, 0x1111, .nil, .vol, false, false, .any⟩,
  ⟨0x2105, 1, 1, 0x05, 1, .u32, 0x1133, .n 0, .vol, true, false, .zero⟩,
  ⟨0x2106, 1, 1, 0x00, 1, .u8, 0x1111, .n 5, .fac, false, false, .any⟩,
  ⟨0x2106, 1, 1, 0x01, 1, .u8, 0x1133, .n 0xFF, .sto, false, false, .oneOf [4, 5, 6, 7, 8, 9, 10, 11, 12, 13, 14, 15, 16, 17, 18, 19, 255]⟩]

/-- Entries of R115, R116, R117: indices from 0x2100 to 0x21FF. -/
def entries21b : List EntryRow := [
  ⟨0x2106, 1, 1, 0x02, 1, .u64, 0x1111, .n 0, .vol, false, false, .any⟩,
  ⟨0x2106, 1, 1, 0x03, 1, .u8, 0x1111, .n 0, .vol, false, false, .any⟩,
  ⟨0x2106, 1, 1, 0x04, 1, .u32, 0x1111, .n 0, .vol, false, false, .any⟩,
  ⟨0x2106, 1, 1, 0x05, 1, .u8, 0x1133, .n 3, .sto, false, false, .rng 2 20⟩,
  ⟨0x2107, 1, 1, 0x00, 1, .u8, 0x1111, .n 0xB, .fac, false, false, .any⟩,
  ⟨0x2107, 1, 1, 0x01, 1, .u32, 0x1133, .n 0, .vol, true, false, .zero⟩,
  ⟨0x2107, 1, 1, 0x02, 1, .u32, 0x1133, .n 0, .vol, true, false, .zero⟩,
  ⟨0x2107, 1, 1, 0x03, 1, .u32, 0x1133, .n 0, .vol, true, false, .zero⟩,
  ⟨0x2107, 1, 1, 0x04, 1, .u32, 0x1133, .n 0, .vol, true, false, .zero⟩,
  ⟨0x2107, 1, 1, 0x05, 1, .u32, 0x1133, .n 0, .vol, true, false, .zero⟩,
  ⟨0x2107, 1, 1, 0x06, 1, .u32, 0x1133, .n 0, .vol, true, false, .zero⟩,
  ⟨0x2107, 1, 1, 0x07, 1, .u32, 0x1133, .n 0, .vol, true, false, .zero⟩,
  ⟨0x2107, 1, 1, 0x08, 1, .u32, 0x1133, .n 0, .vol, true, false, .zero⟩,
  ⟨0x2107, 1, 1, 0x09, 1, .u32, 0x1133, .n 0, .vol, true, false, .zero⟩,
  ⟨0x2107, 1, 1, 0x0A, 1, .u32, 0x1133, .n 0, .vol, true, false, .zero⟩,
  ⟨0x2107, 1, 1, 0x0B, 1, .u32, 0x1133, .n 0, .vol, true, false, .zero⟩,
  ⟨0x2141, 63, 1, 0x00, 1, .u8, 0x1111, .n 5, .fac, false, false, .any⟩,
  ⟨0x2141, 63, 1, 0x01, 1, .u64, 0x1111, .n 0, .vol, false, false, .any⟩,
  ⟨0x2141, 63, 1, 0x02, 1, .u8, 0x1111, .n 0, .vol, false, false, .any⟩,
  ⟨0x2141, 63, 1, 0x03, 1, .u8, 0x1111, .n 0, .vol, false, false, .any⟩,
  ⟨0x2141, 63, 1, 0x04, 1, .u8, 0x1111, .n 0, .vol, false, false, .any⟩,
  ⟨0x2141, 63, 1, 0x05, 1, .u32, 0x1111, .n 0, .vol, false, false, .any⟩,
  ⟨0x2181, 32, 1, 0x00, 1, .u8, 0x1111, .n 4, .fac, false, false, .any⟩,
  ⟨0x2181, 32, 1, 0x01, 1, .ostr 255, 0x1111, .nil, .vol, false, false, .any⟩,
  ⟨0x2181, 32, 1, 0x02, 1, .u8, 0x1111, .n 0, .vol, false, false, .any⟩,
  ⟨0x2181, 32, 1, 0x03, 1, .u8, 0x1111, .n 0, .vol, false, false, .any⟩,
  ⟨0x2181, 32, 1, 0x04, 1, .bool, 0x1111, .n 0, .vol, false, false, .any⟩]

/-- Entries of R154, R155, R156: indices from 0x2200 to 0x22FF. -/
def entries22a : List EntryRow := [
  ⟨0x2200, 1, 1, 0x00, 1, .u8, 0x1111, .n 9, .fac, false, false, .any⟩,
  ⟨0x2200, 1, 1, 0x01, 1, .u16, 0x1111, .n 0xFF, .vol, false, false, .any⟩,
  ⟨0x2200, 1, 1, 0x02, 1, .u8, 0x1111, .n 8, .vol, false, false, .any⟩,
  ⟨0x2200, 1, 1, 0x03, 1, .u16, 0x1111, .n 0, .vol, false, false, .any⟩,
  ⟨0x2200, 1, 1, 0x04, 1, .u8, 0x1111, .n 0, .vol, false, false, .any⟩,
  ⟨0x2200, 1, 1, 0x05, 1, .u16, 0x1111, .n 0x6000, .vol, false, false, .any⟩,
  ⟨0x2200, 1, 1, 0x06, 1, .u16, 0x1111, .n 0x5840, .vol, false, false, .any⟩,
  ⟨0x2200, 1, 1, 0x07, 1, .u32, 0x1111, .n 0, .vol, false, false, .any⟩,
  ⟨0x2200, 1, 1, 0x08, 1, .u8, 0x1111, .n 0, .vol, false, false, .any⟩,
  ⟨0x2200, 1, 1, 0x09, 1, .u32, 0x1111, .n 0, .vol, false, false, .any⟩,
  ⟨0x2201, 1, 1, 0x00, 1, .u8, 0x1111, .n 6, .fac, false, false, .any⟩,
  ⟨0x2201, 1, 1, 0x01, 1, .u16, 0x1133, .n 8, .sto, false, false, .rng 1 1000⟩,
  ⟨0x2201, 1, 1, 0x02, 1, .u16, 0x1133, .n 0x3E8, .sto, false, false, .rng 10 60000⟩,
  ⟨0x2201, 1, 1, 0x03, 1, .u32, 0x1133, .n 0xFFFF0, .sto, false, false, .mask 0x000FFFF0⟩,
  ⟨0x2201, 1, 1, 0x04, 1, .u16, 0x1133, .n 0x12C, .sto, false, false, .rngOr 10 3600 0⟩,
  ⟨0x2201, 1, 1, 0x05, 1, .u8, 0x1133, .n 0, .sto, false, false, .oneOf [0, 1]⟩,
  ⟨0x2201, 1, 1, 0x06, 1, .u16, 0x1111, .n 0, .vol, false, false, .any⟩,
  ⟨0x2202, 1, 1, 0x00, 1, .u8, 0x1111, .n 3, .fac, false, false, .any⟩,
  ⟨0x2202, 1, 1, 0x01, 1, .bool, 0x1133, .n 1, .sto, false, false, .any⟩,
  ⟨0x2202, 1, 1, 0x02, 1, .u16, 0x1111, .n 0, .vol, false, false, .any⟩,
  ⟨0x2202, 1, 1, 0x03, 1, .u8, 0x1133, .n 0, .sto, false, false, .oneOf [0, 1]⟩,
  ⟨0x2203, 1, 1, 0x00, 1, .u8, 0x1111, .n 8, .fac, false, false, .any⟩,
  ⟨0x2203, 1, 1, 0x01, 1, .u8, 0x1133, .n 0, .sto, false, false, .rng 0 4⟩,
  ⟨0x2203, 1, 1, 0x02, 1, .u8, 0x1133, .n 0, .sto, false, false, .rng 0 4⟩,
  ⟨0x2203, 1, 1, 0x03, 1, .u8, 0x1133, .n 1, .sto, false, false, .rng 0 4⟩,
  ⟨0x2203, 1, 1, 0x04, 1, .u8, 0x1133, .n 1, .sto, false, false, .rng 0 4⟩,
  ⟨0x2203, 1, 1, 0x05, 1, .u8, 0x1133, .n 2, .sto, false, false, .rng 0 4⟩,
  ⟨0x2203, 1, 1, 0x06, 1, .u8, 0x1133, .n 3, .sto, false, false, .rng 0 4⟩,
  ⟨0x2203, 1, 1, 0x07, 1, .u8, 0x1133, .n 4, .sto, false, false, .rng 0 4⟩,
  ⟨0x2203, 1, 1, 0x08, 1, .u8, 0x1133, .n 4, .sto, false, false, .rng 0 4⟩,
  ⟨0x2204, 1, 1, 0x00, 1, .u8, 0x1111, .n 9, .fac, false, false, .any⟩,
  ⟨0x2204, 1, 1, 0x01, 1, .u16, 0x1133, .n 0x10, .sto, false, false, .rng 8 64⟩,
  ⟨0x2204, 1, 1, 0x02, 1, .u16, 0x1133, .n 0xC0, .sto, false, false, .rng 0 512⟩,
  ⟨0x2204, 1, 1, 0x03, 1, .u16, 0x1133, .n 0x40, .sto, false, false, .rng 0 256⟩,
  ⟨0x2204, 1, 1, 0x04, 1, .u16, 0x1133, .n 8, .sto, false, false, .rng 4 32⟩,
  ⟨0x2204, 1, 1, 0x05, 1, .u16, 0x1133, .n 0x10, .sto, false, false, .rng 0 128⟩,
  ⟨0x2204, 1, 1, 0x06, 1, .u16, 0x1133, .n 0x20, .sto, false, false, .rng 0 128⟩,
  ⟨0x2204, 1, 1, 0x07, 1, .u16, 0x1133, .n 0x1000, .sto, false, false, .rng 256 16384⟩,
  ⟨0x2204, 1, 1, 0x08, 1, .u16, 0x1133, .n 0x800, .sto, false, false, .rng 128 8192⟩,
  ⟨0x2204, 1, 1, 0x09, 1, .u16, 0x1133, .n 0x400, .sto, false, false, .rng 64 4096⟩,
  ⟨0x2205, 1, 1, 0x00, 1, .u8, 0x1111, .n 5, .fac, false, false, .any⟩,
  ⟨0x2205, 1, 1, 0x01, 1, .bool, 0x1133, .n 1, .sto, false, false, .any⟩,
  ⟨0x2205, 1, 1, 0x02, 1, .u16, 0x1133, .n 0x200, .sto, false, false, .rng 64 8192⟩,
  ⟨0x2205, 1, 1, 0x03, 1, .u16, 0x1133, .n 0x100, .sto, false, false, .rng 16 2048⟩,
  ⟨0x2205, 1, 1, 0x04, 1, .u8, 0x1133, .n 0x28, .sto, false, false, .rng 8 64⟩,
  ⟨0x2205, 1, 1, 0x05, 1, .u8, 0x1111, .n 1, .vol, false, false, .any⟩,
  ⟨0x2206, 1, 1, 0x00, 1, .u8, 0x1111, .n 5, .fac, false, false, .any⟩,
  ⟨0x2206, 1, 1, 0x01, 1, .u16, 0x1133, .n 0x10, .sto, false, false, .rng 1 1000⟩,
  ⟨0x2206, 1, 1, 0x02, 1, .u16, 0x1133, .n 0xA, .sto, false, false, .rng 1 3600⟩,
  ⟨0x2206, 1, 1, 0x03, 1, .u8, 0x0022, .n 0, .vol, true, false, .rng 0 8⟩]

/-- Entries of R156, R157, R158: indices from 0x2200 to 0x22FF. -/
def entries22b : List EntryRow := [
  ⟨0x2206, 1, 1, 0x04, 1, .u8, 0x1111, .n 0, .vol, false, false, .any⟩,
  ⟨0x2206, 1, 1, 0x05, 1, .u16, 0x1111, .n 0, .vol, false, false, .any⟩,
  ⟨0x2207, 1, 1, 0x00, 1, .u8, 0x1111, .n 0xF, .fac, false, false, .any⟩,
  ⟨0x2207, 1, 1, 0x01, 1, .u32, 0x1133, .n 0, .vol, true, false, .zero⟩,
  ⟨0x2207, 1, 1, 0x02, 1, .u32, 0x1133, .n 0, .vol, true, false, .zero⟩,
  ⟨0x2207, 1, 1, 0x03, 1, .u32, 0x1133, .n 0, .vol, true, false, .zero⟩,
  ⟨0x2207, 1, 1, 0x04, 1, .u32, 0x1133, .n 0, .vol, true, false, .zero⟩,
  ⟨0x2207, 1, 1, 0x05, 1, .u32, 0x1133, .n 0, .vol, true, false, .zero⟩,
  ⟨0x2207, 1, 1, 0x06, 1, .u32, 0x1133, .n 0, .vol, true, false, .zero⟩,
  ⟨0x2207, 1, 1, 0x07, 1, .u32, 0x1133, .n 0, .vol, true, false, .zero⟩,
  ⟨0x2207, 1, 1, 0x08, 1, .u32, 0x1133, .n 0, .vol, true, false, .zero⟩,
  ⟨0x2207, 1, 1, 0x09, 1, .u32, 0x1133, .n 0, .vol, true, false, .zero⟩,
  ⟨0x2207, 1, 1, 0x0A, 1, .u32, 0x1133, .n 0, .vol, true, false, .zero⟩,
  ⟨0x2207, 1, 1, 0x0B, 1, .u32, 0x1133, .n 0, .vol, true, false, .zero⟩,
  ⟨0x2207, 1, 1, 0x0C, 1, .u32, 0x1133, .n 0, .vol, true, false, .zero⟩,
  ⟨0x2207, 1, 1, 0x0D, 1, .u32, 0x1133, .n 0, .vol, true, false, .zero⟩,
  ⟨0x2207, 1, 1, 0x0E, 1, .u32, 0x1133, .n 0, .vol, true, false, .zero⟩,
  ⟨0x2207, 1, 1, 0x0F, 1, .u32, 0x1133, .n 0, .vol, true, false, .zero⟩,
  ⟨0x2210, 20, 1, 0x00, 1, .u8, 0x1111, .n 0xB, .fac, false, false, .any⟩,
  ⟨0x2210, 20, 1, 0x01, 8, .u32, 0x1133, .n 0, .vol, true, false, .zero⟩,
  ⟨0x2210, 20, 1, 0x09, 1, .u32, 0x1133, .n 0, .vol, true, false, .zero⟩,
  ⟨0x2210, 20, 1, 0x0A, 1, .u32, 0x1133, .n 0, .vol, true, false, .zero⟩,
  ⟨0x2210, 20, 1, 0x0B, 1, .u32, 0x1133, .n 0, .vol, true, false, .zero⟩]

/-- Entries of R186: indices from 0x2300 to 0x23FF. -/
def entries23a : List EntryRow := [
  ⟨0x2300, 20, 1, 0x00, 1, .u8, 0x1111, .n 0x32, .fac, false, false, .any⟩,
  ⟨0x2300, 20, 1, 0x01, 1, .bool, 0x1133, .n 1, .sto, false, false, .any⟩,
  ⟨0x2300, 4, 1, 0x02, 1, .u8, 0x1133, .n 3, .sto, false, false, .oneOf [3]⟩,
  ⟨0x2304, 16, 1, 0x02, 1, .u8, 0x1133, .n 1, .sto, false, false, .oneOf [1, 2]⟩,
  ⟨0x2300, 4, 1, 0x03, 1, .bool, 0x1133, .n 0, .sto, false, false, .oneOf [0]⟩,
  ⟨0x2304, 16, 1, 0x03, 1, .bool, 0x1133, .n 1, .sto, false, false, .any⟩,
  ⟨0x2300, 20, 1, 0x04, 1, .u16, 0x1133, .n 0x5F2, .sto, false, false, .rng 1518 9216⟩,
  ⟨0x2300, 4, 1, 0x05, 1, .bool, 0x1133, .n 0, .sto, false, false, .any⟩,
  ⟨0x2304, 16, 1, 0x05, 1, .bool, 0x1133, .n 1, .sto, false, false, .any⟩,
  ⟨0x2300, 20, 1, 0x06, 1, .u16, 0x1133, .n 0x14, .sto, false, false, .rng 1 1000⟩,
  ⟨0x2300, 20, 1, 0x07, 1, .u16, 0x1133, .n 0x64, .sto, false, false, .rng 0 10000⟩,
  ⟨0x2300, 20, 1, 0x08, 1, .bool, 0x1133, .n 0, .sto, false, false, .any⟩,
  ⟨0x2300, 20, 1, 0x09, 1, .u16, 0x1133, .n 1, .sto, false, false, .rng 1 4094⟩,
  ⟨0x2300, 20, 1, 0x0A, 1, .u8, 0x1133, .n 0, .sto, false, false, .rng 0 7⟩,
  ⟨0x2300, 20, 1, 0x0B, 1, .u16, 0x1133, .n 0x64, .sto, false, false, .rng 0 1000⟩,
  ⟨0x2300, 20, 1, 0x0C, 1, .u16, 0x1133, .n 0, .sto, false, false, .rng 0 1000⟩,
  ⟨0x2300, 20, 1, 0x0D, 1, .u8, 0x1133, .n 0, .sto, false, false, .oneOf [0, 1]⟩,
  ⟨0x2300, 20, 1, 0x0E, 1, .u8, 0x1133, .n 0, .sto, false, false, .mask 0x03⟩,
  ⟨0x2300, 4, 1, 0x0F, 1, .u8, 0x1133, .n 2, .sto, false, true, .rng 0 15⟩,
  ⟨0x2304, 16, 1, 0x0F, 1, .u8, 0x1133, .n 0, .sto, false, true, .rng 0 15⟩,
  ⟨0x2300, 20, 1, 0x10, 1, .u8, 0x1133, .n 0x30, .sto, false, true, .rng 0 63⟩,
  ⟨0x2300, 4, 1, 0x11, 1, .u8, 0x1133, .n 6, .sto, false, true, .rng 0 31⟩,
  ⟨0x2304, 16, 1, 0x11, 1, .u8, 0x1133, .n 2, .sto, false, true, .rng 0 31⟩,
  ⟨0x2300, 20, 1, 0x12, 1, .u8, 0x1133, .n 0, .sto, false, true, .oneOf [0, 1]⟩,
  ⟨0x2300, 20, 1, 0x13, 1, .u8, 0x1133, .n 8, .sto, false, true, .rng 0 15⟩,
  ⟨0x2300, 20, 1, 0x14, 1, .u32, 0x1133, .n 0, .sto, false, false, .rng 0 1000000⟩,
  ⟨0x2300, 20, 1, 0x15, 1, .u32, 0x1133, .n 0, .sto, false, false, .rng 0 1000000⟩,
  ⟨0x2300, 4, 1, 0x16, 1, .u8, 0x1133, .n 0, .sto, false, false, .oneOf [0, 1, 0xFF]⟩,
  ⟨0x2304, 16, 1, 0x16, 1, .u8, 0x1133, .n 1, .sto, false, false, .oneOf [0, 1, 0xFF]⟩,
  ⟨0x2300, 4, 1, 0x17, 1, .u8, 0x1133, .off 0x2300, .sto, false, false, .rng 0 31⟩,
  ⟨0x2304, 16, 1, 0x17, 1, .u8, 0x1133, .off 0x2304, .sto, false, false, .rng 0 31⟩,
  ⟨0x2300, 4, 1, 0x18, 1, .u8, 0x1133, .n 0x2D, .sto, false, false, .oneOf [22, 45]⟩,
  ⟨0x2304, 16, 1, 0x18, 1, .u8, 0x1133, .n 0x16, .sto, false, false, .oneOf [22, 45]⟩,
  ⟨0x2300, 20, 1, 0x19, 1, .domain 512, 0x1133, .nil, .sto, false, false, .any⟩,
  ⟨0x2300, 20, 1, 0x1A, 1, .u32, 0x1133, .n 0, .sto, false, false, .any⟩,
  ⟨0x2300, 20, 1, 0x1B, 1, .u32, 0x0033, .n 0, .vol, true, false, .mask 0x001FFFFF⟩,
  ⟨0x2300, 20, 1, 0x1C, 1, .u16, 0x0033, .n 0, .vol, true, false, .any⟩,
  ⟨0x2300, 20, 1, 0x1D, 1, .u8, 0x1111, .n 0, .vol, false, false, .any⟩,
  ⟨0x2300, 20, 1, 0x1E, 1, .u8, 0x1111, .n 0, .vol, false, false, .any⟩,
  ⟨0x2300, 20, 1, 0x1F, 1, .u32, 0x1111, .n 0, .vol, false, false, .any⟩,
  ⟨0x2300, 20, 1, 0x20, 1, .u32, 0x1111, .n 0, .vol, false, false, .any⟩,
  ⟨0x2300, 20, 1, 0x21, 1, .u16, 0x1133, .n 0x32, .sto, false, false, .rng 1 1000⟩,
  ⟨0x2300, 20, 1, 0x22, 1, .u8, 0x0022, .n 0, .vol, true, false, .oneOf [1]⟩,
  ⟨0x2300, 20, 1, 0x23, 1, .u64, 0x1133, .n 0, .vol, true, false, .zero⟩,
  ⟨0x2300, 20, 1, 0x24, 1, .u64, 0x1133, .n 0, .vol, true, false, .zero⟩,
  ⟨0x2300, 20, 1, 0x25, 1, .u64, 0x1133, .n 0, .vol, true, false, .zero⟩,
  ⟨0x2300, 20, 1, 0x26, 1, .u32, 0x1133, .n 0, .vol, true, false, .zero⟩,
  ⟨0x2300, 20, 1, 0x27, 1, .u32, 0x1133, .n 0, .vol, true, false, .zero⟩,
  ⟨0x2300, 20, 1, 0x28, 1, .u32, 0x1133, .n 0, .vol, true, false, .zero⟩,
  ⟨0x2300, 20, 1, 0x29, 1, .u32, 0x1133, .n 0, .vol, true, false, .zero⟩]

/-- Entries of R186: indices from 0x2300 to 0x23FF. -/
def entries23b : List EntryRow := [
  ⟨0x2300, 20, 1, 0x2A, 1, .u32, 0x1133, .n 0, .vol, true, false, .zero⟩,
  ⟨0x2300, 20, 1, 0x2B, 1, .u32, 0x1133, .n 0, .vol, true, false, .zero⟩,
  ⟨0x2300, 20, 1, 0x2C, 1, .u32, 0x1133, .n 0, .vol, true, false, .zero⟩,
  ⟨0x2300, 20, 1, 0x2D, 1, .u32, 0x1133, .n 0, .vol, true, false, .zero⟩,
  ⟨0x2300, 20, 1, 0x2E, 1, .u32, 0x1133, .n 0, .vol, true, false, .zero⟩,
  ⟨0x2300, 20, 1, 0x2F, 1, .u32, 0x1133, .n 0, .vol, true, false, .zero⟩,
  ⟨0x2300, 20, 1, 0x30, 1, .u32, 0x1133, .n 0, .vol, true, false, .zero⟩,
  ⟨0x2300, 20, 1, 0x31, 1, .u32, 0x1133, .n 0, .vol, true, false, .zero⟩,
  ⟨0x2300, 20, 1, 0x32, 1, .u32, 0x1133, .n 0, .vol, true, false, .zero⟩]

/-- Entries of R218, R219, R220, R221, R222: indices from 0x2400 to 0x24FF. -/
def entries24a : List EntryRow := [
  ⟨0x2400, 1, 1, 0x00, 1, .u8, 0x1111, .n 0xC, .fac, false, false, .any⟩,
  ⟨0x2400, 1, 1, 0x01, 1, .u8, 0x1111, .n 0, .vol, false, false, .any⟩,
  ⟨0x2400, 1, 1, 0x02, 1, .u64, 0x1111, .n 0, .vol, false, false, .any⟩,
  ⟨0x2400, 1, 1, 0x03, 1, .u64, 0x1111, .n 0, .vol, false, false, .any⟩,
  ⟨0x2400, 1, 1, 0x04, 1, .i64, 0x1111, .n 0, .vol, false, false, .any⟩,
  ⟨0x2400, 1, 1, 0x05, 1, .i32, 0x1111, .n 0, .vol, false, false, .any⟩,
  ⟨0x2400, 1, 1, 0x06, 1, .u64, 0x1111, .n 0, .vol, false, false, .any⟩,
  ⟨0x2400, 1, 1, 0x07, 1, .u8, 0x1111, .n 0xF8, .vol, false, false, .any⟩,
  ⟨0x2400, 1, 1, 0x08, 1, .u16, 0x1111, .n 0, .vol, false, false, .any⟩,
  ⟨0x2400, 1, 1, 0x09, 1, .i64, 0x1111, .n 0, .vol, false, false, .any⟩,
  ⟨0x2400, 1, 1, 0x0A, 1, .u32, 0x1111, .n 0, .vol, false, false, .any⟩,
  ⟨0x2400, 1, 1, 0x0B, 1, .i16, 0x1111, .n 0, .vol, false, false, .any⟩,
  ⟨0x2400, 1, 1, 0x0C, 1, .u8, 0x1111, .n 0xFF, .vol, false, false, .any⟩,
  ⟨0x2401, 1, 1, 0x00, 1, .u8, 0x1111, .n 5, .fac, false, false, .any⟩,
  ⟨0x2401, 1, 1, 0x01, 1, .u64, 0x1133, .n 0x400000000, .sto, true, false, .rng 0x00000003FEF9DB23 0x00000004010624DD⟩,
  ⟨0x2401, 1, 1, 0x02, 1, .u8, 0x1133, .n 0, .sto, false, false, .oneOf [0, 1]⟩,
  ⟨0x2401, 1, 1, 0x03, 1, .i64, 0x0022, .n 0, .vol, true, false, .any⟩,
  ⟨0x2401, 1, 1, 0x04, 1, .i16, 0x1133, .n 0x25, .sto, false, false, .rng 0 255⟩,
  ⟨0x2401, 1, 1, 0x05, 1, .u32, 0x1133, .n 0x3E8, .sto, false, false, .rng 0 1000000⟩,
  ⟨0x2402, 1, 1, 0x00, 1, .u8, 0x1111, .n 0xD, .fac, false, false, .any⟩,
  ⟨0x2402, 1, 1, 0x01, 1, .u8, 0x1133, .n 0xF8, .sto, false, false, .rng 0 255⟩,
  ⟨0x2402, 1, 1, 0x02, 1, .u8, 0x1133, .n 0xF8, .sto, false, false, .rng 0 255⟩,
  ⟨0x2402, 1, 1, 0x03, 1, .i8, 0x1133, .n 0xFB, .sto, false, false, .rng (-7) (0)⟩,
  ⟨0x2402, 1, 1, 0x04, 1, .i8, 0x1133, .n 0, .sto, false, false, .rng (-3) (3)⟩,
  ⟨0x2402, 1, 1, 0x05, 1, .i8, 0x1133, .n 0, .sto, false, false, .rng (-3) (3)⟩,
  ⟨0x2402, 1, 1, 0x06, 1, .u8, 0x1133, .n 3, .sto, false, false, .rng 2 10⟩,
  ⟨0x2402, 1, 1, 0x07, 1, .u8, 0x1133, .n 3, .sto, false, false, .rng 2 10⟩,
  ⟨0x2402, 1, 1, 0x08, 1, .u16, 0x1133, .n 0x64, .sto, false, false, .rng 20 1000⟩,
  ⟨0x2402, 1, 1, 0x09, 1, .u32, 0x1133, .n 0x3E8, .sto, false, false, .rng 200 1000000⟩,
  ⟨0x2402, 1, 1, 0x0A, 1, .u32, 0x1133, .n 0x989680, .sto, false, false, .rng 1000000 100000000⟩,
  ⟨0x2402, 1, 1, 0x0B, 1, .u16, 0x1133, .n 0x64, .sto, false, false, .rng 50 1000⟩,
  ⟨0x2402, 1, 1, 0x0C, 1, .u16, 0x1133, .n 0x3C, .sto, false, false, .rng 1 3600⟩,
  ⟨0x2402, 1, 1, 0x0D, 1, .u8, 0x1133, .n 0, .sto, false, false, .oneOf [0, 1]⟩,
  ⟨0x2403, 1, 1, 0x00, 1, .u8, 0x1111, .n 0xB, .fac, false, false, .any⟩,
  ⟨0x2403, 1, 1, 0x01, 1, .u8, 0x1133, .n 2, .sto, false, false, .oneOf [0, 1, 2]⟩,
  ⟨0x2403, 1, 1, 0x02, 1, .u32, 0x1133, .n 0x186A0, .sto, false, false, .rng 1 500000⟩,
  ⟨0x2403, 1, 1, 0x03, 1, .i16, 0x1133, .n 0, .sto, false, false, .rng (-1000) (1000)⟩,
  ⟨0x2403, 1, 1, 0x04, 1, .u8, 0x1333, .n 0, .vol, false, false, .oneOf [0, 1, 2]⟩,
  ⟨0x2403, 1, 1, 0x05, 1, .u64, 0x1333, .n 0, .vol, false, false, .any⟩,
  ⟨0x2403, 1, 1, 0x06, 1, .u32, 0x1333, .n 0xF4240, .vol, false, false, .rng 1000 1000000000⟩,
  ⟨0x2403, 1, 1, 0x07, 1, .u32, 0x1333, .n 0x3E8, .vol, false, false, .rng 100 500000000⟩,
  ⟨0x2403, 1, 1, 0x08, 1, .u8, 0x1133, .n 1, .sto, false, false, .oneOf [0, 1, 2, 3]⟩,
  ⟨0x2403, 1, 1, 0x09, 1, .u8, 0x1133, .n 0, .sto, false, false, .oneOf [0, 1, 2, 3]⟩,
  ⟨0x2403, 1, 1, 0x0A, 1, .u64, 0x1111, .n 0, .vol, false, false, .any⟩,
  ⟨0x2403, 1, 1, 0x0B, 1, .u8, 0x1111, .n 0, .vol, false, false, .any⟩,
  ⟨0x2404, 1, 1, 0x00, 1, .u8, 0x1111, .n 0xA, .fac, false, false, .any⟩,
  ⟨0x2404, 1, 1, 0x01, 1, .u32, 0x1133, .n 0, .vol, true, false, .zero⟩,
  ⟨0x2404, 1, 1, 0x02, 1, .u32, 0x1133, .n 0, .vol, true, false, .zero⟩,
  ⟨0x2404, 1, 1, 0x03, 1, .u32, 0x1133, .n 0, .vol, true, false, .zero⟩,
  ⟨0x2404, 1, 1, 0x04, 1, .u32, 0x1133, .n 0, .vol, true, false, .zero⟩]

/-- Entries of R222, R223: indices from 0x2400 to 0x24FF. -/
def entries24b : List EntryRow := [
  ⟨0x2404, 1, 1, 0x05, 1, .u32, 0x1133, .n 0, .vol, true, false, .zero⟩,
  ⟨0x2404, 1, 1, 0x06, 1, .u32, 0x1133, .n 0, .vol, true, false, .zero⟩,
  ⟨0x2404, 1, 1, 0x07, 1, .u32, 0x1133, .n 0, .vol, true, false, .zero⟩,
  ⟨0x2404, 1, 1, 0x08, 1, .u32, 0x1133, .n 0, .vol, true, false, .zero⟩,
  ⟨0x2404, 1, 1, 0x09, 1, .u32, 0x1133, .n 0, .vol, true, false, .zero⟩,
  ⟨0x2404, 1, 1, 0x0A, 1, .u32, 0x1133, .n 0, .vol, true, false, .zero⟩,
  ⟨0x2410, 20, 1, 0x00, 1, .u8, 0x1111, .n 0xE, .fac, false, false, .any⟩,
  ⟨0x2410, 20, 1, 0x01, 1, .bool, 0x1133, .n 1, .sto, false, false, .any⟩,
  ⟨0x2410, 20, 1, 0x02, 1, .u8, 0x1111, .n 0, .vol, false, false, .any⟩,
  ⟨0x2410, 20, 1, 0x03, 1, .u32, 0x1111, .n 0, .vol, false, false, .any⟩,
  ⟨0x2410, 20, 1, 0x04, 1, .i32, 0x1111, .n 0, .vol, false, false, .any⟩,
  ⟨0x2410, 20, 1, 0x05, 1, .i32, 0x1133, .n 0, .sto, false, false, .rng (-100000) (100000)⟩,
  ⟨0x2410, 20, 1, 0x06, 1, .u32, 0x1133, .n 0xF4240, .sto, false, false, .rng 0 2000000⟩,
  ⟨0x2410, 20, 1, 0x07, 1, .bool, 0x1111, .n 0, .vol, false, false, .any⟩,
  ⟨0x2410, 20, 1, 0x08, 1, .bool, 0x1133, .n 1, .sto, false, false, .any⟩,
  ⟨0x2410, 20, 1, 0x09, 1, .u64, 0x1111, .n 0, .vol, false, false, .any⟩,
  ⟨0x2410, 20, 1, 0x0A, 1, .u8, 0x1111, .n 0, .vol, false, false, .any⟩,
  ⟨0x2410, 20, 1, 0x0B, 1, .u32, 0x1133, .n 0, .vol, true, false, .zero⟩,
  ⟨0x2410, 20, 1, 0x0C, 1, .u32, 0x1133, .n 0, .vol, true, false, .zero⟩,
  ⟨0x2410, 20, 1, 0x0D, 1, .u32, 0x1133, .n 0, .vol, true, false, .zero⟩,
  ⟨0x2410, 20, 1, 0x0E, 1, .u32, 0x1133, .n 0, .vol, true, false, .zero⟩]

/-- Entries of R256, R257, R258, R259, R260: indices from 0x2500 to 0x25FF. -/
def entries25 : List EntryRow := [
  ⟨0x2500, 1, 1, 0x00, 1, .u8, 0x1111, .n 9, .fac, false, false, .any⟩,
  ⟨0x2500, 1, 1, 0x01, 1, .u8, 0x1111, .n 0, .vol, false, false, .any⟩,
  ⟨0x2500, 1, 1, 0x02, 1, .u32, 0x1111, .n 0, .vol, false, false, .any⟩,
  ⟨0x2500, 1, 1, 0x03, 1, .u32, 0x1111, .n 0, .vol, false, false, .any⟩,
  ⟨0x2500, 1, 1, 0x04, 1, .u32, 0x1111, .n 0, .vol, false, false, .any⟩,
  ⟨0x2500, 1, 1, 0x05, 1, .u64, 0x1111, .n 0, .vol, false, false, .any⟩,
  ⟨0x2500, 1, 1, 0x06, 1, .u32, 0x1111, .n 0, .vol, false, false, .any⟩,
  ⟨0x2500, 1, 1, 0x07, 1, .u16, 0x1111, .n 0, .vol, false, false, .any⟩,
  ⟨0x2500, 1, 1, 0x08, 1, .u64, 0x1111, .n 0, .vol, false, false, .any⟩,
  ⟨0x2500, 1, 1, 0x09, 1, .u8, 0x1111, .n 0, .vol, false, false, .any⟩,
  ⟨0x2501, 1, 1, 0x00, 1, .u8, 0x1111, .n 0xA, .fac, false, false, .any⟩,
  ⟨0x2501, 1, 1, 0x01, 1, .u8, 0x1133, .n 0, .sto, false, false, .oneOf [0, 1, 2]⟩,
  ⟨0x2501, 1, 1, 0x02, 1, .u32, 0x1133, .n 0, .sto, false, false, .any⟩,
  ⟨0x2501, 1, 1, 0x03, 1, .u16, 0x1133, .n 0x190, .sto, false, false, .rng 100 10000⟩,
  ⟨0x2501, 1, 1, 0x04, 1, .u8, 0x1133, .n 0x10, .sto, false, false, .rng 4 255⟩,
  ⟨0x2501, 1, 1, 0x05, 1, .u16, 0x1133, .n 0x1388, .sto, false, false, .rng 0 60000⟩,
  ⟨0x2501, 1, 1, 0x06, 1, .u16, 0x1133, .n 0xBB8, .sto, false, false, .rng 1000 60000⟩,
  ⟨0x2501, 1, 1, 0x07, 1, .u16, 0x1133, .n 0xA, .sto, false, false, .rng 1 600⟩,
  ⟨0x2501, 1, 1, 0x08, 1, .u16, 0x1133, .n 0x64, .sto, false, false, .rng 10 10000⟩,
  ⟨0x2501, 1, 1, 0x09, 1, .u32, 0x1133, .n 0xF4240, .sto, false, false, .rng 250000 10000000⟩,
  ⟨0x2501, 1, 1, 0x0A, 1, .u64, 0x1133, .n 0, .sto, false, false, .any⟩,
  ⟨0x2503, 1, 1, 0x00, 1, .u8, 0x1111, .n 2, .fac, false, false, .any⟩,
  ⟨0x2503, 1, 1, 0x01, 1, .domain 196608, 0x1133, .nil, .sto, false, false, .any⟩,
  ⟨0x2503, 1, 1, 0x02, 1, .u8, 0x1111, .n 0, .vol, false, false, .any⟩,
  ⟨0x2504, 1, 1, 0x00, 1, .u8, 0x1111, .n 9, .fac, false, false, .any⟩,
  ⟨0x2504, 1, 1, 0x01, 1, .u16, 0x1333, .n 1, .vol, true, false, .any⟩,
  ⟨0x2504, 1, 1, 0x02, 1, .u32, 0x1133, .n 0, .vol, true, false, .zero⟩,
  ⟨0x2504, 1, 1, 0x03, 1, .u32, 0x1133, .n 0, .vol, true, false, .zero⟩,
  ⟨0x2504, 1, 1, 0x04, 1, .u32, 0x1133, .n 0, .vol, true, false, .zero⟩,
  ⟨0x2504, 1, 1, 0x05, 1, .u32, 0x1133, .n 0, .vol, true, false, .zero⟩,
  ⟨0x2504, 1, 1, 0x06, 1, .u32, 0x1133, .n 0, .vol, true, false, .zero⟩,
  ⟨0x2504, 1, 1, 0x07, 1, .u32, 0x1133, .n 0, .vol, true, false, .zero⟩,
  ⟨0x2504, 1, 1, 0x08, 1, .u32, 0x1133, .n 0, .vol, true, false, .zero⟩,
  ⟨0x2504, 1, 1, 0x09, 1, .u16, 0x1111, .n 0, .vol, false, false, .any⟩,
  ⟨0x2505, 1, 1, 0x00, 1, .u8, 0x1111, .n 0xD, .fac, false, false, .any⟩,
  ⟨0x2505, 1, 1, 0x01, 1, .u32, 0x1133, .n 0, .vol, true, false, .zero⟩,
  ⟨0x2505, 1, 1, 0x02, 1, .u32, 0x1133, .n 0, .vol, true, false, .zero⟩,
  ⟨0x2505, 1, 1, 0x03, 1, .u32, 0x1133, .n 0, .vol, true, false, .zero⟩,
  ⟨0x2505, 1, 1, 0x04, 1, .u32, 0x1133, .n 0, .vol, true, false, .zero⟩,
  ⟨0x2505, 1, 1, 0x05, 1, .u32, 0x1133, .n 0, .vol, true, false, .zero⟩,
  ⟨0x2505, 1, 1, 0x06, 1, .u32, 0x1133, .n 0, .vol, true, false, .zero⟩,
  ⟨0x2505, 1, 1, 0x07, 1, .u32, 0x1133, .n 0, .vol, true, false, .zero⟩,
  ⟨0x2505, 1, 1, 0x08, 1, .u32, 0x1133, .n 0, .vol, true, false, .zero⟩,
  ⟨0x2505, 1, 1, 0x09, 1, .u32, 0x1133, .n 0, .vol, true, false, .zero⟩,
  ⟨0x2505, 1, 1, 0x0A, 1, .u32, 0x1133, .n 0, .vol, true, false, .zero⟩,
  ⟨0x2505, 1, 1, 0x0B, 1, .u32, 0x1133, .n 0, .vol, true, false, .zero⟩,
  ⟨0x2505, 1, 1, 0x0C, 1, .u32, 0x1133, .n 0, .vol, true, false, .zero⟩,
  ⟨0x2505, 1, 1, 0x0D, 1, .u32, 0x1133, .n 0, .vol, true, false, .zero⟩]

/-- Entries of R285, R286, R287, R288: indices from 0x2600 to 0x26FF. -/
def entries26 : List EntryRow := [
  ⟨0x2600, 1, 1, 0x00, 1, .u8, 0x1111, .n 5, .fac, false, false, .any⟩,
  ⟨0x2600, 1, 1, 0x01, 1, .u8, 0x1111, .n 0, .vol, false, false, .any⟩,
  ⟨0x2600, 1, 1, 0x02, 1, .u8, 0x1111, .n 0, .vol, false, false, .any⟩,
  ⟨0x2600, 1, 1, 0x03, 1, .u8, 0x1111, .n 0, .vol, false, false, .any⟩,
  ⟨0x2600, 1, 1, 0x04, 1, .u16, 0x1111, .n 0, .vol, false, false, .any⟩,
  ⟨0x2600, 1, 1, 0x05, 1, .u8, 0x1111, .n 0, .vol, false, false, .any⟩,
  ⟨0x2601, 1, 1, 0x00, 1, .u8, 0x1111, .n 5, .fac, false, false, .any⟩,
  ⟨0x2601, 1, 1, 0x01, 1, .bool, 0x1133, .n 0, .sto, false, false, .any⟩,
  ⟨0x2601, 1, 1, 0x02, 1, .u8, 0x1133, .n 0x28, .sto, false, false, .rng 10 75⟩,
  ⟨0x2601, 1, 1, 0x03, 1, .u16, 0x1133, .n 0x1F4, .sto, false, false, .rng 100 1000⟩,
  ⟨0x2601, 1, 1, 0x04, 1, .u16, 0x1133, .n 0xA, .sto, false, false, .rng 2 1000⟩,
  ⟨0x2601, 1, 1, 0x05, 1, .u16, 0x1133, .n 0x3C, .sto, false, false, .rng 1 100⟩,
  ⟨0x2602, 1, 1, 0x00, 1, .u8, 0x1111, .n 4, .fac, false, false, .any⟩,
  ⟨0x2602, 1, 1, 0x01, 1, .u32, 0x1133, .n 0, .vol, true, false, .zero⟩,
  ⟨0x2602, 1, 1, 0x02, 1, .u32, 0x1133, .n 0, .vol, true, false, .zero⟩,
  ⟨0x2602, 1, 1, 0x03, 1, .u32, 0x1133, .n 0, .vol, true, false, .zero⟩,
  ⟨0x2602, 1, 1, 0x04, 1, .u32, 0x1133, .n 0, .vol, true, false, .zero⟩,
  ⟨0x2608, 4, 1, 0x00, 1, .u8, 0x1111, .n 7, .fac, false, false, .any⟩,
  ⟨0x2608, 4, 1, 0x01, 1, .bool, 0x1133, .n 0, .sto, false, false, .any⟩,
  ⟨0x2608, 4, 1, 0x02, 1, .u8, 0x1133, .n 5, .sto, false, false, .oneOf [2, 3, 5]⟩,
  ⟨0x2608, 4, 1, 0x03, 1, .u8, 0x1133, .n 8, .sto, false, false, .oneOf [2, 4, 8, 16]⟩,
  ⟨0x2608, 4, 1, 0x04, 1, .u8, 0x1133, .n 0x20, .sto, false, false, .oneOf [16, 32]⟩,
  ⟨0x2608, 4, 1, 0x05, 1, .u8, 0x1133, .n 0, .sto, false, false, .oneOf [0, 1]⟩,
  ⟨0x2608, 4, 1, 0x06, 1, .u8, 0x1133, .n 1, .sto, false, false, .oneOf [0, 1]⟩,
  ⟨0x2608, 4, 1, 0x07, 1, .u32, 0x1133, .n 0, .sto, false, false, .rng 0 1000000⟩,
  ⟨0x2610, 64, 1, 0x00, 1, .u8, 0x1111, .n 0x11, .fac, false, false, .any⟩,
  ⟨0x2610, 64, 1, 0x01, 1, .u8, 0x1133, .n 0, .sto, false, false, .oneOf [0, 1, 2]⟩,
  ⟨0x2610, 64, 1, 0x02, 1, .u64, 0x1133, .n 0, .sto, false, false, .mask 0x0000FFFFFFFFFFFF⟩,
  ⟨0x2610, 64, 1, 0x03, 1, .u16, 0x1133, .n 1, .sto, false, false, .rng 1 4094⟩,
  ⟨0x2610, 64, 1, 0x04, 1, .u16, 0x1133, .off 0x2610, .sto, false, false, .any⟩,
  ⟨0x2610, 64, 1, 0x05, 1, .u8, 0x1133, .n 2, .sto, false, false, .rng 1 8⟩,
  ⟨0x2610, 64, 1, 0x06, 1, .u8, 0x1133, .n 0x18, .sto, false, false, .oneOf [16, 24, 32]⟩,
  ⟨0x2610, 64, 1, 0x07, 1, .u8, 0x1133, .n 6, .sto, false, false, .rng 1 64⟩,
  ⟨0x2610, 64, 1, 0x08, 1, .u32, 0x1133, .n 0x7D0, .sto, false, false, .rng 500 50000⟩,
  ⟨0x2610, 64, 1, 0x09, 1, .u8, 0x1133, .n 0, .sto, false, false, .oneOf [0, 1, 2, 3, 0xFF]⟩,
  ⟨0x2610, 64, 1, 0x0A, 1, .u8, 0x1133, .n 0, .sto, false, false, .rng 0 15⟩,
  ⟨0x2610, 64, 1, 0x0B, 1, .u8, 0x1133, .n 2, .sto, false, false, .rng 1 16⟩,
  ⟨0x2610, 64, 1, 0x0C, 1, .u8, 0x1111, .n 0, .vol, false, false, .any⟩,
  ⟨0x2610, 64, 1, 0x0D, 1, .u32, 0x1133, .n 0, .vol, true, false, .zero⟩,
  ⟨0x2610, 64, 1, 0x0E, 1, .u32, 0x1133, .n 0, .vol, true, false, .zero⟩,
  ⟨0x2610, 64, 1, 0x0F, 1, .u32, 0x1133, .n 0, .vol, true, false, .zero⟩,
  ⟨0x2610, 64, 1, 0x10, 1, .u32, 0x1133, .n 0, .vol, true, false, .zero⟩,
  ⟨0x2610, 64, 1, 0x11, 1, .u32, 0x1133, .n 0, .vol, true, false, .zero⟩]

/-- Entries of R317, R318, R319, R320: indices from 0x2700 to 0x27FF. -/
def entries27a : List EntryRow := [
  ⟨0x2700, 8, 16, 0x00, 1, .u8, 0x1111, .n 0x10, .fac, false, false, .any⟩,
  ⟨0x2700, 8, 16, 0x01, 1, .u8, 0x1133, .n 0, .sto, false, false, .oneOf [0, 1, 2, 3, 4]⟩,
  ⟨0x2700, 8, 16, 0x02, 1, .u8, 0x1133, .n 0, .sto, false, false, .oneOf [0, 1]⟩,
  ⟨0x2700, 8, 16, 0x03, 1, .u16, 0x1133, .n 2, .sto, false, false, .rng 1 512⟩,
  ⟨0x2700, 8, 16, 0x04, 1, .u16, 0x1133, .n 0x3F, .sto, false, false, .rng 2 256⟩,
  ⟨0x2700, 8, 16, 0x05, 1, .u8, 0x1133, .n 0x10, .sto, false, false, .rng 2 128⟩,
  ⟨0x2700, 8, 16, 0x06, 1, .u8, 0x1133, .n 0x10, .sto, false, false, .rng 1 128⟩,
  ⟨0x2700, 8, 16, 0x07, 1, .u8, 0x1133, .n 2, .sto, false, false, .rng 1 32⟩,
  ⟨0x2700, 8, 16, 0x08, 1, .u8, 0x1133, .n 0xF, .sto, false, false, .rng 1 32⟩,
  ⟨0x2700, 8, 16, 0x09, 1, .u8, 0x1133, .n 4, .sto, false, false, .rng 1 16⟩,
  ⟨0x2700, 8, 16, 0x0A, 1, .u8, 0x1133, .n 4, .sto, false, false, .rng 1 16⟩,
  ⟨0x2700, 8, 16, 0x0B, 1, .u8, 0x1133, .n 0x20, .sto, false, false, .rng 0 127⟩,
  ⟨0x2700, 8, 16, 0x0C, 1, .bool, 0x1133, .n 0, .sto, false, false, .any⟩,
  ⟨0x2700, 8, 16, 0x0D, 1, .u8, 0x1133, .n 0x1F, .sto, false, false, .rng 0 127⟩,
  ⟨0x2700, 8, 16, 0x0E, 1, .u8, 0x1133, .n 0, .sto, false, false, .oneOf [0, 1]⟩,
  ⟨0x2700, 8, 16, 0x0F, 1, .u16, 0x1133, .n 0x64, .sto, false, false, .rng 0 10000⟩,
  ⟨0x2700, 8, 16, 0x10, 1, .bool, 0x1133, .n 1, .sto, false, false, .any⟩,
  ⟨0x2701, 8, 16, 0x00, 1, .u8, 0x1111, .n 0xB, .fac, false, false, .any⟩,
  ⟨0x2701, 8, 16, 0x01, 1, .u8, 0x1111, .n 0, .vol, false, false, .any⟩,
  ⟨0x2701, 8, 16, 0x02, 1, .u16, 0x1111, .n 0, .vol, false, false, .any⟩,
  ⟨0x2701, 8, 16, 0x03, 1, .u8, 0x1111, .n 0, .vol, false, false, .any⟩,
  ⟨0x2701, 8, 16, 0x04, 1, .u8, 0x1111, .n 0, .vol, false, false, .any⟩,
  ⟨0x2701, 8, 16, 0x05, 1, .u8, 0x1111, .n 0, .vol, false, false, .any⟩,
  ⟨0x2701, 8, 16, 0x06, 1, .bool, 0x1111, .n 0, .vol, false, false, .any⟩,
  ⟨0x2701, 8, 16, 0x07, 1, .u32, 0x1111, .n 0, .vol, false, false, .any⟩,
  ⟨0x2701, 8, 16, 0x08, 1, .u64, 0x1111, .n 0, .vol, false, false, .any⟩,
  ⟨0x2701, 8, 16, 0x09, 1, .u8, 0x1111, .n 0, .vol, false, false, .any⟩,
  ⟨0x2701, 8, 16, 0x0A, 1, .u8, 0x1111, .n 0, .vol, false, false, .any⟩,
  ⟨0x2701, 8, 16, 0x0B, 1, .u8, 0x1111, .n 0, .vol, false, false, .any⟩,
  ⟨0x2702, 8, 16, 0x00, 1, .u8, 0x1111, .n 0x11, .fac, false, false, .any⟩,
  ⟨0x2702, 8, 16, 0x01, 1, .u32, 0x1133, .n 0, .vol, true, false, .zero⟩,
  ⟨0x2702, 8, 16, 0x02, 1, .u32, 0x1133, .n 0, .vol, true, false, .zero⟩,
  ⟨0x2702, 8, 16, 0x03, 1, .u32, 0x1133, .n 0, .vol, true, false, .zero⟩,
  ⟨0x2702, 8, 16, 0x04, 1, .u32, 0x1133, .n 0, .vol, true, false, .zero⟩,
  ⟨0x2702, 8, 16, 0x05, 1, .u32, 0x1133, .n 0, .vol, true, false, .zero⟩,
  ⟨0x2702, 8, 16, 0x06, 1, .u32, 0x1133, .n 0, .vol, true, false, .zero⟩,
  ⟨0x2702, 8, 16, 0x07, 1, .u32, 0x1133, .n 0, .vol, true, false, .zero⟩,
  ⟨0x2702, 8, 16, 0x08, 1, .u32, 0x1133, .n 0, .vol, true, false, .zero⟩,
  ⟨0x2702, 8, 16, 0x09, 1, .u32, 0x1133, .n 0, .vol, true, false, .zero⟩,
  ⟨0x2702, 8, 16, 0x0A, 1, .u32, 0x1133, .n 0, .vol, true, false, .zero⟩,
  ⟨0x2702, 8, 16, 0x0B, 1, .u32, 0x1133, .n 0, .vol, true, false, .zero⟩,
  ⟨0x2702, 8, 16, 0x0C, 1, .u32, 0x1133, .n 0, .vol, true, false, .zero⟩,
  ⟨0x2702, 8, 16, 0x0D, 1, .u32, 0x1133, .n 0, .vol, true, false, .zero⟩,
  ⟨0x2702, 8, 16, 0x0E, 1, .u32, 0x1133, .n 0, .vol, true, false, .zero⟩,
  ⟨0x2702, 8, 16, 0x0F, 1, .u32, 0x1133, .n 0, .vol, true, false, .zero⟩,
  ⟨0x2702, 8, 16, 0x10, 1, .u32, 0x1133, .n 0, .vol, true, false, .zero⟩,
  ⟨0x2702, 8, 16, 0x11, 1, .u32, 0x1133, .n 0, .vol, true, false, .zero⟩,
  ⟨0x2703, 8, 16, 0x00, 1, .u8, 0x1111, .n 6, .fac, false, false, .any⟩,
  ⟨0x2703, 8, 16, 0x01, 1, .ostr 255, 0x1133, .candidates, .sto, false, false, .records 8 1 8⟩,
  ⟨0x2703, 8, 16, 0x02, 1, .u16, 0x1133, .n 0xC8, .sto, false, false, .rng 10 10000⟩]

/-- Entries of R320, R321: indices from 0x2700 to 0x27FF. -/
def entries27b : List EntryRow := [
  ⟨0x2703, 8, 16, 0x03, 1, .u8, 0x1133, .n 2, .sto, false, false, .rng 1 16⟩,
  ⟨0x2703, 8, 16, 0x04, 1, .u8, 0x1133, .n 0, .sto, false, false, .oneOf [0, 1]⟩,
  ⟨0x2703, 8, 16, 0x05, 1, .u32, 0x1111, .n 0, .vol, false, false, .any⟩,
  ⟨0x2703, 8, 16, 0x06, 1, .u16, 0x1111, .n 0, .vol, false, false, .any⟩,
  ⟨0x2704, 8, 16, 0x00, 1, .u8, 0x1111, .n 7, .fac, false, false, .any⟩,
  ⟨0x2704, 8, 16, 0x01, 1, .u8, 0x1333, .n 0, .vol, true, false, .rng 0 127⟩,
  ⟨0x2704, 8, 16, 0x02, 1, .ostr 255, 0x1333, .nil, .vol, true, false, .lenRange 16 80⟩,
  ⟨0x2704, 8, 16, 0x03, 1, .u8, 0x0222, .n 0, .vol, true, false, .oneOf [1, 2, 3]⟩,
  ⟨0x2704, 8, 16, 0x04, 1, .u8, 0x1111, .n 0, .vol, false, false, .any⟩,
  ⟨0x2704, 8, 16, 0x05, 1, .u64, 0x1111, .n 0, .vol, false, false, .any⟩,
  ⟨0x2704, 8, 16, 0x06, 1, .u64, 0x1111, .n 0, .vol, false, false, .any⟩,
  ⟨0x2704, 8, 16, 0x07, 1, .u8, 0x0222, .n 0, .vol, true, false, .oneOf [1]⟩]

/-- Entries of R346, R347, R348: indices from 0x2800 to 0x28FF. -/
def entries28a : List EntryRow := [
  ⟨0x2800, 1, 1, 0x00, 1, .u8, 0x1111, .n 7, .fac, false, false, .any⟩,
  ⟨0x2800, 1, 1, 0x01, 1, .bool, 0x1133, .n 0, .sto, false, false, .any⟩,
  ⟨0x2800, 1, 1, 0x02, 1, .u32, 0x1133, .n 0xA0000FE, .sto, false, false, .any⟩,
  ⟨0x2800, 1, 1, 0x03, 1, .u32, 0x1111, .n 0, .fac, false, false, .any⟩,
  ⟨0x2800, 1, 1, 0x04, 1, .u16, 0x1133, .n 1, .sto, false, false, .rng 1 4094⟩,
  ⟨0x2800, 1, 1, 0x05, 1, .u8, 0x1133, .n 5, .sto, false, false, .rng 0 7⟩,
  ⟨0x2800, 1, 1, 0x06, 1, .u16, 0x1133, .n 0x64, .sto, false, false, .rng 10 10000⟩,
  ⟨0x2800, 1, 1, 0x07, 1, .u8, 0x1133, .n 1, .sto, false, false, .rng 1 8⟩,
  ⟨0x2801, 1, 1, 0x00, 1, .u8, 0x1111, .n 0xF, .fac, false, false, .any⟩,
  ⟨0x2801, 1, 1, 0x01, 1, .u32, 0x1133, .n 0, .vol, true, false, .zero⟩,
  ⟨0x2801, 1, 1, 0x02, 1, .u32, 0x1133, .n 0, .vol, true, false, .zero⟩,
  ⟨0x2801, 1, 1, 0x03, 1, .u32, 0x1133, .n 0, .vol, true, false, .zero⟩,
  ⟨0x2801, 1, 1, 0x04, 1, .u32, 0x1133, .n 0, .vol, true, false, .zero⟩,
  ⟨0x2801, 1, 1, 0x05, 1, .u32, 0x1133, .n 0, .vol, true, false, .zero⟩,
  ⟨0x2801, 1, 1, 0x06, 1, .u32, 0x1133, .n 0, .vol, true, false, .zero⟩,
  ⟨0x2801, 1, 1, 0x07, 1, .u32, 0x1133, .n 0, .vol, true, false, .zero⟩,
  ⟨0x2801, 1, 1, 0x08, 1, .u32, 0x1133, .n 0, .vol, true, false, .zero⟩,
  ⟨0x2801, 1, 1, 0x09, 1, .u32, 0x1133, .n 0, .vol, true, false, .zero⟩,
  ⟨0x2801, 1, 1, 0x0A, 1, .u32, 0x1133, .n 0, .vol, true, false, .zero⟩,
  ⟨0x2801, 1, 1, 0x0B, 1, .u32, 0x1133, .n 0, .vol, true, false, .zero⟩,
  ⟨0x2801, 1, 1, 0x0C, 1, .u32, 0x1133, .n 0, .vol, true, false, .zero⟩,
  ⟨0x2801, 1, 1, 0x0D, 1, .u32, 0x1133, .n 0, .vol, true, false, .zero⟩,
  ⟨0x2801, 1, 1, 0x0E, 1, .u32, 0x1133, .n 0, .vol, true, false, .zero⟩,
  ⟨0x2801, 1, 1, 0x0F, 1, .u32, 0x1133, .n 0, .vol, true, false, .zero⟩,
  ⟨0x2802, 1, 1, 0x00, 1, .u8, 0x1111, .n 2, .fac, false, false, .any⟩,
  ⟨0x2802, 1, 1, 0x01, 1, .ostr 255, 0x1111, .nil, .vol, false, false, .any⟩,
  ⟨0x2802, 1, 1, 0x02, 1, .u8, 0x1111, .n 0, .vol, false, false, .any⟩,
  ⟨0x2803, 1, 1, 0x00, 1, .u8, 0x1111, .n 1, .fac, false, false, .any⟩,
  ⟨0x2803, 1, 1, 0x01, 1, .ostr 255, 0x1133, .nil, .sto, false, false, .records 8 0 32⟩,
  ⟨0x2810, 32, 1, 0x00, 1, .u8, 0x1111, .n 0xE, .fac, false, false, .any⟩,
  ⟨0x2810, 32, 1, 0x01, 1, .u8, 0x1133, .n 0, .sto, false, false, .oneOf [0, 1, 2]⟩,
  ⟨0x2810, 32, 1, 0x02, 1, .u8, 0x1133, .n 0, .sto, false, false, .rng 0 7⟩,
  ⟨0x2810, 32, 1, 0x03, 1, .u8, 0x1133, .n 0, .sto, false, false, .rng 0 125⟩,
  ⟨0x2810, 32, 1, 0x04, 1, .u8, 0x1133, .n 0xFF, .sto, false, false, .rngOr 0 125 0xFF⟩,
  ⟨0x2810, 32, 1, 0x05, 1, .u8, 0x1133, .n 0xFF, .sto, false, false, .rngOr 0 125 0xFF⟩,
  ⟨0x2810, 32, 1, 0x06, 1, .u8, 0x1133, .n 2, .sto, false, false, .rng 0 2⟩,
  ⟨0x2810, 32, 1, 0x07, 1, .u32, 0x1133, .n 0, .sto, false, false, .any⟩,
  ⟨0x2810, 32, 1, 0x08, 1, .u8, 0x1133, .n 0, .sto, false, false, .oneOf [0, 1]⟩,
  ⟨0x2810, 32, 1, 0x09, 1, .u32, 0x1133, .n 0, .sto, false, false, .any⟩,
  ⟨0x2810, 32, 1, 0x0A, 1, .u32, 0x1133, .n 0, .sto, false, false, .any⟩,
  ⟨0x2810, 32, 1, 0x0B, 1, .u16, 0x1133, .n 0x32, .sto, false, false, .rng 1 10000⟩,
  ⟨0x2810, 32, 1, 0x0C, 1, .bool, 0x1133, .n 0, .sto, false, false, .any⟩,
  ⟨0x2810, 32, 1, 0x0D, 1, .bool, 0x1133, .n 0, .sto, false, false, .any⟩,
  ⟨0x2810, 32, 1, 0x0E, 1, .u8, 0x1111, .n 0, .vol, false, false, .any⟩,
  ⟨0x2840, 64, 1, 0x00, 1, .u8, 0x1111, .n 0xC, .fac, false, false, .any⟩,
  ⟨0x2840, 64, 1, 0x01, 1, .u8, 0x1133, .n 0, .sto, false, false, .oneOf [0, 1, 2]⟩,
  ⟨0x2840, 64, 1, 0x02, 1, .u32, 0x1133, .n 0, .sto, false, false, .any⟩,
  ⟨0x2840, 64, 1, 0x03, 1, .u16, 0x1133, .n 0, .sto, false, false, .rng 0 1432⟩,
  ⟨0x2840, 64, 1, 0x04, 1, .u8, 0x1133, .n 0, .sto, false, false, .oneOf [0, 1]⟩,
  ⟨0x2840, 64, 1, 0x05, 1, .u32, 0x1133, .n 0, .sto, false, false, .any⟩]

/-- Entries of R348: indices from 0x2800 to 0x28FF. -/
def entries28b : List EntryRow := [
  ⟨0x2840, 64, 1, 0x06, 1, .u32, 0x1133, .n 0, .sto, false, false, .any⟩,
  ⟨0x2840, 64, 1, 0x07, 1, .u16, 0x1133, .n 0x64, .sto, false, false, .rng 1 60000⟩,
  ⟨0x2840, 64, 1, 0x08, 1, .u8, 0x1133, .n 0, .sto, false, false, .oneOf [0, 1]⟩,
  ⟨0x2840, 64, 1, 0x09, 1, .u32, 0x1133, .n 0, .sto, false, false, .any⟩,
  ⟨0x2840, 64, 1, 0x0A, 1, .u16, 0x1133, .n 0, .sto, false, false, .any⟩,
  ⟨0x2840, 64, 1, 0x0B, 1, .bool, 0x1111, .n 0, .vol, false, false, .any⟩,
  ⟨0x2840, 64, 1, 0x0C, 1, .u32, 0x1133, .n 0, .vol, true, false, .zero⟩]

/-- Entries of R364, R365: indices from 0x2900 to 0x29FF. -/
def entries29 : List EntryRow := [
  ⟨0x2900, 1, 1, 0x00, 1, .u8, 0x1111, .n 4, .fac, false, false, .any⟩,
  ⟨0x2900, 1, 1, 0x01, 1, .bool, 0x1133, .n 0, .sto, false, false, .any⟩,
  ⟨0x2900, 1, 1, 0x02, 1, .bool, 0x1133, .n 1, .sto, false, false, .any⟩,
  ⟨0x2900, 1, 1, 0x03, 1, .u16, 0x1111, .n 0, .vol, false, false, .any⟩,
  ⟨0x2900, 1, 1, 0x04, 1, .u16, 0x1111, .n 0, .vol, false, false, .any⟩,
  ⟨0x2902, 1, 1, 0x00, 1, .u8, 0x1111, .n 6, .fac, false, false, .any⟩,
  ⟨0x2902, 1, 1, 0x01, 1, .u32, 0x1133, .n 0, .vol, true, false, .zero⟩,
  ⟨0x2902, 1, 1, 0x02, 1, .u32, 0x1133, .n 0, .vol, true, false, .zero⟩,
  ⟨0x2902, 1, 1, 0x03, 1, .u32, 0x1133, .n 0, .vol, true, false, .zero⟩,
  ⟨0x2902, 1, 1, 0x04, 1, .u32, 0x1133, .n 0, .vol, true, false, .zero⟩,
  ⟨0x2902, 1, 1, 0x05, 1, .u32, 0x1133, .n 0, .vol, true, false, .zero⟩,
  ⟨0x2902, 1, 1, 0x06, 1, .u32, 0x1133, .n 0, .vol, true, false, .zero⟩,
  ⟨0x2903, 1, 1, 0x00, 1, .u8, 0x1111, .n 4, .fac, false, false, .any⟩,
  ⟨0x2903, 1, 1, 0x01, 4, .u64, 0x1333, .n 0, .vol, true, false, .any⟩,
  ⟨0x2901, 1, 1, 0x00, 1, .u8, 0x1111, .n 0xB, .fac, false, false, .any⟩,
  ⟨0x2901, 1, 1, 0x01, 1, .u8, 0x1333, .n 0, .vol, true, false, .rng 0 255⟩,
  ⟨0x2901, 1, 1, 0x02, 1, .u8, 0x1111, .n 0, .vol, false, false, .any⟩,
  ⟨0x2901, 1, 1, 0x03, 1, .u8, 0x1111, .n 0, .vol, false, false, .any⟩,
  ⟨0x2901, 1, 1, 0x04, 1, .u8, 0x1111, .n 0, .vol, false, false, .any⟩,
  ⟨0x2901, 1, 1, 0x05, 1, .u32, 0x1133, .n 0, .vol, true, false, .zero⟩,
  ⟨0x2901, 1, 1, 0x06, 1, .u32, 0x1133, .n 0, .vol, true, false, .zero⟩,
  ⟨0x2901, 1, 1, 0x07, 1, .u32, 0x1133, .n 0, .vol, true, false, .zero⟩,
  ⟨0x2901, 1, 1, 0x08, 1, .u32, 0x1133, .n 0, .vol, true, false, .zero⟩,
  ⟨0x2901, 1, 1, 0x09, 1, .u32, 0x1133, .n 0, .vol, true, false, .zero⟩,
  ⟨0x2901, 1, 1, 0x0A, 1, .u32, 0x1133, .n 0, .vol, true, false, .zero⟩,
  ⟨0x2901, 1, 1, 0x0B, 1, .u32, 0x1133, .n 0, .vol, true, false, .zero⟩]

/-- Entries of R388, R389, R390, R391: indices from 0x2A00 to 0x2AFF. -/
def entries2A : List EntryRow := [
  ⟨0x2A00, 1, 1, 0x00, 1, .u8, 0x1111, .n 0xB, .fac, false, false, .any⟩,
  ⟨0x2A00, 1, 1, 0x01, 1, .u8, 0x1111, .n 0, .vol, false, false, .any⟩,
  ⟨0x2A00, 1, 1, 0x02, 1, .u32, 0x1111, .n 0, .vol, false, false, .any⟩,
  ⟨0x2A00, 1, 1, 0x03, 1, .u32, 0x1111, .n 0, .vol, false, false, .any⟩,
  ⟨0x2A00, 1, 1, 0x04, 1, .u32, 0x1111, .n 0, .vol, false, false, .any⟩,
  ⟨0x2A00, 1, 1, 0x05, 1, .u32, 0x1111, .n 0, .vol, false, false, .any⟩,
  ⟨0x2A00, 1, 1, 0x06, 1, .u16, 0x1111, .n 0, .vol, false, false, .any⟩,
  ⟨0x2A00, 1, 1, 0x07, 1, .u16, 0x1111, .n 0, .vol, false, false, .any⟩,
  ⟨0x2A00, 1, 1, 0x08, 1, .u16, 0x1111, .n 0, .vol, false, false, .any⟩,
  ⟨0x2A00, 1, 1, 0x09, 1, .u16, 0x1111, .n 0, .vol, false, false, .any⟩,
  ⟨0x2A00, 1, 1, 0x0A, 1, .u32, 0x1111, .n 0, .vol, false, false, .any⟩,
  ⟨0x2A00, 1, 1, 0x0B, 1, .u32, 0x1111, .n 0, .vol, false, false, .any⟩,
  ⟨0x2A01, 1, 1, 0x00, 1, .u8, 0x1111, .n 6, .fac, false, false, .any⟩,
  ⟨0x2A01, 1, 1, 0x01, 1, .u16, 0x1133, .n 0x100, .sto, false, false, .rng 16 1024⟩,
  ⟨0x2A01, 1, 1, 0x02, 1, .u8, 0x1133, .n 2, .sto, false, false, .rng 0 5⟩,
  ⟨0x2A01, 1, 1, 0x03, 1, .u16, 0x1133, .n 0x64, .sto, false, false, .rng 1 1000⟩,
  ⟨0x2A01, 1, 1, 0x04, 1, .u8, 0x1133, .n 6, .sto, false, false, .rng 5 7⟩,
  ⟨0x2A01, 1, 1, 0x05, 1, .u8, 0x1133, .n 0xA, .sto, false, false, .rng 1 60⟩,
  ⟨0x2A01, 1, 1, 0x06, 1, .u8, 0x1133, .n 0xA, .sto, false, false, .rng 1 60⟩,
  ⟨0x2A02, 1, 1, 0x00, 1, .u8, 0x1111, .n 2, .fac, false, false, .any⟩,
  ⟨0x2A02, 1, 1, 0x01, 1, .u8, 0x1133, .n 0, .vol, true, false, .oneOf [0, 1]⟩,
  ⟨0x2A02, 1, 1, 0x02, 1, .u8, 0x1133, .n 0x3C, .sto, false, false, .rng 1 60⟩,
  ⟨0x2A03, 1, 1, 0x00, 1, .u8, 0x1111, .n 4, .fac, false, false, .any⟩,
  ⟨0x2A03, 1, 1, 0x01, 1, .u32, 0x1333, .n 0, .vol, true, false, .any⟩,
  ⟨0x2A03, 1, 1, 0x02, 1, .domain 4096, 0x0111, .nil, .vol, false, false, .any⟩,
  ⟨0x2A03, 1, 1, 0x03, 1, .ostr 255, 0x1111, .nil, .vol, false, false, .any⟩,
  ⟨0x2A03, 1, 1, 0x04, 1, .domain 16384, 0x0011, .nil, .vol, false, false, .any⟩,
  ⟨0x2A04, 1, 1, 0x00, 1, .u8, 0x1111, .n 1, .fac, false, false, .any⟩,
  ⟨0x2A04, 1, 1, 0x01, 1, .ostr 255, 0x0222, .nil, .vol, true, false, .lenRange 3 35⟩,
  ⟨0x2A05, 1, 1, 0x00, 1, .u8, 0x1111, .n 2, .fac, false, false, .any⟩,
  ⟨0x2A05, 1, 1, 0x01, 1, .domain 65536, 0x1111, .nil, .fac, false, false, .any⟩,
  ⟨0x2A05, 1, 1, 0x02, 1, .u16, 0x1111, .n 0, .fac, false, false, .any⟩,
  ⟨0x2A06, 1, 1, 0x00, 1, .u8, 0x1111, .n 0x11, .fac, false, false, .any⟩,
  ⟨0x2A06, 1, 1, 0x01, 8, .u32, 0x1111, .n 0, .vol, false, false, .any⟩,
  ⟨0x2A06, 1, 1, 0x09, 1, .u32, 0x1133, .n 0, .vol, true, false, .zero⟩,
  ⟨0x2A06, 1, 1, 0x0A, 1, .u32, 0x1133, .n 0, .vol, true, false, .zero⟩,
  ⟨0x2A06, 1, 1, 0x0B, 1, .u32, 0x1133, .n 0, .vol, true, false, .zero⟩,
  ⟨0x2A06, 1, 1, 0x0C, 1, .u32, 0x1133, .n 0, .vol, true, false, .zero⟩,
  ⟨0x2A06, 1, 1, 0x0D, 1, .u32, 0x1133, .n 0, .vol, true, false, .zero⟩,
  ⟨0x2A06, 1, 1, 0x0E, 1, .u32, 0x1133, .n 0, .vol, true, false, .zero⟩,
  ⟨0x2A06, 1, 1, 0x0F, 1, .u32, 0x1133, .n 0, .vol, true, false, .zero⟩,
  ⟨0x2A06, 1, 1, 0x10, 1, .u32, 0x1133, .n 0, .vol, true, false, .zero⟩,
  ⟨0x2A06, 1, 1, 0x11, 1, .u32, 0x1133, .n 0, .vol, true, false, .zero⟩]

/-- Entries of R414, R415, R416: indices from 0x2B00 to 0x2BFF. -/
def entries2B : List EntryRow := [
  ⟨0x2B00, 1, 1, 0x00, 1, .u8, 0x1111, .n 9, .fac, false, false, .any⟩,
  ⟨0x2B00, 1, 1, 0x01, 1, .u8, 0x1111, .n 0, .vol, false, false, .any⟩,
  ⟨0x2B00, 1, 1, 0x02, 1, .u8, 0x1111, .n 2, .vol, false, false, .any⟩,
  ⟨0x2B00, 1, 1, 0x03, 1, .u8, 0x1111, .n 2, .vol, false, false, .any⟩,
  ⟨0x2B00, 1, 1, 0x04, 1, .u8, 0x1111, .n 0, .vol, false, false, .any⟩,
  ⟨0x2B00, 1, 1, 0x05, 1, .u64, 0x1111, .n 0, .vol, false, false, .any⟩,
  ⟨0x2B00, 1, 1, 0x06, 1, .u16, 0x1111, .n 0, .vol, false, false, .any⟩,
  ⟨0x2B00, 1, 1, 0x07, 1, .u32, 0x1111, .n 0, .vol, false, false, .any⟩,
  ⟨0x2B00, 1, 1, 0x08, 1, .ostr 255, 0x1111, .nil, .vol, false, false, .any⟩,
  ⟨0x2B00, 1, 1, 0x09, 1, .u32, 0x1111, .n 0, .vol, false, false, .any⟩,
  ⟨0x2B01, 1, 1, 0x00, 1, .u8, 0x1111, .n 5, .fac, false, false, .any⟩,
  ⟨0x2B01, 1, 1, 0x01, 1, .bool, 0x1333, .n 0, .vol, true, false, .any⟩,
  ⟨0x2B01, 1, 1, 0x02, 1, .u8, 0x1133, .n 2, .sto, false, false, .rng 0 2⟩,
  ⟨0x2B01, 1, 1, 0x03, 1, .u32, 0x1133, .n 0, .sto, false, false, .rngOr 60 604800 0⟩,
  ⟨0x2B01, 1, 1, 0x04, 1, .u8, 0x1133, .n 0, .sto, false, false, .rng 0 2⟩,
  ⟨0x2B01, 1, 1, 0x05, 1, .u8, 0x1133, .n 2, .sto, false, false, .oneOf [1, 2]⟩,
  ⟨0x2B02, 1, 1, 0x00, 1, .u8, 0x1111, .n 7, .fac, false, false, .any⟩,
  ⟨0x2B02, 1, 1, 0x01, 1, .bool, 0x1133, .n 0, .sto, false, false, .any⟩,
  ⟨0x2B02, 1, 1, 0x02, 1, .u16, 0x1133, .n 0x64, .sto, false, false, .rng 10 1000⟩,
  ⟨0x2B02, 1, 1, 0x03, 1, .u16, 0x1133, .n 0x3E8, .sto, false, false, .rng 200 60000⟩,
  ⟨0x2B02, 1, 1, 0x04, 1, .u16, 0x1133, .n 0xA, .sto, false, false, .rng 1 600⟩,
  ⟨0x2B02, 1, 1, 0x05, 1, .u32, 0x1133, .n 0x708, .sto, false, false, .rngOr 60 86400 0⟩,
  ⟨0x2B02, 1, 1, 0x06, 1, .u8, 0x1133, .n 0, .sto, false, false, .mask 0x03⟩,
  ⟨0x2B02, 1, 1, 0x07, 1, .u8, 0x1133, .n 0, .sto, false, false, .oneOf [0, 1]⟩,
  ⟨0x2B03, 1, 1, 0x00, 1, .u8, 0x1111, .n 5, .fac, false, false, .any⟩,
  ⟨0x2B03, 1, 1, 0x01, 1, .u8, 0x1133, .n 1, .sto, false, false, .oneOf [0, 1]⟩,
  ⟨0x2B03, 1, 1, 0x02, 1, .u16, 0x1133, .n 0xA, .sto, false, false, .rng 1 1000⟩,
  ⟨0x2B03, 1, 1, 0x03, 1, .u16, 0x1133, .n 0x1F4, .sto, false, false, .rng 50 5000⟩,
  ⟨0x2B03, 1, 1, 0x04, 1, .u32, 0x1133, .n 0x140024, .sto, false, false, .lwake⟩,
  ⟨0x2B03, 1, 1, 0x05, 1, .u32, 0x1133, .n 0x140024, .sto, false, false, .lwake⟩,
  ⟨0x2B04, 1, 1, 0x00, 1, .u8, 0x1111, .n 8, .fac, false, false, .any⟩,
  ⟨0x2B04, 1, 1, 0x01, 8, .u32, 0x1133, .n 0xA10420, .sto, false, false, .busFilter⟩,
  ⟨0x2B05, 1, 1, 0x00, 1, .u8, 0x1111, .n 6, .fac, false, false, .any⟩,
  ⟨0x2B05, 1, 1, 0x01, 4, .u8, 0x1133, .n 0, .sto, false, false, .phyGroup⟩,
  ⟨0x2B05, 1, 1, 0x05, 1, .u32, 0x1133, .n 0, .sto, false, false, .mask 0x0F1FFFFF⟩,
  ⟨0x2B05, 1, 1, 0x06, 1, .u32, 0x1133, .n 0xF, .sto, false, false, .any⟩,
  ⟨0x2B06, 1, 1, 0x00, 1, .u8, 0x1111, .n 8, .fac, false, false, .any⟩,
  ⟨0x2B06, 1, 1, 0x01, 8, .ostr 255, 0x1111, .nil, .vol, false, false, .any⟩,
  ⟨0x2B07, 1, 1, 0x00, 1, .u8, 0x1111, .n 8, .fac, false, false, .any⟩,
  ⟨0x2B07, 1, 1, 0x01, 1, .u32, 0x1133, .n 0, .vol, true, false, .zero⟩,
  ⟨0x2B07, 1, 1, 0x02, 1, .u32, 0x1133, .n 0, .vol, true, false, .zero⟩,
  ⟨0x2B07, 1, 1, 0x03, 1, .u32, 0x1133, .n 0, .vol, true, false, .zero⟩,
  ⟨0x2B07, 1, 1, 0x04, 1, .u32, 0x1133, .n 0, .vol, true, false, .zero⟩,
  ⟨0x2B07, 1, 1, 0x05, 1, .u32, 0x1133, .n 0, .vol, true, false, .zero⟩,
  ⟨0x2B07, 1, 1, 0x06, 1, .u32, 0x1133, .n 0, .vol, true, false, .zero⟩,
  ⟨0x2B07, 1, 1, 0x07, 1, .u32, 0x1133, .n 0, .vol, true, false, .zero⟩,
  ⟨0x2B07, 1, 1, 0x08, 1, .u32, 0x1133, .n 0, .vol, true, false, .zero⟩]

/-- Entries of R441, R442, R443: indices from 0x2C00 to 0x2CFF. -/
def entries2C : List EntryRow := [
  ⟨0x2C00, 1, 1, 0x00, 1, .u8, 0x1111, .n 4, .fac, false, false, .any⟩,
  ⟨0x2C00, 1, 1, 0x01, 1, .u8, 0x1111, .n 0, .vol, false, false, .any⟩,
  ⟨0x2C00, 1, 1, 0x02, 1, .u32, 0x1111, .n 0, .vol, false, false, .any⟩,
  ⟨0x2C00, 1, 1, 0x03, 1, .u32, 0x1111, .n 0, .vol, false, false, .any⟩,
  ⟨0x2C00, 1, 1, 0x04, 1, .u32, 0x1111, .n 0, .vol, false, false, .any⟩,
  ⟨0x2C01, 1, 1, 0x00, 1, .u8, 0x1111, .n 9, .fac, false, false, .any⟩,
  ⟨0x2C01, 1, 1, 0x01, 1, .u32, 0x1133, .n 0, .vol, true, false, .zero⟩,
  ⟨0x2C01, 1, 1, 0x02, 1, .u32, 0x1133, .n 0, .vol, true, false, .zero⟩,
  ⟨0x2C01, 1, 1, 0x03, 1, .u32, 0x1133, .n 0, .vol, true, false, .zero⟩,
  ⟨0x2C01, 1, 1, 0x04, 1, .u32, 0x1133, .n 0, .vol, true, false, .zero⟩,
  ⟨0x2C01, 1, 1, 0x05, 1, .u32, 0x1133, .n 0, .vol, true, false, .zero⟩,
  ⟨0x2C01, 1, 1, 0x06, 1, .u32, 0x1133, .n 0, .vol, true, false, .zero⟩,
  ⟨0x2C01, 1, 1, 0x07, 1, .u32, 0x1133, .n 0, .vol, true, false, .zero⟩,
  ⟨0x2C01, 1, 1, 0x08, 1, .u32, 0x1133, .n 0, .vol, true, false, .zero⟩,
  ⟨0x2C01, 1, 1, 0x09, 1, .u32, 0x1133, .n 0, .vol, true, false, .zero⟩,
  ⟨0x2C10, 4, 1, 0x00, 1, .u8, 0x1111, .n 0xA, .fac, false, false, .any⟩,
  ⟨0x2C10, 4, 1, 0x01, 1, .bool, 0x1133, .n 0, .sto, false, false, .any⟩,
  ⟨0x2C10, 4, 1, 0x02, 1, .u8, 0x1111, .n 0, .vol, false, false, .any⟩,
  ⟨0x2C10, 4, 1, 0x03, 1, .u32, 0x1111, .n 0, .vol, false, false, .any⟩,
  ⟨0x2C10, 4, 1, 0x04, 1, .u16, 0x1111, .n 0, .vol, false, false, .any⟩,
  ⟨0x2C10, 4, 1, 0x05, 1, .u8, 0x1133, .n 2, .sto, false, false, .rng 0 20⟩,
  ⟨0x2C10, 4, 1, 0x06, 1, .i16, 0x1133, .n 0x6E, .sto, false, false, .rng 60 140⟩,
  ⟨0x2C10, 4, 1, 0x07, 1, .u8, 0x1133, .n 0, .sto, false, false, .any⟩,
  ⟨0x2C10, 4, 1, 0x08, 1, .u8, 0x1133, .n 0, .sto, false, false, .any⟩,
  ⟨0x2C10, 4, 1, 0x09, 1, .u8, 0x1111, .n 0, .vol, false, false, .any⟩,
  ⟨0x2C10, 4, 1, 0x0A, 1, .u8, 0x0022, .n 0, .vol, true, false, .any⟩,
  ⟨0x2C20, 32, 1, 0x00, 1, .u8, 0x1111, .n 0x15, .fac, false, false, .any⟩,
  ⟨0x2C20, 32, 1, 0x01, 1, .bool, 0x1333, .n 0, .vol, true, false, .any⟩,
  ⟨0x2C20, 32, 1, 0x02, 1, .bool, 0x1133, .n 0, .sto, false, false, .any⟩,
  ⟨0x2C20, 32, 1, 0x03, 1, .u16, 0x1133, .n 0x3E8, .sto, false, false, .rng 50 8000⟩,
  ⟨0x2C20, 32, 1, 0x04, 1, .u16, 0x1133, .n 0xBB8, .sto, false, false, .rng 50 16000⟩,
  ⟨0x2C20, 32, 1, 0x05, 1, .u16, 0x1133, .n 0x14, .sto, false, false, .rng 1 2000⟩,
  ⟨0x2C20, 32, 1, 0x06, 1, .u8, 0x1133, .n 3, .sto, false, false, .rng 0 15⟩,
  ⟨0x2C20, 32, 1, 0x07, 1, .u16, 0x1133, .n 0x64, .sto, false, false, .rng 10 60000⟩,
  ⟨0x2C20, 32, 1, 0x08, 1, .u16, 0x1133, .n 0x3C, .sto, false, false, .rng 1 3600⟩,
  ⟨0x2C20, 32, 1, 0x09, 1, .u16, 0x1133, .n 0x1F4, .sto, false, false, .rng 1 60000⟩,
  ⟨0x2C20, 32, 1, 0x0A, 1, .u8, 0x1133, .n 0, .sto, false, false, .oneOf [0, 1, 2]⟩,
  ⟨0x2C20, 32, 1, 0x0B, 1, .u32, 0x1133, .n 0xF4240, .sto, false, false, .rng 10000 60000000⟩,
  ⟨0x2C20, 32, 1, 0x0C, 1, .u32, 0x1133, .n 0x7A120, .sto, false, false, .any⟩,
  ⟨0x2C20, 32, 1, 0x0D, 1, .u32, 0x1133, .n 0, .sto, false, false, .any⟩,
  ⟨0x2C20, 32, 1, 0x0E, 1, .u8, 0x1111, .n 0, .vol, false, false, .any⟩,
  ⟨0x2C20, 32, 1, 0x0F, 1, .u8, 0x1111, .n 3, .vol, false, false, .any⟩,
  ⟨0x2C20, 32, 1, 0x10, 1, .u32, 0x1111, .n 0, .vol, false, false, .any⟩,
  ⟨0x2C20, 32, 1, 0x11, 1, .u16, 0x1111, .n 0, .vol, false, false, .any⟩,
  ⟨0x2C20, 32, 1, 0x12, 1, .i16, 0x1111, .n 0, .vol, false, false, .any⟩,
  ⟨0x2C20, 32, 1, 0x13, 1, .u32, 0x1133, .n 0, .vol, true, false, .zero⟩,
  ⟨0x2C20, 32, 1, 0x14, 1, .u32, 0x1133, .n 0, .vol, true, false, .zero⟩,
  ⟨0x2C20, 32, 1, 0x15, 1, .u32, 0x1133, .n 0, .vol, true, false, .zero⟩]

/-- Entries of R499, R500, R501, R502, R503, R570: indices from 0x2D00 to 0x2DFF. -/
def entries2D : List EntryRow := [
  ⟨0x2D00, 1, 1, 0x00, 1, .u8, 0x1111, .n 0xA, .fac, false, false, .any⟩,
  ⟨0x2D00, 1, 1, 0x01, 1, .u8, 0x1111, .n 2, .vol, false, false, .any⟩,
  ⟨0x2D00, 1, 1, 0x02, 1, .u8, 0x1111, .n 0xC, .vol, false, false, .any⟩,
  ⟨0x2D00, 1, 1, 0x03, 1, .u8, 0x1111, .n 0, .vol, false, false, .any⟩,
  ⟨0x2D00, 1, 1, 0x04, 1, .u32, 0x1111, .n 0, .vol, false, false, .any⟩,
  ⟨0x2D00, 1, 1, 0x05, 1, .u8, 0x1111, .n 0, .vol, false, false, .any⟩,
  ⟨0x2D00, 1, 1, 0x06, 1, .u8, 0x1111, .n 0, .vol, false, false, .any⟩,
  ⟨0x2D00, 1, 1, 0x07, 1, .u8, 0x1111, .n 0, .vol, false, false, .any⟩,
  ⟨0x2D00, 1, 1, 0x08, 1, .u64, 0x1111, .n 0, .vol, false, false, .any⟩,
  ⟨0x2D00, 1, 1, 0x09, 1, .u32, 0x1111, .n 0, .vol, false, false, .any⟩,
  ⟨0x2D00, 1, 1, 0x0A, 1, .bool, 0x1111, .n 0, .vol, false, false, .any⟩,
  ⟨0x2D01, 1, 1, 0x00, 1, .u8, 0x1111, .n 5, .fac, false, false, .any⟩,
  ⟨0x2D01, 1, 1, 0x01, 1, .u16, 0x1111, .n 0, .vol, false, false, .any⟩,
  ⟨0x2D01, 1, 1, 0x02, 1, .u16, 0x1111, .n 0, .vol, false, false, .any⟩,
  ⟨0x2D01, 1, 1, 0x03, 1, .u16, 0x1111, .n 0, .vol, false, false, .any⟩,
  ⟨0x2D01, 1, 1, 0x04, 1, .u16, 0x1111, .n 0, .vol, false, false, .any⟩,
  ⟨0x2D01, 1, 1, 0x05, 1, .u32, 0x1111, .n 0, .vol, false, false, .any⟩,
  ⟨0x2D02, 1, 1, 0x00, 1, .u8, 0x1111, .n 3, .fac, false, false, .any⟩,
  ⟨0x2D02, 1, 1, 0x01, 1, .u32, 0x0022, .n 0, .vol, true, false, .oneOf [0x74657372]⟩,
  ⟨0x2D02, 1, 1, 0x02, 1, .u8, 0x1133, .n 0x40, .sto, true, false, .rng 8 119⟩,
  ⟨0x2D02, 1, 1, 0x03, 1, .u8, 0x1111, .n 0, .vol, false, false, .any⟩,
  ⟨0x2D03, 1, 1, 0x00, 1, .u8, 0x1111, .n 4, .fac, false, false, .any⟩,
  ⟨0x2D03, 1, 1, 0x01, 1, .u16, 0x1133, .n 0x64, .sto, false, false, .rng 20 1000⟩,
  ⟨0x2D03, 1, 1, 0x02, 1, .u16, 0x1133, .n 0x7D0, .sto, false, false, .rng 500 10000⟩,
  ⟨0x2D03, 1, 1, 0x03, 1, .u16, 0x1133, .n 0x3C, .sto, false, false, .rng 10 3600⟩,
  ⟨0x2D03, 1, 1, 0x04, 1, .u16, 0x1133, .n 0x12C, .sto, false, false, .rng 60 3600⟩,
  ⟨0x2D04, 1, 1, 0x00, 1, .u8, 0x1111, .n 7, .fac, false, false, .any⟩,
  ⟨0x2D04, 1, 1, 0x01, 1, .u32, 0x1111, .n 0, .vol, false, false, .any⟩,
  ⟨0x2D04, 1, 1, 0x02, 1, .u8, 0x1111, .n 0, .vol, false, false, .any⟩,
  ⟨0x2D04, 1, 1, 0x03, 1, .u32, 0x1111, .n 0, .vol, false, false, .any⟩,
  ⟨0x2D04, 1, 1, 0x04, 1, .u8, 0x1111, .n 0, .vol, false, false, .any⟩,
  ⟨0x2D04, 1, 1, 0x05, 1, .domain 8388608, 0x0022, .nil, .vol, true, false, .any⟩,
  ⟨0x2D04, 1, 1, 0x06, 1, .u8, 0x0022, .n 0, .vol, true, false, .oneOf [1, 2]⟩,
  ⟨0x2D04, 1, 1, 0x07, 1, .u8, 0x1111, .n 0, .vol, false, false, .any⟩,
  ⟨0x2D05, 1, 1, 0x00, 1, .u8, 0x1111, .n 0xA, .fac, false, false, .any⟩,
  ⟨0x2D05, 1, 1, 0x01, 1, .u32, 0x1133, .n 0, .vol, true, false, .zero⟩,
  ⟨0x2D05, 1, 1, 0x02, 1, .u32, 0x1133, .n 0, .vol, true, false, .zero⟩,
  ⟨0x2D05, 1, 1, 0x03, 1, .u32, 0x1133, .n 0, .vol, true, false, .zero⟩,
  ⟨0x2D05, 1, 1, 0x04, 1, .u32, 0x1133, .n 0, .vol, true, false, .zero⟩,
  ⟨0x2D05, 1, 1, 0x05, 1, .u32, 0x1133, .n 0, .vol, true, false, .zero⟩,
  ⟨0x2D05, 1, 1, 0x06, 1, .u32, 0x1133, .n 0, .vol, true, false, .zero⟩,
  ⟨0x2D05, 1, 1, 0x07, 1, .u32, 0x1133, .n 0, .vol, true, false, .zero⟩,
  ⟨0x2D05, 1, 1, 0x08, 1, .u32, 0x1133, .n 0, .vol, true, false, .zero⟩,
  ⟨0x2D05, 1, 1, 0x09, 1, .u32, 0x1133, .n 0, .vol, true, false, .zero⟩,
  ⟨0x2D05, 1, 1, 0x0A, 1, .u32, 0x1133, .n 0, .vol, true, false, .zero⟩,
  ⟨0x2D06, 1, 1, 0x00, 1, .u8, 0x1111, .n 4, .fac, false, false, .any⟩,
  ⟨0x2D06, 1, 1, 0x01, 1, .u8, 0x1133, .n 0, .sto, false, false, .mask 0x3F⟩,
  ⟨0x2D06, 1, 1, 0x02, 1, .u8, 0x1333, .n 0, .vol, true, false, .mask 0x3F⟩,
  ⟨0x2D06, 1, 1, 0x03, 1, .u8, 0x1111, .n 0, .vol, false, false, .any⟩,
  ⟨0x2D06, 1, 1, 0x04, 1, .u8, 0x1133, .n 0x3F, .sto, false, false, .mask 0x3F⟩]

/-- Entries of R526, R527, R528, R529, R530, R531: indices from 0x2E00 to 0x2EFF. -/
def entries2Ea : List EntryRow := [
  ⟨0x2E00, 1, 1, 0x00, 1, .u8, 0x1111, .n 7, .fac, false, false, .any⟩,
  ⟨0x2E00, 1, 1, 0x01, 1, .i16, 0x1111, .n 0, .vol, false, false, .any⟩,
  ⟨0x2E00, 1, 1, 0x02, 1, .i16, 0x1111, .n 0, .vol, false, false, .any⟩,
  ⟨0x2E00, 1, 1, 0x03, 1, .u8, 0x1111, .n 0, .vol, false, false, .any⟩,
  ⟨0x2E00, 1, 1, 0x04, 1, .u8, 0x1111, .n 0, .vol, false, false, .any⟩,
  ⟨0x2E00, 1, 1, 0x05, 1, .u8, 0x1333, .n 0, .vol, true, false, .rng 0 127⟩,
  ⟨0x2E00, 1, 1, 0x06, 1, .i16, 0x1111, .n 0, .vol, false, false, .any⟩,
  ⟨0x2E00, 1, 1, 0x07, 1, .i16, 0x1111, .n 0, .vol, false, false, .any⟩,
  ⟨0x2E01, 1, 1, 0x00, 1, .u8, 0x1111, .n 3, .fac, false, false, .any⟩,
  ⟨0x2E01, 1, 1, 0x01, 1, .u16, 0x1133, .n 0x3E8, .sto, false, false, .rng 100 10000⟩,
  ⟨0x2E01, 1, 1, 0x02, 1, .u16, 0x1133, .n 0x3C, .sto, false, false, .rng 20 200⟩,
  ⟨0x2E01, 1, 1, 0x03, 1, .u16, 0x1133, .n 0x14, .sto, false, false, .rng 10 100⟩,
  ⟨0x2E02, 1, 1, 0x00, 1, .u8, 0x1111, .n 8, .fac, false, false, .any⟩,
  ⟨0x2E02, 1, 1, 0x01, 1, .bool, 0x1133, .n 1, .sto, false, false, .any⟩,
  ⟨0x2E02, 1, 1, 0x02, 1, .u32, 0x1133, .n 0x258, .sto, false, false, .rng 60 86400⟩,
  ⟨0x2E02, 1, 1, 0x03, 1, .u16, 0x1133, .n 0x2F8, .sto, false, false, .rng 720 800⟩,
  ⟨0x2E02, 1, 1, 0x04, 1, .u16, 0x1133, .n 0x352, .sto, false, false, .rng 800 880⟩,
  ⟨0x2E02, 1, 1, 0x05, 1, .bool, 0x1133, .n 1, .sto, false, false, .any⟩,
  ⟨0x2E02, 1, 1, 0x06, 1, .u16, 0x1133, .n 0x28, .sto, false, false, .rng 0 1000⟩,
  ⟨0x2E02, 1, 1, 0x07, 1, .u16, 0x1133, .n 0xC8, .sto, false, false, .rng 0 1000⟩,
  ⟨0x2E02, 1, 1, 0x08, 1, .u8, 0x1133, .n 8, .sto, false, false, .rng 2 50⟩,
  ⟨0x2E03, 1, 1, 0x00, 1, .u8, 0x1111, .n 7, .fac, false, false, .any⟩,
  ⟨0x2E03, 1, 1, 0x01, 1, .u8, 0x1111, .n 0, .vol, false, false, .any⟩,
  ⟨0x2E03, 1, 1, 0x02, 1, .u16, 0x1111, .n 0x320, .vol, false, false, .any⟩,
  ⟨0x2E03, 1, 1, 0x03, 1, .ostr 255, 0x1111, .nil, .vol, false, false, .any⟩,
  ⟨0x2E03, 1, 1, 0x04, 1, .u16, 0x1111, .n 0, .vol, false, false, .any⟩,
  ⟨0x2E03, 1, 1, 0x05, 1, .u32, 0x1111, .n 0, .vol, false, false, .any⟩,
  ⟨0x2E03, 1, 1, 0x06, 1, .u64, 0x1111, .n 0, .vol, false, false, .any⟩,
  ⟨0x2E03, 1, 1, 0x07, 1, .u64, 0x1111, .n 0, .vol, false, false, .any⟩,
  ⟨0x2E04, 1, 1, 0x00, 1, .u8, 0x1111, .n 6, .fac, false, false, .any⟩,
  ⟨0x2E04, 1, 1, 0x01, 1, .u8, 0x1111, .n 0, .vol, false, false, .any⟩,
  ⟨0x2E04, 1, 1, 0x02, 1, .i32, 0x1111, .n 0, .vol, false, false, .any⟩,
  ⟨0x2E04, 1, 1, 0x03, 1, .i32, 0x1111, .n 0, .vol, false, false, .any⟩,
  ⟨0x2E04, 1, 1, 0x04, 1, .u32, 0x1111, .n 0, .vol, false, false, .any⟩,
  ⟨0x2E04, 1, 1, 0x05, 1, .ostr 255, 0x1111, .nil, .vol, false, false, .any⟩,
  ⟨0x2E04, 1, 1, 0x06, 1, .u8, 0x0022, .n 0, .vol, true, false, .oneOf [1]⟩,
  ⟨0x2E05, 1, 1, 0x00, 1, .u8, 0x1111, .n 4, .fac, false, false, .any⟩,
  ⟨0x2E05, 1, 1, 0x01, 1, .u32, 0x1133, .n 0, .vol, true, false, .zero⟩,
  ⟨0x2E05, 1, 1, 0x02, 1, .u32, 0x1133, .n 0, .vol, true, false, .zero⟩,
  ⟨0x2E05, 1, 1, 0x03, 1, .u32, 0x1133, .n 0, .vol, true, false, .zero⟩,
  ⟨0x2E05, 1, 1, 0x04, 1, .u32, 0x1133, .n 0, .vol, true, false, .zero⟩,
  ⟨0x2E08, 1, 1, 0x00, 1, .u8, 0x1111, .n 5, .fac, false, false, .any⟩,
  ⟨0x2E08, 1, 1, 0x01, 1, .u8, 0x1133, .n 1, .sto, false, false, .mask 0x1F⟩,
  ⟨0x2E08, 1, 1, 0x02, 1, .u8, 0x0222, .n 0, .vol, true, false, .oneOf [1]⟩,
  ⟨0x2E08, 1, 1, 0x03, 1, .u32, 0x1133, .n 0x3E8, .sto, false, false, .rng 1 3600000⟩,
  ⟨0x2E08, 1, 1, 0x04, 1, .u32, 0x1111, .n 0, .vol, false, false, .any⟩,
  ⟨0x2E08, 1, 1, 0x05, 1, .u64, 0x1111, .n 0, .vol, false, false, .any⟩,
  ⟨0x2E10, 64, 1, 0x00, 1, .u8, 0x1111, .n 7, .fac, false, false, .any⟩,
  ⟨0x2E10, 64, 1, 0x01, 1, .u32, 0x1133, .n 0, .sto, false, false, .evSource⟩,
  ⟨0x2E10, 64, 1, 0x02, 1, .u8, 0x1133, .n 1, .sto, false, false, .oneOf [0, 1, 2, 3, 4]⟩]

/-- Entries of R531: indices from 0x2E00 to 0x2EFF. -/
def entries2Eb : List EntryRow := [
  ⟨0x2E10, 64, 1, 0x03, 1, .u64, 0x1333, .n 0, .vol, false, false, .any⟩,
  ⟨0x2E10, 64, 1, 0x04, 1, .u64, 0x1333, .n 0, .vol, false, false, .any⟩,
  ⟨0x2E10, 64, 1, 0x05, 1, .u64, 0x1133, .n 0, .vol, true, false, .zero⟩,
  ⟨0x2E10, 64, 1, 0x06, 1, .u64, 0x1111, .n 0, .vol, false, false, .any⟩,
  ⟨0x2E10, 64, 1, 0x07, 1, .bool, 0x1133, .n 0, .vol, true, false, .zero⟩]

/-- Entries of R553, R554, R555, R556: indices from 0x2F00 to 0x2FFF. -/
def entries2F : List EntryRow := [
  ⟨0x2F00, 1, 1, 0x00, 1, .u8, 0x1111, .n 3, .fac, false, false, .any⟩,
  ⟨0x2F00, 1, 1, 0x01, 1, .u8, 0x1111, .n 1, .vol, false, false, .any⟩,
  ⟨0x2F00, 1, 1, 0x02, 1, .u32, 0x0022, .n 0, .vol, true, false, .oneOf [0x53454355, 0x564F4944]⟩,
  ⟨0x2F00, 1, 1, 0x03, 1, .ostr 255, 0x0002, .nil, .vol, true, false, .lenExact 176⟩,
  ⟨0x2F01, 1, 1, 0x00, 1, .u8, 0x1111, .n 5, .fac, false, false, .any⟩,
  ⟨0x2F01, 1, 1, 0x01, 1, .ostr 255, 0x1133, .nil, .sto, false, false, .lenExact 64⟩,
  ⟨0x2F01, 1, 1, 0x02, 1, .u8, 0x1111, .n 0, .vol, false, false, .any⟩,
  ⟨0x2F01, 1, 1, 0x03, 1, .u8, 0x1111, .n 4, .vol, false, false, .any⟩,
  ⟨0x2F01, 1, 1, 0x04, 1, .u32, 0x1133, .n 0, .sto, false, false, .any⟩,
  ⟨0x2F01, 1, 1, 0x05, 1, .u8, 0x1111, .n 0, .vol, false, false, .any⟩,
  ⟨0x2F03, 1, 1, 0x00, 1, .u8, 0x1111, .n 2, .fac, false, false, .any⟩,
  ⟨0x2F03, 1, 1, 0x01, 1, .ostr 255, 0x1111, .nil, .fac, false, false, .any⟩,
  ⟨0x2F03, 1, 1, 0x02, 1, .domain 65536, 0x1111, .nil, .fac, false, false, .any⟩,
  ⟨0x2F04, 1, 1, 0x00, 1, .u8, 0x1111, .n 4, .fac, false, false, .any⟩,
  ⟨0x2F04, 1, 1, 0x01, 1, .u8, 0x1133, .n 0, .sto, false, false, .rng 0 3⟩,
  ⟨0x2F04, 1, 1, 0x02, 1, .u8, 0x1111, .n 0, .vol, false, false, .any⟩,
  ⟨0x2F04, 1, 1, 0x03, 1, .u16, 0x1111, .n 0, .vol, false, false, .any⟩,
  ⟨0x2F04, 1, 1, 0x04, 1, .bool, 0x1133, .n 1, .sto, false, false, .any⟩,
  ⟨0x2F10, 8, 1, 0x00, 1, .u8, 0x1111, .n 3, .fac, false, false, .any⟩,
  ⟨0x2F10, 8, 1, 0x01, 1, .ostr 255, 0x1133, .nil, .sto, false, false, .lenNamed 64⟩,
  ⟨0x2F10, 8, 1, 0x02, 1, .u8, 0x1133, .n 0, .sto, false, false, .role⟩,
  ⟨0x2F10, 8, 1, 0x03, 1, .bool, 0x1133, .n 0, .sto, false, false, .any⟩,
  ⟨0x2F05, 1, 1, 0x00, 1, .u8, 0x1111, .n 5, .fac, false, false, .any⟩,
  ⟨0x2F05, 1, 1, 0x01, 1, .u32, 0x1133, .n 0, .vol, true, false, .zero⟩,
  ⟨0x2F05, 1, 1, 0x02, 1, .u32, 0x1133, .n 0, .vol, true, false, .zero⟩,
  ⟨0x2F05, 1, 1, 0x03, 1, .u32, 0x1133, .n 0, .vol, true, false, .zero⟩,
  ⟨0x2F05, 1, 1, 0x04, 1, .u32, 0x1133, .n 0, .vol, true, false, .zero⟩,
  ⟨0x2F05, 1, 1, 0x05, 1, .u32, 0x1133, .n 0, .vol, true, false, .zero⟩]

/-- The entry rows, outside the large tables of R69, of the 256 indices with one high byte. -/
def entryRows (high : Nat) : List EntryRow :=
  match high with
  | 0x10 => entries10
  | 0x12 => entries12
  | 0x20 => entries20
  | 0x21 => entries21a ++ entries21b
  | 0x22 => entries22a ++ entries22b
  | 0x23 => entries23a ++ entries23b
  | 0x24 => entries24a ++ entries24b
  | 0x25 => entries25
  | 0x26 => entries26
  | 0x27 => entries27a ++ entries27b
  | 0x28 => entries28a ++ entries28b
  | 0x29 => entries29
  | 0x2A => entries2A
  | 0x2B => entries2B
  | 0x2C => entries2C
  | 0x2D => entries2D
  | 0x2E => entries2Ea ++ entries2Eb
  | 0x2F => entries2F
  | _ => []

end Sys2Proof.Machine
end

