-- ==== Sys2Proof/Machine/Ops.lean ====
section
/-! DEFINITION. The named operations that every meaning uses: byte order and check sequences, the canonical stores, the
dictionary's registers, the clock and train time, the recorder's acceptance of an entry, event counters, interrupts and
what a command sends. -/

namespace Sys2Proof.Machine

/-- What a command answers. -/
abbrev Result := Host.Outcome State Fault Refusal

/-- A command that changes the device by `f`: it starts with nothing sent, and the queue stays as it is. DESIGN CHOICE,
unsafe (log entry 4). -/
def State.does (s : State) (f : Dev → Dev) : Result := .next { s with dev := f { s.dev with out := [] } }

/-! ### Byte order and bit fields (R30, R31) -/

/-- The low `n` bytes of a number, least significant first (R31). -/
def leBytes : Nat → Nat → List Byte
  | 0, _ => []
  | n + 1, v => BitVec.ofNat 8 v :: leBytes n (v / 256)

/-- The number that bytes spell, least significant first (R31). -/
def leNat : List Byte → Nat
  | [] => 0
  | b :: bs => b.toNat + 256 * leNat bs

/-- The low `n` bytes of a number in network order. -/
def beBytes (n v : Nat) : List Byte := (leBytes n v).reverse

/-- The number that bytes spell in network order. -/
def beNat (bs : List Byte) : Nat := leNat bs.reverse

/-- Bits [hi:lo] of a number. -/
def bitsOf (v hi lo : Nat) : Nat := v / 2 ^ lo % 2 ^ (hi + 1 - lo)

/-- Bit `i` of a number. -/
def bitOf (v i : Nat) : Bool := v / 2 ^ i % 2 = 1

/-- Two's complement reading of an unsigned encoding of `w` bits (R30). -/
def signedOf (w v : Nat) : Int := if v < 2 ^ (w - 1) then v else (v : Int) - 2 ^ w

/-- Unsigned encoding of `w` bits of a signed value (R30). -/
def unsignedOf (w : Nat) (v : Int) : Nat := (v % 2 ^ w).toNat

/-- `n` bytes from offset `o`; bytes past the end are left out. -/
def slice (bs : List Byte) (o n : Nat) : List Byte := (bs.drop o).take n

/-- Bytes of `bs` from offset `o` replaced by `new`, lengthened where `new` runs past the end (R602). -/
def splice (bs : List Byte) (o : Nat) (new : List Byte) : List Byte :=
  bs.take o ++ new ++ bs.drop (o + new.length)

/-- One bit of the reflected CRC-32 of IEEE 802.3. -/
def crc32Bit (c : BitVec 32) : BitVec 32 :=
  if c.getLsbD 0 then (c >>> 1) ^^^ 0xEDB88320#32 else c >>> 1

/-- One byte of the reflected CRC-32 of IEEE 802.3. -/
def crc32Byte (c : BitVec 32) (b : Byte) : BitVec 32 :=
  crc32Bit (crc32Bit (crc32Bit (crc32Bit (crc32Bit (crc32Bit (crc32Bit (crc32Bit (c ^^^ b.zeroExtend 32))))))))

/-- CRC-32 of IEEE 802.3: initial value and final XOR 0xFFFF_FFFF, reflected input and output (R126). -/
def crc32 (bs : List Byte) : BitVec 32 := (bs.foldl crc32Byte 0xFFFFFFFF#32) ^^^ 0xFFFFFFFF#32

/-- Modifies one element of a vector. -/
def vmod {α : Type} {n : Nat} (v : Vector α n) (i : Fin n) (f : α → α) : Vector α n := v.set i.val (f v[i]) i.isLt

/-! ### Canonical stores -/

/-- The value under a key, or the default of that key. -/
def Store.find {α : Type} (dflt : Nat → α) : List (Nat × α) → Nat → α
  | [], k => dflt k
  | (k', v) :: m, k => if k' = k then v else Store.find dflt m k

/-- Writes a value under a key: keys stay in rising order, and a default value is not listed. -/
def Store.put {α : Type} [DecidableEq α] (dflt : Nat → α) : List (Nat × α) → Nat → α → List (Nat × α)
  | [], k, v => if v = dflt k then [] else [(k, v)]
  | (k', v') :: m, k, v =>
    if k < k' then (if v = dflt k then (k', v') :: m else (k, v) :: (k', v') :: m)
    else if k = k' then (if v = dflt k then m else (k, v) :: m)
    else (k', v') :: Store.put dflt m k v

/-- The canonical form: keys strictly rising, no entry equal to what an unlisted key reads as. -/
def Store.wf {α : Type} [DecidableEq α] (dflt : Nat → α) : List (Nat × α) → Bool
  | [] => true
  | [(k, v)] => v ≠ dflt k
  | (k, v) :: (k', v') :: m => v ≠ dflt k && k < k' && Store.wf dflt ((k', v') :: m)

/-- What an unlisted byte of the large tables or of a mailbox window reads as. DESIGN CHOICE, safe (log entry 111). -/
def memDefault (_ : Nat) : Byte := 0

/-- The canonical form of a byte memory. -/
def Memory.wf (m : List Host.Cell) : Bool := Store.wf memDefault m

/-- One byte of a memory. DESIGN CHOICE, safe (log entry 111). -/
def Memory.read (m : List Host.Cell) (a : Nat) : Byte := Store.find memDefault m a

/-- `n` bytes of a memory from an address. -/
def Memory.readBytes (m : List Host.Cell) : Nat → Nat → List Byte
  | _, 0 => []
  | a, n + 1 => Memory.read m a :: Memory.readBytes m (a + 1) n

/-- Writes bytes to a memory from an address. DESIGN CHOICE, safe (log entry 111). -/
def Memory.write (m : List Host.Cell) (a : Nat) : List Byte → List Host.Cell
  | [] => m
  | b :: bs => Memory.write (Store.put memDefault m a b) (a + 1) bs

/-! ### Entries -/

/-- The row that holds an entry, if any. -/
def EntryRow.holds (r : EntryRow) (idx sub : Nat) : Bool :=
  r.base ≤ idx && (idx - r.base) % r.stride = 0 && (idx - r.base) / r.stride < r.count &&
    r.subLo ≤ sub && sub < r.subLo + r.subCount

/-- The entry row of an index and subindex (R29). -/
def entryRow (idx sub : Nat) : Option EntryRow := (entryRows (idx / 256)).find? (·.holds idx sub)

/-- One candidate timing of 80 time quanta (R320). DESIGN CHOICE, unsafe (log entry 64). -/
def candidateRecord (prescaler : Nat) : List Byte :=
  leBytes 2 prescaler ++ leBytes 2 63 ++ leBytes 1 16 ++ leBytes 1 16 ++ leBytes 2 0

/-- The eight candidate timings that 0x27x3:01 holds by default (R320). DESIGN CHOICE, unsafe (log entry 64). -/
def candidateDefault : List Byte := ([1, 2, 4, 8, 10, 20, 50, 100] : List Nat).flatMap candidateRecord

/-- The default value of a row at an index. -/
def Dflt.value (f : Dflt) (ty : EntryType) (idx : Nat) : Value :=
  match f with
  | .n v => match ty with
    | .vstr _ | .ostr _ | .domain _ => .bytes []
    | _ => .num v
  | .off b => .num (idx - b)
  | .nil => .bytes []
  | .str s => .bytes (s.toList.map (fun c => BitVec.ofNat 8 c.toNat))
  | .bytes16 => .bytes (List.replicate 16 0)
  | .candidates => .bytes candidateDefault

/-- The default of a dictionary key; a key without an entry holds 0. -/
def odDefault (k : Nat) : Value :=
  match entryRow (k / 256) (k % 256) with
  | some r => r.dflt.value r.ty (k / 256)
  | none => .num 0

/-- The number a value holds. -/
def Value.toNat : Value → Nat
  | .num n => n
  | .bytes bs => leNat bs

/-- The bytes a value holds. -/
def Value.toBytes : Value → List Byte
  | .num _ => []
  | .bytes bs => bs

/-- Key of an entry in the committed dictionary. -/
def odKey (idx sub : Nat) : Nat := 256 * idx + sub

/-- The committed value of a register of the dictionary. -/
def DictS.reg (q : DictS) (idx sub : Nat) : Value := Store.find odDefault q.od (odKey idx sub)

/-- Writes a register of the dictionary. -/
def DictS.setReg (q : DictS) (idx sub : Nat) (v : Value) : DictS :=
  { q with od := Store.put odDefault q.od (odKey idx sub) v }

/-- A numeric register. -/
def cfg (d : Dev) (idx sub : Nat) : Nat := (d.dict.reg idx sub).toNat

/-- A boolean register. -/
def cfgB (d : Dev) (idx sub : Nat) : Bool := cfg d idx sub ≠ 0

/-- A signed register of `w` bits. -/
def cfgI (d : Dev) (w idx sub : Nat) : Int := signedOf w (cfg d idx sub)

/-- A register that holds bytes. -/
def cfgBytes (d : Dev) (idx sub : Nat) : List Byte := (d.dict.reg idx sub).toBytes

/-- Sets a numeric register. -/
def setReg (idx sub v : Nat) (d : Dev) : Dev := { d with dict := d.dict.setReg idx sub (.num v) }

/-- Sets a register of bytes. -/
def setBytes (idx sub : Nat) (bs : List Byte) (d : Dev) : Dev := { d with dict := d.dict.setReg idx sub (.bytes bs) }

/-- Adds to a counter that saturates at 0xFFFF_FFFF (R64, R222). -/
def bumpBy (idx sub k : Nat) (d : Dev) : Dev := setReg idx sub (min 0xFFFFFFFF (cfg d idx sub + k)) d

/-- Increments a counter that saturates at 0xFFFF_FFFF. -/
def bump (idx sub : Nat) (d : Dev) : Dev := bumpBy idx sub 1 d

/-- Adds to a counter of 64 bits that saturates (R186). -/
def bump64 (idx sub k : Nat) (d : Dev) : Dev := setReg idx sub (min 0xFFFFFFFFFFFFFFFF (cfg d idx sub + k)) d

/-! ### Output, free values and time -/

/-- Sends one thing. DESIGN CHOICE, safe (log entry 6). -/
def emit (o : Out) (d : Dev) : Dev := { d with out := d.out ++ [o] }

/-- Sends several things. -/
def emits (os : List Out) (d : Dev) : Dev := { d with out := d.out ++ os }

/-- Uses up one free value. DESIGN CHOICE, safe (log entry 7). -/
def draw (d : Dev) : Dev := { d with fresh := d.fresh + 1 }

/-- Island 30's nominal clock period, ns (R16). DESIGN CHOICE, unsafe (log entry 2); DESIGN CHOICE, safe (log entry 109). -/
def tickNs : Nat := 4

/-- The clocks after `ns` of local time: F takes one increment at each island 30 clock edge (R187). DESIGN CHOICE, unsafe
(log entry 53). -/
def advanceRaw (ns : Nat) (d : Dev) : Dev :=
  { d with
    now := d.now + ns
    time := { d.time with
      fRaw := (d.time.fRaw + ((d.now + ns) / tickNs - d.now / tickNs) * cfg d 0x2401 1) % 2 ^ 96 } }

/-- Train time in units of 2^-32 ns (R188). DESIGN CHOICE, unsafe (log entry 53). -/
def trainRaw (t : TimeS) : Int :=
  t.base + ((t.fRaw : Int) - t.anchor) + ((t.fRaw : Int) - t.anchor) * t.rate / 1000000000000

/-- Train time in ns as an unsigned 64-bit value (R188, R189). -/
def trainTime (d : Dev) : Nat := (trainRaw d.time / 2 ^ 32 % 2 ^ 64).toNat

/-- A time in units of 2^-32 ns as a stamp in units of 0.5 ns (R195). -/
def halfOf (raw : Int) : Nat := (raw / 2 ^ 31 % 2 ^ 65).toNat

/-- A number of ps in units of 2^-32 ns. -/
def psRaw (ps : Nat) : Int := ps * 2 ^ 32 / 1000

/-! ### Event counters (R521 to R524) -/

/-- Whether the gate of event counter `i` is open (R523). -/
def evGateOpen (d : Dev) (i : Nat) : Bool :=
  match cfg d (0x2E10 + i) 2 with
  | 1 => true
  | 2 => d.time.tevtInLevel
  | 3 => cfg d (0x2E10 + i) 3 ≤ trainTime d && trainTime d < cfg d (0x2E10 + i) 4
  | 4 => d.sched.state = .running
  | _ => false

/-- Whether a selector (0x2E10 + i:01) names the event (R521, R522); qualifier 0x7F counts every queue. -/
def evMatches (s code inst qual : Nat) : Bool :=
  bitsOf s 11 0 = code && code ≠ 0 && bitsOf s 23 16 = inst && (bitsOf s 30 24 = qual || bitsOf s 30 24 = 0x7F)

/-- The event counters with a selector other than 0, with their selectors. -/
def evSelectors (d : Dev) : List (Fin 64 × Nat) :=
  d.dict.od.filterMap fun (k, v) =>
    if 0x2E10 ≤ k / 256 && k / 256 < 0x2E50 && k % 256 = 1 then some (Fin.ofNat 64 (k / 256 - 0x2E10), v.toNat)
    else none

/-- Adds to one event counter of 48 bits (R521). -/
def evAdd (k : Nat) (c : EvCounter) : EvCounter :=
  { c with value := c.value + BitVec.ofNat 48 k, overflow := c.overflow || decide (2 ^ 48 ≤ c.value.toNat + k) }

/-- Counts `k` occurrences of a source event in every counter that selects it and whose gate is open (R521, R523). DESIGN
CHOICE, unsafe (log entry 101). -/
def countEv (code inst qual k : Nat) (d : Dev) : Dev :=
  { d with health := { d.health with
      counters := (evSelectors d).foldl (fun cs (i, s) =>
        if evMatches s code inst qual && evGateOpen d i.val then vmod cs i (evAdd k) else cs) d.health.counters } }

/-! ### Passing time -/

/-- Lets `ns` of local time pass; event counters with source 0x060 count the microseconds of train time (R522). DESIGN
CHOICE, unsafe (log entry 2); DESIGN CHOICE, safe (log entry 109). -/
def advance (ns : Nat) (d : Dev) : Dev :=
  let d' := advanceRaw ns d
  countEv 0x060 0 0 (trainTime d' / 1000 - trainTime d / 1000) d'

/-- Lets local time reach a moment that a timer names. DESIGN CHOICE, unsafe (log entry 4); DESIGN CHOICE, safe (log entry
109). -/
def arrive (t : Nat) (d : Dev) : Dev := advance (t - d.now) d

/-- Lets local time pass until train time has reached `t`; each round closes the gap that the rate left. DESIGN CHOICE,
unsafe (log entry 5). -/
def arriveTrainFuel : Nat → Nat → Dev → Dev
  | 0, _, d => d
  | n + 1, t, d => if t ≤ trainTime d then d else arriveTrainFuel n t (advance (t - trainTime d + tickNs - 1) d)

/-- Lets local time pass until train time has reached `t`. DESIGN CHOICE, unsafe (log entry 5). -/
def arriveTrain (t : Nat) (d : Dev) : Dev := arriveTrainFuel 8 t d

/-- 0x2400:01 is 1 or 3: time is trusted (R192, R368). -/
def TimeState.sure : TimeState → Bool
  | .grandmaster | .synchronised => true
  | _ => false

/-- Code of 0x2400:01 (R205). -/
def TimeState.code : TimeState → Nat
  | .unsynchronised => 0
  | .grandmaster => 1
  | .acquiring => 2
  | .synchronised => 3
  | .holdover => 4
  | .stepPending => 5

/-- A deadline `ns` from now. DESIGN CHOICE, unsafe (log entry 4). -/
def after (ns : Nat) (d : Dev) : Option Nat := some (d.now + ns)

/-- Milliseconds and microseconds in ns. -/
def msNs : Nat := 1000000
/-- One microsecond in ns. -/
def usNs : Nat := 1000
/-- One second in ns. -/
def sNs : Nat := 1000000000

/-- What remains of a deadline, in whole units of `unit` ns, rounded up; 0 when none runs. -/
def remaining (dl : Option Nat) (unit : Nat) (d : Dev) : Nat :=
  match dl with
  | some t => (t - d.now + unit - 1) / unit
  | none => 0

/-! ### Interrupts to the host (R454, R455) -/

/-- MSI-X vector of a bit of INT_STATUS (R455). -/
def vectorOf (bit : Nat) : Nat :=
  if bit ≤ 7 then 0
  else if bit ≤ 15 then 1
  else if bit ≤ 23 then bit - 14
  else if bit = 24 then 10
  else if bit = 25 then 11
  else 0

/-- Whether some enabled bit of a vector is set (R455). -/
def vectorActive (h : HostS) (v : Nat) : Bool :=
  (List.range 30).any (fun b => vectorOf b = v && h.intStatus.getLsbD b && h.enMsi.getLsbD b)

/-- Sends a vector's message, or sets its pending bit when it is masked (R455). DESIGN CHOICE, unsafe (log entry 86). -/
def sendVector (v : Fin 16) (d : Dev) : Dev :=
  if d.host.msiMask[v] then { d with host := { d.host with msiPending := d.host.msiPending.set v.val true v.isLt } }
  else emit (.msi v) d

/-- Sets a bit of INT_STATUS and sends the vector's message when its enabled bits rise from none to some (R454, R455). -/
def setInt (bit : Nat) (d : Dev) : Dev :=
  let v := vectorOf bit
  let d' : Dev := { d with host := { d.host with intStatus := d.host.intStatus ||| BitVec.ofNat 32 (2 ^ bit) } }
  if !vectorActive d.host v && vectorActive d'.host v then sendVector (Fin.ofNat 16 v) d' else d'

/-- HOST_INT_N is low (R455). -/
def hostIntLow (d : Dev) : Bool := d.host.intStatus &&& d.host.enPin ≠ 0

/-! ### Snapshots (R524) -/

/-- Takes a snapshot of every event counter; triggers that fall on one edge take one snapshot (R524). -/
def snapshot (d : Dev) : Dev :=
  if d.health.snapAt = some d.now then d
  else
  let d1 : Dev := { d with health := { d.health with
      snapAt := some d.now
      counters := Vector.ofFn (fun i : Fin 64 =>
        let c := d.health.counters[i]
        if bitOf (cfg d (0x2E10 + i) 1) 31 then { c with snap := c.value, value := 0 } else { c with snap := c.value }) } }
  setReg 0x2E08 5 (trainTime d) (setReg 0x2E08 4 ((cfg d 0x2E08 4 + 1) % 2 ^ 32) d1)

/-! ### The recorder's acceptance of an entry (R368 to R375, R382) -/

/-- An event of a chapter's event table: source, severity, row and position in the row (R370). DESIGN CHOICE, unsafe (log
entry 72). -/
structure Ev where
  src : Nat
  sev : Nat
  row : Nat
  pos : Nat
  deriving DecidableEq, Repr

/-- Sequence number a is later than b (R369). -/
def seqLater (a b : Nat) : Bool :=
  let x := (a + 2 ^ 32 - b % 2 ^ 32) % 2 ^ 32
  1 ≤ x && x < 2 ^ 31

/-- The sequence number after `n` (R369). -/
def seqNext (n : Nat) : Nat := if n ≥ 0xFFFFFFFF then 1 else n + 1

/-- The lowest free slot of a list of occupied slots in rising order. -/
def freeSlot : Nat → List (Nat × Entry) → Nat
  | n, [] => n
  | n, (k, _) :: m => if k = n then freeSlot (n + 1) m else n

/-- Puts an entry under a slot, slots in rising order. -/
def putSlot (k : Nat) (e : Entry) : List (Nat × Entry) → List (Nat × Entry)
  | [] => [(k, e)]
  | (k', e') :: m => if k < k' then (k, e) :: (k', e') :: m else if k = k' then (k, e) :: m else (k', e') :: putSlot k e m

/-- The slot of the oldest entry whose severity is at most `sev` (R375). -/
def oldestSlot (sev : Nat) (m : List (Nat × Entry)) : Option Nat :=
  (m.foldl (fun (acc : Option (Nat × Entry)) x =>
    if x.2.sev ≤ sev then
      match acc with
      | none => some x
      | some y => if seqLater y.2.seq x.2.seq then some x else some y
    else acc) none).map (·.1)

/-- Writes an entry into a memory of `cap` slots under R375; none when the entry is dropped. -/
def slotAccept (cap : Nat) (e : Entry) (m : List (Nat × Entry)) : Option (List (Nat × Entry)) :=
  if m.length < cap then some (putSlot (freeSlot 0 m) e m)
  else match oldestSlot e.sev m with
    | some k => some (putSlot k e m)
    | none => none

/-- Sizes of the recorder's memories (R374, R377, R379, R381). -/
def stagingCap : Nat := 256
/-- Slots of the holding buffer (R377). -/
def holdingCap : Nat := 1024
/-- Slots of the on-chip ring (R376). -/
def ringCap : Nat := 4096
/-- Slots of the Tarn entry area (R381). -/
def tarnCap : Nat := 236

/-- A drop of the on-chip ring or the entry area: bytes 60 to 63 of the summary, which a recorder without its medium updates
at write-back (R373, R387). -/
def countDrop (d : Dev) : Dev :=
  { d with recd :=
    if d.recd.mediumFailed || d.recd.state = .off || d.recd.state = .scanning then
      { d.recd with dropsDue := d.recd.dropsDue + 1 }
    else { d.recd with summary := { d.recd.summary with ringDrops := min 0xFFFFFFFF (d.recd.summary.ringDrops + 1) } } }

/-- A write into a block of the entry area that fails its read-back (R382). DESIGN CHOICE, unsafe (log entry 119). -/
def tarnMisses (a : List (Nat × Entry)) (e : Entry) (d : Dev) : Bool :=
  d.chip.tarnBad.any (fun k => a.any (fun x => x.1 = k && x.2.seq = e.seq))

/-- Copies an entry into the Tarn entry area under R375; the drop counts in 0x2A06:11, and a write that fails its read-back
leaves no copy (R382). DESIGN CHOICE, unsafe (log entry 119). -/
def tarnCopy (e : Entry) (d : Dev) : Dev :=
  match slotAccept tarnCap e d.recd.tarn.area with
  | some a =>
    let miss := tarnMisses a e d
    { d with recd := { d.recd with
      tarnMissed := miss
      tarn := { d.recd.tarn with area := if miss then d.recd.tarn.area else a, writes := d.recd.tarn.writes + 1 } } }
  | none => countDrop (bump 0x2A06 0x11 d)

/-- The limit of Tarn copies in any 60 s (R382). -/
def tarnLimited (e : Entry) (d : Dev) : Dev :=
  if e.sev < cfg d 0x2A01 4 then d
  else if e.sev = 7 || d.recd.state = .closed then tarnCopy e d
  else
    let recent := d.recd.tarnCopies.filter (fun t => d.now < t + 60 * sNs)
    if recent.length < cfg d 0x2A01 5 then
      tarnCopy e { d with recd := { d.recd with tarnCopies := recent ++ [d.now] } }
    else bump 0x2A06 0x0E d

/-- Places an entry in the on-chip ring (R375, R380). -/
def ringAccept (e : Entry) (d : Dev) : Dev :=
  match slotAccept ringCap e d.recd.ring with
  | some r => { d with recd := { d.recd with ring := r } }
  | none => countDrop (bump 0x2A06 0x0A d)

/-- Places an entry in the holding buffer (R377). -/
def holdingAccept (e : Entry) (d : Dev) : Dev :=
  match slotAccept holdingCap e d.recd.holding with
  | some r => { d with recd := { d.recd with holding := r } }
  | none => bump 0x2A06 9 { d with recd := { d.recd with
      holdingDrops := vmod d.recd.holdingDrops (Fin.ofNat 8 e.sev) (· + 1) } }

/-- Starts an eMMC write of the staged entries when none is in progress (R374). -/
def startFlush (d : Dev) : Dev :=
  if d.recd.inflight.isEmpty && !d.recd.staging.isEmpty && d.recd.state = .logging then
    { d with recd := { d.recd with
        inflight := d.recd.staging.map (·.1), staging := [], writeDeadline := some (d.now + 250 * msNs) } }
  else d

/-- Stages an entry; a staging buffer of 256 sends further entries to the on-chip ring (R374). -/
def stageEntry (e : Entry) (d : Dev) : Dev :=
  if d.recd.staging.length + d.recd.inflight.length < stagingCap then
    let d' : Dev := { d with recd := { d.recd with staging := d.recd.staging ++ [(e, d.now)] } }
    if 64 ≤ d'.recd.staging.length || 6 ≤ e.sev then startFlush d' else d'
  else ringAccept e d

/-- Gives an entry its sequence number and places it as the recorder's state says (R369, R374, R377, R380, R384); `copy` is
what the Tarn store does with it. -/
def placeWith (copy : Entry → Dev → Dev) (e0 : Entry) (d0 : Dev) : Dev :=
  let seq := seqNext d0.recd.lastSeq
  let d : Dev := countEv 0x040 0 e0.sev 1 { d0 with recd := { d0.recd with lastSeq := seq } }
  let e : Entry := { e0 with seq := seq, fmt := d.recd.summary.fmt }
  let d' := match d.recd.state with
    | .logging => let s := stageEntry e d; copy e s
    | .frozen => let e' := { e with viaHolding := true }; copy e' (holdingAccept e' d)
    | _ => let e' := { e with viaRing := true }; copy e' (ringAccept e' d)
  if e.sev = 7 then setInt 28 d' else d'

/-- An entry as it is raised, before it has a sequence number (R368). -/
def newEntry (ev : Ev) (inst : Nat) (payload : List Byte) (d : Dev) : Entry :=
  { seq := 0, sev := ev.sev, viaHolding := false, viaRing := false, restored := false,
    unsure := !d.time.state.sure, src := ev.src, code := 256 * ev.row + ev.pos,
    time := trainTime d, epoch := d.inaug.now.epoch, stepGen := d.time.stepGen % 8, inst := inst % 256,
    boot := d.recd.tarn.bootCount, fmt := d.recd.summary.fmt, payload := payload.take 32 }

/-- Event "Tarn store write failed" (R392). -/
def evTarnFailed : Ev := ⟨10, 6, 8, 0⟩

/-- Places an entry; a Tarn write that fails its read-back raises the event of R382, which itself is not copied. -/
def placeEntry (e : Entry) (d : Dev) : Dev :=
  let d1 := placeWith tarnLimited e d
  if d1.recd.tarnMissed then
    placeWith (fun _ d => d) (newEntry evTarnFailed 0xFF [] d1) { d1 with recd := { d1.recd with tarnMissed := false } }
  else d1

/-- Keeps an entry that waits for the end of the scan, under R375 within the ring (R385, R504). -/
def earlyAccept (e : Entry) (d : Dev) : Dev :=
  if d.recd.early.length < ringCap then { d with recd := { d.recd with early := d.recd.early ++ [e] } }
  else match d.recd.early.find? (fun x => x.sev ≤ e.sev) with
    | some x => { d with recd := { d.recd with early := d.recd.early.erase x ++ [e] } }
    | none => countDrop (bump 0x2A06 0x0A d)

/-- Hands an entry to the recorder (R374, R385, R504): entries below the minimum severity are counted only, and entries
raised while the recorder is Off or Scanning wait for their numbers. DESIGN CHOICE, unsafe (log entry 72). -/
def recordEntry (e : Entry) (d : Dev) : Dev :=
  if e.sev < cfg d 0x2A01 2 then bump 0x2A06 0x0B d
  else match d.recd.state with
    | .off | .scanning => earlyAccept e d
    | _ => placeEntry e d

/-- Raises an event with an instance number and a payload. DESIGN CHOICE, unsafe (log entry 72). -/
def raiseP (ev : Ev) (inst : Nat) (payload : List Byte) (d : Dev) : Dev := recordEntry (newEntry ev inst payload d) d

/-- Raises an event of one instance (R370). DESIGN CHOICE, unsafe (log entry 72). -/
def raise (ev : Ev) (inst : Nat) (d : Dev) : Dev := raiseP ev inst [] d

/-- Byte 19 of an entry without an instance (R368). -/
def noInst : Nat := 0xFF

/-! ### Lists of devices -/

/-- Applies a step for each element of a list in turn. -/
def forEach {α : Type} (l : List α) (f : α → Dev → Dev) (d : Dev) : Dev := l.foldl (fun d x => f x d) d

/-- Applies a step when a condition holds. -/
def onlyIf (c : Bool) (f : Dev → Dev) (d : Dev) : Dev := if c then f d else d

/-- All ports. -/
def allPorts : List Port := List.finRange 20

/-- The backbone ports (R7). -/
def backbonePorts : List Port := [0, 1, 2, 3]

/-- A port is a backbone port. -/
def isBackbone (p : Port) : Bool := p.val < 4

/-- A port is on the rear side (R7). -/
def isRear (p : Port) : Bool := p.val = 1 || p.val = 3

/-- Port of a side and lane (R7). -/
def sidePort (rear laneB : Bool) : Port := ⟨(if rear then 1 else 0) + (if laneB then 2 else 0), by
  cases rear <;> cases laneB <;> decide⟩

/-- A port is Up (R169). -/
def portUp (d : Dev) (p : Port) : Bool := d.ports.p[p].link = .up

/-- SAFE_N is low (R494). -/
def safeLow (d : Dev) : Bool := !d.pow.safeN

/-- Changes one port's record. -/
def onPort (p : Port) (f : PortS → PortS) (d : Dev) : Dev := { d with ports := { d.ports with p := vmod d.ports.p p f } }

/-- Link delay of a port that the regeneration of a COMMIT uses, ns: 0x2410 + p:06 before the first valid result (R96, R200). -/
def linkDelayNs (d : Dev) (p : Port) : Nat :=
  (if d.time.ports[p].measured then d.time.ports[p].linkDelay else cfg d (0x2410 + p.val) 6) / 1000

/-- Changes one port's part of the time base. -/
def onPortTime (p : Port) (f : PortTime → PortTime) (d : Dev) : Dev :=
  { d with time := { d.time with ports := vmod d.time.ports p f } }

/-! ### The schedule cycle (R225, R242) -/

/-- The schedule state under which the gates work: that left for Off up to the next cycle boundary (R254). -/
def schedRuns (d : Dev) : SchedState :=
  match d.sched.state, d.sched.closing with
  | .off, some st => st
  | st, _ => st

/-- A schedule is active on the node: it is Running, Fenced or Local (R254). -/
def scheduleActive (d : Dev) : Bool :=
  match schedRuns d with
  | .running | .fenced | .localOnly => true
  | _ => false

/-- Cycle time and base time of the schedule in force. -/
def schedCycle (d : Dev) : Option (Nat × Nat) :=
  match schedRuns d with
  | .off => none
  | .localOnly => some (cfg d 0x2501 9, cfg d 0x2501 0x0A)
  | _ => d.sched.image.map (fun i => (i.cycle, i.baseNs))

/-- The first time at or after `t` that is `base` plus a whole number of `period` (R225). -/
def firstInstant (base period t : Nat) : Nat :=
  if period = 0 then t else
    let r := ((base : Int) - t) % period
    t + r.toNat

/-- The first cycle boundary at or after train time `t`; `t` itself when no schedule is active (R43, R204). -/
def boundaryFrom (d : Dev) (t : Nat) : Nat :=
  if scheduleActive d then
    match schedCycle d with
    | some (c, b) => firstInstant b c t
    | none => t
  else t

/-! ### Steps and rate of train time (R188, R191) -/

/-- Sets the rate at the present edge so that train time stays continuous (R188). DESIGN CHOICE, safe (log entry 50). -/
def setRate (rate : Int) (d : Dev) : Dev :=
  { d with time := { d.time with anchor := d.time.fRaw, base := trainRaw d.time, rate := rate } }

/-- The servo's new rate: free within the limits of R203 and R218. DESIGN CHOICE, safe (log entry 50). -/
def servoRate (d : Dev) : Dev :=
  let slew : Int := cfg d 0x2402 0x0A
  let match_ := Config.freeInt d.fresh
  let delta := max (-slew) (min slew (Config.freeInt (d.fresh + 1)))
  setRate (max (-200000000) (min 200000000 (match_ + delta))) (draw (draw d))

/-- A change of 0x2400:01 sets INT_STATUS bit [7] (R454); a holdover that ends leaves no passed limit behind (R205, R212). -/
def setTimeState (st : TimeState) (d : Dev) : Dev :=
  if d.time.state = st then d
  else setInt 7 { d with time := { d.time with
    state := st, holdSince := if st = .holdover then d.time.holdSince else none
    holdLimitPassed := st = .holdover && d.time.holdLimitPassed } }

/-- Periodic instants of TEVT_OUT from the next one, `n`, that a step to `t1` jumps over (R213). -/
def jumped (period n t1 : Nat) : Nat :=
  if t1 ≤ n then 0 else if period = 0 then 1 else (t1 - n + period - 1) / period

/-- Re-aims TEVT_OUT after a step (R213). -/
def tevtAfterStep (d : Dev) : Dev :=
  let t1 := trainTime d
  match d.time.tevtNext with
  | none => d
  | some n =>
    if cfg d 0x2403 4 = 2 then
      let missed := jumped (cfg d 0x2403 6) n t1
      bumpBy 0x2404 8 missed { d with time := { d.time with
        tevtNext := some (firstInstant (cfg d 0x2403 5) (cfg d 0x2403 6) t1) } }
    else if n < t1 then bump 0x2404 8 { d with time := { d.time with tevtNext := none } }
    else d

/-- Event "step applied" (R224). -/
def evStep : Ev := ⟨4, 4, 3, 0⟩

/-- Frame rates of the three sample grids, Hz (R270). -/
def gridRates : List Nat := [16000, 32000, 48000]

/-- Distance of a grid from its grid times after a step, ns: the amount modulo the frame period, the nearer way (R278). -/
def offGrid (fs : Nat) (old amount : Int) : Int :=
  let p : Int := 1000000000000 / fs
  let x := (old + amount) * 1000 % p
  (if 2 * x ≤ p then x else x - p) / 1000

/-- The sample grids run on across a step and are pulled back; listeners that are Playing enter Holding (R275, R278). -/
def streamsStep (amount : Int) (d : Dev) : Dev :=
  let off := Vector.ofFn (fun i : Fin 3 => offGrid (gridRates[i.val]?.getD 48000) d.strm.gridOff[i] amount)
  let far := max off[0].natAbs (max off[1].natAbs off[2].natAbs)
  let d1 : Dev := { d with strm := { d.strm with
    gridOff := off
    s := d.strm.s.map (fun t => if t.state = .playing then { t with state := .holding } else t) } }
  if far = 0 then d1
  else bump 0x2602 4 { d1 with strm := { d1.strm with
    rephaseEnd := some (d1.now + far * 1000000 / max 1 (cfg d1 0x2601 3)) } }

/-- Adds a signed amount to train time at one edge (R188, R191): the step generation rises, the recorder writes one
entry with the time before and the amount, and the schedule opens no window until the next boundary (R252). -/
def stepTime (amount : Int) (d : Dev) : Dev :=
  let t0 := trainTime d
  let before := newEntry evStep noInst (leBytes 8 t0 ++ leBytes 8 (unsignedOf 64 amount)) d
  let d1 : Dev := { d with time := { d.time with
    base := d.time.base + amount * 2 ^ 32, stepGen := (d.time.stepGen + 1) % 8 } }
  let d2 := streamsStep amount (recordEntry { before with stepGen := d1.time.stepGen } (setInt 7 (tevtAfterStep d1)))
  if scheduleActive d then
    bump 0x2505 9 { d2 with sched := { d2.sched with
      cutUntil := some (boundaryFrom d2 (trainTime d2)), goodCycles := 0, syncSeen := false, badSeen := false,
      windows := Vector.replicate 20 none } }
  else d2

end Sys2Proof.Machine
end

