-- ==== Sys2Proof/Machine/Crc.lean ====
section
/-! DEFINITION. The CRC kinds of the check units (R351), which the companion links use as well (R420). -/

namespace Sys2Proof.Machine

/-- One bit of a CRC whose register shifts towards its most significant bit. -/
def crcShift {w : Nat} (poly c : BitVec w) : BitVec w := if c.msb then (c <<< 1) ^^^ poly else c <<< 1

/-- One byte, already in the order of its bits, into a CRC register. -/
def crcStep {w : Nat} (poly c : BitVec w) (b : Byte) : BitVec w :=
  (List.range 8).foldl (fun c _ => crcShift poly c) (c ^^^ (b.zeroExtend w <<< (w - 8)))

/-- A CRC by the parameters of R351; `reflected` reflects input and output. -/
def crcOf {w : Nat} (poly init xorOut : BitVec w) (reflected : Bool) (bs : List Byte) : Nat :=
  let c := bs.foldl (fun c b => crcStep poly c (if reflected then b.reverse else b)) init
  ((if reflected then c.reverse else c) ^^^ xorOut).toNat

/-- Width of a CRC kind in bytes. -/
def crcWidth (kind : Nat) : Nat :=
  match kind with
  | 1 | 2 => 1
  | 3 | 4 => 2
  | 5 | 6 | 7 => 4
  | _ => 0

/-- The CRC of a kind over bytes; kind 0 computes nothing (R351). -/
def crcKind (kind : Nat) (bs : List Byte) : Nat :=
  match kind with
  | 1 => crcOf 0x1D#8 0xFF#8 0xFF#8 false bs
  | 2 => crcOf 0x2F#8 0xFF#8 0xFF#8 false bs
  | 3 => crcOf 0x1021#16 0xFFFF#16 0x0000#16 false bs
  | 4 => crcOf 0x8005#16 0x0000#16 0x0000#16 true bs
  | 5 => crcOf 0x04C11DB7#32 0xFFFFFFFF#32 0xFFFFFFFF#32 true bs
  | 6 => crcOf 0x1EDC6F41#32 0xFFFFFFFF#32 0xFFFFFFFF#32 true bs
  | 7 => crcOf 0xF4ACFB13#32 0xFFFFFFFF#32 0xFFFFFFFF#32 true bs
  | _ => 0

end Sys2Proof.Machine
end

