-- ==== Sys2Proof/Machine/Loads.lean ====
section
/-! DEFINITION. The load-channel supervisor and the companion links: transfers, status frames, channel states, retries,
thermal latch, clamp budget, pulse generators, supply dips and the step of train time (chapter 14). -/

namespace Sys2Proof.Machine

/-! ### Events of R444 -/

/-- Event "inrush window extended". -/
def evExtended : Ev := ⟨12, 3, 1, 0⟩
/-- Event "thermal latch released". -/
def evLatchReleased : Ev := ⟨12, 3, 1, 1⟩
/-- Event "channel unlocked". -/
def evUnlocked : Ev := ⟨12, 3, 1, 2⟩
/-- Event "companion supply restored". -/
def evSupplyRestored : Ev := ⟨12, 3, 1, 3⟩
/-- Event "over-current trip". -/
def evTrip : Ev := ⟨12, 4, 2, 0⟩
/-- Event "thermal shutdown". -/
def evThermal : Ev := ⟨12, 4, 2, 1⟩
/-- Event "companion supply low". -/
def evSupplyLow : Ev := ⟨12, 4, 2, 2⟩
/-- Event "companion reset or watchdog expiry". -/
def evCompReset : Ev := ⟨12, 4, 2, 3⟩
/-- Event "retries exhausted". -/
def evExhausted : Ev := ⟨12, 5, 3, 0⟩
/-- Event "clamp budget spent". -/
def evClampSpent : Ev := ⟨12, 5, 3, 1⟩
/-- Event "link fault". -/
def evLinkFault : Ev := ⟨12, 5, 3, 2⟩
/-- Event "wrong device on a load link". -/
def evWrongDevice : Ev := ⟨12, 6, 4, 0⟩

/-! ### Channels, links and their entries -/

/-- Code of a channel state (R438). -/
def LoadState.code : LoadState → Nat
  | .off => 0
  | .inrush => 1
  | .on => 2
  | .retryWait => 3
  | .tripped => 4
  | .thermalLatch => 5
  | .locked => 6
  | .supplyHold => 7
  | .pulseGap => 8

/-- Code of a link state (R442). -/
def LinkSt.code : LinkSt → Nat
  | .off => 0
  | .identifying => 1
  | .configuring => 2
  | .running => 3
  | .supplyLow => 4
  | .fault => 5
  | .wrongDevice => 6

/-- A setting of a channel (R443). -/
def chCfg (d : Dev) (k : Fin 32) (sub : Nat) : Nat := cfg d (0x2C20 + k.val) sub

/-- A setting of a companion (R442). -/
def compCfg (d : Dev) (n : Fin 4) (sub : Nat) : Nat := cfg d (0x2C10 + n.val) sub

/-- Changes one channel. -/
def onCh (k : Fin 32) (f : LoadCh → LoadCh) (d : Dev) : Dev := { d with load := { d.load with ch := vmod d.load.ch k f } }

/-- Changes one companion link. -/
def onComp (n : Fin 4) (f : Companion → Companion) (d : Dev) : Dev :=
  { d with load := { d.load with comp := vmod d.load.comp n f } }

/-- The companion of a channel. -/
def compOf (k : Fin 32) : Fin 4 := Fin.ofNat 4 (k.val / 8)

/-- Channel i of companion n. -/
def chanOf (n : Fin 4) (i : Nat) : Fin 32 := Fin.ofNat 32 (8 * n.val + i)

/-- The channels of a companion in ascending order. -/
def chansOf (n : Fin 4) : List (Fin 32) := (List.range 8).map (chanOf n)

/-- The companion switches the channel on in these states. -/
def LoadState.isOn : LoadState → Bool
  | .inrush | .on => true
  | _ => false

/-- Duration of a short and of a read transfer, ns (R419). -/
def transferNs (read : Bool) : Nat := if read then 12800 else 6400

/-! ### Pulse generators (R431, R432) -/

/-- A channel that pulses while its command is true. -/
def pulsed (d : Dev) (k : Fin 32) : Bool := chCfg d k 0x0A ≠ 0

/-- The spreading group of a channel in mode 2, in ascending order (R432). -/
def spreadGroup (d : Dev) (k : Fin 32) : List (Fin 32) :=
  (List.finRange 32).filter (fun j => chCfg d j 0x0A = 2 && chCfg d j 0x0B = chCfg d k 0x0B)

/-- Effective phase, µs (R431, R432). -/
def effPhase (d : Dev) (k : Fin 32) : Nat :=
  if chCfg d k 0x0A = 2 then
    let g := spreadGroup d k
    let r := (g.filter (fun j => j.val < k.val)).length
    (chCfg d k 0x0D + r * chCfg d k 0x0B / g.length) % chCfg d k 0x0B
  else chCfg d k 0x0D

/-- Pulse level at a train time in ns (R431). -/
def pulseLevel (d : Dev) (k : Fin 32) (t : Nat) : Bool :=
  let x : Int := ((t : Int) - effPhase d k * usNs) % (chCfg d k 0x0B * usNs)
  x < chCfg d k 0x0C * usNs

/-- The channel may carry current now: static mode, or its pulse level is high. -/
def levelAllows (d : Dev) (k : Fin 32) : Bool := !pulsed d k || pulseLevel d k (trainTime d)

/-- The first pulse edge after a train time (R431). -/
def nextEdge (d : Dev) (k : Fin 32) (t : Nat) : Nat :=
  let p := chCfg d k 0x0B * usNs
  min (firstInstant (effPhase d k * usNs) p (t + 1)) (firstInstant ((effPhase d k + chCfg d k 0x0C) * usNs) p (t + 1))

/-! ### Transfers (R419 to R424) -/

/-- Output mask of a command: before Running, the channels that the companion itself held on and that are commanded on
(R435, R437). -/
def outMask (d : Dev) (n : Fin 4) : Nat :=
  let c := d.load.comp[n]
  let isSet := fun (k : Fin 32) => match c.link with
    | .running | .supplyLow => d.load.ch[k].state.isOn
    | _ => bitOf c.keep.toNat (k.val % 8) && d.load.ch[k].command && levelAllows d k
  ((List.range 8).map (fun i => if isSet (chanOf n i) then 2 ^ i else 0)).sum

/-- Inrush mask of a command (R426). -/
def inrushMask (d : Dev) (n : Fin 4) : Nat :=
  ((List.range 8).map (fun i => if d.load.ch[chanOf n i].state = .inrush then 2 ^ i else 0)).sum

/-- The eight bytes of a command frame (R420). -/
def commandFrame (kind seq outs inr sel value : Nat) : List Byte :=
  let bs := leBytes 1 (16 * kind + seq % 16) ++ leBytes 1 outs ++ leBytes 1 inr ++ leBytes 1 sel ++ beBytes 2 value ++ leBytes 1 0
  bs ++ leBytes 1 (crcKind 1 bs)

/-- The READs of the polls that have fallen due (R423). -/
def duePolls (n : Fin 4) (d : Dev) : Dev :=
  let c := d.load.comp[n]
  let add := fun (l m : List (Nat × Nat)) => l ++ m.filter (fun x => !l.contains x)
  let cur := if c.currentPoll ≤ d.now then
      ((List.range 8).filter (fun i => d.load.ch[chanOf n i].state.isOn)).map (fun i => (0x11, i)) else []
  let tmp := if c.tempPoll ≤ d.now then (List.range 8).map (fun i => (0x12, i)) else []
  onComp n (fun c => { c with
    reads := add (add c.reads cur) tmp
    currentPoll := if c.currentPoll ≤ d.now then d.now + 10 * msNs else c.currentPoll
    tempPoll := if c.tempPoll ≤ d.now then d.now + 100 * msNs else c.tempPoll }) d

/-- What the next transfer carries: the READ of a clamp report first (R423), then a configuration record, then a READ, else
an OUTPUT command. DESIGN CHOICE, unsafe (log entry 83). -/
def nextKind (short : Bool) (c : Companion) : Nat × Nat × Nat :=
  match c.link with
  | .identifying => if short then (1, 0, 0) else (3, 8 * 0x13, 0)
  | .fault => (1, 0, 0)
  | _ =>
    let read := fun (r i : Nat) => if short then (1, 0, 0) else (3, 8 * r + i, 0)
    match c.reads, c.config with
    | (0x10, i) :: _, [] => read 0x10 i
    | (0x10, i) :: _, (r, j, v) :: _ => if short then (2, 8 * r + j, v) else read 0x10 i
    | _, (r, i, v) :: _ => (2, 8 * r + i, v)
    | (r, i) :: _, [] => read r i
    | [], [] => (1, 0, 0)

/-- Starts a transfer on a link; channels that it switches on begin their inrush windows at its end (R420, R426). DESIGN
CHOICE, unsafe (log entry 83). -/
def startTransfer (short : Bool) (n : Fin 4) (d0 : Dev) : Dev :=
  let d := match d0.load.comp[n].link with
    | .running | .supplyLow => duePolls n d0
    | _ => d0
  let c := d.load.comp[n]
  let (kind, sel, value) := nextKind short c
  let seq := (c.seq + 1) % 16
  let bytes := commandFrame kind seq (outMask d n) (inrushMask d n) sel value
  let stop := d.now + transferNs (kind = 3)
  let d1 := forEach (chansOf n) (fun k d =>
    onCh k (fun t => if t.state = .inrush && t.windowEnd.isNone then { t with windowEnd := some (stop + chCfg d k 5 * msNs) } else t) d) d
  emit (.transfer n.val bytes (kind = 3)) (onComp n (fun c => { c with
    seq := seq
    inFlight := some { read := if kind = 3 then some (sel / 8, sel % 8) else none, config := kind = 2, start := d.now, good := none }
    again := false, againShort := false, gapDue := none, retryAt := none }) d1)

/-- A link on which transfers run. -/
def LinkSt.active : LinkSt → Bool
  | .off | .wrongDevice => false
  | _ => true

/-- Asks for a transfer now, or as soon as LDn_SEL_N may fall again after the one in progress (R419, R423, R432). -/
def kick (short : Bool) (n : Fin 4) (d : Dev) : Dev :=
  let c := d.load.comp[n]
  if !c.link.active || c.link = .fault then d
  else if c.inFlight.isSome then onComp n (fun c => { c with again := true, againShort := c.againShort || short }) d
  else if d.now < c.freeAt then
    onComp n (fun c => { c with again := true, againShort := c.againShort || short, gapDue := some c.freeAt }) d
  else startTransfer short n d

/-- The transfer in progress has ended: LDn_SEL_N stays high for 400 ns, and two transfers start at least 7.0 µs apart (R419,
R423, R424, R432). -/
def endTransfer (n : Fin 4) (d : Dev) : Dev :=
  let c := d.load.comp[n]
  let free := max (d.now + 400) ((c.inFlight.map (·.start)).getD d.now + 7 * usNs)
  let d1 := onComp n (fun c => { c with inFlight := none, prevSeq := some c.seq, freeAt := free }) d
  match c.link with
  | .off | .wrongDevice => d1
  | .fault => onComp n (fun c => { c with retryAt := some (d.now + msNs) }) d1
  | _ =>
    if c.again then onComp n (fun c => { c with gapDue := some free }) d1
    else onComp n (fun c => { c with gapDue := some (d.now + 100 * usNs) }) d1

/-! ### Channel transitions (R426 to R438) -/

/-- Puts a channel into a state in which it carries no current and no window runs. -/
def leaveOn (st : LoadState) (t : LoadCh) : LoadCh := { t with state := st, windowEnd := none, extended := false }

/-- Switches a channel on with a fresh inrush window; while the link is not Running it waits for the restore (R434, R435). -/
def turnOn (k : Fin 32) (d : Dev) : Dev :=
  let st := if d.load.comp[compOf k].link = .running then LoadState.inrush else .supplyHold
  onCh k (fun t => { leaveOn st t with delayEnd := none, restartDue := false }) d

/-- Refills the retry counter (R428). DESIGN CHOICE, unsafe (log entry 82). -/
def refill (k : Fin 32) (d : Dev) : Dev := onCh k (fun t => { t with retries := chCfg d k 6 }) d

/-- A restart: on, or into Pulse gap, as the pulse level requires (R428, R429, R435). -/
def restart (k : Fin 32) (d : Dev) : Dev :=
  if !d.load.ch[k].command then refill k (onCh k (fun t => { leaveOn .off t with delayEnd := none, restartDue := false }) d)
  else if levelAllows d k then turnOn k d
  else onCh k (fun t => { leaveOn .pulseGap t with delayEnd := none, restartDue := false }) d

/-- A restart that falls due: it waits for the restore while the link is not Running (R434). -/
def restartDue (k : Fin 32) (d : Dev) : Dev :=
  if d.load.comp[compOf k].link = .running then restart k d
  else onCh k (fun t => { t with delayEnd := none, restartDue := true }) d

/-- Supply low, a link fault, a reset or a watchdog expiry moves the channels of a companion into Supply hold (R434, R435).
DESIGN CHOICE, unsafe (log entry 81). -/
def holdChannels (n : Fin 4) (d : Dev) : Dev :=
  forEach (chansOf n) (fun k d => onCh k (fun t => match t.state with
    | .inrush | .on | .pulseGap => leaveOn .supplyHold t
    | _ => t) d) d

/-- The refill time starts again (R428). -/
def startRefill (k : Fin 32) (d : Dev) : Dev :=
  onCh k (fun t => { t with refillAt := if t.command && !t.latched then some (d.now + chCfg d k 8 * sNs) else none }) d

/-- An over-current trip that a status reports, without a thermal shutdown of the channel (R428, R434, R438). -/
def tripChannel (low : Bool) (k : Fin 32) (d : Dev) : Dev :=
  let t := d.load.ch[k]
  if low || !t.state.isOn then d
  else if t.retries = 0 then raise evExhausted k.val (onCh k (leaveOn .tripped) d)
  else onCh k (fun t => { leaveOn .retryWait t with retries := t.retries - 1, delayEnd := some (d.now + chCfg d k 7 * msNs) }) d

/-- A thermal shutdown that a status reports (R429); a channel that is Locked stays so with its latch held. -/
def latchChannel (k : Fin 32) (d : Dev) : Dev :=
  onCh k (fun t =>
    if t.latched then t
    else
      let t1 : LoadCh := if t.state = .locked then t else leaveOn .thermalLatch t
      { t1 with latched := true, spentAtLatch := 1 ≤ t.retries, retries := t.retries - 1, delayEnd := none, refillAt := none
                warmClearSince := none, restartDue := false }) d

/-- Extends the open windows of a companion's channels that did not trip themselves (R427). -/
def extendWindows (n : Fin 4) (trips : Nat) (d : Dev) : Dev :=
  forEach (chansOf n) (fun k d =>
    let t := d.load.ch[k]
    if bitOf trips (k.val % 8) || t.extended || !t.state.isOn || t.windowEnd.isNone then d
    else raise evExtended k.val (bump (0x2C20 + k.val) 0x15 (bump 0x2C01 4 (onCh k (fun t => { t with
      state := .inrush, extended := true, windowEnd := t.windowEnd.map (· + compCfg d n 5 * msNs) }) d)))) d

/-! ### Starting and restarting a link (R424, R425) -/

/-- The configuration records of registers 0x00 to 0x03 (R422, R425). -/
def configRecords (d : Dev) (n : Fin 4) : List (Nat × Nat × Nat) :=
  (List.range 8).map (fun i => (0, i, chCfg d (chanOf n i) 3 / 10)) ++
    (List.range 8).map (fun i => (1, i, chCfg d (chanOf n i) 4 / 10)) ++ [(2, 0, compCfg d n 6), (3, 0, compCfg d n 7)]

/-- The link starts, or starts again, from its identification (R425). DESIGN CHOICE, unsafe (log entry 80). -/
def identify (keep : Byte) (n : Fin 4) (d : Dev) : Dev :=
  onComp n (fun c => { c with
    link := .identifying, bad := 0, config := [], reads := [], keep := keep, restoreAt := none }) d

/-- Register 0x13 has been read (R425). -/
def identified (n : Fin 4) (v : Nat) (d : Dev) : Dev :=
  let d1 := onComp n (fun c => { c with ident := BitVec.ofNat 32 v }) d
  if v / 65536 = 0x2208 then onComp n (fun c => { c with link := .configuring, config := configRecords d1 n, again := true }) d1
  else raise evWrongDevice n.val (onComp n (fun c => { c with link := .wrongDevice }) d1)

/-- The first slot of a staggered restore is 1 ms away when some channel needs one (R435). DESIGN CHOICE, unsafe (log entry
81). -/
def planRestore (n : Fin 4) (d : Dev) : Dev :=
  let some_ := (chansOf n).any (fun k => d.load.ch[k].state = .supplyHold || d.load.ch[k].restartDue)
  onComp n (fun c => { c with restoreAt := if some_ then some (d.now + msNs) else none }) d

/-- The link enters Running with the output state that the companion reports: a channel that it held on and that is
commanded on is kept without a new window; every other commanded channel waits for its slot (R425, R435, R437). -/
def enterRunning (n : Fin 4) (d : Dev) : Dev :=
  let c := d.load.comp[n]
  let d1 := forEach (chansOf n) (fun k d =>
    let t := d.load.ch[k]
    let waits := t.state = .supplyHold || (t.state = .off && t.command)
    if waits && t.command && bitOf c.outputs.toNat (k.val % 8) && bitOf c.keep.toNat (k.val % 8) && levelAllows d k then
      onCh k (fun t => leaveOn .on t) d
    else if waits then onCh k (leaveOn .supplyHold) d
    else d) d
  planRestore n (onComp n (fun c => { c with link := .running, keep := 0, currentPoll := d.now, tempPoll := d.now }) d1)

/-- A status or reply frame is bad (R424). DESIGN CHOICE, unsafe (log entry 80). -/
def badStatus (n : Fin 4) (d : Dev) : Dev :=
  let c := d.load.comp[n]
  let d1 := bump 0x2C01 7 (onComp n (fun c => { c with bad := c.bad + 1 }) d)
  if c.link ≠ .fault && 2 ≤ c.bad then
    raise evLinkFault n.val (bump 0x2C01 6 (holdChannels n (onComp n (fun c => { c with
      link := .fault, keep := c.outputs &&& BitVec.ofNat 8 (compCfg d n 7), restoreAt := none, gapDue := none }) d1)))
  else d1

/-- Trips and shutdowns of a good status frame (R427 to R429, R434, R439). -/
def statusChannels (n : Fin 4) (low : Bool) (trips therm warm : Nat) (d : Dev) : Dev :=
  let d1 := forEach (chansOf n) (fun k d =>
    let i := k.val % 8
    let d1 := if bitOf trips i then
        raise evTrip k.val (countEv 0x050 k.val 0 1 <| bump 0x2C01 1 (bump (0x2C20 + k.val) 0x13 (startRefill k d))) else d
    if bitOf therm i then latchChannel k (raise evThermal k.val (bump 0x2C01 2 (bump (0x2C20 + k.val) 0x14 d1)))
    else if bitOf trips i then tripChannel low k d1 else d1) d
  let d2 := onlyIf (trips ≠ 0 && !low) (extendWindows n trips) d1
  forEach (chansOf n) (fun k d => onCh k (fun t =>
    { t with warmClearSince := if bitOf warm (k.val % 8) then none else if t.warmClearSince.isSome then t.warmClearSince else some d.now }) d) d2

/-- The companion's supply as a good status reports it (R434, R435). DESIGN CHOICE, unsafe (log entry 80). -/
def statusSupply (n : Fin 4) (low : Bool) (d : Dev) : Dev :=
  let c := d.load.comp[n]
  let running := c.link = .running || c.link = .supplyLow
  if low then
    let d1 := onComp n (fun c => { c with lowWas := true, link := if running then .supplyLow else c.link, restoreAt := none }) d
    holdChannels n (onlyIf (!c.lowWas) (fun d => raise evSupplyLow n.val (bump 0x2C01 5 d)) d1)
  else if c.lowWas then
    let d1 := raise evSupplyRestored n.val (onComp n (fun c => { c with lowWas := false, link := if running then .running else c.link }) d)
    onlyIf (decide running) (planRestore n) d1
  else d

/-- A good status frame (R421, R423 to R435, R439). DESIGN CHOICE, unsafe (log entry 80). -/
def goodStatus (n : Fin 4) (b : Nat → Nat) (d0 : Dev) : Dev :=
  let flags := b 0
  let c := d0.load.comp[n]
  let d := onComp n (fun c => { c with
    flags := BitVec.ofNat 8 flags, outputs := BitVec.ofNat 8 (b 1), supplyMv := 200 * b 6, bad := 0
    reads := (if c.link = .running || c.link = .supplyLow || c.link = .configuring then
      ((List.range 8).filter (fun i => bitOf (b 5) i && !c.reads.contains (0x10, i))).map (fun i => (0x10, i)) else []) ++ c.reads
    config := if (c.inFlight.map (·.config)).getD false then c.config.drop 1 else c.config }) d0
  let windows := forEach (chansOf n) (fun k d => onCh k (fun t => if t.state = .on then { t with windowEnd := none } else t) d)
  let d1 := statusSupply n (bitOf flags 6) (windows (statusChannels n (bitOf flags 6) (b 2) (b 3) (b 4) d))
  if bitOf flags 5 || bitOf flags 4 then
    let d2 := raise evCompReset n.val (bump 0x2C01 9 d1)
    if c.link = .identifying then d2 else onComp n (fun c => { c with again := true }) (identify (BitVec.ofNat 8 (b 1)) n (holdChannels n d2))
  else match c.link with
    | .fault => onComp n (fun c => { c with again := true }) (identify (BitVec.ofNat 8 (b 1)) n d1)
    | .configuring =>
      if !c.config.isEmpty then onComp n (fun c => { c with again := true }) d1
      else if bitOf flags 6 then
        holdChannels n (onComp n (fun c => { c with link := .supplyLow, restoreAt := none }) (enterRunning n d1))
      else enterRunning n d1
    | _ => d1

/-- STATUS_FRAME (R421 to R424). -/
def execStatusFrame (n : Fin 4) (bytes : Vector Byte 8) (s : State) : Result :=
  s.does fun d =>
    match d.load.comp[n].inFlight with
    | none => d
    | some x =>
      if x.good.isSome then d
      else
        let d1 := arrive (x.start + transferNs false) d
        let c := d1.load.comp[n]
        let good := crcKind 1 (bytes.toList.take 7) = bytes[7].toNat &&
          (c.prevSeq.isNone || c.prevSeq = some (bytes[0].toNat % 16))
        let d2 := onComp n (fun c => { c with inFlight := some { x with good := some good } }) d1
        let d3 := if good then goodStatus n (fun i => (bytes.toList[i]?.getD 0).toNat) d2 else badStatus n d2
        if x.read.isSome then d3 else endTransfer n d3

/-- Sum of the clamp reports of the last 100 bins, µJ (R430). DESIGN CHOICE, unsafe (log entry 82). -/
def clampSum (d : Dev) (k : Fin 32) : Nat :=
  ((d.load.ch[k].bins.filter (fun b => d.now / (100 * msNs) < b.1 + 100)).map (·.2)).sum

/-- A clamp report (R430). DESIGN CHOICE, unsafe (log entry 82). -/
def clampReport (k : Fin 32) (uj : Nat) (d : Dev) : Dev :=
  let bin := d.now / (100 * msNs)
  let d1 := onCh k (fun t => { t with bins := match t.bins.find? (fun b => b.1 = bin) with
    | some b => t.bins.erase b ++ [(bin, b.2 + uj)]
    | none => t.bins ++ [(bin, uj)] }) d
  if d1.load.ch[k].state ≠ .locked && 1000 * chCfg d1 k 9 ≤ clampSum d1 k then
    kick false (compOf k) (raise evClampSpent k.val (bump 0x2C01 3 (onCh k (fun t =>
      { leaveOn .locked t with delayEnd := none, restartDue := false }) d1)))
  else d1

/-- What a READ returned (R422, R425, R430). -/
def readValue (n : Fin 4) (reg i v : Nat) (d : Dev) : Dev :=
  let k := chanOf n i
  match reg with
  | 0x10 => clampReport k v d
  | 0x11 => onCh k (fun t => { t with current := v * 10 % 65536 }) d
  | 0x12 => onCh k (fun t => { t with temperature := signedOf 32 v }) d
  | 0x13 => if d.load.comp[n].link = .identifying then identified n v d else d
  | _ => d

/-- READ_REPLY (R421, R424). -/
def execReadReply (n : Fin 4) (bytes : Vector Byte 8) (s : State) : Result :=
  s.does fun d =>
    match d.load.comp[n].inFlight.bind (fun x => x.read.map (fun r => (x, r))) with
    | none => d
    | some (x, (reg, i)) =>
      if x.good.isNone then d
      else
        let d1 := arrive (x.start + transferNs true) d
        let bs := bytes.toList
        let matching := crcKind 1 (bs.take 7) = bytes[7].toNat && bytes[0].toNat = 8 * reg + i
        if x.good = some true && matching then
          endTransfer n (readValue n reg i (beNat (slice bs 1 4))
            (onComp n (fun c => { c with reads := c.reads.erase (reg, i) }) d1))
        else endTransfer n d1

/-- COMPANION_FAULT_LINE (R423). -/
def execCompanionFaultLine (n : Fin 4) (s : State) : Result := s.does (kick true n)

/-- TRANSFER_GAP (R423). -/
def execTransferGap (n : Fin 4) (s : State) : Result :=
  s.does fun d =>
    match d.load.comp[n].gapDue with
    | none => d
    | some t => startTransfer d.load.comp[n].againShort n (arrive t d)

/-- LINK_RETRY (R424). DESIGN CHOICE, unsafe (log entry 80). -/
def execLinkRetry (n : Fin 4) (s : State) : Result :=
  s.does fun d =>
    match d.load.comp[n].retryAt with
    | none => d
    | some t => startTransfer true n (arrive t d)

/-- INRUSH_WINDOW_END: the bit is cleared by the transfer that follows; until its status has come, a neighbour's trip may
still extend the window (R426, R439). -/
def execInrushWindowEnd (k : Fin 32) (s : State) : Result :=
  s.does fun d =>
    match d.load.ch[k].state, d.load.ch[k].windowEnd with
    | .inrush, some t => kick false (compOf k) (onCh k (fun x => { x with state := .on }) (arrive t d))
    | _, _ => d

/-- RETRY_DELAY_END (R428). -/
def execRetryDelayEnd (k : Fin 32) (s : State) : Result :=
  s.does fun d =>
    match d.load.ch[k].state, d.load.ch[k].delayEnd with
    | .retryWait, some t => kick false (compOf k) (restartDue k (arrive t d))
    | _, _ => d

/-- RETRY_REFILL (R428). -/
def execRetryRefill (k : Fin 32) (s : State) : Result :=
  s.does fun d =>
    match d.load.ch[k].refillAt with
    | none => d
    | some t => refill k (onCh k (fun x => { x with refillAt := none }) (arrive t d))

/-- The latch of a channel clears (R429, R438). -/
def releaseLatch (k : Fin 32) (d : Dev) : Dev :=
  let t := d.load.ch[k]
  let d1 := startRefill k (raise evLatchReleased k.val (onCh k (fun t => { t with latched := false }) d))
  if t.state ≠ .thermalLatch then d1
  else if !t.command then refill k (onCh k (leaveOn .off) d1)
  else if t.spentAtLatch then restartDue k d1
  else onCh k (leaveOn .tripped) d1

/-- THERMAL_LATCH_RELEASE (R429). -/
def execThermalLatchRelease (k : Fin 32) (s : State) : Result :=
  s.does fun d =>
    match d.load.ch[k].latched, d.load.ch[k].warmClearSince with
    | true, some t => kick false (compOf k) (releaseLatch k (arrive (t + 100 * msNs) d))
    | _, _ => d

/-- CLAMP_BIN_EXPIRY: the oldest bin leaves the window (R430). -/
def execClampBinExpiry (k : Fin 32) (s : State) : Result :=
  s.does fun d =>
    match d.load.ch[k].bins with
    | [] => d
    | (b, _) :: _ => onCh k (fun t => { t with bins := t.bins.drop 1 }) (arrive ((b + 100) * (100 * msNs)) d)

/-- The level that a pulse edge leaves takes effect on a channel (R438). DESIGN CHOICE, unsafe (log entry 83). -/
def edgeEffect (k : Fin 32) (d : Dev) : Dev :=
  match d.load.ch[k].state with
  | .pulseGap => if levelAllows d k then turnOn k d else d
  | .inrush | .on => if levelAllows d k then d else onCh k (leaveOn .pulseGap) d
  | _ => d

/-- The level of a channel after the edge at `t`, taken as the level at the present moment. DESIGN CHOICE, unsafe (log entry
83). -/
def edgeAt (t : Nat) (k : Fin 32) (d : Dev) : Dev :=
  let up := pulseLevel d k t
  let d1 := onCh k (fun x => { x with edge := t }) d
  match d.load.ch[k].state with
  | .pulseGap => if up then turnOn k d1 else d1
  | .inrush | .on => if up then d1 else onCh k (leaveOn .pulseGap) d1
  | _ => d1

/-- PULSE_EDGE: the transfer ends at the edge; edges of the companion less than 7.0 µs later share it (R432). DESIGN CHOICE,
unsafe (log entry 83). -/
def execPulseEdge (k : Fin 32) (s : State) : Result :=
  s.does fun d =>
    if !(pulsed d k && d.load.ch[k].command) then d
    else
      let t := nextEdge d k d.load.ch[k].edge
      let d1 := arriveTrain (t - transferNs false) d
      let shared := (chansOf (compOf k)).filterMap (fun j =>
        if pulsed d1 j && d1.load.ch[j].command then
          let e := nextEdge d1 j d1.load.ch[j].edge
          if e < t + 7 * usNs then some (j, e) else none
        else none)
      let d2 := forEach shared (fun (j, e) d => edgeAt e j (onlyIf (t < e) (bump 0x2C01 8) d)) d1
      kick true (compOf k) d2

/-- RESTORE_SLOT: the next channel in Supply hold, and after those the restarts that fell due (R435). DESIGN CHOICE, unsafe
(log entry 81). -/
def execRestoreSlot (n : Fin 4) (s : State) : Result :=
  s.does fun d =>
    match d.load.comp[n].restoreAt with
    | none => d
    | some t =>
      let d1 := arrive t d
      let held := (chansOf n).filter (fun k => d1.load.ch[k].state = .supplyHold)
      let due := (chansOf n).filter (fun k => d1.load.ch[k].restartDue)
      match held ++ due with
      | [] => onComp n (fun c => { c with restoreAt := none }) d1
      | k :: rest =>
        kick false n (onComp n (fun c => { c with restoreAt := if rest.isEmpty then none else some (d1.now + msNs) }) (restart k d1))

/-! ### Writes by the dictionary (R430, R440) -/

/-- A write of 0x2C20 + k:01 is refused (R440). -/
def commandRefused (d : Dev) (k : Fin 32) (v : Bool) : Bool :=
  let t := d.load.ch[k]
  let l := d.load.comp[compOf k].link
  (v && (t.state = .tripped || t.state = .locked)) || l = .off || l = .wrongDevice

/-- The command of a channel is written (R428, R438). DESIGN CHOICE, unsafe (log entry 81). -/
def commandLoad (k : Fin 32) (v : Bool) (d : Dev) : Dev :=
  let t := d.load.ch[k]
  let d1 := setReg (0x2C20 + k.val) 1 (if v then 1 else 0) (onCh k (fun t => { t with command := v }) d)
  if v then
    let d2 := if t.command then d1 else startRefill k (onCh k (fun t => { t with edge := trainTime d }) d1)
    match t.state with
    | .off => kick false (compOf k) (if pulsed d2 k then onCh k (leaveOn .pulseGap) d2 else turnOn k d2)
    | _ => d2
  else
    let d2 := onCh k (fun t => { t with refillAt := none }) d1
    match t.state with
    | .inrush | .on | .pulseGap | .retryWait | .tripped =>
      kick false (compOf k) (onlyIf (!t.latched) (refill k) (onCh k (fun t => { leaveOn .off t with delayEnd := none, restartDue := false }) d2))
    | _ => onlyIf (!t.latched) (refill k) d2

/-- A write of 0x2C10 + n:0A is refused as a whole (R440). -/
def unlockRefused (d : Dev) (n : Fin 4) (v : Nat) : Bool :=
  (List.range 8).any (fun i => bitOf v i && d.load.ch[chanOf n i].state ≠ .locked)

/-- Unlocks the channels of a companion (R430, R438). DESIGN CHOICE, unsafe (log entry 82). -/
def unlockLoads (n : Fin 4) (v : Nat) (d : Dev) : Dev :=
  forEach ((List.range 8).filter (bitOf v)) (fun i d =>
    let k := chanOf n i
    raise evUnlocked k.val (setReg (0x2C20 + k.val) 1 0 (onCh k (fun t =>
      { leaveOn (if t.latched then .thermalLatch else .off) t with bins := [], command := false, refillAt := none, spentAtLatch := false }) d))) d

/-! ### Apply points, sleep and steps of train time (R425, R433, R437) -/

/-- A companion link follows its enable (R425); a link that is disabled makes no transfer and its channels are Off. DESIGN
CHOICE, unsafe (log entry 80). -/
def settleLink (n : Fin 4) (d : Dev) : Dev :=
  let c := d.load.comp[n]
  if compCfg d n 1 ≠ 0 then
    if c.link = .off then kick false n (identify c.keep n d) else d
  else if c.link = .off then d
  else forEach (chansOf n) (fun k d => onCh k (fun t => { leaveOn .off t with delayEnd := none, restartDue := false }) d)
    (onComp n (fun _ => Companion.reset) d)

/-- Pulse levels are worked out again; the outputs whose level has changed follow in one transfer per link (R433). -/
def rework (was : Dev) (d : Dev) : Dev :=
  let ks := (List.finRange 32).filter (fun k => d.load.ch[k].command)
  let changed := ks.filter (fun k =>
    (pulsed was k && pulseLevel was k was.load.ch[k].edge) ≠ (pulsed d k && pulseLevel d k (trainTime d)) || pulsed was k ≠ pulsed d k)
  let d1 := forEach ks (fun k d => onCh k (fun t => { t with edge := trainTime d }) d) (forEach changed edgeEffect d)
  forEach ((List.finRange 4).filter (fun n => changed.any (fun k => compOf k = n && d1.load.ch[k].state ≠ d.load.ch[k].state)))
    (kick false) d1

/-- A step of train time, with what it does to the pulse generators (R188, R433). -/
def stepAll (amount : Int) (d : Dev) : Dev := rework d (stepTime amount d)

/-- The load channels at an apply point. -/
def applyLoads (old : Dev) (d : Dev) : Dev :=
  let d1 := forEach (List.finRange 4) (fun n d =>
    let changed := (configRecords d n).filter (fun x => !(configRecords old n).contains x)
    let d1 := match d.load.comp[n].link with
      | .off | .wrongDevice | .identifying | .fault => d
      | _ => onComp n (fun c => { c with config := c.config.filter (fun x => !changed.any (fun y => y.1 = x.1 && y.2.1 = x.2.1)) ++ changed }) d
    settleLink n d1) d
  rework old d1

/-- Commit epoch 1 has applied: every command takes the value of 0x2C20 + k:02 and the links start (R425, R437). -/
def loadsStart (d : Dev) : Dev :=
  let d1 := forEach (List.finRange 32) (fun k d =>
    setReg (0x2C20 + k.val) 1 (chCfg d k 2) (onCh k (fun _ => { LoadCh.reset with
      command := chCfg d k 2 ≠ 0, retries := chCfg d k 6, edge := trainTime d
      refillAt := if chCfg d k 2 ≠ 0 then some (d.now + chCfg d k 8 * sNs) else none }) d)) d
  forEach (List.finRange 4) settleLink d1

/-- The quiesce step of R400: each running companion is sent a SLEEP command; at wake every channel is Off (R437). -/
def loadsSleep (d : Dev) : Dev :=
  let d1 := forEach (List.finRange 4) (fun n d =>
    let c := d.load.comp[n]
    let runs := c.link = .running || c.link = .supplyLow
    let d1 := if runs then emit (.transfer n.val (commandFrame 4 ((c.seq + 1) % 16) (compCfg d n 8) 0 0 0) false) d else d
    onComp n (fun _ => { Companion.reset with keep := if runs then BitVec.ofNat 8 (compCfg d n 8) else 0 }) d1) d
  forEach (List.finRange 32) (fun k d => onCh k (fun _ => LoadCh.reset) d) d1

/-- The computed entries of chapter 14 (R441 to R443). -/
def loadsRead (d : Dev) (idx sub : Nat) : Option Nat :=
  let mask := fun (f : LoadCh → Bool) => ((List.finRange 32).map (fun k => if f d.load.ch[k] then 2 ^ k.val else 0)).sum
  if idx = 0x2C00 then
    match sub with
    | 1 => some ((List.finRange 4).map (fun n => if d.load.comp[n].link = .running then 2 ^ n.val else 0)).sum
    | 2 => some ((List.finRange 4).map (fun n => d.load.comp[n].outputs.toNat * 2 ^ (8 * n.val))).sum
    | 3 => some (mask (fun t => t.state = .tripped || t.state = .thermalLatch || t.state = .locked))
    | 4 => some (mask (fun t => t.state = .locked))
    | _ => none
  else if 0x2C10 ≤ idx && idx ≤ 0x2C13 then
    let c := d.load.comp[Fin.ofNat 4 (idx - 0x2C10)]
    match sub with
    | 2 => some c.link.code
    | 3 => some c.ident.toNat
    | 4 => some c.supplyMv
    | 9 => some c.flags.toNat
    | _ => none
  else if 0x2C20 ≤ idx && idx ≤ 0x2C3F then
    let k := Fin.ofNat 32 (idx - 0x2C20)
    let t := d.load.ch[k]
    match sub with
    | 0x0E => some t.state.code
    | 0x0F => some t.retries
    | 0x10 => some (min 0xFFFFFFFF (clampSum d k))
    | 0x11 => some (if t.state.isOn then t.current else 0)
    | 0x12 => some (unsignedOf 16 t.temperature)
    | _ => none
  else none

end Sys2Proof.Machine
end

