-- ==== Sys2Proof/Machine/Recorder.lean ====
section
/-! DEFINITION. The Sediment event recorder: its records as bytes, its memories, its states and the meanings of chapter 12. -/

namespace Sys2Proof.Machine

/-! ### Events of R392 -/

/-- Log frozen. -/
def evFrozen : Ev := ⟨10, 2, 1, 0⟩
/-- Log unfrozen. -/
def evUnfrozen : Ev := ⟨10, 2, 1, 1⟩
/-- Write-back completed. -/
def evWriteBack : Ev := ⟨10, 3, 2, 0⟩
/-- Freeze ended by limit. -/
def evFreezeLimit : Ev := ⟨10, 4, 3, 0⟩
/-- Medium returned. -/
def evMediumReturned : Ev := ⟨10, 4, 4, 0⟩
/-- Log formatted. -/
def evFormatted : Ev := ⟨10, 4, 5, 0⟩
/-- Holding overflow. -/
def evHoldingOverflow : Ev := ⟨10, 5, 6, 0⟩
/-- Previous shutdown. -/
def evPrevShutdown : Ev := ⟨10, 5, 7, 0⟩
/-- Log medium failed. -/
def evMediumFailed : Ev := ⟨10, 7, 9, 0⟩

/-! ### Records as bytes -/

/-- Appends the CRC-32 of the bytes before it. DESIGN CHOICE, safe (log entry 76). -/
def withCrc (bs : List Byte) : List Byte := bs ++ leBytes 4 (crc32 bs).toNat

/-- Lengthens bytes with zeros to `n`. -/
def padTo (n : Nat) (bs : List Byte) : List Byte := bs ++ List.replicate (n - bs.length) 0

/-- Bit `i` set when `b`. -/
def bitAt (i : Nat) (b : Bool) : Nat := if b then 2 ^ i else 0

/-- One entry of 64 bytes (R368). DESIGN CHOICE, safe (log entry 76). -/
def Entry.pack (e : Entry) : List Byte :=
  withCrc (leBytes 4 e.seq ++
    leBytes 1 (e.sev + bitAt 3 e.viaHolding + bitAt 4 e.viaRing + bitAt 5 e.restored + bitAt 6 e.unsure) ++
    leBytes 1 e.src ++ leBytes 2 e.code ++ leBytes 8 e.time ++ leBytes 2 e.epoch ++ leBytes 1 (e.stepGen % 8) ++
    leBytes 1 e.inst ++ leBytes 4 e.boot ++ leBytes 4 e.fmt ++ padTo 32 (e.payload.take 32))

/-- The later of two sequence numbers, 0 standing for none (R369). -/
def seqMax (a b : Nat) : Nat := if a = 0 then b else if b = 0 then a else if seqLater b a then b else a

/-- The earlier of two sequence numbers, 0 standing for none (R369). -/
def seqMin (a b : Nat) : Nat := if a = 0 then b else if b = 0 then a else if seqLater a b then b else a

/-- The latest sequence number of a memory. -/
def latestSeq (m : List (Nat × Entry)) : Nat := m.foldl (fun a x => seqMax a x.2.seq) 0

/-- The oldest sequence number of a memory. -/
def oldestSeq (m : List (Nat × Entry)) : Nat := m.foldl (fun a x => seqMin a x.2.seq) 0

/-- The summary record of 128 bytes (R373). -/
def summaryBytes (r : RecS) : List Byte :=
  if r.summary.valid then
    withCrc (padTo 124 (leBytes 4 0x53444D54 ++ leBytes 4 r.summary.fmt ++ leBytes 4 r.summary.slots ++
      leBytes 4 r.summary.generation ++ leBytes 4 r.summary.lastWritten ++ leBytes 4 (oldestSeq r.log) ++
      r.summary.drops.toList.flatMap (leBytes 4) ++ leBytes 4 r.summary.holdingDrops ++
      leBytes 4 r.summary.ringDrops ++ leBytes 4 r.summary.failures))
  else []

/-- A last word of 256 bytes (R383). -/
def LastWord.pack (w : LastWord) : List Byte :=
  withCrc (padTo 252 (leBytes 4 0x4452574C ++ leBytes 4 w.generation ++ leBytes 1 w.cause ++ leBytes 1 w.recState ++
    leBytes 2 w.epoch ++ leBytes 8 w.time ++ leBytes 1 w.node ++ leBytes 1 w.profile ++ leBytes 1 w.timeState ++
    leBytes 1 0 ++ leBytes 4 w.lastSeq ++ leBytes 4 w.lastWritten ++ leBytes 4 w.notInLog ++ leBytes 4 w.boot ++
    w.drops.toList.flatMap (leBytes 4) ++ leBytes 2 w.vddio ++ leBytes 2 w.vcore ++ leBytes 2 (unsignedOf 16 w.temp)))

/-- The store header of 128 bytes (R381). -/
def tarnHeader (t : Tarn) : List Byte :=
  withCrc (padTo 124 (leBytes 4 0x4E524154 ++ leBytes 4 t.generation ++ leBytes 4 t.bootCount ++
    leBytes 4 t.enteredLastWord ++ leBytes 1 t.newestSlot ++ leBytes 1 0 ++ leBytes 2 t.area.length ++
    leBytes 4 t.writes))

/-- Writes the older header copy with a raised generation, in two block writes (R381, R384). -/
def Tarn.writeHeader (t : Tarn) : Tarn :=
  let t' : Tarn := { t with generation := t.generation + 1, writes := t.writes + 2 }
  if t'.generation % 2 = 1 then { t' with header0 := tarnHeader t' } else { t' with header1 := tarnHeader t' }

/-- The 64 bytes of a slot; an empty slot reads as zeros (R376). -/
def slotBytes (m : List (Nat × Entry)) (k : Nat) : List Byte :=
  match m.find? (·.1 = k) with
  | some (_, e) => e.pack
  | none => List.replicate 64 0

/-- The Tarn store as 0x2A03:04 reads it (R381). DESIGN CHOICE, safe (log entry 76). -/
def tarnBytes (t : Tarn) : List Byte :=
  padTo 128 t.header0 ++ padTo 128 t.header1 ++
    t.words.toList.flatMap (fun w => match w with | some w => w.pack | none => List.replicate 256 0) ++
    (List.range tarnCap).flatMap (slotBytes t.area)

/-- Code of 0x2A00:01 (R386). -/
def RecState.code : RecState → Nat
  | .off => 0
  | .scanning => 1
  | .logging => 2
  | .frozen => 3
  | .ring => 4
  | .writeBack => 5
  | .closed => 6

/-! ### The memories -/

/-- Entries in sequence order (R369). -/
def seqInsert (e : Entry) : List Entry → List Entry
  | [] => [e]
  | x :: xs => if seqLater x.seq e.seq then e :: x :: xs else x :: seqInsert e xs

/-- Sorts entries by sequence number. -/
def seqSort (l : List Entry) : List Entry := l.foldr seqInsert []

/-- Writes one entry into the log under R375. -/
def logOne (e : Entry) (d : Dev) : Dev :=
  match slotAccept d.recd.summary.slots e d.recd.log with
  | some l => bump 0x2A06 0x10 { d with recd := { d.recd with
      log := l, summary := { d.recd.summary with lastWritten := seqMax d.recd.summary.lastWritten e.seq } } }
  | none => { d with recd := { d.recd with summary := { d.recd.summary with
      drops := vmod d.recd.summary.drops (Fin.ofNat 8 e.sev) (fun n => min 0xFFFFFFFF (n + 1)) } } }

/-- Writes entries into the log and updates the summary record's older copy (R373). -/
def logWrite (es : List Entry) (d : Dev) : Dev :=
  let d1 := forEach es logOne d
  if es.isEmpty then d1
  else { d1 with recd := { d1.recd with
    summary := { d1.recd.summary with generation := d1.recd.summary.generation + 1 } } }

/-- Write-back has nothing left: Logging (R380, R386). DESIGN CHOICE, unsafe (log entry 73). -/
def finishWriteBack (d : Dev) : Dev :=
  let d1 : Dev := { d with recd := { d.recd with state := .logging, writeDeadline := none, afterRing := false } }
  if d.recd.afterRing then raise evWriteBack noInst (bump 0x2A06 0x0D d1) else d1

/-- The holding-overflow entry, once the holding buffer has been written (R378). -/
def holdingOverflow (d : Dev) : Dev :=
  let total := d.recd.holdingDrops.toList.sum
  if total = 0 then d
  else raiseP evHoldingOverflow noInst (d.recd.holdingDrops.toList.flatMap (leBytes 4))
    { d with recd := { d.recd with
      holdingDrops := Vector.replicate 8 0
      summary := { d.recd.summary with holdingDrops := min 0xFFFFFFFF (d.recd.summary.holdingDrops + total) } } }

/-- The summary takes the drops of the time without the medium (R387). -/
def summaryDrops (d : Dev) : Dev :=
  { d with recd := { d.recd with
    dropsDue := 0
    summary := { d.recd.summary with ringDrops := min 0xFFFFFFFF (d.recd.summary.ringDrops + d.recd.dropsDue) } } }

/-- Write-back goes on while the holding buffer or the ring holds entries, and ends otherwise. -/
def checkWriteBack (d0 : Dev) : Dev :=
  let d := summaryDrops d0
  let d1 := if d.recd.holding.isEmpty then holdingOverflow d else d
  if d1.recd.holding.isEmpty && d1.recd.ring.isEmpty then finishWriteBack d1
  else { d1 with recd := { d1.recd with writeDeadline := some (d1.now + 250 * msNs) } }

/-- Enters Write-back (R378, R380, R385). DESIGN CHOICE, unsafe (log entry 73). -/
def enterWriteBack (afterRing : Bool) (d : Dev) : Dev :=
  checkWriteBack { d with recd := { d.recd with state := .writeBack, afterRing := afterRing } }

/-- The entries that the next write takes: 64 of the holding buffer in sequence order, then of the ring (R378, R380). DESIGN
CHOICE, unsafe (log entry 73). -/
def writeBackChunk (r : RecS) : List Entry :=
  ((seqSort (r.holding.map (·.2))) ++ (seqSort (r.ring.map (·.2)))).take 64

/-- Removes entries from the holding buffer and the ring by sequence number. -/
def dropWritten (es : List Entry) (r : RecS) : RecS :=
  let keep := fun (x : Nat × Entry) => !es.any (fun e => e.seq = x.2.seq)
  { r with holding := r.holding.filter keep, ring := r.ring.filter keep }

/-- Entries that wait in the ring without bit [4] join staging as it empties (R374). -/
def refillStaging (d : Dev) : Dev :=
  let room := stagingCap - (d.recd.staging.length + d.recd.inflight.length)
  let take := (seqSort (d.recd.ring.map (·.2))).take room
  if take.isEmpty then d
  else { d with recd := { d.recd with
    staging := d.recd.staging ++ take.map (fun e => (e, d.now))
    ring := d.recd.ring.filter (fun x => !take.any (fun e => e.seq = x.2.seq)) } }

/-- Starts the next write when 64 entries or a serious one are staged (R374). -/
def flushIfDue (d : Dev) : Dev :=
  if 64 ≤ d.recd.staging.length || d.recd.staging.any (fun x => 6 ≤ x.1.sev) then startFlush d else d

/-- Takes the staged entries and those of a write in progress out of the buffers. -/
def takeStaged (d : Dev) : List Entry × Dev :=
  (d.recd.inflight ++ d.recd.staging.map (·.1),
   { d with recd := { d.recd with inflight := [], staging := [], writeDeadline := none } })

/-! ### Freeze (R377, R378) -/

/-- Freezes the log: staged entries move to the holding buffer with bit [3] set (R377). DESIGN CHOICE, unsafe (log entry 75).
-/
def freezeLog (d : Dev) : Dev :=
  let (es, d1) := takeStaged d
  let d2 : Dev := { d1 with recd := { d1.recd with
    state := .frozen, freezeEnd := some (d1.now + cfg d1 0x2A02 2 * sNs) } }
  raise evFrozen noInst (forEach es (fun e => holdingAccept { e with viaHolding := true }) d2)

/-- Ends a freeze and starts write-back (R378). DESIGN CHOICE, unsafe (log entry 75). -/
def unfreezeLog (d : Dev) : Dev :=
  if d.recd.state = .frozen then
    let d1 : Dev := { d with recd := { d.recd with freezeEnd := none, state := .writeBack, afterRing := false } }
    checkWriteBack (raise evUnfrozen noInst d1)
  else d

/-! ### Medium failure and return (R379, R380) -/

/-- Byte 19 of the alarm (R379). -/
def MediumCause.code : MediumCause → Nat
  | .error => 1
  | .timeout => 2
  | .readBack => 3
  | .absent => 4
  | .ddr => 5

/-- Gives the entries that waited for the scan their sequence numbers and places them in the ring (R385). -/
def numberEarly (d : Dev) : Dev :=
  forEach d.recd.early placeEntry { d with recd := { d.recd with early := [] } }

/-- The medium fails: the freeze ends, staged and held entries move to the ring with bit [4] set, Ring, alarm (R379). -/
def mediumFails (cause : MediumCause) (d : Dev) : Dev :=
  let d0 : Dev := { d with recd := { d.recd with mediumFailed := true, ddrFailed := d.recd.ddrFailed || cause = .ddr } }
  match d0.recd.state with
  | .off | .ring | .closed => d0
  | _ =>
    let (es, d1) := takeStaged d0
    let held := seqSort (es ++ d1.recd.holding.map (·.2))
    let d2 : Dev := { d1 with recd := { d1.recd with
      state := .ring, freezeEnd := none, holding := [], afterRing := false
      ring := d1.recd.ring.map (fun x => (x.1, { x.2 with viaRing := true }))
      retryAt := some (d1.now + cfg d1 0x2A01 6 * sNs)
      summary := { d1.recd.summary with failures := d1.recd.summary.failures + 1 } } }
    let d3 := numberEarly (forEach held (fun e => ringAccept { e with viaRing := true }) d2)
    raise evMediumFailed (MediumCause.code cause) (bump 0x2A06 0x0C d3)

/-! ### Closing (R383, R384, R387) -/

/-- The last word at a cause (R383). -/
def lastWordNow (cause : Nat) (d : Dev) : LastWord :=
  { generation := (d.recd.tarn.words.toList.filterMap id).foldl (fun g w => max g w.generation) 0 + 1
    cause := cause, recState := d.recd.state.code, epoch := d.inaug.now.epoch, time := trainTime d,
    node := d.inaug.now.node, profile := d.node.profile, timeState := d.time.state.code, lastSeq := d.recd.lastSeq,
    lastWritten := d.recd.summary.lastWritten,
    notInLog := d.recd.staging.length + d.recd.inflight.length + d.recd.holding.length + d.recd.ring.length,
    boot := d.recd.tarn.bootCount, drops := d.recd.summary.drops, vddio := d.node.vddio, vcore := d.node.vcore,
    temp := d.node.junction }

/-- Writes a last word into the slot after the newest, in four block writes, and the header (R384). -/
def writeLastWord (w : LastWord) (t : Tarn) : Tarn :=
  let k := if t.words.toList.all (·.isNone) then 0 else (t.newestSlot + 1) % 4
  Tarn.writeHeader { t with words := t.words.set! k (some w), newestSlot := k, writes := t.writes + 4 }

/-- The recorder closes (R384): last word, then the staged and held entries to a healthy log. -/
def closeRecorder (cause : Nat) (d : Dev) : Dev :=
  match d.recd.state with
  | .off | .closed => d
  | st =>
    let w := lastWordNow cause d
    let (es, d1) := takeStaged { d with recd := { d.recd with
      state := .closed, freezeEnd := none, tarn := writeLastWord w d.recd.tarn } }
    if d1.recd.mediumFailed || st = .scanning then
      forEach es (fun e => ringAccept { e with viaRing := true }) d1
    else if st = .frozen then
      let d2 := logWrite (seqSort (d1.recd.holding.map (·.2))) { d1 with recd := { d1.recd with holding := [] } }
      holdingOverflow d2
    else logWrite es d1

/-- The warning clears without a reset: Write-back, or Ring when the medium has failed (R384, R386). -/
def reopenRecorder (d : Dev) : Dev :=
  if d.recd.state = .closed then
    if d.recd.mediumFailed then { d with recd := { d.recd with
      state := .ring, retryAt := some (d.now + cfg d 0x2A01 6 * sNs) } }
    else enterWriteBack false d
  else d

/-- Reset of island 34, or entry to Standby or Sleep after closing: Off, the on-chip memories lost (R386); events that
island 40 raised while the recorder was Off wait for the boot (R504). -/
def recorderOff (d : Dev) : Dev :=
  { d with recd := { d.recd with
    state := .off, staging := [], inflight := [], holding := [], holdingDrops := Vector.replicate 8 0, ring := [],
    early := if d.recd.state = .off then d.recd.early else []
    dropsDue := if d.recd.state = .off then d.recd.dropsDue else 0, tarnMissed := false, freezeEnd := none, retryAt := none, afterRing := false, writeDeadline := none, tarnCopies := [] } }

/-- Island 34 leaves reset: Scanning, and the boot count rises (R381, R385). -/
def recorderBoot (d : Dev) : Dev :=
  { d with recd := { d.recd with
    state := .scanning, mediumFailed := false,
    tarn := Tarn.writeHeader { d.recd.tarn with bootCount := d.recd.tarn.bootCount + 1 } } }

/-- Slots of a region of `mib` MiB (R372). -/
def slotsOf (mib : Nat) : Nat := (mib * 1048576 - 4096) / 64

/-- Formats the log region: a new format identifier from the random source; valid drop counts are carried over (R385). DESIGN
CHOICE, unsafe (log entry 74). -/
def formatLog (d : Dev) : Dev :=
  let s := d.recd.summary
  { draw d with recd := { d.recd with
      log := []
      summary := { s with
        valid := true, fmt := Config.freeNat d.fresh % 2 ^ 32, slots := slotsOf (cfg d 0x2A01 1),
        generation := s.generation + 1, lastWritten := 0,
        drops := if s.valid then s.drops else Vector.replicate 8 0,
        holdingDrops := if s.valid then s.holdingDrops else 0,
        ringDrops := if s.valid then s.ringDrops else 0,
        failures := if s.valid then s.failures else 0 } } }

/-- The newest last word (R385). -/
def newestWord (t : Tarn) : Option LastWord :=
  t.words.toList.foldl (fun acc w => match acc, w with
    | none, w => w
    | some a, some b => if a.generation < b.generation then some b else some a
    | some a, none => some a) none

/-- The last sequence number used before this boot: the latest of the log, the entry area and the last word (R385). DESIGN
CHOICE, unsafe (log entry 74). -/
def seqAtBoot (r : RecS) : Nat :=
  seqMax (seqMax (latestSeq r.log) (latestSeq r.tarn.area)) (match newestWord r.tarn with | some w => w.lastSeq | none => 0)

/-- The previous-shutdown entry, when the newest last word was not entered before (R385). DESIGN CHOICE, unsafe (log entry
74). -/
def previousShutdown (d : Dev) : Dev :=
  match newestWord d.recd.tarn with
  | some w =>
    if d.recd.tarn.enteredLastWord < w.generation then
      let d1 := raiseP evPrevShutdown noInst (slice w.pack 8 32) d
      { d1 with recd := { d1.recd with
        tarn := Tarn.writeHeader { d1.recd.tarn with enteredLastWord := w.generation } } }
    else d
  | none => d

/-- Steps 2 to 5 of R385 once the medium has been read; a region that step 2 formats holds nothing from then on. DESIGN
CHOICE, unsafe (log entry 74). -/
def scanEnds (blank : Bool) (d : Dev) : Dev :=
  let wrongSize := d.pow.bootCause = 1 && d.recd.summary.slots ≠ slotsOf (cfg d 0x2A01 1)
  let format := blank || !d.recd.summary.valid || wrongSize
  let d0 : Dev := { d with recd := { d.recd with summary := { d.recd.summary with valid := d.recd.summary.valid && !blank } } }
  let d1 := if format then formatLog d0 else d0
  let lastLog := latestSeq d1.recd.log
  let d2 : Dev := { d1 with recd := { d1.recd with state := .writeBack, afterRing := false, lastSeq := seqAtBoot d1.recd } }
  let restored := (seqSort (d2.recd.tarn.area.map (·.2))).filter (fun e => lastLog = 0 || seqLater e.seq lastLog)
  let d3 := forEach restored (fun e => ringAccept { e with restored := true }) d2
  let d4 := numberEarly (if format then raise evFormatted noInst d3 else d3)
  checkWriteBack (previousShutdown d4)

/-! ### Meanings -/

/-- FLUSH_DELAY: the oldest staged entry has waited 0x2A01:03 (R374). -/
def execFlushDelay (s : State) : Result :=
  s.does fun d =>
    match d.recd.staging with
    | (_, t) :: _ => startFlush (arrive (t + cfg d 0x2A01 3 * msNs) d)
    | [] => d

/-- LOG_WRITE_COMPLETE: the entries of the write are in the log (R374, R375); write-back goes on or ends (R380). -/
def execLogWriteComplete (s : State) : Result :=
  s.does fun d =>
    match d.recd.state with
    | .logging =>
      let es := d.recd.inflight
      flushIfDue (refillStaging (logWrite es { d with recd := { d.recd with inflight := [], writeDeadline := none } }))
    | .writeBack =>
      let es := writeBackChunk d.recd
      checkWriteBack (logWrite es { d with recd := dropWritten es d.recd })
    | _ => d

/-- FREEZE_LIMIT: 0x2A02:02 seconds after the freeze (R378). DESIGN CHOICE, unsafe (log entry 75). -/
def execFreezeLimit (s : State) : Result :=
  s.does fun d =>
    match d.recd.freezeEnd with
    | some t =>
      let d1 := bump 0x2A06 0x0F (arrive t d)
      unfreezeLog (raise evFreezeLimit noInst d1)
    | none => d

/-- MEDIUM_FAILURE (R379). -/
def execMediumFailure (cause : MediumCause) (s : State) : Result := s.does (mediumFails cause)

/-- MEDIUM_RETRY: the eMMC is re-initialised and the summary record written and read back; a medium lost through LPDDR4X
does not return before power-on reset (R380). -/
def execMediumRetry (ok : Bool) (s : State) : Result :=
  s.does fun d =>
    match d.recd.retryAt, d.recd.state with
    | some t, .ring =>
      let d1 := arrive t d
      if ok && !d1.recd.ddrFailed then
        let d2 := raise evMediumReturned noInst { d1 with recd := { d1.recd with mediumFailed := false, retryAt := none } }
        enterWriteBack true d2
      else { d1 with recd := { d1.recd with retryAt := some (d1.now + cfg d1 0x2A01 6 * sNs) } }
    | _, _ => d

/-- SCAN_COMPLETE: the start-up scan ends (R385). DESIGN CHOICE, unsafe (log entry 74). -/
def execScanComplete (o : ScanOutcome) (s : State) : Result :=
  s.does fun d =>
    if d.recd.state = .scanning then
      let numbered : Dev := { d with recd := { d.recd with lastSeq := seqAtBoot d.recd } }
      if !d.chip.emmc then mediumFails .absent numbered
      else if d.recd.ddrFailed then mediumFails .ddr numbered
      else match o with
        | .failed => mediumFails .error numbered
        | .blank => scanEnds true d
        | .logFound => scanEnds false d
    else d

end Sys2Proof.Machine
end

