-- ==== Sys2Proof/Machine/Stamps.lean ====
section
/-! DEFINITION. Timestamps of frames at a port, and the queue of transmit timestamps (R195, R210). -/

namespace Sys2Proof.Machine

/-- Timestamp or capture queue overflow (R224). -/
def evTsOverflow : Ev := ⟨4, 3, 2, 0⟩

/-- Train time of the timestamp point of a frame that a port receives now, in units of 0.5 ns (R195). -/
def rxStamp (d : Dev) (p : Port) : Nat := halfOf (trainRaw d.time - psRaw (cfg d (0x2300 + p.val) 0x15))

/-- Train time of the timestamp point of a frame that a port starts to send now, in units of 0.5 ns (R195). -/
def txStamp (d : Dev) (p : Port) : Nat := halfOf (trainRaw d.time + psRaw (cfg d (0x2300 + p.val) 0x14))

/-- A queue overflow is recorded the first time in each second (R224). DESIGN CHOICE, unsafe (log entry 123). -/
def noteOverflow (inst : Nat) (d : Dev) : Dev :=
  let s := d.now / sNs
  if d.time.overflowSecond = some s then d
  else raise evTsOverflow inst { d with time := { d.time with overflowSecond := some s } }

/-- Stores the transmit timestamp of a frame that requested one (R210). -/
def storeTxStamp (p : Port) (ident : Nat) (d : Dev) : Dev :=
  let t := d.time.ports[p]
  if t.txQueue.length < 32 then
    onPortTime p (fun t => { t with txOverflow := false, txQueue := t.txQueue ++
      [{ half := txStamp d p, overflow := t.txOverflow, unsure := !d.time.state.sure, tevt := false, rising := false, ident := ident }] }) d
  else noteOverflow p.val (bump (0x2410 + p.val) 0x0B (onPortTime p (fun t => { t with txOverflow := true }) d))

end Sys2Proof.Machine
end

