-- ==== Sys2Proof/Machine/Rings.lean ====
section
/-! DEFINITION. What the fabric needs of the host link: the host queue's way into the receive rings, and write-backs of
descriptors (R459 to R466). -/

namespace Sys2Proof.Machine

/-- Changes one ring. -/
def onRing (r : Fin 10) (f : Ring → Ring) (d : Dev) : Dev :=
  { d with host := { d.host with rings := vmod d.host.rings r f } }

/-- Address of a descriptor in host memory (R459). -/
def descAddr (g : Ring) (index : Nat) : Nat := g.base.toNat + 32 * index

/-- A write-back sets the ring's INT_STATUS bit, or defers it within the moderation gap (R454, R459). -/
def ringInt (r : Fin 10) (d : Dev) : Dev :=
  let g := d.host.rings[r]
  let early := match g.lastInt with
    | some t => decide (d.now < t + g.moderation * 10 * usNs)
    | none => false
  if early then onRing r (fun g => { g with deferred := true }) d
  else setInt (16 + r.val) (onRing r (fun g => { g with lastInt := some d.now, deferred := false }) d)

/-- Writes one descriptor back: its status bytes, then DONE in byte 11, then HEAD, then the interrupt (R459, R460). -/
def writeBackOne (r : Fin 10) (index : Nat) (flags : Byte) (off : Nat) (tail : List Byte) (d : Dev) : Dev :=
  let a := descAddr d.host.rings[r] index
  let d1 := emits [.dmaWrite r.val (a + off) tail, .dmaWrite r.val (a + 11) [flags ||| 1#8]] d
  let d2 := onRing r (fun g => { g with head := (index + 1) % (max 1 g.size) }) d1
  if 4 ≤ r.val && r.val ≠ 8 || flags.getLsbD 3 then ringInt r d2 else d2

/-- Writes back, in ring order, the descriptors that have become due (R459). -/
def flushDone : Nat → Fin 10 → Nat → Dev → Dev
  | 0, _, _, d => d
  | n + 1, r, off, d =>
    let g := d.host.rings[r]
    match g.doneEarly.find? (fun x => x.1 = g.head) with
    | some (i, fl, bs) =>
      flushDone n r off (writeBackOne r i fl off bs
        (onRing r (fun g => { g with doneEarly := g.doneEarly.filter (fun x => x.1 ≠ i) }) d))
    | none => d

/-- Completes a transmit descriptor (R460, R461); a ring that stopped or was enabled anew gets no write-back (R466). -/
def completeTx (o : HostOrigin) (status : Nat) (ident : Option Nat) (d : Dev) : Dev :=
  let g := d.host.rings[o.ring]
  if g.running && g.session = o.session then
    let tail := leBytes 1 status ++ leBytes 1 (if ident.isSome then 1 else 0) ++ leBytes 2 (ident.getD 0) ++ leBytes 4 0
    flushDone g.size o.ring 24 (onRing o.ring (fun g => { g with doneEarly := (o.index, o.flags, tail) :: g.doneEarly }) d)
  else d

/-- Receive ring of a frame of the host queue (R462). -/
def rxRing (f : QFrame) : Fin 10 :=
  if f.errFlags ≠ 0 || f.untranslatable then 7
  else if f.cls = 7 then 6
  else if f.cls = 5 || f.cls = 6 then 5
  else 4

/-- Adds to DROPS of a ring, saturating (R464, R465). -/
def ringDrop (r : Fin 10) (d : Dev) : Dev := onRing r (fun g => { g with drops := min 0xFFFFFFFF (g.drops + 1) }) d

/-- The PCI Express link is up. -/
def pcieUp (d : Dev) : Bool := d.pins.strapPcie && d.host.linkUp

/-- A ring takes frames or samples: enabled, running, with a free descriptor. -/
def ringReady (g : Ring) : Bool := g.enable && g.running && !g.ready.isEmpty

/-- Bytes 8 to 31 of a receive descriptor as written back (R463). DESIGN CHOICE, safe (log entry 87). -/
def rxDescBytes (f : QFrame) (len : Nat) (cut : Bool) : List Byte :=
  leBytes 2 len ++ leBytes 1 ((f.ingress.map (·.val)).getD 0) ++ leBytes 1 1 ++ leBytes 1 f.errFlags ++
    leBytes 1 (f.cls % 8 + bitAt 3 f.prevBank + bitAt 4 f.copyToHost + bitAt 5 f.untranslatable + bitAt 6 cut) ++
    leBytes 1 (f.stepGen % 8 + bitAt 3 f.unsure) ++ leBytes 1 0 ++ leBytes 4 (f.stamp / 2) ++
    leBytes 1 (if f.stamp % 2 = 1 then 0x80 else 0) ++ leBytes 3 0 ++ leBytes 2 (f.vlan + 8192 * f.pcp) ++ leBytes 2 0 ++
    leBytes 2 f.epoch ++ leBytes 2 0

/-- The frame as it stands in host memory: with its FCS, or with its own last bytes (R176, R177, R463). DESIGN CHOICE, safe
(log entry 87). -/
def withFcs (f : QFrame) : List Byte := f.bytes ++ f.trailer.getD (leBytes 4 (crc32 f.bytes).toNat)

/-- Delivers one frame of the host queue to its ring, which is ready (R462, R463). DESIGN CHOICE, safe (log entry 87). -/
def deliverHost (f : QFrame) (d : Dev) : Dev :=
  let r := rxRing f
  match d.host.rings[r].ready with
  | (i, desc) :: rest =>
    let full := withFcs f
    let size := leNat (slice desc 8 2)
    let bs := full.take size
    let a := descAddr d.host.rings[r] i
    let d1 := onRing r (fun g => { g with ready := rest, head := (i + 1) % (max 1 g.size) })
      (emits [.dmaWrite r.val (leNat (slice desc 0 8)) bs,
              .dmaWrite r.val (a + 8) (rxDescBytes f full.length (size < full.length))] d)
    ringInt r d1
  | [] => d

/-- Hands every frame of the host queue whose ring can take it to the host, in order for each ring (R462, R464). -/
def drainHost (d : Dev) : Dev :=
  if pcieUp d then
    d.fab.hostQueue.foldl (fun acc f =>
      let waits := acc.fab.hostQueue.any (fun g => rxRing g = rxRing f)
      if ringReady acc.host.rings[rxRing f] && !waits then deliverHost f acc
      else { acc with fab := { acc.fab with hostQueue := acc.fab.hostQueue ++ [f] } })
      { d with fab := { d.fab with hostQueue := [] } }
  else d

end Sys2Proof.Machine
end

