-- ==== Sys2Proof/Machine/Mac.lean ====
section
/-! DEFINITION. Flow control and MAC control at a port: the meanings of R161 and R179 to R182. -/

namespace Sys2Proof.Machine

/-- Event "pause watchdog tripped" (outside a table of chapter 05). -/
def evPauseWatchdog : Ev := ⟨1, 4, 0x83, 0⟩

/-- Line rate code in Mbit/s; a port without a rate counts as 1 Gbit/s. -/
def rateMbps (code : Nat) : Nat :=
  match code with
  | 2 => 2500
  | 3 => 10000
  | _ => 1000

/-- Time that `n` bytes take on a port's wire, ns, rounded up. -/
def wireNs (d : Dev) (p : Port) (n : Nat) : Nat :=
  (n * 8 * 1000 + rateMbps d.ports.p[p].rate - 1) / rateMbps d.ports.p[p].rate

/-- Pause time of `q` quanta of 512 bit times, ns (R179). -/
def pauseNs (d : Dev) (p : Port) (q : Nat) : Nat := q * 512 * 1000 / rateMbps d.ports.p[p].rate

/-- Length of an untagged frame with `n` bytes after its EtherType, padded and with its FCS. -/
def frameLen (n : Nat) : Nat := max 64 (14 + n + 4)

/-- A good frame of `len` bytes is received (R175, R522). -/
def countGood (p : Port) (len : Nat) (d : Dev) : Dev :=
  countEv 0x004 p.val 0 len (countEv 0x003 p.val 0 1 (bump64 (0x2300 + p.val) 0x24 len (bump64 (0x2300 + p.val) 0x23 1 d)))

/-- Accumulated pause time at a moment `x` of a port that is unpaused up to it: 1 ms without pause resets it (R182). -/
def PortS.accAt (x : Nat) (t : PortS) : Nat := if t.pauseUntil.isNone && t.pauseSince + msNs ≤ x then 0 else t.pauseAcc

/-- A port's pause as it stands at `now` (R181, R182): a pause that waited for the end of a frame runs from that end, and one
that has run out ended there; after 1 ms without pause the accumulated time is 0, and a hold-off ends by itself. -/
def PortS.pauseAt (now : Nat) (t : PortS) : PortS :=
  let t1 := match t.pausePending with
    | some ns => if t.txUntil ≤ now then
        { t with pauseUntil := some (t.txUntil + ns), pausePending := none, pauseAcc := t.accAt t.txUntil, pauseSince := t.txUntil }
      else t
    | none => t
  let t2 := match t1.pauseUntil with
    | some e => if e ≤ now then
        { t1 with pauseUntil := none, pauseAcc := t1.pauseAcc + (e - t1.pauseSince), pauseSince := e }
      else t1
    | none => t1
  { t2 with
    pauseAcc := t2.accAt now
    pauseIgnoreUntil := t2.pauseIgnoreUntil.filter (fun e => decide (now < e)) }

/-- A port's pause now. -/
def pauseOf (d : Dev) (p : Port) : PortS := d.ports.p[p].pauseAt d.now

/-- Brings a port's pause up to the present. -/
def settlePause (p : Port) (d : Dev) : Dev := onPort p (PortS.pauseAt d.now) d

/-- A port is paused (R180). -/
def isPaused (d : Dev) (p : Port) : Bool := (pauseOf d p).pauseUntil.isSome

/-- Accumulated pause time of a port at present (R182). -/
def pauseAccNow (d : Dev) (p : Port) : Nat :=
  let t := pauseOf d p
  if t.pauseUntil.isSome then t.pauseAcc + (d.now - t.pauseSince) else t.pauseAcc

/-- Starts or replaces a pause now (R181). -/
def startPause (p : Port) (ns : Nat) (d : Dev) : Dev :=
  let acc := pauseAccNow d p
  onPort p (fun t => { t with pauseUntil := some (d.now + ns), pausePending := none, pauseAcc := acc, pauseSince := d.now }) d

/-- Ends a pause, whether it has taken effect or not (R181, R182). -/
def endPause (p : Port) (d : Dev) : Dev :=
  let acc := pauseAccNow d p
  if isPaused d p then
    onPort p (fun t => { t with pauseUntil := none, pausePending := none, pauseAcc := acc, pauseSince := d.now }) d
  else onPort p (fun t => { t with pausePending := none }) d

/-- Link loss clears any pause and the accumulated time (R168); a hold-off goes on (R182). -/
def clearPause (p : Port) (d : Dev) : Dev :=
  onPort p (fun t => { t with pauseUntil := none, pausePending := none, pauseAcc := 0, pauseSince := d.now }) d

/-- The accumulated pause time has passed 0x2300 + p:06 (R182). -/
def watchdogDue (d : Dev) (p : Port) : Bool :=
  isPaused d p && decide (cfg d (0x2300 + p.val) 6 * msNs ≤ pauseAccNow d p)

/-- The watchdog trips (R182). -/
def tripWatchdog (p : Port) (d : Dev) : Dev :=
  let d1 := raise evPauseWatchdog p.val (bump (0x2300 + p.val) 0x2F (endPause p d))
  onPort p (fun t => { t with pauseIgnoreUntil := some (d1.now + cfg d1 (0x2300 + p.val) 7 * msNs) }) d1

/-- A PAUSE frame with `q` quanta on a port that is Up; a watchdog that is due acts before it (R179 to R182, R184). -/
def takePause (p : Port) (q : Nat) (d0 : Dev) : Dev :=
  let ds := settlePause p d0
  let d1 := bump (0x2300 + p.val) 0x2D (if watchdogDue ds p then tripWatchdog p ds else ds)
  if !cfgB d1 (0x2300 + p.val) 5 || d1.ports.p[p].pauseIgnoreUntil.any (fun t => decide (d1.now < t)) then
    bump (0x2300 + p.val) 0x2E d1
  else if q = 0 then endPause p d1
  else if d1.now < d1.ports.p[p].txUntil && !isPaused d1 p then
    onPort p (fun t => { t with pausePending := some (pauseNs d1 p q) }) d1
  else startPause p (pauseNs d1 p q) d1

/-- A MAC control frame other than PAUSE (R161). PRESUMED, unsafe (log entry 49). -/
def takeMacControl (p : Port) (d : Dev) : Dev := bump (0x2300 + p.val) 0x30 d

/-- PAUSE (R175, R181). -/
def execPause (p : Port) (quanta : BitVec 16) (s : State) : Result :=
  s.does fun d => if portUp d p then takePause p quanta.toNat (countGood p 64 d) else d

/-- MAC_CONTROL_FRAME: every opcode but PAUSE is consumed and counted (R161, R175); opcode 1 is the row PAUSE. -/
def execMacControlFrame (p : Port) (opcode : BitVec 16) (s : State) : Result :=
  s.does fun d =>
    if portUp d p && opcode ≠ 1 then takeMacControl p (countGood p 64 d) else d

/-- PAUSE_END: the pause time runs out, and best-effort queues resume (R181). -/
def execPauseEnd (p : Port) (s : State) : Result :=
  s.does fun d =>
    let t := pauseOf d p
    match t.pauseUntil <|> t.pausePending.map (t.txUntil + ·) with
    | some e => settlePause p (arrive e d)
    | none => d

/-- PAUSE_WATCHDOG: the accumulated pause time passes 0x2300 + p:06 while the port is paused (R182). -/
def execPauseWatchdog (p : Port) (s : State) : Result :=
  s.does fun d =>
    match (pauseOf d p).pauseUntil with
    | some e =>
      let due := d.now + (cfg d (0x2300 + p.val) 6 * msNs - pauseAccNow d p)
      if due < e then tripWatchdog p (settlePause p (arrive due d)) else d
    | none => d

/-- PAUSE_HOLD_OFF_END: PAUSE frames are obeyed again (R182). -/
def execPauseHoldOffEnd (p : Port) (s : State) : Result :=
  s.does fun d =>
    match d.ports.p[p].pauseIgnoreUntil with
    | some t => let d1 := arrive t d; onPort p (fun q => { q with pauseIgnoreUntil := none }) (settlePause p d1)
    | none => d

/-- PAUSE_TIME_RESET: the port has been unpaused for 1 ms (R182). -/
def execPauseTimeReset (p : Port) (s : State) : Result :=
  s.does fun d =>
    let t := pauseOf d p
    if t.pauseUntil.isSome || t.pausePending.isSome then d
    else
      let d1 := settlePause p (arrive (t.pauseSince + msNs) d)
      onPort p (fun t => { t with pauseAcc := 0 }) d1

end Sys2Proof.Machine
end

