-- ==== Sys2Proof/Machine/Frames.lean ====
section
/-! DEFINITION. Frames as bytes: the fields that the MAC and the fabric read, tags, checksums, the table records of R127 and
the gate lists and reservations in force. -/

namespace Sys2Proof.Machine

/-! ### Fields of a frame -/

/-- Destination address. -/
def frameDest (bs : List Byte) : Nat := beNat (slice bs 0 6)

/-- Source address. -/
def frameSrc (bs : List Byte) : Nat := beNat (slice bs 6 6)

/-- A tag of TPID 0x8100 (R178). -/
def isTagged (bs : List Byte) : Bool := slice bs 12 2 = [0x81#8, 0x00#8]

/-- Where the EtherType after any tag stands. -/
def typeAt (bs : List Byte) : Nat := if isTagged bs then 16 else 12

/-- The EtherType after any tag. -/
def etherType (bs : List Byte) : Nat := beNat (slice bs (typeAt bs) 2)

/-- The payload after the EtherType. -/
def payloadAt (bs : List Byte) : Nat := typeAt bs + 2

/-- A group address. -/
def isGroup (mac : Nat) : Bool := mac / 2 ^ 40 % 2 = 1

/-- VLAN identifier and priority code point of a frame received on a port (R178). PRESUMED, unsafe (log entry 49). -/
def classify (d : Dev) (p : Port) (bs : List Byte) : Nat × Nat :=
  if isTagged bs then
    let tci := beNat (slice bs 14 2)
    (if tci % 4096 = 0 then cfg d (0x2300 + p.val) 9 else tci % 4096, tci / 8192)
  else (cfg d (0x2300 + p.val) 9, cfg d (0x2300 + p.val) 0x0A)

/-- VLAN identifier and priority of a frame from the host or of the device's own: its tag, or VLAN 1 with priority 0. -/
def classifyOwn (bs : List Byte) : Nat × Nat :=
  if isTagged bs then
    let tci := beNat (slice bs 14 2)
    (if tci % 4096 = 0 then 1 else tci % 4096, tci / 8192)
  else (1, 0)

/-! ### R-TAG (R243) -/

/-- The frame carries an R-TAG directly after its VLAN tag or its source address. -/
def hasRtag (bs : List Byte) : Bool := etherType bs = 0xF1C1

/-- Where the EtherType after any tag and R-TAG stands. -/
def innerAt (bs : List Byte) : Nat := if hasRtag bs then typeAt bs + 6 else typeAt bs

/-- The EtherType after any tag and R-TAG. -/
def innerType (bs : List Byte) : Nat := beNat (slice bs (innerAt bs) 2)

/-- The payload after that EtherType. -/
def ipAt (bs : List Byte) : Nat := innerAt bs + 2

/-- Sequence number of the R-TAG. -/
def rtagSeq (bs : List Byte) : BitVec 16 := BitVec.ofNat 16 (beNat (slice bs (typeAt bs + 4) 2))

/-- The frame without its R-TAG. -/
def stripRtag (bs : List Byte) : List Byte :=
  if hasRtag bs then bs.take (typeAt bs) ++ bs.drop (typeAt bs + 6) else bs

/-- The frame with an R-TAG. -/
def insertRtag (n : BitVec 16) (bs : List Byte) : List Byte :=
  bs.take (typeAt bs) ++ beBytes 2 0xF1C1 ++ beBytes 2 0 ++ beBytes 2 n.toNat ++ bs.drop (typeAt bs)

/-! ### IPv4, UDP and TCP -/

/-- An IPv4 frame, behind any R-TAG, long enough for its header. -/
def isIpv4 (bs : List Byte) : Bool :=
  innerType bs = 0x0800 && decide (ipAt bs + 20 ≤ bs.length) && beNat (slice bs (ipAt bs) 1) / 16 = 4

/-- IPv4 source address. -/
def ipSrc (bs : List Byte) : Nat := beNat (slice bs (ipAt bs + 12) 4)

/-- IPv4 destination address. -/
def ipDst (bs : List Byte) : Nat := beNat (slice bs (ipAt bs + 16) 4)

/-- IPv4 protocol. -/
def ipProto (bs : List Byte) : Nat := beNat (slice bs (ipAt bs + 9) 1)

/-- Where the transport header stands. -/
def l4At (bs : List Byte) : Nat := ipAt bs + 4 * (beNat (slice bs (ipAt bs) 1) % 16)

/-- The frame carries its transport header: it is not a later fragment. -/
def firstFragment (bs : List Byte) : Bool := beNat (slice bs (ipAt bs + 6) 2) % 8192 = 0

/-- UDP destination port, when the frame is UDP over IPv4. -/
def udpPort (bs : List Byte) : Option Nat :=
  if isIpv4 bs && ipProto bs = 17 && firstFragment bs then some (beNat (slice bs (l4At bs + 2) 2)) else none

/-- One's complement sum folded into 16 bits. -/
def foldSum (n : Nat) : Nat := let a := n / 65536 + n % 65536; let b := a / 65536 + a % 65536; b / 65536 + b % 65536

/-- Incremental update of a checksum when 32 bits change (R136). -/
def csumUpdate (old new csum : Nat) : Nat :=
  0xFFFF - foldSum ((0xFFFF - csum) + (0xFFFF - old / 65536) + (0xFFFF - old % 65536) + new / 65536 + new % 65536)

/-- Replaces the checksum at an offset; a UDP checksum of 0 stays 0 (R136). -/
def patchCsum (udp : Bool) (o old new : Nat) (bs : List Byte) : List Byte :=
  let c := beNat (slice bs o 2)
  if udp && c = 0 then bs
  else
    let c' := csumUpdate old new c
    splice bs o (beBytes 2 (if udp && c' = 0 then 0xFFFF else c'))

/-- Replaces an IPv4 address at offset 12 or 16 of the header, with every checksum that covers it (R136). -/
def setIp (o new : Nat) (bs : List Byte) : List Byte :=
  let at_ := ipAt bs + o
  let old := beNat (slice bs at_ 4)
  let b1 := patchCsum false (ipAt bs + 10) old new (splice bs at_ (beBytes 4 new))
  if firstFragment bs then
    if ipProto bs = 17 then patchCsum true (l4At bs + 6) old new b1
    else if ipProto bs = 6 then patchCsum false (l4At bs + 16) old new b1
    else b1
  else b1

/-- The ETB topology counter of a TRDP frame: bytes 12 to 15 of its header; 0 for any other frame (R137). -/
def trdpTopo (bs : List Byte) : Nat :=
  match udpPort bs with
  | some port => if port = 17224 || port = 17225 then beNat (slice bs (l4At bs + 8 + 12) 4) else 0
  | none => 0

/-! ### PTP (R202) -/

/-- Where a PTP header stands: EtherType 0x88F7, or UDP port 319 or 320. DESIGN CHOICE, unsafe (log entry 45). -/
def ptpAt (bs : List Byte) : Option Nat :=
  if innerType bs = 0x88F7 then some (ipAt bs)
  else match udpPort bs with
    | some port => if port = 319 || port = 320 then some (l4At bs + 8) else none
    | none => none

/-- gPTP of domain 0 with majorSdoId 1, which the node consumes (R202). -/
def isGptp (bs : List Byte) : Bool :=
  etherType bs = 0x88F7 && beNat (slice bs (payloadAt bs) 1) / 16 = 1 && beNat (slice bs (payloadAt bs + 4) 1) = 0

/-- A PTP event message: Sync, Delay_Req, Pdelay_Req or Pdelay_Resp. -/
def isPtpEvent (bs : List Byte) : Bool :=
  match ptpAt bs with
  | some o => decide (beNat (slice bs o 1) % 16 < 4)
  | none => false

/-- Adds to the correctionField in units of 2^-16 ns, with the UDP checksum (R202). DESIGN CHOICE, unsafe (log entry 45). -/
def addCorrection (units : Nat) (bs : List Byte) : List Byte :=
  match ptpAt bs with
  | some o =>
    let old := beNat (slice bs (o + 8) 8)
    let new := (old + units) % 2 ^ 64
    let b1 := splice bs (o + 8) (beBytes 8 new)
    if innerType bs = 0x88F7 then b1
    else patchCsum true (l4At bs + 6) (old % 2 ^ 32) (new % 2 ^ 32)
      (patchCsum true (l4At bs + 6) (old / 2 ^ 32) (new / 2 ^ 32) b1)
  | none => bs

/-! ### Records of the large tables (R69, R127) -/

/-- Address of a byte of a large table in the byte memory. -/
def tableAddr (idx sub off : Nat) : Nat := 4096 * (256 * (idx - 0x5000) + sub) + off

/-- Bytes of a large table. -/
def tableBytes (d : Dev) (idx sub off n : Nat) : List Byte := Memory.readBytes d.dict.mem (tableAddr idx sub off) n

/-- The positions (index, subindex, record number) of the records of `size` bytes that hold a byte other than 0 in the
tables from `lo` up to and including `hi`. -/
def listedRecords (m : List Host.Cell) (lo hi size : Nat) : List (Nat × Nat × Nat) :=
  (m.foldr (fun c (acc : List (Nat × Nat × Nat)) =>
    let idx := 0x5000 + c.1 / 4096 / 256
    if lo ≤ idx && idx ≤ hi then
      let x := (idx, c.1 / 4096 % 256, c.1 % 4096 / size)
      match acc with
      | y :: _ => if x = y then acc else x :: acc
      | [] => [x]
    else acc) [])

/-- Hash of an address and VLAN (R126). -/
def tableHash (mac vlan : Nat) : Nat := (crc32 (beBytes 6 mac ++ beBytes 2 vlan)).toNat

/-- A record of the unicast or multicast table: its row and bytes. -/
def rowBytes (d : Dev) (base row : Nat) : List Byte := tableBytes d (base + row / 256) 1 (16 * (row % 256)) 16

/-- The committed unicast row of a key (R126, R128). DESIGN CHOICE, unsafe (log entry 35). -/
def findUnicast (d : Dev) (mac vlan : Nat) : Option (Nat × List Byte) :=
  ((List.range 4).map (fun w => 4 * (tableHash mac vlan % 1024) + w)).findSome? fun row =>
    let r := rowBytes d 0x5000 row
    if bitOf (leNat (slice r 8 1)) 0 && beNat (slice r 0 6) = mac && leNat (slice r 6 2) % 4096 = vlan then some (row, r)
    else none

/-- The learned row of a key (R131). -/
def findLearned (d : Dev) (mac vlan : Nat) : Option Learned :=
  d.fab.learned.find? (fun l => l.mac = mac && l.vlan = vlan)

/-- The multicast group of a key (R126, R129). -/
def findMulticast (d : Dev) (mac vlan : Nat) : Option (List Byte) :=
  ((List.range 4).map (fun w => 4 * (tableHash mac vlan % 256) + w)).findSome? fun row =>
    let r := rowBytes d 0x5010 row
    if bitOf (leNat (slice r 12 1)) 0 && beNat (slice r 0 6) = mac && leNat (slice r 6 2) % 4096 = vlan then some r
    else none

/-- Ports of a 20-bit mask. DESIGN CHOICE, unsafe (log entry 35). -/
def maskPorts (m : Nat) : List Port := allPorts.filter (fun p => bitOf m p.val)

/-- One translation record (R134). -/
structure TransRec where
  row : Nat
  pfx : Nat
  len : Nat
  valid : Bool
  outbound : Bool
  inbound : Bool
  offset : Nat
  deriving DecidableEq, Repr

/-- Reads a translation record. -/
def transRecOf (row : Nat) (r : List Byte) : TransRec :=
  let fl := leNat (slice r 5 1)
  { row := row, pfx := beNat (slice r 0 4), len := leNat (slice r 4 1), valid := bitOf fl 0, outbound := bitOf fl 1,
    inbound := bitOf fl 2, offset := leNat (slice r 6 2) }

/-- The valid translation records of a memory, from bank 0, which holds the same host-owned bytes as bank 1 (R134). -/
def transRecords (m : List Host.Cell) : List TransRec :=
  ((listedRecords m 0x5020 0x5023 16).map fun (idx, sub, k) =>
    transRecOf (512 * (idx - 0x5020) + 256 * (sub - 1) + k) (Memory.readBytes m (tableAddr idx sub (16 * k)) 16)).filter (·.valid)

/-- Number of addresses of a record's block. -/
def TransRec.size (t : TransRec) : Nat := 2 ^ (32 - t.len)

/-! ### Gate lists and windows in force (R228, R242) -/

/-- Transmit entries of the bank in force that a stream matches (R238). -/
def txEntries (d : Dev) (mac vlan : Nat) : List GateEntry :=
  if scheduleActive d then
    d.sched.gates.filter (fun g => !g.receive && g.stream.toNat = mac && g.vlan = vlan)
  else []

/-- The receive entry of a port that a stream matches (R246). -/
def rxEntry (d : Dev) (p : Port) (mac vlan : Nat) : Option GateEntry :=
  if scheduleActive d then
    d.sched.gates.find? (fun g => g.receive && g.port = p && g.stream.toNat = mac && g.vlan = vlan)
  else none

/-- Guard band in force: the planner's addition keeps it at most half of the length (R242, R515). -/
def guardNow (d : Dev) (g : GateEntry) : Nat := min (g.guardNs + d.sched.guardAdd) (max g.guardNs (g.length / 2))

/-- Time since an entry last opened, at train time `t`. -/
def sinceOpen (d : Dev) (g : GateEntry) (t : Nat) : Nat :=
  match schedCycle d with
  | some (c, b) => if c = 0 then 0 else (((t : Int) - b - g.openNs) % c).toNat
  | none => 0

/-- Adds to one counter of a window (R259). DEDUCED, unsafe (log entry 57). -/
def bumpWin (w k : Nat) (d : Dev) : Dev :=
  { d with sched := { d.sched with counters := d.sched.counters.map fun c =>
      if c.window = w then { c with counts := c.counts.set! k (min 0xFFFFFFFF (c.counts.getD k 0 + 1)) } else c } }

/-- The queue is under gate control: the node opens windows (R237, R248). -/
def gatesRun (d : Dev) : Bool :=
  match schedRuns d with
  | .running | .localOnly => true
  | _ => false

/-- The window that a port is in at present: up to its end, with the guard band after its hard close (R237, R239, R241). -/
def windowNow (d : Dev) (p : Port) : Option OpenWindow :=
  d.sched.windows[p].filter (fun w => decide (trainTime d < w.openedAt + w.entry.length))

/-- Sequence recovery of one copy (R244): whether it is accepted, a duplicate or rogue, and the new history. -/
inductive CopyKind where
  | accepted | duplicate | rogue
  deriving DecidableEq, Repr

/-- Classes a sequence number against a history (R244). DESIGN CHOICE, unsafe (log entry 56). -/
def recoverSeq (n : BitVec 16) (q : SeqState) : CopyKind × SeqState :=
  if !q.started then (.accepted, { q with started := true, highest := n, history := [n] })
  else
    let ahead := (n - q.highest).toNat
    let behind := (q.highest - n).toNat
    if q.history.contains n then (.duplicate, q)
    else if 1 ≤ ahead && ahead ≤ 63 then (.accepted, { q with highest := n, history := (n :: q.history).take 64 })
    else if 1 ≤ behind && behind ≤ 63 then (.accepted, { q with history := (n :: q.history).take 64 })
    else (.rogue, q)

/-- The recovery and generation state of a window. DESIGN CHOICE, unsafe (log entry 56). -/
def seqOf (d : Dev) (w : Nat) : SeqState :=
  (d.sched.seqs.find? (·.window = w)).getD
    { window := w, next := 0, started := false, highest := 0, history := [], resetAt := none }

/-- Stores the recovery and generation state of a window. -/
def setSeq (q : SeqState) (d : Dev) : Dev :=
  { d with sched := { d.sched with seqs := q :: d.sched.seqs.filter (fun x => x.window ≠ q.window) } }

/-! ### Reservations in force (R268) -/

/-- The reservation bank in force. -/
def resBank (d : Dev) : List ResPlaced := if d.strm.bankOne then d.strm.bank1 else d.strm.bank0

/-- The reservations in force that a stream matches. -/
def resEntries (d : Dev) (mac vlan : Nat) : List ResPlaced :=
  (resBank d).filter (fun r => r.address.toNat = mac && r.vlan = vlan)

/-! ### The train as the directory shows it (R117, R138) -/

/-- A node is direct when its front side faces the reference end (R228); the side toward a higher number. -/
def higherSideRear (n : Numbering) : Bool := !n.inverse

/-- The side of this node on which the node numbered `k` lies; none for this node itself. DESIGN CHOICE, unsafe (log entry
36). -/
def sideOf (n : Numbering) (k : Nat) : Option Bool :=
  if n.node = k || n.node = 0 then none else some (if n.node < k then higherSideRear n else !higherSideRear n)

/-- Number of the node with an identity. -/
def nodeNumberOf (n : Numbering) (ident : Nat) : Option Nat :=
  (n.dir.findIdx? (fun x => x.ident.toNat = ident)).map (· + 1)

/-- The lane that R138 selects on a side: A, or B when A has no link. DESIGN CHOICE, unsafe (log entry 36). -/
def laneFor (d : Dev) (rear : Bool) : Port := if portUp d (sidePort rear false) then sidePort rear false else sidePort rear true

/-- The vehicle primary of the lowest-numbered vehicle of a consist that has one (R138): its node number and identity. -/
def primaryOf (n : Numbering) (consist : Nat) : Option (Nat × Nat) :=
  let l := (n.dir.zipIdx 1).filter (fun x => x.1.consist = consist && x.1.primary)
  (l.foldl (fun (best : Option (DirNode × Nat)) x =>
    match best with
    | none => some x
    | some b => if x.1.vehicle < b.1.vehicle then some x else best) none).map (fun x => (x.2, x.1.ident.toNat))

end Sys2Proof.Machine
end

