-- ==== Sys2Proof/Machine/Fabric.lean ====
section
/-! DEFINITION. The Reservoir: queues, cells, admission, spill, slices and lookup engines (R122 to R125, R139 to R151). -/

namespace Sys2Proof.Machine

/-- Event "planned slice rotation" (R159). -/
def evRotated : Ev := ⟨2, 2, 1, 0⟩
/-- Event "engine returned to service after self-test". -/
def evEngineBack : Ev := ⟨2, 3, 2, 0⟩
/-- Event "engine taken out for self-test". -/
def evEngineOut : Ev := ⟨2, 5, 3, 0⟩
/-- Event "spill disabled by memory failure". -/
def evSpillOff : Ev := ⟨2, 6, 4, 0⟩
/-- Event "slice retired". -/
def evSliceRetired : Ev := ⟨2, 7, 5, 0⟩
/-- Event "spare test failed". -/
def evSpareFailed : Ev := ⟨2, 7, 5, 1⟩
/-- Event "no spare at boot". -/
def evNoSpare : Ev := ⟨2, 7, 5, 2⟩
/-- Event "engine retired". -/
def evEngineRetired : Ev := ⟨2, 7, 6, 0⟩
/-- Severity 7 event of the second row of R125, which R159 does not list. -/
def evSuspectKept : Ev := ⟨2, 7, 0x80, 0⟩

/-! ### Queues -/

/-- Changes the fabric's record. -/
def onFab (f : FabricS → FabricS) (d : Dev) : Dev := { d with fab := f d.fab }

/-- One egress queue. -/
def queueOf (d : Dev) (p : Port) (q : Fin 8) : List QFrame := d.fab.queues[p][q]

/-- Replaces one egress queue. -/
def setQueue (p : Port) (q : Fin 8) (l : List QFrame) (d : Dev) : Dev :=
  onFab (fun f => { f with queues := vmod f.queues p (fun v => v.set q.val l q.isLt) }) d

/-- Every copy of a frame that waits, with its port and queue. -/
def queued (d : Dev) : List (Port × Fin 8 × QFrame) :=
  allPorts.flatMap fun p => (List.finRange 8).flatMap fun q => (queueOf d p q).map (fun f => (p, q, f))

/-- Cells of a frame of `n` bytes with FCS (R122). -/
def cellsFor (n : Nat) : Nat := (n + 255) / 256

/-- Cells of a frame as stored. -/
def frameCells (f : QFrame) : Nat := cellsFor (f.bytes.length + 4)

/-- Cells of a port's queue in the Reservoir. -/
def queueCells (d : Dev) (p : Port) (q : Fin 8) : Nat :=
  ((queueOf d p q).filter (!·.spilled)).foldl (fun n f => n + frameCells f) 0

/-- Cells of the host queue. -/
def hostCells (d : Dev) : Nat := d.fab.hostQueue.foldl (fun n f => n + frameCells f) 0

/-- The Q7, Q6 or Q5 reserve of a port (R140). -/
def reserveOf (d : Dev) (p : Port) (q : Nat) : Nat := cfg d 0x2204 ((if isBackbone p then 8 else 11) - q)

/-- All reserves together (R140). -/
def reserveTotal (d : Dev) : Nat :=
  4 * (cfg d 0x2204 1 + cfg d 0x2204 2 + cfg d 0x2204 3) + 16 * (cfg d 0x2204 4 + cfg d 0x2204 5 + cfg d 0x2204 6)

/-- Cells in use. -/
def usedCells (d : Dev) : Nat := d.fab.cells.foldl (fun n c => n + c.2.length) 0

/-- Cells in use that no reserve holds: those of frames with a copy in a best-effort queue or the host queue. -/
def poolUsed (d : Dev) : Nat :=
  let uids := (((queued d).filter (fun x => decide (x.2.1.val ≤ 4) && !x.2.2.spilled)).map (·.2.2.uid)) ++
    d.fab.hostQueue.map (·.uid)
  (d.fab.cells.filter (fun c => uids.contains c.1)).foldl (fun n c => n + c.2.length) 0

/-- Free cells of the active slices (0x2200:05). -/
def freeCells (d : Dev) : Nat := 3072 * d.fab.active.length - usedCells d

/-- Free cells of the shared pool (0x2200:06). -/
def poolFree (d : Dev) : Nat := 3072 * d.fab.active.length - reserveTotal d - poolUsed d

/-- Cells of the shared pool that a port holds (R140). -/
def portShared (d : Dev) (p : Port) : Nat :=
  ([0, 1, 2, 3, 4] : List (Fin 8)).foldl (fun n q => n + queueCells d p q) 0

/-- Spill is ready (0x2205:05 = 1). -/
def spillReady (d : Dev) : Bool := cfgB d 0x2205 1 && !d.fab.spillFailed && decide (0 < d.chip.ddrMiB)

/-- Bytes held in the spill region. -/
def spillBytes (d : Dev) : Nat :=
  ((queued d).filter (fun x => x.2.2.spilled)).foldl (fun n x => n + x.2.2.bytes.length + 4) 0

/-- The active slices in the order in which a frame that starts now takes them: from the slice after the one that received the
previous frame's first cell, none of them under work (R122, R147, R149). -/
def allocOrder (f : FabricS) : List Slice :=
  let i := match f.lastFirst with
    | some s => f.active.findIdx (· = s) + 1
    | none => 0
  (f.active.drop i ++ f.active.take i).filter (fun s => !f.works.any (fun w => w.slice = s))

/-- Places the cells of a frame on the active slices in turn (R122). -/
def allocCells (uid n : Nat) (d : Dev) : Dev :=
  if d.fab.cells.any (fun c => c.1 = uid) then d
  else
    let order := allocOrder d.fab
    let place := (List.range n).filterMap (fun i => order[i % order.length]?)
    forEach place (fun sl => countEv 0x007 sl.val 0 1) (onFab (fun f => { f with
      cells := f.cells ++ [(uid, place)], lastFirst := place.head? <|> f.lastFirst }) d)

/-- What is left of a frame once a copy has gone: its cells when a copy is in the Reservoir, its write-back when none is
left (R141, R460, R461). -/
def settle (f : QFrame) (status : Nat) (d : Dev) : Dev :=
  let copies := ((queued d).map (·.2.2) ++ d.fab.hostQueue).filter (fun g => g.uid = f.uid)
  let d1 := if copies.all (·.spilled) then
    onFab (fun b => { b with cells := b.cells.filter (fun c => c.1 ≠ f.uid) }) d else d
  if copies.isEmpty then
    let d2 := onFab (fun b => { b with sentUids := b.sentUids.filter (· ≠ f.uid) }) d1
    match f.host with
    | some o => completeTx o (if d1.fab.sentUids.contains f.uid then 0 else status) f.tsIdent d2
    | none => d2
  else d1

/-- A queue stops spilling when its part of the region is empty (R142). DESIGN CHOICE, unsafe (log entry 42). -/
def endSpill (p : Port) (q : Fin 8) (d : Dev) : Dev :=
  if (queueOf d p q).any (·.spilled) then d
  else onFab (fun f => { f with spilling := f.spilling.filter (· ≠ (p.val, q.val)) }) d

/-- Removes from one queue every frame for which `bad` holds; `each` acts for each of them (R141 and its users). -/
def discardFrom (p : Port) (q : Fin 8) (bad : QFrame → Bool) (status : Nat) (each : QFrame → Dev → Dev) (d : Dev) : Dev :=
  let gone := (queueOf d p q).filter bad
  forEach gone (fun f d => settle f status (each f d))
    (endSpill p q (setQueue p q ((queueOf d p q).filter (fun f => !bad f)) d))

/-- Discards in one queue, counted per port and queue and as a source event (R141, R522). -/
def countDiscard (p : Port) (q : Nat) (d : Dev) : Dev := countEv 0x005 p.val q 1 (bump (0x2210 + p.val) (1 + q) d)

/-- Every queue of every port. -/
def allQueues : List (Port × Fin 8) := allPorts.flatMap fun p => (List.finRange 8).map (fun q => (p, q))

/-- Discards frames in every queue. -/
def discardAll (bad : Port → Fin 8 → QFrame → Bool) (status : Nat) (each : Port → Fin 8 → QFrame → Dev → Dev) (d : Dev) :
    Dev :=
  forEach allQueues (fun (p, q) d => discardFrom p q (bad p q) status (each p q) d) d

/-- A frame for a port without link: counted in 0x2300 + p:32, and a Q6 or Q5 frame of a backbone port as a frame of a
withdrawn window or reservation (R168, R245). DESIGN CHOICE, unsafe (log entry 44). -/
def countUnsent (p : Port) (q : Fin 8) (d : Dev) : Dev :=
  onlyIf (isBackbone p && q = 5) (bump 0x2602 2) (onlyIf (isBackbone p && q = 6) (bump 0x2505 0x0D)
    (bump (0x2300 + p.val) 0x32 d))

/-- A port loses link: every frame queued to it is discarded and counted (R168). DESIGN CHOICE, unsafe (log entry 44). -/
def discardPort (p : Port) (d : Dev) : Dev :=
  forEach (List.finRange 8) (fun q d => discardFrom p q (fun _ => true) 3 (fun _ => countUnsent p q) d) d

/-! ### Admission (R141, R142) -/

/-- Room for `need` cells at a port's queue. -/
def roomAt (d : Dev) (p : Port) (q : Fin 8) (need : Nat) : Bool :=
  if 5 ≤ q.val then queueCells d p q + need ≤ reserveOf d p q.val
  else portShared d p + need ≤ cfg d 0x2204 (if isBackbone p then 7 else 8) && need ≤ poolFree d

/-- The queue spills (R142). DESIGN CHOICE, unsafe (log entry 42). -/
def spillsAt (d : Dev) (p : Port) (q : Fin 8) : Bool :=
  q.val ≤ 4 && spillReady d &&
    (d.fab.spilling.contains (p.val, q.val) || cfg d 0x2205 2 ≤ queueCells d p q)

/-- The transmit gate of a queue is open (R237). -/
def gateOpen (d : Dev) (p : Port) (q : Fin 8) : Bool :=
  let openNow := gatesRun d && (windowNow d p).isSome
  if q = 6 then openNow else !openNow

/-- The frame may be sent cut-through at this egress (R120); `rate` is the ingress line rate, none for stored frames. -/
def cutAt (d : Dev) (p : Port) (q : Fin 8) (rate : Option Nat) : Bool :=
  match rate with
  | some r => rateMbps d.ports.p[p].rate ≤ r && (queueOf d p q).isEmpty && gateOpen d p q
  | none => false

/-- Puts a frame at the end of a queue (R122). -/
def pushFrame (p : Port) (q : Fin 8) (f : QFrame) (d : Dev) : Dev := setQueue p q (queueOf d p q ++ [f]) d

/-- Admits one copy at a port (R141, R142, R168); a copy that is not admitted is counted. -/
def admitPort (f : QFrame) (need : Nat) (rate : Option Nat) (p : Port) (q : Fin 8) (d : Dev) : Dev :=
  let f1 : QFrame := { f with cls := q.val, queuedAt := d.now }
  if !portUp d p then countUnsent p q d
  else if spillsAt d p q then
    if spillBytes d + f.bytes.length + 4 ≤ cfg d 0x2205 3 * 1048576 then
      bump (0x2210 + p.val) 0x0A (bump (0x2210 + p.val) 0x0B (pushFrame p q { f1 with spilled := true, cut := false }
        (onFab (fun b => { b with spilling := (p.val, q.val) :: b.spilling.filter (· ≠ (p.val, q.val)) }) d)))
    else countDiscard p q.val d
  else if roomAt d p q need then
    let thru := cutAt d p q rate
    bump (0x2210 + p.val) (if thru then 9 else 0x0A)
      (pushFrame p q { f1 with cut := thru } (allocCells f.uid (frameCells f) d))
  else countDiscard p q.val d

/-- Frees the cells of frames of which no copy waits, after the host queue has drained. -/
def sweepCells (d : Dev) : Dev :=
  let live := ((queued d).filter (fun x => !x.2.2.spilled)).map (·.2.2.uid) ++ d.fab.hostQueue.map (·.uid)
  onFab (fun b => { b with cells := b.cells.filter (fun c => live.contains c.1) }) d

/-- The gateway takes the frame at its admission to the host queue (R325). -/
def gatewayTakes (d : Dev) (bs : List Byte) : Bool :=
  let h := l4At bs + 8
  let kind := beNat (slice bs (h + 6) 2)
  let comId := beNat (slice bs (h + 8) 4)
  let chans := (List.range 32).filter (fun n => cfg d (0x2810 + n) 1 ≠ 0 && cfg d (0x2810 + n) 7 = comId)
  d.gw.running && cfgB d 0x2800 1 &&
    (match udpPort bs with
     | some 17224 => (List.range 64).any fun k =>
         cfg d (0x2840 + k) 1 = 2 && cfg d (0x2840 + k) 2 = comId &&
           (cfg d (0x2840 + k) 9 = 0 || cfg d (0x2840 + k) 9 = ipSrc bs)
     | some 17225 => chans.any fun n =>
         cfg d (0x2810 + n) 1 = if kind = 0x4D72 || kind = 0x4D6E then 1 else 2
     | _ => false)

/-- The host queue has room for `need` cells (R140, R141). -/
def hostRoom (d : Dev) (need : Nat) : Bool := pcieUp d && decide (hostCells d + need ≤ cfg d 0x2204 9) && decide (need ≤ poolFree d)

/-- A copy for the host queue is delivered: to the gateway or to the queue (R137, R325). -/
def hostTakes (d : Dev) (f : QFrame) (need : Nat) : Bool := (f.errFlags = 0 && gatewayTakes d f.bytes) || hostRoom d need

/-- Admits one copy to the host queue (R141, R325, R462, R464). -/
def admitHost (f : QFrame) (need : Nat) (d : Dev) : Dev :=
  if f.errFlags = 0 && gatewayTakes d f.bytes then d
  else if !pcieUp d then ringDrop 4 d
  else if hostRoom d need then
    let d1 := onFab (fun b => { b with hostQueue := b.hostQueue ++ [{ f with queuedAt := d.now }] })
      (allocCells f.uid (frameCells f) d)
    sweepCells (drainHost d1)
  else ringDrop (rxRing f) d

/-! ### Engines (R123 to R125) -/

/-- Code of an engine's state (0x2200:04). -/
def EngineState.code : EngineState → Nat
  | .inService => 0
  | .selfTest => 1
  | .retired => 2

/-- An engine's state. -/
def engineOf (f : FabricS) (one : Bool) : EngineState := if one then f.engine1 else f.engine0

/-- Sets an engine's state; leaving service clears what it was blamed for. -/
def setEngine (one : Bool) (e : EngineState) (f : FabricS) : FabricS :=
  if one then { f with engine1 := e, blame1 := [] } else { f with engine0 := e, blame0 := [] }

/-- Takes an engine out for self-test when the other is in service (R124, R125). DESIGN CHOICE, safe (log entry 39). -/
def takeEngineOut (one : Bool) (d : Dev) : Dev :=
  raise evEngineOut (if one then 1 else 0) (bump 0x2207 5 (onFab (setEngine one .selfTest) d))

/-- A mismatch blamed on an engine (R123, R124). DESIGN CHOICE, safe (log entry 39). -/
def blameEngine (one : Bool) (d : Dev) : Dev :=
  let d1 := bump 0x2207 (if one then 3 else 2) d
  let old := if one then d1.fab.blame1 else d1.fab.blame0
  let keep := old.filter (fun t => d1.now < t + cfg d1 0x2201 2 * msNs) ++ [d1.now]
  let d2 := onFab (fun f => if one then { f with blame1 := keep } else { f with blame0 := keep }) d1
  if cfg d2 0x2201 1 ≤ keep.length then
    if engineOf d2.fab (!one) = .inService then takeEngineOut one d2
    else raise evSuspectKept (if one then 1 else 0) d2
  else d2

/-- The two decisions of a frame differ: the frame is discarded and the walker judges (R123). DESIGN CHOICE, safe (log entry
39). -/
def mismatch (e : EngineFault) (d : Dev) : Dev :=
  let d1 := bump 0x2207 1 d
  if d1.now < d1.fab.walkerBusyUntil then bump 0x2207 4 d1
  else
    let d2 := onFab (fun f => { f with walkerBusyUntil := d1.now + usNs }) d1
    if e.wrong0 && e.wrong1 then bump 0x2207 4 d2 else blameEngine e.wrong1 d2

/-! ### Learned entries (R131) -/

/-- LEARNED_ENTRY_AGEING: a learned entry is not seen for 0x2201:04 and is removed (R131). DESIGN CHOICE, safe (log entry
43). -/
def execLearnedEntryAgeing (row : BitVec 16) (s : State) : Result :=
  s.does fun d =>
    match d.fab.learned.find? (fun l => l.row = row.toNat) with
    | some l =>
      if cfg d 0x2201 4 = 0 then d
      else
        let d1 := arrive (l.seen + cfg d 0x2201 4 * sNs) d
        onFab (fun f => { f with learned := f.learned.filter (fun x => x.row ≠ row.toNat) }) d1
    | none => d

/-! ### Spill (R142, R143) -/

/-- Reads spilled frames of a queue back in order while its occupancy is below half the threshold and the pool has room.
DESIGN CHOICE, unsafe (log entry 42). -/
def readBack (p : Port) (q : Fin 8) : Nat → Dev → Dev
  | 0, d => d
  | n + 1, d =>
    match (queueOf d p q).find? (·.spilled) with
    | some f =>
      if 2 * queueCells d p q < cfg d 0x2205 2 && roomAt d p q (frameCells f) then
        let i := (queueOf d p q).findIdx (·.spilled)
        readBack p q n (setQueue p q ((queueOf d p q).set i { f with spilled := false })
          (allocCells f.uid (frameCells f) d))
      else d
    | none => d

/-- SPILL_READBACK (R142). DESIGN CHOICE, unsafe (log entry 42). -/
def execSpillReadback (p : Port) (q : Fin 8) (s : State) : Result :=
  s.does fun d =>
    if d.fab.spilling.contains (p.val, q.val) then
      endSpill p q (readBack p q (queueOf d p q).length d)
    else d

/-- The LPDDR4X fails: spill is disabled and the spilled frames are lost (R143); the recorder's medium fails (R379). -/
def ddrFails (d : Dev) : Dev :=
  if d.fab.spillFailed then d
  else
    let d1 := discardAll (fun _ _ f => f.spilled) 2 (fun _ _ _ => bump 0x2207 0x0B) d
    mediumFails .ddr (raise evSpillOff noInst (onFab (fun f => { f with spillFailed := true, spilling := [] }) d1))

/-- LPDDR4X_FAILURE: an uncorrectable error and a failed training have the same effect (R143). -/
def execLpddr4xFailure (_f : DdrFailure) (s : State) : Result := s.does ddrFails

/-! ### Slices (R144 to R151) -/

/-- Numbers of the frames with a cell in a slice. -/
def uidsIn (d : Dev) (sl : Slice) : List Nat := (d.fab.cells.filter (fun c => c.2.contains sl)).map (·.1)

/-- Frames in transmission that lose a cell with a slice, by queue: each ends with a bad FCS (R121). -/
def cutShort (sl : Slice) (lost : Fin 8 → Bool) (d : Dev) : Dev :=
  forEach (allPorts.filter (fun p =>
      let t := d.ports.p[p]
      decide (d.now < t.txUntil) && t.txCells.contains sl && lost (Fin.ofNat 8 t.txQueue)))
    (fun p d => bump 0x2207 0x0C (emit (.badFcs p) (onPort p (fun t => { t with txCells := [] }) d))) d

/-- Discards the copies of frames with a cell in a slice that `lost` marks by queue, and every such host copy; each frame
counts once in 0x2207:07 (R147, R148, R153), and one whose transmission has started ends with a bad FCS (R121). DESIGN
CHOICE, unsafe (log entry 41). -/
def discardSlice (sl : Slice) (lost : Fin 8 → Bool) (d : Dev) : Dev :=
  let hit := uidsIn d sl
  let gone := (((queued d).filter (fun x => lost x.2.1 && hit.contains x.2.2.uid && !x.2.2.spilled)).map (·.2.2.uid) ++
    (d.fab.hostQueue.filter (fun f => hit.contains f.uid)).map (·.uid)).eraseDups
  let host := d.fab.hostQueue.filter (fun f => hit.contains f.uid)
  let d1 := onFab (fun f => { f with hostQueue := f.hostQueue.filter (fun x => !hit.contains x.uid) }) d
  let d2 := discardAll (fun _ q f => lost q && hit.contains f.uid && !f.spilled) 2 (fun _ _ _ => id) (cutShort sl lost d1)
  bumpBy 0x2207 7 gone.length (forEach host (fun f d => settle f 2 d) d2)

/-- Best-effort queues. -/
def bestEffort (q : Fin 8) : Bool := q.val ≤ 4

/-- The spare is free: no retirement or rotation has claimed it. DESIGN CHOICE, unsafe (log entry 41). -/
def freeSpare (d : Dev) : Option Slice :=
  match d.fab.spare with
  | some s => if d.fab.works.any (fun w => w.incoming = some s) then none else some s
  | none => none

/-- Starts a retirement: R147 with a spare, R148 without.  A rotation under way gives the spare back, so that the spare takes
the faulty slice's place (R25, R150). DESIGN CHOICE, unsafe (log entry 41). -/
def retireSlice (sl : Slice) (cause : Nat) (d0 : Dev) : Dev :=
  let d := onFab (fun f => { f with works := f.works.filter (fun w => !w.rotation) }) d0
  let inc := freeSpare d
  let d1 := onFab (fun f => { f with works := f.works ++
    [{ slice := sl, incoming := inc, rotation := false, cause := cause, started := d.now }] }) d
  discardSlice sl (fun q => inc.isNone || bestEffort q) d1

/-- A trigger of R146 on an active slice that is not being retired already (R146 to R148). -/
def sliceFault (slice : Slice) (t : SliceTrigger) (d : Dev) : Dev :=
  if d.fab.active.contains slice then
    let d1 := match t with
      | .uncorrectable => bump 0x2207 9 d
      | .parity => d
      | .correctable => bumpBy 0x2207 8 (cfg d 0x2206 1 + 1) d
    if d1.fab.works.any (fun w => w.slice = slice && !w.rotation) then d1
    else retireSlice slice (match t with | .uncorrectable => 1 | .parity => 2 | .correctable => 3) d1
  else d

/-- Frames' cells move from a slice to the one that takes its place. -/
def moveCells (a b : Slice) (f : FabricS) : FabricS :=
  { f with
    cells := f.cells.map (fun c => (c.1, c.2.map (fun x => if x = a then b else x)))
    lastFirst := if f.lastFirst = some a then some b else f.lastFirst }

/-- A slice takes another's place: its stored cells, and those of frames in transmission. -/
def moveSlice (a b : Slice) (d : Dev) : Dev :=
  onFab (moveCells a b) { d with ports := { d.ports with
    p := d.ports.p.map (fun t => { t with txCells := t.txCells.map (fun x => if x = a then b else x) }) } }

/-- The slice before another in the allocation order. -/
def sliceBefore (active : List Slice) (s : Slice) : Option Slice :=
  match active.findIdx (· = s) with
  | 0 => (active.filter (· ≠ s)).getLast?
  | i + 1 => active[i]?

/-- RETIREMENT_COMPLETE (R147, R150): at most 250 µs after the trigger; the duration is a free value. DESIGN CHOICE, safe
(log entry 40). -/
def execRetirementComplete (s : State) : Result :=
  s.does fun d =>
    match d.fab.works.find? (!·.rotation) with
    | some w =>
      let us := Config.freeNat d.fresh % 251
      let d1 := arrive (w.started + us * usNs) (draw d)
      let d2 := onFab (fun f => { f with
        works := f.works.filter (fun x => x.slice ≠ w.slice), retired := f.retired ++ [w.slice] }) d1
      let d3 := match w.incoming with
        | some i => moveSlice w.slice i (onFab (fun f => { f with
            active := f.active.map (fun x => if x = w.slice then i else x), spare := none }) d2)
        | none => onFab (fun f => { f with
            active := f.active.filter (· ≠ w.slice)
            lastFirst := if f.lastFirst = some w.slice then sliceBefore f.active w.slice else f.lastFirst }) d2
      raise evSliceRetired w.slice.val (setReg 0x2206 5 us (setReg 0x2206 4 w.cause (bump 0x2207 6 d3)))
    | none => d

/-- SPARE_TEST_PASS: a pass of the spare's test ends, in Service 0x2206:02 after it started, in Test-in-service with full
coverage at any moment; other profiles do not test the spare (R145, R150). -/
def execSpareTestPass (s : State) : Result :=
  s.does fun d =>
    if (freeSpare d).isSome && (d.node.profile = 0 || d.node.profile = 3) then
      let d1 := if d.node.profile = 0 then arrive (d.fab.passStart + cfg d 0x2206 2 * sNs) d else d
      bump 0x2200 9 (onFab (fun f => { f with shadow := f.shadow + 1, passStart := d1.now }) d1)
    else d

/-- SPARE_TEST_FAILURE (R146, R150). -/
def execSpareTestFailure (s : State) : Result :=
  s.does fun d =>
    match freeSpare d with
    | some sp => raise evSpareFailed sp.val (setReg 0x2206 4 4 (bump 0x2207 0x0A
        (onFab (fun f => { f with spare := none, retired := f.retired ++ [sp] }) d)))
    | none => d

/-- A rotation of an active slice may start (R149). -/
def mayRotate (d : Dev) (sl : Nat) : Bool :=
  (freeSpare d).isSome && d.fab.works.isEmpty && d.fab.active.any (fun s => s.val = sl)

/-- Starts a planned rotation (R149). -/
def startRotation (sl : Slice) (d : Dev) : Dev :=
  onFab (fun f => { f with works := f.works ++
    [{ slice := sl, incoming := freeSpare d, rotation := true, cause := 5, started := d.now }] }) d

/-- The copy of a planned rotation ends within 197 µs, and the roles of the two slices are exchanged (R149, R150). DESIGN
CHOICE, safe (log entry 40). -/
def rotationEnds (w : SliceWork) (i : Slice) (d : Dev) : Dev :=
  let us := Config.freeNat d.fresh % 198
  let d1 := arrive (w.started + us * usNs) (draw d)
  let d2 := moveSlice w.slice i (onFab (fun f => { f with
    works := f.works.filter (fun x => x.slice ≠ w.slice)
    active := f.active.map (fun x => if x = w.slice then i else x), spare := some w.slice, passStart := d1.now }) d1)
  raise evRotated w.slice.val (setReg 0x2206 5 us (setReg 0x2206 4 5 d2))

end Sys2Proof.Machine
end

