-- ==== Sys2Proof/Machine/Routing.lean ====
section
/-! DEFINITION. The decision on a frame: banks and translation, destinations, queue classes, learning, and the reception of
a frame on a port (R119 to R139, R175 to R178, R202, R243 to R246). -/

namespace Sys2Proof.Machine

/-! ### Banks and translation (R133 to R138) -/

/-- The active translation bank's resolution, none before the first switch point (R152). -/
def bankNow (d : Dev) : Option BankEpoch := if d.fab.bank then d.fab.bank1 else d.fab.bank0

/-- The previous bank while its epoch is honoured (R101, R135). -/
def bankPrev (d : Dev) : Option BankEpoch :=
  if d.inaug.overlapEnd.isSome then (if d.fab.bank then d.fab.bank0 else d.fab.bank1) else none

/-- Consist number of the train subnet that an address lies in; 0 for none (R133). -/
def trainConsist (ip : Nat) : Nat :=
  if 0x0A800000 + 0x4000 ≤ ip && ip < 0x0A800000 + 0x4000 * 33 then (ip - 0x0A800000) / 0x4000 else 0

/-- An address lies in a bank's own train subnet. -/
def inOwnSubnet (b : Option BankEpoch) (ip : Nat) : Bool :=
  match b with
  | some b => b.consist ≠ 0 && trainConsist ip = b.consist
  | none => false

/-- Which bank a frame follows (R137): none, or some true for the previous bank. -/
def chooseBank (d : Dev) (fromBackbone : Bool) (bs : List Byte) : Option Bool :=
  let topo := trdpTopo bs
  if topo ≠ 0 then
    if (bankNow d).any (fun b => b.topo.toNat = topo) then some false
    else if (bankPrev d).any (fun b => b.topo.toNat = topo) then some true
    else none
  else if !fromBackbone || !isIpv4 bs then some false
  else if inOwnSubnet (bankNow d) (ipDst bs) then some false
  else if inOwnSubnet (bankPrev d) (ipDst bs) then some true
  else some false

/-- The resolved prefix of a record in a bank. -/
def resolvedOf (b : BankEpoch) (t : TransRec) : Option Nat := (b.resolved.find? (fun x => x.1 = t.row)).map (·.2)

/-- Outbound translation of a source address (R136). -/
def translateOut (d : Dev) (b : BankEpoch) (ip : Nat) : Option Nat :=
  (transRecords d.dict.mem).findSome? fun t =>
    if t.outbound && ip / t.size = t.pfx / t.size then (resolvedOf b t).map (· + ip % t.size) else none

/-- Inbound translation of a destination address (R136). -/
def translateIn (d : Dev) (b : BankEpoch) (ip : Nat) : Option Nat :=
  (transRecords d.dict.mem).findSome? fun t =>
    match resolvedOf b t with
    | some p =>
      if t.inbound && ip / t.size = p / t.size then some (t.pfx / t.size * t.size + (ip - p) % t.size) else none
    | none => none

/-- Resolves every valid record for an epoch (R135). -/
def resolveBank (d : Dev) (n : Numbering) : BankEpoch :=
  { epoch := n.epoch, topo := n.topo, consist := n.consist,
    resolved := if n.consist = 0 then [] else
      (transRecords d.dict.mem).map (fun t => (t.row, 0x0A800000 + 0x4000 * n.consist + t.offset)) }

/-- At a switch point the incoming bank is resolved and becomes active (R135). -/
def switchBank (n : Numbering) (d : Dev) : Dev :=
  let b := resolveBank d n
  onFab (fun f => if f.bank then { f with bank0 := some b, bank := false } else { f with bank1 := some b, bank := true }) d

/-- When the overlap window ends, the outgoing bank is cleared (R135). -/
def clearOldBank (d : Dev) : Dev := onFab (fun f => if f.bank then { f with bank0 := none } else { f with bank1 := none }) d

/-! ### What a backbone port passes -/

/-- The lane B port of a side with crossed lanes (R72). -/
def crossedPort (d : Dev) (p : Port) : Bool :=
  (p.val = 2 && d.inaug.crossedFront) || (p.val = 3 && d.inaug.crossedRear)

/-- Only protocol frames pass a backbone port at epoch 0, at a held coupling and on a crossed lane B (R72, R104, R109). -/
def protocolOnly (d : Dev) (p : Port) : Bool :=
  isBackbone p && (d.inaug.now.epoch = 0 || d.inaug.heldCouplings.contains p || crossedPort d p)

/-- Backbone frames that a node in safe forwarding passes from side to side pass whatever the epoch (R107); a held coupling
and a crossed lane B still stop them. -/
def passesThrough (d : Dev) (ing : Option Port) (p : Port) : Bool :=
  safeLow d && ing.any isBackbone && isBackbone p && !d.inaug.heldCouplings.contains p && !crossedPort d p

/-- A time-synchronisation frame, which a held coupling and epoch 0 let pass (R104, R109). DESIGN CHOICE, unsafe (log entry
45). -/
def isTimeFrame (bs : List Byte) : Bool := (ptpAt bs).isSome

/-- A frame may pass a port. -/
def mayPass (d : Dev) (bs : List Byte) (p : Port) : Bool :=
  !protocolOnly d p || (isTimeFrame bs && !crossedPort d p)

/-! ### Decisions (R119, R123) -/

/-- A decision of the lookup (R123). -/
structure Decision where
  ports : List Port
  host : Bool
  /-- queue override of a record -/
  override : Option Nat
  bytes : List Byte
  prevBank : Bool
  copyToHost : Bool
  untranslatable : Bool
  /-- the discard flag of a record (R128, R129) -/
  discard : Bool
  deriving DecidableEq, Repr

/-- A decision that names no destination. -/
def Decision.nowhere (bs : List Byte) : Decision :=
  { ports := [], host := false, override := none, bytes := bs, prevBank := false, copyToHost := false,
    untranslatable := false, discard := false }

/-- Queue override of byte 10 or 13 of a record: 0 to 4, 0xFF for none (R128, R129). -/
def overrideOf (v : Nat) : Option Nat := if v ≤ 4 then some v else none

/-- Sides of the backbone that a frame may leave on: not the side it came from; one lane on each (R138). DESIGN CHOICE,
unsafe (log entry 36). -/
def otherSides (d : Dev) (ing : Option Port) : List Port :=
  ([false, true] : List Bool).filterMap fun rear =>
    match ing with
    | some p => if isBackbone p && isRear p = rear then none else some (laneFor d rear)
    | none => some (laneFor d rear)

/-- The ports of a VLAN for a flooded frame (R132): every consist port, and the backbone on one lane of each side. DESIGN
CHOICE, unsafe (log entry 35). -/
def floodPorts (d : Dev) (ing : Option Port) : List Port := allPorts.filter (fun p => !isBackbone p) ++ otherSides d ing

/-- Lookup of a destination address and VLAN in the tables (R126, R128, R129, R131, R132). DESIGN CHOICE, unsafe (log entry
35); DESIGN CHOICE, unsafe (log entry 36). -/
def lookupDest (d : Dev) (ing : Option Port) (mac vlan : Nat) (bs : List Byte) : Decision :=
  let base := Decision.nowhere bs
  if isGroup mac then
    match findMulticast d mac vlan with
    | some r =>
      let fl := leNat (slice r 12 1)
      let m := leNat (slice r 8 4)
      if bitOf fl 2 then { base with discard := true }
      else { base with
        ports := (maskPorts m ++ (if bitOf fl 1 then otherSides d ing else [])).eraseDups
        host := bitOf m 20, override := overrideOf (leNat (slice r 13 1)) }
    | none => if cfg d 0x2201 5 = 0 then { base with ports := floodPorts d ing } else base
  else
    match findUnicast d mac vlan with
    | some (_, r) =>
      let fl := leNat (slice r 8 1)
      let e := leNat (slice r 9 1)
      if bitOf fl 2 then { base with discard := true }
      else { base with
        ports := allPorts.filter (fun p => p.val = e), host := e = 20 || bitOf fl 3, copyToHost := bitOf fl 3 && e ≠ 20
        override := overrideOf (leNat (slice r 10 1)) }
    | none =>
      match findLearned d mac vlan with
      | some l => { base with ports := [l.port] }
      | none =>
        if mac = d.chip.ident.toNat then { base with host := true }
        else if cfg d 0x2201 5 = 0 then { base with ports := floodPorts d ing } else base

/-- A frame without a bank or with an address that its bank cannot resolve (R137). -/
def untranslatable (d : Dev) (bs : List Byte) : Decision :=
  { Decision.nowhere bs with host := cfg d 0x2202 3 = 1, untranslatable := true }

/-- A frame bound for the train subnet of consist `k` (R136 to R138). DESIGN CHOICE, unsafe (log entry 36). -/
def routeTrain (d : Dev) (ing : Option Port) (vlan k : Nat) (prev : Bool) (bs : List Byte) : Decision :=
  let fromBackbone := ing.any isBackbone
  let on := cfgB d 0x2202 1
  let b := (if prev then bankPrev d else bankNow d).getD (BankEpoch.mk 0 0 0 [])
  let num := if prev then d.inaug.prev.getD d.inaug.now else d.inaug.now
  let src := if fromBackbone || !on then some bs else (translateOut d b (ipSrc bs)).map (fun a => setIp 12 a bs)
  match src with
  | none => untranslatable d bs
  | some bs1 =>
    if b.consist ≠ 0 && k = b.consist then
      match if on then (translateIn d b (ipDst bs)).map (fun a => setIp 16 a bs1) else some bs1 with
      | none => untranslatable d bs
      | some bs2 =>
        let l := lookupDest d ing (frameDest bs2) vlan bs2
        let inside := l.ports.filter (fun p => !isBackbone p)
        if inside.isEmpty && l.host && frameDest bs2 = d.chip.ident.toNat && (findUnicast d (frameDest bs2) vlan).isNone then
          { l with ports := if cfg d 0x2201 5 = 0 then allPorts.filter (fun p => !isBackbone p) else [], prevBank := prev }
        else { l with ports := inside, prevBank := prev }
    else
      match primaryOf num k with
      | none => untranslatable d bs
      | some (node, ident) =>
        match sideOf num node with
        | none => untranslatable d bs
        | some rear =>
          { Decision.nowhere (splice bs1 0 (beBytes 6 ident)) with ports := [laneFor d rear], prevBank := prev }

/-- A backbone frame addressed to another identity (R107, R138). DESIGN CHOICE, unsafe (log entry 36). -/
def transit (d : Dev) (p : Port) (mac vlan : Nat) (bs : List Byte) : Decision :=
  let base := Decision.nowhere bs
  if safeLow d then { base with ports := [sidePort (!isRear p) (decide (2 ≤ p.val))] }
  else
    let bySide (n : Numbering) : Option Port := ((nodeNumberOf n mac).bind (sideOf n)).map (laneFor d)
    let prev := if d.inaug.overlapEnd.isSome then d.inaug.prev.bind bySide else none
    match bySide d.inaug.now, prev with
    | some q, _ => { base with ports := [q] }
    | none, some q => { base with ports := [q] }
    | none, none =>
      if (d.inaug.prev.bind (fun n => nodeNumberOf n mac)).isSome then base else lookupDest d (some p) mac vlan bs

/-- The decision on a frame, before stream identification (R119, R137). -/
def decideFrame (d : Dev) (ing : Option Port) (vlan : Nat) (bs : List Byte) : Decision :=
  let mac := frameDest bs
  let back := ing.filter isBackbone
  match back with
  | some p =>
    if mac ≠ d.chip.ident.toNat && !isGroup mac then transit d p mac vlan bs
    else
      let l := viaBank d back.isSome
      if safeLow d && isGroup mac then { l with ports := sidePort (!isRear p) (decide (2 ≤ p.val)) :: l.ports.filter (!isBackbone ·) }
      else l
  | none => viaBank d false
where
  /-- The bank's part of the decision (R137). -/
  viaBank (d : Dev) (fromBackbone : Bool) : Decision :=
    let k := if isIpv4 bs then trainConsist (ipDst bs) else 0
    match chooseBank d fromBackbone bs with
    | none =>
      if cfgB d 0x2202 1 then untranslatable d bs
      else if k = 0 then lookupDest d ing (frameDest bs) vlan bs else routeTrain d ing vlan k false bs
    | some prev =>
      if k = 0 then { lookupDest d ing (frameDest bs) vlan bs with prevBank := prev } else routeTrain d ing vlan k prev bs

/-! ### Queue classes and copies (R139, R238, R243, R268) -/

/-- Network control frames (R139). -/
def networkControl (bs : List Byte) : Bool :=
  etherType bs = 0x88B5 || etherType bs = 0x88CC || etherType bs = 0x894C || (ptpAt bs).isSome

/-- Where a stream's frame goes and how it is classed. -/
structure StreamMatch where
  tx : List GateEntry
  res : List ResPlaced
  /-- the stream has a redundant window at this node: its R-TAG goes before delivery (R244) -/
  strip : Bool
  deriving DecidableEq, Repr

/-- The gate entries and reservations that a destination address and VLAN match (R238, R244, R268). -/
def matchStream (d : Dev) (mac vlan : Nat) : StreamMatch :=
  { tx := txEntries d mac vlan, res := resEntries d mac vlan
    strip := scheduleActive d && d.sched.gates.any (fun g => g.redundant && g.stream.toNat = mac && g.vlan = vlan) }

/-- Egress ports with the windows and reservations of the stream (R228, R267); a discarded or untranslatable frame has none
(R123, R137). -/
def withStream (m : StreamMatch) (x : Decision) : List Port :=
  if x.discard || x.untranslatable then []
  else if !m.tx.isEmpty then (x.ports.filter (!isBackbone ·) ++ m.tx.map (·.port)).eraseDups
  else if !m.res.isEmpty then (x.ports.filter (!isBackbone ·) ++ m.res.flatMap (·.ports)).eraseDups
  else x.ports

/-- Queue of a copy at a port (R139, R238, R268); `best` is the queue of a host descriptor. -/
def queueFor (d : Dev) (m : StreamMatch) (bs : List Byte) (pcp : Nat) (best : Option Nat) (o : Option Nat) (p : Port) :
    Fin 8 :=
  if gatesRun d && m.tx.any (·.port = p) then 6
  else if m.res.any (fun r => r.ports.contains p) then 5
  else match best with
    | some q => Fin.ofNat 8 q
    | none => if networkControl bs then 7 else Fin.ofNat 8 (o.getD (cfg d 0x2203 (1 + pcp % 8)))

/-- Class of the copy for the host queue. -/
def hostClass (d : Dev) (m : StreamMatch) (bs : List Byte) (pcp : Nat) (o : Option Nat) : Nat :=
  if gatesRun d && !m.tx.isEmpty then 6 else if !m.res.isEmpty then 5
  else if networkControl bs then 7 else o.getD (cfg d 0x2203 (1 + pcp % 8))

/-- This node is the talker node of a window: it holds no receive entry of it (R228). -/
def isTalkerOf (d : Dev) (w : Nat) : Bool := !d.sched.gates.any (fun g => g.receive && g.window = w)

/-- The talker's R-TAG: the frame with the next sequence number of its redundant window (R243). DESIGN CHOICE, unsafe (log
entry 56). -/
def tagAtTalker (m : StreamMatch) (bs : List Byte) (d : Dev) : List Byte × Dev :=
  match m.tx.find? (fun g => g.redundant && isTalkerOf d g.window) with
  | some g =>
    let q := seqOf d g.window
    (insertRtag q.next bs, setSeq { q with next := q.next + 1 } d)
  | none => (bs, d)

/-- What a frame brings into the queues. -/
structure Arrival where
  ingress : Option Port
  vlan : Nat
  pcp : Nat
  stamp : Nat
  best : Option Nat
  /-- cells that its admission needs; none for its own length -/
  need : Option Nat
  rate : Option Nat
  launch : Option (BitVec 32)
  tsIdent : Option Nat
  host : Option HostOrigin
  deriving DecidableEq, Repr

/-- A copy before its port is known. -/
def newFrame (d : Dev) (a : Arrival) (x : Decision) (bs : List Byte) : QFrame :=
  { uid := d.fab.nextUid, bytes := bs, ingress := a.ingress, cls := 0, vlan := a.vlan, pcp := a.pcp, stamp := a.stamp,
    queuedAt := d.now, stepGen := d.time.stepGen, unsure := !d.time.state.sure,
    epoch := if x.prevBank then (d.inaug.prev.map (·.epoch)).getD 0 else d.inaug.now.epoch, prevBank := x.prevBank,
    copyToHost := x.copyToHost, untranslatable := x.untranslatable, errFlags := 0, trailer := none, cut := false, spilled := false,
    window := none, launch := a.launch, tsIdent := a.tsIdent, host := a.host }

/-- What is left of a decision at epoch 0 for a backbone frame that is no time frame: the way through (R107, R109). -/
def atEpochZero (d : Dev) (ing : Option Port) (x : Decision) : Decision :=
  if d.inaug.now.epoch = 0 && ing.any isBackbone && !isTimeFrame x.bytes then
    { x with ports := x.ports.filter isBackbone, host := false, copyToHost := false }
  else x

/-- Sends the copies of a decided frame to their queues (R119, R137, R141, R244). -/
def dispatchFrame (a : Arrival) (m : StreamMatch) (x0 : Decision) (d : Dev) : Dev :=
  let x := atEpochZero d a.ingress x0
  let ports := (withStream m x).filter
    (fun p => some p ≠ a.ingress && (mayPass d x.bytes p || passesThrough d a.ingress p))
  let (bs, d1) := if a.ingress.any isBackbone then (x.bytes, d) else tagAtTalker m x.bytes d
  let f := newFrame d1 a x bs
  let d2 := onFab (fun b => { b with nextUid := b.nextUid + 1 }) d1
  let d3 := onlyIf x.untranslatable (bump 0x2207 0x0D) d2
  let d4 := forEach ports (fun p d =>
    let q := queueFor d m x.bytes a.pcp a.best x.override p
    let fp : QFrame := { f with
      bytes := if isBackbone p || !m.strip then bs else stripRtag bs
      window := if q = 6 then (m.tx.find? (·.port = p)).map (·.window) else none }
    admitPort fp (a.need.getD (frameCells fp)) a.rate p q d) d3
  let fh : QFrame := { f with bytes := if m.strip then stripRtag bs else bs, cls := hostClass d1 m x.bytes a.pcp x.override }
  let delivered := (queued d4).any (fun y => y.2.2.uid = f.uid) || (x.host && hostTakes d4 fh (a.need.getD (frameCells fh)))
  let d5 := onlyIf (x.prevBank && delivered) (bump 0x2207 0x0E)
    (onlyIf x.host (admitHost fh (a.need.getD (frameCells fh))) d4)
  if (queued d5).any (fun y => y.2.2.uid = f.uid) || d5.fab.hostQueue.any (fun y => y.uid = f.uid) then d5
  else settle f (if ports.isEmpty && !x.host then 5
    else if x.host && pcieUp d5 then 0
    else if !ports.isEmpty && ports.all (fun p => !portUp d5 p) then 3 else 2) d5

/-! ### Frames that the device originates (R139, R141, R162) -/

/-- A frame of the device's own without FCS, padded to the shortest frame: destination, the node identity as source (R162),
EtherType and payload. -/
def ownFrame (d : Dev) (dest type : Nat) (payload : List Byte) : List Byte :=
  let bs := beBytes 6 dest ++ beBytes 6 d.chip.ident.toNat ++ beBytes 2 type ++ payload
  bs ++ List.replicate (60 - bs.length) 0

/-- The reserved group address 01-80-C2-00-00-0E (R78, R231, R395). -/
def nearestBridge : Nat := 0x0180C200000E

/-- A frame that the device originates is admitted at a port's queue against its own length (R139, R141). DESIGN CHOICE,
unsafe (log entry 37). -/
def sendOwn (p : Port) (q : Fin 8) (bs : List Byte) (d : Dev) : Dev :=
  let (vlan, pcp) := classifyOwn bs
  let a : Arrival := ⟨none, vlan, pcp, halfOf (trainRaw d.time), none, none, none, none, none, none⟩
  let f := newFrame d a (Decision.nowhere bs) bs
  admitPort f (frameCells f) none p q (onFab (fun b => { b with nextUid := b.nextUid + 1 }) d)

/-- The checksum of an IPv4 header whose checksum field is 0. -/
def ipChecksum (h : List Byte) : Nat :=
  0xFFFF - foldSum (((List.range (h.length / 2)).map (fun i => beNat (slice h (2 * i) 2))).sum)

/-- A UDP datagram over IPv4 with no options and no UDP checksum. PRESUMED, unsafe (log entry 115). -/
def udpDatagram (src dst sport dport : Nat) (data : List Byte) : List Byte :=
  let head (csum : Nat) : List Byte := beBytes 2 0x4500 ++ beBytes 2 (28 + data.length) ++ beBytes 2 0 ++ beBytes 2 0x4000 ++
    beBytes 2 0x4011 ++ beBytes 2 csum ++ beBytes 4 src ++ beBytes 4 dst
  head (ipChecksum (head 0)) ++ beBytes 2 sport ++ beBytes 2 dport ++ beBytes 2 (8 + data.length) ++ beBytes 2 0 ++ data

/-! ### Learning (R131) -/

/-- Learns or refreshes a source address (R131). DESIGN CHOICE, safe (log entry 43). -/
def learn (p : Port) (mac vlan : Nat) (d : Dev) : Dev :=
  if !bitOf (cfg d 0x2201 3) p.val || d.node.profile = 4 then d
  else if (findUnicast d mac vlan).isSome then d
  else match findLearned d mac vlan with
    | some _ => onFab (fun f => { f with
        learned := f.learned.map (fun l => if l.mac = mac && l.vlan = vlan then { l with seen := d.now } else l) }) d
    | none =>
      let rows := (List.range 4).map (fun w => 4 * (tableHash mac vlan % 1024) + w)
      let free := rows.find? fun r =>
        !bitOf (leNat (slice (rowBytes d 0x5000 r) 8 1)) 0 && !d.fab.learned.any (fun l => l.row = r)
      match free with
      | some r => onFab (fun f => { f with
          learned := f.learned ++ [{ row := r, mac := mac, vlan := vlan, port := p, seen := d.now }] }) d
      | none => bump 0x2207 0x0F d

/-! ### Arrival of scheduled frames (R244, R246) -/

/-- Classes the accepted copy against its receive entry (R246). -/
def classArrival (g : GateEntry) (d : Dev) : Dev :=
  let t := sinceOpen d g (trainTime d)
  let guard_ := guardNow d g
  let mark (d : Dev) : Dev := { d with sched := { d.sched with
    arrived := if d.sched.arrived.contains (g.port, g.window) then d.sched.arrived
               else (g.port, g.window) :: d.sched.arrived } }
  if t + guard_ < g.length then mark d
  else if t < g.length then mark (bumpWin g.window 2 (bump 0x2505 2 d))
  else bumpWin g.window 3 (bump 0x2505 3 d)

/-- Sequence recovery of a copy on a redundant window (R244): whether the copy is passed on. DESIGN CHOICE, unsafe (log entry
44). -/
def takeCopy (g : GateEntry) (bs : List Byte) (d : Dev) : Bool × Dev :=
  if g.redundant && hasRtag bs then
    let (k, q) := recoverSeq (rtagSeq bs) (seqOf d g.window)
    let d1 := setSeq { q with resetAt := some (d.now + cfg d 0x2501 8 * msNs) } d
    match k with
    | .accepted => (true, d1)
    | .duplicate => (false, bumpWin g.window 4 (bump 0x2505 4 d1))
    | .rogue => (false, bump 0x2505 5 d1)
  else (true, d)

/-! ### Reception on a port (R119, R166, R175 to R178) -/

/-- Class of a received frame: its counter and error flag, none for a good frame (R175, R177). DESIGN CHOICE, unsafe (log
entry 124). -/
def errorClass (d : Dev) (p : Port) (f : RxFrame) : Option (Nat × Nat) :=
  let len := f.bytes.length + 4
  if len < 64 then some (0x27, 2)
  else if cfg d (0x2300 + p.val) 4 < len then some (0x28, 4)
  else if !f.fcsOk then some (0x26, 1)
  else if f.alignError then some (0x29, 8)
  else if f.symbolError then some (0x2A, 16)
  else none

/-- Byte `i` of a frame's payload. -/
def payloadByte (bs : List Byte) (i n : Nat) : Nat := beNat (slice bs (payloadAt bs + i) n)

/-- Frames of the device's own protocols that the device consumes with what it counts of the malformed ones (R82, R161, R202,
R231, R395); none for every other frame. PRESUMED, unsafe (log entry 28); DESIGN CHOICE, unsafe (log entry 37); PRESUMED,
unsafe (log entry 49). -/
def consumed (p : Port) (bs : List Byte) : Option (Dev → Dev) :=
  let rest := bs.length - payloadAt bs
  match etherType bs with
  | 0x88B5 =>
    let len := payloadByte bs 14 2
    let kind := payloadByte bs 2 1
    let away (d : Dev) : Bool := if kind = 11 then cfg d 0x2106 1 ≠ p.val else !isBackbone p
    let bad := rest ≠ max (60 - payloadAt bs) (20 + len) || payloadByte bs 0 1 ≠ 0x5C || payloadByte bs 1 1 ≠ 1 ||
      kind = 0 || 11 < kind || payloadByte bs 16 1 = 63
    some (fun d => onlyIf (bad || away d) (bump 0x2107 7) d)
  | 0x88B6 =>
    let kind := payloadByte bs 0 1
    let len := payloadByte bs 2 2
    let bad := !isBackbone p || isTagged bs || kind = 0 || 3 < kind || payloadByte bs 1 1 ≠ 1 || 1024 < len ||
      (kind ≠ 3 && len ≠ 0) || rest < 32 + len || payloadByte bs 28 4 ≠ 0 ||
      (kind ≠ 1 && (payloadByte bs 12 8 ≠ 0 || payloadByte bs 24 4 ≠ 0 || 191 < payloadByte bs 20 4)) ||
      (kind = 1 && (payloadByte bs 20 4 = 0 || 196608 < payloadByte bs 20 4))
    some (onlyIf bad (bump 0x2505 0x0B))
  | 0x88B7 =>
    let bad := !isBackbone p || payloadByte bs 0 1 ≠ 1 || payloadByte bs 1 1 ≠ 1 || 64 ≤ payloadByte bs 2 1 ||
      payloadByte bs 3 1 ≠ 0 || payloadByte bs 18 6 ≠ 0 || rest < 24
    some (onlyIf bad (bump 0x2B07 6))
  | 0x88CC => if isBackbone p then some id else none
  | 0x894C => if isBackbone p then some id else none
  | 0x88F7 => if isGptp bs then some id else none
  | 0x8808 =>
    some (if payloadByte bs 0 2 = 1 then takePause p (payloadByte bs 2 2) else takeMacControl p)
  | _ => none

/-- An errored frame (R121, R176, R177): the part already sent cut-through ends with a bad FCS, and the frame goes to the
host queue when 0x2300 + p:08 says so. DESIGN CHOICE, unsafe (log entry 37). -/
def takeErrored (p : Port) (f : RxFrame) (counter flag : Nat) (d : Dev) : Dev :=
  let d1 := bump (0x2300 + p.val) counter d
  let (vlan, pcp) := classify d p f.bytes
  let thru := if 256 < f.bytes.length + 4 && (flag = 1 || flag = 16) && d.fab.forwarding && (consumed p f.bytes).isNone then
      let x := decideFrame d (some p) vlan f.bytes
      let m := matchStream d (frameDest f.bytes) vlan
      ((withStream m x).filter (fun o => o ≠ p && mayPass d f.bytes o && portUp d o &&
        cutAt d o (queueFor d m f.bytes pcp none x.override o) (some (rateMbps d.ports.p[p].rate)) &&
        decide (d.ports.p[o].txUntil ≤ d.now)))
    else []
  let d2 := if thru.isEmpty then d1 else bump 0x2207 0x0C (emits (thru.map Out.badFcs) d1)
  if !cfgB d2 (0x2300 + p.val) 8 || f.bytes.length + 4 < 14 then d2
  else
    let limit := cfg d2 (0x2300 + p.val) 4
    let cut := flag = 4
    let whole := f.bytes ++ (if f.fcsOk then leBytes 4 (crc32 f.bytes).toNat else leBytes 4 (Config.freeNat d2.fresh))
    let kept := if cut then whole.take limit else whole
    let bs := kept.take (kept.length - 4)
    let q : QFrame := { newFrame d2 ⟨some p, vlan, pcp, rxStamp d2 p, none, none, none, none, none, none⟩
      (Decision.nowhere bs) bs with
        errFlags := flag + (if cut then 32 else 0), trailer := some (kept.drop (kept.length - 4)) }
    let need := cellsFor limit
    let d3 := bump (0x2300 + p.val) (if hostRoom d2 need then 0x2B else 0x2C)
      (onFab (fun b => { b with nextUid := b.nextUid + 1 }) (draw d2))
    admitHost q need d3

/-- A decision that a lone engine with a fault takes: nothing is compared, and what it decides is free (R123, R124). -/
def corrupted (p : Port) (bs : List Byte) (d : Dev) : Decision × Dev :=
  let n := Config.freeNat d.fresh
  ({ Decision.nowhere (splice bs 0 (leBytes 12 (Config.freeNat (d.fresh + 1)))) with
      ports := (maskPorts (n % 2 ^ 20)).filter (· ≠ p), host := bitOf n 20, override := some (n / 2 ^ 21 % 5) },
    draw (draw d))

/-- Whether the comparison finds a difference, and whether a lone engine's fault goes unseen (R123, R124). DESIGN CHOICE,
safe (log entry 39). -/
def engineVerdict (d : Dev) (e : EngineFault) : Bool × Bool :=
  match d.fab.engine0, d.fab.engine1 with
  | .inService, .inService => (e.wrong0 || e.wrong1, false)
  | .inService, _ => (false, e.wrong0)
  | _, .inService => (false, e.wrong1)
  | _, _ => (false, false)

/-- Each engine in service makes a decision (R522). DESIGN CHOICE, unsafe (log entry 44). -/
def countDecisions (d : Dev) : Dev :=
  onlyIf (d.fab.engine1 = .inService) (countEv 0x006 1 0 1)
    (onlyIf (d.fab.engine0 = .inService) (countEv 0x006 0 0 1) d)

/-- A good frame that is not consumed (R119, R123, R131, R244, R246). DESIGN CHOICE, unsafe (log entry 37). -/
def takeGood (p : Port) (bs : List Byte) (e : EngineFault) (d : Dev) : Dev :=
  let (vlan, pcp) := classify d p bs
  if !d.fab.forwarding || !(mayPass d bs p || passesThrough d (some p) p) then d
  else
    let d0 := countDecisions d
    let (differ, unseen) := engineVerdict d0 e
    if differ then mismatch e d0
    else
      let d1 := learn p (frameSrc bs) vlan d0
      let a : Arrival := ⟨some p, vlan, pcp, rxStamp d p, none, some (cellsFor (cfg d (0x2300 + p.val) 4)),
        some (rateMbps d.ports.p[p].rate), none, none, none⟩
      if unseen then
        let (x, d2) := corrupted p bs d1
        dispatchFrame a { tx := [], res := [], strip := false } x d2
      else
        let (pass, d2) := match rxEntry d1 p (frameDest bs) vlan with
          | some g => let (ok, d2) := takeCopy g bs d1; (ok, onlyIf ok (classArrival g) d2)
          | none => (true, d1)
        if pass then dispatchFrame a (matchStream d2 (frameDest bs) vlan) (decideFrame d2 (some p) vlan bs) d2 else d2

/-- FRAME_RECEIVE (R119, R166, R175 to R178). DESIGN CHOICE, unsafe (log entry 37). -/
def execFrameReceive (p : Port) (f : RxFrame) (e : EngineFault) (s : State) : Result :=
  s.does fun d =>
    if !portUp d p then d
    else match errorClass d p f with
      | some (c, flag) => takeErrored p f c flag d
      | none =>
        let d1 := countGood p (f.bytes.length + 4) d
        match consumed p f.bytes with
        | some act => act d1
        | none => takeGood p f.bytes e d1

end Sys2Proof.Machine
end

