-- ==== Sys2Proof/Machine/Egress.lean ====
section
/-! DEFINITION. The egress MAC: gates, shaper, launch times and the start of a frame (R119, R202, R210, R211, R237 to R241,
R268), with the meanings of EGRESS_SEND, LAUNCH_TIME and LAUNCH_LATE_DISCARD. -/

namespace Sys2Proof.Machine

/-! ### Gates (R238 to R240) -/

/-- Train time of the next opening of a window at a port, at or after `t` (R240). DESIGN CHOICE, unsafe (log entry 38). -/
def nextOpening (d : Dev) (p : Port) (t : Nat) : Option Nat :=
  match schedCycle d with
  | some (c, b) =>
    (d.sched.gates.filter (fun g => !g.receive && g.port = p)).foldl (fun acc g =>
      let o := firstInstant (b + g.openNs) c (max t (d.sched.cutUntil.getD 0))
      match acc with
      | none => some o
      | some x => some (min x o)) none
  | none => none

/-- Time from the start of a frame to its last bit, ns: preamble, frame and FCS. -/
def sendNs (d : Dev) (p : Port) (n : Nat) : Nat := wireNs d p (n + 8)

/-- The gate of the queue lets the frame start now (R239, R240). DESIGN CHOICE, unsafe (log entry 38). -/
def gateLets (d : Dev) (p : Port) (q : Fin 8) (f : QFrame) : Bool :=
  if !gatesRun d then true
  else match windowNow d p with
    | some w =>
      let n := if f.cut then w.entry.maxFrame else f.bytes.length + 4
      q = 6 && !w.closed && decide (trainTime d + sendNs d p n ≤ w.closeAt)
    | none =>
      let n := if f.cut then cfg d (0x2300 + p.val) 4 else f.bytes.length + 4
      q ≠ 6 && match nextOpening d p (trainTime d) with
        | some o => decide (trainTime d + sendNs d p n < o)
        | none => true

/-! ### Credit-based shaper of Q5 (R268) -/

/-- Idle slope of a port, bit/s: the sum of the bandwidths placed at it. -/
def idleSlope (d : Dev) (p : Port) : Nat :=
  ((resBank d).filter (fun r => r.ports.contains p)).foldl (fun n r => n + r.bandwidth * 100000) 0

/-- Credit of a port at present, for a queue whose head has waited since `since`. DESIGN CHOICE, unsafe (log entry 60). -/
def creditNow (d : Dev) (p : Port) (since : Nat) : Int :=
  let (c, last) := d.strm.credit[p]
  let s : Int := idleSlope d p
  let atArrival := if last < since then min 0 (c + s * ((since - last : Nat) : Int)) else c
  atArrival + s * ((d.now - max last since : Nat) : Int)

/-- Stores a port's credit. -/
def setCredit (p : Port) (c : Int) (t : Nat) (d : Dev) : Dev :=
  { d with strm := { d.strm with credit := vmod d.strm.credit p (fun _ => (c, t)) } }

/-- Q5's gate closes: the credit is held from now (R268). DESIGN CHOICE, unsafe (log entry 60). -/
def holdCredit (p : Port) (d : Dev) : Dev :=
  let since := ((queueOf d p 5).head?.map (·.queuedAt)).getD d.now
  setCredit p (creditNow d p since) d.now d

/-- Q5's gate opens at a moment: the credit runs again from it. -/
def resumeCredit (p : Port) (t : Nat) (d : Dev) : Dev := setCredit p (d.strm.credit[p]).1 t d

/-- The shaper lets the head of Q5 start (R268, R277). DESIGN CHOICE, unsafe (log entry 60). -/
def shaperLets (d : Dev) (p : Port) (f : QFrame) : Bool :=
  !d.strm.held.any (fun x => x.1 = p) && decide (0 ≤ creditNow d p f.queuedAt)

/-! ### Starting a frame -/

/-- Everything but the launch time lets the head of a queue start: the port is Up and idle, no fault stands on a backbone
lane (R165), the queue is not paused, its gate is open, and no Q7 frame that may start waits before a best-effort frame (R78,
R180, R237). DESIGN CHOICE, unsafe (log entry 38); DEDUCED, unsafe (log entry 125). -/
def mayStart (d : Dev) (p : Port) (q : Fin 8) (f : QFrame) : Bool :=
  portUp d p && !(isBackbone p && !d.ports.p[p].laneUp) && !f.spilled && decide (d.ports.p[p].txUntil ≤ d.now) && !(bestEffort q && isPaused d p) &&
    gateLets d p q f && (q ≠ 5 || shaperLets d p f) &&
    !(bestEffort q && (queueOf d p 7).head?.any (gateLets d p 7))

/-- The frame as it leaves, and whether its correctionField was raised (R202). DESIGN CHOICE, unsafe (log entry 45). -/
def correctedAt (d : Dev) (p : Port) (f : QFrame) : List Byte × Bool :=
  if f.ingress.isSome && isPtpEvent f.bytes && cfgB d (0x2410 + p.val) 8 then
    (addCorrection ((txStamp d p - f.stamp) * 32768) f.bytes, true)
  else (f.bytes, false)

/-- In the Commissioning profile backbone egress is shaped to 1 Gbit/s per port (R21). -/
def shapedNs (d : Dev) (p : Port) (n : Nat) : Nat := if d.node.profile = 1 && isBackbone p then 8 * n else 0

/-- Starts the head of a queue (R119, R202, R210, R259, R268, R522). DESIGN CHOICE, unsafe (log entry 37). -/
def startFrame (p : Port) (q : Fin 8) (f : QFrame) (d : Dev) : Dev :=
  let (bs, corr) := correctedAt d p f
  let len := bs.length + 4
  let d1 := onlyIf corr (bump (0x2410 + p.val) 0x0E) (emit (.frame p q.val bs) (setQueue p q (queueOf d p q).tail d))
  let d2 := countEv 0x002 p.val q.val len (countEv 0x001 p.val q.val 1 (bump64 (0x2300 + p.val) 0x25 1 d1))
  let d3 := onlyIf (q = 6 && (windowNow d p).isSome) (fun d => countEv 0x010 p.val 0 1 (bumpWin (f.window.getD 0) 0 d)) d2
  let dur := max (wireNs d p (len + 20)) (shapedNs d p (len + 20))
  let cells := ((d.fab.cells.find? (fun c => c.1 = f.uid)).map (·.2)).getD []
  let d4 := onPort p (fun t => { t with txUntil := d.now + dur, txCut := f.cut, txQueue := q.val, txCells := cells }) d3
  let d5 := onlyIf (q = 5) (setCredit p (creditNow d p f.queuedAt +
    ((idleSlope d p : Int) - rateMbps d.ports.p[p].rate * 1000000) * dur) (d.now + dur)) d4
  let d6 := match f.tsIdent with | some n => storeTxStamp p n d5 | none => d5
  settle f 0 (onFab (fun b => { b with sentUids := if f.host.isSome then f.uid :: b.sentUids else b.sentUids }) d6)

/-! ### Launch times (R211) -/

/-- L minus the train time, as a signed 32-bit number (R211). -/
def launchGap (d : Dev) (l : BitVec 32) : Int := (l - BitVec.ofNat 32 (trainTime d)).toInt

/-- The head of a queue is discarded at its launch (R211). -/
def discardLaunch (p : Port) (q : Fin 8) (f : QFrame) (d : Dev) : Dev :=
  bump (0x2410 + p.val) 0x0D (settle f 1 (setQueue p q (queueOf d p q).tail d))

/-- The port's MAC reaches the end of the frame in transmission. -/
def awaitIdle (p : Port) (d : Dev) : Dev := settlePause p (arrive d.ports.p[p].txUntil d)

/-- The head of a queue starts, waits or is discarded (R211, R238 to R240). DESIGN CHOICE, unsafe (log entry 38). -/
def serveHead (p : Port) (q : Fin 8) (d : Dev) : Dev :=
  match (queueOf d p q).head? with
  | none => d
  | some f =>
    match f.launch with
    | none => if mayStart d p q f then startFrame p q f d else d
    | some l =>
      let g := launchGap d l
      let lim : Int := cfg d 0x2401 5
      if 1000000000 < g || g < -lim then discardLaunch p q f d
      else if g ≤ 0 && mayStart d p q f then bump (0x2410 + p.val) 0x0C (startFrame p q f d)
      else d

/-- EGRESS_SEND (R119). DESIGN CHOICE, unsafe (log entry 38). -/
def execEgressSend (p : Port) (q : Fin 8) (s : State) : Result :=
  s.does fun d => if portUp d p then serveHead p q (awaitIdle p d) else d

/-- LAUNCH_TIME: train time reaches L − 0x2300 + p:14, and the frame starts once its gate is open and the port is idle
(R211). -/
def execLaunchTime (p : Port) (q : Fin 8) (s : State) : Result :=
  s.does fun d =>
    match (queueOf d p q).head? with
    | none => d
    | some f =>
      match f.launch with
      | none => d
      | some l =>
        let g := launchGap d l
        if g ≤ 0 || 1000000000 < g then d
        else
          let lead := cfg d (0x2300 + p.val) 0x14 / 1000
          let d1 := awaitIdle p (arriveTrain (trainTime d + g.toNat - lead) d)
          if mayStart d1 p q f && decide (-(cfg d 0x2401 5 : Int) ≤ launchGap d1 l) then startFrame p q f d1 else d1

/-- LAUNCH_LATE_DISCARD (R211). -/
def execLaunchLateDiscard (p : Port) (q : Fin 8) (s : State) : Result :=
  s.does fun d =>
    match (queueOf d p q).head? with
    | none => d
    | some f =>
      match f.launch with
      | none => d
      | some l =>
        let g := launchGap d l + cfg d 0x2401 5
        if 1000000000 < launchGap d l then d
        else discardLaunch p q f (arriveTrain (trainTime d + g.toNat) d)

end Sys2Proof.Machine
end

