-- ==== Sys2Proof/Machine/Time.lean ====
section
/-! DEFINITION. Time base, timestamps and network time: the meanings of chapter 06. -/

namespace Sys2Proof.Machine

/-! ### Events of R224 -/

/-- Grandmaster changed. -/
def evGmChanged : Ev := ⟨4, 3, 1, 0⟩
/-- Step disarmed. -/
def evStepDisarmed : Ev := ⟨4, 4, 4, 0⟩
/-- Holdover entered. -/
def evHoldover : Ev := ⟨4, 4, 5, 0⟩
/-- Lock lost. -/
def evLockLost : Ev := ⟨4, 4, 6, 0⟩
/-- Holdover limit passed. -/
def evHoldLimit : Ev := ⟨4, 5, 7, 0⟩
/-- PPS_IN lost while disciplining. -/
def evPpsLost : Ev := ⟨4, 5, 8, 0⟩

/-! ### Shared operations -/

/-- The node's gPTP clock identity: 0xFFFE after the third byte of the node identity (R198). -/
def clockIdentity (ident : Word48) : BitVec 64 := ident.extractLsb' 24 24 ++ 0xFFFE#16 ++ ident.extractLsb' 0 24

/-- 2 to the power of a log interval, in ns (0x2402:03 to 0x2402:05). -/
def logInterval (v : Int) : Nat := if v < 0 then sNs / 2 ^ v.natAbs else sNs * 2 ^ v.toNat

/-- The sync receipt timeout from now (0x2402:06). -/
def syncTimeout (d : Dev) : Option Nat := after (cfg d 0x2402 6 * logInterval (cfgI d 8 0x2402 3)) d

/-- The announce receipt timeout from now (0x2402:07). -/
def announceTimeout (d : Dev) : Option Nat := after (cfg d 0x2402 7 * logInterval (cfgI d 8 0x2402 4)) d

/-- gPTP runs on a port: enabled and Up (R197). -/
def ptpPort (d : Dev) (p : Port) : Bool := cfgB d (0x2410 + p.val) 1 && portUp d p

/-- The hold of a round, or of a change in standard mode, runs (R207). -/
def timeHeld (d : Dev) : Bool := d.time.roundHold.isSome || d.time.ttdpHold

/-- The port revealed the change of the hold that runs, so that it exchanges peer delay frames only (R207). -/
def revealedPort (d : Dev) (p : Port) : Bool := timeHeld d && d.time.revealed.contains p

/-- Ports whose role is master and on which the node may send (R207). -/
def masterPorts (d : Dev) : List Port :=
  allPorts.filter (fun p => d.time.ports[p].role = .master && ptpPort d p && !revealedPort d p)

/-! ### Messages on the wire (R78, R139, R162) -/

/-- Message type of a gPTP message (IEEE 802.1AS Clause 10). PRESUMED, unsafe (log entry 117). -/
def ptpType : PtpMsg → Nat
  | .sync _ _ => 0
  | .pdelayReq _ => 2
  | .pdelayResp _ _ => 3
  | .followUp _ _ _ _ => 8
  | .pdelayRespFollowUp _ _ => 0x0A
  | .announce _ => 0x0B

/-- Length of a gPTP message of a type. PRESUMED, unsafe (log entry 117). -/
def ptpLength (type : Nat) : Nat :=
  match type with
  | 0 => 44
  | 8 => 76
  | 0x0B => 76
  | _ => 54

/-- Sequence number and correctionField of a gPTP message; the Announce takes its number from the Syncs. -/
def ptpFields (d : Dev) : PtpMsg → Nat × Int
  | .sync s _ => (s.toNat, 0)
  | .followUp s _ _ c => (s.toNat, c)
  | .announce _ => (d.time.syncSeq.toNat, 0)
  | .pdelayReq s => (s.toNat, 0)
  | .pdelayResp s _ => (s.toNat, 0)
  | .pdelayRespFollowUp s _ => (s.toNat, 0)

/-- A gPTP message as bytes: domain 0 and majorSdoId 1 in a header of 34 bytes, and a body. PRESUMED, unsafe (log entry 117).
-/
def ptpBytes (d : Dev) (p : Port) (m : PtpMsg) : List Byte :=
  let n := ptpLength (ptpType m)
  let (seq, corr) := ptpFields d m
  leBytes 1 (0x10 + ptpType m) ++ leBytes 1 0x12 ++ beBytes 2 n ++ leBytes 2 0 ++ beBytes 2 (if ptpType m = 0 then 0x0208 else 8) ++
    beBytes 8 (unsignedOf 64 corr) ++ leBytes 4 0 ++ beBytes 8 (clockIdentity d.chip.ident).toNat ++ beBytes 2 (p.val + 1) ++
    beBytes 2 seq ++ leBytes 2 0 ++ (Config.ptpBody d.fresh (ptpType m) ++ List.replicate n 0).take (n - 34)

/-- Sends a gPTP message on a port through Q7 (R139); none leaves on the lane B port of a side with crossed lanes (R72). -/
def sendPtp (p : Port) (m : PtpMsg) (d : Dev) : Dev :=
  if crossedPort d p then d
  else sendOwn p 7 (ownFrame d nearestBridge 0x88F7 (ptpBytes d p m)) (draw (emit (.ptp p m) d))

/-- A gPTP message of a type is received on a port (R175). -/
def ptpHeard (p : Port) (type : Nat) (f : Dev → Dev) (d : Dev) : Dev :=
  if portUp d p then f (countGood p (frameLen (ptpLength type)) d) else d

/-- What the node announces as grandmaster (R198, R215). PRESUMED, unsafe (log entry 51). -/
def ownAnnounce (d : Dev) : AnnounceMsg :=
  { prio1 := BitVec.ofNat 8 (cfg d 0x2402 1), clockClass := BitVec.ofNat 8 d.time.ownClass, accuracy := 0xFE,
    variance := 0xFFFF, prio2 := BitVec.ofNat 8 (cfg d 0x2402 2), gm := clockIdentity d.chip.ident, steps := 0,
    sender := clockIdentity d.chip.ident, utc := cfgI d 16 0x2401 4 }

/-- The attributes in their order of comparison (IEEE 802.1AS Clause 10). PRESUMED, unsafe (log entry 51). -/
def announceKey (a : AnnounceMsg) : List Nat :=
  [a.prio1.toNat, a.clockClass.toNat, a.accuracy.toNat, a.variance.toNat, a.prio2.toNat, a.gm.toNat, a.steps.toNat,
   a.sender.toNat]

/-- The first of two lists in lexicographic order is lower. PRESUMED, unsafe (log entry 51). -/
def lexLt : List Nat → List Nat → Bool
  | [], _ :: _ => true
  | _, [] => false
  | a :: as, b :: bs => a < b || (a = b && lexLt as bs)

/-- What the node relays or sends on its master ports. -/
def relayedAnnounce (d : Dev) (a : AnnounceMsg) : AnnounceMsg :=
  { a with steps := a.steps + 1, sender := clockIdentity d.chip.ident }

/-- The best Announce held on the gPTP ports, with its port (R199). PRESUMED, unsafe (log entry 51). -/
def bestAnnounce (d : Dev) : Option (Port × AnnounceMsg) :=
  allPorts.foldl (fun best p =>
    match d.time.ports[p].announce with
    | some (a, _) =>
      if ptpPort d p && !revealedPort d p then
        match best with
        | none => some (p, a)
        | some (_, b) => if lexLt (announceKey a) (announceKey b) then some (p, a) else best
      else best
    | none => best) none

/-- Roles of the ports once the master is decided (0x2410 + p:02). PRESUMED, unsafe (log entry 51). -/
def assignRoles (slave : Option Port) (sent : AnnounceMsg) (d : Dev) : Dev :=
  { d with time := { d.time with
      slavePort := slave
      ports := Vector.ofFn (fun p : Fin 20 =>
        let t := d.time.ports[p]
        { t with role :=
            if !ptpPort d p then .disabled
            else if slave = some p then .slave
            else match t.announce with
              | some (a, _) => if lexLt (announceKey a) (announceKey sent) then .passive else .master
              | none => .master }) } }

/-- Disarms an armed step (R205). -/
def disarm (d : Dev) : Dev :=
  match d.time.armed with
  | some _ => bump 0x2404 0x0A (raise evStepDisarmed noInst { d with time := { d.time with armed := none } })
  | none => d

/-- Enters Holdover: the rate is held and the entry counted (R205, R206). -/
def enterHoldover (d : Dev) : Dev :=
  raise evHoldover noInst (bump 0x2404 2 (setTimeState .holdover
    { d with time := { d.time with holdSince := some d.now, holdLimitPassed := false, goodSyncs := 0, badSyncs := 0 } }))

/-- Records the adoption of a grandmaster whose identity differs from 0x2400:06 (R205). -/
def noteGm (gm : BitVec 64) (d : Dev) : Dev :=
  if d.time.gmIdentity = gm then d
  else raise evGmChanged noInst (bump 0x2404 3 { d with time := { d.time with gmIdentity := gm } })

/-- Sends a gPTP message on every master port. -/
def onMasters (m : PtpMsg) (d : Dev) : Dev := forEach (masterPorts d) (fun p => sendPtp p m) d

/-- What the node announces at present: its own attributes as grandmaster, or the adopted master's relayed (R199). -/
def presentAnnounce (d : Dev) : Option AnnounceMsg :=
  if d.time.state = .grandmaster then some (ownAnnounce d)
  else d.time.slavePort.bind (fun p => (d.time.ports[p].announce).map (fun a => relayedAnnounce d a.1))

/-- Sends the present Announce on every master port. -/
def sendAnnounce (d : Dev) : Dev :=
  match presentAnnounce d with
  | some a => onMasters (.announce a) d
  | none => d

/-- Sends Sync and Follow_Up as grandmaster, two-step only (R197, R199). -/
def sendSync (d : Dev) : Dev :=
  if d.time.state = .grandmaster then
    let s := d.time.syncSeq
    let gm := clockIdentity d.chip.ident
    onMasters (.followUp s gm (trainTime d) 0) (onMasters (.sync s gm)
      { d with time := { d.time with syncSeq := s + 1 } })
  else d

/-- The node becomes grandmaster: it disarms any step and keeps time and rate; out of Unsynchronised it sends Announce and
Sync at once (R205). -/
def becomeGrandmaster (d : Dev) : Dev :=
  let own := ownAnnounce d
  let d1 := noteGm own.gm (disarm d)
  let d2 := assignRoles none own { d1 with time := { d1.time with
    gmClass := d1.time.ownClass, stepsRemoved := 0, offset := 0, utcOffset := own.utc, holdSince := none,
    announceDeadline := none, syncDeadline := none, switchRef := none, adoptedAfterSwitch := false,
    pendingSync := none } }
  let d3 := setTimeState .grandmaster d2
  if d.time.state = .unsynchronised then sendSync (sendAnnounce d3) else d3

/-- PPS_IN no longer disciplines the node, which has clock class 248 again (R198, R215). -/
def ppsOff (d : Dev) : Dev :=
  { d with time := { d.time with
    ppsInLast := none, ppsInLostAt := none, ownClass := 248, gmClass := if d.time.state = .grandmaster then 248 else d.time.gmClass } }

/-- The node follows a master announced on a port (R205). PRESUMED, unsafe (log entry 51). -/
def followMaster (p : Port) (a : AnnounceMsg) (d : Dev) : Dev :=
  let changed := d.time.gmIdentity ≠ a.gm
  let wasGm := d.time.state = .grandmaster
  let d1 := noteGm a.gm d
  let d2 := assignRoles (some p) (relayedAnnounce d a) { d1 with time := { d1.time with
    gmClass := a.clockClass.toNat, stepsRemoved := a.steps.toNat, utcOffset := a.utc,
    announceDeadline := announceTimeout d1,
    adoptedAfterSwitch := d1.time.adoptedAfterSwitch || (changed && d1.time.switchRef.isSome) } }
  if wasGm then enterHoldover (ppsOff d2)
  else if changed then
    match d2.time.state with
    | .acquiring | .synchronised => enterHoldover d2
    | .stepPending => enterHoldover (disarm d2)
    | _ => d2
  else d2

/-- The node may select itself (R198, R209, R216). -/
def maySelectSelf (d : Dev) : Bool :=
  cfg d 0x2402 1 ≠ 255 && (d.time.state = .grandmaster || !safeLow d) &&
    (d.time.state ≠ .unsynchronised ||
      match d.time.appliedAt with
      | some t => t + cfg d 0x2402 7 * logInterval (cfgI d 8 0x2402 4) ≤ d.now
      | none => false)

/-- The result of the best master algorithm stands: during a round (R207), while the control complex stops, and while SAFE_N
is low (R199, R209). -/
def bmcaFrozen (d : Dev) : Bool := timeHeld d || !d.pow.agentReady || safeLow d

/-- Runs the best master algorithm on the Announce data held (R199, R205). -/
def runBmca (d : Dev) : Dev :=
  if bmcaFrozen d then d
  else match bestAnnounce d with
    | some (p, a) =>
      if lexLt (announceKey a) (announceKey (ownAnnounce d)) || cfg d 0x2402 1 = 255 then followMaster p a d
      else if maySelectSelf d then becomeGrandmaster d else followMaster p a d
    | none => if maySelectSelf d then becomeGrandmaster d else d

/-- The step point of R204 for a large offset that a Sync received at `rx` shows. DESIGN CHOICE, unsafe (log entry 52). -/
def stepPoint (rx : Nat) (d : Dev) : Nat × Bool :=
  let first := d.inaug.standard = false && d.time.adoptedAfterSwitch
  let ref := match d.time.switchRef, first with
    | some t, true => t
    | _, _ => rx
  (boundaryFrom d (ref + cfg d 0x2402 0x0B * msNs), first)

/-- Time is not usable from now on: listeners that are Playing enter Holding (R275). -/
def holdListeners (d : Dev) : Dev :=
  { d with strm := { d.strm with s := d.strm.s.map (fun t => if t.state = .playing then { t with state := .holding } else t) } }

/-- Arms one step of −offset; a step already armed keeps its point (R203, R217), and with it time is not usable (R275). -/
def armStep (rx : Nat) (off : Int) (d : Dev) : Dev :=
  let a : ArmedStep := match d.time.armed with
    | some a => { a with amount := -off }
    | none => { amount := -off, point := (stepPoint rx d).1, firstCase := (stepPoint rx d).2 }
  holdListeners (setTimeState .stepPending { d with time := { d.time with armed := some a, goodSyncs := 0, badSyncs := 0 } })

/-- A small offset in Acquiring or Synchronised: the two lock rows of R205, and the servo slews (R203). -/
def countLock (off : Int) (d : Dev) : Dev :=
  let lock : Int := cfg d 0x2402 8
  let d := servoRate d
  match d.time.state with
  | .acquiring =>
    let g := if off.natAbs ≤ lock then d.time.goodSyncs + 1 else 0
    if 8 ≤ g then setTimeState .synchronised { d with time := { d.time with goodSyncs := 0, badSyncs := 0 } }
    else { d with time := { d.time with goodSyncs := g } }
  | .synchronised =>
    let b := if (off.natAbs : Int) > 2 * lock then d.time.badSyncs + 1 else 0
    if 4 ≤ b then raise evLockLost noInst (setTimeState .acquiring
      { d with time := { d.time with goodSyncs := 0, badSyncs := 0 } })
    else { d with time := { d.time with badSyncs := b } }
  | _ => d

/-- The state machine of R205 at a Sync received at `rx` whose offset is known. -/
def atSync (rx : Nat) (off : Int) (d : Dev) : Dev :=
  let big := decide ((cfg d 0x2402 9 : Int) < off.natAbs)
  match d.time.state with
  | .grandmaster => d
  | .unsynchronised => setTimeState .acquiring (stepAll (-off) d)
  | .acquiring | .synchronised => if big then armStep rx off d else countLock off d
  | .holdover =>
    if big then armStep rx off d
    else countLock off (setTimeState .acquiring { d with time := { d.time with holdSince := none } })
  | .stepPending =>
    if big then armStep rx off d
    else countLock off (setTimeState .acquiring (disarm d))

/-- The node is fenced on its offset: R247's first condition with its exception. -/
def offsetFences (off : Int) (d : Dev) : Bool :=
  decide ((cfg d 0x2501 3 : Int) < off.natAbs) &&
    !(d.time.state = .stepPending && match d.time.armed with | some a => a.firstCase | none => false)

/-- Event "fence entered" (R261). -/
def evFenceIn : Ev := ⟨5, 5, 3, 0⟩

/-- Frames of Q6 leave by their priority code points while the gate lists count as empty (R139, R248). -/
def releaseQ6 (d : Dev) : Dev :=
  forEach allPorts (fun p d =>
    forEach (queueOf d p 6) (fun f d =>
      let q := Fin.ofNat 8 (cfg d 0x2203 (1 + f.pcp % 8))
      pushFrame p q { f with cls := q.val, window := none } d) (setQueue p 6 [] d)) d

/-- A running node becomes fenced: its Q6 gates close at once; what a Sync of the present cycle showed stands (R248, R249,
R254). -/
def enterFence (d : Dev) : Dev :=
  if d.sched.state = .running then
    releaseQ6 (raise evFenceIn noInst (bump 0x2505 8 { d with sched := { d.sched with
      state := .fenced, windows := Vector.replicate 20 none, goodCycles := 0 } }))
  else d

/-- What a Sync does to the fence (R247, R249). -/
def fenceAtSync (off : Int) (d : Dev) : Dev :=
  let d1 : Dev := { d with sched := { d.sched with
    syncSeen := true, badSeen := d.sched.badSeen || decide ((cfg d 0x2501 3 : Int) < 2 * off.natAbs) } }
  if offsetFences off d1 then enterFence d1 else d1

/-- Correction of a relayed Sync in units of 2^-16 ns: the link delay, and the residence time, which is free, scaled by the
rate ratio (R199). DESIGN CHOICE, unsafe (log entry 52). -/
def relayCorrection (d : Dev) (p : Port) : Int :=
  let delay : Int := d.time.ports[p].linkDelay + cfgI d 32 (0x2410 + p.val) 5
  let residence : Int := Config.freeNat d.fresh
  delay * 65536 / 1000 + residence + residence * d.time.ports[p].ratio / 1000000000000

/-- A complete Sync from the grandmaster on the slave port, received at `rx` in units of 0.5 ns: relay, offset, servo, fence
(R199, R203, R205). DESIGN CHOICE, unsafe (log entry 52). -/
def takeSync (p : Port) (seq : BitVec 16) (gm : BitVec 64) (origin : Int) (rx : Nat) (d : Dev) : Dev :=
  let d1 := bump 0x2404 9 (onMasters (.followUp seq gm origin (relayCorrection d p)) (onMasters (.sync seq gm) (draw d)))
  if !d1.pow.agentReady then d1
  else
    let delay : Int := d1.time.ports[p].linkDelay + cfgI d1 32 (0x2410 + p.val) 5
    let off := ((rx : Int) - 2 * (origin + delay / 1000)) / 2
    let d2 : Dev := { d1 with
      time := { d1.time with offset := off, syncDeadline := syncTimeout d1 }
      health := { d1.health with offsetSq := d1.health.offsetSq + off.natAbs * off.natAbs,
                                 offsetCount := d1.health.offsetCount + 1 } }
    let d4 := fenceAtSync off (atSync (rx / 2) off d2)
    if d.time.adoptedAfterSwitch then { d4 with time := { d4.time with switchRef := none, adoptedAfterSwitch := false } } else d4

/-- A Sync is accepted from the present grandmaster on the present slave port only (R207). DESIGN CHOICE, unsafe (log entry
52). -/
def syncAccepted (p : Port) (gm : BitVec 64) (d : Dev) : Bool :=
  ptpPort d p && d.time.slavePort = some p && d.time.gmIdentity = gm && !revealedPort d p

/-- A record under R192 as an UNSIGNED64. -/
def TsRecord.pack (r : TsRecord) : Nat :=
  r.half / 2 % 2 ^ 32 + 2 ^ 32 * (if r.half % 2 = 1 then 0x80 else 0) + 2 ^ 40 +
    (if r.overflow then 2 ^ 41 else 0) + (if r.unsure then 2 ^ 42 else 0) + (if r.tevt then 2 ^ 43 else 0) +
    (if r.rising then 2 ^ 44 else 0) + 2 ^ 48 * (r.ident % 2 ^ 16)

/-- The next identifier that no unread record of the port holds (R210). -/
def freeIdent : Nat → Nat → List TsRecord → Nat
  | 0, n, _ => n
  | k + 1, n, q => if q.any (·.ident = n) then freeIdent k ((n + 1) % 65536) q else n

/-- Gives a requesting frame its identifier (R210). -/
def takeIdent (p : Port) (d : Dev) : Nat × Dev :=
  let t := d.time.ports[p]
  let n := freeIdent 33 t.nextIdent t.txQueue
  (n, onPortTime p (fun t => { t with nextIdent := (n + 1) % 65536 }) d)

/-- A Pdelay_Req is sent, the first 17 of a port's time in Up 1 ms apart, later ones at 0x2402:05 (R200). -/
def sendPdelay (p : Port) (d : Dev) : Dev :=
  let t := d.time.ports[p]
  let gap := if t.requests < 16 then msNs else logInterval (cfgI d 8 0x2402 5)
  sendPtp p (.pdelayReq d.time.pdelaySeq) (onPortTime p (fun t => { t with
      outstanding := some d.time.pdelaySeq, requests := t.requests + 1, nextPdelay := some (d.now + gap) })
    { d with time := { d.time with pdelaySeq := d.time.pdelaySeq + 1 } })

/-- A port with gPTP enters Up: the first Pdelay_Req (R200), and, where a master is decided and no hold keeps the roles, the
role of a port on which no Announce has come (R199, R207, R223). -/
def timePortUp (p : Port) (d : Dev) : Dev :=
  if cfgB d (0x2410 + p.val) 1 then
    let role := if !timeHeld d && (d.time.state = .grandmaster || d.time.slavePort.isSome) then PtpRole.master else .disabled
    sendPdelay p (onPortTime p (fun t => { t with requests := 0, role := role }) d)
  else d

/-- A port loses link: exchanges are dropped, 0x2410 + p:07 clears, its Announce data go (R217, R223). -/
def timePortDown (p : Port) (d : Dev) : Dev :=
  let d1 := onPortTime p (fun t => { t with
    outstanding := none, nextPdelay := none, delayValid := false, announce := none, role := .disabled }) d
  { d1 with time := { d1.time with
    pendingSync := d1.time.pendingSync.filter (fun s => s.port ≠ p),
    slavePort := if d1.time.slavePort = some p then none else d1.time.slavePort } }

/-- The control complex stops: a following node enters Holdover; a step already armed stays armed (R205). DESIGN CHOICE,
unsafe (log entry 53). -/
def timeControlStop (d : Dev) : Dev :=
  match d.time.state with
  | .acquiring | .synchronised => enterHoldover d
  | _ => d

/-- PPS_OUT is held low while 0x2403:01 is 0 (R221). -/
def ppsLow (d : Dev) : Dev := { d with time := { d.time with ppsOut := false, ppsOutEnd := none } }

/-- Apply point: ports whose gPTP enable changes, PPS_IN that disciplines no longer, and PPS_OUT switched off (R198, R200,
R215, R221, R223). -/
def applyTime (old : Dev) (d : Dev) : Dev :=
  let d1 := forEach (allPorts.filter (fun p => cfgB old (0x2410 + p.val) 1 ≠ cfgB d (0x2410 + p.val) 1)) (fun p d =>
    if cfgB d (0x2410 + p.val) 1 then (if portUp d p then timePortUp p d else d) else timePortDown p d) d
  let d2 := if cfg d1 0x2402 0x0D ≠ 1 && d1.time.ownClass ≠ 248 then ppsOff d1 else d1
  if cfg d2 0x2403 1 = 0 then ppsLow d2 else d2

/-- A round starts: the gPTP hold of R207 runs for 20 ms, and the port that revealed the change is noted. -/
def timeRoundStart (revealed : List Port) (d : Dev) : Dev :=
  { d with time := { d.time with
    roundHold := some (d.now + 20 * msNs), ttdpHold := false, revealed := d.time.revealed ++ revealed } }

/-- The hold lasts up to the moment TTDP declares a topology valid (R76, R207). -/
def timeStandardHold (revealed : List Port) (d : Dev) : Dev :=
  { d with time := { d.time with roundHold := none, ttdpHold := true, revealed := d.time.revealed ++ revealed } }

/-- The hold of a round ends: best master algorithm, Announce burst and, at the grandmaster, a Sync (R207, R208). -/
def timeHoldEnd (d : Dev) : Dev :=
  let d1 := runBmca { d with time := { d.time with
    roundHold := none, ttdpHold := false, revealed := [],
    burstUntil := some (d.now + cfg d 0x2402 7 * logInterval (cfgI d 8 0x2402 4)) } }
  sendSync (sendAnnounce d1)

/-- An epoch switch point: a pending step is disarmed (R205), and the switch point becomes the reference of R204. -/
def timeEpochSwitch (d : Dev) : Dev :=
  let d1 := if d.time.state = .stepPending then enterHoldover (disarm d) else d
  timeHoldEnd { d1 with time := { d1.time with switchRef := some (trainTime d1), adoptedAfterSwitch := false } }

/-- Arms TEVT_OUT when an apply point writes 0x2403:04 to 0x2403:06 (R213). -/
def applyTevt (d : Dev) : Dev :=
  match cfg d 0x2403 4 with
  | 1 => if cfg d 0x2403 5 < trainTime d then bump 0x2404 8 { d with time := { d.time with tevtNext := none } }
         else { d with time := { d.time with tevtNext := some (cfg d 0x2403 5) } }
  | 2 => { d with time := { d.time with tevtNext := some (firstInstant (cfg d 0x2403 5) (cfg d 0x2403 6) (trainTime d)) } }
  | _ => { d with time := { d.time with tevtNext := none, tevtOut := false, tevtOutEnd := none } }

/-- The control rule of 0x2401:03 (R215): Unsynchronised or Grandmaster, and no schedule active. -/
def stepAllowed (d : Dev) : Bool :=
  (d.time.state = .unsynchronised || d.time.state = .grandmaster) && !scheduleActive d

/-- The step that a write to 0x2401:03 makes at once (R215); it counts as a step applied. -/
def requestedStep (amount : Int) (d : Dev) : Dev :=
  let d1 := stepAll amount d
  bump 0x2404 1 { d1 with time := { d1.time with lastStep := amount } }

/-! ### Meanings -/

/-- SYNC: a one-step Sync is complete; a two-step Sync waits for its Follow_Up (R199, R205). -/
def execSync (p : Port) (seq : BitVec 16) (gm : BitVec 64) (twoStep : Bool) (origin : Int) (s : State) : Result :=
  s.does (ptpHeard p 0 fun d =>
    if syncAccepted p gm d then
      if twoStep then { d with time := { d.time with pendingSync := some ⟨p, seq, gm, rxStamp d p⟩ } }
      else takeSync p seq gm origin (rxStamp d p) d
    else d)

/-- FOLLOW_UP: completes the two-step Sync of its port and sequence number (R199). -/
def execFollowUp (p : Port) (seq : BitVec 16) (origin : Int) (s : State) : Result :=
  s.does (ptpHeard p 8 fun d =>
    match d.time.pendingSync with
    | some y =>
      if y.port = p && y.seq = seq && syncAccepted p y.gm d then
        takeSync p seq y.gm origin y.rx { d with time := { d.time with pendingSync := none } }
      else d
    | none => d)

/-- ANNOUNCE: the data are gathered on the port, and the best master algorithm runs on them (R199, R205 to R209). -/
def execAnnounce (p : Port) (a : AnnounceMsg) (s : State) : Result :=
  s.does (ptpHeard p 0x0B fun d =>
    if ptpPort d p && !revealedPort d p then
      let gm0 := d.time.gmIdentity
      let d1 := onPortTime p (fun t => { t with announce := some (a, d.now) }) d
      let d2 := if d1.time.slavePort = some p && d1.time.gmIdentity = a.gm then
        { d1 with time := { d1.time with announceDeadline := announceTimeout d1, utcOffset := a.utc } } else d1
      let d3 := runBmca d2
      let burst := match d3.time.burstUntil with | some t => d3.now < t | none => false
      if burst && d3.time.gmIdentity ≠ gm0 then sendAnnounce d3 else d3
    else d)

/-- PDELAY_REQ: hardware answers with Pdelay_Resp, which carries the time of receipt, and its follow-up, which carries that
of the response; that one is free (R199). DESIGN CHOICE, unsafe (log entry 52). -/
def execPdelayReq (p : Port) (seq : BitVec 16) (s : State) : Result :=
  s.does (ptpHeard p 2 fun d =>
    if ptpPort d p then
      sendPtp p (.pdelayRespFollowUp seq (Config.freeNat d.fresh)) (sendPtp p (.pdelayResp seq (rxStamp d p)) (draw d))
    else d)

/-- PDELAY_RESP: with its follow-up it completes the exchange; the mean link delay is half of the round trip less the
turnaround, scaled by the rate ratio (R199, R200). -/
def execPdelayResp (p : Port) (seq : BitVec 16) (roundTripPs turnaroundPs : BitVec 48) (ratioPpt : Int) (s : State) :
    Result :=
  s.does (ptpHeard p 3 (fun d => ptpHeard p 0x0A (fun d =>
    if ptpPort d p && d.time.ports[p].outstanding = some seq then
      let rt : Int := roundTripPs.toNat
      let scaled := rt + rt * ratioPpt / 1000000000000
      onPortTime p (fun t => { t with
        linkDelay := ((scaled - turnaroundPs.toNat) / 2).toNat, ratio := ratioPpt, delayValid := true, measured := true,
        outstanding := none }) d
    else d) d))

/-- PDELAY_INTERVAL: the next Pdelay_Req of a port (R200). -/
def execPdelayInterval (p : Port) (s : State) : Result :=
  s.does fun d =>
    match d.time.ports[p].nextPdelay with
    | some t => let d1 := arrive t d; if ptpPort d1 p then sendPdelay p d1 else d1
    | none => d

/-- SYNC_INTERVAL: the grandmaster sends Sync and Follow_Up (R199). -/
def execSyncInterval (s : State) : Result := s.does fun d => sendSync d

/-- ANNOUNCE_INTERVAL: Announce on every master port, the node's own or the relayed one (R199). -/
def execAnnounceInterval (s : State) : Result := s.does fun d => sendAnnounce d

/-- SYNC_RECEIPT_TIMEOUT: Acquiring or Synchronised ends in Holdover (R205). -/
def execSyncReceiptTimeout (s : State) : Result :=
  s.does fun d =>
    match d.time.syncDeadline with
    | some t =>
      let d1 := arrive t d
      let d2 := bump 0x2404 4 { d1 with time := { d1.time with syncDeadline := none, pendingSync := none } }
      match d2.time.state with
      | .acquiring | .synchronised => enterHoldover d2
      | _ => d2
    | none => d

/-- ANNOUNCE_RECEIPT_TIMEOUT: the lost master's data go, Holdover begins, and the best master algorithm runs again (R205,
R206, R216); where its result stands, so do the roles (R207, R209). -/
def execAnnounceReceiptTimeout (s : State) : Result :=
  s.does fun d =>
    match d.time.announceDeadline with
    | some t =>
      let d1 := arrive t d
      let d2 := { d1 with time := { d1.time with announceDeadline := none } }
      let d3 := match d2.time.slavePort with
        | some p => bump 0x2404 5 (onPortTime p (fun t => { t with announce := none }) d2)
        | none => d2
      let d4 := match d3.time.state with
        | .acquiring | .synchronised => enterHoldover d3
        | _ => d3
      if bmcaFrozen d4 then d4 else runBmca { d4 with time := { d4.time with slavePort := none } }
    | none => d

/-- STEP_POINT: the armed step applies at its point, whether or not the control complex runs (R205). -/
def execStepPoint (s : State) : Result :=
  s.does fun d =>
    match d.time.armed with
    | some a =>
      let d1 := arriveTrain a.point d
      let d2 := stepAll a.amount { d1 with time := { d1.time with armed := none } }
      let d3 := bump 0x2404 1 { d2 with time := { d2.time with lastStep := a.amount, goodSyncs := 0 } }
      if d3.pow.agentReady then setTimeState .acquiring d3 else enterHoldover d3
    | none => d

/-- HOLDOVER_LIMIT: 0x2400:0A passes 0x2402:0C (R205). -/
def execHoldoverLimit (s : State) : Result :=
  s.does fun d =>
    match d.time.holdSince with
    | some t =>
      if d.time.state = .holdover && !d.time.holdLimitPassed then
        let d1 := arrive (t + cfg d 0x2402 0x0C * sNs) d
        raise evHoldLimit noInst { d1 with time := { d1.time with holdLimitPassed := true } }
      else d
    | none => d

/-- ROUND_HOLD_END: 20 ms after the round began without a switch point (R207, R208). -/
def execRoundHoldEnd (s : State) : Result :=
  s.does fun d =>
    match d.time.roundHold with
    | some t => timeHoldEnd (arrive t d)
    | none => d

/-- PPS_OUT_PULSE: the next whole second of train time, advanced by 0x2403:03; the pulse rises as 0x2403:01 allows (R212). -/
def execPpsOutPulse (s : State) : Result :=
  s.does fun d =>
    let adv := cfgI d 16 0x2403 3
    let t := (((trainTime d : Int) + adv) / sNs + 1) * sNs - adv
    let d1 := arriveTrain t.toNat d
    let allowed := match cfg d1 0x2403 1 with
      | 1 => true
      | 2 => d1.time.state.sure && !d1.time.holdLimitPassed
      | _ => false
    if allowed then { d1 with time := { d1.time with ppsOut := true, ppsOutEnd := after (cfg d1 0x2403 2 * usNs) d1 } }
    else d1

/-- PPS_OUT_PULSE_END: the width runs out and PPS_OUT falls (R212). -/
def execPpsOutPulseEnd (s : State) : Result :=
  s.does fun d =>
    match d.time.ppsOutEnd with
    | some t => let d1 := arrive t d; { d1 with time := { d1.time with ppsOut := false, ppsOutEnd := none } }
    | none => d

/-- TEVT_OUT_PULSE: a one-shot or periodic time comes (R213). -/
def execTevtOutPulse (s : State) : Result :=
  s.does fun d =>
    match d.time.tevtNext with
    | some t =>
      let d1 := arriveTrain t d
      { d1 with time := { d1.time with
        tevtOut := true, tevtOutEnd := after (cfg d1 0x2403 7) d1,
        tevtNext := if cfg d1 0x2403 4 = 2 then some (t + cfg d1 0x2403 6) else none } }
    | none => d

/-- TEVT_OUT_PULSE_END: the width runs out and TEVT_OUT falls (R213). -/
def execTevtOutPulseEnd (s : State) : Result :=
  s.does fun d =>
    match d.time.tevtOutEnd with
    | some t => let d1 := arrive t d; { d1 with time := { d1.time with tevtOut := false, tevtOutEnd := none } }
    | none => d

/-- PPS_IN disciplines the node: it is grandmaster with 0x2402:0D = 1 (R215). -/
def ppsDisciplines (d : Dev) : Bool := cfg d 0x2402 0x0D = 1 && d.time.state = .grandmaster

/-- The edge selection of an input covers an edge (0x2403:08, 0x2403:09). -/
def edgeSelected (sel : Nat) (rising : Bool) : Bool := sel = 3 || (sel = 1 && rising) || (sel = 2 && !rising)

/-- Captures an edge into the queue of 16 records, unless it follows the last captured edge of its input within 40 ns
(R214). -/
def captureEdge (inp : CapInput) (rising : Bool) (d : Dev) : Dev :=
  let last := match inp with | .pps => d.time.lastEdge | .tevt => d.time.lastEdgeT
  let early := match last with | some t => decide (d.now < t + 40) | none => false
  if early then bump 0x2404 7 d
  else
    let ident := d.time.capIdent
    let r : TsRecord := { half := 2 * trainTime d, overflow := d.time.capOverflow, unsure := !d.time.state.sure,
                          tevt := inp = .tevt, rising := rising, ident := ident }
    let d1 : Dev := { d with time := { d.time with
      capIdent := (ident + 1) % 65536
      lastEdge := if inp = .pps then some d.now else d.time.lastEdge
      lastEdgeT := if inp = .tevt then some d.now else d.time.lastEdgeT } }
    if d1.time.captures.length < 16 then
      { d1 with time := { d1.time with captures := d1.time.captures ++ [r], capOverflow := false } }
    else noteOverflow noInst (bump 0x2404 6 { d1 with time := { d1.time with capOverflow := true } })

/-- CAPTURE_EDGE: an edge of PPS_IN or TEVT_IN: capture (R214), event counters and snapshots (R522, R524), and the
discipline of a grandmaster by PPS_IN (R215). -/
def execCaptureEdge (inp : CapInput) (rising : Bool) (s : State) : Result :=
  s.does fun d =>
    let (sub, bit, inst) := match inp with | .pps => (8, 1, 0) | .tevt => (9, 2, 1)
    let d0 : Dev := match inp with
      | .pps => { d with time := { d.time with ppsInLevel := rising } }
      | .tevt => { d with time := { d.time with tevtInLevel := rising } }
    let d1 := if edgeSelected (cfg d0 0x2403 sub) rising then captureEdge inp rising d0 else d0
    let d2 := if rising then countEv 0x061 inst 0 1 d1 else d1
    let d3 := if rising && bitOf (cfg d2 0x2E08 1) bit then snapshot d2 else d2
    if rising && inp = .pps && ppsDisciplines d3 then
      onlyIf d3.pow.agentReady servoRate
        { d3 with time := { d3.time with ppsInLast := some d3.now, ppsInLostAt := none, ownClass := 6, gmClass := 6 } }
    else d3

/-- PPS_IN_LOSS: no edge for 3 s while PPS_IN disciplines the node: clock class 7, the rate is held (R215). -/
def execPpsInLoss (s : State) : Result :=
  s.does fun d =>
    match d.time.ppsInLast with
    | some t =>
      let d1 := arrive (t + 3 * sNs) d
      if ppsDisciplines d1 then
        raise evPpsLost noInst { d1 with time := { d1.time with ppsInLast := none, ppsInLostAt := some d1.now, ownClass := 7, gmClass := 7 } }
      else { d1 with time := { d1.time with ppsInLast := none } }
    | none => d

/-- PPS_IN_HOLDOVER_LIMIT: 0x2402:0C after the loss, the node announces clock class 248 (R215). -/
def execPpsInHoldoverLimit (s : State) : Result :=
  s.does fun d =>
    match d.time.ppsInLostAt with
    | some t =>
      let d1 := arrive (t + cfg d 0x2402 0x0C * sNs) d
      { d1 with time := { d1.time with
        ppsInLostAt := none, ownClass := 248,
        gmClass := if d1.time.state = .grandmaster then 248 else d1.time.gmClass } }
    | none => d

end Sys2Proof.Machine
end

