-- ==== Sys2Proof/Machine/Images.lean ====
section
/-! DEFINITION. Signed images and the saved configuration: signature blocks (R535 to R537), saves (R48, R49), and the
numbering that a COMMIT gives the node (R93, R96, R117). -/

namespace Sys2Proof.Machine

/-! ### Signature blocks -/

/-- The integrator key in force: 0x2F01:01 in Open, else the highest fused position that is not revoked (R535). -/
def integratorKey (d : Dev) : Option (List Byte) :=
  if d.sec.lifecycle = 1 then
    let k := cfgBytes d 0x2F01 1
    if k.isEmpty then none else some k
  else ((d.sec.positions.filter (fun x => !x.2)).getLast?).map (·.1)

/-- Length of a signature block (R536). -/
def blockSize : Nat := 176

/-- Security version of a signature block. -/
def blockVersion (b : List Byte) : Nat := leNat (slice b 8 4)

/-- The signer of a block matches its slot (R537). -/
def signerMatches (d : Dev) (slot : Nat) (key : List Byte) : Bool :=
  if slot = 2 then integratorKey d = some key else Config.sha256 key = Config.sha256 (Config.stantouneKey slot)

/-- A signature block is accepted but for its security version (R537). -/
def blockOk (d : Dev) (slot : Nat) (content block : List Byte) : Bool :=
  block.length = blockSize && leNat (slice block 0 4) = 0x4B5A5347 && leNat (slice block 4 1) = slot &&
    leNat (slice block 5 1) = 1 && leNat (slice block 6 2) = 0 && leNat (slice block 12 4) = content.length &&
    slice block 16 32 = Config.sha256 content && signerMatches d slot (slice block 48 64) &&
    Config.ecdsaVerify (slice block 48 64) (block.take 112) (slice block 112 64)

/-- Event "signature refused" (R557). -/
def evSignature : Ev := ⟨15, 5, 3, 2⟩

/-- A signature is refused, of whatever image (R556, R557). -/
def refuseSignature (d : Dev) : Dev := raise evSignature noInst (bump 0x2F05 4 d)

/-! ### The configuration region (R48, R49) -/

/-- The eMMC is available. -/
def emmcReady (d : Dev) : Bool := d.chip.emmc && !d.recd.mediumFailed

/-- An entry of the stored class (R33). -/
def isStored (k : Nat) : Bool :=
  match entryRow (k / 256) (k % 256) with
  | some r => r.pers = .sto
  | none => false

/-- Number and size of the segments of a large-table index; none where the index is reserved (R68, R69). -/
def tableShape (idx : Nat) : Option (Nat × Nat) :=
  if (0x5000 ≤ idx && idx ≤ 0x500F) || (0x5010 ≤ idx && idx ≤ 0x5013) then some (1, 4096)
  else if 0x5020 ≤ idx && idx ≤ 0x5027 then some (2, 4096)
  else if idx = 0x5030 || idx = 0x5031 then some (1, 4096)
  else if 0x5100 ≤ idx && idx ≤ 0x5103 then some (16, 4096)
  else if 0x5104 ≤ idx && idx ≤ 0x5113 then some (4, 4096)
  else if 0x5200 ≤ idx && idx ≤ 0x5207 then some (1, 2048)
  else if 0x5300 ≤ idx && idx ≤ 0x5307 then some (1, 4096)
  else if idx = 0x5400 || idx = 0x5401 then some (1, 4096)
  else none

/-- Sizes of the fixed types of R30, in bytes. -/
def EntryType.fixed : EntryType → Option Nat
  | .bool | .u8 | .i8 => some 1
  | .u16 | .i16 => some 2
  | .u32 | .i32 => some 4
  | .u64 | .i64 => some 8
  | .vstr _ | .ostr _ | .domain _ => none

/-- A value as its bytes (R30, R31). -/
def encodeValue (ty : EntryType) (v : Value) : List Byte :=
  match ty.fixed with
  | some n => leBytes n v.toNat
  | none => v.toBytes

/-- A partition, A or B. -/
def partOf (d : Dev) (b : Bool) : Partition := if b then d.pow.partB else d.pow.partA

/-- The product code, 0x1018:02 (R62). -/
def productCode (d : Dev) : Nat := if d.chip.ex then 0x00018840 else 0x00008840

/-- The major line of the running firmware. -/
def majorLine (d : Dev) : Nat := bitsOf (partOf d d.pow.bootedB).release.toNat 15 8

/-- Keys of the stored entries outside the large tables, ascending (R33, R48). -/
def storedKeys : List Nat :=
  (List.range 0x3000).flatMap fun idx => ((List.range 256).map (odKey idx)).filter isStored

/-- Segments of the large tables, ascending, with their sizes (R69). -/
def storedSegments : List (Nat × Nat × Nat) :=
  ((List.range 0x500).map (0x5000 + ·)).flatMap fun idx => match tableShape idx with
    | some (n, size) => (List.range n).map (fun i => (idx, i + 1, size))
    | none => []

/-- One record of a copy: its head, and the value padded to whole words (R48). -/
def copyRecord (idx sub : Nat) (v : List Byte) : List Byte :=
  leBytes 2 idx ++ leBytes 1 sub ++ leBytes 1 0 ++ leBytes 4 v.length ++ v ++ List.replicate ((4 - v.length % 4) % 4) 0

/-- The records of a copy, in ascending index and subindex (R48). -/
def CfgCopy.records (c : CfgCopy) : List (List Byte) :=
  (storedKeys.map fun k => copyRecord (k / 256) (k % 256) (match entryRow (k / 256) (k % 256) with
    | some r => encodeValue r.ty (Store.find odDefault c.values k)
    | none => [])) ++
  (storedSegments.map fun (idx, sub, size) =>
    copyRecord idx sub (Memory.readBytes c.tables (tableAddr (if 0x5024 ≤ idx && idx ≤ 0x5027 then idx - 4 else idx) sub 0) size))

/-- Bytes 0 to 59 of the header of a copy (R48). -/
def CfgCopy.header (c : CfgCopy) : List Byte :=
  leBytes 4 c.magic.toNat ++ leBytes 4 c.generation ++ leBytes 4 c.count ++ leBytes 4 c.size ++ leBytes 4 c.epoch ++
    leBytes 4 c.imageId ++ leBytes 4 c.product.toNat ++ leBytes 1 c.majorLine.toNat ++ List.replicate 31 0

/-- The counts and the CRC-32 of a copy are those of its records (R48). -/
def CfgCopy.seal (c : CfgCopy) : CfgCopy :=
  let counted := { c with count := c.records.length, size := (c.records.map List.length).sum }
  { counted with crc := crc32 (counted.header ++ c.records.flatten) }

/-- A copy is valid on this device (R48). -/
def copyValid (d : Dev) (c : CfgCopy) : Bool :=
  c.magic = 0x4B5A4346 && c.product.toNat = productCode d && c.majorLine.toNat = majorLine d &&
    c.size = (c.records.map List.length).sum && c.size ≤ 8 * 1024 * 1024 - 64 && c.crc = crc32 (c.header ++ c.records.flatten)

/-- The copy that a save writes: an invalid one, or the older (R49). -/
def olderIsOne (d : Dev) : Bool :=
  let q := d.dict
  if !copyValid d q.copy0 then false else if !copyValid d q.copy1 then true else q.copy1.generation < q.copy0.generation

/-- The large tables as a save stores them: a unicast row that holds a learned entry is an empty row (R69). -/
def savedTables (d : Dev) : List Host.Cell :=
  d.dict.mem.filter fun c =>
    !d.fab.learned.any (fun l => tableAddr (0x5000 + l.row / 256) 1 (16 * (l.row % 256)) ≤ c.1 &&
      c.1 < tableAddr (0x5000 + l.row / 256) 1 (16 * (l.row % 256)) + 16)

/-- Saves the committed value of every stored entry into the older copy, whose generation then rises (R49). DESIGN CHOICE,
unsafe (log entry 18). -/
def saveCopy (d : Dev) : Dev :=
  let q := d.dict
  let c : CfgCopy := CfgCopy.seal {
    magic := 0x4B5A4346, generation := (max q.copy0.generation q.copy1.generation) % 0xFFFFFFFF + 1, count := 0, size := 0
    epoch := q.epoch, imageId := cfg d 0x2011 4, product := BitVec.ofNat 32 (productCode d)
    majorLine := BitVec.ofNat 8 (majorLine d), crc := 0
    values := q.od.filter (fun x => isStored x.1), tables := savedTables d, marked := false }
  if olderIsOne d then { d with dict := { q with copy1 := c } } else { d with dict := { q with copy0 := c } }

/-! ### Numberings (R93, R117) -/

/-- The numbering that a commit body gives the node with an identity; `ids` are the vehicle and consist identities of its
entries, which the directory shows (R117). DEDUCED, safe (log entry 26). -/
def numberingOf (ident : Word48) (b : CommitBody) (ids : List DirIds) : Numbering :=
  let rows := b.entries.filter (fun e => e.node ≠ 0)
  let own := b.entries.find? (fun e => e.ident = ident)
  { epoch := b.epoch.toNat, topo := b.topo, node := (own.map (·.node.toNat)).getD 0,
    consist := (own.map (·.consist.toNat)).getD 0, vehicle := (own.map (·.vehicle.toNat)).getD 0,
    inverse := (own.map (·.inverse)).getD false, consistInverse := (own.map (·.consistInverse)).getD false,
    primary := (own.map (·.primary)).getD false, refEnd := b.refEnd, consists := b.consists.toNat,
    dir := rows.zipIdx.map fun (e, i) =>
      { ident := e.ident, vehicle := e.vehicle.toNat, consist := e.consist.toNat, inverse := e.inverse,
        consistInverse := e.consistInverse, primary := e.primary, held := e.held,
        vehicleId := (ids[i]?.map (·.vehicle)).getD 0, consistId := (ids[i]?.map (·.consist)).getD 0 } }

/-- Numbers of the nodes of a vehicle identity other than 0, ascending (R112, R228). DESIGN CHOICE, unsafe (log entry 55). -/
def vehicleNodes (n : Numbering) (vehicle : BitVec 32) : List Nat :=
  if vehicle = 0 then []
  else (n.dir.zipIdx 1).filterMap (fun (x, i) => if x.vehicleId = vehicle then some i else none)

/-- The node with a rank in a vehicle, counted from the vehicle's end 1 (R228). -/
def rankedNode (n : Numbering) (vehicle : BitVec 32) (rank : Nat) : Option Nat :=
  let l := vehicleNodes n vehicle
  let inverse := (l.head?.bind (fun i => n.dir[i - 1]?)).any (·.inverse)
  (if inverse then l.reverse else l)[rank]?

/-- A round is in progress (R111). -/
def inRound (d : Dev) : Bool :=
  match d.inaug.state with
  | .claiming | .census | .reporting | .committing => true
  | _ => false

end Sys2Proof.Machine
end

