-- ==== Sys2Proof/Machine/Schedule.lean ====
section
/-! DEFINITION. Scheduled traffic: images, the gate bank builder, boundaries, windows and the distribution of images
(chapter 07). -/

namespace Sys2Proof.Machine

/-- Event "gate bank changed" (R261). -/
def evBankChanged : Ev := ⟨5, 2, 1, 0⟩
/-- Event "image adopted". -/
def evImageAdopted : Ev := ⟨5, 3, 2, 0⟩
/-- Event "image took force". -/
def evImageForce : Ev := ⟨5, 3, 2, 1⟩
/-- Event "fence left". -/
def evFenceOut : Ev := ⟨5, 5, 3, 1⟩
/-- Event "window dropped at build, with its identifier". -/
def evWindowDropped : Ev := ⟨5, 5, 4, 0⟩
/-- Event "image refused". -/
def evImageRefused : Ev := ⟨5, 5, 5, 0⟩
/-- Event "node Waiting at an activation boundary". -/
def evWaitingAtBoundary : Ev := ⟨5, 6, 6, 0⟩

/-- Changes the schedule's record. -/
def onSched (f : SchedS → SchedS) (d : Dev) : Dev := { d with sched := f d.sched }

/-! ### Images (R225, R226) -/

/-- One window record. -/
def windowOf (r : List Byte) : Window :=
  let fl := beNat (slice r 2 1)
  { id := beNat (slice r 0 2), redundant := bitOf fl 0, whole := bitOf fl 1, rank := beNat (slice r 3 1),
    talker := BitVec.ofNat 32 (beNat (slice r 4 4)), offset := beNat (slice r 8 4), length := beNat (slice r 12 2),
    guardNs := beNat (slice r 14 2), hop := beNat (slice r 16 2), maxFrame := beNat (slice r 18 2),
    stream := BitVec.ofNat 48 (beNat (slice r 20 6)), vlan := beNat (slice r 26 2) % 4096,
    listener := BitVec.ofNat 32 (beNat (slice r 28 4)) }

/-- Every window identifier once. -/
def distinctIds : List Window → Bool
  | [] => true
  | w :: ws => !ws.any (fun v => v.id = w.id) && distinctIds ws

/-- A window record lies in its ranges (R226). -/
def windowOk (cycle : Nat) (w : Window) : Bool :=
  1 ≤ w.id && w.id ≤ 0xFFFE && w.rank ≤ 3 && w.offset < cycle && 100 ≤ w.length && w.length ≤ 8000 &&
    2 * w.guardNs ≤ w.length && 1250 ≤ w.hop && w.hop ≤ 8000 && 64 ≤ w.maxFrame && w.maxFrame ≤ 1522

/-- Reads an image; none when its header, its length, its record CRC or a record is wrong (R225, R226). DESIGN CHOICE, safe
(log entry 58). -/
def parseImage (bs : List Byte) : Option SchedImage :=
  let n := beNat (slice bs 24 2)
  let cycle := beNat (slice bs 12 4)
  let ident := beNat (slice bs 4 4)
  let gen := beNat (slice bs 8 4)
  let recs := slice bs 32 (32 * n)
  let ws := (List.range n).map (fun i => windowOf (slice recs (32 * i) 32))
  if beNat (slice bs 0 4) = 0x4B5A5453 && ident ≠ 0 && gen ≠ 0 && 250000 ≤ cycle && cycle ≤ 10000000 && 1 ≤ n &&
      n ≤ 4096 && bs.length = 32 + 32 * n + blockSize && beNat (slice bs 28 4) = (crc32 recs).toNat &&
      ws.all (windowOk cycle) && distinctIds ws then
    some { identity := BitVec.ofNat 32 ident, generation := gen, cycle := cycle, baseNs := beNat (slice bs 16 8),
           windows := ws, raw := bs, activation := 0 }
  else none

/-- The signature of an image is accepted (R536, R537). DESIGN CHOICE, safe (log entry 58). -/
def imageSigned (d : Dev) (bs : List Byte) : Bool :=
  blockOk d 2 (bs.take (bs.length - blockSize)) (bs.drop (bs.length - blockSize))

/-- Every generation that the node holds (R233, R236). -/
def heldGenerations (d : Dev) : List Nat :=
  (d.sched.image.toList ++ d.sched.pending.toList).map (·.generation)

/-! ### The builder (R228, R229) -/

/-- First and last node number of a window's path. DESIGN CHOICE, unsafe (log entry 55). -/
def pathOf (n : Numbering) (w : Window) (t : Nat) : Nat × Nat :=
  if w.whole then (1, n.dir.length)
  else
    let away (x : Nat) : Nat := (x - t) + (t - x)
    let far := (vehicleNodes n w.listener).foldl (fun b x => if away b < away x then x else b) t
    (min far t, max far t)

/-- Backbone ports of a side that carry a window (R228, R138). -/
def windowLanes (d : Dev) (rear redundant : Bool) : List Port :=
  if redundant then [sidePort rear false, sidePort rear true] else [laneFor d rear]

/-- Consist ports that the table entry of a stream names (R228). -/
def streamConsistPorts (d : Dev) (mac vlan : Nat) : List Port :=
  (if isGroup mac then
    match findMulticast d mac vlan with
    | some r => maskPorts (leNat (slice r 8 4))
    | none => []
  else
    match findUnicast d mac vlan with
    | some (_, r) => allPorts.filter (fun p => p.val = leNat (slice r 9 1))
    | none => []).filter (!isBackbone ·)

/-- The sides of the node that lead away from a talker along a path (R228). -/
def awaySides (n : Numbering) (t lo hi : Nat) : List Bool :=
  (if n.node < hi && t ≤ n.node then [higherSideRear n] else []) ++
    (if lo < n.node && n.node ≤ t then [!higherSideRear n] else [])

/-- An entry of a window at a port. -/
def entryAt (w : Window) (p : Port) (openNs : Nat) (receive : Bool) : GateEntry :=
  { port := p, openNs := openNs, length := w.length, guardNs := w.guardNs, window := w.id, maxFrame := w.maxFrame,
    receive := receive, redundant := w.redundant, stream := w.stream, vlan := w.vlan }

/-- The entries of one window at the node, none when its talker is absent or the node is not on its path (R228). DESIGN
CHOICE, unsafe (log entry 55). -/
def placeWindow (d : Dev) (img : SchedImage) (n : Numbering) (w : Window) : List GateEntry :=
  match rankedNode n w.talker w.rank with
  | none => []
  | some t =>
    let (lo, hi) := pathOf n w t
    if n.node = 0 || n.node < lo || hi < n.node then []
    else
      let h := (n.node - t) + (t - n.node)
      let openNs := (w.offset + h * w.hop) % img.cycle
      let ports := ((awaySides n t lo hi).flatMap (fun r => windowLanes d r w.redundant) ++
        streamConsistPorts d w.stream.toNat w.vlan).eraseDups
      let tx := ports.map (fun p => entryAt w p openNs false)
      let rx := match sideOf n t with
        | some rear => (windowLanes d rear w.redundant).map fun p =>
            entryAt w p ((w.offset + (h - 1) * w.hop + (d.time.ports[p].linkDelay + 500) / 1000) % img.cycle) true
        | none => []
      tx ++ rx

/-- Two entries of one direction overlap within the cycle. DESIGN CHOICE, unsafe (log entry 54). -/
def overlaps (cycle : Nat) (a b : GateEntry) : Bool :=
  let x := (b.openNs + cycle - a.openNs) % cycle
  x < a.length || (cycle - x) % cycle < b.length

/-- Inserts an interval by its start. -/
def insertSpan (s : Nat × Nat) : List (Nat × Nat) → List (Nat × Nat)
  | [] => [s]
  | x :: xs => if s.1 ≤ x.1 then s :: x :: xs else x :: insertSpan s xs

/-- Gaps of at least 2 µs between sorted spans, up to a moment. -/
def wideGaps : Nat → List (Nat × Nat) → Nat → List (Nat × Nat)
  | now, [], stop => if now + 2000 ≤ stop then [(now, stop)] else []
  | now, (s, e) :: xs, stop => (if now + 2000 ≤ s then [(now, s)] else []) ++ wideGaps (max now e) xs stop

/-- Each gap starts at most 6 µs after the one before it ended. -/
def gapsClose : List (Nat × Nat) → Bool
  | a :: b :: l => b.1 ≤ a.2 + 6000 && gapsClose (b :: l)
  | _ => true

/-- R84: every 10 µs of the cycle holds 2 µs without a window. -/
def keepsR84 (cycle : Nat) (l : List GateEntry) : Bool :=
  match (l.map (fun g => (g.openNs, g.openNs + g.length))).foldr insertSpan [] with
  | [] => true
  | (s, e) :: xs =>
    match wideGaps e xs (s + cycle) with
    | [] => false
    | g :: gs => gapsClose (g :: gs ++ [(g.1 + cycle, g.2 + cycle)])

/-- A port's entries with new ones still fit (R229). DESIGN CHOICE, unsafe (log entry 54). -/
def portFits (cycle : Nat) (p : Port) (old new : List GateEntry) : Bool :=
  let o := old.filter (·.port = p)
  let m := new.filter (·.port = p)
  o.length + m.length ≤ (if isBackbone p then 2048 else 512) &&
    !(m.any fun a => o.any fun b => a.receive = b.receive && overlaps cycle a b) &&
    (!isBackbone p || keepsR84 cycle ((o ++ m).filter (!·.receive)))

/-- A window's entries fit on every port (R229). DESIGN CHOICE, unsafe (log entry 54). -/
def windowFits (cycle : Nat) (old new : List GateEntry) : Bool := allPorts.all (fun p => portFits cycle p old new)

/-- Inserts a window by its identifier. DESIGN CHOICE, unsafe (log entry 54). -/
def insertWindow (w : Window) : List Window → List Window
  | [] => [w]
  | x :: xs => if w.id ≤ x.id then w :: x :: xs else x :: insertWindow w xs

/-- The gate bank of an image under a numbering, and the windows dropped (R228, R229). DESIGN CHOICE, unsafe (log entry 54).
-/
def buildGates (d : Dev) (img : SchedImage) (n : Numbering) : List GateEntry × List Nat :=
  (img.windows.foldr insertWindow []).foldl (fun (bank, dropped) w =>
    match placeWindow d img n w with
    | [] => (bank, dropped)
    | new => if windowFits img.cycle bank new then (bank ++ new, dropped) else (bank, dropped ++ [w.id])) ([], [])

/-- Counts and reports the windows dropped at a build (R229, R261). -/
def reportDropped (l : List Nat) (d : Dev) : Dev :=
  forEach l (fun w d => raiseP evWindowDropped (w % 256) (leBytes 2 w) (bump 0x2505 0x0A d)) d

/-- The bank of the image in force under a numbering, with its reports. -/
def builtGates (n : Numbering) (d : Dev) : List GateEntry × Dev :=
  match d.sched.image with
  | some img => let (g, dr) := buildGates d img n; (g, reportDropped dr d)
  | none => ([], d)

/-! ### Local gate lists (R242) -/

/-- The valid entries of the lists that the host wrote. -/
def localGates (d : Dev) : List GateEntry :=
  (listedRecords d.dict.mem 0x5100 0x5113 32).filterMap fun (idx, sub, k) =>
    let r := tableBytes d idx sub (32 * k) 32
    let fl := leNat (slice r 12 1)
    if bitOf fl 0 then
      some { port := Fin.ofNat 20 (idx - 0x5100), openNs := leNat (slice r 0 4), length := leNat (slice r 4 2),
             guardNs := leNat (slice r 6 2), window := leNat (slice r 8 2), maxFrame := leNat (slice r 10 2),
             receive := bitOf fl 1, redundant := bitOf fl 2, stream := BitVec.ofNat 48 (beNat (slice r 16 6)),
             vlan := leNat (slice r 22 2) % 4096 }
    else none

/-- A gate list entry as 0x5100 + p shows it (R242). -/
def gateBytes (g : GateEntry) : List Byte :=
  leBytes 4 g.openNs ++ leBytes 2 g.length ++ leBytes 2 g.guardNs ++ leBytes 2 g.window ++ leBytes 2 g.maxFrame ++
    leBytes 1 (1 + bitAt 1 g.receive + bitAt 2 g.redundant) ++ leBytes 3 0 ++ beBytes 6 g.stream.toNat ++
    leBytes 2 g.vlan ++ leBytes 8 0

/-! ### Banks and boundaries (R234, R235, R250, R252) -/

/-- Windows placed at the node, each once. -/
def placedWindows (l : List GateEntry) : List Nat := (l.map (·.window)).eraseDups

/-- Every port changes to a gate bank: frames of withdrawn windows are discarded, counters and sequence state follow the
windows (R243, R250, R259). DESIGN CHOICE, unsafe (log entry 56). -/
def switchGates (gates : List GateEntry) (d : Dev) : Dev :=
  let old := placedWindows d.sched.gates
  let new := placedWindows gates
  let keep (p : Port) (f : QFrame) : Bool := gates.any (fun g => !g.receive && g.port = p && some g.window = f.window)
  let d1 := discardAll (fun p q f => q = 6 && !keep p f) 2 (fun _ _ _ => bump 0x2505 0x0D) d
  raise evBankChanged noInst (onSched (fun s => { s with
    gates := gates, bankOne := !s.bankOne
    built := if s.builtFor = d1.inaug.now.epoch then none else s.built, switchPending := false, lastBoundary := trainTime d1
    windows := Vector.ofFn (fun p => match s.windows[p] with
      | some w => if gates.any (fun g => !g.receive && g.port = p && g.window = w.entry.window) then some w else none
      | none => none)
    counters := s.counters ++ (new.filter (fun w => !s.counters.any (fun c => c.window = w))).map
      (fun w => { window := w, counts := Vector.replicate 7 0 })
    seqs := s.seqs.filter (fun q => old.contains q.window && new.contains q.window) }) d1)

/-- Closes every Q6 gate (R248, R254). -/
def closeWindows (d : Dev) : Dev := onSched (fun s => { s with windows := Vector.replicate 20 none }) d

/-- Discards every queued Q6 frame (R254). -/
def dropQ6 (d : Dev) : Dev := discardAll (fun _ q _ => q = 6) 2 (fun _ _ _ => id) d

/-- Starts the builder for a COMMIT or a lane change (R230, R245, R251, R255). -/
def startGateBuild (d : Dev) : Dev :=
  if safeLow d || d.sched.image.isNone || d.sched.state = .off || d.sched.state = .localOnly then d
  else onSched (fun s => { s with building := true, built := none }) d

/-- An epoch switch point: the change to the new bank waits for the next cycle boundary (R250, R251). -/
def schedEpochSwitch (d : Dev) : Dev :=
  onSched (fun s => { s with
    lastSwitch := trainTime d
    switchPending := !safeLow d && s.image.isSome && scheduleActive d && s.state ≠ .localOnly
    switchOffer := if s.offerDue.isSome then some (d.now + 10 * msNs) else none }) d

/-- GATE_BANK_BUILT (R230, R245, R251). -/
def execGateBankBuilt (s : State) : Result :=
  s.does fun d =>
    if d.sched.building then
      let n := match d.inaug.accepted with
        | some a => numberingOf d.chip.ident a.body a.ids
        | none => d.inaug.now
      let (g, d1) := builtGates n d
      onSched (fun s => { s with
        building := false, built := some g, builtFor := n.epoch
        switchPending := s.switchPending || (d.inaug.accepted.isNone && scheduleActive d) }) d1
    else d

/-- The node follows a time that fences it, apart from a Sync's offset (R247). -/
def timeFences (d : Dev) : Bool :=
  d.time.state = .unsynchronised ||
    (d.time.state = .holdover && match d.time.holdSince with
      | some t => decide (cfg d 0x2501 5 * msNs < d.now - t)
      | none => false) || offsetFences d.time.offset d && d.sched.badSeen

/-- The first boundary of a schedule at or after the present. -/
def boundaryNow (d : Dev) : Nat :=
  match (d.sched.image.map (fun i => (i.cycle, i.baseNs))) with
  | some (c, b) =>
    if schedRuns d = .localOnly then firstInstant (cfg d 0x2501 0x0A) (cfg d 0x2501 9) (trainTime d)
    else firstInstant b c (trainTime d)
  | none => firstInstant (cfg d 0x2501 0x0A) (cfg d 0x2501 9) (trainTime d)

/-- Payload of a distribution frame (R231). -/
def distPayload (kind identity generation activation number crc : Nat) (data : List Byte) : List Byte :=
  beBytes 1 kind ++ beBytes 1 1 ++ beBytes 2 data.length ++ beBytes 4 identity ++ beBytes 4 generation ++
    beBytes 8 activation ++ beBytes 4 number ++ beBytes 4 crc ++ beBytes 4 0 ++ data

/-- Sends a distribution frame from Q4 of a port (R231). -/
def sendDist (p : Port) (kind identity generation activation number crc : Nat) (data : List Byte) (d : Dev) : Dev :=
  sendOwn p 4 (ownFrame d nearestBridge 0x88B6 (distPayload kind identity generation activation number crc data))
    (emit (.dist p kind identity generation activation number crc data) d)

/-- OFFER frames for the image in force and the pending one on one port (R231, R232). -/
def sendOffers (p : Port) (d : Dev) : Dev :=
  if cfg d 0x2501 1 = 1 && portUp d p then
    forEach (d.sched.image.toList ++ d.sched.pending.toList) (fun i =>
      sendDist p 1 i.identity.toNat i.generation i.activation i.raw.length (crc32 i.raw).toNat []) d
  else d

/-- OFFERs on every backbone port that is Up (R232). -/
def offerAll (d : Dev) : Dev := forEach backbonePorts sendOffers d

/-- An image becomes pending (R233, R234). -/
def adoptImage (img : SchedImage) (d : Dev) : Dev :=
  offerAll (raise evImageAdopted noInst (bump 0x2505 0x0C (onSched (fun s => { s with
    pending := some img, lastRefused := false, offered := s.offered.filter (fun x => decide (img.generation < x.1)) }) d)))

/-- Activation boundary of the pending image (R234). -/
def activationOf (d : Dev) (i : SchedImage) : Nat :=
  firstInstant i.baseNs i.cycle (max i.activation
    (if d.sched.lastSwitch = 0 then 0 else d.sched.lastSwitch + cfg d 0x2501 6 * msNs))

/-- When a generation that is known but not held is due: at a boundary of the image in force (R234, R235). -/
def offeredDue (d : Dev) (activation : Nat) : Nat :=
  firstInstant ((d.sched.image.map (·.baseNs)).getD 0) ((d.sched.image.map (·.cycle)).getD 1)
    (max activation (if d.sched.lastSwitch = 0 then 0 else d.sched.lastSwitch + cfg d 0x2501 6 * msNs))

/-- A newer generation is known and due, but not yet in force (R235). -/
def newerDue (d : Dev) : Bool :=
  d.sched.offered.any (fun x => decide (offeredDue d x.2 ≤ trainTime d)) ||
    d.sched.pending.any (fun i => decide (activationOf d i ≤ trainTime d))

/-- The pending image takes force (R234, R235). -/
def forceImage (i : SchedImage) (d : Dev) : Dev :=
  offerAll (raise evImageForce noInst (onSched (fun s => { s with image := some i, pending := none }) d))

/-- Every port changes to the bank that is built now for the present epoch from the image in force. -/
def switchToBuilt (d : Dev) : Dev :=
  let (g, d1) := builtGates d.inaug.now d
  switchGates g (onSched (fun s => { s with building := s.building && d.inaug.accepted.isSome }) d1)

/-- GATE_SWITCH_BOUNDARY: the bank built for the present epoch takes force; an image whose activation boundary is the same
takes force with it, in one change (R11, R245, R250, R251, R255). -/
def execGateSwitchBoundary (s : State) : Result :=
  s.does fun d =>
    if d.sched.switchPending && scheduleActive d && d.sched.state ≠ .localOnly then
      let d1 := arriveTrain (boundaryNow d) d
      match d1.sched.pending.filter (fun i => decide (activationOf d1 i ≤ trainTime d1)), d1.sched.built with
      | some i, _ => switchToBuilt (forceImage i d1)
      | none, some g => if d1.sched.builtFor = d1.inaug.now.epoch then switchGates g d1 else switchToBuilt d1
      | none, none => switchToBuilt d1
    else d

/-- What waits for a cycle boundary in each state (R249, R252, R254). -/
def atCycleBoundary (d : Dev) : Dev :=
  let d0 := onSched (fun s => { s with cutUntil := s.cutUntil.filter (fun t => decide (trainTime d < t)) }) d
  if d0.sched.closing.isSome then
    dropQ6 (closeWindows (onSched (fun s => { s with closing := none, gates := [], built := none }) d0))
  else match d0.sched.state with
  | .waiting =>
    if d0.sched.image.isSome && d0.inaug.now.node ≠ 0 && d0.inaug.now.epoch ≠ 0 && !newerDue d0 then
      let st : SchedState := if timeFences d0 then .fenced else .running
      switchToBuilt (onSched (fun s => { s with state := st }) d0)
    else d0
  | .running =>
    if timeFences d0 then enterFence d0 else onSched (fun s => { s with syncSeen := false, badSeen := false }) d0
  | .fenced =>
    let s := d0.sched
    let good := if s.badSeen then 0 else s.goodCycles + 1
    let since := if s.syncSeen then 0 else s.sinceSync + 1
    let n := cfg d0 0x2501 4
    let fenced := timeFences d0
    let d1 := onSched (fun s => { s with goodCycles := good, sinceSync := since, syncSeen := false, badSeen := false }) d0
    if n ≤ good && since < n && !fenced then
      raise evFenceOut noInst (onSched (fun s => { s with state := .running }) d1)
    else d1
  | .localOnly => if d0.sched.switchPending then switchGates (localGates d0) d0 else d0
  | .off => d0

/-- CYCLE_BOUNDARY (R225, R249, R252, R254). -/
def execCycleBoundary (s : State) : Result :=
  s.does fun d =>
    if d.sched.state = .off && d.sched.closing.isNone then d else atCycleBoundary (arriveTrain (boundaryNow d) d)

/-- ACTIVATION_BOUNDARY (R234, R235, R254). -/
def execActivationBoundary (s : State) : Result :=
  s.does fun d =>
    match d.sched.pending with
    | some i =>
      let d1 := arriveTrain (max (activationOf d i) (firstInstant i.baseNs i.cycle (trainTime d))) d
      let d2 := forceImage i d1
      match d2.sched.state with
      | .running | .fenced => switchToBuilt d2
      | _ => d2
    | none =>
      match d.sched.offered, d.sched.state with
      | some (_, t), .running | some (_, t), .fenced =>
        let d1 := arriveTrain (max (boundaryNow d) (offeredDue d t)) d
        raise evWaitingAtBoundary noInst (closeWindows (onSched (fun s => { s with state := .waiting }) d1))
      | _, _ => d

/-! ### Windows (R238, R239, R246) -/

/-- Discards stale frames from the head of Q6 (R239). DESIGN CHOICE, unsafe (log entry 56). -/
def dropStale (p : Port) : Nat → Nat → Dev → Dev
  | 0, _, d => d
  | n + 1, cycle, d =>
    match (queueOf d p 6).head? with
    | some f =>
      if f.queuedAt + cycle < d.now then
        dropStale p n cycle (bumpWin (f.window.getD 0) 6 (bump 0x2505 7
          (settle f 2 (setQueue p 6 (queueOf d p 6).tail d))))
      else d
    | none => d

/-- WINDOW_OPEN (R238, R239, R252). -/
def execWindowOpen (p : Port) (window : BitVec 16) (s : State) : Result :=
  s.does fun d =>
    match schedCycle d, d.sched.gates.find? (fun g => !g.receive && g.port = p && g.window = window.toNat) with
    | some (c, b), some g =>
      if gatesRun d then
        let t := firstInstant (b + g.openNs) c (max (trainTime d) (d.sched.cutUntil.getD 0))
        let d1 := holdCredit p (arriveTrain t d)
        let d2 := onSched (fun s => { s with windows := vmod s.windows p (fun _ =>
          some { entry := g, openedAt := t, closeAt := t + (g.length - guardNow d1 g), closed := false }) }) d1
        dropStale p (queueOf d2 p 6).length c d2
      else d
    | _, _ => d

/-- WINDOW_HARD_CLOSE: Q6 closes; the other queues, with the credit of Q5, run again from the window's end (R237, R239, R241,
R259). -/
def execWindowHardClose (p : Port) (s : State) : Result :=
  s.does fun d =>
    match (windowNow d p).filter (fun w => !w.closed) with
    | some w =>
      let d1 := arriveTrain w.closeAt d
      let d2 := match (queueOf d1 p 6).head? with
        | some f => bumpWin (f.window.getD w.entry.window) 5 (bump 0x2505 6 d1)
        | none => d1
      resumeCredit p (d2.now + (w.openedAt + w.entry.length - trainTime d2))
        (onSched (fun s => { s with windows := vmod s.windows p (fun _ => some { w with closed := true }) }) d2)
    | none => d

/-- RECEIVE_ENTRY_CLOSE: an instance without a frame counts an empty slot, once for the lanes of a window (R246). DEDUCED,
unsafe (log entry 57). -/
def execReceiveEntryClose (p : Port) (window : BitVec 16) (s : State) : Result :=
  s.does fun d =>
    match schedCycle d, d.sched.gates.filter (fun g => g.receive && g.window = window.toNat) with
    | some (c, b), g :: _ =>
      if scheduleActive d && g.port = p then
        let d1 := arriveTrain (firstInstant (b + g.openNs + g.length) c (trainTime d)) d
        let came := d1.sched.arrived.any (fun x => x.2 = window.toNat)
        let d2 := onSched (fun s => { s with arrived := s.arrived.filter (fun x => x.2 ≠ window.toNat) }) d1
        if came then d2 else countEv 0x011 0 0 1 (bumpWin window.toNat 1 (bump 0x2505 1 d2))
      else d
    | _, _ => d

/-- SEQUENCE_HISTORY_RESET (R244). -/
def execSequenceHistoryReset (window : BitVec 16) (s : State) : Result :=
  s.does fun d =>
    let q := seqOf d window.toNat
    match q.resetAt with
    | some t => setSeq { q with started := false, history := [], resetAt := none } (arrive t d)
    | none => d

/-- HOLDOVER_FENCE_TIME: Holdover has lasted longer than 0x2501:05 (R247). -/
def execHoldoverFenceTime (s : State) : Result :=
  s.does fun d =>
    match d.time.state, d.time.holdSince with
    | .holdover, some t => enterFence (arrive (t + cfg d 0x2501 5 * msNs + 1) d)
    | _, _ => d

/-! ### Distribution (R231 to R233) -/

/-- A distribution frame with `n` bytes of chunk data keeps the layout of its kind (R231). DESIGN CHOICE, safe (log entry
58). -/
def distFits (kind n : Nat) (h : DistHeader) : Bool :=
  h.version = 1 && h.reserved = 0 && h.length.toNat = n &&
    (if kind = 1 then n = 0 && 1 ≤ h.number.toNat && h.number.toNat ≤ 196608
     else h.activation = 0 && h.crc = 0 && h.number.toNat ≤ 191 && if kind = 2 then n = 0 else n ≤ 1024)

/-- A distribution frame that keeps its layout arrives on a backbone port (R231). -/
def distOk (p : Port) (kind n : Nat) (h : DistHeader) : Bool := isBackbone p && distFits kind n h

/-- A distribution frame that is dropped counts in 0x2505:0B (R231). -/
def distDrop (d : Dev) : Dev := bump 0x2505 0x0B d

/-- A distribution frame on a port that is Up: counted as good, and dropped or taken (R166, R175, R231). -/
def takeDist (p : Port) (kind : Nat) (h : DistHeader) (data : List Byte) (f : Dev → Dev) (d : Dev) : Dev :=
  if !portUp d p then d
  else
    let d1 := countGood p (frameLen (32 + data.length)) d
    if distOk p kind data.length h then f d1 else distDrop d1

/-- Sends the REQUEST for the next chunk of a reception (R233). -/
def requestChunk (d : Dev) : Dev :=
  match d.sched.reception with
  | some r => sendDist r.port 2 (cfg d 0x2501 2) r.generation 0 r.chunk 0 []
      (onSched (fun s => { s with reception := some { r with deadline := d.now + 10 * msNs } }) d)
  | none => d

/-- A generation is above every one that the node holds or knows of. -/
def newlyOffered (d : Dev) (gen : Nat) : Bool := (heldGenerations d).all (· < gen)

/-- OFFER (R233, R235): the node knows of the generation, and its control complex requests it. -/
def execOffer (p : Port) (head : DistHead) (size crc : BitVec 32) (activation : BitVec 64) (s : State) : Result :=
  let h : DistHeader := ⟨head, ⟨size, crc, activation⟩⟩
  s.does <| takeDist p 1 h [] fun d =>
    let gen := h.generation.toNat
    if cfg d 0x2501 1 = 1 && h.identity.toNat = cfg d 0x2501 2 && h.identity ≠ 0 && newlyOffered d gen then
      let known := onSched (fun s => { s with
        offers := (p, gen) :: s.offers.filter (fun x => x ≠ (p, gen))
        offered := if s.offered.any (fun x => decide (gen < x.1)) then s.offered else some (gen, h.activation.toNat) }) d
      if !d.pow.agentReady || d.sched.reception.any (fun r => gen ≤ r.generation) then known
      else requestChunk (onSched (fun s => { s with
        lastRefused := false
        reception := some { generation := gen, size := h.number.toNat, crc := h.crc, activation := h.activation.toNat
                            port := p, chunk := 0, repeats := 0, data := [], deadline := d.now + 10 * msNs
                            verifying := false } }) known)
    else d

/-- REQUEST: the node answers with the CHUNK of an image that it holds (R233). -/
def execRequest (p : Port) (head : DistHead) (chunk : DistTail) (s : State) : Result :=
  let h : DistHeader := ⟨head, chunk⟩
  s.does <| takeDist p 2 h [] fun d =>
    match (d.sched.image.toList ++ d.sched.pending.toList).find? (fun i =>
        i.identity = h.identity && i.generation = h.generation.toNat) with
    | some i =>
      let bs := slice i.raw (1024 * h.number.toNat) 1024
      if bs.isEmpty then d else sendDist p 3 i.identity.toNat i.generation 0 h.number.toNat 0 bs d
    | none => d

/-- CHUNK; a control complex that has stopped requests no further chunk (R233, R255). -/
def execChunk (p : Port) (head : DistHead) (number : DistTail) (data : List Byte) (s : State) : Result :=
  let h : DistHeader := ⟨head, number⟩
  s.does <| takeDist p 3 h data fun d =>
    match d.sched.reception with
    | some r =>
      if r.port = p && r.generation = h.generation.toNat && h.identity.toNat = cfg d 0x2501 2 && !r.verifying &&
          h.number.toNat = r.chunk then
        if data.length = min 1024 (r.size - r.data.length) then
          let r1 := { r with data := r.data ++ data, chunk := r.chunk + 1, repeats := 0 }
          if r.size ≤ r1.data.length then
            onSched (fun s => { s with reception := some { r1 with verifying := true } }) d
          else
            let d1 := onSched (fun s => { s with reception := some r1 }) d
            if d.pow.agentReady then requestChunk d1 else d1
        else distDrop d
      else d
    | none => d

/-- The OFFERs of the period of 0x2501:07 (R232). -/
def offerPeriodically (t : Nat) (d : Dev) : Dev :=
  let d1 := arrive t d
  offerAll (onSched (fun s => { s with offerDue := some (d1.now + cfg d1 0x2501 7 * sNs) }) d1)

/-- OFFER_PERIOD: the earlier of the period of 0x2501:07 and the OFFER 10 ms after a switch point (R232). -/
def execOfferPeriod (s : State) : Result :=
  s.does fun d =>
    match d.sched.offerDue, d.sched.switchOffer with
    | some t, some u =>
      if u < t then offerAll (onSched (fun s => { s with switchOffer := none }) (arrive u d)) else offerPeriodically t d
    | some t, none => offerPeriodically t d
    | none, _ => d

/-- CHUNK_TIMEOUT (R233). -/
def execChunkTimeout (s : State) : Result :=
  s.does fun d =>
    match d.sched.reception with
    | some r =>
      if r.verifying then d
      else
        let d1 := arrive r.deadline d
        if !d1.pow.agentReady then onSched (fun s => { s with reception := none }) d1
        else if r.repeats < 3 then requestChunk (onSched (fun s => { s with reception := some { r with repeats := r.repeats + 1 } }) d1)
        else
          let left := d1.sched.offers.filter (fun x => x ≠ (r.port, r.generation))
          match left.find? (fun x => x.2 = r.generation) with
          | some (q, _) => requestChunk (onSched (fun s => { s with
              offers := left, reception := some { r with port := q, repeats := 0 } }) d1)
          | none => onSched (fun s => { s with offers := left, reception := none }) d1
    | none => d

/-- SCHEDULE_IMAGE_VERIFIED (R233, R236). DESIGN CHOICE, safe (log entry 58). -/
def execScheduleImageVerified (s : State) : Result :=
  s.does fun d =>
    match d.sched.reception with
    | some r =>
      if r.verifying then
        let d1 := onSched (fun s => { s with reception := none }) d
        match parseImage r.data with
        | some i =>
          if crc32 r.data = r.crc && imageSigned d r.data && i.identity.toNat = cfg d 0x2501 2 &&
              i.generation = r.generation then
            let d2 := setBytes 0x2503 1 r.data d1
            adoptImage { i with activation := r.activation } (onlyIf (emmcReady d2) saveCopy d2)
          else refuse (onlyIf (!imageSigned d r.data) refuseSignature d1)
        | none => refuse d1
      else d
    | none => d
where
  /-- The image is discarded and refused (R233). -/
  refuse (d : Dev) : Dev :=
    raise evImageRefused noInst (bump 0x2505 0x0B (onSched (fun s => { s with lastRefused := true, offers := [] }) d))

/-! ### Hooks of other chapters -/

/-- An apply point changes 0x2501:01 (R254). DESIGN CHOICE, unsafe (log entry 127). -/
def applySchedSource (source : Nat) (d : Dev) : Dev :=
  match source with
  | 1 => onSched (fun s => { s with
      state := .waiting, closing := none, switchPending := false, offerDue := some (d.now + cfg d 0x2501 7 * sNs) })
      (closeWindows (if d.sched.state = .localOnly then dropQ6 (onSched (fun s => { s with gates := [] }) d) else d))
  | 2 => onSched (fun s => { s with
      state := .localOnly, closing := none, switchPending := true, offerDue := none, switchOffer := none }) (closeWindows d)
  | _ => onSched (fun s => { s with
      state := .off, closing := if s.state = .off then s.closing else some s.state, switchPending := false
      offerDue := none, switchOffer := none, building := false }) d

/-- An apply point commits an image through 0x2503:01 (R234). -/
def applySchedImage (d : Dev) : Dev :=
  match parseImage (cfgBytes d 0x2503 1) with
  | some i => adoptImage { i with activation := trainTime d + cfg d 0x2501 6 * msNs } d
  | none => d

/-- The boot load takes the saved image in force and 0x2501:01 takes effect (R254, R258). -/
def bootSched (d : Dev) : Dev :=
  let d1 := onSched (fun s => { s with image := parseImage (cfgBytes d 0x2503 1) }) d
  if cfg d1 0x2501 1 = 0 then d1 else applySchedSource (cfg d1 0x2501 1) d1

/-- A port's link changed: Q6 and Q5 of a port without link went with its queue; the banks are built again when the lane of
its side changed and no round is in progress (R245). -/
def laneRebuild (oldLane : Port) (p : Port) (d : Dev) : Dev :=
  if isBackbone p && laneFor d (isRear p) ≠ oldLane && !inRound d then startGateBuild d else d

end Sys2Proof.Machine
end

