-- ==== Sys2Proof/Machine/Streams.lean ====
section
/-! DEFINITION. Announcement and intercom streams: reservations, talkers, listeners and the sample grids (chapter 08). -/

namespace Sys2Proof.Machine

/-- Event "reservation bank changed" (R289). -/
def evResChanged : Ev := ⟨6, 2, 1, 0⟩
/-- Event "listener realigned". -/
def evRealigned : Ev := ⟨6, 3, 2, 0⟩
/-- Event "grid re-phased". -/
def evRephased : Ev := ⟨6, 3, 3, 0⟩
/-- Event "listener entered Waiting from Playing or Holding". -/
def evListenerLost : Ev := ⟨6, 4, 4, 0⟩
/-- Event "reservation dropped at build, with its stream address". -/
def evResDropped : Ev := ⟨6, 5, 5, 0⟩

/-- Changes the stream engine's record. -/
def onStrm (f : StreamsS → StreamsS) (d : Dev) : Dev := { d with strm := f d.strm }

/-- Changes one stream. -/
def onStream (s : Fin 64) (f : StreamS → StreamS) (d : Dev) : Dev :=
  onStrm (fun r => { r with s := vmod r.s s f }) d

/-- All streams. -/
def allStreams : List (Fin 64) := List.finRange 64

/-- A stream's register. -/
def strmReg (d : Dev) (s : Fin 64) (sub : Nat) : Nat := cfg d (0x2610 + s.val) sub

/-! ### Reservations (R266, R267) -/

/-- One row of the reservation table. -/
structure Reservation where
  row : Nat
  address : Word48
  vlan : Nat
  talker : BitVec 32
  whole : Bool
  rank : Nat
  bandwidth : Nat
  deriving DecidableEq, Repr

/-- The valid rows of the reservation table, in row order (R266). -/
def reservations (m : List Host.Cell) : List Reservation :=
  (listedRecords m 0x5030 0x5031 16).filterMap fun (idx, sub, k) =>
    let r := Memory.readBytes m (tableAddr idx sub (16 * k)) 16
    let fl := leNat (slice r 12 1)
    if bitOf fl 0 then
      some { row := 256 * (idx - 0x5030) + k, address := BitVec.ofNat 48 (beNat (slice r 0 6)),
             vlan := leNat (slice r 6 2) % 4096, talker := BitVec.ofNat 32 (leNat (slice r 8 4)), whole := bitOf fl 1,
             rank := bitsOf fl 3 2, bandwidth := leNat (slice r 14 2) }
    else none

/-- First and last node of a reservation's path (R267). DESIGN CHOICE, unsafe (log entry 55). -/
def resPath (n : Numbering) (r : Reservation) (t : Nat) : Nat × Nat :=
  if r.whole then (1, n.dir.length)
  else
    let k := (n.dir[t - 1]?.map (·.consist)).getD 0
    (n.dir.zipIdx 1).foldl (fun (lo, hi) (x, i) => if x.consist = k then (min lo i, max hi i) else (lo, hi)) (t, t)

/-- Configured line rate of a port, Mbit/s. -/
def lineMbps (d : Dev) (p : Port) : Nat := rateMbps (cfg d (0x2300 + p.val) 2)

/-- Bandwidth of a list of placed reservations at a port, units of 100 kbit/s. -/
def placedAt (l : List ResPlaced) (p : Port) : Nat :=
  (l.filter (fun r => r.ports.contains p)).foldl (fun n r => n + r.bandwidth) 0

/-- Where a reservation lies at the node, none when it does not (R267). -/
def placeReservation (d : Dev) (n : Numbering) (r : Reservation) : Option ResPlaced :=
  match rankedNode n r.talker r.rank with
  | none => none
  | some t =>
    let (lo, hi) := resPath n r t
    if n.node = 0 || n.node < lo || hi < n.node then none
    else some {
      row := r.row, address := r.address, vlan := r.vlan, bandwidth := r.bandwidth, here := n.node = t
      ports := ((awaySides n t lo hi).map (laneFor d) ++ streamConsistPorts d r.address.toNat r.vlan).eraseDups }

/-- The reservation bank for a numbering, and the reservations dropped (R267, R277). -/
def buildReservations (d : Dev) (n : Numbering) : List ResPlaced × List ResPlaced :=
  let old := resBank d
  (reservations d.dict.mem).foldl (fun (bank, dropped) r =>
    match placeReservation d n r with
    | none => (bank, dropped)
    | some x =>
      if d.node.profile = 4 && !old.any (fun y => y.row = x.row) then (bank, dropped)
      else if x.ports.all (fun p => (placedAt bank p + x.bandwidth) * 10 ≤ cfg d 0x2601 2 * lineMbps d p) then
        (bank ++ [x], dropped)
      else (bank, dropped ++ [x])) ([], [])

/-- Builds the bank and reports what does not fit (R267, R289). -/
def builtReservations (n : Numbering) (d : Dev) : List ResPlaced × Dev :=
  let (b, dr) := buildReservations d n
  (b, forEach dr (fun x d => raiseP evResDropped (x.row % 256) (beBytes 6 x.address.toNat) (bump 0x2602 1 d)) d)

/-- Starts the builder (R267, R277). -/
def startResBuild (d : Dev) : Dev :=
  if safeLow d then d else onStrm (fun s => { s with building := true, built := none }) d

/-- RESERVATION_BANK_BUILT (R267). -/
def execReservationBankBuilt (s : State) : Result :=
  s.does fun d =>
    if d.strm.building then
      let n := match d.inaug.accepted with
        | some a => numberingOf d.chip.ident a.body a.ids
        | none => d.inaug.now
      let (b, d1) := builtReservations n d
      onStrm (fun s => { s with
        building := false, built := some b, builtFor := n.epoch, switchPending := s.switchPending || d.inaug.accepted.isNone }) d1
    else d

/-- An epoch switch point: the change to the new bank is due at the stream switch boundary (R276, R277). -/
def strmEpochSwitch (d : Dev) : Dev := onStrm (fun s => { s with switchPending := !safeLow d }) d

/-! ### Sample grids (R270, R278) -/

/-- Frame rate of a stream, Hz: its audio port's, or 48 kHz for the host. -/
def strmRate (d : Dev) (s : Fin 64) : Nat :=
  let t := strmReg d s 9
  if t = 0xFF then 48000
  else match cfg d (0x2608 + t) 2 with
    | 2 => 16000
    | 3 => 32000
    | _ => 48000

/-- Time of the grid frame with a number, train time ns (R270). -/
def gridTime (fs k : Nat) : Nat := k / fs * sNs + k % fs * sNs / fs

/-- Present distance of a rate's grid from its grid times. -/
def gridOffset (d : Dev) (fs : Nat) : Int :=
  d.strm.gridOff[if fs = 16000 then (0 : Fin 3) else if fs = 32000 then 1 else 2]

/-- The last grid frame at or before a time. -/
def gridFloor (fs t : Nat) : Nat :=
  let k := t / sNs * fs + t % sNs * fs / sNs
  if gridTime fs (k + 1) ≤ t then k + 1 else k

/-- The grid frame nearest to a time (R272). -/
def gridNearest (fs t : Nat) : Nat :=
  let k := gridFloor fs t
  if gridTime fs (k + 1) - t < t - gridTime fs k then k + 1 else k

/-- A train time from a short time, nearest to the present (R193). -/
def extendShort (d : Dev) (v : BitVec 32) : Nat :=
  ((trainTime d : Int) + (v - BitVec.ofNat 32 (trainTime d)).toInt).toNat

/-- "Time usable" of R275. -/
def timeUsable (d : Dev) : Bool :=
  d.time.state ≠ .unsynchronised && d.time.state ≠ .stepPending && d.strm.rephaseEnd.isNone

/-- REPHASE_END (R278). -/
def execRephaseEnd (s : State) : Result :=
  s.does fun d =>
    match d.strm.rephaseEnd with
    | some t => raise evRephased noInst (onStrm (fun r => { r with rephaseEnd := none, gridOff := Vector.replicate 3 0 }) (arrive t d))
    | none => d

/-! ### Listeners (R265, R272, R273, R275) -/

/-- nsr code of a frame rate (R264). PRESUMED, unsafe (log entry 59). -/
def nsrOf (fs : Nat) : Nat := if fs = 16000 then 2 else if fs = 32000 then 3 else 5

/-- Format code of a bit depth (R264). PRESUMED, unsafe (log entry 59). -/
def formatOf (depth : Nat) : Nat := if depth = 16 then 4 else if depth = 24 then 3 else 2

/-- The stream is a listener for a packet's address and VLAN. -/
def listens (d : Dev) (a : AvtpPacket) (s : Fin 64) : Bool :=
  d.strm.s[s].state ≠ .off && strmReg d s 1 = 2 && strmReg d s 2 % 2 ^ 48 = a.dest.toNat && strmReg d s 3 = a.vlan.toNat

/-- The packet's fields match the listener's entry (R265). -/
def fieldsMatch (d : Dev) (a : AvtpPacket) (s : Fin 64) : Bool :=
  a.subtype = 2 && a.streamId.toNat % 65536 = strmReg d s 4 && a.format.toNat = formatOf (strmReg d s 6) &&
    a.nsr.toNat = nsrOf (strmRate d s) && a.channels.toNat = strmReg d s 5 && a.depth.toNat = strmReg d s 6

/-- Sample frames of a packet's data. PRESUMED, unsafe (log entry 59). -/
def framesOf (a : AvtpPacket) : Nat := a.data.length / max 1 (a.channels.toNat * (a.depth.toNat / 8))

/-- Samples as they stand in host memory: 4 bytes each, left-aligned (R465). -/
def hostSamples (depth : Nat) : Nat → List Byte → List Byte
  | 0, _ => []
  | n + 1, bs =>
    let b := max 1 (depth / 8)
    leBytes 4 (beNat (bs.take b) * 2 ^ (32 - 8 * b)) ++ hostSamples depth n (bs.drop b)

/-- One block to a host listener through ring 9 (R465). -/
def blockToHost (s : Fin 64) (k : Nat) (a : AvtpPacket) (d : Dev) : Dev :=
  match d.host.rings[(9 : Fin 10)].ready with
  | (i, desc) :: rest =>
    if ringReady d.host.rings[(9 : Fin 10)] then
      let n := framesOf a
      let bs := hostSamples a.depth.toNat (n * a.channels.toNat) a.data
      let fits := decide (bs.length ≤ leNat (slice desc 8 2))
      let d1 := onRing 9 (fun g => { g with ready := rest }) (onlyIf fits (emit (.dmaWrite 9 (leNat (slice desc 0 8)) bs)) d)
      writeBackOne 9 i (desc.getD 11 0) 10
        (leBytes 1 s.val ++ [desc.getD 11 0] ++ leBytes 2 n ++ leBytes 2 (if fits then 0 else 2) ++
          leBytes 8 (gridTime (strmRate d s) k)) d1
    else ringDrop 9 d
  | [] => ringDrop 9 d

/-- Slot first + k of a listener carries channel k mod c of a frame, for each of its slots (R282). -/
def slotSamples (d : Dev) (s : Fin 64) (frame : List Byte) : List (Nat × List Byte) :=
  let c := max 1 (strmReg d s 5)
  let b := strmReg d s 6 / 8
  (List.range (strmReg d s 0x0B)).map fun k => (strmReg d s 0x0A + k, slice frame (k % c * b) b)

/-- The frames of a packet's data as the slots of the listener's audio port (R282). -/
def packetSlots (d : Dev) (s : Fin 64) (a : AvtpPacket) : List (List (Nat × List Byte)) :=
  let size := a.channels.toNat * (a.depth.toNat / 8)
  (List.range (framesOf a)).map fun n => slotSamples d s (slice a.data (n * size) size)

/-- Plays a packet from a grid frame: into the slots of its port, or to the host (R262, R282, R465). -/
def playAt (s : Fin 64) (k : Nat) (a : AvtpPacket) (d : Dev) : Dev :=
  let d1 :=
    if strmReg d s 9 = 0xFF then blockToHost s k a d
    else emit (.play s.val (strmReg d s 9) (gridTime (strmRate d s) k) (packetSlots d s a)) d
  onStream s (fun t => { t with expected := k + framesOf a }) d1

/-- Zeros in place of samples (R273, 0x2610 + s:0F). -/
def muteFrames (s : Fin 64) (n : Nat) (d : Dev) : Dev :=
  if n = 0 then d else bumpBy (0x2610 + s.val) 0x0F n (emit (.mute s.val n) d)

/-- Zeros for the packets that a sequence number skips, which move the expected frame (R273). -/
def fillGap (s : Fin 64) (a : AvtpPacket) (d : Dev) : Dev :=
  let g := (a.seq - d.strm.s[s].seq - 1).toNat
  if g = 0 then d
  else
    let n := g * framesOf a
    bump (0x2610 + s.val) 0x11 (muteFrames s n (onStream s (fun t => { t with expected := t.expected + n }) d))

/-- An accepted packet counts and restarts the timeout. -/
def noteAccepted (s : Fin 64) (a : AvtpPacket) (d : Dev) : Dev :=
  countEv 0x012 s.val 0 1 (bump (0x2610 + s.val) 0x0D
    (onStream s (fun t => { t with seq := a.seq, timeout := some (d.now + cfg d 0x2601 4 * msNs) }) d))

/-- A listener realigns to a packet's mapped frame (R275). -/
def realign (s : Fin 64) (k : Nat) (a : AvtpPacket) (d : Dev) : Dev :=
  let n := k - d.strm.s[s].expected
  raise evRealigned s.val (bump (0x2610 + s.val) 0x10 (playAt s k a (muteFrames s n d)))

/-- A listener takes a packet whose fields match (R272, R273, R275). -/
def listenerTakes (a : AvtpPacket) (s : Fin 64) (d : Dev) : Dev :=
  let fs := strmRate d s
  let off := gridOffset d fs
  let k := gridNearest fs ((extendShort d a.timestamp : Int) - off).toNat
  let at_ : Int := gridTime fs k + off
  let sound := !a.tu && timeUsable d
  let late := decide (at_ < trainTime d + 20 * usNs)
  let far := decide ((trainTime d + cfg d 0x2601 5 * msNs : Nat) < at_)
  let setState (st : StreamState) (d : Dev) : Dev := onStream s (fun t => { t with state := st }) d
  let lateDrop := bump (0x2610 + s.val) 0x0E
  match d.strm.s[s].state with
  | .waiting =>
    if !sound then d
    else if late then lateDrop d
    else if far then bump 0x2602 3 d
    else playAt s k a (setState .playing (noteAccepted s a d))
  | .playing =>
    if !sound then
      let d1 := fillGap s a (setState .holding d)
      playAt s d1.strm.s[s].expected a (noteAccepted s a d1)
    else if late then lateDrop d
    else if far then bump 0x2602 3 d
    else
      let d1 := noteAccepted s a (fillGap s a d)
      if k = d1.strm.s[s].expected then playAt s k a d1 else realign s k a d1
  | .holding =>
    if !sound then
      let d1 := fillGap s a d
      playAt s d1.strm.s[s].expected a (noteAccepted s a d1)
    else if late then lateDrop d
    else if far then bump 0x2602 3 d
    else
      let d1 := noteAccepted s a (fillGap s a (setState .playing d))
      if k = d1.strm.s[s].expected then playAt s k a d1 else realign s k a d1
  | _ => d

/-- A packet reaches the listeners of the node (R265). -/
def takePacket (a : AvtpPacket) (d : Dev) : Dev :=
  let ls := allStreams.filter (listens d a)
  let ok := ls.filter (fieldsMatch d a)
  if ls.isEmpty then d
  else if ok.isEmpty then bump 0x2602 3 d
  else forEach ok (listenerTakes a) d

/-- AVTP_PACKET (R265, R272, R273, R275). PRESUMED, unsafe (log entry 59). -/
def execAvtpPacket (a : AvtpPacket) (s : State) : Result := s.does (takePacket a)

/-- Frames of a listener that have been due since its last sample, for which its slots carried zeros, at most those of
0x2601:04 (R273, R288). DESIGN CHOICE, unsafe (log entry 122). -/
def framesMissed (s : Fin 64) (d : Dev) : Nat :=
  let fs := strmRate d s
  let due := gridFloor fs ((trainTime d : Int) - gridOffset d fs).toNat + 1
  min (cfg d 0x2601 4 * fs / 1000) (due - d.strm.s[s].expected)

/-- STREAM_TIMEOUT: the zeros since the last sample count as muted (R275, R288). -/
def execStreamTimeout (s : Fin 64) (st : State) : Result :=
  st.does fun d =>
    match d.strm.s[s].timeout, d.strm.s[s].state with
    | some t, .playing | some t, .holding =>
      let d1 := arrive t d
      raise evListenerLost s.val (onStream s (fun x => { x with state := .waiting, timeout := none }) (muteFrames s (framesMissed s d1) d1))
    | _, _ => d

/-! ### Talkers (R264, R271) -/

/-- The AAF packet of a talker (R264). PRESUMED, unsafe (log entry 59). -/
def talkerPacket (d : Dev) (s : Fin 64) (tu : Bool) (p : Nat) (samples : List Byte) : List Byte :=
  let t := d.strm.s[s]
  let ch := strmReg d s 5
  beBytes 6 (strmReg d s 2 % 2 ^ 48) ++ beBytes 6 d.chip.ident.toNat ++ beBytes 2 0x8100 ++
    beBytes 2 (3 * 8192 + strmReg d s 3) ++ beBytes 2 0x22F0 ++
    leBytes 1 2 ++ leBytes 1 (0x81 + bitAt 3 t.mr) ++ leBytes 1 t.seq.toNat ++ leBytes 1 (bitAt 0 tu) ++
    beBytes 6 d.chip.ident.toNat ++ beBytes 2 (strmReg d s 4) ++ beBytes 4 (p % 2 ^ 32) ++
    leBytes 1 (formatOf (strmReg d s 6)) ++ leBytes 1 (nsrOf (strmRate d s) * 16 + ch / 256) ++ leBytes 1 ch ++
    leBytes 1 (strmReg d s 6) ++ beBytes 2 samples.length ++ leBytes 2 0 ++ samples

/-- A talker's samples from the host's buffer: 4-byte words cut to the bit depth, most significant byte first. -/
def fromHost (depth : Nat) : Nat → List Byte → List Byte
  | 0, _ => []
  | n + 1, bs => (beBytes 4 (leNat (bs.take 4))).take (depth / 8) ++ fromHost depth n (bs.drop 4)

/-- A talker's samples from the slots of its audio port: for each frame, c slots from the first one on, of whose left-aligned
words the bit depth's top bytes are the sample; a slot that is not there reads zeros (R264, R281, R282). -/
def fromSlots (first c depth : Nat) (frames : List (List (BitVec 32))) : List Byte :=
  frames.flatMap fun f =>
    (List.range c).flatMap fun k => (beBytes 4 ((f[first + k]?).getD 0).toNat).take (depth / 8)

/-- Samples of the next packet with the number of their first frame: from the port, or from the host's buffer, whose missing
frames are zeros that count in DROPS of ring 8 (R271, R465). -/
def collectSamples (s : Fin 64) (frames : List (List (BitVec 32))) (d : Dev) : Nat × List Byte × Dev :=
  let spp := strmReg d s 7
  let ch := strmReg d s 5
  let size := spp * ch * (strmReg d s 6 / 8)
  let fs := strmRate d s
  let now := gridFloor fs (trainTime d)
  if strmReg d s 9 = 0xFF then
    let t := d.strm.s[s]
    let have_ := t.buffer.length / (4 * max 1 ch)
    let due := have_ ≠ 0 && t.bufFrame < now
    let n := if due then min spp have_ else 0
    let first := if due then t.bufFrame else now - spp
    let bs := fromHost (strmReg d s 6) (n * ch) t.buffer
    (first, bs ++ List.replicate (size - bs.length) 0,
      onRing 8 (fun g => { g with drops := min 0xFFFFFFFF (g.drops + (spp - n)) })
        (onStream s (fun x => { x with buffer := x.buffer.drop (4 * n * ch), bufFrame := if due then first + n else x.bufFrame }) d))
  else
    let bs := fromSlots (strmReg d s 0x0A) ch (strmReg d s 6) (frames.take spp)
    (now - spp, bs ++ List.replicate (size - bs.length) 0, d)

/-- TALKER_PACKET (R264, R265, R271, R282). -/
def execTalkerPacket (s : Fin 64) (frames : List (List (BitVec 32))) (st : State) : Result :=
  st.does fun d =>
    if d.strm.s[s].state = .sending then
      let fs := strmRate d s
      let (k, bs, d1) := collectSamples s frames d
      let p := gridTime fs (gridFloor fs (gridTime fs k + strmReg d s 8 * usNs))
      let tu := d1.time.state = .unsynchronised || d1.time.state = .stepPending || d1.strm.rephaseEnd.isSome
      let frame := talkerPacket d1 s tu p bs
      let a : AvtpPacket := {
        dest := BitVec.ofNat 48 (strmReg d s 2), vlan := BitVec.ofNat 12 (strmReg d s 3), subtype := 2, tu := tu
        seq := d1.strm.s[s].seq, streamId := BitVec.ofNat 64 (d.chip.ident.toNat * 65536 + strmReg d s 4)
        timestamp := BitVec.ofNat 32 p, format := BitVec.ofNat 8 (formatOf (strmReg d s 6))
        nsr := BitVec.ofNat 4 (nsrOf fs), channels := BitVec.ofNat 10 (strmReg d s 5)
        depth := BitVec.ofNat 8 (strmReg d s 6), data := bs }
      let d2 := countEv 0x012 s.val 0 1 (bump (0x2610 + s.val) 0x0D (onStream s (fun x => { x with seq := x.seq + 1 }) d1))
      let m : StreamMatch := { tx := [], strip := false, res := resEntries d2 a.dest.toNat a.vlan.toNat }
      let arr : Arrival := ⟨none, a.vlan.toNat, 3, 2 * trainTime d2, none, none, none, none, none, none⟩
      takePacket a (dispatchFrame arr m (Decision.nowhere frame) d2)
    else d

/-! ### Stream states (R275, R276, R283) -/

/-- The reservation of a talker is placed with this node as talker node (R275). -/
def talkerPlaced (d : Dev) (s : Fin 64) : Bool :=
  (resBank d).any (fun r => r.here && r.address.toNat = strmReg d s 2 % 2 ^ 48 && r.vlan = strmReg d s 3)

/-- A talker at a stream switch boundary (R275). -/
def talkerAtBoundary (s : Fin 64) (d : Dev) : Dev :=
  if strmReg d s 1 ≠ 1 then d
  else match d.strm.s[s].state with
    | .waiting =>
      if talkerPlaced d s then onStream s (fun x => { x with state := .sending, mr := !x.mr, seq := 0 }) d else d
    | .sending => if talkerPlaced d s then d else onStream s (fun x => { x with state := .waiting }) d
    | _ => d

/-- Every port changes to the new reservation bank (R276). -/
def switchReservations (b : List ResPlaced) (d : Dev) : Dev :=
  let d1 := onStrm (fun r => { r with
    bank0 := if r.bankOne then b else r.bank0, bank1 := if r.bankOne then r.bank1 else b, bankOne := !r.bankOne
    built := if r.builtFor = d.inaug.now.epoch then none else r.built, switchPending := false
    held := r.held.filter (fun x => x.2 = d.inaug.now.epoch || d.inaug.heldCouplings.contains x.1)
    lastBoundary := some (trainTime d) }) d
  let kept (p : Port) (f : QFrame) : Bool :=
    (resEntries d1 (frameDest f.bytes) f.vlan).any (fun r => r.ports.contains p)
  let d2 := discardAll (fun p q f => q = 5 && !kept p f) 2 (fun _ _ _ => bump 0x2602 2) d1
  forEach allStreams talkerAtBoundary (raise evResChanged noInst d2)

/-- STREAM_SWITCH_BOUNDARY, to the bank built for the epoch in force: the gate switch boundary while the schedule is Running or Fenced, else the switch point (R276). -/
def execStreamSwitchBoundary (s : State) : Result :=
  s.does fun d =>
    if d.strm.switchPending then
      let d1 := match d.sched.state with
        | .running | .fenced => arriveTrain (boundaryNow d) d
        | _ => d
      match d1.strm.built.filter (fun _ => d1.strm.builtFor = d1.inaug.now.epoch) with
      | some b => switchReservations b d1
      | none =>
        let (b, d2) := builtReservations d1.inaug.now d1
        switchReservations b (onStrm (fun r => { r with building := r.building && d1.inaug.accepted.isSome }) d2)
    else d

/-- The stream can run: its role, its audio port and the engine are enabled (R275). -/
def strmEnabled (d : Dev) (s : Fin 64) : Bool :=
  d.node.profile ≠ 1 && cfgB d 0x2601 1 && (strmReg d s 1 = 1 || strmReg d s 1 = 2) &&
    (strmReg d s 9 = 0xFF || cfgB d (0x2608 + strmReg d s 9) 1)

/-- One stream at an apply point (R275). -/
def applyStream (s : Fin 64) (d : Dev) : Dev :=
  let st := d.strm.s[s].state
  if !strmEnabled d s then
    if st = .off then d
    else onStream s (fun x => { StreamS.reset with mr := x.mr }) (if st = .playing || st = .holding then emit (.mute s.val 0) d else d)
  else if st = .off then onStream s (fun x => { x with state := .waiting }) d
  else if (strmReg d s 1 = 1 && (st = .playing || st = .holding)) || (strmReg d s 1 = 2 && st = .sending) then
    onStream s (fun x => { StreamS.reset with state := .waiting, mr := x.mr }) d
  else d

/-- The stream engine at an apply point (R275, R281, R283). -/
def applyStreams (d : Dev) : Dev :=
  onStrm (fun r => { r with running := Vector.ofFn (fun t : Fin 4 => cfgB d (0x2608 + t.val) 1) })
    (forEach allStreams applyStream d)

/-- Entry to Standby, Sleep or reset: every stream Off, every audio port stopped (R275, R281). -/
def streamsOff (d : Dev) : Dev :=
  onStrm (fun r => { StreamsS.reset with s := r.s.map (fun x => { StreamS.reset with mr := x.mr }) }) d

end Sys2Proof.Machine
end

