-- ==== Sys2Proof/Machine/CanOps.lean ====
section
/-! DEFINITION. Operations of the message-bus controllers: object configuration, object states, arbitration order, error
counters and controller states (chapter 09). -/

namespace Sys2Proof.Machine

/-- Event "rate detected" (R322). -/
def evRate : Ev := ⟨7, 3, 1, 0⟩
/-- Event "bus-off recovered". -/
def evBusOn : Ev := ⟨7, 3, 2, 0⟩
/-- Event "protocol exception, first in each second". -/
def evProtocol : Ev := ⟨7, 3, 3, 0⟩
/-- Event "error-passive entered". -/
def evPassive : Ev := ⟨7, 4, 4, 0⟩
/-- Event "alone on bus". -/
def evAlone : Ev := ⟨7, 4, 5, 0⟩
/-- Event "no rate found in a full pass". -/
def evNoRate : Ev := ⟨7, 4, 6, 0⟩
/-- Event "bus-off entered". -/
def evBusOff : Ev := ⟨7, 5, 7, 0⟩

/-- Changes one controller. -/
def onCan (c : CanId) (f : CanCtl → CanCtl) (d : Dev) : Dev := { d with can := vmod d.can c f }

/-- Index 0x27xk of a controller (R317). -/
def canIdx (c : CanId) (k : Nat) : Nat := 0x2700 + 0x10 * c.val + k

/-- All controllers. -/
def allCan : List CanId := List.finRange 8

/-- Code of a controller state (R297). -/
def CanState.code : CanState → Nat
  | .off => 0
  | .integrating => 1
  | .errorActive => 2
  | .errorPassive => 3
  | .busOff => 4
  | .recovering => 5
  | .detecting => 6

/-! ### Object configuration (R300, R301) -/

/-- Configuration record of an object. -/
structure ObjCfg where
  ident : BitVec 29
  extended : Bool
  mask : BitVec 29
  maskExt : Bool
  valid : Bool
  tx : Bool
  /-- 0 none, 1 dictionary, 2 gateway, 3 SDO server -/
  owner : Nat
  overwrite : Bool
  fdf : Bool
  brs : Bool
  remote : Bool
  /-- retry limit; none for the controller's default -/
  retry : Option Nat
  formats : Nat
  deriving DecidableEq, Repr

/-- Reads an object record of 16 bytes. -/
def objCfgOf (r : List Byte) : ObjCfg :=
  let id := leNat (slice r 0 4)
  let m := leNat (slice r 4 4)
  let b := leNat (slice r 8 1)
  let e := leNat (slice r 9 1)
  { ident := BitVec.ofNat 29 id, extended := bitOf id 29, mask := BitVec.ofNat 29 m, maskExt := bitOf m 29
    valid := bitOf b 0, tx := bitOf b 1, owner := bitsOf b 3 2, overwrite := bitOf b 4, fdf := bitOf b 5, brs := bitOf b 6
    remote := bitOf b 7, retry := if bitOf e 7 then none else some (e % 128), formats := leNat (slice r 10 1) }

/-- The SDO server of a controller is on (R53). -/
def sdoOn (d : Dev) (c : CanId) : Bool :=
  bitOf (cfg d 0x2010 9) c.val && !bitOf (cfg d (0x1200 + c.val) 1) 31 && !bitOf (cfg d (0x1200 + c.val) 2) 31

/-- An object of the SDO server: 126 receives on 0x1200 + c:01, 127 sends on 0x1200 + c:02 (R54, R301). -/
def sdoObj (d : Dev) (c : CanId) (o : Nat) : ObjCfg :=
  let e := cfg d (0x1200 + c.val) (if o = 126 then 1 else 2)
  let v := if e = 0 then (if o = 126 then 0x600 else 0x580) + cfg d 0x2010 0x0A else e % 2048
  { ident := BitVec.ofNat 29 v, extended := bitOf v 29, mask := 0x1FFFFFFF#29, maskExt := true, valid := true
    tx := o = 127, owner := 3, overwrite := true, fdf := false, brs := false, remote := false, retry := none, formats := 1 }

/-- Configuration of an object. DESIGN CHOICE, unsafe (log entry 63). -/
def objCfg (d : Dev) (c : CanId) (o : Nat) : ObjCfg :=
  if 126 ≤ o && bitOf (cfg d 0x2010 9) c.val then sdoObj d c o
  else objCfgOf (tableBytes d (0x5200 + c.val) 1 (16 * o) 16)

/-- Retry limit of an object; 127 never stops (R305). -/
def retryLimit (d : Dev) (c : CanId) (o : Nat) : Nat := ((objCfg d c o).retry).getD (cfg d (canIdx c 0) 0x0D)

/-! ### Objects (R306, R309, R310) -/

/-- An object that is Armed, or Idle without data. -/
def CanObj.blank : CanObj :=
  { status := 0, ident := 0, extended := false, remote := false, fdf := false, brs := false, esi := false, dlc := 0,
    data := [], stamp := 0, unsure := false, stepGen := 0, failures := 0, cancel := false }

/-- An object of a controller. -/
def objOf (d : Dev) (c : CanId) (o : Nat) : CanObj := ((d.can[c].objs.find? (fun x => x.1 = o)).map (·.2)).getD CanObj.blank

/-- Puts an object under its number, numbers rising; a blank object is not listed. -/
def putObj (o : Nat) (x : CanObj) : List (Nat × CanObj) → List (Nat × CanObj)
  | [] => if x = CanObj.blank then [] else [(o, x)]
  | (k, y) :: m =>
    if o < k then (if x = CanObj.blank then (k, y) :: m else (o, x) :: (k, y) :: m)
    else if o = k then (if x = CanObj.blank then m else (o, x) :: m)
    else (k, y) :: putObj o x m

/-- Stores an object. -/
def setObj (c : CanId) (o : Nat) (x : CanObj) (d : Dev) : Dev := onCan c (fun t => { t with objs := putObj o x t.objs }) d

/-- Data bytes of a DLC (R310). -/
def dlcLength (fdf : Bool) (dlc : Nat) : Nat :=
  if dlc ≤ 8 then dlc
  else if !fdf then 8
  else match dlc with
    | 9 => 12
    | 10 => 16
    | 11 => 20
    | 12 => 24
    | 13 => 32
    | 14 => 48
    | _ => 64

/-- The frame record of an object (R310). -/
def objRecord (d : Dev) (c : CanId) (o : Nat) : List Byte :=
  let x := objOf d c o
  let g := objCfg d c o
  let id := if g.tx then g.ident else x.ident
  let ext := if g.tx then g.extended else x.extended
  let rem := if g.tx then g.remote else x.remote
  leBytes 4 (id.toNat + bitAt 29 ext + bitAt 30 rem) ++
    leBytes 1 (x.dlc.toNat + bitAt 4 (if g.tx then g.fdf else x.fdf) + bitAt 5 (if g.tx then g.brs else x.brs) + bitAt 6 x.esi) ++
    leBytes 1 x.data.length ++ leBytes 2 0 ++ leBytes 4 x.stamp.toNat ++
    leBytes 1 (bitAt 0 x.unsure + 2 * (x.stepGen % 8)) ++ leBytes 1 x.status ++ leBytes 2 0 ++ x.data

/-- Attention interrupt of a controller (R312, R454). -/
def canInt (c : CanId) (d : Dev) : Dev := setInt (8 + c.val) d

/-- An object enters Held or Done: attention for the dictionary (R306, R312). -/
def attend (c : CanId) (o : Nat) (d : Dev) : Dev := onlyIf ((objCfg d c o).owner = 1) (canInt c) d

/-- Statuses Held and Done. -/
def isHeld (s : Nat) : Bool := s = 1 || s = 2
/-- Done. -/
def isDone (s : Nat) : Bool := 0x20 ≤ s
/-- Pending or Sending. -/
def isBusy (s : Nat) : Bool := s = 0x10 || s = 0x11

/-- Attention bits of 64 objects from a number on (0x27x4:05, 0x27x4:06). -/
def attentionBits (d : Dev) (c : CanId) (base : Nat) : Nat :=
  d.can[c].objs.foldl (fun n (o, x) =>
    if base ≤ o && o < base + 64 && (isHeld x.status || isDone x.status) && (objCfg d c o).owner = 1 then n + 2 ^ (o - base)
    else n) 0

/-- Number of objects with a property of their status. -/
def countObjs (d : Dev) (c : CanId) (p : Nat → Bool) : Nat := (d.can[c].objs.filter (fun x => p x.2.status)).length

/-- An object becomes Done with a status. -/
def finishObj (c : CanId) (o status : Nat) (d : Dev) : Dev :=
  attend c o (setObj c o { objOf d c o with status := status, cancel := false, failures := 0 } d)

/-! ### Owner's commands (R306, R307, R315) -/

/-- The controller sends frames: Normal, or a detected rate with Normal behaviour (R295, R315). -/
def canSends (t : CanCtl) : Bool := t.mode = 1 || (t.mode = 4 && t.adopted)

/-- An Idle object becomes Pending. -/
def requestObj (c : CanId) (o : Nat) (d : Dev) : Dev :=
  setObj c o { objOf d c o with status := 0x10, failures := 0, cancel := false } d

/-- A cancel: Pending becomes Done, Sending is flagged (R307). -/
def cancelObj (c : CanId) (o : Nat) (d : Dev) : Dev :=
  let x := objOf d c o
  if x.status = 0x10 then finishObj c o 0x22 d
  else if x.status = 0x11 then setObj c o { x with cancel := true } d
  else d

/-- An acknowledgement: Held becomes Armed, Done becomes Idle with its data (R306). -/
def ackObj (c : CanId) (o : Nat) (d : Dev) : Dev :=
  let x := objOf d c o
  if isHeld x.status then setObj c o CanObj.blank d
  else if isDone x.status then setObj c o { x with status := 0 } d
  else d

/-! ### Controller states and counters (R297, R298, R308) -/

/-- A change of the controller's state raises the attention interrupt (R312); CANc_STB is high while Off and low in every other
state, and CANc_TXD is recessive while Off and in Bus-off (R291). -/
def setCanState (c : CanId) (st : CanState) (d : Dev) : Dev :=
  if d.can[c].state = st then d
  else canInt c (onCan c (fun t => { t with state := st, stb := st = .off, txd := t.txd || st = .off || st = .busOff }) d)

/-- A change of 0x27x1:06 raises the attention interrupt (R312). -/
def setAlone (c : CanId) (b : Bool) (d : Dev) : Dev :=
  if d.can[c].alone = b then d else canInt c (onCan c (fun t => { t with alone := b }) d)

/-- The controller takes part in the bus traffic. -/
def onBus (t : CanCtl) : Bool := t.state = .errorActive || t.state = .errorPassive

/-- Error-active and error-passive as TEC and REC say, and bus-off above 255 (R297). PRESUMED, unsafe (log entry 61). -/
def judgeErrors (c : CanId) (d : Dev) : Dev :=
  let t := d.can[c]
  if !onBus t then d
  else if 255 < t.tec then
    let d1 := match t.sending with
      | some o => finishObj c o 0x25 d
      | none => d
    raise evBusOff c.val (bump (canIdx c 2) 0x0D (setCanState c .busOff (onCan c (fun t => { t with
      sending := none, recoveryAsked := false, holdOffEnd := some (d.now + cfg d (canIdx c 0) 0x0F * msNs) }) d1)))
  else if 127 < t.tec || 127 < t.recv then
    if t.state = .errorActive then raise evPassive c.val (bump (canIdx c 2) 0x0C (setCanState c .errorPassive d)) else d
  else setCanState c .errorActive d

/-- Counts one error by kind, and shows it (R318, R319, R522). PRESUMED, unsafe (log entry 61). -/
def noteCanError (c : CanId) (k : CanErrorKind) (dataPhase : Bool) (d : Dev) : Dev :=
  let (code, ctr) := match k with
    | .stuff => (1, 7)
    | .form => (2, 8)
    | .acknowledgement => (3, 9)
    | .bit1 => (4, 0x0A)
    | .bit0 => (5, 0x0A)
    | .crc => (6, 0x0B)
    | .protocolException => (2, 8)
  countEv 0x022 c.val 0 1 (setReg (canIdx c 1) (if dataPhase then 5 else 4) code (bump (canIdx c 2) ctr d))

/-- A protocol exception (R299): no error frame, no counters but 0x27x2:0F, one event in each second. PRESUMED, unsafe (log
entry 61); DESIGN CHOICE, unsafe (log entry 123). -/
def protocolException (c : CanId) (d : Dev) : Dev :=
  let s := d.now / sNs
  let d1 := bump (canIdx c 2) 0x0F d
  if d.can[c].exceptionSecond = some s then d1
  else raise evProtocol c.val (onCan c (fun t => { t with exceptionSecond := some s }) d1)

/-- REC after a valid frame: minus 1, and back to between 119 and 127 from above 127, a free choice (R298). PRESUMED, unsafe
(log entry 61). -/
def recAfterFrame (c : CanId) (d : Dev) : Dev :=
  let r := d.can[c].recv
  if 127 < r then onCan c (fun t => { t with recv := 119 + Config.freeNat d.fresh % 9 }) (draw d)
  else onCan c (fun t => { t with recv := r - 1 }) d

/-! ### Arbitration (R304) -/

/-- Arbitration key of a frame as its bits appear on the bus. -/
def arbKey (g : ObjCfg) : List Nat :=
  if g.extended then [g.ident.toNat / 2 ^ 18, 1, 1, g.ident.toNat % 2 ^ 18, if g.remote then 1 else 0]
  else [g.ident.toNat % 2 ^ 11, if g.remote then 1 else 0, 0, 0, 0]

/-- The Pending object that wins arbitration; the lower number among equals. -/
def nextToSend (d : Dev) (c : CanId) : Option Nat :=
  (d.can[c].objs.filter (fun x => x.2.status = 0x10)).foldl (fun best x =>
    match best with
    | none => some x.1
    | some b => if lexLt (arbKey (objCfg d c x.1)) (arbKey (objCfg d c b)) then some x.1 else some b) none

/-! ### Starting and leaving a mode (R296, R297, R313, R314) -/

/-- One candidate timing of 0x27x3:01 (R320). DESIGN CHOICE, unsafe (log entry 64). -/
def candidateTiming (d : Dev) (c : CanId) (i : Nat) : CanTiming :=
  let r := slice (cfgBytes d (canIdx c 3) 1) (8 * i) 8
  { prescaler := leNat (slice r 0 2), tseg1 := leNat (slice r 2 2), tseg2 := leNat (slice r 4 1), sjw := leNat (slice r 5 1),
    triple := cfgB d (canIdx c 0) 0x0C }

/-- Number of candidates. DESIGN CHOICE, unsafe (log entry 64). -/
def candidates (d : Dev) (c : CanId) : Nat := (cfgBytes d (canIdx c 3) 1).length / 8

/-- The configured nominal timing. -/
def configuredTiming (d : Dev) (c : CanId) : CanTiming :=
  let r := cfg d (canIdx c 0)
  { prescaler := r 3, tseg1 := r 4, tseg2 := r 5, sjw := r 6, triple := cfgB d (canIdx c 0) 0x0C }

/-- Nominal bit rate of a timing (R292). -/
def bitRate (t : CanTiming) : Nat := 80000000 / (t.prescaler * (1 + t.tseg1 + t.tseg2))

/-- The controller starts in the mode of 0x27x0:01 (R297). -/
def canStart (c : CanId) (d : Dev) : Dev :=
  let m := cfg d (canIdx c 0) 1
  let d1 := onCan c (fun t => { t with
    mode := m, adopted := false, tec := 0, recv := 0, ackErrors := 0, sending := none, leaving := none, holdOffEnd := none
    recoveryAsked := false, candidate := 0, candidateFrames := 0
    timing := if m = 0 || m = 4 then none else some (configuredTiming d c)
    dwellEnd := if m = 4 then some (d.now + cfg d (canIdx c 3) 2 * msNs) else none }) (setAlone c false d)
  if m = 0 then setCanState c .off d1
  else if m = 4 then setCanState c .detecting (setReg (canIdx c 3) 5 0 d1)
  else setCanState c .integrating d1

/-- Every Pending or Sending object becomes Done with status 0x26 (R306, R314). -/
def abortObjs (c : CanId) (d : Dev) : Dev :=
  forEach ((d.can[c].objs.filter (fun x => isBusy x.2.status)).map (·.1)) (fun o => finishObj c o 0x26) d

/-- The controller enters Off (R297). -/
def canOff (c : CanId) (d : Dev) : Dev :=
  setCanState c .off (onCan c (fun t => { t with
    mode := 0, adopted := false, tec := 0, recv := 0, ackErrors := 0, timing := none, sending := none, leaving := none
    holdOffEnd := none, recoveryAsked := false, dwellEnd := none }) (setAlone c false (abortObjs c d)))

/-- What follows the end of the attempt in a controller that leaves its mode (R313, R314). -/
def finishLeaving (c : CanId) (d : Dev) : Dev :=
  match d.can[c].leaving with
  | some true => canStart c (canOff c d)
  | some false =>
    let d1 := canOff c d
    onCan c (fun t => { t with objs := t.objs.filter (fun x => !isHeld x.2.status) }) d1
  | none => d

/-- An apply point writes the controller's settings, or its power goes: it leaves its mode once the frame in progress has
ended (R313, R314). -/
def leaveMode (c : CanId) (again : Bool) (d : Dev) : Dev :=
  let d1 := onCan c (fun t => { t with leaving := some again }) d
  if d.can[c].sending.isSome then d1 else finishLeaving c d1

/-- Apply point that writes 0x27x0 or 0x27x3 of a controller (R297, R314). -/
def applyCan (c : CanId) (d : Dev) : Dev := if d.can[c].state = .off then canStart c d else leaveMode c true d

/-- Apply point that changes the configuration record of an object: the object is reset, one whose attempt is on the bus when
the attempt ends (R314). DESIGN CHOICE, unsafe (log entry 63). -/
def resetObj (c : CanId) (o : Nat) (d : Dev) : Dev :=
  if d.can[c].sending = some o then onCan c (fun t => { t with renewed := true }) d else setObj c o CanObj.blank d

/-- Commit epoch 1 applies: every object without data, every controller in its mode (R313). -/
def bootCan (d : Dev) : Dev := forEach allCan (fun c d => canStart c (onCan c (fun _ => CanCtl.reset) d)) d

end Sys2Proof.Machine
end

