-- ==== Sys2Proof/Machine/Checks.lean ====
section
/-! DEFINITION. The check units: CRC kinds, channel records, verifying and protecting a frame, channel states and mismatch
flags (chapter 11). -/

namespace Sys2Proof.Machine

/-- Event "check channel returns to Valid" (R366). -/
def evCheckValid : Ev := ⟨9, 3, 0x81, 0⟩
/-- Event "check channel falls to Invalid" (R366). -/
def evCheckInvalid : Ev := ⟨9, 4, 0x80, 0⟩

/-! ### Channel records (R358) -/

/-- One channel record. -/
structure CheckRec where
  valid : Bool
  protects : Bool
  telegram : Bool
  block : Nat
  lsbFirst : Bool
  ctl : Nat
  unit : Nat
  kind : Nat
  ident : Nat
  identMode : Nat
  width : Nat
  crcAt : Nat
  start : Nat
  length : Nat
  counterAt : Nat
  counterBit : Nat
  maxDelta : Nat
  recovery : Nat
  silence : Nat
  expAt : Nat
  expLen : Nat
  expMask : Nat
  expValue : Nat
  deriving DecidableEq, Repr

/-- Reads a channel record of 32 bytes. -/
def checkRecOf (r : List Byte) : CheckRec :=
  let n := fun o k => leNat (slice r o k)
  { valid := bitOf (n 0 1) 0, protects := bitOf (n 0 1) 1, telegram := bitOf (n 0 1) 2, block := bitsOf (n 0 1) 4 3
    lsbFirst := bitOf (n 0 1) 5, ctl := n 1 1, unit := n 2 1, kind := n 3 1, ident := n 4 2, identMode := n 6 1
    width := n 7 1, crcAt := n 8 2, start := n 10 2, length := n 12 2, counterAt := n 14 2, counterBit := n 16 1 % 8
    maxDelta := n 17 1, recovery := n 18 1, silence := n 19 1, expAt := n 20 2, expLen := n 22 1, expMask := n 24 4
    expValue := n 28 4 }

/-- Bytes of a channel's record. -/
def checkBytes (m : List Host.Cell) (ch : Nat) : List Byte :=
  Memory.readBytes m (tableAddr (0x5400 + ch / 128) 1 (32 * (ch % 128))) 32

/-- The channels whose record is not empty, with their records. -/
def checkRecs (m : List Host.Cell) : List (Nat × CheckRec) :=
  (listedRecords m 0x5400 0x5401 32).map fun (idx, _, k) =>
    (128 * (idx - 0x5400) + k, checkRecOf (checkBytes m (128 * (idx - 0x5400) + k)))

/-! ### Channels (R360, R365) -/

/-- A channel that has never left Off. -/
def CheckCh.blank : CheckCh :=
  { state := .off, last := 0, run := 0, kind := 0, silence := none, passed := 0, crc := 0, repeats := 0, skips := 0,
    expectedFails := 0, lengths := 0, lost := 0 }

/-- A channel. -/
def chkOf (d : Dev) (ch : Nat) : CheckCh := Store.find (fun _ => CheckCh.blank) d.chk ch

/-- Stores a channel. -/
def setChk (ch : Nat) (x : CheckCh) (d : Dev) : Dev := { d with chk := Store.put (fun _ => CheckCh.blank) d.chk ch x }

/-- Code of a channel state (R360). -/
def CheckState.code : CheckState → Nat
  | .off => 0
  | .initial => 1
  | .valid => 2
  | .invalid => 3

/-- A count that saturates. -/
def satInc (n : Nat) : Nat := min 0xFFFFFFFF (n + 1)

/-- The channel that serves a CAN object or a telegram: it is valid, has the role and is not Off (R350). -/
def checkFor (d : Dev) (protects telegram : Bool) (ctl unit : Nat) : Option (Nat × CheckRec) :=
  (checkRecs d.dict.mem).find? fun (ch, r) =>
    r.valid && r.protects = protects && r.telegram = telegram && (telegram || r.ctl = ctl) && r.unit = unit &&
      (chkOf d ch).state ≠ .off

/-! ### Verifying (R352 to R356) -/

/-- End of a channel's region in a frame of `n` bytes. -/
def CheckRec.regionEnd (r : CheckRec) (n : Nat) : Nat := if r.length = 0 then n else r.start + r.length

/-- Bytes under a channel's CRC (R352). -/
def CheckRec.covered (r : CheckRec) (bs : List Byte) : List Byte :=
  let ids := match r.identMode with
    | 1 => leBytes 2 r.ident
    | 2 => leBytes 1 r.ident
    | _ => []
  let cut0 := r.crcAt
  let cut1 := r.crcAt + crcWidth r.kind
  ids ++ ((List.range bs.length).filter (fun i => r.start ≤ i && i < r.regionEnd bs.length && !(cut0 ≤ i && i < cut1))).map
    (fun i => bs[i]?.getD 0)

/-- The CRC field of a frame. -/
def CheckRec.field (r : CheckRec) (bs : List Byte) : Nat :=
  let f := slice bs r.crcAt (crcWidth r.kind)
  if r.lsbFirst then leNat f else beNat f

/-- The alive counter of a frame (R354). -/
def CheckRec.counter (r : CheckRec) (bs : List Byte) : Nat := leNat (slice bs r.counterAt 1) / 2 ^ r.counterBit % 2 ^ r.width

/-- The frame holds every byte that the channel names (check 1). -/
def CheckRec.fits (r : CheckRec) (n : Nat) : Bool :=
  (r.kind = 0 || r.crcAt + crcWidth r.kind ≤ n) && r.start + r.length ≤ n && (r.width = 0 || r.counterAt < n) &&
    (r.expLen = 0 || r.expAt + r.expLen ≤ n)

/-- The outcome of the four checks (R353): failure kind, 0 for a frame that passes; the last counter and frames lost. DESIGN
CHOICE, unsafe (log entry 71). -/
def CheckRec.judge (r : CheckRec) (x : CheckCh) (bs : List Byte) : Nat × Nat × Nat :=
  if !r.fits bs.length then (5, x.last, 0)
  else if r.kind ≠ 0 && crcKind r.kind (r.covered bs) ≠ r.field bs then (1, x.last, 0)
  else
    let c := r.counter bs
    let delta := (c + 2 ^ r.width - x.last % 2 ^ r.width) % 2 ^ r.width
    let judged := r.width ≠ 0 && x.state ≠ .initial
    let last := if r.width = 0 then x.last else c
    if judged && delta = 0 then (2, x.last, 0)
    else if judged && r.maxDelta < delta then (3, last, 0)
    else
      let lost := if judged then delta - 1 else 0
      if r.expLen ≠ 0 && Nat.land (beNat (slice bs r.expAt r.expLen)) r.expMask ≠ r.expValue then (4, last, lost)
      else (0, last, lost)

/-- A failed check: counters, flag and interrupt (R361). DESIGN CHOICE, unsafe (log entry 71). -/
def flagCheck (ch kind : Nat) (d : Dev) : Dev :=
  let x := chkOf d ch
  let y := match kind with
    | 1 => { x with crc := satInc x.crc }
    | 2 => { x with repeats := satInc x.repeats }
    | 3 => { x with skips := satInc x.skips }
    | 4 => { x with expectedFails := satInc x.expectedFails }
    | _ => { x with lengths := satInc x.lengths }
  let w := cfg d 0x2903 (1 + ch / 64)
  let was := bitOf w (ch % 64)
  let d1 := countEv 0x031 ch 0 1 (bump 0x2902 3 (setChk ch { y with kind := kind, run := 0, state := .invalid } d))
  let d2 := if was then d1 else setReg 0x2903 (1 + ch / 64) (w + 2 ^ (ch % 64)) d1
  let d3 := onlyIf (!was && cfgB d 0x2900 2) (setInt 5) d2
  if x.state = .valid then raiseP evCheckInvalid ch [BitVec.ofNat 8 ch, BitVec.ofNat 8 kind] d3 else d3

/-- A frame that passes (R360). DESIGN CHOICE, unsafe (log entry 71). -/
def passCheck (ch : Nat) (r : CheckRec) (d : Dev) : Dev :=
  let x := { chkOf d ch with passed := satInc (chkOf d ch).passed }
  match x.state with
  | .invalid =>
    if r.recovery ≤ x.run + 1 then raise evCheckValid ch
      (bump 0x2902 6 (setChk ch { x with state := .valid, run := 0 } d))
    else setChk ch { x with run := x.run + 1 } d
  | _ => setChk ch { x with state := .valid } d

/-- A frame through a verify channel: whether it is handed to the gateway (R353 to R356, R360, R361). DESIGN CHOICE, unsafe
(log entry 71). -/
def verifyFrame (ch : Nat) (r : CheckRec) (bs : List Byte) (d : Dev) : Bool × Dev :=
  let (kind, last, lost) := r.judge (chkOf d ch) bs
  let x := chkOf d ch
  let d1 := bumpBy 0x2902 5 lost (bump 0x2902 1 (setChk ch { x with
    last := last, lost := min 0xFFFFFFFF (x.lost + lost)
    silence := if r.silence = 0 then none else some (d.now + r.silence * 10 * msNs) } d))
  let d2 := if kind = 0 then passCheck ch r d1 else flagCheck ch kind d1
  let handed := match r.block with
    | 0 => true
    | 1 => kind = 0
    | _ => kind = 0 && (chkOf d2 ch).state = .valid
  (handed, onlyIf (!handed) (bump 0x2902 4) d2)

/-- A frame of a CAN object or a telegram on its way to the gateway; without a channel it is handed on (R350). -/
def verifyAt (telegram : Bool) (ctl unit : Nat) (bs : List Byte) (d : Dev) : Bool × Dev :=
  match checkFor d false telegram ctl unit with
  | some (ch, r) => verifyFrame ch r bs d
  | none => (true, d)

/-! ### Protecting (R357) -/

/-- Puts bits into one byte of a frame; a byte that the frame does not hold stays away. -/
def putBits (o lo w v : Nat) (bs : List Byte) : List Byte :=
  bs.mapIdx fun i b =>
    if i = o then
      BitVec.ofNat 8 (b.toNat / 2 ^ (lo + w) * 2 ^ (lo + w) + v % 2 ^ w * 2 ^ lo + b.toNat % 2 ^ lo)
    else b

/-- Puts a byte string over part of a frame, as far as the frame reaches. -/
def overlay (o : Nat) (new bs : List Byte) : List Byte :=
  bs.mapIdx fun i b => if o ≤ i && i < o + new.length then new[i - o]?.getD b else b

/-- Counter and CRC in a frame that a protect channel covers (R357). -/
def CheckRec.protect (r : CheckRec) (counter : Nat) (bs : List Byte) : List Byte :=
  let b1 := if r.width = 0 then bs else putBits r.counterAt r.counterBit r.width counter bs
  let c := crcKind r.kind (r.covered b1)
  overlay r.crcAt (if r.lsbFirst then leBytes (crcWidth r.kind) c else beBytes (crcWidth r.kind) c) b1

/-- The moment of a send: the next counter value is used; a recomputation of a Pending frame keeps it (R357). -/
def protectAt (telegram : Bool) (ctl unit : Nat) (again : Bool) (bs : List Byte) (d : Dev) : List Byte × Dev :=
  match checkFor d true telegram ctl unit with
  | none => (bs, d)
  | some (ch, r) =>
    let x := chkOf d ch
    let n := if again then x.last else if x.state = .initial then 0 else (x.last + 1) % 2 ^ r.width
    let d1 := setChk ch { x with last := n, state := .valid } d
    (r.protect n bs, if again then d1 else bump 0x2902 2 d1)

/-! ### Channels at apply points and in low-power states (R360, R363) -/

/-- A channel goes Off. -/
def checkOff (ch : Nat) (d : Dev) : Dev := setChk ch { chkOf d ch with state := .off, silence := none } d

/-- Every channel goes Off: entry to Standby or Sleep. -/
def checksOff (d : Dev) : Dev := forEach (d.chk.map (·.1)) checkOff d

/-- A channel leaves Off for Initial, its counters at 0; the silence reset runs from there. -/
def checkStart (ch : Nat) (r : CheckRec) (d : Dev) : Dev :=
  setChk ch { CheckCh.blank with
    state := .initial
    silence := if r.silence = 0 || r.protects then none else some (d.now + r.silence * 10 * msNs) } d

/-- Channels after an apply point, against the records and the enable before it (R360). -/
def applyChecks (old : Dev) (d : Dev) : Dev :=
  let on := cfgB d 0x2900 1
  let changed := d.chk.filter (fun (ch, _) => !on || checkBytes old.dict.mem ch ≠ checkBytes d.dict.mem ch)
  let d1 := forEach (changed.map (·.1)) checkOff d
  if on then forEach (checkRecs d1.dict.mem) (fun (ch, r) d =>
    if r.valid && (chkOf d ch).state = .off then checkStart ch r d else d) d1
  else d1

/-- Number of channels with a property of their state (0x2900:03, 0x2900:04). -/
def countChecks (d : Dev) (p : CheckState → Bool) : Nat := (d.chk.filter (fun x => p x.2.state)).length

/-- SILENCE_RESET (R360). -/
def execSilenceReset (ch : Fin 256) (s : State) : Result :=
  s.does fun d =>
    match (chkOf d ch.val).silence with
    | none => d
    | some t =>
      let d1 := arrive t d
      let x := chkOf d1 ch.val
      setChk ch.val { x with state := .initial, silence := none } d1

end Sys2Proof.Machine
end

