-- ==== Sys2Proof/Machine/Gateway.lean ====
section
/-! DEFINITION. The gateway between the message buses and the backbone: signal maps, telegrams, transactions, prefetch and
the error log (chapter 10). -/

namespace Sys2Proof.Machine

/-! ### The error log and its events (R343, R349) -/

/-- Event of a log record's kind (R349). -/
def evGateway (kind : Nat) : Ev :=
  match kind with
  | 3 => ⟨8, 3, 1, 0⟩
  | 2 => ⟨8, 3, 2, 0⟩
  | 6 => ⟨8, 4, 3, 0⟩
  | 4 => ⟨8, 5, 4, 0⟩
  | 1 => ⟨8, 5, 5, 0⟩
  | _ => ⟨8, 5, 6, 0⟩

/-- A log record as its 24 bytes (R343). -/
def GwLog.pack (l : GwLog) : List Byte :=
  leBytes 4 l.tag.toNat ++ leBytes 2 l.addr ++ leBytes 1 l.chan ++ leBytes 1 l.kind ++ leBytes 1 l.status ++
    leBytes 1 (bitAt 0 l.canSide) ++ leBytes 2 l.epoch ++ leBytes 8 l.time ++ leBytes 4 0

/-- Changes the gateway. -/
def onGw (f : GwS → GwS) (d : Dev) : Dev := { d with gw := f d.gw }

/-- Writes a log record and its event; a full log loses its oldest record (R343, R349). -/
def gwLog (kind : Nat) (tag : BitVec 32) (addr chan status : Nat) (canSide : Bool) (epoch : Nat) (d : Dev) : Dev :=
  let l : GwLog := { tag := tag, addr := addr, chan := chan, kind := kind, status := status, canSide := canSide,
                     epoch := epoch, time := trainTime d }
  let d1 := if d.gw.log.length < 64 then onGw (fun g => { g with log := g.log ++ [l] }) d
    else bump 0x2801 0x0E (onGw (fun g => { g with log := g.log.drop 1 ++ [l] }) d)
  raiseP (evGateway kind) (if kind = 6 then addr else chan) l.pack d1

/-- The gateway runs: commit epoch 1 has applied and it is enabled (R344). -/
def gwActive (d : Dev) : Bool := d.gw.running && cfgB d 0x2800 1

/-! ### Signal maps (R326, R327) -/

/-- One signal map. -/
structure SignalMap where
  toCan : Bool
  bigEndian : Bool
  substitutes : Bool
  ctl : Nat
  obj : Nat
  len : Nat
  start : Nat
  telegram : Nat
  offset : Nat
  substitute : Nat
  deriving DecidableEq, Repr

/-- The valid maps of the memory, in map order (R326). -/
def signalMaps (m : List Host.Cell) : List SignalMap :=
  (listedRecords m 0x5300 0x5307 16).filterMap fun (idx, sub, k) =>
    let r := Memory.readBytes m (tableAddr idx sub (16 * k)) 16
    let fl := leNat (slice r 0 1)
    if bitOf fl 0 && sub = 1 then
      some { toCan := bitOf fl 1, bigEndian := bitOf fl 2, substitutes := bitOf fl 3, ctl := leNat (slice r 1 1)
             obj := leNat (slice r 2 1), len := leNat (slice r 3 1), start := leNat (slice r 4 2)
             telegram := leNat (slice r 6 1), offset := leNat (slice r 8 2), substitute := leNat (slice r 12 4) }
    else none

/-- Positions of a big-endian signal's bits, most significant first: down through bit 0, then from bit 7 of the next
byte (R327). -/
def bigEndianBits : Nat → Nat → List Nat
  | 0, _ => []
  | n + 1, p => p :: bigEndianBits n (if p % 8 = 0 then p + 15 else p - 1)

/-- Positions of a signal's bits in CAN data, most significant first. -/
def SignalMap.canBits (m : SignalMap) : List Nat :=
  if m.bigEndian then bigEndianBits m.len m.start else ((List.range m.len).map (fun i => m.start + i)).reverse

/-- Positions of a signal's bits in the dataset, most significant first, as 8 × byte + bit (R327). -/
def SignalMap.setBits (m : SignalMap) : List Nat :=
  (List.range m.len).map fun i => 8 * ((m.offset + i) / 8) + 7 - (m.offset + i) % 8

/-- One bit of a byte string. -/
def getBit (bs : List Byte) (i : Nat) : Bool := (bs[i / 8]?.getD 0).getLsbD (i % 8)

/-- Sets one bit of a byte string. -/
def putBit (i : Nat) (v : Bool) (bs : List Byte) : List Byte :=
  bs.mapIdx fun k b =>
    if k = i / 8 then
      if v then b ||| BitVec.ofNat 8 (2 ^ (i % 8)) else b &&& ~~~(BitVec.ofNat 8 (2 ^ (i % 8)))
    else b

/-- Copies bits from one byte string to positions of another. -/
def copyBits (src : List Byte) (froms tos : List Nat) (dst : List Byte) : List Byte :=
  (froms.zip tos).foldl (fun acc (a, b) => putBit b (getBit src a) acc) dst

/-- Writes a number's bits at positions, most significant first. -/
def putNumber (v : Nat) (tos : List Nat) (dst : List Byte) : List Byte :=
  ((List.range tos.length).zip tos).foldl (fun acc (i, b) => putBit b (bitOf v (tos.length - 1 - i)) acc) dst

/-! ### Sending on CAN (R329, R357) -/

/-- Key of a transmit object's staged data. -/
def stageKey (c : CanId) (o : Nat) : Nat := 128 * c.val + o

/-- Nothing staged. -/
def TxStage.blank : TxStage := { data := [], fresh := false, lastDue := none }

/-- Staged data of an object. -/
def stageOf (d : Dev) (c : CanId) (o : Nat) : TxStage := Store.find (fun _ => TxStage.blank) d.gw.stages (stageKey c o)

/-- Stores staged data of an object. -/
def setStage (c : CanId) (o : Nat) (t : TxStage) (d : Dev) : Dev :=
  onGw (fun g => { g with stages := Store.put (fun _ => TxStage.blank) g.stages (stageKey c o) t }) d

/-- The smallest DLC that covers a number of bytes (R310). -/
def dlcFor (fdf : Bool) (n : Nat) : Nat := ((List.range 16).find? (fun k => n ≤ dlcLength fdf k)).getD 15

/-- Requests an object with its staged data, or replaces the data of a Pending one; an object on the bus keeps the data
staged (R329, R357). -/
def gwSendNow (c : CanId) (o : Nat) (d : Dev) : Dev :=
  let x := objOf d c o
  let st := stageOf d c o
  let g := objCfg d c o
  let dlc := dlcFor g.fdf st.data.length
  let bs := (padTo (dlcLength g.fdf dlc) st.data).take (dlcLength g.fdf dlc)
  if canSends d.can[c] && (x.status = 0 || x.status = 0x10) then
    let (out, d1) := protectAt false c.val o (x.status = 0x10) bs d
    let y : CanObj := { x with status := 0x10, dlc := BitVec.ofNat 4 dlc, data := out }
    setStage c o { st with fresh := false }
      (setObj c o (if x.status = 0 then { y with failures := 0, cancel := false } else y) d1)
  else d

/-- Send period of an object, ms (R347). -/
def gwPeriod (d : Dev) (c : CanId) (o : Nat) : Nat := cfg d (0x2830 + c.val) (o + 1)

/-- Stages data for an object as fresh; a period of 0 sends at once, and a Pending object takes the data (R329). -/
def gwStage (c : CanId) (o : Nat) (data : List Byte) (d : Dev) : Dev :=
  let d1 := setStage c o { stageOf d c o with data := data, fresh := true } d
  if gwPeriod d c o = 0 || (objOf d c o).status = 0x10 then gwSendNow c o d1 else d1

/-- Stages a frame of a transaction, which goes out at once. DESIGN CHOICE, safe (log entry 65). -/
def gwPut (c : CanId) (o : Nat) (data : List Byte) (d : Dev) : Dev :=
  gwSendNow c o (setStage c o { stageOf d c o with data := data, fresh := true } d)

/-- Length of the data that covers the highest mapped bit of an object (R329). -/
def mappedBytes (d : Dev) (c : CanId) (o : Nat) : Nat :=
  (signalMaps d.dict.mem).foldl (fun n m =>
    if m.toCan && m.ctl = c.val && m.obj = o then m.canBits.foldl (fun n b => max n (b / 8 + 1)) n else n) 0

/-- Writes maps of one telegram into the data of their transmit objects, marks those fresh and sends where due (R329, R332).
DESIGN CHOICE, safe (log entry 65). -/
def gwToCan (k : Nat) (write : SignalMap → List Byte → List Byte) (d : Dev) : Dev :=
  let maps := (signalMaps d.dict.mem).filter (fun m => m.toCan && m.telegram = k)
  let objs := (maps.map (fun m => (m.ctl, m.obj))).eraseDups
  forEach objs (fun (c, o) d =>
    let ci : CanId := Fin.ofNat 8 c
    let base := padTo (mappedBytes d ci o) (stageOf d ci o).data
    let data := (maps.filter (fun m => m.ctl = c && m.obj = o)).foldl (fun bs m => write m bs) base
    gwStage ci o data d) d

/-! ### Telegrams (R329 to R332) -/

/-- Telegram entry of k. -/
def tele (d : Dev) (k sub : Nat) : Nat := cfg d (0x2840 + k) sub

/-- Changes a telegram. -/
def onTele (k : Fin 64) (f : Telegram → Telegram) (d : Dev) : Dev :=
  onGw (fun g => { g with telegrams := vmod g.telegrams k f }) d

/-- Destination under R331: kind, address, vehicle; none when unresolved. -/
def gwDest (d : Dev) (kind addr vehicle : Nat) : Option Nat :=
  if kind = 0 then some addr
  else if d.inaug.now.epoch = 0 || vehicle = 0 then none
  else match d.inaug.now.dir.find? (fun r => r.vehicleId.toNat = vehicle) with
    | some r => if r.consist = 0 then none else some (0x0A800000 + 0x4000 * r.consist + addr % 0x4000)
    | none => none

/-- The topology counter that a frame sent now carries (R330). -/
def gwTopo (d : Dev) : Nat := if d.inaug.now.epoch = 0 then 0 else d.inaug.now.topo.toNat

/-- One TRDP message as the gateway sends it (R323): UDP destination port, message type, ComId, topology counter and sequence
counter; session and reply status are those of message data. -/
structure TrdpOut where
  ip : Nat
  port : Nat
  msgType : Nat
  comId : Nat
  topo : Nat
  seq : Nat
  session : BitVec 128
  replyStatus : Int
  data : List Byte

/-- TRDP header and dataset of IEC 61375-2-3: process data have a header of 40 bytes, message data one of 116; the header's
FCS is the CRC-32 of IEEE 802.3, least significant byte first. PRESUMED, unsafe (log entry 67). -/
def trdpBytes (m : TrdpOut) : List Byte :=
  let common := beBytes 4 m.seq ++ beBytes 2 0x0100 ++ beBytes 2 m.msgType ++ beBytes 4 m.comId ++ beBytes 4 m.topo ++
    beBytes 4 0 ++ beBytes 4 m.data.length
  let head := if m.msgType = 0x5064 then common ++ List.replicate 12 0
    else common ++ beBytes 4 (unsignedOf 32 m.replyStatus) ++ beBytes 16 m.session.toNat ++ List.replicate 68 0
  head ++ leBytes 4 (crcOf 0x04C11DB7#32 0xFFFFFFFF#32 0xFFFFFFFF#32 true head) ++ m.data ++
    List.replicate ((4 - m.data.length % 4) % 4) 0

/-- The destination MAC address of a TRDP frame: the group address of a multicast IPv4 address, or the host's. PRESUMED,
unsafe (log entry 117). -/
def trdpMac (ip : Nat) : Nat := if ip / 2 ^ 28 = 14 then 0x01005E000000 + ip % 2 ^ 23 else Config.macOf ip % 2 ^ 48

/-- The Ethernet frame of a TRDP message: from 0x2800:02 with the node identity as source, on the gateway's VLAN and priority
(R324). PRESUMED, unsafe (log entry 115). -/
def trdpFrame (d : Dev) (m : TrdpOut) : List Byte :=
  let bs := beBytes 6 (trdpMac m.ip) ++ beBytes 6 d.chip.ident.toNat ++ beBytes 2 0x8100 ++
    beBytes 2 (cfg d 0x2800 5 * 8192 + cfg d 0x2800 4) ++ beBytes 2 0x0800 ++
    udpDatagram (cfg d 0x2800 2) m.ip (if m.msgType = 0x5064 then 17224 else 17225) m.port (trdpBytes m)
  bs ++ List.replicate (60 - bs.length) 0

/-- Sends a TRDP message: its frame enters the fabric as one from a consist port (R324). -/
def sendTrdp (m : TrdpOut) (d : Dev) : Dev :=
  let bs := trdpFrame d m
  let (vlan, pcp) := classifyOwn bs
  let a : Arrival := ⟨none, vlan, pcp, halfOf (trainRaw d.time), none, none, none, none, none, none⟩
  let x := if d.fab.forwarding then decideFrame d none vlan bs else Decision.nowhere bs
  dispatchFrame a (matchStream d (frameDest bs) vlan) x
    (emit (.trdp m.ip m.port m.msgType m.comId m.topo m.seq m.session m.replyStatus m.data) d)

/-- The message sent last waits in some queue of the node; it has not been discarded for lack of link or room (R338). -/
def lastQueued (before d : Dev) : Bool :=
  (queued d).any (fun x => x.2.2.uid = before.fab.nextUid) || d.fab.hostQueue.any (fun x => x.uid = before.fab.nextUid)

/-- Sends telegram k, or counts that its destination is unresolved (R329 to R331). DESIGN CHOICE, safe (log entry 66);
PRESUMED, unsafe (log entry 67). -/
def sendTele (k : Fin 64) (d : Dev) : Dev :=
  match gwDest d (tele d k 4) (tele d k 5) (tele d k 6) with
  | none => bump 0x2801 4 d
  | some ip =>
    let t := d.gw.telegrams[k]
    let n := tele d k 3
    let (bs, d1) := protectAt true 0 k.val false ((padTo n t.data).take n) d
    let d2 := sendTrdp ⟨ip, 17224, 0x5064, tele d k 2, gwTopo d, t.seq.toNat, 0, 0, bs⟩ d1
    countEv 0x030 0 0 1 (bump 0x2801 1 (bump (0x2840 + k.val) 0x0C
      (onTele k (fun t => { t with fresh := false, seq := t.seq + 1 }) d2)))

/-- The next due time at or after now that has not been served: whole multiples of `period` ns plus `phase` (R329). DESIGN
CHOICE, unsafe (log entry 5). -/
def nextDue (phase period : Nat) (last : Option Nat) (d : Dev) : Nat :=
  let n := firstInstant phase period (trainTime d)
  if last = some n then firstInstant phase period (n + 1) else n

/-- TELEGRAM_DUE (R329). -/
def execTelegramDue (k : Fin 64) (s : State) : Result :=
  s.does fun d =>
    if gwActive d && tele d k 1 = 1 then
      let t := nextDue (tele d k 0x0A * msNs) (tele d k 7 * msNs) d.gw.telegrams[k].lastDue d
      let d1 := onTele k (fun x => { x with lastDue := some t }) (arriveTrain t d)
      if tele d k 8 = 1 || d.gw.telegrams[k].fresh then sendTele k d1 else d1
    else d

/-- An object that the gateway sends signals in. -/
def gwSendsIn (d : Dev) (c : CanId) (o : Nat) : Bool :=
  let g := objCfg d c o
  g.valid && g.tx && g.owner = 2

/-- CAN_OBJECT_DUE (R329). -/
def execCanObjectDue (c : CanId) (o : Fin 126) (s : State) : Result :=
  s.does fun d =>
    let period := gwPeriod d c o * msNs
    if gwActive d && gwSendsIn d c o && period ≠ 0 then
      let st := stageOf d c o
      let t := nextDue 0 period st.lastDue d
      let d1 := setStage c o { st with data := padTo (mappedBytes d c o) st.data, lastDue := some t } (arriveTrain t d)
      if cfg d (0x2830 + c.val) 0x7F = 1 || st.fresh then gwSendNow c o d1 else d1
    else d

/-- The subscribed telegram that accepts a PD frame (R332). -/
def accepts (d : Dev) (m : TrdpMsg) : Option (Fin 64) :=
  (List.finRange 64).find? fun k =>
    tele d k 1 = 2 && tele d k 2 = m.comId.toNat && tele d k 3 = m.data.length && m.fcsOk &&
      (tele d k 9 = 0 || tele d k 9 = m.sourceIp.toNat)

/-- PD_TELEGRAM (R323, R329, R332, R350). DESIGN CHOICE, safe (log entry 65). -/
def execPdTelegram (m : TrdpMsg) (s : State) : Result :=
  s.does fun d =>
    if !gwActive d then d
    else match (if m.msgType = 0x5064 then accepts d m else none) with
      | none => bump 0x2801 3 d
      | some k =>
        let (handed, d1) := verifyAt true 0 k.val m.data d
        if handed then
          gwToCan k.val (fun sm bs => copyBits m.data sm.setBits sm.canBits bs)
            (bump 0x2801 2 (bump (0x2840 + k.val) 0x0C
              (onTele k (fun t => { t with data := m.data, timeout := some (d.now + tele d k 7 * msNs) }) d1)))
        else d1

/-- TELEGRAM_TIMEOUT (R332). -/
def execTelegramTimeout (k : Fin 64) (s : State) : Result :=
  s.does fun d =>
    match d.gw.telegrams[k].timeout with
    | none => d
    | some t =>
      let d1 := onTele k (fun x => { x with timeout := none }) (arrive t d)
      let d2 := gwToCan k.val (fun sm bs => if sm.substitutes then putNumber sm.substitute sm.canBits bs else bs) d1
      gwLog 6 0 k.val 0xFF 0 false d2.inaug.now.epoch (bump 0x2801 0x0D d2)

/-! ### Transactions (R333 to R342) -/

/-- Entry of channel n. -/
def chanReg (d : Dev) (n : Fin 32) (sub : Nat) : Nat := cfg d (0x2810 + n.val) sub

/-- Controller of a channel. -/
def chanCan (d : Dev) (n : Fin 32) : CanId := Fin.ofNat 8 (chanReg d n 2)

/-- Changes a channel. -/
def onChan (n : Fin 32) (f : GwChan → GwChan) (d : Dev) : Dev := onGw (fun g => { g with chans := vmod g.chans n f }) d

/-- All channels. -/
def allChans : List (Fin 32) := List.finRange 32

/-- An epoch is honoured: it is the present one, or the previous one within its overlap (R101). -/
def honoured (d : Dev) (e : Nat) : Bool :=
  e = d.inaug.now.epoch || (d.inaug.overlapEnd.isSome && (d.inaug.prev.map (·.epoch)) = some e)

/-- The epoch under which a request arrives, with its topology counter (R336). -/
def requestEpoch (d : Dev) (topo : BitVec 32) : Nat × BitVec 32 :=
  match d.inaug.prev with
  | some p =>
    if d.inaug.overlapEnd.isSome && topo = p.topo && topo ≠ d.inaug.now.topo then (p.epoch, p.topo)
    else (d.inaug.now.epoch, d.inaug.now.topo)
  | none => (d.inaug.now.epoch, d.inaug.now.topo)

/-- The block of a transaction message (R334). -/
def txnBlock (op status addr : Nat) (tag : BitVec 32) (data : List Byte) : List Byte :=
  leBytes 1 op ++ leBytes 1 status ++ beBytes 2 addr ++ beBytes 4 tag.toNat ++ beBytes 2 data.length ++ beBytes 2 0 ++ data

/-- Operation code of a transaction. -/
def Txn.op (t : Txn) : Nat := if t.write then 2 else 1

/-- Sends a message of message data; its sequence counter is open in the spec. DESIGN CHOICE, safe (log entry 66). -/
def sendMd (ip port msgType comId topo : Nat) (session : BitVec 128) (replyStatus : Int) (data : List Byte) (d : Dev) : Dev :=
  draw (sendTrdp ⟨ip, port, msgType, comId, topo, Config.freeNat d.fresh % 2 ^ 32, session, replyStatus, data⟩ d)

/-- Answers a requester: status 0 with data, or an error reply (R334, R336). -/
def answerTxn (n : Fin 32) (t : Txn) (status : Nat) (data : List Byte) (d : Dev) : Dev :=
  let w := chanReg d n 6
  match t.who with
  | .backbone ip port session =>
    if !honoured d t.epoch then gwLog 5 t.tag t.addr n.val 9 false t.epoch (bump 0x2801 0x0C d)
    else
      let d1 := sendMd ip.toNat port.toNat (if status = 0 then 0x4D70 else 0x4D65) (chanReg d n 7) t.topo.toNat session
        (if status = 0 then 0 else -1) (txnBlock (t.op + 0x80) status t.addr t.tag data) d
      if status = 0 then d1 else gwLog 2 t.tag t.addr n.val status false t.epoch (bump 0x2801 6 d1)
  | .can =>
    if status = 0 then
      if chanReg d n 4 = 0xFF then d else gwPut (chanCan d n) (chanReg d n 4) (beBytes w t.addr ++ data) d
    else if chanReg d n 5 = 0xFF then d
    else gwLog 2 t.tag t.addr n.val status true t.epoch (bump 0x2801 6
      (gwPut (chanCan d n) (chanReg d n 5) (leBytes 1 0xEE ++ leBytes 1 status ++ beBytes w t.addr) d))

/-- A posted write failed (R338). -/
def postedFails (n : Fin 32) (t : Txn) (status : Nat) (d : Dev) : Dev :=
  gwLog 1 t.tag t.addr n.val status (t.who = .can) t.epoch (bump 0x2801 7 d)

/-- Closes a channel's transaction. DEDUCED, unsafe (log entry 69). -/
def closeChan (n : Fin 32) (d : Dev) : Dev := onChan n (fun c => { c with state := .idle, txn := none }) d

/-- The open transaction of a channel fails with a status (R336, R338, R342). -/
def failTxn (n : Fin 32) (status : Nat) (d : Dev) : Dev :=
  match d.gw.chans[n].txn with
  | none => d
  | some t =>
    let d1 := closeChan n d
    if t.posted then postedFails n t status d1 else answerTxn n t status [] d1

/-- Status of a CAN request's Done code (R335). -/
def doneStatus (code : Nat) : Nat :=
  match code with
  | 0x23 => 2
  | 0x24 => 3
  | 0x25 => 4
  | _ => 5

/-! ### Regions and prefetch (R339 to R341) -/

/-- The region of a channel's address: its number, side effects and prefetchable (R339). -/
def regionOf (d : Dev) (n : Fin 32) (a : Nat) : Option (Nat × Bool × Bool) :=
  let bs := cfgBytes d 0x2803 1
  ((List.range (bs.length / 8)).find? (fun i =>
    let r := slice bs (8 * i) 8
    leNat (slice r 0 1) = n.val && leNat (slice r 2 2) ≤ a && a ≤ leNat (slice r 4 2))).map fun i =>
      let fl := leNat (slice bs (8 * i + 1) 1)
      (i, bitOf fl 0, bitOf fl 1)

/-- An address may be read ahead: it lies in a prefetchable region without side effects (R339, R340). -/
def prefetchable (d : Dev) (n : Fin 32) (a : Nat) : Bool :=
  match regionOf d n a with
  | some (_, side, pre) => pre && !side
  | none => false

/-- Addresses to read ahead after a read of `a` (R339). -/
def readAhead (d : Dev) (n : Fin 32) (a : Nat) : List Nat :=
  if chanReg d n 0x0D ≠ 0 && prefetchable d n a then
    ((List.range (cfg d 0x2800 7)).map (fun i => a + 1 + i)).filter (fun x => x ≤ 0xFFFF && prefetchable d n x)
  else []

/-- Discards cached entries and logs each (R341). -/
def discardCache (n : Fin 32) (bad : CacheEntry → Bool) (d : Dev) : Dev :=
  let c := d.gw.chans[n]
  forEach (c.cache.filter bad) (fun e d => gwLog 4 0 e.addr n.val 0 false d.inaug.now.epoch (bump 0x2801 0x0B d))
    (onChan n (fun c => { c with cache := c.cache.filter (fun e => !bad e) }) d)

/-- Issues a read of the next due address, or ends the prefetch (R339, R342). -/
def nextFetch (n : Fin 32) (d : Dev) : Dev :=
  match d.gw.chans[n].due with
  | [] => onChan n (fun c => { c with state := .idle, fetching := none, fetchDeadline := none }) d
  | a :: rest =>
    gwPut (chanCan d n) (chanReg d n 3) (beBytes (chanReg d n 6) a) (bump 0x2801 9 (onChan n (fun c => { c with
      state := .prefetching, fetching := some a, due := rest
      fetchDeadline := some (d.now + chanReg d n 0x0B * msNs) }) d))

/-- Opens a direction-1 transaction, or answers from the cache (R339, R341, R342). -/
def openBackbone (n : Fin 32) (t : Txn) (d : Dev) : Dev :=
  match (if t.write then none else d.gw.chans[n].cache.find? (fun e => e.addr = t.addr)) with
  | some e =>
    answerTxn n t 0 e.data (bump 0x2801 0x0A (onChan n (fun c => { c with cache := c.cache.filter (fun x => x ≠ e) }) d))
  | none =>
    let region := (regionOf d n t.addr).map (·.1)
    let d1 := if t.write && region.isSome then
        discardCache n (fun e => (regionOf d n e.addr).map (·.1) = region) d else d
    let d2 := bump 0x2801 5 (onChan n (fun c => { c with
      state := .opened
      txn := some { t with deadline := if t.posted then none else some (d.now + chanReg d n 0x0B * msNs) } }) d1)
    if canSends d2.can[chanCan d n] then
      gwPut (chanCan d n) (chanReg d n 3) (beBytes (chanReg d n 6) t.addr ++ t.data) d2
    else failTxn n 5 d2

/-- The prefetch has ended with nothing more due: a waiting request is served (R339, R342). -/
def serveWaiting (n : Fin 32) (d : Dev) : Dev :=
  match d.gw.chans[n].state, d.gw.chans[n].waiting with
  | .idle, some t => openBackbone n t (onChan n (fun c => { c with waiting := none }) d)
  | _, _ => d

/-- A prefetch's reply or failure: the next address, or the end (R342). -/
def fetchEnds (n : Fin 32) (got : Option (List Byte)) (d : Dev) : Dev :=
  let d1 := match d.gw.chans[n].fetching, got with
    | some a, some data => onChan n (fun c => { c with
        cache := c.cache.filter (fun e => e.addr ≠ a) ++
          [{ addr := a, data := data, deadline := d.now + cfg d 0x2800 6 * msNs }] }) d
    | _, _ => d
  serveWaiting n (nextFetch n d1)

/-- A backbone request as its dataset spells it (R334). -/
structure BlockReq where
  op : Nat
  addr : Nat
  tag : BitVec 32
  data : List Byte
  wellFormed : Bool
  deriving DecidableEq, Repr

/-- Reads a transaction block for a channel: address width, length and operation must hold (R334, R335). -/
def blockReq (d : Dev) (n : Fin 32) (bs : List Byte) : BlockReq :=
  let op := leNat (slice bs 0 1)
  let len := beNat (slice bs 8 2)
  let w := chanReg d n 6
  let room := dlcLength (objCfg d (chanCan d n) (chanReg d n 3)).fdf 15 - w
  { op := op, addr := beNat (slice bs 2 2), tag := BitVec.ofNat 32 (beNat (slice bs 4 4)), data := slice bs 12 len
    wellFormed := decide (12 ≤ bs.length) && (op = 1 || op = 2) && decide (12 + len ≤ bs.length) && decide (len ≤ room) &&
      decide (beNat (slice bs 2 2) < 256 ^ w) && (op = 2 || len = 0) }

/-- The direction-1 channel of a ComId (R347). -/
def chanOfComId (d : Dev) (dir : Nat) (comId : BitVec 32) : Option (Fin 32) :=
  allChans.find? (fun n => chanReg d n 1 = dir && chanReg d n 7 = comId.toNat)

/-- The transaction that a backbone request asks for. DESIGN CHOICE, unsafe (log entry 68). -/
def backboneTxn (d : Dev) (m : TrdpMsg) (b : BlockReq) (posted : Bool) : Txn :=
  let (e, t) := requestEpoch d m.topo
  { who := .backbone m.sourceIp m.sourcePort m.session, tag := b.tag, addr := b.addr, write := b.op = 2, data := b.data
    posted := posted, epoch := e, topo := t, deadline := none }

/-- Hands a well-formed backbone request to its channel (R337, R339, R342). DESIGN CHOICE, unsafe (log entry 68). -/
def takeBackbone (n : Fin 32) (t : Txn) (d : Dev) : Dev :=
  let busy := if t.posted then d else answerTxn n t 6 [] d
  match d.gw.chans[n].state with
  | .idle => openBackbone n t d
  | .opened => busy
  | .prefetching => if d.gw.chans[n].waiting.isNone then onChan n (fun c => { c with waiting := some t }) d else busy

/-- MR_REQUEST (R334, R337, R339, R342). -/
def execMrRequest (m : TrdpMsg) (s : State) : Result :=
  s.does fun d =>
    match chanOfComId d 1 m.comId with
    | none => d
    | some n =>
      if !gwActive d then d
      else if !m.fcsOk then bump 0x2801 3 d
      else
        let b := blockReq d n m.data
        let t := backboneTxn d m b false
        if d.gw.chans[n].state = .opened then answerTxn n t 6 [] d
        else if !b.wellFormed then answerTxn n t 7 [] d
        else takeBackbone n t d

/-- MN_NOTIFICATION: a posted write; a read is refused, or dropped where 'Mr' is not possible (R334, R338). DESIGN CHOICE,
unsafe (log entry 68). -/
def execMnNotification (m : TrdpMsg) (s : State) : Result :=
  s.does fun d =>
    match chanOfComId d 1 m.comId with
    | none => d
    | some n =>
      if !gwActive d then d
      else if !m.fcsOk then bump 0x2801 3 d
      else
        let b := blockReq d n m.data
        let t := backboneTxn d m b true
        if b.op = 2 then (if b.wellFormed then takeBackbone n t d else d)
        else if chanReg d n 4 = 0xFF then d
        else answerTxn n { t with posted := false } 7 [] d

/-! ### Frames of the CAN side (R333, R336) -/

/-- A reply frame on the response object of direction-1 channels (R333, R342). DEDUCED, unsafe (log entry 69). -/
def canReply (c : CanId) (o : Nat) (bs : List Byte) (d : Dev) : Dev :=
  let chans := allChans.filter (fun n => chanReg d n 1 = 1 && chanCan d n = c && chanReg d n 4 = o)
  let addrOf := fun (n : Fin 32) => beNat (bs.take (chanReg d n 6))
  let long := fun (n : Fin 32) => decide (chanReg d n 6 ≤ bs.length)
  let isOpen := fun (n : Fin 32) => match d.gw.chans[n].txn with
    | some t => d.gw.chans[n].state = .opened && !t.posted && long n && (chanReg d n 6 = 0 || addrOf n = t.addr)
    | none => false
  let isFetch := fun (n : Fin 32) => match d.gw.chans[n].fetching with
    | some a => d.gw.chans[n].state = .prefetching && long n && (chanReg d n 6 = 0 || addrOf n = a)
    | none => false
  match chans.find? isOpen, chans.find? isFetch, chans with
  | some n, _, _ =>
    match d.gw.chans[n].txn with
    | none => d
    | some t =>
      let data := if t.write then [] else bs.drop (chanReg d n 6)
      let d1 := answerTxn n t 0 data (closeChan n d)
      if t.write then d1
      else nextFetch n (onChan n (fun c => { c with due := readAhead d n t.addr }) d1)
  | none, some n, _ => fetchEnds n (some (bs.drop (chanReg d n 6))) d
  | none, none, n :: _ =>
    gwLog 3 0 (addrOf n) n.val 0 false d.inaug.now.epoch (bump 0x2801 8 d)
  | none, none, [] => d

/-- A request frame of a CAN device on a direction-2 channel (R333, R334, R337, R338). DESIGN CHOICE, unsafe (log entry 68).
-/
def canRequest (n : Fin 32) (bs : List Byte) (d : Dev) : Dev :=
  let w := chanReg d n 6
  let data := bs.drop w
  let write := !data.isEmpty
  let t : Txn := { who := .can, tag := BitVec.ofNat 32 (Config.freeNat d.fresh), addr := beNat (bs.take w), write := write
                   data := data, posted := write && chanReg d n 0x0C ≠ 0, epoch := d.inaug.now.epoch
                   topo := BitVec.ofNat 32 (gwTopo d)
                   deadline := none }
  if d.gw.chans[n].state ≠ .idle then answerTxn n t 6 [] (draw d)
  else if bs.length < w then answerTxn n t 7 [] (draw d)
  else
    let d1 := bump 0x2801 5 (onChan n (fun c => { c with
      state := .opened
      txn := some { t with deadline := if t.posted then none else some (d.now + chanReg d n 0x0B * msNs) } }) (draw d))
    match gwDest d (chanReg d n 8) (chanReg d n 9) (chanReg d n 0x0A) with
    | none => failTxn n 8 d1
    | some ip =>
      let session := BitVec.ofNat 128 (Config.freeNat d1.fresh)
      let d2 := sendMd ip 17225 (if t.posted then 0x4D6E else 0x4D72) (chanReg d n 7) t.topo.toNat session 0
        (txnBlock t.op 0 t.addr t.tag t.data) (draw d1)
      if !t.posted then d2
      else if lastQueued d1 d2 then closeChan n d2
      else draw (failTxn n (Config.freeNat d2.fresh % 256) d2)

/-- Copies every map whose source is a receive object into its telegram and marks the telegram fresh (R329); a signal
past the end of a shorter frame takes bits that the spec leaves open. -/
def gwFromCan (c : CanId) (o : Nat) (bs : List Byte) (d : Dev) : Dev :=
  let maps := (signalMaps d.dict.mem).filter (fun m => !m.toCan && m.ctl = c.val && m.obj = o)
  let short := maps.any (fun m => m.canBits.any (fun b => 8 * bs.length ≤ b))
  let src := if short then
      bs ++ (List.range (64 - bs.length)).map (fun i => BitVec.ofNat 8 (Config.freeNat (d.fresh + i))) else bs
  forEach maps (fun m d =>
    let k : Fin 64 := Fin.ofNat 64 m.telegram
    onTele k (fun t => { t with
      data := copyBits src m.canBits m.setBits (padTo (tele d k 3) t.data), fresh := true }) d)
    (if short then { d with fresh := d.fresh + 64 } else d)

/-- A frame that a gateway-owned receive object took (R329, R333, R344, R350, R356). -/
def gwHeld (c : CanId) (o : Nat) (d : Dev) : Dev :=
  let bs := (objOf d c o).data
  let d0 := ackObj c o d
  if !gwActive d then d0
  else
    let (handed, d1) := verifyAt false c.val o bs d0
    if !handed then d1
    else
      let d2 := canReply c o bs (gwFromCan c o bs d1)
      forEach (allChans.filter (fun n => chanReg d n 1 = 2 && chanCan d n = c && chanReg d n 3 = o))
        (fun n d => canRequest n bs d) d2

/-- A gateway-owned transmit object became Done: acknowledgement, the transaction's outcome, signal frames that failed,
and what waits to be sent (R329, R338, R342, R345). -/
def gwDone (c : CanId) (o : Nat) (d : Dev) : Dev :=
  let code := (objOf d c o).status
  let good := code = 0x20 || code = 0x21
  let d1 := ackObj c o d
  let mine := allChans.filter (fun n => chanReg d n 1 = 1 && chanCan d n = c && chanReg d n 3 = o)
  let isOther := allChans.any (fun n => chanReg d n 1 = 2 && chanCan d n = c && (chanReg d n 4 = o || chanReg d n 5 = o))
  let d2 := forEach mine (fun n d =>
    match d.gw.chans[n].state, d.gw.chans[n].txn with
    | .opened, some t =>
      if good then (if t.posted then closeChan n d else d) else failTxn n (doneStatus code) d
    | .prefetching, _ => if good then d else fetchEnds n none d
    | _, _ => d) d1
  let d3 := if mine.isEmpty && !isOther && !good then bump 0x2801 0x0F d2 else d2
  let st := stageOf d3 c o
  if gwActive d3 && st.fresh && (gwPeriod d3 c o = 0 || !mine.isEmpty || isOther) then gwSendNow c o d3 else d3

/-- Serves every gateway-owned object that is Held or Done. -/
def gwSweep (d : Dev) : Dev :=
  forEach allCan (fun c d =>
    forEach (d.can[c].objs.map (·.1)) (fun o d =>
      let st := (objOf d c o).status
      if (objCfg d c o).owner ≠ 2 then d
      else if isHeld st then gwHeld c o d
      else if isDone st then gwDone c o d
      else d) d) d

/-! ### Replies from the backbone, timeouts and lifetimes (R334, R342) -/

/-- A reply of message data for direction 2: status 0 with data, or an error (R334, R336, R342). DEDUCED, unsafe (log entry
69). -/
def takeMdReply (m : TrdpMsg) (error : Bool) (d : Dev) : Dev :=
  if !gwActive d then d
  else if !m.fcsOk then bump 0x2801 3 d
  else
    let tag := BitVec.ofNat 32 (beNat (slice m.data 4 4))
    let hit := allChans.find? (fun n => chanReg d n 1 = 2 && (match d.gw.chans[n].txn with
      | some t => d.gw.chans[n].state = .opened && !t.posted && t.tag = tag
      | none => false))
    match hit with
    | some n =>
      match d.gw.chans[n].txn with
      | none => d
      | some t =>
        let status := leNat (slice m.data 1 1)
        let st := if m.data.length < 12 then 7 else if error && status = 0 then 7 else status
        answerTxn n t st (if st = 0 && !t.write then slice m.data 12 (beNat (slice m.data 8 2)) else []) (closeChan n d)
    | none =>
      match chanOfComId d 2 m.comId with
      | some n => gwLog 3 tag (beNat (slice m.data 2 2)) n.val 0 true d.inaug.now.epoch (bump 0x2801 8 d)
      | none => d

/-- MP_REPLY (R334, R342). DEDUCED, unsafe (log entry 69). -/
def execMpReply (m : TrdpMsg) (s : State) : Result := s.does (takeMdReply m false)

/-- ME_ERROR_REPLY (R334, R342). -/
def execMeErrorReply (m : TrdpMsg) (s : State) : Result := s.does (takeMdReply m true)

/-- TRANSACTION_TIMEOUT (R342). DEDUCED, unsafe (log entry 69). -/
def execTransactionTimeout (n : Fin 32) (s : State) : Result :=
  s.does fun d =>
    let c := d.gw.chans[n]
    match c.state, c.txn.bind (·.deadline), c.fetchDeadline with
    | .opened, some t, _ => failTxn n 1 (arrive t d)
    | .prefetching, _, some t => fetchEnds n none (arrive t d)
    | _, _, _ => d

/-- PREFETCH_LIFETIME_END (R341). -/
def execPrefetchLifetimeEnd (n : Fin 32) (addr : BitVec 16) (s : State) : Result :=
  s.does fun d =>
    match d.gw.chans[n].cache.find? (fun e => e.addr = addr.toNat) with
    | none => d
    | some e => discardCache n (fun x => x.addr = addr.toNat) (arrive e.deadline d)

/-! ### Start, stop and apply points (R341, R342, R344) -/

/-- Arms the timeouts of the subscribed telegrams among some (R332). -/
def armTelegrams (which : Fin 64 → Bool) (d : Dev) : Dev :=
  forEach ((List.finRange 64).filter which) (fun k d =>
    onTele k (fun t => { t with
      timeout := if tele d k 1 = 2 then some (d.now + tele d k 7 * msNs) else none }) d) d

/-- Closes everything without a reply. -/
def gwClear (d : Dev) : Dev :=
  onGw (fun g => { GwS.reset with running := g.running, log := g.log }) d

/-- Commit epoch 1 applies: the gateway starts when it is enabled (R344). -/
def gwStart (d : Dev) : Dev :=
  let d1 := onGw (fun g => { g with running := true }) d
  if cfgB d 0x2800 1 then armTelegrams (fun _ => true) d1 else d1

/-- Entry to Standby or Sleep (R344). -/
def gwStop (d : Dev) : Dev := onGw (fun _ => GwS.reset) d

/-- A channel that an apply point changes: its transaction, or the request that waits for its prefetch, ends with status 5
(R341, R342). -/
def resetChan (n : Fin 32) (d : Dev) : Dev :=
  let d1 := discardCache n (fun _ => true) d
  let d2 := match d1.gw.chans[n].txn with
    | some t => if t.posted then closeChan n d1 else failTxn n 5 d1
    | none => d1
  let d3 := onChan n (fun c => { c with
    state := .idle, txn := none, fetching := none, due := [], fetchDeadline := none, waiting := none }) d2
  match d.gw.chans[n].waiting with
  | some t => if t.posted then d3 else answerTxn n t 5 [] d3
  | none => d3

/-- Apply point: channels and regions that change, the enable and the telegrams (R341, R342, R344). -/
def applyGateway (old : Dev) (d : Dev) : Dev :=
  if !d.gw.running then d
  else if !cfgB d 0x2800 1 then gwClear d
  else
    let chansOf := fun (x : Dev) (n : Fin 32) => (List.range 13).map (fun i => chanReg x n (1 + i))
    let d1 := forEach allChans (fun n d => if chansOf old n ≠ chansOf d n then resetChan n d else d) d
    let d2 := if cfgBytes old 0x2803 1 ≠ cfgBytes d1 0x2803 1 then
        forEach allChans (fun n d => discardCache n (fun _ => true) d) d1 else d1
    let teleOf := fun (x : Dev) (k : Fin 64) => (List.range 10).map (fun i => tele x k (1 + i))
    armTelegrams (fun k => !cfgB old 0x2800 1 || teleOf old k ≠ teleOf d2 k) d2

end Sys2Proof.Machine
end

