-- ==== Sys2Proof/Machine/Can.lean ====
section
/-! DEFINITION. What happens on the message buses: frames received and sent, errors, attempts, bus-off and rate detection
(chapter 09). -/

namespace Sys2Proof.Machine

/-! ### Reception (R302, R306) -/

/-- An object's filter and formats admit a frame (R302). -/
def ObjCfg.admits (g : ObjCfg) (f : CanFrame) : Bool :=
  g.valid && !g.tx && bitOf g.formats (if f.remote then 2 else if f.fdf then 1 else 0) &&
    (f.ident ^^^ g.ident) &&& g.mask = 0 && (!g.maskExt || f.extended = g.extended)

/-- A received frame as an object holds it, stamped with the train time of its start-of-frame (R310, R311). -/
def heldFrame (d : Dev) (f : CanFrame) (status : Nat) : CanObj :=
  { CanObj.blank with
    status := status, ident := f.ident, extended := f.extended, remote := f.remote, fdf := f.fdf, brs := f.brs, esi := f.esi
    dlc := f.dlc, data := f.data, stamp := BitVec.ofNat 32 (trainTime d), unsure := !d.time.state.sure
    stepGen := d.time.stepGen % 8 }

/-- Hands a frame to the receive objects in ascending order (R302). DESIGN CHOICE, unsafe (log entry 63). -/
def storeFrame (c : CanId) (f : CanFrame) (d : Dev) : Dev :=
  let matching := (List.range 128).filter (fun o => (objCfg d c o).admits f)
  match matching.find? (fun o => (objOf d c o).status = 0 || (isHeld (objOf d c o).status && (objCfg d c o).overwrite)) with
  | some o =>
    if (objCfg d c o).owner = 3 then d
    else
      let held := isHeld (objOf d c o).status
      attend c o (onlyIf held (bump (canIdx c 2) 4) (setObj c o (heldFrame d f (if held then 2 else 1)) d))
  | none => bump (canIdx c 2) (if matching.isEmpty then 3 else 5) d

/-- A candidate timing has seen enough frames: the rate is detected (R296). -/
def rateDetected (c : CanId) (d : Dev) : Dev :=
  let t := candidateTiming d c d.can[c].candidate
  raise evRate c.val (setCanState c .errorActive (setReg (canIdx c 3) 5 (bitRate t) (onCan c (fun x => { x with
    timing := some t, adopted := cfg d (canIdx c 3) 4 = 1, dwellEnd := none, candidateFrames := 0 }) d)))

/-- The kind under which an error counts: a protocol exception is a form error when 0x27x0:10 is false (R299). DESIGN CHOICE,
unsafe (log entry 62). -/
def errorKind (d : Dev) (c : CanId) (k : CanErrorKind) : CanErrorKind :=
  if k = .protocolException && !cfgB d (canIdx c 0) 0x10 then .form else k

/-- A bus error or a protocol exception while a frame is received (R296, R298, R299). DESIGN CHOICE, unsafe (log entry 62).
-/
def receiveError (c : CanId) (e : CanError) (d : Dev) : Dev :=
  let t := d.can[c]
  let k := errorKind d c e.kind
  if t.state ≠ .detecting && !onBus t then d
  else if k = .protocolException then protocolException c d
  else
    let d1 := noteCanError c k e.dataPhase d
    if t.state = .detecting then onCan c (fun x => { x with candidateFrames := 0 }) d1
    else if canSends t then
      gwSweep (judgeErrors c (onCan c (fun x => { x with recv := min 255 (x.recv + (if e.dominant then 9 else 1)) }) d1))
    else d1

/-- CAN_FRAME_RECEIVED (R296, R298, R299, R302, R306, R308); the command stands at the frame's start-of-frame. DESIGN CHOICE,
unsafe (log entry 62). -/
def execCanFrameReceived (c : CanId) (f : CanFrame) (s : State) : Result :=
  s.does fun d =>
    let t := d.can[c]
    if f.fdf && cfg d (canIdx c 0) 2 = 0 then d
    else if f.fdf && f.res then receiveError c ⟨.protocolException, false, false⟩ d
    else if t.state = .detecting then
      let d1 := countEv 0x020 c.val 0 1 (bump (canIdx c 2) 1 d)
      let n := t.candidateFrames + 1
      if cfg d (canIdx c 3) 3 ≤ n then rateDetected c d1 else onCan c (fun x => { x with candidateFrames := n }) d1
    else if !onBus t then d
    else
      let d1 := countEv 0x020 c.val 0 1 (bump (canIdx c 2) 1 (setAlone c false (onCan c (fun x => { x with ackErrors := 0 }) d)))
      let d2 := if canSends t then judgeErrors c (recAfterFrame c d1) else d1
      gwSweep (storeFrame c f d2)

/-- CAN_RECEIVE_ERROR (R296, R298, R299). PRESUMED, unsafe (log entry 61); DESIGN CHOICE, unsafe (log entry 62). -/
def execCanReceiveError (c : CanId) (e : CanError) (s : State) : Result := s.does (receiveError c e)

/-! ### Transmission (R304 to R308) -/

/-- INTEGRATION_COMPLETE (R297). -/
def execIntegrationComplete (c : CanId) (s : State) : Result :=
  s.does fun d => if d.can[c].state = .integrating then setCanState c .errorActive d else d

/-- ATTEMPT_START: the start-of-frame is a dominant bit (R291, R304, R306). -/
def execAttemptStart (c : CanId) (s : State) : Result :=
  s.does fun d =>
    let t := d.can[c]
    if onBus t && canSends t && t.sending.isNone && t.leaving.isNone then
      match nextToSend d c with
      | none => d
      | some o =>
        emit (.canStart c.val o) (onCan c (fun x => { x with
          sending := some o, txd := false, sofAt := trainTime d, sofUnsure := !d.time.state.sure, sofGen := d.time.stepGen % 8 })
          (setObj c o { objOf d c o with status := 0x11 } d))
    else d

/-- An object whose configuration has changed during its attempt is reset when the attempt ends (R314). DESIGN CHOICE, unsafe
(log entry 63). -/
def dropRenewed (c : CanId) (o : Nat) (d : Dev) : Dev :=
  if d.can[c].renewed then setObj c o CanObj.blank (onCan c (fun t => { t with renewed := false }) d) else d

/-- The attempt of an object is over: the controller transmits no dominant bit (R291). -/
def endAttempt (c : CanId) (o : Nat) (d : Dev) : Dev :=
  gwSweep (finishLeaving c (dropRenewed c o (onCan c (fun x => { x with sending := none, txd := true }) d)))

/-- ARBITRATION_LOST (R305 to R308). -/
def execArbitrationLost (c : CanId) (s : State) : Result :=
  s.does fun d =>
    match d.can[c].sending with
    | none => d
    | some o =>
      let d1 := bump (canIdx c 2) 6 (onCan c (fun x => { x with ackErrors := 0 }) d)
      let x := objOf d c o
      endAttempt c o (if x.cancel then finishObj c o 0x22 d1 else setObj c o { x with status := 0x10 } d1)

/-- Data bit rate of a controller (R292). -/
def dataRate (d : Dev) (c : CanId) : Nat :=
  80000000 / (cfg d (canIdx c 0) 7 * (1 + cfg d (canIdx c 0) 8 + cfg d (canIdx c 0) 9))

/-- CAN_TRANSMIT_SUCCESS with the transmitter delay measured in the frame (R294, R306 to R308, R311). -/
def execCanTransmitSuccess (c : CanId) (delay : BitVec 8) (s : State) : Result :=
  s.does fun d =>
    let t := d.can[c]
    match t.sending with
    | none => d
    | some o =>
      let x := objOf d c o
      let d1 := countEv 0x021 c.val 0 1 (bump (canIdx c 2) 2 (setAlone c false (onCan c (fun y => { y with
        ackErrors := 0, tec := y.tec - 1 }) d)))
      let d2 := if (objCfg d c o).brs && 1000000 < dataRate d c then setReg (canIdx c 1) 9 delay.toNat d1 else d1
      let d3 := setObj c o { x with stamp := BitVec.ofNat 32 t.sofAt, unsure := t.sofUnsure, stepGen := t.sofGen } d2
      let d4 := if x.cancel then finishObj c o 0x21 (bump (canIdx c 2) 0x10 d3) else finishObj c o 0x20 d3
      endAttempt c o (judgeErrors c (onCan c (fun y => { y with sending := none }) d4))

/-- The count of acknowledgement errors in a row, and the alone-on-bus report at 16 (R308). -/
def noteAck (c : CanId) (ack : Bool) (d : Dev) : Dev :=
  let n := if ack then d.can[c].ackErrors + 1 else 0
  let d1 := onCan c (fun x => { x with ackErrors := n }) d
  if n = 16 then raise evAlone c.val (bump (canIdx c 2) 0x0E (setAlone c true d1)) else d1

/-- The object of a failed attempt: cancelled, out of retries, or Pending again (R305, R307). -/
def retryObj (c : CanId) (o : Nat) (ack : Bool) (d : Dev) : Dev :=
  let x := objOf d c o
  let limit := retryLimit d c o
  if x.cancel then finishObj c o 0x22 d
  else if limit ≠ 127 && limit ≤ x.failures then
    finishObj c o (if ack then 0x23 else 0x24) (bump (canIdx c 2) 0x11 d)
  else setObj c o { x with status := 0x10, failures := x.failures + 1 } d

/-- CAN_TRANSMIT_ERROR (R298, R305 to R308, R316). PRESUMED, unsafe (log entry 61). -/
def execCanTransmitError (c : CanId) (e : CanError) (s : State) : Result :=
  s.does fun d =>
    let t := d.can[c]
    match t.sending with
    | none => d
    | some o =>
      let k := if e.kind = .protocolException then .form else e.kind
      let ack := decide (k = .acknowledgement)
      let keeps := ack && t.state = .errorPassive && !e.dominant
      let d1 := noteAck c ack (noteCanError c k e.dataPhase d)
      let d2 := judgeErrors c (onCan c (fun x => { x with tec := if keeps then x.tec else min 256 (x.tec + 8) }) d1)
      endAttempt c o (if d2.can[c].state = .busOff then d2 else retryObj c o ack d2)

/-! ### Bus-off and rate detection (R296, R297) -/

/-- BUS_OFF_HOLD_OFF_END (R297, R315). -/
def execBusOffHoldOffEnd (c : CanId) (s : State) : Result :=
  s.does fun d =>
    match d.can[c].state, d.can[c].holdOffEnd with
    | .busOff, some t =>
      let d1 := onCan c (fun x => { x with holdOffEnd := none }) (arrive t d)
      if cfg d (canIdx c 0) 0x0E = 0 || d.can[c].recoveryAsked then setCanState c .recovering d1 else d1
    | _, _ => d

/-- BUS_OFF_RECOVERY_COMPLETE (R297). -/
def execBusOffRecoveryComplete (c : CanId) (s : State) : Result :=
  s.does fun d =>
    if d.can[c].state = .recovering then
      raise evBusOn c.val (setCanState c .errorActive (onCan c (fun x => { x with
        tec := 0, recv := 0, recoveryAsked := false }) d))
    else d

/-- A recovery request: kept during the hold-off, at once after it (R297, R315). -/
def askRecovery (c : CanId) (d : Dev) : Dev :=
  if d.can[c].holdOffEnd.isSome then onCan c (fun x => { x with recoveryAsked := true }) d
  else setCanState c .recovering d

/-- CANDIDATE_DWELL_END (R296). DESIGN CHOICE, unsafe (log entry 64). -/
def execCandidateDwellEnd (c : CanId) (s : State) : Result :=
  s.does fun d =>
    match d.can[c].state, d.can[c].dwellEnd with
    | .detecting, some t =>
      let d1 := arrive t d
      let next := d.can[c].candidate + 1
      let wrap := decide (candidates d c ≤ next)
      let d2 := onCan c (fun x => { x with
        candidate := if wrap then 0 else next, candidateFrames := 0
        dwellEnd := some (d1.now + cfg d (canIdx c 3) 2 * msNs) }) d1
      if wrap then raise evNoRate c.val (setReg (canIdx c 3) 6 (min 0xFFFF (cfg d (canIdx c 3) 6 + 1)) d2) else d2
    | _, _ => d

end Sys2Proof.Machine
end

