-- ==== Sys2Proof/Machine/SleepNeed.lean ====
section
/-! DEFINITION. Who needs the network (R393, R396, R397) and the entry to and return from ReadySleep (R398), which the
inauguration engine and the ports also drive. -/

namespace Sys2Proof.Machine

/-- Event "sleep committed". -/
def evSleepCommitted : Ev := ⟨11, 2, 1, 0⟩
/-- Event "wake accepted". -/
def evWakeAccepted : Ev := ⟨11, 2, 1, 1⟩
/-- Event "sleep aborted". -/
def evSleepAborted : Ev := ⟨11, 3, 2, 0⟩
/-- Event "wake latched after the commit point". -/
def evWakeLatched : Ev := ⟨11, 3, 2, 1⟩
/-- Event "silent side". -/
def evSilentSide : Ev := ⟨11, 3, 2, 2⟩
/-- Event "maximum awake time expired". -/
def evMaxAwake : Ev := ⟨11, 4, 3, 0⟩
/-- Event "fail-safe sleep". -/
def evFailSafe : Ev := ⟨11, 4, 3, 1⟩

/-- Changes the sleep manager. -/
def onSleep (f : SleepS → SleepS) (d : Dev) : Dev := { d with sleep := f d.sleep }

/-- Scope of a local wake input in level mode: bits of its configuration (R404). -/
def levelScope (d : Dev) (b : Bool) : Nat := bitsOf (cfg d 0x2B03 (if b then 5 else 4)) 5 4

/-- A local wake input in level mode is at its active level (R393, R404). -/
def levelHolds (d : Dev) (b : Bool) : Bool :=
  (if b then d.sleep.levelB else d.sleep.levelA) && bitsOf (cfg d 0x2B03 (if b then 5 else 4)) 1 0 = 2

/-- Sleep is disabled by its entry or by the profile (R393). -/
def sleepDisabled (d : Dev) : Bool := !cfgB d 0x2B02 1 || d.node.profile = 1 || d.node.profile = 2

/-- Scopes of the sources of the own need that hold (R393). -/
def needScopes (d : Dev) : List Nat :=
  (if cfgB d 0x2B01 1 then [cfg d 0x2B01 2] else []) ++ (if d.sleep.holdEnd.isSome then [d.sleep.holdScope] else []) ++
    (if levelHolds d false then [levelScope d false] else []) ++ (if levelHolds d true then [levelScope d true] else []) ++
    (if sleepDisabled d then [2] else [])

/-- The own need (R393). -/
def ownNeed (d : Dev) : Bool := !(needScopes d).isEmpty

/-- The own scope (R393). -/
def ownScope (d : Dev) : Nat := (needScopes d).foldl max 0

/-- Some port of a side is Up. -/
def sideUp (d : Dev) (rear : Bool) : Bool := portUp d (sidePort rear false) || portUp d (sidePort rear true)

/-- A backbone port's discovery record. -/
def backOf (d : Dev) (p : Port) : BackPort := d.inaug.ports[Fin.ofNat 4 p.val]

/-- A side has a standard-only neighbour (R75). -/
def sideStandard (d : Dev) (rear : Bool) : Bool :=
  (backOf d (sidePort rear false)).standardOnly || (backOf d (sidePort rear true)).standardOnly

/-- What was heard of a side. -/
def sideInfo (d : Dev) (rear : Bool) : SideInfo := if rear then d.sleep.rear else d.sleep.front

/-- A side is silent (R397). -/
def sideSilent (d : Dev) (rear : Bool) : Bool := sideUp d rear && ((sideInfo d rear).silent || sideStandard d rear)

/-- Need, scope and holder of a side (R397). -/
def sideNeed (d : Dev) (rear : Bool) : Bool × Nat × Word48 :=
  if !sideUp d rear then (false, 0, 0)
  else if sideSilent d rear then (if cfg d 0x2B02 7 = 0 then (true, 2, 0) else (false, 0, 0))
  else ((sideInfo d rear).need, (sideInfo d rear).scope, (sideInfo d rear).holder)

/-- The train need at this node (R397). -/
def trainNeed (d : Dev) : Bool := ownNeed d || (sideNeed d false).1 || (sideNeed d true).1

/-- The lower of two holders, where 0 names none. -/
def lowestHolder (a b : Word48) : Word48 := if a = 0 then b else if b = 0 then a else if a.toNat < b.toNat then a else b

/-- What a keep-alive on a side says (R396). -/
def summaryFor (d : Dev) (rear : Bool) (final : Bool) : KeepSummary :=
  let (need, scope, holder) := sideNeed d (!rear)
  { need := ownNeed d || need, scope := max (ownScope d) (if need then scope else 0)
    holder := lowestHolder (if ownNeed d then d.chip.ident else 0) (if need then holder else 0)
    ready := d.sleep.state = .readySleep || final, final := final }

/-- What the last keep-alive on a side said. -/
def toldOn (d : Dev) (rear : Bool) : Option KeepSummary := if rear then d.sleep.toldRear else d.sleep.toldFront

/-- A change in what a side would be told brings the next keep-alive forward, at least 1 ms after the last (R396). -/
def pokeKeepAlive (d : Dev) : Dev :=
  let differs := fun (rear : Bool) => sideUp d rear && toldOn d rear ≠ some (summaryFor d rear false)
  if differs false || differs true then
    let at_ := max d.now ((d.sleep.lastSent.map (· + msNs)).getD d.now)
    onSleep (fun s => { s with periodDue := some (min at_ (s.periodDue.getD at_)) }) d
  else d

/-- The inauguration engine is in a round as R398 counts it. -/
def roundBusy (d : Dev) : Bool := inRound d || d.inaug.state = .late

/-- ReadySleep is left for Awake (R398). -/
def abortSleep (d : Dev) : Dev :=
  raise evSleepAborted noInst (bump 0x2B07 2 (onSleep (fun s => { s with state := .awake, readyDeadline := none }) d))

/-- A side that has become silent raises the event (R397). -/
def noteSilence (d : Dev) : Dev :=
  let f := sideSilent d false
  let r := sideSilent d true
  let n := (if f && !d.sleep.silentFront then 1 else 0) + (if r && !d.sleep.silentRear then 1 else 0)
  forEach (List.range n) (fun _ => raise evSilentSide noInst) (onSleep (fun s => { s with silentFront := f, silentRear := r }) d)

/-- Entry to ReadySleep, the return from it, and what the neighbours are told (R396, R398). -/
def judgeSleep (d0 : Dev) : Dev :=
  let d := noteSilence d0
  match d.sleep.state with
  | .awake =>
    if d.pow.state = .active && !trainNeed d && !roundBusy d then
      pokeKeepAlive (onSleep (fun s => { s with state := .readySleep, readyDeadline := some (d.now + cfg d 0x2B02 3 * msNs) }) d)
    else pokeKeepAlive d
  | .readySleep => if trainNeed d || roundBusy d then pokeKeepAlive (abortSleep d) else pokeKeepAlive d
  | _ => d

/-- A command after which the need for the network is judged again. -/
def State.doesJudged (s : State) (f : Dev → Dev) : Result := s.does fun d => judgeSleep (f d)

end Sys2Proof.Machine
end

