-- ==== Sys2Proof/Machine/Inauguration.lean ====
section
/-! DEFINITION. Train inauguration: neighbours, TTDP, the Springcount exchange, numbering, the epoch switch, inhibit and
redundant pairs (chapter 03). -/

namespace Sys2Proof.Machine

/-- Event "epoch switched" (R118). DESIGN CHOICE, unsafe (log entry 72). -/
def evEpochSwitched : Ev := ⟨3, 2, 1, 0⟩
/-- Event "coupling held by inhibit". -/
def evCouplingHeld : Ev := ⟨3, 3, 2, 0⟩
/-- Event "round failed". -/
def evRoundFailed : Ev := ⟨3, 4, 3, 0⟩
/-- Event "overlap window cut". -/
def evOverlapCut : Ev := ⟨3, 4, 4, 0⟩
/-- Event "lane fault". -/
def evLaneFault : Ev := ⟨3, 5, 5, 0⟩
/-- Event "crossed lanes". -/
def evCrossed : Ev := ⟨3, 5, 6, 0⟩
/-- Event "leading conflict". -/
def evLeading : Ev := ⟨3, 5, 7, 0⟩
/-- Event "fallback to standard mode". -/
def evFallback : Ev := ⟨3, 5, 8, 0⟩
/-- Event "configuration error under R94". -/
def evConfigError : Ev := ⟨3, 5, 9, 0⟩
/-- Event "oversize train". -/
def evOversize : Ev := ⟨3, 6, 10, 0⟩
/-- Event "partner lost". -/
def evPartnerLost : Ev := ⟨3, 6, 11, 0⟩

/-- Changes the inauguration engine. -/
def onInaug (f : InaugS → InaugS) (d : Dev) : Dev := { d with inaug := f d.inaug }

/-- Code of an inauguration state (R111). -/
def InState.code : InState → Nat
  | .unnumbered => 0
  | .steady => 1
  | .claiming => 2
  | .census => 3
  | .reporting => 4
  | .committing => 5
  | .standard => 6
  | .held => 7
  | .late => 8

/-- Springcount is enabled (R112). -/
def scEnabled (d : Dev) : Bool := cfgB d 0x2100 1

/-- Changes a backbone port's discovery record. -/
def onBack (p : Port) (f : BackPort → BackPort) (d : Dev) : Dev :=
  onInaug (fun i => { i with ports := vmod i.ports (Fin.ofNat 4 p.val) f }) d

/-- Identity heard on a backbone port (R70). -/
def heardOn (d : Dev) (p : Port) : Option Word48 := (backOf d p).heard.map (·.ident)

/-- A side has a neighbour that takes part in the exchange; a standard-only one does not (R75, R90). -/
def sideTakesPart (d : Dev) (rear : Bool) : Bool :=
  ((heardOn d (sidePort rear false)).isSome || (heardOn d (sidePort rear true)).isSome) && !sideStandard d rear

/-- Some side has a standard-only neighbour (R75). -/
def anyStandard (d : Dev) : Bool := sideStandard d false || sideStandard d true

/-- Train inhibit is active (R103). -/
def inhibitActive (d : Dev) : Bool := !d.inaug.requesters.isEmpty || d.inaug.ttdpInhibit

/-! ### Sending Springcount frames (R78, R81, R83) -/

/-- The Up ports of a side, lane A first. -/
def upPorts (d : Dev) (rear : Bool) : List Port := [sidePort rear false, sidePort rear true].filter (portUp d)

/-- A census record as bytes (R80). -/
def censusRecBytes (r : CensusRec) : List Byte :=
  beBytes 6 r.ident.toNat ++ beBytes 4 r.vehicle.toNat ++ beBytes 16 r.consist.toNat ++
    beBytes 1 (r.position.toNat * 64 + r.nodesMinus1.toNat * 16 + bitAt 3 r.fromRear) ++
    beBytes 1 (bitAt 7 r.safe + bitAt 6 r.leading + bitAt 5 r.leadingRear + bitAt 4 r.inhibit + bitAt 3 r.standardOnly +
      bitAt 2 r.partnerLost + bitAt 1 r.laneA + bitAt 0 r.laneB) ++ beBytes 2 r.epoch.toNat ++ beBytes 2 0

/-- Byte 9 of a commit entry (R80). -/
def commitEntryFlags (e : CommitEntry) : Nat :=
  bitAt 0 e.inverse + bitAt 1 e.consistInverse + bitAt 2 e.primary + bitAt 3 e.held

/-- A commit entry as bytes (R80). -/
def commitEntryBytes (e : CommitEntry) : List Byte :=
  beBytes 6 e.ident.toNat ++ [e.node, e.consist, e.vehicle] ++ beBytes 1 (commitEntryFlags e) ++ beBytes 2 0

/-- Payload of PROBE and PROBE_REPLY as bytes (R80). -/
def probeBytes (b : ProbeBody) : List Byte :=
  beBytes 1 (bitAt 1 b.rear + bitAt 0 b.laneB) ++
    beBytes 1 (bitAt 0 b.safe + bitAt 1 b.inhibit + bitAt 2 b.needsCommit + bitAt 3 b.standardOnly) ++
    beBytes 2 b.epoch.toNat ++ beBytes 4 b.topo.toNat

/-- Payload of a COMMIT as bytes (R80). -/
def commitBodyBytes (b : CommitBody) : List Byte :=
  beBytes 2 b.epoch.toNat ++ beBytes 4 b.topo.toNat ++ beBytes 4 b.countdown.toNat ++ [b.nodes, b.consists] ++
    beBytes 6 b.refEnd.toNat ++ beBytes 2 0 ++ b.entries.flatMap commitEntryBytes

/-- Kind of a Springcount frame (R79). -/
def ScBody.kind : ScBody → Nat
  | .probe _ => 1
  | .probeReply _ => 2
  | .claim _ => 3
  | .census => 4
  | .report _ => 5
  | .commit _ => 6
  | .ack _ _ => 7
  | .abort _ _ => 8
  | .commitRequest _ => 9
  | .state _ _ => 10
  | .pair _ _ _ => 11

/-- Payload of a Springcount frame as bytes (R80). -/
def ScBody.bytes : ScBody → List Byte
  | .probe b => probeBytes b
  | .probeReply b => probeBytes b
  | .claim lowest => beBytes 6 lowest.toNat ++ beBytes 2 0
  | .census => []
  | .report recs => recs.flatMap censusRecBytes
  | .commit b => commitBodyBytes b
  | .ack count epoch => beBytes 2 count ++ beBytes 2 epoch
  | .abort cause epoch => beBytes 1 cause ++ beBytes 1 0 ++ beBytes 2 epoch
  | .commitRequest epoch => beBytes 2 epoch
  | .state inhibit epoch => beBytes 1 (bitAt 0 inhibit) ++ beBytes 2 epoch
  | .pair primary epoch partner => beBytes 1 (bitAt 0 primary) ++ beBytes 1 0 ++ beBytes 2 epoch ++ beBytes 6 partner.toNat

/-- The frame is the lane B copy of one sent on both lanes (R81). -/
def laneBCopy (p : Port) (b : ScBody) : Bool := isBackbone p && decide (2 ≤ p.val) && decide (3 ≤ b.kind) && b.kind ≠ 9

/-- Header and payload of a Springcount frame (R78). -/
def scBytes (p : Port) (orig : Word48) (round seq : BitVec 16) (segment hops : Nat) (more : Bool) (b : ScBody) : List Byte :=
  beBytes 1 0x5C ++ beBytes 1 1 ++ beBytes 1 b.kind ++ beBytes 1 (bitAt 0 (laneBCopy p b) + bitAt 1 more) ++
    beBytes 6 orig.toNat ++ beBytes 2 round.toNat ++ beBytes 2 seq.toNat ++ beBytes 2 b.bytes.length ++ beBytes 1 hops ++
    beBytes 1 segment ++ beBytes 2 0 ++ b.bytes

/-- Sends a frame of a header and body on some ports, each from queue Q7 (R78, R139). -/
def sendSc (ports : List Port) (orig : Word48) (round seq : BitVec 16) (segment hops : Nat) (more : Bool) (b : ScBody)
    (d : Dev) : Dev :=
  if scEnabled d then
    forEach ports (fun p d =>
      sendOwn p 7 (ownFrame d nearestBridge 0x88B5 (scBytes p orig round seq segment hops more b))
        (emit (.springcount p orig round seq segment hops more b) d)) d
  else d

/-- Creates a frame of the node's own, with the next sequence number (R78). -/
def createSc (ports : List Port) (b : ScBody) (d : Dev) : Dev :=
  let s := d.inaug.seq + 1
  sendSc ports d.chip.ident d.inaug.round s 0 0 false b (onInaug (fun i => { i with seq := s }) d)

/-- Passes an accepted frame on to a side with one hop more (R78, R81). -/
def passSc (rear : Bool) (h : ScHeader) (more : Bool) (b : ScBody) (d : Dev) : Dev :=
  sendSc (upPorts d rear) h.originator h.round h.seq h.segment.toNat (h.hops.toNat + 1) more b d

/-- Both sides' Up ports. -/
def bothSides (d : Dev) : List Port := upPorts d false ++ upPorts d true

/-! ### Receiving Springcount frames (R73, R81, R82, R85) -/

/-- The header keeps the layout of R78, with the length of a payload of `len` bytes (R82). -/
def scHeaderOk (h : ScHeader) (len : Nat) : Bool :=
  h.protocol = 0x5C#8 && h.version = 1#8 && h.length.toNat = len && h.hops.toNat < 63

/-- The header is right and the frame stands on a backbone port (R73, R82). -/
def scValid (p : Port) (h : ScHeader) (len : Nat) : Bool := isBackbone p && scHeaderOk h len

/-- A Springcount frame with a payload of `len` bytes reaches a port: one that is not Up discards it, and a good frame counts
(R166, R175). -/
def scHeard (p : Port) (len : Nat) (f : Dev → Dev) (d : Dev) : Dev :=
  if portUp d p then f (countGood p (frameLen (20 + len)) d) else d

/-- Round a is higher than round b (R85). DEDUCED, unsafe (log entry 30). -/
def roundHigher (a b : BitVec 16) : Bool := decide (1 ≤ (a - b).toNat) && decide ((a - b).toNat ≤ 32767)

/-- Key of a frame (R81). DESIGN CHOICE, unsafe (log entry 33). -/
def scKey (kind : Nat) (h : ScHeader) : ScKey :=
  { kind := kind, originator := h.originator, round := h.round, seq := h.seq, segment := h.segment }

/-- A frame of the flooded kinds: dropped and counted, of a lower round, not for the node at present, a later copy of an
accepted frame, or accepted (R73, R81, R82, R85). DESIGN CHOICE, unsafe (log entry 33). -/
def takeSc (kind : Nat) (p : Port) (h : ScHeader) (len : Nat) (wanted : Dev → Bool) (f : Dev → Dev) (d0 : Dev) : Dev :=
  scHeard p len (fun d =>
    if !scValid p h len then bump 0x2107 7 d
    else if !scEnabled d || d.inaug.state = .unnumbered || roundHigher d.inaug.round h.round || !wanted d then d
    else if d.inaug.seen.any (fun x => x.key = scKey kind h) then d
    else f (onInaug (fun i => { i with seen := (⟨scKey kind h, d.now, h.laneB⟩ :: i.seen).take 4096 }) d)) d0

/-- The frame is the lane A copy of one whose lane B copy the node accepted at most 1 µs ago (R81). -/
def laneALater (kind : Nat) (h : ScHeader) (d : Dev) : Bool :=
  !h.laneB && d.inaug.seen.any (fun x => x.key = scKey kind h && x.laneB && d.now ≤ x.time + usNs)

/-- The frame is of the node's round and its originator is the lowest known identity (R88). -/
def fromLowest (h : ScHeader) (d : Dev) : Bool := h.round = d.inaug.round && h.originator = d.inaug.lowest

/-! ### The node's own census record and numbering (R80, R92 to R95) -/

/-- The node's own census record; `fromRear` is the side on which the CENSUS came (R80). -/
def ownRecord (d : Dev) (fromRear : Bool) : CensusRec :=
  { ident := d.chip.ident, vehicle := BitVec.ofNat 32 (cfg d 0x2100 2), consist := BitVec.ofNat 128 (beNat (cfgBytes d 0x2100 5))
    position := BitVec.ofNat 2 (cfg d 0x2100 3), nodesMinus1 := BitVec.ofNat 2 (cfg d 0x2100 4 - 1), fromRear := fromRear
    safe := safeLow d, leading := cfg d 0x2100 6 ≠ 0, leadingRear := cfg d 0x2100 6 = 2, inhibit := cfgB d 0x2105 1
    standardOnly := anyStandard d, partnerLost := d.inaug.partnerLost, laneA := portUp d (sidePort fromRear false)
    laneB := portUp d (sidePort fromRear true), epoch := BitVec.ofNat 16 d.inaug.now.epoch }

/-- A census record placed in the chain: whether the node's front faces the chain's first end. -/
structure Placed where
  r : CensusRec
  frontFirst : Bool
  deriving DecidableEq, Repr

/-- The chain from the end beyond the leader's front: a node before the leader got the CENSUS on the side away from that
end, a node behind it on the side toward it. -/
def chainOf (front : List CensusRec) (own : CensusRec) (rear : List CensusRec) : List Placed :=
  front.map (fun r => ⟨r, r.fromRear⟩) ++ [⟨own, true⟩] ++ rear.reverse.map (fun r => ⟨r, !r.fromRear⟩)

/-- The record of lowest identity. -/
def lowestOf (l : List Placed) : Option Placed :=
  l.foldl (fun best x => match best with
    | none => some x
    | some b => if x.r.ident.toNat < b.r.ident.toNat then some x else some b) none

/-- The reference end is the chain's first end, and whether leading requests conflict (R92). -/
def referenceFirst (l : List Placed) : Bool × Bool :=
  let req := l.filter (·.r.leading)
  match lowestOf req with
  | some x => (x.frontFirst = !x.r.leadingRear, decide (1 < req.length))
  | none =>
    match l.head?, l.getLast? with
    | some a, some b => (decide (a.r.ident.toNat ≤ b.r.ident.toNat), false)
    | _, _ => (true, false)

/-- The chain in node-number order, each node with its inverse flag (R93). -/
def orderedChain (l : List Placed) : List (CensusRec × Bool) :=
  if (referenceFirst l).1 then l.map (fun x => (x.r, !x.frontFirst)) else l.reverse.map (fun x => (x.r, x.frontFirst))

/-- Vehicles: runs of adjacent nodes of one identity other than 0, at most 4 nodes in each (R93, R94). -/
def cutVehicles : Nat → List (CensusRec × Bool) → List (List (CensusRec × Bool))
  | 0, _ => []
  | _, [] => []
  | fuel + 1, x :: rest =>
    let more := (rest.takeWhile (fun y => x.1.vehicle ≠ 0 && y.1.vehicle = x.1.vehicle)).take 3
    (x :: more) :: cutVehicles fuel (rest.drop more.length)

/-- The node of a vehicle or consist with the lowest identity. DESIGN CHOICE, unsafe (log entry 29). -/
def lowestNode (l : List (CensusRec × Bool)) : Option (CensusRec × Bool) :=
  l.foldl (fun best x => match best with
    | none => some x
    | some b => if x.1.ident.toNat < b.1.ident.toNat then some x else some b) none

/-- Consist identity of a vehicle: its lowest node's (R94). DESIGN CHOICE, unsafe (log entry 112). -/
def vehicleConsist (v : List (CensusRec × Bool)) : BitVec 128 := ((lowestNode v).map (·.1.consist)).getD 0

/-- Consists: runs of adjacent vehicles of one consist identity other than 0 (R93, R94). -/
def consistsOf : List (List (CensusRec × Bool)) → List (List (List (CensusRec × Bool)))
  | [] => []
  | v :: rest =>
    match consistsOf rest with
    | (w :: c) :: cs =>
      if vehicleConsist v ≠ 0 && vehicleConsist v = vehicleConsist w then (v :: w :: c) :: cs else [v] :: (w :: c) :: cs
    | cs => [v] :: cs

/-- The vehicle primary: among nodes not in safe forwarding, those that lost their partner first, the lowest (R93). -/
def primaryIn (v : List (CensusRec × Bool)) : Option Word48 :=
  let live := v.filter (fun x => !x.1.safe)
  let lost := live.filter (fun x => x.1.partnerLost)
  (lowestNode (if lost.isEmpty then live else lost)).map (·.1.ident)

/-- One consist's commit entries with their directory identities; `k` is its number, `nodes` and `vehicles` count what stands
before it. DESIGN CHOICE, unsafe (log entry 112). -/
def consistEntries (k nodes vehicles : Nat) (c : List (List (CensusRec × Bool))) : List (CommitEntry × DirIds) :=
  let cinv := ((lowestNode c.flatten).map (·.2)).getD false
  (c.zipIdx.flatMap (fun (v, j) => v.map (fun x => (v, j, x)))).zipIdx.map fun ((v, j, x), i) =>
    ({ ident := x.1.ident, node := BitVec.ofNat 8 (nodes + i + 1), consist := BitVec.ofNat 8 (if k ≤ 32 then k else 0)
       vehicle := BitVec.ofNat 8 (vehicles + j + 1), inverse := x.2, consistInverse := cinv
       primary := primaryIn v = some x.1.ident, held := x.1.safe },
     { vehicle := x.1.vehicle, consist := vehicleConsist v })

/-- Commit entries of every consist in order. -/
def trainEntries : Nat → Nat → Nat → List (List (List (CensusRec × Bool))) → List (CommitEntry × DirIds)
  | _, _, _, [] => []
  | k, n, v, c :: cs => consistEntries k n v c ++ trainEntries (k + 1) (n + c.flatten.length) (v + c.length) cs

/-- The epoch after an epoch; 0 is never taken (R95). -/
def epochAfter (e : Nat) : Nat := e % 0xFFFF + 1

/-- The first epoch from `e` on that no record holds (R95). PRESUMED, unsafe (log entry 28). -/
def freeEpoch : Nat → List Nat → Nat → Nat
  | 0, _, e => e
  | fuel + 1, taken, e => if taken.contains e then freeEpoch fuel taken (epochAfter e) else e

/-- The configuration errors of R94. DESIGN CHOICE, unsafe (log entry 34). -/
def configErrors (vehicles : List (List (CensusRec × Bool))) : Bool :=
  let ids := vehicles.map (fun v => (v.head?.map (·.1.vehicle)).getD 0)
  let runs := (consistsOf vehicles).map (fun c => (c.head?.map vehicleConsist).getD 0)
  let named := runs.filter (· ≠ 0)
  (ids.zip ids.tail).any (fun x => x.1 ≠ 0 && x.1 = x.2) || named.length ≠ named.eraseDups.length ||
    vehicles.any (fun v => v.any (fun x => x.1.consist ≠ vehicleConsist v))

/-- Bytes of a numbering under the ETB topology counter (R93). PRESUMED, safe (log entry 11). -/
def topoBytes (rows : List (CommitEntry × DirIds)) : List Byte :=
  rows.flatMap fun (e, i) =>
    commitEntryBytes e ++ beBytes 4 i.vehicle.toNat ++ beBytes 16 i.consist.toNat

/-- The leader numbers a chain (R92 to R95): the COMMIT, the identities for the directory, and the events of conflict,
configuration and size. PRESUMED, safe (log entry 11). -/
def numberTrain (margin : Nat) (l : List Placed) : CommitBody × List DirIds × Bool × Bool × Bool :=
  let order := orderedChain l
  let kept := order.take 63
  let vehicles := cutVehicles 63 kept
  let consists := consistsOf vehicles
  let rows := trainEntries 1 0 0 consists
  let epochs := order.map (·.1.epoch.toNat)
  let e := freeEpoch 128 epochs (epochAfter (epochs.foldl max 0))
  ({ epoch := BitVec.ofNat 16 e, topo := Config.etbTopoCount (topoBytes rows), countdown := BitVec.ofNat 32 margin
     nodes := BitVec.ofNat 8 rows.length, consists := BitVec.ofNat 8 (min 32 consists.length)
     refEnd := ((order.head?).map (·.1.ident)).getD 0, entries := rows.map (·.1) },
   rows.map (·.2), (referenceFirst l).2, configErrors vehicles, decide (63 < order.length) || decide (32 < consists.length))

/-! ### Rounds (R85 to R89) -/

/-- Stops every timer of a round. -/
def InaugS.stopTimers (i : InaugS) : InaugS :=
  { i with settle := none, censusWait := none, commitWait := none, censusDeadline := none, ackDeadline := none
           backOff := none, requestDeadline := none }

/-- Discards an accepted COMMIT with the banks that are built for it (R97). -/
def dropCommit (d : Dev) : Dev :=
  let d1 := onInaug (fun i => { i with accepted := none, lateCopy := false }) d
  if d.inaug.accepted.isSome then
    onStrm (fun s => { s with building := false, built := none })
      (onSched (fun s => { s with building := false, built := none }) d1)
  else d1

/-- The nil claim of a node in safe forwarding (R86). -/
def noIdentity : Word48 := 0xFFFFFFFFFFFF#48

/-- Sends a CLAIM on both sides and restarts the settle timer (R86). -/
def sendClaim (d : Dev) : Dev :=
  createSc (bothSides d) (.claim d.inaug.lowest)
    (onInaug (fun i => { i with settle := some (d.now + cfg d 0x2103 3 * usNs) }) d)

/-- Enters a round with a lowest known identity; what is held stays held while train inhibit is active (R85, R86, R104). -/
def enterRound (round : BitVec 16) (lowest : Word48) (revealed : List Port) (d : Dev) : Dev :=
  let keep := inhibitActive d
  let d1 := onInaug (fun i => { i.stopTimers with
    state := .claiming, standard := i.standard && anyStandard d, round := round, lowest := lowest, frontSegs := []
    rearSegs := [], frontDone := false, rearDone := false, censusFromRear := none, acksFront := 0, acksRear := 0
    heldOwn := none, heldCouplings := if keep then i.heldCouplings else [], heldConfig := keep && i.heldConfig
    asked := [] }) (dropCommit d)
  sendClaim (timeRoundStart revealed d1)

/-- Starts a round on a change that the node detected at a time (R85, R86, R113). -/
def startRoundFrom (since : Nat) (revealed : List Port) (d : Dev) : Dev :=
  let d1 := bump 0x2107 1 (onInaug (fun i => { i with roundStart := some since, roundOwn := true }) d)
  enterRound (d.inaug.round + 1) (if safeLow d then noIdentity else d.chip.ident) revealed d1

/-- Starts a round (R85, R86). -/
def startRound (revealed : List Port) (d : Dev) : Dev := startRoundFrom d.now revealed d

/-- Joins a higher round on a claim whose first copy arrived at a time (R85, R86, R113). DESIGN CHOICE, unsafe (log entry
33). -/
def joinRound (since : Nat) (round : BitVec 16) (claimed : Word48) (d : Dev) : Dev :=
  let own := if safeLow d then noIdentity else d.chip.ident
  let d1 := if d.inaug.roundOwn && roundBusy d then d
    else onInaug (fun i => { i with roundStart := some since, roundOwn := false }) d
  enterRound round (if claimed.toNat < own.toNat then claimed else own) [] d1

/-- A claim of a higher round that was held until now (R110). DESIGN CHOICE, unsafe (log entry 33). -/
def joinHeld (d : Dev) : Dev :=
  match d.inaug.heldClaim with
  | none => d
  | some c =>
    let d1 := onInaug (fun i => { i with heldClaim := none }) d
    if roundHigher c.round d.inaug.round then joinRound c.time c.round c.lowest d1 else d1

/-- Fallback to standard mode (R76). DESIGN CHOICE, unsafe (log entry 29); DESIGN CHOICE, unsafe (log entry 34). -/
def enterStandard (d : Dev) : Dev :=
  timeStandardHold [] (raise evFallback noInst (bump 0x2107 4
    (onInaug (fun i => { i.stopTimers with state := .standard, standard := true }) (dropCommit d))))

/-- A round fails: back-off, or standard mode after the rounds of 0x2102:05 (R76, R89, R111). DESIGN CHOICE, safe (log entry
31). -/
def failRound (d : Dev) : Dev :=
  let d1 := raise evRoundFailed noInst (bump 0x2107 3 (onInaug (fun i => { i.stopTimers with
    failedRounds := i.failedRounds + 1, roundOwn := false }) (dropCommit d)))
  if cfg d 0x2102 5 ≤ d1.inaug.failedRounds then enterStandard d1
  else
    joinHeld (draw (onInaug (fun i => { i with
      state := .claiming, backOff := some (d1.now + Config.freeNat d1.fresh % 2001 * usNs) }) d1))

/-- The leader aborts its round (R91, R97, R110). -/
def abortRound (cause : Nat) (d : Dev) : Dev :=
  let epoch := match d.inaug.accepted with
    | some a => a.body.epoch.toNat
    | none => epochAfter d.inaug.now.epoch
  let d1 := createSc (bothSides d) (.abort cause epoch) d
  if cause = 3 then enterStandard d1 else failRound d1

/-- The node leads the round in progress. -/
def isLeader (d : Dev) : Bool :=
  d.inaug.state = .census || (d.inaug.state = .committing &&
    (match d.inaug.accepted with
      | some a => a.fromRear.isNone
      | none => false))

/-! ### Changes that the node detects (R72, R75, R77, R104, R110, R111) -/

/-- Kinds of change. -/
inductive Change where
  | coupling | uncoupling | standardSeen | config
  deriving DecidableEq, Repr

/-- A change is held while train inhibit is active: the ports are restricted and counted (R104, R110). -/
def holdChange (config : Bool) (ports : List Port) (d : Dev) : Dev :=
  raise evCouplingHeld noInst (onInaug (fun i => { i with
    heldCouplings := (i.heldCouplings ++ ports).eraseDups, heldConfig := i.heldConfig || config
    state := if i.state = .steady then .held else i.state }) d)

/-- A change that the node detects itself, on the ports that reveal it. -/
def onChange (k : Change) (ports : List Port) (d : Dev) : Dev :=
  if !scEnabled d || d.sleep.state = .committing || d.sleep.state = .asleep then d
  else match d.inaug.state with
    | .unnumbered => d
    | st =>
      if (k = .coupling || k = .config) && inhibitActive d then holdChange (k = .config) ports d
      else if st = .standard then
        if k = .standardSeen then d else if anyStandard d then timeStandardHold ports d else startRound ports d
      else if k = .standardSeen && isLeader d && st = .committing then abortRound 3 d
      else if st = .committing then onInaug (fun i => { i with heldOwn := some (match i.heldOwn with
        | some (t, l) => (t, (l ++ ports).eraseDups)
        | none => (d.now, ports)) }) d
      else startRound ports d

/-- The inhibit has ended: a round for every held coupling (R104, R110). -/
def inhibitEnded (d : Dev) : Dev :=
  if inhibitActive d || !(d.inaug.state = .held || d.inaug.heldConfig || !d.inaug.heldCouplings.isEmpty) then d
  else onChange .config d.inaug.heldCouplings (onInaug (fun i => { i with heldCouplings := [], heldConfig := false }) d)

/-- A side hears an identity on one of its lanes. -/
def hears (x : Option Word48 × Option Word48) (n : Word48) : Bool := x.1 = some n || x.2 = some n

/-- The identities that a side hears. -/
def heardBy (x : Option Word48 × Option Word48) : List Word48 := (x.1.toList ++ x.2.toList).eraseDups

/-- An identity is lost on one lane and still heard on the other (R72). -/
def laneLost (old new : Option Word48 × Option Word48) : Bool :=
  (old.1.isSome && new.1 ≠ old.1 && new.2 = old.1) || (old.2.isSome && new.2 ≠ old.2 && new.1 = old.2)

/-- What both lanes of a side hear. -/
def sideHears (d : Dev) (rear : Bool) : Option Word48 × Option Word48 :=
  (heardOn d (sidePort rear false), heardOn d (sidePort rear true))

/-- Classifies what changed on a side; a port that reveals a coupling sends no Q5 frame (R72, R277). DESIGN CHOICE, unsafe
(log entry 33). -/
def classifySide (p : Port) (rear : Bool) (old : Option Word48 × Option Word48) (d : Dev) : Dev :=
  let new := sideHears d rear
  if old = new || d.sleep.state = .committing || d.sleep.state = .asleep then d
  else
    let crossed := new.1.isSome && new.2.isSome && new.1 ≠ new.2
    let was := if rear then d.inaug.crossedRear else d.inaug.crossedFront
    let d1 := onInaug (fun i => if rear then { i with crossedRear := crossed } else { i with crossedFront := crossed }) d
    let d2 := if crossed && !was then raise evCrossed (sidePort rear true).val d1 else d1
    let coupling := (heardBy new).any (fun n => !hears old n)
    let uncoupling := (heardBy old).any (fun n => !hears new n)
    let d3 := onlyIf (laneLost old new) (fun d => raise evLaneFault p.val (bump 0x2107 0x0B d)) d2
    let d4 := onlyIf uncoupling (bump 0x2107 6)
      (onlyIf coupling (fun d => onStrm (fun r => { r with held := (r.held ++ [(p, d.inaug.now.epoch)]).eraseDups }) (bump 0x2107 5 d)) d3)
    if uncoupling then onChange .uncoupling [p] (onlyIf (coupling && inhibitActive d4) (onChange .coupling [p]) d4)
    else onlyIf coupling (onChange .coupling [p]) d4

/-- The identity heard on a port becomes another one, or none (R70 to R72). DEDUCED, unsafe (log entry 27). -/
def hearOn (p : Port) (n : Option Neighbour) (d : Dev) : Dev :=
  let rear := isRear p
  let old := sideHears d rear
  let same := heardOn d p = n.map (·.ident)
  let d1 := onBack p (fun b =>
    if same then { b with heard := n } else { b with heard := n, standardOnly := false, unanswered := 0 }) d
  classifySide p rear old d1

/-- Loss deadline of a neighbour from which a PROBE has come, and of one heard by HELLO only (R71). DEDUCED, unsafe (log
entry 27). -/
def lossDeadline (d : Dev) (probed fastMode : Bool) : Nat :=
  d.now + (if probed then cfg d 0x2103 2 * cfg d 0x2103 1 else cfg d 0x2102 (if fastMode then 4 else 2)) * msNs

/-- What PROBE and PROBE_REPLY say (R80). -/
def probeBody (d : Dev) (p : Port) : ProbeBody :=
  { rear := isRear p, laneB := decide (2 ≤ p.val), safe := safeLow d, inhibit := cfgB d 0x2105 1
    needsCommit := d.inaug.state = .late, standardOnly := anyStandard d, epoch := BitVec.ofNat 16 d.inaug.now.epoch
    topo := d.inaug.now.topo }

/-- Sends a PROBE and plans the next (R71). -/
def sendProbe (p : Port) (d : Dev) : Dev :=
  let pace := if (backOf d p).fast then 1 else cfg d 0x2103 1
  onBack p (fun b => { b with unanswered := b.unanswered + 1, probeDue := some (d.now + pace * msNs) })
    (createSc [p] (.probe (probeBody d p)) d)

/-- Sends a TTDP frame of an opaque payload through Q7 (R74, R139). PRESUMED, safe (log entry 121). -/
def sendTtdp (p : Port) (dest type : Nat) (body : List Byte) (d : Dev) : Dev := sendOwn p 7 (ownFrame d dest type body) d

/-- Sends a HELLO and plans the next in the mode in force (R74). -/
def sendHello (p : Port) (d : Dev) : Dev :=
  let fm := (backOf d p).ttdpFast
  let inh := cfgB d 0x2105 1
  onBack p (fun b => { b with helloDue := some (d.now + cfg d 0x2102 (if fm then 3 else 1) * msNs) })
    (sendTtdp p nearestBridge 0x88CC (Config.helloBody d.chip.ident.toNat p.val fm inh) (emit (.hello p fm inh) d))

/-- Sends a TOPOLOGY frame with the numbering in force and the node's own inhibition (R74, R98). -/
def sendTopology (p : Port) (d : Dev) : Dev :=
  let n := d.inaug.now
  let inh := cfgB d 0x2105 1
  let rows := n.dir.flatMap (fun x => beBytes 6 x.ident.toNat ++ beBytes 1 x.vehicle ++ beBytes 1 x.consist ++
    beBytes 1 (bitAt 0 x.inverse + bitAt 1 x.consistInverse + bitAt 2 x.primary + bitAt 3 x.held))
  sendTtdp p 0x0180C2000010 0x894C (Config.topologyBody d.chip.ident.toNat n.topo.toNat rows inh)
    (emit (.topology p n.topo n.epoch n.dir inh) d)

/-- A backbone port gains link (R71). -/
def backboneUp (p : Port) (d : Dev) : Dev :=
  if isBackbone p then
    let d1 := onBack p (fun _ => BackPort.reset) d
    sendHello p (if scEnabled d1 then sendProbe p d1 else d1)
  else d

/-- A backbone port loses link: its neighbour is lost (R71). -/
def backboneDown (p : Port) (d : Dev) : Dev :=
  if isBackbone p then onBack p (fun b => { b with probeDue := none, helloDue := none }) (hearOn p none d) else d

/-- A PROBE or PROBE_REPLY is heard (R70, R71, R75). -/
def probeHeard (p : Port) (h : ScHeader) (d : Dev) : Dev :=
  hearOn p (some { ident := h.originator, probed := true, deadline := lossDeadline d true false })
    (onBack p (fun b => { b with unanswered := 0, standardOnly := false, fast := false }) d)

/-- PROBE (R70 to R73, R82, R107, R112). -/
def execProbe (p : Port) (h : ScHeader) (_b : ProbeBody) (s : State) : Result :=
  s.doesJudged (scHeard p 8 fun d =>
    if !scValid p h 8 then bump 0x2107 7 d
    else
      let d1 := probeHeard p h d
      createSc [p] (.probeReply (probeBody d1 p)) d1)

/-- PROBE_REPLY (R70 to R73, R82). -/
def execProbeReply (p : Port) (h : ScHeader) (_b : ProbeBody) (s : State) : Result :=
  s.doesJudged (scHeard p 8 fun d =>
    if !scValid p h 8 then bump 0x2107 7 d else probeHeard p h d)

/-- PROBE_REPEAT (R71, R75). -/
def execProbeRepeat (p : Port) (s : State) : Result :=
  s.doesJudged fun d =>
    match (backOf d p).probeDue with
    | none => d
    | some t =>
      let d1 := arrive t d
      if !(isBackbone p && portUp d p && scEnabled d) then onBack p (fun b => { b with probeDue := none }) d1
      else
        let b := backOf d p
        let judged := !b.standardOnly && decide (3 ≤ b.unanswered) && (match b.heard with
          | some n => !n.probed
          | none => false)
        let d2 := if judged then
            let was := sideStandard d1 (isRear p)
            let x := onBack p (fun b => { b with standardOnly := true, fast := false }) d1
            if was then x else onChange .standardSeen [p] x
          else d1
        sendProbe p d2

/-- PROBE_LOSS (R71). DEDUCED, unsafe (log entry 27). -/
def execProbeLoss (p : Port) (s : State) : Result :=
  s.doesJudged fun d =>
    match (backOf d p).heard with
    | some n => if isBackbone p && n.probed then hearOn p none (arrive n.deadline d) else d
    | none => d

/-- A TTDP frame of an opaque payload is received (R166, R175). PRESUMED, safe (log entry 121). -/
def ttdpHeard (p : Port) (body : List Byte) (f : Dev → Dev) (d : Dev) : Dev :=
  if portUp d p then f (countGood p (frameLen body.length) d) else d

/-- HELLO (R70, R71, R74). -/
def execHello (p : Port) (sender : Word48) (fast : Bool) (s : State) : Result :=
  s.doesJudged <| ttdpHeard p (Config.helloBody sender.toNat p.val fast false) fun d =>
    if !isBackbone p then d
    else
      let probed := match (backOf d p).heard with
        | some n => n.ident = sender && n.probed
        | none => false
      onBack p (fun b => { b with ttdpFast := fast })
        (hearOn p (some { ident := sender, probed := probed, deadline := lossDeadline d probed fast }) d)

/-- HELLO_PERIOD (R74). -/
def execHelloPeriod (p : Port) (s : State) : Result :=
  s.does fun d =>
    match (backOf d p).helloDue with
    | none => d
    | some t =>
      let d1 := arrive t d
      if isBackbone p && portUp d p then sendHello p d1 else onBack p (fun b => { b with helloDue := none }) d1

/-- HELLO_TIMEOUT (R71). DEDUCED, unsafe (log entry 27). -/
def execHelloTimeout (p : Port) (s : State) : Result :=
  s.doesJudged fun d =>
    match (backOf d p).heard with
    | some n => if isBackbone p && !n.probed then hearOn p none (arrive n.deadline d) else d
    | none => d

/-- TOPOLOGY (R74, R103): TTDP's own report of inhibition is taken from it. PRESUMED, unsafe (log entry 28). -/
def execTopology (p : Port) (sender : Word48) (topo : BitVec 32) (inhibit : Bool) (s : State) : Result :=
  s.doesJudged <| ttdpHeard p (Config.topologyBody sender.toNat topo.toNat [] inhibit) fun d =>
    if !isBackbone p then d else inhibitEnded (onInaug (fun i => { i with ttdpInhibit := inhibit }) d)

/-! ### Claims and the census (R86 to R91) -/

/-- A CLAIM (R86, R88, R110). DESIGN CHOICE, unsafe (log entry 29). -/
def takeClaim (h : ScHeader) (low : Word48) (d : Dev) : Dev :=
  if roundHigher h.round d.inaug.round then
    match d.inaug.state with
    | .committing =>
      onInaug (fun i => { i with heldClaim := match i.heldClaim with
        | none => some ⟨h.round, low, d.now⟩
        | some c =>
          if roundHigher h.round c.round then some ⟨h.round, low, d.now⟩
          else if c.round = h.round && low.toNat < c.lowest.toNat then some { c with lowest := low } else some c }) d
    | _ => if d.sleep.state = .committing then d else joinRound d.now h.round low d
  else match d.inaug.state with
    | .claiming | .census | .reporting =>
      if low.toNat < d.inaug.lowest.toNat then
        sendClaim (onInaug (fun i => { i with
          state := .claiming, lowest := low, censusWait := none, commitWait := none, censusDeadline := none
          censusFromRear := none, frontSegs := [], rearSegs := [], frontDone := false, rearDone := false }) d)
      else d
    | _ => d

/-- CLAIM (R81, R82, R85, R86). -/
def execClaim (p : Port) (h : ScHeader) (lowest : Word48) (s : State) : Result :=
  s.doesJudged (takeSc 3 p h 8 (fun _ => true) (takeClaim h lowest))

/-- The records of a REPORT in segment order. -/
def segmentRecs (l : List ReportSegment) : List CensusRec :=
  (List.range l.length).flatMap (fun n => ((l.find? (·.segment = n)).map (·.recs)).getD [])

/-- The REPORT of a side is complete: every segment up to the last one, which no other follows (R90, R91). -/
def segmentsComplete (l : List ReportSegment) : Bool :=
  !l.isEmpty && (List.range l.length).all (fun n => l.any (fun x => x.segment = n && x.more = decide (n + 1 ≠ l.length)))

/-- The leader holds every REPORT: numbering and COMMIT, or standard mode (R92 to R96, R111). -/
def reportsHeld (d : Dev) : Dev :=
  let l := chainOf (segmentRecs d.inaug.frontSegs) (ownRecord d false) (segmentRecs d.inaug.rearSegs)
  if l.any (·.r.standardOnly) then abortRound 3 d
  else
    let margin := cfg d 0x2103 5 * usNs
    let (body, ids, conflict, config, oversize) := numberTrain margin l
    let d1 := onlyIf conflict (fun d => raise evLeading noInst (bump 0x2107 0x0A d)) d
    let d2 := onlyIf oversize (raise evOversize noInst) (onlyIf config (raise evConfigError noInst) d1)
    let a : AcceptedCommit := {
      body := body, ids := ids, originator := d.chip.ident, switchAt := d.now + margin, fromRear := none }
    let alone := !sideTakesPart d false && !sideTakesPart d true
    let d3 := onInaug (fun i => { i with
      state := .committing, accepted := some a, lastCommit := some a, lateCopy := false, censusDeadline := none
      ackDeadline := if alone then none else some (d.now + margin - cfg d 0x2103 6 * usNs) }) d2
    let sides := (if sideTakesPart d false then upPorts d false else []) ++ (if sideTakesPart d true then upPorts d true else [])
    startResBuild (startGateBuild (createSc sides (.commit body) d3))

/-- SETTLE_TIMER (R87, R90, R111). -/
def execSettleTimer (s : State) : Result :=
  s.doesJudged fun d =>
    match d.inaug.state, d.inaug.settle with
    | .claiming, some t =>
      let d1 := onInaug (fun i => { i with settle := none }) (arrive t d)
      if d.inaug.lowest = d.chip.ident && !safeLow d then
        let f := sideTakesPart d false
        let r := sideTakesPart d true
        let d2 := onInaug (fun i => { i with
          state := .census, backOff := none, frontDone := !f, rearDone := !r, frontSegs := [], rearSegs := []
          censusDeadline := some (d1.now + cfg d 0x2103 4 * usNs) }) d1
        if !f && !r then reportsHeld d2
        else createSc ((if f then upPorts d false else []) ++ (if r then upPorts d true else [])) .census d2
      else onInaug (fun i => { i with censusWait := some (d1.now + 2 * cfg d 0x2103 4 * usNs) }) d1
    | _, _ => d

/-- CENSUS (R88, R90). -/
def execCensus (p : Port) (h : ScHeader) (s : State) : Result :=
  s.doesJudged (takeSc 4 p h 0 (fun d => fromLowest h d && d.inaug.state = .claiming) fun d =>
    let rear := isRear p
    let d1 := onInaug (fun i => { i.stopTimers with
      state := .reporting, censusFromRear := some rear
      commitWait := some (d.now + 2 * cfg d 0x2103 4 * usNs) }) d
    if sideTakesPart d (!rear) then passSc (!rear) h h.more .census d1
    else createSc (upPorts d rear) (.report [ownRecord d rear]) d1)

/-- REPORT (R90, R91). -/
def execReport (p : Port) (h : ScHeader) (recs : List CensusRec) (s : State) : Result :=
  let rear := isRear p
  s.doesJudged (takeSc 5 p h (32 * recs.length)
    (fun d => h.round = d.inaug.round && (d.inaug.state = .census ||
      (d.inaug.state = .reporting && d.inaug.censusFromRear = some (!rear)))) fun d =>
    if d.inaug.state = .census then
      let seg : ReportSegment := ⟨h.segment.toNat, h.more, recs⟩
      let add (l : List ReportSegment) : List ReportSegment := l.filter (·.segment ≠ seg.segment) ++ [seg]
      let d1 := onInaug (fun i =>
        if rear then { i with rearSegs := add i.rearSegs, rearDone := segmentsComplete (add i.rearSegs) }
        else { i with frontSegs := add i.frontSegs, frontDone := segmentsComplete (add i.frontSegs) }) d
      if d1.inaug.frontDone && d1.inaug.rearDone then reportsHeld d1 else d1
    else if h.more then passSc (!rear) h true (.report recs) d
    else if recs.length < 45 then passSc (!rear) h false (.report (recs ++ [ownRecord d (!rear)])) d
    else passSc (!rear) { h with segment := h.segment + 1 } false (.report [ownRecord d (!rear)])
      (passSc (!rear) h true (.report recs) d))

/-- CENSUS_TIMEOUT (R91). -/
def execCensusTimeout (s : State) : Result :=
  s.doesJudged fun d =>
    match d.inaug.state, d.inaug.censusDeadline with
    | .census, some t => abortRound 1 (arrive t d)
    | _, _ => d

/-! ### Commit, acknowledgements and abort (R96, R97) -/

/-- What this node adds to an ACK: 1, or 0 with node number 0 (R97). -/
def ackShare (d : Dev) (b : CommitBody) : Nat := if (numberingOf d.chip.ident b []).node = 0 then 0 else 1

/-- Accepts a COMMIT on a port: the switch point is receipt plus countdown minus the link delay (R96). DEDUCED, safe (log
entry 26). -/
def acceptCommit (p : Port) (h : ScHeader) (b : CommitBody) (ids : List DirIds) (late : Bool) (d : Dev) : Dev :=
  let a : AcceptedCommit := { body := b, ids := ids, originator := h.originator, fromRear := some (isRear p)
                              switchAt := d.now + b.countdown.toNat - linkDelayNs d p }
  startResBuild (startGateBuild (onInaug (fun i => { i.stopTimers with
    state := .committing, accepted := some a, lastCommit := some a, lateCopy := late, asked := [] }) d))

/-- The node waits for the copy of a COMMIT that it has asked for on a port (R108). -/
def copyAwaited (p : Port) (d : Dev) : Bool := d.inaug.requestDeadline.isSome && d.inaug.asked.contains p

/-- The lane A copy of an accepted COMMIT sets the switch point where it came within 1 µs of the lane B copy (R81, R96). -/
def retimeCommit (p : Port) (h : ScHeader) (b : CommitBody) (d : Dev) : Dev :=
  if laneALater 6 h d && d.inaug.state = .committing then
    onInaug (fun i => { i with accepted := i.accepted.map (fun a =>
      if a.originator = h.originator && a.body.epoch = b.epoch then
        { a with switchAt := d.now + b.countdown.toNat - linkDelayNs d p }
      else a) }) d
  else d

/-- Accepts a COMMIT of the round in progress and passes it on, or answers it at the train's end (R96, R97). -/
def takeCommit (p : Port) (h : ScHeader) (b : CommitBody) (ids : List DirIds) (d : Dev) : Dev :=
  let rear := isRear p
  let d1 := acceptCommit p h b ids false d
  if sideTakesPart d (!rear) then
    let less := linkDelayNs d p + Config.freeNat d1.fresh % 16001
    passSc (!rear) h h.more (.commit { b with countdown := BitVec.ofNat 32 (b.countdown.toNat - less) }) (draw d1)
  else createSc (upPorts d rear) (.ack (ackShare d b) b.epoch.toNat) d1

/-- SPRINGCOUNT_COMMIT (R81, R85, R88, R96, R97, R108). DESIGN CHOICE, safe (log entry 32). -/
def execSpringcountCommit (p : Port) (h : ScHeader) (b : CommitFrame) (s : State) : Result :=
  let len := 20 + 12 * b.body.nodes.toNat
  s.doesJudged fun d =>
    if copyAwaited p d then
      scHeard p len (fun d =>
        if !scValid p h len then bump 0x2107 7 d
        else if roundHigher d.inaug.round h.round || h.originator ≠ d.inaug.lowest then d
        else acceptCommit p h b.body b.ids true d) d
    else
      takeSc 6 p h len (fun d => fromLowest h d && d.inaug.state = .reporting) (takeCommit p h b.body b.ids)
        (onlyIf (portUp d p && scValid p h len) (retimeCommit p h b.body) d)

/-- ACK (R97). -/
def execAck (p : Port) (h : ScHeader) (count : BitVec 16) (epoch : BitVec 16) (s : State) : Result :=
  s.doesJudged (takeSc 7 p h 4
    (fun d => h.round = d.inaug.round && d.inaug.state = .committing &&
      d.inaug.accepted.any (fun a => a.body.epoch = epoch && a.fromRear ≠ some (isRear p))) fun d =>
    match d.inaug.accepted with
    | some a =>
      match a.fromRear with
      | none => onInaug (fun i => if isRear p then { i with acksRear := count.toNat } else { i with acksFront := count.toNat }) d
      | some back => passSc back h h.more (.ack (count.toNat + ackShare d a.body) epoch.toNat) d
    | none => d)

/-- ACK_DEADLINE (R97). -/
def execAckDeadline (s : State) : Result :=
  s.doesJudged fun d =>
    match d.inaug.ackDeadline, d.inaug.accepted with
    | some t, some a =>
      let d1 := onInaug (fun i => { i with ackDeadline := none }) (arrive t d)
      let numbered := (a.body.entries.filter (fun e => e.node ≠ 0)).length
      if d.inaug.acksFront + d.inaug.acksRear + ackShare d a.body < numbered then abortRound 2 d1 else d1
    | _, _ => d

/-- ABORT (R88, R97, R111). -/
def execAbort (p : Port) (h : ScHeader) (cause : BitVec 8) (epoch : BitVec 16) (s : State) : Result :=
  s.doesJudged (takeSc 8 p h 4 (fun d => fromLowest h d && inRound d) fun d =>
    let away := !isRear p
    let d1 := if sideTakesPart d away then passSc away h h.more (.abort cause.toNat epoch.toNat) d else d
    if cause = 3 then enterStandard d1 else failRound d1)

/-- CENSUS_WAIT_TIMEOUT (R110, R111). -/
def execCensusWaitTimeout (s : State) : Result :=
  s.doesJudged fun d =>
    match d.inaug.state, d.inaug.censusWait with
    | .claiming, some t => failRound (arrive t d)
    | _, _ => d

/-- COMMIT_WAIT_TIMEOUT (R110, R111). -/
def execCommitWaitTimeout (s : State) : Result :=
  s.doesJudged fun d =>
    match d.inaug.state, d.inaug.commitWait with
    | .reporting, some t => failRound (arrive t d)
    | _, _ => d

/-- BACK_OFF_END (R89). -/
def execBackOffEnd (s : State) : Result :=
  s.doesJudged fun d =>
    match d.inaug.backOff with
    | none => d
    | some t => startRound [] (arrive t d)

/-! ### The epoch switch (R11, R98, R101, R102) -/

/-- Pair state and role at a switch point: after an outage they follow the numbering (R106). DESIGN CHOICE, unsafe (log entry
33). -/
def pairAtSwitch (d : Dev) : Dev :=
  onInaug (fun i => { i with pairState :=
    if i.partnerLost then 3
    else if i.follows && !i.outage && i.pairState ≠ 0 then (if i.now.node = 0 then 0 else if i.now.primary then 1 else 2)
    else i.pairState }) d

/-- Every consumer switches to a numbering under a leader (R11, R98, R101, R102, R113). -/
def switchEpoch (n : Numbering) (leader : Word48) (d : Dev) : Dev :=
  let old := d.inaug.now
  let cutShort := d.inaug.overlapEnd.isSome
  let d1 := onlyIf cutShort (fun d => raise evOverlapCut noInst (bump 0x2107 8 d)) d
  let overlap := old.epoch ≠ 0
  let d2 := onInaug (fun i => { i with
    now := n, leader := leader
    prev := if overlap then some old else none, prevEpoch := if overlap then old.epoch else 0
    overlapEnd := if overlap then some (d.now + cfg d 0x2104 1 * msNs) else none }) d1
  let d3 := setInt 6 (bump 0x2107 2 d2)
  let d4 := timeEpochSwitch (strmEpochSwitch (schedEpochSwitch (switchBank n d3)))
  let d5 := onlyIf (bitOf (cfg d4 0x2E08 1) 3) snapshot d4
  raise evEpochSwitched noInst (pairAtSwitch (forEach (bothSides d5) sendTopology d5))

/-- What waits for a switch point: a claim of a higher round, or a change of the node's own (R110). DEDUCED, safe (log entry
26). -/
def afterSwitch (d : Dev) : Dev :=
  if d.inaug.heldClaim.any (fun c => roundHigher c.round d.inaug.round) then joinHeld d
  else
    let d1 := joinHeld d
    match d1.inaug.heldOwn with
    | some (t, l) => startRoundFrom t l d1
    | none => d1

/-- SWITCH_POINT (R98, R107, R108, R111, R113). -/
def execSwitchPoint (s : State) : Result :=
  s.doesJudged fun d =>
    match d.inaug.state, d.inaug.accepted with
    | .committing, some a =>
      let d1 := onInaug (fun i => { i.stopTimers with accepted := none }) (arrive a.switchAt d)
      if safeLow d then afterSwitch (onInaug (fun i => { i with state := .late, lateCopy := false }) d1)
      else
        let d2 := switchEpoch (numberingOf d.chip.ident a.body a.ids) a.originator d1
        let took := d2.now - (d.inaug.roundStart.getD d2.now)
        let d3 := if d.inaug.lateCopy then bump 0x2107 9 d2 else setReg 0x2101 0x0D (took / usNs) d2
        afterSwitch (onInaug (fun i => { i with
          state := .steady, failedRounds := 0, roundOwn := false, lateCopy := false }) d3)
    | _, _ => d

/-- OVERLAP_END (R101). -/
def execOverlapEnd (s : State) : Result :=
  s.does fun d =>
    match d.inaug.overlapEnd with
    | none => d
    | some t => clearOldBank (onInaug (fun i => { i with overlapEnd := none, prev := none }) (arrive t d))

/-- TTDP_TOPOLOGY_VALID (R76, R111): the epoch is the next in the sequence of R95. PRESUMED, unsafe (log entry 28). -/
def execTtdpTopologyValid (t : TtdpTopology) (s : State) : Result :=
  s.does fun d =>
    if d.inaug.state = .standard && !safeLow d then
      switchEpoch (numberingOf d.chip.ident { epoch := BitVec.ofNat 16 (epochAfter d.inaug.now.epoch), topo := t.topo
                                              countdown := 0, nodes := BitVec.ofNat 8 t.entries.length
                                              consists := t.consists, refEnd := t.refEnd, entries := t.entries } t.epochIds) 0 d
    else d

/-! ### Safe forwarding and late adoption (R107, R108) -/

/-- Asks the next neighbour for the last COMMIT, or starts a round when none is left (R108). -/
def askCommit (d : Dev) : Dev :=
  let heard := backbonePorts.filter (fun p => (heardOn d p).isSome &&
    !d.inaug.asked.any (fun q => isRear q = isRear p))
  match heard with
  | [] => joinHeld (startRound [] (onInaug (fun i => { i with asked := [] }) d))
  | p :: _ =>
    createSc [p] (.commitRequest d.inaug.now.epoch) (onInaug (fun i => { i.stopTimers with
      state := .committing, asked := p :: i.asked, requestDeadline := some (d.now + 10 * msNs) }) d)

/-- SAFE_N returns high (R108). -/
def inaugSafeHigh (d : Dev) : Dev := if d.inaug.state = .late then judgeSleep (askCommit d) else d

/-- COMMIT_REQUEST (R108). -/
def execCommitRequest (p : Port) (h : ScHeader) (_epoch : BitVec 16) (s : State) : Result :=
  s.does (takeSc 9 p h 2 (fun _ => true) fun d =>
    match d.inaug.lastCommit with
    | none => d
    | some a =>
      let n := d.inaug.seq + 1
      sendSc [p] a.originator d.inaug.round n 0 0 false (.commit { a.body with countdown := 100000 })
        (onInaug (fun i => { i with seq := n }) d))

/-- COMMIT_REQUEST_TIMEOUT (R108). -/
def execCommitRequestTimeout (s : State) : Result :=
  s.doesJudged fun d =>
    match d.inaug.requestDeadline with
    | none => d
    | some t => askCommit (arrive t d)

/-! ### Inhibit (R103, R104) -/

/-- Puts a requester into the set, or counts that the set is full (R103). -/
def addRequester (who : Word48) (expiry : Option Nat) (d : Dev) : Dev :=
  let rest := d.inaug.requesters.filter (fun x => x.1 ≠ who)
  if rest.length = d.inaug.requesters.length && 128 ≤ rest.length then bump 0x2105 5 d
  else onInaug (fun i => { i with requesters := rest ++ [(who, expiry)] }) d

/-- Takes a requester out of the set (R103). -/
def removeRequester (who : Word48) (d : Dev) : Dev :=
  inhibitEnded (onInaug (fun i => { i with requesters := i.requesters.filter (fun x => x.1 ≠ who) }) d)

/-- STATE (R103). -/
def execState (p : Port) (h : ScHeader) (inhibit : Bool) (epoch : BitVec 16) (s : State) : Result :=
  s.doesJudged (takeSc 0x0A p h 3 (fun _ => true) fun d =>
    let d1 := passSc (!isRear p) h h.more (.state inhibit epoch.toNat) d
    if inhibit then addRequester h.originator (some (d.now + 500 * msNs)) d1 else removeRequester h.originator d1)

/-- Sends the node's own STATE frame (R103). -/
def sendState (d : Dev) : Dev := createSc (bothSides d) (.state (cfgB d 0x2105 1) d.inaug.now.epoch) d

/-- A change of the node's own inhibit request (R103). -/
def setInhibit (on : Bool) (d : Dev) : Dev :=
  if cfgB d 0x2105 1 = on then d
  else
    let d1 := sendState (setReg 0x2105 1 (if on then 1 else 0) d)
    let d2 := onInaug (fun i => { i with stateDue := if on then some (d.now + 100 * msNs) else none }) d1
    judgeSleep (if on then addRequester d.chip.ident none d2 else removeRequester d.chip.ident d2)

/-- STATE_REPEAT (R103). -/
def execStateRepeat (s : State) : Result :=
  s.does fun d =>
    match d.inaug.stateDue with
    | none => d
    | some t =>
      let d1 := arrive t d
      addRequester d.chip.ident none (sendState (onInaug (fun i => { i with stateDue := some (d1.now + 100 * msNs) }) d1))

/-- STATE_SILENCE (R103). -/
def execStateSilence (requester : Word48) (s : State) : Result :=
  s.doesJudged fun d =>
    match (d.inaug.requesters.find? (fun x => x.1 = requester)).bind (·.2) with
    | none => d
    | some t => removeRequester requester (arrive t d)

/-- A change of the leading request (R110, R112). -/
def setLeading (v : Nat) (d : Dev) : Dev :=
  if cfg d 0x2100 6 = v then d else judgeSleep (onChange .config [] (setReg 0x2100 6 v d))

/-! ### Redundant pairs (R105, R106) -/

/-- The twin-link port (R105). -/
def twinPort (d : Dev) : Option Port :=
  let v := cfg d 0x2106 1
  if h : v < 20 then some ⟨v, h⟩ else none

/-- The partner's vehicle is this node's as far as the directory knows (R105). -/
def sameVehicle (d : Dev) (who : Word48) : Bool :=
  cfg d 0x2100 2 ≠ 0 && (match d.inaug.now.dir.find? (fun x => x.ident = who) with
    | some x => x.vehicleId.toNat = cfg d 0x2100 2
    | none => true)

/-- PAIR (R73, R82, R105, R106). DESIGN CHOICE, unsafe (log entry 33). -/
def execPair (p : Port) (h : ScHeader) (primary : Bool) (_epoch : BitVec 16) (partner : Word48) (s : State) : Result :=
  s.does (scHeard p 10 fun d =>
    if twinPort d ≠ some p || !scHeaderOk h 10 then bump 0x2107 7 d
    else if roundHigher d.inaug.round h.round then d
    else
      let formed := partner = d.chip.ident && sameVehicle d h.originator
      onInaug (fun i => { i with
        partner := some h.originator, partnerPrimary := primary
        pairDeadline := some (d.now + cfg d 0x2106 5 * msNs)
        outage := false, partnerLost := false, follows := i.follows || i.outage
        pairState :=
          if i.outage || i.pairState = 3 then i.pairState
          else if !formed then 0
          else if i.pairState = 0 then (if d.chip.ident.toNat < h.originator.toNat then 1 else 2)
          else i.pairState }) d)

/-- PAIR_PERIOD (R105, R112). -/
def execPairPeriod (s : State) : Result :=
  s.does fun d =>
    match d.inaug.pairDue, twinPort d with
    | some t, some p =>
      let d1 := onInaug (fun i => { i with pairDue := some (t + msNs) }) (arrive t d)
      if portUp d p then
        let first := d.inaug.partnerLost || d.inaug.pairState = 1 || d.inaug.pairState = 3 ||
          (d.inaug.pairState = 0 && d.inaug.now.primary)
        createSc [p] (.pair first d.inaug.now.epoch (d.inaug.partner.getD 0)) d1
      else d1
    | _, _ => d

/-- PAIR_LOSS (R106). -/
def execPairLoss (s : State) : Result :=
  s.does fun d =>
    match d.inaug.pairDeadline with
    | none => d
    | some t =>
      let d1 := onInaug (fun i => { i with pairDeadline := none }) (arrive t d)
      if d.inaug.pairState = 0 || d.inaug.outage then d1
      else if backbonePorts.any (fun p => (heardOn d p).isSome && heardOn d p = d.inaug.partner) then
        bump 0x2106 4 (onInaug (fun i => { i with outage := true }) d1)
      else raise evPartnerLost noInst (onInaug (fun i => { i with outage := true, partnerLost := true }) d1)

/-- The twin-link port is set or changed (R105). -/
def startPair (d : Dev) : Dev :=
  onInaug (fun i => { i with
    partner := none, pairDeadline := none, pairState := 0, partnerLost := false, outage := false, follows := false
    pairDue := if (twinPort d).isSome then some d.now else none }) d

/-! ### Start and apply points (R109, R110, R112) -/

/-- Boot completes: epoch 0, state Unnumbered, round 1 at once, or TTDP alone (R109, R112). -/
def bootInaug (d : Dev) : Dev :=
  let d1 := startPair d
  if scEnabled d then judgeSleep (startRound [] d1)
  else onInaug (fun i => { i with state := .standard, standard := true }) d1

/-- Apply point (R105, R110, R112). -/
def applyInaug (old : Dev) (d : Dev) : Dev :=
  let d1 := if cfg old 0x2106 1 ≠ cfg d 0x2106 1 then startPair d else d
  let d2 :=
    if scEnabled old && !scEnabled d then
      onInaug (fun i => { i.stopTimers with state := .standard, standard := true }) (dropCommit d1)
    else if !scEnabled old && scEnabled d then
      forEach (backbonePorts.filter (portUp d1)) (fun p d => sendProbe p (onBack p (fun b => { b with unanswered := 0 }) d)) d1
    else d1
  let own := fun (x : Dev) => (cfg x 0x2100 2, cfg x 0x2100 3, cfg x 0x2100 4, cfgBytes x 0x2100 5)
  judgeSleep (if own old ≠ own d then onChange .config [] d2 else d2)

end Sys2Proof.Machine
end

