-- ==== Sys2Proof/Machine/Ports.lean ====
section
/-! DEFINITION. Port link states, PHY groups, PHY scripts and status reads (R160 to R174, R183 to R185). -/

namespace Sys2Proof.Machine

/-- Event "PHY script failed" (R169). -/
def evPhyFault : Ev := ⟨1, 5, 0x80, 0⟩
/-- Event "link up" (R169). -/
def evLinkUp : Ev := ⟨1, 2, 0x81, 0⟩
/-- Event "link lost": severity 4 on ports 0 to 3, 2 on ports 4 to 19 (R169). -/
def evLinkLost (p : Port) : Ev := ⟨1, if isBackbone p then 4 else 2, 0x82, 0⟩

/-- Code of a link state (R169). -/
def LinkState.code : LinkState → Nat
  | .disabled => 0
  | .phyStart => 1
  | .acquiring => 2
  | .upHold => 3
  | .up => 4
  | .phyFault => 5

/-- Entry of a port. DESIGN CHOICE, unsafe (log entry 48). -/
def portReg (d : Dev) (p : Port) (sub : Nat) : Nat := cfg d (0x2300 + p.val) sub

/-- PHY group of a port (R171). -/
def groupOf (p : Port) : Fin 4 := if p.val ≤ 1 then 0 else if p.val ≤ 3 then 1 else if p.val ≤ 11 then 2 else 3

/-- Ports of a PHY group, in port order (R171). -/
def groupPorts (g : Fin 4) : List Port := allPorts.filter (fun p => groupOf p = g)

/-- The backbone sides that the awake scope permits (R410). -/
def sidePermitted (d : Dev) (rear : Bool) : Bool :=
  2 ≤ d.sleep.scope || (d.sleep.scope = 1 && bitOf (cfg d 0x2B02 6) (if rear then 1 else 0)) ||
    d.sleep.wokenPorts.any (fun p => isBackbone p && isRear p = rear)

/-- A profile or the awake scope holds the port (R163, R410). -/
def portHeld (d : Dev) (p : Port) : Bool :=
  (d.node.profile = 4 && 4 ≤ p.val && p.val ≤ 18) || (isBackbone p && !sidePermitted d (isRear p))

/-- The rate at which a port runs (R163). DESIGN CHOICE, unsafe (log entry 48). -/
def runRate (d : Dev) (p : Port) : Nat := if 4 ≤ p.val && d.node.profile = 1 then 1 else portReg d p 2

/-- The lane counts as up, with the link bit of the external PHY where 0x2300 + p:0D asks for it (R164). -/
def laneCounts (d : Dev) (p : Port) : Bool := d.ports.p[p].laneUp && (portReg d p 0x0D ≠ 1 || d.ports.p[p].phyLink)

/-- What a lane transmitter sends (R165, R169). -/
inductive LaneSends where
  | electricalIdle | faultOrIdle | idleOrFrames
  deriving DecidableEq, Repr

/-- What the transmitter of a port sends: while a 10GBASE-R lane is not sound, remote fault sequences when its own receive path
is at fault, and idle when it receives remote fault sequences; no frame in either case (R165). -/
def laneSends (d : Dev) (p : Port) : LaneSends :=
  match d.ports.p[p].link with
  | .disabled | .phyStart | .phyFault => .electricalIdle
  | _ => if isBackbone p && !d.ports.p[p].laneUp then .faultOrIdle else .idleOrFrames

/-- The configured equalisation of a port (R183). -/
def configuredEq (d : Dev) (p : Port) : EqSet :=
  { pre := portReg d p 0x0F, main := portReg d p 0x10, post := portReg d p 0x11, mode := portReg d p 0x12, ctle := portReg d p 0x13 }

/-- The receiver adapts at entry to Acquiring: its CTLE peaking and its DFE are free values; in mode 1 the CTLE peaking is
0x2300 + p:13 and the DFE is off (R183). -/
def adaptReceiver (p : Port) (d : Dev) : Dev :=
  let n := d.fresh
  onPort p (fun t =>
    if t.eq.mode = 0 then { t with eq := { t.eq with ctle := Config.freeNat n % 16 }, dfe := some (Config.freeNat (n + 1)) }
    else { t with dfe := none }) (draw (draw d))

/-- The CTLE peaking in force: while an adaptive port is Up it lies within 2 steps of the adapted value, where is free
(R183). DESIGN CHOICE, safe (log entry 120). -/
def ctleNow (d : Dev) (p : Port) : Nat :=
  let t := d.ports.p[p]
  if t.eq.mode = 0 && t.link = .up then min 15 (t.eq.ctle + Config.freeNat d.fresh % 5 - 2) else t.eq.ctle

/-- Clause 37 runs on the port (R164). -/
def autoNeg (d : Dev) (p : Port) : Bool := runRate d p = 1 && portReg d p 3 ≠ 0

/-! ### Gaining and losing link (R166 to R169) -/

/-- A change of link may change the lane of a side (R245, R267). DESIGN CHOICE, safe (log entry 46). -/
def laneChange (oldLane : Port) (p : Port) (d : Dev) : Dev :=
  if isBackbone p && laneFor d (isRear p) ≠ oldLane && !inRound d then startResBuild (laneRebuild oldLane p d) else d

/-- The port enters Up (R166, R167, R169). -/
def enterUp (p : Port) (d : Dev) : Dev :=
  let lane := laneFor d (isRear p)
  let first := isBackbone p && !sideUp d (isRear p)
  let d1 := onPort p (fun t => { t with link := .up, holdEnd := none, downSince := none, pauseSince := d.now }) d
  let d2 := if first then
      let info : SideInfo := { SideInfo.reset with deadline := some (d.now + 3 * cfg d 0x2B02 2 * msNs) }
      onSleep (fun s => if isRear p then { s with rear := info } else { s with front := info }) d1
    else d1
  let d3 := backboneUp p (timePortUp p (raise evLinkUp p.val d2))
  laneChange lane p (if isBackbone p then sendOffers p d3 else d3)

/-- A port that is Up loses link (R168). -/
def loseLink (p : Port) (d : Dev) : Dev :=
  let lane := laneFor d (isRear p)
  let t := d.ports.p[p]
  let d1 := onlyIf (t.txCut && d.now < t.txUntil) (bump (0x2300 + p.val) 0x32) d
  let d2 := onPort p (fun t => { t with link := .acquiring, downSince := none, txUntil := d.now, txCut := false }) d1
  let d3 := bump (0x2300 + p.val) 0x31 (clearPause p (discardPort p d2))
  laneChange lane p (backboneDown p (timePortDown p (raise (evLinkLost p) p.val (sweepCells d3))))

/-- Leaves Up with the actions of R168, where the port is Up. -/
def leaveUp (p : Port) (d : Dev) : Dev := if portUp d p then loseLink p d else d

/-- The port starts its lane (R165, R169, R183). DESIGN CHOICE, safe (log entry 120). -/
def enterAcquiring (p : Port) (d : Dev) : Dev :=
  adaptReceiver p (onPort p (fun t => { t with
    link := .acquiring, laneUp := false, script := none, releaseAt := none, holdEnd := none, downSince := none
    rate := runRate d p, eq := configuredEq d p
    anRestart := if autoNeg d p then some (d.now + 10 * msNs) else none }) d)

/-- The lane of a port that is Acquiring, in Up hold or Up counts as up, or not; while it is not up Clause 37 restarts every
10 ms (R165, R166, R169). DESIGN CHOICE, safe (log entry 46). -/
def judgeLane (p : Port) (d0 : Dev) : Dev :=
  let up := laneCounts d0 p
  let d := onPort p (fun t => { t with
    anRestart := if up || !autoNeg d0 p then none else t.anRestart <|> some (d0.now + 10 * msNs) }) d0
  match d.ports.p[p].link with
  | .acquiring =>
    if !up then d
    else if portReg d p 0x0C = 0 then enterUp p d
    else onPort p (fun t => { t with link := .upHold, holdEnd := some (d.now + portReg d p 0x0C * msNs) }) d
  | .upHold => if up then d else onPort p (fun t => { t with link := .acquiring, holdEnd := none }) d
  | .up =>
    if up then onPort p (fun t => { t with downSince := none }) d
    else if portReg d p 0x0B = 0 then loseLink p d
    else if d.ports.p[p].downSince.isSome then d
    else onPort p (fun t => { t with downSince := some d.now }) d
  | _ => d

/-- LANE_UP (R164, R166). DESIGN CHOICE, safe (log entry 46). -/
def execLaneUp (p : Port) (s : State) : Result :=
  s.doesJudged fun d =>
    match d.ports.p[p].link with
    | .acquiring | .upHold | .up => judgeLane p (onPort p (fun t => { t with laneUp := true }) d)
    | _ => d

/-- LANE_DOWN (R164, R165, R166). DESIGN CHOICE, safe (log entry 46). -/
def execLaneDown (p : Port) (s : State) : Result :=
  s.doesJudged fun d =>
    match d.ports.p[p].link with
    | .acquiring | .upHold | .up => judgeLane p (onPort p (fun t => { t with laneUp := false }) d)
    | _ => d

/-- LINK_DOWN_DEBOUNCE (R166, R168). -/
def execLinkDownDebounce (p : Port) (s : State) : Result :=
  s.doesJudged fun d =>
    match d.ports.p[p].link, d.ports.p[p].downSince with
    | .up, some t => loseLink p (arrive (t + portReg d p 0x0B * usNs) d)
    | _, _ => d

/-- LINK_UP_HOLD (R169). -/
def execLinkUpHold (p : Port) (s : State) : Result :=
  s.doesJudged fun d =>
    match d.ports.p[p].link, d.ports.p[p].holdEnd with
    | .upHold, some t => enterUp p (arrive t d)
    | _, _ => d

/-- AUTO_NEGOTIATION_RESTART (R165). -/
def execAutoNegotiationRestart (p : Port) (s : State) : Result :=
  s.does fun d =>
    match d.ports.p[p].anRestart with
    | none => d
    | some t =>
      let d1 := arrive t d
      onPort p (fun x => { x with anRestart := if autoNeg d p && !laneCounts d p then some (d1.now + 10 * msNs) else none }) d1

/-! ### PHY scripts (R169, R173) -/

/-- One record of a PHY script (R173). -/
structure PhyOp where
  op : Nat
  dev : Nat
  reg : Nat
  value : Nat
  mask : Nat
  deriving DecidableEq, Repr

/-- The records of a port's PHY script. -/
def phyScript (d : Dev) (p : Port) : List PhyOp :=
  let bs := cfgBytes d (0x2300 + p.val) 0x19
  (List.range (bs.length / 8)).map fun i =>
    let r := slice bs (8 * i) 8
    { op := leNat (slice r 0 1), dev := leNat (slice r 1 1), reg := leNat (slice r 2 2), value := leNat (slice r 4 2)
      mask := leNat (slice r 6 2) }

/-- One access on the port's MDIO bus, at its PHY address and with its clause (R174). -/
def mdio (p : Port) (dev reg : Nat) (write : Option Nat) (d : Dev) : Dev :=
  emit (.mdio p (portReg d p 0x16) (portReg d p 0x17) (portReg d p 0x18) dev reg write) d

/-- Time of one access, ns: 25.6 µs in Clause 22, 51.2 µs in Clause 45. -/
def mdioNs (d : Dev) (p : Port) : Nat := if portReg d p 0x18 = 22 then 25600 else 51200

/-- The MDIO accesses of script records; what a read-modify-write finds is the PHY's. DESIGN CHOICE, safe (log entry 47). -/
def scriptAccess (p : Port) (r : PhyOp) (d : Dev) : Dev :=
  match r.op with
  | 1 => mdio p r.dev r.reg (some r.value) d
  | 2 =>
    let old := Config.freeNat d.fresh % 65536
    let v := Nat.lor (Nat.land old (Nat.xor 0xFFFF r.mask)) (Nat.land r.value r.mask)
    draw (mdio p r.dev r.reg (some v) (mdio p r.dev r.reg none d))
  | 4 => mdio p r.dev r.reg none d
  | _ => d

/-- Least time that a record takes, ns: its accesses, or its wait (R173). -/
def recordNs (d : Dev) (p : Port) (r : PhyOp) : Nat :=
  match r.op with
  | 1 | 4 => mdioNs d p
  | 2 => 2 * mdioNs d p
  | 3 => r.mask * msNs
  | _ => 0

/-- Least time that records take one after another, ns. -/
def scriptNs (d : Dev) (p : Port) (l : List PhyOp) : Nat := l.foldl (fun n r => n + recordNs d p r) 0

/-- The records before each poll of a script (R173). -/
def pollPrefixes (l : List PhyOp) : List (List PhyOp) :=
  l.zipIdx.filterMap (fun (r, i) => if r.op = 4 then some (l.take i) else none)

/-- Earliest end of the first poll of a script that is not satisfied, after the records before it. DESIGN CHOICE, safe (log
entry 47). -/
def firstPollEnd (d : Dev) (p : Port) (l : List PhyOp) : Option Nat :=
  (pollPrefixes l).head?.map (fun before => d.now + scriptNs d p before + 100 * msNs)

/-- The script starts; an empty one completes at once (R173). -/
def startScript (p : Port) (d : Dev) : Dev :=
  let l := phyScript d p
  if l.isEmpty then enterAcquiring p d
  else onPort p (fun t => { t with
    releaseAt := none, script := some { record := 0, started := d.now, pollDeadline := firstPollEnd d p l } }) d

/-- A script has ended: status reads that waited for it are due (R184). -/
def scriptEnded (p : Port) (d : Dev) : Dev :=
  let g := groupOf p
  if d.ports.phyIntPending[g] && (groupPorts g).all (fun x => d.ports.p[x].script.isNone) then
    forEach (groupPorts g) (fun x d =>
      if portReg d x 0x0D = 1 then onPort x (fun t => { t with statusPoll := some d.now }) d else d)
      { d with ports := { d.ports with phyIntPending := d.ports.phyIntPending.set g.val false } }
  else d

/-- The script fails (R169). -/
def scriptFails (p : Port) (d : Dev) : Dev :=
  scriptEnded p (raise evPhyFault p.val (onPort p (fun t => { t with link := .phyFault, script := none, laneUp := false }) d))

/-- PHY_SCRIPT_COMPLETE with the record at which a failed script ended: the records have taken at least their accesses and
waits (R169, R173). DESIGN CHOICE, safe (log entry 47). -/
def execPhyScriptComplete (p : Port) (ok : Bool) (record : BitVec 8) (s : State) : Result :=
  s.does fun d =>
    match d.ports.p[p].link, d.ports.p[p].script with
    | .phyStart, some r =>
      let l := phyScript d p
      let ran := if ok then l else l.take (record.toNat + 1)
      let d1 := forEach ran (scriptAccess p) (arrive (r.started + scriptNs d p ran) d)
      if ok then scriptEnded p (enterAcquiring p d1) else scriptFails p d1
    | _, _ => d

/-- The poll that is not satisfied: the only one, or any of them (R173). -/
def unsatisfiedPoll (n : Nat) (l : List (List PhyOp)) : Option (List PhyOp) :=
  match l with
  | [x] => some x
  | _ => l[n % l.length]?

/-- PHY_SCRIPT_POLL_TIMEOUT: a poll is not satisfied within 100 ms of its start (R173). DESIGN CHOICE, safe (log entry 47).
-/
def execPhyScriptPollTimeout (p : Port) (s : State) : Result :=
  s.does fun d =>
    match d.ports.p[p].link, d.ports.p[p].script, unsatisfiedPoll (Config.freeNat d.fresh) (pollPrefixes (phyScript d p)) with
    | .phyStart, some r, some before =>
      let l := phyScript d p
      let d1 := arrive (r.started + scriptNs d p before + 100 * msNs) (draw d)
      scriptFails p (forEach (l.take (before.length + 1)) (scriptAccess p) d1)
    | _, _, _ => d

/-- The first port of a group that leaves Disabled releases the group's reset; a pulse under way goes on (R171). -/
def releaseGroup (g : Fin 4) (d : Dev) : Dev :=
  if d.ports.phyReleased[g] || d.ports.pulseEnd[g].isSome then d
  else { d with ports := { d.ports with phyReleased := d.ports.phyReleased.set g.val true
                                        releasedAt := d.ports.releasedAt.set g.val d.now } }

/-- A port without link waits for its PHY: the group's reset is released, and the script runs when 0x2300 + p:21 has
passed since (R169). -/
def awaitPhy (p : Port) (d : Dev) : Dev :=
  let g := groupOf p
  let d1 := releaseGroup g d
  let at_ := d1.ports.releasedAt[g] + portReg d1 p 0x21 * msNs
  let d2 := onPort p (fun t => { t with link := .phyStart, laneUp := false, script := none, releaseAt := none }) d1
  if d1.ports.pulseEnd[g].isSome then d2
  else if at_ ≤ d2.now then startScript p d2
  else onPort p (fun t => { t with releaseAt := some at_ }) d2

/-- PHY_RELEASE_DELAY (R169). -/
def execPhyReleaseDelay (p : Port) (s : State) : Result :=
  s.does fun d =>
    match d.ports.p[p].link, d.ports.p[p].releaseAt with
    | .phyStart, some t => startScript p (arrive t d)
    | _, _ => d

/-! ### Enabling, disabling and PHY resets (R163, R169 to R171) -/

/-- Period of the PHY status reads while 0x2300 + p:0D is 1 (R172). -/
def planStatus (p : Port) (d : Dev) : Dev :=
  let next := fun (t : PortS) =>
    if portReg d p 0x0D = 1 then (if t.statusPoll.isSome then t.statusPoll else some (d.now + 10 * msNs))
    else none
  onPort p (fun t => { t with statusPoll := next t }) d

/-- A port leaves Disabled (R169). -/
def startPort (p : Port) (d : Dev) : Dev :=
  planStatus p (if portReg d p 0x16 = 0xFF then enterAcquiring p (releaseGroup (groupOf p) d) else awaitPhy p d)

/-- A group whose ports are all Disabled has its reset asserted (R171). -/
def regroup (g : Fin 4) (d : Dev) : Dev :=
  if (groupPorts g).all (fun p => d.ports.p[p].link = .disabled) then
    { d with ports := { d.ports with phyReleased := d.ports.phyReleased.set g.val false } }
  else d

/-- A port is Disabled: its transmitter sends electrical idle (R169). -/
def disablePort (p : Port) (d : Dev) : Dev :=
  let d1 := onPort p (fun t => { t with
    link := .disabled, laneUp := false, phyLink := false, downSince := none, holdEnd := none, releaseAt := none
    script := none, anRestart := none, rate := 0 }) (leaveUp p d)
  regroup (groupOf p) (if d.ports.p[p].script.isSome then scriptEnded p d1 else d1)

/-- A port that must run runs, and one that must not is Disabled (R169). -/
def settlePort (p : Port) (d : Dev) : Dev :=
  let run := portReg d p 1 ≠ 0 && !portHeld d p
  if d.ports.p[p].link = .disabled then (if run then startPort p d else d) else if run then d else disablePort p d

/-- Every port under the enables, the profile and the awake scope. -/
def settlePorts (d : Dev) : Dev := forEach allPorts settlePort d

/-- One port at an apply point or a change of profile (R169, R183, R184). -/
def applyPort (old : Dev) (written : Nat → Nat → Bool) (p : Port) (d : Dev) : Dev :=
  let d1 := settlePort p d
  let restart := d1.ports.p[p].rate ≠ runRate d1 p || portReg old p 3 ≠ portReg d1 p 3 ||
    portReg old p 0x0E ≠ portReg d1 p 0x0E || portReg old p 0x12 ≠ portReg d1 p 0x12
  let d2 := match d1.ports.p[p].link with
    | .acquiring | .upHold | .up => if restart then enterAcquiring p (leaveUp p d1) else d1
    | .phyFault => if written (0x2300 + p.val) 0x19 then awaitPhy p d1 else d1
    | _ => d1
  let eqNew := configuredEq old p ≠ configuredEq d2 p
  let d3 := onPort p (fun t => { t with
    eq := if eqNew then { configuredEq d2 p with ctle := if portReg d2 p 0x12 = 0 then t.eq.ctle else portReg d2 p 0x13 }
          else t.eq
    phyLink := t.phyLink && (portReg old p 0x0D = 1 || portReg d2 p 0x0D ≠ 1) }) d2
  planStatus p (if portReg old p 0x0D = portReg d2 p 0x0D then d3 else judgeLane p d3)

/-- Every port at an apply point or a change of profile. -/
def applyPorts (old : Dev) (written : Nat → Nat → Bool) (d : Dev) : Dev :=
  judgeSleep (forEach allPorts (applyPort old written) d)

/-- Commit epoch 1 has applied: the ports start, the status reads are planned, and a group whose ports all stay Disabled has
its reset asserted (R170 to R172). -/
def bootPorts (d : Dev) : Dev := forEach (List.finRange 4) regroup (forEach allPorts planStatus (settlePorts d))

/-- Every port goes Disabled with the actions of R168 (R400). -/
def portsOff (d : Dev) : Dev := forEach allPorts disablePort d

/-- A PHY reset pulse of 10 ms on a group (R169, R171). -/
def pulseGroup (g : Fin 4) (d : Dev) : Dev :=
  let d1 := { d with ports := { d.ports with
    phyReleased := d.ports.phyReleased.set g.val false
    pulseEnd := d.ports.pulseEnd.set g.val (some (d.now + 10 * msNs)) } }
  let ran := (groupPorts g).find? (fun p => d.ports.p[p].script.isSome)
  let d2 := forEach (groupPorts g) (fun p d =>
    if d.ports.p[p].link = .disabled then d
    else onPort p (fun t => { t with
      link := .phyStart, laneUp := false, downSince := none, holdEnd := none, releaseAt := none, script := none
      anRestart := none }) (leaveUp p d)) d1
  match ran with
  | some p => scriptEnded p d2
  | none => d2

/-- PHY_RESET_END (R169, R171). -/
def execPhyResetEnd (g : Fin 4) (s : State) : Result :=
  s.does fun d =>
    match d.ports.pulseEnd[g] with
    | none => d
    | some t =>
      let d1 := arrive t d
      let d2 := regroup g { d1 with ports := { d1.ports with
        phyReleased := d1.ports.phyReleased.set g.val true
        releasedAt := d1.ports.releasedAt.set g.val d1.now
        pulseEnd := d1.ports.pulseEnd.set g.val none } }
      forEach (groupPorts g) (fun p d =>
        if d.ports.p[p].link = .phyStart then
          onPort p (fun t => { t with releaseAt := some (d.now + portReg d p 0x21 * msNs) }) d
        else d) d2

/-! ### PHY status (R172) -/

/-- One status read of a port: the MDIO access, and its link bit (R172). DEDUCED, unsafe (log entry 126). -/
def readStatus (p : Port) (v : BitVec 16) (d : Dev) : Dev :=
  let r := portReg d p 0x1A
  if r = 0 then d
  else judgeLane p (onPort p (fun t => { t with phyLink := v.getLsbD (bitsOf r 27 24) })
    (mdio p (bitsOf r 20 16) (bitsOf r 15 0) none d))

/-- PHY_INTERRUPT with what the ports' status registers hold (R172, R184). -/
def execPhyInterrupt (g : Fin 4) (status : List (Port × BitVec 16)) (s : State) : Result :=
  s.doesJudged fun d =>
    if (groupPorts g).any (fun p => d.ports.p[p].script.isSome) then
      { d with ports := { d.ports with phyIntPending := d.ports.phyIntPending.set g.val true } }
    else
      forEach ((groupPorts g).filter (fun p => portReg d p 0x0D = 1)) (fun p d =>
        match status.find? (fun x => x.1 = p) with
        | some (_, v) => readStatus p v d
        | none => d) d

/-- PHY_STATUS_POLL (R172). -/
def execPhyStatusPoll (p : Port) (status : BitVec 16) (s : State) : Result :=
  s.doesJudged fun d =>
    match d.ports.p[p].statusPoll with
    | none => d
    | some t =>
      let d1 := arrive t d
      readStatus p status (onPort p (fun x => { x with statusPoll := some (d1.now + 10 * msNs) }) d1)

/-! ### Rules for port writes (R185) -/

/-- A port carries an active schedule. -/
def portScheduled (d : Dev) (p : Port) : Bool := scheduleActive d && d.sched.gates.any (fun g => g.port = p)

/-- A port carries an active schedule or an active stream reservation (R185). -/
def portCarries (d : Dev) (p : Port) : Bool := portScheduled d p || (resBank d).any (fun r => r.ports.contains p)

/-- A write of R185's first two rows is refused on this port. -/
def portLocked (d : Dev) (p : Port) : Bool :=
  portCarries d p || (twinPort d = some p && (d.inaug.pairState = 1 || d.inaug.pairState = 2))

/-- A PHY reset request for a port's group is refused (R185). -/
def resetRefused (d : Dev) (p : Port) : Bool :=
  match (groupOf p).val with
  | 0 => !(portUp d 2 && portUp d 3)
  | 1 => !(portUp d 0 && portUp d 1)
  | _ => (groupPorts (groupOf p)).any (portCarries d)

end Sys2Proof.Machine
end

