-- ==== Sys2Proof/Machine/Health.lean ====
section
/-! DEFINITION. Ageing sensors, the reference tracker, the health record, the margin planner and snapshots of the event
counters (chapter 17). -/

namespace Sys2Proof.Machine

/-- Event "plan applied". -/
def evPlanApplied : Ev := ⟨14, 2, 0x81, 0⟩
/-- Event "health record empty at boot". -/
def evHealthEmpty : Ev := ⟨14, 4, 0x82, 0⟩
/-- Event "urgent action". -/
def evUrgent : Ev := ⟨14, 4, 0x82, 1⟩
/-- Event "voltage step failed". -/
def evVoltageFailed : Ev := ⟨14, 5, 0x83, 0⟩
/-- Event "island exhausted". -/
def evExhaustedIsland : Ev := ⟨14, 6, 0x84, 0⟩
/-- The severity 7 event of R580. -/
def evOverTemp : Ev := ⟨14, 7, 0x85, 0⟩

/-- Changes the health functions. -/
def onHealth (f : HealthS → HealthS) (d : Dev) : Dev := { d with health := f d.health }

/-- Changes the reference tracker. -/
def onTracker (f : Tracker → Tracker) (d : Dev) : Dev := onHealth (fun h => { h with tracker := f h.tracker }) d

/-! ### Sensors (R505, R506) -/

/-- Island of a sensor (R505). -/
def sensorIsland (s : Nat) : Nat :=
  if s < 40 then s / 2
  else if s < 76 then 20 + (s - 40) / 4
  else if s < 88 then 29
  else if s < 92 then 30
  else if s < 100 then 31 + (s - 92) / 2
  else if s < 116 then 35
  else if s < 124 then 36 + (s - 116) / 2
  else 40

/-- Present clock of an island in Hz: a MAC island runs at its line rate, and island 40 from CLK32K while the device rests (R16,
R486). -/
def clockHz (d : Dev) (i : Nat) : Nat :=
  if h : i < 20 then
    let p : Port := ⟨i, h⟩
    if isBackbone p then 156250000
    else match rateMbps (if d.ports.p[p].rate = 0 then runRate d p else d.ports.p[p].rate) with
      | 2500 => 312500000
      | 1000 => 125000000
      | _ => 156250000
  else if i = 40 then (if d.pow.state = .standby || d.pow.state = .sleep || d.pow.state = .resetHeld then 32768 else 25000000)
  else 1000 * d.health.clocks[Fin.ofNat 41 i]

/-- Present clock of an island in whole kHz (R16, R527). -/
def clockNow (d : Dev) (i : Nat) : Nat := clockHz d i / 1000

/-- The island is measured: it has power and is no retired slice (R506). -/
def islandMeasured (d : Dev) (i : Nat) : Bool :=
  !(d.fab.retired.any (fun s => 20 + s.val = i)) && (i ≠ 38 || d.pins.strapPcie)

/-- Sensors with a value. -/
def measured (d : Dev) : List (Nat × Sensor) :=
  (List.finRange 128).filterMap (fun i => if d.health.sensors[i].measured then some (i.val, d.health.sensors[i]) else none)

/-- The sensor of the lowest slack, if any is measured (R526). -/
def lowestSensor (d : Dev) : Option (Nat × Sensor) :=
  (measured d).foldl (fun acc x => match acc with
    | none => some x
    | some y => if x.2.slack < y.2.slack then some x else acc) none

/-- Takes the readings of a scan (R506). -/
def takeReadings (readings : List SensorReading) (d : Dev) : Dev :=
  onHealth (fun h => { h with sensors := Vector.ofFn (fun i : Fin 128 =>
    let isl := sensorIsland i.val
    match readings[i.val]? with
    | some r =>
      if islandMeasured d isl then
        { slack := (1000000000000 / max 1 (clockHz d isl) : Nat) - r.delay, shift := r.shift, measured := true }
      else { h.sensors[i] with measured := false }
    | none => { h.sensors[i] with measured := false }) }) d

/-! ### The margin planner (R511 to R520) -/

/-- Step and floor of an island whose clock the planner moves, kHz (R513). -/
def clockStep (i : Nat) : Option (Nat × Nat) :=
  if 20 ≤ i && i ≤ 28 then some (5000, 470000)
  else if i = 29 then some (5000, 375000)
  else if i = 31 || i = 32 then some (5000, 180000)
  else if i = 34 || i = 36 then some (10000, 150000)
  else if i = 35 then some (25000, 700000)
  else none

/-- The profile and the control complex let the planner act (R511, R519). -/
def plannerAllowed (d : Dev) : Bool := d.pow.agentReady && (d.node.profile = 0 || d.node.profile = 3)

/-- The planner is held, or held no longer (R511, R519). -/
def plannerGate (d : Dev) : Dev :=
  if d.node.profile = 2 || d.node.profile = 4 || !d.pow.agentReady then
    onHealth (fun h => { h with planner := .held, plan := none, applyAt := none, confirmBy := none, undo := [] }) d
  else if d.health.planner = .held then onHealth (fun h => { h with planner := .idle }) d
  else d

/-- VDD_CORE set, mV (0x2E03:02). -/
def vcoreSet (d : Dev) : Nat := cfg d 0x2E03 2

/-- VDD_CORE may be moved: PMBus state 1 (R512, R520). -/
def voltageMoves (d : Dev) : Bool := cfg d 0x2D02 3 = 1

/-- Islands with a sensor short of a slack, without repeats, rising (R512). -/
def shortIslands (d : Dev) (slack : Int) : List Nat :=
  ((measured d).filter (fun x => x.2.slack < slack)).map (fun x => sensorIsland x.1) |>.eraseDups

/-- An island is marked exhausted (R518). -/
def exhaust (i : Nat) (d : Dev) : Dev :=
  let d1 := raise evExhaustedIsland i (onHealth (fun h => { h with exhausted := h.exhausted ||| BitVec.ofNat 64 (2 ^ i) }) d)
  if 20 ≤ i && i ≤ 28 && d.node.profile = 0 && mayRotate d1 (i - 20) then startRotation (Fin.ofNat 9 (i - 20)) d1 else d1

/-- The short-island branch of R512: voltage, or the clocks of the islands; the clock steps and the voltage it wants. -/
def shortBranch (islands : List Nat) (d : Dev) : List (Nat × Nat) × Option Nat × Dev :=
  let vmax := cfg d 0x2E02 4
  if vcoreSet d < vmax && voltageMoves d then ([], some (min vmax (vcoreSet d + 10)), d)
  else
    islands.foldl (fun (x : List (Nat × Nat) × Option Nat × Dev) i =>
      match clockStep i with
      | some (step, floor_) =>
        let c := clockNow d i
        if floor_ < c then (x.1 ++ [(i, max floor_ (c - step))], x.2.1, x.2.2) else (x.1, x.2.1, exhaust i x.2.2)
      | none => (x.1, x.2.1, exhaust i x.2.2)) ([], none, d)

/-- The ample branch of R512. -/
def ampleBranch (d : Dev) : List (Nat × Nat) × Option Nat :=
  match (List.range 41).find? (fun i => (clockStep i).isSome && clockNow d i < nominalClock i) with
  | some i => ([(i, min (nominalClock i) (clockNow d i + ((clockStep i).map (·.1)).getD 0))], none)
  | none =>
    let vmin := cfg d 0x2E02 3
    if vmin < vcoreSet d && voltageMoves d then ([], some (max vmin (vcoreSet d - 10))) else ([], none)

/-- The equalisation of a lane after planning (R514). -/
def planLane (d : Dev) (p : Port) : EqSet :=
  let base := configuredEq d p
  let per := max 1 (cfg d 0x2E02 8)
  let s := d.health.sensors[Fin.ofNat 128 (2 * p.val + 1)]
  let n := if s.measured then s.shift.toNat / per else 0
  let rose := d.health.symbolErrs[p] + 10 < portReg d p 0x2A
  let ctle := d.ports.p[p].eq.ctle - base.ctle
  { base with
    pre := min 15 (base.pre + (if 3 ≤ n then 1 else 0)), main := base.main - min 4 (n - 3), post := min 31 (base.post + min 3 n)
    ctle := if base.mode = 1 then min 15 (base.ctle + min 2 (ctle + (if rose then 1 else 0))) else d.ports.p[p].eq.ctle }

/-- The guard band addition (R515): 3σ minus the allowance, rounded up to 8 ns, within its limits. DESIGN CHOICE, unsafe (log
entry 99). -/
def planGuard (d : Dev) : Nat :=
  let h := d.health
  let now := d.sched.guardAdd
  if h.offsetCount = 0 then now
  else
    let limit := cfg d 0x2E02 7
    let allow := cfg d 0x2E02 6
    let fits := fun (m : Nat) => 9 * h.offsetSq ≤ (m + allow) * (m + allow) * h.offsetCount
    let want := (((List.range (limit / 8 + 1)).map (8 * ·)).find? fits).getD limit
    max (min want limit) (now - 8)

/-- The apply point of a plan or of a follow-up: the first cycle boundary at least 1 ms away, train time ns (R516). -/
def planBoundary (d : Dev) : Nat := boundaryFrom d (trainTime d + msNs)

/-- Hands a plan to the commit controller, or rests when it changes nothing (R516, R519). DESIGN CHOICE, unsafe (log entry
99). -/
def handOver (clocks : List (Nat × Nat)) (vcore : Option Nat) (guardAdd : Nat) (eq : List (Nat × EqSet)) (d : Dev) : Dev :=
  if clocks.isEmpty && vcore.isNone && guardAdd = d.sched.guardAdd && eq.isEmpty then onHealth (fun h => { h with planner := .idle }) d
  else
    let p : Plan := { clocks := clocks, vcore := vcore, guardAdd := guardAdd, eq := eq, followClocks := [], followVcore := none }
    onHealth (fun h => { h with planner := .pending, plan := some p, applyAt := some (planBoundary d) }) d

/-- The planner makes a plan (R512, R514, R515). DESIGN CHOICE, unsafe (log entry 99). -/
def makePlan (d : Dev) : Dev :=
  let req : Int := cfg d 0x2E01 2
  let short := shortIslands d req
  let ample := (measured d).all (fun x => req + 40 ≤ x.2.slack)
  let (clocks, vcore, d1) :=
    if !short.isEmpty then shortBranch short d
    else if ample && d.health.prevAmple then let (c, v) := ampleBranch d; (c, v, d)
    else ([], none, d)
  let eq := if cfgB d 0x2E02 5 then
      (allPorts.filter (fun p => d.ports.p[p].link ≠ .disabled && planLane d p ≠ d.ports.p[p].eq)).map (fun p => (p.val, planLane d p))
    else []
  let g := planGuard d
  let d2 := onHealth (fun h => { h with
    prevAmple := ample, offsetSq := 0, offsetCount := 0, symbolErrs := Vector.ofFn (fun p : Port => portReg d p 0x2A) }) d1
  handOver clocks vcore g eq d2

/-- PLANNING_PERIOD (R511, R519). -/
def execPlanningPeriod (s : State) : Result :=
  s.does fun d0 =>
    match d0.health.planDue with
    | none => d0
    | some t =>
      let d := plannerGate (onHealth (fun h => { h with planDue := some (t + cfg d0 0x2E02 2 * sNs) }) (arrive t d0))
      if cfgB d 0x2E02 1 && plannerAllowed d && d.health.planner = .idle then makePlan d else d

/-- Critical slack between plans, at once for each island that shows it (R517). DESIGN CHOICE, unsafe (log entry 99). -/
def urgent (d : Dev) : Dev :=
  let d1 := plannerGate d
  let islands := shortIslands d1 (cfg d1 0x2E01 3)
  if !islands.isEmpty && cfgB d1 0x2E02 1 && plannerAllowed d1 && d1.health.planner = .idle then
    let d2 := forEach islands (fun i d => raise evUrgent i (bump 0x2E05 2 d)) d1
    let (clocks, vcore, d3) := shortBranch islands d2
    handOver clocks vcore d3.sched.guardAdd [] d3
  else d1

/-- SENSOR_SCAN (R506, R517). -/
def execSensorScan (readings : List SensorReading) (s : State) : Result :=
  s.does fun d =>
    match d.health.scanDue with
    | none => d
    | some t =>
      let d1 := arrive t d
      urgent (takeReadings readings (onHealth (fun h => { h with scanDue := some (t + cfg d1 0x2E01 1 * msNs) }) d1))

/-- A plan is complete (R519, R527, R532). DESIGN CHOICE, unsafe (log entry 99). -/
def planDone (d : Dev) : Dev :=
  raise evPlanApplied noInst (setReg 0x2E03 6 (trainTime d) (bump 0x2E03 5
    (onHealth (fun h => { h with planner := .idle, plan := none, applyAt := none, confirmBy := none, undo := [] }) d)))

/-- After a confirmed voltage step: the clock steps or the voltage that follow it become Pending for the next boundary, or the
plan is complete (R516, R519). -/
def followUp (d : Dev) : Dev :=
  match d.health.plan with
  | some p =>
    if p.followClocks.isEmpty && p.followVcore.isNone then planDone d
    else
      let n : Plan := { clocks := p.followClocks, vcore := p.followVcore, guardAdd := d.sched.guardAdd, eq := []
                        followClocks := [], followVcore := none }
      onHealth (fun h => { h with
        planner := .pending, plan := some n, applyAt := some (boundaryFrom d (trainTime d + 1)), confirmBy := none, undo := [] }) d
  | none => planDone d

/-- Sets island clocks. -/
def setClocks (l : List (Nat × Nat)) (d : Dev) : Dev :=
  forEach l (fun x d => onHealth (fun h => { h with clocks := h.clocks.set! x.1 x.2 }) d) d

/-- The epoch, the gate bank or the reservation bank changes at this boundary, or has just changed there, or a step of train
time is armed for it (R13, R25, R217, R245, R250, R276, R520). -/
def boundaryBusy (d : Dev) (t : Nat) : Bool :=
  scheduleActive d && (d.sched.switchPending || d.strm.switchPending || d.inaug.accepted.any (fun a => a.switchAt ≤ d.now) ||
    d.sched.lastSwitch = t || d.sched.lastBoundary = t || d.strm.lastBoundary = some t || d.time.armed.any (fun a => a.point ≤ t))

/-- A plan sets a lane's equalisation; in Acquiring the receiver adapts again (R183, R184). -/
def setEq (p : Port) (e : EqSet) (d : Dev) : Dev :=
  let d1 := onPort p (fun t => { t with eq := e }) d
  if d.ports.p[p].link = .acquiring then adaptReceiver p d1 else d1

/-- PLAN_APPLY (R516, R519, R520). DESIGN CHOICE, unsafe (log entry 99). -/
def execPlanApply (s : State) : Result :=
  s.does fun d0 =>
    match d0.health.applyAt, d0.health.plan with
    | some t, some p =>
      let d := arriveTrain t d0
      if boundaryBusy d t then
        bump 0x2E05 1 (onHealth (fun h => { h with applyAt := some (boundaryFrom d (t + 1)) }) d)
      else
        let undo := p.clocks.map (fun x => (x.1, clockNow d x.1))
        let d1 := setClocks p.clocks { d with sched := { d.sched with guardAdd := p.guardAdd } }
        let d2 := forEach p.eq (fun x d => setEq (Fin.ofNat 20 x.1) x.2 d) d1
        match p.vcore with
        | none => planDone d2
        | some v =>
          if d.pow.warnIo || d.pow.warnCore then
            onHealth (fun h => { h with plan := some { p with clocks := [], eq := [] }, applyAt := some (boundaryFrom d (t + 1)) }) d2
          else
            emit (.pmbus 0x21 v) (onHealth (fun h => { h with
              planner := .confirming, applyAt := none, commanded := v, undo := undo, confirmBy := some (d.now + 2 * msNs) }) d2)
    | _, _ => d0

/-- The voltage step failed: the plan's clock steps are undone (R516). -/
def voltageFails (d : Dev) : Dev :=
  raise evVoltageFailed noInst (bump 0x2E05 3 (setClocks d.health.undo
    (onHealth (fun h => { h with planner := .idle, plan := none, confirmBy := none, undo := [] }) d)))

/-- READ_VOUT (R516, R519). DESIGN CHOICE, unsafe (log entry 97). -/
def execReadVout (mv : BitVec 16) (s : State) : Result :=
  s.does fun d =>
    if d.health.planner ≠ .confirming then d
    else
      let v := d.health.commanded
      let d1 : Dev := { d with node := { d.node with vcore := mv.toNat } }
      if v ≤ mv.toNat + 10 && mv.toNat ≤ v + 10 then followUp (setReg 0x2E03 2 v d1) else voltageFails d1

/-- READ_VOUT_TIMEOUT (R519). -/
def execReadVoutTimeout (s : State) : Result :=
  s.does fun d =>
    match d.health.confirmBy with
    | some t => if d.health.planner = .confirming then voltageFails (arrive t d) else d
    | none => d

/-! ### The reference tracker (R508, R509, R528) -/

/-- Nominal increment in 2^-32 ns (R187). -/
def nominalInc : Nat := 0x400000000

/-- Trim of the increment, ppt. -/
def trimPpt (d : Dev) : Int := ((cfg d 0x2401 1 : Int) - nominalInc) * 1000000000000 / nominalInc

/-- The tracker learns (R508). -/
def trackerLearns (d : Dev) : Bool :=
  d.time.state = .synchronised ||
    (d.time.state = .grandmaster && cfg d 0x2402 0x0D = 1 && d.time.ppsInLast.isSome && d.time.ppsInLostAt.isNone)

/-- Mean of a list of numbers; 0 of none. DESIGN CHOICE, unsafe (log entry 98). -/
def meanOf (l : List Int) : Int := if l.isEmpty then 0 else l.sum / l.length

/-- Least-squares slope over a history, newest first, per step (R508). DESIGN CHOICE, unsafe (log entry 98). -/
def slopeOf (l : List Int) : Int :=
  let ys := l.reverse
  let n : Int := ys.length
  let xs : List Int := (List.range ys.length).map Int.ofNat
  let sx := xs.sum
  let sy := ys.sum
  let sxy := ((xs.zip ys).map (fun p => p.1 * p.2)).sum
  let sxx := (xs.map (fun x => x * x)).sum
  let den := n * sxx - sx * sx
  if den = 0 then 0 else (n * sxy - sx * sy) / den

/-- 30 days in ns. -/
def monthNs : Nat := 30 * 86400 * sNs

/-- The trim that cancels the estimate and its drift, within ±100 ppm, ppt (R509). DESIGN CHOICE, unsafe (log entry 98). -/
def trackerTarget (d : Dev) : Int :=
  let k := d.health.tracker
  let elapsed : Int := if k.learning then 0 else d.now - k.since
  max (-100000000) (min 100000000 (k.estimate + k.drift * elapsed / monthNs))

/-- Writes the increment, at most 1 ppb towards its target (R509). -/
def trimIncrement (d : Dev) : Dev :=
  if cfg d 0x2401 2 ≠ 0 then d
  else
    let target := (nominalInc : Int) + trackerTarget d * nominalInc / 1000000000000
    let now : Int := cfg d 0x2401 1
    let lim : Int := nominalInc / 1000000000
    setReg 0x2401 1 (now + max (-lim) (min lim (target - now))).toNat d

/-- TRACKER_UPDATE: every 10 s (R508, R509). DESIGN CHOICE, unsafe (log entry 98). -/
def execTrackerUpdate (s : State) : Result :=
  s.does fun d =>
    match d.health.tracker.updateAt with
    | none => d
    | some t =>
      let d1 := arrive t d
      let learns := trackerLearns d1
      onlyIf d1.pow.agentReady trimIncrement (onTracker (fun k => { k with
        updateAt := some (t + 10 * sNs), learning := learns
        since := if learns then d1.now else k.since
        sum := if learns then k.sum + d1.time.rate + trimPpt d1 else k.sum, count := if learns then k.count + 1 else k.count }) d1)

/-- TRACKER_HOURLY_MEAN: a whole hour of learning has passed (R508). DESIGN CHOICE, unsafe (log entry 98). -/
def execTrackerHourlyMean (s : State) : Result :=
  s.does fun d =>
    if !trackerLearns d then d
    else
      let k := d.health.tracker
      let mean := if k.count = 0 then d.time.rate + trimPpt d else k.sum / k.count
      let hours := (mean :: k.hours).take 24
      let full := k.periodHours + 1 = 720
      let period := k.periodSum + mean
      let history := if full then (period / 720 :: k.history).take 12 else k.history
      onTracker (fun k => { k with
        sum := 0, count := 0, hours := hours, learned := min 0xFFFFFFFF (k.learned + 1), estimate := meanOf hours
        periodSum := if full then 0 else period, periodHours := if full then 0 else k.periodHours + 1
        history := history, drift := if full then slopeOf history else k.drift }) d

/-- 0x2E04:06 is written 1 (R528). -/
def emptyTracker (d : Dev) : Dev :=
  onTracker (fun k => { Tracker.reset with updateAt := k.updateAt, learning := k.learning, since := d.now }) d

/-! ### The health record (R510) -/

/-- The eMMC takes a write. -/
def emmcWorks (d : Dev) : Bool := d.chip.emmc && !d.recd.mediumFailed

/-- The older copy is written with the tracker and the shifts (R510). -/
def writeHealth (d : Dev) : Dev :=
  if !emmcWorks d then bump 0x2E05 4 d
  else
    let h := d.health
    let k := h.tracker
    let one := h.copy0.valid && (!h.copy1.valid || h.copy1.generation < h.copy0.generation)
    let g := max h.copy0.generation h.copy1.generation + 1
    let c : HealthCopy := { valid := true, generation := g, estimate := k.estimate, drift := k.drift, history := k.history
                            learned := k.learned, shifts := h.sensors.toList.map (·.shift) }
    onHealth (fun h => if one then { h with copy1 := c } else { h with copy0 := c }) d

/-- 24 h in ns. -/
def dayNs : Nat := 86400 * sNs

/-- HEALTH_RECORD_WRITE (R510). DESIGN CHOICE, unsafe (log entry 100). -/
def execHealthRecordWrite (s : State) : Result :=
  s.does fun d =>
    match d.health.recordDue with
    | none => d
    | some t => writeHealth (onHealth (fun h => { h with recordDue := some (t + dayNs) }) (arrive t d))

/-- The recorder closes, and the health record is written with it while the recorder still runs (R384, R510). -/
def closeLogs (cause : Nat) (d : Dev) : Dev :=
  match d.recd.state with
  | .off | .closed => closeRecorder cause d
  | _ => writeHealth (closeRecorder cause d)

/-- The record with which the tracker starts at boot (R510). DESIGN CHOICE, unsafe (log entry 100). -/
def healthCopy (d : Dev) : Option HealthCopy :=
  let a := d.health.copy0
  let b := d.health.copy1
  if a.valid && (!b.valid || b.generation ≤ a.generation) then some a else if b.valid then some b else none

/-- The health functions start at the apply point of commit epoch 1 (R510, R525). DESIGN CHOICE, unsafe (log entry 100). -/
def healthBoot (d : Dev) : Dev :=
  let base := onHealth (fun h => { h with
    scanDue := some (d.now + cfg d 0x2E01 1 * msNs), planDue := some (d.now + cfg d 0x2E02 2 * sNs), recordDue := some (d.now + dayNs)
    counters := HealthS.reset.counters
    tracker := { Tracker.reset with updateAt := some (d.now + 10 * sNs), since := d.now } }) d
  match healthCopy d with
  | some c => onTracker (fun k => { k with estimate := c.estimate, drift := c.drift, history := c.history, learned := c.learned }) base
  | none => raise evHealthEmpty noInst base

/-! ### Snapshots and temperature (R524, R580) -/

/-- SNAPSHOT_PERIOD (R524). DESIGN CHOICE, unsafe (log entry 101). -/
def execSnapshotPeriod (s : State) : Result :=
  s.does fun d =>
    if bitOf (cfg d 0x2E08 1) 4 then
      let p := cfg d 0x2E08 3 * msNs
      let n := firstInstant 0 p (trainTime d)
      let t := if d.health.lastSnap = some n then firstInstant 0 p (n + 1) else n
      snapshot (onHealth (fun h => { h with lastSnap := some t }) (arriveTrain t d))
    else d

/-- Grade maximum of the junction temperature, units of 0.1 °C (R2). -/
def gradeMax (d : Dev) : Int := if d.chip.ex then 1250 else 1150

/-- A reading of the junction temperature (R507); at the grade maximum the event of R580, at most once a minute. -/
def junctionReading (reading : Int) (d : Dev) : Dev :=
  let d1 : Dev := { d with node := { d.node with junction := reading } }
  let quiet := match d.node.overTempAt with | some t => decide (d.now < t + 60 * sNs) | none => false
  if gradeMax d ≤ reading && !quiet then
    raise evOverTemp noInst { d1 with node := { d1.node with overTempAt := some d.now } }
  else d1

/-- The computed entries of chapter 17 (R526 to R531). -/
def healthRead (d : Dev) (idx sub : Nat) : Option Value :=
  let h := d.health
  if idx = 0x2E00 then
    match sub with
    | 1 => some (.num (unsignedOf 16 d.node.junction))
    | 2 => some (.num (((lowestSensor d).map (fun x => unsignedOf 16 x.2.slack)).getD 0))
    | 3 => some (.num (((lowestSensor d).map (·.1)).getD 0))
    | 4 => some (.num ((measured d).filter (fun x => x.2.slack < (cfg d 0x2E01 2 : Int))).length)
    | 6 => some (.num (unsignedOf 16 h.sensors[Fin.ofNat 128 (cfg d 0x2E00 5)].slack))
    | 7 => some (.num (unsignedOf 16 h.sensors[Fin.ofNat 128 (cfg d 0x2E00 5)].shift))
    | _ => none
  else if idx = 0x2E03 then
    match sub with
    | 1 => some (.num (match h.planner with | .idle => 0 | .planning => 1 | .pending => 2 | .confirming => 3 | .held => 4))
    | 3 => some (.bytes ((List.range 41).flatMap (fun i => leBytes 4 (clockNow d i))))
    | 4 => some (.num d.sched.guardAdd)
    | 7 => some (.num h.exhausted.toNat)
    | _ => none
  else if idx = 0x2E04 then
    let k := h.tracker
    match sub with
    | 1 => some (.num (if trackerLearns d then 1 else if k.learned = 0 && k.history.isEmpty then 0 else 2))
    | 2 => some (.num (unsignedOf 32 k.estimate))
    | 3 => some (.num (unsignedOf 32 k.drift))
    | 4 => some (.num k.learned)
    | 5 => some (.bytes (k.history.flatMap (fun x => leBytes 4 (unsignedOf 32 x))))
    | _ => none
  else if 0x2E10 ≤ idx && idx < 0x2E50 then
    let c := h.counters[Fin.ofNat 64 (idx - 0x2E10)]
    match sub with
    | 5 => some (.num c.value.toNat)
    | 6 => some (.num c.snap.toNat)
    | 7 => some (.num (if c.overflow then 1 else 0))
    | _ => none
  else none

end Sys2Proof.Machine
end

