-- ==== Sys2Proof/Machine/Platform.lean ====
section
/-! DEFINITION. What every change of power state shares: the reset of islands 0 to 39 and what survives it, the coarse count
of train time, the rails, and the start of a boot (R216, R471, R478, R483, R486 to R488). -/

namespace Sys2Proof.Machine

/-- Event "image confirmed". -/
def evImageConfirmed : Ev := ⟨14, 3, 1, 0⟩
/-- Event "restart succeeded". -/
def evRestarted : Ev := ⟨14, 3, 1, 1⟩
/-- Event "standby refused". -/
def evStandbyRefused : Ev := ⟨14, 3, 2, 0⟩
/-- Event "supply warning". -/
def evSupplyWarning : Ev := ⟨14, 5, 3, 0⟩
/-- Event "PMBus fault or alert". -/
def evPmbus : Ev := ⟨14, 5, 3, 1⟩
/-- Event "watchdog trip". -/
def evWatchdogTrip : Ev := ⟨14, 6, 4, 0⟩
/-- Event "image marked failed". -/
def evImageFailed : Ev := ⟨14, 6, 4, 1⟩
/-- Event "supply reset". -/
def evSupplyReset : Ev := ⟨14, 6, 4, 2⟩
/-- Event "power-good loss". -/
def evPowerGoodLoss : Ev := ⟨14, 6, 4, 3⟩
/-- Event "rail-enable retry". -/
def evRailRetry : Ev := ⟨14, 6, 4, 4⟩
/-- Event "Recovery entered". -/
def evRecovery : Ev := ⟨14, 7, 5, 0⟩
/-- Event "control complex held in reset". -/
def evComplexHeld : Ev := ⟨14, 7, 5, 1⟩
/-- Event "commit not acknowledged". -/
def evNotAcked : Ev := ⟨14, 7, 5, 2⟩

/-- Event "debug level granted". -/
def evGranted : Ev := ⟨15, 4, 2, 0⟩
/-- Event "debug level ended". -/
def evGrantEnded : Ev := ⟨15, 4, 2, 1⟩

/-- Changes the platform state. -/
def onPow (f : PowerS → PowerS) (d : Dev) : Dev := { d with pow := f d.pow }

/-- Registers that island 40 keeps while islands 0 to 39 are reset: its counters, the sleep manager's settings and the PHY
addresses that its readout uses, boots and profile changes since power-on reset, and the last hold-up (R406, R478, R503).
DESIGN CHOICE, unsafe (log entry 95). -/
def keptReg (k : Nat) : Bool :=
  let i := k / 256
  i = 0x2D05 || (0x2B00 ≤ i && i ≤ 0x2B07) || k = odKey 0x2D00 4 || k = odKey 0x2D01 5 || k = odKey 0x2001 5 ||
    (0x2300 ≤ i && i ≤ 0x2313 && 0x16 ≤ k % 256 && k % 256 ≤ 0x18)

/-- The coarse count of train time, in steps of one CLK32K period, ns (R216). -/
def coarseNow (d : Dev) : Nat :=
  d.time.coarse + (trainTime d - d.time.coarse) * 32768 / 1000000000 * 1000000000 / 32768

/-- What the tests at boot find of the fabric: slices and engines that fail them, or were retired since POR_N, are retired,
and of the other slices the eight lowest are active and the next is the spare; spill that failed stays disabled until POR_N
(R124, R143, R150, R151). DESIGN CHOICE, unsafe (log entry 92). -/
def testedFabric (d : Dev) : FabricS :=
  let f := d.fab
  let out := (f.retired ++ d.chip.badSlices).eraseDups
  let good := (List.finRange 9).filter (fun s => !out.contains s)
  let kept := fun (e : EngineState) (bad : Bool) => if e = .retired || bad then EngineState.retired else .inService
  { FabricS.reset with
    active := good.take 8, spare := good[8]?, retired := out, engine0 := kept f.engine0 d.chip.badEngine0
    engine1 := kept f.engine1 d.chip.badEngine1, spillFailed := f.spillFailed }

/-- Islands 0 to 39 are reset; what stays is island 40's, in eMMC, in the Tarn store or in fuses (R478). DESIGN CHOICE,
unsafe (log entry 79); DESIGN CHOICE, unsafe (log entry 95). -/
def resetIslands (phys : Vector Bool 4) (d : Dev) : Dev :=
  let t := if d.pow.state = .active then trainTime d else coarseNow d
  let rec0 := recorderOff d
  onlyIf (d.sec.level ≠ 0) (raise evGrantEnded noInst) { d with
    dict := { DictS.reset with od := d.dict.od.filter (fun x => keptReg x.1), copy0 := d.dict.copy0, copy1 := d.dict.copy1 }
    node := { d.node with profile := 0, before := 0, fastEnd := none, fastEndedAt := none, testStep := 0, stepBusy := false, nextProfile := none }
    inaug := InaugS.reset
    fab := testedFabric d
    ports := { PortsS.reset with phyReleased := phys, releasedAt := d.ports.releasedAt }
    time := { TimeS.reset with coarse := t, base := t * 2 ^ 32, ppsInLevel := d.time.ppsInLevel, tevtInLevel := d.time.tevtInLevel }
    sched := SchedS.reset
    strm := StreamsS.reset
    can := Vector.replicate 8 CanCtl.reset
    gw := GwS.reset
    chk := []
    recd := rec0.recd
    load := { LoadsS.reset with comp := d.load.comp.map (fun c => { Companion.reset with keep := c.keep }) }
    host := { HostS.reset with perst := d.host.perst }
    health := { HealthS.reset with copy0 := d.health.copy0, copy1 := d.health.copy1 }
    sec := { SecS.reset with lifecycle := d.sec.lifecycle, positions := d.sec.positions, fwVersion := d.sec.fwVersion, keysZeroised := d.sec.keysZeroised }
    pow := { d.pow with
      bootStep := 0, agentReady := false, booted := false, seqState := if d.pow.seqState = .recoveryHeld then .recoveryHeld else .watching, readyDeadline := none
      watchdogDeadline := none, stableDeadline := none, confirmDeadline := none, selectRetry := none, railDeadline := none
      railRetry := none, ddrRiseAt := none, wakeDeadline := none, stale := 0, fwImage := [], fwWriting := none, safeN := false
      resetOutN := false } }

/-- RAIL_EN_DDR falls, and RAIL_EN_CORE 1 ms later (R471). -/
def dropRails (d : Dev) : Dev :=
  onPow (fun p => { p with
    railDdr := false, railCore := false, pgCore := false, pgIo := false, enablesFellAt := some (d.now + msNs) }) d

/-- No PHY group is kept released. -/
def noPhys : Vector Bool 4 := Vector.replicate 4 false

/-- PHY groups that stay released while a boot goes back to its first steps: those that a sleep kept, in the boot of a wake
(R170, R406). -/
def wakePhys (d : Dev) : Vector Bool 4 :=
  if d.pow.bootCause = 6 || d.pow.bootCause = 7 then d.ports.phyReleased else noPhys

/-- Retention in Standby is permitted (R550). -/
def retentionPermitted (d : Dev) : Bool :=
  d.sec.lifecycle = 1 || (d.sec.lifecycle = 2 && cfgB d 0x2F04 4 && d.sec.grantEnd.isNone)

/-- Entry to Standby or Sleep (R487, R494, R496): GPIO outputs whose bit of 0x2D06:04 is set hold their level (R569). -/
def enterLowPower (standby : Bool) (d : Dev) : Dev :=
  let phys := Vector.ofFn (fun g : Fin 4 => bitOf (cfg d 0x2B05 (1 + g.val)) 1)
  let hold := Nat.land (cfg d 0x2D06 1) (cfg d 0x2D06 4)
  let d1 := dropRails (resetIslands phys d)
  { onPow (fun p => { p with state := if standby then .standby else .sleep, bypassA := true, bypassB := true }) d1 with
    pins := { d1.pins with gpioLive := false, gpioHold := BitVec.ofNat 6 hold, gpioHeld := BitVec.ofNat 6 (Nat.land hold (cfg d 0x2D06 2)) } }

/-- Step 1 of R483: the boot starts for a cause of R478. -/
def startBoot (cause : Nat) (d : Dev) : Dev :=
  let wake := cause = 6 || cause = 7
  let d1 := onPow (fun p => { p with
    state := .booting, bootStep := 1, bootCause := cause, bootStart := d.now, railCore := true, railDeadline := some (d.now + 20 * msNs)
    wakeDeadline := if wake then some (d.now + 2 * sNs) else none, safeN := false, resetOutN := false, enablesFellAt := none
    bypassA := wake, bypassB := wake, warnCore := false }) d
  bump 0x2D00 4 d1

/-- Step 3 of R483: islands 0 to 36, 38 and 39 leave reset; slices and engines are tested (R151), train time starts (R216), the
recorder scans (R385) and the boot
ROM starts. -/
def leaveReset (d : Dev) : Dev :=
  let t := if d.pow.bootCause = 1 then 0 else coarseNow d
  let d1 : Dev := { d with fab := testedFabric d, time := { TimeS.reset with base := t * 2 ^ 32, coarse := t, ppsInLevel := d.time.ppsInLevel, tevtInLevel := d.time.tevtInLevel } }
  recorderBoot (onPow (fun p => { p with bootStep := 3, railDdr := true, resetOutN := true, railDeadline := if p.pgIo then none else some (d.now + 20 * msNs) }) d1)

/-- The configuration copy that a boot loads (R48). -/
def bootCopy (d : Dev) : Option CfgCopy :=
  let ok := fun (c : CfgCopy) => d.chip.emmc && !c.marked && copyValid d c
  if ok d.dict.copy0 && (!ok d.dict.copy1 || d.dict.copy1.generation ≤ d.dict.copy0.generation) then some d.dict.copy0
  else if ok d.dict.copy1 then some d.dict.copy1
  else none

/-- A stored number as the boot finds it in the configuration region. -/
def storedNat (d : Dev) (idx sub : Nat) : Nat :=
  match bootCopy d with
  | some c => (Store.find odDefault c.values (odKey idx sub)).toNat
  | none => (odDefault (odKey idx sub)).toNat

/-- A stored setting in force: the committed value once the device has booted, the stored one before. -/
def setting (d : Dev) (idx sub : Nat) : Nat := if d.pow.booted then cfg d idx sub else storedNat d idx sub

/-- The control complex runs: it has reported ready and its watchdog has not tripped (R401, R489). -/
def complexRuns (d : Dev) : Bool := d.pow.agentReady

end Sys2Proof.Machine
end

