-- ==== Sys2Proof/Machine/Sleep.lean ====
section
/-! DEFINITION. The sleep and wake manager: keep-alives, the agreement to sleep, wake sources, wake records, the awake scope
and TWL_OUT (chapter 13). -/

namespace Sys2Proof.Machine

/-! ### Scope and TWL_OUT (R409, R410) -/

/-- The awake scope widens to `n`; ports of sides that become permitted start at once (R410). -/
def widenScope (n : Nat) (d : Dev) : Dev :=
  if d.sleep.scope < n then settlePorts (onSleep (fun s => { s with scope := n }) d) else d

/-- A TWL_OUT pulse; one in progress is not restarted (R409). DESIGN CHOICE, unsafe (log entry 78). -/
def pulseTwl (d : Dev) : Dev :=
  if d.sleep.twlOutEnd.isSome then d
  else bump 0x2B07 8 (onSleep (fun s => { s with twlOutEnd := some (d.now + cfg d 0x2B03 3 * msNs) }) d)

/-- The own need is judged: a rise or widening to train scope pulses TWL_OUT unless TWL_IN caused it, and the awake scope
follows the own scope (R409, R410). -/
def judgeNeed (fromTwl : Bool) (d : Dev) : Dev :=
  let need := ownNeed d
  let scope := ownScope d
  let rises := need && scope = 2 && !(d.sleep.lastNeed && d.sleep.lastScope = 2)
  let d1 := onSleep (fun s => { s with lastNeed := need, lastScope := scope }) (onlyIf (rises && !fromTwl) pulseTwl d)
  onlyIf (need && (d.sleep.state = .awake || d.sleep.state = .readySleep)) (widenScope scope) d1

/-- Every consequence of a change of the own need (R396, R398, R409, R410). -/
def settleNeed (fromTwl : Bool) (d : Dev) : Dev := judgeSleep (judgeNeed fromTwl d)

/-! ### Keep-alives (R395 to R397) -/

/-- The frame of a keep-alive on a port (R395). -/
def keepAliveFrame (d : Dev) (p : Port) (k : KeepSummary) : List Byte :=
  let flags := (if k.need then 1 else 0) + (if k.ready then 2 else 0) + (if k.final then 4 else 0) +
    (if 2 ≤ p.val then 8 else 0) + 16 * k.scope
  let head := beBytes 6 0x0180C200000E ++ beBytes 6 d.chip.ident.toNat ++ beBytes 2 0x88B7
  let load := beBytes 1 1 ++ beBytes 1 1 ++ beBytes 1 flags ++ beBytes 1 0 ++ beBytes 6 d.chip.ident.toNat ++
    beBytes 6 k.holder.toNat ++ beBytes 2 d.inaug.now.epoch ++ beBytes 6 0
  head ++ load ++ List.replicate 22 0

/-- Sends a keep-alive on every Up port of a side (R396). -/
def sendKeepAlive (final rear : Bool) (d : Dev) : Dev :=
  let k := summaryFor d rear final
  let ports := backbonePorts.filter (fun p => isRear p = rear && portUp d p)
  let d1 := forEach ports (fun p => sendOwn p 4 (keepAliveFrame d p k)) d
  onSleep (fun s => if rear then { s with toldRear := some k } else { s with toldFront := some k }) d1

/-- KEEP_ALIVE_PERIOD: the period has passed, or what a side would be told has changed (R396). -/
def execKeepAlivePeriod (s : State) : Result :=
  s.does fun d =>
    match d.sleep.periodDue, d.sleep.state with
    | some t, .awake | some t, .readySleep =>
      let d1 := arrive t d
      onSleep (fun x => { x with lastSent := some d1.now, periodDue := some (d1.now + cfg d1 0x2B02 2 * msNs) })
        (sendKeepAlive false true (sendKeepAlive false false d1))
    | _, _ => d

/-- A keep-alive keeps the layout of R395. -/
def KeepAliveMsg.sound (m : KeepAliveMsg) : Bool :=
  m.kind = 1 && m.version = 1 && m.reserved = 0 && m.tailZero && m.flags.toNat < 64 && bitsOf m.flags.toNat 5 4 ≤ 2

/-- KEEP_ALIVE (R395 to R397, R399, R410). -/
def execKeepAlive (p : Port) (m : KeepAliveMsg) (s : State) : Result :=
  s.doesJudged fun d =>
    if !portUp d p then d
    else if !isBackbone p || !KeepAliveMsg.sound m then bump 0x2B07 6 (countGood p (frameLen 24) d)
    else
      let d := countGood p (frameLen 24) d
      let need := m.flags.getLsbD 0
      let scope := bitsOf m.flags.toNat 5 4
      if d.sleep.state = .committing && need then d
      else
        let info : SideInfo := { flags := m.flags, need := need, scope := scope, holder := m.holder, silent := false, deadline := some (d.now + 3 * cfg d 0x2B02 2 * msNs) }
        let d1 := onSleep (fun x => if isRear p then { x with rear := info } else { x with front := info }) d
        onlyIf (d.sleep.state ≠ .committing) (widenScope scope) d1

/-- SILENT_SIDE (R397). -/
def execSilentSide (rear : Bool) (s : State) : Result :=
  s.doesJudged fun d =>
    match (sideInfo d rear).deadline with
    | none => d
    | some t =>
      onSleep (fun x => if rear then { x with rear := { x.rear with silent := true, deadline := none } }
        else { x with front := { x.front with silent := true, deadline := none } }) (arrive t d)

/-! ### Wake sources (R403 to R406) -/

/-- Scope of a wake source (R403). -/
def sourceScope (d : Dev) (src : Nat) : Nat :=
  if src = 1 then 2
  else if src = 2 then levelScope d false
  else if src = 3 then levelScope d true
  else if src ≤ 11 then bitsOf (cfg d 0x2B04 (src - 3)) 5 4
  else if src ≤ 15 then 0
  else if src = 16 then cfg d 0x2B01 4
  else cfg d 0x2B01 2

/-- Minimum time of a wake input, ns (R403 to R406). -/
def minimumNs (d : Dev) (src : Nat) : Nat :=
  if src = 1 then cfg d 0x2B03 2 * msNs
  else if src ≤ 3 then bitsOf (cfg d 0x2B03 (src + 2)) 31 16 * msNs
  else if src ≤ 11 then bitsOf (cfg d 0x2B04 (src - 3)) 15 8 * 30518
  else 2 * 30518

/-- A source that its configuration lets through (R403 to R406). -/
def sourceEnabled (d : Dev) (src : Nat) : Bool :=
  if src = 1 then true
  else if src ≤ 3 then (1 ≤ bitsOf (cfg d 0x2B03 (src + 2)) 1 0) && bitsOf (cfg d 0x2B03 (src + 2)) 1 0 ≤ 2
  else if src ≤ 11 then
    (1 ≤ bitsOf (cfg d 0x2B04 (src - 3)) 1 0) && bitsOf (cfg d 0x2B04 (src - 3)) 1 0 ≤ 2 && d.can[Fin.ofNat 8 (src - 4)].state = .off
  else if src ≤ 15 then bitOf (cfg d 0x2B05 (src - 11)) 0
  else true

/-- An input that was accepted is accepted again only after its minimum time inactive (R403). -/
def sourceSpent (d : Dev) (src : Nat) : Bool :=
  match d.sleep.spent.find? (fun x => x.1 = src) with
  | some (_, some t) => d.now < t
  | some (_, none) => true
  | none => false

/-- The inputs of an acceptance are spent until they have been inactive; those of the local wakes are at their active level
(R403, R404). -/
def spendSources (sources : List Nat) (d : Dev) : Dev :=
  let inputs := sources.filter (· ≤ 15)
  onSleep (fun s => { s with
    spent := s.spent.filter (fun x => !inputs.contains x.1) ++ inputs.map (fun x => (x, none))
    levelA := s.levelA || sources.contains 2, levelB := s.levelB || sources.contains 3 }) d

/-- The ports that a PHY wake of these sources reads (R406). -/
def readoutPorts (d : Dev) (sources : List Nat) : List Port :=
  allPorts.filter (fun p =>
    sources.contains (12 + (groupOf p).val) && bitOf (cfg d 0x2B05 (1 + (groupOf p).val)) 2 && bitOf (cfg d 0x2B05 6) p.val &&
      portReg d p 0x16 ≠ 0xFF)

/-- The readout of one port (R406). DESIGN CHOICE, safe (log entry 105). -/
def readoutPort (p : Port) (d : Dev) : Dev :=
  let r := cfg d 0x2B05 5
  mdio p (bitsOf r 20 16) (bitsOf r 15 0) none d

/-- Duration of a readout, ns (R406). -/
def readoutNs (d : Dev) (ps : List Port) : Nat := (ps.map (fun p => if portReg d p 0x18 = 45 then 7812500 else 3906250)).sum

/-- Packs a wake record into 16 bytes (R407). -/
def WakeRec.pack (r : WakeRec) : List Byte :=
  leBytes 1 r.source ++ leBytes 1 ((if r.latched then 1 else 0) + (if r.fromSleep then 2 else 0) + 4 * r.scope) ++ leBytes 2 0 ++
    leBytes 4 ((r.ports.map (fun p => 2 ^ p.val)).sum) ++ leBytes 8 r.time

/-- The wake record is complete and Active is requested (R407, R408). -/
def requestActive (r : WakeRec) (woken : List Port) (d : Dev) : Dev :=
  let d1 := onSleep (fun s => { s with readout := none, wokenPorts := woken, history := (r :: s.history).take 8 }) d
  startBoot (if r.fromSleep then 7 else 6) (raiseP evWakeAccepted noInst r.pack d1)

/-- A wake is accepted in Standby or Sleep (R406 to R409). -/
def wakeNow (latched : Bool) (sources : List Nat) (d : Dev) : Dev :=
  let src := sources.foldl min 17
  let scope := sourceScope d src
  let r : WakeRec := { source := src, latched := latched, fromSleep := d.pow.state = .sleep, scope := scope, ports := [], time := coarseNow d,
                       sources := (sources.map (fun x => 2 ^ (x - 1))).sum }
  let d1 := onSleep (fun s => { s with
    state := .waking, scope := scope, wokenPorts := [], timerEnd := none, latched := none, lastNeed := true, lastScope := scope }) d
  let d2 := onlyIf (scope = 2 && src ≠ 1) pulseTwl { d1 with host := { d1.host with wakeLow := d1.pins.strapPcie } }
  let ps := readoutPorts d2 sources
  if ps.isEmpty then requestActive r [] d2
  else forEach ps readoutPort (onSleep (fun s => { s with readout := some (r, ps, d2.now) }) d2)

/-- The first wake after the commit point is latched (R402). DESIGN CHOICE, unsafe (log entry 78). -/
def latchWake (sources : List Nat) (d : Dev) : Dev :=
  if d.sleep.latched.isSome then d
  else
    let src := sources.foldl min 17
    raise evWakeLatched noInst (onSleep (fun s => { s with latched := some {
      source := src, latched := true, fromSleep := false, scope := 0, ports := [], time := 0
      sources := (sources.map (fun x => 2 ^ (x - 1))).sum } }) d)

/-- Source numbers of a mask. DESIGN CHOICE, unsafe (log entry 78). -/
def sourcesOf (mask : Nat) : List Nat := (List.range 17).filterMap (fun i => if bitOf mask i then some (i + 1) else none)

/-- Wake sources accepted in one sample (R402, R403, R406, R498). DESIGN CHOICE, unsafe (log entry 78). -/
def acceptWake (src : Nat) (also : AlsoAccepted) (d : Dev) : Dev :=
  let sources := (sourcesOf also.toNat).filter (fun x => x = src || (sourceEnabled d x && !sourceSpent d x && x ≤ 15))
  let all := if sources.contains src then sources else src :: sources
  let d1 := spendSources all d
  match d.pow.state, d.sleep.state with
  | .active, .awake | .active, .readySleep =>
    let first := all.foldl min 17
    let scope := sourceScope d1 first
    let d2 := onSleep (fun s => { s with holdEnd := some (d1.now + cfg d1 0x2B02 4 * sNs), holdScope := scope }) d1
    settleNeed (decide (first = 1)) d2
  | .active, .committing => latchWake all d1
  | .standby, .asleep | .sleep, .asleep => wakeNow false all (bump 0x2B07 7 d1)
  | _, .waking =>
    let d2 := onSleep (fun s => { s with scope := if all.contains 1 then 2 else s.scope }) d1
    match d2.sleep.readout with
    | some (r, ps, t) =>
      let more := (readoutPorts d2 all).filter (fun p => !ps.contains p)
      forEach more readoutPort (onSleep (fun s => { s with readout := some (r, ps ++ more, t) }) d2)
    | none => d2
  | _, _ => d

/-- An input wake source of R403. DESIGN CHOICE, unsafe (log entry 78). -/
def inputWake (src : Nat) (also : AlsoAccepted) (s : State) : Result :=
  s.does fun d => if sourceEnabled d src && !sourceSpent d src then acceptWake src also d else d

/-- TRAIN_WAKE_LINE (R403). -/
def execTrainWakeLine (also : AlsoAccepted) (s : State) : Result := inputWake 1 also s

/-- LOCAL_WAKE (R404). -/
def execLocalWake (b : Bool) (also : AlsoAccepted) (s : State) : Result := inputWake (if b then 3 else 2) also s

/-- BUS_WAKE (R405). -/
def execBusWake (c : CanId) (also : AlsoAccepted) (s : State) : Result := inputWake (4 + c.val) also s

/-- PHY_WAKE (R406). DESIGN CHOICE, safe (log entry 105). -/
def execPhyWake (g : Fin 4) (also : AlsoAccepted) (s : State) : Result := inputWake (12 + g.val) also s

/-- PHY_WAKE_READOUT_END: ports that show the wake bit are woken; when none does, every side that holds a read port counts as
woken (R406). DESIGN CHOICE, safe (log entry 105). -/
def execPhyWakeReadoutEnd (woken : List Port) (s : State) : Result :=
  s.does fun d =>
    match d.sleep.readout with
    | none => d
    | some (r, ps, t) =>
      let shown := ps.filter (woken.contains ·)
      requestActive { r with ports := shown } (if shown.isEmpty then ps else shown) (arrive (t + readoutNs d ps) d)

/-- WAKE_TIMER (R403, R412). -/
def execWakeTimer (also : AlsoAccepted) (s : State) : Result :=
  s.does fun d =>
    match d.sleep.timerEnd with
    | some t => acceptWake 16 also (onSleep (fun x => { x with timerEnd := none }) (arrive t d))
    | none => if d.sleep.state = .committing then acceptWake 16 also d else d

/-- WAKE_INPUT_INACTIVE (R403, R404). -/
def execWakeInputInactive (source : Fin 18) (s : State) : Result :=
  s.does fun d =>
    let n := source.val
    let d1 := onSleep (fun x => { x with
      levelA := x.levelA && n ≠ 2, levelB := x.levelB && n ≠ 3
      spent := x.spent.map (fun y => if y.1 = n then (n, some (d.now + minimumNs d n)) else y) }) d
    if d.pow.state = .active then settleNeed false d1 else d1

/-- TWL_OUT_PULSE_END (R409). DESIGN CHOICE, unsafe (log entry 78). -/
def execTwlOutPulseEnd (s : State) : Result :=
  s.does fun d =>
    match d.sleep.twlOutEnd with
    | none => d
    | some t => onSleep (fun x => { x with twlOutEnd := none }) (arrive t d)

/-! ### Needs that end (R393, R394) -/

/-- A write to 0x2B01:01 (R394, R402, R412). -/
def hostAwake (v : Bool) (d : Dev) : Dev :=
  let d1 := setReg 0x2B01 1 (if v then 1 else 0) d
  if d.sleep.state = .committing then (if v then latchWake [17] d1 else d1)
  else
    let limit := cfg d 0x2B02 5
    settleNeed false (onSleep (fun s => { s with requestDeadline := if v && limit ≠ 0 then some (d.now + limit * sNs) else none }) d1)

/-- MAXIMUM_AWAKE_EXPIRY (R394). -/
def execMaximumAwakeExpiry (s : State) : Result :=
  s.does fun d =>
    match d.sleep.requestDeadline with
    | none => d
    | some t =>
      let d1 := setReg 0x2B01 1 0 (onSleep (fun x => { x with requestDeadline := none }) (arrive t d))
      settleNeed false (raise evMaxAwake noInst (bump 0x2B07 5 d1))

/-- POST_WAKE_HOLD_END (R393). -/
def execPostWakeHoldEnd (s : State) : Result :=
  s.does fun d =>
    match d.sleep.holdEnd with
    | none => d
    | some t => settleNeed false (onSleep (fun x => { x with holdEnd := none }) (arrive t d))

/-! ### The agreement to sleep (R398 to R402) -/

/-- READY_SLEEP_EXPIRY: the commit point (R399). -/
def execReadySleepExpiry (s : State) : Result :=
  s.does fun d =>
    match d.sleep.state, d.sleep.readyDeadline with
    | .readySleep, some t =>
      let d1 := arrive t d
      let d2 := sendKeepAlive true true (sendKeepAlive true false d1)
      raise evSleepCommitted noInst (setInt 4 (onSleep (fun x => { x with
        state := .committing, readyDeadline := none, periodDue := none, committedAt := some d1.now, quiesced := false, latched := none }) d2))
    | _, _ => d

/-- The quiesce step (R400, R401). DESIGN CHOICE, unsafe (log entry 77). -/
def quiesce (d : Dev) : Dev :=
  let d1 := onlyIf (!complexRuns d) (fun d => bump 0x2B07 4 (raise evFailSafe noInst d)) d
  let kept := Vector.ofFn (fun g : Fin 4 => d.ports.phyReleased[g] && bitOf (cfg d 0x2B05 (1 + g.val)) 1)
  let d2 := portsOff d1
  let d3 : Dev := { d2 with ports := { d2.ports with phyReleased := kept } }
  let d4 := loadsSleep (streamsOff (forEach allCan (leaveMode · false) d3))
  recorderOff (closeLogs 4 (onSleep (fun x => { x with quiesced := true }) d4))

/-- QUIESCE (R400). -/
def execQuiesce (s : State) : Result :=
  s.does fun d =>
    match d.sleep.committedAt with
    | some t => if d.sleep.state = .committing && !d.sleep.quiesced then quiesce (arrive (t + 40 * msNs) d) else d
    | none => d

/-- Entry to the target state 50 ms after the commit point (R400, R402, R411, R487, R488). DESIGN CHOICE, unsafe (log entry
77). -/
def enterSleep (d : Dev) : Dev :=
  let standby := cfg d 0x2B01 5 = 1 && retentionPermitted d
  let timer := cfg d 0x2B01 3
  let latched := d.sleep.latched
  let d0 := enterLowPower standby d
  let d1 := onlyIf (cfg d 0x2B01 5 = 1 && !standby) (raise evStandbyRefused noInst) d0
  let d2 := setReg 0x2B01 1 0 (bump 0x2B07 1 (onSleep (fun s => { s with
    state := .asleep, scope := 0, wokenPorts := [], front := SideInfo.reset, rear := SideInfo.reset, requestDeadline := none
    holdEnd := none, committedAt := none, quiesced := false, toldFront := none, toldRear := none, lastSent := none, silentFront := false
    silentRear := false, latched := none, lastNeed := false, timerEnd := if timer = 0 then none else some (d.now + timer * sNs) }) d1))
  match latched with
  | some r => wakeNow true (sourcesOf r.sources) (bump 0x2B07 3 d2)
  | none => d2

/-- SLEEP_ENTRY (R400, R411). -/
def execSleepEntry (s : State) : Result :=
  s.does fun d =>
    match d.sleep.committedAt with
    | some t =>
      if d.sleep.state = .committing then
        let d1 := if d.sleep.quiesced then d else quiesce (arrive (t + 40 * msNs) d)
        enterSleep (arrive (t + 50 * msNs) d1)
      else d
    | none => d

/-! ### Boot, resets and reads -/

/-- Islands 0 to 39 are reset while the node is awake: an agreement in progress is given up. DESIGN CHOICE, unsafe (log entry
77). -/
def abandonSleep (d : Dev) : Dev :=
  onSleep (fun s => match s.state with
    | .readySleep | .committing => { s with state := .awake, readyDeadline := none, committedAt := none, quiesced := false, latched := none }
    | .asleep | .waking => { s with state := .awake, scope := 2, readout := none, timerEnd := none }
    | .awake => s) d

/-- The apply point of commit epoch 1 (R393, R408, R410, R411). DESIGN CHOICE, unsafe (log entry 77). -/
def sleepBooted (d : Dev) : Dev :=
  let hold := some (d.now + cfg d 0x2B02 4 * sNs)
  let d1 := match d.sleep.state with
    | .waking => onSleep (fun s => { s with
        state := .awake, holdEnd := hold, holdScope := s.scope, periodDue := some (d.now + cfg d 0x2B02 2 * msNs) }) d
    | _ => onSleep (fun s => { s with
        state := .awake, periodDue := some (d.now + cfg d 0x2B02 2 * msNs)
        holdEnd := if d.pow.bootCause = 1 then hold else s.holdEnd
        holdScope := if d.pow.bootCause = 1 then 2 else s.holdScope }) d
  settleNeed (decide (d.sleep.state = .waking && (d.sleep.history.head?.map (·.source)) = some 1)) d1

/-- The computed entries of chapter 13 (R414, R416). -/
def sleepRead (d : Dev) (idx sub : Nat) : Option Value :=
  let bit := fun (b : Bool) (i : Nat) => if b then 2 ^ i else 0
  if idx = 0x2B00 then
    match sub with
    | 1 => some (.num (match d.sleep.state with | .awake => 0 | .readySleep => 1 | .committing => 2 | .asleep => 3 | .waking => 4))
    | 2 => some (.num (bit (cfgB d 0x2B01 1) 0 + bit d.sleep.holdEnd.isSome 1 + bit (levelHolds d false) 2 + bit (levelHolds d true) 3 + bit (sleepDisabled d) 4))
    | 3 => some (.num d.sleep.scope)
    | 4 =>
      let f := sideNeed d false
      let r := sideNeed d true
      some (.num (bit f.1 0 + bit r.1 1 + bit (sideSilent d false) 2 + bit (sideSilent d true) 3 +
        16 * (if f.1 then f.2.1 else 0) + 64 * (if r.1 then r.2.1 else 0)))
    | 5 =>
      let side := fun (rear : Bool) => if (sideNeed d rear).1 then (sideNeed d rear).2.2 else 0
      some (.num (lowestHolder (if ownNeed d then d.chip.ident else 0) (lowestHolder (side false) (side true))).toNat)
    | 6 => some (.num (remaining d.sleep.readyDeadline msNs d))
    | 7 => some (.num (remaining d.sleep.requestDeadline sNs d))
    | 8 => some (.bytes ((d.sleep.history.head?.map WakeRec.pack).getD []))
    | 9 => some (.num ((d.sleep.history.head?.map (·.sources)).getD 0))
    | _ => none
  else if idx = 0x2B06 && 1 ≤ sub && sub ≤ 8 then some (.bytes ((d.sleep.history[sub - 1]?.map WakeRec.pack).getD []))
  else none

end Sys2Proof.Machine
end

