-- ==== Sys2Proof/Machine/HostLink.lean ====
section
/-! DEFINITION. The host link: the register space on both paths, interrupts, time for the host, the rings and their DMA,
PERST_N and the serial host port (chapter 15). -/

namespace Sys2Proof.Machine

/-- Changes the host registers. -/
def onHost (f : HostS → HostS) (d : Dev) : Dev := { d with host := f d.host }

/-- Islands 38 and 39 have power. -/
def hostPowered (d : Dev) : Bool := d.pow.state = .active || (d.pow.state = .booting && 3 ≤ d.pow.bootStep)

/-- The host reaches the register space on a path (R464, R567). -/
def pathAlive (d : Dev) (path : HostPath) : Bool :=
  match path with
  | .pcie => pcieUp d && hostPowered d
  | .serial => d.pins.strapHsp && hostPowered d

/-- A command of a path that the host cannot reach has no effect. -/
def onPath (path : HostPath) (f : Dev → Dev) (d : Dev) : Dev := if pathAlive d path then f d else d

/-- A vector's message in the way of R455 when its enabled bits rise from none to some. DESIGN CHOICE, unsafe (log entry 86).
-/
def riseVectors (old : HostS) (d : Dev) : Dev :=
  forEach (List.range 12) (fun v d =>
    if !vectorActive old v && vectorActive d.host v then sendVector (Fin.ofNat 16 v) d else d) d

/-- The mailbox of a path. -/
def mailboxOf (h : HostS) (path : HostPath) : Mailbox :=
  match path with
  | .pcie => h.mbPcie
  | .serial => h.mbSerial

/-- Changes the mailbox of a path. -/
def onMailbox (path : HostPath) (f : Mailbox → Mailbox) (d : Dev) : Dev :=
  match path with
  | .pcie => onHost (fun h => { h with mbPcie := f h.mbPcie }) d
  | .serial => onHost (fun h => { h with mbSerial := f h.mbSerial }) d

/-- INT_STATUS bit of a mailbox (R454). -/
def mailboxBit (path : HostPath) : Nat :=
  match path with
  | .pcie => 0
  | .serial => 1

/-! ### Rings (R459 to R466) -/

/-- Fetches the next descriptor of a ring that owns one (R459); ring 8 fetches one block at a time (R465). -/
def fetchNext (r : Fin 10) (d : Dev) : Dev :=
  let g := d.host.rings[r]
  if g.enable && g.running && g.reading.isNone && g.fetch ≠ g.tail && pcieUp d && (r ≠ 8 || g.ready.isEmpty) then
    emit (.dmaRead r.val (descAddr g g.fetch) 32)
      (onRing r (fun g => { g with reading := some { what := .descriptor g.fetch, deadline := d.now + 50 * msNs } }) d)
  else d

/-- Index after an index of a ring. -/
def Ring.after (g : Ring) (i : Nat) : Nat := (i + 1) % (max 1 g.size)

/-- A ring stops with an error (R466). DEDUCED, unsafe (log entry 85). -/
def stopRing (r : Fin 10) (code : Nat) (d : Dev) : Dev :=
  setInt 29 (onRing r (fun g => { g with running := false, error := code, reading := none }) d)

/-- SIZE is one of the sizes of R459. -/
def sizeOk (n : Nat) : Bool := ([16, 32, 64, 128, 256, 512, 1024, 2048, 4096] : List Nat).contains n

/-- ENABLE is written 1 (R459). -/
def enableRing (r : Fin 10) (d : Dev) : Dev :=
  let g := d.host.rings[r]
  if g.enable then d
  else
    let ok := sizeOk g.size
    let d1 := onRing r (fun g => { g with
      enable := true, running := ok, error := if ok then 0 else 1, head := 0, tail := 0, fetch := 0, reading := none, ready := []
      doneEarly := [], lastInt := none, deferred := false, session := g.session + 1 }) d
    if ok then d1 else setInt 29 d1

/-- ENABLE is written 0 (R459, R468). -/
def disableRing (r : Fin 10) (d : Dev) : Dev :=
  onRing r (fun g => { g with enable := false, running := false, error := 0, reading := none, ready := [], doneEarly := [], deferred := false }) d

/-- TAIL is written; ignored while the ring is disabled (R459). -/
def writeTail (r : Fin 10) (v : Nat) (d : Dev) : Dev :=
  if d.host.rings[r].enable then fetchNext r (onRing r (fun g => { g with tail := v % 4096 }) d) else d

/-- Direct egress port of a transmit descriptor, if it names one. -/
def txPort (desc : List Byte) : Option Port := let e := leNat (slice desc 10 1); if h : e < 20 then some ⟨e, h⟩ else none

/-- A transmit descriptor is malformed (R461). -/
def txMalformed (d : Dev) (desc : List Byte) : Bool :=
  let n := leNat (slice desc 8 2)
  let fl := leNat (slice desc 11 1)
  n < 14 || 9212 < n ||
    (match txPort desc with
     | some p => portReg d p 4 < n + 4
     | none => leNat (slice desc 10 1) ≠ 0xFF || bitOf fl 1 || bitOf fl 2)

/-- The copy of a frame in a queue receives a timestamp identifier (R210, R461). -/
def stampCopy (p : Port) (uid : Nat) (d : Dev) : Dev :=
  if (queued d).any (fun x => x.1 = p && x.2.2.uid = uid) then
    let (n, d1) := takeIdent p d
    onFab (fun f => { f with queues := vmod f.queues p (fun qs => qs.map (fun l => l.map (fun g =>
      if g.uid = uid then { g with tsIdent := some n } else g))) }) d1
  else d

/-- Admits a frame of a transmit ring (R461). DESIGN CHOICE, safe (log entry 84). -/
def admitTx (r : Fin 10) (index : Nat) (desc buf : List Byte) (d : Dev) : Dev :=
  let bs := buf ++ List.replicate (60 - buf.length) 0
  let fl := leNat (slice desc 11 1)
  let q := leNat (slice desc 12 1)
  let best := if q ≤ 4 then q else Config.freeNat d.fresh % 5
  let (vlan, pcp) := classifyOwn bs
  let o : HostOrigin := { ring := r, index := index, flags := desc.getD 11 0, session := d.host.rings[r].session }
  let a : Arrival := { ingress := none, vlan := vlan, pcp := pcp, stamp := 2 * trainTime d, best := some best, need := none, rate := none
                       launch := if bitOf fl 2 then some (BitVec.ofNat 32 (leNat (slice desc 16 4))) else none, tsIdent := none, host := some o }
  let m := matchStream d (frameDest bs) vlan
  match txPort desc with
  | some p =>
    let mp : StreamMatch := { strip := m.strip, tx := m.tx.filter (·.port = p), res := (m.res.filter (·.ports.contains p)).map (fun x => { x with ports := [p] }) }
    let d1 := dispatchFrame a mp { Decision.nowhere bs with ports := [p] } (draw d)
    onlyIf (bitOf fl 1) (stampCopy p d.fab.nextUid) d1
  | none =>
    let x := if d.fab.forwarding then decideFrame d none vlan bs else Decision.nowhere bs
    dispatchFrame a m x (draw d)

/-- Stream and sample frames of a ring 8 descriptor. -/
def blockStream (desc : List Byte) : Nat × Nat := (leNat (slice desc 10 1), leNat (slice desc 12 2))

/-- Status of a ring 8 descriptor that is not buffered: 1, 2, or none (R465). -/
def blockStatus (d : Dev) (desc : List Byte) : Option Nat :=
  let (s, n) := blockStream desc
  if h : s < 64 then
    let t : Fin 64 := ⟨s, h⟩
    if strmReg d t 1 ≠ 2 || strmReg d t 9 ≠ 0xFF then some 1
    else if leNat (slice desc 8 2) < 4 * n * strmReg d t 5 then some 2
    else none
  else some 1

/-- Bytes 14 to 23 of a ring 8 descriptor as written back. DESIGN CHOICE, safe (log entry 84). -/
def blockTail (status time : Nat) : List Byte := leBytes 2 status ++ leBytes 8 time

/-- Handles the descriptor that waits on ring 8: a block is fetched when the buffer of 1,024 sample frames has room (R465). -/
def serveBlock (d : Dev) : Dev :=
  let g := d.host.rings[(8 : Fin 10)]
  match g.ready with
  | (i, desc) :: _ =>
    if !g.running || g.reading.isSome then d
    else match blockStatus d desc with
      | some st =>
        let d1 := onRing 8 (fun g => { g with ready := [] }) d
        fetchNext 8 (writeBackOne 8 i (desc.getD 11 0) 14 (blockTail st 0) d1)
      | none =>
        let (sn, n) := blockStream desc
        let s := Fin.ofNat 64 sn
        let t := d.strm.s[s]
        let ch := max 1 (strmReg d s 5)
        let have_ := t.buffer.length / (4 * ch)
        if 1024 < have_ + n then d
        else
          let fs := strmRate d s
          let ahead := trainTime d + 100 * usNs
          let k0 := gridFloor fs ahead
          let first := if have_ ≠ 0 then t.bufFrame else if gridTime fs k0 = ahead then k0 else k0 + 1
          let d1 := onStream s (fun x => { x with bufFrame := first }) d
          let d2 := emits [.dmaWrite 8 (descAddr g i + 16) (leBytes 8 (gridTime fs (first + have_))),
            .dmaRead 8 (leNat (slice desc 0 8)) (4 * n * ch)] d1
          onRing 8 (fun g => { g with reading := some { what := .buffer i desc, deadline := d.now + 50 * msNs } }) d2
  | [] => d

/-- A block has arrived (R465). -/
def takeBlock (i : Nat) (desc bytes : List Byte) (d : Dev) : Dev :=
  let s := Fin.ofNat 64 (blockStream desc).1
  let d1 := onStream s (fun x => { x with buffer := x.buffer ++ bytes }) (onRing 8 (fun g => { g with ready := [] }) d)
  fetchNext 8 (writeBackOne 8 i (desc.getD 11 0) 14 (leBytes 2 0) d1)

/-- A descriptor has been read (R459, R461, R465). DESIGN CHOICE, safe (log entry 84). -/
def takeDescriptor (r : Fin 10) (i : Nat) (desc : List Byte) (d : Dev) : Dev :=
  let d1 := onRing r (fun g => { g with fetch := g.after i }) d
  if r.val < 4 then
    if txMalformed d1 desc then
      fetchNext r (completeTx { ring := r, index := i, flags := desc.getD 11 0, session := d1.host.rings[r].session } 4 none d1)
    else
      emit (.dmaRead r.val (leNat (slice desc 0 8)) (leNat (slice desc 8 2)))
        (onRing r (fun g => { g with reading := some { what := .buffer i desc, deadline := d.now + 50 * msNs } }) d1)
  else
    let d2 := onRing r (fun g => { g with ready := g.ready ++ [(i, desc)] }) d1
    if r = 8 then serveBlock d2 else fetchNext r (if r = 9 then d2 else sweepCells (drainHost d2))

/-- DMA_READ_COMPLETION (R461, R465). -/
def execDmaReadCompletion (ring : Fin 10) (bytes : List Byte) (s : State) : Result :=
  s.does fun d =>
    match d.host.rings[ring].reading with
    | none => d
    | some x =>
      let d1 := onRing ring (fun g => { g with reading := none }) d
      match x.what with
      | .descriptor i => takeDescriptor ring i (bytes ++ List.replicate (32 - bytes.length) 0) d1
      | .buffer i desc => if ring = 8 then takeBlock i desc bytes d1 else fetchNext ring (admitTx ring i desc bytes d1)

/-- SAMPLE_FETCH (R465). -/
def execSampleFetch (s : Fin 64) (st : State) : Result :=
  st.does fun d =>
    match d.host.rings[(8 : Fin 10)].ready with
    | (_, desc) :: _ => if (blockStream desc).1 = s.val then serveBlock d else d
    | [] => d

/-- DMA_ERROR: a read completes with an error, or the host refuses a write (R466). DEDUCED, unsafe (log entry 85). -/
def execDmaError (ring : Fin 10) (s : State) : Result :=
  s.does fun d =>
    let g := d.host.rings[ring]
    if g.running then stopRing ring (if g.reading.isSome then 2 else 4) d else d

/-- DMA_COMPLETION_TIMEOUT (R466). DEDUCED, unsafe (log entry 85). -/
def execDmaCompletionTimeout (ring : Fin 10) (s : State) : Result :=
  s.does fun d =>
    match d.host.rings[ring].reading with
    | none => d
    | some x => stopRing ring 3 (arrive x.deadline d)

/-- RING_ENABLE: on the serial path writes to ring registers are ignored (R449, R459). -/
def execRingEnable (path : HostPath) (ring : Fin 10) (s : State) : Result :=
  s.does (onPath path (fun d => if path = .pcie then enableRing ring d else d))

/-- RING_DISABLE (R449, R459). -/
def execRingDisable (path : HostPath) (ring : Fin 10) (s : State) : Result :=
  s.does (onPath path (fun d => if path = .pcie then disableRing ring d else d))

/-- TAIL (R449, R459). -/
def execTail (path : HostPath) (ring : Fin 10) (value : Word32) (s : State) : Result :=
  s.does (onPath path (fun d => if path = .pcie then writeTail ring value.toNat d else d))

/-- RING_MODERATION_END (R459). -/
def execRingModerationEnd (ring : Fin 10) (s : State) : Result :=
  s.does fun d =>
    let g := d.host.rings[ring]
    match g.lastInt with
    | some t =>
      if g.deferred then
        let d1 := arrive (t + g.moderation * 10 * usNs) d
        setInt (16 + ring.val) (onRing ring (fun g => { g with lastInt := some d1.now, deferred := false }) d1)
      else d
    | none => d

/-! ### Registers with effects of their own (R449, R454, R457, R458) -/

/-- A W1C write to INT_STATUS (R454, R455). -/
def clearInt (v : Word32) (d : Dev) : Dev :=
  let d1 := onHost (fun h => { h with intStatus := h.intStatus &&& ~~~v }) d
  forEach (List.range 12) (fun k d => if vectorActive d.host k then sendVector (Fin.ofNat 16 k) d else d) d1

/-- INT_STATUS_CLEAR (R454, R455). -/
def execIntStatusClear (path : HostPath) (value : Word32) (s : State) : Result := s.does (onPath path (clearInt value))

/-- The snapshot of TIME_LO (R457). -/
def snapTime (path : HostPath) (d : Dev) : Dev :=
  let t : TimeSnap := { ns := BitVec.ofNat 64 (trainTime d), state := d.time.state.code, stepGen := d.time.stepGen % 8 }
  match path with
  | .pcie => onHost (fun h => { h with snapPcie := t }) d
  | .serial => onHost (fun h => { h with snapSerial := t }) d

/-- The snapshot that a path shows. -/
def snapOf (h : HostS) (path : HostPath) : TimeSnap :=
  match path with
  | .pcie => h.snapPcie
  | .serial => h.snapSerial

/-- A capture (R458); of two in one cycle the one of PCI Express is kept and REPLACED is set (R468). -/
def captureTime (path : HostPath) (d : Dev) : Dev :=
  let c := d.host.tcap
  if path = .serial && c.valid && c.path = 1 && c.ns = BitVec.ofNat 64 (trainTime d) then
    setInt 26 (onHost (fun h => { h with tcap := { c with replaced := true, count := (c.count + 1) % 65536 } }) d)
  else setInt 26 (onHost (fun h => { h with tcap := {
    ns := BitVec.ofNat 64 (trainTime d), valid := true, replaced := h.tcap.replaced || h.tcap.valid
    path := if path = .pcie then 1 else 2, stepGen := d.time.stepGen % 8, count := (h.tcap.count + 1) % 65536 } }) d)

/-- TCAP_TRIGGER (R458). -/
def execTcapTrigger (path : HostPath) (s : State) : Result := s.does (onPath path (captureTime path))

/-- HOST_STATUS (R451). -/
def hostStatus (d : Dev) : Nat :=
  let bit := fun (b : Bool) (i : Nat) => if b then 2 ^ i else 0
  let slp := match d.sleep.state with | .awake => 0 | .readySleep => 1 | .committing => 2 | .asleep => 3 | .waking => 4
  bit d.pow.agentReady 0 + bit (safeLow d) 1 + bit (d.node.profile = 4) 2 + bit d.pow.booted 3 + 16 * min 15 d.pow.restarts +
    256 * d.time.state.code + 4096 * slp + bit (d.pow.warnIo || d.pow.warnCore) 15 + 65536 * (d.inaug.now.epoch % 65536)

/-- Bits of MB_STATUS (R452). -/
def Mailbox.status (m : Mailbox) : Nat :=
  (if m.busy then 1 else 0) + (if m.done then 2 else 0) + (if m.aborted then 4 else 0) + (if m.overrun then 8 else 0)

/-- A ring register (R459). -/
def ringRegister (g : Ring) (off : Nat) : Nat :=
  if off = 0 then g.base.toNat % 2 ^ 32
  else if off = 4 then g.base.toNat / 2 ^ 32
  else if off = 8 then g.size
  else if off = 0x0C then g.tail
  else if off = 0x10 then g.head
  else if off = 0x14 then (if g.enable then 1 else 0) + 256 * g.moderation
  else if off = 0x18 then (if g.running then 1 else 0) + 2 * g.error
  else if off = 0x1C then g.drops
  else 0

/-- What a register read answers (R450); reserved offsets read 0 (R9). -/
def readRegister (path : HostPath) (off : Nat) (d : Dev) : Nat :=
  let h := d.host
  if 0x1000 ≤ off && off < 0x2000 then leNat (Memory.readBytes (mailboxOf h path).window (off - 0x1000) 4)
  else if 0x0100 ≤ off && off < 0x0240 then
    if path = .serial then 0 else ringRegister h.rings[Fin.ofNat 10 ((off - 0x100) / 0x20)] (off % 0x20)
  else if off = 0 then cfg d 0x1018 1
  else if off = 4 then if d.chip.ex then 0x00018840 else cfg d 0x1018 2
  else if off = 8 then cfg d 0x1018 3
  else if off = 0x0C then d.chip.ident.toNat % 2 ^ 32
  else if off = 0x10 then d.chip.ident.toNat / 2 ^ 32
  else if off = 0x14 then hostStatus d
  else if off = 0x18 then h.scratch.toNat
  else if off = 0x24 then (mailboxOf h path).status
  else if off = 0x40 || off = 0x4C then h.intStatus.toNat
  else if off = 0x44 then h.enMsi.toNat
  else if off = 0x48 then h.enPin.toNat
  else if off = 0x60 then (snapOf h path).ns.toNat % 2 ^ 32
  else if off = 0x64 then (snapOf h path).ns.toNat / 2 ^ 32
  else if off = 0x68 then (snapOf h path).state + 16 * (snapOf h path).stepGen
  else if off = 0x70 then h.tcap.ns.toNat % 2 ^ 32
  else if off = 0x74 then h.tcap.ns.toNat / 2 ^ 32
  else if off = 0x78 then
    (if h.tcap.valid then 1 else 0) + (if h.tcap.replaced then 2 else 0) + 4 * h.tcap.path + 16 * h.tcap.stepGen + 65536 * h.tcap.count
  else if off = 0x80 then h.hspBad + 256 * h.hspUnknown
  else if 0x3000 ≤ off && off < 0x3100 then
    let v := (off - 0x3000) / 16
    if off % 16 = 12 then (if h.msiMask[Fin.ofNat 16 v] then 1 else 0)
    else h.msiTable[Fin.ofNat 48 (3 * v + off % 16 / 4)].toNat
  else if off = 0x3800 then ((List.finRange 16).map (fun v => if h.msiPending[v] then 2 ^ v.val else 0)).sum
  else 0

/-- What a read does before it answers: the snapshot of TIME_LO (R457). -/
def beforeRead (path : HostPath) (off : Nat) (d : Dev) : Dev := if off = 0x60 then snapTime path d else d

/-- What a read clears (R449, R450, R458, R459). -/
def afterRead (path : HostPath) (off : Nat) (d : Dev) : Dev :=
  if off = 0x74 then onHost (fun h => { h with tcap := { h.tcap with valid := false } }) d
  else if off = 0x78 then onHost (fun h => { h with tcap := { h.tcap with replaced := false } }) d
  else if off = 0x80 then onHost (fun h => { h with hspBad := 0, hspUnknown := 0 }) d
  else if path = .pcie && 0x0100 ≤ off && off < 0x0240 && off % 0x20 = 0x1C then
    onRing (Fin.ofNat 10 ((off - 0x100) / 0x20)) (fun g => { g with drops := 0 }) d
  else d

/-- One register read: the value as answered, and the device after it. -/
def readOne (path : HostPath) (off : Nat) (d : Dev) : Nat × Dev :=
  let d1 := beforeRead path off d
  (readRegister path off d1, afterRead path off d1)

/-- A register read that a command names. -/
def readReg (path : HostPath) (off : Nat) (s : State) : Result :=
  s.does (onPath path (fun d => let (v, d1) := readOne path off d; emit (.hostReg path off (BitVec.ofNat 32 v)) d1))

/-- TIME_LO_READ (R457). -/
def execTimeLoRead (path : HostPath) (s : State) : Result := readReg path 0x60 s

/-- TCAP_HI_READ (R458). -/
def execTcapHiRead (path : HostPath) (s : State) : Result := readReg path 0x74 s

/-- TCAP_STATUS_READ (R458). -/
def execTcapStatusRead (path : HostPath) (s : State) : Result := readReg path 0x78 s

/-- HSP_STATUS_READ (R450). -/
def execHspStatusRead (path : HostPath) (s : State) : Result := readReg path 0x80 s

/-- DROPS_READ (R459); over the serial path ring registers read 0 (R449). -/
def execDropsRead (path : HostPath) (ring : Fin 10) (s : State) : Result := readReg path (0x11C + 0x20 * ring.val) s

/-! ### Register writes (R450, R452, R459) -/

/-- A write of a ring register over PCI Express (R459). -/
def writeRing (r : Fin 10) (off v : Nat) (d : Dev) : Dev :=
  if off = 0 then onRing r (fun g => { g with base := BitVec.ofNat 64 (g.base.toNat / 2 ^ 32 * 2 ^ 32 + v / 64 * 64) }) d
  else if off = 4 then onRing r (fun g => { g with base := BitVec.ofNat 64 (v * 2 ^ 32 + g.base.toNat % 2 ^ 32) }) d
  else if off = 8 then onRing r (fun g => { g with size := v % 8192 }) d
  else if off = 0x0C then writeTail r v d
  else if off = 0x14 then
    let d1 := onRing r (fun g => { g with moderation := bitsOf v 15 8 }) d
    if v % 2 = 1 then enableRing r d1 else disableRing r d1
  else d

/-- A register write; `bell` is what a doorbell of a path does (R450, R452). -/
def writeRegister (bell : HostPath → Dev → Dev) (path : HostPath) (off : Nat) (v : Word32) (d : Dev) : Dev :=
  if 0x1000 ≤ off && off < 0x2000 then
    if (mailboxOf d.host path).busy then d
    else onMailbox path (fun m => { m with window := Memory.write m.window (off - 0x1000) (leBytes 4 v.toNat) }) d
  else if 0x0100 ≤ off && off < 0x0240 then
    if path = .serial then d else writeRing (Fin.ofNat 10 ((off - 0x100) / 0x20)) (off % 0x20) v.toNat d
  else if off = 0x18 then onHost (fun h => { h with scratch := v }) d
  else if off = 0x20 then (if v.getLsbD 0 then bell path d else d)
  else if off = 0x24 then
    onMailbox path (fun m => { m with
      done := m.done && !v.getLsbD 1, aborted := m.aborted && !v.getLsbD 2, overrun := m.overrun && !v.getLsbD 3 }) d
  else if off = 0x40 then clearInt v d
  else if off = 0x44 then riseVectors d.host (onHost (fun h => { h with enMsi := v &&& 0x3FFFFFFF#32 }) d)
  else if off = 0x48 then onHost (fun h => { h with enPin := v &&& 0x3FFFFFFF#32 }) d
  else if off = 0x6C then captureTime path d
  else if 0x3000 ≤ off && off < 0x3100 then
    let k := (off - 0x3000) / 16
    let i := Fin.ofNat 16 k
    if off % 16 = 12 then
      let d1 := onHost (fun h => { h with msiMask := h.msiMask.set i.val (v.getLsbD 0) }) d
      if !v.getLsbD 0 && d.host.msiPending[i] then
        emit (.msi k) (onHost (fun h => { h with msiPending := h.msiPending.set i.val false }) d1)
      else d1
    else onHost (fun h => { h with msiTable := h.msiTable.set! (3 * k + off % 16 / 4) v }) d
  else d

/-! ### The serial host port (R448, R449) -/

/-- Offset of word i of a serial transaction: it rises by 4 and wraps at 0x2000 (R448). -/
def serialOffset (address i : Nat) : Nat := (address / 4 * 4 + 4 * i) % 0x2000

/-- A refused write (R449). DESIGN CHOICE, unsafe (log entry 88). -/
def refuseSerial (d : Dev) : Dev := onHost (fun h => { h with serialRefused := true, hspBad := min 0xFF (h.hspBad + 1) }) d

/-- The words of a serial write, in order. -/
def serialWords : Nat → List Byte → List Word32
  | 0, _ => []
  | n + 1, bs => BitVec.ofNat 32 (leNat (bs.take 4)) :: serialWords n (bs.drop 4)

/-- A serial write keeps its framing and its CRC: as many data bytes as byte 3 announces stand before the byte after which
HSP_CS_N rises, and that byte is the CRC of kind 1 over what comes before it (R448, R449). -/
def serialSound (address count : Nat) (data : List Byte) (crc : Byte) : Bool :=
  data.length = 4 * (count + 1) && crcKind 1 (beBytes 1 2 ++ beBytes 2 address ++ beBytes 1 count ++ data) = crc.toNat

/-- A serial write (R448, R449): refused unless its CRC and its framing hold. DESIGN CHOICE, unsafe (log entry 88). -/
def serialWrite (bell : HostPath → Dev → Dev) (address count : Nat) (data : List Byte) (crc : Byte) (d : Dev) : Dev :=
  if !serialSound address count data crc then refuseSerial d
  else
    let ws := serialWords (count + 1) data
    let d1 := onHost (fun h => { h with serialRefused := false }) d
    (ws.foldl (fun (x : Nat × Dev) w => (x.1 + 1, writeRegister bell .serial (serialOffset address x.1) w x.2)) (0, d1)).2

/-- Words of a serial read with the device after it. DESIGN CHOICE, unsafe (log entry 88). -/
def serialReads : Nat → Nat → Nat → Dev → List Byte × Dev
  | 0, _, _, d => ([], d)
  | n + 1, address, i, d =>
    let (v, d1) := readOne .serial (serialOffset address i) d
    let (bs, d2) := serialReads n address (i + 1) d1
    (leBytes 4 v ++ bs, d2)

/-- SERIAL_READ (R448). -/
def execSerialRead (address : BitVec 13) (words : Nat) (s : State) : Result :=
  s.does (onPath .serial (fun d =>
    let st := 0xA0 + (if hostIntLow d then 8 else 0) + (if d.host.serialRefused then 4 else 0)
    let (bs, d1) := serialReads (min words 256) address.toNat 0 d
    let body := leBytes 1 st ++ bs
    emit (.serialReply (body ++ leBytes 1 (crcKind 1 body))) (onHost (fun h => { h with serialRefused := false }) d1)))

/-- SERIAL_UNKNOWN_COMMAND (R449). DESIGN CHOICE, unsafe (log entry 88). -/
def execSerialUnknownCommand (_command : BitVec 8) (s : State) : Result :=
  s.does (onPath .serial (onHost (fun h => { h with serialRefused := true, hspUnknown := min 0xFF (h.hspUnknown + 1) })))

/-! ### PERST_N and function level reset (R447, R453, R467, R575) -/

/-- A mailbox after a reset of the register block: the answer to a request that is BUSY is discarded (R453). DESIGN CHOICE,
unsafe (log entry 89). -/
def resetMailbox (m : Mailbox) : Mailbox := { Mailbox.reset with discard := m.busy || m.discard }

/-- What the endpoint's configuration space says of the device (R446). -/
structure Identification where
  vendor : Nat
  device : Nat
  revision : Nat
  classCode : Nat
  subsystemVendor : Nat
  subsystem : Nat
  deriving DecidableEq, Repr

/-- The identification of a part of its grade (R446). DESIGN CHOICE, unsafe (log entry 86). -/
def identification (d : Dev) : Identification :=
  { vendor := 0x1E3B, device := 0x8840, revision := 0xB1, classCode := 0x028000, subsystemVendor := 0x1E3B
    subsystem := if d.chip.ex then 1 else 0 }

/-- The endpoint and the host register block are reset, every ring is disabled; `serial` keeps the serial path (R447, R467).
DESIGN CHOICE, unsafe (log entry 89). -/
def resetHostBlock (serial : Bool) (d : Dev) : Dev :=
  onHost (fun h =>
    let n : HostS := { HostS.reset with
      mbPcie := resetMailbox h.mbPcie, perst := h.perst, linkUp := h.linkUp, wakeLow := h.wakeLow
      rings := h.rings.map (fun g => { Ring.reset with session := g.session }) }
    if serial then { n with
      mbSerial := h.mbSerial, snapSerial := h.snapSerial, hspBad := h.hspBad, hspUnknown := h.hspUnknown
      serialRefused := h.serialRefused, enPin := h.enPin }
    else { n with mbSerial := resetMailbox h.mbSerial }) d

/-- PERST_N_FALL; ignored while STRAP_PCIE_EN is 0 (R447, R575). DESIGN CHOICE, unsafe (log entry 89). -/
def execPerstNFall (s : State) : Result :=
  s.does fun d =>
    if !d.pins.strapPcie then d
    else onHost (fun h => { h with perst := true, linkUp := false }) (resetHostBlock false d)

/-- PERST_N_RISE (R447, R575). -/
def execPerstNRise (s : State) : Result :=
  s.does fun d =>
    if !d.pins.strapPcie then d else onHost (fun h => { h with perst := false, linkUp := hostPowered d, wakeLow := false }) d

/-- FUNCTION_LEVEL_RESET (R467). DESIGN CHOICE, unsafe (log entry 89). -/
def execFunctionLevelReset (s : State) : Result :=
  s.does fun d => if pcieUp d then resetHostBlock true d else d

/-- Island 38 has power: the link trains when PERST_N is high (R447). -/
def hostBoot (d : Dev) : Dev := onHost (fun h => { h with linkUp := d.pins.strapPcie && !h.perst }) d

end Sys2Proof.Machine
end

