-- ==== Sys2Proof/Machine/Profiles.lean ====
section
/-! DEFINITION. The operating profiles: how they are entered and left, Fast-start and Test-in-service (R21 to R25). -/

namespace Sys2Proof.Machine

/-- Event "Fast-start refused at boot". -/
def evFastRefused : Ev := ⟨13, 4, 0x82, 0⟩

/-- Changes the profile record. -/
def onNode (f : NodeS → NodeS) (d : Dev) : Dev := { d with node := f d.node }

/-- Clock of an island in Fast-start, kHz (R16). -/
def fastClock (i : Nat) : Nat := if i = 35 then 1000000 else if i = 34 || i = 36 then 250000 else nominalClock i

/-- VDD_CORE in Fast-start, mV (R16). -/
def fastVcore : Nat := 880

/-- Sets every island clock and commands VDD_CORE, where PMBus can (R16, R23, R473). -/
def setOperating (clock : Nat → Nat) (mv : Nat) (d : Dev) : Dev :=
  let d1 := onHealth (fun h => { h with clocks := Vector.ofFn (fun i : Fin 41 => clock i.val), undo := [] }) d
  if voltageMoves d then setReg 0x2E03 2 mv (emit (.pmbus 0x21 mv) (onHealth (fun h => { h with commanded := mv }) d1)) else d1

/-- Fast-start begins: clocks up, 30 s (R23). -/
def fastBegins (back : Nat) (d : Dev) : Dev :=
  setOperating fastClock fastVcore (onNode (fun x => { x with before := back, fastEnd := some (d.now + 30 * sNs) }) d)

/-- Fast-start ends: clocks and VDD_CORE nominal, and a plan within 1 s (R23, R511). -/
def fastEnds (d : Dev) : Dev :=
  onHealth (fun h => { h with planDue := h.planDue.map (fun t => min t (d.now + sNs)) })
    (setOperating nominalClock 800 (onNode (fun x => { x with fastEnd := none, fastEndedAt := some d.now }) d))

/-- Commissioning begins: no scheduled traffic and no streams (R21, R23). -/
def serviceStops (d : Dev) : Dev :=
  applyStreams (dropQ6 (closeWindows (onSched (fun s => { s with
    state := .off, closing := none, gates := [], built := none, building := false, switchPending := false, offerDue := none
    switchOffer := none }) d)))

/-- Commissioning ends: the schedule and the streams follow their entries again (R23). -/
def serviceReturns (d : Dev) : Dev :=
  applyStreams (if cfg d 0x2501 1 = 0 then d else applySchedSource (cfg d 0x2501 1) d)

/-- The active profile becomes `n`, with what leaving the old one and entering the new one do (R23); before the boot is
complete there are no tables that could act. DESIGN CHOICE, unsafe (log entry 94). -/
def enterProfile (n : Nat) (d : Dev) : Dev :=
  let old := d.node.profile
  if old = n then d
  else
    let d0 := onFab (fun f => { f with passStart := if n = 0 then d.now else f.passStart }) d
    let d1 := bump 0x2001 5 (onNode (fun x => { x with
      profile := n, nextProfile := none, stepBusy := false, selfTests := decide (n = 1)
      testStep := if n = 3 then 0 else x.testStep }) d0)
    let d2 := onlyIf (n = 2) (fastBegins old) (onlyIf (old = 2) fastEnds d1)
    let d3 := onlyIf (n = 1) serviceStops (onlyIf (old = 1) serviceReturns d2)
    if d.pow.booted then plannerGate (settleNeed false (applyPorts d (fun _ _ => false) d3)) else d3

/-- Changes of profile that a commit makes (R23). -/
def profileAllows (active requested : Nat) : Bool :=
  match active with
  | 0 => requested = 1 || requested = 2 || requested = 3
  | 1 => requested = 0 || requested = 2
  | 2 => requested = 0 || requested = 1 || requested = 3
  | 3 => requested = 0 || requested = 1 || requested = 2
  | _ => false

/-- A commit finds the requested profile; Test-in-service first finishes its step (R23). DESIGN CHOICE, unsafe (log entry
94). -/
def profileAtCommit (d : Dev) : Dev :=
  let r := cfg d 0x2001 1
  if !profileAllows d.node.profile r then onNode (fun x => { x with nextProfile := none }) d
  else if d.node.profile = 3 && d.node.stepBusy then onNode (fun x => { x with nextProfile := some r }) d
  else enterProfile r d

/-- The junction temperature allows Fast-start to be requested: not above grade maximum minus 20 °C (R22). -/
def fastTooHot (d : Dev) : Bool := gradeMax d - 200 < d.node.junction

/-- A write to 0x2001:01 is not allowed in the present state (R22). -/
def profileRefused (d : Dev) (r : Nat) : Bool :=
  d.node.profile = 4 ||
  match r with
  | 1 => scheduleActive d || (resBank d).any (fun x => !x.ports.isEmpty)
  | 2 => (match d.node.fastEndedAt with | some t => decide (d.now < t + 300 * sNs) | none => false) || fastTooHot d || !voltageMoves d
  | 3 => d.node.profile = 1 || (!d.fab.retired.isEmpty && (freeSpare d).isNone)
  | _ => false

/-- Boot is complete: the boot profile is entered, and 0x2001:01 follows it (R23). DESIGN CHOICE, unsafe (log entry 94). -/
def bootProfile (d : Dev) : Dev :=
  let b := cfg d 0x2001 3
  if b = 2 && !voltageMoves d then raise evFastRefused noInst (setReg 0x2001 1 0 (bump 0x2001 5 d))
  else if b = 0 then bump 0x2001 5 d
  else enterProfile b (setReg 0x2001 1 b d)

/-- Fast-start ends and the profile before it returns, if Fast-start is active (R23). -/
def leaveFast (d : Dev) : Dev :=
  if d.node.profile = 2 then enterProfile d.node.before (setReg 0x2001 1 d.node.before d) else d

/-- FAST_START_TIMEOUT (R23). -/
def execFastStartTimeout (s : State) : Result :=
  s.does fun d => match d.node.fastEnd with
    | some t => leaveFast (arrive t d)
    | none => d

/-- A reading of the junction temperature; at grade maximum minus 10 °C Fast-start ends and the end is recorded, at a
severity that the spec does not give (R23, R507). -/
def takeJunction (reading : Int) (d : Dev) : Dev :=
  let d1 := if d.node.profile = 2 && gradeMax d - 100 ≤ reading then
      raise ⟨13, Config.freeNat d.fresh % 8, 0x83, 0⟩ noInst (leaveFast (draw d)) else d
  junctionReading reading d1

/-- FAST_START_THERMAL_END (R23). -/
def execFastStartThermalEnd (reading : Int) (s : State) : Result := s.does (takeJunction reading)

/-- JUNCTION_TEMPERATURE_MAXIMUM (R580). -/
def execJunctionTemperatureMaximum (reading : Int) (s : State) : Result := s.does (takeJunction reading)

/-! ### Test-in-service (R21, R125, R149) -/

/-- The next slice to leave: the first active one above the spare, or the lowest (R21). DESIGN CHOICE, unsafe (log entry 94).
-/
def nextRotation (d : Dev) : Option Slice :=
  let low := fun (l : List Slice) => l.foldl (fun (acc : Option Slice) s => match acc with
    | none => some s
    | some x => some (if s.val < x.val then s else x)) none
  match d.fab.spare with
  | none => none
  | some sp => match low (d.fab.active.filter (fun s => sp.val < s.val)) with
    | some s => some s
    | none => low d.fab.active

/-- The step under way is finished; a profile that waited for it is entered (R23). -/
def stepDone (d : Dev) : Dev :=
  let d1 := onNode (fun x => { x with stepBusy := false }) d
  match d.node.nextProfile with
  | some n => enterProfile n d1
  | none => d1

/-- A step ends when neither an engine is in self-test nor a rotation runs (R21, R23). -/
def stepEnds (d : Dev) : Dev :=
  if d.node.stepBusy && !d.fab.works.any (·.rotation) && d.fab.engine0 ≠ .selfTest && d.fab.engine1 ≠ .selfTest then stepDone d
  else d

/-- SLICE_FAULT (R25, R146, R147, R148): the retirement ends a rotation under way, and with it a step of Test-in-service.
DESIGN CHOICE, unsafe (log entry 41). -/
def execSliceFault (slice : Slice) (t : SliceTrigger) (s : State) : Result :=
  s.does fun d =>
    let d1 := sliceFault slice t d
    if d.fab.works.any (·.rotation) then stepEnds d1 else d1

/-- ENGINE_TEST_STEP: the steps take engine 0, a rotation, engine 1 and a rotation in turn (R21, R125). DESIGN CHOICE, unsafe
(log entry 94). -/
def execEngineTestStep (s : State) : Result :=
  s.does fun d =>
    if d.node.profile ≠ 3 || d.node.stepBusy then d
    else
      let n := d.node.testStep
      let d1 := onNode (fun x => { x with testStep := (n + 1) % 4 }) d
      let busy := onNode (fun x => { x with stepBusy := true })
      if n % 2 = 0 then
        if d1.fab.engine0 = .inService && d1.fab.engine1 = .inService then busy (takeEngineOut (decide (n = 2)) d1) else d1
      else match nextRotation d1 with
        | some sl => if mayRotate d1 sl.val then busy (startRotation sl d1) else d1
        | none => d1

/-- ENGINE_SELF_TEST_END (R124, R125). -/
def execEngineSelfTestEnd (engine1 pass : Bool) (s : State) : Result :=
  s.does fun d =>
    let n := if engine1 then 1 else 0
    if engineOf d.fab engine1 = .selfTest then
      stepEnds (if pass then raise evEngineBack n (onFab (setEngine engine1 .inService) d)
        else raise evEngineRetired n (onFab (setEngine engine1 .retired) d))
    else d

/-- ROTATION_COMPLETE (R149, R150). -/
def execRotationComplete (s : State) : Result :=
  s.does fun d =>
    match d.fab.works.find? (·.rotation) with
    | some w =>
      match w.incoming with
      | some i => stepEnds (rotationEnds w i d)
      | none => d
    | none => d

/-- The computed entries of R21. -/
def profileRead (d : Dev) (idx sub : Nat) : Option Value :=
  if idx = 0x2001 then
    match sub with
    | 2 => some (.num d.node.profile)
    | 4 => some (.num (remaining d.node.fastEnd msNs d))
    | _ => none
  else none

end Sys2Proof.Machine
end

