-- ==== Sys2Proof/Machine/Answers.lean ====
section
/-! DEFINITION. How the dictionary agent answers on each access path (R53, R58 to R61, R452), how it counts refusals (R36),
and how the staging set is discarded (R39, R45). -/

namespace Sys2Proof.Machine

/-- Event "staging set discarded" (R39). -/
def evDiscarded : Ev := ⟨13, 3, 0x84, 0⟩

/-- Changes the dictionary agent's state. -/
def onDict (f : DictS → DictS) (d : Dev) : Dev := { d with dict := f d.dict }

/-! ### KDA frames (R56 to R58, R543) -/

/-- Header and payload of a KDA frame, in network byte order (R56). -/
def kdaBytes (session seq : BitVec 32) (opcode : Nat) (payload : List Byte) : List Byte :=
  beBytes 2 0x4B44 ++ leBytes 1 1 ++ leBytes 1 opcode ++ beBytes 4 session.toNat ++ beBytes 4 seq.toNat ++
    beBytes 2 payload.length ++ leBytes 2 0 ++ payload

/-- Sends a KDA frame with its tag to a peer; without a session key the tag is zeros (R542 to R544).  The frame leaves from
UDP port 17394 of the address that the peer named, through the queue of priority 0 (R55, R60, R139). PRESUMED, unsafe (log
entry 115). -/
def sendKda (peer : KdaPeer) (key : Option (List Byte)) (session seq : BitVec 32) (opcode : Nat) (payload : List Byte) (d : Dev) : Dev :=
  let tag : List Byte := match key with
    | some k => (Config.aesCmac k (kdaBytes session seq opcode payload) ++ List.replicate 16 0).take 16
    | none => List.replicate 16 0
  let bs := ownFrame d peer.mac.toNat 0x0800
    (udpDatagram peer.own.toNat peer.ip.toNat 17394 peer.udp.toNat (kdaBytes session seq opcode payload ++ tag))
  let d1 := emit (.kda peer session seq opcode payload tag) d
  if mayPass d bs peer.port then sendOwn peer.port (Fin.ofNat 8 (cfg d 0x2203 1)) bs d1 else d1

/-- Changes a session. DESIGN CHOICE, unsafe (log entry 24). -/
def onSession (id : BitVec 32) (f : KdaSession → KdaSession) (d : Dev) : Dev :=
  onDict (fun q => { q with sessions := q.sessions.map (fun s => if s.id = id then f s else s) }) d

/-- A session by its identifier. -/
def sessionOf (d : Dev) (id : BitVec 32) : Option KdaSession := d.dict.sessions.find? (fun s => s.id = id)

/-- The response block (R58). -/
def respBlock (rs : Resp) : List Byte :=
  beBytes 2 rs.idx ++ leBytes 1 rs.sub ++ leBytes 1 0 ++ beBytes 4 rs.abort ++ beBytes 2 rs.data.length ++ leBytes 2 0 ++
    (if rs.write then [] else beBytes 4 rs.total ++ rs.data)

/-- Stores a session's response and sends it (R59, R60). -/
def sendStored (s : KdaSession) (opcode : Nat) (payload : List Byte) (d : Dev) : Dev :=
  sendKda s.peer (some s.key) s.id s.lastSeq opcode payload (onSession s.id (fun x => { x with stored := some (opcode, payload) }) d)

/-! ### Answers -/

/-- The response goes into the mailbox window (R61, R452); a mailbox reset meanwhile takes no response (R453). -/
def answerMailbox (path : HostPath) (src : Src) (rs : Resp) (d : Dev) : Dev :=
  let m := mailboxOf d.host path
  if m.discard then onMailbox path (fun m => { m with discard := false }) d
  else if !m.busy then d
  else
    let head := leBytes 1 (if rs.write then 0x13 else 0x11) ++ leBytes 1 rs.sub ++ leBytes 2 rs.idx ++ leBytes 4 rs.abort ++
      leBytes 2 rs.data.length
    let w := Memory.write m.window 0 head
    let w' := if rs.write then w else Memory.write w 12 (leBytes 4 rs.total ++ rs.data)
    emit (.answer src rs) (setInt (mailboxBit path) (onMailbox path (fun m => { m with window := w', busy := false, done := true }) d))

/-- COB-ID of the responses of SDO server `c`: bits [10:0] of 0x1200 + c:02, or 0x580 plus the node-ID when that entry is 0
(R54). -/
def sdoCob (d : Dev) (c : CanId) : Nat :=
  let v := cfg d (0x1200 + c.val) 2
  if v = 0 then 0x580 + cfg d 0x2010 0x0A else v % 2048

/-- A frame of an SDO server: command byte, index and subindex, and four bytes more. -/
def sdoHead (command : Nat) (idx sub : Nat) (last : List Byte) : List Byte :=
  leBytes 1 command ++ leBytes 2 idx ++ leBytes 1 sub ++ (last ++ List.replicate 4 0).take 4

/-- The CRC of a block transfer (R53): x^16 + x^12 + x^5 + 1 from 0. PRESUMED, unsafe (log entry 21). -/
def sdoCrc (bs : List Byte) : Nat := crcOf 0x1021#16 0#16 0#16 false bs

/-- The server's frames about a transfer that succeeds, but for the segments of the data itself (R53): a download is
confirmed; an upload of at most 4 bytes is expedited, a longer one segmented, and a block upload goes out in blocks when its
value is longer than the threshold, or the threshold is 0, and ends with its CRC. PRESUMED, unsafe (log entry 21). -/
def sdoFrames (mode : SdoMode) (rs : Resp) : List (List Byte) :=
  let n := rs.data.length
  let plain : List (List Byte) :=
    if n ≤ 4 then [sdoHead (0x43 + 4 * (4 - n)) rs.idx rs.sub rs.data] else [sdoHead 0x41 rs.idx rs.sub (leBytes 4 n)]
  match rs.write, mode with
  | true, .blockDown => [leBytes 8 0xA1]
  | true, _ => [sdoHead 0x60 rs.idx rs.sub []]
  | false, .blockUp threshold =>
    if threshold ≠ 0 && n ≤ threshold then plain
    else [sdoHead 0xC6 rs.idx rs.sub (leBytes 4 n),
      (leBytes 1 (0xC1 + 4 * ((7 - n % 7) % 7)) ++ leBytes 2 (sdoCrc rs.data) ++ List.replicate 5 0)]
  | false, _ => plain

/-- Sends frames from SDO server `c` (R54). -/
def sdoSend (c : CanId) (frames : List (List Byte)) (d : Dev) : Dev := emits (frames.map (Out.sdo c.val (sdoCob d c))) d

/-- SDO server `c` aborts the transfer (R53, R67). -/
def sdoAbort (c : CanId) (idx sub code : Nat) (d : Dev) : Dev :=
  emit (.sdoAbort c.val idx sub code) (sdoSend c [sdoHead 0x80 idx sub (leBytes 4 code)] d)

/-- SDO server `c` has no transfer in progress. -/
def sdoIdle (c : CanId) (d : Dev) : Dev :=
  onDict (fun q => { q with sdo := q.sdo.set c.val none c.isLt, sdoMode := q.sdoMode.set c.val .normal c.isLt }) d

/-- Answers a request on its path (R53, R58, R61); a session that has closed gets no answer. -/
def answer (src : Src) (rs : Resp) (d : Dev) : Dev :=
  match src with
  | .sdo c =>
    if rs.abort = 0 then emit (.answer src rs) (sdoSend c (sdoFrames d.dict.sdoMode[c] rs) (sdoIdle c d))
    else sdoAbort c rs.idx rs.sub rs.abort (sdoIdle c d)
  | .kda id _ =>
    match sessionOf d id with
    | some s => sendStored s (if rs.write then 0x13 else 0x11) (respBlock rs) d
    | none => d
  | .pcie => answerMailbox .pcie src rs d
  | .serial => answerMailbox .serial src rs d

/-- The answer to a write. -/
def answerWrite (src : Src) (idx sub code : Nat) (d : Dev) : Dev :=
  answer src { idx := idx, sub := sub, write := true, abort := code, data := [], total := 0 } d

/-! ### Refusals (R36, R64) -/

/-- The counter of 0x2003 that a refusal of a write or commit increments (R36). DESIGN CHOICE, unsafe (log entry 13). -/
def refusalCounter (commit : Bool) (code : Nat) : Nat :=
  if code = 0x06010001 || code = 0x06010002 || code = 0x0F000001 then 2
  else if ([0x06020000, 0x06090011, 0x06070010, 0x06070012, 0x06070013, 0x0F000009, 0x06090030, 0x06090031, 0x06090032] : List Nat).contains code then 3
  else if code = 0x08000022 then 4
  else if code = 0x0F000002 || code = 0x0F000003 then 5
  else if commit && (code = 0x0F000004 || code = 0x0F000005 || code = 0x0F000006 || code = 0x0F00000C) then 9
  else 0x0A

/-- Counts a refusal and names the entry and the code (R36). DESIGN CHOICE, unsafe (log entry 13). -/
def countRefusal (commit : Bool) (idx sub code : Nat) (d : Dev) : Dev :=
  setReg 0x2003 7 code (setReg 0x2003 6 (256 * idx + sub) (bump 0x2003 (refusalCounter commit code) d))

/-- Refuses a write. -/
def refuseWrite (src : Src) (idx sub code : Nat) (d : Dev) : Dev := answerWrite src idx sub code (countRefusal false idx sub code d)

/-- Refuses a commit that was held or written (R41, R45, R63). DESIGN CHOICE, unsafe (log entry 106). -/
def refuseCommit (src : Src) (code : Nat) (d : Dev) : Dev :=
  answerWrite src 0x2002 1 code (countRefusal true 0x2002 1 code (onDict (fun q => { q with lastRefused := true }) d))

/-! ### The staging set is discarded (R39) -/

/-- The staging set is discarded; a held commit is refused (R39, R45).  An image whose writes were staged is received again.
DESIGN CHOICE, unsafe (log entry 17). -/
def discardSet (d : Dev) : Dev :=
  if d.dict.staged.isEmpty then d
  else
    let q := d.dict
    let d1 := raise evDiscarded noInst (onDict (fun q => { q with
      staged := [], owner := none, idleDeadline := none, heldCommit := none, imageStaged := none
      imageStatus := if q.imageStatus = 3 then 1 else q.imageStatus }) d)
    match q.heldCommit with
    | some h => refuseCommit h.src 0x0F000006 d1
    | none => d1

/-- The set of a KDA session that is no longer open is discarded (R39). -/
def dropOrphan (d : Dev) : Dev :=
  match d.dict.owner with
  | some (.kda id) => if (sessionOf d id).isSome then d else discardSet d
  | _ => d

/-- KDA sessions other than those kept close (R39, R545). DESIGN CHOICE, unsafe (log entry 25). -/
def keepSessions (keep : KdaSession → Bool) (d : Dev) : Dev :=
  dropOrphan (onDict (fun q => { q with sessions := q.sessions.filter keep }) d)

end Sys2Proof.Machine
end

