-- ==== Sys2Proof/Machine/Power.lean ====
section
/-! DEFINITION. Supplies, boot, firmware images, the recovery sequencer, SAFE_N and the bypass drives (chapter 16). -/

namespace Sys2Proof.Machine

/-! ### SAFE_N (R494) -/

/-- SAFE_N is high: Active from step 9 on, the sequencer Watching, no core halted and no boundary scan (R494, R548). -/
def safeWanted (d : Dev) : Bool :=
  d.pow.state = .active && d.pow.booted && d.pow.seqState = .watching && !d.sec.halted && !d.sec.scanStarted

/-- SAFE_N follows; a change sets INT_STATUS bit [27], and a rise lets a late node adopt (R108, R454, R494). -/
def settleSafe (d : Dev) : Dev :=
  let v := safeWanted d
  if d.pow.safeN = v then d
  else
    let d1 := setInt 27 (onPow (fun p => { p with safeN := v }) d)
    if v then onlyIf d1.pow.booted runBmca (inaugSafeHigh d1) else d1

/-- HOST_ALERT_N is low (R456). -/
def hostAlertLow (d : Dev) : Bool := d.pow.warnIo || d.pow.warnCore || !d.pow.agentReady

/-! ### Firmware images (R480 to R482, R538) -/

/-- State byte of a header (R480). -/
def ImageState.code : ImageState → Nat
  | .new => 0xFF
  | .trial => 0xFE
  | .confirmed => 0xFC
  | .failed => 0xF8
  | .invalid => 0

/-- Changes a partition. -/
def onPart (b : Bool) (f : Partition → Partition) (d : Dev) : Dev :=
  onPow (fun p => if b then { p with partB := f p.partB } else { p with partA := f p.partA }) d

/-- A partition is a candidate (R481). DESIGN CHOICE, unsafe (log entry 91). -/
def Partition.candidate (p : Partition) : Bool :=
  p.magicOk && p.product = 0x8840 &&
    (match p.state with
     | .confirmed => true
     | .new | .trial => p.trialBoots < 3
     | _ => false)

/-- An image is marked failed (R481). -/
def markFailed (b : Bool) (d : Dev) : Dev :=
  raise evImageFailed noInst (bump 0x2D05 8 (onPart b (fun p => { p with state := .failed }) d))

/-- A trial image with 3 trial boots is marked failed (R481). -/
def failSpent (b : Bool) (d : Dev) : Dev :=
  let p := partOf d b
  if p.magicOk && p.state = .trial && 3 ≤ p.trialBoots then markFailed b d else d

/-- The signature check and the load of a partition's image pass, and its security version is not below the fuses (R481,
R538). DESIGN CHOICE, unsafe (log entry 91). -/
def imageLoads (d : Dev) (b : Bool) : Bool := (partOf d b).loads && d.sec.fwVersion ≤ (partOf d b).security

/-- Starts a partition's image: a new or trial one counts a trial boot, and its confirmation is timed (R481, R482). DESIGN
CHOICE, unsafe (log entry 91). -/
def startImage (b : Bool) (d : Dev) : Dev :=
  let counted := (partOf d b).state ≠ .confirmed
  let d1 := onPart b (fun p => if counted then { p with state := .trial, trialBoots := p.trialBoots + 1 } else p) d
  onPow (fun p => { p with
    bootedB := b
    confirmDeadline := if counted then some (d.now + setting d 0x2D03 4 * sNs) else none }) d1

/-- The selection of an image, and whether one starts (R481, R484, R534). DESIGN CHOICE, unsafe (log entry 91). -/
def selectImage (d : Dev) : Dev × Bool :=
  let d1 := failSpent true (failSpent false d)
  if d1.sec.lifecycle = 4 then (d1, false)
  else
    let both := ([false, true] : List Bool).filter (fun b => Partition.candidate (partOf d1 b))
    let order := match both with
      | [x, y] => if (partOf d1 x).generation < (partOf d1 y).generation then [y, x] else [x, y]
      | l => l
    match order with
    | [] => (d1, false)
    | x :: rest =>
      if imageLoads d1 x then (startImage x d1, true)
      else
        let d2 := markFailed x d1
        match rest with
        | y :: _ => if imageLoads d2 y then (startImage y d2, true) else (markFailed y d2, false)
        | [] => (d2, false)

/-! ### The control complex stops and restarts (R39, R52, R453, R489 to R493) -/

/-- A mailbox request in progress is lost (R453). -/
def abortMailbox (path : HostPath) (d : Dev) : Dev :=
  if (mailboxOf d.host path).busy then
    setInt (mailboxBit path) (onMailbox path (fun m => { m with busy := false, aborted := true, discard := false }) d)
  else onMailbox path (fun m => { m with discard := false }) d

/-- What the control complex loses when it stops: the staging set, sessions, transfers and requests (R39, R52, R545). -/
def agentLoses (d : Dev) : Dev :=
  let q := d.dict
  let d1 := onlyIf (!q.staged.isEmpty) (raise evDiscarded noInst) d
  { d1 with dict := { d1.dict with
    staged := [], owner := none, idleDeadline := none, heldCommit := none, fence := none, queue := [], sessions := []
    sdo := Vector.replicate 8 none, sdoMode := Vector.replicate 8 .normal, imageBy := none, imageStaged := none
    imageStatus := if q.imageStatus = 2 || q.imageStatus = 3 then 1 else q.imageStatus
    lastRefused := false } }

/-- The control complex stops; everything else runs on (R10, R205, R453, R511). -/
def complexStops (d : Dev) : Dev :=
  let d1 := abortMailbox .serial (abortMailbox .pcie d)
  let d2 := if d1.pow.agentReady then setInt 2 (onPow (fun p => { p with agentReady := false }) d1) else d1
  let d3 := onPow (fun p => { p with watchdogDeadline := none, readyDeadline := none, stableDeadline := none, confirmDeadline := none }) d2
  plannerGate (timeControlStop (agentLoses d3))

/-- Time allowed until ready, ns: longer in a boot into Commissioning (R489). -/
def readyTime (d : Dev) : Nat :=
  setting d 0x2D03 2 * msNs + (if !d.pow.booted && setting d 0x2001 3 = 1 then 2500 * msNs else 0)

/-- Island 35 is raised again through the boot ROM (R490). -/
def restartComplex (d : Dev) : Dev :=
  let d1 := onPow (fun p => { p with
    episode := min 3 (p.episode + 1), restarts := min 15 (p.restarts + 1)
    seqState := if p.seqState = .recovery then .recovery else .holding
    bootStep := if p.booted then p.bootStep else 3
    epochAppliedBeforeEpisode := if p.episode = 0 then p.booted else p.epochAppliedBeforeEpisode
    readyDeadline := some (d.now + readyTime d) }) d
  settleSafe (selectImage d1).1

/-- The node enters Recovery (R492, R496): the latch, the cause, the profile, and one restart more. DESIGN CHOICE, unsafe
(log entry 93). -/
def enterRecovery (d : Dev) : Dev :=
  let cause := if d.pow.epochAppliedBeforeEpisode then 1 else 2
  let d1 := onPow (fun p => { p with seqState := .recovery, latch := true, bypassA := p.booted, bypassB := p.booted }) d
  restartComplex (enterProfile 4 (setReg 0x2001 6 cause (raise evRecovery noInst d1)))

/-- A watchdog trip (R401, R489 to R493). DESIGN CHOICE, unsafe (log entry 93). -/
def watchdogTrip (d : Dev) : Dev :=
  let ready := d.pow.agentReady
  let early := d.pow.stableDeadline.isSome
  let d1 := complexStops (raise evWatchdogTrip noInst (bump 0x2D05 6 d))
  if d.sleep.state = .committing then d1
  else match d.pow.seqState with
    | .recovery | .recoveryHeld =>
      let d2 := onlyIf (!ready || early) (bump 0x2D05 7) d1
      settleSafe (raise evComplexHeld noInst (onPow (fun p => { p with seqState := .recoveryHeld }) d2))
    | .holding | .watching =>
      let failed := d.pow.seqState = .holding || early
      let d2 := onlyIf failed (bump 0x2D05 7) d1
      if failed && 3 ≤ d.pow.episode then enterRecovery d2 else restartComplex d2

/-- WATCHDOG_TRIP (R489). -/
def execWatchdogTrip (s : State) : Result :=
  s.does fun d =>
    match (if d.pow.agentReady then d.pow.watchdogDeadline else d.pow.readyDeadline) with
    | some t => watchdogTrip (arrive t d)
    | none => d

/-- The watchdog runs from now, unless a core is halted (R489, R548). -/
def feedWatchdog (d : Dev) : Dev :=
  onPow (fun p => { p with watchdogDeadline := if d.sec.halted then none else some (d.now + setting d 0x2D03 1 * msNs) }) d

/-- WATCHDOG_WRITE (R489). -/
def execWatchdogWrite (s : State) : Result := s.does fun d => if d.pow.agentReady then feedWatchdog d else d

/-- STABLE_TIME (R491, R493). DESIGN CHOICE, unsafe (log entry 93). -/
def execStableTime (s : State) : Result :=
  s.does fun d =>
    match d.pow.stableDeadline with
    | some t => onPow (fun p => { p with
        stableDeadline := none, episode := if p.seqState = .watching then 0 else p.episode }) (arrive t d)
    | none => d

/-- IMAGE_CONFIRM (R482, R538). -/
def execImageConfirm (s : State) : Result :=
  s.does fun d =>
    match d.pow.confirmDeadline with
    | none => d
    | some t =>
      let d1 := onPow (fun p => { p with confirmDeadline := none }) (arrive t d)
      let b := d1.pow.bootedB
      if d1.node.profile ≠ 4 && d1.pow.agentReady && (partOf d1 b).state = .trial then
        let d2 := onPart b (fun p => { p with state := .confirmed }) d1
        raise evImageConfirmed noInst { d2 with sec := { d2.sec with fwVersion := max d2.sec.fwVersion (partOf d2 b).security } }
      else d1

/-! ### The boot (R471, R481, R483, R484) -/

/-- The boot ROM selects; without a candidate islands 0 to 39 return to reset and the selection repeats every 10 s (R484).
DESIGN CHOICE, unsafe (log entry 91). -/
def runSelection (d : Dev) : Dev :=
  match selectImage d with
  | (d1, true) => onPow (fun p => { p with readyDeadline := some (d1.now + readyTime d1), selectRetry := none }) d1
  | (d1, false) =>
    let d2 := resetIslands (wakePhys d1) d1
    onPow (fun p => { p with
      bootStep := 2, selectRetry := some (d1.now + 10 * sNs), railDeadline := d1.pow.railDeadline, bypassA := false, bypassB := false
      wakeDeadline := none }) d2

/-- Step 3 of R483; a wake from Standby starts the retained firmware without a selection, and a control complex that the
sequencer holds stays in reset (R492). DESIGN CHOICE, unsafe (log entry 91); DESIGN CHOICE, unsafe (log entry 92). -/
def bootStep3 (d : Dev) : Dev :=
  let d1 := hostBoot (leaveReset d)
  let d2 := setReg 0x2D01 3 d1.node.vddio (setReg 0x2D01 4 d1.node.vcore d1)
  if d.pow.seqState = .recoveryHeld then d2
  else if d.pow.bootCause = 6 then onPow (fun p => { p with
    readyDeadline := some (d2.now + readyTime d2)
    confirmDeadline := if (partOf d2 p.bootedB).state = .trial then some (d2.now + setting d2 0x2D03 4 * sNs) else none }) d2
  else runSelection d2

/-- PG_CORE is high: 0.5 ms later step 3 (R471, R483). DESIGN CHOICE, unsafe (log entry 92). -/
def coreGood (d : Dev) : Dev :=
  let d1 := onPow (fun p => { p with pgCore := true, railDeadline := none, bootStep := 2 }) d
  bootStep3 (arrive (d1.now + 500 * usNs) d1)

/-- A boot starts at step 1; rails that stand already need no rise (R483, R487). DESIGN CHOICE, unsafe (log entry 92). -/
def bootFrom (cause : Nat) (d : Dev) : Dev :=
  let d1 := startBoot cause d
  if d1.pow.pgCore then coreGood d1 else d1

/-- PG_CORE_RISE (R471, R483). -/
def execPgCoreRise (s : State) : Result :=
  s.does fun d =>
    if d.pow.state = .booting && d.pow.bootStep = 1 && d.pow.railCore && !d.pow.pgCore then coreGood d
    else if d.pow.railCore then onPow (fun p => { p with pgCore := true }) d
    else d

/-- PG_IO_RISE (R471, R483). -/
def execPgIoRise (s : State) : Result :=
  s.does fun d =>
    if d.pow.railDdr && !d.pow.pgIo then
      onPow (fun p => { p with pgIo := true, railDeadline := if p.bootStep = 1 then p.railDeadline else none }) d
    else d

/-- RAIL_ENABLE_TIMEOUT (R471). -/
def execRailEnableTimeout (s : State) : Result :=
  s.does fun d =>
    match d.pow.railDeadline with
    | none => d
    | some t =>
      let d1 := arrive t d
      let back := d1.pow.wakeDeadline
      let d2 := dropRails (resetIslands (wakePhys d1) d1)
      let d3 := onPow (fun p => { p with bootStep := 1, railRetry := some (d1.now + sNs), wakeDeadline := back }) d2
      raise evRailRetry noInst (bump 0x2D05 0x0A d3)

/-- RAIL_ENABLE_RETRY (R471). -/
def execRailEnableRetry (s : State) : Result :=
  s.does fun d =>
    match d.pow.railRetry with
    | none => d
    | some t =>
      let d1 := arrive t d
      onPow (fun p => { p with
        railRetry := none, railCore := true, railDeadline := some (d1.now + 20 * msNs), enablesFellAt := none }) d1

/-- IMAGE_SELECTION_RETRY (R484). DESIGN CHOICE, unsafe (log entry 91). -/
def execImageSelectionRetry (s : State) : Result :=
  s.does fun d =>
    match d.pow.selectRetry with
    | none => d
    | some t =>
      let d1 := arrive t (onPow (fun p => { p with selectRetry := none }) d)
      let io := d1.pow.pgIo
      let d2 := hostBoot (leaveReset d1)
      runSelection (onPow (fun p => { p with railDeadline := if io then none else p.railDeadline }) d2)

/-- Configuration entries that the boot load writes over what island 40 kept (R33, R48). -/
def loadStored (d : Dev) : Dev :=
  let kept := d.dict.od.filter (fun x => !isStored x.1)
  match bootCopy d with
  | some c => { d with dict := { d.dict with
      od := (c.values.filter (fun x => isStored x.1)).foldl (fun m x => Store.put odDefault m x.1 x.2) kept, mem := c.tables } }
  | none => raise ⟨13, 6, 0x81, 0⟩ noInst { d with dict := { d.dict with od := kept, mem := [] } }

/-- At boot the regulator is asked for its mode; a linear one is set to 0.80 V and read back (R473, R567). DESIGN CHOICE,
unsafe (log entry 97). -/
def pmbusBoot (d : Dev) : Dev :=
  let d1 := onPow (fun p => { p with pmbusAddr := cfg d 0x2D02 2 }) d
  if !d.pins.strapPmb then setReg 0x2D02 3 2 d1
  else if d.chip.regLinear then setReg 0x2D02 3 1 (emits [.pmbus 0x20 0, .pmbus 0x21 800, .pmbus 0x8B 0] d1)
  else raise evPmbus noInst (setReg 0x2D02 3 2 (emit (.pmbus 0x20 0) d1))

/-- The control complex has reported ready; a commit that ended while it restarted is answered (R489, R491, R498). DESIGN
CHOICE, unsafe (log entry 93). -/
def agentUp (d0 : Dev) : Dev :=
  let d := match d0.dict.owed with
    | some (src, code) => answerWrite src 0x2002 1 code (onDict (fun q => { q with owed := none }) d0)
    | none => d0
  feedWatchdog (setInt 2 (onPow (fun p => { p with agentReady := true, readyDeadline := none }) d))

/-- Step 8 of R483: stored entries are loaded, a boot without a spare is reported (R151), and the copies marked for defaults are used up (R48, R49). -/
def bootStep8 (d : Dev) : Dev :=
  let d1 := loadStored d
  let d2 : Dev := { d1 with dict := { d1.dict with copy0 := { d1.dict.copy0 with marked := false }, copy1 := { d1.dict.copy1 with marked := false } } }
  let d3 := onlyIf (d2.fab.spare.isNone) (raise evNoSpare noInst) (agentUp d2)
  pmbusBoot (onPow (fun p => { p with bootStep := 8 }) d3)

/-- CONTROL_COMPLEX_READY (R483, R489, R491). -/
def execControlComplexReady (s : State) : Result :=
  s.does fun d =>
    if d.pow.agentReady || d.pow.readyDeadline.isNone then d
    else
      let again := d.pow.seqState ≠ .watching
      let d1 := if d.pow.booted then agentUp d else if d.pow.bootStep = 3 then bootStep8 d else d
      if !d1.pow.agentReady then d1
      else
        let d2 := if again then
            onPow (fun p => { p with
              stableDeadline := some (d1.now + setting d1 0x2D03 3 * sNs)
              seqState := if p.seqState = .holding then .watching else p.seqState }) d1
          else d1
        let d3 := onlyIf (d.pow.seqState = .holding) (raise evRestarted noInst) d2
        plannerGate (settleSafe d3)

/-! ### Supplies (R474 to R478) -/

/-- The lowest reading of a rail since boot. DESIGN CHOICE, safe (log entry 90). -/
def noteMinimum (sub mv : Nat) (d : Dev) : Dev := if mv < cfg d 0x2D01 sub then setReg 0x2D01 sub mv d else d

/-- SUPPLY_WARNING (R23, R475, R476). -/
def execSupplyWarning (core : Bool) (mv : BitVec 16) (s : State) : Result :=
  s.does fun d =>
    if !d.pow.porN || d.pow.state = .resetHeld || (core && !d.pow.railCore) then d
    else
      let v := mv.toNat
      let d1 := noteMinimum (if core then 4 else 3) v (onNode (fun x => if core then { x with vcore := v } else { x with vddio := v }) d)
      if (if core then d.pow.warnCore else d.pow.warnIo) then d1
      else
        let d2 := onPow (fun p => if core then { p with warnCore := true } else { p with warnIo := true, warnIoAt := some d.now }) d1
        let d3 := raise evSupplyWarning (if core then 1 else 0) (bump 0x2D05 (if core then 2 else 1) (setInt 3 (leaveFast d2)))
        closeLogs (if core then 2 else 1) d3

/-- SUPPLY_WARNING_CLEAR: the level that the rail has returned to is free (R474, R475). DESIGN CHOICE, safe (log entry 90).
-/
def execSupplyWarningClear (core : Bool) (s : State) : Result :=
  s.does fun d =>
    if core && d.pow.warnCore then
      let d1 := onNode (fun x => { x with vcore := 710 + Config.freeNat d.fresh % 171 }) (draw (onPow (fun p => { p with warnCore := false }) d))
      if d.pow.warnIo then d1 else reopenRecorder d1
    else if !core && d.pow.warnIo then
      let d1 := onNode (fun x => { x with vddio := 3100 + Config.freeNat d.fresh % 366 })
        (draw (onPow (fun p => { p with warnIo := false, warnIoAt := none }) d))
      if d.pow.warnCore then d1 else reopenRecorder d1
    else d

/-- A supply reset (R477, R478, R496). -/
def supplyResetFor (cause : Nat) (d : Dev) : Dev :=
  let up := match d.pow.warnIoAt with
    | some t => if cause = 2 then (d.now - t) / usNs else 0
    | none => 0
  let d1 := dropRails (resetIslands noPhys (abandonSleep (setReg 0x2D01 5 up d)))
  let d2 := onPow (fun p => { p with
    state := .resetHeld, bootCause := cause, bypassA := false, bypassB := false, warnIoAt := none, warnCore := false }) d1
  let d3 : Dev := { d2 with pins := { d2.pins with gpioLive := false, gpioHold := 0, gpioHeld := 0 } }
  raise (if cause = 4 then evPowerGoodLoss else evSupplyReset) noInst (bump 0x2D05 (if cause = 4 then 4 else 3) d3)

/-- The rails that can cause a supply reset now: VDD_CORE and the power-good inputs only while RAIL_EN_CORE is high. -/
def resetCounts (r : Rail) (d : Dev) : Bool :=
  d.pow.porN && !d.pins.testMode && d.pow.state ≠ .resetHeld && (r = .vddioA || d.pow.railCore)

/-- Cause of a rail (R478). -/
def causeOf (r : Rail) : Nat :=
  match r with
  | .vddioA => 2
  | .vddCore => 3
  | .pgCore | .pgIo => 4

/-- SUPPLY_RESET (R477). -/
def execSupplyReset (rail : Rail) (s : State) : Result :=
  s.does fun d => if resetCounts rail d then supplyResetFor (causeOf rail) d else d

/-- POWER_GOOD_LOSS (R477). -/
def execPowerGoodLoss (io : Bool) (s : State) : Result :=
  s.does fun d => if resetCounts (if io then .pgIo else .pgCore) d then supplyResetFor 4 d else d

/-- SUPPLY_RETURN (R477, R487): at least 10 ms after the enables fell. DESIGN CHOICE, safe (log entry 90). -/
def execSupplyReturn (s : State) : Result :=
  s.does fun d =>
    if d.pow.state = .resetHeld && d.pow.porN && !d.pins.testMode then
      let d1 := match d.pow.enablesFellAt with | some t => arrive (t + 10 * msNs) d | none => d
      bootFrom d1.pow.bootCause (onPow (fun p => { p with warnIo := false })
        (onNode (fun x => { x with vddio := 3100 + Config.freeNat d.fresh % 366, vcore := 800 }) (draw d1)))
    else d

/-- POR_N_ASSERTED: everything is reset but what eMMC, Tarn store, fuses and the board hold (R478, R487). -/
def execPorNAsserted (s : State) : Result :=
  s.does fun d =>
    let recd : RecS := { RecS.reset with log := d.recd.log, summary := d.recd.summary, tarn := d.recd.tarn }
    { Dev.reset with
      fresh := d.fresh, chip := d.chip, recd := recd
      dict := { DictS.reset with copy0 := d.dict.copy0, copy1 := d.dict.copy1 }
      load := { LoadsS.reset with comp := d.load.comp.map (fun c => { Companion.reset with keep := c.keep }) }
      host := { HostS.reset with perst := d.host.perst }
      health := { HealthS.reset with copy0 := d.health.copy0, copy1 := d.health.copy1 }
      sec := { SecS.reset with lifecycle := d.sec.lifecycle, positions := d.sec.positions, fwVersion := d.sec.fwVersion, keysZeroised := d.sec.keysZeroised }
      time := { TimeS.reset with ppsInLevel := d.time.ppsInLevel, tevtInLevel := d.time.tevtInLevel }
      pins := { PinsS.reset with gpioIn := d.pins.gpioIn }
      pow := { PowerS.reset with partA := d.pow.partA, partB := d.pow.partB } }

/-- POR_N_RELEASED: straps are latched and the boot starts, but for production test in Open (R483, R567, R568). -/
def execPorNReleased (straps : BitVec 4) (test : Bool) (s : State) : Result :=
  s.does fun d =>
    if d.pow.porN then d
    else
      let inTest := test && d.sec.lifecycle = 1
      let d1 : Dev := { onPow (fun p => { p with porN := true }) d with pins := { d.pins with
        strapPcie := straps.getLsbD 0, strapHsp := straps.getLsbD 1, strapW8 := straps.getLsbD 2, strapPmb := straps.getLsbD 3
        testMode := inTest } }
      if inTest then d1 else bootFrom 1 d1

/-! ### Warm reset (R478, R501) -/

/-- A warm reset: the counters of 0x2D05 clear, but for the one of warm resets (R478, R503). -/
def warmResetNow (d : Dev) : Dev :=
  let n := min 0xFFFFFFFF (cfg d 0x2D05 5 + 1)
  let d1 := resetIslands noPhys (abandonSleep d)
  let d2 := setReg 0x2D05 5 n (forEach (List.range 10) (fun i => setReg 0x2D05 (i + 1) 0) d1)
  let d3 : Dev := { d2 with pins := { d2.pins with gpioLive := false, gpioHold := 0, gpioHeld := 0 } }
  bootFrom 5 d3

/-- A warm reset is refused (R498). -/
def warmRefused (d : Dev) : Bool := cfg d 0x2D04 7 = 2 || cfg d 0x2D04 7 = 3 || d.sleep.state = .committing

/-! ### Bypass drives (R495, R496) -/

/-- BYPASS_REFRESH_LOSS (R495). -/
def execBypassRefreshLoss (laneB : Bool) (s : State) : Result :=
  s.does (onPow (fun p => if laneB then { p with bypassB := false } else { p with bypassA := false }))

/-- WAKE_BOOT_TIMEOUT (R496). -/
def execWakeBootTimeout (s : State) : Result :=
  s.does fun d =>
    match d.pow.wakeDeadline with
    | some t => onPow (fun p => { p with wakeDeadline := none, bypassA := false, bypassB := false }) (arrive t d)
    | none => d

/-- HEARTBEAT_LOSS (R28). -/
def execHeartbeatLoss (s : State) : Result :=
  s.does fun d =>
    if d.pow.agentReady then closeLogs 3 (onPow (fun p => { p with island40Failed := true }) d) else d

/-- PMBUS_ALERT (R473, R567). DESIGN CHOICE, unsafe (log entry 97). -/
def execPmbusAlert (status : BitVec 16) (s : State) : Result :=
  s.does fun d =>
    if d.pow.railCore && d.pins.strapPmb then
      raiseP evPmbus noInst (leBytes 2 status.toNat) (emit (.pmbus 0x79 0) d)
    else d

/-! ### Installing firmware (R485, R502) -/

/-- Header, signature block and code of an image as written to 0x2D04:05 (R480, R536). -/
def firmwareContent (bs : List Byte) : List Byte :=
  slice bs 0 16 ++ slice bs 18 14 ++ (bs.take (leNat (slice bs 12 4))).drop 4096

/-- Result of verifying the image: 0, or the abort code (R485, R537, R538). -/
def firmwareVerdict (d : Dev) (bs : List Byte) : Nat :=
  let block := slice bs 32 blockSize
  let n := leNat (slice bs 12 4)
  if !(leNat (slice bs 0 4) = 0x4B5A4657 && n ≤ bs.length && 4096 ≤ n && blockOk d 0 (firmwareContent bs) block &&
      d.sec.fwVersion ≤ blockVersion block) then 0x0F000007
  else if leNat (slice bs 20 4) ≠ 0x8840 || leNat (slice bs 9 1) ≠ bitsOf (partOf d d.pow.bootedB).release.toNat 15 8 then 0x0F000008
  else 0

/-- The image as the other partition will hold it: new, no trial boots, the highest generation (R485). -/
def firmwarePartition (d : Dev) (bs : List Byte) : Partition :=
  { magicOk := true, generation := max d.pow.partA.generation d.pow.partB.generation + 1, release := BitVec.ofNat 32 (leNat (slice bs 8 4))
    length := leNat (slice bs 12 4), state := .new, trialBoots := 0, product := leNat (slice bs 20 4), loads := true
    security := blockVersion (slice bs 32 blockSize) }

/-- A verified image begins to be written: the other partition has no valid header until the end (R485). -/
def firmwareStart (d : Dev) : Dev :=
  let p := firmwarePartition d d.pow.fwImage
  setReg 0x2D04 7 3 (onPart (!d.pow.bootedB) (fun x => { x with magicOk := false }) (onPow (fun q => { q with fwWriting := some p }) d))

/-- The image is abandoned; a write in progress leaves the partition without a valid header (R485, R502). -/
def firmwareDrop (d : Dev) : Dev := setReg 0x2D04 7 0 (onPow (fun q => { q with fwWriting := none, fwImage := [] }) d)

/-- FIRMWARE_WRITE_END (R485, R502). -/
def execFirmwareWriteEnd (s : State) : Result :=
  s.does fun d =>
    match d.pow.fwWriting with
    | none => d
    | some p =>
      let d1 := onPow (fun q => { q with fwWriting := none }) d
      if emmcReady d1 then setReg 0x2D04 7 4 (onPart (!d1.pow.bootedB) (fun _ => p) d1) else setReg 0x2D04 7 7 d1

/-! ### Reads (R499 to R502, R570) -/

/-- Digits of a number in ASCII. -/
def asciiOf (n : Nat) : List Byte := (toString n).toList.map (fun c => BitVec.ofNat 8 c.toNat)

/-- The computed entries of chapters 16 and 19, and the firmware release of R4. -/
def powerRead (d : Dev) (idx sub : Nat) : Option Value :=
  let bit := fun (b : Bool) (i : Nat) => if b then 2 ^ i else 0
  let p := d.pow
  let gen := fun (x : Partition) => if x.magicOk then x.generation else 0
  match idx, sub with
  | 0x100A, 0 =>
    let r := (partOf d p.bootedB).release.toNat
    some (.bytes (asciiOf (bitsOf r 15 8) ++ [0x2E] ++ asciiOf (bitsOf r 7 0) ++ [0x2E] ++ asciiOf (bitsOf r 23 16)))
  | 0x2D00, 1 => some (.num (match p.state with | .booting => 1 | .active => 2 | .standby => 3 | .sleep => 4 | .resetHeld => 5))
  | 0x2D00, 2 => some (.num (bit p.warnIo 0 + bit p.warnCore 1 + bit p.pgCore 2 + bit p.pgIo 3))
  | 0x2D00, 3 => some (.num p.bootCause)
  | 0x2D00, 5 => some (.num (if p.bootedB then 1 else 0))
  | 0x2D00, 6 => some (.num (match p.seqState with | .watching => 0 | .holding => 1 | .recovery => 2 | .recoveryHeld => 3))
  | 0x2D00, 7 => some (.num p.episode)
  | 0x2D00, 8 => some (.num p.stale.toNat)
  | 0x2D00, 0x0A => some (.num (if p.latch then 1 else 0))
  | 0x2D01, 1 => some (.num d.node.vddio)
  | 0x2D01, 2 => some (.num d.node.vcore)
  | 0x2D04, 1 => some (.num (gen p.partA))
  | 0x2D04, 2 => some (.num (ImageState.code p.partA.state))
  | 0x2D04, 3 => some (.num (gen p.partB))
  | 0x2D04, 4 => some (.num (ImageState.code p.partB.state))
  | 0x2D06, 3 =>
    let dir := cfg d 0x2D06 1
    let out := cfg d 0x2D06 2
    let level := Nat.lor (Nat.land dir out) ((List.range 6).map (fun i => if !bitOf dir i && d.pins.gpioIn.getLsbD i then 2 ^ i else 0)).sum
    some (.num (level + bit p.railCore 6 + bit p.railDdr 7))
  | _, _ => none

end Sys2Proof.Machine
end

