-- ==== Sys2Proof/Machine/Security.lean ====
section
/-! DEFINITION. Lifecycle, keys, the debug port and the random source (chapter 18). -/

namespace Sys2Proof.Machine

/-- Event "KDA session accepted with role 2 or 3". -/
def evSession : Ev := ⟨15, 3, 1, 0⟩
/-- Event "KDA lockout begun". -/
def evLockout : Ev := ⟨15, 5, 3, 0⟩
/-- Event "debug authentication failed". -/
def evAuthFailed : Ev := ⟨15, 5, 3, 1⟩
/-- Event "lifecycle changed". -/
def evLifecycle : Ev := ⟨15, 6, 4, 0⟩
/-- Event "integrator key rotated". -/
def evRotatedKey : Ev := ⟨15, 6, 4, 1⟩
/-- Event "random source failure". -/
def evRandom : Ev := ⟨15, 7, 5, 0⟩

/-- Changes the security island. -/
def onSec (f : SecS → SecS) (d : Dev) : Dev := { d with sec := f d.sec }

/-- `n` bytes of the random source; their values are free (R540). -/
def randomField (n : Nat) (d : Dev) : List Byte := (Config.randomBytes d.fresh n ++ List.replicate n 0).take n

/-! ### Grants (R547 to R549) -/

/-- Halted cores resume; the watchdog starts from zero (R548, R552). -/
def resumeCores (d : Dev) : Dev :=
  if d.sec.halted then
    let d1 := onSec (fun s => { s with halted := false }) d
    settleSafe (if d1.pow.agentReady then feedWatchdog d1 else d1)
  else d

/-- Islands 0 to 39 stay in reset until a warm reset, after a grant in which scan began (R548). -/
def holdIslands (d : Dev) : Dev :=
  onPow (fun p => { p with state := .booting }) (resetIslands noPhys (abandonSleep d))

/-- The grant in force ends (R547, R548). -/
def endGrant (d : Dev) : Dev :=
  if d.sec.level = 0 then d
  else
    let scan := d.sec.scanStarted
    let d1 := resumeCores (raise evGrantEnded noInst (onSec (fun s => { s with level := 0, grantEnd := none }) d))
    if scan then holdIslands d1 else d1

/-- A level may be granted to a token of a slot in the present lifecycle and power state (R547, R549). DEDUCED, unsafe (log
entry 103). -/
def levelAllowed (d : Dev) (level slot : Nat) : Bool :=
  let active := d.pow.state = .active
  let booting := d.pow.state = .booting
  match d.sec.lifecycle with
  | 1 => if level = 3 then active || booting else active
  | 2 => active && level ≤ cfg d 0x2F04 1 && (if level = 3 then slot = 1 else slot = 2)
  | 3 => (active || booting) && slot = 1
  | _ => false

/-- The challenge and the token's head, over which the token is signed (R547). -/
def tokenSigned (d : Dev) (token : List Byte) : List Byte := d.sec.nonce ++ token.take 80

/-- A token verifies: its fields, and its signature except in Open, where none is asked for (R547, R549). DEDUCED, unsafe
(log entry 103). -/
def tokenOk (d : Dev) (token : List Byte) : Bool :=
  let level := leNat (slice token 0 1)
  let slot := leNat (slice token 1 1)
  let minutes := leNat (slice token 2 2)
  let key := slice token 16 64
  token.length = 144 && 1 ≤ level && level ≤ 3 && (slot = 1 || slot = 2) && 1 ≤ minutes && minutes ≤ 480 &&
    leNat (slice token 4 12) = 0 && levelAllowed d level slot &&
    (d.sec.lifecycle = 1 || (!d.sec.nonce.isEmpty && signerMatches d slot key &&
      Config.ecdsaVerify key (tokenSigned d token) (slice token 80 64)))

/-- A level is granted (R547, R548). DEDUCED, unsafe (log entry 103). -/
def grantLevel (level minutes : Nat) (d : Dev) : Dev :=
  let d0 := if level < d.sec.level then endGrant d else d
  if d0.pow.state ≠ d.pow.state then d0
  else
    let d1 := raise evGranted level (onSec (fun s => { s with level := level, grantEnd := some (d0.now + minutes * 60 * sNs) }) d0)
    if level = 3 && d1.sec.lifecycle = 2 then keepSessions (fun _ => false) d1 else d1

/-- An authentication fails; after 3 within 60 s responses are ignored for 60 s (R547). -/
def authFails (d : Dev) : Dev :=
  let keep := d.sec.authFails.filter (fun t => d.now < t + 60 * sNs) ++ [d.now]
  raise evAuthFailed noInst (bump 0x2F05 3 (onSec (fun s => { s with
    authFails := if 3 ≤ keep.length then [] else keep
    authLockEnd := if 3 ≤ keep.length then some (d.now + 60 * sNs) else s.authLockEnd }) d))

/-- The first EXTEST or SCAN_TEST of a grant: the bypass drives are refreshed no more, and SAFE_N goes low (R548). -/
def startScan (d : Dev) : Dev := if d.sec.scanStarted then d else settleSafe (onSec (fun s => { s with scanStarted := true }) d)

/-- Selects an instruction that needs a level; above the granted level BYPASS is selected (R546). DESIGN CHOICE, unsafe (log
entry 102). -/
def selectIr (need : Nat) (i : DebugIr) (f : Dev → Dev) (d : Dev) : Dev :=
  if need ≤ d.sec.level then f (onSec (fun s => { s with ir := i }) d) else onSec (fun s => { s with ir := .bypass }) d

/-- EXTEST (R546, R548). -/
def execExtest (s : State) : Result := s.does (selectIr 3 .extest startScan)

/-- IDCODE (R546). -/
def execIdcode (s : State) : Result := s.does (selectIr 0 .idcode (emit (.debug (leBytes 4 0x18840A77))))

/-- SAMPLE_PRELOAD (R546). -/
def execSamplePreload (s : State) : Result := s.does (selectIr 3 .samplePreload id)

/-- AUTH_CHALLENGE: nonce, node identity, lifecycle and level; refused while the random source fails (R540, R547). -/
def execAuthChallenge (s : State) : Result :=
  s.does (selectIr 0 .authChallenge fun d =>
    if !d.sec.randomOk then emit (.debug (leBytes 4 0x0F00000A)) d
    else
      let c := randomField 32 d ++ beBytes 6 d.chip.ident.toNat ++ leBytes 1 d.sec.lifecycle ++ leBytes 1 d.sec.level
      emit (.debug c) (onSec (fun s => { s with nonce := c }) (draw d)))

/-- AUTH_RESPONSE (R547). DEDUCED, unsafe (log entry 103). -/
def execAuthResponse (token : List Byte) (s : State) : Result :=
  s.does (selectIr 0 .authResponse fun d =>
    if d.sec.authLockEnd.isSome then d
    else if tokenOk d token then grantLevel (leNat (slice token 0 1)) (leNat (slice token 2 2)) d
    else authFails d)

/-- DEBUG_ACCESS: reading needs level 1, halting, resuming and writing level 2 (R548). DESIGN CHOICE, unsafe (log entry 102).
-/
def execDebugAccess (op : DebugOp) (s : State) : Result :=
  s.does (selectIr 1 .debugAccess fun d =>
    match op with
    | .observe => d
    | .halt =>
      if 2 ≤ d.sec.level then settleSafe (onPow (fun p => { p with watchdogDeadline := none }) (onSec (fun s => { s with halted := true }) d)) else d
    | .resume => if 2 ≤ d.sec.level then resumeCores d else d
    | .write => d)

/-- SCAN_TEST (R546, R548). -/
def execScanTest (s : State) : Result := s.does (selectIr 3 .scanTest startScan)

/-- BYPASS (R546). -/
def execBypass (_code : BitVec 5) (s : State) : Result := s.does (selectIr 0 .bypass id)

/-- DEBUG_PORT_RESET (R546). -/
def execDebugPortReset (s : State) : Result := s.does (onSec (fun s => { s with ir := .idcode }))

/-- GRANT_EXPIRY (R547, R552). -/
def execGrantExpiry (s : State) : Result :=
  s.does fun d => match d.sec.grantEnd with
    | some t => endGrant (arrive t d)
    | none => d

/-- DEBUG_LOCKOUT_END (R547). -/
def execDebugLockoutEnd (s : State) : Result :=
  s.does fun d => match d.sec.authLockEnd with
    | some t => onSec (fun s => { s with authLockEnd := none, authFails := [] }) (arrive t d)
    | none => d

/-- RANDOM_SOURCE_FAILURE (R540). -/
def execRandomSourceFailure (s : State) : Result :=
  s.does fun d => raise evRandom noInst (bump 0x2F05 5 (onSec (fun s => { s with randomOk := false }) d))

/-- RANDOM_SOURCE_RECOVERY (R540). -/
def execRandomSourceRecovery (s : State) : Result := s.does (onSec (fun s => { s with randomOk := true }))

/-- KDA_LOCKOUT_END (R544). -/
def execKdaLockoutEnd (s : State) : Result :=
  s.does fun d => match d.sec.proofLockEnd with
    | some t => onSec (fun s => { s with proofLockEnd := none, proofFails := [] }) (arrive t d)
    | none => d

/-! ### Lifecycle (R533, R534, R551) -/

/-- A lifecycle command or return token is not allowed in the present state (R551). -/
def lifecycleBusy (d : Dev) : Bool := d.sleep.state = .committing || cfg d 0x2D04 7 = 2 || cfg d 0x2D04 7 = 3

/-- Secured is refused (R534). -/
def secureRefused (d : Dev) : Bool :=
  d.sec.lifecycle ≠ 1 || (cfgBytes d 0x2F01 1).isEmpty || d.node.profile = 4 || lifecycleBusy d

/-- Open becomes Secured: the integrator key is fused into position 0, every grant is dropped (R534). DESIGN CHOICE, unsafe
(log entry 96). -/
def secureNow (d : Dev) : Dev :=
  endGrant (raise evLifecycle 2 (onSec (fun s => { s with lifecycle := 2, positions := [(cfgBytes d 0x2F01 1, false)] }) d))

/-- Void is refused (R534). -/
def voidRefused (d : Dev) : Bool := d.sec.lifecycle = 4 || lifecycleBusy d

/-- A dictionary key of a role key's entries (R555). -/
def isRoleKey (k : Nat) : Bool := 0x2F10 ≤ k / 256 && k / 256 ≤ 0x2F17

/-- The role keys of the dictionary and, where asked, of the saved copies are cleared. -/
def clearRoleKeys (copies : Bool) (d : Dev) : Dev :=
  let drop := fun (l : List (Nat × Value)) => l.filter (fun x => !isRoleKey x.1)
  { d with dict := { d.dict with
    od := drop d.dict.od
    copy0 := if copies then resealed { d.dict.copy0 with values := drop d.dict.copy0.values } else d.dict.copy0
    copy1 := if copies then resealed { d.dict.copy1 with values := drop d.dict.copy1.values } else d.dict.copy1 } }
where
  /-- A copy that was written keeps a CRC of its own. -/
  resealed (c : CfgCopy) : CfgCopy := if c.magic = 0x4B5A4346 then c.seal else c

/-- Every key is zeroised (R534). DESIGN CHOICE, unsafe (log entry 96). -/
def voidKeys (d : Dev) : Dev :=
  raise evLifecycle 4 (clearRoleKeys true (onSec (fun s => { s with lifecycle := 4, positions := [], keysZeroised := true }) d))

/-- Both copies are marked, so that the next boot uses defaults (R49). -/
def markDefaults (d : Dev) : Dev :=
  { d with dict := { d.dict with copy0 := { d.dict.copy0 with marked := true }, copy1 := { d.dict.copy1 with marked := true } } }

/-- Secured becomes Returned (R534): `keep` says which KDA sessions stay. -/
def returnNow (keep : KdaSession → Bool) (d : Dev) : Dev :=
  let d1 := onSec (fun s => { s with lifecycle := 3, positions := s.positions.map (fun p => (p.1, true)) }) d
  let d2 := markDefaults (clearRoleKeys false (raise evLifecycle 3 d1))
  keepSessions keep d2

/-- A return token verifies: the whole token is the signature block of the node identity (R536). -/
def returnTokenOk (d : Dev) (token : List Byte) : Bool := blockOk d 1 (beBytes 6 d.chip.ident.toNat) token

/-- A commit of a verified image carries a new integrator key in Secured: it is fused into the next position and the one
before is revoked (R539). -/
def rotateKey (key : List Byte) (d : Dev) : Dev :=
  raise evRotatedKey noInst (onSec (fun s => { s with positions := s.positions.map (fun p => (p.1, true)) ++ [(key, false)] }) d)

/-- The computed entries of chapter 18 (R553, R554). -/
def secRead (d : Dev) (idx sub : Nat) : Option Value :=
  let s := d.sec
  match idx, sub with
  | 0x2F00, 1 => some (.num s.lifecycle)
  | 0x2F01, 1 => if s.lifecycle = 1 then none else some (.bytes ((integratorKey d).getD []))
  | 0x2F01, 2 => some (.num (if s.lifecycle = 2 then s.positions.length - 1 else 0xFF))
  | 0x2F01, 3 => some (.num (4 - s.positions.length))
  | 0x2F01, 5 => some (.num s.fwVersion)
  | 0x2F03, 1 => some (.bytes (if s.keysZeroised then List.replicate 64 0 else (Config.devicePublicKey ++ List.replicate 64 0).take 64))
  | 0x2F03, 2 => some (.bytes (Config.deviceCertificate.take 1024))
  | 0x2F04, 2 => some (.num s.level)
  | 0x2F04, 3 => some (.num (remaining s.grantEnd sNs d))
  | _, _ => none

end Sys2Proof.Machine
end

