-- ==== Sys2Proof/Machine/Reads.lean ====
section
/-! DEFINITION. What a read of the dictionary returns (R38): the committed value, or the value the device computes for a
status entry, and the segments of the large tables with the bytes that the device fills in (R69, R127 to R134, R242). -/

namespace Sys2Proof.Machine

/-- A number as an entry's value. -/
def numV (n : Nat) : Option Value := some (.num n)

/-- A truth value as an entry's value. -/
def boolV (b : Bool) : Option Value := some (.num (if b then 1 else 0))

/-- A mask of the numbers below `n` for which something holds. -/
def maskOf (n : Nat) (f : Nat → Bool) : Nat := ((List.range n).map (fun i => if f i then 2 ^ i else 0)).sum

/-! ### Chapters 00 to 02 -/

/-- A CAN controller is error-passive or bus-off (R62). -/
def canTroubled (d : Dev) : Bool :=
  allCan.any (fun c => match d.can[c].state with
    | .errorPassive | .busOff | .recovering => true
    | _ => false)

/-- The error register 0x1001:00 (R62). -/
def errorRegister (d : Dev) : Nat :=
  let r := bitAt 2 (d.pow.warnIo || d.pow.warnCore) + bitAt 3 (decide (gradeMax d - 100 ≤ d.node.junction)) +
    bitAt 4 (canTroubled d || backbonePorts.any (fun p => !portUp d p)) + bitAt 7 (d.node.profile = 4 || d.fab.spare.isNone)
  r + bitAt 0 (r ≠ 0)

/-- 0x2002:05 (R63). -/
def ownerCode : Option Session → Nat
  | none => 0
  | some (.sdo c) => 0x10000000 + c
  | some (.kda id) => 0x20000000 + id.toNat
  | some .pcie => 0x30000000
  | some .serial => 0x40000000

/-- 0x2002:04 (R46, R63). DESIGN CHOICE, unsafe (log entry 106). -/
def commitStatus (d : Dev) : Nat :=
  match d.dict.commit with
  | some c => if c.atBoundary then 3 else 2
  | none => if d.dict.heldCommit.isSome then 1 else if d.dict.lastRefused then 4 else 0

/-- The computed entries of chapters 00 to 02 (R4, R62 to R66). DESIGN CHOICE, unsafe (log entry 106). -/
def agentRead (d : Dev) (idx sub : Nat) : Option Value :=
  match idx, sub with
  | 0x1001, 0 => numV (errorRegister d)
  | 0x1018, 2 => numV (productCode d)
  | 0x1018, 4 => numV (d.chip.ident.toNat % 2 ^ 32)
  | 0x2002, 1 => numV d.dict.epoch
  | 0x2002, 2 => numV d.dict.fenceToken
  | 0x2002, 3 => numV d.dict.staged.length
  | 0x2002, 4 => numV (commitStatus d)
  | 0x2002, 5 => numV (ownerCode d.dict.owner)
  | 0x2010, 0x11 => numV d.dict.sessions.length
  | 0x2011, 3 => numV d.dict.imageStatus
  | 0x2011, 5 => numV d.dict.image.length
  | _, _ => none

/-! ### Chapter 03 -/

/-- Identities in ascending order (R115). -/
def sortIdents : List Word48 → List Word48
  | [] => []
  | x :: xs => ins x (sortIdents xs)
where
  /-- Puts one identity into its place. -/
  ins (x : Word48) : List Word48 → List Word48
    | [] => [x]
    | y :: ys => if x.toNat ≤ y.toNat then x :: y :: ys else y :: ins x ys

/-- First node number, count and row of a consist in the directory (R117). DEDUCED, safe (log entry 26); DESIGN CHOICE,
unsafe (log entry 112). -/
def consistRows (d : Dev) (k : Nat) : List (Nat × DirNode) :=
  (d.inaug.now.dir.zipIdx 1).filterMap (fun (x, n) => if x.consist = k then some (n, x) else none)

/-- The computed entries of chapter 03 (R112 to R117). -/
def inaugRead (d : Dev) (idx sub : Nat) : Option Value :=
  let i := d.inaug
  let n := i.now
  if idx = 0x2101 then
    match sub with
    | 1 => numV i.state.code
    | 2 => boolV i.standard
    | 3 => numV n.topo.toNat
    | 4 => numV n.epoch
    | 5 => numV n.node
    | 6 => numV n.consist
    | 7 => numV (bitAt 0 n.inverse + bitAt 1 n.consistInverse)
    | 8 => numV n.vehicle
    | 9 => numV i.leader.toNat
    | 0x0A => numV n.dir.length
    | 0x0B => numV n.consists
    | 0x0C => numV n.refEnd.toNat
    | 0x0E => numV (if n.node = 0 then 0 else 0x0A800000 + n.node)
    | 0x0F => numV i.round.toNat
    | 0x10 => numV (maskOf 4 (fun p => (i.ports[Fin.ofNat 4 p]).heard.isSome))
    | _ => none
  else if idx = 0x2104 then
    match sub with
    | 2 => numV (remaining i.overlapEnd msNs d)
    | 3 => numV i.prevEpoch
    | 4 => boolV i.overlapEnd.isSome
    | _ => none
  else if idx = 0x2105 then
    match sub with
    | 2 => boolV (inhibitActive d)
    | 3 => numV i.heldCouplings.length
    | 4 => some (.bytes ((sortIdents (i.requesters.map (·.1))).flatMap (fun w => beBytes 6 w.toNat)))
    | _ => none
  else if idx = 0x2106 then
    match sub with
    | 2 => numV ((i.partner.getD 0).toNat)
    | 3 => numV i.pairState
    | _ => none
  else if 0x2141 ≤ idx && idx ≤ 0x217F then
    match n.dir[idx - 0x2141]? with
    | some x =>
      match sub with
      | 1 => numV x.ident.toNat
      | 2 => numV x.vehicle
      | 3 => numV x.consist
      | 4 => numV (bitAt 0 x.inverse + bitAt 1 x.consistInverse + bitAt 2 x.primary + bitAt 3 x.held)
      | 5 => numV x.vehicleId.toNat
      | _ => none
    | none => none
  else if 0x2181 ≤ idx && idx ≤ 0x21A0 then
    match consistRows d (idx - 0x2180) with
    | [] => none
    | (m, x) :: rest =>
      match sub with
      | 1 => some (.bytes (beBytes 16 x.consistId.toNat))
      | 2 => numV m
      | 3 => numV (rest.length + 1)
      | 4 => boolV x.consistInverse
      | _ => none
  else none

/-! ### Chapters 04 and 05 -/

/-- The computed entries of chapter 04 (R154 to R156). -/
def fabricRead (d : Dev) (idx sub : Nat) : Option Value :=
  let f := d.fab
  match idx, sub with
  | 0x2200, 1 => numV (maskOf 9 (fun s => f.active.any (fun x => x.val = s)))
  | 0x2200, 2 => numV ((f.spare.map (·.val)).getD 0xFF)
  | 0x2200, 3 => numV (maskOf 9 (fun s => f.retired.any (fun x => x.val = s)))
  | 0x2200, 4 => numV (f.engine0.code + 4 * f.engine1.code)
  | 0x2200, 5 => numV (freeCells d)
  | 0x2200, 6 => numV (poolFree d)
  | 0x2200, 7 => numV ((spillBytes d + 1023) / 1024)
  | 0x2200, 8 => boolV f.bank
  | 0x2201, 6 => numV f.learned.length
  | 0x2202, 2 => numV (transRecords d.dict.mem).length
  | 0x2205, 5 => numV (if f.spillFailed then 2 else if spillReady d then 1 else 0)
  | _, _ => none

/-- The computed entries of chapter 05 (R186). DESIGN CHOICE, unsafe (log entry 48). -/
def portRead (d : Dev) (idx sub : Nat) : Option Value :=
  if 0x2300 ≤ idx && idx < 0x2314 then
    let p : Port := Fin.ofNat 20 (idx - 0x2300)
    let t := d.ports.p[p]
    match sub with
    | 0x1D => numV t.link.code
    | 0x1E => numV (match t.link with | .disabled | .phyStart | .phyFault => 0 | _ => t.rate)
    | 0x1F => numV ((((pauseOf d p).pauseUntil.getD d.now) - d.now) / usNs)
    | 0x20 => numV (t.eq.pre + 2 ^ 8 * t.eq.main + 2 ^ 16 * t.eq.post + 2 ^ 24 * ctleNow d p)
    | _ => none
  else none

/-! ### Chapters 06 to 08 -/

/-- Code of a port role (R199). -/
def PtpRole.code : PtpRole → Nat
  | .disabled => 0
  | .master => 1
  | .slave => 2
  | .passive => 3

/-- The computed entries of chapter 06 (R218, R220, R223). -/
def timeRead (d : Dev) (idx sub : Nat) : Option Value :=
  let t := d.time
  if idx = 0x2400 then
    match sub with
    | 1 => numV t.state.code
    | 2 => numV (trainTime d)
    | 3 => numV (t.fRaw / 2 ^ 32)
    | 4 => numV (unsignedOf 64 t.offset)
    | 5 => numV (unsignedOf 32 t.rate)
    | 6 => numV t.gmIdentity.toNat
    | 7 => numV t.gmClass
    | 8 => numV t.stepsRemoved
    | 9 => numV (unsignedOf 64 t.lastStep)
    | 0x0A => numV (match t.state, t.holdSince with | .holdover, some h => (d.now - h) / msNs | _, _ => 0)
    | 0x0B => numV (unsignedOf 16 t.utcOffset)
    | 0x0C => numV ((t.slavePort.map (·.val)).getD 0xFF)
    | _ => none
  else if idx = 0x2403 then
    match sub with
    | 0x0A => numV ((t.captures.head?.map TsRecord.pack).getD 0)
    | 0x0B => numV t.captures.length
    | _ => none
  else if 0x2410 ≤ idx && idx < 0x2424 then
    let q := t.ports[Fin.ofNat 20 (idx - 0x2410)]
    match sub with
    | 2 => numV q.role.code
    | 3 => numV q.linkDelay
    | 4 => numV (unsignedOf 32 q.ratio)
    | 7 => boolV q.delayValid
    | 9 => numV ((q.txQueue.head?.map TsRecord.pack).getD 0)
    | 0x0A => numV q.txQueue.length
    | _ => none
  else none

/-- Code of a schedule state (R254). -/
def SchedState.code : SchedState → Nat
  | .off => 0
  | .waiting => 1
  | .running => 2
  | .fenced => 3
  | .localOnly => 4

/-- The image in force while the schedule comes from an image. -/
def imageInForce (d : Dev) : Option SchedImage :=
  match d.sched.state with
  | .off | .localOnly => none
  | _ => d.sched.image

/-- 0x2503:02 (R257). -/
def distState (d : Dev) : Nat :=
  match d.sched.reception with
  | some r => if r.verifying then 2 else 1
  | none => if d.sched.pending.isSome then 3 else if d.sched.lastRefused then 4 else 0

/-- The selected window of 0x2504:01 is placed in the bank in force (R259). -/
def selectedPlaced (d : Dev) : Bool := d.sched.gates.any (fun g => g.window = cfg d 0x2504 1)

/-- The computed entries of chapter 07 (R256 to R260). -/
def schedRead (d : Dev) (idx sub : Nat) : Option Value :=
  let s := d.sched
  if idx = 0x2500 then
    match sub with
    | 1 => numV s.state.code
    | 2 => numV (((imageInForce d).map (·.identity.toNat)).getD 0)
    | 3 => numV (((imageInForce d).map (·.generation)).getD 0)
    | 4 => numV ((s.pending.map (·.generation)).getD 0)
    | 5 => numV ((s.pending.map (activationOf d)).getD 0)
    | 6 => numV (((schedCycle d).map (·.1)).getD 0)
    | 7 => numV (placedWindows s.gates).length
    | 8 => numV s.lastBoundary
    | 9 => boolV s.bankOne
    | _ => none
  else if idx = 0x2503 && sub = 2 then numV (distState d)
  else if idx = 0x2504 then
    if 2 ≤ sub && sub ≤ 8 then
      numV (if selectedPlaced d then
        ((s.counters.find? (fun c => c.window = cfg d 0x2504 1)).map (fun c => c.counts[Fin.ofNat 7 (sub - 2)])).getD 0 else 0)
    else if sub = 9 then
      numV (((s.gates.find? (fun g => g.window = cfg d 0x2504 1)).map (guardNow d)).getD 0)
    else none
  else none

/-- Code of a stream state (R275). -/
def StreamState.code : StreamState → Nat
  | .off => 0
  | .waiting => 1
  | .playing => 2
  | .holding => 3
  | .sending => 4

/-- The computed entries of chapter 08 (R285, R288). -/
def strmRead (d : Dev) (idx sub : Nat) : Option Value :=
  let count := fun (f : StreamState → Bool) => (allStreams.filter (fun s => f d.strm.s[s].state)).length
  if idx = 0x2600 then
    match sub with
    | 1 => numV (count (fun s => s = .sending))
    | 2 => numV (count (fun s => s = .playing || s = .holding))
    | 3 => boolV d.strm.bankOne
    | 4 => numV (resBank d).length
    | 5 => boolV d.strm.rephaseEnd.isSome
    | _ => none
  else if 0x2610 ≤ idx && idx < 0x2650 && sub = 0x0C then numV d.strm.s[Fin.ofNat 64 (idx - 0x2610)].state.code
  else none

/-! ### Chapters 09 to 12 -/

/-- The computed entries of chapter 09 (R318, R321). -/
def canRead (d : Dev) (idx sub : Nat) : Option Value :=
  if 0x2700 ≤ idx && idx < 0x2780 then
    let c : CanId := Fin.ofNat 8 ((idx - 0x2700) / 16)
    let t := d.can[c]
    let tm := if t.state = .off || t.state = .detecting then none else t.timing
    let o := cfg d (canIdx c 4) 1
    match idx % 16, sub with
    | 1, 1 => numV t.state.code
    | 1, 2 => numV t.tec
    | 1, 3 => numV t.recv
    | 1, 6 => boolV t.alone
    | 1, 7 => numV ((tm.map bitRate).getD 0)
    | 1, 8 => numV ((tm.map (fun x => x.prescaler + 2 ^ 16 * x.tseg1 + 2 ^ 32 * x.tseg2 + 2 ^ 40 * x.sjw +
        bitAt 48 x.triple)).getD 0)
    | 1, 0x0A => numV (countObjs d c isBusy)
    | 1, 0x0B => numV (countObjs d c (fun s => isHeld s || isDone s))
    | 4, 2 => some (.bytes (objRecord d c o))
    | 4, 4 => numV (objOf d c o).status
    | 4, 5 => numV (attentionBits d c 0)
    | 4, 6 => numV (attentionBits d c 64)
    | _, _ => none
  else none

/-- Code of a transaction channel's state (R342). -/
def ChanState.code : ChanState → Nat
  | .idle => 0
  | .opened => 1
  | .prefetching => 2

/-- The computed entries of chapter 10 (R347, R348). -/
def gwRead (d : Dev) (idx sub : Nat) : Option Value :=
  if idx = 0x2802 then
    match sub with
    | 1 => some (.bytes ((d.gw.log.head?.map GwLog.pack).getD []))
    | 2 => numV d.gw.log.length
    | _ => none
  else if 0x2810 ≤ idx && idx < 0x2830 && sub = 0x0E then numV d.gw.chans[Fin.ofNat 32 (idx - 0x2810)].state.code
  else if 0x2840 ≤ idx && idx < 0x2880 && sub = 0x0B then boolV d.gw.telegrams[Fin.ofNat 64 (idx - 0x2840)].fresh
  else none

/-- The computed entries of chapter 11 (R364, R365). -/
def checkRead (d : Dev) (idx sub : Nat) : Option Value :=
  let x := chkOf d (cfg d 0x2901 1)
  match idx, sub with
  | 0x2900, 3 => numV (countChecks d (fun s => s ≠ .off))
  | 0x2900, 4 => numV (countChecks d (fun s => s = .invalid))
  | 0x2901, 2 => numV x.state.code
  | 0x2901, 3 => numV x.last
  | 0x2901, 4 => numV x.kind
  | 0x2901, 5 => numV x.passed
  | 0x2901, 6 => numV x.crc
  | 0x2901, 7 => numV x.repeats
  | 0x2901, 8 => numV x.skips
  | 0x2901, 9 => numV x.expectedFails
  | 0x2901, 0x0A => numV x.lengths
  | 0x2901, 0x0B => numV x.lost
  | _, _ => none

/-- Slots and contents of the memory that 0x2A03 addresses (R376). -/
def logMemory (d : Dev) : Nat × List (Nat × Entry) :=
  if d.recd.state = .ring then (ringCap, d.recd.ring) else (d.recd.summary.slots, d.recd.log)

/-- The computed entries of chapter 12 (R388 to R391). DESIGN CHOICE, safe (log entry 10). -/
def recRead (d : Dev) (idx sub : Nat) : Option Value :=
  let r := d.recd
  if idx = 0x2A00 then
    match sub with
    | 1 => numV r.state.code
    | 2 => numV r.lastSeq
    | 3 => numV (oldestSeq r.log)
    | 4 => numV r.summary.slots
    | 5 => numV r.log.length
    | 6 => numV r.staging.length
    | 7 => numV r.holding.length
    | 8 => numV (r.ring.length + r.early.length)
    | 9 => numV (remaining r.freezeEnd msNs d)
    | 0x0A => numV r.tarn.bootCount
    | 0x0B => numV r.tarn.writes
    | _ => none
  else if idx = 0x2A02 && sub = 1 then boolV (r.state = .frozen)
  else if idx = 0x2A03 then
    match sub with
    | 2 =>
      let first := cfg d 0x2A03 1
      some (.bytes ((List.range 64).flatMap (fun i =>
        if first + i < (logMemory d).1 then slotBytes (logMemory d).2 (first + i) else List.replicate 64 0)))
    | 3 => some (.bytes (summaryBytes r))
    | 4 => some (.bytes (tarnBytes r.tarn))
    | _ => none
  else if idx = 0x2A05 then
    match sub with
    | 1 => some (.bytes (Config.eventCatalogue.take 65536))
    | 2 => numV ((Config.eventCatalogue.take 65536).length / 32)
    | _ => none
  else if idx = 0x2A06 && 1 ≤ sub && sub ≤ 8 then numV r.summary.drops[Fin.ofNat 8 (sub - 1)]
  else none

/-- What the device computes for an entry, if it does. -/
def computed (d : Dev) (idx sub : Nat) : Option Value :=
  match idx / 256 with
  | 0x10 => (agentRead d idx sub).or (powerRead d idx sub)
  | 0x20 => (agentRead d idx sub).or (profileRead d idx sub)
  | 0x21 => inaugRead d idx sub
  | 0x22 => fabricRead d idx sub
  | 0x23 => portRead d idx sub
  | 0x24 => timeRead d idx sub
  | 0x25 => schedRead d idx sub
  | 0x26 => strmRead d idx sub
  | 0x27 => canRead d idx sub
  | 0x28 => gwRead d idx sub
  | 0x29 => checkRead d idx sub
  | 0x2A => recRead d idx sub
  | 0x2B => sleepRead d idx sub
  | 0x2C => (loadsRead d idx sub).map .num
  | 0x2D => powerRead d idx sub
  | 0x2E => healthRead d idx sub
  | 0x2F => secRead d idx sub
  | _ => none

/-! ### Large tables (R69) -/

/-- A unicast row as it reads: a learned entry, or the row written by a host with the age that the device fills in (R128,
R131).  The age of a row that no frame was learned from is a free value. DESIGN CHOICE, safe (log entry 43). -/
def unicastRow (d : Dev) (row : Nat) : List Byte :=
  match d.fab.learned.find? (·.row = row) with
  | some l => beBytes 6 l.mac ++ leBytes 2 l.vlan ++ leBytes 1 1 ++ leBytes 1 l.port.val ++ leBytes 1 0xFF ++ leBytes 1 0 ++
      leBytes 4 ((d.now - l.seen) / sNs)
  | none =>
    let r := rowBytes d 0x5000 row
    r.take 12 ++ (if bitOf (leNat (slice r 8 1)) 0 then leBytes 4 (Config.freeNat (d.fresh + row)) else leBytes 4 0)

/-- A translation row as it reads: the host-owned bytes, and the bank's resolution (R134, R135). -/
def translationRow (d : Dev) (one : Bool) (row : Nat) : List Byte :=
  let own := tableBytes d (0x5020 + row / 512) (1 + row % 512 / 256) (16 * (row % 256)) 8
  let bank : Option BankEpoch := if one then d.fab.bank1 else d.fab.bank0
  let res : Option (List Byte) := match bank with
    | some b => (b.resolved.find? (fun x => x.1 = row)).map (fun (x : Nat × Nat) => beBytes 4 x.2 ++ leBytes 2 b.epoch ++ leBytes 2 0)
    | none => none
  own ++ res.getD (List.replicate 8 0)

/-- A gate list derived from the train schedule, as records (R242). -/
def derivedList (d : Dev) (p : Nat) : List Byte := (d.sched.gates.filter (fun g => g.port.val = p)).flatMap gateBytes

/-- One segment of a large table as it reads (R69). -/
def segmentBytes (d : Dev) (idx sub size : Nat) : List Byte :=
  if idx ≤ 0x500F then (List.range 256).flatMap (fun k => unicastRow d (256 * (idx - 0x5000) + k))
  else if 0x5020 ≤ idx && idx ≤ 0x5027 then
    (List.range 256).flatMap (fun k =>
      translationRow d (0x5024 ≤ idx) (512 * ((idx - 0x5020) % 4) + 256 * (sub - 1) + k))
  else if 0x5100 ≤ idx && idx ≤ 0x5113 && cfg d 0x2501 1 = 1 then
    padTo size (slice (derivedList d (idx - 0x5100)) (size * (sub - 1)) size)
  else tableBytes d idx sub 0 size

/-- What a write at an offset of a segment replaces: the bytes as a host wrote them (R69). -/
def hostSegment (d : Dev) (idx sub size : Nat) : List Byte :=
  if 0x5024 ≤ idx && idx ≤ 0x5027 then tableBytes d (idx - 4) sub 0 size else tableBytes d idx sub 0 size

/-! ### Rows and values -/

/-- The row of a large-table entry: its number of segments, or a segment (R69). -/
def tableRow (idx sub : Nat) : Option EntryRow :=
  match tableShape idx with
  | none => none
  | some (n, size) =>
    if sub = 0 then some ⟨idx, 1, 1, 0, 1, .u8, 0x1111, .n n, .fac, false, false, .any⟩
    else if sub ≤ n then some ⟨idx, 1, 1, 1, n, .domain size, 0x1133, .nil, .sto, false, false, .any⟩
    else none

/-- The row of any entry (R29, R68, R69). -/
def rowOf (idx sub : Nat) : Option EntryRow :=
  if 0x5000 ≤ idx && idx ≤ 0x5FFF then tableRow idx sub else entryRow idx sub

/-- Some subindex of the index exists (row 1 of R35). -/
def indexExists (idx : Nat) : Bool := (rowOf idx 0).isSome || (rowOf idx 1).isSome

/-- The committed value of an entry as a read returns it (R38). -/
def entryValue (d : Dev) (idx sub : Nat) : Value :=
  if 0x5000 ≤ idx && idx ≤ 0x5FFF then
    match tableShape idx with
    | some (n, size) => if sub = 0 then .num n else .bytes (segmentBytes d idx sub size)
    | none => .bytes []
  else (computed d idx sub).getD (d.dict.reg idx sub)

end Sys2Proof.Machine
end

