-- ==== Sys2Proof/Machine/Writes.lean ====
section
/-! DEFINITION. The checks of a request in the order of R35 with the lengths of R603, the ranges of R604 and the DOMAIN
rules of R602, the state rules of row 7, and the staging set (R39, R40). -/

namespace Sys2Proof.Machine

/-! ### Sessions and roles (R32, R39, R54, R61) -/

/-- Role of a request (R32): that of the SDO server, of the KDA session or of the mailbox. -/
def roleOf (d : Dev) (src : Src) : Nat :=
  match src with
  | .sdo c => cfg d 0x2010 (1 + c.val)
  | .kda id _ => ((sessionOf d id).map (·.role)).getD 0
  | .pcie => cfg d 0x2010 0x0F
  | .serial => cfg d 0x2010 0x10

/-- Session of a request (R39). -/
def sessionKey : Src → Session
  | .sdo c => .sdo c.val
  | .kda id _ => .kda id
  | .pcie => .pcie
  | .serial => .serial

/-- Rights of a role on an entry: bit 0 read, bit 1 write. DESIGN CHOICE, unsafe (log entry 12). -/
def EntryRow.rights (row : EntryRow) (role : Nat) : Nat := row.acc / 16 ^ (3 - role) % 16

/-- The role may read the entry. -/
def EntryRow.reads (row : EntryRow) (role : Nat) : Bool := bitOf (row.rights role) 0

/-- The role may write the entry. -/
def EntryRow.writes (row : EntryRow) (role : Nat) : Bool := bitOf (row.rights role) 1

/-- Row 2 of R35 for a read. -/
def EntryRow.readError (row : EntryRow) (role : Nat) : Option Nat :=
  if row.reads role then none
  else if (List.range 4).any row.reads then some 0x0F000001
  else some 0x06010001

/-- Row 2 of R35 for a write. -/
def EntryRow.writeError (row : EntryRow) (role : Nat) : Option Nat :=
  if row.writes role then none
  else if (List.range 4).any row.writes then some 0x0F000001
  else some 0x06010002

/-- Row 1 of R35. -/
def findRow (idx sub : Nat) : Except Nat EntryRow :=
  match rowOf idx sub with
  | some row => .ok row
  | none => .error (if indexExists idx then 0x06090011 else 0x06020000)

/-! ### Row 3: lengths and offsets (R602, R603) -/

/-- The index lies in the large tables (R69). -/
def isTable (idx : Nat) : Bool := 0x5000 ≤ idx && idx ≤ 0x5FFF

/-- The staged write to an entry. -/
def stagedAt (q : DictS) (idx sub : Nat) : Option Staged := q.staged.find? (fun x => x.idx = idx && x.sub = sub)

/-- The bytes on which a write at an offset acts: the staged value, else the present one (R602). DESIGN CHOICE, safe (log
entry 19). -/
def presentBytes (d : Dev) (idx sub : Nat) : List Byte :=
  match stagedAt d.dict idx sub with
  | some x => x.val.toBytes
  | none =>
    if idx = 0x2011 && sub = 1 then d.dict.image
    else if idx = 0x2D04 && sub = 5 then d.pow.fwImage
    else match tableShape idx with
      | some (_, size) => hostSegment d idx sub size
      | none => (d.dict.reg idx sub).toBytes

/-- A length that the entry does not accept (R603). DEDUCED, unsafe (log entry 114). -/
def Range.lengthError (g : Range) (n : Nat) : Option Nat :=
  match g with
  | .lenNamed k => if n = k then none else some 0x06070010
  | .lenExact k => if n = k then none else some 0x06070010
  | .lenRange lo hi => if hi < n then some 0x06070012 else if n < lo then some 0x06070013 else none
  | .records size lo hi => if n % size = 0 && lo ≤ n / size && n / size ≤ hi then none else some 0x06070010
  | _ => none

/-- An entry whose Meaning names the code of the lengths that it refuses (R603). -/
def Range.namesLength : Range → Bool
  | .lenNamed _ => true
  | .records _ _ _ => true
  | _ => false

/-- Row 3 of R35 for a write: the value that the write makes.  A write with a wrong length and a wrong offset gets the code
of the length, a DOMAIN write past its limit the same. DEDUCED, unsafe (log entry 114). -/
def writeLength (d : Dev) (row : EntryRow) (idx sub off : Nat) (data : List Byte) : Except Nat Value :=
  let text := fun (max : Nat) =>
    if !row.range.namesLength && max < data.length then Except.error 0x06070012
    else match row.range.lengthError data.length with
      | some c => .error c
      | none => if off ≠ 0 then .error 0x0F000009 else .ok (Value.bytes data)
  match row.ty with
  | .domain max =>
    let old := presentBytes d idx sub
    if max < off + data.length then .error 0x06070012
    else if old.length < off then .error 0x0F000009
    else .ok (.bytes (if isTable idx || off ≠ 0 then splice old off data else data))
  | .vstr max => text max
  | .ostr max => text max
  | ty =>
    let n := ty.fixed.getD 1
    if n < data.length then .error 0x06070012
    else if data.length < n then .error 0x06070013
    else if off ≠ 0 then .error 0x0F000009
    else .ok (.num (leNat data))

/-! ### Row 4: ranges (R30, R604) -/

/-- The number that a fixed-size encoding stands for (R30). -/
def EntryType.number (ty : EntryType) (n : Nat) : Int :=
  match ty with
  | .i8 => signedOf 8 n
  | .i16 => signedOf 16 n
  | .i32 => signedOf 32 n
  | .i64 => signedOf 64 n
  | _ => n

/-- A number above its range, or below it. -/
def boundError (lo hi x : Int) : Option Nat := if hi < x then some 0x06090031 else if x < lo then some 0x06090032 else none

/-- A value that is none of those named. -/
def codeError (ok : Bool) : Option Nat := if ok then none else some 0x06090030

/-- A packed field lies within its limits. -/
def within (v hi lo a b : Nat) : Bool := a ≤ bitsOf v hi lo && bitsOf v hi lo ≤ b

/-- Codes of the event sources (R522). -/
def sourceCodes : List Nat :=
  [0, 1, 2, 3, 4, 5, 6, 7, 0x10, 0x11, 0x12, 0x20, 0x21, 0x22, 0x30, 0x31, 0x40, 0x50, 0x60, 0x61]

/-- Row 4 of R35 for a number: the range that the entry's Meaning gives (R604), and the packed layouts of R404, R405, R406
and R521. DESIGN CHOICE, unsafe (log entry 107). -/
def Range.numberError (g : Range) (x : Int) (v : Nat) : Option Nat :=
  match g with
  | .rng lo hi => boundError lo hi x
  | .rngOr lo hi special => if x = special then none else boundError lo hi x
  | .oneOf vs => codeError (vs.contains x)
  | .mask m => codeError (Nat.land v m = v)
  | .maskNonzero m => codeError (Nat.land v m = v && v ≠ 0)
  | .role => if v = 3 then some 0x06090031 else codeError (v < 3)
  | .zero => codeError (v = 0)
  | .lwake => codeError (within v 1 0 0 2 && within v 3 3 0 0 && within v 5 4 0 2 && within v 15 6 0 0 && within v 31 16 1 10000)
  | .busFilter => codeError (within v 1 0 0 2 && within v 3 2 0 0 && within v 5 4 0 2 && within v 7 6 0 0 && within v 15 8 1 255 &&
      within v 19 16 1 15 && within v 27 20 1 255 && within v 31 28 0 0)
  | .phyGroup => codeError (v < 8)
  | .evSource => codeError (within v 15 12 0 0 && sourceCodes.contains (bitsOf v 11 0))
  | _ => none

/-- Records of 8 bytes keep their reserved bytes at 0 and their fields in the layout's range (R320, R346). DESIGN CHOICE,
unsafe (log entry 12). -/
def recordsOk (bs : List Byte) (ok : List Byte → Bool) : Bool :=
  (List.range (bs.length / 8)).all (fun i => let r := slice bs (8 * i) 8; leNat (slice r 6 2) = 0 && ok r)

/-- A record of the unicast table (R128).  The ranges of fields are those of a valid record, here as in every table; a bit
marked 0 is refused in any. DESIGN CHOICE, unsafe (log entry 12). -/
def unicastOk (r : List Byte) : Bool :=
  let b := fun i => leNat (slice r i 1)
  b 7 < 16 && b 8 < 16 && b 11 = 0 && (!bitOf (b 8) 0 || (b 9 ≤ 20 && (b 10 ≤ 4 || b 10 = 0xFF)))

/-- A record of the multicast table (R129). -/
def multicastOk (r : List Byte) : Bool :=
  let b := fun i => leNat (slice r i 1)
  b 7 < 16 && leNat (slice r 8 4) < 2 ^ 21 && b 12 < 8 && leNat (slice r 14 2) = 0 && (!bitOf (b 12) 0 || b 13 ≤ 4 || b 13 = 0xFF)

/-- A translation record, its host-owned bytes (R134). -/
def translationOk (r : List Byte) : Bool :=
  let b := fun i => leNat (slice r i 1)
  b 5 < 8 && (!bitOf (b 5) 0 || (18 ≤ b 4 && b 4 ≤ 32))

/-- A reservation (R266); R269 judges its bandwidth at validation. -/
def reservationOk (r : List Byte) : Bool :=
  let b := fun i => leNat (slice r i 1)
  let vlan := leNat (slice r 6 2)
  vlan < 4096 && b 12 < 16 && b 13 = 0 && (!bitOf (b 12) 0 || (1 ≤ vlan && vlan ≤ 4094))

/-- A gate list record (R242). -/
def gateOk (r : List Byte) : Bool :=
  leNat (slice r 12 1) < 8 && leNat (slice r 13 3) = 0 && leNat (slice r 22 2) < 4096 && leNat (slice r 24 8) = 0

/-- A message object (R300). -/
def objectOk (r : List Byte) : Bool :=
  let b := fun i => leNat (slice r i 1)
  leNat (slice r 0 4) < 2 ^ 30 && leNat (slice r 4 4) < 2 ^ 30 && b 10 < 8 && leNat (slice r 11 5) = 0 &&
    (!bitOf (b 8) 0 || bitsOf (b 8) 3 2 ≤ 2)

/-- A signal map (R326). -/
def mapOk (r : List Byte) : Bool :=
  let b := fun i => leNat (slice r i 1)
  b 0 < 16 && b 7 = 0 && leNat (slice r 10 2) = 0 &&
    (!bitOf (b 0) 0 || (b 1 ≤ 7 && b 2 ≤ 125 && 1 ≤ b 3 && b 3 ≤ 64 && leNat (slice r 4 2) ≤ 511 && b 6 ≤ 63 && leNat (slice r 8 2) ≤ 11455))

/-- A check channel (R358); R359 judges the counter's width and place at validation. -/
def channelOk (r : List Byte) : Bool :=
  let b := fun i => leNat (slice r i 1)
  let telegram := bitOf (b 0) 2
  b 0 < 64 && b 16 < 8 && b 23 = 0 &&
    (!bitOf (b 0) 0 || (bitsOf (b 0) 4 3 ≤ 2 && b 1 ≤ (if telegram then 0 else 7) && b 2 ≤ (if telegram then 63 else 125) && b 3 ≤ 7 &&
      b 6 ≤ 2 && leNat (slice r 12 2) ≤ 1432 && (b 7 = 0 || (1 ≤ b 17 && b 17 < 2 ^ b 7)) && 1 ≤ b 18 && b 18 ≤ 16 && b 22 ≤ 4))

/-- Record size and record check of a large table (R127, R242, R266, R300, R326, R358). -/
def tableCheck (idx : Nat) : Nat × (List Byte → Bool) :=
  if idx ≤ 0x500F then (16, unicastOk)
  else if idx ≤ 0x5013 then (16, multicastOk)
  else if idx ≤ 0x5027 then (16, translationOk)
  else if idx ≤ 0x5031 then (16, reservationOk)
  else if idx ≤ 0x5113 then (32, gateOk)
  else if idx ≤ 0x5207 then (16, objectOk)
  else if idx ≤ 0x5307 then (16, mapOk)
  else (32, channelOk)

/-- The records that a segment write of `n` bytes at an offset touches, as the write leaves them, keep their layout (R9,
R604). DESIGN CHOICE, unsafe (log entry 12). -/
def segmentOk (idx off n : Nat) (bs : List Byte) : Bool :=
  let size := (tableCheck idx).1
  (List.range ((off + n + size - 1) / size - off / size)).all fun i => (tableCheck idx).2 (slice bs (size * (off / size + i)) size)

/-- Ranges that a Meaning gives in words of its own (R320, R346, R389, R390, R553). -/
def specialError (d : Dev) (idx sub : Nat) (v : Value) : Option Nat :=
  let bs := v.toBytes
  if 0x2700 ≤ idx && idx < 0x2780 && idx % 16 = 3 && sub = 1 then codeError (recordsOk bs (fun _ => true))
  else if idx = 0x2803 && sub = 1 then
    codeError (recordsOk bs (fun r => leNat (slice r 0 1) ≤ 31 && leNat (slice r 1 1) ≤ 3))
  else if idx = 0x2A04 && sub = 1 then (if 5 < leNat (bs.take 1) then some 0x06090031 else none)
  else if idx = 0x2A03 && sub = 1 then (if v.toNat < (logMemory d).1 then none else some 0x06090031)
  else if idx = 0x2F01 && sub = 4 then (if v.toNat < cfg d 0x2F01 4 then some 0x06090032 else none)
  else none

/-- Row 4 of R35. -/
def valueError (d : Dev) (row : EntryRow) (idx sub : Nat) (v : Value) : Option Nat :=
  let own : Option Nat := match row.ty, v with
    | .bool, .num n => (codeError (n ≤ 1)).or (row.range.numberError n n)
    | .vstr _, .bytes bs => codeError (bs.all (fun b => 0x20 ≤ b.toNat && b.toNat ≤ 0x7E))
    | ty, .num n => row.range.numberError (ty.number n) n
    | _, _ => none
  (own.or (match v with | .num n => if row.range = .zero then codeError (n = 0) else none | .bytes _ => none)).or (specialError d idx sub v)

/-- Rows 1 to 4 of R35 for a write: the entry and the value that the write makes. DESIGN CHOICE, unsafe (log entry 12);
DEDUCED, unsafe (log entry 114). -/
def checkWrite (d : Dev) (role idx sub off : Nat) (data : List Byte) : Except Nat (EntryRow × Value) :=
  match findRow idx sub with
  | .error c => .error c
  | .ok row =>
    match row.writeError role with
    | some c => .error c
    | none =>
      match writeLength d row idx sub off data with
      | .error c => .error c
      | .ok v =>
        let record := if isTable idx then codeError (segmentOk idx off data.length v.toBytes) else none
        match record.or (valueError d row idx sub v) with
        | some c => .error c
        | none => .ok (row, v)

/-! ### Row 7: the present state -/

/-- The write changes the committed value. -/
def changes (d : Dev) (idx sub : Nat) (v : Value) : Bool := d.dict.reg idx sub ≠ v

/-- An audio port carries a stream that is Playing, Holding or Sending (R284). -/
def audioBusy (d : Dev) (t : Nat) : Bool :=
  allStreams.any (fun s => strmReg d s 9 = t && (match d.strm.s[s].state with
    | .playing | .holding | .sending => true
    | _ => false))

/-- The chapters' own state rules for staged writes (R22, R185, R242, R284, R539, R551); `image` says that the write comes
from a verified configuration image. -/
def entryRefused (d : Dev) (image : Bool) (idx sub : Nat) (v : Value) : Bool :=
  if idx = 0x2001 && sub = 1 then profileRefused d v.toNat
  else if 0x2300 ≤ idx && idx < 0x2314 then
    let p : Port := Fin.ofNat 20 (idx - 0x2300)
    ((sub = 1 && v.toNat = 0) || ((sub = 2 || sub = 3 || sub = 0x0E || sub = 0x12) && changes d idx sub v)) && portLocked d p
  else if 0x5100 ≤ idx && idx ≤ 0x5113 then cfg d 0x2501 1 = 1
  else if 0x2608 ≤ idx && idx < 0x260C then 1 ≤ sub && sub ≤ 6 && changes d idx sub v && audioBusy d (idx - 0x2608)
  else if idx = 0x2601 && sub = 1 then v.toNat = 1 && d.node.profile = 1
  else if idx = 0x2F01 && sub = 1 then (d.sec.lifecycle = 2 && !image) || d.sec.lifecycle = 3
  else if idx = 0x2F04 && sub = 1 then v.toNat < d.sec.level
  else false

/-- Row 7 of R35 for a staged write (R37, R413). -/
def stateRefused (d : Dev) (image : Bool) (idx sub : Nat) (v : Value) : Bool :=
  (d.node.profile = 4 && !(0x2D00 ≤ idx && idx ≤ 0x2DFF)) || d.sleep.state = .committing || entryRefused d image idx sub v

/-! ### The staging set (R39, R40) -/

/-- Value bytes of a staged write (R40). -/
def Staged.size (x : Staged) : Nat :=
  match x.val with
  | .bytes bs => bs.length
  | .num _ => ((rowOf x.idx x.sub).bind (fun (r : EntryRow) => r.ty.fixed)).getD 0

/-- The set with one more write, which replaces an earlier one to its entry (R40). -/
def putStage (l : List Staged) (x : Staged) : List Staged :=
  let old := (l.find? (fun y => y.idx = x.idx && y.sub = x.sub)).map (·.spans)
  l.filter (fun y => !(y.idx = x.idx && y.sub = x.sub)) ++ [{ x with spans := old.getD [] ++ x.spans }]

/-- The set fits under R40. -/
def fits (l : List Staged) : Bool := l.length ≤ 8192 && (l.map Staged.size).sum ≤ 4 * 1024 * 1024

/-- Rows 5 to 7 of R35 for a staged write. -/
def stageError (d : Dev) (ses : Session) (x : Staged) : Option Nat :=
  if !d.dict.staged.isEmpty && d.dict.owner ≠ some ses then some 0x0F000002
  else if !fits (putStage d.dict.staged x) then some 0x0F000003
  else if d.dict.heldCommit.isSome || stateRefused d false x.idx x.sub x.val then some 0x08000022
  else none

/-- The owner's time for its next staged write or commit starts again (R39). DESIGN CHOICE, unsafe (log entry 14). -/
def touchIdle (d : Dev) : Dev := onDict (fun q => { q with idleDeadline := some (d.now + cfg d 0x2002 7 * sNs) }) d

/-- A write is staged (R39, R40). -/
def stageWrite (ses : Session) (x : Staged) (d : Dev) : Dev :=
  touchIdle (bump 0x2003 1 (onDict (fun q => { q with staged := putStage q.staged x, owner := some ses }) d))

/-! ### The effect of a staged set on the dictionary (R33, R69, R128, R134) -/

/-- Bytes of a table that the device owns and a write does not touch (R128, R134). -/
def deviceOwned (idx o : Nat) : Bool :=
  (idx ≤ 0x500F && 12 ≤ o % 16) || (0x5020 ≤ idx && idx ≤ 0x5027 && 8 ≤ o % 16)

/-- Writes one span of a segment into the tables; a translation row goes to both banks, which share their bytes (R134). -/
def putSpan (x : Staged) (span : Nat × Nat) (m : List Host.Cell) : List Host.Cell :=
  let idx := if 0x5024 ≤ x.idx && x.idx ≤ 0x5027 then x.idx - 4 else x.idx
  (List.range span.2).foldl (fun m i =>
    let o := span.1 + i
    if deviceOwned x.idx o then m
    else Store.put memDefault m (tableAddr idx x.sub o) (x.val.toBytes[o]?.getD 0)) m

/-- Rows of 16 bytes that a staged segment write touches. -/
def touchedRows (x : Staged) : List Nat :=
  (x.spans.flatMap (fun (s : Nat × Nat) => (List.range s.2).map (fun i => (s.1 + i) / 16))).eraseDups

/-- One staged write becomes the committed value: learned entries in the rows written go (R131), and translation rows written
are no longer resolved (R134, R135). DESIGN CHOICE, safe (log entry 43). -/
def putStaged (x : Staged) (d : Dev) : Dev :=
  if !isTable x.idx then onDict (fun q => q.setReg x.idx x.sub x.val) d
  else
    let d1 := onDict (fun q => { q with mem := x.spans.foldl (fun m s => putSpan x s m) q.mem }) d
    if x.idx ≤ 0x500F then
      let rows := (touchedRows x).map (fun r => 256 * (x.idx - 0x5000) + r)
      onFab (fun f => { f with learned := f.learned.filter (fun l => !rows.contains l.row) }) d1
    else if 0x5020 ≤ x.idx && x.idx ≤ 0x5027 then
      let rows := (touchedRows x).map (fun r => 512 * ((x.idx - 0x5020) % 4) + 256 * (x.sub - 1) + r)
      let clear := fun (b : BankEpoch) => { b with resolved := b.resolved.filter (fun y => !rows.contains y.1) }
      onFab (fun f => { f with bank0 := f.bank0.map clear, bank1 := f.bank1.map clear }) d1
    else d1

/-- The whole set becomes committed, in the order of its writes. -/
def putAll (l : List Staged) (d : Dev) : Dev := forEach l putStaged d

end Sys2Proof.Machine
end

