-- ==== Sys2Proof/Machine/Validate.lean ====
section
/-! DEFINITION. Validation of a staged set before handover (R42): every rule of the chapters by which a set fails, judged on
the dictionary as the set would leave it. -/

namespace Sys2Proof.Machine

/-- One rule: the entries that bring it into play, and whether the set breaks it.  The device before the commit comes first,
the device with the set in place second. -/
structure SetRule where
  touches : Nat → Nat → Bool
  fails : Dev → Dev → Bool
  code : Nat

/-- A rule of the second kind of R42. -/
def inconsistent (touches : Nat → Nat → Bool) (fails : Dev → Bool) : SetRule := ⟨touches, fun _ c => fails c, 0x0F000005⟩

/-- An index lies between two others. -/
def idxIn (lo hi idx : Nat) : Bool := lo ≤ idx && idx ≤ hi

/-- Two elements of a list clash. -/
def anyPair {α : Type} (l : List α) (f : α → α → Bool) : Bool :=
  match l with
  | [] => false
  | x :: xs => xs.any (f x) || anyPair xs f

/-! ### Inauguration, fabric and ports (R100, R112, R130, R134, R140, R143, R173, R186) -/

/-- A staged set disables a port. -/
def disables (l : List Staged) (p : Nat) : Bool := l.any (fun x => x.idx = 0x2300 + p && x.sub = 1 && x.val.toNat = 0)

/-- Rows of the unicast or multicast table with a byte other than 0, with their bytes. -/
def tableRows (c : Dev) (base last : Nat) : List (Nat × List Byte) :=
  (listedRecords c.dict.mem base last 16).map fun (idx, _, k) => (256 * (idx - base) + k, rowBytes c base (256 * (idx - base) + k))

/-- Key of a row: address and VLAN (R126). -/
def rowKey (r : List Byte) : Nat × Nat := (beNat (slice r 0 6), leNat (slice r 6 2) % 4096)

/-- A row lies in its bucket (R126). -/
def inBucket (buckets row : Nat) (r : List Byte) : Bool := row / 4 = tableHash (rowKey r).1 (rowKey r).2 % buckets

/-- Rows of the multicast table that the set writes. -/
def multicastWritten (l : List Staged) : List Nat :=
  (l.filter (fun x => 0x5010 ≤ x.idx && x.idx ≤ 0x5013)).flatMap (fun x => (touchedRows x).map (fun r => 256 * (x.idx - 0x5010) + r))

/-- R130, and the contradiction that R42 names: a multicast group written in the set names a port that the set disables. -/
def forwardingFails (l : List Staged) (c : Dev) : Bool :=
  let uni := (tableRows c 0x5000 0x500F).filter (fun x => bitOf (leNat (slice x.2 8 1)) 0)
  let multi := (tableRows c 0x5010 0x5013).filter (fun x => bitOf (leNat (slice x.2 12 1)) 0)
  uni.any (fun x => !inBucket 1024 x.1 x.2 || !bitOf (leNat (slice x.2 8 1)) 1 || disables l (leNat (slice x.2 9 1))) ||
    multi.any (fun x => !inBucket 256 x.1 x.2 ||
      ((multicastWritten l).contains x.1 && (maskPorts (leNat (slice x.2 8 4))).any (fun p => disables l p.val))) ||
    anyPair uni (fun a b => rowKey a.2 = rowKey b.2) || anyPair multi (fun a b => rowKey a.2 = rowKey b.2)

/-- R134. -/
def translationFails (c : Dev) : Bool :=
  let t := transRecords c.dict.mem
  t.any (fun r => r.len < 18 || 32 < r.len || r.offset % r.size ≠ 0 || 0x4000 < r.offset + r.size) ||
    anyPair t (fun a b => let w := max a.size b.size; a.pfx / w = b.pfx / w)

/-- R140. -/
def reservesFail (c : Dev) : Bool :=
  2048 < 4 * (cfg c 0x2204 1 + cfg c 0x2204 2 + cfg c 0x2204 3) + 16 * (cfg c 0x2204 4 + cfg c 0x2204 5 + cfg c 0x2204 6)

/-- R173. -/
def phyScriptFails (c : Dev) (p : Port) : Bool :=
  (cfgBytes c (0x2300 + p.val) 0x19).length % 8 ≠ 0 ||
    (phyScript c p).any (fun r => r.op < 1 || 4 < r.op || 31 < r.dev || (r.op = 3 && (r.mask < 1 || 1000 < r.mask)))

/-- Rules of chapters 03 to 05. DESIGN CHOICE, unsafe (log entry 107). -/
def networkRules (l : List Staged) : List SetRule :=
  [inconsistent (fun i s => i = 0x2103 && (s = 5 || s = 6)) (fun c => cfg c 0x2103 5 < cfg c 0x2103 6 + 2000),
   inconsistent (fun i s => i = 0x2100 && (s = 3 || s = 4)) (fun c => cfg c 0x2100 4 ≤ cfg c 0x2100 3),
   inconsistent (fun i s => idxIn 0x5000 0x5013 i || (idxIn 0x2300 0x2313 i && s = 1)) (forwardingFails l),
   inconsistent (fun i _ => idxIn 0x5020 0x5027 i) translationFails,
   inconsistent (fun i s => i = 0x2204 && 1 ≤ s && s ≤ 6) reservesFail,
   inconsistent (fun i s => i = 0x2205 && s = 3) (fun c => c.chip.ddrMiB < cfg c 0x2205 3 + 256)] ++
  allPorts.flatMap fun p =>
    [inconsistent (fun i s => i = 0x2300 + p.val && s = 0x19) (fun c => phyScriptFails c p),
     inconsistent (fun i s => i = 0x2300 + p.val && (s = 2 || s = 3)) (fun c => portReg c p 3 ≠ 0 && portReg c p 2 = 2),
     inconsistent (fun i s => i = 0x2300 + p.val && (s = 0x0D || s = 0x16)) (fun c => portReg c p 0x0D = 1 && portReg c p 0x16 = 0xFF)]

/-! ### Time, schedule and streams (R220, R221, R236, R242, R269, R284) -/

/-- R236: the code with which a schedule image is refused. -/
def imageError (old c : Dev) : Option Nat :=
  let bs := cfgBytes c 0x2503 1
  if !imageSigned old bs then some 0x0F000007
  else match parseImage bs with
    | none => some 0x0F000005
    | some i =>
      if i.identity.toNat ≠ cfg c 0x2501 2 then some 0x0F000005
      else if (heldGenerations old).any (fun g => i.generation ≤ g) then some 0x08000022
      else none

/-- A rule of R236 for one of its codes. -/
def imageRule (code : Nat) : SetRule := ⟨fun i s => i = 0x2503 && s = 1, fun old c => imageError old c = some code, code⟩

/-- R242: the lists of local mode. -/
def localFails (c : Dev) : Bool :=
  let g := localGates c
  let cycle := max 1 (cfg c 0x2501 9)
  cfg c 0x2501 1 = 2 &&
    (g.any (fun x => 8000 < x.length || x.length < 2 * x.guardNs) ||
     allPorts.any (fun p =>
      let gp := g.filter (fun x => x.port = p)
      anyPair gp (fun a b => overlaps cycle a b) || (isBackbone p && !keepsR84 cycle (gp.filter (fun x => !x.receive)))))

/-- Slots that a stream uses on its audio port (R282). -/
def slotRange (c : Dev) (s : Fin 64) : Nat × Nat :=
  (strmReg c s 0x0A, strmReg c s 0x0A + (if strmReg c s 1 = 1 then strmReg c s 5 else strmReg c s 0x0B))

/-- R284. -/
def streamsFail (c : Dev) : Bool :=
  let on := allStreams.filter (fun s => strmReg c s 1 ≠ 0)
  let ported := on.filter (fun s => strmReg c s 9 ≠ 0xFF)
  anyPair ported (fun a b => strmReg c a 1 = strmReg c b 1 && strmReg c a 9 = strmReg c b 9 &&
      (slotRange c a).1 < (slotRange c b).2 && (slotRange c b).1 < (slotRange c a).2) ||
    ported.any (fun s => cfg c (0x2608 + strmReg c s 9) 3 < (slotRange c s).2) ||
    on.any (fun s => 1400 < strmReg c s 5 * strmReg c s 7 * (strmReg c s 6 / 8) || (strmReg c s 1 = 2 && strmReg c s 0x0B < strmReg c s 5))

/-- Rules of chapters 06 to 08. -/
def timeRules : List SetRule :=
  [inconsistent (fun i s => i = 0x2402 && (s = 8 || s = 9)) (fun c => cfg c 0x2402 9 < 2 * cfg c 0x2402 8),
   inconsistent (fun i s => i = 0x2403 && (s = 4 || s = 6 || s = 7)) (fun c => cfg c 0x2403 4 = 2 && cfg c 0x2403 6 ≤ cfg c 0x2403 7),
   imageRule 0x0F000007, imageRule 0x0F000005, imageRule 0x08000022,
   inconsistent (fun i s => idxIn 0x5100 0x5113 i || (i = 0x2501 && (s = 1 || s = 9))) localFails,
   inconsistent (fun i _ => idxIn 0x5030 0x5031 i) (fun c =>
     let l := reservations c.dict.mem
     l.any (fun r => r.bandwidth < 1 || 1000 < r.bandwidth) || anyPair l (fun a b => a.address = b.address && a.vlan = b.vlan)),
   inconsistent (fun i s => (idxIn 0x2610 0x264F i && 1 ≤ s && s ≤ 0x0B) || (idxIn 0x2608 0x260B i && s = 3)) streamsFail]

/-! ### Message buses (R292, R293, R300, R301) -/

/-- R292 for a nominal timing. -/
def nominalOk (t : CanTiming) : Bool :=
  let q := 1 + t.tseg1 + t.tseg2
  t.prescaler ≠ 0 && 8 ≤ q && q ≤ 385 && t.sjw ≤ t.tseg2 && 10000 * (t.prescaler * q) ≤ 80000000 && 80000000 ≤ 1000000 * (t.prescaler * q)

/-- R292 and R293 for a controller. -/
def timingFails (c : Dev) (k : CanId) : Bool :=
  let n := configuredTiming c k
  let r := cfg c (canIdx k 0)
  let nb := n.prescaler * (1 + n.tseg1 + n.tseg2)
  let q := 1 + r 8 + r 9
  let db := r 7 * q
  !nominalOk n || q < 5 || 49 < q || r 9 < r 0x0A || 80000000 < 1000000 * db || 8000000 * db < 80000000 || nb < db ||
    (n.triple && (250000 * nb < 80000000 || r 2 = 1 || n.tseg1 < 3))

/-- R292 for the candidates of 0x27x3:01 (R320). -/
def candidatesFail (c : Dev) (k : CanId) : Bool := (List.range (candidates c k)).any (fun i => !nominalOk (candidateTiming c k i))

/-- The configured record of an object, the SDO server's aside. -/
def objRecordCfg (c : Dev) (k : CanId) (o : Nat) : ObjCfg := objCfgOf (tableBytes c (0x5200 + k.val) 1 (16 * o) 16)

/-- Numbers of the objects of a controller with a byte other than 0. -/
def listedObjs (c : Dev) (k : CanId) : List Nat :=
  (listedRecords c.dict.mem (0x5200 + k.val) (0x5200 + k.val) 16).map (fun x => x.2.2)

/-- R300. -/
def objectsFail (c : Dev) (k : CanId) : Bool :=
  (listedObjs c k).any fun o =>
    let g := objRecordCfg c k o
    (g.valid && g.owner = 0) || (g.tx && g.mask ≠ 0x1FFFFFFF#29) || ((g.fdf || g.brs) && cfg c (canIdx k 0) 2 = 0) || (g.brs && !g.fdf)

/-- R301. -/
def sdoFails (c : Dev) (k : CanId) : Bool :=
  bitOf (cfg c 0x2010 9) k.val &&
    ((objRecordCfg c k 126).valid || (objRecordCfg c k 127).valid ||
      !(cfg c (canIdx k 0) 1 = 1 || (cfg c (canIdx k 0) 1 = 4 && cfg c (canIdx k 3) 4 = 1)))

/-- Rules of chapter 09. -/
def canRules : List SetRule :=
  allCan.flatMap fun k =>
    [inconsistent (fun i s => i = canIdx k 0 && ((2 ≤ s && s ≤ 0x0A) || s = 0x0C)) (fun c => timingFails c k),
     inconsistent (fun i s => i = canIdx k 3 && s = 1) (fun c => candidatesFail c k),
     inconsistent (fun i s => i = 0x5200 + k.val || (i = canIdx k 0 && s = 2)) (fun c => objectsFail c k),
     inconsistent (fun i s => i = 0x5200 + k.val || (i = 0x2010 && s = 9) || (i = canIdx k 0 && s = 1) || (i = canIdx k 3 && s = 4))
       (fun c => sdoFails c k)]

/-! ### Gateway and checks (R328, R347, R359) -/

/-- An object is the gateway's and has a direction. -/
def gwObject (c : Dev) (ctl o : Nat) (tx : Bool) : Bool :=
  ctl < 8 && o < 126 &&
    (let g := objCfg c (Fin.ofNat 8 ctl) o
     g.valid && g.owner = 2 && g.tx = tx)

/-- Bits that a map writes in its target, with the target. -/
def SignalMap.writes (m : SignalMap) : (Bool × Nat × Nat) × List Nat :=
  if m.toCan then ((true, m.ctl, m.obj), m.canBits) else ((false, 0, m.telegram), m.setBits)

/-- Two lists of bit positions meet. -/
def meet (a b : List Nat) : Bool := a.any (fun x => b.contains x)

/-- R328. -/
def mapsFail (c : Dev) : Bool :=
  let l := signalMaps c.dict.mem
  l.any (fun m =>
    !gwObject c m.ctl m.obj m.toCan || m.len < 1 || 64 < m.len || 63 < m.telegram ||
      tele c m.telegram 1 ≠ (if m.toCan then 2 else 1) || m.canBits.any (fun b => 511 < b) ||
      8 * tele c m.telegram 3 < m.offset + m.len) ||
    anyPair l (fun a b => a.writes.1 = b.writes.1 && meet a.writes.2 b.writes.2)

/-- The regions of 0x2803:01: channel, first and last address. -/
def regions (c : Dev) : List (Nat × Nat × Nat) :=
  let bs := cfgBytes c 0x2803 1
  (List.range (bs.length / 8)).map (fun i => (leNat (slice bs (8 * i) 1), leNat (slice bs (8 * i + 2) 2), leNat (slice bs (8 * i + 4) 2)))

/-- R347.  Whether a direction-1 channel without a response object is reached only by 'Mn' is not in the dictionary: it is a
free value of the commit. DESIGN CHOICE, unsafe (log entry 70). -/
def channelsFail (c : Dev) : Bool :=
  let on := allChans.filter (fun n => chanReg c n 1 ≠ 0)
  on.any (fun n =>
    let ctl := chanReg c n 2
    let optional := fun (o : Nat) (tx : Bool) => o = 0xFF || gwObject c ctl o tx
    if chanReg c n 1 = 1 then !gwObject c ctl (chanReg c n 3) true ||
        (if chanReg c n 4 = 0xFF then Config.freeNat c.fresh % 2 = 0 else !gwObject c ctl (chanReg c n 4) false)
    else !gwObject c ctl (chanReg c n 3) false || !optional (chanReg c n 4) true || !optional (chanReg c n 5) true) ||
  anyPair (on.filter (fun n => chanReg c n 1 = 1)) (fun a b => chanReg c a 7 = chanReg c b 7) ||
  anyPair (regions c) (fun a b => a.1 = b.1 && a.2.1 ≤ b.2.2 && b.2.1 ≤ a.2.2)

/-- Bytes of a channel's fields: offset and length (R353, R358). -/
def CheckRec.fields (r : CheckRec) : List (Nat × Nat) :=
  [(r.crcAt, crcWidth r.kind / 8), (r.start, r.length)] ++ (if r.width = 0 then [] else [(r.counterAt, 1)]) ++
    (if r.expLen = 0 then [] else [(r.expAt, r.expLen)])

/-- Counter width and bit position keep the record's rules (R358). -/
def CheckRec.counterOk (r : CheckRec) : Bool :=
  match r.width with
  | 0 => true
  | 4 => r.counterBit = 0 || r.counterBit = 4
  | 8 => r.counterBit = 0
  | _ => false

/-- Bits of the CRC field and the counter, as 8 × byte + bit. -/
def CheckRec.ownBits (r : CheckRec) : List Nat :=
  (List.range (crcWidth r.kind)).map (fun i => 8 * r.crcAt + i) ++ (List.range r.width).map (fun i => 8 * r.counterAt + r.counterBit + i)

/-- R359. -/
def checksFail (c : Dev) : Bool :=
  let l := ((checkRecs c.dict.mem).map (·.2)).filter (·.valid)
  let maps := signalMaps c.dict.mem
  let target := fun (r : CheckRec) => (r.telegram, if r.telegram then 0 else r.ctl, r.unit)
  l.any (fun r =>
    (if r.telegram then 63 < r.unit || tele c r.unit 1 ≠ (if r.protects then 1 else 2) else !gwObject c r.ctl r.unit r.protects) ||
      r.fields.any (fun f => (if r.telegram then tele c r.unit 3 else 64) < f.1 + f.2) ||
      (r.width ≠ 0 && r.crcAt ≤ r.counterAt && r.counterAt < r.crcAt + crcWidth r.kind / 8) || !r.counterOk ||
      (r.protects && (r.expLen ≠ 0 ||
        maps.any (fun m => (if m.toCan then !r.telegram && m.ctl = r.ctl && m.obj = r.unit else r.telegram && m.telegram = r.unit) &&
          meet r.ownBits m.writes.2)))) ||
    anyPair l (fun a b => target a = target b)

/-- Rules of chapters 10 and 11. -/
def gatewayRules : List SetRule :=
  [inconsistent (fun i s => idxIn 0x5300 0x5307 i || idxIn 0x5200 0x5207 i || (idxIn 0x2840 0x287F i && (s = 1 || s = 3))) mapsFail,
   inconsistent (fun i s => (idxIn 0x2810 0x282F i && 1 ≤ s && s ≤ 7) || (i = 0x2803 && s = 1) || idxIn 0x5200 0x5207 i) channelsFail,
   inconsistent (fun i s => idxIn 0x5400 0x5401 i || idxIn 0x5300 0x5307 i || idxIn 0x5200 0x5207 i ||
     (idxIn 0x2840 0x287F i && (s = 1 || s = 3))) checksFail]

/-! ### Sleep, loads, health and security (R413, R440, R522, R526, R539, R555) -/

/-- R440 for one channel. -/
def loadFails (c : Dev) (k : Fin 32) : Bool :=
  let r := chCfg c k
  r 4 < r 3 ||
    (r 0x0A ≠ 0 && (r 0x0C < 200 || r 0x0B < r 0x0C + 200 || r 0x0B ≤ r 0x0D || r 0x0C ≤ 1000 * r 5 ||
      bitOf (compCfg c (compOf k) 7) (k.val % 8) || bitOf (compCfg c (compOf k) 8) (k.val % 8)))

/-- Greatest instance and the qualifiers of a source (R522). -/
def sourceLimits (code : Nat) : Nat × (Nat → Bool) :=
  let none := fun (q : Nat) => decide (q = 0)
  let queue := fun (q : Nat) => decide (q ≤ 7) || q = 0x7F
  match code with
  | 1 | 2 | 5 => (19, queue)
  | 3 | 4 | 0x10 => (19, none)
  | 6 | 0x61 => (1, none)
  | 7 => (8, none)
  | 0x12 => (63, none)
  | 0x20 | 0x21 | 0x22 => (7, none)
  | 0x31 => (255, none)
  | 0x40 => (0, fun q => q ≤ 7)
  | 0x50 => (31, none)
  | _ => (0, none)

/-- R522 for one counter. -/
def sourceFails (c : Dev) (i : Nat) : Bool :=
  let v := cfg c (0x2E10 + i) 1
  (sourceLimits (bitsOf v 11 0)).1 < bitsOf v 23 16 || !(sourceLimits (bitsOf v 11 0)).2 (bitsOf v 30 24)

/-- Rules of chapters 13 to 18. -/
def platformRules : List SetRule :=
  [inconsistent (fun i s => i = 0x2B05 && 1 ≤ s && s ≤ 4) (fun c =>
     ([1, 2, 3, 4] : List Nat).any (fun s => let v := cfg c 0x2B05 s; (bitOf v 0 || bitOf v 2) && !bitOf v 1)),
   inconsistent (fun i s => i = 0x2B05 && s = 6) (fun c => 0x100000 ≤ cfg c 0x2B05 6),
   inconsistent (fun i s => (i = 0x2B02 && s = 6) || (i = 0x2100 && (s = 3 || s = 4))) (fun c =>
     (bitOf (cfg c 0x2B02 6) 0 && cfg c 0x2100 3 = 0) || (bitOf (cfg c 0x2B02 6) 1 && cfg c 0x2100 3 + 1 = cfg c 0x2100 4))] ++
  ((List.finRange 32).map fun k =>
    inconsistent (fun i s => (i = 0x2C20 + k.val && ((3 ≤ s && s ≤ 5) || (0x0A ≤ s && s ≤ 0x0D))) ||
      (i = 0x2C10 + (compOf k).val && (s = 7 || s = 8))) (fun c => loadFails c k)) ++
  ((List.range 64).map fun i => inconsistent (fun j s => j = 0x2E10 + i && s = 1) (fun c => sourceFails c i)) ++
  [inconsistent (fun i s => i = 0x2E01 && (s = 2 || s = 3)) (fun c => cfg c 0x2E01 2 ≤ cfg c 0x2E01 3),
   ⟨fun i s => i = 0x2F01 && s = 1, fun old _ => old.sec.lifecycle = 2 && 4 ≤ old.sec.positions.length, 0x08000022⟩] ++
  ((List.range 8).map fun j =>
    inconsistent (fun i s => i = 0x2F10 + j && (s = 1 || s = 3)) (fun c => cfgB c (0x2F10 + j) 3 && (cfgBytes c (0x2F10 + j) 1).isEmpty))

/-! ### The whole validation (R42) -/

/-- Every rule. -/
def setRules (l : List Staged) : List SetRule := networkRules l ++ timeRules ++ canRules ++ gatewayRules ++ platformRules

/-- Validation of the staged set: none, or the abort code and the failing entry (R42).  The present state is judged first,
write by write; the failing entry of a rule is the first staged write that brings the rule into play. -/
def validateSet (d : Dev) : Option (Nat × Nat) :=
  let l := d.dict.staged
  match l.find? (fun x => stateRefused d d.dict.imageStaged.isSome x.idx x.sub x.val) with
  | some x => some (0x08000022, 256 * x.idx + x.sub)
  | none =>
    let c := putAll l d
    (setRules l).findSome? fun r =>
      match l.find? (fun x => r.touches x.idx x.sub) with
      | some x => if r.fails d c then some (r.code, 256 * x.idx + x.sub) else none
      | none => none

end Sys2Proof.Machine
end

