-- ==== Sys2Proof/Machine/Agent.lean ====
section
/-! DEFINITION. The dictionary agent: what each immediate entry does at a write (R34), reads with an effect, commits up to
the handover (R41 to R45), fences (R47), configuration images (R50), and the one queue of all paths (R51). -/

namespace Sys2Proof.Machine

/-! ### Commits up to the handover (R41 to R45) -/

/-- The next commit epoch (R41). -/
def nextEpoch (e : Nat) : Nat := if 0xFFFFFFFF ≤ e then 1 else e + 1

/-- The set goes to the commit controller, which fixes the apply point (R43). DESIGN CHOICE, unsafe (log entry 14). -/
def handOverSet (src : Src) (d : Dev) : Dev :=
  let t := trainTime d + 20 * usNs
  let waits := scheduleActive d && d.dict.staged.any (fun x => ((rowOf x.idx x.sub).map (·.atBoundary)).getD false)
  onDict (fun q => { q with
    commit := some { src := src, staged := q.staged, applyAt := if waits then boundaryFrom d t else t, atBoundary := waits, image := q.imageStaged }
    staged := [], owner := none, idleDeadline := none, imageStaged := none, lastRefused := false }) d

/-- Validation, and the handover or the refusal of the commit (R42). DESIGN CHOICE, unsafe (log entry 13); DESIGN CHOICE,
unsafe (log entry 14); DESIGN CHOICE, unsafe (log entry 15). -/
def judgeCommit (src : Src) (d0 : Dev) : Dev :=
  let verdict := validateSet d0
  let d := draw d0
  match verdict with
  | none => handOverSet src d
  | some (code, entry) =>
    let d1 := setReg 0x2002 8 entry d
    let d2 := onlyIf (refusalCounter true code ≠ 9) (bump 0x2003 9) (onlyIf (code = 0x0F000007) refuseSignature d1)
    refuseCommit src code d2

/-- A write of 0x2002:01 (R41, R45, R413). DESIGN CHOICE, unsafe (log entry 14). -/
def commitWrite (src : Src) (v : Nat) (d : Dev) : Dev :=
  if v ≠ nextEpoch d.dict.epoch then refuseCommit src 0x0F000004 d
  else if d.dict.staged.isEmpty then refuseCommit src 0x0F000006 d
  else if d.dict.owner ≠ some (sessionKey src) then refuseCommit src 0x0F000002 d
  else if d.dict.heldCommit.isSome || d.sleep.state = .committing then refuseCommit src 0x08000022 d
  else
    let d1 := touchIdle d
    if inRound d1 then onDict (fun q => { q with heldCommit := some { src := src, deadline := d.now + 2 * sNs, epoch := d.inaug.now.epoch } }) d1
    else judgeCommit src d1

/-! ### Immediate entries -/

/-- What an immediate write comes to: a refusal with what it leaves behind, an effect that is answered at once, an answer
that goes out before the rest of the effect, or an answer that waits. -/
inductive Act where
  | refuse (code : Nat) (f : Dev → Dev)
  | done (d : Dev)
  | thenDo (d : Dev) (f : Dev → Dev)
  | later (d : Dev)

/-- An effect that the present state allows or not (row 7 of R35). -/
def Act.when (ok : Bool) (d : Dev) : Act := if ok then .done d else .refuse 0x08000022 id

/-- Immediate entries of chapter 02 (R47, R49, R50, R63, R66). DESIGN CHOICE, unsafe (log entry 17). -/
def agentAct (r : Req) (role : Nat) (v : Value) (d : Dev) : Act :=
  let n := v.toNat
  let q := d.dict
  match r.idx, r.sub with
  | 0x1010, 1 => if n = 0x65766173 && emmcReady d then .done (saveCopy d) else .refuse 0x08000020 id
  | 0x1011, 1 => if n = 0x64616F6C && emmcReady d then .done (markDefaults d) else .refuse 0x08000020 id
  | 0x2002, 2 => .later (onDict (fun q => { q with fence := some (r.src, n) }) d)
  | 0x2002, 6 =>
    if role = 1 && q.owner.isSome && q.owner ≠ some (sessionKey r.src) then .refuse 0x0F000001 id
    else Act.when (!q.heldCommit.isSome) (discardSet d)
  | 0x2011, 1 => Act.when (q.imageStatus ≠ 2) (onDict (fun q => { q with image := v.toBytes, imageStatus := 1 }) d)
  | 0x2011, 2 =>
    if n = 1 then
      if q.imageStatus = 2 then .refuse 0x08000022 id
      else .later (onDict (fun q => { q with imageStatus := 2, imageBy := some r.src }) d)
    else
      let d1 := onDict (fun q => { q with image := [], imageStatus := 0, imageBy := none, imageStaged := none }) d
      match q.imageBy with
      | some src => .done (refuseWrite src 0x2011 2 0x08000022 d1)
      | none => .done d1
  | _, _ => .done (setReg r.idx r.sub n d)

/-- The object selected in 0x27x4:01. -/
def selectedObj (d : Dev) (c : CanId) : Nat := cfg d (canIdx c 4) 1

/-- A write of a frame record (R310, R315): only the DLC and the data are taken; a remote frame carries no data. DESIGN
CHOICE, unsafe (log entry 63). -/
def frameAct (c : CanId) (bs : List Byte) (d : Dev) : Act :=
  let o := selectedObj d c
  let g := objCfg d c o
  let dlc := bitsOf (leNat (slice bs 4 1)) 3 0
  let data := bs.drop 16
  if data.length ≠ (if g.remote then 0 else dlcLength g.fdf dlc) then .refuse 0x06090030 id
  else
    Act.when (g.owner = 1 && g.tx && (objOf d c o).status = 0)
      (setObj c o { objOf d c o with dlc := BitVec.ofNat 4 dlc, data := data } d)

/-- A request is refused in the controller's mode (R315). -/
def modeRefuses (d : Dev) (c : CanId) : Bool :=
  let t := d.can[c]
  t.mode = 2 || t.mode = 3 || (t.mode = 4 && (cfg d (canIdx c 3) 4 = 0 || !t.adopted))

/-- Object commands (R306, R307, R315). DESIGN CHOICE, unsafe (log entry 63). -/
def objectAct (c : CanId) (n : Nat) (d : Dev) : Act :=
  let o := selectedObj d c
  let g := objCfg d c o
  let st := (objOf d c o).status
  if g.owner ≠ 1 then .refuse 0x08000022 id
  else match n with
    | 1 => Act.when (g.tx && st = 0 && !modeRefuses d c) (requestObj c o d)
    | 2 => Act.when (isBusy st) (cancelObj c o d)
    | _ => Act.when (isHeld st || isDone st) (ackObj c o d)

/-- Immediate entries of chapter 09 (R315, R321). -/
def canAct (c : CanId) (idx sub : Nat) (v : Value) (d : Dev) : Act :=
  match idx % 16, sub with
  | 4, 2 => frameAct c v.toBytes d
  | 4, 3 => objectAct c v.toNat d
  | 4, 7 => Act.when (d.can[c].state = .busOff && cfg d (canIdx c 0) 0x0E ≠ 0) (askRecovery c d)
  | _, _ => .done (setReg idx sub v.toNat d)

/-- Clears a counter of the selected window of 0x2504:01 (R259). -/
def clearWindow (k : Fin 7) (d : Dev) : Dev :=
  let w := cfg d 0x2504 1
  onSched (fun s => { s with counters := s.counters.map (fun c =>
    if c.window = w then { c with counts := c.counts.set k.val 0 k.isLt } else c) }) d

/-- Immediate entries of chapters 03 to 08 (R103, R110, R149, R174, R185, R215, R219). -/
def netAct (r : Req) (v : Value) (d : Dev) : Act :=
  let n := v.toNat
  if r.idx = 0x2100 && r.sub = 6 then .done (setLeading n d)
  else if r.idx = 0x2105 && r.sub = 1 then .done (setInhibit (n ≠ 0) d)
  else if r.idx = 0x2206 && r.sub = 3 then Act.when (mayRotate d n) (startRotation (Fin.ofNat 9 n) d)
  else if 0x2300 ≤ r.idx && r.idx < 0x2314 && r.sub = 0x1C then
    let p : Port := Fin.ofNat 20 (r.idx - 0x2300)
    let sel := portReg d p 0x1B
    Act.when (portReg d p 0x16 ≠ 0xFF) (mdio p (bitsOf sel 20 16) (bitsOf sel 15 0) (some n) d)
  else if 0x2300 ≤ r.idx && r.idx < 0x2314 && r.sub = 0x22 then
    let p : Port := Fin.ofNat 20 (r.idx - 0x2300)
    Act.when (!resetRefused d p) (pulseGroup (groupOf p) d)
  else if r.idx = 0x2401 && r.sub = 1 then Act.when (cfg d 0x2401 2 ≠ 0) (setReg 0x2401 1 n d)
  else if r.idx = 0x2401 && r.sub = 3 then Act.when (stepAllowed d) (requestedStep (signedOf 64 n) d)
  else if r.idx = 0x2504 && 2 ≤ r.sub && r.sub ≤ 8 then .done (if selectedPlaced d then clearWindow (Fin.ofNat 7 (r.sub - 2)) d else d)
  else .done (setReg r.idx r.sub n d)

/-- A write of 0 to a counter of the selected check channel (R365). -/
def clearCheck (sub : Nat) (d : Dev) : Dev :=
  let ch := cfg d 0x2901 1
  let x := chkOf d ch
  setChk ch (match sub with
    | 5 => { x with passed := 0 }
    | 6 => { x with crc := 0 }
    | 7 => { x with repeats := 0 }
    | 8 => { x with skips := 0 }
    | 9 => { x with expectedFails := 0 }
    | 0x0A => { x with lengths := 0 }
    | _ => { x with lost := 0 }) d

/-- A host entry: severity, event code and payload, source 0 (R390). -/
def hostEntryNow (bs : List Byte) (d : Dev) : Dev :=
  let code := leNat (slice bs 1 2)
  raiseP ⟨0, leNat (slice bs 0 1), code / 256, code % 256⟩ noInst (bs.drop 3) d

/-- Immediate entries of chapters 11 to 14 (R361, R365, R377, R378, R390, R394, R428, R430, R440). -/
def fieldAct (r : Req) (v : Value) (d : Dev) : Act :=
  let n := v.toNat
  if r.idx = 0x2901 && 5 ≤ r.sub then .done (clearCheck r.sub d)
  else if r.idx = 0x2903 then .done (setReg 0x2903 r.sub (Nat.xor (cfg d 0x2903 r.sub) (Nat.land (cfg d 0x2903 r.sub) n)) d)
  else if r.idx = 0x2A02 && r.sub = 1 then
    if n = 1 then Act.when (d.recd.state = .logging) (freezeLog d) else .done (unfreezeLog d)
  else if r.idx = 0x2A04 then .done (hostEntryNow v.toBytes d)
  else if r.idx = 0x2B01 && r.sub = 1 then .done (hostAwake (n ≠ 0) d)
  else if 0x2C10 ≤ r.idx && r.idx < 0x2C14 && r.sub = 0x0A then
    let k : Fin 4 := Fin.ofNat 4 (r.idx - 0x2C10)
    Act.when (!unlockRefused d k n) (unlockLoads k n d)
  else if 0x2C20 ≤ r.idx && r.idx < 0x2C40 && r.sub = 1 then
    let k : Fin 32 := Fin.ofNat 32 (r.idx - 0x2C20)
    Act.when (!commandRefused d k (n ≠ 0)) (commandLoad k (n ≠ 0) d)
  else .done (setReg r.idx r.sub n d)

/-- A firmware image is verified: refused, or written to the other partition (R485, R502). -/
def firmwareAct (d : Dev) : Act :=
  if cfg d 0x2D04 7 = 2 || cfg d 0x2D04 7 = 3 then .refuse 0x08000022 id
  else match firmwareVerdict d d.pow.fwImage with
    | 0 => .done (firmwareStart d)
    | 0x0F000007 => .refuse 0x0F000007 (fun x => setReg 0x2D04 7 5 (refuseSignature x))
    | c => .refuse c (setReg 0x2D04 7 6)

/-- A lifecycle command (R534, R551). -/
def lifecycleAct (n : Nat) (d : Dev) : Act :=
  if n = 0x53454355 then Act.when (!secureRefused d) (secureNow d)
  else if voidRefused d then .refuse 0x08000022 id
  else .thenDo (voidKeys d) warmResetNow

/-- A return token (R534, R551). -/
def tokenAct (src : Src) (token : List Byte) (d : Dev) : Act :=
  if d.sec.lifecycle ≠ 2 || lifecycleBusy d then .refuse 0x08000022 id
  else if !returnTokenOk d token then .refuse 0x0F000007 refuseSignature
  else .done (returnNow (fun s => match src with
    | .kda id _ => s.id = id
    | _ => false) d)

/-- Immediate entries of chapters 16 to 19 (R485, R501, R508, R521, R524, R534, R570). -/
def platformAct (r : Req) (v : Value) (d : Dev) : Act :=
  let n := v.toNat
  if r.idx = 0x2D02 && r.sub = 1 then (if warmRefused d then .refuse 0x08000022 id else .thenDo d warmResetNow)
  else if r.idx = 0x2D04 && r.sub = 5 then
    Act.when (cfg d 0x2D04 7 ≠ 2 && cfg d 0x2D04 7 ≠ 3) (setReg 0x2D04 7 1 (onPow (fun p => { p with fwImage := v.toBytes }) d))
  else if r.idx = 0x2D04 && r.sub = 6 then (if n = 1 then firmwareAct d else .done (firmwareDrop d))
  else if r.idx = 0x2E04 && r.sub = 6 then .done (emptyTracker d)
  else if r.idx = 0x2E08 && r.sub = 2 then .done (if bitOf (cfg d 0x2E08 1) 0 then snapshot d else d)
  else if 0x2E10 ≤ r.idx && r.idx < 0x2E50 && (r.sub = 5 || r.sub = 7) then
    let i : Fin 64 := Fin.ofNat 64 (r.idx - 0x2E10)
    .done (onHealth (fun h => { h with counters := vmod h.counters i (fun c =>
      if r.sub = 5 then { c with value := 0 } else { c with overflow := false }) }) d)
  else if r.idx = 0x2F00 && r.sub = 2 then lifecycleAct n d
  else if r.idx = 0x2F00 && r.sub = 3 then tokenAct r.src v.toBytes d
  else .done (setReg r.idx r.sub n d)

/-- The effect of a write to an immediate entry that has passed rows 1 to 4 of R35; entries without one of their own here
take the value, and a counter is 0 then (R64). -/
def actOn (r : Req) (role : Nat) (v : Value) (d : Dev) : Act :=
  if r.idx < 0x2100 then agentAct r role v d
  else if 0x2700 ≤ r.idx && r.idx < 0x2780 then canAct (Fin.ofNat 8 ((r.idx - 0x2700) / 16)) r.idx r.sub v d
  else if r.idx < 0x2900 then netAct r v d
  else if r.idx < 0x2D00 then fieldAct r v d
  else platformAct r v d

/-! ### Serving one request -/

/-- A write (R34 to R36).  A write of 1 to 0x2011:02 counts as accepted at the end of the verification only (R36). DESIGN
CHOICE, unsafe (log entry 13). -/
def serveWrite (r : Req) (data : List Byte) (d : Dev) : Dev :=
  let role := roleOf d r.src
  match checkWrite d role r.idx r.sub r.off data with
  | .error code => refuseWrite r.src r.idx r.sub code d
  | .ok (row, v) =>
    if r.idx = 0x2002 && r.sub = 1 then commitWrite r.src v.toNat d
    else if row.imm then
      let verifies := r.idx = 0x2011 && r.sub = 2 && v.toNat = 1
      match actOn r role v (onlyIf (!verifies) (bump 0x2003 1) d) with
      | .refuse code f => refuseWrite r.src r.idx r.sub code (f d)
      | .done d' => answerWrite r.src r.idx r.sub 0 d'
      | .thenDo d' f => f (answerWrite r.src r.idx r.sub 0 d')
      | .later d' => d'
    else
      let x : Staged := { idx := r.idx, sub := r.sub, val := v, spans := if isTable r.idx then [(r.off, data.length)] else [] }
      match stageError d (sessionKey r.src) x with
      | some code => refuseWrite r.src r.idx r.sub code d
      | none => answerWrite r.src r.idx r.sub 0 (stageWrite (sessionKey r.src) x d)

/-- A read that the present state refuses (R174, R315, R376). -/
def readRefused (d : Dev) (idx sub : Nat) : Bool :=
  if 0x2300 ≤ idx && idx < 0x2314 && sub = 0x1C then portReg d (Fin.ofNat 20 (idx - 0x2300)) 0x16 = 0xFF
  else if 0x2700 ≤ idx && idx < 0x2780 && idx % 16 = 4 && sub = 2 then
    let c : CanId := Fin.ofNat 8 ((idx - 0x2700) / 16)
    (objCfg d c (selectedObj d c)).owner ≠ 1
  else if idx = 0x2A03 && sub = 2 then
    match d.recd.state with
    | .off | .scanning | .closed => true
    | _ => false
  else false

/-- The value that a read returns: an MDIO register as the PHY answers (R174), else the committed value (R38). -/
def readValueOf (r : Req) (row : EntryRow) (d : Dev) : List Byte :=
  if 0x2300 ≤ r.idx && r.idx < 0x2314 && r.sub = 0x1C then
    leBytes 2 ((r.phy.map (·.toNat)).getD (Config.freeNat d.fresh % 65536))
  else encodeValue row.ty (entryValue d r.idx r.sub)

/-- What a read does besides: it removes the oldest record of a queue (R210, R214, R343), or makes an MDIO access (R174). -/
def readEffect (idx sub : Nat) (d : Dev) : Dev :=
  if idx = 0x2403 && sub = 0x0A then { d with time := { d.time with captures := d.time.captures.drop 1 } }
  else if 0x2410 ≤ idx && idx < 0x2424 && sub = 9 then
    onPortTime (Fin.ofNat 20 (idx - 0x2410)) (fun t => { t with txQueue := t.txQueue.drop 1 }) d
  else if idx = 0x2802 && sub = 1 then onGw (fun g => { g with log := g.log.drop 1 }) d
  else if 0x2300 ≤ idx && idx < 0x2314 && sub = 0x1C then
    let p : Port := Fin.ofNat 20 (idx - 0x2300)
    let sel := portReg d p 0x1B
    draw (mdio p (bitsOf sel 20 16) (bitsOf sel 15 0) none d)
  else if 0x5000 ≤ idx && idx ≤ 0x500F then { d with fresh := d.fresh + 4096 }
  else d

/-- The answer to a read. -/
def answerRead (r : Req) (abort : Nat) (data : List Byte) (total : Nat) (d : Dev) : Dev :=
  answer r.src { idx := r.idx, sub := r.sub, write := false, abort := abort, data := data, total := total } d

/-- Rows 1 to 3 and the state rules of a read: the abort code, or the whole value. -/
def judgeRead (d : Dev) (r : Req) : Except Nat (List Byte) :=
  match findRow r.idx r.sub with
  | .error c => .error c
  | .ok row =>
    match row.readError (roleOf d r.src) with
    | some c => .error c
    | none =>
      let bs := readValueOf r row d
      let whole : Bool := match row.ty with
        | .domain _ => decide (bs.length < r.off)
        | _ => r.off ≠ 0
      if whole then .error 0x0F000009
      else if readRefused d r.idx r.sub then .error 0x08000022
      else .ok bs

/-- A read (R35, R38). -/
def serveRead (r : Req) (wanted : Nat) (d : Dev) : Dev :=
  match judgeRead d r with
  | .error c => answerRead r c [] 0 d
  | .ok bs => answerRead r 0 (slice bs r.off wanted) bs.length (readEffect r.idx r.sub d)

/-- Serves a request at its turn; the session of a KDA request may have closed meanwhile, and then it is dropped. -/
def serveNow (r : Req) (d : Dev) : Dev :=
  let gone : Bool := match r.src with
    | .kda id _ => (sessionOf d id).isNone
    | _ => false
  if gone then d
  else match r.op with
    | .read n => serveRead r n d
    | .write data => serveWrite r data d

/-! ### The queue (R44, R47, R51) -/

/-- A request asks for a write. -/
def Req.isWrite (r : Req) : Bool :=
  match r.op with
  | .write _ => true
  | .read _ => false

/-- An access to a PHY register through MDIO, which never waits for a commit (R174). -/
def mdioRequest (r : Req) : Bool := 0x2300 ≤ r.idx && r.idx < 0x2314 && r.sub = 0x1C

/-- The request waits: a commit is being applied, earlier requests wait, a fence stands before a write, or a commit is
written before the boot load, commit epoch 1, has applied (R41, R44, R47). DESIGN CHOICE, unsafe (log entry 16). -/
def mustWait (d : Dev) (r : Req) : Bool :=
  (!mdioRequest r && (d.dict.commit.isSome || !d.dict.queue.isEmpty)) || (d.dict.fence.isSome && r.isWrite) ||
    (!d.pow.booted && r.isWrite && r.idx = 0x2002 && r.sub = 1)

/-- A request arrives at the dictionary agent (R51); while the control complex restarts no path answers (R52). DESIGN CHOICE,
unsafe (log entry 16). -/
def submit (r : Req) (d : Dev) : Dev :=
  if !d.pow.agentReady then d
  else if mustWait d r then onDict (fun q => { q with queue := q.queue ++ [r] }) d
  else serveNow r d

/-- Serves waiting requests in arrival order, as far as they may go. DESIGN CHOICE, unsafe (log entry 16); DESIGN CHOICE,
unsafe (log entry 25). -/
def serveAll (l : List Req) (d : Dev) : Dev := forEach l submit d

/-- Requests that waited resume (R44, R47). DESIGN CHOICE, unsafe (log entry 16). -/
def resume (d : Dev) : Dev := serveAll d.dict.queue (onDict (fun q => { q with queue := [] }) d)

end Sys2Proof.Machine
end

