-- ==== Sys2Proof/Machine/Apply.lean ====
section
/-! DEFINITION. Apply points: the boot load as commit epoch 1 (R483), committed sets with their effect on every island (R43 to
R46), islands that do not acknowledge (R45, R479), held commits (R45), fences (R47) and image verification (R50). -/

namespace Sys2Proof.Machine

/-! ### Step 9 of the boot (R483, R492, R494, R496) -/

/-- The boot profile, or Recovery when the latch is set (R23, R492). -/
def bootInto (d : Dev) : Dev :=
  if d.pow.latch then
    enterProfile 4 (setReg 0x2001 6 (if d.pow.epochAppliedBeforeEpisode then 1 else 2) (raise evRecovery noInst d))
  else bootProfile d

/-- Every block starts on the boot load, commit epoch 1. DESIGN CHOICE, unsafe (log entry 95). -/
def startBlocks (d : Dev) : Dev :=
  let d1 := applyTevt (bootSched (bootInaug (bootPorts d)))
  let d2 := applyChecks d1 (gwStart (bootCan (applyStreams d1)))
  healthBoot (loadsStart d2)

/-- Step 9: the apply point of commit epoch 1. -/
def bootApply (d : Dev) : Dev :=
  let drive := !d.pow.island40Failed
  let d1 := onPow (fun p => { p with
    state := .active, booted := true, bootStep := 0, wakeDeadline := none, bypassA := drive, bypassB := drive
    seqState := if p.latch then .recovery else p.seqState }) d
  let d2 : Dev := { d1 with
    dict := { d1.dict with epoch := 1 }, time := { d1.time with appliedAt := some d1.now, announceDeadline := announceTimeout d1 }
    fab := { d1.fab with forwarding := true }, pins := { d1.pins with gpioLive := true } }
  let d3 := setReg 0x2D00 9 ((d2.now - d2.pow.bootStart) / msNs) (settleSafe d2)
  resume (plannerGate (sleepBooted (bootInto (startBlocks d3))))

/-! ### A committed set applies -/

/-- The set writes an entry. -/
def writes (l : List Staged) (i s : Nat) : Bool := l.any (fun x => x.idx = i && x.sub = s)

/-- The set writes an index. -/
def writesIndex (l : List Staged) (i : Nat) : Bool := l.any (fun x => x.idx = i)

/-- The message buses at an apply point (R313, R314): objects whose configuration changes are reset, controllers written
start again, and transfers of servers that stop end. -/
def applyBuses (old : Dev) (l : List Staged) (d : Dev) : Dev :=
  forEach allCan (fun c d =>
    let objs := (listedObjs old c ++ listedObjs d c ++ [126, 127]).eraseDups.filter (fun o => objCfg old c o ≠ objCfg d c o)
    let d1 := forEach objs (resetObj c) d
    let d2 := onlyIf (!sdoOn d1 c) (sdoIdle c) d1
    if writesIndex l (canIdx c 0) || writesIndex l (canIdx c 3) then applyCan c d2 else d2) d

/-- The schedule at an apply point (R234, R242, R254). -/
def applySchedule (old : Dev) (l : List Staged) (d : Dev) : Dev :=
  let source := cfg d 0x2501 1
  let d0 := onlyIf (cfg old 0x2501 2 ≠ cfg d 0x2501 2) (onSched (fun s => { s with offered := none })) d
  let d1 := if cfg old 0x2501 1 ≠ source && d.node.profile ≠ 1 then applySchedSource source d0 else d0
  let d2 := if writes l 0x2503 1 then applySchedImage d1 else d1
  let lists := l.any (fun x => 0x5100 ≤ x.idx && x.idx ≤ 0x5113) || writes l 0x2501 9 || writes l 0x2501 0x0A
  if lists && source = 2 && d2.node.profile ≠ 1 then onSched (fun s => { s with switchPending := true }) d2 else d2

/-- An integrator key that a verified image brings in Secured is fused (R539). -/
def applyKey (old : Dev) (l : List Staged) (d : Dev) : Dev :=
  match stagedAt { old.dict with staged := l } 0x2F01 1 with
  | some x => if d.sec.lifecycle = 2 then rotateKey x.val.toBytes d else d
  | none => d

/-- The image of a committed set is applied: every stored entry is saved, and its identifier and security version are
written (R50, R539). -/
def applyImage (image : Option (Nat × Nat)) (d : Dev) : Dev :=
  match image with
  | some (ident, version) =>
    let d1 := setReg 0x2F01 4 version (setReg 0x2011 4 ident (onDict (fun q => { q with imageStatus := 6 }) d))
    if emmcReady d1 then saveCopy d1 else d1
  | none => d

/-- Every island applies its part of the set (R17, R43). DESIGN CHOICE, unsafe (log entry 108). -/
def applySet (k : Commit) (d : Dev) : Dev :=
  let l := k.staged
  let d1 := putAll l d
  let d2 := bump 0x2003 8 (onDict (fun q => { q with epoch := nextEpoch q.epoch }) d1)
  let d3 := applyPorts d (writes l) (applyInaug d d2)
  let d4 := applySchedule d l (applyStreams d3)
  let d4 := applyTime d d4
  let d5 := if writes l 0x2403 4 || writes l 0x2403 5 || writes l 0x2403 6 || writes l 0x2403 7 then applyTevt d4 else d4
  let d6 := gwSweep (applyGateway d (applyChecks d (applyBuses d l d5)))
  let d7 := applyLoads d d6
  let d8 := if writes l 0x2001 1 then profileAtCommit d7 else d7
  applyImage k.image (applyKey d l (judgeSleep (settleNeed false d8)))

/-- Sessions that the set closes, after the answer (R65, R545): the most recently opened above a lower limit, and those of
role keys disabled or lowered. DESIGN CHOICE, unsafe (log entry 25); DESIGN CHOICE, unsafe (log entry 79). -/
def closePaths (old d : Dev) : Dev :=
  let lowered := fun (slot : Nat) =>
    3 ≤ slot && slot ≤ 10 &&
      (let i := 0x2F10 + (slot - 3)
       (cfgB old i 3 && !cfgB d i 3) || cfg d i 2 < cfg old i 2)
  let limit := cfg d 0x2010 0x0D
  let kept := (d.dict.sessions.take limit).map (·.id)
  keepSessions (fun s => (kept.contains s.id) && !lowered (leNat (slice s.transcript 1 1))) d

/-- The commit is over: it is answered, at once or after the restart of the control complex, and waiting requests resume
(R44, R46, R498). -/
def endCommit (old : Dev) (k : Commit) (code : Nat) (d : Dev) : Dev :=
  let d1 := onDict (fun q => { q with commit := none }) d
  let d2 := if d1.pow.agentReady then answerWrite k.src 0x2002 1 code d1
    else onDict (fun q => { q with owed := some (k.src, code) }) d1
  resume (closePaths old d2)

/-- APPLY_POINT: of a committed set, or of the boot load (R43, R46, R483). DESIGN CHOICE, unsafe (log entry 14); DESIGN
CHOICE, unsafe (log entry 108). -/
def execApplyPoint (s : State) : Result :=
  s.does fun d =>
    match d.dict.commit with
    | some k =>
      let d1 := arriveTrain k.applyAt d
      endCommit d1 k 0 (bump 0x2003 1 (onPow (fun p => { p with stale := 0 }) (applySet k d1)))
    | none => if d.pow.agentReady && !d.pow.booted && d.pow.bootStep = 8 then bootApply d else d

/-! ### An island does not acknowledge (R45, R479) -/

/-- Island 36 alone is reset: session keys, challenges and grants are gone (R479, R545). -/
def resetSecurity (d : Dev) : Dev :=
  keepSessions (fun _ => false) (onSec (fun s => { SecS.reset with
    lifecycle := s.lifecycle, positions := s.positions, fwVersion := s.fwVersion, keysZeroised := s.keysZeroised }) (endGrant d))

/-- What the platform does about an island (R479). DESIGN CHOICE, unsafe (log entry 79). -/
def islandFails (i : Fin 41) (d : Dev) : Dev :=
  if i.val < 20 then
    let p : Port := Fin.ofNat 20 i.val
    match d.ports.p[p].link with
    | .acquiring | .upHold | .up => enterAcquiring p (leaveUp p d)
    | _ => d
  else if i.val < 29 then
    let sl : Slice := Fin.ofNat 9 (i.val - 20)
    if d.fab.active.contains sl then retireSlice sl 2 d else d
  else if i = 32 then applyStreams (onStrm (fun _ => StreamsS.reset) d)
  else if i = 33 then
    let d1 : Dev := { d with gw := GwS.reset, chk := [], can := Vector.replicate 8 CanCtl.reset }
    applyChecks d1 (gwStart (bootCan d1))
  else if i = 36 then d
  else onPow (fun p => { p with stale := p.stale ||| BitVec.ofNat 64 (2 ^ i.val) }) d

/-- ISLAND_ACK_TIMEOUT: the set applies in the other islands, the platform acts on this one, and the commit is answered with
0x0606_0000 (R45, R479). DESIGN CHOICE, unsafe (log entry 95); DESIGN CHOICE, unsafe (log entry 108). -/
def execIslandAckTimeout (island : Fin 41) (s : State) : Result :=
  s.does fun d =>
    match d.dict.commit with
    | none => d
    | some k =>
      let d1 := arriveTrain k.applyAt d
      let d2 := islandFails island (onPow (fun p => { p with stale := 0 }) (applySet k d1))
      let d3 := raise evNotAcked island.val (bump 0x2D05 9 (countRefusal true 0x2002 1 0x06060000 (arrive (d1.now + msNs) d2)))
      let d4 := endCommit d1 k 0x06060000 d3
      if island = 36 then resetSecurity d4 else d4

/-! ### Held commits, fences and the idle staging set -/

/-- COMMIT: a write of the next commit epoch (R41). -/
def commitReq (src : Src) (value : Word32) : Req :=
  { src := src, idx := 0x2002, sub := 1, off := 0, op := .write (leBytes 4 value.toNat), phy := none }

/-- COMMIT_HOLD_RELEASE: an epoch switch point has passed since the commit was written (R45). DESIGN CHOICE, unsafe (log
entry 15). -/
def execCommitHoldRelease (s : State) : Result :=
  s.does fun d =>
    match d.dict.heldCommit with
    | some h =>
      if d.inaug.now.epoch ≠ h.epoch then judgeCommit h.src (onDict (fun q => { q with heldCommit := none }) d) else d
    | none => d

/-- COMMIT_HOLD_TIMEOUT (R45). DESIGN CHOICE, unsafe (log entry 15). -/
def execCommitHoldTimeout (s : State) : Result :=
  s.does fun d =>
    match d.dict.heldCommit with
    | some h => refuseCommit h.src 0x0F00000C (onDict (fun q => { q with heldCommit := none }) (arrive h.deadline d))
    | none => d

/-- FENCE_COMPLETE (R47). -/
def execFenceComplete (s : State) : Result :=
  s.does fun d =>
    match d.dict.fence with
    | some (src, token) =>
      resume (answerWrite src 0x2002 2 0 (onDict (fun q => { q with fence := none, fenceToken := token }) d))
    | none => d

/-- STAGING_IDLE_TIMEOUT (R39). -/
def execStagingIdleTimeout (s : State) : Result :=
  s.does fun d =>
    match d.dict.idleDeadline with
    | some t => discardSet (onDict (fun q => { q with idleDeadline := none }) (arrive t d))
    | none => d

/-! ### Image verification (R50, R537, R539) -/

/-- The verdict on the image: 0, or the abort code. DESIGN CHOICE, safe (log entry 9). -/
def imageVerdict (d : Dev) (bs : List Byte) : Nat :=
  let body := bs.take (bs.length - blockSize)
  let block := bs.drop (bs.length - blockSize)
  let (product, line, _) := Config.imageHead body
  if !(blockSize ≤ bs.length && blockOk d 2 body block && cfg d 0x2F01 4 ≤ blockVersion block) then 0x0F000007
  else if product ≠ (entryValue d 0x1018 2).toNat || line ≠ majorLine d then 0x0F000008
  else 0

/-- Adds the image's writes to the set of a session, each as if it had arrived on that path (R50). DESIGN CHOICE, safe (log
entry 9). -/
def stageImage (role : Nat) : List (Nat × Nat × Nat × List Byte) → Dev → Except Nat Dev
  | [], d => .ok d
  | (idx, sub, off, data) :: ws, d =>
    match checkWrite d role idx sub off data with
    | .error c => .error c
    | .ok (row, v) =>
      if row.imm || d.dict.heldCommit.isSome || stateRefused d true idx sub v then .error 0x08000022
      else
        let x : Staged := { idx := idx, sub := sub, val := v, spans := if isTable idx then [(off, data.length)] else [] }
        stageImage role ws (onDict (fun q => { q with staged := putStage q.staged x }) d)

/-- The verified image becomes the staging set of the session that asked for it, or is kept (R50). DESIGN CHOICE, unsafe (log
entry 17). -/
def takeImage (src : Src) (d : Dev) : Dev :=
  let status := fun (n : Nat) => onDict (fun q => { q with imageStatus := n })
  let body := d.dict.image.take (d.dict.image.length - blockSize)
  if !d.dict.staged.isEmpty && d.dict.owner ≠ some (sessionKey src) then refuseWrite src 0x2011 2 0x0F000002 (status 7 d)
  else match stageImage (roleOf d src) (Config.imageWrites body) d with
    | .error c => refuseWrite src 0x2011 2 c (status 1 d)
    | .ok d1 =>
      if !fits d1.dict.staged then refuseWrite src 0x2011 2 0x0F000003 (status 7 d)
      else
        let version := blockVersion (d.dict.image.drop (d.dict.image.length - blockSize))
        answerWrite src 0x2011 2 0 (bump 0x2003 1 (touchIdle (status 3 (onDict (fun q => { q with
          owner := some (sessionKey src), imageStaged := some ((Config.imageHead body).2.2, version) }) d1))))

/-- IMAGE_VERIFICATION_END (R50). DESIGN CHOICE, unsafe (log entry 17). -/
def execImageVerificationEnd (s : State) : Result :=
  s.does fun d =>
    match d.dict.imageStatus, d.dict.imageBy with
    | 2, some src =>
      let d1 := onDict (fun q => { q with imageBy := none }) d
      let fails := fun (n code : Nat) (x : Dev) => refuseWrite src 0x2011 2 code (onDict (fun q => { q with imageStatus := n }) x)
      match imageVerdict d d.dict.image with
      | 0 => takeImage src d1
      | 0x0F000007 => fails 4 0x0F000007 (refuseSignature d1)
      | c => fails 5 c d1
    | _, _ => d

end Sys2Proof.Machine
end

