-- ==== Sys2Proof/Machine/Access.lean ====
section
/-! DEFINITION. The access paths: SDO servers (R53, R54), KDA sessions (R55 to R60, R542 to R545), the two mailboxes (R61,
R452, R453) and the serial host port's writes (R448), and the commands that are each a request at the dictionary agent. -/

namespace Sys2Proof.Machine

/-! ### KDA frames (R55, R56, R59) -/

/-- Addresses at which the node answers KDA (R55, R98, R101): its train-wide address, the previous one while the overlap
window runs, and on a consist port its consist-local address. DEDUCED, unsafe (log entry 116). -/
def kdaAddresses (d : Dev) (p : Port) : List Nat :=
  let wide := fun (n : Numbering) => if n.node = 0 then [] else [0x0A800000 + n.node]
  wide d.inaug.now ++ (if d.inaug.overlapEnd.isSome then (d.inaug.prev.map wide).getD [] else []) ++
    (if isBackbone p then [] else [cfg d 0x2800 2])

/-- A KDA frame is addressed to the node: UDP port 17394 of one of its addresses, over IPv4, on an Up port that serves KDA
and may pass the frame (R55, R104, R109, R166). DEDUCED, unsafe (log entry 116). -/
def kdaAddressed (h : KdaHeader) (d : Dev) : Bool :=
  let p := h.peer.port
  portUp d p && !protocolOnly d p && bitOf (cfg d 0x2010 0x0C) p.val && h.ipv4 && !h.fragmented && h.udpPort = 17394 &&
    (kdaAddresses d p).contains h.peer.own.toNat

/-- A KDA frame with a payload of `n` bytes arrives: it is counted at its port (R175), and heard when it is addressed to the
node, stands among the first 2,000 of the port within one second, and has the layout of R56 with version 1; while the control
complex restarts, none is heard (R52).  The seconds are those of local time, one after the other; a frame whose magic, length
or reserved bytes break the layout is dropped, and no counter of 0x2010 names it. DESIGN CHOICE, unsafe (log entry 22). -/
def kdaHeard (h : KdaHeader) (n : Nat) (act : Dev → Dev) (d0 : Dev) : Dev :=
  let p := h.peer.port
  let d := if portUp d0 p then countGood p (frameLen (28 + 32 + n)) d0 else d0
  if !d.pow.agentReady || !kdaAddressed h d then d
  else
    let second := d.now / sNs
    let counts := if second = d.dict.kdaSecond then d.dict.kdaCount else Vector.replicate 20 0
    let d1 := onDict (fun q => { q with kdaSecond := second, kdaCount := vmod counts p (· + 1) }) d
    if 2000 ≤ counts[p] then bump 0x2010 0x12 d1
    else if h.magic ≠ 0x4B44 || h.length.toNat ≠ n || 1440 < n || h.reserved ≠ 0 then d1
    else if h.version ≠ 1 then bump 0x2010 0x12 d1
    else act d1

/-- Local time at which a session expires without a further frame (R59). -/
def idleEnd (d : Dev) : Nat := d.now + cfg d 0x2010 0x0E * sNs

/-- A frame of an open session whose tag verifies; every other frame is dropped and counted (R59). -/
def kdaSession (h : KdaHeader) (n : Nat) (act : KdaSession → Dev → Dev) (d : Dev) : Dev :=
  kdaHeard h n (fun d => match sessionOf d h.session with
    | some s => if s.open_ && h.tagOk then act s d else bump 0x2010 0x12 d
    | none => bump 0x2010 0x12 d) d

/-- A valid frame binds the session to its port and puts off its expiry (R59, R60). DESIGN CHOICE, unsafe (log entry 22). -/
def kdaValid (h : KdaHeader) (d : Dev) : Dev := onSession h.session (fun s => { s with peer := h.peer, deadline := idleEnd d }) d

/-- A frame of a session is a request: the next in sequence is served, a repeat of the last gets the stored response again,
any other is dropped and counted (R59). DESIGN CHOICE, unsafe (log entry 22). -/
def inSequence (h : KdaHeader) (serve : Dev → Dev) (s : KdaSession) (d : Dev) : Dev :=
  if h.seq = s.lastSeq then
    match s.stored with
    | some (op, payload) => sendKda h.peer (some s.key) s.id s.lastSeq op payload (kdaValid h d)
    | none => kdaValid h d
  else if h.seq = s.lastSeq + 1 && s.stored.isSome then
    serve (onSession h.session (fun s => { s with lastSeq := h.seq, stored := none }) (kdaValid h d))
  else bump 0x2010 0x12 d

/-- A KDA request frame of `n` payload bytes (R59). DESIGN CHOICE, unsafe (log entry 22). -/
def kdaRequest (h : KdaHeader) (n : Nat) (serve : Dev → Dev) (d : Dev) : Dev := kdaSession h n (inSequence h serve) d

/-- The request block of R58: index, subindex, offset and length. DESIGN CHOICE, unsafe (log entry 22). -/
def requestBlock (bs : List Byte) : Nat × Nat × Nat × Nat :=
  (beNat (slice bs 0 2), beNat (slice bs 2 1), beNat (slice bs 4 4), beNat (slice bs 8 2))

/-- READ (R58); a payload that is no request block is answered with 0x0607_0010.  A READ of no bytes is served with no data,
and one of more than 1,400 with 1,400. DESIGN CHOICE, unsafe (log entry 22). -/
def execKdaRead (h : KdaHeader) (payload : List Byte) (s : State) : Result :=
  s.does (kdaRequest h payload.length fun d =>
    let (idx, sub, off, wanted) := requestBlock payload
    let r : Req := { src := .kda h.session h.seq, idx := idx, sub := sub, off := off, op := .read (min wanted 1400), phy := none }
    if payload.length < 12 then answerRead r 0x06070010 [] 0 d else submit r d)

/-- WRITE (R58); a payload whose data have another length than it says is refused with 0x0607_0010. DESIGN CHOICE, unsafe
(log entry 22). -/
def execKdaWrite (h : KdaHeader) (payload : List Byte) (s : State) : Result :=
  s.does (kdaRequest h payload.length fun d =>
    let (idx, sub, off, len) := requestBlock payload
    let src : Src := .kda h.session h.seq
    if payload.length < 12 || payload.length ≠ 12 + len || 1400 < len then refuseWrite src idx sub 0x06070010 d
    else submit { src := src, idx := idx, sub := sub, off := off, op := .write (payload.drop 12), phy := none } d)

/-- KEEPALIVE (R57, R59): it takes no answer and no sequence number. -/
def execKeepalive (h : KdaHeader) (s : State) : Result := s.does (kdaSession h 0 fun _ d => kdaValid h d)

/-- CLOSE (R542, R545). -/
def execClose (h : KdaHeader) (s : State) : Result := s.does (kdaSession h 0 fun _ d => keepSessions (fun x => x.id ≠ h.session) d)

/-- A KDA frame with an unknown opcode: ERROR 0x0504_0001, stored as the response (R57, R59). -/
def execKdaOpcodeInvalid (h : KdaHeader) (_opcode : BitVec 8) (s : State) : Result :=
  s.does (kdaRequest h h.length.toNat fun d => match sessionOf d h.session with
    | some x => sendStored x 0x1F (beBytes 4 0x05040001) d
    | none => d)

/-- SESSION_EXPIRY (R59). -/
def execSessionExpiry (session : BitVec 32) (s : State) : Result :=
  s.does fun d => match sessionOf d session with
    | some x => if x.open_ then keepSessions (fun y => y.id ≠ session) (arrive x.deadline d) else d
    | none => d

/-- CHALLENGE_TIMEOUT: a half-open session is discarded (R544). -/
def execChallengeTimeout (session : BitVec 32) (s : State) : Result :=
  s.does fun d => match sessionOf d session with
    | some x => if x.open_ then d else keepSessions (fun y => y.id ≠ session) (arrive x.deadline d)
    | none => d

/-! ### Opening a session (R542 to R544) -/

/-- ERROR with a tag of zeros (R544). DESIGN CHOICE, unsafe (log entry 23). -/
def kdaError (peer : KdaPeer) (session : BitVec 32) (code : Nat) (d : Dev) : Dev := sendKda peer none session 0 0x1F (beBytes 4 code) d

/-- An identifier that no session has, from `i` on (R56). DESIGN CHOICE, unsafe (log entry 23). -/
def freeSession (l : List KdaSession) : Nat → Nat → Nat
  | 0, i => 1 + i % 0x0FFFFFFF
  | n + 1, i => if l.any (fun s => s.id = BitVec.ofNat 32 (1 + i % 0x0FFFFFFF)) then freeSession l n (i + 1) else 1 + i % 0x0FFFFFFF

/-- The info of the key derivation (R543). -/
def keyInfo (id : Nat) : List Byte := beBytes 4 0x4B444131 ++ beBytes 4 id

/-- A new half-open session and its CHALLENGE (R542, R543). DESIGN CHOICE, unsafe (log entry 23). -/
def challenge (h : KdaHeader) (payload : List Byte) (d : Dev) : Dev :=
  let id := freeSession d.dict.sessions d.dict.sessions.length (Config.freeNat d.fresh)
  let nonce := randomField 16 d
  let head := nonce ++ (Config.ephemeralKey d.fresh ++ List.replicate 64 0).take 64
  let t := payload ++ head ++ beBytes 4 id
  let sign := (Config.ecdsaSign (leBytes 1 0x44 ++ t) ++ List.replicate 64 0).take 64
  let key := Config.deriveKey (Config.ecdhShared d.fresh (slice payload 20 64)) (slice payload 4 16 ++ nonce) (keyInfo id)
  let x : KdaSession := { id := BitVec.ofNat 32 id, open_ := false, role := 0, peer := h.peer, key := key, transcript := t,
                          lastSeq := 0, stored := none, deadline := d.now + sNs }
  sendKda h.peer none x.id 0 2 (head ++ sign) (draw (onDict (fun q => { q with sessions := q.sessions ++ [x] }) d))

/-- OPEN (R540, R542, R544); a frame that is no OPEN of R542 is dropped and counted. DESIGN CHOICE, unsafe (log entry 23). -/
def execKdaOpen (h : KdaHeader) (payload : List Byte) (s : State) : Result :=
  s.does (kdaHeard h payload.length fun d =>
    if h.session ≠ 0 || h.seq ≠ 0 || payload.length ≠ 84 then bump 0x2010 0x12 d
    else if !d.sec.randomOk || d.sec.proofLockEnd.isSome then kdaError h.peer 0 0x0F00000A d
    else if cfg d 0x2010 0x0D ≤ d.dict.sessions.length then kdaError h.peer 0 0x0F00000B d
    else challenge h payload d)

/-- The public key of a slot that is enabled and allowed in the lifecycle state (R544, R549, R555). -/
def slotKey (d : Dev) (slot : Nat) : Option (List Byte) :=
  if d.sec.lifecycle = 4 then none
  else if slot = 1 then some (Config.stantouneKey 1)
  else if 3 ≤ slot && slot ≤ 10 && d.sec.lifecycle ≠ 3 && cfgB d (0x2F10 + (slot - 3)) 3 then
    some (cfgBytes d (0x2F10 + (slot - 3)) 1)
  else none

/-- The role that a slot is granted, if any (R544). -/
def slotRole (d : Dev) (slot requested : Nat) : Option Nat :=
  if slot = 1 then (if requested ≤ 3 then some requested else none)
  else if requested < 3 then some (min requested (cfg d (0x2F10 + (slot - 3)) 2))
  else none

/-- A failed proof is counted; after 5 within 60 s every OPEN is refused for 60 s (R544). DESIGN CHOICE, unsafe (log entry
23). -/
def proofFailed (d : Dev) : Dev :=
  let keep := d.sec.proofFails.filter (fun t => d.now < t + 60 * sNs) ++ [d.now]
  let d1 := bump 0x2F05 2 (onSec (fun s => { s with
    proofFails := if 5 ≤ keep.length then [] else keep
    proofLockEnd := if 5 ≤ keep.length then some (d.now + 60 * sNs) else s.proofLockEnd }) d)
  if 5 ≤ keep.length then raise evLockout noInst d1 else d1

/-- A session is accepted with a role (R542, R544). DESIGN CHOICE, unsafe (log entry 23). -/
def acceptSession (h : KdaHeader) (s : KdaSession) (role : Nat) (d : Dev) : Dev :=
  let payload := leBytes 1 role ++ leBytes 1 0 ++ beBytes 2 (cfg d 0x2010 0x0E) ++ leBytes 4 0
  let d1 := onSession s.id (fun x => { x with
    open_ := true, role := role, peer := h.peer, stored := some (4, payload), deadline := idleEnd d }) (bump 0x2F05 1 d)
  sendKda h.peer (some s.key) s.id 0 4 payload (onlyIf (2 ≤ role) (raise evSession noInst) d1)

/-- The proof of a half-open session is judged (R543, R544). DESIGN CHOICE, unsafe (log entry 23). -/
def judgeProof (h : KdaHeader) (payload : List Byte) (s : KdaSession) (d : Dev) : Dev :=
  let slot := leNat (slice s.transcript 1 1)
  let refuse := fun (d : Dev) => kdaError h.peer s.id 0x0F00000A (keepSessions (fun x => x.id ≠ s.id) d)
  match slotKey d slot with
  | none => refuse d
  | some key =>
    if payload.length = 64 && Config.ecdsaVerify key (leBytes 1 0x50 ++ s.transcript) payload then
      match slotRole d slot (leNat (slice s.transcript 0 1)) with
      | some role => acceptSession h s role d
      | none => refuse d
    else refuse (proofFailed d)

/-- PROOF (R542, R544); a PROOF repeated after ACCEPT is a request with the last sequence number (R59). DESIGN CHOICE, unsafe
(log entry 23). -/
def execProof (h : KdaHeader) (payload : List Byte) (s : State) : Result :=
  s.does fun d => match sessionOf d h.session with
    | some x =>
      if x.open_ then kdaRequest h payload.length (bump 0x2010 0x12) d
      else kdaHeard h payload.length (fun d => if h.tagOk && h.seq = 0 then judgeProof h payload x d else bump 0x2010 0x12 d) d
    | none => kdaHeard h payload.length (bump 0x2010 0x12) d

/-! ### Mailboxes (R452, R453) -/

/-- A request in the layout of R61; bytes 10 and 11 are the tag that the host chose before. -/
def requestHead (r : Req) : List Byte :=
  let (op, n) := match r.op with
    | .read n => (0x10, n)
    | .write data => (0x12, data.length)
  leBytes 1 op ++ leBytes 1 r.sub ++ leBytes 2 r.idx ++ leBytes 4 r.off ++ leBytes 2 n

/-- The host writes a request into the window; while BUSY is set that is ignored. -/
def fillWindow (path : HostPath) (r : Req) (d : Dev) : Dev :=
  if (mailboxOf d.host path).busy then d
  else onMailbox path (fun m =>
    let w := Memory.write m.window 0 (requestHead r)
    { m with window := match r.op with
        | .write data => Memory.write w 12 (data.take 4084)
        | .read _ => w }) d

/-- A doorbell: OVERRUN while BUSY, ABORTED while the agent is not ready, else BUSY, and `act` (R452, R453). -/
def ringBell (path : HostPath) (act : Dev → Dev) (d : Dev) : Dev :=
  if (mailboxOf d.host path).busy then onMailbox path (fun m => { m with overrun := true }) d
  else if !d.pow.agentReady then setInt (mailboxBit path) (onMailbox path (fun m => { m with aborted := true }) d)
  else act (onMailbox path (fun m => { m with busy := true }) d)

/-- Source of the requests of a path. DESIGN CHOICE, unsafe (log entry 20). -/
def pathSrc : HostPath → Src
  | .pcie => .pcie
  | .serial => .serial

/-- The request in the window is handed to the agent; the spec gives no code for an opcode other than 0x10 and 0x12. DESIGN
CHOICE, unsafe (log entry 20). -/
def serveWindow (path : HostPath) (d : Dev) : Dev :=
  let bs := Memory.readBytes (mailboxOf d.host path).window 0 4096
  let src := pathSrc path
  let sub := leNat (slice bs 1 1)
  let idx := leNat (slice bs 2 2)
  let off := leNat (slice bs 4 4)
  let n := leNat (slice bs 8 2)
  match leNat (slice bs 0 1) with
  | 0x10 => submit { src := src, idx := idx, sub := sub, off := off, op := .read (min n 4080), phy := none } d
  | 0x12 =>
    if 4080 < n then refuseWrite src idx sub 0x06070010 d
    else submit { src := src, idx := idx, sub := sub, off := off, op := .write (slice bs 12 n), phy := none } d
  | _ => answerRead { src := src, idx := idx, sub := sub, off := off, op := .read 0, phy := none } 0x05040001 [] 0 d

/-- GO written to MB_DOORBELL (R452). -/
def doorbell (path : HostPath) (d : Dev) : Dev := ringBell path (serveWindow path) d

/-- MB_DOORBELL (R452). DESIGN CHOICE, unsafe (log entry 20). -/
def execMbDoorbell (path : HostPath) (s : State) : Result := s.does (onPath path (doorbell path))

/-- SERIAL_WRITE (R448, R449). DESIGN CHOICE, unsafe (log entry 20). -/
def execSerialWrite (address : SerialRange) (data : List Byte) (crc : Byte) (s : State) : Result :=
  s.does (onPath .serial (serialWrite doorbell address.address.toNat address.count.toNat data crc))

/-! ### A request of any path -/

/-- Greatest length of a read through SDO: the whole value. DESIGN CHOICE, safe (log entry 19). -/
def wholeValue : Nat := 2 ^ 32

/-- The most bytes that one request of a path reads: an SDO upload takes the whole value (R53), a KDA READ 1,400 bytes (R58),
a mailbox 4,080 (R61). DESIGN CHOICE, safe (log entry 19). -/
def mostBytes : Src → Nat
  | .sdo _ => wholeValue
  | .kda _ _ => 1400
  | .pcie => 4080
  | .serial => 4080

/-- A write names more data than its path carries (R58, R61). DESIGN CHOICE, unsafe (log entry 24). -/
def overlong (r : Req) : Bool :=
  match r.src, r.op with
  | .sdo _, _ => false
  | src, .write data => decide (mostBytes src < data.length)
  | _, .read _ => false

/-- A request arrives on its path: in an SDO transfer, in a KDA frame of the session, or through a mailbox (R51); `serve` is
what the agent makes of it. DESIGN CHOICE, unsafe (log entry 24). -/
def carry (r : Req) (serve : Dev → Dev) (d : Dev) : Dev :=
  match r.src with
  | .sdo c => if sdoOn d c then serve d else d
  | .kda id seq =>
    match sessionOf d id with
    | some s =>
      let n := match r.op with
        | .read _ => 12
        | .write data => 12 + data.length
      kdaRequest { peer := s.peer, udpPort := 17394, ipv4 := true, fragmented := false, magic := 0x4B44, version := 1, session := id
                   seq := seq, length := BitVec.ofNat 16 n, reserved := 0, tagOk := true } n serve d
    | none => if d.pow.agentReady then bump 0x2010 0x12 d else d
  | .pcie => onPath .pcie (fun d => ringBell .pcie serve (fillWindow .pcie r d)) d
  | .serial => onPath .serial (fun d => ringBell .serial serve (fillWindow .serial r d)) d

/-- A request is handed to the agent; one that names more data than its path carries has another length than its data (R58,
R61). DESIGN CHOICE, unsafe (log entry 24). -/
def ask (r : Req) (d : Dev) : Dev :=
  carry r (if overlong r then refuseWrite r.src r.idx r.sub 0x06070010 else submit r) d

/-- A write request. DESIGN CHOICE, unsafe (log entry 24). -/
def writeOf (src : Src) (idx sub off : Nat) (data : List Byte) : Req :=
  { src := src, idx := idx, sub := sub, off := off, op := .write data, phy := none }

/-- A write of a number of `n` bytes. -/
def askNum (src : Src) (idx sub n v : Nat) (s : State) : Result := s.does (ask (writeOf src idx sub 0 (leBytes n v)))

/-- A write of bytes. -/
def askBytes (src : Src) (idx sub off : Nat) (data : List Byte) (s : State) : Result := s.does (ask (writeOf src idx sub off data))

/-- A read of an entry from its start, as far as one request of the path reads. DESIGN CHOICE, safe (log entry 19). -/
def askRead (src : Src) (idx sub : Nat) (phy : Option (BitVec 16)) (s : State) : Result :=
  s.does (ask { src := src, idx := idx, sub := sub, off := 0, op := .read (mostBytes src), phy := phy })

/-! ### SDO servers (R53, R54) -/

/-- A step of a transfer that is not its end: the server waits for the client (R54). -/
def sdoWaits (c : CanId) (idx sub : Nat) (d : Dev) : Dev :=
  onDict (fun q => { q with
    sdo := q.sdo.set c.val (some { idx := idx, sub := sub, deadline := d.now + cfg d 0x2010 0x0B * msNs }) c.isLt }) d

/-- The server aborts a transfer. PRESUMED, unsafe (log entry 21). -/
def sdoAborts (c : CanId) (idx sub code : Nat) (d : Dev) : Dev := sdoAbort c idx sub code (sdoIdle c d)

/-- The abort code of a fault of a transfer (R67). PRESUMED, unsafe (log entry 21). -/
def sdoFaultCode (f : SdoFault) : Nat :=
  match f with
  | .none => 0
  | .toggle => 0x05030000
  | .specifier => 0x05040001
  | .blockSequence => 0x05040003
  | .memory => 0x05040005

/-- A fault of a transfer aborts it; a fault of a download is a refused write (R36, R67). -/
def sdoFailed (c : CanId) (r : Req) (code : Nat) (d : Dev) : Dev :=
  sdoAborts c r.idx r.sub code (onlyIf r.isWrite (countRefusal false r.idx r.sub code) d)

/-- A step of a download or upload through server `c`: a fault ends it, its last step is the request (R53, R67); the first
step of a block download is answered with a block size of 127. PRESUMED, unsafe (log entry 21). -/
def sdoStep (c : CanId) (r : Req) (mode : SdoMode) (finished : Bool) (code : Nat) (d : Dev) : Dev :=
  if !sdoOn d c || !d.pow.agentReady then d
  else
    let d1 := onlyIf (mode = .blockDown && (d.dict.sdo[c]).isNone) (sdoSend c [sdoHead 0xA4 r.idx r.sub (leBytes 1 127)]) d
    if code ≠ 0 then sdoFailed c r code d1
    else if finished then
      submit r (onDict (fun q => { q with sdo := q.sdo.set c.val none c.isLt, sdoMode := q.sdoMode.set c.val mode c.isLt }) d1)
    else sdoWaits c r.idx r.sub d1

/-- A read request of an SDO server for a whole value. PRESUMED, unsafe (log entry 21). -/
def sdoReads (c : CanId) (idx sub : Nat) : Req := { src := .sdo c, idx := idx, sub := sub, off := 0, op := .read wholeValue, phy := none }

/-- SDO_DOWNLOAD (R53). -/
def execSdoDownload (c : CanId) (idx : BitVec 16) (sub : BitVec 8) (data : List Byte) (finished : Bool) (fault : SdoFault) (s : State) : Result :=
  s.does (sdoStep c (writeOf (.sdo c) idx.toNat sub.toNat 0 data) .normal finished (sdoFaultCode fault))

/-- SDO_UPLOAD (R53). -/
def execSdoUpload (c : CanId) (idx : BitVec 16) (sub : BitVec 8) (finished : Bool) (fault : SdoFault) (s : State) : Result :=
  s.does (sdoStep c (sdoReads c idx.toNat sub.toNat) .normal finished (sdoFaultCode fault))

/-- SDO_BLOCK_DOWNLOAD: the client's CRC at the end is that of the data, else 0x0504_0004 (R53, R67). -/
def execSdoBlockDownload (c : CanId) (idx : BitVec 16) (sub : BitVec 8) (data : SdoBlock) (finished : Bool)
    (fault : SdoFault) (s : State) : Result :=
  let code := if fault = .none && finished && data.crc.toNat ≠ sdoCrc data.bytes then 0x05040004 else sdoFaultCode fault
  s.does (sdoStep c (writeOf (.sdo c) idx.toNat sub.toNat 0 data.bytes) .blockDown finished code)

/-- SDO_BLOCK_UPLOAD: a block size that is not 1 to 127 is 0x0504_0002; a value not longer than the protocol switch threshold
goes out in the other protocol (R53, R67). -/
def execSdoBlockUpload (c : CanId) (idx : BitVec 16) (sub : BitVec 8) (pst : SdoBlockStart) (finished : Bool) (fault : SdoFault)
    (s : State) : Result :=
  let code := if fault = .none && !(1 ≤ pst.size.toNat && pst.size.toNat ≤ 127) then 0x05040002 else sdoFaultCode fault
  s.does (sdoStep c (sdoReads c idx.toNat sub.toNat) (.blockUp pst.pst.toNat) finished code)

/-- SDO_SERVER_TIMEOUT (R54). PRESUMED, unsafe (log entry 21). -/
def execSdoServerTimeout (c : CanId) (s : State) : Result :=
  s.does fun d => match d.dict.sdo[c] with
    | some x => sdoAborts c x.idx x.sub 0x05040000 (arrive x.deadline d)
    | none => d

/-! ### Commands that are one request each -/

/-- DICTIONARY_WRITE: to an entry, or to a host register without a row of its own (R35, R450). DESIGN CHOICE, unsafe (log
entry 24). -/
def execDictionaryWrite (t : WriteTarget) (s : State) : Result :=
  match t with
  | .entry src idx sub off data => askBytes src idx.toNat sub.toNat off.toNat data s
  | .hostReg path offset value => s.does (onPath path (writeRegister doorbell path (offset.toNat / 4 * 4) value))

/-- COUNTER_CLEAR (R64). -/
def execCounterClear (src : Src) (idx : BitVec 16) (sub : BitVec 8) (data : List Byte) (s : State) : Result :=
  askBytes src idx.toNat sub.toNat 0 data s

/-- COMMIT (R41, R42, R45). -/
def execCommit (src : Src) (value : Word32) (s : State) : Result := s.does (ask (commitReq src value))

/-- FENCE (R47). -/
def execFence (src : Src) (token : Word32) (s : State) : Result := askNum src 0x2002 2 4 token.toNat s

/-- DISCARD_STAGING (R63). -/
def execDiscardStaging (src : Src) (s : State) : Result := askNum src 0x2002 6 1 1 s

/-- SAVE_ALL (R49). DESIGN CHOICE, unsafe (log entry 18). -/
def execSaveAll (src : Src) (s : State) : Result := askNum src 0x1010 1 4 0x65766173 s

/-- RESTORE_DEFAULTS (R49). DESIGN CHOICE, unsafe (log entry 18). -/
def execRestoreDefaults (src : Src) (s : State) : Result := askNum src 0x1011 1 4 0x64616F6C s

/-- IMAGE_DATA (R50). -/
def execImageData (src : Src) (off : BitVec 32) (data : List Byte) (s : State) : Result := askBytes src 0x2011 1 off.toNat data s

/-- VERIFY_AND_STAGE (R50). DESIGN CHOICE, unsafe (log entry 17). -/
def execVerifyAndStage (src : Src) (s : State) : Result := askNum src 0x2011 2 1 1 s

/-- ABANDON_IMAGE (R66). -/
def execAbandonImage (src : Src) (s : State) : Result := askNum src 0x2011 2 1 2 s

/-- INHIBIT_REQUEST (R103). -/
def execInhibitRequest (src : Src) (value : BitVec 8) (s : State) : Result := askNum src 0x2105 1 1 value.toNat s

/-- LEADING_REQUEST (R112). -/
def execLeadingRequest (src : Src) (value : BitVec 8) (s : State) : Result := askNum src 0x2100 6 1 value.toNat s

/-- ROTATE_SLICE (R149). -/
def execRotateSlice (src : Src) (value : BitVec 8) (s : State) : Result := askNum src 0x2206 3 1 value.toNat s

/-- PHY_RESET_REQUEST (R171). -/
def execPhyResetRequest (src : Src) (p : Port) (s : State) : Result := askNum src (0x2300 + p.val) 0x22 1 1 s

/-- PHY_REGISTER_READ (R174). -/
def execPhyRegisterRead (src : Src) (p : Port) (answer : Option (BitVec 16)) (s : State) : Result :=
  askRead src (0x2300 + p.val) 0x1C answer s

/-- PHY_REGISTER_WRITE (R174). -/
def execPhyRegisterWrite (src : Src) (p : Port) (value : BitVec 16) (s : State) : Result :=
  askNum src (0x2300 + p.val) 0x1C 2 value.toNat s

/-- STEP_REQUEST (R215). -/
def execStepRequest (src : Src) (amount : BitVec 64) (s : State) : Result := askNum src 0x2401 3 8 amount.toNat s

/-- CAPTURE_RECORD_READ (R214). -/
def execCaptureRecordRead (src : Src) (s : State) : Result := askRead src 0x2403 0x0A none s

/-- TRANSMIT_TIMESTAMP_READ (R210). -/
def execTransmitTimestampRead (src : Src) (p : Port) (s : State) : Result := askRead src (0x2410 + p.val) 9 none s

/-- OBJECT_FRAME (R310). -/
def execObjectFrame (src : Src) (c : CanId) (data : List Byte) (s : State) : Result := askBytes src (canIdx c 4) 2 0 data s

/-- OBJECT_REQUEST (R306). -/
def execObjectRequest (src : Src) (c : CanId) (s : State) : Result := askNum src (canIdx c 4) 3 1 1 s

/-- OBJECT_CANCEL (R307). -/
def execObjectCancel (src : Src) (c : CanId) (s : State) : Result := askNum src (canIdx c 4) 3 1 2 s

/-- OBJECT_ACKNOWLEDGE (R306). -/
def execObjectAcknowledge (src : Src) (c : CanId) (s : State) : Result := askNum src (canIdx c 4) 3 1 3 s

/-- BUS_OFF_RECOVERY_REQUEST (R315). -/
def execBusOffRecoveryRequest (src : Src) (c : CanId) (s : State) : Result := askNum src (canIdx c 4) 7 1 1 s

/-- LOG_RECORD_READ (R343). -/
def execLogRecordRead (src : Src) (s : State) : Result := askRead src 0x2802 1 none s

/-- MISMATCH_FLAG_CLEAR (R361). -/
def execMismatchFlagClear (src : Src) (word : Fin 4) (value : BitVec 64) (s : State) : Result :=
  askNum src 0x2903 (1 + word.val) 8 value.toNat s

/-- HOST_ENTRY (R390). -/
def execHostEntry (src : Src) (data : List Byte) (s : State) : Result := askBytes src 0x2A04 1 0 data s

/-- FREEZE (R377). DESIGN CHOICE, unsafe (log entry 75). -/
def execFreeze (src : Src) (s : State) : Result := askNum src 0x2A02 1 1 1 s

/-- UNFREEZE (R378). DESIGN CHOICE, unsafe (log entry 75). -/
def execUnfreeze (src : Src) (s : State) : Result := askNum src 0x2A02 1 1 0 s

/-- ENTRIES_READ (R376). -/
def execEntriesRead (src : Src) (s : State) : Result := askRead src 0x2A03 2 none s

/-- HOST_AWAKE_REQUEST (R394). -/
def execHostAwakeRequest (src : Src) (value : BitVec 8) (s : State) : Result := askNum src 0x2B01 1 1 value.toNat s

/-- UNLOCK (R430). DESIGN CHOICE, unsafe (log entry 82). -/
def execUnlock (src : Src) (n : Fin 4) (value : BitVec 8) (s : State) : Result := askNum src (0x2C10 + n.val) 0x0A 1 value.toNat s

/-- COMMAND (R438). -/
def execCommand (src : Src) (k : Fin 32) (value : BitVec 8) (s : State) : Result := askNum src (0x2C20 + k.val) 1 1 value.toNat s

/-- FIRMWARE_IMAGE_DATA (R485). -/
def execFirmwareImageData (src : Src) (off : BitVec 32) (data : List Byte) (s : State) : Result := askBytes src 0x2D04 5 off.toNat data s

/-- VERIFY_AND_WRITE (R485). -/
def execVerifyAndWrite (src : Src) (s : State) : Result := askNum src 0x2D04 6 1 1 s

/-- FIRMWARE_ABANDON (R502). -/
def execFirmwareAbandon (src : Src) (s : State) : Result := askNum src 0x2D04 6 1 2 s

/-- WARM_RESET (R501). -/
def execWarmReset (src : Src) (s : State) : Result := askNum src 0x2D02 1 4 0x74657372 s

/-- GPIO_OUTPUT (R569, R570). -/
def execGpioOutput (src : Src) (value : BitVec 8) (s : State) : Result := askNum src 0x2D06 2 1 value.toNat s

/-- SNAPSHOT_NOW (R524). DESIGN CHOICE, unsafe (log entry 101). -/
def execSnapshotNow (src : Src) (s : State) : Result := askNum src 0x2E08 2 1 1 s

/-- TRACKER_RESET (R528). -/
def execTrackerReset (src : Src) (s : State) : Result := askNum src 0x2E04 6 1 1 s

/-- SECURE (R534). -/
def execSecure (src : Src) (s : State) : Result := askNum src 0x2F00 2 4 0x53454355 s

/-- VOID (R534). DESIGN CHOICE, unsafe (log entry 96). -/
def execVoid (src : Src) (s : State) : Result := askNum src 0x2F00 2 4 0x564F4944 s

/-- RETURN_TOKEN (R534, R536). -/
def execReturnToken (src : Src) (token : List Byte) (s : State) : Result := askBytes src 0x2F00 3 0 token s

end Sys2Proof.Machine
end

