-- ==== Sys2Proof/Machine/Dispatch.lean ====
section
/-! DEFINITION. Which meaning each command has: one arm for each row of spec/opcode_table.json. -/

namespace Sys2Proof.Machine

def exec (i : Instr) (s : State) : Host.Outcome State Fault Refusal :=
  match i with
  | .dictionaryWrite t => Sys2Proof.Machine.execDictionaryWrite t s
  | .counterClear src idx sub data => Sys2Proof.Machine.execCounterClear src idx sub data s
  | .commit src value => Sys2Proof.Machine.execCommit src value s
  | .islandAckTimeout island => Sys2Proof.Machine.execIslandAckTimeout island s
  | .fence src token => Sys2Proof.Machine.execFence src token s
  | .discardStaging src => Sys2Proof.Machine.execDiscardStaging src s
  | .saveAll src => Sys2Proof.Machine.execSaveAll src s
  | .restoreDefaults src => Sys2Proof.Machine.execRestoreDefaults src s
  | .imageData src off data => Sys2Proof.Machine.execImageData src off data s
  | .verifyAndStage src => Sys2Proof.Machine.execVerifyAndStage src s
  | .abandonImage src => Sys2Proof.Machine.execAbandonImage src s
  | .sdoDownload c idx sub data finished fault => Sys2Proof.Machine.execSdoDownload c idx sub data finished fault s
  | .sdoUpload c idx sub finished fault => Sys2Proof.Machine.execSdoUpload c idx sub finished fault s
  | .sdoBlockDownload c idx sub data finished fault => Sys2Proof.Machine.execSdoBlockDownload c idx sub data finished fault s
  | .sdoBlockUpload c idx sub pst finished fault => Sys2Proof.Machine.execSdoBlockUpload c idx sub pst finished fault s
  | .sdoServerTimeout c => Sys2Proof.Machine.execSdoServerTimeout c s
  | .kdaOpen h payload => Sys2Proof.Machine.execKdaOpen h payload s
  | .proof h payload => Sys2Proof.Machine.execProof h payload s
  | .close h => Sys2Proof.Machine.execClose h s
  | .kdaRead h payload => Sys2Proof.Machine.execKdaRead h payload s
  | .kdaWrite h payload => Sys2Proof.Machine.execKdaWrite h payload s
  | .keepalive h => Sys2Proof.Machine.execKeepalive h s
  | .kdaOpcodeInvalid h opcode => Sys2Proof.Machine.execKdaOpcodeInvalid h opcode s
  | .sessionExpiry session => Sys2Proof.Machine.execSessionExpiry session s
  | .challengeTimeout session => Sys2Proof.Machine.execChallengeTimeout session s
  | .mbDoorbell path => Sys2Proof.Machine.execMbDoorbell path s
  | .fastStartThermalEnd reading => Sys2Proof.Machine.execFastStartThermalEnd reading s
  | .probe p h b => Sys2Proof.Machine.execProbe p h b s
  | .probeReply p h b => Sys2Proof.Machine.execProbeReply p h b s
  | .probeRepeat p => Sys2Proof.Machine.execProbeRepeat p s
  | .probeLoss p => Sys2Proof.Machine.execProbeLoss p s
  | .hello p sender fast => Sys2Proof.Machine.execHello p sender fast s
  | .helloPeriod p => Sys2Proof.Machine.execHelloPeriod p s
  | .helloTimeout p => Sys2Proof.Machine.execHelloTimeout p s
  | .topology p sender topo inhibit => Sys2Proof.Machine.execTopology p sender topo inhibit s
  | .ttdpTopologyValid t => Sys2Proof.Machine.execTtdpTopologyValid t s
  | .claim p h lowest => Sys2Proof.Machine.execClaim p h lowest s
  | .census p h => Sys2Proof.Machine.execCensus p h s
  | .report p h recs => Sys2Proof.Machine.execReport p h recs s
  | .springcountCommit p h b => Sys2Proof.Machine.execSpringcountCommit p h b s
  | .ack p h count epoch => Sys2Proof.Machine.execAck p h count epoch s
  | .abort p h cause epoch => Sys2Proof.Machine.execAbort p h cause epoch s
  | .commitRequest p h epoch => Sys2Proof.Machine.execCommitRequest p h epoch s
  | .state p h inhibit epoch => Sys2Proof.Machine.execState p h inhibit epoch s
  | .stateSilence requester => Sys2Proof.Machine.execStateSilence requester s
  | .inhibitRequest src value => Sys2Proof.Machine.execInhibitRequest src value s
  | .leadingRequest src value => Sys2Proof.Machine.execLeadingRequest src value s
  | .pair p h primary epoch partner => Sys2Proof.Machine.execPair p h primary epoch partner s
  | .frameReceive p f e => Sys2Proof.Machine.execFrameReceive p f e s
  | .egressSend p q => Sys2Proof.Machine.execEgressSend p q s
  | .engineSelfTestEnd engine1 pass => Sys2Proof.Machine.execEngineSelfTestEnd engine1 pass s
  | .learnedEntryAgeing row => Sys2Proof.Machine.execLearnedEntryAgeing row s
  | .spillReadback p q => Sys2Proof.Machine.execSpillReadback p q s
  | .lpddr4xFailure f => Sys2Proof.Machine.execLpddr4xFailure f s
  | .sliceFault slice t => Sys2Proof.Machine.execSliceFault slice t s
  | .rotateSlice src value => Sys2Proof.Machine.execRotateSlice src value s
  | .laneUp p => Sys2Proof.Machine.execLaneUp p s
  | .laneDown p => Sys2Proof.Machine.execLaneDown p s
  | .linkDownDebounce p => Sys2Proof.Machine.execLinkDownDebounce p s
  | .linkUpHold p => Sys2Proof.Machine.execLinkUpHold p s
  | .phyReleaseDelay p => Sys2Proof.Machine.execPhyReleaseDelay p s
  | .phyScriptComplete p ok record => Sys2Proof.Machine.execPhyScriptComplete p ok record s
  | .phyScriptPollTimeout p => Sys2Proof.Machine.execPhyScriptPollTimeout p s
  | .phyResetRequest src p => Sys2Proof.Machine.execPhyResetRequest src p s
  | .phyResetEnd g => Sys2Proof.Machine.execPhyResetEnd g s
  | .phyInterrupt g status => Sys2Proof.Machine.execPhyInterrupt g status s
  | .phyStatusPoll p status => Sys2Proof.Machine.execPhyStatusPoll p status s
  | .phyRegisterRead src p answer => Sys2Proof.Machine.execPhyRegisterRead src p answer s
  | .phyRegisterWrite src p value => Sys2Proof.Machine.execPhyRegisterWrite src p value s
  | .autoNegotiationRestart p => Sys2Proof.Machine.execAutoNegotiationRestart p s
  | .macControlFrame p opcode => Sys2Proof.Machine.execMacControlFrame p opcode s
  | .pause p quanta => Sys2Proof.Machine.execPause p quanta s
  | .pauseEnd p => Sys2Proof.Machine.execPauseEnd p s
  | .pauseWatchdog p => Sys2Proof.Machine.execPauseWatchdog p s
  | .pauseHoldOffEnd p => Sys2Proof.Machine.execPauseHoldOffEnd p s
  | .pauseTimeReset p => Sys2Proof.Machine.execPauseTimeReset p s
  | .sync p seq gm twoStep origin => Sys2Proof.Machine.execSync p seq gm twoStep origin s
  | .followUp p seq origin => Sys2Proof.Machine.execFollowUp p seq origin s
  | .announce p a => Sys2Proof.Machine.execAnnounce p a s
  | .pdelayReq p seq => Sys2Proof.Machine.execPdelayReq p seq s
  | .pdelayResp p seq roundTripPs turnaroundPs ratioPpt => Sys2Proof.Machine.execPdelayResp p seq roundTripPs turnaroundPs ratioPpt s
  | .pdelayInterval p => Sys2Proof.Machine.execPdelayInterval p s
  | .stepRequest src amount => Sys2Proof.Machine.execStepRequest src amount s
  | .captureEdge inp rising => Sys2Proof.Machine.execCaptureEdge inp rising s
  | .captureRecordRead src => Sys2Proof.Machine.execCaptureRecordRead src s
  | .transmitTimestampRead src p => Sys2Proof.Machine.execTransmitTimestampRead src p s
  | .launchTime p q => Sys2Proof.Machine.execLaunchTime p q s
  | .launchLateDiscard p q => Sys2Proof.Machine.execLaunchLateDiscard p q s
  | .windowOpen p window => Sys2Proof.Machine.execWindowOpen p window s
  | .windowHardClose p => Sys2Proof.Machine.execWindowHardClose p s
  | .receiveEntryClose p window => Sys2Proof.Machine.execReceiveEntryClose p window s
  | .offer p h size crc activation => Sys2Proof.Machine.execOffer p h size crc activation s
  | .request p h chunk => Sys2Proof.Machine.execRequest p h chunk s
  | .chunk p h number data => Sys2Proof.Machine.execChunk p h number data s
  | .sequenceHistoryReset window => Sys2Proof.Machine.execSequenceHistoryReset window s
  | .avtpPacket a => Sys2Proof.Machine.execAvtpPacket a s
  | .talkerPacket k frames => Sys2Proof.Machine.execTalkerPacket k frames s
  | .sampleFetch k => Sys2Proof.Machine.execSampleFetch k s
  | .streamTimeout k => Sys2Proof.Machine.execStreamTimeout k s
  | .integrationComplete c => Sys2Proof.Machine.execIntegrationComplete c s
  | .canFrameReceived c f => Sys2Proof.Machine.execCanFrameReceived c f s
  | .canReceiveError c e => Sys2Proof.Machine.execCanReceiveError c e s
  | .attemptStart c => Sys2Proof.Machine.execAttemptStart c s
  | .arbitrationLost c => Sys2Proof.Machine.execArbitrationLost c s
  | .canTransmitSuccess c delay => Sys2Proof.Machine.execCanTransmitSuccess c delay s
  | .canTransmitError c e => Sys2Proof.Machine.execCanTransmitError c e s
  | .busOffHoldOffEnd c => Sys2Proof.Machine.execBusOffHoldOffEnd c s
  | .busOffRecoveryComplete c => Sys2Proof.Machine.execBusOffRecoveryComplete c s
  | .candidateDwellEnd c => Sys2Proof.Machine.execCandidateDwellEnd c s
  | .objectFrame src c data => Sys2Proof.Machine.execObjectFrame src c data s
  | .objectRequest src c => Sys2Proof.Machine.execObjectRequest src c s
  | .objectCancel src c => Sys2Proof.Machine.execObjectCancel src c s
  | .objectAcknowledge src c => Sys2Proof.Machine.execObjectAcknowledge src c s
  | .busOffRecoveryRequest src c => Sys2Proof.Machine.execBusOffRecoveryRequest src c s
  | .telegramDue k => Sys2Proof.Machine.execTelegramDue k s
  | .canObjectDue c o => Sys2Proof.Machine.execCanObjectDue c o s
  | .pdTelegram m => Sys2Proof.Machine.execPdTelegram m s
  | .telegramTimeout k => Sys2Proof.Machine.execTelegramTimeout k s
  | .mrRequest m => Sys2Proof.Machine.execMrRequest m s
  | .mnNotification m => Sys2Proof.Machine.execMnNotification m s
  | .mpReply m => Sys2Proof.Machine.execMpReply m s
  | .meErrorReply m => Sys2Proof.Machine.execMeErrorReply m s
  | .transactionTimeout n => Sys2Proof.Machine.execTransactionTimeout n s
  | .prefetchLifetimeEnd n addr => Sys2Proof.Machine.execPrefetchLifetimeEnd n addr s
  | .logRecordRead src => Sys2Proof.Machine.execLogRecordRead src s
  | .silenceReset ch => Sys2Proof.Machine.execSilenceReset ch s
  | .mismatchFlagClear src word value => Sys2Proof.Machine.execMismatchFlagClear src word value s
  | .hostEntry src data => Sys2Proof.Machine.execHostEntry src data s
  | .freeze src => Sys2Proof.Machine.execFreeze src s
  | .unfreeze src => Sys2Proof.Machine.execUnfreeze src s
  | .mediumFailure cause => Sys2Proof.Machine.execMediumFailure cause s
  | .mediumRetry ok => Sys2Proof.Machine.execMediumRetry ok s
  | .entriesRead src => Sys2Proof.Machine.execEntriesRead src s
  | .scanComplete o => Sys2Proof.Machine.execScanComplete o s
  | .keepAlive p m => Sys2Proof.Machine.execKeepAlive p m s
  | .silentSide rear => Sys2Proof.Machine.execSilentSide rear s
  | .hostAwakeRequest src value => Sys2Proof.Machine.execHostAwakeRequest src value s
  | .trainWakeLine also => Sys2Proof.Machine.execTrainWakeLine also s
  | .localWake b also => Sys2Proof.Machine.execLocalWake b also s
  | .busWake c also => Sys2Proof.Machine.execBusWake c also s
  | .phyWake g also => Sys2Proof.Machine.execPhyWake g also s
  | .phyWakeReadoutEnd woken => Sys2Proof.Machine.execPhyWakeReadoutEnd woken s
  | .wakeTimer also => Sys2Proof.Machine.execWakeTimer also s
  | .companionFaultLine n => Sys2Proof.Machine.execCompanionFaultLine n s
  | .statusFrame n bytes => Sys2Proof.Machine.execStatusFrame n bytes s
  | .readReply n bytes => Sys2Proof.Machine.execReadReply n bytes s
  | .transferGap n => Sys2Proof.Machine.execTransferGap n s
  | .linkRetry n => Sys2Proof.Machine.execLinkRetry n s
  | .inrushWindowEnd k => Sys2Proof.Machine.execInrushWindowEnd k s
  | .retryDelayEnd k => Sys2Proof.Machine.execRetryDelayEnd k s
  | .retryRefill k => Sys2Proof.Machine.execRetryRefill k s
  | .thermalLatchRelease k => Sys2Proof.Machine.execThermalLatchRelease k s
  | .clampBinExpiry k => Sys2Proof.Machine.execClampBinExpiry k s
  | .unlock src n value => Sys2Proof.Machine.execUnlock src n value s
  | .pulseEdge k => Sys2Proof.Machine.execPulseEdge k s
  | .command src k value => Sys2Proof.Machine.execCommand src k value s
  | .restoreSlot n => Sys2Proof.Machine.execRestoreSlot n s
  | .intStatusClear path value => Sys2Proof.Machine.execIntStatusClear path value s
  | .timeLoRead path => Sys2Proof.Machine.execTimeLoRead path s
  | .tcapTrigger path => Sys2Proof.Machine.execTcapTrigger path s
  | .tcapHiRead path => Sys2Proof.Machine.execTcapHiRead path s
  | .tcapStatusRead path => Sys2Proof.Machine.execTcapStatusRead path s
  | .hspStatusRead path => Sys2Proof.Machine.execHspStatusRead path s
  | .dropsRead path ring => Sys2Proof.Machine.execDropsRead path ring s
  | .ringEnable path ring => Sys2Proof.Machine.execRingEnable path ring s
  | .ringDisable path ring => Sys2Proof.Machine.execRingDisable path ring s
  | .tail path ring value => Sys2Proof.Machine.execTail path ring value s
  | .dmaError ring => Sys2Proof.Machine.execDmaError ring s
  | .dmaCompletionTimeout ring => Sys2Proof.Machine.execDmaCompletionTimeout ring s
  | .serialWrite address data crc => Sys2Proof.Machine.execSerialWrite address data crc s
  | .serialRead address words => Sys2Proof.Machine.execSerialRead address words s
  | .serialUnknownCommand command => Sys2Proof.Machine.execSerialUnknownCommand command s
  | .supplyWarning core mv => Sys2Proof.Machine.execSupplyWarning core mv s
  | .supplyWarningClear core => Sys2Proof.Machine.execSupplyWarningClear core s
  | .supplyReset rail => Sys2Proof.Machine.execSupplyReset rail s
  | .powerGoodLoss io => Sys2Proof.Machine.execPowerGoodLoss io s
  | .porNReleased straps test => Sys2Proof.Machine.execPorNReleased straps test s
  | .firmwareImageData src off data => Sys2Proof.Machine.execFirmwareImageData src off data s
  | .verifyAndWrite src => Sys2Proof.Machine.execVerifyAndWrite src s
  | .firmwareAbandon src => Sys2Proof.Machine.execFirmwareAbandon src s
  | .warmReset src => Sys2Proof.Machine.execWarmReset src s
  | .bypassRefreshLoss laneB => Sys2Proof.Machine.execBypassRefreshLoss laneB s
  | .pmbusAlert status => Sys2Proof.Machine.execPmbusAlert status s
  | .gpioOutput src value => Sys2Proof.Machine.execGpioOutput src value s
  | .junctionTemperatureMaximum reading => Sys2Proof.Machine.execJunctionTemperatureMaximum reading s
  | .sensorScan readings => Sys2Proof.Machine.execSensorScan readings s
  | .readVout mv => Sys2Proof.Machine.execReadVout mv s
  | .snapshotNow src => Sys2Proof.Machine.execSnapshotNow src s
  | .trackerReset src => Sys2Proof.Machine.execTrackerReset src s
  | .secure src => Sys2Proof.Machine.execSecure src s
  | .void src => Sys2Proof.Machine.execVoid src s
  | .returnToken src token => Sys2Proof.Machine.execReturnToken src token s
  | .authResponse token => Sys2Proof.Machine.execAuthResponse token s
  | .debugAccess op => Sys2Proof.Machine.execDebugAccess op s
  | .bypass code => Sys2Proof.Machine.execBypass code s
  | .dmaReadCompletion ring bytes => Sys2Proof.Machine.execDmaReadCompletion ring bytes s
  | .wakeInputInactive source => Sys2Proof.Machine.execWakeInputInactive source s
  | .ringModerationEnd ring => Sys2Proof.Machine.execRingModerationEnd ring s
  | .applyPoint => Sys2Proof.Machine.execApplyPoint s
  | .commitHoldRelease => Sys2Proof.Machine.execCommitHoldRelease s
  | .commitHoldTimeout => Sys2Proof.Machine.execCommitHoldTimeout s
  | .fenceComplete => Sys2Proof.Machine.execFenceComplete s
  | .stagingIdleTimeout => Sys2Proof.Machine.execStagingIdleTimeout s
  | .imageVerificationEnd => Sys2Proof.Machine.execImageVerificationEnd s
  | .kdaLockoutEnd => Sys2Proof.Machine.execKdaLockoutEnd s
  | .fastStartTimeout => Sys2Proof.Machine.execFastStartTimeout s
  | .engineTestStep => Sys2Proof.Machine.execEngineTestStep s
  | .settleTimer => Sys2Proof.Machine.execSettleTimer s
  | .censusTimeout => Sys2Proof.Machine.execCensusTimeout s
  | .ackDeadline => Sys2Proof.Machine.execAckDeadline s
  | .censusWaitTimeout => Sys2Proof.Machine.execCensusWaitTimeout s
  | .commitWaitTimeout => Sys2Proof.Machine.execCommitWaitTimeout s
  | .backOffEnd => Sys2Proof.Machine.execBackOffEnd s
  | .switchPoint => Sys2Proof.Machine.execSwitchPoint s
  | .overlapEnd => Sys2Proof.Machine.execOverlapEnd s
  | .commitRequestTimeout => Sys2Proof.Machine.execCommitRequestTimeout s
  | .stateRepeat => Sys2Proof.Machine.execStateRepeat s
  | .pairPeriod => Sys2Proof.Machine.execPairPeriod s
  | .pairLoss => Sys2Proof.Machine.execPairLoss s
  | .spareTestPass => Sys2Proof.Machine.execSpareTestPass s
  | .spareTestFailure => Sys2Proof.Machine.execSpareTestFailure s
  | .rotationComplete => Sys2Proof.Machine.execRotationComplete s
  | .syncInterval => Sys2Proof.Machine.execSyncInterval s
  | .announceInterval => Sys2Proof.Machine.execAnnounceInterval s
  | .syncReceiptTimeout => Sys2Proof.Machine.execSyncReceiptTimeout s
  | .announceReceiptTimeout => Sys2Proof.Machine.execAnnounceReceiptTimeout s
  | .stepPoint => Sys2Proof.Machine.execStepPoint s
  | .holdoverLimit => Sys2Proof.Machine.execHoldoverLimit s
  | .roundHoldEnd => Sys2Proof.Machine.execRoundHoldEnd s
  | .ppsOutPulse => Sys2Proof.Machine.execPpsOutPulse s
  | .tevtOutPulse => Sys2Proof.Machine.execTevtOutPulse s
  | .ppsInLoss => Sys2Proof.Machine.execPpsInLoss s
  | .trackerUpdate => Sys2Proof.Machine.execTrackerUpdate s
  | .trackerHourlyMean => Sys2Proof.Machine.execTrackerHourlyMean s
  | .gateBankBuilt => Sys2Proof.Machine.execGateBankBuilt s
  | .gateSwitchBoundary => Sys2Proof.Machine.execGateSwitchBoundary s
  | .cycleBoundary => Sys2Proof.Machine.execCycleBoundary s
  | .offerPeriod => Sys2Proof.Machine.execOfferPeriod s
  | .chunkTimeout => Sys2Proof.Machine.execChunkTimeout s
  | .scheduleImageVerified => Sys2Proof.Machine.execScheduleImageVerified s
  | .activationBoundary => Sys2Proof.Machine.execActivationBoundary s
  | .holdoverFenceTime => Sys2Proof.Machine.execHoldoverFenceTime s
  | .streamSwitchBoundary => Sys2Proof.Machine.execStreamSwitchBoundary s
  | .reservationBankBuilt => Sys2Proof.Machine.execReservationBankBuilt s
  | .rephaseEnd => Sys2Proof.Machine.execRephaseEnd s
  | .flushDelay => Sys2Proof.Machine.execFlushDelay s
  | .logWriteComplete => Sys2Proof.Machine.execLogWriteComplete s
  | .freezeLimit => Sys2Proof.Machine.execFreezeLimit s
  | .keepAlivePeriod => Sys2Proof.Machine.execKeepAlivePeriod s
  | .maximumAwakeExpiry => Sys2Proof.Machine.execMaximumAwakeExpiry s
  | .postWakeHoldEnd => Sys2Proof.Machine.execPostWakeHoldEnd s
  | .readySleepExpiry => Sys2Proof.Machine.execReadySleepExpiry s
  | .quiesce => Sys2Proof.Machine.execQuiesce s
  | .sleepEntry => Sys2Proof.Machine.execSleepEntry s
  | .twlOutPulseEnd => Sys2Proof.Machine.execTwlOutPulseEnd s
  | .perstNFall => Sys2Proof.Machine.execPerstNFall s
  | .perstNRise => Sys2Proof.Machine.execPerstNRise s
  | .functionLevelReset => Sys2Proof.Machine.execFunctionLevelReset s
  | .supplyReturn => Sys2Proof.Machine.execSupplyReturn s
  | .porNAsserted => Sys2Proof.Machine.execPorNAsserted s
  | .pgCoreRise => Sys2Proof.Machine.execPgCoreRise s
  | .pgIoRise => Sys2Proof.Machine.execPgIoRise s
  | .railEnableTimeout => Sys2Proof.Machine.execRailEnableTimeout s
  | .railEnableRetry => Sys2Proof.Machine.execRailEnableRetry s
  | .imageSelectionRetry => Sys2Proof.Machine.execImageSelectionRetry s
  | .controlComplexReady => Sys2Proof.Machine.execControlComplexReady s
  | .watchdogWrite => Sys2Proof.Machine.execWatchdogWrite s
  | .watchdogTrip => Sys2Proof.Machine.execWatchdogTrip s
  | .stableTime => Sys2Proof.Machine.execStableTime s
  | .imageConfirm => Sys2Proof.Machine.execImageConfirm s
  | .firmwareWriteEnd => Sys2Proof.Machine.execFirmwareWriteEnd s
  | .wakeBootTimeout => Sys2Proof.Machine.execWakeBootTimeout s
  | .heartbeatLoss => Sys2Proof.Machine.execHeartbeatLoss s
  | .planningPeriod => Sys2Proof.Machine.execPlanningPeriod s
  | .planApply => Sys2Proof.Machine.execPlanApply s
  | .readVoutTimeout => Sys2Proof.Machine.execReadVoutTimeout s
  | .healthRecordWrite => Sys2Proof.Machine.execHealthRecordWrite s
  | .snapshotPeriod => Sys2Proof.Machine.execSnapshotPeriod s
  | .extest => Sys2Proof.Machine.execExtest s
  | .idcode => Sys2Proof.Machine.execIdcode s
  | .samplePreload => Sys2Proof.Machine.execSamplePreload s
  | .authChallenge => Sys2Proof.Machine.execAuthChallenge s
  | .scanTest => Sys2Proof.Machine.execScanTest s
  | .debugPortReset => Sys2Proof.Machine.execDebugPortReset s
  | .grantExpiry => Sys2Proof.Machine.execGrantExpiry s
  | .debugLockoutEnd => Sys2Proof.Machine.execDebugLockoutEnd s
  | .randomSourceFailure => Sys2Proof.Machine.execRandomSourceFailure s
  | .randomSourceRecovery => Sys2Proof.Machine.execRandomSourceRecovery s
  | .retirementComplete => Sys2Proof.Machine.execRetirementComplete s
  | .ppsOutPulseEnd => Sys2Proof.Machine.execPpsOutPulseEnd s
  | .tevtOutPulseEnd => Sys2Proof.Machine.execTevtOutPulseEnd s
  | .ppsInHoldoverLimit => Sys2Proof.Machine.execPpsInHoldoverLimit s

end Sys2Proof.Machine
end

