-- ==== Sys2Proof/Machine/Step.lean ====
section
/-! DEFINITION. One step: the command at the front of the queue, or one clock edge of island 30 when none waits. -/

namespace Sys2Proof.Machine

/-- The step when no command waits: one nominal cycle of island 30 passes, so that the free-running counter and with it train
time go on (R187). DESIGN CHOICE, unsafe (log entry 2). -/
def idle (s : State) : Result := s.does (advance tickNs)

/-- Takes the command at the front of the queue and runs it on the state with the queue's rest. -/
def step (s : State) : Host.Outcome State Fault Refusal :=
  match s.pending with
  | [] => idle s
  | c :: rest => exec c { s with pending := rest }

/-- The state with the command that a table word spells in front of its queue. DESIGN CHOICE, safe (log entry 1). -/
def State.withFetchWord (s : State) (nbits w : Nat) : State :=
  match Sys2Proof.decodeTableWord nbits w with
  | some c => { s with pending := c :: s.pending }
  | none => s

end Sys2Proof.Machine
end

