-- ==== Sys2Proof/Machine/Balls.lean ====
section
/-! DEFINITION. The levels that the device holds on its digital balls (R27, R281, R291, R447, R455, R456, R470, R494 to R496, R569, R573). -/

namespace Sys2Proof.Machine

/-- Digital balls whose level the spec states outside of what their protocol sends. -/
inductive Ball where
  | safeN | resetOutN | railEnCore | railEnDdr | hostAlertN | twlOut | ppsOut | tevtOut | emmcRstN | emmcClk | pmbClk | pmbData
  | bypN (laneB : Bool)
  | canTxd (c : CanId)
  | canStb (c : CanId)
  | ldSelN (n : Fin 4)
  | ldClk (n : Fin 4)
  | ldDo (n : Fin 4)
  | phyRstN (g : Fin 4)
  | mdc (g : Fin 2)
  | mdio (g : Fin 2)
  | tdm (t : Fin 4)
  | gpio (i : Fin 6)
  | hostIntN | hspSdo | clkreqN | wakeN
  deriving DecidableEq, Repr

/-- A level as a drive. -/
def driveOf (high : Bool) : Drive := if high then .high else .low

/-- The device rests: Standby, Sleep or Reset held (R486). -/
def atRest (d : Dev) : Bool := d.pow.state = .standby || d.pow.state = .sleep || d.pow.state = .resetHeld

/-- GPIO0 to GPIO5: outputs from the apply point on, outputs that hold while the device rests, else high impedance (R569). -/
def gpioLevel (d : Dev) (i : Nat) : Drive :=
  if d.pins.gpioLive then
    if bitOf (cfg d 0x2D06 1) i then driveOf (bitOf (cfg d 0x2D06 2) i) else .undriven
  else if d.pins.gpioHold.getLsbD i then driveOf (d.pins.gpioHeld.getLsbD i)
  else .undriven

/-- Level of a ball; none while the ball is in service and its protocol sets it (R573). DEDUCED, safe (log entry 118). -/
def ballLevel (d : Dev) : Ball → Option Drive
  | .safeN => some (driveOf d.pow.safeN)
  | .resetOutN => some (driveOf d.pow.resetOutN)
  | .railEnCore => some (driveOf (d.pow.railCore || d.pow.enablesFellAt.any (d.now < ·)))
  | .railEnDdr => some (driveOf d.pow.railDdr)
  | .hostAlertN => some (if d.pow.state = .active && !hostAlertLow d then .undriven else .low)
  | .twlOut => some (driveOf d.sleep.twlOutEnd.isSome)
  | .ppsOut => some (driveOf d.time.ppsOut)
  | .tevtOut => some (driveOf d.time.tevtOut)
  | .emmcRstN | .emmcClk => if atRest d then some .low else none
  | .pmbClk | .pmbData => if atRest d || !d.pins.strapPmb then some .undriven else none
  | .bypN laneB => some (if (if laneB then d.pow.bypassB else d.pow.bypassA) then .high else .undriven)
  | .canTxd c => if d.can[c].txd then some .high else none
  | .canStb c => some (driveOf d.can[c].stb)
  | .ldSelN n => if d.load.comp[n].link = .off then some .high else none
  | .ldClk n => if d.load.comp[n].link = .off then some .low else none
  | .ldDo n => if d.load.comp[n].link = .off then some .low else none
  | .phyRstN g => some (driveOf d.ports.phyReleased[g])
  | .mdc _ => if atRest d && d.sleep.readout.isNone then some .low else none
  | .mdio _ => if atRest d && d.sleep.readout.isNone then some .undriven else none
  | .tdm t => if d.strm.running[t] then none else some .low
  | .gpio i => some (gpioLevel d i.val)
  | .hostIntN => some (if hostPowered d && hostIntLow d then .low else .undriven)
  | .hspSdo => if hostPowered d && d.pins.strapHsp then none else some .undriven
  | .clkreqN => some (if hostPowered d && d.pins.strapPcie then .low else .undriven)
  | .wakeN => some (if d.host.wakeLow then .low else .undriven)

end Sys2Proof.Machine
end

