-- ==== Sys2Proof/Safety.lean ====
section
/-! DEFINITION. The words in which claims are stated: which parts of the device and which registers of its dictionary a
command leaves as they were, and the form that the state keeps in every step. -/

namespace Sys2Proof.Machine

/-! ### Outcomes -/

/-- The device as a command finds it: nothing sent yet. -/
def State.found (s : State) : Dev := { s.dev with out := [] }

/-- The command runs to a next state, which leaves the queue as it was and in which the device satisfies `P`. -/
def Completes (c : Instr) (s : State) (P : Dev → Prop) : Prop :=
  ∃ t, exec c s = .next t ∧ t.pending = s.pending ∧ P t.dev

/-! ### Requests at the dictionary agent -/

/-- KDA frames between the node and a peer are heard: the port is Up, may pass them and serves KDA, the peer names an address
of the node, and the port is within 2,000 frames of the second (R55, R104, R166). -/
def KdaReaches (d : Dev) (peer : KdaPeer) : Prop :=
  portUp d peer.port = true ∧ protocolOnly d peer.port = false ∧ bitOf (cfg d 0x2010 0x0C) peer.port.val = true ∧
    peer.own.toNat ∈ kdaAddresses d peer.port ∧ (d.dict.kdaSecond = d.now / sNs → d.dict.kdaCount[peer.port] < 2000)

/-- A request from `src` is served at once: the control complex is ready, the boot load has applied, nothing holds
requests (R44, R47), and the path is open: the SDO server is on (R53), the session is open, its frames are heard and the
frame is its next in sequence (R59), or the mailbox is free (R452). -/
def Served (d : Dev) (src : Src) : Prop :=
  d.pow.agentReady = true ∧ d.pow.booted = true ∧ d.dict.commit = none ∧ d.dict.queue = [] ∧ d.dict.fence = none ∧
    match src with
    | .sdo c => sdoOn d c = true
    | .pcie => pathAlive d .pcie = true ∧ d.host.mbPcie.busy = false ∧ d.host.mbPcie.discard = false
    | .serial => pathAlive d .serial = true ∧ d.host.mbSerial.busy = false ∧ d.host.mbSerial.discard = false
    | .kda id seq => ∃ x, sessionOf d id = some x ∧ x.open_ = true ∧ x.stored.isSome = true ∧ seq = x.lastSeq + 1 ∧
        KdaReaches d x.peer

/-- The device when the agent judges a request that its path has carried: a KDA frame is counted at its port and in its
session, and a mailbox holds the request. -/
def State.reached (s : State) (r : Req) : Dev := carry r id s.found

/-- The device has answered the request of `src` on its path: in an SDO transfer, or its abort (R53), in a KDA frame of the
session (R58), or through the mailbox (R61). -/
def Answered (d : Dev) (src : Src) (rs : Resp) : Prop :=
  match src with
  | .sdo c => (if rs.abort = 0 then Out.answer src rs else .sdoAbort c.val rs.idx rs.sub rs.abort) ∈ d.out
  | .kda id seq => ∃ peer tag, Out.kda peer id seq (if rs.write then 0x13 else 0x11) (respBlock rs) tag ∈ d.out
  | .pcie | .serial => Out.answer src rs ∈ d.out

/-- The device has answered a write to an entry with a code; 0 is success (R36). -/
def WriteAnswered (d : Dev) (src : Src) (idx sub code : Nat) : Prop :=
  Answered d src { idx := idx, sub := sub, write := true, abort := code, data := [], total := 0 }

/-- The device has answered a read of an entry from its start with its value, as far as one request of the path reads
(R35, R38). -/
def ReadAnswered (d : Dev) (src : Src) (idx sub : Nat) (bs : List Byte) : Prop :=
  Answered d src { idx := idx, sub := sub, write := false, abort := 0, data := slice bs 0 (mostBytes src), total := bs.length }

/-- The device has refused a read with a code (R35). -/
def ReadRefused (d : Dev) (src : Src) (idx sub code : Nat) : Prop :=
  Answered d src { idx := idx, sub := sub, write := false, abort := code, data := [], total := 0 }

/-- The role of the request has write access to the entry (R32, row 2 of R35). -/
def MayWrite (d : Dev) (src : Src) (idx sub : Nat) : Prop :=
  ∃ row, rowOf idx sub = some row ∧ row.writes (roleOf d src) = true

/-- The role of the request has read access to the entry (R32, row 2 of R35). -/
def MayRead (d : Dev) (src : Src) (idx sub : Nat) : Prop :=
  ∃ row, rowOf idx sub = some row ∧ row.reads (roleOf d src) = true

/-- A KDA frame with a payload of `n` bytes reaches the session machinery: the control complex is ready, the frame is heard
on its port, it is a whole IPv4 datagram for UDP port 17394, and it has the layout of R56 with version 1 (R52, R55, R56). -/
def KdaHears (d : Dev) (h : KdaHeader) (n : Nat) : Prop :=
  d.pow.agentReady = true ∧ KdaReaches d h.peer ∧ h.udpPort = 17394 ∧ h.ipv4 = true ∧ h.fragmented = false ∧
    h.magic = 0x4B44 ∧ h.length.toNat = n ∧ n ≤ 1440 ∧ h.reserved = 0 ∧ h.version = 1

/-- The frame belongs to the open session `x` and its tag verifies (R59). -/
def InSession (d : Dev) (h : KdaHeader) (n : Nat) (x : KdaSession) : Prop :=
  KdaHears d h n ∧ sessionOf d h.session = some x ∧ x.open_ = true ∧ h.tagOk = true

/-! ### The Springcount exchange -/

/-- A flooded Springcount frame with a payload of `len` bytes is taken: the port is Up and a backbone port, the header keeps
the layout, Springcount is enabled, the node has started its first round, and the frame is neither a later copy nor of a
lower round (R73, R81, R82, R85). -/
def TakesSc (d : Dev) (kind : Nat) (p : Port) (h : ScHeader) (len : Nat) : Prop :=
  portUp d p = true ∧ scValid p h len = true ∧ scEnabled d = true ∧ d.inaug.state ≠ .unnumbered ∧
    (∀ x ∈ d.inaug.seen, x.key ≠ scKey kind h) ∧ roundHigher d.inaug.round h.round = false

/-- A good frame of `len` bytes, with its FCS, is counted in 0x2300 + p:23 and p:24 (R175, R186). -/
def FrameCounted (a d : Dev) (p : Port) (len : Nat) : Prop :=
  cfg d (0x2300 + p.val) 0x23 = min 0xFFFFFFFFFFFFFFFF (cfg a (0x2300 + p.val) 0x23 + 1) ∧
    cfg d (0x2300 + p.val) 0x24 = min 0xFFFFFFFFFFFFFFFF (cfg a (0x2300 + p.val) 0x24 + len)

/-- The node has sent a frame of its own on the ports, in a round (R78, R81). -/
def SendsSc (d : Dev) (ports : List Port) (round : BitVec 16) (b : ScBody) : Prop :=
  ∀ q ∈ ports, ∃ seq, Out.springcount q d.chip.ident round seq 0 0 false b ∈ d.out

/-- The node has passed a frame on to the ports with one hop more (R78, R81). -/
def PassesSc (d : Dev) (ports : List Port) (h : ScHeader) (b : ScBody) : Prop :=
  ∀ q ∈ ports, Out.springcount q h.originator h.round h.seq h.segment.toNat (h.hops.toNat + 1) h.more b ∈ d.out

/-- The round in progress in `a` has failed in `d`: counted, its COMMIT discarded, and either standard mode after the rounds
of 0x2102:05, or a back-off of at most 2,000 µs, which a claim of a higher round held until now replaces (R76, R89, R110). -/
def RoundFailed (a d : Dev) : Prop :=
  cfg d 0x2107 3 = min 0xFFFFFFFF (cfg a 0x2107 3 + 1) ∧ d.inaug.accepted = none ∧
    d.inaug.failedRounds = a.inaug.failedRounds + 1 ∧
    if cfg a 0x2102 5 ≤ a.inaug.failedRounds + 1 then
      d.inaug.state = .standard ∧ d.inaug.standard = true ∧ cfg d 0x2107 4 = min 0xFFFFFFFF (cfg a 0x2107 4 + 1)
    else d.inaug.state = .claiming ∧ match a.inaug.heldClaim with
      | none => ∃ us, us ≤ 2000 ∧ d.inaug.backOff = some (d.now + us * usNs)
      | some c => roundHigher c.round a.inaug.round = true → d.inaug.round = c.round

/-! ### Network time -/

/-- A complete Sync that shows the offset `off` has moved the time base of `a` to that of `d` as the rows of R205 say: the two
lock rows count 8 good and 4 bad Syncs, an offset above 0x2402:09 arms a step of `-off`, and a step already armed keeps its
point (R217). -/
def TakesSync (a d : Dev) (off : Int) : Prop :=
  let big := cfg a 0x2402 9 < off.natAbs
  let arms := d.time.state = .stepPending ∧ ∃ x, d.time.armed = some x ∧ x.amount = -off ∧
    ∀ y, a.time.armed = some y → x.point = y.point
  let locks : TimeState := if off.natAbs ≤ cfg a 0x2402 8 ∧ 7 ≤ a.time.goodSyncs then .synchronised else .acquiring
  d.time.offset = off ∧ d.time.syncDeadline = syncTimeout a ∧
    match a.time.state with
    | .grandmaster => d.time.state = .grandmaster
    | .unsynchronised => d.time.state = .acquiring ∧ d.time.base = a.time.base + -off * 2 ^ 32
    | .acquiring => if big then arms else d.time.state = locks
    | .synchronised =>
      if big then arms
      else d.time.state = if 2 * cfg a 0x2402 8 < off.natAbs ∧ 3 ≤ a.time.badSyncs then .acquiring else .synchronised
    | .holdover => if big then arms else d.time.state = locks ∧ d.time.holdSince = none
    | .stepPending => if big then arms else d.time.state = locks ∧ d.time.armed = none

/-! ### The message buses -/

/-- No object of the gateway waits to be served: none that it owns is Held or Done (R306, R329). -/
def GatewayQuiet (d : Dev) : Prop :=
  ∀ (c : CanId) (o : Nat), (objCfg d c o).owner = 2 → isHeld (objOf d c o).status = false ∧ isDone (objOf d c o).status = false

/-! ### The companion links -/

/-- A transfer on a companion link has started with the output and inrush masks that the channels have now (R420). -/
def SendsTransfer (d : Dev) (n : Fin 4) (kind sel value : Nat) : Prop :=
  ∃ seq, Out.transfer n.val (commandFrame kind seq (outMask d n) (inrushMask d n) sel value) (decide (kind = 3)) ∈ d.out

/-! ### Frames -/

/-- The parts of the device: the clocks, the free values used, what was sent, of the dictionary agent the committed
registers, the large tables, the commit controller, the staging set with the configuration image, the access paths and the
configuration region, the other subsystems, and of the host link INT_STATUS with the pending vectors and the mailboxes; the
egress queues with their cells stand apart from the rest of the fabric, the event counters from the rest of chapter 17. -/
inductive Part where
  | clock | fresh | out | regs | tables | commit | staging | access | stored | node | chip | inaug | fab | queues | ports | time
  | sched | strm | can | gw | chk | recd | sleep | load | host | ints | mail | pow | health | counters | sec | pins
  deriving DecidableEq, Repr

/-- The host link without INT_STATUS, the pending vectors and the mailboxes. -/
def HostS.registers (h : HostS) : HostS :=
  { h with
    intStatus := 0, msiPending := HostS.reset.msiPending, mbPcie := HostS.reset.mbPcie, mbSerial := HostS.reset.mbSerial }

/-- The fabric without its egress queues and the cells of their frames. -/
def FabricS.rest (f : FabricS) : FabricS :=
  { f with queues := FabricS.reset.queues, cells := [], nextUid := 0, lastFirst := none, sentUids := [], spilling := [] }

/-- The egress queues, the cells of their frames, and what is known of the frames in them. -/
def FabricS.held (f : FabricS) :
    Vector (Vector (List QFrame) 8) 20 × List (Nat × List Slice) × Nat × Option Slice × List Nat × List (Nat × Nat) :=
  (f.queues, f.cells, f.nextUid, f.lastFirst, f.sentUids, f.spilling)

/-- The time base without the free-running counter. -/
def TimeS.rest (t : TimeS) : TimeS := { t with fRaw := 0 }

/-- Chapter 17's part without the event counters. -/
def HealthS.rest (h : HealthS) : HealthS := { h with counters := HealthS.reset.counters }

/-- One part is the same in two devices. -/
def Part.same (a b : Dev) : Part → Prop
  | .clock => (b.now, b.time.fRaw) = (a.now, a.time.fRaw)
  | .fresh => b.fresh = a.fresh
  | .out => b.out = a.out
  | .regs => b.dict.od = a.dict.od
  | .tables => b.dict.mem = a.dict.mem
  | .commit => (b.dict.epoch, b.dict.commit, b.dict.fence, b.dict.fenceToken, b.dict.queue, b.dict.owed) =
      (a.dict.epoch, a.dict.commit, a.dict.fence, a.dict.fenceToken, a.dict.queue, a.dict.owed)
  | .staging =>
      (b.dict.staged, b.dict.owner, b.dict.idleDeadline, b.dict.lastRefused, b.dict.heldCommit, b.dict.image, b.dict.imageStatus,
        b.dict.imageBy, b.dict.imageStaged) =
      (a.dict.staged, a.dict.owner, a.dict.idleDeadline, a.dict.lastRefused, a.dict.heldCommit, a.dict.image, a.dict.imageStatus,
        a.dict.imageBy, a.dict.imageStaged)
  | .access => (b.dict.sessions, b.dict.sdo, b.dict.sdoMode, b.dict.kdaSecond, b.dict.kdaCount) =
      (a.dict.sessions, a.dict.sdo, a.dict.sdoMode, a.dict.kdaSecond, a.dict.kdaCount)
  | .stored => (b.dict.copy0, b.dict.copy1) = (a.dict.copy0, a.dict.copy1)
  | .node => b.node = a.node
  | .chip => b.chip = a.chip
  | .inaug => b.inaug = a.inaug
  | .fab => b.fab.rest = a.fab.rest
  | .queues => b.fab.held = a.fab.held
  | .ports => b.ports = a.ports
  | .time => b.time.rest = a.time.rest
  | .sched => b.sched = a.sched
  | .strm => b.strm = a.strm
  | .can => b.can = a.can
  | .gw => b.gw = a.gw
  | .chk => b.chk = a.chk
  | .recd => b.recd = a.recd
  | .sleep => b.sleep = a.sleep
  | .load => b.load = a.load
  | .host => b.host.registers = a.host.registers
  | .ints => (b.host.intStatus, b.host.msiPending) = (a.host.intStatus, a.host.msiPending)
  | .mail => (b.host.mbPcie, b.host.mbSerial) = (a.host.mbPcie, a.host.mbSerial)
  | .pow => b.pow = a.pow
  | .health => b.health.rest = a.health.rest
  | .counters => b.health.counters = a.health.counters
  | .sec => b.sec = a.sec
  | .pins => b.pins = a.pins

/-- Nothing of the device differs but the parts named. -/
def Framed (changed : List Part) (a b : Dev) : Prop := ∀ p : Part, p ∈ changed ∨ p.same a b

/-- Of the committed registers none differs but those named. -/
def RegsFramed (changed : List (Nat × Nat)) (a b : Dev) : Prop :=
  ∀ k, (∃ r ∈ changed, odKey r.1 r.2 = k) ∨ Store.find odDefault b.dict.od k = Store.find odDefault a.dict.od k

/-- The frame counters of a port: what it receives (R175) and what becomes of a frame at its queues (R120, R141, R142, R168,
R245). -/
def frameCounters (p : Port) : List (Nat × Nat) :=
  [(0x2300 + p.val, 0x23), (0x2300 + p.val, 0x24), (0x2300 + p.val, 0x32), (0x2505, 0x0D), (0x2602, 2)] ++
    (List.range 11).map (fun k => (0x2210 + p.val, k + 1))

/-- Two devices differ at most in what belongs to the access path of a request: what was sent, sessions, SDO transfers and
KDA rate counts, and the mailboxes with their interrupts; a KDA frame and its answer also in the egress queues, in the frame
counters of the ports and in the event counters. -/
def PathOnly (src : Src) (a b : Dev) : Prop :=
  match src with
  | .kda _ _ => Framed [.out, .access, .queues, .regs, .counters] a b ∧ RegsFramed (allPorts.flatMap frameCounters) a b
  | _ => Framed [.out, .access, .mail, .ints] a b

/-- A request of `src` has acted as `f`: nothing differs from what `f` makes of the device as the path left it, but what
belongs to the path. -/
def Through (src : Src) (s : State) (f : Dev → Dev) (d : Dev) : Prop := ∃ a, PathOnly src s.found a ∧ PathOnly src (f a) d

/-- A write to an immediate entry has acted at once: `d` differs from what `f` makes of the device found, with the write
counted as accepted, only in what belongs to the access path, and the write is answered 0 (R34, R36). -/
def ActsAtOnce (s : State) (src : Src) (idx sub : Nat) (f : Dev → Dev) (d : Dev) : Prop :=
  Through src s (fun a => f (bump 0x2003 1 a)) d ∧ WriteAnswered d src idx sub 0

/-- A write has been refused with a code: it is counted under R36 and answered, and nothing else has changed but what
belongs to the access path. -/
def RefusedWith (s : State) (src : Src) (idx sub code : Nat) (d : Dev) : Prop :=
  Through src s (countRefusal false idx sub code) d ∧ WriteAnswered d src idx sub code

/-- A write is staged, counted and answered 0: the staging set becomes the set with it, owned by the session, whose idle time
starts again (R34, R36, R39). -/
def StagedBy (s : State) (src : Src) (x : Staged) (d : Dev) : Prop :=
  Through src s (fun a => onDict (fun q => { q with
      staged := putStage q.staged x
      owner := some (sessionKey src)
      idleDeadline := some (s.dev.now + cfg s.dev 0x2002 7 * sNs) }) (bump 0x2003 1 a)) d ∧
    WriteAnswered d src x.idx x.sub 0

/-- What the passing of local time changes: the clocks, and the event counters that count microseconds (R187, R522). -/
def timeParts : List Part := [.clock, .counters]

/-- What the recording of an event changes beside the part that raised it: the recorder, its counters in the dictionary,
the event counters, and the interrupt of a severity 7 entry with its message (R374, R375, R382, R522, R454). -/
def eventParts : List Part := [.recd, .regs, .counters, .ints, .out]

/-! ### The form that every step keeps -/

/-- The stores of the dictionary agent are in canonical form: the committed registers, the large tables and both copies
of the configuration region. -/
def DictS.Canonical (q : DictS) : Prop :=
  Store.wf odDefault q.od = true ∧ Memory.wf q.mem = true ∧
    Store.wf odDefault q.copy0.values = true ∧ Memory.wf q.copy0.tables = true ∧
    Store.wf odDefault q.copy1.values = true ∧ Memory.wf q.copy1.tables = true

/-- Both mailbox windows are memories in canonical form. -/
def HostS.Canonical (h : HostS) : Prop := Memory.wf h.mbPcie.window = true ∧ Memory.wf h.mbSerial.window = true

/-- Every store of the device is in canonical form, so that equal contents are equal data. -/
def Dev.Canonical (d : Dev) : Prop :=
  d.dict.Canonical ∧ d.host.Canonical ∧ Store.wf (fun _ => TxStage.blank) d.gw.stages = true ∧
    Store.wf (fun _ => CheckCh.blank) d.chk = true

/-- The counters of the time base that wrap stay in their fields: F has 96 bits and the step generation three (R187,
R191). -/
def TimeS.Bounded (t : TimeS) : Prop := t.fRaw < 2 ^ 96 ∧ t.stepGen < 8

/-- What every step keeps: the stores canonical, the wrapping counters of the time base in their fields, and the lifecycle
state one of R533. -/
def Dev.Valid (d : Dev) : Prop := d.Canonical ∧ d.time.Bounded ∧ d.sec.lifecycle ≤ 4

/-- The lifecycle state is one of R533, and it and the security version of the firmware are at least `lifecycle` and
`version`. -/
def SecS.AtLeast (s : SecS) (lifecycle version : Nat) : Prop :=
  lifecycle ≤ s.lifecycle ∧ version ≤ s.fwVersion ∧ s.lifecycle ≤ 4

end Sys2Proof.Machine
end

