-- ==== Sys2Proof/Certificates/Slice0/Obligations.lean ====
section
/-! DEFINITION. The statements for the provers, chapter by chapter: what every step keeps, what each command does, where it
completes, and what it leaves as it was. -/

section
open Sys2Proof Sys2Proof.Machine

/-- A step is `exec` of the front command on the state with the queue's rest (log entry 1). -/
def Obligations.StepRunsTheFrontCommand : Prop :=
  ∀ (c : Instr) (rest : List Instr) (s : State), s.pending = c :: rest → step s = exec c { s with pending := rest }

/-- A step on an empty queue (the model's choice, log entry 2) is one island 30 edge of 4 ns. -/
def Obligations.EmptyQueueStepIsOneClockEdge : Prop :=
  ∀ s : State, s.pending = [] →
    ∃ t, step s = .next t ∧ t.pending = [] ∧ t.dev.now = s.dev.now + 4 ∧
      t.dev.time.fRaw = (s.dev.time.fRaw + cfg s.dev 0x2401 1) % 2 ^ 96 ∧ Framed timeParts s.found t.dev

/-- No command stops the block. -/
def Obligations.EveryCommandAnswersANextState : Prop :=
  ∀ (c : Instr) (s : State), Completes c s fun _ => True

/-- The invariant of the whole machine, kept by every step. -/
def Obligations.EveryStepKeepsTheStateValid : Prop :=
  ∀ s t : State, s.dev.Valid → step s = .next t → t.dev.Valid

/-- The invariant holds at reset. -/
def Obligations.TheStateAfterResetIsValid : Prop :=
  State.reset.dev.Valid ∧ State.reset.pending = []

/-- R6: the device never changes its identity. -/
def Obligations.NoStepChangesTheFusedIdentity : Prop :=
  ∀ s t : State, s.dev.Valid → step s = .next t → t.dev.chip = s.dev.chip

/-- R534, R538: lifecycle changes are permanent and the anti-rollback version never falls. -/
def Obligations.NoStepTurnsLifecycleOrFirmwareVersionBack : Prop :=
  ∀ s t : State, s.dev.Valid → step s = .next t → t.dev.sec.AtLeast s.dev.sec.lifecycle s.dev.sec.fwVersion

/-- Reset values that the spec states; values of the model's own choice (log entry 3) are not among them. -/
def Obligations.ResetLeavesWhatTheSpecStates : Prop :=
  let d := State.reset.dev
  d.pow.state = .resetHeld ∧ d.pow.safeN = false ∧ d.pow.resetOutN = false ∧ d.pow.railCore = false ∧ d.pow.railDdr = false ∧
    d.time.fRaw = 0 ∧ d.time.state = .unsynchronised ∧ d.fab.active = [0, 1, 2, 3, 4, 5, 6, 7] ∧ d.fab.spare = some 8 ∧
    d.fab.forwarding = false ∧ d.sched.state = .off ∧ (∀ k : Fin 64, d.strm.s[k].state = .off) ∧ d.recd.state = .off ∧
    d.sec.lifecycle = 1 ∧ d.dict.sessions = [] ∧ d.dict.staged = [] ∧
    ∀ idx sub : Nat, d.dict.reg idx sub = odDefault (odKey idx sub)

/-- R21, R23, R25, R125, R149: profiles and tests in service. -/
def Obligations.ProfilesEndAndTestsStepOn : Prop :=
  ∀ s : State,
    (∀ t : Nat, s.dev.node.fastEnd = some t → s.dev.node.profile = 2 → s.dev.node.before ≠ 2 →
      Completes .fastStartTimeout s fun d =>
        d.node.profile = s.dev.node.before ∧ d.node.fastEnd = none ∧ d.node.fastEndedAt = some (max s.dev.now t) ∧
          d.now = max s.dev.now t ∧ d.dict.staged = s.dev.dict.staged) ∧
    (∀ reading : Int,
      let ends := fun (d : Dev) => d.node.junction = reading ∧ d.node.profile = s.dev.node.before ∧ d.node.fastEnd = none
      let stays := fun (d : Dev) => d.node.junction = reading ∧ d.node.profile = s.dev.node.profile ∧
        d.node.fastEnd = s.dev.node.fastEnd ∧ Framed (.node :: eventParts) s.found d
      (s.dev.node.profile = 2 → s.dev.node.before ≠ 2 → gradeMax s.dev - 100 ≤ reading →
        Completes (.fastStartThermalEnd reading) s ends ∧ Completes (.junctionTemperatureMaximum reading) s ends) ∧
      (s.dev.node.profile ≠ 2 ∨ reading < gradeMax s.dev - 100 →
        Completes (.fastStartThermalEnd reading) s stays ∧ Completes (.junctionTemperatureMaximum reading) s stays)) ∧
    (s.dev.node.profile = 3 → s.dev.node.stepBusy = false →
      (s.dev.node.testStep % 2 = 0 → s.dev.fab.engine0 = .inService → s.dev.fab.engine1 = .inService →
        Completes .engineTestStep s fun d =>
          engineOf d.fab (decide (s.dev.node.testStep = 2)) = .selfTest ∧
            engineOf d.fab (!decide (s.dev.node.testStep = 2)) = .inService ∧
            d.node = { s.dev.node with testStep := (s.dev.node.testStep + 1) % 4, stepBusy := true } ∧
            Framed (.node :: .fab :: eventParts) s.found d) ∧
      (∀ sl : Slice, s.dev.node.testStep % 2 ≠ 0 → nextRotation s.dev = some sl → mayRotate s.dev sl.val = true →
        Completes .engineTestStep s fun d =>
          d.node = { s.dev.node with testStep := (s.dev.node.testStep + 1) % 4, stepBusy := true } ∧
            d.fab.works = [{ slice := sl, incoming := freeSpare s.dev, rotation := true, cause := 5, started := s.dev.now }] ∧
            Framed [.node, .fab] s.found d)) ∧
    (∀ one pass : Bool, engineOf s.dev.fab one = .selfTest → Completes (.engineSelfTestEnd one pass) s fun d =>
      engineOf d.fab one = (if pass then .inService else .retired) ∧ engineOf d.fab (!one) = engineOf s.dev.fab (!one) ∧
        (s.dev.node.nextProfile = none →
          d.node.profile = s.dev.node.profile ∧ Framed (.node :: .fab :: eventParts) s.found d)) ∧
    ∀ (w : SliceWork) (i : Slice), s.dev.fab.works.find? (·.rotation) = some w → w.incoming = some i →
      Completes .rotationComplete s fun d =>
        d.fab.spare = some w.slice ∧ d.fab.active = s.dev.fab.active.map (fun x => if x = w.slice then i else x) ∧
          d.fab.works = s.dev.fab.works.filter (fun x => x.slice ≠ w.slice) ∧
          (s.dev.node.nextProfile = none → d.node.profile = s.dev.node.profile ∧
            Framed ([.clock, .fresh, .node, .fab, .queues, .ports] ++ eventParts) s.found d)

/-- The frame of the profile commands. -/
def Obligations.ProfileCommandsLeaveTheRestAlone : Prop :=
  ∀ s : State,
    let profileParts : List Part := [.clock, .fresh, .node, .inaug, .fab, .queues, .ports, .time, .sched, .strm, .sleep, .load, .host, .health] ++ eventParts
    Completes .fastStartTimeout s (Framed profileParts s.found) ∧
    (∀ reading : Int, Completes (.fastStartThermalEnd reading) s (Framed profileParts s.found) ∧
      Completes (.junctionTemperatureMaximum reading) s (Framed profileParts s.found)) ∧
    (∀ one pass : Bool, Completes (.engineSelfTestEnd one pass) s (Framed profileParts s.found)) ∧
    Completes .rotationComplete s (Framed profileParts s.found) ∧
    Completes .engineTestStep s (Framed ([.node, .fab] ++ eventParts) s.found)

/-- R34, R39, R40: a staged write has no effect until a commit. -/
def Obligations.AStagedWriteChangesOnlyTheStagingSet : Prop :=
  ∀ (s : State) (src : Src) (idx : BitVec 16) (sub : BitVec 8) (off : BitVec 32) (data : List Byte) (row : EntryRow) (v : Value),
    let x : Staged :=
      { idx := idx.toNat, sub := sub.toNat, val := v, spans := if isTable idx.toNat then [(off.toNat, data.length)] else [] }
    Served s.dev src → overlong (writeOf src idx.toNat sub.toNat off.toNat data) = false →
      checkWrite s.dev (roleOf s.dev src) idx.toNat sub.toNat off.toNat data = .ok (row, v) → row.imm = false →
      stageError s.dev (sessionKey src) x = none →
      Completes (.dictionaryWrite (.entry src idx sub off data)) s (StagedBy s src x)

/-- R35, R36, R603: a refused write has no side effect beyond its counters. -/
def Obligations.ARefusedWriteOnlyCounts : Prop :=
  ∀ (s : State) (src : Src) (idx : BitVec 16) (sub : BitVec 8) (off : BitVec 32) (data : List Byte),
    let i := idx.toNat
    let b := sub.toNat
    let refused := fun (code : Nat) => Completes (.dictionaryWrite (.entry src idx sub off data)) s fun d =>
      Through src s (fun a => setReg 0x2003 7 code (setReg 0x2003 6 (256 * i + b) (bump 0x2003 (refusalCounter false code) a))) d ∧
        WriteAnswered d src i b code
    Served s.dev src → overlong (writeOf src i b off.toNat data) = false →
      (rowOf i b = none → indexExists i = false → refused 0x06020000) ∧
      (rowOf i b = none → indexExists i = true → refused 0x06090011) ∧
      ∀ row, rowOf i b = some row →
        (row.writes (roleOf s.dev src) = false →
          refused (if (List.range 4).any row.writes then 0x0F000001 else 0x06010002)) ∧
        (row.writes (roleOf s.dev src) = true →
          (∀ n, row.ty.fixed = some n →
            (n < data.length → refused 0x06070012) ∧ (data.length < n → refused 0x06070013) ∧
            (data.length = n → off ≠ 0 → refused 0x0F000009)) ∧
          ∀ v code, checkWrite s.dev (roleOf s.dev src) i b off.toNat data = .ok (row, v) → row.imm = false →
            let x : Staged := { idx := i, sub := b, val := v, spans := if isTable i then [(off.toNat, data.length)] else [] }
            stageError s.dev (sessionKey src) x = some code → refused code)

/-- R41, R42, R43, R45, R63: what a commit write comes to. -/
def Obligations.ACommitIsCheckedInTheOrderOfR41 : Prop :=
  ∀ (s : State) (src : Src) (value : Word32),
    let next := if s.dev.dict.epoch ≥ 0xFFFFFFFF then 1 else s.dev.dict.epoch + 1
    let refused := fun (code : Nat) => Completes (.commit src value) s fun d =>
      Through src s (fun a => setReg 0x2003 7 code (setReg 0x2003 6 0x200201 (bump 0x2003 (refusalCounter true code)
          (onDict (fun q => { q with lastRefused := true }) a)))) d ∧
        WriteAnswered d src 0x2002 1 code
    let touch := onDict (fun q => { q with idleDeadline := some (s.dev.now + cfg s.dev 0x2002 7 * sNs) })
    let atBoundary := scheduleActive s.dev &&
      s.dev.dict.staged.any (fun x => ((rowOf x.idx x.sub).map (·.atBoundary)).getD false)
    Served s.dev src → MayWrite s.dev src 0x2002 1 →
      (value.toNat ≠ next → refused 0x0F000004) ∧
      (value.toNat = next → s.dev.dict.staged = [] → refused 0x0F000006) ∧
      (value.toNat = next → s.dev.dict.staged ≠ [] → s.dev.dict.owner ≠ some (sessionKey src) → refused 0x0F000002) ∧
      (value.toNat = next → s.dev.dict.staged ≠ [] → s.dev.dict.owner = some (sessionKey src) →
        (s.dev.dict.heldCommit ≠ none ∨ s.dev.sleep.state = .committing → refused 0x08000022) ∧
        (s.dev.dict.heldCommit = none → s.dev.sleep.state ≠ .committing →
          (inRound s.dev = true → Completes (.commit src value) s (Through src s fun a =>
            onDict (fun q => { q with
              heldCommit := some { src := src, deadline := s.dev.now + 2 * sNs, epoch := s.dev.inaug.now.epoch } }) (touch a))) ∧
          (inRound s.dev = false →
            (validateSet (touch (s.reached (commitReq src value))) = none →
              Completes (.commit src value) s (Through src s fun a => onDict (fun q => { q with
                commit := some {
                  src := src
                  staged := q.staged
                  applyAt := if atBoundary then boundaryFrom s.dev (trainTime s.dev + 20000) else trainTime s.dev + 20000
                  atBoundary := atBoundary
                  image := q.imageStaged }
                staged := [], owner := none, idleDeadline := none, imageStaged := none, lastRefused := false }) (draw (touch a)))) ∧
            ∀ code entry : Nat, validateSet (touch (s.reached (commitReq src value))) = some (code, entry) →
              Completes (.commit src value) s fun d =>
                d.dict.staged = s.dev.dict.staged ∧ d.dict.owner = s.dev.dict.owner ∧ d.dict.commit = none ∧
                  d.dict.lastRefused = true ∧ cfg d 0x2002 8 = entry ∧ cfg d 0x2003 6 = 0x200201 ∧ cfg d 0x2003 7 = code ∧
                  WriteAnswered d src 0x2002 1 code)))

/-- R39, R45, R63: the ends of a held commit and of a staging set. -/
def Obligations.AHeldCommitIsReleasedOrRefused : Prop :=
  ∀ s : State,
    (∀ h : HeldCommit, s.dev.dict.heldCommit = some h →
      (h.epoch ≠ s.dev.inaug.now.epoch →
        (validateSet (onDict (fun q => { q with heldCommit := none }) s.found) = none →
          Completes .commitHoldRelease s fun d =>
            d.dict.heldCommit = none ∧ d.dict.staged = [] ∧ d.dict.owner = none ∧
              (d.dict.commit.map (fun k => (k.src, k.staged))) = some (h.src, s.dev.dict.staged) ∧
              Framed [.fresh, .commit, .staging] s.found d) ∧
        ∀ code entry : Nat, validateSet (onDict (fun q => { q with heldCommit := none }) s.found) = some (code, entry) →
          Completes .commitHoldRelease s fun d =>
            d.dict.heldCommit = none ∧ d.dict.staged = s.dev.dict.staged ∧ d.dict.owner = s.dev.dict.owner ∧
              d.dict.lastRefused = true ∧ cfg d 0x2002 8 = entry ∧ cfg d 0x2003 7 = code) ∧
      Completes .commitHoldTimeout s fun d =>
        d.dict.heldCommit = none ∧ d.dict.staged = s.dev.dict.staged ∧ d.dict.owner = s.dev.dict.owner ∧
          d.dict.lastRefused = true ∧ d.now = max s.dev.now h.deadline ∧
          cfg d 0x2003 9 = min 0xFFFFFFFF (cfg s.dev 0x2003 9 + 1) ∧ cfg d 0x2003 6 = 0x200201 ∧ cfg d 0x2003 7 = 0x0F00000C ∧
          RegsFramed ([(0x2003, 9), (0x2003, 6), (0x2003, 7)] ++ allPorts.flatMap frameCounters) s.found d ∧
          Framed [.clock, .counters, .regs, .staging, .out, .access, .queues, .mail, .ints] s.found d) ∧
    (∀ t : Nat, s.dev.dict.idleDeadline = some t → Completes .stagingIdleTimeout s fun d =>
      d.dict.staged = [] ∧ (s.dev.dict.staged ≠ [] → d.dict.owner = none ∧ d.dict.heldCommit = none) ∧
        d.dict.idleDeadline = none ∧ d.now = max s.dev.now t ∧
        Framed ([.clock, .staging, .access, .queues, .mail] ++ eventParts) s.found d) ∧
    (∀ src : Src, Served s.dev src → MayWrite s.dev src 0x2002 6 →
      (s.dev.dict.heldCommit = none →
        (roleOf s.dev src ≠ 1 ∨ s.dev.dict.owner = none ∨ s.dev.dict.owner = some (sessionKey src)) →
        Completes (.discardStaging src) s fun d =>
          d.dict.staged = [] ∧ (s.dev.dict.staged ≠ [] → d.dict.owner = none ∧ d.dict.idleDeadline = none) ∧
            WriteAnswered d src 0x2002 6 0 ∧ Framed ([.staging, .access, .queues, .mail] ++ eventParts) s.found d) ∧
      (s.dev.dict.heldCommit ≠ none →
        (roleOf s.dev src ≠ 1 ∨ s.dev.dict.owner = none ∨ s.dev.dict.owner = some (sessionKey src)) →
        Completes (.discardStaging src) s fun d => d.dict.staged = s.dev.dict.staged ∧ WriteAnswered d src 0x2002 6 0x08000022) ∧
      (roleOf s.dev src = 1 → s.dev.dict.owner ≠ none → s.dev.dict.owner ≠ some (sessionKey src) →
        Completes (.discardStaging src) s fun d => d.dict.staged = s.dev.dict.staged ∧ WriteAnswered d src 0x2002 6 0x0F000001))

/-- R41, R43, R45, R483: apply points. -/
def Obligations.AnApplyPointTakesTheNextEpoch : Prop :=
  ∀ s : State,
    (∀ k : Commit, s.dev.dict.commit = some k → s.dev.dict.queue = [] →
      let next := if s.dev.dict.epoch ≥ 0xFFFFFFFF then 1 else s.dev.dict.epoch + 1
      Completes .applyPoint s (fun d => d.dict.epoch = next ∧ d.dict.commit = none) ∧
      ∀ island : Fin 41, (island = 36 → s.dev.sec.level = 0 ∨ s.dev.sec.scanStarted = false) →
        Completes (.islandAckTimeout island) s fun d =>
          d.dict.epoch = next ∧ d.dict.commit = none ∧ 1 ≤ cfg d 0x2D05 9 ∧
            (29 ≤ island.val → island ≠ 32 → island ≠ 33 → island ≠ 36 → d.pow.stale.getLsbD island.val = true)) ∧
    (s.dev.dict.commit = none → s.dev.dict.queue = [] → s.dev.pow.agentReady = true → s.dev.pow.booted = false →
      s.dev.pow.bootStep = 8 →
      Completes .applyPoint s fun d => d.dict.epoch = 1 ∧ d.pow.booted = true ∧ d.pow.state = .active)

/-- R47: a fence. -/
def Obligations.AFenceHoldsWritesUntilItCompletes : Prop :=
  ∀ s : State,
    (∀ (src : Src) (token : Word32), Served s.dev src → MayWrite s.dev src 0x2002 2 →
      Completes (.fence src token) s fun d =>
        Through src s (fun a => onDict (fun q => { q with fence := some (src, token.toNat) }) (bump 0x2003 1 a)) d) ∧
    (∀ (src : Src) (token : Nat), s.dev.dict.fence = some (src, token) → s.dev.dict.queue = [] →
      Completes .fenceComplete s fun d =>
        PathOnly src (onDict (fun q => { q with fence := none, fenceToken := token }) s.found) d ∧
          entryValue d 0x2002 2 = .num token)

/-- R44, R47, R51, R52: requests that wait, and requests that nobody hears. -/
def Obligations.WritesThatMustWaitJoinTheQueue : Prop :=
  ∀ (s : State) (c : CanId) (idx : BitVec 16) (sub : BitVec 8) (off : BitVec 32) (data : List Byte),
    let w : Req := { src := .sdo c, idx := idx.toNat, sub := sub.toNat, off := off.toNat, op := .write data, phy := none }
    let r : Req := { src := .sdo c, idx := 0x2802, sub := 1, off := 0, op := .read (mostBytes (.sdo c)), phy := none }
    sdoOn s.dev c = true →
      (s.dev.pow.agentReady = true → ((s.dev.dict.commit ≠ none ∧ mdioRequest w = false) ∨ s.dev.dict.fence ≠ none) →
        Completes (.dictionaryWrite (.entry (.sdo c) idx sub off data)) s fun d =>
          d = onDict (fun q => { q with queue := q.queue ++ [w] }) s.found) ∧
      (s.dev.pow.agentReady = true → s.dev.dict.commit ≠ none →
        Completes (.logRecordRead (.sdo c)) s fun d => d = onDict (fun q => { q with queue := q.queue ++ [r] }) s.found) ∧
      (s.dev.pow.agentReady = false →
        Completes (.dictionaryWrite (.entry (.sdo c) idx sub off data)) s (fun d => d = s.found) ∧
        Completes (.logRecordRead (.sdo c)) s fun d => d = s.found)

/-- R64, R259, R365, R521: clearing counters. -/
def Obligations.CounterClearSetsTheCounterToZero : Prop :=
  ∀ (s : State) (src : Src), Served s.dev src →
    (∀ (idx : BitVec 16) (sub : BitVec 8) (row : EntryRow) (n : Nat), rowOf idx.toNat sub.toNat = some row → row.range = .zero →
      row.imm = true → row.ty.fixed = some n → row.writes (roleOf s.dev src) = true → idx ≠ 0x2901 → idx ≠ 0x2504 →
      (idx.toNat < 0x2E10 ∨ 0x2E50 ≤ idx.toNat) →
      Completes (.counterClear src idx sub (List.replicate n 0)) s
        (ActsAtOnce s src idx.toNat sub.toNat (setReg idx.toNat sub.toNat 0)) ∧
      ∀ data : List Byte, data.length = n → leNat data ≠ 0 →
        Completes (.counterClear src idx sub data) s (RefusedWith s src idx.toNat sub.toNat 0x06090030)) ∧
    (∀ i : Fin 64, MayWrite s.dev src (0x2E10 + i.val) 5 → MayWrite s.dev src (0x2E10 + i.val) 7 →
      (Completes (.counterClear src (0x2E10 + BitVec.ofNat 16 i.val) 5 (List.replicate 8 0)) s
        (ActsAtOnce s src (0x2E10 + i.val) 5
          (onHealth (fun h => { h with counters := vmod h.counters i (fun x => { x with value := 0 }) })))) ∧
      Completes (.counterClear src (0x2E10 + BitVec.ofNat 16 i.val) 7 [0]) s
        (ActsAtOnce s src (0x2E10 + i.val) 7
          (onHealth (fun h => { h with counters := vmod h.counters i (fun x => { x with overflow := false }) })))) ∧
    (MayWrite s.dev src 0x2901 6 → Completes (.counterClear src 0x2901 6 [0, 0, 0, 0]) s (ActsAtOnce s src 0x2901 6
      (setChk (cfg s.dev 0x2901 1) { chkOf s.dev (cfg s.dev 0x2901 1) with crc := 0 }))) ∧
    (∀ k : Fin 7, MayWrite s.dev src 0x2504 (2 + k.val) → selectedPlaced s.dev = true →
      Completes (.counterClear src 0x2504 (2 + BitVec.ofNat 8 k.val) [0, 0, 0, 0]) s (ActsAtOnce s src 0x2504 (2 + k.val)
        (onSched (fun x => { x with counters := x.counters.map (fun c =>
          if c.window = cfg s.dev 0x2504 1 then { c with counts := c.counts.set k.val 0 k.isLt } else c) }))))

/-- R48, R49, R69: the stored copies. -/
def Obligations.SaveAndRestoreMarkTheStoredCopies : Prop :=
  ∀ (s : State) (src : Src), Served s.dev src →
    let q := s.dev.dict
    (MayWrite s.dev src 0x1010 1 →
      (emmcReady s.dev = true → Completes (.saveAll src) s
        (let copy : CfgCopy := CfgCopy.seal
           { magic := 0x4B5A4346, generation := (max q.copy0.generation q.copy1.generation) % 0xFFFFFFFF + 1, count := 0, size := 0
             epoch := q.epoch, imageId := cfg s.dev 0x2011 4, product := BitVec.ofNat 32 (productCode s.dev)
             majorLine := BitVec.ofNat 8 (majorLine s.dev), crc := 0
             values := q.od.filter (fun x => isStored x.1), tables := savedTables s.dev, marked := false }
         ActsAtOnce s src 0x1010 1 (onDict (fun x =>
           if copyValid s.dev q.copy0 && (!copyValid s.dev q.copy1 || decide (q.copy1.generation < q.copy0.generation)) then
             { x with copy1 := copy }
           else { x with copy0 := copy })))) ∧
      (emmcReady s.dev = false → Completes (.saveAll src) s (RefusedWith s src 0x1010 1 0x08000020))) ∧
    (MayWrite s.dev src 0x1011 1 →
      (emmcReady s.dev = true → Completes (.restoreDefaults src) s (ActsAtOnce s src 0x1011 1
        (onDict (fun x => { x with copy0 := { x.copy0 with marked := true }, copy1 := { x.copy1 with marked := true } })))) ∧
      (emmcReady s.dev = false → Completes (.restoreDefaults src) s (RefusedWith s src 0x1011 1 0x08000020)))

/-- R50, R66, R602: configuration images. -/
def Obligations.ConfigurationImagesAreReceivedVerifiedAndDropped : Prop :=
  ∀ (s : State) (src : Src),
    (Served s.dev src → MayWrite s.dev src 0x2011 1 → MayWrite s.dev src 0x2011 2 →
      (s.dev.dict.imageStatus ≠ 2 →
        (∀ (off : BitVec 32) (data : List Byte), overlong (writeOf src 0x2011 1 off.toNat data) = false →
          off.toNat ≤ (presentBytes s.dev 0x2011 1).length → off.toNat + data.length ≤ 16777216 →
          Completes (.imageData src off data) s (ActsAtOnce s src 0x2011 1 (onDict (fun q => { q with
            image := if off = 0 then data else splice (presentBytes s.dev 0x2011 1) off.toNat data
            imageStatus := 1 })))) ∧
        (Completes (.verifyAndStage src) s
          (Through src s (onDict (fun q => { q with imageStatus := 2, imageBy := some src }))))) ∧
      (s.dev.dict.imageBy = none → Completes (.abandonImage src) s (ActsAtOnce s src 0x2011 2
        (onDict (fun q => { q with image := [], imageStatus := 0, imageStaged := none })))) ∧
      (∀ w : Src, s.dev.dict.imageBy = some w → Completes (.abandonImage src) s fun d =>
        d.dict.image = [] ∧ d.dict.imageStatus = 0 ∧ d.dict.imageBy = none ∧ d.dict.staged = s.dev.dict.staged ∧
          cfg d 0x2003 1 = min 0xFFFFFFFF (cfg s.dev 0x2003 1 + 1) ∧ cfg d 0x2003 4 = min 0xFFFFFFFF (cfg s.dev 0x2003 4 + 1))) ∧
    (s.dev.dict.imageStatus = 2 → s.dev.dict.imageBy = some src →
      (imageVerdict s.dev s.dev.dict.image = 0x0F000007 → Completes .imageVerificationEnd s fun d =>
        d.dict.imageStatus = 4 ∧ d.dict.imageBy = none ∧ d.dict.staged = s.dev.dict.staged ∧ d.dict.owner = s.dev.dict.owner ∧
          Framed ([.staging, .access, .queues, .mail] ++ eventParts) s.found d) ∧
      (imageVerdict s.dev s.dev.dict.image = 0x0F000008 → Completes .imageVerificationEnd s fun d =>
        d.dict.imageStatus = 5 ∧ d.dict.imageBy = none ∧ d.dict.staged = s.dev.dict.staged ∧ d.dict.owner = s.dev.dict.owner ∧
          Framed [.regs, .staging, .access, .queues, .mail, .ints, .counters, .out] s.found d) ∧
      ∀ x : Dev, imageVerdict s.dev s.dev.dict.image = 0 → (s.dev.dict.staged = [] ∨ s.dev.dict.owner = some (sessionKey src)) →
        stageImage (roleOf s.dev src) (Config.imageWrites (s.dev.dict.image.take (s.dev.dict.image.length - blockSize)))
          (onDict (fun q => { q with imageBy := none }) s.found) = .ok x → fits x.dict.staged = true →
        Completes .imageVerificationEnd s fun d =>
          d.dict.staged = x.dict.staged ∧ d.dict.owner = some (sessionKey src) ∧ d.dict.imageStatus = 3 ∧ d.dict.imageBy = none ∧
            d.dict.idleDeadline = some (s.dev.now + cfg s.dev 0x2002 7 * sNs) ∧
            cfg d 0x2003 1 = min 0xFFFFFFFF (cfg s.dev 0x2003 1 + 1) ∧
            Framed [.regs, .staging, .access, .queues, .mail, .ints, .counters, .out] s.found d)

/-- R53, R54, R67: SDO transfers. -/
def Obligations.SdoTransfersEndInOneRequest : Prop :=
  ∀ (s : State) (c : CanId) (idx : BitVec 16) (sub : BitVec 8) (data : List Byte) (pst size : BitVec 8) (crc : BitVec 16),
    let i := idx.toNat
    let b := sub.toNat
    let src : Src := .sdo c
    let sent := fun (mode : SdoMode) (rs : Resp) (d : Dev) => ∀ f ∈ sdoFrames mode rs, Out.sdo c.val (sdoCob s.dev c) f ∈ d.out
    let goodSize := 1 ≤ size.toNat ∧ size.toNat ≤ 127
    (Served s.dev src →
      (∀ (row : EntryRow) (v : Value), checkWrite s.dev (cfg s.dev 0x2010 (1 + c.val)) i b 0 data = .ok (row, v) →
        row.imm = false →
        let x : Staged := { idx := i, sub := b, val := v, spans := if isTable i then [(0, data.length)] else [] }
        stageError s.dev (sessionKey src) x = none →
        let confirmed : Resp := { idx := i, sub := b, write := true, abort := 0, data := [], total := 0 }
        (Completes (.sdoDownload c idx sub data true .none) s fun d => StagedBy s src x d ∧ sent .normal confirmed d) ∧
          (crc.toNat = sdoCrc data →
            Completes (.sdoBlockDownload c idx sub ⟨data, crc⟩ true .none) s fun d => StagedBy s src x d ∧ sent .blockDown confirmed d)) ∧
      (∀ bs : List Byte, judgeRead s.found (sdoReads c i b) = .ok bs →
        let rs : Resp := { idx := i, sub := b, write := false, abort := 0, data := slice bs 0 (mostBytes src), total := bs.length }
        (Completes (.sdoUpload c idx sub true .none) s fun d => Answered d src rs ∧ sent .normal rs d) ∧
          (goodSize → Completes (.sdoBlockUpload c idx sub ⟨size, pst⟩ true .none) s fun d =>
            Answered d src rs ∧ sent (.blockUp pst.toNat) rs d))) ∧
    (sdoOn s.dev c = true → s.dev.pow.agentReady = true →
      (let waits := fun (d : Dev) => PathOnly src s.found d ∧
          d.dict.sdo[c] = some { idx := i, sub := b, deadline := s.dev.now + cfg s.dev 0x2010 0x0B * msNs }
       Completes (.sdoDownload c idx sub data false .none) s waits ∧
         (Completes (.sdoBlockDownload c idx sub ⟨data, crc⟩ false .none) s fun d => waits d ∧
           (s.dev.dict.sdo[c] = none → Out.sdo c.val (sdoCob s.dev c) (sdoHead 0xA4 i b (leBytes 1 127)) ∈ d.out)) ∧
         Completes (.sdoUpload c idx sub false .none) s waits ∧
         (goodSize → Completes (.sdoBlockUpload c idx sub ⟨size, pst⟩ false .none) s waits)) ∧
      (let aborted := fun (code : Nat) (d : Dev) => d.dict.sdo[c] = none ∧ Out.sdoAbort c.val i b code ∈ d.out
       let upFails := fun (code : Nat) (d : Dev) => PathOnly src s.found d ∧ aborted code d
       let downFails := fun (code : Nat) (d : Dev) => Through src s (countRefusal false i b code) d ∧ aborted code d
       (∀ (finished : Bool) (f : SdoFault), f ≠ .none →
         Completes (.sdoUpload c idx sub finished f) s (upFails (sdoFaultCode f)) ∧
           Completes (.sdoBlockUpload c idx sub ⟨size, pst⟩ finished f) s (upFails (sdoFaultCode f)) ∧
           Completes (.sdoDownload c idx sub data finished f) s (downFails (sdoFaultCode f)) ∧
           Completes (.sdoBlockDownload c idx sub ⟨data, crc⟩ finished f) s (downFails (sdoFaultCode f))) ∧
         (∀ finished : Bool, ¬goodSize → Completes (.sdoBlockUpload c idx sub ⟨size, pst⟩ finished .none) s (upFails 0x05040002)) ∧
         (crc.toNat ≠ sdoCrc data → Completes (.sdoBlockDownload c idx sub ⟨data, crc⟩ true .none) s (downFails 0x05040004)))) ∧
    ∀ x : SdoXfer, s.dev.dict.sdo[c] = some x → Completes (.sdoServerTimeout c) s fun d =>
      d.dict.sdo[c] = none ∧ Out.sdoAbort c.val x.idx x.sub 0x05040000 ∈ d.out ∧ d.now = max s.dev.now x.deadline ∧
        Framed [.clock, .counters, .out, .access] s.found d

/-- R55 to R60: the frames of a session. -/
def Obligations.AnOpenSessionServesTheNextInSequence : Prop :=
  ∀ (s : State) (h : KdaHeader) (payload : List Byte) (opcode : BitVec 8),
    let src : Src := .kda h.session h.seq
    let (idx, sub, off, len) := requestBlock payload
    let n := payload.length
    let port := h.peer.port
    let received := [(0x2300 + port.val, 0x23), (0x2300 + port.val, 0x24)]
    let dropped := fun (d : Dev) => Framed [.access, .regs, .counters] s.found d ∧ d.out = [] ∧
      RegsFramed ((0x2010, 0x12) :: received) s.found d ∧ cfg d 0x2010 0x12 = min 0xFFFFFFFF (cfg s.dev 0x2010 0x12 + 1)
    let again := fun (op : Nat) (stored : List Byte) (d : Dev) => PathOnly src s.found d ∧
      ∃ tag, Out.kda h.peer h.session h.seq op stored tag ∈ d.out
    (∀ x : KdaSession, InSession s.dev h 0 x →
      (Completes (.keepalive h) s fun d => Framed [.access, .regs, .counters] s.found d ∧ RegsFramed received s.found d ∧
          FrameCounted s.dev d port (frameLen 60) ∧
          sessionOf d h.session = some { x with peer := h.peer, deadline := s.dev.now + cfg s.dev 0x2010 0x0E * sNs }) ∧
        Completes (.close h) s fun d => sessionOf d h.session = none ∧
          (s.dev.dict.owner = some (.kda h.session) → d.dict.staged = []) ∧
          ((∀ id, s.dev.dict.owner = some (.kda id) → id ≠ h.session ∧ (sessionOf s.dev id).isSome = true) →
            Framed [.access, .regs, .counters] s.found d ∧ RegsFramed received s.found d)) ∧
    (∀ x : KdaSession, InSession s.dev h h.length.toNat x →
      (∀ (op : Nat) (stored : List Byte), h.seq = x.lastSeq → x.stored = some (op, stored) →
        Completes (.kdaOpcodeInvalid h opcode) s (again op stored)) ∧
      (h.seq = x.lastSeq + 1 → x.stored.isSome = true →
        Completes (.kdaOpcodeInvalid h opcode) s (again 0x1F [0x05, 0x04, 0x00, 0x01])) ∧
      (h.seq ≠ x.lastSeq → h.seq ≠ x.lastSeq + 1 → Completes (.kdaOpcodeInvalid h opcode) s dropped)) ∧
    (∀ x : KdaSession, InSession s.dev h n x →
      (∀ (op : Nat) (stored : List Byte), h.seq = x.lastSeq → x.stored = some (op, stored) →
        Completes (.kdaRead h payload) s (again op stored) ∧ Completes (.kdaWrite h payload) s (again op stored)) ∧
      (h.seq ≠ x.lastSeq → h.seq ≠ x.lastSeq + 1 →
        Completes (.kdaRead h payload) s dropped ∧ Completes (.kdaWrite h payload) s dropped) ∧
      (h.seq = x.lastSeq + 1 → x.stored.isSome = true →
        (n < 12 → Completes (.kdaRead h payload) s fun d => PathOnly src s.found d ∧ ReadRefused d src idx sub 0x06070010) ∧
        ((n < 12 ∨ n ≠ 12 + len ∨ 1400 < len) → Completes (.kdaWrite h payload) s (RefusedWith s src idx sub 0x06070010)) ∧
        (s.dev.pow.booted = true → s.dev.dict.commit = none → s.dev.dict.queue = [] → s.dev.dict.fence = none → 12 ≤ n →
          (∀ bs : List Byte, judgeRead (kdaRequest h n id s.found)
              { src := src, idx := idx, sub := sub, off := off, op := .read (min len 1400), phy := none } = .ok bs →
            Completes (.kdaRead h payload) s fun d => Answered d src
              { idx := idx, sub := sub, write := false, abort := 0, data := slice bs off (min len 1400), total := bs.length }) ∧
          ∀ (row : EntryRow) (v : Value), n = 12 + len → len ≤ 1400 →
            checkWrite s.dev x.role idx sub off (payload.drop 12) = .ok (row, v) → row.imm = false →
            let w : Staged := { idx := idx, sub := sub, val := v, spans := if isTable idx then [(off, len)] else [] }
            stageError s.dev (.kda h.session) w = none →
            Completes (.kdaWrite h payload) s (StagedBy s src w)))) ∧
    ((∀ x, sessionOf s.dev h.session = some x → x.open_ = true → h.tagOk = false) →
      (KdaHears s.dev h n → Completes (.kdaRead h payload) s dropped ∧ Completes (.kdaWrite h payload) s dropped) ∧
      (KdaHears s.dev h 0 → Completes (.keepalive h) s dropped ∧ Completes (.close h) s dropped) ∧
      (KdaHears s.dev h h.length.toNat → Completes (.kdaOpcodeInvalid h opcode) s dropped))

/-- R542 to R545: opening and ending sessions. -/
def Obligations.SessionsOpenByChallengeAndProof : Prop :=
  ∀ s : State,
    let zeros : List Byte := List.replicate 16 0
    let path : List Part := [.access, .out, .queues, .regs, .counters]
    let others := fun (id : BitVec 32) => ∀ id', s.dev.dict.owner = some (.kda id') → id' ≠ id ∧ (sessionOf s.dev id').isSome = true
    (∀ (h : KdaHeader) (payload : List Byte), KdaHears s.dev h payload.length →
      ((h.session ≠ 0 ∨ h.seq ≠ 0 ∨ payload.length ≠ 84) → Completes (.kdaOpen h payload) s fun d =>
        Framed [.access, .regs, .counters] s.found d ∧ d.out = [] ∧ d.dict.sessions = s.dev.dict.sessions ∧
          cfg d 0x2010 0x12 = min 0xFFFFFFFF (cfg s.dev 0x2010 0x12 + 1)) ∧
      (h.session = 0 → h.seq = 0 → payload.length = 84 →
        let error := fun (code : Nat) => Completes (.kdaOpen h payload) s fun d =>
          Framed path s.found d ∧ d.dict.sessions = s.dev.dict.sessions ∧ Out.kda h.peer 0 0 0x1F (beBytes 4 code) zeros ∈ d.out
        ((s.dev.sec.randomOk = false ∨ s.dev.sec.proofLockEnd ≠ none) → error 0x0F00000A) ∧
        (s.dev.sec.randomOk = true → s.dev.sec.proofLockEnd = none → cfg s.dev 0x2010 0x0D ≤ s.dev.dict.sessions.length →
          error 0x0F00000B) ∧
        (s.dev.sec.randomOk = true → s.dev.sec.proofLockEnd = none → s.dev.dict.sessions.length < cfg s.dev 0x2010 0x0D →
          Completes (.kdaOpen h payload) s fun d =>
            Framed (.fresh :: path) s.found d ∧ ∃ x : KdaSession, ∃ challenge : List Byte,
              d.dict.sessions = s.dev.dict.sessions ++ [x] ∧ x.open_ = false ∧ x.peer = h.peer ∧ x.deadline = s.dev.now + sNs ∧
                Out.kda h.peer x.id 0 2 challenge zeros ∈ d.out))) ∧
    (∀ (h : KdaHeader) (payload : List Byte) (x : KdaSession), KdaHears s.dev h payload.length →
      sessionOf s.dev h.session = some x → x.open_ = false → h.tagOk = true → h.seq = 0 →
      let slot := leNat (slice x.transcript 1 1)
      let requested := leNat (slice x.transcript 0 1)
      let refused := fun (d : Dev) => sessionOf d h.session = none ∧
        Out.kda h.peer h.session 0 0x1F (beBytes 4 0x0F00000A) zeros ∈ d.out ∧
          (others h.session → Framed (.access :: .sec :: .queues :: eventParts) s.found d)
      (slotKey s.dev slot = none → Completes (.proof h payload) s fun d => refused d ∧ cfg d 0x2F05 2 = cfg s.dev 0x2F05 2) ∧
      ∀ key : List Byte, slotKey s.dev slot = some key →
        let verifies := payload.length = 64 ∧ Config.ecdsaVerify key (leBytes 1 0x50 ++ x.transcript) payload = true
        (∀ role : Nat, verifies → slotRole s.dev slot requested = some role →
          Completes (.proof h payload) s fun d =>
            (∃ y : KdaSession, sessionOf d h.session = some y ∧ y.open_ = true ∧ y.role = role ∧ y.peer = h.peer ∧
              y.deadline = s.dev.now + cfg s.dev 0x2010 0x0E * sNs) ∧
            (∃ accept tag, Out.kda h.peer h.session 0 4 accept tag ∈ d.out) ∧
            cfg d 0x2F05 1 = min 0xFFFFFFFF (cfg s.dev 0x2F05 1 + 1) ∧ Framed (.access :: .queues :: eventParts) s.found d) ∧
        (verifies → slotRole s.dev slot requested = none → Completes (.proof h payload) s fun d =>
          refused d ∧ cfg d 0x2F05 2 = cfg s.dev 0x2F05 2) ∧
        (¬verifies → Completes (.proof h payload) s fun d =>
          refused d ∧ cfg d 0x2F05 2 = min 0xFFFFFFFF (cfg s.dev 0x2F05 2 + 1))) ∧
    (∀ (id : BitVec 32) (x : KdaSession), sessionOf s.dev id = some x →
      let gone := fun (d : Dev) => sessionOf d id = none ∧ d.now = max s.dev.now x.deadline ∧
        (s.dev.dict.owner = some (.kda id) → d.dict.staged = []) ∧ (others id → Framed [.clock, .counters, .access] s.found d)
      (x.open_ = true → Completes (.sessionExpiry id) s gone) ∧ (x.open_ = false → Completes (.challengeTimeout id) s gone)) ∧
    ∀ t : Nat, s.dev.sec.proofLockEnd = some t → Completes .kdaLockoutEnd s fun d =>
      d.sec = { s.dev.sec with proofLockEnd := none, proofFails := [] } ∧ d.now = max s.dev.now t ∧ Framed [.clock, .counters, .sec] s.found d

/-- R61, R452, R453: mailboxes. -/
def Obligations.ADoorbellHandsTheWindowToTheAgent : Prop :=
  ∀ (s : State) (path : HostPath), pathAlive s.dev path = true →
    let m := mailboxOf s.dev.host path
    let bs := Memory.readBytes m.window 0 4096
    let src := pathSrc path
    let op := leNat (slice bs 0 1)
    let sub := leNat (slice bs 1 1)
    let idx := leNat (slice bs 2 2)
    let off := leNat (slice bs 4 4)
    let n := leNat (slice bs 8 2)
    let served := fun (P : Dev → Prop) => Completes (.mbDoorbell path) s fun d => (mailboxOf d.host path).busy = false ∧ P d
    (m.busy = true → Completes (.mbDoorbell path) s fun d =>
      Framed [.mail] s.found d ∧ mailboxOf d.host path = { m with overrun := true }) ∧
    (m.busy = false → s.dev.pow.agentReady = false → Completes (.mbDoorbell path) s fun d =>
      Framed [.mail, .ints, .out] s.found d ∧ mailboxOf d.host path = { m with aborted := true } ∧
        d.host.intStatus.getLsbD (mailboxBit path) = true) ∧
    (Served s.dev src →
      (∀ val : List Byte, op = 0x10 →
        judgeRead (onMailbox path (fun m => { m with busy := true }) s.found)
          { src := src, idx := idx, sub := sub, off := off, op := .read (min n 4080), phy := none } = .ok val →
        served fun d => Answered d src
          { idx := idx, sub := sub, write := false, abort := 0, data := slice val off (min n 4080), total := val.length }) ∧
      (∀ (row : EntryRow) (v : Value), op = 0x12 → n ≤ 4080 →
        checkWrite s.dev (roleOf s.dev src) idx sub off (slice bs 12 n) = .ok (row, v) → row.imm = false →
        let w : Staged := { idx := idx, sub := sub, val := v, spans := if isTable idx then [(off, (slice bs 12 n).length)] else [] }
        stageError s.dev (sessionKey src) w = none →
        served (StagedBy s src w)) ∧
      (op = 0x12 → 4080 < n → served (RefusedWith s src idx sub 0x06070010)) ∧
      (op ≠ 0x10 → op ≠ 0x12 → served fun d => PathOnly src s.found d ∧ ReadRefused d src idx sub 0x05040001))

/-- R70, R71, R73, R74, R75, R82: neighbours. -/
def Obligations.NeighboursAreHeardAndLost : Prop :=
  ∀ (s : State) (p : Port),
    (isBackbone p = true → portUp s.dev p = true →
      (∀ (h : ScHeader) (b : ProbeBody), scValid p h 8 = true →
        let heard := fun (d : Dev) => backOf d p = { backOf s.dev p with
          heard := some { ident := h.originator, probed := true, deadline := s.dev.now + cfg s.dev 0x2103 2 * cfg s.dev 0x2103 1 * msNs }
          unanswered := 0, standardOnly := false, fast := false }
        Completes (.probeReply p h b) s heard ∧
          Completes (.probe p h b) s fun d => heard d ∧ (scEnabled s.dev = true → ∃ round seq body,
            Out.springcount p s.dev.chip.ident round seq 0 0 false (.probeReply body) ∈ d.out)) ∧
      (∀ (sender : Word48) (fast : Bool), Completes (.hello p sender fast) s fun d =>
        (backOf d p).ttdpFast = fast ∧ (backOf d p).probeDue = (backOf s.dev p).probeDue ∧
          let probed := (backOf s.dev p).heard.any (fun n => decide (n.ident = sender) && n.probed)
          (backOf d p).heard = some { ident := sender, probed := probed, deadline := lossDeadline s.dev probed fast }) ∧
      (∀ t : Nat, (backOf s.dev p).probeDue = some t → scEnabled s.dev = true → Completes (.probeRepeat p) s fun d =>
        let judged := (backOf s.dev p).standardOnly = false ∧ 3 ≤ (backOf s.dev p).unanswered ∧
          ∃ n, (backOf s.dev p).heard = some n ∧ n.probed = false
        (∃ round seq body, Out.springcount p s.dev.chip.ident round seq 0 0 false (.probe body) ∈ d.out) ∧
          d.now = max s.dev.now t ∧ (backOf d p).unanswered = (backOf s.dev p).unanswered + 1 ∧
          (backOf d p).probeDue = some (d.now + (if (backOf d p).fast then 1 else cfg s.dev 0x2103 1) * msNs) ∧
          ((backOf d p).standardOnly = true ↔ (backOf s.dev p).standardOnly = true ∨ judged) ∧
          ((backOf d p).fast = true ↔ (backOf s.dev p).fast = true ∧ ¬judged)) ∧
      ∀ t : Nat, (backOf s.dev p).helloDue = some t → Completes (.helloPeriod p) s fun d =>
        Out.hello p (backOf s.dev p).ttdpFast (cfgB s.dev 0x2105 1) ∈ d.out ∧ d.now = max s.dev.now t ∧
          (backOf d p).helloDue = some (d.now + cfg s.dev 0x2102 (if (backOf s.dev p).ttdpFast then 3 else 1) * msNs) ∧
          Framed [.clock, .counters, .inaug, .out, .queues, .regs] s.found d) ∧
    (∀ n : Neighbour, isBackbone p = true → (backOf s.dev p).heard = some n →
      let lost := fun (d : Dev) => (backOf d p).heard = none ∧ d.now = max s.dev.now n.deadline
      (n.probed = true → Completes (.probeLoss p) s lost) ∧ (n.probed = false → Completes (.helloTimeout p) s lost)) ∧
    ∀ h : ScHeader, portUp s.dev p = true →
      let counted := fun (len : Nat) (d : Dev) => cfg d 0x2107 7 = min 0xFFFFFFFF (cfg s.dev 0x2107 7 + 1) ∧ d.inaug = s.dev.inaug ∧
        FrameCounted s.dev d p (frameLen (20 + len)) ∧ Framed (.sleep :: eventParts) s.found d
      let counts := fun (len : Nat) (c : Instr) => scValid p h len = false → Completes c s (counted len)
      (∀ b : ProbeBody, counts 8 (.probe p h b) ∧ counts 8 (.probeReply p h b)) ∧
      (∀ low : Word48, counts 8 (.claim p h low)) ∧ counts 0 (.census p h) ∧
      (∀ recs : List CensusRec, counts (32 * recs.length) (.report p h recs)) ∧
      (∀ (b : CommitBody) (ids : List DirIds), counts (20 + 12 * b.nodes.toNat) (.springcountCommit p h ⟨b, ids⟩)) ∧
      (∀ count epoch : BitVec 16, counts 4 (.ack p h count epoch)) ∧
      (∀ (cause : BitVec 8) (epoch : BitVec 16), counts 4 (.abort p h cause epoch)) ∧
      (∀ epoch : BitVec 16, counts 2 (.commitRequest p h epoch)) ∧
      (∀ (inhibit : Bool) (epoch : BitVec 16), counts 3 (.state p h inhibit epoch)) ∧
      (twinPort s.dev ≠ some p ∨ scHeaderOk h 10 = false → ∀ (primary : Bool) (epoch : BitVec 16) (partner : Word48),
        Completes (.pair p h primary epoch partner) s (counted 10))

/-- R76, R85 to R91, R97, R110, R111: rounds and election. -/
def Obligations.RoundsElectTheLowestIdentityOrFail : Prop :=
  ∀ s : State,
    let i := s.dev.inaug
    let own : Word48 := if safeLow s.dev then noIdentity else s.dev.chip.ident
    let settles := fun (d : Dev) => d.inaug.settle = some (s.dev.now + cfg s.dev 0x2103 3 * usNs)
    (∀ (p : Port) (h : ScHeader) (low : Word48), TakesSc s.dev 3 p h 8 →
      let seen : List ScSeen := (⟨scKey 3 h, s.dev.now, h.laneB⟩ :: i.seen).take 4096
      let unmoved := fun (d : Dev) => d.inaug = { i with seen := seen }
      (roundHigher h.round i.round = true →
        (i.state ≠ .committing → s.dev.sleep.state ≠ .committing →
          let lowest : Word48 := if low.toNat < own.toNat then low else own
          Completes (.claim p h low) s fun d => d.inaug.round = h.round ∧ d.inaug.state = .claiming ∧
            d.inaug.standard = (i.standard && anyStandard s.dev) ∧
            d.inaug.lowest = lowest ∧ d.inaug.accepted = none ∧ settles d ∧ SendsSc d (bothSides s.dev) h.round (.claim lowest)) ∧
        (i.state = .committing → i.heldClaim = none → Completes (.claim p h low) s fun d =>
          d.inaug = { i with seen := seen, heldClaim := some ⟨h.round, low, s.dev.now⟩ }) ∧
        (∀ c : HeldClaim, i.state = .committing → i.heldClaim = some c →
          (roundHigher h.round c.round = true → Completes (.claim p h low) s fun d =>
            d.inaug = { i with seen := seen, heldClaim := some ⟨h.round, low, s.dev.now⟩ }) ∧
          (h.round = c.round → Completes (.claim p h low) s fun d => d.inaug = { i with
            seen := seen, heldClaim := some { c with lowest := if low.toNat < c.lowest.toNat then low else c.lowest } }))) ∧
      (roundHigher h.round i.round = false →
        (i.state ∈ [.claiming, .census, .reporting] → low.toNat < i.lowest.toNat →
          Completes (.claim p h low) s fun d => d.inaug.round = i.round ∧ d.inaug.state = .claiming ∧ d.inaug.lowest = low ∧
            settles d ∧ SendsSc d (bothSides s.dev) i.round (.claim low)) ∧
        (i.lowest.toNat ≤ low.toNat ∨ i.state ∉ [.claiming, .census, .reporting] → Completes (.claim p h low) s unmoved))) ∧
    (∀ t : Nat, i.settle = some t → i.state = .claiming →
      let front := sideTakesPart s.dev false
      let rear := sideTakesPart s.dev true
      (i.lowest = s.dev.chip.ident → safeLow s.dev = false →
        (front = true ∨ rear = true → Completes .settleTimer s fun d =>
          d.inaug.state = .census ∧ d.now = max s.dev.now t ∧
            d.inaug.censusDeadline = some (d.now + cfg s.dev 0x2103 4 * usNs) ∧
            (scEnabled s.dev = true → front = true → SendsSc d (upPorts s.dev false) i.round .census) ∧
            (scEnabled s.dev = true → rear = true → SendsSc d (upPorts s.dev true) i.round .census)) ∧
        (front = false → rear = false → anyStandard s.dev = false → Completes .settleTimer s fun d =>
          d.inaug.state = .committing ∧ ∃ a, d.inaug.accepted = some a ∧ a.originator = s.dev.chip.ident ∧
            a.switchAt = max s.dev.now t + cfg s.dev 0x2103 5 * usNs ∧ a.body.entries.map (·.ident) = [s.dev.chip.ident]) ∧
        (front = false → rear = false → anyStandard s.dev = true → Completes .settleTimer s fun d =>
          d.inaug.state = .standard ∧ d.inaug.standard = true)) ∧
      (i.lowest ≠ s.dev.chip.ident ∨ safeLow s.dev = true → Completes .settleTimer s fun d =>
        d.inaug = { i with settle := none, censusWait := some (max s.dev.now t + 2 * cfg s.dev 0x2103 4 * usNs) })) ∧
    (∀ t : Nat, i.backOff = some t → Completes .backOffEnd s fun d =>
      d.inaug.round = i.round + 1 ∧ d.inaug.state = .claiming ∧ d.inaug.lowest = own ∧ d.now = max s.dev.now t ∧
        cfg d 0x2107 1 = min 0xFFFFFFFF (cfg s.dev 0x2107 1 + 1) ∧
        (scEnabled s.dev = true → SendsSc d (bothSides s.dev) (i.round + 1) (.claim own))) ∧
    (∀ t : Nat,
      let fails := fun (d : Dev) => RoundFailed s.dev d ∧ d.now = max s.dev.now t
      let aborts := fun (cause : Nat) (d : Dev) => scEnabled s.dev = true →
        ∀ q ∈ bothSides s.dev, ∃ seq epoch, Out.springcount q s.dev.chip.ident i.round seq 0 0 false (.abort cause epoch) ∈ d.out
      (i.state = .census → i.censusDeadline = some t → Completes .censusTimeout s fun d => fails d ∧ aborts 1 d) ∧
      (i.state = .claiming → i.censusWait = some t → Completes .censusWaitTimeout s fails) ∧
      (i.state = .reporting → i.commitWait = some t → Completes .commitWaitTimeout s fails) ∧
      ∀ a : AcceptedCommit, i.ackDeadline = some t → i.accepted = some a →
        let acks := i.acksFront + i.acksRear + ackShare s.dev a.body
        let numbered := (a.body.entries.filter (fun e => e.node ≠ 0)).length
        (acks < numbered → Completes .ackDeadline s fun d => fails d ∧ aborts 2 d) ∧
        (numbered ≤ acks → Completes .ackDeadline s fun d => d.inaug = { i with ackDeadline := none })) ∧
    ∀ (p : Port) (h : ScHeader) (cause : BitVec 8) (epoch : BitVec 16), TakesSc s.dev 8 p h 4 → h.round = i.round →
      h.originator = i.lowest → inRound s.dev = true →
      Completes (.abort p h cause epoch) s fun d =>
        (sideTakesPart s.dev (!isRear p) = true → PassesSc d (upPorts s.dev (!isRear p)) h (.abort cause.toNat epoch.toNat)) ∧
          if cause = 3 then d.inaug.state = .standard ∧ d.inaug.standard = true ∧ d.inaug.accepted = none else RoundFailed s.dev d

/-- R81, R85, R88, R90, R91, R96, R97, R108: census, COMMIT and ACK. -/
def Obligations.TheCensusIsCollectedAndTheCommitAcknowledged : Prop :=
  ∀ (s : State) (p : Port) (h : ScHeader),
    let i := s.dev.inaug
    let rear := isRear p
    (TakesSc s.dev 4 p h 0 → h.round = i.round → h.originator = i.lowest → i.state = .claiming → Completes (.census p h) s fun d =>
      d.inaug.state = .reporting ∧ d.inaug.censusFromRear = some rear ∧
        d.inaug.commitWait = some (s.dev.now + 2 * cfg s.dev 0x2103 4 * usNs) ∧ d.inaug.settle = none ∧
        if sideTakesPart s.dev (!rear) then PassesSc d (upPorts s.dev (!rear)) h .census
        else SendsSc d (upPorts s.dev rear) i.round (.report [ownRecord s.dev rear])) ∧
    (∀ recs : List CensusRec, TakesSc s.dev 5 p h (32 * recs.length) → h.round = i.round →
      let seg : ReportSegment := ⟨h.segment.toNat, h.more, recs⟩
      let add := fun (l : List ReportSegment) => l.filter (fun x => x.segment ≠ seg.segment) ++ [seg]
      let front := if rear then i.frontSegs else add i.frontSegs
      let back := if rear then add i.rearSegs else i.rearSegs
      let frontDone := if rear then i.frontDone else segmentsComplete front
      let rearDone := if rear then segmentsComplete back else i.rearDone
      let standardIn := (segmentRecs front ++ ownRecord s.dev false :: segmentRecs back).any (·.standardOnly)
      (i.state = .census → frontDone = false ∨ rearDone = false → Completes (.report p h recs) s fun d =>
        d.inaug = { i with seen := (⟨scKey 5 h, s.dev.now, h.laneB⟩ :: i.seen).take 4096, frontSegs := front, rearSegs := back
                           frontDone := frontDone, rearDone := rearDone }) ∧
      (i.state = .census → frontDone = true → rearDone = true → standardIn = false → Completes (.report p h recs) s fun d =>
        d.inaug.state = .committing ∧ d.inaug.censusDeadline = none ∧ ∃ a, d.inaug.accepted = some a ∧ a.originator = s.dev.chip.ident ∧
          a.switchAt = s.dev.now + cfg s.dev 0x2103 5 * usNs ∧ a.fromRear = none) ∧
      (i.state = .census → frontDone = true → rearDone = true → standardIn = true → Completes (.report p h recs) s fun d =>
        d.inaug.state = .standard ∧ d.inaug.standard = true) ∧
      ∀ away : Bool, i.state = .reporting → i.censusFromRear = some away → away ≠ rear →
        (h.more = true → Completes (.report p h recs) s fun d => PassesSc d (upPorts s.dev away) h (.report recs)) ∧
        (h.more = false → recs.length < 45 → Completes (.report p h recs) s fun d =>
          PassesSc d (upPorts s.dev away) h (.report (recs ++ [ownRecord s.dev away]))) ∧
        (h.more = false → 45 ≤ recs.length → Completes (.report p h recs) s fun d =>
          PassesSc d (upPorts s.dev away) { h with more := true } (.report recs) ∧
            PassesSc d (upPorts s.dev away) { h with segment := h.segment + 1 } (.report [ownRecord s.dev away]))) ∧
    (∀ (b : CommitBody) (ids : List DirIds),
      let len := 20 + 12 * b.nodes.toNat
      let a : AcceptedCommit := { body := b, ids := ids, originator := h.originator, fromRear := some rear
                                  switchAt := s.dev.now + b.countdown.toNat - linkDelayNs s.dev p }
      let accepted := fun (d : Dev) => d.inaug.state = .committing ∧ d.inaug.accepted = some a ∧ d.inaug.lastCommit = some a
      (TakesSc s.dev 6 p h len → h.round = i.round → h.originator = i.lowest → i.state = .reporting → copyAwaited p s.dev = false →
        Completes (.springcountCommit p h ⟨b, ids⟩) s fun d => accepted d ∧ d.inaug.lateCopy = false ∧
          if sideTakesPart s.dev (!rear) then
            ∃ less, less ≤ linkDelayNs s.dev p + 16000 ∧ linkDelayNs s.dev p ≤ less ∧
              PassesSc d (upPorts s.dev (!rear)) h (.commit { b with countdown := BitVec.ofNat 32 (b.countdown.toNat - less) })
          else SendsSc d (upPorts s.dev rear) i.round (.ack (ackShare s.dev b) b.epoch.toNat)) ∧
      (∀ was : AcceptedCommit, portUp s.dev p = true → scValid p h len = true → i.state = .committing → i.accepted = some was →
        copyAwaited p s.dev = false → laneALater 6 h s.dev = true → was.originator = h.originator → was.body.epoch = b.epoch →
        Completes (.springcountCommit p h ⟨b, ids⟩) s fun d => d.inaug = { i with accepted := some { was with switchAt := a.switchAt } }) ∧
      (portUp s.dev p = true → scValid p h len = true → copyAwaited p s.dev = true →
        (roundHigher i.round h.round = false → h.originator = i.lowest → Completes (.springcountCommit p h ⟨b, ids⟩) s fun d =>
          accepted d ∧ d.inaug.lateCopy = true ∧ d.inaug.requestDeadline = none) ∧
        (roundHigher i.round h.round = true ∨ h.originator ≠ i.lowest → Completes (.springcountCommit p h ⟨b, ids⟩) s fun d =>
          d.inaug = i))) ∧
    ∀ (a : AcceptedCommit) (count : BitVec 16), TakesSc s.dev 7 p h 4 → h.round = i.round → i.state = .committing → i.accepted = some a →
      (a.fromRear = none → Completes (.ack p h count a.body.epoch) s fun d =>
        d.inaug.acksRear = (if rear then count.toNat else i.acksRear) ∧
          d.inaug.acksFront = (if rear then i.acksFront else count.toNat) ∧ d.inaug.accepted = some a) ∧
      ∀ back : Bool, a.fromRear = some back → back ≠ rear → Completes (.ack p h count a.body.epoch) s fun d =>
        PassesSc d (upPorts s.dev back) h (.ack (count.toNat + ackShare s.dev a.body) a.body.epoch.toNat)

/-- R76, R98, R101, R102, R107, R108, R111, R113: the switch of epochs. -/
def Obligations.TheSwitchPointTakesTheNewEpoch : Prop :=
  ∀ s : State,
    let i := s.dev.inaug
    let overlaps := fun (d : Dev) => if i.now.epoch = 0 then d.inaug.prev = none ∧ d.inaug.prevEpoch = 0 ∧ d.inaug.overlapEnd = none
      else d.inaug.prev = some i.now ∧ d.inaug.prevEpoch = i.now.epoch ∧
        d.inaug.overlapEnd = some (d.now + cfg s.dev 0x2104 1 * msNs)
    let counts := fun (d : Dev) => cfg d 0x2107 2 = min 0xFFFFFFFF (cfg s.dev 0x2107 2 + 1) ∧
      cfg d 0x2107 8 = if i.overlapEnd.isSome then min 0xFFFFFFFF (cfg s.dev 0x2107 8 + 1) else cfg s.dev 0x2107 8
    let tells := fun (d : Dev) => ∀ q ∈ bothSides s.dev,
      Out.topology q d.inaug.now.topo d.inaug.now.epoch d.inaug.now.dir (cfgB s.dev 0x2105 1) ∈ d.out
    (∀ a : AcceptedCommit, i.state = .committing → i.accepted = some a → i.heldClaim = none → i.heldOwn = none →
      (safeLow s.dev = false → Completes .switchPoint s fun d =>
        d.inaug.now = numberingOf s.dev.chip.ident a.body a.ids ∧ d.inaug.leader = a.originator ∧ d.inaug.accepted = none ∧
          d.now = max s.dev.now a.switchAt ∧ overlaps d ∧ counts d ∧ tells d ∧
          d.inaug.state = .steady ∧ d.inaug.failedRounds = 0 ∧ d.inaug.heldCouplings = i.heldCouplings ∧
          d.host.intStatus.getLsbD 6 = true ∧
          (i.lateCopy = true → cfg d 0x2107 9 = min 0xFFFFFFFF (cfg s.dev 0x2107 9 + 1)) ∧
          (i.lateCopy = false → cfg d 0x2101 0x0D = (d.now - i.roundStart.getD d.now) / usNs)) ∧
      (safeLow s.dev = true → Completes .switchPoint s fun d => d.inaug.state = .late ∧ d.inaug.now = i.now ∧
        d.inaug.accepted = none ∧ d.now = max s.dev.now a.switchAt ∧ Framed [.clock, .inaug, .recd, .regs, .sleep, .counters, .ints, .out] s.found d)) ∧
    (∀ t : Nat, i.overlapEnd = some t → Completes .overlapEnd s fun d =>
      d.inaug = { i with overlapEnd := none, prev := none } ∧ d.now = max s.dev.now t ∧
        (if s.dev.fab.bank then d.fab = { s.dev.fab with bank0 := none } else d.fab = { s.dev.fab with bank1 := none }) ∧
        Framed [.clock, .counters, .inaug, .fab] s.found d) ∧
    (∀ v : TtdpTopology, i.state = .standard → safeLow s.dev = false → Completes (.ttdpTopologyValid v) s fun d =>
      d.inaug.now.topo = v.topo ∧ d.inaug.now.epoch = epochAfter i.now.epoch % 2 ^ 16 ∧
        d.inaug.now.dir.map (·.ident) = (v.entries.filter (fun e => e.node ≠ 0)).map (·.ident) ∧ d.inaug.state = .standard ∧
        overlaps d ∧ counts d ∧ tells d) ∧
    (∀ (p : Port) (h : ScHeader) (epoch : BitVec 16) (a : AcceptedCommit), TakesSc s.dev 9 p h 2 → i.lastCommit = some a →
      Completes (.commitRequest p h epoch) s fun d =>
        Out.springcount p a.originator i.round (i.seq + 1) 0 0 false (.commit { a.body with countdown := 100000 }) ∈ d.out ∧
          d.inaug = { i with seen := (⟨scKey 9 h, s.dev.now, h.laneB⟩ :: i.seen).take 4096, seq := i.seq + 1 } ∧
          Framed [.inaug, .out, .queues, .regs, .counters] s.found d) ∧
    ∀ t : Nat, i.requestDeadline = some t →
      let left := backbonePorts.filter (fun p => (heardOn s.dev p).isSome && !i.asked.any (fun q => isRear q = isRear p))
      (∀ (q : Port) (rest : List Port), left = q :: rest → Completes .commitRequestTimeout s fun d =>
        d.inaug.state = .committing ∧ d.now = max s.dev.now t ∧ d.inaug.requestDeadline = some (d.now + 10 * msNs) ∧
          d.inaug.asked = q :: i.asked ∧ (scEnabled s.dev = true → SendsSc d [q] i.round (.commitRequest i.now.epoch))) ∧
      (left = [] → i.heldClaim = none → Completes .commitRequestTimeout s fun d =>
        d.inaug.state = .claiming ∧ d.inaug.round = i.round + 1 ∧ d.now = max s.dev.now t ∧ d.inaug.requestDeadline = none ∧
          cfg d 0x2107 1 = min 0xFFFFFFFF (cfg s.dev 0x2107 1 + 1))

/-- R85, R103 to R106, R110, R112, R115: inhibit, leading request and redundant pairs. -/
def Obligations.InhibitAndPairsFollowTheirFrames : Prop :=
  ∀ s : State,
    let i := s.dev.inaug
    (∀ (p : Port) (h : ScHeader) (epoch : BitVec 16), TakesSc s.dev 0x0A p h 3 →
      let others := i.requesters.filter (fun x => x.1 ≠ h.originator)
      (others.length < i.requesters.length ∨ i.requesters.length < 128 → Completes (.state p h true epoch) s fun d =>
        d.inaug.requesters = others ++ [(h.originator, some (s.dev.now + 500 * msNs))] ∧
          PassesSc d (upPorts s.dev (!isRear p)) h (.state true epoch.toNat)) ∧
      (others.length = i.requesters.length → 128 ≤ i.requesters.length → Completes (.state p h true epoch) s fun d =>
        d.inaug.requesters = i.requesters ∧ cfg d 0x2105 5 = min 0xFFFFFFFF (cfg s.dev 0x2105 5 + 1)) ∧
      Completes (.state p h false epoch) s fun d => d.inaug.requesters = others ∧
        PassesSc d (upPorts s.dev (!isRear p)) h (.state false epoch.toNat)) ∧
    (∀ (who : Word48) (t : Nat), (i.requesters.find? (fun x => x.1 = who)) = some (who, some t) →
      Completes (.stateSilence who) s fun d =>
        d.inaug.requesters = i.requesters.filter (fun x => x.1 ≠ who) ∧ d.now = max s.dev.now t) ∧
    (∀ t : Nat, i.stateDue = some t → Completes .stateRepeat s fun d =>
      d.now = max s.dev.now t ∧ d.inaug.stateDue = some (d.now + 100 * msNs) ∧
        (scEnabled s.dev = true → SendsSc d (bothSides s.dev) i.round (.state (cfgB s.dev 0x2105 1) i.now.epoch)) ∧
        Framed [.clock, .counters, .inaug, .regs, .out, .queues] s.found d) ∧
    (∀ (p : Port) (sender : Word48) (topo : BitVec 32) (inhibit : Bool), isBackbone p = true → portUp s.dev p = true →
      Completes (.topology p sender topo inhibit) s fun d => d.inaug.ttdpInhibit = inhibit ∧ d.inaug.requesters = i.requesters) ∧
    (∀ src : Src, Served s.dev src → s.dev.Valid →
      (∀ value : BitVec 8, value.toNat ≤ 1 → MayWrite s.dev src 0x2105 1 → Completes (.inhibitRequest src value) s fun d =>
        cfgB d 0x2105 1 = decide (value = 1) ∧ WriteAnswered d src 0x2105 1 0 ∧
          (cfg s.dev 0x2105 1 = 0 → value = 1 →
            d.inaug.stateDue = some (s.dev.now + 100 * msNs) ∧
              (i.requesters.length < 128 → (s.dev.chip.ident, none) ∈ d.inaug.requesters) ∧
              (scEnabled s.dev = true → SendsSc d (bothSides s.dev) i.round (.state true i.now.epoch))) ∧
          (cfg s.dev 0x2105 1 = 1 → value = 0 →
            d.inaug.stateDue = none ∧ d.inaug.requesters = i.requesters.filter (fun x => x.1 ≠ s.dev.chip.ident))) ∧
      ∀ value : BitVec 8, value.toNat ≤ 2 → MayWrite s.dev src 0x2100 6 → Completes (.leadingRequest src value) s fun d =>
        cfg d 0x2100 6 = value.toNat ∧ WriteAnswered d src 0x2100 6 0) ∧
    (∀ (p : Port) (h : ScHeader) (primary : Bool) (epoch : BitVec 16) (partner : Word48), portUp s.dev p = true →
      twinPort s.dev = some p → scHeaderOk h 10 = true → roundHigher i.round h.round = false →
      let formed := partner = s.dev.chip.ident ∧ sameVehicle s.dev h.originator = true
      Completes (.pair p h primary epoch partner) s fun d =>
        d.inaug.partner = some h.originator ∧ d.inaug.outage = false ∧ d.inaug.partnerLost = false ∧
          d.inaug.pairDeadline = some (s.dev.now + cfg s.dev 0x2106 5 * msNs) ∧
          (i.outage = true ∨ i.pairState = 3 → d.inaug.pairState = i.pairState) ∧
          (i.outage = false → i.pairState ≠ 3 → ¬formed → d.inaug.pairState = 0) ∧
          (i.outage = false → formed → i.pairState = 0 →
            d.inaug.pairState = if s.dev.chip.ident.toNat < h.originator.toNat then 1 else 2) ∧
          (i.outage = false → formed → i.pairState ≠ 0 → d.inaug.pairState = i.pairState) ∧
          Framed [.inaug, .regs, .counters] s.found d) ∧
    (∀ (t : Nat) (p : Port), i.pairDue = some t → twinPort s.dev = some p → Completes .pairPeriod s fun d =>
      d.now = max s.dev.now t ∧ d.inaug.pairDue = some (t + msNs) ∧
        (portUp s.dev p = true → scEnabled s.dev = true →
          let first := i.partnerLost || i.pairState = 1 || i.pairState = 3 || (i.pairState = 0 && i.now.primary)
          SendsSc d [p] i.round (.pair first i.now.epoch (i.partner.getD 0))) ∧
        Framed [.clock, .counters, .inaug, .out, .queues, .regs] s.found d) ∧
    ∀ t : Nat, i.pairDeadline = some t → i.pairState ≠ 0 → i.outage = false → Completes .pairLoss s fun d =>
      d.now = max s.dev.now t ∧ d.inaug.outage = true ∧ d.inaug.pairDeadline = none ∧
        if backbonePorts.any (fun p => (heardOn s.dev p).isSome && heardOn s.dev p = i.partner) then
          d.inaug.pairState = i.pairState ∧ d.inaug.partnerLost = i.partnerLost ∧
            cfg d 0x2106 4 = min 0xFFFFFFFF (cfg s.dev 0x2106 4 + 1)
        else d.inaug.partnerLost = true ∧ cfg d 0x2106 4 = cfg s.dev 0x2106 4

/-- R119, R123, R128, R139, R141, R175, R237: the path of a frame. -/
def Obligations.FramesReachTheQueueOfTheirDecision : Prop :=
  ∀ (s : State) (p : Port),
    (∀ (f : RxFrame) (e : EngineFault),
      (portUp s.dev p = false → Completes (.frameReceive p f e) s (Framed [] s.found)) ∧
      (portUp s.dev p = true →
        (∀ counter flag : Nat, errorClass s.dev p f = some (counter, flag) → Completes (.frameReceive p f e) s fun d =>
          cfg d (0x2300 + p.val) counter = min 0xFFFFFFFF (cfg s.dev (0x2300 + p.val) counter + 1) ∧
            cfg d (0x2300 + p.val) 0x23 = cfg s.dev (0x2300 + p.val) 0x23 ∧
            cfg d (0x2300 + p.val) 0x24 = cfg s.dev (0x2300 + p.val) 0x24 ∧ d.fab.queues = s.dev.fab.queues) ∧
        (errorClass s.dev p f = none → (consumed p f.bytes).isNone = true → s.dev.fab.forwarding = true →
          mayPass s.dev f.bytes p = true → s.dev.fab.engine0 = .inService → s.dev.fab.engine1 = .inService →
          let counted := fun (d : Dev) =>
            cfg d (0x2300 + p.val) 0x23 = min 0xFFFFFFFFFFFFFFFF (cfg s.dev (0x2300 + p.val) 0x23 + 1) ∧
              cfg d (0x2300 + p.val) 0x24 = min 0xFFFFFFFFFFFFFFFF (cfg s.dev (0x2300 + p.val) 0x24 + (f.bytes.length + 4))
          (e.wrong0 = true ∨ e.wrong1 = true → Completes (.frameReceive p f e) s fun d => counted d ∧
            cfg d 0x2207 1 = min 0xFFFFFFFF (cfg s.dev 0x2207 1 + 1) ∧ d.fab.queues = s.dev.fab.queues ∧
              d.fab.hostQueue = s.dev.fab.hostQueue ∧ d.fab.learned = s.dev.fab.learned) ∧
          ∀ (o : Port) (row : Nat) (r : List Byte), e.wrong0 = false → e.wrong1 = false →
            isBackbone p = false → isBackbone o = false → o ≠ p → portUp s.dev o = true →
            let (vlan, pcp) := classify s.dev p f.bytes
            let mac := frameDest f.bytes
            isGroup mac = false → findUnicast s.dev mac vlan = some (row, r) → leNat (slice r 8 1) = 3 → leNat (slice r 9 1) = o.val →
            leNat (slice r 10 1) = 0xFF → isIpv4 f.bytes = false → networkControl f.bytes = false →
            txEntries s.dev mac vlan = [] → resEntries s.dev mac vlan = [] → rxEntry s.dev p mac vlan = none →
            let q : Fin 8 := Fin.ofNat 8 (cfg s.dev 0x2203 (1 + pcp % 8))
            let others := fun (d : Dev) => ∀ (o' : Port) (q' : Fin 8), (o', q') ≠ (o, q) → queueOf d o' q' = queueOf s.dev o' q'
            spillsAt s.dev o q = false →
            let room := roomAt s.dev o q (cellsFor (cfg s.dev (0x2300 + p.val) 4))
            (room = true → Completes (.frameReceive p f e) s fun d => counted d ∧ others d ∧
              ∃ g : QFrame, queueOf d o q = queueOf s.dev o q ++ [g] ∧ g.bytes = (if (matchStream s.dev mac vlan).strip then stripRtag f.bytes else f.bytes) ∧ g.ingress = some p ∧
                g.cls = q.val ∧ g.vlan = vlan ∧ g.pcp = pcp ∧ g.spilled = false) ∧
            (room = false → Completes (.frameReceive p f e) s fun d => counted d ∧ others d ∧ queueOf d o q = queueOf s.dev o q ∧
              cfg d (0x2210 + o.val) (1 + q.val) = min 0xFFFFFFFF (cfg s.dev (0x2210 + o.val) (1 + q.val) + 1))))) ∧
    ∀ (q : Fin 8) (f : QFrame) (rest : List QFrame), portUp s.dev p = true → queueOf s.dev p q = f :: rest → f.launch = none →
      let idle := awaitIdle p s.found
      (mayStart idle p q f = true → Completes (.egressSend p q) s fun d => queueOf d p q = rest ∧
        Out.frame p q.val (correctedAt idle p f).1 ∈ d.out ∧ d.now = max s.dev.now s.dev.ports.p[p].txUntil ∧
          d.now ≤ d.ports.p[p].txUntil ∧
          cfg d (0x2300 + p.val) 0x25 = min 0xFFFFFFFFFFFFFFFF (cfg s.dev (0x2300 + p.val) 0x25 + 1) ∧
          ∀ (o : Port) (k : Fin 8), (o, k) ≠ (p, q) → queueOf d o k = queueOf s.dev o k) ∧
      (mayStart idle p q f = false → Completes (.egressSend p q) s fun d => d.fab = s.dev.fab ∧ d.out = [] ∧
        d.now = max s.dev.now s.dev.ports.p[p].txUntil)

/-- R131, R142 to R150: slices, spill and ageing. -/
def Obligations.SlicesSpillAndLearnedEntriesChangeAsGiven : Prop :=
  ∀ s : State, s.dev.Valid →
    let f := s.dev.fab
    (∀ (row : BitVec 16) (l : Learned), f.learned.find? (fun x => x.row = row.toNat) = some l → cfg s.dev 0x2201 4 ≠ 0 →
      Completes (.learnedEntryAgeing row) s fun d =>
        d.fab = { f with learned := f.learned.filter (fun x => x.row ≠ row.toNat) } ∧
          d.now = max s.dev.now (l.seen + cfg s.dev 0x2201 4 * sNs) ∧ Framed [.clock, .counters, .fab] s.found d) ∧
    (∀ (p : Port) (q : Fin 8), (p.val, q.val) ∈ f.spilling → Completes (.spillReadback p q) s fun d =>
      let old := queueOf s.dev p q
      let new := queueOf d p q
      new.map (fun x => { x with spilled := false }) = old.map (fun x => { x with spilled := false }) ∧
        (∀ (o : Port) (k : Fin 8), (o, k) ≠ (p, q) → queueOf d o k = queueOf s.dev o k) ∧
        ((p.val, q.val) ∉ d.fab.spilling ↔ ∀ x ∈ new, x.spilled = false) ∧
        (∀ x, old.find? (·.spilled) = some x → 2 * queueCells s.dev p q < cfg s.dev 0x2205 2 →
          roomAt s.dev p q (frameCells x) = true →
          (new.filter (·.spilled)).length < (old.filter (·.spilled)).length) ∧ Framed [.queues, .counters] s.found d) ∧
    (∀ x : DdrFailure, f.spillFailed = false → cfg s.dev 0x2207 0x0B ≤ 0xFFFFFFFF → Completes (.lpddr4xFailure x) s fun d =>
      d.fab.spillFailed = true ∧ d.fab.spilling = [] ∧
        (∀ (p : Port) (q : Fin 8), queueOf d p q = (queueOf s.dev p q).filter (fun g => !g.spilled)) ∧
        cfg d 0x2207 0x0B = min 0xFFFFFFFF (cfg s.dev 0x2207 0x0B + ((queued s.dev).filter (fun g => g.2.2.spilled)).length)) ∧
    (∀ (sl : Slice) (t : SliceTrigger), sl ∈ f.active → (∀ w ∈ f.works, w.slice = sl → w.rotation = true) →
      let free := freeSpare (onFab (fun b => { b with works := b.works.filter (fun w => !w.rotation) }) s.dev)
      Completes (.sliceFault sl t) s fun d =>
        d.fab.works = f.works.filter (fun w => !w.rotation) ++ [{
          slice := sl, incoming := free, rotation := false
          cause := (match t with
            | .uncorrectable => 1
            | .parity => 2
            | .correctable => 3)
          started := s.dev.now }] ∧
          (t = .uncorrectable → cfg d 0x2207 9 = min 0xFFFFFFFF (cfg s.dev 0x2207 9 + 1)) ∧
          (t = .correctable → cfg d 0x2207 8 = min 0xFFFFFFFF (cfg s.dev 0x2207 8 + (cfg s.dev 0x2206 1 + 1))) ∧
          (∀ (p : Port) (q : Fin 8), queueOf d p q = (queueOf s.dev p q).filter (fun g =>
            !((free.isNone || bestEffort q) && (uidsIn s.dev sl).contains g.uid && !g.spilled))) ∧
          d.fab.hostQueue = f.hostQueue.filter (fun g => !(uidsIn s.dev sl).contains g.uid)) ∧
    (∀ w : SliceWork, f.works.find? (fun x => !x.rotation) = some w → Completes .retirementComplete s fun d =>
      d.fab.retired = f.retired ++ [w.slice] ∧ d.fab.works = f.works.filter (fun x => x.slice ≠ w.slice) ∧
        (∀ i : Slice, w.incoming = some i → d.fab.spare = none ∧ d.fab.active = f.active.map (fun x => if x = w.slice then i else x)) ∧
        (w.incoming = none → d.fab.spare = f.spare ∧ d.fab.active = f.active.filter (fun x => x ≠ w.slice)) ∧
        cfg d 0x2207 6 = min 0xFFFFFFFF (cfg s.dev 0x2207 6 + 1) ∧ cfg d 0x2206 4 = w.cause ∧ cfg d 0x2206 5 ≤ 250 ∧
        d.now = max s.dev.now (w.started + cfg d 0x2206 5 * usNs)) ∧
    (∀ (src : Src) (value : BitVec 8), Served s.dev src → MayWrite s.dev src 0x2206 3 → value.toNat ≤ 8 →
      (mayRotate s.dev value.toNat = true → Completes (.rotateSlice src value) s
        (ActsAtOnce s src 0x2206 3 fun d => { d with fab := { d.fab with works := d.fab.works ++
          [{ slice := Fin.ofNat 9 value.toNat, incoming := freeSpare s.dev, rotation := true, cause := 5, started := d.now }] } })) ∧
      (mayRotate s.dev value.toNat = false → Completes (.rotateSlice src value) s (RefusedWith s src 0x2206 3 0x08000022))) ∧
    ∀ sp : Slice, freeSpare s.dev = some sp →
      (s.dev.node.profile = 0 ∨ s.dev.node.profile = 3 → Completes .spareTestPass s fun d =>
        d.fab = { f with shadow := f.shadow + 1, passStart := d.now } ∧
        d.now = (if s.dev.node.profile = 0 then max s.dev.now (f.passStart + cfg s.dev 0x2206 2 * sNs) else s.dev.now) ∧
        cfg d 0x2200 9 = min 0xFFFFFFFF (cfg s.dev 0x2200 9 + 1) ∧ Framed [.clock, .counters, .fab, .regs] s.found d) ∧
      (s.dev.node.profile ≠ 0 → s.dev.node.profile ≠ 3 → Completes .spareTestPass s (Framed [] s.found)) ∧
      Completes .spareTestFailure s fun d => d.fab = { f with spare := none, retired := f.retired ++ [sp] } ∧
        cfg d 0x2207 0x0A = min 0xFFFFFFFF (cfg s.dev 0x2207 0x0A + 1) ∧ cfg d 0x2206 4 = 4 ∧
          Framed (.fab :: eventParts) s.found d

/-- R164 to R174, R185: links and PHYs. -/
def Obligations.LinksFollowLanesPhysAndTimers : Prop :=
  ∀ (s : State) (p : Port),
    let x := s.dev.ports.p[p]
    let lost := fun (d : Dev) => d.ports.p[p].link = .acquiring ∧ (∀ q : Fin 8, queueOf d p q = []) ∧
      d.ports.p[p].pauseUntil = none ∧ d.ports.p[p].pauseAcc = 0 ∧
      cfg d (0x2300 + p.val) 0x31 = min 0xFFFFFFFF (cfg s.dev (0x2300 + p.val) 0x31 + 1) ∧
      (isBackbone p = true → (backOf d p).heard = none)
    let counts : Bool := portReg s.dev p 0x0D ≠ 1 || x.phyLink
    (x.link = .acquiring →
      (counts = true → portReg s.dev p 0x0C = 0 → Completes (.laneUp p) s fun d => d.ports.p[p].link = .up ∧ d.ports.p[p].laneUp = true ∧
        (isBackbone p = true → scEnabled s.dev = true → ∃ round seq body,
          Out.springcount p s.dev.chip.ident round seq 0 0 false (.probe body) ∈ d.out)) ∧
      (counts = true → portReg s.dev p 0x0C ≠ 0 → Completes (.laneUp p) s fun d => d.ports.p[p] = { x with
        link := .upHold, laneUp := true, anRestart := none, holdEnd := some (s.dev.now + portReg s.dev p 0x0C * msNs) }) ∧
      (counts = false → Completes (.laneUp p) s fun d => d.ports.p[p] = { x with
        laneUp := true, anRestart := if autoNeg s.dev p then x.anRestart <|> some (s.dev.now + 10 * msNs) else none })) ∧
    (x.link = .up →
      (portReg s.dev p 0x0B = 0 → Completes (.laneDown p) s lost) ∧
      (portReg s.dev p 0x0B ≠ 0 → Completes (.laneDown p) s fun d => d.ports.p[p].link = .up ∧ d.ports.p[p].laneUp = false ∧
        d.ports.p[p].downSince = some (x.downSince.getD s.dev.now)) ∧
      ∀ t : Nat, x.downSince = some t → Completes (.linkDownDebounce p) s fun d =>
        lost d ∧ d.now = max s.dev.now (t + portReg s.dev p 0x0B * usNs)) ∧
    (∀ t : Nat, x.link = .upHold → x.holdEnd = some t → Completes (.linkUpHold p) s fun d =>
      d.ports.p[p].link = .up ∧ d.ports.p[p].holdEnd = none ∧ d.now = max s.dev.now t) ∧
    (∀ t : Nat, x.anRestart = some t → Completes (.autoNegotiationRestart p) s fun d =>
      d.ports.p[p] = { x with anRestart := if autoNeg s.dev p && !laneCounts s.dev p then some (d.now + 10 * msNs) else none } ∧
        d.now = max s.dev.now t ∧ Framed [.clock, .counters, .ports] s.found d) ∧
    (x.link = .phyStart →
      (∀ t : Nat, x.releaseAt = some t → Completes (.phyReleaseDelay p) s fun d => d.now = max s.dev.now t ∧
        d.ports.p[p].releaseAt = none ∧
        if phyScript s.dev p = [] then d.ports.p[p].link = .acquiring
        else d.ports.p[p].link = .phyStart ∧ ∃ r, d.ports.p[p].script = some r ∧ r.record = 0) ∧
      ∀ (r : ScriptRun), x.script = some r →
        (∀ (ok : Bool) (record : BitVec 8), Completes (.phyScriptComplete p ok record) s fun d =>
          d.ports.p[p].link = (if ok then .acquiring else .phyFault) ∧ d.ports.p[p].script = none ∧
            let script := phyScript s.dev p
            d.now = max s.dev.now (r.started + scriptNs s.dev p (if ok then script else script.take (record.toNat + 1)))) ∧
        let polls := pollPrefixes (phyScript s.dev p)
        (polls ≠ [] → Completes (.phyScriptPollTimeout p) s fun d =>
          d.ports.p[p].link = .phyFault ∧ d.ports.p[p].script = none ∧
            ∃ before ∈ polls, d.now = max s.dev.now (r.started + scriptNs s.dev p before + 100 * msNs))) ∧
    (∀ src : Src, Served s.dev src →
      (MayWrite s.dev src (0x2300 + p.val) 0x22 →
        (resetRefused s.dev p = false → Completes (.phyResetRequest src p) s fun d =>
          WriteAnswered d src (0x2300 + p.val) 0x22 0 ∧ d.ports.phyReleased[groupOf p] = false ∧
            d.ports.pulseEnd[groupOf p] = some (s.dev.now + 10 * msNs) ∧ ∀ q ∈ groupPorts (groupOf p),
              d.ports.p[q].link = if s.dev.ports.p[q].link = .disabled then .disabled else .phyStart) ∧
        (resetRefused s.dev p = true → Completes (.phyResetRequest src p) s
          (RefusedWith s src (0x2300 + p.val) 0x22 0x08000022))) ∧
      let sel := portReg s.dev p 0x1B
      let dev := bitsOf sel 20 16
      let reg := bitsOf sel 15 0
      let access := fun (write : Option Nat) => Out.mdio p (portReg s.dev p 0x16) (portReg s.dev p 0x17) (portReg s.dev p 0x18) dev reg write
      (MayRead s.dev src (0x2300 + p.val) 0x1C →
        (portReg s.dev p 0x16 ≠ 0xFF → ∀ v : BitVec 16, Completes (.phyRegisterRead src p (some v)) s fun d =>
          ReadAnswered d src (0x2300 + p.val) 0x1C (leBytes 2 v.toNat) ∧ access none ∈ d.out) ∧
        (portReg s.dev p 0x16 = 0xFF → ∀ v : Option (BitVec 16), Completes (.phyRegisterRead src p v) s fun d =>
          ReadRefused d src (0x2300 + p.val) 0x1C 0x08000022 ∧ PathOnly src s.found d)) ∧
      (MayWrite s.dev src (0x2300 + p.val) 0x1C → ∀ v : BitVec 16,
        (portReg s.dev p 0x16 ≠ 0xFF → Completes (.phyRegisterWrite src p v) s fun d =>
          ActsAtOnce s src (0x2300 + p.val) 0x1C id d ∧ access (some v.toNat) ∈ d.out) ∧
        (portReg s.dev p 0x16 = 0xFF → Completes (.phyRegisterWrite src p v) s
          (RefusedWith s src (0x2300 + p.val) 0x1C 0x08000022)))) ∧
    (∀ (g : Fin 4) (t : Nat), s.dev.ports.pulseEnd[g] = some t → Completes (.phyResetEnd g) s fun d =>
      d.now = max s.dev.now t ∧ d.ports.pulseEnd[g] = none ∧
        (d.ports.phyReleased[g] = true ↔ ∃ q ∈ groupPorts g, s.dev.ports.p[q].link ≠ .disabled) ∧
        (∀ q ∈ groupPorts g, s.dev.ports.p[q].link = .phyStart → d.ports.p[q] = { s.dev.ports.p[q] with
          releaseAt := some (d.now + portReg s.dev q 0x21 * msNs) }) ∧ Framed [.clock, .counters, .ports] s.found d) ∧
    ∀ (v : BitVec 16), portReg s.dev p 0x1A ≠ 0 →
      let status := portReg s.dev p 0x1A
      let bit := v.getLsbD (bitsOf status 27 24)
      let read := fun (d : Dev) => d.ports.p[p].phyLink = bit ∧ Out.mdio p (portReg s.dev p 0x16) (portReg s.dev p 0x17) (portReg s.dev p 0x18)
        (bitsOf status 20 16) (bitsOf status 15 0) none ∈ d.out
      (∀ t : Nat, x.statusPoll = some t → Completes (.phyStatusPoll p v) s fun d => read d ∧ d.now = max s.dev.now t ∧
        d.ports.p[p].statusPoll = some (d.now + 10 * msNs)) ∧
      ∀ words : List (Port × BitVec 16), words.find? (fun y => y.1 = p) = some (p, v) →
        ((∀ q ∈ groupPorts (groupOf p), s.dev.ports.p[q].script = none) → portReg s.dev p 0x0D = 1 →
          Completes (.phyInterrupt (groupOf p) words) s read) ∧
        ((∃ q ∈ groupPorts (groupOf p), s.dev.ports.p[q].script ≠ none) → Completes (.phyInterrupt (groupOf p) words) s fun d =>
          d.ports = { s.dev.ports with phyIntPending := s.dev.ports.phyIntPending.set (groupOf p).val true } ∧
            Framed (.ports :: .sleep :: eventParts) s.found d)

/-- R161, R175, R179 to R182, R184: flow control. -/
def Obligations.PauseHoldsBestEffortUntilItEndsOrTheWatchdogTrips : Prop :=
  ∀ (s : State) (p : Port),
    let settled := settlePause p s.found
    let x := settled.ports.p[p]
    let y := s.dev.ports.p[p]
    let counter := fun (sub : Nat) (d : Dev) => cfg d (0x2300 + p.val) sub = min 0xFFFFFFFF (cfg s.dev (0x2300 + p.val) sub + 1)
    let only := Framed [.clock, .counters, .ports] s.found
    (portUp s.dev p = true →
      (∀ quanta : BitVec 16,
        let obeyed : Prop := cfg s.dev (0x2300 + p.val) 5 ≠ 0 ∧ ∀ t, x.pauseIgnoreUntil = some t → t ≤ s.dev.now
        let taken := fun (P : Dev → Prop) => Completes (.pause p quanta) s fun d =>
          counter 0x2D d ∧ FrameCounted s.dev d p 64 ∧ Framed [.regs, .ports, .counters] s.found d ∧ P d
        (watchdogDue settled p = false →
          (¬ obeyed → taken fun d => counter 0x2E d ∧ d.ports = settled.ports) ∧
          (obeyed →
            (quanta = 0 → taken fun d => d.ports.p[p].pauseUntil = none ∧ d.ports.p[p].pausePending = none) ∧
            (quanta ≠ 0 → x.txUntil ≤ s.dev.now ∨ isPaused settled p = true → taken fun d =>
              d.ports.p[p].pauseUntil = some (s.dev.now + pauseNs s.dev p quanta.toNat) ∧
                d.ports.p[p].pausePending = none ∧ d.ports.p[p].pauseAcc = pauseAccNow settled p) ∧
            (quanta ≠ 0 → s.dev.now < x.txUntil → isPaused settled p = false → taken fun d =>
              d.ports.p[p] = { x with pausePending := some (pauseNs s.dev p quanta.toNat) }))) ∧
        (watchdogDue settled p = true → cfg s.dev (0x2300 + p.val) 7 ≠ 0 → Completes (.pause p quanta) s fun d =>
          counter 0x2D d ∧ counter 0x2E d ∧ counter 0x2F d ∧ d.ports.p[p].pauseUntil = none ∧ d.ports.p[p].pausePending = none ∧
            d.ports.p[p].pauseIgnoreUntil = some (s.dev.now + cfg s.dev (0x2300 + p.val) 7 * msNs))) ∧
      ∀ opcode : BitVec 16, opcode ≠ 1 → Completes (.macControlFrame p opcode) s fun d =>
        counter 0x30 d ∧ FrameCounted s.dev d p 64 ∧
          RegsFramed [(0x2300 + p.val, 0x23), (0x2300 + p.val, 0x24), (0x2300 + p.val, 0x30)] s.found d ∧
          Framed [.regs, .counters] s.found d) ∧
    (let z := pauseOf s.dev p
     (∀ e : Nat, (z.pauseUntil <|> z.pausePending.map (z.txUntil + ·)) = some e → Completes (.pauseEnd p) s fun d =>
       d.now = max s.dev.now e ∧ d.ports.p[p] = y.pauseAt d.now ∧ only d ∧
         (y.pausePending = none → y.pauseUntil = some e → d.ports.p[p].pauseUntil = none ∧ d.ports.p[p].pauseSince = e ∧
           d.ports.p[p].pauseAcc = y.pauseAcc + (e - y.pauseSince))) ∧
     (∀ e : Nat, z.pauseUntil = some e →
       let due := s.dev.now + (cfg s.dev (0x2300 + p.val) 6 * msNs - pauseAccNow s.dev p)
       (due < e → Completes (.pauseWatchdog p) s fun d => counter 0x2F d ∧ d.now = due ∧
         d.ports.p[p].pauseUntil = none ∧ d.ports.p[p].pausePending = none ∧
         d.ports.p[p].pauseIgnoreUntil = some (d.now + cfg s.dev (0x2300 + p.val) 7 * msNs) ∧
         Framed ([.clock, .ports] ++ eventParts) s.found d) ∧
       (e ≤ due → Completes (.pauseWatchdog p) s (Framed [] s.found))) ∧
     (z.pauseUntil = none → z.pausePending = none → Completes (.pauseTimeReset p) s fun d =>
       d.now = max s.dev.now (z.pauseSince + msNs) ∧ d.ports.p[p] = { y.pauseAt d.now with pauseAcc := 0 } ∧ only d)) ∧
    ∀ t : Nat, y.pauseIgnoreUntil = some t → Completes (.pauseHoldOffEnd p) s fun d =>
      d.now = max s.dev.now t ∧ d.ports.p[p] = { y.pauseAt d.now with pauseIgnoreUntil := none } ∧ only d

/-- R188, R199, R203, R205 to R208, R215: the time state. -/
def Obligations.TheTimeStateFollowsSyncsAndTimeouts : Prop :=
  ∀ s : State,
    let m := s.dev.time
    let counter := fun (sub : Nat) (d : Dev) => cfg d 0x2404 sub = min 0xFFFFFFFF (cfg s.dev 0x2404 sub + 1)
    let locked : Prop := m.state = .acquiring ∨ m.state = .synchronised
    let sends := fun (ports : List Port) (x : PtpMsg) (d : Dev) => ∀ q ∈ ports, crossedPort s.dev q = false → Out.ptp q x ∈ d.out
    let sent : List Part := [.out, .queues, .regs, .counters, .fresh]
    (∀ (p : Port) (seq : BitVec 16) (gm : BitVec 64) (origin : Int), syncAccepted p gm s.dev = true →
      let relayed := fun (d : Dev) => counter 9 d ∧ sends (masterPorts s.dev) (.sync seq gm) d ∧
        sends (masterPorts s.dev) (.followUp seq gm origin (relayCorrection s.dev p)) d
      let offset := fun (rx : Nat) =>
        ((rx : Int) - 2 * (origin + ((m.ports[p].linkDelay : Int) + cfgI s.dev 32 (0x2410 + p.val) 5) / 1000)) / 2
      (s.dev.pow.agentReady = true →
        (Completes (.sync p seq gm false origin) s fun d => relayed d ∧ TakesSync s.dev d (offset (rxStamp s.dev p))) ∧
        ∀ rx : Nat, m.pendingSync = some { port := p, seq := seq, gm := gm, rx := rx } →
          Completes (.followUp p seq origin) s fun d => relayed d ∧ TakesSync s.dev d (offset rx) ∧ d.time.pendingSync = none) ∧
      (s.dev.pow.agentReady = false → Completes (.sync p seq gm false origin) s fun d =>
        relayed d ∧ Framed sent s.found d) ∧
      Completes (.sync p seq gm true origin) s fun d =>
        d.time = { m with pendingSync := some { port := p, seq := seq, gm := gm, rx := rxStamp s.dev p } } ∧
          Framed [.time, .regs, .counters] s.found d) ∧
    (∀ (p : Port) (a : AnnounceMsg), ptpPort s.dev p = true → revealedPort s.dev p = false →
      (Completes (.announce p a) s fun d => d.time.ports[p].announce = some (a, s.dev.now)) ∧
      (bmcaFrozen s.dev = true → Completes (.announce p a) s fun d => d.time.state = m.state ∧ d.time.slavePort = m.slavePort ∧
        d.time.gmIdentity = m.gmIdentity) ∧
      (bmcaFrozen s.dev = false →
        bestAnnounce (onPortTime p (fun t => { t with announce := some (a, s.dev.now) }) s.found) = some (p, a) →
        lexLt (announceKey a) (announceKey (ownAnnounce s.dev)) = true → Completes (.announce p a) s fun d =>
          d.time.slavePort = some p ∧ d.time.gmIdentity = a.gm ∧ d.time.ports[p].role = .slave ∧
            (m.state = .grandmaster → d.time.state = .holdover) ∧
            (m.gmIdentity ≠ a.gm → locked ∨ m.state = .stepPending → d.time.state = .holdover ∧ counter 2 d ∧
              (m.state = .stepPending → d.time.armed = none)))) ∧
    (∀ t : Nat, m.syncDeadline = some t → Completes .syncReceiptTimeout s fun d =>
      counter 4 d ∧ d.now = max s.dev.now t ∧ d.time.syncDeadline = none ∧
        (locked → d.time.state = .holdover ∧ counter 2 d ∧ d.time.holdSince = some d.now ∧ d.time.rate = m.rate) ∧
        (¬ locked → d.time.state = m.state)) ∧
    (∀ (t : Nat) (p : Port), m.announceDeadline = some t → m.slavePort = some p →
      (Completes .announceReceiptTimeout s fun d => counter 5 d ∧ d.now = max s.dev.now t ∧ d.time.ports[p].announce = none) ∧
      (bmcaFrozen s.dev = true → locked → Completes .announceReceiptTimeout s fun d =>
        d.time.state = .holdover ∧ counter 2 d ∧ d.time.slavePort = some p ∧ d.time.announceDeadline = none) ∧
      (bmcaFrozen s.dev = false → locked → cfg s.dev 0x2402 1 ≠ 255 →
        (∀ q : Port, q ≠ p → m.ports[q].announce = none) → Completes .announceReceiptTimeout s fun d =>
          d.time.state = .grandmaster ∧ d.time.gmIdentity = clockIdentity s.dev.chip.ident ∧ d.time.rate = m.rate)) ∧
    (∀ t u : Nat, m.announceDeadline = some t → m.slavePort = none → m.state = .unsynchronised → bmcaFrozen s.dev = false →
      cfg s.dev 0x2402 1 ≠ 255 → (∀ q : Port, m.ports[q].announce = none) → m.appliedAt = some u →
      u + cfg s.dev 0x2402 7 * logInterval (cfgI s.dev 8 0x2402 4) ≤ t → Completes .announceReceiptTimeout s fun d =>
        d.time.state = .grandmaster ∧ d.time.gmIdentity = clockIdentity s.dev.chip.ident ∧
          sends (masterPorts d) (.announce (ownAnnounce d)) d) ∧
    (∀ a : ArmedStep, m.armed = some a → Completes .stepPoint s fun d =>
      d.time.armed = none ∧ counter 1 d ∧ d.time.lastStep = a.amount ∧ d.time.base = m.base + a.amount * 2 ^ 32 ∧
        d.time.stepGen = (m.stepGen + 1) % 8 ∧
        d.time.state = if s.dev.pow.agentReady then .acquiring else .holdover) ∧
    (∀ t : Nat, m.holdSince = some t → m.state = .holdover → m.holdLimitPassed = false → Completes .holdoverLimit s fun d =>
      d.time.holdLimitPassed = true ∧ d.time.state = .holdover ∧ d.now = max s.dev.now (t + cfg s.dev 0x2402 0x0C * sNs) ∧
        Framed ([.clock, .time] ++ eventParts) s.found d) ∧
    (∀ t : Nat, m.roundHold = some t → Completes .roundHoldEnd s fun d =>
      d.time.roundHold = none ∧ d.time.ttdpHold = false ∧ d.time.revealed = [] ∧ d.now = max s.dev.now t ∧
        ∀ a, presentAnnounce d = some a → sends (masterPorts d) (.announce a) d) ∧
    (m.state = .grandmaster → Completes .syncInterval s fun d => d.time = { m with syncSeq := m.syncSeq + 1 } ∧
      sends (masterPorts s.dev) (.sync m.syncSeq (clockIdentity s.dev.chip.ident)) d ∧
      sends (masterPorts s.dev) (.followUp m.syncSeq (clockIdentity s.dev.chip.ident) (trainTime s.dev) 0) d ∧
      Framed (.time :: sent) s.found d) ∧
    (Completes .announceInterval s fun d =>
      (∀ a, presentAnnounce s.dev = some a → sends (masterPorts s.dev) (.announce a) d) ∧ Framed sent s.found d) ∧
    (∀ t : Nat, m.ppsInLast = some t → Completes .ppsInLoss s fun d => d.time.ppsInLast = none ∧
      d.now = max s.dev.now (t + 3 * sNs) ∧ d.time.rate = m.rate ∧
      if ppsDisciplines s.dev then d.time.ownClass = 7 ∧ d.time.ppsInLostAt = some d.now else d.time.ownClass = m.ownClass) ∧
    (∀ t : Nat, m.ppsInLostAt = some t → Completes .ppsInHoldoverLimit s fun d => d.time.ownClass = 248 ∧
      d.time.ppsInLostAt = none ∧ d.now = max s.dev.now (t + cfg s.dev 0x2402 0x0C * sNs) ∧
      Framed [.clock, .counters, .time] s.found d) ∧
    ∀ (src : Src) (amount : BitVec 64), Served s.dev src → MayWrite s.dev src 0x2401 3 →
      (stepAllowed s.dev = true → Completes (.stepRequest src amount) s fun d =>
        d.time.base = m.base + amount.toInt * 2 ^ 32 ∧ d.time.lastStep = amount.toInt ∧ counter 1 d ∧
          WriteAnswered d src 0x2401 3 0) ∧
      (stepAllowed s.dev = false → Completes (.stepRequest src amount) s (RefusedWith s src 0x2401 3 0x08000022))

/-- R199, R200, R210 to R214: delays, timestamps and pulses. -/
def Obligations.TimestampsPulsesAndDelaysAreKeptAsGiven : Prop :=
  ∀ s : State,
    let m := s.dev.time
    let only := Framed [.clock, .counters, .time] s.found
    (∀ p : Port, ptpPort s.dev p = true →
      (∀ seq : BitVec 16, Completes (.pdelayReq p seq) s fun d =>
        (crossedPort s.dev p = false → Out.ptp p (.pdelayResp seq (rxStamp s.dev p)) ∈ d.out ∧
          ∃ sentAt, Out.ptp p (.pdelayRespFollowUp seq sentAt) ∈ d.out) ∧
        Framed [.out, .queues, .regs, .counters, .fresh] s.found d) ∧
      (∀ (seq : BitVec 16) (trip turn : BitVec 48) (ratio : Int), m.ports[p].outstanding = some seq →
        Completes (.pdelayResp p seq trip turn ratio) s fun d => d.time.ports[p] = { m.ports[p] with
            linkDelay := (((trip.toNat : Int) + trip.toNat * ratio / 1000000000000 - turn.toNat) / 2).toNat
            ratio := ratio, delayValid := true, measured := true, outstanding := none } ∧
          (∀ q : Port, q ≠ p → d.time.ports[q] = m.ports[q]) ∧ Framed [.time, .regs, .counters] s.found d) ∧
      ∀ t : Nat, m.ports[p].nextPdelay = some t → Completes (.pdelayInterval p) s fun d => d.now = max s.dev.now t ∧
        (crossedPort s.dev p = false → Out.ptp p (.pdelayReq m.pdelaySeq) ∈ d.out) ∧ d.time.pdelaySeq = m.pdelaySeq + 1 ∧
          d.time.ports[p] = { m.ports[p] with
            outstanding := some m.pdelaySeq, requests := m.ports[p].requests + 1
            nextPdelay := some (d.now + if m.ports[p].requests < 16 then msNs else logInterval (cfgI s.dev 8 0x2402 5)) }) ∧
    (∀ (inp : CapInput) (rising : Bool),
      let selected := edgeSelected (cfg s.dev 0x2403 (if inp = .pps then 8 else 9)) rising
      let last := if inp = .pps then m.lastEdge else m.lastEdgeT
      let early : Prop := ∃ t, last = some t ∧ s.dev.now < t + 40
      (selected = false → Completes (.captureEdge inp rising) s fun d => d.time.captures = m.captures ∧ d.time.capIdent = m.capIdent) ∧
      (selected = true → early → Completes (.captureEdge inp rising) s fun d => d.time.captures = m.captures ∧
        d.time.capIdent = m.capIdent ∧ cfg d 0x2404 7 = min 0xFFFFFFFF (cfg s.dev 0x2404 7 + 1)) ∧
      (selected = true → ¬ early → m.captures.length < 16 → Completes (.captureEdge inp rising) s fun d =>
        d.time.captures = m.captures ++ [{ half := 2 * trainTime s.dev, overflow := m.capOverflow, unsure := !m.state.sure
                                           tevt := decide (inp = .tevt), rising := rising, ident := m.capIdent }] ∧
          d.time.capOverflow = false ∧ d.time.capIdent = (m.capIdent + 1) % 65536) ∧
      (selected = true → ¬ early → 16 ≤ m.captures.length → Completes (.captureEdge inp rising) s fun d =>
        d.time.captures = m.captures ∧ d.time.capOverflow = true ∧ d.time.capIdent = (m.capIdent + 1) % 65536 ∧
          cfg d 0x2404 6 = min 0xFFFFFFFF (cfg s.dev 0x2404 6 + 1))) ∧
    (∀ src : Src, Served s.dev src →
      (MayRead s.dev src 0x2403 0x0A → Completes (.captureRecordRead src) s fun d =>
        ReadAnswered d src 0x2403 0x0A (leBytes 8 ((m.captures.head?.map TsRecord.pack).getD 0)) ∧
          Through src s (fun d => { d with time := { d.time with captures := d.time.captures.tail } }) d) ∧
      ∀ p : Port, MayRead s.dev src (0x2410 + p.val) 9 → Completes (.transmitTimestampRead src p) s fun d =>
        ReadAnswered d src (0x2410 + p.val) 9 (leBytes 8 ((m.ports[p].txQueue.head?.map TsRecord.pack).getD 0)) ∧
          Through src s (onPortTime p (fun t => { t with txQueue := t.txQueue.tail })) d) ∧
    (∀ (p : Port) (q : Fin 8) (f : QFrame) (rest : List QFrame) (l : BitVec 32), queueOf s.dev p q = f :: rest →
      f.launch = some l →
      let gap := launchGap s.dev l
      (0 < gap → gap ≤ 1000000000 →
        let lead := cfg s.dev (0x2300 + p.val) 0x14 / 1000
        let then_ := awaitIdle p (arriveTrain (trainTime s.dev + gap.toNat - lead) s.found)
        (mayStart then_ p q f = true → -(cfg s.dev 0x2401 5 : Int) ≤ launchGap then_ l → Completes (.launchTime p q) s fun d =>
          queueOf d p q = rest ∧ Out.frame p q.val (correctedAt then_ p f).1 ∈ d.out ∧ d.now = then_.now) ∧
        (mayStart then_ p q f = false → Completes (.launchTime p q) s fun d =>
          queueOf d p q = f :: rest ∧ d.out = [] ∧ d.now = then_.now)) ∧
      (gap ≤ 1000000000 → Completes (.launchLateDiscard p q) s fun d => queueOf d p q = rest ∧
        cfg d (0x2410 + p.val) 0x0D = min 0xFFFFFFFF (cfg s.dev (0x2410 + p.val) 0x0D + 1) ∧
        ∀ (o : Port) (k : Fin 8), (o, k) ≠ (p, q) → queueOf d o k = queueOf s.dev o k)) ∧
    (let allowed : Bool := decide (cfg s.dev 0x2403 1 = 1) || decide (cfg s.dev 0x2403 1 = 2) && m.state.sure && !m.holdLimitPassed
     (allowed = true → Completes .ppsOutPulse s fun d => d.time.ppsOut = true ∧
        d.time.ppsOutEnd = some (d.now + cfg s.dev 0x2403 2 * usNs) ∧ only d) ∧
     (allowed = false → Completes .ppsOutPulse s fun d => d.time.ppsOut = m.ppsOut ∧ d.time.ppsOutEnd = m.ppsOutEnd ∧ only d)) ∧
    (∀ t : Nat, m.ppsOutEnd = some t → Completes .ppsOutPulseEnd s fun d => d.time.ppsOut = false ∧ d.time.ppsOutEnd = none ∧
      d.now = max s.dev.now t ∧ only d) ∧
    (∀ t : Nat, m.tevtNext = some t → Completes .tevtOutPulse s fun d => d.time.tevtOut = true ∧
      d.time.tevtOutEnd = some (d.now + cfg s.dev 0x2403 7) ∧
      d.time.tevtNext = (if cfg s.dev 0x2403 4 = 2 then some (t + cfg s.dev 0x2403 6) else none) ∧ only d) ∧
    ∀ t : Nat, m.tevtOutEnd = some t → Completes .tevtOutPulseEnd s fun d => d.time.tevtOut = false ∧ d.time.tevtOutEnd = none ∧
      d.now = max s.dev.now t ∧ only d

/-- R228, R230, R234, R235, R237 to R239, R244, R246 to R250, R254, R255: gates. -/
def Obligations.GatesFollowBanksBoundariesAndWindows : Prop :=
  ∀ s : State,
    let m := s.dev.sched
    let shut := fun (d : Dev) => ∀ p : Port, d.sched.windows[p] = none
    let counter := fun (sub : Nat) (d : Dev) => cfg d 0x2505 sub = min 0xFFFFFFFF (cfg s.dev 0x2505 sub + 1)
    let same := fun (sub : Nat) (d : Dev) => cfg d 0x2505 sub = cfg s.dev 0x2505 sub
    let d0 := arriveTrain (boundaryNow s.found) s.found
    let active : Prop := m.state = .running ∨ m.state = .fenced
    (m.building = true → ∀ n : Numbering, n = (match s.dev.inaug.accepted with
        | some a => numberingOf s.dev.chip.ident a.body a.ids
        | none => s.dev.inaug.now) →
      Completes .gateBankBuilt s fun d => d.sched.building = false ∧ d.sched.gates = m.gates ∧ d.sched.builtFor = n.epoch ∧
        d.sched.built = some ((m.image.map fun i => (buildGates s.found i n).1).getD [])) ∧
    (m.switchPending = true → scheduleActive s.dev = true → m.state ≠ .localOnly →
      let changed := fun (d : Dev) => d.sched.bankOne = !m.bankOne ∧ d.sched.switchPending = false ∧ d.sched.state = m.state ∧
        d.sched.lastBoundary = trainTime d ∧ ∀ (p : Port), ∀ f ∈ queueOf d p 6,
          ∃ e ∈ d.sched.gates, e.receive = false ∧ e.port = p ∧ some e.window = f.window
      let due := m.pending.filter (fun i => decide (activationOf d0 i ≤ trainTime d0))
      (∀ g : List GateEntry, due = none → m.built = some g → m.builtFor = s.dev.inaug.now.epoch →
        Completes .gateSwitchBoundary s fun d => changed d ∧ d.sched.gates = g ∧ d.sched.built = none) ∧
      (∀ i : SchedImage, due = some i → Completes .gateSwitchBoundary s fun d =>
        changed d ∧ d.sched.image = some i ∧ d.sched.pending = none ∧ ∀ e ∈ d.sched.gates, ∃ w ∈ i.windows, w.id = e.window) ∧
      Completes .gateSwitchBoundary s changed) ∧
    ((m.closing ≠ none → Completes .cycleBoundary s fun d => d.sched.closing = none ∧ d.sched.gates = [] ∧ shut d ∧
        ∀ p : Port, queueOf d p 6 = []) ∧
      (m.closing = none →
        (m.state = .off → Completes .cycleBoundary s fun d => d = s.found) ∧
        (m.state = .waiting →
          let ready : Prop := m.image ≠ none ∧ s.dev.inaug.now.node ≠ 0 ∧ s.dev.inaug.now.epoch ≠ 0 ∧ newerDue d0 = false
          (ready → Completes .cycleBoundary s fun d => d.sched.state = (if timeFences d0 then .fenced else .running) ∧
            d.sched.bankOne = !m.bankOne) ∧
          (¬ ready → Completes .cycleBoundary s fun d => d.sched.state = .waiting ∧ d.sched.gates = m.gates)) ∧
        (m.state = .running →
          (timeFences d0 = true → Completes .cycleBoundary s fun d => d.sched.state = .fenced ∧ counter 8 d ∧ shut d) ∧
          (timeFences d0 = false → Completes .cycleBoundary s fun d => d.sched.state = .running ∧ same 8 d ∧
            d.sched.badSeen = false ∧ d.sched.syncSeen = false)) ∧
        (m.state = .fenced → Completes .cycleBoundary s fun d => same 8 d ∧ d.sched.badSeen = false ∧ d.sched.syncSeen = false ∧
          (d.sched.state = .running ↔ cfg s.dev 0x2501 4 ≤ (if m.badSeen then 0 else m.goodCycles + 1) ∧
            (if m.syncSeen then 0 else m.sinceSync + 1) < cfg s.dev 0x2501 4 ∧ timeFences d0 = false) ∧
          (d.sched.state ≠ .running → d.sched.state = .fenced)) ∧
        (m.state = .localOnly → m.switchPending = true → Completes .cycleBoundary s fun d =>
          d.sched.gates = localGates s.found ∧ d.sched.state = .localOnly ∧ d.sched.switchPending = false))) ∧
    (∀ i : SchedImage, m.pending = some i → Completes .activationBoundary s fun d =>
      d.sched.image = some i ∧ d.sched.pending = none ∧ d.sched.state = m.state ∧
        (active → d.sched.bankOne = !m.bankOne ∧ ∀ e ∈ d.sched.gates, ∃ w ∈ i.windows, w.id = e.window)) ∧
    (∀ x : Nat × Nat, m.pending = none → m.offered = some x → active → Completes .activationBoundary s fun d =>
      d.sched.state = .waiting ∧ shut d ∧ d.sched.image = m.image ∧ d.sched.reception = m.reception) ∧
    (∀ (c b : Nat) (p : Port) (w : BitVec 16) (g : GateEntry), schedCycle s.dev = some (c, b) →
      (gatesRun s.dev = true → m.gates.find? (fun g => !g.receive && g.port = p && g.window = w.toNat) = some g →
        let t := firstInstant (b + g.openNs) c (max (trainTime s.dev) (m.cutUntil.getD 0))
        Completes (.windowOpen p w) s fun d =>
          d.sched.windows[p] = some { entry := g, openedAt := t, closeAt := t + (g.length - guardNow s.dev g), closed := false } ∧
          (∀ q : Port, q ≠ p → d.sched.windows[q] = m.windows[q]) ∧
          ∀ f, (queueOf d p 6).head? = some f → d.now ≤ f.queuedAt + c) ∧
      ∀ gs, scheduleActive s.dev = true → m.gates.filter (fun g => g.receive && g.window = w.toNat) = g :: gs → g.port = p →
        Completes (.receiveEntryClose p w) s fun d =>
          (if m.arrived.any (fun x => decide (x.2 = w.toNat)) then same 1 d else counter 1 d) ∧
          d.sched.arrived = m.arrived.filter (fun x => x.2 ≠ w.toNat)) ∧
    (∀ (p : Port) (o : OpenWindow), windowNow s.dev p = some o → o.closed = false → Completes (.windowHardClose p) s fun d =>
      d.sched.windows[p] = some { o with closed := true } ∧ (∀ q : Port, q ≠ p → d.sched.windows[q] = m.windows[q]) ∧
        queueOf d p 6 = queueOf s.dev p 6 ∧ if queueOf s.dev p 6 = [] then same 6 d else counter 6 d) ∧
    (∀ (w : BitVec 16) (t : Nat), (seqOf s.dev w.toNat).resetAt = some t → Completes (.sequenceHistoryReset w) s fun d =>
      d.now = max s.dev.now t ∧ (∀ v : Nat, v ≠ (seqOf s.dev w.toNat).window → seqOf d v = seqOf s.dev v) ∧
        seqOf d w.toNat = { seqOf s.dev w.toNat with started := false, history := [], resetAt := none }) ∧
    ∀ t : Nat, s.dev.time.state = .holdover → s.dev.time.holdSince = some t → m.state = .running →
      Completes .holdoverFenceTime s fun d => d.sched.state = .fenced ∧ counter 8 d ∧ shut d ∧
        d.now = max s.dev.now (t + cfg s.dev 0x2501 5 * msNs + 1)

/-- R231 to R233, R235, R255: distribution. -/
def Obligations.ImagesPassFromNeighbourToNeighbour : Prop :=
  ∀ s : State,
    let m := s.dev.sched
    let counter := fun (sub : Nat) (d : Dev) => cfg d 0x2505 sub = min 0xFFFFFFFF (cfg s.dev 0x2505 sub + 1)
    let held := m.image.toList ++ m.pending.toList
    let received : List Part := [.regs, .counters]
    let first := fun (p : Port) (h : DistHeader) =>
      ({ generation := h.generation.toNat
         size := h.number.toNat
         crc := h.crc
         activation := h.activation.toNat
         port := p
         chunk := 0
         repeats := 0
         data := []
         deadline := 0
         verifying := false } : Reception)
    let requests := fun (r : Reception) (d : Dev) =>
      d.sched.reception = some { r with deadline := d.now + 10 * msNs } ∧
        Out.dist r.port 2 (cfg s.dev 0x2501 2) r.generation 0 r.chunk 0 [] ∈ d.out
    (∀ (p : Port) (x : DistHead) (y : DistTail) (data : List Byte), portUp s.dev p = true →
      let h : DistHeader := ⟨x, y⟩
      (let dropped := fun (n : Nat) (d : Dev) => counter 0x0B d ∧ FrameCounted s.dev d p (frameLen (32 + n)) ∧
         RegsFramed [(0x2505, 0x0B), (0x2300 + p.val, 0x23), (0x2300 + p.val, 0x24)] s.found d ∧ Framed received s.found d
       (distOk p 1 0 h = false → Completes (.offer p x y.number y.crc y.activation) s (dropped 0)) ∧
       (distOk p 2 0 h = false → Completes (.request p x y) s (dropped 0)) ∧
       (distOk p 3 data.length h = false → Completes (.chunk p x y data) s (dropped data.length))) ∧
      (distOk p 1 0 h = true → cfg s.dev 0x2501 1 = 1 → h.identity.toNat = cfg s.dev 0x2501 2 → h.identity ≠ 0 →
        (∀ i ∈ held, i.generation < h.generation.toNat) →
        let known := fun (d : Dev) => (p, h.generation.toNat) ∈ d.sched.offers ∧ d.sched.offered ≠ none
        let behind : Prop := ∀ r, m.reception = some r → r.generation < h.generation.toNat
        (s.dev.pow.agentReady = true → behind → Completes (.offer p x y.number y.crc y.activation) s fun d => requests (first p h) d ∧ known d) ∧
        (s.dev.pow.agentReady = false ∨ ¬behind → Completes (.offer p x y.number y.crc y.activation) s fun d =>
          d.sched.reception = m.reception ∧ known d ∧ Framed (.sched :: received) s.found d)) ∧
      (distOk p 2 0 h = true →
        ∀ i : SchedImage, held.find? (fun i => i.identity = h.identity && i.generation = h.generation.toNat) = some i →
          let chunk := slice i.raw (1024 * h.number.toNat) 1024
          chunk ≠ [] → Completes (.request p x y) s fun d => Framed (.out :: .queues :: received) s.found d ∧
            Out.dist p 3 h.identity.toNat h.generation.toNat 0 h.number.toNat 0 chunk ∈ d.out) ∧
      (distOk p 3 data.length h = true →
        ∀ r : Reception, m.reception = some r → r.port = p → r.generation = h.generation.toNat →
          h.identity.toNat = cfg s.dev 0x2501 2 → r.verifying = false → h.number.toNat = r.chunk →
          let next := { r with data := r.data ++ data, chunk := r.chunk + 1, repeats := 0 }
          (data.length = min 1024 (r.size - r.data.length) →
            (next.data.length < r.size → s.dev.pow.agentReady = true → Completes (.chunk p x y data) s (requests next)) ∧
            (next.data.length < r.size → s.dev.pow.agentReady = false → Completes (.chunk p x y data) s fun d =>
              d.sched = { m with reception := some next } ∧ Framed (.sched :: received) s.found d) ∧
            (r.size ≤ next.data.length → Completes (.chunk p x y data) s fun d =>
              d.sched = { m with reception := some { next with verifying := true } } ∧ Framed (.sched :: received) s.found d)) ∧
          (data.length ≠ min 1024 (r.size - r.data.length) → Completes (.chunk p x y data) s fun d =>
            counter 0x0B d ∧ d.sched = m ∧ d.out = []))) ∧
    (∀ t : Nat, m.offerDue = some t →
      let offers := fun (d : Dev) => ∀ p : Port, isBackbone p = true → portUp s.dev p = true → cfg s.dev 0x2501 1 = 1 → ∀ i ∈ held,
        Out.dist p 1 i.identity.toNat i.generation i.activation i.raw.length (crc32 i.raw).toNat [] ∈ d.out
      ((∀ u, m.switchOffer = some u → t ≤ u) → Completes .offerPeriod s fun d => offers d ∧
        d.now = max s.dev.now t ∧ d.sched.offerDue = some (d.now + cfg s.dev 0x2501 7 * sNs) ∧ d.sched.switchOffer = m.switchOffer) ∧
      ∀ u : Nat, m.switchOffer = some u → u < t → Completes .offerPeriod s fun d => offers d ∧
        d.now = max s.dev.now u ∧ d.sched.offerDue = some t ∧ d.sched.switchOffer = none) ∧
    ∀ r : Reception, m.reception = some r →
      (r.verifying = false →
        let left := m.offers.filter (fun x => x ≠ (r.port, r.generation))
        let given := fun (d : Dev) => d.sched.reception = none ∧ d.out = [] ∧ d.now = max s.dev.now r.deadline
        (s.dev.pow.agentReady = false → Completes .chunkTimeout s given) ∧
        (s.dev.pow.agentReady = true →
          (r.repeats < 3 → Completes .chunkTimeout s fun d =>
            requests { r with repeats := r.repeats + 1 } d ∧ d.now = max s.dev.now r.deadline) ∧
          (3 ≤ r.repeats →
            (∀ x, left.find? (fun x => x.2 = r.generation) = some x → Completes .chunkTimeout s fun d =>
              requests { r with port := x.1, repeats := 0 } d ∧ d.sched.offers = left) ∧
            (left.find? (fun x => x.2 = r.generation) = none → Completes .chunkTimeout s given)))) ∧
      (r.verifying = true →
        let passes := fun (i : SchedImage) => parseImage r.data = some i ∧ crc32 r.data = r.crc ∧ imageSigned s.dev r.data = true ∧
          i.identity.toNat = cfg s.dev 0x2501 2 ∧ i.generation = r.generation
        (∀ i : SchedImage, passes i → Completes .scheduleImageVerified s fun d =>
          d.sched.pending = some { i with activation := r.activation } ∧ d.sched.reception = none ∧
            cfgBytes d 0x2503 1 = r.data ∧ counter 0x0C d ∧ d.sched.image = m.image) ∧
        ((∀ i : SchedImage, ¬passes i) → Completes .scheduleImageVerified s fun d => d.sched.pending = m.pending ∧
          d.sched.reception = none ∧ d.sched.lastRefused = true ∧ d.sched.offers = [] ∧ counter 0x0B d ∧
          cfgBytes d 0x2503 1 = cfgBytes s.dev 0x2503 1))

/-- R264, R265, R267, R272, R273, R275 to R278, R282: streams. -/
def Obligations.StreamsPlayTalkAndChangeBanksAsGiven : Prop :=
  ∀ s : State,
    let m := s.dev.strm
    let plus := fun (idx sub n : Nat) (d : Dev) => if n = 0 then cfg d idx sub = cfg s.dev idx sub
      else cfg d idx sub = min 0xFFFFFFFF (cfg s.dev idx sub + n)
    (∀ a : AvtpPacket,
      (allStreams.filter (listens s.dev a) = [] → Completes (.avtpPacket a) s fun d => d = s.found) ∧
      (allStreams.filter (listens s.dev a) ≠ [] → (∀ k : Fin 64, listens s.dev a k = true → fieldsMatch s.dev a k = false) →
        Completes (.avtpPacket a) s fun d =>
          plus 0x2602 3 1 d ∧ RegsFramed [(0x2602, 3)] s.found d ∧ Framed [.regs] s.found d) ∧
      ∀ k : Fin 64, listens s.dev a k = true → fieldsMatch s.dev a k = true →
        let x := m.s[k]
        let reg := 0x2610 + k.val
        let f := gridNearest (strmRate s.dev k) ((extendShort s.dev a.timestamp : Int) - gridOffset s.dev (strmRate s.dev k)).toNat
        let moment : Int := gridTime (strmRate s.dev k) f + gridOffset s.dev (strmRate s.dev k)
        let late : Prop := moment < trainTime s.dev + 20 * usNs
        let far : Prop := (trainTime s.dev + cfg s.dev 0x2601 5 * msNs : Nat) < moment
        let sound : Prop := a.tu = false ∧ timeUsable s.dev = true
        let g := (a.seq - x.seq - 1).toNat
        let expected := x.expected + g * framesOf a
        let taken := fun (st : StreamState) (frame : Nat) (d : Dev) =>
          d.strm.s[k] = { x with
            state := st
            seq := a.seq
            timeout := some (s.dev.now + cfg s.dev 0x2601 4 * msNs)
            expected := frame + framesOf a } ∧ plus reg 0x0D 1 d ∧ plus reg 0x0E 0 d ∧
          (strmReg s.dev k 9 ≠ 0xFF →
            Out.play k.val (strmReg s.dev k 9) (gridTime (strmRate s.dev k) frame) (packetSlots s.dev k a) ∈ d.out)
        let gaps := fun (d : Dev) => plus reg 0x11 (if g = 0 then 0 else 1) d
        (sound → late → x.state = .waiting ∨ x.state = .playing ∨ x.state = .holding → Completes (.avtpPacket a) s fun d =>
          d.strm.s[k] = x ∧ plus reg 0x0E 1 d ∧ plus reg 0x0D 0 d) ∧
        (sound → ¬ late → far → x.state = .waiting ∨ x.state = .playing ∨ x.state = .holding → Completes (.avtpPacket a) s fun d =>
          d.strm.s[k] = x ∧ plus reg 0x0E 0 d ∧ plus reg 0x0D 0 d) ∧
        (x.state = .waiting →
          (sound → ¬ late → ¬ far → Completes (.avtpPacket a) s fun d => taken .playing f d ∧ plus reg 0x0F 0 d) ∧
          (¬ sound → Completes (.avtpPacket a) s fun d => d.strm.s[k] = x ∧ plus reg 0x0D 0 d)) ∧
        (x.state = .playing ∨ x.state = .holding →
          (sound → ¬ late → ¬ far → Completes (.avtpPacket a) s fun d => taken .playing f d ∧ gaps d ∧
            plus reg 0x10 (if f = expected then 0 else 1) d ∧ plus reg 0x0F (g * framesOf a + (f - expected)) d) ∧
          (¬ sound → Completes (.avtpPacket a) s fun d => taken .holding expected d ∧ gaps d ∧
            plus reg 0x10 0 d ∧ plus reg 0x0F (g * framesOf a) d))) ∧
    (∀ (k : Fin 64) (samples : List (List (BitVec 32))),
      (m.s[k].state = .sending → Completes (.talkerPacket k samples) s fun d => d.strm.s[k].state = .sending ∧
        d.strm.s[k].seq = m.s[k].seq + 1 ∧ d.strm.s[k].mr = m.s[k].mr ∧ plus (0x2610 + k.val) 0x0D 1 d) ∧
      (m.s[k].state ≠ .sending → Completes (.talkerPacket k samples) s fun d => d = s.found) ∧
      ∀ t : Nat, m.s[k].timeout = some t → m.s[k].state = .playing ∨ m.s[k].state = .holding →
        Completes (.streamTimeout k) s fun d => d.now = max s.dev.now t ∧
          d.strm = { m with s := m.s.set k.val { m.s[k] with state := .waiting, timeout := none } } ∧
          (let n := framesMissed k (arrive t s.found)
           cfg d (0x2610 + k.val) 0x0F =
             if n = 0 then cfg s.dev (0x2610 + k.val) 0x0F else min 0xFFFFFFFF (cfg s.dev (0x2610 + k.val) 0x0F + n)) ∧
          Framed (.clock :: .strm :: eventParts) s.found d) ∧
    (m.building = true → ∀ n : Numbering, n = (match s.dev.inaug.accepted with
        | some a => numberingOf s.dev.chip.ident a.body a.ids
        | none => s.dev.inaug.now) →
      Completes .reservationBankBuilt s fun d => d.strm.building = false ∧ resBank d = resBank s.dev ∧
        d.strm.built = some (buildReservations s.found n).1 ∧ d.strm.builtFor = n.epoch ∧
        (m.switchPending = true ∨ s.dev.inaug.accepted = none → d.strm.switchPending = true)) ∧
    (m.switchPending = true →
      let present := s.dev.inaug.now
      let changed := fun (b : List ResPlaced) (d : Dev) =>
        resBank d = b ∧ d.strm.bankOne = !m.bankOne ∧ d.strm.switchPending = false ∧
        d.strm.held = m.held.filter (fun x => x.2 = present.epoch || s.dev.inaug.heldCouplings.contains x.1) ∧
        (∀ (p : Port), ∀ f ∈ queueOf d p 5, ∃ r ∈ b, r.address.toNat = frameDest f.bytes ∧ r.vlan = f.vlan ∧ p ∈ r.ports) ∧
        ∀ k : Fin 64,
          let x := m.s[k]
          let placed : Prop := ∃ r ∈ b, r.here = true ∧ r.address.toNat = strmReg s.dev k 2 % 2 ^ 48 ∧ r.vlan = strmReg s.dev k 3
          (strmReg s.dev k 1 ≠ 1 → d.strm.s[k] = x) ∧
          (strmReg s.dev k 1 = 1 →
            (x.state = .waiting → placed → d.strm.s[k] = { x with state := .sending, mr := !x.mr, seq := 0 }) ∧
            (x.state = .sending → ¬ placed → d.strm.s[k] = { x with state := .waiting }) ∧
            (x.state = .sending → placed → d.strm.s[k] = x))
      (∀ b : List ResPlaced, m.built = some b → m.builtFor = present.epoch → Completes .streamSwitchBoundary s fun d =>
        changed b d ∧ d.strm.built = none) ∧
      (m.built = none ∨ m.builtFor ≠ present.epoch → Completes .streamSwitchBoundary s
        (changed (buildReservations s.found present).1))) ∧
    ∀ t : Nat, m.rephaseEnd = some t → Completes .rephaseEnd s fun d =>
      d.strm = { m with rephaseEnd := none, gridOff := Vector.replicate 3 0 } ∧ d.now = max s.dev.now t ∧
        Framed (.clock :: .strm :: eventParts) s.found d

/-- R291, R296 to R299, R302, R304 to R308: controllers and message objects. -/
def Obligations.BusEventsMoveControllersAndObjectsAsGiven : Prop :=
  ∀ (s : State) (c : CanId),
    let t := s.dev.can[c]
    let counter := fun (sub : Nat) (d : Dev) => cfg d (canIdx c 2) sub = min 0xFFFFFFFF (cfg s.dev (canIdx c 2) sub + 1)
    let others := fun (o : Nat) (d : Dev) => ∀ k : Nat, k ≠ o → objOf d c k = objOf s.dev c k
    let judged := fun (tec recv : Nat) (d : Dev) =>
      d.can[c].state = if 127 < tec ∨ 127 < recv then CanState.errorPassive else .errorActive
    let of := fun (k : CanErrorKind) => match k with
      | .stuff => 7
      | .form => 8
      | .acknowledgement => 9
      | .bit1 => 0x0A
      | .bit0 => 0x0A
      | .crc => 0x0B
      | .protocolException => 0x0F
    (t.state = .integrating → Completes (.integrationComplete c) s fun d => d.can[c] = { t with state := .errorActive, stb := false } ∧
      ballLevel d (.canStb c) = some .low ∧ Framed [.can, .ints, .out] s.found d) ∧
    (t.state = .detecting →
      (∀ f : CanFrame, ¬ (f.fdf = true ∧ (cfg s.dev (canIdx c 0) 2 = 0 ∨ f.res = true)) →
        (t.candidateFrames + 1 < cfg s.dev (canIdx c 3) 3 → Completes (.canFrameReceived c f) s fun d =>
          counter 1 d ∧ d.can[c] = { t with candidateFrames := t.candidateFrames + 1 }) ∧
        (cfg s.dev (canIdx c 3) 3 ≤ t.candidateFrames + 1 → Completes (.canFrameReceived c f) s fun d =>
          counter 1 d ∧ d.can[c] = { t with
            state := .errorActive
            stb := false
            timing := some (candidateTiming s.dev c t.candidate)
            adopted := decide (cfg s.dev (canIdx c 3) 4 = 1)
            dwellEnd := none
            candidateFrames := 0 })) ∧
      (∀ e : CanError, errorKind s.dev c e.kind ≠ .protocolException → Completes (.canReceiveError c e) s fun d =>
        counter (of (errorKind s.dev c e.kind)) d ∧ d.can[c] = { t with candidateFrames := 0 }) ∧
      ∀ m : Nat, t.dwellEnd = some m → Completes (.candidateDwellEnd c) s fun d => d.now = max s.dev.now m ∧
        d.can[c] = { t with
          candidate := if candidates s.dev c ≤ t.candidate + 1 then 0 else t.candidate + 1
          candidateFrames := 0
          dwellEnd := some (d.now + cfg s.dev (canIdx c 3) 2 * msNs) } ∧
        (candidates s.dev c ≤ t.candidate + 1 →
          cfg d (canIdx c 3) 6 = min 0xFFFF (cfg s.dev (canIdx c 3) 6 + 1))) ∧
    (t.state = .busOff → ∀ m : Nat, t.holdOffEnd = some m → Completes (.busOffHoldOffEnd c) s fun d => d.now = max s.dev.now m ∧
      d.can[c] = { t with
        holdOffEnd := none
        state := if cfg s.dev (canIdx c 0) 0x0E = 0 ∨ t.recoveryAsked = true then .recovering else .busOff
        stb := if cfg s.dev (canIdx c 0) 0x0E = 0 ∨ t.recoveryAsked = true then false else t.stb }) ∧
    (t.state = .recovering → Completes (.busOffRecoveryComplete c) s fun d =>
      d.can[c] = { t with
        state := .errorActive
        stb := false
        tec := 0
        recv := 0
        recoveryAsked := false }) ∧
    (onBus t = true → GatewayQuiet s.dev → t.tec ≤ 255 →
      (∀ f : CanFrame, ¬ (f.fdf = true ∧ (cfg s.dev (canIdx c 0) 2 = 0 ∨ f.res = true)) →
        let matching := (List.range 128).filter fun o => (objCfg s.dev c o).admits f
        let takes := matching.find? fun o =>
          (objOf s.dev c o).status = 0 || (isHeld (objOf s.dev c o).status && (objCfg s.dev c o).overwrite)
        let heard := fun (d : Dev) => counter 1 d ∧ d.can[c].alone = false ∧ d.can[c].ackErrors = 0 ∧ onBus d.can[c] = true ∧
          d.can[c].tec = t.tec ∧ (canSends t = false → d.can[c].recv = t.recv) ∧
          (canSends t = true → if 127 < t.recv then 119 ≤ d.can[c].recv ∧ d.can[c].recv ≤ 127 else d.can[c].recv = t.recv - 1)
        (∀ o, takes = some o → (objCfg s.dev c o).owner = 1 ∨ (objCfg s.dev c o).owner = 0 →
          Completes (.canFrameReceived c f) s fun d => heard d ∧ others o d ∧
            objOf d c o = heldFrame s.dev f (if isHeld (objOf s.dev c o).status then 2 else 1) ∧
            (isHeld (objOf s.dev c o).status = true → counter 4 d)) ∧
        (takes = none → Completes (.canFrameReceived c f) s fun d => heard d ∧ d.can[c].objs = t.objs ∧
          if matching = [] then counter 3 d else counter 5 d)) ∧
      (∀ f : CanFrame, f.fdf = true → f.res = true → cfg s.dev (canIdx c 0) 2 ≠ 0 → cfgB s.dev (canIdx c 0) 0x10 = true →
        Completes (.canFrameReceived c f) s fun d => counter 0x0F d ∧ d.can[c].tec = t.tec ∧ d.can[c].recv = t.recv ∧
          d.can[c].state = t.state ∧ d.can[c].objs = t.objs) ∧
      (∀ e : CanError,
        let k := errorKind s.dev c e.kind
        let r := min 255 (t.recv + if e.dominant then 9 else 1)
        (k = .protocolException → Completes (.canReceiveError c e) s fun d => counter 0x0F d ∧ d.can[c].tec = t.tec ∧
          d.can[c].recv = t.recv ∧ d.can[c].state = t.state ∧ d.can[c].objs = t.objs) ∧
        (k ≠ .protocolException → canSends t = true → Completes (.canReceiveError c e) s fun d => counter (of k) d ∧
          judged t.tec r d ∧ d.can[c] = { t with
            recv := r
            state := d.can[c].state
            stb := if d.can[c].state = t.state then t.stb else false }) ∧
        (k ≠ .protocolException → canSends t = false → Completes (.canReceiveError c e) s fun d => counter (of k) d ∧
          d.can = s.dev.can)) ∧
      (∀ o : Nat, canSends t = true → t.sending = none → t.leaving = none → nextToSend s.dev c = some o →
        Completes (.attemptStart c) s fun d => objOf d c o = { objOf s.dev c o with status := 0x11 } ∧ others o d ∧
          d.can[c].sending = some o ∧ d.can[c].txd = false ∧ d.can[c].sofAt = trainTime s.dev ∧ d.out = [.canStart c.val o]) ∧
      ∀ o : Nat, t.sending = some o → t.leaving = none → t.renewed = false → (objCfg s.dev c o).owner ≠ 2 →
          (objOf s.dev c o).status = 0x11 →
        let x := objOf s.dev c o
        Completes (.arbitrationLost c) s (fun d => counter 6 d ∧ d.can[c].sending = none ∧ d.can[c].ackErrors = 0 ∧ others o d ∧
          (objOf d c o).status = (if x.cancel then 0x22 else 0x10) ∧ d.can[c].tec = t.tec ∧ (objOf d c o).data = x.data) ∧
        (∀ delay : BitVec 8, Completes (.canTransmitSuccess c delay) s fun d => counter 2 d ∧ d.can[c].sending = none ∧
          d.can[c].tec = t.tec - 1 ∧ d.can[c].ackErrors = 0 ∧ d.can[c].alone = false ∧ others o d ∧ judged (t.tec - 1) t.recv d ∧
          objOf d c o = { x with
            status := if x.cancel then 0x21 else 0x20
            cancel := false
            failures := 0
            stamp := BitVec.ofNat 32 t.sofAt
            unsure := t.sofUnsure
            stepGen := t.sofGen } ∧
          (x.cancel = true → counter 0x10 d)) ∧
        ∀ e : CanError,
          let k := if e.kind = .protocolException then .form else e.kind
          let tec := if k = .acknowledgement ∧ t.state = .errorPassive ∧ e.dominant = false then t.tec else min 256 (t.tec + 8)
          let limit := retryLimit s.dev c o
          let failed := fun (d : Dev) => counter (of k) d ∧ d.can[c].sending = none ∧ d.can[c].tec = tec ∧ others o d ∧
            d.can[c].ackErrors = (if k = .acknowledgement then t.ackErrors + 1 else 0) ∧
            (k = .acknowledgement → t.ackErrors = 15 → counter 0x0E d ∧ d.can[c].alone = true)
          (255 < tec → Completes (.canTransmitError c e) s fun d => failed d ∧ counter 0x0D d ∧ d.can[c].state = .busOff ∧
            ballLevel d (.canTxd c) = some .high ∧ (objOf d c o).status = 0x25 ∧ d.can[c].holdOffEnd = some (s.dev.now + cfg s.dev (canIdx c 0) 0x0F * msNs)) ∧
          (tec ≤ 255 →
            (x.cancel = true → Completes (.canTransmitError c e) s fun d => failed d ∧ judged tec t.recv d ∧
              (objOf d c o).status = 0x22) ∧
            (x.cancel = false → limit ≠ 127 → limit ≤ x.failures → Completes (.canTransmitError c e) s fun d => failed d ∧
              judged tec t.recv d ∧ (objOf d c o).status = (if k = .acknowledgement then 0x23 else 0x24) ∧ counter 0x11 d) ∧
            (x.cancel = false → limit = 127 ∨ x.failures < limit → Completes (.canTransmitError c e) s fun d => failed d ∧
              judged tec t.recv d ∧ objOf d c o = { x with
                status := 0x10
                failures := x.failures + 1 })))

/-- R306, R307, R310, R315, R321: object commands. -/
def Obligations.ObjectCommandsActAtOnceOrAreRefused : Prop :=
  ∀ (s : State) (src : Src) (c : CanId), Served s.dev src →
    let o := cfg s.dev (canIdx c 4) 1
    let x := objOf s.dev c o
    let g := objCfg s.dev c o
    let t := s.dev.can[c]
    let refused := fun (cmd : Instr) (sub code : Nat) => Completes cmd s (RefusedWith s src (canIdx c 4) sub code)
    (MayWrite s.dev src (canIdx c 4) 2 → ∀ data : List Byte, 16 ≤ data.length → data.length ≤ 80 →
      let dlc := bitsOf (leNat (slice data 4 1)) 3 0
      let fits : Prop := data.length = 16 + if g.remote then 0 else Machine.dlcLength g.fdf dlc
      (¬ fits → refused (.objectFrame src c data) 2 0x06090030) ∧
      (fits →
        (g.owner = 1 → g.tx = true → x.status = 0 → Completes (.objectFrame src c data) s
          (ActsAtOnce s src (canIdx c 4) 2 (setObj c o { x with dlc := BitVec.ofNat 4 dlc, data := data.drop 16 }))) ∧
        (g.owner ≠ 1 ∨ g.tx = false ∨ x.status ≠ 0 → refused (.objectFrame src c data) 2 0x08000022))) ∧
    (MayWrite s.dev src (canIdx c 4) 3 →
      (g.owner ≠ 1 → refused (.objectRequest src c) 3 0x08000022 ∧ refused (.objectCancel src c) 3 0x08000022 ∧
        refused (.objectAcknowledge src c) 3 0x08000022) ∧
      (g.owner = 1 →
        let barred : Prop := t.mode = 2 ∨ t.mode = 3 ∨ t.mode = 4 ∧ (cfg s.dev (canIdx c 3) 4 = 0 ∨ t.adopted = false)
        (g.tx = true → x.status = 0 → ¬ barred → Completes (.objectRequest src c) s (ActsAtOnce s src (canIdx c 4) 3
          (setObj c o { x with status := 0x10, failures := 0, cancel := false }))) ∧
        (g.tx = false ∨ x.status ≠ 0 ∨ barred → refused (.objectRequest src c) 3 0x08000022) ∧
        (x.status = 0x10 → Completes (.objectCancel src c) s fun d => WriteAnswered d src (canIdx c 4) 3 0 ∧
          objOf d c o = { x with status := 0x22, failures := 0, cancel := false } ∧ d.host.intStatus.getLsbD (8 + c.val) = true) ∧
        (x.status = 0x11 → Completes (.objectCancel src c) s (ActsAtOnce s src (canIdx c 4) 3 (setObj c o { x with cancel := true }))) ∧
        (x.status ≠ 0x10 → x.status ≠ 0x11 → refused (.objectCancel src c) 3 0x08000022) ∧
        (x.status = 1 ∨ x.status = 2 → Completes (.objectAcknowledge src c) s
          (ActsAtOnce s src (canIdx c 4) 3 (setObj c o CanObj.blank))) ∧
        (0x20 ≤ x.status → Completes (.objectAcknowledge src c) s
          (ActsAtOnce s src (canIdx c 4) 3 (setObj c o { x with status := 0 }))) ∧
        (x.status = 0 ∨ x.status = 0x10 ∨ x.status = 0x11 → refused (.objectAcknowledge src c) 3 0x08000022))) ∧
    (MayWrite s.dev src (canIdx c 4) 7 →
      (t.state = .busOff → cfg s.dev (canIdx c 0) 0x0E ≠ 0 →
        (t.holdOffEnd ≠ none → Completes (.busOffRecoveryRequest src c) s
          (ActsAtOnce s src (canIdx c 4) 7 (onCan c (fun y => { y with recoveryAsked := true })))) ∧
        (t.holdOffEnd = none → Completes (.busOffRecoveryRequest src c) s fun d =>
          d.can[c] = { t with state := .recovering, stb := false } ∧ WriteAnswered d src (canIdx c 4) 7 0)) ∧
      (t.state ≠ .busOff ∨ cfg s.dev (canIdx c 0) 0x0E = 0 → refused (.busOffRecoveryRequest src c) 7 0x08000022))

/-- R329 to R332, R343, R344: signals and the log. -/
def Obligations.SignalsMoveBetweenTelegramsAndObjects : Prop :=
  ∀ s : State,
    let m := s.dev.gw
    let counter := fun (idx sub : Nat) (d : Dev) => cfg d idx sub = min 0xFFFFFFFF (cfg s.dev idx sub + 1)
    let nothing := fun (c : Instr) => Completes c s fun d => d = s.found
    let ip := fun (k : Fin 64) => gwDest s.dev (tele s.dev k 4) (tele s.dev k 5) (tele s.dev k 6)
    (∀ k : Fin 64,
      (¬ (gwActive s.dev = true ∧ tele s.dev k 1 = 1) → nothing (.telegramDue k)) ∧
      (gwActive s.dev = true → tele s.dev k 1 = 1 →
        let t := nextDue (tele s.dev k 0x0A * msNs) (tele s.dev k 7 * msNs) m.telegrams[k].lastDue s.dev
        let goes : Prop := tele s.dev k 8 = 1 ∨ m.telegrams[k].fresh = true
        (¬ goes → Completes (.telegramDue k) s fun d =>
          d.gw.telegrams[k] = { m.telegrams[k] with lastDue := some t } ∧ Framed [.clock, .gw, .counters] s.found d) ∧
        (goes → ip k = none → Completes (.telegramDue k) s fun d => counter 0x2801 4 d ∧ d.out = [] ∧
          d.gw.telegrams[k] = { m.telegrams[k] with lastDue := some t }) ∧
        (∀ a : Nat, goes → ip k = some a → Completes (.telegramDue k) s fun d => counter 0x2801 1 d ∧ counter (0x2840 + k.val) 0x0C d ∧
          d.gw.telegrams[k] = { m.telegrams[k] with
            lastDue := some t
            fresh := false
            seq := m.telegrams[k].seq + 1 } ∧
          ∃ bs, Out.trdp a 17224 0x5064 (tele s.dev k 2) (gwTopo s.dev) m.telegrams[k].seq.toNat 0 0 bs ∈ d.out ∧
            (checkFor s.dev true true 0 k.val = none → bs = (padTo (tele s.dev k 3) m.telegrams[k].data).take (tele s.dev k 3)))) ∧
      ∀ t : Nat, m.telegrams[k].timeout = some t → Completes (.telegramTimeout k) s fun d => counter 0x2801 0x0D d ∧
        d.now = max s.dev.now t ∧ d.gw.telegrams[k] = { m.telegrams[k] with timeout := none } ∧
        d.gw.log.getLast? = some {
          tag := 0
          addr := k.val
          chan := 0xFF
          kind := 6
          status := 0
          canSide := false
          epoch := s.dev.inaug.now.epoch
          time := trainTime d }) ∧
    (∀ (c : CanId) (o : Fin 126),
      let st := stageOf s.dev c o
      let x := objOf s.dev c o
      let period := gwPeriod s.dev c o * msNs
      (¬ (gwActive s.dev = true ∧ gwSendsIn s.dev c o = true ∧ period ≠ 0) → nothing (.canObjectDue c o)) ∧
      (gwActive s.dev = true → gwSendsIn s.dev c o = true → period ≠ 0 →
        let t := nextDue 0 period st.lastDue s.dev
        let data := padTo (mappedBytes s.dev c o) st.data
        let dlc := dlcFor (objCfg s.dev c o).fdf data.length
        let size := Machine.dlcLength (objCfg s.dev c o).fdf dlc
        let goes : Prop := (cfg s.dev (0x2830 + c.val) 0x7F = 1 ∨ st.fresh = true) ∧ canSends s.dev.can[c] = true ∧
          (x.status = 0 ∨ x.status = 0x10)
        (goes → Completes (.canObjectDue c o) s fun d => (objOf d c o).status = 0x10 ∧ (objOf d c o).dlc = BitVec.ofNat 4 dlc ∧
          (stageOf d c o).fresh = false ∧ (stageOf d c o).lastDue = some t ∧
          (checkFor s.dev true false c.val o.val = none → (objOf d c o).data = (padTo size data).take size)) ∧
        (¬ goes → Completes (.canObjectDue c o) s fun d => d.can = s.dev.can ∧
          stageOf d c o = { st with data := data, lastDue := some t } ∧ Framed [.clock, .gw, .counters] s.found d))) ∧
    (∀ p : TrdpMsg,
      (gwActive s.dev = false → nothing (.pdTelegram p)) ∧
      (gwActive s.dev = true → p.msgType ≠ 0x5064 ∨ accepts s.dev p = none → Completes (.pdTelegram p) s fun d =>
        counter 0x2801 3 d ∧ RegsFramed [(0x2801, 3)] s.found d ∧ Framed [.regs] s.found d) ∧
      ∀ k : Fin 64, gwActive s.dev = true → p.msgType = 0x5064 → accepts s.dev p = some k →
        ((verifyAt true 0 k.val p.data s.found).1 = true → Completes (.pdTelegram p) s fun d =>
          counter 0x2801 2 d ∧ counter (0x2840 + k.val) 0x0C d ∧ d.gw.telegrams[k] = { m.telegrams[k] with
            data := p.data
            timeout := some (s.dev.now + tele s.dev k 7 * msNs) }) ∧
        ((verifyAt true 0 k.val p.data s.found).1 = false → Completes (.pdTelegram p) s fun d =>
          d.gw = m ∧ d.can = s.dev.can)) ∧
    (∀ (c : CanId) (f : CanFrame) (o : Nat), onBus s.dev.can[c] = true → GatewayQuiet s.dev → s.dev.can[c].tec ≤ 255 →
      gwActive s.dev = true → f.fdf = false → (∀ n : Fin 32, chanReg s.dev n 1 = 0) →
      ((List.range 128).filter fun o => (objCfg s.dev c o).admits f).find? (fun o => (objOf s.dev c o).status = 0 ||
        (isHeld (objOf s.dev c o).status && (objCfg s.dev c o).overwrite)) = some o →
      (objCfg s.dev c o).owner = 2 → checkFor s.dev false false c.val o = none → Completes (.canFrameReceived c f) s fun d =>
        ∀ x ∈ signalMaps s.dev.dict.mem, x.toCan = false → x.ctl = c.val → x.obj = o →
          (d.gw.telegrams[Fin.ofNat 64 x.telegram]).fresh = true) ∧
    ∀ src : Src, Served s.dev src → MayRead s.dev src 0x2802 1 → Completes (.logRecordRead src) s fun d =>
      ReadAnswered d src 0x2802 1 ((m.log.head?.map GwLog.pack).getD []) ∧
        Through src s (onGw fun g => { g with log := g.log.tail }) d

/-- R334, R336 to R339, R341 to R343: transactions. -/
def Obligations.TransactionsOpenAnswerAndFailAsGiven : Prop :=
  ∀ s : State,
    let m := s.dev.gw
    let counter := fun (sub : Nat) (d : Dev) => cfg d 0x2801 sub = min 0xFFFFFFFF (cfg s.dev 0x2801 sub + 1)
    let nothing := fun (c : Instr) => Completes c s fun d => d = s.found
    let dropped := fun (c : Instr) => Completes c s fun d =>
      counter 3 d ∧ RegsFramed [(0x2801, 3)] s.found d ∧ Framed [.regs] s.found d
    let logged := fun (kind addr chan status : Nat) (d : Dev) => ∃ l, d.gw.log.getLast? = some l ∧ l.kind = kind ∧ l.addr = addr ∧
      l.chan = chan ∧ l.status = status ∧ l.time = trainTime d
    let idle := fun (n : Fin 32) (d : Dev) => d.gw.chans[n].state = .idle ∧ d.gw.chans[n].txn = none
    (∀ (p : TrdpMsg) (n : Fin 32), chanOfComId s.dev 1 p.comId = some n →
      let b := blockReq s.dev n p.data
      let x := m.chans[n]
      let error := fun (status : Nat) (d : Dev) => counter 6 d ∧ logged 2 b.addr n.val status d ∧ d.gw.chans = m.chans ∧
        ∃ seq, Out.trdp p.sourceIp.toNat p.sourcePort.toNat 0x4D65 (chanReg s.dev n 7) (requestEpoch s.dev p.topo).2.toNat seq p.session (-1)
          (txnBlock ((if b.op = 2 then 2 else 1) + 0x80) status b.addr b.tag []) ∈ d.out
      (gwActive s.dev = false → nothing (.mrRequest p) ∧ nothing (.mnNotification p)) ∧
      (gwActive s.dev = true → p.fcsOk = false → dropped (.mrRequest p) ∧ dropped (.mnNotification p)) ∧
      (gwActive s.dev = true → p.fcsOk = true →
        let opens := fun (posted : Bool) (d : Dev) =>
          let t := backboneTxn s.dev p b posted
          d.gw.chans[n].state = .opened ∧
            d.gw.chans[n].txn = some { t with
              deadline := if posted then none else some (s.dev.now + chanReg s.dev n 0x0B * msNs) } ∧
            counter 5 d ∧ ((objOf s.dev (chanCan s.dev n) (chanReg s.dev n 3)).status = 0 →
              (objOf d (chanCan s.dev n) (chanReg s.dev n 3)).status = 0x10)
        (x.state = .opened → Completes (.mrRequest p) s (error 6)) ∧
        (x.state ≠ .opened → b.wellFormed = false → Completes (.mrRequest p) s (error 7)) ∧
        (b.op = 2 → x.state = .opened ∨ b.wellFormed = false → nothing (.mnNotification p)) ∧
        (b.op ≠ 2 → (chanReg s.dev n 4 = 0xFF → nothing (.mnNotification p)) ∧
          (chanReg s.dev n 4 ≠ 0xFF → Completes (.mnNotification p) s (error 7))) ∧
        (b.wellFormed = true → x.state = .idle → canSends s.dev.can[chanCan s.dev n] = true →
          (b.op = 2 ∨ (∀ e ∈ x.cache, e.addr ≠ b.addr) → Completes (.mrRequest p) s (opens false)) ∧
          (b.op = 2 → Completes (.mnNotification p) s (opens true))) ∧
        (∀ e, b.wellFormed = true → x.state = .idle → b.op ≠ 2 → x.cache.find? (fun e => e.addr = b.addr) = some e →
          Completes (.mrRequest p) s fun d => counter 0x0A d ∧
            d.gw.chans[n] = { x with cache := x.cache.filter (fun y => y ≠ e) } ∧
            ∃ seq, Out.trdp p.sourceIp.toNat p.sourcePort.toNat 0x4D70 (chanReg s.dev n 7) (requestEpoch s.dev p.topo).2.toNat seq
              p.session 0 (txnBlock 0x81 0 b.addr b.tag e.data) ∈ d.out) ∧
        (b.wellFormed = true → x.state = .prefetching →
          (x.waiting = none → Completes (.mrRequest p) s fun d =>
            d.gw.chans[n] = { x with waiting := some (backboneTxn s.dev p b false) } ∧ Framed [.gw] s.found d) ∧
          (x.waiting ≠ none → Completes (.mrRequest p) s (error 6))))) ∧
    (∀ p : TrdpMsg,
      (gwActive s.dev = false → nothing (.mpReply p) ∧ nothing (.meErrorReply p)) ∧
      (gwActive s.dev = true → p.fcsOk = false → dropped (.mpReply p) ∧ dropped (.meErrorReply p)) ∧
      (gwActive s.dev = true → p.fcsOk = true →
        let tag := BitVec.ofNat 32 (beNat (slice p.data 4 4))
        let status := leNat (slice p.data 1 1)
        let asks := fun (n : Fin 32) (t : Txn) =>
          chanReg s.dev n 1 = 2 ∧ m.chans[n].state = .opened ∧ m.chans[n].txn = some t ∧ t.posted = false ∧ t.tag = tag
        (∀ (n : Fin 32) (t : Txn), asks n t → (∀ (k : Fin 32) (y : Txn), asks k y → k = n) → t.who = .can → 12 ≤ p.data.length →
          (status = 0 → Completes (.mpReply p) s fun d => idle n d ∧ cfg d 0x2801 6 = cfg s.dev 0x2801 6) ∧
          (status = 0 → chanReg s.dev n 5 ≠ 0xFF → Completes (.meErrorReply p) s fun d =>
            idle n d ∧ counter 6 d ∧ logged 2 t.addr n.val 7 d) ∧
          (status ≠ 0 → chanReg s.dev n 5 ≠ 0xFF → Completes (.meErrorReply p) s fun d =>
            idle n d ∧ counter 6 d ∧ logged 2 t.addr n.val status d)) ∧
        ∀ n : Fin 32, (∀ (k : Fin 32) (y : Txn), ¬ asks k y) → chanOfComId s.dev 2 p.comId = some n →
          let late := fun (d : Dev) => counter 8 d ∧ logged 3 (beNat (slice p.data 2 2)) n.val 0 d ∧ d.gw.chans = m.chans
          Completes (.mpReply p) s late ∧ Completes (.meErrorReply p) s late)) ∧
    ∀ n : Fin 32,
      let x := m.chans[n]
      (∀ (t : Txn) (w : Nat), x.state = .opened → x.txn = some t → t.deadline = some w →
        Completes (.transactionTimeout n) s fun d => idle n d ∧ d.now = max s.dev.now w ∧
          (t.posted = false → ∀ (ip : BitVec 32) (port : BitVec 16) (session : BitVec 128), t.who = .backbone ip port session →
            honoured s.dev t.epoch = true → counter 6 d ∧ logged 2 t.addr n.val 1 d ∧
              ∃ seq, Out.trdp ip.toNat port.toNat 0x4D65 (chanReg s.dev n 7) t.topo.toNat seq session (-1)
                (txnBlock (t.op + 0x80) 1 t.addr t.tag []) ∈ d.out)) ∧
      (∀ w : Nat, x.state = .prefetching → x.txn = none → x.fetchDeadline = some w →
        (x.due = [] → x.waiting = none → Completes (.transactionTimeout n) s fun d => d.now = max s.dev.now w ∧
          d.gw.chans[n] = { x with
            state := .idle
            fetching := none
            fetchDeadline := none }) ∧
        (∀ (a : Nat) (rest : List Nat), x.due = a :: rest → Completes (.transactionTimeout n) s fun d => counter 9 d ∧
          d.gw.chans[n] = { x with
            state := .prefetching
            fetching := some a
            due := rest
            fetchDeadline := some (d.now + chanReg s.dev n 0x0B * msNs) })) ∧
      ∀ (addr : BitVec 16) (e : CacheEntry), x.cache.find? (fun e => e.addr = addr.toNat) = some e →
        Completes (.prefetchLifetimeEnd n addr) s fun d => d.now = max s.dev.now e.deadline ∧
          d.gw.chans[n] = { x with cache := x.cache.filter (fun e => e.addr ≠ addr.toNat) } ∧
          logged 4 addr.toNat n.val 0 d ∧ cfg d 0x2801 0x0B = min 0xFFFFFFFF
            (cfg s.dev 0x2801 0x0B + (x.cache.filter (fun e => e.addr = addr.toNat)).length)

/-- R353, R356, R360, R361: check channels. -/
def Obligations.CheckChannelsJudgeFramesAndKeepTheirFlags : Prop :=
  ∀ s : State,
    let counter := fun (sub : Nat) (d : Dev) => cfg d 0x2902 sub = min 0xFFFFFFFF (cfg s.dev 0x2902 sub + 1)
    (∀ (p : TrdpMsg) (k : Fin 64) (ch : Nat) (r : CheckRec), gwActive s.dev = true → p.msgType = 0x5064 → accepts s.dev p = some k →
      checkFor s.dev false true 0 k.val = some (ch, r) →
      let x := chkOf s.dev ch
      let kind := (r.judge x p.data).1
      let last := (r.judge x p.data).2.1
      (kind = 0 → Completes (.pdTelegram p) s fun d => counter 1 d ∧ (chkOf d ch).passed = min 0xFFFFFFFF (x.passed + 1) ∧
        (chkOf d ch).last = last ∧
        (x.state = .invalid → x.run + 1 < r.recovery → (chkOf d ch).state = .invalid ∧ (chkOf d ch).run = x.run + 1 ∧
          (r.block = 2 → d.gw = s.dev.gw ∧ counter 4 d)) ∧
        (x.state ≠ .invalid ∨ r.recovery ≤ x.run + 1 → (chkOf d ch).state = .valid ∧
          (d.gw.telegrams[k]).data = p.data ∧ cfg d 0x2902 4 = cfg s.dev 0x2902 4) ∧
        (x.state = .invalid → r.recovery ≤ x.run + 1 → counter 6 d)) ∧
      (kind ≠ 0 → Completes (.pdTelegram p) s fun d => counter 1 d ∧ counter 3 d ∧ (chkOf d ch).state = .invalid ∧
        (chkOf d ch).run = 0 ∧ (chkOf d ch).kind = kind ∧ (chkOf d ch).last = last ∧
        bitOf (cfg d 0x2903 (1 + ch / 64)) (ch % 64) = true ∧
        (r.block = 0 → (d.gw.telegrams[k]).data = p.data) ∧
        (r.block ≠ 0 → d.gw = s.dev.gw ∧ d.can = s.dev.can ∧ counter 4 d))) ∧
    (∀ ch : Fin 256,
      (∀ t : Nat, (chkOf s.dev ch.val).silence = some t → Completes (.silenceReset ch) s fun d => d.now = max s.dev.now t ∧
        chkOf d ch.val = { chkOf s.dev ch.val with state := .initial, silence := none } ∧
        (∀ k : Nat, k ≠ ch.val → chkOf d k = chkOf s.dev k) ∧ Framed [.clock, .chk, .counters] s.found d) ∧
      ((chkOf s.dev ch.val).silence = none → Completes (.silenceReset ch) s fun d => d = s.found)) ∧
    ∀ (src : Src) (word : Fin 4) (value : BitVec 64), Served s.dev src → MayWrite s.dev src 0x2903 (1 + word.val) →
      ∃ v : Nat, (∀ i : Nat, bitOf v i = (bitOf (cfg s.dev 0x2903 (1 + word.val)) i && !value.getLsbD i)) ∧
        Completes (.mismatchFlagClear src word value) s
          (ActsAtOnce s src 0x2903 (1 + word.val) (setReg 0x2903 (1 + word.val) v))

/-- R374 to R380, R385, R386, R390: the recorder. -/
def Obligations.TheRecorderWritesFreezesFailsAndReturnsAsGiven : Prop :=
  ∀ s : State,
    let m := s.dev.recd
    let counter := fun (sub : Nat) (d : Dev) => cfg d 0x2A06 sub = min 0xFFFFFFFF (cfg s.dev 0x2A06 sub + 1)
    let staged := m.inflight ++ m.staging.map (·.1)
    let back := fun (d : Dev) => d.recd.state = .writeBack ∨ d.recd.state = .logging ∧ d.recd.ring = [] ∧ d.recd.holding = []
    (∀ (e : Entry) (t : Nat) (rest : List (Entry × Nat)), m.staging = (e, t) :: rest → m.inflight = [] → m.state = .logging →
      Completes .flushDelay s fun d => d.now = max s.dev.now (t + cfg s.dev 0x2A01 3 * msNs) ∧ d.recd = { m with
        inflight := m.staging.map (·.1)
        staging := []
        writeDeadline := some (d.now + 250 * msNs) } ∧ Framed [.clock, .recd, .counters] s.found d) ∧
    (m.state = .logging → (m.log.map (·.1)).Pairwise (· < ·) → m.log.length + m.inflight.length ≤ m.summary.slots →
      Completes .logWriteComplete s fun d => d.recd.log.length = m.log.length + m.inflight.length ∧
        (∀ x ∈ m.log, x ∈ d.recd.log) ∧ (∀ e ∈ m.inflight, ∃ k, (k, e) ∈ d.recd.log) ∧
        (m.inflight ≠ [] → cfg d 0x2A06 0x10 = min 0xFFFFFFFF (cfg s.dev 0x2A06 0x10 + m.inflight.length)) ∧
        Framed [.recd, .regs] s.found d) ∧
    (m.state = .writeBack → staged = [] → m.holding = [] → m.ring.length ≤ 64 → (∀ k : Fin 8, m.holdingDrops[k] = 0) →
      Completes .logWriteComplete s fun d => d.recd.state = .logging ∧ d.recd.ring = [] ∧ d.recd.afterRing = false ∧
        (m.afterRing = true → counter 0x0D d)) ∧
    (∀ t : Nat, m.freezeEnd = some t → m.state = .frozen → m.holding ≠ [] → Completes .freezeLimit s fun d => counter 0x0F d ∧
      d.recd.freezeEnd = none ∧ d.recd.state = .writeBack ∧ d.now = max s.dev.now t) ∧
    (∀ cause : MediumCause,
      (m.state = .off ∨ m.state = .ring ∨ m.state = .closed → Completes (.mediumFailure cause) s fun d =>
        d.recd = { m with mediumFailed := true, ddrFailed := m.ddrFailed || decide (cause = .ddr) } ∧ Framed [.recd] s.found d) ∧
      (m.state ≠ .off → m.state ≠ .ring → m.state ≠ .closed → Completes (.mediumFailure cause) s fun d =>
        d.recd.state = .ring ∧ d.recd.mediumFailed = true ∧ d.recd.ddrFailed = (m.ddrFailed || decide (cause = .ddr)) ∧
        d.recd.freezeEnd = none ∧ d.recd.holding = [] ∧ d.recd.staging = [] ∧ d.recd.inflight = [] ∧ d.recd.log = m.log ∧
        counter 0x0C d ∧ d.recd.retryAt = some (s.dev.now + cfg s.dev 0x2A01 6 * sNs) ∧
        (cfg s.dev 0x2A01 2 ≤ 7 → (m.ring.map (·.1)).Pairwise (· < ·) →
          m.ring.length + staged.length + m.holding.length + 2 * m.early.length < ringCap →
          ∃ k e, (k, e) ∈ d.recd.ring ∧ e.sev = 7 ∧ e.src = 10 ∧ e.inst = Machine.MediumCause.code cause ∧ e.viaRing = true))) ∧
    (∀ (t : Nat) (ok : Bool), m.state = .ring → m.retryAt = some t →
      (ok = true → m.ddrFailed = false → Completes (.mediumRetry ok) s fun d => back d ∧ d.recd.mediumFailed = false ∧
        d.recd.retryAt = none ∧ d.now = max s.dev.now t ∧ (m.ring ≠ [] → d.recd.state = .writeBack)) ∧
      (ok = false ∨ m.ddrFailed = true → Completes (.mediumRetry ok) s fun d => d.now = max s.dev.now t ∧
        d.recd = { m with retryAt := some (d.now + cfg s.dev 0x2A01 6 * sNs) } ∧ Framed [.clock, .recd, .counters] s.found d)) ∧
    (m.state = .scanning →
      (∀ o : ScanOutcome, o = .failed ∨ s.dev.chip.emmc = false ∨ m.ddrFailed = true → Completes (.scanComplete o) s fun d =>
        d.recd.state = .ring ∧ d.recd.mediumFailed = true ∧ counter 0x0C d ∧ d.recd.early = []) ∧
      (s.dev.chip.emmc = true → m.ddrFailed = false →
        Completes (.scanComplete .blank) s (fun d => back d ∧ d.recd.early = [] ∧ d.recd.log = [] ∧ d.recd.summary.valid = true ∧
          d.recd.summary.slots = slotsOf (cfg s.dev 0x2A01 1)) ∧
        (m.summary.valid = true → m.summary.slots = slotsOf (cfg s.dev 0x2A01 1) → Completes (.scanComplete .logFound) s fun d =>
          back d ∧ d.recd.early = [] ∧ d.recd.log = m.log ∧ d.recd.summary.fmt = m.summary.fmt))) ∧
    ∀ src : Src, Served s.dev src →
      (MayWrite s.dev src 0x2A02 1 →
        (m.state = .logging → m.holding = [] → staged.length + 1 < holdingCap → Completes (.freeze src) s fun d =>
          ActsAtOnce s src 0x2A02 1 freezeLog d ∧ d.recd.state = .frozen ∧ d.recd.staging = [] ∧ d.recd.inflight = [] ∧
          d.recd.freezeEnd = some (s.dev.now + cfg s.dev 0x2A02 2 * sNs) ∧
          (∀ e ∈ staged, ∃ k, (k, { e with viaHolding := true }) ∈ d.recd.holding)) ∧
        (m.state ≠ .logging → Completes (.freeze src) s (RefusedWith s src 0x2A02 1 0x08000022)) ∧
        (m.state = .frozen → Completes (.unfreeze src) s fun d => ActsAtOnce s src 0x2A02 1 unfreezeLog d ∧ d.recd.freezeEnd = none ∧
          back d ∧ (m.holding ≠ [] → d.recd.state = .writeBack)) ∧
        (m.state ≠ .frozen → Completes (.unfreeze src) s (ActsAtOnce s src 0x2A02 1 id))) ∧
      (MayWrite s.dev src 0x2A04 1 → ∀ data : List Byte, 3 ≤ data.length → data.length ≤ 35 →
        let sev := leNat (slice data 0 1)
        (sev ≤ 5 → Completes (.hostEntry src data) s (ActsAtOnce s src 0x2A04 1
          (raiseP ⟨0, sev, leNat (slice data 1 2) / 256, leNat (slice data 1 2) % 256⟩ noInst (data.drop 3)))) ∧
        (5 < sev → Completes (.hostEntry src data) s (RefusedWith s src 0x2A04 1 0x06090031))) ∧
      (MayRead s.dev src 0x2A03 2 →
        (m.state = .scanning ∨ m.state = .closed → Completes (.entriesRead src) s fun d =>
          ReadRefused d src 0x2A03 2 0x08000022 ∧ PathOnly src s.found d) ∧
        (m.state = .logging ∨ m.state = .frozen ∨ m.state = .writeBack ∨ m.state = .ring → Completes (.entriesRead src) s fun d =>
          ReadAnswered d src 0x2A03 2 ((List.range 64).flatMap fun i =>
            if cfg s.dev 0x2A03 1 + i < (logMemory s.dev).1 then slotBytes (logMemory s.dev).2 (cfg s.dev 0x2A03 1 + i)
            else List.replicate 64 0) ∧ PathOnly src s.found d))

/-- R393 to R402, R411, R412: the needs and the agreement to sleep. -/
def Obligations.TheNodeAgreesToSleepAndLeavesServiceAsGiven : Prop :=
  ∀ s : State,
    let m := s.dev.sleep
    let counter := fun (sub : Nat) (d : Dev) => cfg d 0x2B07 sub = min 0xFFFFFFFF (cfg s.dev 0x2B07 sub + 1)
    let aborted := fun (d : Dev) => d.sleep.state = .awake ∧ d.sleep.readyDeadline = none ∧ counter 2 d
    let sends := fun (final : Bool) (d : Dev) => ∀ p ∈ backbonePorts, portUp s.dev p = true →
      (∃ f : QFrame, f.bytes = keepAliveFrame s.dev p (summaryFor s.dev (isRear p) final) ∧ f.cls = 4 ∧
        queueOf d p 4 = queueOf s.dev p 4 ++ [f]) ∨
      queueOf d p 4 = queueOf s.dev p 4 ∧ cfg d (0x2210 + p.val) 5 = min 0xFFFFFFFF (cfg s.dev (0x2210 + p.val) 5 + 1)
    (∀ (p : Port) (k : KeepAliveMsg), portUp s.dev p = true →
      let scope := bitsOf k.flags.toNat 5 4
      let need := k.flags.getLsbD 0
      (isBackbone p = false ∨ Machine.KeepAliveMsg.sound k = false → Completes (.keepAlive p k) s fun d =>
        counter 6 d ∧ FrameCounted s.dev d p (frameLen 24)) ∧
      (isBackbone p = true → Machine.KeepAliveMsg.sound k = true →
        (m.state = .committing → need = true → Completes (.keepAlive p k) s fun d => d.sleep.state = .committing ∧
          d.sleep.front = m.front ∧ d.sleep.rear = m.rear ∧ d.sleep.scope = m.scope) ∧
        (m.state ≠ .committing → Completes (.keepAlive p k) s fun d => d.sleep.scope = max m.scope scope ∧
          sideInfo d (isRear p) = ⟨k.flags, need, scope, k.holder, false, some (s.dev.now + 3 * cfg s.dev 0x2B02 2 * msNs)⟩ ∧
          (m.state = .readySleep → need = true → scope ≤ m.scope → sideStandard s.dev (isRear p) = false → aborted d)))) ∧
    (∀ (rear : Bool) (t : Nat), (sideInfo s.dev rear).deadline = some t → Completes (.silentSide rear) s fun d =>
      sideInfo d rear = { sideInfo s.dev rear with silent := true, deadline := none } ∧ d.now = max s.dev.now t ∧
      (m.state = .readySleep → sideUp s.dev rear = true → cfg s.dev 0x2B02 7 = 0 → aborted d)) ∧
    (∀ t : Nat, m.periodDue = some t → m.state = .awake ∨ m.state = .readySleep → Completes .keepAlivePeriod s fun d =>
      d.now = max s.dev.now t ∧ sends false d ∧ d.sleep.lastSent = some d.now ∧
      d.sleep.periodDue = some (d.now + cfg s.dev 0x2B02 2 * msNs) ∧ Framed [.clock, .regs, .queues, .sleep, .counters] s.found d) ∧
    (∀ t : Nat, m.readyDeadline = some t → m.state = .readySleep → Completes .readySleepExpiry s fun d =>
      d.now = max s.dev.now t ∧ sends true d ∧ d.host.intStatus.getLsbD 4 = true ∧ d.sleep.state = .committing ∧
      d.sleep.committedAt = some d.now ∧ d.sleep.readyDeadline = none ∧ d.sleep.periodDue = none) ∧
    (∀ t : Nat, m.committedAt = some t → m.state = .committing → m.quiesced = false → Completes .quiesce s fun d =>
      d.now = max s.dev.now (t + 40 * msNs) ∧ d.sleep.quiesced = true ∧ (∀ p : Port, d.ports.p[p].link = .disabled) ∧
      (∀ c : CanId, s.dev.can[c].sending = none → d.can[c].state = .off) ∧ d.recd.state = .off ∧
      cfg d 0x2B07 4 = if s.dev.pow.agentReady then cfg s.dev 0x2B07 4 else min 0xFFFFFFFF (cfg s.dev 0x2B07 4 + 1)) ∧
    (∀ t : Nat, s.dev.Valid → m.committedAt = some t → m.state = .committing → m.quiesced = true →
      (m.latched = none → Completes .sleepEntry s fun d => d.now = max s.dev.now (t + 50 * msNs) ∧ d.sleep.state = .asleep ∧
        d.pow.state = (if cfg s.dev 0x2B01 5 = 1 ∧ retentionPermitted s.dev = true then .standby else .sleep) ∧
        counter 1 d ∧ cfg d 0x2B01 1 = 0 ∧ d.sleep.history = m.history ∧ d.dict.epoch = 0 ∧
        d.sleep.timerEnd = if cfg s.dev 0x2B01 3 = 0 then none else some (d.now + cfg s.dev 0x2B01 3 * sNs)) ∧
      (∀ r : WakeRec, m.latched = some r → Completes .sleepEntry s fun d => d.sleep.state = .waking ∧ counter 1 d ∧ counter 3 d ∧
        d.sleep.latched = none)) ∧
    (∀ (src : Src) (v : BitVec 8), Served s.dev src → MayWrite s.dev src 0x2B01 1 →
      (2 ≤ v.toNat → Completes (.hostAwakeRequest src v) s (RefusedWith s src 0x2B01 1 0x06090030)) ∧
      (v.toNat ≤ 1 → s.dev.Valid → Completes (.hostAwakeRequest src v) s fun d => WriteAnswered d src 0x2B01 1 0 ∧
        cfg d 0x2B01 1 = v.toNat ∧
        (m.state = .committing → d.sleep.state = .committing ∧ (v.toNat = 1 → m.latched = none →
          ∃ r, d.sleep.latched = some r ∧ r.source = 17 ∧ r.latched = true)) ∧
        (m.state ≠ .committing → (m.state = .readySleep → v.toNat = 1 → d.sleep.state = .awake) ∧ d.sleep.requestDeadline =
          if v.toNat = 1 ∧ cfg s.dev 0x2B02 5 ≠ 0 then some (s.dev.now + cfg s.dev 0x2B02 5 * sNs) else none))) ∧
    (∀ t : Nat, m.requestDeadline = some t → s.dev.Valid → Completes .maximumAwakeExpiry s fun d =>
      d.now = max s.dev.now t ∧ cfg d 0x2B01 1 = 0 ∧ d.sleep.requestDeadline = none ∧ counter 5 d) ∧
    (∀ t : Nat, m.holdEnd = some t → Completes .postWakeHoldEnd s fun d => d.now = max s.dev.now t ∧ d.sleep.holdEnd = none ∧
      (m.state = .awake → s.dev.pow.state = .active → roundBusy s.dev = false →
        trainNeed { s.dev with sleep := { m with holdEnd := none } } = false →
        d.sleep.state = .readySleep ∧ d.sleep.readyDeadline = some (d.now + cfg s.dev 0x2B02 3 * msNs)))

/-- R402 to R409, R411: wake sources and wake records. -/
def Obligations.WakesAreAcceptedLatchedAndRecordedAsGiven : Prop :=
  ∀ s : State,
    let m := s.dev.sleep
    let counter := fun (sub : Nat) (d : Dev) => cfg d 0x2B07 sub = min 0xFFFFFFFF (cfg s.dev 0x2B07 sub + 1)
    let wakes := fun (n : Nat) (d : Dev) => d.sleep.state = .waking ∧ d.sleep.scope = sourceScope s.dev n ∧ counter 7 d ∧
      (sourceScope s.dev n = 2 → n ≠ 1 → m.twlOutEnd = none → counter 8 d ∧
        d.sleep.twlOutEnd = some (d.now + cfg s.dev 0x2B03 3 * msNs)) ∧
      (readoutPorts s.dev [n] = [] → d.pow.state = .booting ∧ d.pow.bootStep = 1 ∧
        d.pow.bootCause = (if s.dev.pow.state = .sleep then 7 else 6) ∧
        ∃ r, d.sleep.history = (r :: m.history).take 8 ∧ r.source = n ∧ r.latched = false ∧ r.scope = sourceScope s.dev n ∧
          r.fromSleep = decide (s.dev.pow.state = .sleep) ∧ r.ports = [] ∧ r.sources = 2 ^ (n - 1))
    let accepts := fun (c : Instr) (n : Nat) =>
      (sourceEnabled s.dev n = false ∨ sourceSpent s.dev n = true → Completes c s (Framed [] s.found)) ∧
      (sourceEnabled s.dev n = true → sourceSpent s.dev n = false →
        (s.dev.pow.state = .active → m.state = .awake ∨ m.state = .readySleep → Completes c s fun d =>
          d.sleep.state = .awake ∧ d.sleep.holdEnd = some (s.dev.now + cfg s.dev 0x2B02 4 * sNs) ∧
          d.sleep.holdScope = sourceScope s.dev n ∧ (n, none) ∈ d.sleep.spent ∧ (m.state = .readySleep → counter 2 d)) ∧
        (s.dev.pow.state = .active → m.state = .committing → Completes c s fun d => d.sleep.state = .committing ∧
          (m.latched = none → ∃ r, d.sleep.latched = some r ∧ r.source = n ∧ r.latched = true) ∧
          ∀ r, m.latched = some r → d.sleep.latched = some r) ∧
        (s.dev.pow.state = .standby ∨ s.dev.pow.state = .sleep → m.state = .asleep → Completes c s (wakes n)))
    accepts (.trainWakeLine 0) 1 ∧ accepts (.localWake false 0) 2 ∧ accepts (.localWake true 0) 3 ∧
    (∀ c : CanId, accepts (.busWake c 0) (4 + c.val)) ∧ (∀ g : Fin 4, accepts (.phyWake g 0) (12 + g.val)) ∧
    (∀ t : Nat, m.timerEnd = some t → s.dev.pow.state = .standby ∨ s.dev.pow.state = .sleep → m.state = .asleep →
      Completes (.wakeTimer 0) s fun d => d.now = max s.dev.now t ∧ wakes 16 d) ∧
    (∀ (woken : List Port) (r : WakeRec) (ps : List Port) (t : Nat), m.readout = some (r, ps, t) →
      Completes (.phyWakeReadoutEnd woken) s fun d =>
        let shown := ps.filter (woken.contains ·)
        d.now = max s.dev.now (t + readoutNs s.dev ps) ∧ d.sleep.readout = none ∧ d.pow.state = .booting ∧
        d.sleep.wokenPorts = (if shown = [] then ps else shown) ∧
        d.sleep.history = ({ r with ports := shown } :: m.history).take 8) ∧
    (∀ n : Fin 18, Completes (.wakeInputInactive n) s fun d =>
      (∀ y ∈ d.sleep.spent, y.1 = n.val → y.2 = some (s.dev.now + minimumNs s.dev n.val)) ∧
      (∀ y ∈ m.spent, y.1 ≠ n.val → y ∈ d.sleep.spent) ∧
      (n.val = 2 → d.sleep.levelA = false) ∧ (n.val = 3 → d.sleep.levelB = false)) ∧
    ∀ t : Nat, m.twlOutEnd = some t → Completes .twlOutPulseEnd s fun d =>
      d.sleep = { m with twlOutEnd := none } ∧ d.now = max s.dev.now t ∧ Framed [.clock, .counters, .sleep] s.found d

/-- R419 to R430, R434, R438, R439: the companion links. -/
def Obligations.CompanionLinksExchangeFramesAsGiven : Prop :=
  ∀ (s : State) (n : Fin 4),
    let c := s.dev.load.comp[n]
    let counter := fun (idx sub : Nat) (d : Dev) => cfg d idx sub = min 0xFFFFFFFF (cfg s.dev idx sub + 1)
    let carries : Prop := c.link = .running ∨ c.link = .supplyLow
    let isOn := fun (k : Fin 32) => s.dev.load.ch[k].state = .inrush ∨ s.dev.load.ch[k].state = .on
    let held := fun (d : Dev) => ∀ k : Fin 32, compOf k = n → isOn k ∨ s.dev.load.ch[k].state = .pulseGap →
      d.load.ch[k].state = .supplyHold
    let started := fun (d : Dev) => d.load.comp[n].seq = (c.seq + 1) % 16 ∧ d.load.comp[n].gapDue = none ∧
      d.load.comp[n].retryAt = none ∧ ∃ x, d.load.comp[n].inFlight = some x ∧ x.start = d.now ∧ x.good = none
    (c.link ≠ .off → c.link ≠ .wrongDevice → c.link ≠ .fault →
      (c.inFlight = none → c.freeAt ≤ s.dev.now → Completes (.companionFaultLine n) s fun d => started d ∧ d.now = s.dev.now ∧
        ∃ kind sel value, kind ≠ 3 ∧ SendsTransfer d n kind sel value) ∧
      (c.inFlight = none → s.dev.now < c.freeAt → Completes (.companionFaultLine n) s fun d =>
        d.load.comp[n] = { c with again := true, againShort := true, gapDue := some c.freeAt } ∧ Framed [.load] s.found d) ∧
      (∀ x : Transfer, c.inFlight = some x → Completes (.companionFaultLine n) s fun d =>
        d.load.comp[n] = { c with again := true, againShort := true } ∧ Framed [.load] s.found d)) ∧
    (∀ t : Nat, c.gapDue = some t → Completes (.transferGap n) s fun d => d.now = max s.dev.now t ∧ started d ∧
      (c.link = .identifying → if c.againShort then SendsTransfer d n 1 0 0 else SendsTransfer d n 3 0x98 0) ∧
      (∀ (i : Nat) (rest : List (Nat × Nat)), c.link = .configuring ∨ carries → c.againShort = false → c.reads = (0x10, i) :: rest →
        SendsTransfer d n 3 (0x80 + i) 0) ∧
      (∀ (r i v : Nat) (rest : List (Nat × Nat × Nat)), c.link = .configuring ∨ carries → c.config = (r, i, v) :: rest →
        c.againShort = true ∨ (∀ x ∈ c.reads.head?, x.1 ≠ 0x10) → SendsTransfer d n 2 (8 * r + i) v) ∧
      (∀ (r i : Nat) (rest : List (Nat × Nat)), carries → c.config = [] → c.againShort = false → c.reads = (r, i) :: rest →
        SendsTransfer d n 3 (8 * r + i) 0)) ∧
    (∀ t : Nat, c.retryAt = some t → c.link = .fault → Completes (.linkRetry n) s fun d =>
      d.now = max s.dev.now t ∧ started d ∧ SendsTransfer d n 1 0 0) ∧
    (∀ (x : Transfer) (bytes : Vector Byte 8), c.inFlight = some x → x.good = none →
      let at_ := fun (d : Dev) => d.now = max s.dev.now (x.start + 6400)
      let b := fun (i : Nat) => (bytes.toList[i]?.getD 0).toNat
      let sound : Prop := crcKind 1 (bytes.toList.take 7) = b 7 ∧ (c.prevSeq = none ∨ c.prevSeq = some (b 0 % 16))
      (¬ sound → Completes (.statusFrame n bytes) s fun d => at_ d ∧ counter 0x2C01 7 d ∧
        (c.link ≠ .fault → 2 ≤ c.bad → d.load.comp[n].link = .fault ∧ counter 0x2C01 6 d ∧ held d) ∧
        (c.link ≠ .fault → c.bad < 2 → d.load.comp[n].link = c.link ∧ d.load.comp[n].bad = c.bad + 1)) ∧
      (sound → Completes (.statusFrame n bytes) s fun d => at_ d ∧ d.load.comp[n].flags = BitVec.ofNat 8 (b 0) ∧
        d.load.comp[n].outputs = BitVec.ofNat 8 (b 1) ∧ d.load.comp[n].supplyMv = 200 * b 6 ∧ d.load.comp[n].bad = 0 ∧
        (b 0 < 0x10 → c.lowWas = false → c.link = .fault → d.load.comp[n].link = .identifying) ∧
        (b 0 < 0x10 → c.lowWas = false → c.link = .configuring → c.config = [] → d.load.comp[n].link = .running) ∧
        (bitOf (b 0) 4 = true ∨ bitOf (b 0) 5 = true → counter 0x2C01 9 d ∧ d.load.comp[n].link = .identifying ∧
          (c.link ≠ .identifying → b 2 = 0 → b 3 = 0 → held d)) ∧
        (bitOf (b 0) 6 = true → (b 3 = 0 → held d) ∧ (c.lowWas = false → counter 0x2C01 5 d) ∧
          (carries → bitOf (b 0) 4 = false → bitOf (b 0) 5 = false → d.load.comp[n].link = .supplyLow)) ∧
        ∀ k : Fin 32, compOf k = n →
          let t := s.dev.load.ch[k]
          let trip := bitOf (b 2) (k.val % 8)
          let therm := bitOf (b 3) (k.val % 8)
          (trip = true → counter (0x2C20 + k.val) 0x13 d) ∧ (therm = true → counter (0x2C20 + k.val) 0x14 d) ∧
          (b 0 < 0x10 → c.link = .running → c.lowWas = false →
            (trip = true → therm = false → isOn k → 0 < t.retries → d.load.ch[k].state = .retryWait ∧
              d.load.ch[k].retries = t.retries - 1 ∧ d.load.ch[k].delayEnd = some (d.now + chCfg s.dev k 7 * msNs)) ∧
            (trip = true → therm = false → isOn k → t.retries = 0 → d.load.ch[k].state = .tripped) ∧
            (therm = true → t.latched = false → t.state ≠ .locked → d.load.ch[k].state = .thermalLatch ∧
              d.load.ch[k].latched = true ∧ d.load.ch[k].retries = t.retries - 1 ∧ d.load.ch[k].spentAtLatch = decide (1 ≤ t.retries)) ∧
            (∀ w : Nat, b 2 ≠ 0 → trip = false → therm = false → isOn k → t.windowEnd = some w → t.extended = false →
              d.load.ch[k].state = .inrush ∧ d.load.ch[k].extended = true ∧
              d.load.ch[k].windowEnd = some (w + compCfg s.dev n 5 * msNs) ∧ counter (0x2C20 + k.val) 0x15 d)))) ∧
    ∀ (x : Transfer) (reg i : Nat) (bytes : Vector Byte 8), c.inFlight = some x → x.read = some (reg, i) → x.good = some true → i < 8 →
      crcKind 1 (bytes.toList.take 7) = bytes[7].toNat → bytes[0].toNat = 8 * reg + i →
      Completes (.readReply n bytes) s fun d => d.now = max s.dev.now (x.start + 12800) ∧
        let v := beNat (slice bytes.toList 1 4)
        let k := chanOf n i
        (reg = 0x11 → d.load.ch[k].current = v * 10 % 65536) ∧
        (reg = 0x12 → d.load.ch[k].temperature = signedOf 32 v) ∧
        (reg = 0x13 → c.link = .identifying → d.load.comp[n].ident = BitVec.ofNat 32 v ∧
          d.load.comp[n].link = if v / 65536 = 0x2208 then .configuring else .wrongDevice) ∧
        (reg = 0x10 → s.dev.load.ch[k].state ≠ .locked → 1000 * chCfg s.dev k 9 ≤ v →
          d.load.ch[k].state = .locked ∧ counter 0x2C01 3 d)

/-- R426 to R432, R434, R435, R438, R440: the load channels. -/
def Obligations.LoadChannelsFollowTheirTimersPulsesAndCommands : Prop :=
  ∀ (s : State) (k : Fin 32),
    let t := s.dev.load.ch[k]
    let n := compOf k
    let c := s.dev.load.comp[n]
    let restarts := fun (d : Dev) => d.load.ch[k].delayEnd = none ∧
      (c.link = .running → t.command = true → d.load.ch[k].state = if levelAllows d k then .inrush else .pulseGap) ∧
      (c.link ≠ .running → d.load.ch[k].state = t.state ∧ d.load.ch[k].restartDue = true)
    (∀ e : Nat, t.state = .inrush → t.windowEnd = some e → Completes (.inrushWindowEnd k) s fun d =>
      d.now = max s.dev.now e ∧ d.load.ch[k] = { t with state := .on } ∧
      (c.link = .running → c.inFlight = none → c.freeAt ≤ s.dev.now → ∃ kind sel value, SendsTransfer d n kind sel value)) ∧
    (∀ e : Nat, t.state = .retryWait → t.delayEnd = some e → Completes (.retryDelayEnd k) s fun d =>
      d.now = max s.dev.now e ∧ restarts d) ∧
    (∀ e : Nat, t.refillAt = some e → Completes (.retryRefill k) s fun d => d.now = max s.dev.now e ∧
      d.load.ch[k] = { t with refillAt := none, retries := chCfg s.dev k 6 } ∧ Framed [.clock, .counters, .load] s.found d) ∧
    (∀ e : Nat, t.latched = true → t.warmClearSince = some e → Completes (.thermalLatchRelease k) s fun d =>
      d.now = max s.dev.now (e + 100 * msNs) ∧ d.load.ch[k].latched = false ∧
      (t.state = .thermalLatch →
        (t.command = false → d.load.ch[k].state = .off ∧ d.load.ch[k].retries = chCfg s.dev k 6) ∧
        (t.command = true → t.spentAtLatch = true → restarts d) ∧
        (t.command = true → t.spentAtLatch = false → d.load.ch[k].state = .tripped)) ∧
      (t.state ≠ .thermalLatch → d.load.ch[k].state = t.state)) ∧
    (∀ (b v : Nat) (rest : List (Nat × Nat)), t.bins = (b, v) :: rest → Completes (.clampBinExpiry k) s fun d =>
      d.now = max s.dev.now ((b + 100) * (100 * msNs)) ∧ d.load.ch[k] = { t with bins := rest } ∧
      Framed [.clock, .counters, .load] s.found d) ∧
    (chCfg s.dev k 0x0A ≠ 0 → t.command = true → Completes (.pulseEdge k) s fun d =>
      let e := nextEdge s.dev k t.edge
      d.load.ch[k].edge = e ∧
      (t.state = .pulseGap → d.load.ch[k].state =
        if pulseLevel s.dev k e then (if c.link = .running then .inrush else .supplyHold) else .pulseGap) ∧
      (t.state = .inrush ∨ t.state = .on → d.load.ch[k].state = if pulseLevel s.dev k e then t.state else .pulseGap) ∧
      (c.link = .running → c.inFlight = none → c.freeAt ≤ s.dev.now → ∃ kind sel value, kind ≠ 3 ∧ SendsTransfer d n kind sel value)) ∧
    (∀ (e : Nat) (rest : List (Fin 32)), c.restoreAt = some e → c.link = .running →
      (chansOf n).filter (fun j => s.dev.load.ch[j].state = .supplyHold) = k :: rest →
      Completes (.restoreSlot n) s fun d => d.now = max s.dev.now e ∧
        d.load.ch[k].state = (if t.command then if levelAllows d k then .inrush else .pulseGap else .off) ∧
        (rest ≠ [] → d.load.comp[n].restoreAt = some (d.now + msNs))) ∧
    ∀ src : Src, Served s.dev src →
      (MayWrite s.dev src (0x2C20 + k.val) 1 →
        (∀ v : BitVec 8, 2 ≤ v.toNat → Completes (.command src k v) s (RefusedWith s src (0x2C20 + k.val) 1 0x06090030)) ∧
        (∀ v : BitVec 8, v.toNat ≤ 1 → c.link = .off ∨ c.link = .wrongDevice ∨ v = 1 ∧ (t.state = .tripped ∨ t.state = .locked) →
          Completes (.command src k v) s (RefusedWith s src (0x2C20 + k.val) 1 0x08000022)) ∧
        (c.link ≠ .off → c.link ≠ .wrongDevice →
          (t.state ≠ .tripped → t.state ≠ .locked → Completes (.command src k 1) s fun d =>
            WriteAnswered d src (0x2C20 + k.val) 1 0 ∧ d.load.ch[k].command = true ∧
            (t.state = .off → d.load.ch[k].state =
              if chCfg s.dev k 0x0A ≠ 0 then .pulseGap else if c.link = .running then .inrush else .supplyHold) ∧
            (t.state ≠ .off → d.load.ch[k].state = t.state)) ∧
          Completes (.command src k 0) s fun d => WriteAnswered d src (0x2C20 + k.val) 1 0 ∧ d.load.ch[k].command = false ∧
            d.load.ch[k].refillAt = none ∧ (t.latched = false → d.load.ch[k].retries = chCfg s.dev k 6) ∧
            (t.state = .thermalLatch ∨ t.state = .locked ∨ t.state = .supplyHold → d.load.ch[k].state = t.state) ∧
            (t.state ≠ .thermalLatch → t.state ≠ .locked → t.state ≠ .supplyHold → d.load.ch[k].state = .off))) ∧
      (MayWrite s.dev src (0x2C10 + n.val) 0x0A → ∀ v : BitVec 8,
        ((∃ j : Fin 32, compOf j = n ∧ v.getLsbD (j.val % 8) = true ∧ s.dev.load.ch[j].state ≠ .locked) →
          Completes (.unlock src n v) s (RefusedWith s src (0x2C10 + n.val) 0x0A 0x08000022)) ∧
        ((∀ j : Fin 32, compOf j = n → v.getLsbD (j.val % 8) = true → s.dev.load.ch[j].state = .locked) →
          Completes (.unlock src n v) s fun d => WriteAnswered d src (0x2C10 + n.val) 0x0A 0 ∧
            (v.getLsbD (k.val % 8) = true → d.load.ch[k] = { t with
              state := if t.latched then .thermalLatch else .off
              windowEnd := none
              extended := false
              bins := []
              command := false
              refillAt := none
              spentAtLatch := false }) ∧
            (v.getLsbD (k.val % 8) = false → d.load.ch[k] = t)))

/-- R447 to R450, R453 to R459, R467: the host registers. -/
def Obligations.HostRegistersActAsGivenOnBothPaths : Prop :=
  ∀ s : State,
    let h := s.dev.host
    let blockReset := fun (d : Dev) => d.host.intStatus = 0 ∧ d.host.enMsi = 0 ∧ d.host.scratch = 0 ∧ d.host.tcap = HostS.reset.tcap ∧
      d.host.mbPcie = { Mailbox.reset with discard := h.mbPcie.busy || h.mbPcie.discard } ∧
      (∀ r : Fin 10, d.host.rings[r] = { Ring.reset with session := h.rings[r].session }) ∧ Framed [.host, .ints, .mail] s.found d
    (∀ path : HostPath, pathAlive s.dev path = false → ∀ (v : Word32) (r : Fin 10),
      ∀ c ∈ [.intStatusClear path v, .timeLoRead path, .tcapTrigger path, .tcapHiRead path, .tcapStatusRead path,
        .hspStatusRead path, .dropsRead path r, .ringEnable path r, .ringDisable path r, .tail path r v],
      Completes c s (Framed [] s.found)) ∧
    (∀ path : HostPath, pathAlive s.dev path = true →
      let shows := fun (off v : Nat) (d : Dev) => Out.hostReg path off (BitVec.ofNat 32 v) ∈ d.out
      (∀ v : Word32, Completes (.intStatusClear path v) s fun d => d.host.intStatus = h.intStatus &&& ~~~v ∧
        (∀ k : Fin 16, k.val < 12 → vectorActive d.host k = true →
          if h.msiMask[k] then d.host.msiPending[k] = true else Out.msi k ∈ d.out) ∧ Framed [.out, .ints] s.found d) ∧
      (Completes (.timeLoRead path) s fun d => shows 0x60 (trainTime s.dev % 2 ^ 64) d ∧
        snapOf d.host path = ⟨BitVec.ofNat 64 (trainTime s.dev), s.dev.time.state.code, s.dev.time.stepGen % 8⟩ ∧
        (∀ q : HostPath, q ≠ path → snapOf d.host q = snapOf h q) ∧ Framed [.out, .host] s.found d) ∧
      (Completes (.tcapTrigger path) s fun d => d.host.intStatus = h.intStatus ||| BitVec.ofNat 32 (2 ^ 26) ∧ d.host.tcap =
        if path = .serial ∧ h.tcap.valid = true ∧ h.tcap.path = 1 ∧ h.tcap.ns = BitVec.ofNat 64 (trainTime s.dev) then
          { h.tcap with replaced := true, count := (h.tcap.count + 1) % 65536 }
        else
          { ns := BitVec.ofNat 64 (trainTime s.dev), valid := true, replaced := h.tcap.replaced || h.tcap.valid,
            path := if path = .pcie then 1 else 2, stepGen := s.dev.time.stepGen % 8, count := (h.tcap.count + 1) % 65536 }) ∧
      (Completes (.tcapHiRead path) s fun d => shows 0x74 (h.tcap.ns.toNat / 2 ^ 32) d ∧
        d.host = { h with tcap := { h.tcap with valid := false } } ∧ Framed [.out, .host] s.found d) ∧
      (Completes (.tcapStatusRead path) s fun d => d.host = { h with tcap := { h.tcap with replaced := false } } ∧
        shows 0x78 ((if h.tcap.valid then 1 else 0) + (if h.tcap.replaced then 2 else 0) + 4 * h.tcap.path + 16 * h.tcap.stepGen +
          65536 * h.tcap.count) d ∧ Framed [.out, .host] s.found d) ∧
      (Completes (.hspStatusRead path) s fun d => shows 0x80 (h.hspBad + 256 * h.hspUnknown) d ∧
        d.host = { h with hspBad := 0, hspUnknown := 0 } ∧ Framed [.out, .host] s.found d) ∧
      ∀ r : Fin 10, Completes (.dropsRead path r) s fun d =>
        shows (0x11C + 0x20 * r.val) (if path = .serial then 0 else h.rings[r].drops) d ∧
        (path = .serial → d.host = h) ∧ (path = .pcie → d.host.rings[r] = { h.rings[r] with drops := 0 }) ∧
        Framed [.out, .host] s.found d) ∧
    (pathAlive s.dev .serial = true →
      (∀ (a : BitVec 16) (data : List Byte) (count crc : Byte),
        let sound : Prop := data.length = 4 * (count.toNat + 1) ∧
          crcKind 1 (beBytes 1 2 ++ beBytes 2 a.toNat ++ beBytes 1 count.toNat ++ data) = crc.toNat
        (¬ sound → Completes (.serialWrite ⟨a, count⟩ data crc) s fun d =>
          d.host = { h with serialRefused := true, hspBad := min 0xFF (h.hspBad + 1) } ∧ Framed [.host] s.found d) ∧
        (sound → count = 0 →
          (a = 0x18 → Completes (.serialWrite ⟨a, count⟩ data crc) s fun d => d.host = { h with
            serialRefused := false, scratch := BitVec.ofNat 32 (leNat data) } ∧ Framed [.host] s.found d) ∧
          (0x100 ≤ a.toNat → a.toNat < 0x240 → Completes (.serialWrite ⟨a, count⟩ data crc) s fun d =>
            d.host = { h with serialRefused := false } ∧ Framed [.host] s.found d))) ∧
      (∀ a : BitVec 13, a.toNat % 4 = 0 → Completes (.serialRead a 1) s fun d => d.host.serialRefused = false ∧
        let body := leBytes 1 (0xA0 + (if hostIntLow s.dev then 8 else 0) + (if h.serialRefused then 4 else 0)) ++
          leBytes 4 (readOne .serial a.toNat s.found).1
        Out.serialReply (body ++ leBytes 1 (crcKind 1 body)) ∈ d.out ∧ Framed [.out, .host] s.found d) ∧
      ∀ b : BitVec 8, Completes (.serialUnknownCommand b) s fun d => Framed [.host] s.found d ∧
        d.host = { h with serialRefused := true, hspUnknown := min 0xFF (h.hspUnknown + 1) }) ∧
    (s.dev.pins.strapPcie = true →
      (Completes .perstNFall s fun d => blockReset d ∧ d.host.perst = true ∧ d.host.linkUp = false ∧ d.host.enPin = 0 ∧
        d.host.mbSerial = { Mailbox.reset with discard := h.mbSerial.busy || h.mbSerial.discard }) ∧
      (Completes .perstNRise s fun d => d.host = { h with
        perst := false, linkUp := hostPowered s.dev, wakeLow := false } ∧ Framed [.host] s.found d) ∧
      (h.linkUp = true → Completes .functionLevelReset s fun d => blockReset d ∧ d.host.mbSerial = h.mbSerial ∧
        d.host.snapSerial = h.snapSerial ∧ d.host.hspBad = h.hspBad ∧ d.host.hspUnknown = h.hspUnknown ∧ d.host.linkUp = true)) ∧
    (s.dev.pins.strapPcie = false → ∀ c ∈ [.perstNFall, .perstNRise, .functionLevelReset], Completes c s (Framed [] s.found))

/-- R459 to R466: the rings. -/
def Obligations.RingsFetchStopAndWriteBackAsGiven : Prop :=
  ∀ (s : State) (r : Fin 10),
    let g := s.dev.host.rings[r]
    let written := fun (i off : Nat) (bs : List Byte) (d : Dev) => Out.dmaWrite r.val (descAddr g i + off) bs ∈ d.out
    let inOrder := fun (i : Nat) => g.running = true ∧ g.head = i ∧ g.doneEarly = [] ∧ g.size ≠ 0
    let stopped := fun (code : Nat) (d : Dev) => d.host.rings[r] = { g with running := false, error := code, reading := none } ∧
      d.host.intStatus.getLsbD 29 = true
    (pathAlive s.dev .serial = true → ∀ v : Word32, ∀ c ∈ [.ringEnable .serial r, .ringDisable .serial r, .tail .serial r v],
      Completes c s (Framed [] s.found)) ∧
    (pathAlive s.dev .pcie = true →
      (g.enable = true → Completes (.ringEnable .pcie r) s (Framed [] s.found)) ∧
      (g.enable = false → Completes (.ringEnable .pcie r) s fun d => d.host.rings[r].enable = true ∧ d.host.rings[r].head = 0 ∧
        d.host.rings[r].tail = 0 ∧ d.host.rings[r].running = sizeOk g.size ∧
        d.host.rings[r].error = (if sizeOk g.size then 0 else 1) ∧ Framed [.out, .host, .ints] s.found d) ∧
      (Completes (.ringDisable .pcie r) s fun d => d.host.rings[r].enable = false ∧ d.host.rings[r].running = false ∧
        d.host.rings[r].error = 0 ∧ d.host.rings[r].reading = none ∧ d.host.rings[r].head = g.head ∧ d.out = [] ∧
        Framed [.host] s.found d) ∧
      ∀ v : Word32,
        (g.enable = false → Completes (.tail .pcie r v) s (Framed [] s.found)) ∧
        (g.enable = true → Completes (.tail .pcie r v) s fun d => d.host.rings[r].tail = v.toNat % 4096 ∧
          (g.running = true → g.reading = none → g.fetch ≠ v.toNat % 4096 → r ≠ 8 ∨ g.ready = [] →
            Out.dmaRead r.val (descAddr g g.fetch) 32 ∈ d.out ∧
            d.host.rings[r].reading = some ⟨.descriptor g.fetch, s.dev.now + 50 * msNs⟩) ∧ Framed [.out, .host] s.found d)) ∧
    (g.running = true → Completes (.dmaError r) s fun d => stopped (if g.reading.isSome then 2 else 4) d) ∧
    (g.running = false → Completes (.dmaError r) s (Framed [] s.found)) ∧
    (∀ x : DmaRead, g.reading = some x → Completes (.dmaCompletionTimeout r) s fun d =>
      stopped 3 d ∧ d.now = max s.dev.now x.deadline) ∧
    (∀ (i t : Nat) (desc : List Byte), g.reading = some ⟨.descriptor i, t⟩ → desc.length = 32 →
      (r.val < 4 → txMalformed s.dev desc = false → Completes (.dmaReadCompletion r desc) s fun d =>
        d.host.rings[r].fetch = g.after i ∧ Out.dmaRead r.val (leNat (slice desc 0 8)) (leNat (slice desc 8 2)) ∈ d.out ∧
        d.host.rings[r].reading = some ⟨.buffer i desc, s.dev.now + 50 * msNs⟩) ∧
      (r.val < 4 → txMalformed s.dev desc = true → inOrder i → Completes (.dmaReadCompletion r desc) s
        (written i 24 [4, 0, 0, 0, 0, 0, 0, 0])) ∧
      (4 ≤ r.val → r ≠ 8 → s.dev.fab.hostQueue = [] → Completes (.dmaReadCompletion r desc) s fun d =>
        d.host.rings[r].ready = g.ready ++ [(i, desc)])) ∧
    (∀ (i t : Nat) (desc buf : List Byte) (p : Port), g.reading = some ⟨.buffer i desc, t⟩ → r.val < 4 → txPort desc = some p →
      portUp s.dev p = false → protocolOnly s.dev p = false → queued s.dev = [] → s.dev.fab.hostQueue = [] →
      s.dev.fab.sentUids = [] → inOrder i →
      Completes (.dmaReadCompletion r buf) s (written i 24 [3, 0, 0, 0, 0, 0, 0, 0])) ∧
    (r = 8 →
      (∀ (i t : Nat) (desc block : List Byte), g.reading = some ⟨.buffer i desc, t⟩ → Completes (.dmaReadCompletion r block) s fun d =>
        let k := Fin.ofNat 64 (blockStream desc).1
        d.strm.s[k].buffer = s.dev.strm.s[k].buffer ++ block ∧ written i 14 [0, 0] d) ∧
      ∀ (i : Nat) (desc : List Byte) (rest : List (Nat × List Byte)) (k : Fin 64), g.ready = (i, desc) :: rest →
        (blockStream desc).1 = k.val → g.running = true → g.reading = none →
        (∀ st : Nat, blockStatus s.dev desc = some st → Completes (.sampleFetch k) s fun d =>
          written i 14 (blockTail st 0) d ∧ d.host.rings[r].head = (i + 1) % (max 1 g.size)) ∧
        (blockStatus s.dev desc = none →
          let ch := max 1 (strmReg s.dev k 5)
          let n := (blockStream desc).2
          (s.dev.strm.s[k].buffer.length / (4 * ch) + n ≤ 1024 → Completes (.sampleFetch k) s fun d =>
            Out.dmaRead 8 (leNat (slice desc 0 8)) (4 * n * ch) ∈ d.out ∧
            d.host.rings[r].reading = some ⟨.buffer i desc, s.dev.now + 50 * msNs⟩) ∧
          (1024 < s.dev.strm.s[k].buffer.length / (4 * ch) + n → Completes (.sampleFetch k) s (Framed [] s.found)))) ∧
    ∀ t : Nat, g.lastInt = some t → g.deferred = true → Completes (.ringModerationEnd r) s fun d =>
      d.now = max s.dev.now (t + g.moderation * 10 * usNs) ∧ d.host.intStatus.getLsbD (16 + r.val) = true ∧
      d.host.rings[r] = { g with lastInt := some d.now, deferred := false }

/-- R474 to R478, R487, R498, R501, R503: supplies and resets. -/
def Obligations.SuppliesAndResetsStopAndRestartTheNodeAsGiven : Prop :=
  ∀ s : State,
    let p := s.dev.pow
    let counter := fun (sub : Nat) (d : Dev) => cfg d 0x2D05 sub = min 0xFFFFFFFF (cfg s.dev 0x2D05 sub + 1)
    let boots := fun (cause : Nat) (d : Dev) => d.pow.state = .booting ∧ d.pow.bootStep = 1 ∧ d.pow.bootCause = cause ∧
      d.pow.railCore = true ∧ d.pow.railDeadline = some (d.now + 20 * msNs) ∧ d.pow.safeN = false ∧ d.pow.resetOutN = false ∧
      d.pow.bypassA = false ∧ d.pow.bypassB = false
    let held := fun (cause : Nat) (d : Dev) => d.pow.state = .resetHeld ∧ d.pow.bootCause = cause ∧ d.pow.railCore = false ∧
      d.pow.railDdr = false ∧ d.pow.bypassA = false ∧ d.pow.bypassB = false ∧ d.pow.safeN = false ∧ d.pow.resetOutN = false ∧
      d.pow.agentReady = false ∧ d.pow.booted = false ∧ d.pow.latch = p.latch ∧ d.pow.episode = p.episode ∧
      d.sleep.history = s.dev.sleep.history ∧ d.dict.epoch = 0 ∧ d.dict.copy0 = s.dev.dict.copy0 ∧
      counter (if cause = 4 then 4 else 3) d
    (∀ (core : Bool) (mv : BitVec 16), p.porN = true → p.state ≠ .resetHeld → (core = true → p.railCore = true) →
      let warned := if core then p.warnCore else p.warnIo
      (warned = true → Completes (.supplyWarning core mv) s (Framed [.node, .regs] s.found)) ∧
      (warned = false → Completes (.supplyWarning core mv) s fun d => d.host.intStatus.getLsbD 3 = true ∧
        counter (if core then 2 else 1) d ∧ (if core then d.node.vcore else d.node.vddio) = mv.toNat ∧
        (if core then d.pow.warnCore else d.pow.warnIo) = true ∧ (core = false → d.pow.warnIoAt = some s.dev.now) ∧
        (s.dev.recd.state ≠ .off → d.recd.state = .closed) ∧
        (s.dev.node.profile = 2 → d.node.profile = s.dev.node.before))) ∧
    (∀ core : Bool,
      let warned := if core then p.warnCore else p.warnIo
      let other := if core then p.warnIo else p.warnCore
      (warned = false → Completes (.supplyWarningClear core) s (Framed [] s.found)) ∧
      (warned = true → Completes (.supplyWarningClear core) s fun d => (if core then d.pow.warnCore else d.pow.warnIo) = false ∧
        (if core then 710 ≤ d.node.vcore else 3100 ≤ d.node.vddio) ∧
        (other = true → d.recd = s.dev.recd) ∧
        (other = false → s.dev.recd.state = .closed →
          if s.dev.recd.mediumFailed then d.recd.state = .ring else d.recd.state = .writeBack ∨ d.recd.state = .logging))) ∧
    (∀ r : Rail,
      (resetCounts r s.dev = false → Completes (.supplyReset r) s (Framed [] s.found)) ∧
      (resetCounts r s.dev = true → Completes (.supplyReset r) s fun d => held (causeOf r) d ∧ (s.dev.Valid →
        cfg d 0x2D01 5 = match p.warnIoAt with
          | some t => if r = .vddioA then (s.dev.now - t) / usNs else 0
          | none => 0))) ∧
    (∀ io : Bool,
      (resetCounts (if io then .pgIo else .pgCore) s.dev = false → Completes (.powerGoodLoss io) s (Framed [] s.found)) ∧
      (resetCounts (if io then .pgIo else .pgCore) s.dev = true → Completes (.powerGoodLoss io) s (held 4))) ∧
    (p.state = .resetHeld → p.porN = true → s.dev.pins.testMode = false → p.pgCore = false → p.bootCause ≤ 5 → Completes .supplyReturn s fun d =>
      boots p.bootCause d ∧ d.pow.warnIo = false ∧
      d.now = match p.enablesFellAt with
        | some t => max s.dev.now (t + 10 * msNs)
        | none => s.dev.now) ∧
    (Completes .porNAsserted s fun d => d.now = 0 ∧ d.pow = { PowerS.reset with partA := p.partA, partB := p.partB } ∧
      d.dict = { DictS.reset with copy0 := s.dev.dict.copy0, copy1 := s.dev.dict.copy1 } ∧ d.sleep = SleepS.reset ∧
      d.recd.log = s.dev.recd.log ∧ d.recd.tarn = s.dev.recd.tarn ∧ d.sec.lifecycle = s.dev.sec.lifecycle ∧
      d.sec.fwVersion = s.dev.sec.fwVersion ∧ d.chip = s.dev.chip) ∧
    (∀ (straps : BitVec 4) (test : Bool),
      (p.porN = true → Completes (.porNReleased straps test) s (Framed [] s.found)) ∧
      (p.porN = false → p.pgCore = false → Completes (.porNReleased straps test) s fun d => d.pow.porN = true ∧
        d.pins.strapPcie = straps.getLsbD 0 ∧ d.pins.strapHsp = straps.getLsbD 1 ∧ d.pins.strapW8 = straps.getLsbD 2 ∧
        d.pins.strapPmb = straps.getLsbD 3 ∧
        if test = true ∧ s.dev.sec.lifecycle = 1 then d.pins.testMode = true ∧ d.pow.state = p.state
        else d.pins.testMode = false ∧ boots 1 d)) ∧
    ∀ src : Src, Served s.dev src → MayWrite s.dev src 0x2D02 1 →
      (warmRefused s.dev = true → Completes (.warmReset src) s (RefusedWith s src 0x2D02 1 0x08000022)) ∧
      (warmRefused s.dev = false → Completes (.warmReset src) s fun d => WriteAnswered d src 0x2D02 1 0 ∧
        d.pow.state = .booting ∧ d.pow.bootCause = 5 ∧ d.pow.agentReady = false ∧ d.pow.booted = false ∧ d.pow.latch = p.latch ∧
        (s.dev.Valid → counter 5 d ∧ ∀ k ∈ [1, 2, 3, 4, 6, 7, 9, 10], cfg d 0x2D05 k = 0))

/-- R471, R480 to R485, R489, R491, R498, R502: the boot and firmware images. -/
def Obligations.TheBootTakesItsStepsAndItsImageAsGiven : Prop :=
  ∀ s : State,
    let p := s.dev.pow
    let candidate := fun (b : Bool) => Partition.candidate (partOf s.dev b)
    let noImage := fun (d : Dev) => d.pow.bootStep = 2 ∧ d.pow.selectRetry = some (d.now + 10 * sNs) ∧ d.pow.readyDeadline = none ∧
      d.pow.resetOutN = false ∧ d.pow.bypassA = false ∧ d.pow.bypassB = false
    let startsA := fun (d : Dev) => d.pow.bootStep = 3 ∧ d.pow.resetOutN = true ∧ d.pow.railDdr = true ∧ d.pow.bootedB = false ∧
      d.pow.readyDeadline ≠ none ∧ d.recd.state = .scanning ∧
      d.pow.partA = if p.partA.state = .confirmed then p.partA else
        { p.partA with state := .trial, trialBoots := p.partA.trialBoots + 1 }
    let takesA : Prop := s.dev.sec.lifecycle ≠ 4 ∧ candidate false = true ∧ imageLoads s.dev false = true ∧
      (candidate true = true → p.partB.generation ≤ p.partA.generation)
    (p.state = .booting → p.bootStep = 1 → p.railCore = true → p.pgCore = false → p.seqState ≠ .recoveryHeld → p.bootCause ≠ 6 →
      (candidate false = false → candidate true = false → Completes .pgCoreRise s fun d =>
        noImage d ∧ d.pow.pgCore = true ∧ d.pow.railDdr = true ∧ d.now = s.dev.now + 500 * usNs) ∧
      (takesA → Completes .pgCoreRise s fun d => startsA d ∧ d.pow.pgCore = true ∧ d.now = s.dev.now + 500 * usNs)) ∧
    (p.railDdr = true → p.pgIo = false → Completes .pgIoRise s fun d => d.pow =
      { p with pgIo := true, railDeadline := if p.bootStep = 1 then p.railDeadline else none } ∧ Framed [.pow] s.found d) ∧
    (∀ t : Nat, p.railDeadline = some t → Completes .railEnableTimeout s fun d => d.now = max s.dev.now t ∧ d.pow.railCore = false ∧
      d.pow.railDdr = false ∧ d.pow.bootStep = 1 ∧ d.pow.railRetry = some (d.now + sNs) ∧
      cfg d 0x2D05 0x0A = min 0xFFFFFFFF (cfg s.dev 0x2D05 0x0A + 1)) ∧
    (∀ t : Nat, p.railRetry = some t → Completes .railEnableRetry s fun d => d.now = max s.dev.now t ∧ d.pow = { p with
      railRetry := none, railCore := true, railDeadline := some (d.now + 20 * msNs), enablesFellAt := none } ∧
      Framed [.clock, .counters, .pow] s.found d) ∧
    (∀ t : Nat, p.selectRetry = some t →
      (candidate false = false → candidate true = false → Completes .imageSelectionRetry s fun d =>
        noImage d ∧ d.now = max s.dev.now t) ∧
      (takesA → Completes .imageSelectionRetry s fun d => startsA d ∧ d.pow.selectRetry = none ∧ d.now = max s.dev.now t)) ∧
    (p.agentReady = false → p.readyDeadline ≠ none →
      (p.booted = true → Completes .controlComplexReady s fun d => d.pow.agentReady = true ∧ d.host.intStatus.getLsbD 2 = true ∧
        d.pow.readyDeadline = none ∧
        d.pow.watchdogDeadline = (if s.dev.sec.halted then none else some (s.dev.now + cfg s.dev 0x2D03 1 * msNs)) ∧
        (p.seqState = .holding → d.pow.seqState = .watching ∧
          d.pow.stableDeadline = some (s.dev.now + cfg s.dev 0x2D03 3 * sNs)) ∧
        (p.seqState ≠ .holding → d.pow.seqState = p.seqState)) ∧
      (p.booted = false → p.bootStep = 3 → Completes .controlComplexReady s fun d => d.pow.agentReady = true ∧
        d.pow.bootStep = 8 ∧ d.dict.copy0.marked = false ∧ d.dict.copy1.marked = false ∧
        (bootCopy s.dev = none → d.dict.mem = [] ∧ ∀ k : Nat, isStored k = true → Store.find odDefault d.dict.od k = odDefault k) ∧
        ∀ c : CfgCopy, bootCopy s.dev = some c → d.dict.mem = c.tables ∧ (s.dev.Valid → ∀ k : Nat, isStored k = true →
          Store.find odDefault d.dict.od k = Store.find odDefault c.values k))) ∧
    (∀ t : Nat, p.confirmDeadline = some t → s.dev.node.profile ≠ 4 → p.agentReady = true →
      (partOf s.dev p.bootedB).state = .trial → Completes .imageConfirm s fun d => d.now = max s.dev.now t ∧
        partOf d p.bootedB = { partOf s.dev p.bootedB with state := .confirmed } ∧
        d.sec.fwVersion = max s.dev.sec.fwVersion (partOf s.dev p.bootedB).security ∧ d.pow.confirmDeadline = none) ∧
    (∀ x : Partition, p.fwWriting = some x →
      (emmcReady s.dev = true → Completes .firmwareWriteEnd s fun d => partOf d (!p.bootedB) = x ∧
        partOf d p.bootedB = partOf s.dev p.bootedB ∧ d.pow.fwWriting = none ∧ cfg d 0x2D04 7 = 4) ∧
      (emmcReady s.dev = false → Completes .firmwareWriteEnd s fun d => partOf d (!p.bootedB) = partOf s.dev (!p.bootedB) ∧
        d.pow.fwWriting = none ∧ cfg d 0x2D04 7 = 7)) ∧
    ∀ src : Src, Served s.dev src → MayWrite s.dev src 0x2D04 5 → MayWrite s.dev src 0x2D04 6 →
      let busy : Prop := cfg s.dev 0x2D04 7 = 2 ∨ cfg s.dev 0x2D04 7 = 3
      (busy → Completes (.verifyAndWrite src) s (RefusedWith s src 0x2D04 6 0x08000022)) ∧
      (¬ busy →
        (∀ (off : BitVec 32) (data : List Byte), overlong (writeOf src 0x2D04 5 off.toNat data) = false →
          off.toNat ≤ (presentBytes s.dev 0x2D04 5).length → off.toNat + data.length ≤ 8388608 →
          Completes (.firmwareImageData src off data) s fun d => WriteAnswered d src 0x2D04 5 0 ∧ cfg d 0x2D04 7 = 1 ∧
            d.pow.fwImage = if off = 0 then data else splice (presentBytes s.dev 0x2D04 5) off.toNat data) ∧
        (firmwareVerdict s.dev p.fwImage = 0 → Completes (.verifyAndWrite src) s fun d => WriteAnswered d src 0x2D04 6 0 ∧
          cfg d 0x2D04 7 = 3 ∧ d.pow.fwWriting = some (firmwarePartition s.dev p.fwImage) ∧
          partOf d (!p.bootedB) = { partOf s.dev (!p.bootedB) with magicOk := false }) ∧
        (∀ code : Nat, code ≠ 0 → firmwareVerdict s.dev p.fwImage = code → Completes (.verifyAndWrite src) s fun d =>
          WriteAnswered d src 0x2D04 6 code ∧ cfg d 0x2D04 7 = (if code = 0x0F000007 then 5 else 6) ∧ d.pow = p)) ∧
      (s.dev.Valid → Completes (.firmwareAbandon src) s fun d => WriteAnswered d src 0x2D04 6 0 ∧ cfg d 0x2D04 7 = 0 ∧
        d.pow = { p with fwWriting := none, fwImage := [] })

/-- R28, R473, R489 to R496, R401, R570: the recovery sequencer and the platform's outputs. -/
def Obligations.TheSequencerWatchesRestartsAndRecoversAsGiven : Prop :=
  ∀ s : State,
    let p := s.dev.pow
    let counter := fun (sub : Nat) (d : Dev) => cfg d 0x2D05 sub = min 0xFFFFFFFF (cfg s.dev 0x2D05 sub + 1)
    let holds := fun (d : Dev) => d.pow.seqState = .holding ∧ d.pow.episode = min 3 (p.episode + 1) ∧
      d.pow.restarts = min 15 (p.restarts + 1) ∧ d.pow.safeN = false ∧ d.pow.readyDeadline ≠ none
    (p.agentReady = true → Completes .watchdogWrite s fun d => Framed [.pow] s.found d ∧ d.pow = { p with
      watchdogDeadline := if s.dev.sec.halted then none else some (s.dev.now + setting s.dev 0x2D03 1 * msNs) }) ∧
    (p.agentReady = false → Completes .watchdogWrite s (Framed [] s.found)) ∧
    (∀ t : Nat, (if p.agentReady then p.watchdogDeadline else p.readyDeadline) = some t →
      Completes .watchdogTrip s fun d => d.now = max s.dev.now t ∧ d.pow.agentReady = false ∧ d.dict.staged = [] ∧
        d.dict.sessions = [] ∧ counter 6 d ∧
        (s.dev.sleep.state = .committing → d.pow.seqState = p.seqState ∧ d.pow.readyDeadline = none) ∧
        (s.dev.sleep.state ≠ .committing →
          (p.seqState = .watching → p.stableDeadline = none → holds d ∧ cfg d 0x2D05 7 = cfg s.dev 0x2D05 7) ∧
          (p.seqState = .holding ∨ p.seqState = .watching ∧ p.stableDeadline ≠ none → counter 7 d ∧
            (p.episode < 3 → holds d) ∧
            (3 ≤ p.episode → d.pow.seqState = .recovery ∧ d.pow.latch = true ∧ d.node.profile = 4 ∧ d.pow.safeN = false ∧
              cfg d 0x2001 6 = (if p.epochAppliedBeforeEpisode then 1 else 2) ∧ d.pow.readyDeadline ≠ none ∧
              d.pow.bypassA = p.booted ∧ d.pow.bypassB = p.booted)) ∧
          (p.seqState = .recovery ∨ p.seqState = .recoveryHeld → d.pow.seqState = .recoveryHeld ∧ d.pow.readyDeadline = none ∧
            d.pow.safeN = false))) ∧
    (∀ t : Nat, p.stableDeadline = some t → Completes .stableTime s fun d => d.now = max s.dev.now t ∧
      d.pow = { p with stableDeadline := none, episode := if p.seqState = .watching then 0 else p.episode } ∧
      Framed [.clock, .counters, .pow] s.found d) ∧
    (∀ t : Nat, p.wakeDeadline = some t → Completes .wakeBootTimeout s fun d => d.now = max s.dev.now t ∧
      d.pow = { p with wakeDeadline := none, bypassA := false, bypassB := false } ∧ Framed [.clock, .counters, .pow] s.found d) ∧
    (∀ b : Bool, Completes (.bypassRefreshLoss b) s fun d => Framed [.pow] s.found d ∧
      d.pow = { p with bypassA := p.bypassA && b, bypassB := p.bypassB && !b }) ∧
    (p.agentReady = true → Completes .heartbeatLoss s fun d => d.pow = { p with island40Failed := true } ∧
      (s.dev.recd.state ≠ .off → d.recd.state = .closed)) ∧
    (p.agentReady = false → Completes .heartbeatLoss s (Framed [] s.found)) ∧
    (∀ w : BitVec 16,
      (p.railCore = true → s.dev.pins.strapPmb = true → Completes (.pmbusAlert w) s fun d =>
        Out.pmbus 0x79 0 ∈ d.out ∧ Framed eventParts s.found d) ∧
      (p.railCore = false ∨ s.dev.pins.strapPmb = false → Completes (.pmbusAlert w) s (Framed [] s.found))) ∧
    ∀ (src : Src) (v : BitVec 8), Served s.dev src → MayWrite s.dev src 0x2D06 2 →
      (64 ≤ v.toNat → Completes (.gpioOutput src v) s (RefusedWith s src 0x2D06 2 0x06090030)) ∧
      (v.toNat < 64 → Completes (.gpioOutput src v) s (ActsAtOnce s src 0x2D06 2 (setReg 0x2D06 2 v.toNat)))

/-- R506 to R519, R524, R528: ageing, margins and counters. -/
def Obligations.SensorsPlannerTrackerAndSnapshotsActAsGiven : Prop :=
  ∀ s : State,
    let h := s.dev.health
    let counter := fun (idx sub : Nat) (d : Dev) => cfg d idx sub = min 0xFFFFFFFF (cfg s.dev idx sub + 1)
    let moves : Prop := voltageMoves s.dev = true
    let allowed : Prop := plannerAllowed s.dev = true ∧ cfgB s.dev 0x2E02 1 = true ∧ (h.planner = .idle ∨ h.planner = .held)
    let asks := fun (v : Nat) (d : Dev) => d.health.planner = .pending ∧ d.health.applyAt ≠ none ∧
      ∃ x, d.health.plan = some x ∧ x.vcore = some v ∧ x.clocks = []
    let raises := fun (d : Dev) => vcoreSet s.dev < cfg s.dev 0x2E02 4 → moves → asks (min (cfg s.dev 0x2E02 4) (vcoreSet s.dev + 10)) d
    let failed := fun (d : Dev) => d.health.planner = .idle ∧ d.health.plan = none ∧ d.health.confirmBy = none ∧
      counter 0x2E05 3 d ∧ ∀ (i : Fin 41) (c : Nat), h.undo = [(i.val, c)] → d.health.clocks[i] = c
    let snaps := fun (d : Dev) => (s.dev.Valid → cfg d 0x2E08 4 = (cfg s.dev 0x2E08 4 + 1) % 2 ^ 32 ∧ cfg d 0x2E08 5 = trainTime d) ∧
      ∀ i : Fin 64, if bitOf (cfg s.dev (0x2E10 + i.val) 1) 31 then d.health.counters[i].value = 0
        else d.health.counters[i].snap = d.health.counters[i].value
    (∀ (t : Nat) (rs : List SensorReading), h.scanDue = some t → Completes (.sensorScan rs) s fun d => d.now = max s.dev.now t ∧
      d.health.scanDue = some (t + cfg s.dev 0x2E01 1 * msNs) ∧
      (∀ i : Fin 128,
        (∀ r : SensorReading, rs[i.val]? = some r → islandMeasured s.dev (sensorIsland i.val) = true → d.health.sensors[i] =
          ⟨((1000000000000 / max 1 (clockHz s.dev (sensorIsland i.val)) : Nat) : Int) - r.delay, r.shift, true⟩) ∧
        (rs[i.val]? = none ∨ islandMeasured s.dev (sensorIsland i.val) = false → d.health.sensors[i].measured = false)) ∧
      (allowed → shortIslands d (cfg s.dev 0x2E01 3) ≠ [] →
        cfg d 0x2E05 2 = min 0xFFFFFFFF (cfg s.dev 0x2E05 2 + (shortIslands d (cfg s.dev 0x2E01 3)).length) ∧ raises d)) ∧
    (∀ t : Nat, h.planDue = some t → Completes .planningPeriod s fun d => d.now = max s.dev.now t ∧
      d.health.planDue = some (t + cfg s.dev 0x2E02 2 * sNs) ∧
      (allowed → shortIslands s.dev (cfg s.dev 0x2E01 2) ≠ [] → raises d) ∧
      (allowed → (∀ x ∈ measured s.dev, (cfg s.dev 0x2E01 2 : Int) + 40 ≤ x.2.slack) → h.prevAmple = true →
        (∀ i : Nat, i < 41 → clockStep i ≠ none → nominalClock i ≤ clockNow s.dev i) → cfg s.dev 0x2E02 3 < vcoreSet s.dev → moves →
        asks (max (cfg s.dev 0x2E02 3) (vcoreSet s.dev - 10)) d)) ∧
    (∀ (t : Nat) (x : Plan), h.applyAt = some t → h.plan = some x →
      (scheduleActive s.dev = true → s.dev.sched.switchPending = true ∨ s.dev.strm.switchPending = true ∨ s.dev.sched.lastSwitch = t ∨
        s.dev.sched.lastBoundary = t ∨ s.dev.strm.lastBoundary = some t ∨ (∃ a, s.dev.time.armed = some a ∧ a.point ≤ t) →
        Completes .planApply s fun d => counter 0x2E05 1 d ∧
        d.health.plan = some x ∧ d.health.planner = h.planner ∧ d.sched.guardAdd = s.dev.sched.guardAdd) ∧
      (scheduleActive s.dev = false ∨ s.dev.sched.switchPending = false ∧ s.dev.strm.switchPending = false ∧
          s.dev.inaug.accepted = none ∧ s.dev.sched.lastSwitch ≠ t ∧ s.dev.sched.lastBoundary ≠ t ∧
          s.dev.strm.lastBoundary ≠ some t ∧ (∀ a, s.dev.time.armed = some a → t < a.point) →
        Completes .planApply s fun d => d.sched.guardAdd = x.guardAdd ∧
          (∀ (i : Fin 41) (c : Nat), x.clocks = [(i.val, c)] → d.health.clocks[i] = c) ∧
          (x.vcore = none → d.health.planner = .idle ∧ d.health.plan = none ∧ counter 0x2E03 5 d) ∧
          ∀ v : Nat, x.vcore = some v →
            (s.dev.pow.warnIo = false → s.dev.pow.warnCore = false → Out.pmbus 0x21 v ∈ d.out ∧ d.health.planner = .confirming ∧
              d.health.commanded = v ∧ d.health.confirmBy = some (d.now + 2 * msNs)) ∧
            (s.dev.pow.warnIo = true ∨ s.dev.pow.warnCore = true → d.out = [] ∧ d.health.planner = h.planner ∧
              d.health.plan = some { x with clocks := [], eq := [] }))) ∧
    (∀ mv : BitVec 16,
      (h.planner ≠ .confirming → Completes (.readVout mv) s (Framed [] s.found)) ∧
      (h.planner = .confirming → Completes (.readVout mv) s fun d => d.node.vcore = mv.toNat ∧
        if h.commanded ≤ mv.toNat + 10 ∧ mv.toNat ≤ h.commanded + 10 then
          (s.dev.Valid → vcoreSet d = h.commanded) ∧ d.health.confirmBy = none ∧
          if ∃ x, h.plan = some x ∧ (x.followClocks ≠ [] ∨ x.followVcore ≠ none) then
            d.health.planner = .pending ∧ ∃ x y, h.plan = some x ∧ d.health.plan = some y ∧ y.clocks = x.followClocks ∧
              y.vcore = x.followVcore
          else d.health.planner = .idle ∧ d.health.plan = none ∧ counter 0x2E03 5 d
        else failed d)) ∧
    (∀ t : Nat, h.confirmBy = some t → h.planner = .confirming → Completes .readVoutTimeout s fun d =>
      failed d ∧ d.now = max s.dev.now t) ∧
    (∀ t : Nat, h.tracker.updateAt = some t → Completes .trackerUpdate s fun d => d.now = max s.dev.now t ∧
      d.health.tracker.updateAt = some (t + 10 * sNs) ∧ d.health.tracker.learning = trackerLearns s.dev ∧
      (cfg s.dev 0x2401 2 ≠ 0 → cfg d 0x2401 1 = cfg s.dev 0x2401 1) ∧
      (s.dev.Valid → cfg d 0x2401 1 ≤ cfg s.dev 0x2401 1 + 17 ∧ cfg s.dev 0x2401 1 ≤ cfg d 0x2401 1 + 17)) ∧
    (trackerLearns s.dev = false → Completes .trackerHourlyMean s (Framed [] s.found)) ∧
    (trackerLearns s.dev = true → Completes .trackerHourlyMean s fun d => Framed [.health] s.found d ∧
      d.health.tracker.learned = min 0xFFFFFFFF (h.tracker.learned + 1) ∧ d.health.tracker.count = 0 ∧
      d.health.tracker.estimate = meanOf d.health.tracker.hours ∧
      (h.tracker.count ≠ 0 → d.health.tracker.hours = (h.tracker.sum / h.tracker.count :: h.tracker.hours).take 24)) ∧
    (∀ t : Nat, h.recordDue = some t → Completes .healthRecordWrite s fun d => d.now = max s.dev.now t ∧
      d.health.recordDue = some (t + 86400 * sNs) ∧
      (emmcWorks s.dev = false → counter 0x2E05 4 d ∧ d.health.copy0 = h.copy0 ∧ d.health.copy1 = h.copy1) ∧
      (emmcWorks s.dev = true → ∃ c, c.valid = true ∧ c.generation = max h.copy0.generation h.copy1.generation + 1 ∧
        c.estimate = h.tracker.estimate ∧ c.drift = h.tracker.drift ∧ c.history = h.tracker.history ∧
        (d.health.copy0 = c ∧ d.health.copy1 = h.copy1 ∨ d.health.copy1 = c ∧ d.health.copy0 = h.copy0))) ∧
    (bitOf (cfg s.dev 0x2E08 1) 4 = true → Completes .snapshotPeriod s fun d =>
      if h.snapAt = some d.now then ∀ i : Fin 64, d.health.counters[i].snap = h.counters[i].snap else snaps d) ∧
    (bitOf (cfg s.dev 0x2E08 1) 4 = false → Completes .snapshotPeriod s (Framed [] s.found)) ∧
    ∀ src : Src, Served s.dev src →
      (MayWrite s.dev src 0x2E08 2 →
        (bitOf (cfg s.dev 0x2E08 1) 0 = true → Completes (.snapshotNow src) s fun d =>
          ActsAtOnce s src 0x2E08 2 snapshot d ∧ (h.snapAt ≠ some s.dev.now → (∀ id seq, src ≠ .kda id seq) → snaps d ∧
            ∀ i : Fin 64, d.health.counters[i].snap = h.counters[i].value)) ∧
        (bitOf (cfg s.dev 0x2E08 1) 0 = false → Completes (.snapshotNow src) s (ActsAtOnce s src 0x2E08 2 id))) ∧
      (MayWrite s.dev src 0x2E04 6 → Completes (.trackerReset src) s fun d =>
        ActsAtOnce s src 0x2E04 6 emptyTracker d ∧ d.health.tracker = { Tracker.reset with
          updateAt := h.tracker.updateAt, learning := h.tracker.learning, since := s.dev.now })

/-- R533, R534, R540, R546 to R549, R551: security. -/
def Obligations.DebugGrantsLifecycleAndKeysActAsGiven : Prop :=
  ∀ s : State,
    let x := s.dev.sec
    let counter := fun (sub : Nat) (d : Dev) => cfg d 0x2F05 sub = min 0xFFFFFFFF (cfg s.dev 0x2F05 sub + 1)
    let selects := fun (c : Instr) (i : DebugIr) => Completes c s fun d => d.sec = { x with ir := i } ∧ Framed [.sec] s.found d
    let noRoleKeys := fun (d : Dev) => ∀ k : Nat, isRoleKey k = true → Store.find odDefault d.dict.od k = odDefault k
    (x.level < 3 → ∀ c ∈ [.extest, .samplePreload, .scanTest], selects c .bypass) ∧
    (3 ≤ x.level → selects .samplePreload .samplePreload ∧
      (x.scanStarted = true → selects .extest .extest ∧ selects .scanTest .scanTest) ∧
      (x.scanStarted = false →
        (Completes .extest s fun d => d.sec = { x with ir := .extest, scanStarted := true } ∧ d.pow.safeN = false) ∧
        (Completes .scanTest s fun d => d.sec = { x with ir := .scanTest, scanStarted := true } ∧ d.pow.safeN = false))) ∧
    (Completes .idcode s fun d => d.sec = { x with ir := .idcode } ∧ Out.debug (leBytes 4 0x18840A77) ∈ d.out ∧
      Framed [.out, .sec] s.found d) ∧
    (∀ code : BitVec 5, selects (.bypass code) .bypass) ∧ selects .debugPortReset .idcode ∧
    (x.randomOk = true → Completes .authChallenge s fun d => d.sec.nonce.length = 40 ∧ Out.debug d.sec.nonce ∈ d.out ∧
      d.sec.nonce.drop 32 = beBytes 6 s.dev.chip.ident.toNat ++ leBytes 1 x.lifecycle ++ leBytes 1 x.level ∧
      s.dev.fresh < d.fresh ∧ Framed [.fresh, .out, .sec] s.found d) ∧
    (x.randomOk = false → Completes .authChallenge s fun d => d.sec = { x with ir := .authChallenge } ∧
      Out.debug (leBytes 4 0x0F00000A) ∈ d.out ∧ Framed [.out, .sec] s.found d) ∧
    (∀ token : List Byte,
      (x.authLockEnd ≠ none → selects (.authResponse token) .authResponse) ∧
      (x.authLockEnd = none → tokenOk s.dev token = false → Completes (.authResponse token) s fun d => counter 3 d ∧
        d.sec.level = x.level ∧ d.sec.grantEnd = x.grantEnd ∧
        d.sec.authLockEnd = if 2 ≤ (x.authFails.filter fun t => s.dev.now < t + 60 * sNs).length then
          some (s.dev.now + 60 * sNs) else none) ∧
      (x.authLockEnd = none → tokenOk s.dev token = true → x.level ≤ leNat (slice token 0 1) ∨ x.scanStarted = false →
        Completes (.authResponse token) s fun d => d.sec.level = leNat (slice token 0 1) ∧
          d.sec.grantEnd = some (s.dev.now + leNat (slice token 2 2) * 60 * sNs) ∧
          (leNat (slice token 0 1) = 3 → x.lifecycle = 2 → d.dict.sessions = []))) ∧
    (∀ op : DebugOp, x.level = 0 → selects (.debugAccess op) .bypass) ∧
    (1 ≤ x.level → selects (.debugAccess .observe) .debugAccess ∧ (x.level = 1 → selects (.debugAccess .halt) .debugAccess)) ∧
    (2 ≤ x.level →
      (Completes (.debugAccess .halt) s fun d => d.sec = { x with ir := .debugAccess, halted := true } ∧
        d.pow.watchdogDeadline = none ∧ d.pow.safeN = false) ∧
      (x.halted = true → s.dev.pow.agentReady = true → Completes (.debugAccess .resume) s fun d =>
        d.sec = { x with ir := .debugAccess, halted := false } ∧
        d.pow.watchdogDeadline = some (s.dev.now + setting s.dev 0x2D03 1 * msNs))) ∧
    (∀ t : Nat, x.grantEnd = some t → x.level ≠ 0 → Completes .grantExpiry s fun d => d.now = max s.dev.now t ∧
      d.sec.level = 0 ∧ d.sec.grantEnd = none ∧ d.sec.halted = false ∧ d.sec.lifecycle = x.lifecycle ∧
      (x.scanStarted = true → d.pow.state = .booting ∧ d.pow.booted = false ∧ d.pow.agentReady = false ∧ d.dict.epoch = 0)) ∧
    (∀ t : Nat, x.authLockEnd = some t → Completes .debugLockoutEnd s fun d => d.now = max s.dev.now t ∧
      d.sec = { x with authLockEnd := none, authFails := [] }) ∧
    (Completes .randomSourceFailure s fun d => d.sec = { x with randomOk := false } ∧ counter 5 d ∧
      Framed (.sec :: eventParts) s.found d) ∧
    (Completes .randomSourceRecovery s fun d => d.sec = { x with randomOk := true } ∧ Framed [.sec] s.found d) ∧
    ∀ src : Src, Served s.dev src →
      (MayWrite s.dev src 0x2F00 2 →
        (secureRefused s.dev = true → Completes (.secure src) s (RefusedWith s src 0x2F00 2 0x08000022)) ∧
        (secureRefused s.dev = false → x.scanStarted = false → Completes (.secure src) s fun d => WriteAnswered d src 0x2F00 2 0 ∧
          d.sec.lifecycle = 2 ∧ d.sec.positions = [(cfgBytes s.dev 0x2F01 1, false)] ∧ d.sec.level = 0) ∧
        (voidRefused s.dev = true → Completes (.void src) s (RefusedWith s src 0x2F00 2 0x08000022)) ∧
        (voidRefused s.dev = false → Completes (.void src) s fun d => WriteAnswered d src 0x2F00 2 0 ∧ d.sec.lifecycle = 4 ∧
          d.sec.positions = [] ∧ d.sec.keysZeroised = true ∧ noRoleKeys d ∧ d.dict.sessions = [] ∧ d.pow.state = .booting ∧
          d.pow.bootCause = 5 ∧ d.pow.agentReady = false)) ∧
      (MayWrite s.dev src 0x2F00 3 → ∀ token : List Byte, token.length = 176 →
        let barred : Prop := x.lifecycle ≠ 2 ∨ lifecycleBusy s.dev = true
        (barred → Completes (.returnToken src token) s (RefusedWith s src 0x2F00 3 0x08000022)) ∧
        (¬ barred → returnTokenOk s.dev token = false → Completes (.returnToken src token) s fun d =>
          WriteAnswered d src 0x2F00 3 0x0F000007 ∧ d.sec = x ∧ counter 4 d) ∧
        (¬ barred → returnTokenOk s.dev token = true → Completes (.returnToken src token) s fun d =>
          WriteAnswered d src 0x2F00 3 0 ∧ d.sec.lifecycle = 3 ∧ (∀ y ∈ d.sec.positions, y.2 = true) ∧ noRoleKeys d ∧
          d.dict.copy0.marked = true ∧ d.dict.copy1.marked = true ∧
          ∀ y ∈ d.dict.sessions, ∃ seq, src = .kda y.id seq))

/-- R73: where Springcount frames are accepted. -/
def Obligations.SpringcountFramesAreAcceptedOnlyOnTheirPorts : Prop :=
  ∀ (s : State) (p : Port) (h : ScHeader),
    let counts := fun (d : Dev) => portUp s.dev p = true → cfg d 0x2107 7 = min 0xFFFFFFFF (cfg s.dev 0x2107 7 + 1)
    let drops := fun (d : Dev) => Framed [.out, .regs, .recd, .sleep, .ints, .counters] s.found d ∧ counts d ∧
      ∀ q orig round seq segment hops more body, Out.springcount q orig round seq segment hops more body ∉ d.out
    (4 ≤ p.val →
      (∀ b : ProbeBody, Completes (.probe p h b) s drops ∧ Completes (.probeReply p h b) s drops) ∧
      (∀ lowest : Word48, Completes (.claim p h lowest) s drops) ∧
      Completes (.census p h) s drops ∧
      (∀ recs : List CensusRec, Completes (.report p h recs) s drops) ∧
      (∀ (b : CommitBody) (ids : List DirIds), Completes (.springcountCommit p h ⟨b, ids⟩) s drops) ∧
      (∀ count epoch : BitVec 16, Completes (.ack p h count epoch) s drops) ∧
      (∀ (cause : BitVec 8) (epoch : BitVec 16), Completes (.abort p h cause epoch) s drops) ∧
      (∀ epoch : BitVec 16, Completes (.commitRequest p h epoch) s drops) ∧
      ∀ (inhibit : Bool) (epoch : BitVec 16), Completes (.state p h inhibit epoch) s drops) ∧
    (twinPort s.dev ≠ some p → ∀ (primary : Bool) (epoch : BitVec 16) (partner : Word48),
      Completes (.pair p h primary epoch partner) s fun d =>
        Framed [.regs, .counters] s.found d ∧ d.out = [] ∧ counts d ∧
          RegsFramed [(0x2107, 7), (0x2300 + p.val, 0x23), (0x2300 + p.val, 0x24)] s.found d)

/-- R38: reads return committed values. -/
def Obligations.ReadsReturnTheCommittedValueAndNeverAStagedOne : Prop :=
  ∀ s : State,
    (∀ (src : Src) (i b : Nat) (row : EntryRow), Served s.dev src → i < 0x5000 → rowOf i b = some row →
      row.reads (roleOf s.dev src) = true → readRefused s.dev i b = false → computed s.dev i b = none →
      (0x2300 ≤ i ∧ i < 0x2314 → b ≠ 0x1C) →
      let answers := fun (a : Dev) (n : Nat) (d : Dev) =>
        let bs := encodeValue row.ty (a.dict.reg i b)
        Answered d src { idx := i, sub := b, write := false, abort := 0, data := slice bs 0 n, total := bs.length }
      match src with
      | .sdo c => ∀ (idx : BitVec 16) (sub size pst : BitVec 8), idx.toNat = i → sub.toNat = b →
        Completes (.sdoUpload c idx sub true .none) s (answers s.dev wholeValue) ∧
          (1 ≤ size.toNat → size.toNat ≤ 127 →
            Completes (.sdoBlockUpload c idx sub ⟨size, pst⟩ true .none) s (answers s.dev wholeValue))
      | .kda id seq => ∀ (h : KdaHeader) (x : KdaSession) (payload : List Byte) (len : Nat), h.session = id → h.seq = seq →
        InSession s.dev h payload.length x → x.stored ≠ none → seq = x.lastSeq + 1 → 12 ≤ payload.length →
        requestBlock payload = (i, b, 0, len) →
          Completes (.kdaRead h payload) s (answers (kdaRequest h payload.length (fun d => d) s.found) (min len 1400))
      | .pcie | .serial => ∀ path : HostPath, pathSrc path = src →
        let w := Memory.readBytes (mailboxOf s.dev.host path).window 0 4096
        leNat (slice w 0 1) = 0x10 → leNat (slice w 1 1) = b → leNat (slice w 2 2) = i → leNat (slice w 4 4) = 0 →
          Completes (.mbDoorbell path) s (answers s.dev (min (leNat (slice w 8 2)) 4080))) ∧
    ∀ staged : List Staged, staged.length = s.dev.dict.staged.length →
      let s' : State := { s with dev := onDict (fun q => { q with staged := staged }) s.dev }
      let alike := fun (c : Instr) => Completes c s fun d => Completes c s' fun d' =>
        d'.out = d.out ∧ Part.same d d' .mail ∧ Part.same d d' .regs ∧ Part.same d d' .tables
      (∀ (c : CanId) (idx : BitVec 16) (sub size pst : BitVec 8) (finished : Bool) (f : SdoFault),
        alike (.sdoUpload c idx sub finished f) ∧ alike (.sdoBlockUpload c idx sub ⟨size, pst⟩ finished f)) ∧
      (∀ (h : KdaHeader) (payload : List Byte), alike (.kdaRead h payload)) ∧
      ∀ path : HostPath, leNat (slice (Memory.readBytes (mailboxOf s.dev.host path).window 0 4096) 0 1) = 0x10 →
        alike (.mbDoorbell path)

/-- R355: the compare of the expected field. -/
def Obligations.TheExpectedFieldIsComparedUnderItsMask : Prop :=
  ∀ (s : State) (p : TrdpMsg) (k : Fin 64) (ch : Nat) (r : CheckRec), gwActive s.dev = true → p.msgType = 0x5064 →
    accepts s.dev p = some k → checkFor s.dev false true 0 k.val = some (ch, r) → r.expLen ≤ 4 → r.fits p.data.length = true →
    (r.kind = 0 ∨ crcKind r.kind (r.covered p.data) = r.field p.data) →
    let x := chkOf s.dev ch
    let step := (r.counter p.data + 2 ^ r.width - x.last % 2 ^ r.width) % 2 ^ r.width
    (r.width = 0 ∨ x.state = .initial ∨ 1 ≤ step ∧ step ≤ r.maxDelta) →
    let byte := fun (i : Nat) => ((p.data[r.expAt + i]?).getD 0).toNat
    let value := match r.expLen with
      | 0 => 0
      | 1 => byte 0
      | 2 => byte 0 * 0x100 + byte 1
      | 3 => byte 0 * 0x10000 + byte 1 * 0x100 + byte 2
      | _ => byte 0 * 0x1000000 + byte 1 * 0x10000 + byte 2 * 0x100 + byte 3
    Completes (.pdTelegram p) s fun d =>
      (r.expLen = 0 ∨ Nat.land value r.expMask = r.expValue →
        (chkOf d ch).passed = min 0xFFFFFFFF (x.passed + 1) ∧ (chkOf d ch).expectedFails = x.expectedFails) ∧
      (r.expLen ≠ 0 → Nat.land value r.expMask ≠ r.expValue →
        (chkOf d ch).expectedFails = min 0xFFFFFFFF (x.expectedFails + 1) ∧ (chkOf d ch).passed = x.passed ∧
          (chkOf d ch).state = .invalid ∧ (chkOf d ch).kind = 4)

/-- What the commands leave as they were. -/
def Obligations.TrainNetworkCommandsLeaveTheOtherPartsAlone : Prop :=
  ∀ s : State,
    let changes := fun (parts : List Part) (c : Instr) => Completes c s (Framed parts s.found)
    (let parts : List Part := [.fresh, .out, .regs, .inaug, .queues, .time, .sched, .strm, .recd, .sleep, .host, .ints, .counters]
     (∀ (p : Port) (h : ScHeader) (b : ProbeBody), changes parts (.probe p h b)) ∧
     (∀ (p : Port) (h : ScHeader) (b : ProbeBody), changes parts (.probeReply p h b)) ∧
     (∀ (p : Port) (sender : Word48) (fast : Bool), changes parts (.hello p sender fast)) ∧
     (∀ (p : Port) (sender : Word48) (topo : BitVec 32) (inhibit : Bool), changes parts (.topology p sender topo inhibit)) ∧
     (∀ (p : Port) (h : ScHeader) (recs : List CensusRec), changes parts (.report p h recs)) ∧
     (∀ (p : Port) (h : ScHeader) (cause : BitVec 8) (epoch : BitVec 16), changes parts (.abort p h cause epoch)) ∧
     (∀ (p : Port) (h : ScHeader) (inhibit : Bool) (epoch : BitVec 16), changes parts (.state p h inhibit epoch))) ∧
    (let parts : List Part := [.clock, .fresh, .out, .regs, .inaug, .queues, .time, .sched, .strm, .recd, .sleep, .host, .ints, .counters]
     (∀ (p : Port), changes parts (.probeRepeat p)) ∧
     (∀ (p : Port), changes parts (.probeLoss p)) ∧
     (∀ (p : Port), changes parts (.helloTimeout p)) ∧
     changes parts .settleTimer ∧
     changes parts .censusTimeout ∧
     changes parts .ackDeadline ∧
     changes parts .censusWaitTimeout ∧
     changes parts .commitWaitTimeout ∧
     (∀ (requester : Word48), changes parts (.stateSilence requester))) ∧
    (let parts : List Part := [.clock, .out, .regs, .inaug, .queues, .counters]
     (∀ (p : Port), changes parts (.helloPeriod p)) ∧
     changes parts .stateRepeat ∧
     changes parts .pairPeriod) ∧
    (∀ (p : Port) (h : ScHeader) (lowest : Word48), changes [.out, .regs, .inaug, .queues, .time, .sched, .strm, .recd, .sleep, .host, .ints, .counters] (.claim p h lowest)) ∧
    (let parts : List Part := [.out, .regs, .inaug, .queues, .recd, .sleep, .ints, .counters]
     (∀ (p : Port) (h : ScHeader), changes parts (.census p h)) ∧
     (∀ (p : Port) (h : ScHeader) (count : BitVec 16) (epoch : BitVec 16), changes parts (.ack p h count epoch))) ∧
    (∀ (p : Port) (h : ScHeader) (b : CommitFrame), changes [.fresh, .out, .regs, .inaug, .queues, .sched, .strm, .recd, .sleep, .ints, .counters] (.springcountCommit p h b)) ∧
    (let parts : List Part := [.clock, .out, .regs, .inaug, .queues, .time, .sched, .strm, .recd, .sleep, .host, .ints, .counters]
     changes parts .backOffEnd ∧
     changes parts .commitRequestTimeout) ∧
    changes [.clock, .fresh, .out, .regs, .inaug, .fab, .queues, .ports, .time, .sched, .strm, .recd, .sleep, .host, .ints, .health, .counters] .switchPoint ∧
    changes [.clock, .inaug, .fab, .counters] .overlapEnd ∧
    (∀ (t : TtdpTopology), changes [.fresh, .out, .regs, .inaug, .fab, .queues, .ports, .time, .sched, .strm, .recd, .ints, .health, .counters] (.ttdpTopologyValid t)) ∧
    (∀ (p : Port) (h : ScHeader) (epoch : BitVec 16), changes [.out, .regs, .inaug, .queues, .counters] (.commitRequest p h epoch)) ∧
    (∀ (p : Port) (h : ScHeader) (primary : Bool) (epoch : BitVec 16) (partner : Word48), changes [.regs, .inaug, .counters] (.pair p h primary epoch partner)) ∧
    changes [.clock, .out, .regs, .inaug, .recd, .ints, .counters] .pairLoss ∧
    (∀ (row : BitVec 16), changes [.clock, .fab, .counters] (.learnedEntryAgeing row)) ∧
    (∀ (p : Port) (q : Fin 8), changes [.queues, .counters] (.spillReadback p q)) ∧
    (∀ (f : DdrFailure), changes [.out, .regs, .fab, .queues, .recd, .host, .ints, .counters] (.lpddr4xFailure f)) ∧
    changes [.clock, .fresh, .out, .regs, .fab, .queues, .ports, .recd, .ints, .counters] .retirementComplete ∧
    changes [.clock, .regs, .fab, .counters] .spareTestPass ∧
    changes [.out, .regs, .fab, .recd, .ints, .counters] .spareTestFailure ∧
    (let parts : List Part := [.fresh, .out, .regs, .inaug, .queues, .ports, .time, .sched, .strm, .recd, .sleep, .host, .ints, .counters]
     (∀ (p : Port), changes parts (.laneUp p)) ∧
     (∀ (p : Port), changes parts (.laneDown p)) ∧
     (∀ (g : Fin 4) (status : List (Port × BitVec 16)), changes parts (.phyInterrupt g status))) ∧
    (let parts : List Part := [.clock, .fresh, .out, .regs, .inaug, .queues, .ports, .time, .sched, .strm, .recd, .sleep, .host, .ints, .counters]
     (∀ (p : Port), changes parts (.linkDownDebounce p)) ∧
     (∀ (p : Port) (status : BitVec 16), changes parts (.phyStatusPoll p status))) ∧
    (∀ (p : Port), changes [.clock, .fresh, .out, .regs, .inaug, .queues, .ports, .time, .sched, .strm, .recd, .sleep, .ints, .counters] (.linkUpHold p)) ∧
    (let parts : List Part := [.clock, .ports, .counters]
     (∀ (p : Port), changes parts (.autoNegotiationRestart p)) ∧
     (∀ (g : Fin 4), changes parts (.phyResetEnd g)) ∧
     (∀ (p : Port), changes parts (.pauseEnd p)) ∧
     (∀ (p : Port), changes parts (.pauseHoldOffEnd p)) ∧
     (∀ (p : Port), changes parts (.pauseTimeReset p))) ∧
    (let parts : List Part := [.clock, .fresh, .out, .regs, .ports, .recd, .ints, .counters]
     (∀ (p : Port) (ok : Bool) (record : BitVec 8), changes parts (.phyScriptComplete p ok record)) ∧
     (∀ (p : Port), changes parts (.phyScriptPollTimeout p))) ∧
    (∀ (p : Port), changes [.clock, .fresh, .ports, .counters] (.phyReleaseDelay p)) ∧
    (∀ (p : Port) (quanta : BitVec 16), changes [.out, .regs, .ports, .recd, .ints, .counters] (.pause p quanta)) ∧
    (∀ (p : Port) (opcode : BitVec 16), changes [.regs, .counters] (.macControlFrame p opcode)) ∧
    (∀ (p : Port), changes [.clock, .out, .regs, .ports, .recd, .ints, .counters] (.pauseWatchdog p)) ∧
    (let parts : List Part := [.clock, .out, .regs, .queues, .ports, .time, .sched, .strm, .recd, .host, .ints, .counters]
     (∀ (p : Port) (q : Fin 8), changes parts (.egressSend p q)) ∧
     (∀ (p : Port) (q : Fin 8), changes parts (.launchTime p q))) ∧
    (∀ (p : Port) (q : Fin 8), changes [.clock, .out, .regs, .queues, .host, .ints, .counters] (.launchLateDiscard p q)) ∧
    (∀ (p : Port) (f : RxFrame) (e : EngineFault), changes [.fresh, .out, .regs, .fab, .queues, .ports, .sched, .recd, .host, .ints, .counters] (.frameReceive p f e)) ∧
    (let parts : List Part := [.fresh, .out, .regs, .queues, .time, .sched, .strm, .recd, .load, .ints, .health, .counters]
     (∀ (p : Port) (seq : BitVec 16) (gm : BitVec 64) (twoStep : Bool) (origin : Int), changes parts (.sync p seq gm twoStep origin)) ∧
     (∀ (p : Port) (seq : BitVec 16) (origin : Int), changes parts (.followUp p seq origin))) ∧
    (∀ (p : Port) (a : AnnounceMsg), changes [.fresh, .out, .regs, .queues, .time, .recd, .ints, .counters] (.announce p a)) ∧
    (let parts : List Part := [.fresh, .out, .regs, .queues, .counters]
     (∀ (p : Port) (seq : BitVec 16), changes parts (.pdelayReq p seq)) ∧
     changes parts .announceInterval) ∧
    (∀ (p : Port) (seq : BitVec 16) (roundTripPs turnaroundPs : BitVec 48) (ratioPpt : Int), changes [.regs, .time, .counters] (.pdelayResp p seq roundTripPs turnaroundPs ratioPpt)) ∧
    (∀ (p : Port), changes [.clock, .fresh, .out, .regs, .queues, .time, .counters] (.pdelayInterval p)) ∧
    changes [.fresh, .out, .regs, .queues, .time, .counters] .syncInterval ∧
    (let parts : List Part := [.clock, .out, .regs, .time, .recd, .ints, .counters]
     changes parts .syncReceiptTimeout ∧
     changes parts .holdoverLimit ∧
     changes parts .ppsInLoss) ∧
    (let parts : List Part := [.clock, .fresh, .out, .regs, .queues, .time, .recd, .ints, .counters]
     changes parts .announceReceiptTimeout ∧
     changes parts .roundHoldEnd) ∧
    changes [.clock, .out, .regs, .time, .sched, .strm, .recd, .load, .ints, .counters] .stepPoint ∧
    (let parts : List Part := [.clock, .time, .counters]
     changes parts .ppsOutPulse ∧
     changes parts .ppsOutPulseEnd ∧
     changes parts .tevtOutPulse ∧
     changes parts .tevtOutPulseEnd ∧
     changes parts .ppsInHoldoverLimit) ∧
    (∀ (inp : CapInput) (rising : Bool), changes [.fresh, .out, .regs, .time, .recd, .ints, .health, .counters] (.captureEdge inp rising)) ∧
    changes [.out, .regs, .sched, .recd, .ints, .counters] .gateBankBuilt ∧
    (let parts : List Part := [.clock, .out, .regs, .queues, .sched, .recd, .host, .ints, .counters]
     changes parts .gateSwitchBoundary ∧
     changes parts .cycleBoundary ∧
     changes parts .activationBoundary) ∧
    (∀ (p : Port) (window : BitVec 16), changes [.clock, .out, .regs, .queues, .sched, .strm, .host, .ints, .counters] (.windowOpen p window)) ∧
    (∀ (p : Port), changes [.clock, .regs, .sched, .strm, .counters] (.windowHardClose p)) ∧
    (∀ (p : Port) (window : BitVec 16), changes [.clock, .regs, .sched, .counters] (.receiveEntryClose p window)) ∧
    (∀ (window : BitVec 16), changes [.clock, .sched, .counters] (.sequenceHistoryReset window)) ∧
    changes [.clock, .out, .regs, .queues, .sched, .recd, .ints, .counters] .holdoverFenceTime ∧
    (let parts : List Part := [.out, .regs, .queues, .sched, .counters]
     (∀ (p : Port) (h : DistHead) (size crc : BitVec 32) (activation : BitVec 64), changes parts (.offer p h size crc activation)) ∧
     (∀ (p : Port) (h : DistHead) (number : DistTail) (data : List Byte), changes parts (.chunk p h number data))) ∧
    (∀ (p : Port) (h : DistHead) (chunk : DistTail), changes [.out, .regs, .queues, .counters] (.request p h chunk)) ∧
    (let parts : List Part := [.clock, .out, .regs, .queues, .sched, .counters]
     changes parts .offerPeriod ∧
     changes parts .chunkTimeout) ∧
    changes [.out, .regs, .stored, .queues, .sched, .recd, .ints, .counters] .scheduleImageVerified

/-- What the commands leave as they were. -/
def Obligations.NodeCommandsLeaveTheOtherPartsAlone : Prop :=
  ∀ s : State,
    let changes := fun (parts : List Part) (c : Instr) => Completes c s (Framed parts s.found)
    (let parts : List Part := [.clock, .out, .regs, .recd, .load, .ints, .counters]
     (∀ (n : Fin 4) (bytes : Vector Byte 8), changes parts (.statusFrame n bytes)) ∧
     (∀ (n : Fin 4) (bytes : Vector Byte 8), changes parts (.readReply n bytes)) ∧
     (∀ (k : Fin 32), changes parts (.thermalLatchRelease k))) ∧
    (∀ (n : Fin 4), changes [.out, .load] (.companionFaultLine n)) ∧
    (let parts : List Part := [.clock, .out, .load, .counters]
     (∀ (n : Fin 4), changes parts (.transferGap n)) ∧
     (∀ (n : Fin 4), changes parts (.linkRetry n)) ∧
     (∀ (k : Fin 32), changes parts (.inrushWindowEnd k)) ∧
     (∀ (k : Fin 32), changes parts (.retryDelayEnd k)) ∧
     (∀ (n : Fin 4), changes parts (.restoreSlot n))) ∧
    (let parts : List Part := [.clock, .load, .counters]
     (∀ (k : Fin 32), changes parts (.retryRefill k)) ∧
     (∀ (k : Fin 32), changes parts (.clampBinExpiry k))) ∧
    (∀ (k : Fin 32), changes [.clock, .out, .regs, .load, .counters] (.pulseEdge k)) ∧
    changes [.clock, .recd, .counters] .flushDelay ∧
    (let parts : List Part := [.out, .regs, .recd, .ints, .counters]
     changes parts .logWriteComplete ∧
     (∀ (cause : MediumCause), changes parts (.mediumFailure cause)) ∧
     (∀ (status : BitVec 16), changes parts (.pmbusAlert status))) ∧
    (let parts : List Part := [.clock, .out, .regs, .recd, .ints, .counters]
     changes parts .freezeLimit ∧
     (∀ (ok : Bool), changes parts (.mediumRetry ok))) ∧
    (∀ (o : ScanOutcome), changes [.fresh, .out, .regs, .recd, .ints, .counters] (.scanComplete o)) ∧
    changes [.out, .regs, .strm, .recd, .ints, .counters] .reservationBankBuilt ∧
    (let parts : List Part := [.clock, .out, .regs, .strm, .recd, .ints, .counters]
     changes parts .rephaseEnd ∧
     (∀ (k : Fin 64), changes parts (.streamTimeout k))) ∧
    (∀ (a : AvtpPacket), changes [.out, .regs, .strm, .recd, .host, .ints, .counters] (.avtpPacket a)) ∧
    (∀ (k : Fin 64) (frames : List (List (BitVec 32))), changes [.out, .regs, .fab, .queues, .sched, .strm, .recd, .host, .ints, .counters] (.talkerPacket k frames)) ∧
    changes [.clock, .out, .regs, .queues, .strm, .recd, .host, .ints, .counters] .streamSwitchBoundary ∧
    (∀ (ch : Fin 256), changes [.clock, .chk, .counters] (.silenceReset ch)) ∧
    (∀ (k : Fin 64), changes [.clock, .out, .regs, .fab, .queues, .sched, .gw, .chk, .host, .ints, .counters] (.telegramDue k)) ∧
    (∀ (c : CanId) (o : Fin 126), changes [.clock, .fresh, .regs, .can, .gw, .chk, .counters] (.canObjectDue c o)) ∧
    (∀ (m : TrdpMsg), changes [.fresh, .out, .regs, .can, .gw, .chk, .recd, .ints, .counters] (.pdTelegram m)) ∧
    (∀ (k : Fin 64), changes [.clock, .fresh, .out, .regs, .can, .gw, .chk, .recd, .ints, .counters] (.telegramTimeout k)) ∧
    (let parts : List Part := [.fresh, .out, .regs, .fab, .queues, .sched, .can, .gw, .chk, .recd, .host, .ints, .counters]
     (∀ (m : TrdpMsg), changes parts (.mrRequest m)) ∧
     (∀ (m : TrdpMsg), changes parts (.mnNotification m)) ∧
     (∀ (m : TrdpMsg), changes parts (.mpReply m)) ∧
     (∀ (m : TrdpMsg), changes parts (.meErrorReply m)) ∧
     (∀ (c : CanId) (f : CanFrame), changes parts (.canFrameReceived c f)) ∧
     (∀ (c : CanId) (e : CanError), changes parts (.canReceiveError c e)) ∧
     (∀ (c : CanId), changes parts (.arbitrationLost c)) ∧
     (∀ (c : CanId) (delay : BitVec 8), changes parts (.canTransmitSuccess c delay)) ∧
     (∀ (c : CanId) (e : CanError), changes parts (.canTransmitError c e))) ∧
    (∀ (n : Fin 32), changes [.clock, .fresh, .out, .regs, .fab, .queues, .sched, .can, .gw, .chk, .recd, .host, .ints, .counters] (.transactionTimeout n)) ∧
    (∀ (n : Fin 32) (addr : BitVec 16), changes [.clock, .out, .regs, .gw, .recd, .ints, .counters] (.prefetchLifetimeEnd n addr)) ∧
    (∀ (c : CanId), changes [.out, .can, .ints] (.integrationComplete c)) ∧
    (∀ (c : CanId), changes [.out, .can] (.attemptStart c)) ∧
    (∀ (c : CanId), changes [.clock, .out, .can, .ints, .counters] (.busOffHoldOffEnd c)) ∧
    (∀ (c : CanId), changes [.out, .regs, .can, .recd, .ints, .counters] (.busOffRecoveryComplete c)) ∧
    (∀ (c : CanId), changes [.clock, .out, .regs, .can, .recd, .ints, .counters] (.candidateDwellEnd c)) ∧
    (let parts : List Part := [.clock, .out, .regs, .fab, .recd, .ints, .health, .counters]
     changes parts .planningPeriod ∧
     (∀ (readings : List SensorReading), changes parts (.sensorScan readings))) ∧
    changes [.clock, .fresh, .out, .regs, .ports, .sched, .recd, .ints, .health, .counters] .planApply ∧
    (∀ (mv : BitVec 16), changes [.out, .regs, .node, .recd, .ints, .health, .counters] (.readVout mv)) ∧
    changes [.clock, .out, .regs, .recd, .ints, .health, .counters] .readVoutTimeout ∧
    (let parts : List Part := [.clock, .regs, .health, .counters]
     changes parts .trackerUpdate ∧
     changes parts .healthRecordWrite ∧
     changes parts .snapshotPeriod) ∧
    changes [.health] .trackerHourlyMean ∧
    changes [.clock, .regs, .queues, .sleep, .counters] .keepAlivePeriod ∧
    (let parts : List Part := [.fresh, .out, .regs, .inaug, .queues, .ports, .time, .sched, .strm, .recd, .sleep, .host, .ints, .counters]
     (∀ (p : Port) (m : KeepAliveMsg), changes parts (.keepAlive p m)) ∧
     (∀ (source : Fin 18), changes parts (.wakeInputInactive source))) ∧
    (∀ (rear : Bool), changes [.clock, .out, .regs, .recd, .sleep, .ints, .counters] (.silentSide rear)) ∧
    (let parts : List Part := [.fresh, .out, .regs, .inaug, .queues, .ports, .time, .sched, .strm, .recd, .sleep, .host, .ints, .pow, .counters]
     (∀ (also : AlsoAccepted), changes parts (.trainWakeLine also)) ∧
     (∀ (b : Bool) (also : AlsoAccepted), changes parts (.localWake b also)) ∧
     (∀ (c : CanId) (also : AlsoAccepted), changes parts (.busWake c also)) ∧
     (∀ (g : Fin 4) (also : AlsoAccepted), changes parts (.phyWake g also))) ∧
    (∀ (woken : List Port), changes [.clock, .out, .regs, .ports, .recd, .sleep, .ints, .pow, .counters] (.phyWakeReadoutEnd woken)) ∧
    (∀ (also : AlsoAccepted), changes [.clock, .fresh, .out, .regs, .inaug, .queues, .ports, .time, .sched, .strm, .recd, .sleep, .host, .ints, .pow, .counters] (.wakeTimer also)) ∧
    changes [.clock, .sleep, .counters] .twlOutPulseEnd ∧
    (let parts : List Part := [.clock, .fresh, .out, .regs, .inaug, .queues, .ports, .time, .sched, .strm, .recd, .sleep, .host, .ints, .counters]
     changes parts .maximumAwakeExpiry ∧
     changes parts .postWakeHoldEnd) ∧
    changes [.clock, .out, .regs, .queues, .recd, .sleep, .ints, .counters] .readySleepExpiry ∧
    changes [.clock, .fresh, .out, .regs, .inaug, .queues, .ports, .time, .sched, .strm, .can, .recd, .sleep, .load, .host, .ints, .health, .counters] .quiesce ∧
    (∀ (ring : Fin 10) (bytes : List Byte), changes [.fresh, .out, .regs, .fab, .queues, .ports, .time, .sched, .strm, .host, .ints, .counters] (.dmaReadCompletion ring bytes)) ∧
    (∀ (k : Fin 64), changes [.out, .strm, .host, .ints] (.sampleFetch k)) ∧
    (let parts : List Part := [.out, .host, .ints]
     (∀ (ring : Fin 10), changes parts (.dmaError ring)) ∧
     (∀ (path : HostPath) (ring : Fin 10), changes parts (.ringEnable path ring)) ∧
     (∀ (path : HostPath), changes parts (.tcapTrigger path))) ∧
    (let parts : List Part := [.clock, .out, .host, .ints, .counters]
     (∀ (ring : Fin 10), changes parts (.dmaCompletionTimeout ring)) ∧
     (∀ (ring : Fin 10), changes parts (.ringModerationEnd ring))) ∧
    (let parts : List Part := [.host]
     (∀ (path : HostPath) (ring : Fin 10), changes parts (.ringDisable path ring)) ∧
     (∀ (command : BitVec 8), changes parts (.serialUnknownCommand command)) ∧
     changes parts .perstNRise) ∧
    (let parts : List Part := [.out, .host]
     (∀ (path : HostPath) (ring : Fin 10) (value : Word32), changes parts (.tail path ring value)) ∧
     (∀ (path : HostPath), changes parts (.timeLoRead path)) ∧
     (∀ (path : HostPath), changes parts (.tcapHiRead path)) ∧
     (∀ (path : HostPath), changes parts (.tcapStatusRead path)) ∧
     (∀ (path : HostPath), changes parts (.hspStatusRead path)) ∧
     (∀ (path : HostPath) (ring : Fin 10), changes parts (.dropsRead path ring)) ∧
     (∀ (address : BitVec 13) (words : Nat), changes parts (.serialRead address words))) ∧
    (∀ (path : HostPath) (value : Word32), changes [.out, .ints] (.intStatusClear path value)) ∧
    (let parts : List Part := [.host, .ints, .mail]
     changes parts .perstNFall ∧
     changes parts .functionLevelReset) ∧
    (let parts : List Part := [.clock, .fresh, .out, .regs, .node, .inaug, .fab, .queues, .ports, .time, .sched, .strm, .recd, .sleep, .load, .host, .ints, .health, .counters]
     changes parts .fastStartTimeout ∧
     changes parts .rotationComplete) ∧
    (let parts : List Part := [.fresh, .out, .regs, .node, .inaug, .fab, .queues, .ports, .time, .sched, .strm, .recd, .sleep, .load, .host, .ints, .health, .counters]
     (∀ (reading : Int), changes parts (.fastStartThermalEnd reading)) ∧
     (∀ (reading : Int), changes parts (.junctionTemperatureMaximum reading)) ∧
     (∀ (slice : Slice) (t : SliceTrigger), changes parts (.sliceFault slice t)) ∧
     (∀ (engine1 pass : Bool), changes parts (.engineSelfTestEnd engine1 pass))) ∧
    changes [.out, .regs, .node, .fab, .recd, .ints, .counters] .engineTestStep ∧
    changes [.clock, .fresh, .out, .regs, .commit, .staging, .access, .node, .inaug, .fab, .queues, .ports, .time, .sched, .strm, .recd, .sleep, .load, .host, .ints, .mail, .pow, .health, .counters] .watchdogTrip ∧
    (let parts : List Part := [.pow]
     changes parts .watchdogWrite ∧
     changes parts .pgIoRise ∧
     (∀ (laneB : Bool), changes parts (.bypassRefreshLoss laneB))) ∧
    (let parts : List Part := [.clock, .pow, .counters]
     changes parts .stableTime ∧
     changes parts .railEnableRetry ∧
     changes parts .wakeBootTimeout) ∧
    changes [.clock, .out, .regs, .recd, .ints, .pow, .counters, .sec] .imageConfirm ∧
    changes [.fresh, .out, .regs, .tables, .commit, .access, .stored, .inaug, .queues, .time, .sched, .strm, .recd, .sleep, .host, .ints, .mail, .pow, .health, .counters] .controlComplexReady ∧
    (∀ (core : Bool) (mv : BitVec 16), changes [.fresh, .out, .regs, .node, .inaug, .fab, .queues, .ports, .time, .sched, .strm, .recd, .sleep, .load, .host, .ints, .pow, .health, .counters] (.supplyWarning core mv)) ∧
    (∀ (core : Bool), changes [.fresh, .out, .regs, .node, .recd, .ints, .pow, .counters] (.supplyWarningClear core)) ∧
    changes [.out, .regs, .recd, .ints, .pow, .health, .counters] .heartbeatLoss ∧
    changes [.regs, .pow] .firmwareWriteEnd ∧
    (let parts : List Part := [.fresh, .out, .regs, .inaug, .queues, .time, .sched, .strm, .recd, .sleep, .host, .ints, .pow, .counters, .sec]
     changes parts .extest ∧
     (∀ (op : DebugOp), changes parts (.debugAccess op)) ∧
     changes parts .scanTest) ∧
    changes [.out, .sec] .idcode ∧
    (let parts : List Part := [.sec]
     changes parts .samplePreload ∧
     (∀ (code : BitVec 5), changes parts (.bypass code)) ∧
     changes parts .debugPortReset ∧
     changes parts .randomSourceRecovery) ∧
    changes [.fresh, .out, .sec] .authChallenge ∧
    changes [.clock, .out, .regs, .recd, .ints, .counters, .sec] .debugLockoutEnd ∧
    changes [.out, .regs, .recd, .ints, .counters, .sec] .randomSourceFailure ∧
    changes [.clock, .counters, .sec] .kdaLockoutEnd ∧
    changes [.fresh, .out, .regs, .commit, .staging, .access, .queues, .recd, .ints, .mail, .counters] .commitHoldRelease ∧
    changes [.clock, .out, .regs, .staging, .access, .queues, .ints, .mail, .counters] .commitHoldTimeout ∧
    (let parts : List Part := [.clock, .out, .regs, .staging, .access, .queues, .recd, .ints, .mail, .counters]
     changes parts .stagingIdleTimeout ∧
     (∀ (session : BitVec 32), changes parts (.sessionExpiry session)) ∧
     (∀ (session : BitVec 32), changes parts (.challengeTimeout session))) ∧
    (let parts : List Part := [.out, .regs, .staging, .access, .queues, .recd, .ints, .mail, .counters]
     changes parts .imageVerificationEnd ∧
     (∀ (h : KdaHeader), changes parts (.close h))) ∧
    (∀ (h : KdaHeader), changes [.regs, .access, .counters] (.keepalive h)) ∧
    (∀ (h : KdaHeader) (opcode : BitVec 8), changes [.out, .regs, .access, .queues, .counters] (.kdaOpcodeInvalid h opcode)) ∧
    (∀ (h : KdaHeader) (payload : List Byte), changes [.fresh, .out, .regs, .access, .queues, .counters] (.kdaOpen h payload)) ∧
    (∀ (h : KdaHeader) (payload : List Byte), changes [.out, .regs, .staging, .access, .queues, .recd, .ints, .mail, .counters, .sec] (.proof h payload)) ∧
    (∀ (c : CanId), changes [.clock, .out, .access, .counters] (.sdoServerTimeout c))

end
end

