-- ==== Sys2Proof/Laws/Framed.lean ====
section
/-! SUPPORT. What a function leaves as it was: how a frame passes through a record update, a choice, a loop and a command,
so that the lemma of each function of the model says once which parts of the device it can change. -/

-- one declaration after the other: the package is also compiled as one text, in limited memory
set_option Elab.async false

set_option linter.all false

namespace Sys2Proof.Machine

variable {L : List Part} {base : Dev}

theorem Framed.refl (L : List Part) (d : Dev) : Framed L d d := fun p => Or.inr (by cases p <;> rfl)

theorem Part.same_trans {a b c : Dev} (p : Part) (h1 : p.same a b) (h2 : p.same b c) : p.same a c := by
  cases p <;> exact Eq.trans h2 h1

theorem Framed.trans {a b c : Dev} (h1 : Framed L a b) (h2 : Framed L b c) : Framed L a c := fun p =>
  match h1 p, h2 p with
  | .inl h, _ => .inl h
  | _, .inl h => .inl h
  | .inr h1, .inr h2 => .inr (p.same_trans h1 h2)

theorem Framed.mono {A : List Part} {a b : Dev} (h : Framed A a b) (hL : ∀ p ∈ A, p ∈ L) : Framed L a b := fun p =>
  (h p).imp_left (hL p)

theorem Framed.sub {A B : List Part} (h : (A.all (fun p => B.contains p)) = true) (hL : ∀ p ∈ B, p ∈ L) :
    ∀ p ∈ A, p ∈ L := fun p hp => hL p (by simpa using List.all_eq_true.mp h p hp)

/-- A part that is not named is the same. -/
theorem Framed.same {A : List Part} {a b : Dev} (h : Framed A a b) (p : Part) (hp : p ∉ A) : p.same a b :=
  (h p).resolve_left hp

/-- The dictionary agent's part differs at most in the parts named. -/
def DictFramed (L : List Part) (a b : DictS) : Prop :=
  (b.od = a.od ∨ .regs ∈ L) ∧ (b.mem = a.mem ∨ .tables ∈ L) ∧
    ((b.epoch, b.commit, b.fence, b.fenceToken, b.queue, b.owed) =
      (a.epoch, a.commit, a.fence, a.fenceToken, a.queue, a.owed) ∨ .commit ∈ L) ∧
    ((b.staged, b.owner, b.idleDeadline, b.lastRefused, b.heldCommit, b.image, b.imageStatus, b.imageBy, b.imageStaged) =
      (a.staged, a.owner, a.idleDeadline, a.lastRefused, a.heldCommit, a.image, a.imageStatus, a.imageBy, a.imageStaged) ∨
      .staging ∈ L) ∧
    ((b.sessions, b.sdo, b.sdoMode, b.kdaSecond, b.kdaCount) = (a.sessions, a.sdo, a.sdoMode, a.kdaSecond, a.kdaCount) ∨
      .access ∈ L) ∧
    ((b.copy0, b.copy1) = (a.copy0, a.copy1) ∨ .stored ∈ L)

/-- The fabric differs at most in the parts named. -/
def FabFramed (L : List Part) (a b : FabricS) : Prop := (b.rest = a.rest ∨ .fab ∈ L) ∧ (b.held = a.held ∨ .queues ∈ L)

/-- The time base differs at most in the parts named. -/
def TimeFramed (L : List Part) (a b : TimeS) : Prop :=
  (b.fRaw = a.fRaw ∨ .clock ∈ L) ∧ (b.rest = a.rest ∨ .time ∈ L)

/-- The host link differs at most in the parts named. -/
def HostFramed (L : List Part) (a b : HostS) : Prop :=
  (b.registers = a.registers ∨ .host ∈ L) ∧ ((b.intStatus, b.msiPending) = (a.intStatus, a.msiPending) ∨ .ints ∈ L) ∧
    ((b.mbPcie, b.mbSerial) = (a.mbPcie, a.mbSerial) ∨ .mail ∈ L)

/-- Chapter 17's part differs at most in the parts named. -/
def HealthFramed (L : List Part) (a b : HealthS) : Prop :=
  (b.rest = a.rest ∨ .health ∈ L) ∧
    (b.counters = a.counters ∨ .counters ∈ L)

/-- A record update. -/
theorem Framed.upd (now fresh : Nat) (out : List Out) (dict : DictS) (node : NodeS) (inaug : InaugS) (fab : FabricS)
    (ports : PortsS) (time : TimeS) (sched : SchedS) (strm : StreamsS) (can : Vector CanCtl 8) (gw : GwS)
    (chk : List (Nat × CheckCh)) (recd : RecS) (sleep : SleepS) (load : LoadsS) (host : HostS) (pow : PowerS)
    (health : HealthS) (sec : SecS) (pins : PinsS) {d : Dev}
    (hnow : now = d.now ∨ .clock ∈ L) (hfresh : fresh = d.fresh ∨ .fresh ∈ L) (hout : out = d.out ∨ .out ∈ L)
    (hdict : dict = d.dict ∨ DictFramed L d.dict dict) (hnode : node = d.node ∨ .node ∈ L)
    (hinaug : inaug = d.inaug ∨ .inaug ∈ L) (hfab : fab = d.fab ∨ FabFramed L d.fab fab) (hports : ports = d.ports ∨ .ports ∈ L)
    (htime : time = d.time ∨ TimeFramed L d.time time) (hsched : sched = d.sched ∨ .sched ∈ L)
    (hstrm : strm = d.strm ∨ .strm ∈ L) (hcan : can = d.can ∨ .can ∈ L) (hgw : gw = d.gw ∨ .gw ∈ L)
    (hchk : chk = d.chk ∨ .chk ∈ L) (hrecd : recd = d.recd ∨ .recd ∈ L) (hsleep : sleep = d.sleep ∨ .sleep ∈ L)
    (hload : load = d.load ∨ .load ∈ L) (hhost : host = d.host ∨ HostFramed L d.host host) (hpow : pow = d.pow ∨ .pow ∈ L)
    (hhealth : health = d.health ∨ HealthFramed L d.health health) (hsec : sec = d.sec ∨ .sec ∈ L)
    (hpins : pins = d.pins ∨ .pins ∈ L) (h : Framed L base d) :
    Framed L base (Dev.mk now fresh out dict node d.chip inaug fab ports time sched strm can gw chk recd sleep load host pow
      health sec pins) := by
  have hd : DictFramed L d.dict dict := hdict.elim (fun e => e ▸ ⟨.inl rfl, .inl rfl, .inl rfl, .inl rfl, .inl rfl, .inl rfl⟩) id
  have hf : FabFramed L d.fab fab := hfab.elim (fun e => e ▸ ⟨.inl rfl, .inl rfl⟩) id
  have ht : TimeFramed L d.time time := htime.elim (fun e => e ▸ ⟨.inl rfl, .inl rfl⟩) id
  have hh : HostFramed L d.host host := hhost.elim (fun e => e ▸ ⟨.inl rfl, .inl rfl, .inl rfl⟩) id
  have hc : HealthFramed L d.health health := hhealth.elim (fun e => e ▸ ⟨.inl rfl, .inl rfl⟩) id
  refine h.trans fun p => ?_
  cases p
  case clock =>
    rcases hnow with e | e
    · rcases ht.1 with e' | e'
      · exact .inr (congrArg₂ Prod.mk e e')
      · exact .inl e'
    · exact .inl e
  case fresh => exact hfresh.symm
  case out => exact hout.symm
  case regs => exact hd.1.symm
  case tables => exact hd.2.1.symm
  case commit => exact hd.2.2.1.symm
  case staging => exact hd.2.2.2.1.symm
  case access => exact hd.2.2.2.2.1.symm
  case stored => exact hd.2.2.2.2.2.symm
  case node => exact hnode.symm
  case chip => exact .inr rfl
  case inaug => exact hinaug.symm
  case fab => exact hf.1.symm
  case queues => exact hf.2.symm
  case ports => exact hports.symm
  case time => exact ht.2.symm
  case sched => exact hsched.symm
  case strm => exact hstrm.symm
  case can => exact hcan.symm
  case gw => exact hgw.symm
  case chk => exact hchk.symm
  case recd => exact hrecd.symm
  case sleep => exact hsleep.symm
  case load => exact hload.symm
  case host => exact hh.1.symm
  case ints => exact hh.2.1.symm
  case mail => exact hh.2.2.symm
  case pow => exact hpow.symm
  case health => exact hc.1.symm
  case counters => exact hc.2.symm
  case sec => exact hsec.symm
  case pins => exact hpins.symm

theorem onDict_framed (f : DictS → DictS) (d : Dev) (hf : DictFramed L d.dict (f d.dict)) (h : Framed L base d) :
    Framed L base (onDict f d) := by
  unfold onDict
  exact Framed.upd _ _ _ _ _ _ _ _ _ _ _ _ _ _ _ _ _ _ _ _ _ _ (.inl rfl) (.inl rfl) (.inl rfl) (.inr hf) (.inl rfl)
    (.inl rfl) (.inl rfl) (.inl rfl) (.inl rfl) (.inl rfl) (.inl rfl) (.inl rfl) (.inl rfl) (.inl rfl) (.inl rfl) (.inl rfl)
    (.inl rfl) (.inl rfl) (.inl rfl) (.inl rfl) (.inl rfl) (.inl rfl) h

theorem onFab_framed (f : FabricS → FabricS) (d : Dev) (hf : FabFramed L d.fab (f d.fab)) (h : Framed L base d) :
    Framed L base (onFab f d) := by
  unfold onFab
  exact Framed.upd _ _ _ _ _ _ _ _ _ _ _ _ _ _ _ _ _ _ _ _ _ _ (.inl rfl) (.inl rfl) (.inl rfl) (.inl rfl) (.inl rfl)
    (.inl rfl) (.inr hf) (.inl rfl) (.inl rfl) (.inl rfl) (.inl rfl) (.inl rfl) (.inl rfl) (.inl rfl) (.inl rfl) (.inl rfl)
    (.inl rfl) (.inl rfl) (.inl rfl) (.inl rfl) (.inl rfl) (.inl rfl) h

theorem onHost_framed (f : HostS → HostS) (d : Dev) (hf : HostFramed L d.host (f d.host)) (h : Framed L base d) :
    Framed L base (onHost f d) := by
  unfold onHost
  exact Framed.upd _ _ _ _ _ _ _ _ _ _ _ _ _ _ _ _ _ _ _ _ _ _ (.inl rfl) (.inl rfl) (.inl rfl) (.inl rfl) (.inl rfl)
    (.inl rfl) (.inl rfl) (.inl rfl) (.inl rfl) (.inl rfl) (.inl rfl) (.inl rfl) (.inl rfl) (.inl rfl) (.inl rfl) (.inl rfl)
    (.inl rfl) (.inr hf) (.inl rfl) (.inl rfl) (.inl rfl) (.inl rfl) h

theorem onHealth_framed (f : HealthS → HealthS) (d : Dev) (hf : HealthFramed L d.health (f d.health)) (h : Framed L base d) :
    Framed L base (onHealth f d) := by
  unfold onHealth
  exact Framed.upd _ _ _ _ _ _ _ _ _ _ _ _ _ _ _ _ _ _ _ _ _ _ (.inl rfl) (.inl rfl) (.inl rfl) (.inl rfl) (.inl rfl)
    (.inl rfl) (.inl rfl) (.inl rfl) (.inl rfl) (.inl rfl) (.inl rfl) (.inl rfl) (.inl rfl) (.inl rfl) (.inl rfl) (.inl rfl)
    (.inl rfl) (.inl rfl) (.inl rfl) (.inr hf) (.inl rfl) (.inl rfl) h

theorem onlyIf_framed (c : Bool) (f : Dev → Dev) (d : Dev) (hf : ∀ d, Framed L base d → Framed L base (f d))
    (h : Framed L base d) : Framed L base (onlyIf c f d) := by
  unfold onlyIf
  split
  exacts [hf _ h, h]

theorem foldl_framed {α : Type} (l : List α) (f : Dev → α → Dev) (d : Dev) (h : Framed L base d)
    (hf : ∀ x d, Framed L base d → Framed L base (f d x)) : Framed L base (l.foldl f d) := by
  induction l generalizing d with
  | nil => exact h
  | cons x l ih => exact ih _ (hf x d h)

theorem foldl_snd_framed {α β : Type} (l : List α) (f : β × Dev → α → β × Dev) (x : β × Dev) (h : Framed L base x.2)
    (hf : ∀ y x, Framed L base x.2 → Framed L base (f x y).2) : Framed L base (l.foldl f x).2 := by
  induction l generalizing x with
  | nil => exact h
  | cons y l ih => exact ih _ (hf y x h)

theorem forEach_framed {α : Type} (l : List α) (f : α → Dev → Dev) (d : Dev) (h : Framed L base d)
    (hf : ∀ x d, Framed L base d → Framed L base (f x d)) : Framed L base (forEach l f d) :=
  foldl_framed l _ d h hf

theorem ite_framed {c : Prop} [Decidable c] {x y : Dev} (hx : Framed L base x) (hy : Framed L base y) :
    Framed L base (if c then x else y) := by
  split
  exacts [hx, hy]

theorem ite_framed_pair {α : Type} {c : Prop} [Decidable c] {x y : α × Dev} {a : α} {d : Dev}
    (e : (if c then x else y) = (a, d)) (hx : Framed L base x.2) (hy : Framed L base y.2) : Framed L base d := by
  split at e
  · rw [e] at hx
    exact hx
  · rw [e] at hy
    exact hy

theorem setReg_framed (i s v : Nat) (d : Dev) (hL : ∀ p ∈ ([.regs] : List Part), p ∈ L) (h : Framed L base d) :
    Framed L base (setReg i s v d) := h.trans fun p => by
  cases p <;> first | exact Or.inr rfl | exact Or.inl (hL _ (by decide))

theorem setBytes_framed (i s : Nat) (bs : List Byte) (d : Dev) (hL : ∀ p ∈ ([.regs] : List Part), p ∈ L)
    (h : Framed L base d) : Framed L base (setBytes i s bs d) := h.trans fun p => by
  cases p <;> first | exact Or.inr rfl | exact Or.inl (hL _ (by decide))

theorem emit_framed (o : Out) (d : Dev) (hL : ∀ p ∈ ([.out] : List Part), p ∈ L) (h : Framed L base d) :
    Framed L base (emit o d) := h.trans fun p => by
  cases p <;> first | exact Or.inr rfl | exact Or.inl (hL _ (by decide))

theorem emits_framed (os : List Out) (d : Dev) (hL : ∀ p ∈ ([.out] : List Part), p ∈ L) (h : Framed L base d) :
    Framed L base (emits os d) := h.trans fun p => by
  cases p <;> first | exact Or.inr rfl | exact Or.inl (hL _ (by decide))

theorem draw_framed (d : Dev) (hL : ∀ p ∈ ([.fresh] : List Part), p ∈ L) (h : Framed L base d) :
    Framed L base (draw d) := h.trans fun p => by
  cases p <;> first | exact Or.inr rfl | exact Or.inl (hL _ (by decide))

/-- A command's outcome is a next state in which nothing differs from what it found but the parts named. -/
def DoesFramed (A : List Part) (s : State) (r : Result) : Prop :=
  ∃ t, r = .next t ∧ t.pending = s.pending ∧ Framed A s.found t.dev

theorem does_framed {A : List Part} (s : State) (f : Dev → Dev)
    (hf : ∀ (L : List Part) (base d : Dev), (∀ p ∈ A, p ∈ L) → Framed L base d → Framed L base (f d)) :
    DoesFramed A s (s.does f) := ⟨_, rfl, rfl, hf A s.found _ (fun _ h => h) (Framed.refl _ _)⟩

theorem DoesFramed.completes {A : List Part} {s : State} {c : Instr} (h : DoesFramed A s (exec c s)) :
    Completes c s (Framed A s.found) := h

theorem DoesFramed.mono {A B : List Part} {s : State} {r : Result} (h : DoesFramed A s r)
    (hB : (A.all (fun p => B.contains p)) = true) : DoesFramed B s r := by
  obtain ⟨t, h1, h2, h3⟩ := h
  exact ⟨t, h1, h2, h3.mono (Framed.sub hB (fun _ h => h))⟩

end Sys2Proof.Machine
end

