-- ==== Sys2Proof/Laws/Framed/Ops.lean ====
section
/-! SUPPORT. Which parts of the device each function of Machine/Ops.lean can change. -/

-- one declaration after the other: the package is also compiled as one text, in limited memory
set_option Elab.async false

set_option linter.all false

namespace Sys2Proof.Machine

variable {L : List Part} {base : Dev}

theorem bumpBy_framed (idx sub k : Nat) (d : Dev) (hL : ∀ p ∈ ([.regs] : List Part), p ∈ L) (hd : Framed L base d)
    : Framed L base (bumpBy idx sub k d) := by
  unfold bumpBy
  repeat' first | with_reducible assumption | with_reducible apply setReg_framed

theorem bump_framed (idx sub : Nat) (d : Dev) (hL : ∀ p ∈ ([.regs] : List Part), p ∈ L) (hd : Framed L base d)
    : Framed L base (bump idx sub d) := by
  unfold bump
  repeat' first | with_reducible assumption | with_reducible apply bumpBy_framed

theorem bump64_framed (idx sub k : Nat) (d : Dev) (hL : ∀ p ∈ ([.regs] : List Part), p ∈ L) (hd : Framed L base d)
    : Framed L base (bump64 idx sub k d) := by
  unfold bump64
  repeat' first | with_reducible assumption | with_reducible apply setReg_framed

theorem advanceRaw_framed (ns : Nat) (d : Dev) (hL : ∀ p ∈ ([.clock] : List Part), p ∈ L) (hd : Framed L base d)
    : Framed L base (advanceRaw ns d) := by
  have m0 : Part.clock ∈ L := hL _ (.head _)
  unfold advanceRaw
  repeat' first
      | with_reducible assumption | dsimp only [id]
      | (fail_if_no_progress ((with_reducible apply Framed.upd) ; exact .inr m0 ; (iterate 7 exact .inl rfl) ; (focus (apply Or.inr ; (repeat' (apply And.intro)) ; exact .inr m0 ; (apply Or.inl ; simp only [TimeS.rest]))) ; (iterate 13 exact .inl rfl)))

theorem countEv_framed (code inst qual k : Nat) (d : Dev) (hL : ∀ p ∈ ([.counters] : List Part), p ∈ L) (hd
    : Framed L base d) : Framed L base (countEv code inst qual k d) := by
  have m0 : Part.counters ∈ L := hL _ (.head _)
  unfold countEv
  repeat' first
      | with_reducible assumption | dsimp only [id]
      | (fail_if_no_progress ((with_reducible apply Framed.upd) ; (iterate 19 exact .inl rfl) ; (focus (apply Or.inr ; (repeat' (apply And.intro)) ; (apply Or.inl ; simp only [HealthS.rest]) ; exact .inr m0)) ; (iterate 2 exact .inl rfl)))

theorem advance_framed (ns : Nat) (d : Dev) (hL : ∀ p ∈ ([.clock, .counters] : List Part), p ∈ L) (hd
    : Framed L base d) : Framed L base (advance ns d) := by
  unfold advance
  repeat' first
      | with_reducible assumption | with_reducible exact Framed.sub rfl hL | with_reducible apply countEv_framed
      | with_reducible apply advanceRaw_framed

theorem arrive_framed (t : Nat) (d : Dev) (hL : ∀ p ∈ ([.clock, .counters] : List Part), p ∈ L) (hd
    : Framed L base d) : Framed L base (arrive t d) := by
  unfold arrive
  repeat' first | with_reducible assumption | with_reducible apply advance_framed

theorem arriveTrainFuel_framed (n t : Nat) (d : Dev) (hL : ∀ p ∈ ([.clock, .counters] : List Part), p ∈ L)
    (hd : Framed L base d) : Framed L base (arriveTrainFuel n t d) := by
  induction n generalizing d with
  | zero => exact hd
  | succ n ih =>
    unfold arriveTrainFuel
    split
    exacts [hd, ih _ (advance_framed _ _ hL hd)]

theorem arriveTrain_framed (t : Nat) (d : Dev) (hL : ∀ p ∈ ([.clock, .counters] : List Part), p ∈ L) (hd
    : Framed L base d) : Framed L base (arriveTrain t d) := by
  unfold arriveTrain
  repeat' first | with_reducible assumption | with_reducible apply arriveTrainFuel_framed

theorem sendVector_framed (v : Fin 16) (d : Dev) (hL : ∀ p ∈ ([.out, .ints] : List Part), p ∈ L) (hd
    : Framed L base d) : Framed L base (sendVector v d) := by
  have m0 : Part.out ∈ L := hL _ (.head _)
  have m1 : Part.ints ∈ L := hL _ (.tail _ (.head _))
  unfold sendVector
  repeat' first
      | with_reducible assumption | with_reducible exact Framed.sub rfl hL | with_reducible apply emit_framed
      | with_reducible apply ite_framed | dsimp only [id]
      | (fail_if_no_progress ((with_reducible apply Framed.upd) ; (iterate 2 exact .inl rfl) ; exact .inr m0 ; (iterate 14 exact .inl rfl) ; (focus (apply Or.inr ; (repeat' (apply And.intro)) ; (apply Or.inl ; simp only [HostS.registers]) ; exact .inr m1 ; exact .inl rfl)) ; (iterate 4 exact .inl rfl)))

theorem setInt_framed (bit : Nat) (d : Dev) (hL : ∀ p ∈ ([.out, .ints] : List Part), p ∈ L) (hd : Framed L base d)
    : Framed L base (setInt bit d) := by
  have m0 : Part.out ∈ L := hL _ (.head _)
  have m1 : Part.ints ∈ L := hL _ (.tail _ (.head _))
  unfold setInt
  repeat' first
      | with_reducible assumption | with_reducible apply sendVector_framed | with_reducible apply ite_framed
      | dsimp only [id]
      | (fail_if_no_progress ((with_reducible apply Framed.upd) ; (iterate 2 exact .inl rfl) ; exact .inr m0 ; (iterate 14 exact .inl rfl) ; (focus (apply Or.inr ; (repeat' (apply And.intro)) ; (apply Or.inl ; simp only [HostS.registers]) ; exact .inr m1 ; exact .inl rfl)) ; (iterate 4 exact .inl rfl)))

theorem snapshot_framed (d : Dev) (hL : ∀ p ∈ ([.regs, .health, .counters] : List Part), p ∈ L) (hd
    : Framed L base d) : Framed L base (snapshot d) := by
  have m0 : Part.regs ∈ L := hL _ (.head _)
  have m1 : Part.health ∈ L := hL _ (.tail _ (.head _))
  have m2 : Part.counters ∈ L := hL _ (.tail _ (.tail _ (.head _)))
  unfold snapshot
  repeat' first
      | with_reducible assumption | with_reducible exact Framed.sub rfl hL | with_reducible apply setReg_framed
      | with_reducible apply ite_framed | dsimp only [id]
      | (fail_if_no_progress ((with_reducible apply Framed.upd) ; (iterate 3 exact .inl rfl) ; (focus (apply Or.inr ; (repeat' (apply And.intro)) ; exact .inr m0 ; exact .inl rfl ; exact .inl rfl ; exact .inl rfl ; exact .inl rfl ; exact .inl rfl)) ; (iterate 15 exact .inl rfl) ; (focus (apply Or.inr ; (repeat' (apply And.intro)) ; exact .inr m1 ; exact .inr m2)) ; (iterate 2 exact .inl rfl)))

theorem countDrop_framed (d : Dev) (hL : ∀ p ∈ ([.recd] : List Part), p ∈ L) (hd : Framed L base d) : Framed L base
    (countDrop d) := by
  have m0 : Part.recd ∈ L := hL _ (.head _)
  unfold countDrop
  repeat' first
      | with_reducible assumption | split | dsimp only [id]
      | (fail_if_no_progress ((with_reducible apply Framed.upd) ; (iterate 14 exact .inl rfl) ; exact .inr m0 ; (iterate 7 exact .inl rfl)))

theorem tarnCopy_framed (e : Entry) (d : Dev) (hL : ∀ p ∈ ([.regs, .recd] : List Part), p ∈ L) (hd
    : Framed L base d) : Framed L base (tarnCopy e d) := by
  have m0 : Part.regs ∈ L := hL _ (.head _)
  have m1 : Part.recd ∈ L := hL _ (.tail _ (.head _))
  unfold tarnCopy
  repeat' first
      | with_reducible assumption | with_reducible exact Framed.sub rfl hL | with_reducible apply countDrop_framed
      | with_reducible apply bump_framed | split | dsimp only [id]
      | (fail_if_no_progress ((with_reducible apply Framed.upd) ; (iterate 3 exact .inl rfl) ; (focus (apply Or.inr ; (repeat' (apply And.intro)) ; exact .inr m0 ; exact .inl rfl ; exact .inl rfl ; exact .inl rfl ; exact .inl rfl ; exact .inl rfl)) ; (iterate 10 exact .inl rfl) ; exact .inr m1 ; (iterate 7 exact .inl rfl)))

theorem tarnLimited_framed (e : Entry) (d : Dev) (hL : ∀ p ∈ ([.regs, .recd] : List Part), p ∈ L) (hd
    : Framed L base d) : Framed L base (tarnLimited e d) := by
  have m0 : Part.regs ∈ L := hL _ (.head _)
  have m1 : Part.recd ∈ L := hL _ (.tail _ (.head _))
  unfold tarnLimited
  repeat' first
      | with_reducible assumption | with_reducible exact Framed.sub rfl hL | with_reducible apply tarnCopy_framed
      | with_reducible apply bump_framed | with_reducible apply ite_framed | dsimp only [id]
      | (fail_if_no_progress ((with_reducible apply Framed.upd) ; (iterate 3 exact .inl rfl) ; (focus (apply Or.inr ; (repeat' (apply And.intro)) ; exact .inr m0 ; exact .inl rfl ; exact .inl rfl ; exact .inl rfl ; exact .inl rfl ; exact .inl rfl)) ; (iterate 10 exact .inl rfl) ; exact .inr m1 ; (iterate 7 exact .inl rfl)))

theorem ringAccept_framed (e : Entry) (d : Dev) (hL : ∀ p ∈ ([.regs, .recd] : List Part), p ∈ L) (hd
    : Framed L base d) : Framed L base (ringAccept e d) := by
  have m0 : Part.regs ∈ L := hL _ (.head _)
  have m1 : Part.recd ∈ L := hL _ (.tail _ (.head _))
  unfold ringAccept
  repeat' first
      | with_reducible assumption | with_reducible exact Framed.sub rfl hL | with_reducible apply countDrop_framed
      | with_reducible apply bump_framed | split | dsimp only [id]
      | (fail_if_no_progress ((with_reducible apply Framed.upd) ; (iterate 3 exact .inl rfl) ; (focus (apply Or.inr ; (repeat' (apply And.intro)) ; exact .inr m0 ; exact .inl rfl ; exact .inl rfl ; exact .inl rfl ; exact .inl rfl ; exact .inl rfl)) ; (iterate 10 exact .inl rfl) ; exact .inr m1 ; (iterate 7 exact .inl rfl)))

theorem holdingAccept_framed (e : Entry) (d : Dev) (hL : ∀ p ∈ ([.regs, .recd] : List Part), p ∈ L) (hd
    : Framed L base d) : Framed L base (holdingAccept e d) := by
  have m0 : Part.regs ∈ L := hL _ (.head _)
  have m1 : Part.recd ∈ L := hL _ (.tail _ (.head _))
  unfold holdingAccept
  repeat' first
      | with_reducible assumption | with_reducible exact Framed.sub rfl hL | with_reducible apply bump_framed
      | split | dsimp only [id]
      | (fail_if_no_progress ((with_reducible apply Framed.upd) ; (iterate 3 exact .inl rfl) ; (focus (apply Or.inr ; (repeat' (apply And.intro)) ; exact .inr m0 ; exact .inl rfl ; exact .inl rfl ; exact .inl rfl ; exact .inl rfl ; exact .inl rfl)) ; (iterate 10 exact .inl rfl) ; exact .inr m1 ; (iterate 7 exact .inl rfl)))

theorem startFlush_framed (d : Dev) (hL : ∀ p ∈ ([.recd] : List Part), p ∈ L) (hd : Framed L base d) : Framed L base
    (startFlush d) := by
  have m0 : Part.recd ∈ L := hL _ (.head _)
  unfold startFlush
  repeat' first
      | with_reducible assumption | with_reducible apply ite_framed | dsimp only [id]
      | (fail_if_no_progress ((with_reducible apply Framed.upd) ; (iterate 14 exact .inl rfl) ; exact .inr m0 ; (iterate 7 exact .inl rfl)))

theorem stageEntry_framed (e : Entry) (d : Dev) (hL : ∀ p ∈ ([.regs, .recd] : List Part), p ∈ L) (hd
    : Framed L base d) : Framed L base (stageEntry e d) := by
  have m0 : Part.regs ∈ L := hL _ (.head _)
  have m1 : Part.recd ∈ L := hL _ (.tail _ (.head _))
  unfold stageEntry
  repeat' first
      | with_reducible assumption | with_reducible exact Framed.sub rfl hL | with_reducible apply startFlush_framed
      | with_reducible apply ringAccept_framed | with_reducible apply ite_framed | dsimp only [id]
      | (fail_if_no_progress ((with_reducible apply Framed.upd) ; (iterate 3 exact .inl rfl) ; (focus (apply Or.inr ; (repeat' (apply And.intro)) ; exact .inr m0 ; exact .inl rfl ; exact .inl rfl ; exact .inl rfl ; exact .inl rfl ; exact .inl rfl)) ; (iterate 10 exact .inl rfl) ; exact .inr m1 ; (iterate 7 exact .inl rfl)))

theorem placeWith_framed (copy : Entry → Dev → Dev) (e0 : Entry) (d0 : Dev) (hL : ∀ p ∈
    ([.out, .regs, .recd, .ints, .counters] : List Part), p ∈ L) (hcopy : ∀ y0 (d
    : Dev), Framed L base d → Framed L base (copy y0 d)) (hd0 : Framed L base d0) : Framed L base
    (placeWith copy e0 d0) := by
  have m0 : Part.out ∈ L := hL _ (.head _)
  have m1 : Part.regs ∈ L := hL _ (.tail _ (.head _))
  have m2 : Part.recd ∈ L := hL _ (.tail _ (.tail _ (.head _)))
  have m3 : Part.ints ∈ L := hL _ (.tail _ (.tail _ (.tail _ (.head _))))
  have m4 : Part.counters ∈ L := hL _ (.tail _ (.tail _ (.tail _ (.tail _ (.head _)))))
  unfold placeWith
  repeat' first
      | with_reducible assumption | with_reducible exact Framed.sub rfl hL | with_reducible apply stageEntry_framed
      | with_reducible apply holdingAccept_framed | with_reducible apply ringAccept_framed
      | with_reducible apply setInt_framed | with_reducible apply countEv_framed | with_reducible apply hcopy
      | with_reducible apply ite_framed | split | dsimp only [id]
      | (fail_if_no_progress ((with_reducible apply Framed.upd) ; (iterate 2 exact .inl rfl) ; exact .inr m0 ; (focus (apply Or.inr ; (repeat' (apply And.intro)) ; exact .inr m1 ; exact .inl rfl ; exact .inl rfl ; exact .inl rfl ; exact .inl rfl ; exact .inl rfl)) ; (iterate 10 exact .inl rfl) ; exact .inr m2 ; (iterate 2 exact .inl rfl) ; (focus (apply Or.inr ; (repeat' (apply And.intro)) ; (apply Or.inl ; simp only [HostS.registers]) ; exact .inr m3 ; exact .inl rfl)) ; exact .inl rfl ; (focus (apply Or.inr ; (repeat' (apply And.intro)) ; (apply Or.inl ; simp only [HealthS.rest]) ; exact .inr m4)) ; (iterate 2 exact .inl rfl)))

theorem placeEntry_framed (e : Entry) (d : Dev) (hL : ∀ p ∈ ([.out, .regs, .recd, .ints, .counters]
    : List Part), p ∈ L) (hd : Framed L base d) : Framed L base (placeEntry e d) := by
  have m0 : Part.out ∈ L := hL _ (.head _)
  have m1 : Part.regs ∈ L := hL _ (.tail _ (.head _))
  have m2 : Part.recd ∈ L := hL _ (.tail _ (.tail _ (.head _)))
  have m3 : Part.ints ∈ L := hL _ (.tail _ (.tail _ (.tail _ (.head _))))
  have m4 : Part.counters ∈ L := hL _ (.tail _ (.tail _ (.tail _ (.tail _ (.head _)))))
  unfold placeEntry
  repeat' first
      | with_reducible assumption | with_reducible exact Framed.sub rfl hL | with_reducible intro _
      | with_reducible apply placeWith_framed | with_reducible apply tarnLimited_framed
      | with_reducible apply ite_framed | dsimp only [id]
      | (fail_if_no_progress ((with_reducible apply Framed.upd) ; (iterate 2 exact .inl rfl) ; exact .inr m0 ; (focus (apply Or.inr ; (repeat' (apply And.intro)) ; exact .inr m1 ; exact .inl rfl ; exact .inl rfl ; exact .inl rfl ; exact .inl rfl ; exact .inl rfl)) ; (iterate 10 exact .inl rfl) ; exact .inr m2 ; (iterate 2 exact .inl rfl) ; (focus (apply Or.inr ; (repeat' (apply And.intro)) ; (apply Or.inl ; simp only [HostS.registers]) ; exact .inr m3 ; exact .inl rfl)) ; exact .inl rfl ; (focus (apply Or.inr ; (repeat' (apply And.intro)) ; (apply Or.inl ; simp only [HealthS.rest]) ; exact .inr m4)) ; (iterate 2 exact .inl rfl)))

theorem earlyAccept_framed (e : Entry) (d : Dev) (hL : ∀ p ∈ ([.regs, .recd] : List Part), p ∈ L) (hd
    : Framed L base d) : Framed L base (earlyAccept e d) := by
  have m0 : Part.regs ∈ L := hL _ (.head _)
  have m1 : Part.recd ∈ L := hL _ (.tail _ (.head _))
  unfold earlyAccept
  repeat' first
      | with_reducible assumption | with_reducible exact Framed.sub rfl hL | with_reducible apply countDrop_framed
      | with_reducible apply bump_framed | with_reducible apply ite_framed | split | dsimp only [id]
      | (fail_if_no_progress ((with_reducible apply Framed.upd) ; (iterate 3 exact .inl rfl) ; (focus (apply Or.inr ; (repeat' (apply And.intro)) ; exact .inr m0 ; exact .inl rfl ; exact .inl rfl ; exact .inl rfl ; exact .inl rfl ; exact .inl rfl)) ; (iterate 10 exact .inl rfl) ; exact .inr m1 ; (iterate 7 exact .inl rfl)))

theorem recordEntry_framed (e : Entry) (d : Dev) (hL : ∀ p ∈ ([.out, .regs, .recd, .ints, .counters]
    : List Part), p ∈ L) (hd : Framed L base d) : Framed L base (recordEntry e d) := by
  unfold recordEntry
  repeat' first
      | with_reducible assumption | with_reducible exact Framed.sub rfl hL
      | with_reducible apply earlyAccept_framed | with_reducible apply placeEntry_framed
      | with_reducible apply bump_framed | with_reducible apply ite_framed | split

theorem raiseP_framed (ev : Ev) (inst : Nat) (payload : List Byte) (d : Dev) (hL : ∀ p ∈
    ([.out, .regs, .recd, .ints, .counters] : List Part), p ∈ L) (hd : Framed L base d) : Framed L base
    (raiseP ev inst payload d) := by
  unfold raiseP
  repeat' first | with_reducible assumption | with_reducible apply recordEntry_framed

theorem raise_framed (ev : Ev) (inst : Nat) (d : Dev) (hL : ∀ p ∈ ([.out, .regs, .recd, .ints, .counters]
    : List Part), p ∈ L) (hd : Framed L base d) : Framed L base (raise ev inst d) := by
  unfold raise
  repeat' first | with_reducible assumption | with_reducible apply raiseP_framed

theorem onPort_framed (p : Port) (f : PortS → PortS) (d : Dev) (hL : ∀ p ∈ ([.ports] : List Part), p ∈ L) (hd
    : Framed L base d) : Framed L base (onPort p f d) := by
  have m0 : Part.ports ∈ L := hL _ (.head _)
  unfold onPort
  repeat' first
      | with_reducible assumption | dsimp only [id]
      | (fail_if_no_progress ((with_reducible apply Framed.upd) ; (iterate 7 exact .inl rfl) ; exact .inr m0 ; (iterate 14 exact .inl rfl)))

theorem onPortTime_framed (p : Port) (f : PortTime → PortTime) (d : Dev) (hL : ∀ p ∈ ([.time] : List Part), p ∈ L)
    (hd : Framed L base d) : Framed L base (onPortTime p f d) := by
  have m0 : Part.time ∈ L := hL _ (.head _)
  unfold onPortTime
  repeat' first
      | with_reducible assumption | dsimp only [id]
      | (fail_if_no_progress ((with_reducible apply Framed.upd) ; (iterate 8 exact .inl rfl) ; (focus (apply Or.inr ; (repeat' (apply And.intro)) ; exact .inl rfl ; exact .inr m0)) ; (iterate 13 exact .inl rfl)))

theorem setRate_framed (rate : Int) (d : Dev) (hL : ∀ p ∈ ([.time] : List Part), p ∈ L) (hd : Framed L base d)
    : Framed L base (setRate rate d) := by
  have m0 : Part.time ∈ L := hL _ (.head _)
  unfold setRate
  repeat' first
      | with_reducible assumption | dsimp only [id]
      | (fail_if_no_progress ((with_reducible apply Framed.upd) ; (iterate 8 exact .inl rfl) ; (focus (apply Or.inr ; (repeat' (apply And.intro)) ; exact .inl rfl ; exact .inr m0)) ; (iterate 13 exact .inl rfl)))

theorem servoRate_framed (d : Dev) (hL : ∀ p ∈ ([.fresh, .time] : List Part), p ∈ L) (hd : Framed L base d)
    : Framed L base (servoRate d) := by
  unfold servoRate
  repeat' first
      | with_reducible assumption | with_reducible exact Framed.sub rfl hL | with_reducible apply setRate_framed
      | with_reducible apply draw_framed

theorem setTimeState_framed (st : TimeState) (d : Dev) (hL : ∀ p ∈ ([.out, .time, .ints] : List Part), p ∈ L) (hd
    : Framed L base d) : Framed L base (setTimeState st d) := by
  have m0 : Part.out ∈ L := hL _ (.head _)
  have m1 : Part.time ∈ L := hL _ (.tail _ (.head _))
  have m2 : Part.ints ∈ L := hL _ (.tail _ (.tail _ (.head _)))
  unfold setTimeState
  repeat' first
      | with_reducible assumption | with_reducible exact Framed.sub rfl hL | with_reducible apply setInt_framed
      | with_reducible apply ite_framed | split | dsimp only [id]
      | (fail_if_no_progress ((with_reducible apply Framed.upd) ; (iterate 2 exact .inl rfl) ; exact .inr m0 ; (iterate 5 exact .inl rfl) ; (focus (apply Or.inr ; (repeat' (apply And.intro)) ; exact .inl rfl ; exact .inr m1)) ; (iterate 8 exact .inl rfl) ; (focus (apply Or.inr ; (repeat' (apply And.intro)) ; (apply Or.inl ; simp only [HostS.registers]) ; exact .inr m2 ; exact .inl rfl)) ; (iterate 4 exact .inl rfl)))

theorem tevtAfterStep_framed (d : Dev) (hL : ∀ p ∈ ([.regs, .time] : List Part), p ∈ L) (hd : Framed L base d)
    : Framed L base (tevtAfterStep d) := by
  have m0 : Part.regs ∈ L := hL _ (.head _)
  have m1 : Part.time ∈ L := hL _ (.tail _ (.head _))
  unfold tevtAfterStep
  repeat' first
      | with_reducible assumption | with_reducible exact Framed.sub rfl hL | with_reducible apply bump_framed
      | with_reducible apply bumpBy_framed | with_reducible apply ite_framed | split | dsimp only [id]
      | (fail_if_no_progress ((with_reducible apply Framed.upd) ; (iterate 3 exact .inl rfl) ; (focus (apply Or.inr ; (repeat' (apply And.intro)) ; exact .inr m0 ; exact .inl rfl ; exact .inl rfl ; exact .inl rfl ; exact .inl rfl ; exact .inl rfl)) ; (iterate 4 exact .inl rfl) ; (focus (apply Or.inr ; (repeat' (apply And.intro)) ; exact .inl rfl ; exact .inr m1)) ; (iterate 13 exact .inl rfl)))

theorem streamsStep_framed (amount : Int) (d : Dev) (hL : ∀ p ∈ ([.regs, .strm] : List Part), p ∈ L) (hd
    : Framed L base d) : Framed L base (streamsStep amount d) := by
  have m0 : Part.regs ∈ L := hL _ (.head _)
  have m1 : Part.strm ∈ L := hL _ (.tail _ (.head _))
  unfold streamsStep
  repeat' first
      | with_reducible assumption | with_reducible exact Framed.sub rfl hL | with_reducible apply bump_framed
      | with_reducible apply ite_framed | dsimp only [id]
      | (fail_if_no_progress ((with_reducible apply Framed.upd) ; (iterate 3 exact .inl rfl) ; (focus (apply Or.inr ; (repeat' (apply And.intro)) ; exact .inr m0 ; exact .inl rfl ; exact .inl rfl ; exact .inl rfl ; exact .inl rfl ; exact .inl rfl)) ; (iterate 6 exact .inl rfl) ; exact .inr m1 ; (iterate 11 exact .inl rfl)))

theorem stepTime_framed (amount : Int) (d : Dev) (hL : ∀ p ∈
    ([.out, .regs, .time, .sched, .strm, .recd, .ints, .counters] : List Part), p ∈ L) (hd : Framed L base d)
    : Framed L base (stepTime amount d) := by
  have m0 : Part.out ∈ L := hL _ (.head _)
  have m1 : Part.regs ∈ L := hL _ (.tail _ (.head _))
  have m2 : Part.time ∈ L := hL _ (.tail _ (.tail _ (.head _)))
  have m3 : Part.sched ∈ L := hL _ (.tail _ (.tail _ (.tail _ (.head _))))
  have m4 : Part.strm ∈ L := hL _ (.tail _ (.tail _ (.tail _ (.tail _ (.head _)))))
  have m5 : Part.recd ∈ L := hL _ (.tail _ (.tail _ (.tail _ (.tail _ (.tail _ (.head _))))))
  have m6 : Part.ints ∈ L := hL _ (.tail _ (.tail _ (.tail _ (.tail _ (.tail _ (.tail _ (.head _)))))))
  have m7 : Part.counters ∈ L := hL _ (.tail _ (.tail _ (.tail _ (.tail _ (.tail _ (.tail _ (.tail _ (.head _))))))))
  unfold stepTime
  repeat' first
      | with_reducible assumption | with_reducible exact Framed.sub rfl hL
      | with_reducible apply streamsStep_framed | with_reducible apply tevtAfterStep_framed
      | with_reducible apply recordEntry_framed | with_reducible apply setInt_framed
      | with_reducible apply bump_framed | with_reducible apply ite_framed | dsimp only [id]
      | (fail_if_no_progress ((with_reducible apply Framed.upd) ; (iterate 2 exact .inl rfl) ; exact .inr m0 ; (focus (apply Or.inr ; (repeat' (apply And.intro)) ; exact .inr m1 ; exact .inl rfl ; exact .inl rfl ; exact .inl rfl ; exact .inl rfl ; exact .inl rfl)) ; (iterate 4 exact .inl rfl) ; (focus (apply Or.inr ; (repeat' (apply And.intro)) ; exact .inl rfl ; exact .inr m2)) ; exact .inr m3 ; exact .inr m4 ; (iterate 3 exact .inl rfl) ; exact .inr m5 ; (iterate 2 exact .inl rfl) ; (focus (apply Or.inr ; (repeat' (apply And.intro)) ; (apply Or.inl ; simp only [HostS.registers]) ; exact .inr m6 ; exact .inl rfl)) ; exact .inl rfl ; (focus (apply Or.inr ; (repeat' (apply And.intro)) ; (apply Or.inl ; simp only [HealthS.rest]) ; exact .inr m7)) ; (iterate 2 exact .inl rfl)))

end Sys2Proof.Machine
end

