-- ==== Sys2Proof/Laws/Framed/Loads.lean ====
section
/-! SUPPORT. Which parts of the device each function of Machine/Loads.lean can change. -/

-- one declaration after the other: the package is also compiled as one text, in limited memory
set_option Elab.async false

set_option linter.all false

namespace Sys2Proof.Machine

variable {L : List Part} {base : Dev}

theorem onCh_framed (k : Fin 32) (f : LoadCh → LoadCh) (d : Dev) (hL : ∀ p ∈ ([.load] : List Part), p ∈ L) (hd
    : Framed L base d) : Framed L base (onCh k f d) := by
  have m0 : Part.load ∈ L := hL _ (.head _)
  unfold onCh
  repeat' first
      | with_reducible assumption | dsimp only [id]
      | (fail_if_no_progress ((with_reducible apply Framed.upd) ; (iterate 16 exact .inl rfl) ; exact .inr m0 ; (iterate 5 exact .inl rfl)))

theorem onComp_framed (n : Fin 4) (f : Companion → Companion) (d : Dev) (hL : ∀ p ∈ ([.load] : List Part), p ∈ L)
    (hd : Framed L base d) : Framed L base (onComp n f d) := by
  have m0 : Part.load ∈ L := hL _ (.head _)
  unfold onComp
  repeat' first
      | with_reducible assumption | dsimp only [id]
      | (fail_if_no_progress ((with_reducible apply Framed.upd) ; (iterate 16 exact .inl rfl) ; exact .inr m0 ; (iterate 5 exact .inl rfl)))

theorem duePolls_framed (n : Fin 4) (d : Dev) (hL : ∀ p ∈ ([.load] : List Part), p ∈ L) (hd : Framed L base d)
    : Framed L base (duePolls n d) := by
  unfold duePolls
  repeat' first | with_reducible assumption | with_reducible apply onComp_framed

theorem startTransfer_framed (short : Bool) (n : Fin 4) (d0 : Dev) (hL : ∀ p ∈ ([.out, .load] : List Part), p ∈ L)
    (hd0 : Framed L base d0) : Framed L base (startTransfer short n d0) := by
  unfold startTransfer
  repeat' first
      | with_reducible assumption | with_reducible exact Framed.sub rfl hL | with_reducible intro _
      | with_reducible apply duePolls_framed | with_reducible apply onComp_framed
      | with_reducible apply onCh_framed | with_reducible apply forEach_framed | with_reducible apply emit_framed
      | split

theorem kick_framed (short : Bool) (n : Fin 4) (d : Dev) (hL : ∀ p ∈ ([.out, .load] : List Part), p ∈ L) (hd
    : Framed L base d) : Framed L base (kick short n d) := by
  unfold kick
  repeat' first
      | with_reducible assumption | with_reducible exact Framed.sub rfl hL
      | with_reducible apply startTransfer_framed | with_reducible apply onComp_framed
      | with_reducible apply ite_framed

theorem endTransfer_framed (n : Fin 4) (d : Dev) (hL : ∀ p ∈ ([.load] : List Part), p ∈ L) (hd : Framed L base d)
    : Framed L base (endTransfer n d) := by
  unfold endTransfer
  repeat' first
      | with_reducible assumption | with_reducible apply onComp_framed | with_reducible apply ite_framed | split
      | dsimp only [id]

theorem turnOn_framed (k : Fin 32) (d : Dev) (hL : ∀ p ∈ ([.load] : List Part), p ∈ L) (hd : Framed L base d)
    : Framed L base (turnOn k d) := by
  unfold turnOn
  repeat' first | with_reducible assumption | with_reducible apply onCh_framed

theorem refill_framed (k : Fin 32) (d : Dev) (hL : ∀ p ∈ ([.load] : List Part), p ∈ L) (hd : Framed L base d)
    : Framed L base (refill k d) := by
  unfold refill
  repeat' first | with_reducible assumption | with_reducible apply onCh_framed

theorem restart_framed (k : Fin 32) (d : Dev) (hL : ∀ p ∈ ([.load] : List Part), p ∈ L) (hd : Framed L base d)
    : Framed L base (restart k d) := by
  unfold restart
  repeat' first
      | with_reducible assumption | with_reducible apply refill_framed | with_reducible apply turnOn_framed
      | with_reducible apply onCh_framed | with_reducible apply ite_framed

theorem restartDue_framed (k : Fin 32) (d : Dev) (hL : ∀ p ∈ ([.load] : List Part), p ∈ L) (hd : Framed L base d)
    : Framed L base (restartDue k d) := by
  unfold restartDue
  repeat' first
      | with_reducible assumption | with_reducible apply restart_framed | with_reducible apply onCh_framed
      | with_reducible apply ite_framed

theorem holdChannels_framed (n : Fin 4) (d : Dev) (hL : ∀ p ∈ ([.load] : List Part), p ∈ L) (hd : Framed L base d)
    : Framed L base (holdChannels n d) := by
  unfold holdChannels
  repeat' first
      | with_reducible assumption | with_reducible intro _ | with_reducible apply onCh_framed
      | with_reducible apply forEach_framed

theorem startRefill_framed (k : Fin 32) (d : Dev) (hL : ∀ p ∈ ([.load] : List Part), p ∈ L) (hd : Framed L base d)
    : Framed L base (startRefill k d) := by
  unfold startRefill
  repeat' first | with_reducible assumption | with_reducible apply onCh_framed

theorem tripChannel_framed (low : Bool) (k : Fin 32) (d : Dev) (hL : ∀ p ∈
    ([.out, .regs, .recd, .load, .ints, .counters] : List Part), p ∈ L) (hd : Framed L base d) : Framed L base
    (tripChannel low k d) := by
  unfold tripChannel
  repeat' first
      | with_reducible assumption | with_reducible exact Framed.sub rfl hL | with_reducible apply onCh_framed
      | with_reducible apply raise_framed | with_reducible apply ite_framed

theorem latchChannel_framed (k : Fin 32) (d : Dev) (hL : ∀ p ∈ ([.load] : List Part), p ∈ L) (hd : Framed L base d)
    : Framed L base (latchChannel k d) := by
  unfold latchChannel
  repeat' first | with_reducible assumption | with_reducible apply onCh_framed

theorem extendWindows_framed (n : Fin 4) (trips : Nat) (d : Dev) (hL : ∀ p ∈
    ([.out, .regs, .recd, .load, .ints, .counters] : List Part), p ∈ L) (hd : Framed L base d) : Framed L base
    (extendWindows n trips d) := by
  unfold extendWindows
  repeat' first
      | with_reducible assumption | with_reducible exact Framed.sub rfl hL | with_reducible intro _
      | with_reducible apply onCh_framed | with_reducible apply forEach_framed | with_reducible apply raise_framed
      | with_reducible apply bump_framed | with_reducible apply ite_framed

theorem identify_framed (keep : Byte) (n : Fin 4) (d : Dev) (hL : ∀ p ∈ ([.load] : List Part), p ∈ L) (hd
    : Framed L base d) : Framed L base (identify keep n d) := by
  unfold identify
  repeat' first | with_reducible assumption | with_reducible apply onComp_framed

theorem identified_framed (n : Fin 4) (v : Nat) (d : Dev) (hL : ∀ p ∈ ([.out, .regs, .recd, .load, .ints, .counters]
    : List Part), p ∈ L) (hd : Framed L base d) : Framed L base (identified n v d) := by
  unfold identified
  repeat' first
      | with_reducible assumption | with_reducible exact Framed.sub rfl hL | with_reducible apply onComp_framed
      | with_reducible apply raise_framed | with_reducible apply ite_framed

theorem planRestore_framed (n : Fin 4) (d : Dev) (hL : ∀ p ∈ ([.load] : List Part), p ∈ L) (hd : Framed L base d)
    : Framed L base (planRestore n d) := by
  unfold planRestore
  repeat' first | with_reducible assumption | with_reducible apply onComp_framed

theorem enterRunning_framed (n : Fin 4) (d : Dev) (hL : ∀ p ∈ ([.load] : List Part), p ∈ L) (hd : Framed L base d)
    : Framed L base (enterRunning n d) := by
  unfold enterRunning
  repeat' first
      | with_reducible assumption | with_reducible intro _ | with_reducible apply planRestore_framed
      | with_reducible apply onComp_framed | with_reducible apply onCh_framed | with_reducible apply forEach_framed
      | with_reducible apply ite_framed

theorem badStatus_framed (n : Fin 4) (d : Dev) (hL : ∀ p ∈ ([.out, .regs, .recd, .load, .ints, .counters]
    : List Part), p ∈ L) (hd : Framed L base d) : Framed L base (badStatus n d) := by
  unfold badStatus
  repeat' first
      | with_reducible assumption | with_reducible exact Framed.sub rfl hL
      | with_reducible apply holdChannels_framed | with_reducible apply onComp_framed
      | with_reducible apply raise_framed | with_reducible apply bump_framed | with_reducible apply ite_framed

theorem statusChannels_framed (n : Fin 4) (low : Bool) (trips therm warm : Nat) (d : Dev) (hL : ∀ p ∈
    ([.out, .regs, .recd, .load, .ints, .counters] : List Part), p ∈ L) (hd : Framed L base d) : Framed L base
    (statusChannels n low trips therm warm d) := by
  unfold statusChannels
  repeat' first
      | with_reducible assumption | with_reducible exact Framed.sub rfl hL | with_reducible intro _
      | with_reducible apply extendWindows_framed | with_reducible apply latchChannel_framed
      | with_reducible apply tripChannel_framed | with_reducible apply startRefill_framed
      | with_reducible apply onCh_framed | with_reducible apply onlyIf_framed | with_reducible apply forEach_framed
      | with_reducible apply raise_framed | with_reducible apply countEv_framed | with_reducible apply bump_framed
      | with_reducible apply ite_framed

theorem statusSupply_framed (n : Fin 4) (low : Bool) (d : Dev) (hL : ∀ p ∈
    ([.out, .regs, .recd, .load, .ints, .counters] : List Part), p ∈ L) (hd : Framed L base d) : Framed L base
    (statusSupply n low d) := by
  unfold statusSupply
  repeat' first
      | with_reducible assumption | with_reducible exact Framed.sub rfl hL | with_reducible intro _
      | with_reducible apply planRestore_framed | with_reducible apply holdChannels_framed
      | with_reducible apply onComp_framed | with_reducible apply onlyIf_framed | with_reducible apply raise_framed
      | with_reducible apply bump_framed | with_reducible apply ite_framed

theorem goodStatus_framed (n : Fin 4) (b : Nat → Nat) (d0 : Dev) (hL : ∀ p ∈
    ([.out, .regs, .recd, .load, .ints, .counters] : List Part), p ∈ L) (hd0 : Framed L base d0) : Framed L base
    (goodStatus n b d0) := by
  unfold goodStatus
  repeat' first
      | with_reducible assumption | with_reducible exact Framed.sub rfl hL | with_reducible intro _
      | with_reducible apply statusSupply_framed | with_reducible apply statusChannels_framed
      | with_reducible apply enterRunning_framed | with_reducible apply identify_framed
      | with_reducible apply holdChannels_framed | with_reducible apply onComp_framed
      | with_reducible apply onCh_framed | with_reducible apply forEach_framed | with_reducible apply raise_framed
      | with_reducible apply bump_framed | with_reducible apply ite_framed | split

theorem execStatusFrame_framed (n : Fin 4) (bytes : Vector Byte 8) (s : State)
    : DoesFramed [.clock, .out, .regs, .recd, .load, .ints, .counters] s (execStatusFrame n bytes s) := by
  unfold execStatusFrame
  first | with_reducible apply does_framed | (with_reducible refine doesJudged_framed _ _ ?_ rfl) | skip
  all_goals (try (intro L base d hL hd ; beta_reduce))
  repeat' first
      | with_reducible assumption | with_reducible exact Framed.sub rfl hL | with_reducible apply goodStatus_framed
      | with_reducible apply badStatus_framed | with_reducible apply endTransfer_framed
      | with_reducible apply onComp_framed | with_reducible apply arrive_framed | with_reducible apply ite_framed
      | split

theorem clampReport_framed (k : Fin 32) (uj : Nat) (d : Dev) (hL : ∀ p ∈
    ([.out, .regs, .recd, .load, .ints, .counters] : List Part), p ∈ L) (hd : Framed L base d) : Framed L base
    (clampReport k uj d) := by
  unfold clampReport
  repeat' first
      | with_reducible assumption | with_reducible exact Framed.sub rfl hL | with_reducible apply kick_framed
      | with_reducible apply onCh_framed | with_reducible apply raise_framed | with_reducible apply bump_framed
      | with_reducible apply ite_framed

theorem readValue_framed (n : Fin 4) (reg i v : Nat) (d : Dev) (hL : ∀ p ∈
    ([.out, .regs, .recd, .load, .ints, .counters] : List Part), p ∈ L) (hd : Framed L base d) : Framed L base
    (readValue n reg i v d) := by
  unfold readValue
  repeat' first
      | with_reducible assumption | with_reducible exact Framed.sub rfl hL
      | with_reducible apply clampReport_framed | with_reducible apply identified_framed
      | with_reducible apply onCh_framed | with_reducible apply ite_framed | split

theorem execReadReply_framed (n : Fin 4) (bytes : Vector Byte 8) (s : State)
    : DoesFramed [.clock, .out, .regs, .recd, .load, .ints, .counters] s (execReadReply n bytes s) := by
  unfold execReadReply
  first | with_reducible apply does_framed | (with_reducible refine doesJudged_framed _ _ ?_ rfl) | skip
  all_goals (try (intro L base d hL hd ; beta_reduce))
  repeat' first
      | with_reducible assumption | with_reducible exact Framed.sub rfl hL | with_reducible apply readValue_framed
      | with_reducible apply endTransfer_framed | with_reducible apply onComp_framed
      | with_reducible apply arrive_framed | with_reducible apply ite_framed | split

theorem execCompanionFaultLine_framed (n : Fin 4) (s : State) : DoesFramed [.out, .load] s
    (execCompanionFaultLine n s) := by
  unfold execCompanionFaultLine
  first | with_reducible apply does_framed | (with_reducible refine doesJudged_framed _ _ ?_ rfl) | skip
  all_goals (try (intro L base d hL hd ; beta_reduce))
  repeat' first | with_reducible assumption | with_reducible apply kick_framed

theorem execTransferGap_framed (n : Fin 4) (s : State) : DoesFramed [.clock, .out, .load, .counters] s
    (execTransferGap n s) := by
  unfold execTransferGap
  first | with_reducible apply does_framed | (with_reducible refine doesJudged_framed _ _ ?_ rfl) | skip
  all_goals (try (intro L base d hL hd ; beta_reduce))
  repeat' first
      | with_reducible assumption | with_reducible exact Framed.sub rfl hL
      | with_reducible apply startTransfer_framed | with_reducible apply arrive_framed | split

theorem execLinkRetry_framed (n : Fin 4) (s : State) : DoesFramed [.clock, .out, .load, .counters] s
    (execLinkRetry n s) := by
  unfold execLinkRetry
  first | with_reducible apply does_framed | (with_reducible refine doesJudged_framed _ _ ?_ rfl) | skip
  all_goals (try (intro L base d hL hd ; beta_reduce))
  repeat' first
      | with_reducible assumption | with_reducible exact Framed.sub rfl hL
      | with_reducible apply startTransfer_framed | with_reducible apply arrive_framed | split

theorem execInrushWindowEnd_framed (k : Fin 32) (s : State) : DoesFramed [.clock, .out, .load, .counters] s
    (execInrushWindowEnd k s) := by
  unfold execInrushWindowEnd
  first | with_reducible apply does_framed | (with_reducible refine doesJudged_framed _ _ ?_ rfl) | skip
  all_goals (try (intro L base d hL hd ; beta_reduce))
  repeat' first
      | with_reducible assumption | with_reducible exact Framed.sub rfl hL | with_reducible apply kick_framed
      | with_reducible apply onCh_framed | with_reducible apply arrive_framed | split

theorem execRetryDelayEnd_framed (k : Fin 32) (s : State) : DoesFramed [.clock, .out, .load, .counters] s
    (execRetryDelayEnd k s) := by
  unfold execRetryDelayEnd
  first | with_reducible apply does_framed | (with_reducible refine doesJudged_framed _ _ ?_ rfl) | skip
  all_goals (try (intro L base d hL hd ; beta_reduce))
  repeat' first
      | with_reducible assumption | with_reducible exact Framed.sub rfl hL | with_reducible apply restartDue_framed
      | with_reducible apply kick_framed | with_reducible apply arrive_framed | split

theorem execRetryRefill_framed (k : Fin 32) (s : State) : DoesFramed [.clock, .load, .counters] s
    (execRetryRefill k s) := by
  unfold execRetryRefill
  first | with_reducible apply does_framed | (with_reducible refine doesJudged_framed _ _ ?_ rfl) | skip
  all_goals (try (intro L base d hL hd ; beta_reduce))
  repeat' first
      | with_reducible assumption | with_reducible exact Framed.sub rfl hL | with_reducible apply refill_framed
      | with_reducible apply onCh_framed | with_reducible apply arrive_framed | split

theorem releaseLatch_framed (k : Fin 32) (d : Dev) (hL : ∀ p ∈ ([.out, .regs, .recd, .load, .ints, .counters]
    : List Part), p ∈ L) (hd : Framed L base d) : Framed L base (releaseLatch k d) := by
  unfold releaseLatch
  repeat' first
      | with_reducible assumption | with_reducible exact Framed.sub rfl hL
      | with_reducible apply startRefill_framed | with_reducible apply restartDue_framed
      | with_reducible apply refill_framed | with_reducible apply onCh_framed | with_reducible apply raise_framed
      | with_reducible apply ite_framed

theorem execThermalLatchRelease_framed (k : Fin 32) (s : State)
    : DoesFramed [.clock, .out, .regs, .recd, .load, .ints, .counters] s (execThermalLatchRelease k s) := by
  unfold execThermalLatchRelease
  first | with_reducible apply does_framed | (with_reducible refine doesJudged_framed _ _ ?_ rfl) | skip
  all_goals (try (intro L base d hL hd ; beta_reduce))
  repeat' first
      | with_reducible assumption | with_reducible exact Framed.sub rfl hL
      | with_reducible apply releaseLatch_framed | with_reducible apply kick_framed
      | with_reducible apply arrive_framed | split

theorem execClampBinExpiry_framed (k : Fin 32) (s : State) : DoesFramed [.clock, .load, .counters] s
    (execClampBinExpiry k s) := by
  unfold execClampBinExpiry
  first | with_reducible apply does_framed | (with_reducible refine doesJudged_framed _ _ ?_ rfl) | skip
  all_goals (try (intro L base d hL hd ; beta_reduce))
  repeat' first
      | with_reducible assumption | with_reducible exact Framed.sub rfl hL | with_reducible apply onCh_framed
      | with_reducible apply arrive_framed | split

theorem edgeEffect_framed (k : Fin 32) (d : Dev) (hL : ∀ p ∈ ([.load] : List Part), p ∈ L) (hd : Framed L base d)
    : Framed L base (edgeEffect k d) := by
  unfold edgeEffect
  repeat' first
      | with_reducible assumption | with_reducible apply turnOn_framed | with_reducible apply onCh_framed
      | with_reducible apply ite_framed | split

theorem edgeAt_framed (t : Nat) (k : Fin 32) (d : Dev) (hL : ∀ p ∈ ([.load] : List Part), p ∈ L) (hd
    : Framed L base d) : Framed L base (edgeAt t k d) := by
  unfold edgeAt
  repeat' first
      | with_reducible assumption | with_reducible apply turnOn_framed | with_reducible apply onCh_framed
      | with_reducible apply ite_framed | split

theorem execPulseEdge_framed (k : Fin 32) (s : State) : DoesFramed [.clock, .out, .regs, .load, .counters] s
    (execPulseEdge k s) := by
  unfold execPulseEdge
  first | with_reducible apply does_framed | (with_reducible refine doesJudged_framed _ _ ?_ rfl) | skip
  all_goals (try (intro L base d hL hd ; beta_reduce))
  repeat' first
      | with_reducible assumption | with_reducible exact Framed.sub rfl hL | with_reducible intro _
      | with_reducible apply edgeAt_framed | with_reducible apply kick_framed | with_reducible apply onlyIf_framed
      | with_reducible apply forEach_framed | with_reducible apply arriveTrain_framed
      | with_reducible apply bump_framed | with_reducible apply ite_framed

theorem execRestoreSlot_framed (n : Fin 4) (s : State) : DoesFramed [.clock, .out, .load, .counters] s
    (execRestoreSlot n s) := by
  unfold execRestoreSlot
  first | with_reducible apply does_framed | (with_reducible refine doesJudged_framed _ _ ?_ rfl) | skip
  all_goals (try (intro L base d hL hd ; beta_reduce))
  repeat' first
      | with_reducible assumption | with_reducible exact Framed.sub rfl hL | with_reducible apply restart_framed
      | with_reducible apply kick_framed | with_reducible apply onComp_framed | with_reducible apply arrive_framed
      | split | dsimp only [id]

theorem commandLoad_framed (k : Fin 32) (v : Bool) (d : Dev) (hL : ∀ p ∈ ([.out, .regs, .load] : List Part), p ∈ L)
    (hd : Framed L base d) : Framed L base (commandLoad k v d) := by
  unfold commandLoad
  repeat' first
      | with_reducible assumption | with_reducible exact Framed.sub rfl hL | with_reducible intro _
      | with_reducible apply startRefill_framed | with_reducible apply refill_framed
      | with_reducible apply turnOn_framed | with_reducible apply kick_framed | with_reducible apply onCh_framed
      | with_reducible apply onlyIf_framed | with_reducible apply setReg_framed | with_reducible apply ite_framed
      | split

theorem unlockLoads_framed (n : Fin 4) (v : Nat) (d : Dev) (hL : ∀ p ∈
    ([.out, .regs, .recd, .load, .ints, .counters] : List Part), p ∈ L) (hd : Framed L base d) : Framed L base
    (unlockLoads n v d) := by
  unfold unlockLoads
  repeat' first
      | with_reducible assumption | with_reducible exact Framed.sub rfl hL | with_reducible intro _
      | with_reducible apply onCh_framed | with_reducible apply forEach_framed | with_reducible apply raise_framed
      | with_reducible apply setReg_framed

theorem settleLink_framed (n : Fin 4) (d : Dev) (hL : ∀ p ∈ ([.out, .load] : List Part), p ∈ L) (hd
    : Framed L base d) : Framed L base (settleLink n d) := by
  unfold settleLink
  repeat' first
      | with_reducible assumption | with_reducible exact Framed.sub rfl hL | with_reducible intro _
      | with_reducible apply identify_framed | with_reducible apply kick_framed
      | with_reducible apply onComp_framed | with_reducible apply onCh_framed | with_reducible apply forEach_framed
      | with_reducible apply ite_framed

theorem rework_framed (was : Dev) (d : Dev) (hL : ∀ p ∈ ([.out, .load] : List Part), p ∈ L) (hwas
    : Framed L base was) (hd : Framed L base d) : Framed L base (rework was d) := by
  unfold rework
  repeat' first
      | with_reducible assumption | with_reducible exact Framed.sub rfl hL | with_reducible intro _
      | with_reducible apply edgeEffect_framed | with_reducible apply kick_framed
      | with_reducible apply onCh_framed | with_reducible apply forEach_framed

theorem stepAll_framed (amount : Int) (d : Dev) (hL : ∀ p ∈
    ([.out, .regs, .time, .sched, .strm, .recd, .load, .ints, .counters] : List Part), p ∈ L) (hd : Framed L base d)
    : Framed L base (stepAll amount d) := by
  unfold stepAll
  repeat' first
      | with_reducible assumption | with_reducible exact Framed.sub rfl hL | with_reducible apply rework_framed
      | with_reducible apply stepTime_framed

theorem applyLoads_framed (old : Dev) (d : Dev) (hL : ∀ p ∈ ([.out, .load] : List Part), p ∈ L) (hold
    : Framed L base old) (hd : Framed L base d) : Framed L base (applyLoads old d) := by
  unfold applyLoads
  repeat' first
      | with_reducible assumption | with_reducible exact Framed.sub rfl hL | with_reducible intro _
      | with_reducible apply rework_framed | with_reducible apply settleLink_framed
      | with_reducible apply onComp_framed | with_reducible apply forEach_framed | split

theorem loadsStart_framed (d : Dev) (hL : ∀ p ∈ ([.out, .regs, .load] : List Part), p ∈ L) (hd : Framed L base d)
    : Framed L base (loadsStart d) := by
  unfold loadsStart
  repeat' first
      | with_reducible assumption | with_reducible exact Framed.sub rfl hL | with_reducible intro _
      | with_reducible apply settleLink_framed | with_reducible apply onCh_framed
      | with_reducible apply forEach_framed | with_reducible apply setReg_framed

theorem loadsSleep_framed (d : Dev) (hL : ∀ p ∈ ([.out, .load] : List Part), p ∈ L) (hd : Framed L base d)
    : Framed L base (loadsSleep d) := by
  unfold loadsSleep
  repeat' first
      | with_reducible assumption | with_reducible exact Framed.sub rfl hL | with_reducible intro _
      | with_reducible apply onComp_framed | with_reducible apply onCh_framed | with_reducible apply forEach_framed
      | with_reducible apply emit_framed | with_reducible apply ite_framed

end Sys2Proof.Machine
end

