-- ==== Sys2Proof/Laws/Framed/Recorder.lean ====
section
/-! SUPPORT. Which parts of the device each function of Machine/Recorder.lean can change. -/

-- one declaration after the other: the package is also compiled as one text, in limited memory
set_option Elab.async false

set_option linter.all false

namespace Sys2Proof.Machine

variable {L : List Part} {base : Dev}

theorem logOne_framed (e : Entry) (d : Dev) (hL : ∀ p ∈ ([.regs, .recd] : List Part), p ∈ L) (hd : Framed L base d)
    : Framed L base (logOne e d) := by
  have m0 : Part.regs ∈ L := hL _ (.head _)
  have m1 : Part.recd ∈ L := hL _ (.tail _ (.head _))
  unfold logOne
  repeat' first
      | with_reducible assumption | with_reducible exact Framed.sub rfl hL | with_reducible apply bump_framed
      | split | dsimp only [id]
      | (fail_if_no_progress ((with_reducible apply Framed.upd) ; (iterate 3 exact .inl rfl) ; (focus (apply Or.inr ; (repeat' (apply And.intro)) ; exact .inr m0 ; exact .inl rfl ; exact .inl rfl ; exact .inl rfl ; exact .inl rfl ; exact .inl rfl)) ; (iterate 10 exact .inl rfl) ; exact .inr m1 ; (iterate 7 exact .inl rfl)))

theorem logWrite_framed (es : List Entry) (d : Dev) (hL : ∀ p ∈ ([.regs, .recd] : List Part), p ∈ L) (hd
    : Framed L base d) : Framed L base (logWrite es d) := by
  have m0 : Part.regs ∈ L := hL _ (.head _)
  have m1 : Part.recd ∈ L := hL _ (.tail _ (.head _))
  unfold logWrite
  repeat' first
      | with_reducible assumption | with_reducible intro _ | with_reducible apply logOne_framed
      | with_reducible apply forEach_framed | with_reducible apply ite_framed | dsimp only [id]
      | (fail_if_no_progress ((with_reducible apply Framed.upd) ; (iterate 3 exact .inl rfl) ; (focus (apply Or.inr ; (repeat' (apply And.intro)) ; exact .inr m0 ; exact .inl rfl ; exact .inl rfl ; exact .inl rfl ; exact .inl rfl ; exact .inl rfl)) ; (iterate 10 exact .inl rfl) ; exact .inr m1 ; (iterate 7 exact .inl rfl)))

theorem finishWriteBack_framed (d : Dev) (hL : ∀ p ∈ ([.out, .regs, .recd, .ints, .counters] : List Part), p ∈ L)
    (hd : Framed L base d) : Framed L base (finishWriteBack d) := by
  have m0 : Part.out ∈ L := hL _ (.head _)
  have m1 : Part.regs ∈ L := hL _ (.tail _ (.head _))
  have m2 : Part.recd ∈ L := hL _ (.tail _ (.tail _ (.head _)))
  have m3 : Part.ints ∈ L := hL _ (.tail _ (.tail _ (.tail _ (.head _))))
  have m4 : Part.counters ∈ L := hL _ (.tail _ (.tail _ (.tail _ (.tail _ (.head _)))))
  unfold finishWriteBack
  repeat' first
      | with_reducible assumption | with_reducible exact Framed.sub rfl hL | with_reducible apply raise_framed
      | with_reducible apply bump_framed | with_reducible apply ite_framed | dsimp only [id]
      | (fail_if_no_progress ((with_reducible apply Framed.upd) ; (iterate 2 exact .inl rfl) ; exact .inr m0 ; (focus (apply Or.inr ; (repeat' (apply And.intro)) ; exact .inr m1 ; exact .inl rfl ; exact .inl rfl ; exact .inl rfl ; exact .inl rfl ; exact .inl rfl)) ; (iterate 10 exact .inl rfl) ; exact .inr m2 ; (iterate 2 exact .inl rfl) ; (focus (apply Or.inr ; (repeat' (apply And.intro)) ; (apply Or.inl ; simp only [HostS.registers]) ; exact .inr m3 ; exact .inl rfl)) ; exact .inl rfl ; (focus (apply Or.inr ; (repeat' (apply And.intro)) ; (apply Or.inl ; simp only [HealthS.rest]) ; exact .inr m4)) ; (iterate 2 exact .inl rfl)))

theorem holdingOverflow_framed (d : Dev) (hL : ∀ p ∈ ([.out, .regs, .recd, .ints, .counters] : List Part), p ∈ L)
    (hd : Framed L base d) : Framed L base (holdingOverflow d) := by
  have m0 : Part.out ∈ L := hL _ (.head _)
  have m1 : Part.regs ∈ L := hL _ (.tail _ (.head _))
  have m2 : Part.recd ∈ L := hL _ (.tail _ (.tail _ (.head _)))
  have m3 : Part.ints ∈ L := hL _ (.tail _ (.tail _ (.tail _ (.head _))))
  have m4 : Part.counters ∈ L := hL _ (.tail _ (.tail _ (.tail _ (.tail _ (.head _)))))
  unfold holdingOverflow
  repeat' first
      | with_reducible assumption | with_reducible apply raiseP_framed | with_reducible apply ite_framed
      | dsimp only [id]
      | (fail_if_no_progress ((with_reducible apply Framed.upd) ; (iterate 2 exact .inl rfl) ; exact .inr m0 ; (focus (apply Or.inr ; (repeat' (apply And.intro)) ; exact .inr m1 ; exact .inl rfl ; exact .inl rfl ; exact .inl rfl ; exact .inl rfl ; exact .inl rfl)) ; (iterate 10 exact .inl rfl) ; exact .inr m2 ; (iterate 2 exact .inl rfl) ; (focus (apply Or.inr ; (repeat' (apply And.intro)) ; (apply Or.inl ; simp only [HostS.registers]) ; exact .inr m3 ; exact .inl rfl)) ; exact .inl rfl ; (focus (apply Or.inr ; (repeat' (apply And.intro)) ; (apply Or.inl ; simp only [HealthS.rest]) ; exact .inr m4)) ; (iterate 2 exact .inl rfl)))

theorem summaryDrops_framed (d : Dev) (hL : ∀ p ∈ ([.recd] : List Part), p ∈ L) (hd : Framed L base d)
    : Framed L base (summaryDrops d) := by
  have m0 : Part.recd ∈ L := hL _ (.head _)
  unfold summaryDrops
  repeat' first
      | with_reducible assumption | dsimp only [id]
      | (fail_if_no_progress ((with_reducible apply Framed.upd) ; (iterate 14 exact .inl rfl) ; exact .inr m0 ; (iterate 7 exact .inl rfl)))

theorem checkWriteBack_framed (d0 : Dev) (hL : ∀ p ∈ ([.out, .regs, .recd, .ints, .counters] : List Part), p ∈ L)
    (hd0 : Framed L base d0) : Framed L base (checkWriteBack d0) := by
  have m0 : Part.out ∈ L := hL _ (.head _)
  have m1 : Part.regs ∈ L := hL _ (.tail _ (.head _))
  have m2 : Part.recd ∈ L := hL _ (.tail _ (.tail _ (.head _)))
  have m3 : Part.ints ∈ L := hL _ (.tail _ (.tail _ (.tail _ (.head _))))
  have m4 : Part.counters ∈ L := hL _ (.tail _ (.tail _ (.tail _ (.tail _ (.head _)))))
  unfold checkWriteBack
  repeat' first
      | with_reducible assumption | with_reducible exact Framed.sub rfl hL
      | with_reducible apply summaryDrops_framed | with_reducible apply holdingOverflow_framed
      | with_reducible apply finishWriteBack_framed | with_reducible apply ite_framed | split | dsimp only [id]
      | (fail_if_no_progress ((with_reducible apply Framed.upd) ; (iterate 2 exact .inl rfl) ; exact .inr m0 ; (focus (apply Or.inr ; (repeat' (apply And.intro)) ; exact .inr m1 ; exact .inl rfl ; exact .inl rfl ; exact .inl rfl ; exact .inl rfl ; exact .inl rfl)) ; (iterate 10 exact .inl rfl) ; exact .inr m2 ; (iterate 2 exact .inl rfl) ; (focus (apply Or.inr ; (repeat' (apply And.intro)) ; (apply Or.inl ; simp only [HostS.registers]) ; exact .inr m3 ; exact .inl rfl)) ; exact .inl rfl ; (focus (apply Or.inr ; (repeat' (apply And.intro)) ; (apply Or.inl ; simp only [HealthS.rest]) ; exact .inr m4)) ; (iterate 2 exact .inl rfl)))

theorem enterWriteBack_framed (afterRing : Bool) (d : Dev) (hL : ∀ p ∈ ([.out, .regs, .recd, .ints, .counters]
    : List Part), p ∈ L) (hd : Framed L base d) : Framed L base (enterWriteBack afterRing d) := by
  have m0 : Part.out ∈ L := hL _ (.head _)
  have m1 : Part.regs ∈ L := hL _ (.tail _ (.head _))
  have m2 : Part.recd ∈ L := hL _ (.tail _ (.tail _ (.head _)))
  have m3 : Part.ints ∈ L := hL _ (.tail _ (.tail _ (.tail _ (.head _))))
  have m4 : Part.counters ∈ L := hL _ (.tail _ (.tail _ (.tail _ (.tail _ (.head _)))))
  unfold enterWriteBack
  repeat' first
      | with_reducible assumption | with_reducible apply checkWriteBack_framed | dsimp only [id]
      | (fail_if_no_progress ((with_reducible apply Framed.upd) ; (iterate 2 exact .inl rfl) ; exact .inr m0 ; (focus (apply Or.inr ; (repeat' (apply And.intro)) ; exact .inr m1 ; exact .inl rfl ; exact .inl rfl ; exact .inl rfl ; exact .inl rfl ; exact .inl rfl)) ; (iterate 10 exact .inl rfl) ; exact .inr m2 ; (iterate 2 exact .inl rfl) ; (focus (apply Or.inr ; (repeat' (apply And.intro)) ; (apply Or.inl ; simp only [HostS.registers]) ; exact .inr m3 ; exact .inl rfl)) ; exact .inl rfl ; (focus (apply Or.inr ; (repeat' (apply And.intro)) ; (apply Or.inl ; simp only [HealthS.rest]) ; exact .inr m4)) ; (iterate 2 exact .inl rfl)))

theorem refillStaging_framed (d : Dev) (hL : ∀ p ∈ ([.recd] : List Part), p ∈ L) (hd : Framed L base d)
    : Framed L base (refillStaging d) := by
  have m0 : Part.recd ∈ L := hL _ (.head _)
  unfold refillStaging
  repeat' first
      | with_reducible assumption | with_reducible apply ite_framed | dsimp only [id]
      | (fail_if_no_progress ((with_reducible apply Framed.upd) ; (iterate 14 exact .inl rfl) ; exact .inr m0 ; (iterate 7 exact .inl rfl)))

theorem flushIfDue_framed (d : Dev) (hL : ∀ p ∈ ([.recd] : List Part), p ∈ L) (hd : Framed L base d) : Framed L base
    (flushIfDue d) := by
  unfold flushIfDue
  repeat' first | with_reducible assumption | with_reducible apply startFlush_framed | with_reducible apply ite_framed

theorem takeStaged_framed (d : Dev) (hL : ∀ p ∈ ([.recd] : List Part), p ∈ L) (hd : Framed L base d) : Framed L base
    (takeStaged d).2 := by
  have m0 : Part.recd ∈ L := hL _ (.head _)
  unfold takeStaged
  repeat' first
      | with_reducible assumption | dsimp only [id]
      | (fail_if_no_progress ((with_reducible apply Framed.upd) ; (iterate 14 exact .inl rfl) ; exact .inr m0 ; (iterate 7 exact .inl rfl)))

theorem takeStaged_pair (d : Dev) {r0 : _} {d' : Dev} (e : takeStaged d = (r0, d')) (hL : ∀ p ∈ ([.recd]
    : List Part), p ∈ L) (hd : Framed L base d) : Framed L base d' := by
  have := takeStaged_framed d hL hd
  rw [e] at this
  exact this

theorem freezeLog_framed (d : Dev) (hL : ∀ p ∈ ([.out, .regs, .recd, .ints, .counters] : List Part), p ∈ L) (hd
    : Framed L base d) : Framed L base (freezeLog d) := by
  have m0 : Part.out ∈ L := hL _ (.head _)
  have m1 : Part.regs ∈ L := hL _ (.tail _ (.head _))
  have m2 : Part.recd ∈ L := hL _ (.tail _ (.tail _ (.head _)))
  have m3 : Part.ints ∈ L := hL _ (.tail _ (.tail _ (.tail _ (.head _))))
  have m4 : Part.counters ∈ L := hL _ (.tail _ (.tail _ (.tail _ (.tail _ (.head _)))))
  unfold freezeLog
  repeat' first
      | with_reducible assumption | with_reducible exact Framed.sub rfl hL | with_reducible intro _
      | with_reducible apply takeStaged_framed | with_reducible apply forEach_framed
      | with_reducible apply raise_framed | with_reducible apply holdingAccept_framed | dsimp only [id]
      | (fail_if_no_progress ((with_reducible apply Framed.upd) ; (iterate 2 exact .inl rfl) ; exact .inr m0 ; (focus (apply Or.inr ; (repeat' (apply And.intro)) ; exact .inr m1 ; exact .inl rfl ; exact .inl rfl ; exact .inl rfl ; exact .inl rfl ; exact .inl rfl)) ; (iterate 10 exact .inl rfl) ; exact .inr m2 ; (iterate 2 exact .inl rfl) ; (focus (apply Or.inr ; (repeat' (apply And.intro)) ; (apply Or.inl ; simp only [HostS.registers]) ; exact .inr m3 ; exact .inl rfl)) ; exact .inl rfl ; (focus (apply Or.inr ; (repeat' (apply And.intro)) ; (apply Or.inl ; simp only [HealthS.rest]) ; exact .inr m4)) ; (iterate 2 exact .inl rfl)))

theorem unfreezeLog_framed (d : Dev) (hL : ∀ p ∈ ([.out, .regs, .recd, .ints, .counters] : List Part), p ∈ L) (hd
    : Framed L base d) : Framed L base (unfreezeLog d) := by
  have m0 : Part.out ∈ L := hL _ (.head _)
  have m1 : Part.regs ∈ L := hL _ (.tail _ (.head _))
  have m2 : Part.recd ∈ L := hL _ (.tail _ (.tail _ (.head _)))
  have m3 : Part.ints ∈ L := hL _ (.tail _ (.tail _ (.tail _ (.head _))))
  have m4 : Part.counters ∈ L := hL _ (.tail _ (.tail _ (.tail _ (.tail _ (.head _)))))
  unfold unfreezeLog
  repeat' first
      | with_reducible assumption | with_reducible apply checkWriteBack_framed | with_reducible apply raise_framed
      | with_reducible apply ite_framed | dsimp only [id]
      | (fail_if_no_progress ((with_reducible apply Framed.upd) ; (iterate 2 exact .inl rfl) ; exact .inr m0 ; (focus (apply Or.inr ; (repeat' (apply And.intro)) ; exact .inr m1 ; exact .inl rfl ; exact .inl rfl ; exact .inl rfl ; exact .inl rfl ; exact .inl rfl)) ; (iterate 10 exact .inl rfl) ; exact .inr m2 ; (iterate 2 exact .inl rfl) ; (focus (apply Or.inr ; (repeat' (apply And.intro)) ; (apply Or.inl ; simp only [HostS.registers]) ; exact .inr m3 ; exact .inl rfl)) ; exact .inl rfl ; (focus (apply Or.inr ; (repeat' (apply And.intro)) ; (apply Or.inl ; simp only [HealthS.rest]) ; exact .inr m4)) ; (iterate 2 exact .inl rfl)))

theorem numberEarly_framed (d : Dev) (hL : ∀ p ∈ ([.out, .regs, .recd, .ints, .counters] : List Part), p ∈ L) (hd
    : Framed L base d) : Framed L base (numberEarly d) := by
  have m0 : Part.out ∈ L := hL _ (.head _)
  have m1 : Part.regs ∈ L := hL _ (.tail _ (.head _))
  have m2 : Part.recd ∈ L := hL _ (.tail _ (.tail _ (.head _)))
  have m3 : Part.ints ∈ L := hL _ (.tail _ (.tail _ (.tail _ (.head _))))
  have m4 : Part.counters ∈ L := hL _ (.tail _ (.tail _ (.tail _ (.tail _ (.head _)))))
  unfold numberEarly
  repeat' first
      | with_reducible assumption | with_reducible intro _ | with_reducible apply forEach_framed
      | with_reducible apply placeEntry_framed | dsimp only [id]
      | (fail_if_no_progress ((with_reducible apply Framed.upd) ; (iterate 2 exact .inl rfl) ; exact .inr m0 ; (focus (apply Or.inr ; (repeat' (apply And.intro)) ; exact .inr m1 ; exact .inl rfl ; exact .inl rfl ; exact .inl rfl ; exact .inl rfl ; exact .inl rfl)) ; (iterate 10 exact .inl rfl) ; exact .inr m2 ; (iterate 2 exact .inl rfl) ; (focus (apply Or.inr ; (repeat' (apply And.intro)) ; (apply Or.inl ; simp only [HostS.registers]) ; exact .inr m3 ; exact .inl rfl)) ; exact .inl rfl ; (focus (apply Or.inr ; (repeat' (apply And.intro)) ; (apply Or.inl ; simp only [HealthS.rest]) ; exact .inr m4)) ; (iterate 2 exact .inl rfl)))

theorem mediumFails_framed (cause : MediumCause) (d : Dev) (hL : ∀ p ∈ ([.out, .regs, .recd, .ints, .counters]
    : List Part), p ∈ L) (hd : Framed L base d) : Framed L base (mediumFails cause d) := by
  have m0 : Part.out ∈ L := hL _ (.head _)
  have m1 : Part.regs ∈ L := hL _ (.tail _ (.head _))
  have m2 : Part.recd ∈ L := hL _ (.tail _ (.tail _ (.head _)))
  have m3 : Part.ints ∈ L := hL _ (.tail _ (.tail _ (.tail _ (.head _))))
  have m4 : Part.counters ∈ L := hL _ (.tail _ (.tail _ (.tail _ (.tail _ (.head _)))))
  unfold mediumFails
  repeat' first
      | with_reducible assumption | with_reducible exact Framed.sub rfl hL | with_reducible intro _
      | with_reducible apply numberEarly_framed | with_reducible apply takeStaged_framed
      | with_reducible apply forEach_framed | with_reducible apply raise_framed
      | with_reducible apply ringAccept_framed | with_reducible apply bump_framed | split | dsimp only [id]
      | (fail_if_no_progress ((with_reducible apply Framed.upd) ; (iterate 2 exact .inl rfl) ; exact .inr m0 ; (focus (apply Or.inr ; (repeat' (apply And.intro)) ; exact .inr m1 ; exact .inl rfl ; exact .inl rfl ; exact .inl rfl ; exact .inl rfl ; exact .inl rfl)) ; (iterate 10 exact .inl rfl) ; exact .inr m2 ; (iterate 2 exact .inl rfl) ; (focus (apply Or.inr ; (repeat' (apply And.intro)) ; (apply Or.inl ; simp only [HostS.registers]) ; exact .inr m3 ; exact .inl rfl)) ; exact .inl rfl ; (focus (apply Or.inr ; (repeat' (apply And.intro)) ; (apply Or.inl ; simp only [HealthS.rest]) ; exact .inr m4)) ; (iterate 2 exact .inl rfl)))

theorem closeRecorder_framed (cause : Nat) (d : Dev) (hL : ∀ p ∈ ([.out, .regs, .recd, .ints, .counters]
    : List Part), p ∈ L) (hd : Framed L base d) : Framed L base (closeRecorder cause d) := by
  have m0 : Part.out ∈ L := hL _ (.head _)
  have m1 : Part.regs ∈ L := hL _ (.tail _ (.head _))
  have m2 : Part.recd ∈ L := hL _ (.tail _ (.tail _ (.head _)))
  have m3 : Part.ints ∈ L := hL _ (.tail _ (.tail _ (.tail _ (.head _))))
  have m4 : Part.counters ∈ L := hL _ (.tail _ (.tail _ (.tail _ (.tail _ (.head _)))))
  unfold closeRecorder
  repeat' first
      | with_reducible assumption | with_reducible exact Framed.sub rfl hL | with_reducible intro _
      | with_reducible apply takeStaged_framed | with_reducible apply holdingOverflow_framed
      | with_reducible apply logWrite_framed | with_reducible apply forEach_framed
      | with_reducible apply ringAccept_framed | with_reducible apply ite_framed | split | dsimp only [id]
      | (fail_if_no_progress ((with_reducible apply Framed.upd) ; (iterate 2 exact .inl rfl) ; exact .inr m0 ; (focus (apply Or.inr ; (repeat' (apply And.intro)) ; exact .inr m1 ; exact .inl rfl ; exact .inl rfl ; exact .inl rfl ; exact .inl rfl ; exact .inl rfl)) ; (iterate 10 exact .inl rfl) ; exact .inr m2 ; (iterate 2 exact .inl rfl) ; (focus (apply Or.inr ; (repeat' (apply And.intro)) ; (apply Or.inl ; simp only [HostS.registers]) ; exact .inr m3 ; exact .inl rfl)) ; exact .inl rfl ; (focus (apply Or.inr ; (repeat' (apply And.intro)) ; (apply Or.inl ; simp only [HealthS.rest]) ; exact .inr m4)) ; (iterate 2 exact .inl rfl)))

theorem reopenRecorder_framed (d : Dev) (hL : ∀ p ∈ ([.out, .regs, .recd, .ints, .counters] : List Part), p ∈ L) (hd
    : Framed L base d) : Framed L base (reopenRecorder d) := by
  have m0 : Part.out ∈ L := hL _ (.head _)
  have m1 : Part.regs ∈ L := hL _ (.tail _ (.head _))
  have m2 : Part.recd ∈ L := hL _ (.tail _ (.tail _ (.head _)))
  have m3 : Part.ints ∈ L := hL _ (.tail _ (.tail _ (.tail _ (.head _))))
  have m4 : Part.counters ∈ L := hL _ (.tail _ (.tail _ (.tail _ (.tail _ (.head _)))))
  unfold reopenRecorder
  repeat' first
      | with_reducible assumption | with_reducible apply enterWriteBack_framed | with_reducible apply ite_framed
      | dsimp only [id]
      | (fail_if_no_progress ((with_reducible apply Framed.upd) ; (iterate 2 exact .inl rfl) ; exact .inr m0 ; (focus (apply Or.inr ; (repeat' (apply And.intro)) ; exact .inr m1 ; exact .inl rfl ; exact .inl rfl ; exact .inl rfl ; exact .inl rfl ; exact .inl rfl)) ; (iterate 10 exact .inl rfl) ; exact .inr m2 ; (iterate 2 exact .inl rfl) ; (focus (apply Or.inr ; (repeat' (apply And.intro)) ; (apply Or.inl ; simp only [HostS.registers]) ; exact .inr m3 ; exact .inl rfl)) ; exact .inl rfl ; (focus (apply Or.inr ; (repeat' (apply And.intro)) ; (apply Or.inl ; simp only [HealthS.rest]) ; exact .inr m4)) ; (iterate 2 exact .inl rfl)))

theorem recorderOff_framed (d : Dev) (hL : ∀ p ∈ ([.recd] : List Part), p ∈ L) (hd : Framed L base d)
    : Framed L base (recorderOff d) := by
  have m0 : Part.recd ∈ L := hL _ (.head _)
  unfold recorderOff
  repeat' first
      | with_reducible assumption | split | dsimp only [id]
      | (fail_if_no_progress ((with_reducible apply Framed.upd) ; (iterate 14 exact .inl rfl) ; exact .inr m0 ; (iterate 7 exact .inl rfl)))

theorem recorderBoot_framed (d : Dev) (hL : ∀ p ∈ ([.recd] : List Part), p ∈ L) (hd : Framed L base d)
    : Framed L base (recorderBoot d) := by
  have m0 : Part.recd ∈ L := hL _ (.head _)
  unfold recorderBoot
  repeat' first
      | with_reducible assumption | dsimp only [id]
      | (fail_if_no_progress ((with_reducible apply Framed.upd) ; (iterate 14 exact .inl rfl) ; exact .inr m0 ; (iterate 7 exact .inl rfl)))

theorem formatLog_framed (d : Dev) (hL : ∀ p ∈ ([.fresh, .recd] : List Part), p ∈ L) (hd : Framed L base d)
    : Framed L base (formatLog d) := by
  have m0 : Part.fresh ∈ L := hL _ (.head _)
  have m1 : Part.recd ∈ L := hL _ (.tail _ (.head _))
  unfold formatLog
  repeat' first
      | with_reducible assumption | with_reducible exact Framed.sub rfl hL | with_reducible apply draw_framed
      | split | dsimp only [id]
      | (fail_if_no_progress ((with_reducible apply Framed.upd) ; exact .inl rfl ; exact .inr m0 ; (iterate 12 exact .inl rfl) ; exact .inr m1 ; (iterate 7 exact .inl rfl)))

theorem previousShutdown_framed (d : Dev) (hL : ∀ p ∈ ([.out, .regs, .recd, .ints, .counters] : List Part), p ∈ L)
    (hd : Framed L base d) : Framed L base (previousShutdown d) := by
  have m0 : Part.out ∈ L := hL _ (.head _)
  have m1 : Part.regs ∈ L := hL _ (.tail _ (.head _))
  have m2 : Part.recd ∈ L := hL _ (.tail _ (.tail _ (.head _)))
  have m3 : Part.ints ∈ L := hL _ (.tail _ (.tail _ (.tail _ (.head _))))
  have m4 : Part.counters ∈ L := hL _ (.tail _ (.tail _ (.tail _ (.tail _ (.head _)))))
  unfold previousShutdown
  repeat' first
      | with_reducible assumption | with_reducible apply raiseP_framed | with_reducible apply ite_framed | split
      | dsimp only [id]
      | (fail_if_no_progress ((with_reducible apply Framed.upd) ; (iterate 2 exact .inl rfl) ; exact .inr m0 ; (focus (apply Or.inr ; (repeat' (apply And.intro)) ; exact .inr m1 ; exact .inl rfl ; exact .inl rfl ; exact .inl rfl ; exact .inl rfl ; exact .inl rfl)) ; (iterate 10 exact .inl rfl) ; exact .inr m2 ; (iterate 2 exact .inl rfl) ; (focus (apply Or.inr ; (repeat' (apply And.intro)) ; (apply Or.inl ; simp only [HostS.registers]) ; exact .inr m3 ; exact .inl rfl)) ; exact .inl rfl ; (focus (apply Or.inr ; (repeat' (apply And.intro)) ; (apply Or.inl ; simp only [HealthS.rest]) ; exact .inr m4)) ; (iterate 2 exact .inl rfl)))

theorem scanEnds_framed (blank : Bool) (d : Dev) (hL : ∀ p ∈ ([.fresh, .out, .regs, .recd, .ints, .counters]
    : List Part), p ∈ L) (hd : Framed L base d) : Framed L base (scanEnds blank d) := by
  have m0 : Part.fresh ∈ L := hL _ (.head _)
  have m1 : Part.out ∈ L := hL _ (.tail _ (.head _))
  have m2 : Part.regs ∈ L := hL _ (.tail _ (.tail _ (.head _)))
  have m3 : Part.recd ∈ L := hL _ (.tail _ (.tail _ (.tail _ (.head _))))
  have m4 : Part.ints ∈ L := hL _ (.tail _ (.tail _ (.tail _ (.tail _ (.head _)))))
  have m5 : Part.counters ∈ L := hL _ (.tail _ (.tail _ (.tail _ (.tail _ (.tail _ (.head _))))))
  unfold scanEnds
  repeat' first
      | with_reducible assumption | with_reducible exact Framed.sub rfl hL | with_reducible intro _
      | with_reducible apply previousShutdown_framed | with_reducible apply formatLog_framed
      | with_reducible apply numberEarly_framed | with_reducible apply checkWriteBack_framed
      | with_reducible apply forEach_framed | with_reducible apply raise_framed
      | with_reducible apply ringAccept_framed | with_reducible apply ite_framed | split | dsimp only [id]
      | (fail_if_no_progress ((with_reducible apply Framed.upd) ; exact .inl rfl ; exact .inr m0 ; exact .inr m1 ; (focus (apply Or.inr ; (repeat' (apply And.intro)) ; exact .inr m2 ; exact .inl rfl ; exact .inl rfl ; exact .inl rfl ; exact .inl rfl ; exact .inl rfl)) ; (iterate 10 exact .inl rfl) ; exact .inr m3 ; (iterate 2 exact .inl rfl) ; (focus (apply Or.inr ; (repeat' (apply And.intro)) ; (apply Or.inl ; simp only [HostS.registers]) ; exact .inr m4 ; exact .inl rfl)) ; exact .inl rfl ; (focus (apply Or.inr ; (repeat' (apply And.intro)) ; (apply Or.inl ; simp only [HealthS.rest]) ; exact .inr m5)) ; (iterate 2 exact .inl rfl)))

theorem execFlushDelay_framed (s : State) : DoesFramed [.clock, .recd, .counters] s (execFlushDelay s) := by
  unfold execFlushDelay
  first | with_reducible apply does_framed | (with_reducible refine doesJudged_framed _ _ ?_ rfl) | skip
  all_goals (try (intro L base d hL hd ; beta_reduce))
  repeat' first
      | with_reducible assumption | with_reducible exact Framed.sub rfl hL | with_reducible apply startFlush_framed
      | with_reducible apply arrive_framed | split

theorem execLogWriteComplete_framed (s : State) : DoesFramed [.out, .regs, .recd, .ints, .counters] s
    (execLogWriteComplete s) := by
  unfold execLogWriteComplete
  first | with_reducible apply does_framed | (with_reducible refine doesJudged_framed _ _ ?_ rfl) | skip
  all_goals (try (intro L base d hL hd ; have m0 : Part.out ∈ L := hL _ (.head _) ; have m1 : Part.regs ∈ L := hL _ (.tail _ (.head _)) ; have m2 : Part.recd ∈ L := hL _ (.tail _ (.tail _ (.head _))) ; have m3 : Part.ints ∈ L := hL _ (.tail _ (.tail _ (.tail _ (.head _)))) ; have m4 : Part.counters ∈ L := hL _ (.tail _ (.tail _ (.tail _ (.tail _ (.head _)))))))
  all_goals (try beta_reduce)
  repeat' first
      | with_reducible assumption | with_reducible exact Framed.sub rfl hL | with_reducible apply flushIfDue_framed
      | with_reducible apply refillStaging_framed | with_reducible apply checkWriteBack_framed
      | with_reducible apply logWrite_framed | split | dsimp only [id]
      | (fail_if_no_progress ((with_reducible apply Framed.upd) ; (iterate 2 exact .inl rfl) ; exact .inr m0 ; (focus (apply Or.inr ; (repeat' (apply And.intro)) ; exact .inr m1 ; exact .inl rfl ; exact .inl rfl ; exact .inl rfl ; exact .inl rfl ; exact .inl rfl)) ; (iterate 10 exact .inl rfl) ; exact .inr m2 ; (iterate 2 exact .inl rfl) ; (focus (apply Or.inr ; (repeat' (apply And.intro)) ; (apply Or.inl ; simp only [HostS.registers]) ; exact .inr m3 ; exact .inl rfl)) ; exact .inl rfl ; (focus (apply Or.inr ; (repeat' (apply And.intro)) ; (apply Or.inl ; simp only [HealthS.rest]) ; exact .inr m4)) ; (iterate 2 exact .inl rfl)))

theorem execFreezeLimit_framed (s : State) : DoesFramed [.clock, .out, .regs, .recd, .ints, .counters] s
    (execFreezeLimit s) := by
  unfold execFreezeLimit
  first | with_reducible apply does_framed | (with_reducible refine doesJudged_framed _ _ ?_ rfl) | skip
  all_goals (try (intro L base d hL hd ; beta_reduce))
  repeat' first
      | with_reducible assumption | with_reducible exact Framed.sub rfl hL
      | with_reducible apply unfreezeLog_framed | with_reducible apply raise_framed
      | with_reducible apply arrive_framed | with_reducible apply bump_framed | split

theorem execMediumFailure_framed (cause : MediumCause) (s : State)
    : DoesFramed [.out, .regs, .recd, .ints, .counters] s (execMediumFailure cause s) := by
  unfold execMediumFailure
  first | with_reducible apply does_framed | (with_reducible refine doesJudged_framed _ _ ?_ rfl) | skip
  all_goals (try (intro L base d hL hd ; beta_reduce))
  repeat' first | with_reducible assumption | with_reducible apply mediumFails_framed

theorem execMediumRetry_framed (ok : Bool) (s : State) : DoesFramed [.clock, .out, .regs, .recd, .ints, .counters] s
    (execMediumRetry ok s) := by
  unfold execMediumRetry
  first | with_reducible apply does_framed | (with_reducible refine doesJudged_framed _ _ ?_ rfl) | skip
  all_goals (try (intro L base d hL hd ; have m0 : Part.clock ∈ L := hL _ (.head _) ; have m1 : Part.out ∈ L := hL _ (.tail _ (.head _)) ; have m2 : Part.regs ∈ L := hL _ (.tail _ (.tail _ (.head _))) ; have m3 : Part.recd ∈ L := hL _ (.tail _ (.tail _ (.tail _ (.head _)))) ; have m4 : Part.ints ∈ L := hL _ (.tail _ (.tail _ (.tail _ (.tail _ (.head _))))) ; have m5 : Part.counters ∈ L := hL _ (.tail _ (.tail _ (.tail _ (.tail _ (.tail _ (.head _))))))))
  all_goals (try beta_reduce)
  repeat' first
      | with_reducible assumption | with_reducible exact Framed.sub rfl hL
      | with_reducible apply enterWriteBack_framed | with_reducible apply raise_framed
      | with_reducible apply arrive_framed | with_reducible apply ite_framed | split | dsimp only [id]
      | (fail_if_no_progress ((with_reducible apply Framed.upd) ; exact .inr m0 ; exact .inl rfl ; exact .inr m1 ; (focus (apply Or.inr ; (repeat' (apply And.intro)) ; exact .inr m2 ; exact .inl rfl ; exact .inl rfl ; exact .inl rfl ; exact .inl rfl ; exact .inl rfl)) ; (iterate 4 exact .inl rfl) ; (focus (apply Or.inr ; (repeat' (apply And.intro)) ; exact .inr m0 ; (apply Or.inl ; simp only [TimeS.rest]))) ; (iterate 5 exact .inl rfl) ; exact .inr m3 ; (iterate 2 exact .inl rfl) ; (focus (apply Or.inr ; (repeat' (apply And.intro)) ; (apply Or.inl ; simp only [HostS.registers]) ; exact .inr m4 ; exact .inl rfl)) ; exact .inl rfl ; (focus (apply Or.inr ; (repeat' (apply And.intro)) ; (apply Or.inl ; simp only [HealthS.rest]) ; exact .inr m5)) ; (iterate 2 exact .inl rfl)))

theorem execScanComplete_framed (o : ScanOutcome) (s : State)
    : DoesFramed [.fresh, .out, .regs, .recd, .ints, .counters] s (execScanComplete o s) := by
  unfold execScanComplete
  first | with_reducible apply does_framed | (with_reducible refine doesJudged_framed _ _ ?_ rfl) | skip
  all_goals (try (intro L base d hL hd ; have m0 : Part.fresh ∈ L := hL _ (.head _) ; have m1 : Part.out ∈ L := hL _ (.tail _ (.head _)) ; have m2 : Part.regs ∈ L := hL _ (.tail _ (.tail _ (.head _))) ; have m3 : Part.recd ∈ L := hL _ (.tail _ (.tail _ (.tail _ (.head _)))) ; have m4 : Part.ints ∈ L := hL _ (.tail _ (.tail _ (.tail _ (.tail _ (.head _))))) ; have m5 : Part.counters ∈ L := hL _ (.tail _ (.tail _ (.tail _ (.tail _ (.tail _ (.head _))))))))
  all_goals (try beta_reduce)
  repeat' first
      | with_reducible assumption | with_reducible exact Framed.sub rfl hL | with_reducible apply scanEnds_framed
      | with_reducible apply mediumFails_framed | with_reducible apply ite_framed | split | dsimp only [id]
      | (fail_if_no_progress ((with_reducible apply Framed.upd) ; exact .inl rfl ; exact .inr m0 ; exact .inr m1 ; (focus (apply Or.inr ; (repeat' (apply And.intro)) ; exact .inr m2 ; exact .inl rfl ; exact .inl rfl ; exact .inl rfl ; exact .inl rfl ; exact .inl rfl)) ; (iterate 10 exact .inl rfl) ; exact .inr m3 ; (iterate 2 exact .inl rfl) ; (focus (apply Or.inr ; (repeat' (apply And.intro)) ; (apply Or.inl ; simp only [HostS.registers]) ; exact .inr m4 ; exact .inl rfl)) ; exact .inl rfl ; (focus (apply Or.inr ; (repeat' (apply And.intro)) ; (apply Or.inl ; simp only [HealthS.rest]) ; exact .inr m5)) ; (iterate 2 exact .inl rfl)))

end Sys2Proof.Machine
end

