-- ==== Sys2Proof/Laws/Framed/Stamps.lean ====
section
/-! SUPPORT. Which parts of the device each function of Machine/Stamps.lean can change. -/

-- one declaration after the other: the package is also compiled as one text, in limited memory
set_option Elab.async false

set_option linter.all false

namespace Sys2Proof.Machine

variable {L : List Part} {base : Dev}

theorem noteOverflow_framed (inst : Nat) (d : Dev) (hL : ∀ p ∈ ([.out, .regs, .time, .recd, .ints, .counters]
    : List Part), p ∈ L) (hd : Framed L base d) : Framed L base (noteOverflow inst d) := by
  have m0 : Part.out ∈ L := hL _ (.head _)
  have m1 : Part.regs ∈ L := hL _ (.tail _ (.head _))
  have m2 : Part.time ∈ L := hL _ (.tail _ (.tail _ (.head _)))
  have m3 : Part.recd ∈ L := hL _ (.tail _ (.tail _ (.tail _ (.head _))))
  have m4 : Part.ints ∈ L := hL _ (.tail _ (.tail _ (.tail _ (.tail _ (.head _)))))
  have m5 : Part.counters ∈ L := hL _ (.tail _ (.tail _ (.tail _ (.tail _ (.tail _ (.head _))))))
  unfold noteOverflow
  repeat' first
      | with_reducible assumption | with_reducible exact Framed.sub rfl hL | with_reducible apply raise_framed
      | with_reducible apply ite_framed | dsimp only [id]
      | (fail_if_no_progress ((with_reducible apply Framed.upd) ; (iterate 2 exact .inl rfl) ; exact .inr m0 ; (focus (apply Or.inr ; (repeat' (apply And.intro)) ; exact .inr m1 ; exact .inl rfl ; exact .inl rfl ; exact .inl rfl ; exact .inl rfl ; exact .inl rfl)) ; (iterate 4 exact .inl rfl) ; (focus (apply Or.inr ; (repeat' (apply And.intro)) ; exact .inl rfl ; exact .inr m2)) ; (iterate 5 exact .inl rfl) ; exact .inr m3 ; (iterate 2 exact .inl rfl) ; (focus (apply Or.inr ; (repeat' (apply And.intro)) ; (apply Or.inl ; simp only [HostS.registers]) ; exact .inr m4 ; exact .inl rfl)) ; exact .inl rfl ; (focus (apply Or.inr ; (repeat' (apply And.intro)) ; (apply Or.inl ; simp only [HealthS.rest]) ; exact .inr m5)) ; (iterate 2 exact .inl rfl)))

theorem storeTxStamp_framed (p : Port) (ident : Nat) (d : Dev) (hL : ∀ p ∈
    ([.out, .regs, .time, .recd, .ints, .counters] : List Part), p ∈ L) (hd : Framed L base d) : Framed L base
    (storeTxStamp p ident d) := by
  unfold storeTxStamp
  repeat' first
      | with_reducible assumption | with_reducible exact Framed.sub rfl hL
      | with_reducible apply noteOverflow_framed | with_reducible apply onPortTime_framed
      | with_reducible apply bump_framed | with_reducible apply ite_framed

end Sys2Proof.Machine
end

