-- ==== Sys2Proof/Laws/Framed/Rings.lean ====
section
/-! SUPPORT. Which parts of the device each function of Machine/Rings.lean can change. -/

-- one declaration after the other: the package is also compiled as one text, in limited memory
set_option Elab.async false

set_option linter.all false

namespace Sys2Proof.Machine

variable {L : List Part} {base : Dev}

theorem onRing_framed (r : Fin 10) (f : Ring → Ring) (d : Dev) (hL : ∀ p ∈ ([.host] : List Part), p ∈ L) (hd
    : Framed L base d) : Framed L base (onRing r f d) := by
  have m0 : Part.host ∈ L := hL _ (.head _)
  unfold onRing
  repeat' first
      | with_reducible assumption | dsimp only [id]
      | (fail_if_no_progress ((with_reducible apply Framed.upd) ; (iterate 17 exact .inl rfl) ; (focus (apply Or.inr ; (repeat' (apply And.intro)) ; exact .inr m0 ; exact .inl rfl ; exact .inl rfl)) ; (iterate 4 exact .inl rfl)))

theorem ringInt_framed (r : Fin 10) (d : Dev) (hL : ∀ p ∈ ([.out, .host, .ints] : List Part), p ∈ L) (hd
    : Framed L base d) : Framed L base (ringInt r d) := by
  unfold ringInt
  repeat' first
      | with_reducible assumption | with_reducible exact Framed.sub rfl hL | with_reducible apply onRing_framed
      | with_reducible apply setInt_framed | with_reducible apply ite_framed

theorem writeBackOne_framed (r : Fin 10) (index : Nat) (flags : Byte) (off : Nat) (tail : List Byte) (d : Dev) (hL
    : ∀ p ∈ ([.out, .host, .ints] : List Part), p ∈ L) (hd : Framed L base d) : Framed L base
    (writeBackOne r index flags off tail d) := by
  unfold writeBackOne
  repeat' first
      | with_reducible assumption | with_reducible exact Framed.sub rfl hL | with_reducible apply ringInt_framed
      | with_reducible apply onRing_framed | with_reducible apply emits_framed | with_reducible apply ite_framed

theorem flushDone_framed (n : Nat) (r : Fin 10) (off : Nat) (d : Dev) (hL : ∀ p ∈ ([.out, .host, .ints]
    : List Part), p ∈ L)
    (hd : Framed L base d) : Framed L base (flushDone n r off d) := by
  induction n generalizing d with
  | zero => exact hd
  | succ n ih =>
    unfold flushDone
    repeat' first
        | with_reducible assumption | with_reducible exact Framed.sub rfl hL | with_reducible apply ih
        | with_reducible apply writeBackOne_framed | with_reducible apply onRing_framed | split | dsimp only [id]

theorem completeTx_framed (o : HostOrigin) (status : Nat) (ident : Option Nat) (d : Dev) (hL : ∀ p ∈
    ([.out, .host, .ints] : List Part), p ∈ L) (hd : Framed L base d) : Framed L base
    (completeTx o status ident d) := by
  unfold completeTx
  repeat' first
      | with_reducible assumption | with_reducible exact Framed.sub rfl hL | with_reducible apply flushDone_framed
      | with_reducible apply onRing_framed | with_reducible apply ite_framed

theorem ringDrop_framed (r : Fin 10) (d : Dev) (hL : ∀ p ∈ ([.host] : List Part), p ∈ L) (hd : Framed L base d)
    : Framed L base (ringDrop r d) := by
  unfold ringDrop
  repeat' first | with_reducible assumption | with_reducible apply onRing_framed

theorem deliverHost_framed (f : QFrame) (d : Dev) (hL : ∀ p ∈ ([.out, .host, .ints] : List Part), p ∈ L) (hd
    : Framed L base d) : Framed L base (deliverHost f d) := by
  unfold deliverHost
  repeat' first
      | with_reducible assumption | with_reducible exact Framed.sub rfl hL | with_reducible apply ringInt_framed
      | with_reducible apply onRing_framed | with_reducible apply emits_framed | split | dsimp only [id]

theorem drainHost_framed (d : Dev) (hL : ∀ p ∈ ([.out, .fab, .host, .ints] : List Part), p ∈ L) (hd
    : Framed L base d) : Framed L base (drainHost d) := by
  have m0 : Part.out ∈ L := hL _ (.head _)
  have m1 : Part.fab ∈ L := hL _ (.tail _ (.head _))
  have m2 : Part.host ∈ L := hL _ (.tail _ (.tail _ (.head _)))
  have m3 : Part.ints ∈ L := hL _ (.tail _ (.tail _ (.tail _ (.head _))))
  unfold drainHost
  repeat' first
      | with_reducible assumption | with_reducible exact Framed.sub rfl hL | with_reducible intro _
      | with_reducible apply deliverHost_framed | with_reducible apply foldl_framed
      | with_reducible apply ite_framed | dsimp only [id]
      | (fail_if_no_progress ((with_reducible apply Framed.upd) ; (iterate 2 exact .inl rfl) ; exact .inr m0 ; (iterate 3 exact .inl rfl) ; (focus (apply Or.inr ; (repeat' (apply And.intro)) ; exact .inr m1 ; (apply Or.inl ; first | rfl | (simp only [FabricS.held] ; done) | (simp only [FabricS.held] ; split <;> rfl)))) ; (iterate 10 exact .inl rfl) ; (focus (apply Or.inr ; (repeat' (apply And.intro)) ; exact .inr m2 ; exact .inr m3 ; exact .inl rfl)) ; (iterate 4 exact .inl rfl)))

end Sys2Proof.Machine
end

