-- ==== Sys2Proof/Laws/Framed/Mac.lean ====
section
/-! SUPPORT. Which parts of the device each function of Machine/Mac.lean can change. -/

-- one declaration after the other: the package is also compiled as one text, in limited memory
set_option Elab.async false

set_option linter.all false

namespace Sys2Proof.Machine

variable {L : List Part} {base : Dev}

theorem countGood_framed (p : Port) (len : Nat) (d : Dev) (hL : ∀ p ∈ ([.regs, .counters] : List Part), p ∈ L) (hd
    : Framed L base d) : Framed L base (countGood p len d) := by
  unfold countGood
  repeat' first
      | with_reducible assumption | with_reducible exact Framed.sub rfl hL | with_reducible apply countEv_framed
      | with_reducible apply bump64_framed

theorem settlePause_framed (p : Port) (d : Dev) (hL : ∀ p ∈ ([.ports] : List Part), p ∈ L) (hd : Framed L base d)
    : Framed L base (settlePause p d) := by
  unfold settlePause
  repeat' first | with_reducible assumption | with_reducible apply onPort_framed

theorem startPause_framed (p : Port) (ns : Nat) (d : Dev) (hL : ∀ p ∈ ([.ports] : List Part), p ∈ L) (hd
    : Framed L base d) : Framed L base (startPause p ns d) := by
  unfold startPause
  repeat' first | with_reducible assumption | with_reducible apply onPort_framed

theorem endPause_framed (p : Port) (d : Dev) (hL : ∀ p ∈ ([.ports] : List Part), p ∈ L) (hd : Framed L base d)
    : Framed L base (endPause p d) := by
  unfold endPause
  repeat' first | with_reducible assumption | with_reducible apply onPort_framed | with_reducible apply ite_framed

theorem clearPause_framed (p : Port) (d : Dev) (hL : ∀ p ∈ ([.ports] : List Part), p ∈ L) (hd : Framed L base d)
    : Framed L base (clearPause p d) := by
  unfold clearPause
  repeat' first | with_reducible assumption | with_reducible apply onPort_framed

theorem tripWatchdog_framed (p : Port) (d : Dev) (hL : ∀ p ∈ ([.out, .regs, .ports, .recd, .ints, .counters]
    : List Part), p ∈ L) (hd : Framed L base d) : Framed L base (tripWatchdog p d) := by
  unfold tripWatchdog
  repeat' first
      | with_reducible assumption | with_reducible exact Framed.sub rfl hL | with_reducible apply endPause_framed
      | with_reducible apply onPort_framed | with_reducible apply raise_framed | with_reducible apply bump_framed

theorem takePause_framed (p : Port) (q : Nat) (d0 : Dev) (hL : ∀ p ∈ ([.out, .regs, .ports, .recd, .ints, .counters]
    : List Part), p ∈ L) (hd0 : Framed L base d0) : Framed L base (takePause p q d0) := by
  unfold takePause
  repeat' first
      | with_reducible assumption | with_reducible exact Framed.sub rfl hL
      | with_reducible apply tripWatchdog_framed | with_reducible apply endPause_framed
      | with_reducible apply startPause_framed | with_reducible apply settlePause_framed
      | with_reducible apply onPort_framed | with_reducible apply bump_framed | with_reducible apply ite_framed

theorem takeMacControl_framed (p : Port) (d : Dev) (hL : ∀ p ∈ ([.regs] : List Part), p ∈ L) (hd : Framed L base d)
    : Framed L base (takeMacControl p d) := by
  unfold takeMacControl
  repeat' first | with_reducible assumption | with_reducible apply bump_framed

theorem execPause_framed (p : Port) (quanta : BitVec 16) (s : State)
    : DoesFramed [.out, .regs, .ports, .recd, .ints, .counters] s (execPause p quanta s) := by
  unfold execPause
  first | with_reducible apply does_framed | (with_reducible refine doesJudged_framed _ _ ?_ rfl) | skip
  all_goals (try (intro L base d hL hd ; beta_reduce))
  repeat' first
      | with_reducible assumption | with_reducible exact Framed.sub rfl hL | with_reducible apply takePause_framed
      | with_reducible apply countGood_framed | with_reducible apply ite_framed

theorem execMacControlFrame_framed (p : Port) (opcode : BitVec 16) (s : State) : DoesFramed [.regs, .counters] s
    (execMacControlFrame p opcode s) := by
  unfold execMacControlFrame
  first | with_reducible apply does_framed | (with_reducible refine doesJudged_framed _ _ ?_ rfl) | skip
  all_goals (try (intro L base d hL hd ; beta_reduce))
  repeat' first
      | with_reducible assumption | with_reducible exact Framed.sub rfl hL
      | with_reducible apply takeMacControl_framed | with_reducible apply countGood_framed
      | with_reducible apply ite_framed

theorem execPauseEnd_framed (p : Port) (s : State) : DoesFramed [.clock, .ports, .counters] s (execPauseEnd p s) := by
  unfold execPauseEnd
  first | with_reducible apply does_framed | (with_reducible refine doesJudged_framed _ _ ?_ rfl) | skip
  all_goals (try (intro L base d hL hd ; beta_reduce))
  repeat' first
      | with_reducible assumption | with_reducible exact Framed.sub rfl hL
      | with_reducible apply settlePause_framed | with_reducible apply arrive_framed | split | dsimp only [id]

theorem execPauseWatchdog_framed (p : Port) (s : State)
    : DoesFramed [.clock, .out, .regs, .ports, .recd, .ints, .counters] s (execPauseWatchdog p s) := by
  unfold execPauseWatchdog
  first | with_reducible apply does_framed | (with_reducible refine doesJudged_framed _ _ ?_ rfl) | skip
  all_goals (try (intro L base d hL hd ; beta_reduce))
  repeat' first
      | with_reducible assumption | with_reducible exact Framed.sub rfl hL
      | with_reducible apply tripWatchdog_framed | with_reducible apply settlePause_framed
      | with_reducible apply arrive_framed | with_reducible apply ite_framed | split

theorem execPauseHoldOffEnd_framed (p : Port) (s : State) : DoesFramed [.clock, .ports, .counters] s
    (execPauseHoldOffEnd p s) := by
  unfold execPauseHoldOffEnd
  first | with_reducible apply does_framed | (with_reducible refine doesJudged_framed _ _ ?_ rfl) | skip
  all_goals (try (intro L base d hL hd ; beta_reduce))
  repeat' first
      | with_reducible assumption | with_reducible exact Framed.sub rfl hL
      | with_reducible apply settlePause_framed | with_reducible apply onPort_framed
      | with_reducible apply arrive_framed | split

theorem execPauseTimeReset_framed (p : Port) (s : State) : DoesFramed [.clock, .ports, .counters] s
    (execPauseTimeReset p s) := by
  unfold execPauseTimeReset
  first | with_reducible apply does_framed | (with_reducible refine doesJudged_framed _ _ ?_ rfl) | skip
  all_goals (try (intro L base d hL hd ; beta_reduce))
  repeat' first
      | with_reducible assumption | with_reducible exact Framed.sub rfl hL
      | with_reducible apply settlePause_framed | with_reducible apply onPort_framed
      | with_reducible apply arrive_framed | with_reducible apply ite_framed

end Sys2Proof.Machine
end

