-- ==== Sys2Proof/Laws/Framed/Frames.lean ====
section
/-! SUPPORT. Which parts of the device each function of Machine/Frames.lean can change. -/

-- one declaration after the other: the package is also compiled as one text, in limited memory
set_option Elab.async false

set_option linter.all false

namespace Sys2Proof.Machine

variable {L : List Part} {base : Dev}

theorem bumpWin_framed (w k : Nat) (d : Dev) (hL : ∀ p ∈ ([.sched] : List Part), p ∈ L) (hd : Framed L base d)
    : Framed L base (bumpWin w k d) := by
  have m0 : Part.sched ∈ L := hL _ (.head _)
  unfold bumpWin
  repeat' first
      | with_reducible assumption | dsimp only [id]
      | (fail_if_no_progress ((with_reducible apply Framed.upd) ; (iterate 9 exact .inl rfl) ; exact .inr m0 ; (iterate 12 exact .inl rfl)))

theorem setSeq_framed (q : SeqState) (d : Dev) (hL : ∀ p ∈ ([.sched] : List Part), p ∈ L) (hd : Framed L base d)
    : Framed L base (setSeq q d) := by
  have m0 : Part.sched ∈ L := hL _ (.head _)
  unfold setSeq
  repeat' first
      | with_reducible assumption | dsimp only [id]
      | (fail_if_no_progress ((with_reducible apply Framed.upd) ; (iterate 9 exact .inl rfl) ; exact .inr m0 ; (iterate 12 exact .inl rfl)))

end Sys2Proof.Machine
end

