-- ==== Sys2Proof/Laws/Framed/Fabric.lean ====
section
/-! SUPPORT. Which parts of the device each function of Machine/Fabric.lean can change. -/

-- one declaration after the other: the package is also compiled as one text, in limited memory
set_option Elab.async false

set_option linter.all false

namespace Sys2Proof.Machine

variable {L : List Part} {base : Dev}

theorem setQueue_framed (p : Port) (q : Fin 8) (l : List QFrame) (d : Dev) (hL : ∀ p ∈ ([.queues]
    : List Part), p ∈ L) (hd : Framed L base d) : Framed L base (setQueue p q l d) := by
  have m0 : Part.queues ∈ L := hL _ (.head _)
  unfold setQueue
  repeat' first
      | with_reducible assumption
      | ((with_reducible apply onFab_framed) ; (focus ((repeat' (apply And.intro)) ; (apply Or.inl ; first | rfl | (simp only [FabricS.rest] ; done)) ; exact .inr m0)))

theorem allocCells_framed (uid n : Nat) (d : Dev) (hL : ∀ p ∈ ([.queues, .counters] : List Part), p ∈ L) (hd
    : Framed L base d) : Framed L base (allocCells uid n d) := by
  have m0 : Part.queues ∈ L := hL _ (.head _)
  unfold allocCells
  repeat' first
      | with_reducible assumption | with_reducible exact Framed.sub rfl hL | with_reducible intro _
      | ((with_reducible apply onFab_framed) ; (focus ((repeat' (apply And.intro)) ; (apply Or.inl ; first | rfl | (simp only [FabricS.rest] ; done) | (simp only [FabricS.rest] ; split <;> rfl)) ; exact .inr m0)))
      | with_reducible apply forEach_framed | with_reducible apply countEv_framed | with_reducible apply ite_framed

theorem settle_framed (f : QFrame) (status : Nat) (d : Dev) (hL : ∀ p ∈ ([.out, .queues, .host, .ints]
    : List Part), p ∈ L) (hd : Framed L base d) : Framed L base (settle f status d) := by
  have m1 : Part.queues ∈ L := hL _ (.tail _ (.head _))
  unfold settle
  repeat' first
      | with_reducible assumption | with_reducible exact Framed.sub rfl hL
      | ((with_reducible apply onFab_framed) ; (focus ((repeat' (apply And.intro)) ; (apply Or.inl ; first | rfl | (simp only [FabricS.rest] ; done) | (simp only [FabricS.rest] ; split <;> rfl)) ; exact .inr m1)))
      | with_reducible apply completeTx_framed | with_reducible apply ite_framed | split

theorem endSpill_framed (p : Port) (q : Fin 8) (d : Dev) (hL : ∀ p ∈ ([.queues] : List Part), p ∈ L) (hd
    : Framed L base d) : Framed L base (endSpill p q d) := by
  have m0 : Part.queues ∈ L := hL _ (.head _)
  unfold endSpill
  repeat' first
      | with_reducible assumption
      | ((with_reducible apply onFab_framed) ; (focus ((repeat' (apply And.intro)) ; (apply Or.inl ; first | rfl | (simp only [FabricS.rest] ; done) | (simp only [FabricS.rest] ; split <;> rfl)) ; exact .inr m0)))
      | with_reducible apply ite_framed

theorem discardFrom_framed (p : Port) (q : Fin 8) (bad : QFrame → Bool) (status : Nat) (each : QFrame → Dev → Dev)
    (d : Dev) (hL : ∀ p ∈ ([.out, .queues, .host, .ints] : List Part), p ∈ L) (heach : ∀ y0 (d
    : Dev), Framed L base d → Framed L base (each y0 d)) (hd : Framed L base d) : Framed L base
    (discardFrom p q bad status each d) := by
  unfold discardFrom
  repeat' first
      | with_reducible assumption | with_reducible exact Framed.sub rfl hL | with_reducible intro _
      | with_reducible apply endSpill_framed | with_reducible apply settle_framed
      | with_reducible apply setQueue_framed | with_reducible apply forEach_framed | with_reducible apply heach

theorem countDiscard_framed (p : Port) (q : Nat) (d : Dev) (hL : ∀ p ∈ ([.regs, .counters] : List Part), p ∈ L) (hd
    : Framed L base d) : Framed L base (countDiscard p q d) := by
  unfold countDiscard
  repeat' first
      | with_reducible assumption | with_reducible exact Framed.sub rfl hL | with_reducible apply countEv_framed
      | with_reducible apply bump_framed

theorem discardAll_framed (bad : Port → Fin 8 → QFrame → Bool) (status : Nat) (each
    : Port → Fin 8 → QFrame → Dev → Dev) (d : Dev) (hL : ∀ p ∈ ([.out, .queues, .host, .ints] : List Part), p ∈ L)
    (heach : ∀ y0 y1 y2 (d : Dev), Framed L base d → Framed L base (each y0 y1 y2 d)) (hd : Framed L base d)
    : Framed L base (discardAll bad status each d) := by
  unfold discardAll
  repeat' first
      | with_reducible assumption | with_reducible intro _ | with_reducible apply discardFrom_framed
      | with_reducible apply forEach_framed | with_reducible apply heach

theorem countUnsent_framed (p : Port) (q : Fin 8) (d : Dev) (hL : ∀ p ∈ ([.regs] : List Part), p ∈ L) (hd
    : Framed L base d) : Framed L base (countUnsent p q d) := by
  unfold countUnsent
  repeat' first
      | with_reducible assumption | with_reducible intro _ | with_reducible apply onlyIf_framed
      | with_reducible apply bump_framed

theorem discardPort_framed (p : Port) (d : Dev) (hL : ∀ p ∈ ([.out, .regs, .queues, .host, .ints]
    : List Part), p ∈ L) (hd : Framed L base d) : Framed L base (discardPort p d) := by
  unfold discardPort
  repeat' first
      | with_reducible assumption | with_reducible exact Framed.sub rfl hL | with_reducible intro _
      | with_reducible apply countUnsent_framed | with_reducible apply discardFrom_framed
      | with_reducible apply forEach_framed

theorem pushFrame_framed (p : Port) (q : Fin 8) (f : QFrame) (d : Dev) (hL : ∀ p ∈ ([.queues] : List Part), p ∈ L)
    (hd : Framed L base d) : Framed L base (pushFrame p q f d) := by
  unfold pushFrame
  repeat' first | with_reducible assumption | with_reducible apply setQueue_framed

theorem admitPort_framed (f : QFrame) (need : Nat) (rate : Option Nat) (p : Port) (q : Fin 8) (d : Dev) (hL : ∀ p ∈
    ([.regs, .queues, .counters] : List Part), p ∈ L) (hd : Framed L base d) : Framed L base
    (admitPort f need rate p q d) := by
  have m1 : Part.queues ∈ L := hL _ (.tail _ (.head _))
  unfold admitPort
  repeat' first
      | with_reducible assumption | with_reducible exact Framed.sub rfl hL | with_reducible apply pushFrame_framed
      | with_reducible apply countUnsent_framed | with_reducible apply countDiscard_framed
      | with_reducible apply allocCells_framed
      | ((with_reducible apply onFab_framed) ; (focus ((repeat' (apply And.intro)) ; (apply Or.inl ; first | rfl | (simp only [FabricS.rest] ; done) | (simp only [FabricS.rest] ; split <;> rfl)) ; exact .inr m1)))
      | with_reducible apply bump_framed | with_reducible apply ite_framed

theorem sweepCells_framed (d : Dev) (hL : ∀ p ∈ ([.queues] : List Part), p ∈ L) (hd : Framed L base d)
    : Framed L base (sweepCells d) := by
  have m0 : Part.queues ∈ L := hL _ (.head _)
  unfold sweepCells
  repeat' first
      | with_reducible assumption
      | ((with_reducible apply onFab_framed) ; (focus ((repeat' (apply And.intro)) ; (apply Or.inl ; first | rfl | (simp only [FabricS.rest] ; done)) ; exact .inr m0)))

theorem admitHost_framed (f : QFrame) (need : Nat) (d : Dev) (hL : ∀ p ∈
    ([.out, .fab, .queues, .host, .ints, .counters] : List Part), p ∈ L) (hd : Framed L base d) : Framed L base
    (admitHost f need d) := by
  have m1 : Part.fab ∈ L := hL _ (.tail _ (.head _))
  have m2 : Part.queues ∈ L := hL _ (.tail _ (.tail _ (.head _)))
  unfold admitHost
  repeat' first
      | with_reducible assumption | with_reducible exact Framed.sub rfl hL | with_reducible apply sweepCells_framed
      | with_reducible apply allocCells_framed
      | ((with_reducible apply onFab_framed) ; (focus ((repeat' (apply And.intro)) ; exact .inr m1 ; exact .inr m2)))
      | with_reducible apply drainHost_framed | with_reducible apply ringDrop_framed
      | with_reducible apply ite_framed

theorem takeEngineOut_framed (one : Bool) (d : Dev) (hL : ∀ p ∈ ([.out, .regs, .fab, .recd, .ints, .counters]
    : List Part), p ∈ L) (hd : Framed L base d) : Framed L base (takeEngineOut one d) := by
  have m2 : Part.fab ∈ L := hL _ (.tail _ (.tail _ (.head _)))
  unfold takeEngineOut
  repeat' first
      | with_reducible assumption | with_reducible exact Framed.sub rfl hL
      | ((with_reducible apply onFab_framed) ; (focus ((repeat' (apply And.intro)) ; exact .inr m2 ; (apply Or.inl ; first | rfl | (simp only [FabricS.held] ; done) | (simp only [FabricS.held, setEngine] ; split <;> rfl) | (simp only [FabricS.held] ; split <;> rfl)))))
      | with_reducible apply raise_framed | with_reducible apply bump_framed

theorem blameEngine_framed (one : Bool) (d : Dev) (hL : ∀ p ∈ ([.out, .regs, .fab, .recd, .ints, .counters]
    : List Part), p ∈ L) (hd : Framed L base d) : Framed L base (blameEngine one d) := by
  have m2 : Part.fab ∈ L := hL _ (.tail _ (.tail _ (.head _)))
  unfold blameEngine
  repeat' first
      | with_reducible assumption | with_reducible exact Framed.sub rfl hL
      | with_reducible apply takeEngineOut_framed
      | ((with_reducible apply onFab_framed) ; (focus ((repeat' (apply And.intro)) ; exact .inr m2 ; (apply Or.inl ; first | rfl | (simp only [FabricS.held] ; done) | (simp only [FabricS.held] ; split <;> rfl)))))
      | with_reducible apply raise_framed | with_reducible apply bump_framed | with_reducible apply ite_framed

theorem mismatch_framed (e : EngineFault) (d : Dev) (hL : ∀ p ∈ ([.out, .regs, .fab, .recd, .ints, .counters]
    : List Part), p ∈ L) (hd : Framed L base d) : Framed L base (mismatch e d) := by
  have m2 : Part.fab ∈ L := hL _ (.tail _ (.tail _ (.head _)))
  unfold mismatch
  repeat' first
      | with_reducible assumption | with_reducible exact Framed.sub rfl hL
      | with_reducible apply blameEngine_framed
      | ((with_reducible apply onFab_framed) ; (focus ((repeat' (apply And.intro)) ; exact .inr m2 ; (apply Or.inl ; first | rfl | (simp only [FabricS.held] ; done) | (simp only [FabricS.held] ; split <;> rfl)))))
      | with_reducible apply bump_framed | with_reducible apply ite_framed

theorem execLearnedEntryAgeing_framed (row : BitVec 16) (s : State) : DoesFramed [.clock, .fab, .counters] s
    (execLearnedEntryAgeing row s) := by
  unfold execLearnedEntryAgeing
  first | with_reducible apply does_framed | (with_reducible refine doesJudged_framed _ _ ?_ rfl) | skip
  all_goals (try (intro L base d hL hd ; have m1 : Part.fab ∈ L := hL _ (.tail _ (.head _))))
  all_goals (try beta_reduce)
  repeat' first
      | with_reducible assumption | with_reducible exact Framed.sub rfl hL
      | ((with_reducible apply onFab_framed) ; (focus ((repeat' (apply And.intro)) ; exact .inr m1 ; (apply Or.inl ; first | rfl | (simp only [FabricS.held] ; done) | (simp only [FabricS.held] ; split <;> rfl)))))
      | with_reducible apply arrive_framed | with_reducible apply ite_framed | split

theorem readBack_framed (p : Port) (q : Fin 8) (n : Nat) (d : Dev) (hL : ∀ p ∈ ([.queues, .counters]
    : List Part), p ∈ L)
    (hd : Framed L base d) : Framed L base (readBack p q n d) := by
  induction n generalizing d with
  | zero => exact hd
  | succ n ih =>
    unfold readBack
    repeat' first
        | with_reducible assumption | with_reducible exact Framed.sub rfl hL | with_reducible apply ih
        | with_reducible apply setQueue_framed | with_reducible apply allocCells_framed
        | with_reducible apply ite_framed | split

theorem execSpillReadback_framed (p : Port) (q : Fin 8) (s : State) : DoesFramed [.queues, .counters] s
    (execSpillReadback p q s) := by
  unfold execSpillReadback
  first | with_reducible apply does_framed | (with_reducible refine doesJudged_framed _ _ ?_ rfl) | skip
  all_goals (try (intro L base d hL hd ; beta_reduce))
  repeat' first
      | with_reducible assumption | with_reducible exact Framed.sub rfl hL | with_reducible apply readBack_framed
      | with_reducible apply endSpill_framed | with_reducible apply ite_framed

theorem ddrFails_framed (d : Dev) (hL : ∀ p ∈ ([.out, .regs, .fab, .queues, .recd, .host, .ints, .counters]
    : List Part), p ∈ L) (hd : Framed L base d) : Framed L base (ddrFails d) := by
  have m2 : Part.fab ∈ L := hL _ (.tail _ (.tail _ (.head _)))
  have m3 : Part.queues ∈ L := hL _ (.tail _ (.tail _ (.tail _ (.head _))))
  unfold ddrFails
  repeat' first
      | with_reducible assumption | with_reducible exact Framed.sub rfl hL | with_reducible intro _
      | with_reducible apply discardAll_framed
      | ((with_reducible apply onFab_framed) ; (focus ((repeat' (apply And.intro)) ; exact .inr m2 ; exact .inr m3)))
      | with_reducible apply mediumFails_framed | with_reducible apply raise_framed
      | with_reducible apply bump_framed | with_reducible apply ite_framed

theorem execLpddr4xFailure_framed (_f : DdrFailure) (s : State)
    : DoesFramed [.out, .regs, .fab, .queues, .recd, .host, .ints, .counters] s (execLpddr4xFailure _f s) := by
  unfold execLpddr4xFailure
  first | with_reducible apply does_framed | (with_reducible refine doesJudged_framed _ _ ?_ rfl) | skip
  all_goals (try (intro L base d hL hd ; beta_reduce))
  repeat' first | with_reducible assumption | with_reducible apply ddrFails_framed

theorem cutShort_framed (sl : Slice) (lost : Fin 8 → Bool) (d : Dev) (hL : ∀ p ∈ ([.out, .regs, .ports]
    : List Part), p ∈ L) (hd : Framed L base d) : Framed L base (cutShort sl lost d) := by
  unfold cutShort
  repeat' first
      | with_reducible assumption | with_reducible exact Framed.sub rfl hL | with_reducible intro _
      | with_reducible apply onPort_framed | with_reducible apply forEach_framed | with_reducible apply emit_framed
      | with_reducible apply bump_framed

theorem discardSlice_framed (sl : Slice) (lost : Fin 8 → Bool) (d : Dev) (hL : ∀ p ∈
    ([.out, .regs, .fab, .queues, .ports, .host, .ints] : List Part), p ∈ L) (hd : Framed L base d) : Framed L base
    (discardSlice sl lost d) := by
  have m2 : Part.fab ∈ L := hL _ (.tail _ (.tail _ (.head _)))
  have m3 : Part.queues ∈ L := hL _ (.tail _ (.tail _ (.tail _ (.head _))))
  unfold discardSlice
  repeat' first
      | with_reducible assumption | with_reducible exact Framed.sub rfl hL | with_reducible intro _
      | with_reducible apply cutShort_framed | with_reducible apply discardAll_framed
      | with_reducible apply settle_framed
      | ((with_reducible apply onFab_framed) ; (focus ((repeat' (apply And.intro)) ; exact .inr m2 ; exact .inr m3)))
      | with_reducible apply forEach_framed | with_reducible apply bumpBy_framed | dsimp only [id]

theorem retireSlice_framed (sl : Slice) (cause : Nat) (d0 : Dev) (hL : ∀ p ∈
    ([.out, .regs, .fab, .queues, .ports, .host, .ints] : List Part), p ∈ L) (hd0 : Framed L base d0)
    : Framed L base (retireSlice sl cause d0) := by
  have m2 : Part.fab ∈ L := hL _ (.tail _ (.tail _ (.head _)))
  have m3 : Part.queues ∈ L := hL _ (.tail _ (.tail _ (.tail _ (.head _))))
  unfold retireSlice
  repeat' first
      | with_reducible assumption | with_reducible apply discardSlice_framed
      | ((with_reducible apply onFab_framed) ; (focus ((repeat' (apply And.intro)) ; exact .inr m2 ; exact .inr m3)))

theorem sliceFault_framed (slice : Slice) (t : SliceTrigger) (d : Dev) (hL : ∀ p ∈
    ([.out, .regs, .fab, .queues, .ports, .host, .ints] : List Part), p ∈ L) (hd : Framed L base d) : Framed L base
    (sliceFault slice t d) := by
  unfold sliceFault
  repeat' first
      | with_reducible assumption | with_reducible exact Framed.sub rfl hL
      | with_reducible apply retireSlice_framed | with_reducible apply bump_framed
      | with_reducible apply bumpBy_framed | with_reducible apply ite_framed | split

theorem moveSlice_framed (a b : Slice) (d : Dev) (hL : ∀ p ∈ ([.queues, .ports] : List Part), p ∈ L) (hd
    : Framed L base d) : Framed L base (moveSlice a b d) := by
  have m0 : Part.queues ∈ L := hL _ (.head _)
  have m1 : Part.ports ∈ L := hL _ (.tail _ (.head _))
  unfold moveSlice
  repeat' first
      | with_reducible assumption
      | ((with_reducible apply onFab_framed) ; (focus ((repeat' (apply And.intro)) ; (apply Or.inl ; first | rfl | (simp only [FabricS.rest] ; done) | (simp only [FabricS.rest] ; split <;> rfl)) ; exact .inr m0)))
      | dsimp only [id]
      | (fail_if_no_progress ((with_reducible apply Framed.upd) ; (iterate 6 exact .inl rfl) ; (focus (apply Or.inr ; (repeat' (apply And.intro)) ; (apply Or.inl ; first | rfl | (simp only [FabricS.rest] ; done) | (simp only [FabricS.rest] ; split <;> rfl)) ; exact .inr m0)) ; exact .inr m1 ; (iterate 14 exact .inl rfl)))

theorem execRetirementComplete_framed (s : State)
    : DoesFramed [.clock, .fresh, .out, .regs, .fab, .queues, .ports, .recd, .ints, .counters] s
    (execRetirementComplete s) := by
  unfold execRetirementComplete
  first | with_reducible apply does_framed | (with_reducible refine doesJudged_framed _ _ ?_ rfl) | skip
  all_goals (try (intro L base d hL hd ; have m4 : Part.fab ∈ L := hL _ (.tail _ (.tail _ (.tail _ (.tail _ (.head _))))) ; have m5 : Part.queues ∈ L := hL _ (.tail _ (.tail _ (.tail _ (.tail _ (.tail _ (.head _))))))))
  all_goals (try beta_reduce)
  repeat' first
      | with_reducible assumption | with_reducible exact Framed.sub rfl hL | with_reducible apply moveSlice_framed
      | ((with_reducible apply onFab_framed) ; (focus ((repeat' (apply And.intro)) ; exact .inr m4 ; exact .inr m5)))
      | with_reducible apply raise_framed | with_reducible apply arrive_framed | with_reducible apply draw_framed
      | with_reducible apply bump_framed | with_reducible apply setReg_framed | split

theorem execSpareTestPass_framed (s : State) : DoesFramed [.clock, .regs, .fab, .counters] s
    (execSpareTestPass s) := by
  unfold execSpareTestPass
  first | with_reducible apply does_framed | (with_reducible refine doesJudged_framed _ _ ?_ rfl) | skip
  all_goals (try (intro L base d hL hd ; have m2 : Part.fab ∈ L := hL _ (.tail _ (.tail _ (.head _)))))
  all_goals (try beta_reduce)
  repeat' first
      | with_reducible assumption | with_reducible exact Framed.sub rfl hL
      | ((with_reducible apply onFab_framed) ; (focus ((repeat' (apply And.intro)) ; exact .inr m2 ; (apply Or.inl ; first | rfl | (simp only [FabricS.held] ; done) | (simp only [FabricS.held] ; split <;> rfl)))))
      | with_reducible apply arrive_framed | with_reducible apply bump_framed | with_reducible apply ite_framed

theorem execSpareTestFailure_framed (s : State) : DoesFramed [.out, .regs, .fab, .recd, .ints, .counters] s
    (execSpareTestFailure s) := by
  unfold execSpareTestFailure
  first | with_reducible apply does_framed | (with_reducible refine doesJudged_framed _ _ ?_ rfl) | skip
  all_goals (try (intro L base d hL hd ; have m2 : Part.fab ∈ L := hL _ (.tail _ (.tail _ (.head _)))))
  all_goals (try beta_reduce)
  repeat' first
      | with_reducible assumption | with_reducible exact Framed.sub rfl hL
      | ((with_reducible apply onFab_framed) ; (focus ((repeat' (apply And.intro)) ; exact .inr m2 ; (apply Or.inl ; first | rfl | (simp only [FabricS.held] ; done)))))
      | with_reducible apply raise_framed | with_reducible apply bump_framed | with_reducible apply setReg_framed
      | split

theorem startRotation_framed (sl : Slice) (d : Dev) (hL : ∀ p ∈ ([.fab] : List Part), p ∈ L) (hd : Framed L base d)
    : Framed L base (startRotation sl d) := by
  have m0 : Part.fab ∈ L := hL _ (.head _)
  unfold startRotation
  repeat' first
      | with_reducible assumption
      | ((with_reducible apply onFab_framed) ; (focus ((repeat' (apply And.intro)) ; exact .inr m0 ; (apply Or.inl ; first | rfl | (simp only [FabricS.held] ; done)))))

theorem rotationEnds_framed (w : SliceWork) (i : Slice) (d : Dev) (hL : ∀ p ∈
    ([.clock, .fresh, .out, .regs, .fab, .queues, .ports, .recd, .ints, .counters] : List Part), p ∈ L) (hd
    : Framed L base d) : Framed L base (rotationEnds w i d) := by
  have m4 : Part.fab ∈ L := hL _ (.tail _ (.tail _ (.tail _ (.tail _ (.head _)))))
  have m5 : Part.queues ∈ L := hL _ (.tail _ (.tail _ (.tail _ (.tail _ (.tail _ (.head _))))))
  unfold rotationEnds
  repeat' first
      | with_reducible assumption | with_reducible exact Framed.sub rfl hL | with_reducible apply moveSlice_framed
      | ((with_reducible apply onFab_framed) ; (focus ((repeat' (apply And.intro)) ; exact .inr m4 ; exact .inr m5)))
      | with_reducible apply raise_framed | with_reducible apply arrive_framed | with_reducible apply draw_framed
      | with_reducible apply setReg_framed

end Sys2Proof.Machine
end

