-- ==== Sys2Proof/Laws/Framed/Routing.lean ====
section
/-! SUPPORT. Which parts of the device each function of Machine/Routing.lean can change. -/

-- one declaration after the other: the package is also compiled as one text, in limited memory
set_option Elab.async false

set_option linter.all false

namespace Sys2Proof.Machine

variable {L : List Part} {base : Dev}

theorem switchBank_framed (n : Numbering) (d : Dev) (hL : ∀ p ∈ ([.fab] : List Part), p ∈ L) (hd : Framed L base d)
    : Framed L base (switchBank n d) := by
  have m0 : Part.fab ∈ L := hL _ (.head _)
  unfold switchBank
  repeat' first
      | with_reducible assumption
      | ((with_reducible apply onFab_framed) ; (focus ((repeat' (apply And.intro)) ; exact .inr m0 ; (apply Or.inl ; first | rfl | (simp only [FabricS.held] ; done) | (simp only [FabricS.held] ; split <;> rfl)))))

theorem clearOldBank_framed (d : Dev) (hL : ∀ p ∈ ([.fab] : List Part), p ∈ L) (hd : Framed L base d)
    : Framed L base (clearOldBank d) := by
  have m0 : Part.fab ∈ L := hL _ (.head _)
  unfold clearOldBank
  repeat' first
      | with_reducible assumption
      | ((with_reducible apply onFab_framed) ; (focus ((repeat' (apply And.intro)) ; exact .inr m0 ; (apply Or.inl ; first | rfl | (simp only [FabricS.held] ; done) | (simp only [FabricS.held] ; split <;> rfl)))))

theorem tagAtTalker_framed (m : StreamMatch) (bs : List Byte) (d : Dev) (hL : ∀ p ∈ ([.sched] : List Part), p ∈ L)
    (hd : Framed L base d) : Framed L base (tagAtTalker m bs d).2 := by
  unfold tagAtTalker
  repeat' first | with_reducible assumption | with_reducible apply setSeq_framed | split

theorem tagAtTalker_pair (m : StreamMatch) (bs : List Byte) (d : Dev) {r0 : _} {d' : Dev} (e : tagAtTalker m bs d =
    (r0, d')) (hL : ∀ p ∈ ([.sched] : List Part), p ∈ L) (hd : Framed L base d) : Framed L base d' := by
  have := tagAtTalker_framed m bs d hL hd
  rw [e] at this
  exact this

theorem dispatchFrame_framed (a : Arrival) (m : StreamMatch) (x0 : Decision) (d : Dev) (hL : ∀ p ∈
    ([.out, .regs, .fab, .queues, .sched, .host, .ints, .counters] : List Part), p ∈ L) (hd : Framed L base d)
    : Framed L base (dispatchFrame a m x0 d) := by
  have m2 : Part.fab ∈ L := hL _ (.tail _ (.tail _ (.head _)))
  have m3 : Part.queues ∈ L := hL _ (.tail _ (.tail _ (.tail _ (.head _))))
  unfold dispatchFrame
  repeat' first
      | with_reducible assumption | with_reducible exact Framed.sub rfl hL | with_reducible intro _
      | with_reducible apply tagAtTalker_framed | with_reducible apply admitHost_framed
      | with_reducible apply admitPort_framed | with_reducible apply settle_framed
      | ((with_reducible apply onFab_framed) ; (focus ((repeat' (apply And.intro)) ; exact .inr m2 ; exact .inr m3)))
      | with_reducible apply onlyIf_framed | with_reducible apply forEach_framed | with_reducible apply bump_framed
      | with_reducible apply ite_framed | split

theorem sendOwn_framed (p : Port) (q : Fin 8) (bs : List Byte) (d : Dev) (hL : ∀ p ∈ ([.regs, .queues, .counters]
    : List Part), p ∈ L) (hd : Framed L base d) : Framed L base (sendOwn p q bs d) := by
  have m1 : Part.queues ∈ L := hL _ (.tail _ (.head _))
  unfold sendOwn
  repeat' first
      | with_reducible assumption | with_reducible apply admitPort_framed
      | ((with_reducible apply onFab_framed) ; (focus ((repeat' (apply And.intro)) ; (apply Or.inl ; first | rfl | (simp only [FabricS.rest] ; done)) ; exact .inr m1)))

theorem learn_framed (p : Port) (mac vlan : Nat) (d : Dev) (hL : ∀ p ∈ ([.regs, .fab] : List Part), p ∈ L) (hd
    : Framed L base d) : Framed L base (learn p mac vlan d) := by
  have m1 : Part.fab ∈ L := hL _ (.tail _ (.head _))
  unfold learn
  repeat' first
      | with_reducible assumption | with_reducible exact Framed.sub rfl hL
      | ((with_reducible apply onFab_framed) ; (focus ((repeat' (apply And.intro)) ; exact .inr m1 ; (apply Or.inl ; first | rfl | (simp only [FabricS.held] ; done) | (simp only [FabricS.held] ; split <;> rfl)))))
      | with_reducible apply bump_framed | with_reducible apply ite_framed | split | dsimp only [id]

theorem classArrival_framed (g : GateEntry) (d : Dev) (hL : ∀ p ∈ ([.regs, .sched] : List Part), p ∈ L) (hd
    : Framed L base d) : Framed L base (classArrival g d) := by
  have m0 : Part.regs ∈ L := hL _ (.head _)
  have m1 : Part.sched ∈ L := hL _ (.tail _ (.head _))
  unfold classArrival
  repeat' first
      | with_reducible assumption | with_reducible exact Framed.sub rfl hL | with_reducible apply bumpWin_framed
      | with_reducible apply bump_framed | with_reducible apply ite_framed | split | dsimp only [id]
      | (fail_if_no_progress ((with_reducible apply Framed.upd) ; (iterate 3 exact .inl rfl) ; (focus (apply Or.inr ; (repeat' (apply And.intro)) ; exact .inr m0 ; exact .inl rfl ; exact .inl rfl ; exact .inl rfl ; exact .inl rfl ; exact .inl rfl)) ; (iterate 5 exact .inl rfl) ; exact .inr m1 ; (iterate 12 exact .inl rfl)))

theorem takeCopy_framed (g : GateEntry) (bs : List Byte) (d : Dev) (hL : ∀ p ∈ ([.regs, .sched] : List Part), p ∈ L)
    (hd : Framed L base d) : Framed L base (takeCopy g bs d).2 := by
  unfold takeCopy
  repeat' first
      | with_reducible assumption | with_reducible exact Framed.sub rfl hL | with_reducible apply setSeq_framed
      | with_reducible apply bumpWin_framed | with_reducible apply bump_framed | split

theorem takeCopy_pair (g : GateEntry) (bs : List Byte) (d : Dev) {r0 : _} {d' : Dev} (e : takeCopy g bs d =
    (r0, d')) (hL : ∀ p ∈ ([.regs, .sched] : List Part), p ∈ L) (hd : Framed L base d) : Framed L base d' := by
  have := takeCopy_framed g bs d hL hd
  rw [e] at this
  exact this

theorem consumed_framed {p : Port} {bs : List Byte} {f : Dev → Dev} (e : consumed p bs = some f) (d : Dev)
    (hL : ∀ p ∈ ([.out, .regs, .ports, .recd, .ints, .counters] : List Part), p ∈ L) (hd : Framed L base d) : Framed L base (f d) := by
  unfold consumed at e
  dsimp only at e
  repeat' split at e
  all_goals first | (simp only [Option.some.injEq] at e; subst e) | simp at e
  all_goals (repeat' first
      | with_reducible assumption | with_reducible exact Framed.sub rfl hL | with_reducible intro _
      | with_reducible apply takePause_framed | with_reducible apply takeMacControl_framed
      | with_reducible apply bump_framed | with_reducible apply onlyIf_framed | dsimp only [id])

theorem takeErrored_framed (p : Port) (f : RxFrame) (counter flag : Nat) (d : Dev) (hL : ∀ p ∈
    ([.fresh, .out, .regs, .fab, .queues, .ports, .recd, .host, .ints, .counters] : List Part), p ∈ L) (hd
    : Framed L base d) : Framed L base (takeErrored p f counter flag d) := by
  have m3 : Part.fab ∈ L := hL _ (.tail _ (.tail _ (.tail _ (.head _))))
  have m4 : Part.queues ∈ L := hL _ (.tail _ (.tail _ (.tail _ (.tail _ (.head _)))))
  unfold takeErrored
  repeat' first
      | with_reducible assumption | with_reducible exact Framed.sub rfl hL | with_reducible apply admitHost_framed
      | ((with_reducible apply onFab_framed) ; (focus ((repeat' (apply And.intro)) ; exact .inr m3 ; exact .inr m4)))
      | with_reducible apply draw_framed | with_reducible apply emits_framed | with_reducible apply bump_framed
      | with_reducible apply ite_framed

theorem corrupted_framed (p : Port) (bs : List Byte) (d : Dev) (hL : ∀ p ∈ ([.fresh] : List Part), p ∈ L) (hd
    : Framed L base d) : Framed L base (corrupted p bs d).2 := by
  unfold corrupted
  repeat' first | with_reducible assumption | with_reducible apply draw_framed

theorem corrupted_pair (p : Port) (bs : List Byte) (d : Dev) {r0 : _} {d' : Dev} (e : corrupted p bs d = (r0, d'))
    (hL : ∀ p ∈ ([.fresh] : List Part), p ∈ L) (hd : Framed L base d) : Framed L base d' := by
  have := corrupted_framed p bs d hL hd
  rw [e] at this
  exact this

theorem countDecisions_framed (d : Dev) (hL : ∀ p ∈ ([.counters] : List Part), p ∈ L) (hd : Framed L base d)
    : Framed L base (countDecisions d) := by
  unfold countDecisions
  repeat' first
      | with_reducible assumption | with_reducible intro _ | with_reducible apply onlyIf_framed
      | with_reducible apply countEv_framed

theorem takeGood_framed (p : Port) (bs : List Byte) (e : EngineFault) (d : Dev) (hL : ∀ p ∈
    ([.fresh, .out, .regs, .fab, .queues, .sched, .recd, .host, .ints, .counters] : List Part), p ∈ L) (hd
    : Framed L base d) : Framed L base (takeGood p bs e d) := by
  unfold takeGood
  repeat' first
      | with_reducible assumption | with_reducible exact Framed.sub rfl hL | with_reducible intro _
      | with_reducible apply countDecisions_framed | with_reducible apply corrupted_framed
      | with_reducible apply takeCopy_framed | with_reducible apply classArrival_framed
      | with_reducible apply learn_framed | with_reducible apply dispatchFrame_framed
      | with_reducible apply mismatch_framed | with_reducible apply onlyIf_framed | with_reducible apply ite_framed
      | split

theorem execFrameReceive_framed (p : Port) (f : RxFrame) (e : EngineFault) (s : State)
    : DoesFramed [.fresh, .out, .regs, .fab, .queues, .ports, .sched, .recd, .host, .ints, .counters] s
    (execFrameReceive p f e s) := by
  unfold execFrameReceive
  first | with_reducible apply does_framed | (with_reducible refine doesJudged_framed _ _ ?_ rfl) | skip
  all_goals (try (intro L base d hL hd ; beta_reduce))
  repeat' first
      | with_reducible assumption | with_reducible exact Framed.sub rfl hL | with_reducible apply takeGood_framed
      | with_reducible apply takeErrored_framed
      | (with_reducible apply consumed_framed ; with_reducible assumption) | with_reducible apply countGood_framed
      | with_reducible apply ite_framed | split

end Sys2Proof.Machine
end

