-- ==== Sys2Proof/Laws/Framed/Egress.lean ====
section
/-! SUPPORT. Which parts of the device each function of Machine/Egress.lean can change. -/

-- one declaration after the other: the package is also compiled as one text, in limited memory
set_option Elab.async false

set_option linter.all false

namespace Sys2Proof.Machine

variable {L : List Part} {base : Dev}

theorem setCredit_framed (p : Port) (c : Int) (t : Nat) (d : Dev) (hL : ∀ p ∈ ([.strm] : List Part), p ∈ L) (hd
    : Framed L base d) : Framed L base (setCredit p c t d) := by
  have m0 : Part.strm ∈ L := hL _ (.head _)
  unfold setCredit
  repeat' first
      | with_reducible assumption | dsimp only [id]
      | (fail_if_no_progress ((with_reducible apply Framed.upd) ; (iterate 10 exact .inl rfl) ; exact .inr m0 ; (iterate 11 exact .inl rfl)))

theorem holdCredit_framed (p : Port) (d : Dev) (hL : ∀ p ∈ ([.strm] : List Part), p ∈ L) (hd : Framed L base d)
    : Framed L base (holdCredit p d) := by
  unfold holdCredit
  repeat' first | with_reducible assumption | with_reducible apply setCredit_framed

theorem resumeCredit_framed (p : Port) (t : Nat) (d : Dev) (hL : ∀ p ∈ ([.strm] : List Part), p ∈ L) (hd
    : Framed L base d) : Framed L base (resumeCredit p t d) := by
  unfold resumeCredit
  repeat' first | with_reducible assumption | with_reducible apply setCredit_framed

theorem startFrame_framed (p : Port) (q : Fin 8) (f : QFrame) (d : Dev) (hL : ∀ p ∈
    ([.out, .regs, .queues, .ports, .time, .sched, .strm, .recd, .host, .ints, .counters] : List Part), p ∈ L) (hd
    : Framed L base d) : Framed L base (startFrame p q f d) := by
  have m2 : Part.queues ∈ L := hL _ (.tail _ (.tail _ (.head _)))
  unfold startFrame
  repeat' first
      | with_reducible assumption | with_reducible exact Framed.sub rfl hL | with_reducible intro _
      | with_reducible apply setCredit_framed | with_reducible apply settle_framed
      | with_reducible apply setQueue_framed
      | ((with_reducible apply onFab_framed) ; (focus ((repeat' (apply And.intro)) ; (apply Or.inl ; first | rfl | (simp only [FabricS.rest] ; done) | (simp only [FabricS.rest] ; split <;> rfl)) ; exact .inr m2)))
      | with_reducible apply bumpWin_framed | with_reducible apply storeTxStamp_framed
      | with_reducible apply onPort_framed | with_reducible apply onlyIf_framed
      | with_reducible apply countEv_framed | with_reducible apply emit_framed | with_reducible apply bump64_framed
      | with_reducible apply bump_framed | split

theorem discardLaunch_framed (p : Port) (q : Fin 8) (f : QFrame) (d : Dev) (hL : ∀ p ∈
    ([.out, .regs, .queues, .host, .ints] : List Part), p ∈ L) (hd : Framed L base d) : Framed L base
    (discardLaunch p q f d) := by
  unfold discardLaunch
  repeat' first
      | with_reducible assumption | with_reducible exact Framed.sub rfl hL | with_reducible apply settle_framed
      | with_reducible apply setQueue_framed | with_reducible apply bump_framed

theorem awaitIdle_framed (p : Port) (d : Dev) (hL : ∀ p ∈ ([.clock, .ports, .counters] : List Part), p ∈ L) (hd
    : Framed L base d) : Framed L base (awaitIdle p d) := by
  unfold awaitIdle
  repeat' first
      | with_reducible assumption | with_reducible exact Framed.sub rfl hL
      | with_reducible apply settlePause_framed | with_reducible apply arrive_framed

theorem serveHead_framed (p : Port) (q : Fin 8) (d : Dev) (hL : ∀ p ∈
    ([.out, .regs, .queues, .ports, .time, .sched, .strm, .recd, .host, .ints, .counters] : List Part), p ∈ L) (hd
    : Framed L base d) : Framed L base (serveHead p q d) := by
  unfold serveHead
  repeat' first
      | with_reducible assumption | with_reducible exact Framed.sub rfl hL
      | with_reducible apply discardLaunch_framed | with_reducible apply startFrame_framed
      | with_reducible apply bump_framed | with_reducible apply ite_framed | split

theorem execEgressSend_framed (p : Port) (q : Fin 8) (s : State)
    : DoesFramed [.clock, .out, .regs, .queues, .ports, .time, .sched, .strm, .recd, .host, .ints, .counters] s
    (execEgressSend p q s) := by
  unfold execEgressSend
  first | with_reducible apply does_framed | (with_reducible refine doesJudged_framed _ _ ?_ rfl) | skip
  all_goals (try (intro L base d hL hd ; beta_reduce))
  repeat' first
      | with_reducible assumption | with_reducible exact Framed.sub rfl hL | with_reducible apply serveHead_framed
      | with_reducible apply awaitIdle_framed | with_reducible apply ite_framed

theorem execLaunchTime_framed (p : Port) (q : Fin 8) (s : State)
    : DoesFramed [.clock, .out, .regs, .queues, .ports, .time, .sched, .strm, .recd, .host, .ints, .counters] s
    (execLaunchTime p q s) := by
  unfold execLaunchTime
  first | with_reducible apply does_framed | (with_reducible refine doesJudged_framed _ _ ?_ rfl) | skip
  all_goals (try (intro L base d hL hd ; beta_reduce))
  repeat' first
      | with_reducible assumption | with_reducible exact Framed.sub rfl hL | with_reducible apply awaitIdle_framed
      | with_reducible apply startFrame_framed | with_reducible apply arriveTrain_framed
      | with_reducible apply ite_framed | split

theorem execLaunchLateDiscard_framed (p : Port) (q : Fin 8) (s : State)
    : DoesFramed [.clock, .out, .regs, .queues, .host, .ints, .counters] s (execLaunchLateDiscard p q s) := by
  unfold execLaunchLateDiscard
  first | with_reducible apply does_framed | (with_reducible refine doesJudged_framed _ _ ?_ rfl) | skip
  all_goals (try (intro L base d hL hd ; beta_reduce))
  repeat' first
      | with_reducible assumption | with_reducible exact Framed.sub rfl hL
      | with_reducible apply discardLaunch_framed | with_reducible apply arriveTrain_framed
      | with_reducible apply ite_framed | split

end Sys2Proof.Machine
end

