-- ==== Sys2Proof/Laws/Framed/Time.lean ====
section
/-! SUPPORT. Which parts of the device each function of Machine/Time.lean can change. -/

-- one declaration after the other: the package is also compiled as one text, in limited memory
set_option Elab.async false

set_option linter.all false

namespace Sys2Proof.Machine

variable {L : List Part} {base : Dev}

theorem sendPtp_framed (p : Port) (m : PtpMsg) (d : Dev) (hL : ∀ p ∈ ([.fresh, .out, .regs, .queues, .counters]
    : List Part), p ∈ L) (hd : Framed L base d) : Framed L base (sendPtp p m d) := by
  unfold sendPtp
  repeat' first
      | with_reducible assumption | with_reducible exact Framed.sub rfl hL | with_reducible apply sendOwn_framed
      | with_reducible apply draw_framed | with_reducible apply emit_framed | with_reducible apply ite_framed

theorem ptpHeard_framed (p : Port) (type : Nat) (f : Dev → Dev) (d : Dev) (hL : ∀ p ∈ ([.regs, .counters]
    : List Part), p ∈ L) (hf : ∀  (d : Dev), Framed L base d → Framed L base (f  d)) (hd : Framed L base d)
    : Framed L base (ptpHeard p type f d) := by
  unfold ptpHeard
  repeat' first
      | with_reducible assumption | with_reducible apply countGood_framed | with_reducible apply hf
      | with_reducible apply ite_framed

theorem assignRoles_framed (slave : Option Port) (sent : AnnounceMsg) (d : Dev) (hL : ∀ p ∈ ([.time]
    : List Part), p ∈ L) (hd : Framed L base d) : Framed L base (assignRoles slave sent d) := by
  have m0 : Part.time ∈ L := hL _ (.head _)
  unfold assignRoles
  repeat' first
      | with_reducible assumption | dsimp only [id]
      | (fail_if_no_progress ((with_reducible apply Framed.upd) ; (iterate 8 exact .inl rfl) ; (focus (apply Or.inr ; (repeat' (apply And.intro)) ; exact .inl rfl ; exact .inr m0)) ; (iterate 13 exact .inl rfl)))

theorem disarm_framed (d : Dev) (hL : ∀ p ∈ ([.out, .regs, .time, .recd, .ints, .counters] : List Part), p ∈ L) (hd
    : Framed L base d) : Framed L base (disarm d) := by
  have m0 : Part.out ∈ L := hL _ (.head _)
  have m1 : Part.regs ∈ L := hL _ (.tail _ (.head _))
  have m2 : Part.time ∈ L := hL _ (.tail _ (.tail _ (.head _)))
  have m3 : Part.recd ∈ L := hL _ (.tail _ (.tail _ (.tail _ (.head _))))
  have m4 : Part.ints ∈ L := hL _ (.tail _ (.tail _ (.tail _ (.tail _ (.head _)))))
  have m5 : Part.counters ∈ L := hL _ (.tail _ (.tail _ (.tail _ (.tail _ (.tail _ (.head _))))))
  unfold disarm
  repeat' first
      | with_reducible assumption | with_reducible exact Framed.sub rfl hL | with_reducible apply raise_framed
      | with_reducible apply bump_framed | split | dsimp only [id]
      | (fail_if_no_progress ((with_reducible apply Framed.upd) ; (iterate 2 exact .inl rfl) ; exact .inr m0 ; (focus (apply Or.inr ; (repeat' (apply And.intro)) ; exact .inr m1 ; exact .inl rfl ; exact .inl rfl ; exact .inl rfl ; exact .inl rfl ; exact .inl rfl)) ; (iterate 4 exact .inl rfl) ; (focus (apply Or.inr ; (repeat' (apply And.intro)) ; exact .inl rfl ; exact .inr m2)) ; (iterate 5 exact .inl rfl) ; exact .inr m3 ; (iterate 2 exact .inl rfl) ; (focus (apply Or.inr ; (repeat' (apply And.intro)) ; (apply Or.inl ; simp only [HostS.registers]) ; exact .inr m4 ; exact .inl rfl)) ; exact .inl rfl ; (focus (apply Or.inr ; (repeat' (apply And.intro)) ; (apply Or.inl ; simp only [HealthS.rest]) ; exact .inr m5)) ; (iterate 2 exact .inl rfl)))

theorem enterHoldover_framed (d : Dev) (hL : ∀ p ∈ ([.out, .regs, .time, .recd, .ints, .counters]
    : List Part), p ∈ L) (hd : Framed L base d) : Framed L base (enterHoldover d) := by
  have m0 : Part.out ∈ L := hL _ (.head _)
  have m1 : Part.regs ∈ L := hL _ (.tail _ (.head _))
  have m2 : Part.time ∈ L := hL _ (.tail _ (.tail _ (.head _)))
  have m3 : Part.recd ∈ L := hL _ (.tail _ (.tail _ (.tail _ (.head _))))
  have m4 : Part.ints ∈ L := hL _ (.tail _ (.tail _ (.tail _ (.tail _ (.head _)))))
  have m5 : Part.counters ∈ L := hL _ (.tail _ (.tail _ (.tail _ (.tail _ (.tail _ (.head _))))))
  unfold enterHoldover
  repeat' first
      | with_reducible assumption | with_reducible exact Framed.sub rfl hL
      | with_reducible apply setTimeState_framed | with_reducible apply raise_framed
      | with_reducible apply bump_framed | dsimp only [id]
      | (fail_if_no_progress ((with_reducible apply Framed.upd) ; (iterate 2 exact .inl rfl) ; exact .inr m0 ; (focus (apply Or.inr ; (repeat' (apply And.intro)) ; exact .inr m1 ; exact .inl rfl ; exact .inl rfl ; exact .inl rfl ; exact .inl rfl ; exact .inl rfl)) ; (iterate 4 exact .inl rfl) ; (focus (apply Or.inr ; (repeat' (apply And.intro)) ; exact .inl rfl ; exact .inr m2)) ; (iterate 5 exact .inl rfl) ; exact .inr m3 ; (iterate 2 exact .inl rfl) ; (focus (apply Or.inr ; (repeat' (apply And.intro)) ; (apply Or.inl ; simp only [HostS.registers]) ; exact .inr m4 ; exact .inl rfl)) ; exact .inl rfl ; (focus (apply Or.inr ; (repeat' (apply And.intro)) ; (apply Or.inl ; simp only [HealthS.rest]) ; exact .inr m5)) ; (iterate 2 exact .inl rfl)))

theorem noteGm_framed (gm : BitVec 64) (d : Dev) (hL : ∀ p ∈ ([.out, .regs, .time, .recd, .ints, .counters]
    : List Part), p ∈ L) (hd : Framed L base d) : Framed L base (noteGm gm d) := by
  have m0 : Part.out ∈ L := hL _ (.head _)
  have m1 : Part.regs ∈ L := hL _ (.tail _ (.head _))
  have m2 : Part.time ∈ L := hL _ (.tail _ (.tail _ (.head _)))
  have m3 : Part.recd ∈ L := hL _ (.tail _ (.tail _ (.tail _ (.head _))))
  have m4 : Part.ints ∈ L := hL _ (.tail _ (.tail _ (.tail _ (.tail _ (.head _)))))
  have m5 : Part.counters ∈ L := hL _ (.tail _ (.tail _ (.tail _ (.tail _ (.tail _ (.head _))))))
  unfold noteGm
  repeat' first
      | with_reducible assumption | with_reducible exact Framed.sub rfl hL | with_reducible apply raise_framed
      | with_reducible apply bump_framed | with_reducible apply ite_framed | dsimp only [id]
      | (fail_if_no_progress ((with_reducible apply Framed.upd) ; (iterate 2 exact .inl rfl) ; exact .inr m0 ; (focus (apply Or.inr ; (repeat' (apply And.intro)) ; exact .inr m1 ; exact .inl rfl ; exact .inl rfl ; exact .inl rfl ; exact .inl rfl ; exact .inl rfl)) ; (iterate 4 exact .inl rfl) ; (focus (apply Or.inr ; (repeat' (apply And.intro)) ; exact .inl rfl ; exact .inr m2)) ; (iterate 5 exact .inl rfl) ; exact .inr m3 ; (iterate 2 exact .inl rfl) ; (focus (apply Or.inr ; (repeat' (apply And.intro)) ; (apply Or.inl ; simp only [HostS.registers]) ; exact .inr m4 ; exact .inl rfl)) ; exact .inl rfl ; (focus (apply Or.inr ; (repeat' (apply And.intro)) ; (apply Or.inl ; simp only [HealthS.rest]) ; exact .inr m5)) ; (iterate 2 exact .inl rfl)))

theorem onMasters_framed (m : PtpMsg) (d : Dev) (hL : ∀ p ∈ ([.fresh, .out, .regs, .queues, .counters]
    : List Part), p ∈ L) (hd : Framed L base d) : Framed L base (onMasters m d) := by
  unfold onMasters
  repeat' first
      | with_reducible assumption | with_reducible intro _ | with_reducible apply sendPtp_framed
      | with_reducible apply forEach_framed

theorem sendAnnounce_framed (d : Dev) (hL : ∀ p ∈ ([.fresh, .out, .regs, .queues, .counters] : List Part), p ∈ L)
    (hd : Framed L base d) : Framed L base (sendAnnounce d) := by
  unfold sendAnnounce
  repeat' first | with_reducible assumption | with_reducible apply onMasters_framed | split

theorem sendSync_framed (d : Dev) (hL : ∀ p ∈ ([.fresh, .out, .regs, .queues, .time, .counters] : List Part), p ∈ L)
    (hd : Framed L base d) : Framed L base (sendSync d) := by
  have m0 : Part.fresh ∈ L := hL _ (.head _)
  have m1 : Part.out ∈ L := hL _ (.tail _ (.head _))
  have m2 : Part.regs ∈ L := hL _ (.tail _ (.tail _ (.head _)))
  have m3 : Part.queues ∈ L := hL _ (.tail _ (.tail _ (.tail _ (.head _))))
  have m4 : Part.time ∈ L := hL _ (.tail _ (.tail _ (.tail _ (.tail _ (.head _)))))
  have m5 : Part.counters ∈ L := hL _ (.tail _ (.tail _ (.tail _ (.tail _ (.tail _ (.head _))))))
  unfold sendSync
  repeat' first
      | with_reducible assumption | with_reducible exact Framed.sub rfl hL | with_reducible apply onMasters_framed
      | with_reducible apply ite_framed | dsimp only [id]
      | (fail_if_no_progress ((with_reducible apply Framed.upd) ; exact .inl rfl ; exact .inr m0 ; exact .inr m1 ; (focus (apply Or.inr ; (repeat' (apply And.intro)) ; exact .inr m2 ; exact .inl rfl ; exact .inl rfl ; exact .inl rfl ; exact .inl rfl ; exact .inl rfl)) ; (iterate 2 exact .inl rfl) ; (focus (apply Or.inr ; (repeat' (apply And.intro)) ; (apply Or.inl ; first | rfl | (simp only [FabricS.rest] ; done) | (simp only [FabricS.rest] ; split <;> rfl)) ; exact .inr m3)) ; exact .inl rfl ; (focus (apply Or.inr ; (repeat' (apply And.intro)) ; exact .inl rfl ; exact .inr m4)) ; (iterate 10 exact .inl rfl) ; (focus (apply Or.inr ; (repeat' (apply And.intro)) ; (apply Or.inl ; simp only [HealthS.rest]) ; exact .inr m5)) ; (iterate 2 exact .inl rfl)))

theorem becomeGrandmaster_framed (d : Dev) (hL : ∀ p ∈
    ([.fresh, .out, .regs, .queues, .time, .recd, .ints, .counters] : List Part), p ∈ L) (hd : Framed L base d)
    : Framed L base (becomeGrandmaster d) := by
  have m0 : Part.fresh ∈ L := hL _ (.head _)
  have m1 : Part.out ∈ L := hL _ (.tail _ (.head _))
  have m2 : Part.regs ∈ L := hL _ (.tail _ (.tail _ (.head _)))
  have m3 : Part.queues ∈ L := hL _ (.tail _ (.tail _ (.tail _ (.head _))))
  have m4 : Part.time ∈ L := hL _ (.tail _ (.tail _ (.tail _ (.tail _ (.head _)))))
  have m5 : Part.recd ∈ L := hL _ (.tail _ (.tail _ (.tail _ (.tail _ (.tail _ (.head _))))))
  have m6 : Part.ints ∈ L := hL _ (.tail _ (.tail _ (.tail _ (.tail _ (.tail _ (.tail _ (.head _)))))))
  have m7 : Part.counters ∈ L := hL _ (.tail _ (.tail _ (.tail _ (.tail _ (.tail _ (.tail _ (.tail _ (.head _))))))))
  unfold becomeGrandmaster
  repeat' first
      | with_reducible assumption | with_reducible exact Framed.sub rfl hL | with_reducible apply sendSync_framed
      | with_reducible apply sendAnnounce_framed | with_reducible apply noteGm_framed
      | with_reducible apply disarm_framed | with_reducible apply assignRoles_framed
      | with_reducible apply setTimeState_framed | with_reducible apply ite_framed | dsimp only [id]
      | (fail_if_no_progress ((with_reducible apply Framed.upd) ; exact .inl rfl ; exact .inr m0 ; exact .inr m1 ; (focus (apply Or.inr ; (repeat' (apply And.intro)) ; exact .inr m2 ; exact .inl rfl ; exact .inl rfl ; exact .inl rfl ; exact .inl rfl ; exact .inl rfl)) ; (iterate 2 exact .inl rfl) ; (focus (apply Or.inr ; (repeat' (apply And.intro)) ; (apply Or.inl ; first | rfl | (simp only [FabricS.rest] ; done) | (simp only [FabricS.rest] ; split <;> rfl)) ; exact .inr m3)) ; exact .inl rfl ; (focus (apply Or.inr ; (repeat' (apply And.intro)) ; exact .inl rfl ; exact .inr m4)) ; (iterate 5 exact .inl rfl) ; exact .inr m5 ; (iterate 2 exact .inl rfl) ; (focus (apply Or.inr ; (repeat' (apply And.intro)) ; (apply Or.inl ; simp only [HostS.registers]) ; exact .inr m6 ; exact .inl rfl)) ; exact .inl rfl ; (focus (apply Or.inr ; (repeat' (apply And.intro)) ; (apply Or.inl ; simp only [HealthS.rest]) ; exact .inr m7)) ; (iterate 2 exact .inl rfl)))

theorem ppsOff_framed (d : Dev) (hL : ∀ p ∈ ([.time] : List Part), p ∈ L) (hd : Framed L base d) : Framed L base
    (ppsOff d) := by
  have m0 : Part.time ∈ L := hL _ (.head _)
  unfold ppsOff
  repeat' first
      | with_reducible assumption | split | dsimp only [id]
      | (fail_if_no_progress ((with_reducible apply Framed.upd) ; (iterate 8 exact .inl rfl) ; (focus (apply Or.inr ; (repeat' (apply And.intro)) ; exact .inl rfl ; exact .inr m0)) ; (iterate 13 exact .inl rfl)))

theorem followMaster_framed (p : Port) (a : AnnounceMsg) (d : Dev) (hL : ∀ p ∈
    ([.out, .regs, .time, .recd, .ints, .counters] : List Part), p ∈ L) (hd : Framed L base d) : Framed L base
    (followMaster p a d) := by
  have m0 : Part.out ∈ L := hL _ (.head _)
  have m1 : Part.regs ∈ L := hL _ (.tail _ (.head _))
  have m2 : Part.time ∈ L := hL _ (.tail _ (.tail _ (.head _)))
  have m3 : Part.recd ∈ L := hL _ (.tail _ (.tail _ (.tail _ (.head _))))
  have m4 : Part.ints ∈ L := hL _ (.tail _ (.tail _ (.tail _ (.tail _ (.head _)))))
  have m5 : Part.counters ∈ L := hL _ (.tail _ (.tail _ (.tail _ (.tail _ (.tail _ (.head _))))))
  unfold followMaster
  repeat' first
      | with_reducible assumption | with_reducible exact Framed.sub rfl hL | with_reducible apply ppsOff_framed
      | with_reducible apply noteGm_framed | with_reducible apply enterHoldover_framed
      | with_reducible apply disarm_framed | with_reducible apply assignRoles_framed
      | with_reducible apply ite_framed | split | dsimp only [id]
      | (fail_if_no_progress ((with_reducible apply Framed.upd) ; (iterate 2 exact .inl rfl) ; exact .inr m0 ; (focus (apply Or.inr ; (repeat' (apply And.intro)) ; exact .inr m1 ; exact .inl rfl ; exact .inl rfl ; exact .inl rfl ; exact .inl rfl ; exact .inl rfl)) ; (iterate 4 exact .inl rfl) ; (focus (apply Or.inr ; (repeat' (apply And.intro)) ; exact .inl rfl ; exact .inr m2)) ; (iterate 5 exact .inl rfl) ; exact .inr m3 ; (iterate 2 exact .inl rfl) ; (focus (apply Or.inr ; (repeat' (apply And.intro)) ; (apply Or.inl ; simp only [HostS.registers]) ; exact .inr m4 ; exact .inl rfl)) ; exact .inl rfl ; (focus (apply Or.inr ; (repeat' (apply And.intro)) ; (apply Or.inl ; simp only [HealthS.rest]) ; exact .inr m5)) ; (iterate 2 exact .inl rfl)))

theorem runBmca_framed (d : Dev) (hL : ∀ p ∈ ([.fresh, .out, .regs, .queues, .time, .recd, .ints, .counters]
    : List Part), p ∈ L) (hd : Framed L base d) : Framed L base (runBmca d) := by
  unfold runBmca
  repeat' first
      | with_reducible assumption | with_reducible exact Framed.sub rfl hL
      | with_reducible apply followMaster_framed | with_reducible apply becomeGrandmaster_framed
      | with_reducible apply ite_framed | split

theorem holdListeners_framed (d : Dev) (hL : ∀ p ∈ ([.strm] : List Part), p ∈ L) (hd : Framed L base d)
    : Framed L base (holdListeners d) := by
  have m0 : Part.strm ∈ L := hL _ (.head _)
  unfold holdListeners
  repeat' first
      | with_reducible assumption
      | (fail_if_no_progress ((with_reducible apply Framed.upd) ; (iterate 10 exact .inl rfl) ; exact .inr m0 ; (iterate 11 exact .inl rfl)))

theorem armStep_framed (rx : Nat) (off : Int) (d : Dev) (hL : ∀ p ∈ ([.out, .time, .strm, .ints] : List Part), p ∈ L) (hd
    : Framed L base d) : Framed L base (armStep rx off d) := by
  have m0 : Part.out ∈ L := hL _ (.head _)
  have m1 : Part.time ∈ L := hL _ (.tail _ (.head _))
  have m2 : Part.ints ∈ L := hL _ (.tail _ (.tail _ (.tail _ (.head _))))
  unfold armStep
  repeat' first
      | with_reducible assumption | with_reducible exact Framed.sub rfl hL | with_reducible apply holdListeners_framed
      | with_reducible apply setTimeState_framed | split | dsimp only [id]
      | (fail_if_no_progress ((with_reducible apply Framed.upd) ; (iterate 2 exact .inl rfl) ; exact .inr m0 ; (iterate 5 exact .inl rfl) ; (focus (apply Or.inr ; (repeat' (apply And.intro)) ; exact .inl rfl ; exact .inr m1)) ; (iterate 8 exact .inl rfl) ; (focus (apply Or.inr ; (repeat' (apply And.intro)) ; (apply Or.inl ; simp only [HostS.registers]) ; exact .inr m2 ; exact .inl rfl)) ; (iterate 4 exact .inl rfl)))

theorem countLock_framed (off : Int) (d : Dev) (hL : ∀ p ∈ ([.fresh, .out, .regs, .time, .recd, .ints, .counters]
    : List Part), p ∈ L) (hd : Framed L base d) : Framed L base (countLock off d) := by
  have m0 : Part.fresh ∈ L := hL _ (.head _)
  have m1 : Part.out ∈ L := hL _ (.tail _ (.head _))
  have m2 : Part.regs ∈ L := hL _ (.tail _ (.tail _ (.head _)))
  have m3 : Part.time ∈ L := hL _ (.tail _ (.tail _ (.tail _ (.head _))))
  have m4 : Part.recd ∈ L := hL _ (.tail _ (.tail _ (.tail _ (.tail _ (.head _)))))
  have m5 : Part.ints ∈ L := hL _ (.tail _ (.tail _ (.tail _ (.tail _ (.tail _ (.head _))))))
  have m6 : Part.counters ∈ L := hL _ (.tail _ (.tail _ (.tail _ (.tail _ (.tail _ (.tail _ (.head _)))))))
  unfold countLock
  repeat' first
      | with_reducible assumption | with_reducible exact Framed.sub rfl hL
      | with_reducible apply setTimeState_framed | with_reducible apply servoRate_framed
      | with_reducible apply raise_framed | with_reducible apply ite_framed | split | dsimp only [id]
      | (fail_if_no_progress ((with_reducible apply Framed.upd) ; exact .inl rfl ; exact .inr m0 ; exact .inr m1 ; (focus (apply Or.inr ; (repeat' (apply And.intro)) ; exact .inr m2 ; exact .inl rfl ; exact .inl rfl ; exact .inl rfl ; exact .inl rfl ; exact .inl rfl)) ; (iterate 4 exact .inl rfl) ; (focus (apply Or.inr ; (repeat' (apply And.intro)) ; exact .inl rfl ; exact .inr m3)) ; (iterate 5 exact .inl rfl) ; exact .inr m4 ; (iterate 2 exact .inl rfl) ; (focus (apply Or.inr ; (repeat' (apply And.intro)) ; (apply Or.inl ; simp only [HostS.registers]) ; exact .inr m5 ; exact .inl rfl)) ; exact .inl rfl ; (focus (apply Or.inr ; (repeat' (apply And.intro)) ; (apply Or.inl ; simp only [HealthS.rest]) ; exact .inr m6)) ; (iterate 2 exact .inl rfl)))

theorem atSync_framed (rx : Nat) (off : Int) (d : Dev) (hL : ∀ p ∈
    ([.fresh, .out, .regs, .time, .sched, .strm, .recd, .load, .ints, .counters] : List Part), p ∈ L) (hd
    : Framed L base d) : Framed L base (atSync rx off d) := by
  have m0 : Part.fresh ∈ L := hL _ (.head _)
  have m1 : Part.out ∈ L := hL _ (.tail _ (.head _))
  have m2 : Part.regs ∈ L := hL _ (.tail _ (.tail _ (.head _)))
  have m3 : Part.time ∈ L := hL _ (.tail _ (.tail _ (.tail _ (.head _))))
  have m4 : Part.sched ∈ L := hL _ (.tail _ (.tail _ (.tail _ (.tail _ (.head _)))))
  have m5 : Part.strm ∈ L := hL _ (.tail _ (.tail _ (.tail _ (.tail _ (.tail _ (.head _))))))
  have m6 : Part.recd ∈ L := hL _ (.tail _ (.tail _ (.tail _ (.tail _ (.tail _ (.tail _ (.head _)))))))
  have m7 : Part.load ∈ L := hL _ (.tail _ (.tail _ (.tail _ (.tail _ (.tail _ (.tail _ (.tail _ (.head _))))))))
  have m8 : Part.ints ∈ L := hL _ (.tail _ (.tail _ (.tail _ (.tail _ (.tail _ (.tail _ (.tail _ (.tail _ (.head _)))))))))
  have m9 : Part.counters ∈ L := hL _ (.tail _ (.tail _ (.tail _ (.tail _ (.tail _ (.tail _ (.tail _ (.tail _ (.tail _ (.head _))))))))))
  unfold atSync
  repeat' first
      | with_reducible assumption | with_reducible exact Framed.sub rfl hL | with_reducible apply countLock_framed
      | with_reducible apply armStep_framed | with_reducible apply disarm_framed
      | with_reducible apply stepAll_framed | with_reducible apply setTimeState_framed
      | with_reducible apply ite_framed | split | dsimp only [id]
      | (fail_if_no_progress ((with_reducible apply Framed.upd) ; exact .inl rfl ; exact .inr m0 ; exact .inr m1 ; (focus (apply Or.inr ; (repeat' (apply And.intro)) ; exact .inr m2 ; exact .inl rfl ; exact .inl rfl ; exact .inl rfl ; exact .inl rfl ; exact .inl rfl)) ; (iterate 4 exact .inl rfl) ; (focus (apply Or.inr ; (repeat' (apply And.intro)) ; exact .inl rfl ; exact .inr m3)) ; exact .inr m4 ; exact .inr m5 ; (iterate 3 exact .inl rfl) ; exact .inr m6 ; exact .inl rfl ; exact .inr m7 ; (focus (apply Or.inr ; (repeat' (apply And.intro)) ; (apply Or.inl ; simp only [HostS.registers]) ; exact .inr m8 ; exact .inl rfl)) ; exact .inl rfl ; (focus (apply Or.inr ; (repeat' (apply And.intro)) ; (apply Or.inl ; simp only [HealthS.rest]) ; exact .inr m9)) ; (iterate 2 exact .inl rfl)))

theorem releaseQ6_framed (d : Dev) (hL : ∀ p ∈ ([.queues] : List Part), p ∈ L) (hd : Framed L base d)
    : Framed L base (releaseQ6 d) := by
  unfold releaseQ6
  repeat' first
      | with_reducible assumption | with_reducible intro _ | with_reducible apply pushFrame_framed
      | with_reducible apply setQueue_framed | with_reducible apply forEach_framed

theorem enterFence_framed (d : Dev) (hL : ∀ p ∈ ([.out, .regs, .queues, .sched, .recd, .ints, .counters]
    : List Part), p ∈ L) (hd : Framed L base d) : Framed L base (enterFence d) := by
  have m0 : Part.out ∈ L := hL _ (.head _)
  have m1 : Part.regs ∈ L := hL _ (.tail _ (.head _))
  have m2 : Part.queues ∈ L := hL _ (.tail _ (.tail _ (.head _)))
  have m3 : Part.sched ∈ L := hL _ (.tail _ (.tail _ (.tail _ (.head _))))
  have m4 : Part.recd ∈ L := hL _ (.tail _ (.tail _ (.tail _ (.tail _ (.head _)))))
  have m5 : Part.ints ∈ L := hL _ (.tail _ (.tail _ (.tail _ (.tail _ (.tail _ (.head _))))))
  have m6 : Part.counters ∈ L := hL _ (.tail _ (.tail _ (.tail _ (.tail _ (.tail _ (.tail _ (.head _)))))))
  unfold enterFence
  repeat' first
      | with_reducible assumption | with_reducible exact Framed.sub rfl hL | with_reducible apply releaseQ6_framed
      | with_reducible apply raise_framed | with_reducible apply bump_framed | with_reducible apply ite_framed
      | dsimp only [id]
      | (fail_if_no_progress ((with_reducible apply Framed.upd) ; (iterate 2 exact .inl rfl) ; exact .inr m0 ; (focus (apply Or.inr ; (repeat' (apply And.intro)) ; exact .inr m1 ; exact .inl rfl ; exact .inl rfl ; exact .inl rfl ; exact .inl rfl ; exact .inl rfl)) ; (iterate 2 exact .inl rfl) ; (focus (apply Or.inr ; (repeat' (apply And.intro)) ; (apply Or.inl ; first | rfl | (simp only [FabricS.rest] ; done) | (simp only [FabricS.rest] ; split <;> rfl)) ; exact .inr m2)) ; (iterate 2 exact .inl rfl) ; exact .inr m3 ; (iterate 4 exact .inl rfl) ; exact .inr m4 ; (iterate 2 exact .inl rfl) ; (focus (apply Or.inr ; (repeat' (apply And.intro)) ; (apply Or.inl ; simp only [HostS.registers]) ; exact .inr m5 ; exact .inl rfl)) ; exact .inl rfl ; (focus (apply Or.inr ; (repeat' (apply And.intro)) ; (apply Or.inl ; simp only [HealthS.rest]) ; exact .inr m6)) ; (iterate 2 exact .inl rfl)))

theorem fenceAtSync_framed (off : Int) (d : Dev) (hL : ∀ p ∈
    ([.out, .regs, .queues, .sched, .recd, .ints, .counters] : List Part), p ∈ L) (hd : Framed L base d)
    : Framed L base (fenceAtSync off d) := by
  have m0 : Part.out ∈ L := hL _ (.head _)
  have m1 : Part.regs ∈ L := hL _ (.tail _ (.head _))
  have m2 : Part.queues ∈ L := hL _ (.tail _ (.tail _ (.head _)))
  have m3 : Part.sched ∈ L := hL _ (.tail _ (.tail _ (.tail _ (.head _))))
  have m4 : Part.recd ∈ L := hL _ (.tail _ (.tail _ (.tail _ (.tail _ (.head _)))))
  have m5 : Part.ints ∈ L := hL _ (.tail _ (.tail _ (.tail _ (.tail _ (.tail _ (.head _))))))
  have m6 : Part.counters ∈ L := hL _ (.tail _ (.tail _ (.tail _ (.tail _ (.tail _ (.tail _ (.head _)))))))
  unfold fenceAtSync
  repeat' first
      | with_reducible assumption | with_reducible apply enterFence_framed | with_reducible apply ite_framed
      | dsimp only [id]
      | (fail_if_no_progress ((with_reducible apply Framed.upd) ; (iterate 2 exact .inl rfl) ; exact .inr m0 ; (focus (apply Or.inr ; (repeat' (apply And.intro)) ; exact .inr m1 ; exact .inl rfl ; exact .inl rfl ; exact .inl rfl ; exact .inl rfl ; exact .inl rfl)) ; (iterate 2 exact .inl rfl) ; (focus (apply Or.inr ; (repeat' (apply And.intro)) ; (apply Or.inl ; first | rfl | (simp only [FabricS.rest] ; done) | (simp only [FabricS.rest] ; split <;> rfl)) ; exact .inr m2)) ; (iterate 2 exact .inl rfl) ; exact .inr m3 ; (iterate 4 exact .inl rfl) ; exact .inr m4 ; (iterate 2 exact .inl rfl) ; (focus (apply Or.inr ; (repeat' (apply And.intro)) ; (apply Or.inl ; simp only [HostS.registers]) ; exact .inr m5 ; exact .inl rfl)) ; exact .inl rfl ; (focus (apply Or.inr ; (repeat' (apply And.intro)) ; (apply Or.inl ; simp only [HealthS.rest]) ; exact .inr m6)) ; (iterate 2 exact .inl rfl)))

theorem takeSync_framed (p : Port) (seq : BitVec 16) (gm : BitVec 64) (origin : Int) (rx : Nat) (d : Dev) (hL
    : ∀ p ∈ ([.fresh, .out, .regs, .queues, .time, .sched, .strm, .recd, .load, .ints, .health, .counters]
    : List Part), p ∈ L) (hd : Framed L base d) : Framed L base (takeSync p seq gm origin rx d) := by
  have m0 : Part.fresh ∈ L := hL _ (.head _)
  have m1 : Part.out ∈ L := hL _ (.tail _ (.head _))
  have m2 : Part.regs ∈ L := hL _ (.tail _ (.tail _ (.head _)))
  have m3 : Part.queues ∈ L := hL _ (.tail _ (.tail _ (.tail _ (.head _))))
  have m4 : Part.time ∈ L := hL _ (.tail _ (.tail _ (.tail _ (.tail _ (.head _)))))
  have m5 : Part.sched ∈ L := hL _ (.tail _ (.tail _ (.tail _ (.tail _ (.tail _ (.head _))))))
  have m6 : Part.strm ∈ L := hL _ (.tail _ (.tail _ (.tail _ (.tail _ (.tail _ (.tail _ (.head _)))))))
  have m7 : Part.recd ∈ L := hL _ (.tail _ (.tail _ (.tail _ (.tail _ (.tail _ (.tail _ (.tail _ (.head _))))))))
  have m8 : Part.load ∈ L := hL _ (.tail _ (.tail _ (.tail _ (.tail _ (.tail _ (.tail _ (.tail _ (.tail _ (.head _)))))))))
  have m9 : Part.ints ∈ L := hL _ (.tail _ (.tail _ (.tail _ (.tail _ (.tail _ (.tail _ (.tail _ (.tail _ (.tail _ (.head _))))))))))
  have m10 : Part.health ∈ L := hL _ (.tail _ (.tail _ (.tail _ (.tail _ (.tail _ (.tail _ (.tail _ (.tail _ (.tail _ (.tail _ (.head _)))))))))))
  have m11 : Part.counters ∈ L := hL _ (.tail _ (.tail _ (.tail _ (.tail _ (.tail _ (.tail _ (.tail _ (.tail _ (.tail _ (.tail _ (.tail _ (.head _))))))))))))
  unfold takeSync
  repeat' first
      | with_reducible assumption | with_reducible exact Framed.sub rfl hL
      | with_reducible apply fenceAtSync_framed | with_reducible apply atSync_framed
      | with_reducible apply onMasters_framed | with_reducible apply draw_framed | with_reducible apply bump_framed
      | with_reducible apply ite_framed | dsimp only [id]
      | (fail_if_no_progress ((with_reducible apply Framed.upd) ; exact .inl rfl ; exact .inr m0 ; exact .inr m1 ; (focus (apply Or.inr ; (repeat' (apply And.intro)) ; exact .inr m2 ; exact .inl rfl ; exact .inl rfl ; exact .inl rfl ; exact .inl rfl ; exact .inl rfl)) ; (iterate 2 exact .inl rfl) ; (focus (apply Or.inr ; (repeat' (apply And.intro)) ; (apply Or.inl ; first | rfl | (simp only [FabricS.rest] ; done) | (simp only [FabricS.rest] ; split <;> rfl)) ; exact .inr m3)) ; exact .inl rfl ; (focus (apply Or.inr ; (repeat' (apply And.intro)) ; exact .inl rfl ; exact .inr m4)) ; exact .inr m5 ; exact .inr m6 ; (iterate 3 exact .inl rfl) ; exact .inr m7 ; exact .inl rfl ; exact .inr m8 ; (focus (apply Or.inr ; (repeat' (apply And.intro)) ; (apply Or.inl ; simp only [HostS.registers]) ; exact .inr m9 ; exact .inl rfl)) ; exact .inl rfl ; (focus (apply Or.inr ; (repeat' (apply And.intro)) ; exact .inr m10 ; exact .inr m11)) ; (iterate 2 exact .inl rfl)))

theorem takeIdent_framed (p : Port) (d : Dev) (hL : ∀ p ∈ ([.time] : List Part), p ∈ L) (hd : Framed L base d)
    : Framed L base (takeIdent p d).2 := by
  unfold takeIdent
  repeat' first | with_reducible assumption | with_reducible apply onPortTime_framed

theorem takeIdent_pair (p : Port) (d : Dev) {r0 : _} {d' : Dev} (e : takeIdent p d = (r0, d')) (hL : ∀ p ∈ ([.time]
    : List Part), p ∈ L) (hd : Framed L base d) : Framed L base d' := by
  have := takeIdent_framed p d hL hd
  rw [e] at this
  exact this

theorem sendPdelay_framed (p : Port) (d : Dev) (hL : ∀ p ∈ ([.fresh, .out, .regs, .queues, .time, .counters]
    : List Part), p ∈ L) (hd : Framed L base d) : Framed L base (sendPdelay p d) := by
  have m0 : Part.fresh ∈ L := hL _ (.head _)
  have m1 : Part.out ∈ L := hL _ (.tail _ (.head _))
  have m2 : Part.regs ∈ L := hL _ (.tail _ (.tail _ (.head _)))
  have m3 : Part.queues ∈ L := hL _ (.tail _ (.tail _ (.tail _ (.head _))))
  have m4 : Part.time ∈ L := hL _ (.tail _ (.tail _ (.tail _ (.tail _ (.head _)))))
  have m5 : Part.counters ∈ L := hL _ (.tail _ (.tail _ (.tail _ (.tail _ (.tail _ (.head _))))))
  unfold sendPdelay
  repeat' first
      | with_reducible assumption | with_reducible exact Framed.sub rfl hL | with_reducible apply sendPtp_framed
      | with_reducible apply onPortTime_framed | dsimp only [id]
      | (fail_if_no_progress ((with_reducible apply Framed.upd) ; exact .inl rfl ; exact .inr m0 ; exact .inr m1 ; (focus (apply Or.inr ; (repeat' (apply And.intro)) ; exact .inr m2 ; exact .inl rfl ; exact .inl rfl ; exact .inl rfl ; exact .inl rfl ; exact .inl rfl)) ; (iterate 2 exact .inl rfl) ; (focus (apply Or.inr ; (repeat' (apply And.intro)) ; (apply Or.inl ; first | rfl | (simp only [FabricS.rest] ; done) | (simp only [FabricS.rest] ; split <;> rfl)) ; exact .inr m3)) ; exact .inl rfl ; (focus (apply Or.inr ; (repeat' (apply And.intro)) ; exact .inl rfl ; exact .inr m4)) ; (iterate 10 exact .inl rfl) ; (focus (apply Or.inr ; (repeat' (apply And.intro)) ; (apply Or.inl ; simp only [HealthS.rest]) ; exact .inr m5)) ; (iterate 2 exact .inl rfl)))

theorem timePortUp_framed (p : Port) (d : Dev) (hL : ∀ p ∈ ([.fresh, .out, .regs, .queues, .time, .counters]
    : List Part), p ∈ L) (hd : Framed L base d) : Framed L base (timePortUp p d) := by
  unfold timePortUp
  repeat' first
      | with_reducible assumption | with_reducible exact Framed.sub rfl hL | with_reducible apply sendPdelay_framed
      | with_reducible apply onPortTime_framed | with_reducible apply ite_framed

theorem timePortDown_framed (p : Port) (d : Dev) (hL : ∀ p ∈ ([.time] : List Part), p ∈ L) (hd : Framed L base d)
    : Framed L base (timePortDown p d) := by
  have m0 : Part.time ∈ L := hL _ (.head _)
  unfold timePortDown
  repeat' first
      | with_reducible assumption | with_reducible apply onPortTime_framed | split | dsimp only [id]
      | (fail_if_no_progress ((with_reducible apply Framed.upd) ; (iterate 8 exact .inl rfl) ; (focus (apply Or.inr ; (repeat' (apply And.intro)) ; exact .inl rfl ; exact .inr m0)) ; (iterate 13 exact .inl rfl)))

theorem timeControlStop_framed (d : Dev) (hL : ∀ p ∈ ([.out, .regs, .time, .recd, .ints, .counters]
    : List Part), p ∈ L) (hd : Framed L base d) : Framed L base (timeControlStop d) := by
  unfold timeControlStop
  repeat' first | with_reducible assumption | with_reducible apply enterHoldover_framed | split

theorem ppsLow_framed (d : Dev) (hL : ∀ p ∈ ([.time] : List Part), p ∈ L) (hd : Framed L base d) : Framed L base
    (ppsLow d) := by
  have m0 : Part.time ∈ L := hL _ (.head _)
  unfold ppsLow
  repeat' first
      | with_reducible assumption | split | dsimp only [id]
      | (fail_if_no_progress ((with_reducible apply Framed.upd) ; (iterate 8 exact .inl rfl) ; (focus (apply Or.inr ; (repeat' (apply And.intro)) ; exact .inl rfl ; exact .inr m0)) ; (iterate 13 exact .inl rfl)))

theorem applyTime_framed (old : Dev) (d : Dev) (hL : ∀ p ∈ ([.fresh, .out, .regs, .queues, .time, .counters]
    : List Part), p ∈ L) (hold : Framed L base old) (hd : Framed L base d) : Framed L base (applyTime old d) := by
  unfold applyTime
  repeat' first
      | with_reducible assumption | with_reducible exact Framed.sub rfl hL | with_reducible intro _
      | with_reducible apply timePortDown_framed | with_reducible apply timePortUp_framed
      | with_reducible apply ppsOff_framed | with_reducible apply ppsLow_framed | with_reducible apply forEach_framed
      | with_reducible apply ite_framed

theorem timeRoundStart_framed (revealed : List Port) (d : Dev) (hL : ∀ p ∈ ([.time] : List Part), p ∈ L) (hd
    : Framed L base d) : Framed L base (timeRoundStart revealed d) := by
  have m0 : Part.time ∈ L := hL _ (.head _)
  unfold timeRoundStart
  repeat' first
      | with_reducible assumption | dsimp only [id]
      | (fail_if_no_progress ((with_reducible apply Framed.upd) ; (iterate 8 exact .inl rfl) ; (focus (apply Or.inr ; (repeat' (apply And.intro)) ; exact .inl rfl ; exact .inr m0)) ; (iterate 13 exact .inl rfl)))

theorem timeStandardHold_framed (revealed : List Port) (d : Dev) (hL : ∀ p ∈ ([.time] : List Part), p ∈ L) (hd
    : Framed L base d) : Framed L base (timeStandardHold revealed d) := by
  have m0 : Part.time ∈ L := hL _ (.head _)
  unfold timeStandardHold
  repeat' first
      | with_reducible assumption | dsimp only [id]
      | (fail_if_no_progress ((with_reducible apply Framed.upd) ; (iterate 8 exact .inl rfl) ; (focus (apply Or.inr ; (repeat' (apply And.intro)) ; exact .inl rfl ; exact .inr m0)) ; (iterate 13 exact .inl rfl)))

theorem timeHoldEnd_framed (d : Dev) (hL : ∀ p ∈ ([.fresh, .out, .regs, .queues, .time, .recd, .ints, .counters]
    : List Part), p ∈ L) (hd : Framed L base d) : Framed L base (timeHoldEnd d) := by
  have m0 : Part.fresh ∈ L := hL _ (.head _)
  have m1 : Part.out ∈ L := hL _ (.tail _ (.head _))
  have m2 : Part.regs ∈ L := hL _ (.tail _ (.tail _ (.head _)))
  have m3 : Part.queues ∈ L := hL _ (.tail _ (.tail _ (.tail _ (.head _))))
  have m4 : Part.time ∈ L := hL _ (.tail _ (.tail _ (.tail _ (.tail _ (.head _)))))
  have m5 : Part.recd ∈ L := hL _ (.tail _ (.tail _ (.tail _ (.tail _ (.tail _ (.head _))))))
  have m6 : Part.ints ∈ L := hL _ (.tail _ (.tail _ (.tail _ (.tail _ (.tail _ (.tail _ (.head _)))))))
  have m7 : Part.counters ∈ L := hL _ (.tail _ (.tail _ (.tail _ (.tail _ (.tail _ (.tail _ (.tail _ (.head _))))))))
  unfold timeHoldEnd
  repeat' first
      | with_reducible assumption | with_reducible exact Framed.sub rfl hL | with_reducible apply runBmca_framed
      | with_reducible apply sendSync_framed | with_reducible apply sendAnnounce_framed | dsimp only [id]
      | (fail_if_no_progress ((with_reducible apply Framed.upd) ; exact .inl rfl ; exact .inr m0 ; exact .inr m1 ; (focus (apply Or.inr ; (repeat' (apply And.intro)) ; exact .inr m2 ; exact .inl rfl ; exact .inl rfl ; exact .inl rfl ; exact .inl rfl ; exact .inl rfl)) ; (iterate 2 exact .inl rfl) ; (focus (apply Or.inr ; (repeat' (apply And.intro)) ; (apply Or.inl ; first | rfl | (simp only [FabricS.rest] ; done)) ; exact .inr m3)) ; exact .inl rfl ; (focus (apply Or.inr ; (repeat' (apply And.intro)) ; exact .inl rfl ; exact .inr m4)) ; (iterate 5 exact .inl rfl) ; exact .inr m5 ; (iterate 2 exact .inl rfl) ; (focus (apply Or.inr ; (repeat' (apply And.intro)) ; (apply Or.inl ; simp only [HostS.registers]) ; exact .inr m6 ; exact .inl rfl)) ; exact .inl rfl ; (focus (apply Or.inr ; (repeat' (apply And.intro)) ; (apply Or.inl ; simp only [HealthS.rest]) ; exact .inr m7)) ; (iterate 2 exact .inl rfl)))

theorem timeEpochSwitch_framed (d : Dev) (hL : ∀ p ∈ ([.fresh, .out, .regs, .queues, .time, .recd, .ints, .counters]
    : List Part), p ∈ L) (hd : Framed L base d) : Framed L base (timeEpochSwitch d) := by
  have m0 : Part.fresh ∈ L := hL _ (.head _)
  have m1 : Part.out ∈ L := hL _ (.tail _ (.head _))
  have m2 : Part.regs ∈ L := hL _ (.tail _ (.tail _ (.head _)))
  have m3 : Part.queues ∈ L := hL _ (.tail _ (.tail _ (.tail _ (.head _))))
  have m4 : Part.time ∈ L := hL _ (.tail _ (.tail _ (.tail _ (.tail _ (.head _)))))
  have m5 : Part.recd ∈ L := hL _ (.tail _ (.tail _ (.tail _ (.tail _ (.tail _ (.head _))))))
  have m6 : Part.ints ∈ L := hL _ (.tail _ (.tail _ (.tail _ (.tail _ (.tail _ (.tail _ (.head _)))))))
  have m7 : Part.counters ∈ L := hL _ (.tail _ (.tail _ (.tail _ (.tail _ (.tail _ (.tail _ (.tail _ (.head _))))))))
  unfold timeEpochSwitch
  repeat' first
      | with_reducible assumption | with_reducible exact Framed.sub rfl hL
      | with_reducible apply timeHoldEnd_framed | with_reducible apply enterHoldover_framed
      | with_reducible apply disarm_framed | split | dsimp only [id]
      | (fail_if_no_progress ((with_reducible apply Framed.upd) ; exact .inl rfl ; exact .inr m0 ; exact .inr m1 ; (focus (apply Or.inr ; (repeat' (apply And.intro)) ; exact .inr m2 ; exact .inl rfl ; exact .inl rfl ; exact .inl rfl ; exact .inl rfl ; exact .inl rfl)) ; (iterate 2 exact .inl rfl) ; (focus (apply Or.inr ; (repeat' (apply And.intro)) ; (apply Or.inl ; first | rfl | (simp only [FabricS.rest] ; done) | (simp only [FabricS.rest] ; split <;> rfl)) ; exact .inr m3)) ; exact .inl rfl ; (focus (apply Or.inr ; (repeat' (apply And.intro)) ; exact .inl rfl ; exact .inr m4)) ; (iterate 5 exact .inl rfl) ; exact .inr m5 ; (iterate 2 exact .inl rfl) ; (focus (apply Or.inr ; (repeat' (apply And.intro)) ; (apply Or.inl ; simp only [HostS.registers]) ; exact .inr m6 ; exact .inl rfl)) ; exact .inl rfl ; (focus (apply Or.inr ; (repeat' (apply And.intro)) ; (apply Or.inl ; simp only [HealthS.rest]) ; exact .inr m7)) ; (iterate 2 exact .inl rfl)))

theorem applyTevt_framed (d : Dev) (hL : ∀ p ∈ ([.regs, .time] : List Part), p ∈ L) (hd : Framed L base d)
    : Framed L base (applyTevt d) := by
  have m0 : Part.regs ∈ L := hL _ (.head _)
  have m1 : Part.time ∈ L := hL _ (.tail _ (.head _))
  unfold applyTevt
  repeat' first
      | with_reducible assumption | with_reducible exact Framed.sub rfl hL | with_reducible apply bump_framed
      | with_reducible apply ite_framed | split | dsimp only [id]
      | (fail_if_no_progress ((with_reducible apply Framed.upd) ; (iterate 3 exact .inl rfl) ; (focus (apply Or.inr ; (repeat' (apply And.intro)) ; exact .inr m0 ; exact .inl rfl ; exact .inl rfl ; exact .inl rfl ; exact .inl rfl ; exact .inl rfl)) ; (iterate 4 exact .inl rfl) ; (focus (apply Or.inr ; (repeat' (apply And.intro)) ; exact .inl rfl ; exact .inr m1)) ; (iterate 13 exact .inl rfl)))

theorem requestedStep_framed (amount : Int) (d : Dev) (hL : ∀ p ∈
    ([.out, .regs, .time, .sched, .strm, .recd, .load, .ints, .counters] : List Part), p ∈ L) (hd : Framed L base d)
    : Framed L base (requestedStep amount d) := by
  have m0 : Part.out ∈ L := hL _ (.head _)
  have m1 : Part.regs ∈ L := hL _ (.tail _ (.head _))
  have m2 : Part.time ∈ L := hL _ (.tail _ (.tail _ (.head _)))
  have m3 : Part.sched ∈ L := hL _ (.tail _ (.tail _ (.tail _ (.head _))))
  have m4 : Part.strm ∈ L := hL _ (.tail _ (.tail _ (.tail _ (.tail _ (.head _)))))
  have m5 : Part.recd ∈ L := hL _ (.tail _ (.tail _ (.tail _ (.tail _ (.tail _ (.head _))))))
  have m6 : Part.load ∈ L := hL _ (.tail _ (.tail _ (.tail _ (.tail _ (.tail _ (.tail _ (.head _)))))))
  have m7 : Part.ints ∈ L := hL _ (.tail _ (.tail _ (.tail _ (.tail _ (.tail _ (.tail _ (.tail _ (.head _))))))))
  have m8 : Part.counters ∈ L := hL _ (.tail _ (.tail _ (.tail _ (.tail _ (.tail _ (.tail _ (.tail _ (.tail _ (.head _)))))))))
  unfold requestedStep
  repeat' first
      | with_reducible assumption | with_reducible exact Framed.sub rfl hL | with_reducible apply stepAll_framed
      | with_reducible apply bump_framed | dsimp only [id]
      | (fail_if_no_progress ((with_reducible apply Framed.upd) ; (iterate 2 exact .inl rfl) ; exact .inr m0 ; (focus (apply Or.inr ; (repeat' (apply And.intro)) ; exact .inr m1 ; exact .inl rfl ; exact .inl rfl ; exact .inl rfl ; exact .inl rfl ; exact .inl rfl)) ; (iterate 4 exact .inl rfl) ; (focus (apply Or.inr ; (repeat' (apply And.intro)) ; exact .inl rfl ; exact .inr m2)) ; exact .inr m3 ; exact .inr m4 ; (iterate 3 exact .inl rfl) ; exact .inr m5 ; exact .inl rfl ; exact .inr m6 ; (focus (apply Or.inr ; (repeat' (apply And.intro)) ; (apply Or.inl ; simp only [HostS.registers]) ; exact .inr m7 ; exact .inl rfl)) ; exact .inl rfl ; (focus (apply Or.inr ; (repeat' (apply And.intro)) ; (apply Or.inl ; simp only [HealthS.rest]) ; exact .inr m8)) ; (iterate 2 exact .inl rfl)))

theorem execSync_framed (p : Port) (seq : BitVec 16) (gm : BitVec 64) (twoStep : Bool) (origin : Int) (s : State)
    : DoesFramed [.fresh, .out, .regs, .queues, .time, .sched, .strm, .recd, .load, .ints, .health, .counters] s
    (execSync p seq gm twoStep origin s) := by
  unfold execSync
  first | with_reducible apply does_framed | (with_reducible refine doesJudged_framed _ _ ?_ rfl) | skip
  all_goals (try (intro L base d hL hd ; have m0 : Part.fresh ∈ L := hL _ (.head _) ; have m1 : Part.out ∈ L := hL _ (.tail _ (.head _)) ; have m2 : Part.regs ∈ L := hL _ (.tail _ (.tail _ (.head _))) ; have m3 : Part.queues ∈ L := hL _ (.tail _ (.tail _ (.tail _ (.head _)))) ; have m4 : Part.time ∈ L := hL _ (.tail _ (.tail _ (.tail _ (.tail _ (.head _))))) ; have m5 : Part.sched ∈ L := hL _ (.tail _ (.tail _ (.tail _ (.tail _ (.tail _ (.head _)))))) ; have m6 : Part.strm ∈ L := hL _ (.tail _ (.tail _ (.tail _ (.tail _ (.tail _ (.tail _ (.head _))))))) ; have m7 : Part.recd ∈ L := hL _ (.tail _ (.tail _ (.tail _ (.tail _ (.tail _ (.tail _ (.tail _ (.head _)))))))) ; have m8 : Part.load ∈ L := hL _ (.tail _ (.tail _ (.tail _ (.tail _ (.tail _ (.tail _ (.tail _ (.tail _ (.head _))))))))) ; have m9 : Part.ints ∈ L := hL _ (.tail _ (.tail _ (.tail _ (.tail _ (.tail _ (.tail _ (.tail _ (.tail _ (.tail _ (.head _)))))))))) ; have m10 : Part.health ∈ L := hL _ (.tail _ (.tail _ (.tail _ (.tail _ (.tail _ (.tail _ (.tail _ (.tail _ (.tail _ (.tail _ (.head _))))))))))) ; have m11 : Part.counters ∈ L := hL _ (.tail _ (.tail _ (.tail _ (.tail _ (.tail _ (.tail _ (.tail _ (.tail _ (.tail _ (.tail _ (.tail _ (.head _))))))))))))))
  all_goals (try beta_reduce)
  repeat' first
      | with_reducible assumption | with_reducible exact Framed.sub rfl hL | with_reducible intro _
      | with_reducible apply takeSync_framed | with_reducible apply ptpHeard_framed
      | with_reducible apply ite_framed | dsimp only [id]
      | (fail_if_no_progress ((with_reducible apply Framed.upd) ; exact .inl rfl ; exact .inr m0 ; exact .inr m1 ; (focus (apply Or.inr ; (repeat' (apply And.intro)) ; exact .inr m2 ; exact .inl rfl ; exact .inl rfl ; exact .inl rfl ; exact .inl rfl ; exact .inl rfl)) ; (iterate 2 exact .inl rfl) ; (focus (apply Or.inr ; (repeat' (apply And.intro)) ; (apply Or.inl ; first | rfl | (simp only [FabricS.rest] ; done) | (simp only [FabricS.rest] ; split <;> rfl)) ; exact .inr m3)) ; exact .inl rfl ; (focus (apply Or.inr ; (repeat' (apply And.intro)) ; exact .inl rfl ; exact .inr m4)) ; exact .inr m5 ; exact .inr m6 ; (iterate 3 exact .inl rfl) ; exact .inr m7 ; exact .inl rfl ; exact .inr m8 ; (focus (apply Or.inr ; (repeat' (apply And.intro)) ; (apply Or.inl ; simp only [HostS.registers]) ; exact .inr m9 ; exact .inl rfl)) ; exact .inl rfl ; (focus (apply Or.inr ; (repeat' (apply And.intro)) ; exact .inr m10 ; exact .inr m11)) ; (iterate 2 exact .inl rfl)))

theorem execFollowUp_framed (p : Port) (seq : BitVec 16) (origin : Int) (s : State)
    : DoesFramed [.fresh, .out, .regs, .queues, .time, .sched, .strm, .recd, .load, .ints, .health, .counters] s
    (execFollowUp p seq origin s) := by
  unfold execFollowUp
  first | with_reducible apply does_framed | (with_reducible refine doesJudged_framed _ _ ?_ rfl) | skip
  all_goals (try (intro L base d hL hd ; have m0 : Part.fresh ∈ L := hL _ (.head _) ; have m1 : Part.out ∈ L := hL _ (.tail _ (.head _)) ; have m2 : Part.regs ∈ L := hL _ (.tail _ (.tail _ (.head _))) ; have m3 : Part.queues ∈ L := hL _ (.tail _ (.tail _ (.tail _ (.head _)))) ; have m4 : Part.time ∈ L := hL _ (.tail _ (.tail _ (.tail _ (.tail _ (.head _))))) ; have m5 : Part.sched ∈ L := hL _ (.tail _ (.tail _ (.tail _ (.tail _ (.tail _ (.head _)))))) ; have m6 : Part.strm ∈ L := hL _ (.tail _ (.tail _ (.tail _ (.tail _ (.tail _ (.tail _ (.head _))))))) ; have m7 : Part.recd ∈ L := hL _ (.tail _ (.tail _ (.tail _ (.tail _ (.tail _ (.tail _ (.tail _ (.head _)))))))) ; have m8 : Part.load ∈ L := hL _ (.tail _ (.tail _ (.tail _ (.tail _ (.tail _ (.tail _ (.tail _ (.tail _ (.head _))))))))) ; have m9 : Part.ints ∈ L := hL _ (.tail _ (.tail _ (.tail _ (.tail _ (.tail _ (.tail _ (.tail _ (.tail _ (.tail _ (.head _)))))))))) ; have m10 : Part.health ∈ L := hL _ (.tail _ (.tail _ (.tail _ (.tail _ (.tail _ (.tail _ (.tail _ (.tail _ (.tail _ (.tail _ (.head _))))))))))) ; have m11 : Part.counters ∈ L := hL _ (.tail _ (.tail _ (.tail _ (.tail _ (.tail _ (.tail _ (.tail _ (.tail _ (.tail _ (.tail _ (.tail _ (.head _))))))))))))))
  all_goals (try beta_reduce)
  repeat' first
      | with_reducible assumption | with_reducible exact Framed.sub rfl hL | with_reducible intro _
      | with_reducible apply takeSync_framed | with_reducible apply ptpHeard_framed
      | with_reducible apply ite_framed | split | dsimp only [id]
      | (fail_if_no_progress ((with_reducible apply Framed.upd) ; exact .inl rfl ; exact .inr m0 ; exact .inr m1 ; (focus (apply Or.inr ; (repeat' (apply And.intro)) ; exact .inr m2 ; exact .inl rfl ; exact .inl rfl ; exact .inl rfl ; exact .inl rfl ; exact .inl rfl)) ; (iterate 2 exact .inl rfl) ; (focus (apply Or.inr ; (repeat' (apply And.intro)) ; (apply Or.inl ; first | rfl | (simp only [FabricS.rest] ; done) | (simp only [FabricS.rest] ; split <;> rfl)) ; exact .inr m3)) ; exact .inl rfl ; (focus (apply Or.inr ; (repeat' (apply And.intro)) ; exact .inl rfl ; exact .inr m4)) ; exact .inr m5 ; exact .inr m6 ; (iterate 3 exact .inl rfl) ; exact .inr m7 ; exact .inl rfl ; exact .inr m8 ; (focus (apply Or.inr ; (repeat' (apply And.intro)) ; (apply Or.inl ; simp only [HostS.registers]) ; exact .inr m9 ; exact .inl rfl)) ; exact .inl rfl ; (focus (apply Or.inr ; (repeat' (apply And.intro)) ; exact .inr m10 ; exact .inr m11)) ; (iterate 2 exact .inl rfl)))

theorem execAnnounce_framed (p : Port) (a : AnnounceMsg) (s : State)
    : DoesFramed [.fresh, .out, .regs, .queues, .time, .recd, .ints, .counters] s (execAnnounce p a s) := by
  unfold execAnnounce
  first | with_reducible apply does_framed | (with_reducible refine doesJudged_framed _ _ ?_ rfl) | skip
  all_goals (try (intro L base d hL hd ; have m0 : Part.fresh ∈ L := hL _ (.head _) ; have m1 : Part.out ∈ L := hL _ (.tail _ (.head _)) ; have m2 : Part.regs ∈ L := hL _ (.tail _ (.tail _ (.head _))) ; have m3 : Part.queues ∈ L := hL _ (.tail _ (.tail _ (.tail _ (.head _)))) ; have m4 : Part.time ∈ L := hL _ (.tail _ (.tail _ (.tail _ (.tail _ (.head _))))) ; have m5 : Part.recd ∈ L := hL _ (.tail _ (.tail _ (.tail _ (.tail _ (.tail _ (.head _)))))) ; have m6 : Part.ints ∈ L := hL _ (.tail _ (.tail _ (.tail _ (.tail _ (.tail _ (.tail _ (.head _))))))) ; have m7 : Part.counters ∈ L := hL _ (.tail _ (.tail _ (.tail _ (.tail _ (.tail _ (.tail _ (.tail _ (.head _))))))))))
  all_goals (try beta_reduce)
  repeat' first
      | with_reducible assumption | with_reducible exact Framed.sub rfl hL | with_reducible intro _
      | with_reducible apply runBmca_framed | with_reducible apply sendAnnounce_framed
      | with_reducible apply ptpHeard_framed | with_reducible apply onPortTime_framed
      | with_reducible apply ite_framed | dsimp only [id]
      | (fail_if_no_progress ((with_reducible apply Framed.upd) ; exact .inl rfl ; exact .inr m0 ; exact .inr m1 ; (focus (apply Or.inr ; (repeat' (apply And.intro)) ; exact .inr m2 ; exact .inl rfl ; exact .inl rfl ; exact .inl rfl ; exact .inl rfl ; exact .inl rfl)) ; (iterate 2 exact .inl rfl) ; (focus (apply Or.inr ; (repeat' (apply And.intro)) ; (apply Or.inl ; first | rfl | (simp only [FabricS.rest] ; done) | (simp only [FabricS.rest] ; split <;> rfl)) ; exact .inr m3)) ; exact .inl rfl ; (focus (apply Or.inr ; (repeat' (apply And.intro)) ; exact .inl rfl ; exact .inr m4)) ; (iterate 5 exact .inl rfl) ; exact .inr m5 ; (iterate 2 exact .inl rfl) ; (focus (apply Or.inr ; (repeat' (apply And.intro)) ; (apply Or.inl ; simp only [HostS.registers]) ; exact .inr m6 ; exact .inl rfl)) ; exact .inl rfl ; (focus (apply Or.inr ; (repeat' (apply And.intro)) ; (apply Or.inl ; simp only [HealthS.rest]) ; exact .inr m7)) ; (iterate 2 exact .inl rfl)))

theorem execPdelayReq_framed (p : Port) (seq : BitVec 16) (s : State)
    : DoesFramed [.fresh, .out, .regs, .queues, .counters] s (execPdelayReq p seq s) := by
  unfold execPdelayReq
  first | with_reducible apply does_framed | (with_reducible refine doesJudged_framed _ _ ?_ rfl) | skip
  all_goals (try (intro L base d hL hd ; beta_reduce))
  repeat' first
      | with_reducible assumption | with_reducible exact Framed.sub rfl hL | with_reducible intro _
      | with_reducible apply ptpHeard_framed | with_reducible apply sendPtp_framed
      | with_reducible apply draw_framed | with_reducible apply ite_framed

theorem execPdelayResp_framed (p : Port) (seq : BitVec 16) (roundTripPs turnaroundPs : BitVec 48) (ratioPpt : Int)
    (s : State) : DoesFramed [.regs, .time, .counters] s
    (execPdelayResp p seq roundTripPs turnaroundPs ratioPpt s) := by
  unfold execPdelayResp
  first | with_reducible apply does_framed | (with_reducible refine doesJudged_framed _ _ ?_ rfl) | skip
  all_goals (try (intro L base d hL hd ; beta_reduce))
  repeat' first
      | with_reducible assumption | with_reducible exact Framed.sub rfl hL | with_reducible intro _
      | with_reducible apply ptpHeard_framed | with_reducible apply onPortTime_framed
      | with_reducible apply ite_framed

theorem execPdelayInterval_framed (p : Port) (s : State)
    : DoesFramed [.clock, .fresh, .out, .regs, .queues, .time, .counters] s (execPdelayInterval p s) := by
  unfold execPdelayInterval
  first | with_reducible apply does_framed | (with_reducible refine doesJudged_framed _ _ ?_ rfl) | skip
  all_goals (try (intro L base d hL hd ; beta_reduce))
  repeat' first
      | with_reducible assumption | with_reducible exact Framed.sub rfl hL | with_reducible apply sendPdelay_framed
      | with_reducible apply arrive_framed | with_reducible apply ite_framed | split

theorem execSyncInterval_framed (s : State) : DoesFramed [.fresh, .out, .regs, .queues, .time, .counters] s
    (execSyncInterval s) := by
  unfold execSyncInterval
  first | with_reducible apply does_framed | (with_reducible refine doesJudged_framed _ _ ?_ rfl) | skip
  all_goals (try (intro L base d hL hd ; beta_reduce))
  repeat' first | with_reducible assumption | with_reducible apply sendSync_framed

theorem execAnnounceInterval_framed (s : State) : DoesFramed [.fresh, .out, .regs, .queues, .counters] s
    (execAnnounceInterval s) := by
  unfold execAnnounceInterval
  first | with_reducible apply does_framed | (with_reducible refine doesJudged_framed _ _ ?_ rfl) | skip
  all_goals (try (intro L base d hL hd ; beta_reduce))
  repeat' first | with_reducible assumption | with_reducible apply sendAnnounce_framed

theorem execSyncReceiptTimeout_framed (s : State)
    : DoesFramed [.clock, .out, .regs, .time, .recd, .ints, .counters] s (execSyncReceiptTimeout s) := by
  unfold execSyncReceiptTimeout
  first | with_reducible apply does_framed | (with_reducible refine doesJudged_framed _ _ ?_ rfl) | skip
  all_goals (try (intro L base d hL hd ; have m0 : Part.clock ∈ L := hL _ (.head _) ; have m1 : Part.out ∈ L := hL _ (.tail _ (.head _)) ; have m2 : Part.regs ∈ L := hL _ (.tail _ (.tail _ (.head _))) ; have m3 : Part.time ∈ L := hL _ (.tail _ (.tail _ (.tail _ (.head _)))) ; have m4 : Part.recd ∈ L := hL _ (.tail _ (.tail _ (.tail _ (.tail _ (.head _))))) ; have m5 : Part.ints ∈ L := hL _ (.tail _ (.tail _ (.tail _ (.tail _ (.tail _ (.head _)))))) ; have m6 : Part.counters ∈ L := hL _ (.tail _ (.tail _ (.tail _ (.tail _ (.tail _ (.tail _ (.head _)))))))))
  all_goals (try beta_reduce)
  repeat' first
      | with_reducible assumption | with_reducible exact Framed.sub rfl hL
      | with_reducible apply enterHoldover_framed | with_reducible apply arrive_framed
      | with_reducible apply bump_framed | split | dsimp only [id]
      | (fail_if_no_progress ((with_reducible apply Framed.upd) ; exact .inr m0 ; exact .inl rfl ; exact .inr m1 ; (focus (apply Or.inr ; (repeat' (apply And.intro)) ; exact .inr m2 ; exact .inl rfl ; exact .inl rfl ; exact .inl rfl ; exact .inl rfl ; exact .inl rfl)) ; (iterate 4 exact .inl rfl) ; (focus (apply Or.inr ; (repeat' (apply And.intro)) ; exact .inr m0 ; exact .inr m3)) ; (iterate 5 exact .inl rfl) ; exact .inr m4 ; (iterate 2 exact .inl rfl) ; (focus (apply Or.inr ; (repeat' (apply And.intro)) ; (apply Or.inl ; simp only [HostS.registers]) ; exact .inr m5 ; exact .inl rfl)) ; exact .inl rfl ; (focus (apply Or.inr ; (repeat' (apply And.intro)) ; (apply Or.inl ; simp only [HealthS.rest]) ; exact .inr m6)) ; (iterate 2 exact .inl rfl)))

theorem execAnnounceReceiptTimeout_framed (s : State)
    : DoesFramed [.clock, .fresh, .out, .regs, .queues, .time, .recd, .ints, .counters] s
    (execAnnounceReceiptTimeout s) := by
  unfold execAnnounceReceiptTimeout
  first | with_reducible apply does_framed | (with_reducible refine doesJudged_framed _ _ ?_ rfl) | skip
  all_goals (try (intro L base d hL hd ; have m0 : Part.clock ∈ L := hL _ (.head _) ; have m1 : Part.fresh ∈ L := hL _ (.tail _ (.head _)) ; have m2 : Part.out ∈ L := hL _ (.tail _ (.tail _ (.head _))) ; have m3 : Part.regs ∈ L := hL _ (.tail _ (.tail _ (.tail _ (.head _)))) ; have m4 : Part.queues ∈ L := hL _ (.tail _ (.tail _ (.tail _ (.tail _ (.head _))))) ; have m5 : Part.time ∈ L := hL _ (.tail _ (.tail _ (.tail _ (.tail _ (.tail _ (.head _)))))) ; have m6 : Part.recd ∈ L := hL _ (.tail _ (.tail _ (.tail _ (.tail _ (.tail _ (.tail _ (.head _))))))) ; have m7 : Part.ints ∈ L := hL _ (.tail _ (.tail _ (.tail _ (.tail _ (.tail _ (.tail _ (.tail _ (.head _)))))))) ; have m8 : Part.counters ∈ L := hL _ (.tail _ (.tail _ (.tail _ (.tail _ (.tail _ (.tail _ (.tail _ (.tail _ (.head _)))))))))))
  all_goals (try beta_reduce)
  repeat' first
      | with_reducible assumption | with_reducible exact Framed.sub rfl hL | with_reducible apply runBmca_framed
      | with_reducible apply enterHoldover_framed | with_reducible apply onPortTime_framed
      | with_reducible apply arrive_framed | with_reducible apply bump_framed | with_reducible apply ite_framed
      | split | dsimp only [id]
      | (fail_if_no_progress ((with_reducible apply Framed.upd) ; exact .inr m0 ; exact .inr m1 ; exact .inr m2 ; (focus (apply Or.inr ; (repeat' (apply And.intro)) ; exact .inr m3 ; exact .inl rfl ; exact .inl rfl ; exact .inl rfl ; exact .inl rfl ; exact .inl rfl)) ; (iterate 2 exact .inl rfl) ; (focus (apply Or.inr ; (repeat' (apply And.intro)) ; (apply Or.inl ; first | rfl | (simp only [FabricS.rest] ; done) | (simp only [FabricS.rest] ; split <;> rfl)) ; exact .inr m4)) ; exact .inl rfl ; (focus (apply Or.inr ; (repeat' (apply And.intro)) ; exact .inr m0 ; exact .inr m5)) ; (iterate 5 exact .inl rfl) ; exact .inr m6 ; (iterate 2 exact .inl rfl) ; (focus (apply Or.inr ; (repeat' (apply And.intro)) ; (apply Or.inl ; simp only [HostS.registers]) ; exact .inr m7 ; exact .inl rfl)) ; exact .inl rfl ; (focus (apply Or.inr ; (repeat' (apply And.intro)) ; (apply Or.inl ; simp only [HealthS.rest]) ; exact .inr m8)) ; (iterate 2 exact .inl rfl)))

theorem execStepPoint_framed (s : State)
    : DoesFramed [.clock, .out, .regs, .time, .sched, .strm, .recd, .load, .ints, .counters] s
    (execStepPoint s) := by
  unfold execStepPoint
  first | with_reducible apply does_framed | (with_reducible refine doesJudged_framed _ _ ?_ rfl) | skip
  all_goals (try (intro L base d hL hd ; have m0 : Part.clock ∈ L := hL _ (.head _) ; have m1 : Part.out ∈ L := hL _ (.tail _ (.head _)) ; have m2 : Part.regs ∈ L := hL _ (.tail _ (.tail _ (.head _))) ; have m3 : Part.time ∈ L := hL _ (.tail _ (.tail _ (.tail _ (.head _)))) ; have m4 : Part.sched ∈ L := hL _ (.tail _ (.tail _ (.tail _ (.tail _ (.head _))))) ; have m5 : Part.strm ∈ L := hL _ (.tail _ (.tail _ (.tail _ (.tail _ (.tail _ (.head _)))))) ; have m6 : Part.recd ∈ L := hL _ (.tail _ (.tail _ (.tail _ (.tail _ (.tail _ (.tail _ (.head _))))))) ; have m7 : Part.load ∈ L := hL _ (.tail _ (.tail _ (.tail _ (.tail _ (.tail _ (.tail _ (.tail _ (.head _)))))))) ; have m8 : Part.ints ∈ L := hL _ (.tail _ (.tail _ (.tail _ (.tail _ (.tail _ (.tail _ (.tail _ (.tail _ (.head _))))))))) ; have m9 : Part.counters ∈ L := hL _ (.tail _ (.tail _ (.tail _ (.tail _ (.tail _ (.tail _ (.tail _ (.tail _ (.tail _ (.head _))))))))))))
  all_goals (try beta_reduce)
  repeat' first
      | with_reducible assumption | with_reducible exact Framed.sub rfl hL
      | with_reducible apply enterHoldover_framed | with_reducible apply stepAll_framed
      | with_reducible apply setTimeState_framed | with_reducible apply arriveTrain_framed
      | with_reducible apply bump_framed | with_reducible apply ite_framed | split | dsimp only [id]
      | (fail_if_no_progress ((with_reducible apply Framed.upd) ; exact .inr m0 ; exact .inl rfl ; exact .inr m1 ; (focus (apply Or.inr ; (repeat' (apply And.intro)) ; exact .inr m2 ; exact .inl rfl ; exact .inl rfl ; exact .inl rfl ; exact .inl rfl ; exact .inl rfl)) ; (iterate 4 exact .inl rfl) ; (focus (apply Or.inr ; (repeat' (apply And.intro)) ; exact .inr m0 ; exact .inr m3)) ; exact .inr m4 ; exact .inr m5 ; (iterate 3 exact .inl rfl) ; exact .inr m6 ; exact .inl rfl ; exact .inr m7 ; (focus (apply Or.inr ; (repeat' (apply And.intro)) ; (apply Or.inl ; simp only [HostS.registers]) ; exact .inr m8 ; exact .inl rfl)) ; exact .inl rfl ; (focus (apply Or.inr ; (repeat' (apply And.intro)) ; (apply Or.inl ; simp only [HealthS.rest]) ; exact .inr m9)) ; (iterate 2 exact .inl rfl)))

theorem execHoldoverLimit_framed (s : State) : DoesFramed [.clock, .out, .regs, .time, .recd, .ints, .counters] s
    (execHoldoverLimit s) := by
  unfold execHoldoverLimit
  first | with_reducible apply does_framed | (with_reducible refine doesJudged_framed _ _ ?_ rfl) | skip
  all_goals (try (intro L base d hL hd ; have m0 : Part.clock ∈ L := hL _ (.head _) ; have m1 : Part.out ∈ L := hL _ (.tail _ (.head _)) ; have m2 : Part.regs ∈ L := hL _ (.tail _ (.tail _ (.head _))) ; have m3 : Part.time ∈ L := hL _ (.tail _ (.tail _ (.tail _ (.head _)))) ; have m4 : Part.recd ∈ L := hL _ (.tail _ (.tail _ (.tail _ (.tail _ (.head _))))) ; have m5 : Part.ints ∈ L := hL _ (.tail _ (.tail _ (.tail _ (.tail _ (.tail _ (.head _)))))) ; have m6 : Part.counters ∈ L := hL _ (.tail _ (.tail _ (.tail _ (.tail _ (.tail _ (.tail _ (.head _)))))))))
  all_goals (try beta_reduce)
  repeat' first
      | with_reducible assumption | with_reducible exact Framed.sub rfl hL | with_reducible apply raise_framed
      | with_reducible apply arrive_framed | with_reducible apply ite_framed | split | dsimp only [id]
      | (fail_if_no_progress ((with_reducible apply Framed.upd) ; exact .inr m0 ; exact .inl rfl ; exact .inr m1 ; (focus (apply Or.inr ; (repeat' (apply And.intro)) ; exact .inr m2 ; exact .inl rfl ; exact .inl rfl ; exact .inl rfl ; exact .inl rfl ; exact .inl rfl)) ; (iterate 4 exact .inl rfl) ; (focus (apply Or.inr ; (repeat' (apply And.intro)) ; exact .inr m0 ; exact .inr m3)) ; (iterate 5 exact .inl rfl) ; exact .inr m4 ; (iterate 2 exact .inl rfl) ; (focus (apply Or.inr ; (repeat' (apply And.intro)) ; (apply Or.inl ; simp only [HostS.registers]) ; exact .inr m5 ; exact .inl rfl)) ; exact .inl rfl ; (focus (apply Or.inr ; (repeat' (apply And.intro)) ; (apply Or.inl ; simp only [HealthS.rest]) ; exact .inr m6)) ; (iterate 2 exact .inl rfl)))

theorem execRoundHoldEnd_framed (s : State)
    : DoesFramed [.clock, .fresh, .out, .regs, .queues, .time, .recd, .ints, .counters] s (execRoundHoldEnd s) := by
  unfold execRoundHoldEnd
  first | with_reducible apply does_framed | (with_reducible refine doesJudged_framed _ _ ?_ rfl) | skip
  all_goals (try (intro L base d hL hd ; beta_reduce))
  repeat' first
      | with_reducible assumption | with_reducible exact Framed.sub rfl hL
      | with_reducible apply timeHoldEnd_framed | with_reducible apply arrive_framed | split

theorem execPpsOutPulse_framed (s : State) : DoesFramed [.clock, .time, .counters] s (execPpsOutPulse s) := by
  unfold execPpsOutPulse
  first | with_reducible apply does_framed | (with_reducible refine doesJudged_framed _ _ ?_ rfl) | skip
  all_goals (try (intro L base d hL hd ; have m0 : Part.clock ∈ L := hL _ (.head _) ; have m1 : Part.time ∈ L := hL _ (.tail _ (.head _)) ; have m2 : Part.counters ∈ L := hL _ (.tail _ (.tail _ (.head _)))))
  all_goals (try beta_reduce)
  repeat' first
      | with_reducible assumption | with_reducible exact Framed.sub rfl hL
      | with_reducible apply arriveTrain_framed | with_reducible apply ite_framed | dsimp only [id]
      | (fail_if_no_progress ((with_reducible apply Framed.upd) ; exact .inr m0 ; (iterate 7 exact .inl rfl) ; (focus (apply Or.inr ; (repeat' (apply And.intro)) ; exact .inr m0 ; exact .inr m1)) ; (iterate 10 exact .inl rfl) ; (focus (apply Or.inr ; (repeat' (apply And.intro)) ; (apply Or.inl ; simp only [HealthS.rest]) ; exact .inr m2)) ; (iterate 2 exact .inl rfl)))

theorem execPpsOutPulseEnd_framed (s : State) : DoesFramed [.clock, .time, .counters] s (execPpsOutPulseEnd s) := by
  unfold execPpsOutPulseEnd
  first | with_reducible apply does_framed | (with_reducible refine doesJudged_framed _ _ ?_ rfl) | skip
  all_goals (try (intro L base d hL hd ; have m0 : Part.clock ∈ L := hL _ (.head _) ; have m1 : Part.time ∈ L := hL _ (.tail _ (.head _)) ; have m2 : Part.counters ∈ L := hL _ (.tail _ (.tail _ (.head _)))))
  all_goals (try beta_reduce)
  repeat' first
      | with_reducible assumption | with_reducible exact Framed.sub rfl hL | with_reducible apply arrive_framed
      | split | dsimp only [id]
      | (fail_if_no_progress ((with_reducible apply Framed.upd) ; exact .inr m0 ; (iterate 7 exact .inl rfl) ; (focus (apply Or.inr ; (repeat' (apply And.intro)) ; exact .inr m0 ; exact .inr m1)) ; (iterate 10 exact .inl rfl) ; (focus (apply Or.inr ; (repeat' (apply And.intro)) ; (apply Or.inl ; simp only [HealthS.rest]) ; exact .inr m2)) ; (iterate 2 exact .inl rfl)))

theorem execTevtOutPulse_framed (s : State) : DoesFramed [.clock, .time, .counters] s (execTevtOutPulse s) := by
  unfold execTevtOutPulse
  first | with_reducible apply does_framed | (with_reducible refine doesJudged_framed _ _ ?_ rfl) | skip
  all_goals (try (intro L base d hL hd ; have m0 : Part.clock ∈ L := hL _ (.head _) ; have m1 : Part.time ∈ L := hL _ (.tail _ (.head _)) ; have m2 : Part.counters ∈ L := hL _ (.tail _ (.tail _ (.head _)))))
  all_goals (try beta_reduce)
  repeat' first
      | with_reducible assumption | with_reducible exact Framed.sub rfl hL
      | with_reducible apply arriveTrain_framed | split | dsimp only [id]
      | (fail_if_no_progress ((with_reducible apply Framed.upd) ; exact .inr m0 ; (iterate 7 exact .inl rfl) ; (focus (apply Or.inr ; (repeat' (apply And.intro)) ; exact .inr m0 ; exact .inr m1)) ; (iterate 10 exact .inl rfl) ; (focus (apply Or.inr ; (repeat' (apply And.intro)) ; (apply Or.inl ; simp only [HealthS.rest]) ; exact .inr m2)) ; (iterate 2 exact .inl rfl)))

theorem execTevtOutPulseEnd_framed (s : State) : DoesFramed [.clock, .time, .counters] s (execTevtOutPulseEnd s) := by
  unfold execTevtOutPulseEnd
  first | with_reducible apply does_framed | (with_reducible refine doesJudged_framed _ _ ?_ rfl) | skip
  all_goals (try (intro L base d hL hd ; have m0 : Part.clock ∈ L := hL _ (.head _) ; have m1 : Part.time ∈ L := hL _ (.tail _ (.head _)) ; have m2 : Part.counters ∈ L := hL _ (.tail _ (.tail _ (.head _)))))
  all_goals (try beta_reduce)
  repeat' first
      | with_reducible assumption | with_reducible exact Framed.sub rfl hL | with_reducible apply arrive_framed
      | split | dsimp only [id]
      | (fail_if_no_progress ((with_reducible apply Framed.upd) ; exact .inr m0 ; (iterate 7 exact .inl rfl) ; (focus (apply Or.inr ; (repeat' (apply And.intro)) ; exact .inr m0 ; exact .inr m1)) ; (iterate 10 exact .inl rfl) ; (focus (apply Or.inr ; (repeat' (apply And.intro)) ; (apply Or.inl ; simp only [HealthS.rest]) ; exact .inr m2)) ; (iterate 2 exact .inl rfl)))

theorem captureEdge_framed (inp : CapInput) (rising : Bool) (d : Dev) (hL : ∀ p ∈
    ([.out, .regs, .time, .recd, .ints, .counters] : List Part), p ∈ L) (hd : Framed L base d) : Framed L base
    (captureEdge inp rising d) := by
  have m0 : Part.out ∈ L := hL _ (.head _)
  have m1 : Part.regs ∈ L := hL _ (.tail _ (.head _))
  have m2 : Part.time ∈ L := hL _ (.tail _ (.tail _ (.head _)))
  have m3 : Part.recd ∈ L := hL _ (.tail _ (.tail _ (.tail _ (.head _))))
  have m4 : Part.ints ∈ L := hL _ (.tail _ (.tail _ (.tail _ (.tail _ (.head _)))))
  have m5 : Part.counters ∈ L := hL _ (.tail _ (.tail _ (.tail _ (.tail _ (.tail _ (.head _))))))
  unfold captureEdge
  repeat' first
      | with_reducible assumption | with_reducible exact Framed.sub rfl hL
      | with_reducible apply noteOverflow_framed | with_reducible apply bump_framed
      | with_reducible apply ite_framed | split | dsimp only [id]
      | (fail_if_no_progress ((with_reducible apply Framed.upd) ; (iterate 2 exact .inl rfl) ; exact .inr m0 ; (focus (apply Or.inr ; (repeat' (apply And.intro)) ; exact .inr m1 ; exact .inl rfl ; exact .inl rfl ; exact .inl rfl ; exact .inl rfl ; exact .inl rfl)) ; (iterate 4 exact .inl rfl) ; (focus (apply Or.inr ; (repeat' (apply And.intro)) ; exact .inl rfl ; exact .inr m2)) ; (iterate 5 exact .inl rfl) ; exact .inr m3 ; (iterate 2 exact .inl rfl) ; (focus (apply Or.inr ; (repeat' (apply And.intro)) ; (apply Or.inl ; simp only [HostS.registers]) ; exact .inr m4 ; exact .inl rfl)) ; exact .inl rfl ; (focus (apply Or.inr ; (repeat' (apply And.intro)) ; (apply Or.inl ; simp only [HealthS.rest]) ; exact .inr m5)) ; (iterate 2 exact .inl rfl)))

theorem execCaptureEdge_framed (inp : CapInput) (rising : Bool) (s : State)
    : DoesFramed [.fresh, .out, .regs, .time, .recd, .ints, .health, .counters] s
    (execCaptureEdge inp rising s) := by
  unfold execCaptureEdge
  first | with_reducible apply does_framed | (with_reducible refine doesJudged_framed _ _ ?_ rfl) | skip
  all_goals (try (intro L base d hL hd ; have m0 : Part.fresh ∈ L := hL _ (.head _) ; have m1 : Part.out ∈ L := hL _ (.tail _ (.head _)) ; have m2 : Part.regs ∈ L := hL _ (.tail _ (.tail _ (.head _))) ; have m3 : Part.time ∈ L := hL _ (.tail _ (.tail _ (.tail _ (.head _)))) ; have m4 : Part.recd ∈ L := hL _ (.tail _ (.tail _ (.tail _ (.tail _ (.head _))))) ; have m5 : Part.ints ∈ L := hL _ (.tail _ (.tail _ (.tail _ (.tail _ (.tail _ (.head _)))))) ; have m6 : Part.health ∈ L := hL _ (.tail _ (.tail _ (.tail _ (.tail _ (.tail _ (.tail _ (.head _))))))) ; have m7 : Part.counters ∈ L := hL _ (.tail _ (.tail _ (.tail _ (.tail _ (.tail _ (.tail _ (.tail _ (.head _))))))))))
  all_goals (try beta_reduce)
  repeat' first
      | with_reducible assumption | with_reducible exact Framed.sub rfl hL | with_reducible intro _
      | with_reducible apply captureEdge_framed | with_reducible apply servoRate_framed
      | with_reducible apply onlyIf_framed | with_reducible apply snapshot_framed
      | with_reducible apply countEv_framed | with_reducible apply ite_framed | split | dsimp only [id]
      | (fail_if_no_progress ((with_reducible apply Framed.upd) ; exact .inl rfl ; exact .inr m0 ; exact .inr m1 ; (focus (apply Or.inr ; (repeat' (apply And.intro)) ; exact .inr m2 ; exact .inl rfl ; exact .inl rfl ; exact .inl rfl ; exact .inl rfl ; exact .inl rfl)) ; (iterate 4 exact .inl rfl) ; (focus (apply Or.inr ; (repeat' (apply And.intro)) ; exact .inl rfl ; exact .inr m3)) ; (iterate 5 exact .inl rfl) ; exact .inr m4 ; (iterate 2 exact .inl rfl) ; (focus (apply Or.inr ; (repeat' (apply And.intro)) ; (apply Or.inl ; simp only [HostS.registers]) ; exact .inr m5 ; exact .inl rfl)) ; exact .inl rfl ; (focus (apply Or.inr ; (repeat' (apply And.intro)) ; exact .inr m6 ; exact .inr m7)) ; (iterate 2 exact .inl rfl)))

theorem execPpsInLoss_framed (s : State) : DoesFramed [.clock, .out, .regs, .time, .recd, .ints, .counters] s
    (execPpsInLoss s) := by
  unfold execPpsInLoss
  first | with_reducible apply does_framed | (with_reducible refine doesJudged_framed _ _ ?_ rfl) | skip
  all_goals (try (intro L base d hL hd ; have m0 : Part.clock ∈ L := hL _ (.head _) ; have m1 : Part.out ∈ L := hL _ (.tail _ (.head _)) ; have m2 : Part.regs ∈ L := hL _ (.tail _ (.tail _ (.head _))) ; have m3 : Part.time ∈ L := hL _ (.tail _ (.tail _ (.tail _ (.head _)))) ; have m4 : Part.recd ∈ L := hL _ (.tail _ (.tail _ (.tail _ (.tail _ (.head _))))) ; have m5 : Part.ints ∈ L := hL _ (.tail _ (.tail _ (.tail _ (.tail _ (.tail _ (.head _)))))) ; have m6 : Part.counters ∈ L := hL _ (.tail _ (.tail _ (.tail _ (.tail _ (.tail _ (.tail _ (.head _)))))))))
  all_goals (try beta_reduce)
  repeat' first
      | with_reducible assumption | with_reducible exact Framed.sub rfl hL | with_reducible apply raise_framed
      | with_reducible apply arrive_framed | with_reducible apply ite_framed | split | dsimp only [id]
      | (fail_if_no_progress ((with_reducible apply Framed.upd) ; exact .inr m0 ; exact .inl rfl ; exact .inr m1 ; (focus (apply Or.inr ; (repeat' (apply And.intro)) ; exact .inr m2 ; exact .inl rfl ; exact .inl rfl ; exact .inl rfl ; exact .inl rfl ; exact .inl rfl)) ; (iterate 4 exact .inl rfl) ; (focus (apply Or.inr ; (repeat' (apply And.intro)) ; exact .inr m0 ; exact .inr m3)) ; (iterate 5 exact .inl rfl) ; exact .inr m4 ; (iterate 2 exact .inl rfl) ; (focus (apply Or.inr ; (repeat' (apply And.intro)) ; (apply Or.inl ; simp only [HostS.registers]) ; exact .inr m5 ; exact .inl rfl)) ; exact .inl rfl ; (focus (apply Or.inr ; (repeat' (apply And.intro)) ; (apply Or.inl ; simp only [HealthS.rest]) ; exact .inr m6)) ; (iterate 2 exact .inl rfl)))

theorem execPpsInHoldoverLimit_framed (s : State) : DoesFramed [.clock, .time, .counters] s
    (execPpsInHoldoverLimit s) := by
  unfold execPpsInHoldoverLimit
  first | with_reducible apply does_framed | (with_reducible refine doesJudged_framed _ _ ?_ rfl) | skip
  all_goals (try (intro L base d hL hd ; have m0 : Part.clock ∈ L := hL _ (.head _) ; have m1 : Part.time ∈ L := hL _ (.tail _ (.head _)) ; have m2 : Part.counters ∈ L := hL _ (.tail _ (.tail _ (.head _)))))
  all_goals (try beta_reduce)
  repeat' first
      | with_reducible assumption | with_reducible exact Framed.sub rfl hL | with_reducible apply arrive_framed
      | split | dsimp only [id]
      | (fail_if_no_progress ((with_reducible apply Framed.upd) ; exact .inr m0 ; (iterate 7 exact .inl rfl) ; (focus (apply Or.inr ; (repeat' (apply And.intro)) ; exact .inr m0 ; exact .inr m1)) ; (iterate 10 exact .inl rfl) ; (focus (apply Or.inr ; (repeat' (apply And.intro)) ; (apply Or.inl ; simp only [HealthS.rest]) ; exact .inr m2)) ; (iterate 2 exact .inl rfl)))

end Sys2Proof.Machine
end

