-- ==== Sys2Proof/Laws/Framed/Images.lean ====
section
/-! SUPPORT. Which parts of the device each function of Machine/Images.lean can change. -/

-- one declaration after the other: the package is also compiled as one text, in limited memory
set_option Elab.async false

set_option linter.all false

namespace Sys2Proof.Machine

variable {L : List Part} {base : Dev}

theorem refuseSignature_framed (d : Dev) (hL : ∀ p ∈ ([.out, .regs, .recd, .ints, .counters] : List Part), p ∈ L)
    (hd : Framed L base d) : Framed L base (refuseSignature d) := by
  unfold refuseSignature
  repeat' first
      | with_reducible assumption | with_reducible exact Framed.sub rfl hL | with_reducible apply raise_framed
      | with_reducible apply bump_framed

theorem saveCopy_framed (d : Dev) (hL : ∀ p ∈ ([.stored] : List Part), p ∈ L) (hd : Framed L base d) : Framed L base
    (saveCopy d) := by
  have m0 : Part.stored ∈ L := hL _ (.head _)
  unfold saveCopy
  repeat' first
      | with_reducible assumption | with_reducible apply ite_framed
      | (fail_if_no_progress ((with_reducible apply Framed.upd) ; (iterate 3 exact .inl rfl) ; (focus (apply Or.inr ; (repeat' (apply And.intro)) ; exact .inl rfl ; exact .inl rfl ; exact .inl rfl ; exact .inl rfl ; exact .inl rfl ; exact .inr m0)) ; (iterate 18 exact .inl rfl)))

end Sys2Proof.Machine
end

