-- ==== Sys2Proof/Laws/Framed/Schedule.lean ====
section
/-! SUPPORT. Which parts of the device each function of Machine/Schedule.lean can change. -/

-- one declaration after the other: the package is also compiled as one text, in limited memory
set_option Elab.async false

set_option linter.all false

namespace Sys2Proof.Machine

variable {L : List Part} {base : Dev}

theorem onSched_framed (f : SchedS → SchedS) (d : Dev) (hL : ∀ p ∈ ([.sched] : List Part), p ∈ L) (hd
    : Framed L base d) : Framed L base (onSched f d) := by
  have m0 : Part.sched ∈ L := hL _ (.head _)
  unfold onSched
  repeat' first
      | with_reducible assumption
      | (fail_if_no_progress ((with_reducible apply Framed.upd) ; (iterate 9 exact .inl rfl) ; exact .inr m0 ; (iterate 12 exact .inl rfl)))

theorem reportDropped_framed (l : List Nat) (d : Dev) (hL : ∀ p ∈ ([.out, .regs, .recd, .ints, .counters]
    : List Part), p ∈ L) (hd : Framed L base d) : Framed L base (reportDropped l d) := by
  unfold reportDropped
  repeat' first
      | with_reducible assumption | with_reducible exact Framed.sub rfl hL | with_reducible intro _
      | with_reducible apply forEach_framed | with_reducible apply raiseP_framed | with_reducible apply bump_framed

theorem builtGates_framed (n : Numbering) (d : Dev) (hL : ∀ p ∈ ([.out, .regs, .recd, .ints, .counters]
    : List Part), p ∈ L) (hd : Framed L base d) : Framed L base (builtGates n d).2 := by
  unfold builtGates
  repeat' first | with_reducible assumption | with_reducible apply reportDropped_framed | split

theorem builtGates_pair (n : Numbering) (d : Dev) {r0 : _} {d' : Dev} (e : builtGates n d = (r0, d')) (hL : ∀ p ∈
    ([.out, .regs, .recd, .ints, .counters] : List Part), p ∈ L) (hd : Framed L base d) : Framed L base d' := by
  have := builtGates_framed n d hL hd
  rw [e] at this
  exact this

theorem switchGates_framed (gates : List GateEntry) (d : Dev) (hL : ∀ p ∈
    ([.out, .regs, .queues, .sched, .recd, .host, .ints, .counters] : List Part), p ∈ L) (hd : Framed L base d)
    : Framed L base (switchGates gates d) := by
  unfold switchGates
  repeat' first
      | with_reducible assumption | with_reducible exact Framed.sub rfl hL | with_reducible intro _
      | with_reducible apply onSched_framed | with_reducible apply discardAll_framed
      | with_reducible apply raise_framed | with_reducible apply bump_framed

theorem closeWindows_framed (d : Dev) (hL : ∀ p ∈ ([.sched] : List Part), p ∈ L) (hd : Framed L base d)
    : Framed L base (closeWindows d) := by
  unfold closeWindows
  repeat' first | with_reducible assumption | with_reducible apply onSched_framed

theorem dropQ6_framed (d : Dev) (hL : ∀ p ∈ ([.out, .queues, .host, .ints] : List Part), p ∈ L) (hd
    : Framed L base d) : Framed L base (dropQ6 d) := by
  unfold dropQ6
  repeat' first
      | with_reducible assumption | with_reducible intro _ | with_reducible apply discardAll_framed
      | dsimp only [id]

theorem startGateBuild_framed (d : Dev) (hL : ∀ p ∈ ([.sched] : List Part), p ∈ L) (hd : Framed L base d)
    : Framed L base (startGateBuild d) := by
  unfold startGateBuild
  repeat' first | with_reducible assumption | with_reducible apply onSched_framed | with_reducible apply ite_framed

theorem schedEpochSwitch_framed (d : Dev) (hL : ∀ p ∈ ([.sched] : List Part), p ∈ L) (hd : Framed L base d)
    : Framed L base (schedEpochSwitch d) := by
  unfold schedEpochSwitch
  repeat' first | with_reducible assumption | with_reducible apply onSched_framed

theorem execGateBankBuilt_framed (s : State) : DoesFramed [.out, .regs, .sched, .recd, .ints, .counters] s
    (execGateBankBuilt s) := by
  unfold execGateBankBuilt
  first | with_reducible apply does_framed | (with_reducible refine doesJudged_framed _ _ ?_ rfl) | skip
  all_goals (try (intro L base d hL hd ; beta_reduce))
  repeat' first
      | with_reducible assumption | with_reducible exact Framed.sub rfl hL | with_reducible apply builtGates_framed
      | with_reducible apply onSched_framed | with_reducible apply ite_framed

theorem sendDist_framed (p : Port) (kind identity generation activation number crc : Nat) (data : List Byte) (d
    : Dev) (hL : ∀ p ∈ ([.out, .regs, .queues, .counters] : List Part), p ∈ L) (hd : Framed L base d)
    : Framed L base (sendDist p kind identity generation activation number crc data d) := by
  unfold sendDist
  repeat' first
      | with_reducible assumption | with_reducible exact Framed.sub rfl hL | with_reducible apply sendOwn_framed
      | with_reducible apply emit_framed

theorem sendOffers_framed (p : Port) (d : Dev) (hL : ∀ p ∈ ([.out, .regs, .queues, .counters] : List Part), p ∈ L)
    (hd : Framed L base d) : Framed L base (sendOffers p d) := by
  unfold sendOffers
  repeat' first
      | with_reducible assumption | with_reducible intro _ | with_reducible apply sendDist_framed
      | with_reducible apply forEach_framed | with_reducible apply ite_framed

theorem offerAll_framed (d : Dev) (hL : ∀ p ∈ ([.out, .regs, .queues, .counters] : List Part), p ∈ L) (hd
    : Framed L base d) : Framed L base (offerAll d) := by
  unfold offerAll
  repeat' first
      | with_reducible assumption | with_reducible intro _ | with_reducible apply sendOffers_framed
      | with_reducible apply forEach_framed

theorem adoptImage_framed (img : SchedImage) (d : Dev) (hL : ∀ p ∈
    ([.out, .regs, .queues, .sched, .recd, .ints, .counters] : List Part), p ∈ L) (hd : Framed L base d)
    : Framed L base (adoptImage img d) := by
  unfold adoptImage
  repeat' first
      | with_reducible assumption | with_reducible exact Framed.sub rfl hL | with_reducible apply offerAll_framed
      | with_reducible apply onSched_framed | with_reducible apply raise_framed | with_reducible apply bump_framed

theorem forceImage_framed (i : SchedImage) (d : Dev) (hL : ∀ p ∈
    ([.out, .regs, .queues, .sched, .recd, .ints, .counters] : List Part), p ∈ L) (hd : Framed L base d)
    : Framed L base (forceImage i d) := by
  unfold forceImage
  repeat' first
      | with_reducible assumption | with_reducible exact Framed.sub rfl hL | with_reducible apply offerAll_framed
      | with_reducible apply onSched_framed | with_reducible apply raise_framed

theorem switchToBuilt_framed (d : Dev) (hL : ∀ p ∈ ([.out, .regs, .queues, .sched, .recd, .host, .ints, .counters]
    : List Part), p ∈ L) (hd : Framed L base d) : Framed L base (switchToBuilt d) := by
  unfold switchToBuilt
  repeat' first
      | with_reducible assumption | with_reducible exact Framed.sub rfl hL
      | with_reducible apply switchGates_framed | with_reducible apply builtGates_framed
      | with_reducible apply onSched_framed

theorem execGateSwitchBoundary_framed (s : State)
    : DoesFramed [.clock, .out, .regs, .queues, .sched, .recd, .host, .ints, .counters] s
    (execGateSwitchBoundary s) := by
  unfold execGateSwitchBoundary
  first | with_reducible apply does_framed | (with_reducible refine doesJudged_framed _ _ ?_ rfl) | skip
  all_goals (try (intro L base d hL hd ; beta_reduce))
  repeat' first
      | with_reducible assumption | with_reducible exact Framed.sub rfl hL
      | with_reducible apply switchToBuilt_framed | with_reducible apply forceImage_framed
      | with_reducible apply switchGates_framed | with_reducible apply arriveTrain_framed
      | with_reducible apply ite_framed | split | dsimp only [id]

theorem atCycleBoundary_framed (d : Dev) (hL : ∀ p ∈ ([.out, .regs, .queues, .sched, .recd, .host, .ints, .counters]
    : List Part), p ∈ L) (hd : Framed L base d) : Framed L base (atCycleBoundary d) := by
  unfold atCycleBoundary
  repeat' first
      | with_reducible assumption | with_reducible exact Framed.sub rfl hL
      | with_reducible apply switchToBuilt_framed | with_reducible apply dropQ6_framed
      | with_reducible apply closeWindows_framed | with_reducible apply switchGates_framed
      | with_reducible apply onSched_framed | with_reducible apply enterFence_framed
      | with_reducible apply raise_framed | with_reducible apply ite_framed | split

theorem execCycleBoundary_framed (s : State)
    : DoesFramed [.clock, .out, .regs, .queues, .sched, .recd, .host, .ints, .counters] s
    (execCycleBoundary s) := by
  unfold execCycleBoundary
  first | with_reducible apply does_framed | (with_reducible refine doesJudged_framed _ _ ?_ rfl) | skip
  all_goals (try (intro L base d hL hd ; beta_reduce))
  repeat' first
      | with_reducible assumption | with_reducible exact Framed.sub rfl hL
      | with_reducible apply atCycleBoundary_framed | with_reducible apply arriveTrain_framed
      | with_reducible apply ite_framed

theorem execActivationBoundary_framed (s : State)
    : DoesFramed [.clock, .out, .regs, .queues, .sched, .recd, .host, .ints, .counters] s
    (execActivationBoundary s) := by
  unfold execActivationBoundary
  first | with_reducible apply does_framed | (with_reducible refine doesJudged_framed _ _ ?_ rfl) | skip
  all_goals (try (intro L base d hL hd ; beta_reduce))
  repeat' first
      | with_reducible assumption | with_reducible exact Framed.sub rfl hL
      | with_reducible apply switchToBuilt_framed | with_reducible apply forceImage_framed
      | with_reducible apply closeWindows_framed | with_reducible apply onSched_framed
      | with_reducible apply raise_framed | with_reducible apply arriveTrain_framed | split | dsimp only [id]

theorem dropStale_framed (p : Port) (n cycle : Nat) (d : Dev) (hL : ∀ p ∈
    ([.out, .regs, .queues, .sched, .host, .ints] : List Part), p ∈ L)
    (hd : Framed L base d) : Framed L base (dropStale p n cycle d) := by
  induction n generalizing d with
  | zero => exact hd
  | succ n ih =>
    unfold dropStale
    repeat' first
        | with_reducible assumption | with_reducible exact Framed.sub rfl hL | with_reducible apply ih
        | with_reducible apply bumpWin_framed | with_reducible apply bump_framed
        | with_reducible apply settle_framed | with_reducible apply setQueue_framed
        | with_reducible apply ite_framed | split

theorem execWindowOpen_framed (p : Port) (window : BitVec 16) (s : State)
    : DoesFramed [.clock, .out, .regs, .queues, .sched, .strm, .host, .ints, .counters] s
    (execWindowOpen p window s) := by
  unfold execWindowOpen
  first | with_reducible apply does_framed | (with_reducible refine doesJudged_framed _ _ ?_ rfl) | skip
  all_goals (try (intro L base d hL hd ; beta_reduce))
  repeat' first
      | with_reducible assumption | with_reducible exact Framed.sub rfl hL | with_reducible apply dropStale_framed
      | with_reducible apply onSched_framed | with_reducible apply holdCredit_framed
      | with_reducible apply arriveTrain_framed | with_reducible apply ite_framed | split

theorem execWindowHardClose_framed (p : Port) (s : State) : DoesFramed [.clock, .regs, .sched, .strm, .counters] s
    (execWindowHardClose p s) := by
  unfold execWindowHardClose
  first | with_reducible apply does_framed | (with_reducible refine doesJudged_framed _ _ ?_ rfl) | skip
  all_goals (try (intro L base d hL hd ; beta_reduce))
  repeat' first
      | with_reducible assumption | with_reducible exact Framed.sub rfl hL | with_reducible apply onSched_framed
      | with_reducible apply resumeCredit_framed | with_reducible apply bumpWin_framed
      | with_reducible apply arriveTrain_framed | with_reducible apply bump_framed | split

theorem execReceiveEntryClose_framed (p : Port) (window : BitVec 16) (s : State)
    : DoesFramed [.clock, .regs, .sched, .counters] s (execReceiveEntryClose p window s) := by
  unfold execReceiveEntryClose
  first | with_reducible apply does_framed | (with_reducible refine doesJudged_framed _ _ ?_ rfl) | skip
  all_goals (try (intro L base d hL hd ; beta_reduce))
  repeat' first
      | with_reducible assumption | with_reducible exact Framed.sub rfl hL | with_reducible apply onSched_framed
      | with_reducible apply bumpWin_framed | with_reducible apply arriveTrain_framed
      | with_reducible apply countEv_framed | with_reducible apply bump_framed | with_reducible apply ite_framed
      | split

theorem execSequenceHistoryReset_framed (window : BitVec 16) (s : State) : DoesFramed [.clock, .sched, .counters] s
    (execSequenceHistoryReset window s) := by
  unfold execSequenceHistoryReset
  first | with_reducible apply does_framed | (with_reducible refine doesJudged_framed _ _ ?_ rfl) | skip
  all_goals (try (intro L base d hL hd ; beta_reduce))
  repeat' first
      | with_reducible assumption | with_reducible exact Framed.sub rfl hL | with_reducible apply setSeq_framed
      | with_reducible apply arrive_framed | split | dsimp only [id]

theorem execHoldoverFenceTime_framed (s : State)
    : DoesFramed [.clock, .out, .regs, .queues, .sched, .recd, .ints, .counters] s (execHoldoverFenceTime s) := by
  unfold execHoldoverFenceTime
  first | with_reducible apply does_framed | (with_reducible refine doesJudged_framed _ _ ?_ rfl) | skip
  all_goals (try (intro L base d hL hd ; beta_reduce))
  repeat' first
      | with_reducible assumption | with_reducible exact Framed.sub rfl hL | with_reducible apply enterFence_framed
      | with_reducible apply arrive_framed | split

theorem distDrop_framed (d : Dev) (hL : ∀ p ∈ ([.regs] : List Part), p ∈ L) (hd : Framed L base d) : Framed L base
    (distDrop d) := by
  unfold distDrop
  repeat' first | with_reducible assumption | with_reducible apply bump_framed

theorem takeDist_framed (p : Port) (kind : Nat) (h : DistHeader) (data : List Byte) (f : Dev → Dev) (d : Dev) (hL
    : ∀ p ∈ ([.regs, .counters] : List Part), p ∈ L) (hf : ∀  (d : Dev), Framed L base d → Framed L base (f  d)) (hd
    : Framed L base d) : Framed L base (takeDist p kind h data f d) := by
  unfold takeDist
  repeat' first
      | with_reducible assumption | with_reducible exact Framed.sub rfl hL | with_reducible apply distDrop_framed
      | with_reducible apply countGood_framed | with_reducible apply hf | with_reducible apply ite_framed

theorem requestChunk_framed (d : Dev) (hL : ∀ p ∈ ([.out, .regs, .queues, .sched, .counters] : List Part), p ∈ L)
    (hd : Framed L base d) : Framed L base (requestChunk d) := by
  unfold requestChunk
  repeat' first
      | with_reducible assumption | with_reducible exact Framed.sub rfl hL | with_reducible apply sendDist_framed
      | with_reducible apply onSched_framed | split

theorem execOffer_framed (p : Port) (h : DistHead) (size crc : BitVec 32) (activation : BitVec 64) (s : State)
    : DoesFramed [.out, .regs, .queues, .sched, .counters] s (execOffer p h size crc activation s) := by
  unfold execOffer
  first | with_reducible apply does_framed | (with_reducible refine doesJudged_framed _ _ ?_ rfl) | skip
  all_goals (try (intro L base d hL hd ; beta_reduce))
  repeat' first
      | with_reducible assumption | with_reducible exact Framed.sub rfl hL | with_reducible intro _
      | with_reducible apply requestChunk_framed | with_reducible apply takeDist_framed
      | with_reducible apply onSched_framed | with_reducible apply ite_framed

theorem execRequest_framed (p : Port) (h : DistHead) (chunk : DistTail) (s : State)
    : DoesFramed [.out, .regs, .queues, .counters] s (execRequest p h chunk s) := by
  unfold execRequest
  first | with_reducible apply does_framed | (with_reducible refine doesJudged_framed _ _ ?_ rfl) | skip
  all_goals (try (intro L base d hL hd ; beta_reduce))
  repeat' first
      | with_reducible assumption | with_reducible exact Framed.sub rfl hL | with_reducible intro _
      | with_reducible apply takeDist_framed | with_reducible apply sendDist_framed
      | with_reducible apply ite_framed | split

theorem execChunk_framed (p : Port) (h : DistHead) (number : DistTail) (data : List Byte) (s : State)
    : DoesFramed [.out, .regs, .queues, .sched, .counters] s (execChunk p h number data s) := by
  unfold execChunk
  first | with_reducible apply does_framed | (with_reducible refine doesJudged_framed _ _ ?_ rfl) | skip
  all_goals (try (intro L base d hL hd ; beta_reduce))
  repeat' first
      | with_reducible assumption | with_reducible exact Framed.sub rfl hL | with_reducible intro _
      | with_reducible apply requestChunk_framed | with_reducible apply takeDist_framed
      | with_reducible apply distDrop_framed | with_reducible apply onSched_framed
      | with_reducible apply ite_framed | split

theorem offerPeriodically_framed (t : Nat) (d : Dev) (hL : ∀ p ∈ ([.clock, .out, .regs, .queues, .sched, .counters]
    : List Part), p ∈ L) (hd : Framed L base d) : Framed L base (offerPeriodically t d) := by
  unfold offerPeriodically
  repeat' first
      | with_reducible assumption | with_reducible exact Framed.sub rfl hL | with_reducible apply offerAll_framed
      | with_reducible apply onSched_framed | with_reducible apply arrive_framed

theorem execOfferPeriod_framed (s : State) : DoesFramed [.clock, .out, .regs, .queues, .sched, .counters] s
    (execOfferPeriod s) := by
  unfold execOfferPeriod
  first | with_reducible apply does_framed | (with_reducible refine doesJudged_framed _ _ ?_ rfl) | skip
  all_goals (try (intro L base d hL hd ; beta_reduce))
  repeat' first
      | with_reducible assumption | with_reducible exact Framed.sub rfl hL
      | with_reducible apply offerPeriodically_framed | with_reducible apply offerAll_framed
      | with_reducible apply onSched_framed | with_reducible apply arrive_framed | with_reducible apply ite_framed
      | split

theorem execChunkTimeout_framed (s : State) : DoesFramed [.clock, .out, .regs, .queues, .sched, .counters] s
    (execChunkTimeout s) := by
  unfold execChunkTimeout
  first | with_reducible apply does_framed | (with_reducible refine doesJudged_framed _ _ ?_ rfl) | skip
  all_goals (try (intro L base d hL hd ; beta_reduce))
  repeat' first
      | with_reducible assumption | with_reducible exact Framed.sub rfl hL
      | with_reducible apply requestChunk_framed | with_reducible apply onSched_framed
      | with_reducible apply arrive_framed | with_reducible apply ite_framed | split | dsimp only [id]

theorem scheduleRefused_framed (d : Dev) (hL : ∀ p ∈ ([.out, .regs, .sched, .recd, .ints, .counters]
    : List Part), p ∈ L)
    (hd : Framed L base d) : Framed L base (execScheduleImageVerified.refuse d) := by
  unfold execScheduleImageVerified.refuse
  repeat' first
    | with_reducible assumption | (with_reducible exact Framed.sub rfl hL) | with_reducible apply raise_framed
    | with_reducible apply bump_framed | with_reducible apply onSched_framed

theorem execScheduleImageVerified_framed (s : State)
    : DoesFramed [.out, .regs, .stored, .queues, .sched, .recd, .ints, .counters] s
    (execScheduleImageVerified s) := by
  unfold execScheduleImageVerified
  apply does_framed
  intro L base d hL hd
  beta_reduce
  repeat' first
      | with_reducible assumption | with_reducible exact Framed.sub rfl hL | with_reducible intro _
      | with_reducible apply scheduleRefused_framed | with_reducible apply adoptImage_framed
      | with_reducible apply onSched_framed | with_reducible apply saveCopy_framed
      | with_reducible apply refuseSignature_framed | with_reducible apply setBytes_framed
      | with_reducible apply onlyIf_framed | with_reducible apply ite_framed | split

theorem applySchedSource_framed (source : Nat) (d : Dev) (hL : ∀ p ∈ ([.out, .queues, .sched, .host, .ints]
    : List Part), p ∈ L) (hd : Framed L base d) : Framed L base (applySchedSource source d) := by
  unfold applySchedSource
  repeat' first
      | with_reducible assumption | with_reducible exact Framed.sub rfl hL | with_reducible apply dropQ6_framed
      | with_reducible apply closeWindows_framed | with_reducible apply onSched_framed
      | with_reducible apply ite_framed | split

theorem applySchedImage_framed (d : Dev) (hL : ∀ p ∈ ([.out, .regs, .queues, .sched, .recd, .ints, .counters]
    : List Part), p ∈ L) (hd : Framed L base d) : Framed L base (applySchedImage d) := by
  unfold applySchedImage
  repeat' first | with_reducible assumption | with_reducible apply adoptImage_framed | split

theorem bootSched_framed (d : Dev) (hL : ∀ p ∈ ([.out, .queues, .sched, .host, .ints] : List Part), p ∈ L) (hd
    : Framed L base d) : Framed L base (bootSched d) := by
  unfold bootSched
  repeat' first
      | with_reducible assumption | with_reducible exact Framed.sub rfl hL
      | with_reducible apply applySchedSource_framed | with_reducible apply onSched_framed
      | with_reducible apply ite_framed

theorem laneRebuild_framed (oldLane : Port) (p : Port) (d : Dev) (hL : ∀ p ∈ ([.sched] : List Part), p ∈ L) (hd
    : Framed L base d) : Framed L base (laneRebuild oldLane p d) := by
  unfold laneRebuild
  repeat' first
      | with_reducible assumption | with_reducible apply startGateBuild_framed | with_reducible apply ite_framed

end Sys2Proof.Machine
end

