-- ==== Sys2Proof/Laws/Framed/Streams.lean ====
section
/-! SUPPORT. Which parts of the device each function of Machine/Streams.lean can change. -/

-- one declaration after the other: the package is also compiled as one text, in limited memory
set_option Elab.async false

set_option linter.all false

namespace Sys2Proof.Machine

variable {L : List Part} {base : Dev}

theorem onStrm_framed (f : StreamsS → StreamsS) (d : Dev) (hL : ∀ p ∈ ([.strm] : List Part), p ∈ L) (hd
    : Framed L base d) : Framed L base (onStrm f d) := by
  have m0 : Part.strm ∈ L := hL _ (.head _)
  unfold onStrm
  repeat' first
      | with_reducible assumption
      | (fail_if_no_progress ((with_reducible apply Framed.upd) ; (iterate 10 exact .inl rfl) ; exact .inr m0 ; (iterate 11 exact .inl rfl)))

theorem onStream_framed (s : Fin 64) (f : StreamS → StreamS) (d : Dev) (hL : ∀ p ∈ ([.strm] : List Part), p ∈ L) (hd
    : Framed L base d) : Framed L base (onStream s f d) := by
  unfold onStream
  repeat' first | with_reducible assumption | with_reducible apply onStrm_framed

theorem builtReservations_framed (n : Numbering) (d : Dev) (hL : ∀ p ∈ ([.out, .regs, .recd, .ints, .counters]
    : List Part), p ∈ L) (hd : Framed L base d) : Framed L base (builtReservations n d).2 := by
  unfold builtReservations
  repeat' first
      | with_reducible assumption | with_reducible exact Framed.sub rfl hL | with_reducible intro _
      | with_reducible apply forEach_framed | with_reducible apply raiseP_framed | with_reducible apply bump_framed

theorem builtReservations_pair (n : Numbering) (d : Dev) {r0 : _} {d' : Dev} (e : builtReservations n d = (r0, d'))
    (hL : ∀ p ∈ ([.out, .regs, .recd, .ints, .counters] : List Part), p ∈ L) (hd : Framed L base d)
    : Framed L base d' := by
  have := builtReservations_framed n d hL hd
  rw [e] at this
  exact this

theorem startResBuild_framed (d : Dev) (hL : ∀ p ∈ ([.strm] : List Part), p ∈ L) (hd : Framed L base d)
    : Framed L base (startResBuild d) := by
  unfold startResBuild
  repeat' first | with_reducible assumption | with_reducible apply onStrm_framed | with_reducible apply ite_framed

theorem execReservationBankBuilt_framed (s : State) : DoesFramed [.out, .regs, .strm, .recd, .ints, .counters] s
    (execReservationBankBuilt s) := by
  unfold execReservationBankBuilt
  first | with_reducible apply does_framed | (with_reducible refine doesJudged_framed _ _ ?_ rfl) | skip
  all_goals (try (intro L base d hL hd ; beta_reduce))
  repeat' first
      | with_reducible assumption | with_reducible exact Framed.sub rfl hL
      | with_reducible apply builtReservations_framed | with_reducible apply onStrm_framed
      | with_reducible apply ite_framed

theorem strmEpochSwitch_framed (d : Dev) (hL : ∀ p ∈ ([.strm] : List Part), p ∈ L) (hd : Framed L base d)
    : Framed L base (strmEpochSwitch d) := by
  unfold strmEpochSwitch
  repeat' first | with_reducible assumption | with_reducible apply onStrm_framed

theorem execRephaseEnd_framed (s : State) : DoesFramed [.clock, .out, .regs, .strm, .recd, .ints, .counters] s
    (execRephaseEnd s) := by
  unfold execRephaseEnd
  first | with_reducible apply does_framed | (with_reducible refine doesJudged_framed _ _ ?_ rfl) | skip
  all_goals (try (intro L base d hL hd ; beta_reduce))
  repeat' first
      | with_reducible assumption | with_reducible exact Framed.sub rfl hL | with_reducible apply onStrm_framed
      | with_reducible apply raise_framed | with_reducible apply arrive_framed | split

theorem blockToHost_framed (s : Fin 64) (k : Nat) (a : AvtpPacket) (d : Dev) (hL : ∀ p ∈ ([.out, .host, .ints]
    : List Part), p ∈ L) (hd : Framed L base d) : Framed L base (blockToHost s k a d) := by
  unfold blockToHost
  repeat' first
      | with_reducible assumption | with_reducible exact Framed.sub rfl hL | with_reducible intro _
      | with_reducible apply ringDrop_framed | with_reducible apply writeBackOne_framed
      | with_reducible apply onRing_framed | with_reducible apply onlyIf_framed | with_reducible apply emit_framed
      | with_reducible apply ite_framed | split

theorem playAt_framed (s : Fin 64) (k : Nat) (a : AvtpPacket) (d : Dev) (hL : ∀ p ∈ ([.out, .strm, .host, .ints]
    : List Part), p ∈ L) (hd : Framed L base d) : Framed L base (playAt s k a d) := by
  unfold playAt
  repeat' first
      | with_reducible assumption | with_reducible exact Framed.sub rfl hL
      | with_reducible apply blockToHost_framed | with_reducible apply onStream_framed
      | with_reducible apply emit_framed | with_reducible apply ite_framed

theorem muteFrames_framed (s : Fin 64) (n : Nat) (d : Dev) (hL : ∀ p ∈ ([.out, .regs] : List Part), p ∈ L) (hd
    : Framed L base d) : Framed L base (muteFrames s n d) := by
  unfold muteFrames
  repeat' first
      | with_reducible assumption | with_reducible exact Framed.sub rfl hL | with_reducible apply emit_framed
      | with_reducible apply bumpBy_framed | with_reducible apply ite_framed

theorem fillGap_framed (s : Fin 64) (a : AvtpPacket) (d : Dev) (hL : ∀ p ∈ ([.out, .regs, .strm]
    : List Part), p ∈ L) (hd : Framed L base d) : Framed L base (fillGap s a d) := by
  unfold fillGap
  repeat' first
      | with_reducible assumption | with_reducible exact Framed.sub rfl hL | with_reducible apply muteFrames_framed
      | with_reducible apply onStream_framed | with_reducible apply bump_framed | with_reducible apply ite_framed

theorem noteAccepted_framed (s : Fin 64) (a : AvtpPacket) (d : Dev) (hL : ∀ p ∈ ([.regs, .strm, .counters]
    : List Part), p ∈ L) (hd : Framed L base d) : Framed L base (noteAccepted s a d) := by
  unfold noteAccepted
  repeat' first
      | with_reducible assumption | with_reducible exact Framed.sub rfl hL | with_reducible apply onStream_framed
      | with_reducible apply countEv_framed | with_reducible apply bump_framed

theorem realign_framed (s : Fin 64) (k : Nat) (a : AvtpPacket) (d : Dev) (hL : ∀ p ∈
    ([.out, .regs, .strm, .recd, .host, .ints, .counters] : List Part), p ∈ L) (hd : Framed L base d)
    : Framed L base (realign s k a d) := by
  unfold realign
  repeat' first
      | with_reducible assumption | with_reducible exact Framed.sub rfl hL | with_reducible apply muteFrames_framed
      | with_reducible apply playAt_framed | with_reducible apply raise_framed | with_reducible apply bump_framed

theorem listenerTakes_framed (a : AvtpPacket) (s : Fin 64) (d : Dev) (hL : ∀ p ∈
    ([.out, .regs, .strm, .recd, .host, .ints, .counters] : List Part), p ∈ L) (hd : Framed L base d)
    : Framed L base (listenerTakes a s d) := by
  unfold listenerTakes
  repeat' first
      | with_reducible assumption | with_reducible exact Framed.sub rfl hL | with_reducible apply realign_framed
      | with_reducible apply noteAccepted_framed | with_reducible apply fillGap_framed
      | with_reducible apply playAt_framed | with_reducible apply onStream_framed
      | with_reducible apply bump_framed | with_reducible apply ite_framed | split

theorem takePacket_framed (a : AvtpPacket) (d : Dev) (hL : ∀ p ∈
    ([.out, .regs, .strm, .recd, .host, .ints, .counters] : List Part), p ∈ L) (hd : Framed L base d)
    : Framed L base (takePacket a d) := by
  unfold takePacket
  repeat' first
      | with_reducible assumption | with_reducible exact Framed.sub rfl hL | with_reducible intro _
      | with_reducible apply listenerTakes_framed | with_reducible apply forEach_framed
      | with_reducible apply bump_framed | with_reducible apply ite_framed

theorem execAvtpPacket_framed (a : AvtpPacket) (s : State)
    : DoesFramed [.out, .regs, .strm, .recd, .host, .ints, .counters] s (execAvtpPacket a s) := by
  unfold execAvtpPacket
  first | with_reducible apply does_framed | (with_reducible refine doesJudged_framed _ _ ?_ rfl) | skip
  all_goals (try (intro L base d hL hd ; beta_reduce))
  repeat' first | with_reducible assumption | with_reducible apply takePacket_framed

theorem execStreamTimeout_framed (s : Fin 64) (st : State)
    : DoesFramed [.clock, .out, .regs, .strm, .recd, .ints, .counters] st (execStreamTimeout s st) := by
  unfold execStreamTimeout
  first | with_reducible apply does_framed | (with_reducible refine doesJudged_framed _ _ ?_ rfl) | skip
  all_goals (try (intro L base d hL hd ; beta_reduce))
  repeat' first
      | with_reducible assumption | with_reducible exact Framed.sub rfl hL | with_reducible apply onStream_framed
      | with_reducible apply muteFrames_framed | dsimp only [id]
      | with_reducible apply raise_framed | with_reducible apply arrive_framed | split

theorem collectSamples_framed (s : Fin 64) (frames : List (List (BitVec 32))) (d : Dev) (hL : ∀ p ∈ ([.strm, .host]
    : List Part), p ∈ L) (hd : Framed L base d) : Framed L base (collectSamples s frames d).2.2 := by
  unfold collectSamples
  repeat' first
      | with_reducible assumption | with_reducible exact Framed.sub rfl hL | with_reducible apply onStream_framed
      | with_reducible apply onRing_framed | split

theorem collectSamples_pair (s : Fin 64) (frames : List (List (BitVec 32))) (d : Dev) {r0 : _} {r1 : _} {d' : Dev}
    (e : collectSamples s frames d = (r0, r1, d')) (hL : ∀ p ∈ ([.strm, .host] : List Part), p ∈ L) (hd
    : Framed L base d) : Framed L base d' := by
  have := collectSamples_framed s frames d hL hd
  rw [e] at this
  exact this

theorem execTalkerPacket_framed (s : Fin 64) (frames : List (List (BitVec 32))) (st : State)
    : DoesFramed [.out, .regs, .fab, .queues, .sched, .strm, .recd, .host, .ints, .counters] st
    (execTalkerPacket s frames st) := by
  unfold execTalkerPacket
  first | with_reducible apply does_framed | (with_reducible refine doesJudged_framed _ _ ?_ rfl) | skip
  all_goals (try (intro L base d hL hd ; beta_reduce))
  repeat' first
      | with_reducible assumption | with_reducible exact Framed.sub rfl hL
      | with_reducible apply collectSamples_framed | with_reducible apply takePacket_framed
      | with_reducible apply onStream_framed | with_reducible apply dispatchFrame_framed
      | with_reducible apply countEv_framed | with_reducible apply bump_framed | with_reducible apply ite_framed

theorem talkerAtBoundary_framed (s : Fin 64) (d : Dev) (hL : ∀ p ∈ ([.strm] : List Part), p ∈ L) (hd
    : Framed L base d) : Framed L base (talkerAtBoundary s d) := by
  unfold talkerAtBoundary
  repeat' first
      | with_reducible assumption | with_reducible apply onStream_framed | with_reducible apply ite_framed | split

theorem switchReservations_framed (b : List ResPlaced) (d : Dev) (hL : ∀ p ∈
    ([.out, .regs, .queues, .strm, .recd, .host, .ints, .counters] : List Part), p ∈ L) (hd : Framed L base d)
    : Framed L base (switchReservations b d) := by
  unfold switchReservations
  repeat' first
      | with_reducible assumption | with_reducible exact Framed.sub rfl hL | with_reducible intro _
      | with_reducible apply talkerAtBoundary_framed | with_reducible apply onStrm_framed
      | with_reducible apply discardAll_framed | with_reducible apply forEach_framed
      | with_reducible apply raise_framed | with_reducible apply bump_framed

theorem execStreamSwitchBoundary_framed (s : State)
    : DoesFramed [.clock, .out, .regs, .queues, .strm, .recd, .host, .ints, .counters] s
    (execStreamSwitchBoundary s) := by
  unfold execStreamSwitchBoundary
  first | with_reducible apply does_framed | (with_reducible refine doesJudged_framed _ _ ?_ rfl) | skip
  all_goals (try (intro L base d hL hd ; beta_reduce))
  repeat' first
      | with_reducible assumption | with_reducible exact Framed.sub rfl hL
      | with_reducible apply switchReservations_framed | with_reducible apply builtReservations_framed
      | with_reducible apply onStrm_framed | with_reducible apply arriveTrain_framed
      | with_reducible apply ite_framed | split | dsimp only [id]

theorem applyStream_framed (s : Fin 64) (d : Dev) (hL : ∀ p ∈ ([.out, .strm] : List Part), p ∈ L) (hd
    : Framed L base d) : Framed L base (applyStream s d) := by
  unfold applyStream
  repeat' first
      | with_reducible assumption | with_reducible exact Framed.sub rfl hL | with_reducible apply onStream_framed
      | with_reducible apply emit_framed | with_reducible apply ite_framed

theorem applyStreams_framed (d : Dev) (hL : ∀ p ∈ ([.out, .strm] : List Part), p ∈ L) (hd : Framed L base d)
    : Framed L base (applyStreams d) := by
  unfold applyStreams
  repeat' first
      | with_reducible assumption | with_reducible exact Framed.sub rfl hL | with_reducible intro _
      | with_reducible apply applyStream_framed | with_reducible apply onStrm_framed
      | with_reducible apply forEach_framed

theorem streamsOff_framed (d : Dev) (hL : ∀ p ∈ ([.strm] : List Part), p ∈ L) (hd : Framed L base d) : Framed L base
    (streamsOff d) := by
  unfold streamsOff
  repeat' first | with_reducible assumption | with_reducible apply onStrm_framed

end Sys2Proof.Machine
end

