-- ==== Sys2Proof/Laws/Framed/CanOps.lean ====
section
/-! SUPPORT. Which parts of the device each function of Machine/CanOps.lean can change. -/

-- one declaration after the other: the package is also compiled as one text, in limited memory
set_option Elab.async false

set_option linter.all false

namespace Sys2Proof.Machine

variable {L : List Part} {base : Dev}

theorem onCan_framed (c : CanId) (f : CanCtl → CanCtl) (d : Dev) (hL : ∀ p ∈ ([.can] : List Part), p ∈ L) (hd
    : Framed L base d) : Framed L base (onCan c f d) := by
  have m0 : Part.can ∈ L := hL _ (.head _)
  unfold onCan
  repeat' first
      | with_reducible assumption
      | (fail_if_no_progress ((with_reducible apply Framed.upd) ; (iterate 11 exact .inl rfl) ; exact .inr m0 ; (iterate 10 exact .inl rfl)))

theorem setObj_framed (c : CanId) (o : Nat) (x : CanObj) (d : Dev) (hL : ∀ p ∈ ([.can] : List Part), p ∈ L) (hd
    : Framed L base d) : Framed L base (setObj c o x d) := by
  unfold setObj
  repeat' first | with_reducible assumption | with_reducible apply onCan_framed

theorem canInt_framed (c : CanId) (d : Dev) (hL : ∀ p ∈ ([.out, .ints] : List Part), p ∈ L) (hd : Framed L base d)
    : Framed L base (canInt c d) := by
  unfold canInt
  repeat' first | with_reducible assumption | with_reducible apply setInt_framed

theorem attend_framed (c : CanId) (o : Nat) (d : Dev) (hL : ∀ p ∈ ([.out, .ints] : List Part), p ∈ L) (hd
    : Framed L base d) : Framed L base (attend c o d) := by
  unfold attend
  repeat' first
      | with_reducible assumption | with_reducible intro _ | with_reducible apply canInt_framed
      | with_reducible apply onlyIf_framed

theorem finishObj_framed (c : CanId) (o status : Nat) (d : Dev) (hL : ∀ p ∈ ([.out, .can, .ints]
    : List Part), p ∈ L) (hd : Framed L base d) : Framed L base (finishObj c o status d) := by
  unfold finishObj
  repeat' first
      | with_reducible assumption | with_reducible exact Framed.sub rfl hL | with_reducible apply attend_framed
      | with_reducible apply setObj_framed

theorem requestObj_framed (c : CanId) (o : Nat) (d : Dev) (hL : ∀ p ∈ ([.can] : List Part), p ∈ L) (hd
    : Framed L base d) : Framed L base (requestObj c o d) := by
  unfold requestObj
  repeat' first | with_reducible assumption | with_reducible apply setObj_framed

theorem cancelObj_framed (c : CanId) (o : Nat) (d : Dev) (hL : ∀ p ∈ ([.out, .can, .ints] : List Part), p ∈ L) (hd
    : Framed L base d) : Framed L base (cancelObj c o d) := by
  unfold cancelObj
  repeat' first
      | with_reducible assumption | with_reducible exact Framed.sub rfl hL | with_reducible apply finishObj_framed
      | with_reducible apply setObj_framed | with_reducible apply ite_framed

theorem ackObj_framed (c : CanId) (o : Nat) (d : Dev) (hL : ∀ p ∈ ([.can] : List Part), p ∈ L) (hd
    : Framed L base d) : Framed L base (ackObj c o d) := by
  unfold ackObj
  repeat' first | with_reducible assumption | with_reducible apply setObj_framed | with_reducible apply ite_framed

theorem setCanState_framed (c : CanId) (st : CanState) (d : Dev) (hL : ∀ p ∈ ([.out, .can, .ints]
    : List Part), p ∈ L) (hd : Framed L base d) : Framed L base (setCanState c st d) := by
  unfold setCanState
  repeat' first
      | with_reducible assumption | with_reducible exact Framed.sub rfl hL | with_reducible apply canInt_framed
      | with_reducible apply onCan_framed | with_reducible apply ite_framed

theorem setAlone_framed (c : CanId) (b : Bool) (d : Dev) (hL : ∀ p ∈ ([.out, .can, .ints] : List Part), p ∈ L) (hd
    : Framed L base d) : Framed L base (setAlone c b d) := by
  unfold setAlone
  repeat' first
      | with_reducible assumption | with_reducible exact Framed.sub rfl hL | with_reducible apply canInt_framed
      | with_reducible apply onCan_framed | with_reducible apply ite_framed

theorem judgeErrors_framed (c : CanId) (d : Dev) (hL : ∀ p ∈ ([.out, .regs, .can, .recd, .ints, .counters]
    : List Part), p ∈ L) (hd : Framed L base d) : Framed L base (judgeErrors c d) := by
  unfold judgeErrors
  repeat' first
      | with_reducible assumption | with_reducible exact Framed.sub rfl hL
      | with_reducible apply setCanState_framed | with_reducible apply finishObj_framed
      | with_reducible apply onCan_framed | with_reducible apply raise_framed | with_reducible apply bump_framed
      | with_reducible apply ite_framed | split

theorem noteCanError_framed (c : CanId) (k : CanErrorKind) (dataPhase : Bool) (d : Dev) (hL : ∀ p ∈
    ([.regs, .counters] : List Part), p ∈ L) (hd : Framed L base d) : Framed L base
    (noteCanError c k dataPhase d) := by
  unfold noteCanError
  repeat' first
      | with_reducible assumption | with_reducible exact Framed.sub rfl hL | with_reducible apply countEv_framed
      | with_reducible apply bump_framed | with_reducible apply setReg_framed

theorem protocolException_framed (c : CanId) (d : Dev) (hL : ∀ p ∈ ([.out, .regs, .can, .recd, .ints, .counters]
    : List Part), p ∈ L) (hd : Framed L base d) : Framed L base (protocolException c d) := by
  unfold protocolException
  repeat' first
      | with_reducible assumption | with_reducible exact Framed.sub rfl hL | with_reducible apply onCan_framed
      | with_reducible apply raise_framed | with_reducible apply bump_framed | with_reducible apply ite_framed

theorem recAfterFrame_framed (c : CanId) (d : Dev) (hL : ∀ p ∈ ([.fresh, .can] : List Part), p ∈ L) (hd
    : Framed L base d) : Framed L base (recAfterFrame c d) := by
  unfold recAfterFrame
  repeat' first
      | with_reducible assumption | with_reducible exact Framed.sub rfl hL | with_reducible apply onCan_framed
      | with_reducible apply draw_framed | with_reducible apply ite_framed

theorem canStart_framed (c : CanId) (d : Dev) (hL : ∀ p ∈ ([.out, .regs, .can, .ints] : List Part), p ∈ L) (hd
    : Framed L base d) : Framed L base (canStart c d) := by
  unfold canStart
  repeat' first
      | with_reducible assumption | with_reducible exact Framed.sub rfl hL | with_reducible apply setAlone_framed
      | with_reducible apply setCanState_framed | with_reducible apply onCan_framed
      | with_reducible apply setReg_framed | with_reducible apply ite_framed

theorem abortObjs_framed (c : CanId) (d : Dev) (hL : ∀ p ∈ ([.out, .can, .ints] : List Part), p ∈ L) (hd
    : Framed L base d) : Framed L base (abortObjs c d) := by
  unfold abortObjs
  repeat' first
      | with_reducible assumption | with_reducible intro _ | with_reducible apply finishObj_framed
      | with_reducible apply forEach_framed

theorem canOff_framed (c : CanId) (d : Dev) (hL : ∀ p ∈ ([.out, .can, .ints] : List Part), p ∈ L) (hd
    : Framed L base d) : Framed L base (canOff c d) := by
  unfold canOff
  repeat' first
      | with_reducible assumption | with_reducible exact Framed.sub rfl hL | with_reducible apply abortObjs_framed
      | with_reducible apply setAlone_framed | with_reducible apply setCanState_framed
      | with_reducible apply onCan_framed

theorem finishLeaving_framed (c : CanId) (d : Dev) (hL : ∀ p ∈ ([.out, .regs, .can, .ints] : List Part), p ∈ L) (hd
    : Framed L base d) : Framed L base (finishLeaving c d) := by
  unfold finishLeaving
  repeat' first
      | with_reducible assumption | with_reducible exact Framed.sub rfl hL | with_reducible apply canOff_framed
      | with_reducible apply canStart_framed | with_reducible apply onCan_framed | split

theorem leaveMode_framed (c : CanId) (again : Bool) (d : Dev) (hL : ∀ p ∈ ([.out, .regs, .can, .ints]
    : List Part), p ∈ L) (hd : Framed L base d) : Framed L base (leaveMode c again d) := by
  unfold leaveMode
  repeat' first
      | with_reducible assumption | with_reducible exact Framed.sub rfl hL
      | with_reducible apply finishLeaving_framed | with_reducible apply onCan_framed
      | with_reducible apply ite_framed

theorem applyCan_framed (c : CanId) (d : Dev) (hL : ∀ p ∈ ([.out, .regs, .can, .ints] : List Part), p ∈ L) (hd
    : Framed L base d) : Framed L base (applyCan c d) := by
  unfold applyCan
  repeat' first
      | with_reducible assumption | with_reducible apply leaveMode_framed | with_reducible apply canStart_framed
      | with_reducible apply ite_framed

theorem resetObj_framed (c : CanId) (o : Nat) (d : Dev) (hL : ∀ p ∈ ([.can] : List Part), p ∈ L) (hd
    : Framed L base d) : Framed L base (resetObj c o d) := by
  unfold resetObj
  repeat' first
      | with_reducible assumption | with_reducible exact Framed.sub rfl hL | with_reducible apply setObj_framed
      | with_reducible apply onCan_framed | with_reducible apply ite_framed

theorem bootCan_framed (d : Dev) (hL : ∀ p ∈ ([.out, .regs, .can, .ints] : List Part), p ∈ L) (hd : Framed L base d)
    : Framed L base (bootCan d) := by
  unfold bootCan
  repeat' first
      | with_reducible assumption | with_reducible exact Framed.sub rfl hL | with_reducible intro _
      | with_reducible apply canStart_framed | with_reducible apply onCan_framed
      | with_reducible apply forEach_framed

end Sys2Proof.Machine
end

