-- ==== Sys2Proof/Laws/Framed/Checks.lean ====
section
/-! SUPPORT. Which parts of the device each function of Machine/Checks.lean can change. -/

-- one declaration after the other: the package is also compiled as one text, in limited memory
set_option Elab.async false

set_option linter.all false

namespace Sys2Proof.Machine

variable {L : List Part} {base : Dev}

theorem setChk_framed (ch : Nat) (x : CheckCh) (d : Dev) (hL : ∀ p ∈ ([.chk] : List Part), p ∈ L) (hd
    : Framed L base d) : Framed L base (setChk ch x d) := by
  have m0 : Part.chk ∈ L := hL _ (.head _)
  unfold setChk
  repeat' first
      | with_reducible assumption
      | (fail_if_no_progress ((with_reducible apply Framed.upd) ; (iterate 13 exact .inl rfl) ; exact .inr m0 ; (iterate 8 exact .inl rfl)))

theorem flagCheck_framed (ch kind : Nat) (d : Dev) (hL : ∀ p ∈ ([.out, .regs, .chk, .recd, .ints, .counters]
    : List Part), p ∈ L) (hd : Framed L base d) : Framed L base (flagCheck ch kind d) := by
  unfold flagCheck
  repeat' first
      | with_reducible assumption | with_reducible exact Framed.sub rfl hL | with_reducible intro _
      | with_reducible apply setChk_framed | with_reducible apply onlyIf_framed
      | with_reducible apply raiseP_framed | with_reducible apply setInt_framed
      | with_reducible apply countEv_framed | with_reducible apply bump_framed | with_reducible apply setReg_framed
      | with_reducible apply ite_framed

theorem passCheck_framed (ch : Nat) (r : CheckRec) (d : Dev) (hL : ∀ p ∈
    ([.out, .regs, .chk, .recd, .ints, .counters] : List Part), p ∈ L) (hd : Framed L base d) : Framed L base
    (passCheck ch r d) := by
  unfold passCheck
  repeat' first
      | with_reducible assumption | with_reducible exact Framed.sub rfl hL | with_reducible apply setChk_framed
      | with_reducible apply raise_framed | with_reducible apply bump_framed | with_reducible apply ite_framed
      | split | dsimp only [id]

theorem verifyFrame_framed (ch : Nat) (r : CheckRec) (bs : List Byte) (d : Dev) (hL : ∀ p ∈
    ([.out, .regs, .chk, .recd, .ints, .counters] : List Part), p ∈ L) (hd : Framed L base d) : Framed L base
    (verifyFrame ch r bs d).2 := by
  unfold verifyFrame
  repeat' first
      | with_reducible assumption | with_reducible exact Framed.sub rfl hL | with_reducible intro _
      | with_reducible apply passCheck_framed | with_reducible apply flagCheck_framed
      | with_reducible apply setChk_framed | with_reducible apply onlyIf_framed | with_reducible apply bump_framed
      | with_reducible apply bumpBy_framed | with_reducible apply ite_framed

theorem verifyFrame_pair (ch : Nat) (r : CheckRec) (bs : List Byte) (d : Dev) {r0 : _} {d' : Dev} (e
    : verifyFrame ch r bs d = (r0, d')) (hL : ∀ p ∈ ([.out, .regs, .chk, .recd, .ints, .counters]
    : List Part), p ∈ L) (hd : Framed L base d) : Framed L base d' := by
  have := verifyFrame_framed ch r bs d hL hd
  rw [e] at this
  exact this

theorem verifyAt_framed (telegram : Bool) (ctl unit : Nat) (bs : List Byte) (d : Dev) (hL : ∀ p ∈
    ([.out, .regs, .chk, .recd, .ints, .counters] : List Part), p ∈ L) (hd : Framed L base d) : Framed L base
    (verifyAt telegram ctl unit bs d).2 := by
  unfold verifyAt
  repeat' first | with_reducible assumption | with_reducible apply verifyFrame_framed | split

theorem verifyAt_pair (telegram : Bool) (ctl unit : Nat) (bs : List Byte) (d : Dev) {r0 : _} {d' : Dev} (e
    : verifyAt telegram ctl unit bs d = (r0, d')) (hL : ∀ p ∈ ([.out, .regs, .chk, .recd, .ints, .counters]
    : List Part), p ∈ L) (hd : Framed L base d) : Framed L base d' := by
  have := verifyAt_framed telegram ctl unit bs d hL hd
  rw [e] at this
  exact this

theorem protectAt_framed (telegram : Bool) (ctl unit : Nat) (again : Bool) (bs : List Byte) (d : Dev) (hL : ∀ p ∈
    ([.regs, .chk] : List Part), p ∈ L) (hd : Framed L base d) : Framed L base
    (protectAt telegram ctl unit again bs d).2 := by
  unfold protectAt
  repeat' first
      | with_reducible assumption | with_reducible exact Framed.sub rfl hL | with_reducible apply setChk_framed
      | with_reducible apply bump_framed | with_reducible apply ite_framed | split

theorem protectAt_pair (telegram : Bool) (ctl unit : Nat) (again : Bool) (bs : List Byte) (d : Dev) {r0 : _} {d'
    : Dev} (e : protectAt telegram ctl unit again bs d = (r0, d')) (hL : ∀ p ∈ ([.regs, .chk] : List Part), p ∈ L)
    (hd : Framed L base d) : Framed L base d' := by
  have := protectAt_framed telegram ctl unit again bs d hL hd
  rw [e] at this
  exact this

theorem checkOff_framed (ch : Nat) (d : Dev) (hL : ∀ p ∈ ([.chk] : List Part), p ∈ L) (hd : Framed L base d)
    : Framed L base (checkOff ch d) := by
  unfold checkOff
  repeat' first | with_reducible assumption | with_reducible apply setChk_framed

theorem checksOff_framed (d : Dev) (hL : ∀ p ∈ ([.chk] : List Part), p ∈ L) (hd : Framed L base d) : Framed L base
    (checksOff d) := by
  unfold checksOff
  repeat' first
      | with_reducible assumption | with_reducible intro _ | with_reducible apply checkOff_framed
      | with_reducible apply forEach_framed

theorem checkStart_framed (ch : Nat) (r : CheckRec) (d : Dev) (hL : ∀ p ∈ ([.chk] : List Part), p ∈ L) (hd
    : Framed L base d) : Framed L base (checkStart ch r d) := by
  unfold checkStart
  repeat' first | with_reducible assumption | with_reducible apply setChk_framed

theorem applyChecks_framed (old : Dev) (d : Dev) (hL : ∀ p ∈ ([.chk] : List Part), p ∈ L) (hold : Framed L base old)
    (hd : Framed L base d) : Framed L base (applyChecks old d) := by
  unfold applyChecks
  repeat' first
      | with_reducible assumption | with_reducible intro _ | with_reducible apply checkStart_framed
      | with_reducible apply checkOff_framed | with_reducible apply forEach_framed
      | with_reducible apply ite_framed

theorem execSilenceReset_framed (ch : Fin 256) (s : State) : DoesFramed [.clock, .chk, .counters] s
    (execSilenceReset ch s) := by
  unfold execSilenceReset
  first | with_reducible apply does_framed | (with_reducible refine doesJudged_framed _ _ ?_ rfl) | skip
  all_goals (try (intro L base d hL hd ; beta_reduce))
  repeat' first
      | with_reducible assumption | with_reducible exact Framed.sub rfl hL | with_reducible apply setChk_framed
      | with_reducible apply arrive_framed | split

end Sys2Proof.Machine
end

