-- ==== Sys2Proof/Laws/Framed/Gateway.lean ====
section
/-! SUPPORT. Which parts of the device each function of Machine/Gateway.lean can change. -/

-- one declaration after the other: the package is also compiled as one text, in limited memory
set_option Elab.async false

set_option linter.all false

namespace Sys2Proof.Machine

variable {L : List Part} {base : Dev}

theorem onGw_framed (f : GwS → GwS) (d : Dev) (hL : ∀ p ∈ ([.gw] : List Part), p ∈ L) (hd : Framed L base d)
    : Framed L base (onGw f d) := by
  have m0 : Part.gw ∈ L := hL _ (.head _)
  unfold onGw
  repeat' first
      | with_reducible assumption
      | (fail_if_no_progress ((with_reducible apply Framed.upd) ; (iterate 12 exact .inl rfl) ; exact .inr m0 ; (iterate 9 exact .inl rfl)))

theorem gwLog_framed (kind : Nat) (tag : BitVec 32) (addr chan status : Nat) (canSide : Bool) (epoch : Nat) (d
    : Dev) (hL : ∀ p ∈ ([.out, .regs, .gw, .recd, .ints, .counters] : List Part), p ∈ L) (hd : Framed L base d)
    : Framed L base (gwLog kind tag addr chan status canSide epoch d) := by
  unfold gwLog
  repeat' first
      | with_reducible assumption | with_reducible exact Framed.sub rfl hL | with_reducible apply onGw_framed
      | with_reducible apply raiseP_framed | with_reducible apply bump_framed | with_reducible apply ite_framed

theorem setStage_framed (c : CanId) (o : Nat) (t : TxStage) (d : Dev) (hL : ∀ p ∈ ([.gw] : List Part), p ∈ L) (hd
    : Framed L base d) : Framed L base (setStage c o t d) := by
  unfold setStage
  repeat' first | with_reducible assumption | with_reducible apply onGw_framed

theorem gwSendNow_framed (c : CanId) (o : Nat) (d : Dev) (hL : ∀ p ∈ ([.fresh, .regs, .can, .gw, .chk]
    : List Part), p ∈ L) (hd : Framed L base d) : Framed L base (gwSendNow c o d) := by
  unfold gwSendNow
  repeat' first
      | with_reducible assumption | with_reducible exact Framed.sub rfl hL | with_reducible apply setStage_framed
      | with_reducible apply protectAt_framed | with_reducible apply setObj_framed
      | with_reducible apply ite_framed

theorem gwStage_framed (c : CanId) (o : Nat) (data : List Byte) (d : Dev) (hL : ∀ p ∈
    ([.fresh, .regs, .can, .gw, .chk] : List Part), p ∈ L) (hd : Framed L base d) : Framed L base
    (gwStage c o data d) := by
  unfold gwStage
  repeat' first
      | with_reducible assumption | with_reducible exact Framed.sub rfl hL | with_reducible apply gwSendNow_framed
      | with_reducible apply setStage_framed | with_reducible apply ite_framed

theorem gwPut_framed (c : CanId) (o : Nat) (data : List Byte) (d : Dev) (hL : ∀ p ∈
    ([.fresh, .regs, .can, .gw, .chk] : List Part), p ∈ L) (hd : Framed L base d) : Framed L base
    (gwPut c o data d) := by
  unfold gwPut
  repeat' first
      | with_reducible assumption | with_reducible exact Framed.sub rfl hL | with_reducible apply gwSendNow_framed
      | with_reducible apply setStage_framed

theorem gwToCan_framed (k : Nat) (write : SignalMap → List Byte → List Byte) (d : Dev) (hL : ∀ p ∈
    ([.fresh, .regs, .can, .gw, .chk] : List Part), p ∈ L) (hd : Framed L base d) : Framed L base
    (gwToCan k write d) := by
  unfold gwToCan
  repeat' first
      | with_reducible assumption | with_reducible intro _ | with_reducible apply gwStage_framed
      | with_reducible apply forEach_framed

theorem onTele_framed (k : Fin 64) (f : Telegram → Telegram) (d : Dev) (hL : ∀ p ∈ ([.gw] : List Part), p ∈ L) (hd
    : Framed L base d) : Framed L base (onTele k f d) := by
  unfold onTele
  repeat' first | with_reducible assumption | with_reducible apply onGw_framed

theorem sendTrdp_framed (m : TrdpOut) (d : Dev) (hL : ∀ p ∈
    ([.out, .regs, .fab, .queues, .sched, .host, .ints, .counters] : List Part), p ∈ L) (hd : Framed L base d)
    : Framed L base (sendTrdp m d) := by
  unfold sendTrdp
  repeat' first
      | with_reducible assumption | with_reducible exact Framed.sub rfl hL
      | with_reducible apply dispatchFrame_framed | with_reducible apply emit_framed

theorem sendTele_framed (k : Fin 64) (d : Dev) (hL : ∀ p ∈
    ([.out, .regs, .fab, .queues, .sched, .gw, .chk, .host, .ints, .counters] : List Part), p ∈ L) (hd
    : Framed L base d) : Framed L base (sendTele k d) := by
  unfold sendTele
  repeat' first
      | with_reducible assumption | with_reducible exact Framed.sub rfl hL | with_reducible apply sendTrdp_framed
      | with_reducible apply onTele_framed | with_reducible apply protectAt_framed
      | with_reducible apply countEv_framed | with_reducible apply bump_framed | split

theorem execTelegramDue_framed (k : Fin 64) (s : State)
    : DoesFramed [.clock, .out, .regs, .fab, .queues, .sched, .gw, .chk, .host, .ints, .counters] s
    (execTelegramDue k s) := by
  unfold execTelegramDue
  first | with_reducible apply does_framed | (with_reducible refine doesJudged_framed _ _ ?_ rfl) | skip
  all_goals (try (intro L base d hL hd ; beta_reduce))
  repeat' first
      | with_reducible assumption | with_reducible exact Framed.sub rfl hL | with_reducible apply sendTele_framed
      | with_reducible apply onTele_framed | with_reducible apply arriveTrain_framed
      | with_reducible apply ite_framed

theorem execCanObjectDue_framed (c : CanId) (o : Fin 126) (s : State)
    : DoesFramed [.clock, .fresh, .regs, .can, .gw, .chk, .counters] s (execCanObjectDue c o s) := by
  unfold execCanObjectDue
  first | with_reducible apply does_framed | (with_reducible refine doesJudged_framed _ _ ?_ rfl) | skip
  all_goals (try (intro L base d hL hd ; beta_reduce))
  repeat' first
      | with_reducible assumption | with_reducible exact Framed.sub rfl hL | with_reducible apply gwSendNow_framed
      | with_reducible apply setStage_framed | with_reducible apply arriveTrain_framed
      | with_reducible apply ite_framed

theorem execPdTelegram_framed (m : TrdpMsg) (s : State)
    : DoesFramed [.fresh, .out, .regs, .can, .gw, .chk, .recd, .ints, .counters] s (execPdTelegram m s) := by
  unfold execPdTelegram
  first | with_reducible apply does_framed | (with_reducible refine doesJudged_framed _ _ ?_ rfl) | skip
  all_goals (try (intro L base d hL hd ; beta_reduce))
  repeat' first
      | with_reducible assumption | with_reducible exact Framed.sub rfl hL | with_reducible apply onTele_framed
      | with_reducible apply gwToCan_framed | with_reducible apply verifyAt_framed
      | with_reducible apply bump_framed | with_reducible apply ite_framed | split

theorem execTelegramTimeout_framed (k : Fin 64) (s : State)
    : DoesFramed [.clock, .fresh, .out, .regs, .can, .gw, .chk, .recd, .ints, .counters] s
    (execTelegramTimeout k s) := by
  unfold execTelegramTimeout
  first | with_reducible apply does_framed | (with_reducible refine doesJudged_framed _ _ ?_ rfl) | skip
  all_goals (try (intro L base d hL hd ; beta_reduce))
  repeat' first
      | with_reducible assumption | with_reducible exact Framed.sub rfl hL | with_reducible apply onTele_framed
      | with_reducible apply gwToCan_framed | with_reducible apply gwLog_framed
      | with_reducible apply arrive_framed | with_reducible apply bump_framed | split

theorem onChan_framed (n : Fin 32) (f : GwChan → GwChan) (d : Dev) (hL : ∀ p ∈ ([.gw] : List Part), p ∈ L) (hd
    : Framed L base d) : Framed L base (onChan n f d) := by
  unfold onChan
  repeat' first | with_reducible assumption | with_reducible apply onGw_framed

theorem sendMd_framed (ip port msgType comId topo : Nat) (session : BitVec 128) (replyStatus : Int) (data
    : List Byte) (d : Dev) (hL : ∀ p ∈ ([.fresh, .out, .regs, .fab, .queues, .sched, .host, .ints, .counters]
    : List Part), p ∈ L) (hd : Framed L base d) : Framed L base
    (sendMd ip port msgType comId topo session replyStatus data d) := by
  unfold sendMd
  repeat' first
      | with_reducible assumption | with_reducible exact Framed.sub rfl hL | with_reducible apply sendTrdp_framed
      | with_reducible apply draw_framed

theorem answerTxn_framed (n : Fin 32) (t : Txn) (status : Nat) (data : List Byte) (d : Dev) (hL : ∀ p ∈
    ([.fresh, .out, .regs, .fab, .queues, .sched, .can, .gw, .chk, .recd, .host, .ints, .counters]
    : List Part), p ∈ L) (hd : Framed L base d) : Framed L base (answerTxn n t status data d) := by
  unfold answerTxn
  repeat' first
      | with_reducible assumption | with_reducible exact Framed.sub rfl hL | with_reducible apply sendMd_framed
      | with_reducible apply gwPut_framed | with_reducible apply gwLog_framed | with_reducible apply bump_framed
      | with_reducible apply ite_framed | split

theorem postedFails_framed (n : Fin 32) (t : Txn) (status : Nat) (d : Dev) (hL : ∀ p ∈
    ([.out, .regs, .gw, .recd, .ints, .counters] : List Part), p ∈ L) (hd : Framed L base d) : Framed L base
    (postedFails n t status d) := by
  unfold postedFails
  repeat' first
      | with_reducible assumption | with_reducible exact Framed.sub rfl hL | with_reducible apply gwLog_framed
      | with_reducible apply bump_framed

theorem closeChan_framed (n : Fin 32) (d : Dev) (hL : ∀ p ∈ ([.gw] : List Part), p ∈ L) (hd : Framed L base d)
    : Framed L base (closeChan n d) := by
  unfold closeChan
  repeat' first | with_reducible assumption | with_reducible apply onChan_framed

theorem failTxn_framed (n : Fin 32) (status : Nat) (d : Dev) (hL : ∀ p ∈
    ([.fresh, .out, .regs, .fab, .queues, .sched, .can, .gw, .chk, .recd, .host, .ints, .counters]
    : List Part), p ∈ L) (hd : Framed L base d) : Framed L base (failTxn n status d) := by
  unfold failTxn
  repeat' first
      | with_reducible assumption | with_reducible exact Framed.sub rfl hL | with_reducible apply closeChan_framed
      | with_reducible apply postedFails_framed | with_reducible apply answerTxn_framed
      | with_reducible apply ite_framed | split

theorem discardCache_framed (n : Fin 32) (bad : CacheEntry → Bool) (d : Dev) (hL : ∀ p ∈
    ([.out, .regs, .gw, .recd, .ints, .counters] : List Part), p ∈ L) (hd : Framed L base d) : Framed L base
    (discardCache n bad d) := by
  unfold discardCache
  repeat' first
      | with_reducible assumption | with_reducible exact Framed.sub rfl hL | with_reducible intro _
      | with_reducible apply onChan_framed | with_reducible apply gwLog_framed
      | with_reducible apply forEach_framed | with_reducible apply bump_framed

theorem nextFetch_framed (n : Fin 32) (d : Dev) (hL : ∀ p ∈ ([.fresh, .regs, .can, .gw, .chk] : List Part), p ∈ L)
    (hd : Framed L base d) : Framed L base (nextFetch n d) := by
  unfold nextFetch
  repeat' first
      | with_reducible assumption | with_reducible exact Framed.sub rfl hL | with_reducible apply onChan_framed
      | with_reducible apply gwPut_framed | with_reducible apply bump_framed | split

theorem openBackbone_framed (n : Fin 32) (t : Txn) (d : Dev) (hL : ∀ p ∈
    ([.fresh, .out, .regs, .fab, .queues, .sched, .can, .gw, .chk, .recd, .host, .ints, .counters]
    : List Part), p ∈ L) (hd : Framed L base d) : Framed L base (openBackbone n t d) := by
  unfold openBackbone
  repeat' first
      | with_reducible assumption | with_reducible exact Framed.sub rfl hL
      | with_reducible apply discardCache_framed | with_reducible apply failTxn_framed
      | with_reducible apply answerTxn_framed | with_reducible apply onChan_framed
      | with_reducible apply gwPut_framed | with_reducible apply bump_framed | with_reducible apply ite_framed
      | split

theorem serveWaiting_framed (n : Fin 32) (d : Dev) (hL : ∀ p ∈
    ([.fresh, .out, .regs, .fab, .queues, .sched, .can, .gw, .chk, .recd, .host, .ints, .counters]
    : List Part), p ∈ L) (hd : Framed L base d) : Framed L base (serveWaiting n d) := by
  unfold serveWaiting
  repeat' first
      | with_reducible assumption | with_reducible exact Framed.sub rfl hL
      | with_reducible apply openBackbone_framed | with_reducible apply onChan_framed | split

theorem fetchEnds_framed (n : Fin 32) (got : Option (List Byte)) (d : Dev) (hL : ∀ p ∈
    ([.fresh, .out, .regs, .fab, .queues, .sched, .can, .gw, .chk, .recd, .host, .ints, .counters]
    : List Part), p ∈ L) (hd : Framed L base d) : Framed L base (fetchEnds n got d) := by
  unfold fetchEnds
  repeat' first
      | with_reducible assumption | with_reducible exact Framed.sub rfl hL
      | with_reducible apply serveWaiting_framed | with_reducible apply nextFetch_framed
      | with_reducible apply onChan_framed | split

theorem takeBackbone_framed (n : Fin 32) (t : Txn) (d : Dev) (hL : ∀ p ∈
    ([.fresh, .out, .regs, .fab, .queues, .sched, .can, .gw, .chk, .recd, .host, .ints, .counters]
    : List Part), p ∈ L) (hd : Framed L base d) : Framed L base (takeBackbone n t d) := by
  unfold takeBackbone
  repeat' first
      | with_reducible assumption | with_reducible exact Framed.sub rfl hL
      | with_reducible apply openBackbone_framed | with_reducible apply answerTxn_framed
      | with_reducible apply onChan_framed | with_reducible apply ite_framed | split

theorem execMrRequest_framed (m : TrdpMsg) (s : State)
    : DoesFramed [.fresh, .out, .regs, .fab, .queues, .sched, .can, .gw, .chk, .recd, .host, .ints, .counters] s
    (execMrRequest m s) := by
  unfold execMrRequest
  first | with_reducible apply does_framed | (with_reducible refine doesJudged_framed _ _ ?_ rfl) | skip
  all_goals (try (intro L base d hL hd ; beta_reduce))
  repeat' first
      | with_reducible assumption | with_reducible exact Framed.sub rfl hL
      | with_reducible apply takeBackbone_framed | with_reducible apply answerTxn_framed
      | with_reducible apply bump_framed | with_reducible apply ite_framed | split

theorem execMnNotification_framed (m : TrdpMsg) (s : State)
    : DoesFramed [.fresh, .out, .regs, .fab, .queues, .sched, .can, .gw, .chk, .recd, .host, .ints, .counters] s
    (execMnNotification m s) := by
  unfold execMnNotification
  first | with_reducible apply does_framed | (with_reducible refine doesJudged_framed _ _ ?_ rfl) | skip
  all_goals (try (intro L base d hL hd ; beta_reduce))
  repeat' first
      | with_reducible assumption | with_reducible exact Framed.sub rfl hL
      | with_reducible apply takeBackbone_framed | with_reducible apply answerTxn_framed
      | with_reducible apply bump_framed | with_reducible apply ite_framed | split

theorem canReply_framed (c : CanId) (o : Nat) (bs : List Byte) (d : Dev) (hL : ∀ p ∈
    ([.fresh, .out, .regs, .fab, .queues, .sched, .can, .gw, .chk, .recd, .host, .ints, .counters]
    : List Part), p ∈ L) (hd : Framed L base d) : Framed L base (canReply c o bs d) := by
  unfold canReply
  repeat' first
      | with_reducible assumption | with_reducible exact Framed.sub rfl hL | with_reducible apply fetchEnds_framed
      | with_reducible apply nextFetch_framed | with_reducible apply closeChan_framed
      | with_reducible apply answerTxn_framed | with_reducible apply onChan_framed
      | with_reducible apply gwLog_framed | with_reducible apply bump_framed | with_reducible apply ite_framed
      | split | dsimp only [id]

theorem canRequest_framed (n : Fin 32) (bs : List Byte) (d : Dev) (hL : ∀ p ∈
    ([.fresh, .out, .regs, .fab, .queues, .sched, .can, .gw, .chk, .recd, .host, .ints, .counters]
    : List Part), p ∈ L) (hd : Framed L base d) : Framed L base (canRequest n bs d) := by
  unfold canRequest
  repeat' first
      | with_reducible assumption | with_reducible exact Framed.sub rfl hL | with_reducible apply failTxn_framed
      | with_reducible apply closeChan_framed | with_reducible apply answerTxn_framed
      | with_reducible apply sendMd_framed | with_reducible apply onChan_framed | with_reducible apply draw_framed
      | with_reducible apply bump_framed | with_reducible apply ite_framed | split

theorem gwFromCan_framed (c : CanId) (o : Nat) (bs : List Byte) (d : Dev) (hL : ∀ p ∈ ([.fresh, .gw]
    : List Part), p ∈ L) (hd : Framed L base d) : Framed L base (gwFromCan c o bs d) := by
  have m0 : Part.fresh ∈ L := hL _ (.head _)
  have m1 : Part.gw ∈ L := hL _ (.tail _ (.head _))
  unfold gwFromCan
  repeat' first
      | with_reducible assumption | with_reducible exact Framed.sub rfl hL | with_reducible intro _
      | with_reducible apply onTele_framed | with_reducible apply forEach_framed | with_reducible apply ite_framed
      | (fail_if_no_progress ((with_reducible apply Framed.upd) ; exact .inl rfl ; exact .inr m0 ; (iterate 10 exact .inl rfl) ; exact .inr m1 ; (iterate 9 exact .inl rfl)))

theorem gwHeld_framed (c : CanId) (o : Nat) (d : Dev) (hL : ∀ p ∈
    ([.fresh, .out, .regs, .fab, .queues, .sched, .can, .gw, .chk, .recd, .host, .ints, .counters]
    : List Part), p ∈ L) (hd : Framed L base d) : Framed L base (gwHeld c o d) := by
  unfold gwHeld
  repeat' first
      | with_reducible assumption | with_reducible exact Framed.sub rfl hL | with_reducible intro _
      | with_reducible apply gwFromCan_framed | with_reducible apply canRequest_framed
      | with_reducible apply canReply_framed | with_reducible apply verifyAt_framed
      | with_reducible apply ackObj_framed | with_reducible apply forEach_framed | with_reducible apply ite_framed

theorem gwDone_framed (c : CanId) (o : Nat) (d : Dev) (hL : ∀ p ∈
    ([.fresh, .out, .regs, .fab, .queues, .sched, .can, .gw, .chk, .recd, .host, .ints, .counters]
    : List Part), p ∈ L) (hd : Framed L base d) : Framed L base (gwDone c o d) := by
  unfold gwDone
  repeat' first
      | with_reducible assumption | with_reducible exact Framed.sub rfl hL | with_reducible intro _
      | with_reducible apply fetchEnds_framed | with_reducible apply failTxn_framed
      | with_reducible apply closeChan_framed | with_reducible apply gwSendNow_framed
      | with_reducible apply ackObj_framed | with_reducible apply forEach_framed | with_reducible apply bump_framed
      | with_reducible apply ite_framed | split

theorem gwSweep_framed (d : Dev) (hL : ∀ p ∈
    ([.fresh, .out, .regs, .fab, .queues, .sched, .can, .gw, .chk, .recd, .host, .ints, .counters]
    : List Part), p ∈ L) (hd : Framed L base d) : Framed L base (gwSweep d) := by
  unfold gwSweep
  repeat' first
      | with_reducible assumption | with_reducible intro _ | with_reducible apply gwDone_framed
      | with_reducible apply gwHeld_framed | with_reducible apply forEach_framed | with_reducible apply ite_framed

theorem takeMdReply_framed (m : TrdpMsg) (error : Bool) (d : Dev) (hL : ∀ p ∈
    ([.fresh, .out, .regs, .fab, .queues, .sched, .can, .gw, .chk, .recd, .host, .ints, .counters]
    : List Part), p ∈ L) (hd : Framed L base d) : Framed L base (takeMdReply m error d) := by
  unfold takeMdReply
  repeat' first
      | with_reducible assumption | with_reducible exact Framed.sub rfl hL | with_reducible apply closeChan_framed
      | with_reducible apply answerTxn_framed | with_reducible apply gwLog_framed
      | with_reducible apply bump_framed | with_reducible apply ite_framed | split | dsimp only [id]

theorem execMpReply_framed (m : TrdpMsg) (s : State)
    : DoesFramed [.fresh, .out, .regs, .fab, .queues, .sched, .can, .gw, .chk, .recd, .host, .ints, .counters] s
    (execMpReply m s) := by
  unfold execMpReply
  first | with_reducible apply does_framed | (with_reducible refine doesJudged_framed _ _ ?_ rfl) | skip
  all_goals (try (intro L base d hL hd ; beta_reduce))
  repeat' first | with_reducible assumption | with_reducible apply takeMdReply_framed

theorem execMeErrorReply_framed (m : TrdpMsg) (s : State)
    : DoesFramed [.fresh, .out, .regs, .fab, .queues, .sched, .can, .gw, .chk, .recd, .host, .ints, .counters] s
    (execMeErrorReply m s) := by
  unfold execMeErrorReply
  first | with_reducible apply does_framed | (with_reducible refine doesJudged_framed _ _ ?_ rfl) | skip
  all_goals (try (intro L base d hL hd ; beta_reduce))
  repeat' first | with_reducible assumption | with_reducible apply takeMdReply_framed

theorem execTransactionTimeout_framed (n : Fin 32) (s : State)
    : DoesFramed [.clock, .fresh, .out, .regs, .fab, .queues, .sched, .can, .gw, .chk, .recd, .host, .ints, .counters] s
    (execTransactionTimeout n s) := by
  unfold execTransactionTimeout
  first | with_reducible apply does_framed | (with_reducible refine doesJudged_framed _ _ ?_ rfl) | skip
  all_goals (try (intro L base d hL hd ; beta_reduce))
  repeat' first
      | with_reducible assumption | with_reducible exact Framed.sub rfl hL | with_reducible apply fetchEnds_framed
      | with_reducible apply failTxn_framed | with_reducible apply arrive_framed | split | dsimp only [id]

theorem execPrefetchLifetimeEnd_framed (n : Fin 32) (addr : BitVec 16) (s : State)
    : DoesFramed [.clock, .out, .regs, .gw, .recd, .ints, .counters] s (execPrefetchLifetimeEnd n addr s) := by
  unfold execPrefetchLifetimeEnd
  first | with_reducible apply does_framed | (with_reducible refine doesJudged_framed _ _ ?_ rfl) | skip
  all_goals (try (intro L base d hL hd ; beta_reduce))
  repeat' first
      | with_reducible assumption | with_reducible exact Framed.sub rfl hL
      | with_reducible apply discardCache_framed | with_reducible apply arrive_framed | split

theorem armTelegrams_framed (which : Fin 64 → Bool) (d : Dev) (hL : ∀ p ∈ ([.gw] : List Part), p ∈ L) (hd
    : Framed L base d) : Framed L base (armTelegrams which d) := by
  unfold armTelegrams
  repeat' first
      | with_reducible assumption | with_reducible intro _ | with_reducible apply onTele_framed
      | with_reducible apply forEach_framed

theorem gwClear_framed (d : Dev) (hL : ∀ p ∈ ([.gw] : List Part), p ∈ L) (hd : Framed L base d) : Framed L base
    (gwClear d) := by
  unfold gwClear
  repeat' first | with_reducible assumption | with_reducible apply onGw_framed

theorem gwStart_framed (d : Dev) (hL : ∀ p ∈ ([.gw] : List Part), p ∈ L) (hd : Framed L base d) : Framed L base
    (gwStart d) := by
  unfold gwStart
  repeat' first
      | with_reducible assumption | with_reducible apply armTelegrams_framed | with_reducible apply onGw_framed
      | with_reducible apply ite_framed

theorem gwStop_framed (d : Dev) (hL : ∀ p ∈ ([.gw] : List Part), p ∈ L) (hd : Framed L base d) : Framed L base
    (gwStop d) := by
  unfold gwStop
  repeat' first | with_reducible assumption | with_reducible apply onGw_framed

theorem resetChan_framed (n : Fin 32) (d : Dev) (hL : ∀ p ∈
    ([.fresh, .out, .regs, .fab, .queues, .sched, .can, .gw, .chk, .recd, .host, .ints, .counters]
    : List Part), p ∈ L) (hd : Framed L base d) : Framed L base (resetChan n d) := by
  unfold resetChan
  repeat' first
      | with_reducible assumption | with_reducible exact Framed.sub rfl hL | with_reducible apply answerTxn_framed
      | with_reducible apply discardCache_framed | with_reducible apply failTxn_framed
      | with_reducible apply closeChan_framed | with_reducible apply onChan_framed
      | with_reducible apply ite_framed | split

theorem applyGateway_framed (old : Dev) (d : Dev) (hL : ∀ p ∈
    ([.fresh, .out, .regs, .fab, .queues, .sched, .can, .gw, .chk, .recd, .host, .ints, .counters]
    : List Part), p ∈ L) (hold : Framed L base old) (hd : Framed L base d) : Framed L base
    (applyGateway old d) := by
  unfold applyGateway
  repeat' first
      | with_reducible assumption | with_reducible exact Framed.sub rfl hL | with_reducible intro _
      | with_reducible apply resetChan_framed | with_reducible apply gwClear_framed
      | with_reducible apply armTelegrams_framed | with_reducible apply discardCache_framed
      | with_reducible apply forEach_framed | with_reducible apply ite_framed

end Sys2Proof.Machine
end

