-- ==== Sys2Proof/Laws/Framed/Can.lean ====
section
/-! SUPPORT. Which parts of the device each function of Machine/Can.lean can change. -/

-- one declaration after the other: the package is also compiled as one text, in limited memory
set_option Elab.async false

set_option linter.all false

namespace Sys2Proof.Machine

variable {L : List Part} {base : Dev}

theorem storeFrame_framed (c : CanId) (f : CanFrame) (d : Dev) (hL : ∀ p ∈ ([.out, .regs, .can, .ints]
    : List Part), p ∈ L) (hd : Framed L base d) : Framed L base (storeFrame c f d) := by
  unfold storeFrame
  repeat' first
      | with_reducible assumption | with_reducible exact Framed.sub rfl hL | with_reducible intro _
      | with_reducible apply attend_framed | with_reducible apply setObj_framed
      | with_reducible apply onlyIf_framed | with_reducible apply bump_framed | with_reducible apply ite_framed
      | split | dsimp only [id]

theorem rateDetected_framed (c : CanId) (d : Dev) (hL : ∀ p ∈ ([.out, .regs, .can, .recd, .ints, .counters]
    : List Part), p ∈ L) (hd : Framed L base d) : Framed L base (rateDetected c d) := by
  unfold rateDetected
  repeat' first
      | with_reducible assumption | with_reducible exact Framed.sub rfl hL
      | with_reducible apply setCanState_framed | with_reducible apply onCan_framed
      | with_reducible apply raise_framed | with_reducible apply setReg_framed

theorem receiveError_framed (c : CanId) (e : CanError) (d : Dev) (hL : ∀ p ∈
    ([.fresh, .out, .regs, .fab, .queues, .sched, .can, .gw, .chk, .recd, .host, .ints, .counters]
    : List Part), p ∈ L) (hd : Framed L base d) : Framed L base (receiveError c e d) := by
  unfold receiveError
  repeat' first
      | with_reducible assumption | with_reducible exact Framed.sub rfl hL | with_reducible apply gwSweep_framed
      | with_reducible apply protocolException_framed | with_reducible apply noteCanError_framed
      | with_reducible apply judgeErrors_framed | with_reducible apply onCan_framed
      | with_reducible apply ite_framed | dsimp only [id]

theorem execCanFrameReceived_framed (c : CanId) (f : CanFrame) (s : State)
    : DoesFramed [.fresh, .out, .regs, .fab, .queues, .sched, .can, .gw, .chk, .recd, .host, .ints, .counters] s
    (execCanFrameReceived c f s) := by
  unfold execCanFrameReceived
  first | with_reducible apply does_framed | (with_reducible refine doesJudged_framed _ _ ?_ rfl) | skip
  all_goals (try (intro L base d hL hd ; beta_reduce))
  repeat' first
      | with_reducible assumption | with_reducible exact Framed.sub rfl hL | with_reducible apply receiveError_framed
      | with_reducible apply rateDetected_framed | with_reducible apply storeFrame_framed
      | with_reducible apply gwSweep_framed | with_reducible apply recAfterFrame_framed
      | with_reducible apply judgeErrors_framed | with_reducible apply setAlone_framed
      | with_reducible apply onCan_framed | with_reducible apply countEv_framed | with_reducible apply bump_framed
      | with_reducible apply ite_framed

theorem execCanReceiveError_framed (c : CanId) (e : CanError) (s : State)
    : DoesFramed [.fresh, .out, .regs, .fab, .queues, .sched, .can, .gw, .chk, .recd, .host, .ints, .counters] s
    (execCanReceiveError c e s) := by
  unfold execCanReceiveError
  first | with_reducible apply does_framed | (with_reducible refine doesJudged_framed _ _ ?_ rfl) | skip
  all_goals (try (intro L base d hL hd ; beta_reduce))
  repeat' first
      | with_reducible assumption | with_reducible exact Framed.sub rfl hL | with_reducible apply receiveError_framed

theorem execIntegrationComplete_framed (c : CanId) (s : State) : DoesFramed [.out, .can, .ints] s
    (execIntegrationComplete c s) := by
  unfold execIntegrationComplete
  first | with_reducible apply does_framed | (with_reducible refine doesJudged_framed _ _ ?_ rfl) | skip
  all_goals (try (intro L base d hL hd ; beta_reduce))
  repeat' first
      | with_reducible assumption | with_reducible apply setCanState_framed | with_reducible apply ite_framed

theorem execAttemptStart_framed (c : CanId) (s : State) : DoesFramed [.out, .can] s (execAttemptStart c s) := by
  unfold execAttemptStart
  first | with_reducible apply does_framed | (with_reducible refine doesJudged_framed _ _ ?_ rfl) | skip
  all_goals (try (intro L base d hL hd ; beta_reduce))
  repeat' first
      | with_reducible assumption | with_reducible exact Framed.sub rfl hL | with_reducible apply setObj_framed
      | with_reducible apply onCan_framed | with_reducible apply emit_framed | with_reducible apply ite_framed
      | split

theorem dropRenewed_framed (c : CanId) (o : Nat) (d : Dev) (hL : ∀ p ∈ ([.can] : List Part), p ∈ L) (hd
    : Framed L base d) : Framed L base (dropRenewed c o d) := by
  unfold dropRenewed
  repeat' first
      | with_reducible assumption | with_reducible exact Framed.sub rfl hL | with_reducible apply setObj_framed
      | with_reducible apply onCan_framed | with_reducible apply ite_framed

theorem endAttempt_framed (c : CanId) (o : Nat) (d : Dev) (hL : ∀ p ∈
    ([.fresh, .out, .regs, .fab, .queues, .sched, .can, .gw, .chk, .recd, .host, .ints, .counters]
    : List Part), p ∈ L) (hd : Framed L base d) : Framed L base (endAttempt c o d) := by
  unfold endAttempt
  repeat' first
      | with_reducible assumption | with_reducible exact Framed.sub rfl hL | with_reducible apply gwSweep_framed
      | with_reducible apply finishLeaving_framed | with_reducible apply dropRenewed_framed
      | with_reducible apply onCan_framed

theorem execArbitrationLost_framed (c : CanId) (s : State)
    : DoesFramed [.fresh, .out, .regs, .fab, .queues, .sched, .can, .gw, .chk, .recd, .host, .ints, .counters] s
    (execArbitrationLost c s) := by
  unfold execArbitrationLost
  first | with_reducible apply does_framed | (with_reducible refine doesJudged_framed _ _ ?_ rfl) | skip
  all_goals (try (intro L base d hL hd ; beta_reduce))
  repeat' first
      | with_reducible assumption | with_reducible exact Framed.sub rfl hL | with_reducible apply endAttempt_framed
      | with_reducible apply finishObj_framed | with_reducible apply setObj_framed
      | with_reducible apply onCan_framed | with_reducible apply bump_framed | with_reducible apply ite_framed
      | split

theorem execCanTransmitSuccess_framed (c : CanId) (delay : BitVec 8) (s : State)
    : DoesFramed [.fresh, .out, .regs, .fab, .queues, .sched, .can, .gw, .chk, .recd, .host, .ints, .counters] s
    (execCanTransmitSuccess c delay s) := by
  unfold execCanTransmitSuccess
  first | with_reducible apply does_framed | (with_reducible refine doesJudged_framed _ _ ?_ rfl) | skip
  all_goals (try (intro L base d hL hd ; beta_reduce))
  repeat' first
      | with_reducible assumption | with_reducible exact Framed.sub rfl hL | with_reducible apply endAttempt_framed
      | with_reducible apply judgeErrors_framed | with_reducible apply setAlone_framed
      | with_reducible apply finishObj_framed | with_reducible apply setObj_framed
      | with_reducible apply onCan_framed | with_reducible apply countEv_framed | with_reducible apply bump_framed
      | with_reducible apply setReg_framed | with_reducible apply ite_framed | split | dsimp only [id]

theorem noteAck_framed (c : CanId) (ack : Bool) (d : Dev) (hL : ∀ p ∈ ([.out, .regs, .can, .recd, .ints, .counters]
    : List Part), p ∈ L) (hd : Framed L base d) : Framed L base (noteAck c ack d) := by
  unfold noteAck
  repeat' first
      | with_reducible assumption | with_reducible exact Framed.sub rfl hL | with_reducible apply setAlone_framed
      | with_reducible apply onCan_framed | with_reducible apply raise_framed | with_reducible apply bump_framed
      | with_reducible apply ite_framed

theorem retryObj_framed (c : CanId) (o : Nat) (ack : Bool) (d : Dev) (hL : ∀ p ∈ ([.out, .regs, .can, .ints]
    : List Part), p ∈ L) (hd : Framed L base d) : Framed L base (retryObj c o ack d) := by
  unfold retryObj
  repeat' first
      | with_reducible assumption | with_reducible exact Framed.sub rfl hL | with_reducible apply finishObj_framed
      | with_reducible apply setObj_framed | with_reducible apply bump_framed | with_reducible apply ite_framed

theorem execCanTransmitError_framed (c : CanId) (e : CanError) (s : State)
    : DoesFramed [.fresh, .out, .regs, .fab, .queues, .sched, .can, .gw, .chk, .recd, .host, .ints, .counters] s
    (execCanTransmitError c e s) := by
  unfold execCanTransmitError
  first | with_reducible apply does_framed | (with_reducible refine doesJudged_framed _ _ ?_ rfl) | skip
  all_goals (try (intro L base d hL hd ; beta_reduce))
  repeat' first
      | with_reducible assumption | with_reducible exact Framed.sub rfl hL | with_reducible apply retryObj_framed
      | with_reducible apply noteAck_framed | with_reducible apply endAttempt_framed
      | with_reducible apply noteCanError_framed | with_reducible apply judgeErrors_framed
      | with_reducible apply onCan_framed | with_reducible apply ite_framed | split | dsimp only [id]

theorem execBusOffHoldOffEnd_framed (c : CanId) (s : State) : DoesFramed [.clock, .out, .can, .ints, .counters] s
    (execBusOffHoldOffEnd c s) := by
  unfold execBusOffHoldOffEnd
  first | with_reducible apply does_framed | (with_reducible refine doesJudged_framed _ _ ?_ rfl) | skip
  all_goals (try (intro L base d hL hd ; beta_reduce))
  repeat' first
      | with_reducible assumption | with_reducible exact Framed.sub rfl hL
      | with_reducible apply setCanState_framed | with_reducible apply onCan_framed
      | with_reducible apply arrive_framed | with_reducible apply ite_framed | split

theorem execBusOffRecoveryComplete_framed (c : CanId) (s : State)
    : DoesFramed [.out, .regs, .can, .recd, .ints, .counters] s (execBusOffRecoveryComplete c s) := by
  unfold execBusOffRecoveryComplete
  first | with_reducible apply does_framed | (with_reducible refine doesJudged_framed _ _ ?_ rfl) | skip
  all_goals (try (intro L base d hL hd ; beta_reduce))
  repeat' first
      | with_reducible assumption | with_reducible exact Framed.sub rfl hL
      | with_reducible apply setCanState_framed | with_reducible apply onCan_framed
      | with_reducible apply raise_framed | with_reducible apply ite_framed

theorem askRecovery_framed (c : CanId) (d : Dev) (hL : ∀ p ∈ ([.out, .can, .ints] : List Part), p ∈ L) (hd
    : Framed L base d) : Framed L base (askRecovery c d) := by
  unfold askRecovery
  repeat' first
      | with_reducible assumption | with_reducible exact Framed.sub rfl hL
      | with_reducible apply setCanState_framed | with_reducible apply onCan_framed
      | with_reducible apply ite_framed

theorem execCandidateDwellEnd_framed (c : CanId) (s : State)
    : DoesFramed [.clock, .out, .regs, .can, .recd, .ints, .counters] s (execCandidateDwellEnd c s) := by
  unfold execCandidateDwellEnd
  first | with_reducible apply does_framed | (with_reducible refine doesJudged_framed _ _ ?_ rfl) | skip
  all_goals (try (intro L base d hL hd ; beta_reduce))
  repeat' first
      | with_reducible assumption | with_reducible exact Framed.sub rfl hL | with_reducible apply onCan_framed
      | with_reducible apply raise_framed | with_reducible apply arrive_framed | with_reducible apply setReg_framed
      | with_reducible apply ite_framed | split

end Sys2Proof.Machine
end

