-- ==== Sys2Proof/Laws/Framed/SleepNeed.lean ====
section
/-! SUPPORT. Which parts of the device each function of Machine/SleepNeed.lean can change. -/

-- one declaration after the other: the package is also compiled as one text, in limited memory
set_option Elab.async false

set_option linter.all false

namespace Sys2Proof.Machine

variable {L : List Part} {base : Dev}

theorem onSleep_framed (f : SleepS → SleepS) (d : Dev) (hL : ∀ p ∈ ([.sleep] : List Part), p ∈ L) (hd
    : Framed L base d) : Framed L base (onSleep f d) := by
  have m0 : Part.sleep ∈ L := hL _ (.head _)
  unfold onSleep
  repeat' first
      | with_reducible assumption
      | (fail_if_no_progress ((with_reducible apply Framed.upd) ; (iterate 15 exact .inl rfl) ; exact .inr m0 ; (iterate 6 exact .inl rfl)))

theorem pokeKeepAlive_framed (d : Dev) (hL : ∀ p ∈ ([.sleep] : List Part), p ∈ L) (hd : Framed L base d)
    : Framed L base (pokeKeepAlive d) := by
  unfold pokeKeepAlive
  repeat' first | with_reducible assumption | with_reducible apply onSleep_framed | with_reducible apply ite_framed

theorem abortSleep_framed (d : Dev) (hL : ∀ p ∈ ([.out, .regs, .recd, .sleep, .ints, .counters] : List Part), p ∈ L)
    (hd : Framed L base d) : Framed L base (abortSleep d) := by
  unfold abortSleep
  repeat' first
      | with_reducible assumption | with_reducible exact Framed.sub rfl hL | with_reducible apply onSleep_framed
      | with_reducible apply raise_framed | with_reducible apply bump_framed

theorem noteSilence_framed (d : Dev) (hL : ∀ p ∈ ([.out, .regs, .recd, .sleep, .ints, .counters]
    : List Part), p ∈ L) (hd : Framed L base d) : Framed L base (noteSilence d) := by
  unfold noteSilence
  repeat' first
      | with_reducible assumption | with_reducible exact Framed.sub rfl hL | with_reducible intro _
      | with_reducible apply onSleep_framed | with_reducible apply forEach_framed
      | with_reducible apply raise_framed

theorem judgeSleep_framed (d0 : Dev) (hL : ∀ p ∈ ([.out, .regs, .recd, .sleep, .ints, .counters]
    : List Part), p ∈ L) (hd0 : Framed L base d0) : Framed L base (judgeSleep d0) := by
  unfold judgeSleep
  repeat' first
      | with_reducible assumption | with_reducible exact Framed.sub rfl hL
      | with_reducible apply noteSilence_framed | with_reducible apply abortSleep_framed
      | with_reducible apply pokeKeepAlive_framed | with_reducible apply onSleep_framed
      | with_reducible apply ite_framed | split | dsimp only [id]

theorem doesJudged_framed {A : List Part} (s : State) (f : Dev → Dev)
    (hf : ∀ (L : List Part) (base d : Dev), (∀ p ∈ A, p ∈ L) → Framed L base d → Framed L base (f d))
    (hA : (([.out, .regs, .recd, .sleep, .ints, .counters] : List Part).all (fun p => A.contains p)) = true) :
    DoesFramed A s (s.doesJudged f) :=
  does_framed s _ fun _ _ _ hL hd => judgeSleep_framed _ (Framed.sub hA hL) (hf _ _ _ hL hd)

end Sys2Proof.Machine
end

