-- ==== Sys2Proof/Laws/Framed/Inauguration.lean ====
section
/-! SUPPORT. Which parts of the device each function of Machine/Inauguration.lean can change. -/

-- one declaration after the other: the package is also compiled as one text, in limited memory
set_option Elab.async false

set_option linter.all false

namespace Sys2Proof.Machine

variable {L : List Part} {base : Dev}

theorem onInaug_framed (f : InaugS → InaugS) (d : Dev) (hL : ∀ p ∈ ([.inaug] : List Part), p ∈ L) (hd
    : Framed L base d) : Framed L base (onInaug f d) := by
  have m0 : Part.inaug ∈ L := hL _ (.head _)
  unfold onInaug
  repeat' first
      | with_reducible assumption
      | (fail_if_no_progress ((with_reducible apply Framed.upd) ; (iterate 5 exact .inl rfl) ; exact .inr m0 ; (iterate 16 exact .inl rfl)))

theorem onBack_framed (p : Port) (f : BackPort → BackPort) (d : Dev) (hL : ∀ p ∈ ([.inaug] : List Part), p ∈ L) (hd
    : Framed L base d) : Framed L base (onBack p f d) := by
  unfold onBack
  repeat' first | with_reducible assumption | with_reducible apply onInaug_framed

theorem sendSc_framed (ports : List Port) (orig : Word48) (round seq : BitVec 16) (segment hops : Nat) (more : Bool)
    (b : ScBody) (d : Dev) (hL : ∀ p ∈ ([.out, .regs, .queues, .counters] : List Part), p ∈ L) (hd
    : Framed L base d) : Framed L base (sendSc ports orig round seq segment hops more b d) := by
  unfold sendSc
  repeat' first
      | with_reducible assumption | with_reducible exact Framed.sub rfl hL | with_reducible intro _
      | with_reducible apply sendOwn_framed | with_reducible apply forEach_framed
      | with_reducible apply emit_framed | with_reducible apply ite_framed

theorem createSc_framed (ports : List Port) (b : ScBody) (d : Dev) (hL : ∀ p ∈
    ([.out, .regs, .inaug, .queues, .counters] : List Part), p ∈ L) (hd : Framed L base d) : Framed L base
    (createSc ports b d) := by
  unfold createSc
  repeat' first
      | with_reducible assumption | with_reducible exact Framed.sub rfl hL | with_reducible apply sendSc_framed
      | with_reducible apply onInaug_framed

theorem passSc_framed (rear : Bool) (h : ScHeader) (more : Bool) (b : ScBody) (d : Dev) (hL : ∀ p ∈
    ([.out, .regs, .queues, .counters] : List Part), p ∈ L) (hd : Framed L base d) : Framed L base
    (passSc rear h more b d) := by
  unfold passSc
  repeat' first | with_reducible assumption | with_reducible apply sendSc_framed

theorem scHeard_framed (p : Port) (len : Nat) (f : Dev → Dev) (d : Dev) (hL : ∀ p ∈ ([.regs, .counters]
    : List Part), p ∈ L) (hf : ∀  (d : Dev), Framed L base d → Framed L base (f  d)) (hd : Framed L base d)
    : Framed L base (scHeard p len f d) := by
  unfold scHeard
  repeat' first
      | with_reducible assumption | with_reducible apply countGood_framed | with_reducible apply hf
      | with_reducible apply ite_framed

theorem takeSc_framed (kind : Nat) (p : Port) (h : ScHeader) (len : Nat) (wanted : Dev → Bool) (f : Dev → Dev) (d0
    : Dev) (hL : ∀ p ∈ ([.regs, .inaug, .counters] : List Part), p ∈ L) (hf : ∀  (d
    : Dev), Framed L base d → Framed L base (f  d)) (hd0 : Framed L base d0) : Framed L base
    (takeSc kind p h len wanted f d0) := by
  unfold takeSc
  repeat' first
      | with_reducible assumption | with_reducible exact Framed.sub rfl hL | with_reducible intro _
      | with_reducible apply scHeard_framed | with_reducible apply onInaug_framed
      | with_reducible apply bump_framed | with_reducible apply hf | with_reducible apply ite_framed

theorem dropCommit_framed (d : Dev) (hL : ∀ p ∈ ([.inaug, .sched, .strm] : List Part), p ∈ L) (hd : Framed L base d)
    : Framed L base (dropCommit d) := by
  unfold dropCommit
  repeat' first
      | with_reducible assumption | with_reducible exact Framed.sub rfl hL | with_reducible apply onInaug_framed
      | with_reducible apply onStrm_framed | with_reducible apply onSched_framed | with_reducible apply ite_framed

theorem sendClaim_framed (d : Dev) (hL : ∀ p ∈ ([.out, .regs, .inaug, .queues, .host, .ints, .counters]
    : List Part), p ∈ L) (hd : Framed L base d) : Framed L base (sendClaim d) := by
  unfold sendClaim
  repeat' first
      | with_reducible assumption | with_reducible exact Framed.sub rfl hL | with_reducible apply createSc_framed
      | with_reducible apply onInaug_framed

theorem enterRound_framed (round : BitVec 16) (lowest : Word48) (revealed : List Port) (d : Dev) (hL : ∀ p ∈
    ([.out, .regs, .inaug, .queues, .time, .sched, .strm, .host, .ints, .counters] : List Part), p ∈ L) (hd
    : Framed L base d) : Framed L base (enterRound round lowest revealed d) := by
  unfold enterRound
  repeat' first
      | with_reducible assumption | with_reducible exact Framed.sub rfl hL | with_reducible apply sendClaim_framed
      | with_reducible apply dropCommit_framed | with_reducible apply onInaug_framed
      | with_reducible apply timeRoundStart_framed

theorem startRoundFrom_framed (since : Nat) (revealed : List Port) (d : Dev) (hL : ∀ p ∈
    ([.out, .regs, .inaug, .queues, .time, .sched, .strm, .host, .ints, .counters] : List Part), p ∈ L) (hd
    : Framed L base d) : Framed L base (startRoundFrom since revealed d) := by
  unfold startRoundFrom
  repeat' first
      | with_reducible assumption | with_reducible exact Framed.sub rfl hL | with_reducible apply enterRound_framed
      | with_reducible apply onInaug_framed | with_reducible apply bump_framed

theorem startRound_framed (revealed : List Port) (d : Dev) (hL : ∀ p ∈
    ([.out, .regs, .inaug, .queues, .time, .sched, .strm, .host, .ints, .counters] : List Part), p ∈ L) (hd
    : Framed L base d) : Framed L base (startRound revealed d) := by
  unfold startRound
  repeat' first | with_reducible assumption | with_reducible apply startRoundFrom_framed

theorem joinRound_framed (since : Nat) (round : BitVec 16) (claimed : Word48) (d : Dev) (hL : ∀ p ∈
    ([.out, .regs, .inaug, .queues, .time, .sched, .strm, .host, .ints, .counters] : List Part), p ∈ L) (hd
    : Framed L base d) : Framed L base (joinRound since round claimed d) := by
  unfold joinRound
  repeat' first
      | with_reducible assumption | with_reducible exact Framed.sub rfl hL | with_reducible apply enterRound_framed
      | with_reducible apply onInaug_framed | with_reducible apply ite_framed

theorem joinHeld_framed (d : Dev) (hL : ∀ p ∈
    ([.out, .regs, .inaug, .queues, .time, .sched, .strm, .host, .ints, .counters] : List Part), p ∈ L) (hd
    : Framed L base d) : Framed L base (joinHeld d) := by
  unfold joinHeld
  repeat' first
      | with_reducible assumption | with_reducible exact Framed.sub rfl hL | with_reducible apply joinRound_framed
      | with_reducible apply onInaug_framed | with_reducible apply ite_framed | split

theorem enterStandard_framed (d : Dev) (hL : ∀ p ∈
    ([.out, .regs, .inaug, .time, .sched, .strm, .recd, .ints, .counters] : List Part), p ∈ L) (hd
    : Framed L base d) : Framed L base (enterStandard d) := by
  unfold enterStandard
  repeat' first
      | with_reducible assumption | with_reducible exact Framed.sub rfl hL | with_reducible apply dropCommit_framed
      | with_reducible apply onInaug_framed | with_reducible apply timeStandardHold_framed
      | with_reducible apply raise_framed | with_reducible apply bump_framed

theorem failRound_framed (d : Dev) (hL : ∀ p ∈
    ([.fresh, .out, .regs, .inaug, .queues, .time, .sched, .strm, .recd, .host, .ints, .counters]
    : List Part), p ∈ L) (hd : Framed L base d) : Framed L base (failRound d) := by
  unfold failRound
  repeat' first
      | with_reducible assumption | with_reducible exact Framed.sub rfl hL
      | with_reducible apply enterStandard_framed | with_reducible apply joinHeld_framed
      | with_reducible apply dropCommit_framed | with_reducible apply onInaug_framed
      | with_reducible apply raise_framed | with_reducible apply draw_framed | with_reducible apply bump_framed
      | with_reducible apply ite_framed

theorem abortRound_framed (cause : Nat) (d : Dev) (hL : ∀ p ∈
    ([.fresh, .out, .regs, .inaug, .queues, .time, .sched, .strm, .recd, .host, .ints, .counters]
    : List Part), p ∈ L) (hd : Framed L base d) : Framed L base (abortRound cause d) := by
  unfold abortRound
  repeat' first
      | with_reducible assumption | with_reducible exact Framed.sub rfl hL | with_reducible apply failRound_framed
      | with_reducible apply enterStandard_framed | with_reducible apply createSc_framed
      | with_reducible apply ite_framed

theorem holdChange_framed (config : Bool) (ports : List Port) (d : Dev) (hL : ∀ p ∈
    ([.out, .regs, .inaug, .recd, .ints, .counters] : List Part), p ∈ L) (hd : Framed L base d) : Framed L base
    (holdChange config ports d) := by
  unfold holdChange
  repeat' first
      | with_reducible assumption | with_reducible exact Framed.sub rfl hL | with_reducible apply onInaug_framed
      | with_reducible apply raise_framed

theorem onChange_framed (k : Change) (ports : List Port) (d : Dev) (hL : ∀ p ∈
    ([.fresh, .out, .regs, .inaug, .queues, .time, .sched, .strm, .recd, .host, .ints, .counters]
    : List Part), p ∈ L) (hd : Framed L base d) : Framed L base (onChange k ports d) := by
  unfold onChange
  repeat' first
      | with_reducible assumption | with_reducible exact Framed.sub rfl hL | with_reducible apply holdChange_framed
      | with_reducible apply abortRound_framed | with_reducible apply startRound_framed
      | with_reducible apply onInaug_framed | with_reducible apply timeStandardHold_framed
      | with_reducible apply ite_framed | split

theorem inhibitEnded_framed (d : Dev) (hL : ∀ p ∈
    ([.fresh, .out, .regs, .inaug, .queues, .time, .sched, .strm, .recd, .host, .ints, .counters]
    : List Part), p ∈ L) (hd : Framed L base d) : Framed L base (inhibitEnded d) := by
  unfold inhibitEnded
  repeat' first
      | with_reducible assumption | with_reducible exact Framed.sub rfl hL | with_reducible apply onChange_framed
      | with_reducible apply onInaug_framed | with_reducible apply ite_framed

theorem classifySide_framed (p : Port) (rear : Bool) (old : Option Word48 × Option Word48) (d : Dev) (hL : ∀ p ∈
    ([.fresh, .out, .regs, .inaug, .queues, .time, .sched, .strm, .recd, .host, .ints, .counters]
    : List Part), p ∈ L) (hd : Framed L base d) : Framed L base (classifySide p rear old d) := by
  unfold classifySide
  repeat' first
      | with_reducible assumption | with_reducible exact Framed.sub rfl hL | with_reducible intro _
      | with_reducible apply onChange_framed | with_reducible apply onInaug_framed
      | with_reducible apply onStrm_framed | with_reducible apply onlyIf_framed | with_reducible apply raise_framed
      | with_reducible apply bump_framed | with_reducible apply ite_framed

theorem hearOn_framed (p : Port) (n : Option Neighbour) (d : Dev) (hL : ∀ p ∈
    ([.fresh, .out, .regs, .inaug, .queues, .time, .sched, .strm, .recd, .host, .ints, .counters]
    : List Part), p ∈ L) (hd : Framed L base d) : Framed L base (hearOn p n d) := by
  unfold hearOn
  repeat' first
      | with_reducible assumption | with_reducible exact Framed.sub rfl hL
      | with_reducible apply classifySide_framed | with_reducible apply onBack_framed

theorem sendProbe_framed (p : Port) (d : Dev) (hL : ∀ p ∈ ([.out, .regs, .inaug, .queues, .counters]
    : List Part), p ∈ L) (hd : Framed L base d) : Framed L base (sendProbe p d) := by
  unfold sendProbe
  repeat' first
      | with_reducible assumption | with_reducible exact Framed.sub rfl hL | with_reducible apply createSc_framed
      | with_reducible apply onBack_framed

theorem sendTtdp_framed (p : Port) (dest type : Nat) (body : List Byte) (d : Dev) (hL : ∀ p ∈
    ([.regs, .queues, .counters] : List Part), p ∈ L) (hd : Framed L base d) : Framed L base
    (sendTtdp p dest type body d) := by
  unfold sendTtdp
  repeat' first | with_reducible assumption | with_reducible apply sendOwn_framed

theorem sendHello_framed (p : Port) (d : Dev) (hL : ∀ p ∈ ([.out, .regs, .inaug, .queues, .counters]
    : List Part), p ∈ L) (hd : Framed L base d) : Framed L base (sendHello p d) := by
  unfold sendHello
  repeat' first
      | with_reducible assumption | with_reducible exact Framed.sub rfl hL | with_reducible apply sendTtdp_framed
      | with_reducible apply onBack_framed | with_reducible apply emit_framed

theorem sendTopology_framed (p : Port) (d : Dev) (hL : ∀ p ∈ ([.out, .regs, .queues, .counters] : List Part), p ∈ L)
    (hd : Framed L base d) : Framed L base (sendTopology p d) := by
  unfold sendTopology
  repeat' first
      | with_reducible assumption | with_reducible exact Framed.sub rfl hL | with_reducible apply sendTtdp_framed
      | with_reducible apply emit_framed

theorem backboneUp_framed (p : Port) (d : Dev) (hL : ∀ p ∈ ([.out, .regs, .inaug, .queues, .counters]
    : List Part), p ∈ L) (hd : Framed L base d) : Framed L base (backboneUp p d) := by
  unfold backboneUp
  repeat' first
      | with_reducible assumption | with_reducible exact Framed.sub rfl hL | with_reducible apply sendHello_framed
      | with_reducible apply sendProbe_framed | with_reducible apply onBack_framed
      | with_reducible apply ite_framed

theorem backboneDown_framed (p : Port) (d : Dev) (hL : ∀ p ∈
    ([.fresh, .out, .regs, .inaug, .queues, .time, .sched, .strm, .recd, .host, .ints, .counters]
    : List Part), p ∈ L) (hd : Framed L base d) : Framed L base (backboneDown p d) := by
  unfold backboneDown
  repeat' first
      | with_reducible assumption | with_reducible exact Framed.sub rfl hL | with_reducible apply hearOn_framed
      | with_reducible apply onBack_framed | with_reducible apply ite_framed

theorem probeHeard_framed (p : Port) (h : ScHeader) (d : Dev) (hL : ∀ p ∈
    ([.fresh, .out, .regs, .inaug, .queues, .time, .sched, .strm, .recd, .host, .ints, .counters]
    : List Part), p ∈ L) (hd : Framed L base d) : Framed L base (probeHeard p h d) := by
  unfold probeHeard
  repeat' first
      | with_reducible assumption | with_reducible exact Framed.sub rfl hL | with_reducible apply hearOn_framed
      | with_reducible apply onBack_framed

theorem execProbe_framed (p : Port) (h : ScHeader) (_b : ProbeBody) (s : State)
    : DoesFramed [.fresh, .out, .regs, .inaug, .queues, .time, .sched, .strm, .recd, .sleep, .host, .ints, .counters] s
    (execProbe p h _b s) := by
  unfold execProbe
  first | with_reducible apply does_framed | (with_reducible refine doesJudged_framed _ _ ?_ rfl) | skip
  all_goals (try (intro L base d hL hd ; beta_reduce))
  repeat' first
      | with_reducible assumption | with_reducible exact Framed.sub rfl hL | with_reducible intro _
      | with_reducible apply probeHeard_framed | with_reducible apply scHeard_framed
      | with_reducible apply createSc_framed | with_reducible apply bump_framed | with_reducible apply ite_framed

theorem execProbeReply_framed (p : Port) (h : ScHeader) (_b : ProbeBody) (s : State)
    : DoesFramed [.fresh, .out, .regs, .inaug, .queues, .time, .sched, .strm, .recd, .sleep, .host, .ints, .counters] s
    (execProbeReply p h _b s) := by
  unfold execProbeReply
  first | with_reducible apply does_framed | (with_reducible refine doesJudged_framed _ _ ?_ rfl) | skip
  all_goals (try (intro L base d hL hd ; beta_reduce))
  repeat' first
      | with_reducible assumption | with_reducible exact Framed.sub rfl hL | with_reducible intro _
      | with_reducible apply probeHeard_framed | with_reducible apply scHeard_framed
      | with_reducible apply bump_framed | with_reducible apply ite_framed

theorem execProbeRepeat_framed (p : Port) (s : State)
    : DoesFramed [.clock, .fresh, .out, .regs, .inaug, .queues, .time, .sched, .strm, .recd, .sleep, .host, .ints, .counters] s
    (execProbeRepeat p s) := by
  unfold execProbeRepeat
  first | with_reducible apply does_framed | (with_reducible refine doesJudged_framed _ _ ?_ rfl) | skip
  all_goals (try (intro L base d hL hd ; beta_reduce))
  repeat' first
      | with_reducible assumption | with_reducible exact Framed.sub rfl hL | with_reducible apply sendProbe_framed
      | with_reducible apply onChange_framed | with_reducible apply onBack_framed
      | with_reducible apply arrive_framed | with_reducible apply ite_framed | split

theorem execProbeLoss_framed (p : Port) (s : State)
    : DoesFramed [.clock, .fresh, .out, .regs, .inaug, .queues, .time, .sched, .strm, .recd, .sleep, .host, .ints, .counters] s
    (execProbeLoss p s) := by
  unfold execProbeLoss
  first | with_reducible apply does_framed | (with_reducible refine doesJudged_framed _ _ ?_ rfl) | skip
  all_goals (try (intro L base d hL hd ; beta_reduce))
  repeat' first
      | with_reducible assumption | with_reducible exact Framed.sub rfl hL | with_reducible apply hearOn_framed
      | with_reducible apply arrive_framed | with_reducible apply ite_framed | split

theorem ttdpHeard_framed (p : Port) (body : List Byte) (f : Dev → Dev) (d : Dev) (hL : ∀ p ∈ ([.regs, .counters]
    : List Part), p ∈ L) (hf : ∀  (d : Dev), Framed L base d → Framed L base (f  d)) (hd : Framed L base d)
    : Framed L base (ttdpHeard p body f d) := by
  unfold ttdpHeard
  repeat' first
      | with_reducible assumption | with_reducible apply countGood_framed | with_reducible apply hf
      | with_reducible apply ite_framed

theorem execHello_framed (p : Port) (sender : Word48) (fast : Bool) (s : State)
    : DoesFramed [.fresh, .out, .regs, .inaug, .queues, .time, .sched, .strm, .recd, .sleep, .host, .ints, .counters] s
    (execHello p sender fast s) := by
  unfold execHello
  first | with_reducible apply does_framed | (with_reducible refine doesJudged_framed _ _ ?_ rfl) | skip
  all_goals (try (intro L base d hL hd ; beta_reduce))
  repeat' first
      | with_reducible assumption | with_reducible exact Framed.sub rfl hL | with_reducible intro _
      | with_reducible apply ttdpHeard_framed | with_reducible apply hearOn_framed
      | with_reducible apply onBack_framed | with_reducible apply ite_framed

theorem execHelloPeriod_framed (p : Port) (s : State)
    : DoesFramed [.clock, .out, .regs, .inaug, .queues, .counters] s (execHelloPeriod p s) := by
  unfold execHelloPeriod
  first | with_reducible apply does_framed | (with_reducible refine doesJudged_framed _ _ ?_ rfl) | skip
  all_goals (try (intro L base d hL hd ; beta_reduce))
  repeat' first
      | with_reducible assumption | with_reducible exact Framed.sub rfl hL | with_reducible apply sendHello_framed
      | with_reducible apply onBack_framed | with_reducible apply arrive_framed | with_reducible apply ite_framed
      | split

theorem execHelloTimeout_framed (p : Port) (s : State)
    : DoesFramed [.clock, .fresh, .out, .regs, .inaug, .queues, .time, .sched, .strm, .recd, .sleep, .host, .ints, .counters] s
    (execHelloTimeout p s) := by
  unfold execHelloTimeout
  first | with_reducible apply does_framed | (with_reducible refine doesJudged_framed _ _ ?_ rfl) | skip
  all_goals (try (intro L base d hL hd ; beta_reduce))
  repeat' first
      | with_reducible assumption | with_reducible exact Framed.sub rfl hL | with_reducible apply hearOn_framed
      | with_reducible apply arrive_framed | with_reducible apply ite_framed | split

theorem execTopology_framed (p : Port) (sender : Word48) (topo : BitVec 32) (inhibit : Bool) (s : State)
    : DoesFramed [.fresh, .out, .regs, .inaug, .queues, .time, .sched, .strm, .recd, .sleep, .host, .ints, .counters] s
    (execTopology p sender topo inhibit s) := by
  unfold execTopology
  first | with_reducible apply does_framed | (with_reducible refine doesJudged_framed _ _ ?_ rfl) | skip
  all_goals (try (intro L base d hL hd ; beta_reduce))
  repeat' first
      | with_reducible assumption | with_reducible exact Framed.sub rfl hL | with_reducible intro _
      | with_reducible apply ttdpHeard_framed | with_reducible apply inhibitEnded_framed
      | with_reducible apply onInaug_framed | with_reducible apply ite_framed

theorem takeClaim_framed (h : ScHeader) (low : Word48) (d : Dev) (hL : ∀ p ∈
    ([.out, .regs, .inaug, .queues, .time, .sched, .strm, .host, .ints, .counters] : List Part), p ∈ L) (hd
    : Framed L base d) : Framed L base (takeClaim h low d) := by
  unfold takeClaim
  repeat' first
      | with_reducible assumption | with_reducible exact Framed.sub rfl hL | with_reducible apply joinRound_framed
      | with_reducible apply sendClaim_framed | with_reducible apply onInaug_framed
      | with_reducible apply ite_framed | split

theorem execClaim_framed (p : Port) (h : ScHeader) (lowest : Word48) (s : State)
    : DoesFramed [.out, .regs, .inaug, .queues, .time, .sched, .strm, .recd, .sleep, .host, .ints, .counters] s
    (execClaim p h lowest s) := by
  unfold execClaim
  first | with_reducible apply does_framed | (with_reducible refine doesJudged_framed _ _ ?_ rfl) | skip
  all_goals (try (intro L base d hL hd ; beta_reduce))
  repeat' first
      | with_reducible assumption | with_reducible exact Framed.sub rfl hL | with_reducible intro _
      | with_reducible apply takeClaim_framed | with_reducible apply takeSc_framed

theorem reportsHeld_framed (d : Dev) (hL : ∀ p ∈
    ([.fresh, .out, .regs, .inaug, .queues, .time, .sched, .strm, .recd, .host, .ints, .counters]
    : List Part), p ∈ L) (hd : Framed L base d) : Framed L base (reportsHeld d) := by
  unfold reportsHeld
  repeat' first
      | with_reducible assumption | with_reducible exact Framed.sub rfl hL | with_reducible intro _
      | with_reducible apply abortRound_framed | with_reducible apply createSc_framed
      | with_reducible apply onInaug_framed | with_reducible apply startResBuild_framed
      | with_reducible apply startGateBuild_framed | with_reducible apply onlyIf_framed
      | with_reducible apply raise_framed | with_reducible apply bump_framed | with_reducible apply ite_framed

theorem execSettleTimer_framed (s : State)
    : DoesFramed [.clock, .fresh, .out, .regs, .inaug, .queues, .time, .sched, .strm, .recd, .sleep, .host, .ints, .counters] s
    (execSettleTimer s) := by
  unfold execSettleTimer
  first | with_reducible apply does_framed | (with_reducible refine doesJudged_framed _ _ ?_ rfl) | skip
  all_goals (try (intro L base d hL hd ; beta_reduce))
  repeat' first
      | with_reducible assumption | with_reducible exact Framed.sub rfl hL
      | with_reducible apply reportsHeld_framed | with_reducible apply createSc_framed
      | with_reducible apply onInaug_framed | with_reducible apply arrive_framed | with_reducible apply ite_framed
      | split

theorem execCensus_framed (p : Port) (h : ScHeader) (s : State)
    : DoesFramed [.out, .regs, .inaug, .queues, .recd, .sleep, .ints, .counters] s (execCensus p h s) := by
  unfold execCensus
  first | with_reducible apply does_framed | (with_reducible refine doesJudged_framed _ _ ?_ rfl) | skip
  all_goals (try (intro L base d hL hd ; beta_reduce))
  repeat' first
      | with_reducible assumption | with_reducible exact Framed.sub rfl hL | with_reducible intro _
      | with_reducible apply takeSc_framed | with_reducible apply passSc_framed
      | with_reducible apply createSc_framed | with_reducible apply onInaug_framed
      | with_reducible apply ite_framed

theorem execReport_framed (p : Port) (h : ScHeader) (recs : List CensusRec) (s : State)
    : DoesFramed [.fresh, .out, .regs, .inaug, .queues, .time, .sched, .strm, .recd, .sleep, .host, .ints, .counters] s
    (execReport p h recs s) := by
  unfold execReport
  first | with_reducible apply does_framed | (with_reducible refine doesJudged_framed _ _ ?_ rfl) | skip
  all_goals (try (intro L base d hL hd ; beta_reduce))
  repeat' first
      | with_reducible assumption | with_reducible exact Framed.sub rfl hL | with_reducible intro _
      | with_reducible apply reportsHeld_framed | with_reducible apply takeSc_framed
      | with_reducible apply passSc_framed | with_reducible apply onInaug_framed | with_reducible apply ite_framed

theorem execCensusTimeout_framed (s : State)
    : DoesFramed [.clock, .fresh, .out, .regs, .inaug, .queues, .time, .sched, .strm, .recd, .sleep, .host, .ints, .counters] s
    (execCensusTimeout s) := by
  unfold execCensusTimeout
  first | with_reducible apply does_framed | (with_reducible refine doesJudged_framed _ _ ?_ rfl) | skip
  all_goals (try (intro L base d hL hd ; beta_reduce))
  repeat' first
      | with_reducible assumption | with_reducible exact Framed.sub rfl hL | with_reducible apply abortRound_framed
      | with_reducible apply arrive_framed | split

theorem acceptCommit_framed (p : Port) (h : ScHeader) (b : CommitBody) (ids : List DirIds) (late : Bool) (d : Dev)
    (hL : ∀ p ∈ ([.inaug, .sched, .strm] : List Part), p ∈ L) (hd : Framed L base d) : Framed L base
    (acceptCommit p h b ids late d) := by
  unfold acceptCommit
  repeat' first
      | with_reducible assumption | with_reducible exact Framed.sub rfl hL | with_reducible apply onInaug_framed
      | with_reducible apply startResBuild_framed | with_reducible apply startGateBuild_framed

theorem retimeCommit_framed (p : Port) (h : ScHeader) (b : CommitBody) (d : Dev) (hL : ∀ p ∈ ([.inaug]
    : List Part), p ∈ L) (hd : Framed L base d) : Framed L base (retimeCommit p h b d) := by
  unfold retimeCommit
  repeat' first | with_reducible assumption | with_reducible apply onInaug_framed | with_reducible apply ite_framed

theorem takeCommit_framed (p : Port) (h : ScHeader) (b : CommitBody) (ids : List DirIds) (d : Dev) (hL : ∀ p ∈
    ([.fresh, .out, .regs, .inaug, .queues, .sched, .strm, .counters] : List Part), p ∈ L) (hd : Framed L base d)
    : Framed L base (takeCommit p h b ids d) := by
  unfold takeCommit
  repeat' first
      | with_reducible assumption | with_reducible exact Framed.sub rfl hL
      | with_reducible apply acceptCommit_framed | with_reducible apply passSc_framed
      | with_reducible apply createSc_framed | with_reducible apply draw_framed | with_reducible apply ite_framed

theorem execSpringcountCommit_framed (p : Port) (h : ScHeader) (b : CommitFrame) (s : State)
    : DoesFramed [.fresh, .out, .regs, .inaug, .queues, .sched, .strm, .recd, .sleep, .ints, .counters] s
    (execSpringcountCommit p h b s) := by
  unfold execSpringcountCommit
  first | with_reducible apply does_framed | (with_reducible refine doesJudged_framed _ _ ?_ rfl) | skip
  all_goals (try (intro L base d hL hd ; beta_reduce))
  repeat' first
      | with_reducible assumption | with_reducible exact Framed.sub rfl hL | with_reducible intro _
      | with_reducible apply takeCommit_framed | with_reducible apply retimeCommit_framed
      | with_reducible apply acceptCommit_framed | with_reducible apply takeSc_framed
      | with_reducible apply scHeard_framed | with_reducible apply onlyIf_framed | with_reducible apply bump_framed
      | with_reducible apply ite_framed

theorem execAck_framed (p : Port) (h : ScHeader) (count : BitVec 16) (epoch : BitVec 16) (s : State)
    : DoesFramed [.out, .regs, .inaug, .queues, .recd, .sleep, .ints, .counters] s (execAck p h count epoch s) := by
  unfold execAck
  first | with_reducible apply does_framed | (with_reducible refine doesJudged_framed _ _ ?_ rfl) | skip
  all_goals (try (intro L base d hL hd ; beta_reduce))
  repeat' first
      | with_reducible assumption | with_reducible exact Framed.sub rfl hL | with_reducible intro _
      | with_reducible apply takeSc_framed | with_reducible apply passSc_framed
      | with_reducible apply onInaug_framed | split

theorem execAckDeadline_framed (s : State)
    : DoesFramed [.clock, .fresh, .out, .regs, .inaug, .queues, .time, .sched, .strm, .recd, .sleep, .host, .ints, .counters] s
    (execAckDeadline s) := by
  unfold execAckDeadline
  first | with_reducible apply does_framed | (with_reducible refine doesJudged_framed _ _ ?_ rfl) | skip
  all_goals (try (intro L base d hL hd ; beta_reduce))
  repeat' first
      | with_reducible assumption | with_reducible exact Framed.sub rfl hL | with_reducible apply abortRound_framed
      | with_reducible apply onInaug_framed | with_reducible apply arrive_framed | with_reducible apply ite_framed
      | split

theorem execAbort_framed (p : Port) (h : ScHeader) (cause : BitVec 8) (epoch : BitVec 16) (s : State)
    : DoesFramed [.fresh, .out, .regs, .inaug, .queues, .time, .sched, .strm, .recd, .sleep, .host, .ints, .counters] s
    (execAbort p h cause epoch s) := by
  unfold execAbort
  first | with_reducible apply does_framed | (with_reducible refine doesJudged_framed _ _ ?_ rfl) | skip
  all_goals (try (intro L base d hL hd ; beta_reduce))
  repeat' first
      | with_reducible assumption | with_reducible exact Framed.sub rfl hL | with_reducible intro _
      | with_reducible apply failRound_framed | with_reducible apply enterStandard_framed
      | with_reducible apply takeSc_framed | with_reducible apply passSc_framed | with_reducible apply ite_framed

theorem execCensusWaitTimeout_framed (s : State)
    : DoesFramed [.clock, .fresh, .out, .regs, .inaug, .queues, .time, .sched, .strm, .recd, .sleep, .host, .ints, .counters] s
    (execCensusWaitTimeout s) := by
  unfold execCensusWaitTimeout
  first | with_reducible apply does_framed | (with_reducible refine doesJudged_framed _ _ ?_ rfl) | skip
  all_goals (try (intro L base d hL hd ; beta_reduce))
  repeat' first
      | with_reducible assumption | with_reducible exact Framed.sub rfl hL | with_reducible apply failRound_framed
      | with_reducible apply arrive_framed | split

theorem execCommitWaitTimeout_framed (s : State)
    : DoesFramed [.clock, .fresh, .out, .regs, .inaug, .queues, .time, .sched, .strm, .recd, .sleep, .host, .ints, .counters] s
    (execCommitWaitTimeout s) := by
  unfold execCommitWaitTimeout
  first | with_reducible apply does_framed | (with_reducible refine doesJudged_framed _ _ ?_ rfl) | skip
  all_goals (try (intro L base d hL hd ; beta_reduce))
  repeat' first
      | with_reducible assumption | with_reducible exact Framed.sub rfl hL | with_reducible apply failRound_framed
      | with_reducible apply arrive_framed | split

theorem execBackOffEnd_framed (s : State)
    : DoesFramed [.clock, .out, .regs, .inaug, .queues, .time, .sched, .strm, .recd, .sleep, .host, .ints, .counters] s
    (execBackOffEnd s) := by
  unfold execBackOffEnd
  first | with_reducible apply does_framed | (with_reducible refine doesJudged_framed _ _ ?_ rfl) | skip
  all_goals (try (intro L base d hL hd ; beta_reduce))
  repeat' first
      | with_reducible assumption | with_reducible exact Framed.sub rfl hL | with_reducible apply startRound_framed
      | with_reducible apply arrive_framed | split

theorem pairAtSwitch_framed (d : Dev) (hL : ∀ p ∈ ([.inaug] : List Part), p ∈ L) (hd : Framed L base d)
    : Framed L base (pairAtSwitch d) := by
  unfold pairAtSwitch
  repeat' first | with_reducible assumption | with_reducible apply onInaug_framed

theorem switchEpoch_framed (n : Numbering) (leader : Word48) (d : Dev) (hL : ∀ p ∈
    ([.fresh, .out, .regs, .inaug, .fab, .queues, .ports, .time, .sched, .strm, .recd, .ints, .health, .counters]
    : List Part), p ∈ L) (hd : Framed L base d) : Framed L base (switchEpoch n leader d) := by
  unfold switchEpoch
  repeat' first
      | with_reducible assumption | with_reducible exact Framed.sub rfl hL | with_reducible intro _
      | with_reducible apply pairAtSwitch_framed | with_reducible apply sendTopology_framed
      | with_reducible apply onInaug_framed | with_reducible apply strmEpochSwitch_framed
      | with_reducible apply schedEpochSwitch_framed | with_reducible apply timeEpochSwitch_framed
      | with_reducible apply switchBank_framed | with_reducible apply onlyIf_framed
      | with_reducible apply forEach_framed | with_reducible apply raise_framed
      | with_reducible apply snapshot_framed | with_reducible apply setInt_framed
      | with_reducible apply bump_framed

theorem afterSwitch_framed (d : Dev) (hL : ∀ p ∈
    ([.out, .regs, .inaug, .queues, .time, .sched, .strm, .host, .ints, .counters] : List Part), p ∈ L) (hd
    : Framed L base d) : Framed L base (afterSwitch d) := by
  unfold afterSwitch
  repeat' first
      | with_reducible assumption | with_reducible apply joinHeld_framed
      | with_reducible apply startRoundFrom_framed | with_reducible apply ite_framed | split | dsimp only [id]

theorem execSwitchPoint_framed (s : State)
    : DoesFramed [.clock, .fresh, .out, .regs, .inaug, .fab, .queues, .ports, .time, .sched, .strm, .recd, .sleep, .host, .ints, .health, .counters] s
    (execSwitchPoint s) := by
  unfold execSwitchPoint
  first | with_reducible apply does_framed | (with_reducible refine doesJudged_framed _ _ ?_ rfl) | skip
  all_goals (try (intro L base d hL hd ; beta_reduce))
  repeat' first
      | with_reducible assumption | with_reducible exact Framed.sub rfl hL
      | with_reducible apply afterSwitch_framed | with_reducible apply switchEpoch_framed
      | with_reducible apply onInaug_framed | with_reducible apply arrive_framed | with_reducible apply bump_framed
      | with_reducible apply setReg_framed | with_reducible apply ite_framed | split

theorem execOverlapEnd_framed (s : State) : DoesFramed [.clock, .inaug, .fab, .counters] s (execOverlapEnd s) := by
  unfold execOverlapEnd
  first | with_reducible apply does_framed | (with_reducible refine doesJudged_framed _ _ ?_ rfl) | skip
  all_goals (try (intro L base d hL hd ; beta_reduce))
  repeat' first
      | with_reducible assumption | with_reducible exact Framed.sub rfl hL | with_reducible apply onInaug_framed
      | with_reducible apply clearOldBank_framed | with_reducible apply arrive_framed | split

theorem execTtdpTopologyValid_framed (t : TtdpTopology) (s : State)
    : DoesFramed [.fresh, .out, .regs, .inaug, .fab, .queues, .ports, .time, .sched, .strm, .recd, .ints, .health, .counters] s
    (execTtdpTopologyValid t s) := by
  unfold execTtdpTopologyValid
  first | with_reducible apply does_framed | (with_reducible refine doesJudged_framed _ _ ?_ rfl) | skip
  all_goals (try (intro L base d hL hd ; beta_reduce))
  repeat' first
      | with_reducible assumption | with_reducible apply switchEpoch_framed | with_reducible apply ite_framed

theorem askCommit_framed (d : Dev) (hL : ∀ p ∈
    ([.out, .regs, .inaug, .queues, .time, .sched, .strm, .host, .ints, .counters] : List Part), p ∈ L) (hd
    : Framed L base d) : Framed L base (askCommit d) := by
  unfold askCommit
  repeat' first
      | with_reducible assumption | with_reducible exact Framed.sub rfl hL | with_reducible apply joinHeld_framed
      | with_reducible apply startRound_framed | with_reducible apply createSc_framed
      | with_reducible apply onInaug_framed | split | dsimp only [id]

theorem inaugSafeHigh_framed (d : Dev) (hL : ∀ p ∈
    ([.out, .regs, .inaug, .queues, .time, .sched, .strm, .recd, .sleep, .host, .ints, .counters]
    : List Part), p ∈ L) (hd : Framed L base d) : Framed L base (inaugSafeHigh d) := by
  unfold inaugSafeHigh
  repeat' first
      | with_reducible assumption | with_reducible exact Framed.sub rfl hL | with_reducible apply askCommit_framed
      | with_reducible apply judgeSleep_framed | with_reducible apply ite_framed

theorem execCommitRequest_framed (p : Port) (h : ScHeader) (_epoch : BitVec 16) (s : State)
    : DoesFramed [.out, .regs, .inaug, .queues, .counters] s (execCommitRequest p h _epoch s) := by
  unfold execCommitRequest
  first | with_reducible apply does_framed | (with_reducible refine doesJudged_framed _ _ ?_ rfl) | skip
  all_goals (try (intro L base d hL hd ; beta_reduce))
  repeat' first
      | with_reducible assumption | with_reducible exact Framed.sub rfl hL | with_reducible intro _
      | with_reducible apply takeSc_framed | with_reducible apply sendSc_framed
      | with_reducible apply onInaug_framed | split

theorem execCommitRequestTimeout_framed (s : State)
    : DoesFramed [.clock, .out, .regs, .inaug, .queues, .time, .sched, .strm, .recd, .sleep, .host, .ints, .counters] s
    (execCommitRequestTimeout s) := by
  unfold execCommitRequestTimeout
  first | with_reducible apply does_framed | (with_reducible refine doesJudged_framed _ _ ?_ rfl) | skip
  all_goals (try (intro L base d hL hd ; beta_reduce))
  repeat' first
      | with_reducible assumption | with_reducible exact Framed.sub rfl hL | with_reducible apply askCommit_framed
      | with_reducible apply arrive_framed | split

theorem addRequester_framed (who : Word48) (expiry : Option Nat) (d : Dev) (hL : ∀ p ∈ ([.regs, .inaug]
    : List Part), p ∈ L) (hd : Framed L base d) : Framed L base (addRequester who expiry d) := by
  unfold addRequester
  repeat' first
      | with_reducible assumption | with_reducible exact Framed.sub rfl hL | with_reducible apply onInaug_framed
      | with_reducible apply bump_framed | with_reducible apply ite_framed

theorem removeRequester_framed (who : Word48) (d : Dev) (hL : ∀ p ∈
    ([.fresh, .out, .regs, .inaug, .queues, .time, .sched, .strm, .recd, .host, .ints, .counters]
    : List Part), p ∈ L) (hd : Framed L base d) : Framed L base (removeRequester who d) := by
  unfold removeRequester
  repeat' first
      | with_reducible assumption | with_reducible exact Framed.sub rfl hL
      | with_reducible apply inhibitEnded_framed | with_reducible apply onInaug_framed

theorem execState_framed (p : Port) (h : ScHeader) (inhibit : Bool) (epoch : BitVec 16) (s : State)
    : DoesFramed [.fresh, .out, .regs, .inaug, .queues, .time, .sched, .strm, .recd, .sleep, .host, .ints, .counters] s
    (execState p h inhibit epoch s) := by
  unfold execState
  first | with_reducible apply does_framed | (with_reducible refine doesJudged_framed _ _ ?_ rfl) | skip
  all_goals (try (intro L base d hL hd ; beta_reduce))
  repeat' first
      | with_reducible assumption | with_reducible exact Framed.sub rfl hL | with_reducible intro _
      | with_reducible apply removeRequester_framed | with_reducible apply addRequester_framed
      | with_reducible apply takeSc_framed | with_reducible apply passSc_framed | with_reducible apply ite_framed

theorem sendState_framed (d : Dev) (hL : ∀ p ∈ ([.out, .regs, .inaug, .queues, .counters] : List Part), p ∈ L) (hd
    : Framed L base d) : Framed L base (sendState d) := by
  unfold sendState
  repeat' first | with_reducible assumption | with_reducible apply createSc_framed

theorem setInhibit_framed (on : Bool) (d : Dev) (hL : ∀ p ∈
    ([.fresh, .out, .regs, .inaug, .queues, .time, .sched, .strm, .recd, .sleep, .host, .ints, .counters]
    : List Part), p ∈ L) (hd : Framed L base d) : Framed L base (setInhibit on d) := by
  unfold setInhibit
  repeat' first
      | with_reducible assumption | with_reducible exact Framed.sub rfl hL | with_reducible apply sendState_framed
      | with_reducible apply removeRequester_framed | with_reducible apply addRequester_framed
      | with_reducible apply onInaug_framed | with_reducible apply judgeSleep_framed
      | with_reducible apply setReg_framed | with_reducible apply ite_framed

theorem execStateRepeat_framed (s : State) : DoesFramed [.clock, .out, .regs, .inaug, .queues, .counters] s
    (execStateRepeat s) := by
  unfold execStateRepeat
  first | with_reducible apply does_framed | (with_reducible refine doesJudged_framed _ _ ?_ rfl) | skip
  all_goals (try (intro L base d hL hd ; beta_reduce))
  repeat' first
      | with_reducible assumption | with_reducible exact Framed.sub rfl hL | with_reducible apply sendState_framed
      | with_reducible apply addRequester_framed | with_reducible apply onInaug_framed
      | with_reducible apply arrive_framed | split

theorem execStateSilence_framed (requester : Word48) (s : State)
    : DoesFramed [.clock, .fresh, .out, .regs, .inaug, .queues, .time, .sched, .strm, .recd, .sleep, .host, .ints, .counters] s
    (execStateSilence requester s) := by
  unfold execStateSilence
  first | with_reducible apply does_framed | (with_reducible refine doesJudged_framed _ _ ?_ rfl) | skip
  all_goals (try (intro L base d hL hd ; beta_reduce))
  repeat' first
      | with_reducible assumption | with_reducible exact Framed.sub rfl hL
      | with_reducible apply removeRequester_framed | with_reducible apply arrive_framed | split

theorem setLeading_framed (v : Nat) (d : Dev) (hL : ∀ p ∈
    ([.fresh, .out, .regs, .inaug, .queues, .time, .sched, .strm, .recd, .sleep, .host, .ints, .counters]
    : List Part), p ∈ L) (hd : Framed L base d) : Framed L base (setLeading v d) := by
  unfold setLeading
  repeat' first
      | with_reducible assumption | with_reducible exact Framed.sub rfl hL | with_reducible apply onChange_framed
      | with_reducible apply judgeSleep_framed | with_reducible apply setReg_framed
      | with_reducible apply ite_framed

theorem execPair_framed (p : Port) (h : ScHeader) (primary : Bool) (_epoch : BitVec 16) (partner : Word48) (s
    : State) : DoesFramed [.regs, .inaug, .counters] s (execPair p h primary _epoch partner s) := by
  unfold execPair
  first | with_reducible apply does_framed | (with_reducible refine doesJudged_framed _ _ ?_ rfl) | skip
  all_goals (try (intro L base d hL hd ; beta_reduce))
  repeat' first
      | with_reducible assumption | with_reducible exact Framed.sub rfl hL | with_reducible intro _
      | with_reducible apply scHeard_framed | with_reducible apply onInaug_framed
      | with_reducible apply bump_framed | with_reducible apply ite_framed

theorem execPairPeriod_framed (s : State) : DoesFramed [.clock, .out, .regs, .inaug, .queues, .counters] s
    (execPairPeriod s) := by
  unfold execPairPeriod
  first | with_reducible apply does_framed | (with_reducible refine doesJudged_framed _ _ ?_ rfl) | skip
  all_goals (try (intro L base d hL hd ; beta_reduce))
  repeat' first
      | with_reducible assumption | with_reducible exact Framed.sub rfl hL | with_reducible apply createSc_framed
      | with_reducible apply onInaug_framed | with_reducible apply arrive_framed | with_reducible apply ite_framed
      | split

theorem execPairLoss_framed (s : State) : DoesFramed [.clock, .out, .regs, .inaug, .recd, .ints, .counters] s
    (execPairLoss s) := by
  unfold execPairLoss
  first | with_reducible apply does_framed | (with_reducible refine doesJudged_framed _ _ ?_ rfl) | skip
  all_goals (try (intro L base d hL hd ; beta_reduce))
  repeat' first
      | with_reducible assumption | with_reducible exact Framed.sub rfl hL | with_reducible apply onInaug_framed
      | with_reducible apply raise_framed | with_reducible apply arrive_framed | with_reducible apply bump_framed
      | with_reducible apply ite_framed | split

theorem startPair_framed (d : Dev) (hL : ∀ p ∈ ([.inaug] : List Part), p ∈ L) (hd : Framed L base d) : Framed L base
    (startPair d) := by
  unfold startPair
  repeat' first | with_reducible assumption | with_reducible apply onInaug_framed

theorem bootInaug_framed (d : Dev) (hL : ∀ p ∈
    ([.out, .regs, .inaug, .queues, .time, .sched, .strm, .recd, .sleep, .host, .ints, .counters]
    : List Part), p ∈ L) (hd : Framed L base d) : Framed L base (bootInaug d) := by
  unfold bootInaug
  repeat' first
      | with_reducible assumption | with_reducible exact Framed.sub rfl hL | with_reducible apply startPair_framed
      | with_reducible apply startRound_framed | with_reducible apply onInaug_framed
      | with_reducible apply judgeSleep_framed | with_reducible apply ite_framed

theorem applyInaug_framed (old : Dev) (d : Dev) (hL : ∀ p ∈
    ([.fresh, .out, .regs, .inaug, .queues, .time, .sched, .strm, .recd, .sleep, .host, .ints, .counters]
    : List Part), p ∈ L) (hold : Framed L base old) (hd : Framed L base d) : Framed L base (applyInaug old d) := by
  unfold applyInaug
  repeat' first
      | with_reducible assumption | with_reducible exact Framed.sub rfl hL | with_reducible intro _
      | with_reducible apply startPair_framed | with_reducible apply sendProbe_framed
      | with_reducible apply onChange_framed | with_reducible apply dropCommit_framed
      | with_reducible apply onBack_framed | with_reducible apply onInaug_framed
      | with_reducible apply judgeSleep_framed | with_reducible apply forEach_framed
      | with_reducible apply ite_framed

end Sys2Proof.Machine
end

