-- ==== Sys2Proof/Laws/Framed/Ports.lean ====
section
/-! SUPPORT. Which parts of the device each function of Machine/Ports.lean can change. -/

-- one declaration after the other: the package is also compiled as one text, in limited memory
set_option Elab.async false

set_option linter.all false

namespace Sys2Proof.Machine

variable {L : List Part} {base : Dev}

theorem adaptReceiver_framed (p : Port) (d : Dev) (hL : ∀ p ∈ ([.fresh, .ports] : List Part), p ∈ L) (hd
    : Framed L base d) : Framed L base (adaptReceiver p d) := by
  unfold adaptReceiver
  repeat' first
      | with_reducible assumption | with_reducible exact Framed.sub rfl hL | with_reducible apply onPort_framed
      | with_reducible apply draw_framed

theorem laneChange_framed (oldLane : Port) (p : Port) (d : Dev) (hL : ∀ p ∈ ([.sched, .strm] : List Part), p ∈ L)
    (hd : Framed L base d) : Framed L base (laneChange oldLane p d) := by
  unfold laneChange
  repeat' first
      | with_reducible assumption | with_reducible exact Framed.sub rfl hL
      | with_reducible apply startResBuild_framed | with_reducible apply laneRebuild_framed
      | with_reducible apply ite_framed

theorem enterUp_framed (p : Port) (d : Dev) (hL : ∀ p ∈
    ([.fresh, .out, .regs, .inaug, .queues, .ports, .time, .sched, .strm, .recd, .sleep, .ints, .counters]
    : List Part), p ∈ L) (hd : Framed L base d) : Framed L base (enterUp p d) := by
  unfold enterUp
  repeat' first
      | with_reducible assumption | with_reducible exact Framed.sub rfl hL | with_reducible apply laneChange_framed
      | with_reducible apply backboneUp_framed | with_reducible apply onSleep_framed
      | with_reducible apply sendOffers_framed | with_reducible apply timePortUp_framed
      | with_reducible apply onPort_framed | with_reducible apply raise_framed | with_reducible apply ite_framed

theorem loseLink_framed (p : Port) (d : Dev) (hL : ∀ p ∈
    ([.fresh, .out, .regs, .inaug, .queues, .ports, .time, .sched, .strm, .recd, .host, .ints, .counters]
    : List Part), p ∈ L) (hd : Framed L base d) : Framed L base (loseLink p d) := by
  unfold loseLink
  repeat' first
      | with_reducible assumption | with_reducible exact Framed.sub rfl hL | with_reducible intro _
      | with_reducible apply laneChange_framed | with_reducible apply backboneDown_framed
      | with_reducible apply timePortDown_framed | with_reducible apply sweepCells_framed
      | with_reducible apply discardPort_framed | with_reducible apply clearPause_framed
      | with_reducible apply onPort_framed | with_reducible apply onlyIf_framed | with_reducible apply raise_framed
      | with_reducible apply bump_framed

theorem leaveUp_framed (p : Port) (d : Dev) (hL : ∀ p ∈
    ([.fresh, .out, .regs, .inaug, .queues, .ports, .time, .sched, .strm, .recd, .host, .ints, .counters]
    : List Part), p ∈ L) (hd : Framed L base d) : Framed L base (leaveUp p d) := by
  unfold leaveUp
  repeat' first | with_reducible assumption | with_reducible apply loseLink_framed | with_reducible apply ite_framed

theorem enterAcquiring_framed (p : Port) (d : Dev) (hL : ∀ p ∈ ([.fresh, .ports] : List Part), p ∈ L) (hd
    : Framed L base d) : Framed L base (enterAcquiring p d) := by
  unfold enterAcquiring
  repeat' first
      | with_reducible assumption | with_reducible exact Framed.sub rfl hL
      | with_reducible apply adaptReceiver_framed | with_reducible apply onPort_framed

theorem judgeLane_framed (p : Port) (d0 : Dev) (hL : ∀ p ∈
    ([.fresh, .out, .regs, .inaug, .queues, .ports, .time, .sched, .strm, .recd, .sleep, .host, .ints, .counters]
    : List Part), p ∈ L) (hd0 : Framed L base d0) : Framed L base (judgeLane p d0) := by
  unfold judgeLane
  repeat' first
      | with_reducible assumption | with_reducible exact Framed.sub rfl hL | with_reducible apply loseLink_framed
      | with_reducible apply enterUp_framed | with_reducible apply onPort_framed | with_reducible apply ite_framed
      | split | dsimp only [id]

theorem execLaneUp_framed (p : Port) (s : State)
    : DoesFramed [.fresh, .out, .regs, .inaug, .queues, .ports, .time, .sched, .strm, .recd, .sleep, .host, .ints, .counters] s
    (execLaneUp p s) := by
  unfold execLaneUp
  first | with_reducible apply does_framed | (with_reducible refine doesJudged_framed _ _ ?_ rfl) | skip
  all_goals (try (intro L base d hL hd ; beta_reduce))
  repeat' first
      | with_reducible assumption | with_reducible exact Framed.sub rfl hL | with_reducible apply judgeLane_framed
      | with_reducible apply onPort_framed | split

theorem execLaneDown_framed (p : Port) (s : State)
    : DoesFramed [.fresh, .out, .regs, .inaug, .queues, .ports, .time, .sched, .strm, .recd, .sleep, .host, .ints, .counters] s
    (execLaneDown p s) := by
  unfold execLaneDown
  first | with_reducible apply does_framed | (with_reducible refine doesJudged_framed _ _ ?_ rfl) | skip
  all_goals (try (intro L base d hL hd ; beta_reduce))
  repeat' first
      | with_reducible assumption | with_reducible exact Framed.sub rfl hL | with_reducible apply judgeLane_framed
      | with_reducible apply onPort_framed | split

theorem execLinkDownDebounce_framed (p : Port) (s : State)
    : DoesFramed [.clock, .fresh, .out, .regs, .inaug, .queues, .ports, .time, .sched, .strm, .recd, .sleep, .host, .ints, .counters] s
    (execLinkDownDebounce p s) := by
  unfold execLinkDownDebounce
  first | with_reducible apply does_framed | (with_reducible refine doesJudged_framed _ _ ?_ rfl) | skip
  all_goals (try (intro L base d hL hd ; beta_reduce))
  repeat' first
      | with_reducible assumption | with_reducible exact Framed.sub rfl hL | with_reducible apply loseLink_framed
      | with_reducible apply arrive_framed | split

theorem execLinkUpHold_framed (p : Port) (s : State)
    : DoesFramed [.clock, .fresh, .out, .regs, .inaug, .queues, .ports, .time, .sched, .strm, .recd, .sleep, .ints, .counters] s
    (execLinkUpHold p s) := by
  unfold execLinkUpHold
  first | with_reducible apply does_framed | (with_reducible refine doesJudged_framed _ _ ?_ rfl) | skip
  all_goals (try (intro L base d hL hd ; beta_reduce))
  repeat' first
      | with_reducible assumption | with_reducible exact Framed.sub rfl hL | with_reducible apply enterUp_framed
      | with_reducible apply arrive_framed | split

theorem execAutoNegotiationRestart_framed (p : Port) (s : State) : DoesFramed [.clock, .ports, .counters] s
    (execAutoNegotiationRestart p s) := by
  unfold execAutoNegotiationRestart
  first | with_reducible apply does_framed | (with_reducible refine doesJudged_framed _ _ ?_ rfl) | skip
  all_goals (try (intro L base d hL hd ; beta_reduce))
  repeat' first
      | with_reducible assumption | with_reducible exact Framed.sub rfl hL | with_reducible apply onPort_framed
      | with_reducible apply arrive_framed | split

theorem mdio_framed (p : Port) (dev reg : Nat) (write : Option Nat) (d : Dev) (hL : ∀ p ∈ ([.out]
    : List Part), p ∈ L) (hd : Framed L base d) : Framed L base (mdio p dev reg write d) := by
  unfold mdio
  repeat' first | with_reducible assumption | with_reducible apply emit_framed

theorem scriptAccess_framed (p : Port) (r : PhyOp) (d : Dev) (hL : ∀ p ∈ ([.fresh, .out] : List Part), p ∈ L) (hd
    : Framed L base d) : Framed L base (scriptAccess p r d) := by
  unfold scriptAccess
  repeat' first
      | with_reducible assumption | with_reducible exact Framed.sub rfl hL | with_reducible apply mdio_framed
      | with_reducible apply draw_framed | split

theorem startScript_framed (p : Port) (d : Dev) (hL : ∀ p ∈ ([.fresh, .ports] : List Part), p ∈ L) (hd
    : Framed L base d) : Framed L base (startScript p d) := by
  unfold startScript
  repeat' first
      | with_reducible assumption | with_reducible exact Framed.sub rfl hL
      | with_reducible apply enterAcquiring_framed | with_reducible apply onPort_framed
      | with_reducible apply ite_framed

theorem scriptEnded_framed (p : Port) (d : Dev) (hL : ∀ p ∈ ([.ports] : List Part), p ∈ L) (hd : Framed L base d)
    : Framed L base (scriptEnded p d) := by
  have m0 : Part.ports ∈ L := hL _ (.head _)
  unfold scriptEnded
  repeat' first
      | with_reducible assumption | with_reducible intro _ | with_reducible apply onPort_framed
      | with_reducible apply forEach_framed | with_reducible apply ite_framed | dsimp only [id]
      | (fail_if_no_progress ((with_reducible apply Framed.upd) ; (iterate 7 exact .inl rfl) ; exact .inr m0 ; (iterate 14 exact .inl rfl)))

theorem scriptFails_framed (p : Port) (d : Dev) (hL : ∀ p ∈ ([.out, .regs, .ports, .recd, .ints, .counters]
    : List Part), p ∈ L) (hd : Framed L base d) : Framed L base (scriptFails p d) := by
  unfold scriptFails
  repeat' first
      | with_reducible assumption | with_reducible exact Framed.sub rfl hL
      | with_reducible apply scriptEnded_framed | with_reducible apply onPort_framed
      | with_reducible apply raise_framed

theorem execPhyScriptComplete_framed (p : Port) (ok : Bool) (record : BitVec 8) (s : State)
    : DoesFramed [.clock, .fresh, .out, .regs, .ports, .recd, .ints, .counters] s
    (execPhyScriptComplete p ok record s) := by
  unfold execPhyScriptComplete
  first | with_reducible apply does_framed | (with_reducible refine doesJudged_framed _ _ ?_ rfl) | skip
  all_goals (try (intro L base d hL hd ; beta_reduce))
  repeat' first
      | with_reducible assumption | with_reducible exact Framed.sub rfl hL | with_reducible intro _
      | with_reducible apply scriptFails_framed | with_reducible apply scriptEnded_framed
      | with_reducible apply scriptAccess_framed | with_reducible apply enterAcquiring_framed
      | with_reducible apply forEach_framed | with_reducible apply arrive_framed | with_reducible apply ite_framed
      | split

theorem execPhyScriptPollTimeout_framed (p : Port) (s : State)
    : DoesFramed [.clock, .fresh, .out, .regs, .ports, .recd, .ints, .counters] s
    (execPhyScriptPollTimeout p s) := by
  unfold execPhyScriptPollTimeout
  first | with_reducible apply does_framed | (with_reducible refine doesJudged_framed _ _ ?_ rfl) | skip
  all_goals (try (intro L base d hL hd ; beta_reduce))
  repeat' first
      | with_reducible assumption | with_reducible exact Framed.sub rfl hL | with_reducible intro _
      | with_reducible apply scriptFails_framed | with_reducible apply scriptAccess_framed
      | with_reducible apply forEach_framed | with_reducible apply arrive_framed | with_reducible apply draw_framed
      | split

theorem releaseGroup_framed (g : Fin 4) (d : Dev) (hL : ∀ p ∈ ([.ports] : List Part), p ∈ L) (hd : Framed L base d)
    : Framed L base (releaseGroup g d) := by
  have m0 : Part.ports ∈ L := hL _ (.head _)
  unfold releaseGroup
  repeat' first
      | with_reducible assumption | with_reducible apply ite_framed | dsimp only [id]
      | (fail_if_no_progress ((with_reducible apply Framed.upd) ; (iterate 7 exact .inl rfl) ; exact .inr m0 ; (iterate 14 exact .inl rfl)))

theorem awaitPhy_framed (p : Port) (d : Dev) (hL : ∀ p ∈ ([.fresh, .ports] : List Part), p ∈ L) (hd
    : Framed L base d) : Framed L base (awaitPhy p d) := by
  unfold awaitPhy
  repeat' first
      | with_reducible assumption | with_reducible exact Framed.sub rfl hL
      | with_reducible apply releaseGroup_framed | with_reducible apply startScript_framed
      | with_reducible apply onPort_framed | with_reducible apply ite_framed

theorem execPhyReleaseDelay_framed (p : Port) (s : State) : DoesFramed [.clock, .fresh, .ports, .counters] s
    (execPhyReleaseDelay p s) := by
  unfold execPhyReleaseDelay
  first | with_reducible apply does_framed | (with_reducible refine doesJudged_framed _ _ ?_ rfl) | skip
  all_goals (try (intro L base d hL hd ; beta_reduce))
  repeat' first
      | with_reducible assumption | with_reducible exact Framed.sub rfl hL
      | with_reducible apply startScript_framed | with_reducible apply arrive_framed | split

theorem planStatus_framed (p : Port) (d : Dev) (hL : ∀ p ∈ ([.ports] : List Part), p ∈ L) (hd : Framed L base d)
    : Framed L base (planStatus p d) := by
  unfold planStatus
  repeat' first | with_reducible assumption | with_reducible apply onPort_framed

theorem startPort_framed (p : Port) (d : Dev) (hL : ∀ p ∈ ([.fresh, .ports] : List Part), p ∈ L) (hd
    : Framed L base d) : Framed L base (startPort p d) := by
  unfold startPort
  repeat' first
      | with_reducible assumption | with_reducible exact Framed.sub rfl hL | with_reducible apply planStatus_framed
      | with_reducible apply awaitPhy_framed | with_reducible apply releaseGroup_framed
      | with_reducible apply enterAcquiring_framed | with_reducible apply ite_framed

theorem regroup_framed (g : Fin 4) (d : Dev) (hL : ∀ p ∈ ([.ports] : List Part), p ∈ L) (hd : Framed L base d)
    : Framed L base (regroup g d) := by
  have m0 : Part.ports ∈ L := hL _ (.head _)
  unfold regroup
  repeat' first
      | with_reducible assumption | with_reducible apply ite_framed | dsimp only [id]
      | (fail_if_no_progress ((with_reducible apply Framed.upd) ; (iterate 7 exact .inl rfl) ; exact .inr m0 ; (iterate 14 exact .inl rfl)))

theorem disablePort_framed (p : Port) (d : Dev) (hL : ∀ p ∈
    ([.fresh, .out, .regs, .inaug, .queues, .ports, .time, .sched, .strm, .recd, .host, .ints, .counters]
    : List Part), p ∈ L) (hd : Framed L base d) : Framed L base (disablePort p d) := by
  unfold disablePort
  repeat' first
      | with_reducible assumption | with_reducible exact Framed.sub rfl hL | with_reducible apply regroup_framed
      | with_reducible apply scriptEnded_framed | with_reducible apply leaveUp_framed
      | with_reducible apply onPort_framed | with_reducible apply ite_framed

theorem settlePort_framed (p : Port) (d : Dev) (hL : ∀ p ∈
    ([.fresh, .out, .regs, .inaug, .queues, .ports, .time, .sched, .strm, .recd, .host, .ints, .counters]
    : List Part), p ∈ L) (hd : Framed L base d) : Framed L base (settlePort p d) := by
  unfold settlePort
  repeat' first
      | with_reducible assumption | with_reducible exact Framed.sub rfl hL
      | with_reducible apply disablePort_framed | with_reducible apply startPort_framed
      | with_reducible apply ite_framed

theorem settlePorts_framed (d : Dev) (hL : ∀ p ∈
    ([.fresh, .out, .regs, .inaug, .queues, .ports, .time, .sched, .strm, .recd, .host, .ints, .counters]
    : List Part), p ∈ L) (hd : Framed L base d) : Framed L base (settlePorts d) := by
  unfold settlePorts
  repeat' first
      | with_reducible assumption | with_reducible intro _ | with_reducible apply settlePort_framed
      | with_reducible apply forEach_framed

theorem applyPort_framed (old : Dev) (written : Nat → Nat → Bool) (p : Port) (d : Dev) (hL : ∀ p ∈
    ([.fresh, .out, .regs, .inaug, .queues, .ports, .time, .sched, .strm, .recd, .sleep, .load, .host, .ints, .counters]
    : List Part), p ∈ L) (hold : Framed L base old) (hd : Framed L base d) : Framed L base
    (applyPort old written p d) := by
  unfold applyPort
  repeat' first
      | with_reducible assumption | with_reducible exact Framed.sub rfl hL | with_reducible apply settlePort_framed
      | with_reducible apply planStatus_framed | with_reducible apply awaitPhy_framed
      | with_reducible apply judgeLane_framed | with_reducible apply enterAcquiring_framed
      | with_reducible apply leaveUp_framed | with_reducible apply onPort_framed | with_reducible apply ite_framed
      | split

theorem applyPorts_framed (old : Dev) (written : Nat → Nat → Bool) (d : Dev) (hL : ∀ p ∈
    ([.fresh, .out, .regs, .inaug, .queues, .ports, .time, .sched, .strm, .recd, .sleep, .load, .host, .ints, .counters]
    : List Part), p ∈ L) (hold : Framed L base old) (hd : Framed L base d) : Framed L base
    (applyPorts old written d) := by
  unfold applyPorts
  repeat' first
      | with_reducible assumption | with_reducible exact Framed.sub rfl hL | with_reducible intro _
      | with_reducible apply applyPort_framed | with_reducible apply judgeSleep_framed
      | with_reducible apply forEach_framed

theorem bootPorts_framed (d : Dev) (hL : ∀ p ∈
    ([.fresh, .out, .regs, .inaug, .queues, .ports, .time, .sched, .strm, .recd, .host, .ints, .counters]
    : List Part), p ∈ L) (hd : Framed L base d) : Framed L base (bootPorts d) := by
  unfold bootPorts
  repeat' first
      | with_reducible assumption | with_reducible exact Framed.sub rfl hL | with_reducible intro _
      | with_reducible apply settlePorts_framed | with_reducible apply regroup_framed
      | with_reducible apply planStatus_framed | with_reducible apply forEach_framed

theorem portsOff_framed (d : Dev) (hL : ∀ p ∈
    ([.fresh, .out, .regs, .inaug, .queues, .ports, .time, .sched, .strm, .recd, .host, .ints, .counters]
    : List Part), p ∈ L) (hd : Framed L base d) : Framed L base (portsOff d) := by
  unfold portsOff
  repeat' first
      | with_reducible assumption | with_reducible intro _ | with_reducible apply disablePort_framed
      | with_reducible apply forEach_framed

theorem pulseGroup_framed (g : Fin 4) (d : Dev) (hL : ∀ p ∈
    ([.fresh, .out, .regs, .inaug, .queues, .ports, .time, .sched, .strm, .recd, .host, .ints, .counters]
    : List Part), p ∈ L) (hd : Framed L base d) : Framed L base (pulseGroup g d) := by
  have m0 : Part.fresh ∈ L := hL _ (.head _)
  have m1 : Part.out ∈ L := hL _ (.tail _ (.head _))
  have m2 : Part.regs ∈ L := hL _ (.tail _ (.tail _ (.head _)))
  have m3 : Part.inaug ∈ L := hL _ (.tail _ (.tail _ (.tail _ (.head _))))
  have m4 : Part.queues ∈ L := hL _ (.tail _ (.tail _ (.tail _ (.tail _ (.head _)))))
  have m5 : Part.ports ∈ L := hL _ (.tail _ (.tail _ (.tail _ (.tail _ (.tail _ (.head _))))))
  have m6 : Part.time ∈ L := hL _ (.tail _ (.tail _ (.tail _ (.tail _ (.tail _ (.tail _ (.head _)))))))
  have m7 : Part.sched ∈ L := hL _ (.tail _ (.tail _ (.tail _ (.tail _ (.tail _ (.tail _ (.tail _ (.head _))))))))
  have m8 : Part.strm ∈ L := hL _ (.tail _ (.tail _ (.tail _ (.tail _ (.tail _ (.tail _ (.tail _ (.tail _ (.head _)))))))))
  have m9 : Part.recd ∈ L := hL _ (.tail _ (.tail _ (.tail _ (.tail _ (.tail _ (.tail _ (.tail _ (.tail _ (.tail _ (.head _))))))))))
  have m10 : Part.host ∈ L := hL _ (.tail _ (.tail _ (.tail _ (.tail _ (.tail _ (.tail _ (.tail _ (.tail _ (.tail _ (.tail _ (.head _)))))))))))
  have m11 : Part.ints ∈ L := hL _ (.tail _ (.tail _ (.tail _ (.tail _ (.tail _ (.tail _ (.tail _ (.tail _ (.tail _ (.tail _ (.tail _ (.head _))))))))))))
  have m12 : Part.counters ∈ L := hL _ (.tail _ (.tail _ (.tail _ (.tail _ (.tail _ (.tail _ (.tail _ (.tail _ (.tail _ (.tail _ (.tail _ (.tail _ (.head _)))))))))))))
  unfold pulseGroup
  repeat' first
      | with_reducible assumption | with_reducible exact Framed.sub rfl hL | with_reducible intro _
      | with_reducible apply scriptEnded_framed | with_reducible apply leaveUp_framed
      | with_reducible apply onPort_framed | with_reducible apply forEach_framed | with_reducible apply ite_framed
      | split | dsimp only [id]
      | (fail_if_no_progress ((with_reducible apply Framed.upd) ; exact .inl rfl ; exact .inr m0 ; exact .inr m1 ; (focus (apply Or.inr ; (repeat' (apply And.intro)) ; exact .inr m2 ; exact .inl rfl ; exact .inl rfl ; exact .inl rfl ; exact .inl rfl ; exact .inl rfl)) ; exact .inl rfl ; exact .inr m3 ; (focus (apply Or.inr ; (repeat' (apply And.intro)) ; (apply Or.inl ; first | rfl | (simp only [FabricS.rest] ; done) | (simp only [FabricS.rest] ; split <;> rfl)) ; exact .inr m4)) ; exact .inr m5 ; (focus (apply Or.inr ; (repeat' (apply And.intro)) ; exact .inl rfl ; exact .inr m6)) ; exact .inr m7 ; exact .inr m8 ; (iterate 3 exact .inl rfl) ; exact .inr m9 ; (iterate 2 exact .inl rfl) ; (focus (apply Or.inr ; (repeat' (apply And.intro)) ; exact .inr m10 ; exact .inr m11 ; exact .inl rfl)) ; exact .inl rfl ; (focus (apply Or.inr ; (repeat' (apply And.intro)) ; (apply Or.inl ; simp only [HealthS.rest]) ; exact .inr m12)) ; (iterate 2 exact .inl rfl)))

theorem execPhyResetEnd_framed (g : Fin 4) (s : State) : DoesFramed [.clock, .ports, .counters] s
    (execPhyResetEnd g s) := by
  unfold execPhyResetEnd
  first | with_reducible apply does_framed | (with_reducible refine doesJudged_framed _ _ ?_ rfl) | skip
  all_goals (try (intro L base d hL hd ; have m0 : Part.clock ∈ L := hL _ (.head _) ; have m1 : Part.ports ∈ L := hL _ (.tail _ (.head _)) ; have m2 : Part.counters ∈ L := hL _ (.tail _ (.tail _ (.head _)))))
  all_goals (try beta_reduce)
  repeat' first
      | with_reducible assumption | with_reducible exact Framed.sub rfl hL | with_reducible intro _
      | with_reducible apply regroup_framed | with_reducible apply onPort_framed
      | with_reducible apply forEach_framed | with_reducible apply arrive_framed | with_reducible apply ite_framed
      | split | dsimp only [id]
      | (fail_if_no_progress ((with_reducible apply Framed.upd) ; exact .inr m0 ; (iterate 6 exact .inl rfl) ; exact .inr m1 ; (focus (apply Or.inr ; (repeat' (apply And.intro)) ; exact .inr m0 ; (apply Or.inl ; simp only [TimeS.rest]))) ; (iterate 10 exact .inl rfl) ; (focus (apply Or.inr ; (repeat' (apply And.intro)) ; (apply Or.inl ; simp only [HealthS.rest]) ; exact .inr m2)) ; (iterate 2 exact .inl rfl)))

theorem readStatus_framed (p : Port) (v : BitVec 16) (d : Dev) (hL : ∀ p ∈
    ([.fresh, .out, .regs, .inaug, .queues, .ports, .time, .sched, .strm, .recd, .sleep, .host, .ints, .counters]
    : List Part), p ∈ L) (hd : Framed L base d) : Framed L base (readStatus p v d) := by
  unfold readStatus
  repeat' first
      | with_reducible assumption | with_reducible exact Framed.sub rfl hL | with_reducible apply mdio_framed
      | with_reducible apply judgeLane_framed | with_reducible apply onPort_framed
      | with_reducible apply ite_framed

theorem execPhyInterrupt_framed (g : Fin 4) (status : List (Port × BitVec 16)) (s : State)
    : DoesFramed [.fresh, .out, .regs, .inaug, .queues, .ports, .time, .sched, .strm, .recd, .sleep, .host, .ints, .counters] s
    (execPhyInterrupt g status s) := by
  unfold execPhyInterrupt
  first | with_reducible apply does_framed | (with_reducible refine doesJudged_framed _ _ ?_ rfl) | skip
  all_goals (try (intro L base d hL hd ; have m0 : Part.fresh ∈ L := hL _ (.head _) ; have m1 : Part.out ∈ L := hL _ (.tail _ (.head _)) ; have m2 : Part.regs ∈ L := hL _ (.tail _ (.tail _ (.head _))) ; have m3 : Part.inaug ∈ L := hL _ (.tail _ (.tail _ (.tail _ (.head _)))) ; have m4 : Part.queues ∈ L := hL _ (.tail _ (.tail _ (.tail _ (.tail _ (.head _))))) ; have m5 : Part.ports ∈ L := hL _ (.tail _ (.tail _ (.tail _ (.tail _ (.tail _ (.head _)))))) ; have m6 : Part.time ∈ L := hL _ (.tail _ (.tail _ (.tail _ (.tail _ (.tail _ (.tail _ (.head _))))))) ; have m7 : Part.sched ∈ L := hL _ (.tail _ (.tail _ (.tail _ (.tail _ (.tail _ (.tail _ (.tail _ (.head _)))))))) ; have m8 : Part.strm ∈ L := hL _ (.tail _ (.tail _ (.tail _ (.tail _ (.tail _ (.tail _ (.tail _ (.tail _ (.head _))))))))) ; have m9 : Part.recd ∈ L := hL _ (.tail _ (.tail _ (.tail _ (.tail _ (.tail _ (.tail _ (.tail _ (.tail _ (.tail _ (.head _)))))))))) ; have m10 : Part.sleep ∈ L := hL _ (.tail _ (.tail _ (.tail _ (.tail _ (.tail _ (.tail _ (.tail _ (.tail _ (.tail _ (.tail _ (.head _))))))))))) ; have m11 : Part.host ∈ L := hL _ (.tail _ (.tail _ (.tail _ (.tail _ (.tail _ (.tail _ (.tail _ (.tail _ (.tail _ (.tail _ (.tail _ (.head _)))))))))))) ; have m12 : Part.ints ∈ L := hL _ (.tail _ (.tail _ (.tail _ (.tail _ (.tail _ (.tail _ (.tail _ (.tail _ (.tail _ (.tail _ (.tail _ (.tail _ (.head _))))))))))))) ; have m13 : Part.counters ∈ L := hL _ (.tail _ (.tail _ (.tail _ (.tail _ (.tail _ (.tail _ (.tail _ (.tail _ (.tail _ (.tail _ (.tail _ (.tail _ (.tail _ (.head _))))))))))))))))
  all_goals (try beta_reduce)
  repeat' first
      | with_reducible assumption | with_reducible intro _ | with_reducible apply readStatus_framed
      | with_reducible apply forEach_framed | with_reducible apply ite_framed | split | dsimp only [id]
      | (fail_if_no_progress ((with_reducible apply Framed.upd) ; exact .inl rfl ; exact .inr m0 ; exact .inr m1 ; (focus (apply Or.inr ; (repeat' (apply And.intro)) ; exact .inr m2 ; exact .inl rfl ; exact .inl rfl ; exact .inl rfl ; exact .inl rfl ; exact .inl rfl)) ; exact .inl rfl ; exact .inr m3 ; (focus (apply Or.inr ; (repeat' (apply And.intro)) ; (apply Or.inl ; first | rfl | (simp only [FabricS.rest] ; done) | (simp only [FabricS.rest] ; split <;> rfl)) ; exact .inr m4)) ; exact .inr m5 ; (focus (apply Or.inr ; (repeat' (apply And.intro)) ; exact .inl rfl ; exact .inr m6)) ; exact .inr m7 ; exact .inr m8 ; (iterate 3 exact .inl rfl) ; exact .inr m9 ; exact .inr m10 ; exact .inl rfl ; (focus (apply Or.inr ; (repeat' (apply And.intro)) ; exact .inr m11 ; exact .inr m12 ; exact .inl rfl)) ; exact .inl rfl ; (focus (apply Or.inr ; (repeat' (apply And.intro)) ; (apply Or.inl ; simp only [HealthS.rest]) ; exact .inr m13)) ; (iterate 2 exact .inl rfl)))

theorem execPhyStatusPoll_framed (p : Port) (status : BitVec 16) (s : State)
    : DoesFramed [.clock, .fresh, .out, .regs, .inaug, .queues, .ports, .time, .sched, .strm, .recd, .sleep, .host, .ints, .counters] s
    (execPhyStatusPoll p status s) := by
  unfold execPhyStatusPoll
  first | with_reducible apply does_framed | (with_reducible refine doesJudged_framed _ _ ?_ rfl) | skip
  all_goals (try (intro L base d hL hd ; beta_reduce))
  repeat' first
      | with_reducible assumption | with_reducible exact Framed.sub rfl hL | with_reducible apply readStatus_framed
      | with_reducible apply onPort_framed | with_reducible apply arrive_framed | split

end Sys2Proof.Machine
end

