-- ==== Sys2Proof/Laws/Framed/Health.lean ====
section
/-! SUPPORT. Which parts of the device each function of Machine/Health.lean can change. -/

-- one declaration after the other: the package is also compiled as one text, in limited memory
set_option Elab.async false

set_option linter.all false

namespace Sys2Proof.Machine

variable {L : List Part} {base : Dev}

theorem onTracker_framed (f : Tracker → Tracker) (d : Dev) (hL : ∀ p ∈ ([.health] : List Part), p ∈ L) (hd
    : Framed L base d) : Framed L base (onTracker f d) := by
  have m0 : Part.health ∈ L := hL _ (.head _)
  unfold onTracker
  repeat' first
      | with_reducible assumption
      | ((with_reducible apply onHealth_framed) ; (focus ((repeat' (apply And.intro)) ; exact .inr m0 ; exact .inl rfl)))

theorem takeReadings_framed (readings : List SensorReading) (d : Dev) (hL : ∀ p ∈ ([.health] : List Part), p ∈ L)
    (hd : Framed L base d) : Framed L base (takeReadings readings d) := by
  have m0 : Part.health ∈ L := hL _ (.head _)
  unfold takeReadings
  repeat' first
      | with_reducible assumption
      | ((with_reducible apply onHealth_framed) ; (focus ((repeat' (apply And.intro)) ; exact .inr m0 ; exact .inl rfl)))

theorem plannerGate_framed (d : Dev) (hL : ∀ p ∈ ([.health] : List Part), p ∈ L) (hd : Framed L base d)
    : Framed L base (plannerGate d) := by
  have m0 : Part.health ∈ L := hL _ (.head _)
  unfold plannerGate
  repeat' first
      | with_reducible assumption
      | ((with_reducible apply onHealth_framed) ; (focus ((repeat' (apply And.intro)) ; exact .inr m0 ; exact .inl rfl)))
      | with_reducible apply ite_framed

theorem exhaust_framed (i : Nat) (d : Dev) (hL : ∀ p ∈ ([.out, .regs, .fab, .recd, .ints, .health, .counters]
    : List Part), p ∈ L) (hd : Framed L base d) : Framed L base (exhaust i d) := by
  have m5 : Part.health ∈ L := hL _ (.tail _ (.tail _ (.tail _ (.tail _ (.tail _ (.head _))))))
  have m6 : Part.counters ∈ L := hL _ (.tail _ (.tail _ (.tail _ (.tail _ (.tail _ (.tail _ (.head _)))))))
  unfold exhaust
  repeat' first
      | with_reducible assumption | with_reducible exact Framed.sub rfl hL
      | ((with_reducible apply onHealth_framed) ; (focus ((repeat' (apply And.intro)) ; exact .inr m5 ; exact .inr m6)))
      | with_reducible apply startRotation_framed | with_reducible apply raise_framed
      | with_reducible apply ite_framed

theorem shortBranch_framed (islands : List Nat) (d : Dev) (hL : ∀ p ∈
    ([.out, .regs, .fab, .recd, .ints, .health, .counters] : List Part), p ∈ L) (hd : Framed L base d) :
    Framed L base (shortBranch islands d).2.2 := by
  have hf : ∀ (l : List Nat) (x : List (Nat × Nat) × Option Nat × Dev), Framed L base x.2.2 →
      Framed L base (l.foldl (fun (x : List (Nat × Nat) × Option Nat × Dev) i =>
        match clockStep i with
        | some (step, floor_) =>
          let c := clockNow d i
          if floor_ < c then (x.1 ++ [(i, max floor_ (c - step))], x.2.1, x.2.2) else (x.1, x.2.1, exhaust i x.2.2)
        | none => (x.1, x.2.1, exhaust i x.2.2)) x).2.2 := by
    intro l
    induction l with
    | nil => exact fun _ h => h
    | cons i l ih =>
      intro x hx
      apply ih
      dsimp only
      split
      · split
        exacts [hx, exhaust_framed _ _ hL hx]
      · exact exhaust_framed _ _ hL hx
  unfold shortBranch
  dsimp only
  split
  exacts [hd, hf islands _ hd]

theorem shortBranch_pair {islands : List Nat} {d d' : Dev} {a : List (Nat × Nat)} {o : Option Nat}
    (e : shortBranch islands d = (a, o, d')) (hL : ∀ p ∈ ([.out, .regs, .fab, .recd, .ints, .health, .counters] : List Part), p ∈ L) (hd : Framed L base d) :
    Framed L base d' := by
  have := shortBranch_framed islands d hL hd
  rw [e] at this
  exact this

theorem handOver_framed (clocks : List (Nat × Nat)) (vcore : Option Nat) (guardAdd : Nat) (eq : List (Nat × EqSet))
    (d : Dev) (hL : ∀ p ∈ ([.health] : List Part), p ∈ L) (hd : Framed L base d) : Framed L base
    (handOver clocks vcore guardAdd eq d) := by
  have m0 : Part.health ∈ L := hL _ (.head _)
  unfold handOver
  repeat' first
      | with_reducible assumption
      | ((with_reducible apply onHealth_framed) ; (focus ((repeat' (apply And.intro)) ; exact .inr m0 ; exact .inl rfl)))
      | with_reducible apply ite_framed

theorem makePlan_framed (d : Dev) (hL : ∀ p ∈ ([.out, .regs, .fab, .recd, .ints, .health, .counters]
    : List Part), p ∈ L) (hd : Framed L base d) : Framed L base (makePlan d) := by
  have m5 : Part.health ∈ L := hL _ (.tail _ (.tail _ (.tail _ (.tail _ (.tail _ (.head _))))))
  have m6 : Part.counters ∈ L := hL _ (.tail _ (.tail _ (.tail _ (.tail _ (.tail _ (.tail _ (.head _)))))))
  unfold makePlan
  repeat' first
      | with_reducible assumption | with_reducible exact Framed.sub rfl hL | with_reducible apply handOver_framed
      | with_reducible apply shortBranch_framed
      | ((with_reducible apply onHealth_framed) ; (focus ((repeat' (apply And.intro)) ; exact .inr m5 ; exact .inr m6)))
      | split

theorem execPlanningPeriod_framed (s : State)
    : DoesFramed [.clock, .out, .regs, .fab, .recd, .ints, .health, .counters] s (execPlanningPeriod s) := by
  unfold execPlanningPeriod
  first | with_reducible apply does_framed | (with_reducible refine doesJudged_framed _ _ ?_ rfl) | skip
  all_goals (try (intro L base d hL hd ; have m6 : Part.health ∈ L := hL _ (.tail _ (.tail _ (.tail _ (.tail _ (.tail _ (.tail _ (.head _))))))) ; have m7 : Part.counters ∈ L := hL _ (.tail _ (.tail _ (.tail _ (.tail _ (.tail _ (.tail _ (.tail _ (.head _))))))))))
  all_goals (try beta_reduce)
  repeat' first
      | with_reducible assumption | with_reducible exact Framed.sub rfl hL | with_reducible apply makePlan_framed
      | with_reducible apply plannerGate_framed
      | ((with_reducible apply onHealth_framed) ; (focus ((repeat' (apply And.intro)) ; exact .inr m6 ; exact .inr m7)))
      | with_reducible apply arrive_framed | with_reducible apply ite_framed | split

theorem urgent_framed (d : Dev) (hL : ∀ p ∈ ([.out, .regs, .fab, .recd, .ints, .health, .counters]
    : List Part), p ∈ L) (hd : Framed L base d) : Framed L base (urgent d) := by
  unfold urgent
  repeat' first
      | with_reducible assumption | with_reducible exact Framed.sub rfl hL | with_reducible intro _
      | with_reducible apply handOver_framed | with_reducible apply forEach_framed
      | with_reducible apply shortBranch_framed | with_reducible apply plannerGate_framed
      | with_reducible apply raise_framed | with_reducible apply bump_framed | with_reducible apply ite_framed
      | split | dsimp only [id]

theorem execSensorScan_framed (readings : List SensorReading) (s : State)
    : DoesFramed [.clock, .out, .regs, .fab, .recd, .ints, .health, .counters] s (execSensorScan readings s) := by
  unfold execSensorScan
  first | with_reducible apply does_framed | (with_reducible refine doesJudged_framed _ _ ?_ rfl) | skip
  all_goals (try (intro L base d hL hd ; have m6 : Part.health ∈ L := hL _ (.tail _ (.tail _ (.tail _ (.tail _ (.tail _ (.tail _ (.head _))))))) ; have m7 : Part.counters ∈ L := hL _ (.tail _ (.tail _ (.tail _ (.tail _ (.tail _ (.tail _ (.tail _ (.head _))))))))))
  all_goals (try beta_reduce)
  repeat' first
      | with_reducible assumption | with_reducible exact Framed.sub rfl hL | with_reducible apply urgent_framed
      | with_reducible apply takeReadings_framed
      | ((with_reducible apply onHealth_framed) ; (focus ((repeat' (apply And.intro)) ; exact .inr m6 ; exact .inr m7)))
      | with_reducible apply arrive_framed | split

theorem planDone_framed (d : Dev) (hL : ∀ p ∈ ([.out, .regs, .recd, .ints, .health, .counters] : List Part), p ∈ L)
    (hd : Framed L base d) : Framed L base (planDone d) := by
  have m4 : Part.health ∈ L := hL _ (.tail _ (.tail _ (.tail _ (.tail _ (.head _)))))
  have m5 : Part.counters ∈ L := hL _ (.tail _ (.tail _ (.tail _ (.tail _ (.tail _ (.head _))))))
  unfold planDone
  repeat' first
      | with_reducible assumption | with_reducible exact Framed.sub rfl hL
      | ((with_reducible apply onHealth_framed) ; (focus ((repeat' (apply And.intro)) ; exact .inr m4 ; exact .inr m5)))
      | with_reducible apply raise_framed | with_reducible apply bump_framed | with_reducible apply setReg_framed

theorem followUp_framed (d : Dev) (hL : ∀ p ∈ ([.out, .regs, .recd, .ints, .health, .counters] : List Part), p ∈ L)
    (hd : Framed L base d) : Framed L base (followUp d) := by
  have m4 : Part.health ∈ L := hL _ (.tail _ (.tail _ (.tail _ (.tail _ (.head _)))))
  have m5 : Part.counters ∈ L := hL _ (.tail _ (.tail _ (.tail _ (.tail _ (.tail _ (.head _))))))
  unfold followUp
  repeat' first
      | with_reducible assumption | with_reducible apply planDone_framed
      | ((with_reducible apply onHealth_framed) ; (focus ((repeat' (apply And.intro)) ; exact .inr m4 ; exact .inr m5)))
      | with_reducible apply ite_framed | split

theorem setClocks_framed (l : List (Nat × Nat)) (d : Dev) (hL : ∀ p ∈ ([.health] : List Part), p ∈ L) (hd
    : Framed L base d) : Framed L base (setClocks l d) := by
  have m0 : Part.health ∈ L := hL _ (.head _)
  unfold setClocks
  repeat' first
      | with_reducible assumption | with_reducible intro _
      | ((with_reducible apply onHealth_framed) ; (focus ((repeat' (apply And.intro)) ; exact .inr m0 ; exact .inl rfl)))
      | with_reducible apply forEach_framed

theorem setEq_framed (p : Port) (e : EqSet) (d : Dev) (hL : ∀ p ∈ ([.fresh, .ports] : List Part), p ∈ L) (hd
    : Framed L base d) : Framed L base (setEq p e d) := by
  unfold setEq
  repeat' first
      | with_reducible assumption | with_reducible exact Framed.sub rfl hL
      | with_reducible apply adaptReceiver_framed | with_reducible apply onPort_framed
      | with_reducible apply ite_framed

theorem execPlanApply_framed (s : State)
    : DoesFramed [.clock, .fresh, .out, .regs, .ports, .sched, .recd, .ints, .health, .counters] s
    (execPlanApply s) := by
  unfold execPlanApply
  first | with_reducible apply does_framed | (with_reducible refine doesJudged_framed _ _ ?_ rfl) | skip
  all_goals (try (intro L base d hL hd ; have m0 : Part.clock ∈ L := hL _ (.head _) ; have m1 : Part.fresh ∈ L := hL _ (.tail _ (.head _)) ; have m2 : Part.out ∈ L := hL _ (.tail _ (.tail _ (.head _))) ; have m3 : Part.regs ∈ L := hL _ (.tail _ (.tail _ (.tail _ (.head _)))) ; have m4 : Part.ports ∈ L := hL _ (.tail _ (.tail _ (.tail _ (.tail _ (.head _))))) ; have m5 : Part.sched ∈ L := hL _ (.tail _ (.tail _ (.tail _ (.tail _ (.tail _ (.head _)))))) ; have m6 : Part.recd ∈ L := hL _ (.tail _ (.tail _ (.tail _ (.tail _ (.tail _ (.tail _ (.head _))))))) ; have m7 : Part.ints ∈ L := hL _ (.tail _ (.tail _ (.tail _ (.tail _ (.tail _ (.tail _ (.tail _ (.head _)))))))) ; have m8 : Part.health ∈ L := hL _ (.tail _ (.tail _ (.tail _ (.tail _ (.tail _ (.tail _ (.tail _ (.tail _ (.head _))))))))) ; have m9 : Part.counters ∈ L := hL _ (.tail _ (.tail _ (.tail _ (.tail _ (.tail _ (.tail _ (.tail _ (.tail _ (.tail _ (.head _))))))))))))
  all_goals (try beta_reduce)
  repeat' first
      | with_reducible assumption | with_reducible exact Framed.sub rfl hL | with_reducible intro _
      | with_reducible apply setEq_framed | with_reducible apply setClocks_framed
      | with_reducible apply planDone_framed
      | ((with_reducible apply onHealth_framed) ; (focus ((repeat' (apply And.intro)) ; exact .inr m8 ; exact .inr m9)))
      | with_reducible apply forEach_framed | with_reducible apply arriveTrain_framed
      | with_reducible apply emit_framed | with_reducible apply bump_framed | with_reducible apply ite_framed
      | split | dsimp only [id]
      | (fail_if_no_progress ((with_reducible apply Framed.upd) ; exact .inr m0 ; exact .inr m1 ; exact .inr m2 ; (focus (apply Or.inr ; (repeat' (apply And.intro)) ; exact .inr m3 ; exact .inl rfl ; exact .inl rfl ; exact .inl rfl ; exact .inl rfl ; exact .inl rfl)) ; (iterate 3 exact .inl rfl) ; exact .inr m4 ; (focus (apply Or.inr ; (repeat' (apply And.intro)) ; exact .inr m0 ; (apply Or.inl ; simp only [TimeS.rest]))) ; exact .inr m5 ; (iterate 4 exact .inl rfl) ; exact .inr m6 ; (iterate 2 exact .inl rfl) ; (focus (apply Or.inr ; (repeat' (apply And.intro)) ; (apply Or.inl ; simp only [HostS.registers]) ; exact .inr m7 ; exact .inl rfl)) ; exact .inl rfl ; (focus (apply Or.inr ; (repeat' (apply And.intro)) ; exact .inr m8 ; exact .inr m9)) ; (iterate 2 exact .inl rfl)))

theorem voltageFails_framed (d : Dev) (hL : ∀ p ∈ ([.out, .regs, .recd, .ints, .health, .counters]
    : List Part), p ∈ L) (hd : Framed L base d) : Framed L base (voltageFails d) := by
  have m4 : Part.health ∈ L := hL _ (.tail _ (.tail _ (.tail _ (.tail _ (.head _)))))
  have m5 : Part.counters ∈ L := hL _ (.tail _ (.tail _ (.tail _ (.tail _ (.tail _ (.head _))))))
  unfold voltageFails
  repeat' first
      | with_reducible assumption | with_reducible exact Framed.sub rfl hL | with_reducible apply setClocks_framed
      | ((with_reducible apply onHealth_framed) ; (focus ((repeat' (apply And.intro)) ; exact .inr m4 ; exact .inr m5)))
      | with_reducible apply raise_framed | with_reducible apply bump_framed

theorem execReadVout_framed (mv : BitVec 16) (s : State)
    : DoesFramed [.out, .regs, .node, .recd, .ints, .health, .counters] s (execReadVout mv s) := by
  unfold execReadVout
  first | with_reducible apply does_framed | (with_reducible refine doesJudged_framed _ _ ?_ rfl) | skip
  all_goals (try (intro L base d hL hd ; have m0 : Part.out ∈ L := hL _ (.head _) ; have m1 : Part.regs ∈ L := hL _ (.tail _ (.head _)) ; have m2 : Part.node ∈ L := hL _ (.tail _ (.tail _ (.head _))) ; have m3 : Part.recd ∈ L := hL _ (.tail _ (.tail _ (.tail _ (.head _)))) ; have m4 : Part.ints ∈ L := hL _ (.tail _ (.tail _ (.tail _ (.tail _ (.head _))))) ; have m5 : Part.health ∈ L := hL _ (.tail _ (.tail _ (.tail _ (.tail _ (.tail _ (.head _)))))) ; have m6 : Part.counters ∈ L := hL _ (.tail _ (.tail _ (.tail _ (.tail _ (.tail _ (.tail _ (.head _)))))))))
  all_goals (try beta_reduce)
  repeat' first
      | with_reducible assumption | with_reducible exact Framed.sub rfl hL
      | with_reducible apply voltageFails_framed | with_reducible apply followUp_framed
      | with_reducible apply setReg_framed | with_reducible apply ite_framed | dsimp only [id]
      | (fail_if_no_progress ((with_reducible apply Framed.upd) ; (iterate 2 exact .inl rfl) ; exact .inr m0 ; (focus (apply Or.inr ; (repeat' (apply And.intro)) ; exact .inr m1 ; exact .inl rfl ; exact .inl rfl ; exact .inl rfl ; exact .inl rfl ; exact .inl rfl)) ; exact .inr m2 ; (iterate 9 exact .inl rfl) ; exact .inr m3 ; (iterate 2 exact .inl rfl) ; (focus (apply Or.inr ; (repeat' (apply And.intro)) ; (apply Or.inl ; simp only [HostS.registers]) ; exact .inr m4 ; exact .inl rfl)) ; exact .inl rfl ; (focus (apply Or.inr ; (repeat' (apply And.intro)) ; exact .inr m5 ; exact .inr m6)) ; (iterate 2 exact .inl rfl)))

theorem execReadVoutTimeout_framed (s : State)
    : DoesFramed [.clock, .out, .regs, .recd, .ints, .health, .counters] s (execReadVoutTimeout s) := by
  unfold execReadVoutTimeout
  first | with_reducible apply does_framed | (with_reducible refine doesJudged_framed _ _ ?_ rfl) | skip
  all_goals (try (intro L base d hL hd ; beta_reduce))
  repeat' first
      | with_reducible assumption | with_reducible exact Framed.sub rfl hL
      | with_reducible apply voltageFails_framed | with_reducible apply arrive_framed
      | with_reducible apply ite_framed | split

theorem trimIncrement_framed (d : Dev) (hL : ∀ p ∈ ([.regs] : List Part), p ∈ L) (hd : Framed L base d)
    : Framed L base (trimIncrement d) := by
  unfold trimIncrement
  repeat' first | with_reducible assumption | with_reducible apply setReg_framed | with_reducible apply ite_framed

theorem execTrackerUpdate_framed (s : State) : DoesFramed [.clock, .regs, .health, .counters] s
    (execTrackerUpdate s) := by
  unfold execTrackerUpdate
  first | with_reducible apply does_framed | (with_reducible refine doesJudged_framed _ _ ?_ rfl) | skip
  all_goals (try (intro L base d hL hd ; beta_reduce))
  repeat' first
      | with_reducible assumption | with_reducible exact Framed.sub rfl hL | with_reducible intro _
      | with_reducible apply trimIncrement_framed | with_reducible apply onTracker_framed
      | with_reducible apply onlyIf_framed | with_reducible apply arrive_framed | split

theorem execTrackerHourlyMean_framed (s : State) : DoesFramed [.health] s (execTrackerHourlyMean s) := by
  unfold execTrackerHourlyMean
  first | with_reducible apply does_framed | (with_reducible refine doesJudged_framed _ _ ?_ rfl) | skip
  all_goals (try (intro L base d hL hd ; beta_reduce))
  repeat' first | with_reducible assumption | with_reducible apply onTracker_framed | with_reducible apply ite_framed

theorem emptyTracker_framed (d : Dev) (hL : ∀ p ∈ ([.health] : List Part), p ∈ L) (hd : Framed L base d)
    : Framed L base (emptyTracker d) := by
  unfold emptyTracker
  repeat' first | with_reducible assumption | with_reducible apply onTracker_framed

theorem writeHealth_framed (d : Dev) (hL : ∀ p ∈ ([.regs, .health] : List Part), p ∈ L) (hd : Framed L base d)
    : Framed L base (writeHealth d) := by
  have m1 : Part.health ∈ L := hL _ (.tail _ (.head _))
  unfold writeHealth
  repeat' first
      | with_reducible assumption | with_reducible exact Framed.sub rfl hL
      | ((with_reducible apply onHealth_framed) ; (focus ((repeat' (apply And.intro)) ; exact .inr m1 ; exact .inl rfl)))
      | with_reducible apply bump_framed | with_reducible apply ite_framed | split | dsimp only [id]

theorem execHealthRecordWrite_framed (s : State) : DoesFramed [.clock, .regs, .health, .counters] s
    (execHealthRecordWrite s) := by
  unfold execHealthRecordWrite
  first | with_reducible apply does_framed | (with_reducible refine doesJudged_framed _ _ ?_ rfl) | skip
  all_goals (try (intro L base d hL hd ; have m2 : Part.health ∈ L := hL _ (.tail _ (.tail _ (.head _))) ; have m3 : Part.counters ∈ L := hL _ (.tail _ (.tail _ (.tail _ (.head _))))))
  all_goals (try beta_reduce)
  repeat' first
      | with_reducible assumption | with_reducible exact Framed.sub rfl hL
      | with_reducible apply writeHealth_framed
      | ((with_reducible apply onHealth_framed) ; (focus ((repeat' (apply And.intro)) ; exact .inr m2 ; exact .inr m3)))
      | with_reducible apply arrive_framed | split

theorem closeLogs_framed (cause : Nat) (d : Dev) (hL : ∀ p ∈ ([.out, .regs, .recd, .ints, .health, .counters]
    : List Part), p ∈ L) (hd : Framed L base d) : Framed L base (closeLogs cause d) := by
  unfold closeLogs
  repeat' first
      | with_reducible assumption | with_reducible exact Framed.sub rfl hL
      | with_reducible apply writeHealth_framed | with_reducible apply closeRecorder_framed | split

theorem healthBoot_framed (d : Dev) (hL : ∀ p ∈ ([.out, .regs, .recd, .ints, .health, .counters]
    : List Part), p ∈ L) (hd : Framed L base d) : Framed L base (healthBoot d) := by
  have m4 : Part.health ∈ L := hL _ (.tail _ (.tail _ (.tail _ (.tail _ (.head _)))))
  have m5 : Part.counters ∈ L := hL _ (.tail _ (.tail _ (.tail _ (.tail _ (.tail _ (.head _))))))
  unfold healthBoot
  repeat' first
      | with_reducible assumption | with_reducible exact Framed.sub rfl hL | with_reducible apply onTracker_framed
      | ((with_reducible apply onHealth_framed) ; (focus ((repeat' (apply And.intro)) ; exact .inr m4 ; exact .inr m5)))
      | with_reducible apply raise_framed | split

theorem execSnapshotPeriod_framed (s : State) : DoesFramed [.clock, .regs, .health, .counters] s
    (execSnapshotPeriod s) := by
  unfold execSnapshotPeriod
  first | with_reducible apply does_framed | (with_reducible refine doesJudged_framed _ _ ?_ rfl) | skip
  all_goals (try (intro L base d hL hd ; have m2 : Part.health ∈ L := hL _ (.tail _ (.tail _ (.head _))) ; have m3 : Part.counters ∈ L := hL _ (.tail _ (.tail _ (.tail _ (.head _))))))
  all_goals (try beta_reduce)
  repeat' first
      | with_reducible assumption | with_reducible exact Framed.sub rfl hL
      | ((with_reducible apply onHealth_framed) ; (focus ((repeat' (apply And.intro)) ; exact .inr m2 ; exact .inr m3)))
      | with_reducible apply snapshot_framed | with_reducible apply arriveTrain_framed
      | with_reducible apply ite_framed

theorem junctionReading_framed (reading : Int) (d : Dev) (hL : ∀ p ∈ ([.out, .regs, .node, .recd, .ints, .counters]
    : List Part), p ∈ L) (hd : Framed L base d) : Framed L base (junctionReading reading d) := by
  have m0 : Part.out ∈ L := hL _ (.head _)
  have m1 : Part.regs ∈ L := hL _ (.tail _ (.head _))
  have m2 : Part.node ∈ L := hL _ (.tail _ (.tail _ (.head _)))
  have m3 : Part.recd ∈ L := hL _ (.tail _ (.tail _ (.tail _ (.head _))))
  have m4 : Part.ints ∈ L := hL _ (.tail _ (.tail _ (.tail _ (.tail _ (.head _)))))
  have m5 : Part.counters ∈ L := hL _ (.tail _ (.tail _ (.tail _ (.tail _ (.tail _ (.head _))))))
  unfold junctionReading
  repeat' first
      | with_reducible assumption | with_reducible exact Framed.sub rfl hL | with_reducible apply raise_framed
      | with_reducible apply ite_framed | dsimp only [id]
      | (fail_if_no_progress ((with_reducible apply Framed.upd) ; (iterate 2 exact .inl rfl) ; exact .inr m0 ; (focus (apply Or.inr ; (repeat' (apply And.intro)) ; exact .inr m1 ; exact .inl rfl ; exact .inl rfl ; exact .inl rfl ; exact .inl rfl ; exact .inl rfl)) ; exact .inr m2 ; (iterate 9 exact .inl rfl) ; exact .inr m3 ; (iterate 2 exact .inl rfl) ; (focus (apply Or.inr ; (repeat' (apply And.intro)) ; (apply Or.inl ; simp only [HostS.registers]) ; exact .inr m4 ; exact .inl rfl)) ; exact .inl rfl ; (focus (apply Or.inr ; (repeat' (apply And.intro)) ; (apply Or.inl ; simp only [HealthS.rest]) ; exact .inr m5)) ; (iterate 2 exact .inl rfl)))

end Sys2Proof.Machine
end

