-- ==== Sys2Proof/Laws/Framed/Platform.lean ====
section
/-! SUPPORT. Which parts of the device each function of Machine/Platform.lean can change. -/

-- one declaration after the other: the package is also compiled as one text, in limited memory
set_option Elab.async false

set_option linter.all false

namespace Sys2Proof.Machine

variable {L : List Part} {base : Dev}

theorem onPow_framed (f : PowerS → PowerS) (d : Dev) (hL : ∀ p ∈ ([.pow] : List Part), p ∈ L) (hd : Framed L base d)
    : Framed L base (onPow f d) := by
  have m0 : Part.pow ∈ L := hL _ (.head _)
  unfold onPow
  repeat' first
      | with_reducible assumption
      | (fail_if_no_progress ((with_reducible apply Framed.upd) ; (iterate 18 exact .inl rfl) ; exact .inr m0 ; (iterate 3 exact .inl rfl)))

theorem dropRails_framed (d : Dev) (hL : ∀ p ∈ ([.pow] : List Part), p ∈ L) (hd : Framed L base d) : Framed L base
    (dropRails d) := by
  unfold dropRails
  repeat' first | with_reducible assumption | with_reducible apply onPow_framed

theorem startBoot_framed (cause : Nat) (d : Dev) (hL : ∀ p ∈ ([.regs, .pow] : List Part), p ∈ L) (hd
    : Framed L base d) : Framed L base (startBoot cause d) := by
  unfold startBoot
  repeat' first
      | with_reducible assumption | with_reducible exact Framed.sub rfl hL | with_reducible apply onPow_framed
      | with_reducible apply bump_framed

theorem leaveReset_framed (d : Dev) (hL : ∀ p ∈ ([.clock, .fab, .queues, .time, .recd, .pow] : List Part), p ∈ L)
    (hd : Framed L base d) : Framed L base (leaveReset d) := by
  have m0 : Part.clock ∈ L := hL _ (.head _)
  have m1 : Part.fab ∈ L := hL _ (.tail _ (.head _))
  have m2 : Part.queues ∈ L := hL _ (.tail _ (.tail _ (.head _)))
  have m3 : Part.time ∈ L := hL _ (.tail _ (.tail _ (.tail _ (.head _))))
  have m4 : Part.recd ∈ L := hL _ (.tail _ (.tail _ (.tail _ (.tail _ (.head _)))))
  have m5 : Part.pow ∈ L := hL _ (.tail _ (.tail _ (.tail _ (.tail _ (.tail _ (.head _))))))
  unfold leaveReset
  repeat' first
      | with_reducible assumption | with_reducible exact Framed.sub rfl hL | with_reducible apply onPow_framed
      | with_reducible apply recorderBoot_framed | split | dsimp only [id]
      | (fail_if_no_progress ((with_reducible apply Framed.upd) ; exact .inr m0 ; (iterate 5 exact .inl rfl) ; (focus (apply Or.inr ; (repeat' (apply And.intro)) ; exact .inr m1 ; exact .inr m2)) ; exact .inl rfl ; (focus (apply Or.inr ; (repeat' (apply And.intro)) ; exact .inr m0 ; exact .inr m3)) ; (iterate 5 exact .inl rfl) ; exact .inr m4 ; (iterate 3 exact .inl rfl) ; exact .inr m5 ; (iterate 3 exact .inl rfl)))

end Sys2Proof.Machine
end

