-- ==== Sys2Proof/Laws/Framed/Sleep.lean ====
section
/-! SUPPORT. Which parts of the device each function of Machine/Sleep.lean can change. -/

-- one declaration after the other: the package is also compiled as one text, in limited memory
set_option Elab.async false

set_option linter.all false

namespace Sys2Proof.Machine

variable {L : List Part} {base : Dev}

theorem widenScope_framed (n : Nat) (d : Dev) (hL : ∀ p ∈
    ([.fresh, .out, .regs, .inaug, .queues, .ports, .time, .sched, .strm, .recd, .sleep, .host, .ints, .counters]
    : List Part), p ∈ L) (hd : Framed L base d) : Framed L base (widenScope n d) := by
  unfold widenScope
  repeat' first
      | with_reducible assumption | with_reducible exact Framed.sub rfl hL
      | with_reducible apply settlePorts_framed | with_reducible apply onSleep_framed
      | with_reducible apply ite_framed

theorem pulseTwl_framed (d : Dev) (hL : ∀ p ∈ ([.regs, .sleep] : List Part), p ∈ L) (hd : Framed L base d)
    : Framed L base (pulseTwl d) := by
  unfold pulseTwl
  repeat' first
      | with_reducible assumption | with_reducible exact Framed.sub rfl hL | with_reducible apply onSleep_framed
      | with_reducible apply bump_framed | with_reducible apply ite_framed

theorem judgeNeed_framed (fromTwl : Bool) (d : Dev) (hL : ∀ p ∈
    ([.fresh, .out, .regs, .inaug, .queues, .ports, .time, .sched, .strm, .recd, .sleep, .host, .ints, .counters]
    : List Part), p ∈ L) (hd : Framed L base d) : Framed L base (judgeNeed fromTwl d) := by
  unfold judgeNeed
  repeat' first
      | with_reducible assumption | with_reducible exact Framed.sub rfl hL | with_reducible intro _
      | with_reducible apply pulseTwl_framed | with_reducible apply widenScope_framed
      | with_reducible apply onSleep_framed | with_reducible apply onlyIf_framed

theorem settleNeed_framed (fromTwl : Bool) (d : Dev) (hL : ∀ p ∈
    ([.fresh, .out, .regs, .inaug, .queues, .ports, .time, .sched, .strm, .recd, .sleep, .host, .ints, .counters]
    : List Part), p ∈ L) (hd : Framed L base d) : Framed L base (settleNeed fromTwl d) := by
  unfold settleNeed
  repeat' first
      | with_reducible assumption | with_reducible exact Framed.sub rfl hL | with_reducible apply judgeNeed_framed
      | with_reducible apply judgeSleep_framed

theorem sendKeepAlive_framed (final rear : Bool) (d : Dev) (hL : ∀ p ∈ ([.regs, .queues, .sleep, .counters]
    : List Part), p ∈ L) (hd : Framed L base d) : Framed L base (sendKeepAlive final rear d) := by
  unfold sendKeepAlive
  repeat' first
      | with_reducible assumption | with_reducible exact Framed.sub rfl hL | with_reducible intro _
      | with_reducible apply onSleep_framed | with_reducible apply sendOwn_framed
      | with_reducible apply forEach_framed

theorem execKeepAlivePeriod_framed (s : State) : DoesFramed [.clock, .regs, .queues, .sleep, .counters] s
    (execKeepAlivePeriod s) := by
  unfold execKeepAlivePeriod
  first | with_reducible apply does_framed | (with_reducible refine doesJudged_framed _ _ ?_ rfl) | skip
  all_goals (try (intro L base d hL hd ; beta_reduce))
  repeat' first
      | with_reducible assumption | with_reducible exact Framed.sub rfl hL
      | with_reducible apply sendKeepAlive_framed | with_reducible apply onSleep_framed
      | with_reducible apply arrive_framed | split

theorem execKeepAlive_framed (p : Port) (m : KeepAliveMsg) (s : State)
    : DoesFramed [.fresh, .out, .regs, .inaug, .queues, .ports, .time, .sched, .strm, .recd, .sleep, .host, .ints, .counters] s
    (execKeepAlive p m s) := by
  unfold execKeepAlive
  first | with_reducible apply does_framed | (with_reducible refine doesJudged_framed _ _ ?_ rfl) | skip
  all_goals (try (intro L base d hL hd ; beta_reduce))
  repeat' first
      | with_reducible assumption | with_reducible exact Framed.sub rfl hL | with_reducible intro _
      | with_reducible apply widenScope_framed | with_reducible apply onSleep_framed
      | with_reducible apply countGood_framed | with_reducible apply onlyIf_framed
      | with_reducible apply bump_framed | with_reducible apply ite_framed

theorem execSilentSide_framed (rear : Bool) (s : State)
    : DoesFramed [.clock, .out, .regs, .recd, .sleep, .ints, .counters] s (execSilentSide rear s) := by
  unfold execSilentSide
  first | with_reducible apply does_framed | (with_reducible refine doesJudged_framed _ _ ?_ rfl) | skip
  all_goals (try (intro L base d hL hd ; beta_reduce))
  repeat' first
      | with_reducible assumption | with_reducible exact Framed.sub rfl hL | with_reducible apply onSleep_framed
      | with_reducible apply arrive_framed | split

theorem spendSources_framed (sources : List Nat) (d : Dev) (hL : ∀ p ∈ ([.sleep] : List Part), p ∈ L) (hd
    : Framed L base d) : Framed L base (spendSources sources d) := by
  unfold spendSources
  repeat' first | with_reducible assumption | with_reducible apply onSleep_framed

theorem readoutPort_framed (p : Port) (d : Dev) (hL : ∀ p ∈ ([.out] : List Part), p ∈ L) (hd : Framed L base d)
    : Framed L base (readoutPort p d) := by
  unfold readoutPort
  repeat' first | with_reducible assumption | with_reducible apply mdio_framed

theorem requestActive_framed (r : WakeRec) (woken : List Port) (d : Dev) (hL : ∀ p ∈
    ([.out, .regs, .recd, .sleep, .ints, .pow, .counters] : List Part), p ∈ L) (hd : Framed L base d)
    : Framed L base (requestActive r woken d) := by
  unfold requestActive
  repeat' first
      | with_reducible assumption | with_reducible exact Framed.sub rfl hL | with_reducible apply startBoot_framed
      | with_reducible apply onSleep_framed | with_reducible apply raiseP_framed

theorem wakeNow_framed (latched : Bool) (sources : List Nat) (d : Dev) (hL : ∀ p ∈
    ([.out, .regs, .recd, .sleep, .host, .ints, .pow, .counters] : List Part), p ∈ L) (hd : Framed L base d)
    : Framed L base (wakeNow latched sources d) := by
  have m0 : Part.out ∈ L := hL _ (.head _)
  have m1 : Part.regs ∈ L := hL _ (.tail _ (.head _))
  have m2 : Part.recd ∈ L := hL _ (.tail _ (.tail _ (.head _)))
  have m3 : Part.sleep ∈ L := hL _ (.tail _ (.tail _ (.tail _ (.head _))))
  have m4 : Part.host ∈ L := hL _ (.tail _ (.tail _ (.tail _ (.tail _ (.head _)))))
  have m5 : Part.ints ∈ L := hL _ (.tail _ (.tail _ (.tail _ (.tail _ (.tail _ (.head _))))))
  have m6 : Part.pow ∈ L := hL _ (.tail _ (.tail _ (.tail _ (.tail _ (.tail _ (.tail _ (.head _)))))))
  have m7 : Part.counters ∈ L := hL _ (.tail _ (.tail _ (.tail _ (.tail _ (.tail _ (.tail _ (.tail _ (.head _))))))))
  unfold wakeNow
  repeat' first
      | with_reducible assumption | with_reducible exact Framed.sub rfl hL | with_reducible intro _
      | with_reducible apply requestActive_framed | with_reducible apply readoutPort_framed
      | with_reducible apply pulseTwl_framed | with_reducible apply onSleep_framed
      | with_reducible apply onlyIf_framed | with_reducible apply forEach_framed | with_reducible apply ite_framed
      | dsimp only [id]
      | (fail_if_no_progress ((with_reducible apply Framed.upd) ; (iterate 2 exact .inl rfl) ; exact .inr m0 ; (focus (apply Or.inr ; (repeat' (apply And.intro)) ; exact .inr m1 ; exact .inl rfl ; exact .inl rfl ; exact .inl rfl ; exact .inl rfl ; exact .inl rfl)) ; (iterate 10 exact .inl rfl) ; exact .inr m2 ; exact .inr m3 ; exact .inl rfl ; (focus (apply Or.inr ; (repeat' (apply And.intro)) ; exact .inr m4 ; exact .inr m5 ; exact .inl rfl)) ; exact .inr m6 ; (focus (apply Or.inr ; (repeat' (apply And.intro)) ; (apply Or.inl ; simp only [HealthS.rest]) ; exact .inr m7)) ; (iterate 2 exact .inl rfl)))

theorem latchWake_framed (sources : List Nat) (d : Dev) (hL : ∀ p ∈ ([.out, .regs, .recd, .sleep, .ints, .counters]
    : List Part), p ∈ L) (hd : Framed L base d) : Framed L base (latchWake sources d) := by
  unfold latchWake
  repeat' first
      | with_reducible assumption | with_reducible exact Framed.sub rfl hL | with_reducible apply onSleep_framed
      | with_reducible apply raise_framed | with_reducible apply ite_framed

theorem acceptWake_framed (src : Nat) (also : AlsoAccepted) (d : Dev) (hL : ∀ p ∈
    ([.fresh, .out, .regs, .inaug, .queues, .ports, .time, .sched, .strm, .recd, .sleep, .host, .ints, .pow, .counters]
    : List Part), p ∈ L) (hd : Framed L base d) : Framed L base (acceptWake src also d) := by
  unfold acceptWake
  repeat' first
      | with_reducible assumption | with_reducible exact Framed.sub rfl hL | with_reducible intro _
      | with_reducible apply latchWake_framed | with_reducible apply wakeNow_framed
      | with_reducible apply readoutPort_framed | with_reducible apply spendSources_framed
      | with_reducible apply settleNeed_framed | with_reducible apply onSleep_framed
      | with_reducible apply forEach_framed | with_reducible apply bump_framed | split | dsimp only [id]

theorem inputWake_framed (src : Nat) (also : AlsoAccepted) (s : State)
    : DoesFramed [.fresh, .out, .regs, .inaug, .queues, .ports, .time, .sched, .strm, .recd, .sleep, .host, .ints, .pow, .counters] s
    (inputWake src also s) := by
  unfold inputWake
  first | with_reducible apply does_framed | (with_reducible refine doesJudged_framed _ _ ?_ rfl) | skip
  all_goals (try (intro L base d hL hd ; beta_reduce))
  repeat' first | with_reducible assumption | with_reducible apply acceptWake_framed | with_reducible apply ite_framed

theorem execTrainWakeLine_framed (also : AlsoAccepted) (s : State)
    : DoesFramed [.fresh, .out, .regs, .inaug, .queues, .ports, .time, .sched, .strm, .recd, .sleep, .host, .ints, .pow, .counters] s
    (execTrainWakeLine also s) := by
  unfold execTrainWakeLine
  first | with_reducible apply does_framed | (with_reducible refine doesJudged_framed _ _ ?_ rfl) | with_reducible apply inputWake_framed | skip
  all_goals (try (intro L base d hL hd ; beta_reduce))
  skip

theorem execLocalWake_framed (b : Bool) (also : AlsoAccepted) (s : State)
    : DoesFramed [.fresh, .out, .regs, .inaug, .queues, .ports, .time, .sched, .strm, .recd, .sleep, .host, .ints, .pow, .counters] s
    (execLocalWake b also s) := by
  unfold execLocalWake
  first | with_reducible apply does_framed | (with_reducible refine doesJudged_framed _ _ ?_ rfl) | with_reducible apply inputWake_framed | skip
  all_goals (try (intro L base d hL hd ; beta_reduce))
  skip

theorem execBusWake_framed (c : CanId) (also : AlsoAccepted) (s : State)
    : DoesFramed [.fresh, .out, .regs, .inaug, .queues, .ports, .time, .sched, .strm, .recd, .sleep, .host, .ints, .pow, .counters] s
    (execBusWake c also s) := by
  unfold execBusWake
  first | with_reducible apply does_framed | (with_reducible refine doesJudged_framed _ _ ?_ rfl) | with_reducible apply inputWake_framed | skip
  all_goals (try (intro L base d hL hd ; beta_reduce))
  skip

theorem execPhyWake_framed (g : Fin 4) (also : AlsoAccepted) (s : State)
    : DoesFramed [.fresh, .out, .regs, .inaug, .queues, .ports, .time, .sched, .strm, .recd, .sleep, .host, .ints, .pow, .counters] s
    (execPhyWake g also s) := by
  unfold execPhyWake
  first | with_reducible apply does_framed | (with_reducible refine doesJudged_framed _ _ ?_ rfl) | with_reducible apply inputWake_framed | skip
  all_goals (try (intro L base d hL hd ; beta_reduce))
  skip

theorem execPhyWakeReadoutEnd_framed (woken : List Port) (s : State)
    : DoesFramed [.clock, .out, .regs, .ports, .recd, .sleep, .ints, .pow, .counters] s
    (execPhyWakeReadoutEnd woken s) := by
  unfold execPhyWakeReadoutEnd
  first | with_reducible apply does_framed | (with_reducible refine doesJudged_framed _ _ ?_ rfl) | skip
  all_goals (try (intro L base d hL hd ; beta_reduce))
  repeat' first
      | with_reducible assumption | with_reducible exact Framed.sub rfl hL
      | with_reducible apply requestActive_framed | with_reducible apply arrive_framed | split

theorem execWakeTimer_framed (also : AlsoAccepted) (s : State)
    : DoesFramed [.clock, .fresh, .out, .regs, .inaug, .queues, .ports, .time, .sched, .strm, .recd, .sleep, .host, .ints, .pow, .counters] s
    (execWakeTimer also s) := by
  unfold execWakeTimer
  first | with_reducible apply does_framed | (with_reducible refine doesJudged_framed _ _ ?_ rfl) | skip
  all_goals (try (intro L base d hL hd ; beta_reduce))
  repeat' first
      | with_reducible assumption | with_reducible exact Framed.sub rfl hL | with_reducible apply acceptWake_framed
      | with_reducible apply onSleep_framed | with_reducible apply arrive_framed | with_reducible apply ite_framed
      | split

theorem execWakeInputInactive_framed (source : Fin 18) (s : State)
    : DoesFramed [.fresh, .out, .regs, .inaug, .queues, .ports, .time, .sched, .strm, .recd, .sleep, .host, .ints, .counters] s
    (execWakeInputInactive source s) := by
  unfold execWakeInputInactive
  first | with_reducible apply does_framed | (with_reducible refine doesJudged_framed _ _ ?_ rfl) | skip
  all_goals (try (intro L base d hL hd ; beta_reduce))
  repeat' first
      | with_reducible assumption | with_reducible exact Framed.sub rfl hL | with_reducible apply settleNeed_framed
      | with_reducible apply onSleep_framed | with_reducible apply ite_framed

theorem execTwlOutPulseEnd_framed (s : State) : DoesFramed [.clock, .sleep, .counters] s (execTwlOutPulseEnd s) := by
  unfold execTwlOutPulseEnd
  first | with_reducible apply does_framed | (with_reducible refine doesJudged_framed _ _ ?_ rfl) | skip
  all_goals (try (intro L base d hL hd ; beta_reduce))
  repeat' first
      | with_reducible assumption | with_reducible exact Framed.sub rfl hL | with_reducible apply onSleep_framed
      | with_reducible apply arrive_framed | split

theorem hostAwake_framed (v : Bool) (d : Dev) (hL : ∀ p ∈
    ([.fresh, .out, .regs, .inaug, .queues, .ports, .time, .sched, .strm, .recd, .sleep, .host, .ints, .counters]
    : List Part), p ∈ L) (hd : Framed L base d) : Framed L base (hostAwake v d) := by
  unfold hostAwake
  repeat' first
      | with_reducible assumption | with_reducible exact Framed.sub rfl hL | with_reducible apply latchWake_framed
      | with_reducible apply settleNeed_framed | with_reducible apply onSleep_framed
      | with_reducible apply setReg_framed | with_reducible apply ite_framed

theorem execMaximumAwakeExpiry_framed (s : State)
    : DoesFramed [.clock, .fresh, .out, .regs, .inaug, .queues, .ports, .time, .sched, .strm, .recd, .sleep, .host, .ints, .counters] s
    (execMaximumAwakeExpiry s) := by
  unfold execMaximumAwakeExpiry
  first | with_reducible apply does_framed | (with_reducible refine doesJudged_framed _ _ ?_ rfl) | skip
  all_goals (try (intro L base d hL hd ; beta_reduce))
  repeat' first
      | with_reducible assumption | with_reducible exact Framed.sub rfl hL | with_reducible apply settleNeed_framed
      | with_reducible apply onSleep_framed | with_reducible apply raise_framed
      | with_reducible apply arrive_framed | with_reducible apply bump_framed | with_reducible apply setReg_framed
      | split

theorem execPostWakeHoldEnd_framed (s : State)
    : DoesFramed [.clock, .fresh, .out, .regs, .inaug, .queues, .ports, .time, .sched, .strm, .recd, .sleep, .host, .ints, .counters] s
    (execPostWakeHoldEnd s) := by
  unfold execPostWakeHoldEnd
  first | with_reducible apply does_framed | (with_reducible refine doesJudged_framed _ _ ?_ rfl) | skip
  all_goals (try (intro L base d hL hd ; beta_reduce))
  repeat' first
      | with_reducible assumption | with_reducible exact Framed.sub rfl hL | with_reducible apply settleNeed_framed
      | with_reducible apply onSleep_framed | with_reducible apply arrive_framed | split

theorem execReadySleepExpiry_framed (s : State)
    : DoesFramed [.clock, .out, .regs, .queues, .recd, .sleep, .ints, .counters] s (execReadySleepExpiry s) := by
  unfold execReadySleepExpiry
  first | with_reducible apply does_framed | (with_reducible refine doesJudged_framed _ _ ?_ rfl) | skip
  all_goals (try (intro L base d hL hd ; beta_reduce))
  repeat' first
      | with_reducible assumption | with_reducible exact Framed.sub rfl hL
      | with_reducible apply sendKeepAlive_framed | with_reducible apply onSleep_framed
      | with_reducible apply raise_framed | with_reducible apply setInt_framed | with_reducible apply arrive_framed
      | split

theorem quiesce_framed (d : Dev) (hL : ∀ p ∈
    ([.fresh, .out, .regs, .inaug, .queues, .ports, .time, .sched, .strm, .can, .recd, .sleep, .load, .host, .ints, .health, .counters]
    : List Part), p ∈ L) (hd : Framed L base d) : Framed L base (quiesce d) := by
  have m0 : Part.fresh ∈ L := hL _ (.head _)
  have m1 : Part.out ∈ L := hL _ (.tail _ (.head _))
  have m2 : Part.regs ∈ L := hL _ (.tail _ (.tail _ (.head _)))
  have m3 : Part.inaug ∈ L := hL _ (.tail _ (.tail _ (.tail _ (.head _))))
  have m4 : Part.queues ∈ L := hL _ (.tail _ (.tail _ (.tail _ (.tail _ (.head _)))))
  have m5 : Part.ports ∈ L := hL _ (.tail _ (.tail _ (.tail _ (.tail _ (.tail _ (.head _))))))
  have m6 : Part.time ∈ L := hL _ (.tail _ (.tail _ (.tail _ (.tail _ (.tail _ (.tail _ (.head _)))))))
  have m7 : Part.sched ∈ L := hL _ (.tail _ (.tail _ (.tail _ (.tail _ (.tail _ (.tail _ (.tail _ (.head _))))))))
  have m8 : Part.strm ∈ L := hL _ (.tail _ (.tail _ (.tail _ (.tail _ (.tail _ (.tail _ (.tail _ (.tail _ (.head _)))))))))
  have m9 : Part.can ∈ L := hL _ (.tail _ (.tail _ (.tail _ (.tail _ (.tail _ (.tail _ (.tail _ (.tail _ (.tail _ (.head _))))))))))
  have m10 : Part.recd ∈ L := hL _ (.tail _ (.tail _ (.tail _ (.tail _ (.tail _ (.tail _ (.tail _ (.tail _ (.tail _ (.tail _ (.head _)))))))))))
  have m11 : Part.sleep ∈ L := hL _ (.tail _ (.tail _ (.tail _ (.tail _ (.tail _ (.tail _ (.tail _ (.tail _ (.tail _ (.tail _ (.tail _ (.head _))))))))))))
  have m12 : Part.load ∈ L := hL _ (.tail _ (.tail _ (.tail _ (.tail _ (.tail _ (.tail _ (.tail _ (.tail _ (.tail _ (.tail _ (.tail _ (.tail _ (.head _)))))))))))))
  have m13 : Part.host ∈ L := hL _ (.tail _ (.tail _ (.tail _ (.tail _ (.tail _ (.tail _ (.tail _ (.tail _ (.tail _ (.tail _ (.tail _ (.tail _ (.tail _ (.head _))))))))))))))
  have m14 : Part.ints ∈ L := hL _ (.tail _ (.tail _ (.tail _ (.tail _ (.tail _ (.tail _ (.tail _ (.tail _ (.tail _ (.tail _ (.tail _ (.tail _ (.tail _ (.tail _ (.head _)))))))))))))))
  have m15 : Part.health ∈ L := hL _ (.tail _ (.tail _ (.tail _ (.tail _ (.tail _ (.tail _ (.tail _ (.tail _ (.tail _ (.tail _ (.tail _ (.tail _ (.tail _ (.tail _ (.tail _ (.head _))))))))))))))))
  have m16 : Part.counters ∈ L := hL _ (.tail _ (.tail _ (.tail _ (.tail _ (.tail _ (.tail _ (.tail _ (.tail _ (.tail _ (.tail _ (.tail _ (.tail _ (.tail _ (.tail _ (.tail _ (.tail _ (.head _)))))))))))))))))
  unfold quiesce
  repeat' first
      | with_reducible assumption | with_reducible exact Framed.sub rfl hL | with_reducible intro _
      | with_reducible apply closeLogs_framed | with_reducible apply portsOff_framed
      | with_reducible apply onSleep_framed | with_reducible apply leaveMode_framed
      | with_reducible apply streamsOff_framed | with_reducible apply recorderOff_framed
      | with_reducible apply loadsSleep_framed | with_reducible apply onlyIf_framed
      | with_reducible apply forEach_framed | with_reducible apply raise_framed | with_reducible apply bump_framed
      | dsimp only [id]
      | (fail_if_no_progress ((with_reducible apply Framed.upd) ; exact .inl rfl ; exact .inr m0 ; exact .inr m1 ; (focus (apply Or.inr ; (repeat' (apply And.intro)) ; exact .inr m2 ; exact .inl rfl ; exact .inl rfl ; exact .inl rfl ; exact .inl rfl ; exact .inl rfl)) ; exact .inl rfl ; exact .inr m3 ; (focus (apply Or.inr ; (repeat' (apply And.intro)) ; (apply Or.inl ; first | rfl | (simp only [FabricS.rest] ; done)) ; exact .inr m4)) ; exact .inr m5 ; (focus (apply Or.inr ; (repeat' (apply And.intro)) ; exact .inl rfl ; exact .inr m6)) ; exact .inr m7 ; exact .inr m8 ; exact .inr m9 ; (iterate 2 exact .inl rfl) ; exact .inr m10 ; exact .inr m11 ; exact .inr m12 ; (focus (apply Or.inr ; (repeat' (apply And.intro)) ; exact .inr m13 ; exact .inr m14 ; exact .inl rfl)) ; exact .inl rfl ; (focus (apply Or.inr ; (repeat' (apply And.intro)) ; exact .inr m15 ; exact .inr m16)) ; (iterate 2 exact .inl rfl)))

theorem execQuiesce_framed (s : State)
    : DoesFramed [.clock, .fresh, .out, .regs, .inaug, .queues, .ports, .time, .sched, .strm, .can, .recd, .sleep, .load, .host, .ints, .health, .counters] s
    (execQuiesce s) := by
  unfold execQuiesce
  first | with_reducible apply does_framed | (with_reducible refine doesJudged_framed _ _ ?_ rfl) | skip
  all_goals (try (intro L base d hL hd ; beta_reduce))
  repeat' first
      | with_reducible assumption | with_reducible exact Framed.sub rfl hL | with_reducible apply quiesce_framed
      | with_reducible apply arrive_framed | with_reducible apply ite_framed | split

theorem abandonSleep_framed (d : Dev) (hL : ∀ p ∈ ([.sleep] : List Part), p ∈ L) (hd : Framed L base d)
    : Framed L base (abandonSleep d) := by
  unfold abandonSleep
  repeat' first | with_reducible assumption | with_reducible apply onSleep_framed

theorem sleepBooted_framed (d : Dev) (hL : ∀ p ∈
    ([.fresh, .out, .regs, .inaug, .queues, .ports, .time, .sched, .strm, .recd, .sleep, .host, .ints, .counters]
    : List Part), p ∈ L) (hd : Framed L base d) : Framed L base (sleepBooted d) := by
  unfold sleepBooted
  repeat' first
      | with_reducible assumption | with_reducible exact Framed.sub rfl hL | with_reducible apply settleNeed_framed
      | with_reducible apply onSleep_framed | split

end Sys2Proof.Machine
end

