-- ==== Sys2Proof/Laws/Framed/HostLink.lean ====
section
/-! SUPPORT. Which parts of the device each function of Machine/HostLink.lean can change. -/

-- one declaration after the other: the package is also compiled as one text, in limited memory
set_option Elab.async false

set_option linter.all false

namespace Sys2Proof.Machine

variable {L : List Part} {base : Dev}

theorem onPath_framed (path : HostPath) (f : Dev → Dev) (d : Dev) (hL : ∀ p ∈ ([] : List Part), p ∈ L) (hf : ∀  (d
    : Dev), Framed L base d → Framed L base (f  d)) (hd : Framed L base d) : Framed L base (onPath path f d) := by
  unfold onPath
  repeat' first | with_reducible assumption | with_reducible apply hf | with_reducible apply ite_framed

theorem riseVectors_framed (old : HostS) (d : Dev) (hL : ∀ p ∈ ([.out, .ints] : List Part), p ∈ L) (hd
    : Framed L base d) : Framed L base (riseVectors old d) := by
  unfold riseVectors
  repeat' first
      | with_reducible assumption | with_reducible intro _ | with_reducible apply forEach_framed
      | with_reducible apply sendVector_framed | with_reducible apply ite_framed

theorem onMailbox_framed (path : HostPath) (f : Mailbox → Mailbox) (d : Dev) (hL : ∀ p ∈ ([.mail] : List Part), p ∈ L)
    (hd : Framed L base d) : Framed L base (onMailbox path f d) := by
  have m0 : Part.mail ∈ L := hL _ (.head _)
  cases path
  · exact onHost_framed _ _ ⟨.inl rfl, .inl rfl, .inr m0⟩ hd
  · exact onHost_framed _ _ ⟨.inl rfl, .inl rfl, .inr m0⟩ hd

theorem fetchNext_framed (r : Fin 10) (d : Dev) (hL : ∀ p ∈ ([.out, .host] : List Part), p ∈ L) (hd
    : Framed L base d) : Framed L base (fetchNext r d) := by
  unfold fetchNext
  repeat' first
      | with_reducible assumption | with_reducible exact Framed.sub rfl hL | with_reducible apply onRing_framed
      | with_reducible apply emit_framed | with_reducible apply ite_framed

theorem stopRing_framed (r : Fin 10) (code : Nat) (d : Dev) (hL : ∀ p ∈ ([.out, .host, .ints] : List Part), p ∈ L)
    (hd : Framed L base d) : Framed L base (stopRing r code d) := by
  unfold stopRing
  repeat' first
      | with_reducible assumption | with_reducible exact Framed.sub rfl hL | with_reducible apply onRing_framed
      | with_reducible apply setInt_framed

theorem enableRing_framed (r : Fin 10) (d : Dev) (hL : ∀ p ∈ ([.out, .host, .ints] : List Part), p ∈ L) (hd
    : Framed L base d) : Framed L base (enableRing r d) := by
  unfold enableRing
  repeat' first
      | with_reducible assumption | with_reducible exact Framed.sub rfl hL | with_reducible apply onRing_framed
      | with_reducible apply setInt_framed | with_reducible apply ite_framed

theorem disableRing_framed (r : Fin 10) (d : Dev) (hL : ∀ p ∈ ([.host] : List Part), p ∈ L) (hd : Framed L base d)
    : Framed L base (disableRing r d) := by
  unfold disableRing
  repeat' first | with_reducible assumption | with_reducible apply onRing_framed

theorem writeTail_framed (r : Fin 10) (v : Nat) (d : Dev) (hL : ∀ p ∈ ([.out, .host] : List Part), p ∈ L) (hd
    : Framed L base d) : Framed L base (writeTail r v d) := by
  unfold writeTail
  repeat' first
      | with_reducible assumption | with_reducible exact Framed.sub rfl hL | with_reducible apply fetchNext_framed
      | with_reducible apply onRing_framed | with_reducible apply ite_framed

theorem stampCopy_framed (p : Port) (uid : Nat) (d : Dev) (hL : ∀ p ∈ ([.queues, .time] : List Part), p ∈ L) (hd
    : Framed L base d) : Framed L base (stampCopy p uid d) := by
  have m0 : Part.queues ∈ L := hL _ (.head _)
  unfold stampCopy
  repeat' first
      | with_reducible assumption | with_reducible exact Framed.sub rfl hL | with_reducible apply takeIdent_framed
      | ((with_reducible apply onFab_framed) ; (focus ((repeat' (apply And.intro)) ; (apply Or.inl ; first | rfl | (simp only [FabricS.rest] ; done) | (simp only [FabricS.rest] ; split <;> rfl)) ; exact .inr m0)))
      | with_reducible apply ite_framed

theorem admitTx_framed (r : Fin 10) (index : Nat) (desc buf : List Byte) (d : Dev) (hL : ∀ p ∈
    ([.fresh, .out, .regs, .fab, .queues, .ports, .time, .sched, .host, .ints, .counters] : List Part), p ∈ L) (hd
    : Framed L base d) : Framed L base (admitTx r index desc buf d) := by
  unfold admitTx
  repeat' first
      | with_reducible assumption | with_reducible exact Framed.sub rfl hL | with_reducible intro _
      | with_reducible apply stampCopy_framed | with_reducible apply dispatchFrame_framed
      | with_reducible apply onlyIf_framed | with_reducible apply draw_framed | split

theorem serveBlock_framed (d : Dev) (hL : ∀ p ∈ ([.out, .strm, .host, .ints] : List Part), p ∈ L) (hd
    : Framed L base d) : Framed L base (serveBlock d) := by
  unfold serveBlock
  repeat' first
      | with_reducible assumption | with_reducible exact Framed.sub rfl hL | with_reducible apply fetchNext_framed
      | with_reducible apply onStream_framed | with_reducible apply writeBackOne_framed
      | with_reducible apply onRing_framed | with_reducible apply emits_framed | with_reducible apply ite_framed
      | split | dsimp only [id]

theorem takeBlock_framed (i : Nat) (desc bytes : List Byte) (d : Dev) (hL : ∀ p ∈ ([.out, .strm, .host, .ints]
    : List Part), p ∈ L) (hd : Framed L base d) : Framed L base (takeBlock i desc bytes d) := by
  unfold takeBlock
  repeat' first
      | with_reducible assumption | with_reducible exact Framed.sub rfl hL | with_reducible apply fetchNext_framed
      | with_reducible apply onStream_framed | with_reducible apply writeBackOne_framed
      | with_reducible apply onRing_framed

theorem takeDescriptor_framed (r : Fin 10) (i : Nat) (desc : List Byte) (d : Dev) (hL : ∀ p ∈
    ([.out, .fab, .queues, .strm, .host, .ints] : List Part), p ∈ L) (hd : Framed L base d) : Framed L base
    (takeDescriptor r i desc d) := by
  unfold takeDescriptor
  repeat' first
      | with_reducible assumption | with_reducible exact Framed.sub rfl hL | with_reducible apply serveBlock_framed
      | with_reducible apply fetchNext_framed | with_reducible apply sweepCells_framed
      | with_reducible apply drainHost_framed | with_reducible apply completeTx_framed
      | with_reducible apply onRing_framed | with_reducible apply emit_framed | with_reducible apply ite_framed

theorem execDmaReadCompletion_framed (ring : Fin 10) (bytes : List Byte) (s : State)
    : DoesFramed [.fresh, .out, .regs, .fab, .queues, .ports, .time, .sched, .strm, .host, .ints, .counters] s
    (execDmaReadCompletion ring bytes s) := by
  unfold execDmaReadCompletion
  first | with_reducible apply does_framed | (with_reducible refine doesJudged_framed _ _ ?_ rfl) | skip
  all_goals (try (intro L base d hL hd ; beta_reduce))
  repeat' first
      | with_reducible assumption | with_reducible exact Framed.sub rfl hL
      | with_reducible apply takeDescriptor_framed | with_reducible apply takeBlock_framed
      | with_reducible apply admitTx_framed | with_reducible apply fetchNext_framed
      | with_reducible apply onRing_framed | with_reducible apply ite_framed | split

theorem execSampleFetch_framed (s : Fin 64) (st : State) : DoesFramed [.out, .strm, .host, .ints] st
    (execSampleFetch s st) := by
  unfold execSampleFetch
  first | with_reducible apply does_framed | (with_reducible refine doesJudged_framed _ _ ?_ rfl) | skip
  all_goals (try (intro L base d hL hd ; beta_reduce))
  repeat' first
      | with_reducible assumption | with_reducible apply serveBlock_framed | with_reducible apply ite_framed
      | split

theorem execDmaError_framed (ring : Fin 10) (s : State) : DoesFramed [.out, .host, .ints] s
    (execDmaError ring s) := by
  unfold execDmaError
  first | with_reducible apply does_framed | (with_reducible refine doesJudged_framed _ _ ?_ rfl) | skip
  all_goals (try (intro L base d hL hd ; beta_reduce))
  repeat' first | with_reducible assumption | with_reducible apply stopRing_framed | with_reducible apply ite_framed

theorem execDmaCompletionTimeout_framed (ring : Fin 10) (s : State)
    : DoesFramed [.clock, .out, .host, .ints, .counters] s (execDmaCompletionTimeout ring s) := by
  unfold execDmaCompletionTimeout
  first | with_reducible apply does_framed | (with_reducible refine doesJudged_framed _ _ ?_ rfl) | skip
  all_goals (try (intro L base d hL hd ; beta_reduce))
  repeat' first
      | with_reducible assumption | with_reducible exact Framed.sub rfl hL | with_reducible apply stopRing_framed
      | with_reducible apply arrive_framed | split

theorem execRingEnable_framed (path : HostPath) (ring : Fin 10) (s : State) : DoesFramed [.out, .host, .ints] s
    (execRingEnable path ring s) := by
  unfold execRingEnable
  first | with_reducible apply does_framed | (with_reducible refine doesJudged_framed _ _ ?_ rfl) | skip
  all_goals (try (intro L base d hL hd ; beta_reduce))
  repeat' first
      | with_reducible assumption | with_reducible exact Framed.sub rfl hL | with_reducible intro _
      | with_reducible apply enableRing_framed | with_reducible apply onPath_framed
      | with_reducible apply ite_framed

theorem execRingDisable_framed (path : HostPath) (ring : Fin 10) (s : State) : DoesFramed [.host] s
    (execRingDisable path ring s) := by
  unfold execRingDisable
  first | with_reducible apply does_framed | (with_reducible refine doesJudged_framed _ _ ?_ rfl) | skip
  all_goals (try (intro L base d hL hd ; beta_reduce))
  repeat' first
      | with_reducible assumption | with_reducible exact Framed.sub rfl hL | with_reducible intro _
      | with_reducible apply disableRing_framed | with_reducible apply onPath_framed
      | with_reducible apply ite_framed

theorem execTail_framed (path : HostPath) (ring : Fin 10) (value : Word32) (s : State) : DoesFramed [.out, .host] s
    (execTail path ring value s) := by
  unfold execTail
  first | with_reducible apply does_framed | (with_reducible refine doesJudged_framed _ _ ?_ rfl) | skip
  all_goals (try (intro L base d hL hd ; beta_reduce))
  repeat' first
      | with_reducible assumption | with_reducible exact Framed.sub rfl hL | with_reducible intro _
      | with_reducible apply writeTail_framed | with_reducible apply onPath_framed
      | with_reducible apply ite_framed

theorem execRingModerationEnd_framed (ring : Fin 10) (s : State)
    : DoesFramed [.clock, .out, .host, .ints, .counters] s (execRingModerationEnd ring s) := by
  unfold execRingModerationEnd
  first | with_reducible apply does_framed | (with_reducible refine doesJudged_framed _ _ ?_ rfl) | skip
  all_goals (try (intro L base d hL hd ; beta_reduce))
  repeat' first
      | with_reducible assumption | with_reducible exact Framed.sub rfl hL | with_reducible apply onRing_framed
      | with_reducible apply setInt_framed | with_reducible apply arrive_framed | with_reducible apply ite_framed
      | split | dsimp only [id]

theorem clearInt_framed (v : Word32) (d : Dev) (hL : ∀ p ∈ ([.out, .ints] : List Part), p ∈ L) (hd
    : Framed L base d) : Framed L base (clearInt v d) := by
  have m1 : Part.ints ∈ L := hL _ (.tail _ (.head _))
  unfold clearInt
  repeat' first
      | with_reducible assumption | with_reducible intro _
      | ((with_reducible apply onHost_framed) ; (focus ((repeat' (apply And.intro)) ; (apply Or.inl ; simp only [HostS.registers]) ; exact .inr m1 ; exact .inl rfl)))
      | with_reducible apply forEach_framed | with_reducible apply sendVector_framed
      | with_reducible apply ite_framed

theorem execIntStatusClear_framed (path : HostPath) (value : Word32) (s : State) : DoesFramed [.out, .ints] s
    (execIntStatusClear path value s) := by
  unfold execIntStatusClear
  first | with_reducible apply does_framed | (with_reducible refine doesJudged_framed _ _ ?_ rfl) | skip
  all_goals (try (intro L base d hL hd ; beta_reduce))
  repeat' first
      | with_reducible assumption | with_reducible exact Framed.sub rfl hL | with_reducible intro _
      | with_reducible apply clearInt_framed | with_reducible apply onPath_framed

theorem snapTime_framed (path : HostPath) (d : Dev) (hL : ∀ p ∈ ([.host] : List Part), p ∈ L) (hd : Framed L base d)
    : Framed L base (snapTime path d) := by
  have m0 : Part.host ∈ L := hL _ (.head _)
  unfold snapTime
  repeat' first
      | with_reducible assumption
      | ((with_reducible apply onHost_framed) ; (focus ((repeat' (apply And.intro)) ; exact .inr m0 ; exact .inl rfl ; exact .inl rfl)))
      | split

theorem captureTime_framed (path : HostPath) (d : Dev) (hL : ∀ p ∈ ([.out, .host, .ints] : List Part), p ∈ L) (hd
    : Framed L base d) : Framed L base (captureTime path d) := by
  have m1 : Part.host ∈ L := hL _ (.tail _ (.head _))
  have m2 : Part.ints ∈ L := hL _ (.tail _ (.tail _ (.head _)))
  unfold captureTime
  repeat' first
      | with_reducible assumption | with_reducible exact Framed.sub rfl hL
      | ((with_reducible apply onHost_framed) ; (focus ((repeat' (apply And.intro)) ; exact .inr m1 ; exact .inr m2 ; exact .inl rfl)))
      | with_reducible apply setInt_framed | with_reducible apply ite_framed

theorem execTcapTrigger_framed (path : HostPath) (s : State) : DoesFramed [.out, .host, .ints] s
    (execTcapTrigger path s) := by
  unfold execTcapTrigger
  first | with_reducible apply does_framed | (with_reducible refine doesJudged_framed _ _ ?_ rfl) | skip
  all_goals (try (intro L base d hL hd ; beta_reduce))
  repeat' first
      | with_reducible assumption | with_reducible exact Framed.sub rfl hL | with_reducible intro _
      | with_reducible apply captureTime_framed | with_reducible apply onPath_framed

theorem beforeRead_framed (path : HostPath) (off : Nat) (d : Dev) (hL : ∀ p ∈ ([.host] : List Part), p ∈ L) (hd
    : Framed L base d) : Framed L base (beforeRead path off d) := by
  unfold beforeRead
  repeat' first | with_reducible assumption | with_reducible apply snapTime_framed | with_reducible apply ite_framed

theorem afterRead_framed (path : HostPath) (off : Nat) (d : Dev) (hL : ∀ p ∈ ([.host] : List Part), p ∈ L) (hd
    : Framed L base d) : Framed L base (afterRead path off d) := by
  have m0 : Part.host ∈ L := hL _ (.head _)
  unfold afterRead
  repeat' first
      | with_reducible assumption
      | ((with_reducible apply onHost_framed) ; (focus ((repeat' (apply And.intro)) ; exact .inr m0 ; exact .inl rfl ; exact .inl rfl)))
      | with_reducible apply onRing_framed | with_reducible apply ite_framed

theorem readOne_framed (path : HostPath) (off : Nat) (d : Dev) (hL : ∀ p ∈ ([.host] : List Part), p ∈ L) (hd
    : Framed L base d) : Framed L base (readOne path off d).2 := by
  unfold readOne
  repeat' first
      | with_reducible assumption | with_reducible apply afterRead_framed | with_reducible apply beforeRead_framed

theorem readOne_pair (path : HostPath) (off : Nat) (d : Dev) {r0 : _} {d' : Dev} (e : readOne path off d = (r0, d'))
    (hL : ∀ p ∈ ([.host] : List Part), p ∈ L) (hd : Framed L base d) : Framed L base d' := by
  have := readOne_framed path off d hL hd
  rw [e] at this
  exact this

theorem readReg_framed (path : HostPath) (off : Nat) (s : State) : DoesFramed [.out, .host] s
    (readReg path off s) := by
  unfold readReg
  first | with_reducible apply does_framed | (with_reducible refine doesJudged_framed _ _ ?_ rfl) | skip
  all_goals (try (intro L base d hL hd ; beta_reduce))
  repeat' first
      | with_reducible assumption | with_reducible exact Framed.sub rfl hL | with_reducible intro _
      | with_reducible apply readOne_framed | with_reducible apply onPath_framed | with_reducible apply emit_framed

theorem execTimeLoRead_framed (path : HostPath) (s : State) : DoesFramed [.out, .host] s (execTimeLoRead path s) := by
  unfold execTimeLoRead
  first | with_reducible apply does_framed | (with_reducible refine doesJudged_framed _ _ ?_ rfl) | with_reducible apply readReg_framed | skip
  all_goals (try (intro L base d hL hd ; beta_reduce))
  skip

theorem execTcapHiRead_framed (path : HostPath) (s : State) : DoesFramed [.out, .host] s (execTcapHiRead path s) := by
  unfold execTcapHiRead
  first | with_reducible apply does_framed | (with_reducible refine doesJudged_framed _ _ ?_ rfl) | with_reducible apply readReg_framed | skip
  all_goals (try (intro L base d hL hd ; beta_reduce))
  skip

theorem execTcapStatusRead_framed (path : HostPath) (s : State) : DoesFramed [.out, .host] s
    (execTcapStatusRead path s) := by
  unfold execTcapStatusRead
  first | with_reducible apply does_framed | (with_reducible refine doesJudged_framed _ _ ?_ rfl) | with_reducible apply readReg_framed | skip
  all_goals (try (intro L base d hL hd ; beta_reduce))
  skip

theorem execHspStatusRead_framed (path : HostPath) (s : State) : DoesFramed [.out, .host] s
    (execHspStatusRead path s) := by
  unfold execHspStatusRead
  first | with_reducible apply does_framed | (with_reducible refine doesJudged_framed _ _ ?_ rfl) | with_reducible apply readReg_framed | skip
  all_goals (try (intro L base d hL hd ; beta_reduce))
  skip

theorem execDropsRead_framed (path : HostPath) (ring : Fin 10) (s : State) : DoesFramed [.out, .host] s
    (execDropsRead path ring s) := by
  unfold execDropsRead
  first | with_reducible apply does_framed | (with_reducible refine doesJudged_framed _ _ ?_ rfl) | with_reducible apply readReg_framed | skip
  all_goals (try (intro L base d hL hd ; beta_reduce))
  skip

theorem writeRing_framed (r : Fin 10) (off v : Nat) (d : Dev) (hL : ∀ p ∈ ([.out, .host, .ints] : List Part), p ∈ L)
    (hd : Framed L base d) : Framed L base (writeRing r off v d) := by
  unfold writeRing
  repeat' first
      | with_reducible assumption | with_reducible exact Framed.sub rfl hL | with_reducible apply writeTail_framed
      | with_reducible apply disableRing_framed | with_reducible apply enableRing_framed
      | with_reducible apply onRing_framed | with_reducible apply ite_framed

theorem writeRegister_framed (bell : HostPath → Dev → Dev) (path : HostPath) (off : Nat) (v : Word32) (d : Dev) (hL
    : ∀ p ∈ ([.out, .host, .ints, .mail] : List Part), p ∈ L) (hbell : ∀ y0 (d
    : Dev), Framed L base d → Framed L base (bell y0 d)) (hd : Framed L base d) : Framed L base
    (writeRegister bell path off v d) := by
  have m1 : Part.host ∈ L := hL _ (.tail _ (.head _))
  have m2 : Part.ints ∈ L := hL _ (.tail _ (.tail _ (.head _)))
  have m3 : Part.mail ∈ L := hL _ (.tail _ (.tail _ (.tail _ (.head _))))
  unfold writeRegister
  repeat' first
      | with_reducible assumption | with_reducible exact Framed.sub rfl hL | with_reducible apply writeRing_framed
      | with_reducible apply captureTime_framed | with_reducible apply clearInt_framed
      | with_reducible apply onMailbox_framed | with_reducible apply riseVectors_framed
      | ((with_reducible apply onHost_framed) ; (focus ((repeat' (apply And.intro)) ; exact .inr m1 ; exact .inr m2 ; exact .inr m3)))
      | with_reducible apply emit_framed | with_reducible apply hbell | with_reducible apply ite_framed

theorem refuseSerial_framed (d : Dev) (hL : ∀ p ∈ ([.host] : List Part), p ∈ L) (hd : Framed L base d)
    : Framed L base (refuseSerial d) := by
  have m0 : Part.host ∈ L := hL _ (.head _)
  unfold refuseSerial
  repeat' first
      | with_reducible assumption
      | ((with_reducible apply onHost_framed) ; (focus ((repeat' (apply And.intro)) ; exact .inr m0 ; exact .inl rfl ; exact .inl rfl)))

theorem serialWrite_framed (bell : HostPath → Dev → Dev) (address count : Nat) (data : List Byte) (crc : Byte) (d
    : Dev) (hL : ∀ p ∈ ([.out, .host, .ints, .mail] : List Part), p ∈ L) (hbell : ∀ y0 (d
    : Dev), Framed L base d → Framed L base (bell y0 d)) (hd : Framed L base d) : Framed L base
    (serialWrite bell address count data crc d) := by
  have m1 : Part.host ∈ L := hL _ (.tail _ (.head _))
  have m2 : Part.ints ∈ L := hL _ (.tail _ (.tail _ (.head _)))
  have m3 : Part.mail ∈ L := hL _ (.tail _ (.tail _ (.tail _ (.head _))))
  unfold serialWrite
  repeat' first
      | with_reducible assumption | with_reducible exact Framed.sub rfl hL | with_reducible intro _
      | with_reducible apply refuseSerial_framed | with_reducible apply writeRegister_framed
      | ((with_reducible apply onHost_framed) ; (focus ((repeat' (apply And.intro)) ; exact .inr m1 ; exact .inr m2 ; exact .inr m3)))
      | with_reducible apply foldl_snd_framed | with_reducible apply ite_framed

theorem serialReads_framed (n a i : Nat) (d : Dev) (hL : ∀ p ∈ ([.host] : List Part), p ∈ L) (hd : Framed L base d) :
    Framed L base (serialReads n a i d).2 := by
  induction n generalizing i d with
  | zero => exact hd
  | succ n ih =>
    unfold serialReads
    exact ih _ _ (readOne_framed _ _ _ hL hd)
theorem serialReads_pair {n a i : Nat} {d : Dev} {r : List Byte} {d' : Dev} (e : serialReads n a i d = (r, d'))
    (hL : ∀ p ∈ ([.host] : List Part), p ∈ L) (hd : Framed L base d) : Framed L base d' := by
  have := serialReads_framed n a i d hL hd
  rw [e] at this
  exact this

theorem execSerialRead_framed (address : BitVec 13) (words : Nat) (s : State) : DoesFramed [.out, .host] s
    (execSerialRead address words s) := by
  unfold execSerialRead
  first | with_reducible apply does_framed | (with_reducible refine doesJudged_framed _ _ ?_ rfl) | skip
  all_goals (try (intro L base d hL hd ; have m1 : Part.host ∈ L := hL _ (.tail _ (.head _))))
  all_goals (try beta_reduce)
  repeat' first
      | with_reducible assumption | with_reducible exact Framed.sub rfl hL | with_reducible intro _
      | with_reducible apply serialReads_framed | with_reducible apply onPath_framed
      | ((with_reducible apply onHost_framed) ; (focus ((repeat' (apply And.intro)) ; exact .inr m1 ; exact .inl rfl ; exact .inl rfl)))
      | with_reducible apply emit_framed

theorem execSerialUnknownCommand_framed (_command : BitVec 8) (s : State) : DoesFramed [.host] s
    (execSerialUnknownCommand _command s) := by
  unfold execSerialUnknownCommand
  first | with_reducible apply does_framed | (with_reducible refine doesJudged_framed _ _ ?_ rfl) | skip
  all_goals (try (intro L base d hL hd ; have m0 : Part.host ∈ L := hL _ (.head _)))
  all_goals (try beta_reduce)
  repeat' first
      | with_reducible assumption | with_reducible exact Framed.sub rfl hL | with_reducible intro _
      | with_reducible apply onPath_framed
      | ((with_reducible apply onHost_framed) ; (focus ((repeat' (apply And.intro)) ; exact .inr m0 ; exact .inl rfl ; exact .inl rfl)))

theorem resetHostBlock_framed (serial : Bool) (d : Dev) (hL : ∀ p ∈ ([.host, .ints, .mail] : List Part), p ∈ L) (hd
    : Framed L base d) : Framed L base (resetHostBlock serial d) := by
  have m0 : Part.host ∈ L := hL _ (.head _)
  have m1 : Part.ints ∈ L := hL _ (.tail _ (.head _))
  have m2 : Part.mail ∈ L := hL _ (.tail _ (.tail _ (.head _)))
  unfold resetHostBlock
  repeat' first
      | with_reducible assumption
      | ((with_reducible apply onHost_framed) ; (focus ((repeat' (apply And.intro)) ; exact .inr m0 ; exact .inr m1 ; exact .inr m2)))

theorem execPerstNFall_framed (s : State) : DoesFramed [.host, .ints, .mail] s (execPerstNFall s) := by
  unfold execPerstNFall
  first | with_reducible apply does_framed | (with_reducible refine doesJudged_framed _ _ ?_ rfl) | skip
  all_goals (try (intro L base d hL hd ; have m0 : Part.host ∈ L := hL _ (.head _) ; have m1 : Part.ints ∈ L := hL _ (.tail _ (.head _)) ; have m2 : Part.mail ∈ L := hL _ (.tail _ (.tail _ (.head _)))))
  all_goals (try beta_reduce)
  repeat' first
      | with_reducible assumption | with_reducible apply resetHostBlock_framed
      | ((with_reducible apply onHost_framed) ; (focus ((repeat' (apply And.intro)) ; exact .inr m0 ; exact .inr m1 ; exact .inr m2)))
      | with_reducible apply ite_framed

theorem execPerstNRise_framed (s : State) : DoesFramed [.host] s (execPerstNRise s) := by
  unfold execPerstNRise
  first | with_reducible apply does_framed | (with_reducible refine doesJudged_framed _ _ ?_ rfl) | skip
  all_goals (try (intro L base d hL hd ; have m0 : Part.host ∈ L := hL _ (.head _)))
  all_goals (try beta_reduce)
  repeat' first
      | with_reducible assumption
      | ((with_reducible apply onHost_framed) ; (focus ((repeat' (apply And.intro)) ; exact .inr m0 ; exact .inl rfl ; exact .inl rfl)))
      | with_reducible apply ite_framed

theorem execFunctionLevelReset_framed (s : State) : DoesFramed [.host, .ints, .mail] s
    (execFunctionLevelReset s) := by
  unfold execFunctionLevelReset
  first | with_reducible apply does_framed | (with_reducible refine doesJudged_framed _ _ ?_ rfl) | skip
  all_goals (try (intro L base d hL hd ; beta_reduce))
  repeat' first
      | with_reducible assumption | with_reducible apply resetHostBlock_framed | with_reducible apply ite_framed

theorem hostBoot_framed (d : Dev) (hL : ∀ p ∈ ([.host] : List Part), p ∈ L) (hd : Framed L base d) : Framed L base
    (hostBoot d) := by
  have m0 : Part.host ∈ L := hL _ (.head _)
  unfold hostBoot
  repeat' first
      | with_reducible assumption
      | ((with_reducible apply onHost_framed) ; (focus ((repeat' (apply And.intro)) ; exact .inr m0 ; exact .inl rfl ; exact .inl rfl)))

end Sys2Proof.Machine
end

