-- ==== Sys2Proof/Laws/Framed/Profiles.lean ====
section
/-! SUPPORT. Which parts of the device each function of Machine/Profiles.lean can change. -/

-- one declaration after the other: the package is also compiled as one text, in limited memory
set_option Elab.async false

set_option linter.all false

namespace Sys2Proof.Machine

variable {L : List Part} {base : Dev}

theorem onNode_framed (f : NodeS → NodeS) (d : Dev) (hL : ∀ p ∈ ([.node] : List Part), p ∈ L) (hd : Framed L base d)
    : Framed L base (onNode f d) := by
  have m0 : Part.node ∈ L := hL _ (.head _)
  unfold onNode
  repeat' first
      | with_reducible assumption
      | (fail_if_no_progress ((with_reducible apply Framed.upd) ; (iterate 4 exact .inl rfl) ; exact .inr m0 ; (iterate 17 exact .inl rfl)))

theorem setOperating_framed (clock : Nat → Nat) (mv : Nat) (d : Dev) (hL : ∀ p ∈ ([.out, .regs, .health]
    : List Part), p ∈ L) (hd : Framed L base d) : Framed L base (setOperating clock mv d) := by
  have m2 : Part.health ∈ L := hL _ (.tail _ (.tail _ (.head _)))
  unfold setOperating
  repeat' first
      | with_reducible assumption | with_reducible exact Framed.sub rfl hL
      | ((with_reducible apply onHealth_framed) ; (focus ((repeat' (apply And.intro)) ; exact .inr m2 ; exact .inl rfl)))
      | with_reducible apply emit_framed | with_reducible apply setReg_framed | with_reducible apply ite_framed

theorem fastBegins_framed (back : Nat) (d : Dev) (hL : ∀ p ∈ ([.out, .regs, .node, .health] : List Part), p ∈ L) (hd
    : Framed L base d) : Framed L base (fastBegins back d) := by
  unfold fastBegins
  repeat' first
      | with_reducible assumption | with_reducible exact Framed.sub rfl hL
      | with_reducible apply setOperating_framed | with_reducible apply onNode_framed

theorem fastEnds_framed (d : Dev) (hL : ∀ p ∈ ([.out, .regs, .node, .health] : List Part), p ∈ L) (hd
    : Framed L base d) : Framed L base (fastEnds d) := by
  have m3 : Part.health ∈ L := hL _ (.tail _ (.tail _ (.tail _ (.head _))))
  unfold fastEnds
  repeat' first
      | with_reducible assumption | with_reducible exact Framed.sub rfl hL
      | with_reducible apply setOperating_framed | with_reducible apply onNode_framed
      | ((with_reducible apply onHealth_framed) ; (focus ((repeat' (apply And.intro)) ; exact .inr m3 ; exact .inl rfl)))

theorem serviceStops_framed (d : Dev) (hL : ∀ p ∈ ([.out, .queues, .sched, .strm, .host, .ints] : List Part), p ∈ L)
    (hd : Framed L base d) : Framed L base (serviceStops d) := by
  unfold serviceStops
  repeat' first
      | with_reducible assumption | with_reducible exact Framed.sub rfl hL
      | with_reducible apply applyStreams_framed | with_reducible apply dropQ6_framed
      | with_reducible apply closeWindows_framed | with_reducible apply onSched_framed

theorem serviceReturns_framed (d : Dev) (hL : ∀ p ∈ ([.out, .queues, .sched, .strm, .host, .ints]
    : List Part), p ∈ L) (hd : Framed L base d) : Framed L base (serviceReturns d) := by
  unfold serviceReturns
  repeat' first
      | with_reducible assumption | with_reducible exact Framed.sub rfl hL
      | with_reducible apply applyStreams_framed | with_reducible apply applySchedSource_framed
      | with_reducible apply ite_framed

theorem enterProfile_framed (n : Nat) (d : Dev) (hL : ∀ p ∈
    ([.fresh, .out, .regs, .node, .inaug, .fab, .queues, .ports, .time, .sched, .strm, .recd, .sleep, .load, .host, .ints, .health, .counters]
    : List Part), p ∈ L) (hd : Framed L base d) : Framed L base (enterProfile n d) := by
  have m5 : Part.fab ∈ L := hL _ (.tail _ (.tail _ (.tail _ (.tail _ (.tail _ (.head _))))))
  have m6 : Part.queues ∈ L := hL _ (.tail _ (.tail _ (.tail _ (.tail _ (.tail _ (.tail _ (.head _)))))))
  unfold enterProfile
  repeat' first
      | with_reducible assumption | with_reducible exact Framed.sub rfl hL | with_reducible intro _
      | with_reducible apply serviceReturns_framed | with_reducible apply serviceStops_framed
      | with_reducible apply fastEnds_framed | with_reducible apply fastBegins_framed
      | with_reducible apply onNode_framed | with_reducible apply settleNeed_framed
      | with_reducible apply plannerGate_framed | with_reducible apply applyPorts_framed
      | ((with_reducible apply onFab_framed) ; (focus ((repeat' (apply And.intro)) ; exact .inr m5 ; exact .inr m6)))
      | with_reducible apply onlyIf_framed | with_reducible apply bump_framed | with_reducible apply ite_framed

theorem profileAtCommit_framed (d : Dev) (hL : ∀ p ∈
    ([.fresh, .out, .regs, .node, .inaug, .fab, .queues, .ports, .time, .sched, .strm, .recd, .sleep, .load, .host, .ints, .health, .counters]
    : List Part), p ∈ L) (hd : Framed L base d) : Framed L base (profileAtCommit d) := by
  unfold profileAtCommit
  repeat' first
      | with_reducible assumption | with_reducible exact Framed.sub rfl hL
      | with_reducible apply enterProfile_framed | with_reducible apply onNode_framed
      | with_reducible apply ite_framed

theorem bootProfile_framed (d : Dev) (hL : ∀ p ∈
    ([.fresh, .out, .regs, .node, .inaug, .fab, .queues, .ports, .time, .sched, .strm, .recd, .sleep, .load, .host, .ints, .health, .counters]
    : List Part), p ∈ L) (hd : Framed L base d) : Framed L base (bootProfile d) := by
  unfold bootProfile
  repeat' first
      | with_reducible assumption | with_reducible exact Framed.sub rfl hL
      | with_reducible apply enterProfile_framed | with_reducible apply raise_framed
      | with_reducible apply bump_framed | with_reducible apply setReg_framed | with_reducible apply ite_framed

theorem leaveFast_framed (d : Dev) (hL : ∀ p ∈
    ([.fresh, .out, .regs, .node, .inaug, .fab, .queues, .ports, .time, .sched, .strm, .recd, .sleep, .load, .host, .ints, .health, .counters]
    : List Part), p ∈ L) (hd : Framed L base d) : Framed L base (leaveFast d) := by
  unfold leaveFast
  repeat' first
      | with_reducible assumption | with_reducible exact Framed.sub rfl hL
      | with_reducible apply enterProfile_framed | with_reducible apply setReg_framed
      | with_reducible apply ite_framed

theorem execFastStartTimeout_framed (s : State)
    : DoesFramed [.clock, .fresh, .out, .regs, .node, .inaug, .fab, .queues, .ports, .time, .sched, .strm, .recd, .sleep, .load, .host, .ints, .health, .counters] s
    (execFastStartTimeout s) := by
  unfold execFastStartTimeout
  first | with_reducible apply does_framed | (with_reducible refine doesJudged_framed _ _ ?_ rfl) | skip
  all_goals (try (intro L base d hL hd ; beta_reduce))
  repeat' first
      | with_reducible assumption | with_reducible exact Framed.sub rfl hL | with_reducible apply leaveFast_framed
      | with_reducible apply arrive_framed | split

theorem takeJunction_framed (reading : Int) (d : Dev) (hL : ∀ p ∈
    ([.fresh, .out, .regs, .node, .inaug, .fab, .queues, .ports, .time, .sched, .strm, .recd, .sleep, .load, .host, .ints, .health, .counters]
    : List Part), p ∈ L) (hd : Framed L base d) : Framed L base (takeJunction reading d) := by
  unfold takeJunction
  repeat' first
      | with_reducible assumption | with_reducible exact Framed.sub rfl hL | with_reducible apply leaveFast_framed
      | with_reducible apply junctionReading_framed | with_reducible apply raise_framed
      | with_reducible apply draw_framed | with_reducible apply ite_framed

theorem execFastStartThermalEnd_framed (reading : Int) (s : State)
    : DoesFramed [.fresh, .out, .regs, .node, .inaug, .fab, .queues, .ports, .time, .sched, .strm, .recd, .sleep, .load, .host, .ints, .health, .counters] s
    (execFastStartThermalEnd reading s) := by
  unfold execFastStartThermalEnd
  first | with_reducible apply does_framed | (with_reducible refine doesJudged_framed _ _ ?_ rfl) | skip
  all_goals (try (intro L base d hL hd ; beta_reduce))
  repeat' first | with_reducible assumption | with_reducible apply takeJunction_framed

theorem execJunctionTemperatureMaximum_framed (reading : Int) (s : State)
    : DoesFramed [.fresh, .out, .regs, .node, .inaug, .fab, .queues, .ports, .time, .sched, .strm, .recd, .sleep, .load, .host, .ints, .health, .counters] s
    (execJunctionTemperatureMaximum reading s) := by
  unfold execJunctionTemperatureMaximum
  first | with_reducible apply does_framed | (with_reducible refine doesJudged_framed _ _ ?_ rfl) | skip
  all_goals (try (intro L base d hL hd ; beta_reduce))
  repeat' first | with_reducible assumption | with_reducible apply takeJunction_framed

theorem stepDone_framed (d : Dev) (hL : ∀ p ∈
    ([.fresh, .out, .regs, .node, .inaug, .fab, .queues, .ports, .time, .sched, .strm, .recd, .sleep, .load, .host, .ints, .health, .counters]
    : List Part), p ∈ L) (hd : Framed L base d) : Framed L base (stepDone d) := by
  unfold stepDone
  repeat' first
      | with_reducible assumption | with_reducible exact Framed.sub rfl hL
      | with_reducible apply enterProfile_framed | with_reducible apply onNode_framed | split

theorem stepEnds_framed (d : Dev) (hL : ∀ p ∈
    ([.fresh, .out, .regs, .node, .inaug, .fab, .queues, .ports, .time, .sched, .strm, .recd, .sleep, .load, .host, .ints, .health, .counters]
    : List Part), p ∈ L) (hd : Framed L base d) : Framed L base (stepEnds d) := by
  unfold stepEnds
  repeat' first | with_reducible assumption | with_reducible apply stepDone_framed | with_reducible apply ite_framed

theorem execSliceFault_framed (slice : Slice) (t : SliceTrigger) (s : State)
    : DoesFramed [.fresh, .out, .regs, .node, .inaug, .fab, .queues, .ports, .time, .sched, .strm, .recd, .sleep, .load, .host, .ints, .health, .counters] s
    (execSliceFault slice t s) := by
  unfold execSliceFault
  first | with_reducible apply does_framed | (with_reducible refine doesJudged_framed _ _ ?_ rfl) | skip
  all_goals (try (intro L base d hL hd ; beta_reduce))
  repeat' first
      | with_reducible assumption | with_reducible exact Framed.sub rfl hL | with_reducible apply stepEnds_framed
      | with_reducible apply sliceFault_framed | with_reducible apply ite_framed

theorem execEngineTestStep_framed (s : State) : DoesFramed [.out, .regs, .node, .fab, .recd, .ints, .counters] s
    (execEngineTestStep s) := by
  unfold execEngineTestStep
  first | with_reducible apply does_framed | (with_reducible refine doesJudged_framed _ _ ?_ rfl) | skip
  all_goals (try (intro L base d hL hd ; beta_reduce))
  repeat' first
      | with_reducible assumption | with_reducible exact Framed.sub rfl hL | with_reducible apply onNode_framed
      | with_reducible apply startRotation_framed | with_reducible apply takeEngineOut_framed
      | with_reducible apply ite_framed | split

theorem execEngineSelfTestEnd_framed (engine1 pass : Bool) (s : State)
    : DoesFramed [.fresh, .out, .regs, .node, .inaug, .fab, .queues, .ports, .time, .sched, .strm, .recd, .sleep, .load, .host, .ints, .health, .counters] s
    (execEngineSelfTestEnd engine1 pass s) := by
  unfold execEngineSelfTestEnd
  first | with_reducible apply does_framed | (with_reducible refine doesJudged_framed _ _ ?_ rfl) | skip
  all_goals (try (intro L base d hL hd ; have m5 : Part.fab ∈ L := hL _ (.tail _ (.tail _ (.tail _ (.tail _ (.tail _ (.head _)))))) ; have m6 : Part.queues ∈ L := hL _ (.tail _ (.tail _ (.tail _ (.tail _ (.tail _ (.tail _ (.head _)))))))))
  all_goals (try beta_reduce)
  repeat' first
      | with_reducible assumption | with_reducible exact Framed.sub rfl hL | with_reducible apply stepEnds_framed
      | ((with_reducible apply onFab_framed) ; (focus ((repeat' (apply And.intro)) ; exact .inr m5 ; exact .inr m6)))
      | with_reducible apply raise_framed | with_reducible apply ite_framed

theorem execRotationComplete_framed (s : State)
    : DoesFramed [.clock, .fresh, .out, .regs, .node, .inaug, .fab, .queues, .ports, .time, .sched, .strm, .recd, .sleep, .load, .host, .ints, .health, .counters] s
    (execRotationComplete s) := by
  unfold execRotationComplete
  first | with_reducible apply does_framed | (with_reducible refine doesJudged_framed _ _ ?_ rfl) | skip
  all_goals (try (intro L base d hL hd ; beta_reduce))
  repeat' first
      | with_reducible assumption | with_reducible exact Framed.sub rfl hL | with_reducible apply stepEnds_framed
      | with_reducible apply rotationEnds_framed | split

end Sys2Proof.Machine
end

