-- ==== Sys2Proof/Laws/Framed/Answers.lean ====
section
/-! SUPPORT. Which parts of the device each function of Machine/Answers.lean can change. -/

-- one declaration after the other: the package is also compiled as one text, in limited memory
set_option Elab.async false

set_option linter.all false

namespace Sys2Proof.Machine

variable {L : List Part} {base : Dev}

theorem sendKda_framed (peer : KdaPeer) (key : Option (List Byte)) (session seq : BitVec 32) (opcode : Nat) (payload
    : List Byte) (d : Dev) (hL : ∀ p ∈ ([.out, .regs, .queues, .counters] : List Part), p ∈ L) (hd
    : Framed L base d) : Framed L base (sendKda peer key session seq opcode payload d) := by
  unfold sendKda
  repeat' first
      | with_reducible assumption | with_reducible exact Framed.sub rfl hL | with_reducible apply sendOwn_framed
      | with_reducible apply emit_framed | with_reducible apply ite_framed

theorem onSession_framed (sid : BitVec 32) (f : KdaSession → KdaSession) (d : Dev) (hL : ∀ p ∈ ([.access]
    : List Part), p ∈ L) (hd : Framed L base d) : Framed L base (onSession sid f d) := by
  have m0 : Part.access ∈ L := hL _ (.head _)
  unfold onSession
  repeat' first
      | with_reducible assumption
      | ((with_reducible apply onDict_framed) ; (focus ((repeat' (apply And.intro)) ; exact .inl rfl ; exact .inl rfl ; exact .inl rfl ; exact .inl rfl ; exact .inr m0 ; exact .inl rfl)))

theorem sendStored_framed (s : KdaSession) (opcode : Nat) (payload : List Byte) (d : Dev) (hL : ∀ p ∈
    ([.out, .regs, .access, .queues, .counters] : List Part), p ∈ L) (hd : Framed L base d) : Framed L base
    (sendStored s opcode payload d) := by
  unfold sendStored
  repeat' first
      | with_reducible assumption | with_reducible exact Framed.sub rfl hL | with_reducible apply onSession_framed
      | with_reducible apply sendKda_framed

theorem answerMailbox_framed (path : HostPath) (src : Src) (rs : Resp) (d : Dev) (hL : ∀ p ∈ ([.out, .ints, .mail]
    : List Part), p ∈ L) (hd : Framed L base d) : Framed L base (answerMailbox path src rs d) := by
  unfold answerMailbox
  repeat' first
      | with_reducible assumption | with_reducible exact Framed.sub rfl hL | with_reducible apply onMailbox_framed
      | with_reducible apply setInt_framed | with_reducible apply emit_framed | with_reducible apply ite_framed

theorem sdoSend_framed (c : CanId) (frames : List (List Byte)) (d : Dev) (hL : ∀ p ∈ ([.out] : List Part), p ∈ L)
    (hd : Framed L base d) : Framed L base (sdoSend c frames d) := by
  unfold sdoSend
  repeat' first | with_reducible assumption | with_reducible apply emits_framed

theorem sdoAbort_framed (c : CanId) (idx sub code : Nat) (d : Dev) (hL : ∀ p ∈ ([.out] : List Part), p ∈ L) (hd
    : Framed L base d) : Framed L base (sdoAbort c idx sub code d) := by
  unfold sdoAbort
  repeat' first | with_reducible assumption | with_reducible apply sdoSend_framed | with_reducible apply emit_framed

theorem sdoIdle_framed (c : CanId) (d : Dev) (hL : ∀ p ∈ ([.access] : List Part), p ∈ L) (hd : Framed L base d)
    : Framed L base (sdoIdle c d) := by
  have m0 : Part.access ∈ L := hL _ (.head _)
  unfold sdoIdle
  repeat' first
      | with_reducible assumption
      | ((with_reducible apply onDict_framed) ; (focus ((repeat' (apply And.intro)) ; exact .inl rfl ; exact .inl rfl ; exact .inl rfl ; exact .inl rfl ; exact .inr m0 ; exact .inl rfl)))

theorem answer_framed (src : Src) (rs : Resp) (d : Dev) (hL : ∀ p ∈
    ([.out, .regs, .access, .queues, .ints, .mail, .counters] : List Part), p ∈ L) (hd : Framed L base d)
    : Framed L base (answer src rs d) := by
  unfold answer
  repeat' first
      | with_reducible assumption | with_reducible exact Framed.sub rfl hL | with_reducible apply sdoIdle_framed
      | with_reducible apply sdoAbort_framed | with_reducible apply sdoSend_framed
      | with_reducible apply answerMailbox_framed | with_reducible apply sendStored_framed
      | with_reducible apply emit_framed | with_reducible apply ite_framed | split

theorem answerWrite_framed (src : Src) (idx sub code : Nat) (d : Dev) (hL : ∀ p ∈
    ([.out, .regs, .access, .queues, .ints, .mail, .counters] : List Part), p ∈ L) (hd : Framed L base d)
    : Framed L base (answerWrite src idx sub code d) := by
  unfold answerWrite
  repeat' first | with_reducible assumption | with_reducible apply answer_framed

theorem countRefusal_framed (commit : Bool) (idx sub code : Nat) (d : Dev) (hL : ∀ p ∈ ([.regs] : List Part), p ∈ L)
    (hd : Framed L base d) : Framed L base (countRefusal commit idx sub code d) := by
  unfold countRefusal
  repeat' first | with_reducible assumption | with_reducible apply bump_framed | with_reducible apply setReg_framed

theorem refuseWrite_framed (src : Src) (idx sub code : Nat) (d : Dev) (hL : ∀ p ∈
    ([.out, .regs, .access, .queues, .ints, .mail, .counters] : List Part), p ∈ L) (hd : Framed L base d)
    : Framed L base (refuseWrite src idx sub code d) := by
  unfold refuseWrite
  repeat' first
      | with_reducible assumption | with_reducible exact Framed.sub rfl hL
      | with_reducible apply countRefusal_framed | with_reducible apply answerWrite_framed

theorem refuseCommit_framed (src : Src) (code : Nat) (d : Dev) (hL : ∀ p ∈
    ([.out, .regs, .staging, .access, .queues, .ints, .mail, .counters] : List Part), p ∈ L) (hd : Framed L base d)
    : Framed L base (refuseCommit src code d) := by
  have m1 : Part.regs ∈ L := hL _ (.tail _ (.head _))
  have m2 : Part.staging ∈ L := hL _ (.tail _ (.tail _ (.head _)))
  have m3 : Part.access ∈ L := hL _ (.tail _ (.tail _ (.tail _ (.head _))))
  unfold refuseCommit
  repeat' first
      | with_reducible assumption | with_reducible exact Framed.sub rfl hL
      | with_reducible apply countRefusal_framed | with_reducible apply answerWrite_framed
      | ((with_reducible apply onDict_framed) ; (focus ((repeat' (apply And.intro)) ; exact .inr m1 ; exact .inl rfl ; exact .inl rfl ; exact .inr m2 ; exact .inr m3 ; exact .inl rfl)))

theorem discardSet_framed (d : Dev) (hL : ∀ p ∈
    ([.out, .regs, .staging, .access, .queues, .recd, .ints, .mail, .counters] : List Part), p ∈ L) (hd
    : Framed L base d) : Framed L base (discardSet d) := by
  have m1 : Part.regs ∈ L := hL _ (.tail _ (.head _))
  have m2 : Part.staging ∈ L := hL _ (.tail _ (.tail _ (.head _)))
  have m3 : Part.access ∈ L := hL _ (.tail _ (.tail _ (.tail _ (.head _))))
  unfold discardSet
  repeat' first
      | with_reducible assumption | with_reducible exact Framed.sub rfl hL
      | with_reducible apply refuseCommit_framed
      | ((with_reducible apply onDict_framed) ; (focus ((repeat' (apply And.intro)) ; exact .inr m1 ; exact .inl rfl ; exact .inl rfl ; exact .inr m2 ; exact .inr m3 ; exact .inl rfl)))
      | with_reducible apply raise_framed | with_reducible apply ite_framed | split | dsimp only [id]

theorem dropOrphan_framed (d : Dev) (hL : ∀ p ∈
    ([.out, .regs, .staging, .access, .queues, .recd, .ints, .mail, .counters] : List Part), p ∈ L) (hd
    : Framed L base d) : Framed L base (dropOrphan d) := by
  unfold dropOrphan
  repeat' first
      | with_reducible assumption | with_reducible apply discardSet_framed | with_reducible apply ite_framed
      | split

theorem keepSessions_framed (keep : KdaSession → Bool) (d : Dev) (hL : ∀ p ∈
    ([.out, .regs, .staging, .access, .queues, .recd, .ints, .mail, .counters] : List Part), p ∈ L) (hd
    : Framed L base d) : Framed L base (keepSessions keep d) := by
  have m1 : Part.regs ∈ L := hL _ (.tail _ (.head _))
  have m2 : Part.staging ∈ L := hL _ (.tail _ (.tail _ (.head _)))
  have m3 : Part.access ∈ L := hL _ (.tail _ (.tail _ (.tail _ (.head _))))
  unfold keepSessions
  repeat' first
      | with_reducible assumption | with_reducible apply dropOrphan_framed
      | ((with_reducible apply onDict_framed) ; (focus ((repeat' (apply And.intro)) ; exact .inr m1 ; exact .inl rfl ; exact .inl rfl ; exact .inr m2 ; exact .inr m3 ; exact .inl rfl)))

end Sys2Proof.Machine
end

