-- ==== Sys2Proof/Laws/Framed/Power.lean ====
section
/-! SUPPORT. Which parts of the device each function of Machine/Power.lean can change. -/

-- one declaration after the other: the package is also compiled as one text, in limited memory
set_option Elab.async false

set_option linter.all false

namespace Sys2Proof.Machine

variable {L : List Part} {base : Dev}

theorem settleSafe_framed (d : Dev) (hL : ∀ p ∈
    ([.fresh, .out, .regs, .inaug, .queues, .time, .sched, .strm, .recd, .sleep, .host, .ints, .pow, .counters]
    : List Part), p ∈ L) (hd : Framed L base d) : Framed L base (settleSafe d) := by
  unfold settleSafe
  repeat' first
      | with_reducible assumption | with_reducible exact Framed.sub rfl hL | with_reducible intro _
      | with_reducible apply onPow_framed | with_reducible apply inaugSafeHigh_framed
      | with_reducible apply runBmca_framed | with_reducible apply onlyIf_framed
      | with_reducible apply setInt_framed | with_reducible apply ite_framed

theorem onPart_framed (b : Bool) (f : Partition → Partition) (d : Dev) (hL : ∀ p ∈ ([.pow] : List Part), p ∈ L) (hd
    : Framed L base d) : Framed L base (onPart b f d) := by
  unfold onPart
  repeat' first | with_reducible assumption | with_reducible apply onPow_framed

theorem markFailed_framed (b : Bool) (d : Dev) (hL : ∀ p ∈ ([.out, .regs, .recd, .ints, .pow, .counters]
    : List Part), p ∈ L) (hd : Framed L base d) : Framed L base (markFailed b d) := by
  unfold markFailed
  repeat' first
      | with_reducible assumption | with_reducible exact Framed.sub rfl hL | with_reducible apply onPart_framed
      | with_reducible apply raise_framed | with_reducible apply bump_framed

theorem failSpent_framed (b : Bool) (d : Dev) (hL : ∀ p ∈ ([.out, .regs, .recd, .ints, .pow, .counters]
    : List Part), p ∈ L) (hd : Framed L base d) : Framed L base (failSpent b d) := by
  unfold failSpent
  repeat' first | with_reducible assumption | with_reducible apply markFailed_framed | with_reducible apply ite_framed

theorem startImage_framed (b : Bool) (d : Dev) (hL : ∀ p ∈ ([.pow] : List Part), p ∈ L) (hd : Framed L base d)
    : Framed L base (startImage b d) := by
  unfold startImage
  repeat' first | with_reducible assumption | with_reducible apply onPart_framed | with_reducible apply onPow_framed

theorem selectImage_framed (d : Dev) (hL : ∀ p ∈ ([.out, .regs, .recd, .ints, .pow, .counters] : List Part), p ∈ L)
    (hd : Framed L base d) : Framed L base (selectImage d).1 := by
  unfold selectImage
  repeat' first
      | with_reducible assumption | with_reducible exact Framed.sub rfl hL | with_reducible apply startImage_framed
      | with_reducible apply failSpent_framed | with_reducible apply markFailed_framed | split | dsimp only [id]

theorem abortMailbox_framed (path : HostPath) (d : Dev) (hL : ∀ p ∈ ([.out, .ints, .mail] : List Part), p ∈ L) (hd
    : Framed L base d) : Framed L base (abortMailbox path d) := by
  unfold abortMailbox
  repeat' first
      | with_reducible assumption | with_reducible exact Framed.sub rfl hL | with_reducible apply onMailbox_framed
      | with_reducible apply setInt_framed | with_reducible apply ite_framed

theorem agentLoses_framed (d : Dev) (hL : ∀ p ∈ ([.out, .regs, .commit, .staging, .access, .recd, .ints, .counters]
    : List Part), p ∈ L) (hd : Framed L base d) : Framed L base (agentLoses d) := by
  have m0 : Part.out ∈ L := hL _ (.head _)
  have m1 : Part.regs ∈ L := hL _ (.tail _ (.head _))
  have m2 : Part.commit ∈ L := hL _ (.tail _ (.tail _ (.head _)))
  have m3 : Part.staging ∈ L := hL _ (.tail _ (.tail _ (.tail _ (.head _))))
  have m4 : Part.access ∈ L := hL _ (.tail _ (.tail _ (.tail _ (.tail _ (.head _)))))
  have m5 : Part.recd ∈ L := hL _ (.tail _ (.tail _ (.tail _ (.tail _ (.tail _ (.head _))))))
  have m6 : Part.ints ∈ L := hL _ (.tail _ (.tail _ (.tail _ (.tail _ (.tail _ (.tail _ (.head _)))))))
  have m7 : Part.counters ∈ L := hL _ (.tail _ (.tail _ (.tail _ (.tail _ (.tail _ (.tail _ (.tail _ (.head _))))))))
  unfold agentLoses
  repeat' first
      | with_reducible assumption | with_reducible exact Framed.sub rfl hL | with_reducible intro _
      | with_reducible apply onlyIf_framed | with_reducible apply raise_framed | split | dsimp only [id]
      | (fail_if_no_progress ((with_reducible apply Framed.upd) ; (iterate 2 exact .inl rfl) ; exact .inr m0 ; (focus (apply Or.inr ; (repeat' (apply And.intro)) ; exact .inr m1 ; exact .inl rfl ; exact .inr m2 ; exact .inr m3 ; exact .inr m4 ; exact .inl rfl)) ; (iterate 10 exact .inl rfl) ; exact .inr m5 ; (iterate 2 exact .inl rfl) ; (focus (apply Or.inr ; (repeat' (apply And.intro)) ; (apply Or.inl ; simp only [HostS.registers]) ; exact .inr m6 ; exact .inl rfl)) ; exact .inl rfl ; (focus (apply Or.inr ; (repeat' (apply And.intro)) ; (apply Or.inl ; simp only [HealthS.rest]) ; exact .inr m7)) ; (iterate 2 exact .inl rfl)))

theorem complexStops_framed (d : Dev) (hL : ∀ p ∈
    ([.out, .regs, .commit, .staging, .access, .time, .recd, .ints, .mail, .pow, .health, .counters]
    : List Part), p ∈ L) (hd : Framed L base d) : Framed L base (complexStops d) := by
  unfold complexStops
  repeat' first
      | with_reducible assumption | with_reducible exact Framed.sub rfl hL | with_reducible apply agentLoses_framed
      | with_reducible apply abortMailbox_framed | with_reducible apply onPow_framed
      | with_reducible apply plannerGate_framed | with_reducible apply timeControlStop_framed
      | with_reducible apply setInt_framed | with_reducible apply ite_framed

theorem restartComplex_framed (d : Dev) (hL : ∀ p ∈
    ([.fresh, .out, .regs, .inaug, .queues, .time, .sched, .strm, .recd, .sleep, .host, .ints, .pow, .counters]
    : List Part), p ∈ L) (hd : Framed L base d) : Framed L base (restartComplex d) := by
  unfold restartComplex
  repeat' first
      | with_reducible assumption | with_reducible exact Framed.sub rfl hL
      | with_reducible apply selectImage_framed | with_reducible apply settleSafe_framed
      | with_reducible apply onPow_framed

theorem enterRecovery_framed (d : Dev) (hL : ∀ p ∈
    ([.fresh, .out, .regs, .node, .inaug, .fab, .queues, .ports, .time, .sched, .strm, .recd, .sleep, .load, .host, .ints, .pow, .health, .counters]
    : List Part), p ∈ L) (hd : Framed L base d) : Framed L base (enterRecovery d) := by
  unfold enterRecovery
  repeat' first
      | with_reducible assumption | with_reducible exact Framed.sub rfl hL
      | with_reducible apply restartComplex_framed | with_reducible apply enterProfile_framed
      | with_reducible apply onPow_framed | with_reducible apply raise_framed | with_reducible apply setReg_framed

theorem watchdogTrip_framed (d : Dev) (hL : ∀ p ∈
    ([.fresh, .out, .regs, .commit, .staging, .access, .node, .inaug, .fab, .queues, .ports, .time, .sched, .strm, .recd, .sleep, .load, .host, .ints, .mail, .pow, .health, .counters]
    : List Part), p ∈ L) (hd : Framed L base d) : Framed L base (watchdogTrip d) := by
  unfold watchdogTrip
  repeat' first
      | with_reducible assumption | with_reducible exact Framed.sub rfl hL | with_reducible intro _
      | with_reducible apply enterRecovery_framed | with_reducible apply restartComplex_framed
      | with_reducible apply complexStops_framed | with_reducible apply settleSafe_framed
      | with_reducible apply onPow_framed | with_reducible apply onlyIf_framed | with_reducible apply raise_framed
      | with_reducible apply bump_framed | with_reducible apply ite_framed | split

theorem execWatchdogTrip_framed (s : State)
    : DoesFramed [.clock, .fresh, .out, .regs, .commit, .staging, .access, .node, .inaug, .fab, .queues, .ports, .time, .sched, .strm, .recd, .sleep, .load, .host, .ints, .mail, .pow, .health, .counters] s
    (execWatchdogTrip s) := by
  unfold execWatchdogTrip
  first | with_reducible apply does_framed | (with_reducible refine doesJudged_framed _ _ ?_ rfl) | skip
  all_goals (try (intro L base d hL hd ; beta_reduce))
  repeat' first
      | with_reducible assumption | with_reducible exact Framed.sub rfl hL
      | with_reducible apply watchdogTrip_framed | with_reducible apply arrive_framed | split

theorem feedWatchdog_framed (d : Dev) (hL : ∀ p ∈ ([.pow] : List Part), p ∈ L) (hd : Framed L base d)
    : Framed L base (feedWatchdog d) := by
  unfold feedWatchdog
  repeat' first | with_reducible assumption | with_reducible apply onPow_framed

theorem execWatchdogWrite_framed (s : State) : DoesFramed [.pow] s (execWatchdogWrite s) := by
  unfold execWatchdogWrite
  first | with_reducible apply does_framed | (with_reducible refine doesJudged_framed _ _ ?_ rfl) | skip
  all_goals (try (intro L base d hL hd ; beta_reduce))
  repeat' first
      | with_reducible assumption | with_reducible apply feedWatchdog_framed | with_reducible apply ite_framed

theorem execStableTime_framed (s : State) : DoesFramed [.clock, .pow, .counters] s (execStableTime s) := by
  unfold execStableTime
  first | with_reducible apply does_framed | (with_reducible refine doesJudged_framed _ _ ?_ rfl) | skip
  all_goals (try (intro L base d hL hd ; beta_reduce))
  repeat' first
      | with_reducible assumption | with_reducible exact Framed.sub rfl hL | with_reducible apply onPow_framed
      | with_reducible apply arrive_framed | split

theorem execImageConfirm_framed (s : State)
    : DoesFramed [.clock, .out, .regs, .recd, .ints, .pow, .counters, .sec] s (execImageConfirm s) := by
  unfold execImageConfirm
  first | with_reducible apply does_framed | (with_reducible refine doesJudged_framed _ _ ?_ rfl) | skip
  all_goals (try (intro L base d hL hd ; have m0 : Part.clock ∈ L := hL _ (.head _) ; have m1 : Part.out ∈ L := hL _ (.tail _ (.head _)) ; have m2 : Part.regs ∈ L := hL _ (.tail _ (.tail _ (.head _))) ; have m3 : Part.recd ∈ L := hL _ (.tail _ (.tail _ (.tail _ (.head _)))) ; have m4 : Part.ints ∈ L := hL _ (.tail _ (.tail _ (.tail _ (.tail _ (.head _))))) ; have m5 : Part.pow ∈ L := hL _ (.tail _ (.tail _ (.tail _ (.tail _ (.tail _ (.head _)))))) ; have m6 : Part.counters ∈ L := hL _ (.tail _ (.tail _ (.tail _ (.tail _ (.tail _ (.tail _ (.head _))))))) ; have m7 : Part.sec ∈ L := hL _ (.tail _ (.tail _ (.tail _ (.tail _ (.tail _ (.tail _ (.tail _ (.head _))))))))))
  all_goals (try beta_reduce)
  repeat' first
      | with_reducible assumption | with_reducible exact Framed.sub rfl hL | with_reducible apply onPart_framed
      | with_reducible apply onPow_framed | with_reducible apply raise_framed | with_reducible apply arrive_framed
      | with_reducible apply ite_framed | split | dsimp only [id]
      | (fail_if_no_progress ((with_reducible apply Framed.upd) ; exact .inr m0 ; exact .inl rfl ; exact .inr m1 ; (focus (apply Or.inr ; (repeat' (apply And.intro)) ; exact .inr m2 ; exact .inl rfl ; exact .inl rfl ; exact .inl rfl ; exact .inl rfl ; exact .inl rfl)) ; (iterate 4 exact .inl rfl) ; (focus (apply Or.inr ; (repeat' (apply And.intro)) ; exact .inr m0 ; (apply Or.inl ; simp only [TimeS.rest]))) ; (iterate 5 exact .inl rfl) ; exact .inr m3 ; (iterate 2 exact .inl rfl) ; (focus (apply Or.inr ; (repeat' (apply And.intro)) ; (apply Or.inl ; simp only [HostS.registers]) ; exact .inr m4 ; exact .inl rfl)) ; exact .inr m5 ; (focus (apply Or.inr ; (repeat' (apply And.intro)) ; (apply Or.inl ; simp only [HealthS.rest]) ; exact .inr m6)) ; exact .inr m7 ; exact .inl rfl))

theorem execPgIoRise_framed (s : State) : DoesFramed [.pow] s (execPgIoRise s) := by
  unfold execPgIoRise
  first | with_reducible apply does_framed | (with_reducible refine doesJudged_framed _ _ ?_ rfl) | skip
  all_goals (try (intro L base d hL hd ; beta_reduce))
  repeat' first | with_reducible assumption | with_reducible apply onPow_framed | with_reducible apply ite_framed

theorem execRailEnableRetry_framed (s : State) : DoesFramed [.clock, .pow, .counters] s (execRailEnableRetry s) := by
  unfold execRailEnableRetry
  first | with_reducible apply does_framed | (with_reducible refine doesJudged_framed _ _ ?_ rfl) | skip
  all_goals (try (intro L base d hL hd ; beta_reduce))
  repeat' first
      | with_reducible assumption | with_reducible exact Framed.sub rfl hL | with_reducible apply onPow_framed
      | with_reducible apply arrive_framed | split

theorem loadStored_framed (d : Dev) (hL : ∀ p ∈ ([.out, .regs, .tables, .recd, .ints, .counters]
    : List Part), p ∈ L) (hd : Framed L base d) : Framed L base (loadStored d) := by
  have m0 : Part.out ∈ L := hL _ (.head _)
  have m1 : Part.regs ∈ L := hL _ (.tail _ (.head _))
  have m2 : Part.tables ∈ L := hL _ (.tail _ (.tail _ (.head _)))
  have m3 : Part.recd ∈ L := hL _ (.tail _ (.tail _ (.tail _ (.head _))))
  have m4 : Part.ints ∈ L := hL _ (.tail _ (.tail _ (.tail _ (.tail _ (.head _)))))
  have m5 : Part.counters ∈ L := hL _ (.tail _ (.tail _ (.tail _ (.tail _ (.tail _ (.head _))))))
  unfold loadStored
  repeat' first
      | with_reducible assumption | with_reducible exact Framed.sub rfl hL | with_reducible apply raise_framed
      | split | dsimp only [id]
      | (fail_if_no_progress ((with_reducible apply Framed.upd) ; (iterate 2 exact .inl rfl) ; exact .inr m0 ; (focus (apply Or.inr ; (repeat' (apply And.intro)) ; exact .inr m1 ; exact .inr m2 ; exact .inl rfl ; exact .inl rfl ; exact .inl rfl ; exact .inl rfl)) ; (iterate 10 exact .inl rfl) ; exact .inr m3 ; (iterate 2 exact .inl rfl) ; (focus (apply Or.inr ; (repeat' (apply And.intro)) ; (apply Or.inl ; simp only [HostS.registers]) ; exact .inr m4 ; exact .inl rfl)) ; exact .inl rfl ; (focus (apply Or.inr ; (repeat' (apply And.intro)) ; (apply Or.inl ; simp only [HealthS.rest]) ; exact .inr m5)) ; (iterate 2 exact .inl rfl)))

theorem pmbusBoot_framed (d : Dev) (hL : ∀ p ∈ ([.out, .regs, .recd, .ints, .pow, .counters] : List Part), p ∈ L)
    (hd : Framed L base d) : Framed L base (pmbusBoot d) := by
  unfold pmbusBoot
  repeat' first
      | with_reducible assumption | with_reducible exact Framed.sub rfl hL | with_reducible apply onPow_framed
      | with_reducible apply raise_framed | with_reducible apply emits_framed | with_reducible apply emit_framed
      | with_reducible apply setReg_framed | with_reducible apply ite_framed

theorem agentUp_framed (d0 : Dev) (hL : ∀ p ∈
    ([.out, .regs, .commit, .access, .queues, .ints, .mail, .pow, .counters] : List Part), p ∈ L) (hd0
    : Framed L base d0) : Framed L base (agentUp d0) := by
  have m1 : Part.regs ∈ L := hL _ (.tail _ (.head _))
  have m2 : Part.commit ∈ L := hL _ (.tail _ (.tail _ (.head _)))
  have m3 : Part.access ∈ L := hL _ (.tail _ (.tail _ (.tail _ (.head _))))
  unfold agentUp
  repeat' first
      | with_reducible assumption | with_reducible exact Framed.sub rfl hL
      | with_reducible apply feedWatchdog_framed | with_reducible apply answerWrite_framed
      | ((with_reducible apply onDict_framed) ; (focus ((repeat' (apply And.intro)) ; exact .inr m1 ; exact .inl rfl ; exact .inr m2 ; exact .inl rfl ; exact .inr m3 ; exact .inl rfl)))
      | with_reducible apply onPow_framed | with_reducible apply setInt_framed | split

theorem bootStep8_framed (d : Dev) (hL : ∀ p ∈
    ([.out, .regs, .tables, .commit, .access, .stored, .queues, .recd, .ints, .mail, .pow, .counters]
    : List Part), p ∈ L) (hd : Framed L base d) : Framed L base (bootStep8 d) := by
  have m0 : Part.out ∈ L := hL _ (.head _)
  have m1 : Part.regs ∈ L := hL _ (.tail _ (.head _))
  have m2 : Part.tables ∈ L := hL _ (.tail _ (.tail _ (.head _)))
  have m3 : Part.commit ∈ L := hL _ (.tail _ (.tail _ (.tail _ (.head _))))
  have m4 : Part.access ∈ L := hL _ (.tail _ (.tail _ (.tail _ (.tail _ (.head _)))))
  have m5 : Part.stored ∈ L := hL _ (.tail _ (.tail _ (.tail _ (.tail _ (.tail _ (.head _))))))
  have m6 : Part.queues ∈ L := hL _ (.tail _ (.tail _ (.tail _ (.tail _ (.tail _ (.tail _ (.head _)))))))
  have m7 : Part.recd ∈ L := hL _ (.tail _ (.tail _ (.tail _ (.tail _ (.tail _ (.tail _ (.tail _ (.head _))))))))
  have m8 : Part.ints ∈ L := hL _ (.tail _ (.tail _ (.tail _ (.tail _ (.tail _ (.tail _ (.tail _ (.tail _ (.head _)))))))))
  have m9 : Part.mail ∈ L := hL _ (.tail _ (.tail _ (.tail _ (.tail _ (.tail _ (.tail _ (.tail _ (.tail _ (.tail _ (.head _))))))))))
  have m10 : Part.pow ∈ L := hL _ (.tail _ (.tail _ (.tail _ (.tail _ (.tail _ (.tail _ (.tail _ (.tail _ (.tail _ (.tail _ (.head _)))))))))))
  have m11 : Part.counters ∈ L := hL _ (.tail _ (.tail _ (.tail _ (.tail _ (.tail _ (.tail _ (.tail _ (.tail _ (.tail _ (.tail _ (.tail _ (.head _))))))))))))
  unfold bootStep8
  repeat' first
      | with_reducible assumption | with_reducible exact Framed.sub rfl hL | with_reducible intro _
      | with_reducible apply agentUp_framed | with_reducible apply pmbusBoot_framed
      | with_reducible apply loadStored_framed | with_reducible apply onPow_framed
      | with_reducible apply onlyIf_framed | with_reducible apply raise_framed | dsimp only [id]
      | (fail_if_no_progress ((with_reducible apply Framed.upd) ; (iterate 2 exact .inl rfl) ; exact .inr m0 ; (focus (apply Or.inr ; (repeat' (apply And.intro)) ; exact .inr m1 ; exact .inr m2 ; exact .inr m3 ; exact .inl rfl ; exact .inr m4 ; exact .inr m5)) ; (iterate 2 exact .inl rfl) ; (focus (apply Or.inr ; (repeat' (apply And.intro)) ; (apply Or.inl ; first | rfl | (simp only [FabricS.rest] ; done)) ; exact .inr m6)) ; (iterate 7 exact .inl rfl) ; exact .inr m7 ; (iterate 2 exact .inl rfl) ; (focus (apply Or.inr ; (repeat' (apply And.intro)) ; (apply Or.inl ; simp only [HostS.registers]) ; exact .inr m8 ; exact .inr m9)) ; exact .inr m10 ; (focus (apply Or.inr ; (repeat' (apply And.intro)) ; (apply Or.inl ; simp only [HealthS.rest]) ; exact .inr m11)) ; (iterate 2 exact .inl rfl)))

theorem execControlComplexReady_framed (s : State)
    : DoesFramed [.fresh, .out, .regs, .tables, .commit, .access, .stored, .inaug, .queues, .time, .sched, .strm, .recd, .sleep, .host, .ints, .mail, .pow, .health, .counters] s
    (execControlComplexReady s) := by
  unfold execControlComplexReady
  first | with_reducible apply does_framed | (with_reducible refine doesJudged_framed _ _ ?_ rfl) | skip
  all_goals (try (intro L base d hL hd ; beta_reduce))
  repeat' first
      | with_reducible assumption | with_reducible exact Framed.sub rfl hL | with_reducible intro _
      | with_reducible apply bootStep8_framed | with_reducible apply agentUp_framed
      | with_reducible apply settleSafe_framed | with_reducible apply onPow_framed
      | with_reducible apply plannerGate_framed | with_reducible apply onlyIf_framed
      | with_reducible apply raise_framed | with_reducible apply ite_framed

theorem noteMinimum_framed (sub mv : Nat) (d : Dev) (hL : ∀ p ∈ ([.regs] : List Part), p ∈ L) (hd : Framed L base d)
    : Framed L base (noteMinimum sub mv d) := by
  unfold noteMinimum
  repeat' first | with_reducible assumption | with_reducible apply setReg_framed | with_reducible apply ite_framed

theorem execSupplyWarning_framed (core : Bool) (mv : BitVec 16) (s : State)
    : DoesFramed [.fresh, .out, .regs, .node, .inaug, .fab, .queues, .ports, .time, .sched, .strm, .recd, .sleep, .load, .host, .ints, .pow, .health, .counters] s
    (execSupplyWarning core mv s) := by
  unfold execSupplyWarning
  first | with_reducible apply does_framed | (with_reducible refine doesJudged_framed _ _ ?_ rfl) | skip
  all_goals (try (intro L base d hL hd ; beta_reduce))
  repeat' first
      | with_reducible assumption | with_reducible exact Framed.sub rfl hL
      | with_reducible apply noteMinimum_framed | with_reducible apply leaveFast_framed
      | with_reducible apply onNode_framed | with_reducible apply onPow_framed
      | with_reducible apply closeLogs_framed | with_reducible apply raise_framed
      | with_reducible apply setInt_framed | with_reducible apply bump_framed | with_reducible apply ite_framed

theorem execSupplyWarningClear_framed (core : Bool) (s : State)
    : DoesFramed [.fresh, .out, .regs, .node, .recd, .ints, .pow, .counters] s (execSupplyWarningClear core s) := by
  unfold execSupplyWarningClear
  first | with_reducible apply does_framed | (with_reducible refine doesJudged_framed _ _ ?_ rfl) | skip
  all_goals (try (intro L base d hL hd ; beta_reduce))
  repeat' first
      | with_reducible assumption | with_reducible exact Framed.sub rfl hL | with_reducible apply onNode_framed
      | with_reducible apply onPow_framed | with_reducible apply reopenRecorder_framed
      | with_reducible apply draw_framed | with_reducible apply ite_framed

theorem execBypassRefreshLoss_framed (laneB : Bool) (s : State) : DoesFramed [.pow] s
    (execBypassRefreshLoss laneB s) := by
  unfold execBypassRefreshLoss
  first | with_reducible apply does_framed | (with_reducible refine doesJudged_framed _ _ ?_ rfl) | skip
  all_goals (try (intro L base d hL hd ; beta_reduce))
  repeat' first | with_reducible assumption | with_reducible apply onPow_framed

theorem execWakeBootTimeout_framed (s : State) : DoesFramed [.clock, .pow, .counters] s (execWakeBootTimeout s) := by
  unfold execWakeBootTimeout
  first | with_reducible apply does_framed | (with_reducible refine doesJudged_framed _ _ ?_ rfl) | skip
  all_goals (try (intro L base d hL hd ; beta_reduce))
  repeat' first
      | with_reducible assumption | with_reducible exact Framed.sub rfl hL | with_reducible apply onPow_framed
      | with_reducible apply arrive_framed | split

theorem execHeartbeatLoss_framed (s : State) : DoesFramed [.out, .regs, .recd, .ints, .pow, .health, .counters] s
    (execHeartbeatLoss s) := by
  unfold execHeartbeatLoss
  first | with_reducible apply does_framed | (with_reducible refine doesJudged_framed _ _ ?_ rfl) | skip
  all_goals (try (intro L base d hL hd ; beta_reduce))
  repeat' first
      | with_reducible assumption | with_reducible exact Framed.sub rfl hL | with_reducible apply onPow_framed
      | with_reducible apply closeLogs_framed | with_reducible apply ite_framed

theorem execPmbusAlert_framed (status : BitVec 16) (s : State) : DoesFramed [.out, .regs, .recd, .ints, .counters] s
    (execPmbusAlert status s) := by
  unfold execPmbusAlert
  first | with_reducible apply does_framed | (with_reducible refine doesJudged_framed _ _ ?_ rfl) | skip
  all_goals (try (intro L base d hL hd ; beta_reduce))
  repeat' first
      | with_reducible assumption | with_reducible exact Framed.sub rfl hL | with_reducible apply raiseP_framed
      | with_reducible apply emit_framed | with_reducible apply ite_framed

theorem firmwareStart_framed (d : Dev) (hL : ∀ p ∈ ([.regs, .pow] : List Part), p ∈ L) (hd : Framed L base d)
    : Framed L base (firmwareStart d) := by
  unfold firmwareStart
  repeat' first
      | with_reducible assumption | with_reducible exact Framed.sub rfl hL | with_reducible apply onPart_framed
      | with_reducible apply onPow_framed | with_reducible apply setReg_framed

theorem firmwareDrop_framed (d : Dev) (hL : ∀ p ∈ ([.regs, .pow] : List Part), p ∈ L) (hd : Framed L base d)
    : Framed L base (firmwareDrop d) := by
  unfold firmwareDrop
  repeat' first
      | with_reducible assumption | with_reducible exact Framed.sub rfl hL | with_reducible apply onPow_framed
      | with_reducible apply setReg_framed

theorem execFirmwareWriteEnd_framed (s : State) : DoesFramed [.regs, .pow] s (execFirmwareWriteEnd s) := by
  unfold execFirmwareWriteEnd
  first | with_reducible apply does_framed | (with_reducible refine doesJudged_framed _ _ ?_ rfl) | skip
  all_goals (try (intro L base d hL hd ; beta_reduce))
  repeat' first
      | with_reducible assumption | with_reducible exact Framed.sub rfl hL | with_reducible apply onPart_framed
      | with_reducible apply onPow_framed | with_reducible apply setReg_framed | with_reducible apply ite_framed
      | split

end Sys2Proof.Machine
end

