-- ==== Sys2Proof/Laws/Framed/Security.lean ====
section
/-! SUPPORT. Which parts of the device each function of Machine/Security.lean can change. -/

-- one declaration after the other: the package is also compiled as one text, in limited memory
set_option Elab.async false

set_option linter.all false

namespace Sys2Proof.Machine

variable {L : List Part} {base : Dev}

theorem onSec_framed (f : SecS → SecS) (d : Dev) (hL : ∀ p ∈ ([.sec] : List Part), p ∈ L) (hd : Framed L base d)
    : Framed L base (onSec f d) := by
  have m0 : Part.sec ∈ L := hL _ (.head _)
  unfold onSec
  repeat' first
      | with_reducible assumption
      | (fail_if_no_progress ((with_reducible apply Framed.upd) ; (iterate 20 exact .inl rfl) ; exact .inr m0 ; exact .inl rfl))

theorem resumeCores_framed (d : Dev) (hL : ∀ p ∈
    ([.fresh, .out, .regs, .inaug, .queues, .time, .sched, .strm, .recd, .sleep, .host, .ints, .pow, .counters, .sec]
    : List Part), p ∈ L) (hd : Framed L base d) : Framed L base (resumeCores d) := by
  unfold resumeCores
  repeat' first
      | with_reducible assumption | with_reducible exact Framed.sub rfl hL | with_reducible apply onSec_framed
      | with_reducible apply feedWatchdog_framed | with_reducible apply settleSafe_framed
      | with_reducible apply ite_framed

theorem authFails_framed (d : Dev) (hL : ∀ p ∈ ([.out, .regs, .recd, .ints, .counters, .sec] : List Part), p ∈ L)
    (hd : Framed L base d) : Framed L base (authFails d) := by
  unfold authFails
  repeat' first
      | with_reducible assumption | with_reducible exact Framed.sub rfl hL | with_reducible apply onSec_framed
      | with_reducible apply raise_framed | with_reducible apply bump_framed

theorem startScan_framed (d : Dev) (hL : ∀ p ∈
    ([.fresh, .out, .regs, .inaug, .queues, .time, .sched, .strm, .recd, .sleep, .host, .ints, .pow, .counters, .sec]
    : List Part), p ∈ L) (hd : Framed L base d) : Framed L base (startScan d) := by
  unfold startScan
  repeat' first
      | with_reducible assumption | with_reducible exact Framed.sub rfl hL | with_reducible apply onSec_framed
      | with_reducible apply settleSafe_framed | with_reducible apply ite_framed

theorem selectIr_framed (need : Nat) (i : DebugIr) (f : Dev → Dev) (d : Dev) (hL : ∀ p ∈ ([.sec]
    : List Part), p ∈ L) (hf : ∀  (d : Dev), Framed L base d → Framed L base (f  d)) (hd : Framed L base d)
    : Framed L base (selectIr need i f d) := by
  unfold selectIr
  repeat' first
      | with_reducible assumption | with_reducible apply onSec_framed | with_reducible apply hf
      | with_reducible apply ite_framed

theorem execExtest_framed (s : State)
    : DoesFramed [.fresh, .out, .regs, .inaug, .queues, .time, .sched, .strm, .recd, .sleep, .host, .ints, .pow, .counters, .sec] s
    (execExtest s) := by
  unfold execExtest
  first | with_reducible apply does_framed | (with_reducible refine doesJudged_framed _ _ ?_ rfl) | skip
  all_goals (try (intro L base d hL hd ; beta_reduce))
  repeat' first
      | with_reducible assumption | with_reducible exact Framed.sub rfl hL | with_reducible intro _
      | with_reducible apply selectIr_framed | with_reducible apply startScan_framed

theorem execIdcode_framed (s : State) : DoesFramed [.out, .sec] s (execIdcode s) := by
  unfold execIdcode
  first | with_reducible apply does_framed | (with_reducible refine doesJudged_framed _ _ ?_ rfl) | skip
  all_goals (try (intro L base d hL hd ; beta_reduce))
  repeat' first
      | with_reducible assumption | with_reducible exact Framed.sub rfl hL | with_reducible intro _
      | with_reducible apply selectIr_framed | with_reducible apply emit_framed

theorem execSamplePreload_framed (s : State) : DoesFramed [.sec] s (execSamplePreload s) := by
  unfold execSamplePreload
  first | with_reducible apply does_framed | (with_reducible refine doesJudged_framed _ _ ?_ rfl) | skip
  all_goals (try (intro L base d hL hd ; beta_reduce))
  repeat' first
      | with_reducible assumption | with_reducible intro _ | with_reducible apply selectIr_framed | dsimp only [id]

theorem execAuthChallenge_framed (s : State) : DoesFramed [.fresh, .out, .sec] s (execAuthChallenge s) := by
  unfold execAuthChallenge
  first | with_reducible apply does_framed | (with_reducible refine doesJudged_framed _ _ ?_ rfl) | skip
  all_goals (try (intro L base d hL hd ; beta_reduce))
  repeat' first
      | with_reducible assumption | with_reducible exact Framed.sub rfl hL | with_reducible intro _
      | with_reducible apply selectIr_framed | with_reducible apply onSec_framed | with_reducible apply draw_framed
      | with_reducible apply emit_framed | with_reducible apply ite_framed

theorem execDebugAccess_framed (op : DebugOp) (s : State)
    : DoesFramed [.fresh, .out, .regs, .inaug, .queues, .time, .sched, .strm, .recd, .sleep, .host, .ints, .pow, .counters, .sec] s
    (execDebugAccess op s) := by
  unfold execDebugAccess
  first | with_reducible apply does_framed | (with_reducible refine doesJudged_framed _ _ ?_ rfl) | skip
  all_goals (try (intro L base d hL hd ; beta_reduce))
  repeat' first
      | with_reducible assumption | with_reducible exact Framed.sub rfl hL | with_reducible intro _
      | with_reducible apply selectIr_framed | with_reducible apply resumeCores_framed
      | with_reducible apply onSec_framed | with_reducible apply settleSafe_framed
      | with_reducible apply onPow_framed | with_reducible apply ite_framed | split

theorem execScanTest_framed (s : State)
    : DoesFramed [.fresh, .out, .regs, .inaug, .queues, .time, .sched, .strm, .recd, .sleep, .host, .ints, .pow, .counters, .sec] s
    (execScanTest s) := by
  unfold execScanTest
  first | with_reducible apply does_framed | (with_reducible refine doesJudged_framed _ _ ?_ rfl) | skip
  all_goals (try (intro L base d hL hd ; beta_reduce))
  repeat' first
      | with_reducible assumption | with_reducible exact Framed.sub rfl hL | with_reducible intro _
      | with_reducible apply selectIr_framed | with_reducible apply startScan_framed

theorem execBypass_framed (_code : BitVec 5) (s : State) : DoesFramed [.sec] s (execBypass _code s) := by
  unfold execBypass
  first | with_reducible apply does_framed | (with_reducible refine doesJudged_framed _ _ ?_ rfl) | skip
  all_goals (try (intro L base d hL hd ; beta_reduce))
  repeat' first
      | with_reducible assumption | with_reducible intro _ | with_reducible apply selectIr_framed | dsimp only [id]

theorem execDebugPortReset_framed (s : State) : DoesFramed [.sec] s (execDebugPortReset s) := by
  unfold execDebugPortReset
  first | with_reducible apply does_framed | (with_reducible refine doesJudged_framed _ _ ?_ rfl) | skip
  all_goals (try (intro L base d hL hd ; beta_reduce))
  repeat' first | with_reducible assumption | with_reducible apply onSec_framed

theorem execDebugLockoutEnd_framed (s : State) : DoesFramed [.clock, .out, .regs, .recd, .ints, .counters, .sec] s
    (execDebugLockoutEnd s) := by
  unfold execDebugLockoutEnd
  first | with_reducible apply does_framed | (with_reducible refine doesJudged_framed _ _ ?_ rfl) | skip
  all_goals (try (intro L base d hL hd ; beta_reduce))
  repeat' first
      | with_reducible assumption | with_reducible exact Framed.sub rfl hL | with_reducible apply onSec_framed
      | with_reducible apply arrive_framed | split

theorem execRandomSourceFailure_framed (s : State) : DoesFramed [.out, .regs, .recd, .ints, .counters, .sec] s
    (execRandomSourceFailure s) := by
  unfold execRandomSourceFailure
  first | with_reducible apply does_framed | (with_reducible refine doesJudged_framed _ _ ?_ rfl) | skip
  all_goals (try (intro L base d hL hd ; beta_reduce))
  repeat' first
      | with_reducible assumption | with_reducible exact Framed.sub rfl hL | with_reducible apply onSec_framed
      | with_reducible apply raise_framed | with_reducible apply bump_framed

theorem execRandomSourceRecovery_framed (s : State) : DoesFramed [.sec] s (execRandomSourceRecovery s) := by
  unfold execRandomSourceRecovery
  first | with_reducible apply does_framed | (with_reducible refine doesJudged_framed _ _ ?_ rfl) | skip
  all_goals (try (intro L base d hL hd ; beta_reduce))
  repeat' first | with_reducible assumption | with_reducible apply onSec_framed

theorem execKdaLockoutEnd_framed (s : State) : DoesFramed [.clock, .counters, .sec] s (execKdaLockoutEnd s) := by
  unfold execKdaLockoutEnd
  first | with_reducible apply does_framed | (with_reducible refine doesJudged_framed _ _ ?_ rfl) | skip
  all_goals (try (intro L base d hL hd ; beta_reduce))
  repeat' first
      | with_reducible assumption | with_reducible exact Framed.sub rfl hL | with_reducible apply onSec_framed
      | with_reducible apply arrive_framed | split

theorem clearRoleKeys_framed (copies : Bool) (d : Dev) (hL : ∀ p ∈ ([.regs, .stored] : List Part), p ∈ L) (hd
    : Framed L base d) : Framed L base (clearRoleKeys copies d) := by
  have m0 : Part.regs ∈ L := hL _ (.head _)
  have m1 : Part.stored ∈ L := hL _ (.tail _ (.head _))
  unfold clearRoleKeys
  repeat' first
      | with_reducible assumption | split | dsimp only [id]
      | (fail_if_no_progress ((with_reducible apply Framed.upd) ; (iterate 3 exact .inl rfl) ; (focus (apply Or.inr ; (repeat' (apply And.intro)) ; exact .inr m0 ; exact .inl rfl ; exact .inl rfl ; exact .inl rfl ; exact .inl rfl ; exact .inr m1)) ; (iterate 18 exact .inl rfl)))

theorem voidKeys_framed (d : Dev) (hL : ∀ p ∈ ([.out, .regs, .stored, .recd, .ints, .counters, .sec]
    : List Part), p ∈ L) (hd : Framed L base d) : Framed L base (voidKeys d) := by
  unfold voidKeys
  repeat' first
      | with_reducible assumption | with_reducible exact Framed.sub rfl hL
      | with_reducible apply clearRoleKeys_framed | with_reducible apply onSec_framed
      | with_reducible apply raise_framed

theorem markDefaults_framed (d : Dev) (hL : ∀ p ∈ ([.stored] : List Part), p ∈ L) (hd : Framed L base d)
    : Framed L base (markDefaults d) := by
  have m0 : Part.stored ∈ L := hL _ (.head _)
  unfold markDefaults
  repeat' first
      | with_reducible assumption | dsimp only [id]
      | (fail_if_no_progress ((with_reducible apply Framed.upd) ; (iterate 3 exact .inl rfl) ; (focus (apply Or.inr ; (repeat' (apply And.intro)) ; exact .inl rfl ; exact .inl rfl ; exact .inl rfl ; exact .inl rfl ; exact .inl rfl ; exact .inr m0)) ; (iterate 18 exact .inl rfl)))

theorem returnNow_framed (keep : KdaSession → Bool) (d : Dev) (hL : ∀ p ∈
    ([.out, .regs, .staging, .access, .stored, .queues, .recd, .ints, .mail, .counters, .sec] : List Part), p ∈ L)
    (hd : Framed L base d) : Framed L base (returnNow keep d) := by
  unfold returnNow
  repeat' first
      | with_reducible assumption | with_reducible exact Framed.sub rfl hL
      | with_reducible apply markDefaults_framed | with_reducible apply clearRoleKeys_framed
      | with_reducible apply onSec_framed | with_reducible apply keepSessions_framed
      | with_reducible apply raise_framed

theorem rotateKey_framed (key : List Byte) (d : Dev) (hL : ∀ p ∈ ([.out, .regs, .recd, .ints, .counters, .sec]
    : List Part), p ∈ L) (hd : Framed L base d) : Framed L base (rotateKey key d) := by
  unfold rotateKey
  repeat' first
      | with_reducible assumption | with_reducible exact Framed.sub rfl hL | with_reducible apply onSec_framed
      | with_reducible apply raise_framed

end Sys2Proof.Machine
end

