-- ==== Sys2Proof/Laws/Framed/Writes.lean ====
section
/-! SUPPORT. Which parts of the device each function of Machine/Writes.lean can change. -/

-- one declaration after the other: the package is also compiled as one text, in limited memory
set_option Elab.async false

set_option linter.all false

namespace Sys2Proof.Machine

variable {L : List Part} {base : Dev}

theorem touchIdle_framed (d : Dev) (hL : ∀ p ∈ ([.staging] : List Part), p ∈ L) (hd : Framed L base d)
    : Framed L base (touchIdle d) := by
  have m0 : Part.staging ∈ L := hL _ (.head _)
  unfold touchIdle
  repeat' first
      | with_reducible assumption
      | ((with_reducible apply onDict_framed) ; (focus ((repeat' (apply And.intro)) ; exact .inl rfl ; exact .inl rfl ; exact .inl rfl ; exact .inr m0 ; exact .inl rfl ; exact .inl rfl)))

theorem stageWrite_framed (ses : Session) (x : Staged) (d : Dev) (hL : ∀ p ∈ ([.regs, .staging] : List Part), p ∈ L)
    (hd : Framed L base d) : Framed L base (stageWrite ses x d) := by
  have m0 : Part.regs ∈ L := hL _ (.head _)
  have m1 : Part.staging ∈ L := hL _ (.tail _ (.head _))
  unfold stageWrite
  repeat' first
      | with_reducible assumption | with_reducible exact Framed.sub rfl hL | with_reducible apply touchIdle_framed
      | ((with_reducible apply onDict_framed) ; (focus ((repeat' (apply And.intro)) ; exact .inr m0 ; exact .inl rfl ; exact .inl rfl ; exact .inr m1 ; exact .inl rfl ; exact .inl rfl)))
      | with_reducible apply bump_framed

theorem putStaged_framed (x : Staged) (d : Dev) (hL : ∀ p ∈ ([.regs, .tables, .fab] : List Part), p ∈ L) (hd
    : Framed L base d) : Framed L base (putStaged x d) := by
  have m0 : Part.regs ∈ L := hL _ (.head _)
  have m1 : Part.tables ∈ L := hL _ (.tail _ (.head _))
  have m2 : Part.fab ∈ L := hL _ (.tail _ (.tail _ (.head _)))
  unfold putStaged
  repeat' first
      | with_reducible assumption
      | ((with_reducible apply onDict_framed) ; (focus ((repeat' (apply And.intro)) ; exact .inr m0 ; exact .inr m1 ; exact .inl rfl ; exact .inl rfl ; exact .inl rfl ; exact .inl rfl)))
      | ((with_reducible apply onFab_framed) ; (focus ((repeat' (apply And.intro)) ; exact .inr m2 ; (apply Or.inl ; first | rfl | (simp only [FabricS.held] ; done) | (simp only [FabricS.held] ; split <;> rfl)))))
      | with_reducible apply ite_framed

theorem putAll_framed (l : List Staged) (d : Dev) (hL : ∀ p ∈ ([.regs, .tables, .fab] : List Part), p ∈ L) (hd
    : Framed L base d) : Framed L base (putAll l d) := by
  unfold putAll
  repeat' first
      | with_reducible assumption | with_reducible intro _ | with_reducible apply putStaged_framed
      | with_reducible apply forEach_framed

end Sys2Proof.Machine
end

