-- ==== Sys2Proof/Laws/Framed/Agent.lean ====
section
/-! SUPPORT. Which parts of the device each function of Machine/Agent.lean can change. -/

-- one declaration after the other: the package is also compiled as one text, in limited memory
set_option Elab.async false

set_option linter.all false

namespace Sys2Proof.Machine

variable {L : List Part} {base : Dev}

theorem handOverSet_framed (src : Src) (d : Dev) (hL : ∀ p ∈ ([.commit, .staging] : List Part), p ∈ L) (hd
    : Framed L base d) : Framed L base (handOverSet src d) := by
  have m0 : Part.commit ∈ L := hL _ (.head _)
  have m1 : Part.staging ∈ L := hL _ (.tail _ (.head _))
  unfold handOverSet
  repeat' first
      | with_reducible assumption
      | ((with_reducible apply onDict_framed) ; (focus ((repeat' (apply And.intro)) ; exact .inl rfl ; exact .inl rfl ; exact .inr m0 ; exact .inr m1 ; exact .inl rfl ; exact .inl rfl)))

theorem judgeCommit_framed (src : Src) (d0 : Dev) (hL : ∀ p ∈
    ([.fresh, .out, .regs, .commit, .staging, .access, .queues, .recd, .ints, .mail, .counters] : List Part), p ∈ L)
    (hd0 : Framed L base d0) : Framed L base (judgeCommit src d0) := by
  unfold judgeCommit
  repeat' first
      | with_reducible assumption | with_reducible exact Framed.sub rfl hL | with_reducible intro _
      | with_reducible apply handOverSet_framed | with_reducible apply refuseCommit_framed
      | with_reducible apply refuseSignature_framed | with_reducible apply onlyIf_framed
      | with_reducible apply draw_framed | with_reducible apply bump_framed | with_reducible apply setReg_framed
      | split | dsimp only [id]

theorem commitWrite_framed (src : Src) (v : Nat) (d : Dev) (hL : ∀ p ∈
    ([.fresh, .out, .regs, .commit, .staging, .access, .queues, .recd, .ints, .mail, .counters] : List Part), p ∈ L)
    (hd : Framed L base d) : Framed L base (commitWrite src v d) := by
  have m2 : Part.regs ∈ L := hL _ (.tail _ (.tail _ (.head _)))
  have m3 : Part.commit ∈ L := hL _ (.tail _ (.tail _ (.tail _ (.head _))))
  have m4 : Part.staging ∈ L := hL _ (.tail _ (.tail _ (.tail _ (.tail _ (.head _)))))
  have m5 : Part.access ∈ L := hL _ (.tail _ (.tail _ (.tail _ (.tail _ (.tail _ (.head _))))))
  unfold commitWrite
  repeat' first
      | with_reducible assumption | with_reducible exact Framed.sub rfl hL
      | with_reducible apply judgeCommit_framed | with_reducible apply touchIdle_framed
      | with_reducible apply refuseCommit_framed
      | ((with_reducible apply onDict_framed) ; (focus ((repeat' (apply And.intro)) ; exact .inr m2 ; exact .inl rfl ; exact .inr m3 ; exact .inr m4 ; exact .inr m5 ; exact .inl rfl)))
      | with_reducible apply ite_framed

theorem clearWindow_framed (k : Fin 7) (d : Dev) (hL : ∀ p ∈ ([.sched] : List Part), p ∈ L) (hd : Framed L base d)
    : Framed L base (clearWindow k d) := by
  unfold clearWindow
  repeat' first | with_reducible assumption | with_reducible apply onSched_framed

theorem clearCheck_framed (sub : Nat) (d : Dev) (hL : ∀ p ∈ ([.chk] : List Part), p ∈ L) (hd : Framed L base d)
    : Framed L base (clearCheck sub d) := by
  unfold clearCheck
  repeat' first | with_reducible assumption | with_reducible apply setChk_framed

theorem hostEntryNow_framed (bs : List Byte) (d : Dev) (hL : ∀ p ∈ ([.out, .regs, .recd, .ints, .counters]
    : List Part), p ∈ L) (hd : Framed L base d) : Framed L base (hostEntryNow bs d) := by
  unfold hostEntryNow
  repeat' first | with_reducible assumption | with_reducible apply raiseP_framed

theorem readEffect_framed (idx sub : Nat) (d : Dev) (hL : ∀ p ∈ ([.fresh, .out, .time, .gw] : List Part), p ∈ L) (hd
    : Framed L base d) : Framed L base (readEffect idx sub d) := by
  have m0 : Part.fresh ∈ L := hL _ (.head _)
  have m1 : Part.out ∈ L := hL _ (.tail _ (.head _))
  have m2 : Part.time ∈ L := hL _ (.tail _ (.tail _ (.head _)))
  have m3 : Part.gw ∈ L := hL _ (.tail _ (.tail _ (.tail _ (.head _))))
  unfold readEffect
  repeat' first
      | with_reducible assumption | with_reducible exact Framed.sub rfl hL | with_reducible apply mdio_framed
      | with_reducible apply onGw_framed | with_reducible apply onPortTime_framed
      | with_reducible apply draw_framed | with_reducible apply ite_framed | dsimp only [id]
      | (fail_if_no_progress ((with_reducible apply Framed.upd) ; exact .inl rfl ; exact .inr m0 ; exact .inr m1 ; (iterate 5 exact .inl rfl) ; (focus (apply Or.inr ; (repeat' (apply And.intro)) ; exact .inl rfl ; exact .inr m2)) ; (iterate 3 exact .inl rfl) ; exact .inr m3 ; (iterate 9 exact .inl rfl)))

theorem answerRead_framed (r : Req) (abort : Nat) (data : List Byte) (total : Nat) (d : Dev) (hL : ∀ p ∈
    ([.out, .regs, .access, .queues, .ints, .mail, .counters] : List Part), p ∈ L) (hd : Framed L base d)
    : Framed L base (answerRead r abort data total d) := by
  unfold answerRead
  repeat' first | with_reducible assumption | with_reducible apply answer_framed

theorem serveRead_framed (r : Req) (wanted : Nat) (d : Dev) (hL : ∀ p ∈
    ([.fresh, .out, .regs, .access, .queues, .time, .gw, .ints, .mail, .counters] : List Part), p ∈ L) (hd
    : Framed L base d) : Framed L base (serveRead r wanted d) := by
  unfold serveRead
  repeat' first
      | with_reducible assumption | with_reducible exact Framed.sub rfl hL | with_reducible apply answerRead_framed
      | with_reducible apply readEffect_framed | split

end Sys2Proof.Machine
end

