-- ==== Sys2Proof/Laws/Framed/Apply.lean ====
section
/-! SUPPORT. Which parts of the device each function of Machine/Apply.lean can change. -/

-- one declaration after the other: the package is also compiled as one text, in limited memory
set_option Elab.async false

set_option linter.all false

namespace Sys2Proof.Machine

variable {L : List Part} {base : Dev}

theorem bootInto_framed (d : Dev) (hL : ∀ p ∈
    ([.fresh, .out, .regs, .node, .inaug, .fab, .queues, .ports, .time, .sched, .strm, .recd, .sleep, .load, .host, .ints, .health, .counters]
    : List Part), p ∈ L) (hd : Framed L base d) : Framed L base (bootInto d) := by
  unfold bootInto
  repeat' first
      | with_reducible assumption | with_reducible exact Framed.sub rfl hL
      | with_reducible apply bootProfile_framed | with_reducible apply enterProfile_framed
      | with_reducible apply raise_framed | with_reducible apply setReg_framed | with_reducible apply ite_framed

theorem startBlocks_framed (d : Dev) (hL : ∀ p ∈
    ([.fresh, .out, .regs, .inaug, .queues, .ports, .time, .sched, .strm, .can, .gw, .chk, .recd, .sleep, .load, .host, .ints, .health, .counters]
    : List Part), p ∈ L) (hd : Framed L base d) : Framed L base (startBlocks d) := by
  unfold startBlocks
  repeat' first
      | with_reducible assumption | with_reducible exact Framed.sub rfl hL | with_reducible apply healthBoot_framed
      | with_reducible apply bootPorts_framed | with_reducible apply bootInaug_framed
      | with_reducible apply gwStart_framed | with_reducible apply applyChecks_framed
      | with_reducible apply bootCan_framed | with_reducible apply applyStreams_framed
      | with_reducible apply bootSched_framed | with_reducible apply applyTevt_framed
      | with_reducible apply loadsStart_framed

theorem applyBuses_framed (old : Dev) (l : List Staged) (d : Dev) (hL : ∀ p ∈ ([.out, .regs, .access, .can, .ints]
    : List Part), p ∈ L) (hold : Framed L base old) (hd : Framed L base d) : Framed L base
    (applyBuses old l d) := by
  unfold applyBuses
  repeat' first
      | with_reducible assumption | with_reducible exact Framed.sub rfl hL | with_reducible intro _
      | with_reducible apply sdoIdle_framed | with_reducible apply resetObj_framed
      | with_reducible apply applyCan_framed | with_reducible apply onlyIf_framed
      | with_reducible apply forEach_framed | with_reducible apply ite_framed

theorem applySchedule_framed (old : Dev) (l : List Staged) (d : Dev) (hL : ∀ p ∈
    ([.out, .regs, .queues, .sched, .recd, .host, .ints, .counters] : List Part), p ∈ L) (hold : Framed L base old)
    (hd : Framed L base d) : Framed L base (applySchedule old l d) := by
  unfold applySchedule
  repeat' first
      | with_reducible assumption | with_reducible exact Framed.sub rfl hL | with_reducible intro _
      | with_reducible apply applySchedImage_framed | with_reducible apply applySchedSource_framed
      | with_reducible apply onSched_framed | with_reducible apply onlyIf_framed | with_reducible apply ite_framed

theorem applyKey_framed (old : Dev) (l : List Staged) (d : Dev) (hL : ∀ p ∈
    ([.out, .regs, .staging, .recd, .ints, .counters, .sec] : List Part), p ∈ L) (hold : Framed L base old) (hd
    : Framed L base d) : Framed L base (applyKey old l d) := by
  unfold applyKey
  repeat' first
      | with_reducible assumption | with_reducible exact Framed.sub rfl hL | with_reducible apply rotateKey_framed
      | with_reducible apply ite_framed | split

theorem applyImage_framed (image : Option (Nat × Nat)) (d : Dev) (hL : ∀ p ∈ ([.regs, .staging, .stored]
    : List Part), p ∈ L) (hd : Framed L base d) : Framed L base (applyImage image d) := by
  have m0 : Part.regs ∈ L := hL _ (.head _)
  have m1 : Part.staging ∈ L := hL _ (.tail _ (.head _))
  have m2 : Part.stored ∈ L := hL _ (.tail _ (.tail _ (.head _)))
  unfold applyImage
  repeat' first
      | with_reducible assumption | with_reducible exact Framed.sub rfl hL
      | ((with_reducible apply onDict_framed) ; (focus ((repeat' (apply And.intro)) ; exact .inr m0 ; exact .inl rfl ; exact .inl rfl ; exact .inr m1 ; exact .inl rfl ; exact .inr m2)))
      | with_reducible apply saveCopy_framed | with_reducible apply setReg_framed | with_reducible apply ite_framed
      | split

theorem applySet_framed (k : Commit) (d : Dev) (hL : ∀ p ∈
    ([.fresh, .out, .regs, .tables, .commit, .staging, .access, .stored, .node, .inaug, .fab, .queues, .ports, .time, .sched, .strm, .can, .gw, .chk, .recd, .sleep, .load, .host, .ints, .health, .counters, .sec]
    : List Part), p ∈ L) (hd : Framed L base d) : Framed L base (applySet k d) := by
  have m2 : Part.regs ∈ L := hL _ (.tail _ (.tail _ (.head _)))
  have m3 : Part.tables ∈ L := hL _ (.tail _ (.tail _ (.tail _ (.head _))))
  have m4 : Part.commit ∈ L := hL _ (.tail _ (.tail _ (.tail _ (.tail _ (.head _)))))
  have m5 : Part.staging ∈ L := hL _ (.tail _ (.tail _ (.tail _ (.tail _ (.tail _ (.head _))))))
  have m6 : Part.access ∈ L := hL _ (.tail _ (.tail _ (.tail _ (.tail _ (.tail _ (.tail _ (.head _)))))))
  have m7 : Part.stored ∈ L := hL _ (.tail _ (.tail _ (.tail _ (.tail _ (.tail _ (.tail _ (.tail _ (.head _))))))))
  unfold applySet
  repeat' first
      | with_reducible assumption | with_reducible exact Framed.sub rfl hL | with_reducible apply applyImage_framed
      | with_reducible apply applyKey_framed | with_reducible apply applySchedule_framed
      | with_reducible apply applyBuses_framed | with_reducible apply putAll_framed
      | ((with_reducible apply onDict_framed) ; (focus ((repeat' (apply And.intro)) ; exact .inr m2 ; exact .inr m3 ; exact .inr m4 ; exact .inr m5 ; exact .inr m6 ; exact .inr m7)))
      | with_reducible apply profileAtCommit_framed | with_reducible apply settleNeed_framed
      | with_reducible apply applyPorts_framed | with_reducible apply applyInaug_framed
      | with_reducible apply judgeSleep_framed | with_reducible apply applyGateway_framed
      | with_reducible apply gwSweep_framed | with_reducible apply applyChecks_framed
      | with_reducible apply applyStreams_framed | with_reducible apply applyTevt_framed
      | with_reducible apply applyTime_framed | with_reducible apply applyLoads_framed
      | with_reducible apply bump_framed | with_reducible apply ite_framed

theorem closePaths_framed (old d : Dev) (hL : ∀ p ∈
    ([.out, .regs, .staging, .access, .queues, .recd, .ints, .mail, .counters] : List Part), p ∈ L) (hold
    : Framed L base old) (hd : Framed L base d) : Framed L base (closePaths old d) := by
  unfold closePaths
  repeat' first | with_reducible assumption | with_reducible apply keepSessions_framed

theorem islandFails_framed (i : Fin 41) (d : Dev) (hL : ∀ p ∈
    ([.fresh, .out, .regs, .inaug, .fab, .queues, .ports, .time, .sched, .strm, .can, .gw, .chk, .recd, .host, .ints, .pow, .counters]
    : List Part), p ∈ L) (hd : Framed L base d) : Framed L base (islandFails i d) := by
  have m0 : Part.fresh ∈ L := hL _ (.head _)
  have m1 : Part.out ∈ L := hL _ (.tail _ (.head _))
  have m2 : Part.regs ∈ L := hL _ (.tail _ (.tail _ (.head _)))
  have m3 : Part.inaug ∈ L := hL _ (.tail _ (.tail _ (.tail _ (.head _))))
  have m4 : Part.fab ∈ L := hL _ (.tail _ (.tail _ (.tail _ (.tail _ (.head _)))))
  have m5 : Part.queues ∈ L := hL _ (.tail _ (.tail _ (.tail _ (.tail _ (.tail _ (.head _))))))
  have m6 : Part.ports ∈ L := hL _ (.tail _ (.tail _ (.tail _ (.tail _ (.tail _ (.tail _ (.head _)))))))
  have m7 : Part.time ∈ L := hL _ (.tail _ (.tail _ (.tail _ (.tail _ (.tail _ (.tail _ (.tail _ (.head _))))))))
  have m8 : Part.sched ∈ L := hL _ (.tail _ (.tail _ (.tail _ (.tail _ (.tail _ (.tail _ (.tail _ (.tail _ (.head _)))))))))
  have m9 : Part.strm ∈ L := hL _ (.tail _ (.tail _ (.tail _ (.tail _ (.tail _ (.tail _ (.tail _ (.tail _ (.tail _ (.head _))))))))))
  have m10 : Part.can ∈ L := hL _ (.tail _ (.tail _ (.tail _ (.tail _ (.tail _ (.tail _ (.tail _ (.tail _ (.tail _ (.tail _ (.head _)))))))))))
  have m11 : Part.gw ∈ L := hL _ (.tail _ (.tail _ (.tail _ (.tail _ (.tail _ (.tail _ (.tail _ (.tail _ (.tail _ (.tail _ (.tail _ (.head _))))))))))))
  have m12 : Part.chk ∈ L := hL _ (.tail _ (.tail _ (.tail _ (.tail _ (.tail _ (.tail _ (.tail _ (.tail _ (.tail _ (.tail _ (.tail _ (.tail _ (.head _)))))))))))))
  have m13 : Part.recd ∈ L := hL _ (.tail _ (.tail _ (.tail _ (.tail _ (.tail _ (.tail _ (.tail _ (.tail _ (.tail _ (.tail _ (.tail _ (.tail _ (.tail _ (.head _))))))))))))))
  have m14 : Part.host ∈ L := hL _ (.tail _ (.tail _ (.tail _ (.tail _ (.tail _ (.tail _ (.tail _ (.tail _ (.tail _ (.tail _ (.tail _ (.tail _ (.tail _ (.tail _ (.head _)))))))))))))))
  have m15 : Part.ints ∈ L := hL _ (.tail _ (.tail _ (.tail _ (.tail _ (.tail _ (.tail _ (.tail _ (.tail _ (.tail _ (.tail _ (.tail _ (.tail _ (.tail _ (.tail _ (.tail _ (.head _))))))))))))))))
  have m16 : Part.pow ∈ L := hL _ (.tail _ (.tail _ (.tail _ (.tail _ (.tail _ (.tail _ (.tail _ (.tail _ (.tail _ (.tail _ (.tail _ (.tail _ (.tail _ (.tail _ (.tail _ (.tail _ (.head _)))))))))))))))))
  have m17 : Part.counters ∈ L := hL _ (.tail _ (.tail _ (.tail _ (.tail _ (.tail _ (.tail _ (.tail _ (.tail _ (.tail _ (.tail _ (.tail _ (.tail _ (.tail _ (.tail _ (.tail _ (.tail _ (.tail _ (.head _))))))))))))))))))
  unfold islandFails
  repeat' first
      | with_reducible assumption | with_reducible exact Framed.sub rfl hL | with_reducible apply onPow_framed
      | with_reducible apply enterAcquiring_framed | with_reducible apply leaveUp_framed
      | with_reducible apply gwStart_framed | with_reducible apply applyChecks_framed
      | with_reducible apply bootCan_framed | with_reducible apply applyStreams_framed
      | with_reducible apply onStrm_framed | with_reducible apply retireSlice_framed
      | with_reducible apply ite_framed | split | dsimp only [id]
      | (fail_if_no_progress ((with_reducible apply Framed.upd) ; exact .inl rfl ; exact .inr m0 ; exact .inr m1 ; (focus (apply Or.inr ; (repeat' (apply And.intro)) ; exact .inr m2 ; exact .inl rfl ; exact .inl rfl ; exact .inl rfl ; exact .inl rfl ; exact .inl rfl)) ; exact .inl rfl ; exact .inr m3 ; (focus (apply Or.inr ; (repeat' (apply And.intro)) ; exact .inr m4 ; exact .inr m5)) ; exact .inr m6 ; (focus (apply Or.inr ; (repeat' (apply And.intro)) ; exact .inl rfl ; exact .inr m7)) ; exact .inr m8 ; exact .inr m9 ; exact .inr m10 ; exact .inr m11 ; exact .inr m12 ; exact .inr m13 ; (iterate 2 exact .inl rfl) ; (focus (apply Or.inr ; (repeat' (apply And.intro)) ; exact .inr m14 ; exact .inr m15 ; exact .inl rfl)) ; exact .inr m16 ; (focus (apply Or.inr ; (repeat' (apply And.intro)) ; (apply Or.inl ; simp only [HealthS.rest]) ; exact .inr m17)) ; (iterate 2 exact .inl rfl)))

theorem execCommitHoldRelease_framed (s : State)
    : DoesFramed [.fresh, .out, .regs, .commit, .staging, .access, .queues, .recd, .ints, .mail, .counters] s
    (execCommitHoldRelease s) := by
  unfold execCommitHoldRelease
  first | with_reducible apply does_framed | (with_reducible refine doesJudged_framed _ _ ?_ rfl) | skip
  all_goals (try (intro L base d hL hd ; have m2 : Part.regs ∈ L := hL _ (.tail _ (.tail _ (.head _))) ; have m3 : Part.commit ∈ L := hL _ (.tail _ (.tail _ (.tail _ (.head _)))) ; have m4 : Part.staging ∈ L := hL _ (.tail _ (.tail _ (.tail _ (.tail _ (.head _))))) ; have m5 : Part.access ∈ L := hL _ (.tail _ (.tail _ (.tail _ (.tail _ (.tail _ (.head _))))))))
  all_goals (try beta_reduce)
  repeat' first
      | with_reducible assumption | with_reducible apply judgeCommit_framed
      | ((with_reducible apply onDict_framed) ; (focus ((repeat' (apply And.intro)) ; exact .inr m2 ; exact .inl rfl ; exact .inr m3 ; exact .inr m4 ; exact .inr m5 ; exact .inl rfl)))
      | with_reducible apply ite_framed | split

theorem execCommitHoldTimeout_framed (s : State)
    : DoesFramed [.clock, .out, .regs, .staging, .access, .queues, .ints, .mail, .counters] s
    (execCommitHoldTimeout s) := by
  unfold execCommitHoldTimeout
  first | with_reducible apply does_framed | (with_reducible refine doesJudged_framed _ _ ?_ rfl) | skip
  all_goals (try (intro L base d hL hd ; have m2 : Part.regs ∈ L := hL _ (.tail _ (.tail _ (.head _))) ; have m3 : Part.staging ∈ L := hL _ (.tail _ (.tail _ (.tail _ (.head _)))) ; have m4 : Part.access ∈ L := hL _ (.tail _ (.tail _ (.tail _ (.tail _ (.head _)))))))
  all_goals (try beta_reduce)
  repeat' first
      | with_reducible assumption | with_reducible exact Framed.sub rfl hL
      | with_reducible apply refuseCommit_framed
      | ((with_reducible apply onDict_framed) ; (focus ((repeat' (apply And.intro)) ; exact .inr m2 ; exact .inl rfl ; exact .inl rfl ; exact .inr m3 ; exact .inr m4 ; exact .inl rfl)))
      | with_reducible apply arrive_framed | split

theorem execStagingIdleTimeout_framed (s : State)
    : DoesFramed [.clock, .out, .regs, .staging, .access, .queues, .recd, .ints, .mail, .counters] s
    (execStagingIdleTimeout s) := by
  unfold execStagingIdleTimeout
  first | with_reducible apply does_framed | (with_reducible refine doesJudged_framed _ _ ?_ rfl) | skip
  all_goals (try (intro L base d hL hd ; have m2 : Part.regs ∈ L := hL _ (.tail _ (.tail _ (.head _))) ; have m3 : Part.staging ∈ L := hL _ (.tail _ (.tail _ (.tail _ (.head _)))) ; have m4 : Part.access ∈ L := hL _ (.tail _ (.tail _ (.tail _ (.tail _ (.head _)))))))
  all_goals (try beta_reduce)
  repeat' first
      | with_reducible assumption | with_reducible exact Framed.sub rfl hL | with_reducible apply discardSet_framed
      | ((with_reducible apply onDict_framed) ; (focus ((repeat' (apply And.intro)) ; exact .inr m2 ; exact .inl rfl ; exact .inl rfl ; exact .inr m3 ; exact .inr m4 ; exact .inl rfl)))
      | with_reducible apply arrive_framed | split

theorem stageImage_pair {role : Nat} {l : List (Nat × Nat × Nat × List Byte)} {d d' : Dev}
    (e : stageImage role l d = .ok d') (hL : ∀ p ∈ ([.staging] : List Part), p ∈ L) (hd : Framed L base d) : Framed L base d' := by
  have m0 : Part.staging ∈ L := hL _ (.head _)
  induction l generalizing d with
  | nil =>
    simp only [stageImage, Except.ok.injEq] at e
    exact e ▸ hd
  | cons x l ih =>
    obtain ⟨idx, sub, off, data⟩ := x
    unfold stageImage at e
    split at e
    · simp at e
    · split at e
      · simp at e
      · exact ih e (onDict_framed _ _ ⟨.inl rfl, .inl rfl, .inl rfl, .inr m0, .inl rfl, .inl rfl⟩ hd)

theorem takeImage_framed (src : Src) (d : Dev) (hL : ∀ p ∈
    ([.out, .regs, .staging, .access, .queues, .ints, .mail, .counters] : List Part), p ∈ L) (hd : Framed L base d)
    : Framed L base (takeImage src d) := by
  have m1 : Part.regs ∈ L := hL _ (.tail _ (.head _))
  have m2 : Part.staging ∈ L := hL _ (.tail _ (.tail _ (.head _)))
  have m3 : Part.access ∈ L := hL _ (.tail _ (.tail _ (.tail _ (.head _))))
  unfold takeImage
  repeat' first
      | with_reducible assumption | with_reducible exact Framed.sub rfl hL
      | (with_reducible apply stageImage_pair ; with_reducible assumption) | with_reducible apply touchIdle_framed
      | with_reducible apply refuseWrite_framed | with_reducible apply answerWrite_framed
      | ((with_reducible apply onDict_framed) ; (focus ((repeat' (apply And.intro)) ; exact .inr m1 ; exact .inl rfl ; exact .inl rfl ; exact .inr m2 ; exact .inr m3 ; exact .inl rfl)))
      | with_reducible apply bump_framed | with_reducible apply ite_framed | split

theorem execImageVerificationEnd_framed (s : State)
    : DoesFramed [.out, .regs, .staging, .access, .queues, .recd, .ints, .mail, .counters] s
    (execImageVerificationEnd s) := by
  unfold execImageVerificationEnd
  first | with_reducible apply does_framed | (with_reducible refine doesJudged_framed _ _ ?_ rfl) | skip
  all_goals (try (intro L base d hL hd ; have m1 : Part.regs ∈ L := hL _ (.tail _ (.head _)) ; have m2 : Part.staging ∈ L := hL _ (.tail _ (.tail _ (.head _))) ; have m3 : Part.access ∈ L := hL _ (.tail _ (.tail _ (.tail _ (.head _))))))
  all_goals (try beta_reduce)
  repeat' first
      | with_reducible assumption | with_reducible exact Framed.sub rfl hL | with_reducible apply takeImage_framed
      | with_reducible apply refuseWrite_framed
      | ((with_reducible apply onDict_framed) ; (focus ((repeat' (apply And.intro)) ; exact .inr m1 ; exact .inl rfl ; exact .inl rfl ; exact .inr m2 ; exact .inr m3 ; exact .inl rfl)))
      | with_reducible apply refuseSignature_framed | split

end Sys2Proof.Machine
end

