-- ==== Sys2Proof/Laws/Framed/Access.lean ====
section
/-! SUPPORT. Which parts of the device each function of Machine/Access.lean can change. -/

-- one declaration after the other: the package is also compiled as one text, in limited memory
set_option Elab.async false

set_option linter.all false

namespace Sys2Proof.Machine

variable {L : List Part} {base : Dev}

theorem kdaHeard_framed (h : KdaHeader) (n : Nat) (act : Dev → Dev) (d0 : Dev) (hL : ∀ p ∈
    ([.regs, .access, .counters] : List Part), p ∈ L) (hact : ∀  (d : Dev), Framed L base d → Framed L base
    (act  d)) (hd0 : Framed L base d0) : Framed L base (kdaHeard h n act d0) := by
  have m0 : Part.regs ∈ L := hL _ (.head _)
  have m1 : Part.access ∈ L := hL _ (.tail _ (.head _))
  unfold kdaHeard
  repeat' first
      | with_reducible assumption | with_reducible exact Framed.sub rfl hL
      | ((with_reducible apply onDict_framed) ; (focus ((repeat' (apply And.intro)) ; exact .inr m0 ; exact .inl rfl ; exact .inl rfl ; exact .inl rfl ; exact .inr m1 ; exact .inl rfl)))
      | with_reducible apply countGood_framed | with_reducible apply bump_framed | with_reducible apply hact
      | with_reducible apply ite_framed

theorem kdaSession_framed (h : KdaHeader) (n : Nat) (act : KdaSession → Dev → Dev) (d : Dev) (hL : ∀ p ∈
    ([.regs, .access, .counters] : List Part), p ∈ L) (hact : ∀ y0 (d : Dev), Framed L base d → Framed L base
    (act y0 d)) (hd : Framed L base d) : Framed L base (kdaSession h n act d) := by
  unfold kdaSession
  repeat' first
      | with_reducible assumption | with_reducible exact Framed.sub rfl hL | with_reducible intro _
      | with_reducible apply kdaHeard_framed | with_reducible apply bump_framed | with_reducible apply hact
      | with_reducible apply ite_framed | split

theorem kdaValid_framed (h : KdaHeader) (d : Dev) (hL : ∀ p ∈ ([.access] : List Part), p ∈ L) (hd : Framed L base d)
    : Framed L base (kdaValid h d) := by
  unfold kdaValid
  repeat' first | with_reducible assumption | with_reducible apply onSession_framed

theorem inSequence_framed (h : KdaHeader) (serve : Dev → Dev) (s : KdaSession) (d : Dev) (hL : ∀ p ∈
    ([.out, .regs, .access, .queues, .counters] : List Part), p ∈ L) (hserve : ∀  (d
    : Dev), Framed L base d → Framed L base (serve  d)) (hd : Framed L base d) : Framed L base
    (inSequence h serve s d) := by
  unfold inSequence
  repeat' first
      | with_reducible assumption | with_reducible exact Framed.sub rfl hL | with_reducible apply kdaValid_framed
      | with_reducible apply onSession_framed | with_reducible apply sendKda_framed
      | with_reducible apply bump_framed | with_reducible apply hserve | with_reducible apply ite_framed | split

theorem kdaRequest_framed (h : KdaHeader) (n : Nat) (serve : Dev → Dev) (d : Dev) (hL : ∀ p ∈
    ([.out, .regs, .access, .queues, .counters] : List Part), p ∈ L) (hserve : ∀  (d
    : Dev), Framed L base d → Framed L base (serve  d)) (hd : Framed L base d) : Framed L base
    (kdaRequest h n serve d) := by
  unfold kdaRequest
  repeat' first
      | with_reducible assumption | with_reducible exact Framed.sub rfl hL | with_reducible intro _
      | with_reducible apply inSequence_framed | with_reducible apply kdaSession_framed

theorem execKeepalive_framed (h : KdaHeader) (s : State) : DoesFramed [.regs, .access, .counters] s
    (execKeepalive h s) := by
  unfold execKeepalive
  first | with_reducible apply does_framed | (with_reducible refine doesJudged_framed _ _ ?_ rfl) | skip
  all_goals (try (intro L base d hL hd ; beta_reduce))
  repeat' first
      | with_reducible assumption | with_reducible exact Framed.sub rfl hL | with_reducible intro _
      | with_reducible apply kdaValid_framed | with_reducible apply kdaSession_framed

theorem execClose_framed (h : KdaHeader) (s : State)
    : DoesFramed [.out, .regs, .staging, .access, .queues, .recd, .ints, .mail, .counters] s (execClose h s) := by
  unfold execClose
  first | with_reducible apply does_framed | (with_reducible refine doesJudged_framed _ _ ?_ rfl) | skip
  all_goals (try (intro L base d hL hd ; beta_reduce))
  repeat' first
      | with_reducible assumption | with_reducible exact Framed.sub rfl hL | with_reducible intro _
      | with_reducible apply kdaSession_framed | with_reducible apply keepSessions_framed

theorem execKdaOpcodeInvalid_framed (h : KdaHeader) (_opcode : BitVec 8) (s : State)
    : DoesFramed [.out, .regs, .access, .queues, .counters] s (execKdaOpcodeInvalid h _opcode s) := by
  unfold execKdaOpcodeInvalid
  first | with_reducible apply does_framed | (with_reducible refine doesJudged_framed _ _ ?_ rfl) | skip
  all_goals (try (intro L base d hL hd ; beta_reduce))
  repeat' first
      | with_reducible assumption | with_reducible intro _ | with_reducible apply kdaRequest_framed
      | with_reducible apply sendStored_framed | split

theorem execSessionExpiry_framed (session : BitVec 32) (s : State)
    : DoesFramed [.clock, .out, .regs, .staging, .access, .queues, .recd, .ints, .mail, .counters] s
    (execSessionExpiry session s) := by
  unfold execSessionExpiry
  first | with_reducible apply does_framed | (with_reducible refine doesJudged_framed _ _ ?_ rfl) | skip
  all_goals (try (intro L base d hL hd ; beta_reduce))
  repeat' first
      | with_reducible assumption | with_reducible exact Framed.sub rfl hL
      | with_reducible apply keepSessions_framed | with_reducible apply arrive_framed
      | with_reducible apply ite_framed | split

theorem execChallengeTimeout_framed (session : BitVec 32) (s : State)
    : DoesFramed [.clock, .out, .regs, .staging, .access, .queues, .recd, .ints, .mail, .counters] s
    (execChallengeTimeout session s) := by
  unfold execChallengeTimeout
  first | with_reducible apply does_framed | (with_reducible refine doesJudged_framed _ _ ?_ rfl) | skip
  all_goals (try (intro L base d hL hd ; beta_reduce))
  repeat' first
      | with_reducible assumption | with_reducible exact Framed.sub rfl hL
      | with_reducible apply keepSessions_framed | with_reducible apply arrive_framed
      | with_reducible apply ite_framed | split

theorem kdaError_framed (peer : KdaPeer) (session : BitVec 32) (code : Nat) (d : Dev) (hL : ∀ p ∈
    ([.out, .regs, .queues, .counters] : List Part), p ∈ L) (hd : Framed L base d) : Framed L base
    (kdaError peer session code d) := by
  unfold kdaError
  repeat' first | with_reducible assumption | with_reducible apply sendKda_framed

theorem challenge_framed (h : KdaHeader) (payload : List Byte) (d : Dev) (hL : ∀ p ∈
    ([.fresh, .out, .regs, .access, .queues, .counters] : List Part), p ∈ L) (hd : Framed L base d) : Framed L base
    (challenge h payload d) := by
  have m2 : Part.regs ∈ L := hL _ (.tail _ (.tail _ (.head _)))
  have m3 : Part.access ∈ L := hL _ (.tail _ (.tail _ (.tail _ (.head _))))
  unfold challenge
  repeat' first
      | with_reducible assumption | with_reducible exact Framed.sub rfl hL | with_reducible apply sendKda_framed
      | ((with_reducible apply onDict_framed) ; (focus ((repeat' (apply And.intro)) ; exact .inr m2 ; exact .inl rfl ; exact .inl rfl ; exact .inl rfl ; exact .inr m3 ; exact .inl rfl)))
      | with_reducible apply draw_framed

theorem execKdaOpen_framed (h : KdaHeader) (payload : List Byte) (s : State)
    : DoesFramed [.fresh, .out, .regs, .access, .queues, .counters] s (execKdaOpen h payload s) := by
  unfold execKdaOpen
  first | with_reducible apply does_framed | (with_reducible refine doesJudged_framed _ _ ?_ rfl) | skip
  all_goals (try (intro L base d hL hd ; beta_reduce))
  repeat' first
      | with_reducible assumption | with_reducible exact Framed.sub rfl hL | with_reducible intro _
      | with_reducible apply challenge_framed | with_reducible apply kdaError_framed
      | with_reducible apply kdaHeard_framed | with_reducible apply bump_framed | with_reducible apply ite_framed

theorem proofFailed_framed (d : Dev) (hL : ∀ p ∈ ([.out, .regs, .recd, .ints, .counters, .sec] : List Part), p ∈ L)
    (hd : Framed L base d) : Framed L base (proofFailed d) := by
  unfold proofFailed
  repeat' first
      | with_reducible assumption | with_reducible exact Framed.sub rfl hL | with_reducible apply onSec_framed
      | with_reducible apply raise_framed | with_reducible apply bump_framed | with_reducible apply ite_framed

theorem acceptSession_framed (h : KdaHeader) (s : KdaSession) (role : Nat) (d : Dev) (hL : ∀ p ∈
    ([.out, .regs, .access, .queues, .recd, .ints, .counters] : List Part), p ∈ L) (hd : Framed L base d)
    : Framed L base (acceptSession h s role d) := by
  unfold acceptSession
  repeat' first
      | with_reducible assumption | with_reducible exact Framed.sub rfl hL | with_reducible intro _
      | with_reducible apply onSession_framed | with_reducible apply sendKda_framed
      | with_reducible apply onlyIf_framed | with_reducible apply raise_framed | with_reducible apply bump_framed

theorem judgeProof_framed (h : KdaHeader) (payload : List Byte) (s : KdaSession) (d : Dev) (hL : ∀ p ∈
    ([.out, .regs, .staging, .access, .queues, .recd, .ints, .mail, .counters, .sec] : List Part), p ∈ L) (hd
    : Framed L base d) : Framed L base (judgeProof h payload s d) := by
  unfold judgeProof
  repeat' first
      | with_reducible assumption | with_reducible exact Framed.sub rfl hL
      | with_reducible apply acceptSession_framed | with_reducible apply proofFailed_framed
      | with_reducible apply kdaError_framed | with_reducible apply keepSessions_framed
      | with_reducible apply ite_framed | split | dsimp only [id]

theorem execProof_framed (h : KdaHeader) (payload : List Byte) (s : State)
    : DoesFramed [.out, .regs, .staging, .access, .queues, .recd, .ints, .mail, .counters, .sec] s
    (execProof h payload s) := by
  unfold execProof
  first | with_reducible apply does_framed | (with_reducible refine doesJudged_framed _ _ ?_ rfl) | skip
  all_goals (try (intro L base d hL hd ; beta_reduce))
  repeat' first
      | with_reducible assumption | with_reducible exact Framed.sub rfl hL | with_reducible intro _
      | with_reducible apply judgeProof_framed | with_reducible apply kdaRequest_framed
      | with_reducible apply kdaHeard_framed | with_reducible apply bump_framed | with_reducible apply ite_framed
      | split

theorem fillWindow_framed (path : HostPath) (r : Req) (d : Dev) (hL : ∀ p ∈ ([.mail] : List Part), p ∈ L) (hd
    : Framed L base d) : Framed L base (fillWindow path r d) := by
  unfold fillWindow
  repeat' first | with_reducible assumption | with_reducible apply onMailbox_framed | with_reducible apply ite_framed

theorem ringBell_framed (path : HostPath) (act : Dev → Dev) (d : Dev) (hL : ∀ p ∈ ([.out, .ints, .mail]
    : List Part), p ∈ L) (hact : ∀  (d : Dev), Framed L base d → Framed L base (act  d)) (hd : Framed L base d)
    : Framed L base (ringBell path act d) := by
  unfold ringBell
  repeat' first
      | with_reducible assumption | with_reducible exact Framed.sub rfl hL | with_reducible apply onMailbox_framed
      | with_reducible apply setInt_framed | with_reducible apply hact | with_reducible apply ite_framed

theorem carry_framed (r : Req) (serve : Dev → Dev) (d : Dev) (hL : ∀ p ∈
    ([.out, .regs, .access, .queues, .ints, .mail, .counters] : List Part), p ∈ L) (hserve : ∀  (d
    : Dev), Framed L base d → Framed L base (serve  d)) (hd : Framed L base d) : Framed L base
    (carry r serve d) := by
  unfold carry
  repeat' first
      | with_reducible assumption | with_reducible exact Framed.sub rfl hL | with_reducible intro _
      | with_reducible apply ringBell_framed | with_reducible apply fillWindow_framed
      | with_reducible apply kdaRequest_framed | with_reducible apply onPath_framed
      | with_reducible apply bump_framed | with_reducible apply hserve | with_reducible apply ite_framed | split

theorem sdoWaits_framed (c : CanId) (idx sub : Nat) (d : Dev) (hL : ∀ p ∈ ([.access] : List Part), p ∈ L) (hd
    : Framed L base d) : Framed L base (sdoWaits c idx sub d) := by
  have m0 : Part.access ∈ L := hL _ (.head _)
  unfold sdoWaits
  repeat' first
      | with_reducible assumption
      | ((with_reducible apply onDict_framed) ; (focus ((repeat' (apply And.intro)) ; exact .inl rfl ; exact .inl rfl ; exact .inl rfl ; exact .inl rfl ; exact .inr m0 ; exact .inl rfl)))

theorem sdoAborts_framed (c : CanId) (idx sub code : Nat) (d : Dev) (hL : ∀ p ∈ ([.out, .access]
    : List Part), p ∈ L) (hd : Framed L base d) : Framed L base (sdoAborts c idx sub code d) := by
  unfold sdoAborts
  repeat' first
      | with_reducible assumption | with_reducible exact Framed.sub rfl hL | with_reducible apply sdoIdle_framed
      | with_reducible apply sdoAbort_framed

theorem sdoFailed_framed (c : CanId) (r : Req) (code : Nat) (d : Dev) (hL : ∀ p ∈ ([.out, .regs, .access]
    : List Part), p ∈ L) (hd : Framed L base d) : Framed L base (sdoFailed c r code d) := by
  unfold sdoFailed
  repeat' first
      | with_reducible assumption | with_reducible exact Framed.sub rfl hL | with_reducible intro _
      | with_reducible apply sdoAborts_framed | with_reducible apply countRefusal_framed
      | with_reducible apply onlyIf_framed

theorem execSdoServerTimeout_framed (c : CanId) (s : State) : DoesFramed [.clock, .out, .access, .counters] s
    (execSdoServerTimeout c s) := by
  unfold execSdoServerTimeout
  first | with_reducible apply does_framed | (with_reducible refine doesJudged_framed _ _ ?_ rfl) | skip
  all_goals (try (intro L base d hL hd ; beta_reduce))
  repeat' first
      | with_reducible assumption | with_reducible exact Framed.sub rfl hL | with_reducible apply sdoAborts_framed
      | with_reducible apply arrive_framed | split

end Sys2Proof.Machine
end

