-- ==== Sys2Proof/Laws/Frames.lean ====
section
/-! SUPPORT. What the shared operations leave as it was: one lemma for each operation and each part of the device that the
operation does not change, so that no later proof unfolds one of them. -/

-- one declaration after the other: the package is also compiled as one text, in limited memory
set_option Elab.async false

set_option linter.all false

namespace Sys2Proof.Machine

@[simp] theorem emit_now (o : Out) (d : Dev) : (emit o d).now = d.now := rfl
@[simp] theorem emit_fresh (o : Out) (d : Dev) : (emit o d).fresh = d.fresh := rfl
@[simp] theorem emit_dict (o : Out) (d : Dev) : (emit o d).dict = d.dict := rfl
@[simp] theorem emit_node (o : Out) (d : Dev) : (emit o d).node = d.node := rfl
@[simp] theorem emit_chip (o : Out) (d : Dev) : (emit o d).chip = d.chip := rfl
@[simp] theorem emit_inaug (o : Out) (d : Dev) : (emit o d).inaug = d.inaug := rfl
@[simp] theorem emit_fab (o : Out) (d : Dev) : (emit o d).fab = d.fab := rfl
@[simp] theorem emit_ports (o : Out) (d : Dev) : (emit o d).ports = d.ports := rfl
@[simp] theorem emit_time (o : Out) (d : Dev) : (emit o d).time = d.time := rfl
@[simp] theorem emit_sched (o : Out) (d : Dev) : (emit o d).sched = d.sched := rfl
@[simp] theorem emit_strm (o : Out) (d : Dev) : (emit o d).strm = d.strm := rfl
@[simp] theorem emit_can (o : Out) (d : Dev) : (emit o d).can = d.can := rfl
@[simp] theorem emit_gw (o : Out) (d : Dev) : (emit o d).gw = d.gw := rfl
@[simp] theorem emit_chk (o : Out) (d : Dev) : (emit o d).chk = d.chk := rfl
@[simp] theorem emit_recd (o : Out) (d : Dev) : (emit o d).recd = d.recd := rfl
@[simp] theorem emit_sleep (o : Out) (d : Dev) : (emit o d).sleep = d.sleep := rfl
@[simp] theorem emit_load (o : Out) (d : Dev) : (emit o d).load = d.load := rfl
@[simp] theorem emit_host (o : Out) (d : Dev) : (emit o d).host = d.host := rfl
@[simp] theorem emit_pow (o : Out) (d : Dev) : (emit o d).pow = d.pow := rfl
@[simp] theorem emit_health (o : Out) (d : Dev) : (emit o d).health = d.health := rfl
@[simp] theorem emit_sec (o : Out) (d : Dev) : (emit o d).sec = d.sec := rfl
@[simp] theorem emit_pins (o : Out) (d : Dev) : (emit o d).pins = d.pins := rfl

@[simp] theorem emits_now (os : List Out) (d : Dev) : (emits os d).now = d.now := rfl
@[simp] theorem emits_fresh (os : List Out) (d : Dev) : (emits os d).fresh = d.fresh := rfl
@[simp] theorem emits_dict (os : List Out) (d : Dev) : (emits os d).dict = d.dict := rfl
@[simp] theorem emits_node (os : List Out) (d : Dev) : (emits os d).node = d.node := rfl
@[simp] theorem emits_chip (os : List Out) (d : Dev) : (emits os d).chip = d.chip := rfl
@[simp] theorem emits_inaug (os : List Out) (d : Dev) : (emits os d).inaug = d.inaug := rfl
@[simp] theorem emits_fab (os : List Out) (d : Dev) : (emits os d).fab = d.fab := rfl
@[simp] theorem emits_ports (os : List Out) (d : Dev) : (emits os d).ports = d.ports := rfl
@[simp] theorem emits_time (os : List Out) (d : Dev) : (emits os d).time = d.time := rfl
@[simp] theorem emits_sched (os : List Out) (d : Dev) : (emits os d).sched = d.sched := rfl
@[simp] theorem emits_strm (os : List Out) (d : Dev) : (emits os d).strm = d.strm := rfl
@[simp] theorem emits_can (os : List Out) (d : Dev) : (emits os d).can = d.can := rfl
@[simp] theorem emits_gw (os : List Out) (d : Dev) : (emits os d).gw = d.gw := rfl
@[simp] theorem emits_chk (os : List Out) (d : Dev) : (emits os d).chk = d.chk := rfl
@[simp] theorem emits_recd (os : List Out) (d : Dev) : (emits os d).recd = d.recd := rfl
@[simp] theorem emits_sleep (os : List Out) (d : Dev) : (emits os d).sleep = d.sleep := rfl
@[simp] theorem emits_load (os : List Out) (d : Dev) : (emits os d).load = d.load := rfl
@[simp] theorem emits_host (os : List Out) (d : Dev) : (emits os d).host = d.host := rfl
@[simp] theorem emits_pow (os : List Out) (d : Dev) : (emits os d).pow = d.pow := rfl
@[simp] theorem emits_health (os : List Out) (d : Dev) : (emits os d).health = d.health := rfl
@[simp] theorem emits_sec (os : List Out) (d : Dev) : (emits os d).sec = d.sec := rfl
@[simp] theorem emits_pins (os : List Out) (d : Dev) : (emits os d).pins = d.pins := rfl

@[simp] theorem draw_now (d : Dev) : (draw d).now = d.now := rfl
@[simp] theorem draw_out (d : Dev) : (draw d).out = d.out := rfl
@[simp] theorem draw_dict (d : Dev) : (draw d).dict = d.dict := rfl
@[simp] theorem draw_node (d : Dev) : (draw d).node = d.node := rfl
@[simp] theorem draw_chip (d : Dev) : (draw d).chip = d.chip := rfl
@[simp] theorem draw_inaug (d : Dev) : (draw d).inaug = d.inaug := rfl
@[simp] theorem draw_fab (d : Dev) : (draw d).fab = d.fab := rfl
@[simp] theorem draw_ports (d : Dev) : (draw d).ports = d.ports := rfl
@[simp] theorem draw_time (d : Dev) : (draw d).time = d.time := rfl
@[simp] theorem draw_sched (d : Dev) : (draw d).sched = d.sched := rfl
@[simp] theorem draw_strm (d : Dev) : (draw d).strm = d.strm := rfl
@[simp] theorem draw_can (d : Dev) : (draw d).can = d.can := rfl
@[simp] theorem draw_gw (d : Dev) : (draw d).gw = d.gw := rfl
@[simp] theorem draw_chk (d : Dev) : (draw d).chk = d.chk := rfl
@[simp] theorem draw_recd (d : Dev) : (draw d).recd = d.recd := rfl
@[simp] theorem draw_sleep (d : Dev) : (draw d).sleep = d.sleep := rfl
@[simp] theorem draw_load (d : Dev) : (draw d).load = d.load := rfl
@[simp] theorem draw_host (d : Dev) : (draw d).host = d.host := rfl
@[simp] theorem draw_pow (d : Dev) : (draw d).pow = d.pow := rfl
@[simp] theorem draw_health (d : Dev) : (draw d).health = d.health := rfl
@[simp] theorem draw_sec (d : Dev) : (draw d).sec = d.sec := rfl
@[simp] theorem draw_pins (d : Dev) : (draw d).pins = d.pins := rfl

@[simp] theorem setReg_now (i s v : Nat) (d : Dev) : (setReg i s v d).now = d.now := rfl
@[simp] theorem setReg_fresh (i s v : Nat) (d : Dev) : (setReg i s v d).fresh = d.fresh := rfl
@[simp] theorem setReg_out (i s v : Nat) (d : Dev) : (setReg i s v d).out = d.out := rfl
@[simp] theorem setReg_node (i s v : Nat) (d : Dev) : (setReg i s v d).node = d.node := rfl
@[simp] theorem setReg_chip (i s v : Nat) (d : Dev) : (setReg i s v d).chip = d.chip := rfl
@[simp] theorem setReg_inaug (i s v : Nat) (d : Dev) : (setReg i s v d).inaug = d.inaug := rfl
@[simp] theorem setReg_fab (i s v : Nat) (d : Dev) : (setReg i s v d).fab = d.fab := rfl
@[simp] theorem setReg_ports (i s v : Nat) (d : Dev) : (setReg i s v d).ports = d.ports := rfl
@[simp] theorem setReg_time (i s v : Nat) (d : Dev) : (setReg i s v d).time = d.time := rfl
@[simp] theorem setReg_sched (i s v : Nat) (d : Dev) : (setReg i s v d).sched = d.sched := rfl
@[simp] theorem setReg_strm (i s v : Nat) (d : Dev) : (setReg i s v d).strm = d.strm := rfl
@[simp] theorem setReg_can (i s v : Nat) (d : Dev) : (setReg i s v d).can = d.can := rfl
@[simp] theorem setReg_gw (i s v : Nat) (d : Dev) : (setReg i s v d).gw = d.gw := rfl
@[simp] theorem setReg_chk (i s v : Nat) (d : Dev) : (setReg i s v d).chk = d.chk := rfl
@[simp] theorem setReg_recd (i s v : Nat) (d : Dev) : (setReg i s v d).recd = d.recd := rfl
@[simp] theorem setReg_sleep (i s v : Nat) (d : Dev) : (setReg i s v d).sleep = d.sleep := rfl
@[simp] theorem setReg_load (i s v : Nat) (d : Dev) : (setReg i s v d).load = d.load := rfl
@[simp] theorem setReg_host (i s v : Nat) (d : Dev) : (setReg i s v d).host = d.host := rfl
@[simp] theorem setReg_pow (i s v : Nat) (d : Dev) : (setReg i s v d).pow = d.pow := rfl
@[simp] theorem setReg_health (i s v : Nat) (d : Dev) : (setReg i s v d).health = d.health := rfl
@[simp] theorem setReg_sec (i s v : Nat) (d : Dev) : (setReg i s v d).sec = d.sec := rfl
@[simp] theorem setReg_pins (i s v : Nat) (d : Dev) : (setReg i s v d).pins = d.pins := rfl

@[simp] theorem setBytes_now (i s : Nat) (bs : List Byte) (d : Dev) : (setBytes i s bs d).now = d.now := rfl
@[simp] theorem setBytes_fresh (i s : Nat) (bs : List Byte) (d : Dev) : (setBytes i s bs d).fresh = d.fresh := rfl
@[simp] theorem setBytes_out (i s : Nat) (bs : List Byte) (d : Dev) : (setBytes i s bs d).out = d.out := rfl
@[simp] theorem setBytes_node (i s : Nat) (bs : List Byte) (d : Dev) : (setBytes i s bs d).node = d.node := rfl
@[simp] theorem setBytes_chip (i s : Nat) (bs : List Byte) (d : Dev) : (setBytes i s bs d).chip = d.chip := rfl
@[simp] theorem setBytes_inaug (i s : Nat) (bs : List Byte) (d : Dev) : (setBytes i s bs d).inaug = d.inaug := rfl
@[simp] theorem setBytes_fab (i s : Nat) (bs : List Byte) (d : Dev) : (setBytes i s bs d).fab = d.fab := rfl
@[simp] theorem setBytes_ports (i s : Nat) (bs : List Byte) (d : Dev) : (setBytes i s bs d).ports = d.ports := rfl
@[simp] theorem setBytes_time (i s : Nat) (bs : List Byte) (d : Dev) : (setBytes i s bs d).time = d.time := rfl
@[simp] theorem setBytes_sched (i s : Nat) (bs : List Byte) (d : Dev) : (setBytes i s bs d).sched = d.sched := rfl
@[simp] theorem setBytes_strm (i s : Nat) (bs : List Byte) (d : Dev) : (setBytes i s bs d).strm = d.strm := rfl
@[simp] theorem setBytes_can (i s : Nat) (bs : List Byte) (d : Dev) : (setBytes i s bs d).can = d.can := rfl
@[simp] theorem setBytes_gw (i s : Nat) (bs : List Byte) (d : Dev) : (setBytes i s bs d).gw = d.gw := rfl
@[simp] theorem setBytes_chk (i s : Nat) (bs : List Byte) (d : Dev) : (setBytes i s bs d).chk = d.chk := rfl
@[simp] theorem setBytes_recd (i s : Nat) (bs : List Byte) (d : Dev) : (setBytes i s bs d).recd = d.recd := rfl
@[simp] theorem setBytes_sleep (i s : Nat) (bs : List Byte) (d : Dev) : (setBytes i s bs d).sleep = d.sleep := rfl
@[simp] theorem setBytes_load (i s : Nat) (bs : List Byte) (d : Dev) : (setBytes i s bs d).load = d.load := rfl
@[simp] theorem setBytes_host (i s : Nat) (bs : List Byte) (d : Dev) : (setBytes i s bs d).host = d.host := rfl
@[simp] theorem setBytes_pow (i s : Nat) (bs : List Byte) (d : Dev) : (setBytes i s bs d).pow = d.pow := rfl
@[simp] theorem setBytes_health (i s : Nat) (bs : List Byte) (d : Dev) : (setBytes i s bs d).health = d.health := rfl
@[simp] theorem setBytes_sec (i s : Nat) (bs : List Byte) (d : Dev) : (setBytes i s bs d).sec = d.sec := rfl
@[simp] theorem setBytes_pins (i s : Nat) (bs : List Byte) (d : Dev) : (setBytes i s bs d).pins = d.pins := rfl

@[simp] theorem bumpBy_now (i s k : Nat) (d : Dev) : (bumpBy i s k d).now = d.now := by simp [bumpBy]
@[simp] theorem bumpBy_fresh (i s k : Nat) (d : Dev) : (bumpBy i s k d).fresh = d.fresh := by simp [bumpBy]
@[simp] theorem bumpBy_out (i s k : Nat) (d : Dev) : (bumpBy i s k d).out = d.out := by simp [bumpBy]
@[simp] theorem bumpBy_node (i s k : Nat) (d : Dev) : (bumpBy i s k d).node = d.node := by simp [bumpBy]
@[simp] theorem bumpBy_chip (i s k : Nat) (d : Dev) : (bumpBy i s k d).chip = d.chip := by simp [bumpBy]
@[simp] theorem bumpBy_inaug (i s k : Nat) (d : Dev) : (bumpBy i s k d).inaug = d.inaug := by simp [bumpBy]
@[simp] theorem bumpBy_fab (i s k : Nat) (d : Dev) : (bumpBy i s k d).fab = d.fab := by simp [bumpBy]
@[simp] theorem bumpBy_ports (i s k : Nat) (d : Dev) : (bumpBy i s k d).ports = d.ports := by simp [bumpBy]
@[simp] theorem bumpBy_time (i s k : Nat) (d : Dev) : (bumpBy i s k d).time = d.time := by simp [bumpBy]
@[simp] theorem bumpBy_sched (i s k : Nat) (d : Dev) : (bumpBy i s k d).sched = d.sched := by simp [bumpBy]
@[simp] theorem bumpBy_strm (i s k : Nat) (d : Dev) : (bumpBy i s k d).strm = d.strm := by simp [bumpBy]
@[simp] theorem bumpBy_can (i s k : Nat) (d : Dev) : (bumpBy i s k d).can = d.can := by simp [bumpBy]
@[simp] theorem bumpBy_gw (i s k : Nat) (d : Dev) : (bumpBy i s k d).gw = d.gw := by simp [bumpBy]
@[simp] theorem bumpBy_chk (i s k : Nat) (d : Dev) : (bumpBy i s k d).chk = d.chk := by simp [bumpBy]
@[simp] theorem bumpBy_recd (i s k : Nat) (d : Dev) : (bumpBy i s k d).recd = d.recd := by simp [bumpBy]
@[simp] theorem bumpBy_sleep (i s k : Nat) (d : Dev) : (bumpBy i s k d).sleep = d.sleep := by simp [bumpBy]
@[simp] theorem bumpBy_load (i s k : Nat) (d : Dev) : (bumpBy i s k d).load = d.load := by simp [bumpBy]
@[simp] theorem bumpBy_host (i s k : Nat) (d : Dev) : (bumpBy i s k d).host = d.host := by simp [bumpBy]
@[simp] theorem bumpBy_pow (i s k : Nat) (d : Dev) : (bumpBy i s k d).pow = d.pow := by simp [bumpBy]
@[simp] theorem bumpBy_health (i s k : Nat) (d : Dev) : (bumpBy i s k d).health = d.health := by simp [bumpBy]
@[simp] theorem bumpBy_sec (i s k : Nat) (d : Dev) : (bumpBy i s k d).sec = d.sec := by simp [bumpBy]
@[simp] theorem bumpBy_pins (i s k : Nat) (d : Dev) : (bumpBy i s k d).pins = d.pins := by simp [bumpBy]

@[simp] theorem bump_now (i s : Nat) (d : Dev) : (bump i s d).now = d.now := by simp [bump]
@[simp] theorem bump_fresh (i s : Nat) (d : Dev) : (bump i s d).fresh = d.fresh := by simp [bump]
@[simp] theorem bump_out (i s : Nat) (d : Dev) : (bump i s d).out = d.out := by simp [bump]
@[simp] theorem bump_node (i s : Nat) (d : Dev) : (bump i s d).node = d.node := by simp [bump]
@[simp] theorem bump_chip (i s : Nat) (d : Dev) : (bump i s d).chip = d.chip := by simp [bump]
@[simp] theorem bump_inaug (i s : Nat) (d : Dev) : (bump i s d).inaug = d.inaug := by simp [bump]
@[simp] theorem bump_fab (i s : Nat) (d : Dev) : (bump i s d).fab = d.fab := by simp [bump]
@[simp] theorem bump_ports (i s : Nat) (d : Dev) : (bump i s d).ports = d.ports := by simp [bump]
@[simp] theorem bump_time (i s : Nat) (d : Dev) : (bump i s d).time = d.time := by simp [bump]
@[simp] theorem bump_sched (i s : Nat) (d : Dev) : (bump i s d).sched = d.sched := by simp [bump]
@[simp] theorem bump_strm (i s : Nat) (d : Dev) : (bump i s d).strm = d.strm := by simp [bump]
@[simp] theorem bump_can (i s : Nat) (d : Dev) : (bump i s d).can = d.can := by simp [bump]
@[simp] theorem bump_gw (i s : Nat) (d : Dev) : (bump i s d).gw = d.gw := by simp [bump]
@[simp] theorem bump_chk (i s : Nat) (d : Dev) : (bump i s d).chk = d.chk := by simp [bump]
@[simp] theorem bump_recd (i s : Nat) (d : Dev) : (bump i s d).recd = d.recd := by simp [bump]
@[simp] theorem bump_sleep (i s : Nat) (d : Dev) : (bump i s d).sleep = d.sleep := by simp [bump]
@[simp] theorem bump_load (i s : Nat) (d : Dev) : (bump i s d).load = d.load := by simp [bump]
@[simp] theorem bump_host (i s : Nat) (d : Dev) : (bump i s d).host = d.host := by simp [bump]
@[simp] theorem bump_pow (i s : Nat) (d : Dev) : (bump i s d).pow = d.pow := by simp [bump]
@[simp] theorem bump_health (i s : Nat) (d : Dev) : (bump i s d).health = d.health := by simp [bump]
@[simp] theorem bump_sec (i s : Nat) (d : Dev) : (bump i s d).sec = d.sec := by simp [bump]
@[simp] theorem bump_pins (i s : Nat) (d : Dev) : (bump i s d).pins = d.pins := by simp [bump]

@[simp] theorem bump64_now (i s k : Nat) (d : Dev) : (bump64 i s k d).now = d.now := by simp [bump64]
@[simp] theorem bump64_fresh (i s k : Nat) (d : Dev) : (bump64 i s k d).fresh = d.fresh := by simp [bump64]
@[simp] theorem bump64_out (i s k : Nat) (d : Dev) : (bump64 i s k d).out = d.out := by simp [bump64]
@[simp] theorem bump64_node (i s k : Nat) (d : Dev) : (bump64 i s k d).node = d.node := by simp [bump64]
@[simp] theorem bump64_chip (i s k : Nat) (d : Dev) : (bump64 i s k d).chip = d.chip := by simp [bump64]
@[simp] theorem bump64_inaug (i s k : Nat) (d : Dev) : (bump64 i s k d).inaug = d.inaug := by simp [bump64]
@[simp] theorem bump64_fab (i s k : Nat) (d : Dev) : (bump64 i s k d).fab = d.fab := by simp [bump64]
@[simp] theorem bump64_ports (i s k : Nat) (d : Dev) : (bump64 i s k d).ports = d.ports := by simp [bump64]
@[simp] theorem bump64_time (i s k : Nat) (d : Dev) : (bump64 i s k d).time = d.time := by simp [bump64]
@[simp] theorem bump64_sched (i s k : Nat) (d : Dev) : (bump64 i s k d).sched = d.sched := by simp [bump64]
@[simp] theorem bump64_strm (i s k : Nat) (d : Dev) : (bump64 i s k d).strm = d.strm := by simp [bump64]
@[simp] theorem bump64_can (i s k : Nat) (d : Dev) : (bump64 i s k d).can = d.can := by simp [bump64]
@[simp] theorem bump64_gw (i s k : Nat) (d : Dev) : (bump64 i s k d).gw = d.gw := by simp [bump64]
@[simp] theorem bump64_chk (i s k : Nat) (d : Dev) : (bump64 i s k d).chk = d.chk := by simp [bump64]
@[simp] theorem bump64_recd (i s k : Nat) (d : Dev) : (bump64 i s k d).recd = d.recd := by simp [bump64]
@[simp] theorem bump64_sleep (i s k : Nat) (d : Dev) : (bump64 i s k d).sleep = d.sleep := by simp [bump64]
@[simp] theorem bump64_load (i s k : Nat) (d : Dev) : (bump64 i s k d).load = d.load := by simp [bump64]
@[simp] theorem bump64_host (i s k : Nat) (d : Dev) : (bump64 i s k d).host = d.host := by simp [bump64]
@[simp] theorem bump64_pow (i s k : Nat) (d : Dev) : (bump64 i s k d).pow = d.pow := by simp [bump64]
@[simp] theorem bump64_health (i s k : Nat) (d : Dev) : (bump64 i s k d).health = d.health := by simp [bump64]
@[simp] theorem bump64_sec (i s k : Nat) (d : Dev) : (bump64 i s k d).sec = d.sec := by simp [bump64]
@[simp] theorem bump64_pins (i s k : Nat) (d : Dev) : (bump64 i s k d).pins = d.pins := by simp [bump64]

@[simp] theorem countEv_now (c i q k : Nat) (d : Dev) : (countEv c i q k d).now = d.now := rfl
@[simp] theorem countEv_fresh (c i q k : Nat) (d : Dev) : (countEv c i q k d).fresh = d.fresh := rfl
@[simp] theorem countEv_out (c i q k : Nat) (d : Dev) : (countEv c i q k d).out = d.out := rfl
@[simp] theorem countEv_dict (c i q k : Nat) (d : Dev) : (countEv c i q k d).dict = d.dict := rfl
@[simp] theorem countEv_node (c i q k : Nat) (d : Dev) : (countEv c i q k d).node = d.node := rfl
@[simp] theorem countEv_chip (c i q k : Nat) (d : Dev) : (countEv c i q k d).chip = d.chip := rfl
@[simp] theorem countEv_inaug (c i q k : Nat) (d : Dev) : (countEv c i q k d).inaug = d.inaug := rfl
@[simp] theorem countEv_fab (c i q k : Nat) (d : Dev) : (countEv c i q k d).fab = d.fab := rfl
@[simp] theorem countEv_ports (c i q k : Nat) (d : Dev) : (countEv c i q k d).ports = d.ports := rfl
@[simp] theorem countEv_time (c i q k : Nat) (d : Dev) : (countEv c i q k d).time = d.time := rfl
@[simp] theorem countEv_sched (c i q k : Nat) (d : Dev) : (countEv c i q k d).sched = d.sched := rfl
@[simp] theorem countEv_strm (c i q k : Nat) (d : Dev) : (countEv c i q k d).strm = d.strm := rfl
@[simp] theorem countEv_can (c i q k : Nat) (d : Dev) : (countEv c i q k d).can = d.can := rfl
@[simp] theorem countEv_gw (c i q k : Nat) (d : Dev) : (countEv c i q k d).gw = d.gw := rfl
@[simp] theorem countEv_chk (c i q k : Nat) (d : Dev) : (countEv c i q k d).chk = d.chk := rfl
@[simp] theorem countEv_recd (c i q k : Nat) (d : Dev) : (countEv c i q k d).recd = d.recd := rfl
@[simp] theorem countEv_sleep (c i q k : Nat) (d : Dev) : (countEv c i q k d).sleep = d.sleep := rfl
@[simp] theorem countEv_load (c i q k : Nat) (d : Dev) : (countEv c i q k d).load = d.load := rfl
@[simp] theorem countEv_host (c i q k : Nat) (d : Dev) : (countEv c i q k d).host = d.host := rfl
@[simp] theorem countEv_pow (c i q k : Nat) (d : Dev) : (countEv c i q k d).pow = d.pow := rfl
@[simp] theorem countEv_sec (c i q k : Nat) (d : Dev) : (countEv c i q k d).sec = d.sec := rfl
@[simp] theorem countEv_pins (c i q k : Nat) (d : Dev) : (countEv c i q k d).pins = d.pins := rfl

@[simp] theorem advanceRaw_fresh (n : Nat) (d : Dev) : (advanceRaw n d).fresh = d.fresh := rfl
@[simp] theorem advanceRaw_out (n : Nat) (d : Dev) : (advanceRaw n d).out = d.out := rfl
@[simp] theorem advanceRaw_dict (n : Nat) (d : Dev) : (advanceRaw n d).dict = d.dict := rfl
@[simp] theorem advanceRaw_node (n : Nat) (d : Dev) : (advanceRaw n d).node = d.node := rfl
@[simp] theorem advanceRaw_chip (n : Nat) (d : Dev) : (advanceRaw n d).chip = d.chip := rfl
@[simp] theorem advanceRaw_inaug (n : Nat) (d : Dev) : (advanceRaw n d).inaug = d.inaug := rfl
@[simp] theorem advanceRaw_fab (n : Nat) (d : Dev) : (advanceRaw n d).fab = d.fab := rfl
@[simp] theorem advanceRaw_ports (n : Nat) (d : Dev) : (advanceRaw n d).ports = d.ports := rfl
@[simp] theorem advanceRaw_sched (n : Nat) (d : Dev) : (advanceRaw n d).sched = d.sched := rfl
@[simp] theorem advanceRaw_strm (n : Nat) (d : Dev) : (advanceRaw n d).strm = d.strm := rfl
@[simp] theorem advanceRaw_can (n : Nat) (d : Dev) : (advanceRaw n d).can = d.can := rfl
@[simp] theorem advanceRaw_gw (n : Nat) (d : Dev) : (advanceRaw n d).gw = d.gw := rfl
@[simp] theorem advanceRaw_chk (n : Nat) (d : Dev) : (advanceRaw n d).chk = d.chk := rfl
@[simp] theorem advanceRaw_recd (n : Nat) (d : Dev) : (advanceRaw n d).recd = d.recd := rfl
@[simp] theorem advanceRaw_sleep (n : Nat) (d : Dev) : (advanceRaw n d).sleep = d.sleep := rfl
@[simp] theorem advanceRaw_load (n : Nat) (d : Dev) : (advanceRaw n d).load = d.load := rfl
@[simp] theorem advanceRaw_host (n : Nat) (d : Dev) : (advanceRaw n d).host = d.host := rfl
@[simp] theorem advanceRaw_pow (n : Nat) (d : Dev) : (advanceRaw n d).pow = d.pow := rfl
@[simp] theorem advanceRaw_health (n : Nat) (d : Dev) : (advanceRaw n d).health = d.health := rfl
@[simp] theorem advanceRaw_sec (n : Nat) (d : Dev) : (advanceRaw n d).sec = d.sec := rfl
@[simp] theorem advanceRaw_pins (n : Nat) (d : Dev) : (advanceRaw n d).pins = d.pins := rfl

@[simp] theorem advance_fresh (n : Nat) (d : Dev) : (advance n d).fresh = d.fresh := by simp [advance]
@[simp] theorem advance_out (n : Nat) (d : Dev) : (advance n d).out = d.out := by simp [advance]
@[simp] theorem advance_dict (n : Nat) (d : Dev) : (advance n d).dict = d.dict := by simp [advance]
@[simp] theorem advance_node (n : Nat) (d : Dev) : (advance n d).node = d.node := by simp [advance]
@[simp] theorem advance_chip (n : Nat) (d : Dev) : (advance n d).chip = d.chip := by simp [advance]
@[simp] theorem advance_inaug (n : Nat) (d : Dev) : (advance n d).inaug = d.inaug := by simp [advance]
@[simp] theorem advance_fab (n : Nat) (d : Dev) : (advance n d).fab = d.fab := by simp [advance]
@[simp] theorem advance_ports (n : Nat) (d : Dev) : (advance n d).ports = d.ports := by simp [advance]
@[simp] theorem advance_sched (n : Nat) (d : Dev) : (advance n d).sched = d.sched := by simp [advance]
@[simp] theorem advance_strm (n : Nat) (d : Dev) : (advance n d).strm = d.strm := by simp [advance]
@[simp] theorem advance_can (n : Nat) (d : Dev) : (advance n d).can = d.can := by simp [advance]
@[simp] theorem advance_gw (n : Nat) (d : Dev) : (advance n d).gw = d.gw := by simp [advance]
@[simp] theorem advance_chk (n : Nat) (d : Dev) : (advance n d).chk = d.chk := by simp [advance]
@[simp] theorem advance_recd (n : Nat) (d : Dev) : (advance n d).recd = d.recd := by simp [advance]
@[simp] theorem advance_sleep (n : Nat) (d : Dev) : (advance n d).sleep = d.sleep := by simp [advance]
@[simp] theorem advance_load (n : Nat) (d : Dev) : (advance n d).load = d.load := by simp [advance]
@[simp] theorem advance_host (n : Nat) (d : Dev) : (advance n d).host = d.host := by simp [advance]
@[simp] theorem advance_pow (n : Nat) (d : Dev) : (advance n d).pow = d.pow := by simp [advance]
@[simp] theorem advance_sec (n : Nat) (d : Dev) : (advance n d).sec = d.sec := by simp [advance]
@[simp] theorem advance_pins (n : Nat) (d : Dev) : (advance n d).pins = d.pins := by simp [advance]

@[simp] theorem arrive_fresh (t : Nat) (d : Dev) : (arrive t d).fresh = d.fresh := by simp [arrive]
@[simp] theorem arrive_out (t : Nat) (d : Dev) : (arrive t d).out = d.out := by simp [arrive]
@[simp] theorem arrive_dict (t : Nat) (d : Dev) : (arrive t d).dict = d.dict := by simp [arrive]
@[simp] theorem arrive_node (t : Nat) (d : Dev) : (arrive t d).node = d.node := by simp [arrive]
@[simp] theorem arrive_chip (t : Nat) (d : Dev) : (arrive t d).chip = d.chip := by simp [arrive]
@[simp] theorem arrive_inaug (t : Nat) (d : Dev) : (arrive t d).inaug = d.inaug := by simp [arrive]
@[simp] theorem arrive_fab (t : Nat) (d : Dev) : (arrive t d).fab = d.fab := by simp [arrive]
@[simp] theorem arrive_ports (t : Nat) (d : Dev) : (arrive t d).ports = d.ports := by simp [arrive]
@[simp] theorem arrive_sched (t : Nat) (d : Dev) : (arrive t d).sched = d.sched := by simp [arrive]
@[simp] theorem arrive_strm (t : Nat) (d : Dev) : (arrive t d).strm = d.strm := by simp [arrive]
@[simp] theorem arrive_can (t : Nat) (d : Dev) : (arrive t d).can = d.can := by simp [arrive]
@[simp] theorem arrive_gw (t : Nat) (d : Dev) : (arrive t d).gw = d.gw := by simp [arrive]
@[simp] theorem arrive_chk (t : Nat) (d : Dev) : (arrive t d).chk = d.chk := by simp [arrive]
@[simp] theorem arrive_recd (t : Nat) (d : Dev) : (arrive t d).recd = d.recd := by simp [arrive]
@[simp] theorem arrive_sleep (t : Nat) (d : Dev) : (arrive t d).sleep = d.sleep := by simp [arrive]
@[simp] theorem arrive_load (t : Nat) (d : Dev) : (arrive t d).load = d.load := by simp [arrive]
@[simp] theorem arrive_host (t : Nat) (d : Dev) : (arrive t d).host = d.host := by simp [arrive]
@[simp] theorem arrive_pow (t : Nat) (d : Dev) : (arrive t d).pow = d.pow := by simp [arrive]
@[simp] theorem arrive_sec (t : Nat) (d : Dev) : (arrive t d).sec = d.sec := by simp [arrive]
@[simp] theorem arrive_pins (t : Nat) (d : Dev) : (arrive t d).pins = d.pins := by simp [arrive]

@[simp] theorem arriveTrainFuel_fresh (n t : Nat) (d : Dev) : (arriveTrainFuel n t d).fresh = d.fresh := by
  induction n generalizing d with
  | zero => rfl
  | succ n ih => unfold arriveTrainFuel; split <;> simp [ih]
@[simp] theorem arriveTrainFuel_out (n t : Nat) (d : Dev) : (arriveTrainFuel n t d).out = d.out := by
  induction n generalizing d with
  | zero => rfl
  | succ n ih => unfold arriveTrainFuel; split <;> simp [ih]
@[simp] theorem arriveTrainFuel_dict (n t : Nat) (d : Dev) : (arriveTrainFuel n t d).dict = d.dict := by
  induction n generalizing d with
  | zero => rfl
  | succ n ih => unfold arriveTrainFuel; split <;> simp [ih]
@[simp] theorem arriveTrainFuel_node (n t : Nat) (d : Dev) : (arriveTrainFuel n t d).node = d.node := by
  induction n generalizing d with
  | zero => rfl
  | succ n ih => unfold arriveTrainFuel; split <;> simp [ih]
@[simp] theorem arriveTrainFuel_chip (n t : Nat) (d : Dev) : (arriveTrainFuel n t d).chip = d.chip := by
  induction n generalizing d with
  | zero => rfl
  | succ n ih => unfold arriveTrainFuel; split <;> simp [ih]
@[simp] theorem arriveTrainFuel_inaug (n t : Nat) (d : Dev) : (arriveTrainFuel n t d).inaug = d.inaug := by
  induction n generalizing d with
  | zero => rfl
  | succ n ih => unfold arriveTrainFuel; split <;> simp [ih]
@[simp] theorem arriveTrainFuel_fab (n t : Nat) (d : Dev) : (arriveTrainFuel n t d).fab = d.fab := by
  induction n generalizing d with
  | zero => rfl
  | succ n ih => unfold arriveTrainFuel; split <;> simp [ih]
@[simp] theorem arriveTrainFuel_ports (n t : Nat) (d : Dev) : (arriveTrainFuel n t d).ports = d.ports := by
  induction n generalizing d with
  | zero => rfl
  | succ n ih => unfold arriveTrainFuel; split <;> simp [ih]
@[simp] theorem arriveTrainFuel_sched (n t : Nat) (d : Dev) : (arriveTrainFuel n t d).sched = d.sched := by
  induction n generalizing d with
  | zero => rfl
  | succ n ih => unfold arriveTrainFuel; split <;> simp [ih]
@[simp] theorem arriveTrainFuel_strm (n t : Nat) (d : Dev) : (arriveTrainFuel n t d).strm = d.strm := by
  induction n generalizing d with
  | zero => rfl
  | succ n ih => unfold arriveTrainFuel; split <;> simp [ih]
@[simp] theorem arriveTrainFuel_can (n t : Nat) (d : Dev) : (arriveTrainFuel n t d).can = d.can := by
  induction n generalizing d with
  | zero => rfl
  | succ n ih => unfold arriveTrainFuel; split <;> simp [ih]
@[simp] theorem arriveTrainFuel_gw (n t : Nat) (d : Dev) : (arriveTrainFuel n t d).gw = d.gw := by
  induction n generalizing d with
  | zero => rfl
  | succ n ih => unfold arriveTrainFuel; split <;> simp [ih]
@[simp] theorem arriveTrainFuel_chk (n t : Nat) (d : Dev) : (arriveTrainFuel n t d).chk = d.chk := by
  induction n generalizing d with
  | zero => rfl
  | succ n ih => unfold arriveTrainFuel; split <;> simp [ih]
@[simp] theorem arriveTrainFuel_recd (n t : Nat) (d : Dev) : (arriveTrainFuel n t d).recd = d.recd := by
  induction n generalizing d with
  | zero => rfl
  | succ n ih => unfold arriveTrainFuel; split <;> simp [ih]
@[simp] theorem arriveTrainFuel_sleep (n t : Nat) (d : Dev) : (arriveTrainFuel n t d).sleep = d.sleep := by
  induction n generalizing d with
  | zero => rfl
  | succ n ih => unfold arriveTrainFuel; split <;> simp [ih]
@[simp] theorem arriveTrainFuel_load (n t : Nat) (d : Dev) : (arriveTrainFuel n t d).load = d.load := by
  induction n generalizing d with
  | zero => rfl
  | succ n ih => unfold arriveTrainFuel; split <;> simp [ih]
@[simp] theorem arriveTrainFuel_host (n t : Nat) (d : Dev) : (arriveTrainFuel n t d).host = d.host := by
  induction n generalizing d with
  | zero => rfl
  | succ n ih => unfold arriveTrainFuel; split <;> simp [ih]
@[simp] theorem arriveTrainFuel_pow (n t : Nat) (d : Dev) : (arriveTrainFuel n t d).pow = d.pow := by
  induction n generalizing d with
  | zero => rfl
  | succ n ih => unfold arriveTrainFuel; split <;> simp [ih]
@[simp] theorem arriveTrainFuel_sec (n t : Nat) (d : Dev) : (arriveTrainFuel n t d).sec = d.sec := by
  induction n generalizing d with
  | zero => rfl
  | succ n ih => unfold arriveTrainFuel; split <;> simp [ih]
@[simp] theorem arriveTrainFuel_pins (n t : Nat) (d : Dev) : (arriveTrainFuel n t d).pins = d.pins := by
  induction n generalizing d with
  | zero => rfl
  | succ n ih => unfold arriveTrainFuel; split <;> simp [ih]

@[simp] theorem arriveTrain_fresh (t : Nat) (d : Dev) : (arriveTrain t d).fresh = d.fresh := by simp [arriveTrain]
@[simp] theorem arriveTrain_out (t : Nat) (d : Dev) : (arriveTrain t d).out = d.out := by simp [arriveTrain]
@[simp] theorem arriveTrain_dict (t : Nat) (d : Dev) : (arriveTrain t d).dict = d.dict := by simp [arriveTrain]
@[simp] theorem arriveTrain_node (t : Nat) (d : Dev) : (arriveTrain t d).node = d.node := by simp [arriveTrain]
@[simp] theorem arriveTrain_chip (t : Nat) (d : Dev) : (arriveTrain t d).chip = d.chip := by simp [arriveTrain]
@[simp] theorem arriveTrain_inaug (t : Nat) (d : Dev) : (arriveTrain t d).inaug = d.inaug := by simp [arriveTrain]
@[simp] theorem arriveTrain_fab (t : Nat) (d : Dev) : (arriveTrain t d).fab = d.fab := by simp [arriveTrain]
@[simp] theorem arriveTrain_ports (t : Nat) (d : Dev) : (arriveTrain t d).ports = d.ports := by simp [arriveTrain]
@[simp] theorem arriveTrain_sched (t : Nat) (d : Dev) : (arriveTrain t d).sched = d.sched := by simp [arriveTrain]
@[simp] theorem arriveTrain_strm (t : Nat) (d : Dev) : (arriveTrain t d).strm = d.strm := by simp [arriveTrain]
@[simp] theorem arriveTrain_can (t : Nat) (d : Dev) : (arriveTrain t d).can = d.can := by simp [arriveTrain]
@[simp] theorem arriveTrain_gw (t : Nat) (d : Dev) : (arriveTrain t d).gw = d.gw := by simp [arriveTrain]
@[simp] theorem arriveTrain_chk (t : Nat) (d : Dev) : (arriveTrain t d).chk = d.chk := by simp [arriveTrain]
@[simp] theorem arriveTrain_recd (t : Nat) (d : Dev) : (arriveTrain t d).recd = d.recd := by simp [arriveTrain]
@[simp] theorem arriveTrain_sleep (t : Nat) (d : Dev) : (arriveTrain t d).sleep = d.sleep := by simp [arriveTrain]
@[simp] theorem arriveTrain_load (t : Nat) (d : Dev) : (arriveTrain t d).load = d.load := by simp [arriveTrain]
@[simp] theorem arriveTrain_host (t : Nat) (d : Dev) : (arriveTrain t d).host = d.host := by simp [arriveTrain]
@[simp] theorem arriveTrain_pow (t : Nat) (d : Dev) : (arriveTrain t d).pow = d.pow := by simp [arriveTrain]
@[simp] theorem arriveTrain_sec (t : Nat) (d : Dev) : (arriveTrain t d).sec = d.sec := by simp [arriveTrain]
@[simp] theorem arriveTrain_pins (t : Nat) (d : Dev) : (arriveTrain t d).pins = d.pins := by simp [arriveTrain]

@[simp] theorem sendVector_now (v : Fin 16) (d : Dev) : (sendVector v d).now = d.now := by
  unfold sendVector; try dsimp only
  repeat' split
  all_goals simp
@[simp] theorem sendVector_fresh (v : Fin 16) (d : Dev) : (sendVector v d).fresh = d.fresh := by
  unfold sendVector; try dsimp only
  repeat' split
  all_goals simp
@[simp] theorem sendVector_dict (v : Fin 16) (d : Dev) : (sendVector v d).dict = d.dict := by
  unfold sendVector; try dsimp only
  repeat' split
  all_goals simp
@[simp] theorem sendVector_node (v : Fin 16) (d : Dev) : (sendVector v d).node = d.node := by
  unfold sendVector; try dsimp only
  repeat' split
  all_goals simp
@[simp] theorem sendVector_chip (v : Fin 16) (d : Dev) : (sendVector v d).chip = d.chip := by
  unfold sendVector; try dsimp only
  repeat' split
  all_goals simp
@[simp] theorem sendVector_inaug (v : Fin 16) (d : Dev) : (sendVector v d).inaug = d.inaug := by
  unfold sendVector; try dsimp only
  repeat' split
  all_goals simp
@[simp] theorem sendVector_fab (v : Fin 16) (d : Dev) : (sendVector v d).fab = d.fab := by
  unfold sendVector; try dsimp only
  repeat' split
  all_goals simp
@[simp] theorem sendVector_ports (v : Fin 16) (d : Dev) : (sendVector v d).ports = d.ports := by
  unfold sendVector; try dsimp only
  repeat' split
  all_goals simp
@[simp] theorem sendVector_time (v : Fin 16) (d : Dev) : (sendVector v d).time = d.time := by
  unfold sendVector; try dsimp only
  repeat' split
  all_goals simp
@[simp] theorem sendVector_sched (v : Fin 16) (d : Dev) : (sendVector v d).sched = d.sched := by
  unfold sendVector; try dsimp only
  repeat' split
  all_goals simp
@[simp] theorem sendVector_strm (v : Fin 16) (d : Dev) : (sendVector v d).strm = d.strm := by
  unfold sendVector; try dsimp only
  repeat' split
  all_goals simp
@[simp] theorem sendVector_can (v : Fin 16) (d : Dev) : (sendVector v d).can = d.can := by
  unfold sendVector; try dsimp only
  repeat' split
  all_goals simp
@[simp] theorem sendVector_gw (v : Fin 16) (d : Dev) : (sendVector v d).gw = d.gw := by
  unfold sendVector; try dsimp only
  repeat' split
  all_goals simp
@[simp] theorem sendVector_chk (v : Fin 16) (d : Dev) : (sendVector v d).chk = d.chk := by
  unfold sendVector; try dsimp only
  repeat' split
  all_goals simp
@[simp] theorem sendVector_recd (v : Fin 16) (d : Dev) : (sendVector v d).recd = d.recd := by
  unfold sendVector; try dsimp only
  repeat' split
  all_goals simp
@[simp] theorem sendVector_sleep (v : Fin 16) (d : Dev) : (sendVector v d).sleep = d.sleep := by
  unfold sendVector; try dsimp only
  repeat' split
  all_goals simp
@[simp] theorem sendVector_load (v : Fin 16) (d : Dev) : (sendVector v d).load = d.load := by
  unfold sendVector; try dsimp only
  repeat' split
  all_goals simp
@[simp] theorem sendVector_pow (v : Fin 16) (d : Dev) : (sendVector v d).pow = d.pow := by
  unfold sendVector; try dsimp only
  repeat' split
  all_goals simp
@[simp] theorem sendVector_health (v : Fin 16) (d : Dev) : (sendVector v d).health = d.health := by
  unfold sendVector; try dsimp only
  repeat' split
  all_goals simp
@[simp] theorem sendVector_sec (v : Fin 16) (d : Dev) : (sendVector v d).sec = d.sec := by
  unfold sendVector; try dsimp only
  repeat' split
  all_goals simp
@[simp] theorem sendVector_pins (v : Fin 16) (d : Dev) : (sendVector v d).pins = d.pins := by
  unfold sendVector; try dsimp only
  repeat' split
  all_goals simp

@[simp] theorem setInt_now (b : Nat) (d : Dev) : (setInt b d).now = d.now := by
  unfold setInt; try dsimp only
  repeat' split
  all_goals simp
@[simp] theorem setInt_fresh (b : Nat) (d : Dev) : (setInt b d).fresh = d.fresh := by
  unfold setInt; try dsimp only
  repeat' split
  all_goals simp
@[simp] theorem setInt_dict (b : Nat) (d : Dev) : (setInt b d).dict = d.dict := by
  unfold setInt; try dsimp only
  repeat' split
  all_goals simp
@[simp] theorem setInt_node (b : Nat) (d : Dev) : (setInt b d).node = d.node := by
  unfold setInt; try dsimp only
  repeat' split
  all_goals simp
@[simp] theorem setInt_chip (b : Nat) (d : Dev) : (setInt b d).chip = d.chip := by
  unfold setInt; try dsimp only
  repeat' split
  all_goals simp
@[simp] theorem setInt_inaug (b : Nat) (d : Dev) : (setInt b d).inaug = d.inaug := by
  unfold setInt; try dsimp only
  repeat' split
  all_goals simp
@[simp] theorem setInt_fab (b : Nat) (d : Dev) : (setInt b d).fab = d.fab := by
  unfold setInt; try dsimp only
  repeat' split
  all_goals simp
@[simp] theorem setInt_ports (b : Nat) (d : Dev) : (setInt b d).ports = d.ports := by
  unfold setInt; try dsimp only
  repeat' split
  all_goals simp
@[simp] theorem setInt_time (b : Nat) (d : Dev) : (setInt b d).time = d.time := by
  unfold setInt; try dsimp only
  repeat' split
  all_goals simp
@[simp] theorem setInt_sched (b : Nat) (d : Dev) : (setInt b d).sched = d.sched := by
  unfold setInt; try dsimp only
  repeat' split
  all_goals simp
@[simp] theorem setInt_strm (b : Nat) (d : Dev) : (setInt b d).strm = d.strm := by
  unfold setInt; try dsimp only
  repeat' split
  all_goals simp
@[simp] theorem setInt_can (b : Nat) (d : Dev) : (setInt b d).can = d.can := by
  unfold setInt; try dsimp only
  repeat' split
  all_goals simp
@[simp] theorem setInt_gw (b : Nat) (d : Dev) : (setInt b d).gw = d.gw := by
  unfold setInt; try dsimp only
  repeat' split
  all_goals simp
@[simp] theorem setInt_chk (b : Nat) (d : Dev) : (setInt b d).chk = d.chk := by
  unfold setInt; try dsimp only
  repeat' split
  all_goals simp
@[simp] theorem setInt_recd (b : Nat) (d : Dev) : (setInt b d).recd = d.recd := by
  unfold setInt; try dsimp only
  repeat' split
  all_goals simp
@[simp] theorem setInt_sleep (b : Nat) (d : Dev) : (setInt b d).sleep = d.sleep := by
  unfold setInt; try dsimp only
  repeat' split
  all_goals simp
@[simp] theorem setInt_load (b : Nat) (d : Dev) : (setInt b d).load = d.load := by
  unfold setInt; try dsimp only
  repeat' split
  all_goals simp
@[simp] theorem setInt_pow (b : Nat) (d : Dev) : (setInt b d).pow = d.pow := by
  unfold setInt; try dsimp only
  repeat' split
  all_goals simp
@[simp] theorem setInt_health (b : Nat) (d : Dev) : (setInt b d).health = d.health := by
  unfold setInt; try dsimp only
  repeat' split
  all_goals simp
@[simp] theorem setInt_sec (b : Nat) (d : Dev) : (setInt b d).sec = d.sec := by
  unfold setInt; try dsimp only
  repeat' split
  all_goals simp
@[simp] theorem setInt_pins (b : Nat) (d : Dev) : (setInt b d).pins = d.pins := by
  unfold setInt; try dsimp only
  repeat' split
  all_goals simp

@[simp] theorem snapshot_now (d : Dev) : (snapshot d).now = d.now := by
  unfold snapshot; try dsimp only
  repeat' split
  all_goals simp
@[simp] theorem snapshot_fresh (d : Dev) : (snapshot d).fresh = d.fresh := by
  unfold snapshot; try dsimp only
  repeat' split
  all_goals simp
@[simp] theorem snapshot_out (d : Dev) : (snapshot d).out = d.out := by
  unfold snapshot; try dsimp only
  repeat' split
  all_goals simp
@[simp] theorem snapshot_node (d : Dev) : (snapshot d).node = d.node := by
  unfold snapshot; try dsimp only
  repeat' split
  all_goals simp
@[simp] theorem snapshot_chip (d : Dev) : (snapshot d).chip = d.chip := by
  unfold snapshot; try dsimp only
  repeat' split
  all_goals simp
@[simp] theorem snapshot_inaug (d : Dev) : (snapshot d).inaug = d.inaug := by
  unfold snapshot; try dsimp only
  repeat' split
  all_goals simp
@[simp] theorem snapshot_fab (d : Dev) : (snapshot d).fab = d.fab := by
  unfold snapshot; try dsimp only
  repeat' split
  all_goals simp
@[simp] theorem snapshot_ports (d : Dev) : (snapshot d).ports = d.ports := by
  unfold snapshot; try dsimp only
  repeat' split
  all_goals simp
@[simp] theorem snapshot_time (d : Dev) : (snapshot d).time = d.time := by
  unfold snapshot; try dsimp only
  repeat' split
  all_goals simp
@[simp] theorem snapshot_sched (d : Dev) : (snapshot d).sched = d.sched := by
  unfold snapshot; try dsimp only
  repeat' split
  all_goals simp
@[simp] theorem snapshot_strm (d : Dev) : (snapshot d).strm = d.strm := by
  unfold snapshot; try dsimp only
  repeat' split
  all_goals simp
@[simp] theorem snapshot_can (d : Dev) : (snapshot d).can = d.can := by
  unfold snapshot; try dsimp only
  repeat' split
  all_goals simp
@[simp] theorem snapshot_gw (d : Dev) : (snapshot d).gw = d.gw := by
  unfold snapshot; try dsimp only
  repeat' split
  all_goals simp
@[simp] theorem snapshot_chk (d : Dev) : (snapshot d).chk = d.chk := by
  unfold snapshot; try dsimp only
  repeat' split
  all_goals simp
@[simp] theorem snapshot_recd (d : Dev) : (snapshot d).recd = d.recd := by
  unfold snapshot; try dsimp only
  repeat' split
  all_goals simp
@[simp] theorem snapshot_sleep (d : Dev) : (snapshot d).sleep = d.sleep := by
  unfold snapshot; try dsimp only
  repeat' split
  all_goals simp
@[simp] theorem snapshot_load (d : Dev) : (snapshot d).load = d.load := by
  unfold snapshot; try dsimp only
  repeat' split
  all_goals simp
@[simp] theorem snapshot_host (d : Dev) : (snapshot d).host = d.host := by
  unfold snapshot; try dsimp only
  repeat' split
  all_goals simp
@[simp] theorem snapshot_pow (d : Dev) : (snapshot d).pow = d.pow := by
  unfold snapshot; try dsimp only
  repeat' split
  all_goals simp
@[simp] theorem snapshot_sec (d : Dev) : (snapshot d).sec = d.sec := by
  unfold snapshot; try dsimp only
  repeat' split
  all_goals simp
@[simp] theorem snapshot_pins (d : Dev) : (snapshot d).pins = d.pins := by
  unfold snapshot; try dsimp only
  repeat' split
  all_goals simp

@[simp] theorem countDrop_now (d : Dev) : (countDrop d).now = d.now := rfl
@[simp] theorem countDrop_fresh (d : Dev) : (countDrop d).fresh = d.fresh := rfl
@[simp] theorem countDrop_out (d : Dev) : (countDrop d).out = d.out := rfl
@[simp] theorem countDrop_dict (d : Dev) : (countDrop d).dict = d.dict := rfl
@[simp] theorem countDrop_node (d : Dev) : (countDrop d).node = d.node := rfl
@[simp] theorem countDrop_chip (d : Dev) : (countDrop d).chip = d.chip := rfl
@[simp] theorem countDrop_inaug (d : Dev) : (countDrop d).inaug = d.inaug := rfl
@[simp] theorem countDrop_fab (d : Dev) : (countDrop d).fab = d.fab := rfl
@[simp] theorem countDrop_ports (d : Dev) : (countDrop d).ports = d.ports := rfl
@[simp] theorem countDrop_time (d : Dev) : (countDrop d).time = d.time := rfl
@[simp] theorem countDrop_sched (d : Dev) : (countDrop d).sched = d.sched := rfl
@[simp] theorem countDrop_strm (d : Dev) : (countDrop d).strm = d.strm := rfl
@[simp] theorem countDrop_can (d : Dev) : (countDrop d).can = d.can := rfl
@[simp] theorem countDrop_gw (d : Dev) : (countDrop d).gw = d.gw := rfl
@[simp] theorem countDrop_chk (d : Dev) : (countDrop d).chk = d.chk := rfl
@[simp] theorem countDrop_sleep (d : Dev) : (countDrop d).sleep = d.sleep := rfl
@[simp] theorem countDrop_load (d : Dev) : (countDrop d).load = d.load := rfl
@[simp] theorem countDrop_host (d : Dev) : (countDrop d).host = d.host := rfl
@[simp] theorem countDrop_pow (d : Dev) : (countDrop d).pow = d.pow := rfl
@[simp] theorem countDrop_health (d : Dev) : (countDrop d).health = d.health := rfl
@[simp] theorem countDrop_sec (d : Dev) : (countDrop d).sec = d.sec := rfl
@[simp] theorem countDrop_pins (d : Dev) : (countDrop d).pins = d.pins := rfl

@[simp] theorem tarnCopy_now (e : Entry) (d : Dev) : (tarnCopy e d).now = d.now := by
  unfold tarnCopy; try dsimp only
  repeat' split
  all_goals simp
@[simp] theorem tarnCopy_fresh (e : Entry) (d : Dev) : (tarnCopy e d).fresh = d.fresh := by
  unfold tarnCopy; try dsimp only
  repeat' split
  all_goals simp
@[simp] theorem tarnCopy_out (e : Entry) (d : Dev) : (tarnCopy e d).out = d.out := by
  unfold tarnCopy; try dsimp only
  repeat' split
  all_goals simp
@[simp] theorem tarnCopy_node (e : Entry) (d : Dev) : (tarnCopy e d).node = d.node := by
  unfold tarnCopy; try dsimp only
  repeat' split
  all_goals simp
@[simp] theorem tarnCopy_chip (e : Entry) (d : Dev) : (tarnCopy e d).chip = d.chip := by
  unfold tarnCopy; try dsimp only
  repeat' split
  all_goals simp
@[simp] theorem tarnCopy_inaug (e : Entry) (d : Dev) : (tarnCopy e d).inaug = d.inaug := by
  unfold tarnCopy; try dsimp only
  repeat' split
  all_goals simp
@[simp] theorem tarnCopy_fab (e : Entry) (d : Dev) : (tarnCopy e d).fab = d.fab := by
  unfold tarnCopy; try dsimp only
  repeat' split
  all_goals simp
@[simp] theorem tarnCopy_ports (e : Entry) (d : Dev) : (tarnCopy e d).ports = d.ports := by
  unfold tarnCopy; try dsimp only
  repeat' split
  all_goals simp
@[simp] theorem tarnCopy_time (e : Entry) (d : Dev) : (tarnCopy e d).time = d.time := by
  unfold tarnCopy; try dsimp only
  repeat' split
  all_goals simp
@[simp] theorem tarnCopy_sched (e : Entry) (d : Dev) : (tarnCopy e d).sched = d.sched := by
  unfold tarnCopy; try dsimp only
  repeat' split
  all_goals simp
@[simp] theorem tarnCopy_strm (e : Entry) (d : Dev) : (tarnCopy e d).strm = d.strm := by
  unfold tarnCopy; try dsimp only
  repeat' split
  all_goals simp
@[simp] theorem tarnCopy_can (e : Entry) (d : Dev) : (tarnCopy e d).can = d.can := by
  unfold tarnCopy; try dsimp only
  repeat' split
  all_goals simp
@[simp] theorem tarnCopy_gw (e : Entry) (d : Dev) : (tarnCopy e d).gw = d.gw := by
  unfold tarnCopy; try dsimp only
  repeat' split
  all_goals simp
@[simp] theorem tarnCopy_chk (e : Entry) (d : Dev) : (tarnCopy e d).chk = d.chk := by
  unfold tarnCopy; try dsimp only
  repeat' split
  all_goals simp
@[simp] theorem tarnCopy_sleep (e : Entry) (d : Dev) : (tarnCopy e d).sleep = d.sleep := by
  unfold tarnCopy; try dsimp only
  repeat' split
  all_goals simp
@[simp] theorem tarnCopy_load (e : Entry) (d : Dev) : (tarnCopy e d).load = d.load := by
  unfold tarnCopy; try dsimp only
  repeat' split
  all_goals simp
@[simp] theorem tarnCopy_host (e : Entry) (d : Dev) : (tarnCopy e d).host = d.host := by
  unfold tarnCopy; try dsimp only
  repeat' split
  all_goals simp
@[simp] theorem tarnCopy_pow (e : Entry) (d : Dev) : (tarnCopy e d).pow = d.pow := by
  unfold tarnCopy; try dsimp only
  repeat' split
  all_goals simp
@[simp] theorem tarnCopy_health (e : Entry) (d : Dev) : (tarnCopy e d).health = d.health := by
  unfold tarnCopy; try dsimp only
  repeat' split
  all_goals simp
@[simp] theorem tarnCopy_sec (e : Entry) (d : Dev) : (tarnCopy e d).sec = d.sec := by
  unfold tarnCopy; try dsimp only
  repeat' split
  all_goals simp
@[simp] theorem tarnCopy_pins (e : Entry) (d : Dev) : (tarnCopy e d).pins = d.pins := by
  unfold tarnCopy; try dsimp only
  repeat' split
  all_goals simp

@[simp] theorem tarnLimited_now (e : Entry) (d : Dev) : (tarnLimited e d).now = d.now := by
  unfold tarnLimited; try dsimp only
  repeat' split
  all_goals simp
@[simp] theorem tarnLimited_fresh (e : Entry) (d : Dev) : (tarnLimited e d).fresh = d.fresh := by
  unfold tarnLimited; try dsimp only
  repeat' split
  all_goals simp
@[simp] theorem tarnLimited_out (e : Entry) (d : Dev) : (tarnLimited e d).out = d.out := by
  unfold tarnLimited; try dsimp only
  repeat' split
  all_goals simp
@[simp] theorem tarnLimited_node (e : Entry) (d : Dev) : (tarnLimited e d).node = d.node := by
  unfold tarnLimited; try dsimp only
  repeat' split
  all_goals simp
@[simp] theorem tarnLimited_chip (e : Entry) (d : Dev) : (tarnLimited e d).chip = d.chip := by
  unfold tarnLimited; try dsimp only
  repeat' split
  all_goals simp
@[simp] theorem tarnLimited_inaug (e : Entry) (d : Dev) : (tarnLimited e d).inaug = d.inaug := by
  unfold tarnLimited; try dsimp only
  repeat' split
  all_goals simp
@[simp] theorem tarnLimited_fab (e : Entry) (d : Dev) : (tarnLimited e d).fab = d.fab := by
  unfold tarnLimited; try dsimp only
  repeat' split
  all_goals simp
@[simp] theorem tarnLimited_ports (e : Entry) (d : Dev) : (tarnLimited e d).ports = d.ports := by
  unfold tarnLimited; try dsimp only
  repeat' split
  all_goals simp
@[simp] theorem tarnLimited_time (e : Entry) (d : Dev) : (tarnLimited e d).time = d.time := by
  unfold tarnLimited; try dsimp only
  repeat' split
  all_goals simp
@[simp] theorem tarnLimited_sched (e : Entry) (d : Dev) : (tarnLimited e d).sched = d.sched := by
  unfold tarnLimited; try dsimp only
  repeat' split
  all_goals simp
@[simp] theorem tarnLimited_strm (e : Entry) (d : Dev) : (tarnLimited e d).strm = d.strm := by
  unfold tarnLimited; try dsimp only
  repeat' split
  all_goals simp
@[simp] theorem tarnLimited_can (e : Entry) (d : Dev) : (tarnLimited e d).can = d.can := by
  unfold tarnLimited; try dsimp only
  repeat' split
  all_goals simp
@[simp] theorem tarnLimited_gw (e : Entry) (d : Dev) : (tarnLimited e d).gw = d.gw := by
  unfold tarnLimited; try dsimp only
  repeat' split
  all_goals simp
@[simp] theorem tarnLimited_chk (e : Entry) (d : Dev) : (tarnLimited e d).chk = d.chk := by
  unfold tarnLimited; try dsimp only
  repeat' split
  all_goals simp
@[simp] theorem tarnLimited_sleep (e : Entry) (d : Dev) : (tarnLimited e d).sleep = d.sleep := by
  unfold tarnLimited; try dsimp only
  repeat' split
  all_goals simp
@[simp] theorem tarnLimited_load (e : Entry) (d : Dev) : (tarnLimited e d).load = d.load := by
  unfold tarnLimited; try dsimp only
  repeat' split
  all_goals simp
@[simp] theorem tarnLimited_host (e : Entry) (d : Dev) : (tarnLimited e d).host = d.host := by
  unfold tarnLimited; try dsimp only
  repeat' split
  all_goals simp
@[simp] theorem tarnLimited_pow (e : Entry) (d : Dev) : (tarnLimited e d).pow = d.pow := by
  unfold tarnLimited; try dsimp only
  repeat' split
  all_goals simp
@[simp] theorem tarnLimited_health (e : Entry) (d : Dev) : (tarnLimited e d).health = d.health := by
  unfold tarnLimited; try dsimp only
  repeat' split
  all_goals simp
@[simp] theorem tarnLimited_sec (e : Entry) (d : Dev) : (tarnLimited e d).sec = d.sec := by
  unfold tarnLimited; try dsimp only
  repeat' split
  all_goals simp
@[simp] theorem tarnLimited_pins (e : Entry) (d : Dev) : (tarnLimited e d).pins = d.pins := by
  unfold tarnLimited; try dsimp only
  repeat' split
  all_goals simp

@[simp] theorem ringAccept_now (e : Entry) (d : Dev) : (ringAccept e d).now = d.now := by
  unfold ringAccept; try dsimp only
  repeat' split
  all_goals simp
@[simp] theorem ringAccept_fresh (e : Entry) (d : Dev) : (ringAccept e d).fresh = d.fresh := by
  unfold ringAccept; try dsimp only
  repeat' split
  all_goals simp
@[simp] theorem ringAccept_out (e : Entry) (d : Dev) : (ringAccept e d).out = d.out := by
  unfold ringAccept; try dsimp only
  repeat' split
  all_goals simp
@[simp] theorem ringAccept_node (e : Entry) (d : Dev) : (ringAccept e d).node = d.node := by
  unfold ringAccept; try dsimp only
  repeat' split
  all_goals simp
@[simp] theorem ringAccept_chip (e : Entry) (d : Dev) : (ringAccept e d).chip = d.chip := by
  unfold ringAccept; try dsimp only
  repeat' split
  all_goals simp
@[simp] theorem ringAccept_inaug (e : Entry) (d : Dev) : (ringAccept e d).inaug = d.inaug := by
  unfold ringAccept; try dsimp only
  repeat' split
  all_goals simp
@[simp] theorem ringAccept_fab (e : Entry) (d : Dev) : (ringAccept e d).fab = d.fab := by
  unfold ringAccept; try dsimp only
  repeat' split
  all_goals simp
@[simp] theorem ringAccept_ports (e : Entry) (d : Dev) : (ringAccept e d).ports = d.ports := by
  unfold ringAccept; try dsimp only
  repeat' split
  all_goals simp
@[simp] theorem ringAccept_time (e : Entry) (d : Dev) : (ringAccept e d).time = d.time := by
  unfold ringAccept; try dsimp only
  repeat' split
  all_goals simp
@[simp] theorem ringAccept_sched (e : Entry) (d : Dev) : (ringAccept e d).sched = d.sched := by
  unfold ringAccept; try dsimp only
  repeat' split
  all_goals simp
@[simp] theorem ringAccept_strm (e : Entry) (d : Dev) : (ringAccept e d).strm = d.strm := by
  unfold ringAccept; try dsimp only
  repeat' split
  all_goals simp
@[simp] theorem ringAccept_can (e : Entry) (d : Dev) : (ringAccept e d).can = d.can := by
  unfold ringAccept; try dsimp only
  repeat' split
  all_goals simp
@[simp] theorem ringAccept_gw (e : Entry) (d : Dev) : (ringAccept e d).gw = d.gw := by
  unfold ringAccept; try dsimp only
  repeat' split
  all_goals simp
@[simp] theorem ringAccept_chk (e : Entry) (d : Dev) : (ringAccept e d).chk = d.chk := by
  unfold ringAccept; try dsimp only
  repeat' split
  all_goals simp
@[simp] theorem ringAccept_sleep (e : Entry) (d : Dev) : (ringAccept e d).sleep = d.sleep := by
  unfold ringAccept; try dsimp only
  repeat' split
  all_goals simp
@[simp] theorem ringAccept_load (e : Entry) (d : Dev) : (ringAccept e d).load = d.load := by
  unfold ringAccept; try dsimp only
  repeat' split
  all_goals simp
@[simp] theorem ringAccept_host (e : Entry) (d : Dev) : (ringAccept e d).host = d.host := by
  unfold ringAccept; try dsimp only
  repeat' split
  all_goals simp
@[simp] theorem ringAccept_pow (e : Entry) (d : Dev) : (ringAccept e d).pow = d.pow := by
  unfold ringAccept; try dsimp only
  repeat' split
  all_goals simp
@[simp] theorem ringAccept_health (e : Entry) (d : Dev) : (ringAccept e d).health = d.health := by
  unfold ringAccept; try dsimp only
  repeat' split
  all_goals simp
@[simp] theorem ringAccept_sec (e : Entry) (d : Dev) : (ringAccept e d).sec = d.sec := by
  unfold ringAccept; try dsimp only
  repeat' split
  all_goals simp
@[simp] theorem ringAccept_pins (e : Entry) (d : Dev) : (ringAccept e d).pins = d.pins := by
  unfold ringAccept; try dsimp only
  repeat' split
  all_goals simp

@[simp] theorem holdingAccept_now (e : Entry) (d : Dev) : (holdingAccept e d).now = d.now := by
  unfold holdingAccept; try dsimp only
  repeat' split
  all_goals simp
@[simp] theorem holdingAccept_fresh (e : Entry) (d : Dev) : (holdingAccept e d).fresh = d.fresh := by
  unfold holdingAccept; try dsimp only
  repeat' split
  all_goals simp
@[simp] theorem holdingAccept_out (e : Entry) (d : Dev) : (holdingAccept e d).out = d.out := by
  unfold holdingAccept; try dsimp only
  repeat' split
  all_goals simp
@[simp] theorem holdingAccept_node (e : Entry) (d : Dev) : (holdingAccept e d).node = d.node := by
  unfold holdingAccept; try dsimp only
  repeat' split
  all_goals simp
@[simp] theorem holdingAccept_chip (e : Entry) (d : Dev) : (holdingAccept e d).chip = d.chip := by
  unfold holdingAccept; try dsimp only
  repeat' split
  all_goals simp
@[simp] theorem holdingAccept_inaug (e : Entry) (d : Dev) : (holdingAccept e d).inaug = d.inaug := by
  unfold holdingAccept; try dsimp only
  repeat' split
  all_goals simp
@[simp] theorem holdingAccept_fab (e : Entry) (d : Dev) : (holdingAccept e d).fab = d.fab := by
  unfold holdingAccept; try dsimp only
  repeat' split
  all_goals simp
@[simp] theorem holdingAccept_ports (e : Entry) (d : Dev) : (holdingAccept e d).ports = d.ports := by
  unfold holdingAccept; try dsimp only
  repeat' split
  all_goals simp
@[simp] theorem holdingAccept_time (e : Entry) (d : Dev) : (holdingAccept e d).time = d.time := by
  unfold holdingAccept; try dsimp only
  repeat' split
  all_goals simp
@[simp] theorem holdingAccept_sched (e : Entry) (d : Dev) : (holdingAccept e d).sched = d.sched := by
  unfold holdingAccept; try dsimp only
  repeat' split
  all_goals simp
@[simp] theorem holdingAccept_strm (e : Entry) (d : Dev) : (holdingAccept e d).strm = d.strm := by
  unfold holdingAccept; try dsimp only
  repeat' split
  all_goals simp
@[simp] theorem holdingAccept_can (e : Entry) (d : Dev) : (holdingAccept e d).can = d.can := by
  unfold holdingAccept; try dsimp only
  repeat' split
  all_goals simp
@[simp] theorem holdingAccept_gw (e : Entry) (d : Dev) : (holdingAccept e d).gw = d.gw := by
  unfold holdingAccept; try dsimp only
  repeat' split
  all_goals simp
@[simp] theorem holdingAccept_chk (e : Entry) (d : Dev) : (holdingAccept e d).chk = d.chk := by
  unfold holdingAccept; try dsimp only
  repeat' split
  all_goals simp
@[simp] theorem holdingAccept_sleep (e : Entry) (d : Dev) : (holdingAccept e d).sleep = d.sleep := by
  unfold holdingAccept; try dsimp only
  repeat' split
  all_goals simp
@[simp] theorem holdingAccept_load (e : Entry) (d : Dev) : (holdingAccept e d).load = d.load := by
  unfold holdingAccept; try dsimp only
  repeat' split
  all_goals simp
@[simp] theorem holdingAccept_host (e : Entry) (d : Dev) : (holdingAccept e d).host = d.host := by
  unfold holdingAccept; try dsimp only
  repeat' split
  all_goals simp
@[simp] theorem holdingAccept_pow (e : Entry) (d : Dev) : (holdingAccept e d).pow = d.pow := by
  unfold holdingAccept; try dsimp only
  repeat' split
  all_goals simp
@[simp] theorem holdingAccept_health (e : Entry) (d : Dev) : (holdingAccept e d).health = d.health := by
  unfold holdingAccept; try dsimp only
  repeat' split
  all_goals simp
@[simp] theorem holdingAccept_sec (e : Entry) (d : Dev) : (holdingAccept e d).sec = d.sec := by
  unfold holdingAccept; try dsimp only
  repeat' split
  all_goals simp
@[simp] theorem holdingAccept_pins (e : Entry) (d : Dev) : (holdingAccept e d).pins = d.pins := by
  unfold holdingAccept; try dsimp only
  repeat' split
  all_goals simp

@[simp] theorem startFlush_now (d : Dev) : (startFlush d).now = d.now := by
  unfold startFlush; try dsimp only
  repeat' split
  all_goals simp
@[simp] theorem startFlush_fresh (d : Dev) : (startFlush d).fresh = d.fresh := by
  unfold startFlush; try dsimp only
  repeat' split
  all_goals simp
@[simp] theorem startFlush_out (d : Dev) : (startFlush d).out = d.out := by
  unfold startFlush; try dsimp only
  repeat' split
  all_goals simp
@[simp] theorem startFlush_dict (d : Dev) : (startFlush d).dict = d.dict := by
  unfold startFlush; try dsimp only
  repeat' split
  all_goals simp
@[simp] theorem startFlush_node (d : Dev) : (startFlush d).node = d.node := by
  unfold startFlush; try dsimp only
  repeat' split
  all_goals simp
@[simp] theorem startFlush_chip (d : Dev) : (startFlush d).chip = d.chip := by
  unfold startFlush; try dsimp only
  repeat' split
  all_goals simp
@[simp] theorem startFlush_inaug (d : Dev) : (startFlush d).inaug = d.inaug := by
  unfold startFlush; try dsimp only
  repeat' split
  all_goals simp
@[simp] theorem startFlush_fab (d : Dev) : (startFlush d).fab = d.fab := by
  unfold startFlush; try dsimp only
  repeat' split
  all_goals simp
@[simp] theorem startFlush_ports (d : Dev) : (startFlush d).ports = d.ports := by
  unfold startFlush; try dsimp only
  repeat' split
  all_goals simp
@[simp] theorem startFlush_time (d : Dev) : (startFlush d).time = d.time := by
  unfold startFlush; try dsimp only
  repeat' split
  all_goals simp
@[simp] theorem startFlush_sched (d : Dev) : (startFlush d).sched = d.sched := by
  unfold startFlush; try dsimp only
  repeat' split
  all_goals simp
@[simp] theorem startFlush_strm (d : Dev) : (startFlush d).strm = d.strm := by
  unfold startFlush; try dsimp only
  repeat' split
  all_goals simp
@[simp] theorem startFlush_can (d : Dev) : (startFlush d).can = d.can := by
  unfold startFlush; try dsimp only
  repeat' split
  all_goals simp
@[simp] theorem startFlush_gw (d : Dev) : (startFlush d).gw = d.gw := by
  unfold startFlush; try dsimp only
  repeat' split
  all_goals simp
@[simp] theorem startFlush_chk (d : Dev) : (startFlush d).chk = d.chk := by
  unfold startFlush; try dsimp only
  repeat' split
  all_goals simp
@[simp] theorem startFlush_sleep (d : Dev) : (startFlush d).sleep = d.sleep := by
  unfold startFlush; try dsimp only
  repeat' split
  all_goals simp
@[simp] theorem startFlush_load (d : Dev) : (startFlush d).load = d.load := by
  unfold startFlush; try dsimp only
  repeat' split
  all_goals simp
@[simp] theorem startFlush_host (d : Dev) : (startFlush d).host = d.host := by
  unfold startFlush; try dsimp only
  repeat' split
  all_goals simp
@[simp] theorem startFlush_pow (d : Dev) : (startFlush d).pow = d.pow := by
  unfold startFlush; try dsimp only
  repeat' split
  all_goals simp
@[simp] theorem startFlush_health (d : Dev) : (startFlush d).health = d.health := by
  unfold startFlush; try dsimp only
  repeat' split
  all_goals simp
@[simp] theorem startFlush_sec (d : Dev) : (startFlush d).sec = d.sec := by
  unfold startFlush; try dsimp only
  repeat' split
  all_goals simp
@[simp] theorem startFlush_pins (d : Dev) : (startFlush d).pins = d.pins := by
  unfold startFlush; try dsimp only
  repeat' split
  all_goals simp

@[simp] theorem stageEntry_now (e : Entry) (d : Dev) : (stageEntry e d).now = d.now := by
  unfold stageEntry; try dsimp only
  repeat' split
  all_goals simp
@[simp] theorem stageEntry_fresh (e : Entry) (d : Dev) : (stageEntry e d).fresh = d.fresh := by
  unfold stageEntry; try dsimp only
  repeat' split
  all_goals simp
@[simp] theorem stageEntry_out (e : Entry) (d : Dev) : (stageEntry e d).out = d.out := by
  unfold stageEntry; try dsimp only
  repeat' split
  all_goals simp
@[simp] theorem stageEntry_node (e : Entry) (d : Dev) : (stageEntry e d).node = d.node := by
  unfold stageEntry; try dsimp only
  repeat' split
  all_goals simp
@[simp] theorem stageEntry_chip (e : Entry) (d : Dev) : (stageEntry e d).chip = d.chip := by
  unfold stageEntry; try dsimp only
  repeat' split
  all_goals simp
@[simp] theorem stageEntry_inaug (e : Entry) (d : Dev) : (stageEntry e d).inaug = d.inaug := by
  unfold stageEntry; try dsimp only
  repeat' split
  all_goals simp
@[simp] theorem stageEntry_fab (e : Entry) (d : Dev) : (stageEntry e d).fab = d.fab := by
  unfold stageEntry; try dsimp only
  repeat' split
  all_goals simp
@[simp] theorem stageEntry_ports (e : Entry) (d : Dev) : (stageEntry e d).ports = d.ports := by
  unfold stageEntry; try dsimp only
  repeat' split
  all_goals simp
@[simp] theorem stageEntry_time (e : Entry) (d : Dev) : (stageEntry e d).time = d.time := by
  unfold stageEntry; try dsimp only
  repeat' split
  all_goals simp
@[simp] theorem stageEntry_sched (e : Entry) (d : Dev) : (stageEntry e d).sched = d.sched := by
  unfold stageEntry; try dsimp only
  repeat' split
  all_goals simp
@[simp] theorem stageEntry_strm (e : Entry) (d : Dev) : (stageEntry e d).strm = d.strm := by
  unfold stageEntry; try dsimp only
  repeat' split
  all_goals simp
@[simp] theorem stageEntry_can (e : Entry) (d : Dev) : (stageEntry e d).can = d.can := by
  unfold stageEntry; try dsimp only
  repeat' split
  all_goals simp
@[simp] theorem stageEntry_gw (e : Entry) (d : Dev) : (stageEntry e d).gw = d.gw := by
  unfold stageEntry; try dsimp only
  repeat' split
  all_goals simp
@[simp] theorem stageEntry_chk (e : Entry) (d : Dev) : (stageEntry e d).chk = d.chk := by
  unfold stageEntry; try dsimp only
  repeat' split
  all_goals simp
@[simp] theorem stageEntry_sleep (e : Entry) (d : Dev) : (stageEntry e d).sleep = d.sleep := by
  unfold stageEntry; try dsimp only
  repeat' split
  all_goals simp
@[simp] theorem stageEntry_load (e : Entry) (d : Dev) : (stageEntry e d).load = d.load := by
  unfold stageEntry; try dsimp only
  repeat' split
  all_goals simp
@[simp] theorem stageEntry_host (e : Entry) (d : Dev) : (stageEntry e d).host = d.host := by
  unfold stageEntry; try dsimp only
  repeat' split
  all_goals simp
@[simp] theorem stageEntry_pow (e : Entry) (d : Dev) : (stageEntry e d).pow = d.pow := by
  unfold stageEntry; try dsimp only
  repeat' split
  all_goals simp
@[simp] theorem stageEntry_health (e : Entry) (d : Dev) : (stageEntry e d).health = d.health := by
  unfold stageEntry; try dsimp only
  repeat' split
  all_goals simp
@[simp] theorem stageEntry_sec (e : Entry) (d : Dev) : (stageEntry e d).sec = d.sec := by
  unfold stageEntry; try dsimp only
  repeat' split
  all_goals simp
@[simp] theorem stageEntry_pins (e : Entry) (d : Dev) : (stageEntry e d).pins = d.pins := by
  unfold stageEntry; try dsimp only
  repeat' split
  all_goals simp

theorem placeWith_now (copy : Entry → Dev → Dev) (e : Entry) (d : Dev) (h : ∀ e d, (copy e d).now = d.now) :
    (placeWith copy e d).now = d.now := by
  unfold placeWith; dsimp only
  repeat' split
  all_goals simp [h]

theorem placeWith_fresh (copy : Entry → Dev → Dev) (e : Entry) (d : Dev) (h : ∀ e d, (copy e d).fresh = d.fresh) :
    (placeWith copy e d).fresh = d.fresh := by
  unfold placeWith; dsimp only
  repeat' split
  all_goals simp [h]

theorem placeWith_node (copy : Entry → Dev → Dev) (e : Entry) (d : Dev) (h : ∀ e d, (copy e d).node = d.node) :
    (placeWith copy e d).node = d.node := by
  unfold placeWith; dsimp only
  repeat' split
  all_goals simp [h]

theorem placeWith_chip (copy : Entry → Dev → Dev) (e : Entry) (d : Dev) (h : ∀ e d, (copy e d).chip = d.chip) :
    (placeWith copy e d).chip = d.chip := by
  unfold placeWith; dsimp only
  repeat' split
  all_goals simp [h]

theorem placeWith_inaug (copy : Entry → Dev → Dev) (e : Entry) (d : Dev) (h : ∀ e d, (copy e d).inaug = d.inaug) :
    (placeWith copy e d).inaug = d.inaug := by
  unfold placeWith; dsimp only
  repeat' split
  all_goals simp [h]

theorem placeWith_fab (copy : Entry → Dev → Dev) (e : Entry) (d : Dev) (h : ∀ e d, (copy e d).fab = d.fab) :
    (placeWith copy e d).fab = d.fab := by
  unfold placeWith; dsimp only
  repeat' split
  all_goals simp [h]

theorem placeWith_ports (copy : Entry → Dev → Dev) (e : Entry) (d : Dev) (h : ∀ e d, (copy e d).ports = d.ports) :
    (placeWith copy e d).ports = d.ports := by
  unfold placeWith; dsimp only
  repeat' split
  all_goals simp [h]

theorem placeWith_time (copy : Entry → Dev → Dev) (e : Entry) (d : Dev) (h : ∀ e d, (copy e d).time = d.time) :
    (placeWith copy e d).time = d.time := by
  unfold placeWith; dsimp only
  repeat' split
  all_goals simp [h]

theorem placeWith_sched (copy : Entry → Dev → Dev) (e : Entry) (d : Dev) (h : ∀ e d, (copy e d).sched = d.sched) :
    (placeWith copy e d).sched = d.sched := by
  unfold placeWith; dsimp only
  repeat' split
  all_goals simp [h]

theorem placeWith_strm (copy : Entry → Dev → Dev) (e : Entry) (d : Dev) (h : ∀ e d, (copy e d).strm = d.strm) :
    (placeWith copy e d).strm = d.strm := by
  unfold placeWith; dsimp only
  repeat' split
  all_goals simp [h]

theorem placeWith_can (copy : Entry → Dev → Dev) (e : Entry) (d : Dev) (h : ∀ e d, (copy e d).can = d.can) :
    (placeWith copy e d).can = d.can := by
  unfold placeWith; dsimp only
  repeat' split
  all_goals simp [h]

theorem placeWith_gw (copy : Entry → Dev → Dev) (e : Entry) (d : Dev) (h : ∀ e d, (copy e d).gw = d.gw) :
    (placeWith copy e d).gw = d.gw := by
  unfold placeWith; dsimp only
  repeat' split
  all_goals simp [h]

theorem placeWith_chk (copy : Entry → Dev → Dev) (e : Entry) (d : Dev) (h : ∀ e d, (copy e d).chk = d.chk) :
    (placeWith copy e d).chk = d.chk := by
  unfold placeWith; dsimp only
  repeat' split
  all_goals simp [h]

theorem placeWith_sleep (copy : Entry → Dev → Dev) (e : Entry) (d : Dev) (h : ∀ e d, (copy e d).sleep = d.sleep) :
    (placeWith copy e d).sleep = d.sleep := by
  unfold placeWith; dsimp only
  repeat' split
  all_goals simp [h]

theorem placeWith_load (copy : Entry → Dev → Dev) (e : Entry) (d : Dev) (h : ∀ e d, (copy e d).load = d.load) :
    (placeWith copy e d).load = d.load := by
  unfold placeWith; dsimp only
  repeat' split
  all_goals simp [h]

theorem placeWith_pow (copy : Entry → Dev → Dev) (e : Entry) (d : Dev) (h : ∀ e d, (copy e d).pow = d.pow) :
    (placeWith copy e d).pow = d.pow := by
  unfold placeWith; dsimp only
  repeat' split
  all_goals simp [h]

theorem placeWith_sec (copy : Entry → Dev → Dev) (e : Entry) (d : Dev) (h : ∀ e d, (copy e d).sec = d.sec) :
    (placeWith copy e d).sec = d.sec := by
  unfold placeWith; dsimp only
  repeat' split
  all_goals simp [h]

theorem placeWith_pins (copy : Entry → Dev → Dev) (e : Entry) (d : Dev) (h : ∀ e d, (copy e d).pins = d.pins) :
    (placeWith copy e d).pins = d.pins := by
  unfold placeWith; dsimp only
  repeat' split
  all_goals simp [h]

@[simp] theorem placeEntry_now (e : Entry) (d : Dev) : (placeEntry e d).now = d.now := by
  unfold placeEntry; dsimp only
  split
  all_goals simp [placeWith_now]
@[simp] theorem placeEntry_fresh (e : Entry) (d : Dev) : (placeEntry e d).fresh = d.fresh := by
  unfold placeEntry; dsimp only
  split
  all_goals simp [placeWith_fresh]
@[simp] theorem placeEntry_node (e : Entry) (d : Dev) : (placeEntry e d).node = d.node := by
  unfold placeEntry; dsimp only
  split
  all_goals simp [placeWith_node]
@[simp] theorem placeEntry_chip (e : Entry) (d : Dev) : (placeEntry e d).chip = d.chip := by
  unfold placeEntry; dsimp only
  split
  all_goals simp [placeWith_chip]
@[simp] theorem placeEntry_inaug (e : Entry) (d : Dev) : (placeEntry e d).inaug = d.inaug := by
  unfold placeEntry; dsimp only
  split
  all_goals simp [placeWith_inaug]
@[simp] theorem placeEntry_fab (e : Entry) (d : Dev) : (placeEntry e d).fab = d.fab := by
  unfold placeEntry; dsimp only
  split
  all_goals simp [placeWith_fab]
@[simp] theorem placeEntry_ports (e : Entry) (d : Dev) : (placeEntry e d).ports = d.ports := by
  unfold placeEntry; dsimp only
  split
  all_goals simp [placeWith_ports]
@[simp] theorem placeEntry_time (e : Entry) (d : Dev) : (placeEntry e d).time = d.time := by
  unfold placeEntry; dsimp only
  split
  all_goals simp [placeWith_time]
@[simp] theorem placeEntry_sched (e : Entry) (d : Dev) : (placeEntry e d).sched = d.sched := by
  unfold placeEntry; dsimp only
  split
  all_goals simp [placeWith_sched]
@[simp] theorem placeEntry_strm (e : Entry) (d : Dev) : (placeEntry e d).strm = d.strm := by
  unfold placeEntry; dsimp only
  split
  all_goals simp [placeWith_strm]
@[simp] theorem placeEntry_can (e : Entry) (d : Dev) : (placeEntry e d).can = d.can := by
  unfold placeEntry; dsimp only
  split
  all_goals simp [placeWith_can]
@[simp] theorem placeEntry_gw (e : Entry) (d : Dev) : (placeEntry e d).gw = d.gw := by
  unfold placeEntry; dsimp only
  split
  all_goals simp [placeWith_gw]
@[simp] theorem placeEntry_chk (e : Entry) (d : Dev) : (placeEntry e d).chk = d.chk := by
  unfold placeEntry; dsimp only
  split
  all_goals simp [placeWith_chk]
@[simp] theorem placeEntry_sleep (e : Entry) (d : Dev) : (placeEntry e d).sleep = d.sleep := by
  unfold placeEntry; dsimp only
  split
  all_goals simp [placeWith_sleep]
@[simp] theorem placeEntry_load (e : Entry) (d : Dev) : (placeEntry e d).load = d.load := by
  unfold placeEntry; dsimp only
  split
  all_goals simp [placeWith_load]
@[simp] theorem placeEntry_pow (e : Entry) (d : Dev) : (placeEntry e d).pow = d.pow := by
  unfold placeEntry; dsimp only
  split
  all_goals simp [placeWith_pow]
@[simp] theorem placeEntry_sec (e : Entry) (d : Dev) : (placeEntry e d).sec = d.sec := by
  unfold placeEntry; dsimp only
  split
  all_goals simp [placeWith_sec]
@[simp] theorem placeEntry_pins (e : Entry) (d : Dev) : (placeEntry e d).pins = d.pins := by
  unfold placeEntry; dsimp only
  split
  all_goals simp [placeWith_pins]

@[simp] theorem earlyAccept_now (e : Entry) (d : Dev) : (earlyAccept e d).now = d.now := by
  unfold earlyAccept; try dsimp only
  repeat' split
  all_goals simp
@[simp] theorem earlyAccept_fresh (e : Entry) (d : Dev) : (earlyAccept e d).fresh = d.fresh := by
  unfold earlyAccept; try dsimp only
  repeat' split
  all_goals simp
@[simp] theorem earlyAccept_out (e : Entry) (d : Dev) : (earlyAccept e d).out = d.out := by
  unfold earlyAccept; try dsimp only
  repeat' split
  all_goals simp
@[simp] theorem earlyAccept_node (e : Entry) (d : Dev) : (earlyAccept e d).node = d.node := by
  unfold earlyAccept; try dsimp only
  repeat' split
  all_goals simp
@[simp] theorem earlyAccept_chip (e : Entry) (d : Dev) : (earlyAccept e d).chip = d.chip := by
  unfold earlyAccept; try dsimp only
  repeat' split
  all_goals simp
@[simp] theorem earlyAccept_inaug (e : Entry) (d : Dev) : (earlyAccept e d).inaug = d.inaug := by
  unfold earlyAccept; try dsimp only
  repeat' split
  all_goals simp
@[simp] theorem earlyAccept_fab (e : Entry) (d : Dev) : (earlyAccept e d).fab = d.fab := by
  unfold earlyAccept; try dsimp only
  repeat' split
  all_goals simp
@[simp] theorem earlyAccept_ports (e : Entry) (d : Dev) : (earlyAccept e d).ports = d.ports := by
  unfold earlyAccept; try dsimp only
  repeat' split
  all_goals simp
@[simp] theorem earlyAccept_time (e : Entry) (d : Dev) : (earlyAccept e d).time = d.time := by
  unfold earlyAccept; try dsimp only
  repeat' split
  all_goals simp
@[simp] theorem earlyAccept_sched (e : Entry) (d : Dev) : (earlyAccept e d).sched = d.sched := by
  unfold earlyAccept; try dsimp only
  repeat' split
  all_goals simp
@[simp] theorem earlyAccept_strm (e : Entry) (d : Dev) : (earlyAccept e d).strm = d.strm := by
  unfold earlyAccept; try dsimp only
  repeat' split
  all_goals simp
@[simp] theorem earlyAccept_can (e : Entry) (d : Dev) : (earlyAccept e d).can = d.can := by
  unfold earlyAccept; try dsimp only
  repeat' split
  all_goals simp
@[simp] theorem earlyAccept_gw (e : Entry) (d : Dev) : (earlyAccept e d).gw = d.gw := by
  unfold earlyAccept; try dsimp only
  repeat' split
  all_goals simp
@[simp] theorem earlyAccept_chk (e : Entry) (d : Dev) : (earlyAccept e d).chk = d.chk := by
  unfold earlyAccept; try dsimp only
  repeat' split
  all_goals simp
@[simp] theorem earlyAccept_sleep (e : Entry) (d : Dev) : (earlyAccept e d).sleep = d.sleep := by
  unfold earlyAccept; try dsimp only
  repeat' split
  all_goals simp
@[simp] theorem earlyAccept_load (e : Entry) (d : Dev) : (earlyAccept e d).load = d.load := by
  unfold earlyAccept; try dsimp only
  repeat' split
  all_goals simp
@[simp] theorem earlyAccept_host (e : Entry) (d : Dev) : (earlyAccept e d).host = d.host := by
  unfold earlyAccept; try dsimp only
  repeat' split
  all_goals simp
@[simp] theorem earlyAccept_pow (e : Entry) (d : Dev) : (earlyAccept e d).pow = d.pow := by
  unfold earlyAccept; try dsimp only
  repeat' split
  all_goals simp
@[simp] theorem earlyAccept_health (e : Entry) (d : Dev) : (earlyAccept e d).health = d.health := by
  unfold earlyAccept; try dsimp only
  repeat' split
  all_goals simp
@[simp] theorem earlyAccept_sec (e : Entry) (d : Dev) : (earlyAccept e d).sec = d.sec := by
  unfold earlyAccept; try dsimp only
  repeat' split
  all_goals simp
@[simp] theorem earlyAccept_pins (e : Entry) (d : Dev) : (earlyAccept e d).pins = d.pins := by
  unfold earlyAccept; try dsimp only
  repeat' split
  all_goals simp

@[simp] theorem recordEntry_now (e : Entry) (d : Dev) : (recordEntry e d).now = d.now := by
  unfold recordEntry; try dsimp only
  repeat' split
  all_goals simp
@[simp] theorem recordEntry_fresh (e : Entry) (d : Dev) : (recordEntry e d).fresh = d.fresh := by
  unfold recordEntry; try dsimp only
  repeat' split
  all_goals simp
@[simp] theorem recordEntry_node (e : Entry) (d : Dev) : (recordEntry e d).node = d.node := by
  unfold recordEntry; try dsimp only
  repeat' split
  all_goals simp
@[simp] theorem recordEntry_chip (e : Entry) (d : Dev) : (recordEntry e d).chip = d.chip := by
  unfold recordEntry; try dsimp only
  repeat' split
  all_goals simp
@[simp] theorem recordEntry_inaug (e : Entry) (d : Dev) : (recordEntry e d).inaug = d.inaug := by
  unfold recordEntry; try dsimp only
  repeat' split
  all_goals simp
@[simp] theorem recordEntry_fab (e : Entry) (d : Dev) : (recordEntry e d).fab = d.fab := by
  unfold recordEntry; try dsimp only
  repeat' split
  all_goals simp
@[simp] theorem recordEntry_ports (e : Entry) (d : Dev) : (recordEntry e d).ports = d.ports := by
  unfold recordEntry; try dsimp only
  repeat' split
  all_goals simp
@[simp] theorem recordEntry_time (e : Entry) (d : Dev) : (recordEntry e d).time = d.time := by
  unfold recordEntry; try dsimp only
  repeat' split
  all_goals simp
@[simp] theorem recordEntry_sched (e : Entry) (d : Dev) : (recordEntry e d).sched = d.sched := by
  unfold recordEntry; try dsimp only
  repeat' split
  all_goals simp
@[simp] theorem recordEntry_strm (e : Entry) (d : Dev) : (recordEntry e d).strm = d.strm := by
  unfold recordEntry; try dsimp only
  repeat' split
  all_goals simp
@[simp] theorem recordEntry_can (e : Entry) (d : Dev) : (recordEntry e d).can = d.can := by
  unfold recordEntry; try dsimp only
  repeat' split
  all_goals simp
@[simp] theorem recordEntry_gw (e : Entry) (d : Dev) : (recordEntry e d).gw = d.gw := by
  unfold recordEntry; try dsimp only
  repeat' split
  all_goals simp
@[simp] theorem recordEntry_chk (e : Entry) (d : Dev) : (recordEntry e d).chk = d.chk := by
  unfold recordEntry; try dsimp only
  repeat' split
  all_goals simp
@[simp] theorem recordEntry_sleep (e : Entry) (d : Dev) : (recordEntry e d).sleep = d.sleep := by
  unfold recordEntry; try dsimp only
  repeat' split
  all_goals simp
@[simp] theorem recordEntry_load (e : Entry) (d : Dev) : (recordEntry e d).load = d.load := by
  unfold recordEntry; try dsimp only
  repeat' split
  all_goals simp
@[simp] theorem recordEntry_pow (e : Entry) (d : Dev) : (recordEntry e d).pow = d.pow := by
  unfold recordEntry; try dsimp only
  repeat' split
  all_goals simp
@[simp] theorem recordEntry_sec (e : Entry) (d : Dev) : (recordEntry e d).sec = d.sec := by
  unfold recordEntry; try dsimp only
  repeat' split
  all_goals simp
@[simp] theorem recordEntry_pins (e : Entry) (d : Dev) : (recordEntry e d).pins = d.pins := by
  unfold recordEntry; try dsimp only
  repeat' split
  all_goals simp

@[simp] theorem raiseP_now (ev : Ev) (i : Nat) (p : List Byte) (d : Dev) : (raiseP ev i p d).now = d.now := by simp [raiseP]
@[simp] theorem raiseP_fresh (ev : Ev) (i : Nat) (p : List Byte) (d : Dev) : (raiseP ev i p d).fresh = d.fresh := by simp [raiseP]
@[simp] theorem raiseP_node (ev : Ev) (i : Nat) (p : List Byte) (d : Dev) : (raiseP ev i p d).node = d.node := by simp [raiseP]
@[simp] theorem raiseP_chip (ev : Ev) (i : Nat) (p : List Byte) (d : Dev) : (raiseP ev i p d).chip = d.chip := by simp [raiseP]
@[simp] theorem raiseP_inaug (ev : Ev) (i : Nat) (p : List Byte) (d : Dev) : (raiseP ev i p d).inaug = d.inaug := by simp [raiseP]
@[simp] theorem raiseP_fab (ev : Ev) (i : Nat) (p : List Byte) (d : Dev) : (raiseP ev i p d).fab = d.fab := by simp [raiseP]
@[simp] theorem raiseP_ports (ev : Ev) (i : Nat) (p : List Byte) (d : Dev) : (raiseP ev i p d).ports = d.ports := by simp [raiseP]
@[simp] theorem raiseP_time (ev : Ev) (i : Nat) (p : List Byte) (d : Dev) : (raiseP ev i p d).time = d.time := by simp [raiseP]
@[simp] theorem raiseP_sched (ev : Ev) (i : Nat) (p : List Byte) (d : Dev) : (raiseP ev i p d).sched = d.sched := by simp [raiseP]
@[simp] theorem raiseP_strm (ev : Ev) (i : Nat) (p : List Byte) (d : Dev) : (raiseP ev i p d).strm = d.strm := by simp [raiseP]
@[simp] theorem raiseP_can (ev : Ev) (i : Nat) (p : List Byte) (d : Dev) : (raiseP ev i p d).can = d.can := by simp [raiseP]
@[simp] theorem raiseP_gw (ev : Ev) (i : Nat) (p : List Byte) (d : Dev) : (raiseP ev i p d).gw = d.gw := by simp [raiseP]
@[simp] theorem raiseP_chk (ev : Ev) (i : Nat) (p : List Byte) (d : Dev) : (raiseP ev i p d).chk = d.chk := by simp [raiseP]
@[simp] theorem raiseP_sleep (ev : Ev) (i : Nat) (p : List Byte) (d : Dev) : (raiseP ev i p d).sleep = d.sleep := by simp [raiseP]
@[simp] theorem raiseP_load (ev : Ev) (i : Nat) (p : List Byte) (d : Dev) : (raiseP ev i p d).load = d.load := by simp [raiseP]
@[simp] theorem raiseP_pow (ev : Ev) (i : Nat) (p : List Byte) (d : Dev) : (raiseP ev i p d).pow = d.pow := by simp [raiseP]
@[simp] theorem raiseP_sec (ev : Ev) (i : Nat) (p : List Byte) (d : Dev) : (raiseP ev i p d).sec = d.sec := by simp [raiseP]
@[simp] theorem raiseP_pins (ev : Ev) (i : Nat) (p : List Byte) (d : Dev) : (raiseP ev i p d).pins = d.pins := by simp [raiseP]

@[simp] theorem raise_now (ev : Ev) (i : Nat) (d : Dev) : (raise ev i d).now = d.now := by simp [raise]
@[simp] theorem raise_fresh (ev : Ev) (i : Nat) (d : Dev) : (raise ev i d).fresh = d.fresh := by simp [raise]
@[simp] theorem raise_node (ev : Ev) (i : Nat) (d : Dev) : (raise ev i d).node = d.node := by simp [raise]
@[simp] theorem raise_chip (ev : Ev) (i : Nat) (d : Dev) : (raise ev i d).chip = d.chip := by simp [raise]
@[simp] theorem raise_inaug (ev : Ev) (i : Nat) (d : Dev) : (raise ev i d).inaug = d.inaug := by simp [raise]
@[simp] theorem raise_fab (ev : Ev) (i : Nat) (d : Dev) : (raise ev i d).fab = d.fab := by simp [raise]
@[simp] theorem raise_ports (ev : Ev) (i : Nat) (d : Dev) : (raise ev i d).ports = d.ports := by simp [raise]
@[simp] theorem raise_time (ev : Ev) (i : Nat) (d : Dev) : (raise ev i d).time = d.time := by simp [raise]
@[simp] theorem raise_sched (ev : Ev) (i : Nat) (d : Dev) : (raise ev i d).sched = d.sched := by simp [raise]
@[simp] theorem raise_strm (ev : Ev) (i : Nat) (d : Dev) : (raise ev i d).strm = d.strm := by simp [raise]
@[simp] theorem raise_can (ev : Ev) (i : Nat) (d : Dev) : (raise ev i d).can = d.can := by simp [raise]
@[simp] theorem raise_gw (ev : Ev) (i : Nat) (d : Dev) : (raise ev i d).gw = d.gw := by simp [raise]
@[simp] theorem raise_chk (ev : Ev) (i : Nat) (d : Dev) : (raise ev i d).chk = d.chk := by simp [raise]
@[simp] theorem raise_sleep (ev : Ev) (i : Nat) (d : Dev) : (raise ev i d).sleep = d.sleep := by simp [raise]
@[simp] theorem raise_load (ev : Ev) (i : Nat) (d : Dev) : (raise ev i d).load = d.load := by simp [raise]
@[simp] theorem raise_pow (ev : Ev) (i : Nat) (d : Dev) : (raise ev i d).pow = d.pow := by simp [raise]
@[simp] theorem raise_sec (ev : Ev) (i : Nat) (d : Dev) : (raise ev i d).sec = d.sec := by simp [raise]
@[simp] theorem raise_pins (ev : Ev) (i : Nat) (d : Dev) : (raise ev i d).pins = d.pins := by simp [raise]

@[simp] theorem onPort_now (p : Port) (f : PortS → PortS) (d : Dev) : (onPort p f d).now = d.now := rfl
@[simp] theorem onPort_fresh (p : Port) (f : PortS → PortS) (d : Dev) : (onPort p f d).fresh = d.fresh := rfl
@[simp] theorem onPort_out (p : Port) (f : PortS → PortS) (d : Dev) : (onPort p f d).out = d.out := rfl
@[simp] theorem onPort_dict (p : Port) (f : PortS → PortS) (d : Dev) : (onPort p f d).dict = d.dict := rfl
@[simp] theorem onPort_node (p : Port) (f : PortS → PortS) (d : Dev) : (onPort p f d).node = d.node := rfl
@[simp] theorem onPort_chip (p : Port) (f : PortS → PortS) (d : Dev) : (onPort p f d).chip = d.chip := rfl
@[simp] theorem onPort_inaug (p : Port) (f : PortS → PortS) (d : Dev) : (onPort p f d).inaug = d.inaug := rfl
@[simp] theorem onPort_fab (p : Port) (f : PortS → PortS) (d : Dev) : (onPort p f d).fab = d.fab := rfl
@[simp] theorem onPort_time (p : Port) (f : PortS → PortS) (d : Dev) : (onPort p f d).time = d.time := rfl
@[simp] theorem onPort_sched (p : Port) (f : PortS → PortS) (d : Dev) : (onPort p f d).sched = d.sched := rfl
@[simp] theorem onPort_strm (p : Port) (f : PortS → PortS) (d : Dev) : (onPort p f d).strm = d.strm := rfl
@[simp] theorem onPort_can (p : Port) (f : PortS → PortS) (d : Dev) : (onPort p f d).can = d.can := rfl
@[simp] theorem onPort_gw (p : Port) (f : PortS → PortS) (d : Dev) : (onPort p f d).gw = d.gw := rfl
@[simp] theorem onPort_chk (p : Port) (f : PortS → PortS) (d : Dev) : (onPort p f d).chk = d.chk := rfl
@[simp] theorem onPort_recd (p : Port) (f : PortS → PortS) (d : Dev) : (onPort p f d).recd = d.recd := rfl
@[simp] theorem onPort_sleep (p : Port) (f : PortS → PortS) (d : Dev) : (onPort p f d).sleep = d.sleep := rfl
@[simp] theorem onPort_load (p : Port) (f : PortS → PortS) (d : Dev) : (onPort p f d).load = d.load := rfl
@[simp] theorem onPort_host (p : Port) (f : PortS → PortS) (d : Dev) : (onPort p f d).host = d.host := rfl
@[simp] theorem onPort_pow (p : Port) (f : PortS → PortS) (d : Dev) : (onPort p f d).pow = d.pow := rfl
@[simp] theorem onPort_health (p : Port) (f : PortS → PortS) (d : Dev) : (onPort p f d).health = d.health := rfl
@[simp] theorem onPort_sec (p : Port) (f : PortS → PortS) (d : Dev) : (onPort p f d).sec = d.sec := rfl
@[simp] theorem onPort_pins (p : Port) (f : PortS → PortS) (d : Dev) : (onPort p f d).pins = d.pins := rfl

@[simp] theorem onPortTime_now (p : Port) (f : PortTime → PortTime) (d : Dev) : (onPortTime p f d).now = d.now := rfl
@[simp] theorem onPortTime_fresh (p : Port) (f : PortTime → PortTime) (d : Dev) : (onPortTime p f d).fresh = d.fresh := rfl
@[simp] theorem onPortTime_out (p : Port) (f : PortTime → PortTime) (d : Dev) : (onPortTime p f d).out = d.out := rfl
@[simp] theorem onPortTime_dict (p : Port) (f : PortTime → PortTime) (d : Dev) : (onPortTime p f d).dict = d.dict := rfl
@[simp] theorem onPortTime_node (p : Port) (f : PortTime → PortTime) (d : Dev) : (onPortTime p f d).node = d.node := rfl
@[simp] theorem onPortTime_chip (p : Port) (f : PortTime → PortTime) (d : Dev) : (onPortTime p f d).chip = d.chip := rfl
@[simp] theorem onPortTime_inaug (p : Port) (f : PortTime → PortTime) (d : Dev) : (onPortTime p f d).inaug = d.inaug := rfl
@[simp] theorem onPortTime_fab (p : Port) (f : PortTime → PortTime) (d : Dev) : (onPortTime p f d).fab = d.fab := rfl
@[simp] theorem onPortTime_ports (p : Port) (f : PortTime → PortTime) (d : Dev) : (onPortTime p f d).ports = d.ports := rfl
@[simp] theorem onPortTime_sched (p : Port) (f : PortTime → PortTime) (d : Dev) : (onPortTime p f d).sched = d.sched := rfl
@[simp] theorem onPortTime_strm (p : Port) (f : PortTime → PortTime) (d : Dev) : (onPortTime p f d).strm = d.strm := rfl
@[simp] theorem onPortTime_can (p : Port) (f : PortTime → PortTime) (d : Dev) : (onPortTime p f d).can = d.can := rfl
@[simp] theorem onPortTime_gw (p : Port) (f : PortTime → PortTime) (d : Dev) : (onPortTime p f d).gw = d.gw := rfl
@[simp] theorem onPortTime_chk (p : Port) (f : PortTime → PortTime) (d : Dev) : (onPortTime p f d).chk = d.chk := rfl
@[simp] theorem onPortTime_recd (p : Port) (f : PortTime → PortTime) (d : Dev) : (onPortTime p f d).recd = d.recd := rfl
@[simp] theorem onPortTime_sleep (p : Port) (f : PortTime → PortTime) (d : Dev) : (onPortTime p f d).sleep = d.sleep := rfl
@[simp] theorem onPortTime_load (p : Port) (f : PortTime → PortTime) (d : Dev) : (onPortTime p f d).load = d.load := rfl
@[simp] theorem onPortTime_host (p : Port) (f : PortTime → PortTime) (d : Dev) : (onPortTime p f d).host = d.host := rfl
@[simp] theorem onPortTime_pow (p : Port) (f : PortTime → PortTime) (d : Dev) : (onPortTime p f d).pow = d.pow := rfl
@[simp] theorem onPortTime_health (p : Port) (f : PortTime → PortTime) (d : Dev) : (onPortTime p f d).health = d.health := rfl
@[simp] theorem onPortTime_sec (p : Port) (f : PortTime → PortTime) (d : Dev) : (onPortTime p f d).sec = d.sec := rfl
@[simp] theorem onPortTime_pins (p : Port) (f : PortTime → PortTime) (d : Dev) : (onPortTime p f d).pins = d.pins := rfl

@[simp] theorem setRate_now (r : Int) (d : Dev) : (setRate r d).now = d.now := rfl
@[simp] theorem setRate_fresh (r : Int) (d : Dev) : (setRate r d).fresh = d.fresh := rfl
@[simp] theorem setRate_out (r : Int) (d : Dev) : (setRate r d).out = d.out := rfl
@[simp] theorem setRate_dict (r : Int) (d : Dev) : (setRate r d).dict = d.dict := rfl
@[simp] theorem setRate_node (r : Int) (d : Dev) : (setRate r d).node = d.node := rfl
@[simp] theorem setRate_chip (r : Int) (d : Dev) : (setRate r d).chip = d.chip := rfl
@[simp] theorem setRate_inaug (r : Int) (d : Dev) : (setRate r d).inaug = d.inaug := rfl
@[simp] theorem setRate_fab (r : Int) (d : Dev) : (setRate r d).fab = d.fab := rfl
@[simp] theorem setRate_ports (r : Int) (d : Dev) : (setRate r d).ports = d.ports := rfl
@[simp] theorem setRate_sched (r : Int) (d : Dev) : (setRate r d).sched = d.sched := rfl
@[simp] theorem setRate_strm (r : Int) (d : Dev) : (setRate r d).strm = d.strm := rfl
@[simp] theorem setRate_can (r : Int) (d : Dev) : (setRate r d).can = d.can := rfl
@[simp] theorem setRate_gw (r : Int) (d : Dev) : (setRate r d).gw = d.gw := rfl
@[simp] theorem setRate_chk (r : Int) (d : Dev) : (setRate r d).chk = d.chk := rfl
@[simp] theorem setRate_recd (r : Int) (d : Dev) : (setRate r d).recd = d.recd := rfl
@[simp] theorem setRate_sleep (r : Int) (d : Dev) : (setRate r d).sleep = d.sleep := rfl
@[simp] theorem setRate_load (r : Int) (d : Dev) : (setRate r d).load = d.load := rfl
@[simp] theorem setRate_host (r : Int) (d : Dev) : (setRate r d).host = d.host := rfl
@[simp] theorem setRate_pow (r : Int) (d : Dev) : (setRate r d).pow = d.pow := rfl
@[simp] theorem setRate_health (r : Int) (d : Dev) : (setRate r d).health = d.health := rfl
@[simp] theorem setRate_sec (r : Int) (d : Dev) : (setRate r d).sec = d.sec := rfl
@[simp] theorem setRate_pins (r : Int) (d : Dev) : (setRate r d).pins = d.pins := rfl

@[simp] theorem servoRate_now (d : Dev) : (servoRate d).now = d.now := by simp [servoRate]
@[simp] theorem servoRate_out (d : Dev) : (servoRate d).out = d.out := by simp [servoRate]
@[simp] theorem servoRate_dict (d : Dev) : (servoRate d).dict = d.dict := by simp [servoRate]
@[simp] theorem servoRate_node (d : Dev) : (servoRate d).node = d.node := by simp [servoRate]
@[simp] theorem servoRate_chip (d : Dev) : (servoRate d).chip = d.chip := by simp [servoRate]
@[simp] theorem servoRate_inaug (d : Dev) : (servoRate d).inaug = d.inaug := by simp [servoRate]
@[simp] theorem servoRate_fab (d : Dev) : (servoRate d).fab = d.fab := by simp [servoRate]
@[simp] theorem servoRate_ports (d : Dev) : (servoRate d).ports = d.ports := by simp [servoRate]
@[simp] theorem servoRate_sched (d : Dev) : (servoRate d).sched = d.sched := by simp [servoRate]
@[simp] theorem servoRate_strm (d : Dev) : (servoRate d).strm = d.strm := by simp [servoRate]
@[simp] theorem servoRate_can (d : Dev) : (servoRate d).can = d.can := by simp [servoRate]
@[simp] theorem servoRate_gw (d : Dev) : (servoRate d).gw = d.gw := by simp [servoRate]
@[simp] theorem servoRate_chk (d : Dev) : (servoRate d).chk = d.chk := by simp [servoRate]
@[simp] theorem servoRate_recd (d : Dev) : (servoRate d).recd = d.recd := by simp [servoRate]
@[simp] theorem servoRate_sleep (d : Dev) : (servoRate d).sleep = d.sleep := by simp [servoRate]
@[simp] theorem servoRate_load (d : Dev) : (servoRate d).load = d.load := by simp [servoRate]
@[simp] theorem servoRate_host (d : Dev) : (servoRate d).host = d.host := by simp [servoRate]
@[simp] theorem servoRate_pow (d : Dev) : (servoRate d).pow = d.pow := by simp [servoRate]
@[simp] theorem servoRate_health (d : Dev) : (servoRate d).health = d.health := by simp [servoRate]
@[simp] theorem servoRate_sec (d : Dev) : (servoRate d).sec = d.sec := by simp [servoRate]
@[simp] theorem servoRate_pins (d : Dev) : (servoRate d).pins = d.pins := by simp [servoRate]

@[simp] theorem setTimeState_now (st : TimeState) (d : Dev) : (setTimeState st d).now = d.now := by
  unfold setTimeState; try dsimp only
  repeat' split
  all_goals simp
@[simp] theorem setTimeState_fresh (st : TimeState) (d : Dev) : (setTimeState st d).fresh = d.fresh := by
  unfold setTimeState; try dsimp only
  repeat' split
  all_goals simp
@[simp] theorem setTimeState_dict (st : TimeState) (d : Dev) : (setTimeState st d).dict = d.dict := by
  unfold setTimeState; try dsimp only
  repeat' split
  all_goals simp
@[simp] theorem setTimeState_node (st : TimeState) (d : Dev) : (setTimeState st d).node = d.node := by
  unfold setTimeState; try dsimp only
  repeat' split
  all_goals simp
@[simp] theorem setTimeState_chip (st : TimeState) (d : Dev) : (setTimeState st d).chip = d.chip := by
  unfold setTimeState; try dsimp only
  repeat' split
  all_goals simp
@[simp] theorem setTimeState_inaug (st : TimeState) (d : Dev) : (setTimeState st d).inaug = d.inaug := by
  unfold setTimeState; try dsimp only
  repeat' split
  all_goals simp
@[simp] theorem setTimeState_fab (st : TimeState) (d : Dev) : (setTimeState st d).fab = d.fab := by
  unfold setTimeState; try dsimp only
  repeat' split
  all_goals simp
@[simp] theorem setTimeState_ports (st : TimeState) (d : Dev) : (setTimeState st d).ports = d.ports := by
  unfold setTimeState; try dsimp only
  repeat' split
  all_goals simp
@[simp] theorem setTimeState_sched (st : TimeState) (d : Dev) : (setTimeState st d).sched = d.sched := by
  unfold setTimeState; try dsimp only
  repeat' split
  all_goals simp
@[simp] theorem setTimeState_strm (st : TimeState) (d : Dev) : (setTimeState st d).strm = d.strm := by
  unfold setTimeState; try dsimp only
  repeat' split
  all_goals simp
@[simp] theorem setTimeState_can (st : TimeState) (d : Dev) : (setTimeState st d).can = d.can := by
  unfold setTimeState; try dsimp only
  repeat' split
  all_goals simp
@[simp] theorem setTimeState_gw (st : TimeState) (d : Dev) : (setTimeState st d).gw = d.gw := by
  unfold setTimeState; try dsimp only
  repeat' split
  all_goals simp
@[simp] theorem setTimeState_chk (st : TimeState) (d : Dev) : (setTimeState st d).chk = d.chk := by
  unfold setTimeState; try dsimp only
  repeat' split
  all_goals simp
@[simp] theorem setTimeState_recd (st : TimeState) (d : Dev) : (setTimeState st d).recd = d.recd := by
  unfold setTimeState; try dsimp only
  repeat' split
  all_goals simp
@[simp] theorem setTimeState_sleep (st : TimeState) (d : Dev) : (setTimeState st d).sleep = d.sleep := by
  unfold setTimeState; try dsimp only
  repeat' split
  all_goals simp
@[simp] theorem setTimeState_load (st : TimeState) (d : Dev) : (setTimeState st d).load = d.load := by
  unfold setTimeState; try dsimp only
  repeat' split
  all_goals simp
@[simp] theorem setTimeState_pow (st : TimeState) (d : Dev) : (setTimeState st d).pow = d.pow := by
  unfold setTimeState; try dsimp only
  repeat' split
  all_goals simp
@[simp] theorem setTimeState_health (st : TimeState) (d : Dev) : (setTimeState st d).health = d.health := by
  unfold setTimeState; try dsimp only
  repeat' split
  all_goals simp
@[simp] theorem setTimeState_sec (st : TimeState) (d : Dev) : (setTimeState st d).sec = d.sec := by
  unfold setTimeState; try dsimp only
  repeat' split
  all_goals simp
@[simp] theorem setTimeState_pins (st : TimeState) (d : Dev) : (setTimeState st d).pins = d.pins := by
  unfold setTimeState; try dsimp only
  repeat' split
  all_goals simp

@[simp] theorem tevtAfterStep_now (d : Dev) : (tevtAfterStep d).now = d.now := by
  unfold tevtAfterStep; try dsimp only
  repeat' split
  all_goals simp
@[simp] theorem tevtAfterStep_fresh (d : Dev) : (tevtAfterStep d).fresh = d.fresh := by
  unfold tevtAfterStep; try dsimp only
  repeat' split
  all_goals simp
@[simp] theorem tevtAfterStep_out (d : Dev) : (tevtAfterStep d).out = d.out := by
  unfold tevtAfterStep; try dsimp only
  repeat' split
  all_goals simp
@[simp] theorem tevtAfterStep_node (d : Dev) : (tevtAfterStep d).node = d.node := by
  unfold tevtAfterStep; try dsimp only
  repeat' split
  all_goals simp
@[simp] theorem tevtAfterStep_chip (d : Dev) : (tevtAfterStep d).chip = d.chip := by
  unfold tevtAfterStep; try dsimp only
  repeat' split
  all_goals simp
@[simp] theorem tevtAfterStep_inaug (d : Dev) : (tevtAfterStep d).inaug = d.inaug := by
  unfold tevtAfterStep; try dsimp only
  repeat' split
  all_goals simp
@[simp] theorem tevtAfterStep_fab (d : Dev) : (tevtAfterStep d).fab = d.fab := by
  unfold tevtAfterStep; try dsimp only
  repeat' split
  all_goals simp
@[simp] theorem tevtAfterStep_ports (d : Dev) : (tevtAfterStep d).ports = d.ports := by
  unfold tevtAfterStep; try dsimp only
  repeat' split
  all_goals simp
@[simp] theorem tevtAfterStep_sched (d : Dev) : (tevtAfterStep d).sched = d.sched := by
  unfold tevtAfterStep; try dsimp only
  repeat' split
  all_goals simp
@[simp] theorem tevtAfterStep_strm (d : Dev) : (tevtAfterStep d).strm = d.strm := by
  unfold tevtAfterStep; try dsimp only
  repeat' split
  all_goals simp
@[simp] theorem tevtAfterStep_can (d : Dev) : (tevtAfterStep d).can = d.can := by
  unfold tevtAfterStep; try dsimp only
  repeat' split
  all_goals simp
@[simp] theorem tevtAfterStep_gw (d : Dev) : (tevtAfterStep d).gw = d.gw := by
  unfold tevtAfterStep; try dsimp only
  repeat' split
  all_goals simp
@[simp] theorem tevtAfterStep_chk (d : Dev) : (tevtAfterStep d).chk = d.chk := by
  unfold tevtAfterStep; try dsimp only
  repeat' split
  all_goals simp
@[simp] theorem tevtAfterStep_recd (d : Dev) : (tevtAfterStep d).recd = d.recd := by
  unfold tevtAfterStep; try dsimp only
  repeat' split
  all_goals simp
@[simp] theorem tevtAfterStep_sleep (d : Dev) : (tevtAfterStep d).sleep = d.sleep := by
  unfold tevtAfterStep; try dsimp only
  repeat' split
  all_goals simp
@[simp] theorem tevtAfterStep_load (d : Dev) : (tevtAfterStep d).load = d.load := by
  unfold tevtAfterStep; try dsimp only
  repeat' split
  all_goals simp
@[simp] theorem tevtAfterStep_host (d : Dev) : (tevtAfterStep d).host = d.host := by
  unfold tevtAfterStep; try dsimp only
  repeat' split
  all_goals simp
@[simp] theorem tevtAfterStep_pow (d : Dev) : (tevtAfterStep d).pow = d.pow := by
  unfold tevtAfterStep; try dsimp only
  repeat' split
  all_goals simp
@[simp] theorem tevtAfterStep_health (d : Dev) : (tevtAfterStep d).health = d.health := by
  unfold tevtAfterStep; try dsimp only
  repeat' split
  all_goals simp
@[simp] theorem tevtAfterStep_sec (d : Dev) : (tevtAfterStep d).sec = d.sec := by
  unfold tevtAfterStep; try dsimp only
  repeat' split
  all_goals simp
@[simp] theorem tevtAfterStep_pins (d : Dev) : (tevtAfterStep d).pins = d.pins := by
  unfold tevtAfterStep; try dsimp only
  repeat' split
  all_goals simp

@[simp] theorem streamsStep_now (a : Int) (d : Dev) : (streamsStep a d).now = d.now := by
  unfold streamsStep; try dsimp only
  repeat' split
  all_goals simp
@[simp] theorem streamsStep_fresh (a : Int) (d : Dev) : (streamsStep a d).fresh = d.fresh := by
  unfold streamsStep; try dsimp only
  repeat' split
  all_goals simp
@[simp] theorem streamsStep_out (a : Int) (d : Dev) : (streamsStep a d).out = d.out := by
  unfold streamsStep; try dsimp only
  repeat' split
  all_goals simp
@[simp] theorem streamsStep_node (a : Int) (d : Dev) : (streamsStep a d).node = d.node := by
  unfold streamsStep; try dsimp only
  repeat' split
  all_goals simp
@[simp] theorem streamsStep_chip (a : Int) (d : Dev) : (streamsStep a d).chip = d.chip := by
  unfold streamsStep; try dsimp only
  repeat' split
  all_goals simp
@[simp] theorem streamsStep_inaug (a : Int) (d : Dev) : (streamsStep a d).inaug = d.inaug := by
  unfold streamsStep; try dsimp only
  repeat' split
  all_goals simp
@[simp] theorem streamsStep_fab (a : Int) (d : Dev) : (streamsStep a d).fab = d.fab := by
  unfold streamsStep; try dsimp only
  repeat' split
  all_goals simp
@[simp] theorem streamsStep_ports (a : Int) (d : Dev) : (streamsStep a d).ports = d.ports := by
  unfold streamsStep; try dsimp only
  repeat' split
  all_goals simp
@[simp] theorem streamsStep_time (a : Int) (d : Dev) : (streamsStep a d).time = d.time := by
  unfold streamsStep; try dsimp only
  repeat' split
  all_goals simp
@[simp] theorem streamsStep_sched (a : Int) (d : Dev) : (streamsStep a d).sched = d.sched := by
  unfold streamsStep; try dsimp only
  repeat' split
  all_goals simp
@[simp] theorem streamsStep_can (a : Int) (d : Dev) : (streamsStep a d).can = d.can := by
  unfold streamsStep; try dsimp only
  repeat' split
  all_goals simp
@[simp] theorem streamsStep_gw (a : Int) (d : Dev) : (streamsStep a d).gw = d.gw := by
  unfold streamsStep; try dsimp only
  repeat' split
  all_goals simp
@[simp] theorem streamsStep_chk (a : Int) (d : Dev) : (streamsStep a d).chk = d.chk := by
  unfold streamsStep; try dsimp only
  repeat' split
  all_goals simp
@[simp] theorem streamsStep_recd (a : Int) (d : Dev) : (streamsStep a d).recd = d.recd := by
  unfold streamsStep; try dsimp only
  repeat' split
  all_goals simp
@[simp] theorem streamsStep_sleep (a : Int) (d : Dev) : (streamsStep a d).sleep = d.sleep := by
  unfold streamsStep; try dsimp only
  repeat' split
  all_goals simp
@[simp] theorem streamsStep_load (a : Int) (d : Dev) : (streamsStep a d).load = d.load := by
  unfold streamsStep; try dsimp only
  repeat' split
  all_goals simp
@[simp] theorem streamsStep_host (a : Int) (d : Dev) : (streamsStep a d).host = d.host := by
  unfold streamsStep; try dsimp only
  repeat' split
  all_goals simp
@[simp] theorem streamsStep_pow (a : Int) (d : Dev) : (streamsStep a d).pow = d.pow := by
  unfold streamsStep; try dsimp only
  repeat' split
  all_goals simp
@[simp] theorem streamsStep_health (a : Int) (d : Dev) : (streamsStep a d).health = d.health := by
  unfold streamsStep; try dsimp only
  repeat' split
  all_goals simp
@[simp] theorem streamsStep_sec (a : Int) (d : Dev) : (streamsStep a d).sec = d.sec := by
  unfold streamsStep; try dsimp only
  repeat' split
  all_goals simp
@[simp] theorem streamsStep_pins (a : Int) (d : Dev) : (streamsStep a d).pins = d.pins := by
  unfold streamsStep; try dsimp only
  repeat' split
  all_goals simp

@[simp] theorem stepTime_now (a : Int) (d : Dev) : (stepTime a d).now = d.now := by
  unfold stepTime; try dsimp only
  repeat' split
  all_goals simp
@[simp] theorem stepTime_fresh (a : Int) (d : Dev) : (stepTime a d).fresh = d.fresh := by
  unfold stepTime; try dsimp only
  repeat' split
  all_goals simp
@[simp] theorem stepTime_node (a : Int) (d : Dev) : (stepTime a d).node = d.node := by
  unfold stepTime; try dsimp only
  repeat' split
  all_goals simp
@[simp] theorem stepTime_chip (a : Int) (d : Dev) : (stepTime a d).chip = d.chip := by
  unfold stepTime; try dsimp only
  repeat' split
  all_goals simp
@[simp] theorem stepTime_inaug (a : Int) (d : Dev) : (stepTime a d).inaug = d.inaug := by
  unfold stepTime; try dsimp only
  repeat' split
  all_goals simp
@[simp] theorem stepTime_fab (a : Int) (d : Dev) : (stepTime a d).fab = d.fab := by
  unfold stepTime; try dsimp only
  repeat' split
  all_goals simp
@[simp] theorem stepTime_ports (a : Int) (d : Dev) : (stepTime a d).ports = d.ports := by
  unfold stepTime; try dsimp only
  repeat' split
  all_goals simp
@[simp] theorem stepTime_can (a : Int) (d : Dev) : (stepTime a d).can = d.can := by
  unfold stepTime; try dsimp only
  repeat' split
  all_goals simp
@[simp] theorem stepTime_gw (a : Int) (d : Dev) : (stepTime a d).gw = d.gw := by
  unfold stepTime; try dsimp only
  repeat' split
  all_goals simp
@[simp] theorem stepTime_chk (a : Int) (d : Dev) : (stepTime a d).chk = d.chk := by
  unfold stepTime; try dsimp only
  repeat' split
  all_goals simp
@[simp] theorem stepTime_sleep (a : Int) (d : Dev) : (stepTime a d).sleep = d.sleep := by
  unfold stepTime; try dsimp only
  repeat' split
  all_goals simp
@[simp] theorem stepTime_load (a : Int) (d : Dev) : (stepTime a d).load = d.load := by
  unfold stepTime; try dsimp only
  repeat' split
  all_goals simp
@[simp] theorem stepTime_pow (a : Int) (d : Dev) : (stepTime a d).pow = d.pow := by
  unfold stepTime; try dsimp only
  repeat' split
  all_goals simp
@[simp] theorem stepTime_sec (a : Int) (d : Dev) : (stepTime a d).sec = d.sec := by
  unfold stepTime; try dsimp only
  repeat' split
  all_goals simp
@[simp] theorem stepTime_pins (a : Int) (d : Dev) : (stepTime a d).pins = d.pins := by
  unfold stepTime; try dsimp only
  repeat' split
  all_goals simp

end Sys2Proof.Machine
end

