-- ==== Sys2Proof/Laws/Stores.lean ====
section
/-! SUPPORT. The laws of the canonical stores: a write is read back, it leaves every other key as it was, and it keeps the
canonical form; equal contents in canonical form are equal data. -/

-- one declaration after the other: the package is also compiled as one text, in limited memory
set_option Elab.async false

namespace Sys2Proof.Machine

variable {α : Type} [DecidableEq α] {dflt : Nat → α}

/-- Every listed key is at least `k`. -/
def Store.above (k : Nat) (m : List (Nat × α)) : Prop := ∀ x ∈ m, k < x.1

/-- The canonical form, element by element. -/
theorem Store.wf_cons (k : Nat) (v : α) (m : List (Nat × α)) :
    Store.wf dflt ((k, v) :: m) = true ↔ v ≠ dflt k ∧ Store.above k m ∧ Store.wf dflt m = true := by
  induction m generalizing k v with
  | nil => simp [Store.wf, Store.above]
  | cons x m ih =>
    obtain ⟨k', v'⟩ := x
    simp only [Store.wf, Bool.and_eq_true, decide_eq_true_eq, ih k' v', Store.above, List.mem_cons]
    constructor
    · rintro ⟨⟨h1, h2⟩, h3, h4, h5⟩
      exact ⟨h1, by rintro x (rfl | hx); exacts [h2, Nat.lt_trans h2 (h4 x hx)], h3, h4, h5⟩
    · rintro ⟨h1, h2, h3⟩
      exact ⟨⟨h1, h2 _ (Or.inl rfl)⟩, h3⟩

omit [DecidableEq α] in
/-- A key below every listed one reads as its default. -/
theorem Store.find_above (k : Nat) (m : List (Nat × α)) (h : ∀ x ∈ m, k < x.1) : Store.find dflt m k = dflt k := by
  induction m with
  | nil => rfl
  | cons x m ih =>
    obtain ⟨k', v'⟩ := x
    have h1 : k < k' := h _ List.mem_cons_self
    simp only [Store.find]
    rw [if_neg (by omega)]
    exact ih fun y hy => h y (List.mem_cons_of_mem _ hy)

/-- A written value is read back. -/
theorem Store.find_put_self (m : List (Nat × α)) (k : Nat) (v : α) (hm : Store.wf dflt m = true) :
    Store.find dflt (Store.put dflt m k v) k = v := by
  induction m with
  | nil => by_cases h : v = dflt k <;> simp [Store.put, Store.find, h]
  | cons x m ih =>
    obtain ⟨k', v'⟩ := x
    obtain ⟨-, ha, hw⟩ := (Store.wf_cons k' v' m).1 hm
    simp only [Store.put]
    split
    · next hlt =>
      split
      · next hv =>
        rw [Store.find_above, hv]
        intro y hy
        rcases List.mem_cons.1 hy with rfl | hy
        exacts [hlt, Nat.lt_trans hlt (ha y hy)]
      · simp [Store.find]
    · split
      · next heq =>
        subst heq
        split
        · next hv => rw [Store.find_above _ _ ha, hv]
        · simp [Store.find]
      · next hlt hne =>
        simp only [Store.find]
        rw [if_neg (fun h => hne h.symm)]
        exact ih hw

/-- A write leaves every other key as it was. -/
theorem Store.find_put_other (m : List (Nat × α)) (k j : Nat) (v : α) (hj : j ≠ k) :
    Store.find dflt (Store.put dflt m k v) j = Store.find dflt m j := by
  induction m with
  | nil => by_cases h : v = dflt k <;> simp [Store.put, Store.find, h, Ne.symm hj]
  | cons x m ih =>
    obtain ⟨k', v'⟩ := x
    simp only [Store.put]
    split
    · split
      · rfl
      · simp [Store.find, Ne.symm hj]
    · split
      · next heq =>
        subst heq
        split <;> simp [Store.find, Ne.symm hj]
      · simp only [Store.find, ih]

/-- What a write can list: what was listed, and the written key. -/
theorem Store.mem_put (m : List (Nat × α)) (k : Nat) (v : α) (x : Nat × α) (h : x ∈ Store.put dflt m k v) :
    x ∈ m ∨ x = (k, v) := by
  induction m with
  | nil => by_cases hv : v = dflt k <;> simp_all [Store.put]
  | cons y m ih =>
    obtain ⟨k', v'⟩ := y
    simp only [Store.put] at h
    split at h
    · split at h
      · exact .inl h
      · rcases List.mem_cons.1 h with h | h
        exacts [.inr h, .inl h]
    · split at h
      · split at h
        · exact .inl (List.mem_cons_of_mem _ h)
        · rcases List.mem_cons.1 h with h | h
          exacts [.inr h, .inl (List.mem_cons_of_mem _ h)]
      · rcases List.mem_cons.1 h with h | h
        · exact .inl (by rw [h]; exact List.mem_cons_self)
        · exact (ih h).imp (List.mem_cons_of_mem _) id

/-- A write keeps the canonical form. -/
theorem Store.put_wf (m : List (Nat × α)) (k : Nat) (v : α) (hm : Store.wf dflt m = true) :
    Store.wf dflt (Store.put dflt m k v) = true := by
  induction m with
  | nil => by_cases hv : v = dflt k <;> simp [Store.put, Store.wf, hv]
  | cons x m ih =>
    obtain ⟨k', v'⟩ := x
    obtain ⟨hd, ha, hw⟩ := (Store.wf_cons k' v' m).1 hm
    simp only [Store.put]
    split
    · next hlt =>
      split
      · exact hm
      · next hv =>
        refine (Store.wf_cons _ _ _).2 ⟨hv, ?_, hm⟩
        intro y hy
        rcases List.mem_cons.1 hy with rfl | hy
        exacts [hlt, Nat.lt_trans hlt (ha y hy)]
    · split
      · next heq =>
        subst heq
        split
        · exact hw
        · next hv => exact (Store.wf_cons _ _ _).2 ⟨hv, ha, hw⟩
      · next hlt hne =>
        refine (Store.wf_cons _ _ _).2 ⟨hd, ?_, ih hw⟩
        intro y hy
        rcases Store.mem_put m k v y hy with hy | rfl
        exacts [ha y hy, by change k' < k; omega]

/-- Leaving entries out keeps the canonical form. -/
theorem Store.filter_wf (m : List (Nat × α)) (p : Nat × α → Bool) (hm : Store.wf dflt m = true) :
    Store.wf dflt (m.filter p) = true := by
  induction m with
  | nil => rfl
  | cons x m ih =>
    obtain ⟨k', v'⟩ := x
    obtain ⟨hd, ha, hw⟩ := (Store.wf_cons k' v' m).1 hm
    rw [List.filter_cons]
    split
    · exact (Store.wf_cons _ _ _).2 ⟨hd, fun y hy => ha y (List.mem_of_mem_filter hy), ih hw⟩
    · exact ih hw

/-- A default value is never listed: two stores in canonical form that read alike are equal. -/
theorem Store.ext_of_wf (m n : List (Nat × α)) (hm : Store.wf dflt m = true) (hn : Store.wf dflt n = true)
    (h : ∀ k, Store.find dflt m k = Store.find dflt n k) : m = n := by
  induction m generalizing n with
  | nil =>
    cases n with
    | nil => rfl
    | cons x n =>
      obtain ⟨k, v⟩ := x
      have := h k
      simp only [Store.find, if_true] at this
      exact absurd this.symm ((Store.wf_cons k v n).1 hn).1
  | cons x m ih =>
    obtain ⟨k, v⟩ := x
    obtain ⟨hd, ha, hw⟩ := (Store.wf_cons k v m).1 hm
    cases n with
    | nil =>
      have := h k
      simp only [Store.find, if_true] at this
      exact absurd this hd
    | cons y n =>
      obtain ⟨k', v'⟩ := y
      obtain ⟨hd', ha', hw'⟩ := (Store.wf_cons k' v' n).1 hn
      rcases Nat.lt_trichotomy k k' with hlt | heq | hgt
      · have := h k
        simp only [Store.find, if_true] at this
        rw [if_neg (by omega), Store.find_above k n (fun x hx => Nat.lt_trans hlt (ha' x hx))] at this
        exact absurd this hd
      · subst heq
        have hv := h k
        simp only [Store.find, if_true] at hv
        subst hv
        rw [ih n hw hw' ?_]
        intro j
        by_cases hj : k = j
        · subst hj
          rw [Store.find_above k m ha, Store.find_above k n ha']
        · have := h j
          simpa only [Store.find, if_neg hj] using this
      · have := h k'
        simp only [Store.find, if_true] at this
        rw [if_neg (by omega), Store.find_above k' m (fun x hx => Nat.lt_trans hgt (ha x hx))] at this
        exact absurd this.symm hd'

/-- Writing bytes keeps the canonical form of a memory. -/
theorem Memory.write_wf (m : List Host.Cell) (a : Nat) (bs : List Byte) (hm : Memory.wf m = true) :
    Memory.wf (Memory.write m a bs) = true := by
  induction bs generalizing m a with
  | nil => exact hm
  | cons b bs ih => exact ih _ _ (Store.put_wf m a b hm)

/-- Writing bytes leaves every byte outside them as it was. -/
theorem Memory.read_write_outside (m : List Host.Cell) (a j : Nat) (bs : List Byte) (h : j < a ∨ a + bs.length ≤ j) :
    Memory.read (Memory.write m a bs) j = Memory.read m j := by
  induction bs generalizing m a with
  | nil => rfl
  | cons b bs ih =>
    simp only [List.length_cons] at h
    rw [Memory.write, ih _ _ (by omega)]
    exact Store.find_put_other m a j b (by omega)

/-- Written bytes are read back. -/
theorem Memory.read_write_inside (m : List Host.Cell) (a i : Nat) (bs : List Byte) (hm : Memory.wf m = true)
    (hi : i < bs.length) : Memory.read (Memory.write m a bs) (a + i) = bs[i] := by
  induction bs generalizing m a i with
  | nil => simp at hi
  | cons b bs ih =>
    rw [Memory.write]
    cases i with
    | zero =>
      rw [Nat.add_zero, Memory.read_write_outside _ _ _ _ (by omega)]
      exact Store.find_put_self m a b hm
    | succ i =>
      simp only [List.length_cons] at hi
      rw [show a + (i + 1) = a + 1 + i by omega, ih _ _ _ (Store.put_wf m a b hm) (by omega)]
      rfl

/-- Keys of the dictionary are different when their indices or subindices are. -/
theorem odKey_inj (i s i' s' : Nat) (h : s < 256) (h' : s' < 256) : odKey i s = odKey i' s' ↔ i = i' ∧ s = s' := by
  unfold odKey; omega

/-- A register holds what was written to it. -/
theorem DictS.reg_setReg_self (q : DictS) (i s : Nat) (v : Value) (h : Store.wf odDefault q.od = true) :
    (q.setReg i s v).reg i s = v := Store.find_put_self _ _ _ h

/-- A write to a register leaves the others as they were. -/
theorem DictS.reg_setReg_other (q : DictS) (i s i' s' : Nat) (v : Value) (h : odKey i' s' ≠ odKey i s) :
    (q.setReg i s v).reg i' s' = q.reg i' s' := Store.find_put_other _ _ _ _ h

end Sys2Proof.Machine
end

