-- ==== Sys2Proof/Laws/Kept.lean ====
section
/-! SUPPORT. What every step keeps: how it passes through a record update, a choice, a loop and a write, so that the lemma
of each function of the model says once that the function keeps it. -/

-- one declaration after the other: the package is also compiled as one text, in limited memory
set_option Elab.async false

namespace Sys2Proof.Machine

/-- What is compared with: the fused part of the device, and the lifecycle and firmware security version reached. -/
structure Base where
  chip : ChipS
  lifecycle : Nat
  fwVersion : Nat
  deriving DecidableEq, Repr

/-- What every step keeps: the stores are in canonical form, the counters that wrap are in their fields, the fused part is
that of `base`, and lifecycle and firmware security version are at least those of `base`. -/
def Dev.Kept (base : Base) (d : Dev) : Prop :=
  d.dict.Canonical ∧ d.host.Canonical ∧ Store.wf (fun _ => TxStage.blank) d.gw.stages = true ∧
    Store.wf (fun _ => CheckCh.blank) d.chk = true ∧ d.chip = base.chip ∧ d.time.Bounded ∧ d.sec.AtLeast base.lifecycle base.fwVersion

/-- The outcome, if it is a next state, keeps it. -/
def Keeps (base : Base) (r : Result) : Prop := ∀ t, r = .next t → t.dev.Kept base

variable {base : Base}

theorem Dev.Kept.mk (now fresh : Nat) (out : List Out) (dict : DictS) (node : NodeS) (chip : ChipS) (inaug : InaugS)
    (fab : FabricS) (ports : PortsS) (time : TimeS) (sched : SchedS) (strm : StreamsS) (can : Vector CanCtl 8) (gw : GwS)
    (chk : List (Nat × CheckCh)) (recd : RecS) (sleep : SleepS) (load : LoadsS) (host : HostS) (pow : PowerS)
    (health : HealthS) (sec : SecS) (pins : PinsS) (h1 : dict.Canonical) (h2 : host.Canonical)
    (h3 : Store.wf (fun _ => TxStage.blank) gw.stages = true) (h4 : Store.wf (fun _ => CheckCh.blank) chk = true)
    (h5 : chip = base.chip) (h6 : time.Bounded) (h7 : sec.AtLeast base.lifecycle base.fwVersion) :
    (Dev.mk now fresh out dict node chip inaug fab ports time sched strm can gw chk recd sleep load host pow health sec
      pins).Kept base := ⟨h1, h2, h3, h4, h5, h6, h7⟩

theorem Dev.Kept.dict {d : Dev} (h : d.Kept base) : d.dict.Canonical := h.1
theorem Dev.Kept.host {d : Dev} (h : d.Kept base) : d.host.Canonical := h.2.1
theorem Dev.Kept.stages {d : Dev} (h : d.Kept base) : Store.wf (fun _ => TxStage.blank) d.gw.stages = true := h.2.2.1
theorem Dev.Kept.chk {d : Dev} (h : d.Kept base) : Store.wf (fun _ => CheckCh.blank) d.chk = true := h.2.2.2.1
theorem Dev.Kept.chip {d : Dev} (h : d.Kept base) : d.chip = base.chip := h.2.2.2.2.1
theorem Dev.Kept.time {d : Dev} (h : d.Kept base) : d.time.Bounded := h.2.2.2.2.2.1
theorem Dev.Kept.sec {d : Dev} (h : d.Kept base) : d.sec.AtLeast base.lifecycle base.fwVersion := h.2.2.2.2.2.2
theorem TimeS.Bounded.intro {t : TimeS} (h0 : t.fRaw < 2 ^ 96) (h1 : t.stepGen < 8) : t.Bounded := ⟨h0, h1⟩
theorem TimeS.Bounded.raw {t : TimeS} (h : t.Bounded) : t.fRaw < 2 ^ 96 := h.1
theorem TimeS.Bounded.step {t : TimeS} (h : t.Bounded) : t.stepGen < 8 := h.2
theorem TimeS.reset_raw : TimeS.reset.fRaw < 2 ^ 96 := by decide
theorem TimeS.reset_step : TimeS.reset.stepGen < 8 := by decide
theorem SecS.AtLeast.intro {s : SecS} {l v : Nat} (h0 : l ≤ s.lifecycle) (h1 : v ≤ s.fwVersion) (h2 : s.lifecycle ≤ 4) :
    s.AtLeast l v := ⟨h0, h1, h2⟩
theorem SecS.AtLeast.life {s : SecS} {l v : Nat} (h : s.AtLeast l v) : l ≤ s.lifecycle := h.1
theorem SecS.AtLeast.version {s : SecS} {l v : Nat} (h : s.AtLeast l v) : v ≤ s.fwVersion := h.2.1
theorem SecS.AtLeast.top {s : SecS} {l v : Nat} (h : s.AtLeast l v) : s.lifecycle ≤ 4 := h.2.2
/-- A record update that changes none of the parts that count. -/
theorem Dev.Kept.upd (now fresh : Nat) (out : List Out) (node : NodeS) (inaug : InaugS) (fab : FabricS)
    (ports : PortsS) (sched : SchedS) (strm : StreamsS) (can : Vector CanCtl 8) (recd : RecS) (sleep : SleepS)
    (load : LoadsS) (pow : PowerS) (health : HealthS) (pins : PinsS) {d : Dev} (h : d.Kept base) :
    (Dev.mk now fresh out d.dict node d.chip inaug fab ports d.time sched strm can d.gw d.chk recd sleep load d.host pow health d.sec pins).Kept
      base := h

/-- A record update that changes, of the parts that count, `dict`. -/
theorem Dev.Kept.upd_dict (now fresh : Nat) (out : List Out) (node : NodeS) (inaug : InaugS) (fab : FabricS)
    (ports : PortsS) (sched : SchedS) (strm : StreamsS) (can : Vector CanCtl 8) (recd : RecS) (sleep : SleepS)
    (load : LoadsS) (pow : PowerS) (health : HealthS) (pins : PinsS) {d : Dev} (x : DictS)
    (h : d.Kept base) (hx : x.Canonical) :
    (Dev.mk now fresh out x node d.chip inaug fab ports d.time sched strm can d.gw d.chk recd sleep load d.host pow health d.sec pins).Kept
      base := ⟨hx, h.2.1, h.2.2.1, h.2.2.2.1, h.2.2.2.2.1, h.2.2.2.2.2.1, h.2.2.2.2.2.2⟩

/-- A record update that changes, of the parts that count, `time`. -/
theorem Dev.Kept.upd_time (now fresh : Nat) (out : List Out) (node : NodeS) (inaug : InaugS) (fab : FabricS)
    (ports : PortsS) (sched : SchedS) (strm : StreamsS) (can : Vector CanCtl 8) (recd : RecS) (sleep : SleepS)
    (load : LoadsS) (pow : PowerS) (health : HealthS) (pins : PinsS) {d : Dev} (x : TimeS)
    (h : d.Kept base) (hx : x.Bounded) :
    (Dev.mk now fresh out d.dict node d.chip inaug fab ports x sched strm can d.gw d.chk recd sleep load d.host pow health d.sec pins).Kept
      base := ⟨h.1, h.2.1, h.2.2.1, h.2.2.2.1, h.2.2.2.2.1, hx, h.2.2.2.2.2.2⟩

/-- A record update that changes, of the parts that count, `gw`. -/
theorem Dev.Kept.upd_gw (now fresh : Nat) (out : List Out) (node : NodeS) (inaug : InaugS) (fab : FabricS)
    (ports : PortsS) (sched : SchedS) (strm : StreamsS) (can : Vector CanCtl 8) (recd : RecS) (sleep : SleepS)
    (load : LoadsS) (pow : PowerS) (health : HealthS) (pins : PinsS) {d : Dev} (x : GwS)
    (h : d.Kept base) (hx : Store.wf (fun _ => TxStage.blank) x.stages = true) :
    (Dev.mk now fresh out d.dict node d.chip inaug fab ports d.time sched strm can x d.chk recd sleep load d.host pow health d.sec pins).Kept
      base := ⟨h.1, h.2.1, hx, h.2.2.2.1, h.2.2.2.2.1, h.2.2.2.2.2.1, h.2.2.2.2.2.2⟩

/-- A record update that changes, of the parts that count, `chk`. -/
theorem Dev.Kept.upd_chk (now fresh : Nat) (out : List Out) (node : NodeS) (inaug : InaugS) (fab : FabricS)
    (ports : PortsS) (sched : SchedS) (strm : StreamsS) (can : Vector CanCtl 8) (recd : RecS) (sleep : SleepS)
    (load : LoadsS) (pow : PowerS) (health : HealthS) (pins : PinsS) {d : Dev} (x : List (Nat × CheckCh))
    (h : d.Kept base) (hx : Store.wf (fun _ => CheckCh.blank) x = true) :
    (Dev.mk now fresh out d.dict node d.chip inaug fab ports d.time sched strm can d.gw x recd sleep load d.host pow health d.sec pins).Kept
      base := ⟨h.1, h.2.1, h.2.2.1, hx, h.2.2.2.2.1, h.2.2.2.2.2.1, h.2.2.2.2.2.2⟩

/-- A record update that changes, of the parts that count, `host`. -/
theorem Dev.Kept.upd_host (now fresh : Nat) (out : List Out) (node : NodeS) (inaug : InaugS) (fab : FabricS)
    (ports : PortsS) (sched : SchedS) (strm : StreamsS) (can : Vector CanCtl 8) (recd : RecS) (sleep : SleepS)
    (load : LoadsS) (pow : PowerS) (health : HealthS) (pins : PinsS) {d : Dev} (x : HostS)
    (h : d.Kept base) (hx : x.Canonical) :
    (Dev.mk now fresh out d.dict node d.chip inaug fab ports d.time sched strm can d.gw d.chk recd sleep load x pow health d.sec pins).Kept
      base := ⟨h.1, hx, h.2.2.1, h.2.2.2.1, h.2.2.2.2.1, h.2.2.2.2.2.1, h.2.2.2.2.2.2⟩

/-- A record update that changes, of the parts that count, `sec`. -/
theorem Dev.Kept.upd_sec (now fresh : Nat) (out : List Out) (node : NodeS) (inaug : InaugS) (fab : FabricS)
    (ports : PortsS) (sched : SchedS) (strm : StreamsS) (can : Vector CanCtl 8) (recd : RecS) (sleep : SleepS)
    (load : LoadsS) (pow : PowerS) (health : HealthS) (pins : PinsS) {d : Dev} (x : SecS)
    (h : d.Kept base) (hx : x.AtLeast base.lifecycle base.fwVersion) :
    (Dev.mk now fresh out d.dict node d.chip inaug fab ports d.time sched strm can d.gw d.chk recd sleep load d.host pow health x pins).Kept
      base := ⟨h.1, h.2.1, h.2.2.1, h.2.2.2.1, h.2.2.2.2.1, h.2.2.2.2.2.1, hx⟩

theorem DictS.Canonical.od {q : DictS} (h : q.Canonical) : Store.wf odDefault q.od = true := h.1
theorem DictS.Canonical.mem {q : DictS} (h : q.Canonical) : Memory.wf q.mem = true := h.2.1
theorem DictS.Canonical.values0 {q : DictS} (h : q.Canonical) : Store.wf odDefault q.copy0.values = true := h.2.2.1
theorem DictS.Canonical.tables0 {q : DictS} (h : q.Canonical) : Memory.wf q.copy0.tables = true := h.2.2.2.1
theorem DictS.Canonical.values1 {q : DictS} (h : q.Canonical) : Store.wf odDefault q.copy1.values = true := h.2.2.2.2.1
theorem DictS.Canonical.tables1 {q : DictS} (h : q.Canonical) : Memory.wf q.copy1.tables = true := h.2.2.2.2.2
theorem HostS.Canonical.pcie {x : HostS} (h : x.Canonical) : Memory.wf x.mbPcie.window = true := h.1
theorem HostS.Canonical.serial {x : HostS} (h : x.Canonical) : Memory.wf x.mbSerial.window = true := h.2

theorem HostS.Canonical.intro {x : HostS} (h0 : Memory.wf x.mbPcie.window = true)
    (h1 : Memory.wf x.mbSerial.window = true) : x.Canonical := ⟨h0, h1⟩

theorem DictS.Canonical.intro {q : DictS} (h0 : Store.wf odDefault q.od = true) (h1 : Memory.wf q.mem = true)
    (h2 : Store.wf odDefault q.copy0.values = true) (h3 : Memory.wf q.copy0.tables = true)
    (h4 : Store.wf odDefault q.copy1.values = true) (h5 : Memory.wf q.copy1.tables = true) : q.Canonical :=
  ⟨h0, h1, h2, h3, h4, h5⟩

theorem foldl_wf {α β : Type} [DecidableEq α] {dflt : Nat → α} (l : List β) (f : List (Nat × α) → β → List (Nat × α))
    (m : List (Nat × α)) (hm : Store.wf dflt m = true)
    (hf : ∀ x m, Store.wf dflt m = true → Store.wf dflt (f m x) = true) : Store.wf dflt (l.foldl f m) = true := by
  induction l generalizing m with
  | nil => exact hm
  | cons x l ih => exact ih _ (hf x m hm)

theorem foldl_memory {β : Type} (l : List β) (f : List Host.Cell → β → List Host.Cell) (m : List Host.Cell)
    (hm : Memory.wf m = true) (hf : ∀ x m, Memory.wf m = true → Memory.wf (f m x) = true) :
    Memory.wf (l.foldl f m) = true := by
  induction l generalizing m with
  | nil => exact hm
  | cons x l ih => exact ih _ (hf x m hm)

theorem onlyIf_kept (c : Bool) (f : Dev → Dev) (d : Dev) (hf : d.Kept base → (f d).Kept base) (h : d.Kept base) :
    (onlyIf c f d).Kept base := by
  unfold onlyIf
  split
  exacts [hf h, h]

theorem foldl_kept {α : Type} (l : List α) (f : Dev → α → Dev) (d : Dev) (h : d.Kept base)
    (hf : ∀ x d, d.Kept base → (f d x).Kept base) : (l.foldl f d).Kept base := by
  induction l generalizing d with
  | nil => exact h
  | cons x l ih => exact ih _ (hf x d h)

theorem foldl_snd_kept {α β : Type} (l : List α) (f : β × Dev → α → β × Dev) (x : β × Dev) (h : x.2.Kept base)
    (hf : ∀ y x, x.2.Kept base → (f x y).2.Kept base) : (l.foldl f x).2.Kept base := by
  induction l generalizing x with
  | nil => exact h
  | cons y l ih => exact ih _ (hf y x h)

theorem forEach_kept {α : Type} (l : List α) (f : α → Dev → Dev) (d : Dev) (h : d.Kept base)
    (hf : ∀ x d, d.Kept base → (f x d).Kept base) : (forEach l f d).Kept base :=
  foldl_kept l _ d h hf

theorem setReg_kept (i s v : Nat) (d : Dev) (h : d.Kept base) : (setReg i s v d).Kept base :=
  ⟨⟨Store.put_wf _ _ _ h.dict.od, h.1.2⟩, h.2⟩

theorem setBytes_kept (i s : Nat) (bs : List Byte) (d : Dev) (h : d.Kept base) : (setBytes i s bs d).Kept base :=
  ⟨⟨Store.put_wf _ _ _ h.dict.od, h.1.2⟩, h.2⟩

theorem ite_kept {c : Prop} [Decidable c] {x y : Dev} (hx : x.Kept base) (hy : y.Kept base) :
    (if c then x else y).Kept base := by
  split
  exacts [hx, hy]

theorem ite_pair {α : Type} {c : Prop} [Decidable c] {x y : α × Dev} {a : α} {d : Dev}
    (e : (if c then x else y) = (a, d)) (hx : x.2.Kept base) (hy : y.2.Kept base) : d.Kept base := by
  split at e
  · rw [e] at hx
    exact hx
  · rw [e] at hy
    exact hy

theorem advanceRaw_kept (ns : Nat) (d : Dev) (h : d.Kept base) : (advanceRaw ns d).Kept base :=
  ⟨h.1, h.2.1, h.2.2.1, h.2.2.2.1, h.chip, ⟨Nat.mod_lt _ (by decide), h.time.2⟩, h.sec⟩

theorem countEv_kept (c i q k : Nat) (d : Dev) (h : d.Kept base) : (countEv c i q k d).Kept base := h

theorem advance_kept (ns : Nat) (d : Dev) (h : d.Kept base) : (advance ns d).Kept base :=
  countEv_kept _ _ _ _ _ (advanceRaw_kept ns d h)

theorem arriveTrainFuel_kept (n t : Nat) (d : Dev) (h : d.Kept base) : (arriveTrainFuel n t d).Kept base := by
  induction n generalizing d with
  | zero => exact h
  | succ n ih =>
    unfold arriveTrainFuel
    split
    exacts [h, ih _ (advance_kept _ _ h)]

theorem does_kept (s : State) (f : Dev → Dev) (h : s.dev.Kept base) (hf : ∀ d : Dev, d.Kept base → (f d).Kept base) :
    Keeps base (s.does f) := by
  intro t ht
  simp only [State.does, Host.Outcome.next.injEq] at ht
  rw [← ht]
  exact hf _ h

end Sys2Proof.Machine
end

