-- ==== Sys2Proof/Laws/Kept/Ops.lean ====
section
/-! SUPPORT. Each function of Machine/Ops.lean keeps what every step keeps. -/

-- one declaration after the other: the package is also compiled as one text, in limited memory
set_option Elab.async false

set_option linter.all false

namespace Sys2Proof.Machine

variable {base : Base}

theorem setRegQ_kept (q : DictS) (i s : Nat) (v : Value) (h : q.Canonical) : (q.setReg i s v).Canonical :=
  ⟨Store.put_wf _ _ _ h.od, h.2⟩

theorem bumpBy_kept (idx sub k : Nat) (d : Dev) (hd : d.Kept base) : (bumpBy idx sub k d).Kept base := by
  unfold bumpBy
  repeat' first | with_reducible assumption | with_reducible apply setReg_kept

theorem bump_kept (idx sub : Nat) (d : Dev) (hd : d.Kept base) : (bump idx sub d).Kept base := by
  unfold bump
  repeat' first | with_reducible assumption | with_reducible apply bumpBy_kept

theorem bump64_kept (idx sub k : Nat) (d : Dev) (hd : d.Kept base) : (bump64 idx sub k d).Kept base := by
  unfold bump64
  repeat' first | with_reducible assumption | with_reducible apply setReg_kept

theorem emit_kept (o : Out) (d : Dev) (hd : d.Kept base) : (emit o d).Kept base := by
  unfold emit
  repeat' first | with_reducible assumption | with_reducible apply Dev.Kept.upd

theorem emits_kept (os : List Out) (d : Dev) (hd : d.Kept base) : (emits os d).Kept base := by
  unfold emits
  repeat' first | with_reducible assumption | with_reducible apply Dev.Kept.upd

theorem draw_kept (d : Dev) (hd : d.Kept base) : (draw d).Kept base := by
  unfold draw
  repeat' first | with_reducible assumption | with_reducible apply Dev.Kept.upd

theorem arrive_kept (t : Nat) (d : Dev) (hd : d.Kept base) : (arrive t d).Kept base := by
  unfold arrive
  repeat' first | with_reducible assumption | with_reducible apply advance_kept

theorem arriveTrain_kept (t : Nat) (d : Dev) (hd : d.Kept base) : (arriveTrain t d).Kept base := by
  unfold arriveTrain
  repeat' first | with_reducible assumption | with_reducible apply arriveTrainFuel_kept

theorem sendVector_kept (v : Fin 16) (d : Dev) (hd : d.Kept base) : (sendVector v d).Kept base := by
  unfold sendVector
  repeat' first
      | with_reducible assumption | with_reducible apply ite_kept | with_reducible apply emit_kept
      | dsimp only [id] | with_reducible apply Dev.Kept.upd_host | with_reducible apply Dev.Kept.host
      | with_reducible apply HostS.Canonical.pcie | with_reducible apply HostS.Canonical.serial
      | with_reducible apply HostS.Canonical.intro

theorem setInt_kept (bit : Nat) (d : Dev) (hd : d.Kept base) : (setInt bit d).Kept base := by
  unfold setInt
  repeat' first
      | with_reducible assumption | with_reducible apply ite_kept | with_reducible apply sendVector_kept
      | dsimp only [id] | with_reducible apply Dev.Kept.upd_host | with_reducible apply Dev.Kept.host
      | with_reducible apply HostS.Canonical.pcie | with_reducible apply HostS.Canonical.serial
      | with_reducible apply HostS.Canonical.intro

theorem snapshot_kept (d : Dev) (hd : d.Kept base) : (snapshot d).Kept base := by
  unfold snapshot
  repeat' first
      | with_reducible assumption | with_reducible apply ite_kept | with_reducible apply setReg_kept
      | dsimp only [id] | with_reducible apply Dev.Kept.upd

theorem countDrop_kept (d : Dev) (hd : d.Kept base) : (countDrop d).Kept base := by
  unfold countDrop
  repeat' first | with_reducible assumption | split | dsimp only [id] | with_reducible apply Dev.Kept.upd

theorem tarnCopy_kept (e : Entry) (d : Dev) (hd : d.Kept base) : (tarnCopy e d).Kept base := by
  unfold tarnCopy
  repeat' first
      | with_reducible assumption | with_reducible apply countDrop_kept | with_reducible apply bump_kept | split
      | dsimp only [id] | with_reducible apply Dev.Kept.upd

theorem tarnLimited_kept (e : Entry) (d : Dev) (hd : d.Kept base) : (tarnLimited e d).Kept base := by
  unfold tarnLimited
  repeat' first
      | with_reducible assumption | with_reducible apply ite_kept | with_reducible apply tarnCopy_kept
      | with_reducible apply bump_kept | dsimp only [id] | with_reducible apply Dev.Kept.upd

theorem ringAccept_kept (e : Entry) (d : Dev) (hd : d.Kept base) : (ringAccept e d).Kept base := by
  unfold ringAccept
  repeat' first
      | with_reducible assumption | with_reducible apply countDrop_kept | with_reducible apply bump_kept | split
      | dsimp only [id] | with_reducible apply Dev.Kept.upd

theorem holdingAccept_kept (e : Entry) (d : Dev) (hd : d.Kept base) : (holdingAccept e d).Kept base := by
  unfold holdingAccept
  repeat' first
      | with_reducible assumption | with_reducible apply bump_kept | split | dsimp only [id]
      | with_reducible apply Dev.Kept.upd

theorem startFlush_kept (d : Dev) (hd : d.Kept base) : (startFlush d).Kept base := by
  unfold startFlush
  repeat' first
      | with_reducible assumption | with_reducible apply ite_kept | dsimp only [id]
      | with_reducible apply Dev.Kept.upd

theorem stageEntry_kept (e : Entry) (d : Dev) (hd : d.Kept base) : (stageEntry e d).Kept base := by
  unfold stageEntry
  repeat' first
      | with_reducible assumption | with_reducible apply ite_kept | with_reducible apply startFlush_kept
      | with_reducible apply ringAccept_kept | dsimp only [id] | with_reducible apply Dev.Kept.upd

theorem placeWith_kept (copy : Entry → Dev → Dev) (e0 : Entry) (d0 : Dev) (hcopy : ∀ y0 (d : Dev), d.Kept base →
    (copy y0 d).Kept base) (hd0 : d0.Kept base) : (placeWith copy e0 d0).Kept base := by
  unfold placeWith
  repeat' first
      | with_reducible assumption | with_reducible apply ite_kept | with_reducible apply hcopy
      | with_reducible apply stageEntry_kept | with_reducible apply holdingAccept_kept
      | with_reducible apply ringAccept_kept | with_reducible apply setInt_kept | with_reducible apply countEv_kept
      | split | dsimp only [id] | with_reducible apply Dev.Kept.upd

theorem placeEntry_kept (e : Entry) (d : Dev) (hd : d.Kept base) : (placeEntry e d).Kept base := by
  unfold placeEntry
  repeat' first
      | with_reducible assumption | intro _ | with_reducible apply ite_kept | with_reducible apply placeWith_kept
      | with_reducible apply tarnLimited_kept | dsimp only [id] | with_reducible apply Dev.Kept.upd

theorem earlyAccept_kept (e : Entry) (d : Dev) (hd : d.Kept base) : (earlyAccept e d).Kept base := by
  unfold earlyAccept
  repeat' first
      | with_reducible assumption | with_reducible apply ite_kept | with_reducible apply countDrop_kept
      | with_reducible apply bump_kept | split | dsimp only [id] | with_reducible apply Dev.Kept.upd

theorem recordEntry_kept (e : Entry) (d : Dev) (hd : d.Kept base) : (recordEntry e d).Kept base := by
  unfold recordEntry
  repeat' first
      | with_reducible assumption | with_reducible apply ite_kept | with_reducible apply earlyAccept_kept
      | with_reducible apply placeEntry_kept | with_reducible apply bump_kept | split

theorem raiseP_kept (ev : Ev) (inst : Nat) (payload : List Byte) (d : Dev) (hd : d.Kept base) :
    (raiseP ev inst payload d).Kept base := by
  unfold raiseP
  repeat' first | with_reducible assumption | with_reducible apply recordEntry_kept

theorem raise_kept (ev : Ev) (inst : Nat) (d : Dev) (hd : d.Kept base) : (raise ev inst d).Kept base := by
  unfold raise
  repeat' first | with_reducible assumption | with_reducible apply raiseP_kept

theorem onPort_kept (p : Port) (f : PortS → PortS) (d : Dev) (hd : d.Kept base) : (onPort p f d).Kept base := by
  unfold onPort
  repeat' first | with_reducible assumption | dsimp only [id] | with_reducible apply Dev.Kept.upd

theorem onPortTime_kept (p : Port) (f : PortTime → PortTime) (d : Dev) (hd : d.Kept base) :
    (onPortTime p f d).Kept base := by
  unfold onPortTime
  repeat' first
      | with_reducible assumption | dsimp only [id] | with_reducible apply Dev.Kept.upd_time
      | with_reducible apply Dev.Kept.time | with_reducible apply TimeS.Bounded.intro
      | with_reducible apply TimeS.Bounded.raw | with_reducible apply TimeS.Bounded.step

theorem setRate_kept (rate : Int) (d : Dev) (hd : d.Kept base) : (setRate rate d).Kept base := by
  unfold setRate
  repeat' first
      | with_reducible assumption | dsimp only [id] | with_reducible apply Dev.Kept.upd_time
      | with_reducible apply Dev.Kept.time | with_reducible apply TimeS.Bounded.intro
      | with_reducible apply TimeS.Bounded.raw | with_reducible apply TimeS.Bounded.step

theorem servoRate_kept (d : Dev) (hd : d.Kept base) : (servoRate d).Kept base := by
  unfold servoRate
  repeat' first | with_reducible assumption | with_reducible apply setRate_kept | with_reducible apply draw_kept

theorem setTimeState_kept (st : TimeState) (d : Dev) (hd : d.Kept base) : (setTimeState st d).Kept base := by
  unfold setTimeState
  repeat' first
      | with_reducible assumption | with_reducible apply ite_kept | with_reducible apply setInt_kept | split
      | dsimp only [id] | with_reducible apply Dev.Kept.upd_time | with_reducible apply Dev.Kept.time
      | with_reducible apply TimeS.Bounded.intro | with_reducible apply TimeS.Bounded.raw
      | with_reducible apply TimeS.Bounded.step

theorem tevtAfterStep_kept (d : Dev) (hd : d.Kept base) : (tevtAfterStep d).Kept base := by
  unfold tevtAfterStep
  repeat' first
      | with_reducible assumption | with_reducible apply ite_kept | with_reducible apply bump_kept
      | with_reducible apply bumpBy_kept | split | dsimp only [id] | with_reducible apply Dev.Kept.upd_time
      | with_reducible apply Dev.Kept.time | with_reducible apply TimeS.Bounded.intro
      | with_reducible apply TimeS.Bounded.raw | with_reducible apply TimeS.Bounded.step

theorem streamsStep_kept (amount : Int) (d : Dev) (hd : d.Kept base) : (streamsStep amount d).Kept base := by
  unfold streamsStep
  repeat' first
      | with_reducible assumption | with_reducible apply ite_kept | with_reducible apply bump_kept
      | dsimp only [id] | with_reducible apply Dev.Kept.upd

theorem stepTime_kept (amount : Int) (d : Dev) (hd : d.Kept base) : (stepTime amount d).Kept base := by
  unfold stepTime
  repeat' first
      | with_reducible assumption | with_reducible apply ite_kept | with_reducible apply streamsStep_kept
      | with_reducible apply tevtAfterStep_kept | with_reducible apply recordEntry_kept
      | with_reducible apply setInt_kept | with_reducible apply bump_kept | dsimp only [id]
      | with_reducible apply Dev.Kept.upd | with_reducible apply Dev.Kept.upd_time
      | with_reducible apply Dev.Kept.time | with_reducible apply TimeS.Bounded.intro
      | with_reducible apply TimeS.Bounded.raw | exact Nat.mod_lt _ (by decide)

end Sys2Proof.Machine
end

