-- ==== Sys2Proof/Laws/Kept/Loads.lean ====
section
/-! SUPPORT. Each function of Machine/Loads.lean keeps what every step keeps. -/

-- one declaration after the other: the package is also compiled as one text, in limited memory
set_option Elab.async false

set_option linter.all false

namespace Sys2Proof.Machine

variable {base : Base}

theorem onCh_kept (k : Fin 32) (f : LoadCh → LoadCh) (d : Dev) (hd : d.Kept base) : (onCh k f d).Kept base := by
  unfold onCh
  repeat' first | with_reducible assumption | dsimp only [id] | with_reducible apply Dev.Kept.upd

theorem onComp_kept (n : Fin 4) (f : Companion → Companion) (d : Dev) (hd : d.Kept base) :
    (onComp n f d).Kept base := by
  unfold onComp
  repeat' first | with_reducible assumption | dsimp only [id] | with_reducible apply Dev.Kept.upd

theorem duePolls_kept (n : Fin 4) (d : Dev) (hd : d.Kept base) : (duePolls n d).Kept base := by
  unfold duePolls
  repeat' first | with_reducible assumption | with_reducible apply onComp_kept

theorem startTransfer_kept (short : Bool) (n : Fin 4) (d0 : Dev) (hd0 : d0.Kept base) :
    (startTransfer short n d0).Kept base := by
  unfold startTransfer
  repeat' first
      | with_reducible assumption | intro _ | with_reducible apply duePolls_kept | with_reducible apply onComp_kept
      | with_reducible apply onCh_kept | with_reducible apply forEach_kept | with_reducible apply emit_kept | split

theorem kick_kept (short : Bool) (n : Fin 4) (d : Dev) (hd : d.Kept base) : (kick short n d).Kept base := by
  unfold kick
  repeat' first
      | with_reducible assumption | with_reducible apply ite_kept | with_reducible apply startTransfer_kept
      | with_reducible apply onComp_kept

theorem endTransfer_kept (n : Fin 4) (d : Dev) (hd : d.Kept base) : (endTransfer n d).Kept base := by
  unfold endTransfer
  repeat' first
      | with_reducible assumption | with_reducible apply ite_kept | with_reducible apply onComp_kept | split
      | dsimp only [id]

theorem turnOn_kept (k : Fin 32) (d : Dev) (hd : d.Kept base) : (turnOn k d).Kept base := by
  unfold turnOn
  repeat' first | with_reducible assumption | with_reducible apply onCh_kept

theorem refill_kept (k : Fin 32) (d : Dev) (hd : d.Kept base) : (refill k d).Kept base := by
  unfold refill
  repeat' first | with_reducible assumption | with_reducible apply onCh_kept

theorem restart_kept (k : Fin 32) (d : Dev) (hd : d.Kept base) : (restart k d).Kept base := by
  unfold restart
  repeat' first
      | with_reducible assumption | with_reducible apply ite_kept | with_reducible apply refill_kept
      | with_reducible apply turnOn_kept | with_reducible apply onCh_kept

theorem restartDue_kept (k : Fin 32) (d : Dev) (hd : d.Kept base) : (restartDue k d).Kept base := by
  unfold restartDue
  repeat' first
      | with_reducible assumption | with_reducible apply ite_kept | with_reducible apply restart_kept
      | with_reducible apply onCh_kept

theorem holdChannels_kept (n : Fin 4) (d : Dev) (hd : d.Kept base) : (holdChannels n d).Kept base := by
  unfold holdChannels
  repeat' first
      | with_reducible assumption | intro _ | with_reducible apply onCh_kept | with_reducible apply forEach_kept

theorem startRefill_kept (k : Fin 32) (d : Dev) (hd : d.Kept base) : (startRefill k d).Kept base := by
  unfold startRefill
  repeat' first | with_reducible assumption | with_reducible apply onCh_kept

theorem tripChannel_kept (low : Bool) (k : Fin 32) (d : Dev) (hd : d.Kept base) :
    (tripChannel low k d).Kept base := by
  unfold tripChannel
  repeat' first
      | with_reducible assumption | with_reducible apply ite_kept | with_reducible apply onCh_kept
      | with_reducible apply raise_kept

theorem latchChannel_kept (k : Fin 32) (d : Dev) (hd : d.Kept base) : (latchChannel k d).Kept base := by
  unfold latchChannel
  repeat' first | with_reducible assumption | with_reducible apply onCh_kept

theorem extendWindows_kept (n : Fin 4) (trips : Nat) (d : Dev) (hd : d.Kept base) :
    (extendWindows n trips d).Kept base := by
  unfold extendWindows
  repeat' first
      | with_reducible assumption | intro _ | with_reducible apply ite_kept | with_reducible apply onCh_kept
      | with_reducible apply forEach_kept | with_reducible apply raise_kept | with_reducible apply bump_kept

theorem identify_kept (keep : Byte) (n : Fin 4) (d : Dev) (hd : d.Kept base) : (identify keep n d).Kept base := by
  unfold identify
  repeat' first | with_reducible assumption | with_reducible apply onComp_kept

theorem identified_kept (n : Fin 4) (v : Nat) (d : Dev) (hd : d.Kept base) : (identified n v d).Kept base := by
  unfold identified
  repeat' first
      | with_reducible assumption | with_reducible apply ite_kept | with_reducible apply onComp_kept
      | with_reducible apply raise_kept

theorem planRestore_kept (n : Fin 4) (d : Dev) (hd : d.Kept base) : (planRestore n d).Kept base := by
  unfold planRestore
  repeat' first | with_reducible assumption | with_reducible apply onComp_kept

theorem enterRunning_kept (n : Fin 4) (d : Dev) (hd : d.Kept base) : (enterRunning n d).Kept base := by
  unfold enterRunning
  repeat' first
      | with_reducible assumption | intro _ | with_reducible apply ite_kept | with_reducible apply planRestore_kept
      | with_reducible apply onComp_kept | with_reducible apply onCh_kept | with_reducible apply forEach_kept

theorem badStatus_kept (n : Fin 4) (d : Dev) (hd : d.Kept base) : (badStatus n d).Kept base := by
  unfold badStatus
  repeat' first
      | with_reducible assumption | with_reducible apply ite_kept | with_reducible apply holdChannels_kept
      | with_reducible apply onComp_kept | with_reducible apply raise_kept | with_reducible apply bump_kept

theorem statusChannels_kept (n : Fin 4) (low : Bool) (trips therm warm : Nat) (d : Dev) (hd : d.Kept base) :
    (statusChannels n low trips therm warm d).Kept base := by
  unfold statusChannels
  repeat' first
      | with_reducible assumption | intro _ | with_reducible apply ite_kept
      | with_reducible apply extendWindows_kept | with_reducible apply latchChannel_kept
      | with_reducible apply tripChannel_kept | with_reducible apply startRefill_kept
      | with_reducible apply onCh_kept | with_reducible apply onlyIf_kept | with_reducible apply forEach_kept
      | with_reducible apply raise_kept | with_reducible apply countEv_kept | with_reducible apply bump_kept

theorem statusSupply_kept (n : Fin 4) (low : Bool) (d : Dev) (hd : d.Kept base) :
    (statusSupply n low d).Kept base := by
  unfold statusSupply
  repeat' first
      | with_reducible assumption | intro _ | with_reducible apply ite_kept | with_reducible apply planRestore_kept
      | with_reducible apply holdChannels_kept | with_reducible apply onComp_kept
      | with_reducible apply onlyIf_kept | with_reducible apply raise_kept | with_reducible apply bump_kept

theorem goodStatus_kept (n : Fin 4) (b : Nat → Nat) (d0 : Dev) (hd0 : d0.Kept base) :
    (goodStatus n b d0).Kept base := by
  unfold goodStatus
  repeat' first
      | with_reducible assumption | intro _ | with_reducible apply ite_kept
      | with_reducible apply statusSupply_kept | with_reducible apply statusChannels_kept
      | with_reducible apply enterRunning_kept | with_reducible apply identify_kept
      | with_reducible apply holdChannels_kept | with_reducible apply onComp_kept | with_reducible apply onCh_kept
      | with_reducible apply forEach_kept | with_reducible apply raise_kept | with_reducible apply bump_kept
      | split

theorem execStatusFrame_kept (n : Fin 4) (bytes : Vector Byte 8) (s : State) (hs : s.dev.Kept base) : Keeps base
    (execStatusFrame n bytes s) := by
  unfold execStatusFrame
  first | with_reducible apply does_kept _ _ hs | with_reducible apply doesJudged_kept _ _ hs | skip
  repeat' first
      | with_reducible assumption | intro _ | with_reducible apply ite_kept | with_reducible apply goodStatus_kept
      | with_reducible apply badStatus_kept | with_reducible apply endTransfer_kept
      | with_reducible apply onComp_kept | with_reducible apply arrive_kept | split

theorem clampReport_kept (k : Fin 32) (uj : Nat) (d : Dev) (hd : d.Kept base) : (clampReport k uj d).Kept base := by
  unfold clampReport
  repeat' first
      | with_reducible assumption | with_reducible apply ite_kept | with_reducible apply kick_kept
      | with_reducible apply onCh_kept | with_reducible apply raise_kept | with_reducible apply bump_kept

theorem readValue_kept (n : Fin 4) (reg i v : Nat) (d : Dev) (hd : d.Kept base) :
    (readValue n reg i v d).Kept base := by
  unfold readValue
  repeat' first
      | with_reducible assumption | with_reducible apply ite_kept | with_reducible apply clampReport_kept
      | with_reducible apply identified_kept | with_reducible apply onCh_kept | split

theorem execReadReply_kept (n : Fin 4) (bytes : Vector Byte 8) (s : State) (hs : s.dev.Kept base) : Keeps base
    (execReadReply n bytes s) := by
  unfold execReadReply
  first | with_reducible apply does_kept _ _ hs | with_reducible apply doesJudged_kept _ _ hs | skip
  repeat' first
      | with_reducible assumption | intro _ | with_reducible apply ite_kept | with_reducible apply readValue_kept
      | with_reducible apply endTransfer_kept | with_reducible apply onComp_kept | with_reducible apply arrive_kept
      | split

theorem execCompanionFaultLine_kept (n : Fin 4) (s : State) (hs : s.dev.Kept base) : Keeps base
    (execCompanionFaultLine n s) := by
  unfold execCompanionFaultLine
  first | with_reducible apply does_kept _ _ hs | with_reducible apply doesJudged_kept _ _ hs | skip
  repeat' first | with_reducible assumption | intro _ | with_reducible apply kick_kept

theorem execTransferGap_kept (n : Fin 4) (s : State) (hs : s.dev.Kept base) : Keeps base (execTransferGap n s) := by
  unfold execTransferGap
  first | with_reducible apply does_kept _ _ hs | with_reducible apply doesJudged_kept _ _ hs | skip
  repeat' first
      | with_reducible assumption | intro _ | with_reducible apply startTransfer_kept
      | with_reducible apply arrive_kept | split

theorem execLinkRetry_kept (n : Fin 4) (s : State) (hs : s.dev.Kept base) : Keeps base (execLinkRetry n s) := by
  unfold execLinkRetry
  first | with_reducible apply does_kept _ _ hs | with_reducible apply doesJudged_kept _ _ hs | skip
  repeat' first
      | with_reducible assumption | intro _ | with_reducible apply startTransfer_kept
      | with_reducible apply arrive_kept | split

theorem execInrushWindowEnd_kept (k : Fin 32) (s : State) (hs : s.dev.Kept base) : Keeps base
    (execInrushWindowEnd k s) := by
  unfold execInrushWindowEnd
  first | with_reducible apply does_kept _ _ hs | with_reducible apply doesJudged_kept _ _ hs | skip
  repeat' first
      | with_reducible assumption | intro _ | with_reducible apply kick_kept | with_reducible apply onCh_kept
      | with_reducible apply arrive_kept | split

theorem execRetryDelayEnd_kept (k : Fin 32) (s : State) (hs : s.dev.Kept base) : Keeps base
    (execRetryDelayEnd k s) := by
  unfold execRetryDelayEnd
  first | with_reducible apply does_kept _ _ hs | with_reducible apply doesJudged_kept _ _ hs | skip
  repeat' first
      | with_reducible assumption | intro _ | with_reducible apply restartDue_kept | with_reducible apply kick_kept
      | with_reducible apply arrive_kept | split

theorem execRetryRefill_kept (k : Fin 32) (s : State) (hs : s.dev.Kept base) : Keeps base (execRetryRefill k s) := by
  unfold execRetryRefill
  first | with_reducible apply does_kept _ _ hs | with_reducible apply doesJudged_kept _ _ hs | skip
  repeat' first
      | with_reducible assumption | intro _ | with_reducible apply refill_kept | with_reducible apply onCh_kept
      | with_reducible apply arrive_kept | split

theorem releaseLatch_kept (k : Fin 32) (d : Dev) (hd : d.Kept base) : (releaseLatch k d).Kept base := by
  unfold releaseLatch
  repeat' first
      | with_reducible assumption | with_reducible apply ite_kept | with_reducible apply startRefill_kept
      | with_reducible apply restartDue_kept | with_reducible apply refill_kept | with_reducible apply onCh_kept
      | with_reducible apply raise_kept

theorem execThermalLatchRelease_kept (k : Fin 32) (s : State) (hs : s.dev.Kept base) : Keeps base
    (execThermalLatchRelease k s) := by
  unfold execThermalLatchRelease
  first | with_reducible apply does_kept _ _ hs | with_reducible apply doesJudged_kept _ _ hs | skip
  repeat' first
      | with_reducible assumption | intro _ | with_reducible apply releaseLatch_kept
      | with_reducible apply kick_kept | with_reducible apply arrive_kept | split

theorem execClampBinExpiry_kept (k : Fin 32) (s : State) (hs : s.dev.Kept base) : Keeps base
    (execClampBinExpiry k s) := by
  unfold execClampBinExpiry
  first | with_reducible apply does_kept _ _ hs | with_reducible apply doesJudged_kept _ _ hs | skip
  repeat' first
      | with_reducible assumption | intro _ | with_reducible apply onCh_kept | with_reducible apply arrive_kept
      | split

theorem edgeEffect_kept (k : Fin 32) (d : Dev) (hd : d.Kept base) : (edgeEffect k d).Kept base := by
  unfold edgeEffect
  repeat' first
      | with_reducible assumption | with_reducible apply ite_kept | with_reducible apply turnOn_kept
      | with_reducible apply onCh_kept | split

theorem edgeAt_kept (t : Nat) (k : Fin 32) (d : Dev) (hd : d.Kept base) : (edgeAt t k d).Kept base := by
  unfold edgeAt
  repeat' first
      | with_reducible assumption | with_reducible apply ite_kept | with_reducible apply turnOn_kept
      | with_reducible apply onCh_kept | split

theorem execPulseEdge_kept (k : Fin 32) (s : State) (hs : s.dev.Kept base) : Keeps base (execPulseEdge k s) := by
  unfold execPulseEdge
  first | with_reducible apply does_kept _ _ hs | with_reducible apply doesJudged_kept _ _ hs | skip
  repeat' first
      | with_reducible assumption | intro _ | with_reducible apply ite_kept | with_reducible apply edgeAt_kept
      | with_reducible apply kick_kept | with_reducible apply onlyIf_kept | with_reducible apply forEach_kept
      | with_reducible apply arriveTrain_kept | with_reducible apply bump_kept

theorem execRestoreSlot_kept (n : Fin 4) (s : State) (hs : s.dev.Kept base) : Keeps base (execRestoreSlot n s) := by
  unfold execRestoreSlot
  first | with_reducible apply does_kept _ _ hs | with_reducible apply doesJudged_kept _ _ hs | skip
  repeat' first
      | with_reducible assumption | intro _ | with_reducible apply restart_kept | with_reducible apply kick_kept
      | with_reducible apply onComp_kept | with_reducible apply arrive_kept | split | dsimp only [id]

theorem commandLoad_kept (k : Fin 32) (v : Bool) (d : Dev) (hd : d.Kept base) : (commandLoad k v d).Kept base := by
  unfold commandLoad
  repeat' first
      | with_reducible assumption | intro _ | with_reducible apply ite_kept | with_reducible apply startRefill_kept
      | with_reducible apply refill_kept | with_reducible apply turnOn_kept | with_reducible apply kick_kept
      | with_reducible apply onCh_kept | with_reducible apply onlyIf_kept | with_reducible apply setReg_kept
      | split

theorem unlockLoads_kept (n : Fin 4) (v : Nat) (d : Dev) (hd : d.Kept base) : (unlockLoads n v d).Kept base := by
  unfold unlockLoads
  repeat' first
      | with_reducible assumption | intro _ | with_reducible apply onCh_kept | with_reducible apply forEach_kept
      | with_reducible apply raise_kept | with_reducible apply setReg_kept

theorem settleLink_kept (n : Fin 4) (d : Dev) (hd : d.Kept base) : (settleLink n d).Kept base := by
  unfold settleLink
  repeat' first
      | with_reducible assumption | intro _ | with_reducible apply ite_kept | with_reducible apply identify_kept
      | with_reducible apply kick_kept | with_reducible apply onComp_kept | with_reducible apply onCh_kept
      | with_reducible apply forEach_kept

theorem rework_kept (was : Dev) (d : Dev) (hwas : was.Kept base) (hd : d.Kept base) : (rework was d).Kept base := by
  unfold rework
  repeat' first
      | with_reducible assumption | intro _ | with_reducible apply edgeEffect_kept | with_reducible apply kick_kept
      | with_reducible apply onCh_kept | with_reducible apply forEach_kept

theorem stepAll_kept (amount : Int) (d : Dev) (hd : d.Kept base) : (stepAll amount d).Kept base := by
  unfold stepAll
  repeat' first | with_reducible assumption | with_reducible apply rework_kept | with_reducible apply stepTime_kept

theorem applyLoads_kept (old : Dev) (d : Dev) (hold : old.Kept base) (hd : d.Kept base) :
    (applyLoads old d).Kept base := by
  unfold applyLoads
  repeat' first
      | with_reducible assumption | intro _ | with_reducible apply rework_kept
      | with_reducible apply settleLink_kept | with_reducible apply onComp_kept | with_reducible apply forEach_kept
      | split

theorem loadsStart_kept (d : Dev) (hd : d.Kept base) : (loadsStart d).Kept base := by
  unfold loadsStart
  repeat' first
      | with_reducible assumption | intro _ | with_reducible apply settleLink_kept | with_reducible apply onCh_kept
      | with_reducible apply forEach_kept | with_reducible apply setReg_kept

theorem loadsSleep_kept (d : Dev) (hd : d.Kept base) : (loadsSleep d).Kept base := by
  unfold loadsSleep
  repeat' first
      | with_reducible assumption | intro _ | with_reducible apply ite_kept | with_reducible apply onComp_kept
      | with_reducible apply onCh_kept | with_reducible apply forEach_kept | with_reducible apply emit_kept

end Sys2Proof.Machine
end

