-- ==== Sys2Proof/Laws/Kept/Recorder.lean ====
section
/-! SUPPORT. Each function of Machine/Recorder.lean keeps what every step keeps. -/

-- one declaration after the other: the package is also compiled as one text, in limited memory
set_option Elab.async false

set_option linter.all false

namespace Sys2Proof.Machine

variable {base : Base}

theorem logOne_kept (e : Entry) (d : Dev) (hd : d.Kept base) : (logOne e d).Kept base := by
  unfold logOne
  repeat' first
      | with_reducible assumption | with_reducible apply bump_kept | split | dsimp only [id]
      | with_reducible apply Dev.Kept.upd

theorem logWrite_kept (es : List Entry) (d : Dev) (hd : d.Kept base) : (logWrite es d).Kept base := by
  unfold logWrite
  repeat' first
      | with_reducible assumption | intro _ | with_reducible apply ite_kept | with_reducible apply logOne_kept
      | with_reducible apply forEach_kept | dsimp only [id] | with_reducible apply Dev.Kept.upd

theorem finishWriteBack_kept (d : Dev) (hd : d.Kept base) : (finishWriteBack d).Kept base := by
  unfold finishWriteBack
  repeat' first
      | with_reducible assumption | with_reducible apply ite_kept | with_reducible apply raise_kept
      | with_reducible apply bump_kept | dsimp only [id] | with_reducible apply Dev.Kept.upd

theorem holdingOverflow_kept (d : Dev) (hd : d.Kept base) : (holdingOverflow d).Kept base := by
  unfold holdingOverflow
  repeat' first
      | with_reducible assumption | with_reducible apply ite_kept | with_reducible apply raiseP_kept
      | dsimp only [id] | with_reducible apply Dev.Kept.upd

theorem summaryDrops_kept (d : Dev) (hd : d.Kept base) : (summaryDrops d).Kept base := by
  unfold summaryDrops
  repeat' first | with_reducible assumption | dsimp only [id] | with_reducible apply Dev.Kept.upd

theorem checkWriteBack_kept (d0 : Dev) (hd0 : d0.Kept base) : (checkWriteBack d0).Kept base := by
  unfold checkWriteBack
  repeat' first
      | with_reducible assumption | with_reducible apply ite_kept | with_reducible apply summaryDrops_kept
      | with_reducible apply holdingOverflow_kept | with_reducible apply finishWriteBack_kept | split
      | dsimp only [id] | with_reducible apply Dev.Kept.upd

theorem enterWriteBack_kept (afterRing : Bool) (d : Dev) (hd : d.Kept base) :
    (enterWriteBack afterRing d).Kept base := by
  unfold enterWriteBack
  repeat' first
      | with_reducible assumption | with_reducible apply checkWriteBack_kept | dsimp only [id]
      | with_reducible apply Dev.Kept.upd

theorem refillStaging_kept (d : Dev) (hd : d.Kept base) : (refillStaging d).Kept base := by
  unfold refillStaging
  repeat' first
      | with_reducible assumption | with_reducible apply ite_kept | dsimp only [id]
      | with_reducible apply Dev.Kept.upd

theorem flushIfDue_kept (d : Dev) (hd : d.Kept base) : (flushIfDue d).Kept base := by
  unfold flushIfDue
  repeat' first | with_reducible assumption | with_reducible apply ite_kept | with_reducible apply startFlush_kept

theorem takeStaged_kept (d : Dev) (hd : d.Kept base) : (takeStaged d).2.Kept base := by
  unfold takeStaged
  repeat' first | with_reducible assumption | dsimp only [id] | with_reducible apply Dev.Kept.upd

theorem takeStaged_pair_kept {d : Dev} {r0 : _} {d' : Dev} (e : takeStaged d = (r0, d')) (hd : d.Kept base)
    : d'.Kept base := by
  have := takeStaged_kept d hd
  rw [e] at this
  exact this

theorem freezeLog_kept (d : Dev) (hd : d.Kept base) : (freezeLog d).Kept base := by
  unfold freezeLog
  repeat' first
      | with_reducible assumption | intro _ | with_reducible apply takeStaged_kept
      | with_reducible apply forEach_kept | with_reducible apply raise_kept
      | with_reducible apply holdingAccept_kept | dsimp only [id] | with_reducible apply Dev.Kept.upd

theorem unfreezeLog_kept (d : Dev) (hd : d.Kept base) : (unfreezeLog d).Kept base := by
  unfold unfreezeLog
  repeat' first
      | with_reducible assumption | with_reducible apply ite_kept | with_reducible apply checkWriteBack_kept
      | with_reducible apply raise_kept | dsimp only [id] | with_reducible apply Dev.Kept.upd

theorem numberEarly_kept (d : Dev) (hd : d.Kept base) : (numberEarly d).Kept base := by
  unfold numberEarly
  repeat' first
      | with_reducible assumption | intro _ | with_reducible apply forEach_kept
      | with_reducible apply placeEntry_kept | dsimp only [id] | with_reducible apply Dev.Kept.upd

theorem mediumFails_kept (cause : MediumCause) (d : Dev) (hd : d.Kept base) : (mediumFails cause d).Kept base := by
  unfold mediumFails
  repeat' first
      | with_reducible assumption | intro _ | with_reducible apply numberEarly_kept
      | with_reducible apply takeStaged_kept | with_reducible apply forEach_kept | with_reducible apply raise_kept
      | with_reducible apply ringAccept_kept | with_reducible apply bump_kept | split | dsimp only [id]
      | with_reducible apply Dev.Kept.upd

theorem closeRecorder_kept (cause : Nat) (d : Dev) (hd : d.Kept base) : (closeRecorder cause d).Kept base := by
  unfold closeRecorder
  repeat' first
      | with_reducible assumption | intro _ | with_reducible apply ite_kept | with_reducible apply takeStaged_kept
      | with_reducible apply holdingOverflow_kept | with_reducible apply logWrite_kept
      | with_reducible apply forEach_kept | with_reducible apply ringAccept_kept | split | dsimp only [id]
      | with_reducible apply Dev.Kept.upd

theorem reopenRecorder_kept (d : Dev) (hd : d.Kept base) : (reopenRecorder d).Kept base := by
  unfold reopenRecorder
  repeat' first
      | with_reducible assumption | with_reducible apply ite_kept | with_reducible apply enterWriteBack_kept
      | dsimp only [id] | with_reducible apply Dev.Kept.upd

theorem recorderOff_kept (d : Dev) (hd : d.Kept base) : (recorderOff d).Kept base := by
  unfold recorderOff
  repeat' first | with_reducible assumption | split | dsimp only [id] | with_reducible apply Dev.Kept.upd

theorem recorderBoot_kept (d : Dev) (hd : d.Kept base) : (recorderBoot d).Kept base := by
  unfold recorderBoot
  repeat' first | with_reducible assumption | dsimp only [id] | with_reducible apply Dev.Kept.upd

theorem formatLog_kept (d : Dev) (hd : d.Kept base) : (formatLog d).Kept base := by
  unfold formatLog
  repeat' first
      | with_reducible assumption | with_reducible apply draw_kept | split | dsimp only [id]
      | with_reducible apply Dev.Kept.upd

theorem previousShutdown_kept (d : Dev) (hd : d.Kept base) : (previousShutdown d).Kept base := by
  unfold previousShutdown
  repeat' first
      | with_reducible assumption | with_reducible apply ite_kept | with_reducible apply raiseP_kept | split
      | dsimp only [id] | with_reducible apply Dev.Kept.upd

theorem scanEnds_kept (blank : Bool) (d : Dev) (hd : d.Kept base) : (scanEnds blank d).Kept base := by
  unfold scanEnds
  repeat' first
      | with_reducible assumption | intro _ | with_reducible apply ite_kept
      | with_reducible apply previousShutdown_kept | with_reducible apply formatLog_kept
      | with_reducible apply numberEarly_kept | with_reducible apply checkWriteBack_kept
      | with_reducible apply forEach_kept | with_reducible apply raise_kept | with_reducible apply ringAccept_kept
      | split | dsimp only [id] | with_reducible apply Dev.Kept.upd

theorem execFlushDelay_kept (s : State) (hs : s.dev.Kept base) : Keeps base (execFlushDelay s) := by
  unfold execFlushDelay
  first | with_reducible apply does_kept _ _ hs | with_reducible apply doesJudged_kept _ _ hs | skip
  repeat' first
      | with_reducible assumption | intro _ | with_reducible apply startFlush_kept
      | with_reducible apply arrive_kept | split

theorem execLogWriteComplete_kept (s : State) (hs : s.dev.Kept base) : Keeps base (execLogWriteComplete s) := by
  unfold execLogWriteComplete
  first | with_reducible apply does_kept _ _ hs | with_reducible apply doesJudged_kept _ _ hs | skip
  repeat' first
      | with_reducible assumption | intro _ | with_reducible apply flushIfDue_kept
      | with_reducible apply refillStaging_kept | with_reducible apply checkWriteBack_kept
      | with_reducible apply logWrite_kept | split | dsimp only [id] | with_reducible apply Dev.Kept.upd

theorem execFreezeLimit_kept (s : State) (hs : s.dev.Kept base) : Keeps base (execFreezeLimit s) := by
  unfold execFreezeLimit
  first | with_reducible apply does_kept _ _ hs | with_reducible apply doesJudged_kept _ _ hs | skip
  repeat' first
      | with_reducible assumption | intro _ | with_reducible apply unfreezeLog_kept
      | with_reducible apply raise_kept | with_reducible apply arrive_kept | with_reducible apply bump_kept | split

theorem execMediumFailure_kept (cause : MediumCause) (s : State) (hs : s.dev.Kept base) : Keeps base
    (execMediumFailure cause s) := by
  unfold execMediumFailure
  first | with_reducible apply does_kept _ _ hs | with_reducible apply doesJudged_kept _ _ hs | skip
  repeat' first | with_reducible assumption | intro _ | with_reducible apply mediumFails_kept

theorem execMediumRetry_kept (ok : Bool) (s : State) (hs : s.dev.Kept base) : Keeps base (execMediumRetry ok s) := by
  unfold execMediumRetry
  first | with_reducible apply does_kept _ _ hs | with_reducible apply doesJudged_kept _ _ hs | skip
  repeat' first
      | with_reducible assumption | intro _ | with_reducible apply ite_kept
      | with_reducible apply enterWriteBack_kept | with_reducible apply raise_kept
      | with_reducible apply arrive_kept | split | dsimp only [id] | with_reducible apply Dev.Kept.upd

theorem execScanComplete_kept (o : ScanOutcome) (s : State) (hs : s.dev.Kept base) : Keeps base
    (execScanComplete o s) := by
  unfold execScanComplete
  first | with_reducible apply does_kept _ _ hs | with_reducible apply doesJudged_kept _ _ hs | skip
  repeat' first
      | with_reducible assumption | intro _ | with_reducible apply ite_kept | with_reducible apply scanEnds_kept
      | with_reducible apply mediumFails_kept | split | dsimp only [id] | with_reducible apply Dev.Kept.upd

end Sys2Proof.Machine
end

