-- ==== Sys2Proof/Laws/Kept/Stamps.lean ====
section
/-! SUPPORT. Each function of Machine/Stamps.lean keeps what every step keeps. -/

-- one declaration after the other: the package is also compiled as one text, in limited memory
set_option Elab.async false

set_option linter.all false

namespace Sys2Proof.Machine

variable {base : Base}

theorem noteOverflow_kept (inst : Nat) (d : Dev) (hd : d.Kept base) : (noteOverflow inst d).Kept base := by
  unfold noteOverflow
  repeat' first
      | with_reducible assumption | with_reducible apply ite_kept | with_reducible apply raise_kept
      | dsimp only [id] | with_reducible apply Dev.Kept.upd_time | with_reducible apply Dev.Kept.time
      | with_reducible apply TimeS.Bounded.intro | with_reducible apply TimeS.Bounded.raw
      | with_reducible apply TimeS.Bounded.step

theorem storeTxStamp_kept (p : Port) (ident : Nat) (d : Dev) (hd : d.Kept base) :
    (storeTxStamp p ident d).Kept base := by
  unfold storeTxStamp
  repeat' first
      | with_reducible assumption | with_reducible apply ite_kept | with_reducible apply noteOverflow_kept
      | with_reducible apply onPortTime_kept | with_reducible apply bump_kept

end Sys2Proof.Machine
end

