-- ==== Sys2Proof/Laws/Kept/Rings.lean ====
section
/-! SUPPORT. Each function of Machine/Rings.lean keeps what every step keeps. -/

-- one declaration after the other: the package is also compiled as one text, in limited memory
set_option Elab.async false

set_option linter.all false

namespace Sys2Proof.Machine

variable {base : Base}

theorem onRing_kept (r : Fin 10) (f : Ring → Ring) (d : Dev) (hd : d.Kept base) : (onRing r f d).Kept base := by
  unfold onRing
  repeat' first
      | with_reducible assumption | dsimp only [id] | with_reducible apply Dev.Kept.upd_host
      | with_reducible apply Dev.Kept.host | with_reducible apply HostS.Canonical.pcie
      | with_reducible apply HostS.Canonical.serial | with_reducible apply HostS.Canonical.intro

theorem ringInt_kept (r : Fin 10) (d : Dev) (hd : d.Kept base) : (ringInt r d).Kept base := by
  unfold ringInt
  repeat' first
      | with_reducible assumption | with_reducible apply ite_kept | with_reducible apply onRing_kept
      | with_reducible apply setInt_kept

theorem writeBackOne_kept (r : Fin 10) (index : Nat) (flags : Byte) (off : Nat) (tail : List Byte) (d : Dev) (hd
    : d.Kept base) : (writeBackOne r index flags off tail d).Kept base := by
  unfold writeBackOne
  repeat' first
      | with_reducible assumption | with_reducible apply ite_kept | with_reducible apply ringInt_kept
      | with_reducible apply onRing_kept | with_reducible apply emits_kept

theorem flushDone_kept (n : Nat) (r : Fin 10) (off : Nat) (d : Dev) (hd : d.Kept base) :
    (flushDone n r off d).Kept base := by
  induction n generalizing d with
  | zero => exact hd
  | succ n ih =>
    unfold flushDone
    repeat' first
        | with_reducible assumption | with_reducible apply ih | with_reducible apply writeBackOne_kept
        | with_reducible apply onRing_kept | split | dsimp only [id]

theorem completeTx_kept (o : HostOrigin) (status : Nat) (ident : Option Nat) (d : Dev) (hd : d.Kept base) :
    (completeTx o status ident d).Kept base := by
  unfold completeTx
  repeat' first
      | with_reducible assumption | with_reducible apply ite_kept | with_reducible apply flushDone_kept
      | with_reducible apply onRing_kept

theorem ringDrop_kept (r : Fin 10) (d : Dev) (hd : d.Kept base) : (ringDrop r d).Kept base := by
  unfold ringDrop
  repeat' first | with_reducible assumption | with_reducible apply onRing_kept

theorem deliverHost_kept (f : QFrame) (d : Dev) (hd : d.Kept base) : (deliverHost f d).Kept base := by
  unfold deliverHost
  repeat' first
      | with_reducible assumption | with_reducible apply ringInt_kept | with_reducible apply onRing_kept
      | with_reducible apply emits_kept | split | dsimp only [id]

theorem drainHost_kept (d : Dev) (hd : d.Kept base) : (drainHost d).Kept base := by
  unfold drainHost
  repeat' first
      | with_reducible assumption | intro _ | with_reducible apply ite_kept | with_reducible apply deliverHost_kept
      | with_reducible apply foldl_kept | dsimp only [id] | with_reducible apply Dev.Kept.upd

end Sys2Proof.Machine
end

