-- ==== Sys2Proof/Laws/Kept/Mac.lean ====
section
/-! SUPPORT. Each function of Machine/Mac.lean keeps what every step keeps. -/

-- one declaration after the other: the package is also compiled as one text, in limited memory
set_option Elab.async false

set_option linter.all false

namespace Sys2Proof.Machine

variable {base : Base}

theorem countGood_kept (p : Port) (len : Nat) (d : Dev) (hd : d.Kept base) : (countGood p len d).Kept base := by
  unfold countGood
  repeat' first | with_reducible assumption | with_reducible apply countEv_kept | with_reducible apply bump64_kept

theorem settlePause_kept (p : Port) (d : Dev) (hd : d.Kept base) : (settlePause p d).Kept base := by
  unfold settlePause
  repeat' first | with_reducible assumption | with_reducible apply onPort_kept

theorem startPause_kept (p : Port) (ns : Nat) (d : Dev) (hd : d.Kept base) : (startPause p ns d).Kept base := by
  unfold startPause
  repeat' first | with_reducible assumption | with_reducible apply onPort_kept

theorem endPause_kept (p : Port) (d : Dev) (hd : d.Kept base) : (endPause p d).Kept base := by
  unfold endPause
  repeat' first | with_reducible assumption | with_reducible apply ite_kept | with_reducible apply onPort_kept

theorem clearPause_kept (p : Port) (d : Dev) (hd : d.Kept base) : (clearPause p d).Kept base := by
  unfold clearPause
  repeat' first | with_reducible assumption | with_reducible apply onPort_kept

theorem tripWatchdog_kept (p : Port) (d : Dev) (hd : d.Kept base) : (tripWatchdog p d).Kept base := by
  unfold tripWatchdog
  repeat' first
      | with_reducible assumption | with_reducible apply endPause_kept | with_reducible apply onPort_kept
      | with_reducible apply raise_kept | with_reducible apply bump_kept

theorem takePause_kept (p : Port) (q : Nat) (d0 : Dev) (hd0 : d0.Kept base) : (takePause p q d0).Kept base := by
  unfold takePause
  repeat' first
      | with_reducible assumption | with_reducible apply ite_kept | with_reducible apply tripWatchdog_kept
      | with_reducible apply endPause_kept | with_reducible apply startPause_kept
      | with_reducible apply settlePause_kept | with_reducible apply onPort_kept | with_reducible apply bump_kept

theorem takeMacControl_kept (p : Port) (d : Dev) (hd : d.Kept base) : (takeMacControl p d).Kept base := by
  unfold takeMacControl
  repeat' first | with_reducible assumption | with_reducible apply bump_kept

theorem execPause_kept (p : Port) (quanta : BitVec 16) (s : State) (hs : s.dev.Kept base) : Keeps base
    (execPause p quanta s) := by
  unfold execPause
  first | with_reducible apply does_kept _ _ hs | with_reducible apply doesJudged_kept _ _ hs | skip
  repeat' first
      | with_reducible assumption | intro _ | with_reducible apply ite_kept | with_reducible apply takePause_kept
      | with_reducible apply countGood_kept

theorem execMacControlFrame_kept (p : Port) (opcode : BitVec 16) (s : State) (hs : s.dev.Kept base) : Keeps base
    (execMacControlFrame p opcode s) := by
  unfold execMacControlFrame
  first | with_reducible apply does_kept _ _ hs | with_reducible apply doesJudged_kept _ _ hs | skip
  repeat' first
      | with_reducible assumption | intro _ | with_reducible apply ite_kept
      | with_reducible apply takeMacControl_kept | with_reducible apply countGood_kept

theorem execPauseEnd_kept (p : Port) (s : State) (hs : s.dev.Kept base) : Keeps base (execPauseEnd p s) := by
  unfold execPauseEnd
  first | with_reducible apply does_kept _ _ hs | with_reducible apply doesJudged_kept _ _ hs | skip
  repeat' first
      | with_reducible assumption | intro _ | with_reducible apply settlePause_kept
      | with_reducible apply arrive_kept | split | dsimp only [id]

theorem execPauseWatchdog_kept (p : Port) (s : State) (hs : s.dev.Kept base) : Keeps base
    (execPauseWatchdog p s) := by
  unfold execPauseWatchdog
  first | with_reducible apply does_kept _ _ hs | with_reducible apply doesJudged_kept _ _ hs | skip
  repeat' first
      | with_reducible assumption | intro _ | with_reducible apply ite_kept
      | with_reducible apply tripWatchdog_kept | with_reducible apply settlePause_kept
      | with_reducible apply arrive_kept | split

theorem execPauseHoldOffEnd_kept (p : Port) (s : State) (hs : s.dev.Kept base) : Keeps base
    (execPauseHoldOffEnd p s) := by
  unfold execPauseHoldOffEnd
  first | with_reducible apply does_kept _ _ hs | with_reducible apply doesJudged_kept _ _ hs | skip
  repeat' first
      | with_reducible assumption | intro _ | with_reducible apply settlePause_kept
      | with_reducible apply onPort_kept | with_reducible apply arrive_kept | split

theorem execPauseTimeReset_kept (p : Port) (s : State) (hs : s.dev.Kept base) : Keeps base
    (execPauseTimeReset p s) := by
  unfold execPauseTimeReset
  first | with_reducible apply does_kept _ _ hs | with_reducible apply doesJudged_kept _ _ hs | skip
  repeat' first
      | with_reducible assumption | intro _ | with_reducible apply ite_kept | with_reducible apply settlePause_kept
      | with_reducible apply onPort_kept | with_reducible apply arrive_kept

end Sys2Proof.Machine
end

