-- ==== Sys2Proof/Laws/Kept/Frames.lean ====
section
/-! SUPPORT. Each function of Machine/Frames.lean keeps what every step keeps. -/

-- one declaration after the other: the package is also compiled as one text, in limited memory
set_option Elab.async false

set_option linter.all false

namespace Sys2Proof.Machine

variable {base : Base}

theorem bumpWin_kept (w k : Nat) (d : Dev) (hd : d.Kept base) : (bumpWin w k d).Kept base := by
  unfold bumpWin
  repeat' first | with_reducible assumption | dsimp only [id] | with_reducible apply Dev.Kept.upd

theorem setSeq_kept (q : SeqState) (d : Dev) (hd : d.Kept base) : (setSeq q d).Kept base := by
  unfold setSeq
  repeat' first | with_reducible assumption | dsimp only [id] | with_reducible apply Dev.Kept.upd

end Sys2Proof.Machine
end

