-- ==== Sys2Proof/Laws/Kept/Fabric.lean ====
section
/-! SUPPORT. Each function of Machine/Fabric.lean keeps what every step keeps. -/

-- one declaration after the other: the package is also compiled as one text, in limited memory
set_option Elab.async false

set_option linter.all false

namespace Sys2Proof.Machine

variable {base : Base}

theorem onFab_kept (f : FabricS → FabricS) (d : Dev) (hd : d.Kept base) : (onFab f d).Kept base := by
  unfold onFab
  repeat' first | with_reducible assumption | with_reducible apply Dev.Kept.upd

theorem setQueue_kept (p : Port) (q : Fin 8) (l : List QFrame) (d : Dev) (hd : d.Kept base) :
    (setQueue p q l d).Kept base := by
  unfold setQueue
  repeat' first | with_reducible assumption | with_reducible apply onFab_kept

theorem allocCells_kept (uid n : Nat) (d : Dev) (hd : d.Kept base) : (allocCells uid n d).Kept base := by
  unfold allocCells
  repeat' first
      | with_reducible assumption | intro _ | with_reducible apply ite_kept | with_reducible apply onFab_kept
      | with_reducible apply forEach_kept | with_reducible apply countEv_kept

theorem settle_kept (f : QFrame) (status : Nat) (d : Dev) (hd : d.Kept base) : (settle f status d).Kept base := by
  unfold settle
  repeat' first
      | with_reducible assumption | with_reducible apply ite_kept | with_reducible apply onFab_kept
      | with_reducible apply completeTx_kept | split

theorem endSpill_kept (p : Port) (q : Fin 8) (d : Dev) (hd : d.Kept base) : (endSpill p q d).Kept base := by
  unfold endSpill
  repeat' first | with_reducible assumption | with_reducible apply ite_kept | with_reducible apply onFab_kept

theorem discardFrom_kept (p : Port) (q : Fin 8) (bad : QFrame → Bool) (status : Nat) (each : QFrame → Dev → Dev) (d
    : Dev) (heach : ∀ y0 (d : Dev), d.Kept base → (each y0 d).Kept base) (hd : d.Kept base) :
    (discardFrom p q bad status each d).Kept base := by
  unfold discardFrom
  repeat' first
      | with_reducible assumption | intro _ | with_reducible apply heach | with_reducible apply endSpill_kept
      | with_reducible apply settle_kept | with_reducible apply setQueue_kept | with_reducible apply forEach_kept

theorem countDiscard_kept (p : Port) (q : Nat) (d : Dev) (hd : d.Kept base) : (countDiscard p q d).Kept base := by
  unfold countDiscard
  repeat' first | with_reducible assumption | with_reducible apply countEv_kept | with_reducible apply bump_kept

theorem discardAll_kept (bad : Port → Fin 8 → QFrame → Bool) (status : Nat) (each
    : Port → Fin 8 → QFrame → Dev → Dev) (d : Dev) (heach : ∀ y0 y1 y2 (d : Dev), d.Kept base →
    (each y0 y1 y2 d).Kept base) (hd : d.Kept base) : (discardAll bad status each d).Kept base := by
  unfold discardAll
  repeat' first
      | with_reducible assumption | intro _ | with_reducible apply heach | with_reducible apply discardFrom_kept
      | with_reducible apply forEach_kept

theorem countUnsent_kept (p : Port) (q : Fin 8) (d : Dev) (hd : d.Kept base) : (countUnsent p q d).Kept base := by
  unfold countUnsent
  repeat' first
      | with_reducible assumption | intro _ | with_reducible apply onlyIf_kept | with_reducible apply bump_kept

theorem discardPort_kept (p : Port) (d : Dev) (hd : d.Kept base) : (discardPort p d).Kept base := by
  unfold discardPort
  repeat' first
      | with_reducible assumption | intro _ | with_reducible apply countUnsent_kept
      | with_reducible apply discardFrom_kept | with_reducible apply forEach_kept

theorem pushFrame_kept (p : Port) (q : Fin 8) (f : QFrame) (d : Dev) (hd : d.Kept base) :
    (pushFrame p q f d).Kept base := by
  unfold pushFrame
  repeat' first | with_reducible assumption | with_reducible apply setQueue_kept

theorem admitPort_kept (f : QFrame) (need : Nat) (rate : Option Nat) (p : Port) (q : Fin 8) (d : Dev) (hd
    : d.Kept base) : (admitPort f need rate p q d).Kept base := by
  unfold admitPort
  repeat' first
      | with_reducible assumption | with_reducible apply ite_kept | with_reducible apply pushFrame_kept
      | with_reducible apply countUnsent_kept | with_reducible apply countDiscard_kept
      | with_reducible apply allocCells_kept | with_reducible apply onFab_kept | with_reducible apply bump_kept

theorem sweepCells_kept (d : Dev) (hd : d.Kept base) : (sweepCells d).Kept base := by
  unfold sweepCells
  repeat' first | with_reducible assumption | with_reducible apply onFab_kept

theorem admitHost_kept (f : QFrame) (need : Nat) (d : Dev) (hd : d.Kept base) : (admitHost f need d).Kept base := by
  unfold admitHost
  repeat' first
      | with_reducible assumption | with_reducible apply ite_kept | with_reducible apply sweepCells_kept
      | with_reducible apply allocCells_kept | with_reducible apply onFab_kept
      | with_reducible apply drainHost_kept | with_reducible apply ringDrop_kept

theorem takeEngineOut_kept (one : Bool) (d : Dev) (hd : d.Kept base) : (takeEngineOut one d).Kept base := by
  unfold takeEngineOut
  repeat' first
      | with_reducible assumption | with_reducible apply onFab_kept | with_reducible apply raise_kept
      | with_reducible apply bump_kept

theorem blameEngine_kept (one : Bool) (d : Dev) (hd : d.Kept base) : (blameEngine one d).Kept base := by
  unfold blameEngine
  repeat' first
      | with_reducible assumption | with_reducible apply ite_kept | with_reducible apply takeEngineOut_kept
      | with_reducible apply onFab_kept | with_reducible apply raise_kept | with_reducible apply bump_kept

theorem mismatch_kept (e : EngineFault) (d : Dev) (hd : d.Kept base) : (mismatch e d).Kept base := by
  unfold mismatch
  repeat' first
      | with_reducible assumption | with_reducible apply ite_kept | with_reducible apply blameEngine_kept
      | with_reducible apply onFab_kept | with_reducible apply bump_kept

theorem execLearnedEntryAgeing_kept (row : BitVec 16) (s : State) (hs : s.dev.Kept base) : Keeps base
    (execLearnedEntryAgeing row s) := by
  unfold execLearnedEntryAgeing
  first | with_reducible apply does_kept _ _ hs | with_reducible apply doesJudged_kept _ _ hs | skip
  repeat' first
      | with_reducible assumption | intro _ | with_reducible apply ite_kept | with_reducible apply onFab_kept
      | with_reducible apply arrive_kept | split

theorem readBack_kept (p : Port) (q : Fin 8) (n : Nat) (d : Dev) (hd : d.Kept base) :
    (readBack p q n d).Kept base := by
  induction n generalizing d with
  | zero => exact hd
  | succ n ih =>
    unfold readBack
    repeat' first
        | with_reducible assumption | with_reducible apply ite_kept | with_reducible apply ih
        | with_reducible apply setQueue_kept | with_reducible apply allocCells_kept | split

theorem execSpillReadback_kept (p : Port) (q : Fin 8) (s : State) (hs : s.dev.Kept base) : Keeps base
    (execSpillReadback p q s) := by
  unfold execSpillReadback
  first | with_reducible apply does_kept _ _ hs | with_reducible apply doesJudged_kept _ _ hs | skip
  repeat' first
      | with_reducible assumption | intro _ | with_reducible apply ite_kept | with_reducible apply readBack_kept
      | with_reducible apply endSpill_kept

theorem ddrFails_kept (d : Dev) (hd : d.Kept base) : (ddrFails d).Kept base := by
  unfold ddrFails
  repeat' first
      | with_reducible assumption | intro _ | with_reducible apply ite_kept | with_reducible apply discardAll_kept
      | with_reducible apply onFab_kept | with_reducible apply mediumFails_kept | with_reducible apply raise_kept
      | with_reducible apply bump_kept

theorem execLpddr4xFailure_kept (_f : DdrFailure) (s : State) (hs : s.dev.Kept base) : Keeps base
    (execLpddr4xFailure _f s) := by
  unfold execLpddr4xFailure
  first | with_reducible apply does_kept _ _ hs | with_reducible apply doesJudged_kept _ _ hs | skip
  repeat' first | with_reducible assumption | intro _ | with_reducible apply ddrFails_kept

theorem cutShort_kept (sl : Slice) (lost : Fin 8 → Bool) (d : Dev) (hd : d.Kept base) :
    (cutShort sl lost d).Kept base := by
  unfold cutShort
  repeat' first
      | with_reducible assumption | intro _ | with_reducible apply onPort_kept | with_reducible apply forEach_kept
      | with_reducible apply emit_kept | with_reducible apply bump_kept

theorem discardSlice_kept (sl : Slice) (lost : Fin 8 → Bool) (d : Dev) (hd : d.Kept base) :
    (discardSlice sl lost d).Kept base := by
  unfold discardSlice
  repeat' first
      | with_reducible assumption | intro _ | with_reducible apply cutShort_kept
      | with_reducible apply discardAll_kept | with_reducible apply settle_kept | with_reducible apply onFab_kept
      | with_reducible apply forEach_kept | with_reducible apply bumpBy_kept | dsimp only [id]

theorem retireSlice_kept (sl : Slice) (cause : Nat) (d0 : Dev) (hd0 : d0.Kept base) :
    (retireSlice sl cause d0).Kept base := by
  unfold retireSlice
  repeat' first | with_reducible assumption | with_reducible apply discardSlice_kept | with_reducible apply onFab_kept

theorem sliceFault_kept (slice : Slice) (t : SliceTrigger) (d : Dev) (hd : d.Kept base) :
    (sliceFault slice t d).Kept base := by
  unfold sliceFault
  repeat' first
      | with_reducible assumption | with_reducible apply ite_kept | with_reducible apply retireSlice_kept
      | with_reducible apply bump_kept | with_reducible apply bumpBy_kept | split

theorem moveSlice_kept (a b : Slice) (d : Dev) (hd : d.Kept base) : (moveSlice a b d).Kept base := by
  unfold moveSlice
  repeat' first
      | with_reducible assumption | with_reducible apply onFab_kept | dsimp only [id]
      | with_reducible apply Dev.Kept.upd

theorem execRetirementComplete_kept (s : State) (hs : s.dev.Kept base) : Keeps base (execRetirementComplete s) := by
  unfold execRetirementComplete
  first | with_reducible apply does_kept _ _ hs | with_reducible apply doesJudged_kept _ _ hs | skip
  repeat' first
      | with_reducible assumption | intro _ | with_reducible apply moveSlice_kept | with_reducible apply onFab_kept
      | with_reducible apply raise_kept | with_reducible apply arrive_kept | with_reducible apply draw_kept
      | with_reducible apply bump_kept | with_reducible apply setReg_kept | split

theorem execSpareTestPass_kept (s : State) (hs : s.dev.Kept base) : Keeps base (execSpareTestPass s) := by
  unfold execSpareTestPass
  first | with_reducible apply does_kept _ _ hs | with_reducible apply doesJudged_kept _ _ hs | skip
  repeat' first
      | with_reducible assumption | intro _ | with_reducible apply ite_kept | with_reducible apply onFab_kept
      | with_reducible apply arrive_kept | with_reducible apply bump_kept

theorem execSpareTestFailure_kept (s : State) (hs : s.dev.Kept base) : Keeps base (execSpareTestFailure s) := by
  unfold execSpareTestFailure
  first | with_reducible apply does_kept _ _ hs | with_reducible apply doesJudged_kept _ _ hs | skip
  repeat' first
      | with_reducible assumption | intro _ | with_reducible apply onFab_kept | with_reducible apply raise_kept
      | with_reducible apply bump_kept | with_reducible apply setReg_kept | split

theorem startRotation_kept (sl : Slice) (d : Dev) (hd : d.Kept base) : (startRotation sl d).Kept base := by
  unfold startRotation
  repeat' first | with_reducible assumption | with_reducible apply onFab_kept

theorem rotationEnds_kept (w : SliceWork) (i : Slice) (d : Dev) (hd : d.Kept base) :
    (rotationEnds w i d).Kept base := by
  unfold rotationEnds
  repeat' first
      | with_reducible assumption | with_reducible apply moveSlice_kept | with_reducible apply onFab_kept
      | with_reducible apply raise_kept | with_reducible apply arrive_kept | with_reducible apply draw_kept
      | with_reducible apply setReg_kept

end Sys2Proof.Machine
end

