-- ==== Sys2Proof/Laws/Kept/Routing.lean ====
section
/-! SUPPORT. Each function of Machine/Routing.lean keeps what every step keeps. -/

-- one declaration after the other: the package is also compiled as one text, in limited memory
set_option Elab.async false

set_option linter.all false

namespace Sys2Proof.Machine

variable {base : Base}

theorem switchBank_kept (n : Numbering) (d : Dev) (hd : d.Kept base) : (switchBank n d).Kept base := by
  unfold switchBank
  repeat' first | with_reducible assumption | with_reducible apply onFab_kept

theorem clearOldBank_kept (d : Dev) (hd : d.Kept base) : (clearOldBank d).Kept base := by
  unfold clearOldBank
  repeat' first | with_reducible assumption | with_reducible apply onFab_kept

theorem tagAtTalker_kept (m : StreamMatch) (bs : List Byte) (d : Dev) (hd : d.Kept base) :
    (tagAtTalker m bs d).2.Kept base := by
  unfold tagAtTalker
  repeat' first | with_reducible assumption | with_reducible apply setSeq_kept | split

theorem tagAtTalker_pair_kept {m : StreamMatch} {bs : List Byte} {d : Dev} {r0 : _} {d' : Dev} (e : tagAtTalker m bs d =
    (r0, d')) (hd : d.Kept base) : d'.Kept base := by
  have := tagAtTalker_kept m bs d hd
  rw [e] at this
  exact this

theorem dispatchFrame_kept (a : Arrival) (m : StreamMatch) (x0 : Decision) (d : Dev) (hd : d.Kept base) :
    (dispatchFrame a m x0 d).Kept base := by
  unfold dispatchFrame
  repeat' first
      | with_reducible assumption | intro _ | with_reducible apply ite_kept | with_reducible apply tagAtTalker_kept
      | with_reducible apply admitHost_kept | with_reducible apply admitPort_kept
      | with_reducible apply settle_kept | with_reducible apply onFab_kept | with_reducible apply onlyIf_kept
      | with_reducible apply forEach_kept | with_reducible apply bump_kept | split

theorem sendOwn_kept (p : Port) (q : Fin 8) (bs : List Byte) (d : Dev) (hd : d.Kept base) :
    (sendOwn p q bs d).Kept base := by
  unfold sendOwn
  repeat' first | with_reducible assumption | with_reducible apply admitPort_kept | with_reducible apply onFab_kept

theorem learn_kept (p : Port) (mac vlan : Nat) (d : Dev) (hd : d.Kept base) : (learn p mac vlan d).Kept base := by
  unfold learn
  repeat' first
      | with_reducible assumption | with_reducible apply ite_kept | with_reducible apply onFab_kept
      | with_reducible apply bump_kept | split | dsimp only [id]

theorem classArrival_kept (g : GateEntry) (d : Dev) (hd : d.Kept base) : (classArrival g d).Kept base := by
  unfold classArrival
  repeat' first
      | with_reducible assumption | with_reducible apply ite_kept | with_reducible apply bumpWin_kept
      | with_reducible apply bump_kept | split | dsimp only [id] | with_reducible apply Dev.Kept.upd

theorem takeCopy_kept (g : GateEntry) (bs : List Byte) (d : Dev) (hd : d.Kept base) :
    (takeCopy g bs d).2.Kept base := by
  unfold takeCopy
  repeat' first
      | with_reducible assumption | with_reducible apply setSeq_kept | with_reducible apply bumpWin_kept
      | with_reducible apply bump_kept | split

theorem takeCopy_pair_kept {g : GateEntry} {bs : List Byte} {d : Dev} {r0 : _} {d' : Dev} (e : takeCopy g bs d =
    (r0, d')) (hd : d.Kept base) : d'.Kept base := by
  have := takeCopy_kept g bs d hd
  rw [e] at this
  exact this

theorem consumed_kept {p : Port} {bs : List Byte} {f : Dev → Dev} (e : consumed p bs = some f) (d : Dev) (hd
    : d.Kept base) : (f d).Kept base := by
  unfold consumed at e
  dsimp only at e
  repeat' split at e
  all_goals first | (simp only [Option.some.injEq] at e; subst e) | simp at e
  all_goals (repeat' first
      | with_reducible assumption | intro _ | with_reducible apply takePause_kept
      | with_reducible apply takeMacControl_kept | with_reducible apply bump_kept
      | with_reducible apply onlyIf_kept | dsimp only [id])

theorem takeErrored_kept (p : Port) (f : RxFrame) (counter flag : Nat) (d : Dev) (hd : d.Kept base) :
    (takeErrored p f counter flag d).Kept base := by
  unfold takeErrored
  repeat' first
      | with_reducible assumption | with_reducible apply ite_kept | with_reducible apply admitHost_kept
      | with_reducible apply onFab_kept | with_reducible apply draw_kept | with_reducible apply emits_kept
      | with_reducible apply bump_kept

theorem corrupted_kept (p : Port) (bs : List Byte) (d : Dev) (hd : d.Kept base) : (corrupted p bs d).2.Kept base := by
  unfold corrupted
  repeat' first | with_reducible assumption | with_reducible apply draw_kept

theorem corrupted_pair_kept {p : Port} {bs : List Byte} {d : Dev} {r0 : _} {d' : Dev} (e : corrupted p bs d = (r0, d'))
    (hd : d.Kept base) : d'.Kept base := by
  have := corrupted_kept p bs d hd
  rw [e] at this
  exact this

theorem countDecisions_kept (d : Dev) (hd : d.Kept base) : (countDecisions d).Kept base := by
  unfold countDecisions
  repeat' first
      | with_reducible assumption | intro _ | with_reducible apply onlyIf_kept | with_reducible apply countEv_kept

theorem takeGood_kept (p : Port) (bs : List Byte) (e : EngineFault) (d : Dev) (hd : d.Kept base) :
    (takeGood p bs e d).Kept base := by
  unfold takeGood
  repeat' first
      | with_reducible assumption | intro _ | with_reducible apply ite_kept
      | with_reducible apply countDecisions_kept | with_reducible apply corrupted_kept
      | with_reducible apply takeCopy_kept | with_reducible apply classArrival_kept
      | with_reducible apply learn_kept | with_reducible apply dispatchFrame_kept
      | with_reducible apply mismatch_kept | with_reducible apply onlyIf_kept | split

theorem execFrameReceive_kept (p : Port) (f : RxFrame) (e : EngineFault) (s : State) (hs : s.dev.Kept base)
    : Keeps base (execFrameReceive p f e s) := by
  unfold execFrameReceive
  first | with_reducible apply does_kept _ _ hs | with_reducible apply doesJudged_kept _ _ hs | skip
  repeat' first
      | with_reducible assumption | intro _ | with_reducible apply ite_kept | with_reducible apply takeGood_kept
      | with_reducible apply takeErrored_kept | (with_reducible apply consumed_kept ; with_reducible assumption)
      | with_reducible apply countGood_kept | split

end Sys2Proof.Machine
end

