-- ==== Sys2Proof/Laws/Kept/Egress.lean ====
section
/-! SUPPORT. Each function of Machine/Egress.lean keeps what every step keeps. -/

-- one declaration after the other: the package is also compiled as one text, in limited memory
set_option Elab.async false

set_option linter.all false

namespace Sys2Proof.Machine

variable {base : Base}

theorem setCredit_kept (p : Port) (c : Int) (t : Nat) (d : Dev) (hd : d.Kept base) :
    (setCredit p c t d).Kept base := by
  unfold setCredit
  repeat' first | with_reducible assumption | dsimp only [id] | with_reducible apply Dev.Kept.upd

theorem holdCredit_kept (p : Port) (d : Dev) (hd : d.Kept base) : (holdCredit p d).Kept base := by
  unfold holdCredit
  repeat' first | with_reducible assumption | with_reducible apply setCredit_kept

theorem resumeCredit_kept (p : Port) (t : Nat) (d : Dev) (hd : d.Kept base) : (resumeCredit p t d).Kept base := by
  unfold resumeCredit
  repeat' first | with_reducible assumption | with_reducible apply setCredit_kept

theorem startFrame_kept (p : Port) (q : Fin 8) (f : QFrame) (d : Dev) (hd : d.Kept base) :
    (startFrame p q f d).Kept base := by
  unfold startFrame
  repeat' first
      | with_reducible assumption | intro _ | with_reducible apply setCredit_kept
      | with_reducible apply settle_kept | with_reducible apply setQueue_kept | with_reducible apply onFab_kept
      | with_reducible apply bumpWin_kept | with_reducible apply storeTxStamp_kept
      | with_reducible apply onPort_kept | with_reducible apply onlyIf_kept | with_reducible apply countEv_kept
      | with_reducible apply emit_kept | with_reducible apply bump64_kept | with_reducible apply bump_kept | split

theorem discardLaunch_kept (p : Port) (q : Fin 8) (f : QFrame) (d : Dev) (hd : d.Kept base) :
    (discardLaunch p q f d).Kept base := by
  unfold discardLaunch
  repeat' first
      | with_reducible assumption | with_reducible apply settle_kept | with_reducible apply setQueue_kept
      | with_reducible apply bump_kept

theorem awaitIdle_kept (p : Port) (d : Dev) (hd : d.Kept base) : (awaitIdle p d).Kept base := by
  unfold awaitIdle
  repeat' first | with_reducible assumption | with_reducible apply settlePause_kept | with_reducible apply arrive_kept

theorem serveHead_kept (p : Port) (q : Fin 8) (d : Dev) (hd : d.Kept base) : (serveHead p q d).Kept base := by
  unfold serveHead
  repeat' first
      | with_reducible assumption | with_reducible apply ite_kept | with_reducible apply discardLaunch_kept
      | with_reducible apply startFrame_kept | with_reducible apply bump_kept | split

theorem execEgressSend_kept (p : Port) (q : Fin 8) (s : State) (hs : s.dev.Kept base) : Keeps base
    (execEgressSend p q s) := by
  unfold execEgressSend
  first | with_reducible apply does_kept _ _ hs | with_reducible apply doesJudged_kept _ _ hs | skip
  repeat' first
      | with_reducible assumption | intro _ | with_reducible apply ite_kept | with_reducible apply serveHead_kept
      | with_reducible apply awaitIdle_kept

theorem execLaunchTime_kept (p : Port) (q : Fin 8) (s : State) (hs : s.dev.Kept base) : Keeps base
    (execLaunchTime p q s) := by
  unfold execLaunchTime
  first | with_reducible apply does_kept _ _ hs | with_reducible apply doesJudged_kept _ _ hs | skip
  repeat' first
      | with_reducible assumption | intro _ | with_reducible apply ite_kept | with_reducible apply awaitIdle_kept
      | with_reducible apply startFrame_kept | with_reducible apply arriveTrain_kept | split

theorem execLaunchLateDiscard_kept (p : Port) (q : Fin 8) (s : State) (hs : s.dev.Kept base) : Keeps base
    (execLaunchLateDiscard p q s) := by
  unfold execLaunchLateDiscard
  first | with_reducible apply does_kept _ _ hs | with_reducible apply doesJudged_kept _ _ hs | skip
  repeat' first
      | with_reducible assumption | intro _ | with_reducible apply ite_kept
      | with_reducible apply discardLaunch_kept | with_reducible apply arriveTrain_kept | split

end Sys2Proof.Machine
end

