-- ==== Sys2Proof/Laws/Kept/Time.lean ====
section
/-! SUPPORT. Each function of Machine/Time.lean keeps what every step keeps. -/

-- one declaration after the other: the package is also compiled as one text, in limited memory
set_option Elab.async false

set_option linter.all false

namespace Sys2Proof.Machine

variable {base : Base}

theorem sendPtp_kept (p : Port) (m : PtpMsg) (d : Dev) (hd : d.Kept base) : (sendPtp p m d).Kept base := by
  unfold sendPtp
  repeat' first
      | with_reducible assumption | with_reducible apply ite_kept | with_reducible apply sendOwn_kept
      | with_reducible apply draw_kept | with_reducible apply emit_kept

theorem ptpHeard_kept (p : Port) (type : Nat) (f : Dev → Dev) (d : Dev) (hf : ∀  (d : Dev), d.Kept base →
    (f  d).Kept base) (hd : d.Kept base) : (ptpHeard p type f d).Kept base := by
  unfold ptpHeard
  repeat' first
      | with_reducible assumption | with_reducible apply ite_kept | with_reducible apply hf
      | with_reducible apply countGood_kept

theorem assignRoles_kept (slave : Option Port) (sent : AnnounceMsg) (d : Dev) (hd : d.Kept base) :
    (assignRoles slave sent d).Kept base := by
  unfold assignRoles
  repeat' first
      | with_reducible assumption | dsimp only [id] | with_reducible apply Dev.Kept.upd_time
      | with_reducible apply Dev.Kept.time | with_reducible apply TimeS.Bounded.intro
      | with_reducible apply TimeS.Bounded.raw | with_reducible apply TimeS.Bounded.step

theorem disarm_kept (d : Dev) (hd : d.Kept base) : (disarm d).Kept base := by
  unfold disarm
  repeat' first
      | with_reducible assumption | with_reducible apply raise_kept | with_reducible apply bump_kept | split
      | dsimp only [id] | with_reducible apply Dev.Kept.upd_time | with_reducible apply Dev.Kept.time
      | with_reducible apply TimeS.Bounded.intro | with_reducible apply TimeS.Bounded.raw
      | with_reducible apply TimeS.Bounded.step

theorem enterHoldover_kept (d : Dev) (hd : d.Kept base) : (enterHoldover d).Kept base := by
  unfold enterHoldover
  repeat' first
      | with_reducible assumption | with_reducible apply setTimeState_kept | with_reducible apply raise_kept
      | with_reducible apply bump_kept | dsimp only [id] | with_reducible apply Dev.Kept.upd_time
      | with_reducible apply Dev.Kept.time | with_reducible apply TimeS.Bounded.intro
      | with_reducible apply TimeS.Bounded.raw | with_reducible apply TimeS.Bounded.step

theorem noteGm_kept (gm : BitVec 64) (d : Dev) (hd : d.Kept base) : (noteGm gm d).Kept base := by
  unfold noteGm
  repeat' first
      | with_reducible assumption | with_reducible apply ite_kept | with_reducible apply raise_kept
      | with_reducible apply bump_kept | dsimp only [id] | with_reducible apply Dev.Kept.upd_time
      | with_reducible apply Dev.Kept.time | with_reducible apply TimeS.Bounded.intro
      | with_reducible apply TimeS.Bounded.raw | with_reducible apply TimeS.Bounded.step

theorem onMasters_kept (m : PtpMsg) (d : Dev) (hd : d.Kept base) : (onMasters m d).Kept base := by
  unfold onMasters
  repeat' first
      | with_reducible assumption | intro _ | with_reducible apply sendPtp_kept | with_reducible apply forEach_kept

theorem sendAnnounce_kept (d : Dev) (hd : d.Kept base) : (sendAnnounce d).Kept base := by
  unfold sendAnnounce
  repeat' first | with_reducible assumption | with_reducible apply onMasters_kept | split

theorem sendSync_kept (d : Dev) (hd : d.Kept base) : (sendSync d).Kept base := by
  unfold sendSync
  repeat' first
      | with_reducible assumption | with_reducible apply ite_kept | with_reducible apply onMasters_kept
      | dsimp only [id] | with_reducible apply Dev.Kept.upd_time | with_reducible apply Dev.Kept.time
      | with_reducible apply TimeS.Bounded.intro | with_reducible apply TimeS.Bounded.raw
      | with_reducible apply TimeS.Bounded.step

theorem becomeGrandmaster_kept (d : Dev) (hd : d.Kept base) : (becomeGrandmaster d).Kept base := by
  unfold becomeGrandmaster
  repeat' first
      | with_reducible assumption | with_reducible apply ite_kept | with_reducible apply sendSync_kept
      | with_reducible apply sendAnnounce_kept | with_reducible apply noteGm_kept
      | with_reducible apply disarm_kept | with_reducible apply assignRoles_kept
      | with_reducible apply setTimeState_kept | dsimp only [id] | with_reducible apply Dev.Kept.upd_time
      | with_reducible apply Dev.Kept.time | with_reducible apply TimeS.Bounded.intro
      | with_reducible apply TimeS.Bounded.raw | with_reducible apply TimeS.Bounded.step

theorem ppsOff_kept (d : Dev) (hd : d.Kept base) : (ppsOff d).Kept base := by
  unfold ppsOff
  repeat' first
      | with_reducible assumption | split | dsimp only [id] | with_reducible apply Dev.Kept.upd_time
      | with_reducible apply Dev.Kept.time | with_reducible apply TimeS.Bounded.intro
      | with_reducible apply TimeS.Bounded.raw | with_reducible apply TimeS.Bounded.step

theorem followMaster_kept (p : Port) (a : AnnounceMsg) (d : Dev) (hd : d.Kept base) :
    (followMaster p a d).Kept base := by
  unfold followMaster
  repeat' first
      | with_reducible assumption | with_reducible apply ite_kept | with_reducible apply ppsOff_kept
      | with_reducible apply noteGm_kept | with_reducible apply enterHoldover_kept
      | with_reducible apply disarm_kept | with_reducible apply assignRoles_kept | split | dsimp only [id]
      | with_reducible apply Dev.Kept.upd_time | with_reducible apply Dev.Kept.time
      | with_reducible apply TimeS.Bounded.intro | with_reducible apply TimeS.Bounded.raw
      | with_reducible apply TimeS.Bounded.step

theorem runBmca_kept (d : Dev) (hd : d.Kept base) : (runBmca d).Kept base := by
  unfold runBmca
  repeat' first
      | with_reducible assumption | with_reducible apply ite_kept | with_reducible apply followMaster_kept
      | with_reducible apply becomeGrandmaster_kept | split

theorem holdListeners_kept (d : Dev) (hd : d.Kept base) : (holdListeners d).Kept base := by
  unfold holdListeners
  repeat' first
      | with_reducible assumption | with_reducible apply Dev.Kept.upd

theorem armStep_kept (rx : Nat) (off : Int) (d : Dev) (hd : d.Kept base) : (armStep rx off d).Kept base := by
  unfold armStep
  repeat' first
      | with_reducible assumption | with_reducible apply holdListeners_kept | with_reducible apply setTimeState_kept | split | dsimp only [id]
      | with_reducible apply Dev.Kept.upd_time | with_reducible apply Dev.Kept.time
      | with_reducible apply TimeS.Bounded.intro | with_reducible apply TimeS.Bounded.raw
      | with_reducible apply TimeS.Bounded.step

theorem countLock_kept (off : Int) (d : Dev) (hd : d.Kept base) : (countLock off d).Kept base := by
  unfold countLock
  repeat' first
      | with_reducible assumption | with_reducible apply ite_kept | with_reducible apply setTimeState_kept
      | with_reducible apply servoRate_kept | with_reducible apply raise_kept | split | dsimp only [id]
      | with_reducible apply Dev.Kept.upd_time | with_reducible apply Dev.Kept.time
      | with_reducible apply TimeS.Bounded.intro | with_reducible apply TimeS.Bounded.raw
      | with_reducible apply TimeS.Bounded.step

theorem atSync_kept (rx : Nat) (off : Int) (d : Dev) (hd : d.Kept base) : (atSync rx off d).Kept base := by
  unfold atSync
  repeat' first
      | with_reducible assumption | with_reducible apply ite_kept | with_reducible apply countLock_kept
      | with_reducible apply armStep_kept | with_reducible apply disarm_kept | with_reducible apply stepAll_kept
      | with_reducible apply setTimeState_kept | split | dsimp only [id] | with_reducible apply Dev.Kept.upd_time
      | with_reducible apply Dev.Kept.time | with_reducible apply TimeS.Bounded.intro
      | with_reducible apply TimeS.Bounded.raw | with_reducible apply TimeS.Bounded.step

theorem releaseQ6_kept (d : Dev) (hd : d.Kept base) : (releaseQ6 d).Kept base := by
  unfold releaseQ6
  repeat' first
      | with_reducible assumption | intro _ | with_reducible apply pushFrame_kept
      | with_reducible apply setQueue_kept | with_reducible apply forEach_kept

theorem enterFence_kept (d : Dev) (hd : d.Kept base) : (enterFence d).Kept base := by
  unfold enterFence
  repeat' first
      | with_reducible assumption | with_reducible apply ite_kept | with_reducible apply releaseQ6_kept
      | with_reducible apply raise_kept | with_reducible apply bump_kept | dsimp only [id]
      | with_reducible apply Dev.Kept.upd

theorem fenceAtSync_kept (off : Int) (d : Dev) (hd : d.Kept base) : (fenceAtSync off d).Kept base := by
  unfold fenceAtSync
  repeat' first
      | with_reducible assumption | with_reducible apply ite_kept | with_reducible apply enterFence_kept
      | dsimp only [id] | with_reducible apply Dev.Kept.upd

theorem takeSync_kept (p : Port) (seq : BitVec 16) (gm : BitVec 64) (origin : Int) (rx : Nat) (d : Dev) (hd
    : d.Kept base) : (takeSync p seq gm origin rx d).Kept base := by
  unfold takeSync
  repeat' first
      | with_reducible assumption | with_reducible apply ite_kept | with_reducible apply fenceAtSync_kept
      | with_reducible apply atSync_kept | with_reducible apply onMasters_kept | with_reducible apply draw_kept
      | with_reducible apply bump_kept | dsimp only [id] | with_reducible apply Dev.Kept.upd_time
      | with_reducible apply Dev.Kept.time | with_reducible apply TimeS.Bounded.intro
      | with_reducible apply TimeS.Bounded.raw | with_reducible apply TimeS.Bounded.step

theorem takeIdent_kept (p : Port) (d : Dev) (hd : d.Kept base) : (takeIdent p d).2.Kept base := by
  unfold takeIdent
  repeat' first | with_reducible assumption | with_reducible apply onPortTime_kept

theorem takeIdent_pair_kept {p : Port} {d : Dev} {r0 : _} {d' : Dev} (e : takeIdent p d = (r0, d')) (hd : d.Kept base)
    : d'.Kept base := by
  have := takeIdent_kept p d hd
  rw [e] at this
  exact this

theorem sendPdelay_kept (p : Port) (d : Dev) (hd : d.Kept base) : (sendPdelay p d).Kept base := by
  unfold sendPdelay
  repeat' first
      | with_reducible assumption | with_reducible apply sendPtp_kept | with_reducible apply onPortTime_kept
      | dsimp only [id] | with_reducible apply Dev.Kept.upd_time | with_reducible apply Dev.Kept.time
      | with_reducible apply TimeS.Bounded.intro | with_reducible apply TimeS.Bounded.raw
      | with_reducible apply TimeS.Bounded.step

theorem timePortUp_kept (p : Port) (d : Dev) (hd : d.Kept base) : (timePortUp p d).Kept base := by
  unfold timePortUp
  repeat' first
      | with_reducible assumption | with_reducible apply ite_kept | with_reducible apply sendPdelay_kept
      | with_reducible apply onPortTime_kept

theorem timePortDown_kept (p : Port) (d : Dev) (hd : d.Kept base) : (timePortDown p d).Kept base := by
  unfold timePortDown
  repeat' first
      | with_reducible assumption | with_reducible apply onPortTime_kept | split | dsimp only [id]
      | with_reducible apply Dev.Kept.upd_time | with_reducible apply Dev.Kept.time
      | with_reducible apply TimeS.Bounded.intro | with_reducible apply TimeS.Bounded.raw
      | with_reducible apply TimeS.Bounded.step

theorem timeControlStop_kept (d : Dev) (hd : d.Kept base) : (timeControlStop d).Kept base := by
  unfold timeControlStop
  repeat' first | with_reducible assumption | with_reducible apply enterHoldover_kept | split

theorem ppsLow_kept (d : Dev) (hd : d.Kept base) : (ppsLow d).Kept base := by
  unfold ppsLow
  repeat' first
      | with_reducible assumption | split | dsimp only [id] | with_reducible apply Dev.Kept.upd_time
      | with_reducible apply Dev.Kept.time | with_reducible apply TimeS.Bounded.intro
      | with_reducible apply TimeS.Bounded.raw | with_reducible apply TimeS.Bounded.step

theorem applyTime_kept (old : Dev) (d : Dev) (hold : old.Kept base) (hd : d.Kept base) :
    (applyTime old d).Kept base := by
  unfold applyTime
  repeat' first
      | with_reducible assumption | intro _ | with_reducible apply ite_kept
      | with_reducible apply timePortDown_kept | with_reducible apply timePortUp_kept
      | with_reducible apply ppsOff_kept | with_reducible apply ppsLow_kept | with_reducible apply forEach_kept

theorem timeRoundStart_kept (revealed : List Port) (d : Dev) (hd : d.Kept base) :
    (timeRoundStart revealed d).Kept base := by
  unfold timeRoundStart
  repeat' first
      | with_reducible assumption | dsimp only [id] | with_reducible apply Dev.Kept.upd_time
      | with_reducible apply Dev.Kept.time | with_reducible apply TimeS.Bounded.intro
      | with_reducible apply TimeS.Bounded.raw | with_reducible apply TimeS.Bounded.step

theorem timeStandardHold_kept (revealed : List Port) (d : Dev) (hd : d.Kept base) :
    (timeStandardHold revealed d).Kept base := by
  unfold timeStandardHold
  repeat' first
      | with_reducible assumption | dsimp only [id] | with_reducible apply Dev.Kept.upd_time
      | with_reducible apply Dev.Kept.time | with_reducible apply TimeS.Bounded.intro
      | with_reducible apply TimeS.Bounded.raw | with_reducible apply TimeS.Bounded.step

theorem timeHoldEnd_kept (d : Dev) (hd : d.Kept base) : (timeHoldEnd d).Kept base := by
  unfold timeHoldEnd
  repeat' first
      | with_reducible assumption | with_reducible apply runBmca_kept | with_reducible apply sendSync_kept
      | with_reducible apply sendAnnounce_kept | dsimp only [id] | with_reducible apply Dev.Kept.upd_time
      | with_reducible apply Dev.Kept.time | with_reducible apply TimeS.Bounded.intro
      | with_reducible apply TimeS.Bounded.raw | with_reducible apply TimeS.Bounded.step

theorem timeEpochSwitch_kept (d : Dev) (hd : d.Kept base) : (timeEpochSwitch d).Kept base := by
  unfold timeEpochSwitch
  repeat' first
      | with_reducible assumption | with_reducible apply timeHoldEnd_kept | with_reducible apply enterHoldover_kept
      | with_reducible apply disarm_kept | split | dsimp only [id] | with_reducible apply Dev.Kept.upd_time
      | with_reducible apply Dev.Kept.time | with_reducible apply TimeS.Bounded.intro
      | with_reducible apply TimeS.Bounded.raw | with_reducible apply TimeS.Bounded.step

theorem applyTevt_kept (d : Dev) (hd : d.Kept base) : (applyTevt d).Kept base := by
  unfold applyTevt
  repeat' first
      | with_reducible assumption | with_reducible apply ite_kept | with_reducible apply bump_kept | split
      | dsimp only [id] | with_reducible apply Dev.Kept.upd_time | with_reducible apply Dev.Kept.time
      | with_reducible apply TimeS.Bounded.intro | with_reducible apply TimeS.Bounded.raw
      | with_reducible apply TimeS.Bounded.step

theorem requestedStep_kept (amount : Int) (d : Dev) (hd : d.Kept base) : (requestedStep amount d).Kept base := by
  unfold requestedStep
  repeat' first
      | with_reducible assumption | with_reducible apply stepAll_kept | with_reducible apply bump_kept
      | dsimp only [id] | with_reducible apply Dev.Kept.upd_time | with_reducible apply Dev.Kept.time
      | with_reducible apply TimeS.Bounded.intro | with_reducible apply TimeS.Bounded.raw
      | with_reducible apply TimeS.Bounded.step

theorem execSync_kept (p : Port) (seq : BitVec 16) (gm : BitVec 64) (twoStep : Bool) (origin : Int) (s : State) (hs
    : s.dev.Kept base) : Keeps base (execSync p seq gm twoStep origin s) := by
  unfold execSync
  first | with_reducible apply does_kept _ _ hs | with_reducible apply doesJudged_kept _ _ hs | skip
  repeat' first
      | with_reducible assumption | intro _ | with_reducible apply ite_kept | with_reducible apply takeSync_kept
      | with_reducible apply ptpHeard_kept | dsimp only [id] | with_reducible apply Dev.Kept.upd_time
      | with_reducible apply Dev.Kept.time | with_reducible apply TimeS.Bounded.intro
      | with_reducible apply TimeS.Bounded.raw | with_reducible apply TimeS.Bounded.step

theorem execFollowUp_kept (p : Port) (seq : BitVec 16) (origin : Int) (s : State) (hs : s.dev.Kept base)
    : Keeps base (execFollowUp p seq origin s) := by
  unfold execFollowUp
  first | with_reducible apply does_kept _ _ hs | with_reducible apply doesJudged_kept _ _ hs | skip
  repeat' first
      | with_reducible assumption | intro _ | with_reducible apply ite_kept | with_reducible apply takeSync_kept
      | with_reducible apply ptpHeard_kept | split | dsimp only [id] | with_reducible apply Dev.Kept.upd_time
      | with_reducible apply Dev.Kept.time | with_reducible apply TimeS.Bounded.intro
      | with_reducible apply TimeS.Bounded.raw | with_reducible apply TimeS.Bounded.step

theorem execAnnounce_kept (p : Port) (a : AnnounceMsg) (s : State) (hs : s.dev.Kept base) : Keeps base
    (execAnnounce p a s) := by
  unfold execAnnounce
  first | with_reducible apply does_kept _ _ hs | with_reducible apply doesJudged_kept _ _ hs | skip
  repeat' first
      | with_reducible assumption | intro _ | with_reducible apply ite_kept | with_reducible apply runBmca_kept
      | with_reducible apply sendAnnounce_kept | with_reducible apply ptpHeard_kept
      | with_reducible apply onPortTime_kept | dsimp only [id] | with_reducible apply Dev.Kept.upd_time
      | with_reducible apply Dev.Kept.time | with_reducible apply TimeS.Bounded.intro
      | with_reducible apply TimeS.Bounded.raw | with_reducible apply TimeS.Bounded.step

theorem execPdelayReq_kept (p : Port) (seq : BitVec 16) (s : State) (hs : s.dev.Kept base) : Keeps base
    (execPdelayReq p seq s) := by
  unfold execPdelayReq
  first | with_reducible apply does_kept _ _ hs | with_reducible apply doesJudged_kept _ _ hs | skip
  repeat' first
      | with_reducible assumption | intro _ | with_reducible apply ite_kept | with_reducible apply ptpHeard_kept
      | with_reducible apply sendPtp_kept | with_reducible apply draw_kept

theorem execPdelayResp_kept (p : Port) (seq : BitVec 16) (roundTripPs turnaroundPs : BitVec 48) (ratioPpt : Int) (s
    : State) (hs : s.dev.Kept base) : Keeps base (execPdelayResp p seq roundTripPs turnaroundPs ratioPpt s) := by
  unfold execPdelayResp
  first | with_reducible apply does_kept _ _ hs | with_reducible apply doesJudged_kept _ _ hs | skip
  repeat' first
      | with_reducible assumption | intro _ | with_reducible apply ite_kept | with_reducible apply ptpHeard_kept
      | with_reducible apply onPortTime_kept

theorem execPdelayInterval_kept (p : Port) (s : State) (hs : s.dev.Kept base) : Keeps base
    (execPdelayInterval p s) := by
  unfold execPdelayInterval
  first | with_reducible apply does_kept _ _ hs | with_reducible apply doesJudged_kept _ _ hs | skip
  repeat' first
      | with_reducible assumption | intro _ | with_reducible apply ite_kept | with_reducible apply sendPdelay_kept
      | with_reducible apply arrive_kept | split

theorem execSyncInterval_kept (s : State) (hs : s.dev.Kept base) : Keeps base (execSyncInterval s) := by
  unfold execSyncInterval
  first | with_reducible apply does_kept _ _ hs | with_reducible apply doesJudged_kept _ _ hs | skip
  repeat' first | with_reducible assumption | intro _ | with_reducible apply sendSync_kept

theorem execAnnounceInterval_kept (s : State) (hs : s.dev.Kept base) : Keeps base (execAnnounceInterval s) := by
  unfold execAnnounceInterval
  first | with_reducible apply does_kept _ _ hs | with_reducible apply doesJudged_kept _ _ hs | skip
  repeat' first | with_reducible assumption | intro _ | with_reducible apply sendAnnounce_kept

theorem execSyncReceiptTimeout_kept (s : State) (hs : s.dev.Kept base) : Keeps base (execSyncReceiptTimeout s) := by
  unfold execSyncReceiptTimeout
  first | with_reducible apply does_kept _ _ hs | with_reducible apply doesJudged_kept _ _ hs | skip
  repeat' first
      | with_reducible assumption | intro _ | with_reducible apply enterHoldover_kept
      | with_reducible apply arrive_kept | with_reducible apply bump_kept | split | dsimp only [id]
      | with_reducible apply Dev.Kept.upd_time | with_reducible apply Dev.Kept.time
      | with_reducible apply TimeS.Bounded.intro | with_reducible apply TimeS.Bounded.raw
      | with_reducible apply TimeS.Bounded.step

theorem execAnnounceReceiptTimeout_kept (s : State) (hs : s.dev.Kept base) : Keeps base
    (execAnnounceReceiptTimeout s) := by
  unfold execAnnounceReceiptTimeout
  first | with_reducible apply does_kept _ _ hs | with_reducible apply doesJudged_kept _ _ hs | skip
  repeat' first
      | with_reducible assumption | intro _ | with_reducible apply ite_kept | with_reducible apply runBmca_kept
      | with_reducible apply enterHoldover_kept | with_reducible apply onPortTime_kept
      | with_reducible apply arrive_kept | with_reducible apply bump_kept | split | dsimp only [id]
      | with_reducible apply Dev.Kept.upd_time | with_reducible apply Dev.Kept.time
      | with_reducible apply TimeS.Bounded.intro | with_reducible apply TimeS.Bounded.raw
      | with_reducible apply TimeS.Bounded.step

theorem execStepPoint_kept (s : State) (hs : s.dev.Kept base) : Keeps base (execStepPoint s) := by
  unfold execStepPoint
  first | with_reducible apply does_kept _ _ hs | with_reducible apply doesJudged_kept _ _ hs | skip
  repeat' first
      | with_reducible assumption | intro _ | with_reducible apply ite_kept
      | with_reducible apply enterHoldover_kept | with_reducible apply stepAll_kept
      | with_reducible apply setTimeState_kept | with_reducible apply arriveTrain_kept
      | with_reducible apply bump_kept | split | dsimp only [id] | with_reducible apply Dev.Kept.upd_time
      | with_reducible apply Dev.Kept.time | with_reducible apply TimeS.Bounded.intro
      | with_reducible apply TimeS.Bounded.raw | with_reducible apply TimeS.Bounded.step

theorem execHoldoverLimit_kept (s : State) (hs : s.dev.Kept base) : Keeps base (execHoldoverLimit s) := by
  unfold execHoldoverLimit
  first | with_reducible apply does_kept _ _ hs | with_reducible apply doesJudged_kept _ _ hs | skip
  repeat' first
      | with_reducible assumption | intro _ | with_reducible apply ite_kept | with_reducible apply raise_kept
      | with_reducible apply arrive_kept | split | dsimp only [id] | with_reducible apply Dev.Kept.upd_time
      | with_reducible apply Dev.Kept.time | with_reducible apply TimeS.Bounded.intro
      | with_reducible apply TimeS.Bounded.raw | with_reducible apply TimeS.Bounded.step

theorem execRoundHoldEnd_kept (s : State) (hs : s.dev.Kept base) : Keeps base (execRoundHoldEnd s) := by
  unfold execRoundHoldEnd
  first | with_reducible apply does_kept _ _ hs | with_reducible apply doesJudged_kept _ _ hs | skip
  repeat' first
      | with_reducible assumption | intro _ | with_reducible apply timeHoldEnd_kept
      | with_reducible apply arrive_kept | split

theorem execPpsOutPulse_kept (s : State) (hs : s.dev.Kept base) : Keeps base (execPpsOutPulse s) := by
  unfold execPpsOutPulse
  first | with_reducible apply does_kept _ _ hs | with_reducible apply doesJudged_kept _ _ hs | skip
  repeat' first
      | with_reducible assumption | intro _ | with_reducible apply ite_kept | with_reducible apply arriveTrain_kept
      | dsimp only [id] | with_reducible apply Dev.Kept.upd_time | with_reducible apply Dev.Kept.time
      | with_reducible apply TimeS.Bounded.intro | with_reducible apply TimeS.Bounded.raw
      | with_reducible apply TimeS.Bounded.step

theorem execPpsOutPulseEnd_kept (s : State) (hs : s.dev.Kept base) : Keeps base (execPpsOutPulseEnd s) := by
  unfold execPpsOutPulseEnd
  first | with_reducible apply does_kept _ _ hs | with_reducible apply doesJudged_kept _ _ hs | skip
  repeat' first
      | with_reducible assumption | intro _ | with_reducible apply arrive_kept | split | dsimp only [id]
      | with_reducible apply Dev.Kept.upd_time | with_reducible apply Dev.Kept.time
      | with_reducible apply TimeS.Bounded.intro | with_reducible apply TimeS.Bounded.raw
      | with_reducible apply TimeS.Bounded.step

theorem execTevtOutPulse_kept (s : State) (hs : s.dev.Kept base) : Keeps base (execTevtOutPulse s) := by
  unfold execTevtOutPulse
  first | with_reducible apply does_kept _ _ hs | with_reducible apply doesJudged_kept _ _ hs | skip
  repeat' first
      | with_reducible assumption | intro _ | with_reducible apply arriveTrain_kept | split | dsimp only [id]
      | with_reducible apply Dev.Kept.upd_time | with_reducible apply Dev.Kept.time
      | with_reducible apply TimeS.Bounded.intro | with_reducible apply TimeS.Bounded.raw
      | with_reducible apply TimeS.Bounded.step

theorem execTevtOutPulseEnd_kept (s : State) (hs : s.dev.Kept base) : Keeps base (execTevtOutPulseEnd s) := by
  unfold execTevtOutPulseEnd
  first | with_reducible apply does_kept _ _ hs | with_reducible apply doesJudged_kept _ _ hs | skip
  repeat' first
      | with_reducible assumption | intro _ | with_reducible apply arrive_kept | split | dsimp only [id]
      | with_reducible apply Dev.Kept.upd_time | with_reducible apply Dev.Kept.time
      | with_reducible apply TimeS.Bounded.intro | with_reducible apply TimeS.Bounded.raw
      | with_reducible apply TimeS.Bounded.step

theorem captureEdge_kept (inp : CapInput) (rising : Bool) (d : Dev) (hd : d.Kept base) :
    (captureEdge inp rising d).Kept base := by
  unfold captureEdge
  repeat' first
      | with_reducible assumption | with_reducible apply ite_kept | with_reducible apply noteOverflow_kept
      | with_reducible apply bump_kept | split | dsimp only [id] | with_reducible apply Dev.Kept.upd_time
      | with_reducible apply Dev.Kept.time | with_reducible apply TimeS.Bounded.intro
      | with_reducible apply TimeS.Bounded.raw | with_reducible apply TimeS.Bounded.step

theorem execCaptureEdge_kept (inp : CapInput) (rising : Bool) (s : State) (hs : s.dev.Kept base) : Keeps base
    (execCaptureEdge inp rising s) := by
  unfold execCaptureEdge
  first | with_reducible apply does_kept _ _ hs | with_reducible apply doesJudged_kept _ _ hs | skip
  repeat' first
      | with_reducible assumption | intro _ | with_reducible apply ite_kept | with_reducible apply captureEdge_kept
      | with_reducible apply servoRate_kept | with_reducible apply onlyIf_kept | with_reducible apply snapshot_kept
      | with_reducible apply countEv_kept | split | dsimp only [id] | with_reducible apply Dev.Kept.upd_time
      | with_reducible apply Dev.Kept.time | with_reducible apply TimeS.Bounded.intro
      | with_reducible apply TimeS.Bounded.raw | with_reducible apply TimeS.Bounded.step

theorem execPpsInLoss_kept (s : State) (hs : s.dev.Kept base) : Keeps base (execPpsInLoss s) := by
  unfold execPpsInLoss
  first | with_reducible apply does_kept _ _ hs | with_reducible apply doesJudged_kept _ _ hs | skip
  repeat' first
      | with_reducible assumption | intro _ | with_reducible apply ite_kept | with_reducible apply raise_kept
      | with_reducible apply arrive_kept | split | dsimp only [id] | with_reducible apply Dev.Kept.upd_time
      | with_reducible apply Dev.Kept.time | with_reducible apply TimeS.Bounded.intro
      | with_reducible apply TimeS.Bounded.raw | with_reducible apply TimeS.Bounded.step

theorem execPpsInHoldoverLimit_kept (s : State) (hs : s.dev.Kept base) : Keeps base (execPpsInHoldoverLimit s) := by
  unfold execPpsInHoldoverLimit
  first | with_reducible apply does_kept _ _ hs | with_reducible apply doesJudged_kept _ _ hs | skip
  repeat' first
      | with_reducible assumption | intro _ | with_reducible apply arrive_kept | split | dsimp only [id]
      | with_reducible apply Dev.Kept.upd_time | with_reducible apply Dev.Kept.time
      | with_reducible apply TimeS.Bounded.intro | with_reducible apply TimeS.Bounded.raw
      | with_reducible apply TimeS.Bounded.step

end Sys2Proof.Machine
end

