-- ==== Sys2Proof/Laws/Kept/Images.lean ====
section
/-! SUPPORT. Each function of Machine/Images.lean keeps what every step keeps. -/

-- one declaration after the other: the package is also compiled as one text, in limited memory
set_option Elab.async false

set_option linter.all false

namespace Sys2Proof.Machine

variable {base : Base}

theorem refuseSignature_kept (d : Dev) (hd : d.Kept base) : (refuseSignature d).Kept base := by
  unfold refuseSignature
  repeat' first | with_reducible assumption | with_reducible apply raise_kept | with_reducible apply bump_kept

theorem CfgCopy.seal_values (c : CfgCopy) : c.seal.values = c.values := by
  cases c
  simp only [CfgCopy.seal]

theorem CfgCopy.seal_tables (c : CfgCopy) : c.seal.tables = c.tables := by
  cases c
  simp only [CfgCopy.seal]

theorem CfgCopy.seal_values_wf (c : CfgCopy) (h : Store.wf odDefault c.values = true) :
    Store.wf odDefault c.seal.values = true := by
  rw [CfgCopy.seal_values]
  exact h

theorem CfgCopy.seal_tables_wf (c : CfgCopy) (h : Memory.wf c.tables = true) : Memory.wf c.seal.tables = true := by
  rw [CfgCopy.seal_tables]
  exact h

theorem copy0_kept (d : Dev) (c : CfgCopy) (hd : d.Kept base) (hv : Store.wf odDefault c.values = true)
    (ht : Memory.wf c.tables = true) : ({ d with dict := { d.dict with copy0 := c } } : Dev).Kept base :=
  ⟨⟨hd.1.1, hd.1.2.1, hv, ht, hd.1.2.2.2.2⟩, hd.2⟩

theorem copy1_kept (d : Dev) (c : CfgCopy) (hd : d.Kept base) (hv : Store.wf odDefault c.values = true)
    (ht : Memory.wf c.tables = true) : ({ d with dict := { d.dict with copy1 := c } } : Dev).Kept base :=
  ⟨⟨hd.1.1, hd.1.2.1, hd.1.2.2.1, hd.1.2.2.2.1, hv, ht⟩, hd.2⟩

theorem saveCopy_kept (d : Dev) (hd : d.Kept base) : (saveCopy d).Kept base := by
  have ho : Store.wf odDefault (d.dict.od.filter (fun x => isStored x.1)) = true := Store.filter_wf _ _ hd.dict.od
  have hm : Memory.wf (savedTables d) = true := Store.filter_wf _ _ hd.dict.mem
  unfold saveCopy
  dsimp only
  generalize hc : CfgCopy.seal _ = c
  have hv : Store.wf odDefault c.values = true := hc ▸ CfgCopy.seal_values_wf _ ho
  have ht : Memory.wf c.tables = true := hc ▸ CfgCopy.seal_tables_wf _ hm
  split
  exacts [copy1_kept d c hd hv ht, copy0_kept d c hd hv ht]

end Sys2Proof.Machine
end

