-- ==== Sys2Proof/Laws/Kept/Schedule.lean ====
section
/-! SUPPORT. Each function of Machine/Schedule.lean keeps what every step keeps. -/

-- one declaration after the other: the package is also compiled as one text, in limited memory
set_option Elab.async false

set_option linter.all false

namespace Sys2Proof.Machine

variable {base : Base}

theorem onSched_kept (f : SchedS → SchedS) (d : Dev) (hd : d.Kept base) : (onSched f d).Kept base := by
  unfold onSched
  repeat' first | with_reducible assumption | with_reducible apply Dev.Kept.upd

theorem reportDropped_kept (l : List Nat) (d : Dev) (hd : d.Kept base) : (reportDropped l d).Kept base := by
  unfold reportDropped
  repeat' first
      | with_reducible assumption | intro _ | with_reducible apply forEach_kept | with_reducible apply raiseP_kept
      | with_reducible apply bump_kept

theorem builtGates_kept (n : Numbering) (d : Dev) (hd : d.Kept base) : (builtGates n d).2.Kept base := by
  unfold builtGates
  repeat' first | with_reducible assumption | with_reducible apply reportDropped_kept | split

theorem builtGates_pair_kept {n : Numbering} {d : Dev} {r0 : _} {d' : Dev} (e : builtGates n d = (r0, d')) (hd
    : d.Kept base) : d'.Kept base := by
  have := builtGates_kept n d hd
  rw [e] at this
  exact this

theorem switchGates_kept (gates : List GateEntry) (d : Dev) (hd : d.Kept base) : (switchGates gates d).Kept base := by
  unfold switchGates
  repeat' first
      | with_reducible assumption | intro _ | with_reducible apply onSched_kept
      | with_reducible apply discardAll_kept | with_reducible apply raise_kept | with_reducible apply bump_kept

theorem closeWindows_kept (d : Dev) (hd : d.Kept base) : (closeWindows d).Kept base := by
  unfold closeWindows
  repeat' first | with_reducible assumption | with_reducible apply onSched_kept

theorem dropQ6_kept (d : Dev) (hd : d.Kept base) : (dropQ6 d).Kept base := by
  unfold dropQ6
  repeat' first | with_reducible assumption | intro _ | with_reducible apply discardAll_kept | dsimp only [id]

theorem startGateBuild_kept (d : Dev) (hd : d.Kept base) : (startGateBuild d).Kept base := by
  unfold startGateBuild
  repeat' first | with_reducible assumption | with_reducible apply ite_kept | with_reducible apply onSched_kept

theorem schedEpochSwitch_kept (d : Dev) (hd : d.Kept base) : (schedEpochSwitch d).Kept base := by
  unfold schedEpochSwitch
  repeat' first | with_reducible assumption | with_reducible apply onSched_kept

theorem execGateBankBuilt_kept (s : State) (hs : s.dev.Kept base) : Keeps base (execGateBankBuilt s) := by
  unfold execGateBankBuilt
  first | with_reducible apply does_kept _ _ hs | with_reducible apply doesJudged_kept _ _ hs | skip
  repeat' first
      | with_reducible assumption | intro _ | with_reducible apply ite_kept | with_reducible apply builtGates_kept
      | with_reducible apply onSched_kept

theorem sendDist_kept (p : Port) (kind identity generation activation number crc : Nat) (data : List Byte) (d : Dev)
    (hd : d.Kept base) : (sendDist p kind identity generation activation number crc data d).Kept base := by
  unfold sendDist
  repeat' first | with_reducible assumption | with_reducible apply sendOwn_kept | with_reducible apply emit_kept

theorem sendOffers_kept (p : Port) (d : Dev) (hd : d.Kept base) : (sendOffers p d).Kept base := by
  unfold sendOffers
  repeat' first
      | with_reducible assumption | intro _ | with_reducible apply ite_kept | with_reducible apply sendDist_kept
      | with_reducible apply forEach_kept

theorem offerAll_kept (d : Dev) (hd : d.Kept base) : (offerAll d).Kept base := by
  unfold offerAll
  repeat' first
      | with_reducible assumption | intro _ | with_reducible apply sendOffers_kept
      | with_reducible apply forEach_kept

theorem adoptImage_kept (img : SchedImage) (d : Dev) (hd : d.Kept base) : (adoptImage img d).Kept base := by
  unfold adoptImage
  repeat' first
      | with_reducible assumption | with_reducible apply offerAll_kept | with_reducible apply onSched_kept
      | with_reducible apply raise_kept | with_reducible apply bump_kept

theorem forceImage_kept (i : SchedImage) (d : Dev) (hd : d.Kept base) : (forceImage i d).Kept base := by
  unfold forceImage
  repeat' first
      | with_reducible assumption | with_reducible apply offerAll_kept | with_reducible apply onSched_kept
      | with_reducible apply raise_kept

theorem switchToBuilt_kept (d : Dev) (hd : d.Kept base) : (switchToBuilt d).Kept base := by
  unfold switchToBuilt
  repeat' first
      | with_reducible assumption | with_reducible apply switchGates_kept | with_reducible apply builtGates_kept
      | with_reducible apply onSched_kept

theorem execGateSwitchBoundary_kept (s : State) (hs : s.dev.Kept base) : Keeps base (execGateSwitchBoundary s) := by
  unfold execGateSwitchBoundary
  first | with_reducible apply does_kept _ _ hs | with_reducible apply doesJudged_kept _ _ hs | skip
  repeat' first
      | with_reducible assumption | intro _ | with_reducible apply ite_kept
      | with_reducible apply switchToBuilt_kept | with_reducible apply forceImage_kept
      | with_reducible apply switchGates_kept | with_reducible apply arriveTrain_kept | split | dsimp only [id]

theorem atCycleBoundary_kept (d : Dev) (hd : d.Kept base) : (atCycleBoundary d).Kept base := by
  unfold atCycleBoundary
  repeat' first
      | with_reducible assumption | with_reducible apply ite_kept | with_reducible apply switchToBuilt_kept
      | with_reducible apply dropQ6_kept | with_reducible apply closeWindows_kept
      | with_reducible apply switchGates_kept | with_reducible apply onSched_kept
      | with_reducible apply enterFence_kept | with_reducible apply raise_kept | split

theorem execCycleBoundary_kept (s : State) (hs : s.dev.Kept base) : Keeps base (execCycleBoundary s) := by
  unfold execCycleBoundary
  first | with_reducible apply does_kept _ _ hs | with_reducible apply doesJudged_kept _ _ hs | skip
  repeat' first
      | with_reducible assumption | intro _ | with_reducible apply ite_kept
      | with_reducible apply atCycleBoundary_kept | with_reducible apply arriveTrain_kept

theorem execActivationBoundary_kept (s : State) (hs : s.dev.Kept base) : Keeps base (execActivationBoundary s) := by
  unfold execActivationBoundary
  first | with_reducible apply does_kept _ _ hs | with_reducible apply doesJudged_kept _ _ hs | skip
  repeat' first
      | with_reducible assumption | intro _ | with_reducible apply switchToBuilt_kept
      | with_reducible apply forceImage_kept | with_reducible apply closeWindows_kept
      | with_reducible apply onSched_kept | with_reducible apply raise_kept | with_reducible apply arriveTrain_kept
      | split | dsimp only [id]

theorem dropStale_kept (p : Port) (n cycle : Nat) (d : Dev) (hd : d.Kept base) :
    (dropStale p n cycle d).Kept base := by
  induction n generalizing d with
  | zero => exact hd
  | succ n ih =>
    unfold dropStale
    repeat' first
        | with_reducible assumption | with_reducible apply ite_kept | with_reducible apply ih
        | with_reducible apply bumpWin_kept | with_reducible apply bump_kept | with_reducible apply settle_kept
        | with_reducible apply setQueue_kept | split

theorem execWindowOpen_kept (p : Port) (window : BitVec 16) (s : State) (hs : s.dev.Kept base) : Keeps base
    (execWindowOpen p window s) := by
  unfold execWindowOpen
  first | with_reducible apply does_kept _ _ hs | with_reducible apply doesJudged_kept _ _ hs | skip
  repeat' first
      | with_reducible assumption | intro _ | with_reducible apply ite_kept | with_reducible apply dropStale_kept
      | with_reducible apply onSched_kept | with_reducible apply holdCredit_kept
      | with_reducible apply arriveTrain_kept | split

theorem execWindowHardClose_kept (p : Port) (s : State) (hs : s.dev.Kept base) : Keeps base
    (execWindowHardClose p s) := by
  unfold execWindowHardClose
  first | with_reducible apply does_kept _ _ hs | with_reducible apply doesJudged_kept _ _ hs | skip
  repeat' first
      | with_reducible assumption | intro _ | with_reducible apply onSched_kept
      | with_reducible apply resumeCredit_kept | with_reducible apply bumpWin_kept
      | with_reducible apply arriveTrain_kept | with_reducible apply bump_kept | split

theorem execReceiveEntryClose_kept (p : Port) (window : BitVec 16) (s : State) (hs : s.dev.Kept base) : Keeps base
    (execReceiveEntryClose p window s) := by
  unfold execReceiveEntryClose
  first | with_reducible apply does_kept _ _ hs | with_reducible apply doesJudged_kept _ _ hs | skip
  repeat' first
      | with_reducible assumption | intro _ | with_reducible apply ite_kept | with_reducible apply onSched_kept
      | with_reducible apply bumpWin_kept | with_reducible apply arriveTrain_kept
      | with_reducible apply countEv_kept | with_reducible apply bump_kept | split

theorem execSequenceHistoryReset_kept (window : BitVec 16) (s : State) (hs : s.dev.Kept base) : Keeps base
    (execSequenceHistoryReset window s) := by
  unfold execSequenceHistoryReset
  first | with_reducible apply does_kept _ _ hs | with_reducible apply doesJudged_kept _ _ hs | skip
  repeat' first
      | with_reducible assumption | intro _ | with_reducible apply setSeq_kept | with_reducible apply arrive_kept
      | split | dsimp only [id]

theorem execHoldoverFenceTime_kept (s : State) (hs : s.dev.Kept base) : Keeps base (execHoldoverFenceTime s) := by
  unfold execHoldoverFenceTime
  first | with_reducible apply does_kept _ _ hs | with_reducible apply doesJudged_kept _ _ hs | skip
  repeat' first
      | with_reducible assumption | intro _ | with_reducible apply enterFence_kept
      | with_reducible apply arrive_kept | split

theorem distDrop_kept (d : Dev) (hd : d.Kept base) : (distDrop d).Kept base := by
  unfold distDrop
  repeat' first | with_reducible assumption | with_reducible apply bump_kept

theorem takeDist_kept (p : Port) (kind : Nat) (h : DistHeader) (data : List Byte) (f : Dev → Dev) (d : Dev) (hf : ∀ 
    (d : Dev), d.Kept base → (f  d).Kept base) (hd : d.Kept base) : (takeDist p kind h data f d).Kept base := by
  unfold takeDist
  repeat' first
      | with_reducible assumption | with_reducible apply ite_kept | with_reducible apply hf
      | with_reducible apply distDrop_kept | with_reducible apply countGood_kept

theorem requestChunk_kept (d : Dev) (hd : d.Kept base) : (requestChunk d).Kept base := by
  unfold requestChunk
  repeat' first
      | with_reducible assumption | with_reducible apply sendDist_kept | with_reducible apply onSched_kept | split

theorem execOffer_kept (p : Port) (h : DistHead) (size crc : BitVec 32) (activation : BitVec 64) (s : State)
    (hs : s.dev.Kept base) : Keeps base (execOffer p h size crc activation s) := by
  unfold execOffer
  first | with_reducible apply does_kept _ _ hs | with_reducible apply doesJudged_kept _ _ hs | skip
  repeat' first
      | with_reducible assumption | intro _ | with_reducible apply ite_kept
      | with_reducible apply requestChunk_kept | with_reducible apply takeDist_kept
      | with_reducible apply onSched_kept

theorem execRequest_kept (p : Port) (h : DistHead) (chunk : DistTail) (s : State) (hs : s.dev.Kept base) : Keeps base
    (execRequest p h chunk s) := by
  unfold execRequest
  first | with_reducible apply does_kept _ _ hs | with_reducible apply doesJudged_kept _ _ hs | skip
  repeat' first
      | with_reducible assumption | intro _ | with_reducible apply ite_kept | with_reducible apply takeDist_kept
      | with_reducible apply sendDist_kept | split

theorem execChunk_kept (p : Port) (h : DistHead) (number : DistTail) (data : List Byte) (s : State)
    (hs : s.dev.Kept base) : Keeps base (execChunk p h number data s) := by
  unfold execChunk
  first | with_reducible apply does_kept _ _ hs | with_reducible apply doesJudged_kept _ _ hs | skip
  repeat' first
      | with_reducible assumption | intro _ | with_reducible apply ite_kept
      | with_reducible apply requestChunk_kept | with_reducible apply takeDist_kept
      | with_reducible apply distDrop_kept | with_reducible apply onSched_kept | split

theorem offerPeriodically_kept (t : Nat) (d : Dev) (hd : d.Kept base) : (offerPeriodically t d).Kept base := by
  unfold offerPeriodically
  repeat' first
      | with_reducible assumption | with_reducible apply offerAll_kept | with_reducible apply onSched_kept
      | with_reducible apply arrive_kept

theorem execOfferPeriod_kept (s : State) (hs : s.dev.Kept base) : Keeps base (execOfferPeriod s) := by
  unfold execOfferPeriod
  first | with_reducible apply does_kept _ _ hs | with_reducible apply doesJudged_kept _ _ hs | skip
  repeat' first
      | with_reducible assumption | intro _ | with_reducible apply ite_kept
      | with_reducible apply offerPeriodically_kept | with_reducible apply offerAll_kept
      | with_reducible apply onSched_kept | with_reducible apply arrive_kept | split

theorem execChunkTimeout_kept (s : State) (hs : s.dev.Kept base) : Keeps base (execChunkTimeout s) := by
  unfold execChunkTimeout
  first | with_reducible apply does_kept _ _ hs | with_reducible apply doesJudged_kept _ _ hs | skip
  repeat' first
      | with_reducible assumption | intro _ | with_reducible apply ite_kept
      | with_reducible apply requestChunk_kept | with_reducible apply onSched_kept
      | with_reducible apply arrive_kept | split | dsimp only [id]

theorem scheduleRefused_kept (d : Dev) (hd : d.Kept base) : (execScheduleImageVerified.refuse d).Kept base := by
  unfold execScheduleImageVerified.refuse
  exact raise_kept _ _ _ (bump_kept _ _ _ (onSched_kept _ _ hd))

theorem execScheduleImageVerified_kept (s : State) (hs : s.dev.Kept base) : Keeps base
    (execScheduleImageVerified s) := by
  unfold execScheduleImageVerified
  apply does_kept _ _ hs
  repeat' first
      | with_reducible assumption | intro _ | with_reducible apply ite_kept
      | with_reducible apply scheduleRefused_kept | with_reducible apply adoptImage_kept
      | with_reducible apply onSched_kept | with_reducible apply saveCopy_kept
      | with_reducible apply refuseSignature_kept | with_reducible apply setBytes_kept
      | with_reducible apply onlyIf_kept | split

theorem applySchedSource_kept (source : Nat) (d : Dev) (hd : d.Kept base) :
    (applySchedSource source d).Kept base := by
  unfold applySchedSource
  repeat' first
      | with_reducible assumption | with_reducible apply ite_kept | with_reducible apply dropQ6_kept
      | with_reducible apply closeWindows_kept | with_reducible apply onSched_kept | split

theorem applySchedImage_kept (d : Dev) (hd : d.Kept base) : (applySchedImage d).Kept base := by
  unfold applySchedImage
  repeat' first | with_reducible assumption | with_reducible apply adoptImage_kept | split

theorem bootSched_kept (d : Dev) (hd : d.Kept base) : (bootSched d).Kept base := by
  unfold bootSched
  repeat' first
      | with_reducible assumption | with_reducible apply ite_kept | with_reducible apply applySchedSource_kept
      | with_reducible apply onSched_kept

theorem laneRebuild_kept (oldLane : Port) (p : Port) (d : Dev) (hd : d.Kept base) :
    (laneRebuild oldLane p d).Kept base := by
  unfold laneRebuild
  repeat' first | with_reducible assumption | with_reducible apply ite_kept | with_reducible apply startGateBuild_kept

end Sys2Proof.Machine
end

