-- ==== Sys2Proof/Laws/Kept/Streams.lean ====
section
/-! SUPPORT. Each function of Machine/Streams.lean keeps what every step keeps. -/

-- one declaration after the other: the package is also compiled as one text, in limited memory
set_option Elab.async false

set_option linter.all false

namespace Sys2Proof.Machine

variable {base : Base}

theorem onStrm_kept (f : StreamsS → StreamsS) (d : Dev) (hd : d.Kept base) : (onStrm f d).Kept base := by
  unfold onStrm
  repeat' first | with_reducible assumption | with_reducible apply Dev.Kept.upd

theorem onStream_kept (s : Fin 64) (f : StreamS → StreamS) (d : Dev) (hd : d.Kept base) :
    (onStream s f d).Kept base := by
  unfold onStream
  repeat' first | with_reducible assumption | with_reducible apply onStrm_kept

theorem builtReservations_kept (n : Numbering) (d : Dev) (hd : d.Kept base) :
    (builtReservations n d).2.Kept base := by
  unfold builtReservations
  repeat' first
      | with_reducible assumption | intro _ | with_reducible apply forEach_kept | with_reducible apply raiseP_kept
      | with_reducible apply bump_kept

theorem builtReservations_pair_kept {n : Numbering} {d : Dev} {r0 : _} {d' : Dev} (e : builtReservations n d = (r0, d'))
    (hd : d.Kept base) : d'.Kept base := by
  have := builtReservations_kept n d hd
  rw [e] at this
  exact this

theorem startResBuild_kept (d : Dev) (hd : d.Kept base) : (startResBuild d).Kept base := by
  unfold startResBuild
  repeat' first | with_reducible assumption | with_reducible apply ite_kept | with_reducible apply onStrm_kept

theorem execReservationBankBuilt_kept (s : State) (hs : s.dev.Kept base) : Keeps base
    (execReservationBankBuilt s) := by
  unfold execReservationBankBuilt
  first | with_reducible apply does_kept _ _ hs | with_reducible apply doesJudged_kept _ _ hs | skip
  repeat' first
      | with_reducible assumption | intro _ | with_reducible apply ite_kept
      | with_reducible apply builtReservations_kept | with_reducible apply onStrm_kept

theorem strmEpochSwitch_kept (d : Dev) (hd : d.Kept base) : (strmEpochSwitch d).Kept base := by
  unfold strmEpochSwitch
  repeat' first | with_reducible assumption | with_reducible apply onStrm_kept

theorem execRephaseEnd_kept (s : State) (hs : s.dev.Kept base) : Keeps base (execRephaseEnd s) := by
  unfold execRephaseEnd
  first | with_reducible apply does_kept _ _ hs | with_reducible apply doesJudged_kept _ _ hs | skip
  repeat' first
      | with_reducible assumption | intro _ | with_reducible apply onStrm_kept | with_reducible apply raise_kept
      | with_reducible apply arrive_kept | split

theorem blockToHost_kept (s : Fin 64) (k : Nat) (a : AvtpPacket) (d : Dev) (hd : d.Kept base) :
    (blockToHost s k a d).Kept base := by
  unfold blockToHost
  repeat' first
      | with_reducible assumption | intro _ | with_reducible apply ite_kept | with_reducible apply ringDrop_kept
      | with_reducible apply writeBackOne_kept | with_reducible apply onRing_kept
      | with_reducible apply onlyIf_kept | with_reducible apply emit_kept | split

theorem playAt_kept (s : Fin 64) (k : Nat) (a : AvtpPacket) (d : Dev) (hd : d.Kept base) :
    (playAt s k a d).Kept base := by
  unfold playAt
  repeat' first
      | with_reducible assumption | with_reducible apply ite_kept | with_reducible apply blockToHost_kept
      | with_reducible apply onStream_kept | with_reducible apply emit_kept

theorem muteFrames_kept (s : Fin 64) (n : Nat) (d : Dev) (hd : d.Kept base) : (muteFrames s n d).Kept base := by
  unfold muteFrames
  repeat' first
      | with_reducible assumption | with_reducible apply ite_kept | with_reducible apply emit_kept
      | with_reducible apply bumpBy_kept

theorem fillGap_kept (s : Fin 64) (a : AvtpPacket) (d : Dev) (hd : d.Kept base) : (fillGap s a d).Kept base := by
  unfold fillGap
  repeat' first
      | with_reducible assumption | with_reducible apply ite_kept | with_reducible apply muteFrames_kept
      | with_reducible apply onStream_kept | with_reducible apply bump_kept

theorem noteAccepted_kept (s : Fin 64) (a : AvtpPacket) (d : Dev) (hd : d.Kept base) :
    (noteAccepted s a d).Kept base := by
  unfold noteAccepted
  repeat' first
      | with_reducible assumption | with_reducible apply onStream_kept | with_reducible apply countEv_kept
      | with_reducible apply bump_kept

theorem realign_kept (s : Fin 64) (k : Nat) (a : AvtpPacket) (d : Dev) (hd : d.Kept base) :
    (realign s k a d).Kept base := by
  unfold realign
  repeat' first
      | with_reducible assumption | with_reducible apply muteFrames_kept | with_reducible apply playAt_kept
      | with_reducible apply raise_kept | with_reducible apply bump_kept

theorem listenerTakes_kept (a : AvtpPacket) (s : Fin 64) (d : Dev) (hd : d.Kept base) :
    (listenerTakes a s d).Kept base := by
  unfold listenerTakes
  repeat' first
      | with_reducible assumption | with_reducible apply ite_kept | with_reducible apply realign_kept
      | with_reducible apply noteAccepted_kept | with_reducible apply fillGap_kept
      | with_reducible apply playAt_kept | with_reducible apply onStream_kept | with_reducible apply bump_kept
      | split

theorem takePacket_kept (a : AvtpPacket) (d : Dev) (hd : d.Kept base) : (takePacket a d).Kept base := by
  unfold takePacket
  repeat' first
      | with_reducible assumption | intro _ | with_reducible apply ite_kept
      | with_reducible apply listenerTakes_kept | with_reducible apply forEach_kept
      | with_reducible apply bump_kept

theorem execAvtpPacket_kept (a : AvtpPacket) (s : State) (hs : s.dev.Kept base) : Keeps base
    (execAvtpPacket a s) := by
  unfold execAvtpPacket
  first | with_reducible apply does_kept _ _ hs | with_reducible apply doesJudged_kept _ _ hs | skip
  repeat' first | with_reducible assumption | intro _ | with_reducible apply takePacket_kept

theorem execStreamTimeout_kept (s : Fin 64) (st : State) (hs : st.dev.Kept base) : Keeps base
    (execStreamTimeout s st) := by
  unfold execStreamTimeout
  first | with_reducible apply does_kept _ _ hs | with_reducible apply doesJudged_kept _ _ hs | skip
  repeat' first
      | with_reducible assumption | intro _ | with_reducible apply onStream_kept | with_reducible apply raise_kept
      | with_reducible apply muteFrames_kept | with_reducible apply arrive_kept | split | dsimp only [id]

theorem collectSamples_kept (s : Fin 64) (frames : List (List (BitVec 32))) (d : Dev) (hd : d.Kept base) :
    (collectSamples s frames d).2.2.Kept base := by
  unfold collectSamples
  repeat' first
      | with_reducible assumption | with_reducible apply onStream_kept | with_reducible apply onRing_kept | split

theorem collectSamples_pair_kept (s : Fin 64) (frames : List (List (BitVec 32))) (d : Dev) {r0 : _} {r1 : _} {d' : Dev}
    (e : collectSamples s frames d = (r0, r1, d')) (hd : d.Kept base) : d'.Kept base := by
  have := collectSamples_kept s frames d hd
  rw [e] at this
  exact this

theorem execTalkerPacket_kept (s : Fin 64) (frames : List (List (BitVec 32))) (st : State) (hs : st.dev.Kept base)
    : Keeps base (execTalkerPacket s frames st) := by
  unfold execTalkerPacket
  first | with_reducible apply does_kept _ _ hs | with_reducible apply doesJudged_kept _ _ hs | skip
  repeat' first
      | with_reducible assumption | intro _ | with_reducible apply ite_kept
      | with_reducible apply collectSamples_kept | with_reducible apply takePacket_kept
      | with_reducible apply onStream_kept | with_reducible apply dispatchFrame_kept
      | with_reducible apply countEv_kept | with_reducible apply bump_kept

theorem talkerAtBoundary_kept (s : Fin 64) (d : Dev) (hd : d.Kept base) : (talkerAtBoundary s d).Kept base := by
  unfold talkerAtBoundary
  repeat' first
      | with_reducible assumption | with_reducible apply ite_kept | with_reducible apply onStream_kept | split

theorem switchReservations_kept (b : List ResPlaced) (d : Dev) (hd : d.Kept base) :
    (switchReservations b d).Kept base := by
  unfold switchReservations
  repeat' first
      | with_reducible assumption | intro _ | with_reducible apply talkerAtBoundary_kept
      | with_reducible apply onStrm_kept | with_reducible apply discardAll_kept | with_reducible apply forEach_kept
      | with_reducible apply raise_kept | with_reducible apply bump_kept

theorem execStreamSwitchBoundary_kept (s : State) (hs : s.dev.Kept base) : Keeps base
    (execStreamSwitchBoundary s) := by
  unfold execStreamSwitchBoundary
  first | with_reducible apply does_kept _ _ hs | with_reducible apply doesJudged_kept _ _ hs | skip
  repeat' first
      | with_reducible assumption | intro _ | with_reducible apply ite_kept
      | with_reducible apply switchReservations_kept | with_reducible apply builtReservations_kept
      | with_reducible apply onStrm_kept | with_reducible apply arriveTrain_kept | split | dsimp only [id]

theorem applyStream_kept (s : Fin 64) (d : Dev) (hd : d.Kept base) : (applyStream s d).Kept base := by
  unfold applyStream
  repeat' first
      | with_reducible assumption | with_reducible apply ite_kept | with_reducible apply onStream_kept
      | with_reducible apply emit_kept

theorem applyStreams_kept (d : Dev) (hd : d.Kept base) : (applyStreams d).Kept base := by
  unfold applyStreams
  repeat' first
      | with_reducible assumption | intro _ | with_reducible apply applyStream_kept
      | with_reducible apply onStrm_kept | with_reducible apply forEach_kept

theorem streamsOff_kept (d : Dev) (hd : d.Kept base) : (streamsOff d).Kept base := by
  unfold streamsOff
  repeat' first | with_reducible assumption | with_reducible apply onStrm_kept

end Sys2Proof.Machine
end

