-- ==== Sys2Proof/Laws/Kept/CanOps.lean ====
section
/-! SUPPORT. Each function of Machine/CanOps.lean keeps what every step keeps. -/

-- one declaration after the other: the package is also compiled as one text, in limited memory
set_option Elab.async false

set_option linter.all false

namespace Sys2Proof.Machine

variable {base : Base}

theorem onCan_kept (c : CanId) (f : CanCtl → CanCtl) (d : Dev) (hd : d.Kept base) : (onCan c f d).Kept base := by
  unfold onCan
  repeat' first | with_reducible assumption | with_reducible apply Dev.Kept.upd

theorem setObj_kept (c : CanId) (o : Nat) (x : CanObj) (d : Dev) (hd : d.Kept base) : (setObj c o x d).Kept base := by
  unfold setObj
  repeat' first | with_reducible assumption | with_reducible apply onCan_kept

theorem canInt_kept (c : CanId) (d : Dev) (hd : d.Kept base) : (canInt c d).Kept base := by
  unfold canInt
  repeat' first | with_reducible assumption | with_reducible apply setInt_kept

theorem attend_kept (c : CanId) (o : Nat) (d : Dev) (hd : d.Kept base) : (attend c o d).Kept base := by
  unfold attend
  repeat' first
      | with_reducible assumption | intro _ | with_reducible apply canInt_kept | with_reducible apply onlyIf_kept

theorem finishObj_kept (c : CanId) (o status : Nat) (d : Dev) (hd : d.Kept base) :
    (finishObj c o status d).Kept base := by
  unfold finishObj
  repeat' first | with_reducible assumption | with_reducible apply attend_kept | with_reducible apply setObj_kept

theorem requestObj_kept (c : CanId) (o : Nat) (d : Dev) (hd : d.Kept base) : (requestObj c o d).Kept base := by
  unfold requestObj
  repeat' first | with_reducible assumption | with_reducible apply setObj_kept

theorem cancelObj_kept (c : CanId) (o : Nat) (d : Dev) (hd : d.Kept base) : (cancelObj c o d).Kept base := by
  unfold cancelObj
  repeat' first
      | with_reducible assumption | with_reducible apply ite_kept | with_reducible apply finishObj_kept
      | with_reducible apply setObj_kept

theorem ackObj_kept (c : CanId) (o : Nat) (d : Dev) (hd : d.Kept base) : (ackObj c o d).Kept base := by
  unfold ackObj
  repeat' first | with_reducible assumption | with_reducible apply ite_kept | with_reducible apply setObj_kept

theorem setCanState_kept (c : CanId) (st : CanState) (d : Dev) (hd : d.Kept base) :
    (setCanState c st d).Kept base := by
  unfold setCanState
  repeat' first
      | with_reducible assumption | with_reducible apply ite_kept | with_reducible apply canInt_kept
      | with_reducible apply onCan_kept

theorem setAlone_kept (c : CanId) (b : Bool) (d : Dev) (hd : d.Kept base) : (setAlone c b d).Kept base := by
  unfold setAlone
  repeat' first
      | with_reducible assumption | with_reducible apply ite_kept | with_reducible apply canInt_kept
      | with_reducible apply onCan_kept

theorem judgeErrors_kept (c : CanId) (d : Dev) (hd : d.Kept base) : (judgeErrors c d).Kept base := by
  unfold judgeErrors
  repeat' first
      | with_reducible assumption | with_reducible apply ite_kept | with_reducible apply setCanState_kept
      | with_reducible apply finishObj_kept | with_reducible apply onCan_kept | with_reducible apply raise_kept
      | with_reducible apply bump_kept | split

theorem noteCanError_kept (c : CanId) (k : CanErrorKind) (dataPhase : Bool) (d : Dev) (hd : d.Kept base) :
    (noteCanError c k dataPhase d).Kept base := by
  unfold noteCanError
  repeat' first
      | with_reducible assumption | with_reducible apply countEv_kept | with_reducible apply bump_kept
      | with_reducible apply setReg_kept

theorem protocolException_kept (c : CanId) (d : Dev) (hd : d.Kept base) : (protocolException c d).Kept base := by
  unfold protocolException
  repeat' first
      | with_reducible assumption | with_reducible apply ite_kept | with_reducible apply onCan_kept
      | with_reducible apply raise_kept | with_reducible apply bump_kept

theorem recAfterFrame_kept (c : CanId) (d : Dev) (hd : d.Kept base) : (recAfterFrame c d).Kept base := by
  unfold recAfterFrame
  repeat' first
      | with_reducible assumption | with_reducible apply ite_kept | with_reducible apply onCan_kept
      | with_reducible apply draw_kept

theorem canStart_kept (c : CanId) (d : Dev) (hd : d.Kept base) : (canStart c d).Kept base := by
  unfold canStart
  repeat' first
      | with_reducible assumption | with_reducible apply ite_kept | with_reducible apply setAlone_kept
      | with_reducible apply setCanState_kept | with_reducible apply onCan_kept | with_reducible apply setReg_kept

theorem abortObjs_kept (c : CanId) (d : Dev) (hd : d.Kept base) : (abortObjs c d).Kept base := by
  unfold abortObjs
  repeat' first
      | with_reducible assumption | intro _ | with_reducible apply finishObj_kept
      | with_reducible apply forEach_kept

theorem canOff_kept (c : CanId) (d : Dev) (hd : d.Kept base) : (canOff c d).Kept base := by
  unfold canOff
  repeat' first
      | with_reducible assumption | with_reducible apply abortObjs_kept | with_reducible apply setAlone_kept
      | with_reducible apply setCanState_kept | with_reducible apply onCan_kept

theorem finishLeaving_kept (c : CanId) (d : Dev) (hd : d.Kept base) : (finishLeaving c d).Kept base := by
  unfold finishLeaving
  repeat' first
      | with_reducible assumption | with_reducible apply canOff_kept | with_reducible apply canStart_kept
      | with_reducible apply onCan_kept | split

theorem leaveMode_kept (c : CanId) (again : Bool) (d : Dev) (hd : d.Kept base) : (leaveMode c again d).Kept base := by
  unfold leaveMode
  repeat' first
      | with_reducible assumption | with_reducible apply ite_kept | with_reducible apply finishLeaving_kept
      | with_reducible apply onCan_kept

theorem applyCan_kept (c : CanId) (d : Dev) (hd : d.Kept base) : (applyCan c d).Kept base := by
  unfold applyCan
  repeat' first
      | with_reducible assumption | with_reducible apply ite_kept | with_reducible apply leaveMode_kept
      | with_reducible apply canStart_kept

theorem resetObj_kept (c : CanId) (o : Nat) (d : Dev) (hd : d.Kept base) : (resetObj c o d).Kept base := by
  unfold resetObj
  repeat' first
      | with_reducible assumption | with_reducible apply ite_kept | with_reducible apply setObj_kept
      | with_reducible apply onCan_kept

theorem bootCan_kept (d : Dev) (hd : d.Kept base) : (bootCan d).Kept base := by
  unfold bootCan
  repeat' first
      | with_reducible assumption | intro _ | with_reducible apply canStart_kept | with_reducible apply onCan_kept
      | with_reducible apply forEach_kept

end Sys2Proof.Machine
end

