-- ==== Sys2Proof/Laws/Kept/Checks.lean ====
section
/-! SUPPORT. Each function of Machine/Checks.lean keeps what every step keeps. -/

-- one declaration after the other: the package is also compiled as one text, in limited memory
set_option Elab.async false

set_option linter.all false

namespace Sys2Proof.Machine

variable {base : Base}

theorem setChk_kept (ch : Nat) (x : CheckCh) (d : Dev) (hd : d.Kept base) : (setChk ch x d).Kept base := by
  unfold setChk
  repeat' first
      | with_reducible assumption | with_reducible apply Dev.Kept.upd_chk | with_reducible apply Dev.Kept.chk
      | with_reducible apply Store.put_wf

theorem flagCheck_kept (ch kind : Nat) (d : Dev) (hd : d.Kept base) : (flagCheck ch kind d).Kept base := by
  unfold flagCheck
  repeat' first
      | with_reducible assumption | intro _ | with_reducible apply ite_kept | with_reducible apply setChk_kept
      | with_reducible apply onlyIf_kept | with_reducible apply raiseP_kept | with_reducible apply setInt_kept
      | with_reducible apply countEv_kept | with_reducible apply bump_kept | with_reducible apply setReg_kept

theorem passCheck_kept (ch : Nat) (r : CheckRec) (d : Dev) (hd : d.Kept base) : (passCheck ch r d).Kept base := by
  unfold passCheck
  repeat' first
      | with_reducible assumption | with_reducible apply ite_kept | with_reducible apply setChk_kept
      | with_reducible apply raise_kept | with_reducible apply bump_kept | split | dsimp only [id]

theorem verifyFrame_kept (ch : Nat) (r : CheckRec) (bs : List Byte) (d : Dev) (hd : d.Kept base) :
    (verifyFrame ch r bs d).2.Kept base := by
  unfold verifyFrame
  repeat' first
      | with_reducible assumption | intro _ | with_reducible apply ite_kept | with_reducible apply passCheck_kept
      | with_reducible apply flagCheck_kept | with_reducible apply setChk_kept | with_reducible apply onlyIf_kept
      | with_reducible apply bump_kept | with_reducible apply bumpBy_kept

theorem verifyFrame_pair_kept {ch : Nat} {r : CheckRec} {bs : List Byte} {d : Dev} {r0 : _} {d' : Dev} (e
    : verifyFrame ch r bs d = (r0, d')) (hd : d.Kept base) : d'.Kept base := by
  have := verifyFrame_kept ch r bs d hd
  rw [e] at this
  exact this

theorem verifyAt_kept (telegram : Bool) (ctl unit : Nat) (bs : List Byte) (d : Dev) (hd : d.Kept base) :
    (verifyAt telegram ctl unit bs d).2.Kept base := by
  unfold verifyAt
  repeat' first | with_reducible assumption | with_reducible apply verifyFrame_kept | split

theorem verifyAt_pair_kept {telegram : Bool} {ctl unit : Nat} {bs : List Byte} {d : Dev} {r0 : _} {d' : Dev} (e
    : verifyAt telegram ctl unit bs d = (r0, d')) (hd : d.Kept base) : d'.Kept base := by
  have := verifyAt_kept telegram ctl unit bs d hd
  rw [e] at this
  exact this

theorem protectAt_kept (telegram : Bool) (ctl unit : Nat) (again : Bool) (bs : List Byte) (d : Dev) (hd
    : d.Kept base) : (protectAt telegram ctl unit again bs d).2.Kept base := by
  unfold protectAt
  repeat' first
      | with_reducible assumption | with_reducible apply ite_kept | with_reducible apply setChk_kept
      | with_reducible apply bump_kept | split

theorem protectAt_pair_kept {telegram : Bool} {ctl unit : Nat} {again : Bool} {bs : List Byte} {d : Dev} {r0 : _} {d'
    : Dev} (e : protectAt telegram ctl unit again bs d = (r0, d')) (hd : d.Kept base) : d'.Kept base := by
  have := protectAt_kept telegram ctl unit again bs d hd
  rw [e] at this
  exact this

theorem checkOff_kept (ch : Nat) (d : Dev) (hd : d.Kept base) : (checkOff ch d).Kept base := by
  unfold checkOff
  repeat' first | with_reducible assumption | with_reducible apply setChk_kept

theorem checksOff_kept (d : Dev) (hd : d.Kept base) : (checksOff d).Kept base := by
  unfold checksOff
  repeat' first
      | with_reducible assumption | intro _ | with_reducible apply checkOff_kept
      | with_reducible apply forEach_kept

theorem checkStart_kept (ch : Nat) (r : CheckRec) (d : Dev) (hd : d.Kept base) : (checkStart ch r d).Kept base := by
  unfold checkStart
  repeat' first | with_reducible assumption | with_reducible apply setChk_kept

theorem applyChecks_kept (old : Dev) (d : Dev) (hold : old.Kept base) (hd : d.Kept base) :
    (applyChecks old d).Kept base := by
  unfold applyChecks
  repeat' first
      | with_reducible assumption | intro _ | with_reducible apply ite_kept | with_reducible apply checkStart_kept
      | with_reducible apply checkOff_kept | with_reducible apply forEach_kept

theorem execSilenceReset_kept (ch : Fin 256) (s : State) (hs : s.dev.Kept base) : Keeps base
    (execSilenceReset ch s) := by
  unfold execSilenceReset
  first | with_reducible apply does_kept _ _ hs | with_reducible apply doesJudged_kept _ _ hs | skip
  repeat' first
      | with_reducible assumption | intro _ | with_reducible apply setChk_kept | with_reducible apply arrive_kept
      | split

end Sys2Proof.Machine
end

