-- ==== Sys2Proof/Laws/Kept/Gateway.lean ====
section
/-! SUPPORT. Each function of Machine/Gateway.lean keeps what every step keeps. -/

-- one declaration after the other: the package is also compiled as one text, in limited memory
set_option Elab.async false

set_option linter.all false

namespace Sys2Proof.Machine

variable {base : Base}

theorem onGw_kept (f : GwS → GwS) (d : Dev) (hd : d.Kept base)
    (hf : ∀ g : GwS, Store.wf (fun _ => TxStage.blank) g.stages = true → Store.wf (fun _ => TxStage.blank) (f g).stages = true) :
    (onGw f d).Kept base := ⟨hd.dict, hd.host, hf _ hd.stages, hd.2.2.2⟩

theorem gwLog_kept (kind : Nat) (tag : BitVec 32) (addr chan status : Nat) (canSide : Bool) (epoch : Nat) (d : Dev)
    (hd : d.Kept base) : (gwLog kind tag addr chan status canSide epoch d).Kept base := by
  unfold gwLog
  repeat' first
      | with_reducible assumption | intro _ | with_reducible apply ite_kept | with_reducible apply onGw_kept
      | with_reducible apply raiseP_kept | with_reducible apply bump_kept

theorem setStage_kept (c : CanId) (o : Nat) (t : TxStage) (d : Dev) (hd : d.Kept base) :
    (setStage c o t d).Kept base := by
  unfold setStage
  repeat' first
      | with_reducible assumption | intro _ | with_reducible apply onGw_kept | dsimp only [id]
      | with_reducible apply Store.put_wf

theorem gwSendNow_kept (c : CanId) (o : Nat) (d : Dev) (hd : d.Kept base) : (gwSendNow c o d).Kept base := by
  unfold gwSendNow
  repeat' first
      | with_reducible assumption | with_reducible apply ite_kept | with_reducible apply setStage_kept
      | with_reducible apply protectAt_kept | with_reducible apply setObj_kept

theorem gwStage_kept (c : CanId) (o : Nat) (data : List Byte) (d : Dev) (hd : d.Kept base) :
    (gwStage c o data d).Kept base := by
  unfold gwStage
  repeat' first
      | with_reducible assumption | with_reducible apply ite_kept | with_reducible apply gwSendNow_kept
      | with_reducible apply setStage_kept

theorem gwPut_kept (c : CanId) (o : Nat) (data : List Byte) (d : Dev) (hd : d.Kept base) :
    (gwPut c o data d).Kept base := by
  unfold gwPut
  repeat' first | with_reducible assumption | with_reducible apply gwSendNow_kept | with_reducible apply setStage_kept

theorem gwToCan_kept (k : Nat) (write : SignalMap → List Byte → List Byte) (d : Dev) (hd : d.Kept base) :
    (gwToCan k write d).Kept base := by
  unfold gwToCan
  repeat' first
      | with_reducible assumption | intro _ | with_reducible apply gwStage_kept | with_reducible apply forEach_kept

theorem onTele_kept (k : Fin 64) (f : Telegram → Telegram) (d : Dev) (hd : d.Kept base) :
    (onTele k f d).Kept base := by
  unfold onTele
  repeat' first | with_reducible assumption | intro _ | with_reducible apply onGw_kept

theorem sendTrdp_kept (m : TrdpOut) (d : Dev) (hd : d.Kept base) : (sendTrdp m d).Kept base := by
  unfold sendTrdp
  repeat' first | with_reducible assumption | with_reducible apply dispatchFrame_kept | with_reducible apply emit_kept

theorem sendTele_kept (k : Fin 64) (d : Dev) (hd : d.Kept base) : (sendTele k d).Kept base := by
  unfold sendTele
  repeat' first
      | with_reducible assumption | with_reducible apply sendTrdp_kept | with_reducible apply onTele_kept
      | with_reducible apply protectAt_kept | with_reducible apply countEv_kept | with_reducible apply bump_kept
      | split

theorem execTelegramDue_kept (k : Fin 64) (s : State) (hs : s.dev.Kept base) : Keeps base (execTelegramDue k s) := by
  unfold execTelegramDue
  first | with_reducible apply does_kept _ _ hs | with_reducible apply doesJudged_kept _ _ hs | skip
  repeat' first
      | with_reducible assumption | intro _ | with_reducible apply ite_kept | with_reducible apply sendTele_kept
      | with_reducible apply onTele_kept | with_reducible apply arriveTrain_kept

theorem execCanObjectDue_kept (c : CanId) (o : Fin 126) (s : State) (hs : s.dev.Kept base) : Keeps base
    (execCanObjectDue c o s) := by
  unfold execCanObjectDue
  first | with_reducible apply does_kept _ _ hs | with_reducible apply doesJudged_kept _ _ hs | skip
  repeat' first
      | with_reducible assumption | intro _ | with_reducible apply ite_kept | with_reducible apply gwSendNow_kept
      | with_reducible apply setStage_kept | with_reducible apply arriveTrain_kept

theorem execPdTelegram_kept (m : TrdpMsg) (s : State) (hs : s.dev.Kept base) : Keeps base (execPdTelegram m s) := by
  unfold execPdTelegram
  first | with_reducible apply does_kept _ _ hs | with_reducible apply doesJudged_kept _ _ hs | skip
  repeat' first
      | with_reducible assumption | intro _ | with_reducible apply ite_kept | with_reducible apply onTele_kept
      | with_reducible apply gwToCan_kept | with_reducible apply verifyAt_kept | with_reducible apply bump_kept
      | split

theorem execTelegramTimeout_kept (k : Fin 64) (s : State) (hs : s.dev.Kept base) : Keeps base
    (execTelegramTimeout k s) := by
  unfold execTelegramTimeout
  first | with_reducible apply does_kept _ _ hs | with_reducible apply doesJudged_kept _ _ hs | skip
  repeat' first
      | with_reducible assumption | intro _ | with_reducible apply onTele_kept | with_reducible apply gwToCan_kept
      | with_reducible apply gwLog_kept | with_reducible apply arrive_kept | with_reducible apply bump_kept | split

theorem onChan_kept (n : Fin 32) (f : GwChan → GwChan) (d : Dev) (hd : d.Kept base) : (onChan n f d).Kept base := by
  unfold onChan
  repeat' first | with_reducible assumption | intro _ | with_reducible apply onGw_kept

theorem sendMd_kept (ip port msgType comId topo : Nat) (session : BitVec 128) (replyStatus : Int) (data : List Byte)
    (d : Dev) (hd : d.Kept base) : (sendMd ip port msgType comId topo session replyStatus data d).Kept base := by
  unfold sendMd
  repeat' first | with_reducible assumption | with_reducible apply sendTrdp_kept | with_reducible apply draw_kept

theorem answerTxn_kept (n : Fin 32) (t : Txn) (status : Nat) (data : List Byte) (d : Dev) (hd : d.Kept base) :
    (answerTxn n t status data d).Kept base := by
  unfold answerTxn
  repeat' first
      | with_reducible assumption | with_reducible apply ite_kept | with_reducible apply sendMd_kept
      | with_reducible apply gwPut_kept | with_reducible apply gwLog_kept | with_reducible apply bump_kept | split

theorem postedFails_kept (n : Fin 32) (t : Txn) (status : Nat) (d : Dev) (hd : d.Kept base) :
    (postedFails n t status d).Kept base := by
  unfold postedFails
  repeat' first | with_reducible assumption | with_reducible apply gwLog_kept | with_reducible apply bump_kept

theorem closeChan_kept (n : Fin 32) (d : Dev) (hd : d.Kept base) : (closeChan n d).Kept base := by
  unfold closeChan
  repeat' first | with_reducible assumption | with_reducible apply onChan_kept

theorem failTxn_kept (n : Fin 32) (status : Nat) (d : Dev) (hd : d.Kept base) : (failTxn n status d).Kept base := by
  unfold failTxn
  repeat' first
      | with_reducible assumption | with_reducible apply ite_kept | with_reducible apply closeChan_kept
      | with_reducible apply postedFails_kept | with_reducible apply answerTxn_kept | split

theorem discardCache_kept (n : Fin 32) (bad : CacheEntry → Bool) (d : Dev) (hd : d.Kept base) :
    (discardCache n bad d).Kept base := by
  unfold discardCache
  repeat' first
      | with_reducible assumption | intro _ | with_reducible apply onChan_kept | with_reducible apply gwLog_kept
      | with_reducible apply forEach_kept | with_reducible apply bump_kept

theorem nextFetch_kept (n : Fin 32) (d : Dev) (hd : d.Kept base) : (nextFetch n d).Kept base := by
  unfold nextFetch
  repeat' first
      | with_reducible assumption | with_reducible apply onChan_kept | with_reducible apply gwPut_kept
      | with_reducible apply bump_kept | split

theorem openBackbone_kept (n : Fin 32) (t : Txn) (d : Dev) (hd : d.Kept base) : (openBackbone n t d).Kept base := by
  unfold openBackbone
  repeat' first
      | with_reducible assumption | with_reducible apply ite_kept | with_reducible apply discardCache_kept
      | with_reducible apply failTxn_kept | with_reducible apply answerTxn_kept | with_reducible apply onChan_kept
      | with_reducible apply gwPut_kept | with_reducible apply bump_kept | split

theorem serveWaiting_kept (n : Fin 32) (d : Dev) (hd : d.Kept base) : (serveWaiting n d).Kept base := by
  unfold serveWaiting
  repeat' first
      | with_reducible assumption | with_reducible apply openBackbone_kept | with_reducible apply onChan_kept
      | split

theorem fetchEnds_kept (n : Fin 32) (got : Option (List Byte)) (d : Dev) (hd : d.Kept base) :
    (fetchEnds n got d).Kept base := by
  unfold fetchEnds
  repeat' first
      | with_reducible assumption | with_reducible apply serveWaiting_kept | with_reducible apply nextFetch_kept
      | with_reducible apply onChan_kept | split

theorem takeBackbone_kept (n : Fin 32) (t : Txn) (d : Dev) (hd : d.Kept base) : (takeBackbone n t d).Kept base := by
  unfold takeBackbone
  repeat' first
      | with_reducible assumption | with_reducible apply ite_kept | with_reducible apply openBackbone_kept
      | with_reducible apply answerTxn_kept | with_reducible apply onChan_kept | split

theorem execMrRequest_kept (m : TrdpMsg) (s : State) (hs : s.dev.Kept base) : Keeps base (execMrRequest m s) := by
  unfold execMrRequest
  first | with_reducible apply does_kept _ _ hs | with_reducible apply doesJudged_kept _ _ hs | skip
  repeat' first
      | with_reducible assumption | intro _ | with_reducible apply ite_kept
      | with_reducible apply takeBackbone_kept | with_reducible apply answerTxn_kept
      | with_reducible apply bump_kept | split

theorem execMnNotification_kept (m : TrdpMsg) (s : State) (hs : s.dev.Kept base) : Keeps base
    (execMnNotification m s) := by
  unfold execMnNotification
  first | with_reducible apply does_kept _ _ hs | with_reducible apply doesJudged_kept _ _ hs | skip
  repeat' first
      | with_reducible assumption | intro _ | with_reducible apply ite_kept
      | with_reducible apply takeBackbone_kept | with_reducible apply answerTxn_kept
      | with_reducible apply bump_kept | split

theorem canReply_kept (c : CanId) (o : Nat) (bs : List Byte) (d : Dev) (hd : d.Kept base) :
    (canReply c o bs d).Kept base := by
  unfold canReply
  repeat' first
      | with_reducible assumption | with_reducible apply ite_kept | with_reducible apply fetchEnds_kept
      | with_reducible apply nextFetch_kept | with_reducible apply closeChan_kept
      | with_reducible apply answerTxn_kept | with_reducible apply onChan_kept | with_reducible apply gwLog_kept
      | with_reducible apply bump_kept | split | dsimp only [id]

theorem canRequest_kept (n : Fin 32) (bs : List Byte) (d : Dev) (hd : d.Kept base) :
    (canRequest n bs d).Kept base := by
  unfold canRequest
  repeat' first
      | with_reducible assumption | with_reducible apply ite_kept | with_reducible apply failTxn_kept
      | with_reducible apply closeChan_kept | with_reducible apply answerTxn_kept
      | with_reducible apply sendMd_kept | with_reducible apply onChan_kept | with_reducible apply draw_kept
      | with_reducible apply bump_kept | split

theorem gwFromCan_kept (c : CanId) (o : Nat) (bs : List Byte) (d : Dev) (hd : d.Kept base) :
    (gwFromCan c o bs d).Kept base := by
  unfold gwFromCan
  repeat' first
      | with_reducible assumption | intro _ | with_reducible apply ite_kept | with_reducible apply onTele_kept
      | with_reducible apply forEach_kept | with_reducible apply Dev.Kept.upd

theorem gwHeld_kept (c : CanId) (o : Nat) (d : Dev) (hd : d.Kept base) : (gwHeld c o d).Kept base := by
  unfold gwHeld
  repeat' first
      | with_reducible assumption | intro _ | with_reducible apply ite_kept | with_reducible apply gwFromCan_kept
      | with_reducible apply canRequest_kept | with_reducible apply canReply_kept
      | with_reducible apply verifyAt_kept | with_reducible apply ackObj_kept | with_reducible apply forEach_kept

theorem gwDone_kept (c : CanId) (o : Nat) (d : Dev) (hd : d.Kept base) : (gwDone c o d).Kept base := by
  unfold gwDone
  repeat' first
      | with_reducible assumption | intro _ | with_reducible apply ite_kept | with_reducible apply fetchEnds_kept
      | with_reducible apply failTxn_kept | with_reducible apply closeChan_kept
      | with_reducible apply gwSendNow_kept | with_reducible apply ackObj_kept | with_reducible apply forEach_kept
      | with_reducible apply bump_kept | split

theorem gwSweep_kept (d : Dev) (hd : d.Kept base) : (gwSweep d).Kept base := by
  unfold gwSweep
  repeat' first
      | with_reducible assumption | intro _ | with_reducible apply ite_kept | with_reducible apply gwDone_kept
      | with_reducible apply gwHeld_kept | with_reducible apply forEach_kept

theorem takeMdReply_kept (m : TrdpMsg) (error : Bool) (d : Dev) (hd : d.Kept base) :
    (takeMdReply m error d).Kept base := by
  unfold takeMdReply
  repeat' first
      | with_reducible assumption | with_reducible apply ite_kept | with_reducible apply closeChan_kept
      | with_reducible apply answerTxn_kept | with_reducible apply gwLog_kept | with_reducible apply bump_kept
      | split | dsimp only [id]

theorem execMpReply_kept (m : TrdpMsg) (s : State) (hs : s.dev.Kept base) : Keeps base (execMpReply m s) := by
  unfold execMpReply
  first | with_reducible apply does_kept _ _ hs | with_reducible apply doesJudged_kept _ _ hs | skip
  repeat' first | with_reducible assumption | intro _ | with_reducible apply takeMdReply_kept

theorem execMeErrorReply_kept (m : TrdpMsg) (s : State) (hs : s.dev.Kept base) : Keeps base
    (execMeErrorReply m s) := by
  unfold execMeErrorReply
  first | with_reducible apply does_kept _ _ hs | with_reducible apply doesJudged_kept _ _ hs | skip
  repeat' first | with_reducible assumption | intro _ | with_reducible apply takeMdReply_kept

theorem execTransactionTimeout_kept (n : Fin 32) (s : State) (hs : s.dev.Kept base) : Keeps base
    (execTransactionTimeout n s) := by
  unfold execTransactionTimeout
  first | with_reducible apply does_kept _ _ hs | with_reducible apply doesJudged_kept _ _ hs | skip
  repeat' first
      | with_reducible assumption | intro _ | with_reducible apply fetchEnds_kept
      | with_reducible apply failTxn_kept | with_reducible apply arrive_kept | split | dsimp only [id]

theorem execPrefetchLifetimeEnd_kept (n : Fin 32) (addr : BitVec 16) (s : State) (hs : s.dev.Kept base) : Keeps base
    (execPrefetchLifetimeEnd n addr s) := by
  unfold execPrefetchLifetimeEnd
  first | with_reducible apply does_kept _ _ hs | with_reducible apply doesJudged_kept _ _ hs | skip
  repeat' first
      | with_reducible assumption | intro _ | with_reducible apply discardCache_kept
      | with_reducible apply arrive_kept | split

theorem armTelegrams_kept (which : Fin 64 → Bool) (d : Dev) (hd : d.Kept base) :
    (armTelegrams which d).Kept base := by
  unfold armTelegrams
  repeat' first
      | with_reducible assumption | intro _ | with_reducible apply onTele_kept | with_reducible apply forEach_kept

theorem gwClear_kept (d : Dev) (hd : d.Kept base) : (gwClear d).Kept base := by
  unfold gwClear
  repeat' first | with_reducible assumption | intro _ | with_reducible apply onGw_kept | dsimp only [id] | rfl

theorem gwStart_kept (d : Dev) (hd : d.Kept base) : (gwStart d).Kept base := by
  unfold gwStart
  repeat' first
      | with_reducible assumption | intro _ | with_reducible apply ite_kept
      | with_reducible apply armTelegrams_kept | with_reducible apply onGw_kept

theorem gwStop_kept (d : Dev) (hd : d.Kept base) : (gwStop d).Kept base := by
  unfold gwStop
  repeat' first | with_reducible assumption | intro _ | with_reducible apply onGw_kept | rfl

theorem resetChan_kept (n : Fin 32) (d : Dev) (hd : d.Kept base) : (resetChan n d).Kept base := by
  unfold resetChan
  repeat' first
      | with_reducible assumption | with_reducible apply answerTxn_kept | with_reducible apply ite_kept | with_reducible apply discardCache_kept
      | with_reducible apply failTxn_kept | with_reducible apply closeChan_kept | with_reducible apply onChan_kept
      | split

theorem applyGateway_kept (old : Dev) (d : Dev) (hold : old.Kept base) (hd : d.Kept base) :
    (applyGateway old d).Kept base := by
  unfold applyGateway
  repeat' first
      | with_reducible assumption | intro _ | with_reducible apply ite_kept | with_reducible apply resetChan_kept
      | with_reducible apply gwClear_kept | with_reducible apply armTelegrams_kept
      | with_reducible apply discardCache_kept | with_reducible apply forEach_kept

end Sys2Proof.Machine
end

