-- ==== Sys2Proof/Laws/Kept/Can.lean ====
section
/-! SUPPORT. Each function of Machine/Can.lean keeps what every step keeps. -/

-- one declaration after the other: the package is also compiled as one text, in limited memory
set_option Elab.async false

set_option linter.all false

namespace Sys2Proof.Machine

variable {base : Base}

theorem storeFrame_kept (c : CanId) (f : CanFrame) (d : Dev) (hd : d.Kept base) : (storeFrame c f d).Kept base := by
  unfold storeFrame
  repeat' first
      | with_reducible assumption | intro _ | with_reducible apply ite_kept | with_reducible apply attend_kept
      | with_reducible apply setObj_kept | with_reducible apply onlyIf_kept | with_reducible apply bump_kept
      | split | dsimp only [id]

theorem rateDetected_kept (c : CanId) (d : Dev) (hd : d.Kept base) : (rateDetected c d).Kept base := by
  unfold rateDetected
  repeat' first
      | with_reducible assumption | with_reducible apply setCanState_kept | with_reducible apply onCan_kept
      | with_reducible apply raise_kept | with_reducible apply setReg_kept

theorem receiveError_kept (c : CanId) (e : CanError) (d : Dev) (hd : d.Kept base) : (receiveError c e d).Kept base := by
  unfold receiveError
  repeat' first
      | with_reducible assumption | with_reducible apply ite_kept | with_reducible apply gwSweep_kept
      | with_reducible apply protocolException_kept | with_reducible apply noteCanError_kept
      | with_reducible apply judgeErrors_kept | with_reducible apply onCan_kept | dsimp only [id]

theorem execCanFrameReceived_kept (c : CanId) (f : CanFrame) (s : State) (hs : s.dev.Kept base) : Keeps base
    (execCanFrameReceived c f s) := by
  unfold execCanFrameReceived
  first | with_reducible apply does_kept _ _ hs | with_reducible apply doesJudged_kept _ _ hs | skip
  repeat' first
      | with_reducible assumption | intro _ | with_reducible apply ite_kept | with_reducible apply receiveError_kept
      | with_reducible apply rateDetected_kept | with_reducible apply storeFrame_kept
      | with_reducible apply gwSweep_kept | with_reducible apply recAfterFrame_kept
      | with_reducible apply judgeErrors_kept | with_reducible apply setAlone_kept
      | with_reducible apply onCan_kept | with_reducible apply countEv_kept | with_reducible apply bump_kept

theorem execCanReceiveError_kept (c : CanId) (e : CanError) (s : State) (hs : s.dev.Kept base) : Keeps base
    (execCanReceiveError c e s) := by
  unfold execCanReceiveError
  first | with_reducible apply does_kept _ _ hs | with_reducible apply doesJudged_kept _ _ hs | skip
  repeat' first
      | with_reducible assumption | intro _ | with_reducible apply receiveError_kept

theorem execIntegrationComplete_kept (c : CanId) (s : State) (hs : s.dev.Kept base) : Keeps base
    (execIntegrationComplete c s) := by
  unfold execIntegrationComplete
  first | with_reducible apply does_kept _ _ hs | with_reducible apply doesJudged_kept _ _ hs | skip
  repeat' first
      | with_reducible assumption | intro _ | with_reducible apply ite_kept | with_reducible apply setCanState_kept

theorem execAttemptStart_kept (c : CanId) (s : State) (hs : s.dev.Kept base) : Keeps base (execAttemptStart c s) := by
  unfold execAttemptStart
  first | with_reducible apply does_kept _ _ hs | with_reducible apply doesJudged_kept _ _ hs | skip
  repeat' first
      | with_reducible assumption | intro _ | with_reducible apply ite_kept | with_reducible apply setObj_kept
      | with_reducible apply onCan_kept | with_reducible apply emit_kept | split

theorem dropRenewed_kept (c : CanId) (o : Nat) (d : Dev) (hd : d.Kept base) : (dropRenewed c o d).Kept base := by
  unfold dropRenewed
  repeat' first
      | with_reducible assumption | with_reducible apply ite_kept | with_reducible apply setObj_kept
      | with_reducible apply onCan_kept

theorem endAttempt_kept (c : CanId) (o : Nat) (d : Dev) (hd : d.Kept base) : (endAttempt c o d).Kept base := by
  unfold endAttempt
  repeat' first
      | with_reducible assumption | with_reducible apply gwSweep_kept | with_reducible apply finishLeaving_kept
      | with_reducible apply dropRenewed_kept | with_reducible apply onCan_kept

theorem execArbitrationLost_kept (c : CanId) (s : State) (hs : s.dev.Kept base) : Keeps base
    (execArbitrationLost c s) := by
  unfold execArbitrationLost
  first | with_reducible apply does_kept _ _ hs | with_reducible apply doesJudged_kept _ _ hs | skip
  repeat' first
      | with_reducible assumption | intro _ | with_reducible apply ite_kept | with_reducible apply endAttempt_kept
      | with_reducible apply finishObj_kept | with_reducible apply setObj_kept | with_reducible apply onCan_kept
      | with_reducible apply bump_kept | split

theorem execCanTransmitSuccess_kept (c : CanId) (delay : BitVec 8) (s : State) (hs : s.dev.Kept base) : Keeps base
    (execCanTransmitSuccess c delay s) := by
  unfold execCanTransmitSuccess
  first | with_reducible apply does_kept _ _ hs | with_reducible apply doesJudged_kept _ _ hs | skip
  repeat' first
      | with_reducible assumption | intro _ | with_reducible apply ite_kept | with_reducible apply endAttempt_kept
      | with_reducible apply judgeErrors_kept | with_reducible apply setAlone_kept
      | with_reducible apply finishObj_kept | with_reducible apply setObj_kept | with_reducible apply onCan_kept
      | with_reducible apply countEv_kept | with_reducible apply bump_kept | with_reducible apply setReg_kept
      | split | dsimp only [id]

theorem noteAck_kept (c : CanId) (ack : Bool) (d : Dev) (hd : d.Kept base) : (noteAck c ack d).Kept base := by
  unfold noteAck
  repeat' first
      | with_reducible assumption | with_reducible apply ite_kept | with_reducible apply setAlone_kept
      | with_reducible apply onCan_kept | with_reducible apply raise_kept | with_reducible apply bump_kept

theorem retryObj_kept (c : CanId) (o : Nat) (ack : Bool) (d : Dev) (hd : d.Kept base) :
    (retryObj c o ack d).Kept base := by
  unfold retryObj
  repeat' first
      | with_reducible assumption | with_reducible apply ite_kept | with_reducible apply finishObj_kept
      | with_reducible apply setObj_kept | with_reducible apply bump_kept

theorem execCanTransmitError_kept (c : CanId) (e : CanError) (s : State) (hs : s.dev.Kept base) : Keeps base
    (execCanTransmitError c e s) := by
  unfold execCanTransmitError
  first | with_reducible apply does_kept _ _ hs | with_reducible apply doesJudged_kept _ _ hs | skip
  repeat' first
      | with_reducible assumption | intro _ | with_reducible apply ite_kept | with_reducible apply retryObj_kept
      | with_reducible apply noteAck_kept | with_reducible apply endAttempt_kept
      | with_reducible apply noteCanError_kept | with_reducible apply judgeErrors_kept
      | with_reducible apply onCan_kept | split | dsimp only [id]

theorem execBusOffHoldOffEnd_kept (c : CanId) (s : State) (hs : s.dev.Kept base) : Keeps base
    (execBusOffHoldOffEnd c s) := by
  unfold execBusOffHoldOffEnd
  first | with_reducible apply does_kept _ _ hs | with_reducible apply doesJudged_kept _ _ hs | skip
  repeat' first
      | with_reducible assumption | intro _ | with_reducible apply ite_kept | with_reducible apply setCanState_kept
      | with_reducible apply onCan_kept | with_reducible apply arrive_kept | split

theorem execBusOffRecoveryComplete_kept (c : CanId) (s : State) (hs : s.dev.Kept base) : Keeps base
    (execBusOffRecoveryComplete c s) := by
  unfold execBusOffRecoveryComplete
  first | with_reducible apply does_kept _ _ hs | with_reducible apply doesJudged_kept _ _ hs | skip
  repeat' first
      | with_reducible assumption | intro _ | with_reducible apply ite_kept | with_reducible apply setCanState_kept
      | with_reducible apply onCan_kept | with_reducible apply raise_kept

theorem askRecovery_kept (c : CanId) (d : Dev) (hd : d.Kept base) : (askRecovery c d).Kept base := by
  unfold askRecovery
  repeat' first
      | with_reducible assumption | with_reducible apply ite_kept | with_reducible apply setCanState_kept
      | with_reducible apply onCan_kept

theorem execCandidateDwellEnd_kept (c : CanId) (s : State) (hs : s.dev.Kept base) : Keeps base
    (execCandidateDwellEnd c s) := by
  unfold execCandidateDwellEnd
  first | with_reducible apply does_kept _ _ hs | with_reducible apply doesJudged_kept _ _ hs | skip
  repeat' first
      | with_reducible assumption | intro _ | with_reducible apply ite_kept | with_reducible apply onCan_kept
      | with_reducible apply raise_kept | with_reducible apply arrive_kept | with_reducible apply setReg_kept
      | split

end Sys2Proof.Machine
end

