-- ==== Sys2Proof/Laws/Kept/SleepNeed.lean ====
section
/-! SUPPORT. Each function of Machine/SleepNeed.lean keeps what every step keeps. -/

-- one declaration after the other: the package is also compiled as one text, in limited memory
set_option Elab.async false

set_option linter.all false

namespace Sys2Proof.Machine

variable {base : Base}

theorem onSleep_kept (f : SleepS → SleepS) (d : Dev) (hd : d.Kept base) : (onSleep f d).Kept base := by
  unfold onSleep
  repeat' first | with_reducible assumption | with_reducible apply Dev.Kept.upd

theorem pokeKeepAlive_kept (d : Dev) (hd : d.Kept base) : (pokeKeepAlive d).Kept base := by
  unfold pokeKeepAlive
  repeat' first | with_reducible assumption | with_reducible apply ite_kept | with_reducible apply onSleep_kept

theorem abortSleep_kept (d : Dev) (hd : d.Kept base) : (abortSleep d).Kept base := by
  unfold abortSleep
  repeat' first
      | with_reducible assumption | with_reducible apply onSleep_kept | with_reducible apply raise_kept
      | with_reducible apply bump_kept

theorem noteSilence_kept (d : Dev) (hd : d.Kept base) : (noteSilence d).Kept base := by
  unfold noteSilence
  repeat' first
      | with_reducible assumption | intro _ | with_reducible apply onSleep_kept | with_reducible apply forEach_kept
      | with_reducible apply raise_kept

theorem judgeSleep_kept (d0 : Dev) (hd0 : d0.Kept base) : (judgeSleep d0).Kept base := by
  unfold judgeSleep
  repeat' first
      | with_reducible assumption | with_reducible apply ite_kept | with_reducible apply noteSilence_kept
      | with_reducible apply abortSleep_kept | with_reducible apply pokeKeepAlive_kept
      | with_reducible apply onSleep_kept | split | dsimp only [id]

theorem doesJudged_kept (s : State) (f : Dev → Dev) (hs : s.dev.Kept base) (hf : ∀ d : Dev, d.Kept base →
    (f d).Kept base) :
    Keeps base (s.doesJudged f) := does_kept _ _ hs fun d hd => judgeSleep_kept _ (hf d hd)

end Sys2Proof.Machine
end

