-- ==== Sys2Proof/Laws/Kept/Inauguration.lean ====
section
/-! SUPPORT. Each function of Machine/Inauguration.lean keeps what every step keeps. -/

-- one declaration after the other: the package is also compiled as one text, in limited memory
set_option Elab.async false

set_option linter.all false

namespace Sys2Proof.Machine

variable {base : Base}

theorem onInaug_kept (f : InaugS → InaugS) (d : Dev) (hd : d.Kept base) : (onInaug f d).Kept base := by
  unfold onInaug
  repeat' first | with_reducible assumption | with_reducible apply Dev.Kept.upd

theorem onBack_kept (p : Port) (f : BackPort → BackPort) (d : Dev) (hd : d.Kept base) : (onBack p f d).Kept base := by
  unfold onBack
  repeat' first | with_reducible assumption | with_reducible apply onInaug_kept

theorem sendSc_kept (ports : List Port) (orig : Word48) (round seq : BitVec 16) (segment hops : Nat) (more : Bool)
    (b : ScBody) (d : Dev) (hd : d.Kept base) : (sendSc ports orig round seq segment hops more b d).Kept base := by
  unfold sendSc
  repeat' first
      | with_reducible assumption | intro _ | with_reducible apply ite_kept | with_reducible apply sendOwn_kept
      | with_reducible apply forEach_kept | with_reducible apply emit_kept

theorem createSc_kept (ports : List Port) (b : ScBody) (d : Dev) (hd : d.Kept base) :
    (createSc ports b d).Kept base := by
  unfold createSc
  repeat' first | with_reducible assumption | with_reducible apply sendSc_kept | with_reducible apply onInaug_kept

theorem passSc_kept (rear : Bool) (h : ScHeader) (more : Bool) (b : ScBody) (d : Dev) (hd : d.Kept base) :
    (passSc rear h more b d).Kept base := by
  unfold passSc
  repeat' first | with_reducible assumption | with_reducible apply sendSc_kept

theorem scHeard_kept (p : Port) (len : Nat) (f : Dev → Dev) (d : Dev) (hf : ∀  (d : Dev), d.Kept base →
    (f  d).Kept base) (hd : d.Kept base) : (scHeard p len f d).Kept base := by
  unfold scHeard
  repeat' first
      | with_reducible assumption | with_reducible apply ite_kept | with_reducible apply hf
      | with_reducible apply countGood_kept

theorem takeSc_kept (kind : Nat) (p : Port) (h : ScHeader) (len : Nat) (wanted : Dev → Bool) (f : Dev → Dev) (d0
    : Dev) (hf : ∀  (d : Dev), d.Kept base → (f  d).Kept base) (hd0 : d0.Kept base) :
    (takeSc kind p h len wanted f d0).Kept base := by
  unfold takeSc
  repeat' first
      | with_reducible assumption | intro _ | with_reducible apply ite_kept | with_reducible apply hf
      | with_reducible apply scHeard_kept | with_reducible apply onInaug_kept | with_reducible apply bump_kept

theorem dropCommit_kept (d : Dev) (hd : d.Kept base) : (dropCommit d).Kept base := by
  unfold dropCommit
  repeat' first
      | with_reducible assumption | with_reducible apply ite_kept | with_reducible apply onInaug_kept
      | with_reducible apply onStrm_kept | with_reducible apply onSched_kept

theorem sendClaim_kept (d : Dev) (hd : d.Kept base) : (sendClaim d).Kept base := by
  unfold sendClaim
  repeat' first | with_reducible assumption | with_reducible apply createSc_kept | with_reducible apply onInaug_kept

theorem enterRound_kept (round : BitVec 16) (lowest : Word48) (revealed : List Port) (d : Dev) (hd : d.Kept base) :
    (enterRound round lowest revealed d).Kept base := by
  unfold enterRound
  repeat' first
      | with_reducible assumption | with_reducible apply sendClaim_kept | with_reducible apply dropCommit_kept
      | with_reducible apply onInaug_kept | with_reducible apply timeRoundStart_kept

theorem startRoundFrom_kept (since : Nat) (revealed : List Port) (d : Dev) (hd : d.Kept base) :
    (startRoundFrom since revealed d).Kept base := by
  unfold startRoundFrom
  repeat' first
      | with_reducible assumption | with_reducible apply enterRound_kept | with_reducible apply onInaug_kept
      | with_reducible apply bump_kept

theorem startRound_kept (revealed : List Port) (d : Dev) (hd : d.Kept base) : (startRound revealed d).Kept base := by
  unfold startRound
  repeat' first | with_reducible assumption | with_reducible apply startRoundFrom_kept

theorem joinRound_kept (since : Nat) (round : BitVec 16) (claimed : Word48) (d : Dev) (hd : d.Kept base) :
    (joinRound since round claimed d).Kept base := by
  unfold joinRound
  repeat' first
      | with_reducible assumption | with_reducible apply ite_kept | with_reducible apply enterRound_kept
      | with_reducible apply onInaug_kept

theorem joinHeld_kept (d : Dev) (hd : d.Kept base) : (joinHeld d).Kept base := by
  unfold joinHeld
  repeat' first
      | with_reducible assumption | with_reducible apply ite_kept | with_reducible apply joinRound_kept
      | with_reducible apply onInaug_kept | split

theorem enterStandard_kept (d : Dev) (hd : d.Kept base) : (enterStandard d).Kept base := by
  unfold enterStandard
  repeat' first
      | with_reducible assumption | with_reducible apply dropCommit_kept | with_reducible apply onInaug_kept
      | with_reducible apply timeStandardHold_kept | with_reducible apply raise_kept
      | with_reducible apply bump_kept

theorem failRound_kept (d : Dev) (hd : d.Kept base) : (failRound d).Kept base := by
  unfold failRound
  repeat' first
      | with_reducible assumption | with_reducible apply ite_kept | with_reducible apply enterStandard_kept
      | with_reducible apply joinHeld_kept | with_reducible apply dropCommit_kept
      | with_reducible apply onInaug_kept | with_reducible apply raise_kept | with_reducible apply draw_kept
      | with_reducible apply bump_kept

theorem abortRound_kept (cause : Nat) (d : Dev) (hd : d.Kept base) : (abortRound cause d).Kept base := by
  unfold abortRound
  repeat' first
      | with_reducible assumption | with_reducible apply ite_kept | with_reducible apply failRound_kept
      | with_reducible apply enterStandard_kept | with_reducible apply createSc_kept

theorem holdChange_kept (config : Bool) (ports : List Port) (d : Dev) (hd : d.Kept base) :
    (holdChange config ports d).Kept base := by
  unfold holdChange
  repeat' first | with_reducible assumption | with_reducible apply onInaug_kept | with_reducible apply raise_kept

theorem onChange_kept (k : Change) (ports : List Port) (d : Dev) (hd : d.Kept base) :
    (onChange k ports d).Kept base := by
  unfold onChange
  repeat' first
      | with_reducible assumption | with_reducible apply ite_kept | with_reducible apply holdChange_kept
      | with_reducible apply abortRound_kept | with_reducible apply startRound_kept
      | with_reducible apply onInaug_kept | with_reducible apply timeStandardHold_kept | split

theorem inhibitEnded_kept (d : Dev) (hd : d.Kept base) : (inhibitEnded d).Kept base := by
  unfold inhibitEnded
  repeat' first
      | with_reducible assumption | with_reducible apply ite_kept | with_reducible apply onChange_kept
      | with_reducible apply onInaug_kept

theorem classifySide_kept (p : Port) (rear : Bool) (old : Option Word48 × Option Word48) (d : Dev) (hd
    : d.Kept base) : (classifySide p rear old d).Kept base := by
  unfold classifySide
  repeat' first
      | with_reducible assumption | intro _ | with_reducible apply ite_kept | with_reducible apply onChange_kept
      | with_reducible apply onInaug_kept | with_reducible apply onStrm_kept | with_reducible apply onlyIf_kept
      | with_reducible apply raise_kept | with_reducible apply bump_kept

theorem hearOn_kept (p : Port) (n : Option Neighbour) (d : Dev) (hd : d.Kept base) : (hearOn p n d).Kept base := by
  unfold hearOn
  repeat' first
      | with_reducible assumption | with_reducible apply classifySide_kept | with_reducible apply onBack_kept

theorem sendProbe_kept (p : Port) (d : Dev) (hd : d.Kept base) : (sendProbe p d).Kept base := by
  unfold sendProbe
  repeat' first | with_reducible assumption | with_reducible apply createSc_kept | with_reducible apply onBack_kept

theorem sendTtdp_kept (p : Port) (dest type : Nat) (body : List Byte) (d : Dev) (hd : d.Kept base) :
    (sendTtdp p dest type body d).Kept base := by
  unfold sendTtdp
  repeat' first | with_reducible assumption | with_reducible apply sendOwn_kept

theorem sendHello_kept (p : Port) (d : Dev) (hd : d.Kept base) : (sendHello p d).Kept base := by
  unfold sendHello
  repeat' first
      | with_reducible assumption | with_reducible apply sendTtdp_kept | with_reducible apply onBack_kept
      | with_reducible apply emit_kept

theorem sendTopology_kept (p : Port) (d : Dev) (hd : d.Kept base) : (sendTopology p d).Kept base := by
  unfold sendTopology
  repeat' first | with_reducible assumption | with_reducible apply sendTtdp_kept | with_reducible apply emit_kept

theorem backboneUp_kept (p : Port) (d : Dev) (hd : d.Kept base) : (backboneUp p d).Kept base := by
  unfold backboneUp
  repeat' first
      | with_reducible assumption | with_reducible apply ite_kept | with_reducible apply sendHello_kept
      | with_reducible apply sendProbe_kept | with_reducible apply onBack_kept

theorem backboneDown_kept (p : Port) (d : Dev) (hd : d.Kept base) : (backboneDown p d).Kept base := by
  unfold backboneDown
  repeat' first
      | with_reducible assumption | with_reducible apply ite_kept | with_reducible apply hearOn_kept
      | with_reducible apply onBack_kept

theorem probeHeard_kept (p : Port) (h : ScHeader) (d : Dev) (hd : d.Kept base) : (probeHeard p h d).Kept base := by
  unfold probeHeard
  repeat' first | with_reducible assumption | with_reducible apply hearOn_kept | with_reducible apply onBack_kept

theorem execProbe_kept (p : Port) (h : ScHeader) (_b : ProbeBody) (s : State) (hs : s.dev.Kept base) : Keeps base
    (execProbe p h _b s) := by
  unfold execProbe
  first | with_reducible apply does_kept _ _ hs | with_reducible apply doesJudged_kept _ _ hs | skip
  repeat' first
      | with_reducible assumption | intro _ | with_reducible apply ite_kept | with_reducible apply probeHeard_kept
      | with_reducible apply scHeard_kept | with_reducible apply createSc_kept | with_reducible apply bump_kept

theorem execProbeReply_kept (p : Port) (h : ScHeader) (_b : ProbeBody) (s : State) (hs : s.dev.Kept base)
    : Keeps base (execProbeReply p h _b s) := by
  unfold execProbeReply
  first | with_reducible apply does_kept _ _ hs | with_reducible apply doesJudged_kept _ _ hs | skip
  repeat' first
      | with_reducible assumption | intro _ | with_reducible apply ite_kept | with_reducible apply probeHeard_kept
      | with_reducible apply scHeard_kept | with_reducible apply bump_kept

theorem execProbeRepeat_kept (p : Port) (s : State) (hs : s.dev.Kept base) : Keeps base (execProbeRepeat p s) := by
  unfold execProbeRepeat
  first | with_reducible apply does_kept _ _ hs | with_reducible apply doesJudged_kept _ _ hs | skip
  repeat' first
      | with_reducible assumption | intro _ | with_reducible apply ite_kept | with_reducible apply sendProbe_kept
      | with_reducible apply onChange_kept | with_reducible apply onBack_kept | with_reducible apply arrive_kept
      | split

theorem execProbeLoss_kept (p : Port) (s : State) (hs : s.dev.Kept base) : Keeps base (execProbeLoss p s) := by
  unfold execProbeLoss
  first | with_reducible apply does_kept _ _ hs | with_reducible apply doesJudged_kept _ _ hs | skip
  repeat' first
      | with_reducible assumption | intro _ | with_reducible apply ite_kept | with_reducible apply hearOn_kept
      | with_reducible apply arrive_kept | split

theorem ttdpHeard_kept (p : Port) (body : List Byte) (f : Dev → Dev) (d : Dev) (hf : ∀  (d : Dev), d.Kept base →
    (f  d).Kept base) (hd : d.Kept base) : (ttdpHeard p body f d).Kept base := by
  unfold ttdpHeard
  repeat' first
      | with_reducible assumption | with_reducible apply ite_kept | with_reducible apply hf
      | with_reducible apply countGood_kept

theorem execHello_kept (p : Port) (sender : Word48) (fast : Bool) (s : State) (hs : s.dev.Kept base) : Keeps base
    (execHello p sender fast s) := by
  unfold execHello
  first | with_reducible apply does_kept _ _ hs | with_reducible apply doesJudged_kept _ _ hs | skip
  repeat' first
      | with_reducible assumption | intro _ | with_reducible apply ite_kept | with_reducible apply ttdpHeard_kept
      | with_reducible apply hearOn_kept | with_reducible apply onBack_kept

theorem execHelloPeriod_kept (p : Port) (s : State) (hs : s.dev.Kept base) : Keeps base (execHelloPeriod p s) := by
  unfold execHelloPeriod
  first | with_reducible apply does_kept _ _ hs | with_reducible apply doesJudged_kept _ _ hs | skip
  repeat' first
      | with_reducible assumption | intro _ | with_reducible apply ite_kept | with_reducible apply sendHello_kept
      | with_reducible apply onBack_kept | with_reducible apply arrive_kept | split

theorem execHelloTimeout_kept (p : Port) (s : State) (hs : s.dev.Kept base) : Keeps base (execHelloTimeout p s) := by
  unfold execHelloTimeout
  first | with_reducible apply does_kept _ _ hs | with_reducible apply doesJudged_kept _ _ hs | skip
  repeat' first
      | with_reducible assumption | intro _ | with_reducible apply ite_kept | with_reducible apply hearOn_kept
      | with_reducible apply arrive_kept | split

theorem execTopology_kept (p : Port) (sender : Word48) (topo : BitVec 32) (inhibit : Bool) (s : State) (hs
    : s.dev.Kept base) : Keeps base (execTopology p sender topo inhibit s) := by
  unfold execTopology
  first | with_reducible apply does_kept _ _ hs | with_reducible apply doesJudged_kept _ _ hs | skip
  repeat' first
      | with_reducible assumption | intro _ | with_reducible apply ite_kept | with_reducible apply ttdpHeard_kept
      | with_reducible apply inhibitEnded_kept | with_reducible apply onInaug_kept

theorem takeClaim_kept (h : ScHeader) (low : Word48) (d : Dev) (hd : d.Kept base) :
    (takeClaim h low d).Kept base := by
  unfold takeClaim
  repeat' first
      | with_reducible assumption | with_reducible apply ite_kept | with_reducible apply joinRound_kept
      | with_reducible apply sendClaim_kept | with_reducible apply onInaug_kept | split

theorem execClaim_kept (p : Port) (h : ScHeader) (lowest : Word48) (s : State) (hs : s.dev.Kept base) : Keeps base
    (execClaim p h lowest s) := by
  unfold execClaim
  first | with_reducible apply does_kept _ _ hs | with_reducible apply doesJudged_kept _ _ hs | skip
  repeat' first
      | with_reducible assumption | intro _ | with_reducible apply takeClaim_kept
      | with_reducible apply takeSc_kept

theorem reportsHeld_kept (d : Dev) (hd : d.Kept base) : (reportsHeld d).Kept base := by
  unfold reportsHeld
  repeat' first
      | with_reducible assumption | intro _ | with_reducible apply ite_kept | with_reducible apply abortRound_kept
      | with_reducible apply createSc_kept | with_reducible apply onInaug_kept
      | with_reducible apply startResBuild_kept | with_reducible apply startGateBuild_kept
      | with_reducible apply onlyIf_kept | with_reducible apply raise_kept | with_reducible apply bump_kept

theorem execSettleTimer_kept (s : State) (hs : s.dev.Kept base) : Keeps base (execSettleTimer s) := by
  unfold execSettleTimer
  first | with_reducible apply does_kept _ _ hs | with_reducible apply doesJudged_kept _ _ hs | skip
  repeat' first
      | with_reducible assumption | intro _ | with_reducible apply ite_kept | with_reducible apply reportsHeld_kept
      | with_reducible apply createSc_kept | with_reducible apply onInaug_kept | with_reducible apply arrive_kept
      | split

theorem execCensus_kept (p : Port) (h : ScHeader) (s : State) (hs : s.dev.Kept base) : Keeps base
    (execCensus p h s) := by
  unfold execCensus
  first | with_reducible apply does_kept _ _ hs | with_reducible apply doesJudged_kept _ _ hs | skip
  repeat' first
      | with_reducible assumption | intro _ | with_reducible apply ite_kept | with_reducible apply takeSc_kept
      | with_reducible apply passSc_kept | with_reducible apply createSc_kept | with_reducible apply onInaug_kept

theorem execReport_kept (p : Port) (h : ScHeader) (recs : List CensusRec) (s : State) (hs : s.dev.Kept base)
    : Keeps base (execReport p h recs s) := by
  unfold execReport
  first | with_reducible apply does_kept _ _ hs | with_reducible apply doesJudged_kept _ _ hs | skip
  repeat' first
      | with_reducible assumption | intro _ | with_reducible apply ite_kept | with_reducible apply reportsHeld_kept
      | with_reducible apply takeSc_kept | with_reducible apply passSc_kept | with_reducible apply onInaug_kept

theorem execCensusTimeout_kept (s : State) (hs : s.dev.Kept base) : Keeps base (execCensusTimeout s) := by
  unfold execCensusTimeout
  first | with_reducible apply does_kept _ _ hs | with_reducible apply doesJudged_kept _ _ hs | skip
  repeat' first
      | with_reducible assumption | intro _ | with_reducible apply abortRound_kept
      | with_reducible apply arrive_kept | split

theorem acceptCommit_kept (p : Port) (h : ScHeader) (b : CommitBody) (ids : List DirIds) (late : Bool) (d : Dev) (hd
    : d.Kept base) : (acceptCommit p h b ids late d).Kept base := by
  unfold acceptCommit
  repeat' first
      | with_reducible assumption | with_reducible apply onInaug_kept | with_reducible apply startResBuild_kept
      | with_reducible apply startGateBuild_kept

theorem retimeCommit_kept (p : Port) (h : ScHeader) (b : CommitBody) (d : Dev) (hd : d.Kept base) :
    (retimeCommit p h b d).Kept base := by
  unfold retimeCommit
  repeat' first | with_reducible assumption | with_reducible apply ite_kept | with_reducible apply onInaug_kept

theorem takeCommit_kept (p : Port) (h : ScHeader) (b : CommitBody) (ids : List DirIds) (d : Dev) (hd : d.Kept base)
    : (takeCommit p h b ids d).Kept base := by
  unfold takeCommit
  repeat' first
      | with_reducible assumption | with_reducible apply ite_kept | with_reducible apply acceptCommit_kept
      | with_reducible apply passSc_kept | with_reducible apply createSc_kept | with_reducible apply draw_kept

theorem execSpringcountCommit_kept (p : Port) (h : ScHeader) (b : CommitFrame) (s : State) (hs : s.dev.Kept base)
    : Keeps base (execSpringcountCommit p h b s) := by
  unfold execSpringcountCommit
  first | with_reducible apply does_kept _ _ hs | with_reducible apply doesJudged_kept _ _ hs | skip
  repeat' first
      | with_reducible assumption | intro _ | with_reducible apply ite_kept | with_reducible apply takeCommit_kept
      | with_reducible apply retimeCommit_kept | with_reducible apply acceptCommit_kept
      | with_reducible apply takeSc_kept | with_reducible apply scHeard_kept | with_reducible apply onlyIf_kept
      | with_reducible apply bump_kept

theorem execAck_kept (p : Port) (h : ScHeader) (count : BitVec 16) (epoch : BitVec 16) (s : State) (hs
    : s.dev.Kept base) : Keeps base (execAck p h count epoch s) := by
  unfold execAck
  first | with_reducible apply does_kept _ _ hs | with_reducible apply doesJudged_kept _ _ hs | skip
  repeat' first
      | with_reducible assumption | intro _ | with_reducible apply takeSc_kept | with_reducible apply passSc_kept
      | with_reducible apply onInaug_kept | split

theorem execAckDeadline_kept (s : State) (hs : s.dev.Kept base) : Keeps base (execAckDeadline s) := by
  unfold execAckDeadline
  first | with_reducible apply does_kept _ _ hs | with_reducible apply doesJudged_kept _ _ hs | skip
  repeat' first
      | with_reducible assumption | intro _ | with_reducible apply ite_kept | with_reducible apply abortRound_kept
      | with_reducible apply onInaug_kept | with_reducible apply arrive_kept | split

theorem execAbort_kept (p : Port) (h : ScHeader) (cause : BitVec 8) (epoch : BitVec 16) (s : State) (hs
    : s.dev.Kept base) : Keeps base (execAbort p h cause epoch s) := by
  unfold execAbort
  first | with_reducible apply does_kept _ _ hs | with_reducible apply doesJudged_kept _ _ hs | skip
  repeat' first
      | with_reducible assumption | intro _ | with_reducible apply ite_kept | with_reducible apply failRound_kept
      | with_reducible apply enterStandard_kept | with_reducible apply takeSc_kept
      | with_reducible apply passSc_kept

theorem execCensusWaitTimeout_kept (s : State) (hs : s.dev.Kept base) : Keeps base (execCensusWaitTimeout s) := by
  unfold execCensusWaitTimeout
  first | with_reducible apply does_kept _ _ hs | with_reducible apply doesJudged_kept _ _ hs | skip
  repeat' first
      | with_reducible assumption | intro _ | with_reducible apply failRound_kept
      | with_reducible apply arrive_kept | split

theorem execCommitWaitTimeout_kept (s : State) (hs : s.dev.Kept base) : Keeps base (execCommitWaitTimeout s) := by
  unfold execCommitWaitTimeout
  first | with_reducible apply does_kept _ _ hs | with_reducible apply doesJudged_kept _ _ hs | skip
  repeat' first
      | with_reducible assumption | intro _ | with_reducible apply failRound_kept
      | with_reducible apply arrive_kept | split

theorem execBackOffEnd_kept (s : State) (hs : s.dev.Kept base) : Keeps base (execBackOffEnd s) := by
  unfold execBackOffEnd
  first | with_reducible apply does_kept _ _ hs | with_reducible apply doesJudged_kept _ _ hs | skip
  repeat' first
      | with_reducible assumption | intro _ | with_reducible apply startRound_kept
      | with_reducible apply arrive_kept | split

theorem pairAtSwitch_kept (d : Dev) (hd : d.Kept base) : (pairAtSwitch d).Kept base := by
  unfold pairAtSwitch
  repeat' first | with_reducible assumption | with_reducible apply onInaug_kept

theorem switchEpoch_kept (n : Numbering) (leader : Word48) (d : Dev) (hd : d.Kept base) :
    (switchEpoch n leader d).Kept base := by
  unfold switchEpoch
  repeat' first
      | with_reducible assumption | intro _ | with_reducible apply pairAtSwitch_kept
      | with_reducible apply sendTopology_kept | with_reducible apply onInaug_kept
      | with_reducible apply strmEpochSwitch_kept | with_reducible apply schedEpochSwitch_kept
      | with_reducible apply timeEpochSwitch_kept | with_reducible apply switchBank_kept
      | with_reducible apply onlyIf_kept | with_reducible apply forEach_kept | with_reducible apply raise_kept
      | with_reducible apply snapshot_kept | with_reducible apply setInt_kept | with_reducible apply bump_kept

theorem afterSwitch_kept (d : Dev) (hd : d.Kept base) : (afterSwitch d).Kept base := by
  unfold afterSwitch
  repeat' first
      | with_reducible assumption | with_reducible apply ite_kept | with_reducible apply joinHeld_kept
      | with_reducible apply startRoundFrom_kept | split | dsimp only [id]

theorem execSwitchPoint_kept (s : State) (hs : s.dev.Kept base) : Keeps base (execSwitchPoint s) := by
  unfold execSwitchPoint
  first | with_reducible apply does_kept _ _ hs | with_reducible apply doesJudged_kept _ _ hs | skip
  repeat' first
      | with_reducible assumption | intro _ | with_reducible apply ite_kept | with_reducible apply afterSwitch_kept
      | with_reducible apply switchEpoch_kept | with_reducible apply onInaug_kept
      | with_reducible apply arrive_kept | with_reducible apply bump_kept | with_reducible apply setReg_kept
      | split

theorem execOverlapEnd_kept (s : State) (hs : s.dev.Kept base) : Keeps base (execOverlapEnd s) := by
  unfold execOverlapEnd
  first | with_reducible apply does_kept _ _ hs | with_reducible apply doesJudged_kept _ _ hs | skip
  repeat' first
      | with_reducible assumption | intro _ | with_reducible apply onInaug_kept
      | with_reducible apply clearOldBank_kept | with_reducible apply arrive_kept | split

theorem execTtdpTopologyValid_kept (t : TtdpTopology) (s : State) (hs : s.dev.Kept base) : Keeps base
    (execTtdpTopologyValid t s) := by
  unfold execTtdpTopologyValid
  first | with_reducible apply does_kept _ _ hs | with_reducible apply doesJudged_kept _ _ hs | skip
  repeat' first
      | with_reducible assumption | intro _ | with_reducible apply ite_kept | with_reducible apply switchEpoch_kept

theorem askCommit_kept (d : Dev) (hd : d.Kept base) : (askCommit d).Kept base := by
  unfold askCommit
  repeat' first
      | with_reducible assumption | with_reducible apply joinHeld_kept | with_reducible apply startRound_kept
      | with_reducible apply createSc_kept | with_reducible apply onInaug_kept | split | dsimp only [id]

theorem inaugSafeHigh_kept (d : Dev) (hd : d.Kept base) : (inaugSafeHigh d).Kept base := by
  unfold inaugSafeHigh
  repeat' first
      | with_reducible assumption | with_reducible apply ite_kept | with_reducible apply askCommit_kept
      | with_reducible apply judgeSleep_kept

theorem execCommitRequest_kept (p : Port) (h : ScHeader) (_epoch : BitVec 16) (s : State) (hs : s.dev.Kept base)
    : Keeps base (execCommitRequest p h _epoch s) := by
  unfold execCommitRequest
  first | with_reducible apply does_kept _ _ hs | with_reducible apply doesJudged_kept _ _ hs | skip
  repeat' first
      | with_reducible assumption | intro _ | with_reducible apply takeSc_kept | with_reducible apply sendSc_kept
      | with_reducible apply onInaug_kept | split

theorem execCommitRequestTimeout_kept (s : State) (hs : s.dev.Kept base) : Keeps base
    (execCommitRequestTimeout s) := by
  unfold execCommitRequestTimeout
  first | with_reducible apply does_kept _ _ hs | with_reducible apply doesJudged_kept _ _ hs | skip
  repeat' first
      | with_reducible assumption | intro _ | with_reducible apply askCommit_kept
      | with_reducible apply arrive_kept | split

theorem addRequester_kept (who : Word48) (expiry : Option Nat) (d : Dev) (hd : d.Kept base) :
    (addRequester who expiry d).Kept base := by
  unfold addRequester
  repeat' first
      | with_reducible assumption | with_reducible apply ite_kept | with_reducible apply onInaug_kept
      | with_reducible apply bump_kept

theorem removeRequester_kept (who : Word48) (d : Dev) (hd : d.Kept base) : (removeRequester who d).Kept base := by
  unfold removeRequester
  repeat' first
      | with_reducible assumption | with_reducible apply inhibitEnded_kept | with_reducible apply onInaug_kept

theorem execState_kept (p : Port) (h : ScHeader) (inhibit : Bool) (epoch : BitVec 16) (s : State) (hs
    : s.dev.Kept base) : Keeps base (execState p h inhibit epoch s) := by
  unfold execState
  first | with_reducible apply does_kept _ _ hs | with_reducible apply doesJudged_kept _ _ hs | skip
  repeat' first
      | with_reducible assumption | intro _ | with_reducible apply ite_kept
      | with_reducible apply removeRequester_kept | with_reducible apply addRequester_kept
      | with_reducible apply takeSc_kept | with_reducible apply passSc_kept

theorem sendState_kept (d : Dev) (hd : d.Kept base) : (sendState d).Kept base := by
  unfold sendState
  repeat' first | with_reducible assumption | with_reducible apply createSc_kept

theorem setInhibit_kept (on : Bool) (d : Dev) (hd : d.Kept base) : (setInhibit on d).Kept base := by
  unfold setInhibit
  repeat' first
      | with_reducible assumption | with_reducible apply ite_kept | with_reducible apply sendState_kept
      | with_reducible apply removeRequester_kept | with_reducible apply addRequester_kept
      | with_reducible apply onInaug_kept | with_reducible apply judgeSleep_kept | with_reducible apply setReg_kept

theorem execStateRepeat_kept (s : State) (hs : s.dev.Kept base) : Keeps base (execStateRepeat s) := by
  unfold execStateRepeat
  first | with_reducible apply does_kept _ _ hs | with_reducible apply doesJudged_kept _ _ hs | skip
  repeat' first
      | with_reducible assumption | intro _ | with_reducible apply sendState_kept
      | with_reducible apply addRequester_kept | with_reducible apply onInaug_kept
      | with_reducible apply arrive_kept | split

theorem execStateSilence_kept (requester : Word48) (s : State) (hs : s.dev.Kept base) : Keeps base
    (execStateSilence requester s) := by
  unfold execStateSilence
  first | with_reducible apply does_kept _ _ hs | with_reducible apply doesJudged_kept _ _ hs | skip
  repeat' first
      | with_reducible assumption | intro _ | with_reducible apply removeRequester_kept
      | with_reducible apply arrive_kept | split

theorem setLeading_kept (v : Nat) (d : Dev) (hd : d.Kept base) : (setLeading v d).Kept base := by
  unfold setLeading
  repeat' first
      | with_reducible assumption | with_reducible apply ite_kept | with_reducible apply onChange_kept
      | with_reducible apply judgeSleep_kept | with_reducible apply setReg_kept

theorem execPair_kept (p : Port) (h : ScHeader) (primary : Bool) (_epoch : BitVec 16) (partner : Word48) (s : State)
    (hs : s.dev.Kept base) : Keeps base (execPair p h primary _epoch partner s) := by
  unfold execPair
  first | with_reducible apply does_kept _ _ hs | with_reducible apply doesJudged_kept _ _ hs | skip
  repeat' first
      | with_reducible assumption | intro _ | with_reducible apply ite_kept | with_reducible apply scHeard_kept
      | with_reducible apply onInaug_kept | with_reducible apply bump_kept

theorem execPairPeriod_kept (s : State) (hs : s.dev.Kept base) : Keeps base (execPairPeriod s) := by
  unfold execPairPeriod
  first | with_reducible apply does_kept _ _ hs | with_reducible apply doesJudged_kept _ _ hs | skip
  repeat' first
      | with_reducible assumption | intro _ | with_reducible apply ite_kept | with_reducible apply createSc_kept
      | with_reducible apply onInaug_kept | with_reducible apply arrive_kept | split

theorem execPairLoss_kept (s : State) (hs : s.dev.Kept base) : Keeps base (execPairLoss s) := by
  unfold execPairLoss
  first | with_reducible apply does_kept _ _ hs | with_reducible apply doesJudged_kept _ _ hs | skip
  repeat' first
      | with_reducible assumption | intro _ | with_reducible apply ite_kept | with_reducible apply onInaug_kept
      | with_reducible apply raise_kept | with_reducible apply arrive_kept | with_reducible apply bump_kept | split

theorem startPair_kept (d : Dev) (hd : d.Kept base) : (startPair d).Kept base := by
  unfold startPair
  repeat' first | with_reducible assumption | with_reducible apply onInaug_kept

theorem bootInaug_kept (d : Dev) (hd : d.Kept base) : (bootInaug d).Kept base := by
  unfold bootInaug
  repeat' first
      | with_reducible assumption | with_reducible apply ite_kept | with_reducible apply startPair_kept
      | with_reducible apply startRound_kept | with_reducible apply onInaug_kept
      | with_reducible apply judgeSleep_kept

theorem applyInaug_kept (old : Dev) (d : Dev) (hold : old.Kept base) (hd : d.Kept base) :
    (applyInaug old d).Kept base := by
  unfold applyInaug
  repeat' first
      | with_reducible assumption | intro _ | with_reducible apply ite_kept | with_reducible apply startPair_kept
      | with_reducible apply sendProbe_kept | with_reducible apply onChange_kept
      | with_reducible apply dropCommit_kept | with_reducible apply onBack_kept | with_reducible apply onInaug_kept
      | with_reducible apply judgeSleep_kept | with_reducible apply forEach_kept

end Sys2Proof.Machine
end

