-- ==== Sys2Proof/Laws/Kept/Ports.lean ====
section
/-! SUPPORT. Each function of Machine/Ports.lean keeps what every step keeps. -/

-- one declaration after the other: the package is also compiled as one text, in limited memory
set_option Elab.async false

set_option linter.all false

namespace Sys2Proof.Machine

variable {base : Base}

theorem adaptReceiver_kept (p : Port) (d : Dev) (hd : d.Kept base) : (adaptReceiver p d).Kept base := by
  unfold adaptReceiver
  repeat' first | with_reducible assumption | with_reducible apply onPort_kept | with_reducible apply draw_kept

theorem laneChange_kept (oldLane : Port) (p : Port) (d : Dev) (hd : d.Kept base) :
    (laneChange oldLane p d).Kept base := by
  unfold laneChange
  repeat' first
      | with_reducible assumption | with_reducible apply ite_kept | with_reducible apply startResBuild_kept
      | with_reducible apply laneRebuild_kept

theorem enterUp_kept (p : Port) (d : Dev) (hd : d.Kept base) : (enterUp p d).Kept base := by
  unfold enterUp
  repeat' first
      | with_reducible assumption | with_reducible apply ite_kept | with_reducible apply laneChange_kept
      | with_reducible apply backboneUp_kept | with_reducible apply onSleep_kept
      | with_reducible apply sendOffers_kept | with_reducible apply timePortUp_kept
      | with_reducible apply onPort_kept | with_reducible apply raise_kept

theorem loseLink_kept (p : Port) (d : Dev) (hd : d.Kept base) : (loseLink p d).Kept base := by
  unfold loseLink
  repeat' first
      | with_reducible assumption | intro _ | with_reducible apply laneChange_kept
      | with_reducible apply backboneDown_kept | with_reducible apply timePortDown_kept
      | with_reducible apply sweepCells_kept | with_reducible apply discardPort_kept
      | with_reducible apply clearPause_kept | with_reducible apply onPort_kept | with_reducible apply onlyIf_kept
      | with_reducible apply raise_kept | with_reducible apply bump_kept

theorem leaveUp_kept (p : Port) (d : Dev) (hd : d.Kept base) : (leaveUp p d).Kept base := by
  unfold leaveUp
  repeat' first | with_reducible assumption | with_reducible apply ite_kept | with_reducible apply loseLink_kept

theorem enterAcquiring_kept (p : Port) (d : Dev) (hd : d.Kept base) : (enterAcquiring p d).Kept base := by
  unfold enterAcquiring
  repeat' first
      | with_reducible assumption | with_reducible apply adaptReceiver_kept | with_reducible apply onPort_kept

theorem judgeLane_kept (p : Port) (d0 : Dev) (hd0 : d0.Kept base) : (judgeLane p d0).Kept base := by
  unfold judgeLane
  repeat' first
      | with_reducible assumption | with_reducible apply ite_kept | with_reducible apply loseLink_kept
      | with_reducible apply enterUp_kept | with_reducible apply onPort_kept | split | dsimp only [id]

theorem execLaneUp_kept (p : Port) (s : State) (hs : s.dev.Kept base) : Keeps base (execLaneUp p s) := by
  unfold execLaneUp
  first | with_reducible apply does_kept _ _ hs | with_reducible apply doesJudged_kept _ _ hs | skip
  repeat' first
      | with_reducible assumption | intro _ | with_reducible apply judgeLane_kept
      | with_reducible apply onPort_kept | split

theorem execLaneDown_kept (p : Port) (s : State) (hs : s.dev.Kept base) : Keeps base (execLaneDown p s) := by
  unfold execLaneDown
  first | with_reducible apply does_kept _ _ hs | with_reducible apply doesJudged_kept _ _ hs | skip
  repeat' first
      | with_reducible assumption | intro _ | with_reducible apply judgeLane_kept
      | with_reducible apply onPort_kept | split

theorem execLinkDownDebounce_kept (p : Port) (s : State) (hs : s.dev.Kept base) : Keeps base
    (execLinkDownDebounce p s) := by
  unfold execLinkDownDebounce
  first | with_reducible apply does_kept _ _ hs | with_reducible apply doesJudged_kept _ _ hs | skip
  repeat' first
      | with_reducible assumption | intro _ | with_reducible apply loseLink_kept | with_reducible apply arrive_kept
      | split

theorem execLinkUpHold_kept (p : Port) (s : State) (hs : s.dev.Kept base) : Keeps base (execLinkUpHold p s) := by
  unfold execLinkUpHold
  first | with_reducible apply does_kept _ _ hs | with_reducible apply doesJudged_kept _ _ hs | skip
  repeat' first
      | with_reducible assumption | intro _ | with_reducible apply enterUp_kept | with_reducible apply arrive_kept
      | split

theorem execAutoNegotiationRestart_kept (p : Port) (s : State) (hs : s.dev.Kept base) : Keeps base
    (execAutoNegotiationRestart p s) := by
  unfold execAutoNegotiationRestart
  first | with_reducible apply does_kept _ _ hs | with_reducible apply doesJudged_kept _ _ hs | skip
  repeat' first
      | with_reducible assumption | intro _ | with_reducible apply onPort_kept | with_reducible apply arrive_kept
      | split

theorem mdio_kept (p : Port) (dev reg : Nat) (write : Option Nat) (d : Dev) (hd : d.Kept base) :
    (mdio p dev reg write d).Kept base := by
  unfold mdio
  repeat' first | with_reducible assumption | with_reducible apply emit_kept

theorem scriptAccess_kept (p : Port) (r : PhyOp) (d : Dev) (hd : d.Kept base) : (scriptAccess p r d).Kept base := by
  unfold scriptAccess
  repeat' first | with_reducible assumption | with_reducible apply mdio_kept | with_reducible apply draw_kept | split

theorem startScript_kept (p : Port) (d : Dev) (hd : d.Kept base) : (startScript p d).Kept base := by
  unfold startScript
  repeat' first
      | with_reducible assumption | with_reducible apply ite_kept | with_reducible apply enterAcquiring_kept
      | with_reducible apply onPort_kept

theorem scriptEnded_kept (p : Port) (d : Dev) (hd : d.Kept base) : (scriptEnded p d).Kept base := by
  unfold scriptEnded
  repeat' first
      | with_reducible assumption | intro _ | with_reducible apply ite_kept | with_reducible apply onPort_kept
      | with_reducible apply forEach_kept | dsimp only [id] | with_reducible apply Dev.Kept.upd

theorem scriptFails_kept (p : Port) (d : Dev) (hd : d.Kept base) : (scriptFails p d).Kept base := by
  unfold scriptFails
  repeat' first
      | with_reducible assumption | with_reducible apply scriptEnded_kept | with_reducible apply onPort_kept
      | with_reducible apply raise_kept

theorem execPhyScriptComplete_kept (p : Port) (ok : Bool) (record : BitVec 8) (s : State) (hs : s.dev.Kept base)
    : Keeps base (execPhyScriptComplete p ok record s) := by
  unfold execPhyScriptComplete
  first | with_reducible apply does_kept _ _ hs | with_reducible apply doesJudged_kept _ _ hs | skip
  repeat' first
      | with_reducible assumption | intro _ | with_reducible apply ite_kept | with_reducible apply scriptFails_kept
      | with_reducible apply scriptEnded_kept | with_reducible apply scriptAccess_kept
      | with_reducible apply enterAcquiring_kept | with_reducible apply forEach_kept
      | with_reducible apply arrive_kept | split

theorem execPhyScriptPollTimeout_kept (p : Port) (s : State) (hs : s.dev.Kept base) : Keeps base
    (execPhyScriptPollTimeout p s) := by
  unfold execPhyScriptPollTimeout
  first | with_reducible apply does_kept _ _ hs | with_reducible apply doesJudged_kept _ _ hs | skip
  repeat' first
      | with_reducible assumption | intro _ | with_reducible apply scriptFails_kept
      | with_reducible apply scriptAccess_kept | with_reducible apply forEach_kept
      | with_reducible apply arrive_kept | with_reducible apply draw_kept | split

theorem releaseGroup_kept (g : Fin 4) (d : Dev) (hd : d.Kept base) : (releaseGroup g d).Kept base := by
  unfold releaseGroup
  repeat' first
      | with_reducible assumption | with_reducible apply ite_kept | dsimp only [id]
      | with_reducible apply Dev.Kept.upd

theorem awaitPhy_kept (p : Port) (d : Dev) (hd : d.Kept base) : (awaitPhy p d).Kept base := by
  unfold awaitPhy
  repeat' first
      | with_reducible assumption | with_reducible apply ite_kept | with_reducible apply releaseGroup_kept
      | with_reducible apply startScript_kept | with_reducible apply onPort_kept

theorem execPhyReleaseDelay_kept (p : Port) (s : State) (hs : s.dev.Kept base) : Keeps base
    (execPhyReleaseDelay p s) := by
  unfold execPhyReleaseDelay
  first | with_reducible apply does_kept _ _ hs | with_reducible apply doesJudged_kept _ _ hs | skip
  repeat' first
      | with_reducible assumption | intro _ | with_reducible apply startScript_kept
      | with_reducible apply arrive_kept | split

theorem planStatus_kept (p : Port) (d : Dev) (hd : d.Kept base) : (planStatus p d).Kept base := by
  unfold planStatus
  repeat' first | with_reducible assumption | with_reducible apply onPort_kept

theorem startPort_kept (p : Port) (d : Dev) (hd : d.Kept base) : (startPort p d).Kept base := by
  unfold startPort
  repeat' first
      | with_reducible assumption | with_reducible apply ite_kept | with_reducible apply planStatus_kept
      | with_reducible apply awaitPhy_kept | with_reducible apply releaseGroup_kept
      | with_reducible apply enterAcquiring_kept

theorem regroup_kept (g : Fin 4) (d : Dev) (hd : d.Kept base) : (regroup g d).Kept base := by
  unfold regroup
  repeat' first
      | with_reducible assumption | with_reducible apply ite_kept | dsimp only [id]
      | with_reducible apply Dev.Kept.upd

theorem disablePort_kept (p : Port) (d : Dev) (hd : d.Kept base) : (disablePort p d).Kept base := by
  unfold disablePort
  repeat' first
      | with_reducible assumption | with_reducible apply ite_kept | with_reducible apply regroup_kept
      | with_reducible apply scriptEnded_kept | with_reducible apply leaveUp_kept
      | with_reducible apply onPort_kept

theorem settlePort_kept (p : Port) (d : Dev) (hd : d.Kept base) : (settlePort p d).Kept base := by
  unfold settlePort
  repeat' first
      | with_reducible assumption | with_reducible apply ite_kept | with_reducible apply disablePort_kept
      | with_reducible apply startPort_kept

theorem settlePorts_kept (d : Dev) (hd : d.Kept base) : (settlePorts d).Kept base := by
  unfold settlePorts
  repeat' first
      | with_reducible assumption | intro _ | with_reducible apply settlePort_kept
      | with_reducible apply forEach_kept

theorem applyPort_kept (old : Dev) (written : Nat → Nat → Bool) (p : Port) (d : Dev) (hold : old.Kept base) (hd
    : d.Kept base) : (applyPort old written p d).Kept base := by
  unfold applyPort
  repeat' first
      | with_reducible assumption | with_reducible apply ite_kept | with_reducible apply settlePort_kept
      | with_reducible apply planStatus_kept | with_reducible apply awaitPhy_kept
      | with_reducible apply judgeLane_kept | with_reducible apply enterAcquiring_kept
      | with_reducible apply leaveUp_kept | with_reducible apply onPort_kept | split

theorem applyPorts_kept (old : Dev) (written : Nat → Nat → Bool) (d : Dev) (hold : old.Kept base) (hd : d.Kept base)
    : (applyPorts old written d).Kept base := by
  unfold applyPorts
  repeat' first
      | with_reducible assumption | intro _ | with_reducible apply applyPort_kept
      | with_reducible apply judgeSleep_kept | with_reducible apply forEach_kept

theorem bootPorts_kept (d : Dev) (hd : d.Kept base) : (bootPorts d).Kept base := by
  unfold bootPorts
  repeat' first
      | with_reducible assumption | intro _ | with_reducible apply settlePorts_kept
      | with_reducible apply regroup_kept | with_reducible apply planStatus_kept
      | with_reducible apply forEach_kept

theorem portsOff_kept (d : Dev) (hd : d.Kept base) : (portsOff d).Kept base := by
  unfold portsOff
  repeat' first
      | with_reducible assumption | intro _ | with_reducible apply disablePort_kept
      | with_reducible apply forEach_kept

theorem pulseGroup_kept (g : Fin 4) (d : Dev) (hd : d.Kept base) : (pulseGroup g d).Kept base := by
  unfold pulseGroup
  repeat' first
      | with_reducible assumption | intro _ | with_reducible apply ite_kept | with_reducible apply scriptEnded_kept
      | with_reducible apply leaveUp_kept | with_reducible apply onPort_kept | with_reducible apply forEach_kept
      | split | dsimp only [id] | with_reducible apply Dev.Kept.upd

theorem execPhyResetEnd_kept (g : Fin 4) (s : State) (hs : s.dev.Kept base) : Keeps base (execPhyResetEnd g s) := by
  unfold execPhyResetEnd
  first | with_reducible apply does_kept _ _ hs | with_reducible apply doesJudged_kept _ _ hs | skip
  repeat' first
      | with_reducible assumption | intro _ | with_reducible apply ite_kept | with_reducible apply regroup_kept
      | with_reducible apply onPort_kept | with_reducible apply forEach_kept | with_reducible apply arrive_kept
      | split | dsimp only [id] | with_reducible apply Dev.Kept.upd

theorem readStatus_kept (p : Port) (v : BitVec 16) (d : Dev) (hd : d.Kept base) : (readStatus p v d).Kept base := by
  unfold readStatus
  repeat' first
      | with_reducible assumption | with_reducible apply ite_kept | with_reducible apply mdio_kept
      | with_reducible apply judgeLane_kept | with_reducible apply onPort_kept

theorem execPhyInterrupt_kept (g : Fin 4) (status : List (Port × BitVec 16)) (s : State) (hs : s.dev.Kept base)
    : Keeps base (execPhyInterrupt g status s) := by
  unfold execPhyInterrupt
  first | with_reducible apply does_kept _ _ hs | with_reducible apply doesJudged_kept _ _ hs | skip
  repeat' first
      | with_reducible assumption | intro _ | with_reducible apply ite_kept | with_reducible apply readStatus_kept
      | with_reducible apply forEach_kept | split | dsimp only [id] | with_reducible apply Dev.Kept.upd

theorem execPhyStatusPoll_kept (p : Port) (status : BitVec 16) (s : State) (hs : s.dev.Kept base) : Keeps base
    (execPhyStatusPoll p status s) := by
  unfold execPhyStatusPoll
  first | with_reducible apply does_kept _ _ hs | with_reducible apply doesJudged_kept _ _ hs | skip
  repeat' first
      | with_reducible assumption | intro _ | with_reducible apply readStatus_kept
      | with_reducible apply onPort_kept | with_reducible apply arrive_kept | split

end Sys2Proof.Machine
end

