-- ==== Sys2Proof/Laws/Kept/Health.lean ====
section
/-! SUPPORT. Each function of Machine/Health.lean keeps what every step keeps. -/

-- one declaration after the other: the package is also compiled as one text, in limited memory
set_option Elab.async false

set_option linter.all false

namespace Sys2Proof.Machine

variable {base : Base}

theorem onHealth_kept (f : HealthS → HealthS) (d : Dev) (hd : d.Kept base) : (onHealth f d).Kept base := by
  unfold onHealth
  repeat' first | with_reducible assumption | with_reducible apply Dev.Kept.upd

theorem onTracker_kept (f : Tracker → Tracker) (d : Dev) (hd : d.Kept base) : (onTracker f d).Kept base := by
  unfold onTracker
  repeat' first | with_reducible assumption | with_reducible apply onHealth_kept

theorem takeReadings_kept (readings : List SensorReading) (d : Dev) (hd : d.Kept base) :
    (takeReadings readings d).Kept base := by
  unfold takeReadings
  repeat' first | with_reducible assumption | with_reducible apply onHealth_kept

theorem plannerGate_kept (d : Dev) (hd : d.Kept base) : (plannerGate d).Kept base := by
  unfold plannerGate
  repeat' first | with_reducible assumption | with_reducible apply ite_kept | with_reducible apply onHealth_kept

theorem exhaust_kept (i : Nat) (d : Dev) (hd : d.Kept base) : (exhaust i d).Kept base := by
  unfold exhaust
  repeat' first
      | with_reducible assumption | with_reducible apply ite_kept | with_reducible apply onHealth_kept
      | with_reducible apply startRotation_kept | with_reducible apply raise_kept

theorem shortBranch_kept (islands : List Nat) (d : Dev) (hd : d.Kept base) :
    (shortBranch islands d).2.2.Kept base := by
  have hf : ∀ (l : List Nat) (x : List (Nat × Nat) × Option Nat × Dev), x.2.2.Kept base →
      (l.foldl (fun (x : List (Nat × Nat) × Option Nat × Dev) i =>
        match clockStep i with
        | some (step, floor_) =>
          let c := clockNow d i
          if floor_ < c then (x.1 ++ [(i, max floor_ (c - step))], x.2.1, x.2.2) else (x.1, x.2.1, exhaust i x.2.2)
        | none => (x.1, x.2.1, exhaust i x.2.2)) x).2.2.Kept base := by
    intro l
    induction l with
    | nil => exact fun _ h => h
    | cons i l ih =>
      intro x hx
      apply ih
      dsimp only
      split
      · split
        exacts [hx, exhaust_kept _ _ hx]
      · exact exhaust_kept _ _ hx
  unfold shortBranch
  dsimp only
  split
  exacts [hd, hf islands _ hd]

theorem shortBranch_kept_pair {islands : List Nat} {d d' : Dev} {a : List (Nat × Nat)} {o : Option Nat}
    (e : shortBranch islands d = (a, o, d')) (hd : d.Kept base) : d'.Kept base := by
  have := shortBranch_kept islands d hd
  rw [e] at this
  exact this

theorem handOver_kept (clocks : List (Nat × Nat)) (vcore : Option Nat) (guardAdd : Nat) (eq : List (Nat × EqSet)) (d
    : Dev) (hd : d.Kept base) : (handOver clocks vcore guardAdd eq d).Kept base := by
  unfold handOver
  repeat' first | with_reducible assumption | with_reducible apply ite_kept | with_reducible apply onHealth_kept

theorem makePlan_kept (d : Dev) (hd : d.Kept base) : (makePlan d).Kept base := by
  unfold makePlan
  repeat' first
      | with_reducible assumption | with_reducible apply handOver_kept | with_reducible apply shortBranch_kept
      | with_reducible apply onHealth_kept | split

theorem execPlanningPeriod_kept (s : State) (hs : s.dev.Kept base) : Keeps base (execPlanningPeriod s) := by
  unfold execPlanningPeriod
  first | with_reducible apply does_kept _ _ hs | with_reducible apply doesJudged_kept _ _ hs | skip
  repeat' first
      | with_reducible assumption | intro _ | with_reducible apply ite_kept | with_reducible apply makePlan_kept
      | with_reducible apply plannerGate_kept | with_reducible apply onHealth_kept
      | with_reducible apply arrive_kept | split

theorem urgent_kept (d : Dev) (hd : d.Kept base) : (urgent d).Kept base := by
  unfold urgent
  repeat' first
      | with_reducible assumption | intro _ | with_reducible apply ite_kept | with_reducible apply handOver_kept
      | with_reducible apply forEach_kept | with_reducible apply shortBranch_kept | with_reducible apply plannerGate_kept
      | with_reducible apply raise_kept | with_reducible apply bump_kept | split | dsimp only [id]

theorem execSensorScan_kept (readings : List SensorReading) (s : State) (hs : s.dev.Kept base) : Keeps base
    (execSensorScan readings s) := by
  unfold execSensorScan
  first | with_reducible apply does_kept _ _ hs | with_reducible apply doesJudged_kept _ _ hs | skip
  repeat' first
      | with_reducible assumption | intro _ | with_reducible apply urgent_kept
      | with_reducible apply takeReadings_kept | with_reducible apply onHealth_kept
      | with_reducible apply arrive_kept | split

theorem planDone_kept (d : Dev) (hd : d.Kept base) : (planDone d).Kept base := by
  unfold planDone
  repeat' first
      | with_reducible assumption | with_reducible apply onHealth_kept | with_reducible apply raise_kept
      | with_reducible apply bump_kept | with_reducible apply setReg_kept

theorem followUp_kept (d : Dev) (hd : d.Kept base) : (followUp d).Kept base := by
  unfold followUp
  repeat' first
      | with_reducible assumption | with_reducible apply ite_kept | with_reducible apply planDone_kept
      | with_reducible apply onHealth_kept | split

theorem setClocks_kept (l : List (Nat × Nat)) (d : Dev) (hd : d.Kept base) : (setClocks l d).Kept base := by
  unfold setClocks
  repeat' first
      | with_reducible assumption | intro _ | with_reducible apply onHealth_kept
      | with_reducible apply forEach_kept

theorem setEq_kept (p : Port) (e : EqSet) (d : Dev) (hd : d.Kept base) : (setEq p e d).Kept base := by
  unfold setEq
  repeat' first
      | with_reducible assumption | with_reducible apply ite_kept | with_reducible apply adaptReceiver_kept
      | with_reducible apply onPort_kept

theorem execPlanApply_kept (s : State) (hs : s.dev.Kept base) : Keeps base (execPlanApply s) := by
  unfold execPlanApply
  first | with_reducible apply does_kept _ _ hs | with_reducible apply doesJudged_kept _ _ hs | skip
  repeat' first
      | with_reducible assumption | intro _ | with_reducible apply ite_kept | with_reducible apply setEq_kept
      | with_reducible apply setClocks_kept | with_reducible apply planDone_kept
      | with_reducible apply onHealth_kept | with_reducible apply forEach_kept
      | with_reducible apply arriveTrain_kept | with_reducible apply emit_kept | with_reducible apply bump_kept
      | split | dsimp only [id] | with_reducible apply Dev.Kept.upd

theorem voltageFails_kept (d : Dev) (hd : d.Kept base) : (voltageFails d).Kept base := by
  unfold voltageFails
  repeat' first
      | with_reducible assumption | with_reducible apply setClocks_kept | with_reducible apply onHealth_kept
      | with_reducible apply raise_kept | with_reducible apply bump_kept

theorem execReadVout_kept (mv : BitVec 16) (s : State) (hs : s.dev.Kept base) : Keeps base (execReadVout mv s) := by
  unfold execReadVout
  first | with_reducible apply does_kept _ _ hs | with_reducible apply doesJudged_kept _ _ hs | skip
  repeat' first
      | with_reducible assumption | intro _ | with_reducible apply ite_kept
      | with_reducible apply voltageFails_kept | with_reducible apply followUp_kept
      | with_reducible apply setReg_kept | dsimp only [id] | with_reducible apply Dev.Kept.upd

theorem execReadVoutTimeout_kept (s : State) (hs : s.dev.Kept base) : Keeps base (execReadVoutTimeout s) := by
  unfold execReadVoutTimeout
  first | with_reducible apply does_kept _ _ hs | with_reducible apply doesJudged_kept _ _ hs | skip
  repeat' first
      | with_reducible assumption | intro _ | with_reducible apply ite_kept
      | with_reducible apply voltageFails_kept | with_reducible apply arrive_kept | split

theorem trimIncrement_kept (d : Dev) (hd : d.Kept base) : (trimIncrement d).Kept base := by
  unfold trimIncrement
  repeat' first | with_reducible assumption | with_reducible apply ite_kept | with_reducible apply setReg_kept

theorem execTrackerUpdate_kept (s : State) (hs : s.dev.Kept base) : Keeps base (execTrackerUpdate s) := by
  unfold execTrackerUpdate
  first | with_reducible apply does_kept _ _ hs | with_reducible apply doesJudged_kept _ _ hs | skip
  repeat' first
      | with_reducible assumption | intro _ | with_reducible apply trimIncrement_kept
      | with_reducible apply onTracker_kept | with_reducible apply onlyIf_kept | with_reducible apply arrive_kept
      | split

theorem execTrackerHourlyMean_kept (s : State) (hs : s.dev.Kept base) : Keeps base (execTrackerHourlyMean s) := by
  unfold execTrackerHourlyMean
  first | with_reducible apply does_kept _ _ hs | with_reducible apply doesJudged_kept _ _ hs | skip
  repeat' first
      | with_reducible assumption | intro _ | with_reducible apply ite_kept | with_reducible apply onTracker_kept

theorem emptyTracker_kept (d : Dev) (hd : d.Kept base) : (emptyTracker d).Kept base := by
  unfold emptyTracker
  repeat' first | with_reducible assumption | with_reducible apply onTracker_kept

theorem writeHealth_kept (d : Dev) (hd : d.Kept base) : (writeHealth d).Kept base := by
  unfold writeHealth
  repeat' first
      | with_reducible assumption | with_reducible apply ite_kept | with_reducible apply onHealth_kept
      | with_reducible apply bump_kept

theorem execHealthRecordWrite_kept (s : State) (hs : s.dev.Kept base) : Keeps base (execHealthRecordWrite s) := by
  unfold execHealthRecordWrite
  first | with_reducible apply does_kept _ _ hs | with_reducible apply doesJudged_kept _ _ hs | skip
  repeat' first
      | with_reducible assumption | intro _ | with_reducible apply writeHealth_kept
      | with_reducible apply onHealth_kept | with_reducible apply arrive_kept | split

theorem closeLogs_kept (cause : Nat) (d : Dev) (hd : d.Kept base) : (closeLogs cause d).Kept base := by
  unfold closeLogs
  repeat' first
      | with_reducible assumption | with_reducible apply writeHealth_kept | with_reducible apply closeRecorder_kept
      | split

theorem healthBoot_kept (d : Dev) (hd : d.Kept base) : (healthBoot d).Kept base := by
  unfold healthBoot
  repeat' first
      | with_reducible assumption | with_reducible apply onTracker_kept | with_reducible apply onHealth_kept
      | with_reducible apply raise_kept | split

theorem execSnapshotPeriod_kept (s : State) (hs : s.dev.Kept base) : Keeps base (execSnapshotPeriod s) := by
  unfold execSnapshotPeriod
  first | with_reducible apply does_kept _ _ hs | with_reducible apply doesJudged_kept _ _ hs | skip
  repeat' first
      | with_reducible assumption | intro _ | with_reducible apply ite_kept | with_reducible apply onHealth_kept
      | with_reducible apply snapshot_kept | with_reducible apply arriveTrain_kept

theorem junctionReading_kept (reading : Int) (d : Dev) (hd : d.Kept base) :
    (junctionReading reading d).Kept base := by
  unfold junctionReading
  repeat' first
      | with_reducible assumption | with_reducible apply ite_kept | with_reducible apply raise_kept
      | dsimp only [id] | with_reducible apply Dev.Kept.upd

end Sys2Proof.Machine
end

