-- ==== Sys2Proof/Laws/Kept/Platform.lean ====
section
/-! SUPPORT. Each function of Machine/Platform.lean keeps what every step keeps. -/

-- one declaration after the other: the package is also compiled as one text, in limited memory
set_option Elab.async false

set_option linter.all false

namespace Sys2Proof.Machine

variable {base : Base}

theorem onPow_kept (f : PowerS → PowerS) (d : Dev) (hd : d.Kept base) : (onPow f d).Kept base := by
  unfold onPow
  repeat' first | with_reducible assumption | with_reducible apply Dev.Kept.upd

theorem resetIslands_kept (phys : Vector Bool 4) (d : Dev) (hd : d.Kept base) : (resetIslands phys d).Kept base := by
  unfold resetIslands
  dsimp only
  apply onlyIf_kept
  · exact fun h => raise_kept _ _ _ h
  · exact ⟨⟨Store.filter_wf _ _ hd.dict.od, rfl, hd.1.2.2⟩, ⟨rfl, rfl⟩, rfl, rfl, hd.chip, ⟨TimeS.reset_raw, TimeS.reset_step⟩, hd.sec⟩

theorem dropRails_kept (d : Dev) (hd : d.Kept base) : (dropRails d).Kept base := by
  unfold dropRails
  repeat' first | with_reducible assumption | with_reducible apply onPow_kept

theorem enterLowPower_kept (standby : Bool) (d : Dev) (hd : d.Kept base) : (enterLowPower standby d).Kept base := by
  unfold enterLowPower
  repeat' first
      | with_reducible assumption | with_reducible apply dropRails_kept | with_reducible apply resetIslands_kept
      | with_reducible apply onPow_kept | split | dsimp only [id] | with_reducible apply Dev.Kept.upd

theorem startBoot_kept (cause : Nat) (d : Dev) (hd : d.Kept base) : (startBoot cause d).Kept base := by
  unfold startBoot
  repeat' first | with_reducible assumption | with_reducible apply onPow_kept | with_reducible apply bump_kept

theorem leaveReset_kept (d : Dev) (hd : d.Kept base) : (leaveReset d).Kept base := by
  unfold leaveReset
  exact recorderBoot_kept _ (onPow_kept _ _ (Dev.Kept.upd_time _ _ _ _ _ _ _ _ _ _ _ _ _ _ _ _ _ hd
    ⟨TimeS.reset_raw, TimeS.reset_step⟩))

end Sys2Proof.Machine
end

