-- ==== Sys2Proof/Laws/Kept/Sleep.lean ====
section
/-! SUPPORT. Each function of Machine/Sleep.lean keeps what every step keeps. -/

-- one declaration after the other: the package is also compiled as one text, in limited memory
set_option Elab.async false

set_option linter.all false

namespace Sys2Proof.Machine

variable {base : Base}

theorem widenScope_kept (n : Nat) (d : Dev) (hd : d.Kept base) : (widenScope n d).Kept base := by
  unfold widenScope
  repeat' first
      | with_reducible assumption | with_reducible apply ite_kept | with_reducible apply settlePorts_kept
      | with_reducible apply onSleep_kept

theorem pulseTwl_kept (d : Dev) (hd : d.Kept base) : (pulseTwl d).Kept base := by
  unfold pulseTwl
  repeat' first
      | with_reducible assumption | with_reducible apply ite_kept | with_reducible apply onSleep_kept
      | with_reducible apply bump_kept

theorem judgeNeed_kept (fromTwl : Bool) (d : Dev) (hd : d.Kept base) : (judgeNeed fromTwl d).Kept base := by
  unfold judgeNeed
  repeat' first
      | with_reducible assumption | intro _ | with_reducible apply pulseTwl_kept
      | with_reducible apply widenScope_kept | with_reducible apply onSleep_kept | with_reducible apply onlyIf_kept

theorem settleNeed_kept (fromTwl : Bool) (d : Dev) (hd : d.Kept base) : (settleNeed fromTwl d).Kept base := by
  unfold settleNeed
  repeat' first
      | with_reducible assumption | with_reducible apply judgeNeed_kept | with_reducible apply judgeSleep_kept

theorem sendKeepAlive_kept (final rear : Bool) (d : Dev) (hd : d.Kept base) :
    (sendKeepAlive final rear d).Kept base := by
  unfold sendKeepAlive
  repeat' first
      | with_reducible assumption | intro _ | with_reducible apply onSleep_kept | with_reducible apply sendOwn_kept
      | with_reducible apply forEach_kept

theorem execKeepAlivePeriod_kept (s : State) (hs : s.dev.Kept base) : Keeps base (execKeepAlivePeriod s) := by
  unfold execKeepAlivePeriod
  first | with_reducible apply does_kept _ _ hs | with_reducible apply doesJudged_kept _ _ hs | skip
  repeat' first
      | with_reducible assumption | intro _ | with_reducible apply sendKeepAlive_kept
      | with_reducible apply onSleep_kept | with_reducible apply arrive_kept | split

theorem execKeepAlive_kept (p : Port) (m : KeepAliveMsg) (s : State) (hs : s.dev.Kept base) : Keeps base
    (execKeepAlive p m s) := by
  unfold execKeepAlive
  first | with_reducible apply does_kept _ _ hs | with_reducible apply doesJudged_kept _ _ hs | skip
  repeat' first
      | with_reducible assumption | intro _ | with_reducible apply ite_kept | with_reducible apply widenScope_kept
      | with_reducible apply onSleep_kept | with_reducible apply countGood_kept | with_reducible apply onlyIf_kept
      | with_reducible apply bump_kept

theorem execSilentSide_kept (rear : Bool) (s : State) (hs : s.dev.Kept base) : Keeps base
    (execSilentSide rear s) := by
  unfold execSilentSide
  first | with_reducible apply does_kept _ _ hs | with_reducible apply doesJudged_kept _ _ hs | skip
  repeat' first
      | with_reducible assumption | intro _ | with_reducible apply onSleep_kept | with_reducible apply arrive_kept
      | split

theorem spendSources_kept (sources : List Nat) (d : Dev) (hd : d.Kept base) : (spendSources sources d).Kept base := by
  unfold spendSources
  repeat' first | with_reducible assumption | with_reducible apply onSleep_kept

theorem readoutPort_kept (p : Port) (d : Dev) (hd : d.Kept base) : (readoutPort p d).Kept base := by
  unfold readoutPort
  repeat' first | with_reducible assumption | with_reducible apply mdio_kept

theorem requestActive_kept (r : WakeRec) (woken : List Port) (d : Dev) (hd : d.Kept base) :
    (requestActive r woken d).Kept base := by
  unfold requestActive
  repeat' first
      | with_reducible assumption | with_reducible apply startBoot_kept | with_reducible apply onSleep_kept
      | with_reducible apply raiseP_kept

theorem wakeNow_kept (latched : Bool) (sources : List Nat) (d : Dev) (hd : d.Kept base) :
    (wakeNow latched sources d).Kept base := by
  unfold wakeNow
  repeat' first
      | with_reducible assumption | intro _ | with_reducible apply ite_kept
      | with_reducible apply requestActive_kept | with_reducible apply readoutPort_kept
      | with_reducible apply pulseTwl_kept | with_reducible apply onSleep_kept | with_reducible apply onlyIf_kept
      | with_reducible apply forEach_kept | dsimp only [id] | with_reducible apply Dev.Kept.upd_host
      | with_reducible apply Dev.Kept.host | with_reducible apply HostS.Canonical.pcie
      | with_reducible apply HostS.Canonical.serial | with_reducible apply HostS.Canonical.intro

theorem latchWake_kept (sources : List Nat) (d : Dev) (hd : d.Kept base) : (latchWake sources d).Kept base := by
  unfold latchWake
  repeat' first
      | with_reducible assumption | with_reducible apply ite_kept | with_reducible apply onSleep_kept
      | with_reducible apply raise_kept

theorem acceptWake_kept (src : Nat) (also : AlsoAccepted) (d : Dev) (hd : d.Kept base) :
    (acceptWake src also d).Kept base := by
  unfold acceptWake
  repeat' first
      | with_reducible assumption | intro _ | with_reducible apply latchWake_kept
      | with_reducible apply wakeNow_kept | with_reducible apply readoutPort_kept
      | with_reducible apply spendSources_kept | with_reducible apply settleNeed_kept
      | with_reducible apply onSleep_kept | with_reducible apply forEach_kept | with_reducible apply bump_kept
      | split | dsimp only [id]

theorem inputWake_kept (src : Nat) (also : AlsoAccepted) (s : State) (hs : s.dev.Kept base) : Keeps base
    (inputWake src also s) := by
  unfold inputWake
  first | with_reducible apply does_kept _ _ hs | with_reducible apply doesJudged_kept _ _ hs | skip
  repeat' first
      | with_reducible assumption | intro _ | with_reducible apply ite_kept | with_reducible apply acceptWake_kept

theorem execTrainWakeLine_kept (also : AlsoAccepted) (s : State) (hs : s.dev.Kept base) : Keeps base
    (execTrainWakeLine also s) := by
  unfold execTrainWakeLine
  first | with_reducible apply does_kept _ _ hs | with_reducible apply doesJudged_kept _ _ hs | with_reducible apply inputWake_kept | skip
  repeat' first | with_reducible assumption

theorem execLocalWake_kept (b : Bool) (also : AlsoAccepted) (s : State) (hs : s.dev.Kept base) : Keeps base
    (execLocalWake b also s) := by
  unfold execLocalWake
  first | with_reducible apply does_kept _ _ hs | with_reducible apply doesJudged_kept _ _ hs | with_reducible apply inputWake_kept | skip
  repeat' first | with_reducible assumption

theorem execBusWake_kept (c : CanId) (also : AlsoAccepted) (s : State) (hs : s.dev.Kept base) : Keeps base
    (execBusWake c also s) := by
  unfold execBusWake
  first | with_reducible apply does_kept _ _ hs | with_reducible apply doesJudged_kept _ _ hs | with_reducible apply inputWake_kept | skip
  repeat' first | with_reducible assumption

theorem execPhyWake_kept (g : Fin 4) (also : AlsoAccepted) (s : State) (hs : s.dev.Kept base) : Keeps base
    (execPhyWake g also s) := by
  unfold execPhyWake
  first | with_reducible apply does_kept _ _ hs | with_reducible apply doesJudged_kept _ _ hs | with_reducible apply inputWake_kept | skip
  repeat' first | with_reducible assumption

theorem execPhyWakeReadoutEnd_kept (woken : List Port) (s : State) (hs : s.dev.Kept base) : Keeps base
    (execPhyWakeReadoutEnd woken s) := by
  unfold execPhyWakeReadoutEnd
  first | with_reducible apply does_kept _ _ hs | with_reducible apply doesJudged_kept _ _ hs | skip
  repeat' first
      | with_reducible assumption | intro _ | with_reducible apply requestActive_kept
      | with_reducible apply arrive_kept | split

theorem execWakeTimer_kept (also : AlsoAccepted) (s : State) (hs : s.dev.Kept base) : Keeps base
    (execWakeTimer also s) := by
  unfold execWakeTimer
  first | with_reducible apply does_kept _ _ hs | with_reducible apply doesJudged_kept _ _ hs | skip
  repeat' first
      | with_reducible assumption | intro _ | with_reducible apply ite_kept | with_reducible apply acceptWake_kept
      | with_reducible apply onSleep_kept | with_reducible apply arrive_kept | split

theorem execWakeInputInactive_kept (source : Fin 18) (s : State) (hs : s.dev.Kept base) : Keeps base
    (execWakeInputInactive source s) := by
  unfold execWakeInputInactive
  first | with_reducible apply does_kept _ _ hs | with_reducible apply doesJudged_kept _ _ hs | skip
  repeat' first
      | with_reducible assumption | intro _ | with_reducible apply ite_kept | with_reducible apply settleNeed_kept
      | with_reducible apply onSleep_kept

theorem execTwlOutPulseEnd_kept (s : State) (hs : s.dev.Kept base) : Keeps base (execTwlOutPulseEnd s) := by
  unfold execTwlOutPulseEnd
  first | with_reducible apply does_kept _ _ hs | with_reducible apply doesJudged_kept _ _ hs | skip
  repeat' first
      | with_reducible assumption | intro _ | with_reducible apply onSleep_kept | with_reducible apply arrive_kept
      | split

theorem hostAwake_kept (v : Bool) (d : Dev) (hd : d.Kept base) : (hostAwake v d).Kept base := by
  unfold hostAwake
  repeat' first
      | with_reducible assumption | with_reducible apply ite_kept | with_reducible apply latchWake_kept
      | with_reducible apply settleNeed_kept | with_reducible apply onSleep_kept | with_reducible apply setReg_kept

theorem execMaximumAwakeExpiry_kept (s : State) (hs : s.dev.Kept base) : Keeps base (execMaximumAwakeExpiry s) := by
  unfold execMaximumAwakeExpiry
  first | with_reducible apply does_kept _ _ hs | with_reducible apply doesJudged_kept _ _ hs | skip
  repeat' first
      | with_reducible assumption | intro _ | with_reducible apply settleNeed_kept
      | with_reducible apply onSleep_kept | with_reducible apply raise_kept | with_reducible apply arrive_kept
      | with_reducible apply bump_kept | with_reducible apply setReg_kept | split

theorem execPostWakeHoldEnd_kept (s : State) (hs : s.dev.Kept base) : Keeps base (execPostWakeHoldEnd s) := by
  unfold execPostWakeHoldEnd
  first | with_reducible apply does_kept _ _ hs | with_reducible apply doesJudged_kept _ _ hs | skip
  repeat' first
      | with_reducible assumption | intro _ | with_reducible apply settleNeed_kept
      | with_reducible apply onSleep_kept | with_reducible apply arrive_kept | split

theorem execReadySleepExpiry_kept (s : State) (hs : s.dev.Kept base) : Keeps base (execReadySleepExpiry s) := by
  unfold execReadySleepExpiry
  first | with_reducible apply does_kept _ _ hs | with_reducible apply doesJudged_kept _ _ hs | skip
  repeat' first
      | with_reducible assumption | intro _ | with_reducible apply sendKeepAlive_kept
      | with_reducible apply onSleep_kept | with_reducible apply raise_kept | with_reducible apply setInt_kept
      | with_reducible apply arrive_kept | split

theorem quiesce_kept (d : Dev) (hd : d.Kept base) : (quiesce d).Kept base := by
  unfold quiesce
  repeat' first
      | with_reducible assumption | intro _ | with_reducible apply closeLogs_kept
      | with_reducible apply portsOff_kept | with_reducible apply onSleep_kept
      | with_reducible apply leaveMode_kept | with_reducible apply streamsOff_kept
      | with_reducible apply recorderOff_kept | with_reducible apply loadsSleep_kept
      | with_reducible apply onlyIf_kept | with_reducible apply forEach_kept | with_reducible apply raise_kept
      | with_reducible apply bump_kept | dsimp only [id] | with_reducible apply Dev.Kept.upd

theorem execQuiesce_kept (s : State) (hs : s.dev.Kept base) : Keeps base (execQuiesce s) := by
  unfold execQuiesce
  first | with_reducible apply does_kept _ _ hs | with_reducible apply doesJudged_kept _ _ hs | skip
  repeat' first
      | with_reducible assumption | intro _ | with_reducible apply ite_kept | with_reducible apply quiesce_kept
      | with_reducible apply arrive_kept | split

theorem enterSleep_kept (d : Dev) (hd : d.Kept base) : (enterSleep d).Kept base := by
  unfold enterSleep
  repeat' first
      | with_reducible assumption | intro _ | with_reducible apply wakeNow_kept
      | with_reducible apply enterLowPower_kept | with_reducible apply onSleep_kept
      | with_reducible apply onlyIf_kept | with_reducible apply raise_kept | with_reducible apply bump_kept
      | with_reducible apply setReg_kept | split | dsimp only [id]

theorem execSleepEntry_kept (s : State) (hs : s.dev.Kept base) : Keeps base (execSleepEntry s) := by
  unfold execSleepEntry
  first | with_reducible apply does_kept _ _ hs | with_reducible apply doesJudged_kept _ _ hs | skip
  repeat' first
      | with_reducible assumption | intro _ | with_reducible apply ite_kept | with_reducible apply enterSleep_kept
      | with_reducible apply quiesce_kept | with_reducible apply arrive_kept | split

theorem abandonSleep_kept (d : Dev) (hd : d.Kept base) : (abandonSleep d).Kept base := by
  unfold abandonSleep
  repeat' first | with_reducible assumption | with_reducible apply onSleep_kept

theorem sleepBooted_kept (d : Dev) (hd : d.Kept base) : (sleepBooted d).Kept base := by
  unfold sleepBooted
  repeat' first
      | with_reducible assumption | with_reducible apply settleNeed_kept | with_reducible apply onSleep_kept
      | split

end Sys2Proof.Machine
end

