-- ==== Sys2Proof/Laws/Kept/HostLink.lean ====
section
/-! SUPPORT. Each function of Machine/HostLink.lean keeps what every step keeps. -/

-- one declaration after the other: the package is also compiled as one text, in limited memory
set_option Elab.async false

set_option linter.all false

namespace Sys2Proof.Machine

variable {base : Base}

theorem onHost_kept (f : HostS → HostS) (d : Dev) (hd : d.Kept base) (hf : ∀ x : HostS, x.Canonical →
    (f x).Canonical) :
    (onHost f d).Kept base := ⟨hd.dict, hf _ hd.host, hd.2.2⟩

theorem onPath_kept (path : HostPath) (f : Dev → Dev) (d : Dev) (hf : ∀  (d : Dev), d.Kept base → (f  d).Kept base)
    (hd : d.Kept base) : (onPath path f d).Kept base := by
  unfold onPath
  repeat' first | with_reducible assumption | with_reducible apply ite_kept | with_reducible apply hf

theorem riseVectors_kept (old : HostS) (d : Dev) (hd : d.Kept base) : (riseVectors old d).Kept base := by
  unfold riseVectors
  repeat' first
      | with_reducible assumption | intro _ | with_reducible apply ite_kept | with_reducible apply forEach_kept
      | with_reducible apply sendVector_kept

theorem mailboxOf_kept (h : HostS) (path : HostPath) (hh : h.Canonical) : Memory.wf
    (mailboxOf h path).window = true := by
  cases path
  exacts [hh.pcie, hh.serial]

theorem onMailbox_kept (path : HostPath) (f : Mailbox → Mailbox) (d : Dev) (hd : d.Kept base)
    (hf : ∀ m : Mailbox, Memory.wf m.window = true → Memory.wf (f m).window = true) : (onMailbox path f d).Kept base := by
  cases path
  · exact ⟨hd.dict, ⟨hf _ hd.host.pcie, hd.host.serial⟩, hd.2.2⟩
  · exact ⟨hd.dict, ⟨hd.host.pcie, hf _ hd.host.serial⟩, hd.2.2⟩

theorem fetchNext_kept (r : Fin 10) (d : Dev) (hd : d.Kept base) : (fetchNext r d).Kept base := by
  unfold fetchNext
  repeat' first
      | with_reducible assumption | with_reducible apply ite_kept | with_reducible apply onRing_kept
      | with_reducible apply emit_kept

theorem stopRing_kept (r : Fin 10) (code : Nat) (d : Dev) (hd : d.Kept base) : (stopRing r code d).Kept base := by
  unfold stopRing
  repeat' first | with_reducible assumption | with_reducible apply onRing_kept | with_reducible apply setInt_kept

theorem enableRing_kept (r : Fin 10) (d : Dev) (hd : d.Kept base) : (enableRing r d).Kept base := by
  unfold enableRing
  repeat' first
      | with_reducible assumption | with_reducible apply ite_kept | with_reducible apply onRing_kept
      | with_reducible apply setInt_kept

theorem disableRing_kept (r : Fin 10) (d : Dev) (hd : d.Kept base) : (disableRing r d).Kept base := by
  unfold disableRing
  repeat' first | with_reducible assumption | with_reducible apply onRing_kept

theorem writeTail_kept (r : Fin 10) (v : Nat) (d : Dev) (hd : d.Kept base) : (writeTail r v d).Kept base := by
  unfold writeTail
  repeat' first
      | with_reducible assumption | with_reducible apply ite_kept | with_reducible apply fetchNext_kept
      | with_reducible apply onRing_kept

theorem stampCopy_kept (p : Port) (uid : Nat) (d : Dev) (hd : d.Kept base) : (stampCopy p uid d).Kept base := by
  unfold stampCopy
  repeat' first
      | with_reducible assumption | with_reducible apply ite_kept | with_reducible apply takeIdent_kept
      | with_reducible apply onFab_kept

theorem admitTx_kept (r : Fin 10) (index : Nat) (desc buf : List Byte) (d : Dev) (hd : d.Kept base) :
    (admitTx r index desc buf d).Kept base := by
  unfold admitTx
  repeat' first
      | with_reducible assumption | intro _ | with_reducible apply stampCopy_kept
      | with_reducible apply dispatchFrame_kept | with_reducible apply onlyIf_kept | with_reducible apply draw_kept
      | split

theorem serveBlock_kept (d : Dev) (hd : d.Kept base) : (serveBlock d).Kept base := by
  unfold serveBlock
  repeat' first
      | with_reducible assumption | with_reducible apply ite_kept | with_reducible apply fetchNext_kept
      | with_reducible apply onStream_kept | with_reducible apply writeBackOne_kept
      | with_reducible apply onRing_kept | with_reducible apply emits_kept | split | dsimp only [id]

theorem takeBlock_kept (i : Nat) (desc bytes : List Byte) (d : Dev) (hd : d.Kept base) :
    (takeBlock i desc bytes d).Kept base := by
  unfold takeBlock
  repeat' first
      | with_reducible assumption | with_reducible apply fetchNext_kept | with_reducible apply onStream_kept
      | with_reducible apply writeBackOne_kept | with_reducible apply onRing_kept

theorem takeDescriptor_kept (r : Fin 10) (i : Nat) (desc : List Byte) (d : Dev) (hd : d.Kept base) :
    (takeDescriptor r i desc d).Kept base := by
  unfold takeDescriptor
  repeat' first
      | with_reducible assumption | with_reducible apply ite_kept | with_reducible apply serveBlock_kept
      | with_reducible apply fetchNext_kept | with_reducible apply sweepCells_kept
      | with_reducible apply drainHost_kept | with_reducible apply completeTx_kept
      | with_reducible apply onRing_kept | with_reducible apply emit_kept

theorem execDmaReadCompletion_kept (ring : Fin 10) (bytes : List Byte) (s : State) (hs : s.dev.Kept base)
    : Keeps base (execDmaReadCompletion ring bytes s) := by
  unfold execDmaReadCompletion
  first | with_reducible apply does_kept _ _ hs | with_reducible apply doesJudged_kept _ _ hs | skip
  repeat' first
      | with_reducible assumption | intro _ | with_reducible apply ite_kept
      | with_reducible apply takeDescriptor_kept | with_reducible apply takeBlock_kept
      | with_reducible apply admitTx_kept | with_reducible apply fetchNext_kept | with_reducible apply onRing_kept
      | split

theorem execSampleFetch_kept (s : Fin 64) (st : State) (hs : st.dev.Kept base) : Keeps base
    (execSampleFetch s st) := by
  unfold execSampleFetch
  first | with_reducible apply does_kept _ _ hs | with_reducible apply doesJudged_kept _ _ hs | skip
  repeat' first
      | with_reducible assumption | intro _ | with_reducible apply ite_kept | with_reducible apply serveBlock_kept
      | split

theorem execDmaError_kept (ring : Fin 10) (s : State) (hs : s.dev.Kept base) : Keeps base (execDmaError ring s) := by
  unfold execDmaError
  first | with_reducible apply does_kept _ _ hs | with_reducible apply doesJudged_kept _ _ hs | skip
  repeat' first
      | with_reducible assumption | intro _ | with_reducible apply ite_kept | with_reducible apply stopRing_kept

theorem execDmaCompletionTimeout_kept (ring : Fin 10) (s : State) (hs : s.dev.Kept base) : Keeps base
    (execDmaCompletionTimeout ring s) := by
  unfold execDmaCompletionTimeout
  first | with_reducible apply does_kept _ _ hs | with_reducible apply doesJudged_kept _ _ hs | skip
  repeat' first
      | with_reducible assumption | intro _ | with_reducible apply stopRing_kept | with_reducible apply arrive_kept
      | split

theorem execRingEnable_kept (path : HostPath) (ring : Fin 10) (s : State) (hs : s.dev.Kept base) : Keeps base
    (execRingEnable path ring s) := by
  unfold execRingEnable
  first | with_reducible apply does_kept _ _ hs | with_reducible apply doesJudged_kept _ _ hs | skip
  repeat' first
      | with_reducible assumption | intro _ | with_reducible apply ite_kept | with_reducible apply enableRing_kept
      | with_reducible apply onPath_kept

theorem execRingDisable_kept (path : HostPath) (ring : Fin 10) (s : State) (hs : s.dev.Kept base) : Keeps base
    (execRingDisable path ring s) := by
  unfold execRingDisable
  first | with_reducible apply does_kept _ _ hs | with_reducible apply doesJudged_kept _ _ hs | skip
  repeat' first
      | with_reducible assumption | intro _ | with_reducible apply ite_kept | with_reducible apply disableRing_kept
      | with_reducible apply onPath_kept

theorem execTail_kept (path : HostPath) (ring : Fin 10) (value : Word32) (s : State) (hs : s.dev.Kept base)
    : Keeps base (execTail path ring value s) := by
  unfold execTail
  first | with_reducible apply does_kept _ _ hs | with_reducible apply doesJudged_kept _ _ hs | skip
  repeat' first
      | with_reducible assumption | intro _ | with_reducible apply ite_kept | with_reducible apply writeTail_kept
      | with_reducible apply onPath_kept

theorem execRingModerationEnd_kept (ring : Fin 10) (s : State) (hs : s.dev.Kept base) : Keeps base
    (execRingModerationEnd ring s) := by
  unfold execRingModerationEnd
  first | with_reducible apply does_kept _ _ hs | with_reducible apply doesJudged_kept _ _ hs | skip
  repeat' first
      | with_reducible assumption | intro _ | with_reducible apply ite_kept | with_reducible apply onRing_kept
      | with_reducible apply setInt_kept | with_reducible apply arrive_kept | split | dsimp only [id]

theorem clearInt_kept (v : Word32) (d : Dev) (hd : d.Kept base) : (clearInt v d).Kept base := by
  unfold clearInt
  repeat' first
      | with_reducible assumption | intro _ | with_reducible apply ite_kept | with_reducible apply onHost_kept
      | with_reducible apply forEach_kept | with_reducible apply sendVector_kept | dsimp only [id]
      | with_reducible apply HostS.Canonical.pcie | with_reducible apply HostS.Canonical.serial
      | with_reducible apply HostS.Canonical.intro

theorem execIntStatusClear_kept (path : HostPath) (value : Word32) (s : State) (hs : s.dev.Kept base) : Keeps base
    (execIntStatusClear path value s) := by
  unfold execIntStatusClear
  first | with_reducible apply does_kept _ _ hs | with_reducible apply doesJudged_kept _ _ hs | skip
  repeat' first
      | with_reducible assumption | intro _ | with_reducible apply clearInt_kept | with_reducible apply onPath_kept

theorem snapTime_kept (path : HostPath) (d : Dev) (hd : d.Kept base) : (snapTime path d).Kept base := by
  unfold snapTime
  repeat' first
      | with_reducible assumption | intro _ | with_reducible apply onHost_kept | split | dsimp only [id]
      | with_reducible apply HostS.Canonical.pcie | with_reducible apply HostS.Canonical.serial
      | with_reducible apply HostS.Canonical.intro

theorem captureTime_kept (path : HostPath) (d : Dev) (hd : d.Kept base) : (captureTime path d).Kept base := by
  unfold captureTime
  repeat' first
      | with_reducible assumption | intro _ | with_reducible apply ite_kept | with_reducible apply onHost_kept
      | with_reducible apply setInt_kept | split | dsimp only [id] | with_reducible apply HostS.Canonical.pcie
      | with_reducible apply HostS.Canonical.serial | with_reducible apply HostS.Canonical.intro

theorem execTcapTrigger_kept (path : HostPath) (s : State) (hs : s.dev.Kept base) : Keeps base
    (execTcapTrigger path s) := by
  unfold execTcapTrigger
  first | with_reducible apply does_kept _ _ hs | with_reducible apply doesJudged_kept _ _ hs | skip
  repeat' first
      | with_reducible assumption | intro _ | with_reducible apply captureTime_kept
      | with_reducible apply onPath_kept

theorem beforeRead_kept (path : HostPath) (off : Nat) (d : Dev) (hd : d.Kept base) :
    (beforeRead path off d).Kept base := by
  unfold beforeRead
  repeat' first | with_reducible assumption | with_reducible apply ite_kept | with_reducible apply snapTime_kept

theorem afterRead_kept (path : HostPath) (off : Nat) (d : Dev) (hd : d.Kept base) :
    (afterRead path off d).Kept base := by
  unfold afterRead
  repeat' first
      | with_reducible assumption | intro _ | with_reducible apply ite_kept | with_reducible apply onHost_kept
      | with_reducible apply onRing_kept | dsimp only [id] | with_reducible apply HostS.Canonical.pcie
      | with_reducible apply HostS.Canonical.serial | with_reducible apply HostS.Canonical.intro

theorem readOne_kept (path : HostPath) (off : Nat) (d : Dev) (hd : d.Kept base) :
    (readOne path off d).2.Kept base := by
  unfold readOne
  repeat' first
      | with_reducible assumption | with_reducible apply afterRead_kept | with_reducible apply beforeRead_kept

theorem readOne_pair_kept {path : HostPath} {off : Nat} {d : Dev} {r0 : _} {d' : Dev} (e : readOne path off d = (r0, d'))
    (hd : d.Kept base) : d'.Kept base := by
  have := readOne_kept path off d hd
  rw [e] at this
  exact this

theorem readReg_kept (path : HostPath) (off : Nat) (s : State) (hs : s.dev.Kept base) : Keeps base
    (readReg path off s) := by
  unfold readReg
  first | with_reducible apply does_kept _ _ hs | with_reducible apply doesJudged_kept _ _ hs | skip
  repeat' first
      | with_reducible assumption | intro _ | with_reducible apply readOne_kept | with_reducible apply onPath_kept
      | with_reducible apply emit_kept

theorem execTimeLoRead_kept (path : HostPath) (s : State) (hs : s.dev.Kept base) : Keeps base
    (execTimeLoRead path s) := by
  unfold execTimeLoRead
  first | with_reducible apply does_kept _ _ hs | with_reducible apply doesJudged_kept _ _ hs | with_reducible apply readReg_kept | skip
  repeat' first | with_reducible assumption

theorem execTcapHiRead_kept (path : HostPath) (s : State) (hs : s.dev.Kept base) : Keeps base
    (execTcapHiRead path s) := by
  unfold execTcapHiRead
  first | with_reducible apply does_kept _ _ hs | with_reducible apply doesJudged_kept _ _ hs | with_reducible apply readReg_kept | skip
  repeat' first | with_reducible assumption

theorem execTcapStatusRead_kept (path : HostPath) (s : State) (hs : s.dev.Kept base) : Keeps base
    (execTcapStatusRead path s) := by
  unfold execTcapStatusRead
  first | with_reducible apply does_kept _ _ hs | with_reducible apply doesJudged_kept _ _ hs | with_reducible apply readReg_kept | skip
  repeat' first | with_reducible assumption

theorem execHspStatusRead_kept (path : HostPath) (s : State) (hs : s.dev.Kept base) : Keeps base
    (execHspStatusRead path s) := by
  unfold execHspStatusRead
  first | with_reducible apply does_kept _ _ hs | with_reducible apply doesJudged_kept _ _ hs | with_reducible apply readReg_kept | skip
  repeat' first | with_reducible assumption

theorem execDropsRead_kept (path : HostPath) (ring : Fin 10) (s : State) (hs : s.dev.Kept base) : Keeps base
    (execDropsRead path ring s) := by
  unfold execDropsRead
  first | with_reducible apply does_kept _ _ hs | with_reducible apply doesJudged_kept _ _ hs | with_reducible apply readReg_kept | skip
  repeat' first | with_reducible assumption

theorem writeRing_kept (r : Fin 10) (off v : Nat) (d : Dev) (hd : d.Kept base) : (writeRing r off v d).Kept base := by
  unfold writeRing
  repeat' first
      | with_reducible assumption | with_reducible apply ite_kept | with_reducible apply writeTail_kept
      | with_reducible apply disableRing_kept | with_reducible apply enableRing_kept
      | with_reducible apply onRing_kept

theorem writeRegister_kept (bell : HostPath → Dev → Dev) (path : HostPath) (off : Nat) (v : Word32) (d : Dev) (hbell
    : ∀ y0 (d : Dev), d.Kept base → (bell y0 d).Kept base) (hd : d.Kept base) :
    (writeRegister bell path off v d).Kept base := by
  unfold writeRegister
  repeat' first
      | with_reducible assumption | intro _ | with_reducible apply ite_kept | with_reducible apply hbell
      | with_reducible apply writeRing_kept | with_reducible apply captureTime_kept
      | with_reducible apply clearInt_kept | with_reducible apply onMailbox_kept
      | with_reducible apply riseVectors_kept | with_reducible apply onHost_kept | with_reducible apply emit_kept
      | dsimp only [id] | with_reducible apply HostS.Canonical.pcie | with_reducible apply HostS.Canonical.serial
      | with_reducible apply HostS.Canonical.intro | with_reducible apply Memory.write_wf

theorem refuseSerial_kept (d : Dev) (hd : d.Kept base) : (refuseSerial d).Kept base := by
  unfold refuseSerial
  repeat' first
      | with_reducible assumption | intro _ | with_reducible apply onHost_kept | dsimp only [id]
      | with_reducible apply HostS.Canonical.pcie | with_reducible apply HostS.Canonical.serial
      | with_reducible apply HostS.Canonical.intro

theorem serialWrite_kept (bell : HostPath → Dev → Dev) (address count : Nat) (data : List Byte) (crc : Byte) (d
    : Dev) (hbell : ∀ y0 (d : Dev), d.Kept base → (bell y0 d).Kept base) (hd : d.Kept base) :
    (serialWrite bell address count data crc d).Kept base := by
  unfold serialWrite
  repeat' first
      | with_reducible assumption | intro _ | with_reducible apply ite_kept
      | with_reducible apply refuseSerial_kept | with_reducible apply writeRegister_kept
      | with_reducible apply onHost_kept | with_reducible apply foldl_snd_kept | dsimp only [id]
      | with_reducible apply HostS.Canonical.pcie | with_reducible apply HostS.Canonical.serial
      | with_reducible apply HostS.Canonical.intro

theorem serialReads_kept (n a i : Nat) (d : Dev) (hd : d.Kept base) : (serialReads n a i d).2.Kept base := by
  induction n generalizing i d with
  | zero => exact hd
  | succ n ih =>
    unfold serialReads
    exact ih _ _ (readOne_kept _ _ _ hd)
theorem serialReads_kept_pair {n a i : Nat} {d : Dev} {r : List Byte} {d' : Dev} (e : serialReads n a i d = (r, d'))
    (hd : d.Kept base) :
    d'.Kept base := by
  have := serialReads_kept n a i d hd
  rw [e] at this
  exact this

theorem execSerialRead_kept (address : BitVec 13) (words : Nat) (s : State) (hs : s.dev.Kept base) : Keeps base
    (execSerialRead address words s) := by
  unfold execSerialRead
  first | with_reducible apply does_kept _ _ hs | with_reducible apply doesJudged_kept _ _ hs | skip
  repeat' first
      | with_reducible assumption | intro _ | with_reducible apply serialReads_kept
      | with_reducible apply onPath_kept | with_reducible apply onHost_kept | with_reducible apply emit_kept
      | dsimp only [id] | with_reducible apply HostS.Canonical.pcie | with_reducible apply HostS.Canonical.serial
      | with_reducible apply HostS.Canonical.intro

theorem execSerialUnknownCommand_kept (_command : BitVec 8) (s : State) (hs : s.dev.Kept base) : Keeps base
    (execSerialUnknownCommand _command s) := by
  unfold execSerialUnknownCommand
  first | with_reducible apply does_kept _ _ hs | with_reducible apply doesJudged_kept _ _ hs | skip
  repeat' first
      | with_reducible assumption | intro _ | with_reducible apply onPath_kept | with_reducible apply onHost_kept
      | dsimp only [id] | with_reducible apply HostS.Canonical.pcie | with_reducible apply HostS.Canonical.serial
      | with_reducible apply HostS.Canonical.intro

theorem resetHostBlock_kept (serial : Bool) (d : Dev) (hd : d.Kept base) : (resetHostBlock serial d).Kept base := by
  unfold resetHostBlock
  repeat' first
      | with_reducible assumption | intro _ | with_reducible apply onHost_kept | split | dsimp only [id]
      | with_reducible apply HostS.Canonical.serial | with_reducible apply HostS.Canonical.intro | rfl

theorem execPerstNFall_kept (s : State) (hs : s.dev.Kept base) : Keeps base (execPerstNFall s) := by
  unfold execPerstNFall
  first | with_reducible apply does_kept _ _ hs | with_reducible apply doesJudged_kept _ _ hs | skip
  repeat' first
      | with_reducible assumption | intro _ | with_reducible apply ite_kept
      | with_reducible apply resetHostBlock_kept | with_reducible apply onHost_kept | dsimp only [id]
      | with_reducible apply HostS.Canonical.pcie | with_reducible apply HostS.Canonical.serial
      | with_reducible apply HostS.Canonical.intro

theorem execPerstNRise_kept (s : State) (hs : s.dev.Kept base) : Keeps base (execPerstNRise s) := by
  unfold execPerstNRise
  first | with_reducible apply does_kept _ _ hs | with_reducible apply doesJudged_kept _ _ hs | skip
  repeat' first
      | with_reducible assumption | intro _ | with_reducible apply ite_kept | with_reducible apply onHost_kept
      | dsimp only [id] | with_reducible apply HostS.Canonical.pcie | with_reducible apply HostS.Canonical.serial
      | with_reducible apply HostS.Canonical.intro

theorem execFunctionLevelReset_kept (s : State) (hs : s.dev.Kept base) : Keeps base (execFunctionLevelReset s) := by
  unfold execFunctionLevelReset
  first | with_reducible apply does_kept _ _ hs | with_reducible apply doesJudged_kept _ _ hs | skip
  repeat' first
      | with_reducible assumption | intro _ | with_reducible apply ite_kept
      | with_reducible apply resetHostBlock_kept

theorem hostBoot_kept (d : Dev) (hd : d.Kept base) : (hostBoot d).Kept base := by
  unfold hostBoot
  repeat' first
      | with_reducible assumption | intro _ | with_reducible apply onHost_kept | dsimp only [id]
      | with_reducible apply HostS.Canonical.pcie | with_reducible apply HostS.Canonical.serial
      | with_reducible apply HostS.Canonical.intro

end Sys2Proof.Machine
end

