-- ==== Sys2Proof/Laws/Kept/Profiles.lean ====
section
/-! SUPPORT. Each function of Machine/Profiles.lean keeps what every step keeps. -/

-- one declaration after the other: the package is also compiled as one text, in limited memory
set_option Elab.async false

set_option linter.all false

namespace Sys2Proof.Machine

variable {base : Base}

theorem onNode_kept (f : NodeS → NodeS) (d : Dev) (hd : d.Kept base) : (onNode f d).Kept base := by
  unfold onNode
  repeat' first | with_reducible assumption | with_reducible apply Dev.Kept.upd

theorem setOperating_kept (clock : Nat → Nat) (mv : Nat) (d : Dev) (hd : d.Kept base) :
    (setOperating clock mv d).Kept base := by
  unfold setOperating
  repeat' first
      | with_reducible assumption | with_reducible apply ite_kept | with_reducible apply onHealth_kept
      | with_reducible apply emit_kept | with_reducible apply setReg_kept

theorem fastBegins_kept (back : Nat) (d : Dev) (hd : d.Kept base) : (fastBegins back d).Kept base := by
  unfold fastBegins
  repeat' first
      | with_reducible assumption | with_reducible apply setOperating_kept | with_reducible apply onNode_kept

theorem fastEnds_kept (d : Dev) (hd : d.Kept base) : (fastEnds d).Kept base := by
  unfold fastEnds
  repeat' first
      | with_reducible assumption | with_reducible apply setOperating_kept | with_reducible apply onNode_kept
      | with_reducible apply onHealth_kept

theorem serviceStops_kept (d : Dev) (hd : d.Kept base) : (serviceStops d).Kept base := by
  unfold serviceStops
  repeat' first
      | with_reducible assumption | with_reducible apply applyStreams_kept | with_reducible apply dropQ6_kept
      | with_reducible apply closeWindows_kept | with_reducible apply onSched_kept

theorem serviceReturns_kept (d : Dev) (hd : d.Kept base) : (serviceReturns d).Kept base := by
  unfold serviceReturns
  repeat' first
      | with_reducible assumption | with_reducible apply ite_kept | with_reducible apply applyStreams_kept
      | with_reducible apply applySchedSource_kept

theorem enterProfile_kept (n : Nat) (d : Dev) (hd : d.Kept base) : (enterProfile n d).Kept base := by
  unfold enterProfile
  repeat' first
      | with_reducible assumption | intro _ | with_reducible apply ite_kept
      | with_reducible apply serviceReturns_kept | with_reducible apply serviceStops_kept
      | with_reducible apply fastEnds_kept | with_reducible apply fastBegins_kept
      | with_reducible apply onNode_kept | with_reducible apply settleNeed_kept
      | with_reducible apply plannerGate_kept | with_reducible apply applyPorts_kept
      | with_reducible apply onFab_kept | with_reducible apply onlyIf_kept | with_reducible apply bump_kept

theorem profileAtCommit_kept (d : Dev) (hd : d.Kept base) : (profileAtCommit d).Kept base := by
  unfold profileAtCommit
  repeat' first
      | with_reducible assumption | with_reducible apply ite_kept | with_reducible apply enterProfile_kept
      | with_reducible apply onNode_kept

theorem bootProfile_kept (d : Dev) (hd : d.Kept base) : (bootProfile d).Kept base := by
  unfold bootProfile
  repeat' first
      | with_reducible assumption | with_reducible apply ite_kept | with_reducible apply enterProfile_kept
      | with_reducible apply raise_kept | with_reducible apply bump_kept | with_reducible apply setReg_kept

theorem leaveFast_kept (d : Dev) (hd : d.Kept base) : (leaveFast d).Kept base := by
  unfold leaveFast
  repeat' first
      | with_reducible assumption | with_reducible apply ite_kept | with_reducible apply enterProfile_kept
      | with_reducible apply setReg_kept

theorem execFastStartTimeout_kept (s : State) (hs : s.dev.Kept base) : Keeps base (execFastStartTimeout s) := by
  unfold execFastStartTimeout
  first | with_reducible apply does_kept _ _ hs | with_reducible apply doesJudged_kept _ _ hs | skip
  repeat' first
      | with_reducible assumption | intro _ | with_reducible apply leaveFast_kept
      | with_reducible apply arrive_kept | split

theorem takeJunction_kept (reading : Int) (d : Dev) (hd : d.Kept base) : (takeJunction reading d).Kept base := by
  unfold takeJunction
  repeat' first
      | with_reducible assumption | with_reducible apply ite_kept | with_reducible apply leaveFast_kept
      | with_reducible apply junctionReading_kept | with_reducible apply raise_kept
      | with_reducible apply draw_kept

theorem execFastStartThermalEnd_kept (reading : Int) (s : State) (hs : s.dev.Kept base) : Keeps base
    (execFastStartThermalEnd reading s) := by
  unfold execFastStartThermalEnd
  first | with_reducible apply does_kept _ _ hs | with_reducible apply doesJudged_kept _ _ hs | skip
  repeat' first | with_reducible assumption | intro _ | with_reducible apply takeJunction_kept

theorem execJunctionTemperatureMaximum_kept (reading : Int) (s : State) (hs : s.dev.Kept base) : Keeps base
    (execJunctionTemperatureMaximum reading s) := by
  unfold execJunctionTemperatureMaximum
  first | with_reducible apply does_kept _ _ hs | with_reducible apply doesJudged_kept _ _ hs | skip
  repeat' first | with_reducible assumption | intro _ | with_reducible apply takeJunction_kept

theorem stepDone_kept (d : Dev) (hd : d.Kept base) : (stepDone d).Kept base := by
  unfold stepDone
  repeat' first
      | with_reducible assumption | with_reducible apply enterProfile_kept | with_reducible apply onNode_kept
      | split

theorem stepEnds_kept (d : Dev) (hd : d.Kept base) : (stepEnds d).Kept base := by
  unfold stepEnds
  repeat' first | with_reducible assumption | with_reducible apply ite_kept | with_reducible apply stepDone_kept

theorem execSliceFault_kept (slice : Slice) (t : SliceTrigger) (s : State) (hs : s.dev.Kept base) : Keeps base
    (execSliceFault slice t s) := by
  unfold execSliceFault
  first | with_reducible apply does_kept _ _ hs | with_reducible apply doesJudged_kept _ _ hs | skip
  repeat' first
      | with_reducible assumption | intro _ | with_reducible apply ite_kept | with_reducible apply stepEnds_kept
      | with_reducible apply sliceFault_kept

theorem execEngineTestStep_kept (s : State) (hs : s.dev.Kept base) : Keeps base (execEngineTestStep s) := by
  unfold execEngineTestStep
  first | with_reducible apply does_kept _ _ hs | with_reducible apply doesJudged_kept _ _ hs | skip
  repeat' first
      | with_reducible assumption | intro _ | with_reducible apply ite_kept | with_reducible apply onNode_kept
      | with_reducible apply startRotation_kept | with_reducible apply takeEngineOut_kept | split

theorem execEngineSelfTestEnd_kept (engine1 pass : Bool) (s : State) (hs : s.dev.Kept base) : Keeps base
    (execEngineSelfTestEnd engine1 pass s) := by
  unfold execEngineSelfTestEnd
  first | with_reducible apply does_kept _ _ hs | with_reducible apply doesJudged_kept _ _ hs | skip
  repeat' first
      | with_reducible assumption | intro _ | with_reducible apply ite_kept | with_reducible apply stepEnds_kept
      | with_reducible apply onFab_kept | with_reducible apply raise_kept

theorem execRotationComplete_kept (s : State) (hs : s.dev.Kept base) : Keeps base (execRotationComplete s) := by
  unfold execRotationComplete
  first | with_reducible apply does_kept _ _ hs | with_reducible apply doesJudged_kept _ _ hs | skip
  repeat' first
      | with_reducible assumption | intro _ | with_reducible apply stepEnds_kept
      | with_reducible apply rotationEnds_kept | split

end Sys2Proof.Machine
end

