-- ==== Sys2Proof/Laws/Kept/Answers.lean ====
section
/-! SUPPORT. Each function of Machine/Answers.lean keeps what every step keeps. -/

-- one declaration after the other: the package is also compiled as one text, in limited memory
set_option Elab.async false

set_option linter.all false

namespace Sys2Proof.Machine

variable {base : Base}

theorem onDict_kept (f : DictS → DictS) (d : Dev) (hd : d.Kept base) (hf : ∀ q : DictS, q.Canonical →
    (f q).Canonical) :
    (onDict f d).Kept base := ⟨hf _ hd.dict, hd.2⟩

theorem sendKda_kept (peer : KdaPeer) (key : Option (List Byte)) (session seq : BitVec 32) (opcode : Nat) (payload
    : List Byte) (d : Dev) (hd : d.Kept base) : (sendKda peer key session seq opcode payload d).Kept base := by
  unfold sendKda
  repeat' first
      | with_reducible assumption | with_reducible apply ite_kept | with_reducible apply sendOwn_kept
      | with_reducible apply emit_kept

theorem onSession_kept (sid : BitVec 32) (f : KdaSession → KdaSession) (d : Dev) (hd : d.Kept base) :
    (onSession sid f d).Kept base := by
  unfold onSession
  repeat' first
      | with_reducible assumption | intro _ | with_reducible apply onDict_kept | dsimp only [id]
      | with_reducible apply DictS.Canonical.od | with_reducible apply DictS.Canonical.mem
      | with_reducible apply DictS.Canonical.values0 | with_reducible apply DictS.Canonical.tables0
      | with_reducible apply DictS.Canonical.values1 | with_reducible apply DictS.Canonical.tables1
      | with_reducible apply DictS.Canonical.intro

theorem sendStored_kept (s : KdaSession) (opcode : Nat) (payload : List Byte) (d : Dev) (hd : d.Kept base) :
    (sendStored s opcode payload d).Kept base := by
  unfold sendStored
  repeat' first | with_reducible assumption | with_reducible apply onSession_kept | with_reducible apply sendKda_kept

theorem answerMailbox_kept (path : HostPath) (src : Src) (rs : Resp) (d : Dev) (hd : d.Kept base) :
    (answerMailbox path src rs d).Kept base := by
  unfold answerMailbox
  repeat' first
      | with_reducible assumption | intro _ | with_reducible apply ite_kept | with_reducible apply onMailbox_kept
      | with_reducible apply mailboxOf_kept | with_reducible apply setInt_kept | with_reducible apply emit_kept
      | split | dsimp only [id] | with_reducible apply Dev.Kept.host | with_reducible apply Memory.write_wf

theorem sdoSend_kept (c : CanId) (frames : List (List Byte)) (d : Dev) (hd : d.Kept base) :
    (sdoSend c frames d).Kept base := by
  unfold sdoSend
  repeat' first | with_reducible assumption | with_reducible apply emits_kept

theorem sdoAbort_kept (c : CanId) (idx sub code : Nat) (d : Dev) (hd : d.Kept base) :
    (sdoAbort c idx sub code d).Kept base := by
  unfold sdoAbort
  repeat' first | with_reducible assumption | with_reducible apply sdoSend_kept | with_reducible apply emit_kept

theorem sdoIdle_kept (c : CanId) (d : Dev) (hd : d.Kept base) : (sdoIdle c d).Kept base := by
  unfold sdoIdle
  repeat' first
      | with_reducible assumption | intro _ | with_reducible apply onDict_kept | dsimp only [id]
      | with_reducible apply DictS.Canonical.od | with_reducible apply DictS.Canonical.mem
      | with_reducible apply DictS.Canonical.values0 | with_reducible apply DictS.Canonical.tables0
      | with_reducible apply DictS.Canonical.values1 | with_reducible apply DictS.Canonical.tables1
      | with_reducible apply DictS.Canonical.intro

theorem answer_kept (src : Src) (rs : Resp) (d : Dev) (hd : d.Kept base) : (answer src rs d).Kept base := by
  unfold answer
  repeat' first
      | with_reducible assumption | with_reducible apply ite_kept | with_reducible apply sdoIdle_kept
      | with_reducible apply sdoAbort_kept | with_reducible apply sdoSend_kept
      | with_reducible apply answerMailbox_kept | with_reducible apply sendStored_kept
      | with_reducible apply emit_kept | split

theorem answerWrite_kept (src : Src) (idx sub code : Nat) (d : Dev) (hd : d.Kept base) :
    (answerWrite src idx sub code d).Kept base := by
  unfold answerWrite
  repeat' first | with_reducible assumption | with_reducible apply answer_kept

theorem countRefusal_kept (commit : Bool) (idx sub code : Nat) (d : Dev) (hd : d.Kept base) :
    (countRefusal commit idx sub code d).Kept base := by
  unfold countRefusal
  repeat' first | with_reducible assumption | with_reducible apply bump_kept | with_reducible apply setReg_kept

theorem refuseWrite_kept (src : Src) (idx sub code : Nat) (d : Dev) (hd : d.Kept base) :
    (refuseWrite src idx sub code d).Kept base := by
  unfold refuseWrite
  repeat' first
      | with_reducible assumption | with_reducible apply countRefusal_kept | with_reducible apply answerWrite_kept

theorem refuseCommit_kept (src : Src) (code : Nat) (d : Dev) (hd : d.Kept base) :
    (refuseCommit src code d).Kept base := by
  unfold refuseCommit
  repeat' first
      | with_reducible assumption | intro _ | with_reducible apply countRefusal_kept
      | with_reducible apply answerWrite_kept | with_reducible apply onDict_kept | dsimp only [id]
      | with_reducible apply DictS.Canonical.od | with_reducible apply DictS.Canonical.mem
      | with_reducible apply DictS.Canonical.values0 | with_reducible apply DictS.Canonical.tables0
      | with_reducible apply DictS.Canonical.values1 | with_reducible apply DictS.Canonical.tables1
      | with_reducible apply DictS.Canonical.intro

theorem discardSet_kept (d : Dev) (hd : d.Kept base) : (discardSet d).Kept base := by
  unfold discardSet
  repeat' first
      | with_reducible assumption | intro _ | with_reducible apply ite_kept
      | with_reducible apply refuseCommit_kept | with_reducible apply onDict_kept | with_reducible apply raise_kept
      | split | dsimp only [id] | with_reducible apply DictS.Canonical.od
      | with_reducible apply DictS.Canonical.mem | with_reducible apply DictS.Canonical.values0
      | with_reducible apply DictS.Canonical.tables0 | with_reducible apply DictS.Canonical.values1
      | with_reducible apply DictS.Canonical.tables1 | with_reducible apply DictS.Canonical.intro

theorem dropOrphan_kept (d : Dev) (hd : d.Kept base) : (dropOrphan d).Kept base := by
  unfold dropOrphan
  repeat' first
      | with_reducible assumption | with_reducible apply ite_kept | with_reducible apply discardSet_kept | split

theorem keepSessions_kept (keep : KdaSession → Bool) (d : Dev) (hd : d.Kept base) :
    (keepSessions keep d).Kept base := by
  unfold keepSessions
  repeat' first
      | with_reducible assumption | intro _ | with_reducible apply dropOrphan_kept
      | with_reducible apply onDict_kept | dsimp only [id] | with_reducible apply DictS.Canonical.od
      | with_reducible apply DictS.Canonical.mem | with_reducible apply DictS.Canonical.values0
      | with_reducible apply DictS.Canonical.tables0 | with_reducible apply DictS.Canonical.values1
      | with_reducible apply DictS.Canonical.tables1 | with_reducible apply DictS.Canonical.intro

end Sys2Proof.Machine
end

