-- ==== Sys2Proof/Laws/Kept/Power.lean ====
section
/-! SUPPORT. Each function of Machine/Power.lean keeps what every step keeps. -/

-- one declaration after the other: the package is also compiled as one text, in limited memory
set_option Elab.async false

set_option linter.all false

namespace Sys2Proof.Machine

variable {base : Base}

theorem settleSafe_kept (d : Dev) (hd : d.Kept base) : (settleSafe d).Kept base := by
  unfold settleSafe
  repeat' first
      | with_reducible assumption | intro _ | with_reducible apply ite_kept | with_reducible apply onPow_kept
      | with_reducible apply inaugSafeHigh_kept | with_reducible apply runBmca_kept
      | with_reducible apply onlyIf_kept | with_reducible apply setInt_kept

theorem onPart_kept (b : Bool) (f : Partition → Partition) (d : Dev) (hd : d.Kept base) :
    (onPart b f d).Kept base := by
  unfold onPart
  repeat' first | with_reducible assumption | with_reducible apply onPow_kept

theorem markFailed_kept (b : Bool) (d : Dev) (hd : d.Kept base) : (markFailed b d).Kept base := by
  unfold markFailed
  repeat' first
      | with_reducible assumption | with_reducible apply onPart_kept | with_reducible apply raise_kept
      | with_reducible apply bump_kept

theorem failSpent_kept (b : Bool) (d : Dev) (hd : d.Kept base) : (failSpent b d).Kept base := by
  unfold failSpent
  repeat' first | with_reducible assumption | with_reducible apply ite_kept | with_reducible apply markFailed_kept

theorem startImage_kept (b : Bool) (d : Dev) (hd : d.Kept base) : (startImage b d).Kept base := by
  unfold startImage
  repeat' first | with_reducible assumption | with_reducible apply onPart_kept | with_reducible apply onPow_kept

theorem selectImage_kept (d : Dev) (hd : d.Kept base) : (selectImage d).1.Kept base := by
  unfold selectImage
  repeat' first
      | with_reducible assumption | with_reducible apply startImage_kept | with_reducible apply failSpent_kept
      | with_reducible apply markFailed_kept | split | dsimp only [id]

theorem abortMailbox_kept (path : HostPath) (d : Dev) (hd : d.Kept base) : (abortMailbox path d).Kept base := by
  unfold abortMailbox
  repeat' first
      | with_reducible assumption | intro _ | with_reducible apply ite_kept | with_reducible apply onMailbox_kept
      | with_reducible apply setInt_kept

theorem agentLoses_kept (d : Dev) (hd : d.Kept base) : (agentLoses d).Kept base := by
  unfold agentLoses
  repeat' first
      | with_reducible assumption | intro _ | with_reducible apply onlyIf_kept | with_reducible apply raise_kept
      | split | dsimp only [id] | with_reducible apply Dev.Kept.upd_dict | with_reducible apply Dev.Kept.dict
      | with_reducible apply DictS.Canonical.od | with_reducible apply DictS.Canonical.mem
      | with_reducible apply DictS.Canonical.values0 | with_reducible apply DictS.Canonical.tables0
      | with_reducible apply DictS.Canonical.values1 | with_reducible apply DictS.Canonical.tables1
      | with_reducible apply DictS.Canonical.intro

theorem complexStops_kept (d : Dev) (hd : d.Kept base) : (complexStops d).Kept base := by
  unfold complexStops
  repeat' first
      | with_reducible assumption | with_reducible apply ite_kept | with_reducible apply agentLoses_kept
      | with_reducible apply abortMailbox_kept | with_reducible apply onPow_kept
      | with_reducible apply plannerGate_kept | with_reducible apply timeControlStop_kept
      | with_reducible apply setInt_kept

theorem restartComplex_kept (d : Dev) (hd : d.Kept base) : (restartComplex d).Kept base := by
  unfold restartComplex
  repeat' first
      | with_reducible assumption | with_reducible apply selectImage_kept | with_reducible apply settleSafe_kept
      | with_reducible apply onPow_kept

theorem enterRecovery_kept (d : Dev) (hd : d.Kept base) : (enterRecovery d).Kept base := by
  unfold enterRecovery
  repeat' first
      | with_reducible assumption | with_reducible apply restartComplex_kept
      | with_reducible apply enterProfile_kept | with_reducible apply onPow_kept | with_reducible apply raise_kept
      | with_reducible apply setReg_kept

theorem watchdogTrip_kept (d : Dev) (hd : d.Kept base) : (watchdogTrip d).Kept base := by
  unfold watchdogTrip
  repeat' first
      | with_reducible assumption | intro _ | with_reducible apply ite_kept
      | with_reducible apply enterRecovery_kept | with_reducible apply restartComplex_kept
      | with_reducible apply complexStops_kept | with_reducible apply settleSafe_kept
      | with_reducible apply onPow_kept | with_reducible apply onlyIf_kept | with_reducible apply raise_kept
      | with_reducible apply bump_kept | split

theorem execWatchdogTrip_kept (s : State) (hs : s.dev.Kept base) : Keeps base (execWatchdogTrip s) := by
  unfold execWatchdogTrip
  first | with_reducible apply does_kept _ _ hs | with_reducible apply doesJudged_kept _ _ hs | skip
  repeat' first
      | with_reducible assumption | intro _ | with_reducible apply watchdogTrip_kept
      | with_reducible apply arrive_kept | split

theorem feedWatchdog_kept (d : Dev) (hd : d.Kept base) : (feedWatchdog d).Kept base := by
  unfold feedWatchdog
  repeat' first | with_reducible assumption | with_reducible apply onPow_kept

theorem execWatchdogWrite_kept (s : State) (hs : s.dev.Kept base) : Keeps base (execWatchdogWrite s) := by
  unfold execWatchdogWrite
  first | with_reducible apply does_kept _ _ hs | with_reducible apply doesJudged_kept _ _ hs | skip
  repeat' first
      | with_reducible assumption | intro _ | with_reducible apply ite_kept
      | with_reducible apply feedWatchdog_kept

theorem execStableTime_kept (s : State) (hs : s.dev.Kept base) : Keeps base (execStableTime s) := by
  unfold execStableTime
  first | with_reducible apply does_kept _ _ hs | with_reducible apply doesJudged_kept _ _ hs | skip
  repeat' first
      | with_reducible assumption | intro _ | with_reducible apply onPow_kept | with_reducible apply arrive_kept
      | split

theorem execImageConfirm_kept (s : State) (hs : s.dev.Kept base) : Keeps base (execImageConfirm s) := by
  unfold execImageConfirm
  first | with_reducible apply does_kept _ _ hs | with_reducible apply doesJudged_kept _ _ hs | skip
  repeat' first
      | with_reducible assumption | intro _ | with_reducible apply ite_kept | with_reducible apply onPart_kept
      | with_reducible apply onPow_kept | with_reducible apply raise_kept | with_reducible apply arrive_kept
      | split | dsimp only [id] | with_reducible apply Dev.Kept.upd_sec | with_reducible apply Dev.Kept.sec
      | with_reducible apply SecS.AtLeast.intro | with_reducible apply SecS.AtLeast.life
      | with_reducible apply SecS.AtLeast.version | with_reducible apply SecS.AtLeast.top
      | with_reducible apply le_max_of_le_left

theorem runSelection_kept (d : Dev) (hd : d.Kept base) : (runSelection d).Kept base := by
  have h := selectImage_kept d hd
  unfold runSelection
  split
  · next d1 e =>
    rw [e] at h
    exact onPow_kept _ _ h
  · next d1 e =>
    rw [e] at h
    exact onPow_kept _ _ (resetIslands_kept _ _ h)

theorem bootStep3_kept (d : Dev) (hd : d.Kept base) : (bootStep3 d).Kept base := by
  unfold bootStep3
  repeat' first
      | with_reducible assumption | with_reducible apply ite_kept | with_reducible apply runSelection_kept
      | with_reducible apply hostBoot_kept | with_reducible apply leaveReset_kept | with_reducible apply onPow_kept
      | with_reducible apply setReg_kept

theorem coreGood_kept (d : Dev) (hd : d.Kept base) : (coreGood d).Kept base := by
  unfold coreGood
  repeat' first
      | with_reducible assumption | with_reducible apply bootStep3_kept | with_reducible apply onPow_kept
      | with_reducible apply arrive_kept

theorem bootFrom_kept (cause : Nat) (d : Dev) (hd : d.Kept base) : (bootFrom cause d).Kept base := by
  unfold bootFrom
  repeat' first
      | with_reducible assumption | with_reducible apply ite_kept | with_reducible apply coreGood_kept
      | with_reducible apply startBoot_kept

theorem execPgCoreRise_kept (s : State) (hs : s.dev.Kept base) : Keeps base (execPgCoreRise s) := by
  unfold execPgCoreRise
  first | with_reducible apply does_kept _ _ hs | with_reducible apply doesJudged_kept _ _ hs | skip
  repeat' first
      | with_reducible assumption | intro _ | with_reducible apply ite_kept | with_reducible apply coreGood_kept
      | with_reducible apply onPow_kept

theorem execPgIoRise_kept (s : State) (hs : s.dev.Kept base) : Keeps base (execPgIoRise s) := by
  unfold execPgIoRise
  first | with_reducible apply does_kept _ _ hs | with_reducible apply doesJudged_kept _ _ hs | skip
  repeat' first
      | with_reducible assumption | intro _ | with_reducible apply ite_kept | with_reducible apply onPow_kept

theorem execRailEnableTimeout_kept (s : State) (hs : s.dev.Kept base) : Keeps base (execRailEnableTimeout s) := by
  unfold execRailEnableTimeout
  first | with_reducible apply does_kept _ _ hs | with_reducible apply doesJudged_kept _ _ hs | skip
  repeat' first
      | with_reducible assumption | intro _ | with_reducible apply dropRails_kept
      | with_reducible apply resetIslands_kept | with_reducible apply onPow_kept | with_reducible apply raise_kept
      | with_reducible apply arrive_kept | with_reducible apply bump_kept | split

theorem execRailEnableRetry_kept (s : State) (hs : s.dev.Kept base) : Keeps base (execRailEnableRetry s) := by
  unfold execRailEnableRetry
  first | with_reducible apply does_kept _ _ hs | with_reducible apply doesJudged_kept _ _ hs | skip
  repeat' first
      | with_reducible assumption | intro _ | with_reducible apply onPow_kept | with_reducible apply arrive_kept
      | split

theorem execImageSelectionRetry_kept (s : State) (hs : s.dev.Kept base) : Keeps base (execImageSelectionRetry s) := by
  unfold execImageSelectionRetry
  first | with_reducible apply does_kept _ _ hs | with_reducible apply doesJudged_kept _ _ hs | skip
  repeat' first
      | with_reducible assumption | intro _ | with_reducible apply runSelection_kept
      | with_reducible apply hostBoot_kept | with_reducible apply leaveReset_kept | with_reducible apply onPow_kept
      | with_reducible apply arrive_kept | split

theorem loadStored_kept (d : Dev) (hd : d.Kept base) : (loadStored d).Kept base := by
  have hc : ∀ c, bootCopy d = some c → Memory.wf c.tables = true := by
    intro c hc
    unfold bootCopy at hc
    dsimp only at hc
    split at hc
    · simp only [Option.some.injEq] at hc
      exact hc ▸ hd.dict.tables0
    · split at hc
      · simp only [Option.some.injEq] at hc
        exact hc ▸ hd.dict.tables1
      · simp at hc
  unfold loadStored
  dsimp only
  split
  · next c e =>
    exact ⟨⟨foldl_wf _ _ _ (Store.filter_wf _ _ hd.dict.od) fun x m hm => Store.put_wf _ _ _ hm, hc c e, hd.1.2.2⟩, hd.2⟩
  · exact raise_kept _ _ _ ⟨⟨Store.filter_wf _ _ hd.dict.od, rfl, hd.1.2.2⟩, hd.2⟩

theorem pmbusBoot_kept (d : Dev) (hd : d.Kept base) : (pmbusBoot d).Kept base := by
  unfold pmbusBoot
  repeat' first
      | with_reducible assumption | with_reducible apply ite_kept | with_reducible apply onPow_kept
      | with_reducible apply raise_kept | with_reducible apply emits_kept | with_reducible apply emit_kept
      | with_reducible apply setReg_kept

theorem agentUp_kept (d0 : Dev) (hd0 : d0.Kept base) : (agentUp d0).Kept base := by
  unfold agentUp
  repeat' first
      | with_reducible assumption | intro _ | with_reducible apply feedWatchdog_kept
      | with_reducible apply answerWrite_kept | with_reducible apply onDict_kept | with_reducible apply onPow_kept
      | with_reducible apply setInt_kept | split | dsimp only [id] | with_reducible apply DictS.Canonical.od
      | with_reducible apply DictS.Canonical.mem | with_reducible apply DictS.Canonical.values0
      | with_reducible apply DictS.Canonical.tables0 | with_reducible apply DictS.Canonical.values1
      | with_reducible apply DictS.Canonical.tables1 | with_reducible apply DictS.Canonical.intro

theorem bootStep8_kept (d : Dev) (hd : d.Kept base) : (bootStep8 d).Kept base := by
  unfold bootStep8
  repeat' first
      | with_reducible assumption | intro _ | with_reducible apply agentUp_kept
      | with_reducible apply pmbusBoot_kept | with_reducible apply loadStored_kept
      | with_reducible apply onPow_kept | with_reducible apply onlyIf_kept | with_reducible apply raise_kept
      | dsimp only [id] | with_reducible apply Dev.Kept.upd_dict | with_reducible apply Dev.Kept.dict
      | with_reducible apply DictS.Canonical.od | with_reducible apply DictS.Canonical.mem
      | with_reducible apply DictS.Canonical.values0 | with_reducible apply DictS.Canonical.tables0
      | with_reducible apply DictS.Canonical.values1 | with_reducible apply DictS.Canonical.tables1
      | with_reducible apply DictS.Canonical.intro

theorem execControlComplexReady_kept (s : State) (hs : s.dev.Kept base) : Keeps base (execControlComplexReady s) := by
  unfold execControlComplexReady
  first | with_reducible apply does_kept _ _ hs | with_reducible apply doesJudged_kept _ _ hs | skip
  repeat' first
      | with_reducible assumption | intro _ | with_reducible apply ite_kept | with_reducible apply bootStep8_kept
      | with_reducible apply agentUp_kept | with_reducible apply settleSafe_kept | with_reducible apply onPow_kept
      | with_reducible apply plannerGate_kept | with_reducible apply onlyIf_kept | with_reducible apply raise_kept

theorem noteMinimum_kept (sub mv : Nat) (d : Dev) (hd : d.Kept base) : (noteMinimum sub mv d).Kept base := by
  unfold noteMinimum
  repeat' first | with_reducible assumption | with_reducible apply ite_kept | with_reducible apply setReg_kept

theorem execSupplyWarning_kept (core : Bool) (mv : BitVec 16) (s : State) (hs : s.dev.Kept base) : Keeps base
    (execSupplyWarning core mv s) := by
  unfold execSupplyWarning
  first | with_reducible apply does_kept _ _ hs | with_reducible apply doesJudged_kept _ _ hs | skip
  repeat' first
      | with_reducible assumption | intro _ | with_reducible apply ite_kept | with_reducible apply noteMinimum_kept
      | with_reducible apply leaveFast_kept | with_reducible apply onNode_kept | with_reducible apply onPow_kept
      | with_reducible apply closeLogs_kept | with_reducible apply raise_kept | with_reducible apply setInt_kept
      | with_reducible apply bump_kept

theorem execSupplyWarningClear_kept (core : Bool) (s : State) (hs : s.dev.Kept base) : Keeps base
    (execSupplyWarningClear core s) := by
  unfold execSupplyWarningClear
  first | with_reducible apply does_kept _ _ hs | with_reducible apply doesJudged_kept _ _ hs | skip
  repeat' first
      | with_reducible assumption | intro _ | with_reducible apply ite_kept | with_reducible apply onNode_kept
      | with_reducible apply onPow_kept | with_reducible apply reopenRecorder_kept | with_reducible apply draw_kept

theorem supplyResetFor_kept (cause : Nat) (d : Dev) (hd : d.Kept base) : (supplyResetFor cause d).Kept base := by
  unfold supplyResetFor
  repeat' first
      | with_reducible assumption | with_reducible apply abandonSleep_kept | with_reducible apply dropRails_kept
      | with_reducible apply resetIslands_kept | with_reducible apply onPow_kept | with_reducible apply raise_kept
      | with_reducible apply bump_kept | with_reducible apply setReg_kept | split | dsimp only [id]
      | with_reducible apply Dev.Kept.upd

theorem execSupplyReset_kept (rail : Rail) (s : State) (hs : s.dev.Kept base) : Keeps base
    (execSupplyReset rail s) := by
  unfold execSupplyReset
  first | with_reducible apply does_kept _ _ hs | with_reducible apply doesJudged_kept _ _ hs | skip
  repeat' first
      | with_reducible assumption | intro _ | with_reducible apply ite_kept
      | with_reducible apply supplyResetFor_kept

theorem execPowerGoodLoss_kept (io : Bool) (s : State) (hs : s.dev.Kept base) : Keeps base
    (execPowerGoodLoss io s) := by
  unfold execPowerGoodLoss
  first | with_reducible apply does_kept _ _ hs | with_reducible apply doesJudged_kept _ _ hs | skip
  repeat' first
      | with_reducible assumption | intro _ | with_reducible apply ite_kept
      | with_reducible apply supplyResetFor_kept

theorem execSupplyReturn_kept (s : State) (hs : s.dev.Kept base) : Keeps base (execSupplyReturn s) := by
  unfold execSupplyReturn
  first | with_reducible apply does_kept _ _ hs | with_reducible apply doesJudged_kept _ _ hs | skip
  repeat' first
      | with_reducible assumption | intro _ | with_reducible apply ite_kept | with_reducible apply bootFrom_kept
      | with_reducible apply onNode_kept | with_reducible apply onPow_kept | with_reducible apply arrive_kept
      | with_reducible apply draw_kept | split

theorem execPorNAsserted_kept (s : State) (hs : s.dev.Kept base) : Keeps base (execPorNAsserted s) := by
  unfold execPorNAsserted
  apply does_kept _ _ hs
  intro d hd
  exact ⟨⟨rfl, rfl, hd.1.2.2⟩, ⟨rfl, rfl⟩, rfl, rfl, hd.chip, ⟨TimeS.reset_raw, TimeS.reset_step⟩, hd.sec⟩

theorem execPorNReleased_kept (straps : BitVec 4) (test : Bool) (s : State) (hs : s.dev.Kept base) : Keeps base
    (execPorNReleased straps test s) := by
  unfold execPorNReleased
  first | with_reducible apply does_kept _ _ hs | with_reducible apply doesJudged_kept _ _ hs | skip
  repeat' first
      | with_reducible assumption | intro _ | with_reducible apply ite_kept | with_reducible apply bootFrom_kept
      | with_reducible apply onPow_kept | dsimp only [id] | with_reducible apply Dev.Kept.upd

theorem warmResetNow_kept (d : Dev) (hd : d.Kept base) : (warmResetNow d).Kept base := by
  unfold warmResetNow
  repeat' first
      | with_reducible assumption | intro _ | with_reducible apply bootFrom_kept
      | with_reducible apply abandonSleep_kept | with_reducible apply resetIslands_kept
      | with_reducible apply forEach_kept | with_reducible apply setReg_kept | dsimp only [id]
      | with_reducible apply Dev.Kept.upd

theorem execBypassRefreshLoss_kept (laneB : Bool) (s : State) (hs : s.dev.Kept base) : Keeps base
    (execBypassRefreshLoss laneB s) := by
  unfold execBypassRefreshLoss
  first | with_reducible apply does_kept _ _ hs | with_reducible apply doesJudged_kept _ _ hs | skip
  repeat' first | with_reducible assumption | intro _ | with_reducible apply onPow_kept

theorem execWakeBootTimeout_kept (s : State) (hs : s.dev.Kept base) : Keeps base (execWakeBootTimeout s) := by
  unfold execWakeBootTimeout
  first | with_reducible apply does_kept _ _ hs | with_reducible apply doesJudged_kept _ _ hs | skip
  repeat' first
      | with_reducible assumption | intro _ | with_reducible apply onPow_kept | with_reducible apply arrive_kept
      | split

theorem execHeartbeatLoss_kept (s : State) (hs : s.dev.Kept base) : Keeps base (execHeartbeatLoss s) := by
  unfold execHeartbeatLoss
  first | with_reducible apply does_kept _ _ hs | with_reducible apply doesJudged_kept _ _ hs | skip
  repeat' first
      | with_reducible assumption | intro _ | with_reducible apply ite_kept | with_reducible apply onPow_kept
      | with_reducible apply closeLogs_kept

theorem execPmbusAlert_kept (status : BitVec 16) (s : State) (hs : s.dev.Kept base) : Keeps base
    (execPmbusAlert status s) := by
  unfold execPmbusAlert
  first | with_reducible apply does_kept _ _ hs | with_reducible apply doesJudged_kept _ _ hs | skip
  repeat' first
      | with_reducible assumption | intro _ | with_reducible apply ite_kept | with_reducible apply raiseP_kept
      | with_reducible apply emit_kept

theorem firmwareStart_kept (d : Dev) (hd : d.Kept base) : (firmwareStart d).Kept base := by
  unfold firmwareStart
  repeat' first
      | with_reducible assumption | with_reducible apply onPart_kept | with_reducible apply onPow_kept
      | with_reducible apply setReg_kept

theorem firmwareDrop_kept (d : Dev) (hd : d.Kept base) : (firmwareDrop d).Kept base := by
  unfold firmwareDrop
  repeat' first | with_reducible assumption | with_reducible apply onPow_kept | with_reducible apply setReg_kept

theorem execFirmwareWriteEnd_kept (s : State) (hs : s.dev.Kept base) : Keeps base (execFirmwareWriteEnd s) := by
  unfold execFirmwareWriteEnd
  first | with_reducible apply does_kept _ _ hs | with_reducible apply doesJudged_kept _ _ hs | skip
  repeat' first
      | with_reducible assumption | intro _ | with_reducible apply ite_kept | with_reducible apply onPart_kept
      | with_reducible apply onPow_kept | with_reducible apply setReg_kept | split

end Sys2Proof.Machine
end

