-- ==== Sys2Proof/Laws/Kept/Security.lean ====
section
/-! SUPPORT. Each function of Machine/Security.lean keeps what every step keeps. -/

-- one declaration after the other: the package is also compiled as one text, in limited memory
set_option Elab.async false

set_option linter.all false

namespace Sys2Proof.Machine

variable {base : Base}

theorem onSec_kept (f : SecS → SecS) (d : Dev) (hd : d.Kept base)
    (hf : ∀ s : SecS, s.AtLeast base.lifecycle base.fwVersion → (f s).AtLeast base.lifecycle base.fwVersion) :
    (onSec f d).Kept base := ⟨hd.1, hd.2.1, hd.2.2.1, hd.2.2.2.1, hd.chip, hd.time, hf _ hd.sec⟩

theorem resumeCores_kept (d : Dev) (hd : d.Kept base) : (resumeCores d).Kept base := by
  unfold resumeCores
  repeat' first
      | with_reducible assumption | intro _ | with_reducible apply ite_kept | with_reducible apply onSec_kept
      | with_reducible apply feedWatchdog_kept | with_reducible apply settleSafe_kept | dsimp only [id]
      | with_reducible apply SecS.AtLeast.intro | with_reducible apply SecS.AtLeast.life
      | with_reducible apply SecS.AtLeast.version | with_reducible apply SecS.AtLeast.top

theorem holdIslands_kept (d : Dev) (hd : d.Kept base) : (holdIslands d).Kept base := by
  unfold holdIslands
  repeat' first
      | with_reducible assumption | with_reducible apply abandonSleep_kept | with_reducible apply resetIslands_kept
      | with_reducible apply onPow_kept

theorem endGrant_kept (d : Dev) (hd : d.Kept base) : (endGrant d).Kept base := by
  unfold endGrant
  repeat' first
      | with_reducible assumption | intro _ | with_reducible apply ite_kept | with_reducible apply holdIslands_kept
      | with_reducible apply resumeCores_kept | with_reducible apply onSec_kept | with_reducible apply raise_kept
      | dsimp only [id] | with_reducible apply SecS.AtLeast.intro | with_reducible apply SecS.AtLeast.life
      | with_reducible apply SecS.AtLeast.version | with_reducible apply SecS.AtLeast.top

theorem grantLevel_kept (level minutes : Nat) (d : Dev) (hd : d.Kept base) :
    (grantLevel level minutes d).Kept base := by
  unfold grantLevel
  repeat' first
      | with_reducible assumption | intro _ | with_reducible apply ite_kept | with_reducible apply endGrant_kept
      | with_reducible apply onSec_kept | with_reducible apply keepSessions_kept | with_reducible apply raise_kept
      | split | dsimp only [id] | with_reducible apply SecS.AtLeast.intro | with_reducible apply SecS.AtLeast.life
      | with_reducible apply SecS.AtLeast.version | with_reducible apply SecS.AtLeast.top

theorem authFails_kept (d : Dev) (hd : d.Kept base) : (authFails d).Kept base := by
  unfold authFails
  repeat' first
      | with_reducible assumption | intro _ | with_reducible apply onSec_kept | with_reducible apply raise_kept
      | with_reducible apply bump_kept | split | dsimp only [id] | with_reducible apply SecS.AtLeast.intro
      | with_reducible apply SecS.AtLeast.life | with_reducible apply SecS.AtLeast.version
      | with_reducible apply SecS.AtLeast.top

theorem startScan_kept (d : Dev) (hd : d.Kept base) : (startScan d).Kept base := by
  unfold startScan
  repeat' first
      | with_reducible assumption | intro _ | with_reducible apply ite_kept | with_reducible apply onSec_kept
      | with_reducible apply settleSafe_kept | dsimp only [id] | with_reducible apply SecS.AtLeast.intro
      | with_reducible apply SecS.AtLeast.life | with_reducible apply SecS.AtLeast.version
      | with_reducible apply SecS.AtLeast.top

theorem selectIr_kept (need : Nat) (i : DebugIr) (f : Dev → Dev) (d : Dev) (hf : ∀  (d : Dev), d.Kept base →
    (f  d).Kept base) (hd : d.Kept base) : (selectIr need i f d).Kept base := by
  unfold selectIr
  repeat' first
      | with_reducible assumption | intro _ | with_reducible apply ite_kept | with_reducible apply hf
      | with_reducible apply onSec_kept | dsimp only [id] | with_reducible apply SecS.AtLeast.intro
      | with_reducible apply SecS.AtLeast.life | with_reducible apply SecS.AtLeast.version
      | with_reducible apply SecS.AtLeast.top

theorem execExtest_kept (s : State) (hs : s.dev.Kept base) : Keeps base (execExtest s) := by
  unfold execExtest
  first | with_reducible apply does_kept _ _ hs | with_reducible apply doesJudged_kept _ _ hs | skip
  repeat' first
      | with_reducible assumption | intro _ | with_reducible apply selectIr_kept
      | with_reducible apply startScan_kept

theorem execIdcode_kept (s : State) (hs : s.dev.Kept base) : Keeps base (execIdcode s) := by
  unfold execIdcode
  first | with_reducible apply does_kept _ _ hs | with_reducible apply doesJudged_kept _ _ hs | skip
  repeat' first
      | with_reducible assumption | intro _ | with_reducible apply selectIr_kept | with_reducible apply emit_kept

theorem execSamplePreload_kept (s : State) (hs : s.dev.Kept base) : Keeps base (execSamplePreload s) := by
  unfold execSamplePreload
  first | with_reducible apply does_kept _ _ hs | with_reducible apply doesJudged_kept _ _ hs | skip
  repeat' first | with_reducible assumption | intro _ | with_reducible apply selectIr_kept | dsimp only [id]

theorem execAuthChallenge_kept (s : State) (hs : s.dev.Kept base) : Keeps base (execAuthChallenge s) := by
  unfold execAuthChallenge
  first | with_reducible apply does_kept _ _ hs | with_reducible apply doesJudged_kept _ _ hs | skip
  repeat' first
      | with_reducible assumption | intro _ | with_reducible apply ite_kept | with_reducible apply selectIr_kept
      | with_reducible apply onSec_kept | with_reducible apply draw_kept | with_reducible apply emit_kept
      | dsimp only [id] | with_reducible apply SecS.AtLeast.intro | with_reducible apply SecS.AtLeast.life
      | with_reducible apply SecS.AtLeast.version | with_reducible apply SecS.AtLeast.top

theorem execAuthResponse_kept (token : List Byte) (s : State) (hs : s.dev.Kept base) : Keeps base
    (execAuthResponse token s) := by
  unfold execAuthResponse
  first | with_reducible apply does_kept _ _ hs | with_reducible apply doesJudged_kept _ _ hs | skip
  repeat' first
      | with_reducible assumption | intro _ | with_reducible apply ite_kept | with_reducible apply selectIr_kept
      | with_reducible apply authFails_kept | with_reducible apply grantLevel_kept

theorem execDebugAccess_kept (op : DebugOp) (s : State) (hs : s.dev.Kept base) : Keeps base
    (execDebugAccess op s) := by
  unfold execDebugAccess
  first | with_reducible apply does_kept _ _ hs | with_reducible apply doesJudged_kept _ _ hs | skip
  repeat' first
      | with_reducible assumption | intro _ | with_reducible apply ite_kept | with_reducible apply selectIr_kept
      | with_reducible apply resumeCores_kept | with_reducible apply onSec_kept
      | with_reducible apply settleSafe_kept | with_reducible apply onPow_kept | split | dsimp only [id]
      | with_reducible apply SecS.AtLeast.intro | with_reducible apply SecS.AtLeast.life
      | with_reducible apply SecS.AtLeast.version | with_reducible apply SecS.AtLeast.top

theorem execScanTest_kept (s : State) (hs : s.dev.Kept base) : Keeps base (execScanTest s) := by
  unfold execScanTest
  first | with_reducible apply does_kept _ _ hs | with_reducible apply doesJudged_kept _ _ hs | skip
  repeat' first
      | with_reducible assumption | intro _ | with_reducible apply selectIr_kept
      | with_reducible apply startScan_kept

theorem execBypass_kept (_code : BitVec 5) (s : State) (hs : s.dev.Kept base) : Keeps base (execBypass _code s) := by
  unfold execBypass
  first | with_reducible apply does_kept _ _ hs | with_reducible apply doesJudged_kept _ _ hs | skip
  repeat' first | with_reducible assumption | intro _ | with_reducible apply selectIr_kept | dsimp only [id]

theorem execDebugPortReset_kept (s : State) (hs : s.dev.Kept base) : Keeps base (execDebugPortReset s) := by
  unfold execDebugPortReset
  first | with_reducible apply does_kept _ _ hs | with_reducible apply doesJudged_kept _ _ hs | skip
  repeat' first
      | with_reducible assumption | intro _ | with_reducible apply onSec_kept | dsimp only [id]
      | with_reducible apply SecS.AtLeast.intro | with_reducible apply SecS.AtLeast.life
      | with_reducible apply SecS.AtLeast.version | with_reducible apply SecS.AtLeast.top

theorem execGrantExpiry_kept (s : State) (hs : s.dev.Kept base) : Keeps base (execGrantExpiry s) := by
  unfold execGrantExpiry
  first | with_reducible apply does_kept _ _ hs | with_reducible apply doesJudged_kept _ _ hs | skip
  repeat' first
      | with_reducible assumption | intro _ | with_reducible apply endGrant_kept | with_reducible apply arrive_kept
      | split

theorem execDebugLockoutEnd_kept (s : State) (hs : s.dev.Kept base) : Keeps base (execDebugLockoutEnd s) := by
  unfold execDebugLockoutEnd
  first | with_reducible apply does_kept _ _ hs | with_reducible apply doesJudged_kept _ _ hs | skip
  repeat' first
      | with_reducible assumption | intro _ | with_reducible apply onSec_kept | with_reducible apply arrive_kept
      | split | dsimp only [id] | with_reducible apply SecS.AtLeast.intro | with_reducible apply SecS.AtLeast.life
      | with_reducible apply SecS.AtLeast.version | with_reducible apply SecS.AtLeast.top

theorem execRandomSourceFailure_kept (s : State) (hs : s.dev.Kept base) : Keeps base (execRandomSourceFailure s) := by
  unfold execRandomSourceFailure
  first | with_reducible apply does_kept _ _ hs | with_reducible apply doesJudged_kept _ _ hs | skip
  repeat' first
      | with_reducible assumption | intro _ | with_reducible apply onSec_kept | with_reducible apply raise_kept
      | with_reducible apply bump_kept | dsimp only [id] | with_reducible apply SecS.AtLeast.intro
      | with_reducible apply SecS.AtLeast.life | with_reducible apply SecS.AtLeast.version
      | with_reducible apply SecS.AtLeast.top

theorem execRandomSourceRecovery_kept (s : State) (hs : s.dev.Kept base) : Keeps base
    (execRandomSourceRecovery s) := by
  unfold execRandomSourceRecovery
  first | with_reducible apply does_kept _ _ hs | with_reducible apply doesJudged_kept _ _ hs | skip
  repeat' first
      | with_reducible assumption | intro _ | with_reducible apply onSec_kept | dsimp only [id]
      | with_reducible apply SecS.AtLeast.intro | with_reducible apply SecS.AtLeast.life
      | with_reducible apply SecS.AtLeast.version | with_reducible apply SecS.AtLeast.top

theorem execKdaLockoutEnd_kept (s : State) (hs : s.dev.Kept base) : Keeps base (execKdaLockoutEnd s) := by
  unfold execKdaLockoutEnd
  first | with_reducible apply does_kept _ _ hs | with_reducible apply doesJudged_kept _ _ hs | skip
  repeat' first
      | with_reducible assumption | intro _ | with_reducible apply onSec_kept | with_reducible apply arrive_kept
      | split | dsimp only [id] | with_reducible apply SecS.AtLeast.intro | with_reducible apply SecS.AtLeast.life
      | with_reducible apply SecS.AtLeast.version | with_reducible apply SecS.AtLeast.top

theorem secureNow_kept (d : Dev) (hd : d.Kept base) (hl : d.sec.lifecycle ≤ 2) : (secureNow d).Kept base := by
  unfold secureNow
  exact endGrant_kept _ (raise_kept _ _ _ (onSec_kept _ _ hd fun s hs => ⟨Nat.le_trans hd.sec.1 hl, hs.2.1, show 2 ≤ 4 by decide⟩))

theorem resealed_wf (c : CfgCopy) (hv : Store.wf odDefault c.values = true) (ht : Memory.wf c.tables = true) :
    Store.wf odDefault (clearRoleKeys.resealed c).values = true ∧ Memory.wf (clearRoleKeys.resealed c).tables = true := by
  unfold clearRoleKeys.resealed
  split
  exacts [⟨CfgCopy.seal_values_wf c hv, CfgCopy.seal_tables_wf c ht⟩, ⟨hv, ht⟩]

theorem clearRoleKeys_kept (copies : Bool) (d : Dev) (hd : d.Kept base) : (clearRoleKeys copies d).Kept base := by
  have h0 := resealed_wf { d.dict.copy0 with values := d.dict.copy0.values.filter (fun x => !isRoleKey x.1) }
    (Store.filter_wf _ _ hd.dict.values0) hd.dict.tables0
  have h1 := resealed_wf { d.dict.copy1 with values := d.dict.copy1.values.filter (fun x => !isRoleKey x.1) }
    (Store.filter_wf _ _ hd.dict.values1) hd.dict.tables1
  cases copies
  · exact ⟨⟨Store.filter_wf _ _ hd.dict.od, hd.1.2⟩, hd.2⟩
  · exact ⟨⟨Store.filter_wf _ _ hd.dict.od, hd.dict.mem, h0.1, h0.2, h1.1, h1.2⟩, hd.2⟩

theorem voidKeys_kept (d : Dev) (hd : d.Kept base) : (voidKeys d).Kept base := by
  unfold voidKeys
  exact raise_kept _ _ _ (clearRoleKeys_kept _ _ (onSec_kept _ _ hd fun s hs => ⟨Nat.le_trans hd.sec.1 hd.sec.top, hs.2.1, show 4 ≤ 4 by decide⟩))

theorem markDefaults_kept (d : Dev) (hd : d.Kept base) : (markDefaults d).Kept base := by
  unfold markDefaults
  repeat' first
      | with_reducible assumption | dsimp only [id] | with_reducible apply Dev.Kept.upd_dict
      | with_reducible apply Dev.Kept.dict | with_reducible apply DictS.Canonical.od
      | with_reducible apply DictS.Canonical.mem | with_reducible apply DictS.Canonical.values0
      | with_reducible apply DictS.Canonical.tables0 | with_reducible apply DictS.Canonical.values1
      | with_reducible apply DictS.Canonical.tables1 | with_reducible apply DictS.Canonical.intro

theorem returnNow_kept (keep : KdaSession → Bool) (d : Dev) (hd : d.Kept base) (hl : d.sec.lifecycle ≤ 3) :
    (returnNow keep d).Kept base := by
  unfold returnNow
  exact keepSessions_kept _ _ (markDefaults_kept _ (clearRoleKeys_kept _ _ (raise_kept _ _ _
    (onSec_kept _ _ hd fun s hs => ⟨Nat.le_trans hd.sec.1 hl, hs.2.1, show 3 ≤ 4 by decide⟩))))

theorem rotateKey_kept (key : List Byte) (d : Dev) (hd : d.Kept base) : (rotateKey key d).Kept base := by
  unfold rotateKey
  repeat' first
      | with_reducible assumption | intro _ | with_reducible apply onSec_kept | with_reducible apply raise_kept
      | dsimp only [id] | with_reducible apply SecS.AtLeast.intro | with_reducible apply SecS.AtLeast.life
      | with_reducible apply SecS.AtLeast.version | with_reducible apply SecS.AtLeast.top

end Sys2Proof.Machine
end

