-- ==== Sys2Proof/Laws/Kept/Writes.lean ====
section
/-! SUPPORT. Each function of Machine/Writes.lean keeps what every step keeps. -/

-- one declaration after the other: the package is also compiled as one text, in limited memory
set_option Elab.async false

set_option linter.all false

namespace Sys2Proof.Machine

variable {base : Base}

theorem touchIdle_kept (d : Dev) (hd : d.Kept base) : (touchIdle d).Kept base := by
  unfold touchIdle
  repeat' first
      | with_reducible assumption | intro _ | with_reducible apply onDict_kept | dsimp only [id]
      | with_reducible apply DictS.Canonical.od | with_reducible apply DictS.Canonical.mem
      | with_reducible apply DictS.Canonical.values0 | with_reducible apply DictS.Canonical.tables0
      | with_reducible apply DictS.Canonical.values1 | with_reducible apply DictS.Canonical.tables1
      | with_reducible apply DictS.Canonical.intro

theorem stageWrite_kept (ses : Session) (x : Staged) (d : Dev) (hd : d.Kept base) :
    (stageWrite ses x d).Kept base := by
  unfold stageWrite
  repeat' first
      | with_reducible assumption | intro _ | with_reducible apply touchIdle_kept
      | with_reducible apply onDict_kept | with_reducible apply bump_kept | dsimp only [id]
      | with_reducible apply DictS.Canonical.od | with_reducible apply DictS.Canonical.mem
      | with_reducible apply DictS.Canonical.values0 | with_reducible apply DictS.Canonical.tables0
      | with_reducible apply DictS.Canonical.values1 | with_reducible apply DictS.Canonical.tables1
      | with_reducible apply DictS.Canonical.intro

theorem putSpan_wf (x : Staged) (span : Nat × Nat) (m : List Host.Cell) (hm : Memory.wf m = true) :
    Memory.wf (putSpan x span m) = true := by
  unfold putSpan
  apply foldl_memory _ _ _ hm
  intro i m hm
  dsimp only
  split
  exacts [hm, Store.put_wf _ _ _ hm]

theorem putStaged_kept (x : Staged) (d : Dev) (hd : d.Kept base) : (putStaged x d).Kept base := by
  have h1 : (onDict (fun q => { q with mem := x.spans.foldl (fun m s => putSpan x s m) q.mem }) d).Kept base :=
    onDict_kept _ _ hd fun q hq => ⟨hq.od, foldl_memory _ _ _ hq.mem fun s m hm => putSpan_wf x s m hm, hq.2.2⟩
  unfold putStaged
  repeat' first
      | with_reducible assumption | intro _ | with_reducible apply ite_kept | with_reducible apply onDict_kept
      | with_reducible apply onFab_kept | with_reducible apply setRegQ_kept

theorem putAll_kept (l : List Staged) (d : Dev) (hd : d.Kept base) : (putAll l d).Kept base := by
  unfold putAll
  repeat' first
      | with_reducible assumption | intro _ | with_reducible apply putStaged_kept
      | with_reducible apply forEach_kept

end Sys2Proof.Machine
end

