-- ==== Sys2Proof/Laws/Kept/Agent.lean ====
section
/-! SUPPORT. Each function of Machine/Agent.lean keeps what every step keeps. -/

-- one declaration after the other: the package is also compiled as one text, in limited memory
set_option Elab.async false

set_option linter.all false

namespace Sys2Proof.Machine

variable {base : Base}

theorem handOverSet_kept (src : Src) (d : Dev) (hd : d.Kept base) : (handOverSet src d).Kept base := by
  unfold handOverSet
  repeat' first
      | with_reducible assumption | intro _ | with_reducible apply onDict_kept | split | dsimp only [id]
      | with_reducible apply DictS.Canonical.od | with_reducible apply DictS.Canonical.mem
      | with_reducible apply DictS.Canonical.values0 | with_reducible apply DictS.Canonical.tables0
      | with_reducible apply DictS.Canonical.values1 | with_reducible apply DictS.Canonical.tables1
      | with_reducible apply DictS.Canonical.intro

theorem judgeCommit_kept (src : Src) (d0 : Dev) (hd0 : d0.Kept base) : (judgeCommit src d0).Kept base := by
  unfold judgeCommit
  repeat' first
      | with_reducible assumption | intro _ | with_reducible apply handOverSet_kept
      | with_reducible apply refuseCommit_kept | with_reducible apply refuseSignature_kept
      | with_reducible apply onlyIf_kept | with_reducible apply draw_kept | with_reducible apply bump_kept
      | with_reducible apply setReg_kept | split | dsimp only [id]

theorem commitWrite_kept (src : Src) (v : Nat) (d : Dev) (hd : d.Kept base) : (commitWrite src v d).Kept base := by
  unfold commitWrite
  repeat' first
      | with_reducible assumption | intro _ | with_reducible apply ite_kept | with_reducible apply judgeCommit_kept
      | with_reducible apply touchIdle_kept | with_reducible apply refuseCommit_kept
      | with_reducible apply onDict_kept | dsimp only [id] | with_reducible apply DictS.Canonical.od
      | with_reducible apply DictS.Canonical.mem | with_reducible apply DictS.Canonical.values0
      | with_reducible apply DictS.Canonical.tables0 | with_reducible apply DictS.Canonical.values1
      | with_reducible apply DictS.Canonical.tables1 | with_reducible apply DictS.Canonical.intro

/-- What an effect leaves keeps what every step keeps. -/
def Act.Kept (base : Base) : Act → Prop
  | .refuse _ f => ∀ d : Dev, d.Kept base → (f d).Kept base
  | .done d => d.Kept base
  | .thenDo d f => d.Kept base ∧ ∀ x : Dev, x.Kept base → (f x).Kept base
  | .later d => d.Kept base

theorem Act.refuse_kept {c : Nat} {f : Dev → Dev} (h : ∀ d : Dev, d.Kept base → (f d).Kept base) :
    (Act.refuse c f).Kept base := h
theorem Act.done_kept {d : Dev} (h : d.Kept base) : (Act.done d).Kept base := h
theorem Act.thenDo_kept {d : Dev} {f : Dev → Dev} (h : d.Kept base) (hf : ∀ x : Dev, x.Kept base → (f x).Kept base) :
    (Act.thenDo d f).Kept base := ⟨h, hf⟩
theorem Act.later_kept {d : Dev} (h : d.Kept base) : (Act.later d).Kept base := h
theorem Act.ite_kept {c : Prop} [Decidable c] {a a2 : Act} (ha : a.Kept base) (hb : a2.Kept base) :
    (if c then a else a2).Kept base := by
  split
  exacts [ha, hb]
theorem Act.when_kept (ok : Bool) (d : Dev) (h : d.Kept base) : (Act.when ok d).Kept base := by
  unfold Act.when
  split
  exacts [h, fun _ h => h]

theorem agentAct_kept (r : Req) (role : Nat) (v : Value) (d : Dev) (hd : d.Kept base) :
    (agentAct r role v d).Kept base := by
  unfold agentAct
  repeat' first
      | with_reducible assumption | intro _ | with_reducible apply Act.ite_kept
      | with_reducible apply Act.when_kept | with_reducible apply Act.done_kept
      | with_reducible apply Act.later_kept | with_reducible apply markDefaults_kept
      | with_reducible apply discardSet_kept | with_reducible apply refuseWrite_kept
      | with_reducible apply onDict_kept | with_reducible apply saveCopy_kept | with_reducible apply setReg_kept
      | split | dsimp only [id] | with_reducible apply DictS.Canonical.od
      | with_reducible apply DictS.Canonical.mem | with_reducible apply DictS.Canonical.values0
      | with_reducible apply DictS.Canonical.tables0 | with_reducible apply DictS.Canonical.values1
      | with_reducible apply DictS.Canonical.tables1 | with_reducible apply DictS.Canonical.intro

theorem frameAct_kept (c : CanId) (bs : List Byte) (d : Dev) (hd : d.Kept base) : (frameAct c bs d).Kept base := by
  unfold frameAct
  repeat' first
      | with_reducible assumption | intro _ | with_reducible apply Act.ite_kept
      | with_reducible apply Act.when_kept | with_reducible apply setObj_kept | dsimp only [id]

theorem objectAct_kept (c : CanId) (n : Nat) (d : Dev) (hd : d.Kept base) : (objectAct c n d).Kept base := by
  unfold objectAct
  repeat' first
      | with_reducible assumption | intro _ | with_reducible apply Act.ite_kept
      | with_reducible apply Act.when_kept | with_reducible apply ackObj_kept | with_reducible apply cancelObj_kept
      | with_reducible apply requestObj_kept | split | dsimp only [id]

theorem canAct_kept (c : CanId) (idx sub : Nat) (v : Value) (d : Dev) (hd : d.Kept base) :
    (canAct c idx sub v d).Kept base := by
  unfold canAct
  repeat' first
      | with_reducible assumption | with_reducible apply Act.when_kept | with_reducible apply Act.done_kept
      | with_reducible apply objectAct_kept | with_reducible apply frameAct_kept
      | with_reducible apply askRecovery_kept | with_reducible apply setReg_kept | split

theorem clearWindow_kept (k : Fin 7) (d : Dev) (hd : d.Kept base) : (clearWindow k d).Kept base := by
  unfold clearWindow
  repeat' first | with_reducible assumption | with_reducible apply onSched_kept

theorem netAct_kept (r : Req) (v : Value) (d : Dev) (hd : d.Kept base) : (netAct r v d).Kept base := by
  unfold netAct
  dsimp only
  split
  · exact Act.done_kept (setLeading_kept _ _ hd)
  split
  · exact Act.done_kept (setInhibit_kept _ _ hd)
  split
  · exact Act.when_kept _ _ (startRotation_kept _ _ hd)
  split
  · exact Act.when_kept _ _ (emit_kept _ _ hd)
  split
  · have h := pulseGroup_kept (groupOf (Fin.ofNat 20 (r.idx - 0x2300))) d hd
    generalize (!resetRefused d (Fin.ofNat 20 (r.idx - 0x2300))) = ok
    cases ok
    exacts [fun _ h => h, h]
  split
  · exact Act.when_kept _ _ (setReg_kept _ _ _ _ hd)
  split
  · exact Act.when_kept _ _ (requestedStep_kept _ _ hd)
  split
  · refine Act.done_kept ?_
    split
    exacts [clearWindow_kept _ _ hd, hd]
  · exact Act.done_kept (setReg_kept _ _ _ _ hd)

theorem clearCheck_kept (sub : Nat) (d : Dev) (hd : d.Kept base) : (clearCheck sub d).Kept base := by
  unfold clearCheck
  repeat' first | with_reducible assumption | with_reducible apply setChk_kept

theorem hostEntryNow_kept (bs : List Byte) (d : Dev) (hd : d.Kept base) : (hostEntryNow bs d).Kept base := by
  unfold hostEntryNow
  repeat' first | with_reducible assumption | with_reducible apply raiseP_kept

theorem fieldAct_kept (r : Req) (v : Value) (d : Dev) (hd : d.Kept base) : (fieldAct r v d).Kept base := by
  unfold fieldAct
  repeat' first
      | with_reducible assumption | with_reducible apply Act.ite_kept | with_reducible apply Act.when_kept
      | with_reducible apply Act.done_kept | with_reducible apply hostEntryNow_kept
      | with_reducible apply clearCheck_kept | with_reducible apply hostAwake_kept
      | with_reducible apply unfreezeLog_kept | with_reducible apply freezeLog_kept
      | with_reducible apply unlockLoads_kept | with_reducible apply commandLoad_kept
      | with_reducible apply setReg_kept

theorem firmwareAct_kept (d : Dev) (hd : d.Kept base) : (firmwareAct d).Kept base := by
  unfold firmwareAct
  repeat' first
      | with_reducible assumption | intro _ | with_reducible apply Act.ite_kept
      | with_reducible apply Act.done_kept | with_reducible apply firmwareStart_kept
      | with_reducible apply refuseSignature_kept | with_reducible apply setReg_kept | split | dsimp only [id]

theorem lifecycleAct_kept (n : Nat) (d : Dev) (hd : d.Kept base) : (lifecycleAct n d).Kept base := by
  unfold lifecycleAct
  split
  · by_cases h : secureRefused d = true
    · simp only [h, Act.when]
      exact fun _ h => h
    · have hl : d.sec.lifecycle ≤ 2 := by
        simp only [secureRefused, Bool.or_eq_true, decide_eq_true_eq, not_or, Decidable.not_not] at h
        omega
      exact Act.when_kept _ _ (secureNow_kept _ hd hl)
  · split
    · exact fun _ h => h
    · exact Act.thenDo_kept (voidKeys_kept _ hd) fun _ h => warmResetNow_kept _ h

theorem tokenAct_kept (src : Src) (token : List Byte) (d : Dev) (hd : d.Kept base) :
    (tokenAct src token d).Kept base := by
  unfold tokenAct
  split
  · exact fun _ h => h
  · next h =>
    split
    · exact fun _ h => refuseSignature_kept _ h
    · refine Act.done_kept (returnNow_kept _ _ hd ?_)
      simp only [Bool.or_eq_true, decide_eq_true_eq, not_or, Decidable.not_not] at h
      omega

theorem platformAct_kept (r : Req) (v : Value) (d : Dev) (hd : d.Kept base) : (platformAct r v d).Kept base := by
  unfold platformAct
  repeat' first
      | with_reducible assumption | intro _ | with_reducible apply ite_kept | with_reducible apply Act.ite_kept
      | with_reducible apply Act.when_kept | with_reducible apply Act.done_kept
      | with_reducible apply Act.thenDo_kept | with_reducible apply tokenAct_kept
      | with_reducible apply lifecycleAct_kept | with_reducible apply firmwareAct_kept
      | with_reducible apply firmwareDrop_kept | with_reducible apply warmResetNow_kept
      | with_reducible apply onPow_kept | with_reducible apply emptyTracker_kept
      | with_reducible apply onHealth_kept | with_reducible apply snapshot_kept | with_reducible apply setReg_kept
      | dsimp only [id]

theorem actOn_kept (r : Req) (role : Nat) (v : Value) (d : Dev) (hd : d.Kept base) :
    (actOn r role v d).Kept base := by
  unfold actOn
  repeat' first
      | with_reducible assumption | with_reducible apply Act.ite_kept | with_reducible apply platformAct_kept
      | with_reducible apply fieldAct_kept | with_reducible apply netAct_kept | with_reducible apply canAct_kept
      | with_reducible apply agentAct_kept

theorem serveWrite_kept (r : Req) (data : List Byte) (d : Dev) (hd : d.Kept base) :
    (serveWrite r data d).Kept base := by
  have ha : ∀ role v c, (actOn r role v (onlyIf c (bump 0x2003 1) d)).Kept base :=
    fun role v c => actOn_kept _ _ _ _ (onlyIf_kept _ _ _ (fun h => bump_kept _ _ _ h) hd)
  unfold serveWrite
  dsimp only
  split
  · exact refuseWrite_kept _ _ _ _ _ hd
  · next row v e =>
    apply ite_kept (commitWrite_kept _ _ _ hd)
    apply ite_kept
    · have hb := ha (roleOf d r.src) v (!(r.idx = 0x2011 && r.sub = 2 && v.toNat = 1))
      split
      all_goals rename_i q; rw [q] at hb
      · exact refuseWrite_kept _ _ _ _ _ (hb _ hd)
      · exact answerWrite_kept _ _ _ _ _ hb
      · exact hb.2 _ (answerWrite_kept _ _ _ _ _ hb.1)
      · exact hb
    · repeat' first
        | with_reducible assumption | with_reducible apply refuseWrite_kept | with_reducible apply answerWrite_kept
        | with_reducible apply stageWrite_kept | split

theorem readEffect_kept (idx sub : Nat) (d : Dev) (hd : d.Kept base) : (readEffect idx sub d).Kept base := by
  unfold readEffect
  repeat' first
      | with_reducible assumption | intro _ | with_reducible apply ite_kept | with_reducible apply mdio_kept
      | with_reducible apply onGw_kept | with_reducible apply onPortTime_kept | with_reducible apply draw_kept
      | dsimp only [id] | with_reducible apply Dev.Kept.upd | with_reducible apply Dev.Kept.upd_time
      | with_reducible apply Dev.Kept.time | with_reducible apply TimeS.Bounded.intro
      | with_reducible apply TimeS.Bounded.raw | with_reducible apply TimeS.Bounded.step

theorem answerRead_kept (r : Req) (abort : Nat) (data : List Byte) (total : Nat) (d : Dev) (hd : d.Kept base) :
    (answerRead r abort data total d).Kept base := by
  unfold answerRead
  repeat' first | with_reducible assumption | with_reducible apply answer_kept

theorem serveRead_kept (r : Req) (wanted : Nat) (d : Dev) (hd : d.Kept base) : (serveRead r wanted d).Kept base := by
  unfold serveRead
  repeat' first
      | with_reducible assumption | with_reducible apply answerRead_kept | with_reducible apply readEffect_kept
      | split

theorem serveNow_kept (r : Req) (d : Dev) (hd : d.Kept base) : (serveNow r d).Kept base := by
  unfold serveNow
  repeat' first
      | with_reducible assumption | with_reducible apply ite_kept | with_reducible apply serveRead_kept
      | with_reducible apply serveWrite_kept | split

theorem submit_kept (r : Req) (d : Dev) (hd : d.Kept base) : (submit r d).Kept base := by
  unfold submit
  repeat' first
      | with_reducible assumption | intro _ | with_reducible apply ite_kept | with_reducible apply serveNow_kept
      | with_reducible apply onDict_kept | dsimp only [id] | with_reducible apply DictS.Canonical.od
      | with_reducible apply DictS.Canonical.mem | with_reducible apply DictS.Canonical.values0
      | with_reducible apply DictS.Canonical.tables0 | with_reducible apply DictS.Canonical.values1
      | with_reducible apply DictS.Canonical.tables1 | with_reducible apply DictS.Canonical.intro

theorem serveAll_kept (l : List Req) (d : Dev) (hd : d.Kept base) : (serveAll l d).Kept base := by
  unfold serveAll
  repeat' first
      | with_reducible assumption | intro _ | with_reducible apply submit_kept | with_reducible apply forEach_kept

theorem resume_kept (d : Dev) (hd : d.Kept base) : (resume d).Kept base := by
  unfold resume
  repeat' first
      | with_reducible assumption | intro _ | with_reducible apply serveAll_kept | with_reducible apply onDict_kept
      | dsimp only [id] | with_reducible apply DictS.Canonical.od | with_reducible apply DictS.Canonical.mem
      | with_reducible apply DictS.Canonical.values0 | with_reducible apply DictS.Canonical.tables0
      | with_reducible apply DictS.Canonical.values1 | with_reducible apply DictS.Canonical.tables1
      | with_reducible apply DictS.Canonical.intro

end Sys2Proof.Machine
end

