-- ==== Sys2Proof/Laws/Kept/Apply.lean ====
section
/-! SUPPORT. Each function of Machine/Apply.lean keeps what every step keeps. -/

-- one declaration after the other: the package is also compiled as one text, in limited memory
set_option Elab.async false

set_option linter.all false

namespace Sys2Proof.Machine

variable {base : Base}

theorem bootInto_kept (d : Dev) (hd : d.Kept base) : (bootInto d).Kept base := by
  unfold bootInto
  repeat' first
      | with_reducible assumption | with_reducible apply ite_kept | with_reducible apply bootProfile_kept
      | with_reducible apply enterProfile_kept | with_reducible apply raise_kept | with_reducible apply setReg_kept

theorem startBlocks_kept (d : Dev) (hd : d.Kept base) : (startBlocks d).Kept base := by
  unfold startBlocks
  repeat' first
      | with_reducible assumption | with_reducible apply healthBoot_kept | with_reducible apply bootPorts_kept
      | with_reducible apply bootInaug_kept | with_reducible apply gwStart_kept
      | with_reducible apply applyChecks_kept | with_reducible apply bootCan_kept
      | with_reducible apply applyStreams_kept | with_reducible apply bootSched_kept
      | with_reducible apply applyTevt_kept | with_reducible apply loadsStart_kept

theorem bootApply_kept (d : Dev) (hd : d.Kept base) : (bootApply d).Kept base := by
  unfold bootApply
  repeat' first
      | with_reducible assumption | with_reducible apply startBlocks_kept | with_reducible apply bootInto_kept
      | with_reducible apply resume_kept | with_reducible apply settleSafe_kept
      | with_reducible apply sleepBooted_kept | with_reducible apply onPow_kept
      | with_reducible apply plannerGate_kept | with_reducible apply setReg_kept | dsimp only [id]
      | with_reducible apply Dev.Kept.mk | with_reducible apply Dev.Kept.dict | with_reducible apply Dev.Kept.host
      | with_reducible apply Dev.Kept.stages | with_reducible apply Dev.Kept.chk
      | with_reducible apply Dev.Kept.chip | with_reducible apply Dev.Kept.time | with_reducible apply Dev.Kept.sec
      | with_reducible apply TimeS.Bounded.intro | with_reducible apply TimeS.Bounded.raw
      | with_reducible apply TimeS.Bounded.step | with_reducible apply DictS.Canonical.od
      | with_reducible apply DictS.Canonical.mem | with_reducible apply DictS.Canonical.values0
      | with_reducible apply DictS.Canonical.tables0 | with_reducible apply DictS.Canonical.values1
      | with_reducible apply DictS.Canonical.tables1 | with_reducible apply DictS.Canonical.intro

theorem applyBuses_kept (old : Dev) (l : List Staged) (d : Dev) (hold : old.Kept base) (hd : d.Kept base) :
    (applyBuses old l d).Kept base := by
  unfold applyBuses
  repeat' first
      | with_reducible assumption | intro _ | with_reducible apply ite_kept | with_reducible apply sdoIdle_kept
      | with_reducible apply resetObj_kept | with_reducible apply applyCan_kept | with_reducible apply onlyIf_kept
      | with_reducible apply forEach_kept

theorem applySchedule_kept (old : Dev) (l : List Staged) (d : Dev) (hold : old.Kept base) (hd : d.Kept base) :
    (applySchedule old l d).Kept base := by
  unfold applySchedule
  repeat' first
      | with_reducible assumption | intro _ | with_reducible apply ite_kept
      | with_reducible apply applySchedImage_kept | with_reducible apply applySchedSource_kept
      | with_reducible apply onSched_kept | with_reducible apply onlyIf_kept

theorem applyKey_kept (old : Dev) (l : List Staged) (d : Dev) (hold : old.Kept base) (hd : d.Kept base) :
    (applyKey old l d).Kept base := by
  unfold applyKey
  repeat' first
      | with_reducible assumption | with_reducible apply ite_kept | with_reducible apply rotateKey_kept | split

theorem applyImage_kept (image : Option (Nat × Nat)) (d : Dev) (hd : d.Kept base) :
    (applyImage image d).Kept base := by
  unfold applyImage
  repeat' first
      | with_reducible assumption | intro _ | with_reducible apply ite_kept | with_reducible apply onDict_kept
      | with_reducible apply saveCopy_kept | with_reducible apply setReg_kept | split | dsimp only [id]
      | with_reducible apply DictS.Canonical.od | with_reducible apply DictS.Canonical.mem
      | with_reducible apply DictS.Canonical.values0 | with_reducible apply DictS.Canonical.tables0
      | with_reducible apply DictS.Canonical.values1 | with_reducible apply DictS.Canonical.tables1
      | with_reducible apply DictS.Canonical.intro

theorem applySet_kept (k : Commit) (d : Dev) (hd : d.Kept base) : (applySet k d).Kept base := by
  unfold applySet
  repeat' first
      | with_reducible assumption | intro _ | with_reducible apply ite_kept | with_reducible apply applyImage_kept
      | with_reducible apply applyKey_kept | with_reducible apply applySchedule_kept
      | with_reducible apply applyBuses_kept | with_reducible apply putAll_kept | with_reducible apply onDict_kept
      | with_reducible apply profileAtCommit_kept | with_reducible apply settleNeed_kept
      | with_reducible apply applyPorts_kept | with_reducible apply applyInaug_kept
      | with_reducible apply judgeSleep_kept | with_reducible apply applyGateway_kept
      | with_reducible apply gwSweep_kept | with_reducible apply applyChecks_kept
      | with_reducible apply applyStreams_kept | with_reducible apply applyTevt_kept
      | with_reducible apply applyTime_kept | with_reducible apply applyLoads_kept | with_reducible apply bump_kept
      | dsimp only [id] | with_reducible apply DictS.Canonical.od | with_reducible apply DictS.Canonical.mem
      | with_reducible apply DictS.Canonical.values0 | with_reducible apply DictS.Canonical.tables0
      | with_reducible apply DictS.Canonical.values1 | with_reducible apply DictS.Canonical.tables1
      | with_reducible apply DictS.Canonical.intro

theorem closePaths_kept (old d : Dev) (hold : old.Kept base) (hd : d.Kept base) : (closePaths old d).Kept base := by
  unfold closePaths
  repeat' first | with_reducible assumption | with_reducible apply keepSessions_kept

theorem endCommit_kept (old : Dev) (k : Commit) (code : Nat) (d : Dev) (hold : old.Kept base) (hd : d.Kept base) :
    (endCommit old k code d).Kept base := by
  unfold endCommit
  repeat' first
      | with_reducible assumption | intro _ | with_reducible apply ite_kept | with_reducible apply closePaths_kept
      | with_reducible apply resume_kept | with_reducible apply answerWrite_kept | with_reducible apply onDict_kept
      | dsimp only [id] | with_reducible apply DictS.Canonical.od | with_reducible apply DictS.Canonical.mem
      | with_reducible apply DictS.Canonical.values0 | with_reducible apply DictS.Canonical.tables0
      | with_reducible apply DictS.Canonical.values1 | with_reducible apply DictS.Canonical.tables1
      | with_reducible apply DictS.Canonical.intro

theorem execApplyPoint_kept (s : State) (hs : s.dev.Kept base) : Keeps base (execApplyPoint s) := by
  unfold execApplyPoint
  first | with_reducible apply does_kept _ _ hs | with_reducible apply doesJudged_kept _ _ hs | skip
  repeat' first
      | with_reducible assumption | intro _ | with_reducible apply ite_kept | with_reducible apply endCommit_kept
      | with_reducible apply applySet_kept | with_reducible apply bootApply_kept | with_reducible apply onPow_kept
      | with_reducible apply arriveTrain_kept | with_reducible apply bump_kept | split

theorem resetSecurity_kept (d : Dev) (hd : d.Kept base) : (resetSecurity d).Kept base := by
  unfold resetSecurity
  repeat' first
      | with_reducible assumption | intro _ | with_reducible apply endGrant_kept | with_reducible apply onSec_kept
      | with_reducible apply keepSessions_kept | dsimp only [id] | with_reducible apply SecS.AtLeast.intro
      | with_reducible apply SecS.AtLeast.life | with_reducible apply SecS.AtLeast.version
      | with_reducible apply SecS.AtLeast.top

theorem islandFails_kept (i : Fin 41) (d : Dev) (hd : d.Kept base) : (islandFails i d).Kept base := by
  unfold islandFails
  repeat' first
      | with_reducible assumption | with_reducible apply ite_kept | with_reducible apply onPow_kept
      | with_reducible apply enterAcquiring_kept | with_reducible apply leaveUp_kept
      | with_reducible apply gwStart_kept | with_reducible apply applyChecks_kept
      | with_reducible apply bootCan_kept | with_reducible apply applyStreams_kept
      | with_reducible apply onStrm_kept | with_reducible apply retireSlice_kept | split | dsimp only [id]
      | with_reducible apply Dev.Kept.mk | with_reducible apply Dev.Kept.dict | with_reducible apply Dev.Kept.host
      | with_reducible apply Dev.Kept.chip | with_reducible apply Dev.Kept.time | with_reducible apply Dev.Kept.sec
      | rfl

theorem execIslandAckTimeout_kept (island : Fin 41) (s : State) (hs : s.dev.Kept base) : Keeps base
    (execIslandAckTimeout island s) := by
  unfold execIslandAckTimeout
  first | with_reducible apply does_kept _ _ hs | with_reducible apply doesJudged_kept _ _ hs | skip
  repeat' first
      | with_reducible assumption | intro _ | with_reducible apply ite_kept | with_reducible apply islandFails_kept
      | with_reducible apply resetSecurity_kept | with_reducible apply endCommit_kept
      | with_reducible apply applySet_kept | with_reducible apply countRefusal_kept
      | with_reducible apply onPow_kept | with_reducible apply raise_kept | with_reducible apply arriveTrain_kept
      | with_reducible apply arrive_kept | with_reducible apply bump_kept | split

theorem execCommitHoldRelease_kept (s : State) (hs : s.dev.Kept base) : Keeps base (execCommitHoldRelease s) := by
  unfold execCommitHoldRelease
  first | with_reducible apply does_kept _ _ hs | with_reducible apply doesJudged_kept _ _ hs | skip
  repeat' first
      | with_reducible assumption | intro _ | with_reducible apply ite_kept | with_reducible apply judgeCommit_kept
      | with_reducible apply onDict_kept | split | dsimp only [id] | with_reducible apply DictS.Canonical.od
      | with_reducible apply DictS.Canonical.mem | with_reducible apply DictS.Canonical.values0
      | with_reducible apply DictS.Canonical.tables0 | with_reducible apply DictS.Canonical.values1
      | with_reducible apply DictS.Canonical.tables1 | with_reducible apply DictS.Canonical.intro

theorem execCommitHoldTimeout_kept (s : State) (hs : s.dev.Kept base) : Keeps base (execCommitHoldTimeout s) := by
  unfold execCommitHoldTimeout
  first | with_reducible apply does_kept _ _ hs | with_reducible apply doesJudged_kept _ _ hs | skip
  repeat' first
      | with_reducible assumption | intro _ | with_reducible apply refuseCommit_kept
      | with_reducible apply onDict_kept | with_reducible apply arrive_kept | split | dsimp only [id]
      | with_reducible apply DictS.Canonical.od | with_reducible apply DictS.Canonical.mem
      | with_reducible apply DictS.Canonical.values0 | with_reducible apply DictS.Canonical.tables0
      | with_reducible apply DictS.Canonical.values1 | with_reducible apply DictS.Canonical.tables1
      | with_reducible apply DictS.Canonical.intro

theorem execFenceComplete_kept (s : State) (hs : s.dev.Kept base) : Keeps base (execFenceComplete s) := by
  unfold execFenceComplete
  first | with_reducible apply does_kept _ _ hs | with_reducible apply doesJudged_kept _ _ hs | skip
  repeat' first
      | with_reducible assumption | intro _ | with_reducible apply resume_kept
      | with_reducible apply answerWrite_kept | with_reducible apply onDict_kept | split | dsimp only [id]
      | with_reducible apply DictS.Canonical.od | with_reducible apply DictS.Canonical.mem
      | with_reducible apply DictS.Canonical.values0 | with_reducible apply DictS.Canonical.tables0
      | with_reducible apply DictS.Canonical.values1 | with_reducible apply DictS.Canonical.tables1
      | with_reducible apply DictS.Canonical.intro

theorem execStagingIdleTimeout_kept (s : State) (hs : s.dev.Kept base) : Keeps base (execStagingIdleTimeout s) := by
  unfold execStagingIdleTimeout
  first | with_reducible apply does_kept _ _ hs | with_reducible apply doesJudged_kept _ _ hs | skip
  repeat' first
      | with_reducible assumption | intro _ | with_reducible apply discardSet_kept
      | with_reducible apply onDict_kept | with_reducible apply arrive_kept | split | dsimp only [id]
      | with_reducible apply DictS.Canonical.od | with_reducible apply DictS.Canonical.mem
      | with_reducible apply DictS.Canonical.values0 | with_reducible apply DictS.Canonical.tables0
      | with_reducible apply DictS.Canonical.values1 | with_reducible apply DictS.Canonical.tables1
      | with_reducible apply DictS.Canonical.intro

theorem stageImage_kept_pair {role : Nat} {l : List (Nat × Nat × Nat × List Byte)} {d d' : Dev} (e
    : stageImage role l d = .ok d')
    (hd : d.Kept base) : d'.Kept base := by
  induction l generalizing d with
  | nil =>
    simp only [stageImage, Except.ok.injEq] at e
    exact e ▸ hd
  | cons x l ih =>
    obtain ⟨idx, sub, off, data⟩ := x
    unfold stageImage at e
    split at e
    · simp at e
    · split at e
      · simp at e
      · exact ih e (onDict_kept _ _ hd fun q hq => hq)

theorem takeImage_kept (src : Src) (d : Dev) (hd : d.Kept base) : (takeImage src d).Kept base := by
  have hs : ∀ (n : Nat) (x : Dev), x.Kept base → (onDict (fun q => { q with imageStatus := n }) x).Kept base :=
    fun n x hx => onDict_kept _ _ hx fun q hq => hq
  unfold takeImage
  dsimp only
  apply ite_kept (refuseWrite_kept _ _ _ _ _ (hs _ _ hd))
  generalize e : stageImage (roleOf d src) _ d = r
  cases r with
  | error c => exact refuseWrite_kept _ _ _ _ _ (hs _ _ hd)
  | ok d1 =>
    exact ite_kept (refuseWrite_kept _ _ _ _ _ (hs _ _ hd)) (answerWrite_kept _ _ _ _ _ (bump_kept _ _ _
      (touchIdle_kept _ (hs _ _ (onDict_kept _ _ (stageImage_kept_pair e hd) fun q hq => hq)))))

theorem execImageVerificationEnd_kept (s : State) (hs : s.dev.Kept base) : Keeps base
    (execImageVerificationEnd s) := by
  unfold execImageVerificationEnd
  first | with_reducible apply does_kept _ _ hs | with_reducible apply doesJudged_kept _ _ hs | skip
  repeat' first
      | with_reducible assumption | intro _ | with_reducible apply takeImage_kept
      | with_reducible apply refuseWrite_kept | with_reducible apply onDict_kept
      | with_reducible apply refuseSignature_kept | split | dsimp only [id]
      | with_reducible apply DictS.Canonical.od | with_reducible apply DictS.Canonical.mem
      | with_reducible apply DictS.Canonical.values0 | with_reducible apply DictS.Canonical.tables0
      | with_reducible apply DictS.Canonical.values1 | with_reducible apply DictS.Canonical.tables1
      | with_reducible apply DictS.Canonical.intro

end Sys2Proof.Machine
end

