-- ==== Sys2Proof/Laws/Kept/Access.lean ====
section
/-! SUPPORT. Each function of Machine/Access.lean keeps what every step keeps. -/

-- one declaration after the other: the package is also compiled as one text, in limited memory
set_option Elab.async false

set_option linter.all false

namespace Sys2Proof.Machine

variable {base : Base}

theorem kdaHeard_kept (h : KdaHeader) (n : Nat) (act : Dev → Dev) (d0 : Dev) (hact : ∀  (d : Dev), d.Kept base →
    (act  d).Kept base) (hd0 : d0.Kept base) : (kdaHeard h n act d0).Kept base := by
  unfold kdaHeard
  repeat' first
      | with_reducible assumption | intro _ | with_reducible apply ite_kept | with_reducible apply hact
      | with_reducible apply onDict_kept | with_reducible apply countGood_kept | with_reducible apply bump_kept
      | split | dsimp only [id] | with_reducible apply DictS.Canonical.od
      | with_reducible apply DictS.Canonical.mem | with_reducible apply DictS.Canonical.values0
      | with_reducible apply DictS.Canonical.tables0 | with_reducible apply DictS.Canonical.values1
      | with_reducible apply DictS.Canonical.tables1 | with_reducible apply DictS.Canonical.intro

theorem kdaSession_kept (h : KdaHeader) (n : Nat) (act : KdaSession → Dev → Dev) (d : Dev) (hact : ∀ y0 (d
    : Dev), d.Kept base → (act y0 d).Kept base) (hd : d.Kept base) : (kdaSession h n act d).Kept base := by
  unfold kdaSession
  repeat' first
      | with_reducible assumption | intro _ | with_reducible apply ite_kept | with_reducible apply hact
      | with_reducible apply kdaHeard_kept | with_reducible apply bump_kept | split

theorem kdaValid_kept (h : KdaHeader) (d : Dev) (hd : d.Kept base) : (kdaValid h d).Kept base := by
  unfold kdaValid
  repeat' first | with_reducible assumption | with_reducible apply onSession_kept

theorem inSequence_kept (h : KdaHeader) (serve : Dev → Dev) (s : KdaSession) (d : Dev) (hserve : ∀  (d
    : Dev), d.Kept base → (serve  d).Kept base) (hd : d.Kept base) : (inSequence h serve s d).Kept base := by
  unfold inSequence
  repeat' first
      | with_reducible assumption | with_reducible apply ite_kept | with_reducible apply hserve
      | with_reducible apply kdaValid_kept | with_reducible apply onSession_kept
      | with_reducible apply sendKda_kept | with_reducible apply bump_kept | split

theorem kdaRequest_kept (h : KdaHeader) (n : Nat) (serve : Dev → Dev) (d : Dev) (hserve : ∀  (d
    : Dev), d.Kept base → (serve  d).Kept base) (hd : d.Kept base) : (kdaRequest h n serve d).Kept base := by
  unfold kdaRequest
  repeat' first
      | with_reducible assumption | intro _ | with_reducible apply inSequence_kept
      | with_reducible apply kdaSession_kept

theorem execKdaRead_kept (h : KdaHeader) (payload : List Byte) (s : State) (hs : s.dev.Kept base) : Keeps base
    (execKdaRead h payload s) := by
  unfold execKdaRead
  first | with_reducible apply does_kept _ _ hs | with_reducible apply doesJudged_kept _ _ hs | skip
  repeat' first
      | with_reducible assumption | intro _ | with_reducible apply ite_kept | with_reducible apply kdaRequest_kept
      | with_reducible apply submit_kept | with_reducible apply answerRead_kept

theorem execKdaWrite_kept (h : KdaHeader) (payload : List Byte) (s : State) (hs : s.dev.Kept base) : Keeps base
    (execKdaWrite h payload s) := by
  unfold execKdaWrite
  first | with_reducible apply does_kept _ _ hs | with_reducible apply doesJudged_kept _ _ hs | skip
  repeat' first
      | with_reducible assumption | intro _ | with_reducible apply ite_kept | with_reducible apply kdaRequest_kept
      | with_reducible apply submit_kept | with_reducible apply refuseWrite_kept

theorem execKeepalive_kept (h : KdaHeader) (s : State) (hs : s.dev.Kept base) : Keeps base (execKeepalive h s) := by
  unfold execKeepalive
  first | with_reducible apply does_kept _ _ hs | with_reducible apply doesJudged_kept _ _ hs | skip
  repeat' first
      | with_reducible assumption | intro _ | with_reducible apply kdaValid_kept
      | with_reducible apply kdaSession_kept

theorem execClose_kept (h : KdaHeader) (s : State) (hs : s.dev.Kept base) : Keeps base (execClose h s) := by
  unfold execClose
  first | with_reducible apply does_kept _ _ hs | with_reducible apply doesJudged_kept _ _ hs | skip
  repeat' first
      | with_reducible assumption | intro _ | with_reducible apply kdaSession_kept
      | with_reducible apply keepSessions_kept

theorem execKdaOpcodeInvalid_kept (h : KdaHeader) (_opcode : BitVec 8) (s : State) (hs : s.dev.Kept base)
    : Keeps base (execKdaOpcodeInvalid h _opcode s) := by
  unfold execKdaOpcodeInvalid
  first | with_reducible apply does_kept _ _ hs | with_reducible apply doesJudged_kept _ _ hs | skip
  repeat' first
      | with_reducible assumption | intro _ | with_reducible apply kdaRequest_kept
      | with_reducible apply sendStored_kept | split

theorem execSessionExpiry_kept (session : BitVec 32) (s : State) (hs : s.dev.Kept base) : Keeps base
    (execSessionExpiry session s) := by
  unfold execSessionExpiry
  first | with_reducible apply does_kept _ _ hs | with_reducible apply doesJudged_kept _ _ hs | skip
  repeat' first
      | with_reducible assumption | intro _ | with_reducible apply ite_kept
      | with_reducible apply keepSessions_kept | with_reducible apply arrive_kept | split

theorem execChallengeTimeout_kept (session : BitVec 32) (s : State) (hs : s.dev.Kept base) : Keeps base
    (execChallengeTimeout session s) := by
  unfold execChallengeTimeout
  first | with_reducible apply does_kept _ _ hs | with_reducible apply doesJudged_kept _ _ hs | skip
  repeat' first
      | with_reducible assumption | intro _ | with_reducible apply ite_kept
      | with_reducible apply keepSessions_kept | with_reducible apply arrive_kept | split

theorem kdaError_kept (peer : KdaPeer) (session : BitVec 32) (code : Nat) (d : Dev) (hd : d.Kept base) :
    (kdaError peer session code d).Kept base := by
  unfold kdaError
  repeat' first | with_reducible assumption | with_reducible apply sendKda_kept

theorem challenge_kept (h : KdaHeader) (payload : List Byte) (d : Dev) (hd : d.Kept base) :
    (challenge h payload d).Kept base := by
  unfold challenge
  repeat' first
      | with_reducible assumption | intro _ | with_reducible apply sendKda_kept | with_reducible apply onDict_kept
      | with_reducible apply draw_kept | dsimp only [id] | with_reducible apply DictS.Canonical.od
      | with_reducible apply DictS.Canonical.mem | with_reducible apply DictS.Canonical.values0
      | with_reducible apply DictS.Canonical.tables0 | with_reducible apply DictS.Canonical.values1
      | with_reducible apply DictS.Canonical.tables1 | with_reducible apply DictS.Canonical.intro

theorem execKdaOpen_kept (h : KdaHeader) (payload : List Byte) (s : State) (hs : s.dev.Kept base) : Keeps base
    (execKdaOpen h payload s) := by
  unfold execKdaOpen
  first | with_reducible apply does_kept _ _ hs | with_reducible apply doesJudged_kept _ _ hs | skip
  repeat' first
      | with_reducible assumption | intro _ | with_reducible apply ite_kept | with_reducible apply challenge_kept
      | with_reducible apply kdaError_kept | with_reducible apply kdaHeard_kept | with_reducible apply bump_kept

theorem proofFailed_kept (d : Dev) (hd : d.Kept base) : (proofFailed d).Kept base := by
  unfold proofFailed
  repeat' first
      | with_reducible assumption | intro _ | with_reducible apply ite_kept | with_reducible apply onSec_kept
      | with_reducible apply raise_kept | with_reducible apply bump_kept | split | dsimp only [id]
      | with_reducible apply SecS.AtLeast.intro | with_reducible apply SecS.AtLeast.life
      | with_reducible apply SecS.AtLeast.version | with_reducible apply SecS.AtLeast.top

theorem acceptSession_kept (h : KdaHeader) (s : KdaSession) (role : Nat) (d : Dev) (hd : d.Kept base) :
    (acceptSession h s role d).Kept base := by
  unfold acceptSession
  repeat' first
      | with_reducible assumption | intro _ | with_reducible apply onSession_kept
      | with_reducible apply sendKda_kept | with_reducible apply onlyIf_kept | with_reducible apply raise_kept
      | with_reducible apply bump_kept

theorem judgeProof_kept (h : KdaHeader) (payload : List Byte) (s : KdaSession) (d : Dev) (hd : d.Kept base) :
    (judgeProof h payload s d).Kept base := by
  unfold judgeProof
  repeat' first
      | with_reducible assumption | with_reducible apply ite_kept | with_reducible apply acceptSession_kept
      | with_reducible apply proofFailed_kept | with_reducible apply kdaError_kept
      | with_reducible apply keepSessions_kept | split | dsimp only [id]

theorem execProof_kept (h : KdaHeader) (payload : List Byte) (s : State) (hs : s.dev.Kept base) : Keeps base
    (execProof h payload s) := by
  unfold execProof
  first | with_reducible apply does_kept _ _ hs | with_reducible apply doesJudged_kept _ _ hs | skip
  repeat' first
      | with_reducible assumption | intro _ | with_reducible apply ite_kept | with_reducible apply judgeProof_kept
      | with_reducible apply kdaRequest_kept | with_reducible apply kdaHeard_kept | with_reducible apply bump_kept
      | split

theorem fillWindow_kept (path : HostPath) (r : Req) (d : Dev) (hd : d.Kept base) :
    (fillWindow path r d).Kept base := by
  unfold fillWindow
  repeat' first
      | with_reducible assumption | intro _ | with_reducible apply ite_kept | with_reducible apply onMailbox_kept
      | split | dsimp only [id] | with_reducible apply Memory.write_wf

theorem ringBell_kept (path : HostPath) (act : Dev → Dev) (d : Dev) (hact : ∀  (d : Dev), d.Kept base →
    (act  d).Kept base) (hd : d.Kept base) : (ringBell path act d).Kept base := by
  unfold ringBell
  repeat' first
      | with_reducible assumption | intro _ | with_reducible apply ite_kept | with_reducible apply hact
      | with_reducible apply onMailbox_kept | with_reducible apply setInt_kept

theorem serveWindow_kept (path : HostPath) (d : Dev) (hd : d.Kept base) : (serveWindow path d).Kept base := by
  unfold serveWindow
  repeat' first
      | with_reducible assumption | with_reducible apply ite_kept | with_reducible apply submit_kept
      | with_reducible apply answerRead_kept | with_reducible apply refuseWrite_kept | split | dsimp only [id]

theorem doorbell_kept (path : HostPath) (d : Dev) (hd : d.Kept base) : (doorbell path d).Kept base := by
  unfold doorbell
  repeat' first
      | with_reducible assumption | intro _ | with_reducible apply serveWindow_kept
      | with_reducible apply ringBell_kept

theorem execMbDoorbell_kept (path : HostPath) (s : State) (hs : s.dev.Kept base) : Keeps base
    (execMbDoorbell path s) := by
  unfold execMbDoorbell
  first | with_reducible apply does_kept _ _ hs | with_reducible apply doesJudged_kept _ _ hs | skip
  repeat' first
      | with_reducible assumption | intro _ | with_reducible apply doorbell_kept | with_reducible apply onPath_kept

theorem execSerialWrite_kept (address : SerialRange) (data : List Byte) (crc : Byte) (s : State) (hs : s.dev.Kept base)
    : Keeps base (execSerialWrite address data crc s) := by
  unfold execSerialWrite
  first | with_reducible apply does_kept _ _ hs | with_reducible apply doesJudged_kept _ _ hs | skip
  repeat' first
      | with_reducible assumption | intro _ | with_reducible apply doorbell_kept
      | with_reducible apply serialWrite_kept | with_reducible apply onPath_kept

theorem carry_kept (r : Req) (serve : Dev → Dev) (d : Dev) (hserve : ∀  (d : Dev), d.Kept base →
    (serve  d).Kept base) (hd : d.Kept base) : (carry r serve d).Kept base := by
  unfold carry
  repeat' first
      | with_reducible assumption | intro _ | with_reducible apply ite_kept | with_reducible apply hserve
      | with_reducible apply ringBell_kept | with_reducible apply fillWindow_kept
      | with_reducible apply kdaRequest_kept | with_reducible apply onPath_kept | with_reducible apply bump_kept
      | split

theorem ask_kept (r : Req) (d : Dev) (hd : d.Kept base) : (ask r d).Kept base := by
  unfold ask
  repeat' first
      | with_reducible assumption | intro _ | with_reducible apply carry_kept | with_reducible apply submit_kept
      | with_reducible apply refuseWrite_kept | split

theorem askNum_kept (src : Src) (idx sub n v : Nat) (s : State) (hs : s.dev.Kept base) : Keeps base
    (askNum src idx sub n v s) := by
  unfold askNum
  first | with_reducible apply does_kept _ _ hs | with_reducible apply doesJudged_kept _ _ hs | skip
  repeat' first | with_reducible assumption | intro _ | with_reducible apply ask_kept

theorem askBytes_kept (src : Src) (idx sub off : Nat) (data : List Byte) (s : State) (hs : s.dev.Kept base)
    : Keeps base (askBytes src idx sub off data s) := by
  unfold askBytes
  first | with_reducible apply does_kept _ _ hs | with_reducible apply doesJudged_kept _ _ hs | skip
  repeat' first | with_reducible assumption | intro _ | with_reducible apply ask_kept

theorem askRead_kept (src : Src) (idx sub : Nat) (phy : Option (BitVec 16)) (s : State) (hs : s.dev.Kept base)
    : Keeps base (askRead src idx sub phy s) := by
  unfold askRead
  first | with_reducible apply does_kept _ _ hs | with_reducible apply doesJudged_kept _ _ hs | skip
  repeat' first | with_reducible assumption | intro _ | with_reducible apply ask_kept

theorem sdoWaits_kept (c : CanId) (idx sub : Nat) (d : Dev) (hd : d.Kept base) :
    (sdoWaits c idx sub d).Kept base := by
  unfold sdoWaits
  repeat' first
      | with_reducible assumption | intro _ | with_reducible apply onDict_kept | dsimp only [id]
      | with_reducible apply DictS.Canonical.od | with_reducible apply DictS.Canonical.mem
      | with_reducible apply DictS.Canonical.values0 | with_reducible apply DictS.Canonical.tables0
      | with_reducible apply DictS.Canonical.values1 | with_reducible apply DictS.Canonical.tables1
      | with_reducible apply DictS.Canonical.intro

theorem sdoAborts_kept (c : CanId) (idx sub code : Nat) (d : Dev) (hd : d.Kept base) :
    (sdoAborts c idx sub code d).Kept base := by
  unfold sdoAborts
  repeat' first | with_reducible assumption | with_reducible apply sdoIdle_kept | with_reducible apply sdoAbort_kept

theorem sdoFailed_kept (c : CanId) (r : Req) (code : Nat) (d : Dev) (hd : d.Kept base) :
    (sdoFailed c r code d).Kept base := by
  unfold sdoFailed
  repeat' first
      | with_reducible assumption | intro _ | with_reducible apply sdoAborts_kept
      | with_reducible apply countRefusal_kept | with_reducible apply onlyIf_kept

theorem sdoStep_kept (c : CanId) (r : Req) (mode : SdoMode) (finished : Bool) (code : Nat) (d : Dev) (hd
    : d.Kept base) : (sdoStep c r mode finished code d).Kept base := by
  unfold sdoStep
  repeat' first
      | with_reducible assumption | intro _ | with_reducible apply ite_kept | with_reducible apply sdoFailed_kept
      | with_reducible apply sdoWaits_kept | with_reducible apply submit_kept | with_reducible apply sdoSend_kept
      | with_reducible apply onDict_kept | with_reducible apply onlyIf_kept | dsimp only [id]
      | with_reducible apply DictS.Canonical.od | with_reducible apply DictS.Canonical.mem
      | with_reducible apply DictS.Canonical.values0 | with_reducible apply DictS.Canonical.tables0
      | with_reducible apply DictS.Canonical.values1 | with_reducible apply DictS.Canonical.tables1
      | with_reducible apply DictS.Canonical.intro

theorem execSdoDownload_kept (c : CanId) (idx : BitVec 16) (sub : BitVec 8) (data : List Byte) (finished : Bool)
    (fault : SdoFault) (s : State) (hs : s.dev.Kept base) : Keeps base
    (execSdoDownload c idx sub data finished fault s) := by
  unfold execSdoDownload
  first | with_reducible apply does_kept _ _ hs | with_reducible apply doesJudged_kept _ _ hs | skip
  repeat' first | with_reducible assumption | intro _ | with_reducible apply sdoStep_kept

theorem execSdoUpload_kept (c : CanId) (idx : BitVec 16) (sub : BitVec 8) (finished : Bool) (fault : SdoFault) (s
    : State) (hs : s.dev.Kept base) : Keeps base (execSdoUpload c idx sub finished fault s) := by
  unfold execSdoUpload
  first | with_reducible apply does_kept _ _ hs | with_reducible apply doesJudged_kept _ _ hs | skip
  repeat' first | with_reducible assumption | intro _ | with_reducible apply sdoStep_kept

theorem execSdoBlockDownload_kept (c : CanId) (idx : BitVec 16) (sub : BitVec 8) (data : SdoBlock) (finished : Bool)
    (fault : SdoFault) (s : State) (hs : s.dev.Kept base) : Keeps base (execSdoBlockDownload c idx sub data finished fault s) := by
  unfold execSdoBlockDownload
  first | with_reducible apply does_kept _ _ hs | with_reducible apply doesJudged_kept _ _ hs | skip
  repeat' first | with_reducible assumption | intro _ | with_reducible apply sdoStep_kept

theorem execSdoBlockUpload_kept (c : CanId) (idx : BitVec 16) (sub : BitVec 8) (pst : SdoBlockStart) (finished : Bool)
    (fault : SdoFault) (s : State) (hs : s.dev.Kept base) : Keeps base (execSdoBlockUpload c idx sub pst finished fault s) := by
  unfold execSdoBlockUpload
  first | with_reducible apply does_kept _ _ hs | with_reducible apply doesJudged_kept _ _ hs | skip
  repeat' first | with_reducible assumption | intro _ | with_reducible apply sdoStep_kept

theorem execSdoServerTimeout_kept (c : CanId) (s : State) (hs : s.dev.Kept base) : Keeps base
    (execSdoServerTimeout c s) := by
  unfold execSdoServerTimeout
  first | with_reducible apply does_kept _ _ hs | with_reducible apply doesJudged_kept _ _ hs | skip
  repeat' first
      | with_reducible assumption | intro _ | with_reducible apply sdoAborts_kept
      | with_reducible apply arrive_kept | split

theorem execDictionaryWrite_kept (t : WriteTarget) (s : State) (hs : s.dev.Kept base) : Keeps base
    (execDictionaryWrite t s) := by
  cases t with
  | entry src idx sub off data => exact askBytes_kept _ _ _ _ _ _ hs
  | hostReg path offset value =>
    apply does_kept _ _ hs
    exact fun d hd => onPath_kept _ _ _ (fun d hd => writeRegister_kept _ _ _ _ _ (fun _ _ h => doorbell_kept _ _ h) hd) hd

theorem execCounterClear_kept (src : Src) (idx : BitVec 16) (sub : BitVec 8) (data : List Byte) (s : State) (hs
    : s.dev.Kept base) : Keeps base (execCounterClear src idx sub data s) := by
  unfold execCounterClear
  first | with_reducible apply does_kept _ _ hs | with_reducible apply doesJudged_kept _ _ hs | with_reducible apply askBytes_kept | skip
  repeat' first | with_reducible assumption

theorem execCommit_kept (src : Src) (value : Word32) (s : State) (hs : s.dev.Kept base) : Keeps base
    (execCommit src value s) := by
  unfold execCommit
  first | with_reducible apply does_kept _ _ hs | with_reducible apply doesJudged_kept _ _ hs | skip
  repeat' first | with_reducible assumption | intro _ | with_reducible apply ask_kept

theorem execFence_kept (src : Src) (token : Word32) (s : State) (hs : s.dev.Kept base) : Keeps base
    (execFence src token s) := by
  unfold execFence
  first | with_reducible apply does_kept _ _ hs | with_reducible apply doesJudged_kept _ _ hs | with_reducible apply askNum_kept | skip
  repeat' first | with_reducible assumption

theorem execDiscardStaging_kept (src : Src) (s : State) (hs : s.dev.Kept base) : Keeps base
    (execDiscardStaging src s) := by
  unfold execDiscardStaging
  first | with_reducible apply does_kept _ _ hs | with_reducible apply doesJudged_kept _ _ hs | with_reducible apply askNum_kept | skip
  repeat' first | with_reducible assumption

theorem execSaveAll_kept (src : Src) (s : State) (hs : s.dev.Kept base) : Keeps base (execSaveAll src s) := by
  unfold execSaveAll
  first | with_reducible apply does_kept _ _ hs | with_reducible apply doesJudged_kept _ _ hs | with_reducible apply askNum_kept | skip
  repeat' first | with_reducible assumption

theorem execRestoreDefaults_kept (src : Src) (s : State) (hs : s.dev.Kept base) : Keeps base
    (execRestoreDefaults src s) := by
  unfold execRestoreDefaults
  first | with_reducible apply does_kept _ _ hs | with_reducible apply doesJudged_kept _ _ hs | with_reducible apply askNum_kept | skip
  repeat' first | with_reducible assumption

theorem execImageData_kept (src : Src) (off : BitVec 32) (data : List Byte) (s : State) (hs : s.dev.Kept base)
    : Keeps base (execImageData src off data s) := by
  unfold execImageData
  first | with_reducible apply does_kept _ _ hs | with_reducible apply doesJudged_kept _ _ hs | with_reducible apply askBytes_kept | skip
  repeat' first | with_reducible assumption

theorem execVerifyAndStage_kept (src : Src) (s : State) (hs : s.dev.Kept base) : Keeps base
    (execVerifyAndStage src s) := by
  unfold execVerifyAndStage
  first | with_reducible apply does_kept _ _ hs | with_reducible apply doesJudged_kept _ _ hs | with_reducible apply askNum_kept | skip
  repeat' first | with_reducible assumption

theorem execAbandonImage_kept (src : Src) (s : State) (hs : s.dev.Kept base) : Keeps base
    (execAbandonImage src s) := by
  unfold execAbandonImage
  first | with_reducible apply does_kept _ _ hs | with_reducible apply doesJudged_kept _ _ hs | with_reducible apply askNum_kept | skip
  repeat' first | with_reducible assumption

theorem execInhibitRequest_kept (src : Src) (value : BitVec 8) (s : State) (hs : s.dev.Kept base) : Keeps base
    (execInhibitRequest src value s) := by
  unfold execInhibitRequest
  first | with_reducible apply does_kept _ _ hs | with_reducible apply doesJudged_kept _ _ hs | with_reducible apply askNum_kept | skip
  repeat' first | with_reducible assumption

theorem execLeadingRequest_kept (src : Src) (value : BitVec 8) (s : State) (hs : s.dev.Kept base) : Keeps base
    (execLeadingRequest src value s) := by
  unfold execLeadingRequest
  first | with_reducible apply does_kept _ _ hs | with_reducible apply doesJudged_kept _ _ hs | with_reducible apply askNum_kept | skip
  repeat' first | with_reducible assumption

theorem execRotateSlice_kept (src : Src) (value : BitVec 8) (s : State) (hs : s.dev.Kept base) : Keeps base
    (execRotateSlice src value s) := by
  unfold execRotateSlice
  first | with_reducible apply does_kept _ _ hs | with_reducible apply doesJudged_kept _ _ hs | with_reducible apply askNum_kept | skip
  repeat' first | with_reducible assumption

theorem execPhyResetRequest_kept (src : Src) (p : Port) (s : State) (hs : s.dev.Kept base) : Keeps base
    (execPhyResetRequest src p s) := by
  unfold execPhyResetRequest
  first | with_reducible apply does_kept _ _ hs | with_reducible apply doesJudged_kept _ _ hs | with_reducible apply askNum_kept | skip
  repeat' first | with_reducible assumption

theorem execPhyRegisterRead_kept (src : Src) (p : Port) (answer : Option (BitVec 16)) (s : State) (hs
    : s.dev.Kept base) : Keeps base (execPhyRegisterRead src p answer s) := by
  unfold execPhyRegisterRead
  first | with_reducible apply does_kept _ _ hs | with_reducible apply doesJudged_kept _ _ hs | with_reducible apply askRead_kept | skip
  repeat' first | with_reducible assumption

theorem execPhyRegisterWrite_kept (src : Src) (p : Port) (value : BitVec 16) (s : State) (hs : s.dev.Kept base)
    : Keeps base (execPhyRegisterWrite src p value s) := by
  unfold execPhyRegisterWrite
  first | with_reducible apply does_kept _ _ hs | with_reducible apply doesJudged_kept _ _ hs | with_reducible apply askNum_kept | skip
  repeat' first | with_reducible assumption

theorem execStepRequest_kept (src : Src) (amount : BitVec 64) (s : State) (hs : s.dev.Kept base) : Keeps base
    (execStepRequest src amount s) := by
  unfold execStepRequest
  first | with_reducible apply does_kept _ _ hs | with_reducible apply doesJudged_kept _ _ hs | with_reducible apply askNum_kept | skip
  repeat' first | with_reducible assumption

theorem execCaptureRecordRead_kept (src : Src) (s : State) (hs : s.dev.Kept base) : Keeps base
    (execCaptureRecordRead src s) := by
  unfold execCaptureRecordRead
  first | with_reducible apply does_kept _ _ hs | with_reducible apply doesJudged_kept _ _ hs | with_reducible apply askRead_kept | skip
  repeat' first | with_reducible assumption

theorem execTransmitTimestampRead_kept (src : Src) (p : Port) (s : State) (hs : s.dev.Kept base) : Keeps base
    (execTransmitTimestampRead src p s) := by
  unfold execTransmitTimestampRead
  first | with_reducible apply does_kept _ _ hs | with_reducible apply doesJudged_kept _ _ hs | with_reducible apply askRead_kept | skip
  repeat' first | with_reducible assumption

theorem execObjectFrame_kept (src : Src) (c : CanId) (data : List Byte) (s : State) (hs : s.dev.Kept base)
    : Keeps base (execObjectFrame src c data s) := by
  unfold execObjectFrame
  first | with_reducible apply does_kept _ _ hs | with_reducible apply doesJudged_kept _ _ hs | with_reducible apply askBytes_kept | skip
  repeat' first | with_reducible assumption

theorem execObjectRequest_kept (src : Src) (c : CanId) (s : State) (hs : s.dev.Kept base) : Keeps base
    (execObjectRequest src c s) := by
  unfold execObjectRequest
  first | with_reducible apply does_kept _ _ hs | with_reducible apply doesJudged_kept _ _ hs | with_reducible apply askNum_kept | skip
  repeat' first | with_reducible assumption

theorem execObjectCancel_kept (src : Src) (c : CanId) (s : State) (hs : s.dev.Kept base) : Keeps base
    (execObjectCancel src c s) := by
  unfold execObjectCancel
  first | with_reducible apply does_kept _ _ hs | with_reducible apply doesJudged_kept _ _ hs | with_reducible apply askNum_kept | skip
  repeat' first | with_reducible assumption

theorem execObjectAcknowledge_kept (src : Src) (c : CanId) (s : State) (hs : s.dev.Kept base) : Keeps base
    (execObjectAcknowledge src c s) := by
  unfold execObjectAcknowledge
  first | with_reducible apply does_kept _ _ hs | with_reducible apply doesJudged_kept _ _ hs | with_reducible apply askNum_kept | skip
  repeat' first | with_reducible assumption

theorem execBusOffRecoveryRequest_kept (src : Src) (c : CanId) (s : State) (hs : s.dev.Kept base) : Keeps base
    (execBusOffRecoveryRequest src c s) := by
  unfold execBusOffRecoveryRequest
  first | with_reducible apply does_kept _ _ hs | with_reducible apply doesJudged_kept _ _ hs | with_reducible apply askNum_kept | skip
  repeat' first | with_reducible assumption

theorem execLogRecordRead_kept (src : Src) (s : State) (hs : s.dev.Kept base) : Keeps base
    (execLogRecordRead src s) := by
  unfold execLogRecordRead
  first | with_reducible apply does_kept _ _ hs | with_reducible apply doesJudged_kept _ _ hs | with_reducible apply askRead_kept | skip
  repeat' first | with_reducible assumption

theorem execMismatchFlagClear_kept (src : Src) (word : Fin 4) (value : BitVec 64) (s : State) (hs : s.dev.Kept base)
    : Keeps base (execMismatchFlagClear src word value s) := by
  unfold execMismatchFlagClear
  first | with_reducible apply does_kept _ _ hs | with_reducible apply doesJudged_kept _ _ hs | with_reducible apply askNum_kept | skip
  repeat' first | with_reducible assumption

theorem execHostEntry_kept (src : Src) (data : List Byte) (s : State) (hs : s.dev.Kept base) : Keeps base
    (execHostEntry src data s) := by
  unfold execHostEntry
  first | with_reducible apply does_kept _ _ hs | with_reducible apply doesJudged_kept _ _ hs | with_reducible apply askBytes_kept | skip
  repeat' first | with_reducible assumption

theorem execFreeze_kept (src : Src) (s : State) (hs : s.dev.Kept base) : Keeps base (execFreeze src s) := by
  unfold execFreeze
  first | with_reducible apply does_kept _ _ hs | with_reducible apply doesJudged_kept _ _ hs | with_reducible apply askNum_kept | skip
  repeat' first | with_reducible assumption

theorem execUnfreeze_kept (src : Src) (s : State) (hs : s.dev.Kept base) : Keeps base (execUnfreeze src s) := by
  unfold execUnfreeze
  first | with_reducible apply does_kept _ _ hs | with_reducible apply doesJudged_kept _ _ hs | with_reducible apply askNum_kept | skip
  repeat' first | with_reducible assumption

theorem execEntriesRead_kept (src : Src) (s : State) (hs : s.dev.Kept base) : Keeps base (execEntriesRead src s) := by
  unfold execEntriesRead
  first | with_reducible apply does_kept _ _ hs | with_reducible apply doesJudged_kept _ _ hs | with_reducible apply askRead_kept | skip
  repeat' first | with_reducible assumption

theorem execHostAwakeRequest_kept (src : Src) (value : BitVec 8) (s : State) (hs : s.dev.Kept base) : Keeps base
    (execHostAwakeRequest src value s) := by
  unfold execHostAwakeRequest
  first | with_reducible apply does_kept _ _ hs | with_reducible apply doesJudged_kept _ _ hs | with_reducible apply askNum_kept | skip
  repeat' first | with_reducible assumption

theorem execUnlock_kept (src : Src) (n : Fin 4) (value : BitVec 8) (s : State) (hs : s.dev.Kept base) : Keeps base
    (execUnlock src n value s) := by
  unfold execUnlock
  first | with_reducible apply does_kept _ _ hs | with_reducible apply doesJudged_kept _ _ hs | with_reducible apply askNum_kept | skip
  repeat' first | with_reducible assumption

theorem execCommand_kept (src : Src) (k : Fin 32) (value : BitVec 8) (s : State) (hs : s.dev.Kept base) : Keeps base
    (execCommand src k value s) := by
  unfold execCommand
  first | with_reducible apply does_kept _ _ hs | with_reducible apply doesJudged_kept _ _ hs | with_reducible apply askNum_kept | skip
  repeat' first | with_reducible assumption

theorem execFirmwareImageData_kept (src : Src) (off : BitVec 32) (data : List Byte) (s : State) (hs
    : s.dev.Kept base) : Keeps base (execFirmwareImageData src off data s) := by
  unfold execFirmwareImageData
  first | with_reducible apply does_kept _ _ hs | with_reducible apply doesJudged_kept _ _ hs | with_reducible apply askBytes_kept | skip
  repeat' first | with_reducible assumption

theorem execVerifyAndWrite_kept (src : Src) (s : State) (hs : s.dev.Kept base) : Keeps base
    (execVerifyAndWrite src s) := by
  unfold execVerifyAndWrite
  first | with_reducible apply does_kept _ _ hs | with_reducible apply doesJudged_kept _ _ hs | with_reducible apply askNum_kept | skip
  repeat' first | with_reducible assumption

theorem execFirmwareAbandon_kept (src : Src) (s : State) (hs : s.dev.Kept base) : Keeps base
    (execFirmwareAbandon src s) := by
  unfold execFirmwareAbandon
  first | with_reducible apply does_kept _ _ hs | with_reducible apply doesJudged_kept _ _ hs | with_reducible apply askNum_kept | skip
  repeat' first | with_reducible assumption

theorem execWarmReset_kept (src : Src) (s : State) (hs : s.dev.Kept base) : Keeps base (execWarmReset src s) := by
  unfold execWarmReset
  first | with_reducible apply does_kept _ _ hs | with_reducible apply doesJudged_kept _ _ hs | with_reducible apply askNum_kept | skip
  repeat' first | with_reducible assumption

theorem execGpioOutput_kept (src : Src) (value : BitVec 8) (s : State) (hs : s.dev.Kept base) : Keeps base
    (execGpioOutput src value s) := by
  unfold execGpioOutput
  first | with_reducible apply does_kept _ _ hs | with_reducible apply doesJudged_kept _ _ hs | with_reducible apply askNum_kept | skip
  repeat' first | with_reducible assumption

theorem execSnapshotNow_kept (src : Src) (s : State) (hs : s.dev.Kept base) : Keeps base (execSnapshotNow src s) := by
  unfold execSnapshotNow
  first | with_reducible apply does_kept _ _ hs | with_reducible apply doesJudged_kept _ _ hs | with_reducible apply askNum_kept | skip
  repeat' first | with_reducible assumption

theorem execTrackerReset_kept (src : Src) (s : State) (hs : s.dev.Kept base) : Keeps base
    (execTrackerReset src s) := by
  unfold execTrackerReset
  first | with_reducible apply does_kept _ _ hs | with_reducible apply doesJudged_kept _ _ hs | with_reducible apply askNum_kept | skip
  repeat' first | with_reducible assumption

theorem execSecure_kept (src : Src) (s : State) (hs : s.dev.Kept base) : Keeps base (execSecure src s) := by
  unfold execSecure
  first | with_reducible apply does_kept _ _ hs | with_reducible apply doesJudged_kept _ _ hs | with_reducible apply askNum_kept | skip
  repeat' first | with_reducible assumption

theorem execVoid_kept (src : Src) (s : State) (hs : s.dev.Kept base) : Keeps base (execVoid src s) := by
  unfold execVoid
  first | with_reducible apply does_kept _ _ hs | with_reducible apply doesJudged_kept _ _ hs | with_reducible apply askNum_kept | skip
  repeat' first | with_reducible assumption

theorem execReturnToken_kept (src : Src) (token : List Byte) (s : State) (hs : s.dev.Kept base) : Keeps base
    (execReturnToken src token s) := by
  unfold execReturnToken
  first | with_reducible apply does_kept _ _ hs | with_reducible apply doesJudged_kept _ _ hs | with_reducible apply askBytes_kept | skip
  repeat' first | with_reducible assumption

end Sys2Proof.Machine
end

