-- ==== Sys2Proof/Laws/Registers.lean ====
section
/-! SUPPORT. The registers of the dictionary: what a write or a count leaves in its own register, and that it leaves every
other register as it was. -/

-- one declaration after the other: the package is also compiled as one text, in limited memory
set_option Elab.async false

set_option linter.all false

namespace Sys2Proof.Machine

/-- A value other than the default is what its key reads as after it was put, in any list. -/
theorem Store.find_put_nondefault {α : Type} [DecidableEq α] (dflt : Nat → α) (m : List (Nat × α)) (k : Nat) (v : α) (h : v ≠ dflt k) :
    Store.find dflt (Store.put dflt m k v) k = v := by
  induction m with
  | nil => simp [Store.put, Store.find, h]
  | cons x m ih =>
    obtain ⟨k', v'⟩ := x
    unfold Store.put
    by_cases h1 : k < k'
    · simp [h1, h, Store.find]
    · by_cases h2 : k = k'
      · simp [h2, Store.find, h2 ▸ h]
      · have : k' ≠ k := fun e => h2 e.symm
        simp [h1, h2, Store.find, this, ih]

/-- A register other than the one written reads as before. -/
theorem cfg_setReg_ne (idx sub v i b : Nat) (d : Dev) (h : odKey i b ≠ odKey idx sub) : cfg (setReg idx sub v d) i b = cfg d i b := by
  simp [cfg, setReg, DictS.reg_setReg_other _ _ _ _ _ _ h]

theorem cfg_bumpBy_ne (idx sub k i b : Nat) (d : Dev) (h : odKey i b ≠ odKey idx sub) : cfg (bumpBy idx sub k d) i b = cfg d i b :=
  cfg_setReg_ne _ _ _ _ _ _ h

theorem cfg_bump_ne (idx sub i b : Nat) (d : Dev) (h : odKey i b ≠ odKey idx sub) : cfg (bump idx sub d) i b = cfg d i b :=
  cfg_setReg_ne _ _ _ _ _ _ h

/-- A register holds a value other than its default after the value was written. -/
theorem cfg_setReg_self (idx sub v : Nat) (d : Dev) (h : Value.num v ≠ odDefault (odKey idx sub)) : cfg (setReg idx sub v d) idx sub = v := by
  simp only [cfg, setReg, DictS.reg, DictS.setReg]
  rw [Store.find_put_nondefault _ _ _ _ h]; rfl

/-- A counter whose default is 0 holds one more. -/
theorem cfg_bump_self (idx sub : Nat) (d : Dev) (h : odDefault (odKey idx sub) = .num 0) :
    cfg (bump idx sub d) idx sub = min 0xFFFFFFFF (cfg d idx sub + 1) := by
  refine cfg_setReg_self _ _ _ _ ?_
  rw [h]; intro e
  injection e with e
  omega

theorem RegsFramed.refl (L : List (Nat × Nat)) (d : Dev) : RegsFramed L d d := fun _ => .inr rfl

theorem RegsFramed.trans {L : List (Nat × Nat)} {a b c : Dev} (h1 : RegsFramed L a b) (h2 : RegsFramed L b c) : RegsFramed L a c :=
  fun k => match h1 k, h2 k with
    | .inl h, _ => .inl h
    | _, .inl h => .inl h
    | .inr h1, .inr h2 => .inr (h2.trans h1)

theorem RegsFramed.mono {A L : List (Nat × Nat)} {a b : Dev} (h : RegsFramed A a b) (hL : ∀ r ∈ A, r ∈ L) : RegsFramed L a b :=
  fun k => (h k).imp_left fun ⟨r, hr, e⟩ => ⟨r, hL r hr, e⟩

/-- A register that is not named reads as before. -/
theorem RegsFramed.cfg {L : List (Nat × Nat)} {a b : Dev} (h : RegsFramed L a b) (idx sub : Nat)
    (hn : ∀ r ∈ L, odKey r.1 r.2 ≠ odKey idx sub) : cfg b idx sub = cfg a idx sub := by
  rcases h (odKey idx sub) with ⟨r, hr, e⟩ | e
  · exact absurd e (hn r hr)
  · simp [Machine.cfg, DictS.reg, e]

theorem RegsFramed.of_same {L : List (Nat × Nat)} {a b : Dev} (h : b.dict.od = a.dict.od) : RegsFramed L a b := fun _ => .inr (by rw [h])

theorem RegsFramed.setReg {L : List (Nat × Nat)} {base d : Dev} (idx sub v : Nat) (hL : (idx, sub) ∈ L) (h : RegsFramed L base d) :
    RegsFramed L base (setReg idx sub v d) := h.trans fun k => by
  by_cases hk : odKey idx sub = k
  · exact .inl ⟨_, hL, hk⟩
  · exact .inr (Store.find_put_other _ _ _ _ (Ne.symm hk))

theorem RegsFramed.bump {L : List (Nat × Nat)} {base d : Dev} (idx sub : Nat) (hL : (idx, sub) ∈ L) (h : RegsFramed L base d) :
    RegsFramed L base (bump idx sub d) := h.setReg _ _ _ hL

end Sys2Proof.Machine
end

