-- ==== Sys2Proof/Laws/Requests.lean ====
section
/-! SUPPORT. How a request comes to the dictionary agent and how its answer leaves: a request that is served at once is
served on the device as its path left it, which differs only in what belongs to the path, and its answer changes nothing
else. -/

-- one declaration after the other: the package is also compiled as one text, in limited memory
set_option Elab.async false

set_option linter.all false

namespace Sys2Proof.Machine

/-! ### Frames that the node sends count at their port alone -/

theorem frameCounters_all (p : Port) : ∀ r ∈ frameCounters p, r ∈ allPorts.flatMap frameCounters := fun r hr =>
  List.mem_flatMap.mpr ⟨p, by simp [allPorts], hr⟩

theorem setReg_counts {L : List (Nat × Nat)} {a b : Dev} (idx sub v : Nat) (hL : (idx, sub) ∈ L) (h : b.dict.od = a.dict.od) :
    RegsFramed L a (setReg idx sub v b) := (RegsFramed.of_same h).setReg _ _ _ hL

theorem countEv_od (code inst qual k : Nat) (d : Dev) : (countEv code inst qual k d).dict.od = d.dict.od := rfl

theorem pushFrame_od (p : Port) (q : Fin 8) (f : QFrame) (d : Dev) : (pushFrame p q f d).dict.od = d.dict.od := rfl

theorem allocCells_od (uid n : Nat) (d : Dev) : (allocCells uid n d).dict.od = d.dict.od :=
  (allocCells_framed (L := [.queues, .counters]) uid n d (fun _ h => h) (.refl _ d)).same .regs (by decide)

theorem countDiscard_regs (p : Port) (q : Fin 8) (d : Dev) : RegsFramed (frameCounters p) d (countDiscard p q.val d) :=
  setReg_counts _ _ _ (by fin_cases q <;> simp [frameCounters, List.range_succ]) rfl

theorem onlyIf_regs {L : List (Nat × Nat)} {a d : Dev} (c : Bool) (f : Dev → Dev) (h : RegsFramed L a d)
    (hf : RegsFramed L a (f d)) : RegsFramed L a (onlyIf c f d) := by
  unfold onlyIf
  split
  exacts [hf, h]

theorem countUnsent_regs (p : Port) (q : Fin 8) (d : Dev) : RegsFramed (frameCounters p) d (countUnsent p q d) := by
  have h0 : RegsFramed (frameCounters p) d (bump (0x2300 + p.val) 0x32 d) :=
    (RegsFramed.refl _ _).bump _ _ (by simp [frameCounters])
  have h1 := onlyIf_regs (isBackbone p && q = 6) (bump 0x2505 0x0D) h0 (h0.bump _ _ (by simp [frameCounters]))
  exact onlyIf_regs _ _ h1 (h1.bump _ _ (by simp [frameCounters]))

/-- The admission of a frame at a port writes only the frame counters of that port. -/
theorem admitPort_regs (f : QFrame) (need : Nat) (rate : Option Nat) (p : Port) (q : Fin 8) (d : Dev) :
    RegsFramed (frameCounters p) d (admitPort f need rate p q d) := by
  unfold admitPort
  dsimp only
  split
  · exact countUnsent_regs p q d
  · split
    · split
      · exact (setReg_counts _ _ _ (by simp [frameCounters, List.range_succ]) rfl).bump _ _
          (by simp [frameCounters, List.range_succ])
      · exact countDiscard_regs p q d
    · split
      · refine setReg_counts _ _ _ ?_ ((pushFrame_od _ _ _ _).trans (allocCells_od _ _ _))
        split <;> simp [frameCounters, List.range_succ]
      · exact countDiscard_regs p q d

theorem sendOwn_regs (p : Port) (q : Fin 8) (bs : List Byte) (d : Dev) :
    RegsFramed (frameCounters p) d (sendOwn p q bs d) := by
  unfold sendOwn
  generalize classifyOwn bs = c
  obtain ⟨vlan, pcp⟩ := c
  dsimp only
  generalize hb : onFab _ d = b
  exact RegsFramed.trans (.of_same (hb ▸ rfl)) (admitPort_regs _ _ _ _ _ _)

theorem countGood_regs (p : Port) (len : Nat) (d : Dev) : RegsFramed (frameCounters p) d (countGood p len d) :=
  (setReg_counts _ _ _ (by simp [frameCounters]) rfl : RegsFramed (frameCounters p) d (bump64 (0x2300 + p.val) 0x23 1 d)).setReg
    _ _ _ (by simp [frameCounters])

theorem sendKda_regs (peer : KdaPeer) (key : Option (List Byte)) (session seq : BitVec 32) (opcode : Nat) (payload : List Byte)
    (d : Dev) : RegsFramed (frameCounters peer.port) d (sendKda peer key session seq opcode payload d) := by
  have he : ∀ o, RegsFramed (frameCounters peer.port) d (emit o d) := fun o => .of_same rfl
  cases key
  all_goals
    unfold sendKda
    dsimp only
    split
    exacts [(he _).trans (sendOwn_regs _ _ _ _), he _]

/-! ### What belongs to the path of a request -/

theorem PathOnly.refl (src : Src) (d : Dev) : PathOnly src d d := by
  cases src <;> first | exact Framed.refl _ d | exact ⟨Framed.refl _ d, RegsFramed.refl _ d⟩

theorem PathOnly.trans {src : Src} {a b c : Dev} (h1 : PathOnly src a b) (h2 : PathOnly src b c) : PathOnly src a c := by
  cases src <;> first | exact Framed.trans h1 h2 | exact ⟨h1.1.trans h2.1, h1.2.trans h2.2⟩

/-- What some path changes. -/
def pathParts : List Part := [.out, .access, .queues, .regs, .counters, .mail, .ints]

theorem PathOnly.framed {src : Src} {a b : Dev} (h : PathOnly src a b) : Framed pathParts a b := by
  cases src <;> first
    | exact Framed.mono h (by decide)
    | exact Framed.mono h.1 (by decide)

/-- A part that no path changes is the same. -/
theorem PathOnly.same {src : Src} {a b : Dev} (h : PathOnly src a b) (p : Part) (hp : p ∉ pathParts) : p.same a b :=
  h.framed.same p hp

theorem PathOnly.regs {src : Src} {a b : Dev} (h : PathOnly src a b) : RegsFramed (allPorts.flatMap frameCounters) a b := by
  cases src <;> first
    | exact h.2
    | exact RegsFramed.of_same (Framed.same h .regs (by decide))

/-- A register that is no frame counter reads as before. -/
theorem PathOnly.cfg {src : Src} {a b : Dev} (h : PathOnly src a b) (idx sub : Nat)
    (hn : ∀ r ∈ allPorts.flatMap frameCounters, odKey r.1 r.2 ≠ odKey idx sub) : cfg b idx sub = cfg a idx sub :=
  h.regs.cfg idx sub hn

/-! ### The answer leaves -/

/-- An answer changes what belongs to its path and nothing else. -/
theorem answer_pathOnly (src : Src) (rs : Resp) (d : Dev) : PathOnly src d (answer src rs d) := by
  cases src with
  | sdo c =>
    have hi : Framed [.out, .access, .mail, .ints] d (sdoIdle c d) := sdoIdle_framed c d (by decide) (.refl _ d)
    show Framed [.out, .access, .mail, .ints] d _
    unfold answer
    dsimp only
    split
    · exact emit_framed _ _ (by decide) (sdoSend_framed _ _ _ (by decide) hi)
    · exact sdoAbort_framed _ _ _ _ _ (by decide) hi
  | kda id seq =>
    unfold answer
    dsimp only
    split
    · next s hs =>
      have ho : RegsFramed (frameCounters s.peer.port) d
          (onSession s.id (fun x => { x with stored := some (if rs.write then 0x13 else 0x11, respBlock rs) }) d) := .of_same rfl
      exact ⟨sendStored_framed _ _ _ _ (by decide) (.refl _ d),
        (ho.trans (sendKda_regs s.peer _ _ _ _ _ _)).mono (frameCounters_all s.peer.port)⟩
    · exact PathOnly.refl (.kda id seq) d
  | pcie => exact (answerMailbox_framed (L := [.out, .access, .mail, .ints]) .pcie .pcie rs d (by decide) (.refl _ d) :)
  | serial => exact (answerMailbox_framed (L := [.out, .access, .mail, .ints]) .serial .serial rs d (by decide) (.refl _ d) :)

/-- The path of a request waits for its answer. -/
def Ready (d : Dev) (src : Src) : Prop :=
  match src with
  | .sdo _ => True
  | .kda id seq => ∃ x, sessionOf d id = some x ∧ x.id = id ∧ x.lastSeq = seq
  | .pcie => d.host.mbPcie.busy = true ∧ d.host.mbPcie.discard = false
  | .serial => d.host.mbSerial.busy = true ∧ d.host.mbSerial.discard = false

/-- What a frame sent on a port leaves in the list of what was sent. -/
theorem sendOwn_out (p : Port) (q : Fin 8) (bs : List Byte) (d : Dev) : (sendOwn p q bs d).out = d.out :=
  (sendOwn_framed (L := [.regs, .queues, .counters]) p q bs d (fun _ h => h) (.refl _ d)).same .out (by decide)

theorem sendKda_mem (peer : KdaPeer) (key : Option (List Byte)) (session seq : BitVec 32) (opcode : Nat) (payload : List Byte)
    (d : Dev) : ∃ tag, Out.kda peer session seq opcode payload tag ∈ (sendKda peer key session seq opcode payload d).out := by
  have he : ∀ o, o ∈ (emit o d).out := fun o => List.mem_append_right _ (.head _)
  cases key
  all_goals
    unfold sendKda
    dsimp only
    split
  all_goals first | (rw [sendOwn_out]; exact ⟨_, he _⟩) | exact ⟨_, he _⟩

/-- A path that waits for the answer gets it. -/
theorem answer_ready {src : Src} {d : Dev} (rs : Resp) (h : Ready d src) : Answered (answer src rs d) src rs := by
  cases src with
  | sdo c => simp only [Answered, answer]; split <;> simp [emit, sdoAbort]
  | kda id seq =>
    obtain ⟨x, hx, rfl, rfl⟩ := h
    simp only [Answered, answer, hx, sendStored]
    exact ⟨x.peer, sendKda_mem _ _ _ _ _ _ _⟩
  | pcie =>
    obtain ⟨h1, h2⟩ := h
    simp [Answered, answer, answerMailbox, mailboxOf, h1, h2, emit]
  | serial =>
    obtain ⟨h1, h2⟩ := h
    simp [Answered, answer, answerMailbox, mailboxOf, h1, h2, emit]

/-- Readiness is a matter of the sessions and the mailboxes alone. -/
theorem Ready.framed {A : List Part} {a b : Dev} {src : Src} (h : Ready a src) (hf : Framed A a b) (h1 : Part.access ∉ A)
    (h2 : Part.mail ∉ A) : Ready b src := by
  have ha := hf.same .access h1
  have hm := hf.same .mail h2
  simp only [Part.same, Prod.mk.injEq] at ha hm
  cases src with
  | sdo c => trivial
  | kda id seq => simpa only [Ready, sessionOf, ha.1] using h
  | pcie => simpa only [Ready, hm.1] using h
  | serial => simpa only [Ready, hm.2] using h

/-! ### A request arrives -/

theorem sessionOf_id {d : Dev} {id : BitVec 32} {x : KdaSession} (h : sessionOf d id = some x) : x.id = id := by
  simpa [sessionOf] using List.find?_some h

theorem find_mapped (l : List KdaSession) (id : BitVec 32) (x : KdaSession) (f : KdaSession → KdaSession)
    (hf : ∀ y, (f y).id = y.id) (h : l.find? (fun s => s.id = id) = some x) :
    (l.map (fun s => if s.id = id then f s else s)).find? (fun s => s.id = id) = some (f x) := by
  induction l with
  | nil => simp at h
  | cons y l ih =>
    by_cases hy : y.id = id
    · have : y = x := by simpa [hy] using h
      subst this; simp [hy, hf]
    · rw [List.map_cons, if_neg hy, List.find?_cons_of_neg (by simpa using hy)]
      exact ih (by simpa [hy] using h)

/-- A change of a session that keeps its identifier is what the session's identifier names afterwards. -/
theorem sessionOf_onSession {d : Dev} {id : BitVec 32} {x : KdaSession} (f : KdaSession → KdaSession) (hf : ∀ y, (f y).id = y.id)
    (h : sessionOf d id = some x) : sessionOf (onSession id f d) id = some (f x) := find_mapped _ _ _ f hf h

/-- What the path of a request does to it: the agent judges the request on the device that the path leaves, in which the
path waits for the answer and the request has the role that it had. -/
def Carried (r : Req) (d : Dev) : Prop :=
  (∀ f, carry r f d = f (carry r id d)) ∧ PathOnly r.src d (carry r id d) ∧ Ready (carry r id d) r.src ∧
    roleOf (carry r id d) r.src = roleOf d r.src

theorem mailbox_carried {r : Req} {d : Dev} (path : HostPath) (hs : r.src = pathSrc path) (hp : pathAlive d path = true)
    (hb : (mailboxOf d.host path).busy = false) (hdis : (mailboxOf d.host path).discard = false)
    (ha : d.pow.agentReady = true) : Carried r d := by
  obtain ⟨src, idx, sub, off, op, phy⟩ := r
  cases path <;> simp only [pathSrc] at hs <;> subst hs <;> simp only [mailboxOf] at hb hdis
  all_goals
    simp only [Carried, carry, onPath, hp, if_true, fillWindow, mailboxOf, hb, ringBell, Bool.false_eq_true, if_false, onMailbox,
      onHost, ha, Bool.not_true]
    refine ⟨fun f => rfl, ?_, ⟨rfl, hdis⟩, rfl⟩
    intro p; cases p <;> first | exact Or.inl (by decide) | exact Or.inr rfl

/-- The frame counters of a port are not the registers that the KDA server reads. -/
theorem frameCounters_ne (p : Port) (idx sub : Nat) (h : ¬ (0x2210 ≤ idx ∧ idx < 0x2314 ∨ idx = 0x2505 ∨ idx = 0x2602))
    (hs : sub < 256) : ∀ r ∈ frameCounters p, odKey r.1 r.2 ≠ odKey idx sub := by
  intro r hr e
  have hp := p.isLt
  have h2 : r.2 < 256 ∧ (0x2210 ≤ r.1 ∧ r.1 < 0x2314 ∨ r.1 = 0x2505 ∨ r.1 = 0x2602) := by
    simp only [frameCounters, List.mem_append, List.mem_cons, List.mem_map, List.mem_range, List.not_mem_nil, or_false] at hr
    rcases hr with (rfl | rfl | rfl | rfl | rfl) | ⟨k, hk, rfl⟩ <;> simp <;> omega
  obtain ⟨e1, e2⟩ := (odKey_inj _ _ _ _ h2.1 hs).mp e
  exact h (e1 ▸ h2.2)

/-- The next frame of an open session reaches the agent: it is counted at its port and in the second, binds the session, and
becomes its last in sequence. -/
theorem kdaRequest_next {d : Dev} {h : KdaHeader} {n : Nat} {x : KdaSession} (hin : InSession d h n x)
    (hst : x.stored.isSome = true) (hseq : h.seq = x.lastSeq + 1) :
    ∃ e, (∀ f, kdaRequest h n f d = f e) ∧ PathOnly (.kda h.session h.seq) d e ∧
      sessionOf e h.session =
        some { x with peer := h.peer, deadline := idleEnd (countGood h.peer.port (frameLen (28 + 32 + n)) d), lastSeq := h.seq, stored := none } := by
  obtain ⟨⟨ha, ⟨hup, hpo, hbit, hown, hrate⟩, hudp, hip, hfr, hmagic, hlen, hn, hres, hver⟩, hx, hopen, htag⟩ := hin
  have hne : ¬ h.seq = x.lastSeq := by
    intro e; have := congrArg BitVec.toNat (hseq.symm.trans e); simp at this; omega
  let p := h.peer.port
  let d0 := countGood p (frameLen (28 + 32 + n)) d
  have hregs : ∀ i b, ¬ (0x2210 ≤ i ∧ i < 0x2314 ∨ i = 0x2505 ∨ i = 0x2602) → b < 256 → cfg d0 i b = cfg d i b := fun i b h1 h2 =>
    (countGood_regs p _ d).cfg i b (frameCounters_ne p i b h1 h2)
  have hfrm : Framed [.regs, .counters] d d0 := countGood_framed p _ d (fun _ h => h) (.refl _ d)
  have hpow : d0.pow = d.pow := hfrm.same .pow (by decide)
  have haddr : kdaAddressed h d0 = true := by
    have h3 : cfg d0 0x2010 0x0C = cfg d 0x2010 0x0C := hregs _ _ (by decide) (by decide)
    have h4 : cfg d0 0x2800 2 = cfg d 0x2800 2 := hregs _ _ (by decide) (by decide)
    have h5 : kdaAddresses d0 h.peer.port = kdaAddresses d h.peer.port := by
      unfold kdaAddresses
      rw [h4]
      rfl
    unfold kdaAddressed
    dsimp only
    rw [h3, h5, hbit, hip, hfr, hudp, show portUp d0 h.peer.port = true from hup, show protocolOnly d0 h.peer.port = false from hpo]
    simpa using hown
  let counts := if d.now / sNs = d.dict.kdaSecond then d.dict.kdaCount else Vector.replicate 20 0
  have hcount : ¬ 2000 ≤ counts[p] := by
    simp only [counts]
    split
    · have := hrate (Eq.symm ‹_›); exact Nat.not_le.mpr this
    · simp
  let d1 := onDict (fun q => { q with kdaSecond := d.now / sNs, kdaCount := vmod counts p (· + 1) }) d0
  have hx1 : sessionOf d1 h.session = some x := hx
  let d2 := onSession h.session (fun s => { s with peer := h.peer, deadline := idleEnd d1 }) d1
  let d3 := onSession h.session (fun s => { s with lastSeq := h.seq, stored := none }) d2
  have hx2 : sessionOf d2 h.session = some { x with peer := h.peer, deadline := idleEnd d1 } :=
    sessionOf_onSession (fun s => { s with peer := h.peer, deadline := idleEnd d1 }) (fun _ => rfl) hx1
  refine ⟨d3, fun f => ?_, ⟨?_, ?_⟩, sessionOf_onSession (fun s => { s with lastSeq := h.seq, stored := none }) (fun _ => rfl) hx2⟩
  · have hheard : ∀ act, kdaHeard h n act d = act d1 := by
      intro act
      unfold kdaHeard
      dsimp only
      rw [if_pos hup]
      have hready : (!d0.pow.agentReady || !kdaAddressed h d0) = false := by rw [hpow, ha, haddr]; rfl
      have hform : ¬ (h.magic ≠ 0x4B44 || h.length.toNat ≠ n || 1440 < n || h.reserved ≠ 0) = true := by
        simp [hmagic, hlen, hres, hn]
      have hver' : ¬ h.version ≠ 1 := by simp [hver]
      rw [if_neg (by rw [show (countGood h.peer.port (frameLen (28 + 32 + n)) d) = d0 from rfl, hready]; decide)]
      exact (if_neg hcount).trans ((if_neg hform).trans (if_neg hver'))
    unfold kdaRequest kdaSession
    rw [hheard, hx1]
    have hgo : (decide (h.seq = x.lastSeq + 1) && x.stored.isSome) = true := by simp [hseq, hst]
    simp only [hopen, htag, Bool.and_self, if_true, inSequence, hne, if_false, hgo]
    rfl
  · have h1 : Framed [.out, .access, .queues, .regs, .counters] d d0 := hfrm.mono (by decide)
    refine onSession_framed _ _ _ (by decide) (onSession_framed _ _ _ (by decide) (h1.trans ?_))
    intro p; cases p <;> first | exact Or.inl (by decide) | exact Or.inr rfl
  · exact RegsFramed.mono (RegsFramed.trans (countGood_regs p _ d) (RegsFramed.of_same rfl)) (frameCounters_all p)

theorem kda_length {src : Src} {id seq : BitVec 32} {idx sub off : Nat} {op : ReqOp} {phy : Option (BitVec 16)} (hs : src = .kda id seq)
    (ho : overlong ⟨src, idx, sub, off, op, phy⟩ = false) {n : Nat}
    (h1 : ∀ k, op = .read k → n = 12) (h2 : ∀ data, op = .write data → n = 12 + data.length) : n ≤ 1440 := by
  subst hs
  cases op with
  | read k => have := h1 k rfl; omega
  | write data =>
    have : ¬ mostBytes (.kda id seq) < data.length := of_decide_eq_false ho
    simp only [mostBytes] at this
    have := h2 data rfl
    omega

/-- The next frame of an open session, from its peer, reaches the agent. -/
theorem kda_carried {r : Req} {d : Dev} {ses seq : BitVec 32} {x : KdaSession} (hs : r.src = .kda ses seq)
    (ho : overlong r = false) (hx : sessionOf d ses = some x) (hopen : x.open_ = true) (hst : x.stored.isSome = true)
    (hseq : seq = x.lastSeq + 1) (ha : d.pow.agentReady = true) (hr : KdaReaches d x.peer) : Carried r d := by
  obtain ⟨src, idx, sub, off, op, phy⟩ := r
  simp only at hs
  subst hs
  have main : ∀ n : Nat, (∀ k, op = .read k → n = 12) → (∀ data, op = .write data → n = 12 + data.length) →
      (∀ f, carry ⟨.kda ses seq, idx, sub, off, op, phy⟩ f d =
        kdaRequest ⟨x.peer, 17394, true, false, 0x4B44, 1, ses, seq, BitVec.ofNat 16 n, 0, true⟩ n f d) →
      Carried ⟨.kda ses seq, idx, sub, off, op, phy⟩ d := by
    intro n hr1 hw1 hcar
    have hn1 := kda_length rfl ho hr1 hw1
    have hn2 : (BitVec.ofNat 16 n).toNat = n := by simp; omega
    let h : KdaHeader := ⟨x.peer, 17394, true, false, 0x4B44, 1, ses, seq, BitVec.ofNat 16 n, 0, true⟩
    have hin : InSession d h n x := ⟨⟨ha, hr, rfl, rfl, rfl, rfl, hn2, hn1, rfl, rfl⟩, hx, hopen, rfl⟩
    obtain ⟨e, h1, h2, h3⟩ := kdaRequest_next hin hst hseq
    have key : ∀ f, carry ⟨.kda ses seq, idx, sub, off, op, phy⟩ f d = f e := fun f => (hcar f).trans (h1 f)
    have hid := sessionOf_id hx
    refine ⟨fun f => by rw [key f, key id]; rfl, ?_, ?_, ?_⟩ <;> rw [key id]
    · exact h2
    · exact ⟨_, h3, hid, rfl⟩
    · show ((sessionOf e ses).map (·.role)).getD 0 = ((sessionOf d ses).map (·.role)).getD 0
      rw [show sessionOf e ses = some _ from h3, hx]
      rfl
  cases op with
  | read k => exact main 12 (fun _ _ => rfl) (fun _ h => by cases h) (fun f => by simp only [carry, hx])
  | write data => exact main (12 + data.length) (fun _ h => by cases h) (fun _ h => by cases h; rfl) (fun f => by simp only [carry, hx])

/-- A request of a path that serves at once reaches the agent. -/
theorem served_carried {r : Req} {d : Dev} (h : Served d r.src) (ho : overlong r = false) : Carried r d := by
  obtain ⟨ha, hb, hc, hq, hf, hsrc⟩ := h
  cases hs : r.src with
  | sdo c =>
    rw [hs] at hsrc
    simp only at hsrc
    have key : ∀ f, carry r f d = f d := fun f => by simp [carry, hs, hsrc]
    refine ⟨fun f => by rw [key f, key id]; rfl, ?_, ?_, ?_⟩ <;> rw [key id, hs]
    · exact PathOnly.refl _ d
    · trivial
    · rfl
  | pcie => rw [hs] at hsrc; exact mailbox_carried .pcie hs hsrc.1 hsrc.2.1 hsrc.2.2 ha
  | serial => rw [hs] at hsrc; exact mailbox_carried .serial hs hsrc.1 hsrc.2.1 hsrc.2.2 ha
  | kda id seq =>
    rw [hs] at hsrc
    obtain ⟨x, hx, hopen, hst, hseq, hr⟩ := hsrc
    exact kda_carried hs ho hx hopen hst hseq ha hr

theorem submit_served {r : Req} {d : Dev} (ha : d.pow.agentReady = true) (hb : d.pow.booted = true)
    (hc : d.dict.commit = none) (hq : d.dict.queue = []) (hf : d.dict.fence = none) : submit r d = serveNow r d := by
  simp [submit, mustWait, ha, hb, hc, hq, hf]

theorem serveNow_ready {r : Req} {d : Dev} (h : Ready d r.src) :
    serveNow r d = match r.op with
      | .read n => serveRead r n d
      | .write data => serveWrite r data d := by
  obtain ⟨src, idx, sub, off, op, phy⟩ := r
  cases src with
  | kda id seq => obtain ⟨x, hx, _⟩ := h; cases op <;> simp [serveNow, hx]
  | _ => cases op <;> simp [serveNow]

/-- A request of a path that serves at once is judged on the device that its path leaves. -/
theorem ask_served {r : Req} {d : Dev} (h : Served d r.src) (ho : overlong r = false) :
    ask r d = match r.op with
      | .read n => serveRead r n (carry r id d)
      | .write data => serveWrite r data (carry r id d) := by
  obtain ⟨h1, h2, h3, _⟩ := served_carried h ho
  obtain ⟨ha, hb, hc, hq, hf, _⟩ := h
  have hp := h2.same .pow (by decide)
  have hk := h2.same .commit (by decide)
  simp only [Part.same, Prod.mk.injEq] at hp hk
  rw [← serveNow_ready h3]
  unfold ask
  simp only [ho, Bool.false_eq_true, if_false]
  rw [h1 (submit r)]
  exact submit_served (hp ▸ ha) (hp ▸ hb) (hk.2.1 ▸ hc) (hk.2.2.2.2.1 ▸ hq) (hk.2.2.1 ▸ hf)

/-- The same for a write. -/
theorem ask_write {src : Src} {idx sub off : Nat} {data : List Byte} {d : Dev} (h : Served d src)
    (ho : overlong (writeOf src idx sub off data) = false) :
    ask (writeOf src idx sub off data) d =
      serveWrite (writeOf src idx sub off data) data (carry (writeOf src idx sub off data) id d) :=
  ask_served (r := writeOf src idx sub off data) h ho

/-! ### The checks do not look at what belongs to the path -/

/-- A register outside the indices of the frame counters is none of them. -/
theorem frameCounters_other (idx sub : Nat) (h : ¬ (0x2210 ≤ idx ∧ idx < 0x2314 ∨ idx = 0x2505 ∨ idx = 0x2602)) (hs : sub < 256) :
    ∀ r ∈ allPorts.flatMap frameCounters, odKey r.1 r.2 ≠ odKey idx sub := fun r hr =>
  let ⟨p, _, hp⟩ := List.mem_flatMap.mp hr
  frameCounters_ne p idx sub h hs r hp

set_option maxRecDepth 20000 in
/-- Every frame counter is an entry of a fixed size. -/
theorem frameCounters_rows :
    ((allPorts.flatMap frameCounters).all fun r => (rowOf r.1 r.2).any (fun x => x.ty.fixed.isSome)) = true := by decide

set_option maxRecDepth 20000 in
theorem frameCounters_sub : ((allPorts.flatMap frameCounters).all fun r => decide (r.2 < 256)) = true := by decide

/-- An entry of no fixed size is no frame counter. -/
theorem frameCounters_free {row : EntryRow} {idx sub : Nat} (hs : sub < 256) (hr : rowOf idx sub = some row)
    (hf : row.ty.fixed = none) : ∀ r ∈ allPorts.flatMap frameCounters, odKey r.1 r.2 ≠ odKey idx sub := by
  intro r hm e
  have h1 := List.all_eq_true.mp frameCounters_rows r hm
  have h2 := of_decide_eq_true (List.all_eq_true.mp frameCounters_sub r hm)
  obtain ⟨e1, e2⟩ := (odKey_inj _ _ _ _ h2 hs).mp e
  rw [e1, e2, hr] at h1
  simp [hf] at h1

/-- A register that no path changes. -/
theorem PathOnly.reg {src : Src} {a b : Dev} (h : PathOnly src a b) (idx sub : Nat)
    (hn : ∀ r ∈ allPorts.flatMap frameCounters, odKey r.1 r.2 ≠ odKey idx sub) : b.dict.reg idx sub = a.dict.reg idx sub :=
  (h.regs (odKey idx sub)).resolve_left fun ⟨r, hr, e⟩ => hn r hr e

theorem PathOnly.dict {src : Src} {a b : Dev} (h : PathOnly src a b) :
    b.dict.staged = a.dict.staged ∧ b.dict.owner = a.dict.owner ∧ b.dict.heldCommit = a.dict.heldCommit ∧
      b.dict.image = a.dict.image ∧ b.dict.mem = a.dict.mem := by
  have h1 := h.same .staging (by decide)
  have h2 := h.same .tables (by decide)
  simp only [Part.same, Prod.mk.injEq] at h1 h2
  exact ⟨h1.1, h1.2.1, h1.2.2.2.2.1, h1.2.2.2.2.2.1, h2⟩

theorem presentBytes_path {src : Src} {d a : Dev} (h : PathOnly src d a) {idx sub : Nat}
    (hn : ∀ r ∈ allPorts.flatMap frameCounters, odKey r.1 r.2 ≠ odKey idx sub) : presentBytes a idx sub = presentBytes d idx sub := by
  obtain ⟨h1, _, _, h2, h3⟩ := h.dict
  have h4 : a.pow = d.pow := h.same .pow (by decide)
  have h5 := h.reg idx sub hn
  unfold presentBytes stagedAt hostSegment tableBytes
  rw [h1, h2, h3, h4, h5]

/-- Rows 1 to 4 of R35 find the same on the device as the path leaves it. -/
theorem checkWrite_path {src : Src} {d a : Dev} (h : PathOnly src d a) (role idx sub off : Nat) (hs : sub < 256) (data : List Byte) :
    checkWrite a role idx sub off data = checkWrite d role idx sub off data := by
  unfold checkWrite findRow
  cases hr : rowOf idx sub with
  | none => rfl
  | some row =>
    have hl : writeLength a row idx sub off data = writeLength d row idx sub off data := by
      unfold writeLength
      cases ht : row.ty <;> first | rfl | skip
      rw [presentBytes_path h (frameCounters_free hs hr (by rw [ht]; rfl))]
    have hv : ∀ v, valueError a row idx sub v = valueError d row idx sub v := by
      intro v
      have h1 : cfg a 0x2F01 4 = cfg d 0x2F01 4 := h.cfg _ _ (frameCounters_other _ _ (by decide) (by decide))
      have h2 : a.recd = d.recd := h.same .recd (by decide)
      unfold valueError specialError logMemory
      rw [h1, h2]
    simp only [hl, hv]

/-! ### How a write is answered -/

/-- A refusal counts, names the entry and the code, and is answered. -/
theorem refuseWrite_ready {src : Src} {a : Dev} (hr : Ready a src) (idx sub code : Nat) :
    PathOnly src (countRefusal false idx sub code a) (refuseWrite src idx sub code a) ∧
      WriteAnswered (refuseWrite src idx sub code a) src idx sub code :=
  ⟨answer_pathOnly _ _ _,
    answer_ready _ (hr.framed (A := [.regs]) (countRefusal_framed _ _ _ _ _ (by decide) (.refl _ _)) (by decide) (by decide))⟩

/-- The answer 0 after a change that leaves sessions and mailboxes as they were. -/
theorem answerWrite_ready {src : Src} {a b : Dev} (hr : Ready a src) {A : List Part} (hA : Framed A a b) (h1 : Part.access ∉ A)
    (h2 : Part.mail ∉ A) (idx sub code : Nat) :
    PathOnly src b (answerWrite src idx sub code b) ∧ WriteAnswered (answerWrite src idx sub code b) src idx sub code :=
  ⟨answer_pathOnly _ _ _, answer_ready _ (hr.framed hA h1 h2)⟩

/-- The value that a numeric write of the right width makes. -/
theorem checkWrite_of {d : Dev} {role idx sub off : Nat} {data : List Byte} {row : EntryRow} {v : Value}
    (hr : rowOf idx sub = some row) (hw : row.writes role = true) (hl : writeLength d row idx sub off data = .ok v)
    (ht : isTable idx = false) (hv : valueError d row idx sub v = none) : checkWrite d role idx sub off data = .ok (row, v) := by
  simp [checkWrite, findRow, hr, EntryRow.writeError, hw, hl, hv, ht]

/-- No staged entry is the commit entry. -/
theorem row_imm_ne {row : EntryRow} {idx sub : Nat} (h : rowOf idx sub = some row) (hi : row.imm = false) : ¬ (idx = 0x2002 ∧ sub = 1) := by
  rintro ⟨rfl, rfl⟩
  have : rowOf 0x2002 1 = some row := h
  have h2 : (rowOf 0x2002 1).map (·.imm) = some true := rfl
  rw [this] at h2
  simp [hi] at h2

/-- A write that passes the checks is one to an entry. -/
theorem checkWrite_row {d : Dev} {role idx sub off : Nat} {data : List Byte} {row : EntryRow} {v : Value}
    (h : checkWrite d role idx sub off data = .ok (row, v)) : rowOf idx sub = some row := by
  unfold checkWrite findRow at h
  cases hr : rowOf idx sub with
  | none => simp [hr] at h
  | some r =>
    simp only [hr] at h
    split at h
    · simp at h
    · split at h
      · simp at h
      · split at h
        · simp at h
        · simp only [Except.ok.injEq, Prod.mk.injEq] at h
          simp [*]

/-- A write to a staged entry is staged or refused. -/
theorem serveWrite_eq {src : Src} {idx sub off : Nat} {data : List Byte} {a : Dev} {row : EntryRow} {v : Value}
    (hc : checkWrite a (roleOf a src) idx sub off data = .ok (row, v)) (hi : row.imm = false) :
    serveWrite (writeOf src idx sub off data) data a =
      match stageError a (sessionKey src) { idx := idx, sub := sub, val := v, spans := if isTable idx then [(off, data.length)] else [] } with
      | some code => refuseWrite src idx sub code a
      | none => answerWrite src idx sub 0 (stageWrite (sessionKey src) { idx := idx, sub := sub, val := v, spans := if isTable idx then [(off, data.length)] else [] } a) := by
  have hn := row_imm_ne (checkWrite_row hc) hi
  simp only [serveWrite, writeOf, hc, hi]
  refine Eq.trans (if_neg fun hw => ?_) rfl
  rw [Bool.and_eq_true] at hw
  exact hn ⟨of_decide_eq_true hw.1, of_decide_eq_true hw.2⟩

/-- A write that fails rows 1 to 4 is refused. -/
theorem serveWrite_error {src : Src} {idx sub off : Nat} {data : List Byte} {a : Dev} {code : Nat}
    (hc : checkWrite a (roleOf a src) idx sub off data = .error code) :
    serveWrite (writeOf src idx sub off data) data a = refuseWrite src idx sub code a := by
  simp only [serveWrite, writeOf, hc]

/-- What follows an immediate act. -/
def finishAct (src : Src) (idx sub : Nat) (a : Dev) : Act → Dev
  | .refuse code f => refuseWrite src idx sub code (f a)
  | .done d => answerWrite src idx sub 0 d
  | .thenDo d f => f (answerWrite src idx sub 0 d)
  | .later d => d

/-- An immediate write that passes the checks acts; it is counted as accepted at once, but for the verification of an image,
which is counted when it ends. -/
theorem serveWrite_act {src : Src} {idx sub off : Nat} {data : List Byte} {a : Dev} {row : EntryRow} {v : Value}
    (hc : checkWrite a (roleOf a src) idx sub off data = .ok (row, v)) (hi : row.imm = true) (hn : ¬ (idx = 0x2002 ∧ sub = 1)) :
    serveWrite (writeOf src idx sub off data) data a =
      finishAct src idx sub a (actOn (writeOf src idx sub off data) (roleOf a src) v
        (onlyIf (!(idx = 0x2011 && sub = 2 && v.toNat = 1)) (bump 0x2003 1) a)) := by
  simp only [serveWrite, writeOf, hc, hi]
  refine Eq.trans (if_neg fun hw => ?_) ?_
  · rw [Bool.and_eq_true] at hw
    exact hn ⟨of_decide_eq_true hw.1, of_decide_eq_true hw.2⟩
  · rw [if_pos trivial]
    generalize hx : actOn _ _ _ _ = x
    refine Eq.trans ?_ (congrArg (finishAct src idx sub a) hx.symm)
    cases x <;> rfl

/-- A number comes back from its bytes. -/
theorem leNat_leBytes (n v : Nat) (h : v < 256 ^ n) : leNat (leBytes n v) = v := by
  induction n generalizing v with
  | zero => simp at h; simp [leBytes, leNat, h]
  | succ n ih =>
    have : v / 256 < 256 ^ n := by rw [Nat.div_lt_iff_lt_mul (by decide)]; rw [Nat.pow_succ] at h; omega
    simp only [leBytes, leNat, ih _ this, BitVec.toNat_ofNat]; omega

/-- With no request waiting, nothing resumes. -/
theorem resume_empty (d : Dev) (h : d.dict.queue = []) : resume d = d := by
  obtain ⟨now, fresh, out, dict, node, chip, inaug, fab, ports, time, sched, strm, can, gw, chk, recd, sleep, load, host, pow, health, sec, pins⟩ := d
  cases dict
  simp only at h
  subst h
  rfl

end Sys2Proof.Machine
end

