-- ==== Sys2Proof/Laws/State.lean ====
section
/-! SUPPORT. The named updates of the device: what each gives for every part, true by definition, and the laws of a vector
of which one element changes. -/

-- one declaration after the other: the package is also compiled as one text, in limited memory
set_option Elab.async false

namespace Sys2Proof.Machine

@[simp] theorem onDict_now (f : DictS → DictS) (d : Dev) : (onDict f d).now = d.now := rfl
@[simp] theorem onDict_fresh (f : DictS → DictS) (d : Dev) : (onDict f d).fresh = d.fresh := rfl
@[simp] theorem onDict_out (f : DictS → DictS) (d : Dev) : (onDict f d).out = d.out := rfl
@[simp] theorem onDict_dict (f : DictS → DictS) (d : Dev) : (onDict f d).dict = f d.dict := rfl
@[simp] theorem onDict_node (f : DictS → DictS) (d : Dev) : (onDict f d).node = d.node := rfl
@[simp] theorem onDict_chip (f : DictS → DictS) (d : Dev) : (onDict f d).chip = d.chip := rfl
@[simp] theorem onDict_inaug (f : DictS → DictS) (d : Dev) : (onDict f d).inaug = d.inaug := rfl
@[simp] theorem onDict_fab (f : DictS → DictS) (d : Dev) : (onDict f d).fab = d.fab := rfl
@[simp] theorem onDict_ports (f : DictS → DictS) (d : Dev) : (onDict f d).ports = d.ports := rfl
@[simp] theorem onDict_time (f : DictS → DictS) (d : Dev) : (onDict f d).time = d.time := rfl
@[simp] theorem onDict_sched (f : DictS → DictS) (d : Dev) : (onDict f d).sched = d.sched := rfl
@[simp] theorem onDict_strm (f : DictS → DictS) (d : Dev) : (onDict f d).strm = d.strm := rfl
@[simp] theorem onDict_can (f : DictS → DictS) (d : Dev) : (onDict f d).can = d.can := rfl
@[simp] theorem onDict_gw (f : DictS → DictS) (d : Dev) : (onDict f d).gw = d.gw := rfl
@[simp] theorem onDict_chk (f : DictS → DictS) (d : Dev) : (onDict f d).chk = d.chk := rfl
@[simp] theorem onDict_recd (f : DictS → DictS) (d : Dev) : (onDict f d).recd = d.recd := rfl
@[simp] theorem onDict_sleep (f : DictS → DictS) (d : Dev) : (onDict f d).sleep = d.sleep := rfl
@[simp] theorem onDict_load (f : DictS → DictS) (d : Dev) : (onDict f d).load = d.load := rfl
@[simp] theorem onDict_host (f : DictS → DictS) (d : Dev) : (onDict f d).host = d.host := rfl
@[simp] theorem onDict_pow (f : DictS → DictS) (d : Dev) : (onDict f d).pow = d.pow := rfl
@[simp] theorem onDict_health (f : DictS → DictS) (d : Dev) : (onDict f d).health = d.health := rfl
@[simp] theorem onDict_sec (f : DictS → DictS) (d : Dev) : (onDict f d).sec = d.sec := rfl
@[simp] theorem onDict_pins (f : DictS → DictS) (d : Dev) : (onDict f d).pins = d.pins := rfl

@[simp] theorem onNode_now (f : NodeS → NodeS) (d : Dev) : (onNode f d).now = d.now := rfl
@[simp] theorem onNode_fresh (f : NodeS → NodeS) (d : Dev) : (onNode f d).fresh = d.fresh := rfl
@[simp] theorem onNode_out (f : NodeS → NodeS) (d : Dev) : (onNode f d).out = d.out := rfl
@[simp] theorem onNode_dict (f : NodeS → NodeS) (d : Dev) : (onNode f d).dict = d.dict := rfl
@[simp] theorem onNode_node (f : NodeS → NodeS) (d : Dev) : (onNode f d).node = f d.node := rfl
@[simp] theorem onNode_chip (f : NodeS → NodeS) (d : Dev) : (onNode f d).chip = d.chip := rfl
@[simp] theorem onNode_inaug (f : NodeS → NodeS) (d : Dev) : (onNode f d).inaug = d.inaug := rfl
@[simp] theorem onNode_fab (f : NodeS → NodeS) (d : Dev) : (onNode f d).fab = d.fab := rfl
@[simp] theorem onNode_ports (f : NodeS → NodeS) (d : Dev) : (onNode f d).ports = d.ports := rfl
@[simp] theorem onNode_time (f : NodeS → NodeS) (d : Dev) : (onNode f d).time = d.time := rfl
@[simp] theorem onNode_sched (f : NodeS → NodeS) (d : Dev) : (onNode f d).sched = d.sched := rfl
@[simp] theorem onNode_strm (f : NodeS → NodeS) (d : Dev) : (onNode f d).strm = d.strm := rfl
@[simp] theorem onNode_can (f : NodeS → NodeS) (d : Dev) : (onNode f d).can = d.can := rfl
@[simp] theorem onNode_gw (f : NodeS → NodeS) (d : Dev) : (onNode f d).gw = d.gw := rfl
@[simp] theorem onNode_chk (f : NodeS → NodeS) (d : Dev) : (onNode f d).chk = d.chk := rfl
@[simp] theorem onNode_recd (f : NodeS → NodeS) (d : Dev) : (onNode f d).recd = d.recd := rfl
@[simp] theorem onNode_sleep (f : NodeS → NodeS) (d : Dev) : (onNode f d).sleep = d.sleep := rfl
@[simp] theorem onNode_load (f : NodeS → NodeS) (d : Dev) : (onNode f d).load = d.load := rfl
@[simp] theorem onNode_host (f : NodeS → NodeS) (d : Dev) : (onNode f d).host = d.host := rfl
@[simp] theorem onNode_pow (f : NodeS → NodeS) (d : Dev) : (onNode f d).pow = d.pow := rfl
@[simp] theorem onNode_health (f : NodeS → NodeS) (d : Dev) : (onNode f d).health = d.health := rfl
@[simp] theorem onNode_sec (f : NodeS → NodeS) (d : Dev) : (onNode f d).sec = d.sec := rfl
@[simp] theorem onNode_pins (f : NodeS → NodeS) (d : Dev) : (onNode f d).pins = d.pins := rfl

@[simp] theorem onInaug_now (f : InaugS → InaugS) (d : Dev) : (onInaug f d).now = d.now := rfl
@[simp] theorem onInaug_fresh (f : InaugS → InaugS) (d : Dev) : (onInaug f d).fresh = d.fresh := rfl
@[simp] theorem onInaug_out (f : InaugS → InaugS) (d : Dev) : (onInaug f d).out = d.out := rfl
@[simp] theorem onInaug_dict (f : InaugS → InaugS) (d : Dev) : (onInaug f d).dict = d.dict := rfl
@[simp] theorem onInaug_node (f : InaugS → InaugS) (d : Dev) : (onInaug f d).node = d.node := rfl
@[simp] theorem onInaug_chip (f : InaugS → InaugS) (d : Dev) : (onInaug f d).chip = d.chip := rfl
@[simp] theorem onInaug_inaug (f : InaugS → InaugS) (d : Dev) : (onInaug f d).inaug = f d.inaug := rfl
@[simp] theorem onInaug_fab (f : InaugS → InaugS) (d : Dev) : (onInaug f d).fab = d.fab := rfl
@[simp] theorem onInaug_ports (f : InaugS → InaugS) (d : Dev) : (onInaug f d).ports = d.ports := rfl
@[simp] theorem onInaug_time (f : InaugS → InaugS) (d : Dev) : (onInaug f d).time = d.time := rfl
@[simp] theorem onInaug_sched (f : InaugS → InaugS) (d : Dev) : (onInaug f d).sched = d.sched := rfl
@[simp] theorem onInaug_strm (f : InaugS → InaugS) (d : Dev) : (onInaug f d).strm = d.strm := rfl
@[simp] theorem onInaug_can (f : InaugS → InaugS) (d : Dev) : (onInaug f d).can = d.can := rfl
@[simp] theorem onInaug_gw (f : InaugS → InaugS) (d : Dev) : (onInaug f d).gw = d.gw := rfl
@[simp] theorem onInaug_chk (f : InaugS → InaugS) (d : Dev) : (onInaug f d).chk = d.chk := rfl
@[simp] theorem onInaug_recd (f : InaugS → InaugS) (d : Dev) : (onInaug f d).recd = d.recd := rfl
@[simp] theorem onInaug_sleep (f : InaugS → InaugS) (d : Dev) : (onInaug f d).sleep = d.sleep := rfl
@[simp] theorem onInaug_load (f : InaugS → InaugS) (d : Dev) : (onInaug f d).load = d.load := rfl
@[simp] theorem onInaug_host (f : InaugS → InaugS) (d : Dev) : (onInaug f d).host = d.host := rfl
@[simp] theorem onInaug_pow (f : InaugS → InaugS) (d : Dev) : (onInaug f d).pow = d.pow := rfl
@[simp] theorem onInaug_health (f : InaugS → InaugS) (d : Dev) : (onInaug f d).health = d.health := rfl
@[simp] theorem onInaug_sec (f : InaugS → InaugS) (d : Dev) : (onInaug f d).sec = d.sec := rfl
@[simp] theorem onInaug_pins (f : InaugS → InaugS) (d : Dev) : (onInaug f d).pins = d.pins := rfl

@[simp] theorem onBack_now (p : Port) (f : BackPort → BackPort) (d : Dev) : (onBack p f d).now = d.now := rfl
@[simp] theorem onBack_fresh (p : Port) (f : BackPort → BackPort) (d : Dev) : (onBack p f d).fresh = d.fresh := rfl
@[simp] theorem onBack_out (p : Port) (f : BackPort → BackPort) (d : Dev) : (onBack p f d).out = d.out := rfl
@[simp] theorem onBack_dict (p : Port) (f : BackPort → BackPort) (d : Dev) : (onBack p f d).dict = d.dict := rfl
@[simp] theorem onBack_node (p : Port) (f : BackPort → BackPort) (d : Dev) : (onBack p f d).node = d.node := rfl
@[simp] theorem onBack_chip (p : Port) (f : BackPort → BackPort) (d : Dev) : (onBack p f d).chip = d.chip := rfl
@[simp] theorem onBack_inaug (p : Port) (f : BackPort → BackPort) (d : Dev) : (onBack p f d).inaug = { d.inaug with ports := vmod d.inaug.ports (Fin.ofNat 4 p.val) f } := rfl
@[simp] theorem onBack_fab (p : Port) (f : BackPort → BackPort) (d : Dev) : (onBack p f d).fab = d.fab := rfl
@[simp] theorem onBack_ports (p : Port) (f : BackPort → BackPort) (d : Dev) : (onBack p f d).ports = d.ports := rfl
@[simp] theorem onBack_time (p : Port) (f : BackPort → BackPort) (d : Dev) : (onBack p f d).time = d.time := rfl
@[simp] theorem onBack_sched (p : Port) (f : BackPort → BackPort) (d : Dev) : (onBack p f d).sched = d.sched := rfl
@[simp] theorem onBack_strm (p : Port) (f : BackPort → BackPort) (d : Dev) : (onBack p f d).strm = d.strm := rfl
@[simp] theorem onBack_can (p : Port) (f : BackPort → BackPort) (d : Dev) : (onBack p f d).can = d.can := rfl
@[simp] theorem onBack_gw (p : Port) (f : BackPort → BackPort) (d : Dev) : (onBack p f d).gw = d.gw := rfl
@[simp] theorem onBack_chk (p : Port) (f : BackPort → BackPort) (d : Dev) : (onBack p f d).chk = d.chk := rfl
@[simp] theorem onBack_recd (p : Port) (f : BackPort → BackPort) (d : Dev) : (onBack p f d).recd = d.recd := rfl
@[simp] theorem onBack_sleep (p : Port) (f : BackPort → BackPort) (d : Dev) : (onBack p f d).sleep = d.sleep := rfl
@[simp] theorem onBack_load (p : Port) (f : BackPort → BackPort) (d : Dev) : (onBack p f d).load = d.load := rfl
@[simp] theorem onBack_host (p : Port) (f : BackPort → BackPort) (d : Dev) : (onBack p f d).host = d.host := rfl
@[simp] theorem onBack_pow (p : Port) (f : BackPort → BackPort) (d : Dev) : (onBack p f d).pow = d.pow := rfl
@[simp] theorem onBack_health (p : Port) (f : BackPort → BackPort) (d : Dev) : (onBack p f d).health = d.health := rfl
@[simp] theorem onBack_sec (p : Port) (f : BackPort → BackPort) (d : Dev) : (onBack p f d).sec = d.sec := rfl
@[simp] theorem onBack_pins (p : Port) (f : BackPort → BackPort) (d : Dev) : (onBack p f d).pins = d.pins := rfl

@[simp] theorem onFab_now (f : FabricS → FabricS) (d : Dev) : (onFab f d).now = d.now := rfl
@[simp] theorem onFab_fresh (f : FabricS → FabricS) (d : Dev) : (onFab f d).fresh = d.fresh := rfl
@[simp] theorem onFab_out (f : FabricS → FabricS) (d : Dev) : (onFab f d).out = d.out := rfl
@[simp] theorem onFab_dict (f : FabricS → FabricS) (d : Dev) : (onFab f d).dict = d.dict := rfl
@[simp] theorem onFab_node (f : FabricS → FabricS) (d : Dev) : (onFab f d).node = d.node := rfl
@[simp] theorem onFab_chip (f : FabricS → FabricS) (d : Dev) : (onFab f d).chip = d.chip := rfl
@[simp] theorem onFab_inaug (f : FabricS → FabricS) (d : Dev) : (onFab f d).inaug = d.inaug := rfl
@[simp] theorem onFab_fab (f : FabricS → FabricS) (d : Dev) : (onFab f d).fab = f d.fab := rfl
@[simp] theorem onFab_ports (f : FabricS → FabricS) (d : Dev) : (onFab f d).ports = d.ports := rfl
@[simp] theorem onFab_time (f : FabricS → FabricS) (d : Dev) : (onFab f d).time = d.time := rfl
@[simp] theorem onFab_sched (f : FabricS → FabricS) (d : Dev) : (onFab f d).sched = d.sched := rfl
@[simp] theorem onFab_strm (f : FabricS → FabricS) (d : Dev) : (onFab f d).strm = d.strm := rfl
@[simp] theorem onFab_can (f : FabricS → FabricS) (d : Dev) : (onFab f d).can = d.can := rfl
@[simp] theorem onFab_gw (f : FabricS → FabricS) (d : Dev) : (onFab f d).gw = d.gw := rfl
@[simp] theorem onFab_chk (f : FabricS → FabricS) (d : Dev) : (onFab f d).chk = d.chk := rfl
@[simp] theorem onFab_recd (f : FabricS → FabricS) (d : Dev) : (onFab f d).recd = d.recd := rfl
@[simp] theorem onFab_sleep (f : FabricS → FabricS) (d : Dev) : (onFab f d).sleep = d.sleep := rfl
@[simp] theorem onFab_load (f : FabricS → FabricS) (d : Dev) : (onFab f d).load = d.load := rfl
@[simp] theorem onFab_host (f : FabricS → FabricS) (d : Dev) : (onFab f d).host = d.host := rfl
@[simp] theorem onFab_pow (f : FabricS → FabricS) (d : Dev) : (onFab f d).pow = d.pow := rfl
@[simp] theorem onFab_health (f : FabricS → FabricS) (d : Dev) : (onFab f d).health = d.health := rfl
@[simp] theorem onFab_sec (f : FabricS → FabricS) (d : Dev) : (onFab f d).sec = d.sec := rfl
@[simp] theorem onFab_pins (f : FabricS → FabricS) (d : Dev) : (onFab f d).pins = d.pins := rfl

@[simp] theorem onSched_now (f : SchedS → SchedS) (d : Dev) : (onSched f d).now = d.now := rfl
@[simp] theorem onSched_fresh (f : SchedS → SchedS) (d : Dev) : (onSched f d).fresh = d.fresh := rfl
@[simp] theorem onSched_out (f : SchedS → SchedS) (d : Dev) : (onSched f d).out = d.out := rfl
@[simp] theorem onSched_dict (f : SchedS → SchedS) (d : Dev) : (onSched f d).dict = d.dict := rfl
@[simp] theorem onSched_node (f : SchedS → SchedS) (d : Dev) : (onSched f d).node = d.node := rfl
@[simp] theorem onSched_chip (f : SchedS → SchedS) (d : Dev) : (onSched f d).chip = d.chip := rfl
@[simp] theorem onSched_inaug (f : SchedS → SchedS) (d : Dev) : (onSched f d).inaug = d.inaug := rfl
@[simp] theorem onSched_fab (f : SchedS → SchedS) (d : Dev) : (onSched f d).fab = d.fab := rfl
@[simp] theorem onSched_ports (f : SchedS → SchedS) (d : Dev) : (onSched f d).ports = d.ports := rfl
@[simp] theorem onSched_time (f : SchedS → SchedS) (d : Dev) : (onSched f d).time = d.time := rfl
@[simp] theorem onSched_sched (f : SchedS → SchedS) (d : Dev) : (onSched f d).sched = f d.sched := rfl
@[simp] theorem onSched_strm (f : SchedS → SchedS) (d : Dev) : (onSched f d).strm = d.strm := rfl
@[simp] theorem onSched_can (f : SchedS → SchedS) (d : Dev) : (onSched f d).can = d.can := rfl
@[simp] theorem onSched_gw (f : SchedS → SchedS) (d : Dev) : (onSched f d).gw = d.gw := rfl
@[simp] theorem onSched_chk (f : SchedS → SchedS) (d : Dev) : (onSched f d).chk = d.chk := rfl
@[simp] theorem onSched_recd (f : SchedS → SchedS) (d : Dev) : (onSched f d).recd = d.recd := rfl
@[simp] theorem onSched_sleep (f : SchedS → SchedS) (d : Dev) : (onSched f d).sleep = d.sleep := rfl
@[simp] theorem onSched_load (f : SchedS → SchedS) (d : Dev) : (onSched f d).load = d.load := rfl
@[simp] theorem onSched_host (f : SchedS → SchedS) (d : Dev) : (onSched f d).host = d.host := rfl
@[simp] theorem onSched_pow (f : SchedS → SchedS) (d : Dev) : (onSched f d).pow = d.pow := rfl
@[simp] theorem onSched_health (f : SchedS → SchedS) (d : Dev) : (onSched f d).health = d.health := rfl
@[simp] theorem onSched_sec (f : SchedS → SchedS) (d : Dev) : (onSched f d).sec = d.sec := rfl
@[simp] theorem onSched_pins (f : SchedS → SchedS) (d : Dev) : (onSched f d).pins = d.pins := rfl

@[simp] theorem onStrm_now (f : StreamsS → StreamsS) (d : Dev) : (onStrm f d).now = d.now := rfl
@[simp] theorem onStrm_fresh (f : StreamsS → StreamsS) (d : Dev) : (onStrm f d).fresh = d.fresh := rfl
@[simp] theorem onStrm_out (f : StreamsS → StreamsS) (d : Dev) : (onStrm f d).out = d.out := rfl
@[simp] theorem onStrm_dict (f : StreamsS → StreamsS) (d : Dev) : (onStrm f d).dict = d.dict := rfl
@[simp] theorem onStrm_node (f : StreamsS → StreamsS) (d : Dev) : (onStrm f d).node = d.node := rfl
@[simp] theorem onStrm_chip (f : StreamsS → StreamsS) (d : Dev) : (onStrm f d).chip = d.chip := rfl
@[simp] theorem onStrm_inaug (f : StreamsS → StreamsS) (d : Dev) : (onStrm f d).inaug = d.inaug := rfl
@[simp] theorem onStrm_fab (f : StreamsS → StreamsS) (d : Dev) : (onStrm f d).fab = d.fab := rfl
@[simp] theorem onStrm_ports (f : StreamsS → StreamsS) (d : Dev) : (onStrm f d).ports = d.ports := rfl
@[simp] theorem onStrm_time (f : StreamsS → StreamsS) (d : Dev) : (onStrm f d).time = d.time := rfl
@[simp] theorem onStrm_sched (f : StreamsS → StreamsS) (d : Dev) : (onStrm f d).sched = d.sched := rfl
@[simp] theorem onStrm_strm (f : StreamsS → StreamsS) (d : Dev) : (onStrm f d).strm = f d.strm := rfl
@[simp] theorem onStrm_can (f : StreamsS → StreamsS) (d : Dev) : (onStrm f d).can = d.can := rfl
@[simp] theorem onStrm_gw (f : StreamsS → StreamsS) (d : Dev) : (onStrm f d).gw = d.gw := rfl
@[simp] theorem onStrm_chk (f : StreamsS → StreamsS) (d : Dev) : (onStrm f d).chk = d.chk := rfl
@[simp] theorem onStrm_recd (f : StreamsS → StreamsS) (d : Dev) : (onStrm f d).recd = d.recd := rfl
@[simp] theorem onStrm_sleep (f : StreamsS → StreamsS) (d : Dev) : (onStrm f d).sleep = d.sleep := rfl
@[simp] theorem onStrm_load (f : StreamsS → StreamsS) (d : Dev) : (onStrm f d).load = d.load := rfl
@[simp] theorem onStrm_host (f : StreamsS → StreamsS) (d : Dev) : (onStrm f d).host = d.host := rfl
@[simp] theorem onStrm_pow (f : StreamsS → StreamsS) (d : Dev) : (onStrm f d).pow = d.pow := rfl
@[simp] theorem onStrm_health (f : StreamsS → StreamsS) (d : Dev) : (onStrm f d).health = d.health := rfl
@[simp] theorem onStrm_sec (f : StreamsS → StreamsS) (d : Dev) : (onStrm f d).sec = d.sec := rfl
@[simp] theorem onStrm_pins (f : StreamsS → StreamsS) (d : Dev) : (onStrm f d).pins = d.pins := rfl

@[simp] theorem onStream_now (s : Fin 64) (f : StreamS → StreamS) (d : Dev) : (onStream s f d).now = d.now := rfl
@[simp] theorem onStream_fresh (s : Fin 64) (f : StreamS → StreamS) (d : Dev) : (onStream s f d).fresh = d.fresh := rfl
@[simp] theorem onStream_out (s : Fin 64) (f : StreamS → StreamS) (d : Dev) : (onStream s f d).out = d.out := rfl
@[simp] theorem onStream_dict (s : Fin 64) (f : StreamS → StreamS) (d : Dev) : (onStream s f d).dict = d.dict := rfl
@[simp] theorem onStream_node (s : Fin 64) (f : StreamS → StreamS) (d : Dev) : (onStream s f d).node = d.node := rfl
@[simp] theorem onStream_chip (s : Fin 64) (f : StreamS → StreamS) (d : Dev) : (onStream s f d).chip = d.chip := rfl
@[simp] theorem onStream_inaug (s : Fin 64) (f : StreamS → StreamS) (d : Dev) : (onStream s f d).inaug = d.inaug := rfl
@[simp] theorem onStream_fab (s : Fin 64) (f : StreamS → StreamS) (d : Dev) : (onStream s f d).fab = d.fab := rfl
@[simp] theorem onStream_ports (s : Fin 64) (f : StreamS → StreamS) (d : Dev) : (onStream s f d).ports = d.ports := rfl
@[simp] theorem onStream_time (s : Fin 64) (f : StreamS → StreamS) (d : Dev) : (onStream s f d).time = d.time := rfl
@[simp] theorem onStream_sched (s : Fin 64) (f : StreamS → StreamS) (d : Dev) : (onStream s f d).sched = d.sched := rfl
@[simp] theorem onStream_strm (s : Fin 64) (f : StreamS → StreamS) (d : Dev) : (onStream s f d).strm = { d.strm with s := vmod d.strm.s s f } := rfl
@[simp] theorem onStream_can (s : Fin 64) (f : StreamS → StreamS) (d : Dev) : (onStream s f d).can = d.can := rfl
@[simp] theorem onStream_gw (s : Fin 64) (f : StreamS → StreamS) (d : Dev) : (onStream s f d).gw = d.gw := rfl
@[simp] theorem onStream_chk (s : Fin 64) (f : StreamS → StreamS) (d : Dev) : (onStream s f d).chk = d.chk := rfl
@[simp] theorem onStream_recd (s : Fin 64) (f : StreamS → StreamS) (d : Dev) : (onStream s f d).recd = d.recd := rfl
@[simp] theorem onStream_sleep (s : Fin 64) (f : StreamS → StreamS) (d : Dev) : (onStream s f d).sleep = d.sleep := rfl
@[simp] theorem onStream_load (s : Fin 64) (f : StreamS → StreamS) (d : Dev) : (onStream s f d).load = d.load := rfl
@[simp] theorem onStream_host (s : Fin 64) (f : StreamS → StreamS) (d : Dev) : (onStream s f d).host = d.host := rfl
@[simp] theorem onStream_pow (s : Fin 64) (f : StreamS → StreamS) (d : Dev) : (onStream s f d).pow = d.pow := rfl
@[simp] theorem onStream_health (s : Fin 64) (f : StreamS → StreamS) (d : Dev) : (onStream s f d).health = d.health := rfl
@[simp] theorem onStream_sec (s : Fin 64) (f : StreamS → StreamS) (d : Dev) : (onStream s f d).sec = d.sec := rfl
@[simp] theorem onStream_pins (s : Fin 64) (f : StreamS → StreamS) (d : Dev) : (onStream s f d).pins = d.pins := rfl

@[simp] theorem onCan_now (c : CanId) (f : CanCtl → CanCtl) (d : Dev) : (onCan c f d).now = d.now := rfl
@[simp] theorem onCan_fresh (c : CanId) (f : CanCtl → CanCtl) (d : Dev) : (onCan c f d).fresh = d.fresh := rfl
@[simp] theorem onCan_out (c : CanId) (f : CanCtl → CanCtl) (d : Dev) : (onCan c f d).out = d.out := rfl
@[simp] theorem onCan_dict (c : CanId) (f : CanCtl → CanCtl) (d : Dev) : (onCan c f d).dict = d.dict := rfl
@[simp] theorem onCan_node (c : CanId) (f : CanCtl → CanCtl) (d : Dev) : (onCan c f d).node = d.node := rfl
@[simp] theorem onCan_chip (c : CanId) (f : CanCtl → CanCtl) (d : Dev) : (onCan c f d).chip = d.chip := rfl
@[simp] theorem onCan_inaug (c : CanId) (f : CanCtl → CanCtl) (d : Dev) : (onCan c f d).inaug = d.inaug := rfl
@[simp] theorem onCan_fab (c : CanId) (f : CanCtl → CanCtl) (d : Dev) : (onCan c f d).fab = d.fab := rfl
@[simp] theorem onCan_ports (c : CanId) (f : CanCtl → CanCtl) (d : Dev) : (onCan c f d).ports = d.ports := rfl
@[simp] theorem onCan_time (c : CanId) (f : CanCtl → CanCtl) (d : Dev) : (onCan c f d).time = d.time := rfl
@[simp] theorem onCan_sched (c : CanId) (f : CanCtl → CanCtl) (d : Dev) : (onCan c f d).sched = d.sched := rfl
@[simp] theorem onCan_strm (c : CanId) (f : CanCtl → CanCtl) (d : Dev) : (onCan c f d).strm = d.strm := rfl
@[simp] theorem onCan_can (c : CanId) (f : CanCtl → CanCtl) (d : Dev) : (onCan c f d).can = vmod d.can c f := rfl
@[simp] theorem onCan_gw (c : CanId) (f : CanCtl → CanCtl) (d : Dev) : (onCan c f d).gw = d.gw := rfl
@[simp] theorem onCan_chk (c : CanId) (f : CanCtl → CanCtl) (d : Dev) : (onCan c f d).chk = d.chk := rfl
@[simp] theorem onCan_recd (c : CanId) (f : CanCtl → CanCtl) (d : Dev) : (onCan c f d).recd = d.recd := rfl
@[simp] theorem onCan_sleep (c : CanId) (f : CanCtl → CanCtl) (d : Dev) : (onCan c f d).sleep = d.sleep := rfl
@[simp] theorem onCan_load (c : CanId) (f : CanCtl → CanCtl) (d : Dev) : (onCan c f d).load = d.load := rfl
@[simp] theorem onCan_host (c : CanId) (f : CanCtl → CanCtl) (d : Dev) : (onCan c f d).host = d.host := rfl
@[simp] theorem onCan_pow (c : CanId) (f : CanCtl → CanCtl) (d : Dev) : (onCan c f d).pow = d.pow := rfl
@[simp] theorem onCan_health (c : CanId) (f : CanCtl → CanCtl) (d : Dev) : (onCan c f d).health = d.health := rfl
@[simp] theorem onCan_sec (c : CanId) (f : CanCtl → CanCtl) (d : Dev) : (onCan c f d).sec = d.sec := rfl
@[simp] theorem onCan_pins (c : CanId) (f : CanCtl → CanCtl) (d : Dev) : (onCan c f d).pins = d.pins := rfl

@[simp] theorem onGw_now (f : GwS → GwS) (d : Dev) : (onGw f d).now = d.now := rfl
@[simp] theorem onGw_fresh (f : GwS → GwS) (d : Dev) : (onGw f d).fresh = d.fresh := rfl
@[simp] theorem onGw_out (f : GwS → GwS) (d : Dev) : (onGw f d).out = d.out := rfl
@[simp] theorem onGw_dict (f : GwS → GwS) (d : Dev) : (onGw f d).dict = d.dict := rfl
@[simp] theorem onGw_node (f : GwS → GwS) (d : Dev) : (onGw f d).node = d.node := rfl
@[simp] theorem onGw_chip (f : GwS → GwS) (d : Dev) : (onGw f d).chip = d.chip := rfl
@[simp] theorem onGw_inaug (f : GwS → GwS) (d : Dev) : (onGw f d).inaug = d.inaug := rfl
@[simp] theorem onGw_fab (f : GwS → GwS) (d : Dev) : (onGw f d).fab = d.fab := rfl
@[simp] theorem onGw_ports (f : GwS → GwS) (d : Dev) : (onGw f d).ports = d.ports := rfl
@[simp] theorem onGw_time (f : GwS → GwS) (d : Dev) : (onGw f d).time = d.time := rfl
@[simp] theorem onGw_sched (f : GwS → GwS) (d : Dev) : (onGw f d).sched = d.sched := rfl
@[simp] theorem onGw_strm (f : GwS → GwS) (d : Dev) : (onGw f d).strm = d.strm := rfl
@[simp] theorem onGw_can (f : GwS → GwS) (d : Dev) : (onGw f d).can = d.can := rfl
@[simp] theorem onGw_gw (f : GwS → GwS) (d : Dev) : (onGw f d).gw = f d.gw := rfl
@[simp] theorem onGw_chk (f : GwS → GwS) (d : Dev) : (onGw f d).chk = d.chk := rfl
@[simp] theorem onGw_recd (f : GwS → GwS) (d : Dev) : (onGw f d).recd = d.recd := rfl
@[simp] theorem onGw_sleep (f : GwS → GwS) (d : Dev) : (onGw f d).sleep = d.sleep := rfl
@[simp] theorem onGw_load (f : GwS → GwS) (d : Dev) : (onGw f d).load = d.load := rfl
@[simp] theorem onGw_host (f : GwS → GwS) (d : Dev) : (onGw f d).host = d.host := rfl
@[simp] theorem onGw_pow (f : GwS → GwS) (d : Dev) : (onGw f d).pow = d.pow := rfl
@[simp] theorem onGw_health (f : GwS → GwS) (d : Dev) : (onGw f d).health = d.health := rfl
@[simp] theorem onGw_sec (f : GwS → GwS) (d : Dev) : (onGw f d).sec = d.sec := rfl
@[simp] theorem onGw_pins (f : GwS → GwS) (d : Dev) : (onGw f d).pins = d.pins := rfl

@[simp] theorem onTele_now (k : Fin 64) (f : Telegram → Telegram) (d : Dev) : (onTele k f d).now = d.now := rfl
@[simp] theorem onTele_fresh (k : Fin 64) (f : Telegram → Telegram) (d : Dev) : (onTele k f d).fresh = d.fresh := rfl
@[simp] theorem onTele_out (k : Fin 64) (f : Telegram → Telegram) (d : Dev) : (onTele k f d).out = d.out := rfl
@[simp] theorem onTele_dict (k : Fin 64) (f : Telegram → Telegram) (d : Dev) : (onTele k f d).dict = d.dict := rfl
@[simp] theorem onTele_node (k : Fin 64) (f : Telegram → Telegram) (d : Dev) : (onTele k f d).node = d.node := rfl
@[simp] theorem onTele_chip (k : Fin 64) (f : Telegram → Telegram) (d : Dev) : (onTele k f d).chip = d.chip := rfl
@[simp] theorem onTele_inaug (k : Fin 64) (f : Telegram → Telegram) (d : Dev) : (onTele k f d).inaug = d.inaug := rfl
@[simp] theorem onTele_fab (k : Fin 64) (f : Telegram → Telegram) (d : Dev) : (onTele k f d).fab = d.fab := rfl
@[simp] theorem onTele_ports (k : Fin 64) (f : Telegram → Telegram) (d : Dev) : (onTele k f d).ports = d.ports := rfl
@[simp] theorem onTele_time (k : Fin 64) (f : Telegram → Telegram) (d : Dev) : (onTele k f d).time = d.time := rfl
@[simp] theorem onTele_sched (k : Fin 64) (f : Telegram → Telegram) (d : Dev) : (onTele k f d).sched = d.sched := rfl
@[simp] theorem onTele_strm (k : Fin 64) (f : Telegram → Telegram) (d : Dev) : (onTele k f d).strm = d.strm := rfl
@[simp] theorem onTele_can (k : Fin 64) (f : Telegram → Telegram) (d : Dev) : (onTele k f d).can = d.can := rfl
@[simp] theorem onTele_gw (k : Fin 64) (f : Telegram → Telegram) (d : Dev) : (onTele k f d).gw = { d.gw with telegrams := vmod d.gw.telegrams k f } := rfl
@[simp] theorem onTele_chk (k : Fin 64) (f : Telegram → Telegram) (d : Dev) : (onTele k f d).chk = d.chk := rfl
@[simp] theorem onTele_recd (k : Fin 64) (f : Telegram → Telegram) (d : Dev) : (onTele k f d).recd = d.recd := rfl
@[simp] theorem onTele_sleep (k : Fin 64) (f : Telegram → Telegram) (d : Dev) : (onTele k f d).sleep = d.sleep := rfl
@[simp] theorem onTele_load (k : Fin 64) (f : Telegram → Telegram) (d : Dev) : (onTele k f d).load = d.load := rfl
@[simp] theorem onTele_host (k : Fin 64) (f : Telegram → Telegram) (d : Dev) : (onTele k f d).host = d.host := rfl
@[simp] theorem onTele_pow (k : Fin 64) (f : Telegram → Telegram) (d : Dev) : (onTele k f d).pow = d.pow := rfl
@[simp] theorem onTele_health (k : Fin 64) (f : Telegram → Telegram) (d : Dev) : (onTele k f d).health = d.health := rfl
@[simp] theorem onTele_sec (k : Fin 64) (f : Telegram → Telegram) (d : Dev) : (onTele k f d).sec = d.sec := rfl
@[simp] theorem onTele_pins (k : Fin 64) (f : Telegram → Telegram) (d : Dev) : (onTele k f d).pins = d.pins := rfl

@[simp] theorem onChan_now (n : Fin 32) (f : GwChan → GwChan) (d : Dev) : (onChan n f d).now = d.now := rfl
@[simp] theorem onChan_fresh (n : Fin 32) (f : GwChan → GwChan) (d : Dev) : (onChan n f d).fresh = d.fresh := rfl
@[simp] theorem onChan_out (n : Fin 32) (f : GwChan → GwChan) (d : Dev) : (onChan n f d).out = d.out := rfl
@[simp] theorem onChan_dict (n : Fin 32) (f : GwChan → GwChan) (d : Dev) : (onChan n f d).dict = d.dict := rfl
@[simp] theorem onChan_node (n : Fin 32) (f : GwChan → GwChan) (d : Dev) : (onChan n f d).node = d.node := rfl
@[simp] theorem onChan_chip (n : Fin 32) (f : GwChan → GwChan) (d : Dev) : (onChan n f d).chip = d.chip := rfl
@[simp] theorem onChan_inaug (n : Fin 32) (f : GwChan → GwChan) (d : Dev) : (onChan n f d).inaug = d.inaug := rfl
@[simp] theorem onChan_fab (n : Fin 32) (f : GwChan → GwChan) (d : Dev) : (onChan n f d).fab = d.fab := rfl
@[simp] theorem onChan_ports (n : Fin 32) (f : GwChan → GwChan) (d : Dev) : (onChan n f d).ports = d.ports := rfl
@[simp] theorem onChan_time (n : Fin 32) (f : GwChan → GwChan) (d : Dev) : (onChan n f d).time = d.time := rfl
@[simp] theorem onChan_sched (n : Fin 32) (f : GwChan → GwChan) (d : Dev) : (onChan n f d).sched = d.sched := rfl
@[simp] theorem onChan_strm (n : Fin 32) (f : GwChan → GwChan) (d : Dev) : (onChan n f d).strm = d.strm := rfl
@[simp] theorem onChan_can (n : Fin 32) (f : GwChan → GwChan) (d : Dev) : (onChan n f d).can = d.can := rfl
@[simp] theorem onChan_gw (n : Fin 32) (f : GwChan → GwChan) (d : Dev) : (onChan n f d).gw = { d.gw with chans := vmod d.gw.chans n f } := rfl
@[simp] theorem onChan_chk (n : Fin 32) (f : GwChan → GwChan) (d : Dev) : (onChan n f d).chk = d.chk := rfl
@[simp] theorem onChan_recd (n : Fin 32) (f : GwChan → GwChan) (d : Dev) : (onChan n f d).recd = d.recd := rfl
@[simp] theorem onChan_sleep (n : Fin 32) (f : GwChan → GwChan) (d : Dev) : (onChan n f d).sleep = d.sleep := rfl
@[simp] theorem onChan_load (n : Fin 32) (f : GwChan → GwChan) (d : Dev) : (onChan n f d).load = d.load := rfl
@[simp] theorem onChan_host (n : Fin 32) (f : GwChan → GwChan) (d : Dev) : (onChan n f d).host = d.host := rfl
@[simp] theorem onChan_pow (n : Fin 32) (f : GwChan → GwChan) (d : Dev) : (onChan n f d).pow = d.pow := rfl
@[simp] theorem onChan_health (n : Fin 32) (f : GwChan → GwChan) (d : Dev) : (onChan n f d).health = d.health := rfl
@[simp] theorem onChan_sec (n : Fin 32) (f : GwChan → GwChan) (d : Dev) : (onChan n f d).sec = d.sec := rfl
@[simp] theorem onChan_pins (n : Fin 32) (f : GwChan → GwChan) (d : Dev) : (onChan n f d).pins = d.pins := rfl

@[simp] theorem onSleep_now (f : SleepS → SleepS) (d : Dev) : (onSleep f d).now = d.now := rfl
@[simp] theorem onSleep_fresh (f : SleepS → SleepS) (d : Dev) : (onSleep f d).fresh = d.fresh := rfl
@[simp] theorem onSleep_out (f : SleepS → SleepS) (d : Dev) : (onSleep f d).out = d.out := rfl
@[simp] theorem onSleep_dict (f : SleepS → SleepS) (d : Dev) : (onSleep f d).dict = d.dict := rfl
@[simp] theorem onSleep_node (f : SleepS → SleepS) (d : Dev) : (onSleep f d).node = d.node := rfl
@[simp] theorem onSleep_chip (f : SleepS → SleepS) (d : Dev) : (onSleep f d).chip = d.chip := rfl
@[simp] theorem onSleep_inaug (f : SleepS → SleepS) (d : Dev) : (onSleep f d).inaug = d.inaug := rfl
@[simp] theorem onSleep_fab (f : SleepS → SleepS) (d : Dev) : (onSleep f d).fab = d.fab := rfl
@[simp] theorem onSleep_ports (f : SleepS → SleepS) (d : Dev) : (onSleep f d).ports = d.ports := rfl
@[simp] theorem onSleep_time (f : SleepS → SleepS) (d : Dev) : (onSleep f d).time = d.time := rfl
@[simp] theorem onSleep_sched (f : SleepS → SleepS) (d : Dev) : (onSleep f d).sched = d.sched := rfl
@[simp] theorem onSleep_strm (f : SleepS → SleepS) (d : Dev) : (onSleep f d).strm = d.strm := rfl
@[simp] theorem onSleep_can (f : SleepS → SleepS) (d : Dev) : (onSleep f d).can = d.can := rfl
@[simp] theorem onSleep_gw (f : SleepS → SleepS) (d : Dev) : (onSleep f d).gw = d.gw := rfl
@[simp] theorem onSleep_chk (f : SleepS → SleepS) (d : Dev) : (onSleep f d).chk = d.chk := rfl
@[simp] theorem onSleep_recd (f : SleepS → SleepS) (d : Dev) : (onSleep f d).recd = d.recd := rfl
@[simp] theorem onSleep_sleep (f : SleepS → SleepS) (d : Dev) : (onSleep f d).sleep = f d.sleep := rfl
@[simp] theorem onSleep_load (f : SleepS → SleepS) (d : Dev) : (onSleep f d).load = d.load := rfl
@[simp] theorem onSleep_host (f : SleepS → SleepS) (d : Dev) : (onSleep f d).host = d.host := rfl
@[simp] theorem onSleep_pow (f : SleepS → SleepS) (d : Dev) : (onSleep f d).pow = d.pow := rfl
@[simp] theorem onSleep_health (f : SleepS → SleepS) (d : Dev) : (onSleep f d).health = d.health := rfl
@[simp] theorem onSleep_sec (f : SleepS → SleepS) (d : Dev) : (onSleep f d).sec = d.sec := rfl
@[simp] theorem onSleep_pins (f : SleepS → SleepS) (d : Dev) : (onSleep f d).pins = d.pins := rfl

@[simp] theorem onCh_now (k : Fin 32) (f : LoadCh → LoadCh) (d : Dev) : (onCh k f d).now = d.now := rfl
@[simp] theorem onCh_fresh (k : Fin 32) (f : LoadCh → LoadCh) (d : Dev) : (onCh k f d).fresh = d.fresh := rfl
@[simp] theorem onCh_out (k : Fin 32) (f : LoadCh → LoadCh) (d : Dev) : (onCh k f d).out = d.out := rfl
@[simp] theorem onCh_dict (k : Fin 32) (f : LoadCh → LoadCh) (d : Dev) : (onCh k f d).dict = d.dict := rfl
@[simp] theorem onCh_node (k : Fin 32) (f : LoadCh → LoadCh) (d : Dev) : (onCh k f d).node = d.node := rfl
@[simp] theorem onCh_chip (k : Fin 32) (f : LoadCh → LoadCh) (d : Dev) : (onCh k f d).chip = d.chip := rfl
@[simp] theorem onCh_inaug (k : Fin 32) (f : LoadCh → LoadCh) (d : Dev) : (onCh k f d).inaug = d.inaug := rfl
@[simp] theorem onCh_fab (k : Fin 32) (f : LoadCh → LoadCh) (d : Dev) : (onCh k f d).fab = d.fab := rfl
@[simp] theorem onCh_ports (k : Fin 32) (f : LoadCh → LoadCh) (d : Dev) : (onCh k f d).ports = d.ports := rfl
@[simp] theorem onCh_time (k : Fin 32) (f : LoadCh → LoadCh) (d : Dev) : (onCh k f d).time = d.time := rfl
@[simp] theorem onCh_sched (k : Fin 32) (f : LoadCh → LoadCh) (d : Dev) : (onCh k f d).sched = d.sched := rfl
@[simp] theorem onCh_strm (k : Fin 32) (f : LoadCh → LoadCh) (d : Dev) : (onCh k f d).strm = d.strm := rfl
@[simp] theorem onCh_can (k : Fin 32) (f : LoadCh → LoadCh) (d : Dev) : (onCh k f d).can = d.can := rfl
@[simp] theorem onCh_gw (k : Fin 32) (f : LoadCh → LoadCh) (d : Dev) : (onCh k f d).gw = d.gw := rfl
@[simp] theorem onCh_chk (k : Fin 32) (f : LoadCh → LoadCh) (d : Dev) : (onCh k f d).chk = d.chk := rfl
@[simp] theorem onCh_recd (k : Fin 32) (f : LoadCh → LoadCh) (d : Dev) : (onCh k f d).recd = d.recd := rfl
@[simp] theorem onCh_sleep (k : Fin 32) (f : LoadCh → LoadCh) (d : Dev) : (onCh k f d).sleep = d.sleep := rfl
@[simp] theorem onCh_load (k : Fin 32) (f : LoadCh → LoadCh) (d : Dev) : (onCh k f d).load = { d.load with ch := vmod d.load.ch k f } := rfl
@[simp] theorem onCh_host (k : Fin 32) (f : LoadCh → LoadCh) (d : Dev) : (onCh k f d).host = d.host := rfl
@[simp] theorem onCh_pow (k : Fin 32) (f : LoadCh → LoadCh) (d : Dev) : (onCh k f d).pow = d.pow := rfl
@[simp] theorem onCh_health (k : Fin 32) (f : LoadCh → LoadCh) (d : Dev) : (onCh k f d).health = d.health := rfl
@[simp] theorem onCh_sec (k : Fin 32) (f : LoadCh → LoadCh) (d : Dev) : (onCh k f d).sec = d.sec := rfl
@[simp] theorem onCh_pins (k : Fin 32) (f : LoadCh → LoadCh) (d : Dev) : (onCh k f d).pins = d.pins := rfl

@[simp] theorem onComp_now (n : Fin 4) (f : Companion → Companion) (d : Dev) : (onComp n f d).now = d.now := rfl
@[simp] theorem onComp_fresh (n : Fin 4) (f : Companion → Companion) (d : Dev) : (onComp n f d).fresh = d.fresh := rfl
@[simp] theorem onComp_out (n : Fin 4) (f : Companion → Companion) (d : Dev) : (onComp n f d).out = d.out := rfl
@[simp] theorem onComp_dict (n : Fin 4) (f : Companion → Companion) (d : Dev) : (onComp n f d).dict = d.dict := rfl
@[simp] theorem onComp_node (n : Fin 4) (f : Companion → Companion) (d : Dev) : (onComp n f d).node = d.node := rfl
@[simp] theorem onComp_chip (n : Fin 4) (f : Companion → Companion) (d : Dev) : (onComp n f d).chip = d.chip := rfl
@[simp] theorem onComp_inaug (n : Fin 4) (f : Companion → Companion) (d : Dev) : (onComp n f d).inaug = d.inaug := rfl
@[simp] theorem onComp_fab (n : Fin 4) (f : Companion → Companion) (d : Dev) : (onComp n f d).fab = d.fab := rfl
@[simp] theorem onComp_ports (n : Fin 4) (f : Companion → Companion) (d : Dev) : (onComp n f d).ports = d.ports := rfl
@[simp] theorem onComp_time (n : Fin 4) (f : Companion → Companion) (d : Dev) : (onComp n f d).time = d.time := rfl
@[simp] theorem onComp_sched (n : Fin 4) (f : Companion → Companion) (d : Dev) : (onComp n f d).sched = d.sched := rfl
@[simp] theorem onComp_strm (n : Fin 4) (f : Companion → Companion) (d : Dev) : (onComp n f d).strm = d.strm := rfl
@[simp] theorem onComp_can (n : Fin 4) (f : Companion → Companion) (d : Dev) : (onComp n f d).can = d.can := rfl
@[simp] theorem onComp_gw (n : Fin 4) (f : Companion → Companion) (d : Dev) : (onComp n f d).gw = d.gw := rfl
@[simp] theorem onComp_chk (n : Fin 4) (f : Companion → Companion) (d : Dev) : (onComp n f d).chk = d.chk := rfl
@[simp] theorem onComp_recd (n : Fin 4) (f : Companion → Companion) (d : Dev) : (onComp n f d).recd = d.recd := rfl
@[simp] theorem onComp_sleep (n : Fin 4) (f : Companion → Companion) (d : Dev) : (onComp n f d).sleep = d.sleep := rfl
@[simp] theorem onComp_load (n : Fin 4) (f : Companion → Companion) (d : Dev) : (onComp n f d).load = { d.load with comp := vmod d.load.comp n f } := rfl
@[simp] theorem onComp_host (n : Fin 4) (f : Companion → Companion) (d : Dev) : (onComp n f d).host = d.host := rfl
@[simp] theorem onComp_pow (n : Fin 4) (f : Companion → Companion) (d : Dev) : (onComp n f d).pow = d.pow := rfl
@[simp] theorem onComp_health (n : Fin 4) (f : Companion → Companion) (d : Dev) : (onComp n f d).health = d.health := rfl
@[simp] theorem onComp_sec (n : Fin 4) (f : Companion → Companion) (d : Dev) : (onComp n f d).sec = d.sec := rfl
@[simp] theorem onComp_pins (n : Fin 4) (f : Companion → Companion) (d : Dev) : (onComp n f d).pins = d.pins := rfl

@[simp] theorem onHost_now (f : HostS → HostS) (d : Dev) : (onHost f d).now = d.now := rfl
@[simp] theorem onHost_fresh (f : HostS → HostS) (d : Dev) : (onHost f d).fresh = d.fresh := rfl
@[simp] theorem onHost_out (f : HostS → HostS) (d : Dev) : (onHost f d).out = d.out := rfl
@[simp] theorem onHost_dict (f : HostS → HostS) (d : Dev) : (onHost f d).dict = d.dict := rfl
@[simp] theorem onHost_node (f : HostS → HostS) (d : Dev) : (onHost f d).node = d.node := rfl
@[simp] theorem onHost_chip (f : HostS → HostS) (d : Dev) : (onHost f d).chip = d.chip := rfl
@[simp] theorem onHost_inaug (f : HostS → HostS) (d : Dev) : (onHost f d).inaug = d.inaug := rfl
@[simp] theorem onHost_fab (f : HostS → HostS) (d : Dev) : (onHost f d).fab = d.fab := rfl
@[simp] theorem onHost_ports (f : HostS → HostS) (d : Dev) : (onHost f d).ports = d.ports := rfl
@[simp] theorem onHost_time (f : HostS → HostS) (d : Dev) : (onHost f d).time = d.time := rfl
@[simp] theorem onHost_sched (f : HostS → HostS) (d : Dev) : (onHost f d).sched = d.sched := rfl
@[simp] theorem onHost_strm (f : HostS → HostS) (d : Dev) : (onHost f d).strm = d.strm := rfl
@[simp] theorem onHost_can (f : HostS → HostS) (d : Dev) : (onHost f d).can = d.can := rfl
@[simp] theorem onHost_gw (f : HostS → HostS) (d : Dev) : (onHost f d).gw = d.gw := rfl
@[simp] theorem onHost_chk (f : HostS → HostS) (d : Dev) : (onHost f d).chk = d.chk := rfl
@[simp] theorem onHost_recd (f : HostS → HostS) (d : Dev) : (onHost f d).recd = d.recd := rfl
@[simp] theorem onHost_sleep (f : HostS → HostS) (d : Dev) : (onHost f d).sleep = d.sleep := rfl
@[simp] theorem onHost_load (f : HostS → HostS) (d : Dev) : (onHost f d).load = d.load := rfl
@[simp] theorem onHost_host (f : HostS → HostS) (d : Dev) : (onHost f d).host = f d.host := rfl
@[simp] theorem onHost_pow (f : HostS → HostS) (d : Dev) : (onHost f d).pow = d.pow := rfl
@[simp] theorem onHost_health (f : HostS → HostS) (d : Dev) : (onHost f d).health = d.health := rfl
@[simp] theorem onHost_sec (f : HostS → HostS) (d : Dev) : (onHost f d).sec = d.sec := rfl
@[simp] theorem onHost_pins (f : HostS → HostS) (d : Dev) : (onHost f d).pins = d.pins := rfl

@[simp] theorem onRing_now (r : Fin 10) (f : Ring → Ring) (d : Dev) : (onRing r f d).now = d.now := rfl
@[simp] theorem onRing_fresh (r : Fin 10) (f : Ring → Ring) (d : Dev) : (onRing r f d).fresh = d.fresh := rfl
@[simp] theorem onRing_out (r : Fin 10) (f : Ring → Ring) (d : Dev) : (onRing r f d).out = d.out := rfl
@[simp] theorem onRing_dict (r : Fin 10) (f : Ring → Ring) (d : Dev) : (onRing r f d).dict = d.dict := rfl
@[simp] theorem onRing_node (r : Fin 10) (f : Ring → Ring) (d : Dev) : (onRing r f d).node = d.node := rfl
@[simp] theorem onRing_chip (r : Fin 10) (f : Ring → Ring) (d : Dev) : (onRing r f d).chip = d.chip := rfl
@[simp] theorem onRing_inaug (r : Fin 10) (f : Ring → Ring) (d : Dev) : (onRing r f d).inaug = d.inaug := rfl
@[simp] theorem onRing_fab (r : Fin 10) (f : Ring → Ring) (d : Dev) : (onRing r f d).fab = d.fab := rfl
@[simp] theorem onRing_ports (r : Fin 10) (f : Ring → Ring) (d : Dev) : (onRing r f d).ports = d.ports := rfl
@[simp] theorem onRing_time (r : Fin 10) (f : Ring → Ring) (d : Dev) : (onRing r f d).time = d.time := rfl
@[simp] theorem onRing_sched (r : Fin 10) (f : Ring → Ring) (d : Dev) : (onRing r f d).sched = d.sched := rfl
@[simp] theorem onRing_strm (r : Fin 10) (f : Ring → Ring) (d : Dev) : (onRing r f d).strm = d.strm := rfl
@[simp] theorem onRing_can (r : Fin 10) (f : Ring → Ring) (d : Dev) : (onRing r f d).can = d.can := rfl
@[simp] theorem onRing_gw (r : Fin 10) (f : Ring → Ring) (d : Dev) : (onRing r f d).gw = d.gw := rfl
@[simp] theorem onRing_chk (r : Fin 10) (f : Ring → Ring) (d : Dev) : (onRing r f d).chk = d.chk := rfl
@[simp] theorem onRing_recd (r : Fin 10) (f : Ring → Ring) (d : Dev) : (onRing r f d).recd = d.recd := rfl
@[simp] theorem onRing_sleep (r : Fin 10) (f : Ring → Ring) (d : Dev) : (onRing r f d).sleep = d.sleep := rfl
@[simp] theorem onRing_load (r : Fin 10) (f : Ring → Ring) (d : Dev) : (onRing r f d).load = d.load := rfl
@[simp] theorem onRing_host (r : Fin 10) (f : Ring → Ring) (d : Dev) : (onRing r f d).host = { d.host with rings := vmod d.host.rings r f } := rfl
@[simp] theorem onRing_pow (r : Fin 10) (f : Ring → Ring) (d : Dev) : (onRing r f d).pow = d.pow := rfl
@[simp] theorem onRing_health (r : Fin 10) (f : Ring → Ring) (d : Dev) : (onRing r f d).health = d.health := rfl
@[simp] theorem onRing_sec (r : Fin 10) (f : Ring → Ring) (d : Dev) : (onRing r f d).sec = d.sec := rfl
@[simp] theorem onRing_pins (r : Fin 10) (f : Ring → Ring) (d : Dev) : (onRing r f d).pins = d.pins := rfl

@[simp] theorem onPow_now (f : PowerS → PowerS) (d : Dev) : (onPow f d).now = d.now := rfl
@[simp] theorem onPow_fresh (f : PowerS → PowerS) (d : Dev) : (onPow f d).fresh = d.fresh := rfl
@[simp] theorem onPow_out (f : PowerS → PowerS) (d : Dev) : (onPow f d).out = d.out := rfl
@[simp] theorem onPow_dict (f : PowerS → PowerS) (d : Dev) : (onPow f d).dict = d.dict := rfl
@[simp] theorem onPow_node (f : PowerS → PowerS) (d : Dev) : (onPow f d).node = d.node := rfl
@[simp] theorem onPow_chip (f : PowerS → PowerS) (d : Dev) : (onPow f d).chip = d.chip := rfl
@[simp] theorem onPow_inaug (f : PowerS → PowerS) (d : Dev) : (onPow f d).inaug = d.inaug := rfl
@[simp] theorem onPow_fab (f : PowerS → PowerS) (d : Dev) : (onPow f d).fab = d.fab := rfl
@[simp] theorem onPow_ports (f : PowerS → PowerS) (d : Dev) : (onPow f d).ports = d.ports := rfl
@[simp] theorem onPow_time (f : PowerS → PowerS) (d : Dev) : (onPow f d).time = d.time := rfl
@[simp] theorem onPow_sched (f : PowerS → PowerS) (d : Dev) : (onPow f d).sched = d.sched := rfl
@[simp] theorem onPow_strm (f : PowerS → PowerS) (d : Dev) : (onPow f d).strm = d.strm := rfl
@[simp] theorem onPow_can (f : PowerS → PowerS) (d : Dev) : (onPow f d).can = d.can := rfl
@[simp] theorem onPow_gw (f : PowerS → PowerS) (d : Dev) : (onPow f d).gw = d.gw := rfl
@[simp] theorem onPow_chk (f : PowerS → PowerS) (d : Dev) : (onPow f d).chk = d.chk := rfl
@[simp] theorem onPow_recd (f : PowerS → PowerS) (d : Dev) : (onPow f d).recd = d.recd := rfl
@[simp] theorem onPow_sleep (f : PowerS → PowerS) (d : Dev) : (onPow f d).sleep = d.sleep := rfl
@[simp] theorem onPow_load (f : PowerS → PowerS) (d : Dev) : (onPow f d).load = d.load := rfl
@[simp] theorem onPow_host (f : PowerS → PowerS) (d : Dev) : (onPow f d).host = d.host := rfl
@[simp] theorem onPow_pow (f : PowerS → PowerS) (d : Dev) : (onPow f d).pow = f d.pow := rfl
@[simp] theorem onPow_health (f : PowerS → PowerS) (d : Dev) : (onPow f d).health = d.health := rfl
@[simp] theorem onPow_sec (f : PowerS → PowerS) (d : Dev) : (onPow f d).sec = d.sec := rfl
@[simp] theorem onPow_pins (f : PowerS → PowerS) (d : Dev) : (onPow f d).pins = d.pins := rfl

@[simp] theorem onHealth_now (f : HealthS → HealthS) (d : Dev) : (onHealth f d).now = d.now := rfl
@[simp] theorem onHealth_fresh (f : HealthS → HealthS) (d : Dev) : (onHealth f d).fresh = d.fresh := rfl
@[simp] theorem onHealth_out (f : HealthS → HealthS) (d : Dev) : (onHealth f d).out = d.out := rfl
@[simp] theorem onHealth_dict (f : HealthS → HealthS) (d : Dev) : (onHealth f d).dict = d.dict := rfl
@[simp] theorem onHealth_node (f : HealthS → HealthS) (d : Dev) : (onHealth f d).node = d.node := rfl
@[simp] theorem onHealth_chip (f : HealthS → HealthS) (d : Dev) : (onHealth f d).chip = d.chip := rfl
@[simp] theorem onHealth_inaug (f : HealthS → HealthS) (d : Dev) : (onHealth f d).inaug = d.inaug := rfl
@[simp] theorem onHealth_fab (f : HealthS → HealthS) (d : Dev) : (onHealth f d).fab = d.fab := rfl
@[simp] theorem onHealth_ports (f : HealthS → HealthS) (d : Dev) : (onHealth f d).ports = d.ports := rfl
@[simp] theorem onHealth_time (f : HealthS → HealthS) (d : Dev) : (onHealth f d).time = d.time := rfl
@[simp] theorem onHealth_sched (f : HealthS → HealthS) (d : Dev) : (onHealth f d).sched = d.sched := rfl
@[simp] theorem onHealth_strm (f : HealthS → HealthS) (d : Dev) : (onHealth f d).strm = d.strm := rfl
@[simp] theorem onHealth_can (f : HealthS → HealthS) (d : Dev) : (onHealth f d).can = d.can := rfl
@[simp] theorem onHealth_gw (f : HealthS → HealthS) (d : Dev) : (onHealth f d).gw = d.gw := rfl
@[simp] theorem onHealth_chk (f : HealthS → HealthS) (d : Dev) : (onHealth f d).chk = d.chk := rfl
@[simp] theorem onHealth_recd (f : HealthS → HealthS) (d : Dev) : (onHealth f d).recd = d.recd := rfl
@[simp] theorem onHealth_sleep (f : HealthS → HealthS) (d : Dev) : (onHealth f d).sleep = d.sleep := rfl
@[simp] theorem onHealth_load (f : HealthS → HealthS) (d : Dev) : (onHealth f d).load = d.load := rfl
@[simp] theorem onHealth_host (f : HealthS → HealthS) (d : Dev) : (onHealth f d).host = d.host := rfl
@[simp] theorem onHealth_pow (f : HealthS → HealthS) (d : Dev) : (onHealth f d).pow = d.pow := rfl
@[simp] theorem onHealth_health (f : HealthS → HealthS) (d : Dev) : (onHealth f d).health = f d.health := rfl
@[simp] theorem onHealth_sec (f : HealthS → HealthS) (d : Dev) : (onHealth f d).sec = d.sec := rfl
@[simp] theorem onHealth_pins (f : HealthS → HealthS) (d : Dev) : (onHealth f d).pins = d.pins := rfl

@[simp] theorem onTracker_now (f : Tracker → Tracker) (d : Dev) : (onTracker f d).now = d.now := rfl
@[simp] theorem onTracker_fresh (f : Tracker → Tracker) (d : Dev) : (onTracker f d).fresh = d.fresh := rfl
@[simp] theorem onTracker_out (f : Tracker → Tracker) (d : Dev) : (onTracker f d).out = d.out := rfl
@[simp] theorem onTracker_dict (f : Tracker → Tracker) (d : Dev) : (onTracker f d).dict = d.dict := rfl
@[simp] theorem onTracker_node (f : Tracker → Tracker) (d : Dev) : (onTracker f d).node = d.node := rfl
@[simp] theorem onTracker_chip (f : Tracker → Tracker) (d : Dev) : (onTracker f d).chip = d.chip := rfl
@[simp] theorem onTracker_inaug (f : Tracker → Tracker) (d : Dev) : (onTracker f d).inaug = d.inaug := rfl
@[simp] theorem onTracker_fab (f : Tracker → Tracker) (d : Dev) : (onTracker f d).fab = d.fab := rfl
@[simp] theorem onTracker_ports (f : Tracker → Tracker) (d : Dev) : (onTracker f d).ports = d.ports := rfl
@[simp] theorem onTracker_time (f : Tracker → Tracker) (d : Dev) : (onTracker f d).time = d.time := rfl
@[simp] theorem onTracker_sched (f : Tracker → Tracker) (d : Dev) : (onTracker f d).sched = d.sched := rfl
@[simp] theorem onTracker_strm (f : Tracker → Tracker) (d : Dev) : (onTracker f d).strm = d.strm := rfl
@[simp] theorem onTracker_can (f : Tracker → Tracker) (d : Dev) : (onTracker f d).can = d.can := rfl
@[simp] theorem onTracker_gw (f : Tracker → Tracker) (d : Dev) : (onTracker f d).gw = d.gw := rfl
@[simp] theorem onTracker_chk (f : Tracker → Tracker) (d : Dev) : (onTracker f d).chk = d.chk := rfl
@[simp] theorem onTracker_recd (f : Tracker → Tracker) (d : Dev) : (onTracker f d).recd = d.recd := rfl
@[simp] theorem onTracker_sleep (f : Tracker → Tracker) (d : Dev) : (onTracker f d).sleep = d.sleep := rfl
@[simp] theorem onTracker_load (f : Tracker → Tracker) (d : Dev) : (onTracker f d).load = d.load := rfl
@[simp] theorem onTracker_host (f : Tracker → Tracker) (d : Dev) : (onTracker f d).host = d.host := rfl
@[simp] theorem onTracker_pow (f : Tracker → Tracker) (d : Dev) : (onTracker f d).pow = d.pow := rfl
@[simp] theorem onTracker_health (f : Tracker → Tracker) (d : Dev) : (onTracker f d).health = { d.health with tracker := f d.health.tracker } := rfl
@[simp] theorem onTracker_sec (f : Tracker → Tracker) (d : Dev) : (onTracker f d).sec = d.sec := rfl
@[simp] theorem onTracker_pins (f : Tracker → Tracker) (d : Dev) : (onTracker f d).pins = d.pins := rfl

@[simp] theorem onSec_now (f : SecS → SecS) (d : Dev) : (onSec f d).now = d.now := rfl
@[simp] theorem onSec_fresh (f : SecS → SecS) (d : Dev) : (onSec f d).fresh = d.fresh := rfl
@[simp] theorem onSec_out (f : SecS → SecS) (d : Dev) : (onSec f d).out = d.out := rfl
@[simp] theorem onSec_dict (f : SecS → SecS) (d : Dev) : (onSec f d).dict = d.dict := rfl
@[simp] theorem onSec_node (f : SecS → SecS) (d : Dev) : (onSec f d).node = d.node := rfl
@[simp] theorem onSec_chip (f : SecS → SecS) (d : Dev) : (onSec f d).chip = d.chip := rfl
@[simp] theorem onSec_inaug (f : SecS → SecS) (d : Dev) : (onSec f d).inaug = d.inaug := rfl
@[simp] theorem onSec_fab (f : SecS → SecS) (d : Dev) : (onSec f d).fab = d.fab := rfl
@[simp] theorem onSec_ports (f : SecS → SecS) (d : Dev) : (onSec f d).ports = d.ports := rfl
@[simp] theorem onSec_time (f : SecS → SecS) (d : Dev) : (onSec f d).time = d.time := rfl
@[simp] theorem onSec_sched (f : SecS → SecS) (d : Dev) : (onSec f d).sched = d.sched := rfl
@[simp] theorem onSec_strm (f : SecS → SecS) (d : Dev) : (onSec f d).strm = d.strm := rfl
@[simp] theorem onSec_can (f : SecS → SecS) (d : Dev) : (onSec f d).can = d.can := rfl
@[simp] theorem onSec_gw (f : SecS → SecS) (d : Dev) : (onSec f d).gw = d.gw := rfl
@[simp] theorem onSec_chk (f : SecS → SecS) (d : Dev) : (onSec f d).chk = d.chk := rfl
@[simp] theorem onSec_recd (f : SecS → SecS) (d : Dev) : (onSec f d).recd = d.recd := rfl
@[simp] theorem onSec_sleep (f : SecS → SecS) (d : Dev) : (onSec f d).sleep = d.sleep := rfl
@[simp] theorem onSec_load (f : SecS → SecS) (d : Dev) : (onSec f d).load = d.load := rfl
@[simp] theorem onSec_host (f : SecS → SecS) (d : Dev) : (onSec f d).host = d.host := rfl
@[simp] theorem onSec_pow (f : SecS → SecS) (d : Dev) : (onSec f d).pow = d.pow := rfl
@[simp] theorem onSec_health (f : SecS → SecS) (d : Dev) : (onSec f d).health = d.health := rfl
@[simp] theorem onSec_sec (f : SecS → SecS) (d : Dev) : (onSec f d).sec = f d.sec := rfl
@[simp] theorem onSec_pins (f : SecS → SecS) (d : Dev) : (onSec f d).pins = d.pins := rfl

@[simp] theorem onPort_ports (p : Port) (f : PortS → PortS) (d : Dev) : (onPort p f d).ports = { d.ports with p := vmod d.ports.p p f } := rfl

@[simp] theorem onPortTime_time (p : Port) (f : PortTime → PortTime) (d : Dev) : (onPortTime p f d).time = { d.time with ports := vmod d.time.ports p f } := rfl

@[simp] theorem vmod_self {α : Type} {n : Nat} (v : Vector α n) (i : Fin n) (f : α → α) :
    (vmod v i f)[i.val] = f v[i.val] := by simp [vmod]

@[simp] theorem vmod_at {α : Type} {n : Nat} (v : Vector α n) (i : Fin n) (f : α → α) : (vmod v i f)[i] = f v[i] := by
  simp [vmod]

theorem vmod_other {α : Type} {n : Nat} (v : Vector α n) (i j : Fin n) (f : α → α) (h : i ≠ j) : (vmod v i f)[j] = v[j] := by
  simp only [vmod, Fin.getElem_fin]
  exact Vector.getElem_set_ne _ _ (by intro hv; exact h (Fin.ext hv))

@[simp] theorem does_pending (s t : State) (f : Dev → Dev) (h : s.does f = .next t) : t.pending = s.pending := by
  simp only [State.does, Host.Outcome.next.injEq] at h
  rw [← h]

/-- What a command that changes the device by `f` answers: always a next state, with the queue as it was. -/
theorem State.does_next (s : State) (f : Dev → Dev) :
    s.does f = .next { s with dev := f { s.dev with out := [] } } := rfl

end Sys2Proof.Machine
end

