-- ==== Sys2Proof/Tests/Slice0.lean ====
section
/-! SUPPORT. Tests: terms that the well-formedness checks refuse, examples of the spec, and, for each statement, states and
operands that meet all its hypotheses together.  What a signature check answers is a free value (`Config.ecdsaVerify`), so the
clauses for an accepted signature have witnesses only up to that answer. -/

-- one declaration after the other: the package is also compiled as one text, in limited memory
set_option Elab.async false

namespace Sys2Proof.Machine.Tests

/-! ### Terms that the well-formedness checks refuse, one for each check, beside terms that they pass -/

def okHeader : ScHeader :=
  { protocol := 0x5C, version := 1, laneB := false, more := false, originator := 5, round := 9, seq := 1, length := 12, hops := 0, segment := 0 }

def okCan : CanFrame := { ident := 0x7FF, extended := false, remote := false, fdf := false, res := false, brs := false, esi := false, dlc := 1, data := [9] }

def okEntry : CommitEntry :=
  { ident := 5, node := 1, consist := 2, vehicle := 1, inverse := false, consistInverse := false, primary := true, held := false }

def okBody : CommitBody :=
  { epoch := 1, topo := 0, countdown := 9, nodes := 1, consists := 2, refEnd := 5, entries := [okEntry] }

def okDist : DistHeader :=
  { version := 1, length := 1024, identity := 11, generation := 4, activation := 0, number := 0, crc := 0, reserved := 0 }

theorem test_well_formed_frames : (RxFrame.ok ⟨List.replicate 9217 0, true, false, false⟩) = true ∧
    (RxFrame.ok ⟨List.replicate 9218 0, true, false, false⟩) = false := by decide +kernel

theorem test_well_formed_can : (okCan.ok && { okCan with fdf := true, dlc := 9, data := List.replicate 12 0 }.ok) = true ∧
    { okCan with dlc := 2 }.ok = false ∧ { okCan with remote := true }.ok = false ∧ { okCan with ident := 0x800 }.ok = false ∧
    { okCan with fdf := true, remote := true, data := [] }.ok = false ∧ { okCan with brs := true }.ok = false ∧ { okCan with res := true }.ok = false := by decide +kernel

theorem test_well_formed_springcount : okHeader.ok = true ∧ { okHeader with originator := 0 }.ok = false ∧ okBody.ok = true ∧
    { okBody with consists := 1 }.ok = false ∧ (Instr.springcountCommit 0 okHeader ⟨okBody, [⟨1, 2⟩]⟩).wellFormed = true ∧
    (Instr.springcountCommit 0 okHeader ⟨okBody, []⟩).wellFormed = false ∧
    (Instr.ack 0 { okHeader with originator := 0 } 1 1).wellFormed = false := by decide +kernel

theorem test_well_formed_commands : (Instr.macControlFrame 4 1).wellFormed = false ∧ (Instr.macControlFrame 4 2).wellFormed = true ∧
    (Instr.ttdpTopologyValid ⟨[], [okEntry], 0, 1, 5⟩).wellFormed = false ∧ (Instr.sensorScan []).wellFormed = false ∧
    (Instr.pdTelegram ⟨1, 17224, 0x5064, 1, 0, 1, 0, true, List.replicate 1433 0⟩).wellFormed = false ∧
    (Instr.avtpPacket ⟨1, 2, 2, false, 1, 7, 0, 4, 5, 2, 16, List.replicate 1477 0⟩).wellFormed = false ∧
    (Instr.chunk 0 okDist.toDistHead okDist.toDistTail (List.replicate 1025 0)).wellFormed = false ∧
    (Instr.chunk 0 okDist.toDistHead okDist.toDistTail (List.replicate 1024 0)).wellFormed = true := by decide +kernel

/-! ### States to start from -/

/-- A state of one device, with no command waiting. -/
def run (d : Dev) : State := { dev := d, pending := [] }

/-- A node in service with both host paths, SDO on controller 0, and a Maintainer on every path. -/
def node : Dev :=
  let d := State.reset.dev
  setReg 0x2010 9 1 (setReg 0x2010 1 2 (setReg 0x2010 0x0F 2 (setReg 0x2010 0x10 2 { d with
    pow := { d.pow with state := .active, agentReady := true, booted := true, porN := true, safeN := true, bootStep := 9 }
    pins := { d.pins with strapPcie := true, strapHsp := true }
    host := { d.host with linkUp := true } })))

/-- The node with every port Up. -/
def net : Dev := { node with ports := { node.ports with p := Vector.replicate 20 { node.ports.p[0] with link := .up } } }

/-- A peer of KDA on port 4 that names the port's own address of the node. -/
def peer : KdaPeer :=
  { port := 4, mac := 0x020304050607, ip := 0x0A000005, udp := 40000, own := BitVec.ofNat 32 (cfg net 0x2800 2) }

/-- A session 7 of KDA of that peer, with the role Maintainer. -/
def session : KdaSession :=
  { id := 7, open_ := true, role := 2, peer := peer, key := [1], transcript := [], lastSeq := 3, stored := some (0x11, [9]), deadline := 50 }

def kda : Dev := onDict (fun q => { q with sessions := [session] }) net

/-- Frames of the session with 14 bytes of payload: the next in sequence, and the last one again. -/
def kdaNext : KdaHeader :=
  { peer := peer, udpPort := 17394, ipv4 := true, fragmented := false, magic := 0x4B44, version := 1, session := 7, seq := 4, length := 14
    reserved := 0, tagOk := true }
def kdaAgain : KdaHeader := { kdaNext with seq := 3 }
def kdaEmpty : KdaHeader := { kdaNext with length := 0 }

/-- A Springcount header of another node. -/
def header : ScHeader :=
  { protocol := 0x5C, version := 1, laneB := false, more := false, originator := 0x010203040506, round := 9, seq := 1, length := 8, hops := 0
    segment := 0 }

/-- The header of a frame with `n` bytes of payload. -/
def sized (n : Nat) (h : ScHeader) : ScHeader := { h with length := BitVec.ofNat 16 n }

/-- A staged write of 0x2002:07, the idle time. -/
def stagedIdle : Staged := { idx := 0x2002, sub := 7, val := .num 30, spans := [] }

/-- The dictionary agent changed. -/
def withDict (f : DictS → DictS) : Dev := onDict f node

/-! ### What the statements about the machine ask for -/

theorem met_step : ({ run node with pending := [.fastStartTimeout] } : State).pending = .fastStartTimeout :: [] ∧ (run node).pending = [] :=
  ⟨rfl, rfl⟩

theorem met_valid_step : (run node).dev.Valid ∧ ∃ t, step { run node with pending := [.fastStartTimeout] } = .next t :=
  ⟨by unfold Dev.Valid Dev.Canonical DictS.Canonical HostS.Canonical TimeS.Bounded; decide, ⟨_, rfl⟩⟩

theorem test_edge : ∃ t, step (run node) = .next t ∧ t.dev.now = node.now + 4 := ⟨_, rfl, by decide⟩

/-! ### Profiles -/

def fast : Dev := { node with node := { node.node with fastEnd := some 5, profile := 2, before := 0 } }

theorem met_fast_start : fast.node.fastEnd = some 5 ∧ fast.node.profile = 2 ∧ fast.node.before ≠ 2 ∧ gradeMax fast - 100 ≤ 1050 ∧
    ¬ gradeMax fast - 100 ≤ 1049 ∧ node.node.profile ≠ 2 := by decide

def commissioning (step : Nat) : Dev := { node with node := { node.node with profile := 3, testStep := step } }

theorem met_tests : (commissioning 2).node.profile = 3 ∧ (commissioning 2).node.stepBusy = false ∧ (commissioning 2).node.testStep % 2 = 0 ∧
    (commissioning 2).fab.engine0 = .inService ∧ (commissioning 2).fab.engine1 = .inService ∧
    (commissioning 1).node.testStep % 2 ≠ 0 ∧ nextRotation (commissioning 1) = some 0 ∧ mayRotate (commissioning 1) 0 = true := by decide

def testing : Dev := onFab (fun f => { f with engine1 := .selfTest, works := [⟨3, some 8, true, 5, 0⟩] }) node

theorem met_test_ends : engineOf testing.fab true = .selfTest ∧ testing.node.nextProfile = none ∧
    testing.fab.works.find? (·.rotation) = some ⟨3, some 8, true, 5, 0⟩ := by decide

/-! ### The dictionary agent -/

theorem met_served : Served node (.sdo 0) ∧ Served node .pcie ∧ Served node .serial := by unfold Served; decide

theorem met_served_kda : Served kda (.kda 7 4) := by
  unfold Served KdaReaches
  exact ⟨rfl, rfl, rfl, rfl, rfl, session, rfl, rfl, rfl, rfl, by decide, by decide, by decide, by decide, by decide⟩

theorem met_staged_write : ∃ row v, checkWrite node (roleOf node .pcie) 0x2002 7 0 [30, 0] = .ok (row, v) ∧ row.imm = false ∧
    stageError node .pcie { idx := 0x2002, sub := 7, val := v, spans := [] } = none := ⟨_, _, rfl, rfl, rfl⟩

theorem met_refused_write : rowOf 0x2004 0 = none ∧ indexExists 0x2004 = false ∧ rowOf 0x2002 0x20 = none ∧ indexExists 0x2002 = true ∧
    (∃ row, rowOf 0x2002 3 = some row ∧ row.writes (roleOf node .pcie) = false) ∧
    (∃ row, rowOf 0x2002 7 = some row ∧ row.writes (roleOf node .pcie) = true ∧ row.ty.fixed = some 2 ∧ row.imm = false) ∧
    stageError (withDict fun q => { q with staged := [stagedIdle], owner := some .serial }) .pcie stagedIdle = some 0x0F000002 :=
  ⟨by decide, by decide, by decide, by decide, ⟨_, rfl, by decide⟩, ⟨_, rfl, by decide⟩, by decide⟩

def staging : Dev := withDict fun q => { q with staged := [stagedIdle], owner := some .pcie, idleDeadline := some 60, epoch := 41 }

def rounds (st : InState) (d : Dev) : Dev := onInaug (fun i => { i with state := st }) d

theorem met_commit : Served staging .pcie ∧ inRound staging = false ∧ inRound (rounds .reporting staging) = true ∧
    staging.dict.heldCommit = none ∧ staging.sleep.state ≠ .committing ∧ staging.dict.owner ≠ some .serial ∧
    validateSet (touchIdle (run staging).found) = none := by unfold Served; decide

theorem met_commit_role : MayWrite staging .pcie 0x2002 1 ∧ MayWrite staging .pcie 0x2002 2 ∧ MayWrite staging .pcie 0x2002 6 :=
  ⟨⟨_, rfl, by decide⟩, ⟨_, rfl, by decide⟩, ⟨_, rfl, by decide⟩⟩

def held : Dev := onDict (fun q => { q with heldCommit := some ⟨.pcie, 9, 3⟩ }) staging

theorem met_held_commit : held.dict.heldCommit = some ⟨.pcie, 9, 3⟩ ∧ 3 ≠ held.inaug.now.epoch ∧
    validateSet (onDict (fun q => { q with heldCommit := none }) (run held).found) = none := by decide

def applying : Dev := withDict fun q => { q with commit := some ⟨.pcie, [stagedIdle], 20000, false, none⟩ }

def bootLoad : Dev := { node with pow := { node.pow with state := .booting, booted := false, bootStep := 8 } }

theorem met_apply : applying.dict.commit ≠ none ∧ applying.dict.queue = [] ∧ applying.sec.level = 0 ∧ bootLoad.dict.commit = none ∧
    bootLoad.dict.queue = [] ∧ bootLoad.pow.agentReady = true ∧ bootLoad.pow.booted = false ∧ bootLoad.pow.bootStep = 8 ∧
    sdoOn applying 0 = true ∧ applying.pow.agentReady = true := by decide

theorem met_fence : (withDict fun q => { q with fence := some (.pcie, 8) }).dict.fence = some (.pcie, 8) ∧
    (withDict fun q => { q with fence := some (.pcie, 8) }).dict.queue = [] ∧ sdoOn node 0 = true ∧
    sdoOn { node with pow := { node.pow with agentReady := false } } 0 = true := by decide

def placed : Dev := { node with sched := { node.sched with gates := [⟨4, 0, 10, 1, 1, 64, false, false, 0, 1⟩] } }

theorem met_counter_clear : MayWrite node .pcie 0x2003 1 ∧ MayWrite node .pcie 0x2003 0x0A ∧ MayWrite node .pcie 0x2E10 5 ∧
    MayWrite node .pcie 0x2E4F 7 ∧ MayWrite node .pcie 0x2901 6 ∧ MayWrite placed .pcie 0x2504 2 ∧ MayWrite placed .pcie 0x2504 8 ∧
    selectedPlaced placed = true :=
  ⟨⟨_, rfl, by decide⟩, ⟨_, rfl, by decide⟩, ⟨_, rfl, by decide⟩, ⟨_, rfl, by decide⟩, ⟨_, rfl, by decide⟩, ⟨_, rfl, by decide⟩,
    ⟨_, rfl, by decide⟩, by decide⟩

def noMedium : Dev := { node with recd := { node.recd with mediumFailed := true } }

theorem met_save : MayWrite node .pcie 0x1010 1 ∧ MayWrite node .pcie 0x1011 1 ∧ emmcReady node = true ∧
    MayWrite noMedium .pcie 0x1010 1 ∧ MayWrite noMedium .pcie 0x1011 1 ∧ emmcReady noMedium = false ∧ Served noMedium .pcie :=
  ⟨⟨_, rfl, by decide⟩, ⟨_, rfl, by decide⟩, by decide, ⟨_, rfl, by decide⟩, ⟨_, rfl, by decide⟩, by decide, by unfold Served; decide⟩

def imaged : Dev := withDict fun q => { q with image := [1, 2], imageStatus := 1 }
def verifying : Dev := withDict fun q => { q with image := [1, 2], imageStatus := 2, imageBy := some .pcie }

theorem met_image : MayWrite imaged .pcie 0x2011 1 ∧ MayWrite imaged .pcie 0x2011 2 ∧ Served imaged .pcie ∧ imaged.dict.imageStatus ≠ 2 ∧
    imaged.dict.imageBy = none ∧ (2 : BitVec 32).toNat ≤ (presentBytes imaged 0x2011 1).length ∧
    (presentBytes imaged 0x2011 1).length + 16777214 ≤ 16777216 ∧
    verifying.dict.imageStatus = 2 ∧ verifying.dict.imageBy = some .pcie ∧ imageVerdict verifying verifying.dict.image = 0x0F000007 :=
  ⟨⟨_, rfl, by decide⟩, ⟨_, rfl, by decide⟩, by unfold Served; decide, by decide, by decide, by decide, by decide, by decide, by decide,
    by rfl⟩

/-! ### Access paths -/

theorem met_sdo : (∃ row v, checkWrite node (cfg node 0x2010 1) 0x2002 7 0 [30, 0] = .ok (row, v) ∧ row.imm = false ∧
      stageError node (.sdo 0) { idx := 0x2002, sub := 7, val := v, spans := [] } = none) ∧
    (∃ bs, judgeRead node (sdoReads 0 0x2002 7) = .ok bs) ∧
    (withDict fun q => { q with sdo := q.sdo.set 0 (some ⟨0x2002, 7, 12⟩) }).dict.sdo[(0 : CanId)] = some ⟨0x2002, 7, 12⟩ :=
  ⟨⟨_, _, rfl, rfl, rfl⟩, ⟨_, rfl⟩, rfl⟩

theorem met_session : InSession kda kdaNext 14 session ∧ InSession kda kdaAgain 14 session ∧ InSession kda kdaEmpty 0 session ∧ (∀ id, kda.dict.owner ≠ some (.kda id)) ∧
    session.stored = some (0x11, [9]) ∧ kdaAgain.seq = session.lastSeq ∧ kdaNext.seq = session.lastSeq + 1 := by
  unfold InSession KdaHears KdaReaches
  exact ⟨by decide, by decide, by decide, fun id => show (none : Option Session) ≠ some (.kda id) from nofun, rfl, by decide, by decide⟩

theorem met_session_requests :
    (∃ bs, judgeRead kda { src := .kda 7 4, idx := 0x2002, sub := 7, off := 0, op := .read 2, phy := none } = .ok bs) ∧
    requestBlock [0x20, 0x02, 7, 0, 0, 0, 0, 0, 0, 2, 0, 0, 30, 0] = (0x2002, 7, 0, 2) ∧
    (∃ row v, checkWrite kda session.role 0x2002 7 0 [30, 0] = .ok (row, v) ∧ row.imm = false ∧
      stageError kda (.kda 7) { idx := 0x2002, sub := 7, val := v, spans := [] } = none) :=
  ⟨⟨_, rfl⟩, by decide, ⟨_, _, rfl, rfl, rfl⟩⟩

theorem met_session_drop : KdaHears kda { kdaNext with tagOk := false } 14 ∧ KdaHears net kdaNext 14 ∧
    sessionOf net 7 = none := by
  unfold KdaHears KdaReaches; decide

def opening : KdaHeader := { kdaNext with session := 0, seq := 0, length := 84 }
def crowded : Dev := onDict (fun q => { q with sessions := List.replicate 32 session }) net
def locked : Dev := { net with sec := { net.sec with proofLockEnd := some 7 } }

theorem met_open : KdaHears net opening 84 ∧ net.sec.randomOk = true ∧ net.sec.proofLockEnd = none ∧
    net.dict.sessions.length < cfg net 0x2010 0x0D ∧ KdaHears crowded opening 84 ∧ cfg crowded 0x2010 0x0D ≤ crowded.dict.sessions.length ∧
    KdaHears locked opening 84 ∧ locked.sec.proofLockEnd = some 7 := by unfold KdaHears KdaReaches; decide

def half : KdaSession := { session with open_ := false, transcript := [2, 1], stored := none, lastSeq := 0 }
def proving : Dev := onDict (fun q => { q with sessions := [half] }) net
def proofFrame : KdaHeader := { kdaNext with seq := 0, length := 0 }

theorem met_proof : KdaHears proving proofFrame 0 ∧ sessionOf proving 7 = some half ∧ slotRole proving 1 2 = some 2 ∧
    slotRole proving 1 3 = some 3 ∧ (∃ key, slotKey proving 1 = some key) ∧ ([] : List Byte).length ≠ 64 ∧
    (∀ id, proving.dict.owner ≠ some (.kda id)) :=
  ⟨by unfold KdaHears KdaReaches; decide, rfl, by decide, by decide, ⟨_, rfl⟩, by decide,
    fun id => show (none : Option Session) ≠ some (.kda id) from nofun⟩

def window (bs : List Byte) (busy : Bool) (d : Dev) : Dev :=
  onMailbox .pcie (fun m => { m with window := Memory.write m.window 0 bs, busy := busy }) d

theorem met_doorbell : pathAlive (window [] true node) .pcie = true ∧ (mailboxOf (window [] true node).host .pcie).busy = true ∧
    (mailboxOf node.host .serial).busy = false ∧ pathAlive { node with pow := { node.pow with agentReady := false } } .serial = true ∧
    Served (window [0x10, 7, 0x02, 0x20, 0, 0, 0, 0, 2, 0] false node) .pcie := by unfold Served; decide

theorem met_doorbell_requests :
    (∃ bs, judgeRead node { src := .pcie, idx := 0x2002, sub := 7, off := 0, op := .read (min 2 4080), phy := none } = .ok bs) ∧
    (let bs := Memory.readBytes (mailboxOf (window [0x12, 7, 0x02, 0x20, 0, 0, 0, 0, 2, 0, 0, 0, 30, 0] false node).host .pcie).window 0 16
     leNat (slice bs 0 1) = 0x12 ∧ leNat (slice bs 1 1) = 7 ∧ leNat (slice bs 2 2) = 0x2002 ∧ leNat (slice bs 4 4) = 0 ∧
       leNat (slice bs 8 2) = 2 ∧ slice bs 12 2 = [30, 0]) := ⟨⟨_, rfl⟩, by decide⟩

/-! ### Inauguration -/

/-- The network node steady in round 8, with a neighbour heard on port 1 (rear, lane A). -/
def steady : Dev :=
  onBack 1 (fun b => { b with heard := some ⟨0x010203040506, true, 90⟩, probeDue := some 3, helloDue := some 4 })
    (onInaug (fun i => { i with state := .steady, round := 8, lowest := 0x010203040506 }) net)

def helloOnly : Dev := onBack 1 (fun b => { b with heard := some ⟨0x010203040506, false, 90⟩, unanswered := 3 }) steady

def inaug (f : InaugS → InaugS) : Dev := onInaug f steady

theorem met_neighbour : isBackbone 1 = true ∧ isBackbone 3 = true ∧ isBackbone 4 = false ∧ portUp steady 1 = true ∧ scValid 1 header 8 = true ∧
    scValid 1 { header with hops := 62 } 8 = true ∧ scValid 1 { header with hops := 63 } 8 = false ∧ scValid 4 header 8 = false ∧
    scValid 1 header 4 = false ∧
    scEnabled steady = true ∧ (backOf steady 1).probeDue = some 3 ∧ (backOf steady 1).helloDue = some 4 ∧
    (backOf steady 1).heard = some ⟨0x010203040506, true, 90⟩ ∧ (backOf helloOnly 1).heard = some ⟨0x010203040506, false, 90⟩ ∧
    twinPort steady = none ∧ portUp steady 19 = true := by decide

theorem met_claim :
    TakesSc steady 3 1 header 8 ∧ roundHigher header.round steady.inaug.round = true ∧ steady.inaug.state ≠ .committing ∧
    steady.inaug.state ≠ .standard ∧ steady.sleep.state ≠ .committing ∧
    TakesSc (rounds .committing steady) 3 1 header 8 ∧ (rounds .committing steady).inaug.heldClaim = none ∧
    TakesSc (rounds .claiming steady) 3 1 { header with round := 8 } 8 ∧ roundHigher 8 steady.inaug.round = false ∧
    TakesSc (rounds .standard steady) 3 1 header 8 ∧ anyStandard (rounds .standard steady) = false := by unfold TakesSc; decide

def alone : Dev :=
  onBack 1 (fun b => { b with heard := none }) (inaug fun i => { i with state := .claiming, settle := some 5, lowest := steady.chip.ident })

theorem met_settle : alone.inaug.settle = some 5 ∧ alone.inaug.state = .claiming ∧ alone.inaug.lowest = alone.chip.ident ∧
    safeLow alone = false ∧ sideTakesPart alone false = false ∧ sideTakesPart alone true = false ∧ anyStandard alone = false ∧
    sideTakesPart (inaug fun i => { i with state := .claiming, settle := some 5, lowest := steady.chip.ident }) true = true ∧
    (inaug fun i => { i with state := .claiming, settle := some 5 }).inaug.lowest ≠ steady.chip.ident ∧
    (inaug fun i => { i with backOff := some 6 }).inaug.backOff = some 6 := by decide

def body : CommitBody :=
  { epoch := 5, topo := 77, countdown := 50000, nodes := 2, consists := 1, refEnd := steady.chip.ident
    entries := [⟨steady.chip.ident, 1, 1, 1, false, false, false, false⟩, ⟨0x010203040506, 2, 1, 2, false, false, false, false⟩] }

def accepted : AcceptedCommit := { body := body, ids := [⟨1, 2⟩, ⟨1, 2⟩], originator := steady.chip.ident, switchAt := 9, fromRear := none }
def passing : AcceptedCommit := { accepted with fromRear := some false }

theorem met_timeouts :
    (inaug fun i => { i with state := .census, censusDeadline := some 7 }).inaug.censusDeadline = some 7 ∧
    (inaug fun i => { i with state := .claiming, censusWait := some 7 }).inaug.censusWait = some 7 ∧
    (inaug fun i => { i with state := .reporting, commitWait := some 7 }).inaug.commitWait = some 7 ∧
    (body.entries.filter (fun e => e.node ≠ 0)).length = 2 ∧
    (let d := inaug fun i => { i with state := .committing, ackDeadline := some 7, accepted := some accepted }
     d.inaug.acksFront + d.inaug.acksRear + ackShare d body < 2) ∧
    (let d := inaug fun i => { i with state := .committing, ackDeadline := some 7, accepted := some accepted, acksRear := 1 }
     2 ≤ d.inaug.acksFront + d.inaug.acksRear + ackShare d body) := by decide

/-- A frame of the round that the node is in. -/
def ofRound : ScHeader := { header with round := 8 }

def record : CensusRec :=
  { ident := 0x010203040506, vehicle := 1, consist := 2, position := 0, nodesMinus1 := 0, fromRear := false, safe := false
    leading := false, leadingRear := false, inhibit := false, standardOnly := false, partnerLost := false, laneA := true
    laneB := true, epoch := 0 }

theorem met_census : TakesSc (rounds .claiming steady) 4 1 (sized 0 ofRound) 0 ∧ ofRound.round = steady.inaug.round ∧
    ofRound.originator = steady.inaug.lowest ∧ TakesSc (rounds .census steady) 5 1 (sized 32 ofRound) (32 * [record].length) ∧
    TakesSc (rounds .census steady) 8 1 (sized 4 ofRound) 4 ∧
    inRound (rounds .census steady) = true ∧ steady.inaug.frontDone = false ∧
    (let d := inaug fun i => { i with state := .census, frontDone := true }
     d.inaug.frontDone = true ∧ segmentsComplete [⟨0, false, [record]⟩] = true ∧ segmentsComplete [⟨1, false, [record]⟩] = false ∧
       (segmentRecs [] ++ ownRecord d false :: segmentRecs [⟨0, false, [record]⟩]).any (·.standardOnly) = false ∧
       (segmentRecs [⟨0, false, [{ record with standardOnly := true }]⟩] ++ ownRecord d false :: segmentRecs []).any (·.standardOnly) = true) := by
  unfold TakesSc; decide

theorem met_report : (let d := inaug fun i => { i with state := .reporting, censusFromRear := some false }
     TakesSc d 5 1 (sized 32 ofRound) 32 ∧ d.inaug.censusFromRear = some false ∧ false ≠ isRear 1) ∧
    TakesSc (rounds .reporting steady) 5 1 { sized 32 ofRound with more := true } 32 ∧ ([record] : List CensusRec).length < 45 ∧
    45 ≤ (List.replicate 45 record).length ∧
    TakesSc (rounds .reporting steady) 5 1 (sized 1440 ofRound) (32 * (List.replicate 45 record).length) := by unfold TakesSc; decide

theorem met_sc_commit : TakesSc (rounds .reporting steady) 6 1 (sized 44 ofRound) (20 + 12 * body.nodes.toNat) ∧
    copyAwaited 1 (rounds .reporting steady) = false ∧
    (let d := inaug fun i => { i with state := .late, requestDeadline := some 9, asked := [1] }
     portUp d 1 = true ∧ scValid 1 (sized 44 ofRound) 44 = true ∧ copyAwaited 1 d = true ∧ roundHigher d.inaug.round ofRound.round = false ∧
       roundHigher d.inaug.round (7 : BitVec 16) = true ∧ ofRound.originator = d.inaug.lowest) ∧
    (let d := inaug fun i => { i with state := .committing, accepted := some { accepted with originator := ofRound.originator }
                                      seen := [⟨scKey 6 ofRound, steady.now, true⟩] }
     laneALater 6 (sized 44 ofRound) d = true ∧ copyAwaited 1 d = false ∧ ofRound.laneB = false) ∧
    TakesSc (inaug fun i => { i with state := .committing, accepted := some accepted }) 7 1 (sized 4 ofRound) 4 ∧ accepted.fromRear = none ∧
    passing.fromRear = some false ∧ false ≠ isRear 1 := by unfold TakesSc; decide

theorem met_switch :
    (let d := inaug fun i => { i with state := .committing, accepted := some accepted, overlapEnd := some 8 }
     d.inaug.state = .committing ∧ d.inaug.accepted = some accepted ∧ d.inaug.heldClaim = none ∧ d.inaug.heldOwn = none ∧
       safeLow d = false ∧ safeLow { d with pow := { d.pow with safeN := false } } = true ∧ d.inaug.overlapEnd = some 8) ∧
    (rounds .standard steady).inaug.state = .standard ∧ safeLow (rounds .standard steady) = false ∧
    TakesSc (inaug fun i => { i with lastCommit := some accepted }) 9 1 (sized 2 header) 2 := by unfold TakesSc; decide

theorem met_commit_request :
    (let d := inaug fun i => { i with requestDeadline := some 9 }
     d.inaug.requestDeadline = some 9 ∧
       backbonePorts.filter (fun p => (heardOn d p).isSome && !d.inaug.asked.any (fun q => isRear q = isRear p)) = [1]) ∧
    (let d := inaug fun i => { i with requestDeadline := some 9, asked := [1] }
     backbonePorts.filter (fun p => (heardOn d p).isSome && !d.inaug.asked.any (fun q => isRear q = isRear p)) = [] ∧
       d.inaug.heldClaim = none) := by decide

def crowd : List (Word48 × Option Nat) := (List.range 128).map (fun n => (BitVec.ofNat 48 (n + 1), some 5))

theorem met_state : TakesSc steady 0x0A 1 (sized 3 header) 3 ∧ steady.inaug.requesters.length < 128 ∧
    TakesSc (inaug fun i => { i with requesters := crowd }) 0x0A 1 (sized 3 header) 3 ∧ 128 ≤ crowd.length ∧
    (crowd.filter (fun x => x.1 ≠ header.originator)).length = crowd.length ∧
    crowd.find? (fun x => x.1 = 1#48) = some (1#48, some 5) ∧
    (inaug fun i => { i with stateDue := some 6 }).inaug.stateDue = some 6 := by unfold TakesSc; decide +kernel

theorem met_inhibit : Served steady .pcie ∧ cfg steady 0x2105 1 = 0 ∧ cfg (setReg 0x2105 1 1 steady) 0x2105 1 = 1 ∧
    Served (setReg 0x2105 1 1 steady) .pcie := by unfold Served; decide

theorem met_inhibit_role : MayWrite steady .pcie 0x2105 1 ∧ MayWrite steady .pcie 0x2100 6 := ⟨⟨_, rfl, by decide⟩, ⟨_, rfl, by decide⟩⟩

theorem met_inhibit_valid : steady.Valid := by
  unfold Dev.Valid Dev.Canonical DictS.Canonical HostS.Canonical TimeS.Bounded; decide

def twin : Dev := setReg 0x2106 1 5 (inaug fun i => { i with pairDue := some 7, pairDeadline := some 8, pairState := 1, partner := some 9 })

theorem met_pair : twinPort twin = some 5 ∧ portUp twin 5 = true ∧ scHeaderOk (sized 10 header) 10 = true ∧
    roundHigher twin.inaug.round header.round = false ∧
    twin.inaug.pairDue = some 7 ∧ twin.inaug.pairDeadline = some 8 ∧ twin.inaug.pairState ≠ 0 ∧ twin.inaug.outage = false ∧
    steady.inaug.pairState = 0 ∧ sameVehicle steady header.originator = false ∧
    sameVehicle (setReg 0x2100 2 4 steady) header.originator = true := by decide

/-! ### Fabric and ports -/

/-- A frame in a queue. -/
def qframe : QFrame :=
  { uid := 1, bytes := List.replicate 60 0, ingress := some 5, cls := 0, vlan := 1, pcp := 0, stamp := 0, queuedAt := 0, stepGen := 0
    unsure := false, epoch := 0, prevBank := false, copyToHost := false, untranslatable := false, errFlags := 0, trailer := none, cut := false
    spilled := false, window := none, launch := none, tsIdent := none, host := none }

/-- A frame of 64 bytes to 02:00:00:00:00:09 from 02:00:00:00:00:05. -/
def frame : RxFrame :=
  { bytes := [2, 0, 0, 0, 0, 9, 2, 0, 0, 0, 0, 5, 0x12, 0x34] ++ List.replicate 46 0, fcsOk := true, alignError := false, symbolError := false }

def frameRow : Nat := 4 * (tableHash 0x020000000009 1 % 1024)

/-- A forwarding node whose unicast table sends that address to port 7, with a queued frame there and an open stage of a spill. -/
def fabricNode : Dev :=
  let d := onFab (fun f => { f with forwarding := true, spilling := [(7, 0)], learned := [⟨3, 9, 1, 6, 0⟩] })
    (setQueue 7 1 [{ qframe with spilled := true }] (setQueue 6 0 [qframe] net))
  let at_ := tableAddr (0x5000 + frameRow / 256) 1 (16 * (frameRow % 256))
  onDict (fun q => { q with mem := Memory.write q.mem at_ [2, 0, 0, 0, 0, 9, 1, 0, 3, 7, 0xFF, 0, 0, 0, 0, 0] }) d

theorem met_frame_errors : portUp node 5 = false ∧ portUp net 5 = true ∧
    errorClass net 5 { frame with bytes := frame.bytes.take 59 } = some (0x27, 2) ∧ errorClass net 5 { frame with fcsOk := false } = some (0x26, 1) ∧
    errorClass net 5 frame = none ∧ (consumed 5 frame.bytes).isNone = true ∧ fabricNode.fab.forwarding = true ∧
    mayPass fabricNode frame.bytes 5 = true ∧ fabricNode.fab.engine0 = .inService ∧ fabricNode.fab.engine1 = .inService := by
  decide +kernel

theorem met_unicast : isBackbone 5 = false ∧ isBackbone 7 = false ∧ (7 : Port) ≠ 5 ∧ portUp fabricNode 7 = true ∧
    classify fabricNode 5 frame.bytes = (1, 0) ∧ frameDest frame.bytes = 0x020000000009 ∧ isGroup 0x020000000009 = false ∧
    (findUnicast fabricNode 0x020000000009 1).map (fun x => (leNat (slice x.2 8 1), leNat (slice x.2 9 1), leNat (slice x.2 10 1))) =
      some (3, 7, 0xFF) ∧ isIpv4 frame.bytes = false ∧ networkControl frame.bytes = false ∧ txEntries fabricNode 0x020000000009 1 = [] ∧
    resEntries fabricNode 0x020000000009 1 = [] ∧ rxEntry fabricNode 5 0x020000000009 1 = none ∧
    spillsAt (onFab (fun f => { f with spilling := [] }) fabricNode) 7 (Fin.ofNat 8 (cfg fabricNode 0x2203 1)) = false ∧
    roomAt fabricNode 7 (Fin.ofNat 8 (cfg fabricNode 0x2203 1)) (cellsFor (cfg fabricNode 0x2305 4)) = true ∧
    roomAt (setReg 0x2204 8 0 fabricNode) 7 (Fin.ofNat 8 (cfg fabricNode 0x2203 1)) (cellsFor (cfg fabricNode 0x2305 4)) = false := by
  decide +kernel

theorem met_egress : queueOf fabricNode 6 0 = qframe :: [] ∧ qframe.launch = none ∧
    mayStart (awaitIdle 6 (run fabricNode).found) 6 0 qframe = true ∧
    queueOf fabricNode 7 1 = { qframe with spilled := true } :: [] ∧
    mayStart (awaitIdle 7 (run fabricNode).found) 7 1 { qframe with spilled := true } = false := by decide +kernel

def works (f : FabricS → FabricS) : Dev := onFab f node

theorem met_slices : node.fab.learned.find? (fun x => x.row = 3) = none ∧
    fabricNode.fab.learned.find? (fun x => x.row = 3) = some ⟨3, 9, 1, 6, 0⟩ ∧ cfg fabricNode 0x2201 4 ≠ 0 ∧ (7, 0) ∈ fabricNode.fab.spilling ∧
    fabricNode.fab.spillFailed = false ∧ cfg fabricNode 0x2207 0x0B ≤ 0xFFFFFFFF ∧ (0 : Slice) ∈ node.fab.active ∧
    (∀ w ∈ node.fab.works, w.slice = 0 → w.rotation = true) ∧ mayRotate node 0 = true ∧ mayRotate node 8 = false ∧
    freeSpare node = some 8 ∧ node.node.profile = 0 ∧
    (onNode (fun n => { n with profile := 3 }) node).node.profile = 3 ∧ (onNode (fun n => { n with profile := 1 }) node).node.profile ≠ 0 ∧
    (queueOf fabricNode 7 1).find? (·.spilled) = some { qframe with spilled := true } ∧
    2 * queueCells fabricNode 7 1 < cfg fabricNode 0x2205 2 ∧ roomAt fabricNode 7 1 (frameCells qframe) = true ∧
    (works fun f => { f with works := [⟨2, some 8, false, 1, 0⟩] }).fab.works.find? (fun x => !x.rotation) = some ⟨2, some 8, false, 1, 0⟩ := by
  decide +kernel

theorem met_slices_valid : fabricNode.Valid := by
  unfold Dev.Valid Dev.Canonical DictS.Canonical HostS.Canonical TimeS.Bounded; decide +kernel

theorem met_rotate_role : MayWrite node .pcie 0x2206 3 ∧ MayWrite node .pcie 0x2304 0x22 ∧ MayRead node .pcie 0x2304 0x1C ∧
    MayWrite node .pcie 0x2304 0x1C := ⟨⟨_, rfl, by decide⟩, ⟨_, rfl, by decide⟩, ⟨_, rfl, by decide⟩, ⟨_, rfl, by decide⟩⟩

/-- The node with a port in a link state. -/
def linked (p : Port) (f : PortS → PortS) (d : Dev) : Dev := { d with ports := { d.ports with p := vmod d.ports.p p f } }

theorem met_links :
    (linked 4 (fun x => { x with link := .acquiring }) node).ports.p[(4 : Port)].link = .acquiring ∧ portReg node 4 0x0D ≠ 1 ∧
    portReg node 4 0x0C = 0 ∧ portReg (setReg 0x2304 0x0C 5 node) 4 0x0C ≠ 0 ∧
    (portReg (setReg 0x2304 0x0D 1 node) 4 0x0D ≠ 1 || (node.ports.p[(4 : Port)].phyLink)) = false ∧
    portReg (setReg 0x2304 0x0B 0 net) 4 0x0B = 0 ∧ portReg net 4 0x0B ≠ 0 ∧
    (linked 4 (fun x => { x with downSince := some 5 }) net).ports.p[(4 : Port)].downSince = some 5 ∧
    (linked 4 (fun x => { x with link := .upHold, holdEnd := some 5 }) net).ports.p[(4 : Port)].holdEnd = some 5 ∧
    (linked 4 (fun x => { x with anRestart := some 5 }) net).ports.p[(4 : Port)].anRestart = some 5 ∧
    (linked 4 (fun x => { x with link := .phyStart, releaseAt := some 5 }) net).ports.p[(4 : Port)].releaseAt = some 5 ∧
    (linked 4 (fun x => { x with link := .phyStart, script := some ⟨0, 5, some 9⟩ }) net).ports.p[(4 : Port)].script = some ⟨0, 5, some 9⟩ ∧
    phyScript node 4 = [] ∧ pollPrefixes [⟨4, 0, 1, 0, 0⟩] ≠ [] := by
  decide +kernel

theorem met_phy : resetRefused net 4 = false ∧ resetRefused node 0 = true ∧ portReg net 4 0x16 ≠ 0xFF ∧
    portReg (setReg 0x2304 0x16 0xFF net) 4 0x16 = 0xFF ∧ portReg (setReg 0x2304 0x1A 1 net) 4 0x1A ≠ 0 ∧
    portReg (setReg 0x2304 0x0D 1 net) 4 0x0D = 1 ∧ net.ports.p[(4 : Port)].link ≠ .disabled ∧
    (∀ q ∈ groupPorts (groupOf 4), net.ports.p[q].script = none) ∧
    (linked 4 (fun x => { x with script := some ⟨0, 5, none⟩ }) net).ports.p[(4 : Port)].script ≠ none ∧ 4 ∈ groupPorts (groupOf 4) ∧
    (linked 4 (fun x => { x with statusPoll := some 5 }) net).ports.p[(4 : Port)].statusPoll = some 5 ∧
    ({ net with ports := { net.ports with pulseEnd := Vector.replicate 4 (some 7) } } : Dev).ports.pulseEnd[(2 : Fin 4)] = some 7 := by
  decide +kernel

def pausing : Dev := setReg 0x2304 5 1 net

/-- Port 4 with an accumulated pause of the watchdog's limit and 1 µs more to go. -/
def overPaused : Dev :=
  linked 4 (fun x => { x with pauseUntil := some (net.now + 1000), pauseSince := net.now, pauseAcc := cfg net 0x2304 6 * msNs }) pausing

theorem met_pause : portUp pausing 4 = true ∧ cfg (setReg 0x2304 5 0 net) 0x2304 5 = 0 ∧
    cfg pausing 0x2304 5 ≠ 0 ∧ (settlePause 4 (run pausing).found).ports.p[(4 : Port)].pauseIgnoreUntil = none ∧
    watchdogDue (settlePause 4 (run pausing).found) 4 = false ∧ cfg pausing 0x2304 7 ≠ 0 ∧
    (settlePause 4 (run pausing).found).ports.p[(4 : Port)].txUntil ≤ pausing.now ∧
    (let d := settlePause 4 (run (linked 4 (fun x => { x with txUntil := 50 }) pausing)).found
     pausing.now < d.ports.p[(4 : Port)].txUntil ∧ isPaused d 4 = false ∧ watchdogDue d 4 = false) ∧
    watchdogDue (settlePause 4 (run overPaused).found) 4 = true ∧ (0x0101 : BitVec 16) ≠ 1 := by decide +kernel

theorem met_pause_end :
    (pauseOf (linked 4 (fun x => { x with txUntil := 5, pausePending := some 4 }) net) 4).pauseUntil = none ∧
    (pauseOf overPaused 4).pauseUntil = some (overPaused.now + 1000) ∧
    overPaused.now + (cfg overPaused 0x2304 6 * msNs - pauseAccNow overPaused 4) < overPaused.now + 1000 ∧
    (pauseOf (linked 4 (fun x => { x with pauseUntil := some 9 }) net) 4).pauseUntil = some 9 ∧
    9 ≤ net.now + (cfg net 0x2304 6 * msNs - pauseAccNow (linked 4 (fun x => { x with pauseUntil := some 9 }) net) 4) ∧
    (pauseOf net 4).pauseUntil = none ∧ (pauseOf net 4).pausePending = none ∧
    (linked 4 (fun x => { x with pauseIgnoreUntil := some 8 }) net).ports.p[(4 : Port)].pauseIgnoreUntil = some 8 := by decide +kernel

/-! ### Network time -/

def clock (f : TimeS → TimeS) : Dev := { net with time := f net.time }

/-- A slave of grandmaster 5 on port 0. -/
def slave : Dev := clock fun t => { t with slavePort := some 0, gmIdentity := 5, state := .synchronised, announceDeadline := some 8 }

def better : AnnounceMsg := { prio1 := 1, clockClass := 6, accuracy := 0x21, variance := 0, prio2 := 1, gm := 6, steps := 0, sender := 6, utc := 37 }

theorem met_sync : syncAccepted 0 5 slave = true ∧ slave.pow.agentReady = true ∧
    (let d : Dev := { slave with time := { slave.time with pendingSync := some ⟨0, 3, 5, 7⟩ } }
     syncAccepted 0 5 d = true ∧ d.time.pendingSync = some ⟨0, 3, 5, 7⟩) ∧
    syncAccepted 0 5 { slave with pow := { slave.pow with agentReady := false } } = true := by decide +kernel

theorem met_announce : ptpPort slave 0 = true ∧ slave.time.roundHold = none ∧
    (clock fun t => { t with roundHold := some 9 }).time.roundHold ≠ none ∧ (0 : Port) ∉ slave.time.revealed ∧
    bestAnnounce (onPortTime 0 (fun t => { t with announce := some (better, slave.now) }) (run slave).found) = some (0, better) ∧
    lexLt (announceKey better) (announceKey (ownAnnounce slave)) = true ∧ slave.time.gmIdentity ≠ better.gm ∧
    slave.time.announceDeadline = some 8 ∧ slave.time.slavePort = some 0 ∧ slave.time.state = .synchronised ∧
    cfg slave 0x2402 1 ≠ 255 ∧ safeLow slave = false ∧ (∀ q : Port, q ≠ 0 → slave.time.ports[q].announce = none) := by decide +kernel

theorem met_time_timeouts : (clock fun t => { t with syncDeadline := some 4 }).time.syncDeadline = some 4 ∧
    (clock fun t => { t with armed := some ⟨-3, 9, false⟩ }).time.armed = some ⟨-3, 9, false⟩ ∧
    (clock fun t => { t with state := .holdover, holdSince := some 4 }).time.holdSince = some 4 ∧
    (clock fun t => { t with state := .holdover, holdSince := some 4 }).time.holdLimitPassed = false ∧
    (clock fun t => { t with roundHold := some 4 }).time.roundHold = some 4 ∧
    (clock fun t => { t with state := .grandmaster }).time.state = .grandmaster ∧
    (clock fun t => { t with ppsInLast := some 4, ppsInLostAt := some 5 }).time.ppsInLast = some 4 ∧
    (clock fun t => { t with ppsInLast := some 4, ppsInLostAt := some 5 }).time.ppsInLostAt = some 5 ∧
    stepAllowed net = true ∧ stepAllowed slave = false := by decide +kernel

theorem met_election : revealedPort slave 0 = false ∧ bmcaFrozen slave = false ∧
    bmcaFrozen { slave with pow := { slave.pow with agentReady := false } } = true ∧ slave.time.announceDeadline = some 8 ∧
    (let d := clock fun t => { t with appliedAt := some 4, announceDeadline := some (4 + cfg net 0x2402 7 * logInterval (cfgI net 8 0x2402 4)) }
     d.time.slavePort = none ∧ d.time.state = .unsynchronised ∧ bmcaFrozen d = false ∧ cfg d 0x2402 1 ≠ 255 ∧
       d.time.appliedAt = some 4 ∧ d.time.announceDeadline = some (4 + cfg d 0x2402 7 * logInterval (cfgI d 8 0x2402 4))) ∧
    (∀ q : Port, (clock fun t => { t with appliedAt := some 4 }).time.ports[q].announce = none) := by decide +kernel

theorem met_step_role : MayWrite net .pcie 0x2401 3 ∧ MayRead net .pcie 0x2403 0x0A ∧ MayRead net .pcie 0x2410 9 :=
  ⟨⟨_, rfl, by decide⟩, ⟨_, rfl, by decide⟩, ⟨_, rfl, by decide⟩⟩

def launching : Dev := setQueue 6 7 [{ qframe with launch := some 900 }] net

theorem met_stamps : ptpPort net 0 = true ∧
    (onPortTime 0 (fun t => { t with outstanding := some 2, nextPdelay := some 6 }) net).time.ports[(0 : Port)].outstanding = some 2 ∧
    (onPortTime 0 (fun t => { t with outstanding := some 2, nextPdelay := some 6 }) net).time.ports[(0 : Port)].nextPdelay = some 6 ∧
    edgeSelected (cfg (setReg 0x2403 8 1 net) 0x2403 8) true = true ∧ edgeSelected (cfg (setReg 0x2403 8 1 net) 0x2403 8) false = false ∧
    (clock fun t => { t with lastEdge := some 0 }).now < 0 + 40 ∧ net.time.captures.length < 16 ∧
    (clock fun t => { t with captures := List.replicate 16 ⟨1, false, false, false, true, 0⟩ }).time.captures.length = 16 ∧
    queueOf launching 6 7 = { qframe with launch := some 900 } :: [] ∧ 0 < launchGap launching 900 ∧ launchGap launching 900 ≤ 1000000000 ∧
    (let d := awaitIdle 6 (arriveTrain (trainTime launching + 900 - cfg launching 0x2306 0x14 / 1000) (run launching).found)
     mayStart d 6 7 { qframe with launch := some 900 } = true ∧ -(cfg launching 0x2401 5 : Int) ≤ launchGap d 900) ∧
    cfg (setReg 0x2403 1 1 net) 0x2403 1 = 1 ∧ cfg (setReg 0x2403 1 0 net) 0x2403 1 = 0 ∧
    (clock fun t => { t with ppsOutEnd := some 4, tevtNext := some 5, tevtOutEnd := some 6 }).time.ppsOutEnd = some 4 ∧
    (clock fun t => { t with ppsOutEnd := some 4, tevtNext := some 5, tevtOutEnd := some 6 }).time.tevtNext = some 5 ∧
    (clock fun t => { t with ppsOutEnd := some 4, tevtNext := some 5, tevtOutEnd := some 6 }).time.tevtOutEnd = some 6 := by decide +kernel

/-! ### Schedule -/

def sched (f : SchedS → SchedS) : Dev := { net with sched := f net.sched, inaug := { net.inaug with
  state := .steady, now := { net.inaug.now with node := 1, epoch := 4 } } }

def gate : GateEntry := ⟨5, 1000, 500, 50, 7, 256, false, false, 9, 2⟩
def listen : GateEntry := { gate with receive := true }

/-- An image with one window of the whole train. -/
def imageBytes : List Byte :=
  let rec1 : List Byte := beBytes 2 7 ++ [2, 0] ++ beBytes 4 0 ++ beBytes 4 1000 ++ beBytes 2 500 ++ beBytes 2 50 ++ beBytes 2 1250 ++
    beBytes 2 256 ++ beBytes 6 9 ++ beBytes 2 2 ++ beBytes 4 0
  beBytes 4 0x4B5A5453 ++ beBytes 4 11 ++ beBytes 4 3 ++ beBytes 4 1000000 ++ beBytes 8 0 ++ beBytes 2 1 ++ [0, 0] ++
    beBytes 4 (crc32 rec1).toNat ++ rec1 ++ List.replicate 176 0

def image : SchedImage :=
  { identity := 11, generation := 3, cycle := 1000000, baseNs := 0, windows := [], raw := imageBytes, activation := 0 }

theorem met_gates : (sched fun m => { m with building := true }).sched.building = true ∧
    (let d := sched fun m => { m with state := .running, switchPending := true, built := some [gate] }
     d.sched.switchPending = true ∧ d.sched.state = .running ∧ d.sched.built = some [gate]) ∧
    (sched fun m => { m with closing := some .running }).sched.closing ≠ none ∧ net.sched.closing = none ∧
    (let d := sched fun m => { m with state := .running, switchPending := true, built := some [gate], builtFor := 4 }
     scheduleActive d = true ∧ d.sched.state ≠ .localOnly ∧ d.sched.builtFor = d.inaug.now.epoch) ∧ net.sched.state = .off ∧
    (let d := sched fun m => { m with state := .waiting, image := some image }
     d.sched.image ≠ none ∧ d.inaug.now.node ≠ 0 ∧ d.inaug.now.epoch ≠ 0 ∧
       newerDue (arriveTrain (boundaryNow (run d).found) (run d).found) = false) ∧
    (let d := sched fun m => { m with state := .waiting }
     d.sched.image = none) ∧
    (let d := sched fun m => { m with state := .running, image := some image }
     timeFences (arriveTrain (boundaryNow (run d).found) (run d).found) = true ∧
       timeFences (let e : Dev := { d with time := { d.time with state := .synchronised } }
         arriveTrain (boundaryNow (run e).found) (run e).found) = false) ∧
    (sched fun m => { m with state := .fenced }).sched.state = .fenced ∧
    (let d := sched fun m => { m with state := .localOnly, switchPending := true }
     d.sched.state = .localOnly ∧ d.sched.switchPending = true) := by decide +kernel

def fenced : Dev :=
  let d := sched fun m => { m with state := .fenced, image := some image, goodCycles := 1000 }
  { d with time := { d.time with state := .synchronised } }

theorem met_fence_leaves : cfg fenced 0x2501 4 ≤ (if fenced.sched.badSeen then 0 else fenced.sched.goodCycles + 1) ∧
    (if fenced.sched.syncSeen then 0 else fenced.sched.sinceSync + 1) < cfg fenced 0x2501 4 ∧
    timeFences (arriveTrain (boundaryNow (run fenced).found) (run fenced).found) = false := by decide +kernel

theorem met_windows : (sched fun m => { m with state := .running, pending := some image }).sched.pending = some image ∧
    (let d := sched fun m => { m with state := .running, reception := some ⟨4, 10, 0, 5, 0, 0, 0, [], 0, false⟩ }
     d.sched.pending = none ∧ d.sched.reception = some ⟨4, 10, 0, 5, 0, 0, 0, [], 0, false⟩) ∧
    (let d := sched fun m => { m with state := .running, image := some image, gates := [gate] }
     schedCycle d = some (1000000, 0) ∧ gatesRun d = true ∧
       d.sched.gates.find? (fun g => !g.receive && g.port = 5 && g.window = 7) = some gate) ∧
    (let d := sched fun m => { m with state := .running, image := some image, gates := [listen] }
     scheduleActive d = true ∧ d.sched.gates.filter (fun g => g.receive && g.window = 7) = listen :: [] ∧ listen.port = 5) ∧
    (windowNow (sched fun m => { m with windows := m.windows.set 5 (some ⟨gate, 1, 9, false⟩) }) 5 = some ⟨gate, 1, 9, false⟩) ∧
    (let d := sched fun m => { m with state := .running, offered := some (4, 9) }
     d.sched.pending = none ∧ d.sched.offered = some (4, 9)) ∧
    (seqOf (sched fun m => { m with seqs := [⟨7, 0, true, 3, [], some 9⟩] }) 7).resetAt = some 9 ∧
    (let d : Dev := { sched fun m => { m with state := .running } with time := { net.time with state := .holdover, holdSince := some 4 } }
     d.time.state = .holdover ∧ d.time.holdSince = some 4 ∧ d.sched.state = .running) := by decide +kernel

/-- A header for identity 11 and generation 4 with `n` bytes of data. -/
def dist (n number : Nat) : DistHeader :=
  { version := 1, length := BitVec.ofNat 16 n, identity := 11, generation := 4, activation := 0, number := BitVec.ofNat 32 number
    crc := 0, reserved := 0 }

/-- A node that distributes identity 11, receiving generation 4 with 10 bytes to come. -/
def receiving : Dev :=
  setReg 0x2501 1 1 (setReg 0x2501 2 11 (sched fun m => { m with
    image := some image, reception := some ⟨4, 10, 0, 5, 0, 0, 3, [], 50, false⟩, offers := [(0, 4), (1, 4)], offerDue := some 7 }))

theorem met_distribution : portUp receiving 0 = true ∧ distOk 0 1 0 { dist 0 10 with version := 2 } = false ∧
    distOk 0 2 0 (dist 0 192) = false ∧ distOk 0 3 9 (dist 10 0) = false ∧ distOk 0 1 0 (dist 0 10) = true ∧ distOk 0 2 0 (dist 0 0) = true ∧
    distOk 0 3 10 (dist 10 0) = true ∧ cfg receiving 0x2501 1 = 1 ∧ (dist 0 10).identity.toNat = cfg receiving 0x2501 2 ∧
    (dist 0 10).identity ≠ 0 ∧ receiving.pow.agentReady = true ∧
    (onPow (fun x => { x with agentReady := false }) receiving).pow.agentReady = false ∧
    (∀ i ∈ receiving.sched.image.toList ++ receiving.sched.pending.toList, i.generation < (dist 0 10).generation.toNat) ∧
    (∀ r, (onSched (fun m => { m with reception := none }) receiving).sched.reception = some r → r.generation < 4) ∧
    (∃ r, receiving.sched.reception = some r ∧ ¬ r.generation < 4 ∧ r.port = 0 ∧ r.verifying = false ∧ r.chunk = 0 ∧
      3 ≤ r.repeats ∧ ([1, 2, 3, 4, 5, 6, 7, 8, 9, 10] : List Byte).length = min 1024 (r.size - r.data.length) ∧
      (receiving.sched.offers.filter (fun x => x ≠ (r.port, r.generation))).find? (fun x => x.2 = r.generation) = some (1, 4)) ∧
    (receiving.sched.image.toList ++ receiving.sched.pending.toList).find? (fun i => i.identity = 11 && i.generation = 3) = some image ∧
    slice image.raw 0 1024 ≠ [] ∧ receiving.sched.offerDue = some 7 ∧ receiving.sched.switchOffer = none ∧
    (onSched (fun m => { m with switchOffer := some 6 }) receiving).sched.switchOffer = some 6 :=
  ⟨by decide +kernel, by decide +kernel, by decide +kernel, by decide +kernel, by decide +kernel, by decide +kernel, by decide +kernel,
    by decide +kernel, by decide +kernel, by decide +kernel, by decide +kernel, by decide +kernel, by decide +kernel, nofun,
    ⟨_, rfl, by decide +kernel⟩, by decide +kernel, by decide +kernel, by decide +kernel, by decide +kernel, by decide +kernel⟩

/-- An image arrives whole; whether its signature is accepted is a free value. -/
theorem met_verified : (parseImage imageBytes).map (fun i => (i.identity, i.generation)) = some (11, 3) ∧ cfg receiving 0x2501 2 = 11 ∧
    parseImage [1, 2] = none ∧ (∀ c : Reception, ({ c with verifying := true } : Reception).verifying = true) :=
  ⟨by decide +kernel, by decide +kernel, by decide +kernel, fun _ => rfl⟩

/-! ### Streams -/

def packet : AvtpPacket :=
  { dest := 0x91E0F0000001, vlan := 2, subtype := 2, tu := false, seq := 1, streamId := 7, timestamp := 0, format := 4, nsr := 5
    channels := 2, depth := 16, data := List.replicate 24 0 }

/-- The node with listener 3 for the packet, in a state. -/
def listener (st : StreamState) : Dev :=
  let d := setReg 0x2613 1 2 (setReg 0x2613 2 0x91E0F0000001 (setReg 0x2613 3 2 (setReg 0x2613 4 7 (setReg 0x2613 5 2 (setReg 0x2613 6 16
    (setReg 0x2613 9 0xFF net))))))
  onStream 3 (fun x => { x with state := st, timeout := some 9 }) { d with time := { d.time with state := .synchronised } }

def soundAt (d : Dev) (a : AvtpPacket) : Int × Int :=
  let f := gridNearest (strmRate d 3) ((extendShort d a.timestamp : Int) - gridOffset d (strmRate d 3)).toNat
  (gridTime (strmRate d 3) f + gridOffset d (strmRate d 3), trainTime d)

theorem met_streams : allStreams.filter (listens net packet) = [] ∧ listens (listener .waiting) packet 3 = true ∧
    fieldsMatch (listener .waiting) packet 3 = true ∧ allStreams.filter (listens (listener .waiting) { packet with depth := 24 }) ≠ [] ∧
    (∀ k : Fin 64, listens (listener .waiting) { packet with depth := 24 } k = true →
      fieldsMatch (listener .waiting) { packet with depth := 24 } k = false) ∧
    timeUsable (listener .waiting) = true ∧ packet.tu = false ∧ timeUsable net = false ∧
    (soundAt (listener .playing) packet).1 < (soundAt (listener .playing) packet).2 + 20 * usNs ∧
    (let x := soundAt (listener .playing) { packet with timestamp := 1000000 }
     ¬ x.1 < x.2 + 20 * usNs ∧ ¬ x.2 + cfg net 0x2601 5 * msNs < x.1) ∧
    (let x := soundAt (listener .playing) { packet with timestamp := 2000000000 }
     ¬ x.1 < x.2 + 20 * usNs ∧ x.2 + cfg net 0x2601 5 * msNs < x.1) := by decide +kernel

theorem met_stream_states : (onStream 3 (fun x => { x with state := .sending }) net).strm.s[(3 : Fin 64)].state = .sending ∧
    net.strm.s[(3 : Fin 64)].state ≠ .sending ∧ (listener .playing).strm.s[(3 : Fin 64)].timeout = some 9 ∧
    (listener .playing).strm.s[(3 : Fin 64)].state = .playing ∧ (onStrm (fun m => { m with building := true }) net).strm.building = true ∧
    (let d := onStrm (fun m => { m with switchPending := true, built := some [⟨0, 9, 2, 5, [4], true⟩] }) net
     d.strm.switchPending = true ∧ d.strm.built = some [⟨0, 9, 2, 5, [4], true⟩]) ∧
    (onStrm (fun m => { m with rephaseEnd := some 9 }) net).strm.rephaseEnd = some 9 := by decide +kernel

/-! ### Message buses -/

/-- Nothing Held or Done leaves the gateway quiet. -/
theorem quiet (d : Dev) (h : ∀ c : CanId, ∀ x ∈ d.can[c].objs, isHeld x.2.status = false ∧ isDone x.2.status = false) : GatewayQuiet d := by
  intro c o _
  unfold objOf
  cases hf : d.can[c].objs.find? (fun x => x.1 = o) with
  | none => exact ⟨rfl, rfl⟩
  | some x => exact h c x (List.mem_of_find?_eq_some hf)

/-- Controller 0 in a state, with a dictionary receive object 3 for identifier 0x123 and a transmit object 4. -/
def bus (f : CanCtl → CanCtl) : Dev :=
  let rx := [0x23, 0x01, 0, 0, 0xFF, 0x07, 0, 0, 0x05, 0x80, 0x01, 0, 0, 0, 0, 0]
  let tx := [0x24, 0x01, 0, 0, 0xFF, 0x07, 0, 0, 0x07, 3, 0x01, 0, 0, 0, 0, 0]
  let put := fun m => Memory.write (Memory.write m (tableAddr 0x5200 1 48) rx) (tableAddr 0x5200 1 64) tx
  onDict (fun q => { q with mem := put q.mem }) (onCan 0 f node)

def canFrame : CanFrame := { ident := 0x123, extended := false, remote := false, fdf := false, res := false, brs := false, esi := false, dlc := 1, data := [9] }
def object (st : Nat) : CanObj := { CanObj.blank with status := st }
def active (o : Nat) (st : Nat) : Dev := bus fun t => { t with state := .errorActive, mode := 1, objs := [(o, object st)] }
def sending : Dev := bus fun t => { t with state := .errorActive, mode := 1, objs := [(4, object 0x11)], sending := some 4, tec := 9, ackErrors := 15 }

theorem met_bus_states : (bus fun t => { t with state := .integrating }).can[(0 : CanId)].state = .integrating ∧
    (let d := bus fun t => { t with state := .detecting, dwellEnd := some 9 }
     d.can[(0 : CanId)].state = .detecting ∧ ¬ (canFrame.fdf = true ∧ (cfg d (canIdx 0 0) 2 = 0 ∨ canFrame.res = true)) ∧
       d.can[(0 : CanId)].candidateFrames + 1 < cfg d (canIdx 0 3) 3 ∧ errorKind d 0 .stuff ≠ .protocolException ∧
       d.can[(0 : CanId)].dwellEnd = some 9) ∧
    (let d := bus fun t => { t with state := .detecting, candidateFrames := cfg node (canIdx 0 3) 3 }
     cfg d (canIdx 0 3) 3 ≤ d.can[(0 : CanId)].candidateFrames + 1) ∧
    (let d := bus fun t => { t with state := .busOff, holdOffEnd := some 9 }
     d.can[(0 : CanId)].state = .busOff ∧ d.can[(0 : CanId)].holdOffEnd = some 9) ∧
    (bus fun t => { t with state := .recovering }).can[(0 : CanId)].state = .recovering := by decide +kernel

theorem met_bus : onBus (active 4 0x10).can[(0 : CanId)] = true ∧ (active 4 0x10).can[(0 : CanId)].tec ≤ 255 ∧
    GatewayQuiet (active 4 0x10) ∧ GatewayQuiet (active 3 0) :=
  ⟨by decide +kernel, by decide +kernel, quiet _ (by decide +kernel), quiet _ (by decide +kernel)⟩

theorem met_bus_frames :
    (let d := active 4 0x10
     let matching := (List.range 128).filter fun o => (objCfg d 0 o).admits canFrame
     matching = [3] ∧ (objCfg d 0 3).owner = 1 ∧ (objOf d 0 3).status = 0 ∧ canSends d.can[(0 : CanId)] = true ∧
       d.can[(0 : CanId)].sending = none ∧ d.can[(0 : CanId)].leaving = none ∧ nextToSend d 0 = some 4 ∧
       (List.range 128).filter (fun o => (objCfg d 0 o).admits { canFrame with ident := 0x7FF }) = []) ∧
    (isHeld (objOf (active 3 1) 0 3).status || (objCfg (active 3 1) 0 3).overwrite) = true ∧
    (let d := setReg 0x2700 2 1 (active 3 0)
     cfg d (canIdx 0 0) 2 ≠ 0 ∧ cfgB d (canIdx 0 0) 0x10 = true ∧ { canFrame with fdf := true, res := true }.res = true) ∧
    errorKind (setReg 0x2700 0x10 1 (active 3 0)) 0 .protocolException = .protocolException ∧ errorKind (active 3 0) 0 .crc = .crc ∧
    canSends (bus fun t => { t with state := .errorActive, mode := 2 }).can[(0 : CanId)] = false := by decide +kernel

theorem met_bus_sends : onBus sending.can[(0 : CanId)] = true ∧ GatewayQuiet sending ∧ sending.can[(0 : CanId)].sending = some 4 ∧
    sending.can[(0 : CanId)].leaving = none ∧ sending.can[(0 : CanId)].renewed = false ∧ (objCfg sending 0 4).owner ≠ 2 ∧ (objOf sending 0 4).status = 0x11 ∧
    (objOf sending 0 4).cancel = false ∧ retryLimit sending 0 4 = 3 ∧ retryLimit sending 0 4 ≠ 127 ∧ (objOf sending 0 4).failures < 3 ∧
    (255 < min 256 (248 + 8)) ∧ min 256 (sending.can[(0 : CanId)].tec + 8) ≤ 255 :=
  ⟨by decide +kernel, quiet _ (by decide +kernel), by decide +kernel, by decide +kernel, by decide +kernel, by decide +kernel, by decide +kernel,
    by decide +kernel, by decide +kernel, by decide +kernel, by decide +kernel, by decide, by decide +kernel⟩

def dictObject (st : Nat) : Dev := setReg 0x2704 1 4 (active 4 st)
def framed : List Byte := List.replicate 4 0 ++ [1] ++ List.replicate 12 0

theorem met_objects :
    Served (dictObject 0) .pcie ∧ cfg (dictObject 0) (canIdx 0 4) 1 = 4 ∧ (objCfg (dictObject 0) 0 4).owner = 1 ∧ (objCfg (dictObject 0) 0 4).tx = true ∧
    (objOf (dictObject 0) 0 4).status = 0 ∧ framed.length = 16 + Machine.dlcLength false (bitsOf (leNat (slice framed 4 1)) 3 0) ∧
    (framed ++ [0]).length ≠ 16 + Machine.dlcLength false (bitsOf (leNat (slice (framed ++ [0]) 4 1)) 3 0) ∧
    (objCfg (dictObject 0) 0 4).remote = false ∧ (objOf (dictObject 0x10) 0 4).status = 0x10 ∧ (objOf (dictObject 0x11) 0 4).status = 0x11 ∧
    (objOf (dictObject 1) 0 4).status = 1 ∧ (objOf (dictObject 0x20) 0 4).status = 0x20 ∧ (dictObject 0).can[(0 : CanId)].mode = 1 ∧
    (objCfg (setReg 0x2704 1 9 (dictObject 0)) 0 9).owner ≠ 1 := by unfold Served; decide +kernel

theorem met_bus_off : (let d := setReg 0x2700 0x0E 1 (bus fun t => { t with state := .busOff, holdOffEnd := some 9 })
      d.can[(0 : CanId)].state = .busOff ∧ cfg d (canIdx 0 0) 0x0E ≠ 0 ∧ d.can[(0 : CanId)].holdOffEnd ≠ none) ∧
    (dictObject 0).can[(0 : CanId)].state ≠ .busOff := by decide +kernel

theorem met_objects_role : MayWrite (dictObject 0) .pcie 0x2704 2 ∧ MayWrite (dictObject 0) .pcie 0x2704 3 ∧ MayWrite (dictObject 0) .pcie 0x2704 7 ∧
    MayRead node .pcie 0x2802 1 ∧ MayWrite node .pcie 0x2903 1 ∧ MayWrite node .pcie 0x2903 4 :=
  ⟨⟨_, rfl, by decide⟩, ⟨_, rfl, by decide⟩, ⟨_, rfl, by decide⟩, ⟨_, rfl, by decide⟩, ⟨_, rfl, by decide⟩, ⟨_, rfl, by decide⟩⟩

/-! ### Gateway and check units -/

/-- A running gateway: telegram 2 published to 10.0.0.9, telegram 3 subscribed for ComId 500 with 2 bytes. -/
def gateway : Dev :=
  onGw (fun g => { g with running := true }) (setReg 0x2800 1 1 (setReg 0x2842 1 1 (setReg 0x2842 5 0x0A000009 (setReg 0x2842 8 1
    (setReg 0x2843 1 2 (setReg 0x2843 2 500 (setReg 0x2843 3 2 (active 4 0))))))))

def telegram : TrdpMsg :=
  { sourceIp := 1, sourcePort := 17224, msgType := 0x5064, comId := 500, topo := 0, seq := 1, session := 0, fcsOk := true, data := [0xA5, 7] }

/-- The gateway with a verify channel on telegram 3: expected field of one byte at 0, mask 0xF0, value 0xA0. -/
def checked : Dev :=
  let rec1 := [5, 0, 3, 0, 0, 0, 0, 0, 0, 0, 0, 0, 2, 0, 0, 0, 0, 1, 1, 0, 0, 0, 1, 0, 0xF0, 0, 0, 0, 0xA0, 0, 0, 0]
  setChk 0 { CheckCh.blank with state := .initial }
    (onDict (fun q => { q with mem := Memory.write q.mem (tableAddr 0x5400 1 0) rec1 }) gateway)

def gatewayObject : Dev :=
  let tx := [0x24, 0x01, 0, 0, 0xFF, 0x07, 0, 0, 0x0B, 3, 0x01, 0, 0, 0, 0, 0]
  setReg 0x2830 5 10 (onDict (fun q => { q with mem := Memory.write q.mem (tableAddr 0x5200 1 64) tx }) gateway)

def gatewayReceives : Dev :=
  let rx := [0x23, 0x01, 0, 0, 0xFF, 0x07, 0, 0, 0x09, 0x80, 0x01, 0, 0, 0, 0, 0]
  onDict (fun q => { q with mem := Memory.write q.mem (tableAddr 0x5200 1 48) rx }) gateway

theorem met_telegrams : gwActive node = false ∧ gwActive gateway = true ∧ tele gateway 2 1 = 1 ∧ tele gateway 2 8 = 1 ∧
    gwDest gateway (tele gateway 2 4) (tele gateway 2 5) (tele gateway 2 6) = some 0x0A000009 ∧
    gwDest (setReg 0x2842 4 1 gateway) 1 (tele gateway 2 5) (tele gateway 2 6) = none ∧
    tele (setReg 0x2842 8 0 gateway) 2 8 ≠ 1 ∧ gateway.gw.telegrams[(2 : Fin 64)].fresh = false ∧
    (onTele 3 (fun t => { t with timeout := some 9 }) gateway).gw.telegrams[(3 : Fin 64)].timeout = some 9 ∧
    accepts gateway telegram = some 3 ∧ accepts gateway { telegram with comId := 501 } = none ∧
    (verifyAt true 0 3 telegram.data (run gateway).found).1 = true ∧
    (verifyAt true 0 3 [0xB5, 7] (run (onDict (fun q => { q with mem := Memory.write q.mem (tableAddr 0x5400 1 0) [0x0D] }) checked)).found).1 = false := by
  decide +kernel

theorem met_gateway_objects : gwSendsIn gatewayObject 0 4 = true ∧ gwPeriod gatewayObject 0 4 * msNs ≠ 0 ∧ (objOf gatewayObject 0 4).status = 0 ∧
    canSends gatewayObject.can[(0 : CanId)] = true ∧
    cfg (setReg 0x2830 0x7F 1 gatewayObject) (0x2830 + (0 : CanId).val) 0x7F = 1 ∧ gwSendsIn gateway 0 4 = false ∧
    onBus gatewayReceives.can[(0 : CanId)] = true ∧ gatewayReceives.can[(0 : CanId)].tec ≤ 255 ∧ gwActive gatewayReceives = true ∧
    canFrame.fdf = false ∧ (∀ n : Fin 32, chanReg gatewayReceives n 1 = 0) ∧
    ((List.range 128).filter fun o => (objCfg gatewayReceives 0 o).admits canFrame).find? (fun o => (objOf gatewayReceives 0 o).status = 0 ||
      (isHeld (objOf gatewayReceives 0 o).status && (objCfg gatewayReceives 0 o).overwrite)) = some 3 ∧
    (objCfg gatewayReceives 0 3).owner = 2 ∧ checkFor gatewayReceives false false 0 3 = none := by decide +kernel

theorem met_gateway_quiet : GatewayQuiet gatewayReceives := quiet _ (by decide +kernel)

/-- A gateway with direction-1 channel 0 for ComId 600 on request object 4, and direction-2 channel 1 for ComId 700. -/
def channels (f : GwChan → GwChan) : Dev :=
  onChan 1 (fun x => { x with state := .opened, txn := some ⟨.can, 9, 2, false, [], false, 0, 0, some 9⟩ }) (onChan 0 f
    (setReg 0x2810 1 1 (setReg 0x2810 7 600 (setReg 0x2810 3 4 (setReg 0x2810 6 2 (setReg 0x2811 1 2 (setReg 0x2811 7 700 (setReg 0x2811 5 7
      gatewayObject))))))))

def request (op : Byte) : TrdpMsg :=
  { telegram with msgType := 0x4D72, comId := 600, data := [op, 0, 0, 5, 0, 0, 0, 9, 0, 0, 0, 0] }

def backTxn : Txn := ⟨.backbone 1 2 3, 9, 5, false, [], false, 0, 0, some 9⟩

theorem met_transactions : chanOfComId (channels id) 1 600 = some 0 ∧ chanOfComId (channels id) 2 700 = some 1 ∧ gwActive (channels id) = true ∧
    (blockReq (channels id) 0 (request 1).data).wellFormed = true ∧ (blockReq (channels id) 0 (request 2).data).wellFormed = true ∧
    (blockReq (channels id) 0 (request 3).data).wellFormed = false ∧ (blockReq (channels id) 0 (request 3).data).op ≠ 2 ∧
    (blockReq (channels id) 0 [2]).wellFormed = false ∧ (blockReq (channels id) 0 [2]).op = 2 ∧
    (channels id).gw.chans[(0 : Fin 32)].state = .idle ∧ canSends (channels id).can[chanCan (channels id) 0] = true ∧
    (channels fun x => { x with state := .opened, txn := some backTxn }).gw.chans[(0 : Fin 32)].txn = some backTxn ∧
    honoured (channels id) backTxn.epoch = true ∧ chanReg (channels id) 0 4 = 0xFF ∧ chanReg (setReg 0x2810 4 7 (channels id)) 0 4 ≠ 0xFF ∧
    (channels fun x => { x with cache := [⟨5, [1], 9⟩] }).gw.chans[(0 : Fin 32)].cache.find?
      (fun e => e.addr = (blockReq (channels id) 0 (request 1).data).addr) = some ⟨5, [1], 9⟩ ∧
    (channels fun x => { x with state := .prefetching, fetchDeadline := some 9, due := [6] }).gw.chans[(0 : Fin 32)].fetchDeadline = some 9 ∧
    (channels fun x => { x with state := .prefetching }).gw.chans[(0 : Fin 32)].waiting = none := by decide +kernel

theorem met_replies :
    (let d := channels id
     chanReg d 1 1 = 2 ∧ d.gw.chans[(1 : Fin 32)].state = .opened ∧ chanReg d 1 5 ≠ 0xFF ∧
      (d.gw.chans[(1 : Fin 32)].txn.map fun t => (t.posted, t.tag, t.who)) = some (false, 9#32, .can) ∧
      beNat (slice (request 1).data 4 4) = 9 ∧ leNat (slice (request 1).data 1 1) = 0 ∧ 12 ≤ (request 1).data.length ∧
      (∀ k : Fin 32, k ≠ 1 → chanReg d k 1 ≠ 2)) ∧
    ∀ k : Fin 32, (onChan 1 (fun x => { x with state := .idle, txn := none }) (channels id)).gw.chans[k].state ≠ .opened := by decide +kernel

theorem met_checks : accepts checked telegram = some 3 ∧ gwActive checked = true ∧
    ((checkFor checked false true 0 3).map fun x => (x.1, x.2.expLen, x.2.expMask, x.2.expValue, x.2.kind, x.2.width)) = some (0, 1, 0xF0, 0xA0, 0, 0) ∧
    ((checkFor checked false true 0 3).map fun x => (x.2.fits 2, (x.2.judge (chkOf checked 0) [0xA5, 7]).1, (x.2.judge (chkOf checked 0) [0xB5, 7]).1)) =
      some (true, 0, 4) ∧
    (chkOf checked 0).state ≠ .invalid ∧ (chkOf (setChk 0 { CheckCh.blank with state := .invalid } checked) 0).state = .invalid ∧
    (chkOf (setChk 0 { CheckCh.blank with state := .valid, silence := some 9 } checked) 0).silence = some 9 ∧ (chkOf checked 0).silence = none := by
  decide +kernel

/-! ### Recorder -/

def entry : Entry :=
  { seq := 1, sev := 3, viaHolding := false, viaRing := false, restored := false, unsure := false, src := 1, code := 2, time := 0, epoch := 0
    stepGen := 0, inst := 0, boot := 0, fmt := 0, payload := [] }

def recorder (st : RecState) (f : RecS → RecS) : Dev := { node with recd := f { node.recd with state := st } }

theorem met_recorder :
    (recorder .logging fun m => { m with staging := [(entry, 4)] }).recd.staging = (entry, 4) :: [] ∧
    (recorder .logging id).recd.inflight = [] ∧ (recorder .logging fun m => { m with inflight := [entry], log := [(0, entry)] }).recd.log.length + 1 ≤
      (recorder .logging fun m => { m with summary := { m.summary with slots := 65472 } }).recd.summary.slots ∧
    ((recorder .logging fun m => { m with log := [(0, entry), (1, entry)] }).recd.log.map (·.1)).Pairwise (· < ·) ∧
    (recorder .writeBack fun m => { m with ring := List.replicate 64 (0, entry) }).recd.ring.length ≤ 64 ∧
    (∀ k : Fin 8, (recorder .writeBack id).recd.holdingDrops[k] = 0) ∧
    (recorder .frozen fun m => { m with freezeEnd := some 9, holding := [(0, entry)] }).recd.holding ≠ [] ∧
    cfg node 0x2A01 2 ≤ 7 ∧ (recorder .logging id).recd.ring.length + 0 + (recorder .logging id).recd.holding.length +
      (recorder .logging id).recd.early.length < ringCap ∧
    (recorder .ring fun m => { m with retryAt := some 9 }).recd.retryAt = some 9 ∧ (recorder .ring id).recd.ddrFailed = false ∧
    (recorder .scanning id).chip.emmc = true ∧
    (recorder .scanning fun m => { m with summary := { m.summary with valid := true, slots := slotsOf (cfg node 0x2A01 1) } }).recd.summary.slots =
      slotsOf (cfg node 0x2A01 1) ∧ Served (recorder .logging id) .pcie := by unfold Served; decide +kernel

theorem met_recorder_role : MayWrite node .pcie 0x2A02 1 ∧ MayWrite node .pcie 0x2A04 1 ∧ MayRead node .pcie 0x2A03 2 ∧
    leNat (slice ([5, 0, 0] : List Byte) 0 1) = 5 ∧ leNat (slice ([6, 0, 0] : List Byte) 0 1) = 6 :=
  ⟨⟨_, rfl, by decide⟩, ⟨_, rfl, by decide⟩, ⟨_, rfl, by decide⟩, by decide, by decide⟩

/-! ### Sleep and wake -/

def asleepAs (st : SleepState) (f : SleepS → SleepS) : Dev := { steady with sleep := f { steady.sleep with state := st } }

def keepAlive (flags : Byte) : KeepAliveMsg :=
  { kind := 1, version := 1, flags := flags, reserved := 0, sender := 5, holder := 6, epoch := 0, tailZero := true }

theorem met_keep_alive : isBackbone 4 = false ∧ Machine.KeepAliveMsg.sound (keepAlive 0x21) = true ∧
    Machine.KeepAliveMsg.sound (keepAlive 0x31) = false ∧ (keepAlive 0x21).flags.getLsbD 0 = true ∧ portUp steady 0 = true ∧
    sideStandard steady (isRear 0) = false ∧ bitsOf (keepAlive 0x01).flags.toNat 5 4 ≤ (asleepAs .readySleep id).sleep.scope ∧
    (sideInfo (asleepAs .readySleep fun m => { m with front := ⟨0, false, 0, 0, false, some 7⟩ }) false).deadline = some 7 ∧
    sideUp steady false = true ∧ cfg (setReg 0x2B02 7 0 steady) 0x2B02 7 = 0 ∧
    (asleepAs .awake fun m => { m with periodDue := some 7 }).sleep.periodDue = some 7 ∧
    (asleepAs .readySleep fun m => { m with readyDeadline := some 7 }).sleep.readyDeadline = some 7 := by decide +kernel

theorem met_sleep : (asleepAs .committing fun m => { m with committedAt := some 7 }).sleep.committedAt = some 7 ∧
    (asleepAs .committing fun m => { m with committedAt := some 7 }).sleep.quiesced = false ∧
    (∀ c : CanId, steady.can[c].sending = none) ∧
    (asleepAs .committing fun m => { m with committedAt := some 7, quiesced := true }).sleep.latched = none ∧
    (asleepAs .committing fun m => { m with quiesced := true, latched := some ⟨1, true, false, 2, [], 0, 1⟩ }).sleep.latched ≠ none ∧
    (asleepAs .awake fun m => { m with requestDeadline := some 7, holdEnd := some 8 }).sleep.requestDeadline = some 7 ∧
    (asleepAs .awake fun m => { m with requestDeadline := some 7, holdEnd := some 8 }).sleep.holdEnd = some 8 ∧
    roundBusy steady = false ∧ steady.pow.state = .active ∧ Served steady .pcie ∧
    trainNeed { alone with sleep := { alone.sleep with holdEnd := none } } = true ∧
    trainNeed (setReg 0x2B02 1 1 (setReg 0x2B01 1 0 (onSleep (fun m => { m with front := ⟨0, false, 0, 0, false, none⟩, rear := ⟨0, false, 0, 0, false, none⟩ })
      alone))) = false := by unfold Served; decide +kernel

theorem met_sleep_valid : (asleepAs .committing fun m => { m with committedAt := some 7, quiesced := true }).Valid ∧ MayWrite steady .pcie 0x2B01 1 :=
  ⟨by unfold Dev.Valid Dev.Canonical DictS.Canonical HostS.Canonical TimeS.Bounded; decide +kernel, ⟨_, rfl, by decide⟩⟩

/-- A node in Sleep that every wake input may wake. -/
def dozing : Dev :=
  let d := { asleepAs .asleep (fun m => { m with timerEnd := some 9 }) with pow := { node.pow with state := .sleep } }
  setReg 0x2B03 4 1 (setReg 0x2B03 5 1 (setReg 0x2B04 1 1 (setReg 0x2B05 1 1 d)))

theorem met_wakes : (∀ n ∈ ([1, 2, 3, 4, 12] : List Nat), sourceEnabled dozing n = true ∧ sourceSpent dozing n = false) ∧
    sourceEnabled steady 2 = false ∧ sourceSpent (onSleep (fun m => { m with spent := [(1, none)] }) dozing) 1 = true ∧
    dozing.pow.state = .sleep ∧ dozing.sleep.state = .asleep ∧ dozing.sleep.timerEnd = some 9 ∧ readoutPorts dozing [1] = [] ∧
    dozing.sleep.twlOutEnd = none ∧ (onSleep (fun m => { m with twlOutEnd := some 9 }) dozing).sleep.twlOutEnd = some 9 ∧
    (onSleep (fun m => { m with readout := some (⟨12, false, true, 0, [], 0, 1⟩, [0], 5) }) dozing).sleep.readout.isSome = true := by decide +kernel

/-! ### Load channels -/

def comp (st : LinkSt) (f : Companion → Companion) : Dev :=
  { node with load := { node.load with comp := vmod node.load.comp 1 (fun x => f { x with link := st }) } }

def chan (st : LoadState) (f : LoadCh → LoadCh) (d : Dev) : Dev :=
  { d with load := { d.load with ch := vmod d.load.ch 8 (fun x => f { x with state := st }) } }

def transfer : Transfer := ⟨none, false, 5, none⟩

/-- A status frame with its CRC. -/
def status (bs : List Byte) : Vector Byte 8 :=
  #v[bs[0]!, bs[1]!, bs[2]!, bs[3]!, bs[4]!, bs[5]!, bs[6]!, BitVec.ofNat 8 (crcKind 1 (bs.take 7))]

theorem met_links_of_companions : (comp .running id).load.comp[(1 : Fin 4)].link = .running ∧ (comp .running id).load.comp[(1 : Fin 4)].inFlight = none ∧
    (comp .running fun x => { x with inFlight := some transfer }).load.comp[(1 : Fin 4)].inFlight = some transfer ∧
    (comp .identifying fun x => { x with gapDue := some 7 }).load.comp[(1 : Fin 4)].gapDue = some 7 ∧
    (comp .configuring fun x => { x with gapDue := some 7, config := [(1, 2, 3)] }).load.comp[(1 : Fin 4)].config = (1, 2, 3) :: [] ∧
    (comp .running fun x => { x with gapDue := some 7, reads := [(0x11, 2)] }).load.comp[(1 : Fin 4)].reads = (0x11, 2) :: [] ∧
    (comp .fault fun x => { x with retryAt := some 7 }).load.comp[(1 : Fin 4)].retryAt = some 7 := by decide +kernel

theorem met_status :
    crcKind 1 ((status [0, 1, 1, 0, 0, 0, 60]).toList.take 7) = (status [0, 1, 1, 0, 0, 0, 60]).toList[7]!.toNat ∧
    (comp .running fun x => { x with inFlight := some transfer }).load.comp[(1 : Fin 4)].prevSeq = none ∧
    crcKind 1 ((status [0, 1, 1, 0, 0, 0, 60]).toList.take 7) ≠ (#v[1, 1, 1, 0, 0, 0, 60, 0] : Vector Byte 8).toList[7]!.toNat ∧
    (comp .running fun x => { x with bad := 2 }).load.comp[(1 : Fin 4)].bad = 2 ∧ (comp .running id).load.comp[(1 : Fin 4)].bad < 2 ∧
    (comp .running id).load.comp[(1 : Fin 4)].lowWas = false ∧ compOf 8 = 1 ∧ bitOf 1 (8 % 8) = true ∧ bitOf 0x10 4 = true ∧ bitOf 0x40 6 = true ∧
    (chan .on (fun x => { x with retries := 1 }) (comp .running id)).load.ch[(8 : Fin 32)].retries = 1 ∧
    (chan .on (fun x => { x with retries := 0 }) (comp .running id)).load.ch[(8 : Fin 32)].retries = 0 ∧
    (chan .inrush (fun x => { x with windowEnd := some 9 }) (comp .running id)).load.ch[(8 : Fin 32)].windowEnd = some 9 ∧
    (chan .inrush (fun x => { x with windowEnd := some 9 }) (comp .running id)).load.ch[(8 : Fin 32)].extended = false ∧
    (chan .on id (comp .running id)).load.ch[(8 : Fin 32)].latched = false ∧
    (comp .running fun x => { x with inFlight := some ⟨some (0x11, 2), false, 5, some true⟩ }).load.comp[(1 : Fin 4)].inFlight =
      some ⟨some (0x11, 2), false, 5, some true⟩ ∧ (status [0x8A, 0, 0, 0, 9, 0, 0])[0].toNat = 8 * 0x11 + 2 := by decide +kernel

theorem met_channels : (chan .retryWait (fun x => { x with delayEnd := some 9, command := true }) (comp .running id)).load.ch[(8 : Fin 32)].delayEnd = some 9 ∧
    (chan .on (fun x => { x with refillAt := some 9 }) node).load.ch[(8 : Fin 32)].refillAt = some 9 ∧
    (chan .thermalLatch (fun x => { x with latched := true, warmClearSince := some 9 }) node).load.ch[(8 : Fin 32)].warmClearSince = some 9 ∧
    (chan .thermalLatch (fun x => { x with command := true, spentAtLatch := true }) node).load.ch[(8 : Fin 32)].spentAtLatch = true ∧
    (comp .wrongDevice id).load.comp[(1 : Fin 4)].link = .wrongDevice ∧
    (chan .on (fun x => { x with bins := [(1, 2)] }) node).load.ch[(8 : Fin 32)].bins = (1, 2) :: [] ∧
    chCfg (setReg 0x2C28 0x0A 1 node) 8 0x0A ≠ 0 ∧ chCfg node 8 0x0A = 0 ∧
    (chansOf 1).filter (fun j => (chan .supplyHold id (comp .running fun x => { x with restoreAt := some 9 })).load.ch[j].state = .supplyHold) = 8 :: [] ∧
    (comp .running fun x => { x with restoreAt := some 9 }).load.comp[(1 : Fin 4)].restoreAt = some 9 ∧ node.load.comp[(1 : Fin 4)].link = .off ∧
    (chan .tripped id (comp .running id)).load.ch[(8 : Fin 32)].state = .tripped ∧ (chan .locked id (comp .running id)).load.ch[(8 : Fin 32)].state = .locked ∧
    (∀ j : Fin 32, compOf j = 1 → (1 : BitVec 8).getLsbD (j.val % 8) = true → (chan .locked id (comp .running id)).load.ch[j].state = .locked) ∧
    (∃ j : Fin 32, compOf j = 1 ∧ (1 : BitVec 8).getLsbD (j.val % 8) = true ∧ (comp .running id).load.ch[j].state ≠ .locked) := by decide +kernel

theorem met_channels_role : MayWrite node .pcie 0x2C28 1 ∧ MayWrite node .pcie 0x2C11 0x0A := ⟨⟨_, rfl, by decide⟩, ⟨_, rfl, by decide⟩⟩

/-! ### Host link -/

def hostDev (f : HostS → HostS) : Dev := { node with host := f node.host }
def deadPaths : Dev := { node with pins := { node.pins with strapPcie := false, strapHsp := false } }
def ring (r : Fin 10) (f : Ring → Ring) : Dev := hostDev fun h => { h with rings := vmod h.rings r f }
def ring8 (f : Ring → Ring) : Ring := f { Ring.reset with base := 4096, size := 16, enable := true, running := true }

theorem met_host_registers : pathAlive node .pcie = true ∧ pathAlive node .serial = true ∧ pathAlive deadPaths .pcie = false ∧
    pathAlive deadPaths .serial = false ∧ node.pins.strapPcie = true ∧ deadPaths.pins.strapPcie = false ∧ node.host.linkUp = true ∧
    (let h := { node.host with intStatus := 0x10000, enMsi := 0x10000, msiMask := vmod node.host.msiMask 2 fun _ => false }
     vectorActive h 2 = true ∧ h.msiMask[(2 : Fin 16)] = false ∧ vectorActive { h with msiMask := node.host.msiMask } 2 = true ∧
       node.host.msiMask[(2 : Fin 16)] = true) ∧
    ([1, 2, 3] : List Byte).length % 4 ≠ 0 ∧ ([1, 2, 3, 4] : List Byte).length = 4 ∧ 0x100 ≤ (0x100 : BitVec 13).toNat ∧
    (0x23C : BitVec 13).toNat < 0x240 ∧ (0x60 : BitVec 13).toNat % 4 = 0 := by decide +kernel

def descriptor (b10 : Byte) (bytes : Nat) : List Byte := leBytes 8 0x8000 ++ leBytes 2 bytes ++ [b10, 0] ++ leBytes 2 6 ++ List.replicate 18 0

theorem met_rings : (ring 0 (fun _ => Ring.reset)).host.rings[(0 : Fin 10)].enable = false ∧
    (let g := ring8 id
     g.enable = true ∧ g.running = true ∧ g.reading = none ∧ g.fetch ≠ (5 : Word32).toNat % 4096 ∧ g.head = 0 ∧ g.doneEarly = [] ∧ g.size ≠ 0) ∧
    (ring8 fun g => { g with reading := some ⟨.descriptor 0, 9⟩ }).reading = some ⟨.descriptor 0, 9⟩ ∧
    (descriptor 0 100).length = 32 ∧ txMalformed node (descriptor 0 100) = false ∧ txMalformed node (descriptor 0 10) = true ∧
    (2 : Fin 10).val < 4 ∧ node.fab.hostQueue = [] ∧ (ring8 fun g => { g with reading := some ⟨.buffer 0 (descriptor 0 100), 9⟩ }).reading =
      some ⟨.buffer 0 (descriptor 0 100), 9⟩ ∧ txPort (descriptor 0 100) = some 0 ∧ portUp node 0 = false ∧ protocolOnly node 5 = false ∧
    txPort (descriptor 5 100) = some 5 ∧ portUp node 5 = false ∧ queued node = [] ∧ node.fab.sentUids = [] ∧
    (ring8 fun g => { g with lastInt := some 9, deferred := true }).lastInt = some 9 := by decide +kernel

/-- Listener 3 of two channels from the host, with `n` samples of each channel buffered. -/
def fed (n : Nat) : Dev :=
  onStream 3 (fun x => { x with buffer := List.replicate (8 * n) 0 }) (setReg 0x2613 1 2 (setReg 0x2613 5 2 (setReg 0x2613 9 0xFF node)))

theorem met_samples : (ring8 fun g => { g with ready := [(0, descriptor 3 48)] }).ready = (0, descriptor 3 48) :: [] ∧
    (blockStream (descriptor 3 48)).1 = (3 : Fin 64).val ∧ blockStatus (fed 0) (descriptor 3 48) = none ∧
    blockStatus (fed 0) (descriptor 3 47) = some 2 ∧ blockStatus node (descriptor 3 48) = some 1 ∧
    (fed 0).strm.s[(3 : Fin 64)].buffer.length / (4 * max 1 (strmReg (fed 0) 3 5)) + (blockStream (descriptor 3 48)).2 ≤ 1024 ∧
    1024 < (fed 1019).strm.s[(3 : Fin 64)].buffer.length / (4 * max 1 (strmReg (fed 1019) 3 5)) + (blockStream (descriptor 3 48)).2 := by
  decide +kernel

/-! ### Supplies, resets and boot -/

def power (f : PowerS → PowerS) : Dev := { node with pow := f { node.pow with railCore := true, railDdr := true } }

theorem met_supplies : (power id).pow.porN = true ∧ (power id).pow.state ≠ .resetHeld ∧ (power id).pow.railCore = true ∧
    (power id).pow.warnCore = false ∧ (power fun p => { p with warnCore := true }).pow.warnCore = true ∧
    (power fun p => { p with warnIo := true }).pow.warnIo = true ∧ (power id).recd.state = .off ∧ (recorder .logging id).recd.state ≠ .off ∧
    (recorder .closed id).recd.mediumFailed = false ∧ (recorder .closed fun m => { m with mediumFailed := true }).recd.mediumFailed = true ∧
    (recorder .closed id).recd.state = .closed ∧ fast.node.profile = 2 ∧ (∀ r ∈ [Rail.vddioA, .vddCore, .pgCore, .pgIo], resetCounts r (power id) = true) ∧
    resetCounts .vddCore node = false ∧ resetCounts .vddioA { node with pow := PowerS.reset } = false ∧
    (let p := { node.pow with state := PowerState.resetHeld, bootCause := 3 }
     p.state = .resetHeld ∧ p.porN = true ∧ p.pgCore = false ∧ p.bootCause ≤ 5) ∧ node.pins.testMode = false ∧
    PowerS.reset.porN = false ∧ PowerS.reset.pgCore = false ∧ node.sec.lifecycle = 1 ∧ warmRefused node = false ∧
    warmRefused (setReg 0x2D04 7 2 node) = true := by decide +kernel

theorem met_supplies_role : MayWrite node .pcie 0x2D02 1 ∧ Served (setReg 0x2D04 7 2 node) .pcie ∧
    MayWrite (setReg 0x2D04 7 2 node) .pcie 0x2D02 1 ∧ node.Valid :=
  ⟨⟨_, rfl, by decide⟩, by unfold Served; decide, ⟨_, rfl, by decide⟩,
    by unfold Dev.Valid Dev.Canonical DictS.Canonical HostS.Canonical TimeS.Bounded; decide +kernel⟩

/-- A boot at step `n` of R483, with the factory image in partition A or with none. -/
def boot (n : Nat) (image : Bool) (f : PowerS → PowerS) : Dev :=
  { node with pow := f { PowerS.reset with
      state := .booting, porN := true, bootStep := n, railCore := true, seqState := .holding
      partA := if image then Partition.factory else Partition.blank } }

def confirmedAgain : Partition := { Partition.factory with generation := 2 }

theorem met_boot : (boot 1 true id).pow.state = .booting ∧ (boot 1 true id).pow.bootStep = 1 ∧ (boot 1 true id).pow.railCore = true ∧
    (boot 1 true id).pow.pgCore = false ∧ (boot 1 true id).pow.seqState ≠ .recoveryHeld ∧ (boot 1 true id).pow.bootCause ≠ 6 ∧
    Partition.candidate (partOf (boot 1 true id) false) = true ∧ imageLoads (boot 1 true id) false = true ∧
    (boot 1 true id).sec.lifecycle ≠ 4 ∧ Partition.candidate (partOf (boot 1 true id) true) = false ∧
    Partition.candidate (partOf (boot 1 false id) false) = false ∧ Partition.candidate (partOf (boot 1 false id) true) = false ∧
    (boot 1 true fun p => { p with railDdr := true }).pow.railDdr = true ∧ (boot 1 true id).pow.pgIo = false ∧
    (boot 1 true fun p => { p with railDeadline := some 9 }).pow.railDeadline = some 9 ∧
    (boot 1 true fun p => { p with railRetry := some 9 }).pow.railRetry = some 9 ∧
    (boot 2 true fun p => { p with selectRetry := some 9 }).pow.selectRetry = some 9 ∧
    (boot 3 true fun p => { p with readyDeadline := some 9 }).pow.readyDeadline ≠ none ∧ (boot 3 true id).pow.agentReady = false ∧
    (boot 3 true id).pow.booted = false ∧ (boot 3 true fun p => { p with booted := true }).pow.booted = true := by decide +kernel

/-- A stored configuration of this product that is marked for defaults is not loaded. -/
theorem met_no_copy : bootCopy (onDict (fun q => { q with copy0 := { q.copy0 with marked := true }, copy1 := { q.copy1 with marked := true } })
    (boot 3 true id)) = none := by
  unfold bootCopy
  simp [onDict]

/-- The header of a sealed copy with no record. -/
def copyHead (d : Dev) : CfgCopy :=
  { CfgCopy.blank with magic := 0x4B5A4346, generation := 1, product := BitVec.ofNat 32 (productCode d), majorLine := BitVec.ofNat 8 (majorLine d) }

theorem sealed_fields (c : CfgCopy) : c.seal.records = c.records ∧ c.seal.size = (c.records.map List.length).sum ∧
    c.seal.magic = c.magic ∧ c.seal.product = c.product ∧ c.seal.majorLine = c.majorLine ∧ c.seal.marked = c.marked ∧
    c.seal.crc = crc32 (c.seal.header ++ c.records.flatten) := by
  cases c
  simp only [CfgCopy.seal, CfgCopy.records, CfgCopy.header, and_self]

theorem sealed_valid (d : Dev) (c : CfgCopy) (hm : c.magic = 0x4B5A4346) (hp : c.product.toNat = productCode d)
    (hl : c.majorLine.toNat = majorLine d) (h : (c.records.map List.length).sum ≤ 8 * 1024 * 1024 - 64) :
    copyValid d c.seal = true := by
  obtain ⟨h1, h2, h3, h4, h5, -, h7⟩ := sealed_fields c
  unfold copyValid
  rw [h1, h2, h3, h4, h5, h7]
  simp only [hm, hp, hl, h, decide_true, Bool.and_self]
def copied : Dev := onDict (fun q => { q with copy0 := (copyHead (boot 3 true id)).seal, copy1 := { q.copy1 with marked := true } }) (boot 3 true id)

/-- A copy of the defaults loads at the boot, as long as its records fit into the region of 8 MiB (they take 780 KB). -/
theorem met_copy (h : ((copyHead (boot 3 true id)).records.map List.length).sum ≤ 8 * 1024 * 1024 - 64) :
    bootCopy copied = some (copyHead (boot 3 true id)).seal := by
  have hv : copyValid copied (copyHead (boot 3 true id)).seal = true :=
    sealed_valid copied _ rfl (by decide +kernel) (by decide +kernel) h
  have hm : (copyHead (boot 3 true id)).seal.marked = false := (sealed_fields _).2.2.2.2.2.1
  have he : copied.chip.emmc = true := rfl
  have h0 : copied.dict.copy0 = (copyHead (boot 3 true id)).seal := rfl
  have h1 : copied.dict.copy1.marked = true := rfl
  unfold bootCopy
  simp only [h0, h1, he, hv, hm, Bool.not_true, Bool.not_false, Bool.and_true, Bool.and_false, Bool.false_and, Bool.true_or, if_true]

theorem met_images : (power fun p => { p with confirmDeadline := some 9 }).pow.confirmDeadline = some 9 ∧ node.node.profile ≠ 4 ∧
    (partOf (power fun p => { p with partA := { p.partA with state := .trial } }) (power id).pow.bootedB).state = .trial ∧
    (power fun p => { p with fwWriting := some confirmedAgain }).pow.fwWriting = some confirmedAgain ∧ emmcReady (power id) = true ∧
    emmcReady noMedium = false ∧ MayWrite node .pcie 0x2D04 5 ∧ MayWrite node .pcie 0x2D04 6 ∧ Served node .pcie ∧
    cfg node 0x2D04 7 ≠ 2 ∧ cfg node 0x2D04 7 ≠ 3 ∧ (0 : BitVec 32).toNat ≤ node.pow.fwImage.length ∧
    firmwareVerdict node node.pow.fwImage = 0x0F000007 :=
  ⟨rfl, by decide, rfl, rfl, by decide, by decide, ⟨_, rfl, by decide⟩, ⟨_, rfl, by decide⟩, by unfold Served; decide,
    by decide, by decide, by decide, by rfl⟩

theorem met_sequencer : node.pow.agentReady = true ∧ (boot 3 true id).pow.agentReady = false ∧
    (power fun p => { p with watchdogDeadline := some 9 }).pow.watchdogDeadline = some 9 ∧ (power id).pow.seqState = .watching ∧
    (power fun p => { p with stableDeadline := some 9 }).pow.stableDeadline = some 9 ∧ (power id).pow.stableDeadline = none ∧
    (power fun p => { p with seqState := .holding, episode := 3 }).pow.episode = 3 ∧
    (power fun p => { p with seqState := .recovery }).pow.seqState = .recovery ∧ (power id).sleep.state ≠ .committing ∧
    (asleepAs .committing id).sleep.state = .committing ∧ (power fun p => { p with wakeDeadline := some 9 }).pow.wakeDeadline = some 9 ∧
    node.pins.strapPmb = false ∧ ({ node with pins := { node.pins with strapPmb := true } } : Dev).pins.strapPmb = true ∧
    (63 : BitVec 8).toNat < 64 ∧ 64 ≤ (64 : BitVec 8).toNat := by decide +kernel

theorem met_outputs_role : MayWrite node .pcie 0x2D06 2 := ⟨_, rfl, by decide⟩

/-! ### Ageing, margins and counters -/

def aged (f : HealthS → HealthS) : Dev := setReg 0x2E02 1 1 (setReg 0x2D02 3 1 { node with health := f node.health })

def plan (v : Option Nat) : Plan := { clocks := [(29, 395000)], vcore := v, guardAdd := 2, eq := [], followClocks := [], followVcore := none }

/-- Every sensor measured with slack enough for a step down. -/
def ample : Dev := setReg 0x2E03 2 820 (aged fun h => { h with
  prevAmple := true, planDue := some 9, sensors := Vector.replicate 128 { slack := 500, shift := 0, measured := true } })

theorem met_planner : (aged fun h => { h with scanDue := some 9 }).health.scanDue = some 9 ∧ plannerAllowed (aged id) = true ∧
    cfgB (aged id) 0x2E02 1 = true ∧ (aged id).health.planner = .idle ∧ voltageMoves (aged id) = true ∧
    vcoreSet (aged id) < cfg (aged id) 0x2E02 4 ∧ islandMeasured (aged id) (sensorIsland 0) = true ∧ islandMeasured deadPaths 38 = false ∧
    shortIslands (aged fun h => { h with sensors := vmod h.sensors 0 fun _ => { slack := 1, shift := 0, measured := true } })
      (cfg (aged id) 0x2E01 2) ≠ [] ∧
    (∀ x ∈ measured ample, (cfg ample 0x2E01 2 : Int) + 40 ≤ x.2.slack) ∧ ample.health.prevAmple = true ∧ ample.health.planDue = some 9 ∧
    (∀ i : Fin 41, clockStep i.val ≠ none → nominalClock i.val ≤ clockNow ample i.val) ∧ cfg ample 0x2E02 3 < vcoreSet ample := by
  decide +kernel

theorem met_plan : (aged fun h => { h with applyAt := some 9, plan := some (plan none) }).health.plan = some (plan none) ∧
    (plan none).clocks = [((29 : Fin 41).val, 395000)] ∧ (plan none).vcore = none ∧ (plan (some 810)).vcore = some 810 ∧
    (let d := sched fun m => { m with state := .running }
     scheduleActive d = true ∧ d.sched.switchPending = false ∧ d.strm.switchPending = false ∧ d.inaug.accepted = none ∧
       d.sched.lastSwitch ≠ 9 ∧ d.sched.lastBoundary ≠ 9 ∧ d.strm.lastBoundary ≠ some 9 ∧ d.time.armed = none) ∧
    (aged id).pow.warnIo = false ∧ (aged id).pow.warnCore = false ∧ (power fun p => { p with warnIo := true }).pow.warnIo = true ∧
    scheduleActive (aged id) = false ∧ scheduleActive (sched fun m => { m with state := .running, switchPending := true }) = true ∧
    (aged id).health.planner ≠ .confirming ∧ (aged fun h => { h with planner := .confirming, commanded := 810, confirmBy := some 9 }).health.planner =
      .confirming ∧ (815 : BitVec 16).toNat ≤ 810 + 10 ∧ 810 ≤ (815 : BitVec 16).toNat + 10 ∧ ¬ (825 : BitVec 16).toNat ≤ 810 + 10 := by
  decide +kernel

theorem met_tracker : (aged fun h => { h with tracker := { h.tracker with updateAt := some 9 } }).health.tracker.updateAt = some 9 ∧
    trackerLearns node = false ∧ trackerLearns { node with time := { node.time with state := .synchronised } } = true ∧
    (aged fun h => { h with tracker := { h.tracker with count := 2, sum := 6 } }).health.tracker.count ≠ 0 ∧
    (aged fun h => { h with recordDue := some 9 }).health.recordDue = some 9 ∧ emmcWorks node = true ∧ emmcWorks noMedium = false ∧
    bitOf (cfg (setReg 0x2E08 1 0x10 node) 0x2E08 1) 4 = true ∧ bitOf (cfg (setReg 0x2E08 1 1 node) 0x2E08 1) 4 = false ∧
    bitOf (cfg (setReg 0x2E08 1 1 node) 0x2E08 1) 0 = true := by decide +kernel

theorem met_health_role : MayWrite node .pcie 0x2E08 2 ∧ MayWrite node .pcie 0x2E04 6 := ⟨⟨_, rfl, by decide⟩, ⟨_, rfl, by decide⟩⟩

/-! ### Security -/

def secure (f : SecS → SecS) : Dev := { node with sec := f node.sec }

/-- A token for observation from debug key 1, for one minute. -/
def token : List Byte := [1, 1, 1, 0] ++ List.replicate 140 0

theorem met_debug : (secure id).sec.level = 0 ∧ (secure fun x => { x with level := 3 }).sec.scanStarted = false ∧
    (secure fun x => { x with level := 3, scanStarted := true }).sec.scanStarted = true ∧ (secure id).sec.randomOk = true ∧
    (secure fun x => { x with randomOk := false }).sec.randomOk = false ∧ (secure id).sec.authLockEnd = none ∧
    (secure fun x => { x with authLockEnd := some 9 }).sec.authLockEnd = some 9 ∧ tokenOk (secure id) token = true ∧
    tokenOk (secure id) (token.take 100) = false ∧ leNat (slice token 0 1) = 1 ∧
    (secure fun x => { x with level := 2, halted := true, grantEnd := some 9 }).sec.grantEnd = some 9 := by decide +kernel

/-- The node with session 7 as a Vendor session. -/
def vendor : Dev := onDict (fun q => { q with sessions := [{ session with role := 3 }] }) net

theorem met_security_role : MayWrite node .pcie 0x2F00 2 ∧ MayWrite vendor (.kda 7 4) 0x2F00 3 ∧ (List.replicate 176 (0 : Byte)).length = 176 ∧
    voidRefused node = false ∧ voidRefused (secure fun x => { x with lifecycle := 4 }) = true ∧ node.sec.lifecycle ≠ 2 ∧
    (secure fun x => { x with lifecycle := 2 }).sec.lifecycle = 2 ∧ lifecycleBusy node = false ∧
    (secureRefused node = true ∧ vendor.sec.lifecycle = 1) ∧
    returnTokenOk (secure fun x => { x with lifecycle := 2 }) (List.replicate 176 0) = false :=
  ⟨⟨_, rfl, by decide⟩, ⟨_, rfl, by decide⟩, by decide +kernel, by decide, by decide, by decide, by decide, by decide, by decide,
    by decide +kernel⟩

theorem met_vendor : Served vendor (.kda 7 4) := by
  unfold Served
  exact ⟨rfl, rfl, rfl, rfl, rfl, { session with role := 3 }, rfl, rfl, rfl, rfl, by decide, by decide⟩

theorem met_secure : secureRefused node = true ∧
    secureRefused (onDict (fun q => q.setReg 0x2F01 1 (.bytes (List.replicate 64 1))) node) = false := by decide +kernel

/-! ### The stated rules -/

theorem met_springcount : 4 ≤ (4 : Port).val ∧ portUp net 4 = true ∧ twinPort net ≠ some 0 ∧ portUp net 0 = true := by decide +kernel

/-- A session that asks for 4 bytes of 0x2002:07 from its start. -/
def asked : List Byte := beBytes 2 0x2002 ++ [7, 0] ++ beBytes 4 0 ++ beBytes 2 4 ++ [0, 0]

def askNext : KdaHeader := { kdaNext with length := 12 }

theorem met_reads : (∃ row, rowOf 0x2002 7 = some row ∧ row.reads (roleOf node .pcie) = true) ∧ readRefused node 0x2002 7 = false ∧
    computed node 0x2002 7 = none ∧ node.dict.staged.length = ([] : List Staged).length ∧ KdaHears kda askNext asked.length ∧ InSession kda askNext asked.length session ∧
    session.stored ≠ none ∧ askNext.seq = session.lastSeq + 1 ∧ 12 ≤ asked.length ∧ requestBlock asked = (0x2002, 7, 0, 4) :=
  ⟨⟨_, rfl, by decide⟩, by decide, by decide, rfl, by unfold KdaHears KdaReaches; decide, by unfold InSession KdaHears KdaReaches; decide, by decide, by decide,
    by decide, by decide⟩

theorem met_reads_mailbox :
    let h := hostDev fun h => { h with mbPcie := { h.mbPcie with window := Memory.write [] 0 ([0x10, 7, 2, 0x20] ++ leBytes 4 0 ++ leBytes 2 4) } }
    let w := Memory.readBytes (mailboxOf h.host .pcie).window 0 4096
    leNat (slice w 0 1) = 0x10 ∧ leNat (slice w 1 1) = 7 ∧ leNat (slice w 2 2) = 0x2002 ∧ leNat (slice w 4 4) = 0 ∧ pathSrc .pcie = .pcie := by
  decide +kernel

theorem met_expected : gwActive checked = true ∧ telegram.msgType = 0x5064 ∧ accepts checked telegram = some 3 ∧
    ((checkFor checked false true 0 (3 : Fin 64).val).map fun x => (x.1, x.2.expLen, x.2.fits telegram.data.length, x.2.kind, x.2.width)) =
      some (0, 1, true, 0, 0) := by decide +kernel

/-! ### Tests against tables and worked examples of the spec -/

/-- The check values of R351. -/
theorem test_crc_check_values :
    let nine : List Byte := [0x31, 0x32, 0x33, 0x34, 0x35, 0x36, 0x37, 0x38, 0x39]
    ([1, 2, 3, 4, 5, 6, 7].map fun k => crcKind k nine) = [0x4B, 0xDF, 0x29B1, 0xBB3D, 0xCBF43926, 0xE3069283, 0x1697D06A] := by
  decide +kernel

/-- The example of chapter 00: the serial number of node S3b, the product code of an EX part. -/
theorem test_identity_object :
    let d : Dev := { node with chip := { node.chip with ident := 0x02B41C000232#48, ex := true } }
    (entryValue d 0x1018 4).toNat = 0x1C000232 ∧ (entryValue d 0x1018 2).toNat = 0x00018840 ∧ (entryValue d 0x1018 3).toNat = 0x00B10304 := by
  decide +kernel

/-- The example after R54: an SDO write of 0x2001:01 is staged and counted in 0x2002:03. -/
theorem test_sdo_write_is_staged :
    let d := setReg 0x2010 9 2 (setReg 0x2010 2 2 (setReg 0x2010 0x0A 0x21 node))
    let r := exec (.sdoDownload 1 0x2001 1 [0] true .none) (run d)
    ∃ t, r = .next t ∧ (entryValue t.dev 0x2002 3).toNat = (entryValue d 0x2002 3).toNat + 1 ∧ t.dev.node.profile = d.node.profile ∧
      t.dev.dict.staged.length = 1 := ⟨_, rfl, by decide +kernel⟩

/-- The translation of the example of chapter 04 (R135, R136): the camera of Unit South as consist 1 and as consist 2. -/
theorem test_translation :
    let d := onDict (fun q => { q with mem := Memory.write q.mem (tableAddr 0x5020 1 0) [10, 0, 0, 0, 18, 7, 0, 0] }) node
    let b := fun (consist : Nat) => resolveBank d { node.inaug.now with consist := consist }
    translateOut d (b 1) 0x0A000329 = some 0x0A804329 ∧ translateOut d (b 2) 0x0A000329 = some 0x0A808329 ∧
      translateIn d (b 2) 0x0A808329 = some 0x0A000329 ∧ translateIn d (b 2) 0x0A804329 = none := by decide +kernel

/-- The frames of the example of chapter 11, on channel 12. -/
theorem test_check_unit_example :
    let r : CheckRec := { valid := true, protects := false, telegram := false, block := 2, lsbFirst := false, ctl := 0, unit := 10, kind := 1
                          ident := 0x42, identMode := 2, width := 4, crcAt := 0, start := 0, length := 3, counterAt := 1, counterBit := 0
                          maxDelta := 2, recovery := 1, silence := 10, expAt := 1, expLen := 1, expMask := 0xF0, expValue := 0xA0 }
    let x : CheckCh := { CheckCh.blank with state := .initial }
    let seen := fun (n : Nat) => { x with state := .valid, last := n }
    (r.judge x [0x99, 0xA5, 0x3C]) = (0, 5, 0) ∧ (r.judge (seen 5) [0x4D, 0xA6, 0x3C]) = (0, 6, 0) ∧
      (r.judge (seen 6) [0x4D, 0xA6, 0x3C]).1 = 2 ∧ (r.judge (seen 6) [0xA2, 0xA8, 0x3C]) = (0, 8, 1) ∧
      (r.judge (seen 8) [0x5A, 0xB9, 0x3C]) = (4, 9, 0) := by decide +kernel

/-- The effective phases of the four call-point lamps in the example of chapter 14. -/
theorem test_spread_phases :
    let lamp := fun (k : Nat) (d : Dev) =>
      setReg (0x2C20 + k) 0x0A 2 (setReg (0x2C20 + k) 0x0B 1000000 (setReg (0x2C20 + k) 0x0C 500000 (setReg (0x2C20 + k) 0x0D 0 d)))
    let d := lamp 8 (lamp 9 (lamp 10 (lamp 11 node)))
    [8, 9, 10, 11].map (fun k => effPhase d k) = [0, 250000, 500000, 750000] := by decide +kernel

/-- The planning run of the example of chapter 17: 820 mV and a guard addition of 24 ns. -/
theorem test_planning_run :
    let d := setReg 0x2E03 2 810 (aged fun h => { h with
      planDue := some 9, sensors := vmod h.sensors 58 (fun _ => { slack := 55, shift := 0, measured := true }), offsetSq := 441, offsetCount := 1 })
    ∃ t, exec .planningPeriod (run d) = .next t ∧ (t.dev.health.plan.map fun p => (p.vcore, p.guardAdd)) = some (some 820, 24) :=
  ⟨_, rfl, by decide +kernel⟩

/-- Steps 1 and 5 of the example of chapter 16: a watchdog trip starts image B once more; after three boots the next trip
marks it failed and starts A. -/
theorem test_trial_image :
    let d := fun (boots : Nat) => power fun p => { p with
      bootedB := true, seqState := .watching, watchdogDeadline := some 5, partA := { Partition.factory with generation := 8 }
      partB := { Partition.factory with generation := 9, release := 0x00000307, state := .trial, trialBoots := boots } }
    (∃ t, exec .watchdogTrip (run (d 1)) = .next t ∧ t.dev.pow.bootedB = true ∧ t.dev.pow.partB.trialBoots = 2 ∧ t.dev.pow.restarts = 1) ∧
      ∃ t, exec .watchdogTrip (run (d 3)) = .next t ∧ t.dev.pow.bootedB = false ∧ t.dev.pow.partB.state = .failed :=
  ⟨⟨_, rfl, by decide +kernel⟩, ⟨_, rfl, by decide +kernel⟩⟩

end Sys2Proof.Machine.Tests
end

section
/-! PROOF. A read answers the committed value of an entry, and what is staged never shows in it (R38): first what each function
on the way of a read makes of a device with another staging set, then what a read that is served at once answers. -/

namespace Sys2Proof.Machine

/-! ### What a read makes of a device with another staging set (R38) -/

section staging

/-- The device with another staging set. -/
def restage (st : List Staged) (d : Dev) : Dev := onDict (fun q => { q with staged := st }) d

/-- `b` is `a` with another staging set of as many writes. -/
def Restaged (a b : Dev) : Prop := ∃ st : List Staged, st.length = a.dict.staged.length ∧ b = restage st a

variable {a b : Dev}

/-- A change that neither reads nor writes the staging set. -/
theorem Restaged.act (h : Restaged a b) (f : Dev → Dev) (hf : ∀ st d, f (restage st d) = restage st (f d))
    (hs : ∀ d, (f d).dict.staged = d.dict.staged) : Restaged (f a) (f b) := by
  obtain ⟨st, hl, rfl⟩ := h
  exact ⟨st, by rw [hs, hl], hf st a⟩

theorem Restaged.ite {c : Prop} [Decidable c] {x y x' y' : Dev} (h1 : Restaged x x') (h2 : Restaged y y') :
    Restaged (if c then x else y) (if c then x' else y') := by
  split
  exacts [h1, h2]

/-- A choice that does not depend on the staging set. -/
theorem onlyIf_restaged (c : Bool) (f : Dev → Dev) (hf : Restaged a b → Restaged (f a) (f b)) (h : Restaged a b) :
    Restaged (onlyIf c f a) (onlyIf c f b) := .ite (hf h) h

theorem forEach_restaged {α : Type} (l : List α) (f : α → Dev → Dev) (h : Restaged a b)
    (hf : ∀ x a b, Restaged a b → Restaged (f x a) (f x b)) : Restaged (forEach l f a) (forEach l f b) := by
  induction l generalizing a b with
  | nil => exact h
  | cons x l ih => exact ih (hf x a b h)

/-- No session is staged. -/
theorem Restaged.sessionOf_eq (h : Restaged a b) (id : BitVec 32) : sessionOf b id = sessionOf a id := by
  obtain ⟨st, -, rfl⟩ := h
  rfl

/-! #### What the device judges and computes -/

section judged
variable {st : List Staged} {d : Dev} (hl : st.length = d.dict.staged.length)
include hl

/-- Of the entries of chapters 00 to 02 only the count 0x2002:03 looks at the staging set. -/
theorem agentRead_restage (i b : Nat) : agentRead (restage st d) i b = agentRead d i b := by
  unfold agentRead
  split
  case h_6 => exact congrArg numV hl
  all_goals rfl

theorem computed_restage (i b : Nat) : computed (restage st d) i b = computed d i b := by
  have ha := agentRead_restage hl i b
  unfold computed
  split
  case h_1 => rw [ha]; rfl
  case h_2 => rw [ha]; rfl
  all_goals rfl

theorem entryValue_restage (i b : Nat) : entryValue (restage st d) i b = entryValue d i b := by
  unfold entryValue
  rw [computed_restage hl]
  rfl

theorem judgeRead_restage (r : Req) : judgeRead (restage st d) r = judgeRead d r := by
  unfold judgeRead readValueOf
  rw [entryValue_restage hl]
  rfl

end judged

/-! #### Frames that the node sends -/

theorem countEv_restaged (code inst qual k : Nat) (h : Restaged a b) :
    Restaged (countEv code inst qual k a) (countEv code inst qual k b) := h.act _ (fun _ _ => rfl) (fun _ => rfl)

theorem bump_restaged (idx sub : Nat) (h : Restaged a b) : Restaged (bump idx sub a) (bump idx sub b) :=
  h.act _ (fun _ _ => rfl) (fun _ => rfl)

theorem onFab_restaged (f : FabricS → FabricS) (h : Restaged a b) : Restaged (onFab f a) (onFab f b) :=
  h.act _ (fun _ _ => rfl) (fun _ => rfl)

theorem emit_restaged (o : Out) (h : Restaged a b) : Restaged (emit o a) (emit o b) := h.act _ (fun _ _ => rfl) (fun _ => rfl)

theorem pushFrame_restaged (p : Port) (q : Fin 8) (f : QFrame) (h : Restaged a b) :
    Restaged (pushFrame p q f a) (pushFrame p q f b) := h.act _ (fun _ _ => rfl) (fun _ => rfl)

theorem countDiscard_restaged (p : Port) (q : Nat) (h : Restaged a b) : Restaged (countDiscard p q a) (countDiscard p q b) :=
  h.act _ (fun _ _ => rfl) (fun _ => rfl)

theorem countUnsent_restaged (p : Port) (q : Fin 8) (h : Restaged a b) : Restaged (countUnsent p q a) (countUnsent p q b) :=
  onlyIf_restaged _ _ (bump_restaged _ _) (onlyIf_restaged _ _ (bump_restaged _ _) (bump_restaged _ _ h))

theorem allocCells_restaged (uid n : Nat) (h : Restaged a b) : Restaged (allocCells uid n a) (allocCells uid n b) := by
  have h0 := h
  obtain ⟨st, -, rfl⟩ := h
  unfold allocCells
  exact .ite h0 (forEach_restaged _ _ (onFab_restaged _ h0) fun _ _ _ => countEv_restaged _ _ _ _)

theorem admitPort_restaged (f : QFrame) (need : Nat) (rate : Option Nat) (p : Port) (q : Fin 8) (h : Restaged a b) :
    Restaged (admitPort f need rate p q a) (admitPort f need rate p q b) := by
  have h0 := h
  obtain ⟨st, -, rfl⟩ := h
  unfold admitPort
  dsimp only
  refine .ite (countUnsent_restaged p q h0) (.ite (.ite ?_ (countDiscard_restaged p q h0))
    (.ite ?_ (countDiscard_restaged p q h0)))
  · exact bump_restaged _ _ (bump_restaged _ _ (pushFrame_restaged _ _ _ (onFab_restaged _ h0)))
  · exact bump_restaged _ _ (pushFrame_restaged _ _ _ (allocCells_restaged _ _ h0))

theorem sendOwn_restaged (p : Port) (q : Fin 8) (bs : List Byte) (h : Restaged a b) :
    Restaged (sendOwn p q bs a) (sendOwn p q bs b) := by
  have h0 := h
  obtain ⟨st, -, rfl⟩ := h
  unfold sendOwn
  exact admitPort_restaged _ _ _ _ _ (onFab_restaged _ h0)

theorem sendKda_restaged (peer : KdaPeer) (key : Option (List Byte)) (session seq : BitVec 32) (opcode : Nat)
    (payload : List Byte) (h : Restaged a b) :
    Restaged (sendKda peer key session seq opcode payload a) (sendKda peer key session seq opcode payload b) := by
  have h0 := h
  obtain ⟨st, -, rfl⟩ := h
  unfold sendKda
  exact .ite (sendOwn_restaged _ _ _ (emit_restaged _ h0)) (emit_restaged _ h0)

/-! #### Answers -/

theorem onSession_restaged (id : BitVec 32) (f : KdaSession → KdaSession) (h : Restaged a b) :
    Restaged (onSession id f a) (onSession id f b) := h.act _ (fun _ _ => rfl) (fun _ => rfl)

theorem onMailbox_restaged (path : HostPath) (f : Mailbox → Mailbox) (h : Restaged a b) :
    Restaged (onMailbox path f a) (onMailbox path f b) := by
  cases path <;> exact h.act _ (fun _ _ => rfl) (fun _ => rfl)

theorem sendVector_restaged (v : Fin 16) (h : Restaged a b) : Restaged (sendVector v a) (sendVector v b) := by
  have h0 := h
  obtain ⟨st, hl, rfl⟩ := h
  unfold sendVector
  exact .ite ⟨st, hl, rfl⟩ (emit_restaged _ h0)

theorem setInt_restaged (bit : Nat) (h : Restaged a b) : Restaged (setInt bit a) (setInt bit b) := by
  obtain ⟨st, hl, rfl⟩ := h
  unfold setInt
  exact .ite (sendVector_restaged _ ⟨st, hl, rfl⟩) ⟨st, hl, rfl⟩

theorem answerMailbox_restaged (path : HostPath) (src : Src) (rs : Resp) (h : Restaged a b) :
    Restaged (answerMailbox path src rs a) (answerMailbox path src rs b) := by
  have h0 := h
  obtain ⟨st, -, rfl⟩ := h
  unfold answerMailbox
  exact .ite (onMailbox_restaged _ _ h0) (.ite h0 (emit_restaged _ (setInt_restaged _ (onMailbox_restaged _ _ h0))))

theorem sdoAborts_restaged (c : CanId) (idx sub code : Nat) (h : Restaged a b) :
    Restaged (sdoAborts c idx sub code a) (sdoAborts c idx sub code b) := h.act _ (fun _ _ => rfl) (fun _ => rfl)

theorem answer_restaged (src : Src) (rs : Resp) (h : Restaged a b) : Restaged (answer src rs a) (answer src rs b) := by
  cases src with
  | sdo c =>
    obtain ⟨st, hl, rfl⟩ := h
    exact .ite ⟨st, hl, rfl⟩ ⟨st, hl, rfl⟩
  | kda id seq =>
    unfold answer
    dsimp only
    rw [h.sessionOf_eq]
    split
    · exact sendKda_restaged _ _ _ _ _ _ (onSession_restaged _ _ h)
    · exact h
  | pcie => exact answerMailbox_restaged _ _ _ h
  | serial => exact answerMailbox_restaged _ _ _ h

/-! #### Requests -/

theorem readEffect_restaged (idx sub : Nat) (h : Restaged a b) : Restaged (readEffect idx sub a) (readEffect idx sub b) := by
  obtain ⟨st, hl, rfl⟩ := h
  unfold readEffect
  refine .ite ?_ (.ite ?_ (.ite ?_ (.ite ?_ (.ite ?_ ?_))))
  all_goals exact ⟨st, hl, rfl⟩

theorem serveRead_restaged (r : Req) (n : Nat) (h : Restaged a b) : Restaged (serveRead r n a) (serveRead r n b) := by
  have h0 := h
  obtain ⟨st, hl, rfl⟩ := h
  unfold serveRead
  rw [judgeRead_restage hl]
  split
  · exact answer_restaged _ _ h0
  · exact answer_restaged _ _ (readEffect_restaged _ _ h0)

theorem submit_restaged {r : Req} {n : Nat} (hr : r.op = .read n) (h : Restaged a b) : Restaged (submit r a) (submit r b) := by
  have h0 := h
  obtain ⟨st, hl, rfl⟩ := h
  unfold submit serveNow
  simp only [hr]
  exact .ite h0 (.ite ⟨st, hl, rfl⟩ (.ite h0 (serveRead_restaged r n h0)))

/-! #### Paths -/

theorem sdoStep_restaged (c : CanId) {r : Req} {n : Nat} (hr : r.op = .read n) (mode : SdoMode) (finished : Bool) (code : Nat)
    (h : Restaged a b) : Restaged (sdoStep c r mode finished code a) (sdoStep c r mode finished code b) := by
  have h0 : Restaged (onlyIf (mode = .blockDown && (a.dict.sdo[c]).isNone) (sdoSend c [sdoHead 0xA4 r.idx r.sub (leBytes 1 127)]) a)
      (onlyIf (mode = .blockDown && (a.dict.sdo[c]).isNone) (sdoSend c [sdoHead 0xA4 r.idx r.sub (leBytes 1 127)]) b) :=
    onlyIf_restaged _ _ (fun h => h.act _ (fun _ _ => rfl) (fun _ => rfl)) h
  have hw : r.isWrite = false := by simp [Req.isWrite, hr]
  obtain ⟨st, hl, rfl⟩ := h
  unfold sdoStep sdoFailed
  rw [hw]
  refine .ite ⟨st, hl, rfl⟩ (.ite (sdoAborts_restaged _ _ _ _ h0) (.ite (submit_restaged hr ?_) ?_))
  · exact h0.act _ (fun _ _ => rfl) (fun _ => rfl)
  · exact h0.act (sdoWaits c r.idx r.sub) (fun _ _ => rfl) (fun _ => rfl)

theorem kdaHeard_restaged (hd : KdaHeader) (n : Nat) {act : Dev → Dev} (hact : ∀ a b, Restaged a b → Restaged (act a) (act b))
    (h : Restaged a b) : Restaged (kdaHeard hd n act a) (kdaHeard hd n act b) := by
  have hc : Restaged (if portUp a hd.peer.port then countGood hd.peer.port (frameLen (28 + 32 + n)) a else a)
      (if portUp b hd.peer.port then countGood hd.peer.port (frameLen (28 + 32 + n)) b else b) := by
    have h0 := h
    obtain ⟨st, -, rfl⟩ := h
    exact .ite (h0.act _ (fun _ _ => rfl) (fun _ => rfl)) h0
  unfold kdaHeard
  dsimp only
  generalize (if portUp a hd.peer.port then countGood hd.peer.port (frameLen (28 + 32 + n)) a else a) = a1 at hc ⊢
  generalize (if portUp b hd.peer.port then countGood hd.peer.port (frameLen (28 + 32 + n)) b else b) = b1 at hc ⊢
  obtain ⟨st, hl, rfl⟩ := hc
  refine .ite ⟨st, hl, rfl⟩ (.ite (bump_restaged _ _ ?_) (.ite ?_ (.ite (bump_restaged _ _ ?_) (hact _ _ ?_))))
  all_goals exact ⟨st, hl, rfl⟩

theorem inSequence_restaged (hd : KdaHeader) {serve : Dev → Dev} (hs : ∀ a b, Restaged a b → Restaged (serve a) (serve b))
    (x : KdaSession) (h : Restaged a b) : Restaged (inSequence hd serve x a) (inSequence hd serve x b) := by
  have hv : Restaged (kdaValid hd a) (kdaValid hd b) := h.act _ (fun _ _ => rfl) (fun _ => rfl)
  unfold inSequence
  refine .ite ?_ (.ite (hs _ _ (onSession_restaged _ _ hv)) (bump_restaged _ _ h))
  split
  · exact sendKda_restaged _ _ _ _ _ _ hv
  · exact hv

theorem kdaRequest_restaged (hd : KdaHeader) (n : Nat) {serve : Dev → Dev}
    (hs : ∀ a b, Restaged a b → Restaged (serve a) (serve b)) (h : Restaged a b) :
    Restaged (kdaRequest hd n serve a) (kdaRequest hd n serve b) := by
  refine kdaHeard_restaged hd n (fun a b h => ?_) h
  rw [h.sessionOf_eq]
  split
  · exact .ite (inSequence_restaged hd hs _ h) (bump_restaged _ _ h)
  · exact bump_restaged _ _ h

/-- A window whose opcode is 0x10 holds a read request (R61). -/
theorem serveWindow_read {path : HostPath} {d : Dev}
    (h : leNat (slice (Memory.readBytes (mailboxOf d.host path).window 0 4096) 0 1) = 0x10) :
    serveWindow path d =
      let w := Memory.readBytes (mailboxOf d.host path).window 0 4096
      submit { src := pathSrc path, idx := leNat (slice w 2 2), sub := leNat (slice w 1 1), off := leNat (slice w 4 4),
               op := .read (min (leNat (slice w 8 2)) 4080), phy := none } d := by
  simp only [serveWindow, h]

theorem doorbell_restaged {path : HostPath}
    (hw : leNat (slice (Memory.readBytes (mailboxOf a.host path).window 0 4096) 0 1) = 0x10) (h : Restaged a b) :
    Restaged (onPath path (doorbell path) a) (onPath path (doorbell path) b) := by
  have h0 := h
  have hb : ∀ f, Restaged (onMailbox path f a) (onMailbox path f b) := fun f => onMailbox_restaged path f h
  obtain ⟨st, hl, rfl⟩ := h
  unfold onPath doorbell ringBell
  refine .ite (.ite (hb _) (.ite (setInt_restaged _ (hb _)) ?_)) h0
  rw [serveWindow_read (path := path) (d := onMailbox path _ a) (by cases path <;> exact hw),
    serveWindow_read (path := path) (d := onMailbox path _ (restage st a)) (by cases path <;> exact hw)]
  cases path <;> exact submit_restaged rfl (hb _)

/-- A command whose function keeps devices alike but for the staged writes completes on both with the same answer sent, the same
mailboxes, committed registers and large tables. -/
theorem completes_restaged {c : Instr} {f : Dev → Dev} {s : State} {st : List Staged} (hf : ∀ s, exec c s = s.does f)
    (h : Restaged (f s.found) (f (restage st s.found))) :
    Completes c s fun d => Completes c { s with dev := onDict (fun q => { q with staged := st }) s.dev } fun d' =>
      d'.out = d.out ∧ Part.same d d' .mail ∧ Part.same d d' .regs ∧ Part.same d d' .tables := by
  refine ⟨_, hf s, rfl, _, hf _, rfl, ?_⟩
  obtain ⟨st', -, he⟩ := h
  show (f (restage st s.found)).out = (f s.found).out ∧ Part.same (f s.found) (f (restage st s.found)) .mail ∧
    Part.same (f s.found) (f (restage st s.found)) .regs ∧ Part.same (f s.found) (f (restage st s.found)) .tables
  rw [he]
  exact ⟨rfl, rfl, rfl, rfl⟩

end staging

/-! ### A read that is served at once (R35, R38) -/

/-! #### Which entries the device computes -/

@[simp] theorem numV_isSome (n : Nat) : (numV n).isSome = true := rfl

@[simp] theorem boolV_isSome (x : Bool) : (boolV x).isSome = true := rfl

section shown
variable (d e : Dev) (i s : Nat)

theorem agentRead_isSome : (agentRead e i s).isSome = (agentRead d i s).isSome := by
  unfold agentRead
  split <;> simp only [numV_isSome]

theorem powerRead_isSome : (powerRead e i s).isSome = (powerRead d i s).isSome := by
  unfold powerRead
  dsimp only
  split <;> simp only [Option.isSome_some]

theorem profileRead_isSome : (profileRead e i s).isSome = (profileRead d i s).isSome := by
  unfold profileRead
  repeat' split
  all_goals simp only [Option.isSome_some]

theorem inaugRead_isSome (hi : e.inaug = d.inaug) : (inaugRead e i s).isSome = (inaugRead d i s).isSome := by
  unfold inaugRead consistRows
  rw [hi]
  dsimp only
  repeat' split
  all_goals simp only [numV_isSome, boolV_isSome, Option.isSome_some]

theorem fabricRead_isSome : (fabricRead e i s).isSome = (fabricRead d i s).isSome := by
  unfold fabricRead
  dsimp only
  split <;> simp only [numV_isSome, boolV_isSome]

theorem portRead_isSome : (portRead e i s).isSome = (portRead d i s).isSome := by
  unfold portRead
  dsimp only
  repeat' split
  all_goals simp only [numV_isSome]

theorem timeRead_isSome : (timeRead e i s).isSome = (timeRead d i s).isSome := by
  unfold timeRead
  dsimp only
  repeat' split
  all_goals simp only [numV_isSome, boolV_isSome]

theorem schedRead_isSome : (schedRead e i s).isSome = (schedRead d i s).isSome := by
  unfold schedRead
  dsimp only
  repeat' split
  all_goals simp only [numV_isSome, boolV_isSome]

theorem strmRead_isSome : (strmRead e i s).isSome = (strmRead d i s).isSome := by
  unfold strmRead
  dsimp only
  repeat' split
  all_goals simp only [numV_isSome, boolV_isSome]

theorem canRead_isSome : (canRead e i s).isSome = (canRead d i s).isSome := by
  unfold canRead
  dsimp only
  repeat' split
  all_goals simp only [numV_isSome, boolV_isSome, Option.isSome_some]

theorem gwRead_isSome : (gwRead e i s).isSome = (gwRead d i s).isSome := by
  unfold gwRead
  repeat' split
  all_goals simp only [numV_isSome, boolV_isSome, Option.isSome_some]

theorem checkRead_isSome : (checkRead e i s).isSome = (checkRead d i s).isSome := by
  unfold checkRead
  dsimp only
  split <;> simp only [numV_isSome]

theorem recRead_isSome : (recRead e i s).isSome = (recRead d i s).isSome := by
  unfold recRead
  dsimp only
  repeat' split
  all_goals simp only [numV_isSome, boolV_isSome, Option.isSome_some]

theorem sleepRead_isSome : (sleepRead e i s).isSome = (sleepRead d i s).isSome := by
  unfold sleepRead
  dsimp only
  repeat' split
  all_goals simp only [Option.isSome_some]

theorem loadsRead_isSome : (loadsRead e i s).isSome = (loadsRead d i s).isSome := by
  unfold loadsRead
  dsimp only
  repeat' split
  all_goals simp only [Option.isSome_some]

theorem healthRead_isSome : (healthRead e i s).isSome = (healthRead d i s).isSome := by
  unfold healthRead
  dsimp only
  repeat' split
  all_goals simp only [Option.isSome_some]

theorem secRead_isSome (hs : e.sec = d.sec) : (secRead e i s).isSome = (secRead d i s).isSome := by
  unfold secRead
  rw [hs]
  dsimp only
  repeat' split
  all_goals simp only [Option.isSome_some]

end shown

/-- Whether the device computes an entry depends on the numbering and the lifecycle alone. -/
theorem computed_isSome {d e : Dev} (hi : e.inaug = d.inaug) (hs : e.sec = d.sec) (i s : Nat) :
    (computed e i s).isSome = (computed d i s).isSome := by
  unfold computed
  split
  · rw [Option.isSome_or, Option.isSome_or, agentRead_isSome d e, powerRead_isSome d e]
  · rw [Option.isSome_or, Option.isSome_or, agentRead_isSome d e, profileRead_isSome d e]
  · exact inaugRead_isSome d e i s hi
  · exact fabricRead_isSome d e i s
  · exact portRead_isSome d e i s
  · exact timeRead_isSome d e i s
  · exact schedRead_isSome d e i s
  · exact strmRead_isSome d e i s
  · exact canRead_isSome d e i s
  · exact gwRead_isSome d e i s
  · exact checkRead_isSome d e i s
  · exact recRead_isSome d e i s
  · exact sleepRead_isSome d e i s
  · rw [Option.isSome_map, Option.isSome_map, loadsRead_isSome d e]
  · exact powerRead_isSome d e i s
  · exact healthRead_isSome d e i s
  · exact secRead_isSome d e i s hs
  · rfl

/-! #### A readable entry -/

/-- A request of `src` reads the committed register of the entry: it is no segment of a large table, the device does not compute
it, it is no MDIO access, the role may read it, and the present state does not refuse the read. -/
structure Readable (d : Dev) (src : Src) (i b : Nat) (row : EntryRow) : Prop where
  index : i < 0x5000
  exists_ : rowOf i b = some row
  allowed : row.reads (roleOf d src) = true
  stateAllows : readRefused d i b = false
  notComputed : computed d i b = none
  notMdio : 0x2300 ≤ i ∧ i < 0x2314 → b ≠ 0x1C

/-- The state rules of reads do not look at what belongs to a path. -/
theorem readRefused_path {src : Src} {d e : Dev} (h : PathOnly src d e) {i b : Nat} (hm : 0x2300 ≤ i ∧ i < 0x2314 → b ≠ 0x1C) :
    readRefused e i b = readRefused d i b := by
  have hreg : ∀ x y, ¬ (0x2210 ≤ x ∧ x < 0x2314 ∨ x = 0x2505 ∨ x = 0x2602) → y < 256 → cfg e x y = cfg d x y :=
    fun x y hx hy => h.cfg x y (frameCounters_other x y hx hy)
  obtain ⟨-, -, -, -, hmem⟩ := h.dict
  have hrecd : e.recd = d.recd := h.same .recd (by decide)
  have hsel : ∀ c, selectedObj e c = selectedObj d c := fun c => by
    have hc := c.isLt
    exact hreg _ _ (by unfold canIdx; omega) (by decide)
  have hsdo : ∀ c o, sdoObj e c o = sdoObj d c o := fun c o => by
    have hc := c.isLt
    have hs : (if o = 126 then 1 else 2) < 256 := by split <;> decide
    unfold sdoObj
    rw [hreg 0x2010 0x0A (by decide) (by decide), hreg (0x1200 + c.val) _ (by omega) hs]
  have hobj : ∀ c o, objCfg e c o = objCfg d c o := fun c o => by
    unfold objCfg tableBytes
    rw [hreg 0x2010 9 (by decide) (by decide), hmem, hsdo]
  unfold readRefused
  split
  · next hx =>
    simp only [Bool.and_eq_true, decide_eq_true_eq] at hx
    exact absurd hx.2 (hm hx.1)
  · simp only [hobj, hsel, hrecd]

/-- The path of a request leaves an entry readable. -/
theorem Readable.path {src : Src} {d e : Dev} {i b : Nat} {row : EntryRow} (h : Readable d src i b row) (hp : PathOnly src d e)
    (hr : roleOf e src = roleOf d src) : Readable e src i b row where
  index := h.index
  exists_ := h.exists_
  allowed := hr ▸ h.allowed
  stateAllows := (readRefused_path hp h.notMdio).trans h.stateAllows
  notComputed := by
    have hc := computed_isSome (hp.same .inaug (by decide)) (hp.same .sec (by decide)) i b
    rw [h.notComputed] at hc
    simpa using hc
  notMdio := h.notMdio

/-- The read request of an entry from its start. -/
def readOf (src : Src) (i b n : Nat) : Req := { src := src, idx := i, sub := b, off := 0, op := .read n, phy := none }

/-- The checks pass a readable entry with its committed register. -/
theorem judgeRead_readable {src : Src} {d : Dev} {i b : Nat} {row : EntryRow} (h : Readable d src i b row) (n : Nat) :
    judgeRead d (readOf src i b n) = .ok (encodeValue row.ty (d.dict.reg i b)) := by
  have hv : readValueOf (readOf src i b n) row d = encodeValue row.ty (d.dict.reg i b) := by
    have hm := h.notMdio
    have hi := h.index
    have h1 : ¬ (0x2300 ≤ i && i < 0x2314 && b = 0x1C) = true := by
      simp only [Bool.and_eq_true, decide_eq_true_eq]
      exact fun hx => hm hx.1 hx.2
    have h2 : ¬ (0x5000 ≤ i && i ≤ 0x5FFF) = true := by
      simp only [Bool.and_eq_true, decide_eq_true_eq]
      omega
    unfold readValueOf entryValue readOf
    rw [if_neg h1, if_neg h2, h.notComputed]
    rfl
  have hf : findRow i b = .ok row := by simp only [findRow, h.exists_]
  have he : row.readError (roleOf d src) = none := by simp only [EntryRow.readError, h.allowed, if_true]
  simp only [readOf] at hv ⊢
  unfold judgeRead
  simp only [hf, he, hv, h.stateAllows]
  cases row.ty <;> rfl

/-- The answer to a read of an entry from its start. -/
def valueAnswer (row : EntryRow) (d : Dev) (i b n : Nat) : Resp :=
  let bs := encodeValue row.ty (d.dict.reg i b)
  { idx := i, sub := b, write := false, abort := 0, data := slice bs 0 n, total := bs.length }

/-- A readable entry is answered with its committed register. -/
theorem serveRead_readable {src : Src} {d : Dev} {i b : Nat} {row : EntryRow} (h : Readable d src i b row) (hr : Ready d src)
    (n : Nat) : Answered (serveRead (readOf src i b n) n d) src (valueAnswer row d i b n) := by
  unfold serveRead
  rw [judgeRead_readable h n]
  exact answer_ready _ (hr.framed (readEffect_framed i b d (fun _ hp => hp) (.refl _ d)) (by decide) (by decide))

/-- A request of a path that serves at once is served on the device that its path leaves. -/
theorem submit_reached {r : Req} {d e : Dev} (h : Served d r.src) (hp : PathOnly r.src d e) : submit r e = serveNow r e := by
  obtain ⟨ha, hb, hc, hq, hf, -⟩ := h
  have hpow := hp.same .pow (by decide)
  have hcom := hp.same .commit (by decide)
  simp only [Part.same, Prod.mk.injEq] at hpow hcom
  obtain ⟨-, hec, hef, -, heq, -⟩ := hcom
  exact submit_served (hpow ▸ ha) (hpow ▸ hb) (hec ▸ hc) (heq ▸ hq) (hef ▸ hf)

/-- What a path makes of the device before the agent judges the request. -/
structure Reached (src : Src) (d e : Dev) : Prop where
  pathOnly : PathOnly src d e
  ready : Ready e src
  role : roleOf e src = roleOf d src

/-- A request that has come on its path reads the committed register of a readable entry. -/
theorem submit_readable {src : Src} {d e : Dev} {i b : Nat} {row : EntryRow} (hs : Served d src) (hr : Readable d src i b row)
    (he : Reached src d e) (n : Nat) : Answered (submit (readOf src i b n) e) src (valueAnswer row e i b n) := by
  rw [submit_reached (r := readOf src i b n) hs he.pathOnly, serveNow_ready (r := readOf src i b n) he.ready]
  exact serveRead_readable (hr.path he.pathOnly he.role) he.ready n

/-! #### The three kinds of path -/

/-- The last step of an upload is its request. -/
theorem sdoStep_last {c : CanId} {d : Dev} (hon : sdoOn d c = true) (ha : d.pow.agentReady = true) (r : Req) {mode : SdoMode}
    (hm : mode ≠ .blockDown) : sdoStep c r mode true 0 d = submit r (onDict (fun q => { q with
      sdo := q.sdo.set c.val none c.isLt, sdoMode := q.sdoMode.set c.val mode c.isLt }) d) := by
  unfold sdoStep
  simp [hon, ha, hm, onlyIf]

/-- An upload takes the server out of its transfer, which belongs to the path. -/
theorem sdo_reached (c : CanId) (mode : SdoMode) (d : Dev) : Reached (.sdo c) d (onDict (fun q => { q with
    sdo := q.sdo.set c.val none c.isLt, sdoMode := q.sdoMode.set c.val mode c.isLt }) d) where
  pathOnly := onDict_framed _ _ ⟨.inl rfl, .inl rfl, .inl rfl, .inl rfl, .inr (by decide), .inl rfl⟩ (.refl _ d)
  ready := trivial
  role := rfl

/-- An upload of a readable entry. -/
theorem upload_readable {c : CanId} {d : Dev} {i b : Nat} {row : EntryRow} (hs : Served d (.sdo c))
    (hr : Readable d (.sdo c) i b row) {mode : SdoMode} (hm : mode ≠ .blockDown) :
    Answered (sdoStep c (sdoReads c i b) mode true 0 d) (.sdo c) (valueAnswer row d i b wholeValue) := by
  obtain ⟨ha, -, -, -, -, hon⟩ := id hs
  rw [sdoStep_last hon ha _ hm]
  exact submit_readable hs hr (sdo_reached c mode d) wholeValue

/-- The next request of a session, a READ of a readable entry. -/
theorem kdaRead_readable {h : KdaHeader} {d : Dev} {x : KdaSession} {m i b : Nat} {row : EntryRow}
    (hs : Served d (.kda h.session h.seq)) (hr : Readable d (.kda h.session h.seq) i b row) (hin : InSession d h m x)
    (hst : x.stored.isSome = true) (hseq : h.seq = x.lastSeq + 1) (n : Nat) :
    Answered (kdaRequest h m (submit (readOf (.kda h.session h.seq) i b n)) d) (.kda h.session h.seq)
      (valueAnswer row (kdaRequest h m id d) i b n) := by
  obtain ⟨e, hserve, hpath, hses⟩ := kdaRequest_next hin hst hseq
  obtain ⟨-, hx, -, -⟩ := hin
  have hid := sessionOf_id hx
  rw [hserve, hserve]
  refine submit_readable hs hr ⟨hpath, ⟨_, hses, hid, rfl⟩, ?_⟩ n
  simp only [roleOf, hses, hx, Option.map_some]

/-- A doorbell of a free mailbox hands the request to the agent. -/
theorem doorbell_free {path : HostPath} {d : Dev} (hp : pathAlive d path = true) (hb : (mailboxOf d.host path).busy = false)
    (ha : d.pow.agentReady = true) :
    onPath path (doorbell path) d = serveWindow path (onMailbox path (fun m => { m with busy := true }) d) := by
  simp only [onPath, doorbell, ringBell, hp, hb, ha, if_true, Bool.not_true, Bool.false_eq_true, if_false]

/-- A doorbell marks the mailbox as busy, which belongs to the path. -/
theorem mailbox_reached {path : HostPath} {d : Dev} (hd : (mailboxOf d.host path).discard = false) :
    Reached (pathSrc path) d (onMailbox path (fun m => { m with busy := true }) d) := by
  cases path with
  | pcie => exact ⟨onMailbox_framed (L := [.out, .access, .mail, .ints]) .pcie _ d (by decide) (.refl _ d), ⟨rfl, hd⟩, rfl⟩
  | serial => exact ⟨onMailbox_framed (L := [.out, .access, .mail, .ints]) .serial _ d (by decide) (.refl _ d), ⟨rfl, hd⟩, rfl⟩

/-- A mailbox that serves at once is reached, free, and has not been reset. -/
theorem served_mailbox {path : HostPath} {d : Dev} (hs : Served d (pathSrc path)) :
    pathAlive d path = true ∧ (mailboxOf d.host path).busy = false ∧ (mailboxOf d.host path).discard = false := by
  obtain ⟨-, -, -, -, -, hpath⟩ := hs
  cases path <;> exact hpath

/-- A doorbell over a READ of a readable entry from its start. -/
theorem doorbell_readable {path : HostPath} {d : Dev} {i b : Nat} {row : EntryRow} (hs : Served d (pathSrc path))
    (hr : Readable d (pathSrc path) i b row) :
    let w := Memory.readBytes (mailboxOf d.host path).window 0 4096
    leNat (slice w 0 1) = 0x10 → leNat (slice w 1 1) = b → leNat (slice w 2 2) = i → leNat (slice w 4 4) = 0 →
      Answered (onPath path (doorbell path) d) (pathSrc path) (valueAnswer row d i b (min (leNat (slice w 8 2)) 4080)) := by
  intro w hop hb hi hoff
  obtain ⟨hp, hbusy, hd⟩ := served_mailbox hs
  obtain ⟨ha, -⟩ := id hs
  have hwin : (mailboxOf (onMailbox path (fun m => { m with busy := true }) d).host path).window = (mailboxOf d.host path).window := by
    cases path <;> rfl
  have hreg : (onMailbox path (fun m => { m with busy := true }) d).dict = d.dict := by cases path <;> rfl
  rw [doorbell_free hp hbusy ha, serveWindow_read (by rw [hwin]; exact hop), hwin]
  dsimp only
  rw [hb, hi, hoff]
  have h := submit_readable hs hr (mailbox_reached hd) (min (leNat (slice w 8 2)) 4080)
  unfold valueAnswer at h
  rw [hreg] at h
  exact h

/-! ### The statement -/

theorem exec_sdoUpload_eq (c : CanId) (idx : BitVec 16) (sub : BitVec 8) (finished : Bool) (f : SdoFault) (s : State) :
    exec (.sdoUpload c idx sub finished f) s =
      s.does (sdoStep c (sdoReads c idx.toNat sub.toNat) .normal finished (sdoFaultCode f)) := rfl

theorem exec_sdoBlockUpload_eq (c : CanId) (idx : BitVec 16) (sub : BitVec 8) (pst : SdoBlockStart) (finished : Bool) (f : SdoFault)
    (s : State) : exec (.sdoBlockUpload c idx sub pst finished f) s =
      s.does (sdoStep c (sdoReads c idx.toNat sub.toNat) (.blockUp pst.pst.toNat) finished
        (if f = .none && !(1 ≤ pst.size.toNat && pst.size.toNat ≤ 127) then 0x05040002 else sdoFaultCode f)) := rfl

/-- What the agent makes of a READ frame. -/
def kdaReads (h : KdaHeader) (payload : List Byte) (d : Dev) : Dev :=
  let (idx, sub, off, wanted) := requestBlock payload
  let r : Req := { src := .kda h.session h.seq, idx := idx, sub := sub, off := off, op := .read (min wanted 1400), phy := none }
  if payload.length < 12 then answerRead r 0x06070010 [] 0 d else submit r d

theorem exec_kdaRead_eq (h : KdaHeader) (payload : List Byte) (s : State) :
    exec (.kdaRead h payload) s = s.does (kdaRequest h payload.length (kdaReads h payload)) := rfl

theorem exec_mbDoorbell_eq (path : HostPath) (s : State) : exec (.mbDoorbell path) s = s.does (onPath path (doorbell path)) := rfl

theorem completes_of_exec {c : Instr} {s : State} {f : Dev → Dev} {P : Dev → Prop} (he : exec c s = s.does f) (h : P (f s.found)) :
    Completes c s P := ⟨_, he, rfl, h⟩

theorem kdaReads_restaged (h : KdaHeader) (payload : List Byte) {a b : Dev} (hr : Restaged a b) :
    Restaged (kdaReads h payload a) (kdaReads h payload b) :=
  .ite (answer_restaged _ _ hr) (submit_restaged rfl hr)

/-- A whole request block from the entry's start is a read request. -/
theorem kdaReads_of_block {h : KdaHeader} {payload : List Byte} {i b len : Nat} (hn : 12 ≤ payload.length)
    (hb : requestBlock payload = (i, b, 0, len)) :
    kdaReads h payload = submit (readOf (.kda h.session h.seq) i b (min len 1400)) := by
  funext d
  simp only [kdaReads, hb, if_neg (Nat.not_lt.mpr hn), readOf]

/-- Settles O57: each path hands the request to the agent on a device that differs from the one found only in what belongs to the
path, where the entry stays readable; and every function on the way of a read keeps two devices alike that differ in the writes of
their staging sets. -/
theorem readsReturnTheCommittedValueAndNeverAStagedOne : Obligations.ReadsReturnTheCommittedValueAndNeverAStagedOne := by
  unfold Obligations.ReadsReturnTheCommittedValueAndNeverAStagedOne
  refine fun s => ⟨fun src i b row hs hi hrow hreads href hc hm => ?_, fun staged hl => ⟨?_, ?_, ?_⟩⟩
  · have hserved : Served s.found src := hs
    have hread : Readable s.found src i b row := ⟨hi, hrow, hreads, href, hc, hm⟩
    have mailbox : ∀ path : HostPath, pathSrc path = src →
        let w := Memory.readBytes (mailboxOf s.dev.host path).window 0 4096
        leNat (slice w 0 1) = 0x10 → leNat (slice w 1 1) = b → leNat (slice w 2 2) = i → leNat (slice w 4 4) = 0 →
          Completes (.mbDoorbell path) s fun d => Answered d src (valueAnswer row s.dev i b (min (leNat (slice w 8 2)) 4080)) := by
      rintro path rfl w hop hb hi hoff
      exact completes_of_exec (exec_mbDoorbell_eq path s) (doorbell_readable hserved hread hop hb hi hoff)
    intro answers
    cases src with
    | sdo c =>
      rintro idx sub size pst rfl rfl
      refine ⟨completes_of_exec (exec_sdoUpload_eq ..) (upload_readable hserved hread nofun), fun h1 h2 => ?_⟩
      refine completes_of_exec (exec_sdoBlockUpload_eq ..) ?_
      rw [if_neg (by simp [h1, h2])]
      exact upload_readable hserved hread nofun
    | kda id seq =>
      rintro h x payload len rfl rfl hin hst hseq hn hblock
      refine completes_of_exec (exec_kdaRead_eq h payload s) ?_
      rw [kdaReads_of_block hn hblock]
      exact kdaRead_readable hserved hread hin (Option.isSome_iff_ne_none.mpr hst) hseq _
    | pcie => exact mailbox
    | serial => exact mailbox
  all_goals have h : Restaged s.found (restage staged s.found) := ⟨staged, hl, rfl⟩
  · exact fun c idx sub size pst finished f =>
      ⟨completes_restaged (exec_sdoUpload_eq c idx sub finished f) (sdoStep_restaged c rfl _ _ _ h),
        completes_restaged (exec_sdoBlockUpload_eq c idx sub ⟨size, pst⟩ finished f) (sdoStep_restaged c rfl _ _ _ h)⟩
  · exact fun hd payload => completes_restaged (exec_kdaRead_eq hd payload)
      (kdaRequest_restaged hd _ (fun _ _ => kdaReads_restaged hd payload) h)
  · exact fun path hw => completes_restaged (exec_mbDoorbell_eq path) (doorbell_restaged hw h)

end Sys2Proof.Machine
end

section
/-! PROOF. A Springcount frame on a port that may not take it is dropped and counted (R73): first what the recording of
events and the judgement of the sleep need leave alone, then what a port makes of a frame that it does not take. -/

namespace Sys2Proof.Machine

/-! ### What the judgement of the sleep need records and sends (R374, R397, R398, R455) -/

section judged

/-- The counters of the recorder's drops and limits, and of sleeps called off (R374, R375, R382, R398). -/
def eventCounters : List (Nat × Nat) :=
  [(0x2A06, 9), (0x2A06, 0x0A), (0x2A06, 0x0B), (0x2A06, 0x0E), (0x2A06, 0x11), (0x2B07, 2)]

/-- From `a` to `b` no register changes but the counters of events, and nothing is sent but interrupt messages. -/
def RecordsOnly (a b : Dev) : Prop := RegsFramed eventCounters a b ∧ ∀ o ∈ b.out, o ∈ a.out ∨ ∃ v, o = .msi v

variable {a b c : Dev}

theorem RecordsOnly.of_eq (hd : b.dict = a.dict) (ho : b.out = a.out) : RecordsOnly a b :=
  ⟨.of_same (congrArg (·.od) hd), fun _ h => .inl (ho ▸ h)⟩

theorem RecordsOnly.refl (d : Dev) : RecordsOnly d d := .of_eq rfl rfl

theorem RecordsOnly.trans (h1 : RecordsOnly a b) (h2 : RecordsOnly b c) : RecordsOnly a c :=
  ⟨h1.1.trans h2.1, fun o h => (h2.2 o h).elim (h1.2 o) .inr⟩

/-- What leaves the dictionary agent and what was sent as they were adds nothing. -/
theorem RecordsOnly.keep (h : RecordsOnly a b) (hd : c.dict = b.dict) (ho : c.out = b.out) : RecordsOnly a c :=
  h.trans (.of_eq hd ho)

theorem RecordsOnly.bump (h : RecordsOnly a b) (idx sub : Nat) (hc : (idx, sub) ∈ eventCounters) :
    RecordsOnly a (bump idx sub b) :=
  ⟨h.1.bump _ _ hc, fun o ho => h.2 o (by simpa using ho)⟩

theorem RecordsOnly.ite {p : Prop} [Decidable p] {x y : Dev} (hx : RecordsOnly a x) (hy : RecordsOnly a y) :
    RecordsOnly a (if p then x else y) := by
  split
  exacts [hx, hy]

theorem RecordsOnly.forEach {α : Type} {f : α → Dev → Dev} (hf : ∀ x d, RecordsOnly d (f x d)) (l : List α)
    (h : RecordsOnly a b) : RecordsOnly a (forEach l f b) := by
  induction l generalizing b with
  | nil => exact h
  | cons x l ih => exact ih (h.trans (hf x b))

theorem tarnCopy_recordsOnly (e : Entry) (d : Dev) : RecordsOnly d (tarnCopy e d) := by
  unfold tarnCopy
  split
  · exact .of_eq rfl rfl
  · exact ((RecordsOnly.refl d).bump 0x2A06 0x11 (by decide)).keep rfl rfl

theorem tarnLimited_recordsOnly (e : Entry) (d : Dev) : RecordsOnly d (tarnLimited e d) := by
  unfold tarnLimited
  refine .ite (.refl d) (.ite (tarnCopy_recordsOnly e d) (.ite ?_ ((RecordsOnly.refl d).bump _ _ (by decide))))
  exact .trans (.of_eq rfl rfl) (tarnCopy_recordsOnly e _)

theorem ringAccept_recordsOnly (e : Entry) (d : Dev) : RecordsOnly d (ringAccept e d) := by
  unfold ringAccept
  split
  · exact .of_eq rfl rfl
  · exact ((RecordsOnly.refl d).bump 0x2A06 0x0A (by decide)).keep rfl rfl

theorem holdingAccept_recordsOnly (e : Entry) (d : Dev) : RecordsOnly d (holdingAccept e d) := by
  unfold holdingAccept
  split
  · exact .of_eq rfl rfl
  · exact .bump (.of_eq rfl rfl) 0x2A06 9 (by decide)

theorem stageEntry_recordsOnly (e : Entry) (d : Dev) : RecordsOnly d (stageEntry e d) := by
  unfold stageEntry
  exact .ite (.ite (.of_eq (startFlush_dict _) (startFlush_out _)) (.of_eq rfl rfl)) (ringAccept_recordsOnly e d)

theorem sendVector_recordsOnly (v : Fin 16) (d : Dev) : RecordsOnly d (sendVector v d) := by
  refine ⟨.of_same (by simp), fun o ho => ?_⟩
  unfold sendVector at ho
  split at ho
  · exact .inl ho
  · exact (List.mem_append.mp ho).imp_right fun h => ⟨v, List.mem_singleton.mp h⟩

theorem setInt_recordsOnly (bit : Nat) (d : Dev) : RecordsOnly d (setInt bit d) := by
  unfold setInt
  exact .ite (.trans (.of_eq rfl rfl) (sendVector_recordsOnly _ _)) (.of_eq rfl rfl)

theorem placeWith_recordsOnly {copy : Entry → Dev → Dev} (hcopy : ∀ e d, RecordsOnly d (copy e d)) (e : Entry) (d : Dev) :
    RecordsOnly d (placeWith copy e d) := by
  have hint : ∀ r, RecordsOnly d r → RecordsOnly d (if e.sev = 7 then setInt 28 r else r) := fun r h =>
    .ite (h.trans (setInt_recordsOnly 28 r)) h
  unfold placeWith
  refine hint _ ?_
  refine RecordsOnly.trans (b := countEv 0x040 0 e.sev 1 { d with recd := { d.recd with lastSeq := seqNext d.recd.lastSeq } })
    (.of_eq rfl rfl) ?_
  split
  · exact (stageEntry_recordsOnly _ _).trans (hcopy _ _)
  · exact (holdingAccept_recordsOnly _ _).trans (hcopy _ _)
  · exact (ringAccept_recordsOnly _ _).trans (hcopy _ _)

theorem placeEntry_recordsOnly (e : Entry) (d : Dev) : RecordsOnly d (placeEntry e d) := by
  have h := placeWith_recordsOnly tarnLimited_recordsOnly e d
  unfold placeEntry
  exact .ite ((h.keep rfl rfl).trans (placeWith_recordsOnly (fun _ d => .refl d) _ _)) h

theorem earlyAccept_recordsOnly (e : Entry) (d : Dev) : RecordsOnly d (earlyAccept e d) := by
  unfold earlyAccept
  refine .ite (.of_eq rfl rfl) ?_
  split
  · exact .of_eq rfl rfl
  · exact ((RecordsOnly.refl d).bump 0x2A06 0x0A (by decide)).keep rfl rfl

/-- An event that is raised changes no register but the counters of events, and sends nothing but an interrupt message. -/
theorem raise_recordsOnly (ev : Ev) (inst : Nat) (d : Dev) : RecordsOnly d (raise ev inst d) := by
  unfold raise raiseP recordEntry
  refine .ite ((RecordsOnly.refl d).bump _ _ (by decide)) ?_
  split
  · exact earlyAccept_recordsOnly _ d
  · exact earlyAccept_recordsOnly _ d
  · exact placeEntry_recordsOnly _ d

theorem noteSilence_recordsOnly (d : Dev) : RecordsOnly d (noteSilence d) :=
  .forEach (fun _ => raise_recordsOnly evSilentSide noInst) _ (.of_eq rfl rfl)

theorem abortSleep_recordsOnly (d : Dev) : RecordsOnly d (abortSleep d) :=
  .trans (.bump (.of_eq rfl rfl) 0x2B07 2 (by decide)) (raise_recordsOnly evSleepAborted noInst _)

theorem pokeKeepAlive_recordsOnly (d : Dev) : RecordsOnly d (pokeKeepAlive d) := .ite (.of_eq rfl rfl) (.refl d)

/-- The judgement of the sleep need changes no register but the counters of events, and sends nothing but interrupt
messages. -/
theorem judgeSleep_recordsOnly (d : Dev) : RecordsOnly d (judgeSleep d) := by
  refine (noteSilence_recordsOnly d).trans ?_
  unfold judgeSleep
  generalize noteSilence d = n
  dsimp only
  split
  · exact .ite (.trans (.of_eq rfl rfl) (pokeKeepAlive_recordsOnly _)) (pokeKeepAlive_recordsOnly n)
  · exact .ite ((abortSleep_recordsOnly n).trans (pokeKeepAlive_recordsOnly _)) (pokeKeepAlive_recordsOnly n)
  · exact .refl n

end judged

/-! ### A frame that its port does not take (R73, R166, R175) -/

section dropped

/-- A Springcount frame with a payload of `len` bytes that reaches a port and is not taken there: a port that is Up counts it
as a good frame and as dropped. -/
def dropSc (p : Port) (len : Nat) : Dev → Dev := scHeard p len (bump 0x2107 7)

variable {p : Port} {h : ScHeader} {len : Nat}

theorem scValid_eq_false (hp : 4 ≤ p.val) : scValid p h len = false := by
  simp [scValid, isBackbone, Nat.not_lt.mpr hp]

/-- Whatever a port would do with a right frame, it drops one that is not. -/
theorem scHeard_of_invalid (hv : scValid p h len = false) (f : Dev → Dev) :
    scHeard p len (fun d => if !scValid p h len then bump 0x2107 7 d else f d) = dropSc p len := by
  simp [hv, dropSc]

theorem takeSc_of_invalid (hv : scValid p h len = false) (kind : Nat) (wanted : Dev → Bool) (f : Dev → Dev) :
    takeSc kind p h len wanted f = dropSc p len :=
  funext fun d => congrFun (scHeard_of_invalid hv _) d

/-- The registers in which a port counts a frame that it drops. -/
def dropCounters (p : Port) : List (Nat × Nat) := [(0x2107, 7), (0x2300 + p.val, 0x23), (0x2300 + p.val, 0x24)]

/-- A good frame changes no register but the two that count the good frames of its port and their bytes (R175, R186). -/
theorem countGood_goodCounters (p : Port) (len : Nat) (d : Dev) :
    RegsFramed [(0x2300 + p.val, 0x23), (0x2300 + p.val, 0x24)] d (countGood p len d) :=
  ((RegsFramed.refl _ d).setReg (0x2300 + p.val) 0x23 _ (by simp)).setReg _ _ _ (by simp)

/-- A good frame leaves every register below 0x2300 as it was. -/
theorem countGood_cfg (p : Port) (len : Nat) (d : Dev) {idx sub : Nat} (hk : odKey idx sub < odKey 0x2300 0) :
    cfg (countGood p len d) idx sub = cfg d idx sub :=
  (countGood_goodCounters p len d).cfg _ _ fun r hr => by
    unfold odKey at hk ⊢
    simp only [List.mem_cons, List.not_mem_nil, or_false] at hr
    rcases hr with rfl | rfl
    all_goals simp only; omega

theorem dropSc_framed (p : Port) (len : Nat) (d : Dev) : Framed [.regs, .counters] d (dropSc p len d) :=
  ite_framed (bump_framed _ _ _ (by decide) (countGood_framed p _ d (by decide) (.refl _ d))) (.refl _ d)

theorem dropSc_out (p : Port) (len : Nat) (d : Dev) : (dropSc p len d).out = d.out :=
  (dropSc_framed p len d).same .out (by decide)

theorem dropSc_regs (p : Port) (len : Nat) (d : Dev) : RegsFramed (dropCounters p) d (dropSc p len d) := by
  unfold dropSc scHeard
  split
  · exact ((countGood_goodCounters p _ d).mono (fun _ => List.mem_cons_of_mem _)).bump 0x2107 7 (by simp [dropCounters])
  · exact .refl _ d

/-- 0x2107:07 counts the frame when its port is Up. -/
theorem dropSc_counts {d : Dev} (hup : portUp d p = true) (len : Nat) :
    cfg (dropSc p len d) 0x2107 7 = min 0xFFFFFFFF (cfg d 0x2107 7 + 1) := by
  unfold dropSc scHeard
  rw [if_pos hup, cfg_bump_self 0x2107 7 _ (by decide +kernel), countGood_cfg p _ d (by decide)]

/-- The frame that found `s` was dropped on port `p` on the way to `d`: beside what the judgement of the sleep need changes
nothing differs but the count of the frame, and no Springcount frame was sent. -/
def DroppedSc (s : State) (p : Port) (d : Dev) : Prop :=
  Framed [.out, .regs, .recd, .sleep, .ints, .counters] s.found d ∧
    (portUp s.dev p = true → cfg d 0x2107 7 = min 0xFFFFFFFF (cfg s.dev 0x2107 7 + 1)) ∧
    ∀ q orig round seq segment hops more body, Out.springcount q orig round seq segment hops more body ∉ d.out

theorem dropSc_dropped (s : State) (p : Port) (len : Nat) : DroppedSc s p (dropSc p len s.found) :=
  ⟨(dropSc_framed p len s.found).mono (by decide), fun hup => dropSc_counts (d := s.found) hup len,
    by simp [dropSc_out, State.found]⟩

/-- The judgement of the sleep need that follows leaves the frame dropped. -/
theorem DroppedSc.judged {s : State} {d : Dev} (hd : DroppedSc s p d) : DroppedSc s p (judgeSleep d) := by
  obtain ⟨hframed, hcounts, hout⟩ := hd
  obtain ⟨hregs, hsent⟩ := judgeSleep_recordsOnly d
  refine ⟨judgeSleep_framed d (by decide) hframed, fun hup => ?_, fun q orig round seq segment hops more body hmem => ?_⟩
  · exact (hregs.cfg 0x2107 7 (by decide)).trans (hcounts hup)
  · rcases hsent _ hmem with hold | ⟨v, hv⟩
    · exact hout _ _ _ _ _ _ _ _ hold
    · exact nomatch hv

theorem completes_of_drop {c : Instr} {s : State} (he : exec c s = s.does (dropSc p len)) : Completes c s (DroppedSc s p) :=
  completes_of_exec he (dropSc_dropped s p len)

theorem completes_of_judged_drop {c : Instr} {s : State} (he : exec c s = s.doesJudged (dropSc p len)) :
    Completes c s (DroppedSc s p) :=
  completes_of_exec he (dropSc_dropped s p len).judged

end dropped

/-! ### Each kind of frame on a port other than 0 to 3 (R73) -/

section kinds

variable {p : Port} (hp : 4 ≤ p.val) (h : ScHeader) (s : State)

include hp

theorem exec_probe_drops (b : ProbeBody) : exec (.probe p h b) s = s.doesJudged (dropSc p 8) :=
  congrArg s.doesJudged (scHeard_of_invalid (scValid_eq_false hp) _)

theorem exec_probeReply_drops (b : ProbeBody) : exec (.probeReply p h b) s = s.doesJudged (dropSc p 8) :=
  congrArg s.doesJudged (scHeard_of_invalid (scValid_eq_false hp) _)

theorem exec_claim_drops (lowest : Word48) : exec (.claim p h lowest) s = s.doesJudged (dropSc p 8) :=
  congrArg s.doesJudged (takeSc_of_invalid (scValid_eq_false hp) _ _ _)

theorem exec_census_drops : exec (.census p h) s = s.doesJudged (dropSc p 0) :=
  congrArg s.doesJudged (takeSc_of_invalid (scValid_eq_false hp) _ _ _)

theorem exec_report_drops (recs : List CensusRec) : exec (.report p h recs) s = s.doesJudged (dropSc p (32 * recs.length)) :=
  congrArg s.doesJudged (takeSc_of_invalid (scValid_eq_false hp) _ _ _)

/-- A COMMIT is dropped whether the node waits for the copy of one or not. -/
theorem exec_springcountCommit_drops (b : CommitFrame) :
    exec (.springcountCommit p h b) s = s.doesJudged (dropSc p (20 + 12 * b.body.nodes.toNat)) := by
  change execSpringcountCommit p h b s = _
  unfold execSpringcountCommit
  refine congrArg s.doesJudged (funext fun d => ?_)
  have hv : scValid p h (20 + 12 * b.body.nodes.toNat) = false := scValid_eq_false hp
  split
  · exact congrFun (scHeard_of_invalid hv _) d
  · rw [takeSc_of_invalid hv]
    simp [onlyIf, hv]

theorem exec_ack_drops (count epoch : BitVec 16) : exec (.ack p h count epoch) s = s.doesJudged (dropSc p 4) :=
  congrArg s.doesJudged (takeSc_of_invalid (scValid_eq_false hp) _ _ _)

theorem exec_abort_drops (cause : BitVec 8) (epoch : BitVec 16) : exec (.abort p h cause epoch) s = s.doesJudged (dropSc p 4) :=
  congrArg s.doesJudged (takeSc_of_invalid (scValid_eq_false hp) _ _ _)

theorem exec_commitRequest_drops (epoch : BitVec 16) : exec (.commitRequest p h epoch) s = s.does (dropSc p 2) :=
  congrArg s.does (takeSc_of_invalid (scValid_eq_false hp) _ _ _)

theorem exec_state_drops (inhibit : Bool) (epoch : BitVec 16) : exec (.state p h inhibit epoch) s = s.doesJudged (dropSc p 3) :=
  congrArg s.doesJudged (takeSc_of_invalid (scValid_eq_false hp) _ _ _)

end kinds

/-! ### PAIR (R73, R105) -/

theorem countGood_twinPort (p : Port) (len : Nat) (d : Dev) : twinPort (countGood p len d) = twinPort d := by
  simp only [twinPort, countGood_cfg p len d (idx := 0x2106) (sub := 1) (by decide)]

theorem does_congr {s : State} {f g : Dev → Dev} (hd : f s.found = g s.found) : s.does f = s.does g :=
  congrArg (fun d => (.next { s with dev := d } : Result)) hd

/-- A PAIR frame is dropped on every port but the twin-link port. -/
theorem exec_pair_drops {s : State} {p : Port} (hp : twinPort s.dev ≠ some p) (h : ScHeader) (primary : Bool)
    (epoch : BitVec 16) (partner : Word48) : exec (.pair p h primary epoch partner) s = s.does (dropSc p 10) := by
  refine does_congr (?_ : scHeard p 10 _ s.found = scHeard p 10 (bump 0x2107 7) s.found)
  have htwin : ∀ len, twinPort (countGood p len s.found) ≠ some p := fun len => countGood_twinPort p len s.found ▸ hp
  simp [scHeard, htwin]

/-! ### The statement -/

/-- Settles O56: on ports 4 to 19 no header is valid, whatever the kind; PAIR is judged by the twin-link port alone. -/
theorem springcountFramesAreAcceptedOnlyOnTheirPorts : Obligations.SpringcountFramesAreAcceptedOnlyOnTheirPorts := by
  intro s p h counts drops
  refine ⟨fun hp => ⟨fun b => ⟨?_, ?_⟩, fun lowest => ?_, ?_, fun recs => ?_, fun b ids => ?_, fun count epoch => ?_,
    fun cause epoch => ?_, fun epoch => ?_, fun inhibit epoch => ?_⟩, fun hp primary epoch partner => ?_⟩
  · exact completes_of_judged_drop (exec_probe_drops hp h s b)
  · exact completes_of_judged_drop (exec_probeReply_drops hp h s b)
  · exact completes_of_judged_drop (exec_claim_drops hp h s lowest)
  · exact completes_of_judged_drop (exec_census_drops hp h s)
  · exact completes_of_judged_drop (exec_report_drops hp h s recs)
  · exact completes_of_judged_drop (exec_springcountCommit_drops hp h s ⟨b, ids⟩)
  · exact completes_of_judged_drop (exec_ack_drops hp h s count epoch)
  · exact completes_of_judged_drop (exec_abort_drops hp h s cause epoch)
  · exact completes_of_drop (exec_commitRequest_drops hp h s epoch)
  · exact completes_of_judged_drop (exec_state_drops hp h s inhibit epoch)
  · exact completes_of_exec (exec_pair_drops hp h primary epoch partner)
      ⟨dropSc_framed p 10 s.found, dropSc_out p 10 s.found, fun hup => dropSc_counts (d := s.found) hup 10,
        dropSc_regs p 10 s.found⟩

end Sys2Proof.Machine
end

section
/-! PROOF. The expected field of a checked telegram (R353, R355): first what a check channel holds after a frame, then what the
four checks make of a telegram that passes the first three, then why handing the telegram on leaves its channel alone. -/

namespace Sys2Proof.Machine

/-! ### One channel and the store of channels (R358, R360) -/

/-- A channel that is not Off is read back as it was stored, whatever the store lists. -/
theorem chkOf_setChk_self {ch : Nat} {x : CheckCh} (hx : x.state ≠ .off) (d : Dev) : chkOf (setChk ch x d) ch = x :=
  Store.find_put_nondefault _ _ _ _ fun h => hx (congrArg CheckCh.state h)

theorem chkOf_setChk_other {ch j : Nat} (hj : j ≠ ch) (x : CheckCh) (d : Dev) : chkOf (setChk ch x d) j = chkOf d j :=
  Store.find_put_other _ _ _ _ hj

theorem chkOf_of_chk {a b : Dev} (h : b.chk = a.chk) (ch : Nat) : chkOf b ch = chkOf a ch := by
  rw [chkOf, h, chkOf]

/-- The record of a channel in the large tables (R358). -/
def recordOf (d : Dev) (ch : Nat) : CheckRec := checkRecOf (checkBytes d.dict.mem ch)

/-- A channel that serves an object or a telegram has the role asked for in its own record, and is not Off. -/
theorem checkFor_eq_some {d : Dev} {protects telegram : Bool} {ctl unit ch : Nat} {r : CheckRec}
    (h : checkFor d protects telegram ctl unit = some (ch, r)) :
    recordOf d ch = r ∧ r.protects = protects ∧ (chkOf d ch).state ≠ .off := by
  have hmem : (ch, r) ∈ checkRecs d.dict.mem := List.mem_of_find?_eq_some h
  have hserves := List.find?_some h
  obtain ⟨x, -, hx⟩ := List.mem_map.mp hmem
  obtain ⟨rfl, rfl⟩ := Prod.mk.injEq .. ▸ hx
  simp only [Bool.and_eq_true, decide_eq_true_eq] at hserves
  obtain ⟨⟨⟨⟨⟨-, hrole⟩, -⟩, -⟩, -⟩, hon⟩ := hserves
  exact ⟨rfl, hrole, hon⟩

/-! ### What a frame leaves in its channel (R360, R361) -/

theorem onlyIf_chk {f : Dev → Dev} (hf : ∀ d, (f d).chk = d.chk) (c : Bool) (d : Dev) : (onlyIf c f d).chk = d.chk := by
  unfold onlyIf
  split
  exacts [hf d, rfl]

/-- A frame that passes counts once as passed, whatever the state. -/
theorem chkOf_passCheck (ch : Nat) (r : CheckRec) (d : Dev) :
    (chkOf (passCheck ch r d) ch).passed = satInc (chkOf d ch).passed ∧
      (chkOf (passCheck ch r d) ch).expectedFails = (chkOf d ch).expectedFails := by
  unfold passCheck
  dsimp only
  split
  · next hinvalid =>
    split
    · rw [chkOf_of_chk (raise_chk _ _ _), chkOf_of_chk (bump_chk _ _ _), chkOf_setChk_self (by simp)]
      exact ⟨rfl, rfl⟩
    · rw [chkOf_setChk_self (by simp [hinvalid])]
      exact ⟨rfl, rfl⟩
  · rw [chkOf_setChk_self (by simp)]
    exact ⟨rfl, rfl⟩

/-- A frame that fails by its expected value counts there and makes the channel Invalid. -/
theorem chkOf_flagCheck_expected (ch : Nat) (d : Dev) : chkOf (flagCheck ch 4 d) ch = { chkOf d ch with
    expectedFails := satInc (chkOf d ch).expectedFails
    kind := 4
    run := 0
    state := .invalid } := by
  refine (chkOf_of_chk ?_ ch).trans (chkOf_setChk_self (by simp) d)
  simp [flagCheck, apply_ite Dev.chk, onlyIf_chk (setInt_chk 5)]

/-- The device when a frame of channel `ch` has been judged and counted as checked, before its outcome shows (R354, R360). -/
def noteChecked (ch : Nat) (r : CheckRec) (last lost : Nat) (d : Dev) : Dev :=
  bumpBy 0x2902 5 lost (bump 0x2902 1 (setChk ch { chkOf d ch with
    last := last
    lost := min 0xFFFFFFFF ((chkOf d ch).lost + lost)
    silence := if r.silence = 0 then none else some (d.now + r.silence * 10 * msNs) } d))

theorem chkOf_noteChecked {ch : Nat} {d : Dev} (hon : (chkOf d ch).state ≠ .off) (r : CheckRec) (last lost : Nat) :
    chkOf (noteChecked ch r last lost d) ch = { chkOf d ch with
      last := last
      lost := min 0xFFFFFFFF ((chkOf d ch).lost + lost)
      silence := if r.silence = 0 then none else some (d.now + r.silence * 10 * msNs) } := by
  unfold noteChecked
  rw [chkOf_of_chk (bumpBy_chk _ _ _ _), chkOf_of_chk (bump_chk _ _ _)]
  exact chkOf_setChk_self (by exact hon) d

/-- The channels after a frame are those that its outcome leaves. -/
theorem verifyFrame_chk {ch kind last lost : Nat} {r : CheckRec} {bs : List Byte} {d : Dev}
    (hj : r.judge (chkOf d ch) bs = (kind, last, lost)) : (verifyFrame ch r bs d).2.chk =
      (if kind = 0 then passCheck ch r (noteChecked ch r last lost d)
        else flagCheck ch kind (noteChecked ch r last lost d)).chk := by
  unfold verifyFrame
  rw [hj]
  exact onlyIf_chk (bump_chk _ _) _ _

/-- What a channel that is not Off holds after a frame that passes. -/
theorem chkOf_verifyFrame_pass {ch last lost : Nat} {r : CheckRec} {bs : List Byte} {d : Dev}
    (hon : (chkOf d ch).state ≠ .off) (hj : r.judge (chkOf d ch) bs = (0, last, lost)) :
    (chkOf (verifyFrame ch r bs d).2 ch).passed = satInc (chkOf d ch).passed ∧
      (chkOf (verifyFrame ch r bs d).2 ch).expectedFails = (chkOf d ch).expectedFails := by
  rw [chkOf_of_chk (verifyFrame_chk hj), if_pos rfl]
  simpa [chkOf_noteChecked hon] using chkOf_passCheck ch r (noteChecked ch r last lost d)

/-- What a channel that is not Off holds after a frame that fails by its expected value. -/
theorem chkOf_verifyFrame_expected {ch last lost : Nat} {r : CheckRec} {bs : List Byte} {d : Dev}
    (hon : (chkOf d ch).state ≠ .off) (hj : r.judge (chkOf d ch) bs = (4, last, lost)) :
    let y := chkOf (verifyFrame ch r bs d).2 ch
    y.expectedFails = satInc (chkOf d ch).expectedFails ∧ y.passed = (chkOf d ch).passed ∧ y.state = .invalid ∧ y.kind = 4 := by
  intro y
  have hy : y = chkOf (flagCheck ch 4 (noteChecked ch r last lost d)) ch := chkOf_of_chk (verifyFrame_chk hj) ch
  rw [hy, chkOf_flagCheck_expected, chkOf_noteChecked hon]
  exact ⟨rfl, rfl, rfl, rfl⟩

theorem verifyFrame_mem (ch : Nat) (r : CheckRec) (bs : List Byte) (d : Dev) : (verifyFrame ch r bs d).2.dict.mem = d.dict.mem :=
  (verifyFrame_framed (L := [.out, .regs, .chk, .recd, .ints, .counters]) ch r bs d (fun _ h => h) (.refl _ d)).same .tables
    (by decide)

/-! ### The four checks (R353 to R355) -/

/-- The expected field is compared and its masked value is another (R355). -/
def CheckRec.unexpected (r : CheckRec) (bs : List Byte) : Prop :=
  r.expLen ≠ 0 ∧ Nat.land (beNat (slice bs r.expAt r.expLen)) r.expMask ≠ r.expValue

/-- A frame that passes checks 1 to 3 is judged by its expected field alone. -/
theorem judge_by_expected {r : CheckRec} {x : CheckCh} {bs : List Byte} (hfits : r.fits bs.length = true)
    (hcrc : r.kind = 0 ∨ crcKind r.kind (r.covered bs) = r.field bs) {step : Nat}
    (hstep : step = (r.counter bs + 2 ^ r.width - x.last % 2 ^ r.width) % 2 ^ r.width)
    (hcounter : r.width = 0 ∨ x.state = .initial ∨ 1 ≤ step ∧ step ≤ r.maxDelta) :
    ∃ last lost, (r.unexpected bs → r.judge x bs = (4, last, lost)) ∧ (¬ r.unexpected bs → r.judge x bs = (0, last, lost)) := by
  have hpass1 : ¬ (!r.fits bs.length) = true := by simp [hfits]
  have hpass2 : ¬ (r.kind ≠ 0 && crcKind r.kind (r.covered bs) ≠ r.field bs) = true := by
    simpa [or_iff_not_imp_left] using hcrc
  unfold CheckRec.judge CheckRec.unexpected
  rw [if_neg hpass1, if_neg hpass2]
  dsimp only
  rw [← hstep, if_neg (c := (_ && decide (step = 0)) = true), if_neg (c := (_ && decide (r.maxDelta < step)) = true)]
  · refine ⟨_, _, fun h => if_pos ?_, fun h => if_neg ?_⟩ <;> simpa using h
  all_goals
    rcases hcounter with h | h | ⟨h1, h2⟩
    · simp [h]
    · simp [h]
    · simp; omega

/-! ### The number that the expected field spells (R355) -/

/-- Bytes in network order, the first weighted highest: each further byte takes the lowest place. -/
theorem beNat_slice {bs : List Byte} {o n : Nat} (h : o + n ≤ bs.length) :
    beNat (slice bs o n) = (List.range n).foldl (fun v i => v * 256 + ((bs[o + i]?).getD 0).toNat) 0 := by
  induction n with
  | zero => simp [slice, beNat, leNat]
  | succ n ih =>
    have hread : bs[o + n]? = some bs[o + n] := List.getElem?_eq_getElem (by omega)
    have hlast : slice bs o (n + 1) = slice bs o n ++ [bs[o + n]] := by
      simp [slice, List.take_add_one, hread]
    rw [List.range_succ, List.foldl_append, ← ih (by omega), hlast]
    simp only [beNat, List.reverse_append, List.reverse_singleton, List.singleton_append, leNat, List.foldl_cons, List.foldl_nil,
      hread, Option.getD_some]
    ring

/-! ### Handing a telegram on leaves the verify channels alone (R329, R357) -/

/-- From `a` to `b` the channel records are the same and no verify channel has changed. -/
def KeepsVerifying (a b : Dev) : Prop :=
  b.dict.mem = a.dict.mem ∧ ∀ ch, (recordOf a ch).protects = false → chkOf b ch = chkOf a ch

section verifying

variable {a b c : Dev}

theorem KeepsVerifying.of_eq (hm : b.dict.mem = a.dict.mem) (hc : b.chk = a.chk) : KeepsVerifying a b :=
  ⟨hm, fun ch _ => chkOf_of_chk hc ch⟩

theorem KeepsVerifying.refl (d : Dev) : KeepsVerifying d d := .of_eq rfl rfl

theorem KeepsVerifying.trans (h1 : KeepsVerifying a b) (h2 : KeepsVerifying b c) : KeepsVerifying a c :=
  ⟨h2.1.trans h1.1, fun ch hv => (h2.2 ch (by rwa [recordOf, h1.1])).trans (h1.2 ch hv)⟩

theorem KeepsVerifying.ite {p : Prop} [Decidable p] (hb : KeepsVerifying a b) (hc : KeepsVerifying a c) :
    KeepsVerifying a (if p then b else c) := by
  split
  exacts [hb, hc]

theorem KeepsVerifying.forEach {α : Type} {f : α → Dev → Dev} (hf : ∀ x d, KeepsVerifying d (f x d)) (l : List α) (d : Dev) :
    KeepsVerifying d (forEach l f d) := by
  induction l generalizing d with
  | nil => exact .refl d
  | cons x l ih => exact (hf x d).trans (ih (f x d))

theorem bump_keepsVerifying (idx sub : Nat) (d : Dev) : KeepsVerifying d (bump idx sub d) := .of_eq rfl rfl

/-- A send advances a protect channel, which no verify channel is. -/
theorem protectAt_keepsVerifying (telegram : Bool) (ctl unit : Nat) (again : Bool) (bs : List Byte) (d : Dev) :
    KeepsVerifying d (protectAt telegram ctl unit again bs d).2 := by
  unfold protectAt
  split
  · exact .refl d
  · next ch r hfor =>
    obtain ⟨hrec, hrole, -⟩ := checkFor_eq_some hfor
    have hset : ∀ x, KeepsVerifying d (setChk ch x d) := fun x =>
      ⟨rfl, fun j hj => chkOf_setChk_other (fun e => by simp [e, hrec, hrole] at hj) x d⟩
    exact .ite (hset _) ((hset _).trans (bump_keepsVerifying _ _ _))

theorem gwSendNow_keepsVerifying (c : CanId) (o : Nat) (d : Dev) : KeepsVerifying d (gwSendNow c o d) :=
  .ite ((protectAt_keepsVerifying _ _ _ _ _ d).trans (.of_eq rfl rfl)) (.refl d)

theorem gwStage_keepsVerifying (c : CanId) (o : Nat) (data : List Byte) (d : Dev) : KeepsVerifying d (gwStage c o data d) :=
  .ite (.trans (.of_eq rfl rfl) (gwSendNow_keepsVerifying c o _)) (.of_eq rfl rfl)

theorem gwToCan_keepsVerifying (k : Nat) (write : SignalMap → List Byte → List Byte) (d : Dev) :
    KeepsVerifying d (gwToCan k write d) :=
  .forEach (fun _ d => gwStage_keepsVerifying _ _ _ d) _ d

end verifying

/-- A telegram that its check, with outcome `x`, hands on reaches its subscription and the objects it maps to (R329, R332,
R356). -/
def handTelegram (k : Fin 64) (p : TrdpMsg) (d : Dev) (x : Bool × Dev) : Dev :=
  if x.1 then
    gwToCan k.val (fun sm bs => copyBits p.data sm.setBits sm.canBits bs)
      (bump 0x2801 2 (bump (0x2840 + k.val) 0x0C
        (onTele k (fun t => { t with data := p.data, timeout := some (d.now + tele d k 7 * msNs) }) x.2)))
  else x.2

theorem handTelegram_keepsVerifying (k : Fin 64) (p : TrdpMsg) (d : Dev) (x : Bool × Dev) :
    KeepsVerifying x.2 (handTelegram k p d x) :=
  .ite (.trans (.of_eq rfl rfl) (gwToCan_keepsVerifying _ _ _)) (.refl _)

theorem exec_pdTelegram_accepted {s : State} {p : TrdpMsg} {k : Fin 64} (hgw : gwActive s.dev = true) (htype : p.msgType = 0x5064)
    (hacc : accepts s.dev p = some k) :
    exec (.pdTelegram p) s = s.does fun d => handTelegram k p d (verifyAt true 0 k.val p.data d) := by
  have hgw' : gwActive s.found = true := hgw
  have hacc' : accepts s.found p = some k := hacc
  change execPdTelegram p s = _
  unfold execPdTelegram
  refine does_congr ?_
  simp only [hgw', htype, hacc', if_true, Bool.not_true, Bool.false_eq_true, if_false]
  rfl

/-- PD_TELEGRAM leaves the verify channel of its telegram as the check left it, whether the telegram is handed on or blocked. -/
theorem pdTelegram_leaves_checked {s : State} {p : TrdpMsg} {k : Fin 64} {ch : Nat} {r : CheckRec} (hgw : gwActive s.dev = true)
    (htype : p.msgType = 0x5064) (hacc : accepts s.dev p = some k) (hfor : checkFor s.dev false true 0 k.val = some (ch, r)) :
    Completes (.pdTelegram p) s fun d => chkOf d ch = chkOf (verifyFrame ch r p.data s.found).2 ch := by
  have hverify : verifyAt true 0 k.val p.data s.found = verifyFrame ch r p.data s.found := by
    have hfor' : checkFor s.found false true 0 k.val = some (ch, r) := hfor
    simp only [verifyAt, hfor']
  have hrole : (recordOf (verifyFrame ch r p.data s.found).2 ch).protects = false := by
    obtain ⟨hrec, hrole, -⟩ := checkFor_eq_some hfor
    rw [recordOf, verifyFrame_mem]
    exact (congrArg CheckRec.protects hrec).trans hrole
  refine completes_of_exec (exec_pdTelegram_accepted hgw htype hacc) ?_
  rw [hverify]
  exact (handTelegram_keepsVerifying k p s.found _).2 ch hrole

/-! ### The statement -/

/-- Settles O58: a telegram that passes checks 1 to 3 is judged by its expected field, and handing it on leaves its channel as
the judgement left it. -/
theorem theExpectedFieldIsComparedUnderItsMask : Obligations.TheExpectedFieldIsComparedUnderItsMask := by
  intro s p k ch r hgw htype hacc hfor hlen hfits hcrc x step hcounter byte value
  obtain ⟨-, -, hon⟩ := checkFor_eq_some hfor
  have hvalue : value = beNat (slice p.data r.expAt r.expLen) := by
    rcases hn : r.expLen with _ | n
    · simp [value, hn, slice, beNat, leNat]
    have hin : r.expAt + (n + 1) ≤ p.data.length := by
      simp only [CheckRec.fits, Bool.and_eq_true, Bool.or_eq_true, decide_eq_true_eq] at hfits
      omega
    have hmost : n ≤ 3 := by omega
    rw [beNat_slice hin]
    simp only [value, byte, hn]
    interval_cases n <;> simp [List.range_succ] <;> omega
  obtain ⟨last, lost, hfails, hpasses⟩ := judge_by_expected (x := x) hfits hcrc rfl hcounter
  obtain ⟨t, hexec, hpending, hch⟩ := pdTelegram_leaves_checked hgw htype hacc hfor
  refine ⟨t, hexec, hpending, ?_⟩
  dsimp only
  rw [hvalue, hch]
  constructor
  · intro h
    exact chkOf_verifyFrame_pass hon (hpasses fun ⟨hne, hother⟩ => h.elim hne hother)
  · intro hne hother
    exact chkOf_verifyFrame_expected hon (hfails ⟨hne, hother⟩)

end Sys2Proof.Machine
end

section
/-! PROOF. The step as a whole: what it runs (log entries 1 and 2), what it keeps, and the frames of the commands. -/

namespace Sys2Proof.Machine

/-! ### What a step runs -/

/-- Settles O1: it is the equation of `step` for a queue that is not empty. -/
theorem stepRunsTheFrontCommand : Obligations.StepRunsTheFrontCommand := by
  intro c rest s hs
  simp only [step, hs]

/-- Passing time lets F count the clock edges in its 96 bits. -/
theorem advance_fRaw (ns : Nat) (d : Dev) : (advance ns d).time.fRaw =
    (d.time.fRaw + ((d.now + ns) / tickNs - d.now / tickNs) * cfg d 0x2401 1) % 2 ^ 96 := rfl

/-- Settles O2: 4 ns hold one clock edge, so F takes one increment. -/
theorem emptyQueueStepIsOneClockEdge : Obligations.EmptyQueueStepIsOneClockEdge := by
  intro s hs
  have hedge : (s.dev.now + tickNs) / tickNs - s.dev.now / tickNs = 1 := by
    rw [tickNs, Nat.add_div_right _ (by decide)]
    omega
  have hstep : step s = s.does (advance tickNs) := by
    simp only [step, hs]
    rfl
  refine ⟨_, hstep, hs, rfl, ?_, advance_framed _ _ (fun _ h => h) (.refl _ s.found)⟩
  rw [advance_fRaw, hedge, Nat.one_mul]
  rfl

/-- Settles O3: whatever the branch, the meaning of a command ends in a change of the device, and so in a next state. -/
theorem everyCommandAnswersANextState : Obligations.EveryCommandAnswersANextState := by
  intro c s
  cases c
  case dictionaryWrite t => cases t <;> exact ⟨_, rfl, rfl, trivial⟩
  all_goals exact ⟨_, rfl, rfl, trivial⟩

/-! ### What a step keeps -/

/-- Every command keeps what every step keeps. -/
theorem exec_keeps {base : Base} (s : State) (hs : s.dev.Kept base) : ∀ c : Instr, Keeps base (exec c s)
  | .dictionaryWrite t => execDictionaryWrite_kept t s hs
  | .counterClear src idx sub data => execCounterClear_kept src idx sub data s hs
  | .commit src value => execCommit_kept src value s hs
  | .islandAckTimeout island => execIslandAckTimeout_kept island s hs
  | .fence src token => execFence_kept src token s hs
  | .discardStaging src => execDiscardStaging_kept src s hs
  | .saveAll src => execSaveAll_kept src s hs
  | .restoreDefaults src => execRestoreDefaults_kept src s hs
  | .imageData src off data => execImageData_kept src off data s hs
  | .verifyAndStage src => execVerifyAndStage_kept src s hs
  | .abandonImage src => execAbandonImage_kept src s hs
  | .sdoDownload c idx sub data finished fault => execSdoDownload_kept c idx sub data finished fault s hs
  | .sdoUpload c idx sub finished fault => execSdoUpload_kept c idx sub finished fault s hs
  | .sdoBlockDownload c idx sub data finished fault => execSdoBlockDownload_kept c idx sub data finished fault s hs
  | .sdoBlockUpload c idx sub pst finished fault => execSdoBlockUpload_kept c idx sub pst finished fault s hs
  | .sdoServerTimeout c => execSdoServerTimeout_kept c s hs
  | .kdaOpen h payload => execKdaOpen_kept h payload s hs
  | .proof h payload => execProof_kept h payload s hs
  | .close h => execClose_kept h s hs
  | .kdaRead h payload => execKdaRead_kept h payload s hs
  | .kdaWrite h payload => execKdaWrite_kept h payload s hs
  | .keepalive h => execKeepalive_kept h s hs
  | .kdaOpcodeInvalid h opcode => execKdaOpcodeInvalid_kept h opcode s hs
  | .sessionExpiry session => execSessionExpiry_kept session s hs
  | .challengeTimeout session => execChallengeTimeout_kept session s hs
  | .mbDoorbell path => execMbDoorbell_kept path s hs
  | .fastStartThermalEnd reading => execFastStartThermalEnd_kept reading s hs
  | .probe p h b => execProbe_kept p h b s hs
  | .probeReply p h b => execProbeReply_kept p h b s hs
  | .probeRepeat p => execProbeRepeat_kept p s hs
  | .probeLoss p => execProbeLoss_kept p s hs
  | .hello p sender fast => execHello_kept p sender fast s hs
  | .helloPeriod p => execHelloPeriod_kept p s hs
  | .helloTimeout p => execHelloTimeout_kept p s hs
  | .topology p sender topo inhibit => execTopology_kept p sender topo inhibit s hs
  | .ttdpTopologyValid t => execTtdpTopologyValid_kept t s hs
  | .claim p h lowest => execClaim_kept p h lowest s hs
  | .census p h => execCensus_kept p h s hs
  | .report p h recs => execReport_kept p h recs s hs
  | .springcountCommit p h b => execSpringcountCommit_kept p h b s hs
  | .ack p h count epoch => execAck_kept p h count epoch s hs
  | .abort p h cause epoch => execAbort_kept p h cause epoch s hs
  | .commitRequest p h epoch => execCommitRequest_kept p h epoch s hs
  | .state p h inhibit epoch => execState_kept p h inhibit epoch s hs
  | .stateSilence requester => execStateSilence_kept requester s hs
  | .inhibitRequest src value => execInhibitRequest_kept src value s hs
  | .leadingRequest src value => execLeadingRequest_kept src value s hs
  | .pair p h primary epoch partner => execPair_kept p h primary epoch partner s hs
  | .frameReceive p f e => execFrameReceive_kept p f e s hs
  | .egressSend p q => execEgressSend_kept p q s hs
  | .engineSelfTestEnd engine1 pass => execEngineSelfTestEnd_kept engine1 pass s hs
  | .learnedEntryAgeing row => execLearnedEntryAgeing_kept row s hs
  | .spillReadback p q => execSpillReadback_kept p q s hs
  | .lpddr4xFailure f => execLpddr4xFailure_kept f s hs
  | .sliceFault slice t => execSliceFault_kept slice t s hs
  | .rotateSlice src value => execRotateSlice_kept src value s hs
  | .laneUp p => execLaneUp_kept p s hs
  | .laneDown p => execLaneDown_kept p s hs
  | .linkDownDebounce p => execLinkDownDebounce_kept p s hs
  | .linkUpHold p => execLinkUpHold_kept p s hs
  | .phyReleaseDelay p => execPhyReleaseDelay_kept p s hs
  | .phyScriptComplete p ok record => execPhyScriptComplete_kept p ok record s hs
  | .phyScriptPollTimeout p => execPhyScriptPollTimeout_kept p s hs
  | .phyResetRequest src p => execPhyResetRequest_kept src p s hs
  | .phyResetEnd g => execPhyResetEnd_kept g s hs
  | .phyInterrupt g status => execPhyInterrupt_kept g status s hs
  | .phyStatusPoll p status => execPhyStatusPoll_kept p status s hs
  | .phyRegisterRead src p answer => execPhyRegisterRead_kept src p answer s hs
  | .phyRegisterWrite src p value => execPhyRegisterWrite_kept src p value s hs
  | .autoNegotiationRestart p => execAutoNegotiationRestart_kept p s hs
  | .macControlFrame p opcode => execMacControlFrame_kept p opcode s hs
  | .pause p quanta => execPause_kept p quanta s hs
  | .pauseEnd p => execPauseEnd_kept p s hs
  | .pauseWatchdog p => execPauseWatchdog_kept p s hs
  | .pauseHoldOffEnd p => execPauseHoldOffEnd_kept p s hs
  | .pauseTimeReset p => execPauseTimeReset_kept p s hs
  | .sync p seq gm twoStep origin => execSync_kept p seq gm twoStep origin s hs
  | .followUp p seq origin => execFollowUp_kept p seq origin s hs
  | .announce p a => execAnnounce_kept p a s hs
  | .pdelayReq p seq => execPdelayReq_kept p seq s hs
  | .pdelayResp p seq roundTripPs turnaroundPs ratioPpt => execPdelayResp_kept p seq roundTripPs turnaroundPs ratioPpt s hs
  | .pdelayInterval p => execPdelayInterval_kept p s hs
  | .stepRequest src amount => execStepRequest_kept src amount s hs
  | .captureEdge inp rising => execCaptureEdge_kept inp rising s hs
  | .captureRecordRead src => execCaptureRecordRead_kept src s hs
  | .transmitTimestampRead src p => execTransmitTimestampRead_kept src p s hs
  | .launchTime p q => execLaunchTime_kept p q s hs
  | .launchLateDiscard p q => execLaunchLateDiscard_kept p q s hs
  | .windowOpen p window => execWindowOpen_kept p window s hs
  | .windowHardClose p => execWindowHardClose_kept p s hs
  | .receiveEntryClose p window => execReceiveEntryClose_kept p window s hs
  | .offer p h size crc activation => execOffer_kept p h size crc activation s hs
  | .request p h chunk => execRequest_kept p h chunk s hs
  | .chunk p h number data => execChunk_kept p h number data s hs
  | .sequenceHistoryReset window => execSequenceHistoryReset_kept window s hs
  | .avtpPacket a => execAvtpPacket_kept a s hs
  | .talkerPacket k frames => execTalkerPacket_kept k frames s hs
  | .sampleFetch k => execSampleFetch_kept k s hs
  | .streamTimeout k => execStreamTimeout_kept k s hs
  | .integrationComplete c => execIntegrationComplete_kept c s hs
  | .canFrameReceived c f => execCanFrameReceived_kept c f s hs
  | .canReceiveError c e => execCanReceiveError_kept c e s hs
  | .attemptStart c => execAttemptStart_kept c s hs
  | .arbitrationLost c => execArbitrationLost_kept c s hs
  | .canTransmitSuccess c delay => execCanTransmitSuccess_kept c delay s hs
  | .canTransmitError c e => execCanTransmitError_kept c e s hs
  | .busOffHoldOffEnd c => execBusOffHoldOffEnd_kept c s hs
  | .busOffRecoveryComplete c => execBusOffRecoveryComplete_kept c s hs
  | .candidateDwellEnd c => execCandidateDwellEnd_kept c s hs
  | .objectFrame src c data => execObjectFrame_kept src c data s hs
  | .objectRequest src c => execObjectRequest_kept src c s hs
  | .objectCancel src c => execObjectCancel_kept src c s hs
  | .objectAcknowledge src c => execObjectAcknowledge_kept src c s hs
  | .busOffRecoveryRequest src c => execBusOffRecoveryRequest_kept src c s hs
  | .telegramDue k => execTelegramDue_kept k s hs
  | .canObjectDue c o => execCanObjectDue_kept c o s hs
  | .pdTelegram m => execPdTelegram_kept m s hs
  | .telegramTimeout k => execTelegramTimeout_kept k s hs
  | .mrRequest m => execMrRequest_kept m s hs
  | .mnNotification m => execMnNotification_kept m s hs
  | .mpReply m => execMpReply_kept m s hs
  | .meErrorReply m => execMeErrorReply_kept m s hs
  | .transactionTimeout n => execTransactionTimeout_kept n s hs
  | .prefetchLifetimeEnd n addr => execPrefetchLifetimeEnd_kept n addr s hs
  | .logRecordRead src => execLogRecordRead_kept src s hs
  | .silenceReset ch => execSilenceReset_kept ch s hs
  | .mismatchFlagClear src word value => execMismatchFlagClear_kept src word value s hs
  | .hostEntry src data => execHostEntry_kept src data s hs
  | .freeze src => execFreeze_kept src s hs
  | .unfreeze src => execUnfreeze_kept src s hs
  | .mediumFailure cause => execMediumFailure_kept cause s hs
  | .mediumRetry ok => execMediumRetry_kept ok s hs
  | .entriesRead src => execEntriesRead_kept src s hs
  | .scanComplete o => execScanComplete_kept o s hs
  | .keepAlive p m => execKeepAlive_kept p m s hs
  | .silentSide rear => execSilentSide_kept rear s hs
  | .hostAwakeRequest src value => execHostAwakeRequest_kept src value s hs
  | .trainWakeLine also => execTrainWakeLine_kept also s hs
  | .localWake b also => execLocalWake_kept b also s hs
  | .busWake c also => execBusWake_kept c also s hs
  | .phyWake g also => execPhyWake_kept g also s hs
  | .phyWakeReadoutEnd woken => execPhyWakeReadoutEnd_kept woken s hs
  | .wakeTimer also => execWakeTimer_kept also s hs
  | .companionFaultLine n => execCompanionFaultLine_kept n s hs
  | .statusFrame n bytes => execStatusFrame_kept n bytes s hs
  | .readReply n bytes => execReadReply_kept n bytes s hs
  | .transferGap n => execTransferGap_kept n s hs
  | .linkRetry n => execLinkRetry_kept n s hs
  | .inrushWindowEnd k => execInrushWindowEnd_kept k s hs
  | .retryDelayEnd k => execRetryDelayEnd_kept k s hs
  | .retryRefill k => execRetryRefill_kept k s hs
  | .thermalLatchRelease k => execThermalLatchRelease_kept k s hs
  | .clampBinExpiry k => execClampBinExpiry_kept k s hs
  | .unlock src n value => execUnlock_kept src n value s hs
  | .pulseEdge k => execPulseEdge_kept k s hs
  | .command src k value => execCommand_kept src k value s hs
  | .restoreSlot n => execRestoreSlot_kept n s hs
  | .intStatusClear path value => execIntStatusClear_kept path value s hs
  | .timeLoRead path => execTimeLoRead_kept path s hs
  | .tcapTrigger path => execTcapTrigger_kept path s hs
  | .tcapHiRead path => execTcapHiRead_kept path s hs
  | .tcapStatusRead path => execTcapStatusRead_kept path s hs
  | .hspStatusRead path => execHspStatusRead_kept path s hs
  | .dropsRead path ring => execDropsRead_kept path ring s hs
  | .ringEnable path ring => execRingEnable_kept path ring s hs
  | .ringDisable path ring => execRingDisable_kept path ring s hs
  | .tail path ring value => execTail_kept path ring value s hs
  | .dmaError ring => execDmaError_kept ring s hs
  | .dmaCompletionTimeout ring => execDmaCompletionTimeout_kept ring s hs
  | .serialWrite address data crc => execSerialWrite_kept address data crc s hs
  | .serialRead address words => execSerialRead_kept address words s hs
  | .serialUnknownCommand command => execSerialUnknownCommand_kept command s hs
  | .supplyWarning core mv => execSupplyWarning_kept core mv s hs
  | .supplyWarningClear core => execSupplyWarningClear_kept core s hs
  | .supplyReset rail => execSupplyReset_kept rail s hs
  | .powerGoodLoss io => execPowerGoodLoss_kept io s hs
  | .porNReleased straps test => execPorNReleased_kept straps test s hs
  | .firmwareImageData src off data => execFirmwareImageData_kept src off data s hs
  | .verifyAndWrite src => execVerifyAndWrite_kept src s hs
  | .firmwareAbandon src => execFirmwareAbandon_kept src s hs
  | .warmReset src => execWarmReset_kept src s hs
  | .bypassRefreshLoss laneB => execBypassRefreshLoss_kept laneB s hs
  | .pmbusAlert status => execPmbusAlert_kept status s hs
  | .gpioOutput src value => execGpioOutput_kept src value s hs
  | .junctionTemperatureMaximum reading => execJunctionTemperatureMaximum_kept reading s hs
  | .sensorScan readings => execSensorScan_kept readings s hs
  | .readVout mv => execReadVout_kept mv s hs
  | .snapshotNow src => execSnapshotNow_kept src s hs
  | .trackerReset src => execTrackerReset_kept src s hs
  | .secure src => execSecure_kept src s hs
  | .void src => execVoid_kept src s hs
  | .returnToken src token => execReturnToken_kept src token s hs
  | .authResponse token => execAuthResponse_kept token s hs
  | .debugAccess op => execDebugAccess_kept op s hs
  | .bypass code => execBypass_kept code s hs
  | .dmaReadCompletion ring bytes => execDmaReadCompletion_kept ring bytes s hs
  | .wakeInputInactive source => execWakeInputInactive_kept source s hs
  | .ringModerationEnd ring => execRingModerationEnd_kept ring s hs
  | .applyPoint => execApplyPoint_kept s hs
  | .commitHoldRelease => execCommitHoldRelease_kept s hs
  | .commitHoldTimeout => execCommitHoldTimeout_kept s hs
  | .fenceComplete => execFenceComplete_kept s hs
  | .stagingIdleTimeout => execStagingIdleTimeout_kept s hs
  | .imageVerificationEnd => execImageVerificationEnd_kept s hs
  | .kdaLockoutEnd => execKdaLockoutEnd_kept s hs
  | .fastStartTimeout => execFastStartTimeout_kept s hs
  | .engineTestStep => execEngineTestStep_kept s hs
  | .settleTimer => execSettleTimer_kept s hs
  | .censusTimeout => execCensusTimeout_kept s hs
  | .ackDeadline => execAckDeadline_kept s hs
  | .censusWaitTimeout => execCensusWaitTimeout_kept s hs
  | .commitWaitTimeout => execCommitWaitTimeout_kept s hs
  | .backOffEnd => execBackOffEnd_kept s hs
  | .switchPoint => execSwitchPoint_kept s hs
  | .overlapEnd => execOverlapEnd_kept s hs
  | .commitRequestTimeout => execCommitRequestTimeout_kept s hs
  | .stateRepeat => execStateRepeat_kept s hs
  | .pairPeriod => execPairPeriod_kept s hs
  | .pairLoss => execPairLoss_kept s hs
  | .spareTestPass => execSpareTestPass_kept s hs
  | .spareTestFailure => execSpareTestFailure_kept s hs
  | .rotationComplete => execRotationComplete_kept s hs
  | .syncInterval => execSyncInterval_kept s hs
  | .announceInterval => execAnnounceInterval_kept s hs
  | .syncReceiptTimeout => execSyncReceiptTimeout_kept s hs
  | .announceReceiptTimeout => execAnnounceReceiptTimeout_kept s hs
  | .stepPoint => execStepPoint_kept s hs
  | .holdoverLimit => execHoldoverLimit_kept s hs
  | .roundHoldEnd => execRoundHoldEnd_kept s hs
  | .ppsOutPulse => execPpsOutPulse_kept s hs
  | .tevtOutPulse => execTevtOutPulse_kept s hs
  | .ppsInLoss => execPpsInLoss_kept s hs
  | .trackerUpdate => execTrackerUpdate_kept s hs
  | .trackerHourlyMean => execTrackerHourlyMean_kept s hs
  | .gateBankBuilt => execGateBankBuilt_kept s hs
  | .gateSwitchBoundary => execGateSwitchBoundary_kept s hs
  | .cycleBoundary => execCycleBoundary_kept s hs
  | .offerPeriod => execOfferPeriod_kept s hs
  | .chunkTimeout => execChunkTimeout_kept s hs
  | .scheduleImageVerified => execScheduleImageVerified_kept s hs
  | .activationBoundary => execActivationBoundary_kept s hs
  | .holdoverFenceTime => execHoldoverFenceTime_kept s hs
  | .streamSwitchBoundary => execStreamSwitchBoundary_kept s hs
  | .reservationBankBuilt => execReservationBankBuilt_kept s hs
  | .rephaseEnd => execRephaseEnd_kept s hs
  | .flushDelay => execFlushDelay_kept s hs
  | .logWriteComplete => execLogWriteComplete_kept s hs
  | .freezeLimit => execFreezeLimit_kept s hs
  | .keepAlivePeriod => execKeepAlivePeriod_kept s hs
  | .maximumAwakeExpiry => execMaximumAwakeExpiry_kept s hs
  | .postWakeHoldEnd => execPostWakeHoldEnd_kept s hs
  | .readySleepExpiry => execReadySleepExpiry_kept s hs
  | .quiesce => execQuiesce_kept s hs
  | .sleepEntry => execSleepEntry_kept s hs
  | .twlOutPulseEnd => execTwlOutPulseEnd_kept s hs
  | .perstNFall => execPerstNFall_kept s hs
  | .perstNRise => execPerstNRise_kept s hs
  | .functionLevelReset => execFunctionLevelReset_kept s hs
  | .supplyReturn => execSupplyReturn_kept s hs
  | .porNAsserted => execPorNAsserted_kept s hs
  | .pgCoreRise => execPgCoreRise_kept s hs
  | .pgIoRise => execPgIoRise_kept s hs
  | .railEnableTimeout => execRailEnableTimeout_kept s hs
  | .railEnableRetry => execRailEnableRetry_kept s hs
  | .imageSelectionRetry => execImageSelectionRetry_kept s hs
  | .controlComplexReady => execControlComplexReady_kept s hs
  | .watchdogWrite => execWatchdogWrite_kept s hs
  | .watchdogTrip => execWatchdogTrip_kept s hs
  | .stableTime => execStableTime_kept s hs
  | .imageConfirm => execImageConfirm_kept s hs
  | .firmwareWriteEnd => execFirmwareWriteEnd_kept s hs
  | .wakeBootTimeout => execWakeBootTimeout_kept s hs
  | .heartbeatLoss => execHeartbeatLoss_kept s hs
  | .planningPeriod => execPlanningPeriod_kept s hs
  | .planApply => execPlanApply_kept s hs
  | .readVoutTimeout => execReadVoutTimeout_kept s hs
  | .healthRecordWrite => execHealthRecordWrite_kept s hs
  | .snapshotPeriod => execSnapshotPeriod_kept s hs
  | .extest => execExtest_kept s hs
  | .idcode => execIdcode_kept s hs
  | .samplePreload => execSamplePreload_kept s hs
  | .authChallenge => execAuthChallenge_kept s hs
  | .scanTest => execScanTest_kept s hs
  | .debugPortReset => execDebugPortReset_kept s hs
  | .grantExpiry => execGrantExpiry_kept s hs
  | .debugLockoutEnd => execDebugLockoutEnd_kept s hs
  | .randomSourceFailure => execRandomSourceFailure_kept s hs
  | .randomSourceRecovery => execRandomSourceRecovery_kept s hs
  | .retirementComplete => execRetirementComplete_kept s hs
  | .ppsOutPulseEnd => execPpsOutPulseEnd_kept s hs
  | .tevtOutPulseEnd => execTevtOutPulseEnd_kept s hs
  | .ppsInHoldoverLimit => execPpsInHoldoverLimit_kept s hs

/-- A step runs the front command on the same device, or lets time pass. -/
theorem step_keeps {base : Base} (s : State) (hs : s.dev.Kept base) : Keeps base (step s) := by
  unfold step
  split
  · exact does_kept s _ hs (advance_kept tickNs)
  · next c rest _ => exact exec_keeps { s with pending := rest } hs c

/-- The fused part, the lifecycle state and the firmware security version of a device. -/
def Dev.base (d : Dev) : Base := { chip := d.chip, lifecycle := d.sec.lifecycle, fwVersion := d.sec.fwVersion }

/-- A valid device keeps what it has itself. -/
theorem Dev.Valid.kept {d : Dev} (h : d.Valid) : d.Kept d.base := by
  obtain ⟨⟨hdict, hhost, hstages, hchk⟩, htime, hlife⟩ := h
  exact ⟨hdict, hhost, hstages, hchk, rfl, htime, Nat.le_refl _, Nat.le_refl _, hlife⟩

theorem Dev.Kept.valid {base : Base} {d : Dev} (h : d.Kept base) : d.Valid :=
  ⟨⟨h.dict, h.host, h.stages, h.chk⟩, h.time, h.sec.top⟩

/-- Settles O4: a step keeps the invariant with any base, hence validity. -/
theorem everyStepKeepsTheStateValid : Obligations.EveryStepKeepsTheStateValid := fun s t hs ht =>
  (step_keeps s hs.kept t ht).valid

/-- Settles O6: the fused part of the invariant's base is that of the state before. -/
theorem noStepChangesTheFusedIdentity : Obligations.NoStepChangesTheFusedIdentity := fun s t hs ht =>
  (step_keeps s hs.kept t ht).chip

/-- Settles O7: lifecycle and version are at least those of the invariant's base, which are those of the state before. -/
theorem noStepTurnsLifecycleOrFirmwareVersionBack : Obligations.NoStepTurnsLifecycleOrFirmwareVersionBack := fun s t hs ht =>
  (step_keeps s hs.kept t ht).sec

/-- Settles O5: every store is empty at reset. -/
theorem theStateAfterResetIsValid : Obligations.TheStateAfterResetIsValid :=
  ⟨⟨⟨⟨rfl, rfl, rfl, rfl, rfl, rfl⟩, ⟨rfl, rfl⟩, rfl, rfl⟩, ⟨TimeS.reset_raw, TimeS.reset_step⟩, by decide⟩, rfl⟩

/-- Settles O8: each value stands in the reset state, where no register is listed. -/
theorem resetLeavesWhatTheSpecStates : Obligations.ResetLeavesWhatTheSpecStates := by
  refine ⟨rfl, rfl, rfl, rfl, rfl, rfl, rfl, rfl, rfl, rfl, rfl, fun k => ?_, rfl, rfl, rfl, rfl, fun idx sub => rfl⟩
  exact congrArg StreamS.state (Vector.getElem_replicate k.isLt)

/-! ### What the commands leave as it was -/

/-- Settles O59: the frame of each command of chapters 03 to 07. -/
theorem trainNetworkCommandsLeaveTheOtherPartsAlone : Obligations.TrainNetworkCommandsLeaveTheOtherPartsAlone :=
  fun s => ⟨
    ⟨(execProbe_framed · · · s), (execProbeReply_framed · · · s), (execHello_framed · · · s),
      (execTopology_framed · · · · s), (execReport_framed · · · s), (execAbort_framed · · · · s),
      (execState_framed · · · · s)⟩,
    ⟨(execProbeRepeat_framed · s), (execProbeLoss_framed · s), (execHelloTimeout_framed · s), execSettleTimer_framed s,
      execCensusTimeout_framed s, execAckDeadline_framed s, execCensusWaitTimeout_framed s,
      execCommitWaitTimeout_framed s, (execStateSilence_framed · s)⟩,
    ⟨(execHelloPeriod_framed · s), execStateRepeat_framed s, execPairPeriod_framed s⟩,
    (execClaim_framed · · · s),
    ⟨(execCensus_framed · · s), (execAck_framed · · · · s)⟩,
    (execSpringcountCommit_framed · · · s),
    ⟨execBackOffEnd_framed s, execCommitRequestTimeout_framed s⟩,
    execSwitchPoint_framed s,
    execOverlapEnd_framed s,
    (execTtdpTopologyValid_framed · s),
    (execCommitRequest_framed · · · s),
    (execPair_framed · · · · · s),
    execPairLoss_framed s,
    (execLearnedEntryAgeing_framed · s),
    (execSpillReadback_framed · · s),
    (execLpddr4xFailure_framed · s),
    execRetirementComplete_framed s,
    execSpareTestPass_framed s,
    execSpareTestFailure_framed s,
    ⟨(execLaneUp_framed · s), (execLaneDown_framed · s), (execPhyInterrupt_framed · · s)⟩,
    ⟨(execLinkDownDebounce_framed · s), (execPhyStatusPoll_framed · · s)⟩,
    (execLinkUpHold_framed · s),
    ⟨(execAutoNegotiationRestart_framed · s), (execPhyResetEnd_framed · s), (execPauseEnd_framed · s),
      (execPauseHoldOffEnd_framed · s), (execPauseTimeReset_framed · s)⟩,
    ⟨(execPhyScriptComplete_framed · · · s), (execPhyScriptPollTimeout_framed · s)⟩,
    (execPhyReleaseDelay_framed · s),
    (execPause_framed · · s),
    (execMacControlFrame_framed · · s),
    (execPauseWatchdog_framed · s),
    ⟨(execEgressSend_framed · · s), (execLaunchTime_framed · · s)⟩,
    (execLaunchLateDiscard_framed · · s),
    (execFrameReceive_framed · · · s),
    ⟨(execSync_framed · · · · · s), (execFollowUp_framed · · · s)⟩,
    (execAnnounce_framed · · s),
    ⟨(execPdelayReq_framed · · s), execAnnounceInterval_framed s⟩,
    (execPdelayResp_framed · · · · · s),
    (execPdelayInterval_framed · s),
    execSyncInterval_framed s,
    ⟨execSyncReceiptTimeout_framed s, execHoldoverLimit_framed s, execPpsInLoss_framed s⟩,
    ⟨execAnnounceReceiptTimeout_framed s, execRoundHoldEnd_framed s⟩,
    execStepPoint_framed s,
    ⟨execPpsOutPulse_framed s, execPpsOutPulseEnd_framed s, execTevtOutPulse_framed s, execTevtOutPulseEnd_framed s,
      execPpsInHoldoverLimit_framed s⟩,
    (execCaptureEdge_framed · · s),
    execGateBankBuilt_framed s,
    ⟨execGateSwitchBoundary_framed s, execCycleBoundary_framed s, execActivationBoundary_framed s⟩,
    (execWindowOpen_framed · · s),
    (execWindowHardClose_framed · s),
    (execReceiveEntryClose_framed · · s),
    (execSequenceHistoryReset_framed · s),
    execHoldoverFenceTime_framed s,
    ⟨(execOffer_framed · · · · · s), (execChunk_framed · · · · s)⟩,
    (execRequest_framed · · · s),
    ⟨execOfferPeriod_framed s, execChunkTimeout_framed s⟩,
    execScheduleImageVerified_framed s⟩

/-- Settles O60: the frame of each command of the other chapters. -/
theorem nodeCommandsLeaveTheOtherPartsAlone : Obligations.NodeCommandsLeaveTheOtherPartsAlone :=
  fun s => ⟨
    ⟨(execStatusFrame_framed · · s), (execReadReply_framed · · s), (execThermalLatchRelease_framed · s)⟩,
    (execCompanionFaultLine_framed · s),
    ⟨(execTransferGap_framed · s), (execLinkRetry_framed · s), (execInrushWindowEnd_framed · s),
      (execRetryDelayEnd_framed · s), (execRestoreSlot_framed · s)⟩,
    ⟨(execRetryRefill_framed · s), (execClampBinExpiry_framed · s)⟩,
    (execPulseEdge_framed · s),
    execFlushDelay_framed s,
    ⟨execLogWriteComplete_framed s, (execMediumFailure_framed · s), (execPmbusAlert_framed · s)⟩,
    ⟨execFreezeLimit_framed s, (execMediumRetry_framed · s)⟩,
    (execScanComplete_framed · s),
    execReservationBankBuilt_framed s,
    ⟨execRephaseEnd_framed s, (execStreamTimeout_framed · s)⟩,
    (execAvtpPacket_framed · s),
    (execTalkerPacket_framed · · s),
    execStreamSwitchBoundary_framed s,
    (execSilenceReset_framed · s),
    (execTelegramDue_framed · s),
    (execCanObjectDue_framed · · s),
    (execPdTelegram_framed · s),
    (execTelegramTimeout_framed · s),
    ⟨(execMrRequest_framed · s), (execMnNotification_framed · s), (execMpReply_framed · s),
      (execMeErrorReply_framed · s), (execCanFrameReceived_framed · · s), (execCanReceiveError_framed · · s),
      (execArbitrationLost_framed · s), (execCanTransmitSuccess_framed · · s), (execCanTransmitError_framed · · s)⟩,
    (execTransactionTimeout_framed · s),
    (execPrefetchLifetimeEnd_framed · · s),
    (execIntegrationComplete_framed · s),
    (execAttemptStart_framed · s),
    (execBusOffHoldOffEnd_framed · s),
    (execBusOffRecoveryComplete_framed · s),
    (execCandidateDwellEnd_framed · s),
    ⟨execPlanningPeriod_framed s, (execSensorScan_framed · s)⟩,
    execPlanApply_framed s,
    (execReadVout_framed · s),
    execReadVoutTimeout_framed s,
    ⟨execTrackerUpdate_framed s, execHealthRecordWrite_framed s, execSnapshotPeriod_framed s⟩,
    execTrackerHourlyMean_framed s,
    execKeepAlivePeriod_framed s,
    ⟨(execKeepAlive_framed · · s), (execWakeInputInactive_framed · s)⟩,
    (execSilentSide_framed · s),
    ⟨(execTrainWakeLine_framed · s), (execLocalWake_framed · · s), (execBusWake_framed · · s),
      (execPhyWake_framed · · s)⟩,
    (execPhyWakeReadoutEnd_framed · s),
    (execWakeTimer_framed · s),
    execTwlOutPulseEnd_framed s,
    ⟨execMaximumAwakeExpiry_framed s, execPostWakeHoldEnd_framed s⟩,
    execReadySleepExpiry_framed s,
    execQuiesce_framed s,
    (execDmaReadCompletion_framed · · s),
    (execSampleFetch_framed · s),
    ⟨(execDmaError_framed · s), (execRingEnable_framed · · s), (execTcapTrigger_framed · s)⟩,
    ⟨(execDmaCompletionTimeout_framed · s), (execRingModerationEnd_framed · s)⟩,
    ⟨(execRingDisable_framed · · s), (execSerialUnknownCommand_framed · s), execPerstNRise_framed s⟩,
    ⟨(execTail_framed · · · s), (execTimeLoRead_framed · s), (execTcapHiRead_framed · s),
      (execTcapStatusRead_framed · s), (execHspStatusRead_framed · s), (execDropsRead_framed · · s),
      (execSerialRead_framed · · s)⟩,
    (execIntStatusClear_framed · · s),
    ⟨execPerstNFall_framed s, execFunctionLevelReset_framed s⟩,
    ⟨execFastStartTimeout_framed s, execRotationComplete_framed s⟩,
    ⟨(execFastStartThermalEnd_framed · s), (execJunctionTemperatureMaximum_framed · s), (execSliceFault_framed · · s),
      (execEngineSelfTestEnd_framed · · s)⟩,
    execEngineTestStep_framed s,
    execWatchdogTrip_framed s,
    ⟨execWatchdogWrite_framed s, execPgIoRise_framed s, (execBypassRefreshLoss_framed · s)⟩,
    ⟨execStableTime_framed s, execRailEnableRetry_framed s, execWakeBootTimeout_framed s⟩,
    execImageConfirm_framed s,
    execControlComplexReady_framed s,
    (execSupplyWarning_framed · · s),
    (execSupplyWarningClear_framed · s),
    execHeartbeatLoss_framed s,
    execFirmwareWriteEnd_framed s,
    ⟨execExtest_framed s, (execDebugAccess_framed · s), execScanTest_framed s⟩,
    execIdcode_framed s,
    ⟨execSamplePreload_framed s, (execBypass_framed · s), execDebugPortReset_framed s,
      execRandomSourceRecovery_framed s⟩,
    execAuthChallenge_framed s,
    execDebugLockoutEnd_framed s,
    execRandomSourceFailure_framed s,
    execKdaLockoutEnd_framed s,
    execCommitHoldRelease_framed s,
    execCommitHoldTimeout_framed s,
    ⟨execStagingIdleTimeout_framed s, (execSessionExpiry_framed · s), (execChallengeTimeout_framed · s)⟩,
    ⟨execImageVerificationEnd_framed s, (execClose_framed · s)⟩,
    (execKeepalive_framed · s),
    (execKdaOpcodeInvalid_framed · · s),
    (execKdaOpen_framed · · s),
    (execProof_framed · · s),
    (execSdoServerTimeout_framed · s)⟩

end Sys2Proof.Machine
end

section
/-! PROOF. The operating profiles: what entering a profile leaves in the profile record, and the ends and steps of chapter 01. -/

namespace Sys2Proof.Machine

/-! ### What an operation leaves as it was -/

/-- A command with the meaning `r`, whose change comes to `e` on the device found. -/
theorem completes_of_eq {c : Instr} {s : State} {f : Dev → Dev} {P : Dev → Prop} (r : Result) {e : Dev} (hc : exec c s = r)
    (hr : r = s.does f) (hf : f s.found = e) (h : P e) : Completes c s P := completes_of_exec (hc.trans hr) (hf ▸ h)

theorem arrive_now (t : Nat) (d : Dev) : (arrive t d).now = max d.now t := by
  show d.now + (t - d.now) = max d.now t
  omega

/-- The ports follow the entries of their chapter; of the device before the commit only its registers count. -/
theorem applyPorts_leaves (old : Dev) (written : Nat → Nat → Bool) (d : Dev) :
    Framed ([.tables, .commit, .staging, .access, .stored, .fresh, .out, .regs, .inaug, .queues, .ports, .time, .sched, .strm, .recd,
      .sleep, .load, .host, .ints, .counters]) d (applyPorts old written d) := by
  have hold : Framed [.tables, .commit, .staging, .access, .stored, .regs] d { d with dict := old.dict } := fun p => by
    cases p <;> first | exact .inr rfl | exact .inl (by decide)
  exact applyPorts_framed { d with dict := old.dict } written d (by decide) (hold.mono (by decide)) (.refl _ d)

@[simp] theorem applyPorts_node (old : Dev) (written : Nat → Nat → Bool) (d : Dev) : (applyPorts old written d).node = d.node :=
  (applyPorts_leaves old written d).same .node (by decide)
@[simp] theorem settleNeed_node (fromTwl : Bool) (d : Dev) : (settleNeed fromTwl d).node = d.node :=
  (settleNeed_framed fromTwl d (fun _ h => h) (.refl _ _)).same .node (by decide)
@[simp] theorem plannerGate_node (d : Dev) : (plannerGate d).node = d.node :=
  (plannerGate_framed d (fun _ h => h) (.refl _ _)).same .node (by decide)
@[simp] theorem serviceStops_node (d : Dev) : (serviceStops d).node = d.node :=
  (serviceStops_framed d (fun _ h => h) (.refl _ _)).same .node (by decide)
@[simp] theorem serviceReturns_node (d : Dev) : (serviceReturns d).node = d.node :=
  (serviceReturns_framed d (fun _ h => h) (.refl _ _)).same .node (by decide)
@[simp] theorem setOperating_node (clock : Nat → Nat) (mv : Nat) (d : Dev) : (setOperating clock mv d).node = d.node :=
  (setOperating_framed clock mv d (fun _ h => h) (.refl _ _)).same .node (by decide)

@[simp] theorem applyPorts_fab_rest (old : Dev) (written : Nat → Nat → Bool) (d : Dev) :
    (applyPorts old written d).fab.rest = d.fab.rest := (applyPorts_leaves old written d).same .fab (by decide)
@[simp] theorem settleNeed_fab_rest (fromTwl : Bool) (d : Dev) : (settleNeed fromTwl d).fab.rest = d.fab.rest :=
  (settleNeed_framed fromTwl d (fun _ h => h) (.refl _ _)).same .fab (by decide)
@[simp] theorem plannerGate_fab_rest (d : Dev) : (plannerGate d).fab.rest = d.fab.rest :=
  (plannerGate_framed d (fun _ h => h) (.refl _ _)).same .fab (by decide)
@[simp] theorem serviceStops_fab_rest (d : Dev) : (serviceStops d).fab.rest = d.fab.rest :=
  (serviceStops_framed d (fun _ h => h) (.refl _ _)).same .fab (by decide)
@[simp] theorem serviceReturns_fab_rest (d : Dev) : (serviceReturns d).fab.rest = d.fab.rest :=
  (serviceReturns_framed d (fun _ h => h) (.refl _ _)).same .fab (by decide)
@[simp] theorem setOperating_fab_rest (clock : Nat → Nat) (mv : Nat) (d : Dev) : (setOperating clock mv d).fab.rest = d.fab.rest :=
  (setOperating_framed clock mv d (fun _ h => h) (.refl _ _)).same .fab (by decide)

/-! ### Entering a profile -/

/-- The profile record on entry to another profile. -/
def NodeS.entered (n now : Nat) (x : NodeS) : NodeS :=
  let y := { x with profile := n, nextProfile := none, stepBusy := false, selfTests := decide (n = 1)
                    testStep := if n = 3 then 0 else x.testStep }
  if n = 2 then { y with before := x.profile, fastEnd := some (now + 30 * sNs) }
  else if x.profile = 2 then { y with fastEnd := none, fastEndedAt := some now }
  else y

theorem fastBegins_node (back : Nat) (d : Dev) :
    (fastBegins back d).node = { d.node with before := back, fastEnd := some (d.now + 30 * sNs) } := by
  simp only [fastBegins, setOperating_node, onNode_node]

theorem fastEnds_node (d : Dev) : (fastEnds d).node = { d.node with fastEnd := none, fastEndedAt := some d.now } := by
  simp only [fastEnds, onHealth_node, setOperating_node, onNode_node]

/-- What neither branch changes, a conditional step does not. -/
theorem onlyIf_part {α : Sort _} {c : Bool} {f : Dev → Dev} (part : Dev → α) (hf : ∀ d, part (f d) = part d) (d : Dev) :
    part (onlyIf c f d) = part d := by
  unfold onlyIf
  split
  exacts [hf d, rfl]

theorem enterProfile_node {n : Nat} {d : Dev} (h : d.node.profile ≠ n) : (enterProfile n d).node = d.node.entered n d.now := by
  unfold enterProfile
  simp only [if_neg h]
  have hlast : ∀ e : Dev, (if d.pow.booted then plannerGate (settleNeed false (applyPorts d (fun _ _ => false) e)) else e).node = e.node := by
    intro e
    split
    · simp only [plannerGate_node, settleNeed_node, applyPorts_node]
    · rfl
  rw [hlast, onlyIf_part _ serviceStops_node, onlyIf_part _ serviceReturns_node]
  by_cases h2 : n = 2
  · subst h2
    simp only [onlyIf, decide_true, if_true, fastBegins_node, h, decide_false, NodeS.entered, Bool.false_eq_true, if_false]
    rfl
  · by_cases h3 : d.node.profile = 2
    · simp only [onlyIf, h2, h3, decide_true, decide_false, if_true, Bool.false_eq_true, if_false, fastEnds_node, NodeS.entered]
      rfl
    · simp only [onlyIf, h2, h3, decide_false, Bool.false_eq_true, if_false, NodeS.entered]
      rfl

/-- Of the fabric a change of profile changes only when the pass of the spare's test began, and what the queues hold. -/
theorem enterProfile_fab (n : Nat) (d : Dev) : ∃ t, (enterProfile n d).fab.rest = { d.fab with passStart := t }.rest := by
  by_cases h : d.node.profile = n
  · exact ⟨d.fab.passStart, by rw [enterProfile, if_pos h]⟩
  · refine ⟨if n = 0 then d.now else d.fab.passStart, ?_⟩
    have hlast : ∀ e : Dev, (if d.pow.booted then plannerGate (settleNeed false (applyPorts d (fun _ _ => false) e)) else e).fab.rest =
        e.fab.rest := by
      intro e
      split
      · simp only [plannerGate_fab_rest, settleNeed_fab_rest, applyPorts_fab_rest]
      · rfl
    have hbegin : ∀ (back : Nat) (e : Dev), (fastBegins back e).fab.rest = e.fab.rest := fun back e => by
      simp only [fastBegins, setOperating_fab_rest, onNode_fab]
    have hend : ∀ e : Dev, (fastEnds e).fab.rest = e.fab.rest := fun e => by
      simp only [fastEnds, onHealth_fab, setOperating_fab_rest, onNode_fab]
    simp only [enterProfile, if_neg h]
    rw [hlast, onlyIf_part (·.fab.rest) serviceStops_fab_rest, onlyIf_part (·.fab.rest) serviceReturns_fab_rest,
      onlyIf_part (·.fab.rest) (hbegin _), onlyIf_part (·.fab.rest) hend]
    rfl

/-- The end of a step leaves engines, slices and works as they were. -/
theorem stepEnds_fab (d : Dev) : ∃ t, (stepEnds d).fab.rest = { d.fab with passStart := t }.rest := by
  unfold stepEnds stepDone
  split
  · split
    · exact enterProfile_fab _ _
    · exact ⟨d.fab.passStart, rfl⟩
  · exact ⟨d.fab.passStart, rfl⟩

/-- With no profile waiting, the end of a step changes only that the step is over. -/
theorem stepEnds_node {d : Dev} (h : d.node.nextProfile = none) :
    ∃ busy, stepEnds d = onNode (fun x => { x with stepBusy := busy }) d := by
  unfold stepEnds stepDone
  split
  · exact ⟨false, by rw [h]⟩
  · exact ⟨d.node.stepBusy, rfl⟩

theorem engineOf_congr {f g : FabricS} {t : Nat} (h : f.rest = { g with passStart := t }.rest) (one : Bool) :
    engineOf f one = engineOf g one := by
  cases one
  · exact congrArg (·.engine0) h
  · exact congrArg (·.engine1) h

theorem engineOf_setEngine (one : Bool) (e : EngineState) (f : FabricS) : engineOf (setEngine one e f) one = e := by cases one <;> rfl

theorem engineOf_setEngine_not (one : Bool) (e : EngineState) (f : FabricS) :
    engineOf (setEngine one e f) (!one) = engineOf f (!one) := by cases one <;> rfl

/-! ### Fast-start -/

/-- Fast-start ends with the profile before it. -/
theorem leaveFast_node {d : Dev} (hp : d.node.profile = 2) (hb : d.node.before ≠ 2) :
    (leaveFast d).node = d.node.entered d.node.before d.now := by
  rw [leaveFast, if_pos hp]
  exact enterProfile_node (d := setReg 0x2001 1 d.node.before d) (fun h => hb (h.symm.trans hp))

theorem NodeS.entered_from_fast {n now : Nat} {x : NodeS} (hp : x.profile = 2) (hn : n ≠ 2) :
    (x.entered n now).profile = n ∧ (x.entered n now).fastEnd = none ∧ (x.entered n now).fastEndedAt = some now := by
  simp only [NodeS.entered, if_neg hn, if_pos hp, and_self]

/-- A reading changes of the profile record the junction temperature and the time of the last over-temperature. -/
theorem junctionReading_node (reading : Int) (d : Dev) :
    ∃ t, (junctionReading reading d).node = { d.node with junction := reading, overTempAt := t } := by
  have key : ∀ c : Bool, ∃ t, (if c then raise evOverTemp noInst (onNode (fun x => { x with junction := reading, overTempAt := some d.now }) d)
      else onNode (fun x => { x with junction := reading }) d).node = { d.node with junction := reading, overTempAt := t } := fun c => by
    cases c
    · exact ⟨d.node.overTempAt, rfl⟩
    · exact ⟨some d.now, raise_node _ _ _⟩
  exact key _

theorem takeJunction_ends {reading : Int} {d : Dev} (hp : d.node.profile = 2) (hb : d.node.before ≠ 2)
    (hr : gradeMax d - 100 ≤ reading) : (takeJunction reading d).node.junction = reading ∧
      (takeJunction reading d).node.profile = d.node.before ∧ (takeJunction reading d).node.fastEnd = none := by
  simp only [takeJunction, hp, hr, decide_true, Bool.and_self, if_true]
  generalize he : raise _ noInst (leaveFast (draw d)) = e
  have hn : e.node = d.node.entered d.node.before d.now := by
    rw [← he, raise_node]
    exact leaveFast_node (d := draw d) hp hb
  obtain ⟨t, ht⟩ := junctionReading_node reading e
  obtain ⟨h1, h2, -⟩ := NodeS.entered_from_fast (now := d.now) hp hb
  rw [ht, hn]
  exact ⟨rfl, h1, h2⟩

theorem takeJunction_stays {reading : Int} {d : Dev} (h : d.node.profile ≠ 2 ∨ reading < gradeMax d - 100) :
    takeJunction reading d = junctionReading reading d := by
  have hc : ¬ (decide (d.node.profile = 2) && decide (gradeMax d - 100 ≤ reading)) = true := by
    rw [Bool.and_eq_true, decide_eq_true_eq, decide_eq_true_eq]
    omega
  rw [takeJunction, if_neg hc]

theorem junctionReading_stays (reading : Int) (d : Dev) : (junctionReading reading d).node.junction = reading ∧
    (junctionReading reading d).node.profile = d.node.profile ∧ (junctionReading reading d).node.fastEnd = d.node.fastEnd ∧
    Framed (.node :: eventParts) d (junctionReading reading d) := by
  obtain ⟨t, ht⟩ := junctionReading_node reading d
  refine ⟨?_, ?_, ?_, junctionReading_framed reading d (by decide) (.refl _ d)⟩ <;> rw [ht]

/-! ### Tests in service -/

/-- A self-test that ends sets its engine's state, which is recorded. -/
theorem exec_engineSelfTestEnd_eq {s : State} {one pass : Bool} (h : engineOf s.dev.fab one = .selfTest) :
    exec (.engineSelfTestEnd one pass) s = s.does fun d => stepEnds (raise (if pass then evEngineBack else evEngineRetired)
      (if one then 1 else 0) (onFab (setEngine one (if pass then .inService else .retired)) d)) := by
  refine congrArg Host.Outcome.next (congrArg (State.mk · s.pending) ?_)
  refine (if_pos h).trans ?_
  cases pass <;> rfl

theorem engineSelfTestEnd_completes (s : State) (one pass : Bool) (h : engineOf s.dev.fab one = .selfTest) :
    Completes (.engineSelfTestEnd one pass) s fun d =>
      engineOf d.fab one = (if pass then .inService else .retired) ∧ engineOf d.fab (!one) = engineOf s.dev.fab (!one) ∧
        (s.dev.node.nextProfile = none → d.node.profile = s.dev.node.profile ∧ Framed (.node :: .fab :: eventParts) s.found d) := by
  refine completes_of_exec (exec_engineSelfTestEnd_eq h) ?_
  generalize he : raise _ _ _ = e
  have hfab : e.fab = setEngine one (if pass then .inService else .retired) s.dev.fab := by
    rw [← he, raise_fab]
    rfl
  have hnode : e.node = s.dev.node := by
    rw [← he, raise_node]
    rfl
  have hfr : Framed (.node :: .fab :: eventParts) s.found e := by
    rw [← he]
    refine raise_framed _ _ _ (by decide) (onFab_framed _ _ ⟨.inr (by decide), .inl ?_⟩ (.refl _ _))
    cases one <;> rfl
  obtain ⟨t, ht⟩ := stepEnds_fab e
  refine ⟨?_, ?_, fun hnext => ?_⟩
  · rw [engineOf_congr ht, hfab, engineOf_setEngine]
  · rw [engineOf_congr ht, hfab, engineOf_setEngine_not]
  · obtain ⟨busy, hb⟩ := stepEnds_node (hnode ▸ hnext)
    rw [hb]
    refine ⟨(congrArg NodeS.profile hnode :), hfr.trans fun p => ?_⟩
    cases p <;> first | exact .inr rfl | exact .inl (by decide)

/-- A step takes an engine out of service, which is recorded. -/
theorem engineTestStep_engine (s : State) (hp : s.dev.node.profile = 3) (hb : s.dev.node.stepBusy = false)
    (hn : s.dev.node.testStep % 2 = 0) (h0 : s.dev.fab.engine0 = .inService) (h1 : s.dev.fab.engine1 = .inService) :
    Completes .engineTestStep s fun d =>
      engineOf d.fab (decide (s.dev.node.testStep = 2)) = .selfTest ∧
        engineOf d.fab (!decide (s.dev.node.testStep = 2)) = .inService ∧
        d.node = { s.dev.node with testStep := (s.dev.node.testStep + 1) % 4, stepBusy := true } ∧
        Framed (.node :: .fab :: eventParts) s.found d := by
  let one := decide (s.dev.node.testStep = 2)
  let next := onNode (fun x => { x with testStep := (s.dev.node.testStep + 1) % 4 })
  let busy := onNode (fun x => { x with stepBusy := true })
  refine completes_of_eq (execEngineTestStep s) (e := busy (takeEngineOut one (next s.found))) rfl rfl ?_ ?_
  · simp only [State.found, hp, hb, hn, h0, h1, onNode_fab, ne_eq, not_true, decide_false, Bool.or_self, Bool.false_eq_true,
      if_false, if_true, decide_true, Bool.and_self]
    rfl
  have hfab : (busy (takeEngineOut one (next s.found))).fab = setEngine one .selfTest s.dev.fab := by
    simp only [busy, onNode_fab, takeEngineOut, raise_fab, bump_fab, onFab_fab]
    rfl
  rw [hfab]
  refine ⟨engineOf_setEngine _ _ _, ?_, ?_, ?_⟩
  · rw [engineOf_setEngine_not]
    cases one
    exacts [h1, h0]
  · simp only [busy, onNode_node, takeEngineOut, raise_node, bump_node, onFab_node, next]
    rfl
  · have hframe : ∀ (f : NodeS → NodeS) (d : Dev), Framed (.node :: .fab :: eventParts) d (onNode f d) := fun f d p => by
      cases p <;> first | exact .inr rfl | exact .inl (by decide)
    exact ((hframe _ _).trans (takeEngineOut_framed one _ (by decide) (.refl _ _))).trans (hframe _ _)

/-- A step starts the rotation of the next slice. -/
theorem engineTestStep_rotation (s : State) (sl : Slice) (hp : s.dev.node.profile = 3) (hb : s.dev.node.stepBusy = false)
    (hn : s.dev.node.testStep % 2 ≠ 0) (hnext : nextRotation s.dev = some sl) (hmay : mayRotate s.dev sl.val = true) :
    Completes .engineTestStep s fun d =>
      d.node = { s.dev.node with testStep := (s.dev.node.testStep + 1) % 4, stepBusy := true } ∧
        d.fab.works = [{ slice := sl, incoming := freeSpare s.dev, rotation := true, cause := 5, started := s.dev.now }] ∧
        Framed [.node, .fab] s.found d := by
  let next := onNode (fun x => { x with testStep := (s.dev.node.testStep + 1) % 4 })
  let busy := onNode (fun x => { x with stepBusy := true })
  refine completes_of_eq (execEngineTestStep s) (e := busy (startRotation sl (next s.found))) rfl rfl ?_ ⟨rfl, ?_, fun p => ?_⟩
  · have hnext' : nextRotation (next s.found) = some sl := hnext
    have hmay' : mayRotate (next s.found) sl.val = true := hmay
    simp only [next, State.found] at hnext' hmay'
    simp only [State.found, hp, hb, hn, ne_eq, not_true, decide_false, Bool.or_self, Bool.false_eq_true, if_false, hnext', hmay', if_true]
    rfl
  · simp only [mayRotate, Bool.and_eq_true, List.isEmpty_iff] at hmay
    show s.dev.fab.works ++ _ = _
    rw [hmay.1.2]
    rfl
  · cases p <;> first | exact .inr rfl | exact .inl (by decide)

/-- A rotation that ends exchanges the roles of the slice and the spare. -/
theorem rotationEnds_fab (w : SliceWork) (i : Slice) (d : Dev) : (rotationEnds w i d).fab.spare = some w.slice ∧
    (rotationEnds w i d).fab.active = d.fab.active.map (fun x => if x = w.slice then i else x) ∧
    (rotationEnds w i d).fab.works = d.fab.works.filter (fun x => x.slice ≠ w.slice) ∧ (rotationEnds w i d).node = d.node := by
  simp only [rotationEnds, raise_fab, raise_node, setReg_fab, setReg_node, moveSlice, moveCells, onFab_fab, onFab_node, arrive_fab,
    arrive_node, draw_fab, draw_node, and_self]

theorem rotationComplete_completes (s : State) (w : SliceWork) (i : Slice) (hw : s.dev.fab.works.find? (·.rotation) = some w)
    (hi : w.incoming = some i) : Completes .rotationComplete s fun d =>
      d.fab.spare = some w.slice ∧ d.fab.active = s.dev.fab.active.map (fun x => if x = w.slice then i else x) ∧
        d.fab.works = s.dev.fab.works.filter (fun x => x.slice ≠ w.slice) ∧
        (s.dev.node.nextProfile = none → d.node.profile = s.dev.node.profile ∧
          Framed ([.clock, .fresh, .node, .fab, .queues, .ports] ++ eventParts) s.found d) := by
  refine completes_of_eq (execRotationComplete s) (e := stepEnds (rotationEnds w i s.found)) rfl rfl ?_ ?_
  · have hw' : s.found.fab.works.find? (·.rotation) = some w := hw
    simp only [hw', hi]
  obtain ⟨hspare, hactive, hworks, hnode⟩ := rotationEnds_fab w i s.found
  have hframe := rotationEnds_framed (L := [.clock, .fresh, .node, .fab, .queues, .ports] ++ eventParts) w i s.found (by decide)
    (.refl _ _)
  generalize rotationEnds w i s.found = e at *
  obtain ⟨t, ht⟩ := stepEnds_fab e
  refine ⟨(congrArg FabricS.spare ht).trans hspare, (congrArg FabricS.active ht).trans hactive,
    (congrArg FabricS.works ht).trans hworks, fun hnext => ?_⟩
  obtain ⟨busy, hb⟩ := stepEnds_node ((congrArg NodeS.nextProfile hnode).trans hnext)
  rw [hb]
  refine ⟨(congrArg NodeS.profile hnode :), hframe.trans fun p => ?_⟩
  cases p <;> first | exact .inr rfl | exact .inl (by decide)

/-- Settles O9: each command runs one named change of the profile record and the fabric. -/
theorem profilesEndAndTestsStepOn : Obligations.ProfilesEndAndTestsStepOn := by
  intro s
  refine ⟨fun t ht hp hb => ?_, fun reading => ⟨fun hp hb hr => ?_, fun h => ?_⟩, fun hp hb => ⟨?_, ?_⟩, ?_, ?_⟩
  · refine completes_of_eq (execFastStartTimeout s) (e := leaveFast (arrive t s.found)) rfl rfl ?_ ?_
    · have ht' : s.found.node.fastEnd = some t := ht
      simp only [ht']
    have hn := leaveFast_node (d := arrive t s.found) (by rw [arrive_node]; exact hp) (by rw [arrive_node]; exact hb)
    rw [arrive_node, arrive_now] at hn
    obtain ⟨h1, h2, h3⟩ := NodeS.entered_from_fast (now := max s.found.now t) hp hb
    have hfr := leaveFast_framed (arrive t s.found) (fun _ h => h) (.refl _ _)
    have hclock := hfr.same .clock (by decide)
    have hstage := hfr.same .staging (by decide)
    simp only [Part.same, Prod.mk.injEq] at hclock hstage
    rw [hn]
    exact ⟨h1, h2, h3, hclock.1.trans (arrive_now t s.found), hstage.1.trans (by rw [arrive_dict]; rfl)⟩
  · exact ⟨completes_of_exec rfl (takeJunction_ends hp hb hr), completes_of_exec rfl (takeJunction_ends hp hb hr)⟩
  · have hstays := junctionReading_stays reading s.found
    rw [← takeJunction_stays (d := s.found) h] at hstays
    exact ⟨completes_of_exec rfl hstays, completes_of_exec rfl hstays⟩
  · exact engineTestStep_engine s hp hb
  · exact fun sl => engineTestStep_rotation s sl hp hb
  · exact engineSelfTestEnd_completes s
  · exact rotationComplete_completes s

/-- Settles O10: each frame is within the parts named. -/
theorem profileCommandsLeaveTheRestAlone : Obligations.ProfileCommandsLeaveTheRestAlone := fun s =>
  ⟨(execFastStartTimeout_framed s).mono rfl,
    fun reading => ⟨(execFastStartThermalEnd_framed reading s).mono rfl, (execJunctionTemperatureMaximum_framed reading s).mono rfl⟩,
    fun one pass => (execEngineSelfTestEnd_framed one pass s).mono rfl, (execRotationComplete_framed s).mono rfl,
    (execEngineTestStep_framed s).mono rfl⟩

end Sys2Proof.Machine
end

section
/-! PROOF. Requests at the dictionary agent that are served at once: the checks do not look at what belongs to an access path, and
a write comes to one of four ends (R34 to R36). -/

namespace Sys2Proof.Machine

/-! ### A device that differs in what belongs to a path -/

/-- The device `d` with what belongs to some access path as in `a`. -/
def Dev.withPath (d a : Dev) : Dev :=
  { d with
    out := a.out
    dict := { d.dict with
      od := a.dict.od, sessions := a.dict.sessions, sdo := a.dict.sdo, sdoMode := a.dict.sdoMode
      kdaSecond := a.dict.kdaSecond, kdaCount := a.dict.kdaCount }
    fab := { d.fab with
      queues := a.fab.queues, cells := a.fab.cells, nextUid := a.fab.nextUid, lastFirst := a.fab.lastFirst
      sentUids := a.fab.sentUids, spilling := a.fab.spilling }
    health := { d.health with counters := a.health.counters }
    host := { d.host with
      intStatus := a.host.intStatus, msiPending := a.host.msiPending, mbPcie := a.host.mbPcie, mbSerial := a.host.mbSerial } }

theorem DictS.eq_of_parts {a d : Dev} (hm : Part.tables.same d a) (hc : Part.commit.same d a) (hs : Part.staging.same d a)
    (ht : Part.stored.same d a) : a.dict = { d.dict with
      od := a.dict.od, sessions := a.dict.sessions, sdo := a.dict.sdo, sdoMode := a.dict.sdoMode
      kdaSecond := a.dict.kdaSecond, kdaCount := a.dict.kdaCount } := by
  simp only [Part.same, Prod.mk.injEq] at hm hc hs ht
  obtain ⟨h1, h2, h3, h4, h5, h6⟩ := hc
  obtain ⟨g1, g2, g3, g4, g5, g6, g7, g8, g9⟩ := hs
  obtain ⟨k1, k2⟩ := ht
  generalize a.dict = x at *
  cases x
  simp only at *
  simp only [hm, h1, h2, h3, h4, h5, h6, g1, g2, g3, g4, g5, g6, g7, g8, g9, k1, k2]

theorem FabricS.eq_of_rest {f g : FabricS} (h : f.rest = g.rest) : f = { g with
    queues := f.queues, cells := f.cells, nextUid := f.nextUid, lastFirst := f.lastFirst, sentUids := f.sentUids
    spilling := f.spilling } := by
  cases f
  cases g
  simp only [FabricS.rest, FabricS.mk.injEq, true_and] at h ⊢
  tauto

theorem HostS.eq_of_registers {x y : HostS} (h : x.registers = y.registers) : x = { y with
    intStatus := x.intStatus, msiPending := x.msiPending, mbPcie := x.mbPcie, mbSerial := x.mbSerial } := by
  cases x
  cases y
  simp only [HostS.registers, HostS.mk.injEq, true_and] at h ⊢
  tauto

theorem HealthS.eq_of_rest {x y : HealthS} (h : x.rest = y.rest) : x = { y with counters := x.counters } := by
  cases x
  cases y
  simp only [HealthS.rest, HealthS.mk.injEq, and_true] at h ⊢
  exact h

theorem TimeS.eq_of_rest {x y : TimeS} (hr : x.fRaw = y.fRaw) (h : x.rest = y.rest) : x = y := by
  cases x
  cases y
  simp only [TimeS.rest, TimeS.mk.injEq, true_and] at h ⊢ hr
  exact ⟨hr, h⟩

section path
variable {src : Src} {d a : Dev} (h : PathOnly src d a)
include h

theorem PathOnly.time : a.time = d.time := by
  have hc := h.same .clock (by decide)
  simp only [Part.same, Prod.mk.injEq] at hc
  exact TimeS.eq_of_rest hc.2 (h.same .time (by decide))

theorem PathOnly.now : a.now = d.now := by
  have hc := h.same .clock (by decide)
  simp only [Part.same, Prod.mk.injEq] at hc
  exact hc.1

/-- What differs from `d` in a path alone is `d` with that path. -/
theorem PathOnly.eq_withPath : a = d.withPath a := by
  have hdict := DictS.eq_of_parts (h.same .tables (by decide)) (h.same .commit (by decide)) (h.same .staging (by decide))
    (h.same .stored (by decide))
  have hfab := FabricS.eq_of_rest (h.same .fab (by decide))
  have hhost := HostS.eq_of_registers (h.same .host (by decide))
  have hhealth := HealthS.eq_of_rest (h.same .health (by decide))
  have htime := h.time
  have hnow := h.now
  have h1 : a.fresh = d.fresh := h.same .fresh (by decide)
  have h2 : a.node = d.node := h.same .node (by decide)
  have h3 : a.chip = d.chip := h.same .chip (by decide)
  have h4 : a.inaug = d.inaug := h.same .inaug (by decide)
  have h5 : a.ports = d.ports := h.same .ports (by decide)
  have h6 : a.sched = d.sched := h.same .sched (by decide)
  have h7 : a.strm = d.strm := h.same .strm (by decide)
  have h8 : a.can = d.can := h.same .can (by decide)
  have h9 : a.gw = d.gw := h.same .gw (by decide)
  have h10 : a.chk = d.chk := h.same .chk (by decide)
  have h11 : a.recd = d.recd := h.same .recd (by decide)
  have h12 : a.sleep = d.sleep := h.same .sleep (by decide)
  have h13 : a.load = d.load := h.same .load (by decide)
  have h14 : a.pow = d.pow := h.same .pow (by decide)
  have h15 : a.sec = d.sec := h.same .sec (by decide)
  have h16 : a.pins = d.pins := h.same .pins (by decide)
  calc a = Dev.mk a.now a.fresh a.out a.dict a.node a.chip a.inaug a.fab a.ports a.time a.sched a.strm a.can a.gw a.chk a.recd
        a.sleep a.load a.host a.pow a.health a.sec a.pins := rfl
    _ = d.withPath a := by
      rw [hnow, h1, hdict, h2, h3, h4, hfab, h5, htime, h6, h7, h8, h9, h10, h11, h12, h13, hhost, h14, hhealth, h15, h16]
      rfl

/-- What does not look at a path is the same. -/
theorem PathOnly.congr {α : Sort _} (F : Dev → α) (hF : ∀ x, F (d.withPath x) = F d) : F a = F d := by
  rw [h.eq_withPath]
  exact hF a

end path

/-! ### Registers that count frames -/

/-- A register that counts no frames, and so belongs to no path. -/
def PathFree (idx sub : Nat) : Prop :=
  sub < 256 ∧ ¬ (0x2300 ≤ idx ∧ idx < 0x2314 ∧ (sub = 0x23 ∨ sub = 0x24 ∨ sub = 0x32)) ∧ ¬ (0x2210 ≤ idx ∧ idx < 0x2224) ∧
    idx ≠ 0x2505 ∧ idx ≠ 0x2602

theorem frameCounters_cases {p : Port} {r : Nat × Nat} (hr : r ∈ frameCounters p) : r.2 < 256 ∧
    (r.1 = 0x2300 + p.val ∧ (r.2 = 0x23 ∨ r.2 = 0x24 ∨ r.2 = 0x32) ∨ r.1 = 0x2505 ∨ r.1 = 0x2602 ∨ r.1 = 0x2210 + p.val) := by
  simp only [frameCounters, List.mem_append, List.mem_cons, List.mem_map, List.mem_range, List.not_mem_nil, or_false] at hr
  rcases hr with (rfl | rfl | rfl | rfl | rfl) | ⟨k, hk, rfl⟩ <;> simp
  omega

theorem PathFree.ne {idx sub : Nat} (h : PathFree idx sub) : ∀ r ∈ allPorts.flatMap frameCounters, odKey r.1 r.2 ≠ odKey idx sub := by
  intro r hr e
  obtain ⟨hs, hport, hq, h1, h2⟩ := h
  obtain ⟨p, -, hp⟩ := List.mem_flatMap.mp hr
  have hlt := p.isLt
  obtain ⟨hr2, hcases⟩ := frameCounters_cases hp
  obtain ⟨e1, e2⟩ := (odKey_inj _ _ _ _ hr2 hs).mp e
  omega

section path
variable {src : Src} {d a : Dev} (h : PathOnly src d a)
include h

theorem PathOnly.cfg_free {idx sub : Nat} (hf : PathFree idx sub) : Machine.cfg a idx sub = Machine.cfg d idx sub := h.cfg idx sub hf.ne

theorem PathOnly.reg_free {idx sub : Nat} (hf : PathFree idx sub) : a.dict.reg idx sub = d.dict.reg idx sub := h.reg idx sub hf.ne

/-! ### Rows 5 to 7 of R35 do not look at a path -/

theorem profileRefused_path (r : Nat) : profileRefused a r = profileRefused d r := by
  have hnode : a.node = d.node := h.same .node (by decide)
  have hsched : scheduleActive a = scheduleActive d := h.congr _ fun _ => rfl
  have hbank : resBank a = resBank d := h.congr _ fun _ => rfl
  have hhot : fastTooHot a = fastTooHot d := h.congr _ fun _ => rfl
  have hnow := h.now
  have hvolt : voltageMoves a = voltageMoves d := by
    unfold voltageMoves
    rw [h.cfg_free (by unfold PathFree; omega)]
  have hspare : freeSpare a = freeSpare d := h.congr _ fun _ => rfl
  have hfab : a.fab.rest = d.fab.rest := h.same .fab (by decide)
  have hret : a.fab.retired = d.fab.retired := (congrArg FabricS.retired hfab :)
  unfold profileRefused
  rw [hnode, hsched, hbank, hhot, hnow, hvolt, hspare, hret]

theorem portLocked_path (p : Port) : portLocked a p = portLocked d p := by
  have hcarry : portCarries a p = portCarries d p := h.congr (portCarries · p) fun _ => rfl
  have hinaug : a.inaug = d.inaug := h.same .inaug (by decide)
  have htwin : twinPort a = twinPort d := by
    unfold twinPort
    rw [h.cfg_free (by unfold PathFree; omega)]
  unfold portLocked
  rw [hcarry, hinaug, htwin]

theorem audioBusy_path (t : Nat) : audioBusy a t = audioBusy d t := by
  have hstrm : a.strm = d.strm := h.same .strm (by decide)
  have hreg : ∀ s, strmReg a s 9 = strmReg d s 9 := fun s => h.cfg_free (by unfold PathFree; omega)
  unfold audioBusy
  simp only [hstrm, hreg]

theorem changes_path {idx sub : Nat} (hf : PathFree idx sub) (v : Value) : changes a idx sub v = changes d idx sub v := by
  unfold changes
  rw [h.reg_free hf]

/-- A conjunct that counts only where the register is no frame counter. -/
theorem and_changes_path {c : Bool} {idx sub : Nat} (hf : c = true → PathFree idx sub) (v : Value) :
    (c && changes a idx sub v) = (c && changes d idx sub v) := by
  cases c
  · rfl
  · rw [changes_path h (hf rfl)]

theorem stateRefused_path (image : Bool) (idx sub : Nat) (v : Value) :
    stateRefused a image idx sub v = stateRefused d image idx sub v := by
  have hnode : a.node = d.node := h.same .node (by decide)
  have hsleep : a.sleep = d.sleep := h.same .sleep (by decide)
  have hsec : a.sec = d.sec := h.same .sec (by decide)
  have hsource : cfg a 0x2501 1 = cfg d 0x2501 1 := h.cfg_free (by unfold PathFree; omega)
  have hentry : entryRefused a image idx sub v = entryRefused d image idx sub v := by
    unfold entryRefused
    rw [profileRefused_path h, hnode, hsec, hsource]
    split
    · rfl
    · split
      · next hp =>
        simp only [Bool.and_eq_true, decide_eq_true_eq] at hp
        dsimp only
        rw [portLocked_path h, and_changes_path h (fun hs => ?_)]
        simp only [Bool.or_eq_true, decide_eq_true_eq] at hs
        unfold PathFree
        omega
      · split
        · rfl
        · split
          · next hp =>
            simp only [Bool.and_eq_true, decide_eq_true_eq] at hp
            rw [audioBusy_path h, and_changes_path h (fun hs => ?_)]
            simp only [Bool.and_eq_true, decide_eq_true_eq] at hs
            unfold PathFree
            omega
          · rfl
  unfold stateRefused
  rw [hnode, hsleep, hentry]

theorem stageError_path (ses : Session) (x : Staged) : stageError a ses x = stageError d ses x := by
  obtain ⟨hstaged, howner, hheld, -⟩ := h.dict
  unfold stageError
  rw [hstaged, howner, hheld, stateRefused_path h]

end path

/-! ### The ends of a write -/

/-- A request that is served at once is judged on a device that its path has reached; a valid device stays valid on the way. -/
theorem ask_write_valid {s : State} {src : Src} {idx sub off : Nat} {data : List Byte} (hs : Served s.dev src)
    (ho : overlong (writeOf src idx sub off data) = false) :
    ∃ a, Reached src s.found a ∧ (s.dev.Valid → a.Valid) ∧
      ask (writeOf src idx sub off data) s.found = serveWrite (writeOf src idx sub off data) data a := by
  obtain ⟨-, hpath, hready, hrole⟩ := served_carried (r := writeOf src idx sub off data) (d := s.found) hs ho
  exact ⟨_, ⟨hpath, hready, hrole⟩, fun hv => (carry_kept _ id s.found (fun _ h => h) (Dev.Valid.kept (d := s.found) hv)).valid,
    ask_write (d := s.found) hs ho⟩

theorem ask_write_reached {s : State} {src : Src} {idx sub off : Nat} {data : List Byte} (hs : Served s.dev src)
    (ho : overlong (writeOf src idx sub off data) = false) :
    ∃ a, Reached src s.found a ∧ ask (writeOf src idx sub off data) s.found = serveWrite (writeOf src idx sub off data) data a := by
  obtain ⟨a, ha, -, hask⟩ := ask_write_valid (idx := idx) (sub := sub) hs ho
  exact ⟨a, ha, hask⟩

theorem Reached.refused {s : State} {src : Src} {a : Dev} (h : Reached src s.found a) (idx sub code : Nat) :
    RefusedWith s src idx sub code (refuseWrite src idx sub code a) := by
  obtain ⟨hpath, hanswer⟩ := refuseWrite_ready h.ready idx sub code
  exact ⟨⟨a, h.pathOnly, hpath⟩, hanswer⟩

/-- An answer 0 to a write that has acted on what is no path's. -/
theorem Reached.acts {s : State} {src : Src} {a : Dev} (h : Reached src s.found a) {A : List Part} {f : Dev → Dev}
    (hf : Framed A (bump 0x2003 1 a) (f (bump 0x2003 1 a))) (h1 : Part.access ∉ A) (h2 : Part.mail ∉ A) (idx sub : Nat) :
    ActsAtOnce s src idx sub f (answerWrite src idx sub 0 (f (bump 0x2003 1 a))) := by
  have hready : Ready (bump 0x2003 1 a) src := h.ready.framed (A := [.regs]) (bump_framed _ _ _ (by decide) (.refl _ _)) (by decide) (by decide)
  obtain ⟨hpath, hanswer⟩ := answerWrite_ready hready hf h1 h2 idx sub 0
  exact ⟨⟨a, h.pathOnly, hpath⟩, hanswer⟩

/-- A write that rows 1 to 4 of R35 refuse. -/
theorem completes_error {s : State} {src : Src} {c : Instr} {idx sub off code : Nat} {data : List Byte}
    (hc : exec c s = askBytes src idx sub off data s) (hs : Served s.dev src) (ho : overlong (writeOf src idx sub off data) = false)
    (hsub : sub < 256) (he : checkWrite s.dev (roleOf s.dev src) idx sub off data = .error code) :
    Completes c s (RefusedWith s src idx sub code) := by
  refine completes_of_exec hc ?_
  obtain ⟨a, ha, hask⟩ := ask_write_reached hs ho
  have he' : checkWrite a (roleOf a src) idx sub off data = .error code := by
    rw [ha.role, checkWrite_path ha.pathOnly _ _ _ _ hsub]
    exact he
  rw [hask, serveWrite_error he']
  exact ha.refused idx sub code

/-- The staged write of a request. -/
def stagedOf (idx sub off : Nat) (data : List Byte) (v : Value) : Staged :=
  { idx := idx, sub := sub, val := v, spans := if isTable idx then [(off, data.length)] else [] }

/-- What the agent makes of a write to a staged entry that rows 1 to 4 of R35 pass. -/
theorem serveWrite_reached {s : State} {src : Src} {a : Dev} {idx sub off : Nat} {data : List Byte} {row : EntryRow} {v : Value}
    (ha : Reached src s.found a) (hsub : sub < 256)
    (hw : checkWrite s.dev (roleOf s.dev src) idx sub off data = .ok (row, v)) (hi : row.imm = false) :
    serveWrite (writeOf src idx sub off data) data a =
      match stageError s.dev (sessionKey src) (stagedOf idx sub off data v) with
      | some code => refuseWrite src idx sub code a
      | none => answerWrite src idx sub 0 (stageWrite (sessionKey src) (stagedOf idx sub off data v) a) := by
  have hw' : checkWrite a (roleOf a src) idx sub off data = .ok (row, v) := by
    rw [ha.role, checkWrite_path ha.pathOnly _ _ _ _ hsub]
    exact hw
  rw [serveWrite_eq hw' hi, stageError_path ha.pathOnly]
  rfl

/-- The staged write, its count and its idle time, on a device that the path has reached. -/
theorem stageWrite_reached {s : State} {src : Src} {a : Dev} (ha : Reached src s.found a) (x : Staged) :
    stageWrite (sessionKey src) x a = onDict (fun q => { q with
      staged := putStage q.staged x
      owner := some (sessionKey src)
      idleDeadline := some (s.dev.now + cfg s.dev 0x2002 7 * sNs) }) (bump 0x2003 1 a) := by
  have hidle : cfg (bump 0x2003 1 (onDict (fun q => { q with staged := putStage q.staged x, owner := some (sessionKey src) }) a)) 0x2002 7 =
      cfg s.dev 0x2002 7 := (cfg_bump_ne 0x2003 1 0x2002 7 _ (by decide)).trans (ha.pathOnly.cfg_free (by unfold PathFree; omega))
  have hnow : a.now = s.dev.now := ha.pathOnly.now
  unfold stageWrite touchIdle
  rw [hidle, show (bump 0x2003 1 (onDict (fun q => { q with staged := putStage q.staged x, owner := some (sessionKey src) }) a)).now =
    s.dev.now from hnow]
  rfl

theorem Reached.staged {s : State} {src : Src} {a : Dev} (ha : Reached src s.found a) (x : Staged) :
    StagedBy s src x (answerWrite src x.idx x.sub 0 (stageWrite (sessionKey src) x a)) := by
  have hframe : Framed [.regs, .staging] a (stageWrite (sessionKey src) x a) := stageWrite_framed _ _ _ (by decide) (.refl _ a)
  obtain ⟨hpath, hanswer⟩ := answerWrite_ready ha.ready hframe (by decide) (by decide) x.idx x.sub 0
  exact ⟨⟨a, ha.pathOnly, Eq.mp (congrArg (PathOnly src · _) (stageWrite_reached ha x)) hpath⟩, hanswer⟩

/-- Settles O11: the checks find on the device that the path has reached what they find on the one before. -/
theorem aStagedWriteChangesOnlyTheStagingSet : Obligations.AStagedWriteChangesOnlyTheStagingSet := by
  intro s src idx sub off data row v x hs ho hw hi hx
  obtain ⟨a, ha, hask⟩ := ask_write_reached hs ho
  refine completes_of_exec (f := ask (writeOf src idx.toNat sub.toNat off.toNat data)) rfl ?_
  rw [hask, serveWrite_reached ha (by omega) hw hi, show stageError s.dev (sessionKey src) (stagedOf _ _ _ _ _) = none from hx]
  exact ha.staged x

/-- Settles O12: each clause names the first check that fails. -/
theorem aRefusedWriteOnlyCounts : Obligations.ARefusedWriteOnlyCounts := by
  intro s src idx sub off data i b refused hs ho
  have hsub : b < 256 := sub.isLt
  have herror : ∀ code, checkWrite s.dev (roleOf s.dev src) i b off.toNat data = .error code → refused code := fun code he =>
    completes_error rfl hs ho hsub he
  refine ⟨fun hr hx => herror _ ?_, fun hr hx => herror _ ?_, fun row hr => ⟨fun hw => herror _ ?_, fun hw =>
    ⟨fun n hn => ⟨fun hl => herror _ ?_, fun hl => herror _ ?_, fun hl h0 => herror _ ?_⟩, fun v code hc hi => ?_⟩⟩⟩
  · simp only [checkWrite, findRow, hr, hx, Bool.false_eq_true, if_false]
  · simp only [checkWrite, findRow, hr, hx, if_true]
  · have he : row.writeError (roleOf s.dev src) = some (if (List.range 4).any row.writes then 0x0F000001 else 0x06010002) := by
      unfold EntryRow.writeError
      rw [hw]
      cases (List.range 4).any row.writes <;> rfl
    simp only [checkWrite, findRow, hr, he]
  all_goals have he : row.writeError (roleOf s.dev src) = none := by simp only [EntryRow.writeError, hw, if_true]
  · have hlen : writeLength s.dev row i b off.toNat data = .error 0x06070012 := by
      unfold writeLength
      cases hty : row.ty <;> simp_all [EntryType.fixed]
    simp only [checkWrite, findRow, hr, he, hlen]
  · have hlen : writeLength s.dev row i b off.toNat data = .error 0x06070013 := by
      unfold writeLength
      cases hty : row.ty <;> simp_all [EntryType.fixed] <;> omega
    simp only [checkWrite, findRow, hr, he, hlen]
  · have hoff : off.toNat ≠ 0 := fun hz => h0 (BitVec.eq_of_toNat_eq hz)
    have hlen : writeLength s.dev row i b off.toNat data = .error 0x0F000009 := by
      unfold writeLength
      cases hty : row.ty <;> simp_all [EntryType.fixed]
    simp only [checkWrite, findRow, hr, he, hlen]
  · intro x hx
    obtain ⟨a, ha, hask⟩ := ask_write_reached hs ho
    refine completes_of_exec (f := ask (writeOf src i b off.toNat data)) rfl ?_
    rw [hask, serveWrite_reached ha hsub hc hi, show stageError s.dev (sessionKey src) (stagedOf _ _ _ _ _) = some code from hx]
    exact ha.refused i b code

end Sys2Proof.Machine
end

section
/-! PROOF. Writes to immediate entries that are served at once (R34, R36), and what waits (R44, R47). -/

namespace Sys2Proof.Machine

/-! ### An immediate write -/

theorem length_leBytes (n v : Nat) : (leBytes n v).length = n := by
  induction n generalizing v with
  | zero => rfl
  | succ n ih => simp only [leBytes, List.length_cons, ih]

theorem EntryType.fixed_le {ty : EntryType} {n : Nat} (h : ty.fixed = some n) : n ≤ 8 := by
  cases ty <;> simp only [EntryType.fixed, Option.some.injEq, reduceCtorEq] at h <;> omega

/-- A number of the entry's width makes itself. -/
theorem writeLength_num {row : EntryRow} {n v : Nat} (hfix : row.ty.fixed = some n) (hv : v < 256 ^ n) (d : Dev) (idx sub : Nat) :
    writeLength d row idx sub 0 (leBytes n v) = .ok (.num v) := by
  have hl := length_leBytes n v
  have hb := leNat_leBytes n v hv
  unfold writeLength
  cases hty : row.ty <;> rw [hty] at hfix <;> simp only [EntryType.fixed, Option.some.injEq, reduceCtorEq] at hfix <;> subst hfix <;>
    simp [EntryType.fixed, hl, hb]

theorem checkWrite_num {d : Dev} {role idx sub n v : Nat} {row : EntryRow} (hrow : rowOf idx sub = some row)
    (hw : row.writes role = true) (hfix : row.ty.fixed = some n) (hv : v < 256 ^ n) (htab : isTable idx = false)
    (hval : valueError d row idx sub (.num v) = none) : checkWrite d role idx sub 0 (leBytes n v) = .ok (row, .num v) :=
  checkWrite_of hrow hw (writeLength_num hfix hv d idx sub) htab hval

theorem overlong_num (src : Src) (idx sub : Nat) {n : Nat} (v : Nat) (hn : n ≤ 8) : overlong (writeOf src idx sub 0 (leBytes n v)) = false := by
  have hl := length_leBytes n v
  cases src <;> simp only [overlong, writeOf, mostBytes, hl] <;> first | rfl | exact decide_eq_false (by omega)

/-- A write to an immediate entry comes to the end of its act, on a device that the path has reached. -/
theorem completes_imm_valid {s : State} {src : Src} {c : Instr} {idx sub off : Nat} {data : List Byte} {row : EntryRow} {v : Value}
    {P : Dev → Prop} (hc : exec c s = askBytes src idx sub off data s) (hs : Served s.dev src)
    (ho : overlong (writeOf src idx sub off data) = false) (hsub : sub < 256)
    (hw : checkWrite s.dev (roleOf s.dev src) idx sub off data = .ok (row, v)) (himm : row.imm = true)
    (hcommit : ¬ (idx = 0x2002 ∧ sub = 1))
    (hP : ∀ a, Reached src s.found a → (s.dev.Valid → a.Valid) → P (finishAct src idx sub a
      (actOn (writeOf src idx sub off data) (roleOf s.dev src) v
        (onlyIf (!(idx = 0x2011 && sub = 2 && v.toNat = 1)) (bump 0x2003 1) a)))) : Completes c s P := by
  refine completes_of_exec hc ?_
  obtain ⟨a, ha, hv, hask⟩ := ask_write_valid hs ho
  have hw' : checkWrite a (roleOf a src) idx sub off data = .ok (row, v) := by
    rw [ha.role, checkWrite_path ha.pathOnly _ _ _ _ hsub]
    exact hw
  rw [hask, serveWrite_act hw' himm hcommit, ha.role]
  exact hP a ha hv

theorem completes_imm {s : State} {src : Src} {c : Instr} {idx sub off : Nat} {data : List Byte} {row : EntryRow} {v : Value}
    {P : Dev → Prop} (hc : exec c s = askBytes src idx sub off data s) (hs : Served s.dev src)
    (ho : overlong (writeOf src idx sub off data) = false) (hsub : sub < 256)
    (hw : checkWrite s.dev (roleOf s.dev src) idx sub off data = .ok (row, v)) (himm : row.imm = true)
    (hcommit : ¬ (idx = 0x2002 ∧ sub = 1))
    (hP : ∀ a, Reached src s.found a → P (finishAct src idx sub a (actOn (writeOf src idx sub off data) (roleOf s.dev src) v
      (onlyIf (!(idx = 0x2011 && sub = 2 && v.toNat = 1)) (bump 0x2003 1) a)))) : Completes c s P :=
  completes_imm_valid hc hs ho hsub hw himm hcommit fun a ha _ => hP a ha

/-- The same for a number, which is counted as accepted at once. -/
theorem completes_num_valid {s : State} {src : Src} {c : Instr} {idx sub n v : Nat} {row : EntryRow} {P : Dev → Prop}
    (hc : exec c s = askNum src idx sub n v s) (hs : Served s.dev src) (hm : MayWrite s.dev src idx sub)
    (hrow : rowOf idx sub = some row) (hfix : row.ty.fixed = some n) (hv : v < 256 ^ n) (himm : row.imm = true)
    (hval : valueError s.dev row idx sub (.num v) = none) (hsub : sub < 256) (htab : isTable idx = false)
    (hcommit : ¬ (idx = 0x2002 ∧ sub = 1)) (hcount : ¬ (idx = 0x2011 ∧ sub = 2 ∧ v = 1))
    (hP : ∀ a, Reached src s.found a → (s.dev.Valid → a.Valid) → P (finishAct src idx sub a
      (actOn (writeOf src idx sub 0 (leBytes n v)) (roleOf s.dev src) (.num v) (bump 0x2003 1 a)))) : Completes c s P := by
  obtain ⟨row', hrow', hw⟩ := hm
  obtain rfl : row = row' := Option.some.inj (hrow.symm.trans hrow')
  refine completes_imm_valid hc hs (overlong_num src idx sub v (EntryType.fixed_le hfix)) hsub
    (checkWrite_num hrow hw hfix hv htab hval) himm hcommit fun a ha hvalid => ?_
  have hb : (!(decide (idx = 0x2011) && decide (sub = 2) && decide ((Value.num v).toNat = 1))) = true := by
    simp only [Bool.not_eq_true', Bool.and_eq_false_iff, decide_eq_false_iff_not]
    show (¬ idx = 0x2011 ∨ ¬ sub = 2) ∨ ¬ v = 1
    tauto
  rw [onlyIf, if_pos hb]
  exact hP a ha hvalid

theorem completes_num {s : State} {src : Src} {c : Instr} {idx sub n v : Nat} {row : EntryRow} {P : Dev → Prop}
    (hc : exec c s = askNum src idx sub n v s) (hs : Served s.dev src) (hm : MayWrite s.dev src idx sub)
    (hrow : rowOf idx sub = some row) (hfix : row.ty.fixed = some n) (hv : v < 256 ^ n) (himm : row.imm = true)
    (hval : valueError s.dev row idx sub (.num v) = none) (hsub : sub < 256) (htab : isTable idx = false)
    (hcommit : ¬ (idx = 0x2002 ∧ sub = 1)) (hcount : ¬ (idx = 0x2011 ∧ sub = 2 ∧ v = 1))
    (hP : ∀ a, Reached src s.found a → P (finishAct src idx sub a
      (actOn (writeOf src idx sub 0 (leBytes n v)) (roleOf s.dev src) (.num v) (bump 0x2003 1 a)))) : Completes c s P :=
  completes_num_valid hc hs hm hrow hfix hv himm hval hsub htab hcommit hcount fun a ha _ => hP a ha

/-! ### Fences (R47) -/

/-- Settles O16: the fence is an act without an answer, and its end answers and finds no request waiting. -/
theorem aFenceHoldsWritesUntilItCompletes : Obligations.AFenceHoldsWritesUntilItCompletes := by
  intro s
  refine ⟨fun src token hs hm => ?_, fun src token hf hq => ?_⟩
  · refine completes_num (c := .fence src token) rfl hs hm rfl rfl token.isLt rfl rfl (by decide) rfl (by decide)
      (fun h => absurd h.1 (by decide))
      fun a ha => ?_
    exact ⟨a, ha.pathOnly, PathOnly.refl _ _⟩
  · let e := onDict (fun q => { q with fence := none, fenceToken := token }) s.found
    have hpath : PathOnly src e (answerWrite src 0x2002 2 0 e) := answer_pathOnly _ _ _
    have hcommit := hpath.same .commit (by decide)
    simp only [Part.same, Prod.mk.injEq] at hcommit
    obtain ⟨-, -, -, htoken, hqueue, -⟩ := hcommit
    refine completes_of_eq (execFenceComplete s) (e := answerWrite src 0x2002 2 0 e) rfl rfl ?_ ⟨hpath, ?_⟩
    · have hf' : s.found.dict.fence = some (src, token) := hf
      simp only [hf']
      exact resume_empty _ (hqueue.trans hq)
    · exact congrArg Value.num htoken

/-! ### Requests that wait (R44, R47, R52) -/

/-- A request of an SDO server that is on goes straight to the agent. -/
theorem ask_sdo {c : CanId} {d : Dev} (hon : sdoOn d c = true) (idx sub off : Nat) (op : ReqOp) (phy : Option (BitVec 16)) :
    ask { src := .sdo c, idx := idx, sub := sub, off := off, op := op, phy := phy } d =
      submit { src := .sdo c, idx := idx, sub := sub, off := off, op := op, phy := phy } d := by
  simp only [ask, carry, hon, if_true]
  rfl

theorem submit_waits {r : Req} {d : Dev} (ha : d.pow.agentReady = true) (hw : mustWait d r = true) :
    submit r d = onDict (fun q => { q with queue := q.queue ++ [r] }) d := by
  simp only [submit, ha, hw, Bool.not_true, Bool.false_eq_true, if_false, if_true]

theorem submit_unheard {r : Req} {d : Dev} (ha : d.pow.agentReady = false) : submit r d = d := by
  simp only [submit, ha, Bool.not_false, if_true]

/-- Settles O17: an SDO server hands the request on, which the agent queues or does not hear. -/
theorem writesThatMustWaitJoinTheQueue : Obligations.WritesThatMustWaitJoinTheQueue := by
  intro s c idx sub off data w r hon
  have hw : ask w s.found = submit w s.found := ask_sdo (d := s.found) hon _ _ _ _ _
  have hr : ask r s.found = submit r s.found := ask_sdo (d := s.found) hon _ _ _ _ _
  refine ⟨fun ha hwait => completes_of_exec (f := ask w) rfl (hw.trans (submit_waits ha ?_)),
    fun ha hk => completes_of_exec (f := ask r) rfl (hr.trans (submit_waits ha ?_)),
    fun ha => ⟨completes_of_exec (f := ask w) rfl (hw.trans (submit_unheard ha)),
      completes_of_exec (f := ask r) rfl (hr.trans (submit_unheard ha))⟩⟩
  · have hwrite : w.isWrite = true := rfl
    rcases hwait with ⟨hk, hmdio⟩ | hf
    · have hk' : s.found.dict.commit.isSome = true := Option.isSome_iff_ne_none.mpr hk
      simp only [mustWait, hmdio, hk', Bool.not_false, Bool.true_or, Bool.and_self]
    · have hf' : s.found.dict.fence.isSome = true := Option.isSome_iff_ne_none.mpr hf
      simp only [mustWait, hf', hwrite, Bool.and_self, Bool.or_true, Bool.true_or]
  · have hk' : s.found.dict.commit.isSome = true := Option.isSome_iff_ne_none.mpr hk
    have hmdio : mdioRequest r = false := rfl
    simp only [mustWait, hmdio, hk', Bool.not_false, Bool.true_or, Bool.and_self]

end Sys2Proof.Machine
end

section
/-! PROOF. Commits: a failing entry that is 0 need not be named where the dictionary holds the register of 0x2002:08 twice
(R41, R42, R45). -/

namespace Sys2Proof.Machine

/-- A node in the Recovery profile with the write to index 0, subindex 0 staged, whose dictionary holds 0x2002:08 twice: it
is outside the canonical states. -/
def twiceNamed (held : Option HeldCommit) : State :=
  let d := State.reset.dev
  { dev := { d with
      dict := { d.dict with
        od := [(0x200208, .num 5), (0x200208, .num 7), (0x20100F, .num 2)]
        staged := [{ idx := 0, sub := 0, val := .num 0, spans := [] }], owner := some .pcie, heldCommit := held }
      node := { d.node with profile := 4 }
      pow := { d.pow with state := .active, agentReady := true, booted := true, porN := true, safeN := true, bootStep := 9 }
      pins := { d.pins with strapPcie := true }
      host := { d.host with linkUp := true } }
    pending := [] }

/-- The register that names the failing entry after a step. -/
def namedEntry (r : Result) : Option Nat :=
  match r with
  | .next t => some (cfg t.dev 0x2002 8)
  | _ => none

theorem namedEntry_of_completes {c : Instr} {s : State} {P : Dev → Prop} {n : Nat} (h : Completes c s P)
    (hP : ∀ d, P d → cfg d 0x2002 8 = n) : namedEntry (exec c s) = some n := by
  obtain ⟨t, he, -, ht⟩ := h
  rw [he]
  exact congrArg some (hP _ ht)

/-- The refused commit leaves the second register of 0x2002:08 in place. -/
theorem namedEntry_commit : namedEntry (exec (.commit .pcie 1) (twiceNamed none)) = some 7 := by decide

theorem namedEntry_release : namedEntry (exec .commitHoldRelease (twiceNamed (some ⟨.pcie, 9, 3⟩))) = some 7 := by decide

/-- Refutes O13: in the Recovery profile the failing entry is 0, and clearing the first of two registers of 0x2002:08
uncovers the second, which holds 7. -/
theorem not_aCommitIsCheckedInTheOrderOfR41 : ¬ Obligations.ACommitIsCheckedInTheOrderOfR41 := by
  intro h
  have hserved : Served (twiceNamed none).dev .pcie := by unfold Served; decide
  obtain ⟨-, -, -, hmine⟩ := h (twiceNamed none) .pcie 1 hserved ⟨_, rfl, by decide⟩
  obtain ⟨-, hfree⟩ := hmine (by decide) (by decide) (by decide)
  obtain ⟨-, hjudged⟩ := hfree (by decide) (by decide)
  obtain ⟨-, hfails⟩ := hjudged (by decide)
  have hnamed := namedEntry_of_completes (hfails 0x08000022 0 (by decide)) fun d ⟨_, _, _, _, hn, _⟩ => hn
  exact absurd (namedEntry_commit.symm.trans hnamed) (by decide)

/-- Refutes O14: the same of a held commit that is released. -/
theorem not_aHeldCommitIsReleasedOrRefused : ¬ Obligations.AHeldCommitIsReleasedOrRefused := by
  intro h
  obtain ⟨hheld, -, -⟩ := h (twiceNamed (some ⟨.pcie, 9, 3⟩))
  obtain ⟨hreleased, -⟩ := hheld _ rfl
  obtain ⟨-, hfails⟩ := hreleased (by decide)
  have hnamed := namedEntry_of_completes (hfails 0x08000022 0 (by decide)) fun d ⟨_, _, _, _, hn, _⟩ => hn
  exact absurd (namedEntry_release.symm.trans hnamed) (by decide)

end Sys2Proof.Machine
end

section
/-! PROOF. Clearing counters (R64, R259, R365, R521). -/

namespace Sys2Proof.Machine

/-! ### Entries whose write has no act of its own -/

/-- Every row of the spec's own entry tables. -/
def dictionaryRows : List EntryRow := ((List.range 0x20).map (0x10 + ·)).flatMap entryRows

theorem mem_dictionaryRows {idx sub : Nat} {row : EntryRow} (h : entryRow idx sub = some row) : row ∈ dictionaryRows := by
  have hmem : row ∈ entryRows (idx / 256) := List.mem_of_find?_eq_some h
  have hlow : 0x10 ≤ idx / 256 ∧ idx / 256 < 0x30 := by
    by_contra hn
    have hnil : entryRows (idx / 256) = [] := by
      unfold entryRows
      split <;> first | rfl | omega
    rw [hnil] at hmem
    exact absurd hmem List.not_mem_nil
  exact List.mem_flatMap.mpr ⟨idx / 256, List.mem_map.mpr ⟨idx / 256 - 0x10, List.mem_range.mpr (by omega), by omega⟩, hmem⟩

/-- The entry's write has an act or a check of its own, or its counter stands outside the committed registers: chapters 03
to 08. -/
def netOwn (idx sub : Nat) : Bool :=
  (idx = 0x2100 && sub = 6) || (idx = 0x2105 && sub = 1) || (idx = 0x2206 && sub = 3) ||
    (0x2300 ≤ idx && idx < 0x2314 && sub = 0x1C) || (0x2300 ≤ idx && idx < 0x2314 && sub = 0x22) || (idx = 0x2401 && sub = 1) ||
    (idx = 0x2401 && sub = 3) || idx = 0x2504

/-- The same of chapters 11 to 14. -/
def fieldOwn (idx sub : Nat) : Bool :=
  idx = 0x2901 || idx = 0x2903 || (idx = 0x2A02 && sub = 1) || idx = 0x2A04 || (idx = 0x2B01 && sub = 1) ||
    (0x2C10 ≤ idx && idx < 0x2C14 && sub = 0x0A) || (0x2C20 ≤ idx && idx < 0x2C40 && sub = 1)

/-- The same of chapters 16 to 19. -/
def platformOwn (idx sub : Nat) : Bool :=
  (idx = 0x2D02 && sub = 1) || (idx = 0x2D04 && sub = 5) || (idx = 0x2D04 && sub = 6) || (idx = 0x2E04 && sub = 6) ||
    (idx = 0x2E08 && sub = 2) || (0x2E10 ≤ idx && idx < 0x2E50) || (idx = 0x2F00 && sub = 2) || (idx = 0x2F00 && sub = 3)

/-- The same of every chapter, with the special checks of row 4 of R35. -/
def ownAct (idx sub : Nat) : Bool :=
  decide (idx < 0x2003) || idx = 0x2011 || (0x2700 ≤ idx && idx < 0x2780 && (idx % 16 = 3 || idx % 16 = 4)) || idx = 0x2803 ||
    idx = 0x2A03 || idx = 0x2A04 || (idx = 0x2F01 && sub = 4) || decide (0x5000 ≤ idx) || netOwn idx sub || fieldOwn idx sub ||
    platformOwn idx sub

/-- No counter of the tables has an act of its own but those behind a selector or outside the committed registers. -/
theorem counters_plain : ∀ row ∈ dictionaryRows, row.range = .zero → ∀ k < row.count, ∀ j < row.subCount,
    ownAct (row.base + row.stride * k) (row.subLo + j) = true →
      row.base + row.stride * k = 0x2901 ∨ row.base + row.stride * k = 0x2504 ∨
        0x2E10 ≤ row.base + row.stride * k ∧ row.base + row.stride * k < 0x2E50 := by decide +kernel

/-- A counter that is no exception has no act of its own. -/
theorem ownAct_counter {idx sub : Nat} {row : EntryRow} (hrow : rowOf idx sub = some row) (hzero : row.range = .zero)
    (h1 : idx ≠ 0x2901) (h2 : idx ≠ 0x2504) (h3 : idx < 0x2E10 ∨ 0x2E50 ≤ idx) : ownAct idx sub = false := by
  have htab : ¬ (0x5000 ≤ idx ∧ idx ≤ 0x5FFF) := by
    intro ht
    simp only [rowOf, ht, decide_true, Bool.and_self, if_true] at hrow
    unfold tableRow at hrow
    split at hrow
    · exact absurd hrow nofun
    · repeat' split at hrow
      all_goals cases hrow
      all_goals exact absurd hzero nofun
  have hentry : entryRow idx sub = some row := by
    unfold rowOf at hrow
    rw [if_neg] at hrow
    · exact hrow
    · simpa using htab
  have hholds : row.holds idx sub = true := by
    have := List.find?_some hentry
    exact this
  simp only [EntryRow.holds, Bool.and_eq_true, decide_eq_true_eq] at hholds
  obtain ⟨⟨⟨⟨hbase, hmod⟩, hcount⟩, hlo⟩, hhi⟩ := hholds
  have hidx : row.base + row.stride * ((idx - row.base) / row.stride) = idx := by
    have := Nat.div_add_mod (idx - row.base) row.stride
    omega
  have hsub : row.subLo + (sub - row.subLo) = sub := by omega
  have hplain := counters_plain row (mem_dictionaryRows hentry) hzero _ hcount (sub - row.subLo) (by omega)
  rw [hidx, hsub] at hplain
  by_contra h
  have := hplain (by simpa using h)
  omega

theorem agentAct_plain {r : Req} (h1 : ¬ r.idx < 0x2003) (h2 : r.idx ≠ 0x2011) (role : Nat) (v : Value) (d : Dev) :
    agentAct r role v d = .done (setReg r.idx r.sub v.toNat d) := by
  unfold agentAct
  split <;> first | rfl | omega

theorem canAct_plain (c : CanId) {idx : Nat} (h : idx % 16 ≠ 4) (sub : Nat) (v : Value) (d : Dev) :
    canAct c idx sub v d = .done (setReg idx sub v.toNat d) := by
  unfold canAct
  generalize idx % 16 = m at h
  split <;> first | rfl | contradiction

theorem netAct_plain {r : Req} (h : netOwn r.idx r.sub = false) (v : Value) (d : Dev) :
    netAct r v d = .done (setReg r.idx r.sub v.toNat d) := by
  simp only [netOwn, Bool.or_eq_false_iff] at h
  obtain ⟨⟨⟨⟨⟨⟨⟨h1, h2⟩, h3⟩, h4⟩, h5⟩, h6⟩, h7⟩, h8⟩ := h
  have h8' : (decide (r.idx = 0x2504) && decide (2 ≤ r.sub) && decide (r.sub ≤ 8)) = false := by rw [h8]; rfl
  simp only [netAct, h1, h2, h3, h4, h5, h6, h7, h8', Bool.false_eq_true, if_false]

theorem fieldAct_plain {r : Req} (h : fieldOwn r.idx r.sub = false) (v : Value) (d : Dev) :
    fieldAct r v d = .done (setReg r.idx r.sub v.toNat d) := by
  simp only [fieldOwn, Bool.or_eq_false_iff] at h
  obtain ⟨⟨⟨⟨⟨⟨h1, h2⟩, h3⟩, h4⟩, h5⟩, h6⟩, h7⟩ := h
  have h2' := of_decide_eq_false h2
  have h4' := of_decide_eq_false h4
  simp only [fieldAct, h1, h2', h3, h4', h5, h6, h7, Bool.false_and, Bool.false_eq_true, if_false]

theorem platformAct_plain {r : Req} (h : platformOwn r.idx r.sub = false) (v : Value) (d : Dev) :
    platformAct r v d = .done (setReg r.idx r.sub v.toNat d) := by
  simp only [platformOwn, Bool.or_eq_false_iff] at h
  obtain ⟨⟨⟨⟨⟨⟨⟨h1, h2⟩, h3⟩, h4⟩, h5⟩, h6⟩, h7⟩, h8⟩ := h
  simp only [platformAct, h1, h2, h3, h4, h5, h6, h7, h8, Bool.false_and, Bool.false_eq_true, if_false]

/-- A write that has no act of its own takes the value. -/
theorem actOn_plain {r : Req} (h : ownAct r.idx r.sub = false) (role : Nat) (v : Value) (d : Dev) :
    actOn r role v d = .done (setReg r.idx r.sub v.toNat d) := by
  simp only [ownAct, Bool.or_eq_false_iff] at h
  obtain ⟨⟨⟨⟨⟨⟨⟨⟨⟨⟨h1, h2⟩, h3⟩, -⟩, -⟩, -⟩, -⟩, -⟩, hnet⟩, hfield⟩, hplatform⟩ := h
  unfold actOn
  split
  · exact agentAct_plain (of_decide_eq_false h1) (of_decide_eq_false h2) role v d
  split
  · next hcan =>
    rw [hcan, Bool.true_and, Bool.or_eq_false_iff] at h3
    exact canAct_plain _ (of_decide_eq_false h3.2) r.sub v d
  split
  · exact netAct_plain hnet v d
  split
  · exact fieldAct_plain hfield v d
  · exact platformAct_plain hplatform v d

/-- Nor has it a check of its own beyond its row's. -/
theorem specialError_plain {idx sub : Nat} (h : ownAct idx sub = false) (d : Dev) (v : Value) : specialError d idx sub v = none := by
  simp only [ownAct, Bool.or_eq_false_iff] at h
  obtain ⟨⟨⟨⟨⟨⟨⟨⟨⟨⟨-, -⟩, h3⟩, h4⟩, h5⟩, h6⟩, h7⟩, -⟩, -⟩, -⟩, -⟩ := h
  have h3' : (decide (0x2700 ≤ idx) && decide (idx < 0x2780) && decide (idx % 16 = 3)) = false := by
    rw [Bool.and_or_distrib_left, Bool.or_eq_false_iff] at h3
    exact h3.1
  simp only [specialError, h3', h4, h5, h6, h7, Bool.false_and, Bool.false_eq_true, if_false]

/-- Row 4 of R35 lets 0 alone into a counter. -/
theorem valueError_counter {row : EntryRow} {n idx sub v : Nat} {d : Dev} (hzero : row.range = .zero) (hfix : row.ty.fixed = some n)
    (hspecial : specialError d idx sub (.num v) = none) :
    valueError d row idx sub (.num v) = if v = 0 then none else some 0x06090030 := by
  unfold valueError
  rw [hspecial]
  by_cases hv : v = 0
  · cases hty : row.ty <;> simp_all [codeError, Range.numberError, EntryType.fixed]
  · cases hty : row.ty <;> simp_all [codeError, Range.numberError, EntryType.fixed]
    split <;> rfl

theorem leBytes_zero (n : Nat) : leBytes n 0 = List.replicate n 0 := by
  induction n with
  | zero => rfl
  | succ n ih => exact congrArg (0 :: ·) ih

/-- 0 to a counter of a row acts at once. -/
theorem counterClear_acts {s : State} {src : Src} {idx : BitVec 16} {sub : BitVec 8} {i b : Nat} {row : EntryRow} {n : Nat} {A : List Part}
    {f : Dev → Dev} (hs : Served s.dev src) (hi : idx.toNat = i) (hb : sub.toNat = b) (hrow : rowOf i b = some row)
    (hzero : row.range = .zero) (himm : row.imm = true) (hfix : row.ty.fixed = some n) (hw : row.writes (roleOf s.dev src) = true)
    (hspecial : specialError s.dev i b (.num 0) = none) (htab : isTable i = false)
    (hcommit : ¬ (i = 0x2002 ∧ b = 1)) (h1 : Part.access ∉ A) (h2 : Part.mail ∉ A)
    (hf : ∀ a, Reached src s.found a → Framed A (bump 0x2003 1 a) (f (bump 0x2003 1 a)))
    (hact : ∀ a, Reached src s.found a → actOn (writeOf src i b 0 (leBytes n 0)) (roleOf s.dev src) (.num 0)
      (bump 0x2003 1 a) = .done (f (bump 0x2003 1 a))) :
    Completes (.counterClear src idx sub (List.replicate n 0)) s (ActsAtOnce s src i b f) := by
  subst hi hb
  rw [← leBytes_zero]
  refine completes_num rfl hs ⟨row, hrow, hw⟩ hrow hfix (by positivity) himm ?_ sub.isLt htab hcommit (by omega) fun a ha => ?_
  · exact (valueError_counter hzero hfix hspecial).trans (if_pos rfl)
  · rw [hact a ha]
    exact ha.acts (hf a ha) h1 h2 _ _

/-- Any other number of the counter's length is refused. -/
theorem counterClear_refused {s : State} {src : Src} {idx : BitVec 16} {sub : BitVec 8} {row : EntryRow} {data : List Byte}
    (hs : Served s.dev src) (hrow : rowOf idx.toNat sub.toNat = some row) (hzero : row.range = .zero)
    (hfix : row.ty.fixed = some data.length) (hw : row.writes (roleOf s.dev src) = true)
    (hspecial : specialError s.dev idx.toNat sub.toNat (.num (leNat data)) = none) (htab : isTable idx.toNat = false)
    (hv : leNat data ≠ 0) :
    Completes (.counterClear src idx sub data) s (RefusedWith s src idx.toNat sub.toNat 0x06090030) := by
  have hle := EntryType.fixed_le hfix
  have hover : overlong (writeOf src idx.toNat sub.toNat 0 data) = false := by
    cases src <;> simp only [overlong, writeOf, mostBytes] <;> first | rfl | exact decide_eq_false (by omega)
  have hlen : writeLength s.dev row idx.toNat sub.toNat 0 data = .ok (.num (leNat data)) := by
    unfold writeLength
    cases hty : row.ty <;> simp_all [EntryType.fixed]
  refine completes_error rfl hs hover sub.isLt ?_
  have he : row.writeError (roleOf s.dev src) = none := by simp only [EntryRow.writeError, hw, if_true]
  have hval := (valueError_counter (d := s.dev) hzero hfix hspecial).trans (if_neg hv)
  simp only [checkWrite, findRow, hrow, he, hlen, htab, Bool.false_eq_true, if_false, Option.none_or, hval]

/-! ### The counters that stand elsewhere -/

/-- The row of the value of an event counter, and that of its overflow flag. -/
theorem rowOf_eventCounter : ∀ i : Fin 64,
    rowOf (0x2E10 + i.val) 5 = some ⟨0x2E10, 64, 1, 0x05, 1, .u64, 0x1133, .n 0, .vol, true, false, .zero⟩ ∧
      rowOf (0x2E10 + i.val) 7 = some ⟨0x2E10, 64, 1, 0x07, 1, .bool, 0x1133, .n 0, .vol, true, false, .zero⟩ := by decide +kernel

theorem rowOf_windowCounter : ∀ k : Fin 7,
    rowOf 0x2504 (2 + k.val) = some ⟨0x2504, 1, 1, 2 + k.val, 1, .u32, 0x1133, .n 0, .vol, true, false, .zero⟩ := by decide +kernel

theorem MayWrite.of_row {d : Dev} {src : Src} {idx sub : Nat} {row : EntryRow} (h : MayWrite d src idx sub)
    (hrow : rowOf idx sub = some row) : row.writes (roleOf d src) = true := by
  obtain ⟨row', hrow', hw⟩ := h
  obtain rfl : row = row' := Option.some.inj (hrow.symm.trans hrow')
  exact hw

/-- A write to the value or the overflow flag of an event counter. -/
theorem actOn_eventCounter {r : Req} (i : Fin 64) (hidx : r.idx = 0x2E10 + i.val) (hsub : r.sub = 5 ∨ r.sub = 7) (role : Nat) (v : Value)
    (d : Dev) : actOn r role v d = .done (onHealth (fun h => { h with counters := vmod h.counters i (fun c =>
        if r.sub = 5 then { c with value := 0 } else { c with overflow := false }) }) d) := by
  have h := i.isLt
  have hi : Fin.ofNat 64 (r.idx - 0x2E10) = i := by
    apply Fin.ext
    simp only [Fin.ofNat, hidx, Nat.add_sub_cancel_left]
    exact Nat.mod_eq_of_lt h
  have hcan : (decide (0x2700 ≤ r.idx) && decide (r.idx < 0x2780)) = false := by simp; omega
  have hplace : (decide (0x2E10 ≤ r.idx) && decide (r.idx < 0x2E50) && (decide (r.sub = 5) || decide (r.sub = 7))) = true := by
    simp; omega
  have hne : ∀ x, (x < 0x2E10 ∨ 0x2E50 ≤ x) → decide (r.idx = x) = false := fun x hx => decide_eq_false (by omega)
  simp only [actOn, hcan, Bool.false_eq_true, if_false, if_neg (show ¬ r.idx < 0x2100 by omega),
    if_neg (show ¬ r.idx < 0x2900 by omega), if_neg (show ¬ r.idx < 0x2D00 by omega), platformAct,
    hne 0x2D02 (by omega), hne 0x2D04 (by omega), hne 0x2E04 (by omega), hne 0x2E08 (by omega), Bool.false_and, hplace, if_true, hi]

/-- A write to a counter of the selected window. -/
theorem actOn_windowCounter (src : Src) (k : Fin 7) (data : List Byte) (role : Nat) (v : Value) (d : Dev) :
    actOn (writeOf src 0x2504 (2 + k.val) 0 data) role v d = .done (if selectedPlaced d then clearWindow k d else d) := by
  fin_cases k <;> rfl

/-- Settles O18: a counter of the committed registers has no act of its own, and each of the others has one. -/
theorem counterClearSetsTheCounterToZero : Obligations.CounterClearSetsTheCounterToZero := by
  intro s src hs
  refine ⟨fun idx sub row n hrow hzero himm hfix hw h1 h2 h3 => ?_, fun i h5 h7 => ?_, fun hm => ?_, fun k hm hplaced => ?_⟩
  · have hown : ownAct idx.toNat sub.toNat = false :=
      ownAct_counter hrow hzero (fun h => h1 (BitVec.eq_of_toNat_eq h)) (fun h => h2 (BitVec.eq_of_toNat_eq h)) h3
    have hfree : ¬ idx.toNat < 0x2003 ∧ ¬ 0x5000 ≤ idx.toNat := by
      simp only [ownAct, Bool.or_eq_false_iff, decide_eq_false_iff_not] at hown
      tauto
    have htab : isTable idx.toNat = false := by simp [isTable]; omega
    refine ⟨?_, fun data hlen hv => counterClear_refused hs hrow hzero (hlen ▸ hfix) hw (specialError_plain hown _ _) htab hv⟩
    exact counterClear_acts (A := [.regs]) (f := setReg idx.toNat sub.toNat 0) hs rfl rfl hrow hzero himm hfix hw (specialError_plain hown _ _)
      htab (by omega) (by decide) (by decide) (fun a _ => setReg_framed _ _ _ _ (by decide) (.refl _ _))
      (fun a _ => actOn_plain (r := writeOf src idx.toNat sub.toNat 0 (leBytes n 0)) hown _ _ _)
  · obtain ⟨hrow5, hrow7⟩ := rowOf_eventCounter i
    have hi : (0x2E10 + BitVec.ofNat 16 i.val).toNat = 0x2E10 + i.val := by
      have := i.isLt
      rw [BitVec.toNat_add, BitVec.toNat_ofNat]
      change (0x2E10 + i.val % 2 ^ 16) % 2 ^ 16 = _
      omega
    have hspecial : ∀ sub, specialError s.dev (0x2E10 + i.val) sub (.num 0) = none := by
      have := i.isLt
      intro sub
      simp (disch := omega) [specialError, if_neg]
    have htab : isTable (0x2E10 + i.val) = false := by simp [isTable]; omega
    have hcounters : ∀ (f : EvCounter → EvCounter) (a : Dev),
        Framed [.counters] a (onHealth (fun h => { h with counters := vmod h.counters i f }) a) := fun f a =>
      onHealth_framed _ _ ⟨.inl rfl, .inr (by decide)⟩ (.refl _ _)
    exact ⟨counterClear_acts (n := 8) (A := [.counters]) hs hi rfl hrow5 rfl rfl rfl (h5.of_row hrow5) (hspecial 5) htab (by omega)
        (by decide) (by decide) (fun a _ => hcounters _ _) (fun a _ => actOn_eventCounter (r := writeOf src (0x2E10 + i.val) 5 0 (leBytes 8 0)) i rfl (.inl rfl) _ _ _),
      counterClear_acts (n := 1) (A := [.counters]) hs hi rfl hrow7 rfl rfl rfl (h7.of_row hrow7) (hspecial 7) htab (by omega)
        (by decide) (by decide) (fun a _ => hcounters _ _) (fun a _ => actOn_eventCounter (r := writeOf src (0x2E10 + i.val) 7 0 (leBytes 1 0)) i rfl (.inr rfl) _ _ _)⟩
  · have hrow : rowOf 0x2901 6 = some ⟨0x2901, 1, 1, 0x06, 1, .u32, 0x1133, .n 0, .vol, true, false, .zero⟩ := by decide +kernel
    refine counterClear_acts (n := 4) (A := [.chk]) hs rfl rfl hrow rfl rfl rfl (hm.of_row hrow) rfl rfl (by decide) (by decide) (by decide)
      (fun a _ => setChk_framed _ _ _ (by decide) (.refl _ _)) (fun a ha => ?_)
    have hsel : cfg (bump 0x2003 1 a) 0x2901 1 = cfg s.dev 0x2901 1 :=
      (cfg_bump_ne 0x2003 1 0x2901 1 a (by decide)).trans (ha.pathOnly.cfg_free (by unfold PathFree; omega))
    have hchk : chkOf (bump 0x2003 1 a) (cfg s.dev 0x2901 1) = chkOf s.dev (cfg s.dev 0x2901 1) :=
      congrArg (fun l => Store.find (fun _ => CheckCh.blank) l (cfg s.dev 0x2901 1)) (ha.pathOnly.same .chk (by decide))
    show Act.done (setChk (cfg (bump 0x2003 1 a) 0x2901 1) { chkOf (bump 0x2003 1 a) (cfg (bump 0x2003 1 a) 0x2901 1) with crc := 0 } _) = _
    rw [hsel, hchk]
  · have hrow := rowOf_windowCounter k
    have hsub : (2 + BitVec.ofNat 8 k.val).toNat = 2 + k.val := by
      have := k.isLt
      rw [BitVec.toNat_add, BitVec.toNat_ofNat]
      change (2 + k.val % 2 ^ 8) % 2 ^ 8 = _
      omega
    refine counterClear_acts (n := 4) (A := [.sched]) hs rfl hsub hrow rfl rfl rfl (hm.of_row hrow) rfl rfl (by omega) (by decide) (by decide)
      (fun a _ => onSched_framed _ _ (by decide) (.refl _ _)) (fun a ha => ?_)
    have hsel : cfg (bump 0x2003 1 a) 0x2504 1 = cfg s.dev 0x2504 1 :=
      (cfg_bump_ne 0x2003 1 0x2504 1 a (by decide)).trans (ha.pathOnly.cfg_free (by unfold PathFree; omega))
    have hgates : (bump 0x2003 1 a).sched.gates = s.dev.sched.gates := congrArg SchedS.gates (ha.pathOnly.same .sched (by decide))
    have hplaced' : selectedPlaced (bump 0x2003 1 a) = true := by
      unfold selectedPlaced
      rw [hsel, hgates]
      exact hplaced
    rw [actOn_windowCounter, hplaced', if_pos rfl]
    unfold clearWindow
    rw [hsel]

end Sys2Proof.Machine
end

section
/-! PROOF. The stored copies (R48, R49, R69): a request on its way to the agent leaves the committed values of the stored class
as they are, entry for entry. -/

namespace Sys2Proof.Machine

/-! ### What a copy keeps of the committed registers -/

/-- The committed values of the stored class. -/
def storedValues (d : Dev) : List (Nat × Value) := d.dict.od.filter fun x => isStored x.1

theorem Store.filter_put {α : Type} [DecidableEq α] (dflt : Nat → α) {P : Nat → Bool} {k : Nat} (hk : P k = false) (v : α) (l : List (Nat × α)) :
    (Store.put dflt l k v).filter (fun x => P x.1) = l.filter (fun x => P x.1) := by
  induction l with
  | nil => unfold Store.put; split <;> simp [hk]
  | cons x m ih =>
    obtain ⟨k', v'⟩ := x
    unfold Store.put
    split
    · split <;> simp [hk]
    split
    · next he =>
      subst he
      split <;> simp [hk]
    · simp only [List.filter_cons, ih]

theorem storedValues_setReg {idx sub : Nat} (h : isStored (odKey idx sub) = false) (v : Nat) (d : Dev) :
    storedValues (setReg idx sub v d) = storedValues d := Store.filter_put odDefault h _ _

theorem storedValues_countGood (p : Port) (len : Nat) (d : Dev) : storedValues (countGood p len d) = storedValues d := by
  have h : ∀ p : Port, isStored (odKey (0x2300 + p.val) 0x23) = false ∧ isStored (odKey (0x2300 + p.val) 0x24) = false := by
    decide +kernel
  exact (storedValues_setReg (h p).2 _ _).trans (storedValues_setReg (h p).1 _ _)

theorem storedValues_bumpDropped (d : Dev) : storedValues (bump 0x2010 0x12 d) = storedValues d := storedValues_setReg (by decide) _ _

/-- What is heard of a session frame counts, and leaves the rest to the session. -/
theorem storedValues_kdaHeard {h : KdaHeader} {n : Nat} {act : Dev → Dev} {d : Dev}
    (hact : ∀ e, e.dict.sessions = d.dict.sessions → storedValues (act e) = storedValues e) :
    storedValues (kdaHeard h n act d) = storedValues d := by
  have hgood : storedValues (if portUp d h.peer.port then countGood h.peer.port (frameLen (28 + 32 + n)) d else d) = storedValues d := by
    split
    · exact storedValues_countGood _ _ _
    · rfl
  have hsessions : (if portUp d h.peer.port then countGood h.peer.port (frameLen (28 + 32 + n)) d else d).dict.sessions =
      d.dict.sessions := by split <;> rfl
  unfold kdaHeard
  dsimp only
  generalize (if portUp d h.peer.port then countGood h.peer.port (frameLen (28 + 32 + n)) d else d) = e at hgood hsessions
  generalize (if e.now / sNs = e.dict.kdaSecond then e.dict.kdaCount else Vector.replicate 20 0) = counts
  split
  · exact hgood
  split
  · exact (storedValues_bumpDropped _).trans hgood
  split
  · exact hgood
  split
  · exact (storedValues_bumpDropped _).trans hgood
  · refine (hact _ ?_).trans ?_
    · exact hsessions
    · exact hgood

/-- The next frame of a session reaches the agent with the stored values as they were. -/
theorem storedValues_kdaRequest {h : KdaHeader} {n : Nat} {d : Dev} {x : KdaSession} (hx : sessionOf d h.session = some x)
    (hseq : h.seq = x.lastSeq + 1) : storedValues (kdaRequest h n id d) = storedValues d := by
  refine storedValues_kdaHeard fun e he => ?_
  have hx' : sessionOf e h.session = some x := by
    unfold sessionOf at hx ⊢
    rw [he]
    exact hx
  have hne : ¬ h.seq = x.lastSeq := by
    rw [hseq]
    intro hc
    bv_omega
  simp only [hx']
  split
  · unfold inSequence
    rw [if_neg hne]
    split
    · rfl
    · exact storedValues_bumpDropped _
  · exact storedValues_bumpDropped _

theorem storedValues_ringBell (path : HostPath) (f : Dev → Dev) (hf : ∀ d, storedValues (f d) = storedValues d) (d : Dev) :
    storedValues (onPath path (fun d => ringBell path id (f d)) d) = storedValues d := by
  have hmailbox : ∀ g e, storedValues (onMailbox path g e) = storedValues e := fun g e => by cases path <;> rfl
  unfold onPath
  split
  · unfold ringBell
    dsimp only
    split
    · exact (hmailbox _ _).trans (hf d)
    split
    · refine Eq.trans (b := storedValues (onMailbox path (fun m => { m with aborted := true }) (f d))) ?_ ((hmailbox _ _).trans (hf d))
      unfold storedValues
      rw [setInt_dict]
    · exact (hmailbox _ _).trans (hf d)
  · rfl

theorem storedValues_carry {r : Req} {d : Dev} (hs : Served d r.src) : storedValues (carry r id d) = storedValues d := by
  obtain ⟨-, -, -, -, -, hsrc⟩ := hs
  unfold carry
  cases h : r.src with
  | sdo c => simp only; split <;> rfl
  | kda id seq =>
    rw [h] at hsrc
    obtain ⟨x, hx, -, -, hseq, -⟩ := hsrc
    simp only [hx]
    exact storedValues_kdaRequest hx hseq
  | pcie => exact storedValues_ringBell .pcie (fillWindow .pcie r) (fun e => by unfold fillWindow; split <;> rfl) d
  | serial => exact storedValues_ringBell .serial (fillWindow .serial r) (fun e => by unfold fillWindow; split <;> rfl) d

/-! ### Writes of 0x1010 and 0x1011 -/

/-- What a copy takes, of a device that the path has reached. -/
theorem saveCopy_reached {src : Src} {d a : Dev} (h : PathOnly src d a) (hv : storedValues a = storedValues d) :
    saveCopy (bump 0x2003 1 a) = (onDict (fun x =>
      let copy : CfgCopy := CfgCopy.seal
        { magic := 0x4B5A4346, generation := (max d.dict.copy0.generation d.dict.copy1.generation) % 0xFFFFFFFF + 1, count := 0, size := 0
          epoch := d.dict.epoch, imageId := cfg d 0x2011 4, product := BitVec.ofNat 32 (productCode d)
          majorLine := BitVec.ofNat 8 (majorLine d), crc := 0
          values := storedValues d, tables := savedTables d, marked := false }
      if copyValid d d.dict.copy0 && (!copyValid d d.dict.copy1 || decide (d.dict.copy1.generation < d.dict.copy0.generation)) then
        { x with copy1 := copy }
      else { x with copy0 := copy }) (bump 0x2003 1 a)) := by
  have hstored := h.same .stored (by decide)
  have hcommit := h.same .commit (by decide)
  have hmem : a.dict.mem = d.dict.mem := h.same .tables (by decide)
  have hchip : a.chip = d.chip := h.same .chip (by decide)
  have hpow : a.pow = d.pow := h.same .pow (by decide)
  have hlearned : a.fab.learned = d.fab.learned := (congrArg FabricS.learned (h.same .fab (by decide)) :)
  simp only [Part.same, Prod.mk.injEq] at hstored hcommit
  obtain ⟨h0, h1⟩ := hstored
  obtain ⟨hepoch, -⟩ := hcommit
  have hproduct : productCode (bump 0x2003 1 a) = productCode d := by
    unfold productCode
    rw [bump_chip, hchip]
  have hmajor : majorLine (bump 0x2003 1 a) = majorLine d := by
    unfold majorLine partOf
    rw [bump_pow, hpow]
  have htables : savedTables (bump 0x2003 1 a) = savedTables d := by
    unfold savedTables
    rw [bump_fab, hlearned, show (bump 0x2003 1 a).dict.mem = d.dict.mem from hmem]
  have himage : cfg (bump 0x2003 1 a) 0x2011 4 = cfg d 0x2011 4 :=
    (cfg_bump_ne 0x2003 1 0x2011 4 a (by decide)).trans (h.cfg_free (by unfold PathFree; omega))
  have hvalues : storedValues (bump 0x2003 1 a) = storedValues d := (storedValues_setReg (by decide) _ _).trans hv
  have hvalid : ∀ c, copyValid (bump 0x2003 1 a) c = copyValid d c := fun c => by
    unfold copyValid
    rw [hproduct, hmajor]
  have hc0 : (bump 0x2003 1 a).dict.copy0 = d.dict.copy0 := h0
  have hc1 : (bump 0x2003 1 a).dict.copy1 = d.dict.copy1 := h1
  have he : (bump 0x2003 1 a).dict.epoch = d.dict.epoch := hepoch
  have holder : olderIsOne (bump 0x2003 1 a) =
      (copyValid d d.dict.copy0 && (!copyValid d d.dict.copy1 || decide (d.dict.copy1.generation < d.dict.copy0.generation))) := by
    unfold olderIsOne
    simp only [hvalid, hc0, hc1]
    cases copyValid d d.dict.copy0 <;> cases copyValid d d.dict.copy1 <;> simp
  unfold saveCopy
  simp only [holder, hproduct, hmajor, htables, himage, hc0, hc1, he]
  rw [show (bump 0x2003 1 a).dict.od.filter (fun x => isStored x.1) = storedValues d from hvalues]
  generalize (copyValid d d.dict.copy0 && (!copyValid d d.dict.copy1 || decide (d.dict.copy1.generation < d.dict.copy0.generation))) = b
  cases b
  · simp only [onDict, Bool.false_eq_true, if_false, hc0, hc1, he]
  · simp only [onDict, if_true, hc0, hc1, he]

theorem emmcReady_path {src : Src} {d a : Dev} (h : PathOnly src d a) : emmcReady (bump 0x2003 1 a) = emmcReady d := by
  have hchip : a.chip = d.chip := h.same .chip (by decide)
  have hrec : a.recd = d.recd := h.same .recd (by decide)
  unfold emmcReady
  rw [bump_chip, bump_recd, hchip, hrec]

/-- A write of the word of 0x1010 or 0x1011, on a device that the path has reached with the stored values as they were. -/
theorem completes_word {s : State} {src : Src} {c : Instr} {idx v : Nat} {row : EntryRow} {P : Dev → Prop}
    (hc : exec c s = askNum src idx 1 4 v s) (hs : Served s.dev src) (hm : MayWrite s.dev src idx 1) (hrow : rowOf idx 1 = some row)
    (hfix : row.ty.fixed = some 4) (hv : v < 256 ^ 4) (himm : row.imm = true) (hval : valueError s.dev row idx 1 (.num v) = none)
    (htab : isTable idx = false) (hidx : idx ≠ 0x2002)
    (hP : ∀ a, Reached src s.found a → storedValues a = storedValues s.found → P (finishAct src idx 1 a
      (actOn (writeOf src idx 1 0 (leBytes 4 v)) (roleOf s.dev src) (.num v) (bump 0x2003 1 a)))) : Completes c s P := by
  obtain ⟨row', hrow', hw⟩ := hm
  obtain rfl : row = row' := Option.some.inj (hrow.symm.trans hrow')
  have ho := overlong_num src idx 1 v (EntryType.fixed_le hfix)
  obtain ⟨-, hpath, hready, hrole⟩ := served_carried (r := writeOf src idx 1 0 (leBytes 4 v)) (d := s.found) hs ho
  refine completes_of_exec hc ?_
  rw [ask_write (d := s.found) hs ho]
  have hstored : storedValues (carry (writeOf src idx 1 0 (leBytes 4 v)) id s.found) = storedValues s.found :=
    storedValues_carry (r := writeOf src idx 1 0 (leBytes 4 v)) (d := s.found) hs
  generalize carry (writeOf src idx 1 0 (leBytes 4 v)) id s.found = a at hpath hready hrole hstored
  have hw' : checkWrite a (roleOf a src) idx 1 0 (leBytes 4 v) = .ok (row, .num v) := by
    rw [show roleOf a src = roleOf s.dev src from hrole, checkWrite_path hpath _ _ _ _ (by decide)]
    exact checkWrite_num hrow hw hfix hv htab hval
  rw [serveWrite_act hw' himm (fun h => hidx h.1), show roleOf a src = roleOf s.dev src from hrole]
  have hcount : (!(decide (idx = 0x2011) && decide ((1 : Nat) = 2) && decide ((Value.num v).toNat = 1))) = true := by
    rw [show decide ((1 : Nat) = 2) = false from rfl, Bool.and_false, Bool.false_and]
    rfl
  rw [onlyIf, if_pos hcount]
  exact hP a ⟨hpath, hready, hrole⟩ hstored

/-- Settles O19: a saved copy takes what the request has left as it was, and without the eMMC the write is refused. -/
theorem saveAndRestoreMarkTheStoredCopies : Obligations.SaveAndRestoreMarkTheStoredCopies := by
  intro s src hs q
  have hready : ∀ a, Reached src s.found a → emmcReady (bump 0x2003 1 a) = emmcReady s.dev := fun a ha =>
    emmcReady_path (d := s.found) ha.pathOnly
  refine ⟨fun hm => ⟨fun he => ?_, fun he => ?_⟩, fun hm => ⟨fun he => ?_, fun he => ?_⟩⟩
  · refine completes_word (c := .saveAll src) rfl hs hm rfl rfl (by decide) rfl rfl rfl (by decide) fun a ha hv => ?_
    have hact : actOn (writeOf src 0x1010 1 0 (leBytes 4 0x65766173)) (roleOf s.dev src) (.num 0x65766173) (bump 0x2003 1 a) =
        if emmcReady (bump 0x2003 1 a) then .done (saveCopy (bump 0x2003 1 a)) else .refuse 0x08000020 id := rfl
    have hsaved := saveCopy_reached ha.pathOnly hv
    have hframe : Framed [.stored] (bump 0x2003 1 a) (saveCopy (bump 0x2003 1 a)) := saveCopy_framed _ (by decide) (.refl _ _)
    rw [hact, hready a ha, he, if_pos rfl, hsaved]
    exact ha.acts (A := [.stored]) (hsaved ▸ hframe) (by decide) (by decide) _ _
  · refine completes_word (c := .saveAll src) rfl hs hm rfl rfl (by decide) rfl rfl rfl (by decide) fun a ha hv => ?_
    have hact : actOn (writeOf src 0x1010 1 0 (leBytes 4 0x65766173)) (roleOf s.dev src) (.num 0x65766173) (bump 0x2003 1 a) =
        if emmcReady (bump 0x2003 1 a) then .done (saveCopy (bump 0x2003 1 a)) else .refuse 0x08000020 id := rfl
    rw [hact, hready a ha, he, if_neg (by decide)]
    exact ha.refused _ _ _
  · refine completes_word (c := .restoreDefaults src) rfl hs hm rfl rfl (by decide) rfl rfl rfl (by decide) fun a ha hv => ?_
    have hact : actOn (writeOf src 0x1011 1 0 (leBytes 4 0x64616F6C)) (roleOf s.dev src) (.num 0x64616F6C) (bump 0x2003 1 a) =
        if emmcReady (bump 0x2003 1 a) then .done (markDefaults (bump 0x2003 1 a)) else .refuse 0x08000020 id := rfl
    rw [hact, hready a ha, he, if_pos rfl]
    exact ha.acts (A := [.stored]) (markDefaults_framed _ (by decide) (.refl _ _)) (by decide) (by decide) _ _
  · refine completes_word (c := .restoreDefaults src) rfl hs hm rfl rfl (by decide) rfl rfl rfl (by decide) fun a ha hv => ?_
    have hact : actOn (writeOf src 0x1011 1 0 (leBytes 4 0x64616F6C)) (roleOf s.dev src) (.num 0x64616F6C) (bump 0x2003 1 a) =
        if emmcReady (bump 0x2003 1 a) then .done (markDefaults (bump 0x2003 1 a)) else .refuse 0x08000020 id := rfl
    rw [hact, hready a ha, he, if_neg (by decide)]
    exact ha.refused _ _ _

end Sys2Proof.Machine
end

section
/-! PROOF. Configuration images (R50, R66, R602). -/

namespace Sys2Proof.Machine

/-! ### The staging set between two devices -/

section framed
variable {A : List Part} {a b : Dev} (h : Framed A a b) (hn : Part.staging ∉ A)
include h hn

theorem Framed.staged : b.dict.staged = a.dict.staged := congrArg Prod.fst (h.same .staging hn)
theorem Framed.owner : b.dict.owner = a.dict.owner := congrArg (·.2.1) (h.same .staging hn)
theorem Framed.idleDeadline : b.dict.idleDeadline = a.dict.idleDeadline := congrArg (·.2.2.1) (h.same .staging hn)
theorem Framed.image : b.dict.image = a.dict.image := congrArg (·.2.2.2.2.2.1) (h.same .staging hn)
theorem Framed.imageStatus : b.dict.imageStatus = a.dict.imageStatus := congrArg (·.2.2.2.2.2.2.1) (h.same .staging hn)
theorem Framed.imageBy : b.dict.imageBy = a.dict.imageBy := congrArg (·.2.2.2.2.2.2.2.1) (h.same .staging hn)

end framed

/-! ### Data of the image -/

theorem checkWrite_imageData {d : Dev} {role : Nat} {off : BitVec 32} {data : List Byte} {row : EntryRow} (hrow : rowOf 0x2011 1 = some row)
    (hw : row.writes role = true) (hoff : off.toNat ≤ (presentBytes d 0x2011 1).length) (hlen : off.toNat + data.length ≤ 16777216) :
    checkWrite d role 0x2011 1 off.toNat data =
      .ok (row, .bytes (if off = 0 then data else splice (presentBytes d 0x2011 1) off.toNat data)) := by
  obtain rfl : (⟨0x2011, 1, 1, 0x01, 1, .domain 16777216, 0x0022, .nil, .vol, true, false, .any⟩ : EntryRow) = row := Option.some.inj hrow
  have hl : writeLength d ⟨0x2011, 1, 1, 0x01, 1, .domain 16777216, 0x0022, .nil, .vol, true, false, .any⟩ 0x2011 1 off.toNat data =
      .ok (.bytes (if off = 0 then data else splice (presentBytes d 0x2011 1) off.toNat data)) := by
    simp only [writeLength, if_neg (show ¬ 16777216 < off.toNat + data.length by omega),
      if_neg (show ¬ (presentBytes d 0x2011 1).length < off.toNat by omega)]
    by_cases h0 : off = 0
    · simp [h0, isTable]
    · have h0' : off.toNat ≠ 0 := fun h => h0 (BitVec.eq_of_toNat_eq h)
      rw [if_neg h0, if_pos ((Bool.or_eq_true _ _).mpr (.inr (decide_eq_true h0')))]
  exact checkWrite_of hrow hw hl rfl rfl

/-- What a path leaves alone, the data of the image stand on. -/
theorem actOn_imageData {src : Src} {off : Nat} {data bs : List Byte} {role : Nat} {d : Dev} (hst : d.dict.imageStatus ≠ 2) :
    actOn (writeOf src 0x2011 1 off data) role (.bytes bs) d = .done (onDict (fun q => { q with image := bs, imageStatus := 1 }) d) := by
  show Act.when (decide (d.dict.imageStatus ≠ 2)) _ = _
  rw [Act.when, if_pos (decide_eq_true hst)]
  rfl

/-! ### The verification -/

/-- Verified writes are added to the staging set alone. -/
theorem stageImage_framed {role : Nat} {l : List (Nat × Nat × Nat × List Byte)} {d x : Dev} (h : stageImage role l d = .ok x) :
    Framed [.staging] d x := stageImage_pair h (by decide) (.refl _ _)

theorem stageImage_imageBy {role : Nat} {l : List (Nat × Nat × Nat × List Byte)} {d x : Dev} (h : stageImage role l d = .ok x) :
    x.dict.imageBy = d.dict.imageBy := by
  induction l generalizing d with
  | nil => cases h; rfl
  | cons w ws ih =>
    obtain ⟨idx, sub, off, data⟩ := w
    unfold stageImage at h
    split at h
    · cases h
    · split at h
      · cases h
      · exact (ih h).trans rfl

/-- The verified writes pass R35 and R40 and become the set of the session that asked. -/
theorem takeImage_staged {src : Src} {d x : Dev} (hown : d.dict.staged = [] ∨ d.dict.owner = some (sessionKey src))
    (hx : stageImage (roleOf d src) (Config.imageWrites (d.dict.image.take (d.dict.image.length - blockSize))) d = .ok x)
    (hfits : fits x.dict.staged = true) : ∃ e, takeImage src d = answerWrite src 0x2011 2 0 e ∧ e.dict.staged = x.dict.staged ∧
      e.dict.owner = some (sessionKey src) ∧ e.dict.imageStatus = 3 ∧ e.dict.imageBy = d.dict.imageBy ∧
      e.dict.idleDeadline = some (d.now + cfg d 0x2002 7 * sNs) ∧ cfg e 0x2003 1 = min 0xFFFFFFFF (cfg d 0x2003 1 + 1) := by
  have hfree : (!d.dict.staged.isEmpty && decide (d.dict.owner ≠ some (sessionKey src))) = false := by
    rcases hown with h | h <;> simp [h]
  have hframe := stageImage_framed hx
  have hod : x.dict.od = d.dict.od := hframe.same .regs (by decide)
  have hcfg : ∀ i b, cfg x i b = cfg d i b := fun i b => congrArg (fun l => (Store.find odDefault l (odKey i b)).toNat) hod
  have hnow : x.now = d.now := (congrArg Prod.fst (hframe.same .clock (by decide)) :)
  unfold takeImage
  simp only [hfree, Bool.false_eq_true, if_false, hx, hfits, Bool.not_true]
  refine ⟨_, rfl, rfl, rfl, rfl, ?_, ?_, ?_⟩
  · exact (stageImage_imageBy hx :)
  · show some (x.now + cfg x 0x2002 7 * sNs) = _
    rw [hnow, hcfg]
  · refine (cfg_bump_self 0x2003 1 _ (by decide)).trans ?_
    show min 0xFFFFFFFF (cfg x 0x2003 1 + 1) = _
    rw [hcfg]

/-- The end of a verification that fails leaves the image's status and the staging set. -/
theorem refuseWrite_image (src : Src) (n code : Nat) (e : Dev) :
    let d := refuseWrite src 0x2011 2 code (onDict (fun q => { q with imageStatus := n }) e)
    d.dict.imageStatus = n ∧ d.dict.imageBy = e.dict.imageBy ∧ d.dict.staged = e.dict.staged ∧ d.dict.owner = e.dict.owner := by
  intro d
  have hpath : PathOnly src (countRefusal false 0x2011 2 code (onDict (fun q => { q with imageStatus := n }) e)) d := answer_pathOnly _ _ _
  have hframe := hpath.framed
  exact ⟨hframe.imageStatus (by decide), hframe.imageBy (by decide), hframe.staged (by decide), hframe.owner (by decide)⟩

/-- Settles O20: the entries of an image act at once, and its verification ends in a refusal or in the staging set. -/
theorem configurationImagesAreReceivedVerifiedAndDropped : Obligations.ConfigurationImagesAreReceivedVerifiedAndDropped := by
  intro s src
  refine ⟨fun hs h1 h2 => ⟨fun hst => ⟨fun off data ho hoff hlen => ?_, ?_⟩, fun hby => ?_, fun w hby => ?_⟩,
    fun hst hby => ⟨fun hv => ?_, fun hv => ?_, fun x hv hown hx hfits => ?_⟩⟩
  · obtain ⟨row, hrow, hw⟩ := h1
    have hrow' : (⟨0x2011, 1, 1, 0x01, 1, .domain 16777216, 0x0022, .nil, .vol, true, false, .any⟩ : EntryRow) = row := Option.some.inj hrow
    refine completes_imm (c := .imageData src off data) rfl hs ho (by decide) (checkWrite_imageData hrow hw hoff hlen) (by rw [← hrow'])
      (by decide) fun a ha => ?_
    have hst' : (bump 0x2003 1 a).dict.imageStatus ≠ 2 := fun h => hst ((ha.pathOnly.framed.imageStatus (by decide)).symm.trans h)
    rw [onlyIf, if_pos (show (!(decide (0x2011 = 0x2011) && decide (1 = 2) && _)) = true from rfl), actOn_imageData hst']
    exact ha.acts (A := [.staging]) (onDict_framed _ _ ⟨.inl rfl, .inl rfl, .inl rfl, .inr (by decide), .inl rfl, .inl rfl⟩ (.refl _ _))
      (by decide) (by decide) _ _
  · obtain ⟨row, hrow, hw⟩ := h2
    have hrow' : (⟨0x2011, 1, 1, 0x02, 1, .u8, 0x0022, .n 0, .vol, true, false, .oneOf [1, 2]⟩ : EntryRow) = row := Option.some.inj hrow
    have hcheck : checkWrite s.dev (roleOf s.dev src) 0x2011 2 0 (leBytes 1 1) = .ok (row, .num 1) := by
      subst hrow'
      exact checkWrite_num hrow hw rfl (by decide) rfl rfl
    refine completes_imm (c := .verifyAndStage src) rfl hs (overlong_num src _ _ _ (by decide)) (by decide) hcheck (by rw [← hrow'])
      (by decide) fun a ha => ?_
    have hst' : a.dict.imageStatus ≠ 2 := fun h => hst ((ha.pathOnly.framed.imageStatus (by decide)).symm.trans h)
    have hact : actOn (writeOf src 0x2011 2 0 (leBytes 1 1)) (roleOf s.dev src) (.num 1) a =
        if a.dict.imageStatus = 2 then .refuse 0x08000022 id else .later (onDict (fun q => { q with imageStatus := 2, imageBy := some src }) a) := rfl
    rw [onlyIf, if_neg (by decide), hact, if_neg hst']
    exact ⟨a, ha.pathOnly, PathOnly.refl _ _⟩
  · refine completes_num (c := .abandonImage src) rfl hs h2 rfl rfl (by decide) rfl rfl (by decide) rfl (by decide) (by decide) fun a ha => ?_
    have hby' : (bump 0x2003 1 a).dict.imageBy = none := (ha.pathOnly.framed.imageBy (by decide)).trans hby
    have hact : actOn (writeOf src 0x2011 2 0 (leBytes 1 2)) (roleOf s.dev src) (.num 2) (bump 0x2003 1 a) =
        match (bump 0x2003 1 a).dict.imageBy with
        | some w => .done (refuseWrite w 0x2011 2 0x08000022 (onDict (fun q => { q with image := [], imageStatus := 0, imageBy := none, imageStaged := none }) (bump 0x2003 1 a)))
        | none => .done (onDict (fun q => { q with image := [], imageStatus := 0, imageBy := none, imageStaged := none }) (bump 0x2003 1 a)) := rfl
    have hnone := congrArg (fun w => onDict (fun q => { q with image := [], imageStatus := 0, imageBy := w, imageStaged := none })
      (bump 0x2003 1 a)) hby'.symm
    rw [hact, hby']
    refine (congrArg (ActsAtOnce s src 0x2011 2 _) (congrArg (answerWrite src 0x2011 2 0) hnone)).mpr ?_
    exact ha.acts (A := [.staging]) (f := onDict (fun q => { q with image := [], imageStatus := 0, imageStaged := none }))
      (onDict_framed _ _ ⟨.inl rfl, .inl rfl, .inl rfl, .inr (by decide), .inl rfl, .inl rfl⟩ (.refl _ _)) (by decide) (by decide) _ _
  · refine completes_num (c := .abandonImage src) rfl hs h2 rfl rfl (by decide) rfl rfl (by decide) rfl (by decide) (by decide) fun a ha => ?_
    have hby' : (bump 0x2003 1 a).dict.imageBy = some w := (ha.pathOnly.framed.imageBy (by decide)).trans hby
    have hact : actOn (writeOf src 0x2011 2 0 (leBytes 1 2)) (roleOf s.dev src) (.num 2) (bump 0x2003 1 a) =
        match (bump 0x2003 1 a).dict.imageBy with
        | some w => .done (refuseWrite w 0x2011 2 0x08000022 (onDict (fun q => { q with image := [], imageStatus := 0, imageBy := none, imageStaged := none }) (bump 0x2003 1 a)))
        | none => .done (onDict (fun q => { q with image := [], imageStatus := 0, imageBy := none, imageStaged := none }) (bump 0x2003 1 a)) := rfl
    rw [hact, hby']
    let e := onDict (fun q => { q with image := [], imageStatus := 0, imageBy := none, imageStaged := none }) (bump 0x2003 1 a)
    have hrefused : PathOnly w (countRefusal false 0x2011 2 0x08000022 e) (refuseWrite w 0x2011 2 0x08000022 e) := answer_pathOnly _ _ _
    have hanswer : PathOnly src (refuseWrite w 0x2011 2 0x08000022 e) (answerWrite src 0x2011 2 0 (refuseWrite w 0x2011 2 0x08000022 e)) :=
      answer_pathOnly _ _ _
    have hpath : Framed pathParts (countRefusal false 0x2011 2 0x08000022 e) (answerWrite src 0x2011 2 0 (refuseWrite w 0x2011 2 0x08000022 e)) :=
      hrefused.framed.trans hanswer.framed
    have hcfg : ∀ i b, PathFree i b → cfg (answerWrite src 0x2011 2 0 (refuseWrite w 0x2011 2 0x08000022 e)) i b =
        cfg (countRefusal false 0x2011 2 0x08000022 e) i b := fun i b h => (hanswer.cfg_free h).trans (hrefused.cfg_free h)
    have hfree : ∀ b, b < 256 → PathFree 0x2003 b := fun b hb => by unfold PathFree; omega
    have h1' : cfg (countRefusal false 0x2011 2 0x08000022 e) 0x2003 1 = min 0xFFFFFFFF (cfg s.dev 0x2003 1 + 1) := by
      rw [countRefusal, cfg_setReg_ne _ _ _ _ _ _ (by decide), cfg_setReg_ne _ _ _ _ _ _ (by decide), cfg_bump_ne _ _ _ _ _ (by decide)]
      refine (cfg_bump_self 0x2003 1 a (by decide)).trans ?_
      rw [ha.pathOnly.cfg_free (hfree 1 (by decide))]
      rfl
    have h4' : cfg (countRefusal false 0x2011 2 0x08000022 e) 0x2003 4 = min 0xFFFFFFFF (cfg s.dev 0x2003 4 + 1) := by
      rw [countRefusal, cfg_setReg_ne _ _ _ _ _ _ (by decide), cfg_setReg_ne _ _ _ _ _ _ (by decide)]
      refine (cfg_bump_self 0x2003 4 e (by decide)).trans ?_
      rw [show cfg e 0x2003 4 = cfg a 0x2003 4 from cfg_bump_ne 0x2003 1 0x2003 4 a (by decide), ha.pathOnly.cfg_free (hfree 4 (by decide))]
      rfl
    exact ⟨hpath.image (by decide), hpath.imageStatus (by decide), hpath.imageBy (by decide),
      (hpath.staged (by decide)).trans (ha.pathOnly.framed.staged (by decide)), (hcfg _ _ (hfree 1 (by decide))).trans h1',
      (hcfg _ _ (hfree 4 (by decide))).trans h4'⟩
  · let e := refuseSignature (onDict (fun q => { q with imageBy := none }) s.found)
    have hsign : Framed eventParts (onDict (fun q => { q with imageBy := none }) s.found) e := refuseSignature_framed _ (by decide) (.refl _ _)
    refine completes_of_eq (execImageVerificationEnd s)
      (e := refuseWrite src 0x2011 2 0x0F000007 (onDict (fun q => { q with imageStatus := 4 }) e)) rfl rfl ?_ ?_
    · have hst' : s.found.dict.imageStatus = 2 := hst
      have hby' : s.found.dict.imageBy = some src := hby
      have hv' : imageVerdict s.found s.found.dict.image = 0x0F000007 := hv
      simp only [hst', hby', hv']
      rfl
    · obtain ⟨h1, h2, h3, h4⟩ := refuseWrite_image src 4 0x0F000007 e
      exact ⟨h1, h2.trans (hsign.imageBy (by decide)), h3.trans (hsign.staged (by decide)), h4.trans (hsign.owner (by decide)),
        refuseWrite_framed _ _ _ _ _ (by decide) (onDict_framed _ _ ⟨.inl rfl, .inl rfl, .inl rfl, .inr (by decide), .inl rfl, .inl rfl⟩
          (refuseSignature_framed _ (by decide) (onDict_framed _ _ ⟨.inl rfl, .inl rfl, .inl rfl, .inr (by decide), .inl rfl, .inl rfl⟩ (.refl _ _))))⟩
  · let e := onDict (fun q => { q with imageBy := none }) s.found
    refine completes_of_eq (execImageVerificationEnd s)
      (e := refuseWrite src 0x2011 2 0x0F000008 (onDict (fun q => { q with imageStatus := 5 }) e)) rfl rfl ?_ ?_
    · have hst' : s.found.dict.imageStatus = 2 := hst
      have hby' : s.found.dict.imageBy = some src := hby
      have hv' : imageVerdict s.found s.found.dict.image = 0x0F000008 := hv
      simp only [hst', hby', hv']
      rfl
    · obtain ⟨h1, h2, h3, h4⟩ := refuseWrite_image src 5 0x0F000008 e
      exact ⟨h1, h2, h3, h4, refuseWrite_framed _ _ _ _ _ (by decide)
        (onDict_framed _ _ ⟨.inl rfl, .inl rfl, .inl rfl, .inr (by decide), .inl rfl, .inl rfl⟩
          (onDict_framed _ _ ⟨.inl rfl, .inl rfl, .inl rfl, .inr (by decide), .inl rfl, .inl rfl⟩ (.refl _ _)))⟩
  · let e := onDict (fun q => { q with imageBy := none }) s.found
    refine completes_of_eq (execImageVerificationEnd s) (e := takeImage src e) rfl rfl ?_ ?_
    · have hst' : s.found.dict.imageStatus = 2 := hst
      have hby' : s.found.dict.imageBy = some src := hby
      have hv' : imageVerdict s.found s.found.dict.image = 0 := hv
      simp only [hst', hby', hv']
      rfl
    · obtain ⟨f, hf, h1, h2, h3, h4, h5, h6⟩ := takeImage_staged (d := e) hown hx hfits
      have hanswer : PathOnly src f (answerWrite src 0x2011 2 0 f) := answer_pathOnly _ _ _
      have hpath := hanswer.framed
      have hframe : Framed [.regs, .staging, .access, .queues, .mail, .ints, .counters, .out] s.found (takeImage src e) :=
        takeImage_framed _ _ (by decide) (onDict_framed _ _ ⟨.inl rfl, .inl rfl, .inl rfl, .inr (by decide), .inl rfl, .inl rfl⟩ (.refl _ _))
      refine ⟨?_, ?_, ?_, ?_, ?_, ?_, hframe⟩ <;> rw [hf]
      · exact (hpath.staged (by decide)).trans h1
      · exact (hpath.owner (by decide)).trans h2
      · exact (hpath.imageStatus (by decide)).trans h3
      · exact (hpath.imageBy (by decide)).trans h4
      · exact (hpath.idleDeadline (by decide)).trans h5
      · exact (hanswer.cfg_free (by unfold PathFree; omega)).trans h6

end Sys2Proof.Machine
end

section
/-! PROOF. SDO transfers (R53, R54, R67). -/

namespace Sys2Proof.Machine

/-! ### What a server sends -/

/-- A step of a block download that opens the transfer is answered with the block size. -/
def sdoOpens (c : CanId) (r : Req) (mode : SdoMode) (d : Dev) : Dev :=
  onlyIf (mode = .blockDown && (d.dict.sdo[c]).isNone) (sdoSend c [sdoHead 0xA4 r.idx r.sub (leBytes 1 127)]) d

theorem sdoOpens_framed (c : CanId) (r : Req) (mode : SdoMode) (d : Dev) : Framed [.out] d (sdoOpens c r mode d) := by
  unfold sdoOpens onlyIf
  split
  · exact sdoSend_framed _ _ _ (by decide) (.refl _ _)
  · exact .refl _ _

/-- A step of a server that is on. -/
theorem sdoStep_on {c : CanId} {d : Dev} (hon : sdoOn d c = true) (ha : d.pow.agentReady = true) (r : Req) (mode : SdoMode)
    (finished : Bool) (code : Nat) : sdoStep c r mode finished code d =
      if code ≠ 0 then sdoFailed c r code (sdoOpens c r mode d)
      else if finished then submit r (onDict (fun q => { q with
        sdo := q.sdo.set c.val none c.isLt, sdoMode := q.sdoMode.set c.val mode c.isLt }) (sdoOpens c r mode d))
      else sdoWaits c r.idx r.sub (sdoOpens c r mode d) := by
  unfold sdoStep sdoOpens
  simp only [hon, ha, Bool.not_true, Bool.or_self, Bool.false_eq_true, if_false]

/-- The device on which the request of a last step is judged. -/
def sdoEnds (c : CanId) (r : Req) (mode : SdoMode) (d : Dev) : Dev :=
  onDict (fun q => { q with sdo := q.sdo.set c.val none c.isLt, sdoMode := q.sdoMode.set c.val mode c.isLt }) (sdoOpens c r mode d)

theorem sdoEnds_framed (c : CanId) (r : Req) (mode : SdoMode) (d : Dev) : Framed [.out, .access] d (sdoEnds c r mode d) :=
  onDict_framed _ _ ⟨.inl rfl, .inl rfl, .inl rfl, .inl rfl, .inr (by decide), .inl rfl⟩ ((sdoOpens_framed c r mode d).mono (by decide))

theorem Framed.cfg_eq {A : List Part} {a b : Dev} (h : Framed A a b) (hn : Part.regs ∉ A) (i s : Nat) : cfg b i s = cfg a i s :=
  congrArg (fun l => (Store.find odDefault l (odKey i s)).toNat) (h.same .regs hn)

theorem sdoEnds_reached (c : CanId) (r : Req) (mode : SdoMode) (d : Dev) : Reached (.sdo c) d (sdoEnds c r mode d) where
  pathOnly := (sdoEnds_framed c r mode d).mono (by decide)
  ready := trivial
  role := (sdoEnds_framed c r mode d).cfg_eq (by decide) _ _

theorem sdoEnds_mode (c : CanId) (r : Req) (mode : SdoMode) (d : Dev) : (sdoEnds c r mode d).dict.sdoMode[c] = mode := by
  show (_ : Vector SdoMode 8)[c.val] = mode
  exact Vector.getElem_set_self _

/-- The frames of an answer 0 go out. -/
theorem answer_sdo_sent (c : CanId) {rs : Resp} (h : rs.abort = 0) (d : Dev) :
    ∀ f ∈ sdoFrames d.dict.sdoMode[c] rs, Out.sdo c.val (sdoCob d c) f ∈ (answer (.sdo c) rs d).out := by
  intro f hf
  simp only [answer, h, if_true]
  exact List.mem_append_left _ (List.mem_append_right _ (List.mem_map_of_mem hf))

theorem sdoCob_eq {A : List Part} {a b : Dev} (h : Framed A a b) (hn : Part.regs ∉ A) (c : CanId) : sdoCob b c = sdoCob a c := by
  unfold sdoCob
  rw [h.cfg_eq hn, h.cfg_eq hn]

theorem sdoCob_bump (c : CanId) (d : Dev) : sdoCob (bump 0x2003 1 d) c = sdoCob d c := by
  have hc := c.isLt
  unfold sdoCob
  rw [cfg_bump_ne _ _ _ _ _ (by unfold odKey; omega), cfg_bump_ne _ _ _ _ _ (by decide)]

/-! ### Last steps -/

/-- The last step of a download whose write passes R35. -/
theorem sdoDownload_staged {s : State} {c : CanId} {i b : Nat} {data : List Byte} {row : EntryRow} {v : Value} (mode : SdoMode)
    (hs : Served s.dev (.sdo c)) (hsub : b < 256) (hw : checkWrite s.dev (cfg s.dev 0x2010 (1 + c.val)) i b 0 data = .ok (row, v))
    (himm : row.imm = false) (hx : stageError s.dev (sessionKey (.sdo c)) (stagedOf i b 0 data v) = none) :
    let d := sdoStep c (writeOf (.sdo c) i b 0 data) mode true 0 s.found
    StagedBy s (.sdo c) (stagedOf i b 0 data v) d ∧
      ∀ f ∈ sdoFrames mode { idx := i, sub := b, write := true, abort := 0, data := [], total := 0 },
        Out.sdo c.val (sdoCob s.dev c) f ∈ d.out := by
  intro d
  obtain ⟨ha, -, -, -, -, hon⟩ := id hs
  let r := writeOf (.sdo c) i b 0 data
  let e := sdoEnds c r mode s.found
  have hreached : Reached (.sdo c) s.found e := sdoEnds_reached c r mode s.found
  have hd : d = answerWrite (.sdo c) i b 0 (stageWrite (sessionKey (.sdo c)) (stagedOf i b 0 data v) e) := by
    refine (sdoStep_on (d := s.found) hon ha r mode true 0).trans ?_
    rw [if_neg (by decide), if_pos rfl]
    refine (submit_reached (r := r) (d := s.found) hs hreached.pathOnly).trans ((serveNow_ready (r := r) hreached.ready).trans ?_)
    refine (serveWrite_reached hreached hsub hw himm).trans ?_
    rw [hx]
  have hstage := stageWrite_reached hreached (stagedOf i b 0 data v)
  rw [hd]
  refine ⟨hreached.staged (stagedOf i b 0 data v), ?_⟩
  have hmode : (stageWrite (sessionKey (.sdo c)) (stagedOf i b 0 data v) e).dict.sdoMode[c] = mode := by
    rw [hstage]
    exact sdoEnds_mode c r mode s.found
  have hcob : sdoCob (stageWrite (sessionKey (.sdo c)) (stagedOf i b 0 data v) e) c = sdoCob s.dev c := by
    rw [hstage]
    exact (sdoCob_bump c e).trans (sdoCob_eq (sdoEnds_framed c r mode s.found) (by decide) c)
  have hsent := answer_sdo_sent c (rs := { idx := i, sub := b, write := true, abort := 0, data := [], total := 0 }) rfl
    (stageWrite (sessionKey (.sdo c)) (stagedOf i b 0 data v) e)
  rw [hmode, hcob] at hsent
  exact hsent

/-- A read does not look at the transfers. -/
theorem judgeRead_sdo (f : Vector (Option SdoXfer) 8) (g : Vector SdoMode 8) (d : Dev) (r : Req) :
    judgeRead (onDict (fun q => { q with sdo := f, sdoMode := g }) d) r = judgeRead d r := rfl

/-- The last step of an upload of an entry that may be read. -/
theorem sdoUpload_answered {s : State} {c : CanId} {i b : Nat} {bs : List Byte} {mode : SdoMode} (hm : mode ≠ .blockDown)
    (hs : Served s.dev (.sdo c)) (hj : judgeRead s.found (sdoReads c i b) = .ok bs) :
    let rs : Resp := { idx := i, sub := b, write := false, abort := 0, data := slice bs 0 (mostBytes (.sdo c)), total := bs.length }
    let d := sdoStep c (sdoReads c i b) mode true 0 s.found
    Answered d (.sdo c) rs ∧ ∀ f ∈ sdoFrames mode rs, Out.sdo c.val (sdoCob s.dev c) f ∈ d.out := by
  intro rs d
  obtain ⟨ha, -, -, -, -, hon⟩ := id hs
  let r := sdoReads c i b
  let e := onDict (fun q => { q with sdo := q.sdo.set c.val none c.isLt, sdoMode := q.sdoMode.set c.val mode c.isLt }) s.found
  have hreached : Reached (.sdo c) s.found e := sdo_reached c mode s.found
  have hframe : Framed [.fresh, .out, .time, .gw] e (readEffect i b e) := readEffect_framed i b e (by decide) (.refl _ _)
  have hd : d = answer (.sdo c) rs (readEffect i b e) := by
    refine (sdoStep_last (d := s.found) hon ha r hm).trans ?_
    refine (submit_reached (r := r) (d := s.found) hs hreached.pathOnly).trans ((serveNow_ready (r := r) hreached.ready).trans ?_)
    show serveRead r wholeValue e = _
    unfold serveRead
    rw [show judgeRead e r = .ok bs from hj]
    rfl
  have hmode : (readEffect i b e).dict.sdoMode[c] = mode := by
    have hsame : (readEffect i b e).dict.sdoMode = e.dict.sdoMode := congrArg (·.2.2.1) (hframe.same .access (by decide))
    rw [hsame]
    show (_ : Vector SdoMode 8)[c.val] = mode
    exact Vector.getElem_set_self _
  have hcob : sdoCob (readEffect i b e) c = sdoCob s.dev c := (sdoCob_eq hframe (by decide) c).trans rfl
  have hsent := answer_sdo_sent c (rs := rs) rfl (readEffect i b e)
  rw [hmode, hcob] at hsent
  rw [hd]
  exact ⟨answer_ready _ trivial, hsent⟩

/-! ### Steps that are not the last, and aborts -/

/-- A step that is not the last keeps the transfer. -/
theorem sdoStep_waits {s : State} {c : CanId} (hon : sdoOn s.dev c = true) (ha : s.dev.pow.agentReady = true) (r : Req) (mode : SdoMode) :
    let d := sdoStep c r mode false 0 s.found
    PathOnly (.sdo c) s.found d ∧
      d.dict.sdo[c] = some { idx := r.idx, sub := r.sub, deadline := s.dev.now + cfg s.dev 0x2010 0x0B * msNs } ∧
      (mode = .blockDown → s.dev.dict.sdo[c] = none →
        Out.sdo c.val (sdoCob s.dev c) (sdoHead 0xA4 r.idx r.sub (leBytes 1 127)) ∈ d.out) := by
  intro d
  have hd : d = sdoWaits c r.idx r.sub (sdoOpens c r mode s.found) := by
    refine (sdoStep_on (d := s.found) hon ha r mode false 0).trans ?_
    rw [if_neg (by decide), if_neg (by decide)]
  have hopen := sdoOpens_framed c r mode s.found
  have hnow : (sdoOpens c r mode s.found).now = s.dev.now := (congrArg Prod.fst (hopen.same .clock (by decide)) :)
  rw [hd]
  refine ⟨sdoWaits_framed (L := [.out, .access, .mail, .ints]) _ _ _ _ (by decide) (hopen.mono (by decide)), ?_, fun hm hfree => ?_⟩
  · show (_ : Vector (Option SdoXfer) 8)[c.val] = _
    refine (Vector.getElem_set_self _).trans ?_
    rw [hnow, hopen.cfg_eq (by decide)]
    rfl
  · have hfree' : (s.found.dict.sdo[c]).isNone = true := Option.isNone_iff_eq_none.mpr hfree
    show _ ∈ (sdoOpens c r mode s.found).out
    simp only [sdoOpens, hm, hfree', onlyIf, decide_true, Bool.and_self, if_true]
    exact List.mem_append_right _ (.head _)

/-- A fault aborts the transfer, and counts where it is a download's. -/
theorem sdoStep_aborts {s : State} {c : CanId} (hon : sdoOn s.dev c = true) (ha : s.dev.pow.agentReady = true) (r : Req) (mode : SdoMode)
    (finished : Bool) {code : Nat} (hcode : code ≠ 0) :
    let d := sdoStep c r mode finished code s.found
    Through (.sdo c) s (onlyIf r.isWrite (countRefusal false r.idx r.sub code)) d ∧ d.dict.sdo[c] = none ∧
      Out.sdoAbort c.val r.idx r.sub code ∈ d.out := by
  intro d
  have hd : d = sdoFailed c r code (sdoOpens c r mode s.found) :=
    (sdoStep_on (d := s.found) hon ha r mode finished code).trans (if_pos hcode)
  rw [hd]
  refine ⟨⟨sdoOpens c r mode s.found, (sdoOpens_framed c r mode s.found).mono (by decide),
    sdoAborts_framed (L := [.out, .access, .mail, .ints]) _ _ _ _ _ (by decide) (.refl _ _)⟩, ?_, ?_⟩
  · show (_ : Vector (Option SdoXfer) 8)[c.val] = none
    exact Vector.getElem_set_self _
  · exact List.mem_append_right _ (.head _)

theorem sdoFaultCode_ne {f : SdoFault} (h : f ≠ .none) : sdoFaultCode f ≠ 0 := by
  cases f <;> first | contradiction | decide

/-- Settles O21: the last step is a request, an earlier one waits, and a fault or a pause aborts. -/
theorem sdoTransfersEndInOneRequest : Obligations.SdoTransfersEndInOneRequest := by
  intro s c idx sub data pst size crc i b src sent goodSize
  have hb : b < 256 := sub.isLt
  have hgood : ∀ f : SdoFault, (f = .none → goodSize) →
      (if f = .none && !(1 ≤ size.toNat && size.toNat ≤ 127) then 0x05040002 else sdoFaultCode f) = sdoFaultCode f := fun f h =>
    if_neg (by cases f <;> simp_all [goodSize])
  have hcrcOk : ∀ (f : SdoFault) (finished : Bool), (f = .none → crc.toNat = sdoCrc data) →
      (if f = .none && finished && crc.toNat ≠ sdoCrc data then 0x05040004 else sdoFaultCode f) = sdoFaultCode f := fun f finished h =>
    if_neg (by cases f <;> simp_all)
  refine ⟨fun hs => ⟨fun row v hw himm => ?_, fun bs hj => ?_⟩, fun hon ha => ⟨?_, ?_⟩, fun x hx => ?_⟩
  · intro x hx confirmed
    refine ⟨completes_of_exec (f := sdoStep c (writeOf src i b 0 data) .normal true 0) rfl (sdoDownload_staged .normal hs hb hw himm hx),
      fun hcrc => completes_of_exec (f := sdoStep c (writeOf src i b 0 data) .blockDown true 0) ?_
        (sdoDownload_staged .blockDown hs hb hw himm hx)⟩
    exact congrArg (fun n => s.does (sdoStep c (writeOf src i b 0 data) .blockDown true n)) (hcrcOk .none true (fun _ => hcrc))
  · intro rs
    refine ⟨completes_of_exec (f := sdoStep c (sdoReads c i b) .normal true 0) rfl (sdoUpload_answered (by decide) hs hj), fun hg =>
      completes_of_exec (f := sdoStep c (sdoReads c i b) (.blockUp pst.toNat) true 0) ?_ (sdoUpload_answered nofun hs hj)⟩
    exact congrArg (fun n => s.does (sdoStep c (sdoReads c i b) (.blockUp pst.toNat) true n)) (hgood .none (fun _ => hg))
  · intro waits
    have hread : ∀ mode, waits (sdoStep c (sdoReads c i b) mode false 0 s.found) := fun mode =>
      have h := sdoStep_waits hon ha (sdoReads c i b) mode
      ⟨h.1, h.2.1⟩
    obtain ⟨hpath, hkept, -⟩ := sdoStep_waits hon ha (writeOf src i b 0 data) .normal
    obtain ⟨hpath', hkept', hsize⟩ := sdoStep_waits hon ha (writeOf src i b 0 data) .blockDown
    refine ⟨completes_of_exec (f := sdoStep c (writeOf src i b 0 data) .normal false 0) rfl ⟨hpath, hkept⟩,
      completes_of_exec (f := sdoStep c (writeOf src i b 0 data) .blockDown false 0) rfl ⟨⟨hpath', hkept'⟩, hsize rfl⟩,
      completes_of_exec (f := sdoStep c (sdoReads c i b) .normal false 0) rfl (hread _),
      fun hg => completes_of_exec (f := sdoStep c (sdoReads c i b) (.blockUp pst.toNat) false 0) ?_ (hread _)⟩
    exact congrArg (fun n => s.does (sdoStep c (sdoReads c i b) (.blockUp pst.toNat) false n)) (hgood .none (fun _ => hg))
  · intro aborted upFails downFails
    have hup : ∀ (mode : SdoMode) (finished : Bool) (code : Nat), code ≠ 0 →
        upFails code (sdoStep c (sdoReads c i b) mode finished code s.found) := fun mode finished code hcode => by
      obtain ⟨⟨a, hreached, hpath⟩, hnone, hsent⟩ := sdoStep_aborts hon ha (sdoReads c i b) mode finished hcode
      exact ⟨hreached.trans hpath, hnone, hsent⟩
    have hdown : ∀ (mode : SdoMode) (finished : Bool) (code : Nat), code ≠ 0 →
        downFails code (sdoStep c (writeOf src i b 0 data) mode finished code s.found) := fun mode finished code hcode =>
      sdoStep_aborts hon ha (writeOf src i b 0 data) mode finished hcode
    refine ⟨fun finished f hf => ?_, fun finished hsize => ?_, fun hcrc => ?_⟩
    · have hcode := sdoFaultCode_ne hf
      have hno : f = .none → False := hf
      refine ⟨completes_of_exec (f := sdoStep c (sdoReads c i b) .normal finished (sdoFaultCode f)) rfl (hup _ _ _ hcode),
        completes_of_exec (f := sdoStep c (sdoReads c i b) (.blockUp pst.toNat) finished (sdoFaultCode f)) ?_ (hup _ _ _ hcode),
        completes_of_exec (f := sdoStep c (writeOf src i b 0 data) .normal finished (sdoFaultCode f)) rfl (hdown _ _ _ hcode),
        completes_of_exec (f := sdoStep c (writeOf src i b 0 data) .blockDown finished (sdoFaultCode f)) ?_ (hdown _ _ _ hcode)⟩
      · exact congrArg (fun n => s.does (sdoStep c (sdoReads c i b) (.blockUp pst.toNat) finished n)) (hgood f (fun h => (hno h).elim))
      · exact congrArg (fun n => s.does (sdoStep c (writeOf src i b 0 data) .blockDown finished n)) (hcrcOk f finished (fun h => (hno h).elim))
    · refine completes_of_exec (f := sdoStep c (sdoReads c i b) (.blockUp pst.toNat) finished 0x05040002) ?_ (hup _ _ _ (by decide))
      refine congrArg (fun n => s.does (sdoStep c (sdoReads c i b) (.blockUp pst.toNat) finished n)) (if_pos ?_)
      have hbad : ¬ (1 ≤ size.toNat ∧ size.toNat ≤ 127) := hsize
      simp only [decide_true, Bool.true_and, Bool.not_eq_true', Bool.and_eq_false_iff, decide_eq_false_iff_not]
      omega
    · refine completes_of_exec (f := sdoStep c (writeOf src i b 0 data) .blockDown true 0x05040004) ?_ (hdown _ _ _ (by decide))
      refine congrArg (fun n => s.does (sdoStep c (writeOf src i b 0 data) .blockDown true n)) (if_pos ?_)
      simpa using hcrc
  · refine completes_of_eq (execSdoServerTimeout c s) (e := sdoAborts c x.idx x.sub 0x05040000 (arrive x.deadline s.found)) rfl rfl ?_ ?_
    · have hx' : s.found.dict.sdo[c] = some x := hx
      simp only [hx']
    · refine ⟨?_, List.mem_append_right _ (.head _), arrive_now _ _, sdoAborts_framed _ _ _ _ _ (by decide) (arrive_framed _ _ (by decide) (.refl _ _))⟩
      show (_ : Vector (Option SdoXfer) 8)[c.val] = none
      exact Vector.getElem_set_self _

end Sys2Proof.Machine
end

section
/-! PROOF. The frames of KDA sessions (R55 to R60, R542 to R545). -/

namespace Sys2Proof.Machine

/-! ### A frame that the node hears -/

/-- A frame that is heard has been counted at its port and in its second. -/
def kdaCounted (h : KdaHeader) (n : Nat) (d : Dev) : Dev :=
  let e := countGood h.peer.port (frameLen (28 + 32 + n)) d
  onDict (fun q => { q with
    kdaSecond := d.now / sNs
    kdaCount := vmod (if d.now / sNs = q.kdaSecond then q.kdaCount else Vector.replicate 20 0) h.peer.port (· + 1) }) e

/-- The registers in which a port counts a good frame. -/
def goodCounters (p : Port) : List (Nat × Nat) := [(0x2300 + p.val, 0x23), (0x2300 + p.val, 0x24)]

section counted
variable (h : KdaHeader) (n : Nat) (d : Dev)

theorem kdaCounted_framed : Framed [.access, .regs, .counters] d (kdaCounted h n d) :=
  onDict_framed _ _ ⟨.inl rfl, .inl rfl, .inl rfl, .inl rfl, .inr (by decide), .inl rfl⟩ (countGood_framed _ _ _ (by decide) (.refl _ d))

theorem kdaCounted_regs : RegsFramed (goodCounters h.peer.port) d (kdaCounted h n d) := countGood_goodCounters _ _ d

theorem kdaCounted_cfg {idx sub : Nat} (hk : odKey idx sub < odKey 0x2300 0) : cfg (kdaCounted h n d) idx sub = cfg d idx sub :=
  countGood_cfg _ _ d hk

theorem kdaCounted_now : (kdaCounted h n d).now = d.now := rfl

theorem kdaCounted_out : (kdaCounted h n d).out = d.out := rfl

theorem kdaCounted_sessions : (kdaCounted h n d).dict.sessions = d.dict.sessions := rfl

theorem kdaCounted_sec : (kdaCounted h n d).sec = d.sec := rfl

theorem kdaCounted_owner : (kdaCounted h n d).dict.owner = d.dict.owner := rfl

theorem sessionOf_kdaCounted (id : BitVec 32) : sessionOf (kdaCounted h n d) id = sessionOf d id := rfl

end counted

/-- A good frame is counted in the two registers of its port. -/
theorem countGood_counted (p : Port) {len : Nat} (hlen : 0 < len) (d : Dev) : FrameCounted d (countGood p len d) p len := by
  have hp := p.isLt
  have hdef : ∀ p : Port, odDefault (odKey (0x2300 + p.val) 0x23) = .num 0 ∧ odDefault (odKey (0x2300 + p.val) 0x24) = .num 0 := by
    decide +kernel
  obtain ⟨h23, h24⟩ := hdef p
  have hne : ∀ v, 0 < v → Value.num v ≠ .num 0 := fun v hv e => by cases e; exact absurd hv (by decide)
  constructor
  · refine (cfg_setReg_ne _ _ _ _ _ _ (by unfold odKey; omega)).trans (cfg_setReg_self _ _ _ d ?_)
    rw [h23]
    exact hne _ (by omega)
  · refine (cfg_setReg_self _ _ _ _ ?_).trans ?_
    · rw [h24]
      exact hne _ (by omega)
    · exact congrArg (fun x => min 0xFFFFFFFFFFFFFFFF (x + len)) (cfg_setReg_ne _ _ _ _ _ d (by unfold odKey; omega))

/-- What the node makes of a frame that it hears. -/
theorem kdaHeard_heard {h : KdaHeader} {n : Nat} {d : Dev} (hh : KdaHears d h n) (act : Dev → Dev) :
    kdaHeard h n act d = act (kdaCounted h n d) := by
  obtain ⟨ha, ⟨hup, hpo, hbit, hown, hrate⟩, hudp, hip, hfr, hmagic, hlen, hn, hres, hver⟩ := hh
  let p := h.peer.port
  let e := countGood p (frameLen (28 + 32 + n)) d
  have haddr : kdaAddressed h e = true := by
    have h3 : cfg e 0x2010 0x0C = cfg d 0x2010 0x0C := countGood_cfg _ _ d (by decide)
    have h5 : kdaAddresses e h.peer.port = kdaAddresses d h.peer.port := by
      unfold kdaAddresses
      rw [(countGood_regs p _ d).cfg 0x2800 2 (frameCounters_ne p 0x2800 2 (by decide) (by decide))]
      rfl
    unfold kdaAddressed
    dsimp only
    rw [h3, h5, hbit, hip, hfr, hudp, show portUp e h.peer.port = true from hup, show protocolOnly e h.peer.port = false from hpo]
    simpa using hown
  have hready : (!e.pow.agentReady || !kdaAddressed h e) = false := by
    rw [haddr, show e.pow.agentReady = true from ha]
    rfl
  have hcount : ¬ 2000 ≤ (if d.now / sNs = d.dict.kdaSecond then d.dict.kdaCount else Vector.replicate 20 0)[p] := by
    split
    · next hs => exact Nat.not_le.mpr (hrate hs.symm)
    · simp
  have hform : ¬ (h.magic ≠ 0x4B44 || h.length.toNat ≠ n || 1440 < n || h.reserved ≠ 0) = true := by simp [hmagic, hlen, hres, hn]
  unfold kdaHeard
  dsimp only
  rw [if_pos hup, if_neg (by rw [show countGood h.peer.port (frameLen (28 + 32 + n)) d = e from rfl, hready]; decide)]
  exact (if_neg hcount).trans ((if_neg hform).trans (if_neg (by simp [hver])))

/-- A frame of an open session whose tag verifies. -/
theorem kdaSession_open {h : KdaHeader} {n : Nat} {d : Dev} {x : KdaSession} (hin : InSession d h n x)
    (act : KdaSession → Dev → Dev) : kdaSession h n act d = act x (kdaCounted h n d) := by
  obtain ⟨hh, hx, hopen, htag⟩ := hin
  unfold kdaSession
  rw [kdaHeard_heard hh]
  simp only [sessionOf_kdaCounted, hx, hopen, htag, Bool.and_self, if_true]

/-- A frame without an open session, or whose tag fails. -/
theorem kdaSession_closed {h : KdaHeader} {n : Nat} {d : Dev} (hh : KdaHears d h n)
    (hno : ∀ x, sessionOf d h.session = some x → x.open_ = true → h.tagOk = false) (act : KdaSession → Dev → Dev) :
    kdaSession h n act d = bump 0x2010 0x12 (kdaCounted h n d) := by
  unfold kdaSession
  rw [kdaHeard_heard hh]
  simp only [sessionOf_kdaCounted]
  cases hx : sessionOf d h.session with
  | none => rfl
  | some x =>
    have hno' := hno x hx
    cases hopen : x.open_ <;> simp_all

/-! ### Sessions that end -/

/-- The answer to a request makes no session. -/
theorem sessionOf_answer_none {src : Src} {id : BitVec 32} {d : Dev} (rs : Resp) (h : sessionOf d id = none) :
    sessionOf (answer src rs d) id = none := by
  have hkeep : ∀ e : Dev, Framed [.out, .regs, .queues, .mail, .ints, .counters] d e → sessionOf e id = none := fun e he => by
    unfold sessionOf at h ⊢
    rw [show e.dict.sessions = d.dict.sessions from congrArg Prod.fst (he.same .access (by decide))]
    exact h
  cases src with
  | sdo c =>
    unfold answer
    dsimp only
    split <;> exact h
  | kda ses seq =>
    unfold answer
    dsimp only
    split
    · next s hs =>
      have hmap : sessionOf (onSession s.id (fun x => { x with stored := some (if rs.write then 0x13 else 0x11, respBlock rs) }) d) id = none := by
        unfold sessionOf onSession at *
        simp only [onDict, List.find?_eq_none, List.mem_map, forall_exists_index, and_imp, decide_eq_true_eq] at h ⊢
        rintro _ y hy rfl
        have := h y hy
        split <;> exact this
      unfold sessionOf at hmap ⊢
      have hsame := (sendKda_framed (L := [.out, .regs, .queues, .counters]) s.peer (some s.key) s.id s.lastSeq (if rs.write then 0x13 else 0x11)
        (respBlock rs) _ (by decide) (.refl _ (onSession s.id (fun x => { x with stored := some (if rs.write then 0x13 else 0x11, respBlock rs) }) d))).same
        .access (by decide)
      rw [show (sendStored s (if rs.write then 0x13 else 0x11) (respBlock rs) d).dict.sessions = _ from congrArg Prod.fst hsame]
      exact hmap
    · exact h
  | pcie => exact hkeep _ (answerMailbox_framed .pcie .pcie rs d (by decide) (.refl _ d))
  | serial => exact hkeep _ (answerMailbox_framed .serial .serial rs d (by decide) (.refl _ d))

theorem sessionOf_discardSet_none {id : BitVec 32} {d : Dev} (h : sessionOf d id = none) : sessionOf (discardSet d) id = none := by
  unfold discardSet
  split
  · exact h
  · have hraise : ∀ e : Dev, e.dict.sessions = d.dict.sessions → sessionOf (raise evDiscarded noInst e) id = none := fun e he => by
      unfold sessionOf at h ⊢
      rw [show (raise evDiscarded noInst e).dict.sessions = e.dict.sessions from
        congrArg Prod.fst ((raise_framed evDiscarded noInst e (fun _ h => h) (.refl _ e)).same .access (by decide)), he]
      exact h
    dsimp only
    split
    · exact sessionOf_answer_none (d := countRefusal true 0x2002 1 0x0F000006 _) _ (hraise _ rfl)
    · exact hraise _ rfl

section kept
variable {d : Dev} {id : BitVec 32}

theorem sessionOf_keepSessions : sessionOf (keepSessions (fun y => y.id ≠ id) d) id = none := by
  have hnone : sessionOf (onDict (fun q => { q with sessions := q.sessions.filter (fun y => y.id ≠ id) }) d) id = none := by
    simp [sessionOf, onDict]
  unfold keepSessions dropOrphan
  split
  · split
    · exact hnone
    · exact sessionOf_discardSet_none hnone
  · exact hnone

theorem discardSet_staged (e : Dev) : (discardSet e).dict.staged = [] := by
  unfold discardSet
  split
  · next h => exact List.isEmpty_iff.mp h
  · have hraise : ∀ x : Dev, (raise evDiscarded noInst x).dict.staged = x.dict.staged := fun x =>
      (raise_framed evDiscarded noInst x (fun _ h => h) (.refl _ x)).staged (by decide)
    dsimp only
    split
    · refine (PathOnly.framed (answer_pathOnly _ _ _)).staged (by decide) |>.trans ?_
      exact hraise _
    · exact hraise _

/-- The staging set of a session that ends is discarded. -/
theorem keepSessions_discards (h : d.dict.owner = some (.kda id)) : (keepSessions (fun y => y.id ≠ id) d).dict.staged = [] := by
  have hnone : (sessionOf (onDict (fun q => { q with sessions := q.sessions.filter (fun y => y.id ≠ id) }) d) id).isSome = false := by
    simp [sessionOf, onDict]
  unfold keepSessions dropOrphan
  simp only [show (onDict (fun q => { q with sessions := q.sessions.filter (fun y => y.id ≠ id) }) d).dict.owner = some (.kda id) from h,
    hnone, Bool.false_eq_true, if_false]
  exact discardSet_staged _

/-- That of another session is not. -/
theorem keepSessions_others (h : ∀ id', d.dict.owner = some (.kda id') → id' ≠ id ∧ (sessionOf d id').isSome = true) :
    keepSessions (fun y => y.id ≠ id) d = onDict (fun q => { q with sessions := q.sessions.filter (fun y => y.id ≠ id) }) d := by
  unfold keepSessions dropOrphan
  split
  · next id' ho =>
    obtain ⟨hne, hsome⟩ := h id' ho
    refine if_pos ?_
    obtain ⟨x, hx⟩ := Option.isSome_iff_exists.mp hsome
    have hid := sessionOf_id hx
    rw [sessionOf, List.find?_isSome]
    exact ⟨x, by simpa [onDict, hid] using ⟨List.mem_of_find?_eq_some hx, hne⟩, by simp [hid]⟩
  · rfl

end kept

/-! ### Frames in and out of sequence -/

/-- A frame that a session drops counts in 0x2010:12 alone. -/
theorem bump_kdaCounted (h : KdaHeader) (n : Nat) (s : State) :
    let d := bump 0x2010 0x12 (kdaCounted h n s.found)
    Framed [.access, .regs, .counters] s.found d ∧ d.out = [] ∧ RegsFramed ((0x2010, 0x12) :: goodCounters h.peer.port) s.found d ∧
      cfg d 0x2010 0x12 = min 0xFFFFFFFF (cfg s.dev 0x2010 0x12 + 1) := by
  refine ⟨bump_framed _ _ _ (by decide) (kdaCounted_framed h n s.found), rfl,
    ((kdaCounted_regs h n s.found).mono fun _ => List.mem_cons_of_mem _).bump _ _ (.head _), ?_⟩
  refine (cfg_bump_self 0x2010 0x12 _ (by decide)).trans ?_
  rw [kdaCounted_cfg h n s.found (by decide)]
  rfl

/-- The frame binds the session to its peer and puts off its end. -/
theorem kdaValid_session {h : KdaHeader} {n : Nat} {s : State} {x : KdaSession} (hx : sessionOf s.dev h.session = some x) :
    sessionOf (kdaValid h (kdaCounted h n s.found)) h.session =
      some { x with peer := h.peer, deadline := s.dev.now + cfg s.dev 0x2010 0x0E * sNs } := by
  have hend : idleEnd (kdaCounted h n s.found) = s.dev.now + cfg s.dev 0x2010 0x0E * sNs := by
    unfold idleEnd
    rw [kdaCounted_cfg h n s.found (by decide)]
    rfl
  refine (sessionOf_onSession (fun y => { y with peer := h.peer, deadline := idleEnd (kdaCounted h n s.found) }) (fun _ => rfl)
    (show sessionOf (kdaCounted h n s.found) h.session = some x from hx)).trans ?_
  rw [hend]

theorem kdaBound_framed {h : KdaHeader} {n : Nat} {d : Dev} : Framed [.access, .regs, .counters] d (kdaValid h (kdaCounted h n d)) :=
  onSession_framed _ _ _ (by decide) (kdaCounted_framed h n d)

theorem seq_ne_succ {a b : BitVec 32} (h : a = b + 1) : a ≠ b := by
  rw [h]
  intro hc
  bv_omega

/-- A frame without an open session, or whose tag fails, is dropped. -/
theorem kdaSession_closed_drops {s : State} {h : KdaHeader} {n : Nat} (hh : KdaHears s.dev h n)
    (hno : ∀ x, sessionOf s.dev h.session = some x → x.open_ = true → h.tagOk = false) (act : KdaSession → Dev → Dev) :
    let d := kdaSession h n act s.found
    Framed [.access, .regs, .counters] s.found d ∧ d.out = [] ∧ RegsFramed ((0x2010, 0x12) :: goodCounters h.peer.port) s.found d ∧
      cfg d 0x2010 0x12 = min 0xFFFFFFFF (cfg s.dev 0x2010 0x12 + 1) := by
  rw [kdaSession_closed (d := s.found) hh hno]
  exact bump_kdaCounted h n s

section sequence
variable {s : State} {h : KdaHeader} {n : Nat} {x : KdaSession} (hin : InSession s.dev h n x) (serve : Dev → Dev)
include hin

/-- A repeat of the last sequence number gets the stored response again. -/
theorem kdaRequest_repeat {op : Nat} {stored : List Byte} (hseq : h.seq = x.lastSeq) (hst : x.stored = some (op, stored)) :
    let d := kdaRequest h n serve s.found
    PathOnly (.kda h.session h.seq) s.found d ∧ ∃ tag, Out.kda h.peer h.session h.seq op stored tag ∈ d.out := by
  intro d
  have hx : x.id = h.session := sessionOf_id hin.2.1
  have hd : d = sendKda h.peer (some x.key) h.session h.seq op stored (kdaValid h (kdaCounted h n s.found)) := by
    refine (kdaSession_open (d := s.found) hin (inSequence h serve)).trans ?_
    unfold inSequence
    rw [if_pos hseq, hst, ← hx, ← hseq]
  rw [hd]
  refine ⟨⟨sendKda_framed _ _ _ _ _ _ _ (by decide) (kdaBound_framed.mono (by decide)), ?_⟩, sendKda_mem _ _ _ _ _ _ _⟩
  have hreg : RegsFramed (frameCounters h.peer.port) s.found (kdaCounted h n s.found) :=
    (kdaCounted_regs h n s.found).mono fun r hr => by
      simp only [goodCounters, List.mem_cons, List.not_mem_nil, or_false] at hr
      rcases hr with rfl | rfl <;> simp [frameCounters]
  have hvalid : RegsFramed (frameCounters h.peer.port) (kdaCounted h n s.found) (kdaValid h (kdaCounted h n s.found)) := .of_same rfl
  exact ((hreg.trans hvalid).trans (sendKda_regs _ _ _ _ _ _ _)).mono (frameCounters_all _)

/-- Any other sequence number but the next is dropped and counted. -/
theorem kdaRequest_dropped (hne : h.seq ≠ x.lastSeq) (hne' : h.seq ≠ x.lastSeq + 1) :
    kdaRequest h n serve s.found = bump 0x2010 0x12 (kdaCounted h n s.found) := by
  refine (kdaSession_open (d := s.found) hin (inSequence h serve)).trans ?_
  unfold inSequence
  rw [if_neg hne, if_neg (by rw [decide_eq_false hne', Bool.false_and]; decide)]

end sequence

/-- The next frame of a session reaches the agent. -/
theorem kdaRequest_reached {s : State} {h : KdaHeader} {n : Nat} {x : KdaSession} (hin : InSession s.dev h n x)
    (hst : x.stored.isSome = true) (hseq : h.seq = x.lastSeq + 1) :
    ∃ e, (∀ f, kdaRequest h n f s.found = f e) ∧ Reached (.kda h.session h.seq) s.found e ∧ roleOf e (.kda h.session h.seq) = x.role ∧
      ∃ y, sessionOf e h.session = some y ∧ y.peer = h.peer ∧ y.id = h.session ∧ y.lastSeq = h.seq := by
  obtain ⟨e, hserve, hpath, hses⟩ := kdaRequest_next (d := s.found) hin hst hseq
  have hid := sessionOf_id hin.2.1
  have hrole : roleOf e (.kda h.session h.seq) = x.role := by simp only [roleOf, hses, Option.map_some, Option.getD_some]
  have hrole' : roleOf s.found (.kda h.session h.seq) = x.role := by
    simp only [roleOf, show sessionOf s.found h.session = some x from hin.2.1, Option.map_some, Option.getD_some]
  exact ⟨e, hserve, ⟨hpath, ⟨_, hses, hid, rfl⟩, hrole.trans hrole'.symm⟩, hrole, _, hses, rfl, hid, rfl⟩

/-- What the node makes of a READ that is next in sequence. -/
theorem kdaRead_reached {s : State} {h : KdaHeader} {payload : List Byte} {x : KdaSession} (hin : InSession s.dev h payload.length x)
    (hst : x.stored.isSome = true) (hseq : h.seq = x.lastSeq + 1) {idx sub off len : Nat} (hb : requestBlock payload = (idx, sub, off, len)) :
    (payload.length < 12 → Completes (.kdaRead h payload) s fun d =>
      PathOnly (.kda h.session h.seq) s.found d ∧ ReadRefused d (.kda h.session h.seq) idx sub 0x06070010) ∧
    (s.dev.pow.booted = true → s.dev.dict.commit = none → s.dev.dict.queue = [] → s.dev.dict.fence = none → 12 ≤ payload.length →
      ∀ bs : List Byte, judgeRead (kdaRequest h payload.length id s.found)
          ⟨.kda h.session h.seq, idx, sub, off, .read (min len 1400), none⟩ = .ok bs →
        Completes (.kdaRead h payload) s fun d => Answered d (.kda h.session h.seq)
          { idx := idx, sub := sub, write := false, abort := 0, data := slice bs off (min len 1400), total := bs.length }) := by
  obtain ⟨e, hserve, hreached, -, -⟩ := kdaRequest_reached hin hst hseq
  have hread : kdaReads h payload e = if payload.length < 12 then
      answer (.kda h.session h.seq) ⟨idx, sub, false, 0x06070010, [], 0⟩ e
      else submit ⟨.kda h.session h.seq, idx, sub, off, .read (min len 1400), none⟩ e := by
    simp only [kdaReads, hb]
    rfl
  constructor
  · intro hlt
    refine completes_of_exec (exec_kdaRead_eq h payload s) ?_
    rw [hserve, hread, if_pos hlt]
    exact ⟨hreached.pathOnly.trans (answer_pathOnly _ _ _), answer_ready _ hreached.ready⟩
  · intro hboot hcommit hqueue hfence hle bs hj
    obtain ⟨⟨hready, -⟩, -⟩ := id hin
    have hpow : e.pow = s.dev.pow := hreached.pathOnly.same .pow (by decide)
    have hcom := hreached.pathOnly.same .commit (by decide)
    simp only [Part.same, Prod.mk.injEq] at hcom
    obtain ⟨-, hec, hef, -, heq, -⟩ := hcom
    refine completes_of_exec (exec_kdaRead_eq h payload s) ?_
    rw [hserve, hread, if_neg (by omega), submit_served (hpow ▸ hready) (hpow ▸ hboot) (hec.trans hcommit) (heq.trans hqueue)
      (hef.trans hfence), serveNow_ready (r := ⟨.kda h.session h.seq, idx, sub, off, .read (min len 1400), none⟩) hreached.ready]
    rw [hserve] at hj
    show Answered (serveRead _ _ e) _ _
    unfold serveRead
    rw [show judgeRead e ⟨.kda h.session h.seq, idx, sub, off, .read (min len 1400), none⟩ = .ok bs from hj]
    exact answer_ready _ (hreached.ready.framed (readEffect_framed (L := [.fresh, .out, .time, .gw]) idx sub e (by decide) (.refl _ e))
      (by decide) (by decide))

/-- What the node makes of a WRITE that is next in sequence. -/
theorem kdaWrite_reached {s : State} {h : KdaHeader} {payload : List Byte} {x : KdaSession} (hin : InSession s.dev h payload.length x)
    (hst : x.stored.isSome = true) (hseq : h.seq = x.lastSeq + 1) {idx sub off len : Nat} (hb : requestBlock payload = (idx, sub, off, len)) :
    ((payload.length < 12 ∨ payload.length ≠ 12 + len ∨ 1400 < len) →
      Completes (.kdaWrite h payload) s (RefusedWith s (.kda h.session h.seq) idx sub 0x06070010)) ∧
    (s.dev.pow.booted = true → s.dev.dict.commit = none → s.dev.dict.queue = [] → s.dev.dict.fence = none → 12 ≤ payload.length →
      ∀ (row : EntryRow) (v : Value), payload.length = 12 + len → len ≤ 1400 → sub < 256 →
        checkWrite s.dev x.role idx sub off (payload.drop 12) = .ok (row, v) → row.imm = false →
        stageError s.dev (.kda h.session) (stagedOf idx sub off (payload.drop 12) v) = none →
        Completes (.kdaWrite h payload) s (StagedBy s (.kda h.session h.seq) (stagedOf idx sub off (payload.drop 12) v))) := by
  obtain ⟨e, hserve, hreached, hrole, -⟩ := kdaRequest_reached hin hst hseq
  let serve : Dev → Dev := fun d =>
    let (idx, sub, off, len) := requestBlock payload
    if payload.length < 12 || payload.length ≠ 12 + len || 1400 < len then refuseWrite (.kda h.session h.seq) idx sub 0x06070010 d
    else submit { src := .kda h.session h.seq, idx := idx, sub := sub, off := off, op := .write (payload.drop 12), phy := none } d
  have hexec : exec (.kdaWrite h payload) s = s.does (kdaRequest h payload.length serve) := rfl
  have hwrite : serve e = if payload.length < 12 || payload.length ≠ 12 + len || 1400 < len then
      refuseWrite (.kda h.session h.seq) idx sub 0x06070010 e
      else submit (writeOf (.kda h.session h.seq) idx sub off (payload.drop 12)) e := by
    simp only [serve, hb]
    rfl
  constructor
  · intro hbad
    refine completes_of_exec hexec ?_
    rw [hserve, hwrite, if_pos (by simpa only [Bool.or_eq_true, decide_eq_true_eq, or_assoc] using hbad)]
    exact hreached.refused _ _ _
  · intro hboot hcommit hqueue hfence hle row v hlen hmost hsub hw himm hx
    obtain ⟨⟨hready, -⟩, -⟩ := id hin
    have hpow : e.pow = s.dev.pow := hreached.pathOnly.same .pow (by decide)
    have hcom := hreached.pathOnly.same .commit (by decide)
    simp only [Part.same, Prod.mk.injEq] at hcom
    obtain ⟨-, hec, hef, -, heq, -⟩ := hcom
    have hrole' : roleOf s.dev (.kda h.session h.seq) = x.role := hreached.role.symm.trans hrole
    refine completes_of_exec hexec ?_
    rw [hserve, hwrite, if_neg (by simp only [Bool.or_eq_true, decide_eq_true_eq]; omega),
      submit_served (hpow ▸ hready) (hpow ▸ hboot) (hec.trans hcommit) (heq.trans hqueue) (hef.trans hfence),
      serveNow_ready (r := writeOf (.kda h.session h.seq) idx sub off (payload.drop 12)) hreached.ready]
    show StagedBy _ _ _ (serveWrite (writeOf (.kda h.session h.seq) idx sub off (payload.drop 12)) (payload.drop 12) e)
    rw [serveWrite_reached hreached hsub (hrole'.symm ▸ hw) himm, show stageError s.dev (sessionKey (.kda h.session h.seq)) _ = none from hx]
    exact hreached.staged (stagedOf idx sub off (payload.drop 12) v)

theorem beNat_byte (b : Byte) : beNat [b] < 256 := by
  have := b.isLt
  show b.toNat + 256 * 0 < 256
  omega

theorem requestBlock_sub {bs : List Byte} {idx sub off len : Nat} (h : requestBlock bs = (idx, sub, off, len)) : sub < 256 := by
  have hsub : beNat (slice bs 2 1) = sub := congrArg (·.2.1) h
  rw [← hsub]
  cases hs : slice bs 2 1 with
  | nil => decide
  | cons b l =>
    have hl : (slice bs 2 1).length ≤ 1 := by simp [slice]
    rw [hs] at hl
    obtain rfl : l = [] := List.eq_nil_of_length_eq_zero (by simpa using hl)
    exact beNat_byte b

/-- Settles O22: a frame of a session is next in sequence, a repeat, or dropped. -/
theorem anOpenSessionServesTheNextInSequence : Obligations.AnOpenSessionServesTheNextInSequence := by
  intro s h payload opcode src
  generalize hb : requestBlock payload = block
  obtain ⟨idx, sub, off, len⟩ := block
  dsimp only
  have hdropped := fun m => bump_kdaCounted h m s
  have hinvalid : exec (.kdaOpcodeInvalid h opcode) s = s.does (kdaRequest h h.length.toNat fun d => match sessionOf d h.session with
    | some x => sendStored x 0x1F (beBytes 4 0x05040001) d
    | none => d) := rfl
  refine ⟨fun x hin => ⟨?_, ?_⟩, fun x hin => ⟨fun op stored hseq hst => ?_, fun hseq hst => ?_, fun hne hne' => ?_⟩,
    fun x hin => ⟨fun op stored hseq hst => ⟨?_, ?_⟩, fun hne hne' => ⟨?_, ?_⟩, fun hseq hst => ⟨fun hlt => ?_, fun hbad => ?_,
      fun hboot hcommit hqueue hfence hle => ⟨fun bs hj => ?_, fun row v hlen hmost hw himm => ?_⟩⟩⟩,
    fun hno => ⟨fun hh => ⟨?_, ?_⟩, fun hh => ⟨?_, ?_⟩, fun hh => ?_⟩⟩
  · refine completes_of_exec (f := kdaSession h 0 fun _ d => kdaValid h d) rfl ?_
    rw [kdaSession_open (d := s.found) hin]
    obtain ⟨h23, h24⟩ := countGood_counted h.peer.port (len := frameLen 60) (by decide) s.found
    exact ⟨kdaBound_framed, (kdaCounted_regs h 0 s.found).trans (.of_same rfl), ⟨h23, h24⟩, kdaValid_session hin.2.1⟩
  · refine completes_of_exec (f := kdaSession h 0 fun _ d => keepSessions (fun y => y.id ≠ h.session) d) rfl ?_
    rw [kdaSession_open (d := s.found) hin]
    refine ⟨sessionOf_keepSessions, fun ho => keepSessions_discards ho, fun hothers => ?_⟩
    rw [keepSessions_others (d := kdaCounted h 0 s.found) hothers]
    exact ⟨onDict_framed _ _ ⟨.inl rfl, .inl rfl, .inl rfl, .inl rfl, .inr (by decide), .inl rfl⟩ (kdaCounted_framed h 0 s.found),
      (kdaCounted_regs h 0 s.found).trans (.of_same rfl)⟩
  · exact completes_of_exec hinvalid (kdaRequest_repeat hin _ hseq hst)
  · obtain ⟨e, hserve, hreached, -, y, hy, hpeer, hid, hlast⟩ := kdaRequest_reached hin hst hseq
    refine completes_of_exec hinvalid ?_
    rw [hserve]
    simp only [hy]
    have hsent := sendKda_mem y.peer (some y.key) y.id y.lastSeq 0x1F (beBytes 4 0x05040001)
      (onSession y.id (fun z => { z with stored := some (0x1F, beBytes 4 0x05040001) }) e)
    rw [hpeer, hid, hlast] at hsent
    have hreg : RegsFramed (frameCounters y.peer.port) e (sendStored y 0x1F (beBytes 4 0x05040001) e) :=
      RegsFramed.trans (.of_same rfl) (sendKda_regs _ _ _ _ _ _ (onSession y.id _ e))
    refine ⟨hreached.pathOnly.trans ⟨sendStored_framed _ _ _ _ (by decide) (.refl _ _), hreg.mono (frameCounters_all _)⟩, ?_⟩
    unfold sendStored
    rw [hpeer, hid, hlast]
    exact hsent
  · exact completes_of_exec hinvalid (kdaRequest_dropped hin _ hne hne' ▸ hdropped _)
  · exact completes_of_exec (exec_kdaRead_eq h payload s) (kdaRequest_repeat hin _ hseq hst)
  · exact completes_of_exec (f := kdaRequest h payload.length _) rfl (kdaRequest_repeat hin _ hseq hst)
  · exact completes_of_exec (exec_kdaRead_eq h payload s) (kdaRequest_dropped hin _ hne hne' ▸ hdropped _)
  · exact completes_of_exec (f := kdaRequest h payload.length _) rfl (kdaRequest_dropped hin _ hne hne' ▸ hdropped _)
  · exact (kdaRead_reached hin hst hseq hb).1 hlt
  · exact (kdaWrite_reached hin hst hseq hb).1 hbad
  · exact (kdaRead_reached hin hst hseq hb).2 hboot hcommit hqueue hfence hle bs hj
  · intro hx
    have hdata : (payload.drop 12).length = len := by rw [List.length_drop]; omega
    have hwrite := (kdaWrite_reached hin hst hseq hb).2 hboot hcommit hqueue hfence hle row v hlen hmost (requestBlock_sub hb) hw himm
    rw [stagedOf, hdata] at hwrite
    exact hwrite hx
  · exact completes_of_exec (exec_kdaRead_eq h payload s) (kdaSession_closed_drops hh hno _)
  · exact completes_of_exec (f := kdaRequest h payload.length _) rfl (kdaSession_closed_drops hh hno _)
  · exact completes_of_exec (f := kdaSession h 0 _) rfl (kdaSession_closed_drops hh hno _)
  · exact completes_of_exec (f := kdaSession h 0 _) rfl (kdaSession_closed_drops hh hno _)
  · exact completes_of_exec hinvalid (kdaSession_closed_drops hh hno _)

end Sys2Proof.Machine
end

section
/-! PROOF. Sessions that open and end (R542 to R545). -/

namespace Sys2Proof.Machine

/-! ### Registers while a set is discarded -/

/-- The registers that the end of a staging set may count in. -/
def discardCounters : List (Nat × Nat) := eventCounters ++ [(0x2003, 9), (0x2003, 6), (0x2003, 7)] ++ allPorts.flatMap frameCounters

theorem mem_discardCounters_event {r : Nat × Nat} (h : r ∈ eventCounters) : r ∈ discardCounters :=
  List.mem_append_left _ (List.mem_append_left _ h)

theorem mem_discardCounters_frame {r : Nat × Nat} (h : r ∈ allPorts.flatMap frameCounters) : r ∈ discardCounters :=
  List.mem_append_right _ h

theorem raise_regs (ev : Ev) (inst : Nat) (d : Dev) : RegsFramed eventCounters d (raise ev inst d) := (raise_recordsOnly ev inst d).1

/-- A change of the agent that leaves the registers alone. -/
theorem RegsFramed.onDict {L : List (Nat × Nat)} {base d : Dev} (f : DictS → DictS) (hf : ∀ q, (f q).od = q.od)
    (h : RegsFramed L base d) : RegsFramed L base (Machine.onDict f d) := h.trans (.of_same (hf _))

theorem discardSet_regs (d : Dev) : RegsFramed discardCounters d (discardSet d) := by
  have hraise : ∀ e : Dev, e.dict.od = d.dict.od → RegsFramed discardCounters d (raise evDiscarded noInst e) := fun e he =>
    (RegsFramed.of_same he).trans ((raise_regs _ _ e).mono fun _ => mem_discardCounters_event)
  have hmem : ∀ b, b = 9 ∨ b = 6 ∨ b = 7 → (0x2003, b) ∈ discardCounters := fun b hb =>
    List.mem_append_left _ (List.mem_append_right _ (by rcases hb with rfl | rfl | rfl <;> decide))
  unfold discardSet
  split
  · exact .refl _ _
  · dsimp only
    split
    · refine RegsFramed.trans ?_ ((answer_pathOnly _ _ _).regs.mono fun _ => mem_discardCounters_frame)
      refine RegsFramed.setReg _ _ _ (hmem 7 (by decide)) (RegsFramed.setReg _ _ _ (hmem 6 (by decide))
        (RegsFramed.bump _ _ (hmem 9 (by decide)) ?_))
      exact RegsFramed.onDict _ (fun _ => rfl) (hraise _ rfl)
    · exact hraise _ rfl

theorem keepSessions_regs (keep : KdaSession → Bool) (d : Dev) : RegsFramed discardCounters d (keepSessions keep d) := by
  have hkept : RegsFramed discardCounters d (onDict (fun q => { q with sessions := q.sessions.filter keep }) d) := .of_same rfl
  unfold keepSessions dropOrphan
  split
  · split
    · exact hkept
    · exact hkept.trans (discardSet_regs _)
  · exact hkept

/-- No register of the security chapter is among them. -/
theorem discardCounters_sec {b : Nat} (hb : b < 256) : ∀ r ∈ discardCounters, odKey r.1 r.2 ≠ odKey 0x2F05 b := by
  intro r hr
  simp only [discardCounters, List.append_assoc, List.mem_append] at hr
  rcases hr with hr | hr | hr
  · have : ∀ r ∈ eventCounters, odKey r.1 r.2 < odKey 0x2F05 0 := by decide
    have := this r hr
    unfold odKey at this ⊢
    omega
  · have : ∀ r ∈ [(0x2003, 9), (0x2003, 6), (0x2003, 7)], odKey r.1 r.2 < odKey 0x2F05 0 := by decide
    have := this r hr
    unfold odKey at this ⊢
    omega
  · exact PathFree.ne (by unfold PathFree; omega) r hr

/-! ### OPEN -/

/-- A frame without a key goes out with a tag of zeros. -/
theorem sendKda_none_mem (peer : KdaPeer) (session seq : BitVec 32) (opcode : Nat) (payload : List Byte) (d : Dev) :
    Out.kda peer session seq opcode payload (List.replicate 16 0) ∈ (sendKda peer none session seq opcode payload d).out := by
  unfold sendKda
  dsimp only
  split
  · rw [sendOwn_out]
    exact List.mem_append_right _ (.head _)
  · exact List.mem_append_right _ (.head _)

theorem kdaError_mem (peer : KdaPeer) (session : BitVec 32) (code : Nat) (d : Dev) :
    Out.kda peer session 0 0x1F (beBytes 4 code) (List.replicate 16 0) ∈ (kdaError peer session code d).out := sendKda_none_mem _ _ _ _ _ _

/-- An ERROR makes and ends no session. -/
theorem sessions_kdaError (peer : KdaPeer) (session : BitVec 32) (code : Nat) (d : Dev) :
    (kdaError peer session code d).dict.sessions = d.dict.sessions :=
  congrArg Prod.fst ((kdaError_framed (L := [.out, .regs, .queues, .counters]) peer session code d (by decide) (.refl _ d)).same
    .access (by decide))

/-- What the node makes of an OPEN that it hears. -/
theorem kdaOpen_heard {s : State} {h : KdaHeader} {payload : List Byte} (hh : KdaHears s.dev h payload.length) {P : Dev → Prop}
    (hP : P (let d := kdaCounted h payload.length s.found
      if h.session ≠ 0 || h.seq ≠ 0 || payload.length ≠ 84 then bump 0x2010 0x12 d
      else if !d.sec.randomOk || d.sec.proofLockEnd.isSome then kdaError h.peer 0 0x0F00000A d
      else if cfg d 0x2010 0x0D ≤ d.dict.sessions.length then kdaError h.peer 0 0x0F00000B d
      else challenge h payload d)) : Completes (.kdaOpen h payload) s P :=
  completes_of_eq (execKdaOpen h payload s) rfl rfl (kdaHeard_heard (d := s.found) hh _) hP

/-- The identifier of the session that an OPEN adds. -/
def challengeId (d : Dev) : Nat := freeSession d.dict.sessions d.dict.sessions.length (Config.freeNat d.fresh)

/-- Bytes 0 to 79 of the CHALLENGE. -/
def challengeHead (d : Dev) : List Byte := randomField 16 d ++ (Config.ephemeralKey d.fresh ++ List.replicate 64 0).take 64

/-- The half-open session that an OPEN adds. -/
def challengeSession (h : KdaHeader) (payload : List Byte) (d : Dev) : KdaSession :=
  { id := BitVec.ofNat 32 (challengeId d), open_ := false, role := 0, peer := h.peer
    key := Config.deriveKey (Config.ecdhShared d.fresh (slice payload 20 64)) (slice payload 4 16 ++ randomField 16 d) (keyInfo (challengeId d))
    transcript := payload ++ challengeHead d ++ beBytes 4 (challengeId d), lastSeq := 0, stored := none, deadline := d.now + sNs }

theorem challenge_eq (h : KdaHeader) (payload : List Byte) (d : Dev) : challenge h payload d =
    sendKda h.peer none (challengeSession h payload d).id 0 2 (challengeHead d ++
      (Config.ecdsaSign (leBytes 1 0x44 ++ (challengeSession h payload d).transcript) ++ List.replicate 64 0).take 64)
      (draw (onDict (fun q => { q with sessions := q.sessions ++ [challengeSession h payload d] }) d)) := rfl

/-- The CHALLENGE goes to the one session that an OPEN adds. -/
theorem challenge_opens (h : KdaHeader) (payload : List Byte) (d : Dev) : ∃ x : KdaSession, ∃ sent : List Byte,
    (challenge h payload d).dict.sessions = d.dict.sessions ++ [x] ∧ x.open_ = false ∧ x.peer = h.peer ∧ x.deadline = d.now + sNs ∧
      Out.kda h.peer x.id 0 2 sent (List.replicate 16 0) ∈ (challenge h payload d).out := by
  rw [challenge_eq]
  exact ⟨challengeSession h payload d, _, congrArg Prod.fst ((sendKda_framed (L := [.out, .regs, .queues, .counters]) h.peer none _ 0 2 _ _
    (by decide) (.refl _ _)).same .access (by decide)), rfl, rfl, rfl, sendKda_none_mem _ _ _ _ _ _⟩

/-! ### PROOF -/

theorem slotKey_kdaCounted (h : KdaHeader) (n : Nat) (d : Dev) (slot : Nat) : slotKey (kdaCounted h n d) slot = slotKey d slot := by
  have hreg : 3 ≤ slot ∧ slot ≤ 10 → ∀ b, b < 256 → (kdaCounted h n d).dict.reg (0x2F10 + (slot - 3)) b = d.dict.reg (0x2F10 + (slot - 3)) b := by
    intro hs b hb
    refine (kdaCounted_regs h n d _).resolve_left fun ⟨r, hr, e⟩ => ?_
    have hp := h.peer.port.isLt
    simp only [goodCounters, List.mem_cons, List.not_mem_nil, or_false] at hr
    rcases hr with rfl | rfl <;> (unfold odKey at e; simp only at e; omega)
  unfold slotKey
  rw [kdaCounted_sec]
  by_cases hs : 3 ≤ slot ∧ slot ≤ 10
  · unfold cfgB cfg cfgBytes
    rw [hreg hs 3 (by decide), hreg hs 1 (by decide)]
  · have hs' : (decide (3 ≤ slot) && decide (slot ≤ 10)) = false := by simpa [Bool.and_eq_false_iff] using hs
    simp only [hs', Bool.false_and, Bool.false_eq_true, if_false]

theorem slotRole_kdaCounted (h : KdaHeader) (n : Nat) (d : Dev) {slot : Nat} {key : List Byte} (hk : slotKey d slot = some key)
    (requested : Nat) : slotRole (kdaCounted h n d) slot requested = slotRole d slot requested := by
  unfold slotRole
  by_cases h1 : slot = 1
  · rw [if_pos h1, if_pos h1]
  · have hs : 3 ≤ slot ∧ slot ≤ 10 := by
      unfold slotKey at hk
      rw [if_neg h1] at hk
      split at hk
      · cases hk
      · split at hk
        · next hc => simp only [Bool.and_eq_true, decide_eq_true_eq] at hc; exact hc.1.1
        · cases hk
    rw [if_neg h1, if_neg h1]
    have hcfg : cfg (kdaCounted h n d) (0x2F10 + (slot - 3)) 2 = cfg d (0x2F10 + (slot - 3)) 2 := by
      refine (kdaCounted_regs h n d).cfg _ _ fun r hr e => ?_
      have hp := h.peer.port.isLt
      simp only [goodCounters, List.mem_cons, List.not_mem_nil, or_false] at hr
      rcases hr with rfl | rfl <;> (unfold odKey at e; simp only at e; omega)
    rw [hcfg]

/-- What the node makes of a PROOF of a half-open session that it hears. -/
theorem proof_heard {s : State} {h : KdaHeader} {payload : List Byte} {x : KdaSession} (hh : KdaHears s.dev h payload.length)
    (hx : sessionOf s.dev h.session = some x) (hopen : x.open_ = false) (htag : h.tagOk = true) (hseq : h.seq = 0) {P : Dev → Prop}
    (hP : P (judgeProof h payload x (kdaCounted h payload.length s.found))) : Completes (.proof h payload) s P := by
  refine completes_of_eq (execProof h payload s) rfl rfl ?_ hP
  have hx' : sessionOf s.found h.session = some x := hx
  simp only [hx', hopen, Bool.false_eq_true, if_false]
  rw [kdaHeard_heard (d := s.found) hh]
  simp only [htag, hseq, decide_true, Bool.and_self, if_true]

/-- A session that is taken away with ERROR. -/
theorem kdaError_keepSessions (h : KdaHeader) (d : Dev) :
    let e := kdaError h.peer h.session 0x0F00000A (keepSessions (fun y => y.id ≠ h.session) d)
    sessionOf e h.session = none ∧ Out.kda h.peer h.session 0 0x1F (beBytes 4 0x0F00000A) (List.replicate 16 0) ∈ e.out ∧
      (∀ b, b < 256 → cfg e 0x2F05 b = cfg d 0x2F05 b) ∧
      ((∀ id', d.dict.owner = some (.kda id') → id' ≠ h.session ∧ (sessionOf d id').isSome = true) →
        Framed (.access :: .queues :: eventParts) d e) := by
  intro e
  refine ⟨?_, kdaError_mem _ _ _ _, fun b hb => ?_, fun ho => ?_⟩
  · unfold sessionOf
    rw [sessions_kdaError]
    exact sessionOf_keepSessions
  · have herr : RegsFramed discardCounters (keepSessions (fun y => y.id ≠ h.session) d) e :=
      (sendKda_regs _ _ _ _ _ _ _).mono fun r hr => mem_discardCounters_frame (frameCounters_all _ r hr)
    exact ((keepSessions_regs _ d).trans herr).cfg _ _ (discardCounters_sec hb)
  · have hkept : Framed (.access :: .queues :: eventParts) d (keepSessions (fun y => y.id ≠ h.session) d) := by
      rw [keepSessions_others ho]
      exact onDict_framed _ _ ⟨.inl rfl, .inl rfl, .inl rfl, .inl rfl, .inr (by decide), .inl rfl⟩ (.refl _ _)
    exact kdaError_framed _ _ _ _ (by decide) hkept

/-- A proof that fails counts once, and otherwise only the recorder and the lockout hear of it. -/
theorem proofFailed_counts (d : Dev) : cfg (proofFailed d) 0x2F05 2 = min 0xFFFFFFFF (cfg d 0x2F05 2 + 1) := by
  have hraise : ∀ e, cfg (raise evLockout noInst e) 0x2F05 2 = cfg e 0x2F05 2 := fun e => (raise_regs _ _ e).cfg _ _ (by decide)
  unfold proofFailed
  dsimp only
  split
  · exact (hraise _).trans (cfg_bump_self 0x2F05 2 _ (by decide))
  · exact cfg_bump_self 0x2F05 2 _ (by decide)

/-- A session that is accepted. -/
theorem acceptSession_opens {h : KdaHeader} {d : Dev} {x : KdaSession} (hx : sessionOf d h.session = some x) (role : Nat) :
    let e := acceptSession h x role d
    (∃ y : KdaSession, sessionOf e h.session = some y ∧ y.open_ = true ∧ y.role = role ∧ y.peer = h.peer ∧ y.deadline = idleEnd d) ∧
      (∃ accept tag, Out.kda h.peer h.session 0 4 accept tag ∈ e.out) ∧ cfg e 0x2F05 1 = min 0xFFFFFFFF (cfg d 0x2F05 1 + 1) := by
  intro e
  have hid : x.id = h.session := sessionOf_id hx
  let d1 := onSession h.session (fun y => { y with
    open_ := true, role := role, peer := h.peer
    stored := some (4, leBytes 1 role ++ leBytes 1 0 ++ beBytes 2 (cfg d 0x2010 0x0E) ++ leBytes 4 0), deadline := idleEnd d }) (bump 0x2F05 1 d)
  let d2 := onlyIf (2 ≤ role) (raise evSession noInst) d1
  have he : e = sendKda h.peer (some x.key) h.session 0 4 (leBytes 1 role ++ leBytes 1 0 ++ beBytes 2 (cfg d 0x2010 0x0E) ++ leBytes 4 0) d2 := by
    show acceptSession h x role d = _
    unfold acceptSession
    rw [hid]
  have hraised : Framed eventParts d1 d2 := by
    show Framed eventParts d1 (onlyIf (2 ≤ role) (raise evSession noInst) d1)
    unfold onlyIf
    split
    · exact raise_framed _ _ _ (by decide) (.refl _ _)
    · exact .refl _ _
  have hregs : RegsFramed eventCounters d1 d2 := by
    show RegsFramed eventCounters d1 (onlyIf (2 ≤ role) (raise evSession noInst) d1)
    unfold onlyIf
    split
    · exact raise_regs _ _ _
    · exact .refl _ _
  have hses1 := sessionOf_onSession (d := bump 0x2F05 1 d) (fun y => { y with
    open_ := true, role := role, peer := h.peer
    stored := some (4, leBytes 1 role ++ leBytes 1 0 ++ beBytes 2 (cfg d 0x2010 0x0E) ++ leBytes 4 0), deadline := idleEnd d })
    (fun _ => rfl) hx
  have hses2 : e.dict.sessions = d1.dict.sessions := by
    rw [he]
    exact (congrArg Prod.fst ((sendKda_framed (L := [.out, .regs, .queues, .counters]) _ _ _ _ _ _ d2 (by decide) (.refl _ _)).same .access
      (by decide))).trans (congrArg Prod.fst (hraised.same .access (by decide)))
  have hses : sessionOf e h.session = sessionOf d1 h.session := by
    unfold sessionOf
    rw [hses2]
  refine ⟨⟨_, hses.trans hses1, rfl, rfl, rfl, rfl⟩, ?_, ?_⟩
  · rw [he]
    exact ⟨_, sendKda_mem _ _ _ _ _ _ _⟩
  · rw [he, (sendKda_regs _ _ _ _ _ _ d2).cfg 0x2F05 1 (frameCounters_ne _ _ _ (by decide) (by decide)), hregs.cfg 0x2F05 1 (by decide)]
    exact cfg_bump_self 0x2F05 1 d (by decide)

/-- Settles O23: an OPEN, a PROOF and an end of time are judged on the device that has counted the frame. -/
theorem sessionsOpenByChallengeAndProof : Obligations.SessionsOpenByChallengeAndProof := by
  intro s zeros path others
  refine ⟨fun h payload hh => ⟨fun hbad => ?_, fun hses hseq hlen => ?_⟩, fun h payload x hh hx hopen htag hseq => ?_,
    fun id x hx => ?_, fun t ht => ?_⟩
  · refine kdaOpen_heard hh ?_
    have hbad' : (decide (h.session ≠ 0) || decide (h.seq ≠ 0) || decide (payload.length ≠ 84)) = true := by
      simpa only [Bool.or_eq_true, decide_eq_true_eq, or_assoc] using hbad
    dsimp only
    rw [if_pos hbad']
    obtain ⟨hframe, hout, -, hcount⟩ := bump_kdaCounted h payload.length s
    exact ⟨hframe, hout, rfl, hcount⟩
  · intro error
    have hgood : ¬ (decide (h.session ≠ 0) || decide (h.seq ≠ 0) || decide (payload.length ≠ 84)) = true := by
      simp [hses, hseq, hlen]
    have hlimit : cfg (kdaCounted h payload.length s.found) 0x2010 0x0D = cfg s.dev 0x2010 0x0D :=
      kdaCounted_cfg h payload.length s.found (by decide)
    have herror : ∀ code, Framed path s.found (kdaError h.peer 0 code (kdaCounted h payload.length s.found)) ∧
        (kdaError h.peer 0 code (kdaCounted h payload.length s.found)).dict.sessions = s.dev.dict.sessions ∧
        Out.kda h.peer 0 0 0x1F (beBytes 4 code) zeros ∈ (kdaError h.peer 0 code (kdaCounted h payload.length s.found)).out := fun code =>
      ⟨kdaError_framed _ _ _ _ (by decide) ((kdaCounted_framed _ _ _).mono (by decide)), sessions_kdaError _ _ _ _, kdaError_mem _ _ _ _⟩
    refine ⟨fun hlock => kdaOpen_heard hh ?_, fun hr hl hfull => kdaOpen_heard hh ?_, fun hr hl hroom => kdaOpen_heard hh ?_⟩
    · have hlock' : (!(kdaCounted h payload.length s.found).sec.randomOk || (kdaCounted h payload.length s.found).sec.proofLockEnd.isSome) = true := by
        show (!s.dev.sec.randomOk || s.dev.sec.proofLockEnd.isSome) = true
        rcases hlock with hr | hl
        · rw [hr]; rfl
        · rw [Option.isSome_iff_ne_none.mpr hl, Bool.or_true]
      dsimp only
      rw [if_neg hgood, if_pos hlock']
      exact herror _
    all_goals
      have hfree : ¬ (!(kdaCounted h payload.length s.found).sec.randomOk || (kdaCounted h payload.length s.found).sec.proofLockEnd.isSome) = true := by
        show ¬ (!s.dev.sec.randomOk || s.dev.sec.proofLockEnd.isSome) = true
        rw [hr, hl]
        decide
      dsimp only
      rw [if_neg hgood, if_neg hfree, hlimit, kdaCounted_sessions]
    · rw [if_pos (show cfg s.dev 0x2010 0x0D ≤ s.found.dict.sessions.length from hfull)]
      exact herror _
    · rw [if_neg (show ¬ cfg s.dev 0x2010 0x0D ≤ s.found.dict.sessions.length from Nat.not_le.mpr hroom)]
      exact ⟨challenge_framed _ _ _ (by decide) ((kdaCounted_framed _ _ _).mono (by decide)), challenge_opens _ _ _⟩
  · have hcfg : ∀ b, b < 256 → cfg (kdaCounted h payload.length s.found) 0x2F05 b = cfg s.dev 0x2F05 b := fun b hb =>
      (kdaCounted_regs h payload.length s.found).cfg _ _ fun r hr e => by
        have hp := h.peer.port.isLt
        simp only [goodCounters, List.mem_cons, List.not_mem_nil, or_false] at hr
        rcases hr with rfl | rfl <;> (unfold odKey at e; simp only at e; omega)
    have hid : x.id = h.session := sessionOf_id hx
    intro slot requested refused
    have hrefused : ∀ d : Dev, d.dict.sessions = s.dev.dict.sessions → d.dict.owner = s.dev.dict.owner →
        Framed (.access :: .sec :: .queues :: eventParts) s.found d →
        refused (kdaError h.peer h.session 0x0F00000A (keepSessions (fun y => y.id ≠ h.session) d)) ∧
        ∀ b, b < 256 → cfg (kdaError h.peer h.session 0x0F00000A (keepSessions (fun y => y.id ≠ h.session) d)) 0x2F05 b = cfg d 0x2F05 b := by
      intro d hses hown hframe
      obtain ⟨hgone, hsent, hregs, hrest⟩ := kdaError_keepSessions h d
      refine ⟨⟨hgone, hsent, fun ho => hframe.trans ((hrest fun id' hid' => ?_).mono (by decide))⟩, hregs⟩
      unfold sessionOf at ho ⊢
      rw [hses]
      exact ho id' (hown.symm.trans hid')
    have hcounted := hrefused (kdaCounted h payload.length s.found) rfl rfl ((kdaCounted_framed _ _ _).mono (by decide))
    have hslot : slotKey (kdaCounted h payload.length s.found) slot = slotKey s.dev slot := slotKey_kdaCounted _ _ _ _
    refine ⟨fun hnone => proof_heard hh hx hopen htag hseq ?_, fun key hkey => ?_⟩
    · unfold judgeProof
      simp only [show slotKey (kdaCounted h payload.length s.found) (leNat (slice x.transcript 1 1)) = none from hslot.trans hnone, hid]
      exact ⟨hcounted.1, (hcounted.2 2 (by decide)).trans (hcfg 2 (by decide))⟩
    · intro verifies
      have hslot' : slotKey (kdaCounted h payload.length s.found) (leNat (slice x.transcript 1 1)) = some key := hslot.trans hkey
      have hrole' : slotRole (kdaCounted h payload.length s.found) (leNat (slice x.transcript 1 1)) (leNat (slice x.transcript 0 1)) =
          slotRole s.dev slot requested := slotRole_kdaCounted h _ _ hkey _
      refine ⟨fun role hv hrole => proof_heard hh hx hopen htag hseq ?_, fun hv hrole => proof_heard hh hx hopen htag hseq ?_,
        fun hv => proof_heard hh hx hopen htag hseq ?_⟩
      · have hv' : (decide (payload.length = 64) && Config.ecdsaVerify key (leBytes 1 0x50 ++ x.transcript) payload) = true := by
          rw [decide_eq_true hv.1, hv.2]; rfl
        unfold judgeProof
        simp only [hslot', hv', if_true, hrole'.trans hrole]
        obtain ⟨⟨y, hy, hyo, hyr, hyp, hyd⟩, hsent, hcount⟩ :=
          acceptSession_opens (d := kdaCounted h payload.length s.found) hx role
        refine ⟨⟨y, hy, hyo, hyr, hyp, hyd.trans ?_⟩, hsent, hcount.trans (by rw [hcfg 1 (by decide)]),
          acceptSession_framed _ _ _ _ (by decide) ((kdaCounted_framed _ _ _).mono (by decide))⟩
        unfold idleEnd
        rw [kdaCounted_cfg h payload.length s.found (by decide)]
        rfl
      · have hv' : (decide (payload.length = 64) && Config.ecdsaVerify key (leBytes 1 0x50 ++ x.transcript) payload) = true := by
          rw [decide_eq_true hv.1, hv.2]; rfl
        unfold judgeProof
        simp only [hslot', hv', if_true, hrole'.trans hrole, hid]
        exact ⟨hcounted.1, (hcounted.2 2 (by decide)).trans (hcfg 2 (by decide))⟩
      · have hv' : ¬ (decide (payload.length = 64) && Config.ecdsaVerify key (leBytes 1 0x50 ++ x.transcript) payload) = true := fun h => by
          rw [Bool.and_eq_true, decide_eq_true_eq] at h
          exact hv h
        unfold judgeProof
        simp only [hslot', if_neg hv', hid]
        have hfailed : Framed [.out, .regs, .recd, .ints, .counters, .sec] (kdaCounted h payload.length s.found)
            (proofFailed (kdaCounted h payload.length s.found)) := proofFailed_framed _ (by decide) (.refl _ _)
        have hgone := hrefused (proofFailed (kdaCounted h payload.length s.found))
          (congrArg Prod.fst (hfailed.same .access (by decide))) (hfailed.owner (by decide))
          (((kdaCounted_framed _ _ _).mono (by decide)).trans (hfailed.mono (by decide)))
        exact ⟨hgone.1, (hgone.2 2 (by decide)).trans ((proofFailed_counts _).trans (by rw [hcfg 2 (by decide)]))⟩
  · intro gone
    have hgone : gone (keepSessions (fun y => y.id ≠ id) (arrive x.deadline s.found)) := by
      have harrive : Framed [.clock, .counters, .access] s.found (arrive x.deadline s.found) := arrive_framed _ _ (by decide) (.refl _ _)
      have hkept := keepSessions_framed (L := [.out, .regs, .staging, .access, .queues, .recd, .ints, .mail, .counters])
        (fun y => y.id ≠ id) (arrive x.deadline s.found) (by decide) (.refl _ _)
      refine ⟨sessionOf_keepSessions, (congrArg Prod.fst (hkept.same .clock (by decide)) :).trans (arrive_now _ _), fun ho => ?_, fun ho => ?_⟩
      · exact keepSessions_discards ((harrive.owner (by decide)).trans ho)
      · rw [keepSessions_others fun id' hid' => ?_]
        · exact onDict_framed _ _ ⟨.inl rfl, .inl rfl, .inl rfl, .inl rfl, .inr (by decide), .inl rfl⟩ harrive
        · exact ho id' ((harrive.owner (by decide)).symm.trans hid')
    have hx' : sessionOf s.found id = some x := hx
    refine ⟨fun hopen => completes_of_eq (execSessionExpiry id s) rfl rfl ?_ hgone, fun hopen =>
      completes_of_eq (execChallengeTimeout id s) rfl rfl ?_ hgone⟩
    · simp only [hx', hopen, if_true]
    · simp only [hx', hopen, Bool.false_eq_true, if_false]
  · refine completes_of_eq (execKdaLockoutEnd s) (e := onSec (fun s => { s with proofLockEnd := none, proofFails := [] }) (arrive t s.found)) rfl
      rfl ?_ ⟨?_, arrive_now _ _, ?_⟩
    · have ht' : s.found.sec.proofLockEnd = some t := ht
      simp only [ht']
    · rfl
    · exact onSec_framed _ _ (by decide) (arrive_framed _ _ (by decide) (.refl _ _))

end Sys2Proof.Machine
end

section
/-! PROOF. Mailboxes (R61, R452, R453). -/

namespace Sys2Proof.Machine

/-! ### Interrupt status -/

theorem setInt_intStatus (bit : Nat) (d : Dev) : (setInt bit d).host.intStatus = d.host.intStatus ||| BitVec.ofNat 32 (2 ^ bit) := by
  unfold setInt
  dsimp only
  split
  · unfold sendVector
    split <;> rfl
  · rfl

/-- An interrupt that is set stands in the status. -/
theorem setInt_bit {bit : Nat} (h : bit < 32) (d : Dev) : (setInt bit d).host.intStatus.getLsbD bit = true := by
  rw [setInt_intStatus, BitVec.getLsbD_or, BitVec.getLsbD_ofNat, Nat.testBit_two_pow_self]
  simp [h]

theorem mailboxOf_setInt (bit : Nat) (d : Dev) (path : HostPath) : mailboxOf (setInt bit d).host path = mailboxOf d.host path := by
  have h := (setInt_framed (L := [.out, .ints]) bit d (by decide) (.refl _ d)).same .mail (by decide)
  cases path
  · exact congrArg Prod.fst h
  · exact congrArg Prod.snd h

/-! ### Windows -/

theorem mailboxOf_onMailbox (path : HostPath) (f : Mailbox → Mailbox) (d : Dev) :
    mailboxOf (onMailbox path f d).host path = f (mailboxOf d.host path) := by cases path <;> rfl

theorem ready_mailbox {path : HostPath} {d : Dev} (h : Ready d (pathSrc path)) :
    (mailboxOf d.host path).busy = true ∧ (mailboxOf d.host path).discard = false := by cases path <;> exact h

theorem answer_mailbox (path : HostPath) (rs : Resp) (d : Dev) : answer (pathSrc path) rs d = answerMailbox path (pathSrc path) rs d := by
  cases path <;> rfl

/-- The answer frees a mailbox that waits for it. -/
theorem answer_frees {path : HostPath} {d : Dev} (h : Ready d (pathSrc path)) (rs : Resp) :
    (mailboxOf (answer (pathSrc path) rs d).host path).busy = false := by
  obtain ⟨hb, hd⟩ := ready_mailbox h
  rw [answer_mailbox]
  unfold answerMailbox
  simp only [hb, hd, Bool.false_eq_true, if_false, Bool.not_true]
  show (mailboxOf (setInt _ _).host path).busy = false
  rw [mailboxOf_setInt, mailboxOf_onMailbox]

theorem serveWindow_write {path : HostPath} {d : Dev} {w : List Byte} (hw : Memory.readBytes (mailboxOf d.host path).window 0 4096 = w)
    (h : leNat (slice w 0 1) = 0x12) : serveWindow path d =
      if 4080 < leNat (slice w 8 2) then refuseWrite (pathSrc path) (leNat (slice w 2 2)) (leNat (slice w 1 1)) 0x06070010 d
      else submit (writeOf (pathSrc path) (leNat (slice w 2 2)) (leNat (slice w 1 1)) (leNat (slice w 4 4)) (slice w 12 (leNat (slice w 8 2)))) d := by
  subst hw
  simp only [serveWindow, h]
  rfl

theorem serveWindow_other {path : HostPath} {d : Dev} {w : List Byte} (hw : Memory.readBytes (mailboxOf d.host path).window 0 4096 = w)
    (h1 : leNat (slice w 0 1) ≠ 0x10) (h2 : leNat (slice w 0 1) ≠ 0x12) : serveWindow path d =
      answer (pathSrc path) ⟨leNat (slice w 2 2), leNat (slice w 1 1), false, 0x05040001, [], 0⟩ d := by
  subst hw
  unfold serveWindow
  dsimp only
  split
  · contradiction
  · contradiction
  · rfl

/-- The window as the doorbell finds it. -/
theorem busy_window (path : HostPath) (d : Dev) :
    (mailboxOf (onMailbox path (fun m => { m with busy := true }) d).host path).window = (mailboxOf d.host path).window := by
  cases path <;> rfl

theorem leNat_byte {l : List Byte} (h : l.length ≤ 1) : leNat l < 256 := by
  match l, h with
  | [], _ => decide
  | [b], _ => exact beNat_byte b

/-- Settles O24: a free mailbox hands its window to the agent, which answers into it. -/
theorem aDoorbellHandsTheWindowToTheAgent : Obligations.ADoorbellHandsTheWindowToTheAgent := by
  intro s path hp m bs src op sub idx off n served
  have hexec := exec_mbDoorbell_eq path s
  have honPath : ∀ f, onPath path f s.found = f s.found := fun f => if_pos (show pathAlive s.found path = true from hp)
  refine ⟨fun hb => ?_, fun hb ha => ?_, fun hs => ?_⟩
  · refine completes_of_exec hexec ?_
    have hd : onPath path (doorbell path) s.found = onMailbox path (fun m => { m with overrun := true }) s.found := by
      rw [honPath]
      exact if_pos hb
    rw [hd]
    exact ⟨onMailbox_framed _ _ _ (by decide) (.refl _ _), by cases path <;> rfl⟩
  · refine completes_of_exec hexec ?_
    have hd : onPath path (doorbell path) s.found =
        setInt (mailboxBit path) (onMailbox path (fun m => { m with aborted := true }) s.found) := by
      rw [honPath]
      refine (if_neg (by rw [show (mailboxOf s.found.host path).busy = false from hb]; decide)).trans (if_pos ?_)
      rw [show s.found.pow.agentReady = false from ha]
      rfl
    rw [hd]
    refine ⟨setInt_framed _ _ (by decide) (onMailbox_framed _ _ _ (by decide) (.refl _ _)), ?_, ?_⟩
    · rw [mailboxOf_setInt, mailboxOf_onMailbox]
      rfl
    · exact setInt_bit (by cases path <;> decide) _
  · obtain ⟨-, hbusy, hdis⟩ := served_mailbox (path := path) (d := s.found) hs
    obtain ⟨ha, -⟩ := id hs
    let e := onMailbox path (fun m => { m with busy := true }) s.found
    have hreached : Reached src s.found e := mailbox_reached hdis
    have hd : onPath path (doorbell path) s.found = serveWindow path e := doorbell_free (d := s.found) hp hbusy ha
    have hwin : Memory.readBytes (mailboxOf e.host path).window 0 4096 = bs := by rw [busy_window]; rfl
    have hsub : sub < 256 := leNat_byte (by simp [slice])
    refine ⟨fun val hop hj => ?_, fun row v hop hn hw himm => ?_, fun hop hn => ?_, fun h1 h2 => ?_⟩
    · have hread : serveWindow path e = answer src ⟨idx, sub, false, 0, slice val off (min n 4080), val.length⟩ (readEffect idx sub e) := by
        rw [serveWindow_read (by rw [hwin]; exact hop), hwin]
        refine (submit_reached (r := ⟨src, idx, sub, off, .read (min n 4080), none⟩) (d := s.found) hs hreached.pathOnly).trans
          ((serveNow_ready (r := ⟨src, idx, sub, off, .read (min n 4080), none⟩) hreached.ready).trans ?_)
        show serveRead _ _ e = _
        unfold serveRead
        rw [show judgeRead e ⟨src, idx, sub, off, .read (min n 4080), none⟩ = .ok val from hj]
        rfl
      have hready : Ready (readEffect idx sub e) src := hreached.ready.framed
        (readEffect_framed (L := [.fresh, .out, .time, .gw]) idx sub e (by decide) (.refl _ e)) (by decide) (by decide)
      exact completes_of_eq (execMbDoorbell path s) rfl rfl (hd.trans hread) ⟨answer_frees hready _, answer_ready _ hready⟩
    · intro w hx
      have hwrite : serveWindow path e = answerWrite src idx sub 0 (stageWrite (sessionKey src) w e) := by
        rw [serveWindow_write hwin hop, if_neg (Nat.not_lt.mpr hn)]
        refine (submit_reached (r := writeOf src idx sub off (slice bs 12 n)) (d := s.found) hs hreached.pathOnly).trans
          ((serveNow_ready (r := writeOf src idx sub off (slice bs 12 n)) hreached.ready).trans ?_)
        refine (serveWrite_reached hreached hsub hw himm).trans ?_
        rw [show stageError s.dev (sessionKey src) (stagedOf idx sub off (slice bs 12 n) v) = none from hx]
        rfl
      have hready : Ready (stageWrite (sessionKey src) w e) src := hreached.ready.framed
        (stageWrite_framed (L := [.regs, .staging]) _ _ _ (by decide) (.refl _ e)) (by decide) (by decide)
      exact completes_of_eq (execMbDoorbell path s) rfl rfl (hd.trans hwrite) ⟨answer_frees hready _, hreached.staged w⟩
    · have hrefused : serveWindow path e = refuseWrite src idx sub 0x06070010 e := by
        rw [serveWindow_write hwin hop, if_pos hn]
      have hready : Ready (countRefusal false idx sub 0x06070010 e) src := hreached.ready.framed
        (countRefusal_framed (L := [.regs]) _ _ _ _ _ (by decide) (.refl _ e)) (by decide) (by decide)
      exact completes_of_eq (execMbDoorbell path s) rfl rfl (hd.trans hrefused) ⟨answer_frees hready _, hreached.refused _ _ _⟩
    · have hother : serveWindow path e = answer src ⟨idx, sub, false, 0x05040001, [], 0⟩ e := serveWindow_other hwin h1 h2
      exact completes_of_eq (execMbDoorbell path s) rfl rfl (hd.trans hother)
        ⟨answer_frees hreached.ready _, hreached.pathOnly.trans (answer_pathOnly _ _ _), answer_ready _ hreached.ready⟩

end Sys2Proof.Machine
end

section
/-! PROOF. The switch of epochs: a time below 1 µs need not be read where the dictionary holds the register of 0x2101:0D
twice (R113). -/

namespace Sys2Proof.Machine

/-- The COMMIT of an empty train, accepted for the present moment. -/
def emptyCommit : AcceptedCommit :=
  { body := { epoch := 1, topo := 0, countdown := 0, nodes := 0, consists := 0, refEnd := 0, entries := [] }
    ids := [], originator := 0, switchAt := 0, fromRear := none }

/-- A committing node whose dictionary holds 0x2101:0D twice: it is outside the canonical states. -/
def twiceTimed : State :=
  let d := State.reset.dev
  { dev := { d with
      dict := { d.dict with od := [(0x21010D, .num 5), (0x21010D, .num 7)] }
      inaug := { d.inaug with state := .committing, accepted := some emptyCommit }
      pow := { d.pow with safeN := true } }
    pending := [] }

/-- The register of the last inauguration's duration after a step. -/
def durationRegister (r : Result) : Option Nat :=
  match r with
  | .next t => some (cfg t.dev 0x2101 0x0D)
  | _ => none

/-- The switch point leaves the second register of 0x2101:0D in place. -/
theorem durationRegister_switchPoint : durationRegister (exec .switchPoint twiceTimed) = some 7 := by decide +kernel

/-- Refutes O28: the switch point at the start of the round writes 0 µs, the default of 0x2101:0D, and clearing the first of
two registers uncovers the second, which holds 7. -/
theorem not_theSwitchPointTakesTheNewEpoch : ¬ Obligations.TheSwitchPointTakesTheNewEpoch := by
  intro h
  obtain ⟨hswitch, -⟩ := h twiceTimed
  obtain ⟨hhigh, -⟩ := hswitch emptyCommit rfl rfl rfl rfl
  obtain ⟨t, he, -, ht⟩ := hhigh (by decide)
  obtain ⟨-, -, -, -, -, -, -, -, -, -, -, -, htook⟩ := ht
  have hzero : (t.dev.now - (twiceTimed.dev.inaug.roundStart).getD t.dev.now) / usNs = 0 := by
    rw [show twiceTimed.dev.inaug.roundStart = none from rfl, Option.getD_none, Nat.sub_self, Nat.zero_div]
  have hreads : durationRegister (exec .switchPoint twiceTimed) = some 0 := by
    rw [he]
    exact congrArg some ((htook rfl).trans hzero)
  exact absurd (durationRegister_switchPoint.symm.trans hreads) (by decide)

end Sys2Proof.Machine
end

section
/-! PROOF. What was sent stays sent: recording an event and judging the sleep need only add to what the device sends. -/

namespace Sys2Proof.Machine

/-- What was sent in `a` is sent in `b` too. -/
def Sent (a b : Dev) : Prop := ∀ o ∈ a.out, o ∈ b.out

section sent

variable {a d e : Dev}

theorem Sent.refl (d : Dev) : Sent d d := fun _ h => h

theorem Sent.trans (h1 : Sent a d) (h2 : Sent d e) : Sent a e := fun o h => h2 o (h1 o h)

theorem Sent.of_eq (h : e.out = d.out) : Sent d e := fun _ ho => h ▸ ho

/-- What is sent after a step that sends nothing. -/
theorem Sent.after (h : Sent d e) (ho : d.out = a.out) : Sent a e := fun o hm => h o (ho ▸ hm)

theorem Sent.ite {c : Prop} [Decidable c] (hd : Sent a d) (he : Sent a e) : Sent a (if c then d else e) := by
  split
  exacts [hd, he]

theorem Sent.onlyIf {f : Dev → Dev} (c : Bool) (h : Sent d (f d)) : Sent d (onlyIf c f d) := .ite h (.refl d)

theorem Sent.forEach {α : Type} {f : α → Dev → Dev} (hf : ∀ x d, Sent d (f x d)) (l : List α) (d : Dev) :
    Sent d (forEach l f d) := by
  induction l generalizing d with
  | nil => exact .refl d
  | cons x l ih => exact (hf x d).trans (ih (f x d))

/-- What leaves the part `out` alone takes nothing back. -/
theorem Framed.sent {A : List Part} (h : Framed A d e) (hn : Part.out ∉ A) : Sent d e := .of_eq (h.same .out hn)

theorem emit_sent (o : Out) (d : Dev) : Sent d (emit o d) := fun _ h => List.mem_append_left _ h

theorem emit_mem (o : Out) (d : Dev) : o ∈ (emit o d).out := List.mem_append_right _ (.head _)

theorem sendVector_sent (v : Fin 16) (d : Dev) : Sent d (sendVector v d) := .ite (.of_eq rfl) (emit_sent _ d)

theorem setInt_sent (bit : Nat) (d : Dev) : Sent d (setInt bit d) :=
  .ite ((sendVector_sent _ _).after rfl) (.of_eq rfl)

theorem placeWith_sent {copy : Entry → Dev → Dev} (hcopy : ∀ e d, (copy e d).out = d.out) (e : Entry) (d : Dev) :
    Sent d (placeWith copy e d) := by
  have hint : ∀ r : Dev, Sent d r → Sent d (if e.sev = 7 then setInt 28 r else r) := fun r h =>
    .ite (h.trans (setInt_sent 28 r)) h
  unfold placeWith
  refine hint _ ?_
  dsimp only
  split
  all_goals exact .of_eq (by simp [hcopy])

theorem placeEntry_sent (e : Entry) (d : Dev) : Sent d (placeEntry e d) := by
  have h := placeWith_sent (copy := tarnLimited) (fun e d => by simp) e d
  unfold placeEntry
  exact .ite (h.trans ((placeWith_sent (fun _ _ => rfl) _ _).after rfl)) h

/-- An event that is raised takes nothing back. -/
theorem raise_sent (ev : Ev) (inst : Nat) (d : Dev) : Sent d (raise ev inst d) := by
  unfold raise raiseP recordEntry
  refine .ite (.of_eq (by simp)) ?_
  split
  · exact .of_eq (by simp)
  · exact .of_eq (by simp)
  · exact placeEntry_sent _ d

theorem noteSilence_sent (d : Dev) : Sent d (noteSilence d) :=
  (Sent.forEach (fun _ => raise_sent evSilentSide noInst) _ _).after rfl

theorem abortSleep_sent (d : Dev) : Sent d (abortSleep d) := (raise_sent evSleepAborted noInst _).after (by simp)

theorem pokeKeepAlive_sent (d : Dev) : Sent d (pokeKeepAlive d) := .ite (.of_eq rfl) (.refl d)

/-- The judgement of the sleep need takes nothing back. -/
theorem judgeSleep_sent (d : Dev) : Sent d (judgeSleep d) := by
  refine (noteSilence_sent d).trans ?_
  unfold judgeSleep
  generalize noteSilence d = n
  dsimp only
  split
  · exact .ite ((pokeKeepAlive_sent _).after rfl) (pokeKeepAlive_sent n)
  · exact .ite ((abortSleep_sent n).trans (pokeKeepAlive_sent _)) (pokeKeepAlive_sent n)
  · exact .refl n

end sent

end Sys2Proof.Machine
end

section
/-! PROOF. Rounds and changes: what a round that begins, fails or is held leaves as it was (chapter 03). -/

namespace Sys2Proof.Machine

/-- What rounds and changes leave alone in the inauguration engine: the discovery records, the numbering in force, and who asks
for inhibit. -/
def InaugS.standing (i : InaugS) : Vector BackPort 4 × Numbering × List (Word48 × Option Nat) × Bool × Option Nat :=
  (i.ports, i.now, i.requesters, i.ttdpInhibit, i.stateDue)

/-- The counters of rounds, couplings, events and frames. -/
def roundCounters : List (Nat × Nat) :=
  eventCounters ++ [(0x2107, 1), (0x2107, 3), (0x2107, 4), (0x2107, 5), (0x2107, 6), (0x2107, 0x0B)] ++
    allPorts.flatMap frameCounters

/-- From `a` to `b` rounds may begin, fail or be held: the standing part of the engine stays, no time passes, what was sent
stays sent, and no register changes but the counters. -/
structure RoundMove (a b : Dev) : Prop where
  standing : b.inaug.standing = a.inaug.standing
  clock : b.now = a.now
  chip : b.chip = a.chip
  sent : Sent a b
  regs : RegsFramed roundCounters a b

theorem roundCounters_event {r : Nat × Nat} (h : r ∈ eventCounters) : r ∈ roundCounters :=
  List.mem_append_left _ (List.mem_append_left _ h)

theorem roundCounters_frame (p : Port) {r : Nat × Nat} (h : r ∈ frameCounters p) : r ∈ roundCounters :=
  List.mem_append_right _ (frameCounters_all p r h)

section moves

variable {a b d : Dev}

theorem RoundMove.refl (d : Dev) : RoundMove d d := ⟨rfl, rfl, rfl, .refl d, .refl _ d⟩

theorem RoundMove.trans (h1 : RoundMove a b) (h2 : RoundMove b d) : RoundMove a d :=
  ⟨h2.standing.trans h1.standing, h2.clock.trans h1.clock, h2.chip.trans h1.chip, h1.sent.trans h2.sent, h1.regs.trans h2.regs⟩

theorem RoundMove.ite {c : Prop} [Decidable c] (h1 : RoundMove a b) (h2 : RoundMove a d) : RoundMove a (if c then b else d) := by
  split
  exacts [h1, h2]

theorem RoundMove.onlyIf {f : Dev → Dev} (c : Bool) (h : RoundMove d (f d)) : RoundMove d (onlyIf c f d) := .ite h (.refl d)

theorem RoundMove.forEach {α : Type} {f : α → Dev → Dev} (hf : ∀ x d, RoundMove d (f x d)) (l : List α) (d : Dev) :
    RoundMove d (forEach l f d) := by
  induction l generalizing d with
  | nil => exact .refl d
  | cons x l ih => exact (hf x d).trans (ih (f x d))

/-- What changes none of the parts concerned. -/
theorem RoundMove.of_framed {A : List Part} (h : Framed A a b) (hi : Part.inaug ∉ A) (hc : Part.clock ∉ A) (hf : Part.chip ∉ A)
    (ho : Part.out ∉ A) (hr : Part.regs ∉ A) : RoundMove a b :=
  ⟨congrArg InaugS.standing (h.same .inaug hi), congrArg Prod.fst (h.same .clock hc), h.same .chip hf, h.sent ho, .of_same (h.same .regs hr)⟩

theorem onInaug_move {f : InaugS → InaugS} (h : (f d.inaug).standing = d.inaug.standing) : RoundMove d (onInaug f d) :=
  ⟨h, rfl, rfl, .of_eq rfl, .of_same rfl⟩

theorem bump_move (idx sub : Nat) (d : Dev) (h : (idx, sub) ∈ roundCounters := by decide) : RoundMove d (bump idx sub d) :=
  ⟨by simp, by simp, by simp, .of_eq (by simp), (RegsFramed.refl _ d).bump _ _ h⟩

theorem emit_move (o : Out) (d : Dev) : RoundMove d (emit o d) := ⟨rfl, rfl, rfl, emit_sent o d, .of_same rfl⟩

theorem draw_move (d : Dev) : RoundMove d (draw d) := ⟨rfl, rfl, rfl, .of_eq rfl, .of_same rfl⟩

theorem raise_move (ev : Ev) (inst : Nat) (d : Dev) : RoundMove d (raise ev inst d) :=
  ⟨by simp, by simp, by simp, raise_sent ev inst d, (raise_regs ev inst d).mono fun _ => roundCounters_event⟩

theorem sendOwn_move (p : Port) (q : Fin 8) (bs : List Byte) (d : Dev) : RoundMove d (sendOwn p q bs d) := by
  have h : Framed [.regs, .queues, .counters] d (sendOwn p q bs d) := sendOwn_framed p q bs d (fun _ h => h) (.refl _ _)
  exact ⟨congrArg InaugS.standing (h.same .inaug (by decide)), congrArg Prod.fst (h.same .clock (by decide)), h.same .chip (by decide),
    h.sent (by decide), (sendOwn_regs p q bs d).mono fun _ => roundCounters_frame p⟩

theorem judgeSleep_move (d : Dev) : RoundMove d (judgeSleep d) := by
  have h : Framed [.out, .regs, .recd, .sleep, .ints, .counters] d (judgeSleep d) := judgeSleep_framed d (fun _ h => h) (.refl _ _)
  exact ⟨congrArg InaugS.standing (h.same .inaug (by decide)), congrArg Prod.fst (h.same .clock (by decide)), h.same .chip (by decide),
    judgeSleep_sent d, (judgeSleep_recordsOnly d).1.mono fun _ => roundCounters_event⟩

/-! ### Springcount frames leave (R78, R81) -/

theorem sendSc_move (ports : List Port) (orig : Word48) (round seq : BitVec 16) (segment hops : Nat) (more : Bool) (b : ScBody)
    (d : Dev) : RoundMove d (sendSc ports orig round seq segment hops more b d) :=
  .ite (.forEach (fun _ _ => (emit_move _ _).trans (sendOwn_move _ _ _ _)) _ _) (.refl d)

theorem createSc_move (ports : List Port) (b : ScBody) (d : Dev) : RoundMove d (createSc ports b d) :=
  (onInaug_move rfl).trans (sendSc_move _ _ _ _ _ _ _ _ _)

theorem passSc_move (rear : Bool) (h : ScHeader) (more : Bool) (b : ScBody) (d : Dev) : RoundMove d (passSc rear h more b d) :=
  sendSc_move _ _ _ _ _ _ _ _ _

/-! ### Rounds (R85 to R89) -/

theorem dropCommit_move (d : Dev) : RoundMove d (dropCommit d) := by
  have hd : RoundMove d (onInaug (fun i => { i with accepted := none, lateCopy := false }) d) := onInaug_move rfl
  exact .ite (hd.trans ⟨rfl, rfl, rfl, .of_eq rfl, .of_same rfl⟩) hd

theorem timeRoundStart_move (l : List Port) (d : Dev) : RoundMove d (timeRoundStart l d) := ⟨rfl, rfl, rfl, .of_eq rfl, .of_same rfl⟩

theorem timeStandardHold_move (l : List Port) (d : Dev) : RoundMove d (timeStandardHold l d) :=
  ⟨rfl, rfl, rfl, .of_eq rfl, .of_same rfl⟩

theorem sendClaim_move (d : Dev) : RoundMove d (sendClaim d) := (onInaug_move rfl).trans (createSc_move _ _ _)

theorem enterRound_move (round : BitVec 16) (lowest : Word48) (revealed : List Port) (d : Dev) :
    RoundMove d (enterRound round lowest revealed d) :=
  (dropCommit_move d).trans ((onInaug_move rfl).trans ((timeRoundStart_move _ _).trans (sendClaim_move _)))

theorem startRoundFrom_move (since : Nat) (revealed : List Port) (d : Dev) : RoundMove d (startRoundFrom since revealed d) :=
  (onInaug_move rfl).trans ((bump_move 0x2107 1 _).trans (enterRound_move _ _ _ _))

theorem startRound_move (revealed : List Port) (d : Dev) : RoundMove d (startRound revealed d) := startRoundFrom_move _ _ d

theorem joinRound_move (since : Nat) (round : BitVec 16) (claimed : Word48) (d : Dev) : RoundMove d (joinRound since round claimed d) :=
  (RoundMove.ite (.refl d) (onInaug_move rfl)).trans (enterRound_move _ _ _ _)

theorem joinHeld_move (d : Dev) : RoundMove d (joinHeld d) := by
  unfold joinHeld
  split
  · exact .refl d
  · next c _ =>
    have h : RoundMove d (onInaug (fun i => { i with heldClaim := none }) d) := onInaug_move rfl
    exact .ite (h.trans (joinRound_move _ _ _ _)) h

theorem enterStandard_move (d : Dev) : RoundMove d (enterStandard d) :=
  (dropCommit_move d).trans ((onInaug_move rfl).trans ((bump_move 0x2107 4 _).trans ((raise_move _ _ _).trans
    (timeStandardHold_move _ _))))

theorem failRound_move (d : Dev) : RoundMove d (failRound d) := by
  have h := (dropCommit_move d).trans ((onInaug_move (f := fun i => { i.stopTimers with
    failedRounds := i.failedRounds + 1, roundOwn := false }) rfl).trans ((bump_move 0x2107 3 _).trans (raise_move evRoundFailed noInst _)))
  exact .ite (h.trans (enterStandard_move _)) (h.trans ((onInaug_move rfl).trans ((draw_move _).trans (joinHeld_move _))))

theorem abortRound_move (cause : Nat) (d : Dev) : RoundMove d (abortRound cause d) :=
  .ite ((createSc_move _ _ _).trans (enterStandard_move _)) ((createSc_move _ _ _).trans (failRound_move _))

/-! ### Changes that the node detects (R72, R104, R110) -/

theorem holdChange_move (config : Bool) (ports : List Port) (d : Dev) : RoundMove d (holdChange config ports d) :=
  (onInaug_move rfl).trans (raise_move _ _ _)

theorem onChange_move (k : Change) (ports : List Port) (d : Dev) : RoundMove d (onChange k ports d) := by
  unfold onChange
  refine .ite (.refl d) ?_
  split
  · exact .refl d
  · exact .ite (holdChange_move _ _ d) (.ite (.ite (.refl d) (.ite (timeStandardHold_move _ d) (startRound_move _ d)))
      (.ite (abortRound_move _ d) (.ite (onInaug_move rfl) (startRound_move _ d))))

theorem inhibitEnded_move (d : Dev) : RoundMove d (inhibitEnded d) :=
  .ite (.refl d) ((onInaug_move rfl).trans (onChange_move _ _ _))

theorem classifySide_move (p : Port) (rear : Bool) (old : Option Word48 × Option Word48) (d : Dev) :
    RoundMove d (classifySide p rear old d) := by
  unfold classifySide
  dsimp only
  refine .ite (.refl d) ?_
  generalize hu : onlyIf _ (bump 0x2107 6) _ = u
  have hu : RoundMove d u := by
    subst hu
    refine .trans (.trans (.trans (.trans (onInaug_move (by cases rear <;> rfl)) (.ite (raise_move _ _ _) (.refl _)))
      (.onlyIf _ ((bump_move 0x2107 0x0B _).trans (raise_move _ _ _)))) (.onlyIf _ ((bump_move 0x2107 5 _).trans ?_)))
      (.onlyIf _ (bump_move 0x2107 6 _))
    exact .of_framed (onStrm_framed (L := [.strm]) _ _ (by decide) (.refl _ _)) (by decide) (by decide) (by decide) (by decide) (by decide)
  exact .ite ((hu.trans (.onlyIf _ (onChange_move _ _ u))).trans (onChange_move _ _ _)) (hu.trans (.onlyIf _ (onChange_move _ _ u)))

end moves

end Sys2Proof.Machine
end

section
/-! PROOF. Neighbours are heard and lost (R70 to R75, R82). -/

namespace Sys2Proof.Machine

/-! ### Reading the discovery records and the settings of the chapter -/

section reads

variable {a b d : Dev} {p : Port}

theorem backOf_onBack_self (p : Port) (f : BackPort → BackPort) (d : Dev) : backOf (onBack p f d) p = f (backOf d p) := by
  simp [backOf, vmod]

theorem backOf_of_inaug (h : b.inaug = a.inaug) (p : Port) : backOf b p = backOf a p := by rw [backOf, h, backOf]

theorem RoundMove.inaug_ports (h : RoundMove a b) : b.inaug.ports = a.inaug.ports := congrArg Prod.fst h.standing

theorem RoundMove.backOf (h : RoundMove a b) (p : Port) : Machine.backOf b p = Machine.backOf a p := by
  rw [Machine.backOf, h.inaug_ports, Machine.backOf]

/-- Every counter of rounds and frames stands at 0x2107 or above. -/
theorem roundCounters_high : ∀ r ∈ roundCounters, odKey 0x2107 0 ≤ odKey r.1 r.2 := by decide +kernel

/-- The settings of the chapter read as before. -/
theorem RoundMove.cfg (h : RoundMove a b) (idx sub : Nat) (hk : odKey idx sub < odKey 0x2107 0) :
    Machine.cfg b idx sub = Machine.cfg a idx sub :=
  h.regs.cfg _ _ fun r hr => (Nat.lt_of_lt_of_le hk (roundCounters_high r hr)).ne'

theorem RoundMove.scEnabled (h : RoundMove a b) : Machine.scEnabled b = Machine.scEnabled a := by
  simp only [Machine.scEnabled, cfgB, h.cfg 0x2100 1 (by decide)]

theorem countGood_move (p : Port) (len : Nat) (d : Dev) : RoundMove d (countGood p len d) := by
  have h : Framed [.regs, .counters] d (countGood p len d) := countGood_framed p len d (fun _ h => h) (.refl _ _)
  exact ⟨congrArg InaugS.standing (h.same .inaug (by decide)), congrArg Prod.fst (h.same .clock (by decide)),
    h.same .chip (by decide), h.sent (by decide), (countGood_regs p len d).mono fun _ => roundCounters_frame p⟩

end reads

/-! ### What is sent -/

section sends

variable {d : Dev} {p : Port} {ports : List Port}

/-- A frame leaves on each of its ports while Springcount is enabled. -/
theorem sendSc_mem (he : scEnabled d = true) (hp : p ∈ ports) (orig : Word48) (round seq : BitVec 16) (segment hops : Nat)
    (more : Bool) (b : ScBody) :
    Out.springcount p orig round seq segment hops more b ∈ (sendSc ports orig round seq segment hops more b d).out := by
  unfold sendSc
  rw [if_pos he]
  clear he
  generalize hstep : (fun (p : Port) (d : Dev) => sendOwn p 7 (ownFrame d nearestBridge 0x88B5
    (scBytes p orig round seq segment hops more b)) (emit (.springcount p orig round seq segment hops more b) d)) = step
  have hone : ∀ q e, Out.springcount q orig round seq segment hops more b ∈ (step q e).out := fun q e => by
    subst hstep
    rw [sendOwn_out]
    exact emit_mem _ e
  have hsent : ∀ q e, Sent e (step q e) := fun q e => by
    subst hstep
    exact (emit_sent _ e).trans (sendOwn_move _ _ _ _).sent
  induction ports generalizing d with
  | nil => exact absurd hp (List.not_mem_nil)
  | cons q rest ih =>
    rcases List.mem_cons.mp hp with rfl | hrest
    · exact Sent.forEach hsent rest _ _ (hone p d)
    · exact ih hrest

theorem createSc_mem (he : scEnabled d = true) (hp : p ∈ ports) (b : ScBody) :
    Out.springcount p d.chip.ident d.inaug.round (d.inaug.seq + 1) 0 0 false b ∈ (createSc ports b d).out :=
  sendSc_mem (d := onInaug _ d) he hp _ _ _ _ _ _ _

end sends

/-! ### Neighbours -/

section neighbours

variable {d : Dev} {p : Port}

/-- The record of a port after its neighbour became another one, or none. -/
def heardAs (same : Bool) (n : Option Neighbour) (b : BackPort) : BackPort :=
  if same then { b with heard := n } else { b with heard := n, standardOnly := false, unanswered := 0 }

theorem hearOn_move (p : Port) (n : Option Neighbour) (d : Dev) :
    RoundMove (onBack p (heardAs (decide (heardOn d p = n.map (·.ident))) n) d) (hearOn p n d) := by
  have h := classifySide_move p (isRear p) (sideHears d (isRear p))
    (onBack p (heardAs (decide (heardOn d p = n.map (·.ident))) n) d)
  unfold hearOn
  convert h using 3
  funext b
  simp [heardAs]

theorem backOf_hearOn (p : Port) (n : Option Neighbour) (d : Dev) :
    backOf (hearOn p n d) p = heardAs (decide (heardOn d p = n.map (·.ident))) n (backOf d p) := by
  rw [(hearOn_move p n d).backOf, backOf_onBack_self]

theorem heardAs_heard (same : Bool) (n : Option Neighbour) (b : BackPort) : (heardAs same n b).heard = n := by
  cases same <;> rfl

theorem heardAs_ttdpFast (same : Bool) (n : Option Neighbour) (b : BackPort) : (heardAs same n b).ttdpFast = b.ttdpFast := by
  cases same <;> rfl

theorem heardAs_probeDue (same : Bool) (n : Option Neighbour) (b : BackPort) : (heardAs same n b).probeDue = b.probeDue := by
  cases same <;> rfl

theorem hearOn_now (p : Port) (n : Option Neighbour) (d : Dev) : (hearOn p n d).now = d.now := (hearOn_move p n d).clock

end neighbours


/-! ### The frames of the exchange and of TTDP (R70 to R75) -/

section exchange

variable {s : State} {p : Port}

theorem found_now (s : State) : s.found.now = s.dev.now := rfl

/-- The state after a good frame of the exchange, before the port acts on it. -/
theorem scHeard_valid {len : Nat} {h : ScHeader} {f : Dev → Dev} (hup : portUp s.dev p = true) (hv : scValid p h len = true) :
    scHeard p len (fun d => if !scValid p h len then bump 0x2107 7 d else f d) s.found =
      f (countGood p (frameLen (20 + len)) s.found) := by
  have hup : portUp s.found p = true := hup
  simp [scHeard, hup, hv]

theorem probeHeard_move (p : Port) (h : ScHeader) (d : Dev) :
    backOf (probeHeard p h d) p = { backOf d p with
      heard := some { ident := h.originator, probed := true, deadline := lossDeadline d true false }
      unanswered := 0, standardOnly := false, fast := false } := by
  unfold probeHeard
  rw [backOf_hearOn, backOf_onBack_self]
  unfold heardAs
  split <;> rfl

theorem lossDeadline_of_move {a b : Dev} (h : RoundMove a b) (probed fast : Bool) : lossDeadline b probed fast = lossDeadline a probed fast := by
  unfold lossDeadline
  rw [h.clock, h.cfg 0x2103 2 (by decide), h.cfg 0x2103 1 (by decide), h.cfg 0x2102 _ (by cases fast <;> decide)]

/-- A PROBE or PROBE_REPLY that reaches its port makes its originator the neighbour. -/
theorem backOf_probed (h : ScHeader) (len : Nat) (s : State) :
    backOf (probeHeard p h (countGood p len s.found)) p = { backOf s.dev p with
      heard := some { ident := h.originator, probed := true, deadline := s.dev.now + cfg s.dev 0x2103 2 * cfg s.dev 0x2103 1 * msNs }
      unanswered := 0, standardOnly := false, fast := false } := by
  have hm := countGood_move p len s.found
  rw [probeHeard_move, lossDeadline_of_move hm, hm.backOf]
  rfl

theorem probeHeard_chip (p : Port) (h : ScHeader) (d : Dev) : (probeHeard p h d).chip = d.chip := (hearOn_move _ _ _).chip

theorem probeHeard_scEnabled (p : Port) (h : ScHeader) (d : Dev) : scEnabled (probeHeard p h d) = scEnabled d :=
  (hearOn_move _ _ _).scEnabled

theorem probe_completes {h : ScHeader} (b : ProbeBody) (hup : portUp s.dev p = true) (hv : scValid p h 8 = true) :
    Completes (.probe p h b) s fun d =>
      backOf d p = { backOf s.dev p with
        heard := some { ident := h.originator, probed := true, deadline := s.dev.now + cfg s.dev 0x2103 2 * cfg s.dev 0x2103 1 * msNs }
        unanswered := 0, standardOnly := false, fast := false } ∧
      (scEnabled s.dev = true → ∃ round seq body, Out.springcount p s.dev.chip.ident round seq 0 0 false (.probeReply body) ∈ d.out) := by
  refine completes_of_exec (f := fun d => judgeSleep _) rfl ?_
  rw [scHeard_valid hup hv]
  generalize hm : probeHeard p h (countGood p (frameLen (20 + 8)) s.found) = m
  have hsends := createSc_move [p] (.probeReply (probeBody m p)) m
  refine ⟨?_, fun he => ⟨m.inaug.round, m.inaug.seq + 1, probeBody m p, ?_⟩⟩
  · rw [(judgeSleep_move _).backOf, hsends.backOf, ← hm, backOf_probed]
  · have hchip : m.chip = s.dev.chip := hm ▸ (probeHeard_chip _ _ _).trans (countGood_move _ _ s.found).chip
    have hsc : scEnabled m = true := by
      rw [← hm, probeHeard_scEnabled, (countGood_move _ _ s.found).scEnabled]; exact he
    exact judgeSleep_sent _ _ (hchip ▸ createSc_mem hsc (.head _) _)

theorem probeReply_completes {h : ScHeader} (b : ProbeBody) (hup : portUp s.dev p = true) (hv : scValid p h 8 = true) :
    Completes (.probeReply p h b) s fun d =>
      backOf d p = { backOf s.dev p with
        heard := some { ident := h.originator, probed := true, deadline := s.dev.now + cfg s.dev 0x2103 2 * cfg s.dev 0x2103 1 * msNs }
        unanswered := 0, standardOnly := false, fast := false } := by
  refine completes_of_exec (f := fun d => judgeSleep _) rfl ?_
  rw [scHeard_valid hup hv, (judgeSleep_move _).backOf, backOf_probed]

/-- What a HELLO of a sender in a TTDP mode does to the record of its port. -/
def helloHeard (p : Port) (sender : Word48) (fast : Bool) (d : Dev) : Dev :=
  let probed := (backOf d p).heard.any (fun n => decide (n.ident = sender) && n.probed)
  onBack p (fun b => { b with ttdpFast := fast })
    (hearOn p (some { ident := sender, probed := probed, deadline := lossDeadline d probed fast }) d)

theorem exec_hello (sender : Word48) (fast : Bool) (hb : isBackbone p = true) (s : State) :
    exec (.hello p sender fast) s =
      s.doesJudged (ttdpHeard p (Config.helloBody sender.toNat p.val fast false) (helloHeard p sender fast)) := by
  show execHello p sender fast s = _
  unfold execHello
  congr 2
  funext d
  rw [if_neg (by simp [hb])]
  unfold helloHeard
  generalize (backOf d p).heard = n
  cases n <;> rfl

theorem hello_completes (sender : Word48) (fast : Bool) (hb : isBackbone p = true) (hup : portUp s.dev p = true) :
    Completes (.hello p sender fast) s fun d =>
      (backOf d p).ttdpFast = fast ∧ (backOf d p).probeDue = (backOf s.dev p).probeDue ∧
        let probed := (backOf s.dev p).heard.any (fun n => decide (n.ident = sender) && n.probed)
        (backOf d p).heard = some { ident := sender, probed := probed, deadline := lossDeadline s.dev probed fast } := by
  refine completes_of_exec (f := fun d => judgeSleep _) (exec_hello sender fast hb s) ?_
  have hup : portUp s.found p = true := hup
  rw [ttdpHeard, if_pos hup]
  generalize frameLen _ = len
  have hm := countGood_move p len s.found
  unfold helloHeard
  dsimp only
  rw [(judgeSleep_move _).backOf, backOf_onBack_self, backOf_hearOn, lossDeadline_of_move hm, hm.backOf]
  exact ⟨rfl, heardAs_probeDue _ _ _, heardAs_heard _ _ _⟩

/-! ### Time (R71, R74, R75) -/

theorem cfg_arrive (t : Nat) (d : Dev) (idx sub : Nat) : cfg (arrive t d) idx sub = cfg d idx sub := by simp [cfg]

/-- A neighbour heard by HELLO only is judged standard-only after three unanswered PROBEs (R75). -/
def judgedStandard (b : BackPort) : Bool := !b.standardOnly && decide (3 ≤ b.unanswered) && b.heard.any (fun n => !n.probed)

/-- The judgement at a PROBE_REPEAT. -/
def judgeStandard (p : Port) (judged : Bool) (d : Dev) : Dev :=
  if judged then
    let x := onBack p (fun b => { b with standardOnly := true, fast := false }) d
    if sideStandard d (isRear p) then x else onChange .standardSeen [p] x
  else d

theorem judgeStandard_move (judged : Bool) (d : Dev) :
    RoundMove (onBack p (fun b => if judged then { b with standardOnly := true, fast := false } else b) d) (judgeStandard p judged d) := by
  cases judged
  · exact ⟨by simp [judgeStandard, InaugS.standing, vmod], rfl, rfl, .of_eq rfl, .of_same rfl⟩
  · exact RoundMove.ite (c := sideStandard d (isRear p) = true) (.refl _) (onChange_move _ _ _)

theorem exec_probeRepeat {t : Nat} (hb : isBackbone p = true) (hup : portUp s.dev p = true)
    (hdue : (backOf s.dev p).probeDue = some t) (he : scEnabled s.dev = true) :
    execProbeRepeat p s = s.doesJudged fun d => sendProbe p (judgeStandard p (judgedStandard (backOf d p)) (arrive t d)) := by
  unfold execProbeRepeat State.doesJudged
  refine does_congr (congrArg judgeSleep ?_)
  have hdue : (backOf s.found p).probeDue = some t := hdue
  have hgo : (!(isBackbone p && portUp s.found p && scEnabled s.found)) = false := by
    rw [hb, show portUp s.found p = true from hup, show scEnabled s.found = true from he]; rfl
  dsimp only
  rw [hdue]
  dsimp only
  rw [hgo]
  unfold judgeStandard judgedStandard
  generalize (backOf s.found p).heard = n
  cases n <;> simp

theorem backOf_sendProbe (p : Port) (d : Dev) : backOf (sendProbe p d) p = { backOf d p with
    unanswered := (backOf d p).unanswered + 1
    probeDue := some (d.now + (if (backOf d p).fast then 1 else cfg d 0x2103 1) * msNs) } := by
  have h := createSc_move [p] (.probe (probeBody d p)) d
  rw [sendProbe, backOf_onBack_self, h.backOf]

theorem probeRepeat_completes {t : Nat} (hb : isBackbone p = true) (hup : portUp s.dev p = true)
    (hdue : (backOf s.dev p).probeDue = some t) (he : scEnabled s.dev = true) : Completes (.probeRepeat p) s fun d =>
      let judged := (backOf s.dev p).standardOnly = false ∧ 3 ≤ (backOf s.dev p).unanswered ∧
        ∃ n, (backOf s.dev p).heard = some n ∧ n.probed = false
      (∃ round seq body, Out.springcount p s.dev.chip.ident round seq 0 0 false (.probe body) ∈ d.out) ∧
        d.now = max s.dev.now t ∧ (backOf d p).unanswered = (backOf s.dev p).unanswered + 1 ∧
        (backOf d p).probeDue = some (d.now + (if (backOf d p).fast then 1 else cfg s.dev 0x2103 1) * msNs) ∧
        ((backOf d p).standardOnly = true ↔ (backOf s.dev p).standardOnly = true ∨ judged) ∧
        ((backOf d p).fast = true ↔ (backOf s.dev p).fast = true ∧ ¬judged) := by
  have hjudged : judgedStandard (backOf s.dev p) = true ↔ (backOf s.dev p).standardOnly = false ∧
      3 ≤ (backOf s.dev p).unanswered ∧ ∃ n, (backOf s.dev p).heard = some n ∧ n.probed = false := by
    unfold judgedStandard
    cases (backOf s.dev p).heard <;> simp [and_assoc]
  refine completes_of_exec (f := fun d => judgeSleep _) (exec_probeRepeat hb hup hdue he) ?_
  intro judged
  replace hjudged : judgedStandard (backOf s.dev p) = true ↔ judged := hjudged
  clear_value judged
  have hb' : backOf s.found p = backOf s.dev p := rfl
  rw [hb', ← hjudged]
  generalize judgedStandard (backOf s.dev p) = j at *
  have harrive : backOf (arrive t s.found) p = backOf s.dev p := backOf_of_inaug (by simp; rfl) p
  have hm := judgeStandard_move (p := p) j (arrive t s.found)
  generalize hd2 : judgeStandard p j (arrive t s.found) = d2 at *
  have hback := hm.backOf p
  rw [backOf_onBack_self, harrive] at hback
  have hnow : d2.now = max s.dev.now t := hm.clock.trans (arrive_now t s.found)
  have hchip : d2.chip = s.dev.chip := hm.chip.trans (by simp; rfl)
  have hpace : cfg d2 0x2103 1 = cfg s.dev 0x2103 1 := (hm.cfg 0x2103 1 (by decide)).trans (cfg_arrive t s.found _ _)
  have hsc : scEnabled d2 = true := by
    rw [hm.scEnabled]
    show cfgB (arrive t s.found) 0x2100 1 = true
    rw [cfgB, cfg_arrive]; exact he
  have hend : (judgeSleep (sendProbe p d2)).now = d2.now :=
    (judgeSleep_move _).clock.trans (createSc_move [p] (.probe (probeBody d2 p)) d2).clock
  have hsent := createSc_mem hsc (.head _ : p ∈ [p]) (.probe (probeBody d2 p))
  rw [(judgeSleep_move _).backOf, backOf_sendProbe, hback, hpace, hend, hnow]
  refine ⟨⟨_, _, _, judgeSleep_sent _ _ (hchip ▸ hsent)⟩, rfl, ?_⟩
  cases j <;> simp

theorem backOf_sendHello (p : Port) (d : Dev) : (backOf (sendHello p d) p).helloDue =
    some (d.now + cfg d 0x2102 (if (backOf d p).ttdpFast then 3 else 1) * msNs) := by
  rw [sendHello, backOf_onBack_self]

theorem hello_sent (p : Port) (d : Dev) : Out.hello p (backOf d p).ttdpFast (cfgB d 0x2105 1) ∈ (sendHello p d).out := by
  have h := (sendOwn_move p 7 (ownFrame (emit (.hello p (backOf d p).ttdpFast (cfgB d 0x2105 1)) d) nearestBridge 0x88CC
    (Config.helloBody d.chip.ident.toNat p.val (backOf d p).ttdpFast (cfgB d 0x2105 1)))
    (emit (.hello p (backOf d p).ttdpFast (cfgB d 0x2105 1)) d)).sent
  exact h _ (emit_mem _ d)

theorem helloPeriod_completes {t : Nat} (hb : isBackbone p = true) (hup : portUp s.dev p = true)
    (hdue : (backOf s.dev p).helloDue = some t) : Completes (.helloPeriod p) s fun d =>
      Out.hello p (backOf s.dev p).ttdpFast (cfgB s.dev 0x2105 1) ∈ d.out ∧ d.now = max s.dev.now t ∧
        (backOf d p).helloDue = some (d.now + cfg s.dev 0x2102 (if (backOf s.dev p).ttdpFast then 3 else 1) * msNs) ∧
        Framed [.clock, .counters, .inaug, .out, .queues, .regs] s.found d := by
  have hrun : exec (.helloPeriod p) s = s.does fun d => sendHello p (arrive t d) := by
    show execHelloPeriod p s = _
    unfold execHelloPeriod
    refine does_congr ?_
    have hdue : (backOf s.found p).helloDue = some t := hdue
    rw [hdue]
    exact if_pos (by rw [hb, show portUp s.found p = true from hup]; rfl)
  refine completes_of_exec hrun ?_
  have harrive : backOf (arrive t s.found) p = backOf s.dev p := backOf_of_inaug (by simp; rfl) p
  have hframed := sendHello_framed p (arrive t s.found) (L := [.clock, .counters, .inaug, .out, .queues, .regs]) (by decide)
    (arrive_framed t s.found (by decide) (.refl _ _))
  have hnow : (sendHello p (arrive t s.found)).now = max s.dev.now t := by
    have h : Framed [.out, .regs, .inaug, .queues, .counters] (arrive t s.found) (sendHello p (arrive t s.found)) :=
      sendHello_framed p _ (fun _ h => h) (.refl _ _)
    exact (congrArg Prod.fst (h.same .clock (by decide))).trans (arrive_now t s.found)
  have hsent := hello_sent p (arrive t s.found)
  rw [harrive, cfgB, cfg_arrive] at hsent
  rw [backOf_sendHello, harrive, hnow, cfg_arrive, arrive_now]
  exact ⟨hsent, rfl, rfl, hframed⟩

/-- A neighbour that is not heard is lost at its deadline. -/
theorem heard_lost (p : Port) (t : Nat) (s : State) :
    (backOf (judgeSleep (hearOn p none (arrive t s.found))) p).heard = none ∧
      (judgeSleep (hearOn p none (arrive t s.found))).now = max s.dev.now t := by
  rw [(judgeSleep_move _).backOf, backOf_hearOn, heardAs_heard, (judgeSleep_move _).clock, hearOn_now, arrive_now]
  exact ⟨rfl, rfl⟩

theorem probeLoss_completes {n : Neighbour} (hb : isBackbone p = true) (hn : (backOf s.dev p).heard = some n) (hp : n.probed = true) :
    Completes (.probeLoss p) s fun d => (backOf d p).heard = none ∧ d.now = max s.dev.now n.deadline := by
  have hrun : exec (.probeLoss p) s = s.does fun d => judgeSleep (hearOn p none (arrive n.deadline d)) := by
    show execProbeLoss p s = _
    unfold execProbeLoss State.doesJudged
    refine does_congr (congrArg judgeSleep ?_)
    have hn : (backOf s.found p).heard = some n := hn
    dsimp only
    rw [hn]
    exact if_pos (by rw [hb, hp]; rfl)
  exact completes_of_exec hrun (heard_lost p n.deadline s)

theorem helloTimeout_completes {n : Neighbour} (hb : isBackbone p = true) (hn : (backOf s.dev p).heard = some n)
    (hp : n.probed = false) :
    Completes (.helloTimeout p) s fun d => (backOf d p).heard = none ∧ d.now = max s.dev.now n.deadline := by
  have hrun : exec (.helloTimeout p) s = s.does fun d => judgeSleep (hearOn p none (arrive n.deadline d)) := by
    show execHelloTimeout p s = _
    unfold execHelloTimeout State.doesJudged
    refine does_congr (congrArg judgeSleep ?_)
    have hn : (backOf s.found p).heard = some n := hn
    dsimp only
    rw [hn]
    exact if_pos (by rw [hb, hp]; rfl)
  exact completes_of_exec hrun (heard_lost p n.deadline s)

/-! ### Frames with a bad header (R73, R82) -/

/-- A frame with a bad header on an Up port counts in 0x2107:07 and as a good frame, and changes nothing of the exchange. -/
theorem dropSc_counted (len : Nat) (hup : portUp s.dev p = true) :
    cfg (dropSc p len s.found) 0x2107 7 = min 0xFFFFFFFF (cfg s.dev 0x2107 7 + 1) ∧
      (dropSc p len s.found).inaug = s.dev.inaug ∧ FrameCounted s.dev (dropSc p len s.found) p (frameLen (20 + len)) ∧
      Framed (.sleep :: eventParts) s.found (dropSc p len s.found) := by
  have hf := dropSc_framed p len s.found
  refine ⟨dropSc_counts (d := s.found) hup len, hf.same .inaug (by decide), ?_, hf.mono (by decide)⟩
  have hc := countGood_counted p (show 0 < frameLen (20 + len) by unfold frameLen; omega) s.found
  have hd : dropSc p len s.found = bump 0x2107 7 (countGood p (frameLen (20 + len)) s.found) := if_pos hup
  have hne : ∀ sub, sub < 0x100 → odKey (0x2300 + p.val) sub ≠ odKey 0x2107 7 := fun sub hs => by unfold odKey; omega
  rw [hd]
  exact ⟨(cfg_bump_ne _ _ _ _ _ (hne _ (by decide))).trans hc.1, (cfg_bump_ne _ _ _ _ _ (hne _ (by decide))).trans hc.2⟩

theorem dropSc_counted_judged (len : Nat) (hup : portUp s.dev p = true) :
    cfg (judgeSleep (dropSc p len s.found)) 0x2107 7 = min 0xFFFFFFFF (cfg s.dev 0x2107 7 + 1) ∧
      (judgeSleep (dropSc p len s.found)).inaug = s.dev.inaug ∧
      FrameCounted s.dev (judgeSleep (dropSc p len s.found)) p (frameLen (20 + len)) ∧
      Framed (.sleep :: eventParts) s.found (judgeSleep (dropSc p len s.found)) := by
  obtain ⟨hcount, hinaug, ⟨hframes, hbytes⟩, hframed⟩ := dropSc_counted len hup
  have hregs := (judgeSleep_recordsOnly (dropSc p len s.found)).1
  have hj := judgeSleep_framed (L := .sleep :: eventParts) (dropSc p len s.found) (by decide) hframed
  have hsame : Framed [.out, .regs, .recd, .sleep, .ints, .counters] (dropSc p len s.found) (judgeSleep (dropSc p len s.found)) :=
    judgeSleep_framed _ (fun _ h => h) (.refl _ _)
  have hne : ∀ q : Port, ∀ r ∈ eventCounters, odKey r.1 r.2 ≠ odKey (0x2300 + q.val) 0x23 ∧
      odKey r.1 r.2 ≠ odKey (0x2300 + q.val) 0x24 := by decide +kernel
  exact ⟨(hregs.cfg 0x2107 7 (by decide)).trans hcount, (hsame.same .inaug (by decide)).trans hinaug,
    ⟨(hregs.cfg _ _ fun r hr => (hne p r hr).1).trans hframes, (hregs.cfg _ _ fun r hr => (hne p r hr).2).trans hbytes⟩, hj⟩

theorem scValid_or (h : ScHeader) (b : CommitFrame) (hv : scValid p h (20 + 12 * b.body.nodes.toNat) = false) :
    exec (.springcountCommit p h b) s = s.doesJudged (dropSc p (20 + 12 * b.body.nodes.toNat)) := by
  show execSpringcountCommit p h b s = _
  unfold execSpringcountCommit
  refine congrArg s.doesJudged (funext fun d => ?_)
  split
  · exact congrFun (scHeard_of_invalid hv _) d
  · rw [takeSc_of_invalid hv]
    simp [onlyIf, hv]

end exchange

/-- Settles O25: a frame of a neighbour renews its record, time without one loses it, and a bad header only counts. -/
theorem neighboursAreHeardAndLost : Obligations.NeighboursAreHeardAndLost := by
  intro s p
  refine ⟨fun hb hup => ⟨?_, fun sender fast => hello_completes sender fast hb hup,
    fun t hdue he => probeRepeat_completes hb hup hdue he, fun t hdue => helloPeriod_completes hb hup hdue⟩, ?_, ?_⟩
  · intro h b hv heard
    exact ⟨probeReply_completes b hup hv, probe_completes b hup hv⟩
  · intro n hb hn lost
    exact ⟨probeLoss_completes hb hn, helloTimeout_completes hb hn⟩
  intro h hup counted counts
  have hj : ∀ {c : Instr} {len : Nat}, exec c s = s.doesJudged (dropSc p len) → Completes c s (counted len) := fun he =>
    completes_of_exec he (dropSc_counted_judged _ hup)
  have hn : ∀ {c : Instr} {len : Nat}, exec c s = s.does (dropSc p len) → Completes c s (counted len) := fun he =>
    completes_of_exec he (dropSc_counted _ hup)
  refine ⟨fun b => ⟨fun hv => hj (congrArg s.doesJudged (scHeard_of_invalid hv _)),
      fun hv => hj (congrArg s.doesJudged (scHeard_of_invalid hv _))⟩,
    fun low hv => hj (congrArg s.doesJudged (takeSc_of_invalid hv _ _ _)),
    fun hv => hj (congrArg s.doesJudged (takeSc_of_invalid hv _ _ _)),
    fun recs hv => hj (congrArg s.doesJudged (takeSc_of_invalid hv _ _ _)),
    fun b ids hv => hj (scValid_or h ⟨b, ids⟩ hv),
    fun count epoch hv => hj (congrArg s.doesJudged (takeSc_of_invalid hv _ _ _)),
    fun cause epoch hv => hj (congrArg s.doesJudged (takeSc_of_invalid hv _ _ _)),
    fun epoch hv => hn (congrArg s.does (takeSc_of_invalid hv _ _ _)),
    fun inhibit epoch hv => hj (congrArg s.doesJudged (takeSc_of_invalid hv _ _ _)),
    fun hbad primary epoch partner => hn ?_⟩
  refine does_congr (?_ : scHeard p 10 _ s.found = scHeard p 10 (bump 0x2107 7) s.found)
  have htwin : ∀ len, twinPort (countGood p len s.found) = twinPort s.dev := fun len => countGood_twinPort p len s.found
  rcases hbad with hport | hheader
  · simp [scHeard, htwin, hport]
  · simp [scHeard, hheader]

end Sys2Proof.Machine
end

section
/-! PROOF. Inhibit, the leading request and redundant pairs (R103 to R106, R112). -/

namespace Sys2Proof.Machine

/-! ### An answer takes nothing back -/

theorem sendKda_sent (peer : KdaPeer) (key : Option (List Byte)) (session seq : BitVec 32) (opcode : Nat) (payload : List Byte) (d : Dev) :
    Sent d (sendKda peer key session seq opcode payload d) := by
  unfold sendKda
  exact .ite ((emit_sent _ d).trans (sendOwn_move _ _ _ _).sent) (emit_sent _ d)

theorem answer_sent (src : Src) (rs : Resp) (d : Dev) : Sent d (answer src rs d) := by
  have hbox : ∀ path, Sent d (answerMailbox path src rs d) := fun path => by
    unfold answerMailbox
    have hmail : ∀ f, (onMailbox path f d).out = d.out := fun f => by cases path <;> rfl
    exact .ite (.of_eq (hmail _)) (.ite (.refl d) (((setInt_sent _ _).after (hmail _)).trans (emit_sent _ _)))
  cases src with
  | sdo c =>
    have hidle : Sent d (sdoIdle c d) := .of_eq rfl
    refine .ite (hidle.trans (.trans (fun _ h => List.mem_append_left _ h) (emit_sent _ _))) (hidle.trans ?_)
    exact .trans (fun _ h => List.mem_append_left _ h) (emit_sent _ _)
  | kda id seq =>
    unfold answer
    dsimp only
    split
    · exact (sendKda_sent _ _ _ _ _ _ _).after rfl
    · exact .refl d
  | pcie => exact hbox .pcie
  | serial => exact hbox .serial

/-- In a canonical store a register reads what was written last, its default too. -/
theorem cfg_setReg_wf (idx sub v : Nat) (d : Dev) (h : Store.wf odDefault d.dict.od = true) : cfg (setReg idx sub v d) idx sub = v := by
  simp only [cfg, setReg, DictS.reg, DictS.setReg]
  rw [Store.find_put_self _ _ _ h]
  rfl

/-! ### A frame of a flooded kind that the node takes (R73, R81, R85) -/

section taken

variable {s : State} {kind : Nat} {p : Port} {h : ScHeader} {len : Nat}

/-- The device on which the node takes a frame. -/
def takenSc (kind : Nat) (p : Port) (h : ScHeader) (len : Nat) (d : Dev) : Dev :=
  onInaug (fun i => { i with seen := (⟨scKey kind h, d.now, h.laneB⟩ :: i.seen).take 4096 }) (countGood p (frameLen (20 + len)) d)

theorem takenSc_move (kind : Nat) (p : Port) (h : ScHeader) (len : Nat) (d : Dev) : RoundMove d (takenSc kind p h len d) :=
  (countGood_move p (frameLen (20 + len)) d).trans (onInaug_move rfl)

theorem countGood_inaug (p : Port) (len : Nat) (d : Dev) : (countGood p len d).inaug = d.inaug :=
  (countGood_framed (L := [.regs, .counters]) p len d (fun _ h => h) (.refl _ _)).same .inaug (by decide)

theorem countGood_ports (p : Port) (len : Nat) (d : Dev) : (countGood p len d).ports = d.ports :=
  (countGood_framed (L := [.regs, .counters]) p len d (fun _ h => h) (.refl _ _)).same .ports (by decide)

theorem countGood_now (p : Port) (len : Nat) (d : Dev) : (countGood p len d).now = d.now := (countGood_move p len d).clock

/-- A frame that is taken and wanted comes to its effect. -/
theorem takeSc_taken (ht : TakesSc s.dev kind p h len) {wanted : Dev → Bool} {f : Dev → Dev}
    (hw : wanted (countGood p (frameLen (20 + len)) s.found) = true) :
    takeSc kind p h len wanted f s.found = f (takenSc kind p h len s.found) := by
  obtain ⟨hup, hv, he, hstate, hseen, hround⟩ := ht
  have hi := countGood_inaug p (frameLen (20 + len)) s.found
  have hc : scEnabled (countGood p (frameLen (20 + len)) s.found) = true := by
    rw [(countGood_move p _ s.found).scEnabled]; exact he
  have hnew : (s.found.inaug.seen.any fun x => x.key = scKey kind h) = false := by
    rw [List.any_eq_false]
    exact fun x hx => by simpa using hseen x hx
  have hst : decide (s.found.inaug.state = InState.unnumbered) = false := decide_eq_false hstate
  have hrd : roundHigher s.found.inaug.round h.round = false := hround
  rw [takeSc, scHeard_valid hup hv, hc, hi, hst, hrd, hw, hnew]
  simp only [Bool.not_true, Bool.or_self, Bool.false_eq_true, if_false]
  rw [countGood_now]
  rfl

theorem takenSc_inaug (kind : Nat) (p : Port) (h : ScHeader) (len : Nat) (d : Dev) : (takenSc kind p h len d).inaug =
    { d.inaug with seen := (⟨scKey kind h, d.now, h.laneB⟩ :: d.inaug.seen).take 4096 } := by
  rw [takenSc, onInaug_inaug, countGood_inaug]

theorem takenSc_ports (kind : Nat) (p : Port) (h : ScHeader) (len : Nat) (d : Dev) : (takenSc kind p h len d).ports = d.ports :=
  countGood_ports p (frameLen (20 + len)) d

theorem upPorts_of_ports {a b : Dev} (h : b.ports = a.ports) (rear : Bool) : upPorts b rear = upPorts a rear := by
  have hup : portUp b = portUp a := funext fun p => by rw [portUp, h, portUp]
  rw [upPorts, hup, upPorts]

/-- What passes on leaves on every Up port of the side. -/
theorem passSc_passes {d : Dev} (he : scEnabled d = true) (rear : Bool) (h : ScHeader) (b : ScBody) :
    PassesSc (passSc rear h h.more b d) (upPorts d rear) h b := fun _ hq => sendSc_mem he hq _ _ _ _ _ _ _

theorem PassesSc.sent {a b : Dev} {ports : List Port} {body : ScBody} (hp : PassesSc a ports h body) (hs : Sent a b) :
    PassesSc b ports h body := fun q hq => hs _ (hp q hq)

/-- What the node creates leaves on every port named. -/
theorem createSc_sends {d : Dev} (he : scEnabled d = true) (ports : List Port) (b : ScBody) :
    SendsSc (createSc ports b d) ports d.inaug.round b := fun q hq => by
  rw [(createSc_move ports b d).chip]
  exact ⟨_, createSc_mem he hq b⟩

theorem SendsSc.move {a b : Dev} {ports : List Port} {round : BitVec 16} {body : ScBody} (hp : SendsSc a ports round body)
    (hm : RoundMove a b) : SendsSc b ports round body := fun q hq => by
  obtain ⟨seq, hseq⟩ := hp q hq
  exact ⟨seq, hm.sent _ (hm.chip ▸ hseq)⟩

end taken

/-! ### Sending leaves the engine as it was but for the sequence number -/

theorem sendSc_inaug (ports : List Port) (orig : Word48) (round seq : BitVec 16) (segment hops : Nat) (more : Bool) (b : ScBody) (d : Dev) :
    (sendSc ports orig round seq segment hops more b d).inaug = d.inaug :=
  (sendSc_framed (L := [.out, .regs, .queues, .counters]) ports orig round seq segment hops more b d (fun _ h => h) (.refl _ _)).same
    .inaug (by decide)

@[simp] theorem createSc_inaug (ports : List Port) (b : ScBody) (d : Dev) :
    (createSc ports b d).inaug = { d.inaug with seq := d.inaug.seq + 1 } := sendSc_inaug _ _ _ _ _ _ _ _ _

@[simp] theorem passSc_inaug (rear : Bool) (h : ScHeader) (more : Bool) (b : ScBody) (d : Dev) :
    (passSc rear h more b d).inaug = d.inaug := sendSc_inaug _ _ _ _ _ _ _ _ _

/-! ### The set of requesters (R103) -/

section requesters

variable {d : Dev} {who : Word48}

theorem RoundMove.requesters {a b : Dev} (h : RoundMove a b) : b.inaug.requesters = a.inaug.requesters :=
  congrArg (fun t => t.2.2.1) h.standing

theorem RoundMove.stateDue {a b : Dev} (h : RoundMove a b) : b.inaug.stateDue = a.inaug.stateDue :=
  congrArg (fun t => t.2.2.2.2) h.standing

theorem RoundMove.ttdpInhibit {a b : Dev} (h : RoundMove a b) : b.inaug.ttdpInhibit = a.inaug.ttdpInhibit :=
  congrArg (fun t => t.2.2.2.1) h.standing

theorem RoundMove.numbering {a b : Dev} (h : RoundMove a b) : b.inaug.now = a.inaug.now := congrArg (fun t => t.2.1) h.standing

/-- The requesters without one of them. -/
def othersThan (who : Word48) (d : Dev) : List (Word48 × Option Nat) := d.inaug.requesters.filter (fun x => x.1 ≠ who)

theorem othersThan_le (who : Word48) (d : Dev) : (othersThan who d).length ≤ d.inaug.requesters.length := List.length_filter_le _ _

theorem addRequester_room (expiry : Option Nat) (h : (othersThan who d).length < d.inaug.requesters.length ∨ d.inaug.requesters.length < 128) :
    addRequester who expiry d = onInaug (fun i => { i with requesters := othersThan who d ++ [(who, expiry)] }) d := by
  have hle := othersThan_le who d
  unfold addRequester
  refine if_neg ?_
  show ¬ (decide ((othersThan who d).length = _) && decide (128 ≤ (othersThan who d).length)) = true
  simp only [Bool.and_eq_true, decide_eq_true_eq]
  omega

theorem addRequester_full (expiry : Option Nat) (h : (othersThan who d).length = d.inaug.requesters.length)
    (hmax : 128 ≤ d.inaug.requesters.length) : addRequester who expiry d = bump 0x2105 5 d := by
  unfold addRequester
  refine if_pos ?_
  show (decide ((othersThan who d).length = _) && decide (128 ≤ (othersThan who d).length)) = true
  simp [h, hmax]

theorem addRequester_sent (who : Word48) (expiry : Option Nat) (d : Dev) : Sent d (addRequester who expiry d) :=
  .ite (.of_eq (by simp)) (.of_eq rfl)

theorem addRequester_cfg (who : Word48) (expiry : Option Nat) (d : Dev) {idx sub : Nat} (h : odKey idx sub ≠ odKey 0x2105 5) :
    cfg (addRequester who expiry d) idx sub = cfg d idx sub := by
  unfold addRequester
  dsimp only
  split
  · exact cfg_bump_ne _ _ _ _ _ h
  · rfl

theorem addRequester_stateDue (who : Word48) (expiry : Option Nat) (d : Dev) :
    (addRequester who expiry d).inaug.stateDue = d.inaug.stateDue := by
  unfold addRequester
  dsimp only
  split <;> simp

theorem removeRequester_move (who : Word48) (d : Dev) :
    RoundMove (onInaug (fun i => { i with requesters := othersThan who d }) d) (removeRequester who d) := inhibitEnded_move _

end requesters


/-! ### The statement, clause by clause -/

section clauses

variable {s : State} {p : Port} {h : ScHeader}

theorem passSc_ports (rear : Bool) (h : ScHeader) (more : Bool) (b : ScBody) (d : Dev) : (passSc rear h more b d).ports = d.ports :=
  (passSc_framed (L := [.out, .regs, .queues, .counters]) rear h more b d (fun _ h => h) (.refl _ _)).same .ports (by decide)

/-- The device on which a STATE frame has been taken and passed on. -/
def statePassed (p : Port) (h : ScHeader) (inhibit : Bool) (epoch : BitVec 16) (d : Dev) : Dev :=
  passSc (!isRear p) h h.more (.state inhibit epoch.toNat) (takenSc 0x0A p h 3 d)

theorem statePassed_move (p : Port) (h : ScHeader) (inhibit : Bool) (epoch : BitVec 16) (d : Dev) :
    RoundMove d (statePassed p h inhibit epoch d) := (takenSc_move 0x0A p h 3 d).trans (passSc_move _ _ _ _ _)

theorem exec_state {inhibit : Bool} {epoch : BitVec 16} (ht : TakesSc s.dev 0x0A p h 3) :
    exec (.state p h inhibit epoch) s = s.does fun d => judgeSleep (if inhibit then
      addRequester h.originator (some (s.dev.now + 500 * msNs)) (statePassed p h inhibit epoch d)
      else removeRequester h.originator (statePassed p h inhibit epoch d)) := by
  show execState p h inhibit epoch s = _
  unfold execState State.doesJudged
  refine does_congr (congrArg judgeSleep ?_)
  rw [takeSc_taken ht rfl]
  dsimp only
  rw [(takenSc_move 0x0A p h 3 s.found).clock]
  rfl

theorem statePassed_passes (inhibit : Bool) (epoch : BitVec 16) (ht : TakesSc s.dev 0x0A p h 3) :
    PassesSc (statePassed p h inhibit epoch s.found) (upPorts s.dev (!isRear p)) h (.state inhibit epoch.toNat) := by
  have hm := takenSc_move 0x0A p h 3 s.found
  have hp := passSc_passes (d := takenSc 0x0A p h 3 s.found) (hm.scEnabled.trans ht.2.2.1) (!isRear p) h (.state inhibit epoch.toNat)
  rwa [upPorts_of_ports (takenSc_ports 0x0A p h 3 s.found)] at hp

theorem othersThan_move {a b : Dev} (h : RoundMove a b) (who : Word48) : othersThan who b = othersThan who a := by
  rw [othersThan, h.requesters, othersThan]

theorem state_set (epoch : BitVec 16) (ht : TakesSc s.dev 0x0A p h 3)
    (hroom : (othersThan h.originator s.dev).length < s.dev.inaug.requesters.length ∨ s.dev.inaug.requesters.length < 128) :
    Completes (.state p h true epoch) s fun d =>
      d.inaug.requesters = othersThan h.originator s.dev ++ [(h.originator, some (s.dev.now + 500 * msNs))] ∧
        PassesSc d (upPorts s.dev (!isRear p)) h (.state true epoch.toNat) := by
  refine completes_of_exec (exec_state ht) ?_
  have hm := statePassed_move p h true epoch s.found
  have hpass := statePassed_passes true epoch ht
  generalize statePassed p h true epoch s.found = d at *
  have hothers : othersThan h.originator d = othersThan h.originator s.dev := othersThan_move hm _
  rw [if_pos rfl, addRequester_room _ (by rw [hothers, hm.requesters]; exact hroom), hothers]
  exact ⟨(judgeSleep_move _).requesters, hpass.sent ((judgeSleep_move _).sent.after rfl)⟩

theorem state_full (epoch : BitVec 16) (ht : TakesSc s.dev 0x0A p h 3)
    (hsame : (othersThan h.originator s.dev).length = s.dev.inaug.requesters.length) (hmax : 128 ≤ s.dev.inaug.requesters.length) :
    Completes (.state p h true epoch) s fun d => d.inaug.requesters = s.dev.inaug.requesters ∧
      cfg d 0x2105 5 = min 0xFFFFFFFF (cfg s.dev 0x2105 5 + 1) := by
  refine completes_of_exec (exec_state ht) ?_
  have hm := statePassed_move p h true epoch s.found
  generalize statePassed p h true epoch s.found = d at *
  have hothers : othersThan h.originator d = othersThan h.originator s.dev := othersThan_move hm _
  rw [if_pos rfl, addRequester_full _ (by rw [hothers, hm.requesters]; exact hsame) (by rw [hm.requesters]; exact hmax)]
  refine ⟨(judgeSleep_move _).requesters.trans (by rw [bump_inaug]; exact hm.requesters), ?_⟩
  rw [(judgeSleep_move _).cfg 0x2105 5 (by decide), cfg_bump_self _ _ _ (by decide +kernel), hm.cfg 0x2105 5 (by decide)]
  rfl

theorem state_clear (epoch : BitVec 16) (ht : TakesSc s.dev 0x0A p h 3) : Completes (.state p h false epoch) s fun d =>
    d.inaug.requesters = othersThan h.originator s.dev ∧ PassesSc d (upPorts s.dev (!isRear p)) h (.state false epoch.toNat) := by
  refine completes_of_exec (exec_state ht) ?_
  have hm := statePassed_move p h false epoch s.found
  have hpass := statePassed_passes false epoch ht
  generalize statePassed p h false epoch s.found = d at *
  have hothers : othersThan h.originator d = othersThan h.originator s.dev := othersThan_move hm _
  have hr := removeRequester_move h.originator d
  have hj := judgeSleep_move (removeRequester h.originator d)
  exact ⟨(hj.requesters.trans hr.requesters).trans hothers, hpass.sent (.trans (.after hr.sent rfl) hj.sent)⟩

theorem stateSilence_completes {who : Word48} {t : Nat}
    (hf : s.dev.inaug.requesters.find? (fun x => x.1 = who) = some (who, some t)) : Completes (.stateSilence who) s fun d =>
      d.inaug.requesters = othersThan who s.dev ∧ d.now = max s.dev.now t := by
  have hrun : exec (.stateSilence who) s = s.does fun d => judgeSleep (removeRequester who (arrive t d)) := by
    show execStateSilence who s = _
    unfold execStateSilence State.doesJudged
    refine does_congr (congrArg judgeSleep ?_)
    have hf : s.found.inaug.requesters.find? (fun x => x.1 = who) = some (who, some t) := hf
    dsimp only
    rw [hf]
    rfl
  refine completes_of_exec hrun ?_
  have hr := removeRequester_move who (arrive t s.found)
  have hj := judgeSleep_move (removeRequester who (arrive t s.found))
  refine ⟨(hj.requesters.trans hr.requesters).trans ?_, (hj.clock.trans hr.clock).trans (arrive_now t s.found)⟩
  show othersThan who (arrive t s.found) = othersThan who s.dev
  rw [othersThan, arrive_inaug]
  rfl

theorem arrive_scEnabled (t : Nat) (d : Dev) : scEnabled (arrive t d) = scEnabled d := by
  simp only [scEnabled, cfgB, cfg_arrive]

theorem sendState_move (d : Dev) : RoundMove d (sendState d) := createSc_move _ _ d

theorem sendState_sends {d : Dev} (he : scEnabled d = true) :
    SendsSc (sendState d) (bothSides d) d.inaug.round (.state (cfgB d 0x2105 1) d.inaug.now.epoch) := createSc_sends he _ _

theorem bothSides_of_ports {a b : Dev} (h : b.ports = a.ports) : bothSides b = bothSides a := by
  simp only [bothSides, upPorts_of_ports h]

/-- The next STATE frame is planned at a moment. -/
def stateDueAt (t : Nat) (d : Dev) : Dev := onInaug (fun i => { i with stateDue := some ((arrive t d).now + 100 * msNs) }) (arrive t d)

theorem stateRepeat_completes {t : Nat} (hdue : s.dev.inaug.stateDue = some t) : Completes .stateRepeat s fun d =>
    d.now = max s.dev.now t ∧ d.inaug.stateDue = some (d.now + 100 * msNs) ∧
      (scEnabled s.dev = true → SendsSc d (bothSides s.dev) s.dev.inaug.round (.state (cfgB s.dev 0x2105 1) s.dev.inaug.now.epoch)) ∧
      Framed [.clock, .counters, .inaug, .regs, .out, .queues] s.found d := by
  have hrun : exec .stateRepeat s = s.does fun d => addRequester d.chip.ident none (sendState (stateDueAt t d)) := by
    show execStateRepeat s = _
    unfold execStateRepeat
    refine does_congr ?_
    have hdue : s.found.inaug.stateDue = some t := hdue
    dsimp only
    rw [hdue]
    rfl
  refine completes_of_exec hrun ?_
  have hm := sendState_move (stateDueAt t s.found)
  have hf : Framed [.regs, .inaug] (sendState (stateDueAt t s.found)) (addRequester s.found.chip.ident none (sendState (stateDueAt t s.found))) :=
    addRequester_framed _ _ _ (fun _ h => h) (.refl _ _)
  have hnow : (addRequester s.found.chip.ident none (sendState (stateDueAt t s.found))).now = max s.dev.now t :=
    (congrArg Prod.fst (hf.same .clock (by decide))).trans (hm.clock.trans (arrive_now t s.found))
  refine ⟨hnow, ?_, fun he => ?_, ?_⟩
  · rw [addRequester_stateDue, hm.stateDue, hnow]
    show some ((arrive t s.found).now + _) = _
    rw [arrive_now]
    rfl
  · have hs := sendState_sends (d := stateDueAt t s.found) ((arrive_scEnabled t s.found).trans he)
    have hports : (stateDueAt t s.found).ports = s.dev.ports := by simp [stateDueAt]; rfl
    have hround : (stateDueAt t s.found).inaug.round = s.dev.inaug.round := by simp [stateDueAt]; rfl
    have hepoch : (stateDueAt t s.found).inaug.now.epoch = s.dev.inaug.now.epoch := by simp [stateDueAt]; rfl
    have hown : cfgB (stateDueAt t s.found) 0x2105 1 = cfgB s.dev 0x2105 1 := congrArg (fun n => decide (n ≠ 0)) (cfg_arrive t s.found 0x2105 1)
    rw [bothSides_of_ports hports, hround, hepoch, hown] at hs
    intro q hq
    obtain ⟨seq, hseq⟩ := hs q hq
    rw [show (addRequester s.found.chip.ident none (sendState (stateDueAt t s.found))).chip = (sendState (stateDueAt t s.found)).chip from
      hf.same .chip (by decide)]
    exact ⟨seq, addRequester_sent _ _ _ _ hseq⟩
  · exact addRequester_framed _ _ _ (by decide) (sendState_framed _ (by decide)
      (onInaug_framed _ _ (by decide) (arrive_framed _ _ (by decide) (.refl _ _))))

theorem topology_completes (sender : Word48) (topo : BitVec 32) (inhibit : Bool) (hb : isBackbone p = true) (hup : portUp s.dev p = true) :
    Completes (.topology p sender topo inhibit) s fun d =>
      d.inaug.ttdpInhibit = inhibit ∧ d.inaug.requesters = s.dev.inaug.requesters := by
  refine completes_of_exec (f := fun d => judgeSleep _) rfl ?_
  have hup : portUp s.found p = true := hup
  rw [ttdpHeard, if_pos hup, if_neg (by simp [hb])]
  generalize frameLen _ = len
  have he := inhibitEnded_move (onInaug (fun i => { i with ttdpInhibit := inhibit }) (countGood p len s.found))
  have hj := judgeSleep_move (inhibitEnded (onInaug (fun i => { i with ttdpInhibit := inhibit }) (countGood p len s.found)))
  exact ⟨hj.ttdpInhibit.trans he.ttdpInhibit, (hj.requesters.trans he.requesters).trans (countGood_move p len s.found).requesters⟩

/-- The effect of a new inhibit request of the node's own. -/
theorem setInhibit_of_ne {on : Bool} {d : Dev} (h : cfgB d 0x2105 1 ≠ on) : setInhibit on d =
    judgeSleep (if on then addRequester d.chip.ident none (onInaug (fun i => { i with stateDue := some (d.now + 100 * msNs) })
        (sendState (setReg 0x2105 1 1 d)))
      else removeRequester d.chip.ident (onInaug (fun i => { i with stateDue := none }) (sendState (setReg 0x2105 1 0 d)))) := by
  unfold setInhibit
  rw [if_neg h]
  cases on <;> rfl

theorem cfg_onInaug (f : InaugS → InaugS) (d : Dev) (idx sub : Nat) : cfg (onInaug f d) idx sub = cfg d idx sub := rfl

/-- The register of the node's own request holds what was asked for. -/
theorem cfgB_setInhibit (on : Bool) {d : Dev} (hwf : Store.wf odDefault d.dict.od = true) : cfgB (setInhibit on d) 0x2105 1 = on := by
  by_cases h : cfgB d 0x2105 1 = on
  · rw [setInhibit, if_pos h]
    exact h
  · rw [setInhibit_of_ne h, cfgB, (judgeSleep_move _).cfg 0x2105 1 (by decide)]
    have hset : ∀ v, cfg (sendState (setReg 0x2105 1 v d)) 0x2105 1 = v := fun v => by
      rw [(sendState_move _).cfg 0x2105 1 (by decide)]
      exact cfg_setReg_wf _ _ _ _ hwf
    cases on
    · rw [if_neg (by decide), (removeRequester_move _ _).cfg 0x2105 1 (by decide), cfg_onInaug, cfg_onInaug, hset]
      rfl
    · rw [if_pos rfl, addRequester_cfg _ _ _ (by decide), cfg_onInaug, hset]
      rfl

theorem setInhibit_on {d : Dev} (h : cfg d 0x2105 1 = 0) :
    (setInhibit true d).inaug.stateDue = some (d.now + 100 * msNs) ∧
      (d.inaug.requesters.length < 128 → (d.chip.ident, none) ∈ (setInhibit true d).inaug.requesters) ∧
      (scEnabled d = true → SendsSc (setInhibit true d) (bothSides d) d.inaug.round (.state true d.inaug.now.epoch)) := by
  have hne : cfgB d 0x2105 1 ≠ true := by simp [cfgB, h]
  rw [setInhibit_of_ne hne, if_pos rfl]
  have hm := sendState_move (setReg 0x2105 1 1 d)
  have hs : scEnabled d = true → SendsSc (sendState (setReg 0x2105 1 1 d)) (bothSides d) d.inaug.round (.state true d.inaug.now.epoch) := by
    intro he
    have he' : scEnabled (setReg 0x2105 1 1 d) = true := by
      rw [scEnabled, cfgB, cfg_setReg_ne _ _ _ _ _ _ (by decide)]; exact he
    have hon : cfgB (setReg 0x2105 1 1 d) 0x2105 1 = true :=
      congrArg (fun n => decide (n ≠ 0)) (cfg_setReg_self 0x2105 1 1 d (by decide +kernel))
    have := sendState_sends he'
    rwa [hon, bothSides_of_ports (a := d) (by simp), setReg_inaug] at this
  generalize sendState (setReg 0x2105 1 1 d) = e at *
  have hj := judgeSleep_move (addRequester d.chip.ident none (onInaug (fun i => { i with stateDue := some (d.now + 100 * msNs) }) e))
  have hreq : e.inaug.requesters = d.inaug.requesters := hm.requesters.trans (by simp)
  have hadd := addRequester_framed (L := [.regs, .inaug]) d.chip.ident none
    (onInaug (fun i => { i with stateDue := some (d.now + 100 * msNs) }) e) (fun _ h => h) (.refl _ _)
  refine ⟨?_, fun hlen => ?_, fun he q hq => ?_⟩
  · rw [hj.stateDue, addRequester_stateDue, onInaug_inaug]
  · rw [hj.requesters, addRequester_room _ (.inr (by rw [onInaug_inaug, hreq]; exact hlen))]
    exact List.mem_append_right _ (.head _)
  · obtain ⟨seq, hseq⟩ := hs he q hq
    refine ⟨seq, hj.sent _ (addRequester_sent _ _ _ _ ?_)⟩
    rwa [hj.chip, show (addRequester d.chip.ident none (onInaug _ e)).chip = e.chip from hadd.same .chip (by decide)]

theorem setInhibit_off {d : Dev} (h : cfg d 0x2105 1 = 1) :
    (setInhibit false d).inaug.stateDue = none ∧ (setInhibit false d).inaug.requesters = othersThan d.chip.ident d := by
  have hne : cfgB d 0x2105 1 ≠ false := by simp [cfgB, h]
  rw [setInhibit_of_ne hne, if_neg (by decide)]
  have hm := sendState_move (setReg 0x2105 1 0 d)
  generalize sendState (setReg 0x2105 1 0 d) = e at *
  have hr := removeRequester_move d.chip.ident (onInaug (fun i => { i with stateDue := none }) e)
  have hj := judgeSleep_move (removeRequester d.chip.ident (onInaug (fun i => { i with stateDue := none }) e))
  refine ⟨hj.stateDue.trans hr.stateDue, (hj.requesters.trans hr.requesters).trans ?_⟩
  show othersThan d.chip.ident (onInaug (fun i => { i with stateDue := none }) e) = _
  rw [othersThan, onInaug_inaug, hm.requesters, setReg_inaug, othersThan]

/-- An immediate write of a number whose act changes no path: the act on the device reached, then the answer. -/
theorem completes_done {s : State} {src : Src} {c : Instr} {idx sub n v : Nat} {row : EntryRow} {P : Dev → Prop} {A : List Part}
    {f : Dev → Dev} (hc : exec c s = askNum src idx sub n v s) (hs : Served s.dev src) (hm : MayWrite s.dev src idx sub)
    (hrow : rowOf idx sub = some row) (hfix : row.ty.fixed = some n) (hv : v < 256 ^ n) (himm : row.imm = true)
    (hval : valueError s.dev row idx sub (.num v) = none) (hsub : sub < 256) (htab : isTable idx = false)
    (hcommit : ¬ (idx = 0x2002 ∧ sub = 1)) (hcount : ¬ (idx = 0x2011 ∧ sub = 2 ∧ v = 1))
    (hact : ∀ d, actOn (writeOf src idx sub 0 (leBytes n v)) (roleOf s.dev src) (.num v) d = .done (f d))
    (hf : ∀ d, Framed A d (f d)) (h1 : Part.access ∉ A) (h2 : Part.mail ∉ A)
    (hP : ∀ a d, PathOnly src s.found a → (s.dev.Valid → a.Valid) → PathOnly src (f (bump 0x2003 1 a)) d →
      Sent (f (bump 0x2003 1 a)) d → WriteAnswered d src idx sub 0 → P d) : Completes c s P := by
  refine completes_num_valid hc hs hm hrow hfix hv himm hval hsub htab hcommit hcount fun a ha hvalid => ?_
  rw [hact]
  exact hP a _ ha.pathOnly hvalid (answer_pathOnly _ _ _) (answer_sent _ _ _) (ha.acts (hf _) h1 h2 idx sub).2

/-- What the node's own request for inhibit and the leading request find on the device that the path has reached. -/
structure SameExchange (a b : Dev) : Prop where
  inaug : b.inaug = a.inaug
  now : b.now = a.now
  chip : b.chip = a.chip
  ports : b.ports = a.ports
  cfg : ∀ idx sub, PathFree idx sub → odKey idx sub ≠ odKey 0x2003 1 → Machine.cfg b idx sub = Machine.cfg a idx sub

theorem PathOnly.sameExchange {src : Src} {a : Dev} (h : PathOnly src s.found a) : SameExchange s.dev (bump 0x2003 1 a) where
  inaug := (bump_inaug _ _ _).trans (h.same .inaug (by decide))
  now := (bump_now _ _ _).trans h.now
  chip := (bump_chip _ _ _).trans (h.same .chip (by decide))
  ports := (bump_ports _ _ _).trans (h.same .ports (by decide))
  cfg idx sub hf hne := (cfg_bump_ne _ _ _ _ _ hne).trans (h.cfg_free hf)

theorem inhibitRequest_completes {src : Src} (hs : Served s.dev src) (hvalid : s.dev.Valid) {value : BitVec 8} (hvalue : value.toNat ≤ 1)
    (hm : MayWrite s.dev src 0x2105 1) : Completes (.inhibitRequest src value) s fun d =>
      cfgB d 0x2105 1 = decide (value = 1) ∧ WriteAnswered d src 0x2105 1 0 ∧
        (cfg s.dev 0x2105 1 = 0 → value = 1 →
          d.inaug.stateDue = some (s.dev.now + 100 * msNs) ∧
            (s.dev.inaug.requesters.length < 128 → (s.dev.chip.ident, none) ∈ d.inaug.requesters) ∧
            (scEnabled s.dev = true → SendsSc d (bothSides s.dev) s.dev.inaug.round (.state true s.dev.inaug.now.epoch))) ∧
        (cfg s.dev 0x2105 1 = 1 → value = 0 →
          d.inaug.stateDue = none ∧ d.inaug.requesters = s.dev.inaug.requesters.filter (fun x => x.1 ≠ s.dev.chip.ident)) := by
  have hon : decide (value.toNat ≠ 0) = decide (value = 1) := by
    rw [decide_eq_decide, ← BitVec.toNat_inj]
    show value.toNat ≠ 0 ↔ value.toNat = 1
    omega
  have hval : ∀ row, rowOf 0x2105 1 = some row → valueError s.dev row 0x2105 1 (.num value.toNat) = none := fun row hrow => by
    obtain rfl := Option.some.inj (hrow.symm.trans (rfl : rowOf 0x2105 1 = some ⟨0x2105, 1, 1, 0x01, 1, .bool, 0x1333, .n 0, .vol, true, false, .any⟩))
    simp [valueError, codeError, hvalue, Range.numberError, specialError]
  refine completes_done (A := [.fresh, .out, .regs, .inaug, .queues, .time, .sched, .strm, .recd, .sleep, .host, .ints, .counters])
    (f := setInhibit (decide (value.toNat ≠ 0))) rfl hs hm rfl rfl value.isLt rfl (hval _ rfl) (by decide) rfl (by decide) (fun h => absurd h.1 (by decide))
    (fun _ => rfl) (fun d => setInhibit_framed _ d (by decide) (.refl _ _)) (by decide) (by decide)
    fun a d hpath ha hend hsent hanswer => ?_
  have hx := hpath.sameExchange
  have hwf : Store.wf odDefault (bump 0x2003 1 a).dict.od = true := (bump_kept 0x2003 1 a (ha hvalid).kept).dict.od
  have hcfg : cfg (bump 0x2003 1 a) 0x2105 1 = cfg s.dev 0x2105 1 := hx.cfg _ _ (by unfold PathFree; omega) (by decide)
  have hsc : scEnabled (bump 0x2003 1 a) = scEnabled s.dev := by
    rw [scEnabled, cfgB, hx.cfg _ _ (by unfold PathFree; omega) (by decide)]; rfl
  obtain ⟨hi, hn, hchip, hports, -⟩ := hx
  have hinaug : d.inaug = _ := hend.same .inaug (by decide)
  have hdchip : d.chip = _ := hend.same .chip (by decide)
  rw [hon] at hinaug hdchip hend hsent
  refine ⟨?_, hanswer, fun h0 h1 => ?_, fun h1 h0 => ?_⟩
  · rw [cfgB, hend.cfg_free (by unfold PathFree; omega)]
    exact cfgB_setInhibit _ hwf
  · rw [decide_eq_true h1] at hinaug hsent hdchip
    obtain ⟨hdue, hreq, hsends⟩ := setInhibit_on (hcfg.trans h0)
    rw [hn] at hdue
    rw [hi, hchip] at hreq
    rw [hsc, hi, bothSides_of_ports hports] at hsends
    refine ⟨(congrArg (·.stateDue) hinaug).trans hdue, fun hlen => hinaug ▸ hreq hlen, fun he q hq => ?_⟩
    obtain ⟨seq, hseq⟩ := hsends he q hq
    exact ⟨seq, hdchip ▸ hsent _ hseq⟩
  · rw [decide_eq_false (h0 ▸ by decide)] at hinaug
    obtain ⟨hdue, hreq⟩ := setInhibit_off (hcfg.trans h1)
    rw [othersThan, hi, hchip] at hreq
    exact ⟨(congrArg (·.stateDue) hinaug).trans hdue, (congrArg (·.requesters) hinaug).trans hreq⟩

theorem cfg_setLeading (v : Nat) {d : Dev} (hwf : Store.wf odDefault d.dict.od = true) : cfg (setLeading v d) 0x2100 6 = v := by
  unfold setLeading
  split
  · assumption
  · rw [(judgeSleep_move _).cfg 0x2100 6 (by decide), (onChange_move _ _ _).cfg 0x2100 6 (by decide)]
    exact cfg_setReg_wf _ _ _ _ hwf

theorem leadingRequest_completes {src : Src} (hs : Served s.dev src) (hvalid : s.dev.Valid) {value : BitVec 8} (hvalue : value.toNat ≤ 2)
    (hm : MayWrite s.dev src 0x2100 6) : Completes (.leadingRequest src value) s fun d =>
      cfg d 0x2100 6 = value.toNat ∧ WriteAnswered d src 0x2100 6 0 := by
  have hval : ∀ row, rowOf 0x2100 6 = some row → valueError s.dev row 0x2100 6 (.num value.toNat) = none := fun row hrow => by
    obtain rfl := Option.some.inj (hrow.symm.trans (rfl : rowOf 0x2100 6 = some ⟨0x2100, 1, 1, 0x06, 1, .u8, 0x1333, .n 0, .vol, true, false, .oneOf [0, 1, 2]⟩))
    have hmem : value.toNat = 0 ∨ value.toNat = 1 ∨ value.toNat = 2 := by omega
    rcases hmem with h | h | h <;> simp [valueError, h, Range.numberError, specialError, codeError, EntryType.number]
  refine completes_done (A := [.fresh, .out, .regs, .inaug, .queues, .time, .sched, .strm, .recd, .sleep, .host, .ints, .counters])
    (f := setLeading value.toNat) rfl hs hm rfl rfl value.isLt rfl (hval _ rfl) (by decide) rfl (by decide) (fun h => absurd h.1 (by decide))
    (fun _ => rfl) (fun d => setLeading_framed _ d (by decide) (.refl _ _)) (by decide) (by decide)
    fun a d hpath ha hend hsent hanswer => ?_
  have hwf : Store.wf odDefault (bump 0x2003 1 a).dict.od = true := (bump_kept 0x2003 1 a (ha hvalid).kept).dict.od
  exact ⟨(hend.cfg_free (by unfold PathFree; omega)).trans (cfg_setLeading _ hwf), hanswer⟩

/-! ### Redundant pairs (R105, R106) -/

/-- What a PAIR frame of the partner makes of the pair. -/
def pairHeard (h : ScHeader) (primary : Bool) (partner : Word48) (d : Dev) : Dev :=
  let formed := partner = d.chip.ident && sameVehicle d h.originator
  onInaug (fun i => { i with
    partner := some h.originator, partnerPrimary := primary
    pairDeadline := some (d.now + cfg d 0x2106 5 * msNs)
    outage := false, partnerLost := false, follows := i.follows || i.outage
    pairState :=
      if i.outage || i.pairState = 3 then i.pairState
      else if !formed then 0
      else if i.pairState = 0 then (if d.chip.ident.toNat < h.originator.toNat then 1 else 2)
      else i.pairState }) d

theorem exec_pair {primary : Bool} {epoch : BitVec 16} {partner : Word48} (hup : portUp s.dev p = true)
    (htwin : twinPort s.dev = some p) (hok : scHeaderOk h 10 = true) (hround : roundHigher s.dev.inaug.round h.round = false) :
    exec (.pair p h primary epoch partner) s = s.does fun d => pairHeard h primary partner (countGood p (frameLen (20 + 10)) d) := by
  show execPair p h primary epoch partner s = _
  unfold execPair
  refine does_congr ?_
  have hup : portUp s.found p = true := hup
  have ht : twinPort (countGood p (frameLen (20 + 10)) s.found) = some p := (countGood_twinPort p _ s.found).trans htwin
  rw [scHeard, if_pos hup, if_neg (by simp [ht, hok]), countGood_inaug, if_neg (by rw [show s.found.inaug = s.dev.inaug from rfl, hround]; decide)]
  rfl

theorem countGood_chip (p : Port) (len : Nat) (d : Dev) : (countGood p len d).chip = d.chip := (countGood_move p len d).chip

theorem sameVehicle_countGood (p : Port) (len : Nat) (d : Dev) (who : Word48) :
    sameVehicle (countGood p len d) who = sameVehicle d who := by
  simp only [sameVehicle, countGood_inaug, (countGood_move p len d).cfg 0x2100 2 (by decide)]

theorem pair_completes (primary : Bool) (epoch : BitVec 16) (partner : Word48) (hup : portUp s.dev p = true)
    (htwin : twinPort s.dev = some p) (hok : scHeaderOk h 10 = true) (hround : roundHigher s.dev.inaug.round h.round = false) :
    let i := s.dev.inaug
    let formed := partner = s.dev.chip.ident ∧ sameVehicle s.dev h.originator = true
    Completes (.pair p h primary epoch partner) s fun d =>
      d.inaug.partner = some h.originator ∧ d.inaug.outage = false ∧ d.inaug.partnerLost = false ∧
        d.inaug.pairDeadline = some (s.dev.now + cfg s.dev 0x2106 5 * msNs) ∧
        (i.outage = true ∨ i.pairState = 3 → d.inaug.pairState = i.pairState) ∧
        (i.outage = false → i.pairState ≠ 3 → ¬formed → d.inaug.pairState = 0) ∧
        (i.outage = false → formed → i.pairState = 0 →
          d.inaug.pairState = if s.dev.chip.ident.toNat < h.originator.toNat then 1 else 2) ∧
        (i.outage = false → formed → i.pairState ≠ 0 → d.inaug.pairState = i.pairState) ∧
        Framed [.inaug, .regs, .counters] s.found d := by
  intro i formed
  refine completes_of_exec (exec_pair hup htwin hok hround) ?_
  have hdue := (countGood_move p (frameLen (20 + 10)) s.found).cfg 0x2106 5 (by decide)
  have hveh := sameVehicle_countGood p (frameLen (20 + 10)) s.found h.originator
  have hframed : Framed [.inaug, .regs, .counters] s.found (pairHeard h primary partner (countGood p (frameLen (20 + 10)) s.found)) :=
    onInaug_framed _ _ (by decide) (countGood_framed p _ _ (by decide) (.refl _ _))
  have hformed : (decide (partner = s.dev.chip.ident) && sameVehicle s.dev h.originator) = decide formed := by
    rw [Bool.eq_iff_iff]
    simp [formed]
  have hstate : (pairHeard h primary partner (countGood p (frameLen (20 + 10)) s.found)).inaug.pairState =
      if i.outage || i.pairState = 3 then i.pairState else if !(decide formed) then 0
      else if i.pairState = 0 then (if s.dev.chip.ident.toNat < h.originator.toNat then 1 else 2) else i.pairState := by
    rw [← hformed, pairHeard, onInaug_inaug, countGood_inaug, countGood_chip, hveh]
    rfl
  refine ⟨rfl, rfl, rfl, ?_, fun hkeep => ?_, fun ho h3 hf => ?_, fun ho hf h0 => ?_, fun ho hf h0 => ?_, hframed⟩
  · rw [pairHeard, onInaug_inaug, countGood_now, hdue]
    rfl
  · rw [hstate, if_pos (by simpa using hkeep)]
  · rw [hstate, if_neg (by simp [ho, h3]), if_pos (by simp [hf])]
  · rw [hstate, if_neg (by simp [ho, h0]), if_neg (by simp [hf]), if_pos h0]
  · rw [hstate]
    by_cases h3 : i.pairState = 3
    · rw [if_pos (by simp [h3])]
    · rw [if_neg (by simp [ho, h3]), if_neg (by simp [hf]), if_neg h0]

/-- What the node says of the pair. -/
def pairBody (i : InaugS) : ScBody :=
  .pair (i.partnerLost || i.pairState = 1 || i.pairState = 3 || (i.pairState = 0 && i.now.primary)) i.now.epoch (i.partner.getD 0)

/-- The next PAIR frame is planned at a moment. -/
def pairDueAt (t : Nat) (d : Dev) : Dev := onInaug (fun i => { i with pairDue := some (t + msNs) }) (arrive t d)

theorem pairPeriod_completes {t : Nat} (hdue : s.dev.inaug.pairDue = some t) (htwin : twinPort s.dev = some p) :
    let i := s.dev.inaug
    Completes .pairPeriod s fun d => d.now = max s.dev.now t ∧ d.inaug.pairDue = some (t + msNs) ∧
        (portUp s.dev p = true → scEnabled s.dev = true →
          let first := i.partnerLost || i.pairState = 1 || i.pairState = 3 || (i.pairState = 0 && i.now.primary)
          SendsSc d [p] i.round (.pair first i.now.epoch (i.partner.getD 0))) ∧
        Framed [.clock, .counters, .inaug, .out, .queues, .regs] s.found d := by
  intro i
  have hrun : exec .pairPeriod s = s.does fun d => if portUp s.dev p = true then
      createSc [p] (pairBody i) (pairDueAt t d) else pairDueAt t d := by
    show execPairPeriod s = _
    unfold execPairPeriod
    refine does_congr ?_
    have hdue : s.found.inaug.pairDue = some t := hdue
    have htwin : twinPort s.found = some p := htwin
    dsimp only
    rw [hdue, htwin]
    rfl
  refine completes_of_exec hrun ?_
  have hnext : Framed [.clock, .counters, .inaug, .out, .queues, .regs] s.found (pairDueAt t s.found) :=
    onInaug_framed _ _ (by decide) (arrive_framed _ _ (by decide) (.refl _ _))
  have hnow : (pairDueAt t s.found).now = max s.dev.now t := arrive_now t s.found
  split
  · next hup =>
    have hc := createSc_move [p] (pairBody i) (pairDueAt t s.found)
    refine ⟨hc.clock.trans hnow, ?_, fun _ he => ?_, createSc_framed _ _ _ (by decide) hnext⟩
    · rw [createSc_inaug]
      rfl
    · have hs := createSc_sends (d := pairDueAt t s.found) ((arrive_scEnabled t s.found).trans he) [p] (pairBody i)
      have hround : (pairDueAt t s.found).inaug.round = i.round := by simp [pairDueAt]; rfl
      rwa [hround] at hs
  · next hup => exact ⟨hnow, rfl, fun h => absurd h hup, hnext⟩

theorem pairLoss_completes {t : Nat} (hdue : s.dev.inaug.pairDeadline = some t) (hst : s.dev.inaug.pairState ≠ 0)
    (hout : s.dev.inaug.outage = false) :
    let i := s.dev.inaug
    Completes .pairLoss s fun d => d.now = max s.dev.now t ∧ d.inaug.outage = true ∧ d.inaug.pairDeadline = none ∧
      if backbonePorts.any (fun p => (heardOn s.dev p).isSome && heardOn s.dev p = i.partner) then
        d.inaug.pairState = i.pairState ∧ d.inaug.partnerLost = i.partnerLost ∧
          cfg d 0x2106 4 = min 0xFFFFFFFF (cfg s.dev 0x2106 4 + 1)
      else d.inaug.partnerLost = true ∧ cfg d 0x2106 4 = cfg s.dev 0x2106 4 := by
  intro i
  have hrun : exec .pairLoss s = s.does fun d => if backbonePorts.any (fun p => (heardOn s.dev p).isSome && heardOn s.dev p = i.partner) then
      bump 0x2106 4 (onInaug (fun i => { i with pairDeadline := none, outage := true }) (arrive t d))
    else raise evPartnerLost noInst (onInaug (fun i => { i with pairDeadline := none, outage := true, partnerLost := true }) (arrive t d)) := by
    show execPairLoss s = _
    unfold execPairLoss
    refine does_congr ?_
    have hdue : s.found.inaug.pairDeadline = some t := hdue
    have hquiet : (decide (s.found.inaug.pairState = 0) || s.found.inaug.outage) = false := by
      rw [show s.found.inaug.outage = false from hout, show decide (s.found.inaug.pairState = 0) = false from decide_eq_false hst]; rfl
    dsimp only
    rw [hdue]
    dsimp only
    rw [hquiet]
    rfl
  refine completes_of_exec hrun ?_
  generalize backbonePorts.any (fun p => (heardOn s.dev p).isSome && heardOn s.dev p = i.partner) = near
  have hcfg : ∀ f, cfg (onInaug f (arrive t s.found)) 0x2106 4 = cfg s.dev 0x2106 4 := fun f => cfg_arrive t s.found _ _
  cases near
  · have hr := raise_move evPartnerLost noInst (onInaug (fun i => { i with pairDeadline := none, outage := true, partnerLost := true })
      (arrive t s.found))
    rw [if_neg (by decide), if_neg (by decide), hr.clock, raise_inaug, hr.cfg 0x2106 4 (by decide)]
    exact ⟨arrive_now t s.found, rfl, rfl, rfl, hcfg _⟩
  · rw [if_pos rfl, if_pos rfl, bump_now, bump_inaug, cfg_bump_self _ _ _ (by decide +kernel), hcfg]
    refine ⟨arrive_now t s.found, rfl, rfl, ?_, ?_, rfl⟩
    · rw [onInaug_inaug, arrive_inaug]
      rfl
    · rw [onInaug_inaug, arrive_inaug]
      rfl

end clauses

/-- Settles O29: the set of requesters follows STATE, the node's own request and time; the pair follows its frames and time. -/
theorem inhibitAndPairsFollowTheirFrames : Obligations.InhibitAndPairsFollowTheirFrames := by
  intro s i
  refine ⟨?_, fun who t hf => stateSilence_completes hf, fun t hdue => stateRepeat_completes hdue,
    fun p sender topo inhibit hb hup => topology_completes sender topo inhibit hb hup,
    fun src hs hvalid => ⟨fun value hvalue hm => inhibitRequest_completes hs hvalid hvalue hm,
      fun value hvalue hm => leadingRequest_completes hs hvalid hvalue hm⟩,
    fun p h primary epoch partner hup htwin hok hround => pair_completes primary epoch partner hup htwin hok hround,
    fun t p hdue htwin => pairPeriod_completes hdue htwin, fun t hdue hst hout => pairLoss_completes hdue hst hout⟩
  intro p h epoch ht others
  exact ⟨state_set epoch ht, state_full epoch ht, state_clear epoch ht⟩

end Sys2Proof.Machine
end

section
/-! PROOF. Rounds, elections and their failure (R76, R85 to R91, R97, R110, R111). -/

namespace Sys2Proof.Machine

/-! ### The counters of rounds -/

/-- The counters of events and frames. -/
def quietCounters : List (Nat × Nat) := eventCounters ++ allPorts.flatMap frameCounters

theorem quietCounters_ne : ∀ r ∈ quietCounters, odKey r.1 r.2 < odKey 0x2107 0 ∨ odKey 0x2108 0 ≤ odKey r.1 r.2 := by decide +kernel

section quiet

variable {a b d : Dev}

theorem quiet_cfg (h : RegsFramed quietCounters a b) {sub : Nat} (hs : sub < 0x100) : cfg b 0x2107 sub = cfg a 0x2107 sub :=
  h.cfg _ _ fun r hr => by
    have := quietCounters_ne r hr
    unfold odKey at *
    omega

/-- Registers after a step that writes none. -/
theorem RegsFramed.after {L : List (Nat × Nat)} (h : RegsFramed L b d) (ho : b.dict.od = a.dict.od) : RegsFramed L a d :=
  (RegsFramed.of_same ho).trans h

theorem raise_quiet (ev : Ev) (inst : Nat) (d : Dev) : RegsFramed quietCounters d (raise ev inst d) :=
  (raise_regs ev inst d).mono fun _ => List.mem_append_left _

theorem judgeSleep_quiet (d : Dev) : RegsFramed quietCounters d (judgeSleep d) :=
  (judgeSleep_recordsOnly d).1.mono fun _ => List.mem_append_left _

theorem forEach_regs {α : Type} {L : List (Nat × Nat)} {f : α → Dev → Dev} (hf : ∀ x d, RegsFramed L d (f x d)) (l : List α) (d : Dev) :
    RegsFramed L d (forEach l f d) := by
  induction l generalizing d with
  | nil => exact .refl _ d
  | cons x l ih => exact (hf x d).trans (ih (f x d))

theorem sendSc_quiet (ports : List Port) (orig : Word48) (round seq : BitVec 16) (segment hops : Nat) (more : Bool) (b : ScBody) (d : Dev) :
    RegsFramed quietCounters d (sendSc ports orig round seq segment hops more b d) := by
  unfold sendSc
  split
  · refine forEach_regs (fun p d => ?_) _ d
    exact ((sendOwn_regs p 7 _ _).mono fun r hr => List.mem_append_right _ (frameCounters_all p r hr)).after rfl
  · exact .refl _ d

theorem createSc_quiet (ports : List Port) (b : ScBody) (d : Dev) : RegsFramed quietCounters d (createSc ports b d) :=
  (sendSc_quiet _ _ _ _ _ _ _ _ _).after rfl

theorem dropCommit_regs (d : Dev) : RegsFramed quietCounters d (dropCommit d) := by
  unfold dropCommit
  dsimp only
  split <;> exact .of_same rfl

theorem sendClaim_quiet (d : Dev) : RegsFramed quietCounters d (sendClaim d) := (createSc_quiet _ _ _).after rfl

/-- The device on which a round has been entered, before the claim leaves. -/
def roundOpened (round : BitVec 16) (lowest : Word48) (revealed : List Port) (d : Dev) : Dev :=
  timeRoundStart revealed (onInaug (fun i => { i.stopTimers with
    state := .claiming, standard := i.standard && anyStandard d, round := round, lowest := lowest, frontSegs := []
    rearSegs := [], frontDone := false, rearDone := false, censusFromRear := none, acksFront := 0, acksRear := 0
    heldOwn := none, heldCouplings := if inhibitActive d then i.heldCouplings else [], heldConfig := inhibitActive d && i.heldConfig
    asked := [] }) (dropCommit d))

theorem enterRound_eq (round : BitVec 16) (lowest : Word48) (revealed : List Port) (d : Dev) :
    enterRound round lowest revealed d = sendClaim (roundOpened round lowest revealed d) := rfl

theorem enterRound_quiet (round : BitVec 16) (lowest : Word48) (revealed : List Port) (d : Dev) :
    RegsFramed quietCounters d (enterRound round lowest revealed d) :=
  (dropCommit_regs d).trans ((sendClaim_quiet (roundOpened round lowest revealed d)).after rfl)

theorem joinRound_quiet (since : Nat) (round : BitVec 16) (claimed : Word48) (d : Dev) :
    RegsFramed quietCounters d (joinRound since round claimed d) := by
  unfold joinRound
  dsimp only
  refine RegsFramed.trans ?_ (enterRound_quiet _ _ _ _)
  split <;> exact .of_same rfl

theorem joinHeld_quiet (d : Dev) : RegsFramed quietCounters d (joinHeld d) := by
  unfold joinHeld
  split
  · exact .refl _ d
  · dsimp only
    split
    · exact (joinRound_quiet _ _ _ _).after rfl
    · exact .of_same rfl

end quiet

/-! ### The engine after each step of a round -/

section engine

variable {d : Dev}

@[simp] theorem judgeSleep_inaug (d : Dev) : (judgeSleep d).inaug = d.inaug :=
  (judgeSleep_framed (L := [.out, .regs, .recd, .sleep, .ints, .counters]) d (fun _ h => h) (.refl _ _)).same .inaug (by decide)

@[simp] theorem dropCommit_inaug (d : Dev) : (dropCommit d).inaug = { d.inaug with accepted := none, lateCopy := false } := by
  unfold dropCommit
  dsimp only
  split <;> rfl

/-- A round has been entered: from `d` to `e`, with its number and the lowest identity known. -/
structure RoundEntered (d e : Dev) (r : BitVec 16) (low : Word48) : Prop where
  state : e.inaug.state = .claiming
  standard : e.inaug.standard = (d.inaug.standard && anyStandard d)
  round : e.inaug.round = r
  lowest : e.inaug.lowest = low
  accepted : e.inaug.accepted = none
  failedRounds : e.inaug.failedRounds = d.inaug.failedRounds
  settle : e.inaug.settle = some (d.now + cfg d 0x2103 3 * usNs)
  sends : scEnabled d = true → SendsSc e (bothSides d) r (.claim low)

/-- A claim of the node's own leaves on both sides, and the settle timer restarts. -/
theorem sendClaim_inaug (d : Dev) : (sendClaim d).inaug =
    { d.inaug with settle := some (d.now + cfg d 0x2103 3 * usNs), seq := d.inaug.seq + 1 } := by
  rw [sendClaim, createSc_inaug]
  rfl

theorem sendClaim_sends (he : scEnabled d = true) : SendsSc (sendClaim d) (bothSides d) d.inaug.round (.claim d.inaug.lowest) :=
  createSc_sends (d := onInaug _ d) he _ _

theorem roundOpened_move (round : BitVec 16) (lowest : Word48) (revealed : List Port) (d : Dev) :
    RoundMove d (roundOpened round lowest revealed d) :=
  (dropCommit_move d).trans ((onInaug_move rfl).trans (timeRoundStart_move _ _))

theorem roundOpened_ports (round : BitVec 16) (lowest : Word48) (revealed : List Port) (d : Dev) :
    (roundOpened round lowest revealed d).ports = d.ports :=
  (dropCommit_framed (L := [.inaug, .sched, .strm]) d (fun _ h => h) (.refl _ _)).same .ports (by decide)

theorem roundOpened_standard (round : BitVec 16) (lowest : Word48) (revealed : List Port) (d : Dev) :
    (roundOpened round lowest revealed d).inaug.standard = (d.inaug.standard && anyStandard d) := by
  show ((dropCommit d).inaug.standard && anyStandard d) = _
  rw [dropCommit_inaug]

theorem roundOpened_accepted (round : BitVec 16) (lowest : Word48) (revealed : List Port) (d : Dev) :
    (roundOpened round lowest revealed d).inaug.accepted = none ∧
      (roundOpened round lowest revealed d).inaug.failedRounds = d.inaug.failedRounds := by
  show (dropCommit d).inaug.accepted = none ∧ (dropCommit d).inaug.failedRounds = _
  rw [dropCommit_inaug]
  exact ⟨rfl, rfl⟩

theorem enterRound_entered (round : BitVec 16) (lowest : Word48) (revealed : List Port) (d : Dev) :
    RoundEntered d (enterRound round lowest revealed d) round lowest := by
  have hm := roundOpened_move round lowest revealed d
  have hports := roundOpened_ports round lowest revealed d
  have hstd := roundOpened_standard round lowest revealed d
  obtain ⟨hacc, hfail⟩ := roundOpened_accepted round lowest revealed d
  have hstate : (roundOpened round lowest revealed d).inaug.state = .claiming := rfl
  have hround : (roundOpened round lowest revealed d).inaug.round = round := rfl
  have hlow : (roundOpened round lowest revealed d).inaug.lowest = lowest := rfl
  rw [enterRound_eq]
  generalize roundOpened round lowest revealed d = o at *
  have hi := sendClaim_inaug o
  refine ⟨by rw [hi, hstate], by rw [hi, hstd], by rw [hi, hround], by rw [hi, hlow], by rw [hi, hacc], by rw [hi, hfail], ?_, fun he => ?_⟩
  · rw [hi, hm.clock, hm.cfg 0x2103 3 (by decide)]
  · have h := sendClaim_sends (d := o) (hm.scEnabled.trans he)
    rwa [bothSides_of_ports hports, hround, hlow] at h

/-- The lowest identity that the node claims for itself: none in safe forwarding (R86). -/
def ownClaim (d : Dev) : Word48 := if safeLow d then noIdentity else d.chip.ident

theorem startRoundFrom_entered (since : Nat) (revealed : List Port) (d : Dev) :
    ∃ e : Dev, e.inaug = { d.inaug with roundStart := some since, roundOwn := true } ∧ RoundMove d e ∧ e.ports = d.ports ∧
      RoundEntered e (startRoundFrom since revealed d) (d.inaug.round + 1) (ownClaim d) :=
  ⟨bump 0x2107 1 (onInaug (fun i => { i with roundStart := some since, roundOwn := true }) d), by simp,
    (onInaug_move rfl).trans (bump_move _ _ _), by simp, enterRound_entered _ _ _ _⟩

theorem startRoundFrom_counts (since : Nat) (revealed : List Port) (d : Dev) :
    cfg (startRoundFrom since revealed d) 0x2107 1 = min 0xFFFFFFFF (cfg d 0x2107 1 + 1) := by
  unfold startRoundFrom
  dsimp only
  rw [quiet_cfg (enterRound_quiet _ _ _ _) (by decide), cfg_bump_self _ _ _ (by decide +kernel), cfg_onInaug]

/-- The device that joins a round: its start counts from the claim, but from the node's own detection where that came first. -/
def joinStart (since : Nat) (d : Dev) : Dev :=
  if d.inaug.roundOwn && roundBusy d then d else onInaug (fun i => { i with roundStart := some since, roundOwn := false }) d

theorem joinRound_eq (since : Nat) (round : BitVec 16) (claimed : Word48) (d : Dev) : joinRound since round claimed d =
    enterRound round (if claimed.toNat < (ownClaim d).toNat then claimed else ownClaim d) [] (joinStart since d) := rfl

theorem joinStart_leaves (since : Nat) (d : Dev) : RoundMove d (joinStart since d) ∧ (joinStart since d).ports = d.ports ∧
    (joinStart since d).inaug.standard = d.inaug.standard ∧ (joinStart since d).inaug.failedRounds = d.inaug.failedRounds := by
  unfold joinStart
  split
  · exact ⟨.refl d, rfl, rfl, rfl⟩
  · exact ⟨onInaug_move rfl, rfl, rfl, rfl⟩

theorem joinRound_entered (since : Nat) (round : BitVec 16) (claimed : Word48) (d : Dev) :
    ∃ e : Dev, RoundMove d e ∧ e.ports = d.ports ∧ e.inaug.standard = d.inaug.standard ∧
      e.inaug.failedRounds = d.inaug.failedRounds ∧ RoundEntered e (joinRound since round claimed d) round
        (if claimed.toNat < (ownClaim d).toNat then claimed else ownClaim d) := by
  obtain ⟨hm, hports, hstd, hfail⟩ := joinStart_leaves since d
  exact ⟨joinStart since d, hm, hports, hstd, hfail, joinRound_eq since round claimed d ▸ enterRound_entered _ _ _ _⟩

theorem anyStandard_of_move {a b : Dev} (h : RoundMove a b) : anyStandard b = anyStandard a := by
  simp only [anyStandard, sideStandard, h.backOf]

/-! ### A round fails (R76, R89) -/

/-- The device on which a round has failed, before back-off or standard mode. -/
def roundDropped (d : Dev) : Dev :=
  raise evRoundFailed noInst (bump 0x2107 3 (onInaug (fun i => { i.stopTimers with
    failedRounds := i.failedRounds + 1, roundOwn := false }) (dropCommit d)))

theorem roundDropped_inaug (d : Dev) : (roundDropped d).inaug = { d.inaug.stopTimers with
    accepted := none, lateCopy := false, failedRounds := d.inaug.failedRounds + 1, roundOwn := false } := by
  rw [roundDropped, raise_inaug, bump_inaug, onInaug_inaug, dropCommit_inaug]
  rfl

theorem roundDropped_move (d : Dev) : RoundMove d (roundDropped d) :=
  (dropCommit_move d).trans ((onInaug_move rfl).trans ((bump_move 0x2107 3 _).trans (raise_move evRoundFailed noInst _)))

theorem roundDropped_counts (d : Dev) : cfg (roundDropped d) 0x2107 3 = min 0xFFFFFFFF (cfg d 0x2107 3 + 1) ∧
    cfg (roundDropped d) 0x2107 4 = cfg d 0x2107 4 := by
  have hd : ∀ sub, sub < 0x100 → cfg (onInaug (fun i => { i.stopTimers with
      failedRounds := i.failedRounds + 1, roundOwn := false }) (dropCommit d)) 0x2107 sub = cfg d 0x2107 sub := fun sub hs =>
    quiet_cfg (dropCommit_regs d) hs
  unfold roundDropped
  constructor
  · rw [quiet_cfg (raise_quiet _ _ _) (by decide), cfg_bump_self _ _ _ (by decide +kernel), hd 3 (by decide)]
  · rw [quiet_cfg (raise_quiet _ _ _) (by decide), cfg_bump_ne _ _ _ _ _ (by decide), hd 4 (by decide)]

theorem enterStandard_inaug (d : Dev) : (enterStandard d).inaug = { d.inaug.stopTimers with
    accepted := none, lateCopy := false, state := .standard, standard := true } := by
  show (raise evFallback noInst _).inaug = _
  rw [raise_inaug, bump_inaug, onInaug_inaug, dropCommit_inaug]
  rfl

theorem enterStandard_counts (d : Dev) : cfg (enterStandard d) 0x2107 4 = min 0xFFFFFFFF (cfg d 0x2107 4 + 1) ∧
    cfg (enterStandard d) 0x2107 3 = cfg d 0x2107 3 := by
  have hd : ∀ sub, sub < 0x100 → cfg (onInaug (fun i => { i.stopTimers with state := .standard, standard := true })
      (dropCommit d)) 0x2107 sub = cfg d 0x2107 sub := fun sub hs => quiet_cfg (dropCommit_regs d) hs
  have hhold : ∀ (e : Dev) (sub : Nat), cfg (timeStandardHold [] e) 0x2107 sub = cfg e 0x2107 sub := fun _ _ => rfl
  unfold enterStandard
  rw [hhold, hhold]
  constructor
  · rw [quiet_cfg (raise_quiet _ _ _) (by decide), cfg_bump_self _ _ _ (by decide +kernel), hd 4 (by decide)]
  · rw [quiet_cfg (raise_quiet _ _ _) (by decide), cfg_bump_ne _ _ _ _ _ (by decide), hd 3 (by decide)]

/-- The device that backs off after a failed round. -/
def backedOff (d : Dev) : Dev :=
  draw (onInaug (fun i => { i with state := .claiming, backOff := some (d.now + Config.freeNat d.fresh % 2001 * usNs) }) d)

theorem failRound_eq (d : Dev) : failRound d =
    if cfg d 0x2102 5 ≤ d.inaug.failedRounds + 1 then enterStandard (roundDropped d) else joinHeld (backedOff (roundDropped d)) := by
  have h : (roundDropped d).inaug.failedRounds = d.inaug.failedRounds + 1 := by rw [roundDropped_inaug]
  rw [← h]
  rfl

theorem joinHeld_none {d : Dev} (h : d.inaug.heldClaim = none) : joinHeld d = d := by
  unfold joinHeld
  rw [h]

/-- A failed round is a failed round of any device that agrees on what counts. -/
theorem failRound_failed {a d : Dev} (h3 : cfg d 0x2107 3 = cfg a 0x2107 3) (h4 : cfg d 0x2107 4 = cfg a 0x2107 4)
    (h5 : cfg d 0x2102 5 = cfg a 0x2102 5) (hf : d.inaug.failedRounds = a.inaug.failedRounds)
    (hr : d.inaug.round = a.inaug.round) (hc : d.inaug.heldClaim = a.inaug.heldClaim) :
    RoundFailed a (judgeSleep (failRound d)) := by
  obtain ⟨hc3, hc4⟩ := roundDropped_counts d
  have hi := roundDropped_inaug d
  have hj := judgeSleep_quiet (failRound d)
  unfold RoundFailed
  rw [quiet_cfg hj (by decide), quiet_cfg hj (by decide), judgeSleep_inaug, (judgeSleep_move _).clock, failRound_eq, h5, hf]
  generalize roundDropped d = e at *
  by_cases hlim : cfg a 0x2102 5 ≤ a.inaug.failedRounds + 1
  · obtain ⟨hs4, hs3⟩ := enterStandard_counts e
    rw [if_pos hlim, if_pos hlim, enterStandard_inaug, hs3, hs4, hc3, hc4, h3, h4, hi]
    exact ⟨rfl, rfl, congrArg (· + 1) hf, rfl, rfl, rfl⟩
  · rw [if_neg hlim, if_neg hlim]
    have hb : (backedOff e).inaug = { e.inaug with
      state := .claiming, backOff := some (e.now + Config.freeNat e.fresh % 2001 * usNs) } := rfl
    have hcount : ∀ sub, cfg (backedOff e) 0x2107 sub = cfg e 0x2107 sub := fun _ => rfl
    have hnow : (backedOff e).now = e.now := rfl
    rw [quiet_cfg (joinHeld_quiet _) (by decide), hcount, hc3, h3, (joinHeld_move _).clock, hnow]
    generalize backedOff e = o at *
    cases hheld : a.inaug.heldClaim with
    | none =>
      rw [joinHeld_none (by rw [hb, hi]; exact hc.trans hheld), hb, hi]
      exact ⟨rfl, rfl, congrArg (· + 1) hf, rfl, _, Nat.lt_succ_iff.mp (Nat.mod_lt _ (by decide)), rfl⟩
    | some c =>
      have ho : o.inaug.heldClaim = some c := by rw [hb, hi]; exact hc.trans hheld
      have hround : o.inaug.round = a.inaug.round := by rw [hb, hi]; exact hr
      have hfo : o.inaug.failedRounds = a.inaug.failedRounds + 1 := by rw [hb, hi]; exact congrArg (· + 1) hf
      unfold joinHeld
      rw [ho]
      dsimp only
      rw [hround]
      by_cases hh : roundHigher c.round a.inaug.round = true
      · rw [if_pos hh]
        obtain ⟨x, -, -, -, hfx, hx⟩ := joinRound_entered c.time c.round c.lowest (onInaug (fun i => { i with heldClaim := none }) o)
        exact ⟨rfl, hx.accepted, (hx.failedRounds.trans hfx).trans hfo, hx.state, fun _ => hx.round⟩
      · rw [if_neg hh, onInaug_inaug, hb, hi]
        exact ⟨rfl, rfl, congrArg (· + 1) hf, rfl, fun h => absurd h hh⟩

/-! ### Claims (R85, R86, R110) -/

theorem takeClaim_join {h : ScHeader} (low : Word48) (hh : roundHigher h.round d.inaug.round = true) (hst : d.inaug.state ≠ .committing)
    (hsl : d.sleep.state ≠ .committing) : takeClaim h low d = joinRound d.now h.round low d := by
  unfold takeClaim
  rw [if_pos hh]
  split
  · next hc => exact absurd hc hst
  · exact if_neg hsl

/-- The claim that is held for the switch point: the highest round and its lowest claim (R110). -/
def heldAfter (h : ScHeader) (low : Word48) (now : Nat) (held : Option HeldClaim) : Option HeldClaim :=
  match held with
  | none => some ⟨h.round, low, now⟩
  | some c =>
    if roundHigher h.round c.round then some ⟨h.round, low, now⟩
    else if c.round = h.round && low.toNat < c.lowest.toNat then some { c with lowest := low } else some c

theorem takeClaim_hold {h : ScHeader} (low : Word48) (hh : roundHigher h.round d.inaug.round = true) (hst : d.inaug.state = .committing) :
    takeClaim h low d = onInaug (fun i => { i with heldClaim := heldAfter h low d.now i.heldClaim }) d := by
  unfold takeClaim
  rw [if_pos hh, hst]
  rfl

/-- The states in which a lower claim of the round under way is taken over. -/
theorem takeClaim_lower {h : ScHeader} {low : Word48} (hh : roundHigher h.round d.inaug.round = false)
    (hst : d.inaug.state ∈ [.claiming, .census, .reporting]) (hlow : low.toNat < d.inaug.lowest.toNat) :
    takeClaim h low d = sendClaim (onInaug (fun i => { i with
      state := .claiming, lowest := low, censusWait := none, commitWait := none, censusDeadline := none
      censusFromRear := none, frontSegs := [], rearSegs := [], frontDone := false, rearDone := false }) d) := by
  unfold takeClaim
  rw [if_neg (by rw [hh]; decide)]
  simp only [List.mem_cons, List.not_mem_nil, or_false] at hst
  rcases hst with hst | hst | hst <;> rw [hst] <;> exact if_pos hlow

theorem takeClaim_unmoved {h : ScHeader} {low : Word48} (hh : roundHigher h.round d.inaug.round = false)
    (hst : d.inaug.lowest.toNat ≤ low.toNat ∨ d.inaug.state ∉ [.claiming, .census, .reporting]) : takeClaim h low d = d := by
  unfold takeClaim
  rw [if_neg (by rw [hh]; decide)]
  have hno : d.inaug.state ∈ [.claiming, .census, .reporting] → ¬ low.toNat < d.inaug.lowest.toNat := fun hm hl =>
    hst.elim (fun h => absurd hl (Nat.not_lt.mpr h)) (fun h => h hm)
  split
  · next hc => exact if_neg (hno (by simp [hc]))
  · next hc => exact if_neg (hno (by simp [hc]))
  · next hc => exact if_neg (hno (by simp [hc]))
  · rfl

/-! ### Numbering (R90 to R96) -/

/-- The chain that the leader numbers. -/
def heldChain (d : Dev) : List Placed :=
  chainOf (segmentRecs d.inaug.frontSegs) (ownRecord d false) (segmentRecs d.inaug.rearSegs)

theorem reportsHeld_standard (h : (heldChain d).any (·.r.standardOnly) = true) : reportsHeld d = abortRound 3 d := if_pos h

/-- The leader is committing to a numbering of a chain. -/
structure LeaderCommits (d e : Dev) : Prop where
  state : e.inaug.state = .committing
  census : e.inaug.censusDeadline = none
  accepted : ∃ a, e.inaug.accepted = some a ∧ a.originator = d.chip.ident ∧ a.switchAt = d.now + cfg d 0x2103 5 * usNs ∧
    a.fromRear = none ∧ a.body = (numberTrain (cfg d 0x2103 5 * usNs) (heldChain d)).1

theorem startBuilds_inaug (d : Dev) : (startResBuild (startGateBuild d)).inaug = d.inaug := by
  have h1 : (startGateBuild d).inaug = d.inaug := (startGateBuild_framed (L := [.sched]) d (fun _ h => h) (.refl _ _)).same .inaug (by decide)
  have h2 : (startResBuild (startGateBuild d)).inaug = (startGateBuild d).inaug :=
    (startResBuild_framed (L := [.strm]) _ (fun _ h => h) (.refl _ _)).same .inaug (by decide)
  exact h2.trans h1

theorem reportsHeld_commits (h : (heldChain d).any (·.r.standardOnly) = false) : LeaderCommits d (reportsHeld d) := by
  have hif : reportsHeld d = _ := if_neg fun ht => absurd (h.symm.trans ht) (by decide)
  refine ⟨?_, ?_, ?_⟩
  · rw [hif, startBuilds_inaug, createSc_inaug]
    rfl
  · rw [hif, startBuilds_inaug, createSc_inaug]
    rfl
  · rw [hif, startBuilds_inaug, createSc_inaug]
    exact ⟨_, rfl, rfl, rfl, rfl, rfl⟩

/-- A train of one node. -/
theorem numberTrain_single (margin : Nat) (x : Placed) : (numberTrain margin [x]).1.entries.map (·.ident) = [x.r.ident] := by
  have hchain : ∃ inv, orderedChain [x] = [(x.r, inv)] := by
    unfold orderedChain
    split <;> exact ⟨_, rfl⟩
  obtain ⟨inv, hinv⟩ := hchain
  unfold numberTrain
  rw [hinv]
  rfl

end engine

end Sys2Proof.Machine
end

section
/-! PROOF. Rounds and elections, clause by clause (R85 to R91, R97, R110, R111). -/

namespace Sys2Proof.Machine

section clauses

variable {s : State} {p : Port} {h : ScHeader} {low : Word48}

theorem takenSc_framed (kind : Nat) (p : Port) (h : ScHeader) (len : Nat) (d : Dev) : Framed [.inaug, .regs, .counters] d (takenSc kind p h len d) :=
  onInaug_framed _ _ (by decide) (countGood_framed _ _ _ (by decide) (.refl _ _))

theorem exec_claim (ht : TakesSc s.dev 3 p h 8) :
    exec (.claim p h low) s = s.does fun d => judgeSleep (takeClaim h low (takenSc 3 p h 8 d)) := by
  show execClaim p h low s = _
  unfold execClaim State.doesJudged
  exact does_congr (congrArg judgeSleep (takeSc_taken ht rfl))

theorem claim_joins (ht : TakesSc s.dev 3 p h 8) (hh : roundHigher h.round s.dev.inaug.round = true)
    (hst : s.dev.inaug.state ≠ .committing) (hsl : s.dev.sleep.state ≠ .committing) :
    Completes (.claim p h low) s fun d => d.inaug.round = h.round ∧ d.inaug.state = .claiming ∧
      d.inaug.standard = (s.dev.inaug.standard && anyStandard s.dev) ∧
      d.inaug.lowest = (if low.toNat < (ownClaim s.dev).toNat then low else ownClaim s.dev) ∧ d.inaug.accepted = none ∧
      d.inaug.settle = some (s.dev.now + cfg s.dev 0x2103 3 * usNs) ∧
      SendsSc d (bothSides s.dev) h.round (.claim (if low.toNat < (ownClaim s.dev).toNat then low else ownClaim s.dev)) := by
  refine completes_of_exec (exec_claim ht) ?_
  have hm := takenSc_move 3 p h 8 s.found
  have hf := takenSc_framed 3 p h 8 s.found
  have hi := takenSc_inaug 3 p h 8 s.found
  have hown : ownClaim (takenSc 3 p h 8 s.found) = ownClaim s.dev := by
    unfold ownClaim safeLow
    rw [show (takenSc 3 p h 8 s.found).pow = s.dev.pow from hf.same .pow (by decide), hm.chip]
    rfl
  have hports := takenSc_ports 3 p h 8 s.found
  have hsleep : (takenSc 3 p h 8 s.found).sleep = s.dev.sleep := hf.same .sleep (by decide)
  generalize takenSc 3 p h 8 s.found = t at *
  rw [takeClaim_join low (by rw [hi]; exact hh) (by rw [hi]; exact hst) (by rw [hsleep]; exact hsl)]
  obtain ⟨e, he, heports, hstd, -, hr⟩ := joinRound_entered t.now h.round low t
  have hse := hm.trans he
  rw [hown] at hr
  have hjoin := judgeSleep_move (joinRound t.now h.round low t)
  have hsends := hr.sends (hse.scEnabled.trans ht.2.2.1)
  rw [bothSides_of_ports (heports.trans hports)] at hsends
  rw [judgeSleep_inaug]
  refine ⟨hr.round, hr.state, ?_, hr.lowest, hr.accepted, ?_, hsends.move hjoin⟩
  · rw [hr.standard, anyStandard_of_move hse, hstd, hi]
    rfl
  · rw [hr.settle, hse.clock, hse.cfg 0x2103 3 (by decide)]
    rfl

theorem claim_held (ht : TakesSc s.dev 3 p h 8) (hh : roundHigher h.round s.dev.inaug.round = true)
    (hst : s.dev.inaug.state = .committing) : Completes (.claim p h low) s fun d => d.inaug = { s.dev.inaug with
      seen := (⟨scKey 3 h, s.dev.now, h.laneB⟩ :: s.dev.inaug.seen).take 4096
      heldClaim := heldAfter h low s.dev.now s.dev.inaug.heldClaim } := by
  refine completes_of_exec (exec_claim ht) ?_
  have hm := takenSc_move 3 p h 8 s.found
  have hi := takenSc_inaug 3 p h 8 s.found
  generalize takenSc 3 p h 8 s.found = t at *
  rw [takeClaim_hold low (by rw [hi]; exact hh) (by rw [hi]; exact hst), judgeSleep_inaug, onInaug_inaug, hm.clock, hi]
  rfl

theorem claim_lowers (ht : TakesSc s.dev 3 p h 8) (hh : roundHigher h.round s.dev.inaug.round = false)
    (hst : s.dev.inaug.state ∈ [.claiming, .census, .reporting]) (hlow : low.toNat < s.dev.inaug.lowest.toNat) :
    Completes (.claim p h low) s fun d => d.inaug.round = s.dev.inaug.round ∧ d.inaug.state = .claiming ∧ d.inaug.lowest = low ∧
      d.inaug.settle = some (s.dev.now + cfg s.dev 0x2103 3 * usNs) ∧ SendsSc d (bothSides s.dev) s.dev.inaug.round (.claim low) := by
  refine completes_of_exec (exec_claim ht) ?_
  have hm := takenSc_move 3 p h 8 s.found
  have hi := takenSc_inaug 3 p h 8 s.found
  have hports := takenSc_ports 3 p h 8 s.found
  generalize takenSc 3 p h 8 s.found = t at *
  rw [takeClaim_lower (by rw [hi]; exact hh) (by rw [hi]; exact hst) (by rw [hi]; exact hlow), judgeSleep_inaug]
  generalize hg : (fun i : InaugS => { i with
      state := .claiming, lowest := low, censusWait := none, commitWait := none, censusDeadline := none
      censusFromRear := none, frontSegs := [], rearSegs := [], frontDone := false, rearDone := false }) = g
  have hgr : (g t.inaug).round = s.dev.inaug.round ∧ (g t.inaug).state = .claiming ∧ (g t.inaug).lowest = low := by
    subst hg
    rw [hi]
    exact ⟨rfl, rfl, rfl⟩
  have hmove : RoundMove t (onInaug g t) := onInaug_move (by subst hg; rfl)
  have hall := hm.trans hmove
  have hsends := sendClaim_sends (d := onInaug g t) (hall.scEnabled.trans ht.2.2.1)
  rw [bothSides_of_ports (a := s.dev) (b := onInaug g t) hports, onInaug_inaug, hgr.1, hgr.2.2] at hsends
  rw [sendClaim_inaug, hall.clock, hall.cfg 0x2103 3 (by decide), onInaug_inaug]
  exact ⟨hgr.1, hgr.2.1, hgr.2.2, rfl, hsends.move (judgeSleep_move _)⟩

theorem claim_unmoved (ht : TakesSc s.dev 3 p h 8) (hh : roundHigher h.round s.dev.inaug.round = false)
    (hst : s.dev.inaug.lowest.toNat ≤ low.toNat ∨ s.dev.inaug.state ∉ [.claiming, .census, .reporting]) :
    Completes (.claim p h low) s fun d =>
      d.inaug = { s.dev.inaug with seen := (⟨scKey 3 h, s.dev.now, h.laneB⟩ :: s.dev.inaug.seen).take 4096 } := by
  refine completes_of_exec (exec_claim ht) ?_
  have hi := takenSc_inaug 3 p h 8 s.found
  rw [takeClaim_unmoved (by rw [hi]; exact hh) (by rw [hi]; exact hst), judgeSleep_inaug, hi]
  rfl

theorem roundHigher_self (r : BitVec 16) : roundHigher r r = false := by simp [roundHigher]

/-- A claim of the round that is held lowers the identity held. -/
theorem heldAfter_same {c : HeldClaim} (low : Word48) (now : Nat) (hc : h.round = c.round) :
    heldAfter h low now (some c) = some { c with lowest := if low.toNat < c.lowest.toNat then low else c.lowest } := by
  simp only [heldAfter, hc, roundHigher_self]
  by_cases hlow : low.toNat < c.lowest.toNat <;> simp [hlow]

/-! ### The settle timer (R87, R90) -/

/-- The device on which the settle timer has run out. -/
def settled (t : Nat) (d : Dev) : Dev := onInaug (fun i => { i with settle := none }) (arrive t d)

/-- The leader begins the census. -/
def censusBegun (t : Nat) (front rear : Bool) (d : Dev) : Dev :=
  onInaug (fun i => { i with
    state := .census, backOff := none, frontDone := !front, rearDone := !rear, frontSegs := [], rearSegs := []
    censusDeadline := some ((settled t d).now + cfg d 0x2103 4 * usNs) }) (settled t d)

theorem exec_settleTimer {t : Nat} (hset : s.dev.inaug.settle = some t) (hst : s.dev.inaug.state = .claiming) :
    exec .settleTimer s = s.does fun d => judgeSleep (
      if d.inaug.lowest = d.chip.ident && !safeLow d then
        if !sideTakesPart d false && !sideTakesPart d true then reportsHeld (censusBegun t (sideTakesPart d false) (sideTakesPart d true) d)
        else createSc ((if sideTakesPart d false then upPorts d false else []) ++ (if sideTakesPart d true then upPorts d true else []))
          .census (censusBegun t (sideTakesPart d false) (sideTakesPart d true) d)
      else onInaug (fun i => { i with censusWait := some ((settled t d).now + 2 * cfg d 0x2103 4 * usNs) }) (settled t d)) := by
  show execSettleTimer s = _
  unfold execSettleTimer State.doesJudged
  refine does_congr (congrArg judgeSleep ?_)
  have hset : s.found.inaug.settle = some t := hset
  have hst : s.found.inaug.state = .claiming := hst
  dsimp only
  rw [hset, hst]
  rfl

theorem settled_now (t : Nat) (s : State) : (settled t s.found).now = max s.dev.now t := arrive_now t s.found

theorem censusBegun_scEnabled (t : Nat) (front rear : Bool) (d : Dev) : scEnabled (censusBegun t front rear d) = scEnabled d :=
  arrive_scEnabled t d

theorem censusBegun_inaug (t : Nat) (front rear : Bool) (s : State) : (censusBegun t front rear s.found).inaug = { s.dev.inaug with
    settle := none, state := .census, backOff := none, frontDone := !front, rearDone := !rear, frontSegs := [], rearSegs := []
    censusDeadline := some (max s.dev.now t + cfg s.dev 0x2103 4 * usNs) } := by
  rw [censusBegun, onInaug_inaug, settled_now, settled, onInaug_inaug, arrive_inaug]
  rfl

theorem settle_census {t : Nat} (hset : s.dev.inaug.settle = some t) (hst : s.dev.inaug.state = .claiming)
    (hlead : s.dev.inaug.lowest = s.dev.chip.ident) (hsafe : safeLow s.dev = false)
    (hany : sideTakesPart s.dev false = true ∨ sideTakesPart s.dev true = true) : Completes .settleTimer s fun d =>
      d.inaug.state = .census ∧ d.now = max s.dev.now t ∧
        d.inaug.censusDeadline = some (d.now + cfg s.dev 0x2103 4 * usNs) ∧
        (scEnabled s.dev = true → sideTakesPart s.dev false = true → SendsSc d (upPorts s.dev false) s.dev.inaug.round .census) ∧
        (scEnabled s.dev = true → sideTakesPart s.dev true = true → SendsSc d (upPorts s.dev true) s.dev.inaug.round .census) := by
  refine completes_of_exec (exec_settleTimer hset hst) ?_
  have hfound : s.found.inaug.lowest = s.found.chip.ident ∧ safeLow s.found = false ∧ sideTakesPart s.found = sideTakesPart s.dev ∧
    upPorts s.found = upPorts s.dev := ⟨hlead, hsafe, rfl, rfl⟩
  obtain ⟨h1, h2, h3, h4⟩ := hfound
  rw [if_pos (by simp [h1, h2]), h3, h4, if_neg (by rcases hany with h | h <;> simp [h])]
  generalize hports : (if sideTakesPart s.dev false then upPorts s.dev false else []) ++
    (if sideTakesPart s.dev true then upPorts s.dev true else []) = ports
  generalize sideTakesPart s.dev false = f at *
  generalize sideTakesPart s.dev true = r at *
  have hi := censusBegun_inaug t f r s
  have hnow : (censusBegun t f r s.found).now = max s.dev.now t := settled_now t s
  have hen := censusBegun_scEnabled t f r s.found
  generalize censusBegun t f r s.found = c at *
  have hm := (createSc_move ports .census c).trans (judgeSleep_move _)
  have hsends : scEnabled s.dev = true → SendsSc (judgeSleep (createSc ports .census c)) ports s.dev.inaug.round .census := fun he => by
    have hs := createSc_sends (d := c) (hen.trans he) ports .census
    rw [hi] at hs
    exact hs.move (judgeSleep_move _)
  rw [judgeSleep_inaug, createSc_inaug, hm.clock, hnow, hi]
  refine ⟨rfl, rfl, rfl, fun he hf q hq => hsends he q ?_, fun he hr q hq => hsends he q ?_⟩
  · rw [← hports, if_pos hf]
    exact List.mem_append_left _ hq
  · rw [← hports, if_pos hr]
    exact List.mem_append_right _ hq

/-- With no neighbour that takes part, the chain is the node alone. -/
theorem heldChain_alone {d : Dev} (hf : d.inaug.frontSegs = []) (hr : d.inaug.rearSegs = []) :
    heldChain d = [⟨ownRecord d false, true⟩] := by
  rw [heldChain, hf, hr]
  rfl

theorem exec_settle_alone {t : Nat} (hset : s.dev.inaug.settle = some t) (hst : s.dev.inaug.state = .claiming)
    (hlead : s.dev.inaug.lowest = s.dev.chip.ident) (hsafe : safeLow s.dev = false)
    (hf : sideTakesPart s.dev false = false) (hr : sideTakesPart s.dev true = false) :
    exec .settleTimer s = s.does fun d => judgeSleep (reportsHeld (censusBegun t false false d)) := by
  rw [exec_settleTimer hset hst]
  refine does_congr (congrArg judgeSleep ?_)
  have hfound : s.found.inaug.lowest = s.found.chip.ident ∧ safeLow s.found = false ∧ sideTakesPart s.found false = false ∧
    sideTakesPart s.found true = false := ⟨hlead, hsafe, hf, hr⟩
  obtain ⟨h1, h2, h3, h4⟩ := hfound
  rw [if_pos (by simp [h1, h2]), h3, h4]
  rfl

theorem censusBegun_standard (t : Nat) (s : State) : (ownRecord (censusBegun t false false s.found) false).standardOnly = anyStandard s.dev := by
  have hb : ∀ q, backOf (censusBegun t false false s.found) q = backOf s.dev q := fun q => by
    rw [backOf, censusBegun_inaug, backOf]
  show anyStandard (censusBegun t false false s.found) = _
  simp only [anyStandard, sideStandard, hb]

theorem settle_alone {t : Nat} (hset : s.dev.inaug.settle = some t) (hst : s.dev.inaug.state = .claiming)
    (hlead : s.dev.inaug.lowest = s.dev.chip.ident) (hsafe : safeLow s.dev = false)
    (hf : sideTakesPart s.dev false = false) (hr : sideTakesPart s.dev true = false) (hstd : anyStandard s.dev = false) :
    Completes .settleTimer s fun d => d.inaug.state = .committing ∧ ∃ a, d.inaug.accepted = some a ∧ a.originator = s.dev.chip.ident ∧
      a.switchAt = max s.dev.now t + cfg s.dev 0x2103 5 * usNs ∧ a.body.entries.map (·.ident) = [s.dev.chip.ident] := by
  refine completes_of_exec (exec_settle_alone hset hst hlead hsafe hf hr) ?_
  have hi := censusBegun_inaug t false false s
  have hstd' := (censusBegun_standard t s).trans hstd
  have hnow : (censusBegun t false false s.found).now = max s.dev.now t := settled_now t s
  have hchip : (censusBegun t false false s.found).chip = s.dev.chip := by
    rw [show (censusBegun t false false s.found).chip = (arrive t s.found).chip from rfl, arrive_chip]
    rfl
  have hcfg : cfg (censusBegun t false false s.found) 0x2103 5 = cfg s.dev 0x2103 5 := cfg_arrive t s.found _ _
  generalize censusBegun t false false s.found = c at *
  have hchain : heldChain c = [⟨ownRecord c false, true⟩] := heldChain_alone (by rw [hi]) (by rw [hi])
  obtain ⟨hstate, -, a, ha, horig, hat, -, hbody⟩ := reportsHeld_commits (d := c) (by rw [hchain]; simpa using hstd')
  rw [judgeSleep_inaug]
  refine ⟨hstate, a, ha, horig.trans (congrArg ChipS.ident hchip), ?_, ?_⟩
  · rw [hat, hnow, hcfg]
  · rw [hbody, hchain, numberTrain_single]
    exact congrArg (fun x : ChipS => [x.ident]) hchip

theorem abortRound_standard (d : Dev) : (abortRound 3 d).inaug.state = .standard ∧ (abortRound 3 d).inaug.standard = true := by
  unfold abortRound
  rw [if_pos rfl, enterStandard_inaug]
  exact ⟨rfl, rfl⟩

theorem settle_standard {t : Nat} (hset : s.dev.inaug.settle = some t) (hst : s.dev.inaug.state = .claiming)
    (hlead : s.dev.inaug.lowest = s.dev.chip.ident) (hsafe : safeLow s.dev = false)
    (hf : sideTakesPart s.dev false = false) (hr : sideTakesPart s.dev true = false) (hstd : anyStandard s.dev = true) :
    Completes .settleTimer s fun d => d.inaug.state = .standard ∧ d.inaug.standard = true := by
  refine completes_of_exec (exec_settle_alone hset hst hlead hsafe hf hr) ?_
  have hi := censusBegun_inaug t false false s
  have hstd' := (censusBegun_standard t s).trans hstd
  generalize censusBegun t false false s.found = c at *
  have hchain : heldChain c = [⟨ownRecord c false, true⟩] := heldChain_alone (by rw [hi]) (by rw [hi])
  rw [judgeSleep_inaug, reportsHeld_standard (by rw [hchain]; simpa using hstd')]
  exact abortRound_standard c

theorem settle_waits {t : Nat} (hset : s.dev.inaug.settle = some t) (hst : s.dev.inaug.state = .claiming)
    (hno : s.dev.inaug.lowest ≠ s.dev.chip.ident ∨ safeLow s.dev = true) : Completes .settleTimer s fun d =>
      d.inaug = { s.dev.inaug with settle := none, censusWait := some (max s.dev.now t + 2 * cfg s.dev 0x2103 4 * usNs) } := by
  refine completes_of_exec (exec_settleTimer hset hst) ?_
  have hno : s.found.inaug.lowest ≠ s.found.chip.ident ∨ safeLow s.found = true := hno
  rw [if_neg (by rcases hno with h | h <;> simp [h]), judgeSleep_inaug, onInaug_inaug, settled_now, settled, onInaug_inaug, arrive_inaug]
  rfl

/-! ### Back-off and the ends of a round (R89, R91, R97) -/

theorem backOff_completes {t : Nat} (hb : s.dev.inaug.backOff = some t) : Completes .backOffEnd s fun d =>
    d.inaug.round = s.dev.inaug.round + 1 ∧ d.inaug.state = .claiming ∧ d.inaug.lowest = ownClaim s.dev ∧ d.now = max s.dev.now t ∧
      cfg d 0x2107 1 = min 0xFFFFFFFF (cfg s.dev 0x2107 1 + 1) ∧
      (scEnabled s.dev = true → SendsSc d (bothSides s.dev) (s.dev.inaug.round + 1) (.claim (ownClaim s.dev))) := by
  have hrun : exec .backOffEnd s = s.does fun d => judgeSleep (startRoundFrom (arrive t d).now [] (arrive t d)) := by
    show execBackOffEnd s = _
    unfold execBackOffEnd State.doesJudged
    refine does_congr (congrArg judgeSleep ?_)
    have hb : s.found.inaug.backOff = some t := hb
    dsimp only
    rw [hb]
    rfl
  refine completes_of_exec hrun ?_
  have hcount := startRoundFrom_counts (arrive t s.found).now [] (arrive t s.found)
  obtain ⟨e, -, he, heports, hr⟩ := startRoundFrom_entered (arrive t s.found).now [] (arrive t s.found)
  have hmove := startRoundFrom_move (arrive t s.found).now [] (arrive t s.found)
  have hown : ownClaim (arrive t s.found) = ownClaim s.dev := by
    unfold ownClaim safeLow
    rw [arrive_pow, arrive_chip]
    rfl
  have hround : (arrive t s.found).inaug.round = s.dev.inaug.round := by rw [arrive_inaug]; rfl
  rw [hown, hround] at hr
  rw [judgeSleep_inaug, quiet_cfg (judgeSleep_quiet _) (by decide), (judgeSleep_move _).clock, hmove.clock, hcount, cfg_arrive]
  refine ⟨hr.round, hr.state, hr.lowest, arrive_now t s.found, rfl, fun hen => ?_⟩
  have hs := hr.sends (he.scEnabled.trans ((arrive_scEnabled t s.found).trans hen))
  rw [bothSides_of_ports (a := s.dev) (heports.trans (arrive_ports t s.found))] at hs
  exact hs.move (judgeSleep_move _)

/-- Nothing of what a failed round is judged by differs. -/
structure RoundStands (a d : Dev) : Prop where
  counts : ∀ sub, sub < 0x100 → cfg d 0x2107 sub = cfg a 0x2107 sub
  limit : cfg d 0x2102 5 = cfg a 0x2102 5
  failed : d.inaug.failedRounds = a.inaug.failedRounds
  round : d.inaug.round = a.inaug.round
  held : d.inaug.heldClaim = a.inaug.heldClaim

theorem RoundStands.trans {a b c : Dev} (h1 : RoundStands a b) (h2 : RoundStands b c) : RoundStands a c :=
  ⟨fun sub hs => (h2.counts sub hs).trans (h1.counts sub hs), h2.limit.trans h1.limit, h2.failed.trans h1.failed,
    h2.round.trans h1.round, h2.held.trans h1.held⟩

theorem RoundStands.fails {d : Dev} (h : RoundStands s.dev d) :
    RoundFailed s.dev (judgeSleep (failRound d)) :=
  failRound_failed (h.counts 3 (by decide)) (h.counts 4 (by decide)) h.limit h.failed h.round h.held

theorem failRound_now (d : Dev) : (judgeSleep (failRound d)).now = d.now := by
  rw [(judgeSleep_move _).clock, (failRound_move d).clock]

theorem createSc_stands (ports : List Port) (b : ScBody) (d : Dev) : RoundStands d (createSc ports b d) :=
  ⟨fun _ hs => quiet_cfg (createSc_quiet ports b d) hs, (createSc_move ports b d).cfg _ _ (by decide),
    by rw [createSc_inaug], by rw [createSc_inaug], by rw [createSc_inaug]⟩

theorem passSc_stands (rear : Bool) (h : ScHeader) (more : Bool) (b : ScBody) (d : Dev) : RoundStands d (passSc rear h more b d) :=
  ⟨fun _ hs => quiet_cfg (sendSc_quiet _ _ _ _ _ _ _ _ _) hs, (passSc_move rear h more b d).cfg _ _ (by decide),
    by rw [passSc_inaug], by rw [passSc_inaug], by rw [passSc_inaug]⟩

theorem takenSc_stands (kind : Nat) (p : Port) (h : ScHeader) (len : Nat) (s : State) : RoundStands s.dev (takenSc kind p h len s.found) := by
  have hi := takenSc_inaug kind p h len s.found
  refine ⟨fun _ hs => ?_, (takenSc_move kind p h len s.found).cfg _ _ (by decide), by rw [hi]; rfl, by rw [hi]; rfl, by rw [hi]; rfl⟩
  exact quiet_cfg ((countGood_regs p (frameLen (20 + len)) s.found).mono fun r hr =>
    List.mem_append_right _ (List.mem_flatMap.2 ⟨p, List.mem_finRange p, hr⟩)) hs

theorem arrive_stands (t : Nat) (s : State) : RoundStands s.dev (arrive t s.found) := by
  refine ⟨fun sub _ => cfg_arrive t s.found _ sub, cfg_arrive t s.found _ _, ?_, ?_, ?_⟩ <;> rw [arrive_inaug] <;> rfl

/-- The device just before an aborted round fails. -/
def aborted (cause : Nat) (d : Dev) : Dev :=
  createSc (bothSides d) (.abort cause (match d.inaug.accepted with
    | some a => a.body.epoch.toNat
    | none => epochAfter d.inaug.now.epoch)) d

theorem abortRound_fails {cause : Nat} (hc : cause ≠ 3) (d : Dev) : abortRound cause d = failRound (aborted cause d) := if_neg hc

/-- An aborted round fails, and an ABORT of its cause leaves on both sides. -/
theorem aborted_fails {cause : Nat} (hc : cause ≠ 3) {d : Dev} (hd : RoundStands s.dev d) (hen : scEnabled d = scEnabled s.dev)
    (hports : d.ports = s.dev.ports) (hchip : d.chip = s.dev.chip) :
    (RoundFailed s.dev (judgeSleep (abortRound cause d)) ∧ (judgeSleep (abortRound cause d)).now = d.now) ∧
      (scEnabled s.dev = true → ∀ q ∈ bothSides s.dev, ∃ seq epoch,
        Out.springcount q s.dev.chip.ident s.dev.inaug.round seq 0 0 false (.abort cause epoch) ∈ (judgeSleep (abortRound cause d)).out) := by
  rw [abortRound_fails hc]
  refine ⟨⟨(hd.trans (createSc_stands _ _ d)).fails, (failRound_now _).trans (createSc_move _ _ d).clock⟩, fun he q hq => ?_⟩
  obtain ⟨seq, hs⟩ := createSc_sends (hen.trans he) (bothSides d) (.abort cause (match d.inaug.accepted with
    | some a => a.body.epoch.toNat
    | none => epochAfter d.inaug.now.epoch)) q (by rwa [bothSides_of_ports hports])
  rw [← hchip, ← hd.round, ← (createSc_move (bothSides d) (.abort cause (match d.inaug.accepted with
    | some a => a.body.epoch.toNat
    | none => epochAfter d.inaug.now.epoch)) d).chip]
  exact ⟨seq, _, (judgeSleep_move _).sent _ ((failRound_move _).sent _ hs)⟩

theorem census_fails {t : Nat} (hst : s.dev.inaug.state = .census) (ht : s.dev.inaug.censusDeadline = some t) :
    Completes .censusTimeout s fun d => (RoundFailed s.dev d ∧ d.now = max s.dev.now t) ∧ (scEnabled s.dev = true → ∀ q ∈ bothSides s.dev,
      ∃ seq epoch, Out.springcount q s.dev.chip.ident s.dev.inaug.round seq 0 0 false (.abort 1 epoch) ∈ d.out) := by
  have hrun : exec .censusTimeout s = s.does fun d => judgeSleep (abortRound 1 (arrive t d)) := by
    show execCensusTimeout s = _
    unfold execCensusTimeout State.doesJudged
    refine does_congr (congrArg judgeSleep ?_)
    have hst : s.found.inaug.state = .census := hst
    have ht : s.found.inaug.censusDeadline = some t := ht
    dsimp only
    rw [hst, ht]
  refine completes_of_exec hrun ?_
  rw [← show (arrive t s.found).now = max s.dev.now t from arrive_now t s.found]
  exact aborted_fails (by decide) (arrive_stands t s) (arrive_scEnabled t s.found) (arrive_ports t s.found) (arrive_chip t s.found)

theorem censusWait_fails {t : Nat} (hst : s.dev.inaug.state = .claiming) (ht : s.dev.inaug.censusWait = some t) :
    Completes .censusWaitTimeout s fun d => RoundFailed s.dev d ∧ d.now = max s.dev.now t := by
  have hrun : exec .censusWaitTimeout s = s.does fun d => judgeSleep (failRound (arrive t d)) := by
    show execCensusWaitTimeout s = _
    unfold execCensusWaitTimeout State.doesJudged
    refine does_congr (congrArg judgeSleep ?_)
    have hst : s.found.inaug.state = .claiming := hst
    have ht : s.found.inaug.censusWait = some t := ht
    dsimp only
    rw [hst, ht]
  exact completes_of_exec hrun ⟨(arrive_stands t s).fails, (failRound_now _).trans (arrive_now t s.found)⟩

theorem commitWait_fails {t : Nat} (hst : s.dev.inaug.state = .reporting) (ht : s.dev.inaug.commitWait = some t) :
    Completes .commitWaitTimeout s fun d => RoundFailed s.dev d ∧ d.now = max s.dev.now t := by
  have hrun : exec .commitWaitTimeout s = s.does fun d => judgeSleep (failRound (arrive t d)) := by
    show execCommitWaitTimeout s = _
    unfold execCommitWaitTimeout State.doesJudged
    refine does_congr (congrArg judgeSleep ?_)
    have hst : s.found.inaug.state = .reporting := hst
    have ht : s.found.inaug.commitWait = some t := ht
    dsimp only
    rw [hst, ht]
  exact completes_of_exec hrun ⟨(arrive_stands t s).fails, (failRound_now _).trans (arrive_now t s.found)⟩

/-- The device on which the time for the ACKs has run out. -/
def acksDue (t : Nat) (d : Dev) : Dev := onInaug (fun i => { i with ackDeadline := none }) (arrive t d)

theorem acksDue_stands (t : Nat) (s : State) : RoundStands s.dev (acksDue t s.found) :=
  (arrive_stands t s).trans ⟨fun _ _ => rfl, rfl, rfl, rfl, rfl⟩

theorem exec_ackDeadline {t : Nat} {a : AcceptedCommit} (ht : s.dev.inaug.ackDeadline = some t) (ha : s.dev.inaug.accepted = some a) :
    exec .ackDeadline s = s.does fun d => judgeSleep (
      if s.dev.inaug.acksFront + s.dev.inaug.acksRear + ackShare s.dev a.body < (a.body.entries.filter (fun e => e.node ≠ 0)).length then
        abortRound 2 (acksDue t d) else acksDue t d) := by
  show execAckDeadline s = _
  unfold execAckDeadline State.doesJudged
  refine does_congr (congrArg judgeSleep ?_)
  have ht : s.found.inaug.ackDeadline = some t := ht
  have ha : s.found.inaug.accepted = some a := ha
  dsimp only
  rw [ht, ha]
  rfl

theorem acks_short {t : Nat} {a : AcceptedCommit} (ht : s.dev.inaug.ackDeadline = some t) (ha : s.dev.inaug.accepted = some a)
    (hs : s.dev.inaug.acksFront + s.dev.inaug.acksRear + ackShare s.dev a.body < (a.body.entries.filter (fun e => e.node ≠ 0)).length) :
    Completes .ackDeadline s fun d => (RoundFailed s.dev d ∧ d.now = max s.dev.now t) ∧ (scEnabled s.dev = true → ∀ q ∈ bothSides s.dev,
      ∃ seq epoch, Out.springcount q s.dev.chip.ident s.dev.inaug.round seq 0 0 false (.abort 2 epoch) ∈ d.out) := by
  refine completes_of_exec (exec_ackDeadline ht ha) ?_
  rw [if_pos hs, ← show (acksDue t s.found).now = max s.dev.now t from arrive_now t s.found]
  exact aborted_fails (by decide) (acksDue_stands t s) (arrive_scEnabled t s.found) (arrive_ports t s.found) (arrive_chip t s.found)

theorem acks_enough {t : Nat} {a : AcceptedCommit} (ht : s.dev.inaug.ackDeadline = some t) (ha : s.dev.inaug.accepted = some a)
    (hs : (a.body.entries.filter (fun e => e.node ≠ 0)).length ≤ s.dev.inaug.acksFront + s.dev.inaug.acksRear + ackShare s.dev a.body) :
    Completes .ackDeadline s fun d => d.inaug = { s.dev.inaug with ackDeadline := none } := by
  refine completes_of_exec (exec_ackDeadline ht ha) ?_
  rw [if_neg (Nat.not_lt.2 hs), judgeSleep_inaug, acksDue, onInaug_inaug, arrive_inaug]
  rfl

/-! ### ABORT (R88, R97, R111) -/

/-- The device that has passed an ABORT on where its other side takes part. -/
def abortPassed (p : Port) (h : ScHeader) (b : ScBody) (d : Dev) : Dev :=
  if sideTakesPart d (!isRear p) then passSc (!isRear p) h h.more b d else d

theorem exec_abort {cause : BitVec 8} {epoch : BitVec 16} (ht : TakesSc s.dev 8 p h 4) (hr : h.round = s.dev.inaug.round)
    (ho : h.originator = s.dev.inaug.lowest) (hin : inRound s.dev = true) :
    exec (.abort p h cause epoch) s = s.does fun d => judgeSleep (
      if cause = 3 then enterStandard (abortPassed p h (.abort cause.toNat epoch.toNat) (takenSc 8 p h 4 d))
      else failRound (abortPassed p h (.abort cause.toNat epoch.toNat) (takenSc 8 p h 4 d))) := by
  show execAbort p h cause epoch s = _
  unfold execAbort State.doesJudged
  refine does_congr (congrArg judgeSleep (takeSc_taken ht ?_))
  have hi := countGood_inaug p (frameLen (20 + 4)) s.found
  unfold fromLowest inRound
  rw [hi]
  have hin : inRound s.found = true := hin
  unfold inRound at hin
  have hr : h.round = s.found.inaug.round := hr
  have ho : h.originator = s.found.inaug.lowest := ho
  simp [hr, ho, hin]

theorem abortPassed_stands (p : Port) (h : ScHeader) (b : ScBody) (d : Dev) : RoundStands d (abortPassed p h b d) := by
  unfold abortPassed
  split
  · exact passSc_stands _ _ _ _ d
  · exact ⟨fun _ _ => rfl, rfl, rfl, rfl, rfl⟩

theorem abort_completes {cause : BitVec 8} {epoch : BitVec 16} (ht : TakesSc s.dev 8 p h 4) (hr : h.round = s.dev.inaug.round)
    (ho : h.originator = s.dev.inaug.lowest) (hin : inRound s.dev = true) : Completes (.abort p h cause epoch) s fun d =>
      (sideTakesPart s.dev (!isRear p) = true → PassesSc d (upPorts s.dev (!isRear p)) h (.abort cause.toNat epoch.toNat)) ∧
        if cause = 3 then d.inaug.state = .standard ∧ d.inaug.standard = true ∧ d.inaug.accepted = none else RoundFailed s.dev d := by
  refine completes_of_exec (exec_abort ht hr ho hin) ?_
  generalize ScBody.abort cause.toNat epoch.toNat = b
  have hm := takenSc_move 8 p h 4 s.found
  have hstands := (takenSc_stands 8 p h 4 s).trans (abortPassed_stands p h b (takenSc 8 p h 4 s.found))
  have hside : sideTakesPart (takenSc 8 p h 4 s.found) (!isRear p) = sideTakesPart s.dev (!isRear p) := by
    have hb : ∀ q, backOf (takenSc 8 p h 4 s.found) q = backOf s.dev q := fun q => by
      rw [backOf, takenSc_inaug]
      rfl
    simp only [sideTakesPart, heardOn, sideStandard, hb]
  have hpass : sideTakesPart s.dev (!isRear p) = true →
      PassesSc (abortPassed p h b (takenSc 8 p h 4 s.found)) (upPorts s.dev (!isRear p)) h b := fun hs => by
    have hp := passSc_passes (d := takenSc 8 p h 4 s.found) (hm.scEnabled.trans ht.2.2.1) (!isRear p) h b
    rw [upPorts_of_ports (takenSc_ports 8 p h 4 s.found)] at hp
    rwa [abortPassed, if_pos (hside.trans hs)]
  generalize abortPassed p h b (takenSc 8 p h 4 s.found) = e at *
  by_cases hc : cause = 3
  · rw [if_pos hc, if_pos hc, judgeSleep_inaug, enterStandard_inaug]
    exact ⟨fun hs => (hpass hs).sent ((enterStandard_move e).trans (judgeSleep_move _)).sent, rfl, rfl, rfl⟩
  · rw [if_neg hc, if_neg hc]
    exact ⟨fun hs => (hpass hs).sent ((failRound_move e).trans (judgeSleep_move _)).sent, hstands.fails⟩

end clauses

/-- Settles O26. -/
theorem roundsElectTheLowestIdentityOrFail : Obligations.RoundsElectTheLowestIdentityOrFail := by
  unfold Obligations.RoundsElectTheLowestIdentityOrFail
  intro s i own settles
  refine ⟨fun p h low ht => ⟨fun hh => ⟨fun hst hsl => claim_joins ht hh hst hsl, fun hst hheld => ?_, fun c hst hheld => ⟨fun hc => ?_, fun hc => ?_⟩⟩,
    fun hh => ⟨fun hst hlow => claim_lowers ht hh hst hlow, fun hst => claim_unmoved ht hh hst⟩⟩,
    fun t hset hst => ⟨fun hlead hsafe => ⟨fun hany => settle_census hset hst hlead hsafe hany,
      fun hf hr hstd => settle_alone hset hst hlead hsafe hf hr hstd,
      fun hf hr hstd => settle_standard hset hst hlead hsafe hf hr hstd⟩, fun hno => settle_waits hset hst hno⟩,
    fun t hb => backOff_completes hb,
    fun t => ⟨fun hst ht => census_fails hst ht, fun hst ht => censusWait_fails hst ht, fun hst ht => commitWait_fails hst ht,
      fun a ht ha => ⟨fun hs => acks_short ht ha hs, fun hs => acks_enough ht ha hs⟩⟩,
    fun p h cause epoch ht hr ho hin => abort_completes ht hr ho hin⟩
  · have hcl := claim_held (low := low) ht hh hst
    rw [hheld] at hcl
    exact hcl
  · have hcl := claim_held (low := low) ht hh hst
    rw [hheld, heldAfter, if_pos hc] at hcl
    exact hcl
  · have hcl := claim_held (low := low) ht hh hst
    rw [hheld, heldAfter_same low s.dev.now hc] at hcl
    exact hcl

end Sys2Proof.Machine
end

section
/-! PROOF. The census, the COMMIT and its acknowledgement (R81, R85, R88, R90, R91, R96, R97, R108). -/

namespace Sys2Proof.Machine

section taken

/-- A register that no frame counter is reads the same after a frame of the exchange is taken. -/
theorem takenSc_regs (kind : Nat) (p : Port) (h : ScHeader) (len : Nat) (d : Dev) : RegsFramed (frameCounters p) d (takenSc kind p h len d) :=
  (countGood_regs p (frameLen (20 + len)) d).trans (.of_same rfl)

theorem countGood_linkDelay (p q : Port) (len : Nat) (d : Dev) : linkDelayNs (countGood p len d) q = linkDelayNs d q := by
  have ht : (countGood p len d).time.rest = d.time.rest :=
    (countGood_framed (L := [.regs, .counters]) p len d (fun _ h => h) (.refl _ _)).same .time (by decide)
  have hports : (countGood p len d).time.ports = d.time.ports := (congrArg TimeS.ports ht :)
  have hq := q.isLt
  unfold linkDelayNs
  rw [hports, (countGood_regs p len d).cfg _ 6 (frameCounters_ne p _ 6 (by omega) (by decide))]

theorem takenSc_linkDelay (kind : Nat) (p q : Port) (h : ScHeader) (len : Nat) (d : Dev) :
    linkDelayNs (takenSc kind p h len d) q = linkDelayNs d q := countGood_linkDelay p q _ d

theorem takenSc_backOf (kind : Nat) (p q : Port) (h : ScHeader) (len : Nat) (s : State) : backOf (takenSc kind p h len s.found) q = backOf s.dev q := by
  rw [backOf, takenSc_inaug]
  rfl

theorem takenSc_sideTakesPart (kind : Nat) (p : Port) (h : ScHeader) (len : Nat) (s : State) (rear : Bool) :
    sideTakesPart (takenSc kind p h len s.found) rear = sideTakesPart s.dev rear := by
  simp only [sideTakesPart, heardOn, sideStandard, takenSc_backOf]

/-- The node's own record is the same once a frame is taken. -/
theorem takenSc_ownRecord (kind : Nat) (p : Port) (h : ScHeader) (len : Nat) (s : State) (rear : Bool) :
    ownRecord (takenSc kind p h len s.found) rear = ownRecord s.dev rear := by
  have hm := takenSc_move kind p h len s.found
  have hvehicle : (takenSc kind p h len s.found).dict.reg 0x2100 5 = s.dev.dict.reg 0x2100 5 :=
    (takenSc_regs kind p h len s.found (odKey 0x2100 5)).resolve_left fun ⟨r, hr, e⟩ =>
      frameCounters_ne p 0x2100 5 (by decide) (by decide) r hr e
  have hpow : (takenSc kind p h len s.found).pow = s.dev.pow :=
    (takenSc_framed kind p h len s.found).same .pow (by decide)
  have hstd : anyStandard (takenSc kind p h len s.found) = anyStandard s.dev := by
    simp only [anyStandard, sideStandard, takenSc_backOf]
  have hcfg : ∀ idx sub, odKey idx sub < odKey 0x2107 0 → cfg (takenSc kind p h len s.found) idx sub = cfg s.dev idx sub :=
    fun idx sub hk => hm.cfg idx sub hk
  unfold ownRecord safeLow cfgB cfgBytes portUp
  rw [hstd, hpow, takenSc_ports, hcfg 0x2100 2 (by decide), hcfg 0x2100 3 (by decide), hcfg 0x2100 4 (by decide),
    hcfg 0x2100 6 (by decide), hcfg 0x2105 1 (by decide), hvehicle, hm.chip, takenSc_inaug]
  rfl

end taken

section clauses

variable {s : State} {p : Port} {h : ScHeader}

/-! ### CENSUS (R88, R90) -/

/-- The node that takes part in a census. -/
def reporting (rear : Bool) (deadline : Nat) (d : Dev) : Dev :=
  onInaug (fun i => { i.stopTimers with state := .reporting, censusFromRear := some rear, commitWait := some deadline }) d

theorem exec_census (ht : TakesSc s.dev 4 p h 0) (hr : h.round = s.dev.inaug.round) (ho : h.originator = s.dev.inaug.lowest)
    (hst : s.dev.inaug.state = .claiming) : exec (.census p h) s = s.does fun d => judgeSleep (
      if sideTakesPart (takenSc 4 p h 0 d) (!isRear p) then
        passSc (!isRear p) h h.more .census (reporting (isRear p) (s.dev.now + 2 * cfg s.dev 0x2103 4 * usNs) (takenSc 4 p h 0 d))
      else createSc (upPorts (takenSc 4 p h 0 d) (isRear p)) (.report [ownRecord (takenSc 4 p h 0 d) (isRear p)])
        (reporting (isRear p) (s.dev.now + 2 * cfg s.dev 0x2103 4 * usNs) (takenSc 4 p h 0 d))) := by
  have hm := takenSc_move 4 p h 0 s.found
  have hdeadline : (takenSc 4 p h 0 s.found).now + 2 * cfg (takenSc 4 p h 0 s.found) 0x2103 4 * usNs =
      s.dev.now + 2 * cfg s.dev 0x2103 4 * usNs := by
    rw [hm.clock, hm.cfg 0x2103 4 (by decide)]
    rfl
  show execCensus p h s = _
  unfold execCensus State.doesJudged
  refine does_congr (congrArg judgeSleep ?_)
  rw [takeSc_taken ht ?_]
  · dsimp only
    rw [hdeadline]
    rfl
  · unfold fromLowest
    rw [countGood_inaug]
    simp [State.found, hr, ho, hst]

theorem census_completes (ht : TakesSc s.dev 4 p h 0) (hr : h.round = s.dev.inaug.round) (ho : h.originator = s.dev.inaug.lowest)
    (hst : s.dev.inaug.state = .claiming) : Completes (.census p h) s fun d =>
      d.inaug.state = .reporting ∧ d.inaug.censusFromRear = some (isRear p) ∧
        d.inaug.commitWait = some (s.dev.now + 2 * cfg s.dev 0x2103 4 * usNs) ∧ d.inaug.settle = none ∧
        if sideTakesPart s.dev (!isRear p) then PassesSc d (upPorts s.dev (!isRear p)) h .census
        else SendsSc d (upPorts s.dev (isRear p)) s.dev.inaug.round (.report [ownRecord s.dev (isRear p)]) := by
  refine completes_of_exec (exec_census ht hr ho hst) ?_
  rw [takenSc_sideTakesPart, takenSc_ownRecord, upPorts_of_ports (a := s.dev) (takenSc_ports 4 p h 0 s.found)]
  generalize s.dev.now + 2 * cfg s.dev 0x2103 4 * usNs = deadline
  have hround : (reporting (isRear p) deadline (takenSc 4 p h 0 s.found)).inaug.round = s.dev.inaug.round := by
    rw [reporting, onInaug_inaug, takenSc_inaug]
    rfl
  have hup := upPorts_of_ports (a := s.dev) (b := reporting (isRear p) deadline (takenSc 4 p h 0 s.found)) (takenSc_ports 4 p h 0 s.found)
  have hen : scEnabled (reporting (isRear p) deadline (takenSc 4 p h 0 s.found)) = true := (takenSc_move 4 p h 0 s.found).scEnabled.trans ht.2.2.1
  by_cases hside : sideTakesPart s.dev (!isRear p) = true
  · have hp := passSc_passes hen (!isRear p) h .census
    rw [hup] at hp
    rw [if_pos hside, if_pos hside, judgeSleep_inaug, passSc_inaug]
    exact ⟨rfl, rfl, rfl, rfl, hp.sent (judgeSleep_move _).sent⟩
  · have hp := createSc_sends hen (upPorts s.dev (isRear p)) (.report [ownRecord s.dev (isRear p)])
    rw [hround] at hp
    rw [if_neg hside, if_neg hside, judgeSleep_inaug, createSc_inaug]
    exact ⟨rfl, rfl, rfl, rfl, hp.move (judgeSleep_move _)⟩

/-! ### REPORT (R90, R91) -/

/-- The exchange with a segment added to the side it came from. -/
def segmentAdded (rear : Bool) (seg : ReportSegment) (i : InaugS) : InaugS :=
  if rear then { i with
    rearSegs := i.rearSegs.filter (·.segment ≠ seg.segment) ++ [seg]
    rearDone := segmentsComplete (i.rearSegs.filter (·.segment ≠ seg.segment) ++ [seg]) }
  else { i with
    frontSegs := i.frontSegs.filter (·.segment ≠ seg.segment) ++ [seg]
    frontDone := segmentsComplete (i.frontSegs.filter (·.segment ≠ seg.segment) ++ [seg]) }

/-- The leader with a segment added. -/
def collected (p : Port) (h : ScHeader) (recs : List CensusRec) (d : Dev) : Dev :=
  onInaug (segmentAdded (isRear p) ⟨h.segment.toNat, h.more, recs⟩) (takenSc 5 p h (32 * recs.length) d)

/-- What becomes of a REPORT that passes a node. -/
def reportPassed (p : Port) (h : ScHeader) (recs : List CensusRec) (d : Dev) : Dev :=
  if h.more then passSc (!isRear p) h true (.report recs) d
  else if recs.length < 45 then passSc (!isRear p) h false (.report (recs ++ [ownRecord d (!isRear p)])) d
  else passSc (!isRear p) { h with segment := h.segment + 1 } false (.report [ownRecord d (!isRear p)])
    (passSc (!isRear p) h true (.report recs) d)

theorem exec_report {recs : List CensusRec} (ht : TakesSc s.dev 5 p h (32 * recs.length)) (hr : h.round = s.dev.inaug.round)
    (hst : s.dev.inaug.state = .census ∨ s.dev.inaug.state = .reporting ∧ s.dev.inaug.censusFromRear = some (!isRear p)) :
    exec (.report p h recs) s = s.does fun d => judgeSleep (
      if s.dev.inaug.state = .census then
        if (collected p h recs d).inaug.frontDone && (collected p h recs d).inaug.rearDone then reportsHeld (collected p h recs d)
        else collected p h recs d
      else reportPassed p h recs (takenSc 5 p h (32 * recs.length) d)) := by
  have hstate : (takenSc 5 p h (32 * recs.length) s.found).inaug.state = s.dev.inaug.state := by rw [takenSc_inaug]; rfl
  show execReport p h recs s = _
  unfold execReport State.doesJudged
  refine does_congr (congrArg judgeSleep ?_)
  rw [takeSc_taken ht ?_]
  · dsimp only
    rw [hstate]
    rfl
  · rw [countGood_inaug]
    rcases hst with hst | ⟨hst, hfrom⟩ <;> simp [State.found, *]

theorem collected_inaug (p : Port) (h : ScHeader) (recs : List CensusRec) (s : State) : (collected p h recs s.found).inaug =
    segmentAdded (isRear p) ⟨h.segment.toNat, h.more, recs⟩
      { s.dev.inaug with seen := (⟨scKey 5 h, s.dev.now, h.laneB⟩ :: s.dev.inaug.seen).take 4096 } := by
  rw [collected, onInaug_inaug, takenSc_inaug]
  rfl

/-- A record of the chain says so when a node of either side or the leader itself has a standard-only neighbour. -/
theorem chainOf_standard (front rear : List CensusRec) (own : CensusRec) :
    (chainOf front own rear).any (·.r.standardOnly) = (front ++ own :: rear).any (·.standardOnly) := by
  simp [chainOf, Function.comp_def]

theorem segmentAdded_backOf (rear : Bool) (seg : ReportSegment) (d : Dev) (q : Port) :
    backOf (onInaug (segmentAdded rear seg) d) q = backOf d q := by
  cases rear <;> rfl

theorem collected_standard (p : Port) (h : ScHeader) (recs : List CensusRec) (s : State) (rear : Bool) :
    (ownRecord (collected p h recs s.found) rear).standardOnly = (ownRecord s.dev rear).standardOnly := by
  show anyStandard (collected p h recs s.found) = anyStandard s.dev
  simp only [anyStandard, sideStandard, collected, segmentAdded_backOf, takenSc_backOf]

/-- The standard-only flags that the leader holds once a segment is added. -/
theorem heldChain_collected (p : Port) (h : ScHeader) (recs : List CensusRec) (s : State) {f r : List ReportSegment}
    (hf : (collected p h recs s.found).inaug.frontSegs = f) (hr : (collected p h recs s.found).inaug.rearSegs = r) :
    (heldChain (collected p h recs s.found)).any (·.r.standardOnly) =
      (segmentRecs f ++ ownRecord s.dev false :: segmentRecs r).any (·.standardOnly) := by
  rw [heldChain, chainOf_standard, hf, hr]
  simp only [List.any_append, List.any_cons, collected_standard]

theorem reportPassed_more (hm : h.more = true) (recs : List CensusRec) (d : Dev) :
    reportPassed p h recs d = passSc (!isRear p) h h.more (.report recs) d := by rw [reportPassed, if_pos hm, hm]

theorem reportPassed_room {recs : List CensusRec} (hm : h.more = false) (hl : recs.length < 45) (d : Dev) :
    reportPassed p h recs d = passSc (!isRear p) h h.more (.report (recs ++ [ownRecord d (!isRear p)])) d := by
  rw [reportPassed, if_neg (by simp [hm]), if_pos hl, hm]

theorem reportPassed_full {recs : List CensusRec} (hm : h.more = false) (hl : 45 ≤ recs.length) (d : Dev) :
    reportPassed p h recs d = passSc (!isRear p) { h with segment := h.segment + 1 } h.more (.report [ownRecord d (!isRear p)])
      (passSc (!isRear p) { h with more := true } true (.report recs) d) := by
  rw [reportPassed, if_neg (by simp [hm]), if_neg (Nat.not_lt.2 hl), hm]
  rfl

theorem report_collected {recs : List CensusRec} (ht : TakesSc s.dev 5 p h (32 * recs.length)) (hr : h.round = s.dev.inaug.round)
    (hst : s.dev.inaug.state = .census) {i : InaugS} (hi : segmentAdded (isRear p) ⟨h.segment.toNat, h.more, recs⟩
      { s.dev.inaug with seen := (⟨scKey 5 h, s.dev.now, h.laneB⟩ :: s.dev.inaug.seen).take 4096 } = i) :
    (i.frontDone = false ∨ i.rearDone = false → Completes (.report p h recs) s fun d => d.inaug = i) ∧
    (i.frontDone = true → i.rearDone = true →
      (segmentRecs i.frontSegs ++ ownRecord s.dev false :: segmentRecs i.rearSegs).any (·.standardOnly) = false →
      Completes (.report p h recs) s fun d =>
        d.inaug.state = .committing ∧ d.inaug.censusDeadline = none ∧ ∃ a, d.inaug.accepted = some a ∧ a.originator = s.dev.chip.ident ∧
          a.switchAt = s.dev.now + cfg s.dev 0x2103 5 * usNs ∧ a.fromRear = none) ∧
    (i.frontDone = true → i.rearDone = true →
      (segmentRecs i.frontSegs ++ ownRecord s.dev false :: segmentRecs i.rearSegs).any (·.standardOnly) = true →
      Completes (.report p h recs) s fun d => d.inaug.state = .standard ∧ d.inaug.standard = true) := by
  have hrun := exec_report ht hr (.inl hst)
  have hc := collected_inaug p h recs s
  rw [hi] at hc
  have hchain := heldChain_collected p h recs s (congrArg InaugS.frontSegs hc) (congrArg InaugS.rearSegs hc)
  have hm := takenSc_move 5 p h (32 * recs.length) s.found
  have hnow : (collected p h recs s.found).now = s.dev.now := hm.clock
  have hchip : (collected p h recs s.found).chip = s.dev.chip := hm.chip
  have hcfg : cfg (collected p h recs s.found) 0x2103 5 = cfg s.dev 0x2103 5 := hm.cfg 0x2103 5 (by decide)
  refine ⟨fun hd => completes_of_exec hrun ?_, fun hf hb hstd => completes_of_exec hrun ?_, fun hf hb hstd => completes_of_exec hrun ?_⟩
  all_goals generalize collected p h recs s.found = c at *
  all_goals rw [if_pos hst, hc]
  · rw [if_neg (by rcases hd with h | h <;> simp [h]), judgeSleep_inaug, hc]
  · rw [if_pos (by simp [hf, hb]), judgeSleep_inaug]
    obtain ⟨hstate, hcensus, a, ha, horig, hat, hrear, -⟩ := reportsHeld_commits (hchain.trans hstd)
    rw [hchip] at horig
    rw [hnow, hcfg] at hat
    exact ⟨hstate, hcensus, a, ha, horig, hat, hrear⟩
  · rw [if_pos (by simp [hf, hb]), judgeSleep_inaug, reportsHeld_standard (hchain.trans hstd)]
    exact abortRound_standard c

theorem exec_report_passed {recs : List CensusRec} {away : Bool} (ht : TakesSc s.dev 5 p h (32 * recs.length)) (hr : h.round = s.dev.inaug.round)
    (hst : s.dev.inaug.state = .reporting) (hfrom : s.dev.inaug.censusFromRear = some away) (haway : away = !isRear p) :
    exec (.report p h recs) s = s.does fun d => judgeSleep (reportPassed p h recs (takenSc 5 p h (32 * recs.length) d)) := by
  rw [exec_report ht hr (.inr ⟨hst, hfrom.trans (congrArg some haway)⟩), hst]
  rfl

theorem report_passed {recs : List CensusRec} {away : Bool} (ht : TakesSc s.dev 5 p h (32 * recs.length)) (hr : h.round = s.dev.inaug.round)
    (hst : s.dev.inaug.state = .reporting) (hfrom : s.dev.inaug.censusFromRear = some away) (hne : away ≠ isRear p) :
    (h.more = true → Completes (.report p h recs) s fun d => PassesSc d (upPorts s.dev away) h (.report recs)) ∧
    (h.more = false → recs.length < 45 → Completes (.report p h recs) s fun d =>
      PassesSc d (upPorts s.dev away) h (.report (recs ++ [ownRecord s.dev away]))) ∧
    (h.more = false → 45 ≤ recs.length → Completes (.report p h recs) s fun d =>
      PassesSc d (upPorts s.dev away) { h with more := true } (.report recs) ∧
        PassesSc d (upPorts s.dev away) { h with segment := h.segment + 1 } (.report [ownRecord s.dev away])) := by
  have haway : away = !isRear p := Bool.eq_not_iff.2 hne
  have hrun := exec_report_passed ht hr hst hfrom haway
  have hm := takenSc_move 5 p h (32 * recs.length) s.found
  have hen := hm.scEnabled.trans ht.2.2.1
  have hup : upPorts (takenSc 5 p h (32 * recs.length) s.found) = upPorts s.dev := funext (upPorts_of_ports (takenSc_ports _ _ _ _ _))
  have hown := takenSc_ownRecord 5 p h (32 * recs.length) s
  refine ⟨fun hmore => completes_of_exec hrun ?_, fun hmore hl => completes_of_exec hrun ?_, fun hmore hl => completes_of_exec hrun ?_⟩
  all_goals generalize takenSc 5 p h (32 * recs.length) s.found = t at *
  · rw [reportPassed_more hmore, haway, ← hup]
    exact (passSc_passes hen _ h _).sent (judgeSleep_move _).sent
  · rw [reportPassed_room hmore hl, haway, ← hup, ← hown]
    exact (passSc_passes hen _ h _).sent (judgeSleep_move _).sent
  · rw [reportPassed_full hmore hl, haway, ← hup, ← hown]
    have hfirst := passSc_move (!isRear p) { h with more := true } true (.report recs) t
    have hlast := passSc_passes (d := passSc (!isRear p) { h with more := true } true (.report recs) t) (hfirst.scEnabled.trans hen) (!isRear p)
      { h with segment := h.segment + 1 } (.report [ownRecord t (!isRear p)])
    rw [upPorts_of_ports (passSc_ports _ _ _ _ _)] at hlast
    exact ⟨(passSc_passes hen _ { h with more := true } _).sent ((passSc_move _ _ _ _ _).trans (judgeSleep_move _)).sent,
      hlast.sent (judgeSleep_move _).sent⟩

/-! ### COMMIT (R81, R85, R96, R97, R108) -/

/-- The COMMIT that a node accepts. -/
def acceptedOn (p : Port) (h : ScHeader) (b : CommitBody) (ids : List DirIds) (d : Dev) : AcceptedCommit :=
  { body := b, ids := ids, originator := h.originator, fromRear := some (isRear p), switchAt := d.now + b.countdown.toNat - linkDelayNs d p }

theorem acceptCommit_inaug (p : Port) (h : ScHeader) (b : CommitBody) (ids : List DirIds) (late : Bool) (d : Dev) :
    (acceptCommit p h b ids late d).inaug = { d.inaug.stopTimers with
      state := .committing, accepted := some (acceptedOn p h b ids d), lastCommit := some (acceptedOn p h b ids d)
      lateCopy := late, asked := [] } := startBuilds_inaug _

theorem acceptCommit_scEnabled (p : Port) (h : ScHeader) (b : CommitBody) (ids : List DirIds) (late : Bool) (d : Dev) :
    scEnabled (acceptCommit p h b ids late d) = scEnabled d := by
  unfold scEnabled cfgB
  rw [Framed.cfg_eq (acceptCommit_framed (L := [.inaug, .sched, .strm]) p h b ids late d (fun _ h => h) (.refl _ _)) (by decide)]

theorem acceptedOn_taken (p : Port) (h : ScHeader) (b : CommitBody) (ids : List DirIds) (kind len : Nat) (s : State) :
    acceptedOn p h b ids (takenSc kind p h len s.found) = acceptedOn p h b ids s.dev := by
  unfold acceptedOn
  rw [takenSc_linkDelay, (takenSc_move kind p h len s.found).clock]
  rfl

theorem acceptedOn_counted (p : Port) (h : ScHeader) (b : CommitBody) (ids : List DirIds) (len : Nat) (s : State) :
    acceptedOn p h b ids (countGood p len s.found) = acceptedOn p h b ids s.dev := by
  unfold acceptedOn
  rw [countGood_linkDelay, (countGood_move p len s.found).clock]
  rfl

theorem acceptCommit_ports (p : Port) (h : ScHeader) (b : CommitBody) (ids : List DirIds) (late : Bool) (d : Dev) :
    (acceptCommit p h b ids late d).ports = d.ports :=
  (acceptCommit_framed (L := [.inaug, .sched, .strm]) p h b ids late d (fun _ h => h) (.refl _ _)).same .ports (by decide)

/-- What a node does with the COMMIT that it takes. -/
theorem takeCommit_takes {b : CommitBody} {ids : List DirIds} {d : Dev} (hen : scEnabled d = true) :
    (takeCommit p h b ids d).inaug.state = .committing ∧ (takeCommit p h b ids d).inaug.accepted = some (acceptedOn p h b ids d) ∧
      (takeCommit p h b ids d).inaug.lastCommit = some (acceptedOn p h b ids d) ∧ (takeCommit p h b ids d).inaug.lateCopy = false ∧
      if sideTakesPart d (!isRear p) then
        ∃ less, less ≤ linkDelayNs d p + 16000 ∧ linkDelayNs d p ≤ less ∧ PassesSc (takeCommit p h b ids d) (upPorts d (!isRear p)) h
          (.commit { b with countdown := BitVec.ofNat 32 (b.countdown.toNat - less) })
      else SendsSc (takeCommit p h b ids d) (upPorts d (isRear p)) d.inaug.round (.ack (ackShare d b) b.epoch.toNat) := by
  have hi := acceptCommit_inaug p h b ids false d
  have hac := acceptCommit_scEnabled p h b ids false d
  have hports := acceptCommit_ports p h b ids false d
  unfold takeCommit
  dsimp only
  generalize acceptCommit p h b ids false d = a at *
  have hdraw : (draw a).inaug = a.inaug := rfl
  by_cases hside : sideTakesPart d (!isRear p) = true
  · simp only [if_pos hside, passSc_inaug, hdraw, hi, true_and]
    refine ⟨linkDelayNs d p + Config.freeNat a.fresh % 16001, by omega, by omega, ?_⟩
    have hp := passSc_passes (d := draw a) (hac.trans hen) (!isRear p) h
      (.commit { b with countdown := BitVec.ofNat 32 (b.countdown.toNat - (linkDelayNs d p + Config.freeNat a.fresh % 16001)) })
    rwa [upPorts_of_ports ((draw_ports a).trans hports)] at hp
  · simp only [if_neg hside, createSc_inaug, hi, true_and]
    have hs := createSc_sends (d := a) (hac.trans hen) (upPorts d (isRear p)) (.ack (ackShare d b) b.epoch.toNat)
    rwa [hi] at hs

theorem takeCommit_found {b : CommitBody} {ids : List DirIds} (ht : TakesSc s.dev 6 p h (20 + 12 * b.nodes.toNat)) (hr : h.round = s.dev.inaug.round)
    (ho : h.originator = s.dev.inaug.lowest) (hst : s.dev.inaug.state = .reporting) (hc : copyAwaited p s.dev = false) :
    exec (.springcountCommit p h ⟨b, ids⟩) s = s.does fun d => judgeSleep (takeCommit p h b ids (takenSc 6 p h (20 + 12 * b.nodes.toNat) d)) := by
  show execSpringcountCommit p h ⟨b, ids⟩ s = _
  unfold execSpringcountCommit State.doesJudged
  refine does_congr (congrArg judgeSleep ?_)
  have hc : copyAwaited p s.found = false := hc
  have hretime : onlyIf (portUp s.found p && scValid p h (20 + 12 * b.nodes.toNat)) (retimeCommit p h b) s.found = s.found := by
    have hst : s.found.inaug.state ≠ .committing := fun e => by cases hst.symm.trans e
    simp [onlyIf, retimeCommit, hst]
  dsimp only
  rw [hc, if_neg (by decide), hretime]
  refine takeSc_taken ht ?_
  unfold fromLowest
  rw [countGood_inaug]
  simp [State.found, hr, ho, hst]

theorem commit_taken {b : CommitBody} {ids : List DirIds} (ht : TakesSc s.dev 6 p h (20 + 12 * b.nodes.toNat)) (hr : h.round = s.dev.inaug.round)
    (ho : h.originator = s.dev.inaug.lowest) (hst : s.dev.inaug.state = .reporting) (hc : copyAwaited p s.dev = false) :
    Completes (.springcountCommit p h ⟨b, ids⟩) s fun d =>
      (d.inaug.state = .committing ∧ d.inaug.accepted = some (acceptedOn p h b ids s.dev) ∧
        d.inaug.lastCommit = some (acceptedOn p h b ids s.dev)) ∧ d.inaug.lateCopy = false ∧
        if sideTakesPart s.dev (!isRear p) then
          ∃ less, less ≤ linkDelayNs s.dev p + 16000 ∧ linkDelayNs s.dev p ≤ less ∧
            PassesSc d (upPorts s.dev (!isRear p)) h (.commit { b with countdown := BitVec.ofNat 32 (b.countdown.toNat - less) })
        else SendsSc d (upPorts s.dev (isRear p)) s.dev.inaug.round (.ack (ackShare s.dev b) b.epoch.toNat) := by
  refine completes_of_exec (takeCommit_found ht hr ho hst hc) ?_
  have hm := takenSc_move 6 p h (20 + 12 * b.nodes.toNat) s.found
  have hround : (takenSc 6 p h (20 + 12 * b.nodes.toNat) s.found).inaug.round = s.dev.inaug.round := by rw [takenSc_inaug]; rfl
  have hshare : ackShare (takenSc 6 p h (20 + 12 * b.nodes.toNat) s.found) b = ackShare s.dev b := by unfold ackShare; rw [hm.chip]; rfl
  have hup : upPorts (takenSc 6 p h (20 + 12 * b.nodes.toNat) s.found) = upPorts s.dev := funext (upPorts_of_ports (takenSc_ports _ _ _ _ _))
  obtain ⟨hstate, hacc, hlast, hlate, hsent⟩ := takeCommit_takes (p := p) (h := h) (b := b) (ids := ids) (hm.scEnabled.trans ht.2.2.1)
  rw [takenSc_linkDelay, takenSc_sideTakesPart, hup, hround, hshare] at hsent
  rw [acceptedOn_taken] at hacc hlast
  generalize takeCommit p h b ids (takenSc 6 p h (20 + 12 * b.nodes.toNat) s.found) = t at *
  rw [judgeSleep_inaug]
  refine ⟨⟨hstate, hacc, hlast⟩, hlate, ?_⟩
  split at hsent
  · next hside =>
    obtain ⟨less, hl, hg, hp⟩ := hsent
    exact (if_pos hside).symm ▸ ⟨less, hl, hg, hp.sent (judgeSleep_move t).sent⟩
  · next hside => exact (if_neg hside).symm ▸ hsent.move (judgeSleep_move t)

/-- A frame that the node does not want leaves the exchange as it was. -/
theorem takeSc_unwanted {kind len : Nat} {wanted : Dev → Bool} {f : Dev → Dev} {d : Dev}
    (hw : wanted (countGood p (frameLen (20 + len)) d) = false) : (takeSc kind p h len wanted f d).inaug = d.inaug := by
  unfold takeSc scHeard
  split
  · split
    · rw [bump_inaug, countGood_inaug]
    · dsimp only
      rw [if_pos (by simp [hw]), countGood_inaug]
  · rfl

theorem commit_retimed {b : CommitBody} {ids : List DirIds} {was : AcceptedCommit} (hup : portUp s.dev p = true)
    (hv : scValid p h (20 + 12 * b.nodes.toNat) = true) (hst : s.dev.inaug.state = .committing) (hwas : s.dev.inaug.accepted = some was)
    (hc : copyAwaited p s.dev = false) (hl : laneALater 6 h s.dev = true) (ho : was.originator = h.originator) (he : was.body.epoch = b.epoch) :
    Completes (.springcountCommit p h ⟨b, ids⟩) s fun d =>
      d.inaug = { s.dev.inaug with accepted := some { was with switchAt := (acceptedOn p h b ids s.dev).switchAt } } := by
  have hrun : exec (.springcountCommit p h ⟨b, ids⟩) s = s.does fun d => judgeSleep (takeSc 6 p h (20 + 12 * b.nodes.toNat)
      (fun d => fromLowest h d && d.inaug.state = .reporting) (takeCommit p h b ids) (retimeCommit p h b d)) := by
    show execSpringcountCommit p h ⟨b, ids⟩ s = _
    unfold execSpringcountCommit State.doesJudged
    refine does_congr (congrArg judgeSleep ?_)
    have hc : copyAwaited p s.found = false := hc
    have hup : portUp s.found p = true := hup
    dsimp only
    rw [hc, if_neg (by decide), hup, hv]
    rfl
  refine completes_of_exec hrun ?_
  have hi : (retimeCommit p h b s.found).inaug =
      { s.dev.inaug with accepted := some { was with switchAt := (acceptedOn p h b ids s.dev).switchAt } } := by
    have hl : laneALater 6 h s.found = true := hl
    have hst : s.found.inaug.state = .committing := hst
    have hwas : s.found.inaug.accepted = some was := hwas
    unfold retimeCommit
    rw [if_pos (by simp [hl, hst]), onInaug_inaug, hwas, Option.map_some, if_pos (by simp [ho, he])]
    rfl
  rw [judgeSleep_inaug, takeSc_unwanted, hi]
  rw [countGood_inaug, hi, hst]
  simp

theorem commit_awaited {b : CommitBody} {ids : List DirIds} (hup : portUp s.dev p = true) (hv : scValid p h (20 + 12 * b.nodes.toNat) = true)
    (hc : copyAwaited p s.dev = true) : exec (.springcountCommit p h ⟨b, ids⟩) s = s.does fun d => judgeSleep (
      if roundHigher s.dev.inaug.round h.round || h.originator ≠ s.dev.inaug.lowest then countGood p (frameLen (20 + (20 + 12 * b.nodes.toNat))) d
      else acceptCommit p h b ids true (countGood p (frameLen (20 + (20 + 12 * b.nodes.toNat))) d)) := by
  show execSpringcountCommit p h ⟨b, ids⟩ s = _
  unfold execSpringcountCommit State.doesJudged
  refine does_congr (congrArg judgeSleep ?_)
  have hc : copyAwaited p s.found = true := hc
  dsimp only
  rw [hc, if_pos rfl, scHeard_valid hup hv, countGood_inaug]
  rfl

theorem commit_copy_taken {b : CommitBody} {ids : List DirIds} (hup : portUp s.dev p = true) (hv : scValid p h (20 + 12 * b.nodes.toNat) = true)
    (hc : copyAwaited p s.dev = true) (hr : roundHigher s.dev.inaug.round h.round = false) (ho : h.originator = s.dev.inaug.lowest) :
    Completes (.springcountCommit p h ⟨b, ids⟩) s fun d =>
      (d.inaug.state = .committing ∧ d.inaug.accepted = some (acceptedOn p h b ids s.dev) ∧
        d.inaug.lastCommit = some (acceptedOn p h b ids s.dev)) ∧ d.inaug.lateCopy = true ∧ d.inaug.requestDeadline = none := by
  refine completes_of_exec (commit_awaited hup hv hc) ?_
  rw [if_neg (by simp [hr, ho]), judgeSleep_inaug, acceptCommit_inaug, acceptedOn_counted]
  exact ⟨⟨rfl, rfl, rfl⟩, rfl, rfl⟩

theorem commit_copy_dropped {b : CommitBody} {ids : List DirIds} (hup : portUp s.dev p = true) (hv : scValid p h (20 + 12 * b.nodes.toNat) = true)
    (hc : copyAwaited p s.dev = true) (hd : roundHigher s.dev.inaug.round h.round = true ∨ h.originator ≠ s.dev.inaug.lowest) :
    Completes (.springcountCommit p h ⟨b, ids⟩) s fun d => d.inaug = s.dev.inaug := by
  refine completes_of_exec (commit_awaited hup hv hc) ?_
  rw [if_pos (by rcases hd with h | h <;> simp [h]), judgeSleep_inaug, countGood_inaug]
  rfl

/-! ### ACK (R97) -/

/-- What a node that has accepted a COMMIT does with an ACK of it. -/
def ackTaken (p : Port) (h : ScHeader) (count : BitVec 16) (a : AcceptedCommit) (d : Dev) : Dev :=
  match a.fromRear with
  | none => onInaug (fun i => if isRear p then { i with acksRear := count.toNat } else { i with acksFront := count.toNat }) d
  | some back => passSc back h h.more (.ack (count.toNat + ackShare d a.body) a.body.epoch.toNat) d

theorem exec_ack {a : AcceptedCommit} {count : BitVec 16} (ht : TakesSc s.dev 7 p h 4) (hr : h.round = s.dev.inaug.round)
    (hst : s.dev.inaug.state = .committing) (ha : s.dev.inaug.accepted = some a) (hside : a.fromRear ≠ some (isRear p)) :
    exec (.ack p h count a.body.epoch) s = s.does fun d => judgeSleep (ackTaken p h count a (takenSc 7 p h 4 d)) := by
  have hacc : (takenSc 7 p h 4 s.found).inaug.accepted = some a := by rw [takenSc_inaug]; exact ha
  show execAck p h count a.body.epoch s = _
  unfold execAck State.doesJudged
  refine does_congr (congrArg judgeSleep ?_)
  rw [takeSc_taken ht ?_]
  · rw [hacc]
    rfl
  · rw [countGood_inaug]
    simp [State.found, hr, hst, ha, hside]

theorem ack_kept {a : AcceptedCommit} {count : BitVec 16} (ht : TakesSc s.dev 7 p h 4) (hr : h.round = s.dev.inaug.round)
    (hst : s.dev.inaug.state = .committing) (ha : s.dev.inaug.accepted = some a) (hlead : a.fromRear = none) :
    Completes (.ack p h count a.body.epoch) s fun d =>
      d.inaug.acksRear = (if isRear p then count.toNat else s.dev.inaug.acksRear) ∧
        d.inaug.acksFront = (if isRear p then s.dev.inaug.acksFront else count.toNat) ∧ d.inaug.accepted = some a := by
  refine completes_of_exec (exec_ack ht hr hst ha (by simp [hlead])) ?_
  simp only [ackTaken, hlead, judgeSleep_inaug, onInaug_inaug, takenSc_inaug]
  split <;> exact ⟨rfl, rfl, ha⟩

theorem ack_passed {a : AcceptedCommit} {count : BitVec 16} {back : Bool} (ht : TakesSc s.dev 7 p h 4) (hr : h.round = s.dev.inaug.round)
    (hst : s.dev.inaug.state = .committing) (ha : s.dev.inaug.accepted = some a) (hback : a.fromRear = some back) (hne : back ≠ isRear p) :
    Completes (.ack p h count a.body.epoch) s fun d =>
      PassesSc d (upPorts s.dev back) h (.ack (count.toNat + ackShare s.dev a.body) a.body.epoch.toNat) := by
  refine completes_of_exec (exec_ack ht hr hst ha (by simpa [hback] using hne)) ?_
  have hm := takenSc_move 7 p h 4 s.found
  have hshare : ackShare (takenSc 7 p h 4 s.found) a.body = ackShare s.dev a.body := by unfold ackShare; rw [hm.chip]; rfl
  have hp := passSc_passes (hm.scEnabled.trans ht.2.2.1) back h (.ack (count.toNat + ackShare s.dev a.body) a.body.epoch.toNat)
  rw [upPorts_of_ports (a := s.dev) (takenSc_ports 7 p h 4 s.found)] at hp
  simp only [ackTaken, hback, hshare]
  exact hp.sent (judgeSleep_move _).sent

end clauses

/-- Settles O27. -/
theorem theCensusIsCollectedAndTheCommitAcknowledged : Obligations.TheCensusIsCollectedAndTheCommitAcknowledged := by
  unfold Obligations.TheCensusIsCollectedAndTheCommitAcknowledged
  intro s p h i rear
  refine ⟨fun ht hr ho hst => census_completes ht hr ho hst, fun recs ht hr => ?_,
    fun b ids => ⟨fun ht hr ho hst hc => commit_taken ht hr ho hst hc,
      fun was hup hv hst hwas hc hl ho he => commit_retimed hup hv hst hwas hc hl ho he,
      fun hup hv hc => ⟨fun hr ho => commit_copy_taken hup hv hc hr ho, fun hd => commit_copy_dropped hup hv hc hd⟩⟩,
    fun a count ht hr hst ha => ⟨fun hlead => ack_kept ht hr hst ha hlead, fun back hback hne => ack_passed ht hr hst ha hback hne⟩⟩
  intro seg add front back frontDone rearDone standardIn
  have hadded : segmentAdded rear seg { i with seen := (⟨scKey 5 h, s.dev.now, h.laneB⟩ :: i.seen).take 4096 } =
      { i with seen := (⟨scKey 5 h, s.dev.now, h.laneB⟩ :: i.seen).take 4096, frontSegs := front, rearSegs := back
               frontDone := frontDone, rearDone := rearDone } := by
    unfold segmentAdded
    simp only [front, back, frontDone, rearDone, add]
    cases rear <;> rfl
  refine ⟨fun hst => (report_collected ht hr hst hadded).1, fun hst => (report_collected ht hr hst hadded).2.1,
    fun hst => (report_collected ht hr hst hadded).2.2, fun away hst hfrom hne => report_passed ht hr hst hfrom hne⟩

end Sys2Proof.Machine
end

section
/-! PROOF. Flow control at a port (R161, R175, R179 to R182, R184). -/

namespace Sys2Proof.Machine

@[simp] theorem onPort_self (p : Port) (f : PortS → PortS) (d : Dev) : (onPort p f d).ports.p[p] = f d.ports.p[p] := by
  simp [onPort, vmod]

/-! ### The pause of a port at a moment (R181, R182) -/

/-- A pause that waited for the end of a frame runs from that end. -/
def PortS.pauseRuns (now : Nat) (t : PortS) : PortS :=
  match t.pausePending with
  | some ns => if t.txUntil ≤ now then
      { t with pauseUntil := some (t.txUntil + ns), pausePending := none, pauseAcc := t.accAt t.txUntil, pauseSince := t.txUntil }
    else t
  | none => t

/-- A pause that has run out has ended. -/
def PortS.pauseEnds (now : Nat) (t : PortS) : PortS :=
  match t.pauseUntil with
  | some e => if e ≤ now then { t with pauseUntil := none, pauseAcc := t.pauseAcc + (e - t.pauseSince), pauseSince := e } else t
  | none => t

/-- The time without a pause and the hold-off have run. -/
def PortS.pauseResets (now : Nat) (t : PortS) : PortS :=
  { t with pauseAcc := t.accAt now, pauseIgnoreUntil := t.pauseIgnoreUntil.filter (fun e => decide (now < e)) }

theorem PortS.pauseAt_eq (now : Nat) (t : PortS) : t.pauseAt now = ((t.pauseRuns now).pauseEnds now).pauseResets now := by
  unfold PortS.pauseAt PortS.pauseRuns PortS.pauseEnds PortS.pauseResets
  cases t.pausePending <;> rfl

theorem PortS.pauseEnds_until (now : Nat) (t : PortS) : ∀ e, (t.pauseEnds now).pauseUntil = some e → now < e := by
  intro e he
  unfold PortS.pauseEnds at he
  split at he
  · next e' h =>
    split at he
    · cases he
    · next hlt =>
      rw [h] at he
      cases he
      omega
  · next h =>
    rw [h] at he
    cases he

theorem PortS.pauseEnds_pending (now : Nat) (t : PortS) : (t.pauseEnds now).pausePending = t.pausePending ∧ (t.pauseEnds now).txUntil = t.txUntil := by
  unfold PortS.pauseEnds
  split
  · split <;> exact ⟨rfl, rfl⟩
  · exact ⟨rfl, rfl⟩

theorem PortS.pauseRuns_pending (now : Nat) (t : PortS) : (t.pauseRuns now).pausePending = none ∨ now < (t.pauseRuns now).txUntil := by
  unfold PortS.pauseRuns
  split
  · split
    · exact .inl rfl
    · next h => exact .inr (Nat.lt_of_not_le h)
  · next h => exact .inl h

theorem PortS.pauseRuns_stays {now : Nat} {t : PortS} (h : t.pausePending = none ∨ now < t.txUntil) : t.pauseRuns now = t := by
  unfold PortS.pauseRuns
  split
  · next ns hns => exact if_neg (by rcases h with h | h <;> simp_all)
  · rfl

theorem PortS.pauseEnds_stays {now : Nat} {t : PortS} (h : ∀ e, t.pauseUntil = some e → now < e) : t.pauseEnds now = t := by
  unfold PortS.pauseEnds
  split
  · next e he => exact if_neg (by have := h e he; omega)
  · rfl

theorem PortS.accAt_resets (now : Nat) (t : PortS) : (t.pauseResets now).accAt now = (t.pauseResets now).pauseAcc := by
  unfold PortS.pauseResets PortS.accAt
  by_cases h : (t.pauseUntil.isNone && decide (t.pauseSince + msNs ≤ now)) = true
  · simp only [if_pos h]
  · simp only [if_neg h]

theorem PortS.pauseResets_stays (now : Nat) (t : PortS) : (t.pauseResets now).pauseResets now = t.pauseResets now := by
  have h := PortS.accAt_resets now t
  rw [PortS.pauseResets, h]
  simp [PortS.pauseResets, Option.filter_filter]

/-- Once a port's pause has been brought up to a moment, that changes no more. -/
theorem PortS.pauseAt_pauseAt (now : Nat) (t : PortS) : (t.pauseAt now).pauseAt now = t.pauseAt now := by
  obtain ⟨hpend, htx⟩ := (t.pauseRuns now).pauseEnds_pending now
  have hruns : ((t.pauseAt now).pauseRuns now) = t.pauseAt now := PortS.pauseRuns_stays (by
    rw [PortS.pauseAt_eq]
    show ((t.pauseRuns now).pauseEnds now).pausePending = none ∨ now < ((t.pauseRuns now).pauseEnds now).txUntil
    rw [hpend, htx]
    exact t.pauseRuns_pending now)
  have hends : ((t.pauseAt now).pauseEnds now) = t.pauseAt now := PortS.pauseEnds_stays (by
    rw [PortS.pauseAt_eq]
    exact (t.pauseRuns now).pauseEnds_until now)
  rw [PortS.pauseAt_eq now (t.pauseAt now), hruns, hends, PortS.pauseAt_eq now t, PortS.pauseResets_stays]

theorem PortS.pauseAt_rate (now : Nat) (t : PortS) : (t.pauseAt now).rate = t.rate ∧ (t.pauseAt now).txUntil = t.txUntil := by
  have hr : (t.pauseRuns now).rate = t.rate ∧ (t.pauseRuns now).txUntil = t.txUntil := by
    unfold PortS.pauseRuns
    split
    · split <;> exact ⟨rfl, rfl⟩
    · exact ⟨rfl, rfl⟩
  have he : ((t.pauseRuns now).pauseEnds now).rate = (t.pauseRuns now).rate ∧ ((t.pauseRuns now).pauseEnds now).txUntil = (t.pauseRuns now).txUntil := by
    unfold PortS.pauseEnds
    split
    · split <;> exact ⟨rfl, rfl⟩
    · exact ⟨rfl, rfl⟩
  rw [PortS.pauseAt_eq]
  exact ⟨he.1.trans hr.1, he.2.trans hr.2⟩


/-! ### Devices on which a port's pause stands alike -/

/-- Ports, time and the three settings of flow control are those of another device. -/
structure PauseAlike (p : Port) (a b : Dev) : Prop where
  ports : b.ports = a.ports
  clock : b.now = a.now
  obeys : cfg b (0x2300 + p.val) 5 = cfg a (0x2300 + p.val) 5
  limit : cfg b (0x2300 + p.val) 6 = cfg a (0x2300 + p.val) 6
  holdOff : cfg b (0x2300 + p.val) 7 = cfg a (0x2300 + p.val) 7

section alike

variable {p : Port} {a b c : Dev}

theorem PauseAlike.trans (h1 : PauseAlike p a b) (h2 : PauseAlike p b c) : PauseAlike p a c :=
  ⟨h2.ports.trans h1.ports, h2.clock.trans h1.clock, h2.obeys.trans h1.obeys, h2.limit.trans h1.limit, h2.holdOff.trans h1.holdOff⟩

theorem PauseAlike.port (h : PauseAlike p a b) : b.ports.p[p] = a.ports.p[p] := by rw [h.ports]

theorem PauseAlike.pauseOf (h : PauseAlike p a b) : Machine.pauseOf b p = Machine.pauseOf a p := by
  unfold Machine.pauseOf
  rw [h.port, h.clock]

theorem PauseAlike.isPaused (h : PauseAlike p a b) : Machine.isPaused b p = Machine.isPaused a p := by
  unfold Machine.isPaused
  rw [h.pauseOf]

theorem PauseAlike.pauseAccNow (h : PauseAlike p a b) : Machine.pauseAccNow b p = Machine.pauseAccNow a p := by
  unfold Machine.pauseAccNow
  rw [h.pauseOf, h.clock]

theorem PauseAlike.watchdogDue (h : PauseAlike p a b) : Machine.watchdogDue b p = Machine.watchdogDue a p := by
  simp only [Machine.watchdogDue, h.isPaused, h.pauseAccNow, h.limit]

theorem PauseAlike.pauseNs (h : PauseAlike p a b) (q : Nat) : Machine.pauseNs b p q = Machine.pauseNs a p q := by
  simp only [Machine.pauseNs, h.port]

/-- Bringing a port's pause up to the present keeps the devices alike. -/
theorem PauseAlike.settle (h : PauseAlike p a b) : PauseAlike p (settlePause p a) (settlePause p b) := by
  refine ⟨?_, h.clock, h.obeys, h.limit, h.holdOff⟩
  show { b.ports with p := vmod b.ports.p p (PortS.pauseAt b.now) } = { a.ports with p := vmod a.ports.p p (PortS.pauseAt a.now) }
  rw [h.ports, h.clock]

theorem portKey_ne (p q : Port) {i j : Nat} (hi : i < 0x100) (hj : j < 0x100) (hne : i ≠ j) :
    odKey (0x2300 + p.val) i ≠ odKey (0x2300 + q.val) j := by
  unfold odKey
  omega

theorem bump_alike (p : Port) {sub : Nat} (hs : sub < 0x100) (h5 : sub ≠ 5) (h6 : sub ≠ 6) (h7 : sub ≠ 7) (d : Dev) :
    PauseAlike p d (bump (0x2300 + p.val) sub d) :=
  ⟨bump_ports _ _ d, bump_now _ _ d, cfg_bump_ne _ _ _ _ _ (portKey_ne p p (by decide) hs h5.symm),
    cfg_bump_ne _ _ _ _ _ (portKey_ne p p (by decide) hs h6.symm), cfg_bump_ne _ _ _ _ _ (portKey_ne p p (by decide) hs h7.symm)⟩

theorem goodCounters_portKey (p : Port) {sub : Nat} (hs : sub < 0x100) (h23 : sub ≠ 0x23) (h24 : sub ≠ 0x24) :
    ∀ r ∈ [(0x2300 + p.val, 0x23), (0x2300 + p.val, 0x24)], odKey r.1 r.2 ≠ odKey (0x2300 + p.val) sub := by
  intro r hr
  simp only [List.mem_cons, List.not_mem_nil, or_false] at hr
  rcases hr with rfl | rfl
  · exact portKey_ne p p (show 0x23 < 0x100 by decide) hs h23.symm
  · exact portKey_ne p p (show 0x24 < 0x100 by decide) hs h24.symm

theorem countGood_portCfg (p : Port) (len : Nat) (d : Dev) {sub : Nat} (hs : sub < 0x100) (h23 : sub ≠ 0x23) (h24 : sub ≠ 0x24) :
    cfg (countGood p len d) (0x2300 + p.val) sub = cfg d (0x2300 + p.val) sub :=
  (countGood_goodCounters p len d).cfg _ _ (goodCounters_portKey p hs h23 h24)

theorem countGood_alike (p : Port) (len : Nat) (d : Dev) : PauseAlike p d (countGood p len d) :=
  ⟨countGood_ports p len d, countGood_now p len d, countGood_portCfg p len d (by decide) (by decide) (by decide),
    countGood_portCfg p len d (by decide) (by decide) (by decide), countGood_portCfg p len d (by decide) (by decide) (by decide)⟩

theorem eventCounters_portKey (p : Port) {sub : Nat} (hs : sub < 0x100) : ∀ r ∈ eventCounters, odKey r.1 r.2 ≠ odKey (0x2300 + p.val) sub := by
  have h : ∀ r ∈ eventCounters, odKey 0x2A00 0 ≤ odKey r.1 r.2 := by decide
  intro r hr
  have := h r hr
  have := p.isLt
  unfold odKey at *
  omega

theorem raise_portCfg (p : Port) (ev : Ev) (inst : Nat) (d : Dev) {sub : Nat} (hs : sub < 0x100) :
    cfg (raise ev inst d) (0x2300 + p.val) sub = cfg d (0x2300 + p.val) sub :=
  (raise_regs ev inst d).cfg _ _ (eventCounters_portKey p hs)

theorem portCounters_default (p : Port) : ∀ sub ∈ [0x2D, 0x2E, 0x2F, 0x30], odDefault (odKey (0x2300 + p.val) sub) = .num 0 := by
  revert p
  decide +kernel

theorem bump_portCounter (p : Port) {sub : Nat} (hs : sub ∈ [0x2D, 0x2E, 0x2F, 0x30]) (d : Dev) :
    cfg (bump (0x2300 + p.val) sub d) (0x2300 + p.val) sub = min 0xFFFFFFFF (cfg d (0x2300 + p.val) sub + 1) :=
  cfg_bump_self _ _ _ (portCounters_default p sub hs)

theorem bump_portCfg (p : Port) (d : Dev) {i j : Nat} (hi : i < 0x100) (hj : j < 0x100) (hne : i ≠ j) :
    cfg (bump (0x2300 + p.val) j d) (0x2300 + p.val) i = cfg d (0x2300 + p.val) i := cfg_bump_ne _ _ _ _ _ (portKey_ne p p hi hj hne)

/-! ### The end of a pause -/

/-- A port's pause is up to date. -/
def PauseSettled (p : Port) (d : Dev) : Prop := pauseOf d p = d.ports.p[p]

theorem settlePause_settled (p : Port) (d : Dev) : PauseSettled p (settlePause p d) := by
  show (settlePause p d).ports.p[p].pauseAt d.now = (settlePause p d).ports.p[p]
  rw [settlePause, onPort_self, PortS.pauseAt_pauseAt]

theorem PauseSettled.of_alike (h : PauseSettled p a) (hb : PauseAlike p a b) : PauseSettled p b := by
  unfold PauseSettled pauseOf at *
  rw [hb.port, hb.clock, h]

theorem endPause_ends (h : PauseSettled p a) :
    (endPause p a).ports.p[p].pauseUntil = none ∧ (endPause p a).ports.p[p].pausePending = none := by
  unfold endPause isPaused
  split
  · rw [onPort_self]
    exact ⟨rfl, rfl⟩
  · next hp =>
    rw [h] at hp
    rw [onPort_self]
    exact ⟨by simpa using hp, rfl⟩

theorem endPause_dict (p : Port) (d : Dev) : (endPause p d).dict = d.dict ∧ (endPause p d).now = d.now := by
  unfold endPause
  dsimp only
  split <;> exact ⟨rfl, rfl⟩

theorem endPause_cfg (p : Port) (d : Dev) (idx sub : Nat) : cfg (endPause p d) idx sub = cfg d idx sub := by
  unfold cfg
  rw [(endPause_dict p d).1]

/-- What a trip of the watchdog does to a port (R182). -/
structure Tripped (p : Port) (a b : Dev) : Prop where
  clock : b.now = a.now
  ended : b.ports.p[p].pauseUntil = none ∧ b.ports.p[p].pausePending = none
  holdOff : b.ports.p[p].pauseIgnoreUntil = some (a.now + cfg a (0x2300 + p.val) 7 * msNs)
  counted : cfg b (0x2300 + p.val) 0x2F = min 0xFFFFFFFF (cfg a (0x2300 + p.val) 0x2F + 1)
  rest : ∀ sub, sub < 0x100 → sub ≠ 0x2F → cfg b (0x2300 + p.val) sub = cfg a (0x2300 + p.val) sub

theorem tripWatchdog_tripped (h : PauseSettled p a) : Tripped p a (tripWatchdog p a) := by
  obtain ⟨hu, hp⟩ := endPause_ends h
  have hrest : ∀ sub, sub < 0x100 → sub ≠ 0x2F → cfg (raise evPauseWatchdog p.val (bump (0x2300 + p.val) 0x2F (endPause p a))) (0x2300 + p.val) sub =
      cfg a (0x2300 + p.val) sub := fun sub hs hne => by
    rw [raise_portCfg p _ _ _ hs, bump_portCfg p _ hs (by decide) hne, endPause_cfg]
  refine ⟨?_, ?_, ?_, ?_, hrest⟩
  · simp [tripWatchdog, (endPause_dict p a).2]
  · unfold tripWatchdog
    rw [onPort_self, raise_ports, bump_ports]
    exact ⟨hu, hp⟩
  · unfold tripWatchdog
    rw [onPort_self, raise_now, bump_now, (endPause_dict p a).2, hrest 7 (by decide) (by decide)]
  · show cfg (raise evPauseWatchdog p.val (bump (0x2300 + p.val) 0x2F (endPause p a))) (0x2300 + p.val) 0x2F = _
    rw [raise_portCfg p _ _ _ (by decide), bump_portCounter p (by decide), endPause_cfg]

end alike


/-- What completes with an effect completes with all that the effect implies. -/
theorem Completes.mono {c : Instr} {s : State} {P Q : Dev → Prop} (h : Completes c s P) (hPQ : ∀ d, P d → Q d) : Completes c s Q := by
  obtain ⟨t, hnext, hpending, hP⟩ := h
  exact ⟨t, hnext, hpending, hPQ _ hP⟩

section clauses

variable {s : State} {p : Port}

/-! ### A PAUSE frame (R175, R179 to R182, R184) -/

/-- A PAUSE frame has been counted, and no watchdog was due. -/
def pauseCounted (p : Port) (d : Dev) : Dev := bump (0x2300 + p.val) 0x2D (settlePause p (countGood p 64 d))

/-- PAUSE frames are ignored: reception is off, or the hold-off runs (R179, R182). -/
def pauseIgnored (p : Port) (d : Dev) : Bool :=
  !cfgB d (0x2300 + p.val) 5 || d.ports.p[p].pauseIgnoreUntil.any (fun t => decide (d.now < t))

/-- What a PAUSE frame that has been counted does. -/
def pauseActs (p : Port) (q : Nat) (d : Dev) : Dev :=
  if pauseIgnored p d then bump (0x2300 + p.val) 0x2E d
  else if q = 0 then endPause p d
  else if d.now < d.ports.p[p].txUntil && !isPaused d p then onPort p (fun t => { t with pausePending := some (pauseNs d p q) }) d
  else startPause p (pauseNs d p q) d

theorem takePause_eq (p : Port) (q : Nat) (d : Dev) : takePause p q d = pauseActs p q (bump (0x2300 + p.val) 0x2D
    (if watchdogDue (settlePause p d) p then tripWatchdog p (settlePause p d) else settlePause p d)) := rfl

theorem settled_alike (p : Port) (s : State) : PauseAlike p (settlePause p s.found) (settlePause p (countGood p 64 s.found)) :=
  (countGood_alike p 64 s.found).settle

theorem pauseCounted_alike (p : Port) (s : State) : PauseAlike p (settlePause p s.found) (pauseCounted p s.found) :=
  (settled_alike p s).trans (bump_alike p (by decide) (by decide) (by decide) (by decide) _)

theorem exec_pause {q : BitVec 16} (hup : portUp s.dev p = true) (hw : watchdogDue (settlePause p s.found) p = false) :
    exec (.pause p q) s = s.does fun d => pauseActs p q.toNat (pauseCounted p d) := by
  show execPause p q s = _
  unfold execPause
  refine does_congr ?_
  have hup : portUp s.found p = true := hup
  have hw := (settled_alike p s).watchdogDue.trans hw
  rw [if_pos hup, takePause_eq, if_neg (by simp [hw])]
  rfl

/-- No register of the port is one of the counters of another number. -/
theorem pauseCounted_cfg (p : Port) (d : Dev) {sub : Nat} (hs : sub < 0x100) (h23 : sub ≠ 0x23) (h24 : sub ≠ 0x24) (h2d : sub ≠ 0x2D) :
    cfg (pauseCounted p d) (0x2300 + p.val) sub = cfg d (0x2300 + p.val) sub :=
  (bump_portCfg p _ hs (by decide) h2d).trans (countGood_portCfg p 64 d hs h23 h24)

/-- What every PAUSE frame on a port that is Up does (R175, R179). -/
structure PauseTaken (p : Port) (a d : Dev) : Prop where
  counted : cfg d (0x2300 + p.val) 0x2D = min 0xFFFFFFFF (cfg a (0x2300 + p.val) 0x2D + 1)
  good : FrameCounted a d p 64
  framed : Framed [.regs, .ports, .counters] a d

theorem pauseCounted_taken (p : Port) (s : State) : PauseTaken p s.found (pauseCounted p s.found) := by
  obtain ⟨h23, h24⟩ := countGood_counted p (len := 64) (by decide) s.found
  refine ⟨?_, ⟨?_, ?_⟩, ?_⟩
  · rw [pauseCounted, bump_portCounter p (by decide)]
    exact congrArg (fun n => min 0xFFFFFFFF (n + 1)) (countGood_portCfg p 64 s.found (by decide) (by decide) (by decide))
  · exact (bump_portCfg p _ (by decide) (by decide) (by decide)).trans h23
  · exact (bump_portCfg p _ (by decide) (by decide) (by decide)).trans h24
  · exact bump_framed _ _ _ (by decide) (settlePause_framed _ _ (by decide) (countGood_framed _ _ _ (by decide) (.refl _ _)))

theorem PauseTaken.after {a b d : Dev} (h : PauseTaken p a b) (hd : d.dict = b.dict) (hf : Framed [.regs, .ports, .counters] b d) : PauseTaken p a d := by
  obtain ⟨hc, ⟨h23, h24⟩, hfr⟩ := h
  refine ⟨?_, ⟨?_, ?_⟩, hfr.trans hf⟩ <;> unfold cfg at * <;> rw [hd] <;> assumption

theorem PauseTaken.ignored {a b : Dev} (h : PauseTaken p a b) : PauseTaken p a (bump (0x2300 + p.val) 0x2E b) := by
  obtain ⟨hc, ⟨h23, h24⟩, hfr⟩ := h
  exact ⟨(bump_portCfg p _ (by decide) (by decide) (by decide)).trans hc, ⟨(bump_portCfg p _ (by decide) (by decide) (by decide)).trans h23,
    (bump_portCfg p _ (by decide) (by decide) (by decide)).trans h24⟩, bump_framed _ _ _ (by decide) hfr⟩

/-- PAUSE frames are obeyed (R179, R182). -/
def PauseObeyed (p : Port) (a : Dev) (x : PortS) (now : Nat) : Prop :=
  cfg a (0x2300 + p.val) 5 ≠ 0 ∧ ∀ t, x.pauseIgnoreUntil = some t → t ≤ now

theorem pauseIgnored_iff (p : Port) (d : Dev) : pauseIgnored p d = true ↔ ¬PauseObeyed p d d.ports.p[p] d.now := by
  unfold pauseIgnored PauseObeyed cfgB
  cases d.ports.p[p].pauseIgnoreUntil <;> simp
  tauto

theorem pauseCounted_ignored (p : Port) (s : State) : pauseIgnored p (pauseCounted p s.found) = true ↔
    ¬PauseObeyed p s.dev (settlePause p s.found).ports.p[p] s.dev.now := by
  have h := pauseCounted_alike p s
  rw [pauseIgnored_iff, PauseObeyed, h.port, h.clock, h.obeys]
  rfl

theorem pauseNs_settled (p : Port) (s : State) (n : Nat) : pauseNs (pauseCounted p s.found) p n = pauseNs s.dev p n := by
  rw [(pauseCounted_alike p s).pauseNs]
  unfold pauseNs settlePause
  rw [onPort_self, (PortS.pauseAt_rate _ _).1]
  rfl

theorem pauseActs_obeyed {q : BitVec 16} (ho : PauseObeyed p s.dev (settlePause p s.found).ports.p[p] s.dev.now) : pauseActs p q.toNat (pauseCounted p s.found) =
    if q.toNat = 0 then endPause p (pauseCounted p s.found)
    else if (pauseCounted p s.found).now < (pauseCounted p s.found).ports.p[p].txUntil && !isPaused (pauseCounted p s.found) p then
      onPort p (fun t => { t with pausePending := some (pauseNs (pauseCounted p s.found) p q.toNat) }) (pauseCounted p s.found)
    else startPause p (pauseNs (pauseCounted p s.found) p q.toNat) (pauseCounted p s.found) :=
  if_neg fun hi => (pauseCounted_ignored p s).1 hi ho

section obeyed

variable {q : BitVec 16} (hup : portUp s.dev p = true) (hw : watchdogDue (settlePause p s.found) p = false)
include hup hw

theorem pause_ignored (ho : ¬PauseObeyed p s.dev (settlePause p s.found).ports.p[p] s.dev.now) : Completes (.pause p q) s fun d =>
    PauseTaken p s.found d ∧ cfg d (0x2300 + p.val) 0x2E = min 0xFFFFFFFF (cfg s.dev (0x2300 + p.val) 0x2E + 1) ∧
      d.ports = (settlePause p s.found).ports := by
  refine completes_of_exec (exec_pause hup hw) ?_
  rw [pauseActs, if_pos ((pauseCounted_ignored p s).2 ho)]
  refine ⟨(pauseCounted_taken p s).ignored, ?_, (bump_ports _ _ _).trans (pauseCounted_alike p s).ports⟩
  rw [bump_portCounter p (by decide), pauseCounted_cfg p _ (by decide) (by decide) (by decide) (by decide)]
  rfl

variable (ho : PauseObeyed p s.dev (settlePause p s.found).ports.p[p] s.dev.now)
include ho

theorem pause_ends (hq : q = 0) : Completes (.pause p q) s fun d =>
    PauseTaken p s.found d ∧ d.ports.p[p].pauseUntil = none ∧ d.ports.p[p].pausePending = none := by
  refine completes_of_exec (exec_pause hup hw) ?_
  rw [pauseActs_obeyed ho, if_pos (by simp [hq])]
  exact ⟨(pauseCounted_taken p s).after (endPause_dict p _).1 (endPause_framed _ _ (by decide) (.refl _ _)),
    endPause_ends ((settlePause_settled p s.found).of_alike (pauseCounted_alike p s))⟩

theorem pause_starts (hq : q ≠ 0) (hidle : (settlePause p s.found).ports.p[p].txUntil ≤ s.dev.now ∨ isPaused (settlePause p s.found) p = true) :
    Completes (.pause p q) s fun d => PauseTaken p s.found d ∧ d.ports.p[p].pauseUntil = some (s.dev.now + pauseNs s.dev p q.toNat) ∧
      d.ports.p[p].pausePending = none ∧ d.ports.p[p].pauseAcc = pauseAccNow (settlePause p s.found) p := by
  refine completes_of_exec (exec_pause hup hw) ?_
  have ha := pauseCounted_alike p s
  have hq' : q.toNat ≠ 0 := fun e => hq (BitVec.eq_of_toNat_eq e)
  have hnot : ((pauseCounted p s.found).now < (pauseCounted p s.found).ports.p[p].txUntil && !isPaused (pauseCounted p s.found) p) = false := by
    rw [ha.port, ha.clock, ha.isPaused, show (settlePause p s.found).now = s.dev.now from rfl]
    rcases hidle with h | h
    · rw [decide_eq_false (Nat.not_lt.2 h)]
      rfl
    · simp [h]
  rw [pauseActs_obeyed ho, if_neg hq', hnot, if_neg (by decide), pauseNs_settled]
  refine ⟨(pauseCounted_taken p s).after rfl (startPause_framed _ _ _ (by decide) (.refl _ _)), ?_⟩
  unfold startPause
  rw [onPort_self, ha.clock, ha.pauseAccNow]
  exact ⟨rfl, rfl, rfl⟩

theorem pause_waits (hq : q ≠ 0) (hbusy : s.dev.now < (settlePause p s.found).ports.p[p].txUntil)
    (hrun : isPaused (settlePause p s.found) p = false) : Completes (.pause p q) s fun d => PauseTaken p s.found d ∧
      d.ports.p[p] = { (settlePause p s.found).ports.p[p] with pausePending := some (pauseNs s.dev p q.toNat) } := by
  refine completes_of_exec (exec_pause hup hw) ?_
  have ha := pauseCounted_alike p s
  have hq' : q.toNat ≠ 0 := fun e => hq (BitVec.eq_of_toNat_eq e)
  have hwait : ((pauseCounted p s.found).now < (pauseCounted p s.found).ports.p[p].txUntil && !isPaused (pauseCounted p s.found) p) = true := by
    rw [ha.port, ha.clock, ha.isPaused, hrun, show (settlePause p s.found).now = s.dev.now from rfl]
    simpa using hbusy
  rw [pauseActs_obeyed ho, if_neg hq', if_pos hwait, pauseNs_settled]
  refine ⟨(pauseCounted_taken p s).after rfl (onPort_framed _ _ _ (by decide) (.refl _ _)), ?_⟩
  rw [onPort_self, ha.port]

end obeyed

/-- A watchdog that is due trips before the PAUSE frame, which its hold-off makes the port ignore (R182, R184). -/
theorem pause_trips {q : BitVec 16} (hup : portUp s.dev p = true) (hw : watchdogDue (settlePause p s.found) p = true)
    (hold : cfg s.dev (0x2300 + p.val) 7 ≠ 0) : Completes (.pause p q) s fun d =>
      cfg d (0x2300 + p.val) 0x2D = min 0xFFFFFFFF (cfg s.dev (0x2300 + p.val) 0x2D + 1) ∧
      cfg d (0x2300 + p.val) 0x2E = min 0xFFFFFFFF (cfg s.dev (0x2300 + p.val) 0x2E + 1) ∧
      cfg d (0x2300 + p.val) 0x2F = min 0xFFFFFFFF (cfg s.dev (0x2300 + p.val) 0x2F + 1) ∧
      d.ports.p[p].pauseUntil = none ∧ d.ports.p[p].pausePending = none ∧
      d.ports.p[p].pauseIgnoreUntil = some (s.dev.now + cfg s.dev (0x2300 + p.val) 7 * msNs) := by
  have hrun : exec (.pause p q) s = s.does fun d =>
      pauseActs p q.toNat (bump (0x2300 + p.val) 0x2D (tripWatchdog p (settlePause p (countGood p 64 d)))) := by
    show execPause p q s = _
    unfold execPause
    refine does_congr ?_
    have hup : portUp s.found p = true := hup
    have hw := (settled_alike p s).watchdogDue.trans hw
    rw [if_pos hup, takePause_eq, if_pos hw]
  refine completes_of_exec hrun ?_
  have hc : ∀ sub, sub < 0x100 → sub ≠ 0x23 → sub ≠ 0x24 → cfg (settlePause p (countGood p 64 s.found)) (0x2300 + p.val) sub =
      cfg s.dev (0x2300 + p.val) sub := fun sub hs h1 h2 => countGood_portCfg p 64 s.found hs h1 h2
  have hnow : (settlePause p (countGood p 64 s.found)).now = s.dev.now := (settled_alike p s).clock
  obtain ⟨hclock, ⟨hu, hp⟩, hig, hcount, hrest⟩ := tripWatchdog_tripped (settlePause_settled p (countGood p 64 s.found))
  generalize settlePause p (countGood p 64 s.found) = e at *
  generalize tripWatchdog p e = t at *
  have hign : pauseIgnored p (bump (0x2300 + p.val) 0x2D t) = true := by
    unfold pauseIgnored
    rw [bump_ports, bump_now, hig, hclock, hc 7 (by decide) (by decide) (by decide)]
    have hlater : 0 < cfg s.dev (0x2300 + p.val) 7 * msNs := Nat.mul_pos (Nat.pos_of_ne_zero hold) (by decide)
    rw [Option.any_some, decide_eq_true (Nat.lt_add_of_pos_right hlater), Bool.or_true]
  rw [pauseActs, if_pos hign]
  refine ⟨?_, ?_, ?_, ?_⟩
  · rw [bump_portCfg p _ (by decide) (by decide) (by decide), bump_portCounter p (by decide), hrest _ (by decide) (by decide),
      hc _ (by decide) (by decide) (by decide)]
  · rw [bump_portCounter p (by decide), bump_portCfg p _ (by decide) (by decide) (by decide), hrest _ (by decide) (by decide),
      hc _ (by decide) (by decide) (by decide)]
  · rw [bump_portCfg p _ (by decide) (by decide) (by decide), bump_portCfg p _ (by decide) (by decide) (by decide), hcount,
      hc _ (by decide) (by decide) (by decide)]
  · rw [bump_ports, bump_ports, hig, hnow, hc 7 (by decide) (by decide) (by decide)]
    exact ⟨hu, hp, rfl⟩

/-- MAC control frames other than PAUSE only count (R161, R175). -/
theorem macControl_counts {opcode : BitVec 16} (hup : portUp s.dev p = true) (ho : opcode ≠ 1) : Completes (.macControlFrame p opcode) s fun d =>
    cfg d (0x2300 + p.val) 0x30 = min 0xFFFFFFFF (cfg s.dev (0x2300 + p.val) 0x30 + 1) ∧ FrameCounted s.dev d p 64 ∧
      RegsFramed [(0x2300 + p.val, 0x23), (0x2300 + p.val, 0x24), (0x2300 + p.val, 0x30)] s.found d ∧
      Framed [.regs, .counters] s.found d := by
  have hrun : exec (.macControlFrame p opcode) s = s.does fun d => takeMacControl p (countGood p 64 d) := by
    show execMacControlFrame p opcode s = _
    unfold execMacControlFrame
    refine does_congr ?_
    have hup : portUp s.found p = true := hup
    rw [if_pos (by simpa [hup] using ho)]
  refine completes_of_exec hrun ?_
  obtain ⟨h23, h24⟩ := countGood_counted p (len := 64) (by decide) s.found
  refine ⟨?_, ⟨(bump_portCfg p _ (by decide) (by decide) (by decide)).trans h23, (bump_portCfg p _ (by decide) (by decide) (by decide)).trans h24⟩,
    ?_, bump_framed _ _ _ (by decide) (countGood_framed _ _ _ (by decide) (.refl _ _))⟩
  · exact (bump_portCounter p (by decide) _).trans (congrArg (fun n => min 0xFFFFFFFF (n + 1))
      (countGood_portCfg p 64 s.found (by decide) (by decide) (by decide)))
  · exact ((countGood_goodCounters p 64 s.found).mono (by simp)).bump _ _ (by simp)

/-! ### Time without frames (R181, R182) -/

theorem settled_port (p : Port) (d : Dev) : (settlePause p d).ports.p[p] = d.ports.p[p].pauseAt d.now := by rw [settlePause, onPort_self]

theorem pauseEnd_completes {e : Nat}
    (he : ((pauseOf s.dev p).pauseUntil <|> (pauseOf s.dev p).pausePending.map ((pauseOf s.dev p).txUntil + ·)) = some e) :
    Completes (.pauseEnd p) s fun d => d.now = max s.dev.now e ∧ d.ports.p[p] = s.dev.ports.p[p].pauseAt d.now ∧
      Framed [.clock, .counters, .ports] s.found d := by
  have hrun : exec (.pauseEnd p) s = s.does fun d => settlePause p (arrive e d) := by
    show execPauseEnd p s = _
    unfold execPauseEnd
    refine does_congr ?_
    have he : ((pauseOf s.found p).pauseUntil <|> (pauseOf s.found p).pausePending.map ((pauseOf s.found p).txUntil + ·)) = some e := he
    dsimp only
    rw [he]
  refine completes_of_exec hrun ⟨arrive_now e s.found, ?_, settlePause_framed _ _ (by decide) (arrive_framed _ _ (by decide) (.refl _ _))⟩
  rw [settled_port, arrive_ports]
  rfl

/-- A pause that runs out at its moment adds its time to the accumulated time. -/
theorem PortS.pauseAt_end {t : PortS} {now e : Nat} (hp : t.pausePending = none) (hu : t.pauseUntil = some e) (hlt : now < e) :
    (t.pauseAt (max now e)).pauseUntil = none ∧ (t.pauseAt (max now e)).pauseSince = e ∧
      (t.pauseAt (max now e)).pauseAcc = t.pauseAcc + (e - t.pauseSince) := by
  have hmax : max now e = e := by omega
  have hend : t.pauseEnds e = { t with pauseUntil := none, pauseAcc := t.pauseAcc + (e - t.pauseSince), pauseSince := e } := by
    unfold PortS.pauseEnds
    rw [hu]
    exact if_pos (Nat.le_refl e)
  rw [hmax, PortS.pauseAt_eq, PortS.pauseRuns_stays (.inl hp), hend]
  refine ⟨rfl, rfl, if_neg ?_⟩
  have hms : 0 < msNs := by decide
  simp only [Option.isNone_none, Bool.true_and, decide_eq_true_eq]
  omega

theorem pauseOf_until {e : Nat} (hp : s.dev.ports.p[p].pausePending = none)
    (he : ((pauseOf s.dev p).pauseUntil <|> (pauseOf s.dev p).pausePending.map ((pauseOf s.dev p).txUntil + ·)) = some e) :
    s.dev.now < e := by
  have hz := PortS.pauseAt_eq s.dev.now s.dev.ports.p[p]
  rw [PortS.pauseRuns_stays (.inl hp)] at hz
  have hpend : (pauseOf s.dev p).pausePending = none := by
    rw [pauseOf, hz]
    exact (PortS.pauseEnds_pending _ _).1.trans hp
  rw [hpend, Option.map_none] at he
  have hu : (s.dev.ports.p[p].pauseEnds s.dev.now).pauseUntil = some e := by
    rw [pauseOf, hz] at he
    simpa [PortS.pauseResets] using he
  exact PortS.pauseEnds_until _ _ e hu

theorem pauseWatchdog_trips {e : Nat} (hu : (pauseOf s.dev p).pauseUntil = some e)
    (hd : s.dev.now + (cfg s.dev (0x2300 + p.val) 6 * msNs - pauseAccNow s.dev p) < e) : Completes (.pauseWatchdog p) s fun d =>
      cfg d (0x2300 + p.val) 0x2F = min 0xFFFFFFFF (cfg s.dev (0x2300 + p.val) 0x2F + 1) ∧
      d.now = s.dev.now + (cfg s.dev (0x2300 + p.val) 6 * msNs - pauseAccNow s.dev p) ∧
      d.ports.p[p].pauseUntil = none ∧ d.ports.p[p].pausePending = none ∧
      d.ports.p[p].pauseIgnoreUntil = some (d.now + cfg s.dev (0x2300 + p.val) 7 * msNs) ∧
      Framed ([.clock, .ports] ++ eventParts) s.found d := by
  generalize hdue : s.dev.now + (cfg s.dev (0x2300 + p.val) 6 * msNs - pauseAccNow s.dev p) = due at *
  have hrun : exec (.pauseWatchdog p) s = s.does fun d => tripWatchdog p (settlePause p (arrive due d)) := by
    show execPauseWatchdog p s = _
    unfold execPauseWatchdog
    refine does_congr ?_
    have hu : (pauseOf s.found p).pauseUntil = some e := hu
    have hdue : s.found.now + (cfg s.found (0x2300 + p.val) 6 * msNs - pauseAccNow s.found p) = due := hdue
    dsimp only
    rw [hu]
    dsimp only
    rw [hdue, if_pos hd]
  refine completes_of_exec hrun ?_
  have hnow : (settlePause p (arrive due s.found)).now = due :=
    (arrive_now due s.found).trans (Nat.max_eq_right (show s.dev.now ≤ due by omega))
  have hcfg : ∀ sub, cfg (settlePause p (arrive due s.found)) (0x2300 + p.val) sub = cfg s.dev (0x2300 + p.val) sub :=
    fun sub => cfg_arrive due s.found _ sub
  have hframed : Framed ([.clock, .ports] ++ eventParts) s.found (tripWatchdog p (settlePause p (arrive due s.found))) :=
    tripWatchdog_framed _ _ (by decide) (settlePause_framed _ _ (by decide) (arrive_framed _ _ (by decide) (.refl _ _)))
  obtain ⟨hclock, ⟨hend, hpend⟩, hig, hcount, -⟩ := tripWatchdog_tripped (settlePause_settled p (arrive due s.found))
  rw [hnow] at hclock hig
  rw [hcfg] at hcount hig
  rw [hclock]
  exact ⟨hcount, rfl, hend, hpend, hig, hframed⟩

theorem pauseWatchdog_waits {e : Nat} (hu : (pauseOf s.dev p).pauseUntil = some e)
    (hd : e ≤ s.dev.now + (cfg s.dev (0x2300 + p.val) 6 * msNs - pauseAccNow s.dev p)) :
    Completes (.pauseWatchdog p) s (Framed [] s.found) := by
  have hrun : exec (.pauseWatchdog p) s = s.does fun d => d := by
    show execPauseWatchdog p s = _
    unfold execPauseWatchdog
    refine does_congr ?_
    have hu : (pauseOf s.found p).pauseUntil = some e := hu
    dsimp only
    rw [hu]
    exact if_neg (Nat.not_lt.2 hd)
  exact completes_of_exec hrun (.refl _ _)

theorem pauseTimeReset_completes (hu : (pauseOf s.dev p).pauseUntil = none) (hp : (pauseOf s.dev p).pausePending = none) :
    Completes (.pauseTimeReset p) s fun d => d.now = max s.dev.now ((pauseOf s.dev p).pauseSince + msNs) ∧
      d.ports.p[p] = { s.dev.ports.p[p].pauseAt d.now with pauseAcc := 0 } ∧ Framed [.clock, .counters, .ports] s.found d := by
  have hrun : exec (.pauseTimeReset p) s = s.does fun d => onPort p (fun t => { t with pauseAcc := 0 })
      (settlePause p (arrive ((pauseOf d p).pauseSince + msNs) d)) := by
    show execPauseTimeReset p s = _
    unfold execPauseTimeReset
    refine does_congr ?_
    have hu : (pauseOf s.found p).pauseUntil = none := hu
    have hp : (pauseOf s.found p).pausePending = none := hp
    exact if_neg (by simp [hu, hp])
  refine completes_of_exec hrun ⟨arrive_now _ s.found, ?_,
    onPort_framed _ _ _ (by decide) (settlePause_framed _ _ (by decide) (arrive_framed _ _ (by decide) (.refl _ _)))⟩
  rw [onPort_self, settled_port, arrive_ports]
  rfl

theorem pauseHoldOffEnd_completes {t : Nat} (ht : s.dev.ports.p[p].pauseIgnoreUntil = some t) : Completes (.pauseHoldOffEnd p) s fun d =>
    d.now = max s.dev.now t ∧ d.ports.p[p] = { s.dev.ports.p[p].pauseAt d.now with pauseIgnoreUntil := none } ∧
      Framed [.clock, .counters, .ports] s.found d := by
  have hrun : exec (.pauseHoldOffEnd p) s = s.does fun d => onPort p (fun q => { q with pauseIgnoreUntil := none })
      (settlePause p (arrive t d)) := by
    show execPauseHoldOffEnd p s = _
    unfold execPauseHoldOffEnd
    refine does_congr ?_
    have ht : s.found.ports.p[p].pauseIgnoreUntil = some t := ht
    dsimp only
    rw [ht]
  refine completes_of_exec hrun ⟨arrive_now t s.found, ?_,
    onPort_framed _ _ _ (by decide) (settlePause_framed _ _ (by decide) (arrive_framed _ _ (by decide) (.refl _ _)))⟩
  rw [onPort_self, settled_port, arrive_ports]
  rfl

end clauses

/-- Settles O33. -/
theorem pauseHoldsBestEffortUntilItEndsOrTheWatchdogTrips : Obligations.PauseHoldsBestEffortUntilItEndsOrTheWatchdogTrips := by
  unfold Obligations.PauseHoldsBestEffortUntilItEndsOrTheWatchdogTrips
  intro s p settled x y counter only
  refine ⟨fun hup => ⟨fun quanta => ?_, fun opcode ho => macControl_counts hup ho⟩, ⟨fun e he => ?_, fun e he =>
    ⟨fun hd => pauseWatchdog_trips he hd, fun hd => pauseWatchdog_waits he hd⟩, fun hu hp => pauseTimeReset_completes hu hp⟩,
    fun t ht => pauseHoldOffEnd_completes ht⟩
  · intro obeyed taken
    have htaken : ∀ {P : Dev → Prop}, Completes (.pause p quanta) s (fun d => PauseTaken p s.found d ∧ P d) → taken P := fun h =>
      Completes.mono h fun d ⟨⟨hc, hg, hf⟩, hP⟩ => ⟨hc, hg, hf, hP⟩
    refine ⟨fun hw => ⟨fun hn => htaken (pause_ignored hup hw hn), fun ho => ⟨fun hq => htaken (pause_ends hup hw ho hq),
      fun hq hidle => htaken (pause_starts hup hw ho hq hidle), fun hq hbusy hrun => htaken (pause_waits hup hw ho hq hbusy hrun)⟩⟩,
      fun hw hold => ?_⟩
    exact pause_trips hup hw hold
  · refine Completes.mono (pauseEnd_completes he) fun d ⟨hnow, hport, hf⟩ => ⟨hnow, hport, hf, fun hp hu => ?_⟩
    rw [hport, hnow]
    exact PortS.pauseAt_end hp hu (pauseOf_until hp he)

end Sys2Proof.Machine
end

section
/-! PROOF. Commands to message objects (R306, R307, R310, R315, R321). -/

namespace Sys2Proof.Machine

/-! ### Objects and controllers -/

@[simp] theorem onCan_self (c : CanId) (f : CanCtl → CanCtl) (d : Dev) : (onCan c f d).can[c] = f d.can[c] := by
  simp [onCan, vmod]

theorem onCan_ne {c k : CanId} (h : k ≠ c) (f : CanCtl → CanCtl) (d : Dev) : (onCan c f d).can[k] = d.can[k] := by
  show (d.can.set c.val (f d.can[c]))[k.val] = d.can[k.val]
  exact Vector.getElem_set_ne _ _ fun e => h (Fin.ext e).symm

/-- The first entry under a number, after an object that is not blank is put under it. -/
theorem find_putObj_self (o : Nat) {x : CanObj} (hx : x ≠ CanObj.blank) (l : List (Nat × CanObj)) :
    (putObj o x l).find? (fun y => y.1 = o) = some (o, x) := by
  induction l with
  | nil => simp [putObj, hx]
  | cons y l ih =>
    obtain ⟨k, y⟩ := y
    unfold putObj
    split
    · simp
    · split
      · simp
      · next hne => rw [List.find?_cons_of_neg (by simpa using Ne.symm hne), ih]

theorem find_putObj_ne {o k : Nat} (h : k ≠ o) (x : CanObj) (l : List (Nat × CanObj)) :
    (putObj o x l).find? (fun y => y.1 = k) = l.find? (fun y => y.1 = k) := by
  induction l with
  | nil =>
    unfold putObj
    split
    · rfl
    · simp [h.symm]
  | cons y l ih =>
    obtain ⟨j, y⟩ := y
    unfold putObj
    split
    · split
      · rfl
      · rw [List.find?_cons_of_neg (by simpa using h.symm)]
    · split
      · next hj =>
        subst hj
        split
        · rw [List.find?_cons_of_neg (by simpa using h.symm)]
        · rw [List.find?_cons_of_neg (by simpa using h.symm), List.find?_cons_of_neg (by simpa using h.symm)]
      · rw [List.find?_cons, List.find?_cons, ih]

/-- An object reads what was put there, unless that is blank. -/
theorem objOf_setObj_self (c : CanId) (o : Nat) {x : CanObj} (hx : x ≠ CanObj.blank) (d : Dev) : objOf (setObj c o x d) c o = x := by
  unfold objOf setObj
  rw [onCan_self, find_putObj_self o hx]
  rfl

theorem objOf_setObj_ne (c : CanId) {o k : Nat} (h : k ≠ o) (x : CanObj) (d : Dev) : objOf (setObj c o x d) c k = objOf d c k := by
  unfold objOf setObj
  rw [onCan_self, find_putObj_ne h]

theorem ne_blank_of_status {x : CanObj} (h : x.status ≠ 0) : x ≠ CanObj.blank := fun e => h (e ▸ rfl)

/-! ### Interrupts that stand -/

/-- No bit of INT_STATUS falls. -/
def IntsStand (a b : Dev) : Prop := ∀ i, a.host.intStatus.getLsbD i = true → b.host.intStatus.getLsbD i = true

theorem IntsStand.trans {a b c : Dev} (h1 : IntsStand a b) (h2 : IntsStand b c) : IntsStand a c := fun i hi => h2 i (h1 i hi)

theorem IntsStand.of_eq {a b : Dev} (h : b.host.intStatus = a.host.intStatus) : IntsStand a b := fun i hi => by rw [h, hi]

theorem setInt_stands (bit : Nat) (d : Dev) : IntsStand d (setInt bit d) := fun i hi => by
  rw [setInt_intStatus, BitVec.getLsbD_or, hi, Bool.true_or]

theorem Framed.intsStand {A : List Part} {a b : Dev} (h : Framed A a b) (hA : Part.ints ∉ A) : IntsStand a b :=
  .of_eq (congrArg Prod.fst (h.same .ints hA))

theorem IntsStand.ite {a b c : Dev} {t : Prop} [Decidable t] (h1 : IntsStand a b) (h2 : IntsStand a c) : IntsStand a (if t then b else c) := by
  split
  · exact h1
  · exact h2

theorem onMailbox_stands (path : HostPath) (f : Mailbox → Mailbox) (d : Dev) : IntsStand d (onMailbox path f d) := by
  cases path <;> exact .of_eq rfl

/-- An answer leaves the interrupts that stand. -/
theorem answer_stands (src : Src) (rs : Resp) (d : Dev) : IntsStand d (answer src rs d) := by
  have hbox : ∀ path, IntsStand d (answerMailbox path src rs d) := fun path => by
    unfold answerMailbox
    exact .ite (onMailbox_stands _ _ d) (.ite (.of_eq rfl) ((onMailbox_stands _ _ d).trans (setInt_stands _ _)))
  cases src with
  | sdo c => exact .ite (.of_eq rfl) (.of_eq rfl)
  | kda id seq =>
    unfold answer
    dsimp only
    split
    · next x hx =>
      have hf := sendStored_framed (L := [.out, .regs, .access, .queues, .counters]) x (if rs.write then 0x13 else 0x11) (respBlock rs) d
        (fun _ h => h) (.refl _ _)
      exact hf.intsStand (by decide)
    · exact .of_eq rfl
  | pcie => exact hbox .pcie
  | serial => exact hbox .serial

/-! ### What a command finds on the device that its path has reached -/

/-- The controllers, the large tables and the registers that no path changes are those found. -/
structure SameBus (a b : Dev) : Prop where
  can : b.can = a.can
  mem : b.dict.mem = a.dict.mem
  cfg : ∀ idx sub, PathFree idx sub → odKey idx sub ≠ odKey 0x2003 1 → Machine.cfg b idx sub = Machine.cfg a idx sub

theorem PathOnly.sameBus {s : State} {src : Src} {a : Dev} (h : PathOnly src s.found a) : SameBus s.dev (bump 0x2003 1 a) where
  can := (bump_can _ _ _).trans (h.same .can (by decide))
  mem := h.same .tables (by decide)
  cfg idx sub hf hne := (cfg_bump_ne _ _ _ _ _ hne).trans (h.cfg_free hf)

section same

variable {a b : Dev} (h : SameBus a b) (c : CanId)
include h

theorem SameBus.objOf (o : Nat) : Machine.objOf b c o = Machine.objOf a c o := by
  unfold Machine.objOf
  rw [h.can]

theorem SameBus.cfg_can {k sub : Nat} (hk : k < 16) (hs : sub < 256) : Machine.cfg b (canIdx c k) sub = Machine.cfg a (canIdx c k) sub := by
  have hc := c.isLt
  have hlo : 0x2700 ≤ canIdx c k ∧ canIdx c k < 0x2780 := by
    unfold canIdx
    omega
  refine h.cfg _ _ ⟨hs, by omega, by omega, by omega, by omega⟩ ?_
  unfold odKey
  omega

theorem SameBus.objCfg (o : Nat) : Machine.objCfg b c o = Machine.objCfg a c o := by
  have hc := c.isLt
  have hfree : ∀ sub, sub < 256 → PathFree (0x1200 + c.val) sub := fun sub hs => ⟨hs, by omega, by omega, by omega, by omega⟩
  have hcfg : ∀ sub, sub < 256 → Machine.cfg b (0x1200 + c.val) sub = Machine.cfg a (0x1200 + c.val) sub := fun sub hs =>
    h.cfg _ _ (hfree sub hs) (by unfold odKey; omega)
  have h9 := h.cfg 0x2010 9 (by unfold PathFree; decide) (by decide)
  have hA := h.cfg 0x2010 0x0A (by unfold PathFree; decide) (by decide)
  have hsub : (if o = 126 then 1 else 2) < 256 := by split <;> decide
  unfold Machine.objCfg sdoObj tableBytes
  rw [h9, hA, h.mem, hcfg _ hsub]

end same


/-! ### The selected object's entries (R310, R315) -/

section rows

variable (c : CanId)

theorem rowOf_objectFrame : rowOf (canIdx c 4) 2 =
    some ⟨0x2704, 8, 16, 0x02, 1, .ostr 255, 0x1333, .nil, .vol, true, false, .lenRange 16 80⟩ := by
  revert c
  decide +kernel

theorem rowOf_objectCommand : rowOf (canIdx c 4) 3 =
    some ⟨0x2704, 8, 16, 0x03, 1, .u8, 0x0222, .n 0, .vol, true, false, .oneOf [1, 2, 3]⟩ := by
  revert c
  decide +kernel

theorem rowOf_recoveryRequest : rowOf (canIdx c 4) 7 =
    some ⟨0x2704, 8, 16, 0x07, 1, .u8, 0x0222, .n 0, .vol, true, false, .oneOf [1]⟩ := by
  revert c
  decide +kernel

theorem canIdx_bounds {k : Nat} (hk : k < 16) : 0x2700 ≤ canIdx c k ∧ canIdx c k < 0x2780 ∧ canIdx c k % 16 = k ∧ (canIdx c k - 0x2700) / 16 = c.val := by
  have hc := c.isLt
  unfold canIdx
  omega

/-- Writes to the entries of chapter 09 act on their controller. -/
theorem actOn_can (src : Src) (sub : Nat) (data : List Byte) (role : Nat) (v : Value) (d : Dev) :
    actOn (writeOf src (canIdx c 4) sub 0 data) role v d = canAct c (canIdx c 4) sub v d := by
  obtain ⟨hlo, hhi, -, hc⟩ := canIdx_bounds c (k := 4) (by decide)
  unfold actOn
  show (if canIdx c 4 < 0x2100 then _ else if 0x2700 ≤ canIdx c 4 && canIdx c 4 < 0x2780 then
    canAct (Fin.ofNat 8 ((canIdx c 4 - 0x2700) / 16)) (canIdx c 4) sub v d else _) = _
  rw [if_neg (by omega), if_pos (by simp [hlo, hhi]), hc, show Fin.ofNat 8 c.val = c from Fin.ext (Nat.mod_eq_of_lt c.isLt)]

theorem specialError_can (d : Dev) (sub : Nat) (v : Value) : specialError d (canIdx c 4) sub v = none := by
  obtain ⟨hlo, hhi, hmod, -⟩ := canIdx_bounds c (k := 4) (by decide)
  unfold specialError
  dsimp only
  rw [if_neg (by simp [hmod]), if_neg (by simp; omega), if_neg (by simp; omega), if_neg (by simp; omega), if_neg (by simp; omega)]

end rows

section commands

variable {s : State} {src : Src} {c : CanId}

/-- A command to the selected object. -/
theorem objectCommand_completes {cmd : Instr} {n : Nat} {P : Dev → Prop} (hc : exec cmd s = askNum src (canIdx c 4) 3 1 n s) (hs : Served s.dev src)
    (hm : MayWrite s.dev src (canIdx c 4) 3) (hn : n ∈ [1, 2, 3])
    (hP : ∀ a, Reached src s.found a → P (finishAct src (canIdx c 4) 3 a (objectAct c n (bump 0x2003 1 a)))) : Completes cmd s P := by
  obtain ⟨hlo, hhi, hmod, -⟩ := canIdx_bounds c (k := 4) (by decide)
  have hval : valueError s.dev ⟨0x2704, 8, 16, 0x03, 1, .u8, 0x0222, .n 0, .vol, true, false, .oneOf [1, 2, 3]⟩ (canIdx c 4) 3 (.num n) = none := by
    unfold valueError
    rw [specialError_can]
    simp only [List.mem_cons, List.not_mem_nil, or_false] at hn
    rcases hn with rfl | rfl | rfl <;> rfl
  have hlt : n < 256 ^ 1 := by
    simp only [List.mem_cons, List.not_mem_nil, or_false] at hn
    omega
  refine completes_num hc hs hm (rowOf_objectCommand c) rfl hlt rfl hval (by decide) (by simp [isTable]; omega) (by omega) (by omega) fun a ha => ?_
  rw [actOn_can]
  unfold canAct
  rw [hmod]
  exact hP a ha

/-- What object commands find. -/
theorem Reached.sameBus {a : Dev} (h : Reached src s.found a) : SameBus s.dev (bump 0x2003 1 a) := h.pathOnly.sameBus

theorem SameBus.selectedObj {a b : Dev} (h : SameBus a b) (c : CanId) : Machine.selectedObj b c = Machine.selectedObj a c :=
  h.cfg_can c (by decide) (by decide)

theorem SameBus.modeRefuses {a b : Dev} (h : SameBus a b) (c : CanId) : Machine.modeRefuses b c = Machine.modeRefuses a c := by
  unfold Machine.modeRefuses
  rw [h.can, h.cfg_can c (by decide) (by decide)]

/-- The act of an object command, with what it finds taken from the device before the path. -/
theorem objectAct_reached {a : Dev} (h : Reached src s.found a) (n : Nat) : objectAct c n (bump 0x2003 1 a) =
    if (objCfg s.dev c (selectedObj s.dev c)).owner ≠ 1 then .refuse 0x08000022 id
    else match n with
      | 1 => Act.when ((objCfg s.dev c (selectedObj s.dev c)).tx && (objOf s.dev c (selectedObj s.dev c)).status = 0 && !modeRefuses s.dev c)
          (requestObj c (selectedObj s.dev c) (bump 0x2003 1 a))
      | 2 => Act.when (isBusy (objOf s.dev c (selectedObj s.dev c)).status) (cancelObj c (selectedObj s.dev c) (bump 0x2003 1 a))
      | _ => Act.when (isHeld (objOf s.dev c (selectedObj s.dev c)).status || isDone (objOf s.dev c (selectedObj s.dev c)).status)
          (ackObj c (selectedObj s.dev c) (bump 0x2003 1 a)) := by
  have hb := h.sameBus
  unfold objectAct
  dsimp only
  rw [hb.selectedObj, hb.objCfg, hb.objOf, hb.modeRefuses] <;> rfl

theorem finishAct_when_false {a d : Dev} (h : Reached src s.found a) (idx sub : Nat) :
    RefusedWith s src idx sub 0x08000022 (finishAct src idx sub a (Act.when false d)) := h.refused idx sub _

theorem finishAct_when_true {a : Dev} {f : Dev → Dev} (h : Reached src s.found a) (hf : Framed [.can] (bump 0x2003 1 a) (f (bump 0x2003 1 a)))
    (idx sub : Nat) : ActsAtOnce s src idx sub f (finishAct src idx sub a (Act.when true (f (bump 0x2003 1 a)))) :=
  h.acts hf (by decide) (by decide) idx sub

theorem object_unowned {cmd : Instr} {n : Nat} (hc : exec cmd s = askNum src (canIdx c 4) 3 1 n s) (hs : Served s.dev src)
    (hm : MayWrite s.dev src (canIdx c 4) 3) (hn : n ∈ [1, 2, 3]) (ho : (objCfg s.dev c (selectedObj s.dev c)).owner ≠ 1) :
    Completes cmd s (RefusedWith s src (canIdx c 4) 3 0x08000022) :=
  objectCommand_completes hc hs hm hn fun a ha => by
    rw [objectAct_reached ha, if_pos ho]
    exact ha.refused _ _ _

section owned

variable (hs : Served s.dev src) (hm : MayWrite s.dev src (canIdx c 4) 3) (ho : (objCfg s.dev c (selectedObj s.dev c)).owner = 1)
include hs hm ho

theorem objectRequest_acts (htx : (objCfg s.dev c (selectedObj s.dev c)).tx = true) (hst : (objOf s.dev c (selectedObj s.dev c)).status = 0)
    (hmode : modeRefuses s.dev c = false) : Completes (.objectRequest src c) s (ActsAtOnce s src (canIdx c 4) 3
      (setObj c (selectedObj s.dev c) { objOf s.dev c (selectedObj s.dev c) with status := 0x10, failures := 0, cancel := false })) :=
  objectCommand_completes rfl hs hm (by decide) fun a ha => by
    have hreq : requestObj c (selectedObj s.dev c) (bump 0x2003 1 a) = setObj c (selectedObj s.dev c)
        { objOf s.dev c (selectedObj s.dev c) with status := 0x10, failures := 0, cancel := false } (bump 0x2003 1 a) := by
      rw [requestObj, ha.sameBus.objOf]
    rw [objectAct_reached ha, if_neg (not_not_intro ho), htx, hst, hmode, hreq]
    exact finishAct_when_true ha (setObj_framed _ _ _ _ (by decide) (.refl _ _)) _ _

theorem objectRequest_refused (h : (objCfg s.dev c (selectedObj s.dev c)).tx = false ∨ (objOf s.dev c (selectedObj s.dev c)).status ≠ 0 ∨
    modeRefuses s.dev c = true) : Completes (.objectRequest src c) s (RefusedWith s src (canIdx c 4) 3 0x08000022) :=
  objectCommand_completes rfl hs hm (by decide) fun a ha => by
    have hoff : ((objCfg s.dev c (selectedObj s.dev c)).tx && decide ((objOf s.dev c (selectedObj s.dev c)).status = 0) && !modeRefuses s.dev c) = false := by
      rcases h with h | h | h <;> simp [h]
    rw [objectAct_reached ha, if_neg (not_not_intro ho), hoff]
    exact finishAct_when_false ha _ _

theorem objectCancel_ends (hst : (objOf s.dev c (selectedObj s.dev c)).status = 0x10) : Completes (.objectCancel src c) s fun d =>
    WriteAnswered d src (canIdx c 4) 3 0 ∧
      objOf d c (selectedObj s.dev c) = { objOf s.dev c (selectedObj s.dev c) with status := 0x22, failures := 0, cancel := false } ∧
      d.host.intStatus.getLsbD (8 + c.val) = true :=
  objectCommand_completes rfl hs hm (by decide) fun a ha => by
    rw [objectAct_reached ha, if_neg (not_not_intro ho), hst]
    have hb := ha.sameBus
    generalize hx : selectedObj s.dev c = o at *
    let x : CanObj := { objOf s.dev c o with status := 0x22, failures := 0, cancel := false }
    have hcancel : cancelObj c o (bump 0x2003 1 a) = canInt c (setObj c o x (bump 0x2003 1 a)) := by
      have howner : (objCfg (setObj c o x (bump 0x2003 1 a)) c o).owner = 1 := (congrArg ObjCfg.owner (hb.objCfg c o)).trans ho
      unfold cancelObj finishObj attend
      dsimp only
      rw [hb.objOf, if_pos hst]
      exact if_pos (decide_eq_true howner)
    have hacts := ha.acts (A := [.out, .can, .ints]) (f := fun d => canInt c (setObj c o x d))
      (canInt_framed _ _ (by decide) (setObj_framed _ _ _ _ (by decide) (.refl _ _))) (by decide) (by decide) (canIdx c 4) 3
    show WriteAnswered (answerWrite src (canIdx c 4) 3 0 (cancelObj c o (bump 0x2003 1 a))) _ _ _ _ ∧ _
    rw [hcancel]
    refine ⟨hacts.2, ?_, ?_⟩
    · have hcan : (answerWrite src (canIdx c 4) 3 0 (canInt c (setObj c o x (bump 0x2003 1 a)))).can = (setObj c o x (bump 0x2003 1 a)).can :=
        ((answer_pathOnly src _ _).same .can (by decide)).trans (setInt_can _ _)
      show objOf (answerWrite src (canIdx c 4) 3 0 _) c o = x
      unfold objOf
      rw [hcan]
      exact objOf_setObj_self c o (ne_blank_of_status (show (0x22 : Nat) ≠ 0 by decide)) _
    · have hc := c.isLt
      exact answer_stands _ _ _ _ (setInt_bit (show 8 + c.val < 32 by omega) _)

theorem objectCancel_flags (hst : (objOf s.dev c (selectedObj s.dev c)).status = 0x11) : Completes (.objectCancel src c) s
    (ActsAtOnce s src (canIdx c 4) 3 (setObj c (selectedObj s.dev c) { objOf s.dev c (selectedObj s.dev c) with cancel := true })) :=
  objectCommand_completes rfl hs hm (by decide) fun a ha => by
    have hcancel : cancelObj c (selectedObj s.dev c) (bump 0x2003 1 a) =
        setObj c (selectedObj s.dev c) { objOf s.dev c (selectedObj s.dev c) with cancel := true } (bump 0x2003 1 a) := by
      unfold cancelObj
      dsimp only
      rw [ha.sameBus.objOf, if_neg (by rw [hst]; decide), if_pos hst]
    rw [objectAct_reached ha, if_neg (not_not_intro ho), hst, hcancel]
    exact finishAct_when_true ha (setObj_framed _ _ _ _ (by decide) (.refl _ _)) _ _

theorem objectCancel_refused (h1 : (objOf s.dev c (selectedObj s.dev c)).status ≠ 0x10) (h2 : (objOf s.dev c (selectedObj s.dev c)).status ≠ 0x11) :
    Completes (.objectCancel src c) s (RefusedWith s src (canIdx c 4) 3 0x08000022) :=
  objectCommand_completes rfl hs hm (by decide) fun a ha => by
    have hoff : isBusy (objOf s.dev c (selectedObj s.dev c)).status = false := by simp [isBusy, h1, h2]
    rw [objectAct_reached ha, if_neg (not_not_intro ho)]
    show RefusedWith _ _ _ _ _ (finishAct _ _ _ _ (Act.when (isBusy _) _))
    rw [hoff]
    exact finishAct_when_false ha _ _

theorem objectAcknowledge_arms (hst : (objOf s.dev c (selectedObj s.dev c)).status = 1 ∨ (objOf s.dev c (selectedObj s.dev c)).status = 2) :
    Completes (.objectAcknowledge src c) s (ActsAtOnce s src (canIdx c 4) 3 (setObj c (selectedObj s.dev c) CanObj.blank)) :=
  objectCommand_completes rfl hs hm (by decide) fun a ha => by
    have hheld : isHeld (objOf s.dev c (selectedObj s.dev c)).status = true := by rcases hst with h | h <;> rw [h] <;> rfl
    have hack : ackObj c (selectedObj s.dev c) (bump 0x2003 1 a) = setObj c (selectedObj s.dev c) CanObj.blank (bump 0x2003 1 a) := by
      unfold ackObj
      dsimp only
      rw [ha.sameBus.objOf, if_pos hheld]
    rw [objectAct_reached ha, if_neg (not_not_intro ho)]
    show ActsAtOnce _ _ _ _ _ (finishAct _ _ _ _ (Act.when (isHeld _ || isDone _) _))
    rw [hheld, hack]
    exact finishAct_when_true ha (setObj_framed _ _ _ _ (by decide) (.refl _ _)) _ _

theorem objectAcknowledge_idles (hst : 0x20 ≤ (objOf s.dev c (selectedObj s.dev c)).status) : Completes (.objectAcknowledge src c) s
    (ActsAtOnce s src (canIdx c 4) 3 (setObj c (selectedObj s.dev c) { objOf s.dev c (selectedObj s.dev c) with status := 0 })) :=
  objectCommand_completes rfl hs hm (by decide) fun a ha => by
    have hdone : isDone (objOf s.dev c (selectedObj s.dev c)).status = true := decide_eq_true hst
    have hheld : isHeld (objOf s.dev c (selectedObj s.dev c)).status = false := by simp [isHeld]; omega
    have hack : ackObj c (selectedObj s.dev c) (bump 0x2003 1 a) =
        setObj c (selectedObj s.dev c) { objOf s.dev c (selectedObj s.dev c) with status := 0 } (bump 0x2003 1 a) := by
      unfold ackObj
      dsimp only
      rw [ha.sameBus.objOf, if_neg (by simp [hheld]), if_pos hdone]
    rw [objectAct_reached ha, if_neg (not_not_intro ho)]
    show ActsAtOnce _ _ _ _ _ (finishAct _ _ _ _ (Act.when (isHeld _ || isDone _) _))
    rw [hdone, Bool.or_true, hack]
    exact finishAct_when_true ha (setObj_framed _ _ _ _ (by decide) (.refl _ _)) _ _

theorem objectAcknowledge_refused (hst : (objOf s.dev c (selectedObj s.dev c)).status = 0 ∨ (objOf s.dev c (selectedObj s.dev c)).status = 0x10 ∨
    (objOf s.dev c (selectedObj s.dev c)).status = 0x11) :
    Completes (.objectAcknowledge src c) s (RefusedWith s src (canIdx c 4) 3 0x08000022) :=
  objectCommand_completes rfl hs hm (by decide) fun a ha => by
    have hoff : (isHeld (objOf s.dev c (selectedObj s.dev c)).status || isDone (objOf s.dev c (selectedObj s.dev c)).status) = false := by
      rcases hst with h | h | h <;> rw [h] <;> rfl
    rw [objectAct_reached ha, if_neg (not_not_intro ho)]
    show RefusedWith _ _ _ _ _ (finishAct _ _ _ _ (Act.when (isHeld _ || isDone _) _))
    rw [hoff]
    exact finishAct_when_false ha _ _

end owned

/-! ### The frame record (R310, R315) -/

/-- A frame record that a request carries reaches the selected object. -/
theorem objectFrame_completes {data : List Byte} {P : Dev → Prop} (hs : Served s.dev src) (hm : MayWrite s.dev src (canIdx c 4) 2)
    (hlo : 16 ≤ data.length) (hhi : data.length ≤ 80)
    (hP : ∀ a, Reached src s.found a → P (finishAct src (canIdx c 4) 2 a (frameAct c data (bump 0x2003 1 a)))) :
    Completes (.objectFrame src c data) s P := by
  obtain ⟨hidx, hidx', hmod, -⟩ := canIdx_bounds c (k := 4) (by decide)
  have hover : overlong (writeOf src (canIdx c 4) 2 0 data) = false := by
    cases src with
    | sdo => rfl
    | kda => exact decide_eq_false (show ¬ 1400 < data.length by omega)
    | pcie => exact decide_eq_false (show ¬ 4080 < data.length by omega)
    | serial => exact decide_eq_false (show ¬ 4080 < data.length by omega)
  have hlen : writeLength s.dev ⟨0x2704, 8, 16, 0x02, 1, .ostr 255, 0x1333, .nil, .vol, true, false, .lenRange 16 80⟩ (canIdx c 4) 2 0 data =
      .ok (.bytes data) := by
    have h80 : ¬ 80 < data.length := by omega
    have h16 : ¬ data.length < 16 := by omega
    have h255 : ¬ 255 < data.length := by omega
    simp [writeLength, Range.lengthError, h80, h16, h255]
  have hval : valueError s.dev ⟨0x2704, 8, 16, 0x02, 1, .ostr 255, 0x1333, .nil, .vol, true, false, .lenRange 16 80⟩ (canIdx c 4) 2
      (.bytes data) = none := by
    unfold valueError
    rw [specialError_can]
    rfl
  refine completes_imm rfl hs hover (by decide)
    (checkWrite_of (rowOf_objectFrame c) (hm.of_row (rowOf_objectFrame c)) hlen (by simp [isTable]; omega) hval) rfl (by omega) fun a ha => ?_
  have hcount : (!(decide (canIdx c 4 = 0x2011) && decide (2 = 2) && decide ((Value.bytes data).toNat = 1))) = true := by
    rw [decide_eq_false (show canIdx c 4 ≠ 0x2011 by omega)]
    rfl
  rw [actOn_can]
  unfold canAct onlyIf
  rw [hmod, hcount, if_pos rfl]
  exact hP a ha

/-- The act of a frame record, with what it finds taken from the device before the path. -/
theorem frameAct_reached {a : Dev} (h : Reached src s.found a) (data : List Byte) : frameAct c data (bump 0x2003 1 a) =
    if (data.drop 16).length ≠ (if (objCfg s.dev c (selectedObj s.dev c)).remote then 0
        else dlcLength (objCfg s.dev c (selectedObj s.dev c)).fdf (bitsOf (leNat (slice data 4 1)) 3 0)) then .refuse 0x06090030 id
    else Act.when ((objCfg s.dev c (selectedObj s.dev c)).owner = 1 && (objCfg s.dev c (selectedObj s.dev c)).tx &&
        (objOf s.dev c (selectedObj s.dev c)).status = 0)
      (setObj c (selectedObj s.dev c) { objOf s.dev c (selectedObj s.dev c) with
        dlc := BitVec.ofNat 4 (bitsOf (leNat (slice data 4 1)) 3 0), data := data.drop 16 } (bump 0x2003 1 a)) := by
  have hb := h.sameBus
  unfold frameAct
  dsimp only
  rw [hb.selectedObj, hb.objCfg, hb.objOf]

/-- The data of a frame record match its DLC. -/
def FrameFits (g : ObjCfg) (data : List Byte) : Prop :=
  data.length = 16 + if g.remote then 0 else dlcLength g.fdf (bitsOf (leNat (slice data 4 1)) 3 0)

theorem frameFits_iff {g : ObjCfg} {data : List Byte} (hlo : 16 ≤ data.length) :
    FrameFits g data ↔ (data.drop 16).length = (if g.remote then 0 else dlcLength g.fdf (bitsOf (leNat (slice data 4 1)) 3 0)) := by
  unfold FrameFits
  rw [List.length_drop]
  omega

section frames

variable {data : List Byte} (hs : Served s.dev src) (hm : MayWrite s.dev src (canIdx c 4) 2) (hlo : 16 ≤ data.length) (hhi : data.length ≤ 80)
include hs hm hlo hhi

theorem objectFrame_misfit (hf : ¬FrameFits (objCfg s.dev c (selectedObj s.dev c)) data) :
    Completes (.objectFrame src c data) s (RefusedWith s src (canIdx c 4) 2 0x06090030) :=
  objectFrame_completes hs hm hlo hhi fun a ha => by
    rw [frameAct_reached ha, if_pos fun e => hf ((frameFits_iff hlo).2 e)]
    exact ha.refused _ _ _

variable (hf : FrameFits (objCfg s.dev c (selectedObj s.dev c)) data)
include hf

theorem objectFrame_stored (ho : (objCfg s.dev c (selectedObj s.dev c)).owner = 1) (htx : (objCfg s.dev c (selectedObj s.dev c)).tx = true)
    (hst : (objOf s.dev c (selectedObj s.dev c)).status = 0) : Completes (.objectFrame src c data) s (ActsAtOnce s src (canIdx c 4) 2
      (setObj c (selectedObj s.dev c) { objOf s.dev c (selectedObj s.dev c) with
        dlc := BitVec.ofNat 4 (bitsOf (leNat (slice data 4 1)) 3 0), data := data.drop 16 })) :=
  objectFrame_completes hs hm hlo hhi fun a ha => by
    rw [frameAct_reached ha, if_neg (not_not_intro ((frameFits_iff hlo).1 hf)), ho, htx, hst]
    exact finishAct_when_true ha (setObj_framed _ _ _ _ (by decide) (.refl _ _)) _ _

theorem objectFrame_refused (h : (objCfg s.dev c (selectedObj s.dev c)).owner ≠ 1 ∨ (objCfg s.dev c (selectedObj s.dev c)).tx = false ∨
    (objOf s.dev c (selectedObj s.dev c)).status ≠ 0) : Completes (.objectFrame src c data) s (RefusedWith s src (canIdx c 4) 2 0x08000022) :=
  objectFrame_completes hs hm hlo hhi fun a ha => by
    have hoff : (decide ((objCfg s.dev c (selectedObj s.dev c)).owner = 1) && (objCfg s.dev c (selectedObj s.dev c)).tx &&
        decide ((objOf s.dev c (selectedObj s.dev c)).status = 0)) = false := by
      rcases h with h | h | h <;> simp [h]
    rw [frameAct_reached ha, if_neg (not_not_intro ((frameFits_iff hlo).1 hf)), hoff]
    exact finishAct_when_false ha _ _

end frames

/-! ### Recovery from bus-off (R297, R315) -/

section recovery

variable (hs : Served s.dev src) (hm : MayWrite s.dev src (canIdx c 4) 7)
include hs hm

theorem recoveryRequest_completes {P : Dev → Prop} (hP : ∀ a, Reached src s.found a → P (finishAct src (canIdx c 4) 7 a
      (Act.when (s.dev.can[c].state = .busOff && cfg s.dev (canIdx c 0) 0x0E ≠ 0) (askRecovery c (bump 0x2003 1 a))))) :
    Completes (.busOffRecoveryRequest src c) s P := by
  obtain ⟨hlo, hhi, hmod, -⟩ := canIdx_bounds c (k := 4) (by decide)
  have hval : valueError s.dev ⟨0x2704, 8, 16, 0x07, 1, .u8, 0x0222, .n 0, .vol, true, false, .oneOf [1]⟩ (canIdx c 4) 7 (.num 1) = none := by
    unfold valueError
    rw [specialError_can]
    rfl
  refine completes_num rfl hs hm (rowOf_recoveryRequest c) rfl (by decide) rfl hval (by decide) (by simp [isTable]; omega) (by omega) (by omega)
    fun a ha => ?_
  have hb := ha.sameBus
  rw [actOn_can]
  unfold canAct
  rw [hmod, hb.can, hb.cfg_can c (by decide) (by decide)]
  exact hP a ha

theorem recoveryRequest_refused (h : s.dev.can[c].state ≠ .busOff ∨ cfg s.dev (canIdx c 0) 0x0E = 0) :
    Completes (.busOffRecoveryRequest src c) s (RefusedWith s src (canIdx c 4) 7 0x08000022) :=
  recoveryRequest_completes hs hm fun a ha => by
    have hoff : (decide (s.dev.can[c].state = .busOff) && decide (cfg s.dev (canIdx c 0) 0x0E ≠ 0)) = false := by
      rcases h with h | h
      · rw [decide_eq_false h, Bool.false_and]
      · simp [h]
    rw [hoff]
    exact finishAct_when_false ha _ _

variable (hst : s.dev.can[c].state = .busOff) (hman : cfg s.dev (canIdx c 0) 0x0E ≠ 0)
include hst hman

theorem recoveryRequest_kept (hold : s.dev.can[c].holdOffEnd ≠ none) : Completes (.busOffRecoveryRequest src c) s
    (ActsAtOnce s src (canIdx c 4) 7 (onCan c (fun y => { y with recoveryAsked := true }))) :=
  recoveryRequest_completes hs hm fun a ha => by
    have hask : askRecovery c (bump 0x2003 1 a) = onCan c (fun y => { y with recoveryAsked := true }) (bump 0x2003 1 a) := by
      unfold askRecovery
      rw [ha.sameBus.can, if_pos (Option.isSome_iff_ne_none.2 hold)]
    rw [hst, decide_eq_true hman, hask]
    exact finishAct_when_true ha (onCan_framed _ _ _ (by decide) (.refl _ _)) _ _

theorem recoveryRequest_recovers (hold : s.dev.can[c].holdOffEnd = none) : Completes (.busOffRecoveryRequest src c) s fun d =>
    d.can[c] = { s.dev.can[c] with state := .recovering, stb := false } ∧ WriteAnswered d src (canIdx c 4) 7 0 :=
  recoveryRequest_completes hs hm fun a ha => by
    have hb := ha.sameBus
    have hask : askRecovery c (bump 0x2003 1 a) = setCanState c .recovering (bump 0x2003 1 a) := by
      unfold askRecovery
      rw [hb.can, hold]
      rfl
    have hctl : (setCanState c .recovering (bump 0x2003 1 a)).can[c] = { s.dev.can[c] with state := .recovering, stb := false } := by
      unfold setCanState
      rw [if_neg (by rw [hb.can, hst]; decide), canInt, setInt_can, onCan_self, hb.can]
      simp
    have hacts := ha.acts (A := [.out, .can, .ints]) (f := setCanState c .recovering) (setCanState_framed _ _ _ (by decide) (.refl _ _))
      (by decide) (by decide) (canIdx c 4) 7
    rw [hst, decide_eq_true hman, hask]
    refine ⟨?_, hacts.2⟩
    rw [← hctl]
    exact congrArg (fun v : Vector CanCtl 8 => v[c]) ((answer_pathOnly src _ _).same .can (by decide))

end recovery

end commands

/-- Settles O40. -/
theorem objectCommandsActAtOnceOrAreRefused : Obligations.ObjectCommandsActAtOnceOrAreRefused := by
  unfold Obligations.ObjectCommandsActAtOnceOrAreRefused
  intro s src c hs o x g t refused
  refine ⟨fun hm data hlo hhi => ⟨fun hf => objectFrame_misfit hs hm hlo hhi hf, fun hf => ⟨fun ho htx hst => objectFrame_stored hs hm hlo hhi hf ho htx hst,
      fun h => objectFrame_refused hs hm hlo hhi hf h⟩⟩,
    fun hm => ⟨fun ho => ⟨object_unowned rfl hs hm (by decide) ho, object_unowned rfl hs hm (by decide) ho, object_unowned rfl hs hm (by decide) ho⟩,
      fun ho => ?_⟩,
    fun hm => ⟨fun hst hman => ⟨fun hold => recoveryRequest_kept hs hm hst hman hold, fun hold => recoveryRequest_recovers hs hm hst hman hold⟩,
      fun h => recoveryRequest_refused hs hm h⟩⟩
  intro barred
  have hbarred : barred ↔ modeRefuses s.dev c = true := by
    simp [barred, modeRefuses, t, or_assoc]
  refine ⟨fun htx hst hb => objectRequest_acts hs hm ho htx hst (by simpa [hbarred] using hb),
    fun h => objectRequest_refused hs hm ho (h.imp_right (Or.imp_right hbarred.1)), fun hst => objectCancel_ends hs hm ho hst,
    fun hst => objectCancel_flags hs hm ho hst, fun h1 h2 => objectCancel_refused hs hm ho h1 h2,
    fun hst => objectAcknowledge_arms hs hm ho hst, fun hst => objectAcknowledge_idles hs hm ho hst,
    fun hst => objectAcknowledge_refused hs hm ho hst⟩

end Sys2Proof.Machine
end

section
/-! PROOF. Events on the message buses (R291, R296 to R299, R302, R304 to R308). -/

namespace Sys2Proof.Machine

/-! ### What a bus event leaves as it was -/

/-- The registers that events of a controller write: the counters named, what it shows of errors and rates, and the event
counters. -/
def busRegs (c : CanId) (l : List Nat) : List (Nat × Nat) :=
  l.map (fun k => (canIdx c 2, k)) ++ [(canIdx c 1, 4), (canIdx c 1, 5), (canIdx c 1, 9), (canIdx c 3, 5), (canIdx c 3, 6)] ++ eventCounters

/-- Besides interrupts, entries and counters nothing changes but a controller; of its counters those named may. -/
structure BusMove (c : CanId) (l : List Nat) (a b : Dev) : Prop where
  regs : RegsFramed (busRegs c l) a b
  mem : b.dict.mem = a.dict.mem
  clock : b.now = a.now
  time : b.time = a.time
  others : ∀ k, k ≠ c → b.can[k] = a.can[k]

section move

variable {c : CanId} {l : List Nat} {a b d : Dev}

theorem BusMove.refl (c : CanId) (l : List Nat) (d : Dev) : BusMove c l d d := ⟨.refl _ _, rfl, rfl, rfl, fun _ _ => rfl⟩

theorem BusMove.trans (h1 : BusMove c l a b) (h2 : BusMove c l b d) : BusMove c l a d :=
  ⟨h1.regs.trans h2.regs, h2.mem.trans h1.mem, h2.clock.trans h1.clock, h2.time.trans h1.time,
    fun k hk => (h2.others k hk).trans (h1.others k hk)⟩

theorem BusMove.mono {l' : List Nat} (h : BusMove c l a b) (hl : ∀ k ∈ l, k ∈ l') : BusMove c l' a b := by
  refine ⟨h.regs.mono fun r hr => ?_, h.mem, h.clock, h.time, h.others⟩
  simp only [busRegs, List.mem_append, List.mem_map] at hr ⊢
  rcases hr with (⟨k, hk, rfl⟩ | hr) | hr
  · exact .inl (.inl ⟨k, hl k hk, rfl⟩)
  · exact .inl (.inr hr)
  · exact .inr hr

theorem BusMove.join {l' : List Nat} (h1 : BusMove c l a b) (h2 : BusMove c l' b d) : BusMove c (l ++ l') a d :=
  (h1.mono fun _ h => List.mem_append_left _ h).trans (h2.mono fun _ h => List.mem_append_right _ h)

theorem BusMove.ite {t : Prop} [Decidable t] (h1 : BusMove c l a b) (h2 : BusMove c l a d) : BusMove c l a (if t then b else d) := by
  split
  · exact h1
  · exact h2

theorem BusMove.of_eq (hd : b.dict = a.dict) (hn : b.now = a.now) (ht : b.time = a.time) (hc : ∀ k, k ≠ c → b.can[k] = a.can[k]) :
    BusMove c l a b := ⟨.of_same (congrArg DictS.od hd), congrArg DictS.mem hd, hn, ht, hc⟩

theorem onCan_move (f : CanCtl → CanCtl) (d : Dev) : BusMove c l d (onCan c f d) := .of_eq rfl rfl rfl fun _ hk => onCan_ne hk f d

theorem setObj_move (o : Nat) (x : CanObj) (d : Dev) : BusMove c l d (setObj c o x d) := onCan_move _ d

theorem canInt_move (d : Dev) : BusMove c l d (canInt c d) :=
  .of_eq (setInt_dict _ _) (setInt_now _ _) (setInt_time _ _) fun k _ => by rw [canInt, setInt_can]

theorem attend_move (o : Nat) (d : Dev) : BusMove c l d (attend c o d) := .ite (canInt_move d) (.refl _ _ _)

theorem finishObj_move (o status : Nat) (d : Dev) : BusMove c l d (finishObj c o status d) := (setObj_move _ _ d).trans (attend_move _ _)

theorem setReg_move {idx sub : Nat} (v : Nat) (hr : (idx, sub) ∈ busRegs c l) (d : Dev) : BusMove c l d (setReg idx sub v d) :=
  ⟨(RegsFramed.refl _ d).setReg _ _ _ hr, rfl, rfl, rfl, fun _ _ => rfl⟩

theorem bump_move_bus {sub : Nat} (hs : sub ∈ l) (d : Dev) : BusMove c l d (bump (canIdx c 2) sub d) :=
  setReg_move _ (by simp [busRegs, hs]) d

theorem countEv_move (code inst qual k : Nat) (d : Dev) : BusMove c l d (countEv code inst qual k d) := .of_eq rfl rfl rfl fun _ _ => rfl

theorem raise_move_bus (ev : Ev) (inst : Nat) (d : Dev) : BusMove c l d (raise ev inst d) := by
  refine ⟨(raise_regs ev inst d).mono fun r hr => by simp [busRegs, hr], ?_, raise_now _ _ _, raise_time _ _ _, fun k _ => by rw [raise_can]⟩
  exact (raise_framed (L := eventParts) ev inst d (by decide) (.refl _ _)).same .tables (by decide)

theorem setCanState_move (st : CanState) (d : Dev) : BusMove c l d (setCanState c st d) :=
  .ite (.refl _ _ _) ((onCan_move _ d).trans (canInt_move _))

theorem setAlone_move (x : Bool) (d : Dev) : BusMove c l d (setAlone c x d) := .ite (.refl _ _ _) ((onCan_move _ d).trans (canInt_move _))

theorem judgeErrors_move (d : Dev) : BusMove c [0x0C, 0x0D] d (judgeErrors c d) := by
  unfold judgeErrors
  dsimp only
  have hend : BusMove c [0x0C, 0x0D] d (match d.can[c].sending with
      | some o => finishObj c o 0x25 d
      | none => d) := by
    split
    · exact finishObj_move _ _ _
    · exact .refl _ _ _
  exact .ite (.refl _ _ _) (.ite (hend.trans ((onCan_move _ _).trans ((setCanState_move _ _).trans ((bump_move_bus (by decide) _).trans
    (raise_move_bus _ _ _))))) (.ite (.ite ((setCanState_move _ _).trans ((bump_move_bus (by decide) _).trans (raise_move_bus _ _ _)))
    (.refl _ _ _)) (setCanState_move _ _)))

theorem recAfterFrame_move (d : Dev) : BusMove c l d (recAfterFrame c d) := by
  refine .ite (.trans (b := draw d) ?_ (onCan_move _ _)) (onCan_move _ _)
  exact .of_eq rfl rfl rfl fun _ _ => rfl

/-! ### What it reads as before -/

theorem canIdx_key {k sub : Nat} (hk : k < 16) : odKey 0x2700 0 ≤ odKey (canIdx c k) sub := by
  have := (canIdx_bounds c hk).1
  unfold odKey
  omega

theorem canIdx_key_ne (c : CanId) {i j k sub : Nat} (hk : k < 256) (hs : sub < 256) (h : (i, k) ≠ (j, sub)) :
    odKey (canIdx c i) k ≠ odKey (canIdx c j) sub := by
  unfold odKey canIdx
  simp only [ne_eq, Prod.mk.injEq] at h
  omega

theorem eventCounters_bus : ∀ r ∈ eventCounters, odKey 0x2A00 0 ≤ odKey r.1 r.2 := by decide

theorem busRegs_key (c : CanId) (l : List Nat) : ∀ r ∈ busRegs c l, odKey 0x2700 0 ≤ odKey r.1 r.2 := by
  intro r hr
  simp only [busRegs, List.mem_append, List.mem_map, List.mem_cons, List.not_mem_nil, or_false] at hr
  rcases hr with (⟨k, hk, rfl⟩ | rfl | rfl | rfl | rfl | rfl) | hr
  · exact canIdx_key (by decide)
  · exact canIdx_key (by decide)
  · exact canIdx_key (by decide)
  · exact canIdx_key (by decide)
  · exact canIdx_key (by decide)
  · exact canIdx_key (by decide)
  · exact Nat.le_trans (by decide) (eventCounters_bus r hr)

/-- A register below chapter 09's reads as before. -/
theorem BusMove.cfg_low (h : BusMove c l a b) {idx sub : Nat} (hk : odKey idx sub < odKey 0x2700 0) : cfg b idx sub = cfg a idx sub :=
  h.regs.cfg _ _ fun r hr e => by
    have := busRegs_key c l r hr
    omega

/-- A setting of the controller, or a counter that is not named, reads as before. -/
theorem BusMove.cfg_can (h : BusMove c l a b) (hl : ∀ k ∈ l, k < 256) {j sub : Nat} (hj : j < 16) (hs : sub < 256)
    (hn : j = 2 → sub ∉ l) (h1 : j ≠ 1) (h3 : j = 3 → sub ≠ 5 ∧ sub ≠ 6) : cfg b (canIdx c j) sub = cfg a (canIdx c j) sub :=
  h.regs.cfg _ _ fun r hr => by
    simp only [busRegs, List.mem_append, List.mem_map, List.mem_cons, List.not_mem_nil, or_false] at hr
    rcases hr with (⟨k, hk, rfl⟩ | rfl | rfl | rfl | rfl | rfl) | hr
    · exact canIdx_key_ne c (hl k hk) hs fun e => by cases e; exact hn rfl hk
    · exact canIdx_key_ne c (show 4 < 256 by decide) hs fun e => by cases e; exact h1 rfl
    · exact canIdx_key_ne c (show 5 < 256 by decide) hs fun e => by cases e; exact h1 rfl
    · exact canIdx_key_ne c (show 9 < 256 by decide) hs fun e => by cases e; exact h1 rfl
    · exact canIdx_key_ne c (show 5 < 256 by decide) hs fun e => by cases e; exact (h3 rfl).1 rfl
    · exact canIdx_key_ne c (show 6 < 256 by decide) hs fun e => by cases e; exact (h3 rfl).2 rfl
    · have := eventCounters_bus r hr
      have := (canIdx_bounds c hj).2.1
      unfold odKey at *
      omega

theorem BusMove.counter (h : BusMove c l a b) (hl : ∀ k ∈ l, k < 256) {sub : Nat} (hs : sub < 256) (hn : sub ∉ l) :
    cfg b (canIdx c 2) sub = cfg a (canIdx c 2) sub := h.cfg_can hl (by decide) hs (fun _ => hn) (by decide) (fun e => absurd e (by decide))

theorem BusMove.setting (h : BusMove c l a b) (hl : ∀ k ∈ l, k < 256) {sub : Nat} (hs : sub < 256) :
    cfg b (canIdx c 0) sub = cfg a (canIdx c 0) sub := h.cfg_can hl (by decide) hs (fun e => absurd e (by decide)) (by decide) (fun e => absurd e (by decide))

theorem BusMove.objCfg (h : BusMove c l a b) (k : CanId) (o : Nat) : Machine.objCfg b k o = Machine.objCfg a k o := by
  have hk := k.isLt
  have hsub : (if o = 126 then 1 else 2) < 256 := by split <;> decide
  unfold Machine.objCfg sdoObj tableBytes
  rw [h.cfg_low (show odKey 0x2010 9 < _ by decide), h.cfg_low (show odKey 0x2010 0x0A < _ by decide), h.mem,
    h.cfg_low (show odKey (0x1200 + k.val) _ < _ by unfold odKey; omega)]

theorem BusMove.retryLimit (h : BusMove c l a b) (hl : ∀ k ∈ l, k < 256) (o : Nat) : Machine.retryLimit b c o = Machine.retryLimit a c o := by
  unfold Machine.retryLimit
  rw [h.objCfg, h.setting hl (by decide)]

theorem busCounters_default (c : CanId) : ∀ sub ∈ [1, 2, 3, 4, 5, 6, 7, 8, 9, 0x0A, 0x0B, 0x0C, 0x0D, 0x0E, 0x0F, 0x10, 0x11],
    odDefault (odKey (canIdx c 2) sub) = .num 0 := by
  revert c
  decide +kernel

theorem bump_busCounter (c : CanId) {sub : Nat} (hs : sub ∈ [1, 2, 3, 4, 5, 6, 7, 8, 9, 0x0A, 0x0B, 0x0C, 0x0D, 0x0E, 0x0F, 0x10, 0x11])
    (d : Dev) : cfg (bump (canIdx c 2) sub d) (canIdx c 2) sub = min 0xFFFFFFFF (cfg d (canIdx c 2) sub + 1) :=
  cfg_bump_self _ _ _ (busCounters_default c sub hs)

/-! ### The gateway has nothing to take -/

theorem forEach_id {α : Type} {l : List α} {f : α → Dev → Dev} {d : Dev} (h : ∀ x ∈ l, f x d = d) : forEach l f d = d := by
  induction l with
  | nil => rfl
  | cons x l ih =>
    show forEach l f (f x d) = d
    rw [h x (by simp), ih fun y hy => h y (by simp [hy])]

theorem gwSweep_quiet (h : GatewayQuiet d) : gwSweep d = d :=
  forEach_id fun c _ => forEach_id fun o _ => by
    dsimp only
    by_cases ho : (Machine.objCfg d c o).owner = 2
    · obtain ⟨h1, h2⟩ := h c o ho
      rw [if_neg (not_not_intro ho), h1, h2]
      rfl
    · exact if_pos ho

theorem objOf_of_ctl {k : CanId} (h : (b.can[k]).objs = (a.can[k]).objs) (o : Nat) : objOf b k o = objOf a k o := by
  unfold objOf
  rw [h]

/-- The gateway finds nothing new while no object of its own changes. -/
theorem GatewayQuiet.of_move (h : GatewayQuiet a) (hm : BusMove c l a b) (ho : ∀ o, (Machine.objCfg a c o).owner = 2 → objOf b c o = objOf a c o) :
    GatewayQuiet b := fun k o hk => by
  rw [hm.objCfg] at hk
  have hobj : objOf b k o = objOf a k o := by
    by_cases hkc : k = c
    · subst hkc
      exact ho o hk
    · exact objOf_of_ctl (congrArg CanCtl.objs (hm.others k hkc)) o
  rw [hobj]
  exact h k o hk

end move

/-! ### States of a controller (R291, R297) -/

/-- A controller in another state. -/
def CanCtl.enters (st : CanState) (t : CanCtl) : CanCtl :=
  if t.state = st then t else { t with state := st, stb := st = .off, txd := t.txd || st = .off || st = .busOff }

theorem canInt_ctl (c k : CanId) (d : Dev) : (canInt c d).can[k] = d.can[k] := congrArg (fun v : Vector CanCtl 8 => v[k]) (setInt_can _ _)

theorem raise_ctl (ev : Ev) (inst : Nat) (d : Dev) (k : CanId) : (raise ev inst d).can[k] = d.can[k] :=
  congrArg (fun v : Vector CanCtl 8 => v[k]) (raise_can _ _ _)

theorem bump_ctl (idx sub : Nat) (d : Dev) (k : CanId) : (bump idx sub d).can[k] = d.can[k] :=
  congrArg (fun v : Vector CanCtl 8 => v[k]) (bump_can _ _ _)

theorem setCanState_ctl (c : CanId) (st : CanState) (d : Dev) : (setCanState c st d).can[c] = d.can[c].enters st := by
  unfold setCanState CanCtl.enters
  by_cases h : d.can[c].state = st
  · rw [if_pos h, if_pos h]
  · rw [if_neg h, if_neg h, canInt_ctl, onCan_self]

/-- The error state that the counters ask for while they keep the controller on the bus. -/
def CanCtl.judged (t : CanCtl) : CanState := if 127 < t.tec ∨ 127 < t.recv then .errorPassive else .errorActive

theorem CanCtl.enters_judged_onBus (t : CanCtl) : onBus (t.enters t.judged) = true := by
  have hst : (t.enters t.judged).state = t.judged := by
    unfold CanCtl.enters
    split
    · assumption
    · rfl
  unfold onBus
  rw [hst]
  unfold CanCtl.judged
  split <;> rfl

theorem onBus_cases {t : CanCtl} (h : onBus t = true) : t.state = .errorActive ∨ t.state = .errorPassive := by simpa [onBus] using h

theorem judgeErrors_ctl {c : CanId} {d : Dev} (hb : onBus d.can[c] = true) (ht : d.can[c].tec ≤ 255) :
    (judgeErrors c d).can[c] = d.can[c].enters d.can[c].judged := by
  unfold judgeErrors CanCtl.judged
  dsimp only
  rw [if_neg (by rw [hb]; decide), if_neg (Nat.not_lt.2 ht)]
  by_cases hp : 127 < d.can[c].tec ∨ 127 < d.can[c].recv
  · rw [if_pos (by simpa using hp), if_pos hp]
    by_cases hst : d.can[c].state = .errorActive
    · rw [if_pos hst, raise_ctl, bump_ctl, setCanState_ctl]
    · rw [if_neg hst, CanCtl.enters, if_pos ((onBus_cases hb).resolve_left hst)]
  · rw [if_neg (by simpa using hp), if_neg hp, setCanState_ctl]

theorem setAlone_ctl (c : CanId) (x : Bool) (d : Dev) : (setAlone c x d).can[c] = { d.can[c] with alone := x } := by
  unfold setAlone
  by_cases h : d.can[c].alone = x
  · rw [if_pos h, ← h]
  · rw [if_neg h, canInt_ctl, onCan_self]


/-! ### Errors, frames and attempts: the controller's record -/

/-- The counter of a kind of error. -/
def errorCounter : CanErrorKind → Nat
  | .stuff => 7
  | .form => 8
  | .acknowledgement => 9
  | .bit1 => 0x0A
  | .bit0 => 0x0A
  | .crc => 0x0B
  | .protocolException => 8

theorem errorCounter_mem (k : CanErrorKind) : errorCounter k ∈ [7, 8, 9, 0x0A, 0x0B] := by cases k <;> decide

/-- An error is counted by its kind, and shown. -/
def errorShown (c : CanId) (k : CanErrorKind) (dataPhase : Bool) (d : Dev) : Dev :=
  setReg (canIdx c 1) (if dataPhase then 5 else 4) (match k with
    | .stuff => 1
    | .form => 2
    | .acknowledgement => 3
    | .bit1 => 4
    | .bit0 => 5
    | .crc => 6
    | .protocolException => 2) (bump (canIdx c 2) (errorCounter k) d)

theorem noteCanError_eq (c : CanId) (k : CanErrorKind) (dataPhase : Bool) (d : Dev) :
    noteCanError c k dataPhase d = countEv 0x022 c.val 0 1 (errorShown c k dataPhase d) := by cases k <;> rfl

theorem errorShown_move (c : CanId) (k : CanErrorKind) (dataPhase : Bool) (d : Dev) : BusMove c [] (bump (canIdx c 2) (errorCounter k) d) (errorShown c k dataPhase d) :=
  setReg_move _ (by cases dataPhase <;> simp [busRegs]) _

/-- What a protocol exception leaves of the controller. -/
def ExceptionOnly (c : CanId) (a d : Dev) : Prop :=
  cfg d (canIdx c 2) 0x0F = min 0xFFFFFFFF (cfg a (canIdx c 2) 0x0F + 1) ∧ d.can[c].tec = a.can[c].tec ∧ d.can[c].recv = a.can[c].recv ∧
    d.can[c].state = a.can[c].state ∧ d.can[c].objs = a.can[c].objs

section events

variable {s : State} {c : CanId}

theorem noteCanError_move (k : CanErrorKind) (dataPhase : Bool) (d : Dev) : BusMove c [7, 8, 9, 0x0A, 0x0B] d (noteCanError c k dataPhase d) := by
  rw [noteCanError_eq]
  exact (bump_move_bus (errorCounter_mem k) d).trans (((errorShown_move c k dataPhase d).mono (by simp)).trans (countEv_move _ _ _ _ _))

theorem noteCanError_can (k : CanErrorKind) (dataPhase : Bool) (d : Dev) : (noteCanError c k dataPhase d).can = d.can := by
  cases k <;> rfl

theorem noteCanError_counts (k : CanErrorKind) (dataPhase : Bool) (d : Dev) :
    cfg (noteCanError c k dataPhase d) (canIdx c 2) (errorCounter k) = min 0xFFFFFFFF (cfg d (canIdx c 2) (errorCounter k) + 1) := by
  have hmem := errorCounter_mem k
  have hlt : errorCounter k < 256 := by cases k <;> decide
  rw [noteCanError_eq]
  exact ((errorShown_move c k dataPhase d).counter (by simp) hlt (by simp)).trans (bump_busCounter c (by cases k <;> decide) d)

/-- What a protocol exception leaves of a controller's record. -/
theorem protocolException_leaves (d : Dev) : BusMove c [0x0F] d (protocolException c d) ∧
    (∃ e, (protocolException c d).can[c] = { d.can[c] with exceptionSecond := e }) ∧
    cfg (protocolException c d) (canIdx c 2) 0x0F = min 0xFFFFFFFF (cfg d (canIdx c 2) 0x0F + 1) := by
  have hcount := bump_busCounter c (sub := 0x0F) (by decide) d
  have hmove : BusMove c [0x0F] d (bump (canIdx c 2) 0x0F d) := bump_move_bus (by decide) d
  have hctl := bump_ctl (canIdx c 2) 0x0F d c
  unfold protocolException
  dsimp only
  generalize bump (canIdx c 2) 0x0F d = e at *
  by_cases h : d.can[c].exceptionSecond = some (d.now / sNs)
  · rw [if_pos h]
    exact ⟨hmove, ⟨d.can[c].exceptionSecond, hctl⟩, hcount⟩
  · rw [if_neg h]
    have hrest : BusMove c [] e (raise evProtocol c.val (onCan c (fun t => { t with exceptionSecond := some (d.now / sNs) }) e)) :=
      (onCan_move _ _).trans (raise_move_bus _ _ _)
    refine ⟨hmove.trans (hrest.mono (by simp)), ⟨some (d.now / sNs), ?_⟩, (hrest.counter (by simp) (by decide) (by simp)).trans hcount⟩
    rw [raise_ctl, onCan_self, hctl]

/-! ### States that time and detection change (R296, R297) -/

theorem integration_completes (hst : s.dev.can[c].state = .integrating) : Completes (.integrationComplete c) s fun d =>
    d.can[c] = { s.dev.can[c] with state := .errorActive, stb := false } ∧ ballLevel d (.canStb c) = some .low ∧
      Framed [.can, .ints, .out] s.found d := by
  have hrun : exec (.integrationComplete c) s = s.does fun d => setCanState c .errorActive d := by
    show execIntegrationComplete c s = _
    unfold execIntegrationComplete
    exact does_congr (if_pos hst)
  have hctl : (setCanState c .errorActive s.found).can[c] = { s.dev.can[c] with state := .errorActive, stb := false } := by
    have hne : s.dev.can[c].state ≠ .errorActive := by rw [hst]; decide
    rw [setCanState_ctl]
    refine (if_neg hne).trans ?_
    rw [show s.found.can = s.dev.can from rfl]
    generalize s.dev.can[c] = t
    simp
  refine completes_of_exec hrun ⟨hctl, ?_, setCanState_framed _ _ _ (by decide) (.refl _ _)⟩
  show some (driveOf (setCanState c .errorActive s.found).can[c].stb) = some .low
  rw [hctl]
  rfl

theorem recovery_completes (hst : s.dev.can[c].state = .recovering) : Completes (.busOffRecoveryComplete c) s fun d =>
    d.can[c] = { s.dev.can[c] with state := .errorActive, stb := false, tec := 0, recv := 0, recoveryAsked := false } := by
  have hrun : exec (.busOffRecoveryComplete c) s = s.does fun d => raise evBusOn c.val (setCanState c .errorActive (onCan c (fun x => { x with
      tec := 0, recv := 0, recoveryAsked := false }) d)) := by
    show execBusOffRecoveryComplete c s = _
    unfold execBusOffRecoveryComplete
    exact does_congr (if_pos hst)
  refine completes_of_exec hrun ?_
  rw [raise_ctl, setCanState_ctl, onCan_self, show s.found.can = s.dev.can from rfl]
  generalize s.dev.can[c] = t at *
  unfold CanCtl.enters
  rw [if_neg (by rw [hst]; decide)]
  simp

theorem holdOff_completes {m : Nat} (hst : s.dev.can[c].state = .busOff) (hm : s.dev.can[c].holdOffEnd = some m) :
    Completes (.busOffHoldOffEnd c) s fun d => d.now = max s.dev.now m ∧ d.can[c] = { s.dev.can[c] with
      holdOffEnd := none
      state := if cfg s.dev (canIdx c 0) 0x0E = 0 ∨ s.dev.can[c].recoveryAsked = true then .recovering else .busOff
      stb := if cfg s.dev (canIdx c 0) 0x0E = 0 ∨ s.dev.can[c].recoveryAsked = true then false else s.dev.can[c].stb } := by
  have hrun : exec (.busOffHoldOffEnd c) s = s.does fun d =>
      if cfg d (canIdx c 0) 0x0E = 0 || d.can[c].recoveryAsked then
        setCanState c .recovering (onCan c (fun x => { x with holdOffEnd := none }) (arrive m d))
      else onCan c (fun x => { x with holdOffEnd := none }) (arrive m d) := by
    show execBusOffHoldOffEnd c s = _
    unfold execBusOffHoldOffEnd
    refine does_congr ?_
    have hst : s.found.can[c].state = .busOff := hst
    have hm : s.found.can[c].holdOffEnd = some m := hm
    dsimp only
    rw [hst, hm]
  have hctl : (onCan c (fun x => { x with holdOffEnd := none }) (arrive m s.found)).can[c] = { s.dev.can[c] with holdOffEnd := none } := by
    rw [onCan_self, arrive_can]
    rfl
  have hnow : (onCan c (fun x => { x with holdOffEnd := none }) (arrive m s.found)).now = max s.dev.now m := arrive_now m s.found
  refine completes_of_exec hrun ?_
  rw [show cfg s.found (canIdx c 0) 0x0E = cfg s.dev (canIdx c 0) 0x0E from rfl, show s.found.can = s.dev.can from rfl]
  generalize onCan c (fun x => { x with holdOffEnd := none }) (arrive m s.found) = e at *
  by_cases h : cfg s.dev (canIdx c 0) 0x0E = 0 ∨ s.dev.can[c].recoveryAsked = true
  · rw [if_pos (by rcases h with h | h <;> rw [h] <;> simp), if_pos h, if_pos h, setCanState_ctl, hctl]
    refine ⟨(setCanState_move (l := []) _ e).clock.trans hnow, ?_⟩
    generalize s.dev.can[c] = t at *
    unfold CanCtl.enters
    rw [if_neg (by rw [hst]; decide)]
    simp
  · rw [if_neg (by simpa [Bool.or_eq_true] using h), if_neg h, if_neg h, hctl]
    refine ⟨hnow, ?_⟩
    generalize s.dev.can[c] = t at *
    rw [← hst]

/-! ### Rate detection (R296) -/

/-- A frame while the rate is detected has been counted. -/
def frameSeen (c : CanId) (d : Dev) : Dev := countEv 0x020 c.val 0 1 (bump (canIdx c 2) 1 d)

theorem frameSeen_move (d : Dev) : BusMove c [1] d (frameSeen c d) := (bump_move_bus (by decide) d).trans (countEv_move _ _ _ _ _)

theorem frameSeen_ctl (d : Dev) (k : CanId) : (frameSeen c d).can[k] = d.can[k] := rfl

theorem frameSeen_counts (d : Dev) : cfg (frameSeen c d) (canIdx c 2) 1 = min 0xFFFFFFFF (cfg d (canIdx c 2) 1 + 1) :=
  bump_busCounter c (by decide) d

/-- The frame is neither of a format that the controller does not take nor a protocol exception. -/
def FrameHeard (d : Dev) (c : CanId) (f : CanFrame) : Prop := ¬ (f.fdf = true ∧ (cfg d (canIdx c 0) 2 = 0 ∨ f.res = true))

theorem FrameHeard.tests {d : Dev} {f : CanFrame} (h : FrameHeard d c f) :
    (f.fdf && decide (cfg d (canIdx c 0) 2 = 0)) = false ∧ (f.fdf && f.res) = false := by
  unfold FrameHeard at h
  cases hf : f.fdf
  · simp
  · simp only [hf, true_and, not_or] at h
    simpa using h

theorem exec_frame_detecting {f : CanFrame} (hst : s.dev.can[c].state = .detecting) (hf : FrameHeard s.dev c f) :
    exec (.canFrameReceived c f) s = s.does fun d =>
      if cfg s.dev (canIdx c 3) 3 ≤ s.dev.can[c].candidateFrames + 1 then rateDetected c (frameSeen c d)
      else onCan c (fun x => { x with candidateFrames := s.dev.can[c].candidateFrames + 1 }) (frameSeen c d) := by
  obtain ⟨h1, h2⟩ := hf.tests
  have h1 : (f.fdf && decide (cfg s.found (canIdx c 0) 2 = 0)) = false := h1
  show execCanFrameReceived c f s = _
  unfold execCanFrameReceived
  refine does_congr ?_
  dsimp only
  rw [if_neg (by rw [h1]; decide), if_neg (by rw [h2]; decide)]
  exact if_pos hst

theorem detecting_counts {f : CanFrame} (hst : s.dev.can[c].state = .detecting) (hf : FrameHeard s.dev c f)
    (hn : s.dev.can[c].candidateFrames + 1 < cfg s.dev (canIdx c 3) 3) : Completes (.canFrameReceived c f) s fun d =>
      cfg d (canIdx c 2) 1 = min 0xFFFFFFFF (cfg s.dev (canIdx c 2) 1 + 1) ∧
        d.can[c] = { s.dev.can[c] with candidateFrames := s.dev.can[c].candidateFrames + 1 } := by
  refine completes_of_exec (exec_frame_detecting hst hf) ?_
  rw [if_neg (Nat.not_le.2 hn), onCan_self, frameSeen_ctl]
  exact ⟨frameSeen_counts s.found, rfl⟩

theorem detecting_detects {f : CanFrame} (hst : s.dev.can[c].state = .detecting) (hf : FrameHeard s.dev c f)
    (hn : cfg s.dev (canIdx c 3) 3 ≤ s.dev.can[c].candidateFrames + 1) : Completes (.canFrameReceived c f) s fun d =>
      cfg d (canIdx c 2) 1 = min 0xFFFFFFFF (cfg s.dev (canIdx c 2) 1 + 1) ∧ d.can[c] = { s.dev.can[c] with
        state := .errorActive
        stb := false
        timing := some (candidateTiming s.dev c s.dev.can[c].candidate)
        adopted := decide (cfg s.dev (canIdx c 3) 4 = 1)
        dwellEnd := none
        candidateFrames := 0 } := by
  refine completes_of_exec (exec_frame_detecting hst hf) ?_
  have hm := frameSeen_move (c := c) s.found
  have hcount := frameSeen_counts (c := c) s.found
  have hctl : (frameSeen c s.found).can[c] = s.dev.can[c] := frameSeen_ctl s.found c
  have hreg : (frameSeen c s.found).dict.reg (canIdx c 3) 1 = s.dev.dict.reg (canIdx c 3) 1 :=
    DictS.reg_setReg_other _ _ _ _ _ _ (canIdx_key_ne c (by decide) (by decide) (by decide))
  have htiming : candidateTiming (frameSeen c s.found) c s.dev.can[c].candidate = candidateTiming s.dev c s.dev.can[c].candidate := by
    unfold candidateTiming cfgBytes cfgB
    rw [hreg, hm.setting (by decide) (by decide)]
    rfl
  have hadopt : cfg (frameSeen c s.found) (canIdx c 3) 4 = cfg s.dev (canIdx c 3) 4 :=
    hm.cfg_can (by decide) (by decide) (by decide) (by decide) (by decide) (by decide)
  rw [if_pos hn]
  unfold rateDetected
  dsimp only
  rw [raise_ctl, setCanState_ctl, show ∀ e : Dev, ∀ v, (setReg (canIdx c 3) 5 v e).can = e.can from fun _ _ => rfl, onCan_self, hctl, htiming, hadopt]
  constructor
  · have hrest : BusMove c [] (frameSeen c s.found) (raise evRate c.val (setCanState c .errorActive (setReg (canIdx c 3) 5
        (bitRate (candidateTiming s.dev c s.dev.can[c].candidate)) (onCan c (fun x => { x with
          timing := some (candidateTiming s.dev c s.dev.can[c].candidate), adopted := cfg s.dev (canIdx c 3) 4 = 1, dwellEnd := none,
          candidateFrames := 0 }) (frameSeen c s.found))))) :=
      (onCan_move _ _).trans ((setReg_move _ (by simp [busRegs]) _).trans ((setCanState_move _ _).trans (raise_move_bus _ _ _)))
    exact (hrest.counter (by simp) (by decide) (by simp)).trans hcount
  · generalize s.dev.can[c] = t at *
    unfold CanCtl.enters
    rw [if_neg (by rw [hst]; decide)]
    simp

theorem exec_error {e : CanError} (hon : s.dev.can[c].state = .detecting ∨ onBus s.dev.can[c] = true) :
    exec (.canReceiveError c e) s = s.does fun d =>
      if errorKind s.dev c e.kind = .protocolException then protocolException c d
      else if s.dev.can[c].state = .detecting then
        onCan c (fun x => { x with candidateFrames := 0 }) (noteCanError c (errorKind s.dev c e.kind) e.dataPhase d)
      else if canSends s.dev.can[c] then
        gwSweep (judgeErrors c (onCan c (fun x => { x with recv := min 255 (x.recv + (if e.dominant then 9 else 1)) })
          (noteCanError c (errorKind s.dev c e.kind) e.dataPhase d)))
      else noteCanError c (errorKind s.dev c e.kind) e.dataPhase d := by
  show execCanReceiveError c e s = _
  unfold execCanReceiveError
  refine does_congr ?_
  have hon : ¬ ((decide (s.found.can[c].state ≠ .detecting) && !onBus s.found.can[c]) = true) := by
    rcases hon with h | h
    · rw [show s.found.can[c].state = .detecting from h]
      simp
    · rw [show onBus s.found.can[c] = true from h]
      simp
  unfold receiveError
  dsimp only
  rw [if_neg hon]
  rfl

theorem detecting_error {e : CanError} (hst : s.dev.can[c].state = .detecting) (hk : errorKind s.dev c e.kind ≠ .protocolException) :
    Completes (.canReceiveError c e) s fun d => cfg d (canIdx c 2) (errorCounter (errorKind s.dev c e.kind)) =
        min 0xFFFFFFFF (cfg s.dev (canIdx c 2) (errorCounter (errorKind s.dev c e.kind)) + 1) ∧
      d.can[c] = { s.dev.can[c] with candidateFrames := 0 } := by
  refine completes_of_exec (exec_error (.inl hst)) ?_
  rw [if_neg hk, if_pos hst, onCan_self, noteCanError_can]
  exact ⟨noteCanError_counts _ _ s.found, rfl⟩

theorem noRate_default (c : CanId) : odDefault (odKey (canIdx c 3) 6) = .num 0 := by
  revert c
  decide +kernel

theorem dwell_completes {m : Nat} (hst : s.dev.can[c].state = .detecting) (hm : s.dev.can[c].dwellEnd = some m) :
    Completes (.candidateDwellEnd c) s fun d => d.now = max s.dev.now m ∧
      d.can[c] = { s.dev.can[c] with
        candidate := if candidates s.dev c ≤ s.dev.can[c].candidate + 1 then 0 else s.dev.can[c].candidate + 1
        candidateFrames := 0
        dwellEnd := some (d.now + cfg s.dev (canIdx c 3) 2 * msNs) } ∧
      (candidates s.dev c ≤ s.dev.can[c].candidate + 1 →
        cfg d (canIdx c 3) 6 = min 0xFFFF (cfg s.dev (canIdx c 3) 6 + 1)) := by
  have hrun : exec (.candidateDwellEnd c) s = s.does fun d =>
      if candidates s.dev c ≤ s.dev.can[c].candidate + 1 then
        raise evNoRate c.val (setReg (canIdx c 3) 6 (min 0xFFFF (cfg s.dev (canIdx c 3) 6 + 1)) (onCan c (fun x => { x with
          candidate := if candidates s.dev c ≤ s.dev.can[c].candidate + 1 then 0 else s.dev.can[c].candidate + 1, candidateFrames := 0
          dwellEnd := some ((arrive m d).now + cfg s.dev (canIdx c 3) 2 * msNs) }) (arrive m d)))
      else onCan c (fun x => { x with
          candidate := if candidates s.dev c ≤ s.dev.can[c].candidate + 1 then 0 else s.dev.can[c].candidate + 1, candidateFrames := 0
          dwellEnd := some ((arrive m d).now + cfg s.dev (canIdx c 3) 2 * msNs) }) (arrive m d) := by
    show execCandidateDwellEnd c s = _
    unfold execCandidateDwellEnd
    refine does_congr ?_
    have hst : s.found.can[c].state = .detecting := hst
    have hm : s.found.can[c].dwellEnd = some m := hm
    dsimp only
    rw [hst, hm]
    simp only [decide_eq_true_eq]
    rfl
  refine completes_of_exec hrun ?_
  have hnow : (arrive m s.found).now = max s.dev.now m := arrive_now m s.found
  have hcan : (arrive m s.found).can[c] = s.dev.can[c] := congrArg (fun v : Vector CanCtl 8 => v[c]) (arrive_can _ _)
  rw [hnow]
  by_cases hw : candidates s.dev c ≤ s.dev.can[c].candidate + 1
  · simp only [if_pos hw]
    refine ⟨(raise_now _ _ _).trans hnow, ?_, fun _ => ?_⟩
    · rw [raise_ctl, raise_now, setReg_now, show ∀ e : Dev, ∀ v, (setReg (canIdx c 3) 6 v e).can = e.can from fun _ _ => rfl, onCan_self, hcan]
      rw [show ∀ f, (onCan c f (arrive m s.found)).now = max s.dev.now m from fun _ => hnow]
    · have hkeep : ∀ e : Dev, cfg (raise evNoRate c.val e) (canIdx c 3) 6 = cfg e (canIdx c 3) 6 := fun e =>
        (raise_regs _ _ e).cfg _ _ fun r hr => by
          have := eventCounters_bus r hr
          have := (canIdx_bounds c (k := 3) (by decide)).2.1
          unfold odKey at *
          omega
      rw [hkeep, cfg_setReg_self]
      rw [noRate_default]
      intro e
      injection e with e
      omega
  · simp only [if_neg hw]
    refine ⟨hnow, ?_, fun h => absurd h hw⟩
    rw [onCan_self, hcan, show ∀ f, (onCan c f (arrive m s.found)).now = max s.dev.now m from fun _ => hnow]

/-! ### Errors and exceptions on the bus (R298, R299) -/

section onTheBus

theorem onBus_not_detecting {t : CanCtl} (hb : onBus t = true) : t.state ≠ .detecting := by
  rcases onBus_cases hb with h | h <;> rw [h] <;> decide

theorem protocolException_only (d : Dev) : ExceptionOnly c d (protocolException c d) := by
  obtain ⟨-, ⟨e, he⟩, hcount⟩ := protocolException_leaves (c := c) d
  rw [ExceptionOnly, he]
  exact ⟨hcount, rfl, rfl, rfl, rfl⟩

theorem error_exception (hb : onBus s.dev.can[c] = true) {e : CanError} (hk : errorKind s.dev c e.kind = .protocolException) :
    Completes (.canReceiveError c e) s (ExceptionOnly c s.dev) := by
  refine completes_of_exec (exec_error (.inr hb)) ?_
  rw [if_pos hk]
  exact protocolException_only s.found

theorem frame_exception (hb : onBus s.dev.can[c] = true) {f : CanFrame} (hfd : f.fdf = true) (hres : f.res = true) (hfmt : cfg s.dev (canIdx c 0) 2 ≠ 0)
    (hex : cfgB s.dev (canIdx c 0) 0x10 = true) : Completes (.canFrameReceived c f) s (ExceptionOnly c s.dev) := by
  have hrun : exec (.canFrameReceived c f) s = s.does fun d => protocolException c d := by
    show execCanFrameReceived c f s = _
    unfold execCanFrameReceived
    refine does_congr ?_
    have hfmt : cfg s.found (canIdx c 0) 2 ≠ 0 := hfmt
    have hex : cfgB s.found (canIdx c 0) 0x10 = true := hex
    have hb : onBus s.found.can[c] = true := hb
    have hkind : errorKind s.found c .protocolException = .protocolException := by simp [errorKind, hex]
    dsimp only
    rw [if_neg (by rw [decide_eq_false hfmt, Bool.and_false]; decide), hfd, hres, Bool.and_self, if_pos rfl]
    unfold receiveError
    dsimp only
    rw [if_neg (by rw [hb]; simp), hkind, if_pos rfl]
  exact completes_of_exec hrun (protocolException_only s.found)

theorem error_silent (hb : onBus s.dev.can[c] = true) {e : CanError} (hk : errorKind s.dev c e.kind ≠ .protocolException) (hs : canSends s.dev.can[c] = false) :
    Completes (.canReceiveError c e) s fun d => cfg d (canIdx c 2) (errorCounter (errorKind s.dev c e.kind)) =
        min 0xFFFFFFFF (cfg s.dev (canIdx c 2) (errorCounter (errorKind s.dev c e.kind)) + 1) ∧ d.can = s.dev.can := by
  refine completes_of_exec (exec_error (.inr hb)) ?_
  rw [if_neg hk, if_neg (onBus_not_detecting hb), if_neg (by rw [hs]; decide)]
  exact ⟨noteCanError_counts _ _ s.found, noteCanError_can _ _ s.found⟩

theorem errorCounter_apart (k : CanErrorKind) : errorCounter k < 256 ∧ errorCounter k ∉ [0x0C, 0x0D] := by cases k <;> decide

/-- A controller that has entered the state its counters ask for. -/
theorem CanCtl.enters_judged (t : CanCtl) : t.enters t.judged =
    { t with state := (t.enters t.judged).state, stb := if (t.enters t.judged).state = t.state then t.stb else false } ∧
      (t.enters t.judged).state = t.judged := by
  unfold CanCtl.enters
  by_cases h : t.state = t.judged
  · rw [if_pos h]
    exact ⟨by rw [if_pos rfl], h⟩
  · have hoff : t.judged ≠ .off ∧ t.judged ≠ .busOff := by
      unfold CanCtl.judged
      split <;> decide
    simp [if_neg h, Ne.symm h, hoff.1, hoff.2]

theorem error_counts (hb : onBus s.dev.can[c] = true) (hq : GatewayQuiet s.dev) (ht : s.dev.can[c].tec ≤ 255) {e : CanError} (hk : errorKind s.dev c e.kind ≠ .protocolException) (hs : canSends s.dev.can[c] = true) :
    Completes (.canReceiveError c e) s fun d => cfg d (canIdx c 2) (errorCounter (errorKind s.dev c e.kind)) =
        min 0xFFFFFFFF (cfg s.dev (canIdx c 2) (errorCounter (errorKind s.dev c e.kind)) + 1) ∧
      d.can[c].state = (if 127 < s.dev.can[c].tec ∨ 127 < min 255 (s.dev.can[c].recv + if e.dominant then 9 else 1) then .errorPassive
        else .errorActive) ∧
      d.can[c] = { s.dev.can[c] with
        recv := min 255 (s.dev.can[c].recv + if e.dominant then 9 else 1)
        state := d.can[c].state
        stb := if d.can[c].state = s.dev.can[c].state then s.dev.can[c].stb else false } := by
  refine completes_of_exec (exec_error (.inr hb)) ?_
  rw [if_neg hk, if_neg (onBus_not_detecting hb), if_pos hs]
  obtain ⟨hlt, hapart⟩ := errorCounter_apart (errorKind s.dev c e.kind)
  have hcount := noteCanError_counts (c := c) (errorKind s.dev c e.kind) e.dataPhase s.found
  have hmove := noteCanError_move (c := c) (errorKind s.dev c e.kind) e.dataPhase s.found
  have hcan : (noteCanError c (errorKind s.dev c e.kind) e.dataPhase s.found).can[c] = s.dev.can[c] :=
    congrArg (fun v : Vector CanCtl 8 => v[c]) (noteCanError_can _ _ s.found)
  generalize noteCanError c (errorKind s.dev c e.kind) e.dataPhase s.found = n at *
  generalize (if e.dominant = true then 9 else 1) = amount at *
  have hset : (onCan c (fun x => { x with recv := min 255 (x.recv + amount) }) n).can[c] =
      { s.dev.can[c] with recv := min 255 (s.dev.can[c].recv + amount) } := by rw [onCan_self, hcan]
  have hsetmove : BusMove c [] n (onCan c (fun x => { x with recv := min 255 (x.recv + amount) }) n) := onCan_move _ n
  generalize onCan c (fun x => { x with recv := min 255 (x.recv + amount) }) n = m at *
  have hj := judgeErrors_ctl (c := c) (d := m) (by rw [hset]; exact hb) (by rw [hset]; exact ht)
  have hjm := judgeErrors_move (c := c) m
  obtain ⟨heq, hstate⟩ := CanCtl.enters_judged m.can[c]
  have hquiet : GatewayQuiet (judgeErrors c m) := GatewayQuiet.of_move (a := s.found) hq (hmove.join (hsetmove.join hjm)) fun o _ => objOf_of_ctl (by rw [hj, heq, hset]; rfl) o
  rw [gwSweep_quiet hquiet]
  refine ⟨?_, ?_, ?_⟩
  · rw [hjm.counter (by decide) hlt hapart, hsetmove.counter (by simp) hlt (by simp)]
    exact hcount
  · rw [hj, hstate, CanCtl.judged, hset]
  · rw [hj, heq, hset]

/-! ### Frames received (R302, R306, R308) -/

/-- A frame on the bus: counted, the bus not alone, no acknowledgement missing. -/
def frameNoted (c : CanId) (d : Dev) : Dev :=
  countEv 0x020 c.val 0 1 (bump (canIdx c 2) 1 (setAlone c false (onCan c (fun x => { x with ackErrors := 0 }) d)))

/-- A frame on the bus with what it does to the receive error counter. -/
def frameJudged (c : CanId) (d : Dev) : Dev :=
  if canSends d.can[c] then judgeErrors c (recAfterFrame c (frameNoted c d)) else frameNoted c d

theorem exec_frame_onBus (hb : onBus s.dev.can[c] = true) {f : CanFrame} (hf : FrameHeard s.dev c f) :
    exec (.canFrameReceived c f) s = s.does fun d => gwSweep (storeFrame c f (frameJudged c d)) := by
  obtain ⟨h1, h2⟩ := hf.tests
  have h1 : (f.fdf && decide (cfg s.found (canIdx c 0) 2 = 0)) = false := h1
  have hb : onBus s.found.can[c] = true := hb
  show execCanFrameReceived c f s = _
  unfold execCanFrameReceived
  refine does_congr ?_
  dsimp only
  rw [if_neg (by rw [h1]; decide), if_neg (by rw [h2]; decide), if_neg (onBus_not_detecting hb), if_neg (by rw [hb]; decide)]
  rfl

theorem frameNoted_move (d : Dev) : BusMove c [1] d (frameNoted c d) :=
  (onCan_move _ d).trans ((setAlone_move _ _).trans ((bump_move_bus (by decide) _).trans (countEv_move _ _ _ _ _)))

theorem frameNoted_ctl (d : Dev) : (frameNoted c d).can[c] = { d.can[c] with ackErrors := 0, alone := false } := by
  refine (setAlone_ctl c false _).trans ?_
  rw [onCan_self]

theorem frameNoted_counts (d : Dev) : cfg (frameNoted c d) (canIdx c 2) 1 = min 0xFFFFFFFF (cfg d (canIdx c 2) 1 + 1) := by
  have hm : BusMove c [] d (setAlone c false (onCan c (fun x => { x with ackErrors := 0 }) d)) := (onCan_move _ d).trans (setAlone_move _ _)
  refine (bump_busCounter c (by decide) _).trans ?_
  rw [hm.counter (by simp) (by decide) (by simp)]

theorem recAfterFrame_ctl (d : Dev) : ∃ r, (recAfterFrame c d).can[c] = { d.can[c] with recv := r } ∧
    if 127 < d.can[c].recv then 119 ≤ r ∧ r ≤ 127 else r = d.can[c].recv - 1 := by
  unfold recAfterFrame
  dsimp only
  by_cases h : 127 < d.can[c].recv
  · rw [if_pos h, onCan_self]
    exact ⟨_, rfl, (if_pos h).symm ▸ ⟨by omega, by omega⟩⟩
  · rw [if_neg h, onCan_self]
    exact ⟨_, rfl, (if_neg h).symm ▸ rfl⟩

/-- What a frame on the bus does to its controller (R298, R308). -/
structure FrameTaken (c : CanId) (a d : Dev) : Prop where
  move : BusMove c [1, 0x0C, 0x0D] a d
  counted : cfg d (canIdx c 2) 1 = min 0xFFFFFFFF (cfg a (canIdx c 2) 1 + 1)
  alone : d.can[c].alone = false
  acks : d.can[c].ackErrors = 0
  onBus : onBus d.can[c] = true
  tec : d.can[c].tec = a.can[c].tec
  silent : canSends a.can[c] = false → d.can[c].recv = a.can[c].recv
  recv : canSends a.can[c] = true → if 127 < a.can[c].recv then 119 ≤ d.can[c].recv ∧ d.can[c].recv ≤ 127 else d.can[c].recv = a.can[c].recv - 1
  objs : d.can[c].objs = a.can[c].objs

theorem frameJudged_taken (hb : onBus s.dev.can[c] = true) (ht : s.dev.can[c].tec ≤ 255) : FrameTaken c s.dev (frameJudged c s.found) := by
  have hm := frameNoted_move (c := c) s.found
  have hctl : (frameNoted c s.found).can[c] = { s.dev.can[c] with ackErrors := 0, alone := false } := frameNoted_ctl s.found
  have hcount : cfg (frameNoted c s.found) (canIdx c 2) 1 = min 0xFFFFFFFF (cfg s.dev (canIdx c 2) 1 + 1) := frameNoted_counts s.found
  have hm : BusMove c [1] s.dev (frameNoted c s.found) := ⟨hm.regs, hm.mem, hm.clock, hm.time, hm.others⟩
  unfold frameJudged
  rw [show s.found.can = s.dev.can from rfl]
  generalize frameNoted c s.found = n at *
  by_cases hs : canSends s.dev.can[c] = true
  · rw [if_pos hs]
    obtain ⟨r, hrctl, hr⟩ := recAfterFrame_ctl (c := c) n
    have hrm := recAfterFrame_move (c := c) (l := []) n
    rw [hctl] at hrctl hr
    generalize recAfterFrame c n = e at *
    have hj := judgeErrors_ctl (c := c) (d := e) (by rw [hrctl]; exact hb) (by rw [hrctl]; exact ht)
    have hjm := judgeErrors_move (c := c) e
    obtain ⟨heq, -⟩ := CanCtl.enters_judged e.can[c]
    have hbus := CanCtl.enters_judged_onBus e.can[c]
    rw [← hj] at hbus
    rw [heq, hrctl] at hj
    refine ⟨hm.join (hrm.join hjm), ?_, by rw [hj], by rw [hj], hbus, by rw [hj],
      fun h => absurd (h.symm.trans hs) (by decide), fun _ => by rw [hj]; exact hr, by rw [hj]⟩
    rw [hjm.counter (by decide) (by decide) (by decide), hrm.counter (by simp) (by decide) (by simp), hcount]
  · rw [if_neg hs]
    exact ⟨hm.mono (by simp), hcount, by rw [hctl], by rw [hctl], by rw [hctl]; exact hb, by rw [hctl], fun _ => by rw [hctl],
      fun h => absurd h hs, by rw [hctl]⟩

theorem heldFrame_of_move {l : List Nat} {a b : Dev} (h : BusMove c l a b) (f : CanFrame) (st : Nat) : heldFrame b f st = heldFrame a f st := by
  unfold heldFrame trainTime
  rw [h.time]

/-- The objects that a frame matches, and the one that takes it. -/
theorem storeFrame_matches {a d : Dev} (h : FrameTaken c a d) (f : CanFrame) :
    (List.range 128).filter (fun o => (objCfg d c o).admits f) = (List.range 128).filter (fun o => (objCfg a c o).admits f) ∧
      (fun o => decide ((objOf d c o).status = 0) || (isHeld (objOf d c o).status && (objCfg d c o).overwrite)) =
        fun o => decide ((objOf a c o).status = 0) || (isHeld (objOf a c o).status && (objCfg a c o).overwrite) := by
  have hobj := objOf_of_ctl (k := c) h.objs
  have hcfg := h.move.objCfg c
  exact ⟨by simp only [hcfg], funext fun o => by rw [hobj, hcfg]⟩

/-- A counter of the controller rises on a device that a frame has been taken on. -/
theorem FrameTaken.counter {a d : Dev} (h : FrameTaken c a d) {sub : Nat} (hs : sub ∈ [3, 4, 5]) :
    cfg (bump (canIdx c 2) sub d) (canIdx c 2) sub = min 0xFFFFFFFF (cfg a (canIdx c 2) sub + 1) := by
  simp only [List.mem_cons, List.not_mem_nil, or_false] at hs
  rcases hs with rfl | rfl | rfl <;>
    rw [bump_busCounter c (by decide), h.move.counter (by decide) (by decide) (by decide)]

/-- What follows a frame leaves what it did to the controller. -/
theorem FrameTaken.after {a d e : Dev} (h : FrameTaken c a d) {l : List Nat} (hm : BusMove c l d e) (hl : ∀ k ∈ l, k ∈ [3, 4, 5])
    {objs : List (Nat × CanObj)} (hctl : e.can[c] = { d.can[c] with objs := objs }) :
    cfg e (canIdx c 2) 1 = min 0xFFFFFFFF (cfg a (canIdx c 2) 1 + 1) ∧ e.can[c].alone = false ∧ e.can[c].ackErrors = 0 ∧
      Machine.onBus e.can[c] = true ∧ e.can[c].tec = a.can[c].tec ∧ (canSends a.can[c] = false → e.can[c].recv = a.can[c].recv) ∧
      (canSends a.can[c] = true → if 127 < a.can[c].recv then 119 ≤ e.can[c].recv ∧ e.can[c].recv ≤ 127 else e.can[c].recv = a.can[c].recv - 1) := by
  have hl' : ∀ k ∈ l, k < 256 ∧ k ≠ 1 := fun k hk => by
    have := hl k hk
    simp only [List.mem_cons, List.not_mem_nil, or_false] at this
    omega
  rw [hm.counter (fun k hk => (hl' k hk).1) (by decide) (fun hk => (hl' 1 hk).2 rfl), hctl]
  exact ⟨h.counted, h.alone, h.acks, h.onBus, h.tec, h.silent, h.recv⟩

theorem frame_stored (hb : onBus s.dev.can[c] = true) (hq : GatewayQuiet s.dev) (ht : s.dev.can[c].tec ≤ 255) {f : CanFrame} {o : Nat} (hf : FrameHeard s.dev c f)
    (htakes : ((List.range 128).filter fun o => (objCfg s.dev c o).admits f).find? (fun o => (objOf s.dev c o).status = 0 ||
      (isHeld (objOf s.dev c o).status && (objCfg s.dev c o).overwrite)) = some o)
    (ho : (objCfg s.dev c o).owner = 1 ∨ (objCfg s.dev c o).owner = 0) :
    Completes (.canFrameReceived c f) s fun d => (cfg d (canIdx c 2) 1 = min 0xFFFFFFFF (cfg s.dev (canIdx c 2) 1 + 1) ∧
        d.can[c].alone = false ∧ d.can[c].ackErrors = 0 ∧ onBus d.can[c] = true ∧ d.can[c].tec = s.dev.can[c].tec ∧
        (canSends s.dev.can[c] = false → d.can[c].recv = s.dev.can[c].recv) ∧
        (canSends s.dev.can[c] = true → if 127 < s.dev.can[c].recv then 119 ≤ d.can[c].recv ∧ d.can[c].recv ≤ 127
          else d.can[c].recv = s.dev.can[c].recv - 1)) ∧
      (∀ k, k ≠ o → objOf d c k = objOf s.dev c k) ∧
      objOf d c o = heldFrame s.dev f (if isHeld (objOf s.dev c o).status then 2 else 1) ∧
      (isHeld (objOf s.dev c o).status = true → cfg d (canIdx c 2) 4 = min 0xFFFFFFFF (cfg s.dev (canIdx c 2) 4 + 1)) := by
  refine completes_of_exec (exec_frame_onBus hb hf) ?_
  have hj := frameJudged_taken hb ht
  generalize frameJudged c s.found = j at *
  obtain ⟨hmatch, htest⟩ := storeFrame_matches hj f
  have hobj := objOf_of_ctl (k := c) hj.objs
  have hcfg := hj.move.objCfg c
  generalize hheld : isHeld (objOf s.dev c o).status = held at *
  generalize hx : heldFrame s.dev f (if held then 2 else 1) = x
  have hstore : storeFrame c f j = attend c o (onlyIf held (bump (canIdx c 2) 4) (setObj c o x j)) := by
    unfold storeFrame
    dsimp only
    rw [hmatch, htest, htakes]
    dsimp only
    rw [hcfg, if_neg (by rcases ho with h | h <;> rw [h] <;> decide), hobj, hheld, heldFrame_of_move hj.move, hx]
  have hblank : x ≠ CanObj.blank := ne_blank_of_status (by
    rw [← hx]
    show (if held = true then 2 else 1) ≠ 0
    split <;> decide)
  have hset := setObj_move (c := c) (l := [4]) o x j
  have hcount : BusMove c [4] (setObj c o x j) (onlyIf held (bump (canIdx c 2) 4) (setObj c o x j)) :=
    .ite (bump_move_bus (by decide) _) (.refl _ _ _)
  have hatt := attend_move (c := c) (l := []) o (onlyIf held (bump (canIdx c 2) 4) (setObj c o x j))
  have hmove : BusMove c [4] j (storeFrame c f j) := hstore ▸ hset.trans (hcount.trans (hatt.mono (by simp)))
  have hctl : (storeFrame c f j).can[c] = (setObj c o x j).can[c] := by
    have hatt' : ∀ e : Dev, (attend c o e).can[c] = e.can[c] := fun e => by
      unfold attend onlyIf
      by_cases h : decide ((objCfg e c o).owner = 1) = true
      · rw [if_pos h, canInt_ctl]
      · rw [if_neg h]
    rw [hstore, hatt']
    cases held <;> rfl
  have hself : objOf (storeFrame c f j) c o = x := (objOf_of_ctl (congrArg CanCtl.objs hctl) o).trans (objOf_setObj_self c o hblank j)
  have hother : ∀ k, k ≠ o → objOf (storeFrame c f j) c k = objOf s.dev c k := fun k hk =>
    (objOf_of_ctl (congrArg CanCtl.objs hctl) k).trans ((objOf_setObj_ne c hk x j).trans (hobj k))
  have hquiet : GatewayQuiet (storeFrame c f j) := hq.of_move (hj.move.join hmove) fun k hk => hother k fun e => by
      subst e
      rcases ho with h | h <;> rw [h] at hk <;> exact absurd hk (by decide)
  rw [gwSweep_quiet hquiet]
  refine ⟨hj.after hmove (by simp) (hctl.trans (onCan_self _ _ _)), hother, hself, fun hh => ?_⟩
  subst hh
  rw [hstore, hatt.counter (by simp) (by decide) (by simp)]
  exact (hj.counter (sub := 4) (by decide))

theorem frame_untaken (hb : onBus s.dev.can[c] = true) (hq : GatewayQuiet s.dev) (ht : s.dev.can[c].tec ≤ 255) {f : CanFrame} (hf : FrameHeard s.dev c f)
    (htakes : ((List.range 128).filter fun o => (objCfg s.dev c o).admits f).find? (fun o => (objOf s.dev c o).status = 0 ||
      (isHeld (objOf s.dev c o).status && (objCfg s.dev c o).overwrite)) = none) :
    Completes (.canFrameReceived c f) s fun d => (cfg d (canIdx c 2) 1 = min 0xFFFFFFFF (cfg s.dev (canIdx c 2) 1 + 1) ∧
        d.can[c].alone = false ∧ d.can[c].ackErrors = 0 ∧ onBus d.can[c] = true ∧ d.can[c].tec = s.dev.can[c].tec ∧
        (canSends s.dev.can[c] = false → d.can[c].recv = s.dev.can[c].recv) ∧
        (canSends s.dev.can[c] = true → if 127 < s.dev.can[c].recv then 119 ≤ d.can[c].recv ∧ d.can[c].recv ≤ 127
          else d.can[c].recv = s.dev.can[c].recv - 1)) ∧
      d.can[c].objs = s.dev.can[c].objs ∧
      if ((List.range 128).filter fun o => (objCfg s.dev c o).admits f) = [] then
        cfg d (canIdx c 2) 3 = min 0xFFFFFFFF (cfg s.dev (canIdx c 2) 3 + 1)
      else cfg d (canIdx c 2) 5 = min 0xFFFFFFFF (cfg s.dev (canIdx c 2) 5 + 1) := by
  refine completes_of_exec (exec_frame_onBus hb hf) ?_
  have hj := frameJudged_taken hb ht
  generalize frameJudged c s.found = j at *
  obtain ⟨hmatch, htest⟩ := storeFrame_matches hj f
  have hstore : storeFrame c f j = bump (canIdx c 2) (if ((List.range 128).filter fun o => (objCfg s.dev c o).admits f).isEmpty then 3 else 5) j := by
    unfold storeFrame
    dsimp only
    rw [hmatch, htest, htakes]
  generalize ((List.range 128).filter fun o => (objCfg s.dev c o).admits f) = l at *
  have hsub : (if l.isEmpty = true then 3 else 5) ∈ [3, 4, 5] := by split <;> decide
  have hmove : BusMove c [3, 4, 5] j (bump (canIdx c 2) (if l.isEmpty = true then 3 else 5) j) := bump_move_bus hsub j
  have hcan := bump_ctl (canIdx c 2) (if l.isEmpty = true then 3 else 5) j c
  have hquiet : GatewayQuiet (bump (canIdx c 2) (if l.isEmpty = true then 3 else 5) j) := hq.of_move (hj.move.join hmove) fun o _ => objOf_of_ctl (by rw [hcan]; exact hj.objs) o
  rw [hstore, gwSweep_quiet hquiet]
  refine ⟨hj.after hmove (fun _ h => h) (objs := j.can[c].objs) hcan, (congrArg CanCtl.objs hcan).trans hj.objs, ?_⟩
  by_cases hl : l = []
  · rw [if_pos hl, hl]
    exact hj.counter (sub := 3) (by decide)
  · have hne : l.isEmpty = false := by simpa using hl
    rw [if_neg hl, hne]
    exact hj.counter (sub := 5) (by decide)

/-! ### Attempts (R304 to R308) -/

theorem attempt_starts {o : Nat} (hb : onBus s.dev.can[c] = true) (hs : canSends s.dev.can[c] = true) (hsend : s.dev.can[c].sending = none)
    (hleave : s.dev.can[c].leaving = none) (hnext : nextToSend s.dev c = some o) : Completes (.attemptStart c) s fun d =>
      objOf d c o = { objOf s.dev c o with status := 0x11 } ∧ (∀ k, k ≠ o → objOf d c k = objOf s.dev c k) ∧
        d.can[c].sending = some o ∧ d.can[c].txd = false ∧ d.can[c].sofAt = trainTime s.dev ∧ d.out = [.canStart c.val o] := by
  have hrun : exec (.attemptStart c) s = s.does fun d => emit (.canStart c.val o) (onCan c (fun x => { x with
      sending := some o, txd := false, sofAt := trainTime s.dev, sofUnsure := !s.dev.time.state.sure, sofGen := s.dev.time.stepGen % 8 })
      (setObj c o { objOf s.dev c o with status := 0x11 } d)) := by
    show execAttemptStart c s = _
    unfold execAttemptStart
    refine does_congr ?_
    have hcond : (onBus s.found.can[c] && canSends s.found.can[c] && s.found.can[c].sending.isNone && s.found.can[c].leaving.isNone) = true := by
      show (onBus s.dev.can[c] && canSends s.dev.can[c] && s.dev.can[c].sending.isNone && s.dev.can[c].leaving.isNone) = true
      rw [hb, hs, hsend, hleave]
      rfl
    have hnext : nextToSend s.found c = some o := hnext
    dsimp only
    rw [if_pos hcond, hnext]
    rfl
  refine completes_of_exec hrun ⟨?_, fun k hk => ?_, ?_⟩
  · refine (objOf_of_ctl (a := setObj c o { objOf s.dev c o with status := 0x11 } s.found) ?_ o).trans
      (objOf_setObj_self c o (ne_blank_of_status (show (0x11 : Nat) ≠ 0 by decide)) s.found)
    show (onCan c _ _).can[c].objs = _
    rw [onCan_self]
  · refine (objOf_of_ctl (a := setObj c o { objOf s.dev c o with status := 0x11 } s.found) ?_ k).trans (objOf_setObj_ne c hk _ s.found)
    show (onCan c _ _).can[c].objs = _
    rw [onCan_self]
  · rw [show ∀ e : Dev, (emit (.canStart c.val o) e).can = e.can from fun _ => rfl, onCan_self]
    exact ⟨rfl, rfl, rfl, rfl⟩

/-- An object's attempt is on the bus, in a controller that stays in its mode. -/
structure Attempting (d : Dev) (c : CanId) (o : Nat) : Prop where
  sending : d.can[c].sending = some o
  stays : d.can[c].leaving = none
  kept : d.can[c].renewed = false
  owner : (objCfg d c o).owner ≠ 2
  status : (objOf d c o).status = 0x11

theorem attend_ctl (o : Nat) (d : Dev) : (attend c o d).can[c] = d.can[c] := by
  unfold attend onlyIf
  by_cases h : decide ((objCfg d c o).owner = 1) = true
  · rw [if_pos h, canInt_ctl]
  · rw [if_neg h]

theorem finishObj_ctl (o status : Nat) (d : Dev) : (finishObj c o status d).can[c] =
    (setObj c o { objOf d c o with status := status, cancel := false, failures := 0 } d).can[c] := attend_ctl o _

/-- An object is put under its number while the controller's record is otherwise as it was. -/
structure ObjPut (c : CanId) (o : Nat) (y : CanObj) (a e : Dev) : Prop where
  self : objOf e c o = y
  others : ∀ k, k ≠ o → objOf e c k = objOf a c k
  rest : ∃ objs, e.can[c] = { a.can[c] with objs := objs }

theorem setObj_put (o : Nat) {y : CanObj} (hy : y.status ≠ 0) (d : Dev) : ObjPut c o y d (setObj c o y d) :=
  ⟨objOf_setObj_self c o (ne_blank_of_status hy) d, fun _ hk => objOf_setObj_ne c hk y d, _, onCan_self c _ d⟩

theorem ObjPut.of_ctl {o : Nat} {y : CanObj} {a e f : Dev} (h : ObjPut c o y a e) (hf : f.can[c] = e.can[c]) : ObjPut c o y a f :=
  ⟨(objOf_of_ctl (congrArg CanCtl.objs hf) o).trans h.self, fun k hk => (objOf_of_ctl (congrArg CanCtl.objs hf) k).trans (h.others k hk),
    hf ▸ h.rest⟩

theorem finishObj_put (o : Nat) {status : Nat} (hs : status ≠ 0) (d : Dev) :
    ObjPut c o { objOf d c o with status := status, cancel := false, failures := 0 } d (finishObj c o status d) :=
  (setObj_put (c := c) o hs d).of_ctl (finishObj_ctl o status d)

/-- The end of an attempt in a controller that stays in its mode, with nothing for the gateway. -/
theorem endAttempt_quiet {o : Nat} {e : Dev} (hl : e.can[c].leaving = none) (hr : e.can[c].renewed = false) (hq : GatewayQuiet e) :
    endAttempt c o e = onCan c (fun x => { x with sending := none, txd := true }) e := by
  have hctl := onCan_self c (fun x => { x with sending := none, txd := true }) e
  have hquiet : GatewayQuiet (onCan c (fun x => { x with sending := none, txd := true }) e) :=
    hq.of_move (onCan_move (c := c) (l := []) _ e) fun o _ => objOf_of_ctl (by rw [hctl]) o
  unfold endAttempt
  generalize onCan c (fun x => { x with sending := none, txd := true }) e = f at *
  have hdrop : dropRenewed c o f = f := by
    unfold dropRenewed
    rw [hctl]
    exact if_neg (by rw [hr]; decide)
  have hstay : finishLeaving c f = f := by
    unfold finishLeaving
    rw [hctl]
    dsimp only
    rw [hl]
  rw [hdrop, hstay, gwSweep_quiet hquiet]

/-- What the end of an attempt leaves: the object as put, the counters as they were. -/
structure AttemptEnded (c : CanId) (o : Nat) (y : CanObj) (a e f : Dev) : Prop where
  dict : f.dict = e.dict
  ctl : f.can[c] = { e.can[c] with sending := none, txd := true }
  self : objOf f c o = y
  others : ∀ k, k ≠ o → objOf f c k = objOf a c k

theorem endAttempt_ends {o : Nat} {y : CanObj} {l : List Nat} {e : Dev} (ha : Attempting s.dev c o) (hq : GatewayQuiet s.dev)
    (hm : BusMove c l s.found e) (hself : objOf e c o = y) (hothers : ∀ k, k ≠ o → objOf e c k = objOf s.dev c k)
    (hl : e.can[c].leaving = none) (hr : e.can[c].renewed = false) : AttemptEnded c o y s.dev e (endAttempt c o e) := by
  have hquiet : GatewayQuiet e := GatewayQuiet.of_move (a := s.found) hq hm fun k hk => hothers k fun h => by
    subst h
    exact ha.owner hk
  rw [endAttempt_quiet hl hr hquiet]
  have hctl := onCan_self c (fun x => { x with sending := none, txd := true }) e
  exact ⟨rfl, hctl, (objOf_of_ctl (by rw [hctl]) o).trans hself, fun k hk => (objOf_of_ctl (by rw [hctl]) k).trans (hothers k hk)⟩

theorem cfg_of_dict {a b : Dev} (h : b.dict = a.dict) (idx sub : Nat) : cfg b idx sub = cfg a idx sub := by
  unfold cfg
  rw [h]

/-- The controller has lost arbitration. -/
def arbitrationNoted (c : CanId) (d : Dev) : Dev := bump (canIdx c 2) 6 (onCan c (fun x => { x with ackErrors := 0 }) d)

theorem arbitrationNoted_leaves (d : Dev) : BusMove c [6] d (arbitrationNoted c d) ∧
    (arbitrationNoted c d).can[c] = { d.can[c] with ackErrors := 0 } ∧
    cfg (arbitrationNoted c d) (canIdx c 2) 6 = min 0xFFFFFFFF (cfg d (canIdx c 2) 6 + 1) :=
  ⟨(onCan_move _ d).trans (bump_move_bus (by decide) _), (bump_ctl _ _ _ c).trans (onCan_self c _ _), bump_busCounter c (by decide) _⟩

theorem arbitration_completes {o : Nat} (hq : GatewayQuiet s.dev) (ha : Attempting s.dev c o) : Completes (.arbitrationLost c) s fun d =>
    cfg d (canIdx c 2) 6 = min 0xFFFFFFFF (cfg s.dev (canIdx c 2) 6 + 1) ∧ d.can[c].sending = none ∧ d.can[c].ackErrors = 0 ∧
      (∀ k, k ≠ o → objOf d c k = objOf s.dev c k) ∧ (objOf d c o).status = (if (objOf s.dev c o).cancel then 0x22 else 0x10) ∧
      d.can[c].tec = s.dev.can[c].tec ∧ (objOf d c o).data = (objOf s.dev c o).data := by
  have hrun : exec (.arbitrationLost c) s = s.does fun d => endAttempt c o (if (objOf s.dev c o).cancel then
      finishObj c o 0x22 (arbitrationNoted c d) else setObj c o { objOf s.dev c o with status := 0x10 } (arbitrationNoted c d)) := by
    show execArbitrationLost c s = _
    unfold execArbitrationLost
    refine does_congr ?_
    have hsend : s.found.can[c].sending = some o := ha.sending
    dsimp only
    rw [hsend]
    rfl
  refine completes_of_exec hrun ?_
  obtain ⟨hmove, hctl, hcount⟩ := arbitrationNoted_leaves (c := c) s.found
  generalize arbitrationNoted c s.found = b at *
  have hobj : ∀ k, objOf b c k = objOf s.dev c k := objOf_of_ctl (by rw [hctl]; rfl)
  have hput : ∃ y e, (if (objOf s.dev c o).cancel then finishObj c o 0x22 b else setObj c o { objOf s.dev c o with status := 0x10 } b) = e ∧
      ObjPut c o y b e ∧ BusMove c [] b e ∧ y.status = (if (objOf s.dev c o).cancel then 0x22 else 0x10) ∧ y.data = (objOf s.dev c o).data := by
    cases hcan : (objOf s.dev c o).cancel
    · exact ⟨_, _, rfl, setObj_put o (show (0x10 : Nat) ≠ 0 by decide) b, setObj_move _ _ b, rfl, rfl⟩
    · exact ⟨_, _, rfl, finishObj_put o (show (0x22 : Nat) ≠ 0 by decide) b, finishObj_move _ _ b, rfl, (congrArg CanObj.data (hobj o) :)⟩
  obtain ⟨y, e, he, hp, hem, hstatus, hdata⟩ := hput
  obtain ⟨objs, hrest⟩ := hp.rest
  rw [hctl] at hrest
  have hend := endAttempt_ends ha hq (hmove.join hem) hp.self (fun k hk => (hp.others k hk).trans (hobj k))
    (by rw [hrest]; exact ha.stays) (by rw [hrest]; exact ha.kept)
  rw [he]
  refine ⟨?_, by rw [hend.ctl], by rw [hend.ctl, hrest], hend.others, by rw [hend.self, hstatus], by rw [hend.ctl, hrest]; rfl, by rw [hend.self, hdata]⟩
  rw [cfg_of_dict hend.dict, hem.counter (by simp) (by decide) (by simp), hcount]
  rfl

/-! ### A frame sent (R294, R306 to R308, R311) -/

/-- The controller has sent a frame. -/
def successNoted (c : CanId) (d : Dev) : Dev :=
  countEv 0x021 c.val 0 1 (bump (canIdx c 2) 2 (setAlone c false (onCan c (fun y => { y with ackErrors := 0, tec := y.tec - 1 }) d)))

theorem successNoted_leaves (d : Dev) : BusMove c [2] d (successNoted c d) ∧
    (successNoted c d).can[c] = { d.can[c] with ackErrors := 0, tec := d.can[c].tec - 1, alone := false } ∧
    cfg (successNoted c d) (canIdx c 2) 2 = min 0xFFFFFFFF (cfg d (canIdx c 2) 2 + 1) := by
  have hm : BusMove c [] d (setAlone c false (onCan c (fun y => { y with ackErrors := 0, tec := y.tec - 1 }) d)) :=
    (onCan_move _ d).trans (setAlone_move _ _)
  refine ⟨hm.join ((bump_move_bus (by decide) _).trans (countEv_move _ _ _ _ _)), ?_, ?_⟩
  · refine (setAlone_ctl c false _).trans ?_
    rw [onCan_self]
  · refine (bump_busCounter c (by decide) _).trans ?_
    rw [hm.counter (by simp) (by decide) (by simp)]

/-- The device with the measured transmitter delay shown. -/
def delayShown (c : CanId) (shown : Bool) (delay : Nat) (d : Dev) : Dev := if shown then setReg (canIdx c 1) 9 delay d else d

theorem delayShown_leaves (shown : Bool) (delay : Nat) (d : Dev) : BusMove c [] d (delayShown c shown delay d) ∧
    (delayShown c shown delay d).can[c] = d.can[c] := by
  cases shown
  · exact ⟨.refl _ _ _, rfl⟩
  · exact ⟨setReg_move _ (by simp [busRegs]) d, rfl⟩

/-- The object whose frame was sent. -/
def sentObj (t : CanCtl) (x : CanObj) : CanObj :=
  { x with stamp := BitVec.ofNat 32 t.sofAt, unsure := t.sofUnsure, stepGen := t.sofGen }

/-- The sent object is Done. -/
def sentDone (c : CanId) (o : Nat) (x : CanObj) (d : Dev) : Dev :=
  if x.cancel then finishObj c o 0x21 (bump (canIdx c 2) 0x10 (setObj c o x d)) else finishObj c o 0x20 (setObj c o x d)

theorem sentDone_leaves (o : Nat) {x : CanObj} (hx : x.status ≠ 0) (d : Dev) : BusMove c [0x10] d (sentDone c o x d) ∧
    ObjPut c o { x with status := if x.cancel then 0x21 else 0x20, cancel := false, failures := 0 } d (sentDone c o x d) ∧
    (x.cancel = true → cfg (sentDone c o x d) (canIdx c 2) 0x10 = min 0xFFFFFFFF (cfg d (canIdx c 2) 0x10 + 1)) := by
  have hset := setObj_put (c := c) o hx d
  have hsetm : BusMove c [] d (setObj c o x d) := setObj_move o x d
  have hjoin : ∀ {b e : Dev} {y z : CanObj}, ObjPut c o y d b → ObjPut c o z b e → ObjPut c o z d e := fun hb he => by
    obtain ⟨l1, h1⟩ := hb.rest
    obtain ⟨l2, h2⟩ := he.rest
    exact ⟨he.self, fun k hk => (he.others k hk).trans (hb.others k hk), l2, by rw [h2, h1]⟩
  unfold sentDone
  cases hc : x.cancel
  · have hfin := finishObj_put (c := c) o (show (0x20 : Nat) ≠ 0 by decide) (setObj c o x d)
    rw [hset.self] at hfin
    exact ⟨(hsetm.trans (finishObj_move _ _ _)).mono (by simp), hjoin hset hfin, fun h => absurd h (by decide)⟩
  · have hbump : BusMove c [0x10] (setObj c o x d) (bump (canIdx c 2) 0x10 (setObj c o x d)) := bump_move_bus (by decide) _
    have hcount := bump_busCounter c (sub := 0x10) (by decide) (setObj c o x d)
    have hput : ObjPut c o x d (bump (canIdx c 2) 0x10 (setObj c o x d)) := hset.of_ctl (bump_ctl _ _ _ c)
    have hfin := finishObj_put (c := c) o (show (0x21 : Nat) ≠ 0 by decide) (bump (canIdx c 2) 0x10 (setObj c o x d))
    have hfinm : BusMove c [] (bump (canIdx c 2) 0x10 (setObj c o x d)) (finishObj c o 0x21 (bump (canIdx c 2) 0x10 (setObj c o x d))) :=
      finishObj_move _ _ _
    rw [hput.self] at hfin
    refine ⟨(hsetm.mono (by simp)).trans (hbump.trans (hfinm.mono (by simp))), hjoin hput hfin, fun _ => ?_⟩
    show cfg (finishObj c o 0x21 (bump (canIdx c 2) 0x10 (setObj c o x d))) _ _ = _
    rw [hfinm.counter (by simp) (by decide) (by simp), hcount, hsetm.counter (by simp) (by decide) (by simp)]

theorem success_completes {o : Nat} (hb : onBus s.dev.can[c] = true) (hq : GatewayQuiet s.dev) (ht : s.dev.can[c].tec ≤ 255)
    (ha : Attempting s.dev c o) (delay : BitVec 8) : Completes (.canTransmitSuccess c delay) s fun d =>
      cfg d (canIdx c 2) 2 = min 0xFFFFFFFF (cfg s.dev (canIdx c 2) 2 + 1) ∧ d.can[c].sending = none ∧
        d.can[c].tec = s.dev.can[c].tec - 1 ∧ d.can[c].ackErrors = 0 ∧ d.can[c].alone = false ∧ (∀ k, k ≠ o → objOf d c k = objOf s.dev c k) ∧
        d.can[c].state = (if 127 < s.dev.can[c].tec - 1 ∨ 127 < s.dev.can[c].recv then CanState.errorPassive else .errorActive) ∧
        objOf d c o = { objOf s.dev c o with
          status := if (objOf s.dev c o).cancel then 0x21 else 0x20
          cancel := false
          failures := 0
          stamp := BitVec.ofNat 32 s.dev.can[c].sofAt
          unsure := s.dev.can[c].sofUnsure
          stepGen := s.dev.can[c].sofGen } ∧
        ((objOf s.dev c o).cancel = true → cfg d (canIdx c 2) 0x10 = min 0xFFFFFFFF (cfg s.dev (canIdx c 2) 0x10 + 1)) := by
  have hrun : exec (.canTransmitSuccess c delay) s = s.does fun d => endAttempt c o (judgeErrors c (onCan c (fun y => { y with sending := none })
      (sentDone c o (sentObj s.dev.can[c] (objOf s.dev c o)) (delayShown c ((objCfg s.dev c o).brs && decide (1000000 < dataRate s.dev c)) delay.toNat
        (successNoted c d))))) := by
    show execCanTransmitSuccess c delay s = _
    unfold execCanTransmitSuccess
    refine does_congr ?_
    have hsend : s.found.can[c].sending = some o := ha.sending
    dsimp only
    rw [hsend]
    rfl
  refine completes_of_exec hrun ?_
  generalize ((objCfg s.dev c o).brs && decide (1000000 < dataRate s.dev c)) = shown
  obtain ⟨hm1, hctl1, hcount⟩ := successNoted_leaves (c := c) s.found
  generalize successNoted c s.found = n at *
  obtain ⟨hm2, hctl2⟩ := delayShown_leaves (c := c) shown delay.toNat n
  generalize delayShown c shown delay.toNat n = b at *
  have hstatus : (sentObj s.dev.can[c] (objOf s.dev c o)).status ≠ 0 := by
    show (objOf s.dev c o).status ≠ 0
    rw [ha.status]
    decide
  obtain ⟨hm3, hput, hcancel⟩ := sentDone_leaves (c := c) o hstatus b
  generalize sentDone c o (sentObj s.dev.can[c] (objOf s.dev c o)) b = w at *
  obtain ⟨objs, hrest⟩ := hput.rest
  rw [hctl2, hctl1] at hrest
  have hm4 : BusMove c [] w (onCan c (fun y => { y with sending := none }) w) := onCan_move _ w
  have hctl4 := onCan_self c (fun y => { y with sending := none }) w
  rw [hrest] at hctl4
  have hobj4 : ∀ k, objOf (onCan c (fun y => { y with sending := none }) w) c k = objOf w c k := objOf_of_ctl (by rw [hctl4, hrest])
  generalize onCan c (fun y => { y with sending := none }) w = m at *
  have hj := judgeErrors_ctl (c := c) (d := m) (by rw [hctl4]; exact hb) (by
    rw [hctl4]
    show s.dev.can[c].tec - 1 ≤ 255
    omega)
  have hjm := judgeErrors_move (c := c) m
  obtain ⟨heq, hstate⟩ := CanCtl.enters_judged m.can[c]
  have hjobj : ∀ k, objOf (judgeErrors c m) c k = objOf m c k := objOf_of_ctl (by rw [hj, heq])
  have hobjb : ∀ k, objOf b c k = objOf s.dev c k := objOf_of_ctl (by rw [hctl2, hctl1]; rfl)
  have hjrest := hj.trans heq
  rw [hctl4] at hjrest
  have hend := endAttempt_ends ha hq (hm1.join (hm2.join (hm3.join (hm4.join hjm)))) ((hjobj o).trans ((hobj4 o).trans hput.self))
    (fun k hk => (hjobj k).trans ((hobj4 k).trans ((hput.others k hk).trans (hobjb k)))) (by rw [hjrest]; exact ha.stays) (by rw [hjrest]; exact ha.kept)
  have hcfg : ∀ sub, sub < 256 → sub ∉ [0x0C, 0x0D] → cfg (endAttempt c o (judgeErrors c m)) (canIdx c 2) sub = cfg w (canIdx c 2) sub :=
    fun sub hs hn => by rw [cfg_of_dict hend.dict, hjm.counter (by decide) hs hn, hm4.counter (by simp) hs (by simp)]
  refine ⟨?_, by rw [hend.ctl], by rw [hend.ctl, hjrest]; rfl, by rw [hend.ctl, hjrest], by rw [hend.ctl, hjrest], hend.others, ?_, ?_, fun hcan => ?_⟩
  · rw [hcfg 2 (by decide) (by decide), hm3.counter (by decide) (by decide) (by decide), hm2.counter (by simp) (by decide) (by simp), hcount]
    rfl
  · rw [hend.ctl, hj]
    refine hstate.trans ?_
    rw [hctl4]
    rfl
  · exact hend.self
  · rw [hcfg 0x10 (by decide) (by decide), hcancel hcan, hm2.counter (by simp) (by decide) (by simp), hm1.counter (by decide) (by decide) (by decide)]
    rfl

/-! ### A frame that is not sent (R298, R305 to R308) -/

/-- The acknowledgement errors in a row after an error. -/
def acksAfter (t : CanCtl) (ack : Bool) : Nat := if ack then t.ackErrors + 1 else 0

theorem noteAck_leaves (ack : Bool) (d : Dev) : BusMove c [0x0E] d (noteAck c ack d) ∧
    (noteAck c ack d).can[c] = { d.can[c] with
      ackErrors := acksAfter d.can[c] ack, alone := if acksAfter d.can[c] ack = 16 then true else d.can[c].alone } ∧
    (acksAfter d.can[c] ack = 16 → cfg (noteAck c ack d) (canIdx c 2) 0x0E = min 0xFFFFFFFF (cfg d (canIdx c 2) 0x0E + 1)) := by
  have hset : BusMove c [] d (onCan c (fun x => { x with ackErrors := acksAfter d.can[c] ack }) d) := onCan_move _ d
  have hctl := onCan_self c (fun x => { x with ackErrors := acksAfter d.can[c] ack }) d
  unfold noteAck
  rw [show (if ack then d.can[c].ackErrors + 1 else 0) = acksAfter d.can[c] ack from rfl]
  dsimp only
  generalize onCan c (fun x => { x with ackErrors := acksAfter d.can[c] ack }) d = e at *
  by_cases h : acksAfter d.can[c] ack = 16
  · rw [if_pos h, if_pos h]
    have halone : BusMove c [] e (setAlone c true e) := setAlone_move _ e
    have hbump : BusMove c [0x0E] (setAlone c true e) (bump (canIdx c 2) 0x0E (setAlone c true e)) := bump_move_bus (by decide) _
    have hraise : BusMove c [] (bump (canIdx c 2) 0x0E (setAlone c true e)) (raise evAlone c.val (bump (canIdx c 2) 0x0E (setAlone c true e))) :=
      raise_move_bus _ _ _
    refine ⟨(hset.trans halone).join (hbump.join hraise), ?_, fun _ => ?_⟩
    · rw [raise_ctl, bump_ctl, setAlone_ctl, hctl]
    · rw [hraise.counter (by simp) (by decide) (by simp), bump_busCounter c (by decide), halone.counter (by simp) (by decide) (by simp),
        hset.counter (by simp) (by decide) (by simp)]
  · rw [if_neg h, if_neg h]
    exact ⟨hset.mono (by simp), hctl, fun h' => absurd h' h⟩

/-- A controller in bus-off, with the object on the bus Done. -/
theorem judgeErrors_busOff {o : Nat} {d : Dev} (hb : onBus d.can[c] = true) (ht : 255 < d.can[c].tec) (hs : d.can[c].sending = some o) :
    (∃ e, ObjPut c o { objOf d c o with status := 0x25, cancel := false, failures := 0 } d e ∧ (judgeErrors c d).can[c] = { e.can[c] with
      sending := none, recoveryAsked := false, holdOffEnd := some (d.now + cfg d (canIdx c 0) 0x0F * msNs), state := .busOff, stb := false
      txd := true }) ∧
    cfg (judgeErrors c d) (canIdx c 2) 0x0D = min 0xFFFFFFFF (cfg d (canIdx c 2) 0x0D + 1) := by
  have hfin := finishObj_put (c := c) o (show (0x25 : Nat) ≠ 0 by decide) d
  have hfm : BusMove c [] d (finishObj c o 0x25 d) := finishObj_move _ _ d
  unfold judgeErrors
  dsimp only
  rw [if_neg (by rw [hb]; decide), if_pos ht, hs]
  dsimp only
  generalize finishObj c o 0x25 d = e at *
  obtain ⟨objs, hrest⟩ := hfin.rest
  generalize hold : d.now + cfg d (canIdx c 0) 0x0F * msNs = ends
  have hset : BusMove c [] e (setCanState c .busOff (onCan c (fun t => { t with sending := none, recoveryAsked := false, holdOffEnd := some ends }) e)) :=
    (onCan_move _ _).trans (setCanState_move _ _)
  have hctl : (setCanState c .busOff (onCan c (fun t => { t with sending := none, recoveryAsked := false, holdOffEnd := some ends }) e)).can[c] =
      { e.can[c] with sending := none, recoveryAsked := false, holdOffEnd := some ends, state := .busOff, stb := false, txd := true } := by
    have hne : e.can[c].state ≠ .busOff := by
      rw [hrest]
      show d.can[c].state ≠ .busOff
      rcases onBus_cases hb with h | h <;> rw [h] <;> decide
    rw [setCanState_ctl, onCan_self]
    refine (if_neg hne).trans ?_
    simp
  refine ⟨⟨e, hfin, ?_⟩, ?_⟩
  · rw [raise_ctl, bump_ctl, hctl]
  · rw [(raise_move_bus (c := c) (l := []) _ _ _).counter (by simp) (by decide) (by simp), bump_busCounter c (by decide),
      hset.counter (by simp) (by decide) (by simp), hfm.counter (by simp) (by decide) (by simp)]

/-- The kind that a failed attempt counts as. -/
def failedKind (e : CanError) : CanErrorKind := if e.kind = .protocolException then .form else e.kind

/-- The transmit error counter after a failed attempt (R298). -/
def failedTec (t : CanCtl) (e : CanError) : Nat :=
  if failedKind e = .acknowledgement ∧ t.state = .errorPassive ∧ e.dominant = false then t.tec else min 256 (t.tec + 8)

/-- A failed attempt has been counted, before the controller is judged. -/
def failureNoted (c : CanId) (t : CanCtl) (e : CanError) (d : Dev) : Dev :=
  onCan c (fun x => { x with
    tec := if decide (failedKind e = .acknowledgement) && t.state = .errorPassive && !e.dominant then x.tec else min 256 (x.tec + 8) })
    (noteAck c (failedKind e = .acknowledgement) (noteCanError c (failedKind e) e.dataPhase d))

theorem exec_transmitError {o : Nat} {e : CanError} (ha : Attempting s.dev c o) :
    exec (.canTransmitError c e) s = s.does fun d => endAttempt c o
      (if (judgeErrors c (failureNoted c s.dev.can[c] e d)).can[c].state = .busOff then judgeErrors c (failureNoted c s.dev.can[c] e d)
      else retryObj c o (failedKind e = .acknowledgement) (judgeErrors c (failureNoted c s.dev.can[c] e d))) := by
  show execCanTransmitError c e s = _
  unfold execCanTransmitError
  refine does_congr ?_
  have hsend : s.found.can[c].sending = some o := ha.sending
  dsimp only
  rw [hsend]
  rfl

theorem failedTec_eq (t : CanCtl) (e : CanError) :
    (if decide (failedKind e = .acknowledgement) && t.state = .errorPassive && !e.dominant then t.tec else min 256 (t.tec + 8)) = failedTec t e := by
  unfold failedTec
  by_cases h : failedKind e = .acknowledgement ∧ t.state = .errorPassive ∧ e.dominant = false
  · rw [if_pos h, if_pos (by simp [h.1, h.2.1, h.2.2])]
  · rw [if_neg h, if_neg fun h' => h (by simpa [and_assoc] using h')]

/-- What a failed attempt leaves before the controller is judged. -/
structure FailureNoted (c : CanId) (e : CanError) (a d : Dev) : Prop where
  move : BusMove c [7, 8, 9, 0x0A, 0x0B, 0x0E] a d
  ctl : d.can[c] = { a.can[c] with
    tec := failedTec a.can[c] e
    ackErrors := acksAfter a.can[c] (failedKind e = .acknowledgement)
    alone := if acksAfter a.can[c] (failedKind e = .acknowledgement) = 16 then true else a.can[c].alone }
  counted : cfg d (canIdx c 2) (errorCounter (failedKind e)) = min 0xFFFFFFFF (cfg a (canIdx c 2) (errorCounter (failedKind e)) + 1)
  alone : acksAfter a.can[c] (failedKind e = .acknowledgement) = 16 →
    cfg d (canIdx c 2) 0x0E = min 0xFFFFFFFF (cfg a (canIdx c 2) 0x0E + 1)

theorem failureNoted_leaves (e : CanError) : FailureNoted c e s.found (failureNoted c s.dev.can[c] e s.found) := by
  obtain ⟨hlt, hapart⟩ := errorCounter_apart (failedKind e)
  have h0E : errorCounter (failedKind e) ∉ [0x0E] := by cases failedKind e <;> decide
  have hm1 := noteCanError_move (c := c) (failedKind e) e.dataPhase s.found
  have hcount := noteCanError_counts (c := c) (failedKind e) e.dataPhase s.found
  have hcan : (noteCanError c (failedKind e) e.dataPhase s.found).can[c] = s.dev.can[c] :=
    congrArg (fun v : Vector CanCtl 8 => v[c]) (noteCanError_can _ _ s.found)
  unfold failureNoted
  generalize noteCanError c (failedKind e) e.dataPhase s.found = n at *
  obtain ⟨hm2, hctl, halone⟩ := noteAck_leaves (c := c) (failedKind e = .acknowledgement) n
  rw [hcan] at hctl halone
  generalize noteAck c (failedKind e = .acknowledgement) n = m at *
  have hself := onCan_self c (fun x => { x with
    tec := if decide (failedKind e = .acknowledgement) && s.dev.can[c].state = .errorPassive && !e.dominant then x.tec else min 256 (x.tec + 8) }) m
  have hm3 : BusMove c [] m (onCan c (fun x => { x with
    tec := if decide (failedKind e = .acknowledgement) && s.dev.can[c].state = .errorPassive && !e.dominant then x.tec else min 256 (x.tec + 8) }) m) :=
    onCan_move _ m
  rw [hctl] at hself
  dsimp only at hself
  rw [failedTec_eq] at hself
  refine ⟨(hm1.join (hm2.join hm3)).mono (by simp), hself, ?_, fun h16 => ?_⟩
  · rw [hm3.counter (by simp) hlt (by simp), hm2.counter (by decide) hlt h0E, hcount]
  · rw [hm3.counter (by simp) (by decide) (by simp), halone h16, hm1.counter (by decide) (by decide) (by decide)]

/-- What every failed attempt leaves (R298, R307, R308). -/
structure AttemptFailed (c : CanId) (o : Nat) (e : CanError) (a d : Dev) : Prop where
  counted : cfg d (canIdx c 2) (errorCounter (failedKind e)) = min 0xFFFFFFFF (cfg a (canIdx c 2) (errorCounter (failedKind e)) + 1)
  sending : d.can[c].sending = none
  tec : d.can[c].tec = failedTec a.can[c] e
  others : ∀ k, k ≠ o → objOf d c k = objOf a c k
  acks : d.can[c].ackErrors = acksAfter a.can[c] (failedKind e = .acknowledgement)
  alone : acksAfter a.can[c] (failedKind e = .acknowledgement) = 16 →
    cfg d (canIdx c 2) 0x0E = min 0xFFFFFFFF (cfg a (canIdx c 2) 0x0E + 1) ∧ d.can[c].alone = true

/-- Bus-off ends the attempt for good (R291, R297). -/
theorem transmitError_busOff {o : Nat} {e : CanError} (hb : onBus s.dev.can[c] = true) (hq : GatewayQuiet s.dev)
    (ha : Attempting s.dev c o) (htec : 255 < failedTec s.dev.can[c] e) : Completes (.canTransmitError c e) s fun d =>
      AttemptFailed c o e s.dev d ∧ cfg d (canIdx c 2) 0x0D = min 0xFFFFFFFF (cfg s.dev (canIdx c 2) 0x0D + 1) ∧ d.can[c].state = .busOff ∧
        ballLevel d (.canTxd c) = some .high ∧ (objOf d c o).status = 0x25 ∧
        d.can[c].holdOffEnd = some (s.dev.now + cfg s.dev (canIdx c 0) 0x0F * msNs) := by
  refine completes_of_exec (exec_transmitError ha) ?_
  have hn := failureNoted_leaves (s := s) (c := c) e
  generalize failureNoted c s.dev.can[c] e s.found = n at *
  have hctl := hn.ctl
  rw [show s.found.can = s.dev.can from rfl] at hctl
  obtain ⟨⟨w, hput, hjctl⟩, h0D⟩ := judgeErrors_busOff (c := c) (o := o) (d := n) (by rw [hctl]; exact hb) (by rw [hctl]; exact htec)
    (by rw [hctl]; exact ha.sending)
  have hjm := judgeErrors_move (c := c) n
  obtain ⟨objs, hrest⟩ := hput.rest
  rw [hrest, hctl] at hjctl
  have hobjs : (judgeErrors c n).can[c].objs = w.can[c].objs := by rw [hjctl, hrest]
  rw [hn.move.setting (by decide) (by decide), hn.move.clock] at hjctl
  rw [if_pos (by rw [hjctl])]
  generalize judgeErrors c n = j at *
  have hobjn : ∀ k, objOf n c k = objOf s.dev c k := objOf_of_ctl (by rw [hctl])
  have hend := endAttempt_ends ha hq (hn.move.join hjm) ((objOf_of_ctl hobjs o).trans hput.self)
    (fun k hk => (objOf_of_ctl hobjs k).trans ((hput.others k hk).trans (hobjn k))) (by rw [hjctl]; exact ha.stays) (by rw [hjctl]; exact ha.kept)
  obtain ⟨hlt, hapart⟩ := errorCounter_apart (failedKind e)
  have hstatus : (objOf (endAttempt c o j) c o).status = 0x25 := by rw [hend.self]
  have hjtec : j.can[c].tec = failedTec s.dev.can[c] e := by rw [hjctl]
  have hjacks : j.can[c].ackErrors = acksAfter s.dev.can[c] (failedKind e = .acknowledgement) := by rw [hjctl]
  have hjstate : j.can[c].state = .busOff := by rw [hjctl]
  have hjtxd : j.can[c].txd = true := by rw [hjctl]
  have hjends : j.can[c].holdOffEnd = some (s.dev.now + cfg s.dev (canIdx c 0) 0x0F * msNs) := by rw [hjctl]; rfl
  have hjalone : acksAfter s.dev.can[c] (failedKind e = .acknowledgement) = 16 → j.can[c].alone = true := fun h16 => by
    rw [hjctl]
    exact if_pos h16
  have hectl := hend.ctl
  generalize endAttempt c o j = z at *
  refine ⟨⟨?_, by rw [hectl], by rw [hectl, ← hjtec], hend.others, by rw [hectl, ← hjacks], fun h16 => ⟨?_, ?_⟩⟩, ?_, by rw [hectl, ← hjstate], ?_,
    hstatus, by rw [hectl, ← hjends]⟩
  · rw [cfg_of_dict hend.dict, hjm.counter (by decide) hlt hapart, hn.counted]
    rfl
  · rw [cfg_of_dict hend.dict, hjm.counter (by decide) (by decide) (by decide), hn.alone h16]
    rfl
  · rw [hectl, ← hjalone h16]
  · rw [cfg_of_dict hend.dict, h0D, hn.move.counter (by decide) (by decide) (by decide)]
    rfl
  · show (if z.can[c].txd then some Drive.high else none) = some .high
    exact if_pos (by rw [hectl, ← hjtxd])

/-- What becomes of the object of a failed attempt while the controller stays on the bus. -/
theorem transmitError_retried {o : Nat} {e : CanError} {y : CanObj} {l : List Nat} (hb : onBus s.dev.can[c] = true) (hq : GatewayQuiet s.dev)
    (ha : Attempting s.dev c o) (htec : failedTec s.dev.can[c] e ≤ 255) (hl : ∀ k ∈ l, k = 0x11)
    (hretry : ∀ j, BusMove c [7, 8, 9, 0x0A, 0x0B, 0x0E, 0x0C, 0x0D] s.found j → (∀ k, objOf j c k = objOf s.dev c k) →
      BusMove c l j (retryObj c o (failedKind e = .acknowledgement) j) ∧ ObjPut c o y j (retryObj c o (failedKind e = .acknowledgement) j)) :
    Completes (.canTransmitError c e) s fun d => ∃ j, AttemptFailed c o e s.dev d ∧
      d.can[c].state = (if 127 < failedTec s.dev.can[c] e ∨ 127 < s.dev.can[c].recv then CanState.errorPassive else .errorActive) ∧
      objOf d c o = y ∧ BusMove c [7, 8, 9, 0x0A, 0x0B, 0x0E, 0x0C, 0x0D] s.found j ∧
      d.dict = (retryObj c o (failedKind e = .acknowledgement) j).dict ∧ ∀ k, objOf j c k = objOf s.dev c k := by
  refine completes_of_exec (exec_transmitError ha) ?_
  have hn := failureNoted_leaves (s := s) (c := c) e
  generalize failureNoted c s.dev.can[c] e s.found = n at *
  have hctl := hn.ctl
  rw [show s.found.can = s.dev.can from rfl] at hctl
  have hjm := judgeErrors_move (c := c) n
  have hj := judgeErrors_ctl (c := c) (d := n) (by rw [hctl]; exact hb) (by rw [hctl]; exact htec)
  obtain ⟨heq, hstate⟩ := CanCtl.enters_judged n.can[c]
  have hjudged : n.can[c].judged = (if 127 < failedTec s.dev.can[c] e ∨ 127 < s.dev.can[c].recv then CanState.errorPassive else .errorActive) := by
    rw [hctl]
    rfl
  have hjrest := hj.trans heq
  rw [hctl] at hjrest
  have hjstate : (judgeErrors c n).can[c].state = (if 127 < failedTec s.dev.can[c] e ∨ 127 < s.dev.can[c].recv then CanState.errorPassive
      else .errorActive) := (congrArg CanCtl.state hj).trans (hstate.trans hjudged)
  have hjobj : ∀ k, objOf (judgeErrors c n) c k = objOf s.dev c k := objOf_of_ctl (by rw [hjrest])
  have hmove : BusMove c [7, 8, 9, 0x0A, 0x0B, 0x0E, 0x0C, 0x0D] s.found (judgeErrors c n) := hn.move.join hjm
  rw [if_neg (by rw [hjstate]; split <;> decide)]
  generalize judgeErrors c n = j at *
  obtain ⟨hrm, hput⟩ := hretry j hmove hjobj
  obtain ⟨objs, hrest⟩ := hput.rest
  have hrstate : (retryObj c o (failedKind e = .acknowledgement) j).can[c].state =
      (if 127 < failedTec s.dev.can[c] e ∨ 127 < s.dev.can[c].recv then CanState.errorPassive else .errorActive) := by
    rw [hrest]
    exact hjstate
  rw [hjrest] at hrest
  have hend := endAttempt_ends ha hq (hmove.join hrm) hput.self (fun k hk => (hput.others k hk).trans (hjobj k))
    (by rw [hrest]; exact ha.stays) (by rw [hrest]; exact ha.kept)
  obtain ⟨hlt, hapart⟩ := errorCounter_apart (failedKind e)
  have hl256 : ∀ k ∈ l, k < 256 := fun k hk => by rw [hl k hk]; decide
  have h11 : ∀ sub, sub ≠ 0x11 → sub ∉ l := fun sub hne hk => hne (hl sub hk)
  have hctr11 : errorCounter (failedKind e) ≠ 0x11 := by cases failedKind e <;> decide
  refine ⟨j, ⟨?_, by rw [hend.ctl], by rw [hend.ctl, hrest], hend.others, by rw [hend.ctl, hrest], fun h16 => ⟨?_, ?_⟩⟩, ?_, hend.self, hmove,
    hend.dict, hjobj⟩
  · rw [cfg_of_dict hend.dict, hrm.counter hl256 hlt (h11 _ hctr11), hjm.counter (by decide) hlt hapart, hn.counted]
    rfl
  · rw [cfg_of_dict hend.dict, hrm.counter hl256 (by decide) (h11 _ (by decide)), hjm.counter (by decide) (by decide) (by decide), hn.alone h16]
    rfl
  · rw [hend.ctl, hrest]
    exact if_pos h16
  · rw [hend.ctl]
    exact hrstate

theorem transmitError_cancelled {o : Nat} {e : CanError} (hb : onBus s.dev.can[c] = true) (hq : GatewayQuiet s.dev) (ha : Attempting s.dev c o)
    (htec : failedTec s.dev.can[c] e ≤ 255) (hx : (objOf s.dev c o).cancel = true) : Completes (.canTransmitError c e) s fun d =>
      AttemptFailed c o e s.dev d ∧
      d.can[c].state = (if 127 < failedTec s.dev.can[c] e ∨ 127 < s.dev.can[c].recv then CanState.errorPassive else .errorActive) ∧
      (objOf d c o).status = 0x22 := by
  refine Completes.mono (transmitError_retried (y := { objOf s.dev c o with status := 0x22, cancel := false, failures := 0 }) (l := []) hb hq ha htec
    (by simp) fun j _ hobj => ?_) fun d ⟨_, hf, hstate, hself, _⟩ => ⟨hf, hstate, by rw [hself]⟩
  unfold retryObj
  dsimp only
  rw [hobj o, if_pos hx, ← hobj o]
  exact ⟨finishObj_move _ _ j, finishObj_put o (by decide) j⟩

theorem transmitError_limit {o : Nat} {e : CanError} (hb : onBus s.dev.can[c] = true) (hq : GatewayQuiet s.dev) (ha : Attempting s.dev c o)
    (htec : failedTec s.dev.can[c] e ≤ 255) (hx : (objOf s.dev c o).cancel = false) (hlimited : retryLimit s.dev c o ≠ 127)
    (hlimit : retryLimit s.dev c o ≤ (objOf s.dev c o).failures) : Completes (.canTransmitError c e) s fun d =>
      AttemptFailed c o e s.dev d ∧
      d.can[c].state = (if 127 < failedTec s.dev.can[c] e ∨ 127 < s.dev.can[c].recv then CanState.errorPassive else .errorActive) ∧
      (objOf d c o).status = (if failedKind e = .acknowledgement then 0x23 else 0x24) ∧
      cfg d (canIdx c 2) 0x11 = min 0xFFFFFFFF (cfg s.dev (canIdx c 2) 0x11 + 1) := by
  have hretry : ∀ j, BusMove c [7, 8, 9, 0x0A, 0x0B, 0x0E, 0x0C, 0x0D] s.found j → (∀ k, objOf j c k = objOf s.dev c k) →
      retryObj c o (failedKind e = .acknowledgement) j =
        finishObj c o (if failedKind e = .acknowledgement then 0x23 else 0x24) (bump (canIdx c 2) 0x11 j) := fun j hm hobj => by
    have hstop : (decide (retryLimit s.dev c o ≠ 127) && decide (retryLimit s.dev c o ≤ (objOf s.dev c o).failures)) = true := by
      simp [hlimited, hlimit]
    have hr : retryLimit j c o = retryLimit s.dev c o := hm.retryLimit (by decide) o
    unfold retryObj
    dsimp only
    rw [hobj o, hr, if_neg (by rw [hx]; decide), if_pos hstop]
    exact congrArg (fun n => finishObj c o n _) (if_congr decide_eq_true_iff rfl rfl)
  have hstatus : (if failedKind e = .acknowledgement then 0x23 else 0x24) ≠ 0 := by split <;> decide
  refine Completes.mono (transmitError_retried (y := { objOf s.dev c o with
      status := if failedKind e = .acknowledgement then 0x23 else 0x24, cancel := false, failures := 0 }) (l := [0x11]) hb hq ha htec
    (by simp) fun j hm hobj => ?_) fun d ⟨j, hf, hstate, hself, hm, hdict, hobj⟩ => ⟨hf, hstate, by rw [hself], ?_⟩
  · have hbump : objOf (bump (canIdx c 2) 0x11 j) c o = objOf s.dev c o := (objOf_of_ctl (by rw [bump_ctl]) o).trans (hobj o)
    have hput := finishObj_put (c := c) o hstatus (bump (canIdx c 2) 0x11 j)
    rw [hretry j hm hobj]
    refine ⟨(bump_move_bus (by decide) j).trans (finishObj_move _ _ _), ?_⟩
    rw [hbump] at hput
    refine ⟨hput.self, fun k hk => (hput.others k hk).trans (objOf_of_ctl (by rw [bump_ctl]) k), ?_⟩
    obtain ⟨objs, hrest⟩ := hput.rest
    exact ⟨objs, by rw [hrest, bump_ctl]⟩
  · rw [hretry j hm hobj] at hdict
    have hcount : cfg j (canIdx c 2) 0x11 = cfg s.dev (canIdx c 2) 0x11 := hm.counter (by decide) (by decide) (by decide)
    rw [cfg_of_dict hdict, (finishObj_move (c := c) (l := []) o _ _).counter (by simp) (by decide) (by simp), bump_busCounter c (by decide), hcount]

theorem transmitError_repeats {o : Nat} {e : CanError} (hb : onBus s.dev.can[c] = true) (hq : GatewayQuiet s.dev) (ha : Attempting s.dev c o)
    (htec : failedTec s.dev.can[c] e ≤ 255) (hx : (objOf s.dev c o).cancel = false)
    (hlimit : retryLimit s.dev c o = 127 ∨ (objOf s.dev c o).failures < retryLimit s.dev c o) : Completes (.canTransmitError c e) s fun d =>
      AttemptFailed c o e s.dev d ∧
      d.can[c].state = (if 127 < failedTec s.dev.can[c] e ∨ 127 < s.dev.can[c].recv then CanState.errorPassive else .errorActive) ∧
      objOf d c o = { objOf s.dev c o with status := 0x10, failures := (objOf s.dev c o).failures + 1 } := by
  refine Completes.mono (transmitError_retried (y := { objOf s.dev c o with status := 0x10, failures := (objOf s.dev c o).failures + 1 }) (l := [])
    hb hq ha htec (by simp) fun j hm hobj => ?_) fun d ⟨_, hf, hstate, hself, _⟩ => ⟨hf, hstate, hself⟩
  have hr : retryLimit j c o = retryLimit s.dev c o := hm.retryLimit (by decide) o
  have hgo : ¬ (decide (retryLimit s.dev c o ≠ 127) && decide (retryLimit s.dev c o ≤ (objOf s.dev c o).failures)) = true := fun h => by
    obtain ⟨h127, hle⟩ : retryLimit s.dev c o ≠ 127 ∧ retryLimit s.dev c o ≤ (objOf s.dev c o).failures := by simpa using h
    exact hlimit.elim h127 (Nat.not_lt.2 hle)
  unfold retryObj
  dsimp only
  rw [hobj o, hr, if_neg (by rw [hx]; decide), if_neg hgo]
  exact ⟨setObj_move _ _ j, setObj_put o (show (0x10 : Nat) ≠ 0 by decide) j⟩

end onTheBus

end events

/-- The counter that counts an error of a kind, a protocol exception among them (R299, R307). -/
def kindCounter : CanErrorKind → Nat
  | .stuff => 7
  | .form => 8
  | .acknowledgement => 9
  | .bit1 => 0x0A
  | .bit0 => 0x0A
  | .crc => 0x0B
  | .protocolException => 0x0F

theorem kindCounter_eq {k : CanErrorKind} (hk : k ≠ .protocolException) : kindCounter k = errorCounter k := by
  cases k with
  | protocolException => exact absurd rfl hk
  | _ => rfl

theorem failedKind_ne (e : CanError) : failedKind e ≠ .protocolException := by
  unfold failedKind
  split
  · decide
  · assumption

theorem acksAfter_eq (t : CanCtl) (k : CanErrorKind) :
    acksAfter t (decide (k = .acknowledgement)) = if k = .acknowledgement then t.ackErrors + 1 else 0 := by
  by_cases h : k = .acknowledgement <;> simp [acksAfter, h]

theorem acksAfter_sixteenth {t : CanCtl} {k : CanErrorKind} (hk : k = .acknowledgement) (h : t.ackErrors = 15) :
    acksAfter t (decide (k = .acknowledgement)) = 16 := by
  rw [acksAfter_eq, if_pos hk, h]

/-- Settles O39: what every controller and every object command of the bus leaves is proved above, each over the moves of its own. -/
theorem busEventsMoveControllersAndObjectsAsGiven : Obligations.BusEventsMoveControllersAndObjectsAsGiven := by
  intro s c
  refine ⟨integration_completes, fun hst => ⟨fun f hf => ⟨detecting_counts hst hf, detecting_detects hst hf⟩, fun e hk => ?_, fun m hm => dwell_completes hst hm⟩,
    fun hst m hm => holdOff_completes hst hm, recovery_completes, fun hb hq ht => ⟨fun f hf => ⟨fun o htakes ho => frame_stored hb hq ht hf htakes ho,
      fun htakes => frame_untaken hb hq ht hf htakes⟩, fun f hfd hres hfmt hex => frame_exception hb hfd hres hfmt hex,
      fun e => ⟨error_exception hb, fun hk hs => ?_, fun hk hs => ?_⟩, fun o hs hsend hleave hnext => attempt_starts hb hs hsend hleave hnext,
      fun o hsend hleave hren hown hstat => ?_⟩⟩
  · refine Completes.mono (detecting_error hst hk) fun d ⟨hcount, hctl⟩ => ⟨?_, hctl⟩
    rw [← kindCounter_eq hk] at hcount
    exact hcount
  · refine Completes.mono (error_counts hb hq ht hk hs) fun d ⟨hcount, hstate, hctl⟩ => ⟨?_, hstate, hctl⟩
    rw [← kindCounter_eq hk] at hcount
    exact hcount
  · refine Completes.mono (error_silent hb hk hs) fun d ⟨hcount, hctl⟩ => ⟨?_, hctl⟩
    rw [← kindCounter_eq hk] at hcount
    exact hcount
  · have ha : Attempting s.dev c o := ⟨hsend, hleave, hren, hown, hstat⟩
    refine ⟨arbitration_completes hq ha, success_completes hb hq ht ha, fun e => ?_⟩
    have hfailed : ∀ d, AttemptFailed c o e s.dev d → _ ∧ _ ∧ _ ∧ _ ∧ _ ∧ _ := fun d hf =>
      ⟨kindCounter_eq (failedKind_ne e) ▸ hf.counted, hf.sending, hf.tec, hf.others, hf.acks.trans (acksAfter_eq _ _), fun hk h15 =>
        hf.alone (acksAfter_sixteenth hk h15)⟩
    refine ⟨fun htec => Completes.mono (transmitError_busOff hb hq ha htec) fun d ⟨hf, hrest⟩ => ⟨hfailed d hf, hrest⟩, fun htec => ⟨fun hx =>
      Completes.mono (transmitError_cancelled hb hq ha htec hx) fun d ⟨hf, hrest⟩ => ⟨hfailed d hf, hrest⟩, fun hx h127 hle =>
      Completes.mono (transmitError_limit hb hq ha htec hx h127 hle) fun d ⟨hf, hrest⟩ => ⟨hfailed d hf, hrest⟩, fun hx hlim =>
      Completes.mono (transmitError_repeats hb hq ha htec hx hlim) fun d ⟨hf, hrest⟩ => ⟨hfailed d hf, hrest⟩⟩⟩

end Sys2Proof.Machine
end

section
/-! PROOF. Check channels: judged frames, flags and silence (R353, R356, R360, R361). -/

namespace Sys2Proof.Machine

/-! ### Records and registers -/

theorem raiseP_regs (ev : Ev) (inst : Nat) (payload : List Byte) (d : Dev) : RegsFramed eventCounters d (raiseP ev inst payload d) := by
  unfold raiseP recordEntry
  refine (RecordsOnly.ite ((RecordsOnly.refl d).bump _ _ (by decide)) ?_).1
  split
  · exact earlyAccept_recordsOnly _ d
  · exact earlyAccept_recordsOnly _ d
  · exact placeEntry_recordsOnly _ d

/-- Each listed record lies in its tables and in the 4,096 bytes of its subindex. -/
theorem mem_listedRecords {m : List Host.Cell} {lo hi size : Nat} {x : Nat × Nat × Nat} (h : x ∈ listedRecords m lo hi size) :
    lo ≤ x.1 ∧ x.1 ≤ hi ∧ x.2.2 ≤ 4095 / size := by
  induction m with
  | nil => exact absurd h (List.not_mem_nil)
  | cons c m ih =>
    have hstep : x ∈ listedRecords m lo hi size ∨ (lo ≤ 0x5000 + c.1 / 4096 / 256 ∧ 0x5000 + c.1 / 4096 / 256 ≤ hi ∧
        x = (0x5000 + c.1 / 4096 / 256, c.1 / 4096 % 256, c.1 % 4096 / size)) := by
      unfold listedRecords at h ⊢
      rw [List.foldr_cons] at h
      generalize List.foldr _ _ m = acc at h ⊢
      dsimp only at h
      split at h
      · next hin =>
        obtain ⟨hlo, hhi⟩ : lo ≤ 0x5000 + c.1 / 4096 / 256 ∧ 0x5000 + c.1 / 4096 / 256 ≤ hi := by simpa using hin
        cases acc with
        | nil => exact .inr ⟨hlo, hhi, by simpa using h⟩
        | cons y ys =>
          dsimp only at h
          split at h
          · exact .inl h
          · exact (List.mem_cons.1 h).elim (fun e => .inr ⟨hlo, hhi, e⟩) .inl
      · exact .inl h
    rcases hstep with h | ⟨hlo, hhi, rfl⟩
    · exact ih h
    · exact ⟨hlo, hhi, Nat.div_le_div_right (by omega)⟩

theorem checkFor_lt {d : Dev} {protects telegram : Bool} {ctl unit ch : Nat} {r : CheckRec}
    (h : checkFor d protects telegram ctl unit = some (ch, r)) : ch < 256 := by
  have hmem : (ch, r) ∈ checkRecs d.dict.mem := List.mem_of_find?_eq_some h
  obtain ⟨⟨idx, sub, k⟩, hlist, heq⟩ := List.mem_map.1 hmem
  obtain ⟨hlo, hhi, hk⟩ := mem_listedRecords hlist
  obtain ⟨rfl, -⟩ := Prod.mk.injEq .. ▸ heq
  dsimp only at hlo hhi hk ⊢
  omega

/-! ### A judged frame -/

section judged

variable {d : Dev} {ch : Nat}

/-- A frame goes on under a block mode (R360). -/
def handsOn (block kind : Nat) (valid : Bool) : Bool :=
  match block with
  | 0 => true
  | 1 => kind = 0
  | _ => kind = 0 && valid

/-- A frame is noted and judged. -/
def checkJudged (ch : Nat) (r : CheckRec) (kind last lost : Nat) (d : Dev) : Dev :=
  if kind = 0 then passCheck ch r (noteChecked ch r last lost d) else flagCheck ch kind (noteChecked ch r last lost d)

theorem verifyFrame_eq {r : CheckRec} {bs : List Byte} {kind last lost : Nat} (hj : r.judge (chkOf d ch) bs = (kind, last, lost)) :
    verifyFrame ch r bs d = (handsOn r.block kind ((chkOf (checkJudged ch r kind last lost d) ch).state = .valid),
      onlyIf (!handsOn r.block kind ((chkOf (checkJudged ch r kind last lost d) ch).state = .valid)) (bump 0x2902 4)
        (checkJudged ch r kind last lost d)) := by
  unfold verifyFrame
  rw [hj]
  rfl

theorem eventCounters_high : ∀ r ∈ eventCounters, odKey 0x2A06 0 ≤ odKey r.1 r.2 := by decide

/-- A register below the recorder's that is none of the first few is left as it was. -/
theorem RegsFramed.cfg_below {a b : Dev} {l : List (Nat × Nat)} (h : RegsFramed (l ++ eventCounters) a b) {idx sub : Nat}
    (hk : odKey idx sub < odKey 0x2A06 0) (hl : ∀ r ∈ l, odKey r.1 r.2 ≠ odKey idx sub) : Machine.cfg b idx sub = Machine.cfg a idx sub :=
  h.cfg idx sub fun r hr => (List.mem_append.1 hr).elim (hl r) fun he e => by
    have := eventCounters_high r he
    omega

theorem noteChecked_regs (r : CheckRec) (last lost : Nat) (d : Dev) : RegsFramed [(0x2902, 1), (0x2902, 5)] d (noteChecked ch r last lost d) :=
  ((((RegsFramed.of_same rfl).bump _ _ (by decide) : RegsFramed _ d _)).setReg _ _ _ (by decide))

theorem noteChecked_counts (r : CheckRec) (last lost : Nat) (d : Dev) :
    cfg (noteChecked ch r last lost d) 0x2902 1 = min 0xFFFFFFFF (cfg d 0x2902 1 + 1) :=
  (cfg_bumpBy_ne _ _ _ _ _ _ (by decide)).trans (cfg_bump_self _ _ (setChk ch _ d) rfl)

theorem noteChecked_cfg (r : CheckRec) (last lost : Nat) (d : Dev) {idx sub : Nat} (h1 : odKey idx sub ≠ odKey 0x2902 1) (h5 : odKey idx sub ≠ odKey 0x2902 5) :
    cfg (noteChecked ch r last lost d) idx sub = cfg d idx sub :=
  (noteChecked_regs r last lost d).cfg idx sub (by simpa using ⟨h1.symm, h5.symm⟩)

theorem passCheck_recovers {r : CheckRec} (hinv : (chkOf d ch).state = .invalid) (hrec : r.recovery ≤ (chkOf d ch).run + 1) :
    passCheck ch r d = raise evCheckValid ch (bump 0x2902 6 (setChk ch { chkOf d ch with
      passed := satInc (chkOf d ch).passed, state := .valid, run := 0 } d)) := by
  unfold passCheck
  dsimp only
  rw [hinv]
  exact if_pos hrec

theorem passCheck_waits {r : CheckRec} (hinv : (chkOf d ch).state = .invalid) (hrec : (chkOf d ch).run + 1 < r.recovery) :
    passCheck ch r d = setChk ch { chkOf d ch with passed := satInc (chkOf d ch).passed, run := (chkOf d ch).run + 1 } d := by
  unfold passCheck
  dsimp only
  rw [hinv]
  exact if_neg (Nat.not_le.2 hrec)

theorem passCheck_valid (r : CheckRec) (hst : (chkOf d ch).state ≠ .invalid) :
    passCheck ch r d = setChk ch { chkOf d ch with passed := satInc (chkOf d ch).passed, state := .valid } d := by
  unfold passCheck
  cases hx : (chkOf d ch).state with
  | invalid => exact absurd hx hst
  | _ => simp [hx]

/-- What a frame that passes leaves (R360), with the channel and the entries as they were before. -/
structure FramePassed (ch : Nat) (r : CheckRec) (x : CheckCh) (last : Nat) (a d : Dev) : Prop where
  passed : (chkOf d ch).passed = min 0xFFFFFFFF (x.passed + 1)
  last : (chkOf d ch).last = last
  regs : RegsFramed ([(0x2902, 1), (0x2902, 5), (0x2902, 6)] ++ eventCounters) a d
  counted : cfg d 0x2902 1 = min 0xFFFFFFFF (cfg a 0x2902 1 + 1)
  waits : x.state = .invalid → x.run + 1 < r.recovery → (chkOf d ch).state = .invalid ∧ (chkOf d ch).run = x.run + 1
  valid : x.state ≠ .invalid ∨ r.recovery ≤ x.run + 1 → (chkOf d ch).state = .valid
  returns : x.state = .invalid → r.recovery ≤ x.run + 1 → cfg d 0x2902 6 = min 0xFFFFFFFF (cfg a 0x2902 6 + 1)

theorem checkJudged_pass {x : CheckCh} (hx : chkOf d ch = x) (hon : x.state ≠ .off) (r : CheckRec) (last lost : Nat) :
    FramePassed ch r x last d (checkJudged ch r 0 last lost d) := by
  rw [checkJudged, if_pos rfl]
  have hn := chkOf_noteChecked (hx ▸ hon) r last lost
  have hregs := noteChecked_regs (ch := ch) r last lost d
  have hcount := noteChecked_counts (ch := ch) r last lost d
  have h6 : cfg (noteChecked ch r last lost d) 0x2902 6 = cfg d 0x2902 6 := noteChecked_cfg r last lost d (by decide) (by decide)
  rw [hx] at hn
  generalize noteChecked ch r last lost d = n at *
  have hbase : RegsFramed ([(0x2902, 1), (0x2902, 5), (0x2902, 6)] ++ eventCounters) d n := hregs.mono (by decide)
  have hset : ∀ y : CheckCh, RegsFramed ([(0x2902, 1), (0x2902, 5), (0x2902, 6)] ++ eventCounters) d (setChk ch y n) := fun y =>
    hbase.trans (.of_same rfl)
  have hstate : (chkOf n ch).state = x.state := by rw [hn]
  have hrun : (chkOf n ch).run = x.run := by rw [hn]
  have hpassed : (chkOf n ch).passed = x.passed := by rw [hn]
  have hlast : (chkOf n ch).last = last := by rw [hn]
  by_cases hinv : x.state = .invalid
  · by_cases hrec : r.recovery ≤ x.run + 1
    · rw [passCheck_recovers (hstate.trans hinv) (hrun ▸ hrec)]
      have hch := (chkOf_of_chk ((raise_chk evCheckValid ch _).trans (bump_chk 0x2902 6 _)) ch).trans (chkOf_setChk_self (ch := ch)
        (x := { chkOf n ch with passed := satInc (chkOf n ch).passed, state := .valid, run := 0 }) (by simp) n)
      have hraise := raise_regs evCheckValid ch (bump 0x2902 6 (setChk ch { chkOf n ch with
        passed := satInc (chkOf n ch).passed, state := .valid, run := 0 } n))
      refine ⟨by rw [hch, hpassed]; rfl, by rw [hch, hlast], ?_, ?_, fun _ hlt => absurd hlt (Nat.not_lt.2 hrec), fun _ => by rw [hch],
        fun _ _ => ?_⟩
      · exact ((hset _).bump _ _ (by decide)).trans (hraise.mono fun _ => List.mem_append_right _)
      · rw [hraise.cfg 0x2902 1 (by decide), cfg_bump_ne _ _ _ _ _ (by decide), ← hcount]
        rfl
      · rw [hraise.cfg 0x2902 6 (by decide), cfg_bump_self _ _ _ rfl, ← h6]
        rfl
    · rw [passCheck_waits (hstate.trans hinv) (hrun ▸ Nat.not_le.1 hrec)]
      have hch := chkOf_setChk_self (ch := ch) (x := { chkOf n ch with passed := satInc (chkOf n ch).passed, run := (chkOf n ch).run + 1 })
        (by rw [hstate]; exact hon) n
      exact ⟨by rw [hch, hpassed]; rfl, by rw [hch, hlast], hset _, hcount, fun _ _ => ⟨by rw [hch, hstate, hinv], by rw [hch, hrun]⟩,
        fun h => h.elim (absurd hinv) (absurd · hrec), fun _ h => absurd h hrec⟩
  · rw [passCheck_valid r (hstate ▸ hinv)]
    have hch := chkOf_setChk_self (ch := ch) (x := { chkOf n ch with passed := satInc (chkOf n ch).passed, state := .valid }) (by simp) n
    exact ⟨by rw [hch, hpassed]; rfl, by rw [hch, hlast], hset _, hcount, fun h => absurd h hinv, fun _ => by rw [hch],
      fun h => absurd h hinv⟩

/-! ### A frame that fails -/

theorem bitOf_add_pow {w i : Nat} (h : bitOf w i = false) : bitOf (w + 2 ^ i) i = true := by
  have hpos : 0 < 2 ^ i := Nat.two_pow_pos i
  simp only [bitOf, decide_eq_false_iff_not, decide_eq_true_eq] at h ⊢
  rw [Nat.add_div_right _ hpos]
  omega

/-- The entries that a failure writes before its event and its interrupt. -/
def failureShown (ch kind : Nat) (y : CheckCh) (d : Dev) : Dev :=
  let d1 := countEv 0x031 ch 0 1 (bump 0x2902 3 (setChk ch { y with kind := kind, run := 0, state := .invalid } d))
  if bitOf (cfg d 0x2903 (1 + ch / 64)) (ch % 64) then d1
  else setReg 0x2903 (1 + ch / 64) (cfg d 0x2903 (1 + ch / 64) + 2 ^ (ch % 64)) d1

theorem flag_default (w : Nat) : odDefault (odKey 0x2903 (1 + w)) = .num 0 ∨ 4 ≤ w := by
  by_cases h : w < 4
  · left
    interval_cases w <;> rfl
  · exact .inr (Nat.not_lt.1 h)

theorem failureShown_leaves (hlt : ch < 256) (kind : Nat) (y : CheckCh) (d : Dev) :
    RegsFramed [(0x2902, 3), (0x2903, 1 + ch / 64)] d (failureShown ch kind y d) ∧
    (failureShown ch kind y d).chk = (setChk ch { y with kind := kind, run := 0, state := .invalid } d).chk ∧
    cfg (failureShown ch kind y d) 0x2902 3 = min 0xFFFFFFFF (cfg d 0x2902 3 + 1) ∧
    bitOf (cfg (failureShown ch kind y d) 0x2903 (1 + ch / 64)) (ch % 64) = true := by
  have hkey : odKey 0x2902 3 ≠ odKey 0x2903 (1 + ch / 64) := by unfold odKey; omega
  have hnoted : RegsFramed [(0x2902, 3), (0x2903, 1 + ch / 64)] d
      (countEv 0x031 ch 0 1 (bump 0x2902 3 (setChk ch { y with kind := kind, run := 0, state := .invalid } d))) :=
    (((RegsFramed.of_same rfl).bump 0x2902 3 (by simp) : RegsFramed _ d (bump 0x2902 3 (setChk ch { y with
      kind := kind, run := 0, state := .invalid } d)))).trans (.of_same rfl)
  have hcount : cfg (countEv 0x031 ch 0 1 (bump 0x2902 3 (setChk ch { y with kind := kind, run := 0, state := .invalid } d))) 0x2902 3 =
      min 0xFFFFFFFF (cfg d 0x2902 3 + 1) := cfg_bump_self 0x2902 3 (setChk ch _ d) rfl
  have hword : cfg (countEv 0x031 ch 0 1 (bump 0x2902 3 (setChk ch { y with kind := kind, run := 0, state := .invalid } d))) 0x2903 (1 + ch / 64) =
      cfg d 0x2903 (1 + ch / 64) := cfg_bump_ne _ _ _ _ (setChk ch _ d) hkey.symm
  unfold failureShown
  dsimp only
  by_cases hset : bitOf (cfg d 0x2903 (1 + ch / 64)) (ch % 64) = true
  · rw [if_pos hset]
    exact ⟨hnoted, rfl, hcount, by rw [hword]; exact hset⟩
  · rw [if_neg hset]
    refine ⟨hnoted.setReg _ _ _ (by simp), rfl, (cfg_setReg_ne _ _ _ _ _ _ hkey).trans hcount, ?_⟩
    rw [cfg_setReg_self]
    · exact bitOf_add_pow (Bool.not_eq_true _ ▸ hset)
    · rw [(flag_default (ch / 64)).resolve_right (by omega)]
      have hpos : 0 < 2 ^ (ch % 64) := Nat.two_pow_pos _
      intro h
      injection h with h
      omega

/-- The channel with the count of its failure. -/
def failureCounted (kind : Nat) (x : CheckCh) : CheckCh :=
  match kind with
  | 1 => { x with crc := satInc x.crc }
  | 2 => { x with repeats := satInc x.repeats }
  | 3 => { x with skips := satInc x.skips }
  | 4 => { x with expectedFails := satInc x.expectedFails }
  | _ => { x with lengths := satInc x.lengths }

theorem failureCounted_last (kind : Nat) (x : CheckCh) : (failureCounted kind x).last = x.last := by
  unfold failureCounted
  split <;> rfl

theorem flagCheck_eq (ch kind : Nat) (d : Dev) : flagCheck ch kind d =
    if (chkOf d ch).state = .valid then raiseP evCheckInvalid ch [BitVec.ofNat 8 ch, BitVec.ofNat 8 kind]
      (onlyIf (!bitOf (cfg d 0x2903 (1 + ch / 64)) (ch % 64) && cfgB d 0x2900 2) (setInt 5) (failureShown ch kind (failureCounted kind (chkOf d ch)) d))
    else onlyIf (!bitOf (cfg d 0x2903 (1 + ch / 64)) (ch % 64) && cfgB d 0x2900 2) (setInt 5) (failureShown ch kind (failureCounted kind (chkOf d ch)) d) :=
  rfl

/-- What a frame that fails leaves (R361). -/
structure FrameFailed (ch kind last : Nat) (a d : Dev) : Prop where
  regs : RegsFramed ([(0x2902, 1), (0x2902, 5), (0x2902, 3), (0x2903, 1 + ch / 64)] ++ eventCounters) a d
  counted : cfg d 0x2902 1 = min 0xFFFFFFFF (cfg a 0x2902 1 + 1)
  failed : cfg d 0x2902 3 = min 0xFFFFFFFF (cfg a 0x2902 3 + 1)
  state : (chkOf d ch).state = .invalid
  run : (chkOf d ch).run = 0
  kind : (chkOf d ch).kind = kind
  last : (chkOf d ch).last = last
  flag : bitOf (cfg d 0x2903 (1 + ch / 64)) (ch % 64) = true

theorem checkJudged_fail (hlt : ch < 256) (hon : (chkOf d ch).state ≠ .off) (r : CheckRec) {kind : Nat} (hk : kind ≠ 0) (last lost : Nat) :
    FrameFailed ch kind last d (checkJudged ch r kind last lost d) := by
  rw [checkJudged, if_neg hk, flagCheck_eq]
  have hlast : (chkOf (noteChecked ch r last lost d) ch).last = last := by rw [chkOf_noteChecked hon]
  have hregs := noteChecked_regs (ch := ch) r last lost d
  have hcount := noteChecked_counts (ch := ch) r last lost d
  have h3 : cfg (noteChecked ch r last lost d) 0x2902 3 = cfg d 0x2902 3 := noteChecked_cfg r last lost d (by decide) (by decide)
  generalize noteChecked ch r last lost d = n at *
  obtain ⟨hshown, hchk, hfail, hflag⟩ := failureShown_leaves hlt kind (failureCounted kind (chkOf n ch)) n
  generalize hf : failureShown ch kind (failureCounted kind (chkOf n ch)) n = f at *
  generalize (!bitOf (cfg n 0x2903 (1 + ch / 64)) (ch % 64) && cfgB n 0x2900 2) = int
  have hint : RegsFramed eventCounters f (onlyIf int (setInt 5) f) ∧ (onlyIf int (setInt 5) f).chk = f.chk := by
    unfold onlyIf
    split
    · exact ⟨(setInt_recordsOnly 5 f).1, setInt_chk 5 f⟩
    · exact ⟨.refl _ _, rfl⟩
  generalize onlyIf int (setInt 5) f = g at *
  have hlast' : RegsFramed eventCounters f (if (chkOf n ch).state = .valid then
        raiseP evCheckInvalid ch [BitVec.ofNat 8 ch, BitVec.ofNat 8 kind] g else g) ∧
      (if (chkOf n ch).state = .valid then raiseP evCheckInvalid ch [BitVec.ofNat 8 ch, BitVec.ofNat 8 kind] g else g).chk = f.chk := by
    split
    · exact ⟨hint.1.trans (raiseP_regs _ _ _ _), (raiseP_chk _ _ _ _).trans hint.2⟩
    · exact hint
  generalize (if (chkOf n ch).state = .valid then raiseP evCheckInvalid ch [BitVec.ofNat 8 ch, BitVec.ofNat 8 kind] g else g) = z at *
  obtain ⟨hz, hzchk⟩ := hlast'
  have hself : chkOf z ch = { failureCounted kind (chkOf n ch) with kind := kind, run := 0, state := .invalid } :=
    (chkOf_of_chk (hzchk.trans hchk) ch).trans (chkOf_setChk_self (by simp) n)
  have hsub : ∀ sub, sub < 256 → ∀ r ∈ eventCounters, odKey r.1 r.2 ≠ odKey 0x2903 sub := fun sub hs r hr e => by
    have := eventCounters_high r hr
    unfold odKey at *
    omega
  refine ⟨?_, ?_, ?_, by rw [hself], by rw [hself], by rw [hself], by rw [hself]; exact (failureCounted_last _ _).trans hlast, ?_⟩
  · refine (hregs.mono ?_).trans ((hshown.mono ?_).trans (hz.mono fun _ => List.mem_append_right _)) <;> simp
  · rw [hz.cfg 0x2902 1 (by decide), hshown.cfg 0x2902 1 (by simp [odKey]; omega), hcount]
  · rw [hz.cfg 0x2902 3 (by decide), hfail, h3]
  · rw [hz.cfg _ _ (hsub _ (by omega))]
    exact hflag

end judged

/-! ### Handing a telegram on (R329, R332, R357) -/

/-- Of the entries a send counts protected frames only, and it leaves the telegrams as they were. -/
def SendsProtected (a b : Dev) : Prop := RegsFramed [(0x2902, 2)] a b ∧ b.gw.telegrams = a.gw.telegrams

section sends

variable {a b d : Dev}

theorem SendsProtected.of_eq (hd : b.dict = a.dict) (ht : b.gw.telegrams = a.gw.telegrams) : SendsProtected a b :=
  ⟨.of_same (congrArg DictS.od hd), ht⟩

theorem SendsProtected.trans (h1 : SendsProtected a b) (h2 : SendsProtected b d) : SendsProtected a d :=
  ⟨h1.1.trans h2.1, h2.2.trans h1.2⟩

theorem SendsProtected.ite {p : Prop} [Decidable p] (hb : SendsProtected a b) (hd : SendsProtected a d) : SendsProtected a (if p then b else d) := by
  split
  exacts [hb, hd]

theorem protectAt_sends (telegram : Bool) (ctl unit : Nat) (again : Bool) (bs : List Byte) (d : Dev) :
    SendsProtected d (protectAt telegram ctl unit again bs d).2 := by
  unfold protectAt
  split
  · exact .of_eq rfl rfl
  · exact .ite (.of_eq rfl rfl) ⟨(RegsFramed.of_same rfl).bump _ _ (by decide), rfl⟩

theorem gwSendNow_sends (c : CanId) (o : Nat) (d : Dev) : SendsProtected d (gwSendNow c o d) :=
  .ite ((protectAt_sends _ _ _ _ _ d).trans (.of_eq rfl rfl)) (.of_eq rfl rfl)

theorem gwStage_sends (c : CanId) (o : Nat) (data : List Byte) (d : Dev) : SendsProtected d (gwStage c o data d) :=
  .ite (.trans (.of_eq rfl rfl) (gwSendNow_sends c o _)) (.of_eq rfl rfl)

theorem forEach_sends {α : Type} {f : α → Dev → Dev} (hf : ∀ x d, SendsProtected d (f x d)) (l : List α) (d : Dev) :
    SendsProtected d (forEach l f d) := by
  induction l generalizing d with
  | nil => exact .of_eq rfl rfl
  | cons x l ih => exact (hf x d).trans (ih (f x d))

theorem gwToCan_sends (k : Nat) (write : SignalMap → List Byte → List Byte) (d : Dev) : SendsProtected d (gwToCan k write d) :=
  forEach_sends (fun _ d => gwStage_sends _ _ _ d) _ d

end sends

/-- The registers that handing telegram k on may write. -/
def handRegs (k : Fin 64) : List (Nat × Nat) := [(0x2840 + k.val, 0x0C), (0x2801, 2), (0x2902, 2)]

theorem handTelegram_handed (k : Fin 64) (p : TrdpMsg) (d e : Dev) :
    RegsFramed (handRegs k) e (handTelegram k p d (true, e)) ∧ ((handTelegram k p d (true, e)).gw.telegrams[k]).data = p.data := by
  unfold handTelegram
  rw [if_pos rfl]
  obtain ⟨hregs, htele⟩ := gwToCan_sends k.val (fun sm bs => copyBits p.data sm.setBits sm.canBits bs)
    (bump 0x2801 2 (bump (0x2840 + k.val) 0x0C (onTele k (fun t => { t with
      data := p.data, timeout := some (d.now + tele d k 7 * msNs) }) e)))
  have hcount : RegsFramed (handRegs k) e (bump 0x2801 2 (bump (0x2840 + k.val) 0x0C (onTele k (fun t => { t with
      data := p.data, timeout := some (d.now + tele d k 7 * msNs) }) e))) :=
    (((RegsFramed.of_same rfl).bump (0x2840 + k.val) 0x0C (by simp [handRegs]) : RegsFramed _ e (bump (0x2840 + k.val) 0x0C (onTele k (fun t => { t with
      data := p.data, timeout := some (d.now + tele d k 7 * msNs) }) e)))).bump 0x2801 2 (by simp [handRegs])
  refine ⟨hcount.trans (hregs.mono (by simp [handRegs])), ?_⟩
  rw [htele]
  show ((vmod e.gw.telegrams k _)[k]).data = p.data
  unfold vmod
  rw [Fin.getElem_fin, Vector.getElem_set_self]

theorem handRegs_apart (k : Fin 64) {idx sub : Nat} (h : idx = 0x2902 ∧ sub ≠ 2 ∧ sub < 256 ∨ idx = 0x2903) :
    ∀ r ∈ handRegs k, odKey r.1 r.2 ≠ odKey idx sub := by
  have hk := k.isLt
  simp only [handRegs, List.mem_cons, List.not_mem_nil, or_false, forall_eq_or_imp, forall_eq]
  unfold odKey
  omega

/-! ### Telegrams, silence and flags -/

section telegrams

variable {s : State} {p : TrdpMsg} {k : Fin 64} {ch : Nat} {r : CheckRec} {kind last lost : Nat}

theorem exec_checkedTelegram (hgw : gwActive s.dev = true) (htype : p.msgType = 0x5064) (hacc : accepts s.dev p = some k)
    (hfor : checkFor s.dev false true 0 k.val = some (ch, r)) (hj : r.judge (chkOf s.dev ch) p.data = (kind, last, lost)) :
    exec (.pdTelegram p) s = s.does fun d => handTelegram k p d
      (handsOn r.block kind ((chkOf (checkJudged ch r kind last lost d) ch).state = .valid),
        onlyIf (!handsOn r.block kind ((chkOf (checkJudged ch r kind last lost d) ch).state = .valid)) (bump 0x2902 4)
          (checkJudged ch r kind last lost d)) := by
  rw [exec_pdTelegram_accepted hgw htype hacc]
  refine does_congr ?_
  have hfor' : checkFor s.found false true 0 k.val = some (ch, r) := hfor
  have hverify : verifyAt true 0 k.val p.data s.found = verifyFrame ch r p.data s.found := by simp only [verifyAt, hfor']
  rw [hverify, verifyFrame_eq (d := s.found) hj]

/-- A telegram that is handed on reaches its subscription and leaves its channel, its counters and its flag as they were judged. -/
theorem handed_leaves (hrole : (recordOf s.found ch).protects = false) {j : Dev} (hmem : j.dict.mem = s.found.dict.mem) :
    let d := handTelegram k p s.found (true, onlyIf (!true) (bump 0x2902 4) j)
    chkOf d ch = chkOf j ch ∧ (∀ sub, sub ≠ 2 → sub < 256 → cfg d 0x2902 sub = cfg j 0x2902 sub) ∧ (∀ sub, cfg d 0x2903 sub = cfg j 0x2903 sub) ∧
      (d.gw.telegrams[k]).data = p.data := by
  obtain ⟨hregs, hdata⟩ := handTelegram_handed k p s.found j
  have hkeep := handTelegram_keepsVerifying k p s.found (true, j)
  exact ⟨hkeep.2 ch (by rw [recordOf, hmem]; exact hrole), fun sub h2 hs => hregs.cfg _ _ (handRegs_apart k (.inl ⟨rfl, h2, hs⟩)),
    fun sub => hregs.cfg _ _ (handRegs_apart k (.inr rfl)), hdata⟩

/-- A telegram that is blocked counts as that and leaves everything else as it was judged. -/
theorem blocked_leaves (k : Fin 64) (p : TrdpMsg) (ch : Nat) (d j : Dev) :
    let e := handTelegram k p d (false, onlyIf (!false) (bump 0x2902 4) j)
    chkOf e ch = chkOf j ch ∧ (∀ sub, sub ≠ 4 → sub < 256 → cfg e 0x2902 sub = cfg j 0x2902 sub) ∧ (∀ sub, cfg e 0x2903 sub = cfg j 0x2903 sub) ∧
      cfg e 0x2902 4 = min 0xFFFFFFFF (cfg j 0x2902 4 + 1) ∧ e.gw = j.gw ∧ e.can = j.can := by
  refine ⟨rfl, fun sub h4 hs => cfg_bump_ne _ _ _ _ _ (by unfold odKey; omega), fun sub => cfg_bump_ne _ _ _ _ _ (by unfold odKey; omega),
    cfg_bump_self _ _ _ rfl, rfl, rfl⟩

theorem checkJudged_framed (ch : Nat) (r : CheckRec) (kind last lost : Nat) (d : Dev) :
    Framed [.out, .regs, .chk, .recd, .ints, .counters] d (checkJudged ch r kind last lost d) := by
  have hn : Framed [.out, .regs, .chk, .recd, .ints, .counters] d (noteChecked ch r last lost d) :=
    bumpBy_framed _ _ _ _ (by decide) (bump_framed _ _ _ (by decide) (setChk_framed _ _ _ (by decide) (.refl _ d)))
  unfold checkJudged
  split
  · exact passCheck_framed _ _ _ (fun _ h => h) hn
  · exact flagCheck_framed _ _ _ (fun _ h => h) hn

theorem telegram_passes (hgw : gwActive s.dev = true) (htype : p.msgType = 0x5064) (hacc : accepts s.dev p = some k)
    (hfor : checkFor s.dev false true 0 k.val = some (ch, r)) (hj : r.judge (chkOf s.dev ch) p.data = (0, last, lost)) :
    Completes (.pdTelegram p) s fun d => ∃ j, FramePassed ch r (chkOf s.dev ch) last s.dev j ∧ chkOf d ch = chkOf j ch ∧
      cfg d 0x2902 1 = cfg j 0x2902 1 ∧ cfg d 0x2902 6 = cfg j 0x2902 6 ∧
      ((chkOf j ch).state = .valid → (d.gw.telegrams[k]).data = p.data ∧ cfg d 0x2902 4 = cfg j 0x2902 4) ∧
      (r.block = 2 → (chkOf j ch).state = .invalid → d.gw = s.dev.gw ∧ cfg d 0x2902 4 = min 0xFFFFFFFF (cfg j 0x2902 4 + 1)) := by
  obtain ⟨hrec, hrole, hon⟩ := checkFor_eq_some hfor
  refine completes_of_exec (exec_checkedTelegram hgw htype hacc hfor hj) ?_
  have hpass : FramePassed ch r (chkOf s.dev ch) last s.found (checkJudged ch r 0 last lost s.found) :=
    checkJudged_pass (d := s.found) rfl hon r last lost
  have hframe := checkJudged_framed ch r 0 last lost s.found
  generalize checkJudged ch r 0 last lost s.found = j at *
  have hpass : FramePassed ch r (chkOf s.dev ch) last s.dev j :=
    ⟨hpass.passed, hpass.last, hpass.regs, hpass.counted, hpass.waits, hpass.valid, hpass.returns⟩
  refine ⟨j, hpass, ?_⟩
  cases hgo : handsOn r.block 0 ((chkOf j ch).state = .valid) with
  | true =>
    obtain ⟨hch, hcount, hflag, hdata⟩ := handed_leaves (p := p) (k := k) (s := s) (ch := ch) ((congrArg CheckRec.protects hrec).trans hrole)
      (hframe.same .tables (by decide))
    refine ⟨hch, hcount 1 (by decide) (by decide), hcount 6 (by decide) (by decide), fun _ => ⟨hdata, hcount 4 (by decide) (by decide)⟩,
      fun hblock hinv => ?_⟩
    rw [hblock, hinv] at hgo
    exact absurd hgo (by decide)
  | false =>
    obtain ⟨hch, hcount, hflag, hblocked, hgw', -⟩ := blocked_leaves k p ch s.found j
    refine ⟨hch, hcount 1 (by decide) (by decide), hcount 6 (by decide) (by decide), fun hvalid => ?_,
      fun _ _ => ⟨hgw'.trans (hframe.same .gw (by decide)), hblocked⟩⟩
    rw [hvalid] at hgo
    unfold handsOn at hgo
    split at hgo <;> exact absurd hgo (by decide)

theorem telegram_fails (hgw : gwActive s.dev = true) (htype : p.msgType = 0x5064) (hacc : accepts s.dev p = some k)
    (hfor : checkFor s.dev false true 0 k.val = some (ch, r)) (hj : r.judge (chkOf s.dev ch) p.data = (kind, last, lost)) (hk : kind ≠ 0) :
    Completes (.pdTelegram p) s fun d => ∃ j, FrameFailed ch kind last s.dev j ∧ chkOf d ch = chkOf j ch ∧
      cfg d 0x2902 1 = cfg j 0x2902 1 ∧ cfg d 0x2902 3 = cfg j 0x2902 3 ∧ (∀ sub, cfg d 0x2903 sub = cfg j 0x2903 sub) ∧
      (r.block = 0 → (d.gw.telegrams[k]).data = p.data) ∧
      (r.block ≠ 0 → d.gw = s.dev.gw ∧ d.can = s.dev.can ∧ cfg d 0x2902 4 = min 0xFFFFFFFF (cfg j 0x2902 4 + 1)) := by
  obtain ⟨hrec, hrole, hon⟩ := checkFor_eq_some hfor
  refine completes_of_exec (exec_checkedTelegram hgw htype hacc hfor hj) ?_
  have hfail : FrameFailed ch kind last s.found (checkJudged ch r kind last lost s.found) :=
    checkJudged_fail (d := s.found) (checkFor_lt hfor) hon r hk last lost
  have hframe := checkJudged_framed ch r kind last lost s.found
  generalize checkJudged ch r kind last lost s.found = j at *
  refine ⟨j, ⟨hfail.regs, hfail.counted, hfail.failed, hfail.state, hfail.run, hfail.kind, hfail.last, hfail.flag⟩, ?_⟩
  by_cases hblock : r.block = 0
  · rw [show handsOn r.block kind ((chkOf j ch).state = .valid) = true by rw [hblock]; rfl]
    obtain ⟨hch, hcount, hflag, hdata⟩ := handed_leaves (p := p) (k := k) (s := s) (ch := ch) ((congrArg CheckRec.protects hrec).trans hrole)
      (hframe.same .tables (by decide))
    exact ⟨hch, hcount 1 (by decide) (by decide), hcount 3 (by decide) (by decide), hflag, fun _ => hdata, fun h => absurd hblock h⟩
  · have hgo : handsOn r.block kind ((chkOf j ch).state = .valid) = false := by
      unfold handsOn
      split
      · next h => exact absurd h hblock
      · exact decide_eq_false hk
      · rw [decide_eq_false hk, Bool.false_and]
    rw [hgo]
    obtain ⟨hch, hcount, hflag, hblocked, hgw', hcan⟩ := blocked_leaves k p ch s.found j
    exact ⟨hch, hcount 1 (by decide) (by decide), hcount 3 (by decide) (by decide), hflag, fun h => absurd h hblock,
      fun _ => ⟨hgw'.trans (hframe.same .gw (by decide)), hcan.trans (hframe.same .can (by decide)), hblocked⟩⟩

end telegrams

theorem silence_ends {s : State} {ch : Fin 256} {t : Nat} (ht : (chkOf s.dev ch.val).silence = some t) : Completes (.silenceReset ch) s fun d =>
    d.now = max s.dev.now t ∧ chkOf d ch.val = { chkOf s.dev ch.val with state := .initial, silence := none } ∧
      (∀ k : Nat, k ≠ ch.val → chkOf d k = chkOf s.dev k) ∧ Framed [.clock, .chk, .counters] s.found d := by
  have hrun : exec (.silenceReset ch) s = s.does fun d => setChk ch.val { chkOf (arrive t d) ch.val with
      state := .initial, silence := none } (arrive t d) := by
    show execSilenceReset ch s = _
    unfold execSilenceReset
    refine does_congr ?_
    have ht : (chkOf s.found ch.val).silence = some t := ht
    dsimp only
    rw [ht]
  refine completes_of_exec hrun ?_
  have hchk : ∀ k, chkOf (arrive t s.found) k = chkOf s.dev k := chkOf_of_chk (arrive_chk t s.found)
  refine ⟨arrive_now t s.found, ?_, fun k hk => ?_, ?_⟩
  · rw [chkOf_setChk_self (by simp), hchk]
  · rw [chkOf_setChk_other hk, hchk]
  · exact setChk_framed _ _ _ (by decide) (arrive_framed _ _ (by decide) (.refl _ _))

theorem silence_quiet {s : State} {ch : Fin 256} (ht : (chkOf s.dev ch.val).silence = none) : Completes (.silenceReset ch) s fun d => d = s.found := by
  have hrun : exec (.silenceReset ch) s = s.does fun d => d := by
    show execSilenceReset ch s = _
    unfold execSilenceReset
    refine does_congr ?_
    have ht : (chkOf s.found ch.val).silence = none := ht
    dsimp only
    rw [ht]
  exact completes_of_exec hrun rfl

/-- The word of flags left after some are cleared. -/
def flagsCleared (w v : Nat) : Nat := Nat.xor w (Nat.land w v)

theorem bitOf_testBit (w i : Nat) : bitOf w i = w.testBit i := by rw [bitOf, Nat.testBit_eq_decide_div_mod_eq]

theorem bitOf_flagsCleared (w : Nat) (v : BitVec 64) (i : Nat) : bitOf (flagsCleared w v.toNat) i = (bitOf w i && !v.getLsbD i) := by
  rw [bitOf_testBit, bitOf_testBit, BitVec.getLsbD]
  show (w ^^^ (w &&& v.toNat)).testBit i = _
  rw [Nat.testBit_xor, Nat.testBit_and]
  cases w.testBit i <;> cases v.toNat.testBit i <;> rfl

theorem rowOf_flags : ∀ w : Fin 4, rowOf 0x2903 (1 + w.val) = some ⟨0x2903, 1, 1, 0x01, 4, .u64, 0x1333, .n 0, .vol, true, false, .any⟩ := by
  decide +kernel

theorem actOn_flags (src : Src) (sub : Nat) (data : List Byte) (role n : Nat) (d : Dev) :
    actOn (writeOf src 0x2903 sub 0 data) role (.num n) d = .done (setReg 0x2903 sub (flagsCleared (cfg d 0x2903 sub) n) d) := by
  simp [actOn, fieldAct, writeOf, Value.toNat, flagsCleared]

theorem flags_clear {s : State} {src : Src} {word : Fin 4} {value : BitVec 64} (hs : Served s.dev src) (hm : MayWrite s.dev src 0x2903 (1 + word.val)) :
    Completes (.mismatchFlagClear src word value) s (ActsAtOnce s src 0x2903 (1 + word.val)
      (setReg 0x2903 (1 + word.val) (flagsCleared (cfg s.dev 0x2903 (1 + word.val)) value.toNat))) := by
  have hw := word.isLt
  refine completes_num (c := .mismatchFlagClear src word value) rfl hs hm (rowOf_flags word) rfl value.isLt rfl rfl (by omega) rfl (by omega) (by omega) fun a ha => ?_
  have hword : cfg (bump 0x2003 1 a) 0x2903 (1 + word.val) = cfg s.dev 0x2903 (1 + word.val) :=
    (cfg_bump_ne _ _ _ _ _ (by unfold odKey; omega)).trans (ha.pathOnly.cfg_free (by unfold PathFree; omega))
  rw [actOn_flags, hword]
  exact ha.acts (A := [.regs]) (setReg_framed _ _ _ _ (by decide) (.refl _ _)) (by decide) (by decide) _ _

/-- Settles O43: a judged telegram leaves its channel, its counts and its flag as the four checks say, also where it is handed on. -/
theorem checkChannelsJudgeFramesAndKeepTheirFlags : Obligations.CheckChannelsJudgeFramesAndKeepTheirFlags := by
  intro s
  refine ⟨fun p k ch r hgw htype hacc hfor => ⟨fun hk => ?_, fun hk => ?_⟩, fun ch => ⟨fun t => silence_ends, silence_quiet⟩,
    fun src word value hs hm => ⟨_, bitOf_flagsCleared _ value, flags_clear hs hm⟩⟩
  · refine Completes.mono (telegram_passes (last := (r.judge (chkOf s.dev ch) p.data).2.1) (lost := (r.judge (chkOf s.dev ch) p.data).2.2)
      hgw htype hacc hfor (Prod.ext hk rfl)) fun d ⟨j, hj, hch, h1, h6, hvalid, hblock⟩ => ?_
    have h4 : cfg j 0x2902 4 = cfg s.dev 0x2902 4 := hj.regs.cfg _ _ (by decide)
    rw [h4] at hvalid hblock
    dsimp only
    rw [hch, h1, h6]
    exact ⟨hj.counted, hj.passed, hj.last, fun hinv hrun => ⟨(hj.waits hinv hrun).1, (hj.waits hinv hrun).2, fun hb => hblock hb (hj.waits hinv hrun).1⟩,
      fun h => ⟨hj.valid h, hvalid (hj.valid h)⟩, hj.returns⟩
  · refine Completes.mono (telegram_fails hgw htype hacc hfor rfl hk) fun d ⟨j, hj, hch, h1, h3, hflag, hopen, hblock⟩ => ?_
    have hlt := checkFor_lt hfor
    have h4 : cfg j 0x2902 4 = cfg s.dev 0x2902 4 := hj.regs.cfg _ _ fun x hx e => by
      rcases List.mem_append.1 hx with hx | hx
      · simp only [List.mem_cons, List.not_mem_nil, or_false] at hx
        unfold odKey at e
        rcases hx with rfl | rfl | rfl | rfl <;> dsimp only at e <;> omega
      · have := eventCounters_high x hx
        unfold odKey at *
        omega
    rw [h4] at hblock
    dsimp only
    rw [hch, h1, h3, hflag]
    exact ⟨hj.counted, hj.failed, hj.state, hj.run, hj.kind, hj.last, hj.flag, hopen, hblock⟩

end Sys2Proof.Machine
end

section
/-! PROOF. Load channels: timers, pulses, restores and commands (R426 to R432, R434, R435, R438, R440). -/

namespace Sys2Proof.Machine

/-! ### Channels and links -/

section rules

variable {a b d : Dev}

@[simp] theorem onCh_self (k : Fin 32) (f : LoadCh → LoadCh) (d : Dev) : (onCh k f d).load.ch[k] = f d.load.ch[k] := by
  simp [onCh, vmod]

theorem onCh_ne {k j : Fin 32} (h : j ≠ k) (f : LoadCh → LoadCh) (d : Dev) : (onCh k f d).load.ch[j] = d.load.ch[j] := by
  show (d.load.ch.set k.val (f d.load.ch[k]))[j.val] = d.load.ch[j.val]
  exact Vector.getElem_set_ne _ _ fun e => h (Fin.ext e).symm

@[simp] theorem onComp_self (n : Fin 4) (f : Companion → Companion) (d : Dev) : (onComp n f d).load.comp[n] = f d.load.comp[n] := by
  simp [onComp, vmod]

theorem onComp_ne {n m : Fin 4} (h : m ≠ n) (f : Companion → Companion) (d : Dev) : (onComp n f d).load.comp[m] = d.load.comp[m] := by
  show (d.load.comp.set n.val (f d.load.comp[n]))[m.val] = d.load.comp[m.val]
  exact Vector.getElem_set_ne _ _ fun e => h (Fin.ext e).symm

theorem onCh_comp (k : Fin 32) (f : LoadCh → LoadCh) (d : Dev) : (onCh k f d).load.comp = d.load.comp := rfl

theorem onComp_ch (n : Fin 4) (f : Companion → Companion) (d : Dev) : (onComp n f d).load.ch = d.load.ch := rfl

theorem chCfg_of_dict (h : b.dict = a.dict) (k : Fin 32) (sub : Nat) : chCfg b k sub = chCfg a k sub := by
  rw [chCfg, cfg_of_dict h, chCfg]

/-- What the pulse generators make of a channel depends on the entries alone. -/
theorem pulsed_of_dict (h : b.dict = a.dict) (k : Fin 32) : pulsed b k = pulsed a k := by
  rw [pulsed, chCfg_of_dict h, pulsed]

theorem pulsed_of_ne {k : Fin 32} (h : chCfg d k 0x0A ≠ 0) : pulsed d k = true := by
  unfold pulsed
  simpa using h

theorem effPhase_of_cfg (h : ∀ k sub, chCfg b k sub = chCfg a k sub) (k : Fin 32) : effPhase b k = effPhase a k := by
  simp only [effPhase, spreadGroup, h]

theorem pulseLevel_of_cfg (h : ∀ k sub, chCfg b k sub = chCfg a k sub) (k : Fin 32) (t : Nat) : pulseLevel b k t = pulseLevel a k t := by
  simp only [pulseLevel, effPhase_of_cfg h, h]

theorem nextEdge_of_cfg (h : ∀ k sub, chCfg b k sub = chCfg a k sub) (k : Fin 32) (t : Nat) : nextEdge b k t = nextEdge a k t := by
  simp only [nextEdge, effPhase_of_cfg h, h]

theorem levelAllows_of (hd : b.dict = a.dict) (ht : b.time = a.time) (k : Fin 32) : levelAllows b k = levelAllows a k := by
  unfold levelAllows trainTime
  rw [pulsed_of_dict hd, pulseLevel_of_cfg (chCfg_of_dict hd), ht]

end rules

/-! ### Transfers -/

/-- A transfer that is asked for leaves the channels as they were but for inrush windows that begin, and the links in their
states. -/
structure Transferred (a b : Dev) : Prop where
  dict : b.dict = a.dict
  time : b.time = a.time
  clock : b.now = a.now
  off : ∀ k : Fin 32, a.load.ch[k].state ≠ .inrush → b.load.ch[k] = a.load.ch[k]
  window : ∀ k : Fin 32, ∃ w, b.load.ch[k] = { a.load.ch[k] with windowEnd := w }
  link : ∀ n : Fin 4, b.load.comp[n].link = a.load.comp[n].link
  keep : ∀ n : Fin 4, b.load.comp[n].keep = a.load.comp[n].keep
  slot : ∀ n : Fin 4, b.load.comp[n].restoreAt = a.load.comp[n].restoreAt

section transfer

variable {a b d : Dev}

theorem Transferred.refl (d : Dev) : Transferred d d :=
  ⟨rfl, rfl, rfl, fun _ _ => rfl, fun _ => ⟨_, rfl⟩, fun _ => rfl, fun _ => rfl, fun _ => rfl⟩

theorem Transferred.trans (h1 : Transferred a b) (h2 : Transferred b d) : Transferred a d := by
  refine ⟨h2.dict.trans h1.dict, h2.time.trans h1.time, h2.clock.trans h1.clock, fun k hk => ?_, fun k => ?_, fun n => (h2.link n).trans (h1.link n),
    fun n => (h2.keep n).trans (h1.keep n), fun n => (h2.slot n).trans (h1.slot n)⟩
  · rw [h2.off k (by rw [h1.off k hk]; exact hk), h1.off k hk]
  · obtain ⟨v, hv⟩ := h1.window k
    obtain ⟨w, hw⟩ := h2.window k
    exact ⟨w, by rw [hw, hv]⟩

theorem Transferred.forEach {α : Type} {f : α → Dev → Dev} (hf : ∀ x d, Transferred d (f x d)) (l : List α) (d : Dev) :
    Transferred d (forEach l f d) := by
  induction l generalizing d with
  | nil => exact .refl d
  | cons x l ih => exact (hf x d).trans (ih (f x d))

/-- A link's own record moves, but for its state, the channels it holds on and its restore. -/
theorem onComp_transferred {n : Fin 4} {f : Companion → Companion} (hl : (f d.load.comp[n]).link = d.load.comp[n].link)
    (hk : (f d.load.comp[n]).keep = d.load.comp[n].keep) (hr : (f d.load.comp[n]).restoreAt = d.load.comp[n].restoreAt) :
    Transferred d (onComp n f d) := by
  have hall : ∀ {β : Type} (g : Companion → β), g (f d.load.comp[n]) = g d.load.comp[n] → ∀ m : Fin 4,
      g (onComp n f d).load.comp[m] = g d.load.comp[m] := fun g hg m => by
    by_cases hm : m = n
    · rw [hm, onComp_self, hg]
    · rw [onComp_ne hm]
  exact ⟨rfl, rfl, rfl, fun _ _ => rfl, fun _ => ⟨_, rfl⟩, hall _ hl, hall _ hk, hall _ hr⟩

/-- A channel that is to be switched on and has no window gets one. -/
theorem onCh_transferred (k : Fin 32) (w : LoadCh → Nat) (d : Dev) : Transferred d
    (onCh k (fun t => if t.state = .inrush && t.windowEnd.isNone then { t with windowEnd := some (w t) } else t) d) := by
  refine ⟨rfl, rfl, rfl, fun j hj => ?_, fun j => ?_, fun _ => rfl, fun _ => rfl, fun _ => rfl⟩
  · by_cases h : j = k
    · rw [h] at hj ⊢
      rw [onCh_self, if_neg (by rw [decide_eq_false hj]; simp)]
    · rw [onCh_ne h]
  · by_cases h : j = k
    · rw [h, onCh_self]
      split
      · exact ⟨_, rfl⟩
      · exact ⟨_, rfl⟩
    · exact ⟨_, onCh_ne h _ d⟩

theorem emit_transferred (o : Out) (d : Dev) : Transferred d (emit o d) :=
  ⟨rfl, rfl, rfl, fun _ _ => rfl, fun _ => ⟨_, rfl⟩, fun _ => rfl, fun _ => rfl, fun _ => rfl⟩

theorem duePolls_transferred (n : Fin 4) (d : Dev) : Transferred d (duePolls n d) := onComp_transferred rfl rfl rfl

theorem Transferred.state (h : Transferred a b) (k : Fin 32) : b.load.ch[k].state = a.load.ch[k].state := by
  obtain ⟨w, hw⟩ := h.window k
  rw [hw]

theorem Transferred.edge (h : Transferred a b) (k : Fin 32) : b.load.ch[k].edge = a.load.ch[k].edge := by
  obtain ⟨w, hw⟩ := h.window k
  rw [hw]

theorem Transferred.command (h : Transferred a b) (k : Fin 32) : b.load.ch[k].command = a.load.ch[k].command := by
  obtain ⟨w, hw⟩ := h.window k
  rw [hw]

theorem Transferred.levelAllows (h : Transferred a b) (k : Fin 32) : Machine.levelAllows b k = Machine.levelAllows a k :=
  levelAllows_of h.dict h.time k

theorem Transferred.outMask (h : Transferred a b) (n : Fin 4) : Machine.outMask b n = Machine.outMask a n := by
  unfold Machine.outMask
  dsimp only
  simp only [h.state, h.command, h.levelAllows, h.link, h.keep]

theorem Transferred.inrushMask (h : Transferred a b) (n : Fin 4) : Machine.inrushMask b n = Machine.inrushMask a n := by
  unfold Machine.inrushMask
  simp only [h.state]

/-- The device at the start of a transfer: the READs of the polls that have fallen due are known. -/
def polled (n : Fin 4) (d : Dev) : Dev :=
  match d.load.comp[n].link with
  | .running | .supplyLow => duePolls n d
  | _ => d

theorem polled_transferred (n : Fin 4) (d : Dev) : Transferred d (polled n d) := by
  unfold polled
  split
  · exact duePolls_transferred n d
  · exact duePolls_transferred n d
  · exact .refl d

/-- The inrush windows of the channels that a transfer switches on begin at its end. -/
def windowsBegun (stop : Nat) (n : Fin 4) (d : Dev) : Dev :=
  forEach (chansOf n) (fun k d =>
    onCh k (fun t => if t.state = .inrush && t.windowEnd.isNone then { t with windowEnd := some (stop + chCfg d k 5 * msNs) } else t) d) d

/-- The link's record while a transfer runs. -/
def inTransfer (kind sel seq start : Nat) (c : Companion) : Companion := { c with
  seq := seq
  inFlight := some { read := if kind = 3 then some (sel / 8, sel % 8) else none, config := kind = 2, start := start, good := none }
  again := false, againShort := false, gapDue := none, retryAt := none }

/-- The transfer of kind `x.1`, with selection and value after it. -/
def transferSent (x : Nat × Nat × Nat) (n : Fin 4) (d : Dev) : Dev :=
  emit (.transfer n.val (commandFrame x.1 ((d.load.comp[n].seq + 1) % 16) (outMask d n) (inrushMask d n) x.2.1 x.2.2) (x.1 = 3))
    (onComp n (inTransfer x.1 x.2.1 ((d.load.comp[n].seq + 1) % 16) d.now) (windowsBegun (d.now + transferNs (x.1 = 3)) n d))

theorem startTransfer_eq (short : Bool) (n : Fin 4) (d : Dev) :
    startTransfer short n d = transferSent (nextKind short (polled n d).load.comp[n]) n (polled n d) := rfl

/-- A transfer carries the command of its kind with the masks of the channels. -/
theorem transferSent_leaves (x : Nat × Nat × Nat) (n : Fin 4) (d : Dev) :
    Transferred d (transferSent x n d) ∧ SendsTransfer (transferSent x n d) n x.1 x.2.1 x.2.2 := by
  have hwin : Transferred d (windowsBegun (d.now + transferNs (x.1 = 3)) n d) :=
    .forEach (fun k d' => onCh_transferred k (fun _ => d.now + transferNs (x.1 = 3) + chCfg d' k 5 * msNs) d') _ d
  have hall : Transferred d (transferSent x n d) := (hwin.trans (onComp_transferred rfl rfl rfl)).trans (emit_transferred _ _)
  refine ⟨hall, (d.load.comp[n].seq + 1) % 16, ?_⟩
  rw [hall.outMask, hall.inrushMask]
  exact emit_mem _ _

theorem startTransfer_leaves (short : Bool) (n : Fin 4) (d : Dev) : Transferred d (startTransfer short n d) ∧
    SendsTransfer (startTransfer short n d) n (nextKind short (polled n d).load.comp[n]).1 (nextKind short (polled n d).load.comp[n]).2.1
      (nextKind short (polled n d).load.comp[n]).2.2 := by
  obtain ⟨hmove, hsends⟩ := transferSent_leaves (nextKind short (polled n d).load.comp[n]) n (polled n d)
  exact ⟨(polled_transferred n d).trans hmove, hsends⟩

theorem kick_transferred (short : Bool) (n : Fin 4) (d : Dev) : Transferred d (kick short n d) := by
  unfold kick
  dsimp only
  split
  · exact .refl d
  · split
    · exact onComp_transferred rfl rfl rfl
    · split
      · exact onComp_transferred rfl rfl rfl
      · exact (startTransfer_leaves short n d).1

theorem nextKind_short {c : Companion} (h : c.link = .running) : (nextKind true c).1 ≠ 3 := by
  unfold nextKind
  rw [h]
  dsimp only
  split <;> simp

/-- On a running link with nothing in flight a transfer that is asked for starts at once. -/
theorem kick_sends (short : Bool) {n : Fin 4} {d : Dev} (hl : d.load.comp[n].link = .running) (hf : d.load.comp[n].inFlight = none)
    (hfree : d.load.comp[n].freeAt ≤ d.now) :
    ∃ kind sel value, (short = true → kind ≠ 3) ∧ SendsTransfer (kick short n d) n kind sel value := by
  have hkick : kick short n d = startTransfer short n d := by
    unfold kick
    dsimp only
    rw [hl, hf, if_neg (by decide), if_neg (by decide), if_neg (Nat.not_lt.2 hfree)]
  rw [hkick]
  refine ⟨_, _, _, fun hs => ?_, (startTransfer_leaves short n d).2⟩
  rw [hs]
  exact nextKind_short (((polled_transferred n d).link n).trans hl)

end transfer

/-! ### Timers of a channel -/

theorem advance_later (ns : Nat) (d : Dev) : d.now ≤ (advance ns d).now := by
  exact Nat.le_add_right _ _

theorem arriveTrain_later (t : Nat) (d : Dev) : d.now ≤ (arriveTrain t d).now := by
  unfold arriveTrain
  generalize 8 = n
  induction n generalizing d with
  | zero => exact Nat.le_refl _
  | succ n ih =>
    unfold arriveTrainFuel
    split
    · exact Nat.le_refl _
    · exact (advance_later _ d).trans (ih _)

section timers

variable {s : State} {k : Fin 32} {e : Nat}

theorem window_ends (hst : s.dev.load.ch[k].state = .inrush) (he : s.dev.load.ch[k].windowEnd = some e) : Completes (.inrushWindowEnd k) s fun d =>
    d.now = max s.dev.now e ∧ d.load.ch[k] = { s.dev.load.ch[k] with state := .on } ∧
    (s.dev.load.comp[compOf k].link = .running → s.dev.load.comp[compOf k].inFlight = none → s.dev.load.comp[compOf k].freeAt ≤ s.dev.now →
      ∃ kind sel value, SendsTransfer d (compOf k) kind sel value) := by
  have hrun : exec (.inrushWindowEnd k) s = s.does fun d => kick false (compOf k) (onCh k (fun x => { x with state := .on }) (arrive e d)) := by
    show execInrushWindowEnd k s = _
    unfold execInrushWindowEnd
    refine does_congr ?_
    have hst : s.found.load.ch[k].state = .inrush := hst
    have he : s.found.load.ch[k].windowEnd = some e := he
    rw [hst, he]
  refine completes_of_exec hrun ?_
  have hm := kick_transferred false (compOf k) (onCh k (fun x => { x with state := .on }) (arrive e s.found))
  have hch : (onCh k (fun x => { x with state := .on }) (arrive e s.found)).load.ch[k] = { s.dev.load.ch[k] with state := .on } := by
    rw [onCh_self, arrive_load]
    rfl
  have hnow : (onCh k (fun x => { x with state := .on }) (arrive e s.found)).now = max s.dev.now e := arrive_now e s.found
  refine ⟨hm.clock.trans hnow, ?_, fun hl hf hfree => ?_⟩
  · rw [hm.off k (by rw [hch]; exact (nomatch ·)), hch]
  · have hcomp : (onCh k (fun x => { x with state := .on }) (arrive e s.found)).load.comp = s.dev.load.comp := by
      rw [onCh_comp, arrive_load]
      rfl
    obtain ⟨kind, sel, value, -, hs⟩ := kick_sends false (n := compOf k) (d := onCh k (fun x => { x with state := .on }) (arrive e s.found))
      (by rw [hcomp]; exact hl) (by rw [hcomp]; exact hf) (by rw [hcomp, hnow]; omega)
    exact ⟨kind, sel, value, hs⟩

/-- What a restart that falls due leaves (R428, R434, R438). -/
structure Restarted (k : Fin 32) (a d : Dev) : Prop where
  delay : d.load.ch[k].delayEnd = none
  latched : d.load.ch[k].latched = a.load.ch[k].latched
  runs : a.load.comp[compOf k].link = .running → a.load.ch[k].command = true →
    d.load.ch[k].state = if levelAllows d k then .inrush else .pulseGap
  waits : a.load.comp[compOf k].link ≠ .running → d.load.ch[k].state = a.load.ch[k].state ∧ d.load.ch[k].restartDue = true

theorem turnOn_ch (k : Fin 32) (d : Dev) : (turnOn k d).load.ch[k] = { leaveOn (if d.load.comp[compOf k].link = .running then .inrush else .supplyHold)
    d.load.ch[k] with delayEnd := none, restartDue := false } := onCh_self k _ d

theorem restartDue_restarts (k : Fin 32) (d : Dev) : Restarted k d (restartDue k d) := by
  unfold restartDue
  by_cases hl : d.load.comp[compOf k].link = .running
  · rw [if_pos hl]
    unfold restart
    by_cases hc : d.load.ch[k].command = true
    · rw [hc, if_neg (by decide)]
      by_cases hlevel : levelAllows d k = true
      · rw [if_pos hlevel]
        have hch := turnOn_ch k d
        rw [if_pos hl] at hch
        have hafter : levelAllows (turnOn k d) k = true := (levelAllows_of rfl rfl k).trans hlevel
        exact ⟨by rw [hch], by rw [hch]; rfl, fun _ _ => by rw [hch, if_pos hafter]; rfl, fun h => absurd hl h⟩
      · rw [if_neg hlevel]
        have hafter : levelAllows (onCh k (fun t => { leaveOn .pulseGap t with delayEnd := none, restartDue := false }) d) k = false :=
          (levelAllows_of rfl rfl k).trans (eq_false_of_ne_true hlevel)
        exact ⟨by rw [onCh_self], by rw [onCh_self]; rfl, fun _ _ => by rw [onCh_self, hafter]; rfl, fun h => absurd hl h⟩
    · rw [eq_false_of_ne_true hc, if_pos (by decide)]
      unfold refill
      exact ⟨by rw [onCh_self, onCh_self], by rw [onCh_self, onCh_self]; rfl, fun _ h => absurd h hc, fun h => absurd hl h⟩
  · rw [if_neg hl]
    exact ⟨by rw [onCh_self], by rw [onCh_self], fun h => absurd h hl, fun _ => ⟨by rw [onCh_self], by rw [onCh_self]⟩⟩

theorem Restarted.after {a b d : Dev} (h : Restarted k a b) (hm : Transferred b d) : Restarted k a d := by
  obtain ⟨w, hw⟩ := hm.window k
  refine ⟨by rw [hw]; exact h.delay, by rw [hw]; exact h.latched, fun hl hc => ?_, fun hl => ?_⟩
  · rw [hm.state, hm.levelAllows]
    exact h.runs hl hc
  · rw [hm.state, hw]
    exact h.waits hl

/-- The statement of a restart, for a device whose channel and link are those found. -/
theorem Restarted.found {a d : Dev} (h : Restarted k a d) (hch : a.load.ch[k].state = s.dev.load.ch[k].state)
    (hcmd : a.load.ch[k].command = s.dev.load.ch[k].command) (hl : a.load.comp[compOf k].link = s.dev.load.comp[compOf k].link) :
    d.load.ch[k].delayEnd = none ∧
      (s.dev.load.comp[compOf k].link = .running → s.dev.load.ch[k].command = true → d.load.ch[k].state = if levelAllows d k then .inrush else .pulseGap) ∧
      (s.dev.load.comp[compOf k].link ≠ .running → d.load.ch[k].state = s.dev.load.ch[k].state ∧ d.load.ch[k].restartDue = true) := by
  rw [← hch, ← hcmd, ← hl]
  exact ⟨h.delay, h.runs, h.waits⟩

theorem retryDelay_ends (hst : s.dev.load.ch[k].state = .retryWait) (he : s.dev.load.ch[k].delayEnd = some e) : Completes (.retryDelayEnd k) s fun d =>
    d.now = max s.dev.now e ∧ d.load.ch[k].delayEnd = none ∧
      (s.dev.load.comp[compOf k].link = .running → s.dev.load.ch[k].command = true → d.load.ch[k].state = if levelAllows d k then .inrush else .pulseGap) ∧
      (s.dev.load.comp[compOf k].link ≠ .running → d.load.ch[k].state = s.dev.load.ch[k].state ∧ d.load.ch[k].restartDue = true) := by
  have hrun : exec (.retryDelayEnd k) s = s.does fun d => kick false (compOf k) (restartDue k (arrive e d)) := by
    show execRetryDelayEnd k s = _
    unfold execRetryDelayEnd
    refine does_congr ?_
    have hst : s.found.load.ch[k].state = .retryWait := hst
    have he : s.found.load.ch[k].delayEnd = some e := he
    rw [hst, he]
  refine completes_of_exec hrun ?_
  have hm := kick_transferred false (compOf k) (restartDue k (arrive e s.found))
  have hframe : Framed [.load] (arrive e s.found) (restartDue k (arrive e s.found)) := restartDue_framed _ _ (by decide) (.refl _ _)
  have hload : (arrive e s.found).load = s.dev.load := arrive_load e s.found
  have hnow : (restartDue k (arrive e s.found)).now = (arrive e s.found).now :=
    congrArg Prod.fst (hframe.same .clock (by decide))
  exact ⟨hm.clock.trans (hnow.trans (arrive_now e s.found)), ((restartDue_restarts k (arrive e s.found)).after hm).found
    (by rw [hload]) (by rw [hload]) (by rw [hload])⟩

theorem refill_completes (he : s.dev.load.ch[k].refillAt = some e) : Completes (.retryRefill k) s fun d => d.now = max s.dev.now e ∧
    d.load.ch[k] = { s.dev.load.ch[k] with refillAt := none, retries := chCfg s.dev k 6 } ∧ Framed [.clock, .counters, .load] s.found d := by
  have hrun : exec (.retryRefill k) s = s.does fun d => refill k (onCh k (fun x => { x with refillAt := none }) (arrive e d)) := by
    show execRetryRefill k s = _
    unfold execRetryRefill
    refine does_congr ?_
    have he : s.found.load.ch[k].refillAt = some e := he
    rw [he]
  refine completes_of_exec hrun ⟨arrive_now e s.found, ?_, ?_⟩
  · have hcfg : chCfg (onCh k (fun x => { x with refillAt := none }) (arrive e s.found)) k 6 = chCfg s.dev k 6 :=
      chCfg_of_dict (arrive_dict e s.found) k 6
    unfold refill
    rw [onCh_self, onCh_self, hcfg, arrive_load]
    rfl
  · exact refill_framed _ _ (by decide) (onCh_framed _ _ _ (by decide) (arrive_framed _ _ (by decide) (.refl _ _)))

theorem clampBin_expires {b v : Nat} {rest : List (Nat × Nat)} (hb : s.dev.load.ch[k].bins = (b, v) :: rest) : Completes (.clampBinExpiry k) s fun d =>
    d.now = max s.dev.now ((b + 100) * (100 * msNs)) ∧ d.load.ch[k] = { s.dev.load.ch[k] with bins := rest } ∧
      Framed [.clock, .counters, .load] s.found d := by
  have hrun : exec (.clampBinExpiry k) s = s.does fun d => onCh k (fun t => { t with bins := t.bins.drop 1 }) (arrive ((b + 100) * (100 * msNs)) d) := by
    show execClampBinExpiry k s = _
    unfold execClampBinExpiry
    refine does_congr ?_
    have hb : s.found.load.ch[k].bins = (b, v) :: rest := hb
    rw [hb]
  refine completes_of_exec hrun ⟨arrive_now _ s.found, ?_, onCh_framed _ _ _ (by decide) (arrive_framed _ _ (by decide) (.refl _ _))⟩
  rw [onCh_self, arrive_load]
  show { s.dev.load.ch[k] with bins := s.dev.load.ch[k].bins.drop 1 } = _
  rw [hb]
  rfl

/-! ### The thermal latch -/

/-- The latch of a channel clears and its refill time starts again. -/
def latchCleared (k : Fin 32) (d : Dev) : Dev := startRefill k (raise evLatchReleased k.val (onCh k (fun t => { t with latched := false }) d))

theorem latchCleared_leaves (k : Fin 32) (d : Dev) : (∃ r, (latchCleared k d).load.ch[k] = { d.load.ch[k] with latched := false, refillAt := r }) ∧
    (latchCleared k d).load.comp = d.load.comp ∧ (latchCleared k d).now = d.now ∧ chCfg (latchCleared k d) k 6 = chCfg d k 6 := by
  have hraise : (raise evLatchReleased k.val (onCh k (fun t => { t with latched := false }) d)).load = (onCh k (fun t => { t with latched := false }) d).load :=
    raise_load _ _ _
  have hk := k.isLt
  unfold latchCleared startRefill
  refine ⟨⟨_, by rw [onCh_self, hraise, onCh_self]⟩, ?_, raise_now _ _ _, ?_⟩
  · rw [onCh_comp, hraise, onCh_comp]
  · exact (raise_regs evLatchReleased k.val (onCh k (fun t => { t with latched := false }) d)).cfg _ _ fun r hr => by
      have := eventCounters_high r hr
      unfold eventCounters at hr
      simp only [List.mem_cons, List.not_mem_nil, or_false] at hr
      rcases hr with rfl | rfl | rfl | rfl | rfl | rfl <;> unfold odKey <;> omega

theorem releaseLatch_eq (k : Fin 32) (d : Dev) : releaseLatch k d =
    if d.load.ch[k].state ≠ .thermalLatch then latchCleared k d
    else if !d.load.ch[k].command then refill k (onCh k (leaveOn .off) (latchCleared k d))
    else if d.load.ch[k].spentAtLatch then restartDue k (latchCleared k d)
    else onCh k (leaveOn .tripped) (latchCleared k d) := rfl

theorem latch_releases (hl : s.dev.load.ch[k].latched = true) (he : s.dev.load.ch[k].warmClearSince = some e) :
    Completes (.thermalLatchRelease k) s fun d => d.now = max s.dev.now (e + 100 * msNs) ∧ d.load.ch[k].latched = false ∧
      (s.dev.load.ch[k].state = .thermalLatch →
        (s.dev.load.ch[k].command = false → d.load.ch[k].state = .off ∧ d.load.ch[k].retries = chCfg s.dev k 6) ∧
        (s.dev.load.ch[k].command = true → s.dev.load.ch[k].spentAtLatch = true → d.load.ch[k].delayEnd = none ∧
          (s.dev.load.comp[compOf k].link = .running → s.dev.load.ch[k].command = true →
            d.load.ch[k].state = if levelAllows d k then .inrush else .pulseGap) ∧
          (s.dev.load.comp[compOf k].link ≠ .running → d.load.ch[k].state = s.dev.load.ch[k].state ∧ d.load.ch[k].restartDue = true)) ∧
        (s.dev.load.ch[k].command = true → s.dev.load.ch[k].spentAtLatch = false → d.load.ch[k].state = .tripped)) ∧
      (s.dev.load.ch[k].state ≠ .thermalLatch → d.load.ch[k].state = s.dev.load.ch[k].state) := by
  have hrun : exec (.thermalLatchRelease k) s = s.does fun d => kick false (compOf k) (releaseLatch k (arrive (e + 100 * msNs) d)) := by
    show execThermalLatchRelease k s = _
    unfold execThermalLatchRelease
    refine does_congr ?_
    have hl : s.found.load.ch[k].latched = true := hl
    have he : s.found.load.ch[k].warmClearSince = some e := he
    rw [hl, he]
  refine completes_of_exec hrun ?_
  have hnow : (arrive (e + 100 * msNs) s.found).now = max s.dev.now (e + 100 * msNs) := arrive_now _ s.found
  have hload : (arrive (e + 100 * msNs) s.found).load = s.dev.load := arrive_load _ s.found
  have hcfg : chCfg (arrive (e + 100 * msNs) s.found) k 6 = chCfg s.dev k 6 := chCfg_of_dict (arrive_dict _ s.found) k 6
  generalize arrive (e + 100 * msNs) s.found = a at *
  rw [releaseLatch_eq, hload]
  obtain ⟨⟨r, hch⟩, hcomp, hclock, hset⟩ := latchCleared_leaves k a
  rw [hload] at hch hcomp
  rw [hclock.symm] at hnow
  rw [hcfg] at hset
  generalize latchCleared k a = b at *
  by_cases hst : s.dev.load.ch[k].state = .thermalLatch
  · rw [if_neg (not_not_intro hst)]
    by_cases hc : s.dev.load.ch[k].command = true
    · rw [hc, if_neg (by decide)]
      by_cases hspent : s.dev.load.ch[k].spentAtLatch = true
      · rw [if_pos hspent]
        have hm := kick_transferred false (compOf k) (restartDue k b)
        have hres := (restartDue_restarts k b).after hm
        have hclock' : (restartDue k b).now = b.now :=
          congrArg Prod.fst (Framed.same (restartDue_framed (L := [.load]) k b (by decide) (.refl _ b)) .clock (by decide))
        refine ⟨hm.clock.trans (hclock'.trans hnow), by rw [hres.latched, hch], fun _ => ⟨(nomatch ·), fun _ _ => ?_, fun _ h => ?_⟩,
          fun h => absurd hst h⟩
        · have := hres.found (s := s) (by rw [hch]) (by rw [hch]) (by rw [hcomp])
          rwa [hc] at this
        · rw [hspent] at h
          exact nomatch h
      · rw [if_neg hspent]
        have hm := kick_transferred false (compOf k) (onCh k (leaveOn .tripped) b)
        have hself : (kick false (compOf k) (onCh k (leaveOn .tripped) b)).load.ch[k] = leaveOn .tripped b.load.ch[k] :=
          (hm.off k (by rw [onCh_self]; exact (nomatch ·))).trans (onCh_self _ _ _)
        exact ⟨hm.clock.trans hnow, by rw [hself, hch]; rfl, fun _ => ⟨(nomatch ·), fun _ h => absurd h hspent, fun _ _ => by rw [hself]; rfl⟩,
          fun h => absurd hst h⟩
    · rw [eq_false_of_ne_true hc, if_pos (by decide)]
      have hm := kick_transferred false (compOf k) (refill k (onCh k (leaveOn .off) b))
      have hret : chCfg (onCh k (leaveOn .off) b) k 6 = chCfg s.dev k 6 := hset
      have hoff : (refill k (onCh k (leaveOn .off) b)).load.ch[k] = { leaveOn .off b.load.ch[k] with retries := chCfg s.dev k 6 } := by
        unfold refill
        rw [onCh_self, onCh_self, hret]
      have hself := (hm.off k (by rw [hoff]; exact (nomatch ·))).trans hoff
      exact ⟨hm.clock.trans hnow, by rw [hself, hch]; rfl, fun _ => ⟨fun _ => ⟨by rw [hself]; rfl, by rw [hself]⟩, (nomatch ·), (nomatch ·)⟩,
        fun h => absurd hst h⟩
  · rw [if_pos hst]
    have hm := kick_transferred false (compOf k) b
    obtain ⟨w, hw⟩ := hm.window k
    exact ⟨hm.clock.trans hnow, by rw [hw, hch], fun h => absurd h hst, fun _ => by rw [hw, hch]⟩

/-! ### Pulse edges (R431, R432) -/

/-- A change of the device that leaves a channel, the links, the clock and the channels' settings as they were. -/
structure ChannelKept (k : Fin 32) (a b : Dev) : Prop where
  ch : b.load.ch[k] = a.load.ch[k]
  comp : b.load.comp = a.load.comp
  clock : b.now = a.now
  settings : ∀ j sub, chCfg b j sub = chCfg a j sub

theorem ChannelKept.trans {a b d : Dev} (h1 : ChannelKept k a b) (h2 : ChannelKept k b d) : ChannelKept k a d :=
  ⟨h2.ch.trans h1.ch, h2.comp.trans h1.comp, h2.clock.trans h1.clock, fun j sub => (h2.settings j sub).trans (h1.settings j sub)⟩

theorem onCh_channelKept {j : Fin 32} (h : k ≠ j) (f : LoadCh → LoadCh) (d : Dev) : ChannelKept k d (onCh j f d) :=
  ⟨onCh_ne h f d, rfl, rfl, fun _ _ => rfl⟩

theorem edgeAt_channelKept {j : Fin 32} (h : k ≠ j) (t : Nat) (d : Dev) : ChannelKept k d (edgeAt t j d) := by
  have hedge := onCh_channelKept h (fun x => { x with edge := t }) d
  unfold edgeAt turnOn
  dsimp only
  split
  · split
    · exact hedge.trans (onCh_channelKept h _ _)
    · exact hedge
  · split
    · exact hedge
    · exact hedge.trans (onCh_channelKept h _ _)
  · split
    · exact hedge
    · exact hedge.trans (onCh_channelKept h _ _)
  · exact hedge

theorem bumpLate_channelKept (late : Bool) (d : Dev) : ChannelKept k d (onlyIf late (bump 0x2C01 8) d) := by
  unfold onlyIf
  split
  · exact ⟨rfl, rfl, rfl, fun j sub => cfg_bump_ne _ _ _ _ _ (by unfold odKey; omega)⟩
  · exact ⟨rfl, rfl, rfl, fun _ _ => rfl⟩

/-- The edges of a companion that share a transfer take effect one after the other. -/
def edgesTaken (t : Nat) (l : List (Fin 32 × Nat)) (d : Dev) : Dev :=
  forEach l (fun (j, e) d => edgeAt e j (onlyIf (t < e) (bump 0x2C01 8) d)) d

theorem edgesTaken_channelKept (t : Nat) {l : List (Fin 32 × Nat)} (h : ∀ x ∈ l, k ≠ x.1) (d : Dev) : ChannelKept k d (edgesTaken t l d) := by
  induction l generalizing d with
  | nil => exact ⟨rfl, rfl, rfl, fun _ _ => rfl⟩
  | cons x l ih =>
    exact (bumpLate_channelKept _ d).trans ((edgeAt_channelKept (h x (List.mem_cons_self ..)) x.2 _).trans (ih (fun y hy => h y (List.mem_cons_of_mem _ hy)) _))

/-- What an edge leaves in its channel (R438). -/
structure EdgeTaken (k : Fin 32) (e : Nat) (a b : Dev) : Prop where
  edge : b.load.ch[k].edge = e
  gap : a.load.ch[k].state = .pulseGap → b.load.ch[k].state =
    if pulseLevel a k e then (if a.load.comp[compOf k].link = .running then .inrush else .supplyHold) else .pulseGap
  on : a.load.ch[k].state = .inrush ∨ a.load.ch[k].state = .on → b.load.ch[k].state = if pulseLevel a k e then a.load.ch[k].state else .pulseGap
  comp : b.load.comp = a.load.comp
  clock : b.now = a.now

theorem edgeAt_taken (k : Fin 32) (e : Nat) (d : Dev) : EdgeTaken k e d (edgeAt e k d) := by
  have hself := onCh_self k (fun x => { x with edge := e }) d
  unfold edgeAt
  dsimp only
  cases hst : d.load.ch[k].state with
  | pulseGap =>
    dsimp only
    by_cases hup : pulseLevel d k e = true
    · rw [hup, if_pos rfl]
      have hch := turnOn_ch k (onCh k (fun x => { x with edge := e }) d)
      exact ⟨by rw [hch, hself]; rfl, fun _ => by rw [hch, onCh_comp, hup]; rfl, fun h => h.elim (nomatch hst.symm.trans ·) (nomatch hst.symm.trans ·), rfl, rfl⟩
    · rw [if_neg hup]
      exact ⟨by rw [hself], fun _ => by rw [hself, if_neg hup]; exact hst, fun h => h.elim (nomatch hst.symm.trans ·) (nomatch hst.symm.trans ·), rfl, rfl⟩
  | inrush =>
    dsimp only
    by_cases hup : pulseLevel d k e = true
    · rw [if_pos hup]
      exact ⟨by rw [hself], fun h => (nomatch hst.symm.trans h), fun _ => by rw [hself, if_pos hup], rfl, rfl⟩
    · rw [if_neg hup]
      exact ⟨by rw [onCh_self, hself]; rfl, fun h => (nomatch hst.symm.trans h), fun _ => by rw [onCh_self, if_neg hup]; rfl, rfl, rfl⟩
  | on =>
    dsimp only
    by_cases hup : pulseLevel d k e = true
    · rw [if_pos hup]
      exact ⟨by rw [hself], fun h => (nomatch hst.symm.trans h), fun _ => by rw [hself, if_pos hup], rfl, rfl⟩
    · rw [if_neg hup]
      exact ⟨by rw [onCh_self, hself]; rfl, fun h => (nomatch hst.symm.trans h), fun _ => by rw [onCh_self, if_neg hup]; rfl, rfl, rfl⟩
  | off | retryWait | tripped | thermalLatch | locked | supplyHold =>
    exact ⟨by rw [hself], fun h => (nomatch hst.symm.trans h), fun h => h.elim (nomatch hst.symm.trans ·) (nomatch hst.symm.trans ·), rfl, rfl⟩

/-- The edges of a companion that share the transfer of an edge at `t` (R432). -/
def sharedEdges (t : Nat) (l : List (Fin 32)) (d : Dev) : List (Fin 32 × Nat) :=
  l.filterMap fun j =>
    if pulsed d j && d.load.ch[j].command then
      let e := nextEdge d j d.load.ch[j].edge
      if e < t + 7 * usNs then some (j, e) else none
    else none

theorem mem_sharedEdges {t : Nat} {l : List (Fin 32)} {d : Dev} {x : Fin 32 × Nat} (h : x ∈ sharedEdges t l d) : x.1 ∈ l := by
  obtain ⟨j, hj, hx⟩ := List.mem_filterMap.1 h
  split at hx
  · dsimp only at hx
    split at hx
    · obtain rfl := Option.some.inj hx
      exact hj
    · exact nomatch hx
  · exact nomatch hx

theorem chansOf_nodup : ∀ n : Fin 4, (chansOf n).Nodup := by decide

theorem mem_chansOf : ∀ k : Fin 32, k ∈ chansOf (compOf k) := by decide

theorem edgesTaken_append (t : Nat) (l m : List (Fin 32 × Nat)) (d : Dev) : edgesTaken t (l ++ m) d = edgesTaken t m (edgesTaken t l d) := by
  induction l generalizing d with
  | nil => rfl
  | cons x l ih => exact ih _

theorem EdgeTaken.between {a b c d : Dev} (h1 : ChannelKept k a b) (h : EdgeTaken k e b c) (h2 : ChannelKept k c d) : EdgeTaken k e a d := by
  have hlevel : pulseLevel b k e = pulseLevel a k e := pulseLevel_of_cfg h1.settings k e
  refine ⟨by rw [h2.ch]; exact h.edge, fun hst => ?_, fun hst => ?_, h2.comp.trans (h.comp.trans h1.comp), h2.clock.trans (h.clock.trans h1.clock)⟩
  · rw [h2.ch, h.gap (by rw [h1.ch]; exact hst), hlevel, h1.comp]
  · rw [h2.ch, h.on (by rw [h1.ch]; exact hst), hlevel, h1.ch]

/-- Of the edges that share a transfer a channel takes its own only. -/
theorem edgesTaken_self {d : Dev} (hp : pulsed d k = true) (hc : d.load.ch[k].command = true) :
    EdgeTaken k (nextEdge d k d.load.ch[k].edge) d (edgesTaken (nextEdge d k d.load.ch[k].edge)
      (sharedEdges (nextEdge d k d.load.ch[k].edge) (chansOf (compOf k)) d) d) := by
  obtain ⟨l, m, hlm⟩ := List.append_of_mem (mem_chansOf k)
  have hnodup := chansOf_nodup (compOf k)
  rw [hlm] at hnodup
  obtain ⟨-, hkm, hdisj⟩ := List.nodup_append.1 hnodup
  have hl : k ∉ l := fun h => hdisj k h k (List.mem_cons_self ..) rfl
  have hm : k ∉ m := (List.nodup_cons.1 hkm).1
  generalize ht : nextEdge d k d.load.ch[k].edge = t
  have hown : sharedEdges t [k] d = [(k, t)] := by
    have hin : t < t + 7 * usNs := Nat.lt_add_of_pos_right (by decide)
    unfold sharedEdges
    rw [List.filterMap_cons, hp, hc, ht]
    simp only [Bool.and_self, if_true, hin, List.filterMap_nil]
  have hsplit : sharedEdges t (chansOf (compOf k)) d = sharedEdges t l d ++ (sharedEdges t [k] d ++ sharedEdges t m d) := by
    rw [hlm]
    unfold sharedEdges
    rw [← List.filterMap_append, ← List.filterMap_append]
    rfl
  rw [hsplit, hown, edgesTaken_append, edgesTaken_append]
  have hbefore := edgesTaken_channelKept (k := k) t (l := sharedEdges t l d) (fun x hx he => hl (he ▸ mem_sharedEdges hx)) d
  have hafter := edgesTaken_channelKept (k := k) t (l := sharedEdges t m d) (fun x hx he => hm (he ▸ mem_sharedEdges hx))
    (edgesTaken t [(k, t)] (edgesTaken t (sharedEdges t l d) d))
  exact (edgeAt_taken k t _).between (hbefore.trans (bumpLate_channelKept _ _)) hafter

/-- The edge at `t` is taken with those that share its transfer. -/
def pulseEdgeTaken (k : Fin 32) (t : Nat) (d : Dev) : Dev :=
  kick true (compOf k) (edgesTaken t (sharedEdges t (chansOf (compOf k)) (arriveTrain (t - transferNs false) d)) (arriveTrain (t - transferNs false) d))

theorem execPulseEdge_eq (k : Fin 32) (s : State) : execPulseEdge k s = s.does fun d =>
    if !(pulsed d k && d.load.ch[k].command) then d else pulseEdgeTaken k (nextEdge d k d.load.ch[k].edge) d := by
  unfold execPulseEdge pulseEdgeTaken edgesTaken sharedEdges
  exact congrArg s.does (funext fun d => by dsimp only)

theorem pulse_edges (hp : chCfg s.dev k 0x0A ≠ 0) (hc : s.dev.load.ch[k].command = true) : Completes (.pulseEdge k) s fun d =>
    d.load.ch[k].edge = nextEdge s.dev k s.dev.load.ch[k].edge ∧
    (s.dev.load.ch[k].state = .pulseGap → d.load.ch[k].state = if pulseLevel s.dev k (nextEdge s.dev k s.dev.load.ch[k].edge) then
      (if s.dev.load.comp[compOf k].link = .running then .inrush else .supplyHold) else .pulseGap) ∧
    (s.dev.load.ch[k].state = .inrush ∨ s.dev.load.ch[k].state = .on → d.load.ch[k].state =
      if pulseLevel s.dev k (nextEdge s.dev k s.dev.load.ch[k].edge) then s.dev.load.ch[k].state else .pulseGap) ∧
    (s.dev.load.comp[compOf k].link = .running → s.dev.load.comp[compOf k].inFlight = none → s.dev.load.comp[compOf k].freeAt ≤ s.dev.now →
      ∃ kind sel value, kind ≠ 3 ∧ SendsTransfer d (compOf k) kind sel value) := by
  have hrun : exec (.pulseEdge k) s = s.does (pulseEdgeTaken k (nextEdge s.dev k s.dev.load.ch[k].edge)) := by
    show execPulseEdge k s = _
    rw [execPulseEdge_eq]
    refine does_congr ?_
    have hp : pulsed s.found k = true := (pulsed_of_dict (a := s.dev) rfl k).trans (pulsed_of_ne hp)
    have hload : s.found.load = s.dev.load := rfl
    have hedge : nextEdge s.found k s.dev.load.ch[k].edge = nextEdge s.dev k s.dev.load.ch[k].edge := nextEdge_of_cfg (chCfg_of_dict rfl) k _
    rw [hload, hp, hc, hedge, Bool.and_self, if_neg (by decide)]
  refine completes_of_exec hrun ?_
  unfold pulseEdgeTaken
  have hdict : (arriveTrain (nextEdge s.dev k s.dev.load.ch[k].edge - transferNs false) s.found).dict = s.dev.dict := arriveTrain_dict _ s.found
  have hload : (arriveTrain (nextEdge s.dev k s.dev.load.ch[k].edge - transferNs false) s.found).load = s.dev.load := arriveTrain_load _ s.found
  have hnow : s.dev.now ≤ (arriveTrain (nextEdge s.dev k s.dev.load.ch[k].edge - transferNs false) s.found).now := arriveTrain_later _ s.found
  generalize arriveTrain (nextEdge s.dev k s.dev.load.ch[k].edge - transferNs false) s.found = a at *
  have hedge : nextEdge a k a.load.ch[k].edge = nextEdge s.dev k s.dev.load.ch[k].edge := by
    rw [hload]
    exact nextEdge_of_cfg (chCfg_of_dict hdict) k _
  have htaken := edgesTaken_self (d := a) (k := k) ((pulsed_of_dict hdict k).trans (pulsed_of_ne hp)) (by rw [hload]; exact hc)
  rw [hedge] at htaken
  generalize edgesTaken (nextEdge s.dev k s.dev.load.ch[k].edge)
    (sharedEdges (nextEdge s.dev k s.dev.load.ch[k].edge) (chansOf (compOf k)) a) a = b at *
  have hlevel := pulseLevel_of_cfg (chCfg_of_dict hdict) k (nextEdge s.dev k s.dev.load.ch[k].edge)
  have hm := kick_transferred true (compOf k) b
  obtain ⟨hat, hgap, hon, hcomp, hclock⟩ := htaken
  rw [hload, hlevel] at hgap hon
  rw [hload] at hcomp
  refine ⟨(hm.edge k).trans hat, fun h => (hm.state k).trans (hgap h), fun h => (hm.state k).trans (hon h), fun hl hf hfree => ?_⟩
  · obtain ⟨kind, sel, value, hshort, hs⟩ := kick_sends true (n := compOf k) (d := b) (by rw [hcomp]; exact hl) (by rw [hcomp]; exact hf)
      (by rw [hcomp, hclock]; exact hfree.trans hnow)
    exact ⟨kind, sel, value, hshort rfl, hs⟩

/-! ### Restore slots (R435) -/

theorem restart_state {d : Dev} (hl : d.load.comp[compOf k].link = .running) : (restart k d).load.ch[k].state =
    if d.load.ch[k].command then if levelAllows d k then .inrush else .pulseGap else .off := by
  unfold restart
  by_cases hc : d.load.ch[k].command = true
  · rw [hc, if_neg (by decide), if_pos rfl]
    by_cases hlevel : levelAllows d k = true
    · rw [if_pos hlevel, if_pos hlevel, turnOn_ch, if_pos hl]
      rfl
    · rw [if_neg hlevel, if_neg hlevel, onCh_self]
      rfl
  · rw [eq_false_of_ne_true hc, if_pos (by decide), if_neg (by decide)]
    unfold refill
    rw [onCh_self, onCh_self]
    rfl

theorem restore_slot {rest : List (Fin 32)} (he : s.dev.load.comp[compOf k].restoreAt = some e) (hl : s.dev.load.comp[compOf k].link = .running)
    (hheld : (chansOf (compOf k)).filter (fun j => s.dev.load.ch[j].state = .supplyHold) = k :: rest) :
    Completes (.restoreSlot (compOf k)) s fun d => d.now = max s.dev.now e ∧
      d.load.ch[k].state = (if s.dev.load.ch[k].command then if levelAllows d k then .inrush else .pulseGap else .off) ∧
      (rest ≠ [] → d.load.comp[compOf k].restoreAt = some (d.now + msNs)) := by
  have hrun : exec (.restoreSlot (compOf k)) s = s.does fun d => kick false (compOf k) (onComp (compOf k) (fun c => { c with
      restoreAt := if (rest ++ (chansOf (compOf k)).filter (fun j => s.dev.load.ch[j].restartDue)).isEmpty then none
        else some ((arrive e d).now + msNs) }) (restart k (arrive e d))) := by
    show execRestoreSlot (compOf k) s = _
    unfold execRestoreSlot
    refine does_congr ?_
    have he : s.found.load.comp[compOf k].restoreAt = some e := he
    have hload : (arrive e s.found).load = s.dev.load := arrive_load e s.found
    rw [he]
    dsimp only
    rw [hload, hheld, List.cons_append]
  refine completes_of_exec hrun ?_
  have hload : (arrive e s.found).load = s.dev.load := arrive_load e s.found
  have hnow : (arrive e s.found).now = max s.dev.now e := arrive_now e s.found
  generalize arrive e s.found = a at *
  have hframe : Framed [.load] a (restart k a) := restart_framed _ _ (by decide) (.refl _ a)
  have hclock : (restart k a).now = a.now := congrArg Prod.fst (hframe.same .clock (by decide))
  have hstate := restart_state (k := k) (d := a) (by rw [hload]; exact hl)
  have hlevel : levelAllows (restart k a) k = levelAllows a k := by
    unfold restart turnOn refill
    split
    · exact levelAllows_of rfl rfl k
    · split
      · exact levelAllows_of rfl rfl k
      · exact levelAllows_of rfl rfl k
  generalize restart k a = b at *
  generalize hdue : (chansOf (compOf k)).filter (fun j => s.dev.load.ch[j].restartDue) = due
  have hm := kick_transferred false (compOf k) (onComp (compOf k) (fun c => { c with
      restoreAt := if (rest ++ due).isEmpty then none else some (a.now + msNs) }) b)
  refine ⟨hm.clock.trans (hclock.trans hnow), ?_, fun hrest => ?_⟩
  · rw [hm.state, hm.levelAllows, show levelAllows (onComp (compOf k) _ b) k = levelAllows b k from levelAllows_of rfl rfl k, hlevel]
    exact hstate.trans (by rw [hload])
  · rw [hm.slot, onComp_self, hm.clock]
    have hne : (rest ++ due).isEmpty = false := by simp [hrest]
    rw [hne, show (onComp (compOf k) _ b).now = b.now from rfl, hclock]
    rfl

end timers

/-! ### Commands and unlocks (R428, R430, R438, R440) -/

/-- A number that its entry does not take is refused. -/
theorem completes_num_refused {s : State} {src : Src} {c : Instr} {idx sub n v code : Nat} {row : EntryRow} (hc : exec c s = askNum src idx sub n v s)
    (hs : Served s.dev src) (hm : MayWrite s.dev src idx sub) (hrow : rowOf idx sub = some row) (hfix : row.ty.fixed = some n) (hv : v < 256 ^ n)
    (hval : valueError s.dev row idx sub (.num v) = some code) (hsub : sub < 256) (htab : isTable idx = false) :
    Completes c s (RefusedWith s src idx sub code) := by
  have hw := hm.of_row hrow
  refine completes_error hc hs (overlong_num src idx sub v (EntryType.fixed_le hfix)) hsub ?_
  have he : row.writeError (roleOf s.dev src) = none := by simp only [EntryRow.writeError, hw, if_true]
  have hlen := writeLength_num (idx := idx) (sub := sub) hfix hv s.dev
  simp only [checkWrite, findRow, hrow, he, hlen, htab, Bool.false_eq_true, if_false, Option.none_or, hval]

/-- What the agent's path leaves of the load channels. -/
structure SameLoads (a b : Dev) : Prop where
  load : b.load = a.load
  settings : ∀ j sub, chCfg b j sub = chCfg a j sub
  time : b.time = a.time

section commands

variable {s : State} {src : Src} {k : Fin 32}

theorem frameCounters_low : ∀ r ∈ allPorts.flatMap frameCounters, odKey r.1 r.2 < odKey 0x2700 0 := by decide +kernel

theorem Reached.sameLoads {a : Dev} (h : Reached src s.found a) : SameLoads s.dev (bump 0x2003 1 a) where
  load := h.pathOnly.same .load (by decide)
  settings j sub := (cfg_bump_ne _ _ _ _ _ (by unfold odKey; omega)).trans (h.pathOnly.cfg _ _ fun r hr => by
    have := frameCounters_low r hr
    unfold odKey at *
    omega)
  time := h.pathOnly.time

theorem rowOf_command : ∀ k : Fin 32, rowOf (0x2C20 + k.val) 1 = some ⟨0x2C20, 32, 1, 0x01, 1, .bool, 0x1333, .n 0, .vol, true, false, .any⟩ := by
  decide +kernel

theorem rowOf_unlock : ∀ n : Fin 4, rowOf (0x2C10 + n.val) 0x0A = some ⟨0x2C10, 4, 1, 0x0A, 1, .u8, 0x0022, .n 0, .vol, true, false, .any⟩ := by
  decide +kernel

theorem actOn_field {r : Req} (h1 : 0x2A05 ≤ r.idx) (h2 : r.idx < 0x2D00) (role : Nat) (v : Value) (d : Dev) : actOn r role v d = fieldAct r v d := by
  unfold actOn
  rw [if_neg (by omega), if_neg (by simp; omega), if_neg (by omega), if_pos h2]

theorem actOn_command (src : Src) (k : Fin 32) (data : List Byte) (role n : Nat) (d : Dev) : actOn (writeOf src (0x2C20 + k.val) 1 0 data) role (.num n) d =
    Act.when (!commandRefused d k (n ≠ 0)) (commandLoad k (n ≠ 0) d) := by
  have hk := k.isLt
  rw [actOn_field (by show 0x2A05 ≤ 0x2C20 + k.val; omega) (by show 0x2C20 + k.val < 0x2D00; omega)]
  have hfin : Fin.ofNat 32 (0x2C20 + k.val - 0x2C20) = k := Fin.ext (by show (0x2C20 + k.val - 0x2C20) % 32 = k.val; omega)
  have hne : ∀ x, x < 0x2C20 → 0x2C20 + k.val ≠ x := fun x hx => by omega
  have hin : 0x2C20 + k.val < 0x2C40 := by omega
  have hz : decide ((Value.num n).toNat ≠ 0) = decide (n ≠ 0) := rfl
  unfold fieldAct
  dsimp only [writeOf]
  rw [hz]
  generalize decide (n ≠ 0) = on
  simp [hne 0x2903 (by decide), hne 0x2A02 (by decide), hne 0x2A04 (by decide), hne 0x2B01 (by decide), hin]

theorem actOn_unlock (src : Src) (n : Fin 4) (data : List Byte) (role v : Nat) (d : Dev) : actOn (writeOf src (0x2C10 + n.val) 0x0A 0 data) role (.num v) d =
    Act.when (!unlockRefused d n v) (unlockLoads n v d) := by
  have hn := n.isLt
  rw [actOn_field (by show 0x2A05 ≤ 0x2C10 + n.val; omega) (by show 0x2C10 + n.val < 0x2D00; omega)]
  have hfin : Fin.ofNat 4 (0x2C10 + n.val - 0x2C10) = n := Fin.ext (by show (0x2C10 + n.val - 0x2C10) % 4 = n.val; omega)
  have hne : ∀ x, x < 0x2C10 → 0x2C10 + n.val ≠ x := fun x hx => by omega
  have hin : 0x2C10 + n.val < 0x2C14 := by omega
  simp [fieldAct, writeOf, Value.toNat, hne 0x2901 (by decide), hne 0x2903 (by decide), hne 0x2A04 (by decide), hin]

theorem SameLoads.commandRefused {a b : Dev} (h : SameLoads a b) (k : Fin 32) (v : Bool) : Machine.commandRefused b k v = Machine.commandRefused a k v := by
  unfold Machine.commandRefused
  rw [h.load]

theorem SameLoads.unlockRefused {a b : Dev} (h : SameLoads a b) (n : Fin 4) (v : Nat) : Machine.unlockRefused b n v = Machine.unlockRefused a n v := by
  unfold Machine.unlockRefused
  rw [h.load]

/-- A command of 0 or 1 comes to its act. -/
theorem command_completes {P : Dev → Prop} {v : BitVec 8} (hs : Served s.dev src) (hm : MayWrite s.dev src (0x2C20 + k.val) 1) (hv : v.toNat ≤ 1)
    (hP : ∀ a, Reached src s.found a → P (finishAct src (0x2C20 + k.val) 1 a (Act.when (!Machine.commandRefused s.dev k (v.toNat ≠ 0))
      (commandLoad k (v.toNat ≠ 0) (bump 0x2003 1 a))))) : Completes (.command src k v) s P := by
  have hk := k.isLt
  have hval : valueError s.dev ⟨0x2C20, 32, 1, 0x01, 1, .bool, 0x1333, .n 0, .vol, true, false, .any⟩ (0x2C20 + k.val) 1 (.num v.toNat) = none := by
    have hspecial : specialError s.dev (0x2C20 + k.val) 1 (.num v.toNat) = none := by
      simp (disch := omega) [specialError, if_neg]
    unfold valueError
    rw [hspecial]
    dsimp only
    rw [decide_eq_true hv]
    rfl
  refine completes_num (c := .command src k v) rfl hs hm (rowOf_command k) rfl v.isLt rfl hval (by decide) (by simp [isTable]; omega) (by omega) (by omega)
    fun a ha => ?_
  rw [actOn_command, ha.sameLoads.commandRefused]
  exact hP a ha

theorem command_other {v : BitVec 8} (hs : Served s.dev src) (hm : MayWrite s.dev src (0x2C20 + k.val) 1) (hv : 2 ≤ v.toNat) :
    Completes (.command src k v) s (RefusedWith s src (0x2C20 + k.val) 1 0x06090030) := by
  have hk := k.isLt
  refine completes_num_refused (c := .command src k v) rfl hs hm (rowOf_command k) rfl v.isLt ?_ (by decide) (by simp [isTable]; omega)
  unfold valueError
  dsimp only
  rw [decide_eq_false (Nat.not_le.2 hv)]
  rfl

theorem command_refused {v : BitVec 8} (hs : Served s.dev src) (hm : MayWrite s.dev src (0x2C20 + k.val) 1) (hv : v.toNat ≤ 1)
    (h : s.dev.load.comp[compOf k].link = .off ∨ s.dev.load.comp[compOf k].link = .wrongDevice ∨
      v = 1 ∧ (s.dev.load.ch[k].state = .tripped ∨ s.dev.load.ch[k].state = .locked)) :
    Completes (.command src k v) s (RefusedWith s src (0x2C20 + k.val) 1 0x08000022) :=
  command_completes hs hm hv fun a ha => by
    have href : Machine.commandRefused s.dev k (v.toNat ≠ 0) = true := by
      unfold Machine.commandRefused
      generalize s.dev.load.ch[k] = t at *
      generalize s.dev.load.comp[compOf k] = c at *
      rcases h with h | h | ⟨rfl, h | h⟩ <;> simp [h]
    rw [href]
    exact finishAct_when_false ha _ _

theorem command_taken {v : BitVec 8} {P : LoadCh → Prop} (hs : Served s.dev src) (hm : MayWrite s.dev src (0x2C20 + k.val) 1) (hv : v.toNat ≤ 1)
    (h : Machine.commandRefused s.dev k (v.toNat ≠ 0) = false)
    (hP : ∀ d, SameLoads s.dev d → P (commandLoad k (v.toNat ≠ 0) d).load.ch[k]) :
    Completes (.command src k v) s fun d => WriteAnswered d src (0x2C20 + k.val) 1 0 ∧ P d.load.ch[k] :=
  command_completes hs hm hv fun a ha => by
    rw [h]
    have hacts := ha.acts (A := [.out, .regs, .load]) (f := commandLoad k (v.toNat ≠ 0)) (commandLoad_framed _ _ _ (by decide) (.refl _ _))
      (by decide) (by decide) (0x2C20 + k.val) 1
    refine ⟨hacts.2, ?_⟩
    have hload : (answerWrite src (0x2C20 + k.val) 1 0 (commandLoad k (v.toNat ≠ 0) (bump 0x2003 1 a))).load =
        (commandLoad k (v.toNat ≠ 0) (bump 0x2003 1 a)).load := (answer_pathOnly src _ _).same .load (by decide)
    show P (answerWrite src (0x2C20 + k.val) 1 0 (commandLoad k (v.toNat ≠ 0) (bump 0x2003 1 a))).load.ch[k]
    rw [hload]
    exact hP _ ha.sameLoads

theorem commandRefused_false {v : Bool} (h1 : s.dev.load.comp[compOf k].link ≠ .off) (h2 : s.dev.load.comp[compOf k].link ≠ .wrongDevice)
    (h : v = true → s.dev.load.ch[k].state ≠ .tripped ∧ s.dev.load.ch[k].state ≠ .locked) : Machine.commandRefused s.dev k v = false := by
  unfold Machine.commandRefused
  generalize s.dev.load.ch[k] = t at *
  generalize s.dev.load.comp[compOf k] = c at *
  cases v with
  | false => simp [h1, h2]
  | true => simp [h1, h2, h rfl]

/-- The command of a channel is written and its refill time starts. -/
def commandGiven (k : Fin 32) (d : Dev) : Dev :=
  let d1 := setReg (0x2C20 + k.val) 1 1 (onCh k (fun t => { t with command := true }) d)
  if d.load.ch[k].command then d1 else startRefill k (onCh k (fun t => { t with edge := trainTime d }) d1)

theorem commandGiven_leaves (k : Fin 32) (d : Dev) : (commandGiven k d).load.ch[k].command = true ∧
    (commandGiven k d).load.ch[k].state = d.load.ch[k].state ∧ (commandGiven k d).load.comp = d.load.comp ∧
    chCfg (commandGiven k d) k 0x0A = chCfg d k 0x0A := by
  have hgiven : ∀ e : Dev, e.load.ch[k] = { d.load.ch[k] with command := true } → e.load.comp = d.load.comp → chCfg e k 0x0A = chCfg d k 0x0A →
      (if d.load.ch[k].command then e else startRefill k (onCh k (fun t => { t with edge := trainTime d }) e)).load.ch[k].command = true ∧
      (if d.load.ch[k].command then e else startRefill k (onCh k (fun t => { t with edge := trainTime d }) e)).load.ch[k].state = d.load.ch[k].state ∧
      (if d.load.ch[k].command then e else startRefill k (onCh k (fun t => { t with edge := trainTime d }) e)).load.comp = d.load.comp ∧
      chCfg (if d.load.ch[k].command then e else startRefill k (onCh k (fun t => { t with edge := trainTime d }) e)) k 0x0A = chCfg d k 0x0A := by
    intro e hch hcomp hset
    split
    · exact ⟨by rw [hch], by rw [hch], hcomp, hset⟩
    · unfold startRefill
      exact ⟨by rw [onCh_self, onCh_self, hch], by rw [onCh_self, onCh_self, hch], hcomp, hset⟩
  exact hgiven _ (onCh_self k _ d) rfl (cfg_setReg_ne _ _ _ _ _ _ (by unfold odKey; omega))

theorem commandLoad_on (k : Fin 32) (d : Dev) : commandLoad k true d = match d.load.ch[k].state with
    | .off => kick false (compOf k) (if pulsed (commandGiven k d) k then onCh k (leaveOn .pulseGap) (commandGiven k d) else turnOn k (commandGiven k d))
    | _ => commandGiven k d := rfl

theorem commandLoad_on_leaves (k : Fin 32) (d : Dev) : (commandLoad k true d).load.ch[k].command = true ∧
    (d.load.ch[k].state = .off → (commandLoad k true d).load.ch[k].state =
      if chCfg d k 0x0A ≠ 0 then .pulseGap else if d.load.comp[compOf k].link = .running then .inrush else .supplyHold) ∧
    (d.load.ch[k].state ≠ .off → (commandLoad k true d).load.ch[k].state = d.load.ch[k].state) := by
  obtain ⟨hcmd, hstate, hcomp, hset⟩ := commandGiven_leaves k d
  rw [commandLoad_on]
  generalize commandGiven k d = e at *
  by_cases hoff : d.load.ch[k].state = .off
  · rw [hoff]
    dsimp only
    have hm := kick_transferred false (compOf k) (if pulsed e k then onCh k (leaveOn .pulseGap) e else turnOn k e)
    refine ⟨(hm.command k).trans ?_, fun _ => (hm.state k).trans ?_, fun h => absurd rfl h⟩
    · split
      · rw [onCh_self]
        exact hcmd
      · rw [turnOn_ch]
        exact hcmd
    · by_cases hp : chCfg d k 0x0A = 0
      · rw [if_neg (not_not_intro hp), if_neg (by unfold pulsed; simp [hset, hp]), turnOn_ch, hcomp]
        rfl
      · rw [if_pos hp, if_pos (pulsed_of_ne (by rw [hset]; exact hp)), onCh_self]
        rfl
  · have hrest : ∀ f g : Dev, (match d.load.ch[k].state with
        | .off => f
        | _ => g) = g := fun f g => by
      split
      · next h => exact absurd h hoff
      · rfl
    rw [hrest]
    exact ⟨hcmd, fun h => absurd h hoff, fun _ => hstate⟩

/-- The channels whose command is taken away turn off, but for those that a latch, a lock or a hold keeps. -/
def LoadState.endsOff : LoadState → Bool
  | .inrush | .on | .pulseGap | .retryWait | .tripped => true
  | _ => false

theorem commandLoad_off (k : Fin 32) (d : Dev) : commandLoad k false d =
    if d.load.ch[k].state.endsOff then kick false (compOf k) (onlyIf (!d.load.ch[k].latched) (refill k)
      (onCh k (fun t => { leaveOn .off t with delayEnd := none, restartDue := false })
        (onCh k (fun t => { t with refillAt := none }) (setReg (0x2C20 + k.val) 1 0 (onCh k (fun t => { t with command := false }) d)))))
    else onlyIf (!d.load.ch[k].latched) (refill k)
      (onCh k (fun t => { t with refillAt := none }) (setReg (0x2C20 + k.val) 1 0 (onCh k (fun t => { t with command := false }) d))) := by
  have hoff : ∀ e f g : Dev, (match d.load.ch[k].state with
      | .inrush | .on | .pulseGap | .retryWait | .tripped => f
      | _ => g) = if d.load.ch[k].state.endsOff then f else g := fun e f g => by
    cases d.load.ch[k].state <;> rfl
  exact hoff d _ _

theorem refilled (k : Fin 32) (latched : Bool) (d : Dev) : ∃ r, (onlyIf (!latched) (refill k) d).load.ch[k] = { d.load.ch[k] with retries := r } ∧
    (latched = false → r = chCfg d k 6) := by
  cases latched with
  | true => exact ⟨_, rfl, (nomatch ·)⟩
  | false => exact ⟨_, onCh_self k _ d, fun _ => rfl⟩

theorem commandLoad_off_leaves (k : Fin 32) (d : Dev) : (commandLoad k false d).load.ch[k].command = false ∧
    (commandLoad k false d).load.ch[k].refillAt = none ∧
    (d.load.ch[k].latched = false → (commandLoad k false d).load.ch[k].retries = chCfg d k 6) ∧
    (d.load.ch[k].state = .thermalLatch ∨ d.load.ch[k].state = .locked ∨ d.load.ch[k].state = .supplyHold →
      (commandLoad k false d).load.ch[k].state = d.load.ch[k].state) ∧
    (d.load.ch[k].state ≠ .thermalLatch → d.load.ch[k].state ≠ .locked → d.load.ch[k].state ≠ .supplyHold →
      (commandLoad k false d).load.ch[k].state = .off) := by
  rw [commandLoad_off]
  have hch : (onCh k (fun t => { t with refillAt := none }) (setReg (0x2C20 + k.val) 1 0 (onCh k (fun t => { t with command := false }) d))).load.ch[k] =
      { d.load.ch[k] with command := false, refillAt := none } := by
    rw [onCh_self]
    show { (onCh k _ d).load.ch[k] with refillAt := none } = _
    rw [onCh_self]
  have hset : chCfg (onCh k (fun t => { t with refillAt := none }) (setReg (0x2C20 + k.val) 1 0 (onCh k (fun t => { t with command := false }) d))) k 6 =
      chCfg d k 6 := cfg_setReg_ne _ _ _ _ _ _ (by unfold odKey; omega)
  generalize onCh k (fun t => { t with refillAt := none }) (setReg (0x2C20 + k.val) 1 0 (onCh k (fun t => { t with command := false }) d)) = e at *
  cases hends : d.load.ch[k].state.endsOff with
  | true =>
    rw [if_pos rfl]
    obtain ⟨r, hr, hret⟩ := refilled k d.load.ch[k].latched (onCh k (fun t => { leaveOn .off t with delayEnd := none, restartDue := false }) e)
    have hm := kick_transferred false (compOf k) (onlyIf (!d.load.ch[k].latched) (refill k)
      (onCh k (fun t => { leaveOn .off t with delayEnd := none, restartDue := false }) e))
    rw [onCh_self, hch] at hr
    have hself := (hm.off k (by rw [hr]; exact (nomatch ·))).trans hr
    refine ⟨by rw [hself]; rfl, by rw [hself]; rfl, fun hl => by rw [hself]; exact (hret hl).trans hset, fun h => ?_, fun _ _ _ => by rw [hself]; rfl⟩
    rcases h with h | h | h <;> rw [h] at hends <;> exact nomatch hends
  | false =>
    rw [if_neg (by decide)]
    obtain ⟨r, hr, hret⟩ := refilled k d.load.ch[k].latched e
    rw [hch] at hr
    refine ⟨by rw [hr], by rw [hr], fun hl => by rw [hr]; exact (hret hl).trans hset, fun _ => by rw [hr], fun h1 h2 h3 => ?_⟩
    rw [hr]
    show d.load.ch[k].state = .off
    cases hst : d.load.ch[k].state with
    | off => rfl
    | thermalLatch => exact absurd hst h1
    | locked => exact absurd hst h2
    | supplyHold => exact absurd hst h3
    | _ => rw [hst] at hends; exact nomatch hends

/-- An unlocked channel (R430, R438). -/
def LoadCh.unlocked (t : LoadCh) : LoadCh :=
  { leaveOn (if t.latched then .thermalLatch else .off) t with bins := [], command := false, refillAt := none, spentAtLatch := false }

theorem LoadCh.unlocked_twice (t : LoadCh) : t.unlocked.unlocked = t.unlocked := rfl

theorem chanOf_self : ∀ j : Fin 32, chanOf (compOf j) (j.val % 8) = j := by decide

theorem compOf_chanOf : ∀ (n : Fin 4), ∀ i < 8, compOf (chanOf n i) = n ∧ (chanOf n i).val % 8 = i := by decide

/-- One channel of an unlock. -/
def unlockOne (n : Fin 4) (i : Nat) (d : Dev) : Dev :=
  raise evUnlocked (chanOf n i).val (setReg (0x2C20 + (chanOf n i).val) 1 0 (onCh (chanOf n i) LoadCh.unlocked d))

theorem unlockLoads_eq (n : Fin 4) (v : Nat) (d : Dev) : unlockLoads n v d = forEach ((List.range 8).filter (bitOf v)) (unlockOne n) d := rfl

theorem unlockOne_ch (n : Fin 4) (i : Nat) (d : Dev) : (unlockOne n i d).load.ch[k] =
    if chanOf n i = k then d.load.ch[k].unlocked else d.load.ch[k] := by
  have hload : (unlockOne n i d).load = (onCh (chanOf n i) LoadCh.unlocked d).load := raise_load _ _ _
  rw [hload]
  by_cases h : chanOf n i = k
  · rw [if_pos h, h, onCh_self]
  · rw [if_neg h, onCh_ne (Ne.symm h)]

theorem unlockEach_ch (n : Fin 4) (l : List Nat) (d : Dev) : (forEach l (unlockOne n) d).load.ch[k] =
    if ∃ i ∈ l, chanOf n i = k then d.load.ch[k].unlocked else d.load.ch[k] := by
  induction l generalizing d with
  | nil => simp [forEach]
  | cons x l ih =>
    show (forEach l (unlockOne n) (unlockOne n x d)).load.ch[k] = _
    rw [ih, unlockOne_ch]
    by_cases hx : chanOf n x = k
    · have hex : ∃ i ∈ x :: l, chanOf n i = k := ⟨x, List.mem_cons_self .., hx⟩
      rw [if_pos hx, if_pos hex]
      split
      · rw [LoadCh.unlocked_twice]
      · rfl
    · rw [if_neg hx]
      have hiff : (∃ i ∈ x :: l, chanOf n i = k) ↔ ∃ i ∈ l, chanOf n i = k := by simp [hx]
      simp only [hiff]

/-- An unlock comes to its act, whatever it names. -/
theorem unlock_completes {P : Dev → Prop} {n : Fin 4} {v : BitVec 8} (hs : Served s.dev src) (hm : MayWrite s.dev src (0x2C10 + n.val) 0x0A)
    (hP : ∀ a, Reached src s.found a → P (finishAct src (0x2C10 + n.val) 0x0A a (Act.when (!Machine.unlockRefused s.dev n v.toNat)
      (unlockLoads n v.toNat (bump 0x2003 1 a))))) : Completes (.unlock src n v) s P := by
  have hn := n.isLt
  have hspecial : specialError s.dev (0x2C10 + n.val) 0x0A (.num v.toNat) = none := by
    simp (disch := omega) [specialError]
  have hval : valueError s.dev ⟨0x2C10, 4, 1, 0x0A, 1, .u8, 0x0022, .n 0, .vol, true, false, .any⟩ (0x2C10 + n.val) 0x0A (.num v.toNat) = none := by
    unfold valueError
    rw [hspecial]
    rfl
  refine completes_num (c := .unlock src n v) rfl hs hm (rowOf_unlock n) rfl v.isLt rfl hval (by decide) (by simp [isTable]; omega) (by omega) (by omega)
    fun a ha => ?_
  rw [actOn_unlock, ha.sameLoads.unlockRefused]
  exact hP a ha

theorem unlock_refused {n : Fin 4} {v : BitVec 8} (hs : Served s.dev src) (hm : MayWrite s.dev src (0x2C10 + n.val) 0x0A)
    (h : ∃ j : Fin 32, compOf j = n ∧ v.getLsbD (j.val % 8) = true ∧ s.dev.load.ch[j].state ≠ .locked) :
    Completes (.unlock src n v) s (RefusedWith s src (0x2C10 + n.val) 0x0A 0x08000022) := by
  obtain ⟨j, hj, hbit, hst⟩ := h
  refine unlock_completes hs hm fun a ha => ?_
  have href : Machine.unlockRefused s.dev n v.toNat = true := by
    unfold Machine.unlockRefused
    refine List.any_eq_true.2 ⟨j.val % 8, List.mem_range.2 (Nat.mod_lt _ (by decide)), ?_⟩
    have hch : s.dev.load.ch[chanOf n (j.val % 8)] = s.dev.load.ch[j] :=
      congrArg (fun x : Fin 32 => s.dev.load.ch[x]) ((congrArg (chanOf · _) hj.symm).trans (chanOf_self j))
    rw [hch, bitOf_testBit, show v.toNat.testBit (j.val % 8) = true from hbit, Bool.true_and]
    exact decide_eq_true hst
  rw [href]
  exact finishAct_when_false ha _ _

theorem unlock_taken {n : Fin 4} {v : BitVec 8} (hn : compOf k = n) (hs : Served s.dev src) (hm : MayWrite s.dev src (0x2C10 + n.val) 0x0A)
    (h : ∀ j : Fin 32, compOf j = n → v.getLsbD (j.val % 8) = true → s.dev.load.ch[j].state = .locked) :
    Completes (.unlock src n v) s fun d => WriteAnswered d src (0x2C10 + n.val) 0x0A 0 ∧
      d.load.ch[k] = if v.getLsbD (k.val % 8) = true then s.dev.load.ch[k].unlocked else s.dev.load.ch[k] := by
  refine unlock_completes hs hm fun a ha => ?_
  have href : Machine.unlockRefused s.dev n v.toNat = false := by
    unfold Machine.unlockRefused
    refine List.any_eq_false.2 fun i hi => ?_
    obtain ⟨hcomp, hbit⟩ := compOf_chanOf n i (List.mem_range.1 hi)
    rw [bitOf_testBit, Bool.and_eq_true]
    rintro ⟨hset, hne⟩
    exact of_decide_eq_true hne (h _ hcomp (by rw [hbit]; exact hset))
  rw [href]
  have hacts := ha.acts (A := [.out, .regs, .recd, .load, .ints, .counters]) (f := unlockLoads n v.toNat)
    (unlockLoads_framed _ _ _ (by decide) (.refl _ _)) (by decide) (by decide) (0x2C10 + n.val) 0x0A
  refine ⟨hacts.2, ?_⟩
  have hload : (answerWrite src (0x2C10 + n.val) 0x0A 0 (unlockLoads n v.toNat (bump 0x2003 1 a))).load =
      (unlockLoads n v.toNat (bump 0x2003 1 a)).load := (answer_pathOnly src _ _).same .load (by decide)
  show (answerWrite src (0x2C10 + n.val) 0x0A 0 (unlockLoads n v.toNat (bump 0x2003 1 a))).load.ch[k] = _
  rw [hload, unlockLoads_eq, unlockEach_ch, ha.sameLoads.load]
  have hiff : (∃ i ∈ (List.range 8).filter (bitOf v.toNat), chanOf n i = k) ↔ v.getLsbD (k.val % 8) = true := by
    constructor
    · rintro ⟨i, hi, rfl⟩
      obtain ⟨hlt, hset⟩ := List.mem_filter.1 hi
      rw [(compOf_chanOf n i (List.mem_range.1 hlt)).2]
      exact (bitOf_testBit _ _).symm.trans hset
    · intro hset
      refine ⟨k.val % 8, List.mem_filter.2 ⟨List.mem_range.2 (Nat.mod_lt _ (by decide)), (bitOf_testBit _ _).trans hset⟩, ?_⟩
      rw [← hn, chanOf_self]
  exact if_congr hiff rfl rfl

end commands

/-- Settles O48: each timer, pulse and command has its move of a channel, and the transfer that follows leaves the channels as they are. -/
theorem loadChannelsFollowTheirTimersPulsesAndCommands : Obligations.LoadChannelsFollowTheirTimersPulsesAndCommands := by
  intro s k
  refine ⟨fun e => window_ends, fun e => retryDelay_ends, fun e => refill_completes, fun e => latch_releases, fun b v rest => clampBin_expires,
    pulse_edges, fun e rest => restore_slot, fun src hs => ⟨fun hm => ⟨fun v hv => command_other hs hm hv, fun v hv h => command_refused hs hm hv h,
      fun h1 h2 => ⟨fun h3 h4 => ?_, ?_⟩⟩, fun hm v => ⟨fun h => unlock_refused hs hm h, fun h => ?_⟩⟩⟩
  · refine Completes.mono (command_taken (v := 1) (P := fun t => t.command = true ∧ (s.dev.load.ch[k].state = .off → t.state =
        if chCfg s.dev k 0x0A ≠ 0 then .pulseGap else if s.dev.load.comp[compOf k].link = .running then .inrush else .supplyHold) ∧
      (s.dev.load.ch[k].state ≠ .off → t.state = s.dev.load.ch[k].state)) hs hm (by decide) (commandRefused_false h1 h2 fun _ => ⟨h3, h4⟩) fun d hd => ?_)
      fun d h => h
    have := commandLoad_on_leaves k d
    rwa [hd.load, hd.settings] at this
  · refine Completes.mono (command_taken (v := 0) (P := fun t => t.command = false ∧ t.refillAt = none ∧
        (s.dev.load.ch[k].latched = false → t.retries = chCfg s.dev k 6) ∧
        (s.dev.load.ch[k].state = .thermalLatch ∨ s.dev.load.ch[k].state = .locked ∨ s.dev.load.ch[k].state = .supplyHold → t.state = s.dev.load.ch[k].state) ∧
        (s.dev.load.ch[k].state ≠ .thermalLatch → s.dev.load.ch[k].state ≠ .locked → s.dev.load.ch[k].state ≠ .supplyHold → t.state = .off)) hs hm (by decide)
      (commandRefused_false h1 h2 (nomatch ·)) fun d hd => ?_) fun d h => h
    have := commandLoad_off_leaves k d
    rwa [hd.load, hd.settings] at this
  · refine Completes.mono (unlock_taken rfl hs hm h) fun d ⟨hw, hch⟩ => ⟨hw, fun hb => ?_, fun hb => ?_⟩
    · rw [hch, if_pos hb]
      rfl
    · rw [hch, if_neg (by rw [hb]; decide)]

end Sys2Proof.Machine
end

section
/-! PROOF. The host registers: reads, clears and captures of both paths, the serial port and the resets of the block
(R447 to R450, R453 to R459, R467). -/

namespace Sys2Proof.Machine

/-- What a command with a known meaning changes. -/
theorem DoesFramed.of_does {A : List Part} {s : State} {f : Dev → Dev} (h : DoesFramed A s (s.does f)) : Framed A s.found (f s.found) := by
  obtain ⟨t, ht, -, hf⟩ := h
  cases ht
  exact hf

/-! ### Interrupts -/

section interrupts

variable {d : Dev}

@[simp] theorem sendVector_intStatus (v : Fin 16) (d : Dev) : (sendVector v d).host.intStatus = d.host.intStatus := by
  unfold sendVector
  split <;> rfl

@[simp] theorem sendVector_enMsi (v : Fin 16) (d : Dev) : (sendVector v d).host.enMsi = d.host.enMsi := by
  unfold sendVector
  split <;> rfl

@[simp] theorem sendVector_msiMask (v : Fin 16) (d : Dev) : (sendVector v d).host.msiMask = d.host.msiMask := by
  unfold sendVector
  split <;> rfl

@[simp] theorem sendVector_tcap (v : Fin 16) (d : Dev) : (sendVector v d).host.tcap = d.host.tcap := by
  unfold sendVector
  split <;> rfl

theorem setInt_tcap (bit : Nat) (d : Dev) : (setInt bit d).host.tcap = d.host.tcap := by
  unfold setInt
  dsimp only
  split
  · rw [sendVector_tcap]
  · rfl

/-- Whether a vector is active depends on the status and its enables. -/
theorem vectorActive_of {h k : HostS} (hs : h.intStatus = k.intStatus) (he : h.enMsi = k.enMsi) (v : Nat) :
    vectorActive h v = vectorActive k v := by
  unfold vectorActive
  rw [hs, he]

/-- The message of a vector stands: sent, or pending behind its mask. -/
def VectorStands (k : Fin 16) (d : Dev) : Prop :=
  if d.host.msiMask[k] then d.host.msiPending[k] = true else Out.msi k ∈ d.out

theorem sendVector_stands (k : Fin 16) (d : Dev) : VectorStands k (sendVector k d) := by
  unfold VectorStands
  rw [sendVector_msiMask]
  unfold sendVector
  by_cases h : d.host.msiMask[k] = true
  · simp [h]
  · simp only [h]
    exact emit_mem _ d

theorem VectorStands.sendVector {k : Fin 16} (h : VectorStands k d) (v : Fin 16) : VectorStands k (sendVector v d) := by
  unfold VectorStands at h ⊢
  rw [sendVector_msiMask]
  by_cases hm : d.host.msiMask[k] = true
  · rw [if_pos hm] at h ⊢
    unfold Machine.sendVector
    split
    · show (d.host.msiPending.set v.val true)[k.val] = true
      rw [Vector.getElem_set]
      split
      · rfl
      · exact h
    · exact h
  · rw [if_neg hm] at h ⊢
    unfold Machine.sendVector
    split
    · exact h
    · exact List.mem_append_left _ h

/-- The message of one vector in the way of R455. -/
def sendActive (k : Nat) (d : Dev) : Dev := if vectorActive d.host k then sendVector (Fin.ofNat 16 k) d else d

theorem clearInt_eq (v : Word32) (d : Dev) :
    clearInt v d = forEach (List.range 12) sendActive (onHost (fun h => { h with intStatus := h.intStatus &&& ~~~v }) d) := rfl

theorem sendActive_keeps (k : Nat) (d : Dev) : (sendActive k d).host.intStatus = d.host.intStatus ∧
    (sendActive k d).host.enMsi = d.host.enMsi ∧ (sendActive k d).host.msiMask = d.host.msiMask := by
  unfold sendActive
  split
  · simp
  · exact ⟨rfl, rfl, rfl⟩

theorem VectorStands.sendActive {k : Fin 16} (h : VectorStands k d) (v : Nat) : VectorStands k (sendActive v d) := by
  unfold Machine.sendActive
  split
  · exact h.sendVector _
  · exact h

theorem sendActive_stands {k : Fin 16} (h : vectorActive d.host k = true) : VectorStands k (sendActive k d) := by
  have hk : Fin.ofNat 16 k.val = k := Fin.ext (Nat.mod_eq_of_lt k.isLt)
  unfold sendActive
  rw [if_pos h, hk]
  exact sendVector_stands k d

theorem forEach_sendActive_keeps (l : List Nat) (d : Dev) : (forEach l sendActive d).host.intStatus = d.host.intStatus ∧
    (forEach l sendActive d).host.enMsi = d.host.enMsi ∧ (forEach l sendActive d).host.msiMask = d.host.msiMask := by
  induction l generalizing d with
  | nil => exact ⟨rfl, rfl, rfl⟩
  | cons v l ih =>
    obtain ⟨hs, he, hm⟩ := sendActive_keeps v d
    obtain ⟨is, ie, im⟩ := ih (sendActive v d)
    exact ⟨is.trans hs, ie.trans he, im.trans hm⟩

theorem VectorStands.forEach {k : Fin 16} (l : List Nat) (h : VectorStands k d) : VectorStands k (forEach l Machine.sendActive d) := by
  induction l generalizing d with
  | nil => exact h
  | cons v l ih => exact ih (h.sendActive v)

/-- Every active vector of the list has its message. -/
theorem forEach_sendActive_stands {k : Fin 16} {l : List Nat} (hk : k.val ∈ l) (h : vectorActive d.host k = true) :
    VectorStands k (forEach l sendActive d) := by
  induction l generalizing d with
  | nil => cases hk
  | cons v l ih =>
    obtain ⟨hs, he, -⟩ := sendActive_keeps v d
    by_cases hv : k.val = v
    · subst hv
      exact (sendActive_stands h).forEach l
    · exact ih ((List.mem_cons.mp hk).resolve_left hv) ((vectorActive_of hs he k).trans h)

/-- A clear leaves the bits that it does not name, and every vector that is still active has its message again. -/
theorem clearInt_clears (v : Word32) (d : Dev) : (clearInt v d).host.intStatus = d.host.intStatus &&& ~~~v ∧
    ∀ k : Fin 16, k.val < 12 → vectorActive (clearInt v d).host k = true →
      if d.host.msiMask[k] then (clearInt v d).host.msiPending[k] = true else Out.msi k ∈ (clearInt v d).out := by
  rw [clearInt_eq]
  generalize hb : onHost (fun h => { h with intStatus := h.intStatus &&& ~~~v }) d = b
  have hb1 : b.host.intStatus = d.host.intStatus &&& ~~~v := by rw [← hb]; rfl
  have hb2 : b.host.msiMask = d.host.msiMask := by rw [← hb]; rfl
  obtain ⟨hs, he, hm⟩ := forEach_sendActive_keeps (List.range 12) b
  refine ⟨hs.trans hb1, fun k hk ha => ?_⟩
  have := forEach_sendActive_stands (List.mem_range.mpr hk) ((vectorActive_of hs he k).symm.trans ha)
  unfold VectorStands at this
  rwa [hm, hb2] at this

end interrupts

/-! ### Paths -/

section paths

variable {s : State} {path : HostPath}

theorem onPath_alive {d : Dev} (h : pathAlive d path = true) (f : Dev → Dev) : onPath path f d = f d := if_pos h

/-- A path that is not alive reaches nothing. -/
theorem completes_dead {c : Instr} {f : Dev → Dev} (hc : exec c s = s.does (onPath path f)) (h : pathAlive s.dev path = false) :
    Completes c s (Framed [] s.found) := by
  refine completes_of_exec hc ?_
  have : onPath path f s.found = s.found := if_neg (by rw [show pathAlive s.found path = pathAlive s.dev path from rfl, h]; decide)
  rw [this]
  exact .refl _ _

/-- A command over a path that is alive. -/
theorem completes_alive {c : Instr} {f : Dev → Dev} {A : List Part} {P : Dev → Prop} (hc : exec c s = s.does (onPath path f))
    (hA : DoesFramed A s (exec c s)) (h : pathAlive s.dev path = true) (hP : Framed A s.found (f s.found) → P (f s.found)) :
    Completes c s P := by
  have he : onPath path f s.found = f s.found := onPath_alive (d := s.found) h f
  refine completes_of_exec hc ?_
  rw [hc] at hA
  have hf := hA.of_does
  rw [he] at hf ⊢
  exact hP hf

/-- A register read over a path that is alive. -/
theorem completes_read {c : Instr} {off : Nat} {P : Dev → Prop} (hc : exec c s = readReg path off s) (h : pathAlive s.dev path = true)
    (hP : let e := emit (.hostReg path off (BitVec.ofNat 32 (readOne path off s.found).1)) (readOne path off s.found).2
      Framed [.out, .host] s.found e → P e) : Completes c s P :=
  completes_alive hc (hc ▸ readReg_framed path off s) h hP

end paths

/-- What the host registers of a capture show. -/
theorem captureTime_takes (path : HostPath) (d : Dev) :
    (captureTime path d).host.intStatus = d.host.intStatus ||| BitVec.ofNat 32 (2 ^ 26) ∧ (captureTime path d).host.tcap =
      if path = .serial ∧ d.host.tcap.valid = true ∧ d.host.tcap.path = 1 ∧ d.host.tcap.ns = BitVec.ofNat 64 (trainTime d) then
        { d.host.tcap with replaced := true, count := (d.host.tcap.count + 1) % 65536 }
      else
        { ns := BitVec.ofNat 64 (trainTime d), valid := true, replaced := d.host.tcap.replaced || d.host.tcap.valid,
          path := if path = .pcie then 1 else 2, stepGen := d.time.stepGen % 8, count := (d.host.tcap.count + 1) % 65536 } := by
  unfold captureTime
  simp only [Bool.and_eq_true, decide_eq_true_eq, and_assoc]
  split <;> exact ⟨setInt_intStatus _ _, setInt_tcap _ _⟩

/-! ### The serial port -/

section serial

theorem serialOffset_first {a : Nat} (h4 : a / 4 * 4 = a) (h : a < 0x2000) : serialOffset a 0 = a := by
  unfold serialOffset
  omega

theorem serialSound_iff (a count : Nat) (data : List Byte) (crc : Byte) : serialSound a count data crc = true ↔
    data.length = 4 * (count + 1) ∧ crcKind 1 (beBytes 1 2 ++ beBytes 2 a ++ beBytes 1 count ++ data) = crc.toNat := by
  unfold serialSound
  rw [Bool.and_eq_true, decide_eq_true_iff, decide_eq_true_iff]

/-- A write whose framing or CRC is wrong. -/
theorem serialWrite_unsound {a count : Nat} {data : List Byte} {crc : Byte} (h : ¬ serialSound a count data crc = true)
    (bell : HostPath → Dev → Dev) (d : Dev) : serialWrite bell a count data crc d = refuseSerial d := by
  unfold serialWrite
  rw [if_pos (by simpa using h)]

/-- A sound write of one word. -/
theorem serialWrite_word {a : Nat} {data : List Byte} {crc : Byte} (h : serialSound a 0 data crc = true)
    (bell : HostPath → Dev → Dev) (d : Dev) : serialWrite bell a 0 data crc d =
      writeRegister bell .serial (serialOffset a 0) (BitVec.ofNat 32 (leNat data))
        (onHost (fun h => { h with serialRefused := false }) d) := by
  have hl : data.take 4 = data := List.take_of_length_le (by rw [((serialSound_iff _ _ _ _).mp h).1])
  unfold serialWrite
  rw [if_neg (by simp [h])]
  simp only [serialWords, List.foldl_cons, List.foldl_nil, hl]

theorem writeRegister_scratch (bell : HostPath → Dev → Dev) (path : HostPath) (v : Word32) (d : Dev) :
    writeRegister bell path 0x18 v d = onHost (fun h => { h with scratch := v }) d := rfl

/-- The ring registers ignore the serial port. -/
theorem writeRegister_ring_serial (bell : HostPath → Dev → Dev) {off : Nat} (hl : 0x100 ≤ off) (hh : off < 0x240) (v : Word32) (d : Dev) :
    writeRegister bell .serial off v d = d := by
  unfold writeRegister
  have h1 : ¬ (0x1000 ≤ off) := by omega
  simp [h1, hl, hh]

end serial

section obligation

variable {s : State}

/-- The ring registers read 0 over the serial port. -/
theorem readRegister_ring {off : Nat} {r : Fin 10} (hl : 0x100 ≤ off) (hh : off < 0x240) (hr : Fin.ofNat 10 ((off - 0x100) / 0x20) = r)
    (path : HostPath) (d : Dev) : readRegister path off d = if path = .serial then 0 else ringRegister d.host.rings[r] (off % 0x20) := by
  subst hr
  have h1 : ¬ (0x1000 ≤ off) := by omega
  unfold readRegister
  rw [if_neg (by simp [h1]), if_pos (by simp [hl, hh])]

theorem afterRead_drops {off : Nat} {r : Fin 10} (hl : 0x100 ≤ off) (hh : off < 0x240) (hr : Fin.ofNat 10 ((off - 0x100) / 0x20) = r)
    (h1C : off % 0x20 = 0x1C) (path : HostPath) (d : Dev) :
    afterRead path off d = if path = .pcie then onRing r (fun g => { g with drops := 0 }) d else d := by
  subst hr
  unfold afterRead
  rw [if_neg (by omega), if_neg (by omega), if_neg (by omega)]
  simp [hl, hh, h1C]

theorem ring_of_drops (r : Fin 10) : Fin.ofNat 10 ((0x11C + 0x20 * r.val - 0x100) / 0x20) = r := by
  have h : (0x11C + 0x20 * r.val - 0x100) / 0x20 = r.val := by omega
  rw [h]
  exact Fin.ext (Nat.mod_eq_of_lt r.isLt)

theorem ringRegister_drops (g : Ring) : ringRegister g 0x1C = g.drops := rfl

theorem dropsRead_register (path : HostPath) (r : Fin 10) (d : Dev) :
    readRegister path (0x11C + 0x20 * r.val) d = if path = .serial then 0 else d.host.rings[r].drops := by
  rw [readRegister_ring (by omega) (by omega) (ring_of_drops r), show (0x11C + 0x20 * r.val) % 0x20 = 0x1C by omega, ringRegister_drops]

theorem dropsRead_after (path : HostPath) (r : Fin 10) (d : Dev) :
    afterRead path (0x11C + 0x20 * r.val) d = if path = .pcie then onRing r (fun g => { g with drops := 0 }) d else d := by
  rw [afterRead_drops (by omega) (by omega) (ring_of_drops r) (by omega)]

@[simp] theorem onRing_self (r : Fin 10) (f : Ring → Ring) (d : Dev) : (onRing r f d).host.rings[r] = f d.host.rings[r] := by
  simp [onRing, vmod]

theorem dropsRead_completes (path : HostPath) (r : Fin 10) (h : pathAlive s.dev path = true) : Completes (.dropsRead path r) s fun d =>
    Out.hostReg path (0x11C + 0x20 * r.val) (BitVec.ofNat 32 (if path = .serial then 0 else s.dev.host.rings[r].drops)) ∈ d.out ∧
      (path = .serial → d.host = s.dev.host) ∧ (path = .pcie → d.host.rings[r] = { s.dev.host.rings[r] with drops := 0 }) ∧
      Framed [.out, .host] s.found d := by
  have hb : beforeRead path (0x11C + 0x20 * r.val) s.found = s.found := if_neg (by omega)
  have hv : (readOne path (0x11C + 0x20 * r.val) s.found).1 = if path = .serial then 0 else s.dev.host.rings[r].drops := by
    unfold readOne
    rw [hb]
    exact dropsRead_register path r s.found
  have hd : (readOne path (0x11C + 0x20 * r.val) s.found).2 =
      if path = .pcie then onRing r (fun g => { g with drops := 0 }) s.found else s.found := by
    unfold readOne
    rw [hb]
    exact dropsRead_after path r s.found
  refine completes_read rfl h fun hf => ⟨?_, fun hs => ?_, fun hp => ?_, hf⟩
  · rw [← hv]
    exact emit_mem _ _
  · show (readOne _ _ _).2.host = _
    rw [hd, if_neg (by rw [hs]; decide)]
    rfl
  · show (readOne _ _ _).2.host.rings[r] = _
    rw [hd, if_pos hp, onRing_self]
    rfl

theorem timeLoRead_completes (path : HostPath) (h : pathAlive s.dev path = true) : Completes (.timeLoRead path) s fun d =>
    Out.hostReg path 0x60 (BitVec.ofNat 32 (trainTime s.dev % 2 ^ 64)) ∈ d.out ∧
      snapOf d.host path = ⟨BitVec.ofNat 64 (trainTime s.dev), s.dev.time.state.code, s.dev.time.stepGen % 8⟩ ∧
      (∀ q : HostPath, q ≠ path → snapOf d.host q = snapOf s.dev.host q) ∧ Framed [.out, .host] s.found d := by
  have hv : BitVec.ofNat 32 (readOne path 0x60 s.found).1 = BitVec.ofNat 32 (trainTime s.dev % 2 ^ 64) := by
    have : (readOne path 0x60 s.found).1 = (BitVec.ofNat 64 (trainTime s.dev)).toNat % 2 ^ 32 := by cases path <;> rfl
    rw [this]
    apply BitVec.eq_of_toNat_eq
    simp only [BitVec.toNat_ofNat]
    omega
  refine completes_read rfl h fun hf => ⟨?_, ?_, fun q hq => ?_, hf⟩
  · rw [← hv]
    exact emit_mem _ _
  · cases path <;> rfl
  · cases path <;> cases q <;> first | rfl | exact absurd rfl hq

theorem tcapTrigger_completes (path : HostPath) (h : pathAlive s.dev path = true) : Completes (.tcapTrigger path) s fun d =>
    d.host.intStatus = s.dev.host.intStatus ||| BitVec.ofNat 32 (2 ^ 26) ∧ d.host.tcap =
      if path = .serial ∧ s.dev.host.tcap.valid = true ∧ s.dev.host.tcap.path = 1 ∧
          s.dev.host.tcap.ns = BitVec.ofNat 64 (trainTime s.dev) then
        { s.dev.host.tcap with replaced := true, count := (s.dev.host.tcap.count + 1) % 65536 }
      else
        { ns := BitVec.ofNat 64 (trainTime s.dev), valid := true, replaced := s.dev.host.tcap.replaced || s.dev.host.tcap.valid,
          path := if path = .pcie then 1 else 2, stepGen := s.dev.time.stepGen % 8, count := (s.dev.host.tcap.count + 1) % 65536 } :=
  completes_alive (f := captureTime path) rfl (execTcapTrigger_framed path s) h fun _ => captureTime_takes path s.found

/-- The host registers change and nothing else does. -/
theorem onHost_frames {f : HostS → HostS} {d : Dev} (hi : (f d.host).intStatus = d.host.intStatus ∧ (f d.host).msiPending = d.host.msiPending)
    (hm : (f d.host).mbPcie = d.host.mbPcie ∧ (f d.host).mbSerial = d.host.mbSerial) : Framed [.host] d (onHost f d) :=
  onHost_framed f d ⟨.inr (by decide), .inl (by rw [hi.1, hi.2]), .inl (by rw [hm.1, hm.2])⟩ (.refl _ _)

/-- A serial write that comes to a change of the host registers. -/
theorem serialWrite_completes {a : BitVec 16} {data : List Byte} {count crc : Byte} {f : HostS → HostS}
    (h : pathAlive s.dev .serial = true) (hf : serialWrite doorbell a.toNat count.toNat data crc s.found = onHost f s.found)
    (hi : (f s.dev.host).intStatus = s.dev.host.intStatus ∧ (f s.dev.host).msiPending = s.dev.host.msiPending)
    (hm : (f s.dev.host).mbPcie = s.dev.host.mbPcie ∧ (f s.dev.host).mbSerial = s.dev.host.mbSerial) :
    Completes (.serialWrite ⟨a, count⟩ data crc) s fun d => d.host = f s.dev.host ∧ Framed [.host] s.found d := by
  have hrun : exec (.serialWrite ⟨a, count⟩ data crc) s =
    s.does (onPath .serial (serialWrite doorbell a.toNat count.toNat data crc)) := rfl
  refine completes_of_exec hrun ?_
  rw [onPath_alive (show pathAlive s.found .serial = true from h), hf]
  exact ⟨rfl, onHost_frames hi hm⟩

/-- The registers of the block after a reset of it. -/
theorem resetHostBlock_resets (serial : Bool) (d : Dev) : let e := resetHostBlock serial d
    (e.host.intStatus = 0 ∧ e.host.enMsi = 0 ∧ e.host.scratch = 0 ∧ e.host.tcap = HostS.reset.tcap ∧
      e.host.mbPcie = { Mailbox.reset with discard := d.host.mbPcie.busy || d.host.mbPcie.discard } ∧
      (∀ r : Fin 10, e.host.rings[r] = { Ring.reset with session := d.host.rings[r].session })) := by
  cases serial <;> refine ⟨rfl, rfl, rfl, rfl, rfl, fun r => ?_⟩ <;>
    exact Vector.getElem_map (f := fun g : Ring => { Ring.reset with session := g.session }) (xs := d.host.rings) r.isLt

theorem serialRead_completes {a : BitVec 13} (h : pathAlive s.dev .serial = true) (h4 : a.toNat % 4 = 0) :
    Completes (.serialRead a 1) s fun d => d.host.serialRefused = false ∧
      let body := leBytes 1 (0xA0 + (if hostIntLow s.dev then 8 else 0) + (if s.dev.host.serialRefused then 4 else 0)) ++
        leBytes 4 (readOne .serial a.toNat s.found).1
      Out.serialReply (body ++ leBytes 1 (crcKind 1 body)) ∈ d.out ∧ Framed [.out, .host] s.found d := by
  have ho : serialOffset a.toNat 0 = a.toNat := serialOffset_first (by omega) a.isLt
  have hrun : serialReads (min 1 256) a.toNat 0 s.found = (leBytes 4 (readOne .serial a.toNat s.found).1, (readOne .serial a.toNat s.found).2) := by
    show serialReads 1 a.toNat 0 s.found = _
    simp only [serialReads, ho, List.append_nil]
  refine completes_alive rfl (execSerialRead_framed a 1 s) h ?_
  rw [hrun]
  exact fun hf => ⟨rfl, emit_mem _ _, hf⟩

end obligation

section

variable {s : State}

theorem does_strapped (h : s.dev.pins.strapPcie = true) (f : Dev → Dev) :
    (s.does fun d => if !d.pins.strapPcie then d else f d) = s.does f :=
  does_congr (if_neg (by rw [show s.found.pins.strapPcie = true from h]; decide))

theorem does_unstrapped (h : s.dev.pins.strapPcie = false) (f : Dev → Dev) :
    (s.does fun d => if !d.pins.strapPcie then d else f d) = s.does id :=
  does_congr (if_pos (by rw [show s.found.pins.strapPcie = false from h]; decide))

end

/-- Settles O49: a path that is not alive reaches nothing, a read answers from the registers found and clears what it names, and
the resets of the block put its registers back. -/
theorem hostRegistersActAsGivenOnBothPaths : Obligations.HostRegistersActAsGivenOnBothPaths := by
  intro s h blockReset
  refine ⟨fun path hp v r => ?_, fun path hp => ⟨fun v => ?_, timeLoRead_completes path hp, tcapTrigger_completes path hp, ?_, ?_, ?_,
    fun r => dropsRead_completes path r hp⟩, fun hp => ⟨fun a data count crc => ⟨fun hu => ?_, fun hsound hc => ⟨fun ha => ?_, fun hl hh => ?_⟩⟩,
    fun a h4 => serialRead_completes hp h4, fun b => ?_⟩, fun hp => ⟨?_, ?_, fun hl => ?_⟩, fun hp => ?_⟩
  case refine_1 =>
    simp only [List.forall_mem_cons, List.not_mem_nil, false_implies, implies_true, and_true]
    exact ⟨completes_dead rfl hp, completes_dead rfl hp, completes_dead rfl hp, completes_dead rfl hp, completes_dead rfl hp,
      completes_dead rfl hp, completes_dead rfl hp, completes_dead rfl hp, completes_dead rfl hp, completes_dead rfl hp⟩
  case refine_2 =>
    obtain ⟨hs, hk⟩ := clearInt_clears v s.found
    exact completes_alive (f := clearInt v) rfl (execIntStatusClear_framed path v s) hp fun hf => ⟨hs, hk, hf⟩
  case refine_3 =>
    exact completes_read rfl hp fun hf => ⟨emit_mem _ _, rfl, hf⟩
  case refine_4 =>
    exact completes_read rfl hp fun hf => ⟨rfl, emit_mem _ _, hf⟩
  case refine_5 =>
    exact completes_read rfl hp fun hf => ⟨emit_mem _ _, rfl, hf⟩
  case refine_6 =>
    exact serialWrite_completes hp (serialWrite_unsound (fun he => hu ((serialSound_iff _ _ _ _).mp he)) _ _) ⟨rfl, rfl⟩ ⟨rfl, rfl⟩
  case refine_7 =>
    subst hc ha
    exact serialWrite_completes (f := fun h => { h with serialRefused := false, scratch := BitVec.ofNat 32 (leNat data) }) hp
      (serialWrite_word ((serialSound_iff _ _ _ _).mpr hsound) _ _) ⟨rfl, rfl⟩ ⟨rfl, rfl⟩
  case refine_8 =>
    subst hc
    have ho : 0x100 ≤ serialOffset a.toNat 0 ∧ serialOffset a.toNat 0 < 0x240 := by unfold serialOffset; omega
    refine serialWrite_completes (f := fun h => { h with serialRefused := false }) hp ?_ ⟨rfl, rfl⟩ ⟨rfl, rfl⟩
    exact (serialWrite_word ((serialSound_iff _ _ _ _).mpr hsound) _ _).trans (writeRegister_ring_serial _ ho.1 ho.2 _ _)
  case refine_9 =>
    exact completes_alive rfl (execSerialUnknownCommand_framed b s) hp fun hf => ⟨hf, rfl⟩
  case refine_10 =>
    refine completes_of_exec (f := fun d => onHost (fun h => { h with perst := true, linkUp := false }) (resetHostBlock false d)) ?_ ?_
    · show execPerstNFall s = _
      exact does_strapped hp _
    · obtain ⟨hi, hm, hs, ht, hb, hr⟩ := resetHostBlock_resets false s.found
      exact ⟨⟨hi, hm, hs, ht, hb, hr, onHost_framed _ _ ⟨.inr (by decide), .inl rfl, .inl rfl⟩
        (resetHostBlock_framed false _ (by decide) (.refl _ _))⟩, rfl, rfl, rfl, rfl⟩
  case refine_11 =>
    refine completes_of_exec (f := onHost (fun h => { h with perst := false, linkUp := hostPowered s.dev, wakeLow := false })) ?_
      ⟨rfl, onHost_frames ⟨rfl, rfl⟩ ⟨rfl, rfl⟩⟩
    exact does_strapped hp _
  case refine_12 =>
    refine completes_of_exec (f := resetHostBlock true) ?_ ?_
    · refine does_congr (if_pos ?_)
      show (s.dev.pins.strapPcie && s.dev.host.linkUp) = true
      rw [hp, hl]
      rfl
    · obtain ⟨hi, hm, hs, ht, hb, hr⟩ := resetHostBlock_resets true s.found
      exact ⟨⟨hi, hm, hs, ht, hb, hr, resetHostBlock_framed true _ (by decide) (.refl _ _)⟩, rfl, rfl, rfl, rfl, hl⟩
  case refine_13 =>
    simp only [List.forall_mem_cons, List.not_mem_nil, false_implies, implies_true, and_true]
    have hup : ¬ pcieUp s.found = true := by
      show ¬ (s.dev.pins.strapPcie && s.dev.host.linkUp) = true
      rw [hp, Bool.false_and]
      decide
    exact ⟨completes_of_exec (show execPerstNFall s = _ from does_unstrapped hp _) (.refl _ _),
      completes_of_exec (show execPerstNRise s = _ from does_unstrapped hp _) (.refl _ _),
      completes_of_exec (f := id) (does_congr (if_neg hup)) (.refl _ _)⟩

end Sys2Proof.Machine
end

section
/-! PROOF. The rings: starts and stops, fetches, write-backs and errors (R459 to R466). -/

namespace Sys2Proof.Machine

/-! ### One ring -/

section ring

variable {d : Dev}

theorem onRing_frames (r : Fin 10) (f : Ring → Ring) (d : Dev) : Framed [.host] d (onRing r f d) := onRing_framed r f d (by decide) (.refl _ d)

theorem setInt_rings (bit : Nat) (d : Dev) : (setInt bit d).host.rings = d.host.rings := by
  have hv : ∀ (v : Fin 16) (e : Dev), (sendVector v e).host.rings = e.host.rings := fun v e => by
    unfold sendVector
    split <;> rfl
  unfold setInt
  dsimp only
  split
  · rw [hv]
  · rfl

theorem stopRing_stops (r : Fin 10) (code : Nat) (d : Dev) :
    (stopRing r code d).host.rings[r] = { d.host.rings[r] with running := false, error := code, reading := none } ∧
      (stopRing r code d).host.intStatus.getLsbD 29 = true := by
  unfold stopRing
  refine ⟨?_, setInt_bit (by decide) _⟩
  rw [setInt_rings, onRing_self]

theorem onStream_self (k : Fin 64) (f : StreamS → StreamS) (d : Dev) : (onStream k f d).strm.s[k] = f d.strm.s[k] := by
  simp [onStream, onStrm, vmod]

/-! ### What a ring writes -/

theorem ringInt_sent (r : Fin 10) (d : Dev) : Sent d (ringInt r d) := by
  unfold ringInt
  exact .ite (.of_eq rfl) ((setInt_sent _ _).after rfl)

theorem emits_sent (os : List Out) (d : Dev) : Sent d (emits os d) := fun _ h => List.mem_append_left _ h

theorem writeBackOne_sent (r : Fin 10) (i : Nat) (fl : Byte) (off : Nat) (bs : List Byte) (d : Dev) :
    Sent d (writeBackOne r i fl off bs d) := by
  unfold writeBackOne
  exact .ite ((emits_sent _ d).trans ((ringInt_sent _ _).after rfl)) ((emits_sent _ d).trans (.of_eq rfl))

/-- A write-back stands in host memory where its descriptor lies. -/
theorem writeBackOne_mem (r : Fin 10) (i : Nat) (fl : Byte) (off : Nat) (bs : List Byte) (d : Dev) :
    Out.dmaWrite r.val (descAddr d.host.rings[r] i + off) bs ∈ (writeBackOne r i fl off bs d).out := by
  have hm : Out.dmaWrite r.val (descAddr d.host.rings[r] i + off) bs ∈ (emits [.dmaWrite r.val (descAddr d.host.rings[r] i + off) bs,
      .dmaWrite r.val (descAddr d.host.rings[r] i + 11) [fl ||| 1#8]] d).out := List.mem_append_right _ (.head _)
  have hs : Sent (emits [.dmaWrite r.val (descAddr d.host.rings[r] i + off) bs,
      .dmaWrite r.val (descAddr d.host.rings[r] i + 11) [fl ||| 1#8]] d) (writeBackOne r i fl off bs d) := by
    unfold writeBackOne
    exact .ite ((ringInt_sent _ _).after rfl) (.of_eq rfl)
  exact hs _ hm

theorem ringInt_head (r : Fin 10) (d : Dev) : (ringInt r d).host.rings[r].head = d.host.rings[r].head := by
  unfold ringInt
  refine iteInduction (motive := fun e : Dev => e.host.rings[r].head = d.host.rings[r].head) (fun _ => ?_) fun _ => ?_
  · rw [onRing_self]
  · rw [setInt_rings, onRing_self]

theorem writeBackOne_head (r : Fin 10) (i : Nat) (fl : Byte) (off : Nat) (bs : List Byte) (d : Dev) :
    (writeBackOne r i fl off bs d).host.rings[r].head = (i + 1) % (max 1 d.host.rings[r].size) := by
  unfold writeBackOne
  dsimp only
  split
  · rw [ringInt_head, onRing_self]
    rfl
  · rw [onRing_self]
    rfl

theorem flushDone_sent (n : Nat) (r : Fin 10) (off : Nat) (d : Dev) : Sent d (flushDone n r off d) := by
  induction n generalizing d with
  | zero => exact .refl d
  | succ n ih =>
    unfold flushDone
    dsimp only
    split
    · refine Sent.trans ?_ (ih _)
      exact (writeBackOne_sent _ _ _ _ _ _).after rfl
    · exact .refl d

theorem completeTx_sent (o : HostOrigin) (status : Nat) (ident : Option Nat) (d : Dev) : Sent d (completeTx o status ident d) := by
  unfold completeTx
  exact .ite ((flushDone_sent _ _ _ _).after rfl) (.refl d)

theorem fetchNext_sent (r : Fin 10) (d : Dev) : Sent d (fetchNext r d) := by
  unfold fetchNext
  exact .ite ((emit_sent _ _).after rfl) (.refl d)

/-- A transmit descriptor that is next in ring order is written back with its status at once. -/
theorem completeTx_mem {o : HostOrigin} {status : Nat} {ident : Option Nat} (hrun : d.host.rings[o.ring].running = true)
    (hses : d.host.rings[o.ring].session = o.session) (hhead : d.host.rings[o.ring].head = o.index)
    (hdone : d.host.rings[o.ring].doneEarly = []) (hsize : d.host.rings[o.ring].size ≠ 0) :
    Out.dmaWrite o.ring.val (descAddr d.host.rings[o.ring] o.index + 24)
      (leBytes 1 status ++ leBytes 1 (if ident.isSome then 1 else 0) ++ leBytes 2 (ident.getD 0) ++ leBytes 4 0) ∈
        (completeTx o status ident d).out := by
  generalize hb : leBytes 1 status ++ leBytes 1 (if ident.isSome then 1 else 0) ++ leBytes 2 (ident.getD 0) ++ leBytes 4 0 = bs
  unfold completeTx
  dsimp only
  rw [hb, if_pos (by rw [hrun, hses]; simp)]
  obtain ⟨n, hn⟩ := Nat.exists_eq_succ_of_ne_zero hsize
  generalize he : onRing o.ring (fun g => { g with doneEarly := (o.index, o.flags, bs) :: g.doneEarly }) d = e
  have hring : e.host.rings[o.ring] = { d.host.rings[o.ring] with doneEarly := [(o.index, o.flags, bs)] } := by
    rw [← he, onRing_self, hdone]
  rw [hn]
  unfold flushDone
  have hfind : e.host.rings[o.ring].doneEarly.find? (fun x => x.1 = e.host.rings[o.ring].head) = some (o.index, o.flags, bs) := by
    rw [hring]
    exact List.find?_cons_of_pos (decide_eq_true hhead.symm)
  dsimp only
  rw [hfind]
  dsimp only
  refine flushDone_sent _ _ _ _ _ ?_
  have hmem := writeBackOne_mem o.ring o.index o.flags 24 bs (onRing o.ring (fun g => { g with
    doneEarly := g.doneEarly.filter (fun x => x.1 ≠ o.index) }) e)
  have haddr : descAddr (onRing o.ring (fun g => { g with doneEarly := g.doneEarly.filter (fun x => x.1 ≠ o.index) }) e).host.rings[o.ring]
      o.index = descAddr d.host.rings[o.ring] o.index := by
    rw [onRing_self, hring]
    rfl
  rw [haddr] at hmem
  exact hmem

end ring

/-! ### Fetches -/

section fetch

variable {d : Dev}

/-- A running ring that owns a descriptor and has no read outstanding fetches it. -/
theorem fetchNext_eq {r : Fin 10} (he : d.host.rings[r].enable = true) (hrun : d.host.rings[r].running = true)
    (hread : d.host.rings[r].reading = none) (hne : d.host.rings[r].fetch ≠ d.host.rings[r].tail) (hup : pcieUp d = true)
    (h8 : r ≠ 8 ∨ d.host.rings[r].ready = []) : fetchNext r d = emit (.dmaRead r.val (descAddr d.host.rings[r] d.host.rings[r].fetch) 32)
      (onRing r (fun g => { g with reading := some { what := .descriptor g.fetch, deadline := d.now + 50 * msNs } }) d) := by
  have h8' : (r ≠ 8 || d.host.rings[r].ready.isEmpty) = true := by
    rcases h8 with h | h
    · simp [h]
    · rw [h]
      simp
  have hne' : decide (d.host.rings[r].fetch ≠ d.host.rings[r].tail) = true := decide_eq_true hne
  unfold fetchNext
  exact if_pos (by rw [he, hrun, hread, hne', hup, h8']; rfl)

theorem fetchNext_ring (r : Fin 10) (d : Dev) : ∃ x, (fetchNext r d).host.rings[r] = { d.host.rings[r] with reading := x } := by
  unfold fetchNext
  dsimp only
  split
  · exact ⟨some { what := .descriptor d.host.rings[r].fetch, deadline := d.now + 50 * msNs }, onRing_self _ _ _⟩
  · exact ⟨d.host.rings[r].reading, rfl⟩

theorem drainHost_idle (h : d.fab.hostQueue = []) : (drainHost d).host = d.host := by
  unfold drainHost
  rw [h]
  split <;> rfl

end fetch

section obligation

variable {s : State} {r : Fin 10}

theorem pcieUp_of_alive (h : pathAlive s.dev .pcie = true) : pcieUp s.dev = true := (Bool.and_eq_true_iff.mp h).1

theorem enableRing_starts {d : Dev} (h : d.host.rings[r].enable = false) :
    (enableRing r d).host.rings[r].enable = true ∧ (enableRing r d).host.rings[r].head = 0 ∧ (enableRing r d).host.rings[r].tail = 0 ∧
      (enableRing r d).host.rings[r].running = sizeOk d.host.rings[r].size ∧
      (enableRing r d).host.rings[r].error = (if sizeOk d.host.rings[r].size then 0 else 1) := by
  unfold enableRing
  rw [if_neg (by rw [h]; decide)]
  dsimp only
  split
  · rw [onRing_self]
    exact ⟨rfl, rfl, rfl, rfl, rfl⟩
  · simp only [setInt_rings, onRing_self, and_self]

theorem enableRing_enabled {d : Dev} (h : d.host.rings[r].enable = true) : enableRing r d = d := if_pos h

theorem ringEnable_completes (hp : pathAlive s.dev .pcie = true) (h : s.dev.host.rings[r].enable = false) :
    Completes (.ringEnable .pcie r) s fun d => d.host.rings[r].enable = true ∧ d.host.rings[r].head = 0 ∧ d.host.rings[r].tail = 0 ∧
      d.host.rings[r].running = sizeOk s.dev.host.rings[r].size ∧
      d.host.rings[r].error = (if sizeOk s.dev.host.rings[r].size then 0 else 1) ∧ Framed [.out, .host, .ints] s.found d := by
  refine completes_alive rfl (execRingEnable_framed .pcie r s) hp fun hf => ?_
  obtain ⟨he, hh, ht, hr, hc⟩ := enableRing_starts (d := s.found) (r := r) h
  exact ⟨he, hh, ht, hr, hc, hf⟩

theorem ringDisable_completes (hp : pathAlive s.dev .pcie = true) : Completes (.ringDisable .pcie r) s fun d =>
    d.host.rings[r].enable = false ∧ d.host.rings[r].running = false ∧ d.host.rings[r].error = 0 ∧ d.host.rings[r].reading = none ∧
      d.host.rings[r].head = s.dev.host.rings[r].head ∧ d.out = [] ∧ Framed [.host] s.found d := by
  refine completes_alive rfl (execRingDisable_framed .pcie r s) hp fun hf => ?_
  have hring : (disableRing r s.found).host.rings[r] = { s.dev.host.rings[r] with
      enable := false, running := false, error := 0, reading := none, ready := [], doneEarly := [], deferred := false } := onRing_self _ _ _
  exact ⟨by rw [if_pos rfl, hring], by rw [if_pos rfl, hring], by rw [if_pos rfl, hring], by rw [if_pos rfl, hring],
    by rw [if_pos rfl, hring], rfl, hf⟩

theorem tail_completes (hp : pathAlive s.dev .pcie = true) (v : Word32) (he : s.dev.host.rings[r].enable = true) :
    Completes (.tail .pcie r v) s fun d => d.host.rings[r].tail = v.toNat % 4096 ∧
      (s.dev.host.rings[r].running = true → s.dev.host.rings[r].reading = none → s.dev.host.rings[r].fetch ≠ v.toNat % 4096 →
        r ≠ 8 ∨ s.dev.host.rings[r].ready = [] →
        Out.dmaRead r.val (descAddr s.dev.host.rings[r] s.dev.host.rings[r].fetch) 32 ∈ d.out ∧
          d.host.rings[r].reading = some ⟨.descriptor s.dev.host.rings[r].fetch, s.dev.now + 50 * msNs⟩) ∧
      Framed [.out, .host] s.found d := by
  refine completes_alive rfl (execTail_framed .pcie r v s) hp fun hf => ?_
  rw [if_pos rfl] at hf ⊢
  have hw : writeTail r v.toNat s.found = fetchNext r (onRing r (fun g => { g with tail := v.toNat % 4096 }) s.found) := if_pos he
  rw [hw] at hf ⊢
  generalize hb : onRing r (fun g => { g with tail := v.toNat % 4096 }) s.found = b at hf
  have hring : b.host.rings[r] = { s.dev.host.rings[r] with tail := v.toNat % 4096 } := by rw [← hb, onRing_self]; rfl
  refine ⟨?_, fun hrun hread hne h8 => ?_, hf⟩
  · obtain ⟨x, hx⟩ := fetchNext_ring r b
    rw [hx, hring]
  · have hup : pcieUp b = true := by rw [← hb]; exact pcieUp_of_alive hp
    have hnow : b.now = s.dev.now := by rw [← hb]; rfl
    rw [fetchNext_eq (by rw [hring]; exact he) (by rw [hring]; exact hrun) (by rw [hring]; exact hread) (by rw [hring]; exact hne) hup
      (by rw [hring]; exact h8), hring]
    refine ⟨emit_mem _ _, ?_⟩
    show (onRing r _ b).host.rings[r].reading = _
    rw [onRing_self, hring, hnow]

theorem ringModerationEnd_completes {t : Nat} (ht : s.dev.host.rings[r].lastInt = some t) (hd : s.dev.host.rings[r].deferred = true) :
    Completes (.ringModerationEnd r) s fun d =>
      d.now = max s.dev.now (t + s.dev.host.rings[r].moderation * 10 * usNs) ∧ d.host.intStatus.getLsbD (16 + r.val) = true ∧
        d.host.rings[r] = { s.dev.host.rings[r] with lastInt := some d.now, deferred := false } := by
  have hrun : exec (.ringModerationEnd r) s = s.does fun d =>
      setInt (16 + r.val) (onRing r (fun g => { g with
        lastInt := some (arrive (t + s.dev.host.rings[r].moderation * 10 * usNs) d).now, deferred := false })
          (arrive (t + s.dev.host.rings[r].moderation * 10 * usNs) d)) := by
    show execRingModerationEnd r s = _
    unfold execRingModerationEnd
    refine does_congr ?_
    have h : s.found.host.rings[r].lastInt = some t := ht
    dsimp only
    rw [h]
    exact if_pos hd
  refine completes_of_exec hrun ?_
  have hnow := arrive_now (t + s.dev.host.rings[r].moderation * 10 * usNs) s.found
  generalize he : arrive (t + s.dev.host.rings[r].moderation * 10 * usNs) s.found = e at hnow
  have hh : e.host.rings[r] = s.dev.host.rings[r] := by rw [← he, arrive_host]; rfl
  refine ⟨?_, setInt_bit (by omega) _, ?_⟩
  · rw [setInt_now]
    exact hnow
  · rw [setInt_rings, onRing_self, hh, setInt_now]
    rfl

theorem dmaError_completes (h : s.dev.host.rings[r].running = true) : Completes (.dmaError r) s fun d =>
    d.host.rings[r] = { s.dev.host.rings[r] with
      running := false, error := if s.dev.host.rings[r].reading.isSome then 2 else 4, reading := none } ∧
      d.host.intStatus.getLsbD 29 = true := by
  have hrun : exec (.dmaError r) s = s.does fun d => stopRing r (if s.dev.host.rings[r].reading.isSome then 2 else 4) d :=
    does_congr (if_pos h)
  exact completes_of_exec hrun (stopRing_stops _ _ _)

theorem dmaCompletionTimeout_completes {x : DmaRead} (h : s.dev.host.rings[r].reading = some x) :
    Completes (.dmaCompletionTimeout r) s fun d => (d.host.rings[r] = { s.dev.host.rings[r] with
      running := false, error := 3, reading := none } ∧ d.host.intStatus.getLsbD 29 = true) ∧ d.now = max s.dev.now x.deadline := by
  have hrun : exec (.dmaCompletionTimeout r) s = s.does fun d => stopRing r 3 (arrive x.deadline d) := by
    show execDmaCompletionTimeout r s = _
    unfold execDmaCompletionTimeout
    refine does_congr ?_
    have hx : s.found.host.rings[r].reading = some x := h
    rw [hx]
  refine completes_of_exec hrun ⟨?_, ?_⟩
  · have := stopRing_stops r 3 (arrive x.deadline s.found)
    rw [arrive_host] at this
    exact this
  · unfold stopRing
    rw [setInt_now]
    exact arrive_now _ _

/-! ### Reads that complete -/

section completion

variable {i t : Nat} {desc : List Byte}

/-- The device with the outstanding read of the ring at its end. -/
def readEnded (r : Fin 10) (d : Dev) : Dev := onRing r (fun g => { g with reading := none }) d

theorem readEnded_ring (r : Fin 10) (d : Dev) : (readEnded r d).host.rings[r] = { d.host.rings[r] with reading := none } := onRing_self _ _ _

theorem exec_descriptor (h : s.dev.host.rings[r].reading = some ⟨.descriptor i, t⟩) (hl : desc.length = 32) :
    exec (.dmaReadCompletion r desc) s = s.does fun d => takeDescriptor r i desc (readEnded r d) := by
  have hd : desc ++ List.replicate (32 - desc.length) 0 = desc := by
    rw [hl]
    exact List.append_nil desc
  show execDmaReadCompletion r desc s = _
  unfold execDmaReadCompletion
  refine does_congr ?_
  have hx : s.found.host.rings[r].reading = some ⟨.descriptor i, t⟩ := h
  rw [hx]
  dsimp only
  rw [hd]
  rfl

theorem exec_buffer {buf : List Byte} (h : s.dev.host.rings[r].reading = some ⟨.buffer i desc, t⟩) :
    exec (.dmaReadCompletion r buf) s = s.does fun d =>
      if r = 8 then takeBlock i desc buf (readEnded r d) else fetchNext r (admitTx r i desc buf (readEnded r d)) := by
  show execDmaReadCompletion r buf s = _
  unfold execDmaReadCompletion
  refine does_congr ?_
  have hx : s.found.host.rings[r].reading = some ⟨.buffer i desc, t⟩ := h
  rw [hx]
  rfl

/-- The device with the descriptor taken from the ring. -/
def descTaken (r : Fin 10) (i : Nat) (d : Dev) : Dev := onRing r (fun g => { g with fetch := g.after i }) (readEnded r d)

theorem descTaken_ring (r : Fin 10) (i : Nat) (d : Dev) :
    (descTaken r i d).host.rings[r] = { d.host.rings[r] with reading := none, fetch := d.host.rings[r].after i } := by
  unfold descTaken
  rw [onRing_self, readEnded_ring]
  rfl

theorem txMalformed_taken (r : Fin 10) (i : Nat) (desc : List Byte) (d : Dev) : txMalformed (descTaken r i d) desc = txMalformed d desc := rfl

theorem takeDescriptor_transmit (hr : r.val < 4) (d : Dev) : takeDescriptor r i desc (readEnded r d) =
    if txMalformed d desc then
      fetchNext r (completeTx { ring := r, index := i, flags := desc.getD 11 0, session := (descTaken r i d).host.rings[r].session } 4 none
        (descTaken r i d))
    else emit (.dmaRead r.val (leNat (slice desc 0 8)) (leNat (slice desc 8 2)))
      (onRing r (fun g => { g with reading := some { what := .buffer i desc, deadline := d.now + 50 * msNs } }) (descTaken r i d)) := by
  unfold takeDescriptor
  dsimp only
  rw [if_pos hr]
  rfl

theorem takeDescriptor_receive (hr : 4 ≤ r.val) (h8 : r ≠ 8) (d : Dev) :
    takeDescriptor r i desc (readEnded r d) =
      let d2 := onRing r (fun g => { g with ready := g.ready ++ [(i, desc)] }) (descTaken r i d)
      fetchNext r (if r = 9 then d2 else sweepCells (drainHost d2)) := by
  unfold takeDescriptor
  dsimp only
  rw [if_neg (by omega), if_neg h8]
  rfl

theorem descriptor_fetches (h : s.dev.host.rings[r].reading = some ⟨.descriptor i, t⟩) (hl : desc.length = 32) (hr : r.val < 4)
    (hm : txMalformed s.dev desc = false) : Completes (.dmaReadCompletion r desc) s fun d =>
      d.host.rings[r].fetch = s.dev.host.rings[r].after i ∧
        Out.dmaRead r.val (leNat (slice desc 0 8)) (leNat (slice desc 8 2)) ∈ d.out ∧
        d.host.rings[r].reading = some ⟨.buffer i desc, s.dev.now + 50 * msNs⟩ := by
  refine completes_of_exec (exec_descriptor h hl) ?_
  rw [takeDescriptor_transmit hr, if_neg (by rw [show txMalformed s.found desc = false from hm]; decide)]
  have hring : (onRing r (fun g => { g with reading := some { what := .buffer i desc, deadline := s.found.now + 50 * msNs } })
      (descTaken r i s.found)).host.rings[r] = { s.dev.host.rings[r] with
        reading := some { what := .buffer i desc, deadline := s.dev.now + 50 * msNs }, fetch := s.dev.host.rings[r].after i } := by
    rw [onRing_self, descTaken_ring]
    rfl
  exact ⟨congrArg Ring.fetch hring, emit_mem _ _, congrArg Ring.reading hring⟩

theorem descriptor_malformed (h : s.dev.host.rings[r].reading = some ⟨.descriptor i, t⟩) (hl : desc.length = 32) (hr : r.val < 4)
    (hm : txMalformed s.dev desc = true) (hrun : s.dev.host.rings[r].running = true) (hhead : s.dev.host.rings[r].head = i)
    (hdone : s.dev.host.rings[r].doneEarly = []) (hsize : s.dev.host.rings[r].size ≠ 0) : Completes (.dmaReadCompletion r desc) s fun d =>
      Out.dmaWrite r.val (descAddr s.dev.host.rings[r] i + 24) [4, 0, 0, 0, 0, 0, 0, 0] ∈ d.out := by
  refine completes_of_exec (exec_descriptor h hl) ?_
  rw [takeDescriptor_transmit hr, if_pos (show txMalformed s.found desc = true from hm)]
  refine fetchNext_sent _ _ _ ?_
  have hring := descTaken_ring r i s.found
  generalize descTaken r i s.found = e at hring
  have hmem := completeTx_mem (o := { ring := r, index := i, flags := desc.getD 11 0, session := e.host.rings[r].session }) (status := 4)
    (ident := none) (d := e) (by rw [hring]; exact hrun) rfl (by rw [hring]; exact hhead) (by rw [hring]; exact hdone)
    (by rw [hring]; exact hsize)
  have haddr : descAddr e.host.rings[r] i = descAddr s.dev.host.rings[r] i := by rw [hring]; rfl
  rw [haddr] at hmem
  exact hmem

theorem descriptor_ready (h : s.dev.host.rings[r].reading = some ⟨.descriptor i, t⟩) (hl : desc.length = 32) (hr : 4 ≤ r.val)
    (h8 : r ≠ 8) (hq : s.dev.fab.hostQueue = []) : Completes (.dmaReadCompletion r desc) s fun d =>
      d.host.rings[r].ready = s.dev.host.rings[r].ready ++ [(i, desc)] := by
  refine completes_of_exec (exec_descriptor h hl) ?_
  rw [takeDescriptor_receive hr h8]
  dsimp only
  generalize hb : onRing r (fun g => { g with ready := g.ready ++ [(i, desc)] }) (descTaken r i s.found) = b
  have hring : b.host.rings[r].ready = s.dev.host.rings[r].ready ++ [(i, desc)] := by
    rw [← hb, onRing_self, descTaken_ring]
    rfl
  have hbq : b.fab.hostQueue = [] := by
    rw [← hb]
    exact hq
  have hhost : (if r = 9 then b else sweepCells (drainHost b)).host = b.host := by
    split
    · rfl
    · show (drainHost b).host = _
      exact drainHost_idle hbq
  obtain ⟨x, hx⟩ := fetchNext_ring r (if r = 9 then b else sweepCells (drainHost b))
  rw [hx, hhost]
  exact hring

/-! ### Blocks of samples (R465) -/

theorem block_buffered {block : List Byte} {k : Fin 64} (h : s.dev.host.rings[(8 : Fin 10)].reading = some ⟨.buffer i desc, t⟩)
    (hk : Fin.ofNat 64 (blockStream desc).1 = k) :
    Completes (.dmaReadCompletion 8 block) s fun d => d.strm.s[k].buffer = s.dev.strm.s[k].buffer ++ block ∧
        Out.dmaWrite 8 (descAddr s.dev.host.rings[(8 : Fin 10)] i + 14) [0, 0] ∈ d.out := by
  refine completes_of_exec (exec_buffer h) ?_
  rw [if_pos rfl]
  unfold takeBlock
  dsimp only
  rw [hk]
  generalize hb : onStream k (fun x => { x with buffer := x.buffer ++ block })
    (onRing 8 (fun g => { g with ready := [] }) (readEnded 8 s.found)) = b
  have hstrm : b.strm.s[k].buffer = s.dev.strm.s[k].buffer ++ block := by
    rw [← hb, onStream_self]
    rfl
  have haddr : descAddr b.host.rings[(8 : Fin 10)] i = descAddr s.dev.host.rings[(8 : Fin 10)] i := by
    rw [← hb, show (onStream k _ _).host.rings[(8 : Fin 10)] = _ from onRing_self 8 _ _, readEnded_ring]
    rfl
  have hframe : Framed [.out, .host, .ints] b (fetchNext 8 (writeBackOne 8 i (desc.getD 11 0) 14 (leBytes 2 0) b)) :=
    fetchNext_framed _ _ (by decide) (writeBackOne_framed _ _ _ _ _ _ (by decide) (.refl _ _))
  refine ⟨?_, fetchNext_sent _ _ _ ?_⟩
  · rw [show (fetchNext 8 (writeBackOne 8 i (desc.getD 11 0) 14 (leBytes 2 0) b)).strm = b.strm from hframe.same .strm (by decide)]
    exact hstrm
  · rw [← haddr]
    exact writeBackOne_mem 8 i _ 14 _ b

section blocks

variable {rest : List (Nat × List Byte)} {d : Dev}

theorem serveBlock_refuses {st : Nat} (hready : d.host.rings[(8 : Fin 10)].ready = (i, desc) :: rest)
    (hrun : d.host.rings[(8 : Fin 10)].running = true) (hread : d.host.rings[(8 : Fin 10)].reading = none) (hst : blockStatus d desc = some st) :
    serveBlock d = fetchNext 8 (writeBackOne 8 i (desc.getD 11 0) 14 (blockTail st 0) (onRing 8 (fun g => { g with ready := [] }) d)) := by
  unfold serveBlock
  dsimp only
  rw [hready]
  dsimp only
  rw [if_neg (by rw [hrun, hread]; decide), hst]

theorem serveBlock_reads {k : Fin 64} (hready : d.host.rings[(8 : Fin 10)].ready = (i, desc) :: rest)
    (hrun : d.host.rings[(8 : Fin 10)].running = true) (hread : d.host.rings[(8 : Fin 10)].reading = none) (hst : blockStatus d desc = none)
    (hk : (blockStream desc).1 = k.val) :
    (1024 < d.strm.s[k].buffer.length / (4 * max 1 (strmReg d k 5)) + (blockStream desc).2 → serveBlock d = d) ∧
    (d.strm.s[k].buffer.length / (4 * max 1 (strmReg d k 5)) + (blockStream desc).2 ≤ 1024 →
      Out.dmaRead 8 (leNat (slice desc 0 8)) (4 * (blockStream desc).2 * max 1 (strmReg d k 5)) ∈ (serveBlock d).out ∧
        (serveBlock d).host.rings[(8 : Fin 10)].reading = some ⟨.buffer i desc, d.now + 50 * msNs⟩) := by
  obtain rfl : Fin.ofNat 64 (blockStream desc).1 = k := by
    rw [hk]
    exact Fin.ext (Nat.mod_eq_of_lt k.isLt)
  unfold serveBlock
  dsimp only
  rw [hready]
  dsimp only
  rw [if_neg (by rw [hrun, hread]; decide), hst]
  dsimp only
  refine ⟨fun h => if_pos h, fun h => ?_⟩
  rw [if_neg (by omega)]
  refine ⟨List.mem_append_right _ (.tail _ (.head _)), ?_⟩
  rw [onRing_self]

end blocks

theorem exec_sampleFetch {rest : List (Nat × List Byte)} {k : Fin 64} (hready : s.dev.host.rings[(8 : Fin 10)].ready = (i, desc) :: rest)
    (hk : (blockStream desc).1 = k.val) : exec (.sampleFetch k) s = s.does serveBlock := by
  show execSampleFetch k s = _
  unfold execSampleFetch
  refine does_congr ?_
  have hx : s.found.host.rings[(8 : Fin 10)].ready = (i, desc) :: rest := hready
  rw [hx]
  exact if_pos hk

theorem sampleFetch_refused {rest : List (Nat × List Byte)} {k : Fin 64} {st : Nat}
    (hready : s.dev.host.rings[(8 : Fin 10)].ready = (i, desc) :: rest) (hk : (blockStream desc).1 = k.val)
    (hrun : s.dev.host.rings[(8 : Fin 10)].running = true) (hread : s.dev.host.rings[(8 : Fin 10)].reading = none)
    (hst : blockStatus s.dev desc = some st) : Completes (.sampleFetch k) s fun d =>
      Out.dmaWrite 8 (descAddr s.dev.host.rings[(8 : Fin 10)] i + 14) (blockTail st 0) ∈ d.out ∧
        d.host.rings[(8 : Fin 10)].head = (i + 1) % (max 1 s.dev.host.rings[(8 : Fin 10)].size) := by
  refine completes_of_exec (exec_sampleFetch hready hk) ?_
  rw [serveBlock_refuses (d := s.found) hready hrun hread hst]
  generalize hb : onRing 8 (fun g => { g with ready := [] }) s.found = b
  have hring : b.host.rings[(8 : Fin 10)] = { s.dev.host.rings[(8 : Fin 10)] with ready := [] } := by
    rw [← hb, onRing_self]
    rfl
  have haddr : descAddr b.host.rings[(8 : Fin 10)] i = descAddr s.dev.host.rings[(8 : Fin 10)] i := by
    rw [hring]
    rfl
  obtain ⟨x, hx⟩ := fetchNext_ring 8 (writeBackOne 8 i (desc.getD 11 0) 14 (blockTail st 0) b)
  refine ⟨fetchNext_sent _ _ _ ?_, ?_⟩
  · rw [← haddr]
    exact writeBackOne_mem 8 i _ 14 _ b
  · rw [hx, show ({ (writeBackOne 8 i (desc.getD 11 0) 14 (blockTail st 0) b).host.rings[(8 : Fin 10)] with reading := x } : Ring).head = _
      from writeBackOne_head _ _ _ _ _ _, hring]

end completion

/-! ### Frames to a port that is not up (R461) -/

section unsent

variable {d : Dev} {p : Port}

theorem countUnsent_fab (p : Port) (q : Fin 8) (d : Dev) : (countUnsent p q d).fab = d.fab ∧ (countUnsent p q d).ports = d.ports ∧
    (countUnsent p q d).host = d.host := by
  unfold countUnsent onlyIf
  split <;> split <;> simp

theorem forEach_unsent {f : Port → Dev → Dev} (hf : ∀ q e, portUp e q = false → (f q e).fab = e.fab ∧ (f q e).ports = e.ports ∧ (f q e).host = e.host)
    (l : List Port) (hl : ∀ q ∈ l, portUp d q = false) :
    (forEach l f d).fab = d.fab ∧ (forEach l f d).ports = d.ports ∧ (forEach l f d).host = d.host := by
  induction l generalizing d with
  | nil => exact ⟨rfl, rfl, rfl⟩
  | cons q l ih =>
    obtain ⟨h1, h2, h3⟩ := hf q d (hl q (.head _))
    have hu : ∀ x ∈ l, portUp (f q d) x = false := fun x hx => by
      unfold portUp
      rw [h2]
      exact hl x (.tail _ hx)
    obtain ⟨i1, i2, i3⟩ := ih hu
    exact ⟨i1.trans h1, i2.trans h2, i3.trans h3⟩

theorem admitPort_down {f : QFrame} {need : Nat} {rate : Option Nat} {q : Fin 8} (h : portUp d p = false) :
    admitPort f need rate p q d = countUnsent p q d := by
  unfold admitPort
  exact if_pos (by rw [h]; rfl)

theorem tagAtTalker_leaves (m : StreamMatch) (bs : List Byte) (d : Dev) : (tagAtTalker m bs d).2.fab = d.fab ∧
    (tagAtTalker m bs d).2.ports = d.ports ∧ (tagAtTalker m bs d).2.host = d.host := by
  unfold tagAtTalker
  split <;> exact ⟨rfl, rfl, rfl⟩

theorem queued_of_queues {a b : Dev} (h : b.fab.queues = a.fab.queues) : queued b = queued a := by
  unfold queued queueOf
  rw [h]

/-- Every port of the decision is the one port that the frame may leave by. -/
def OnlyPort (p : Port) (l : List Port) : Prop := l ≠ [] ∧ ∀ q ∈ l, q = p

theorem OnlyPort.eraseDups {l : List Port} (h : OnlyPort p l) : OnlyPort p l.eraseDups := by
  obtain ⟨hne, hall⟩ := h
  cases l with
  | nil => exact absurd rfl hne
  | cons x l =>
    refine ⟨by rw [List.eraseDups_cons]; exact List.cons_ne_nil _ _, fun q hq => hall q ?_⟩
    exact List.mem_eraseDups.mp hq

theorem OnlyPort.filter {l : List Port} {f : Port → Bool} (h : OnlyPort p l) (hf : f p = true) : OnlyPort p (l.filter f) := by
  obtain ⟨hne, hall⟩ := h
  cases l with
  | nil => exact absurd rfl hne
  | cons x l =>
    have hx : x = p := hall x (.head _)
    refine ⟨?_, fun q hq => hall q (List.mem_filter.mp hq).1⟩
    rw [List.filter_cons_of_pos (by rw [hx]; exact hf)]
    exact List.cons_ne_nil _ _

/-- What a transmit descriptor that names a port matches of a stream. -/
theorem withStream_direct {m : StreamMatch} (htx : ∀ g ∈ m.tx, g.port = p) (hres : ∀ r ∈ m.res, r.ports = [p]) (bs : List Byte) :
    OnlyPort p (withStream m { Decision.nowhere bs with ports := [p] }) := by
  have hback : ∀ q ∈ ([p].filter (!isBackbone ·)), q = p := fun q hq => List.mem_singleton.mp (List.mem_filter.mp hq).1
  unfold withStream
  rw [if_neg (by simp [Decision.nowhere])]
  split
  · next h =>
    refine OnlyPort.eraseDups ⟨fun he => ?_, fun q hq => ?_⟩
    · rw [List.append_eq_nil_iff] at he
      rw [List.map_eq_nil_iff.mp he.2] at h
      exact absurd h (by decide)
    · rcases List.mem_append.mp hq with hq | hq
      · exact hback q hq
      · obtain ⟨g, hg, rfl⟩ := List.mem_map.mp hq
        exact htx g hg
  · split
    · next h =>
      refine OnlyPort.eraseDups ⟨fun he => ?_, fun q hq => ?_⟩
      · rw [List.append_eq_nil_iff] at he
        cases hm : m.res with
        | nil =>
          rw [hm] at h
          exact absurd h (by decide)
        | cons r l =>
          have hr := hres r (hm ▸ .head _)
          rw [hm] at he
          simp [hr] at he
      · rcases List.mem_append.mp hq with hq | hq
        · exact hback q hq
        · obtain ⟨r, hr, hq⟩ := List.mem_flatMap.mp hq
          rw [hres r hr] at hq
          exact List.mem_singleton.mp hq
    · exact ⟨List.cons_ne_nil _ _, fun q hq => List.mem_singleton.mp hq⟩

/-- A frame without a copy anywhere is settled. -/
theorem settle_empty {f : QFrame} {o : HostOrigin} {status : Nat} (hq : queued d = []) (hh : d.fab.hostQueue = []) (hs : d.fab.sentUids = [])
    (ho : f.host = some o) : ∃ e : Dev, settle f status d = completeTx o status f.tsIdent e ∧ e.host = d.host ∧ e.fab.queues = d.fab.queues := by
  unfold settle
  rw [hq, hh, ho]
  simp only [List.map_nil, List.append_nil, List.filter_nil, List.all_nil, if_true, List.isEmpty_nil, onFab_fab, hs, List.contains_nil,
    Bool.false_eq_true, if_false]
  exact ⟨_, rfl, rfl, rfl⟩

/-- A frame whose only port is not up leaves no copy: its descriptor is written back with status 3. -/
theorem dispatchFrame_unsent {a : Arrival} {o : HostOrigin} {m : StreamMatch} {x : Decision} (hin : a.ingress = none) (hid : a.tsIdent = none)
    (ho : a.host = some o) (hm : OnlyPort p (withStream m x)) (hhost : x.host = false) (hprev : x.prevBank = false)
    (hunt : x.untranslatable = false) (hpass : protocolOnly d p = false) (hdown : portUp d p = false) (hq : queued d = [])
    (hh : d.fab.hostQueue = []) (hs : d.fab.sentUids = []) :
    ∃ e : Dev, dispatchFrame a m x d = completeTx o 3 none e ∧ e.host = d.host ∧ e.fab.queues = d.fab.queues := by
  have hx : atEpochZero d none x = x := if_neg (by simp)
  have hports := hm.filter (f := fun q => some q ≠ none && (mayPass d x.bytes q || passesThrough d none q)) (by simp [mayPass, hpass])
  obtain ⟨t1, t2, t3⟩ := tagAtTalker_leaves m x.bytes d
  unfold dispatchFrame
  rw [hin, hx]
  dsimp only
  rw [hhost, hprev, hunt, if_neg (by simp : ¬ Option.any isBackbone none = true)]
  generalize tagAtTalker m x.bytes d = y at t1 t2 t3
  obtain ⟨bs, d1⟩ := y
  dsimp only at t1 t2 t3 ⊢
  generalize (withStream m x).filter (fun q => some q ≠ none && (mayPass d x.bytes q || passesThrough d none q)) = l at hports
  generalize hf : newFrame d1 a x bs = f
  have hfo : f.host = some o := by rw [← hf]; exact ho
  have hfi : f.tsIdent = none := by rw [← hf]; exact hid
  generalize hb : onFab (fun b => { b with nextUid := b.nextUid + 1 }) d1 = b
  have hdowns : ∀ q ∈ l, portUp b q = false := fun q hq => by
    rw [hports.2 q hq, ← hb]
    show (d1.ports.p[p].link = .up : Bool) = false
    rw [t2]
    exact hdown
  rw [show onlyIf false (bump 0x2207 0x0D) b = b from rfl]
  generalize hg : (fun (p : Port) (d : Dev) => _ : Port → Dev → Dev) = g
  have hunsent := forEach_unsent (d := b) (f := g) (fun q e he => by
    rw [← hg]
    dsimp only
    rw [admitPort_down he]
    exact countUnsent_fab _ _ _) l hdowns
  generalize forEach l g b = c at hunsent
  obtain ⟨cf, cp, ch⟩ := hunsent
  rw [← hb] at cf cp ch
  have hcq : c.fab.queues = d.fab.queues := by rw [cf, ← t1]; rfl
  have hch : c.fab.hostQueue = [] := by rw [cf, ← hh, ← t1]; rfl
  have hcs : c.fab.sentUids = [] := by rw [cf, ← hs, ← t1]; rfl
  have hq' : queued c = [] := (queued_of_queues hcq).trans hq
  rw [show onlyIf (false && _) _ (onlyIf false _ c) = c from rfl, hq', hch]
  have hup : (!l.isEmpty && l.all (fun p => !portUp c p)) = true := by
    have hdn : ∀ q ∈ l, portUp c q = false := fun q hq => by
      unfold portUp
      rw [cp]
      exact (hb ▸ hdowns q hq)
    rw [Bool.and_eq_true, List.all_eq_true]
    exact ⟨by simpa using hports.1, fun q hq => by rw [hdn q hq]; rfl⟩
  have hne : (l.isEmpty && !false) = false := by simpa using hports.1
  rw [hne, hup, if_neg (by simp), if_neg (by decide), if_neg (by simp), if_pos rfl]
  obtain ⟨e, he, h1, h2⟩ := settle_empty (f := f) (status := 3) hq' hch hcs hfo
  exact ⟨e, by rw [he, hfi], h1.trans (ch.trans t3), h2.trans hcq⟩

/-- A transmit descriptor for a port that is not up. -/
theorem admitTx_unsent {r : Fin 10} {i : Nat} {desc buf : List Byte} (hp : txPort desc = some p) (hpass : protocolOnly d p = false)
    (hdown : portUp d p = false) (hq : queued d = []) (hh : d.fab.hostQueue = []) (hs : d.fab.sentUids = []) :
    ∃ e : Dev, admitTx r i desc buf d =
        completeTx { ring := r, index := i, flags := desc.getD 11 0, session := d.host.rings[r].session } 3 none e ∧ e.host = d.host := by
  unfold admitTx
  dsimp only
  rw [hp]
  dsimp only
  generalize hm : ({ strip := _, tx := _, res := _ } : StreamMatch) = m
  generalize ha : (⟨none, _, _, _, _, none, none, _, none, _⟩ : Arrival) = a
  have honly : OnlyPort p (withStream m { Decision.nowhere (buf ++ List.replicate (60 - buf.length) 0) with ports := [p] }) := by
    refine withStream_direct (fun g hg => ?_) (fun x hx => ?_) _
    · rw [← hm] at hg
      exact of_decide_eq_true (List.mem_filter.mp hg).2
    · rw [← hm] at hx
      obtain ⟨y, -, rfl⟩ := List.mem_map.mp hx
      rfl
  obtain ⟨e, he, h1, h2⟩ := dispatchFrame_unsent (d := draw d) (a := a)
    (o := { ring := r, index := i, flags := desc.getD 11 0, session := d.host.rings[r].session }) (by rw [← ha]) (by rw [← ha]) (by rw [← ha])
    honly rfl rfl rfl hpass hdown hq hh hs
  rw [he]
  have hstamp : ∀ x u, queued x = [] → stampCopy p u x = x := fun x u hx => by
    unfold stampCopy
    rw [hx]
    rfl
  have hsame : Framed [.out, .host, .ints] e
      (completeTx { ring := r, index := i, flags := desc.getD 11 0, session := d.host.rings[r].session } 3 none e) :=
    completeTx_framed _ _ _ _ (by decide) (.refl _ _)
  have hqe : queued (completeTx { ring := r, index := i, flags := desc.getD 11 0, session := d.host.rings[r].session } 3 none e) = [] :=
    (queued_of_queues (congrArg Prod.fst (hsame.same .queues (by decide)))).trans ((queued_of_queues h2).trans hq)
  refine ⟨e, ?_, h1⟩
  unfold onlyIf
  rw [hstamp _ _ hqe]
  exact ite_self _

end unsent

theorem buffer_unsent {r : Fin 10} {i t : Nat} {desc buf : List Byte} {p : Port} (h : s.dev.host.rings[r].reading = some ⟨.buffer i desc, t⟩)
    (hr : r.val < 4) (hp : txPort desc = some p) (hdown : portUp s.dev p = false) (hpass : protocolOnly s.dev p = false)
    (hq : queued s.dev = []) (hh : s.dev.fab.hostQueue = []) (hs : s.dev.fab.sentUids = []) (hrun : s.dev.host.rings[r].running = true)
    (hhead : s.dev.host.rings[r].head = i) (hdone : s.dev.host.rings[r].doneEarly = []) (hsize : s.dev.host.rings[r].size ≠ 0) :
    Completes (.dmaReadCompletion r buf) s fun d =>
      Out.dmaWrite r.val (descAddr s.dev.host.rings[r] i + 24) [3, 0, 0, 0, 0, 0, 0, 0] ∈ d.out := by
  have h8 : r ≠ 8 := fun e => absurd hr (by rw [e]; decide)
  refine completes_of_exec (exec_buffer h) ?_
  rw [if_neg h8]
  refine fetchNext_sent _ _ _ ?_
  have hring := readEnded_ring r s.found
  obtain ⟨e, he, hhost⟩ := admitTx_unsent (d := readEnded r s.found) (r := r) (i := i) (desc := desc) (buf := buf) hp hpass hdown hq hh hs
  rw [he]
  have hre : e.host.rings[r] = { s.dev.host.rings[r] with reading := none } := by
    rw [hhost, hring]
    rfl
  have hmem := completeTx_mem (o := { ring := r, index := i, flags := desc.getD 11 0, session := (readEnded r s.found).host.rings[r].session })
    (status := 3) (ident := none) (d := e) (by rw [hre]; exact hrun) (by rw [hhost]) (by rw [hre]; exact hhead) (by rw [hre]; exact hdone)
    (by rw [hre]; exact hsize)
  have haddr : descAddr e.host.rings[r] i = descAddr s.dev.host.rings[r] i := by rw [hre]; rfl
  rw [haddr] at hmem
  exact hmem

end obligation

/-- Settles O50: a ring's commands and the ends of its reads, one lemma each; a frame for a port that is not up leaves no copy and
its descriptor is written back. -/
theorem ringsFetchStopAndWriteBackAsGiven : Obligations.RingsFetchStopAndWriteBackAsGiven := by
  intro s r g written inOrder stopped
  refine ⟨fun hp v => ?_, fun hp => ⟨fun he => ?_, ringEnable_completes hp, ringDisable_completes hp, fun v => ⟨fun he => ?_, tail_completes hp v⟩⟩,
    dmaError_completes, fun hrun => ?_, fun x hx => dmaCompletionTimeout_completes hx,
    fun i t desc hx hl => ⟨descriptor_fetches hx hl, fun hr hm ⟨hrun, hhead, hdone, hsize⟩ =>
      descriptor_malformed hx hl hr hm hrun hhead hdone hsize, descriptor_ready hx hl⟩,
    fun i t desc buf p hx hr hp hdown hpass hq hh hs ⟨hrun, hhead, hdone, hsize⟩ =>
      buffer_unsent hx hr hp hdown hpass hq hh hs hrun hhead hdone hsize,
    fun h8 => ?_, fun t => ringModerationEnd_completes⟩
  case refine_1 =>
    simp only [List.forall_mem_cons, List.not_mem_nil, false_implies, implies_true, and_true]
    exact ⟨completes_alive rfl (execRingEnable_framed .serial r s) hp fun _ => .refl _ _,
      completes_alive rfl (execRingDisable_framed .serial r s) hp fun _ => .refl _ _,
      completes_alive rfl (execTail_framed .serial r v s) hp fun _ => .refl _ _⟩
  case refine_2 =>
    refine completes_alive rfl (execRingEnable_framed .pcie r s) hp fun _ => ?_
    rw [if_pos rfl, enableRing_enabled (d := s.found) he]
    exact .refl _ _
  case refine_3 =>
    refine completes_alive rfl (execTail_framed .pcie r v s) hp fun _ => ?_
    rw [if_pos rfl, show writeTail r v.toNat s.found = s.found from if_neg (by rw [show s.found.host.rings[r].enable = false from he]; decide)]
    exact .refl _ _
  case refine_4 =>
    have hstop : ¬ s.found.host.rings[r].running = true := by
      rw [show s.found.host.rings[r].running = false from hrun]
      decide
    exact completes_of_exec (f := id) (show execDmaError r s = _ from does_congr (if_neg hstop)) (.refl _ _)
  case refine_5 =>
    subst h8
    refine ⟨fun i t desc block hx => block_buffered hx rfl, fun i desc rest k hready hk hrun hread =>
      ⟨fun st hst => sampleFetch_refused hready hk hrun hread hst, fun hst => ?_⟩⟩
    obtain ⟨hwaits, hreads⟩ := serveBlock_reads (d := s.found) hready hrun hread hst hk
    refine ⟨fun hroom => completes_of_exec (exec_sampleFetch hready hk) (hreads hroom), fun hfull =>
      completes_of_exec (exec_sampleFetch hready hk) ?_⟩
    rw [hwaits hfull]
    exact .refl _ _

end Sys2Proof.Machine
end

section
/-! PROOF. What events, frames, rounds and ports leave alone: the registers of the other chapters, and the state of the recorder. -/

namespace Sys2Proof.Machine

/-- From `a` to `b` no register changes but those of the indices from 0x2100 on below 0x2B00. -/
def LowRegs (a b : Dev) : Prop := ∀ k, k < odKey 0x2100 0 ∨ odKey 0x2B00 0 ≤ k →
  Store.find odDefault b.dict.od k = Store.find odDefault a.dict.od k

section low

variable {a b c d : Dev}

theorem LowRegs.refl (d : Dev) : LowRegs d d := fun _ _ => rfl

theorem LowRegs.trans (h1 : LowRegs a b) (h2 : LowRegs b c) : LowRegs a c := fun k hk => (h2 k hk).trans (h1 k hk)

theorem LowRegs.of_od (h : b.dict.od = a.dict.od) : LowRegs a b := fun _ _ => by rw [h]

/-- What leaves the part `regs` alone changes no register. -/
theorem Framed.low {A : List Part} (h : Framed A a b) (hA : Part.regs ∉ A) : LowRegs a b := .of_od (h.same .regs hA)

theorem LowRegs.ite {p : Prop} [Decidable p] {x y : Dev} (hx : LowRegs a x) (hy : LowRegs a y) : LowRegs a (if p then x else y) := by
  split
  exacts [hx, hy]

theorem LowRegs.onlyIf {f : Dev → Dev} (p : Bool) (h : LowRegs d (f d)) : LowRegs d (onlyIf p f d) := .ite h (.refl d)

theorem LowRegs.forEach {α : Type} {f : α → Dev → Dev} (hf : ∀ x d, LowRegs d (f x d)) (l : List α) (d : Dev) :
    LowRegs d (forEach l f d) := by
  induction l generalizing d with
  | nil => exact .refl d
  | cons x l ih => exact (hf x d).trans (ih (f x d))

theorem LowRegs.setReg {idx : Nat} (h : LowRegs a b) (hi : 0x2100 ≤ idx ∧ idx < 0x2B00) (sub v : Nat) (hs : sub < 256) :
    LowRegs a (setReg idx sub v b) :=
  h.trans fun k hk => Store.find_put_other _ _ _ _ fun e => by
    unfold odKey at *
    omega

theorem LowRegs.bump {idx : Nat} (h : LowRegs a b) (hi : 0x2100 ≤ idx ∧ idx < 0x2B00) (sub : Nat) (hs : sub < 256) :
    LowRegs a (bump idx sub b) :=
  h.setReg hi sub _ hs

theorem bump_low {idx : Nat} (hi : 0x2100 ≤ idx ∧ idx < 0x2B00) (sub : Nat) (hs : sub < 256) (d : Dev) : LowRegs d (Machine.bump idx sub d) :=
  (LowRegs.refl d).bump hi sub hs

theorem LowRegs.cfg {idx sub : Nat} (h : LowRegs a b) (hi : 0x2B00 ≤ idx) : cfg b idx sub = cfg a idx sub := by
  unfold Machine.cfg DictS.reg
  rw [h _ (by unfold odKey; omega)]

theorem LowRegs.cfg_below {idx sub : Nat} (h : LowRegs a b) (hi : idx < 0x2100) (hs : sub < 256) : Machine.cfg b idx sub = Machine.cfg a idx sub := by
  unfold Machine.cfg DictS.reg
  rw [h _ (by unfold odKey; omega)]

/-! ### Events -/

theorem tarnCopy_low (e : Entry) (d : Dev) : LowRegs d (tarnCopy e d) := by
  unfold tarnCopy
  split
  · exact .of_od rfl
  · exact (bump_low (by decide) 0x11 (by decide) d).trans (.of_od rfl)

theorem tarnLimited_low (e : Entry) (d : Dev) : LowRegs d (tarnLimited e d) := by
  unfold tarnLimited
  exact .ite (.refl d) (.ite (tarnCopy_low e d) (.ite (.trans (.of_od rfl) (tarnCopy_low e _)) (bump_low (by decide) 0x0E (by decide) d)))

theorem ringAccept_low (e : Entry) (d : Dev) : LowRegs d (ringAccept e d) := by
  unfold ringAccept
  split
  · exact .of_od rfl
  · exact (bump_low (by decide) 0x0A (by decide) d).trans (.of_od rfl)

theorem holdingAccept_low (e : Entry) (d : Dev) : LowRegs d (holdingAccept e d) := by
  unfold holdingAccept
  split
  · exact .of_od rfl
  · exact LowRegs.bump (.of_od rfl) (by decide) 9 (by decide)

theorem stageEntry_low (e : Entry) (d : Dev) : LowRegs d (stageEntry e d) := by
  unfold stageEntry
  exact .ite (.ite (.of_od (by rw [startFlush_dict])) (.of_od rfl)) (ringAccept_low e d)

theorem placeWith_low {copy : Entry → Dev → Dev} (hcopy : ∀ e d, LowRegs d (copy e d)) (e : Entry) (d : Dev) :
    LowRegs d (placeWith copy e d) := by
  have hint : ∀ r, LowRegs d r → LowRegs d (if e.sev = 7 then setInt 28 r else r) := fun r h => .ite (h.trans (.of_od (by simp))) h
  unfold placeWith
  refine hint _ ?_
  refine LowRegs.trans (b := countEv 0x040 0 e.sev 1 { d with recd := { d.recd with lastSeq := seqNext d.recd.lastSeq } }) (.of_od rfl) ?_
  split
  · exact (stageEntry_low _ _).trans (hcopy _ _)
  · exact (holdingAccept_low _ _).trans (hcopy _ _)
  · exact (ringAccept_low _ _).trans (hcopy _ _)

theorem placeEntry_low (e : Entry) (d : Dev) : LowRegs d (placeEntry e d) := by
  have h := placeWith_low tarnLimited_low e d
  unfold placeEntry
  exact .ite ((h.trans (.of_od rfl)).trans (placeWith_low (fun _ d => .refl d) _ _)) h

theorem earlyAccept_low (e : Entry) (d : Dev) : LowRegs d (earlyAccept e d) := by
  unfold earlyAccept
  refine .ite (.of_od rfl) ?_
  split
  · exact .of_od rfl
  · exact (bump_low (by decide) 0x0A (by decide) d).trans (.of_od rfl)

theorem raiseP_low (ev : Ev) (inst : Nat) (payload : List Byte) (d : Dev) : LowRegs d (raiseP ev inst payload d) := by
  unfold raiseP recordEntry
  refine .ite (bump_low (by decide) 0x0B (by decide) d) ?_
  split
  · exact earlyAccept_low _ d
  · exact earlyAccept_low _ d
  · exact placeEntry_low _ d

theorem raise_low (ev : Ev) (inst : Nat) (d : Dev) : LowRegs d (raise ev inst d) := raiseP_low ev inst [] d

end low

/-! ### Ordinary steps

What most operations of the train network do to registers and recorder: they count, and they record events. The relation is the
least one with these steps, so that what every step keeps is read off it once. -/

/-- From `a` a device is reached by recording events, by writing registers of the indices from 0x2100 on below 0x2B00 or of the
list, and by changing what is neither a register nor in the recorder. -/
inductive Mild (K : List (Nat × Nat)) (a : Dev) : Dev → Prop
  | refl : Mild K a a
  | same {b c : Dev} : Mild K a b → c.dict.od = b.dict.od → c.recd = b.recd → Mild K a c
  | setReg {b : Dev} {idx sub : Nat} (v : Nat) : Mild K a b → (0x2100 ≤ idx ∧ idx < 0x2B00) ∧ sub < 256 ∨ (idx, sub) ∈ K →
      Mild K a (setReg idx sub v b)
  | raiseP {b : Dev} (ev : Ev) (inst : Nat) (payload : List Byte) : Mild K a b → Mild K a (raiseP ev inst payload b)

section mild

variable {K : List (Nat × Nat)} {a b c d : Dev}

theorem Mild.trans (h1 : Mild K a b) (h2 : Mild K b c) : Mild K a c := by
  induction h2 with
  | refl => exact h1
  | same _ ho hr ih => exact ih.same ho hr
  | setReg v _ hi ih => exact ih.setReg v hi
  | raiseP ev inst payload _ ih => exact ih.raiseP ev inst payload

theorem Mild.of_same (ho : b.dict.od = a.dict.od) (hr : b.recd = a.recd) : Mild K a b := Mild.refl.same ho hr

theorem Framed.mild {A : List Part} (h : Framed A a b) (hA : Part.regs ∉ A) (hR : Part.recd ∉ A) : Mild K a b :=
  .of_same (h.same .regs hA) (h.same .recd hR)

theorem Mild.ite {p : Prop} [Decidable p] {x y : Dev} (hx : Mild K a x) (hy : Mild K a y) : Mild K a (if p then x else y) := by
  split
  exacts [hx, hy]

theorem Mild.onlyIf {f : Dev → Dev} (p : Bool) (h : Mild K d (f d)) : Mild K d (onlyIf p f d) := .ite h .refl

theorem Mild.forEach {α : Type} {f : α → Dev → Dev} (hf : ∀ x d, Mild K d (f x d)) (l : List α) (d : Dev) : Mild K d (forEach l f d) := by
  induction l generalizing d with
  | nil => exact .refl
  | cons x l ih => exact (hf x d).trans (ih (f x d))

theorem Mild.bump {idx : Nat} (h : Mild K a b) (hi : 0x2100 ≤ idx ∧ idx < 0x2B00) (sub : Nat) (hs : sub < 256) : Mild K a (bump idx sub b) :=
  h.setReg _ (.inl ⟨hi, hs⟩)

theorem bump_mild {idx : Nat} (hi : 0x2100 ≤ idx ∧ idx < 0x2B00) (sub : Nat) (hs : sub < 256) (d : Dev) : Mild K d (Machine.bump idx sub d) :=
  Mild.refl.bump hi sub hs

theorem raise_mild (ev : Ev) (inst : Nat) (d : Dev) : Mild K d (raise ev inst d) := Mild.refl.raiseP ev inst []

/-- Ordinary steps change no register but those named. -/
theorem Mild.cfg {idx sub : Nat} (h : Mild K a b) (hs : sub < 256) (hi : idx < 0x2100 ∨ 0x2B00 ≤ idx)
    (hK : ∀ r ∈ K, odKey idx sub ≠ odKey r.1 r.2) : Machine.cfg b idx sub = Machine.cfg a idx sub := by
  induction h with
  | refl => rfl
  | same _ ho _ ih =>
    rw [← ih]
    unfold Machine.cfg DictS.reg
    rw [ho]
  | @setReg b idx' sub' v _ hk ih =>
    rw [← ih]
    refine cfg_setReg_ne _ _ _ _ _ _ ?_
    rcases hk with hk | hk
    · unfold odKey
      omega
    · exact hK _ hk
  | raiseP ev inst payload _ ih =>
    rw [← ih]
    rcases hi with hi | hi
    · exact (raiseP_low ev inst payload _).cfg_below hi hs
    · exact (raiseP_low ev inst payload _).cfg hi

/-- Ordinary steps that write no register besides leave those of the other chapters alone. -/
theorem Mild.low (h : Mild [] a b) : LowRegs a b := by
  induction h with
  | refl => exact .refl _
  | same _ ho _ ih => exact ih.trans (.of_od ho)
  | setReg v _ hk ih =>
    obtain ⟨hi, hs⟩ := hk.resolve_right (List.not_mem_nil)
    exact ih.setReg hi _ v hs
  | raiseP ev inst payload _ ih => exact ih.trans (raiseP_low ev inst payload _)

theorem countDrop_recdState (idx sub : Nat) (d : Dev) : (countDrop (Machine.bump idx sub d)).recd.state = d.recd.state := by
  have h : ∀ e, (countDrop e).recd.state = e.recd.state := fun e => by
    unfold countDrop
    dsimp only
    split <;> rfl
  rw [h, bump_recd]

theorem tarnCopy_recdState (e : Entry) (d : Dev) : (tarnCopy e d).recd.state = d.recd.state := by
  unfold tarnCopy
  split
  · rfl
  · exact countDrop_recdState _ _ d

theorem tarnLimited_recdState (e : Entry) (d : Dev) : (tarnLimited e d).recd.state = d.recd.state := by
  unfold tarnLimited
  dsimp only
  split_ifs
  · rfl
  · exact tarnCopy_recdState e d
  · exact tarnCopy_recdState e _
  · rw [bump_recd]

theorem ringAccept_recdState (e : Entry) (d : Dev) : (ringAccept e d).recd.state = d.recd.state := by
  unfold ringAccept
  split
  · rfl
  · exact countDrop_recdState _ _ d

theorem holdingAccept_recdState (e : Entry) (d : Dev) : (holdingAccept e d).recd.state = d.recd.state := by
  unfold holdingAccept
  split
  · rfl
  · rw [bump_recd]

theorem stageEntry_recdState (e : Entry) (d : Dev) : (stageEntry e d).recd.state = d.recd.state := by
  have hflush : ∀ d, (startFlush d).recd.state = d.recd.state := fun d => by
    unfold startFlush
    split <;> rfl
  unfold stageEntry
  dsimp only
  split
  · split
    · exact hflush _
    · rfl
  · exact ringAccept_recdState e d

theorem placeWith_recdState {copy : Entry → Dev → Dev} (hcopy : ∀ e d, (copy e d).recd.state = d.recd.state) (e : Entry) (d : Dev) :
    (placeWith copy e d).recd.state = d.recd.state := by
  have hint : ∀ r : Dev, r.recd.state = d.recd.state → (if e.sev = 7 then setInt 28 r else r).recd.state = d.recd.state := fun r h => by
    split
    · rw [setInt_recd, h]
    · exact h
  unfold placeWith
  refine hint _ ?_
  split <;> rw [hcopy]
  · exact stageEntry_recdState _ _
  · exact holdingAccept_recdState _ _
  · exact ringAccept_recdState _ _

theorem placeEntry_recdState (e : Entry) (d : Dev) : (placeEntry e d).recd.state = d.recd.state := by
  have h := placeWith_recdState tarnLimited_recdState e d
  unfold placeEntry
  dsimp only
  split
  · rw [placeWith_recdState fun _ _ => rfl]
    exact h
  · exact h

/-- Recording an event leaves the recorder in its state. -/
theorem raiseP_recdState (ev : Ev) (inst : Nat) (payload : List Byte) (d : Dev) : (raiseP ev inst payload d).recd.state = d.recd.state := by
  have hearly : ∀ e, (earlyAccept e d).recd.state = d.recd.state := fun e => by
    unfold earlyAccept
    split
    · rfl
    · split
      · rfl
      · exact countDrop_recdState _ _ d
  unfold raiseP recordEntry
  split
  · rw [bump_recd]
  · split
    · exact hearly _
    · exact hearly _
    · exact placeEntry_recdState _ d

/-- Ordinary steps leave the recorder in its state. -/
theorem Mild.recdState (h : Mild K a b) : b.recd.state = a.recd.state := by
  induction h with
  | refl => rfl
  | same _ _ hr ih => rw [hr, ih]
  | setReg v _ _ ih => exact ih
  | raiseP ev inst payload _ ih => rw [raiseP_recdState, ih]

theorem noteSilence_mild (d : Dev) : Mild K d (noteSilence d) := by
  unfold noteSilence
  refine Mild.trans ?_ (.forEach (fun _ => raise_mild evSilentSide noInst) _ _)
  exact .of_same rfl rfl

/-! ### Frames -/

theorem onFab_mild (f : FabricS → FabricS) (d : Dev) : Mild K d (onFab f d) := .of_same rfl rfl

theorem emit_mild (o : Out) (d : Dev) : Mild K d (emit o d) := .of_same rfl rfl

theorem countDiscard_mild (p : Port) {q : Nat} (hq : q < 8) (d : Dev) : Mild K d (countDiscard p q d) :=
  (bump_mild (by omega) (1 + q) (by omega) d).trans (.of_same rfl rfl)

theorem countUnsent_mild (p : Port) (q : Fin 8) (d : Dev) : Mild K d (countUnsent p q d) :=
  (bump_mild (by omega) 0x32 (by decide) d).trans ((Mild.onlyIf _ (bump_mild (by decide) 0x0D (by decide) _)).trans
    (.onlyIf _ (bump_mild (by decide) 2 (by decide) _)))

theorem settle_mild (f : QFrame) (status : Nat) (d : Dev) : Mild K d (settle f status d) :=
  (settle_framed (L := [.out, .queues, .host, .ints]) f status d (by decide) (.refl _ d)).mild (by decide) (by decide)

theorem discardFrom_mild {each : QFrame → Dev → Dev} (heach : ∀ f d, Mild K d (each f d)) (p : Port) (q : Fin 8) (bad : QFrame → Bool)
    (status : Nat) (d : Dev) : Mild K d (discardFrom p q bad status each d) := by
  unfold discardFrom
  refine Mild.trans ?_ (.forEach (fun f d => (heach f d).trans (settle_mild f status _)) _ _)
  exact ((endSpill_framed (L := [.queues]) p q _ (by decide)
    (setQueue_framed (L := [.queues]) p q _ d (by decide) (.refl _ d))).mild (by decide) (by decide))

theorem discardPort_mild (p : Port) (d : Dev) : Mild K d (discardPort p d) :=
  .forEach (fun q d => discardFrom_mild (fun _ => countUnsent_mild p q) p q _ 3 d) _ d

theorem pushFrame_mild (p : Port) (q : Fin 8) (f : QFrame) (d : Dev) : Mild K d (pushFrame p q f d) := .of_same rfl rfl

theorem admitPort_mild (f : QFrame) (need : Nat) (rate : Option Nat) (p : Port) (q : Fin 8) (d : Dev) :
    Mild K d (admitPort f need rate p q d) := by
  have hp : 0x2100 ≤ 0x2210 + p.val ∧ 0x2210 + p.val < 0x2B00 := by omega
  have hroom : ∀ n, Mild K d (allocCells f.uid n d) := fun n =>
    (allocCells_framed (L := [.queues, .counters]) _ n d (by decide) (.refl _ d)).mild (by decide) (by decide)
  unfold admitPort
  refine .ite (countUnsent_mild p q d) (.ite (.ite ?_ (countDiscard_mild p q.isLt d)) (.ite ?_ (countDiscard_mild p q.isLt d)))
  · refine Mild.bump (Mild.bump ?_ hp 0x0B (by decide)) hp 0x0A (by decide)
    exact Mild.trans (onFab_mild _ d) (pushFrame_mild _ _ _ _)
  · refine Mild.bump ?_ hp _ (by split <;> decide)
    exact (hroom _).trans (pushFrame_mild _ _ _ _)

theorem sendOwn_mild (p : Port) (q : Fin 8) (bs : List Byte) (d : Dev) : Mild K d (sendOwn p q bs d) := by
  unfold sendOwn
  exact (onFab_mild _ d).trans (admitPort_mild _ _ _ p q _)

/-! ### Rounds -/

theorem onInaug_mild (f : InaugS → InaugS) (d : Dev) : Mild K d (onInaug f d) := .of_same rfl rfl

theorem sendSc_mild (ports : List Port) (orig : Word48) (round seq : BitVec 16) (segment hops : Nat) (more : Bool) (b : ScBody) (d : Dev) :
    Mild K d (sendSc ports orig round seq segment hops more b d) :=
  .ite (.forEach (fun _ _ => (emit_mild _ _).trans (sendOwn_mild _ _ _ _)) _ _) .refl

theorem createSc_mild (ports : List Port) (b : ScBody) (d : Dev) : Mild K d (createSc ports b d) :=
  (onInaug_mild _ d).trans (sendSc_mild _ _ _ _ _ _ _ _ _)

theorem dropCommit_mild (d : Dev) : Mild K d (dropCommit d) :=
  (dropCommit_framed (L := [.inaug, .sched, .strm]) d (by decide) (.refl _ d)).mild (by decide) (by decide)

theorem timeStandardHold_mild (l : List Port) (d : Dev) : Mild K d (timeStandardHold l d) := .of_same rfl rfl

theorem timeRoundStart_mild (l : List Port) (d : Dev) : Mild K d (timeRoundStart l d) := .of_same rfl rfl

theorem sendClaim_mild (d : Dev) : Mild K d (sendClaim d) := (onInaug_mild _ d).trans (createSc_mild _ _ _)

theorem draw_mild (d : Dev) : Mild K d (draw d) := .of_same rfl rfl

theorem enterRound_mild (round : BitVec 16) (lowest : Word48) (revealed : List Port) (d : Dev) :
    Mild K d (enterRound round lowest revealed d) :=
  (dropCommit_mild d).trans ((onInaug_mild _ _).trans ((timeRoundStart_mild _ _).trans (sendClaim_mild _)))

theorem startRoundFrom_mild (since : Nat) (revealed : List Port) (d : Dev) : Mild K d (startRoundFrom since revealed d) :=
  (Mild.bump (onInaug_mild _ d) (by decide) 1 (by decide)).trans (enterRound_mild _ _ _ _)

theorem startRound_mild (revealed : List Port) (d : Dev) : Mild K d (startRound revealed d) := startRoundFrom_mild _ _ d

theorem joinRound_mild (since : Nat) (round : BitVec 16) (claimed : Word48) (d : Dev) : Mild K d (joinRound since round claimed d) :=
  (Mild.ite .refl (onInaug_mild _ d)).trans (enterRound_mild _ _ _ _)

theorem joinHeld_mild (d : Dev) : Mild K d (joinHeld d) := by
  unfold joinHeld
  split
  · exact .refl
  · exact .ite ((onInaug_mild _ d).trans (joinRound_mild _ _ _ _)) (onInaug_mild _ d)

theorem enterStandard_mild (d : Dev) : Mild K d (enterStandard d) :=
  (dropCommit_mild d).trans ((Mild.bump (onInaug_mild _ _) (by decide) 4 (by decide)).trans
    ((raise_mild _ _ _).trans (timeStandardHold_mild _ _)))

theorem failRound_mild (d : Dev) : Mild K d (failRound d) := by
  have h : Mild K d (raise evRoundFailed noInst (bump 0x2107 3 (onInaug (fun i => { i.stopTimers with
    failedRounds := i.failedRounds + 1, roundOwn := false }) (dropCommit d)))) :=
    (dropCommit_mild d).trans ((Mild.bump (onInaug_mild _ _) (by decide) 3 (by decide)).trans (raise_mild _ _ _))
  exact .ite (h.trans (enterStandard_mild _)) (h.trans ((onInaug_mild _ _).trans ((draw_mild _).trans (joinHeld_mild _))))

theorem abortRound_mild (cause : Nat) (d : Dev) : Mild K d (abortRound cause d) :=
  .ite ((createSc_mild _ _ _).trans (enterStandard_mild _)) ((createSc_mild _ _ _).trans (failRound_mild _))

theorem holdChange_mild (config : Bool) (ports : List Port) (d : Dev) : Mild K d (holdChange config ports d) :=
  (onInaug_mild _ d).trans (raise_mild _ _ _)

theorem onChange_mild (k : Change) (ports : List Port) (d : Dev) : Mild K d (onChange k ports d) := by
  unfold onChange
  refine .ite .refl ?_
  split
  · exact .refl
  · exact .ite (holdChange_mild _ _ d) (.ite (.ite .refl (.ite (timeStandardHold_mild _ d) (startRound_mild _ d)))
      (.ite (abortRound_mild _ d) (.ite (onInaug_mild _ d) (startRound_mild _ d))))

theorem onStrm_mild (f : StreamsS → StreamsS) (d : Dev) : Mild K d (onStrm f d) := .of_same rfl rfl

theorem classifySide_mild (p : Port) (rear : Bool) (old : Option Word48 × Option Word48) (d : Dev) :
    Mild K d (classifySide p rear old d) := by
  unfold classifySide
  dsimp only
  refine .ite .refl ?_
  generalize hu : onlyIf _ (bump 0x2107 6) _ = u
  have hu : Mild K d u := by
    subst hu
    refine .trans (.trans (.trans (.trans (onInaug_mild _ d) (.ite (raise_mild _ _ _) (.refl)))
      (.onlyIf _ ((bump_mild (by decide) 0x0B (by decide) _).trans (raise_mild _ _ _))))
      (.onlyIf _ ((bump_mild (by decide) 5 (by decide) _).trans (onStrm_mild _ _)))) (.onlyIf _ (bump_mild (by decide) 6 (by decide) _))
  exact .ite ((hu.trans (.onlyIf _ (onChange_mild _ _ u))).trans (onChange_mild _ _ _)) (hu.trans (.onlyIf _ (onChange_mild _ _ u)))

theorem onBack_mild (p : Port) (f : BackPort → BackPort) (d : Dev) : Mild K d (onBack p f d) := .of_same rfl rfl

theorem hearOn_mild (p : Port) (n : Option Neighbour) (d : Dev) : Mild K d (hearOn p n d) :=
  (onBack_mild p _ d).trans (classifySide_mild _ _ _ _)

/-! ### Ports -/

theorem backboneDown_mild (p : Port) (d : Dev) : Mild K d (backboneDown p d) :=
  .ite ((hearOn_mild p none d).trans (onBack_mild _ _ _)) .refl

theorem laneChange_mild (old : Port) (p : Port) (d : Dev) : Mild K d (laneChange old p d) :=
  (laneChange_framed (L := [.sched, .strm]) old p d (by decide) (.refl _ d)).mild (by decide) (by decide)

theorem onPort_mild (p : Port) (f : PortS → PortS) (d : Dev) : Mild K d (onPort p f d) := .of_same rfl rfl

theorem loseLink_mild (p : Port) (d : Dev) : Mild K d (loseLink p d) := by
  have h2 : 0x2100 ≤ 0x2300 + p.val ∧ 0x2300 + p.val < 0x2B00 := by omega
  unfold loseLink
  refine Mild.trans ?_ (laneChange_mild _ _ _)
  refine Mild.trans ?_ (backboneDown_mild _ _)
  refine Mild.trans ?_ ((timePortDown_framed (L := [.time]) p _ (by decide) (.refl _ _)).mild (by decide) (by decide))
  refine Mild.trans ?_ (raise_mild _ _ _)
  refine Mild.trans ?_ ((sweepCells_framed (L := [.queues]) _ (by decide) (.refl _ _)).mild (by decide) (by decide))
  refine Mild.bump ?_ h2 0x31 (by decide)
  refine Mild.trans ?_ ((clearPause_framed (L := [.ports]) p _ (by decide) (.refl _ _)).mild (by decide) (by decide))
  refine Mild.trans ?_ (discardPort_mild _ _)
  exact (Mild.onlyIf _ (bump_mild h2 0x32 (by decide) d)).trans (onPort_mild _ _ _)

theorem leaveUp_mild (p : Port) (d : Dev) : Mild K d (leaveUp p d) := .ite (loseLink_mild p d) .refl

theorem disablePort_mild (p : Port) (d : Dev) : Mild K d (disablePort p d) := by
  unfold disablePort
  dsimp only
  refine Mild.trans ?_ ((regroup_framed (L := [.ports]) _ _ (by decide) (.refl _ _)).mild (by decide) (by decide))
  have h : ∀ f, Mild K d (onPort p f (leaveUp p d)) := fun f => (leaveUp_mild p d).trans (onPort_mild _ _ _)
  exact .ite ((h _).trans ((scriptEnded_framed (L := [.ports]) _ _ (by decide) (.refl _ _)).mild (by decide) (by decide))) (h _)

theorem settlePort_mild (p : Port) (d : Dev) : Mild K d (settlePort p d) := by
  have hs : Mild K d (startPort p d) := (startPort_framed (L := [.fresh, .ports]) p d (by decide) (.refl _ d)).mild (by decide) (by decide)
  exact .ite (.ite hs ((.refl))) (.ite .refl (disablePort_mild p d))

theorem settlePorts_mild (d : Dev) : Mild K d (settlePorts d) := .forEach settlePort_mild _ d

theorem portsOff_mild (d : Dev) : Mild K d (portsOff d) := .forEach disablePort_mild _ d


/-! ### What of it leaves the registers of the other chapters alone -/

theorem noteSilence_low (d : Dev) : LowRegs d (noteSilence d) := (noteSilence_mild d).low

theorem sendOwn_low (p : Port) (q : Fin 8) (bs : List Byte) (d : Dev) : LowRegs d (sendOwn p q bs d) := (sendOwn_mild p q bs d).low

theorem settlePorts_low (d : Dev) : LowRegs d (settlePorts d) := (settlePorts_mild d).low

theorem portsOff_low (d : Dev) : LowRegs d (portsOff d) := (portsOff_mild d).low

/-! ### Ports that come up -/

theorem sendPtp_mild (p : Port) (m : PtpMsg) (d : Dev) : Mild K d (sendPtp p m d) :=
  .ite .refl (.trans (b := draw (emit (.ptp p m) d)) (.of_same rfl rfl) (sendOwn_mild _ _ _ _))

theorem sendPdelay_mild (p : Port) (d : Dev) : Mild K d (sendPdelay p d) := by
  unfold sendPdelay
  refine Mild.trans ?_ (sendPtp_mild _ _ _)
  exact .of_same rfl rfl

theorem timePortUp_mild (p : Port) (d : Dev) : Mild K d (timePortUp p d) := by
  unfold timePortUp
  refine .ite (Mild.trans ?_ (sendPdelay_mild _ _)) .refl
  exact .of_same rfl rfl

theorem sendDist_mild (p : Port) (kind identity generation activation number crc : Nat) (data : List Byte) (d : Dev) :
    Mild K d (sendDist p kind identity generation activation number crc data d) :=
  (emit_mild _ d).trans (sendOwn_mild _ _ _ _)

theorem sendOffers_mild (p : Port) (d : Dev) : Mild K d (sendOffers p d) := .ite (.forEach (fun _ => sendDist_mild _ _ _ _ _ _ _ _) _ _) .refl

theorem sendProbe_mild (p : Port) (d : Dev) : Mild K d (sendProbe p d) := (createSc_mild _ _ d).trans (onBack_mild _ _ _)

theorem sendHello_mild (p : Port) (d : Dev) : Mild K d (sendHello p d) :=
  ((emit_mild _ d).trans (sendOwn_mild _ _ _ _)).trans (onBack_mild _ _ _)

theorem backboneUp_mild (p : Port) (d : Dev) : Mild K d (backboneUp p d) := by
  unfold backboneUp
  refine .ite (Mild.trans ?_ (sendHello_mild _ _)) .refl
  exact .ite ((onBack_mild p _ d).trans (sendProbe_mild p _)) (onBack_mild p _ d)

theorem onSleep_mild (f : SleepS → SleepS) (d : Dev) : Mild K d (onSleep f d) := .of_same rfl rfl

theorem enterUp_mild (p : Port) (d : Dev) : Mild K d (enterUp p d) := by
  unfold enterUp
  dsimp only
  refine Mild.trans ?_ (laneChange_mild _ _ _)
  generalize hb : backboneUp p _ = b
  have hmild : Mild K d b := by
    subst hb
    refine Mild.trans (Mild.trans (Mild.trans ?_ (raise_mild _ _ _)) (timePortUp_mild p _)) (backboneUp_mild p _)
    exact .ite ((onPort_mild p _ d).trans (onSleep_mild _ _)) (onPort_mild p _ d)
  exact .ite (hmild.trans (sendOffers_mild p b)) hmild

theorem judgeLane_mild (p : Port) (d : Dev) : Mild K d (judgeLane p d) := by
  unfold judgeLane
  dsimp only
  generalize hb : onPort p _ d = b
  have hmild : Mild K d b := hb ▸ onPort_mild p _ d
  refine hmild.trans ?_
  split
  · exact .ite .refl (.ite (enterUp_mild p b) (onPort_mild p _ b))
  · exact .ite .refl (onPort_mild p _ b)
  · exact .ite (onPort_mild p _ b) (.ite (loseLink_mild p b) (.ite .refl (onPort_mild p _ b)))
  · exact .refl

theorem enterAcquiring_mild (p : Port) (d : Dev) : Mild K d (enterAcquiring p d) :=
  (enterAcquiring_framed (L := [.fresh, .ports]) p d (by decide) (.refl _ d)).mild (by decide) (by decide)

theorem awaitPhy_mild (p : Port) (d : Dev) : Mild K d (awaitPhy p d) :=
  (awaitPhy_framed (L := [.fresh, .ports]) p d (by decide) (.refl _ d)).mild (by decide) (by decide)

theorem planStatus_mild (p : Port) (d : Dev) : Mild K d (planStatus p d) := onPort_mild p _ d

theorem applyPort_mild (old : Dev) (written : Nat → Nat → Bool) (p : Port) (d : Dev) : Mild K d (applyPort old written p d) := by
  unfold applyPort
  dsimp only
  have h1 := settlePort_mild (K := K) p d
  generalize settlePort p d = d1 at h1
  refine h1.trans (Mild.trans ?_ (planStatus_mild p _))
  have hrest : ∀ (c : Prop) [Decidable c] (f : PortS → PortS) (d2 : Dev), Mild K d1 d2 →
      Mild K d1 (if c then onPort p f d2 else judgeLane p (onPort p f d2)) := fun c _ f d2 h2 =>
    h2.trans (.ite (onPort_mild p _ d2) ((onPort_mild p _ d2).trans (judgeLane_mild p _)))
  have hrestart : Mild K d1 (enterAcquiring p (leaveUp p d1)) := (leaveUp_mild p d1).trans (enterAcquiring_mild p _)
  refine hrest _ _ _ ?_
  split
  · exact .ite hrestart .refl
  · exact .ite hrestart .refl
  · exact .ite hrestart .refl
  · exact .ite (awaitPhy_mild p d1) .refl
  · exact .refl

/-! ### The need of the train and the operating profile -/

theorem pokeKeepAlive_mild (d : Dev) : Mild K d (pokeKeepAlive d) := .ite (.of_same rfl rfl) .refl

theorem abortSleep_mild (hK : (0x2B07, 2) ∈ K) (d : Dev) : Mild K d (abortSleep d) :=
  (Mild.setReg _ (onSleep_mild _ d) (.inr hK)).trans (raise_mild _ _ _)

theorem judgeSleep_mild (hK : (0x2B07, 2) ∈ K) (d : Dev) : Mild K d (judgeSleep d) := by
  have h1 := noteSilence_mild (K := K) d
  unfold judgeSleep
  generalize noteSilence d = n at h1
  refine h1.trans ?_
  dsimp only
  split
  · exact .ite ((onSleep_mild _ n).trans (pokeKeepAlive_mild _)) (pokeKeepAlive_mild n)
  · exact .ite ((abortSleep_mild hK n).trans (pokeKeepAlive_mild _)) (pokeKeepAlive_mild n)
  · exact .refl

theorem applyPorts_mild (hK : (0x2B07, 2) ∈ K) (old : Dev) (written : Nat → Nat → Bool) (d : Dev) : Mild K d (applyPorts old written d) :=
  (Mild.forEach (applyPort_mild old written) allPorts d).trans (judgeSleep_mild hK _)

theorem widenScope_mild (n : Nat) (d : Dev) : Mild K d (widenScope n d) := .ite ((onSleep_mild _ d).trans (settlePorts_mild _)) .refl

theorem pulseTwl_mild (hK : (0x2B07, 8) ∈ K) (d : Dev) : Mild K d (pulseTwl d) := .ite .refl (Mild.setReg _ (onSleep_mild _ d) (.inr hK))

theorem judgeNeed_mild (hK : (0x2B07, 8) ∈ K) (fromTwl : Bool) (d : Dev) : Mild K d (judgeNeed fromTwl d) :=
  ((Mild.onlyIf _ (pulseTwl_mild hK d)).trans (onSleep_mild _ _)).trans (.onlyIf _ (widenScope_mild _ _))

theorem settleNeed_mild (h2 : (0x2B07, 2) ∈ K) (h8 : (0x2B07, 8) ∈ K) (fromTwl : Bool) (d : Dev) : Mild K d (settleNeed fromTwl d) :=
  (judgeNeed_mild h8 fromTwl d).trans (judgeSleep_mild h2 _)

theorem setOperating_mild (hK : (0x2E03, 2) ∈ K) (clock : Nat → Nat) (mv : Nat) (d : Dev) : Mild K d (setOperating clock mv d) := by
  unfold setOperating
  dsimp only
  refine .ite (.setReg _ ?_ (.inr hK)) (.of_same rfl rfl)
  exact .of_same rfl rfl

theorem fastBegins_mild (hK : (0x2E03, 2) ∈ K) (back : Nat) (d : Dev) : Mild K d (fastBegins back d) := by
  refine Mild.trans ?_ (setOperating_mild hK _ _ _)
  exact .of_same rfl rfl

theorem fastEnds_mild (hK : (0x2E03, 2) ∈ K) (d : Dev) : Mild K d (fastEnds d) := by
  unfold fastEnds
  refine Mild.trans (Mild.trans ?_ (setOperating_mild hK nominalClock 800 _)) (.of_same rfl rfl)
  exact .of_same rfl rfl

/-- The registers besides that a change of profile may write. -/
def profileRegs : List (Nat × Nat) := [(0x2001, 5), (0x2B07, 2), (0x2B07, 8), (0x2E03, 2)]

theorem enterProfile_mild (n : Nat) (d : Dev) : Mild profileRegs d (enterProfile n d) := by
  have hstops : ∀ e, Mild profileRegs e (serviceStops e) := fun e =>
    (serviceStops_framed (L := [.out, .queues, .sched, .strm, .host, .ints]) e (by decide) (.refl _ e)).mild (by decide) (by decide)
  have hreturns : ∀ e, Mild profileRegs e (serviceReturns e) := fun e =>
    (serviceReturns_framed (L := [.out, .queues, .sched, .strm, .host, .ints]) e (by decide) (.refl _ e)).mild (by decide) (by decide)
  have hgate : ∀ e, Mild profileRegs e (plannerGate e) := fun e =>
    (plannerGate_framed (L := [.health]) e (by decide) (.refl _ e)).mild (by decide) (by decide)
  unfold enterProfile
  dsimp only
  refine .ite .refl ?_
  generalize hd1 : bump 0x2001 5 _ = d1
  have h1 : Mild profileRegs d d1 := by
    subst hd1
    refine Mild.setReg _ ?_ (.inr (by decide))
    exact .of_same rfl rfl
  generalize hd3 : onlyIf (decide (n = 1)) serviceStops _ = d3
  have h3 : Mild profileRegs d1 d3 := by
    subst hd3
    exact (((Mild.onlyIf _ (fastEnds_mild (by decide) d1)).trans (.onlyIf _ (fastBegins_mild (by decide) _ _))).trans (.onlyIf _ (hreturns _))).trans
      (.onlyIf _ (hstops _))
  refine h1.trans (h3.trans (.ite ?_ .refl))
  have ha := applyPorts_mild (K := profileRegs) (by decide) d (fun _ _ => false) d3
  generalize applyPorts d (fun _ _ => false) d3 = d4 at ha
  exact ha.trans ((settleNeed_mild (by decide) (by decide) false d4).trans (hgate _))

end mild

end Sys2Proof.Machine
end

section
/-! PROOF. Wake sources: acceptance in each state, the latch, the wake record and TWL_OUT (R402 to R409, R411). -/

namespace Sys2Proof.Machine

/-! ### The sleep manager -/

section manager

variable {a b d : Dev}

/-- The sleep manager but for what judging the need sets: state, scope, silence, TWL_OUT and the next keep-alive. -/
def SleepS.given (m : SleepS) : SleepS :=
  { m with state := .awake, scope := 0, readyDeadline := none, twlOutEnd := none, periodDue := none, lastNeed := false, lastScope := 0
           silentFront := false, silentRear := false }

theorem noteSilence_sleep (d : Dev) : (noteSilence d).sleep =
    { d.sleep with silentFront := sideSilent d false, silentRear := sideSilent d true } := by
  have h : ∀ (l : List Nat) (e : Dev), (forEach l (fun _ => raise evSilentSide noInst) e).sleep = e.sleep := fun l e => by
    induction l generalizing e with
    | nil => rfl
    | cons x l ih => exact (ih _).trans (raise_sleep _ _ _)
  unfold noteSilence
  rw [h]
  rfl

theorem pokeKeepAlive_sleep (d : Dev) : ∃ t, (pokeKeepAlive d).sleep = { d.sleep with periodDue := t } := by
  unfold pokeKeepAlive
  dsimp only
  split
  · exact ⟨_, rfl⟩
  · exact ⟨d.sleep.periodDue, rfl⟩

theorem pokeKeepAlive_state (d : Dev) : (pokeKeepAlive d).sleep.state = d.sleep.state := by
  obtain ⟨t, ht⟩ := pokeKeepAlive_sleep d
  rw [ht]

theorem pokeKeepAlive_given (d : Dev) : (pokeKeepAlive d).sleep.given = d.sleep.given := by
  obtain ⟨t, ht⟩ := pokeKeepAlive_sleep d
  rw [ht]
  rfl

theorem pokeKeepAlive_low (d : Dev) : LowRegs d (pokeKeepAlive d) := .ite (.of_od rfl) (.refl d)

theorem abortSleep_sleep (d : Dev) : (abortSleep d).sleep = { d.sleep with state := .awake, readyDeadline := none } := by
  unfold abortSleep
  rw [raise_sleep, bump_sleep]
  rfl

/-- A sleep called off counts. -/
theorem abortSleep_counts (d : Dev) : cfg (abortSleep d) 0x2B07 2 = min 0xFFFFFFFF (cfg d 0x2B07 2 + 1) :=
  ((raise_low evSleepAborted noInst _).cfg (by decide)).trans (cfg_bump_self _ _ _ rfl)

theorem noteSilence_given (d : Dev) : (noteSilence d).sleep.given = d.sleep.given := by
  rw [noteSilence_sleep]
  rfl

theorem judgeSleep_given (d : Dev) : (judgeSleep d).sleep.given = d.sleep.given := by
  refine Eq.trans ?_ (noteSilence_given d)
  unfold judgeSleep
  generalize noteSilence d = n
  dsimp only
  split
  · split
    · rw [pokeKeepAlive_given]
      rfl
    · exact pokeKeepAlive_given n
  · split
    · rw [pokeKeepAlive_given, abortSleep_sleep]
      rfl
    · exact pokeKeepAlive_given n
  · rfl

theorem widenScope_given (n : Nat) (d : Dev) : (widenScope n d).sleep.given = d.sleep.given ∧ (widenScope n d).sleep.state = d.sleep.state := by
  unfold widenScope
  split
  · rw [show (settlePorts _).sleep = _ from (settlePorts_framed _ (fun _ h => h) (.refl _ _)).same .sleep (by decide)]
    exact ⟨rfl, rfl⟩
  · exact ⟨rfl, rfl⟩

theorem pulseTwl_given (d : Dev) : (pulseTwl d).sleep.given = d.sleep.given ∧ (pulseTwl d).sleep.state = d.sleep.state := by
  unfold pulseTwl
  split
  · exact ⟨rfl, rfl⟩
  · rw [bump_sleep]
    exact ⟨rfl, rfl⟩

theorem onlyIf_sleep {α : Sort _} {f : Dev → Dev} (part : Dev → α) (c : Bool) (d : Dev) (hf : part (f d) = part d) : part (onlyIf c f d) = part d := by
  unfold onlyIf
  split
  exacts [hf, rfl]

theorem judgeNeed_given (fromTwl : Bool) (d : Dev) : (judgeNeed fromTwl d).sleep.given = d.sleep.given ∧
    (judgeNeed fromTwl d).sleep.state = d.sleep.state := by
  unfold judgeNeed
  dsimp only
  generalize hb : onSleep _ (onlyIf _ pulseTwl d) = b
  have hbg : b.sleep.given = d.sleep.given ∧ b.sleep.state = d.sleep.state := by
    rw [← hb]
    exact ⟨Eq.trans rfl (onlyIf_sleep (fun d => d.sleep.given) _ d (pulseTwl_given d).1),
      Eq.trans rfl (onlyIf_sleep (fun d => d.sleep.state) _ d (pulseTwl_given d).2)⟩
  exact ⟨(onlyIf_sleep (fun d => d.sleep.given) _ b (widenScope_given _ b).1).trans hbg.1,
    (onlyIf_sleep (fun d => d.sleep.state) _ b (widenScope_given _ b).2).trans hbg.2⟩

theorem settleNeed_given (fromTwl : Bool) (d : Dev) : (settleNeed fromTwl d).sleep.given = d.sleep.given :=
  (judgeSleep_given _).trans (judgeNeed_given _ _).1

/-- Judging the own need counts pulses of TWL_OUT and nothing else of chapter 13. -/
theorem judgeNeed_cfg (fromTwl : Bool) (d : Dev) {idx sub : Nat} (hi : 0x2B00 ≤ idx) (hne : odKey idx sub ≠ odKey 0x2B07 8) :
    cfg (judgeNeed fromTwl d) idx sub = cfg d idx sub := by
  have hp : cfg (pulseTwl d) idx sub = cfg d idx sub := by
    unfold pulseTwl
    split
    · rfl
    · exact cfg_bump_ne _ _ _ _ _ hne
  have hw : ∀ n b, LowRegs b (widenScope n b) := fun n b => by
    unfold widenScope
    refine .ite ?_ (.refl b)
    refine LowRegs.trans ?_ (settlePorts_low _)
    exact .of_od rfl
  unfold judgeNeed
  dsimp only
  refine ((LowRegs.onlyIf _ (hw _ _)).cfg hi).trans ?_
  exact onlyIf_sleep (fun d => cfg d idx sub) _ d hp

/-! ### A node that is needed -/

theorem ownNeed_of_hold (h : d.sleep.holdEnd.isSome = true) : ownNeed d = true := by
  unfold ownNeed needScopes
  rw [h]
  simp

theorem trainNeed_of_hold (h : d.sleep.holdEnd.isSome = true) : trainNeed d = true := by
  unfold trainNeed
  rw [ownNeed_of_hold h]
  rfl

/-- A part of the sleep manager that judging the need leaves alone. -/
theorem given_part {α : Sort _} {x y : SleepS} (part : SleepS → α) (hp : ∀ m, part m.given = part m) (h : x.given = y.given) :
    part x = part y := by rw [← hp x, h, hp]

theorem given_holdEnd {x y : SleepS} (h : x.given = y.given) : x.holdEnd = y.holdEnd := given_part (·.holdEnd) (fun _ => rfl) h

/-- A node that holds itself awake is Awake, and a sleep under way is called off. -/
theorem judgeSleep_holds (hold : d.sleep.holdEnd.isSome = true) (hst : d.sleep.state = .awake ∨ d.sleep.state = .readySleep) :
    (judgeSleep d).sleep.state = .awake ∧
      (d.sleep.state = .readySleep → cfg (judgeSleep d) 0x2B07 2 = min 0xFFFFFFFF (cfg d 0x2B07 2 + 1)) := by
  have hlow : cfg (noteSilence d) 0x2B07 2 = cfg d 0x2B07 2 := (noteSilence_low d).cfg (by decide)
  have hstate : (noteSilence d).sleep.state = d.sleep.state := by rw [noteSilence_sleep]
  have hneed : trainNeed (noteSilence d) = true := trainNeed_of_hold (by rw [given_holdEnd (noteSilence_given d)]; exact hold)
  unfold judgeSleep
  generalize noteSilence d = n at hlow hstate hneed
  dsimp only
  rw [← hstate] at hst ⊢
  rw [hneed]
  rcases hst with h | h
  · rw [h]
    dsimp only
    rw [if_neg (by simp)]
    exact ⟨(pokeKeepAlive_state n).trans h, fun e => nomatch e⟩
  · rw [h]
    dsimp only
    rw [if_pos (by simp)]
    refine ⟨?_, fun _ => ?_⟩
    · rw [pokeKeepAlive_state, abortSleep_sleep]
    · rw [(pokeKeepAlive_low _).cfg (by decide), abortSleep_counts, hlow]

theorem settleNeed_holds (fromTwl : Bool) (hold : d.sleep.holdEnd.isSome = true) (hst : d.sleep.state = .awake ∨ d.sleep.state = .readySleep) :
    (settleNeed fromTwl d).sleep.state = .awake ∧
      (d.sleep.state = .readySleep → cfg (settleNeed fromTwl d) 0x2B07 2 = min 0xFFFFFFFF (cfg d 0x2B07 2 + 1)) := by
  obtain ⟨hg, hs⟩ := judgeNeed_given fromTwl d
  have := judgeSleep_holds (d := judgeNeed fromTwl d) (by rw [given_holdEnd hg]; exact hold) (by rw [hs]; exact hst)
  rw [hs, judgeNeed_cfg fromTwl d (by decide) (by decide)] at this
  exact this

end manager

/-! ### The acceptance of one source (R402, R403) -/

section accept

variable {d : Dev} {n : Nat}

theorem sourceScope_of_dict {a b : Dev} (h : b.dict = a.dict) (n : Nat) : sourceScope b n = sourceScope a n := by
  unfold sourceScope levelScope
  simp only [cfg_of_dict h]

theorem sourceScope_of_cfg {a b : Dev} (h : ∀ idx sub, idx ≠ 0x2B07 → sub < 256 → cfg b idx sub = cfg a idx sub) (n : Nat) :
    sourceScope b n = sourceScope a n := by
  unfold sourceScope levelScope
  rw [h 0x2B03 _ (by decide) (by decide), h 0x2B03 _ (by decide) (by decide), h 0x2B01 4 (by decide) (by decide),
    h 0x2B01 2 (by decide) (by decide)]
  split
  · rfl
  · split
    · rfl
    · split
      · rfl
      · split
        · rw [h 0x2B04 (n - 3) (by decide) (by omega)]
        · rfl

theorem sourcesOf_zero : sourcesOf (BitVec.toNat (0 : AlsoAccepted)) = [] := by decide

theorem foldl_min_single (hn : n ≤ 17) : ([n].foldl min 17 : Nat) = n := by
  show min 17 n = n
  omega

/-- The device on which one wake input is spent. -/
def sourceSpentOn (n : Nat) (d : Dev) : Dev := spendSources [n] d

theorem sourceSpentOn_spent (hn : n ≤ 15) (d : Dev) : (n, none) ∈ (sourceSpentOn n d).sleep.spent := by
  have h : [n].filter (fun x => decide (x ≤ 15)) = [n] := List.filter_cons_of_pos (decide_eq_true hn)
  show (n, none) ∈ d.sleep.spent.filter _ ++ ([n].filter (fun x => decide (x ≤ 15))).map (fun x => (x, none))
  rw [h]
  exact List.mem_append_right _ (.head _)

/-- The hold after a wake that an awake node accepts. -/
def wakeHeld (n : Nat) (d : Dev) : Dev :=
  onSleep (fun m => { m with holdEnd := some (d.now + cfg d 0x2B02 4 * sNs), holdScope := sourceScope d n }) (sourceSpentOn n d)

theorem acceptWake_held (hn : n ≤ 17) (hp : d.pow.state = .active) (hs : d.sleep.state = .awake ∨ d.sleep.state = .readySleep) :
    acceptWake n 0 d = settleNeed (decide (n = 1)) (wakeHeld n d) := by
  have hscope : sourceScope (sourceSpentOn n d) n = sourceScope d n := sourceScope_of_dict rfl n
  have hrun : acceptWake n 0 d = settleNeed (decide ([n].foldl min 17 = 1)) (onSleep (fun s => { s with
      holdEnd := some ((sourceSpentOn n d).now + cfg (sourceSpentOn n d) 0x2B02 4 * sNs)
      holdScope := sourceScope (sourceSpentOn n d) ([n].foldl min 17) }) (sourceSpentOn n d)) := by
    unfold acceptWake
    rw [sourcesOf_zero, hp]
    rcases hs with h | h <;> rw [h] <;> rfl
  rw [hrun]
  simp only [foldl_min_single hn, hscope]
  rfl

theorem acceptWake_latched (hp : d.pow.state = .active) (hs : d.sleep.state = .committing) :
    acceptWake n 0 d = latchWake [n] (sourceSpentOn n d) := by
  unfold acceptWake
  rw [sourcesOf_zero, hp, hs]
  rfl

theorem acceptWake_wakes (hp : d.pow.state = .standby ∨ d.pow.state = .sleep) (hs : d.sleep.state = .asleep) :
    acceptWake n 0 d = wakeNow false [n] (bump 0x2B07 7 (sourceSpentOn n d)) := by
  unfold acceptWake
  rw [sourcesOf_zero, hs]
  rcases hp with h | h <;> rw [h] <;> rfl

/-- A wake while the node is awake: the hold and its scope stand, the source is spent, and a sleep under way is called off. -/
theorem acceptWake_holds (hn : n ≤ 15) (hp : d.pow.state = .active) (hs : d.sleep.state = .awake ∨ d.sleep.state = .readySleep) :
    (acceptWake n 0 d).sleep.state = .awake ∧ (acceptWake n 0 d).sleep.holdEnd = some (d.now + cfg d 0x2B02 4 * sNs) ∧
      (acceptWake n 0 d).sleep.holdScope = sourceScope d n ∧ (n, none) ∈ (acceptWake n 0 d).sleep.spent ∧
      (d.sleep.state = .readySleep → cfg (acceptWake n 0 d) 0x2B07 2 = min 0xFFFFFFFF (cfg d 0x2B07 2 + 1)) := by
  rw [acceptWake_held (by omega) hp hs]
  have hg := settleNeed_given (decide (n = 1)) (wakeHeld n d)
  obtain ⟨hst, hcount⟩ := settleNeed_holds (decide (n = 1)) (d := wakeHeld n d) rfl hs
  refine ⟨hst, given_holdEnd hg, given_part (·.holdScope) (fun _ => rfl) hg, ?_, hcount⟩
  rw [given_part (·.spent) (fun _ => rfl) hg]
  exact sourceSpentOn_spent hn d

/-- The record that a wake after the commit point leaves. -/
def latchRecord (l : List Nat) : WakeRec :=
  { source := l.foldl min 17, latched := true, fromSleep := false, scope := 0, ports := [], time := 0
    sources := (l.map (fun x => 2 ^ (x - 1))).sum }

theorem latchWake_first {l : List Nat} (h : d.sleep.latched = none) : ∃ r, (latchWake l d).sleep.latched = some r ∧
    r.source = l.foldl min 17 ∧ r.latched = true ∧ (latchWake l d).sleep.state = d.sleep.state := by
  have he : latchWake l d = raise evWakeLatched noInst (onSleep (fun s => { s with latched := some (latchRecord l) }) d) :=
    if_neg (by rw [h]; decide)
  rw [he, raise_sleep]
  exact ⟨latchRecord l, rfl, rfl, rfl, rfl⟩

theorem latchWake_again {l : List Nat} {r : WakeRec} (h : d.sleep.latched = some r) : latchWake l d = d := by
  unfold latchWake
  rw [h]
  rfl

end accept

/-! ### The wake itself (R406 to R409) -/

section wake

variable {d : Dev} {n : Nat}

theorem pulseTwl_idle (h : d.sleep.twlOutEnd = none) : pulseTwl d =
    bump 0x2B07 8 (onSleep (fun s => { s with twlOutEnd := some (d.now + cfg d 0x2B03 3 * msNs) }) d) := if_neg (by rw [h]; decide)

/-- The record of a wake by one source. -/
def wakeRecord (n : Nat) (d : Dev) : WakeRec :=
  { source := n, latched := false, fromSleep := decide (d.pow.state = .sleep), scope := sourceScope d n, ports := [], time := coarseNow d
    sources := 2 ^ (n - 1) }

/-- The device that begins to wake with a scope. -/
def wakingOn (scope : Nat) (d : Dev) : Dev :=
  let d1 := onSleep (fun s => { s with
    state := .waking, scope := scope, wokenPorts := [], timerEnd := none, latched := none, lastNeed := true, lastScope := scope }) d
  { d1 with host := { d1.host with wakeLow := d1.pins.strapPcie } }

/-- The device that is waking, before its PHYs are read. -/
def wakeBegun (n : Nat) (d : Dev) : Dev := onlyIf (sourceScope d n = 2 && n ≠ 1) pulseTwl (wakingOn (sourceScope d n) d)

theorem wakeNow_alone (hn : n ≤ 17) (d : Dev) : wakeNow false [n] d =
    if (readoutPorts (wakeBegun n d) [n]).isEmpty then requestActive (wakeRecord n d) [] (wakeBegun n d)
    else forEach (readoutPorts (wakeBegun n d) [n]) readoutPort (onSleep (fun s => { s with
      readout := some (wakeRecord n d, readoutPorts (wakeBegun n d) [n], (wakeBegun n d).now) }) (wakeBegun n d)) := by
  unfold wakeNow
  rw [foldl_min_single hn]
  rfl

theorem readoutPorts_of_cfg {a b : Dev} (h : ∀ idx sub, idx ≠ 0x2B07 → sub < 256 → cfg b idx sub = cfg a idx sub) (l : List Nat) :
    readoutPorts b l = readoutPorts a l := by
  unfold readoutPorts portReg
  refine List.filter_congr fun p _ => ?_
  rw [h 0x2B05 _ (by decide) (by omega), h 0x2B05 6 (by decide) (by decide), h (0x2300 + p.val) 0x16 (by omega) (by decide)]

theorem wakeBegun_cfg (n : Nat) (d : Dev) {idx sub : Nat} (h : odKey idx sub ≠ odKey 0x2B07 8) : cfg (wakeBegun n d) idx sub = cfg d idx sub := by
  unfold wakeBegun
  refine onlyIf_sleep (fun d => cfg d idx sub) _ _ ?_
  unfold pulseTwl
  split
  · rfl
  · exact cfg_bump_ne _ _ _ _ _ h

theorem wakeBegun_sleep (n : Nat) (d : Dev) : ∃ t, (wakeBegun n d).sleep = { d.sleep with
    state := .waking, scope := sourceScope d n, wokenPorts := [], timerEnd := none, latched := none, lastNeed := true
    lastScope := sourceScope d n, twlOutEnd := t } := by
  unfold wakeBegun onlyIf
  dsimp only
  split
  · unfold pulseTwl
    split
    · exact ⟨d.sleep.twlOutEnd, rfl⟩
    · exact ⟨some (d.now + cfg d 0x2B03 3 * msNs), by rw [bump_sleep]; rfl⟩
  · exact ⟨d.sleep.twlOutEnd, rfl⟩

/-- A wake of train scope that TWL_IN did not bring starts the pulse. -/
theorem wakeBegun_pulses (hs : sourceScope d n = 2) (hn : n ≠ 1) (ht : d.sleep.twlOutEnd = none) :
    cfg (wakeBegun n d) 0x2B07 8 = min 0xFFFFFFFF (cfg d 0x2B07 8 + 1) ∧
      (wakeBegun n d).sleep.twlOutEnd = some (d.now + cfg d 0x2B03 3 * msNs) := by
  unfold wakeBegun onlyIf
  rw [hs, if_pos (by simp [hn]), pulseTwl_idle (d := wakingOn 2 d) ht]
  refine ⟨cfg_bump_self _ _ _ rfl, ?_⟩
  rw [bump_sleep]
  rfl

/-- Readouts send accesses and change nothing else. -/
theorem readouts_send (l : List Port) (d : Dev) : ∃ o, forEach l readoutPort d = { d with out := o } := by
  induction l generalizing d with
  | nil => exact ⟨d.out, rfl⟩
  | cons p l ih =>
    obtain ⟨o, ho⟩ := ih (readoutPort p d)
    exact ⟨o, ho⟩

/-- Active is requested with a wake record: the boot begins and the record heads the history. -/
theorem requestActive_boots (r : WakeRec) (woken : List Port) (d : Dev) :
    let e := requestActive r woken d
    e.pow.state = .booting ∧ e.pow.bootStep = 1 ∧ e.pow.bootCause = (if r.fromSleep then 7 else 6) ∧
      e.sleep = { d.sleep with readout := none, wokenPorts := woken, history := (r :: d.sleep.history).take 8 } ∧ e.now = d.now ∧
      ∀ sub < 256, cfg e 0x2B07 sub = cfg d 0x2B07 sub := by
  refine ⟨?_, ?_, ?_, ?_, ?_, fun sub hsub => ?_⟩
  · simp [requestActive, startBoot, onPow]
  · simp [requestActive, startBoot, onPow]
  · simp [requestActive, startBoot, onPow]
  · simp [requestActive, startBoot, onPow]
  · simp [requestActive, startBoot, onPow]
  · unfold requestActive startBoot
    refine (cfg_bump_ne _ _ _ _ _ (by unfold odKey; omega)).trans ?_
    exact (raiseP_low evWakeAccepted noInst r.pack _).cfg (idx := 0x2B07) (by decide)

theorem wakeBegun_now (n : Nat) (d : Dev) : (wakeBegun n d).now = d.now := by
  unfold wakeBegun
  refine onlyIf_sleep (fun d => d.now) _ _ ?_
  unfold pulseTwl
  split
  · rfl
  · rw [bump_now]
    rfl

/-- What a wake by one source leaves, whether or not PHYs are read first. -/
theorem wakeNow_leaves (hn : n ≤ 17) (d : Dev) : let e := wakeNow false [n] d
    let b := wakeBegun n d
    e.now = b.now ∧ e.sleep.state = b.sleep.state ∧ e.sleep.scope = b.sleep.scope ∧ e.sleep.twlOutEnd = b.sleep.twlOutEnd ∧
      ∀ sub < 256, cfg e 0x2B07 sub = cfg b 0x2B07 sub := by
  dsimp only
  rw [wakeNow_alone hn]
  generalize wakeBegun n d = b
  split
  · obtain ⟨-, -, -, hs, hn, hc⟩ := requestActive_boots (wakeRecord n d) [] b
    rw [hs]
    exact ⟨hn, rfl, rfl, rfl, hc⟩
  · obtain ⟨o, ho⟩ := readouts_send (readoutPorts b [n]) (onSleep (fun s => { s with
      readout := some (wakeRecord n d, readoutPorts b [n], b.now) }) b)
    rw [ho]
    exact ⟨rfl, rfl, rfl, rfl, fun _ _ => rfl⟩

/-- What a wake by one source leaves (R406 to R409). -/
theorem wakeNow_wakes (hn : n ≤ 17) (d : Dev) :
    let e := wakeNow false [n] (bump 0x2B07 7 d)
    e.now = d.now ∧ e.sleep.state = .waking ∧ e.sleep.scope = sourceScope d n ∧
      cfg e 0x2B07 7 = min 0xFFFFFFFF (cfg d 0x2B07 7 + 1) ∧
      (sourceScope d n = 2 → n ≠ 1 → d.sleep.twlOutEnd = none → cfg e 0x2B07 8 = min 0xFFFFFFFF (cfg d 0x2B07 8 + 1) ∧
        e.sleep.twlOutEnd = some (d.now + cfg d 0x2B03 3 * msNs)) ∧
      (readoutPorts d [n] = [] → e.pow.state = .booting ∧ e.pow.bootStep = 1 ∧
        e.pow.bootCause = (if d.pow.state = .sleep then 7 else 6) ∧
        ∃ r : WakeRec, e.sleep.history = (r :: d.sleep.history).take 8 ∧ r.source = n ∧ r.latched = false ∧ r.scope = sourceScope d n ∧
          r.fromSleep = decide (d.pow.state = .sleep) ∧ r.ports = [] ∧ r.sources = 2 ^ (n - 1)) := by
  have hcfg : ∀ idx sub, idx ≠ 0x2B07 → sub < 256 → cfg (bump 0x2B07 7 d) idx sub = cfg d idx sub := fun idx sub hi hs =>
    cfg_bump_ne _ _ _ _ _ (by unfold odKey; omega)
  have hscope : sourceScope (bump 0x2B07 7 d) n = sourceScope d n := sourceScope_of_cfg hcfg n
  have hports : readoutPorts (wakeBegun n (bump 0x2B07 7 d)) [n] = readoutPorts d [n] := readoutPorts_of_cfg (fun idx sub hi hs =>
    (wakeBegun_cfg n _ (by unfold odKey; omega)).trans (hcfg idx sub hi hs)) [n]
  have h7 : cfg (wakeBegun n (bump 0x2B07 7 d)) 0x2B07 7 = min 0xFFFFFFFF (cfg d 0x2B07 7 + 1) :=
    (wakeBegun_cfg n _ (by decide)).trans (cfg_bump_self _ _ _ rfl)
  obtain ⟨t, ht⟩ := wakeBegun_sleep n (bump 0x2B07 7 d)
  have hpulse := fun hs hne => wakeBegun_pulses (d := bump 0x2B07 7 d) (n := n) (hscope.trans hs) hne
  have hnow : (wakeBegun n (bump 0x2B07 7 d)).now = d.now := (wakeBegun_now n _).trans (bump_now _ _ _)
  rw [bump_sleep, hscope] at ht
  rw [cfg_bump_ne _ _ _ _ _ (by decide), hcfg 0x2B03 3 (by decide) (by decide), bump_sleep, bump_now] at hpulse
  have hfrom : (wakeRecord n (bump 0x2B07 7 d)).fromSleep = decide (d.pow.state = .sleep) := by
    unfold wakeRecord
    rw [bump_pow]
  intro e
  obtain ⟨l1, l2, l3, l4, l5⟩ := wakeNow_leaves hn (bump 0x2B07 7 d)
  have he : e = _ := wakeNow_alone hn (bump 0x2B07 7 d)
  rw [hports] at he
  generalize wakeBegun n (bump 0x2B07 7 d) = b at *
  refine ⟨l1.trans hnow, by rw [l2, ht], by rw [l3, ht], (l5 7 (by decide)).trans h7, fun hs hne hidle => ?_, fun hempty => ?_⟩
  · obtain ⟨p1, p2⟩ := hpulse hs hne hidle
    exact ⟨(l5 8 (by decide)).trans p1, l4.trans p2⟩
  · rw [hempty, if_pos (by rfl)] at he
    obtain ⟨h1, h2, h3, h4, -, -⟩ := requestActive_boots (wakeRecord n (bump 0x2B07 7 d)) [] b
    rw [he]
    refine ⟨h1, h2, ?_, wakeRecord n (bump 0x2B07 7 d), ?_, rfl, rfl, hscope, hfrom, rfl, rfl⟩
    · rw [h3, hfrom]
      simp
    · rw [h4, ht]

end wake

/-! ### The commands -/

section commands

variable {s : State} {n : Nat}

theorem inputWake_refused {c : Instr} (hc : exec c s = inputWake n 0 s) (h : sourceEnabled s.dev n = false ∨ sourceSpent s.dev n = true) :
    Completes c s (Framed [] s.found) := by
  have hoff : ¬ (sourceEnabled s.found n && !sourceSpent s.found n) = true := by
    rcases h with h | h
    · rw [show sourceEnabled s.found n = false from h]
      simp
    · rw [show sourceSpent s.found n = true from h]
      simp
  exact completes_of_exec (f := id) (hc.trans (does_congr (if_neg hoff))) (.refl _ _)

theorem inputWake_accepted {c : Instr} (hc : exec c s = inputWake n 0 s) (he : sourceEnabled s.dev n = true) (hs : sourceSpent s.dev n = false) :
    exec c s = s.does (acceptWake n 0) := by
  have hon : (sourceEnabled s.found n && !sourceSpent s.found n) = true := by
    rw [show sourceEnabled s.found n = true from he, show sourceSpent s.found n = false from hs]
    rfl
  exact hc.trans (does_congr (if_pos hon))

end commands

/-- What the wake by a source leaves, as the statement of R406 to R409 says it. -/
def Wakes (s : State) (n : Nat) (d : Dev) : Prop :=
  d.sleep.state = .waking ∧ d.sleep.scope = sourceScope s.dev n ∧ cfg d 0x2B07 7 = min 0xFFFFFFFF (cfg s.dev 0x2B07 7 + 1) ∧
    (sourceScope s.dev n = 2 → n ≠ 1 → s.dev.sleep.twlOutEnd = none →
      cfg d 0x2B07 8 = min 0xFFFFFFFF (cfg s.dev 0x2B07 8 + 1) ∧ d.sleep.twlOutEnd = some (d.now + cfg s.dev 0x2B03 3 * msNs)) ∧
    (readoutPorts s.dev [n] = [] → d.pow.state = .booting ∧ d.pow.bootStep = 1 ∧
      d.pow.bootCause = (if s.dev.pow.state = .sleep then 7 else 6) ∧
      ∃ r, d.sleep.history = (r :: s.dev.sleep.history).take 8 ∧ r.source = n ∧ r.latched = false ∧ r.scope = sourceScope s.dev n ∧
        r.fromSleep = decide (s.dev.pow.state = .sleep) ∧ r.ports = [] ∧ r.sources = 2 ^ (n - 1))

section commands

variable {s : State} {n : Nat}

/-- A source accepted on a device that differs from the one found in time and in the timer alone. -/
theorem acceptWake_woken {e : Dev} (hn : n ≤ 17) (hp : s.dev.pow.state = .standby ∨ s.dev.pow.state = .sleep)
    (hs : s.dev.sleep.state = .asleep) (hd : e.dict = s.dev.dict) (hpow : e.pow = s.dev.pow)
    (hsl : ∃ t, e.sleep = { s.dev.sleep with timerEnd := t }) : Wakes s n (acceptWake n 0 e) ∧ (acceptWake n 0 e).now = e.now := by
  obtain ⟨t, ht⟩ := hsl
  rw [acceptWake_wakes (by rw [hpow]; exact hp) (by rw [ht]; exact hs)]
  have hd' : (sourceSpentOn n e).dict = s.dev.dict := hd
  have hpow' : (sourceSpentOn n e).pow = s.dev.pow := hpow
  have hhist : (sourceSpentOn n e).sleep.history = s.dev.sleep.history := by
    show e.sleep.history = _
    rw [ht]
  have htwl : (sourceSpentOn n e).sleep.twlOutEnd = s.dev.sleep.twlOutEnd := by
    show e.sleep.twlOutEnd = _
    rw [ht]
  have hcfg := fun idx sub => cfg_of_dict hd' idx sub
  have hports : readoutPorts (sourceSpentOn n e) [n] = readoutPorts s.dev [n] := readoutPorts_of_cfg (fun idx sub _ _ => hcfg idx sub) [n]
  obtain ⟨h1, h2, h3, h4, h5, h6⟩ := wakeNow_wakes hn (sourceSpentOn n e)
  rw [sourceScope_of_dict hd'] at h3 h5
  rw [hcfg] at h4
  rw [htwl, hcfg, hcfg] at h5
  rw [hports, hpow', hhist, sourceScope_of_dict hd'] at h6
  refine ⟨⟨h2, h3, h4, fun a b c => ?_, h6⟩, h1⟩
  rw [h1]
  exact h5 a b c

/-- One input source, in every state of the node that R402 and R403 name. -/
theorem inputWake_accepts {c : Instr} (hc : exec c s = inputWake n 0 s) (hn : n ≤ 15) :
    (sourceEnabled s.dev n = false ∨ sourceSpent s.dev n = true → Completes c s (Framed [] s.found)) ∧
    (sourceEnabled s.dev n = true → sourceSpent s.dev n = false →
      (s.dev.pow.state = .active → s.dev.sleep.state = .awake ∨ s.dev.sleep.state = .readySleep → Completes c s fun d =>
        d.sleep.state = .awake ∧ d.sleep.holdEnd = some (s.dev.now + cfg s.dev 0x2B02 4 * sNs) ∧
        d.sleep.holdScope = sourceScope s.dev n ∧ (n, none) ∈ d.sleep.spent ∧
        (s.dev.sleep.state = .readySleep → cfg d 0x2B07 2 = min 0xFFFFFFFF (cfg s.dev 0x2B07 2 + 1))) ∧
      (s.dev.pow.state = .active → s.dev.sleep.state = .committing → Completes c s fun d => d.sleep.state = .committing ∧
        (s.dev.sleep.latched = none → ∃ r, d.sleep.latched = some r ∧ r.source = n ∧ r.latched = true) ∧
        ∀ r, s.dev.sleep.latched = some r → d.sleep.latched = some r) ∧
      (s.dev.pow.state = .standby ∨ s.dev.pow.state = .sleep → s.dev.sleep.state = .asleep → Completes c s (Wakes s n))) := by
  refine ⟨inputWake_refused hc, fun he hs => ⟨fun hp hst => ?_, fun hp hst => ?_, fun hp hst => ?_⟩⟩
  · exact completes_of_exec (inputWake_accepted hc he hs) (acceptWake_holds (d := s.found) hn hp hst)
  · refine completes_of_exec (inputWake_accepted hc he hs) ?_
    rw [acceptWake_latched (d := s.found) hp hst]
    cases hl : s.dev.sleep.latched with
    | none =>
      obtain ⟨r, h1, h2, h3, h4⟩ := latchWake_first (l := [n]) (d := sourceSpentOn n s.found) hl
      exact ⟨h4.trans hst, fun _ => ⟨r, h1, h2.trans (foldl_min_single (by omega)), h3⟩, fun r h => nomatch h⟩
    | some x =>
      rw [latchWake_again (l := [n]) (d := sourceSpentOn n s.found) hl]
      exact ⟨hst, (nomatch ·), fun r h => hl.trans h⟩
  · exact completes_of_exec (inputWake_accepted hc he hs) (acceptWake_woken (e := s.found) (by omega) hp hst rfl rfl ⟨_, rfl⟩).1

theorem wakeTimer_wakes {t : Nat} (ht : s.dev.sleep.timerEnd = some t) (hp : s.dev.pow.state = .standby ∨ s.dev.pow.state = .sleep)
    (hst : s.dev.sleep.state = .asleep) : Completes (.wakeTimer 0) s fun d => d.now = max s.dev.now t ∧ Wakes s 16 d := by
  have hrun : exec (.wakeTimer 0) s = s.does fun d => acceptWake 16 0 (onSleep (fun x => { x with timerEnd := none }) (arrive t d)) := by
    show execWakeTimer 0 s = _
    unfold execWakeTimer
    refine does_congr ?_
    have h : s.found.sleep.timerEnd = some t := ht
    rw [h]
  refine completes_of_exec hrun ?_
  obtain ⟨hw, hn⟩ := acceptWake_woken (s := s) (n := 16) (e := onSleep (fun x => { x with timerEnd := none }) (arrive t s.found)) (by decide)
    hp hst (arrive_dict t s.found) (arrive_pow t s.found) ⟨none, by rw [onSleep_sleep, arrive_sleep]; rfl⟩
  exact ⟨hn.trans (arrive_now t s.found), hw⟩

theorem readoutEnd_boots {woken : List Port} {r : WakeRec} {ps : List Port} {t : Nat} (h : s.dev.sleep.readout = some (r, ps, t)) :
    Completes (.phyWakeReadoutEnd woken) s fun d =>
      d.now = max s.dev.now (t + readoutNs s.dev ps) ∧ d.sleep.readout = none ∧ d.pow.state = .booting ∧
        d.sleep.wokenPorts = (if ps.filter (woken.contains ·) = [] then ps else ps.filter (woken.contains ·)) ∧
        d.sleep.history = ({ r with ports := ps.filter (woken.contains ·) } :: s.dev.sleep.history).take 8 := by
  have hrun : exec (.phyWakeReadoutEnd woken) s = s.does fun d =>
      requestActive { r with ports := ps.filter (woken.contains ·) }
        (if (ps.filter (woken.contains ·)).isEmpty then ps else ps.filter (woken.contains ·)) (arrive (t + readoutNs s.found ps) d) := by
    show execPhyWakeReadoutEnd woken s = _
    unfold execPhyWakeReadoutEnd
    refine does_congr ?_
    have h : s.found.sleep.readout = some (r, ps, t) := h
    rw [h]
  refine completes_of_exec hrun ?_
  obtain ⟨h1, -, -, h4, h5, -⟩ := requestActive_boots { r with ports := ps.filter (woken.contains ·) }
    (if (ps.filter (woken.contains ·)).isEmpty then ps else ps.filter (woken.contains ·)) (arrive (t + readoutNs s.found ps) s.found)
  refine ⟨h5.trans (arrive_now _ _), by rw [h4], h1, ?_, ?_⟩
  · rw [h4]
    simp only [List.isEmpty_iff]
  · rw [h4, arrive_sleep]
    rfl

/-- The inputs of the sleep manager once a source has become inactive. -/
def sourceRested (n : Nat) (d : Dev) : Dev := onSleep (fun x => { x with
  levelA := x.levelA && n ≠ 2, levelB := x.levelB && n ≠ 3
  spent := x.spent.map (fun y => if y.1 = n then (n, some (d.now + minimumNs d n)) else y) }) d

theorem wakeInputInactive_rests (n : Fin 18) : Completes (.wakeInputInactive n) s fun d =>
    (∀ y ∈ d.sleep.spent, y.1 = n.val → y.2 = some (s.dev.now + minimumNs s.dev n.val)) ∧
      (∀ y ∈ s.dev.sleep.spent, y.1 ≠ n.val → y ∈ d.sleep.spent) ∧
      (n.val = 2 → d.sleep.levelA = false) ∧ (n.val = 3 → d.sleep.levelB = false) := by
  have hrun : exec (.wakeInputInactive n) s = s.does fun d =>
      if d.pow.state = .active then settleNeed false (sourceRested n.val d) else sourceRested n.val d := rfl
  refine completes_of_exec hrun ?_
  have hg : (if s.found.pow.state = .active then settleNeed false (sourceRested n.val s.found) else sourceRested n.val s.found).sleep.given =
      (sourceRested n.val s.found).sleep.given := by
    split
    · exact settleNeed_given _ _
    · rfl
  generalize (if s.found.pow.state = .active then settleNeed false (sourceRested n.val s.found) else sourceRested n.val s.found) = e at hg
  have hspent : e.sleep.spent = s.dev.sleep.spent.map (fun y => if y.1 = n.val then (n.val, some (s.dev.now + minimumNs s.dev n.val)) else y) :=
    given_part (·.spent) (fun _ => rfl) hg
  have hA : e.sleep.levelA = (s.dev.sleep.levelA && n.val ≠ 2) := given_part (·.levelA) (fun _ => rfl) hg
  have hB : e.sleep.levelB = (s.dev.sleep.levelB && n.val ≠ 3) := given_part (·.levelB) (fun _ => rfl) hg
  rw [hspent, hA, hB]
  refine ⟨fun y hy hn => ?_, fun y hy hn => ?_, fun h => by simp [h], fun h => by simp [h]⟩
  · obtain ⟨x, -, rfl⟩ := List.mem_map.mp hy
    by_cases hx : x.1 = n.val
    · rw [if_pos hx]
    · rw [if_neg hx] at hn
      exact absurd hn hx
  · exact List.mem_map.mpr ⟨y, hy, if_neg hn⟩

theorem twlOutPulseEnd_ends {t : Nat} (h : s.dev.sleep.twlOutEnd = some t) : Completes .twlOutPulseEnd s fun d =>
    d.sleep = { s.dev.sleep with twlOutEnd := none } ∧ d.now = max s.dev.now t ∧ Framed [.clock, .counters, .sleep] s.found d := by
  have hrun : exec .twlOutPulseEnd s = s.does fun d => onSleep (fun x => { x with twlOutEnd := none }) (arrive t d) := by
    show execTwlOutPulseEnd s = _
    unfold execTwlOutPulseEnd
    refine does_congr ?_
    have h : s.found.sleep.twlOutEnd = some t := h
    rw [h]
  refine completes_of_exec hrun ⟨?_, arrive_now t s.found, ?_⟩
  · rw [onSleep_sleep, arrive_sleep]
    rfl
  · have hf := execTwlOutPulseEnd_framed s
    rw [show execTwlOutPulseEnd s = _ from hrun] at hf
    exact hf.of_does.mono (by decide)

end commands

/-- Settles O46: an input source by `inputWake_accepts`, whatever the state; the timer, the readout, the end of an input and of the
pulse by one lemma each. -/
theorem wakesAreAcceptedLatchedAndRecordedAsGiven : Obligations.WakesAreAcceptedLatchedAndRecordedAsGiven := by
  intro s m counter wakes accepts
  exact ⟨inputWake_accepts rfl (by decide), inputWake_accepts rfl (by decide), inputWake_accepts rfl (by decide),
    fun c => inputWake_accepts rfl (by omega), fun g => inputWake_accepts rfl (by omega), fun t ht hp hs => wakeTimer_wakes ht hp hs,
    fun woken r ps t h => readoutEnd_boots h, wakeInputInactive_rests, fun t h => twlOutPulseEnd_ends h⟩

end Sys2Proof.Machine
end

section
/-! PROOF. The agreement to sleep: keep-alives, the needs of the sides, the commit point, quiesce and entry (R393 to R402, R411). -/

namespace Sys2Proof.Machine

/-! ### Keep-alives in their queues -/

section queues

variable {d e : Dev}

/-- A frame with these bytes joined Q4 of the port, or its discard counts. -/
def JoinsQ4 (bs : List Byte) (p : Port) (d e : Dev) : Prop :=
  (∃ f : QFrame, f.bytes = bs ∧ f.cls = 4 ∧ queueOf e p 4 = queueOf d p 4 ++ [f]) ∨
    queueOf e p 4 = queueOf d p 4 ∧ cfg e (0x2210 + p.val) 5 = min 0xFFFFFFFF (cfg d (0x2210 + p.val) 5 + 1)

/-- Q4 of the port and its count of discards stand. -/
def Q4Stands (p : Port) (d e : Dev) : Prop :=
  queueOf e p 4 = queueOf d p 4 ∧ cfg e (0x2210 + p.val) 5 = cfg d (0x2210 + p.val) 5

theorem Q4Stands.trans {p : Port} {c : Dev} (h1 : Q4Stands p d e) (h2 : Q4Stands p e c) : Q4Stands p d c :=
  ⟨h2.1.trans h1.1, h2.2.trans h1.2⟩

theorem JoinsQ4.after {bs : List Byte} {p : Port} {c : Dev} (h1 : Q4Stands p d e) (h2 : JoinsQ4 bs p e c) : JoinsQ4 bs p d c := by
  unfold JoinsQ4 at *
  rwa [h1.1, h1.2] at h2

theorem JoinsQ4.stands {bs : List Byte} {p : Port} {c : Dev} (h1 : JoinsQ4 bs p d e) (h2 : Q4Stands p e c) : JoinsQ4 bs p d c := by
  unfold JoinsQ4 at *
  rwa [h2.1, h2.2]

theorem queueOf_push_self (p : Port) (q : Fin 8) (f : QFrame) (d : Dev) : queueOf (pushFrame p q f d) p q = queueOf d p q ++ [f] := by
  simp [queueOf, pushFrame, setQueue, vmod]

theorem queueOf_push_ne {p r : Port} (h : r ≠ p) (q : Fin 8) (f : QFrame) (d : Dev) (k : Fin 8) :
    queueOf (pushFrame p q f d) r k = queueOf d r k := by
  have hne : p.val ≠ r.val := fun e => h (Fin.ext e).symm
  unfold queueOf pushFrame setQueue
  simp [vmod, Vector.getElem_set_ne _ _ hne]

theorem queueOf_of_queues {a b : Dev} (h : b.fab.queues = a.fab.queues) (p : Port) (q : Fin 8) : queueOf b p q = queueOf a p q := by
  unfold queueOf
  rw [h]

theorem discard_default (p : Port) : odDefault (odKey (0x2210 + p.val) 5) = .num 0 := by
  revert p
  decide +kernel

theorem countDiscard_joins (bs : List Byte) (p : Port) (d : Dev) : JoinsQ4 bs p d (countDiscard p 4 d) :=
  .inr ⟨queueOf_of_queues (by simp [countDiscard]) p 4, cfg_bump_self _ _ _ (discard_default p)⟩

theorem allocCells_queues (uid n : Nat) (d : Dev) : (allocCells uid n d).fab.queues = d.fab.queues := by
  have h : ∀ (l : List Slice) (e : Dev), (forEach l (fun sl => countEv 0x007 sl.val 0 1) e).fab.queues = e.fab.queues := fun l e => by
    induction l generalizing e with
    | nil => rfl
    | cons x l ih => exact (ih _).trans rfl
  unfold allocCells
  dsimp only
  split
  · rfl
  · exact (h _ _).trans rfl

theorem bump_queueOf (idx sub : Nat) (d : Dev) (p : Port) (q : Fin 8) : queueOf (bump idx sub d) p q = queueOf d p q :=
  queueOf_of_queues (by rw [bump_fab]) p q

theorem admitPort_joins {p : Port} (hup : portUp d p = true) (f : QFrame) (need : Nat) (rate : Option Nat) :
    JoinsQ4 f.bytes p d (admitPort f need rate p 4 d) := by
  unfold admitPort
  dsimp only
  rw [hup, if_neg (by simp)]
  split
  · split
    · refine .inl ⟨{ f with cls := 4, queuedAt := d.now, spilled := true, cut := false }, rfl, rfl, ?_⟩
      rw [bump_queueOf, bump_queueOf]
      exact (queueOf_push_self p 4 _ _).trans rfl
    · exact countDiscard_joins _ p d
  · split
    · refine .inl ⟨{ f with cls := 4, queuedAt := d.now, cut := cutAt d p 4 rate }, rfl, rfl, ?_⟩
      rw [bump_queueOf]
      refine (queueOf_push_self p 4 _ _).trans ?_
      rw [queueOf_of_queues (allocCells_queues _ _ d)]
      rfl
    · exact countDiscard_joins _ p d

theorem sendOwn_joins {p : Port} (hup : portUp d p = true) (bs : List Byte) : JoinsQ4 bs p d (sendOwn p 4 bs d) := by
  unfold sendOwn
  exact (admitPort_joins (d := onFab (fun b => { b with nextUid := b.nextUid + 1 }) d) hup
    (newFrame d ⟨none, (classifyOwn bs).1, (classifyOwn bs).2, halfOf (trainRaw d.time), none, none, none, none, none, none⟩
      (Decision.nowhere bs) bs) _ _).after ⟨rfl, rfl⟩

theorem admitPort_other {p r : Port} (h : r ≠ p) (f : QFrame) (need : Nat) (rate : Option Nat) (q k : Fin 8) :
    queueOf (admitPort f need rate p q d) r k = queueOf d r k := by
  unfold admitPort
  dsimp only
  split
  · exact queueOf_of_queues (by rw [(countUnsent_fab p q d).1]) r k
  · split
    · split
      · rw [bump_queueOf, bump_queueOf, queueOf_push_ne h]
        rfl
      · exact queueOf_of_queues (by simp [countDiscard]) r k
    · split
      · rw [bump_queueOf, queueOf_push_ne h, queueOf_of_queues (allocCells_queues _ _ d)]
      · exact queueOf_of_queues (by simp [countDiscard]) r k

/-- A frame sent on one port leaves Q4 of the others alone. -/
theorem sendOwn_other {p r : Port} (h : r ≠ p) (bs : List Byte) (d : Dev) : Q4Stands r d (sendOwn p 4 bs d) := by
  refine ⟨?_, (sendOwn_regs p 4 bs d).cfg _ _ fun x hx => ?_⟩
  · unfold sendOwn
    exact (admitPort_other h _ _ _ 4 4).trans rfl
  · have hne : r.val ≠ p.val := fun e => h (Fin.ext e)
    obtain ⟨h1, h2⟩ := frameCounters_cases hx
    unfold odKey
    omega

/-- Own frames of Q4 on several ports. -/
theorem forEach_sendOwn (g : Port → List Byte) {l : List Port} (hl : l.Nodup) (hup : ∀ p ∈ l, portUp d p = true) (p : Port) :
    (p ∈ l → JoinsQ4 (g p) p d (forEach l (fun p => sendOwn p 4 (g p)) d)) ∧
      (p ∉ l → Q4Stands p d (forEach l (fun p => sendOwn p 4 (g p)) d)) := by
  induction l generalizing d with
  | nil => exact ⟨(nomatch ·), fun _ => ⟨rfl, rfl⟩⟩
  | cons x l ih =>
    obtain ⟨hx, hl⟩ := List.nodup_cons.mp hl
    have hports : (sendOwn x 4 (g x) d).ports = d.ports :=
      (sendOwn_framed (L := [.regs, .queues, .counters]) x 4 (g x) d (by decide) (.refl _ d)).same .ports (by decide)
    obtain ⟨hin, hout⟩ := ih (d := sendOwn x 4 (g x) d) hl fun y hy => by
      unfold portUp
      rw [hports]
      exact hup y (.tail _ hy)
    refine ⟨fun hp => ?_, fun hp => ?_⟩
    · rcases List.mem_cons.mp hp with rfl | hp
      · exact (sendOwn_joins (hup p (.head _)) (g p)).stands (hout hx)
      · exact (hin hp).after (sendOwn_other (fun e : p = x => hx (e ▸ hp)) (g x) d)
    · rw [List.mem_cons, not_or] at hp
      exact (sendOwn_other hp.1 (g x) d).trans (hout hp.2)

end queues

/-! ### Who needs the network -/

/-- Two devices in which the needs of the node and of its sides are the same. -/
structure SameNeed (a b : Dev) : Prop where
  node : b.node = a.node
  chip : b.chip = a.chip
  inaug : b.inaug = a.inaug
  ports : b.ports = a.ports
  entries : ∀ idx sub, 0x2B00 ≤ idx → idx < 0x2B07 → sub < 256 → cfg b idx sub = cfg a idx sub
  hold : (b.sleep.holdEnd, b.sleep.holdScope) = (a.sleep.holdEnd, a.sleep.holdScope)
  level : (b.sleep.levelA, b.sleep.levelB) = (a.sleep.levelA, a.sleep.levelB)
  side : ∀ rear, sideInfo b rear = sideInfo a rear
  state : b.sleep.state = a.sleep.state

section need

variable {a b c d : Dev}

theorem SameNeed.refl (d : Dev) : SameNeed d d := ⟨rfl, rfl, rfl, rfl, fun _ _ _ _ _ => rfl, rfl, rfl, fun _ => rfl, rfl⟩

theorem SameNeed.trans (h1 : SameNeed a b) (h2 : SameNeed b c) : SameNeed a c :=
  ⟨h2.node.trans h1.node, h2.chip.trans h1.chip, h2.inaug.trans h1.inaug, h2.ports.trans h1.ports,
    fun i s hl hh hs => (h2.entries i s hl hh hs).trans (h1.entries i s hl hh hs), h2.hold.trans h1.hold, h2.level.trans h1.level,
    fun r => (h2.side r).trans (h1.side r), h2.state.trans h1.state⟩

theorem SameNeed.levelHolds (h : SameNeed a b) (x : Bool) : levelHolds b x = levelHolds a x ∧ levelScope b x = levelScope a x := by
  have hA := congrArg Prod.fst h.level
  have hB := congrArg Prod.snd h.level
  dsimp only at hA hB
  have he : cfg b 0x2B03 (if x then 5 else 4) = cfg a 0x2B03 (if x then 5 else 4) :=
    h.entries _ _ (by decide) (by decide) (by cases x <;> decide)
  unfold Machine.levelHolds levelScope
  rw [he, hA, hB]
  exact ⟨rfl, rfl⟩

theorem SameNeed.scopes (h : SameNeed a b) : needScopes b = needScopes a := by
  have hE := congrArg Prod.fst h.hold
  have hS := congrArg Prod.snd h.hold
  dsimp only at hE hS
  unfold needScopes sleepDisabled cfgB
  rw [h.entries 0x2B01 1 (by decide) (by decide) (by decide), h.entries 0x2B01 2 (by decide) (by decide) (by decide),
    h.entries 0x2B02 1 (by decide) (by decide) (by decide), hE, hS, h.node, (h.levelHolds false).1, (h.levelHolds false).2,
    (h.levelHolds true).1, (h.levelHolds true).2]

theorem SameNeed.ownNeed (h : SameNeed a b) : ownNeed b = ownNeed a := by
  unfold Machine.ownNeed
  rw [h.scopes]

theorem SameNeed.sideUp (h : SameNeed a b) (rear : Bool) : sideUp b rear = sideUp a rear := by
  unfold Machine.sideUp portUp
  rw [h.ports]

theorem SameNeed.sideSilent (h : SameNeed a b) (rear : Bool) : sideSilent b rear = sideSilent a rear := by
  unfold Machine.sideSilent sideStandard backOf
  rw [h.sideUp, h.side, h.inaug]

theorem SameNeed.sideNeed (h : SameNeed a b) (rear : Bool) : sideNeed b rear = sideNeed a rear := by
  unfold Machine.sideNeed
  rw [h.sideUp, h.sideSilent, h.side, h.entries 0x2B02 7 (by decide) (by decide) (by decide)]

theorem SameNeed.trainNeed (h : SameNeed a b) : trainNeed b = trainNeed a := by
  unfold Machine.trainNeed
  rw [h.ownNeed, h.sideNeed, h.sideNeed]

theorem SameNeed.roundBusy (h : SameNeed a b) : roundBusy b = roundBusy a := by
  unfold Machine.roundBusy inRound
  rw [h.inaug]

theorem SameNeed.summary (h : SameNeed a b) (rear final : Bool) : summaryFor b rear final = summaryFor a rear final := by
  unfold summaryFor ownScope
  rw [h.sideNeed, h.ownNeed, h.scopes, h.chip, h.state]

theorem SameNeed.frame (h : SameNeed a b) (p : Port) (k : KeepSummary) : keepAliveFrame b p k = keepAliveFrame a p k := by
  unfold keepAliveFrame
  rw [h.chip, h.inaug]

/-- What leaves profile, inauguration, ports, the entries of chapter 13 and what stands of the sleep manager alone. -/
theorem SameNeed.of_framed {A : List Part} (h : Framed A a b) (hA : ∀ p ∈ ([.node, .chip, .inaug, .ports] : List Part), p ∉ A)
    (hcfg : ∀ idx sub, 0x2B00 ≤ idx → idx < 0x2B07 → sub < 256 → cfg b idx sub = cfg a idx sub)
    (hg : b.sleep.given = a.sleep.given) (hs : b.sleep.state = a.sleep.state) : SameNeed a b := by
  refine ⟨h.same .node (hA _ (by decide)), h.same .chip (hA _ (by decide)), h.same .inaug (hA _ (by decide)),
    h.same .ports (hA _ (by decide)), hcfg, given_part (fun m => (m.holdEnd, m.holdScope)) (fun _ => rfl) hg,
    given_part (fun m => (m.levelA, m.levelB)) (fun _ => rfl) hg, fun r => ?_, hs⟩
  exact given_part (fun m => if r then m.rear else m.front) (fun _ => rfl) hg

theorem noteSilence_same (d : Dev) : SameNeed d (noteSilence d) :=
  .of_framed (noteSilence_framed (L := [.out, .regs, .recd, .sleep, .ints, .counters]) d (by decide) (.refl _ d)) (by decide)
    (fun _ _ hl _ _ => (noteSilence_low d).cfg hl) (noteSilence_given d) (by rw [noteSilence_sleep])

theorem arrive_same (t : Nat) (d : Dev) : SameNeed d (arrive t d) :=
  .of_framed (arrive_framed (L := [.clock, .counters]) t d (by decide) (.refl _ d)) (by decide)
    (fun _ _ _ _ _ => cfg_arrive t d _ _) (by rw [arrive_sleep]) (by rw [arrive_sleep])

/-- ReadySleep is left when the network is needed. -/
theorem judgeSleep_aborts (hst : d.sleep.state = .readySleep) (hneed : trainNeed d = true) :
    (judgeSleep d).sleep.state = .awake ∧ (judgeSleep d).sleep.readyDeadline = none ∧
      cfg (judgeSleep d) 0x2B07 2 = min 0xFFFFFFFF (cfg d 0x2B07 2 + 1) := by
  have hn : trainNeed (noteSilence d) = true := (noteSilence_same d).trainNeed.trans hneed
  have hs : (noteSilence d).sleep.state = .readySleep := (noteSilence_same d).state.trans hst
  have hc : cfg (noteSilence d) 0x2B07 2 = cfg d 0x2B07 2 := (noteSilence_low d).cfg (by decide)
  unfold judgeSleep
  generalize noteSilence d = n at hn hs hc
  dsimp only
  rw [hs]
  dsimp only
  rw [if_pos (by rw [hn]; rfl)]
  obtain ⟨t, ht⟩ := pokeKeepAlive_sleep (abortSleep n)
  refine ⟨by rw [ht, abortSleep_sleep], by rw [ht, abortSleep_sleep], ?_⟩
  rw [(pokeKeepAlive_low _).cfg (idx := 0x2B07) (by decide), abortSleep_counts, hc]

/-- An awake node that nothing needs becomes ready to sleep. -/
theorem judgeSleep_readies (hst : d.sleep.state = .awake) (hp : d.pow.state = .active) (hneed : trainNeed d = false)
    (hround : roundBusy d = false) : (judgeSleep d).sleep.state = .readySleep ∧
      (judgeSleep d).sleep.readyDeadline = some (d.now + cfg d 0x2B02 3 * msNs) := by
  have hframe : Framed [.out, .regs, .recd, .sleep, .ints, .counters] d (noteSilence d) := noteSilence_framed d (by decide) (.refl _ d)
  have hn : trainNeed (noteSilence d) = false := (noteSilence_same d).trainNeed.trans hneed
  have hr : roundBusy (noteSilence d) = false := (noteSilence_same d).roundBusy.trans hround
  have hs : (noteSilence d).sleep.state = .awake := (noteSilence_same d).state.trans hst
  have hpow : (noteSilence d).pow.state = .active := by rw [show (noteSilence d).pow = d.pow from hframe.same .pow (by decide)]; exact hp
  have hc : cfg (noteSilence d) 0x2B02 3 = cfg d 0x2B02 3 := (noteSilence_low d).cfg (by decide)
  have hnow : (noteSilence d).now = d.now := congrArg Prod.fst (hframe.same .clock (by decide))
  unfold judgeSleep
  generalize noteSilence d = n at hn hr hs hpow hc hnow
  dsimp only
  rw [hs]
  dsimp only
  rw [if_pos (by rw [hpow, hn, hr]; rfl)]
  obtain ⟨t, ht⟩ := pokeKeepAlive_sleep (onSleep (fun s => { s with
    state := .readySleep, readyDeadline := some (n.now + cfg n 0x2B02 3 * msNs) }) n)
  rw [ht, hnow, hc]
  exact ⟨rfl, rfl⟩

/-- After the commit point the judgement changes neither the state nor the scope. -/
theorem judgeSleep_committing (hst : d.sleep.state = .committing) : (judgeSleep d).sleep = (noteSilence d).sleep := by
  have hs : (noteSilence d).sleep.state = .committing := (noteSilence_same d).state.trans hst
  unfold judgeSleep
  generalize noteSilence d = n at hs
  dsimp only
  rw [hs]

theorem judgeSleep_scope (d : Dev) : (judgeSleep d).sleep.scope = d.sleep.scope := by
  have hn : (noteSilence d).sleep.scope = d.sleep.scope := by rw [noteSilence_sleep]
  have hpoke : ∀ e : Dev, (pokeKeepAlive e).sleep.scope = e.sleep.scope := fun e => by
    obtain ⟨t, ht⟩ := pokeKeepAlive_sleep e
    rw [ht]
  refine Eq.trans ?_ hn
  unfold judgeSleep
  generalize noteSilence d = n
  dsimp only
  split
  · split <;> rw [hpoke]
    rfl
  · split <;> rw [hpoke]
    rw [abortSleep_sleep]
  · rfl

/-- Judging the need counts sleeps called off and nothing else of chapter 13. -/
theorem judgeSleep_cfg (d : Dev) {idx sub : Nat} (hi : 0x2B00 ≤ idx) (hne : odKey idx sub ≠ odKey 0x2B07 2) :
    cfg (judgeSleep d) idx sub = cfg d idx sub := by
  refine Eq.trans ?_ ((noteSilence_low d).cfg hi)
  have habort : ∀ n, cfg (abortSleep n) idx sub = cfg n idx sub := fun n =>
    ((raise_low evSleepAborted noInst _).cfg hi).trans (cfg_bump_ne _ _ _ _ _ hne)
  unfold judgeSleep
  generalize noteSilence d = n
  dsimp only
  split
  · split
    · rw [(pokeKeepAlive_low _).cfg hi]
      rfl
    · rw [(pokeKeepAlive_low _).cfg hi]
  · split
    · rw [(pokeKeepAlive_low _).cfg hi, habort]
    · rw [(pokeKeepAlive_low _).cfg hi]
  · rfl

end need

/-! ### Keep-alives (R395, R396) -/

section sending

variable {d : Dev}

/-- The frames of one side. -/
def sideSent (final rear : Bool) (d : Dev) : Dev :=
  forEach (backbonePorts.filter (fun p => isRear p = rear && portUp d p))
    (fun p => sendOwn p 4 (keepAliveFrame d p (summaryFor d rear final))) d

theorem sendKeepAlive_eq (final rear : Bool) (d : Dev) : sendKeepAlive final rear d =
    onSleep (fun s => if rear then { s with toldRear := some (summaryFor d rear final) } else { s with toldFront := some (summaryFor d rear final) })
      (sideSent final rear d) := rfl

theorem sideSent_framed (final rear : Bool) (d : Dev) : Framed [.regs, .queues, .counters] d (sideSent final rear d) :=
  forEach_framed _ _ d (.refl _ d) fun p e he => sendOwn_framed p 4 _ e (by decide) he

theorem sideSent_low (final rear : Bool) (d : Dev) : LowRegs d (sideSent final rear d) := .forEach (fun p e => sendOwn_low p 4 _ e) _ d

theorem sideSent_sends (final rear : Bool) (d : Dev) {p : Port} (hp : p ∈ backbonePorts) :
    (isRear p = rear → portUp d p = true →
      JoinsQ4 (keepAliveFrame d p (summaryFor d rear final)) p d (sideSent final rear d)) ∧
    (isRear p ≠ rear → Q4Stands p d (sideSent final rear d)) := by
  have hl : (backbonePorts.filter (fun p => isRear p = rear && portUp d p)).Nodup := List.Nodup.filter _ (by decide)
  have hup : ∀ x ∈ backbonePorts.filter (fun p => isRear p = rear && portUp d p), portUp d x = true := fun x hx =>
    (Bool.and_eq_true_iff.mp (List.mem_filter.mp hx).2).2
  obtain ⟨hin, hout⟩ := forEach_sendOwn (fun p => keepAliveFrame d p (summaryFor d rear final)) hl hup p
  refine ⟨fun hr hu => hin (List.mem_filter.mpr ⟨hp, ?_⟩), fun hr => hout fun hm => hr ?_⟩
  · rw [hr, hu]
    simp
  · exact of_decide_eq_true (Bool.and_eq_true_iff.mp (List.mem_filter.mp hm).2).1

theorem sendKeepAlive_same (final rear : Bool) (d : Dev) : SameNeed d (sendKeepAlive final rear d) := by
  have hf := sideSent_framed final rear d
  have hs : (sideSent final rear d).sleep = d.sleep := hf.same .sleep (by decide)
  rw [sendKeepAlive_eq]
  refine ⟨hf.same .node (by decide), hf.same .chip (by decide), hf.same .inaug (by decide), hf.same .ports (by decide),
    fun i sub hl _ _ => (sideSent_low final rear d).cfg hl, ?_, ?_, fun r => ?_, ?_⟩
  all_goals try unfold sideInfo
  all_goals rw [onSleep_sleep, hs]; cases rear <;> rfl

/-- The keep-alives of both sides. -/
def bothSent (final : Bool) (d : Dev) : Dev := sendKeepAlive final true (sendKeepAlive final false d)

theorem onSleep_stands (p : Port) (f : SleepS → SleepS) (d : Dev) : Q4Stands p d (onSleep f d) := ⟨rfl, rfl⟩

theorem sendKeepAlive_stands (p : Port) (final rear : Bool) (d : Dev) : Q4Stands p (sideSent final rear d) (sendKeepAlive final rear d) := by
  rw [sendKeepAlive_eq]
  exact onSleep_stands _ _ _

theorem bothSent_sends (final : Bool) (d : Dev) {p : Port} (hp : p ∈ backbonePorts) (hu : portUp d p = true) :
    JoinsQ4 (keepAliveFrame d p (summaryFor d (isRear p) final)) p d (bothSent final d) := by
  have h1 := sendKeepAlive_same final false d
  have hu1 : portUp (sendKeepAlive final false d) p = true := by
    unfold portUp
    rw [h1.ports]
    exact hu
  obtain ⟨hf1, hf2⟩ := sideSent_sends final false d hp
  obtain ⟨hr1, hr2⟩ := sideSent_sends final true (sendKeepAlive final false d) hp
  rw [h1.frame, h1.summary] at hr1
  have tf := sendKeepAlive_stands p final false d
  have tr := sendKeepAlive_stands p final true (sendKeepAlive final false d)
  unfold bothSent
  generalize sendKeepAlive final true (sendKeepAlive final false d) = e2 at tr ⊢
  generalize sideSent final true (sendKeepAlive final false d) = r1 at hr1 hr2 tr
  generalize sendKeepAlive final false d = e1 at *
  generalize sideSent final false d = f1 at *
  cases hr : isRear p with
  | true =>
    rw [hr] at hr1 hr2 hf1 hf2
    exact ((hr1 rfl hu1).stands tr).after ((hf2 (by decide)).trans tf)
  | false =>
    rw [hr] at hr1 hr2 hf1 hf2
    exact ((hf1 rfl hu).stands tf).stands ((hr2 (by decide)).trans tr)

theorem bothSent_sleep (final : Bool) (d : Dev) : ∃ f r, (bothSent final d).sleep = { d.sleep with toldFront := f, toldRear := r } := by
  have h : ∀ rear e, (sideSent final rear e).sleep = e.sleep := fun rear e => (sideSent_framed final rear e).same .sleep (by decide)
  refine ⟨some (summaryFor d false final), some (summaryFor (sendKeepAlive final false d) true final), ?_⟩
  unfold bothSent
  rw [sendKeepAlive_eq, onSleep_sleep, h, sendKeepAlive_eq, onSleep_sleep, h]
  rfl

theorem bothSent_framed (final : Bool) (d : Dev) : Framed [.regs, .queues, .sleep, .counters] d (bothSent final d) :=
  sendKeepAlive_framed final true _ (by decide) (sendKeepAlive_framed final false d (by decide) (.refl _ d))

theorem bothSent_now (final : Bool) (d : Dev) : (bothSent final d).now = d.now := by
  have h := bothSent_framed final d
  generalize bothSent final d = b at h
  exact congrArg Prod.fst (h.same .clock (by decide))

/-! ### The record of a side (R395 to R397) -/

theorem widenScope_scope (n : Nat) (d : Dev) : (widenScope n d).sleep.scope = max d.sleep.scope n := by
  unfold widenScope
  split
  next h =>
    rw [show (settlePorts _).sleep = _ from (settlePorts_framed _ (fun _ h => h) (.refl _ _)).same .sleep (by decide)]
    exact (Nat.max_eq_right (Nat.le_of_lt h)).symm
  next h => exact (Nat.max_eq_left (Nat.not_lt.mp h)).symm

theorem judgeSleep_side (rear : Bool) (d : Dev) : sideInfo (judgeSleep d) rear = sideInfo d rear :=
  given_part (fun m => if rear then m.rear else m.front) (fun _ => rfl) (judgeSleep_given d)

theorem judgeSleep_now (d : Dev) : (judgeSleep d).now = d.now :=
  congrArg Prod.fst ((judgeSleep_framed (L := [.out, .regs, .recd, .sleep, .ints, .counters]) d (by decide) (.refl _ d)).same .clock (by decide))

/-- A need heard on a side that is up keeps the train awake. -/
theorem trainNeed_of_side {d : Dev} {rear : Bool} (h : (sideNeed d rear).1 = true) : trainNeed d = true := by
  unfold trainNeed
  cases rear <;> simp [h]

/-- The side with its record replaced. -/
def sideKept (rear : Bool) (k : SideInfo) (d : Dev) : Dev := onSleep (fun x => if rear then { x with rear := k } else { x with front := k }) d

theorem sideKept_side (rear : Bool) (k : SideInfo) (d : Dev) : sideInfo (sideKept rear k d) rear = k := by
  unfold sideInfo sideKept
  rw [onSleep_sleep]
  cases rear <;> rfl

theorem sideKept_state (rear : Bool) (k : SideInfo) (d : Dev) : (sideKept rear k d).sleep.state = d.sleep.state ∧
    (sideKept rear k d).sleep.scope = d.sleep.scope := by
  unfold sideKept
  rw [onSleep_sleep]
  cases rear <;> exact ⟨rfl, rfl⟩

theorem sideUp_of_port {d : Dev} {p : Port} (hp : isBackbone p = true) (hup : portUp d p = true) : sideUp d (isRear p) = true := by
  have hside : ∀ p : Port, isBackbone p = true → p = sidePort (isRear p) false ∨ p = sidePort (isRear p) true := by decide
  unfold sideUp
  rcases hside p hp with h | h <;> rw [← h, hup]
  · rfl
  · exact Bool.or_true _

end sending

section commands

variable {s : State} {p : Port} {k : KeepAliveMsg}

/-- A sleep called off counts in 0x2B07:02. -/
def SleepAborted (s : State) (d : Dev) : Prop :=
  d.sleep.state = .awake ∧ d.sleep.readyDeadline = none ∧ cfg d 0x2B07 2 = min 0xFFFFFFFF (cfg s.dev 0x2B07 2 + 1)

theorem FrameCounted.judged {a d : Dev} {len : Nat} (h : FrameCounted a d p len) : FrameCounted a (judgeSleep d) p len := by
  have hregs := (judgeSleep_recordsOnly d).1
  have hne : ∀ q : Port, ∀ r ∈ eventCounters, odKey r.1 r.2 ≠ odKey (0x2300 + q.val) 0x23 ∧
      odKey r.1 r.2 ≠ odKey (0x2300 + q.val) 0x24 := by decide +kernel
  exact ⟨(hregs.cfg _ _ fun r hr => (hne p r hr).1).trans h.1, (hregs.cfg _ _ fun r hr => (hne p r hr).2).trans h.2⟩

theorem judged_congr {f g : Dev → Dev} (h : f s.found = g s.found) : s.doesJudged f = s.does fun d => judgeSleep (g d) :=
  does_congr (congrArg judgeSleep h)

theorem keepAlive_malformed (hup : portUp s.dev p = true) (hbad : isBackbone p = false ∨ Machine.KeepAliveMsg.sound k = false) :
    Completes (.keepAlive p k) s fun d =>
      cfg d 0x2B07 6 = min 0xFFFFFFFF (cfg s.dev 0x2B07 6 + 1) ∧ FrameCounted s.dev d p (frameLen 24) := by
  have hrun : exec (.keepAlive p k) s = s.does fun d => judgeSleep (bump 0x2B07 6 (countGood p (frameLen 24) d)) := by
    show execKeepAlive p k s = _
    unfold execKeepAlive
    refine judged_congr ?_
    have hup : portUp s.found p = true := hup
    rw [hup, if_neg (by simp), if_pos (by rcases hbad with h | h <;> simp [h])]
  have hcounted := countGood_counted p (show 0 < frameLen 24 by decide) s.found
  have hne : ∀ q : Port, odKey (0x2300 + q.val) 0x23 ≠ odKey 0x2B07 6 ∧ odKey (0x2300 + q.val) 0x24 ≠ odKey 0x2B07 6 := by decide +kernel
  have hcount : cfg (countGood p (frameLen 24) s.found) 0x2B07 6 = cfg s.dev 0x2B07 6 :=
    (countGood_regs p _ s.found).cfg _ _ fun r hr => by
      obtain ⟨h1, h2⟩ := frameCounters_cases hr
      unfold odKey
      omega
  refine completes_of_exec hrun ⟨?_, FrameCounted.judged ?_⟩
  · rw [judgeSleep_cfg _ (by decide) (by decide), cfg_bump_self _ _ _ rfl, hcount]
  · exact ⟨(cfg_bump_ne _ _ _ _ _ (hne p).1).trans hcounted.1, (cfg_bump_ne _ _ _ _ _ (hne p).2).trans hcounted.2⟩

theorem countGood_same (p : Port) (len : Nat) (d : Dev) : SameNeed d (countGood p len d) := by
  refine .of_framed (countGood_framed (L := [.regs, .counters]) p len d (by decide) (.refl _ d)) (by decide) (fun idx sub hi hj hs => ?_)
    (by rw [show (countGood p len d).sleep = d.sleep from (countGood_framed (L := [.regs, .counters]) p len d (by decide) (.refl _ d)).same .sleep (by decide)])
    (by rw [show (countGood p len d).sleep = d.sleep from (countGood_framed (L := [.regs, .counters]) p len d (by decide) (.refl _ d)).same .sleep (by decide)])
  refine (countGood_regs p len d).cfg _ _ fun r hr => ?_
  obtain ⟨h1, h2⟩ := frameCounters_cases hr
  unfold odKey
  omega

/-- After the commit point a need is ignored (R397). -/
theorem keepAlive_ignored (hup : portUp s.dev p = true) (hp : isBackbone p = true) (hk : Machine.KeepAliveMsg.sound k = true)
    (hst : s.dev.sleep.state = .committing) (hneed : k.flags.getLsbD 0 = true) :
    Completes (.keepAlive p k) s fun d => d.sleep.state = .committing ∧ d.sleep.front = s.dev.sleep.front ∧
      d.sleep.rear = s.dev.sleep.rear ∧ d.sleep.scope = s.dev.sleep.scope := by
  have hsl : (countGood p (frameLen 24) s.found).sleep = s.dev.sleep :=
    (countGood_framed (L := [.regs, .counters]) p _ s.found (by decide) (.refl _ _)).same .sleep (by decide)
  have hrun : exec (.keepAlive p k) s = s.does fun d => judgeSleep (countGood p (frameLen 24) d) := by
    show execKeepAlive p k s = _
    unfold execKeepAlive
    refine judged_congr ?_
    have hup : portUp s.found p = true := hup
    rw [hup, if_neg (by simp), if_neg (by simp [hp, hk])]
    dsimp only
    rw [hsl, hst, hneed]
    rfl
  refine completes_of_exec hrun ?_
  generalize countGood p (frameLen 24) s.found = e at hsl
  rw [judgeSleep_committing (by rw [hsl]; exact hst), noteSilence_sleep, hsl]
  exact ⟨hst, rfl, rfl, rfl⟩

/-- The record that a keep-alive leaves of its side (R396). -/
def heardInfo (k : KeepAliveMsg) (d : Dev) : SideInfo :=
  ⟨k.flags, k.flags.getLsbD 0, bitsOf k.flags.toNat 5 4, k.holder, false, some (d.now + 3 * cfg d 0x2B02 2 * msNs)⟩

theorem keepAlive_kept (hup : portUp s.dev p = true) (hp : isBackbone p = true) (hk : Machine.KeepAliveMsg.sound k = true)
    (hst : s.dev.sleep.state ≠ .committing) :
    Completes (.keepAlive p k) s fun d => d.sleep.scope = max s.dev.sleep.scope (bitsOf k.flags.toNat 5 4) ∧
      sideInfo d (isRear p) = heardInfo k s.dev ∧
      (s.dev.sleep.state = .readySleep → k.flags.getLsbD 0 = true → bitsOf k.flags.toNat 5 4 ≤ s.dev.sleep.scope →
        sideStandard s.dev (isRear p) = false → SleepAborted s d) := by
  have hgood := countGood_same p (frameLen 24) s.found
  have hsl : (countGood p (frameLen 24) s.found).sleep = s.dev.sleep :=
    (countGood_framed (L := [.regs, .counters]) p _ s.found (by decide) (.refl _ _)).same .sleep (by decide)
  have hnow : (countGood p (frameLen 24) s.found).now = s.dev.now := countGood_now _ _ _
  have hcount : cfg (countGood p (frameLen 24) s.found) 0x2B07 2 = cfg s.dev 0x2B07 2 :=
    (countGood_regs p _ s.found).cfg _ _ fun r hr => by
      obtain ⟨h1, h2⟩ := frameCounters_cases hr
      unfold odKey
      omega
  have hheard : heardInfo k (countGood p (frameLen 24) s.found) = heardInfo k s.dev := by
    unfold heardInfo
    rw [hnow, hgood.entries 0x2B02 2 (by decide) (by decide) (by decide)]
    rfl
  have hrun : exec (.keepAlive p k) s = s.does fun d => judgeSleep (widenScope (bitsOf k.flags.toNat 5 4)
      (sideKept (isRear p) (heardInfo k (countGood p (frameLen 24) d)) (countGood p (frameLen 24) d))) := by
    show execKeepAlive p k s = _
    unfold execKeepAlive
    refine judged_congr ?_
    have hup : portUp s.found p = true := hup
    rw [hup, if_neg (by simp), if_neg (by simp [hp, hk])]
    dsimp only
    rw [hsl, decide_eq_false hst, Bool.false_and, if_neg (by decide), onlyIf, if_pos (decide_eq_true hst)]
    rfl
  refine completes_of_exec hrun ?_
  rw [hheard]
  generalize countGood p (frameLen 24) s.found = e at *
  obtain ⟨hks, hkc⟩ := sideKept_state (isRear p) (heardInfo k s.dev) e
  have hside := sideKept_side (isRear p) (heardInfo k s.dev) e
  refine ⟨?_, ?_, fun hready hneed hscope hstd => ?_⟩
  · rw [judgeSleep_scope, widenScope_scope, hkc, hsl]
  · refine (judgeSleep_side _ _).trans (Eq.trans ?_ hside)
    exact given_part (fun m => if isRear p then m.rear else m.front) (fun _ => rfl) (widenScope_given _ _).1
  · have hwide : widenScope (bitsOf k.flags.toNat 5 4) (sideKept (isRear p) (heardInfo k s.dev) e) = sideKept (isRear p) (heardInfo k s.dev) e :=
      if_neg (by rw [hkc, hsl]; omega)
    rw [hwide]
    have hneed' : trainNeed (sideKept (isRear p) (heardInfo k s.dev) e) = true := by
      refine trainNeed_of_side (rear := isRear p) ?_
      have hupe : sideUp (sideKept (isRear p) (heardInfo k s.dev) e) (isRear p) = true := (hgood.sideUp _).trans (sideUp_of_port hp hup)
      have hstde : sideStandard (sideKept (isRear p) (heardInfo k s.dev) e) (isRear p) = false := by
        refine Eq.trans ?_ hstd
        show sideStandard e _ = _
        unfold sideStandard backOf
        rw [hgood.inaug]
        rfl
      unfold sideNeed sideSilent
      rw [hupe, hstde, hside]
      exact hneed
    obtain ⟨h1, h2, h3⟩ := judgeSleep_aborts (hks.trans (by rw [hsl]; exact hready)) hneed'
    exact ⟨h1, h2, h3.trans (congrArg (fun n => min 0xFFFFFFFF (n + 1)) hcount)⟩

/-- R396: a side that is silent for its time. -/
theorem silentSide_marks {rear : Bool} {t : Nat} (ht : (sideInfo s.dev rear).deadline = some t) : Completes (.silentSide rear) s fun d =>
    sideInfo d rear = { sideInfo s.dev rear with silent := true, deadline := none } ∧ d.now = max s.dev.now t ∧
      (s.dev.sleep.state = .readySleep → sideUp s.dev rear = true → cfg s.dev 0x2B02 7 = 0 → SleepAborted s d) := by
  have hrun : exec (.silentSide rear) s = s.does fun d =>
      judgeSleep (sideKept rear { sideInfo d rear with silent := true, deadline := none } (arrive t d)) := by
    show execSilentSide rear s = _
    unfold execSilentSide
    refine judged_congr ?_
    have h : (sideInfo s.found rear).deadline = some t := ht
    rw [h]
    cases rear <;> rfl
  have hsame := arrive_same t s.found
  have hcount : cfg (arrive t s.found) 0x2B07 2 = cfg s.dev 0x2B07 2 := cfg_arrive t s.found _ _
  have hnow : (arrive t s.found).now = max s.dev.now t := arrive_now t s.found
  refine completes_of_exec hrun ?_
  rw [show sideInfo s.found rear = sideInfo s.dev rear from rfl]
  generalize arrive t s.found = e at *
  generalize hkq : ({ sideInfo s.dev rear with silent := true, deadline := none } : SideInfo) = q
  have hq : q.silent = true := by rw [← hkq]
  obtain ⟨hks, -⟩ := sideKept_state rear q e
  have hside := sideKept_side rear q e
  refine ⟨(judgeSleep_side _ _).trans hside, (judgeSleep_now _).trans hnow, fun hready hup hpol => ?_⟩
  have hneed : trainNeed (sideKept rear q e) = true := by
    refine trainNeed_of_side (rear := rear) ?_
    have hupe : sideUp (sideKept rear q e) rear = true := (hsame.sideUp _).trans hup
    have hpole : cfg (sideKept rear q e) 0x2B02 7 = 0 := (hsame.entries 0x2B02 7 (by decide) (by decide) (by decide)).trans hpol
    unfold sideNeed sideSilent
    rw [hupe, hside, hq, hpole]
    rfl
  obtain ⟨h1, h2, h3⟩ := judgeSleep_aborts (hks.trans (hsame.state.trans hready)) hneed
  exact ⟨h1, h2, h3.trans (congrArg (fun n => min 0xFFFFFFFF (n + 1)) hcount)⟩

end commands

section commands

variable {s : State}

/-- Keep-alives of both sides left, as the statement of R396 says it. -/
def KeepAlivesLeft (s : State) (final : Bool) (d : Dev) : Prop := ∀ p ∈ backbonePorts, portUp s.dev p = true →
  (∃ f : QFrame, f.bytes = keepAliveFrame s.dev p (summaryFor s.dev (isRear p) final) ∧ f.cls = 4 ∧
    queueOf d p 4 = queueOf s.dev p 4 ++ [f]) ∨
  queueOf d p 4 = queueOf s.dev p 4 ∧ cfg d (0x2210 + p.val) 5 = min 0xFFFFFFFF (cfg s.dev (0x2210 + p.val) 5 + 1)

theorem bothSent_left (final : Bool) (t : Nat) : KeepAlivesLeft s final (bothSent final (arrive t s.found)) := by
  intro p hp hu
  have hsame := arrive_same t s.found
  have hu1 : portUp (arrive t s.found) p = true := by
    unfold portUp
    rw [hsame.ports]
    exact hu
  have hq : Q4Stands p s.found (arrive t s.found) := ⟨queueOf_of_queues (by simp) p 4, cfg_arrive t _ _ _⟩
  have := (bothSent_sends final (arrive t s.found) hp hu1).after hq
  rw [hsame.frame, hsame.summary] at this
  exact this

theorem keepAlivePeriod_completes {t : Nat} (ht : s.dev.sleep.periodDue = some t)
    (hst : s.dev.sleep.state = .awake ∨ s.dev.sleep.state = .readySleep) : Completes .keepAlivePeriod s fun d =>
      d.now = max s.dev.now t ∧ KeepAlivesLeft s false d ∧ d.sleep.lastSent = some d.now ∧
        d.sleep.periodDue = some (d.now + cfg s.dev 0x2B02 2 * msNs) ∧ Framed [.clock, .regs, .queues, .sleep, .counters] s.found d := by
  have hrun : exec .keepAlivePeriod s = s.does fun d => onSleep (fun x => { x with
      lastSent := some (arrive t d).now, periodDue := some ((arrive t d).now + cfg (arrive t d) 0x2B02 2 * msNs) })
        (bothSent false (arrive t d)) := by
    show execKeepAlivePeriod s = _
    unfold execKeepAlivePeriod
    refine does_congr ?_
    have h : s.found.sleep.periodDue = some t := ht
    rcases hst with hst | hst
    · have hs : s.found.sleep.state = .awake := hst
      rw [h, hs]; rfl
    · have hs : s.found.sleep.state = .readySleep := hst
      rw [h, hs]; rfl
  have hframe := execKeepAlivePeriod_framed s
  rw [show execKeepAlivePeriod s = _ from hrun] at hframe
  have hnow : (bothSent false (arrive t s.found)).now = max s.dev.now t :=
    (bothSent_now false _).trans (arrive_now t s.found)
  have hleft := bothSent_left (s := s) false t
  have hf := hframe.of_does.mono (L := [.clock, .regs, .queues, .sleep, .counters]) (by decide)
  have harrive : (arrive t s.found).now = max s.dev.now t := arrive_now t s.found
  have hc : cfg (arrive t s.found) 0x2B02 2 = cfg s.dev 0x2B02 2 := cfg_arrive t s.found 0x2B02 2
  refine completes_of_exec hrun ?_
  rw [harrive, hc] at hf ⊢
  generalize bothSent false (arrive t s.found) = b at hnow hleft hf
  have hout : (onSleep (fun x => { x with lastSent := some (max s.dev.now t)
                                          periodDue := some (max s.dev.now t + cfg s.dev 0x2B02 2 * msNs) }) b).now = max s.dev.now t := hnow
  refine ⟨hout, fun p hp hu => hleft p hp hu, ?_, ?_, hf⟩
  · rw [hout]
    rfl
  · rw [hout]
    rfl

end commands

end Sys2Proof.Machine
end

section
/-! PROOF. Leaving service: ports, controllers and recorder off (R400, R401, R386). -/

namespace Sys2Proof.Machine

/-! ### Events keep the interrupts that stand -/

section ints

variable {d : Dev}

theorem tarnCopy_stands (e : Entry) (d : Dev) : IntsStand d (tarnCopy e d) :=
  (tarnCopy_framed (L := [.regs, .recd]) e d (by decide) (.refl _ d)).intsStand (by decide)

theorem tarnLimited_stands (e : Entry) (d : Dev) : IntsStand d (tarnLimited e d) :=
  (tarnLimited_framed (L := [.regs, .recd]) e d (by decide) (.refl _ d)).intsStand (by decide)

theorem placeWith_stands {copy : Entry → Dev → Dev} (hcopy : ∀ e d, IntsStand d (copy e d)) (e : Entry) (d : Dev) :
    IntsStand d (placeWith copy e d) := by
  have hint : ∀ r, IntsStand d r → IntsStand d (if e.sev = 7 then setInt 28 r else r) := fun r h => .ite (h.trans (setInt_stands 28 r)) h
  have hacc : ∀ (f : Entry → Dev → Dev), (∀ e d, Framed [.out, .regs, .recd] d (f e d)) → ∀ e d, IntsStand d (f e d) :=
    fun f hf e d => (hf e d).intsStand (by decide)
  unfold placeWith
  refine hint _ ?_
  refine IntsStand.trans (b := countEv 0x040 0 e.sev 1 { d with recd := { d.recd with lastSeq := seqNext d.recd.lastSeq } }) (.of_eq rfl) ?_
  split
  · exact (hacc _ (fun e d => stageEntry_framed e d (by decide) (.refl _ d)) _ _).trans (hcopy _ _)
  · exact (hacc _ (fun e d => holdingAccept_framed e d (by decide) (.refl _ d)) _ _).trans (hcopy _ _)
  · exact (hacc _ (fun e d => ringAccept_framed e d (by decide) (.refl _ d)) _ _).trans (hcopy _ _)

theorem placeEntry_stands (e : Entry) (d : Dev) : IntsStand d (placeEntry e d) := by
  have h := placeWith_stands tarnLimited_stands e d
  unfold placeEntry
  generalize placeWith tarnLimited e d = x at h
  refine .ite (IntsStand.trans ?_ (placeWith_stands (fun _ _ => .of_eq rfl) _ _)) h
  exact h

theorem raiseP_stands (ev : Ev) (inst : Nat) (payload : List Byte) (d : Dev) : IntsStand d (raiseP ev inst payload d) := by
  have hearly : ∀ e, IntsStand d (earlyAccept e d) := fun e =>
    (earlyAccept_framed (L := [.regs, .recd, .counters]) e d (by decide) (.refl _ d)).intsStand (by decide)
  unfold raiseP recordEntry
  refine .ite (.of_eq (by rw [bump_host])) ?_
  split
  · exact hearly _
  · exact hearly _
  · exact placeEntry_stands _ d

theorem raise_stands (ev : Ev) (inst : Nat) (d : Dev) : IntsStand d (raise ev inst d) := raiseP_stands ev inst [] d

end ints

/-! ### Ports -/

section ports

variable {d : Dev} {p q : Port}

theorem onPort_ne (h : q ≠ p) (f : PortS → PortS) (d : Dev) : (onPort p f d).ports.p[q] = d.ports.p[q] := by
  have hne : p.val ≠ q.val := fun e => h (Fin.ext e).symm
  simp [vmod, Vector.getElem_set_ne _ _ hne]

/-- A link lost leaves the other ports alone. -/
theorem loseLink_ne (h : q ≠ p) (d : Dev) : (loseLink p d).ports.p[q] = d.ports.p[q] := by
  have hpart : ∀ {a b : Dev} {A : List Part}, Framed A a b → Part.ports ∉ A → b.ports.p[q] = a.ports.p[q] := fun hf hA => by
    rw [show _ = _ from hf.same .ports hA]
  unfold loseLink
  refine (hpart (laneChange_framed (L := [.sched, .strm]) _ _ _ (by decide) (.refl _ _)) (by decide)).trans ?_
  refine (hpart (backboneDown_framed (L := [.fresh, .out, .regs, .inaug, .queues, .time, .sched, .strm, .recd, .host, .ints, .counters])
    _ _ (by decide) (.refl _ _)) (by decide)).trans ?_
  refine (hpart (timePortDown_framed (L := [.time]) p _ (by decide) (.refl _ _)) (by decide)).trans ?_
  rw [raise_ports]
  refine (hpart (sweepCells_framed (L := [.queues]) _ (by decide) (.refl _ _)) (by decide)).trans ?_
  rw [bump_ports]
  unfold clearPause
  rw [onPort_ne h]
  refine (hpart (discardPort_framed (L := [.out, .regs, .queues, .host, .ints]) p _ (by decide) (.refl _ _)) (by decide)).trans ?_
  rw [onPort_ne h]
  exact onlyIf_sleep (fun d => d.ports.p[q]) _ _ (by rw [bump_ports])

theorem leaveUp_ne (h : q ≠ p) (d : Dev) : (leaveUp p d).ports.p[q] = d.ports.p[q] := by
  unfold leaveUp
  split
  exacts [loseLink_ne h d, rfl]

theorem regroup_ports (g : Fin 4) (d : Dev) : (regroup g d).ports.p = d.ports.p := by
  unfold regroup
  split <;> rfl

theorem scriptEnded_link (p q : Port) (d : Dev) : (scriptEnded p d).ports.p[q].link = d.ports.p[q].link := by
  have hone : ∀ (x : Port) (e : Dev), (if portReg e x 0x0D = 1 then onPort x (fun t => { t with statusPoll := some e.now }) e else e).ports.p[q].link =
      e.ports.p[q].link := fun x e => by
    split
    · by_cases hx : q = x
      · subst hx
        rw [onPort_self]
      · rw [onPort_ne hx]
    · rfl
  have hall : ∀ (l : List Port) (e : Dev), (forEach l (fun x d => if portReg d x 0x0D = 1 then onPort x (fun t => { t with statusPoll := some d.now }) d else d) e).ports.p[q].link =
      e.ports.p[q].link := fun l e => by
    induction l generalizing e with
    | nil => rfl
    | cons x l ih => exact (ih _).trans (hone x e)
  unfold scriptEnded
  dsimp only
  split
  · exact hall _ _
  · rfl

/-- A port that is disabled, and what was disabled, has its link disabled. -/
theorem disablePort_disables (h : q = p ∨ d.ports.p[q].link = .disabled) : (disablePort p d).ports.p[q].link = .disabled := by
  have hd : ∀ f : PortS → PortS, (∀ t, (f t).link = .disabled) → (onPort p f (leaveUp p d)).ports.p[q].link = .disabled := fun f hf => by
    by_cases hq : q = p
    · subst hq
      rw [onPort_self]
      exact hf _
    · rw [onPort_ne hq, leaveUp_ne hq]
      exact h.resolve_left hq
  unfold disablePort
  dsimp only
  rw [regroup_ports]
  split
  · rw [scriptEnded_link]
    exact hd _ fun _ => rfl
  · exact hd _ fun _ => rfl

theorem portsOff_disables (d : Dev) (q : Port) : (portsOff d).ports.p[q].link = .disabled := by
  have h : ∀ (l : List Port) (e : Dev), q ∈ l ∨ e.ports.p[q].link = .disabled → (forEach l disablePort e).ports.p[q].link = .disabled :=
    fun l e he => by
      induction l generalizing e with
      | nil => exact he.resolve_left (nomatch ·)
      | cons x l ih =>
        refine ih (disablePort x e) ?_
        rcases he with he | he
        · rcases List.mem_cons.mp he with rfl | he
          · exact .inr (disablePort_disables (.inl rfl))
          · exact .inl he
        · exact .inr (disablePort_disables (.inr he))
  unfold portsOff
  exact h allPorts d (.inl (by unfold allPorts; exact List.mem_finRange q))

end ports

/-! ### Controllers -/

section controllers

variable {d : Dev} {c k : CanId}

theorem abortObjs_move (c : CanId) (d : Dev) : BusMove c [] d (abortObjs c d) := by
  have h : ∀ (l : List Nat) (e : Dev), BusMove c [] e (forEach l (fun o => finishObj c o 0x26) e) := fun l e => by
    induction l generalizing e with
    | nil => exact .refl _ _ _
    | cons x l ih => exact (finishObj_move x 0x26 e).trans (ih _)
  exact h _ d

theorem canOff_move (c : CanId) (d : Dev) : BusMove c [] d (canOff c d) :=
  (((abortObjs_move c d).trans (setAlone_move false _)).trans (onCan_move _ _)).trans (setCanState_move _ _)

theorem canOff_off (c : CanId) (d : Dev) : (canOff c d).can[c].state = .off := by
  unfold canOff
  rw [setCanState_ctl, CanCtl.enters]
  split
  · assumption
  · rfl

theorem finishLeaving_ends (h : d.can[c].leaving = some false) : finishLeaving c d =
    onCan c (fun t => { t with objs := t.objs.filter (fun x => !isHeld x.2.status) }) (canOff c d) := by
  unfold finishLeaving
  rw [h]

theorem leaveMode_leaves (c : CanId) (d : Dev) : BusMove c [] d (leaveMode c false d) ∧ (leaveMode c false d).dict.od = d.dict.od ∧
    (d.can[c].sending = none → (leaveMode c false d).can[c].state = .off) := by
  have hmark : (onCan c (fun t => { t with leaving := some false }) d).can[c].leaving = some false := by rw [onCan_self]
  unfold leaveMode
  dsimp only
  rw [finishLeaving_ends hmark]
  have hmove := ((onCan_move (c := c) (l := []) (fun t => { t with leaving := some false }) d).trans (canOff_move c _)).trans
    (onCan_move (fun t => { t with objs := t.objs.filter (fun x => !isHeld x.2.status) }) _)
  have hdict : ∀ e : Dev, (canOff c e).dict.od = e.dict.od := fun e => by
    have hf : Framed [.out, .can, .ints] e (canOff c e) := canOff_framed c e (by decide) (.refl _ _)
    generalize canOff c e = x at hf
    exact hf.same .regs (by decide)
  split
  · next h => exact ⟨onCan_move _ d, rfl, fun hn => by rw [hn] at h; exact nomatch h⟩
  · refine ⟨hmove, by rw [onCan_dict, hdict, onCan_dict], fun _ => ?_⟩
    have ho := canOff_off c (onCan c (fun t => { t with leaving := some false }) d)
    generalize canOff c (onCan c (fun t => { t with leaving := some false }) d) = x at ho
    rw [onCan_self]
    exact ho

/-- Every controller without a frame on the bus is off once all leave their modes. -/
theorem allLeave_off (d : Dev) : (forEach allCan (leaveMode · false) d).dict.od = d.dict.od ∧
    ∀ c : CanId, d.can[c].sending = none → (forEach allCan (leaveMode · false) d).can[c].state = .off := by
  have h : ∀ (l : List CanId) (e : Dev), (forEach l (leaveMode · false) e).dict.od = e.dict.od ∧
      ∀ c : CanId, (c ∉ l → (forEach l (leaveMode · false) e).can[c] = e.can[c]) ∧
        (l.Nodup → c ∈ l → e.can[c].sending = none → (forEach l (leaveMode · false) e).can[c].state = .off) := fun l e => by
    induction l generalizing e with
    | nil => exact ⟨rfl, fun c => ⟨fun _ => rfl, fun _ h => nomatch h⟩⟩
    | cons x l ih =>
      obtain ⟨hmove, hdict, hoff⟩ := leaveMode_leaves x e
      obtain ⟨hd, hc⟩ := ih (leaveMode x false e)
      refine ⟨hd.trans hdict, fun c => ⟨fun hn => ?_, fun hnd hm hs => ?_⟩⟩
      · obtain ⟨hx, hl⟩ := not_or.mp (fun h => hn (List.mem_cons.mpr h))
        exact ((hc c).1 hl).trans (hmove.others c hx)
      · obtain ⟨hx, hl⟩ := List.nodup_cons.mp hnd
        by_cases hcx : c = x
        · subst hcx
          exact (congrArg CanCtl.state ((hc c).1 hx)).trans (hoff hs)
        · refine (hc c).2 hl ((List.mem_cons.mp hm).resolve_left hcx) ?_
          rw [hmove.others c hcx]
          exact hs
  exact ⟨(h allCan d).1, fun c hs => ((h allCan d).2 c).2 (List.nodup_finRange 8) (List.mem_finRange c) hs⟩

end controllers

/-! ### The recorder -/

section recorder

theorem logOne_low (e : Entry) (d : Dev) : LowRegs d (logOne e d) := by
  unfold logOne
  split
  · exact LowRegs.bump (.of_od rfl) (by decide) 0x10 (by decide)
  · exact .of_od rfl

theorem logWrite_low (es : List Entry) (d : Dev) : LowRegs d (logWrite es d) := by
  have h := LowRegs.forEach logOne_low es d
  unfold logWrite
  exact .ite h (h.trans (.of_od rfl))

theorem closeRecorder_low (cause : Nat) (d : Dev) : LowRegs d (closeRecorder cause d) := by
  unfold closeRecorder
  split
  · exact .refl d
  · exact .refl d
  · unfold takeStaged
    dsimp only
    refine .ite (.trans (.of_od rfl) (.forEach (fun e => ringAccept_low _) _ _)) (.ite ?_ (.trans (.of_od rfl) (logWrite_low _ _)))
    have hw : ∀ es e, LowRegs d e → LowRegs d (holdingOverflow (logWrite es e)) := fun es e he => by
      refine (he.trans (logWrite_low es e)).trans ?_
      unfold holdingOverflow
      exact .ite (.refl _) (.trans (.of_od rfl) (raiseP_low _ _ _ _))
    exact hw _ _ (.of_od rfl)

/-- Closing the logs writes no register of index 0x2B00 or above but the count of health records that failed. -/
theorem closeLogs_cfg (cause : Nat) (d : Dev) {idx sub : Nat} (hi : 0x2B00 ≤ idx) (hne : odKey idx sub ≠ odKey 0x2E05 4) :
    cfg (closeLogs cause d) idx sub = cfg d idx sub := by
  have hc := (closeRecorder_low cause d).cfg (sub := sub) hi
  have hw : cfg (writeHealth (closeRecorder cause d)) idx sub = cfg (closeRecorder cause d) idx sub := by
    unfold writeHealth
    split
    · exact cfg_bump_ne _ _ _ _ _ hne
    · rfl
  unfold closeLogs
  split
  · exact hc
  · exact hc
  · exact hw.trans hc

end recorder

end Sys2Proof.Machine
end

section
/-! PROOF. The commit point of a sleep, quiesce, the entry and the own need (R393, R397 to R402, R411). -/

namespace Sys2Proof.Machine

/-! ### The judgement of the own need -/

section judged

variable {d : Dev}

theorem settleNeed_now (fromTwl : Bool) (d : Dev) : (settleNeed fromTwl d).now = d.now := by
  have h : Framed [.fresh, .out, .regs, .inaug, .queues, .ports, .time, .sched, .strm, .recd, .sleep, .host, .ints, .counters] d (settleNeed fromTwl d) :=
    settleNeed_framed fromTwl d (by decide) (.refl _ d)
  generalize settleNeed fromTwl d = e at h
  exact congrArg Prod.fst (h.same .clock (by decide))

/-- Judging the need counts sleeps called off and pulses of TWL_OUT and nothing else of chapter 13. -/
theorem settleNeed_cfg (fromTwl : Bool) (d : Dev) {idx sub : Nat} (hi : 0x2B00 ≤ idx) (h2 : odKey idx sub ≠ odKey 0x2B07 2)
    (h8 : odKey idx sub ≠ odKey 0x2B07 8) : cfg (settleNeed fromTwl d) idx sub = cfg d idx sub :=
  (judgeSleep_cfg _ hi h2).trans (judgeNeed_cfg fromTwl d hi h8)

/-- A request of the host calls a sleep off. -/
theorem settleNeed_requested (fromTwl : Bool) (hst : d.sleep.state = .readySleep) (hreq : cfg d 0x2B01 1 ≠ 0) :
    (settleNeed fromTwl d).sleep.state = .awake := by
  obtain ⟨-, hs⟩ := judgeNeed_given fromTwl d
  have hcfg : cfg (judgeNeed fromTwl d) 0x2B01 1 ≠ 0 := by
    rw [judgeNeed_cfg fromTwl d (by decide) (by decide)]
    exact hreq
  refine (judgeSleep_aborts (hs.trans hst) ?_).1
  unfold trainNeed ownNeed needScopes
  rw [show cfgB (judgeNeed fromTwl d) 0x2B01 1 = true from decide_eq_true hcfg]
  rfl

/-- A node that nothing needs any more becomes ready to sleep. -/
theorem settleNeed_readies (hst : d.sleep.state = .awake) (hp : d.pow.state = .active) (hneed : trainNeed d = false)
    (hround : roundBusy d = false) : (settleNeed false d).sleep.state = .readySleep ∧
      (settleNeed false d).sleep.readyDeadline = some (d.now + cfg d 0x2B02 3 * msNs) := by
  have hown : ownNeed d = false := by
    unfold trainNeed at hneed
    exact (Bool.or_eq_false_iff.mp (Bool.or_eq_false_iff.mp hneed).1).1
  have hj : judgeNeed false d = onSleep (fun s => { s with lastNeed := false, lastScope := ownScope d }) d := by
    unfold judgeNeed onlyIf
    rw [hown]
    rfl
  have hsame : SameNeed d (judgeNeed false d) := by
    rw [hj]
    exact ⟨rfl, rfl, rfl, rfl, fun _ _ _ _ _ => rfl, rfl, rfl, fun _ => rfl, rfl⟩
  have := judgeSleep_readies (d := judgeNeed false d) (hsame.state.trans hst) (by rw [hj]; exact hp) (hsame.trainNeed.trans hneed)
    (hsame.roundBusy.trans hround)
  rwa [hj, show (onSleep _ d).now = d.now from rfl, show cfg (onSleep _ d) 0x2B02 3 = cfg d 0x2B02 3 from rfl, ← hj] at this

end judged

/-! ### A wake that was latched (R404) -/

section latched

variable {d : Dev}

/-- What the wake of a latched record leaves. -/
theorem wakeNow_wakes_any (latched : Bool) (l : List Nat) (d : Dev) : let e := wakeNow latched l d
    e.sleep.state = .waking ∧ e.sleep.latched = none ∧ ∀ sub < 256, sub ≠ 8 → cfg e 0x2B07 sub = cfg d 0x2B07 sub := by
  have hpulse : ∀ b (e : Dev), (onlyIf b pulseTwl e).sleep.state = e.sleep.state ∧ (onlyIf b pulseTwl e).sleep.latched = e.sleep.latched ∧
      ∀ sub < 256, sub ≠ 8 → cfg (onlyIf b pulseTwl e) 0x2B07 sub = cfg e 0x2B07 sub := fun b e => by
    have hp : (pulseTwl e).sleep.latched = e.sleep.latched :=
      given_part (·.latched) (fun _ => rfl) (pulseTwl_given e).1
    refine ⟨onlyIf_sleep (fun d => d.sleep.state) _ _ (pulseTwl_given e).2, onlyIf_sleep (fun d => d.sleep.latched) _ _ hp, fun sub hs h8 => ?_⟩
    refine onlyIf_sleep (fun d => cfg d 0x2B07 sub) _ _ ?_
    unfold pulseTwl
    split
    · rfl
    · exact cfg_bump_ne _ _ _ _ _ (by unfold odKey; omega)
  unfold wakeNow
  dsimp only
  generalize hb : onlyIf _ pulseTwl _ = b
  have hstate : b.sleep.state = .waking := by rw [← hb, (hpulse _ _).1]; rfl
  have hnone : b.sleep.latched = none := by rw [← hb, (hpulse _ _).2.1]; rfl
  have hcfg : ∀ sub < 256, sub ≠ 8 → cfg b 0x2B07 sub = cfg d 0x2B07 sub := fun sub hs h8 => by rw [← hb, (hpulse _ _).2.2 sub hs h8]; rfl
  split
  · obtain ⟨-, -, -, hs, -, hc⟩ := requestActive_boots _ [] b
    dsimp only at hs hc
    rw [hs]
    exact ⟨hstate, hnone, fun sub h1 h2 => (hc sub h1).trans (hcfg sub h1 h2)⟩
  · obtain ⟨o, ho⟩ := readouts_send (readoutPorts b l) (onSleep (fun s => { s with readout := some (_, readoutPorts b l, b.now) }) b)
    rw [ho]
    exact ⟨hstate, hnone, hcfg⟩

end latched

/-! ### Quiesce (R400) -/

theorem quiesce_quiesces (d : Dev) : let e := quiesce d
    e.now = d.now ∧ e.sleep.quiesced = true ∧ (∀ p : Port, e.ports.p[p].link = .disabled) ∧
      (∀ c : CanId, d.can[c].sending = none → e.can[c].state = .off) ∧ e.recd.state = .off ∧
      cfg e 0x2B07 4 = if d.pow.agentReady then cfg d 0x2B07 4 else min 0xFFFFFFFF (cfg d 0x2B07 4 + 1) := by
  have hnow : (quiesce d).now = d.now := by
    have h : Framed [.fresh, .out, .regs, .inaug, .queues, .ports, .time, .sched, .strm, .can, .recd, .sleep, .load, .host, .ints, .health,
      .counters] d (quiesce d) := quiesce_framed d (by decide) (.refl _ d)
    generalize quiesce d = e at h
    exact congrArg Prod.fst (h.same .clock (by decide))
  refine ⟨hnow, ?_⟩
  clear hnow
  unfold quiesce
  generalize hd1 : onlyIf (!complexRuns d) _ d = d1
  have hcan1 : d1.can = d.can := by
    rw [← hd1]
    exact onlyIf_sleep (fun d => d.can) _ _ (by rw [bump_can, raise_can])
  have hc1 : cfg d1 0x2B07 4 = if d.pow.agentReady then cfg d 0x2B07 4 else min 0xFFFFFFFF (cfg d 0x2B07 4 + 1) := by
    rw [← hd1]
    unfold onlyIf complexRuns
    cases d.pow.agentReady with
    | true => rfl
    | false => exact (cfg_bump_self _ _ _ rfl).trans (congrArg (fun n => min 0xFFFFFFFF (n + 1)) ((raise_low _ _ _).cfg (by decide)))
  have hlow := portsOff_low d1
  have hoff := portsOff_disables d1
  have hcan2 : (portsOff d1).can = d1.can :=
    (portsOff_framed (L := [.fresh, .out, .regs, .inaug, .queues, .ports, .time, .sched, .strm, .recd, .host, .ints, .counters]) d1 (by decide)
      (.refl _ _)).same .can (by decide)
  dsimp only
  generalize portsOff d1 = d2 at *
  generalize hd3 : ({ d2 with ports := _ } : Dev) = d3
  have hp3 : ∀ p : Port, d3.ports.p[p].link = .disabled := fun p => by rw [← hd3]; exact hoff p
  have hcan3 : d3.can = d.can := by rw [← hd3]; exact hcan2.trans hcan1
  have hod3 : d3.dict.od = d2.dict.od := by rw [← hd3]
  obtain ⟨hod4, hcan4⟩ := allLeave_off d3
  have hp4 : (forEach allCan (leaveMode · false) d3).ports = d3.ports :=
    (forEach_framed (L := [.out, .regs, .can, .ints]) _ _ d3 (.refl _ _) fun c e he => leaveMode_framed c false e (by decide) he).same .ports (by decide)
  generalize forEach allCan (leaveMode · false) d3 = d4 at *
  have hload : Framed [.out, .load, .strm] d4 (loadsSleep (streamsOff d4)) :=
    loadsSleep_framed _ (by decide) (streamsOff_framed d4 (by decide) (.refl _ _))
  generalize loadsSleep (streamsOff d4) = d5 at *
  have hlogs : Framed [.out, .regs, .recd, .ints, .health, .counters] (onSleep (fun x => { x with quiesced := true }) d5)
      (closeLogs 4 (onSleep (fun x => { x with quiesced := true }) d5)) := closeLogs_framed 4 _ (by decide) (.refl _ _)
  have hcfg := closeLogs_cfg 4 (onSleep (fun x => { x with quiesced := true }) d5) (idx := 0x2B07) (sub := 4) (by decide) (by decide)
  generalize closeLogs 4 (onSleep (fun x => { x with quiesced := true }) d5) = d6 at *
  have hp6 : d6.ports = d3.ports := (hlogs.same .ports (by decide)).trans ((hload.same .ports (by decide)).trans hp4)
  have hcan6 : d6.can = d4.can := (hlogs.same .can (by decide)).trans (hload.same .can (by decide))
  refine ⟨congrArg SleepS.quiesced (hlogs.same .sleep (by decide)), fun p => ?_, fun c hc => ?_, rfl, ?_⟩
  · show d6.ports.p[p].link = _
    rw [hp6]
    exact hp3 p
  · show d6.can[c].state = _
    rw [hcan6]
    exact hcan4 c (by rw [hcan3]; exact hc)
  · refine hcfg.trans (Eq.trans ?_ ((hlow.cfg (by decide)).trans hc1))
    show cfg d5 0x2B07 4 = _
    have hod5 : d5.dict.od = d4.dict.od := hload.same .regs (by decide)
    unfold cfg DictS.reg
    rw [hod5, hod4, hod3]

/-! ### The entry to the target state (R400, R401) -/

section entry

variable {d : Dev}

/-- What a filter keeps reads as before. -/
theorem Store.find_filter {α : Type} {dflt : Nat → α} {keep : Nat → Bool} {k : Nat} (hk : keep k = true) (m : List (Nat × α)) :
    Store.find dflt (m.filter (fun x => keep x.1)) k = Store.find dflt m k := by
  induction m with
  | nil => rfl
  | cons x m ih =>
    obtain ⟨k', v⟩ := x
    rw [List.filter_cons]
    by_cases hkk : k' = k
    · subst hkk
      rw [if_pos hk, Store.find, Store.find, if_pos rfl, if_pos rfl]
    · rw [Store.find.eq_2 _ _ _ _ m, if_neg hkk]
      split
      · rw [Store.find, if_neg hkk, ih]
      · exact ih

/-- The entries of chapter 13 outlive a reset of the islands. -/
theorem keptReg_chapter {idx sub : Nat} (hlo : 0x2B00 ≤ idx) (hhi : idx ≤ 0x2B07) (hs : sub < 256) : keptReg (odKey idx sub) = true := by
  have hidx : odKey idx sub / 256 = idx := by
    unfold odKey
    omega
  unfold keptReg
  rw [hidx]
  simp [hlo, hhi]

theorem resetIslands_leaves (phys : Vector Bool 4) (d : Dev) : let e := resetIslands phys d
    e.now = d.now ∧ e.sleep = d.sleep ∧ e.dict.epoch = 0 ∧
      ∀ idx sub, 0x2B00 ≤ idx → idx ≤ 0x2B07 → sub < 256 → cfg e idx sub = cfg d idx sub := by
  have hraise : ∀ b (e : Dev), (onlyIf b (raise evGrantEnded noInst) e).now = e.now ∧ (onlyIf b (raise evGrantEnded noInst) e).sleep = e.sleep ∧
      (onlyIf b (raise evGrantEnded noInst) e).dict.epoch = e.dict.epoch ∧ LowRegs e (onlyIf b (raise evGrantEnded noInst) e) := fun b e => by
    have hf : Framed [.out, .regs, .recd, .ints, .counters] e (raise evGrantEnded noInst e) := raise_framed _ _ e (by decide) (.refl _ e)
    exact ⟨onlyIf_sleep (fun d => d.now) _ _ (raise_now _ _ _), onlyIf_sleep (fun d => d.sleep) _ _ (raise_sleep _ _ _),
      onlyIf_sleep (fun d => d.dict.epoch) _ _ (congrArg Prod.fst (hf.same .commit (by decide))), .onlyIf b (raise_low _ _ e)⟩
  unfold resetIslands
  dsimp only
  generalize hb : ({ d with dict := _, node := _, inaug := _, fab := _, ports := _, time := _, sched := _, strm := _, can := _, gw := _, chk := _, recd := _, load := _, host := _, health := _, sec := _, pow := _ } : Dev) = b
  have hnow : b.now = d.now := by rw [← hb]
  have hsleep : b.sleep = d.sleep := by rw [← hb]
  have hepoch : b.dict.epoch = 0 := by rw [← hb]; rfl
  have hod : b.dict.od = d.dict.od.filter (fun x => keptReg x.1) := by rw [← hb]
  obtain ⟨h1, h2, h3, h4⟩ := hraise (decide (d.sec.level ≠ 0)) b
  refine ⟨h1.trans hnow, h2.trans hsleep, h3.trans hepoch, fun idx sub hlo hhi hs => (h4.cfg hlo).trans ?_⟩
  unfold cfg DictS.reg
  rw [hod, Store.find_filter (keptReg_chapter hlo hhi hs)]

theorem enterLowPower_leaves (standby : Bool) (d : Dev) : let e := enterLowPower standby d
    e.now = d.now ∧ e.sleep = d.sleep ∧ e.dict.epoch = 0 ∧ e.pow.state = (if standby then .standby else .sleep) ∧
      ∀ idx sub, 0x2B00 ≤ idx → idx ≤ 0x2B07 → sub < 256 → cfg e idx sub = cfg d idx sub := by
  obtain ⟨h1, h2, h3, h4⟩ := resetIslands_leaves (Vector.ofFn (fun g : Fin 4 => bitOf (cfg d 0x2B05 (1 + g.val)) 1)) d
  unfold enterLowPower
  dsimp only at h1 h2 h3 h4 ⊢
  generalize resetIslands (Vector.ofFn (fun g : Fin 4 => bitOf (cfg d 0x2B05 (1 + g.val)) 1)) d = e at *
  exact ⟨h1, h2, h3, rfl, h4⟩

/-- The device that sleeps, before a latched wake. -/
def slept (d : Dev) : Dev :=
  setReg 0x2B01 1 0 (bump 0x2B07 1 (onSleep (fun s => { s with
    state := .asleep, scope := 0, wokenPorts := [], front := SideInfo.reset, rear := SideInfo.reset, requestDeadline := none
    holdEnd := none, committedAt := none, quiesced := false, toldFront := none, toldRear := none, lastSent := none, silentFront := false
    silentRear := false, latched := none, lastNeed := false
    timerEnd := if cfg d 0x2B01 3 = 0 then none else some (d.now + cfg d 0x2B01 3 * sNs) })
      (onlyIf (cfg d 0x2B01 5 = 1 && !(cfg d 0x2B01 5 = 1 && retentionPermitted d)) (raise evStandbyRefused noInst)
        (enterLowPower (cfg d 0x2B01 5 = 1 && retentionPermitted d) d))))

theorem enterSleep_eq (d : Dev) : enterSleep d = match d.sleep.latched with
    | some r => wakeNow true (sourcesOf r.sources) (bump 0x2B07 3 (slept d))
    | none => slept d := rfl

theorem slept_sleeps (hv : d.Valid) : (slept d).now = d.now ∧ (slept d).sleep.state = .asleep ∧
    (slept d).pow.state = (if cfg d 0x2B01 5 = 1 ∧ retentionPermitted d = true then .standby else .sleep) ∧
    cfg (slept d) 0x2B07 1 = min 0xFFFFFFFF (cfg d 0x2B07 1 + 1) ∧ cfg (slept d) 0x2B07 3 = cfg d 0x2B07 3 ∧
    cfg (slept d) 0x2B01 1 = 0 ∧ (slept d).sleep.history = d.sleep.history ∧ (slept d).dict.epoch = 0 ∧
    (slept d).sleep.timerEnd = if cfg d 0x2B01 3 = 0 then none else some (d.now + cfg d 0x2B01 3 * sNs) := by
  have hkept := enterLowPower_kept (cfg d 0x2B01 5 = 1 && retentionPermitted d) d hv.kept
  obtain ⟨h1, h2, h3, h4, h5⟩ := enterLowPower_leaves (cfg d 0x2B01 5 = 1 && retentionPermitted d) d
  unfold slept
  generalize enterLowPower (cfg d 0x2B01 5 = 1 && retentionPermitted d) d = e at *
  have hf : Framed [.out, .regs, .recd, .ints, .counters] e (raise evStandbyRefused noInst e) := raise_framed _ _ e (by decide) (.refl _ e)
  have hrk := onlyIf_kept (cfg d 0x2B01 5 = 1 && !(cfg d 0x2B01 5 = 1 && retentionPermitted d)) (raise evStandbyRefused noInst) e
    (fun h => raise_kept evStandbyRefused noInst e h) hkept
  have hrs := onlyIf_sleep (fun d => d.sleep) (cfg d 0x2B01 5 = 1 && !(cfg d 0x2B01 5 = 1 && retentionPermitted d)) e
    (raise_sleep evStandbyRefused noInst e)
  have hrn := onlyIf_sleep (fun d => d.now) (cfg d 0x2B01 5 = 1 && !(cfg d 0x2B01 5 = 1 && retentionPermitted d)) e
    (raise_now evStandbyRefused noInst e)
  have hrp := onlyIf_sleep (fun d => d.pow) (cfg d 0x2B01 5 = 1 && !(cfg d 0x2B01 5 = 1 && retentionPermitted d)) e
    (raise_pow evStandbyRefused noInst e)
  have hre := onlyIf_sleep (fun d => d.dict.epoch) (cfg d 0x2B01 5 = 1 && !(cfg d 0x2B01 5 = 1 && retentionPermitted d)) e
    (congrArg Prod.fst (hf.same .commit (by decide)))
  have hrl := LowRegs.onlyIf (cfg d 0x2B01 5 = 1 && !(cfg d 0x2B01 5 = 1 && retentionPermitted d)) (raise_low evStandbyRefused noInst e)
  generalize onlyIf (cfg d 0x2B01 5 = 1 && !(cfg d 0x2B01 5 = 1 && retentionPermitted d)) (raise evStandbyRefused noInst) e = x at *
  have hx : ∀ sub, sub < 256 → cfg x 0x2B07 sub = cfg d 0x2B07 sub := fun sub hs => (hrl.cfg (by decide)).trans (h5 _ _ (by decide) (by decide) hs)
  refine ⟨?_, rfl, ?_, ?_, ?_, ?_, ?_, ?_, rfl⟩
  · exact hrn.trans h1
  · show x.pow.state = _
    rw [hrp, h4]
    simp
  · rw [cfg_setReg_ne _ _ _ _ _ _ (by decide), cfg_bump_self _ _ _ rfl]
    exact congrArg (fun n => min 0xFFFFFFFF (n + 1)) (hx 1 (by decide))
  · rw [cfg_setReg_ne _ _ _ _ _ _ (by decide), cfg_bump_ne _ _ _ _ _ (by decide)]
    exact hx 3 (by decide)
  · exact cfg_setReg_wf _ _ _ _ (bump_kept 0x2B07 1 _ hrk).dict.od
  · show x.sleep.history = _
    rw [hrs, h2]
  · exact hre.trans h3

end entry

section commands

variable {s : State} {t : Nat}

/-- The commit point (R398). -/
theorem readySleepExpiry_commits (ht : s.dev.sleep.readyDeadline = some t) (hst : s.dev.sleep.state = .readySleep) :
    Completes .readySleepExpiry s fun d => d.now = max s.dev.now t ∧ KeepAlivesLeft s true d ∧ d.host.intStatus.getLsbD 4 = true ∧
      d.sleep.state = .committing ∧ d.sleep.committedAt = some d.now ∧ d.sleep.readyDeadline = none ∧ d.sleep.periodDue = none := by
  have hrun : exec .readySleepExpiry s = s.does fun d => raise evSleepCommitted noInst (setInt 4 (onSleep (fun x => { x with
      state := .committing, readyDeadline := none, periodDue := none, committedAt := some (arrive t d).now, quiesced := false, latched := none })
        (bothSent true (arrive t d)))) := by
    show execReadySleepExpiry s = _
    unfold execReadySleepExpiry
    refine does_congr ?_
    have h : s.found.sleep.readyDeadline = some t := ht
    have hs : s.found.sleep.state = .readySleep := hst
    rw [h, hs]
    rfl
  have hnow : (bothSent true (arrive t s.found)).now = max s.dev.now t := (bothSent_now true _).trans (arrive_now t s.found)
  have hleft := bothSent_left (s := s) true t
  have harrive : (arrive t s.found).now = max s.dev.now t := arrive_now t s.found
  refine completes_of_exec hrun ?_
  rw [harrive]
  generalize bothSent true (arrive t s.found) = b at *
  generalize hc : onSleep _ b = c
  have hcs : c.sleep.state = .committing ∧ c.sleep.committedAt = some (max s.dev.now t) ∧ c.sleep.readyDeadline = none ∧
      c.sleep.periodDue = none := by rw [← hc]; exact ⟨rfl, rfl, rfl, rfl⟩
  have hcn : c.now = max s.dev.now t := by rw [← hc]; exact hnow
  have hcq : ∀ p ∈ backbonePorts, Q4Stands p b c := fun p _ => by rw [← hc]; exact ⟨rfl, rfl⟩
  have hregs := raise_regs evSleepCommitted noInst (setInt 4 c)
  have hev : ∀ p ∈ backbonePorts, ∀ r ∈ eventCounters, odKey r.1 r.2 ≠ odKey (0x2210 + p.val) 5 := by decide
  have hq : ∀ p ∈ backbonePorts, Q4Stands p b (raise evSleepCommitted noInst (setInt 4 c)) := fun p hp => by
    refine (hcq p hp).trans ⟨queueOf_of_queues (by rw [raise_fab, setInt_fab]) p 4, (hregs.cfg _ _ (hev p hp)).trans ?_⟩
    exact cfg_of_dict (setInt_dict _ _) _ _
  refine ⟨?_, fun p hp hu => JoinsQ4.stands (hleft p hp hu) (hq p hp), raise_stands _ _ _ _ (setInt_bit (by decide) c), ?_⟩
  · rw [raise_now, setInt_now, hcn]
  · rw [raise_sleep, raise_now, setInt_sleep, setInt_now, hcn]
    exact hcs

/-- The node leaves service 40 ms after the commit point (R400). -/
theorem quiesce_leavesService (ht : s.dev.sleep.committedAt = some t) (hst : s.dev.sleep.state = .committing) (hq : s.dev.sleep.quiesced = false) :
    Completes .quiesce s fun d => d.now = max s.dev.now (t + 40 * msNs) ∧ d.sleep.quiesced = true ∧
      (∀ p : Port, d.ports.p[p].link = .disabled) ∧ (∀ c : CanId, s.dev.can[c].sending = none → d.can[c].state = .off) ∧
      d.recd.state = .off ∧ cfg d 0x2B07 4 = if s.dev.pow.agentReady then cfg s.dev 0x2B07 4 else min 0xFFFFFFFF (cfg s.dev 0x2B07 4 + 1) := by
  have hrun : exec .quiesce s = s.does fun d => quiesce (arrive (t + 40 * msNs) d) := by
    show execQuiesce s = _
    unfold execQuiesce
    refine does_congr ?_
    have h : s.found.sleep.committedAt = some t := ht
    have hs : s.found.sleep.state = .committing := hst
    have hq : s.found.sleep.quiesced = false := hq
    rw [h, hs, hq]
    rfl
  refine completes_of_exec hrun ?_
  obtain ⟨h1, h2, h3, h4, h5, h6⟩ := quiesce_quiesces (arrive (t + 40 * msNs) s.found)
  refine ⟨h1.trans (arrive_now _ _), h2, h3, fun c hc => h4 c ?_, h5, ?_⟩
  · rw [arrive_can]
    exact hc
  · rw [h6, arrive_pow, cfg_arrive]
    rfl

theorem sleepEntry_run (ht : s.dev.sleep.committedAt = some t) (hst : s.dev.sleep.state = .committing) (hq : s.dev.sleep.quiesced = true) :
    exec .sleepEntry s = s.does fun d => enterSleep (arrive (t + 50 * msNs) d) := by
  show execSleepEntry s = _
  unfold execSleepEntry
  refine does_congr ?_
  have h : s.found.sleep.committedAt = some t := ht
  have hs : s.found.sleep.state = .committing := hst
  have hq : s.found.sleep.quiesced = true := hq
  rw [h, hs, hq]
  rfl

/-- The node sleeps 50 ms after the commit point (R401). -/
theorem sleepEntry_sleeps (hv : s.dev.Valid) (ht : s.dev.sleep.committedAt = some t) (hst : s.dev.sleep.state = .committing)
    (hq : s.dev.sleep.quiesced = true) :
    (s.dev.sleep.latched = none → Completes .sleepEntry s fun d => d.now = max s.dev.now (t + 50 * msNs) ∧ d.sleep.state = .asleep ∧
      d.pow.state = (if cfg s.dev 0x2B01 5 = 1 ∧ retentionPermitted s.dev = true then .standby else .sleep) ∧
      cfg d 0x2B07 1 = min 0xFFFFFFFF (cfg s.dev 0x2B07 1 + 1) ∧ cfg d 0x2B01 1 = 0 ∧ d.sleep.history = s.dev.sleep.history ∧
      d.dict.epoch = 0 ∧ d.sleep.timerEnd = if cfg s.dev 0x2B01 3 = 0 then none else some (d.now + cfg s.dev 0x2B01 3 * sNs)) ∧
    (∀ r : WakeRec, s.dev.sleep.latched = some r → Completes .sleepEntry s fun d => d.sleep.state = .waking ∧
      cfg d 0x2B07 1 = min 0xFFFFFFFF (cfg s.dev 0x2B07 1 + 1) ∧ cfg d 0x2B07 3 = min 0xFFFFFFFF (cfg s.dev 0x2B07 3 + 1) ∧
      d.sleep.latched = none) := by
  have hrun := sleepEntry_run ht hst hq
  have hva : (arrive (t + 50 * msNs) s.found).Valid := (arrive_kept (t + 50 * msNs) s.found (Dev.Valid.kept (d := s.found) hv)).valid
  have hnow : (arrive (t + 50 * msNs) s.found).now = max s.dev.now (t + 50 * msNs) := arrive_now _ _
  have hcfg : ∀ idx sub, cfg (arrive (t + 50 * msNs) s.found) idx sub = cfg s.dev idx sub := cfg_arrive _ _
  have hsl : (arrive (t + 50 * msNs) s.found).sleep = s.dev.sleep := arrive_sleep _ _
  have hret : retentionPermitted (arrive (t + 50 * msNs) s.found) = retentionPermitted s.dev := by
    unfold retentionPermitted cfgB
    rw [arrive_sec, hcfg]
    rfl
  obtain ⟨h1, h2, h3, h4, h5, h6, h7, h8, h9⟩ := slept_sleeps hva
  rw [hcfg, hret] at h3
  rw [hcfg] at h4 h5 h9
  rw [hsl] at h7
  refine ⟨fun hl => completes_of_exec hrun ?_, fun r hl => completes_of_exec hrun ?_⟩
  · rw [enterSleep_eq, hsl, hl]
    rw [← h1] at h9
    exact ⟨h1.trans hnow, h2, h3, h4, h6, h7, h8, h9⟩
  · rw [enterSleep_eq, hsl, hl]
    dsimp only
    obtain ⟨hw, hn, hc⟩ := wakeNow_wakes_any true (sourcesOf r.sources) (bump 0x2B07 3 (slept (arrive (t + 50 * msNs) s.found)))
    refine ⟨hw, ?_, ?_, hn⟩
    · rw [hc 1 (by decide) (by decide), cfg_bump_ne _ _ _ _ _ (by decide), h4]
    · rw [hc 3 (by decide) (by decide), cfg_bump_self _ _ _ rfl, h5]

/-- The device on which the host has asked, once its word stands (R393). -/
def hostAsked (v : Bool) (d : Dev) : Dev := setReg 0x2B01 1 (if v then 1 else 0) d

theorem hostAwake_committing {d : Dev} (v : Bool) (hst : d.sleep.state = .committing) :
    hostAwake v d = if v then latchWake [17] (hostAsked v d) else hostAsked v d := by
  have h : (hostAsked v d).sleep.state = .committing := hst
  unfold hostAwake
  exact if_pos h

theorem hostAwake_awake {d : Dev} (v : Bool) (hst : d.sleep.state ≠ .committing) : hostAwake v d =
    settleNeed false (onSleep (fun s => { s with
      requestDeadline := if v && cfg d 0x2B02 5 ≠ 0 then some (d.now + cfg d 0x2B02 5 * sNs) else none }) (hostAsked v d)) := by
  have h : ¬ (hostAsked v d).sleep.state = .committing := hst
  unfold hostAwake
  exact if_neg h

theorem hostAwake_asked {d : Dev} (v : Bool) (hwf : Store.wf odDefault d.dict.od = true) : cfg (hostAwake v d) 0x2B01 1 = if v then 1 else 0 := by
  have hask : cfg (hostAsked v d) 0x2B01 1 = if v then 1 else 0 := cfg_setReg_wf _ _ _ _ hwf
  by_cases hst : d.sleep.state = .committing
  · rw [hostAwake_committing v hst]
    have hlatch : cfg (latchWake [17] (hostAsked v d)) 0x2B01 1 = cfg (hostAsked v d) 0x2B01 1 := by
      unfold latchWake
      split
      · rfl
      · exact (raise_low _ _ _).cfg (by decide)
    rw [apply_ite (fun e => cfg e 0x2B01 1), hlatch, ite_self]
    exact hask
  · rw [hostAwake_awake v hst, settleNeed_cfg false _ (by decide) (by decide) (by decide)]
    exact hask

theorem hostAwakeRequest_acts {src : Src} {v : BitVec 8} (hs : Served s.dev src) (hm : MayWrite s.dev src 0x2B01 1) :
    (2 ≤ v.toNat → Completes (.hostAwakeRequest src v) s (RefusedWith s src 0x2B01 1 0x06090030)) ∧
    (v.toNat ≤ 1 → s.dev.Valid → Completes (.hostAwakeRequest src v) s fun d => WriteAnswered d src 0x2B01 1 0 ∧
      cfg d 0x2B01 1 = v.toNat ∧
      (s.dev.sleep.state = .committing → d.sleep.state = .committing ∧ (v.toNat = 1 → s.dev.sleep.latched = none →
        ∃ r, d.sleep.latched = some r ∧ r.source = 17 ∧ r.latched = true)) ∧
      (s.dev.sleep.state ≠ .committing → (s.dev.sleep.state = .readySleep → v.toNat = 1 → d.sleep.state = .awake) ∧ d.sleep.requestDeadline =
        if v.toNat = 1 ∧ cfg s.dev 0x2B02 5 ≠ 0 then some (s.dev.now + cfg s.dev 0x2B02 5 * sNs) else none)) := by
  refine ⟨fun hv => completes_num_refused (c := .hostAwakeRequest src v) rfl hs hm rfl rfl v.isLt ?_ (by decide) (by decide), fun hv hvalid => ?_⟩
  · unfold valueError
    dsimp only
    rw [decide_eq_false (Nat.not_le.2 hv)]
    rfl
  · have hval : ∀ row, rowOf 0x2B01 1 = some row → valueError s.dev row 0x2B01 1 (.num v.toNat) = none := fun row hrow => by
      obtain rfl := Option.some.inj (hrow.symm.trans (rfl : rowOf 0x2B01 1 = some _))
      unfold valueError
      dsimp only
      rw [decide_eq_true hv]
      rfl
    refine completes_done (A := [.fresh, .out, .regs, .inaug, .queues, .ports, .time, .sched, .strm, .recd, .sleep, .host, .ints, .counters])
      (f := hostAwake (decide (v.toNat ≠ 0))) rfl hs hm rfl rfl v.isLt rfl (hval _ rfl) (by decide) (by decide) (by decide)
      (fun h => absurd h.1 (by decide)) (fun _ => rfl) (fun d => hostAwake_framed _ d (by decide) (.refl _ _)) (by decide) (by decide)
      fun a d hpath ha hend _ hanswer => ?_
    have hwf : Store.wf odDefault (bump 0x2003 1 a).dict.od = true := (bump_kept 0x2003 1 a (ha hvalid).kept).dict.od
    have hsl : (bump 0x2003 1 a).sleep = s.dev.sleep := (bump_sleep _ _ _).trans (hpath.same .sleep (by decide))
    have hnow : (bump 0x2003 1 a).now = s.dev.now := (bump_now _ _ _).trans hpath.now
    have hcfg : cfg (bump 0x2003 1 a) 0x2B02 5 = cfg s.dev 0x2B02 5 :=
      (cfg_bump_ne _ _ _ _ _ (by decide)).trans (hpath.cfg_free (by unfold PathFree; omega))
    have hdsl : d.sleep = _ := hend.same .sleep (by decide)
    have hdcfg : cfg d 0x2B01 1 = _ := hend.cfg_free (by unfold PathFree; omega)
    have hone : v.toNat = 1 → decide (v.toNat ≠ 0) = true := fun h => by rw [h]; rfl
    rw [hostAwake_asked _ hwf] at hdcfg
    generalize bump 0x2003 1 a = b at *
    rw [hdsl]
    refine ⟨hanswer, ?_, fun hst => ?_, fun hst => ?_⟩
    · rw [hdcfg]
      by_cases h0 : v.toNat = 0
      · rw [h0]; rfl
      · rw [show v.toNat = 1 by omega]; rfl
    · rw [hostAwake_committing _ (hsl.symm ▸ hst)]
      have hask : (hostAsked (decide (v.toNat ≠ 0)) b).sleep = s.dev.sleep := hsl
      generalize hostAsked (decide (v.toNat ≠ 0)) b = x at hask
      cases hl : s.dev.sleep.latched with
      | none =>
        obtain ⟨r, hr, h17, hrl, hrs⟩ := latchWake_first (l := [17]) (d := x) (by rw [hask, hl])
        refine ⟨?_, fun h1 _ => ?_⟩
        · split
          · rw [hrs, hask, hst]
          · rw [hask, hst]
        · rw [hone h1, if_pos rfl]
          exact ⟨r, hr, h17, hrl⟩
      | some r =>
        rw [latchWake_again (by rw [hask, hl]), ite_self, hask]
        exact ⟨hst, fun _ h => nomatch h⟩
    · rw [hostAwake_awake _ (hsl.symm ▸ hst)]
      have hdead := given_part (·.requestDeadline) (fun _ => rfl) (settleNeed_given false (onSleep (fun s => { s with
        requestDeadline := if decide (v.toNat ≠ 0) && cfg b 0x2B02 5 ≠ 0 then some (b.now + cfg b 0x2B02 5 * sNs) else none })
          (hostAsked (decide (v.toNat ≠ 0)) b)))
      refine ⟨fun hready h1 => settleNeed_requested false ?_ ?_, hdead.trans ?_⟩
      · rw [onSleep_sleep]
        exact (congrArg SleepS.state hsl).trans hready
      · rw [hone h1]
        have hask : cfg (hostAsked true b) 0x2B01 1 = 1 := cfg_setReg_wf _ _ _ _ hwf
        have : cfg (onSleep (fun s => { s with
          requestDeadline := if true && cfg b 0x2B02 5 ≠ 0 then some (b.now + cfg b 0x2B02 5 * sNs) else none }) (hostAsked true b)) 0x2B01 1 = 1 := hask
        rw [this]
        decide
      · rw [onSleep_sleep, hnow, hcfg]
        dsimp only
        have hiff : v.toNat ≠ 0 ↔ v.toNat = 1 := by omega
        simp only [Bool.and_eq_true, decide_eq_true_eq, hiff, ne_eq]

/-- The host's request ends at its maximum time (R393). -/
theorem maximumAwakeExpiry_withdraws (ht : s.dev.sleep.requestDeadline = some t) (hv : s.dev.Valid) :
    Completes .maximumAwakeExpiry s fun d => d.now = max s.dev.now t ∧ cfg d 0x2B01 1 = 0 ∧ d.sleep.requestDeadline = none ∧
      cfg d 0x2B07 5 = min 0xFFFFFFFF (cfg s.dev 0x2B07 5 + 1) := by
  have hrun : exec .maximumAwakeExpiry s = s.does fun d => settleNeed false (raise evMaxAwake noInst (bump 0x2B07 5
      (setReg 0x2B01 1 0 (onSleep (fun x => { x with requestDeadline := none }) (arrive t d))))) := by
    show execMaximumAwakeExpiry s = _
    unfold execMaximumAwakeExpiry
    refine does_congr ?_
    have h : s.found.sleep.requestDeadline = some t := ht
    rw [h]
  have hwf : Store.wf odDefault (arrive t s.found).dict.od = true := (arrive_kept t s.found (Dev.Valid.kept (d := s.found) hv)).dict.od
  have hnow : (arrive t s.found).now = max s.dev.now t := arrive_now t s.found
  have hcfg : cfg (arrive t s.found) 0x2B07 5 = cfg s.dev 0x2B07 5 := cfg_arrive _ _ _ _
  refine completes_of_exec hrun ?_
  generalize arrive t s.found = a at *
  generalize hx : onSleep (fun x => { x with requestDeadline := none }) a = x
  have hxd : x.dict = a.dict := by rw [← hx]; rfl
  have hxn : x.now = a.now := by rw [← hx]; rfl
  have hxs : x.sleep.requestDeadline = none := by rw [← hx]; rfl
  refine ⟨?_, ?_, ?_, ?_⟩
  · rw [settleNeed_now, raise_now, bump_now]
    exact hxn.trans hnow
  · rw [settleNeed_cfg false _ (by decide) (by decide) (by decide), (raise_low _ _ _).cfg (by decide), cfg_bump_ne _ _ _ _ _ (by decide)]
    exact cfg_setReg_wf _ _ _ _ (by rw [hxd]; exact hwf)
  · refine (given_part (·.requestDeadline) (fun _ => rfl) (settleNeed_given false _)).trans ?_
    rw [raise_sleep, bump_sleep]
    exact hxs
  · rw [settleNeed_cfg false _ (by decide) (by decide) (by decide), (raise_low _ _ _).cfg (by decide), cfg_bump_self _ _ _ rfl,
      cfg_setReg_ne _ _ _ _ _ _ (by decide), cfg_of_dict hxd, hcfg]

/-- The hold after a wake ends (R394). -/
theorem postWakeHoldEnd_ends (ht : s.dev.sleep.holdEnd = some t) : Completes .postWakeHoldEnd s fun d =>
    d.now = max s.dev.now t ∧ d.sleep.holdEnd = none ∧
      (s.dev.sleep.state = .awake → s.dev.pow.state = .active → roundBusy s.dev = false →
        trainNeed { s.dev with sleep := { s.dev.sleep with holdEnd := none } } = false →
        d.sleep.state = .readySleep ∧ d.sleep.readyDeadline = some (d.now + cfg s.dev 0x2B02 3 * msNs)) := by
  have hrun : exec .postWakeHoldEnd s = s.does fun d => settleNeed false (onSleep (fun x => { x with holdEnd := none }) (arrive t d)) := by
    show execPostWakeHoldEnd s = _
    unfold execPostWakeHoldEnd
    refine does_congr ?_
    have h : s.found.sleep.holdEnd = some t := ht
    rw [h]
  have hnow : (onSleep (fun x => { x with holdEnd := none }) (arrive t s.found)).now = max s.dev.now t := arrive_now t s.found
  have hhold : (onSleep (fun x => { x with holdEnd := none }) (arrive t s.found)).sleep.holdEnd = none := rfl
  have hcfg : cfg (onSleep (fun x => { x with holdEnd := none }) (arrive t s.found)) 0x2B02 3 = cfg s.dev 0x2B02 3 := cfg_arrive t s.found _ _
  have hpow : (onSleep (fun x => { x with holdEnd := none }) (arrive t s.found)).pow = s.dev.pow := arrive_pow t s.found
  have hsame : SameNeed { s.dev with sleep := { s.dev.sleep with holdEnd := none } }
      (onSleep (fun x => { x with holdEnd := none }) (arrive t s.found)) := by
    obtain ⟨h1, h2, h3, h4, h5, h6, h7, h8, h9⟩ := arrive_same t s.found
    refine ⟨h1, h2, h3, h4, h5, ?_, h7, h8, h9⟩
    exact congrArg (fun n => ((none : Option Nat), n)) (Prod.mk.inj h6).2
  refine completes_of_exec hrun ?_
  generalize onSleep (fun x => { x with holdEnd := none }) (arrive t s.found) = e at *
  refine ⟨(settleNeed_now _ _).trans hnow, ?_, fun hst hp hr hn => ?_⟩
  · exact (given_part (·.holdEnd) (fun _ => rfl) (settleNeed_given false e)).trans hhold
  · obtain ⟨h1, h2⟩ := settleNeed_readies (hsame.state.trans hst) (by rw [hpow]; exact hp) (hsame.trainNeed.trans hn) (hsame.roundBusy.trans hr)
    exact ⟨h1, by rw [h2, settleNeed_now, hcfg]⟩

end commands

/-- Settles O45: each event judges the need again, which leaves what it concerns alone but for the state of the agreement. -/
theorem theNodeAgreesToSleepAndLeavesServiceAsGiven : Obligations.TheNodeAgreesToSleepAndLeavesServiceAsGiven := by
  intro s m counter aborted sends
  refine ⟨fun p k hup => ⟨fun h => keepAlive_malformed hup h, fun hp hk => ⟨fun hst hn => keepAlive_ignored hup hp hk hst hn,
    fun hst => keepAlive_kept hup hp hk hst⟩⟩, fun rear t ht => silentSide_marks ht, fun t ht hst => keepAlivePeriod_completes ht hst,
    fun t ht hst => readySleepExpiry_commits ht hst, fun t ht hst hq => quiesce_leavesService ht hst hq,
    fun t hv ht hst hq => sleepEntry_sleeps hv ht hst hq, fun src v hs hm => hostAwakeRequest_acts hs hm,
    fun t ht hv => maximumAwakeExpiry_withdraws ht hv, fun t ht => postWakeHoldEnd_ends ht⟩

end Sys2Proof.Machine
end

section
/-! PROOF. The platform: recorder closed and reopened, islands reset, the boot and its image (R386, R471, R478, R481 to R484). -/

namespace Sys2Proof.Machine

/-! ### The recorder closes and reopens -/

section recorder

variable {d : Dev}

theorem logWrite_recdState (es : List Entry) (d : Dev) : (logWrite es d).recd.state = d.recd.state := by
  have hone : ∀ e d, (logOne e d).recd.state = d.recd.state := fun e d => by
    unfold logOne
    split
    · rw [bump_recd]
    · rfl
  have hall : ∀ (l : List Entry) d, (forEach l logOne d).recd.state = d.recd.state := fun l d => by
    induction l generalizing d with
    | nil => rfl
    | cons x l ih => exact (ih _).trans (hone x d)
  unfold logWrite
  dsimp only
  split <;> exact hall es d

theorem holdingOverflow_recdState (d : Dev) : (holdingOverflow d).recd.state = d.recd.state := by
  unfold holdingOverflow
  dsimp only
  split
  · rfl
  · rw [raiseP_recdState]

theorem ringAccepts_recdState (l : List Entry) (d : Dev) :
    (forEach l (fun e => ringAccept { e with viaRing := true }) d).recd.state = d.recd.state := by
  induction l generalizing d with
  | nil => rfl
  | cons x l ih => exact (ih _).trans (ringAccept_recdState _ d)

/-- A recorder that runs is closed. -/
theorem closeRecorder_closes (cause : Nat) (h : d.recd.state ≠ .off) : (closeRecorder cause d).recd.state = .closed := by
  unfold closeRecorder takeStaged
  split
  · next hoff => exact absurd hoff h
  · assumption
  · dsimp only
    split
    · rw [ringAccepts_recdState]
    · split
      · rw [holdingOverflow_recdState, logWrite_recdState]
      · rw [logWrite_recdState]

theorem closeLogs_closes (cause : Nat) (h : d.recd.state ≠ .off) : (closeLogs cause d).recd.state = .closed := by
  have hw : ∀ e, (writeHealth e).recd = e.recd := fun e =>
    (writeHealth_framed (L := [.regs, .health]) e (by decide) (.refl _ e)).same .recd (by decide)
  unfold closeLogs
  split
  · exact closeRecorder_closes cause h
  · exact closeRecorder_closes cause h
  · rw [hw]
    exact closeRecorder_closes cause h

theorem closeLogs_stands (cause : Nat) (d : Dev) : IntsStand d (closeLogs cause d) := by
  have hover : ∀ e, IntsStand d e → IntsStand d (holdingOverflow e) := fun e he => by
    unfold holdingOverflow
    refine .ite he fun i hi => ?_
    exact raiseP_stands _ _ _ _ i (he i hi)
  have hlog : ∀ es e, IntsStand d e → IntsStand d (logWrite es e) := fun es e he =>
    he.trans ((logWrite_framed (L := [.regs, .recd]) es e (by decide) (.refl _ e)).intsStand (by decide))
  have hring : ∀ (l : List Entry) e, IntsStand d e → IntsStand d (forEach l (fun e => ringAccept { e with viaRing := true }) e) := fun l e he => by
    have hf : Framed [.regs, .recd] e (forEach l (fun e => ringAccept { e with viaRing := true }) e) :=
      forEach_framed _ _ e (.refl _ e) fun x y hy => ringAccept_framed _ y (by decide) hy
    exact he.trans (hf.intsStand (by decide))
  have hclose : IntsStand d (closeRecorder cause d) := by
    unfold closeRecorder takeStaged
    split
    · exact .of_eq rfl
    · exact .of_eq rfl
    · exact .ite (hring _ _ (.of_eq rfl)) (.ite (hover _ (hlog _ _ (.of_eq rfl))) (hlog _ _ (.of_eq rfl)))
  have hw : ∀ e, IntsStand e (writeHealth e) := fun e =>
    (writeHealth_framed (L := [.regs, .health]) e (by decide) (.refl _ e)).intsStand (by decide)
  unfold closeLogs
  split
  · exact hclose
  · exact hclose
  · exact hclose.trans (hw _)

/-- A recorder in Write-back stays there until everything held is written. -/
theorem enterWriteBack_state (afterRing : Bool) (d : Dev) :
    (enterWriteBack afterRing d).recd.state = .writeBack ∨ (enterWriteBack afterRing d).recd.state = .logging := by
  have hfinish : ∀ e, (finishWriteBack e).recd.state = .logging := fun e => by
    unfold finishWriteBack
    dsimp only
    split
    · rw [show raise evWriteBack noInst = raiseP evWriteBack noInst [] from rfl, raiseP_recdState, bump_recd]
    · rfl
  unfold enterWriteBack checkWriteBack
  generalize hb : summaryDrops _ = b
  have hbs : b.recd.state = .writeBack := by rw [← hb]; rfl
  have h1 : (if b.recd.holding.isEmpty then holdingOverflow b else b).recd.state = .writeBack := by
    split
    · rw [holdingOverflow_recdState, hbs]
    · exact hbs
  dsimp only
  generalize (if b.recd.holding.isEmpty then holdingOverflow b else b) = e at h1
  split
  · exact .inr (hfinish e)
  · exact .inl h1

theorem reopenRecorder_state (h : d.recd.state = .closed) :
    if d.recd.mediumFailed then (reopenRecorder d).recd.state = .ring
    else (reopenRecorder d).recd.state = .writeBack ∨ (reopenRecorder d).recd.state = .logging := by
  unfold reopenRecorder
  rw [if_pos h]
  cases d.recd.mediumFailed with
  | true => rfl
  | false => exact enterWriteBack_state false d

end recorder

/-! ### The islands reset (R471, R478) -/

section islands

variable (phys : Vector Bool 4) (d : Dev)

/-- The platform's record after a reset of the islands. -/
def PowerS.islandsReset (p : PowerS) : PowerS :=
  { p with
    bootStep := 0, agentReady := false, booted := false, seqState := if p.seqState = .recoveryHeld then .recoveryHeld else .watching
    readyDeadline := none, watchdogDeadline := none, stableDeadline := none, confirmDeadline := none, selectRetry := none
    railDeadline := none, railRetry := none, ddrRiseAt := none, wakeDeadline := none, stale := 0, fwImage := [], fwWriting := none
    safeN := false, resetOutN := false }

theorem resetIslands_pow : (resetIslands phys d).pow = d.pow.islandsReset := by
  unfold resetIslands
  exact (onlyIf_sleep (fun d => d.pow) _ _ (raise_pow _ _ _)).trans rfl

theorem resetIslands_copies : (resetIslands phys d).dict.copy0 = d.dict.copy0 ∧ (resetIslands phys d).dict.copy1 = d.dict.copy1 := by
  have hraise : ∀ e : Dev, (raise evGrantEnded noInst e).dict.copy0 = e.dict.copy0 ∧ (raise evGrantEnded noInst e).dict.copy1 = e.dict.copy1 :=
    fun e => by
      have hf : Framed [.out, .regs, .recd, .ints, .counters] e (raise evGrantEnded noInst e) := raise_framed _ _ e (by decide) (.refl _ e)
      exact Prod.mk.inj (hf.same .stored (by decide))
  unfold resetIslands
  exact ⟨(onlyIf_sleep (fun d => d.dict.copy0) _ _ (hraise _).1).trans rfl, (onlyIf_sleep (fun d => d.dict.copy1) _ _ (hraise _).2).trans rfl⟩

/-- What island 40 keeps reads as before. -/
theorem resetIslands_cfg {idx sub : Nat} (hk : keptReg (odKey idx sub) = true) (hi : idx < 0x2100 ∨ 0x2B00 ≤ idx) (hs : sub < 256) :
    cfg (resetIslands phys d) idx sub = cfg d idx sub := by
  have hraise : ∀ e, cfg (raise evGrantEnded noInst e) idx sub = cfg e idx sub := fun e =>
    hi.elim (fun h => (raise_low _ _ e).cfg_below h hs) (fun h => (raise_low _ _ e).cfg h)
  unfold resetIslands
  refine (onlyIf_sleep (fun d => cfg d idx sub) _ _ (hraise _)).trans ?_
  unfold cfg DictS.reg
  exact congrArg Value.toNat (Store.find_filter hk d.dict.od)

theorem resetIslands_sent : Sent d (resetIslands phys d) := by
  have hraise : ∀ (b : Bool) (e : Dev), Sent e (onlyIf b (raise evGrantEnded noInst) e) := fun b e => by
    unfold onlyIf
    split
    exacts [raise_sent _ _ e, .refl e]
  unfold resetIslands
  exact fun o ho => hraise _ _ o ho

end islands

/-! ### What the steps of a boot leave alone -/

/-- Of the platform's record the state, the cause and the latch stand, a control complex that is down stays down, and of the
counters of 0x2D05 only failed images are counted. -/
structure BootMove (a b : Dev) : Prop where
  stands : (b.pow.state, b.pow.bootCause, b.pow.latch, b.pow.episode) = (a.pow.state, a.pow.bootCause, a.pow.latch, a.pow.episode)
  down : a.pow.agentReady = false → b.pow.agentReady = false
  unbooted : a.pow.booted = false → b.pow.booted = false
  counts : ∀ k < 256, k ≠ 8 → cfg b 0x2D05 k = cfg a 0x2D05 k
  sent : Sent a b

section boot

variable {a b c d : Dev}

theorem BootMove.refl (d : Dev) : BootMove d d := ⟨rfl, id, id, fun _ _ _ => rfl, .refl d⟩

theorem BootMove.trans (h1 : BootMove a b) (h2 : BootMove b c) : BootMove a c :=
  ⟨h2.stands.trans h1.stands, fun h => h2.down (h1.down h), fun h => h2.unbooted (h1.unbooted h),
    fun k hk h8 => (h2.counts k hk h8).trans (h1.counts k hk h8), h1.sent.trans h2.sent⟩

theorem BootMove.ite {p : Prop} [Decidable p] (h1 : BootMove a b) (h2 : BootMove a c) : BootMove a (if p then b else c) := by
  split
  exacts [h1, h2]

/-- A change of the platform's record alone. -/
theorem onPow_boot (f : PowerS → PowerS) (d : Dev)
    (h : ((f d.pow).state, (f d.pow).bootCause, (f d.pow).latch, (f d.pow).episode) = (d.pow.state, d.pow.bootCause, d.pow.latch, d.pow.episode))
    (hr : (f d.pow).agentReady = d.pow.agentReady) (hb : (f d.pow).booted = d.pow.booted) : BootMove d (onPow f d) :=
  ⟨h, fun hd => hr.trans hd, fun hd => hb.trans hd, fun _ _ _ => rfl, fun _ h => h⟩

/-- What touches neither the platform's record nor registers, and loses no output. -/
theorem BootMove.of_same (hp : b.pow = a.pow) (ho : b.dict.od = a.dict.od) (hs : Sent a b) : BootMove a b :=
  ⟨by rw [hp], fun h => by rw [hp, h], fun h => by rw [hp, h], fun k _ _ => by unfold cfg DictS.reg; rw [ho], hs⟩

theorem raise_boot (ev : Ev) (inst : Nat) (d : Dev) : BootMove d (raise ev inst d) :=
  ⟨by rw [raise_pow], fun h => by rw [raise_pow, h], fun h => by rw [raise_pow, h],
    fun _ _ _ => (raise_low ev inst d).cfg (by decide), raise_sent ev inst d⟩

theorem setReg_boot {idx : Nat} (sub v : Nat) (hi : idx ≠ 0x2D05 ∨ sub = 8) (hs : sub < 256) (d : Dev) : BootMove d (setReg idx sub v d) :=
  ⟨rfl, id, id, fun k hk h8 => cfg_setReg_ne _ _ _ _ _ _ (by unfold odKey; omega), fun _ h => h⟩

theorem bump_boot {idx : Nat} (sub : Nat) (hi : idx ≠ 0x2D05 ∨ sub = 8) (hs : sub < 256) (d : Dev) : BootMove d (bump idx sub d) :=
  setReg_boot sub _ hi hs d

theorem arrive_boot (t : Nat) (d : Dev) : BootMove d (arrive t d) :=
  .of_same (arrive_pow t d) (by rw [arrive_dict]) fun _ h => by rwa [arrive_out]

theorem resetIslands_boot (phys : Vector Bool 4) (d : Dev) : BootMove d (resetIslands phys d) := by
  have hp := resetIslands_pow phys d
  refine ⟨by rw [hp]; rfl, fun _ => by rw [hp]; rfl, fun _ => by rw [hp]; rfl, fun k hk _ => ?_, resetIslands_sent phys d⟩
  refine resetIslands_cfg phys d ?_ (.inr (by decide)) hk
  have hidx : odKey 0x2D05 k / 256 = 0x2D05 := by
    unfold odKey
    omega
  unfold keptReg
  rw [hidx]
  rfl

theorem onPart_boot (b : Bool) (f : Partition → Partition) (d : Dev) : BootMove d (onPart b f d) := by
  refine onPow_boot _ d ?_ ?_ ?_ <;> cases b <;> rfl

theorem markFailed_boot (b : Bool) (d : Dev) : BootMove d (markFailed b d) :=
  ((onPart_boot b _ d).trans (bump_boot 8 (.inr rfl) (by decide) _)).trans (raise_boot _ _ _)

theorem failSpent_boot (b : Bool) (d : Dev) : BootMove d (failSpent b d) := .ite (markFailed_boot b d) (.refl d)

theorem startImage_boot (b : Bool) (d : Dev) : BootMove d (startImage b d) := by
  unfold startImage
  exact (onPart_boot b _ d).trans (onPow_boot _ _ rfl rfl rfl)

theorem selectImage_boot (d : Dev) : BootMove d (selectImage d).1 := by
  have h1 : BootMove d (failSpent true (failSpent false d)) := (failSpent_boot false d).trans (failSpent_boot true _)
  unfold selectImage
  dsimp only
  generalize failSpent true (failSpent false d) = d1 at h1
  split
  · exact h1
  · split
    · exact h1
    · next x rest _ =>
      split
      · exact h1.trans (startImage_boot x d1)
      · have h2 := h1.trans (markFailed_boot x d1)
        split
        · split
          · exact h2.trans (startImage_boot _ _)
          · exact h2.trans (markFailed_boot _ _)
        · exact h2

/-- The selection, by its outcome. -/
theorem runSelection_eq (d : Dev) : runSelection d = if (selectImage d).2 then
    onPow (fun p => { p with readyDeadline := some ((selectImage d).1.now + readyTime (selectImage d).1), selectRetry := none }) (selectImage d).1
  else onPow (fun p => { p with
      bootStep := 2, selectRetry := some ((selectImage d).1.now + 10 * sNs), railDeadline := (selectImage d).1.pow.railDeadline
      bypassA := false, bypassB := false, wakeDeadline := none }) (resetIslands (wakePhys (selectImage d).1) (selectImage d).1) := by
  unfold runSelection
  rcases selectImage d with ⟨e, _ | _⟩ <;> rfl

theorem runSelection_boot (d : Dev) : BootMove d (runSelection d) := by
  rw [runSelection_eq]
  have h := selectImage_boot d
  generalize (selectImage d).1 = e at h
  exact .ite (h.trans (onPow_boot _ e rfl rfl rfl)) ((h.trans (resetIslands_boot _ e)).trans (onPow_boot _ _ rfl rfl rfl))

theorem leaveReset_boot (d : Dev) : BootMove d (leaveReset d) := ⟨rfl, id, id, fun _ _ _ => rfl, fun _ h => h⟩

theorem bootStep3_boot (d : Dev) : BootMove d (bootStep3 d) := by
  have h1 : BootMove d (hostBoot (leaveReset d)) := (leaveReset_boot d).trans (.of_same rfl rfl fun _ h => h)
  unfold bootStep3
  dsimp only
  generalize hostBoot (leaveReset d) = d1 at h1
  have h2 : BootMove d (setReg 0x2D01 3 d1.node.vddio (setReg 0x2D01 4 d1.node.vcore d1)) :=
    (h1.trans (setReg_boot 4 _ (.inl (by decide)) (by decide) d1)).trans (setReg_boot 3 _ (.inl (by decide)) (by decide) _)
  generalize setReg 0x2D01 3 d1.node.vddio (setReg 0x2D01 4 d1.node.vcore d1) = d2 at h2
  exact .ite h2 (.ite (h2.trans (onPow_boot _ d2 rfl rfl rfl)) (h2.trans (runSelection_boot d2)))

theorem coreGood_boot (d : Dev) : BootMove d (coreGood d) :=
  ((onPow_boot (fun p => { p with pgCore := true, railDeadline := none, bootStep := 2 }) d rfl rfl rfl).trans (arrive_boot _ _)).trans (bootStep3_boot _)

/-- A boot begins. -/
theorem startBoot_boots (cause : Nat) (d : Dev) : let e := startBoot cause d
    e.pow = { d.pow with
      state := .booting, bootStep := 1, bootCause := cause, bootStart := d.now, railCore := true, railDeadline := some (d.now + 20 * msNs)
      wakeDeadline := if (decide (cause = 6) || decide (cause = 7)) = true then some (d.now + 2 * sNs) else none, safeN := false
      resetOutN := false, enablesFellAt := none, bypassA := decide (cause = 6) || decide (cause = 7)
      bypassB := decide (cause = 6) || decide (cause = 7), warnCore := false } ∧
    e.now = d.now ∧ (∀ k, cfg e 0x2D05 k = cfg d 0x2D05 k ∨ 256 ≤ k) ∧ e.out = d.out := by
  refine ⟨rfl, rfl, fun k => ?_, rfl⟩
  by_cases hk : 256 ≤ k
  · exact .inr hk
  · exact .inl (cfg_setReg_ne _ _ _ _ _ _ (by unfold odKey; omega))

/-- What a boot leaves, whether or not the rails stand already. -/
theorem bootFrom_boots (cause : Nat) (d : Dev) : let e := bootFrom cause d
    e.pow.state = .booting ∧ e.pow.bootCause = cause ∧ e.pow.latch = d.pow.latch ∧ (d.pow.agentReady = false → e.pow.agentReady = false) ∧
      (d.pow.booted = false → e.pow.booted = false) ∧ (∀ k < 256, k ≠ 8 → cfg e 0x2D05 k = cfg d 0x2D05 k) ∧ Sent d e := by
  have hs : BootMove (startBoot cause d) (bootFrom cause d) := by
    unfold bootFrom
    exact .ite (coreGood_boot _) (.refl _)
  obtain ⟨hp, -, hc, ho⟩ := startBoot_boots cause d
  dsimp only at hp hc ho ⊢
  obtain ⟨hst, hdown, hbooted, hcounts, hsent⟩ := hs
  rw [hp] at hst hdown hbooted
  generalize bootFrom cause d = e at *
  simp only [Prod.mk.injEq] at hst
  obtain ⟨h1, h2, h3, -⟩ := hst
  exact ⟨h1, h2, h3, hdown, hbooted, fun k hk h8 => (hcounts k hk h8).trans ((hc k).resolve_right (by omega)), fun o hm => hsent o (by rwa [ho])⟩

end boot

end Sys2Proof.Machine
end

section
/-! PROOF. Supplies and resets (R474 to R478, R487, R498, R501, R503). -/

namespace Sys2Proof.Machine

section supplies

variable {s : State}

/-! ### Warnings (R474 to R476) -/

/-- A reading of a supply, with the lowest since boot. -/
def supplyRead (core : Bool) (v : Nat) (d : Dev) : Dev :=
  noteMinimum (if core then 4 else 3) v (onNode (fun x => if core then { x with vcore := v } else { x with vddio := v }) d)

/-- A warning that begins. -/
def supplyWarned (core : Bool) (now : Nat) (d : Dev) : Dev :=
  onPow (fun p => if core then { p with warnCore := true } else { p with warnIo := true, warnIoAt := some now }) d

theorem supplyRead_eq (core : Bool) (v : Nat) (d : Dev) : Framed [.node, .regs] d (supplyRead core v d) ∧
    (if core then (supplyRead core v d).node.vcore else (supplyRead core v d).node.vddio) = v ∧
    (supplyRead core v d).node.profile = d.node.profile ∧ (supplyRead core v d).node.before = d.node.before ∧
    ∀ idx sub, odKey idx sub ≠ odKey 0x2D01 3 → odKey idx sub ≠ odKey 0x2D01 4 → cfg (supplyRead core v d) idx sub = cfg d idx sub := by
  have hmin : ∀ sub e, (noteMinimum sub v e).node = e.node := fun sub e => by
    unfold noteMinimum
    split <;> rfl
  have hf : Framed [.node, .regs] d (supplyRead core v d) :=
    noteMinimum_framed _ _ _ (by decide) (onNode_framed _ d (by decide) (.refl _ d))
  refine ⟨hf, ?_, ?_, ?_, fun idx sub h3 h4 => ?_⟩
  · unfold supplyRead
    rw [hmin]
    cases core <;> rfl
  · unfold supplyRead
    rw [hmin]
    cases core <;> rfl
  · unfold supplyRead
    rw [hmin]
    cases core <;> rfl
  · have hne : ∀ sub' e, odKey idx sub ≠ odKey 0x2D01 sub' → cfg (noteMinimum sub' v e) idx sub = cfg e idx sub := fun sub' e h => by
      unfold noteMinimum
      split
      · exact cfg_setReg_ne _ _ _ _ _ _ h
      · rfl
    cases core
    · exact (hne 3 _ h3).trans rfl
    · exact (hne 4 _ h4).trans rfl

theorem leaveFast_mild (d : Dev) : Mild ((0x2001, 1) :: profileRegs) d (leaveFast d) := by
  have hmono : ∀ {a b : Dev}, Mild profileRegs a b → Mild ((0x2001, 1) :: profileRegs) a b := fun h => by
    induction h with
    | refl => exact .refl
    | same _ ho hr ih => exact ih.same ho hr
    | setReg v _ hi ih => exact ih.setReg v (hi.imp id (List.mem_cons_of_mem _))
    | raiseP ev inst payload _ ih => exact ih.raiseP ev inst payload
  unfold leaveFast
  exact .ite (Mild.trans (.setReg _ .refl (.inr (.head _))) (hmono (enterProfile_mild _ _))) .refl

theorem leaveFast_leaves (d : Dev) : (leaveFast d).pow = d.pow ∧ (leaveFast d).node.vcore = d.node.vcore ∧
    (leaveFast d).node.vddio = d.node.vddio ∧ (d.node.profile = 2 → (leaveFast d).node.profile = d.node.before) := by
  have hf : Framed [.fresh, .out, .regs, .node, .inaug, .fab, .queues, .ports, .time, .sched, .strm, .recd, .sleep, .load, .host, .ints, .health,
    .counters] d (leaveFast d) := leaveFast_framed d (by decide) (.refl _ d)
  refine ⟨hf.same .pow (by decide), ?_⟩
  by_cases hp : d.node.profile = 2
  · by_cases hb : d.node.before = 2
    · have he : leaveFast d = setReg 0x2001 1 d.node.before d := by
        unfold leaveFast enterProfile
        rw [if_pos hp]
        exact if_pos (hp.trans hb.symm)
      rw [he]
      exact ⟨rfl, rfl, fun _ => hp.trans hb.symm⟩
    · rw [leaveFast_node hp hb]
      unfold NodeS.entered
      refine ⟨?_, ?_, fun _ => ?_⟩ <;> (dsimp only; split_ifs <;> rfl)
  · have he : leaveFast d = d := if_neg hp
    rw [he]
    exact ⟨rfl, rfl, fun h => absurd h hp⟩

/-- A warning while one stands only moves the reading. -/
theorem supplyWarning_again {core : Bool} {mv : BitVec 16} (hpor : s.dev.pow.porN = true) (hst : s.dev.pow.state ≠ .resetHeld)
    (hc : core = true → s.dev.pow.railCore = true) (hw : (if core then s.dev.pow.warnCore else s.dev.pow.warnIo) = true) :
    Completes (.supplyWarning core mv) s (Framed [.node, .regs] s.found) := by
  have hrun : exec (.supplyWarning core mv) s = s.does (supplyRead core mv.toNat) := by
    show execSupplyWarning core mv s = _
    unfold execSupplyWarning
    refine does_congr ?_
    have hg : ¬ (!s.found.pow.porN || decide (s.found.pow.state = .resetHeld) || (core && !s.found.pow.railCore)) = true := by
      rw [show s.found.pow = s.dev.pow from rfl, hpor, decide_eq_false hst]
      cases core
      · simp
      · simp [hc rfl]
    rw [if_neg hg]
    exact if_pos hw
  exact completes_of_exec hrun (supplyRead_eq core _ _).1

theorem supplyWarning_warns {core : Bool} {mv : BitVec 16} (hpor : s.dev.pow.porN = true) (hst : s.dev.pow.state ≠ .resetHeld)
    (hc : core = true → s.dev.pow.railCore = true) (hw : (if core then s.dev.pow.warnCore else s.dev.pow.warnIo) = false) :
    Completes (.supplyWarning core mv) s fun d => d.host.intStatus.getLsbD 3 = true ∧
      cfg d 0x2D05 (if core then 2 else 1) = min 0xFFFFFFFF (cfg s.dev 0x2D05 (if core then 2 else 1) + 1) ∧
      (if core then d.node.vcore else d.node.vddio) = mv.toNat ∧
      (if core then d.pow.warnCore else d.pow.warnIo) = true ∧ (core = false → d.pow.warnIoAt = some s.dev.now) ∧
      (s.dev.recd.state ≠ .off → d.recd.state = .closed) ∧ (s.dev.node.profile = 2 → d.node.profile = s.dev.node.before) := by
  have hrun : exec (.supplyWarning core mv) s = s.does fun d => closeLogs (if core then 2 else 1) (raise evSupplyWarning (if core then 1 else 0)
      (bump 0x2D05 (if core then 2 else 1) (setInt 3 (leaveFast (supplyWarned core d.now (supplyRead core mv.toNat d)))))) := by
    show execSupplyWarning core mv s = _
    unfold execSupplyWarning
    refine does_congr ?_
    have hg : ¬ (!s.found.pow.porN || decide (s.found.pow.state = .resetHeld) || (core && !s.found.pow.railCore)) = true := by
      rw [show s.found.pow = s.dev.pow from rfl, hpor, decide_eq_false hst]
      cases core
      · simp
      · simp [hc rfl]
    rw [if_neg hg]
    have hn : ¬ (if core then s.found.pow.warnCore else s.found.pow.warnIo) = true := fun h => Bool.false_ne_true (hw.symm.trans h)
    exact if_neg hn
  obtain ⟨hf, hread, hprof, hback, hcfg⟩ := supplyRead_eq core mv.toNat s.found
  have hpow : (supplyRead core mv.toNat s.found).pow = s.dev.pow := hf.same .pow (by decide)
  have hrecd : (supplyRead core mv.toNat s.found).recd = s.dev.recd := hf.same .recd (by decide)
  have hcore : ∀ c : Bool, odKey 0x2D05 (if c then 2 else 1) ≠ odKey 0x2D01 3 ∧ odKey 0x2D05 (if c then 2 else 1) ≠ odKey 0x2D01 4 ∧
      odKey 0x2D05 (if c then 2 else 1) ≠ odKey 0x2E05 4 ∧ (if c then 2 else 1) < 256 ∧
      odDefault (odKey 0x2D05 (if c then 2 else 1)) = .num 0 ∧
      ∀ r ∈ (0x2001, 1) :: profileRegs, odKey 0x2D05 (if c then 2 else 1) ≠ odKey r.1 r.2 := by decide
  obtain ⟨hk3, hk4, hk5, hlt, hdef, hkp⟩ := hcore core
  have hcount : cfg (supplyRead core mv.toNat s.found) 0x2D05 (if core then 2 else 1) = cfg s.dev 0x2D05 (if core then 2 else 1) := hcfg _ _ hk3 hk4
  refine completes_of_exec hrun ?_
  rw [show s.found.now = s.dev.now from rfl]
  generalize supplyRead core mv.toNat s.found = a at *
  have hwarn : (if core then (supplyWarned core s.dev.now a).pow.warnCore else (supplyWarned core s.dev.now a).pow.warnIo) = true ∧
      (core = false → (supplyWarned core s.dev.now a).pow.warnIoAt = some s.dev.now) := by
    unfold supplyWarned
    cases core
    · exact ⟨rfl, fun _ => rfl⟩
    · exact ⟨rfl, nofun⟩
  have hw2 : (supplyWarned core s.dev.now a).node = a.node ∧ (supplyWarned core s.dev.now a).recd = a.recd ∧ (supplyWarned core s.dev.now a).dict = a.dict := ⟨rfl, rfl, rfl⟩
  obtain ⟨hwn, hwr, hwd⟩ := hw2
  generalize supplyWarned core s.dev.now a = w at *
  obtain ⟨hlp, hlc, hlv, hlf⟩ := leaveFast_leaves w
  have hlm := leaveFast_mild w
  generalize leaveFast w = l at *
  have hrs : (raise evSupplyWarning (if core then 1 else 0) (bump 0x2D05 (if core then 2 else 1) (setInt 3 l))).recd.state = s.dev.recd.state := by
    rw [show raise evSupplyWarning (if core then 1 else 0) = raiseP evSupplyWarning (if core then 1 else 0) [] from rfl, raiseP_recdState, bump_recd,
      setInt_recd, hlm.recdState, hwr, hrecd]
  have hlogs : Framed [.out, .regs, .recd, .ints, .health, .counters] (raise evSupplyWarning (if core then 1 else 0)
      (bump 0x2D05 (if core then 2 else 1) (setInt 3 l))) (closeLogs (if core then 2 else 1) (raise evSupplyWarning (if core then 1 else 0)
        (bump 0x2D05 (if core then 2 else 1) (setInt 3 l)))) := closeLogs_framed _ _ (by decide) (.refl _ _)
  have hnode : (closeLogs (if core then 2 else 1) (raise evSupplyWarning (if core then 1 else 0)
        (bump 0x2D05 (if core then 2 else 1) (setInt 3 l)))).node = l.node := by
    rw [show (closeLogs _ _).node = _ from hlogs.same .node (by decide), raise_node, bump_node, setInt_node]
  have hpw : (closeLogs (if core then 2 else 1) (raise evSupplyWarning (if core then 1 else 0)
        (bump 0x2D05 (if core then 2 else 1) (setInt 3 l)))).pow = w.pow := by
    rw [show (closeLogs _ _).pow = _ from hlogs.same .pow (by decide), raise_pow, bump_pow, setInt_pow, hlp]
  rw [hnode, hpw]
  refine ⟨closeLogs_stands _ _ _ (raise_stands _ _ _ _ ?_), ?_, ?_, hwarn.1, hwarn.2, fun h => closeLogs_closes _ (by rw [hrs]; exact h), fun h => ?_⟩
  · rw [bump_host]
    exact setInt_bit (by decide) l
  · rw [closeLogs_cfg _ _ (by decide) hk5, (raise_low _ _ _).cfg (by decide), cfg_bump_self _ _ _ hdef, cfg_of_dict (setInt_dict 3 l),
      hlm.cfg hlt (.inr (by decide)) hkp, cfg_of_dict hwd, hcount]
  · rw [hlc, hlv, hwn]
    exact hread
  · rw [hlf (by rw [hwn, hprof]; exact h), hwn]
    exact hback

/-- The rail is back within its limits (R475). -/
theorem supplyWarningClear_clears (core : Bool) :
    ((if core then s.dev.pow.warnCore else s.dev.pow.warnIo) = false → Completes (.supplyWarningClear core) s (Framed [] s.found)) ∧
    ((if core then s.dev.pow.warnCore else s.dev.pow.warnIo) = true → Completes (.supplyWarningClear core) s fun d =>
      (if core then d.pow.warnCore else d.pow.warnIo) = false ∧ (if core then 710 ≤ d.node.vcore else 3100 ≤ d.node.vddio) ∧
      ((if core then s.dev.pow.warnIo else s.dev.pow.warnCore) = true → d.recd = s.dev.recd) ∧
      ((if core then s.dev.pow.warnIo else s.dev.pow.warnCore) = false → s.dev.recd.state = .closed →
        if s.dev.recd.mediumFailed then d.recd.state = .ring else d.recd.state = .writeBack ∨ d.recd.state = .logging)) := by
  have hreopen : ∀ e : Dev, Framed [.out, .regs, .recd, .ints, .counters] e (reopenRecorder e) := fun e => reopenRecorder_framed e (by decide) (.refl _ e)
  have hpow : ∀ e : Dev, (reopenRecorder e).pow = e.pow := fun e => (hreopen e).same .pow (by decide)
  have hnode : ∀ e : Dev, (reopenRecorder e).node = e.node := fun e => (hreopen e).same .node (by decide)
  have hstate : ∀ e : Dev, e.recd = s.dev.recd → s.dev.recd.state = .closed → if s.dev.recd.mediumFailed then (reopenRecorder e).recd.state = .ring
      else (reopenRecorder e).recd.state = .writeBack ∨ (reopenRecorder e).recd.state = .logging := fun e he hc => by
    have := reopenRecorder_state (d := e) (by rw [he, hc])
    rwa [he] at this
  cases core
  · refine ⟨fun hw => ?_, fun hw => ?_⟩
    · refine completes_of_exec (f := id) ?_ (.refl _ _)
      show execSupplyWarningClear false s = _
      unfold execSupplyWarningClear
      refine does_congr ?_
      have h : s.found.pow.warnIo = false := hw
      rw [if_neg (by simp), if_neg (by simp [h])]
      rfl
    · have hrun : exec (.supplyWarningClear false) s = s.does fun d =>
          if d.pow.warnCore then onNode (fun x => { x with vddio := 3100 + Config.freeNat d.fresh % 366 })
              (draw (onPow (fun p => { p with warnIo := false, warnIoAt := none }) d))
          else reopenRecorder (onNode (fun x => { x with vddio := 3100 + Config.freeNat d.fresh % 366 })
              (draw (onPow (fun p => { p with warnIo := false, warnIoAt := none }) d))) := by
        show execSupplyWarningClear false s = _
        unfold execSupplyWarningClear
        refine does_congr ?_
        have h : s.found.pow.warnIo = true := hw
        rw [if_neg (by simp), if_pos (by simp [h])]
      refine completes_of_exec hrun ?_
      cases hother : s.dev.pow.warnCore with
      | true =>
        have h : s.found.pow.warnCore = true := hother
        rw [h]
        exact ⟨rfl, Nat.le_add_right _ _, fun _ => rfl, fun h => nomatch h⟩
      | false =>
        have h : s.found.pow.warnCore = false := hother
        simp only [h, Bool.false_eq_true, if_false, hpow, hnode]
        exact ⟨rfl, Nat.le_add_right _ _, False.elim, fun _ hc => hstate _ rfl hc⟩
  · refine ⟨fun hw => ?_, fun hw => ?_⟩
    · refine completes_of_exec (f := id) ?_ (.refl _ _)
      show execSupplyWarningClear true s = _
      unfold execSupplyWarningClear
      refine does_congr ?_
      have h : s.found.pow.warnCore = false := hw
      rw [if_neg (by simp [h]), if_neg (by simp)]
      rfl
    · have hrun : exec (.supplyWarningClear true) s = s.does fun d =>
          if d.pow.warnIo then onNode (fun x => { x with vcore := 710 + Config.freeNat d.fresh % 171 })
              (draw (onPow (fun p => { p with warnCore := false }) d))
          else reopenRecorder (onNode (fun x => { x with vcore := 710 + Config.freeNat d.fresh % 171 })
              (draw (onPow (fun p => { p with warnCore := false }) d))) := by
        show execSupplyWarningClear true s = _
        unfold execSupplyWarningClear
        refine does_congr ?_
        have h : s.found.pow.warnCore = true := hw
        rw [if_pos (by simp [h])]
      refine completes_of_exec hrun ?_
      cases hother : s.dev.pow.warnIo with
      | true =>
        have h : s.found.pow.warnIo = true := hother
        rw [h]
        exact ⟨rfl, Nat.le_add_right _ _, fun _ => rfl, fun h => nomatch h⟩
      | false =>
        have h : s.found.pow.warnIo = false := hother
        simp only [h, Bool.false_eq_true, if_false, if_true, hpow, hnode]
        exact ⟨rfl, Nat.le_add_right _ _, False.elim, fun _ hc => hstate _ rfl hc⟩

/-! ### Supply resets (R477, R478) -/

/-- The node is held in reset. -/
def HeldInReset (s : State) (cause : Nat) (d : Dev) : Prop :=
  d.pow.state = .resetHeld ∧ d.pow.bootCause = cause ∧ d.pow.railCore = false ∧ d.pow.railDdr = false ∧ d.pow.bypassA = false ∧
    d.pow.bypassB = false ∧ d.pow.safeN = false ∧ d.pow.resetOutN = false ∧ d.pow.agentReady = false ∧ d.pow.booted = false ∧
    d.pow.latch = s.dev.pow.latch ∧ d.pow.episode = s.dev.pow.episode ∧ d.sleep.history = s.dev.sleep.history ∧ d.dict.epoch = 0 ∧
    d.dict.copy0 = s.dev.dict.copy0 ∧
    cfg d 0x2D05 (if cause = 4 then 4 else 3) = min 0xFFFFFFFF (cfg s.dev 0x2D05 (if cause = 4 then 4 else 3) + 1)

/-- Time since the warning of VDDIO_A, which 0x2D01:05 shows after a reset of that rail. -/
def sinceWarning (cause : Nat) (d : Dev) : Nat :=
  match d.pow.warnIoAt with
  | some t => if cause = 2 then (d.now - t) / usNs else 0
  | none => 0

/-- The device held in reset, before the event is recorded. -/
def supplyHeld (cause : Nat) (d : Dev) : Dev :=
  let e := onPow (fun p => { p with state := .resetHeld, bootCause := cause, bypassA := false, bypassB := false, warnIoAt := none, warnCore := false })
    (dropRails (resetIslands noPhys (abandonSleep (setReg 0x2D01 5 (sinceWarning cause d) d))))
  { e with pins := { e.pins with gpioLive := false, gpioHold := 0, gpioHeld := 0 } }

theorem supplyResetFor_eq (cause : Nat) (d : Dev) : supplyResetFor cause d =
    raise (if cause = 4 then evPowerGoodLoss else evSupplyReset) noInst (bump 0x2D05 (if cause = 4 then 4 else 3) (supplyHeld cause d)) := rfl

theorem abandonSleep_history (d : Dev) : (abandonSleep d).sleep.history = d.sleep.history := by
  unfold abandonSleep
  rw [onSleep_sleep]
  split <;> rfl

theorem supplyHeld_holds (cause : Nat) (d : Dev) : let e := supplyHeld cause d
    e.pow = { d.pow.islandsReset with
      railDdr := false, railCore := false, pgCore := false, pgIo := false, enablesFellAt := some (d.now + msNs)
      state := .resetHeld, bootCause := cause, bypassA := false, bypassB := false, warnIoAt := none, warnCore := false } ∧
    e.sleep.history = d.sleep.history ∧ e.dict.epoch = 0 ∧ e.dict.copy0 = d.dict.copy0 ∧
    (∀ k < 256, cfg e 0x2D05 k = cfg d 0x2D05 k) ∧ cfg e 0x2D01 5 = cfg (setReg 0x2D01 5 (sinceWarning cause d) d) 0x2D01 5 := by
  generalize hx : abandonSleep (setReg 0x2D01 5 (sinceWarning cause d) d) = x
  have hxp : x.pow = d.pow := by rw [← hx]; rfl
  have hxh : x.sleep.history = d.sleep.history := by rw [← hx]; exact abandonSleep_history _
  have hxn : x.now = d.now := by rw [← hx]; rfl
  have hxd : x.dict = (setReg 0x2D01 5 (sinceWarning cause d) d).dict := by rw [← hx]; rfl
  have hxc : ∀ k < 256, cfg x 0x2D05 k = cfg d 0x2D05 k := fun k hk => (cfg_of_dict hxd _ _).trans (cfg_setReg_ne _ _ _ _ _ _ (by unfold odKey; omega))
  obtain ⟨hn, hs, he, -⟩ := resetIslands_leaves noPhys x
  have hp := resetIslands_pow noPhys x
  have h0 := (resetIslands_copies noPhys x).1
  have hc : ∀ k < 256, cfg (resetIslands noPhys x) 0x2D05 k = cfg x 0x2D05 k := fun k hk => resetIslands_cfg noPhys x (by
    have hidx : odKey 0x2D05 k / 256 = 0x2D05 := by unfold odKey; omega
    unfold keptReg
    rw [hidx]
    rfl) (.inr (by decide)) hk
  have hc5 : cfg (resetIslands noPhys x) 0x2D01 5 = cfg x 0x2D01 5 := resetIslands_cfg noPhys x (by decide) (.inr (by decide)) (by decide)
  unfold supplyHeld
  rw [hx]
  generalize resetIslands noPhys x = r at *
  dsimp only
  refine ⟨?_, ?_, he, h0.trans (by rw [hxd]; rfl), fun k hk => (hc k hk).trans (hxc k hk), hc5.trans (cfg_of_dict hxd _ _)⟩
  · unfold dropRails
    rw [onPow_pow, onPow_pow, hp, hn, hxp, hxn]
  · exact (congrArg SleepS.history hs).trans hxh

theorem supplyResetFor_holds (cause : Nat) : HeldInReset s cause (supplyResetFor cause s.found) ∧
    cfg (supplyResetFor cause s.found) 0x2D01 5 = cfg (setReg 0x2D01 5 (sinceWarning cause s.dev) s.dev) 0x2D01 5 := by
  obtain ⟨hp, hh, he, h0, hc, hc5⟩ := supplyHeld_holds cause s.found
  rw [supplyResetFor_eq]
  generalize supplyHeld cause s.found = e at *
  have hev : ∀ c : Nat, (if c = 4 then 4 else 3) < 256 ∧ odDefault (odKey 0x2D05 (if c = 4 then 4 else 3)) = .num 0 := fun c => by
    split <;> decide
  obtain ⟨hlt, hdef⟩ := hev cause
  generalize hb : bump 0x2D05 (if cause = 4 then 4 else 3) e = b
  have hbp : b.pow = e.pow := by rw [← hb, bump_pow]
  have hbs : b.sleep = e.sleep := by rw [← hb, bump_sleep]
  have hbc : cfg b 0x2D05 (if cause = 4 then 4 else 3) = min 0xFFFFFFFF (cfg e 0x2D05 (if cause = 4 then 4 else 3) + 1) := by
    rw [← hb, cfg_bump_self _ _ _ hdef]
  have hb5 : cfg b 0x2D01 5 = cfg e 0x2D01 5 := by
    rw [← hb]
    exact cfg_bump_ne _ _ _ _ _ (by split <;> decide)
  have hbf : b.dict.epoch = e.dict.epoch ∧ b.dict.copy0 = e.dict.copy0 := by rw [← hb]; exact ⟨rfl, rfl⟩
  have hf : ∀ ev, Framed [.out, .regs, .recd, .ints, .counters] b (raise ev noInst b) := fun ev => raise_framed _ _ b (by decide) (.refl _ b)
  generalize (if cause = 4 then evPowerGoodLoss else evSupplyReset) = ev
  have hcopies := Prod.mk.inj ((hf ev).same .stored (by decide))
  have hepoch := congrArg Prod.fst ((hf ev).same .commit (by decide))
  refine ⟨?_, ((raise_low ev noInst b).cfg (by decide)).trans (hb5.trans hc5)⟩
  unfold HeldInReset
  rw [raise_pow, raise_sleep, hbp, hbs, hp, (raise_low ev noInst b).cfg (by decide), hbc, hc _ hlt]
  exact ⟨rfl, rfl, rfl, rfl, rfl, rfl, rfl, rfl, rfl, rfl, rfl, rfl, hh, hepoch.trans (hbf.1.trans he), hcopies.1.trans (hbf.2.trans h0), rfl⟩

theorem supplyReset_holds (r : Rail) :
    (resetCounts r s.dev = false → Completes (.supplyReset r) s (Framed [] s.found)) ∧
    (resetCounts r s.dev = true → Completes (.supplyReset r) s fun d => HeldInReset s (causeOf r) d ∧ (s.dev.Valid →
      cfg d 0x2D01 5 = match s.dev.pow.warnIoAt with
        | some t => if r = .vddioA then (s.dev.now - t) / usNs else 0
        | none => 0)) := by
  have hrun : ∀ b, resetCounts r s.found = b → exec (.supplyReset r) s = s.does (if b then supplyResetFor (causeOf r) else id) := fun b hb => by
    show execSupplyReset r s = _
    unfold execSupplyReset
    refine does_congr ?_
    rw [hb]
    cases b <;> rfl
  refine ⟨fun h => completes_of_exec (hrun false h) (.refl _ _), fun h => completes_of_exec (hrun true h) ?_⟩
  obtain ⟨hheld, h5⟩ := supplyResetFor_holds (s := s) (causeOf r)
  refine ⟨hheld, fun hv => h5.trans ?_⟩
  rw [cfg_setReg_wf _ _ _ _ hv.kept.dict.od]
  unfold sinceWarning
  cases r <;> rfl

theorem powerGoodLoss_holds (io : Bool) :
    (resetCounts (if io then .pgIo else .pgCore) s.dev = false → Completes (.powerGoodLoss io) s (Framed [] s.found)) ∧
    (resetCounts (if io then .pgIo else .pgCore) s.dev = true → Completes (.powerGoodLoss io) s (HeldInReset s 4)) := by
  have hrun : ∀ b, resetCounts (if io then .pgIo else .pgCore) s.found = b → exec (.powerGoodLoss io) s = s.does (if b then supplyResetFor 4 else id) :=
    fun b hb => by
      show execPowerGoodLoss io s = _
      unfold execPowerGoodLoss
      refine does_congr ?_
      rw [hb]
      cases b <;> rfl
  exact ⟨fun h => completes_of_exec (hrun false h) (.refl _ _), fun h => completes_of_exec (hrun true h) (supplyResetFor_holds (s := s) 4).1⟩

/-! ### The supply returns, and POR_N (R477, R478, R483, R487) -/

/-- A boot has begun at step 1. -/
def BootBegins (cause : Nat) (d : Dev) : Prop :=
  d.pow.state = .booting ∧ d.pow.bootStep = 1 ∧ d.pow.bootCause = cause ∧ d.pow.railCore = true ∧
    d.pow.railDeadline = some (d.now + 20 * msNs) ∧ d.pow.safeN = false ∧ d.pow.resetOutN = false ∧ d.pow.bypassA = false ∧
    d.pow.bypassB = false

/-- With VDD_CORE still down a boot that is no wake waits for it at step 1. -/
theorem bootFrom_begins {cause : Nat} {d : Dev} (hc : cause ≤ 5) (hpg : d.pow.pgCore = false) : BootBegins cause (bootFrom cause d) ∧
    (bootFrom cause d).now = d.now ∧ (bootFrom cause d).pow.warnIo = d.pow.warnIo ∧ (bootFrom cause d).pow.porN = d.pow.porN ∧
    (bootFrom cause d).pins = d.pins := by
  have h67 : (decide (cause = 6) || decide (cause = 7)) = false := by
    rw [decide_eq_false (by omega), decide_eq_false (by omega)]
    rfl
  have he : bootFrom cause d = startBoot cause d := if_neg (by
    rw [(startBoot_boots cause d).1, hpg]
    decide)
  rw [he]
  obtain ⟨hp, hn, -⟩ := startBoot_boots cause d
  have hpins : (startBoot cause d).pins = d.pins := rfl
  generalize startBoot cause d = e at *
  unfold BootBegins
  rw [hp, hn, h67]
  exact ⟨⟨rfl, rfl, rfl, rfl, rfl, rfl, rfl, rfl, rfl⟩, rfl, rfl, rfl, hpins⟩

/-- The supplies read as good again. -/
def supplyBack (v : Nat) (d : Dev) : Dev :=
  onPow (fun p => { p with warnIo := false }) (onNode (fun x => { x with vddio := 3100 + Config.freeNat v % 366, vcore := 800 }) (draw d))

theorem supplyReturn_boots (hst : s.dev.pow.state = .resetHeld) (hpor : s.dev.pow.porN = true) (htest : s.dev.pins.testMode = false)
    (hpg : s.dev.pow.pgCore = false) (hc : s.dev.pow.bootCause ≤ 5) : Completes .supplyReturn s fun d =>
      BootBegins s.dev.pow.bootCause d ∧ d.pow.warnIo = false ∧ d.now = match s.dev.pow.enablesFellAt with
        | some t => max s.dev.now (t + 10 * msNs)
        | none => s.dev.now := by
  have hgo : ∀ e : Dev, e.pow = s.dev.pow → BootBegins s.dev.pow.bootCause (bootFrom e.pow.bootCause (supplyBack s.found.fresh e)) ∧
      (bootFrom e.pow.bootCause (supplyBack s.found.fresh e)).pow.warnIo = false ∧
      (bootFrom e.pow.bootCause (supplyBack s.found.fresh e)).now = e.now := fun e he => by
    have hx : (supplyBack s.found.fresh e).pow.pgCore = false := (congrArg PowerS.pgCore he).trans hpg
    have hw : (supplyBack s.found.fresh e).pow.warnIo = false := rfl
    have hn : (supplyBack s.found.fresh e).now = e.now := rfl
    generalize supplyBack s.found.fresh e = x at *
    obtain ⟨h1, h2, h3, -⟩ := bootFrom_begins (cause := e.pow.bootCause) (by rw [he]; exact hc) hx
    refine ⟨?_, h3.trans hw, h2.trans hn⟩
    rw [← he]
    exact h1
  have hguard : (decide (s.found.pow.state = .resetHeld) && s.found.pow.porN && !s.found.pins.testMode) = true := by
    rw [show s.found.pow = s.dev.pow from rfl, show s.found.pins = s.dev.pins from rfl, hst, hpor, htest]
    rfl
  cases ht : s.dev.pow.enablesFellAt with
  | none =>
    have hrun : exec .supplyReturn s = s.does fun d => bootFrom d.pow.bootCause (supplyBack d.fresh d) := by
      show execSupplyReturn s = _
      unfold execSupplyReturn
      refine does_congr ?_
      have h : s.found.pow.enablesFellAt = none := ht
      rw [if_pos hguard, h]
      rfl
    exact completes_of_exec hrun (hgo s.found rfl)
  | some t =>
    have hrun : exec .supplyReturn s = s.does fun d => bootFrom (arrive (t + 10 * msNs) d).pow.bootCause
        (supplyBack d.fresh (arrive (t + 10 * msNs) d)) := by
      show execSupplyReturn s = _
      unfold execSupplyReturn
      refine does_congr ?_
      have h : s.found.pow.enablesFellAt = some t := ht
      rw [if_pos hguard, h]
      rfl
    obtain ⟨h1, h2, h3⟩ := hgo (arrive (t + 10 * msNs) s.found) (arrive_pow _ _)
    exact completes_of_exec hrun ⟨h1, h2, h3.trans (arrive_now _ _)⟩

theorem porNReleased_boots (straps : BitVec 4) (test : Bool) :
    (s.dev.pow.porN = true → Completes (.porNReleased straps test) s (Framed [] s.found)) ∧
    (s.dev.pow.porN = false → s.dev.pow.pgCore = false → Completes (.porNReleased straps test) s fun d => d.pow.porN = true ∧
      d.pins.strapPcie = straps.getLsbD 0 ∧ d.pins.strapHsp = straps.getLsbD 1 ∧ d.pins.strapW8 = straps.getLsbD 2 ∧
      d.pins.strapPmb = straps.getLsbD 3 ∧
      if test = true ∧ s.dev.sec.lifecycle = 1 then d.pins.testMode = true ∧ d.pow.state = s.dev.pow.state
      else d.pins.testMode = false ∧ BootBegins 1 d) := by
  refine ⟨fun h => ?_, fun h hpg => ?_⟩
  · refine completes_of_exec (f := id) ?_ (.refl _ _)
    show execPorNReleased straps test s = _
    unfold execPorNReleased
    refine does_congr ?_
    have h : s.found.pow.porN = true := h
    rw [if_pos h]
    rfl
  · have hrun : ∀ t : Bool, (test && decide (s.dev.sec.lifecycle = 1)) = t → exec (.porNReleased straps test) s = s.does fun d =>
        let e : Dev := { onPow (fun p => { p with porN := true }) d with pins := { d.pins with
          strapPcie := straps.getLsbD 0, strapHsp := straps.getLsbD 1, strapW8 := straps.getLsbD 2, strapPmb := straps.getLsbD 3, testMode := t } }
        if t then e else bootFrom 1 e := fun t ht => by
      show execPorNReleased straps test s = _
      unfold execPorNReleased
      refine does_congr ?_
      have h : ¬ s.found.pow.porN = true := fun h' => Bool.false_ne_true (h.symm.trans h')
      rw [if_neg h]
      subst ht
      rfl
    by_cases ht : test = true ∧ s.dev.sec.lifecycle = 1
    · refine completes_of_exec (hrun true (by rw [ht.1, decide_eq_true ht.2]; rfl)) ?_
      rw [if_pos ht]
      exact ⟨rfl, rfl, rfl, rfl, rfl, rfl, rfl⟩
    · refine completes_of_exec (hrun false ?_) ?_
      · by_contra hne
        exact ht (by simpa using hne)
      · rw [if_neg ht]
        generalize he : ({ onPow (fun p => { p with porN := true }) s.found with pins := _ } : Dev) = e
        have hpg' : e.pow.pgCore = false := by rw [← he]; exact hpg
        have hpor' : e.pow.porN = true := by rw [← he]; rfl
        have hpins : e.pins = { s.dev.pins with
            strapPcie := straps.getLsbD 0, strapHsp := straps.getLsbD 1, strapW8 := straps.getLsbD 2, strapPmb := straps.getLsbD 3
            testMode := false } := by rw [← he]; rfl
        obtain ⟨h1, -, -, h4, h5⟩ := bootFrom_begins (cause := 1) (by decide) hpg'
        simp only [Bool.false_eq_true, if_false]
        rw [h4, h5, hpins]
        exact ⟨hpor', rfl, rfl, rfl, rfl, rfl, h1⟩

/-! ### Warm resets (R498, R501, R503) -/

theorem Answered.sent {a b : Dev} {src : Src} {rs : Resp} (h : Answered a src rs) (hs : Sent a b) : Answered b src rs := by
  cases src with
  | sdo c => exact hs _ h
  | kda id seq =>
    obtain ⟨peer, tag, hm⟩ := h
    exact ⟨peer, tag, hs _ hm⟩
  | pcie => exact hs _ h
  | serial => exact hs _ h

/-- Counters of 0x2D05 set to 0 one after the other. -/
theorem forEach_clears (l : List Nat) {d : Dev} (hl : ∀ i ∈ l, i + 1 < 256) (hwf : Store.wf odDefault d.dict.od = true) {k : Nat} (hk : k < 256)
    (h : (∃ i ∈ l, i + 1 = k) ∨ cfg d 0x2D05 k = 0) : cfg (forEach l (fun i => setReg 0x2D05 (i + 1) 0) d) 0x2D05 k = 0 := by
  induction l generalizing d with
  | nil => exact h.resolve_left fun ⟨i, hi, _⟩ => nomatch hi
  | cons x l ih =>
    have hx := hl x (.head _)
    refine ih (d := setReg 0x2D05 (x + 1) 0 d) (fun i hi => hl i (.tail _ hi)) (Store.put_wf _ _ _ hwf) ?_
    by_cases hxk : x + 1 = k
    · subst hxk
      exact .inr (cfg_setReg_wf _ _ _ _ hwf)
    · rcases h with ⟨i, hi, rfl⟩ | h
      · rcases List.mem_cons.mp hi with rfl | hi
        · exact absurd rfl hxk
        · exact .inl ⟨i, hi, rfl⟩
      · exact .inr ((cfg_setReg_ne _ _ _ _ _ _ (by unfold odKey; omega)).trans h)

theorem forEach_clears_pow (l : List Nat) (d : Dev) : (forEach l (fun i => setReg 0x2D05 (i + 1) 0) d).pow = d.pow ∧
    (forEach l (fun i => setReg 0x2D05 (i + 1) 0) d).out = d.out := by
  induction l generalizing d with
  | nil => exact ⟨rfl, rfl⟩
  | cons x l ih => exact ih _

/-- A warm reset: the boot begins with cause 5, the latch stands, and the counters of 0x2D05 are cleared but for two. -/
theorem warmResetNow_boots (d : Dev) : let e := warmResetNow d
    e.pow.state = .booting ∧ e.pow.bootCause = 5 ∧ e.pow.agentReady = false ∧ e.pow.booted = false ∧ e.pow.latch = d.pow.latch ∧ Sent d e ∧
      (d.Valid → cfg e 0x2D05 5 = min 0xFFFFFFFF (cfg d 0x2D05 5 + 1) ∧ ∀ k ∈ [1, 2, 3, 4, 6, 7, 9, 10], cfg e 0x2D05 k = 0) := by
  have hp := resetIslands_pow noPhys (abandonSleep d)
  have hs := resetIslands_sent noPhys (abandonSleep d)
  have hwf : d.Valid → Store.wf odDefault (resetIslands noPhys (abandonSleep d)).dict.od = true := fun hv =>
    (resetIslands_kept noPhys _ (abandonSleep_kept d hv.kept)).dict.od
  have hap : (abandonSleep d).pow = d.pow := rfl
  have hao : (abandonSleep d).out = d.out := rfl
  unfold warmResetNow
  dsimp only
  generalize abandonSleep d = a at *
  generalize resetIslands noPhys a = r at *
  obtain ⟨hcp, hco⟩ := forEach_clears_pow (List.range 10) r
  have hclear := fun hv k (hk : k < 256) => forEach_clears (List.range 10) (d := r) (fun i hi => by have := List.mem_range.mp hi; omega) (hwf hv) hk
  generalize forEach (List.range 10) (fun i => setReg 0x2D05 (i + 1) 0) r = c at *
  generalize hx : ({ setReg 0x2D05 5 _ c with pins := _ } : Dev) = x
  have hxp : x.pow = d.pow.islandsReset := by rw [← hx]; exact hcp.trans (hp.trans (by rw [hap]))
  have hxo : x.out = r.out := by rw [← hx]; exact hco
  have hx5 : cfg x 0x2D05 5 = min 0xFFFFFFFF (cfg d 0x2D05 5 + 1) := by
    rw [← hx]
    refine cfg_setReg_self 0x2D05 5 _ c fun h => ?_
    have h0 := Value.num.inj (h.trans (rfl : odDefault (odKey 0x2D05 5) = .num 0))
    omega
  have hxk : ∀ k < 256, k ≠ 5 → cfg x 0x2D05 k = cfg c 0x2D05 k := fun k hk h5 => by
    rw [← hx]
    exact cfg_setReg_ne 0x2D05 5 _ 0x2D05 k c (by unfold odKey; omega)
  obtain ⟨h1, h2, h3, h4, h5, h6, h7⟩ := bootFrom_boots 5 x
  refine ⟨h1, h2, h4 (by rw [hxp]; rfl), h5 (by rw [hxp]; rfl), h3.trans (by rw [hxp]; rfl), fun o ho => h7 o ?_, fun hv => ⟨?_, fun k hk => ?_⟩⟩
  · rw [hxo]
    exact hs o (by rwa [hao])
  · exact (h6 5 (by decide) (by decide)).trans hx5
  · have hmem : k < 256 ∧ k ≠ 8 ∧ k ≠ 5 ∧ ∃ i ∈ List.range 10, i + 1 = k := by
      revert k
      decide
    obtain ⟨hlt, h8, hne, hi⟩ := hmem
    exact (h6 k hlt h8).trans ((hxk k hlt hne).trans (hclear hv k hlt (.inl hi)))

theorem warmRefused_reached {src : Src} {a : Dev} (h : PathOnly src s.found a) : warmRefused (bump 0x2003 1 a) = warmRefused s.dev := by
  have hc : cfg (bump 0x2003 1 a) 0x2D04 7 = cfg s.dev 0x2D04 7 :=
    (cfg_bump_ne _ _ _ _ _ (by decide)).trans (h.cfg_free (by unfold PathFree; omega))
  unfold warmRefused
  rw [hc, bump_sleep, show a.sleep = s.dev.sleep from h.same .sleep (by decide)]

theorem warmReset_acts {src : Src} (hs : Served s.dev src) (hm : MayWrite s.dev src 0x2D02 1) :
    (warmRefused s.dev = true → Completes (.warmReset src) s (RefusedWith s src 0x2D02 1 0x08000022)) ∧
    (warmRefused s.dev = false → Completes (.warmReset src) s fun d => WriteAnswered d src 0x2D02 1 0 ∧
      d.pow.state = .booting ∧ d.pow.bootCause = 5 ∧ d.pow.agentReady = false ∧ d.pow.booted = false ∧ d.pow.latch = s.dev.pow.latch ∧
      (s.dev.Valid → cfg d 0x2D05 5 = min 0xFFFFFFFF (cfg s.dev 0x2D05 5 + 1) ∧ ∀ k ∈ [1, 2, 3, 4, 6, 7, 9, 10], cfg d 0x2D05 k = 0)) := by
  have hgo : ∀ {P : Dev → Prop}, (∀ a, Reached src s.found a → (s.dev.Valid → a.Valid) → P (finishAct src 0x2D02 1 a
      (if warmRefused s.dev then .refuse 0x08000022 id else .thenDo (bump 0x2003 1 a) warmResetNow))) → Completes (.warmReset src) s P :=
    fun {P} hP => by
      refine completes_num_valid (c := .warmReset src) (n := 4) (v := 0x74657372) rfl hs hm rfl rfl (by decide) rfl rfl (by decide) (by decide) (by decide)
        (fun h => absurd h.1 (by decide)) fun a ha hvalid => ?_
      have hact : actOn (writeOf src 0x2D02 1 0 (leBytes 4 0x74657372)) (roleOf s.dev src) (.num 0x74657372) (bump 0x2003 1 a) =
          if warmRefused (bump 0x2003 1 a) then .refuse 0x08000022 id else .thenDo (bump 0x2003 1 a) warmResetNow := rfl
      rw [hact, warmRefused_reached ha.pathOnly]
      exact hP a ha hvalid
  refine ⟨fun h => hgo fun a ha _ => ?_, fun h => hgo fun a ha hvalid => ?_⟩
  · rw [h, if_pos rfl]
    exact ha.refused 0x2D02 1 _
  · rw [h, if_neg (by decide), show finishAct src 0x2D02 1 a (.thenDo (bump 0x2003 1 a) warmResetNow) =
      warmResetNow (answerWrite src 0x2D02 1 0 (bump 0x2003 1 a)) from rfl]
    have hans : WriteAnswered (answerWrite src 0x2D02 1 0 (bump 0x2003 1 a)) src 0x2D02 1 0 := (ha.acts (A := []) (f := id) (.refl _ _) (by decide) (by decide) 0x2D02 1).2
    have hpath : PathOnly src (bump 0x2003 1 a) (answerWrite src 0x2D02 1 0 (bump 0x2003 1 a)) := answer_pathOnly _ _ _
    have hkept : s.dev.Valid → (answerWrite src 0x2D02 1 0 (bump 0x2003 1 a)).Valid := fun hv =>
      (answerWrite_kept src 0x2D02 1 0 _ (bump_kept 0x2003 1 a (hvalid hv).kept)).valid
    have hlatch : (answerWrite src 0x2D02 1 0 (bump 0x2003 1 a)).pow = s.dev.pow := by
      rw [show (answerWrite _ _ _ _ _).pow = _ from hpath.same .pow (by decide), bump_pow]
      exact ha.pathOnly.same .pow (by decide)
    have h5 : cfg (answerWrite src 0x2D02 1 0 (bump 0x2003 1 a)) 0x2D05 5 = cfg s.dev 0x2D05 5 :=
      (hpath.cfg_free (by unfold PathFree; omega)).trans ((cfg_bump_ne _ _ _ _ _ (by decide)).trans (ha.pathOnly.cfg_free (by unfold PathFree; omega)))
    generalize answerWrite src 0x2D02 1 0 (bump 0x2003 1 a) = e at *
    obtain ⟨h1, h2, h3, h4, hl, hsent, hregs⟩ := warmResetNow_boots e
    refine ⟨hans.sent hsent, h1, h2, h3, h4, hl.trans (by rw [hlatch]), fun hv => ?_⟩
    obtain ⟨hr5, hrk⟩ := hregs (hkept hv)
    exact ⟨by rw [hr5, h5], hrk⟩

end supplies

/-- Settles O51: each clause follows the record of the platform through the reset of the islands and the first steps of the boot. -/
theorem suppliesAndResetsStopAndRestartTheNodeAsGiven : Obligations.SuppliesAndResetsStopAndRestartTheNodeAsGiven := by
  intro s p counter boots held
  refine ⟨fun core mv hpor hst hc => ⟨supplyWarning_again hpor hst hc, supplyWarning_warns hpor hst hc⟩, fun core => supplyWarningClear_clears core,
    fun r => supplyReset_holds r, fun io => powerGoodLoss_holds (s := s) io, fun hst hpor htest hpg hc => supplyReturn_boots hst hpor htest hpg hc,
    ?_, porNReleased_boots, fun src hs hm => warmReset_acts hs hm⟩
  refine completes_of_exec (f := _) (show execPorNAsserted s = _ from rfl) ?_
  exact ⟨rfl, rfl, rfl, rfl, rfl, rfl, rfl, rfl, rfl⟩

end Sys2Proof.Machine
end

section
/-! PROOF. The steps of a boot and the selection of its image (R471, R480 to R484). -/

namespace Sys2Proof.Machine

/-! ### The partitions and the selection of an image (R481 to R484) -/

section images

variable {d : Dev}

/-- Of the platform's record only the partitions differ, and time, security and the recorder's state stand. -/
structure SamePlatform (a b : Dev) : Prop where
  pow : ∃ x y, b.pow = { a.pow with partA := x, partB := y }
  now : b.now = a.now
  sec : b.sec = a.sec
  recd : b.recd.state = a.recd.state

theorem SamePlatform.refl (d : Dev) : SamePlatform d d := ⟨⟨_, _, rfl⟩, rfl, rfl, rfl⟩

theorem SamePlatform.trans {a b c : Dev} (h1 : SamePlatform a b) (h2 : SamePlatform b c) : SamePlatform a c := by
  obtain ⟨⟨x, y, hp⟩, hn, hs, hr⟩ := h1
  obtain ⟨⟨x', y', hp'⟩, hn', hs', hr'⟩ := h2
  exact ⟨⟨x', y', by rw [hp', hp]⟩, hn'.trans hn, hs'.trans hs, hr'.trans hr⟩

theorem markFailed_same (b : Bool) (d : Dev) : SamePlatform d (markFailed b d) := by
  unfold markFailed
  refine ⟨?_, ?_, ?_, ?_⟩
  · rw [raise_pow, bump_pow]
    cases b
    exacts [⟨_, _, rfl⟩, ⟨_, _, rfl⟩]
  · rw [raise_now, bump_now]
    rfl
  · rw [raise_sec, bump_sec]
    rfl
  · rw [show raise evImageFailed noInst = raiseP evImageFailed noInst [] from rfl, raiseP_recdState, bump_recd]
    rfl

theorem markFailed_part (b c : Bool) (d : Dev) :
    partOf (markFailed b d) c = if c = b then { partOf d b with state := .failed } else partOf d c := by
  unfold partOf markFailed
  rw [raise_pow, bump_pow]
  cases b <;> cases c <;> rfl

theorem failSpent_same (b : Bool) (d : Dev) : SamePlatform d (failSpent b d) := by
  unfold failSpent
  dsimp only
  split
  exacts [markFailed_same b d, .refl d]

/-- A trial image whose boots are spent was no candidate. -/
theorem failSpent_candidate (b c : Bool) (d : Dev) : (partOf (failSpent b d) c).candidate = (partOf d c).candidate := by
  unfold failSpent
  dsimp only
  split
  · next h =>
    simp only [Bool.and_eq_true, decide_eq_true_eq] at h
    obtain ⟨⟨-, htrial⟩, hspent⟩ := h
    rw [markFailed_part]
    split
    · next hc =>
      subst hc
      have hold : (partOf d c).candidate = false := by
        unfold Partition.candidate
        rw [htrial]
        simp [hspent]
      rw [hold]
      simp [Partition.candidate]
    · rfl
  · rfl

theorem failSpent_generation (b c : Bool) (d : Dev) : (partOf (failSpent b d) c).generation = (partOf d c).generation := by
  unfold failSpent
  dsimp only
  split
  · rw [markFailed_part]
    split
    · next hc =>
      subst hc
      rfl
    · rfl
  · rfl

theorem failSpent_other {b c : Bool} (h : c ≠ b) (d : Dev) : partOf (failSpent b d) c = partOf d c := by
  unfold failSpent
  dsimp only
  split
  · rw [markFailed_part, if_neg h]
  · rfl

theorem failSpent_of_candidate {b : Bool} (h : (partOf d b).candidate = true) : failSpent b d = d := by
  refine if_neg fun hs => ?_
  simp only [Bool.and_eq_true, decide_eq_true_eq] at hs
  obtain ⟨⟨-, htrial⟩, hspent⟩ := hs
  unfold Partition.candidate at h
  rw [htrial] at h
  simp only [Bool.and_eq_true, decide_eq_true_eq] at h
  omega

/-- Without a candidate no image starts. -/
theorem selectImage_none (hA : (partOf d false).candidate = false) (hB : (partOf d true).candidate = false) :
    SamePlatform d (selectImage d).1 ∧ (selectImage d).2 = false := by
  have hsame := (failSpent_same false d).trans (failSpent_same true _)
  have hc : ∀ c, (partOf (failSpent true (failSpent false d)) c).candidate = false := fun c => by
    rw [failSpent_candidate, failSpent_candidate]
    cases c
    exacts [hA, hB]
  unfold selectImage
  dsimp only
  generalize failSpent true (failSpent false d) = e at hsame hc
  split
  · exact ⟨hsame, rfl⟩
  · simp only [List.filter_cons, List.filter_nil, hc]
    exact ⟨hsame, rfl⟩

/-- Partition A is taken: a candidate that loads, and B is none of a higher generation. -/
def TakesA (d : Dev) : Prop :=
  d.sec.lifecycle ≠ 4 ∧ (partOf d false).candidate = true ∧ imageLoads d false = true ∧
    ((partOf d true).candidate = true → d.pow.partB.generation ≤ d.pow.partA.generation)

theorem selectImage_takesA (h : TakesA d) : ∃ e, SamePlatform d e ∧ partOf e false = partOf d false ∧
    selectImage d = (startImage false e, true) := by
  obtain ⟨hl, hA, hload, hB⟩ := h
  have hsame := failSpent_same true d
  have hpart : partOf (failSpent true d) false = partOf d false := failSpent_other (by decide) d
  have hBc := failSpent_candidate true true d
  have hBg := failSpent_generation true true d
  unfold selectImage
  rw [failSpent_of_candidate hA]
  dsimp only
  generalize failSpent true d = e at *
  have hload' : imageLoads e false = true := by
    unfold imageLoads at hload ⊢
    rw [hpart, hsame.sec]
    exact hload
  refine ⟨e, hsame, hpart, ?_⟩
  rw [hsame.sec, if_neg hl]
  simp only [List.filter_cons, List.filter_nil, hpart, hA, if_true, hBc]
  cases hb : (partOf d true).candidate with
  | false => simp [hload']
  | true =>
    have hge : ¬ (partOf e false).generation < (partOf e true).generation := by
      rw [hpart, hBg]
      exact Nat.not_lt.mpr (hB hb)
    rw [hpart] at hge
    simp [hpart, hge, hload']

/-- No image was found: the islands are back in reset and the next selection follows 10 s later. -/
def NoImage (d : Dev) : Prop :=
  d.pow.bootStep = 2 ∧ d.pow.selectRetry = some (d.now + 10 * sNs) ∧ d.pow.readyDeadline = none ∧ d.pow.resetOutN = false ∧
    d.pow.bypassA = false ∧ d.pow.bypassB = false

theorem runSelection_none (hA : (partOf d false).candidate = false) (hB : (partOf d true).candidate = false) :
    NoImage (runSelection d) ∧ (runSelection d).pow.pgCore = d.pow.pgCore ∧ (runSelection d).pow.railDdr = d.pow.railDdr ∧
      (runSelection d).now = d.now := by
  obtain ⟨⟨⟨x, y, hp⟩, hn, -, -⟩, h2⟩ := selectImage_none hA hB
  rw [runSelection_eq, h2]
  generalize (selectImage d).1 = e at *
  have hrp := resetIslands_pow (wakePhys e) e
  have hrn := (resetIslands_leaves (wakePhys e) e).1
  generalize resetIslands (wakePhys e) e = r at *
  unfold NoImage
  simp only [Bool.false_eq_true, if_false, onPow, hrp, hrn, PowerS.islandsReset, hp, hn, and_self]

theorem runSelection_takesA (h : TakesA d) : (∃ y c r, (runSelection d).pow = { d.pow with
      partA := (if d.pow.partA.state = .confirmed then d.pow.partA else { d.pow.partA with state := .trial, trialBoots := d.pow.partA.trialBoots + 1 })
      partB := y, bootedB := false, confirmDeadline := c, readyDeadline := some r, selectRetry := none }) ∧
    (runSelection d).now = d.now ∧ (runSelection d).recd.state = d.recd.state := by
  obtain ⟨e, ⟨⟨x, y, hp⟩, hn, -, hr⟩, hpart, he⟩ := selectImage_takesA h
  have hx : e.pow.partA = d.pow.partA := hpart
  have hstart : ∃ c, (startImage false e).pow = { e.pow with
      partA := (if e.pow.partA.state = .confirmed then e.pow.partA else { e.pow.partA with state := .trial, trialBoots := e.pow.partA.trialBoots + 1 })
      bootedB := false, confirmDeadline := c } := by
    unfold startImage
    dsimp only
    by_cases hc : (partOf e false).state = .confirmed
    · simp only [hc, ne_eq, not_true_eq_false, if_false, show e.pow.partA.state = .confirmed from hc, if_true]
      exact ⟨_, rfl⟩
    · simp only [hc, ne_eq, not_false_eq_true, if_true, show ¬ e.pow.partA.state = .confirmed from hc, if_false]
      exact ⟨_, rfl⟩
  rw [runSelection_eq, he]
  have hsn : (startImage false e).now = e.now := rfl
  have hsr : (startImage false e).recd = e.recd := rfl
  generalize startImage false e = z at *
  obtain ⟨c, hc⟩ := hstart
  simp only [if_true, onPow]
  refine ⟨⟨y, c, z.now + readyTime z, ?_⟩, hsn.trans hn, by rw [hsr, hr]⟩
  rw [hc, hx, hp]

/-- What a selection needs to know of the reset that the islands have left. -/
theorem leaveReset_leaves (d : Dev) : (∃ r, (hostBoot (leaveReset d)).pow = { d.pow with
      bootStep := 3, railDdr := true, resetOutN := true, railDeadline := r }) ∧ (hostBoot (leaveReset d)).now = d.now ∧
    (hostBoot (leaveReset d)).sec = d.sec ∧ (hostBoot (leaveReset d)).recd.state = .scanning := ⟨⟨_, rfl⟩, rfl, rfl, rfl⟩

theorem coreGood_selects (hseq : d.pow.seqState ≠ .recoveryHeld) (hc : d.pow.bootCause ≠ 6) : ∃ e, coreGood d = runSelection e ∧
    (∃ r, e.pow = { d.pow with pgCore := true, bootStep := 3, railDdr := true, resetOutN := true, railDeadline := r }) ∧
    e.now = d.now + 500 * usNs ∧ e.sec = d.sec ∧ e.recd.state = .scanning := by
  have hpow : ∀ t e, (arrive t e).pow = e.pow := arrive_pow
  unfold coreGood bootStep3
  dsimp only
  generalize ha : arrive ((onPow (fun p => { p with pgCore := true, railDeadline := none, bootStep := 2 }) d).now + 500 * usNs) _ = a
  have hap : a.pow = { d.pow with pgCore := true, railDeadline := none, bootStep := 2 } := by rw [← ha, hpow]; rfl
  have han : a.now = d.now + 500 * usNs := by
    rw [← ha, arrive_now]
    exact Nat.max_eq_right (Nat.le_add_right _ _)
  have has : a.sec = d.sec := by rw [← ha, arrive_sec]; rfl
  obtain ⟨⟨r, hp⟩, hn, hs, hr⟩ := leaveReset_leaves a
  generalize hostBoot (leaveReset a) = e at *
  rw [if_neg (by rw [hap]; exact hseq), if_neg (by rw [hap]; exact hc)]
  refine ⟨_, rfl, ⟨r, hp.trans (by rw [hap])⟩, hn.trans han, hs.trans has, hr⟩

end images

/-! ### Rails and selections as commands (R471, R480, R482) -/

section commands

variable {s : State}

/-- Partition A has started: its image is on trial unless it is confirmed. -/
def StartsA (s : State) (d : Dev) : Prop :=
  d.pow.bootStep = 3 ∧ d.pow.resetOutN = true ∧ d.pow.railDdr = true ∧ d.pow.bootedB = false ∧ d.pow.readyDeadline ≠ none ∧
    d.recd.state = .scanning ∧
    d.pow.partA = if s.dev.pow.partA.state = .confirmed then s.dev.pow.partA else
      { s.dev.pow.partA with state := .trial, trialBoots := s.dev.pow.partA.trialBoots + 1 }

theorem pgCoreRise_selects (hst : s.dev.pow.state = .booting) (hstep : s.dev.pow.bootStep = 1) (hcore : s.dev.pow.railCore = true)
    (hpg : s.dev.pow.pgCore = false) (hseq : s.dev.pow.seqState ≠ .recoveryHeld) (hc : s.dev.pow.bootCause ≠ 6) :
    ((partOf s.dev false).candidate = false → (partOf s.dev true).candidate = false → Completes .pgCoreRise s fun d =>
      NoImage d ∧ d.pow.pgCore = true ∧ d.pow.railDdr = true ∧ d.now = s.dev.now + 500 * usNs) ∧
    (TakesA s.dev → Completes .pgCoreRise s fun d => StartsA s d ∧ d.pow.pgCore = true ∧ d.now = s.dev.now + 500 * usNs) := by
  have hrun : exec .pgCoreRise s = s.does coreGood := by
    show execPgCoreRise s = _
    unfold execPgCoreRise
    refine does_congr (if_pos ?_)
    rw [show s.found.pow = s.dev.pow from rfl, hst, hstep, hcore, hpg]
    rfl
  obtain ⟨e, he, ⟨r, hp⟩, hn, hs, hr⟩ := coreGood_selects (d := s.found) hseq hc
  have hpart : ∀ b, partOf e b = partOf s.dev b := fun b => by
    unfold partOf
    rw [hp]
    rfl
  refine ⟨fun hA hB => completes_of_exec hrun ?_, fun hA => completes_of_exec hrun ?_⟩
  · obtain ⟨h1, h2, h3, h4⟩ := runSelection_none (d := e) (by rw [hpart, hA]) (by rw [hpart, hB])
    rw [he]
    exact ⟨h1, h2.trans (by rw [hp]), h3.trans (by rw [hp]), h4.trans hn⟩
  · have hA' : TakesA e := by
      unfold TakesA imageLoads at hA ⊢
      rw [hpart, hpart, hs, hp]
      exact hA
    obtain ⟨⟨y, c, z, h1⟩, h2, h3⟩ := runSelection_takesA hA'
    rw [he]
    generalize runSelection e = w at *
    unfold StartsA
    rw [h1, hp, h3, h2, hr]
    exact ⟨⟨rfl, rfl, rfl, rfl, nofun, rfl, rfl⟩, rfl, hn⟩

theorem imageSelectionRetry_selects {t : Nat} (ht : s.dev.pow.selectRetry = some t) :
    ((partOf s.dev false).candidate = false → (partOf s.dev true).candidate = false → Completes .imageSelectionRetry s fun d =>
      NoImage d ∧ d.now = max s.dev.now t) ∧
    (TakesA s.dev → Completes .imageSelectionRetry s fun d => StartsA s d ∧ d.pow.selectRetry = none ∧ d.now = max s.dev.now t) := by
  have hrun : ∃ e, (exec .imageSelectionRetry s = s.does fun _ => runSelection e) ∧
      (∃ r, e.pow = { s.dev.pow with selectRetry := none, bootStep := 3, railDdr := true, resetOutN := true, railDeadline := r }) ∧
      e.now = max s.dev.now t ∧ e.sec = s.dev.sec ∧ e.recd.state = .scanning := by
    generalize ha : arrive t (onPow (fun p => { p with selectRetry := none }) s.found) = a
    have hap : a.pow = { s.dev.pow with selectRetry := none } := by rw [← ha, arrive_pow]; rfl
    have han : a.now = max s.dev.now t := by rw [← ha, arrive_now]; rfl
    have has : a.sec = s.dev.sec := by rw [← ha, arrive_sec]; rfl
    obtain ⟨⟨r, hp⟩, hn, hs, hr⟩ := leaveReset_leaves a
    refine ⟨onPow (fun p => { p with railDeadline := if a.pow.pgIo then none else p.railDeadline }) (hostBoot (leaveReset a)), ?_, ?_,
      hn.trans han, hs.trans has, hr⟩
    · show execImageSelectionRetry s = _
      unfold execImageSelectionRetry
      refine does_congr ?_
      have h : s.found.pow.selectRetry = some t := ht
      rw [h]
      dsimp only
      rw [ha]
    · unfold onPow
      rw [hp, hap]
      exact ⟨_, rfl⟩
  obtain ⟨e, he, ⟨r, hp⟩, hn, hs, hr⟩ := hrun
  have hpart : ∀ b, partOf e b = partOf s.dev b := fun b => by
    unfold partOf
    rw [hp]
  refine ⟨fun hA hB => completes_of_exec he ?_, fun hA => completes_of_exec he ?_⟩
  · obtain ⟨h1, -, -, h4⟩ := runSelection_none (d := e) (by rw [hpart, hA]) (by rw [hpart, hB])
    exact ⟨h1, h4.trans hn⟩
  · have hA' : TakesA e := by
      unfold TakesA imageLoads at hA ⊢
      rw [hpart, hpart, hs, hp]
      exact hA
    obtain ⟨⟨y, c, z, h1⟩, h2, h3⟩ := runSelection_takesA hA'
    generalize runSelection e = w at *
    unfold StartsA
    rw [h1, hp, h3, h2, hr]
    exact ⟨⟨rfl, rfl, rfl, rfl, nofun, rfl, rfl⟩, rfl, hn⟩

theorem pgIoRise_ends (hddr : s.dev.pow.railDdr = true) (hio : s.dev.pow.pgIo = false) : Completes .pgIoRise s fun d => d.pow =
      { s.dev.pow with pgIo := true, railDeadline := if s.dev.pow.bootStep = 1 then s.dev.pow.railDeadline else none } ∧ Framed [.pow] s.found d := by
  have hrun : exec .pgIoRise s = s.does (onPow (fun p => { p with pgIo := true, railDeadline := if p.bootStep = 1 then p.railDeadline else none })) := by
    show execPgIoRise s = _
    unfold execPgIoRise
    refine does_congr (if_pos ?_)
    rw [show s.found.pow = s.dev.pow from rfl, hddr, hio]
    rfl
  exact completes_of_exec hrun ⟨rfl, onPow_framed _ _ (by decide) (.refl _ _)⟩

theorem railEnableTimeout_drops {t : Nat} (ht : s.dev.pow.railDeadline = some t) : Completes .railEnableTimeout s fun d =>
    d.now = max s.dev.now t ∧ d.pow.railCore = false ∧ d.pow.railDdr = false ∧ d.pow.bootStep = 1 ∧ d.pow.railRetry = some (d.now + sNs) ∧
      cfg d 0x2D05 0x0A = min 0xFFFFFFFF (cfg s.dev 0x2D05 0x0A + 1) := by
  generalize ha : arrive t s.found = a
  have han : a.now = max s.dev.now t := by rw [← ha, arrive_now]; rfl
  have hac : cfg a 0x2D05 0x0A = cfg s.dev 0x2D05 0x0A := by rw [← ha]; exact cfg_of_dict (arrive_dict t s.found) _ _
  have hrun : exec .railEnableTimeout s = s.does fun _ => raise evRailRetry noInst (bump 0x2D05 0x0A
      (onPow (fun p => { p with bootStep := 1, railRetry := some (a.now + sNs), wakeDeadline := a.pow.wakeDeadline })
        (dropRails (resetIslands (wakePhys a) a)))) := by
    show execRailEnableTimeout s = _
    unfold execRailEnableTimeout
    refine does_congr ?_
    have h : s.found.pow.railDeadline = some t := ht
    rw [h]
    dsimp only
    rw [ha]
  have hrn := (resetIslands_leaves (wakePhys a) a).1
  have hrc : cfg (resetIslands (wakePhys a) a) 0x2D05 0x0A = cfg a 0x2D05 0x0A := resetIslands_cfg _ a (by decide) (.inr (by decide)) (by decide)
  refine completes_of_exec hrun ?_
  generalize resetIslands (wakePhys a) a = r at *
  rw [raise_now, bump_now, raise_pow, bump_pow]
  refine ⟨hrn.trans han, rfl, rfl, rfl, ?_, ?_⟩
  · exact congrArg (fun n => some (n + sNs)) hrn.symm
  · rw [(raise_low _ _ _).cfg (by decide), cfg_bump_self 0x2D05 0x0A _ (by decide), ← hac, ← hrc]
    rfl

theorem railEnableRetry_raises {t : Nat} (ht : s.dev.pow.railRetry = some t) : Completes .railEnableRetry s fun d =>
    d.now = max s.dev.now t ∧ d.pow = { s.dev.pow with
      railRetry := none, railCore := true, railDeadline := some (d.now + 20 * msNs), enablesFellAt := none } ∧
    Framed [.clock, .counters, .pow] s.found d := by
  have hrun : exec .railEnableRetry s = s.does fun d => onPow (fun p => { p with
      railRetry := none, railCore := true, railDeadline := some ((arrive t d).now + 20 * msNs), enablesFellAt := none }) (arrive t d) := by
    show execRailEnableRetry s = _
    unfold execRailEnableRetry
    refine does_congr ?_
    have h : s.found.pow.railRetry = some t := ht
    rw [h]
  have hf : Framed [.clock, .counters, .pow] s.found (arrive t s.found) := arrive_framed _ _ (by decide) (.refl _ _)
  have hn : (arrive t s.found).now = max s.dev.now t := arrive_now _ _
  have hp : (arrive t s.found).pow = s.dev.pow := arrive_pow _ _
  refine completes_of_exec hrun ?_
  generalize arrive t s.found = a at *
  exact ⟨hn, by unfold onPow; rw [hp], onPow_framed _ _ (by decide) hf⟩

end commands

end Sys2Proof.Machine
end

section
/-! PROOF. Firmware images (R485, R502), and INT_STATUS through the rise of SAFE_N. -/

namespace Sys2Proof.Machine

/-! ### Images written to a partition (R485, R502) -/

section firmware

variable {s : State}

theorem firmwareVerdict_congr {a b : Dev} (hs : b.sec = a.sec) (hp : b.pow = a.pow) (bs : List Byte) : firmwareVerdict b bs = firmwareVerdict a bs := by
  have hsign : ∀ key, signerMatches b 0 key = signerMatches a 0 key := fun _ => rfl
  unfold firmwareVerdict blockOk partOf
  simp only [hsign, hs, hp]

theorem firmwarePartition_congr {a b : Dev} (hp : b.pow = a.pow) (bs : List Byte) : firmwarePartition b bs = firmwarePartition a bs := by
  unfold firmwarePartition
  rw [hp]

theorem partOf_onPart (b c : Bool) (f : Partition → Partition) (d : Dev) :
    partOf (onPart b f d) c = if c = b then f (partOf d b) else partOf d c := by
  cases b <;> cases c <;> rfl

theorem partOf_setReg (idx sub v : Nat) (b : Bool) (d : Dev) : partOf (setReg idx sub v d) b = partOf d b := rfl

theorem firmwareWriteEnd_ends {x : Partition} (hx : s.dev.pow.fwWriting = some x) :
    (emmcReady s.dev = true → Completes .firmwareWriteEnd s fun d => partOf d (!s.dev.pow.bootedB) = x ∧
      partOf d s.dev.pow.bootedB = partOf s.dev s.dev.pow.bootedB ∧ d.pow.fwWriting = none ∧ cfg d 0x2D04 7 = 4) ∧
    (emmcReady s.dev = false → Completes .firmwareWriteEnd s fun d => partOf d (!s.dev.pow.bootedB) = partOf s.dev (!s.dev.pow.bootedB) ∧
      d.pow.fwWriting = none ∧ cfg d 0x2D04 7 = 7) := by
  have hrun : ∀ r, emmcReady s.dev = r → exec .firmwareWriteEnd s = s.does fun d =>
      if r then setReg 0x2D04 7 4 (onPart (!s.dev.pow.bootedB) (fun _ => x) (onPow (fun q => { q with fwWriting := none }) d))
      else setReg 0x2D04 7 7 (onPow (fun q => { q with fwWriting := none }) d) := fun r hr => by
    show execFirmwareWriteEnd s = _
    unfold execFirmwareWriteEnd
    refine does_congr ?_
    have h : s.found.pow.fwWriting = some x := hx
    have hr' : emmcReady (onPow (fun q => { q with fwWriting := none }) s.found) = r := hr
    rw [h]
    dsimp only
    rw [hr']
    rfl
  refine ⟨fun h => completes_of_exec (hrun true h) ?_, fun h => completes_of_exec (hrun false h) ?_⟩
  · simp only [if_true]
    refine ⟨?_, ?_, ?_, cfg_setReg_self _ _ _ _ (by decide)⟩
    · rw [partOf_setReg, partOf_onPart, if_pos rfl]
    · rw [partOf_setReg, partOf_onPart, if_neg]
      · rfl
      cases s.dev.pow.bootedB <;> decide
    · cases s.dev.pow.bootedB <;> rfl
  · exact ⟨rfl, rfl, cfg_setReg_self _ _ _ _ (by decide)⟩

/-- A trial image is confirmed. -/
theorem imageConfirm_confirms {t : Nat} (ht : s.dev.pow.confirmDeadline = some t) (hprof : s.dev.node.profile ≠ 4) (hready : s.dev.pow.agentReady = true)
    (htrial : (partOf s.dev s.dev.pow.bootedB).state = .trial) : Completes .imageConfirm s fun d => d.now = max s.dev.now t ∧
      partOf d s.dev.pow.bootedB = { partOf s.dev s.dev.pow.bootedB with state := .confirmed } ∧
      d.sec.fwVersion = max s.dev.sec.fwVersion (partOf s.dev s.dev.pow.bootedB).security ∧ d.pow.confirmDeadline = none := by
  generalize ha : onPow (fun p => { p with confirmDeadline := none }) (arrive t s.found) = a
  have hap : a.pow = { s.dev.pow with confirmDeadline := none } := by rw [← ha]; unfold onPow; rw [arrive_pow]; rfl
  have han : a.now = max s.dev.now t := by rw [← ha]; exact arrive_now t s.found
  have has : a.sec = s.dev.sec := by rw [← ha]; exact arrive_sec t s.found
  have hpart : ∀ b, partOf a b = partOf s.dev b := fun b => by unfold partOf; rw [hap]
  have hnode : a.node = s.dev.node := by rw [← ha]; exact arrive_node t s.found
  have hb : a.pow.bootedB = s.dev.pow.bootedB := by rw [hap]
  have hrun : exec .imageConfirm s = s.does fun _ => raise evImageConfirmed noInst
      { onPart a.pow.bootedB (fun p => { p with state := .confirmed }) a with sec := { a.sec with
          fwVersion := max a.sec.fwVersion (partOf (onPart a.pow.bootedB (fun p => { p with state := .confirmed }) a) a.pow.bootedB).security } } := by
    show execImageConfirm s = _
    unfold execImageConfirm
    refine does_congr ?_
    have h : s.found.pow.confirmDeadline = some t := ht
    rw [h]
    dsimp only
    rw [ha, if_pos ?_]
    · rfl
    · rw [hnode, hpart, hap, hready, htrial, decide_eq_true hprof]
      rfl
  refine completes_of_exec hrun ?_
  have hparts := partOf_onPart a.pow.bootedB a.pow.bootedB (fun p => { p with state := .confirmed }) a
  rw [if_pos rfl, hpart, hb] at hparts
  have hconf : (onPart s.dev.pow.bootedB (fun p => { p with state := .confirmed }) a).pow.confirmDeadline = none := by
    unfold onPart onPow
    rw [hap]
    cases s.dev.pow.bootedB <;> rfl
  have hnow : (onPart s.dev.pow.bootedB (fun p => { p with state := .confirmed }) a).now = a.now := rfl
  rw [hb, hparts]
  generalize onPart s.dev.pow.bootedB (fun p => { p with state := .confirmed }) a = c at *
  unfold partOf at hparts ⊢
  rw [raise_now, raise_pow, raise_sec]
  exact ⟨hnow.trans han, hparts, by rw [has], hconf⟩

/-! ### Requests about firmware images (R485, R502) -/

/-- What a request about firmware looks at, of a device that its path has reached. -/
theorem firmware_reached {src : Src} {a : Dev} (h : PathOnly src s.found a) : (bump 0x2003 1 a).pow = s.dev.pow ∧
    (bump 0x2003 1 a).sec = s.dev.sec ∧ cfg (bump 0x2003 1 a) 0x2D04 7 = cfg s.dev 0x2D04 7 :=
  ⟨(bump_pow _ _ _).trans (h.same .pow (by decide)), (bump_sec _ _ _).trans (h.same .sec (by decide)),
    (cfg_bump_ne _ _ _ _ _ (by decide)).trans (h.cfg_free (by unfold PathFree; omega))⟩

/-- What an answer leaves of a status in 0x2D04:07 and of the platform. -/
theorem firmware_answered {src : Src} {b d : Dev} (h : PathOnly src b d) : cfg d 0x2D04 7 = cfg b 0x2D04 7 ∧ d.pow = b.pow :=
  ⟨h.cfg_free (by unfold PathFree; omega), h.same .pow (by decide)⟩

theorem checkWrite_firmwareData {d : Dev} {role : Nat} {off : BitVec 32} {data : List Byte} {row : EntryRow} (hrow : rowOf 0x2D04 5 = some row)
    (hw : row.writes role = true) (hoff : off.toNat ≤ (presentBytes d 0x2D04 5).length) (hlen : off.toNat + data.length ≤ 8388608) :
    checkWrite d role 0x2D04 5 off.toNat data =
      .ok (row, .bytes (if off = 0 then data else splice (presentBytes d 0x2D04 5) off.toNat data)) := by
  obtain rfl : (⟨0x2D04, 1, 1, 0x05, 1, .domain 8388608, 0x0022, .nil, .vol, true, false, .any⟩ : EntryRow) = row := Option.some.inj hrow
  have hl : writeLength d ⟨0x2D04, 1, 1, 0x05, 1, .domain 8388608, 0x0022, .nil, .vol, true, false, .any⟩ 0x2D04 5 off.toNat data =
      .ok (.bytes (if off = 0 then data else splice (presentBytes d 0x2D04 5) off.toNat data)) := by
    simp only [writeLength, if_neg (show ¬ 8388608 < off.toNat + data.length by omega),
      if_neg (show ¬ (presentBytes d 0x2D04 5).length < off.toNat by omega)]
    by_cases h0 : off = 0
    · simp [h0, isTable]
    · have h0' : off.toNat ≠ 0 := fun h => h0 (BitVec.eq_of_toNat_eq h)
      rw [if_neg h0, if_pos ((Bool.or_eq_true _ _).mpr (.inr (decide_eq_true h0')))]
  exact checkWrite_of hrow hw hl rfl rfl

theorem firmwareImageData_places {src : Src} (hs : Served s.dev src) (hm : MayWrite s.dev src 0x2D04 5)
    (hbusy : ¬ (cfg s.dev 0x2D04 7 = 2 ∨ cfg s.dev 0x2D04 7 = 3)) {off : BitVec 32} {data : List Byte}
    (ho : overlong (writeOf src 0x2D04 5 off.toNat data) = false) (hoff : off.toNat ≤ (presentBytes s.dev 0x2D04 5).length)
    (hlen : off.toNat + data.length ≤ 8388608) : Completes (.firmwareImageData src off data) s fun d => WriteAnswered d src 0x2D04 5 0 ∧
      cfg d 0x2D04 7 = 1 ∧ d.pow.fwImage = if off = 0 then data else splice (presentBytes s.dev 0x2D04 5) off.toNat data := by
  obtain ⟨row, hrow, hw⟩ := hm
  have hrow' : (⟨0x2D04, 1, 1, 0x05, 1, .domain 8388608, 0x0022, .nil, .vol, true, false, .any⟩ : EntryRow) = row := Option.some.inj hrow
  refine completes_imm (c := .firmwareImageData src off data) rfl hs ho (by decide) (checkWrite_firmwareData hrow hw hoff hlen) (by rw [← hrow'])
    (by decide) fun a ha => ?_
  obtain ⟨hp, -, hc⟩ := firmware_reached ha.pathOnly
  generalize (if off = 0 then data else splice (presentBytes s.dev 0x2D04 5) off.toNat data) = bs
  have hact : ∀ x : Dev, actOn (writeOf src 0x2D04 5 off.toNat data) (roleOf s.dev src) (.bytes bs) x =
      Act.when (decide (cfg x 0x2D04 7 ≠ 2) && decide (cfg x 0x2D04 7 ≠ 3)) (setReg 0x2D04 7 1 (onPow (fun p => { p with fwImage := bs }) x)) := fun _ => rfl
  have hfree : (decide (cfg (bump 0x2003 1 a) 0x2D04 7 ≠ 2) && decide (cfg (bump 0x2003 1 a) 0x2D04 7 ≠ 3)) = true := by
    rw [hc]
    simpa using hbusy
  rw [onlyIf, if_pos (show (!(decide (0x2D04 = 0x2011) && decide (5 = 2) && _)) = true from rfl), hact, Act.when, if_pos hfree]
  obtain ⟨⟨a', -, hd⟩, hans⟩ := ha.acts (A := [.regs, .pow]) (f := fun x => setReg 0x2D04 7 1 (onPow (fun p => { p with fwImage := bs }) x))
    (setReg_framed _ _ _ _ (by decide) (onPow_framed _ _ (by decide) (.refl _ _))) (by decide) (by decide) 0x2D04 5
  obtain ⟨h7, hpow⟩ := firmware_answered hd
  exact ⟨hans, h7.trans (cfg_setReg_self _ _ _ _ (by decide)), congrArg PowerS.fwImage hpow⟩

/-- VERIFY_AND_WRITE acts by what is under way and by the verdict. -/
theorem completes_verify {src : Src} (hs : Served s.dev src) (hm : MayWrite s.dev src 0x2D04 6) {P : Dev → Prop}
    (hP : ∀ a, Reached src s.found a → P (finishAct src 0x2D04 6 a (firmwareAct (bump 0x2003 1 a)))) : Completes (.verifyAndWrite src) s P :=
  completes_num (c := .verifyAndWrite src) (n := 1) (v := 1) rfl hs hm rfl rfl (by decide) rfl rfl (by decide) (by decide) (by decide)
    (fun h => absurd h.1 (by decide)) fun a ha => hP a ha

theorem verifyAndWrite_busy {src : Src} (hs : Served s.dev src) (hm : MayWrite s.dev src 0x2D04 6)
    (hbusy : cfg s.dev 0x2D04 7 = 2 ∨ cfg s.dev 0x2D04 7 = 3) : Completes (.verifyAndWrite src) s (RefusedWith s src 0x2D04 6 0x08000022) :=
  completes_verify hs hm fun a ha => by
    have hact : firmwareAct (bump 0x2003 1 a) = .refuse 0x08000022 id := if_pos (by
      rw [(firmware_reached ha.pathOnly).2.2]
      simpa using hbusy)
    rw [hact]
    exact ha.refused 0x2D04 6 _

theorem firmwareAct_free {src : Src} {a : Dev} (h : PathOnly src s.found a) (hbusy : ¬ (cfg s.dev 0x2D04 7 = 2 ∨ cfg s.dev 0x2D04 7 = 3)) :
    firmwareAct (bump 0x2003 1 a) = if firmwareVerdict s.dev s.dev.pow.fwImage = 0 then .done (firmwareStart (bump 0x2003 1 a))
      else if firmwareVerdict s.dev s.dev.pow.fwImage = 0x0F000007 then .refuse 0x0F000007 (fun x => setReg 0x2D04 7 5 (refuseSignature x))
      else .refuse (firmwareVerdict s.dev s.dev.pow.fwImage) (setReg 0x2D04 7 6) := by
  obtain ⟨hp, hsec, hc⟩ := firmware_reached h
  have hv : firmwareVerdict (bump 0x2003 1 a) (bump 0x2003 1 a).pow.fwImage = firmwareVerdict s.dev s.dev.pow.fwImage := by
    rw [firmwareVerdict_congr hsec hp, hp]
  unfold firmwareAct
  rw [if_neg (by rw [hc]; simpa using hbusy), hv]
  generalize firmwareVerdict s.dev s.dev.pow.fwImage = n
  split
  · rfl
  · rfl
  · next h0 h7 => rw [if_neg h0, if_neg h7]

theorem verifyAndWrite_starts {src : Src} (hs : Served s.dev src) (hm : MayWrite s.dev src 0x2D04 6)
    (hbusy : ¬ (cfg s.dev 0x2D04 7 = 2 ∨ cfg s.dev 0x2D04 7 = 3)) (hv : firmwareVerdict s.dev s.dev.pow.fwImage = 0) :
    Completes (.verifyAndWrite src) s fun d => WriteAnswered d src 0x2D04 6 0 ∧ cfg d 0x2D04 7 = 3 ∧
      d.pow.fwWriting = some (firmwarePartition s.dev s.dev.pow.fwImage) ∧
      partOf d (!s.dev.pow.bootedB) = { partOf s.dev (!s.dev.pow.bootedB) with magicOk := false } :=
  completes_verify hs hm fun a ha => by
    obtain ⟨hp, -, -⟩ := firmware_reached ha.pathOnly
    rw [firmwareAct_free ha.pathOnly hbusy, hv, if_pos rfl]
    have hready : Ready (bump 0x2003 1 a) src := ha.ready.framed (A := [.regs]) (bump_framed _ _ _ (by decide) (.refl _ _)) (by decide) (by decide)
    obtain ⟨hd, hans⟩ := answerWrite_ready hready (A := [.regs, .pow]) (firmwareStart_framed (bump 0x2003 1 a) (by decide) (.refl _ _)) (by decide)
      (by decide) 0x2D04 6 0
    obtain ⟨h7, hpow⟩ := firmware_answered hd
    show WriteAnswered (answerWrite src 0x2D04 6 0 (firmwareStart (bump 0x2003 1 a))) src 0x2D04 6 0 ∧ _
    refine ⟨hans, h7.trans (cfg_setReg_self _ _ _ _ (by decide)), ?_, ?_⟩
    · rw [show (finishAct src 0x2D04 6 a (.done (firmwareStart (bump 0x2003 1 a)))).pow = _ from hpow, ← firmwarePartition_congr hp, ← hp]
      generalize bump 0x2003 1 a = b
      unfold firmwareStart
      cases hb : b.pow.bootedB <;> simp [onPart, onPow, setReg, hb]
    · unfold partOf
      rw [show (finishAct src 0x2D04 6 a (.done (firmwareStart (bump 0x2003 1 a)))).pow = _ from hpow, ← hp]
      generalize bump 0x2003 1 a = b
      unfold firmwareStart
      cases hb : b.pow.bootedB <;> simp [onPart, onPow, setReg, hb]

/-- An image that fails the verification is refused with its verdict. -/
theorem verifyAndWrite_fails {src : Src} (hs : Served s.dev src) (hm : MayWrite s.dev src 0x2D04 6)
    (hbusy : ¬ (cfg s.dev 0x2D04 7 = 2 ∨ cfg s.dev 0x2D04 7 = 3)) {code : Nat} (h0 : code ≠ 0) (hv : firmwareVerdict s.dev s.dev.pow.fwImage = code) :
    Completes (.verifyAndWrite src) s fun d => WriteAnswered d src 0x2D04 6 code ∧ cfg d 0x2D04 7 = (if code = 0x0F000007 then 5 else 6) ∧
      d.pow = s.dev.pow := by
  have hrefuse : ∀ (n : Nat) (f : Dev → Dev) (a : Dev), Reached src s.found a → Framed [.out, .regs, .recd, .ints, .counters] a (f a) →
      cfg (f a) 0x2D04 7 = n → let d := refuseWrite src 0x2D04 6 code (f a)
      WriteAnswered d src 0x2D04 6 code ∧ cfg d 0x2D04 7 = n ∧ d.pow = s.dev.pow := fun n f a ha hf hn => by
    obtain ⟨hd, hans⟩ := refuseWrite_ready (ha.ready.framed hf (by decide) (by decide)) 0x2D04 6 code
    obtain ⟨h7, hpow⟩ := firmware_answered hd
    refine ⟨hans, h7.trans ?_, hpow.trans ?_⟩
    · rw [countRefusal, cfg_setReg_ne _ _ _ _ _ _ (by decide), cfg_setReg_ne _ _ _ _ _ _ (by decide)]
      refine (cfg_bump_ne _ _ _ _ _ ?_).trans hn
      unfold refusalCounter
      split_ifs <;> decide
    · rw [show (countRefusal false 0x2D04 6 code (f a)).pow = (f a).pow from rfl, show (f a).pow = a.pow from hf.same .pow (by decide)]
      exact ha.pathOnly.same .pow (by decide)
  refine completes_verify hs hm fun a ha => ?_
  rw [firmwareAct_free ha.pathOnly hbusy, hv, if_neg h0]
  by_cases h7 : code = 0x0F000007
  · subst h7
    exact hrefuse 5 (fun x => setReg 0x2D04 7 5 (refuseSignature x)) a ha
      (setReg_framed _ _ _ _ (by decide) (refuseSignature_framed _ (by decide) (.refl _ _))) (cfg_setReg_self _ _ _ _ (by decide))
  · rw [if_neg h7, if_neg h7]
    exact hrefuse 6 (setReg 0x2D04 7 6) a ha (setReg_framed _ _ _ _ (by decide) (.refl _ _)) (cfg_setReg_self _ _ _ _ (by decide))

theorem firmwareAbandon_drops {src : Src} (hs : Served s.dev src) (hm : MayWrite s.dev src 0x2D04 6) (hvalid : s.dev.Valid) :
    Completes (.firmwareAbandon src) s fun d => WriteAnswered d src 0x2D04 6 0 ∧ cfg d 0x2D04 7 = 0 ∧
      d.pow = { s.dev.pow with fwWriting := none, fwImage := [] } := by
  refine completes_done (c := .firmwareAbandon src) (n := 1) (v := 2) (A := [.regs, .pow]) (f := firmwareDrop) rfl hs hm rfl rfl (by decide) rfl rfl
    (by decide) (by decide) (by decide) (fun h => absurd h.1 (by decide)) (fun _ => rfl) (fun d => firmwareDrop_framed d (by decide) (.refl _ d))
    (by decide) (by decide) fun a d ha hv hd _ hans => ?_
  obtain ⟨h7, hpow⟩ := firmware_answered hd
  have hwf : Store.wf odDefault (bump 0x2003 1 a).dict.od = true := (bump_kept 0x2003 1 a (hv hvalid).kept).dict.od
  refine ⟨hans, h7.trans (cfg_setReg_wf _ _ _ _ hwf), hpow.trans ?_⟩
  rw [← (firmware_reached ha).1]
  rfl

end firmware

/-! ### INT_STATUS through SAFE_N's rise -/

theorem IntsStand.after {a b c : Dev} (h : IntsStand b c) (he : b.host.intStatus = a.host.intStatus) : IntsStand a c :=
  (IntsStand.of_eq he).trans h

theorem IntsStand.bump {a b : Dev} (h : IntsStand a b) (idx sub : Nat) : IntsStand a (bump idx sub b) := h

section stands

variable (d : Dev)

theorem sendClaim_stands : IntsStand d (sendClaim d) :=
  (createSc_framed (L := [.out, .regs, .inaug, .queues, .counters]) _ _ _ (by decide)
    (onInaug_framed _ d (by decide) (.refl _ d))).intsStand (by decide)

theorem enterRound_stands (round : BitVec 16) (lowest : Word48) (revealed : List Port) : IntsStand d (enterRound round lowest revealed d) := by
  unfold enterRound
  dsimp only
  refine IntsStand.trans ?_ (sendClaim_stands _)
  exact (timeRoundStart_framed (L := [.inaug, .sched, .strm, .time]) _ _ (by decide) (onInaug_framed _ _ (by decide)
    (dropCommit_framed d (by decide) (.refl _ d)))).intsStand (by decide)

theorem startRound_stands (revealed : List Port) : IntsStand d (startRound revealed d) := by
  unfold startRound startRoundFrom
  refine IntsStand.trans ?_ (enterRound_stands _ _ _ _)
  exact (bump_framed (L := [.inaug, .regs]) _ _ _ (by decide) (onInaug_framed _ d (by decide) (.refl _ d))).intsStand (by decide)

theorem joinRound_stands (since : Nat) (round : BitVec 16) (claimed : Word48) : IntsStand d (joinRound since round claimed d) := by
  unfold joinRound
  refine IntsStand.trans ?_ (enterRound_stands _ _ _ _)
  exact .ite (.of_eq rfl) (.of_eq rfl)

theorem joinHeld_stands : IntsStand d (joinHeld d) := by
  unfold joinHeld
  split
  · exact .of_eq rfl
  · refine .ite ?_ (.of_eq rfl)
    exact (joinRound_stands _ _ _ _).after rfl

theorem askCommit_stands : IntsStand d (askCommit d) := by
  unfold askCommit
  dsimp only
  split
  · refine IntsStand.trans ?_ (joinHeld_stands _)
    exact (startRound_stands _ _).after rfl
  · refine Framed.intsStand (A := [.out, .regs, .inaug, .queues, .counters]) ?_ (by decide)
    exact createSc_framed _ _ _ (by decide) (onInaug_framed _ d (by decide) (.refl _ d))

theorem noteSilence_stands : IntsStand d (noteSilence d) := by
  have hall : ∀ (l : List Nat) e, IntsStand e (forEach l (fun _ => raise evSilentSide noInst) e) := fun l e => by
    induction l generalizing e with
    | nil => exact fun _ h => h
    | cons x l ih => exact (raise_stands _ _ e).trans (ih _)
  exact (hall _ _).after rfl

theorem judgeSleep_stands : IntsStand d (judgeSleep d) := by
  have h := noteSilence_stands d
  have hpoke : ∀ e, IntsStand e (pokeKeepAlive e) := fun e =>
    (pokeKeepAlive_framed (L := [.sleep]) e (by decide) (.refl _ e)).intsStand (by decide)
  have habort : ∀ e, IntsStand e (abortSleep e) := fun e => (raise_stands evSleepAborted noInst _).after rfl
  unfold judgeSleep
  dsimp only
  generalize noteSilence d = e at *
  split
  · exact .ite (h.trans ((hpoke _).after rfl)) (h.trans (hpoke e))
  · exact .ite ((h.trans (habort e)).trans (hpoke _)) (h.trans (hpoke e))
  · exact h

theorem inaugSafeHigh_stands : IntsStand d (inaugSafeHigh d) :=
  .ite ((askCommit_stands d).trans (judgeSleep_stands _)) fun _ h => h

/-! #### The time of the train (R205, R207) -/

theorem setTimeState_stands (st : TimeState) : IntsStand d (setTimeState st d) :=
  .ite (fun _ h => h) ((setInt_stands 7 _).after rfl)

theorem noteGm_stands (gm : BitVec 64) : IntsStand d (noteGm gm d) :=
  .ite (fun _ h => h) ((raise_stands evGmChanged noInst _).after rfl)

theorem disarm_stands : IntsStand d (disarm d) := by
  unfold disarm
  split
  · refine IntsStand.bump ?_ _ _
    exact (raise_stands evStepDisarmed noInst _).after rfl
  · exact fun _ h => h

theorem enterHoldover_stands : IntsStand d (enterHoldover d) := by
  unfold enterHoldover
  refine IntsStand.trans ?_ (raise_stands evHoldover noInst _)
  refine IntsStand.bump ?_ _ _
  exact (setTimeState_stands _ .holdover).after rfl

theorem followMaster_stands (p : Port) (a : AnnounceMsg) : IntsStand d (followMaster p a d) := by
  have hnote := noteGm_stands d a.gm
  unfold followMaster
  dsimp only
  generalize noteGm a.gm d = e at *
  generalize hf : assignRoles _ _ _ = f
  have h : IntsStand d f := by
    rw [← hf]
    exact hnote.trans (.of_eq rfl)
  refine .ite (h.trans ((enterHoldover_stands _).after rfl)) (.ite ?_ h)
  split
  · exact h.trans (enterHoldover_stands f)
  · exact h.trans (enterHoldover_stands f)
  · exact (h.trans (disarm_stands f)).trans (enterHoldover_stands _)
  · exact h

theorem becomeGrandmaster_stands : IntsStand d (becomeGrandmaster d) := by
  have h := (disarm_stands d).trans (noteGm_stands _ (ownAnnounce d).gm)
  have hsend : ∀ e, IntsStand e (sendSync (sendAnnounce e)) := fun e =>
    (sendSync_framed (L := [.fresh, .out, .regs, .queues, .time, .counters]) _ (by decide)
      (sendAnnounce_framed e (by decide) (.refl _ e))).intsStand (by decide)
  unfold becomeGrandmaster
  dsimp only
  generalize noteGm (ownAnnounce d).gm (disarm d) = e at *
  generalize hf : assignRoles _ _ _ = f
  have hs : IntsStand d (setTimeState .grandmaster f) := by
    rw [← hf]
    exact h.trans ((setTimeState_stands _ .grandmaster).after rfl)
  exact .ite (hs.trans (hsend _)) hs

theorem runBmca_stands : IntsStand d (runBmca d) := by
  unfold runBmca
  refine .ite (fun _ h => h) ?_
  split
  · exact .ite (followMaster_stands d _ _) (.ite (becomeGrandmaster_stands d) (followMaster_stands d _ _))
  · exact .ite (becomeGrandmaster_stands d) fun _ h => h

theorem settleSafe_stands : IntsStand d (settleSafe d) := by
  have h : IntsStand d (setInt 27 (onPow (fun p => { p with safeN := safeWanted d }) d)) := (setInt_stands 27 _).after rfl
  unfold settleSafe
  dsimp only
  refine .ite (fun _ h => h) ?_
  generalize setInt 27 _ = e at *
  refine .ite ?_ h
  have hsafe := h.trans (inaugSafeHigh_stands e)
  unfold onlyIf
  exact .ite (hsafe.trans (runBmca_stands _)) hsafe

/-- SAFE_N alone follows of the platform's record. -/
theorem settleSafe_pow : (settleSafe d).pow = { d.pow with safeN := safeWanted d } := by
  have hhigh : ∀ e, (inaugSafeHigh e).pow = e.pow := fun e =>
    (inaugSafeHigh_framed (L := [.out, .regs, .inaug, .queues, .time, .sched, .strm, .recd, .sleep, .host, .ints, .counters]) e (by decide)
      (.refl _ e)).same .pow (by decide)
  have hbmca : ∀ e, (runBmca e).pow = e.pow := fun e =>
    (runBmca_framed (L := [.fresh, .out, .regs, .queues, .time, .recd, .ints, .counters]) e (by decide) (.refl _ e)).same .pow (by decide)
  unfold settleSafe
  dsimp only
  split
  · next h => rw [← h]
  · generalize he : setInt 27 (onPow (fun p => { p with safeN := safeWanted d }) d) = e
    have hp : e.pow = { d.pow with safeN := safeWanted d } := by
      rw [← he, setInt_pow]
      rfl
    unfold onlyIf
    split
    · split
      · rw [hbmca, hhigh, hp]
      · rw [hhigh, hp]
    · exact hp

theorem plannerGate_ints : (plannerGate d).pow = d.pow ∧ (plannerGate d).host = d.host ∧ (plannerGate d).dict = d.dict := by
  unfold plannerGate
  split_ifs <;> exact ⟨rfl, rfl, rfl⟩

end stands

end Sys2Proof.Machine
end

section
/-! PROOF. The end of a boot (R489, R491). -/

namespace Sys2Proof.Machine

/-! ### Stores filled entry by entry -/

section stores

variable {α : Type} [DecidableEq α] {dflt : Nat → α}

/-- What is put leaves the other keys. -/
theorem Store.find_puts_other {k : Nat} (l m : List (Nat × α)) (h : ∀ x ∈ l, x.1 ≠ k) :
    Store.find dflt (l.foldl (fun m x => Store.put dflt m x.1 x.2) m) k = Store.find dflt m k := by
  induction l generalizing m with
  | nil => rfl
  | cons x l ih =>
    exact (ih _ fun y hy => h y (.tail _ hy)).trans (Store.find_put_other _ _ _ _ (h x (.head _)).symm)

/-- The entries of a canonical store put one after the other into a store that lacks them read as in that store. -/
theorem Store.find_puts {k : Nat} {l : List (Nat × α)} (hl : Store.wf dflt l = true) (m : List (Nat × α)) (hm : Store.find dflt m k = dflt k) :
    Store.find dflt (l.foldl (fun m x => Store.put dflt m x.1 x.2) m) k = Store.find dflt l k := by
  induction l generalizing m with
  | nil => exact hm
  | cons x l ih =>
    obtain ⟨k', v⟩ := x
    obtain ⟨hv, habove, hl'⟩ := (Store.wf_cons k' v l).mp hl
    by_cases hk : k' = k
    · subst hk
      refine (Store.find_puts_other l _ fun y hy => (Nat.ne_of_lt (habove y hy)).symm).trans ?_
      rw [Store.find_put_nondefault _ _ _ _ hv, Store.find, if_pos rfl]
    · refine (ih hl' _ ((Store.find_put_other _ _ _ _ (Ne.symm hk)).trans hm)).trans ?_
      rw [Store.find, if_neg hk]

omit [DecidableEq α] in
/-- A key that the filter drops reads as its default. -/
theorem Store.find_dropped {k : Nat} {keep : Nat → Bool} (hk : keep k = false) (m : List (Nat × α)) :
    Store.find dflt (m.filter (fun x => keep x.1)) k = dflt k := by
  induction m with
  | nil => rfl
  | cons x m ih =>
    rw [List.filter_cons]
    split
    · next h =>
      obtain ⟨k', v⟩ := x
      have hne : k' ≠ k := fun e => by
        subst e
        rw [hk] at h
        exact Bool.false_ne_true h
      rw [Store.find, if_neg hne, ih]
    · exact ih

end stores

/-! ### The stored entries and the copies (R48, R491) -/

/-- Stored entries, tables and copies stand. -/
structure Loaded (a b : Dev) : Prop where
  entries : ∀ k, isStored k = true → Store.find odDefault b.dict.od k = Store.find odDefault a.dict.od k
  mem : b.dict.mem = a.dict.mem
  copies : (b.dict.copy0, b.dict.copy1) = (a.dict.copy0, a.dict.copy1)

section loaded

variable {a b c d : Dev}

theorem Loaded.refl (d : Dev) : Loaded d d := ⟨fun _ _ => rfl, rfl, rfl⟩

theorem Loaded.trans (h1 : Loaded a b) (h2 : Loaded b c) : Loaded a c :=
  ⟨fun k hk => (h2.entries k hk).trans (h1.entries k hk), h2.mem.trans h1.mem, h2.copies.trans h1.copies⟩

theorem Loaded.of_dict (h : b.dict = a.dict) : Loaded a b := ⟨fun _ _ => by rw [h], by rw [h], by rw [h]⟩

theorem Loaded.after (h : Loaded b c) (he : b.dict = a.dict) : Loaded a c := (Loaded.of_dict he).trans h

/-- What writes no stored entry and leaves tables and copies alone. -/
theorem RegsFramed.loaded {L : List (Nat × Nat)} {A : List Part} (h : RegsFramed L a b) (hL : ∀ r ∈ L, isStored (odKey r.1 r.2) = false)
    (hf : Framed A a b) (h1 : Part.tables ∉ A) (h2 : Part.stored ∉ A) : Loaded a b where
  entries k hk := (h k).resolve_left fun ⟨r, hr, he⟩ => by
    have := hL r hr
    rw [he, hk] at this
    exact Bool.false_ne_true this.symm
  mem := hf.same .tables h1
  copies := hf.same .stored h2

theorem raise_loaded (ev : Ev) (inst : Nat) (d : Dev) : Loaded d (raise ev inst d) :=
  (raise_regs ev inst d).loaded (by decide) (A := [.out, .regs, .recd, .ints, .counters]) (raise_framed _ _ d (by decide) (.refl _ d))
    (by decide) (by decide)

theorem setReg_loaded {idx sub : Nat} (h : isStored (odKey idx sub) = false) (v : Nat) (d : Dev) : Loaded d (setReg idx sub v d) where
  entries k hk := Store.find_put_other _ _ _ _ fun e => by
    rw [← e, hk] at h
    exact Bool.false_ne_true h.symm
  mem := rfl
  copies := rfl

theorem answerWrite_loaded (src : Src) (idx sub code : Nat) (d : Dev) : Loaded d (answerWrite src idx sub code d) := by
  have hpath : PathOnly src d (answerWrite src idx sub code d) := answer_pathOnly _ _ _
  exact hpath.regs.loaded (by decide +kernel) hpath.framed (by decide) (by decide)

theorem onlyIf_loaded {f : Dev → Dev} (c : Bool) (h : Loaded d (f d)) : Loaded d (onlyIf c f d) := by
  unfold onlyIf
  split
  exacts [h, .refl d]

theorem pmbusBoot_loaded (d : Dev) : Loaded d (pmbusBoot d) := by
  have hreg : ∀ v e, Loaded e (setReg 0x2D02 3 v e) := fun v e => setReg_loaded (by decide) v e
  unfold pmbusBoot
  dsimp only
  split
  · exact (hreg 2 _).after rfl
  · split
    · exact (hreg 1 _).after rfl
    · refine Loaded.trans ?_ (raise_loaded evPmbus noInst _)
      exact (hreg 2 _).after rfl

/-- The committed stored entries are those of the valid copy, or the defaults where there is none. -/
theorem loadStored_loads (d : Dev) : ∃ e, Loaded e (loadStored d) ∧ e.dict.copy0 = d.dict.copy0 ∧ e.dict.copy1 = d.dict.copy1 ∧
    (bootCopy d = none → e.dict.mem = [] ∧ ∀ k, isStored k = true → Store.find odDefault e.dict.od k = odDefault k) ∧
    ∀ c, bootCopy d = some c → e.dict.mem = c.tables ∧ (d.Valid → ∀ k, isStored k = true →
      Store.find odDefault e.dict.od k = Store.find odDefault c.values k) := by
  have hdrop : ∀ k, isStored k = true → Store.find odDefault (d.dict.od.filter (fun x => !isStored x.1)) k = odDefault k := fun k hk =>
    Store.find_dropped (keep := fun k => !isStored k) (by rw [hk]; rfl) d.dict.od
  cases hc : bootCopy d with
  | none =>
    refine ⟨{ d with dict := { d.dict with od := d.dict.od.filter (fun x => !isStored x.1), mem := [] } }, ?_, rfl, rfl,
      fun _ => ⟨rfl, hdrop⟩, fun c h => nomatch h⟩
    unfold loadStored
    rw [hc]
    exact raise_loaded _ _ _
  | some c =>
    refine ⟨loadStored d, .refl _, ?_, ?_, (nomatch ·), fun c' h => ?_⟩
    · unfold loadStored
      rw [hc]
    · unfold loadStored
      rw [hc]
    · obtain rfl := Option.some.inj h
      refine ⟨?_, fun hv k hk => ?_⟩
      · unfold loadStored
        rw [hc]
      · have hwf : Store.wf odDefault c.values = true := by
          have hcopies : c = d.dict.copy0 ∨ c = d.dict.copy1 := by
            unfold bootCopy at hc
            dsimp only at hc
            split at hc
            · exact .inl (Option.some.inj hc).symm
            · split at hc
              · exact .inr (Option.some.inj hc).symm
              · nomatch hc
          rcases hcopies with rfl | rfl
          exacts [hv.kept.dict.values0, hv.kept.dict.values1]
        unfold loadStored
        rw [hc]
        refine (Store.find_puts (Store.filter_wf _ _ hwf) _ (hdrop k hk)).trans ?_
        exact Store.find_filter hk c.values

end loaded

/-! ### The control complex is ready (R489, R491) -/

section ready

variable {s : State}

/-- Up, the agent gives the answer that it owes, and the watchdog and HOST_STATUS bit 0 begin. -/
theorem agentUp_ups (d : Dev) : ∃ o, Loaded d o ∧ o.now = d.now ∧ o.sec = d.sec ∧ o.pow = d.pow ∧
    (∀ k < 256, cfg o 0x2D03 k = cfg d 0x2D03 k) ∧
    agentUp d = feedWatchdog (setInt 2 (onPow (fun p => { p with agentReady := true, readyDeadline := none }) o)) := by
  cases ho : d.dict.owed with
  | none => exact ⟨d, .refl d, rfl, rfl, rfl, fun _ _ => rfl, by unfold agentUp; rw [ho]⟩
  | some x =>
    obtain ⟨src, code⟩ := x
    have hpath : PathOnly src (onDict (fun q => { q with owed := none }) d) (answerWrite src 0x2002 1 code (onDict (fun q => { q with owed := none }) d)) :=
      answer_pathOnly _ _ _
    refine ⟨answerWrite src 0x2002 1 code (onDict (fun q => { q with owed := none }) d), ?_, hpath.now, hpath.same .sec (by decide),
      hpath.same .pow (by decide), fun k hk => hpath.cfg_free (by unfold PathFree; omega), by unfold agentUp; rw [ho]⟩
    exact Loaded.trans (b := onDict (fun q => { q with owed := none }) d) ⟨fun _ _ => rfl, rfl, rfl⟩ (answerWrite_loaded _ _ _ _ _)

theorem agentUp_loaded (d : Dev) : Loaded d (agentUp d) := by
  obtain ⟨o, h, -, -, -, -, he⟩ := agentUp_ups d
  rw [he]
  exact h.trans (.of_dict (setInt_dict 2 _))

/-- What the readiness of the control complex starts when it does not follow a restart of Watching. -/
def readyTimed (st : RecoverySeq) (d : Dev) : Dev :=
  if st ≠ .watching then
    onPow (fun p => { p with
      stableDeadline := some (d.now + setting d 0x2D03 3 * sNs), seqState := if p.seqState = .holding then .watching else p.seqState }) d
  else d

/-- The last steps after the agent is up. -/
def readyDone (st : RecoverySeq) (d : Dev) : Dev :=
  plannerGate (settleSafe (onlyIf (st = .holding) (raise evRestarted noInst) (readyTimed st d)))

theorem exec_controlComplexReady {x : Dev} (hready : s.dev.pow.agentReady = false) (hdl : s.dev.pow.readyDeadline ≠ none)
    (hx : (if s.dev.pow.booted then agentUp s.found else if s.dev.pow.bootStep = 3 then bootStep8 s.found else s.found) = x)
    (hup : x.pow.agentReady = true) : exec .controlComplexReady s = s.does fun _ => readyDone s.dev.pow.seqState x := by
  show execControlComplexReady s = _
  unfold execControlComplexReady
  refine does_congr ?_
  have hp : s.found.pow = s.dev.pow := rfl
  have hn : (s.dev.pow.agentReady || s.dev.pow.readyDeadline.isNone) = false := by
    rw [hready]
    cases h : s.dev.pow.readyDeadline with
    | none => exact absurd h hdl
    | some t => rfl
  rw [hp, if_neg (by rw [hn]; decide)]
  dsimp only
  rw [hx, hup]
  unfold readyDone readyTimed
  simp

theorem readyDone_leaves (st : RecoverySeq) (x : Dev) : let e := readyDone st x
    IntsStand x e ∧ ∃ v, e.pow = { (readyTimed st x).pow with safeN := v } := by
  have h1 : IntsStand x (onlyIf (st = .holding) (raise evRestarted noInst) (readyTimed st x)) := by
    have ht : IntsStand x (readyTimed st x) := .ite (.of_eq rfl) fun _ h => h
    unfold onlyIf
    exact .ite (ht.trans (raise_stands _ _ _)) ht
  have hp1 : (onlyIf (st = .holding) (raise evRestarted noInst) (readyTimed st x)).pow = (readyTimed st x).pow :=
    onlyIf_sleep (fun d => d.pow) _ _ (raise_pow _ _ _)
  unfold readyDone
  dsimp only
  generalize onlyIf (st = .holding) (raise evRestarted noInst) (readyTimed st x) = y at *
  obtain ⟨hp, hh, -⟩ := plannerGate_ints (settleSafe y)
  refine ⟨(h1.trans (settleSafe_stands y)).trans (.of_eq (by rw [hh])), safeWanted y, ?_⟩
  rw [hp, settleSafe_pow, hp1]

/-- After a restart with the boot behind it. -/
theorem controlComplexReady_again (hready : s.dev.pow.agentReady = false) (hdl : s.dev.pow.readyDeadline ≠ none) (hb : s.dev.pow.booted = true) :
    Completes .controlComplexReady s fun d => d.pow.agentReady = true ∧ d.host.intStatus.getLsbD 2 = true ∧ d.pow.readyDeadline = none ∧
      d.pow.watchdogDeadline = (if s.dev.sec.halted then none else some (s.dev.now + cfg s.dev 0x2D03 1 * msNs)) ∧
      (s.dev.pow.seqState = .holding → d.pow.seqState = .watching ∧
        d.pow.stableDeadline = some (s.dev.now + cfg s.dev 0x2D03 3 * sNs)) ∧
      (s.dev.pow.seqState ≠ .holding → d.pow.seqState = s.dev.pow.seqState) := by
  obtain ⟨o, -, hn, hsec, hp, hc, he⟩ := agentUp_ups s.found
  have hset : ∀ (f : PowerS → PowerS) k, k < 256 → (f s.dev.pow).booted = true → setting (setInt 2 (onPow f o)) 0x2D03 k = cfg s.dev 0x2D03 k :=
    fun f k hk hf => by
      have hpow : (setInt 2 (onPow f o)).pow = f s.dev.pow := by
        rw [setInt_pow]
        exact congrArg f hp
      unfold setting
      rw [hpow, if_pos hf, cfg_of_dict (setInt_dict 2 _)]
      exact hc k hk
  have hbit : (agentUp s.found).host.intStatus.getLsbD 2 = true := by
    rw [he]
    exact setInt_bit (by decide) _
  have hpow : (agentUp s.found).pow = { s.dev.pow with
      agentReady := true, readyDeadline := none
      watchdogDeadline := if s.dev.sec.halted then none else some (s.dev.now + cfg s.dev 0x2D03 1 * msNs) } := by
    have hw := hset (fun p => { p with agentReady := true, readyDeadline := none }) 1 (by decide) hb
    have hsec' : (setInt 2 (onPow (fun p => { p with agentReady := true, readyDeadline := none }) o)).sec = s.dev.sec := by
      rw [setInt_sec]
      exact hsec
    have hn' : (setInt 2 (onPow (fun p => { p with agentReady := true, readyDeadline := none }) o)).now = s.dev.now := by
      rw [setInt_now]
      exact hn
    have hp' : (setInt 2 (onPow (fun p => { p with agentReady := true, readyDeadline := none }) o)).pow =
        { s.dev.pow with agentReady := true, readyDeadline := none } := by
      rw [setInt_pow]
      exact congrArg (fun p : PowerS => { p with agentReady := true, readyDeadline := none }) hp
    rw [he]
    generalize setInt 2 (onPow (fun p => { p with agentReady := true, readyDeadline := none }) o) = z at *
    unfold feedWatchdog onPow
    rw [hsec', hn', hp', hw]
  have hstable : (agentUp s.found).now + setting (agentUp s.found) 0x2D03 3 * sNs = s.dev.now + cfg s.dev 0x2D03 3 * sNs := by
    have h3 : cfg (agentUp s.found) 0x2D03 3 = cfg s.dev 0x2D03 3 := by
      rw [he]
      exact (cfg_of_dict (setInt_dict 2 _) _ _).trans (hc 3 (by decide))
    have hnow : (agentUp s.found).now = s.dev.now := by
      rw [he]
      exact (setInt_now 2 _).trans hn
    unfold setting
    rw [hpow, if_pos hb, h3, hnow]
  have hrun := exec_controlComplexReady (x := agentUp s.found) hready hdl (if_pos hb) (by rw [hpow])
  refine completes_of_exec hrun ?_
  obtain ⟨hstand, v, hdone⟩ := readyDone_leaves s.dev.pow.seqState (agentUp s.found)
  generalize readyDone s.dev.pow.seqState (agentUp s.found) = w at *
  have htimed : (readyTimed s.dev.pow.seqState (agentUp s.found)).pow = if s.dev.pow.seqState ≠ .watching then
      { (agentUp s.found).pow with
        stableDeadline := some (s.dev.now + cfg s.dev 0x2D03 3 * sNs)
        seqState := if s.dev.pow.seqState = .holding then .watching else s.dev.pow.seqState }
    else (agentUp s.found).pow := by
    unfold readyTimed
    split
    · unfold onPow
      rw [hstable, hpow]
    · rfl
  rw [hdone, htimed, hpow]
  refine ⟨?_, hstand 2 hbit, ?_, ?_, fun h => ?_, fun h => ?_⟩
  · split <;> rfl
  · split <;> rfl
  · split <;> rfl
  · rw [h]
    exact ⟨rfl, rfl⟩
  · by_cases hw : s.dev.pow.seqState = .watching
    · rw [if_neg (not_not.mpr hw)]
    · rw [if_pos hw]
      exact if_neg h

/-- At the end of the boot the stored entries are those of the valid copy. -/
theorem bootStep8_loads (d : Dev) (hb : d.pow.booted = false) : let e := bootStep8 d
    e.pow.agentReady = true ∧ e.pow.bootStep = 8 ∧ e.pow.booted = false ∧ ∃ f, Loaded f e ∧ f.dict.copy0.marked = false ∧ f.dict.copy1.marked = false ∧
      (bootCopy d = none → f.dict.mem = [] ∧ ∀ k, isStored k = true → Store.find odDefault f.dict.od k = odDefault k) ∧
      ∀ c, bootCopy d = some c → f.dict.mem = c.tables ∧ (d.Valid → ∀ k, isStored k = true →
        Store.find odDefault f.dict.od k = Store.find odDefault c.values k) := by
  obtain ⟨f, hf, -, -, hnone, hsome⟩ := loadStored_loads d
  have hlp : (loadStored d).pow = d.pow := by
    have h : Framed [.out, .regs, .tables, .recd, .ints, .counters] d (loadStored d) := loadStored_framed d (by decide) (.refl _ d)
    exact h.same .pow (by decide)
  unfold bootStep8
  dsimp only
  generalize loadStored d = l at *
  have hu : Loaded { l with dict := { l.dict with copy0 := { l.dict.copy0 with marked := false }, copy1 := { l.dict.copy1 with marked := false } } }
      (agentUp { l with dict := { l.dict with copy0 := { l.dict.copy0 with marked := false }, copy1 := { l.dict.copy1 with marked := false } } }) :=
    agentUp_loaded _
  obtain ⟨o, -, -, -, hop, -, he⟩ := agentUp_ups
    { l with dict := { l.dict with copy0 := { l.dict.copy0 with marked := false }, copy1 := { l.dict.copy1 with marked := false } } }
  have hup : let q := (agentUp { l with dict := { l.dict with
      copy0 := { l.dict.copy0 with marked := false }, copy1 := { l.dict.copy1 with marked := false } } }).pow
      q.agentReady = true ∧ q.booted = false := by
    dsimp only
    have hq : (setInt 2 (onPow (fun p => { p with agentReady := true, readyDeadline := none }) o)).pow =
        { o.pow with agentReady := true, readyDeadline := none } := setInt_pow 2 _
    have hob : o.pow.booted = false := by
      rw [hop]
      exact (congrArg PowerS.booted hlp).trans hb
    rw [he]
    unfold feedWatchdog
    generalize setInt 2 (onPow (fun p => { p with agentReady := true, readyDeadline := none }) o) = q at *
    unfold onPow
    rw [hq]
    exact ⟨rfl, hob⟩
  generalize hx : agentUp _ = x at *
  have hn : Loaded x (onlyIf l.fab.spare.isNone (raise evNoSpare noInst) x) := onlyIf_loaded _ (raise_loaded _ _ _)
  have hnp : (onlyIf l.fab.spare.isNone (raise evNoSpare noInst) x).pow = x.pow := onlyIf_sleep (fun d => d.pow) _ _ (raise_pow _ _ _)
  generalize onlyIf l.fab.spare.isNone (raise evNoSpare noInst) x = y at *
  have hpm := pmbusBoot_loaded (onPow (fun p => { p with bootStep := 8 }) y)
  have hpp : ∀ e : Dev, ((pmbusBoot e).pow.agentReady, (pmbusBoot e).pow.bootStep, (pmbusBoot e).pow.booted) =
      (e.pow.agentReady, e.pow.bootStep, e.pow.booted) := fun e => by
    unfold pmbusBoot
    dsimp only
    split
    · rfl
    · split
      · rfl
      · rw [raise_pow]
        rfl
  have hpq := hpp (onPow (fun p => { p with bootStep := 8 }) y)
  generalize pmbusBoot (onPow (fun p => { p with bootStep := 8 }) y) = z at *
  simp only [Prod.mk.injEq] at hpq
  obtain ⟨h1, h2, h3⟩ := hpq
  obtain ⟨hu1, hu2⟩ := hup
  refine ⟨h1.trans ((congrArg PowerS.agentReady hnp).trans hu1), h2, h3.trans ((congrArg PowerS.booted hnp).trans hu2),
    { l with dict := { l.dict with copy0 := { l.dict.copy0 with marked := false }, copy1 := { l.dict.copy1 with marked := false } } },
    (hu.trans hn).trans (hpm.after rfl), rfl, rfl, fun h => ?_, fun c h => ?_⟩
  · obtain ⟨hm, hk⟩ := hnone h
    exact ⟨hf.mem.trans hm, fun k h => (hf.entries k h).trans (hk k h)⟩
  · obtain ⟨hm, hk⟩ := hsome c h
    exact ⟨hf.mem.trans hm, fun hv k h => (hf.entries k h).trans (hk hv k h)⟩

/-- Before the boot is over SAFE_N stays low and the registers stand. -/
theorem readyDone_unbooted {st : RecoverySeq} {x : Dev} (hb : x.pow.booted = false) : Loaded x (readyDone st x) := by
  have h1 : Loaded x (onlyIf (st = .holding) (raise evRestarted noInst) (readyTimed st x)) := by
    have ht : Loaded x (readyTimed st x) := by
      unfold readyTimed
      split
      exacts [.of_dict rfl, .refl x]
    exact ht.trans (onlyIf_loaded _ (raise_loaded _ _ _))
  have hb1 : (onlyIf (st = .holding) (raise evRestarted noInst) (readyTimed st x)).pow.booted = false := by
    rw [onlyIf_sleep (fun d => d.pow) _ _ (raise_pow _ _ _)]
    unfold readyTimed
    split <;> exact hb
  unfold readyDone
  generalize onlyIf (st = .holding) (raise evRestarted noInst) (readyTimed st x) = y at *
  have hsafe : safeWanted y = false := by
    unfold safeWanted
    rw [hb1]
    simp
  have hsettle : (settleSafe y).dict = y.dict := by
    unfold settleSafe
    dsimp only
    rw [hsafe]
    split
    · rfl
    · exact setInt_dict 27 _
  obtain ⟨-, -, hd⟩ := plannerGate_ints (settleSafe y)
  exact h1.trans (.of_dict (hd.trans hsettle))

theorem controlComplexReady_loads (hready : s.dev.pow.agentReady = false) (hdl : s.dev.pow.readyDeadline ≠ none) (hb : s.dev.pow.booted = false)
    (hstep : s.dev.pow.bootStep = 3) : Completes .controlComplexReady s fun d => d.pow.agentReady = true ∧ d.pow.bootStep = 8 ∧
      d.dict.copy0.marked = false ∧ d.dict.copy1.marked = false ∧
      (bootCopy s.dev = none → d.dict.mem = [] ∧ ∀ k : Nat, isStored k = true → Store.find odDefault d.dict.od k = odDefault k) ∧
      ∀ c : CfgCopy, bootCopy s.dev = some c → d.dict.mem = c.tables ∧ (s.dev.Valid → ∀ k : Nat, isStored k = true →
        Store.find odDefault d.dict.od k = Store.find odDefault c.values k) := by
  obtain ⟨hup, h8, hub, f, hf, hm0, hm1, hnone, hsome⟩ := bootStep8_loads s.found hb
  have hrun := exec_controlComplexReady (x := bootStep8 s.found) hready hdl (by rw [hb, hstep]; rfl) hup
  refine completes_of_exec hrun ?_
  obtain ⟨-, v, hdone⟩ := readyDone_leaves s.dev.pow.seqState (bootStep8 s.found)
  have hl := hf.trans (readyDone_unbooted (st := s.dev.pow.seqState) hub)
  have htimed : ∀ (st : RecoverySeq) (x : Dev), (readyTimed st x).pow.agentReady = x.pow.agentReady ∧ (readyTimed st x).pow.bootStep = x.pow.bootStep :=
    fun st x => by
      unfold readyTimed
      split <;> exact ⟨rfl, rfl⟩
  obtain ⟨ht1, ht2⟩ := htimed s.dev.pow.seqState (bootStep8 s.found)
  generalize readyDone s.dev.pow.seqState (bootStep8 s.found) = w at *
  obtain ⟨hk, hm, hc⟩ := hl
  simp only [Prod.mk.injEq] at hc
  obtain ⟨hc0, hc1⟩ := hc
  rw [hdone, hc0, hc1, hm]
  refine ⟨ht1.trans hup, ht2.trans h8, hm0, hm1, fun h => ?_, fun c h => ?_⟩
  · obtain ⟨h1, h2⟩ := hnone h
    exact ⟨h1, fun k h => (hk k h).trans (h2 k h)⟩
  · obtain ⟨h1, h2⟩ := hsome c h
    exact ⟨h1, fun hv k h => (hk k h).trans (h2 hv k h)⟩

end ready

/-- Settles O52: the selection takes the image that the partitions name, the agent's readiness loads the valid copy, and an image is
judged on what its request finds. -/
theorem theBootTakesItsStepsAndItsImageAsGiven : Obligations.TheBootTakesItsStepsAndItsImageAsGiven := by
  intro s p candidate noImage startsA takesA
  refine ⟨fun hst hstep hcore hpg hseq hc => pgCoreRise_selects hst hstep hcore hpg hseq hc, pgIoRise_ends, fun t ht => railEnableTimeout_drops ht,
    fun t ht => railEnableRetry_raises ht, fun t ht => imageSelectionRetry_selects ht,
    fun hready hdl => ⟨controlComplexReady_again hready hdl, controlComplexReady_loads hready hdl⟩,
    fun t ht hprof hready htrial => imageConfirm_confirms ht hprof hready htrial, fun x hx => firmwareWriteEnd_ends hx, fun src hs h5 h6 => ?_⟩
  exact ⟨verifyAndWrite_busy hs h6, fun hbusy => ⟨fun off data ho hoff hlen => firmwareImageData_places hs h5 hbusy ho hoff hlen,
    verifyAndWrite_starts hs h6 hbusy, fun code h0 hv => verifyAndWrite_fails hs h6 hbusy h0 hv⟩, firmwareAbandon_drops hs h6⟩

end Sys2Proof.Machine
end

section
/-! PROOF. The sequencer (R28, R473, R489 to R496, R401, R570). -/

namespace Sys2Proof.Machine

/-! ### The control complex stops and is raised again (R489 to R493) -/

section restarts

variable {d : Dev}

theorem complexStops_mild {K : List (Nat × Nat)} (d : Dev) : Mild K d (complexStops d) := by
  have hmail : ∀ path e, Mild K e (abortMailbox path e) := fun path e =>
    (abortMailbox_framed (L := [.out, .ints, .mail]) path e (by decide) (.refl _ e)).mild (by decide) (by decide)
  have hint : ∀ e, Mild K e (if e.pow.agentReady then setInt 2 (onPow (fun p => { p with agentReady := false }) e) else e) := fun e =>
    .ite (.of_same (by rw [setInt_dict]; rfl) (by rw [setInt_recd]; rfl)) .refl
  have hloses : ∀ e, Mild K e (agentLoses e) := fun e => by
    unfold agentLoses
    dsimp only
    exact (Mild.onlyIf _ (raise_mild _ _ e)).same rfl rfl
  have hhold : ∀ e, Mild K e (enterHoldover e) := fun e => by
    unfold enterHoldover
    refine Mild.trans ?_ (raise_mild _ _ _)
    refine Mild.bump ?_ (by decide) 2 (by decide)
    unfold setTimeState
    exact .ite (.of_same rfl rfl) (.of_same (by rw [setInt_dict]) (by rw [setInt_recd]))
  have htime : ∀ e, Mild K e (timeControlStop e) := fun e => by
    unfold timeControlStop
    split
    exacts [hhold e, hhold e, .refl]
  have hgate : ∀ e, Mild K e (plannerGate e) := fun e =>
    (plannerGate_framed (L := [.health]) e (by decide) (.refl _ e)).mild (by decide) (by decide)
  have h1 := (hmail .pcie d).trans (hmail .serial _)
  unfold complexStops
  dsimp only
  generalize abortMailbox .serial (abortMailbox .pcie d) = e1 at *
  have h2 := h1.trans (hint e1)
  generalize (if e1.pow.agentReady then setInt 2 (onPow (fun p => { p with agentReady := false }) e1) else e1) = e2 at *
  have h3 : Mild K d (onPow (fun p => { p with watchdogDeadline := none, readyDeadline := none, stableDeadline := none, confirmDeadline := none }) e2) :=
    h2.same rfl rfl
  generalize onPow _ e2 = e3 at *
  exact (((h3.trans (hloses e3)).trans (htime _)).trans (hgate _))

/-- What is left of the control complex once it has stopped. -/
theorem complexStops_stops (d : Dev) : (complexStops d).pow = { d.pow with
      agentReady := false, watchdogDeadline := none, readyDeadline := none, stableDeadline := none, confirmDeadline := none } ∧
    (complexStops d).dict.staged = [] ∧ (complexStops d).dict.sessions = [] := by
  have hmail : ∀ path e, (abortMailbox path e).pow = e.pow := fun path e =>
    (abortMailbox_framed (L := [.out, .ints, .mail]) path e (by decide) (.refl _ e)).same .pow (by decide)
  have hp : (abortMailbox .serial (abortMailbox .pcie d)).pow = d.pow := by rw [hmail, hmail]
  have hloses : ∀ e, (agentLoses e).pow = e.pow ∧ (agentLoses e).dict.staged = [] ∧ (agentLoses e).dict.sessions = [] := fun e =>
    ⟨onlyIf_sleep (fun d => d.pow) _ _ (raise_pow _ _ _), rfl, rfl⟩
  have hrest : ∀ e, Framed [.out, .regs, .time, .recd, .ints, .counters, .health] e (plannerGate (timeControlStop e)) := fun e =>
    plannerGate_framed _ (by decide) (timeControlStop_framed _ (by decide) (.refl _ e))
  unfold complexStops
  dsimp only
  generalize abortMailbox .serial (abortMailbox .pcie d) = e1 at *
  have h2 : (if e1.pow.agentReady then setInt 2 (onPow (fun p => { p with agentReady := false }) e1) else e1).pow = { d.pow with agentReady := false } := by
    split
    · rw [setInt_pow]
      exact congrArg (fun p : PowerS => { p with agentReady := false }) hp
    · next h =>
      have h0 : d.pow.agentReady = false := by
        rw [hp] at h
        simpa using h
      have hsame : ({ d.pow with agentReady := d.pow.agentReady } : PowerS) = d.pow := rfl
      rw [h0] at hsame
      exact hp.trans hsame.symm
  generalize (if e1.pow.agentReady then setInt 2 (onPow (fun p => { p with agentReady := false }) e1) else e1) = e2 at *
  generalize he : onPow _ e2 = e3
  have h3 : e3.pow = { d.pow with
      agentReady := false, watchdogDeadline := none, readyDeadline := none, stableDeadline := none, confirmDeadline := none } := by
    rw [← he]
    unfold onPow
    rw [h2]
  obtain ⟨h4, h5, h6⟩ := hloses e3
  have hf := hrest (agentLoses e3)
  generalize agentLoses e3 = e4 at *
  generalize plannerGate (timeControlStop e4) = e5 at *
  have hses : e5.dict.sessions = e4.dict.sessions := congrArg Prod.fst (hf.same .access (by decide))
  exact ⟨(hf.same .pow (by decide)).trans (h4.trans h3), (hf.staged (by decide)).trans h5, hses.trans h6⟩

/-- The selection of an image leaves the platform's record but for the partitions, the choice and its confirmation. -/
theorem selectImage_pow (d : Dev) : ∃ x y b c, (selectImage d).1.pow = { d.pow with partA := x, partB := y, bootedB := b, confirmDeadline := c } := by
  have hstart : ∀ (z : Bool) (e : Dev), SamePlatform d e →
      ∃ x y b c, (startImage z e).pow = { d.pow with partA := x, partB := y, bootedB := b, confirmDeadline := c } := fun z e he => by
    obtain ⟨⟨x, y, hp⟩, -⟩ := he
    unfold startImage onPart onPow
    dsimp only
    rw [hp]
    cases z
    exacts [⟨_, _, _, _, rfl⟩, ⟨_, _, _, _, rfl⟩]
  have hkeep : ∀ e : Dev, SamePlatform d e → ∃ x y b c, e.pow = { d.pow with partA := x, partB := y, bootedB := b, confirmDeadline := c } :=
    fun e ⟨⟨x, y, hp⟩, _, _, _⟩ => ⟨x, y, _, _, hp⟩
  have h1 : SamePlatform d (failSpent true (failSpent false d)) := (failSpent_same false d).trans (failSpent_same true _)
  unfold selectImage
  dsimp only
  generalize failSpent true (failSpent false d) = d1 at h1
  split
  · exact hkeep _ h1
  · split
    · exact hkeep _ h1
    · next x rest _ =>
      split
      · exact hstart x d1 h1
      · have h2 := h1.trans (markFailed_same x d1)
        split
        · split
          · exact hstart _ _ h2
          · exact hkeep _ (h2.trans (markFailed_same _ _))
        · exact hkeep _ h2

theorem selectImage_cfg {idx sub : Nat} (d : Dev) (hi : idx < 0x2100 ∨ 0x2B00 ≤ idx) (hs : sub < 256) (hne : odKey idx sub ≠ odKey 0x2D05 8) :
    cfg (selectImage d).1 idx sub = cfg d idx sub := by
  have hmark : ∀ b e, cfg (markFailed b e) idx sub = cfg e idx sub := fun b e => by
    have hraise : ∀ x, cfg (raise evImageFailed noInst x) idx sub = cfg x idx sub := fun x =>
      hi.elim (fun h => (raise_low _ _ x).cfg_below h hs) (fun h => (raise_low _ _ x).cfg h)
    unfold markFailed
    rw [hraise, cfg_bump_ne _ _ _ _ _ hne]
    rfl
  have hspent : ∀ b e, cfg (failSpent b e) idx sub = cfg e idx sub := fun b e => by
    unfold failSpent
    dsimp only
    split
    exacts [hmark b e, rfl]
  have h1 : cfg (failSpent true (failSpent false d)) idx sub = cfg d idx sub := by rw [hspent, hspent]
  unfold selectImage
  dsimp only
  generalize failSpent true (failSpent false d) = d1 at h1
  split
  · exact h1
  · split
    · exact h1
    · split
      · exact h1
      · split
        · split
          · exact (hmark _ _).trans h1
          · exact (hmark _ _).trans ((hmark _ _).trans h1)
        · exact (hmark _ _).trans h1

/-- While SAFE_N stays low the registers stand. -/
theorem settleSafe_dict (h : safeWanted d = false) : (settleSafe d).dict = d.dict := by
  unfold settleSafe
  dsimp only
  rw [h]
  split
  · rfl
  · exact setInt_dict 27 _

/-- A restart: one more, with SAFE_N low, and the control complex awaited. -/
theorem restartComplex_restarts (d : Dev) : let e := restartComplex d
    e.pow.seqState = (if d.pow.seqState = .recovery then .recovery else .holding) ∧ e.pow.episode = min 3 (d.pow.episode + 1) ∧
    e.pow.restarts = min 15 (d.pow.restarts + 1) ∧ e.pow.safeN = false ∧ e.pow.readyDeadline ≠ none ∧ e.pow.latch = d.pow.latch ∧
    e.pow.bypassA = d.pow.bypassA ∧ e.pow.bypassB = d.pow.bypassB ∧ e.pow.agentReady = d.pow.agentReady ∧
    e.node = d.node ∧ e.now = d.now ∧ e.dict.staged = d.dict.staged ∧ e.dict.sessions = d.dict.sessions ∧
    ∀ idx sub, (idx < 0x2100 ∨ 0x2B00 ≤ idx) → sub < 256 → odKey idx sub ≠ odKey 0x2D05 8 → cfg e idx sub = cfg d idx sub := by
  unfold restartComplex
  dsimp only
  generalize hx : onPow _ d = x
  have hp : x.pow = { d.pow with
      episode := min 3 (d.pow.episode + 1), restarts := min 15 (d.pow.restarts + 1)
      seqState := if d.pow.seqState = .recovery then .recovery else .holding
      bootStep := if d.pow.booted then d.pow.bootStep else 3
      epochAppliedBeforeEpisode := if d.pow.episode = 0 then d.pow.booted else d.pow.epochAppliedBeforeEpisode
      readyDeadline := some (d.now + readyTime d) } := by
    rw [← hx]
    rfl
  have hxd : x.dict = d.dict := by
    rw [← hx]
    rfl
  have hxf : Framed [.pow] d x := by
    rw [← hx]
    exact onPow_framed _ _ (by decide) (.refl _ _)
  obtain ⟨a, b, c, t, hs⟩ := selectImage_pow x
  have hcfg := @selectImage_cfg
  have hf : Framed [.out, .regs, .recd, .ints, .pow, .counters] d (selectImage x).1 := selectImage_framed x (by decide) (hxf.mono (by decide))
  have hreg : ∀ idx sub, (idx < 0x2100 ∨ 0x2B00 ≤ idx) → sub < 256 → odKey idx sub ≠ odKey 0x2D05 8 → cfg (selectImage x).1 idx sub = cfg d idx sub :=
    fun idx sub h1 h2 h3 => (selectImage_cfg x h1 h2 h3).trans (cfg_of_dict hxd _ _)
  generalize (selectImage x).1 = y at *
  have hseq : y.pow.seqState ≠ .watching := by
    rw [hs, hp]
    dsimp only
    split <;> decide
  have hsafe : safeWanted y = false := by
    unfold safeWanted
    rw [decide_eq_false hseq]
    simp
  have hpow := settleSafe_pow y
  have hd := settleSafe_dict hsafe
  have hfs : Framed [.fresh, .out, .regs, .inaug, .queues, .time, .sched, .strm, .recd, .sleep, .host, .ints, .pow, .counters] d (settleSafe y) :=
    settleSafe_framed y (by decide) (hf.mono (by decide))
  rw [hsafe] at hpow
  generalize settleSafe y = e at *
  have hnow : e.now = d.now := congrArg Prod.fst (hfs.same .clock (by decide))
  have hses : e.dict.sessions = d.dict.sessions := congrArg Prod.fst (hfs.same .access (by decide))
  rw [hpow, hs, hp]
  exact ⟨rfl, rfl, rfl, rfl, nofun, rfl, rfl, rfl, rfl, hfs.same .node (by decide), hnow, hfs.staged (by decide), hses,
    fun idx sub h1 h2 h3 => (cfg_of_dict hd _ _).trans (hreg idx sub h1 h2 h3)⟩

/-- Entry to Recovery: the latch, the cause, the profile and one restart more. -/
theorem enterRecovery_enters (d : Dev) : let e := enterRecovery d
    (e.pow.seqState = .recovery ∧ e.pow.latch = true ∧ e.node.profile = 4 ∧ e.pow.safeN = false ∧
      cfg e 0x2001 6 = (if d.pow.epochAppliedBeforeEpisode then 1 else 2) ∧ e.pow.readyDeadline ≠ none ∧ e.pow.bypassA = d.pow.booted ∧
      e.pow.bypassB = d.pow.booted) ∧
    e.pow.agentReady = d.pow.agentReady ∧ e.now = d.now ∧ e.dict.staged = d.dict.staged ∧ e.dict.sessions = d.dict.sessions ∧
    ∀ k < 256, k ≠ 8 → cfg e 0x2D05 k = cfg d 0x2D05 k := by
  unfold enterRecovery
  dsimp only
  generalize hx : setReg 0x2001 6 _ _ = x
  have hcause : cfg x 0x2001 6 = if d.pow.epochAppliedBeforeEpisode then 1 else 2 := by
    rw [← hx]
    refine cfg_setReg_self _ _ _ _ fun h => ?_
    have h0 := Value.num.inj (h.trans (rfl : odDefault (odKey 0x2001 6) = .num 0))
    split_ifs at h0
  have hcount : ∀ k < 256, cfg x 0x2D05 k = cfg d 0x2D05 k := fun k hk => by
    rw [← hx, cfg_setReg_ne _ _ _ _ _ _ (by unfold odKey; omega), (raise_low _ _ _).cfg (by decide)]
    rfl
  have hxp : x.pow = { d.pow with seqState := .recovery, latch := true, bypassA := d.pow.booted, bypassB := d.pow.booted } := by
    rw [← hx]
    exact raise_pow _ _ _
  have hxf : Framed [.out, .regs, .recd, .ints, .counters, .pow] d x := by
    rw [← hx]
    exact setReg_framed _ _ _ _ (by decide) (raise_framed _ _ _ (by decide) (onPow_framed _ _ (by decide) (.refl _ d)))
  have hf : Framed [.fresh, .out, .regs, .node, .inaug, .fab, .queues, .ports, .time, .sched, .strm, .recd, .sleep, .load, .host, .ints, .health,
    .counters, .pow] d (enterProfile 4 x) := enterProfile_framed 4 x (by decide) (hxf.mono (by decide))
  have hep : (enterProfile 4 x).pow = x.pow := by
    have h : Framed [.fresh, .out, .regs, .node, .inaug, .fab, .queues, .ports, .time, .sched, .strm, .recd, .sleep, .load, .host, .ints, .health,
      .counters] x (enterProfile 4 x) := enterProfile_framed 4 x (by decide) (.refl _ x)
    exact h.same .pow (by decide)
  have hmild := enterProfile_mild 4 x
  have hprof : (enterProfile 4 x).node.profile = 4 := by
    by_cases h4 : x.node.profile = 4
    · unfold enterProfile
      rw [if_pos h4]
      exact h4
    · rw [enterProfile_node h4]
      unfold NodeS.entered
      dsimp only
      split_ifs <;> rfl
  generalize enterProfile 4 x = y at *
  obtain ⟨h1, -, -, h4, h5, h6, h7, h8, h9, h10, h11, h12, h13, h14⟩ := restartComplex_restarts y
  have hnow : y.now = d.now := congrArg Prod.fst (hf.same .clock (by decide))
  have hses : y.dict.sessions = d.dict.sessions := congrArg Prod.fst (hf.same .access (by decide))
  generalize restartComplex y = z at *
  rw [h1, h6, h10, h4, h7, h8, h9, h11, h12, h13, hep, hxp, hprof, hnow, hses]
  refine ⟨⟨rfl, rfl, rfl, rfl, ?_, h5, rfl, rfl⟩, rfl, rfl, hf.staged (by decide), rfl, fun k hk h8 => ?_⟩
  · rw [h14 _ _ (.inl (by decide)) (by decide) (by decide), hmild.cfg (by decide) (.inl (by decide)) (by decide), hcause]
  · rw [h14 _ _ (.inr (by decide)) hk (by unfold odKey; omega), hmild.cfg hk (.inr (by decide)) ?_, hcount k hk]
    unfold profileRegs odKey
    intro r hr
    simp only [List.mem_cons, List.not_mem_nil, or_false] at hr
    rcases hr with rfl | rfl | rfl | rfl <;> simp <;> omega

end restarts

/-! ### A trip of the watchdog (R401, R489 to R493) -/

section trip

variable {s : State}

/-- A restart holds the node with SAFE_N low until the control complex is ready. -/
def Holds (s : State) (d : Dev) : Prop :=
  d.pow.seqState = .holding ∧ d.pow.episode = min 3 (s.dev.pow.episode + 1) ∧ d.pow.restarts = min 15 (s.dev.pow.restarts + 1) ∧
    d.pow.safeN = false ∧ d.pow.readyDeadline ≠ none

/-- What every trip leaves. -/
def HasTripped (s : State) (t : Nat) (d : Dev) : Prop :=
  d.now = max s.dev.now t ∧ d.pow.agentReady = false ∧ d.dict.staged = [] ∧ d.dict.sessions = [] ∧
    cfg d 0x2D05 6 = min 0xFFFFFFFF (cfg s.dev 0x2D05 6 + 1)

/-- The stop of a trip. -/
def tripStops (t : Nat) (s : State) : Dev := complexStops (raise evWatchdogTrip noInst (bump 0x2D05 6 (arrive t s.found)))

theorem tripStops_stops (t : Nat) : HasTripped s t (tripStops t s) ∧ (tripStops t s).pow = { s.dev.pow with
      agentReady := false, watchdogDeadline := none, readyDeadline := none, stableDeadline := none, confirmDeadline := none } ∧
    cfg (tripStops t s) 0x2D05 7 = cfg s.dev 0x2D05 7 := by
  generalize ha : raise evWatchdogTrip noInst (bump 0x2D05 6 (arrive t s.found)) = a
  have han : a.now = max s.dev.now t := by
    rw [← ha, raise_now, bump_now]
    exact arrive_now t s.found
  have hap : a.pow = s.dev.pow := by
    rw [← ha, raise_pow, bump_pow]
    exact arrive_pow t s.found
  have h6 : cfg a 0x2D05 6 = min 0xFFFFFFFF (cfg s.dev 0x2D05 6 + 1) := by
    rw [← ha, (raise_low _ _ _).cfg (by decide), cfg_bump_self 0x2D05 6 _ (by decide), cfg_of_dict (arrive_dict t s.found)]
    rfl
  have h7 : cfg a 0x2D05 7 = cfg s.dev 0x2D05 7 := by
    rw [← ha, (raise_low _ _ _).cfg (by decide), cfg_bump_ne _ _ _ _ _ (by decide)]
    exact cfg_of_dict (arrive_dict t s.found) _ _
  have hm : Mild [] a (complexStops a) := complexStops_mild a
  have hf : Framed [.out, .regs, .commit, .staging, .access, .time, .recd, .ints, .mail, .pow, .health, .counters] a (complexStops a) :=
    complexStops_framed a (by decide) (.refl _ a)
  obtain ⟨hp, hst, hses⟩ := complexStops_stops a
  unfold tripStops HasTripped
  rw [ha]
  generalize complexStops a = c at *
  have hnow : c.now = a.now := congrArg Prod.fst (hf.same .clock (by decide))
  rw [hp, hap, hnow, hst, hses, hm.cfg (by decide) (.inr (by decide)) (by decide), hm.cfg (by decide) (.inr (by decide)) (by decide)]
  exact ⟨⟨han, rfl, rfl, rfl, h6⟩, rfl, h7⟩

theorem exec_watchdogTrip {t : Nat} (ht : (if s.dev.pow.agentReady then s.dev.pow.watchdogDeadline else s.dev.pow.readyDeadline) = some t) :
    exec .watchdogTrip s = s.does fun _ => watchdogTrip (arrive t s.found) := by
  show execWatchdogTrip s = _
  unfold execWatchdogTrip
  refine does_congr ?_
  have h : (if s.found.pow.agentReady then s.found.pow.watchdogDeadline else s.found.pow.readyDeadline) = some t := ht
  rw [h]

/-- A trip during the entry to a sleep only stops the control complex. -/
theorem watchdogTrip_committing (t : Nat) (hc : s.dev.sleep.state = .committing) : watchdogTrip (arrive t s.found) = tripStops t s := by
  have h : (arrive t s.found).sleep = s.dev.sleep := arrive_sleep t s.found
  unfold watchdogTrip
  dsimp only
  rw [h, if_pos hc]
  rfl

/-- A trip counts as a failed restart where it comes before the node is ready or within the stable time. -/
def FailedRestart (p : PowerS) : Prop := p.seqState = .holding ∨ p.seqState = .watching ∧ p.stableDeadline ≠ none

/-- A trip while the sequencer watches or holds. -/
theorem watchdogTrip_restarts (t : Nat) (hc : s.dev.sleep.state ≠ .committing) (hseq : s.dev.pow.seqState = .watching ∨ s.dev.pow.seqState = .holding) :
    (¬ FailedRestart s.dev.pow → watchdogTrip (arrive t s.found) = restartComplex (tripStops t s)) ∧
    (FailedRestart s.dev.pow → watchdogTrip (arrive t s.found) = if 3 ≤ s.dev.pow.episode then enterRecovery (bump 0x2D05 7 (tripStops t s))
      else restartComplex (bump 0x2D05 7 (tripStops t s))) := by
  have h1 : (arrive t s.found).sleep = s.dev.sleep := arrive_sleep t s.found
  have h2 : (arrive t s.found).pow = s.dev.pow := arrive_pow t s.found
  have hfail : (decide (s.dev.pow.seqState = .holding) || s.dev.pow.stableDeadline.isSome) = true ↔ FailedRestart s.dev.pow := by
    unfold FailedRestart
    rw [Bool.or_eq_true, decide_eq_true_eq, Option.isSome_iff_ne_none]
    rcases hseq with h | h <;> simp [h]
  have heq : watchdogTrip (arrive t s.found) = if (decide (s.dev.pow.seqState = .holding) || s.dev.pow.stableDeadline.isSome) &&
        decide (3 ≤ s.dev.pow.episode) then enterRecovery (onlyIf (decide (s.dev.pow.seqState = .holding) || s.dev.pow.stableDeadline.isSome)
          (bump 0x2D05 7) (tripStops t s))
      else restartComplex (onlyIf (decide (s.dev.pow.seqState = .holding) || s.dev.pow.stableDeadline.isSome) (bump 0x2D05 7) (tripStops t s)) := by
    unfold watchdogTrip
    dsimp only
    rw [h1, h2, if_neg hc]
    unfold tripStops
    rcases hseq with h | h <;> rw [h]
  rw [heq]
  refine ⟨fun h => ?_, fun h => ?_⟩
  · rw [Bool.eq_false_iff.mpr (fun hb => h (hfail.mp hb))]
    rfl
  · rw [hfail.mpr h]
    simp [onlyIf]

/-- A trip in Recovery holds the control complex in reset. -/
theorem watchdogTrip_holds (t : Nat) (hc : s.dev.sleep.state ≠ .committing)
    (hseq : s.dev.pow.seqState = .recovery ∨ s.dev.pow.seqState = .recoveryHeld) : let d := watchdogTrip (arrive t s.found)
    HasTripped s t d ∧ d.pow.seqState = .recoveryHeld ∧ d.pow.readyDeadline = none ∧ d.pow.safeN = false := by
  have h1 : (arrive t s.found).sleep = s.dev.sleep := arrive_sleep t s.found
  have h2 : (arrive t s.found).pow = s.dev.pow := arrive_pow t s.found
  have heq : watchdogTrip (arrive t s.found) = settleSafe (raise evComplexHeld noInst (onPow (fun p => { p with seqState := .recoveryHeld })
      (onlyIf (!s.dev.pow.agentReady || s.dev.pow.stableDeadline.isSome) (bump 0x2D05 7) (tripStops t s)))) := by
    unfold watchdogTrip
    dsimp only
    rw [h1, h2, if_neg hc]
    unfold tripStops
    rcases hseq with h | h <;> rw [h]
  dsimp only
  rw [heq]
  obtain ⟨⟨hn, -, hst, hses, h6⟩, hp, -⟩ := tripStops_stops (s := s) t
  generalize tripStops t s = c at *
  generalize hx : raise evComplexHeld noInst _ = x
  have hxf : Framed [.out, .regs, .recd, .ints, .counters, .pow] c x := by
    rw [← hx]
    refine raise_framed _ _ _ (by decide) (onPow_framed _ _ (by decide) ?_)
    unfold onlyIf
    split
    exacts [bump_framed _ _ _ (by decide) (.refl _ c), .refl _ c]
  have hxp : x.pow = { c.pow with seqState := .recoveryHeld } := by
    rw [← hx, raise_pow]
    exact congrArg (fun p : PowerS => { p with seqState := .recoveryHeld }) (onlyIf_sleep (fun d => d.pow) _ _ (bump_pow _ _ _))
  have hx6 : cfg x 0x2D05 6 = cfg c 0x2D05 6 := by
    rw [← hx, (raise_low _ _ _).cfg (by decide)]
    exact onlyIf_sleep (fun d => cfg d 0x2D05 6) _ _ (cfg_bump_ne _ _ _ _ _ (by decide))
  have hsafe : safeWanted x = false := by
    unfold safeWanted
    rw [hxp]
    simp
  have hd := settleSafe_dict hsafe
  have hpow := settleSafe_pow x
  have hf : Framed [.fresh, .out, .regs, .inaug, .queues, .time, .sched, .strm, .recd, .sleep, .host, .ints, .pow, .counters] c (settleSafe x) :=
    settleSafe_framed x (by decide) (hxf.mono (by decide))
  rw [hsafe] at hpow
  generalize settleSafe x = e at *
  have hnow : e.now = c.now := congrArg Prod.fst (hf.same .clock (by decide))
  have hses' : e.dict.sessions = c.dict.sessions := congrArg Prod.fst (hf.same .access (by decide))
  unfold HasTripped
  rw [hpow, hxp, hp]
  exact ⟨⟨hnow.trans hn, rfl, (hf.staged (by decide)).trans hst, hses'.trans hses, (cfg_of_dict hd _ _).trans (hx6.trans h6)⟩, rfl, rfl, rfl⟩

/-- A restart after the stop of a trip. -/
theorem restart_hasTripped {t : Nat} {c : Dev} (hc : HasTripped s t c) (hp : c.pow = { s.dev.pow with
      agentReady := false, watchdogDeadline := none, readyDeadline := none, stableDeadline := none, confirmDeadline := none })
    (hseq : s.dev.pow.seqState = .watching ∨ s.dev.pow.seqState = .holding) :
    HasTripped s t (restartComplex c) ∧ Holds s (restartComplex c) ∧ cfg (restartComplex c) 0x2D05 7 = cfg c 0x2D05 7 := by
  obtain ⟨h1, h2, h3, h4, h5, -, -, -, h9, -, h11, h12, h13, h14⟩ := restartComplex_restarts c
  obtain ⟨hn, hr, hst, hses, h6⟩ := hc
  have hne : s.dev.pow.seqState ≠ .recovery := by rcases hseq with h | h <;> rw [h] <;> decide
  unfold HasTripped Holds
  generalize restartComplex c = e at *
  rw [h1, h2, h3, h4, h9, h11, h12, h13, hp, h14 0x2D05 6 (.inr (by decide)) (by decide) (by decide), h14 0x2D05 7 (.inr (by decide)) (by decide) (by decide)]
  exact ⟨⟨hn, rfl, hst, hses, h6⟩, ⟨if_neg hne, rfl, rfl, rfl, h5⟩, rfl⟩

theorem watchdogTrip_trips {t : Nat} (ht : (if s.dev.pow.agentReady then s.dev.pow.watchdogDeadline else s.dev.pow.readyDeadline) = some t) :
    Completes .watchdogTrip s fun d => d.now = max s.dev.now t ∧ d.pow.agentReady = false ∧ d.dict.staged = [] ∧ d.dict.sessions = [] ∧
      cfg d 0x2D05 6 = min 0xFFFFFFFF (cfg s.dev 0x2D05 6 + 1) ∧
      (s.dev.sleep.state = .committing → d.pow.seqState = s.dev.pow.seqState ∧ d.pow.readyDeadline = none) ∧
      (s.dev.sleep.state ≠ .committing →
        (s.dev.pow.seqState = .watching → s.dev.pow.stableDeadline = none → Holds s d ∧ cfg d 0x2D05 7 = cfg s.dev 0x2D05 7) ∧
        (FailedRestart s.dev.pow → cfg d 0x2D05 7 = min 0xFFFFFFFF (cfg s.dev 0x2D05 7 + 1) ∧
          (s.dev.pow.episode < 3 → Holds s d) ∧
          (3 ≤ s.dev.pow.episode → d.pow.seqState = .recovery ∧ d.pow.latch = true ∧ d.node.profile = 4 ∧ d.pow.safeN = false ∧
            cfg d 0x2001 6 = (if s.dev.pow.epochAppliedBeforeEpisode then 1 else 2) ∧ d.pow.readyDeadline ≠ none ∧
            d.pow.bypassA = s.dev.pow.booted ∧ d.pow.bypassB = s.dev.pow.booted)) ∧
        (s.dev.pow.seqState = .recovery ∨ s.dev.pow.seqState = .recoveryHeld → d.pow.seqState = .recoveryHeld ∧ d.pow.readyDeadline = none ∧
          d.pow.safeN = false)) := by
  obtain ⟨hstop, hp, h7⟩ := tripStops_stops (s := s) t
  refine completes_of_exec (exec_watchdogTrip ht) ?_
  by_cases hc : s.dev.sleep.state = .committing
  · rw [watchdogTrip_committing t hc]
    obtain ⟨hn, hr, hst, hses, h6⟩ := hstop
    exact ⟨hn, hr, hst, hses, h6, fun _ => by rw [hp]; exact ⟨rfl, rfl⟩, fun h => absurd hc h⟩
  · have hreg : (s.dev.pow.seqState = .watching ∨ s.dev.pow.seqState = .holding) ∨
        (s.dev.pow.seqState = .recovery ∨ s.dev.pow.seqState = .recoveryHeld) := by
      cases s.dev.pow.seqState <;> simp
    rcases hreg with hseq | hseq
    · have hnot : ¬ (s.dev.pow.seqState = .recovery ∨ s.dev.pow.seqState = .recoveryHeld) := by rcases hseq with h | h <;> rw [h] <;> decide
      obtain ⟨hfirst, hfailed⟩ := watchdogTrip_restarts t hc hseq
      by_cases hf : FailedRestart s.dev.pow
      · have hno : ¬ (s.dev.pow.seqState = .watching ∧ s.dev.pow.stableDeadline = none) := fun h => by
          rcases hf with h' | h'
          · rw [h'] at h
            exact nomatch h.1
          · exact h'.2 h.2
        rw [hfailed hf]
        have hb7 : cfg (bump 0x2D05 7 (tripStops t s)) 0x2D05 7 = min 0xFFFFFFFF (cfg s.dev 0x2D05 7 + 1) := by
          rw [cfg_bump_self _ _ _ (by decide), h7]
        have hbt : HasTripped s t (bump 0x2D05 7 (tripStops t s)) := by
          obtain ⟨hn, hr, hst, hses, h6⟩ := hstop
          exact ⟨hn, hr, hst, hses, (cfg_bump_ne _ _ _ _ _ (by decide)).trans h6⟩
        have hbp : (bump 0x2D05 7 (tripStops t s)).pow = _ := (bump_pow 0x2D05 7 _).trans hp
        generalize bump 0x2D05 7 (tripStops t s) = b at *
        split
        · next h3 =>
          obtain ⟨he, her, hen, hest, heses, hecfg⟩ := enterRecovery_enters b
          generalize enterRecovery b = e at *
          obtain ⟨hn, hr, hst, hses, h6⟩ := hbt
          rw [hbp] at he
          exact ⟨hen.trans hn, her.trans hr, hest.trans hst, heses.trans hses, (hecfg 6 (by decide) (by decide)).trans h6, fun h => absurd h hc,
            fun _ => ⟨fun h1 h2 => absurd ⟨h1, h2⟩ hno, fun _ => ⟨(hecfg 7 (by decide) (by decide)).trans hb7, fun h => absurd h3 (Nat.not_le.mpr h),
              fun _ => he⟩, fun h => absurd h hnot⟩⟩
        · next h3 =>
          obtain ⟨⟨hn, hr, hst, hses, h6⟩, hh, h7'⟩ := restart_hasTripped hbt hbp hseq
          exact ⟨hn, hr, hst, hses, h6, fun h => absurd h hc, fun _ => ⟨fun h1 h2 => absurd ⟨h1, h2⟩ hno,
            fun _ => ⟨h7'.trans hb7, fun _ => hh, fun h => absurd h h3⟩, fun h => absurd h hnot⟩⟩
      · rw [hfirst hf]
        obtain ⟨⟨hn, hr, hst, hses, h6⟩, hh, h7'⟩ := restart_hasTripped hstop hp hseq
        exact ⟨hn, hr, hst, hses, h6, fun h => absurd h hc, fun _ => ⟨fun _ _ => ⟨hh, h7'.trans h7⟩, fun h => absurd h hf,
          fun h => absurd h hnot⟩⟩
    · obtain ⟨⟨hn, hr, hst, hses, h6⟩, hh⟩ := watchdogTrip_holds t hc hseq
      have hnot : ¬ FailedRestart s.dev.pow ∧ s.dev.pow.seqState ≠ .watching := by
        unfold FailedRestart
        rcases hseq with h | h <;> rw [h] <;> simp
      exact ⟨hn, hr, hst, hses, h6, fun h => absurd h hc, fun _ => ⟨fun h => absurd h hnot.2, fun h => absurd h hnot.1, fun _ => hh⟩⟩

/-- An event that is raised takes nothing back. -/
theorem raiseP_sent (ev : Ev) (inst : Nat) (payload : List Byte) (d : Dev) : Sent d (raiseP ev inst payload d) := by
  unfold raiseP recordEntry
  refine .ite (.of_eq (by simp)) ?_
  split
  · exact .of_eq (by simp)
  · exact .of_eq (by simp)
  · exact placeEntry_sent _ d

/-! ### Timers, drives and outputs (R473, R489, R496, R401, R570) -/

theorem watchdogWrite_feeds : (s.dev.pow.agentReady = true → Completes .watchdogWrite s fun d => Framed [.pow] s.found d ∧ d.pow = { s.dev.pow with
      watchdogDeadline := if s.dev.sec.halted then none else some (s.dev.now + setting s.dev 0x2D03 1 * msNs) }) ∧
    (s.dev.pow.agentReady = false → Completes .watchdogWrite s (Framed [] s.found)) := by
  have hrun : ∀ r, s.dev.pow.agentReady = r → exec .watchdogWrite s = s.does (if r then feedWatchdog else id) := fun r hr => by
    show execWatchdogWrite s = _
    unfold execWatchdogWrite
    refine does_congr ?_
    have h : s.found.pow.agentReady = r := hr
    rw [h]
    cases r <;> rfl
  exact ⟨fun h => completes_of_exec (hrun true h) ⟨feedWatchdog_framed _ (by decide) (.refl _ _), rfl⟩,
    fun h => completes_of_exec (hrun false h) (.refl _ _)⟩

theorem stableTime_ends {t : Nat} (ht : s.dev.pow.stableDeadline = some t) : Completes .stableTime s fun d => d.now = max s.dev.now t ∧
    d.pow = { s.dev.pow with stableDeadline := none, episode := if s.dev.pow.seqState = .watching then 0 else s.dev.pow.episode } ∧
    Framed [.clock, .counters, .pow] s.found d := by
  have hrun : exec .stableTime s = s.does fun d => onPow (fun p => { p with
      stableDeadline := none, episode := if p.seqState = .watching then 0 else p.episode }) (arrive t d) := by
    show execStableTime s = _
    unfold execStableTime
    refine does_congr ?_
    have h : s.found.pow.stableDeadline = some t := ht
    rw [h]
  have hf : Framed [.clock, .counters, .pow] s.found (arrive t s.found) := arrive_framed _ _ (by decide) (.refl _ _)
  have hn : (arrive t s.found).now = max s.dev.now t := arrive_now _ _
  have hp : (arrive t s.found).pow = s.dev.pow := arrive_pow _ _
  refine completes_of_exec hrun ?_
  generalize arrive t s.found = a at *
  exact ⟨hn, by unfold onPow; rw [hp], onPow_framed _ _ (by decide) hf⟩

theorem wakeBootTimeout_releases {t : Nat} (ht : s.dev.pow.wakeDeadline = some t) : Completes .wakeBootTimeout s fun d => d.now = max s.dev.now t ∧
    d.pow = { s.dev.pow with wakeDeadline := none, bypassA := false, bypassB := false } ∧ Framed [.clock, .counters, .pow] s.found d := by
  have hrun : exec .wakeBootTimeout s = s.does fun d => onPow (fun p => { p with wakeDeadline := none, bypassA := false, bypassB := false }) (arrive t d) := by
    show execWakeBootTimeout s = _
    unfold execWakeBootTimeout
    refine does_congr ?_
    have h : s.found.pow.wakeDeadline = some t := ht
    rw [h]
  have hf : Framed [.clock, .counters, .pow] s.found (arrive t s.found) := arrive_framed _ _ (by decide) (.refl _ _)
  have hn : (arrive t s.found).now = max s.dev.now t := arrive_now _ _
  have hp : (arrive t s.found).pow = s.dev.pow := arrive_pow _ _
  refine completes_of_exec hrun ?_
  generalize arrive t s.found = a at *
  exact ⟨hn, by unfold onPow; rw [hp], onPow_framed _ _ (by decide) hf⟩

theorem bypassRefreshLoss_releases (b : Bool) : Completes (.bypassRefreshLoss b) s fun d => Framed [.pow] s.found d ∧
    d.pow = { s.dev.pow with bypassA := s.dev.pow.bypassA && b, bypassB := s.dev.pow.bypassB && !b } := by
  refine completes_of_exec (show exec (.bypassRefreshLoss b) s = s.does _ from rfl) ⟨onPow_framed _ _ (by decide) (.refl _ _), ?_⟩
  cases b <;> simp [onPow, State.found]

theorem heartbeatLoss_closes : (s.dev.pow.agentReady = true → Completes .heartbeatLoss s fun d => d.pow = { s.dev.pow with island40Failed := true } ∧
      (s.dev.recd.state ≠ .off → d.recd.state = .closed)) ∧
    (s.dev.pow.agentReady = false → Completes .heartbeatLoss s (Framed [] s.found)) := by
  have hrun : ∀ r, s.dev.pow.agentReady = r → exec .heartbeatLoss s =
      s.does (if r then fun d => closeLogs 3 (onPow (fun p => { p with island40Failed := true }) d) else id) := fun r hr => by
    show execHeartbeatLoss s = _
    unfold execHeartbeatLoss
    refine does_congr ?_
    have h : s.found.pow.agentReady = r := hr
    rw [h]
    cases r <;> rfl
  refine ⟨fun h => completes_of_exec (hrun true h) ?_, fun h => completes_of_exec (hrun false h) (.refl _ _)⟩
  have hf : Framed [.out, .regs, .recd, .ints, .health, .counters] (onPow (fun p => { p with island40Failed := true }) s.found)
      (closeLogs 3 (onPow (fun p => { p with island40Failed := true }) s.found)) := closeLogs_framed _ _ (by decide) (.refl _ _)
  exact ⟨hf.same .pow (by decide), fun h => closeLogs_closes (d := onPow (fun p => { p with island40Failed := true }) s.found) 3 h⟩

theorem pmbusAlert_reads (w : BitVec 16) : (s.dev.pow.railCore = true → s.dev.pins.strapPmb = true → Completes (.pmbusAlert w) s fun d =>
      Out.pmbus 0x79 0 ∈ d.out ∧ Framed eventParts s.found d) ∧
    (s.dev.pow.railCore = false ∨ s.dev.pins.strapPmb = false → Completes (.pmbusAlert w) s (Framed [] s.found)) := by
  have hrun : ∀ r, (s.dev.pow.railCore && s.dev.pins.strapPmb) = r → exec (.pmbusAlert w) s =
      s.does (if r then fun d => raiseP evPmbus noInst (leBytes 2 w.toNat) (emit (.pmbus 0x79 0) d) else id) := fun r hr => by
    show execPmbusAlert w s = _
    unfold execPmbusAlert
    refine does_congr ?_
    have h : (s.found.pow.railCore && s.found.pins.strapPmb) = r := hr
    rw [h]
    cases r <;> rfl
  refine ⟨fun h1 h2 => completes_of_exec (hrun true (by rw [h1, h2]; rfl)) ⟨?_, ?_⟩, fun h => completes_of_exec (hrun false ?_) (.refl _ _)⟩
  · exact raiseP_sent _ _ _ _ _ (List.mem_append_right _ (.head _))
  · exact raiseP_framed _ _ _ _ (by decide) (emit_framed _ _ (by decide) (.refl _ _))
  · rcases h with h | h <;> simp [h]

theorem gpioOutput_takes {src : Src} {v : BitVec 8} (hs : Served s.dev src) (hm : MayWrite s.dev src 0x2D06 2) :
    (64 ≤ v.toNat → Completes (.gpioOutput src v) s (RefusedWith s src 0x2D06 2 0x06090030)) ∧
    (v.toNat < 64 → Completes (.gpioOutput src v) s (ActsAtOnce s src 0x2D06 2 (setReg 0x2D06 2 v.toNat))) := by
  have hmask : valueError s.dev ⟨0x2D06, 1, 1, 0x02, 1, .u8, 0x1333, .n 0, .vol, true, false, .mask 0x3F⟩ 0x2D06 2 (.num v.toNat) =
      codeError (decide (v.toNat < 64)) := by
    have hland : Nat.land v.toNat 0x3F = v.toNat % 64 := Nat.and_two_pow_sub_one_eq_mod v.toNat 6
    have hiff : (v.toNat % 64 = v.toNat) ↔ v.toNat < 64 := ⟨fun h => by omega, Nat.mod_eq_of_lt⟩
    unfold valueError
    show ((codeError (decide (Nat.land v.toNat 0x3F = v.toNat))).or none).or none = _
    rw [hland, Option.or_none, Option.or_none]
    simp only [hiff]
  refine ⟨fun h => ?_, fun h => ?_⟩
  · refine completes_num_refused (c := .gpioOutput src v) rfl hs hm rfl rfl v.isLt ?_ (by decide) (by decide)
    rw [hmask, decide_eq_false (Nat.not_lt.mpr h)]
    rfl
  · refine completes_num (c := .gpioOutput src v) (n := 1) (v := v.toNat) rfl hs hm rfl rfl v.isLt rfl ?_ (by decide) (by decide) (by decide)
      (fun h => absurd h.1 (by decide)) fun a ha => ?_
    · rw [hmask, decide_eq_true h]
      rfl
    · exact ha.acts (A := [.regs]) (f := setReg 0x2D06 2 v.toNat) (setReg_framed _ _ _ _ (by decide) (.refl _ _)) (by decide) (by decide) 0x2D06 2

end trip

/-- Settles O53: a trip stops the control complex, and what follows goes by the sequencer's state and the count of the episode. -/
theorem theSequencerWatchesRestartsAndRecoversAsGiven : Obligations.TheSequencerWatchesRestartsAndRecoversAsGiven := by
  intro s p counter holds
  exact ⟨watchdogWrite_feeds.1, watchdogWrite_feeds.2, fun t ht => watchdogTrip_trips ht, fun t ht => stableTime_ends ht,
    fun t ht => wakeBootTimeout_releases ht, bypassRefreshLoss_releases, heartbeatLoss_closes.1, heartbeatLoss_closes.2,
    fun w => pmbusAlert_reads w, fun src v hs hm => gpioOutput_takes hs hm⟩

end Sys2Proof.Machine
end

section
/-! PROOF. Sensors and the margin planner (R506, R511 to R520). -/

namespace Sys2Proof.Machine

/-! ### What the health functions look at -/

section looks

variable {a b d : Dev}

theorem Framed.healthRest {A : List Part} (h : Framed A a b) (hA : Part.health ∉ A) : b.health.rest = a.health.rest := h.same .health hA

theorem raise_healthRest (ev : Ev) (inst : Nat) (d : Dev) : (raise ev inst d).health.rest = d.health.rest :=
  (raise_framed (L := [.out, .regs, .recd, .ints, .counters]) ev inst d (by decide) (.refl _ d)).healthRest (by decide)

theorem arrive_healthRest (t : Nat) (d : Dev) : (arrive t d).health.rest = d.health.rest :=
  (arrive_framed (L := [.clock, .counters]) t d (by decide) (.refl _ d)).healthRest (by decide)

/-- Equal registers read alike. -/
theorem cfg_of_od (h : b.dict.od = a.dict.od) (idx sub : Nat) : cfg b idx sub = cfg a idx sub := by
  unfold cfg DictS.reg
  rw [h]

/-- The clock of an island depends on ports, profile, power and the planner's clocks. -/
theorem clockHz_congr (hports : b.ports = a.ports) (hpow : b.pow = a.pow) (hnode : b.node = a.node) (hdict : b.dict = a.dict)
    (hclocks : b.health.clocks = a.health.clocks) (i : Nat) : clockHz b i = clockHz a i := by
  have hreg : ∀ p sub, portReg b p sub = portReg a p sub := fun p sub => cfg_of_dict hdict _ _
  unfold clockHz runRate
  simp only [hports, hpow, hnode, hclocks, hreg]

theorem measured_congr (h : b.health.sensors = a.health.sensors) : measured b = measured a := by
  unfold measured
  rw [h]

theorem shortIslands_congr (h : b.health.sensors = a.health.sensors) (slack : Int) : shortIslands b slack = shortIslands a slack := by
  unfold shortIslands
  rw [measured_congr h]

end looks

/-! ### The planner's pieces (R511 to R518) -/

section pieces

variable {d : Dev}

/-- Sensors, scans and settings of chapters 11 on stand. -/
structure ScanStands (a b : Dev) : Prop where
  sensors : b.health.sensors = a.health.sensors
  scanDue : b.health.scanDue = a.health.scanDue
  planDue : b.health.planDue = a.health.planDue

theorem ScanStands.refl (d : Dev) : ScanStands d d := ⟨rfl, rfl, rfl⟩

theorem ScanStands.trans {a b c : Dev} (h1 : ScanStands a b) (h2 : ScanStands b c) : ScanStands a c :=
  ⟨h2.sensors.trans h1.sensors, h2.scanDue.trans h1.scanDue, h2.planDue.trans h1.planDue⟩

theorem ScanStands.of_rest {a b : Dev} (h : b.health.rest = a.health.rest) : ScanStands a b :=
  ⟨(congrArg HealthS.sensors h :), (congrArg HealthS.scanDue h :), (congrArg HealthS.planDue h :)⟩

theorem plannerGate_stands (d : Dev) : ScanStands d (plannerGate d) := by
  unfold plannerGate
  split_ifs <;> exact ⟨rfl, rfl, rfl⟩

theorem exhaust_stands (i : Nat) (d : Dev) : ScanStands d (exhaust i d) ∧ LowRegs d (exhaust i d) := by
  have h : ScanStands d (raise evExhaustedIsland i (onHealth (fun h => { h with exhausted := h.exhausted ||| BitVec.ofNat 64 (2 ^ i) }) d)) := by
    refine ScanStands.trans ?_ (.of_rest (raise_healthRest _ _ _))
    exact ⟨rfl, rfl, rfl⟩
  have hl : LowRegs d (raise evExhaustedIsland i (onHealth (fun h => { h with exhausted := h.exhausted ||| BitVec.ofNat 64 (2 ^ i) }) d)) :=
    LowRegs.trans (b := onHealth (fun h => { h with exhausted := h.exhausted ||| BitVec.ofNat 64 (2 ^ i) }) d) (.of_od rfl) (raise_low _ _ _)
  unfold exhaust
  dsimp only
  generalize raise evExhaustedIsland i _ = e at *
  split
  · exact ⟨h.trans ⟨rfl, rfl, rfl⟩, hl.trans (.of_od rfl)⟩
  · exact ⟨h, hl⟩

theorem shortBranch_stands (islands : List Nat) (d : Dev) : ScanStands d (shortBranch islands d).2.2 ∧ LowRegs d (shortBranch islands d).2.2 := by
  have hfold : ∀ (l : List Nat) (x : List (Nat × Nat) × Option Nat × Dev), ScanStands d x.2.2 ∧ LowRegs d x.2.2 →
      let y := l.foldl (fun (x : List (Nat × Nat) × Option Nat × Dev) i =>
        match clockStep i with
        | some (step, floor_) =>
          let c := clockNow d i
          if floor_ < c then (x.1 ++ [(i, max floor_ (c - step))], x.2.1, x.2.2) else (x.1, x.2.1, exhaust i x.2.2)
        | none => (x.1, x.2.1, exhaust i x.2.2)) x
      ScanStands d y.2.2 ∧ LowRegs d y.2.2 := fun l => by
    induction l with
    | nil => exact fun _ h => h
    | cons i l ih =>
      intro x h
      have hex : ScanStands d (exhaust i x.2.2) ∧ LowRegs d (exhaust i x.2.2) :=
        ⟨h.1.trans (exhaust_stands i x.2.2).1, h.2.trans (exhaust_stands i x.2.2).2⟩
      refine ih _ ?_
      dsimp only
      split
      · split
        exacts [h, hex]
      · exact hex
  unfold shortBranch
  dsimp only
  split
  · exact ⟨.refl d, .refl d⟩
  · exact hfold islands _ ⟨.refl d, .refl d⟩

/-- While the voltage may rise the short branch asks for 10 mV more. -/
theorem shortBranch_raises (islands : List Nat) (h : vcoreSet d < cfg d 0x2E02 4) (hm : voltageMoves d = true) :
    shortBranch islands d = ([], some (min (cfg d 0x2E02 4) (vcoreSet d + 10)), d) := by
  unfold shortBranch
  dsimp only
  rw [decide_eq_true h, hm]
  rfl

/-- A plan asks for a voltage at a boundary. -/
def Asks (v : Nat) (d : Dev) : Prop :=
  d.health.planner = .pending ∧ d.health.applyAt ≠ none ∧ ∃ x, d.health.plan = some x ∧ x.vcore = some v ∧ x.clocks = []

theorem handOver_asks (v g : Nat) (eq : List (Nat × EqSet)) (d : Dev) : Asks v (handOver [] (some v) g eq d) := by
  unfold handOver
  rw [if_neg (by simp)]
  exact ⟨rfl, nofun, _, rfl, rfl, rfl⟩

theorem handOver_stands (clocks : List (Nat × Nat)) (vcore : Option Nat) (g : Nat) (eq : List (Nat × EqSet)) (d : Dev) :
    ScanStands d (handOver clocks vcore g eq d) ∧ (handOver clocks vcore g eq d).dict = d.dict := by
  unfold handOver
  dsimp only
  split <;> exact ⟨⟨rfl, rfl, rfl⟩, rfl⟩

/-- The planner may act and rests. -/
def PlannerFree (d : Dev) : Prop := plannerAllowed d = true ∧ cfgB d 0x2E02 1 = true ∧ (d.health.planner = .idle ∨ d.health.planner = .held)

/-- The gate lets a planner that may act go on. -/
theorem plannerGate_free (h : PlannerFree d) : (plannerGate d).health.planner = .idle := by
  obtain ⟨hp, -, hst⟩ := h
  unfold plannerAllowed at hp
  simp only [Bool.and_eq_true, Bool.or_eq_true, decide_eq_true_eq] at hp
  obtain ⟨hready, hprof⟩ := hp
  have hgate : ¬ (decide (d.node.profile = 2) || decide (d.node.profile = 4) || !d.pow.agentReady) = true := by
    rw [hready]
    rcases hprof with h | h <;> rw [h] <;> decide
  unfold plannerGate
  rw [if_neg hgate]
  rcases hst with h | h <;> rw [h] <;> simp [onHealth, h]

theorem plannerGate_leaves (d : Dev) : (plannerGate d).dict = d.dict ∧ (plannerGate d).node = d.node ∧ (plannerGate d).pow = d.pow ∧
    (plannerGate d).now = d.now ∧ (plannerGate d).sched = d.sched ∧ (plannerGate d).health.clocks = d.health.clocks ∧
    (plannerGate d).ports = d.ports ∧ (plannerGate d).health.prevAmple = d.health.prevAmple := by
  unfold plannerGate
  split_ifs <;> exact ⟨rfl, rfl, rfl, rfl, rfl, rfl, rfl, rfl⟩

/-- Each island that shows critical slack counts. -/
theorem urgentCounts (l : List Nat) (d : Dev) : let e := forEach l (fun i d => raise evUrgent i (bump 0x2E05 2 d)) d
    ScanStands d e ∧ (∀ idx sub, 0x2B00 ≤ idx → odKey idx sub ≠ odKey 0x2E05 2 → cfg e idx sub = cfg d idx sub) ∧
      (l ≠ [] → cfg e 0x2E05 2 = min 0xFFFFFFFF (cfg d 0x2E05 2 + l.length)) := by
  induction l generalizing d with
  | nil => exact ⟨.refl d, fun _ _ _ _ => rfl, fun h => absurd rfl h⟩
  | cons i l ih =>
    have h1 : ScanStands d (raise evUrgent i (bump 0x2E05 2 d)) := by
      refine ScanStands.trans ?_ (.of_rest (raise_healthRest _ _ _))
      exact ⟨rfl, rfl, rfl⟩
    have h2 : ∀ idx sub, 0x2B00 ≤ idx → odKey idx sub ≠ odKey 0x2E05 2 → cfg (raise evUrgent i (bump 0x2E05 2 d)) idx sub = cfg d idx sub :=
      fun idx sub hi hne => ((raise_low _ _ _).cfg hi).trans (cfg_bump_ne _ _ _ _ _ hne)
    have h3 : cfg (raise evUrgent i (bump 0x2E05 2 d)) 0x2E05 2 = min 0xFFFFFFFF (cfg d 0x2E05 2 + 1) :=
      ((raise_low _ _ _).cfg (by decide)).trans (cfg_bump_self 0x2E05 2 d (by decide))
    obtain ⟨g1, g2, g3⟩ := ih (raise evUrgent i (bump 0x2E05 2 d))
    refine ⟨h1.trans g1, fun idx sub hi hne => (g2 idx sub hi hne).trans (h2 idx sub hi hne), fun _ => ?_⟩
    show cfg (forEach l (fun i d => raise evUrgent i (bump 0x2E05 2 d)) (raise evUrgent i (bump 0x2E05 2 d))) 0x2E05 2 = _
    by_cases hl : l = []
    · subst hl
      exact h3
    · rw [g3 hl, h3, List.length_cons]
      omega

end pieces

/-! ### Scans (R506, R517) -/

section scans

variable {d : Dev}

/-- A scan's critical slack: the sensors stand, and where the planner may act each island counts and the voltage is asked to rise. -/
theorem urgent_acts (d : Dev) : ScanStands d (urgent d) ∧ (PlannerFree d → shortIslands d (cfg d 0x2E01 3) ≠ [] →
    cfg (urgent d) 0x2E05 2 = min 0xFFFFFFFF (cfg d 0x2E05 2 + (shortIslands d (cfg d 0x2E01 3)).length) ∧
    (vcoreSet d < cfg d 0x2E02 4 → voltageMoves d = true → Asks (min (cfg d 0x2E02 4) (vcoreSet d + 10)) (urgent d))) := by
  have hg := plannerGate_stands d
  obtain ⟨hdict, hnode, hpow, -, -, -, -, -⟩ := plannerGate_leaves d
  have hidle := @plannerGate_free d
  have hcfg : ∀ i b, cfg (plannerGate d) i b = cfg d i b := cfg_of_dict hdict
  have hshort : shortIslands (plannerGate d) (cfg (plannerGate d) 0x2E01 3) = shortIslands d (cfg d 0x2E01 3) := by
    rw [shortIslands_congr hg.sensors, hcfg]
  unfold urgent
  dsimp only
  rw [hshort]
  generalize shortIslands d (cfg d 0x2E01 3) = l at *
  have hallow : plannerAllowed (plannerGate d) = plannerAllowed d := by
    unfold plannerAllowed
    rw [hnode, hpow]
  have hon : cfgB (plannerGate d) 0x2E02 1 = cfgB d 0x2E02 1 := by
    unfold cfgB
    rw [hcfg]
  rw [hallow, hon]
  generalize plannerGate d = e at *
  obtain ⟨hu, hother, hcount⟩ := urgentCounts l e
  generalize forEach l (fun i d => raise evUrgent i (bump 0x2E05 2 d)) e = u at *
  have hbranch := shortBranch_stands l u
  have hraise := @shortBranch_raises u l
  generalize shortBranch l u = r at *
  obtain ⟨clocks, vcore, z⟩ := r
  obtain ⟨hz, hzl⟩ := hbranch
  dsimp only at hz hzl ⊢
  split
  · have hh := handOver_stands clocks vcore z.sched.guardAdd [] z
    refine ⟨((hg.trans hu).trans hz).trans hh.1, fun hfree hl => ⟨?_, fun hv hm => ?_⟩⟩
    · rw [cfg_of_dict hh.2, hzl.cfg (by decide), hcount hl, hcfg]
    · have hset : ∀ i b, 0x2B00 ≤ i → odKey i b ≠ odKey 0x2E05 2 → cfg u i b = cfg d i b := fun i b hi hne => (hother i b hi hne).trans (hcfg i b)
      have hv4 : cfg u 0x2E02 4 = cfg d 0x2E02 4 := hset _ _ (by decide) (by decide)
      have hv2 : vcoreSet u = vcoreSet d := hset _ _ (by decide) (by decide)
      have hmv : voltageMoves u = voltageMoves d := by
        unfold voltageMoves
        rw [hset _ _ (by decide) (by decide)]
      have h := hraise (by rw [hv2, hv4]; exact hv) (hmv.trans hm)
      simp only [Prod.mk.injEq] at h
      obtain ⟨rfl, rfl, rfl⟩ := h
      rw [hv2, hv4]
      exact handOver_asks _ _ _ _
  · next hno =>
    refine ⟨hg, fun hfree hl => absurd ?_ hno⟩
    rw [hfree.1, hfree.2.1, hidle hfree]
    cases l with
    | nil => exact absurd rfl hl
    | cons x l => rfl

end scans

section commands

variable {s : State}

theorem takeReadings_sensors (rs : List SensorReading) (d : Dev) (i : Fin 128) :
    (∀ r, rs[i.val]? = some r → islandMeasured d (sensorIsland i.val) = true → (takeReadings rs d).health.sensors[i] =
      ⟨((1000000000000 / max 1 (clockHz d (sensorIsland i.val)) : Nat) : Int) - r.delay, r.shift, true⟩) ∧
    (rs[i.val]? = none ∨ islandMeasured d (sensorIsland i.val) = false → (takeReadings rs d).health.sensors[i].measured = false) := by
  have hi : (takeReadings rs d).health.sensors[i] = match rs[i.val]? with
      | some r =>
        if islandMeasured d (sensorIsland i.val) then
          { slack := ((1000000000000 / max 1 (clockHz d (sensorIsland i.val)) : Nat) : Int) - r.delay, shift := r.shift, measured := true }
        else { d.health.sensors[i] with measured := false }
      | none => { d.health.sensors[i] with measured := false } := Vector.getElem_ofFn i.isLt
  rw [hi]
  refine ⟨fun r hr hm => ?_, fun h => ?_⟩
  · rw [hr]
    exact if_pos hm
  · rcases h with h | h
    · rw [h]
    · rw [h]
      split <;> rfl

theorem sensorScan_acts {t : Nat} (rs : List SensorReading) (ht : s.dev.health.scanDue = some t) : Completes (.sensorScan rs) s fun d =>
    d.now = max s.dev.now t ∧ d.health.scanDue = some (t + cfg s.dev 0x2E01 1 * msNs) ∧
    (∀ i : Fin 128,
      (∀ r : SensorReading, rs[i.val]? = some r → islandMeasured s.dev (sensorIsland i.val) = true → d.health.sensors[i] =
        ⟨((1000000000000 / max 1 (clockHz s.dev (sensorIsland i.val)) : Nat) : Int) - r.delay, r.shift, true⟩) ∧
      (rs[i.val]? = none ∨ islandMeasured s.dev (sensorIsland i.val) = false → d.health.sensors[i].measured = false)) ∧
    (PlannerFree s.dev → shortIslands d (cfg s.dev 0x2E01 3) ≠ [] →
      cfg d 0x2E05 2 = min 0xFFFFFFFF (cfg s.dev 0x2E05 2 + (shortIslands d (cfg s.dev 0x2E01 3)).length) ∧
      (vcoreSet s.dev < cfg s.dev 0x2E02 4 → voltageMoves s.dev = true → Asks (min (cfg s.dev 0x2E02 4) (vcoreSet s.dev + 10)) d)) := by
  generalize ha : onHealth (fun h => { h with scanDue := some (t + cfg s.dev 0x2E01 1 * msNs) }) (arrive t s.found) = a
  have hrest := arrive_healthRest t s.found
  have hclocks : a.health.clocks = s.dev.health.clocks := by rw [← ha]; exact (congrArg HealthS.clocks hrest :)
  have hplanner : a.health.planner = s.dev.health.planner := by rw [← ha]; exact (congrArg HealthS.planner hrest :)
  have hdict : a.dict = s.dev.dict := by rw [← ha]; exact arrive_dict t s.found
  have hports : a.ports = s.dev.ports := by rw [← ha]; exact arrive_ports t s.found
  have hpow : a.pow = s.dev.pow := by rw [← ha]; exact arrive_pow t s.found
  have hnode : a.node = s.dev.node := by rw [← ha]; exact arrive_node t s.found
  have hfab : a.fab = s.dev.fab := by rw [← ha]; exact arrive_fab t s.found
  have hpins : a.pins = s.dev.pins := by rw [← ha]; exact arrive_pins t s.found
  have hnow : a.now = max s.dev.now t := by rw [← ha]; exact arrive_now t s.found
  have hdue : a.health.scanDue = some (t + cfg s.dev 0x2E01 1 * msNs) := by rw [← ha]; rfl
  have hcfg : ∀ i b, cfg a i b = cfg s.dev i b := cfg_of_dict hdict
  have hmeas : ∀ i, islandMeasured a i = islandMeasured s.dev i := fun i => by
    unfold islandMeasured
    rw [hfab, hpins]
  have hrun : exec (.sensorScan rs) s = s.does fun _ => urgent (takeReadings rs a) := by
    show execSensorScan rs s = _
    unfold execSensorScan
    refine does_congr ?_
    have h : s.found.health.scanDue = some t := ht
    rw [h]
    dsimp only
    rw [show cfg (arrive t s.found) 0x2E01 1 = cfg s.dev 0x2E01 1 from cfg_of_dict (arrive_dict t s.found) _ _, ha]
  have hread := takeReadings_sensors rs a
  have hclock : ∀ i, clockHz a i = clockHz s.dev i := clockHz_congr hports hpow hnode hdict hclocks
  simp only [hmeas, hclock] at hread
  have htf : Framed [.health] a (takeReadings rs a) := takeReadings_framed rs a (by decide) (.refl _ a)
  have hth : (takeReadings rs a).health.scanDue = a.health.scanDue ∧ (takeReadings rs a).health.planner = a.health.planner := by
    unfold takeReadings onHealth
    exact ⟨rfl, rfl⟩
  refine completes_of_exec hrun ?_
  generalize takeReadings rs a = e at *
  have hn : e.node = a.node := htf.same .node (by decide)
  have hp : e.pow = a.pow := htf.same .pow (by decide)
  have hno : e.now = a.now := congrArg Prod.fst (htf.same .clock (by decide))
  obtain ⟨hsd, hpl⟩ := hth
  have hecfg : ∀ i b, cfg e i b = cfg s.dev i b := fun i b => (cfg_of_od (htf.same .regs (by decide)) i b).trans (hcfg i b)
  obtain ⟨hstand, hact⟩ := urgent_acts e
  have hf : Framed [.out, .regs, .fab, .recd, .ints, .health, .counters] e (urgent e) := urgent_framed e (by decide) (.refl _ e)
  generalize urgent e = d at *
  have hdn : d.now = e.now := congrArg Prod.fst (hf.same .clock (by decide))
  rw [hstand.sensors, shortIslands_congr hstand.sensors, hstand.scanDue]
  refine ⟨hdn.trans (hno.trans hnow), hsd.trans hdue, hread, fun hfree hl => ?_⟩
  have hefree : PlannerFree e := by
    unfold PlannerFree plannerAllowed cfgB at hfree ⊢
    rw [hp, hn, hpow, hnode, hpl, hplanner, hecfg]
    exact hfree
  unfold vcoreSet voltageMoves at *
  simp only [hecfg] at hact
  exact hact hefree hl

/-! ### Plans (R511 to R516) -/

/-- What a plan looks at: everything but the due time is what the state shows. -/
structure PlanSees (a b : Dev) : Prop where
  regs : ∀ i c, cfg b i c = cfg a i c
  sensors : b.health.sensors = a.health.sensors
  prevAmple : b.health.prevAmple = a.health.prevAmple
  clocks : ∀ i, clockHz b i = clockHz a i

theorem makePlan_raises {a b : Dev} (h : PlanSees a b) (hs : shortIslands a (cfg a 0x2E01 2) ≠ []) (hv : vcoreSet a < cfg a 0x2E02 4)
    (hm : voltageMoves a = true) : Asks (min (cfg a 0x2E02 4) (vcoreSet a + 10)) (makePlan b) := by
  have hshort : shortIslands b (cfg b 0x2E01 2) = shortIslands a (cfg a 0x2E01 2) := by rw [shortIslands_congr h.sensors, h.regs]
  have hraise := shortBranch_raises (d := b) (shortIslands b (cfg b 0x2E01 2)) (by unfold vcoreSet at *; rw [h.regs, h.regs]; exact hv)
    (by unfold voltageMoves at *; rw [h.regs]; exact hm)
  have hne : (!(shortIslands b (cfg b 0x2E01 2)).isEmpty) = true := by
    rw [hshort]
    cases hl : shortIslands a (cfg a 0x2E01 2) with
    | nil => exact absurd hl hs
    | cons x l => rfl
  unfold makePlan
  dsimp only
  rw [if_pos hne, hraise]
  dsimp only
  have hval : min (cfg b 0x2E02 4) (vcoreSet b + 10) = min (cfg a 0x2E02 4) (vcoreSet a + 10) := by
    unfold vcoreSet
    rw [h.regs, h.regs]
  rw [hval]
  exact handOver_asks _ _ _ _

theorem makePlan_lowers {a b : Dev} (h : PlanSees a b) (hample : ∀ x ∈ measured a, (cfg a 0x2E01 2 : Int) + 40 ≤ x.2.slack)
    (hprev : a.health.prevAmple = true) (hnominal : ∀ i : Nat, i < 41 → clockStep i ≠ none → nominalClock i ≤ clockNow a i)
    (hv : cfg a 0x2E02 3 < vcoreSet a) (hm : voltageMoves a = true) : Asks (max (cfg a 0x2E02 3) (vcoreSet a - 10)) (makePlan b) := by
  have hmeas : measured b = measured a := measured_congr h.sensors
  have hshort : shortIslands b (cfg b 0x2E01 2) = [] := by
    unfold shortIslands
    have hnone : (measured b).filter (fun x => decide (x.2.slack < (cfg b 0x2E01 2 : Int))) = [] := by
      rw [hmeas, h.regs, List.filter_eq_nil_iff]
      intro x hx hlt
      have := hample x hx
      have := of_decide_eq_true hlt
      omega
    rw [hnone]
    rfl
  have hall : (measured b).all (fun x => decide ((cfg b 0x2E01 2 : Int) + 40 ≤ x.2.slack)) = true := by
    rw [hmeas, h.regs, List.all_eq_true]
    exact fun x hx => decide_eq_true (hample x hx)
  have hfind : (List.range 41).find? (fun i => (clockStep i).isSome && decide (clockNow b i < nominalClock i)) = none := by
    rw [List.find?_eq_none]
    intro i hi hc
    simp only [Bool.and_eq_true, decide_eq_true_eq] at hc
    obtain ⟨h1, h2⟩ := hc
    unfold clockNow at h2
    rw [h.clocks] at h2
    have := hnominal i (List.mem_range.mp hi) (fun h0 => by rw [h0] at h1; exact nomatch h1)
    unfold clockNow at this
    omega
  have hbranch : ampleBranch b = ([], some (max (cfg a 0x2E02 3) (vcoreSet a - 10))) := by
    unfold ampleBranch
    rw [hfind]
    unfold vcoreSet voltageMoves at *
    simp only [h.regs]
    rw [decide_eq_true hv, hm]
    rfl
  unfold makePlan
  dsimp only
  rw [hshort, hall, h.prevAmple, hprev, hbranch]
  exact handOver_asks _ _ _ _

theorem planningPeriod_plans {t : Nat} (ht : s.dev.health.planDue = some t) : Completes .planningPeriod s fun d => d.now = max s.dev.now t ∧
    d.health.planDue = some (t + cfg s.dev 0x2E02 2 * sNs) ∧
    (PlannerFree s.dev → shortIslands s.dev (cfg s.dev 0x2E01 2) ≠ [] → vcoreSet s.dev < cfg s.dev 0x2E02 4 → voltageMoves s.dev = true →
      Asks (min (cfg s.dev 0x2E02 4) (vcoreSet s.dev + 10)) d) ∧
    (PlannerFree s.dev → (∀ x ∈ measured s.dev, (cfg s.dev 0x2E01 2 : Int) + 40 ≤ x.2.slack) → s.dev.health.prevAmple = true →
      (∀ i : Nat, i < 41 → clockStep i ≠ none → nominalClock i ≤ clockNow s.dev i) → cfg s.dev 0x2E02 3 < vcoreSet s.dev →
      voltageMoves s.dev = true → Asks (max (cfg s.dev 0x2E02 3) (vcoreSet s.dev - 10)) d) := by
  generalize ha : onHealth (fun h => { h with planDue := some (t + cfg s.dev 0x2E02 2 * sNs) }) (arrive t s.found) = a
  have hrest := arrive_healthRest t s.found
  have hclocks : a.health.clocks = s.dev.health.clocks := by rw [← ha]; exact (congrArg HealthS.clocks hrest :)
  have hsens : a.health.sensors = s.dev.health.sensors := by rw [← ha]; exact (congrArg HealthS.sensors hrest :)
  have hprev : a.health.prevAmple = s.dev.health.prevAmple := by rw [← ha]; exact (congrArg HealthS.prevAmple hrest :)
  have hplanner : a.health.planner = s.dev.health.planner := by rw [← ha]; exact (congrArg HealthS.planner hrest :)
  have hdict : a.dict = s.dev.dict := by rw [← ha]; exact arrive_dict t s.found
  have hports : a.ports = s.dev.ports := by rw [← ha]; exact arrive_ports t s.found
  have hpow : a.pow = s.dev.pow := by rw [← ha]; exact arrive_pow t s.found
  have hnode : a.node = s.dev.node := by rw [← ha]; exact arrive_node t s.found
  have hnow : a.now = max s.dev.now t := by rw [← ha]; exact arrive_now t s.found
  have hdue : a.health.planDue = some (t + cfg s.dev 0x2E02 2 * sNs) := by rw [← ha]; rfl
  have hafree : PlannerFree s.dev → PlannerFree a := fun hfree => by
    unfold PlannerFree plannerAllowed cfgB at hfree ⊢
    rw [hpow, hnode, hplanner, cfg_of_dict hdict]
    exact hfree
  have hidle := @plannerGate_free a
  have hstand := plannerGate_stands a
  obtain ⟨hgd, hgn, hgp, hgt, -, hgc, hgports, hga⟩ := plannerGate_leaves a
  have hrun : exec .planningPeriod s = s.does fun _ =>
      if cfgB (plannerGate a) 0x2E02 1 && plannerAllowed (plannerGate a) && decide ((plannerGate a).health.planner = .idle) then
        makePlan (plannerGate a) else plannerGate a := by
    show execPlanningPeriod s = _
    unfold execPlanningPeriod
    refine does_congr ?_
    have h : s.found.health.planDue = some t := ht
    rw [h]
    dsimp only
    rw [show cfg s.found 0x2E02 2 = cfg s.dev 0x2E02 2 from rfl, ha]
  refine completes_of_exec hrun ?_
  generalize plannerGate a = g at *
  have hsees : PlanSees s.dev g :=
    ⟨fun i c => (cfg_of_dict hgd i c).trans (cfg_of_dict hdict i c), hstand.sensors.trans hsens, hga.trans hprev,
      clockHz_congr (hgports.trans hports) (hgp.trans hpow) (hgn.trans hnode) (hgd.trans hdict) (hgc.trans hclocks)⟩
  have hgo : PlannerFree s.dev → (cfgB g 0x2E02 1 && plannerAllowed g && decide (g.health.planner = .idle)) = true := fun hfree => by
    have h2 : plannerAllowed g = true := by
      unfold plannerAllowed at *
      rw [hgp, hgn]
      exact (hafree hfree).1
    have h1 : cfgB g 0x2E02 1 = true := by
      unfold cfgB
      rw [hsees.regs]
      exact hfree.2.1
    rw [h1, h2, hidle (hafree hfree)]
    rfl
  have hplan : ∀ e : Dev, (makePlan e).now = e.now ∧ (makePlan e).health.planDue = e.health.planDue := fun e => by
    have hf : Framed [.out, .regs, .fab, .recd, .ints, .health, .counters] e (makePlan e) := makePlan_framed e (by decide) (.refl _ e)
    refine ⟨congrArg Prod.fst (hf.same .clock (by decide)), ?_⟩
    have hbranch := shortBranch_stands (shortIslands e (cfg e 0x2E01 2)) e
    unfold makePlan
    dsimp only
    have hover : ∀ c v g q (x : Dev), (handOver c v g q x).health.planDue = x.health.planDue := fun c v g q x => (handOver_stands c v g q x).1.planDue
    split
    · generalize shortBranch (shortIslands e (cfg e 0x2E01 2)) e = r at *
      obtain ⟨c, v, z⟩ := r
      exact (hover _ _ _ _ _).trans hbranch.1.planDue
    · split
      · exact hover _ _ _ _ _
      · exact hover _ _ _ _ _
  refine ⟨?_, ?_, fun hfree hs hv hm => ?_, fun hfree h1 h2 h3 h4 h5 => ?_⟩
  · split
    · exact (hplan g).1.trans (hgt.trans hnow)
    · exact hgt.trans hnow
  · split
    · exact (hplan g).2.trans (hstand.planDue.trans hdue)
    · exact hstand.planDue.trans hdue
  · rw [if_pos (hgo hfree)]
    exact makePlan_raises hsees hs hv hm
  · rw [if_pos (hgo hfree)]
    exact makePlan_lowers hsees h1 h2 h3 h4 h5

end commands

end Sys2Proof.Machine
end

section
/-! PROOF. Plans that are applied, the tracker and snapshots (R506 to R519, R524, R528). -/

namespace Sys2Proof.Machine

/-! ### A plan is applied, confirmed or undone (R516, R519) -/

section plans

variable {s : State} {d : Dev}

theorem Vector.set!_same (v : Vector Nat 41) (i : Fin 41) (c : Nat) : (v.set! i.val c)[i] = c := by
  simp [Vector.set!]

theorem setClocks_stands (l : List (Nat × Nat)) (d : Dev) : ∃ c, setClocks l d = onHealth (fun h => { h with clocks := c }) d := by
  induction l generalizing d with
  | nil => exact ⟨d.health.clocks, rfl⟩
  | cons x l ih =>
    obtain ⟨c, hc⟩ := ih (onHealth (fun h => { h with clocks := h.clocks.set! x.1 x.2 }) d)
    exact ⟨c, hc⟩

/-- One clock step sets its clock. -/
theorem setClocks_sets {l : List (Nat × Nat)} {i : Fin 41} {c : Nat} (h : l = [(i.val, c)]) (d : Dev) : (setClocks l d).health.clocks[i] = c := by
  subst h
  exact Vector.set!_same d.health.clocks i c

/-- The part of `rest` that a raise leaves, field by field. -/
theorem planDone_ends (d : Dev) : let e := planDone d
    e.health.planner = .idle ∧ e.health.plan = none ∧ e.health.confirmBy = none ∧ e.health.clocks = d.health.clocks ∧
      cfg e 0x2E03 5 = min 0xFFFFFFFF (cfg d 0x2E03 5 + 1) ∧ cfg e 0x2E03 2 = cfg d 0x2E03 2 ∧ e.node = d.node ∧ e.sched = d.sched := by
  have hr := raise_healthRest evPlanApplied noInst (setReg 0x2E03 6 (trainTime d) (bump 0x2E03 5
    (onHealth (fun h => { h with planner := .idle, plan := none, applyAt := none, confirmBy := none, undo := [] }) d)))
  unfold planDone
  refine ⟨(congrArg HealthS.planner hr :), (congrArg HealthS.plan hr :), (congrArg HealthS.confirmBy hr :), (congrArg HealthS.clocks hr :), ?_, ?_, ?_, ?_⟩
  · rw [(raise_low _ _ _).cfg (by decide), cfg_setReg_ne _ _ _ _ _ _ (by decide)]
    exact cfg_bump_self 0x2E03 5 _ (by decide)
  · rw [(raise_low _ _ _).cfg (by decide), cfg_setReg_ne _ _ _ _ _ _ (by decide), cfg_bump_ne _ _ _ _ _ (by decide)]
    rfl
  · rw [raise_node]
    rfl
  · rw [raise_sched]
    rfl

/-- A voltage step has failed. -/
def Failed (s : State) (d : Dev) : Prop :=
  d.health.planner = .idle ∧ d.health.plan = none ∧ d.health.confirmBy = none ∧
    cfg d 0x2E05 3 = min 0xFFFFFFFF (cfg s.dev 0x2E05 3 + 1) ∧
    ∀ (i : Fin 41) (c : Nat), s.dev.health.undo = [(i.val, c)] → d.health.clocks[i] = c

theorem voltageFails_fails (hundo : d.health.undo = s.dev.health.undo) (hcfg : cfg d 0x2E05 3 = cfg s.dev 0x2E05 3) :
    Failed s (voltageFails d) ∧ (voltageFails d).node = d.node ∧ (voltageFails d).now = d.now := by
  unfold voltageFails Failed
  have hsets := fun (i : Fin 41) (c : Nat) (h : d.health.undo = [(i.val, c)]) =>
    setClocks_sets h (onHealth (fun h => { h with planner := .idle, plan := none, confirmBy := none, undo := [] }) d)
  obtain ⟨clocks, hc⟩ := setClocks_stands d.health.undo (onHealth (fun h => { h with planner := .idle, plan := none, confirmBy := none, undo := [] }) d)
  rw [hc] at hsets ⊢
  generalize hx : onHealth (fun h => { h with clocks := clocks }) _ = x at *
  have hr := raise_healthRest evVoltageFailed noInst (bump 0x2E05 3 x)
  have hxh : x.health.planner = .idle ∧ x.health.plan = none ∧ x.health.confirmBy = none ∧ x.node = d.node ∧ x.now = d.now ∧
      cfg x 0x2E05 3 = cfg d 0x2E05 3 := by
    rw [← hx]
    exact ⟨rfl, rfl, rfl, rfl, rfl, rfl⟩
  obtain ⟨h1, h2, h3, h4, h5, h6⟩ := hxh
  refine ⟨⟨(congrArg HealthS.planner hr :).trans h1, (congrArg HealthS.plan hr :).trans h2, (congrArg HealthS.confirmBy hr :).trans h3, ?_,
    fun i c h => ?_⟩, ?_, ?_⟩
  · rw [(raise_low _ _ _).cfg (by decide), cfg_bump_self 0x2E05 3 _ (by decide), h6, hcfg]
  · rw [show (raise evVoltageFailed noInst (bump 0x2E05 3 x)).health.clocks = x.health.clocks from (congrArg HealthS.clocks hr :)]
    exact hsets i c (hundo.trans h)
  · rw [raise_node, bump_node, h4]
  · rw [raise_now, bump_now, h5]

theorem readVoutTimeout_fails {t : Nat} (ht : s.dev.health.confirmBy = some t) (hp : s.dev.health.planner = .confirming) :
    Completes .readVoutTimeout s fun d => Failed s d ∧ d.now = max s.dev.now t := by
  have hrun : exec .readVoutTimeout s = s.does fun d => voltageFails (arrive t d) := by
    show execReadVoutTimeout s = _
    unfold execReadVoutTimeout
    refine does_congr ?_
    have h : s.found.health.confirmBy = some t := ht
    have h' : s.found.health.planner = .confirming := hp
    rw [h]
    exact if_pos h'
  have hr := arrive_healthRest t s.found
  have hu : (arrive t s.found).health.undo = s.dev.health.undo := (congrArg HealthS.undo hr :)
  obtain ⟨h1, -, h3⟩ := voltageFails_fails (s := s) hu (cfg_of_dict (arrive_dict t s.found) _ _)
  exact completes_of_exec hrun ⟨h1, h3.trans (arrive_now t s.found)⟩

theorem readVout_judges (mv : BitVec 16) :
    (s.dev.health.planner ≠ .confirming → Completes (.readVout mv) s (Framed [] s.found)) ∧
    (s.dev.health.planner = .confirming → Completes (.readVout mv) s fun d => d.node.vcore = mv.toNat ∧
      if s.dev.health.commanded ≤ mv.toNat + 10 ∧ mv.toNat ≤ s.dev.health.commanded + 10 then
        (s.dev.Valid → vcoreSet d = s.dev.health.commanded) ∧ d.health.confirmBy = none ∧
        if ∃ x, s.dev.health.plan = some x ∧ (x.followClocks ≠ [] ∨ x.followVcore ≠ none) then
          d.health.planner = .pending ∧ ∃ x y, s.dev.health.plan = some x ∧ d.health.plan = some y ∧ y.clocks = x.followClocks ∧
            y.vcore = x.followVcore
        else d.health.planner = .idle ∧ d.health.plan = none ∧ cfg d 0x2E03 5 = min 0xFFFFFFFF (cfg s.dev 0x2E03 5 + 1)
      else Failed s d) := by
  refine ⟨fun h => ?_, fun h => ?_⟩
  · refine completes_of_exec (f := id) ?_ (.refl _ _)
    show execReadVout mv s = _
    unfold execReadVout
    exact does_congr (if_pos h)
  · generalize hd : ({ s.found with node := { s.dev.node with vcore := mv.toNat } } : Dev) = d1
    have hrun : exec (.readVout mv) s = s.does fun _ =>
        if decide (s.dev.health.commanded ≤ mv.toNat + 10) && decide (mv.toNat ≤ s.dev.health.commanded + 10) then
          followUp (setReg 0x2E03 2 s.dev.health.commanded d1) else voltageFails d1 := by
      show execReadVout mv s = _
      unfold execReadVout
      refine does_congr ?_
      have hp : ¬ s.found.health.planner ≠ .confirming := not_not.mpr h
      rw [if_neg hp, ← hd]
      rfl
    have hv : d1.node.vcore = mv.toNat := by rw [← hd]
    have hh : d1.health = s.dev.health := by rw [← hd]; rfl
    have hdict : d1.dict = s.dev.dict := by rw [← hd]; rfl
    refine completes_of_exec hrun ?_
    by_cases hin : s.dev.health.commanded ≤ mv.toNat + 10 ∧ mv.toNat ≤ s.dev.health.commanded + 10
    · rw [if_pos hin, if_pos (by rw [decide_eq_true hin.1, decide_eq_true hin.2]; rfl)]
      have hset : s.dev.Valid → cfg (setReg 0x2E03 2 s.dev.health.commanded d1) 0x2E03 2 = s.dev.health.commanded := fun hvalid =>
        cfg_setReg_wf _ _ _ _ (by rw [hdict]; exact hvalid.kept.dict.od)
      have h5 : cfg (setReg 0x2E03 2 s.dev.health.commanded d1) 0x2E03 5 = cfg s.dev 0x2E03 5 :=
        (cfg_setReg_ne _ _ _ _ _ _ (by decide)).trans (cfg_of_dict hdict _ _)
      have he : (setReg 0x2E03 2 s.dev.health.commanded d1).health = s.dev.health ∧ (setReg 0x2E03 2 s.dev.health.commanded d1).node = d1.node := ⟨hh, rfl⟩
      generalize setReg 0x2E03 2 s.dev.health.commanded d1 = e at *
      obtain ⟨heh, hen⟩ := he
      obtain ⟨q1, q2, q3, -, q5, q6, q7, -⟩ := planDone_ends e
      have hdone : (planDone e).node.vcore = mv.toNat ∧ (s.dev.Valid → vcoreSet (planDone e) = s.dev.health.commanded) ∧ (planDone e).health.confirmBy = none ∧
          (planDone e).health.planner = .idle ∧ (planDone e).health.plan = none ∧ cfg (planDone e) 0x2E03 5 = min 0xFFFFFFFF (cfg s.dev 0x2E03 5 + 1) :=
        ⟨by rw [q7, hen, hv], fun h => q6.trans (hset h), q3, q1, q2, by rw [q5, h5]⟩
      obtain ⟨g1, g2, g3, g4⟩ := hdone
      unfold followUp
      rw [heh]
      cases hplan : s.dev.health.plan with
      | none =>
        rw [if_neg (fun ⟨_, hx, _⟩ => nomatch hx)]
        exact ⟨g1, g2, g3, g4⟩
      | some x =>
        dsimp only
        by_cases hfollow : x.followClocks ≠ [] ∨ x.followVcore ≠ none
        · have hb : ¬ (x.followClocks.isEmpty && x.followVcore.isNone) = true := by
            rw [Bool.and_eq_true, List.isEmpty_iff, Option.isNone_iff_eq_none]
            tauto
          rw [if_neg hb, if_pos ⟨x, rfl, hfollow⟩]
          exact ⟨by rw [← hv, ← hen]; rfl, fun h => hset h, rfl, rfl, x, _, rfl, rfl, rfl, rfl⟩
        · have hb : (x.followClocks.isEmpty && x.followVcore.isNone) = true := by
            rw [Bool.and_eq_true, List.isEmpty_iff, Option.isNone_iff_eq_none]
            tauto
          rw [if_pos hb, if_neg (fun ⟨y, hy, hf⟩ => hfollow (by rw [Option.some.inj hy]; exact hf))]
          exact ⟨g1, g2, g3, g4⟩
    · rw [if_neg hin, if_neg (by rw [Bool.and_eq_true, decide_eq_true_eq, decide_eq_true_eq]; exact hin)]
      obtain ⟨h1, h2, -⟩ := voltageFails_fails (s := s) (d := d1) (by rw [hh]) (cfg_of_dict hdict _ _)
      exact ⟨by rw [h2, hv], h1⟩

end plans

section apply

variable {s : State}

/-- What a boundary shows when a plan is due: time has come, and nothing else has changed. -/
theorem arriveTrain_leaves (t : Nat) : let a := arriveTrain t s.found
    a.sched = s.dev.sched ∧ a.strm = s.dev.strm ∧ a.inaug = s.dev.inaug ∧ a.time.armed = s.dev.time.armed ∧ a.pow = s.dev.pow ∧
      a.dict = s.dev.dict ∧ a.out = [] ∧ a.health.rest = s.dev.health.rest := by
  have hf : Framed [.clock, .counters] s.found (arriveTrain t s.found) := arriveTrain_framed t _ (by decide) (.refl _ _)
  have htime : (arriveTrain t s.found).time.rest = s.dev.time.rest := hf.same .time (by decide)
  have hdict : (arriveTrain t s.found).dict = s.dev.dict := arriveTrainFuel_dict 8 t s.found
  exact ⟨hf.same .sched (by decide), hf.same .strm (by decide), hf.same .inaug (by decide), (congrArg TimeS.armed htime :), hf.same .pow (by decide),
    hdict, hf.same .out (by decide), hf.healthRest (by decide)⟩

/-- The next boundary changes something of its own. -/
def BoundaryTaken (s : State) (t : Nat) : Prop :=
  s.dev.sched.switchPending = true ∨ s.dev.strm.switchPending = true ∨ s.dev.sched.lastSwitch = t ∨
    s.dev.sched.lastBoundary = t ∨ s.dev.strm.lastBoundary = some t ∨ (∃ a, s.dev.time.armed = some a ∧ a.point ≤ t)

/-- No switch falls on the boundary. -/
def BoundaryFree (s : State) (t : Nat) : Prop :=
  s.dev.sched.switchPending = false ∧ s.dev.strm.switchPending = false ∧ s.dev.inaug.accepted = none ∧ s.dev.sched.lastSwitch ≠ t ∧
    s.dev.sched.lastBoundary ≠ t ∧ s.dev.strm.lastBoundary ≠ some t ∧ (∀ a, s.dev.time.armed = some a → t < a.point)

theorem scheduleActive_congr {a b : Dev} (h : b.sched = a.sched) : scheduleActive b = scheduleActive a := by
  unfold scheduleActive schedRuns
  rw [h]

theorem boundaryBusy_taken {t : Nat} (h1 : scheduleActive s.dev = true) (h2 : BoundaryTaken s t) : boundaryBusy (arriveTrain t s.found) t = true := by
  obtain ⟨hs, hst, -, ha, -⟩ := arriveTrain_leaves (s := s) t
  unfold boundaryBusy
  rw [scheduleActive_congr hs, h1, hs, hst, ha]
  rcases h2 with h | h | h | h | h | ⟨a, h, hle⟩ <;> simp [h]
  simp [hle]

theorem boundaryBusy_free {t : Nat} (h : scheduleActive s.dev = false ∨ BoundaryFree s t) : boundaryBusy (arriveTrain t s.found) t = false := by
  obtain ⟨hs, hst, hi, ha, -⟩ := arriveTrain_leaves (s := s) t
  unfold boundaryBusy
  rw [scheduleActive_congr hs, hs, hst, ha, hi]
  rcases h with h | ⟨h1, h2, h3, h4, h5, h6, h7⟩
  · rw [h]
    rfl
  · rw [h1, h2, h3, decide_eq_false h4, decide_eq_false h5, decide_eq_false h6]
    cases harm : s.dev.time.armed with
    | none => simp
    | some x =>
      have := h7 x harm
      simp [Nat.not_le.mpr this]

theorem planApply_waits {t : Nat} {x : Plan} (ht : s.dev.health.applyAt = some t) (hx : s.dev.health.plan = some x)
    (h1 : scheduleActive s.dev = true) (h2 : BoundaryTaken s t) : Completes .planApply s fun d =>
      cfg d 0x2E05 1 = min 0xFFFFFFFF (cfg s.dev 0x2E05 1 + 1) ∧ d.health.plan = some x ∧ d.health.planner = s.dev.health.planner ∧
      d.sched.guardAdd = s.dev.sched.guardAdd := by
  have hbusy := boundaryBusy_taken h1 h2
  obtain ⟨hs, -, -, -, -, hd, -, hr⟩ := arriveTrain_leaves (s := s) t
  have hrun : exec .planApply s = s.does fun d => bump 0x2E05 1 (onHealth (fun h => { h with applyAt := some (boundaryFrom (arriveTrain t d) (t + 1)) })
      (arriveTrain t d)) := by
    show execPlanApply s = _
    unfold execPlanApply
    refine does_congr ?_
    have ha : s.found.health.applyAt = some t := ht
    have hp : s.found.health.plan = some x := hx
    rw [ha, hp]
    exact if_pos hbusy
  refine completes_of_exec hrun ?_
  generalize arriveTrain t s.found = a at *
  refine ⟨?_, (congrArg HealthS.plan hr :).trans hx, (congrArg HealthS.planner hr :), congrArg SchedS.guardAdd hs⟩
  refine (cfg_bump_self 0x2E05 1 _ (by decide)).trans ?_
  rw [← cfg_of_dict hd]
  rfl

/-- The device with a plan's guard addition, clocks and equalisation. -/
def planSet (x : Plan) (a : Dev) : Dev :=
  forEach x.eq (fun y d => setEq (Fin.ofNat 20 y.1) y.2 d) (setClocks x.clocks { a with sched := { a.sched with guardAdd := x.guardAdd } })

theorem planSet_sets (x : Plan) (a : Dev) : let e := planSet x a
    e.sched.guardAdd = x.guardAdd ∧ (∀ (i : Fin 41) (c : Nat), x.clocks = [(i.val, c)] → e.health.clocks[i] = c) ∧
      e.health.planner = a.health.planner ∧ e.dict = a.dict ∧ e.out = a.out ∧ e.now = a.now := by
  have hsets := fun (i : Fin 41) (c : Nat) (h : x.clocks = [(i.val, c)]) => setClocks_sets h { a with sched := { a.sched with guardAdd := x.guardAdd } }
  obtain ⟨clocks, hc⟩ := setClocks_stands x.clocks { a with sched := { a.sched with guardAdd := x.guardAdd } }
  unfold planSet
  rw [hc] at hsets ⊢
  generalize hb : onHealth (fun h => { h with clocks := clocks }) _ = b at *
  have hbs : b.sched.guardAdd = x.guardAdd ∧ b.health.planner = a.health.planner ∧ b.dict = a.dict ∧ b.out = a.out ∧ b.now = a.now := by
    rw [← hb]
    exact ⟨rfl, rfl, rfl, rfl, rfl⟩
  obtain ⟨h1, h2, h3, h4, h5⟩ := hbs
  have hone : ∀ p e (z : Dev), (setEq p e z).sched = z.sched ∧ (setEq p e z).health = z.health ∧ (setEq p e z).dict = z.dict ∧
      (setEq p e z).out = z.out ∧ (setEq p e z).now = z.now := fun p e z => by
    unfold setEq
    dsimp only
    split <;> exact ⟨rfl, rfl, rfl, rfl, rfl⟩
  have hall : ∀ (l : List (Nat × EqSet)) (z : Dev), let w := forEach l (fun y d => setEq (Fin.ofNat 20 y.1) y.2 d) z
      w.sched = z.sched ∧ w.health = z.health ∧ w.dict = z.dict ∧ w.out = z.out ∧ w.now = z.now := fun l => by
    induction l with
    | nil => exact fun _ => ⟨rfl, rfl, rfl, rfl, rfl⟩
    | cons y l ih =>
      intro z
      obtain ⟨g1, g2, g3, g4, g5⟩ := ih (setEq (Fin.ofNat 20 y.1) y.2 z)
      obtain ⟨k1, k2, k3, k4, k5⟩ := hone (Fin.ofNat 20 y.1) y.2 z
      exact ⟨g1.trans k1, g2.trans k2, g3.trans k3, g4.trans k4, g5.trans k5⟩
  obtain ⟨g1, g2, g3, g4, g5⟩ := hall x.eq b
  dsimp only
  generalize forEach x.eq (fun y d => setEq (Fin.ofNat 20 y.1) y.2 d) b = w at *
  rw [g1, g2, g3, g4, g5]
  exact ⟨h1, hsets, h2, h3, h4, h5⟩

theorem planApply_applies {t : Nat} {x : Plan} (ht : s.dev.health.applyAt = some t) (hx : s.dev.health.plan = some x)
    (hfree : scheduleActive s.dev = false ∨ BoundaryFree s t) : Completes .planApply s fun d => d.sched.guardAdd = x.guardAdd ∧
      (∀ (i : Fin 41) (c : Nat), x.clocks = [(i.val, c)] → d.health.clocks[i] = c) ∧
      (x.vcore = none → d.health.planner = .idle ∧ d.health.plan = none ∧ cfg d 0x2E03 5 = min 0xFFFFFFFF (cfg s.dev 0x2E03 5 + 1)) ∧
      ∀ v : Nat, x.vcore = some v →
        (s.dev.pow.warnIo = false → s.dev.pow.warnCore = false → Out.pmbus 0x21 v ∈ d.out ∧ d.health.planner = .confirming ∧
          d.health.commanded = v ∧ d.health.confirmBy = some (d.now + 2 * msNs)) ∧
        (s.dev.pow.warnIo = true ∨ s.dev.pow.warnCore = true → d.out = [] ∧ d.health.planner = s.dev.health.planner ∧
          d.health.plan = some { x with clocks := [], eq := [] }) := by
  have hbusy := boundaryBusy_free hfree
  obtain ⟨-, -, -, -, hpow, hd, hout, hr⟩ := arriveTrain_leaves (s := s) t
  have hrun : exec .planApply s = s.does fun _ =>
      let a := arriveTrain t s.found
      match x.vcore with
      | none => planDone (planSet x a)
      | some v =>
        if a.pow.warnIo || a.pow.warnCore then
          onHealth (fun h => { h with plan := some { x with clocks := [], eq := [] }, applyAt := some (boundaryFrom a (t + 1)) }) (planSet x a)
        else emit (.pmbus 0x21 v) (onHealth (fun h => { h with
          planner := .confirming, applyAt := none, commanded := v, undo := x.clocks.map (fun y => (y.1, clockNow a y.1))
          confirmBy := some (a.now + 2 * msNs) }) (planSet x a)) := by
    show execPlanApply s = _
    unfold execPlanApply
    refine does_congr ?_
    have ha : s.found.health.applyAt = some t := ht
    have hp : s.found.health.plan = some x := hx
    rw [ha, hp]
    exact if_neg (by rw [hbusy]; decide)
  refine completes_of_exec hrun ?_
  generalize arriveTrain t s.found = a at *
  obtain ⟨h1, h2, h3, h4, h5, h6⟩ := planSet_sets x a
  dsimp only
  generalize planSet x a = e at *
  cases hv : x.vcore with
  | none =>
    obtain ⟨q1, q2, -, q4, q5, -, -, q8⟩ := planDone_ends e
    refine ⟨by rw [q8, h1], by rw [q4]; exact h2, fun _ => ⟨q1, q2, ?_⟩, fun v h => nomatch h⟩
    rw [q5, cfg_of_dict h4, cfg_of_dict hd]
  | some v =>
    dsimp only
    rw [hpow]
    by_cases hw : (s.dev.pow.warnIo || s.dev.pow.warnCore) = true
    · rw [if_pos hw]
      have hw' := (Bool.or_eq_true _ _).mp hw
      refine ⟨h1, h2, nofun, fun v' hv' => ⟨fun w1 w2 => ?_, fun _ => ⟨h5.trans hout, h3.trans (congrArg HealthS.planner hr :), rfl⟩⟩⟩
      rw [w1, w2] at hw
      exact nomatch hw
    · rw [if_neg hw]
      have hw' : ¬ (s.dev.pow.warnIo = true ∨ s.dev.pow.warnCore = true) := fun h => hw ((Bool.or_eq_true _ _).mpr h)
      refine ⟨h1, h2, nofun, fun v' hv' => ⟨fun _ _ => ?_, fun h => absurd h hw'⟩⟩
      obtain rfl := Option.some.inj hv'
      exact ⟨List.mem_append_right _ (.head _), rfl, rfl, congrArg (fun n => some (n + 2 * msNs)) h6.symm⟩

end apply

/-! ### The reference tracker and the health record (R508 to R510, R528) -/

section tracker

variable {s : State}

theorem trackerLearns_congr {a b : Dev} (ht : b.time.rest = a.time.rest) (hd : b.dict = a.dict) : trackerLearns b = trackerLearns a := by
  have h1 : b.time.state = a.time.state := (congrArg TimeS.state ht :)
  have h2 : b.time.ppsInLast = a.time.ppsInLast := (congrArg TimeS.ppsInLast ht :)
  have h3 : b.time.ppsInLostAt = a.time.ppsInLostAt := (congrArg TimeS.ppsInLostAt ht :)
  unfold trackerLearns
  rw [h1, h2, h3, cfg_of_dict hd]

/-- The increment moves by at most 1 ppb, and not at all where trimming is off. -/
theorem trimIncrement_moves (d : Dev) : (cfg d 0x2401 2 ≠ 0 → cfg (trimIncrement d) 0x2401 1 = cfg d 0x2401 1) ∧
    (Store.wf odDefault d.dict.od = true → cfg (trimIncrement d) 0x2401 1 ≤ cfg d 0x2401 1 + 17 ∧
      cfg d 0x2401 1 ≤ cfg (trimIncrement d) 0x2401 1 + 17) ∧ (trimIncrement d).now = d.now ∧ (trimIncrement d).health = d.health := by
  unfold trimIncrement
  split
  · exact ⟨fun _ => rfl, fun _ => ⟨by omega, by omega⟩, rfl, rfl⟩
  · next h =>
    refine ⟨fun h' => absurd h' h, fun hwf => ?_, rfl, rfl⟩
    dsimp only
    rw [cfg_setReg_wf _ _ _ _ hwf]
    have hlim : (nominalInc : Int) / 1000000000 = 17 := by decide
    rw [hlim]
    generalize ((nominalInc : Int) + trackerTarget d * nominalInc / 1000000000000) - (cfg d 0x2401 1 : Int) = z
    omega

theorem trackerUpdate_updates {t : Nat} (ht : s.dev.health.tracker.updateAt = some t) : Completes .trackerUpdate s fun d => d.now = max s.dev.now t ∧
    d.health.tracker.updateAt = some (t + 10 * sNs) ∧ d.health.tracker.learning = trackerLearns s.dev ∧
    (cfg s.dev 0x2401 2 ≠ 0 → cfg d 0x2401 1 = cfg s.dev 0x2401 1) ∧
    (s.dev.Valid → cfg d 0x2401 1 ≤ cfg s.dev 0x2401 1 + 17 ∧ cfg s.dev 0x2401 1 ≤ cfg d 0x2401 1 + 17) := by
  have hf : Framed [.clock, .counters] s.found (arrive t s.found) := arrive_framed t _ (by decide) (.refl _ _)
  have hl : trackerLearns (arrive t s.found) = trackerLearns s.dev :=
    trackerLearns_congr (a := s.found) (hf.same .time (by decide)) (arrive_dict t s.found)
  have hn : (arrive t s.found).now = max s.dev.now t := arrive_now _ _
  have hd : (arrive t s.found).dict = s.dev.dict := arrive_dict _ _
  have hrun : exec .trackerUpdate s = s.does fun _ => onlyIf (arrive t s.found).pow.agentReady trimIncrement (onTracker (fun k => { k with
      updateAt := some (t + 10 * sNs), learning := trackerLearns s.dev
      since := if trackerLearns s.dev then (arrive t s.found).now else k.since
      sum := if trackerLearns s.dev then k.sum + (arrive t s.found).time.rate + trimPpt (arrive t s.found) else k.sum
      count := if trackerLearns s.dev then k.count + 1 else k.count }) (arrive t s.found)) := by
    show execTrackerUpdate s = _
    unfold execTrackerUpdate
    refine does_congr ?_
    have h : s.found.health.tracker.updateAt = some t := ht
    rw [h]
    dsimp only
    rw [hl]
  refine completes_of_exec hrun ?_
  generalize arrive t s.found = a at *
  generalize hx : onTracker _ a = x
  have hxn : x.now = a.now := by rw [← hx]; rfl
  have hxd : x.dict = a.dict := by rw [← hx]; rfl
  have hxt : x.health.tracker.updateAt = some (t + 10 * sNs) ∧ x.health.tracker.learning = trackerLearns s.dev := by
    rw [← hx]
    exact ⟨rfl, rfl⟩
  have hxc : ∀ i b, cfg x i b = cfg s.dev i b := fun i b => (cfg_of_dict hxd i b).trans (cfg_of_dict hd i b)
  unfold onlyIf
  split
  · obtain ⟨h1, h2, h3, h4⟩ := trimIncrement_moves x
    generalize trimIncrement x = y at *
    rw [hxc] at h1 h2
    rw [hxc] at h1
    exact ⟨h3.trans (hxn.trans hn), by rw [h4]; exact hxt.1, by rw [h4]; exact hxt.2, h1, fun hv => h2 (by rw [hxd, hd]; exact hv.kept.dict.od)⟩
  · refine ⟨hxn.trans hn, hxt.1, hxt.2, fun _ => hxc _ _, fun _ => ?_⟩
    rw [hxc]
    omega

/-- A whole hour of learning becomes a mean. -/
def hourMeans (d : Dev) : Dev :=
  let k := d.health.tracker
  let mean := if k.count = 0 then d.time.rate + trimPpt d else k.sum / k.count
  let hours := (mean :: k.hours).take 24
  let full := k.periodHours + 1 = 720
  let period := k.periodSum + mean
  let history := if full then (period / 720 :: k.history).take 12 else k.history
  onTracker (fun k => { k with
    sum := 0, count := 0, hours := hours, learned := min 0xFFFFFFFF (k.learned + 1), estimate := meanOf hours
    periodSum := if full then 0 else period, periodHours := if full then 0 else k.periodHours + 1
    history := history, drift := if full then slopeOf history else k.drift }) d

theorem trackerHourlyMean_means : (trackerLearns s.dev = false → Completes .trackerHourlyMean s (Framed [] s.found)) ∧
    (trackerLearns s.dev = true → Completes .trackerHourlyMean s fun d => Framed [.health] s.found d ∧
      d.health.tracker.learned = min 0xFFFFFFFF (s.dev.health.tracker.learned + 1) ∧ d.health.tracker.count = 0 ∧
      d.health.tracker.estimate = meanOf d.health.tracker.hours ∧
      (s.dev.health.tracker.count ≠ 0 → d.health.tracker.hours =
        (s.dev.health.tracker.sum / s.dev.health.tracker.count :: s.dev.health.tracker.hours).take 24)) := by
  refine ⟨fun h => ?_, fun h => ?_⟩
  · refine completes_of_exec (f := id) ?_ (.refl _ _)
    show execTrackerHourlyMean s = _
    unfold execTrackerHourlyMean
    refine does_congr ?_
    have h' : trackerLearns s.found = false := h
    rw [h']
    rfl
  · have hrun : exec .trackerHourlyMean s = s.does hourMeans := by
      show execTrackerHourlyMean s = _
      unfold execTrackerHourlyMean
      refine does_congr (if_neg ?_)
      rw [show trackerLearns s.found = true from h]
      decide
    refine completes_of_exec hrun ⟨onTracker_framed _ _ (by decide) (.refl _ _), rfl, rfl, rfl, fun hc => ?_⟩
    have hc' : ¬ s.found.health.tracker.count = 0 := hc
    show List.take 24 ((if s.found.health.tracker.count = 0 then s.found.time.rate + trimPpt s.found
      else s.found.health.tracker.sum / s.found.health.tracker.count) :: s.found.health.tracker.hours) = _
    rw [if_neg hc']
    rfl

/-- The older copy is written, or the failure counts. -/
theorem writeHealth_writes (d : Dev) :
    (emmcWorks d = false → cfg (writeHealth d) 0x2E05 4 = min 0xFFFFFFFF (cfg d 0x2E05 4 + 1) ∧ (writeHealth d).health = d.health) ∧
    (emmcWorks d = true → ∃ c, c.valid = true ∧ c.generation = max d.health.copy0.generation d.health.copy1.generation + 1 ∧
      c.estimate = d.health.tracker.estimate ∧ c.drift = d.health.tracker.drift ∧ c.history = d.health.tracker.history ∧
      ((writeHealth d).health.copy0 = c ∧ (writeHealth d).health.copy1 = d.health.copy1 ∨
        (writeHealth d).health.copy1 = c ∧ (writeHealth d).health.copy0 = d.health.copy0)) ∧
    (writeHealth d).now = d.now ∧ (writeHealth d).health.recordDue = d.health.recordDue := by
  unfold writeHealth
  cases emmcWorks d with
  | false => exact ⟨fun _ => ⟨cfg_bump_self 0x2E05 4 d (by decide), rfl⟩, nofun, rfl, rfl⟩
  | true =>
    refine ⟨nofun, fun _ => ?_, rfl, ?_⟩
    · simp only [Bool.not_true, Bool.false_eq_true, if_false, onHealth]
      split
      · exact ⟨_, rfl, rfl, rfl, rfl, rfl, .inr ⟨rfl, rfl⟩⟩
      · exact ⟨_, rfl, rfl, rfl, rfl, rfl, .inl ⟨rfl, rfl⟩⟩
    · simp only [Bool.not_true, Bool.false_eq_true, if_false, onHealth]
      split <;> rfl

theorem healthRecordWrite_writes {t : Nat} (ht : s.dev.health.recordDue = some t) : Completes .healthRecordWrite s fun d => d.now = max s.dev.now t ∧
    d.health.recordDue = some (t + 86400 * sNs) ∧
    (emmcWorks s.dev = false → cfg d 0x2E05 4 = min 0xFFFFFFFF (cfg s.dev 0x2E05 4 + 1) ∧ d.health.copy0 = s.dev.health.copy0 ∧
      d.health.copy1 = s.dev.health.copy1) ∧
    (emmcWorks s.dev = true → ∃ c, c.valid = true ∧ c.generation = max s.dev.health.copy0.generation s.dev.health.copy1.generation + 1 ∧
      c.estimate = s.dev.health.tracker.estimate ∧ c.drift = s.dev.health.tracker.drift ∧ c.history = s.dev.health.tracker.history ∧
      (d.health.copy0 = c ∧ d.health.copy1 = s.dev.health.copy1 ∨ d.health.copy1 = c ∧ d.health.copy0 = s.dev.health.copy0)) := by
  generalize ha : onHealth (fun h => { h with recordDue := some (t + dayNs) }) (arrive t s.found) = a
  have hrun : exec .healthRecordWrite s = s.does fun _ => writeHealth a := by
    show execHealthRecordWrite s = _
    unfold execHealthRecordWrite
    refine does_congr ?_
    have h : s.found.health.recordDue = some t := ht
    rw [h, ← ha]
  have hr := arrive_healthRest t s.found
  have h0 : a.health.copy0 = s.dev.health.copy0 := by rw [← ha]; exact (congrArg HealthS.copy0 hr :)
  have h1 : a.health.copy1 = s.dev.health.copy1 := by rw [← ha]; exact (congrArg HealthS.copy1 hr :)
  have ht : a.health.tracker = s.dev.health.tracker := by rw [← ha]; exact (congrArg HealthS.tracker hr :)
  have hn : a.now = max s.dev.now t := by rw [← ha]; exact arrive_now t s.found
  have hd : a.dict = s.dev.dict := by rw [← ha]; exact arrive_dict t s.found
  have hdue : a.health.recordDue = some (t + 86400 * sNs) := by rw [← ha]; rfl
  have hw : emmcWorks a = emmcWorks s.dev := by
    have hc : a.chip = s.dev.chip := by rw [← ha]; exact arrive_chip t s.found
    have hrec : a.recd = s.dev.recd := by rw [← ha]; exact arrive_recd t s.found
    unfold emmcWorks
    rw [hc, hrec]
  refine completes_of_exec hrun ?_
  obtain ⟨g1, g2, g3, g4⟩ := writeHealth_writes a
  generalize writeHealth a = d at *
  rw [hw, cfg_of_dict hd] at g1
  rw [hw, h0, h1, ht] at g2
  refine ⟨g3.trans hn, g4.trans hdue, fun h => ?_, g2⟩
  obtain ⟨k1, k2⟩ := g1 h
  exact ⟨k1, by rw [k2, h0], by rw [k2, h1]⟩

end tracker

/-! ### Snapshots (R524) -/

section snapshots

variable {s : State}

/-- A snapshot has been taken of the state's counters. -/
def Snapped (s : State) (d : Dev) : Prop :=
  (s.dev.Valid → cfg d 0x2E08 4 = (cfg s.dev 0x2E08 4 + 1) % 2 ^ 32 ∧ cfg d 0x2E08 5 = trainTime d) ∧
    ∀ i : Fin 64, if bitOf (cfg s.dev (0x2E10 + i.val) 1) 31 then d.health.counters[i].value = 0
      else d.health.counters[i].snap = d.health.counters[i].value

theorem snapshot_counters {d : Dev} (h : d.health.snapAt ≠ some d.now) (i : Fin 64) : (snapshot d).health.counters[i] =
    if bitOf (cfg d (0x2E10 + i.val) 1) 31 then { d.health.counters[i] with snap := d.health.counters[i].value, value := 0 }
    else { d.health.counters[i] with snap := d.health.counters[i].value } := by
  unfold snapshot
  rw [if_neg h]
  exact Vector.getElem_ofFn i.isLt

theorem snapshot_snaps {d : Dev} (h : d.health.snapAt ≠ some d.now)
    (hc : ∀ i : Fin 64, cfg d (0x2E10 + i.val) 1 = cfg s.dev (0x2E10 + i.val) 1) (h4 : cfg d 0x2E08 4 = cfg s.dev 0x2E08 4)
    (hwf : s.dev.Valid → Store.wf odDefault d.dict.od = true) :
    Snapped s (snapshot d) ∧ ∀ i : Fin 64, (snapshot d).health.counters[i].snap = d.health.counters[i].value := by
  have hi := snapshot_counters h
  refine ⟨⟨fun hv => ?_, fun i => ?_⟩, fun i => ?_⟩
  · unfold snapshot
    rw [if_neg h]
    refine ⟨?_, ?_⟩
    · rw [cfg_setReg_ne _ _ _ _ _ _ (by decide), ← h4]
      exact cfg_setReg_wf _ _ _ _ (hwf hv)
    · exact cfg_setReg_wf _ _ _ _ (Store.put_wf _ _ _ (hwf hv))
  · rw [hi, hc]
    split <;> rfl
  · rw [hi]
    split <;> rfl

theorem countEv_snap (code inst qual k : Nat) (d : Dev) (i : Fin 64) : (countEv code inst qual k d).health.counters[i].snap = d.health.counters[i].snap := by
  have hone : ∀ (cs : Vector EvCounter 64) (j : Fin 64), (vmod cs j (evAdd k))[i].snap = cs[i].snap := fun cs j => by
    unfold vmod
    by_cases hj : j.val = i.val
    · have hj' : j = i := Fin.ext hj
      subst hj'
      simp [evAdd]
    · have := Vector.getElem_set_ne (xs := cs) (x := evAdd k cs[j]) j.isLt i.isLt hj
      exact congrArg EvCounter.snap this
  have hall : ∀ (l : List (Fin 64 × Nat)) (cs : Vector EvCounter 64), (l.foldl (fun cs (x : Fin 64 × Nat) =>
      if evMatches x.2 code inst qual && evGateOpen d x.1.val then vmod cs x.1 (evAdd k) else cs) cs)[i].snap = cs[i].snap := fun l => by
    induction l with
    | nil => exact fun _ => rfl
    | cons x l ih =>
      intro cs
      refine (ih _).trans ?_
      dsimp only
      split
      · exact hone _ _
      · rfl
  exact hall _ _

theorem arriveTrain_snap (t : Nat) (d : Dev) (i : Fin 64) : (arriveTrain t d).health.counters[i].snap = d.health.counters[i].snap := by
  have hfuel : ∀ n d, (arriveTrainFuel n t d).health.counters[i].snap = d.health.counters[i].snap := fun n => by
    induction n with
    | zero => exact fun _ => rfl
    | succ n ih =>
      intro d
      unfold arriveTrainFuel
      split
      · rfl
      · refine (ih _).trans ?_
        unfold advance
        exact countEv_snap _ _ _ _ _ i
  exact hfuel 8 d

theorem snapshotPeriod_snaps : (bitOf (cfg s.dev 0x2E08 1) 4 = true → Completes .snapshotPeriod s fun d =>
      if s.dev.health.snapAt = some d.now then ∀ i : Fin 64, d.health.counters[i].snap = s.dev.health.counters[i].snap else Snapped s d) ∧
    (bitOf (cfg s.dev 0x2E08 1) 4 = false → Completes .snapshotPeriod s (Framed [] s.found)) := by
  refine ⟨fun h => ?_, fun h => ?_⟩
  · have hrun : ∃ t, exec .snapshotPeriod s = s.does fun d => snapshot (onHealth (fun h => { h with lastSnap := some t }) (arriveTrain t d)) := by
      let p := cfg s.dev 0x2E08 3 * msNs
      let n := firstInstant 0 p (trainTime s.dev)
      refine ⟨if s.dev.health.lastSnap = some n then firstInstant 0 p (n + 1) else n, ?_⟩
      show execSnapshotPeriod s = _
      unfold execSnapshotPeriod
      exact does_congr (if_pos h)
    obtain ⟨t, hrun⟩ := hrun
    refine completes_of_exec hrun ?_
    obtain ⟨-, -, -, -, -, hd, -, hr⟩ := arriveTrain_leaves (s := s) t
    have hsnap := arriveTrain_snap t s.found
    generalize hx : onHealth (fun h => { h with lastSnap := some t }) (arriveTrain t s.found) = x
    have hat : x.health.snapAt = s.dev.health.snapAt := by rw [← hx]; exact (congrArg HealthS.snapAt hr :)
    have hxd : x.dict = s.dev.dict := by rw [← hx]; exact hd
    have hxs : ∀ i : Fin 64, x.health.counters[i].snap = s.dev.health.counters[i].snap := by rw [← hx]; exact hsnap
    have hnow : (snapshot x).now = x.now := by
      unfold snapshot
      split <;> rfl
    rw [hnow, ← hat]
    split
    · next hat' =>
      have he : snapshot x = x := if_pos hat'
      rw [he]
      exact hxs
    · next hat' => exact (snapshot_snaps hat' (fun i => cfg_of_dict hxd _ _) (cfg_of_dict hxd _ _) fun hv => by rw [hxd]; exact hv.kept.dict.od).1
  · refine completes_of_exec (f := id) ?_ (.refl _ _)
    show execSnapshotPeriod s = _
    unfold execSnapshotPeriod
    refine does_congr (if_neg ?_)
    rw [show cfg s.found 0x2E08 1 = cfg s.dev 0x2E08 1 from rfl, h]
    decide

end snapshots

/-! ### Requests (R524, R528) -/

section requests

variable {s : State} {src : Src}

/-- A path that carries no KDA frame leaves the event counters alone. -/
theorem PathOnly.counters {a b : Dev} (h : PathOnly src a b) (hk : ∀ id seq, src ≠ .kda id seq) : b.health.counters = a.health.counters := by
  have hf : Framed [.out, .access, .mail, .ints] a b := by
    cases src with
    | kda id seq => exact absurd rfl (hk id seq)
    | sdo c => exact h
    | pcie => exact h
    | serial => exact h
  exact hf.same .counters (by decide)

theorem PathOnly.health {a b : Dev} (h : PathOnly src a b) : b.health.rest = a.health.rest := h.same .health (by decide)

theorem snapshotNow_acts (hs : Served s.dev src) (hm : MayWrite s.dev src 0x2E08 2) :
    (bitOf (cfg s.dev 0x2E08 1) 0 = true → Completes (.snapshotNow src) s fun d => ActsAtOnce s src 0x2E08 2 snapshot d ∧
      (s.dev.health.snapAt ≠ some s.dev.now → (∀ id seq, src ≠ .kda id seq) → Snapped s d ∧
        ∀ i : Fin 64, d.health.counters[i].snap = s.dev.health.counters[i].value)) ∧
    (bitOf (cfg s.dev 0x2E08 1) 0 = false → Completes (.snapshotNow src) s (ActsAtOnce s src 0x2E08 2 id)) := by
  have hgo : ∀ {P : Dev → Prop}, (∀ a, Reached src s.found a → (s.dev.Valid → a.Valid) → P (finishAct src 0x2E08 2 a
      (.done (if bitOf (cfg s.dev 0x2E08 1) 0 then snapshot (bump 0x2003 1 a) else bump 0x2003 1 a)))) → Completes (.snapshotNow src) s P :=
    fun {P} hP => by
      refine completes_num_valid (c := .snapshotNow src) (n := 1) (v := 1) rfl hs hm rfl rfl (by decide) rfl rfl (by decide) (by decide) (by decide)
        (fun h => absurd h.1 (by decide)) fun a ha hvalid => ?_
      have hact : actOn (writeOf src 0x2E08 2 0 (leBytes 1 1)) (roleOf s.dev src) (.num 1) (bump 0x2003 1 a) =
          .done (if bitOf (cfg (bump 0x2003 1 a) 0x2E08 1) 0 then snapshot (bump 0x2003 1 a) else bump 0x2003 1 a) := rfl
      have hc : cfg (bump 0x2003 1 a) 0x2E08 1 = cfg s.dev 0x2E08 1 :=
        (cfg_bump_ne _ _ _ _ _ (by decide)).trans (ha.pathOnly.cfg_free (by unfold PathFree; omega))
      rw [hact, hc]
      exact hP a ha hvalid
  refine ⟨fun h => hgo fun a ha hvalid => ?_, fun h => hgo fun a ha _ => ?_⟩
  · rw [h, if_pos rfl]
    refine ⟨ha.acts (A := [.regs, .health, .counters]) (f := snapshot) (snapshot_framed _ (by decide) (.refl _ _)) (by decide) (by decide) 0x2E08 2,
      fun hat hk => ?_⟩
    have hpath : PathOnly src (snapshot (bump 0x2003 1 a)) (answerWrite src 0x2E08 2 0 (snapshot (bump 0x2003 1 a))) := answer_pathOnly _ _ _
    have hrest : a.health.rest = s.dev.health.rest := ha.pathOnly.health
    have hcounters : a.health.counters = s.dev.health.counters := ha.pathOnly.counters hk
    have hnow : a.now = s.dev.now := ha.pathOnly.now
    have hat' : (bump 0x2003 1 a).health.snapAt ≠ some (bump 0x2003 1 a).now := by
      rw [bump_now, hnow, show (bump 0x2003 1 a).health.snapAt = s.dev.health.snapAt from (congrArg HealthS.snapAt hrest :)]
      exact hat
    -- a request counts in no register that a snapshot reads
    have hcfg : ∀ i : Fin 64, cfg (bump 0x2003 1 a) (0x2E10 + i.val) 1 = cfg s.dev (0x2E10 + i.val) 1 := fun i =>
      (cfg_bump_ne _ _ _ _ _ (by unfold odKey; omega)).trans (ha.pathOnly.cfg_free (by unfold PathFree; omega))
    have h4 : cfg (bump 0x2003 1 a) 0x2E08 4 = cfg s.dev 0x2E08 4 :=
      (cfg_bump_ne _ _ _ _ _ (by decide)).trans (ha.pathOnly.cfg_free (by unfold PathFree; omega))
    obtain ⟨⟨hregs, hsnap⟩, hval⟩ := snapshot_snaps (s := s) hat' hcfg h4 fun hv => (bump_kept 0x2003 1 a (hvalid hv).kept).dict.od
    have hbc : (bump 0x2003 1 a).health.counters = s.dev.health.counters := hcounters
    rw [hbc] at hval
    show Snapped s (answerWrite src 0x2E08 2 0 (snapshot (bump 0x2003 1 a))) ∧ _
    generalize snapshot (bump 0x2003 1 a) = b at *
    have hfc : (finishAct src 0x2E08 2 a (.done b)).health.counters = b.health.counters := hpath.counters hk
    unfold Snapped
    refine ⟨⟨fun hv => ?_, fun i => ?_⟩, fun i => ?_⟩
    · obtain ⟨g1, g2⟩ := hregs hv
      refine ⟨(hpath.cfg_free (by unfold PathFree; omega)).trans g1, (hpath.cfg_free (by unfold PathFree; omega)).trans (g2.trans ?_)⟩
      unfold trainTime
      rw [hpath.time]
    · rw [show (answerWrite src 0x2E08 2 0 b).health.counters = _ from hfc]
      exact hsnap i
    · rw [hfc]
      exact hval i
  · rw [h, if_neg (by decide)]
    exact ha.acts (A := []) (f := id) (.refl _ _) (by decide) (by decide) 0x2E08 2

theorem trackerReset_empties (hs : Served s.dev src) (hm : MayWrite s.dev src 0x2E04 6) : Completes (.trackerReset src) s fun d =>
    ActsAtOnce s src 0x2E04 6 emptyTracker d ∧ d.health.tracker = { Tracker.reset with
      updateAt := s.dev.health.tracker.updateAt, learning := s.dev.health.tracker.learning, since := s.dev.now } := by
  refine completes_num (c := .trackerReset src) (n := 1) (v := 1) rfl hs hm rfl rfl (by decide) rfl rfl (by decide) (by decide) (by decide)
    (fun h => absurd h.1 (by decide)) fun a ha => ?_
  have hact : actOn (writeOf src 0x2E04 6 0 (leBytes 1 1)) (roleOf s.dev src) (.num 1) (bump 0x2003 1 a) = .done (emptyTracker (bump 0x2003 1 a)) := rfl
  rw [hact]
  refine ⟨ha.acts (A := [.health]) (f := emptyTracker) (emptyTracker_framed _ (by decide) (.refl _ _)) (by decide) (by decide) 0x2E04 6, ?_⟩
  have hpath : PathOnly src (emptyTracker (bump 0x2003 1 a)) (finishAct src 0x2E04 6 a (.done (emptyTracker (bump 0x2003 1 a)))) := answer_pathOnly _ _ _
  have htr : a.health.tracker = s.dev.health.tracker := (congrArg HealthS.tracker ha.pathOnly.health :)
  have hnow : a.now = s.dev.now := ha.pathOnly.now
  rw [show (finishAct src 0x2E04 6 a (.done (emptyTracker (bump 0x2003 1 a)))).health.tracker = _ from (congrArg HealthS.tracker hpath.health :), ← htr, ← hnow]
  rfl

end requests

/-- Settles O54: what a scan or a period finds goes through the pieces of the planner, and a boundary that is free applies the plan. -/
theorem sensorsPlannerTrackerAndSnapshotsActAsGiven : Obligations.SensorsPlannerTrackerAndSnapshotsActAsGiven := by
  intro s h counter moves allowed asks raises failed snaps
  refine ⟨fun t rs ht => sensorScan_acts rs ht, fun t ht => planningPeriod_plans ht,
    fun t x ht hx => ⟨fun h1 h2 => planApply_waits ht hx h1 h2, fun hfree => planApply_applies ht hx hfree⟩, fun mv => readVout_judges mv,
    fun t ht hp => readVoutTimeout_fails ht hp, fun t ht => trackerUpdate_updates ht, trackerHourlyMean_means.1, trackerHourlyMean_means.2,
    fun t ht => healthRecordWrite_writes ht, snapshotPeriod_snaps.1, snapshotPeriod_snaps.2,
    fun src hs => ⟨fun hm => snapshotNow_acts hs hm, fun hm => trackerReset_empties hs hm⟩⟩

end Sys2Proof.Machine
end

section
/-! PROOF. What sending, staging and logging leave of the gateway and of its registers (R334, R336, R343). -/

namespace Sys2Proof.Machine

/-! ### Registers by their keys -/

/-- From `a` to `b` no register changes but those whose key is in `P`. -/
def RegsWithin (P : Nat → Prop) (a b : Dev) : Prop :=
  ∀ k, ¬ P k → Store.find odDefault b.dict.od k = Store.find odDefault a.dict.od k

section within

variable {P Q : Nat → Prop} {a b c d : Dev}

theorem RegsWithin.refl (P : Nat → Prop) (d : Dev) : RegsWithin P d d := fun _ _ => rfl

theorem RegsWithin.trans (h1 : RegsWithin P a b) (h2 : RegsWithin P b c) : RegsWithin P a c := fun k hk => (h2 k hk).trans (h1 k hk)

theorem RegsWithin.mono (h : RegsWithin P a b) (hPQ : ∀ k, P k → Q k) : RegsWithin Q a b := fun k hk => h k fun hp => hk (hPQ k hp)

theorem RegsWithin.of_od (h : b.dict.od = a.dict.od) : RegsWithin P a b := fun _ _ => by rw [h]

/-- Registers after a step that writes none. -/
theorem RegsWithin.after (h : RegsWithin P b c) (ho : b.dict.od = a.dict.od) : RegsWithin P a c := (RegsWithin.of_od ho).trans h

/-- What leaves the part `regs` alone changes no register. -/
theorem Framed.within {A : List Part} (h : Framed A a b) (hA : Part.regs ∉ A) : RegsWithin P a b := .of_od (h.same .regs hA)

theorem RegsFramed.within {L : List (Nat × Nat)} (h : RegsFramed L a b) (hL : ∀ r ∈ L, P (odKey r.1 r.2)) : RegsWithin P a b :=
  fun k hk => (h k).elim (fun ⟨r, hr, e⟩ => absurd (e ▸ hL r hr) hk) id

theorem RegsWithin.ite {p : Prop} [Decidable p] {x y : Dev} (hx : RegsWithin P a x) (hy : RegsWithin P a y) :
    RegsWithin P a (if p then x else y) := by
  split
  exacts [hx, hy]

theorem RegsWithin.onlyIf {f : Dev → Dev} (p : Bool) (h : RegsWithin P d (f d)) : RegsWithin P d (onlyIf p f d) := .ite h (.refl P d)

theorem RegsWithin.forEach {α : Type} {f : α → Dev → Dev} (hf : ∀ x d, RegsWithin P d (f x d)) (l : List α) (d : Dev) :
    RegsWithin P d (forEach l f d) := by
  induction l generalizing d with
  | nil => exact .refl P d
  | cons x l ih => exact (hf x d).trans (ih (f x d))

theorem RegsWithin.setReg {idx sub : Nat} (h : RegsWithin P a b) (hP : P (odKey idx sub)) (v : Nat) : RegsWithin P a (setReg idx sub v b) :=
  h.trans fun _ hk => Store.find_put_other _ _ _ _ fun e => hk (e ▸ hP)

theorem RegsWithin.bump {idx sub : Nat} (h : RegsWithin P a b) (hP : P (odKey idx sub)) : RegsWithin P a (bump idx sub b) := h.setReg hP _

theorem bump_within {idx sub : Nat} (hP : P (odKey idx sub)) (d : Dev) : RegsWithin P d (Machine.bump idx sub d) := (RegsWithin.refl P d).bump hP

theorem raiseP_within (hP : ∀ k, odKey 0x2A06 0 ≤ k → P k) (ev : Ev) (inst : Nat) (payload : List Byte) (d : Dev) :
    RegsWithin P d (raiseP ev inst payload d) := (raiseP_regs ev inst payload d).within fun r hr => hP _ (eventCounters_high r hr)

theorem RegsWithin.cfg (h : RegsWithin P a b) {idx sub : Nat} (hk : ¬ P (odKey idx sub)) : cfg b idx sub = cfg a idx sub := by
  unfold Machine.cfg DictS.reg
  rw [h _ hk]

theorem RegsWithin.cfgBytes (h : RegsWithin P a b) {idx sub : Nat} (hk : ¬ P (odKey idx sub)) : cfgBytes b idx sub = cfgBytes a idx sub := by
  unfold Machine.cfgBytes DictS.reg
  rw [h _ hk]

end within

/-! ### A frame that enters the fabric -/

/-- The keys of the counters of fabric, ports, schedule and streams. -/
def FabricKey (k : Nat) : Prop := odKey 0x2200 0 ≤ k ∧ k < odKey 0x2700 0

section fabric

variable {d : Dev}

theorem countUnsent_within (p : Port) (q : Fin 8) (d : Dev) : RegsWithin FabricKey d (countUnsent p q d) :=
  (bump_within (by unfold FabricKey odKey; omega) d).trans ((RegsWithin.onlyIf _ (bump_within (by unfold FabricKey; decide) _)).trans
    (RegsWithin.onlyIf _ (bump_within (by unfold FabricKey; decide) _)))

theorem countDiscard_within (p : Port) {q : Nat} (hq : q < 8) (d : Dev) : RegsWithin FabricKey d (countDiscard p q d) :=
  (bump_within (by unfold FabricKey odKey; omega) d).trans (.of_od rfl)

theorem allocCells_within {P : Nat → Prop} (uid n : Nat) (d : Dev) : RegsWithin P d (allocCells uid n d) :=
  (allocCells_framed (L := [.fab, .queues, .counters]) uid n d (by decide) (.refl _ _)).within (by decide)

theorem admitPort_within (f : QFrame) (need : Nat) (rate : Option Nat) (p : Port) (q : Fin 8) (d : Dev) :
    RegsWithin FabricKey d (admitPort f need rate p q d) := by
  have hkey : ∀ sub, sub < 256 → FabricKey (odKey (0x2210 + p.val) sub) := fun sub hs => by
    unfold FabricKey odKey
    omega
  unfold admitPort
  refine .ite (countUnsent_within p q d) (.ite (.ite ?_ (countDiscard_within p q.isLt d)) (.ite ?_ (countDiscard_within p q.isLt d)))
  · exact .bump (.bump (.of_od rfl) (hkey 0x0B (by decide))) (hkey 0x0A (by decide))
  · exact .bump ((allocCells_within _ _ d).trans (.of_od rfl)) (hkey _ (by split <;> decide))

theorem admitHost_within {P : Nat → Prop} (f : QFrame) (need : Nat) (d : Dev) : RegsWithin P d (admitHost f need d) :=
  (admitHost_framed (L := [.out, .fab, .queues, .host, .ints, .counters]) f need d (by decide) (.refl _ _)).within (by decide)

theorem settle_within {P : Nat → Prop} (f : QFrame) (status : Nat) (d : Dev) : RegsWithin P d (settle f status d) :=
  (settle_framed (L := [.out, .fab, .queues, .host, .ints]) f status d (by decide) (.refl _ _)).within (by decide)

/-- What holds of every step of a frame's way into the queues holds of the way. -/
theorem dispatchFrame_steps {R : Dev → Dev → Prop} (htrans : ∀ {a b c}, R a b → R b c → R a c) (hfab : ∀ f d, R d (onFab f d))
    (htag : ∀ m bs d, R d (tagAtTalker m bs d).2) (hbump : ∀ b sub d, sub = 0x0D ∨ sub = 0x0E → R d (onlyIf b (bump 0x2207 sub) d))
    (hport : ∀ f need rate p q d, R d (admitPort f need rate p q d)) (hhost : ∀ f need d, R d (admitHost f need d))
    (hsettle : ∀ f st d, R d (settle f st d)) (a : Arrival) (m : StreamMatch) (x : Decision) (d : Dev) :
    R d (dispatchFrame a m x d) := by
  have hrefl : ∀ d, R d d := fun d => hfab id d
  have hports : ∀ (g : Port → Dev → Dev), (∀ p d, R d (g p d)) → ∀ l d, R d (forEach l g d) := fun g hg l => by
    induction l with
    | nil => exact hrefl
    | cons p l ih => exact fun d => htrans (hg p d) (ih _)
  have hopt : ∀ (b : Bool) (f : Dev → Dev), (∀ d, R d (f d)) → ∀ d, R d (onlyIf b f d) := fun b f hf d => by
    cases b
    · exact hrefl d
    · exact hf d
  have htagged : ∀ bs, R d (if a.ingress.any isBackbone then (bs, d) else tagAtTalker m bs d).2 := fun bs => by
    split
    · exact hrefl d
    · exact htag m bs d
  have hlast : ∀ (c : Bool) f st e, R d e → R d (if c then e else settle f st e) := fun c f st e he => by
    cases c
    · exact htrans he (hsettle f st e)
    · exact he
  unfold dispatchFrame
  dsimp only
  have ht := htagged (atEpochZero d a.ingress x).bytes
  generalize (if a.ingress.any isBackbone = true then _ else _ : List Byte × Dev) = y at ht
  obtain ⟨bs, d1⟩ := y
  dsimp only at ht ⊢
  refine hlast _ _ _ _ ?_
  refine htrans ?_ (hbump _ 0x0E _ (.inr rfl))
  refine htrans ?_ (hopt _ (admitHost _ _) (hhost _ _) _)
  refine htrans ?_ (hports _ (fun p d => hport _ _ _ p _ d) _ _)
  exact htrans ht (htrans (hfab _ d1) (hbump _ 0x0D _ (.inl rfl)))

theorem dispatchFrame_within (a : Arrival) (m : StreamMatch) (x : Decision) (d : Dev) : RegsWithin FabricKey d (dispatchFrame a m x d) := by
  have hkey : ∀ sub, sub = 0x0D ∨ sub = 0x0E → FabricKey (odKey 0x2207 sub) := fun sub hs => by
    unfold FabricKey odKey
    omega
  exact dispatchFrame_steps .trans (fun _ _ => .of_od rfl)
    (fun m bs d => (tagAtTalker_framed (L := [.sched]) m bs d (by decide) (.refl _ _)).within (by decide))
    (fun b sub d hs => .onlyIf b (bump_within (hkey sub hs) d)) admitPort_within admitHost_within settle_within a m x d

/-! ### What was sent stays sent -/

theorem deliverHost_sent (f : QFrame) (d : Dev) : Sent d (deliverHost f d) := by
  unfold deliverHost
  dsimp only
  split
  · exact (emits_sent _ d).trans ((ringInt_sent _ _).after rfl)
  · exact .refl d

theorem drainHost_sent (d : Dev) : Sent d (drainHost d) := by
  have hfold : ∀ (g : Dev → QFrame → Dev), (∀ e f, Sent e (g e f)) → ∀ (l : List QFrame) e, Sent e (l.foldl g e) := fun g hg l => by
    induction l with
    | nil => exact .refl
    | cons f l ih => exact fun e => (hg e f).trans (ih _)
  unfold drainHost
  split
  · refine (hfold _ (fun e f => ?_) _ _).after rfl
    exact .ite (deliverHost_sent f e) (.of_eq rfl)
  · exact .refl d

theorem admitHost_sent (f : QFrame) (need : Nat) (d : Dev) : Sent d (admitHost f need d) := by
  have hroom : Sent d (allocCells f.uid (frameCells f) d) :=
    (allocCells_framed (L := [.fab, .queues, .counters]) _ _ d (by decide) (.refl _ _)).sent (by decide)
  unfold admitHost
  refine .ite (.refl d) (.ite (.of_eq rfl) (.ite ?_ (.of_eq rfl)))
  generalize allocCells f.uid (frameCells f) d = e at hroom
  have hq : ∀ g, Sent e (sweepCells (drainHost (onFab g e))) := fun g => ((drainHost_sent (onFab g e)).after rfl).trans (.of_eq rfl)
  exact hroom.trans (hq _)

theorem settle_sent (f : QFrame) (status : Nat) (d : Dev) : Sent d (settle f status d) := by
  have hfree : ∀ b : Bool, Sent d (if b then onFab (fun x => { x with cells := x.cells.filter (fun c => c.1 ≠ f.uid) }) d else d) := fun b =>
    .ite (.of_eq rfl) (.refl d)
  unfold settle
  dsimp only
  generalize (((queued d).map fun x => x.2.2) ++ d.fab.hostQueue).filter (fun g => decide (g.uid = f.uid)) = copies
  have hd := hfree (copies.all (·.spilled))
  generalize (if copies.all (·.spilled) = true then _ else d : Dev) = e at hd
  refine .ite ?_ hd
  split
  · exact hd.trans ((completeTx_sent _ _ _ _).after rfl)
  · exact hd.trans (.of_eq rfl)

theorem admitPort_sent (f : QFrame) (need : Nat) (rate : Option Nat) (p : Port) (q : Fin 8) (d : Dev) : Sent d (admitPort f need rate p q d) :=
  (admitPort_framed (L := [.regs, .fab, .queues, .counters]) f need rate p q d (by decide) (.refl _ _)).sent (by decide)

theorem dispatchFrame_sent (a : Arrival) (m : StreamMatch) (x : Decision) (d : Dev) : Sent d (dispatchFrame a m x d) :=
  dispatchFrame_steps .trans (fun _ _ => .of_eq rfl)
    (fun m bs d => (tagAtTalker_framed (L := [.sched]) m bs d (by decide) (.refl _ _)).sent (by decide))
    (fun b _ _ _ => .onlyIf b (.of_eq (bump_out _ _ _))) admitPort_sent admitHost_sent settle_sent a m x d

end fabric

/-! ### What the gateway's own steps leave -/

/-- The registers that the gateway's sending and logging may change: the counter of lost log records, and those of other chapters. -/
def AsideKey (k : Nat) : Prop := k < odKey 0x2700 0 ∨ k = odKey 0x2801 0x0E ∨ odKey 0x2900 0 ≤ k

/-- A step of the gateway that leaves its channels and all but a few registers as they were. -/
structure Aside (a b : Dev) : Prop where
  regs : RegsWithin AsideKey a b
  mem : b.dict.mem = a.dict.mem
  clock : b.now = a.now
  time : b.time = a.time
  inaug : b.inaug = a.inaug
  chans : b.gw.chans = a.gw.chans
  running : b.gw.running = a.gw.running
  sent : Sent a b

section aside

variable {a b c d : Dev}

theorem Aside.refl (d : Dev) : Aside d d := ⟨.refl _ d, rfl, rfl, rfl, rfl, rfl, rfl, .refl d⟩

theorem Aside.trans (h1 : Aside a b) (h2 : Aside b c) : Aside a c :=
  ⟨h1.regs.trans h2.regs, h2.mem.trans h1.mem, h2.clock.trans h1.clock, h2.time.trans h1.time, h2.inaug.trans h1.inaug,
    h2.chans.trans h1.chans, h2.running.trans h1.running, h1.sent.trans h2.sent⟩

theorem Aside.ite {p : Prop} [Decidable p] {x y : Dev} (hx : Aside a x) (hy : Aside a y) : Aside a (if p then x else y) := by
  split
  exacts [hx, hy]

theorem Aside.cfg (h : Aside a b) {idx sub : Nat} (h1 : 0x2800 ≤ idx ∧ idx < 0x2900) (h2 : sub < 256)
    (hk : idx ≠ 0x2801 ∨ sub ≠ 0x0E) : cfg b idx sub = cfg a idx sub := h.regs.cfg (by unfold AsideKey odKey; omega)

theorem Aside.chanReg (h : Aside a b) (n : Fin 32) {sub : Nat} (hs : sub < 256) : chanReg b n sub = chanReg a n sub :=
  h.cfg (by omega) hs (.inl (by omega))

theorem Aside.chanCan (h : Aside a b) (n : Fin 32) : chanCan b n = chanCan a n := by
  unfold Machine.chanCan
  rw [h.chanReg n (by decide)]

theorem Aside.gwActive (h : Aside a b) : gwActive b = gwActive a := by
  unfold Machine.gwActive cfgB
  rw [h.running, h.cfg (by decide) (by decide) (.inl (by decide))]

theorem Aside.trainTime (h : Aside a b) : trainTime b = trainTime a := congrArg (fun t => (trainRaw t / 2 ^ 32 % 2 ^ 64).toNat) h.time

theorem Aside.honoured (h : Aside a b) (e : Nat) : honoured b e = honoured a e := by
  unfold Machine.honoured
  rw [h.inaug]

/-- The time base is the same where neither the clock nor its other part changes. -/
theorem Framed.timeBase {A : List Part} (h : Framed A a b) (hc : Part.clock ∉ A) (ht : Part.time ∉ A) : b.time = a.time :=
  TimeS.eq_of_rest (congrArg Prod.snd (h.same .clock hc)) (h.same .time ht)

theorem Framed.aside {A : List Part} (h : Framed A a b) (hA : ∀ p ∈ [Part.clock, .regs, .tables, .inaug, .gw, .out, .time], p ∉ A) :
    Aside a b :=
  ⟨h.within (hA _ (by decide)), h.same .tables (hA _ (by decide)), congrArg Prod.fst (h.same .clock (hA _ (by decide))),
    h.timeBase (hA _ (by decide)) (hA _ (by decide)), h.same .inaug (hA _ (by decide)), congrArg GwS.chans (h.same .gw (hA _ (by decide))),
    congrArg GwS.running (h.same .gw (hA _ (by decide))), h.sent (hA _ (by decide))⟩

/-- A step that the parts say leaves the gateway alone, with what it writes and sends. -/
theorem Framed.aside_regs {A : List Part} (h : Framed A a b) (hr : RegsWithin AsideKey a b) (hs : Sent a b)
    (hA : ∀ p ∈ [Part.clock, .tables, .inaug, .gw, .time], p ∉ A) : Aside a b :=
  ⟨hr, h.same .tables (hA _ (by decide)), congrArg Prod.fst (h.same .clock (hA _ (by decide))),
    h.timeBase (hA _ (by decide)) (hA _ (by decide)), h.same .inaug (hA _ (by decide)), congrArg GwS.chans (h.same .gw (hA _ (by decide))),
    congrArg GwS.running (h.same .gw (hA _ (by decide))), hs⟩

theorem raiseP_aside (ev : Ev) (inst : Nat) (payload : List Byte) (d : Dev) : Aside d (raiseP ev inst payload d) :=
  (raiseP_framed (L := eventParts) ev inst payload d (by decide) (.refl _ _)).aside_regs
    (raiseP_within (fun k hk => by unfold AsideKey odKey at *; omega) ev inst payload d) (raiseP_sent ev inst payload d) (by decide)

theorem bump_aside {idx sub : Nat} (hk : AsideKey (odKey idx sub)) (d : Dev) : Aside d (bump idx sub d) :=
  ⟨bump_within hk d, rfl, rfl, rfl, rfl, rfl, rfl, .of_eq rfl⟩

/-! ### Log records (R343) -/

/-- The last log record says what a step was about, at the present train time. -/
def Logged (kind addr chan status : Nat) (d : Dev) : Prop :=
  ∃ l, d.gw.log.getLast? = some l ∧ l.kind = kind ∧ l.addr = addr ∧ l.chan = chan ∧ l.status = status ∧ l.time = trainTime d

theorem gwLog_aside (kind : Nat) (tag : BitVec 32) (addr chan status : Nat) (canSide : Bool) (epoch : Nat) (d : Dev) :
    Aside d (gwLog kind tag addr chan status canSide epoch d) := by
  have hlog : ∀ l, Aside d (onGw (fun g => { g with log := l }) d) := fun _ => ⟨.of_od rfl, rfl, rfl, rfl, rfl, rfl, rfl, .of_eq rfl⟩
  refine Aside.trans (.ite (hlog _) ((hlog _).trans (bump_aside (.inr (.inl rfl)) _))) (raiseP_aside _ _ _ _)

theorem gwLog_logged (kind : Nat) (tag : BitVec 32) (addr chan status : Nat) (canSide : Bool) (epoch : Nat) (d : Dev) :
    Logged kind addr chan status (gwLog kind tag addr chan status canSide epoch d) := by
  have htime := (gwLog_aside kind tag addr chan status canSide epoch d).trainTime
  unfold Logged
  rw [htime]
  unfold gwLog
  dsimp only
  rw [raiseP_gw]
  split
  · exact ⟨_, List.getLast?_concat, rfl, rfl, rfl, rfl, rfl⟩
  · rw [bump_gw]
    exact ⟨_, List.getLast?_concat, rfl, rfl, rfl, rfl, rfl⟩

/-! ### Messages and frames -/

theorem sendTrdp_aside (m : TrdpOut) (d : Dev) : Aside d (sendTrdp m d) := by
  have hframe := sendTrdp_framed (L := [.out, .regs, .fab, .queues, .sched, .host, .ints, .counters]) m d (by decide) (.refl _ _)
  have hregs : RegsWithin AsideKey d (sendTrdp m d) := ((dispatchFrame_within _ _ _ _).mono fun k hk => .inl hk.2).after rfl
  have hsent : Sent d (sendTrdp m d) := (emit_sent _ d).trans (dispatchFrame_sent _ _ _ _)
  exact hframe.aside_regs hregs hsent (by decide)

theorem sendTrdp_mem (m : TrdpOut) (d : Dev) :
    Out.trdp m.ip m.port m.msgType m.comId m.topo m.seq m.session m.replyStatus m.data ∈ (sendTrdp m d).out :=
  dispatchFrame_sent _ _ _ _ _ (emit_mem _ d)

theorem draw_aside (d : Dev) : Aside d (draw d) := ⟨.of_od rfl, rfl, rfl, rfl, rfl, rfl, rfl, .of_eq rfl⟩

theorem sendMd_aside (ip port msgType comId topo : Nat) (session : BitVec 128) (replyStatus : Int) (data : List Byte) (d : Dev) :
    Aside d (sendMd ip port msgType comId topo session replyStatus data d) :=
  (sendTrdp_aside _ d).trans (draw_aside _)

theorem sendMd_mem (ip port msgType comId topo : Nat) (session : BitVec 128) (replyStatus : Int) (data : List Byte) (d : Dev) :
    ∃ seq, Out.trdp ip port msgType comId topo seq session replyStatus data ∈
      (sendMd ip port msgType comId topo session replyStatus data d).out := ⟨_, sendTrdp_mem _ d⟩

theorem setStage_aside (c : CanId) (o : Nat) (t : TxStage) (d : Dev) : Aside d (setStage c o t d) :=
  ⟨.of_od rfl, rfl, rfl, rfl, rfl, rfl, rfl, .of_eq rfl⟩

theorem protectAt_aside (telegram : Bool) (ctl unit : Nat) (again : Bool) (bs : List Byte) (d : Dev) :
    Aside d (protectAt telegram ctl unit again bs d).2 := by
  have hset : ∀ ch x, Aside d (setChk ch x d) := fun _ _ => ⟨.of_od rfl, rfl, rfl, rfl, rfl, rfl, rfl, .of_eq rfl⟩
  unfold protectAt
  split
  · exact .refl d
  · exact .ite (hset _ _) ((hset _ _).trans (bump_aside (by unfold AsideKey; decide) _))

theorem setObj_aside (c : CanId) (o : Nat) (x : CanObj) (d : Dev) : Aside d (setObj c o x d) :=
  ⟨.of_od rfl, rfl, rfl, rfl, rfl, rfl, rfl, .of_eq rfl⟩

theorem gwSendNow_aside (c : CanId) (o : Nat) (d : Dev) : Aside d (gwSendNow c o d) := by
  unfold gwSendNow
  refine .ite ?_ (.refl d)
  exact (protectAt_aside _ _ _ _ _ d).trans ((setObj_aside _ _ _ _).trans (setStage_aside _ _ _ _))

theorem gwPut_aside (c : CanId) (o : Nat) (data : List Byte) (d : Dev) : Aside d (gwPut c o data d) :=
  (setStage_aside c o _ d).trans (gwSendNow_aside c o _)

/-- A frame put into an idle object of a controller that sends is requested at once. -/
theorem gwPut_pends {c : CanId} {o : Nat} (data : List Byte) (hc : canSends d.can[c] = true) (ho : (objOf d c o).status = 0) :
    (objOf (gwPut c o data d) c o).status = 0x10 := by
  unfold gwPut
  generalize he : setStage c o { stageOf d c o with data := data, fresh := true } d = e
  have hcan : e.can = d.can := by rw [← he]; rfl
  have hobj : (objOf e c o).status = 0 := by
    unfold objOf
    rw [hcan]
    exact ho
  unfold gwSendNow
  dsimp only
  rw [if_pos (by rw [hcan, hc, hobj]; rfl), if_pos hobj]
  generalize protectAt _ _ _ _ _ e = y
  obtain ⟨out, d1⟩ := y
  dsimp only
  rw [show ∀ t x, objOf (setStage c o t x) c o = objOf x c o from fun _ _ => rfl, objOf_setObj_self c o (ne_blank_of_status (by simp))]

end aside

end Sys2Proof.Machine
end

section
/-! PROOF. Transactions of the gateway: requests, replies, timeouts and the prefetch (R333 to R342). -/

namespace Sys2Proof.Machine

section answers

variable {a d e : Dev} {n : Fin 32} {t : Txn} {status : Nat}

theorem onChan_self (n : Fin 32) (f : GwChan → GwChan) (d : Dev) : (onChan n f d).gw.chans[n] = f d.gw.chans[n] := by
  simp [vmod]

/-- A counter of 0x2801 that no step aside touches has grown by one. -/
theorem Aside.counts {sub : Nat} (h : Aside (bump 0x2801 sub d) e) (hs : sub < 16) (hk : sub ≠ 0x0E)
    (hd : odDefault (odKey 0x2801 sub) = .num 0) : Machine.cfg e 0x2801 sub = min 0xFFFFFFFF (Machine.cfg d 0x2801 sub + 1) := by
  rw [h.cfg (by decide) (by omega) (.inr hk), cfg_bump_self _ _ _ hd]

theorem Aside.gwCounter (h : Aside a d) {sub : Nat} (hs : sub < 16) (hk : sub ≠ 0x0E) :
    Machine.cfg d 0x2801 sub = Machine.cfg a 0x2801 sub :=
  h.cfg (by decide) (by omega) (.inr hk)

/-- What an error reply leaves: it is counted and logged, and the channels are as they were. -/
structure ErrorLeft (n : Fin 32) (addr status : Nat) (d e : Dev) : Prop where
  counted : cfg e 0x2801 6 = min 0xFFFFFFFF (cfg d 0x2801 6 + 1)
  logged : Logged 2 addr n.val status e
  chans : e.gw.chans = d.gw.chans
  clock : e.now = d.now

/-- An error is counted and logged after what is sent of it. -/
theorem errorLeft_of_aside {tag : BitVec 32} {addr epoch : Nat} {canSide : Bool} (h : Aside d e) :
    ErrorLeft n addr status d (gwLog 2 tag addr n.val status canSide epoch (bump 0x2801 6 e)) := by
  have hl := gwLog_aside 2 tag addr n.val status canSide epoch (bump 0x2801 6 e)
  refine ⟨?_, gwLog_logged _ _ _ _ _ _ _ _, hl.chans.trans h.chans, hl.clock.trans h.clock⟩
  rw [hl.counts (by decide) (by decide) rfl, h.gwCounter (by decide) (by decide)]

section backbone

variable {ip : BitVec 32} {port : BitVec 16} {session : BitVec 128}

/-- An error reply to a backbone requester whose epoch is honoured. -/
theorem answerTxn_error (hw : t.who = .backbone ip port session) (hh : honoured d t.epoch = true) (hs : status ≠ 0) :
    ErrorLeft n t.addr status d (answerTxn n t status [] d) ∧
      ∃ seq, Out.trdp ip.toNat port.toNat 0x4D65 (chanReg d n 7) t.topo.toNat seq session (-1)
        (txnBlock (t.op + 0x80) status t.addr t.tag []) ∈ (answerTxn n t status [] d).out := by
  have hmd := sendMd_aside ip.toNat port.toNat 0x4D65 (chanReg d n 7) t.topo.toNat session (-1) (txnBlock (t.op + 0x80) status t.addr t.tag []) d
  obtain ⟨seq, hmem⟩ := sendMd_mem ip.toNat port.toNat 0x4D65 (chanReg d n 7) t.topo.toNat session (-1)
    (txnBlock (t.op + 0x80) status t.addr t.tag []) d
  unfold answerTxn
  rw [hw]
  dsimp only
  rw [hh, if_neg (by decide), if_neg hs, if_neg hs, if_neg hs]
  generalize sendMd _ _ _ _ _ _ _ _ d = e at hmd hmem
  exact ⟨errorLeft_of_aside hmd, seq, (gwLog_aside _ _ _ _ _ _ _ _).sent _ hmem⟩

/-- A good reply to a backbone requester whose epoch is honoured. -/
theorem answerTxn_good (hw : t.who = .backbone ip port session) (hh : honoured d t.epoch = true) (data : List Byte) :
    Aside d (answerTxn n t 0 data d) ∧ ∃ seq, Out.trdp ip.toNat port.toNat 0x4D70 (chanReg d n 7) t.topo.toNat seq session 0
      (txnBlock (t.op + 0x80) 0 t.addr t.tag data) ∈ (answerTxn n t 0 data d).out := by
  unfold answerTxn
  rw [hw]
  dsimp only
  rw [hh]
  exact ⟨sendMd_aside _ _ _ _ _ _ _ _ _, sendMd_mem _ _ _ _ _ _ _ _ _⟩

end backbone

/-- An error reply to a CAN requester that has an object for it. -/
theorem answerTxn_canError (hw : t.who = .can) (ho : chanReg d n 5 ≠ 0xFF) (hs : status ≠ 0) (data : List Byte) :
    ErrorLeft n t.addr status d (answerTxn n t status data d) := by
  unfold answerTxn
  rw [hw]
  dsimp only
  rw [if_neg hs, if_neg ho]
  exact errorLeft_of_aside (gwPut_aside _ _ _ _)

theorem answerTxn_canGood (hw : t.who = .can) (data : List Byte) : Aside d (answerTxn n t 0 data d) := by
  unfold answerTxn
  rw [hw]
  dsimp only
  rw [if_pos rfl]
  exact .ite (.refl d) (gwPut_aside _ _ _ _)

/-- Whatever is answered, the channels and the time are as before. -/
theorem answerTxn_chans (n : Fin 32) (t : Txn) (status : Nat) (data : List Byte) (d : Dev) :
    (answerTxn n t status data d).gw.chans = d.gw.chans ∧ (answerTxn n t status data d).now = d.now := by
  have hlog : ∀ (e : Dev) kind sub tag addr st side epoch, Aside d e →
      (gwLog kind tag addr n.val st side epoch (bump 0x2801 sub e)).gw.chans = d.gw.chans ∧
        (gwLog kind tag addr n.val st side epoch (bump 0x2801 sub e)).now = d.now := fun e kind sub tag addr st side epoch h => by
    have hl := gwLog_aside kind tag addr n.val st side epoch (bump 0x2801 sub e)
    exact ⟨hl.chans.trans h.chans, hl.clock.trans h.clock⟩
  unfold answerTxn
  dsimp only
  split
  · split
    · exact hlog _ _ _ _ _ _ _ _ (.refl d)
    · split
      · exact ⟨(sendMd_aside _ _ _ _ _ _ _ _ d).chans, (sendMd_aside _ _ _ _ _ _ _ _ d).clock⟩
      · exact hlog _ _ _ _ _ _ _ _ (sendMd_aside _ _ _ _ _ _ _ _ d)
  · split
    · split
      · exact ⟨rfl, rfl⟩
      · exact ⟨(gwPut_aside _ _ _ d).chans, (gwPut_aside _ _ _ d).clock⟩
    · split
      · exact ⟨rfl, rfl⟩
      · exact hlog _ _ _ _ _ _ _ _ (gwPut_aside _ _ _ d)

/-- A channel whose transaction has been closed. -/
def ChanIdle (n : Fin 32) (d : Dev) : Prop := d.gw.chans[n].state = .idle ∧ d.gw.chans[n].txn = none

theorem closeChan_idle (n : Fin 32) (d : Dev) : ChanIdle n (closeChan n d) := by
  unfold ChanIdle closeChan
  rw [onChan_self]
  exact ⟨rfl, rfl⟩

theorem ChanIdle.of_chans (h : ChanIdle n d) (hc : e.gw.chans = d.gw.chans) : ChanIdle n e := by
  unfold ChanIdle
  rw [hc]
  exact h

theorem failTxn_some (ht : d.gw.chans[n].txn = some t) (status : Nat) : failTxn n status d =
    if t.posted then postedFails n t status (closeChan n d) else answerTxn n t status [] (closeChan n d) := by
  unfold failTxn
  rw [ht]

theorem failTxn_idle (ht : d.gw.chans[n].txn = some t) (status : Nat) :
    ChanIdle n (failTxn n status d) ∧ (failTxn n status d).now = d.now := by
  have hidle := closeChan_idle n d
  have hnow : (closeChan n d).now = d.now := rfl
  rw [failTxn_some ht]
  generalize closeChan n d = e at *
  split
  · have hl := gwLog_aside 1 t.tag t.addr n.val status (t.who = .can) t.epoch (bump 0x2801 7 e)
    exact ⟨hidle.of_chans hl.chans, hl.clock.trans hnow⟩
  · obtain ⟨hc, hn⟩ := answerTxn_chans n t status [] e
    exact ⟨hidle.of_chans hc, hn.trans hnow⟩

end answers

/-! ### The cache (R341) -/

section cache

variable {d : Dev} {n : Fin 32}

/-- One cached entry is logged as discarded. -/
def logDiscard (n : Fin 32) (x : CacheEntry) (d : Dev) : Dev := gwLog 4 0 x.addr n.val 0 false d.inaug.now.epoch (bump 0x2801 0x0B d)

theorem discardCache_eq (n : Fin 32) (bad : CacheEntry → Bool) (d : Dev) : discardCache n bad d =
    forEach (d.gw.chans[n].cache.filter bad) (logDiscard n) (onChan n (fun c => { c with cache := c.cache.filter (fun e => !bad e) }) d) := rfl

theorem logDiscard_regs (n : Fin 32) (x : CacheEntry) (d : Dev) :
    RegsWithin (fun k => AsideKey k ∨ k = odKey 0x2801 0x0B) d (logDiscard n x d) :=
  (bump_within (.inr rfl) d).trans ((gwLog_aside _ _ _ _ _ _ _ _).regs.mono fun _ => .inl)

theorem logDiscard_counts (n : Fin 32) (x : CacheEntry) (d : Dev) :
    cfg (logDiscard n x d) 0x2801 0x0B = min 0xFFFFFFFF (cfg d 0x2801 0x0B + 1) :=
  (gwLog_aside _ _ _ _ _ _ _ _).counts (by decide) (by decide) rfl

theorem logDiscard_leaves (n : Fin 32) (x : CacheEntry) (d : Dev) :
    (logDiscard n x d).gw.chans = d.gw.chans ∧ (logDiscard n x d).now = d.now ∧ (logDiscard n x d).can = d.can := by
  have hl := gwLog_aside 4 0 x.addr n.val 0 false d.inaug.now.epoch (bump 0x2801 0x0B d)
  have hf := gwLog_framed (L := [.out, .regs, .gw, .recd, .ints, .counters]) 4 0 x.addr n.val 0 false d.inaug.now.epoch (bump 0x2801 0x0B d)
    (by decide) (.refl _ _)
  exact ⟨hl.chans, hl.clock, hf.same .can (by decide)⟩

theorem logDiscards_leave (n : Fin 32) (l : List CacheEntry) (d : Dev) : (forEach l (logDiscard n) d).gw.chans = d.gw.chans ∧
    (forEach l (logDiscard n) d).now = d.now ∧ (forEach l (logDiscard n) d).can = d.can := by
  induction l generalizing d with
  | nil => exact ⟨rfl, rfl, rfl⟩
  | cons x l ih =>
    obtain ⟨h1, h2, h3⟩ := logDiscard_leaves n x d
    obtain ⟨g1, g2, g3⟩ := ih (logDiscard n x d)
    exact ⟨g1.trans h1, g2.trans h2, g3.trans h3⟩

/-- Each entry discarded is counted, and the last one logged last. -/
theorem logDiscards_count {addr : Nat} {l : List CacheEntry} (hl : l ≠ []) (ha : ∀ x ∈ l, x.addr = addr) (d : Dev) :
    cfg (forEach l (logDiscard n) d) 0x2801 0x0B = min 0xFFFFFFFF (cfg d 0x2801 0x0B + l.length) ∧
      Logged 4 addr n.val 0 (forEach l (logDiscard n) d) := by
  induction l generalizing d with
  | nil => exact absurd rfl hl
  | cons x l ih =>
    have hc := logDiscard_counts n x d
    have hx : Logged 4 addr n.val 0 (logDiscard n x d) := ha x (.head _) ▸ gwLog_logged _ _ _ _ _ _ _ _
    show cfg (forEach l (logDiscard n) (logDiscard n x d)) _ _ = _ ∧ Logged 4 addr n.val 0 (forEach l (logDiscard n) (logDiscard n x d))
    cases l with
    | nil => exact ⟨hc, hx⟩
    | cons y l =>
      obtain ⟨h1, h2⟩ := ih (by simp) (fun z hz => ha z (.tail _ hz)) (logDiscard n x d)
      refine ⟨?_, h2⟩
      rw [h1, hc]
      simp only [List.length_cons]
      omega

/-- Discarding cached entries leaves the other counters, the controllers and the clock. -/
theorem discardCache_leaves (n : Fin 32) (bad : CacheEntry → Bool) (d : Dev) :
    RegsWithin (fun k => AsideKey k ∨ k = odKey 0x2801 0x0B) d (discardCache n bad d) ∧ (discardCache n bad d).can = d.can ∧
      (discardCache n bad d).now = d.now := by
  rw [discardCache_eq]
  obtain ⟨-, hnow, hcan⟩ := logDiscards_leave n (d.gw.chans[n].cache.filter bad)
    (onChan n (fun c => { c with cache := c.cache.filter (fun e => !bad e) }) d)
  exact ⟨(RegsWithin.forEach (logDiscard_regs n) _ _).after rfl, hcan, hnow⟩

end cache

/-! ### Requests from the backbone (R334, R337 to R339, R342) -/

section requests

variable {d : Dev} {n : Fin 32} {t : Txn} {p : TrdpMsg}

/-- The epoch of a request is one that the node honours when it arrives. -/
theorem honoured_requestEpoch (d : Dev) (topo : BitVec 32) : honoured d (requestEpoch d topo).1 = true := by
  unfold requestEpoch honoured
  split
  · next q hq =>
    split
    · next h =>
      simp only [Bool.and_eq_true] at h
      obtain ⟨⟨hov, -⟩, -⟩ := h
      rw [hq, hov]
      simp
    · simp
  · simp

/-- What an opened channel leaves: its transaction with its deadline, the count, and its object's request. -/
structure Opened (n : Fin 32) (t : Txn) (d e : Dev) : Prop where
  state : e.gw.chans[n].state = .opened
  txn : e.gw.chans[n].txn = some { t with deadline := if t.posted then none else some (d.now + chanReg d n 0x0B * msNs) }
  counted : cfg e 0x2801 5 = min 0xFFFFFFFF (cfg d 0x2801 5 + 1)
  asked : (objOf d (chanCan d n) (chanReg d n 3)).status = 0 → (objOf e (chanCan d n) (chanReg d n 3)).status = 0x10

theorem openBackbone_opens (hc : t.write = true ∨ ∀ x ∈ d.gw.chans[n].cache, x.addr ≠ t.addr) (hs : canSends d.can[chanCan d n] = true) :
    Opened n t d (openBackbone n t d) := by
  have hnone : (if t.write then none else d.gw.chans[n].cache.find? (fun e => e.addr = t.addr)) = none := by
    rcases hc with hc | hc
    · rw [hc]
      rfl
    · split
      · rfl
      · exact List.find?_eq_none.2 fun x hx => by simpa using hc x hx
  unfold openBackbone
  rw [hnone]
  dsimp only
  have h1 : ∀ bad : CacheEntry → Bool, ∀ b : Bool,
      cfg (if b then discardCache n bad d else d) 0x2801 5 = cfg d 0x2801 5 ∧ (if b then discardCache n bad d else d).can = d.can ∧
        (if b then discardCache n bad d else d).now = d.now ∧
          chanReg (if b then discardCache n bad d else d) n 0x0B = chanReg d n 0x0B := fun bad b => by
    obtain ⟨hr, hcan, hnow⟩ := discardCache_leaves n bad d
    cases b
    · exact ⟨rfl, rfl, rfl, rfl⟩
    · exact ⟨hr.cfg (by unfold AsideKey; decide), hcan, hnow, hr.cfg (by unfold AsideKey odKey; omega)⟩
  specialize h1 (fun e => (regionOf d n e.addr).map (·.1) = (regionOf d n t.addr).map (·.1))
    (t.write && ((regionOf d n t.addr).map (·.1)).isSome)
  generalize (if (t.write && ((regionOf d n t.addr).map (·.1)).isSome) = true then _ else d : Dev) = d1 at h1 ⊢
  obtain ⟨hcount, hcan, hnow, hreg⟩ := h1
  generalize hd2 : bump 0x2801 5 (onChan n _ d1) = d2
  have hcan2 : d2.can = d.can := by rw [← hd2]; exact hcan
  have hchan2 : d2.gw.chans[n] = { d1.gw.chans[n] with
      state := .opened
      txn := some { t with deadline := if t.posted then none else some (d.now + chanReg d n 0x0B * msNs) } } := by
    rw [← hd2, bump_gw, onChan_self]
  have hcount2 : cfg d2 0x2801 5 = min 0xFFFFFFFF (cfg d 0x2801 5 + 1) := by
    rw [← hd2, cfg_bump_self _ _ _ rfl, ← hcount]
    rfl
  rw [if_pos (by rw [hcan2]; exact hs)]
  have hput := gwPut_aside (chanCan d n) (chanReg d n 3) (beBytes (chanReg d n 6) t.addr ++ t.data) d2
  refine ⟨?_, ?_, ?_, fun ho => ?_⟩
  · rw [hput.chans, hchan2]
  · rw [hput.chans, hchan2]
  · rw [hput.gwCounter (by decide) (by decide), hcount2]
  · refine gwPut_pends _ (by rw [hcan2]; exact hs) ?_
    unfold objOf at ho ⊢
    rw [hcan2]
    exact ho

/-- A read of a cached address is answered from the cache. -/
theorem openBackbone_cached {x : CacheEntry} {ip : BitVec 32} {port : BitVec 16} {session : BitVec 128}
    (hw : t.who = .backbone ip port session) (hh : honoured d t.epoch = true) (hread : t.write = false)
    (hx : d.gw.chans[n].cache.find? (fun e => e.addr = t.addr) = some x) :
    cfg (openBackbone n t d) 0x2801 0x0A = min 0xFFFFFFFF (cfg d 0x2801 0x0A + 1) ∧
      (openBackbone n t d).gw.chans[n] = { d.gw.chans[n] with cache := d.gw.chans[n].cache.filter (fun y => y ≠ x) } ∧
      ∃ seq, Out.trdp ip.toNat port.toNat 0x4D70 (chanReg d n 7) t.topo.toNat seq session 0
        (txnBlock 0x81 0 t.addr t.tag x.data) ∈ (openBackbone n t d).out := by
  have hsome : (if t.write then none else d.gw.chans[n].cache.find? (fun e => e.addr = t.addr)) = some x := by
    rw [hread]
    exact hx
  unfold openBackbone
  rw [hsome]
  dsimp only
  generalize hb : onChan n (fun c => { c with cache := c.cache.filter (fun y => y ≠ x) }) d = b
  have hchan : b.gw.chans[n] = { d.gw.chans[n] with cache := d.gw.chans[n].cache.filter (fun y => y ≠ x) } := by
    rw [← hb, onChan_self]
  have hdict : b.dict = d.dict := by rw [← hb]; rfl
  have hhb : honoured (bump 0x2801 0x0A b) t.epoch = true := by
    rw [← hh, ← hb]
    rfl
  have hcfg : ∀ idx sub, cfg b idx sub = cfg d idx sub := fun idx sub => by
    unfold cfg
    rw [hdict]
  obtain ⟨haside, seq, hmem⟩ := answerTxn_good (n := n) hw hhb x.data
  have hop : t.op + 0x80 = 0x81 := by
    unfold Txn.op
    rw [hread]
    rfl
  have h7 : chanReg (bump 0x2801 0x0A b) n 7 = chanReg d n 7 := by
    unfold chanReg
    rw [cfg_bump_ne _ _ _ _ _ (by unfold odKey; omega), hcfg]
  rw [hop, h7] at hmem
  refine ⟨?_, ?_, seq, hmem⟩
  · rw [haside.counts (by decide) (by decide) rfl, hcfg]
  · rw [haside.chans, bump_gw, hchan]

/-- The gateway's answer to a request at a channel that runs. -/
theorem mrRequest_exec {s : State} (hn : chanOfComId s.dev 1 p.comId = some n) : exec (.mrRequest p) s = s.does fun d =>
    if !gwActive d then d else if !p.fcsOk then bump 0x2801 3 d
    else if d.gw.chans[n].state = .opened then answerTxn n (backboneTxn d p (blockReq d n p.data) false) 6 [] d
    else if !(blockReq d n p.data).wellFormed then answerTxn n (backboneTxn d p (blockReq d n p.data) false) 7 [] d
    else takeBackbone n (backboneTxn d p (blockReq d n p.data) false) d := by
  show execMrRequest p s = _
  unfold execMrRequest
  refine does_congr ?_
  have hn : chanOfComId s.found 1 p.comId = some n := hn
  rw [hn]

theorem mnNotification_exec {s : State} (hn : chanOfComId s.dev 1 p.comId = some n) : exec (.mnNotification p) s = s.does fun d =>
    if !gwActive d then d else if !p.fcsOk then bump 0x2801 3 d
    else if (blockReq d n p.data).op = 2 then
      if (blockReq d n p.data).wellFormed then takeBackbone n (backboneTxn d p (blockReq d n p.data) true) d else d
    else if chanReg d n 4 = 0xFF then d
    else answerTxn n { backboneTxn d p (blockReq d n p.data) true with posted := false } 7 [] d := by
  show execMnNotification p s = _
  unfold execMnNotification
  refine does_congr ?_
  have hn : chanOfComId s.found 1 p.comId = some n := hn
  rw [hn]

end requests

/-! ### Replies from the backbone (R334, R342) -/

section replies

variable {d : Dev} {n : Fin 32} {t : Txn} {p : TrdpMsg}

/-- Channel `n` waits for a reply with a tag. -/
def AsksMd (d : Dev) (tag : BitVec 32) (n : Fin 32) (t : Txn) : Prop :=
  chanReg d n 1 = 2 ∧ d.gw.chans[n].state = .opened ∧ d.gw.chans[n].txn = some t ∧ t.posted = false ∧ t.tag = tag

/-- The status that a reply stands for. -/
def replyStatus (p : TrdpMsg) (error : Bool) : Nat :=
  if p.data.length < 12 then 7 else if error && leNat (slice p.data 1 1) = 0 then 7 else leNat (slice p.data 1 1)

/-- A reply reaches the one channel that asks for its tag. -/
theorem takeMdReply_asked (hact : gwActive d = true) (hok : p.fcsOk = true) (ha : AsksMd d (BitVec.ofNat 32 (beNat (slice p.data 4 4))) n t)
    (huniq : ∀ (k : Fin 32) (y : Txn), AsksMd d (BitVec.ofNat 32 (beNat (slice p.data 4 4))) k y → k = n) (error : Bool) :
    ∃ data, takeMdReply p error d = answerTxn n t (replyStatus p error) data (closeChan n d) := by
  obtain ⟨hdir, hstate, htxn, hposted, htag⟩ := ha
  unfold takeMdReply
  rw [hact, hok, if_neg (by decide), if_neg (by decide)]
  dsimp only
  generalize hhit : allChans.find? _ = hit
  cases hit with
  | none =>
    have hn := List.find?_eq_none.1 hhit n (List.mem_finRange n)
    refine absurd ?_ hn
    rw [hdir, htxn]
    dsimp only
    rw [hstate, hposted, htag]
    simp
  | some k =>
    have hk := List.find?_some hhit
    simp only [Bool.and_eq_true, decide_eq_true_eq] at hk
    obtain ⟨hkdir, hk⟩ := hk
    split at hk
    · next y hy =>
      simp only [Bool.and_eq_true, Bool.not_eq_true', decide_eq_true_eq] at hk
      obtain ⟨⟨hks, hkp⟩, hkt⟩ := hk
      obtain rfl := huniq k y ⟨hkdir, hks, hy, hkp, hkt⟩
      dsimp only
      rw [htxn]
      exact ⟨_, rfl⟩
    · exact absurd hk (by decide)

/-- A reply that no channel asks for is counted and logged as late. -/
theorem takeMdReply_late (hact : gwActive d = true) (hok : p.fcsOk = true)
    (hnone : ∀ (k : Fin 32) (y : Txn), ¬ AsksMd d (BitVec.ofNat 32 (beNat (slice p.data 4 4))) k y)
    (hn : chanOfComId d 2 p.comId = some n) (error : Bool) : takeMdReply p error d =
      gwLog 3 (BitVec.ofNat 32 (beNat (slice p.data 4 4))) (beNat (slice p.data 2 2)) n.val 0 true d.inaug.now.epoch (bump 0x2801 8 d) := by
  unfold takeMdReply
  rw [hact, hok, if_neg (by decide), if_neg (by decide)]
  dsimp only
  generalize hhit : allChans.find? _ = hit
  cases hit with
  | none =>
    dsimp only
    rw [hn]
  | some k =>
    have hk := List.find?_some hhit
    simp only [Bool.and_eq_true, decide_eq_true_eq] at hk
    obtain ⟨hkdir, hk⟩ := hk
    split at hk
    · next y hy =>
      simp only [Bool.and_eq_true, Bool.not_eq_true', decide_eq_true_eq] at hk
      obtain ⟨⟨hks, hkp⟩, hkt⟩ := hk
      exact absurd ⟨hkdir, hks, hy, hkp, hkt⟩ (hnone k y)
    · exact absurd hk (by decide)

theorem closeChan_aside_cfg (n : Fin 32) (d : Dev) (idx sub : Nat) : cfg (closeChan n d) idx sub = cfg d idx sub := rfl

/-- An error that closes a CAN requester's transaction. -/
theorem closed_canError (hw : t.who = .can) (ho : chanReg d n 5 ≠ 0xFF) {status : Nat} (hs : status ≠ 0) (data : List Byte) :
    ChanIdle n (answerTxn n t status data (closeChan n d)) ∧
      cfg (answerTxn n t status data (closeChan n d)) 0x2801 6 = min 0xFFFFFFFF (cfg d 0x2801 6 + 1) ∧
      Logged 2 t.addr n.val status (answerTxn n t status data (closeChan n d)) := by
  obtain ⟨hcount, hlog, hchans, -⟩ := answerTxn_canError (n := n) (d := closeChan n d) hw ho hs data
  exact ⟨(closeChan_idle n d).of_chans hchans, hcount, hlog⟩

end replies

/-! ### Timeouts (R342) -/

section timeouts

variable {d : Dev} {n : Fin 32}

/-- The transaction of a channel times out. -/
theorem timeout_opened {s : State} {t : Txn} {w : Nat} (hs : s.dev.gw.chans[n].state = .opened) (ht : s.dev.gw.chans[n].txn = some t)
    (hw : t.deadline = some w) : exec (.transactionTimeout n) s = s.does fun d => failTxn n 1 (arrive w d) := by
  show execTransactionTimeout n s = _
  unfold execTransactionTimeout
  refine does_congr ?_
  have hs : s.found.gw.chans[n].state = .opened := hs
  have ht : s.found.gw.chans[n].txn = some t := ht
  dsimp only
  rw [hs, ht, show (some t).bind (fun x => x.deadline) = some w from hw]

/-- The prefetch of a channel times out. -/
theorem timeout_prefetching {s : State} {w : Nat} (hs : s.dev.gw.chans[n].state = .prefetching) (ht : s.dev.gw.chans[n].txn = none)
    (hw : s.dev.gw.chans[n].fetchDeadline = some w) :
    exec (.transactionTimeout n) s = s.does fun d => fetchEnds n none (arrive w d) := by
  show execTransactionTimeout n s = _
  unfold execTransactionTimeout
  refine does_congr ?_
  have hs : s.found.gw.chans[n].state = .prefetching := hs
  have ht : s.found.gw.chans[n].txn = none := ht
  have hw : s.found.gw.chans[n].fetchDeadline = some w := hw
  dsimp only
  rw [hs, ht, hw]

theorem fetchEnds_none (n : Fin 32) (d : Dev) : fetchEnds n none d = serveWaiting n (nextFetch n d) := by
  unfold fetchEnds
  cases d.gw.chans[n].fetching <;> rfl

/-- With nothing due and nothing waiting the prefetch is over. -/
theorem fetchEnds_over (hdue : d.gw.chans[n].due = []) (hwait : d.gw.chans[n].waiting = none) :
    (fetchEnds n none d).gw.chans[n] = { d.gw.chans[n] with state := .idle, fetching := none, fetchDeadline := none } ∧
      (fetchEnds n none d).now = d.now := by
  have hnext : nextFetch n d = onChan n (fun c => { c with state := .idle, fetching := none, fetchDeadline := none }) d := by
    unfold nextFetch
    rw [hdue]
  rw [fetchEnds_none, hnext]
  have hchan := onChan_self n (fun c => { c with state := .idle, fetching := none, fetchDeadline := none }) d
  have hnow : (onChan n (fun c => { c with state := .idle, fetching := none, fetchDeadline := none }) d).now = d.now := rfl
  generalize onChan n _ d = e at *
  have hserve : serveWaiting n e = e := by
    unfold serveWaiting
    rw [hchan]
    dsimp only
    rw [hwait]
  rw [hserve]
  exact ⟨hchan, hnow⟩

/-- The next address due is read ahead. -/
theorem fetchEnds_next {x : Nat} {rest : List Nat} (hdue : d.gw.chans[n].due = x :: rest) :
    (fetchEnds n none d).gw.chans[n] = { d.gw.chans[n] with
        state := .prefetching
        fetching := some x
        due := rest
        fetchDeadline := some (d.now + chanReg d n 0x0B * msNs) } ∧
      (fetchEnds n none d).now = d.now ∧ cfg (fetchEnds n none d) 0x2801 9 = min 0xFFFFFFFF (cfg d 0x2801 9 + 1) := by
  rw [fetchEnds_none]
  generalize he : onChan n (fun c => { c with
      state := .prefetching, fetching := some x, due := rest
      fetchDeadline := some (d.now + chanReg d n 0x0B * msNs) }) d = e
  have hchan : e.gw.chans[n] = { d.gw.chans[n] with
      state := .prefetching
      fetching := some x
      due := rest
      fetchDeadline := some (d.now + chanReg d n 0x0B * msNs) } := by rw [← he, onChan_self]
  have hnow : e.now = d.now := by rw [← he]; rfl
  have hcount : cfg e 0x2801 9 = cfg d 0x2801 9 := by rw [← he]; rfl
  have hnext : nextFetch n d = gwPut (chanCan d n) (chanReg d n 3) (beBytes (chanReg d n 6) x) (bump 0x2801 9 e) := by
    unfold nextFetch
    rw [hdue, ← he]
  have hput := gwPut_aside (chanCan d n) (chanReg d n 3) (beBytes (chanReg d n 6) x) (bump 0x2801 9 e)
  have hcount' := hput.counts (by decide) (by decide) rfl
  have hchans : (gwPut (chanCan d n) (chanReg d n 3) (beBytes (chanReg d n 6) x) (bump 0x2801 9 e)).gw.chans = e.gw.chans := hput.chans
  have hnow' : (gwPut (chanCan d n) (chanReg d n 3) (beBytes (chanReg d n 6) x) (bump 0x2801 9 e)).now = e.now := hput.clock
  rw [hnext]
  generalize gwPut _ _ _ (bump 0x2801 9 e) = f at *
  have hserve : serveWaiting n f = f := by
    unfold serveWaiting
    rw [hchans, hchan]
  rw [hserve, hchans, hnow', hcount', hcount]
  exact ⟨hchan, hnow, rfl⟩

/-- The entries of an address are discarded together. -/
theorem discardCache_addr {addr : Nat} {x : CacheEntry} (hx : d.gw.chans[n].cache.find? (fun e => e.addr = addr) = some x) :
    (discardCache n (fun e => e.addr = addr) d).gw.chans[n] = { d.gw.chans[n] with
        cache := d.gw.chans[n].cache.filter (fun e => e.addr ≠ addr) } ∧
      Logged 4 addr n.val 0 (discardCache n (fun e => e.addr = addr) d) ∧
      cfg (discardCache n (fun e => e.addr = addr) d) 0x2801 0x0B = min 0xFFFFFFFF
        (cfg d 0x2801 0x0B + (d.gw.chans[n].cache.filter (fun e => e.addr = addr)).length) ∧
      (discardCache n (fun e => e.addr = addr) d).now = d.now := by
  have hne : d.gw.chans[n].cache.filter (fun e => e.addr = addr) ≠ [] :=
    List.ne_nil_of_mem (List.mem_filter.2 ⟨List.mem_of_find?_eq_some hx, List.find?_some (p := fun e : CacheEntry => decide (e.addr = addr)) hx⟩)
  have haddr : ∀ y ∈ d.gw.chans[n].cache.filter (fun e => e.addr = addr), y.addr = addr := fun y hy => by
    simpa using (List.mem_filter.1 hy).2
  rw [discardCache_eq]
  generalize hb : onChan n _ d = b
  obtain ⟨hcount, hlog⟩ := logDiscards_count (n := n) hne haddr b
  obtain ⟨hchans, hnow, -⟩ := logDiscards_leave n (d.gw.chans[n].cache.filter (fun e => e.addr = addr)) b
  refine ⟨?_, hlog, ?_, hnow.trans ?_⟩
  · rw [hchans, ← hb, onChan_self]
    simp only [decide_not]
  · rw [hcount, ← hb]
    rfl
  · rw [← hb]
    rfl

end timeouts

/-! ### The statement -/

section settled

variable {s : State} {n : Fin 32} {p : TrdpMsg}

/-- A message with a bad header is only counted. -/
def DroppedMd (s : State) (d : Dev) : Prop :=
  cfg d 0x2801 3 = min 0xFFFFFFFF (cfg s.dev 0x2801 3 + 1) ∧ RegsFramed [(0x2801, 3)] s.found d ∧ Framed [.regs] s.found d

theorem bump_droppedMd (s : State) : DroppedMd s (bump 0x2801 3 s.found) :=
  ⟨cfg_bump_self _ _ _ rfl, (RegsFramed.refl _ _).bump _ _ (by decide), bump_framed _ _ _ (by decide) (.refl _ _)⟩

theorem requests_idle (hn : chanOfComId s.dev 1 p.comId = some n) (h : gwActive s.dev = false) :
    Completes (.mrRequest p) s (fun d => d = s.found) ∧ Completes (.mnNotification p) s fun d => d = s.found := by
  have h : gwActive s.found = false := h
  refine ⟨completes_of_exec (mrRequest_exec hn) ?_, completes_of_exec (mnNotification_exec hn) ?_⟩
  · rw [h]
    rfl
  · rw [h]
    rfl

theorem requests_dropped (hn : chanOfComId s.dev 1 p.comId = some n) (h : gwActive s.dev = true) (hf : p.fcsOk = false) :
    Completes (.mrRequest p) s (DroppedMd s) ∧ Completes (.mnNotification p) s (DroppedMd s) := by
  have h : gwActive s.found = true := h
  refine ⟨completes_of_exec (mrRequest_exec hn) ?_, completes_of_exec (mnNotification_exec hn) ?_⟩
  · rw [h, hf]
    exact bump_droppedMd s
  · rw [h, hf]
    exact bump_droppedMd s

/-- The error reply to a backbone request, in the terms of the statement. -/
def RefusedRequest (s : State) (n : Fin 32) (p : TrdpMsg) (status : Nat) (d : Dev) : Prop :=
  cfg d 0x2801 6 = min 0xFFFFFFFF (cfg s.dev 0x2801 6 + 1) ∧ Logged 2 (blockReq s.dev n p.data).addr n.val status d ∧
    d.gw.chans = s.dev.gw.chans ∧ ∃ seq, Out.trdp p.sourceIp.toNat p.sourcePort.toNat 0x4D65 (chanReg s.dev n 7)
      (requestEpoch s.dev p.topo).2.toNat seq p.session (-1)
      (txnBlock ((if (blockReq s.dev n p.data).op = 2 then 2 else 1) + 0x80) status (blockReq s.dev n p.data).addr
        (blockReq s.dev n p.data).tag []) ∈ d.out

theorem answerTxn_refused (s : State) (n : Fin 32) (p : TrdpMsg) {t : Txn} {b : Bool} {status : Nat} (hs : status ≠ 0)
    (ht : t = { backboneTxn s.found p (blockReq s.found n p.data) false with posted := b }) :
    RefusedRequest s n p status (answerTxn n t status [] s.found) := by
  have hh : honoured s.found t.epoch = true := ht ▸ honoured_requestEpoch s.found p.topo
  have hop : t.op = if (blockReq s.dev n p.data).op = 2 then 2 else 1 := by
    rw [ht]
    show (if decide ((blockReq s.dev n p.data).op = 2) = true then 2 else 1) = _
    simp only [decide_eq_true_eq]
  obtain ⟨⟨hcount, hlog, hchans, -⟩, seq, hmem⟩ := answerTxn_error (n := n) (t := t) (d := s.found) (ip := p.sourceIp) (port := p.sourcePort)
    (session := p.session) (by rw [ht]; rfl) hh hs
  rw [hop] at hmem
  generalize answerTxn n t status [] s.found = e at *
  subst ht
  exact ⟨hcount, hlog, hchans, seq, hmem⟩

theorem mrRequest_runs (hn : chanOfComId s.dev 1 p.comId = some n) (hact : gwActive s.dev = true) (hok : p.fcsOk = true) {P : Dev → Prop}
    (h : P (if s.found.gw.chans[n].state = .opened then answerTxn n (backboneTxn s.found p (blockReq s.found n p.data) false) 6 [] s.found
      else if !(blockReq s.found n p.data).wellFormed then answerTxn n (backboneTxn s.found p (blockReq s.found n p.data) false) 7 [] s.found
      else takeBackbone n (backboneTxn s.found p (blockReq s.found n p.data) false) s.found)) : Completes (.mrRequest p) s P := by
  have hact : gwActive s.found = true := hact
  refine completes_of_exec (mrRequest_exec hn) ?_
  rw [hact, hok]
  exact h

theorem mnNotification_runs (hn : chanOfComId s.dev 1 p.comId = some n) (hact : gwActive s.dev = true) (hok : p.fcsOk = true) {P : Dev → Prop}
    (h : P (if (blockReq s.found n p.data).op = 2 then
      if (blockReq s.found n p.data).wellFormed then takeBackbone n (backboneTxn s.found p (blockReq s.found n p.data) true) s.found else s.found
      else if chanReg s.found n 4 = 0xFF then s.found
      else answerTxn n { backboneTxn s.found p (blockReq s.found n p.data) true with posted := false } 7 [] s.found)) :
    Completes (.mnNotification p) s P := by
  have hact : gwActive s.found = true := hact
  refine completes_of_exec (mnNotification_exec hn) ?_
  rw [hact, hok]
  exact h

theorem takeBackbone_idle {t : Txn} (hx : s.dev.gw.chans[n].state = .idle) : takeBackbone n t s.found = openBackbone n t s.found := by
  have hx : s.found.gw.chans[n].state = .idle := hx
  unfold takeBackbone
  rw [hx]

variable (hn : chanOfComId s.dev 1 p.comId = some n) (hact : gwActive s.dev = true) (hok : p.fcsOk = true)

include hn hact hok

theorem mrRequest_busy (hx : s.dev.gw.chans[n].state = .opened) : Completes (.mrRequest p) s (RefusedRequest s n p 6) := by
  refine mrRequest_runs hn hact hok ?_
  rw [if_pos (show s.found.gw.chans[n].state = .opened from hx)]
  exact answerTxn_refused s n p (b := false) (by decide) rfl

theorem mrRequest_malformed (hx : s.dev.gw.chans[n].state ≠ .opened) (hw : (blockReq s.dev n p.data).wellFormed = false) :
    Completes (.mrRequest p) s (RefusedRequest s n p 7) := by
  have hw : (blockReq s.found n p.data).wellFormed = false := hw
  refine mrRequest_runs hn hact hok ?_
  rw [if_neg (show ¬ s.found.gw.chans[n].state = .opened from hx), hw]
  exact answerTxn_refused s n p (b := false) (by decide) rfl

/-- A posted write that meets an open channel or a malformed block is dropped. -/
theorem mnNotification_drops (hop : (blockReq s.dev n p.data).op = 2)
    (hx : s.dev.gw.chans[n].state = .opened ∨ (blockReq s.dev n p.data).wellFormed = false) :
    Completes (.mnNotification p) s fun d => d = s.found := by
  refine mnNotification_runs hn hact hok ?_
  rw [if_pos (show (blockReq s.found n p.data).op = 2 from hop)]
  by_cases hw : (blockReq s.found n p.data).wellFormed = true
  · have hx : s.found.gw.chans[n].state = .opened := hx.resolve_right fun h => absurd (hw.symm.trans h) (by decide)
    rw [if_pos hw]
    unfold takeBackbone
    rw [hx]
    rfl
  · rw [if_neg hw]

/-- A read in a notification is refused where the channel has a response object. -/
theorem mnNotification_read (hop : (blockReq s.dev n p.data).op ≠ 2) :
    (chanReg s.dev n 4 = 0xFF → Completes (.mnNotification p) s fun d => d = s.found) ∧
      (chanReg s.dev n 4 ≠ 0xFF → Completes (.mnNotification p) s (RefusedRequest s n p 7)) := by
  refine ⟨fun h => mnNotification_runs hn hact hok ?_, fun h => mnNotification_runs hn hact hok ?_⟩
  · rw [if_neg (show ¬ (blockReq s.found n p.data).op = 2 from hop), if_pos (show chanReg s.found n 4 = 0xFF from h)]
  · rw [if_neg (show ¬ (blockReq s.found n p.data).op = 2 from hop), if_neg (show ¬ chanReg s.found n 4 = 0xFF from h)]
    exact answerTxn_refused s n p (b := false) (by decide) rfl

theorem mrRequest_takes {P : Dev → Prop} (hw : (blockReq s.dev n p.data).wellFormed = true) (hx : s.dev.gw.chans[n].state ≠ .opened)
    (h : P (takeBackbone n (backboneTxn s.found p (blockReq s.found n p.data) false) s.found)) : Completes (.mrRequest p) s P := by
  have hw : (blockReq s.found n p.data).wellFormed = true := hw
  refine mrRequest_runs hn hact hok ?_
  rw [if_neg (show ¬ s.found.gw.chans[n].state = .opened from hx), hw]
  exact h

/-- A request at an idle channel of a controller that sends opens it. -/
theorem mrRequest_opens (hw : (blockReq s.dev n p.data).wellFormed = true) (hx : s.dev.gw.chans[n].state = .idle)
    (hs : canSends s.dev.can[chanCan s.dev n] = true)
    (hc : (blockReq s.dev n p.data).op = 2 ∨ ∀ e ∈ s.dev.gw.chans[n].cache, e.addr ≠ (blockReq s.dev n p.data).addr) :
    Completes (.mrRequest p) s (Opened n (backboneTxn s.dev p (blockReq s.dev n p.data) false) s.found) := by
  refine mrRequest_takes hn hact hok hw (by rw [hx]; decide) ?_
  rw [takeBackbone_idle hx]
  exact openBackbone_opens (d := s.found) (hc.imp (fun h => decide_eq_true h) id) hs

theorem mnNotification_opens (hw : (blockReq s.dev n p.data).wellFormed = true) (hx : s.dev.gw.chans[n].state = .idle)
    (hs : canSends s.dev.can[chanCan s.dev n] = true) (hop : (blockReq s.dev n p.data).op = 2) :
    Completes (.mnNotification p) s (Opened n (backboneTxn s.dev p (blockReq s.dev n p.data) true) s.found) := by
  have hw : (blockReq s.found n p.data).wellFormed = true := hw
  refine mnNotification_runs hn hact hok ?_
  rw [if_pos (show (blockReq s.found n p.data).op = 2 from hop), if_pos hw, takeBackbone_idle hx]
  exact openBackbone_opens (d := s.found) (.inl (decide_eq_true hop)) hs

/-- A read of a cached address at an idle channel consumes the entry. -/
theorem mrRequest_cached {e : CacheEntry} (hw : (blockReq s.dev n p.data).wellFormed = true) (hx : s.dev.gw.chans[n].state = .idle)
    (hop : (blockReq s.dev n p.data).op ≠ 2)
    (he : s.dev.gw.chans[n].cache.find? (fun e => e.addr = (blockReq s.dev n p.data).addr) = some e) :
    Completes (.mrRequest p) s fun d => cfg d 0x2801 0x0A = min 0xFFFFFFFF (cfg s.dev 0x2801 0x0A + 1) ∧
      d.gw.chans[n] = { s.dev.gw.chans[n] with cache := s.dev.gw.chans[n].cache.filter (fun y => y ≠ e) } ∧
      ∃ seq, Out.trdp p.sourceIp.toNat p.sourcePort.toNat 0x4D70 (chanReg s.dev n 7) (requestEpoch s.dev p.topo).2.toNat seq
        p.session 0 (txnBlock 0x81 0 (blockReq s.dev n p.data).addr (blockReq s.dev n p.data).tag e.data) ∈ d.out := by
  refine mrRequest_takes hn hact hok hw (by rw [hx]; decide) ?_
  rw [takeBackbone_idle hx]
  exact openBackbone_cached (d := s.found) rfl (honoured_requestEpoch s.found p.topo) (decide_eq_false hop) he

/-- A prefetching channel lets one request wait. -/
theorem mrRequest_waits (hw : (blockReq s.dev n p.data).wellFormed = true) (hx : s.dev.gw.chans[n].state = .prefetching) :
    (s.dev.gw.chans[n].waiting = none → Completes (.mrRequest p) s fun d =>
      d.gw.chans[n] = { s.dev.gw.chans[n] with waiting := some (backboneTxn s.dev p (blockReq s.dev n p.data) false) } ∧
        Framed [.gw] s.found d) ∧
    (s.dev.gw.chans[n].waiting ≠ none → Completes (.mrRequest p) s (RefusedRequest s n p 6)) := by
  have hx' : s.found.gw.chans[n].state = .prefetching := hx
  have htakes : ∀ t : Txn, t.posted = false → takeBackbone n t s.found = if s.found.gw.chans[n].waiting.isNone
      then onChan n (fun c => { c with waiting := some t }) s.found else answerTxn n t 6 [] s.found := fun t ht => by
    unfold takeBackbone
    rw [hx', ht]
    rfl
  refine ⟨fun hwait => ?_, fun hwait => ?_⟩
  · refine mrRequest_takes hn hact hok hw (by rw [hx]; decide) ?_
    rw [htakes _ rfl, if_pos (by rw [show s.found.gw.chans[n].waiting = none from hwait]; rfl)]
    exact ⟨onChan_self n _ s.found, onChan_framed _ _ _ (by decide) (.refl _ _)⟩
  · have hsome : ¬ s.found.gw.chans[n].waiting.isNone = true := fun h => hwait (Option.isNone_iff_eq_none.1 h)
    refine mrRequest_takes hn hact hok hw (by rw [hx]; decide) ?_
    rw [htakes _ rfl, if_neg hsome]
    exact answerTxn_refused s n p (b := false) (by decide) rfl

end settled

section settled

variable {s : State} {n : Fin 32} {p : TrdpMsg}

/-- A reply to a CAN requester closes its transaction (R334, R336). -/
theorem replies_close {t : Txn} (hact : gwActive s.dev = true) (hok : p.fcsOk = true)
    (ha : AsksMd s.dev (BitVec.ofNat 32 (beNat (slice p.data 4 4))) n t)
    (huniq : ∀ (k : Fin 32) (y : Txn), AsksMd s.dev (BitVec.ofNat 32 (beNat (slice p.data 4 4))) k y → k = n)
    (hw : t.who = .can) (hlen : 12 ≤ p.data.length) :
    (leNat (slice p.data 1 1) = 0 → Completes (.mpReply p) s fun d => ChanIdle n d ∧ cfg d 0x2801 6 = cfg s.dev 0x2801 6) ∧
    (leNat (slice p.data 1 1) = 0 → chanReg s.dev n 5 ≠ 0xFF → Completes (.meErrorReply p) s fun d =>
      ChanIdle n d ∧ cfg d 0x2801 6 = min 0xFFFFFFFF (cfg s.dev 0x2801 6 + 1) ∧ Logged 2 t.addr n.val 7 d) ∧
    (leNat (slice p.data 1 1) ≠ 0 → chanReg s.dev n 5 ≠ 0xFF → Completes (.meErrorReply p) s fun d =>
      ChanIdle n d ∧ cfg d 0x2801 6 = min 0xFFFFFFFF (cfg s.dev 0x2801 6 + 1) ∧ Logged 2 t.addr n.val (leNat (slice p.data 1 1)) d) := by
  have hshort : ¬ p.data.length < 12 := by omega
  refine ⟨fun h0 => ?_, fun h0 h5 => ?_, fun h0 h5 => ?_⟩
  · obtain ⟨data, hr⟩ := takeMdReply_asked (d := s.found) hact hok ha huniq false
    have hst : replyStatus p false = 0 := by
      unfold replyStatus
      rw [if_neg hshort, h0]
      rfl
    refine completes_of_exec (f := takeMdReply p false) rfl ?_
    rw [hr, hst]
    have h := answerTxn_canGood (n := n) (d := closeChan n s.found) hw data
    exact ⟨(closeChan_idle n s.found).of_chans h.chans, h.gwCounter (by decide) (by decide)⟩
  · obtain ⟨data, hr⟩ := takeMdReply_asked (d := s.found) hact hok ha huniq true
    have hst : replyStatus p true = 7 := by
      unfold replyStatus
      rw [if_neg hshort, h0]
      rfl
    refine completes_of_exec (f := takeMdReply p true) rfl ?_
    rw [hr, hst]
    exact closed_canError (d := s.found) hw h5 (by decide) data
  · obtain ⟨data, hr⟩ := takeMdReply_asked (d := s.found) hact hok ha huniq true
    have hst : replyStatus p true = leNat (slice p.data 1 1) := by
      unfold replyStatus
      rw [if_neg hshort, if_neg (by simpa using h0)]
    refine completes_of_exec (f := takeMdReply p true) rfl ?_
    rw [hr, hst]
    exact closed_canError (d := s.found) hw h5 h0 data

/-- A reply that nothing asks for is counted and logged with kind 3. -/
theorem replies_late (hact : gwActive s.dev = true) (hok : p.fcsOk = true)
    (hnone : ∀ (k : Fin 32) (y : Txn), ¬ AsksMd s.dev (BitVec.ofNat 32 (beNat (slice p.data 4 4))) k y)
    (hn : chanOfComId s.dev 2 p.comId = some n) (error : Bool) (d : Dev) (hd : d = takeMdReply p error s.found) :
    cfg d 0x2801 8 = min 0xFFFFFFFF (cfg s.dev 0x2801 8 + 1) ∧ Logged 3 (beNat (slice p.data 2 2)) n.val 0 d ∧
      d.gw.chans = s.dev.gw.chans := by
  rw [takeMdReply_late (d := s.found) hact hok hnone hn error] at hd
  subst hd
  have h := gwLog_aside 3 (BitVec.ofNat 32 (beNat (slice p.data 4 4))) (beNat (slice p.data 2 2)) n.val 0 true s.found.inaug.now.epoch
    (bump 0x2801 8 s.found)
  exact ⟨h.counts (by decide) (by decide) rfl, gwLog_logged _ _ _ _ _ _ _ _, h.chans⟩

/-- A transaction that times out is closed; a backbone requester is told. -/
theorem timeout_closes {t : Txn} {w : Nat} (hs : s.dev.gw.chans[n].state = .opened) (ht : s.dev.gw.chans[n].txn = some t)
    (hw : t.deadline = some w) : Completes (.transactionTimeout n) s fun d => ChanIdle n d ∧ d.now = max s.dev.now w ∧
      (t.posted = false → ∀ (ip : BitVec 32) (port : BitVec 16) (session : BitVec 128), t.who = .backbone ip port session →
        honoured s.dev t.epoch = true → cfg d 0x2801 6 = min 0xFFFFFFFF (cfg s.dev 0x2801 6 + 1) ∧ Logged 2 t.addr n.val 1 d ∧
          ∃ seq, Out.trdp ip.toNat port.toNat 0x4D65 (chanReg s.dev n 7) t.topo.toNat seq session (-1)
            (txnBlock (t.op + 0x80) 1 t.addr t.tag []) ∈ d.out) := by
  refine completes_of_exec (timeout_opened hs ht hw) ?_
  have hta : (arrive w s.found).gw.chans[n].txn = some t := by
    rw [arrive_gw]
    exact ht
  obtain ⟨hidle, hnow⟩ := failTxn_idle hta 1
  refine ⟨hidle, hnow.trans (arrive_now w s.found), fun hp ip port session hwho hh => ?_⟩
  rw [failTxn_some hta, hp, if_neg (by decide)]
  have hdict : (arrive w s.found).dict = s.dev.dict := arrive_dict w s.found
  have hinaug : (arrive w s.found).inaug = s.dev.inaug := arrive_inaug w s.found
  generalize arrive w s.found = a at *
  have hcfg : ∀ idx sub, cfg (closeChan n a) idx sub = cfg s.dev idx sub := fun idx sub => by
    show cfg a idx sub = _
    exact cfg_of_dict hdict idx sub
  have hha : honoured (closeChan n a) t.epoch = true := by
    rw [← hh]
    show (_ || _) = _
    rw [show (closeChan n a).inaug = s.dev.inaug from hinaug]
    rfl
  obtain ⟨⟨hcount, hlog, -, -⟩, seq, hmem⟩ := answerTxn_error (n := n) (d := closeChan n a) hwho hha (status := 1) (by decide)
  rw [hcfg] at hcount
  rw [show chanReg (closeChan n a) n 7 = chanReg s.dev n 7 from hcfg _ _] at hmem
  exact ⟨hcount, hlog, seq, hmem⟩

/-- A prefetch that times out goes on with the next address, or ends. -/
theorem timeout_prefetch {w : Nat} (hs : s.dev.gw.chans[n].state = .prefetching) (ht : s.dev.gw.chans[n].txn = none)
    (hw : s.dev.gw.chans[n].fetchDeadline = some w) :
    (s.dev.gw.chans[n].due = [] → s.dev.gw.chans[n].waiting = none → Completes (.transactionTimeout n) s fun d =>
      d.now = max s.dev.now w ∧
        d.gw.chans[n] = { s.dev.gw.chans[n] with
          state := .idle
          fetching := none
          fetchDeadline := none }) ∧
    ∀ (a : Nat) (rest : List Nat), s.dev.gw.chans[n].due = a :: rest → Completes (.transactionTimeout n) s fun d =>
      cfg d 0x2801 9 = min 0xFFFFFFFF (cfg s.dev 0x2801 9 + 1) ∧
        d.gw.chans[n] = { s.dev.gw.chans[n] with
          state := .prefetching
          fetching := some a
          due := rest
          fetchDeadline := some (d.now + chanReg s.dev n 0x0B * msNs) } := by
  have hgw : (arrive w s.found).gw = s.dev.gw := arrive_gw w s.found
  have hnow : (arrive w s.found).now = max s.dev.now w := arrive_now w s.found
  have hdict : (arrive w s.found).dict = s.dev.dict := arrive_dict w s.found
  refine ⟨fun hdue hwait => completes_of_exec (timeout_prefetching hs ht hw) ?_,
    fun x rest hdue => completes_of_exec (timeout_prefetching hs ht hw) ?_⟩
  · generalize arrive w s.found = a at *
    obtain ⟨h1, h2⟩ := fetchEnds_over (d := a) (n := n) (by rw [hgw, hdue]) (by rw [hgw, hwait])
    rw [hgw] at h1
    exact ⟨h2.trans hnow, h1⟩
  · generalize arrive w s.found = a at *
    have hcfg : ∀ idx sub, cfg a idx sub = cfg s.dev idx sub := fun idx sub => by
      unfold cfg
      rw [hdict]
    obtain ⟨h1, h2, h3⟩ := fetchEnds_next (d := a) (n := n) (x := x) (rest := rest) (by rw [hgw, hdue])
    rw [hgw, show chanReg a n 0x0B = chanReg s.dev n 0x0B from hcfg _ _, ← h2] at h1
    exact ⟨h3.trans (by rw [hcfg]), h1⟩

/-- A cached entry whose lifetime ends is discarded, counted and logged with kind 4. -/
theorem lifetime_ends {addr : BitVec 16} {e : CacheEntry} (he : s.dev.gw.chans[n].cache.find? (fun e => e.addr = addr.toNat) = some e) :
    Completes (.prefetchLifetimeEnd n addr) s fun d => d.now = max s.dev.now e.deadline ∧
      d.gw.chans[n] = { s.dev.gw.chans[n] with cache := s.dev.gw.chans[n].cache.filter (fun e => e.addr ≠ addr.toNat) } ∧
      Logged 4 addr.toNat n.val 0 d ∧ cfg d 0x2801 0x0B = min 0xFFFFFFFF
        (cfg s.dev 0x2801 0x0B + (s.dev.gw.chans[n].cache.filter (fun e => e.addr = addr.toNat)).length) := by
  have hrun : exec (.prefetchLifetimeEnd n addr) s = s.does fun d => discardCache n (fun x => x.addr = addr.toNat) (arrive e.deadline d) := by
    show execPrefetchLifetimeEnd n addr s = _
    unfold execPrefetchLifetimeEnd
    refine does_congr ?_
    have he : s.found.gw.chans[n].cache.find? (fun e => e.addr = addr.toNat) = some e := he
    rw [he]
  refine completes_of_exec hrun ?_
  have hgw : (arrive e.deadline s.found).gw = s.dev.gw := arrive_gw _ s.found
  have hnow : (arrive e.deadline s.found).now = max s.dev.now e.deadline := arrive_now _ s.found
  have hdict : (arrive e.deadline s.found).dict = s.dev.dict := arrive_dict _ s.found
  generalize arrive e.deadline s.found = a at *
  obtain ⟨hchan, hlog, hcount, hclock⟩ := discardCache_addr (d := a) (n := n) (addr := addr.toNat) (x := e) (by rw [hgw]; exact he)
  rw [hgw] at hchan hcount
  refine ⟨hclock.trans hnow, hchan, hlog, hcount.trans ?_⟩
  rw [cfg_of_dict hdict]

end settled

/-- Settles O42: each command is followed to its channel, whose answer, log record or transaction it leaves. -/
theorem transactionsOpenAnswerAndFailAsGiven : Obligations.TransactionsOpenAnswerAndFailAsGiven := by
  unfold Obligations.TransactionsOpenAnswerAndFailAsGiven
  intro s m counter nothing dropped logged idle
  refine ⟨fun p n hn => ⟨requests_idle hn, requests_dropped hn, fun hact hok => ⟨mrRequest_busy hn hact hok,
    mrRequest_malformed hn hact hok, mnNotification_drops hn hact hok, mnNotification_read hn hact hok, fun hw hx hs => ⟨fun hc => ?_, fun hc => ?_⟩,
    fun e hw hx hop he => mrRequest_cached hn hact hok hw hx hop he, mrRequest_waits hn hact hok⟩⟩,
    fun p => ⟨fun h => ?_, fun h hf => ?_, fun hact hok => ⟨fun n t ha huniq hw hlen => replies_close hact hok ha huniq hw hlen,
      fun n hnone hn => ⟨completes_of_exec (f := takeMdReply p false) rfl (replies_late hact hok hnone hn false _ rfl),
        completes_of_exec (f := takeMdReply p true) rfl (replies_late hact hok hnone hn true _ rfl)⟩⟩⟩,
    fun n => ⟨fun t w => timeout_closes, fun w => timeout_prefetch, fun addr e => lifetime_ends⟩⟩
  · obtain ⟨t, he, hp, ho⟩ := mrRequest_opens hn hact hok hw hx hs hc
    exact ⟨t, he, hp, ho.state, ho.txn, ho.counted, ho.asked⟩
  · obtain ⟨t, he, hp, ho⟩ := mnNotification_opens hn hact hok hw hx hs hc
    exact ⟨t, he, hp, ho.state, ho.txn, ho.counted, ho.asked⟩
  · have hidle : ∀ error, takeMdReply p error s.found = s.found := fun error => by
      have h : gwActive s.found = false := h
      unfold takeMdReply
      rw [h]
      rfl
    exact ⟨completes_of_exec (f := takeMdReply p false) rfl (hidle false), completes_of_exec (f := takeMdReply p true) rfl (hidle true)⟩
  · have hdrop : ∀ error, takeMdReply p error s.found = bump 0x2801 3 s.found := fun error => by
      have h : gwActive s.found = true := h
      unfold takeMdReply
      rw [h, hf]
      rfl
    exact ⟨completes_of_exec (f := takeMdReply p false) rfl (by rw [hdrop]; exact bump_droppedMd s),
      completes_of_exec (f := takeMdReply p true) rfl (by rw [hdrop]; exact bump_droppedMd s)⟩

end Sys2Proof.Machine
end

section
/-! PROOF. Entries in the recorder's memories, and what placing them leaves of the recorder (R368, R369, R376, R377, R382). -/

namespace Sys2Proof.Machine

/-! ### Slots -/

/-- The slots of a memory rise, as R372 keeps them. -/
def SlotsRise (m : List (Nat × Entry)) : Prop := (m.map (·.1)).Pairwise (· < ·)

section slots

variable {m r : List (Nat × Entry)} {e : Entry} {k cap : Nat}

theorem slotsRise_cons {x : Nat × Entry} : SlotsRise (x :: m) ↔ (∀ y ∈ m, x.1 < y.1) ∧ SlotsRise m := by
  simp [SlotsRise]

theorem mem_putSlot_self (k : Nat) (e : Entry) (m : List (Nat × Entry)) : (k, e) ∈ putSlot k e m := by
  induction m with
  | nil => exact .head _
  | cons x m ih =>
    unfold putSlot
    split
    · exact .head _
    · split
      · exact .head _
      · exact .tail _ ih

theorem mem_putSlot_of_ne {x : Nat × Entry} (hx : x ∈ m) (hk : x.1 ≠ k) (e : Entry) : x ∈ putSlot k e m := by
  induction m with
  | nil => exact absurd hx List.not_mem_nil
  | cons y m ih =>
    unfold putSlot
    split
    · exact .tail _ hx
    · split
      · next h =>
        rcases List.mem_cons.1 hx with rfl | hx
        · exact absurd h.symm hk
        · exact .tail _ hx
      · rcases List.mem_cons.1 hx with rfl | hx
        · exact .head _
        · exact .tail _ (ih hx)

theorem mem_putSlot {x : Nat × Entry} (hx : x ∈ putSlot k e m) : x.1 = k ∨ x ∈ m := by
  induction m with
  | nil => exact .inl (by rw [List.mem_singleton.1 hx])
  | cons y m ih =>
    unfold putSlot at hx
    split at hx
    · exact (List.mem_cons.1 hx).imp (fun h => by rw [h]) id
    · split at hx
      · exact (List.mem_cons.1 hx).imp (fun h => by rw [h]) fun h => .tail _ h
      · rcases List.mem_cons.1 hx with rfl | hx
        · exact .inr (.head _)
        · exact (ih hx).imp id fun h => .tail _ h

theorem putSlot_ne_nil (k : Nat) (e : Entry) (m : List (Nat × Entry)) : putSlot k e m ≠ [] := List.ne_nil_of_mem (mem_putSlot_self k e m)

theorem length_putSlot_le (k : Nat) (e : Entry) (m : List (Nat × Entry)) : (putSlot k e m).length ≤ m.length + 1 := by
  induction m with
  | nil => exact Nat.le_refl _
  | cons x m ih =>
    unfold putSlot
    split
    · simp
    · split
      · simp
      · simpa using ih

theorem SlotsRise.putSlot (h : SlotsRise m) (k : Nat) (e : Entry) : SlotsRise (putSlot k e m) := by
  induction m with
  | nil => simp [SlotsRise, Machine.putSlot]
  | cons x m ih =>
    obtain ⟨hx, hm⟩ := slotsRise_cons.1 h
    unfold Machine.putSlot
    split
    · next hk =>
      refine slotsRise_cons.2 ⟨fun y hy => ?_, h⟩
      rcases List.mem_cons.1 hy with rfl | hy
      · exact hk
      · exact Nat.lt_trans hk (hx y hy)
    · split
      · next heq => exact slotsRise_cons.2 ⟨fun y hy => heq ▸ hx y hy, hm⟩
      · refine slotsRise_cons.2 ⟨fun y hy => ?_, ih hm⟩
        rcases mem_putSlot hy with hy | hy
        · rw [hy]
          omega
        · exact hx y hy

/-- The first gap is no slot of a memory whose slots rise from its start on. -/
theorem freeSlot_free {n : Nat} (h : SlotsRise m) (hn : ∀ x ∈ m, n ≤ x.1) : ∀ x ∈ m, x.1 ≠ freeSlot n m := by
  have hge : ∀ (m : List (Nat × Entry)) n, n ≤ freeSlot n m := fun m => by
    induction m with
    | nil => exact fun _ => Nat.le_refl _
    | cons x m ih =>
      intro n
      unfold freeSlot
      split
      · exact Nat.le_trans (Nat.le_succ n) (ih _)
      · exact Nat.le_refl _
  induction m generalizing n with
  | nil => exact fun x hx => absurd hx List.not_mem_nil
  | cons y m ih =>
    obtain ⟨hy, hm⟩ := slotsRise_cons.1 h
    unfold freeSlot
    split
    · next heq =>
      intro x hx
      rcases List.mem_cons.1 hx with rfl | hx
      · have := hge m (n + 1)
        omega
      · exact ih hm (fun z hz => by have := hy z hz; omega) x hx
    · next hne =>
      intro x hx
      have hyn := hn y (.head _)
      rcases List.mem_cons.1 hx with rfl | hx
      · exact hne
      · have := hy x hx
        omega

theorem length_putSlot_free (hk : ∀ x ∈ m, x.1 ≠ k) (e : Entry) : (putSlot k e m).length = m.length + 1 := by
  induction m with
  | nil => rfl
  | cons y m ih =>
    unfold putSlot
    split
    · rfl
    · rw [if_neg (fun h => hk y (.head _) h.symm), List.length_cons, List.length_cons, ih fun x hx => hk x (.tail _ hx)]

/-- An entry joins a memory with room: nothing is lost. -/
theorem slotAccept_room (hm : SlotsRise m) (hroom : m.length < cap) (e : Entry) :
    ∃ k r, slotAccept cap e m = some r ∧ (k, e) ∈ r ∧ (∀ x ∈ m, x ∈ r) ∧ r.length = m.length + 1 ∧ SlotsRise r := by
  have hfree := freeSlot_free hm (n := 0) fun x _ => Nat.zero_le _
  refine ⟨freeSlot 0 m, putSlot (freeSlot 0 m) e m, if_pos hroom, mem_putSlot_self _ _ _, fun x hx => mem_putSlot_of_ne hx (hfree x hx) e,
    length_putSlot_free hfree e, hm.putSlot _ _⟩

theorem slotAccept_some (h : slotAccept cap e m = some r) : r ≠ [] ∧ r.length ≤ m.length + 1 ∧ (SlotsRise m → SlotsRise r) := by
  have hput : ∀ k, putSlot k e m = r → r ≠ [] ∧ r.length ≤ m.length + 1 ∧ (SlotsRise m → SlotsRise r) := fun k hk =>
    hk ▸ ⟨putSlot_ne_nil k e m, length_putSlot_le k e m, fun hm => hm.putSlot k e⟩
  unfold slotAccept at h
  split at h
  · exact hput _ (Option.some.inj h)
  · split at h
    · exact hput _ (Option.some.inj h)
    · exact absurd h (by simp)

/-- The slot that a severity may displace holds an entry that is no more severe. -/
theorem oldestSlot_le {sev : Nat} (h : oldestSlot sev m = some k) : ∃ x ∈ m, x.1 = k ∧ x.2.sev ≤ sev := by
  have hfold : ∀ (g : Option (Nat × Entry) → Nat × Entry → Option (Nat × Entry)),
      (∀ acc x, g acc x = acc ∨ g acc x = some x ∧ x.2.sev ≤ sev) → ∀ (l : List (Nat × Entry)) acc y, l.foldl g acc = some y →
        acc = some y ∨ y ∈ l ∧ y.2.sev ≤ sev := fun g hg l => by
    induction l with
    | nil => exact fun acc y h => .inl h
    | cons x l ih =>
      intro acc y hy
      rcases ih (g acc x) y hy with h | ⟨h, hs⟩
      · rcases hg acc x with hx | ⟨hx, hs⟩
        · exact .inl (hx ▸ h)
        · obtain rfl := Option.some.inj (hx.symm.trans h)
          exact .inr ⟨.head _, hs⟩
      · exact .inr ⟨.tail _ h, hs⟩
  unfold oldestSlot at h
  obtain ⟨y, hy, rfl⟩ := Option.map_eq_some_iff.1 h
  have := hfold _ (fun acc x => ?_) m none y hy
  · obtain ⟨hm, hs⟩ := this.resolve_left (by simp)
    exact ⟨y, hm, rfl, hs⟩
  · split
    · next hs =>
      split
      · exact .inr ⟨rfl, hs⟩
      · split
        · exact .inr ⟨rfl, hs⟩
        · exact .inl rfl
    · exact .inl rfl

theorem SlotsRise.eq_of_slot (h : SlotsRise m) {x y : Nat × Entry} (hx : x ∈ m) (hy : y ∈ m) (he : x.1 = y.1) : x = y := by
  induction m with
  | nil => exact absurd hx List.not_mem_nil
  | cons z m ih =>
    obtain ⟨hz, hm⟩ := slotsRise_cons.1 h
    rcases List.mem_cons.1 hx with rfl | hx' <;> rcases List.mem_cons.1 hy with rfl | hy'
    · rfl
    · have := hz y hy'
      omega
    · have := hz x hx'
      omega
    · exact ih hm hx' hy'

/-- An entry of a less severe event does not displace one that is more severe. -/
theorem slotAccept_keeps (hm : SlotsRise m) {x : Nat × Entry} (hx : x ∈ m) (hs : e.sev < x.2.sev) (h : slotAccept cap e m = some r) : x ∈ r := by
  unfold slotAccept at h
  split at h
  · rw [← Option.some.inj h]
    exact mem_putSlot_of_ne hx (freeSlot_free hm (fun y _ => Nat.zero_le _) x hx) e
  · split at h
    · next k hk =>
      rw [← Option.some.inj h]
      refine mem_putSlot_of_ne hx (fun he => ?_) e
      obtain ⟨y, hy, hyk, hys⟩ := oldestSlot_le hk
      obtain rfl := hm.eq_of_slot hx hy (he.trans hyk.symm)
      omega
    · exact absurd h (by simp)

theorem length_seqSort (l : List Entry) : (seqSort l).length = l.length := by
  have hins : ∀ (e : Entry) l, (seqInsert e l).length = l.length + 1 := fun e l => by
    induction l with
    | nil => rfl
    | cons x l ih =>
      unfold seqInsert
      split
      · rfl
      · rw [List.length_cons, ih, List.length_cons]
  induction l with
  | nil => rfl
  | cons x l ih => exact (hins x _).trans (by rw [show l.foldr seqInsert [] = seqSort l from rfl, ih, List.length_cons])

theorem mem_seqSort {l : List Entry} (h : e ∈ l) : e ∈ seqSort l := by
  have hins : ∀ (x : Entry) l, x ∈ seqInsert x l ∧ ∀ y ∈ l, y ∈ seqInsert x l := fun x l => by
    induction l with
    | nil => exact ⟨.head _, fun y hy => absurd hy List.not_mem_nil⟩
    | cons z l ih =>
      unfold seqInsert
      split
      · exact ⟨.head _, fun y hy => .tail _ hy⟩
      · refine ⟨.tail _ ih.1, fun y hy => ?_⟩
        rcases List.mem_cons.1 hy with rfl | hy
        · exact .head _
        · exact .tail _ (ih.2 y hy)
  induction l with
  | nil => exact absurd h List.not_mem_nil
  | cons x l ih =>
    rcases List.mem_cons.1 h with rfl | h
    · exact (hins e _).1
    · exact (hins x _).2 e (ih h)

end slots

/-! ### What placing entries leaves of the recorder -/

/-- The recorder after entries have been placed: its state, its log and what governs them are as they were, and no memory empties. -/
structure RecStands (x y : RecS) : Prop where
  state : y.state = x.state
  log : y.log = x.log
  valid : y.summary.valid = x.summary.valid
  slots : y.summary.slots = x.summary.slots
  fmt : y.summary.fmt = x.summary.fmt
  freezeEnd : y.freezeEnd = x.freezeEnd
  retryAt : y.retryAt = x.retryAt
  mediumFailed : y.mediumFailed = x.mediumFailed
  ddrFailed : y.ddrFailed = x.ddrFailed
  afterRing : y.afterRing = x.afterRing
  early : y.early = x.early
  ring : x.ring ≠ [] → y.ring ≠ []
  holding : x.holding ≠ [] → y.holding ≠ []
  buffers : x.state ≠ .logging → y.staging = x.staging ∧ y.inflight = x.inflight
  held : x.state ≠ .frozen → y.holding = x.holding

section stands

variable {x y z : RecS} {d : Dev}

theorem RecStands.refl (x : RecS) : RecStands x x := ⟨rfl, rfl, rfl, rfl, rfl, rfl, rfl, rfl, rfl, rfl, rfl, id, id, fun _ => ⟨rfl, rfl⟩, fun _ => rfl⟩

theorem RecStands.trans (h1 : RecStands x y) (h2 : RecStands y z) : RecStands x z :=
  ⟨h2.state.trans h1.state, h2.log.trans h1.log, h2.valid.trans h1.valid, h2.slots.trans h1.slots, h2.fmt.trans h1.fmt,
    h2.freezeEnd.trans h1.freezeEnd, h2.retryAt.trans h1.retryAt, h2.mediumFailed.trans h1.mediumFailed,
    h2.ddrFailed.trans h1.ddrFailed, h2.afterRing.trans h1.afterRing, h2.early.trans h1.early, h2.ring ∘ h1.ring,
    h2.holding ∘ h1.holding, fun hs => by
      obtain ⟨ha, hb⟩ := h1.buffers hs
      obtain ⟨hc, hd⟩ := h2.buffers (h1.state ▸ hs)
      exact ⟨hc.trans ha, hd.trans hb⟩, fun hs => (h2.held (h1.state ▸ hs)).trans (h1.held hs)⟩

theorem RecStands.ite {p : Prop} [Decidable p] {a b : Dev} (ha : RecStands x a.recd) (hb : RecStands x b.recd) :
    RecStands x (if p then a else b).recd := by
  split
  exacts [ha, hb]

theorem RecStands.of_eq (h : y = x) : RecStands x y := h ▸ .refl x

theorem RecStands.forEach {α : Type} {f : α → Dev → Dev} (hf : ∀ a d, RecStands d.recd (f a d).recd) (l : List α) (d : Dev) :
    RecStands d.recd (forEach l f d).recd := by
  induction l generalizing d with
  | nil => exact .refl _
  | cons a l ih => exact (hf a d).trans (ih _)

theorem countDrop_recStands (d : Dev) : RecStands d.recd (countDrop d).recd := by
  unfold countDrop
  dsimp only
  split <;> exact ⟨rfl, rfl, rfl, rfl, rfl, rfl, rfl, rfl, rfl, rfl, rfl, id, id, fun _ => ⟨rfl, rfl⟩, fun _ => rfl⟩

theorem tarnCopy_recStands (e : Entry) (d : Dev) : RecStands d.recd (tarnCopy e d).recd := by
  unfold tarnCopy
  split
  · exact ⟨rfl, rfl, rfl, rfl, rfl, rfl, rfl, rfl, rfl, rfl, rfl, id, id, fun _ => ⟨rfl, rfl⟩, fun _ => rfl⟩
  · exact countDrop_recStands (bump 0x2A06 0x11 d)

theorem tarnLimited_recStands (e : Entry) (d : Dev) : RecStands d.recd (tarnLimited e d).recd := by
  unfold tarnLimited
  refine .ite (.refl _) (.ite (tarnCopy_recStands e d) (.ite ?_ (.of_eq (bump_recd _ _ _))))
  refine RecStands.trans ?_ (tarnCopy_recStands e _)
  exact ⟨rfl, rfl, rfl, rfl, rfl, rfl, rfl, rfl, rfl, rfl, rfl, id, id, fun _ => ⟨rfl, rfl⟩, fun _ => rfl⟩

theorem ringAccept_recStands (e : Entry) (d : Dev) : RecStands d.recd (ringAccept e d).recd := by
  unfold ringAccept
  split
  · next r hr => exact ⟨rfl, rfl, rfl, rfl, rfl, rfl, rfl, rfl, rfl, rfl, rfl, fun _ => (slotAccept_some hr).1, id, fun _ => ⟨rfl, rfl⟩, fun _ => rfl⟩
  · exact countDrop_recStands (bump 0x2A06 0x0A d)

theorem holdingAccept_recStands (e : Entry) (hs : d.recd.state = .frozen) : RecStands d.recd (holdingAccept e d).recd := by
  unfold holdingAccept
  split
  · next r hr => exact ⟨rfl, rfl, rfl, rfl, rfl, rfl, rfl, rfl, rfl, rfl, rfl, id, fun _ => (slotAccept_some hr).1, fun _ => ⟨rfl, rfl⟩, fun h => absurd hs h⟩
  · rw [bump_recd]
    exact ⟨rfl, rfl, rfl, rfl, rfl, rfl, rfl, rfl, rfl, rfl, rfl, id, id, fun _ => ⟨rfl, rfl⟩, fun _ => rfl⟩

theorem stageEntry_recStands (e : Entry) (hs : d.recd.state = .logging) : RecStands d.recd (stageEntry e d).recd := by
  have hflush : ∀ d : Dev, d.recd.state = .logging → RecStands d.recd (startFlush d).recd := fun d hs => by
    unfold startFlush
    split
    · exact ⟨rfl, rfl, rfl, rfl, rfl, rfl, rfl, rfl, rfl, rfl, rfl, id, id, fun h => absurd hs h, fun _ => rfl⟩
    · exact .refl _
  have hstage : ∀ l, RecStands d.recd { d.recd with staging := l } := fun l =>
    ⟨rfl, rfl, rfl, rfl, rfl, rfl, rfl, rfl, rfl, rfl, rfl, id, id, fun h => absurd hs h, fun _ => rfl⟩
  unfold stageEntry
  refine .ite ?_ (ringAccept_recStands e d)
  dsimp only
  refine .ite ?_ (hstage _)
  refine RecStands.trans ?_ (hflush _ ?_)
  · exact hstage _
  · exact hs

theorem placeWith_recStands {copy : Entry → Dev → Dev} (hcopy : ∀ e d, RecStands d.recd (copy e d).recd) (e : Entry) (d : Dev) :
    RecStands d.recd (placeWith copy e d).recd := by
  have hseq : ∀ q, RecStands d.recd { d.recd with lastSeq := q } := fun q =>
    ⟨rfl, rfl, rfl, rfl, rfl, rfl, rfl, rfl, rfl, rfl, rfl, id, id, fun _ => ⟨rfl, rfl⟩, fun _ => rfl⟩
  have hint : ∀ r : Dev, RecStands d.recd r.recd → RecStands d.recd (if e.sev = 7 then setInt 28 r else r).recd := fun r h =>
    .ite (h.trans (.of_eq (setInt_recd _ _))) h
  unfold placeWith
  refine hint _ ?_
  split
  · next h =>
    refine RecStands.trans (RecStands.trans ?_ (stageEntry_recStands _ h)) (hcopy _ _)
    exact hseq _
  · next h =>
    refine RecStands.trans (RecStands.trans ?_ (holdingAccept_recStands _ h)) (hcopy _ _)
    exact hseq _
  · refine RecStands.trans (RecStands.trans ?_ (ringAccept_recStands _ _)) (hcopy _ _)
    exact hseq _

theorem placeEntry_recStands (e : Entry) (d : Dev) : RecStands d.recd (placeEntry e d).recd := by
  have h := placeWith_recStands tarnLimited_recStands e d
  unfold placeEntry
  dsimp only
  refine .ite (h.trans ?_) h
  refine RecStands.trans ?_ (placeWith_recStands (fun _ d => .refl d.recd) _ _)
  exact ⟨rfl, rfl, rfl, rfl, rfl, rfl, rfl, rfl, rfl, rfl, rfl, id, id, fun _ => ⟨rfl, rfl⟩, fun _ => rfl⟩

/-- An event leaves the recorder that runs as placing an entry does. -/
theorem raiseP_recStands (ev : Ev) (inst : Nat) (payload : List Byte) (h : d.recd.state ≠ .off ∧ d.recd.state ≠ .scanning) :
    RecStands d.recd (raiseP ev inst payload d).recd := by
  unfold raiseP recordEntry
  refine .ite (.of_eq (bump_recd _ _ _)) ?_
  split
  · next hs => exact absurd hs h.1
  · next hs => exact absurd hs h.2
  · exact placeEntry_recStands _ d

end stands

end Sys2Proof.Machine
end

section
/-! PROOF. The recorder: writes, freezes, a medium that fails and returns, the scan, and the commands of its users (R374 to R380, R385,
R386, R390). -/

namespace Sys2Proof.Machine

/-! ### Entries in the log (R374, R375) -/

section log

variable {d : Dev}

/-- Entries have joined the log, and nothing has left it. -/
structure LogGrown (es : List Entry) (a b : Dev) : Prop where
  length : b.recd.log.length = a.recd.log.length + es.length
  kept : ∀ x ∈ a.recd.log, x ∈ b.recd.log
  joined : ∀ e ∈ es, ∃ k, (k, e) ∈ b.recd.log
  rise : SlotsRise b.recd.log
  slots : b.recd.summary.slots = a.recd.summary.slots
  counted : es ≠ [] → cfg b 0x2A06 0x10 = min 0xFFFFFFFF (cfg a 0x2A06 0x10 + es.length)

theorem logOne_grows (hm : SlotsRise d.recd.log) (hroom : d.recd.log.length < d.recd.summary.slots) (e : Entry) :
    LogGrown [e] d (logOne e d) := by
  obtain ⟨k, r, hr, hk, hkept, hlen, hrise⟩ := slotAccept_room hm hroom e
  unfold logOne
  rw [hr]
  exact ⟨hlen, hkept, fun x hx => ⟨k, List.mem_singleton.1 hx ▸ hk⟩, hrise, rfl, fun _ => cfg_bump_self _ _ _ rfl⟩

theorem logOnes_grow {es : List Entry} (hm : SlotsRise d.recd.log) (hroom : d.recd.log.length + es.length ≤ d.recd.summary.slots) :
    LogGrown es d (forEach es logOne d) := by
  induction es generalizing d with
  | nil => exact ⟨rfl, fun _ h => h, fun e he => absurd he List.not_mem_nil, hm, rfl, fun h => absurd rfl h⟩
  | cons e es ih =>
    rw [List.length_cons] at hroom
    have h1 := logOne_grows hm (by omega) e
    have h2 := ih h1.rise (by rw [h1.length, h1.slots, List.length_singleton]; omega)
    have hlen := h1.length
    rw [List.length_singleton] at hlen
    refine ⟨?_, fun x hx => h2.kept x (h1.kept x hx), fun x hx => ?_, h2.rise, h2.slots.trans h1.slots, fun _ => ?_⟩
    · exact h2.length.trans (by rw [hlen, List.length_cons]; omega)
    · rcases List.mem_cons.1 hx with rfl | hx
      · obtain ⟨k, hk⟩ := h1.joined x (.head _)
        exact ⟨k, h2.kept _ hk⟩
      · exact h2.joined x hx
    · have hc := h1.counted (by simp)
      rw [List.length_singleton] at hc
      show cfg (forEach es logOne (logOne e d)) _ _ = _
      cases es with
      | nil => exact hc
      | cons y es =>
        rw [h2.counted (by simp), hc]
        simp only [List.length_cons]
        omega

theorem logWrite_grows {es : List Entry} (hm : SlotsRise d.recd.log) (hroom : d.recd.log.length + es.length ≤ d.recd.summary.slots) :
    LogGrown es d (logWrite es d) := by
  obtain ⟨h1, h2, h3, h4, h5, h6⟩ := logOnes_grow hm hroom
  unfold logWrite
  dsimp only
  split
  · exact ⟨h1, h2, h3, h4, h5, h6⟩
  · exact ⟨h1, h2, h3, h4, h5, h6⟩

/-- What a write leaves of the recorder besides its log. -/
theorem logWrite_leaves (es : List Entry) (d : Dev) : (logWrite es d).recd.ring = d.recd.ring ∧ (logWrite es d).recd.holding = d.recd.holding ∧
    (logWrite es d).recd.staging = d.recd.staging ∧ (logWrite es d).recd.inflight = d.recd.inflight ∧
    (logWrite es d).recd.holdingDrops = d.recd.holdingDrops ∧ (logWrite es d).recd.afterRing = d.recd.afterRing ∧
    RegsFramed [(0x2A06, 0x10)] d (logWrite es d) := by
  have hone : ∀ e d, (logOne e d).recd.ring = d.recd.ring ∧ (logOne e d).recd.holding = d.recd.holding ∧
      (logOne e d).recd.staging = d.recd.staging ∧ (logOne e d).recd.inflight = d.recd.inflight ∧
      (logOne e d).recd.holdingDrops = d.recd.holdingDrops ∧ (logOne e d).recd.afterRing = d.recd.afterRing ∧
      RegsFramed [(0x2A06, 0x10)] d (logOne e d) := fun e d => by
    unfold logOne
    split
    · exact ⟨rfl, rfl, rfl, rfl, rfl, rfl, (RegsFramed.of_same rfl).bump _ _ (by decide)⟩
    · exact ⟨rfl, rfl, rfl, rfl, rfl, rfl, .of_same rfl⟩
  have hall : ∀ (l : List Entry) d, (forEach l logOne d).recd.ring = d.recd.ring ∧ (forEach l logOne d).recd.holding = d.recd.holding ∧
      (forEach l logOne d).recd.staging = d.recd.staging ∧ (forEach l logOne d).recd.inflight = d.recd.inflight ∧
      (forEach l logOne d).recd.holdingDrops = d.recd.holdingDrops ∧ (forEach l logOne d).recd.afterRing = d.recd.afterRing ∧
      RegsFramed [(0x2A06, 0x10)] d (forEach l logOne d) := fun l => by
    induction l with
    | nil => exact fun d => ⟨rfl, rfl, rfl, rfl, rfl, rfl, .refl _ d⟩
    | cons e l ih =>
      intro d
      obtain ⟨a1, a2, a3, a4, a5, a6, a7⟩ := hone e d
      obtain ⟨b1, b2, b3, b4, b5, b6, b7⟩ := ih (logOne e d)
      exact ⟨b1.trans a1, b2.trans a2, b3.trans a3, b4.trans a4, b5.trans a5, b6.trans a6, a7.trans b7⟩
  obtain ⟨h1, h2, h3, h4, h5, h6, h7⟩ := hall es d
  unfold logWrite
  dsimp only
  split
  · exact ⟨h1, h2, h3, h4, h5, h6, h7⟩
  · exact ⟨h1, h2, h3, h4, h5, h6, h7.trans (.of_same rfl)⟩

/-- Refilling and flushing leave the log alone. -/
theorem refill_leaves (d : Dev) : (flushIfDue (refillStaging d)).recd.log = d.recd.log ∧
    Framed [.recd] d (flushIfDue (refillStaging d)) := by
  have hflush : ∀ d : Dev, (startFlush d).recd.log = d.recd.log := fun d => by
    unfold startFlush
    split <;> rfl
  have hrefill : (refillStaging d).recd.log = d.recd.log := by
    unfold refillStaging
    dsimp only
    split <;> rfl
  refine ⟨?_, flushIfDue_framed _ (by decide) (refillStaging_framed _ (by decide) (.refl _ d))⟩
  rw [← hrefill]
  generalize refillStaging d = e
  unfold flushIfDue
  split
  · exact hflush e
  · rfl

/-- The oldest staged entry has waited: the staged entries are being written. -/
theorem flushDelay_writes {s : State} {e : Entry} {t : Nat} {rest : List (Entry × Nat)} (hst : s.dev.recd.staging = (e, t) :: rest)
    (hin : s.dev.recd.inflight = []) (hlog : s.dev.recd.state = .logging) : Completes .flushDelay s fun d =>
      d.now = max s.dev.now (t + cfg s.dev 0x2A01 3 * msNs) ∧ d.recd = { s.dev.recd with
        inflight := s.dev.recd.staging.map (·.1)
        staging := []
        writeDeadline := some (d.now + 250 * msNs) } ∧ Framed [.clock, .recd, .counters] s.found d := by
  have hrun : exec .flushDelay s = s.does fun d => startFlush (arrive (t + cfg d 0x2A01 3 * msNs) d) := by
    show execFlushDelay s = _
    unfold execFlushDelay
    refine does_congr ?_
    have hst : s.found.recd.staging = (e, t) :: rest := hst
    rw [hst]
  refine completes_of_exec hrun ?_
  have hnow : (arrive (t + cfg s.found 0x2A01 3 * msNs) s.found).now = max s.dev.now (t + cfg s.dev 0x2A01 3 * msNs) := arrive_now _ s.found
  have hrec : (arrive (t + cfg s.found 0x2A01 3 * msNs) s.found).recd = s.dev.recd := arrive_recd _ s.found
  have hframe : Framed [.clock, .recd, .counters] s.found (startFlush (arrive (t + cfg s.found 0x2A01 3 * msNs) s.found)) :=
    startFlush_framed _ (by decide) (arrive_framed _ _ (by decide) (.refl _ _))
  generalize arrive (t + cfg s.found 0x2A01 3 * msNs) s.found = a at *
  have hflush : startFlush a = { a with recd := { a.recd with
      inflight := a.recd.staging.map (·.1), staging := [], writeDeadline := some (a.now + 250 * msNs) } } := by
    unfold startFlush
    exact if_pos (by rw [hrec, hin, hst, hlog]; rfl)
  refine ⟨(startFlush_now a).trans hnow, ?_, hframe⟩
  rw [hflush]
  dsimp only
  rw [hrec]

/-- A write of the log is complete. -/
theorem logWriteComplete_grows {s : State} (hlog : s.dev.recd.state = .logging) (hrise : SlotsRise s.dev.recd.log)
    (hroom : s.dev.recd.log.length + s.dev.recd.inflight.length ≤ s.dev.recd.summary.slots) : Completes .logWriteComplete s fun d =>
      d.recd.log.length = s.dev.recd.log.length + s.dev.recd.inflight.length ∧ (∀ x ∈ s.dev.recd.log, x ∈ d.recd.log) ∧
        (∀ e ∈ s.dev.recd.inflight, ∃ k, (k, e) ∈ d.recd.log) ∧
        (s.dev.recd.inflight ≠ [] → cfg d 0x2A06 0x10 = min 0xFFFFFFFF (cfg s.dev 0x2A06 0x10 + s.dev.recd.inflight.length)) ∧
        Framed [.recd, .regs] s.found d := by
  have hrun : exec .logWriteComplete s = s.does fun d => flushIfDue (refillStaging (logWrite d.recd.inflight { d with
      recd := { d.recd with inflight := [], writeDeadline := none } })) := by
    show execLogWriteComplete s = _
    unfold execLogWriteComplete
    refine does_congr ?_
    have hlog : s.found.recd.state = .logging := hlog
    rw [hlog]
  refine completes_of_exec hrun ?_
  generalize hb : ({ s.found with recd := { s.found.recd with inflight := [], writeDeadline := none } } : Dev) = b
  have hbf : Framed [.recd, .regs] s.found b := by
    rw [← hb]
    exact fun p => by cases p <;> first | exact .inr rfl | exact .inl (by decide)
  have hgrow := logWrite_grows (d := b) (es := s.dev.recd.inflight) (by rw [← hb]; exact hrise) (by rw [← hb]; exact hroom)
  have hwf : Framed [.recd, .regs] s.found (logWrite s.dev.recd.inflight b) := logWrite_framed _ b (by decide) hbf
  obtain ⟨h1, h2, h3, -, -, h6⟩ := hgrow
  have hbl : b.recd.log = s.dev.recd.log := by rw [← hb]; rfl
  have hbc : cfg b 0x2A06 0x10 = cfg s.dev 0x2A06 0x10 := by rw [← hb]; rfl
  rw [show s.found.recd.inflight = s.dev.recd.inflight from rfl]
  generalize logWrite s.dev.recd.inflight b = w at *
  obtain ⟨hl, hf⟩ := refill_leaves w
  generalize flushIfDue (refillStaging w) = r at *
  rw [hl, h1, hbl]
  refine ⟨rfl, fun x hx => h2 x (by rw [hbl]; exact hx), h3, fun hne => ?_, hwf.trans (hf.mono (by decide))⟩
  have hod : r.dict.od = w.dict.od := hf.same .regs (by decide)
  rw [cfg_of_od hod, h6 hne, hbc]

end log

/-! ### Write-back (R378, R380) -/

section writeBack

variable {a b d : Dev} {x y : RecS}

/-- Write-back goes on, or has ended with nothing left. -/
def BackInLog (x : RecS) : Prop := x.state = .writeBack ∨ x.state = .logging ∧ x.ring = [] ∧ x.holding = []

/-- What the judgement of the write-back leaves. -/
structure WroteBack (x y : RecS) : Prop where
  back : BackInLog y
  stays : x.ring ≠ [] ∨ x.holding ≠ [] → y.state = .writeBack
  log : y.log = x.log
  valid : y.summary.valid = x.summary.valid
  slots : y.summary.slots = x.summary.slots
  fmt : y.summary.fmt = x.summary.fmt
  freezeEnd : y.freezeEnd = x.freezeEnd
  retryAt : y.retryAt = x.retryAt
  mediumFailed : y.mediumFailed = x.mediumFailed
  early : y.early = x.early

theorem holdingOverflow_recStands (h : d.recd.state ≠ .off ∧ d.recd.state ≠ .scanning) : RecStands d.recd (holdingOverflow d).recd := by
  unfold holdingOverflow
  refine .ite (.refl _) (RecStands.trans ?_ (raiseP_recStands _ _ _ ?_))
  · exact ⟨rfl, rfl, rfl, rfl, rfl, rfl, rfl, rfl, rfl, rfl, rfl, id, id, fun _ => ⟨rfl, rfl⟩, fun _ => rfl⟩
  · exact h

theorem holdingOverflow_regs (d : Dev) : RegsFramed eventCounters d (holdingOverflow d) := by
  unfold holdingOverflow
  dsimp only
  split
  · exact .refl _ d
  · exact (raiseP_regs _ _ _ _).after rfl

theorem summaryDrops_recStands (d : Dev) : RecStands d.recd (summaryDrops d).recd :=
  ⟨rfl, rfl, rfl, rfl, rfl, rfl, rfl, rfl, rfl, rfl, rfl, id, id, fun _ => ⟨rfl, rfl⟩, fun _ => rfl⟩

/-- An event below the severity that is recorded is only counted. -/
theorem raiseP_filtered {ev : Ev} (h : ev.sev < cfg d 0x2A01 2) (inst : Nat) (payload : List Byte) :
    raiseP ev inst payload d = bump 0x2A06 0x0B d := by
  unfold raiseP recordEntry
  exact if_pos h

/-- The judgement of the write-back; after a failed medium an entry in the ring tells of its return, unless its event is not recorded. -/
theorem checkWriteBack_wrote (hs : d.recd.state = .writeBack)
    (hr : d.recd.afterRing = true → d.recd.ring ≠ [] ∨ 3 < cfg d 0x2A01 2) : WroteBack d.recd (checkWriteBack d).recd := by
  have h0 := summaryDrops_recStands d
  have hcfg0 : cfg (summaryDrops d) 0x2A01 2 = cfg d 0x2A01 2 := rfl
  unfold checkWriteBack
  dsimp only
  generalize summaryDrops d = e at *
  have h1 : RecStands d.recd (if e.recd.holding.isEmpty then holdingOverflow e else e).recd :=
    .ite (h0.trans (holdingOverflow_recStands (by rw [h0.state, hs]; decide))) h0
  have hcfg1 : cfg (if e.recd.holding.isEmpty then holdingOverflow e else e) 0x2A01 2 = cfg d 0x2A01 2 := by
    split
    · rw [(holdingOverflow_regs e).cfg _ _ (by decide), hcfg0]
    · exact hcfg0
  generalize (if e.recd.holding.isEmpty then holdingOverflow e else e) = f at *
  have hstay : ∀ w, WroteBack d.recd { f.recd with writeDeadline := w } := fun w =>
    ⟨.inl (h1.state.trans hs), fun _ => h1.state.trans hs, h1.log, h1.valid, h1.slots, h1.fmt, h1.freezeEnd, h1.retryAt, h1.mediumFailed, h1.early⟩
  split
  · next hempty =>
    simp only [Bool.and_eq_true, List.isEmpty_iff] at hempty
    obtain ⟨hh, hring⟩ := hempty
    have hfin : (finishWriteBack f).recd = { f.recd with state := .logging, writeDeadline := none, afterRing := false } := by
      unfold finishWriteBack
      dsimp only
      split
      · next ha =>
        have h3 : 3 < cfg d 0x2A01 2 := (hr (h1.afterRing ▸ ha)).resolve_left fun hne => h1.ring hne hring
        rw [show ∀ d, raise evWriteBack noInst d = raiseP evWriteBack noInst [] d from fun _ => rfl, raiseP_filtered, bump_recd, bump_recd]
        rw [cfg_bump_ne _ _ _ _ _ (by decide)]
        show 3 < cfg f 0x2A01 2
        rw [hcfg1]
        exact h3
      · rfl
    rw [hfin]
    exact ⟨.inr ⟨rfl, hring, hh⟩, fun hne => absurd hne (by
      rintro (h | h)
      · exact h1.ring h hring
      · exact h1.holding h hh), h1.log, h1.valid, h1.slots, h1.fmt, h1.freezeEnd, h1.retryAt, h1.mediumFailed, h1.early⟩
  · exact hstay _

theorem finishWriteBack_regs (d : Dev) : RegsFramed ((0x2A06, 0x0D) :: eventCounters) d (finishWriteBack d) := by
  unfold finishWriteBack
  dsimp only
  split
  · exact ((RegsFramed.of_same rfl).bump _ _ (by decide)).trans ((raise_regs _ _ _).mono fun _ => List.mem_cons_of_mem _)
  · exact .of_same rfl

theorem checkWriteBack_regs (d : Dev) : RegsFramed ((0x2A06, 0x0D) :: eventCounters) d (checkWriteBack d) := by
  unfold checkWriteBack
  dsimp only
  have h0 : RegsFramed ((0x2A06, 0x0D) :: eventCounters) d (summaryDrops d) := .of_same rfl
  generalize summaryDrops d = e at *
  have h1 : RegsFramed ((0x2A06, 0x0D) :: eventCounters) d (if e.recd.holding.isEmpty then holdingOverflow e else e) := by
    split
    · exact h0.trans ((holdingOverflow_regs e).mono fun _ => List.mem_cons_of_mem _)
    · exact h0
  generalize (if e.recd.holding.isEmpty then holdingOverflow e else e) = f at *
  split
  · exact h1.trans (finishWriteBack_regs f)
  · exact h1.trans (.of_same rfl)

end writeBack

/-! ### Entries placed while the log is written, and in the ring -/

section placed

variable {d : Dev}

/-- Entries that wait for the log. -/
def waiting (x : RecS) : Nat := x.staging.length + x.inflight.length

theorem stageEntry_waits (e : Entry) (h : waiting d.recd < stagingCap) :
    (stageEntry e d).recd.ring = d.recd.ring ∧ waiting (stageEntry e d).recd = waiting d.recd + 1 := by
  have hflush : ∀ d : Dev, (startFlush d).recd.ring = d.recd.ring ∧ waiting (startFlush d).recd = waiting d.recd := fun d => by
    unfold startFlush
    split
    · next hc =>
      simp only [Bool.and_eq_true, List.isEmpty_iff] at hc
      obtain ⟨⟨hi, -⟩, -⟩ := hc
      refine ⟨rfl, ?_⟩
      simp only [waiting, hi, List.length_map, List.length_nil]
      omega
    · exact ⟨rfl, rfl⟩
  have hone : waiting ({ d.recd with staging := d.recd.staging ++ [(e, d.now)] } : RecS) = waiting d.recd + 1 := by
    simp only [waiting, List.length_append, List.length_singleton]
    omega
  unfold stageEntry
  rw [if_pos (show d.recd.staging.length + d.recd.inflight.length < stagingCap from h)]
  dsimp only
  split
  · obtain ⟨h1, h2⟩ := hflush { d with recd := { d.recd with staging := d.recd.staging ++ [(e, d.now)] } }
    exact ⟨h1, h2.trans hone⟩
  · exact ⟨rfl, hone⟩

theorem tarnLimited_memories (e : Entry) (d : Dev) : (tarnLimited e d).recd.ring = d.recd.ring ∧
    (tarnLimited e d).recd.holding = d.recd.holding ∧ waiting (tarnLimited e d).recd = waiting d.recd := by
  have hdrop : ∀ d : Dev, (countDrop d).recd.ring = d.recd.ring ∧ (countDrop d).recd.holding = d.recd.holding ∧
      waiting (countDrop d).recd = waiting d.recd := fun d => by
    unfold countDrop
    dsimp only
    split <;> exact ⟨rfl, rfl, rfl⟩
  have hcopy : ∀ e d, (tarnCopy e d).recd.ring = d.recd.ring ∧ (tarnCopy e d).recd.holding = d.recd.holding ∧
      waiting (tarnCopy e d).recd = waiting d.recd := fun e d => by
    unfold tarnCopy
    split
    · exact ⟨rfl, rfl, rfl⟩
    · exact hdrop (bump 0x2A06 0x11 d)
  unfold tarnLimited
  dsimp only
  split_ifs
  · exact ⟨rfl, rfl, rfl⟩
  · exact hcopy e d
  · exact hcopy e { d with recd := { d.recd with tarnCopies := _ } }
  · rw [bump_recd]
    exact ⟨rfl, rfl, rfl⟩

/-- What is done with a copy leaves the memories alone. -/
def CopyLeaves (copy : Entry → Dev → Dev) : Prop := ∀ e d, (copy e d).recd.ring = d.recd.ring ∧
  (copy e d).recd.holding = d.recd.holding ∧ waiting (copy e d).recd = waiting d.recd

theorem placeWith_logging {copy : Entry → Dev → Dev} (hcopy : CopyLeaves copy) (e : Entry) (hs : d.recd.state = .logging)
    (h : waiting d.recd < stagingCap) :
    (placeWith copy e d).recd.ring = d.recd.ring ∧ waiting (placeWith copy e d).recd = waiting d.recd + 1 := by
  unfold placeWith
  dsimp only
  generalize hb : countEv 0x040 0 e.sev 1 _ = b
  have hbs : b.recd.state = .logging := by rw [← hb]; exact hs
  have hbr : b.recd.ring = d.recd.ring := by rw [← hb]; rfl
  have hbw : waiting b.recd = waiting d.recd := by rw [← hb]; rfl
  rw [hbs]
  dsimp only
  obtain ⟨h1, h2⟩ := stageEntry_waits { e with seq := seqNext d.recd.lastSeq, fmt := b.recd.summary.fmt } (hbw ▸ h)
  obtain ⟨h3, -, h4⟩ := hcopy { e with seq := seqNext d.recd.lastSeq, fmt := b.recd.summary.fmt }
    (stageEntry { e with seq := seqNext d.recd.lastSeq, fmt := b.recd.summary.fmt } b)
  rw [h1, hbr] at h3
  rw [h2, hbw] at h4
  split
  · rw [setInt_recd]
    exact ⟨h3, h4⟩
  · exact ⟨h3, h4⟩

/-- While the log is written and staging has room, an entry does not go to the ring. -/
theorem placeEntry_logging (e : Entry) (hs : d.recd.state = .logging) (h : waiting d.recd + 1 < stagingCap) :
    (placeEntry e d).recd.ring = d.recd.ring := by
  obtain ⟨h1, h2⟩ := placeWith_logging tarnLimited_memories e hs (by omega)
  have hst := (placeWith_recStands tarnLimited_recStands e d).state
  unfold placeEntry
  dsimp only
  generalize placeWith tarnLimited e d = p at *
  split
  · obtain ⟨h3, -⟩ := placeWith_logging (copy := fun _ d => d) (fun _ _ => ⟨rfl, rfl, rfl⟩) (newEntry evTarnFailed 0xFF [] p)
      (d := { p with recd := { p.recd with tarnMissed := false } }) (hst.trans hs) (by show waiting p.recd < _; omega)
    exact h3.trans h1
  · exact h1

theorem ringAccept_ring (e : Entry) (d : Dev) : (ringAccept e d).recd.ring = (slotAccept ringCap e d.recd.ring).getD d.recd.ring := by
  unfold ringAccept
  split
  · next h => rw [h]; rfl
  · next h =>
    rw [h]
    show (countDrop (bump 0x2A06 0x0A d)).recd.ring = _
    unfold countDrop
    dsimp only
    split <;> rfl

theorem holdingAccept_holding (e : Entry) (d : Dev) :
    (holdingAccept e d).recd.holding = (slotAccept holdingCap e d.recd.holding).getD d.recd.holding := by
  unfold holdingAccept
  split
  · next h => rw [h]; rfl
  · next h => rw [h, bump_recd]; rfl

/-- An entry as the ring takes it. -/
structure RingEntry (e e' : Entry) : Prop where
  sev : e'.sev = e.sev
  src : e'.src = e.src
  inst : e'.inst = e.inst
  viaRing : e'.viaRing = true

theorem placeWith_ring {copy : Entry → Dev → Dev} (hcopy : CopyLeaves copy) (e : Entry) (hs : d.recd.state = .ring) :
    ∃ e', RingEntry e e' ∧ (placeWith copy e d).recd.ring = (slotAccept ringCap e' d.recd.ring).getD d.recd.ring := by
  unfold placeWith
  dsimp only
  generalize hb : countEv 0x040 0 e.sev 1 _ = b
  have hbs : b.recd.state = .ring := by rw [← hb]; exact hs
  have hbr : b.recd.ring = d.recd.ring := by rw [← hb]; rfl
  rw [hbs]
  dsimp only
  refine ⟨{ e with seq := seqNext d.recd.lastSeq, fmt := b.recd.summary.fmt, viaRing := true }, ⟨rfl, rfl, rfl, rfl⟩, ?_⟩
  obtain ⟨h1, -, -⟩ := hcopy { e with seq := seqNext d.recd.lastSeq, fmt := b.recd.summary.fmt, viaRing := true }
    (ringAccept { e with seq := seqNext d.recd.lastSeq, fmt := b.recd.summary.fmt, viaRing := true } b)
  rw [ringAccept_ring, hbr] at h1
  split
  · rw [setInt_recd]
    exact h1
  · exact h1

theorem placeWith_frozen {copy : Entry → Dev → Dev} (hcopy : CopyLeaves copy) (e : Entry) (hs : d.recd.state = .frozen) :
    ∃ e', (placeWith copy e d).recd.holding = (slotAccept holdingCap e' d.recd.holding).getD d.recd.holding := by
  unfold placeWith
  dsimp only
  generalize hb : countEv 0x040 0 e.sev 1 _ = b
  have hbs : b.recd.state = .frozen := by rw [← hb]; exact hs
  have hbr : b.recd.holding = d.recd.holding := by rw [← hb]; rfl
  rw [hbs]
  dsimp only
  refine ⟨{ e with seq := seqNext d.recd.lastSeq, fmt := b.recd.summary.fmt, viaHolding := true }, ?_⟩
  obtain ⟨-, h1, -⟩ := hcopy { e with seq := seqNext d.recd.lastSeq, fmt := b.recd.summary.fmt, viaHolding := true }
    (holdingAccept { e with seq := seqNext d.recd.lastSeq, fmt := b.recd.summary.fmt, viaHolding := true } b)
  rw [holdingAccept_holding, hbr] at h1
  split
  · rw [setInt_recd]
    exact h1
  · exact h1

/-- A memory that has taken some entries more. -/
structure Grows (n : Nat) (x y : List (Nat × Entry)) : Prop where
  rise : SlotsRise x → SlotsRise y
  length : y.length ≤ x.length + n

theorem Grows.refl (x : List (Nat × Entry)) : Grows 0 x x := ⟨id, Nat.le_refl _⟩

theorem Grows.trans {n k : Nat} {x y z : List (Nat × Entry)} (h1 : Grows n x y) (h2 : Grows k y z) : Grows (n + k) x z :=
  ⟨h2.rise ∘ h1.rise, by have := h1.length; have := h2.length; omega⟩

theorem Grows.mono {n k : Nat} {x y : List (Nat × Entry)} (h : Grows n x y) (hk : n ≤ k) : Grows k x y :=
  ⟨h.rise, by have := h.length; omega⟩

theorem slotAccept_grows (cap : Nat) (e : Entry) (m : List (Nat × Entry)) : Grows 1 m ((slotAccept cap e m).getD m) := by
  cases h : slotAccept cap e m with
  | none => exact (Grows.refl m).mono (by decide)
  | some r =>
    obtain ⟨-, h2, h3⟩ := slotAccept_some h
    exact ⟨h3, h2⟩

theorem ringAccepts_grow (g : Entry → Entry) (l : List Entry) (d : Dev) :
    Grows l.length d.recd.ring (forEach l (fun e => ringAccept (g e)) d).recd.ring := by
  induction l generalizing d with
  | nil => exact .refl _
  | cons e l ih =>
    have h1 : Grows 1 d.recd.ring (ringAccept (g e) d).recd.ring := by
      rw [ringAccept_ring]
      exact slotAccept_grows _ _ _
    exact (h1.trans (ih (ringAccept (g e) d))).mono (by rw [List.length_cons]; omega)

theorem placeWith_grows {copy : Entry → Dev → Dev} (hcopy : CopyLeaves copy) (e : Entry) (hs : d.recd.state = .ring) :
    Grows 1 d.recd.ring (placeWith copy e d).recd.ring := by
  obtain ⟨e', -, h⟩ := placeWith_ring hcopy e hs
  rw [h]
  exact slotAccept_grows _ _ _

theorem placeEntry_grows (e : Entry) (hs : d.recd.state = .ring) : Grows 2 d.recd.ring (placeEntry e d).recd.ring := by
  have h1 := placeWith_grows tarnLimited_memories e hs
  have hst := (placeWith_recStands tarnLimited_recStands e d).state
  unfold placeEntry
  dsimp only
  generalize placeWith tarnLimited e d = p at *
  split
  · refine h1.trans (k := 1) ?_
    exact placeWith_grows (d := { p with recd := { p.recd with tarnMissed := false } }) (fun _ _ => ⟨rfl, rfl, rfl⟩) _ (hst.trans hs)
  · exact h1.mono (by decide)

theorem placeEntries_grow (l : List Entry) (hs : d.recd.state = .ring) :
    Grows (2 * l.length) d.recd.ring (forEach l placeEntry d).recd.ring := by
  induction l generalizing d with
  | nil => exact .refl _
  | cons e l ih =>
    exact ((placeEntry_grows e hs).trans (ih ((placeEntry_recStands e d).state.trans hs))).mono (by rw [List.length_cons]; omega)

/-- A severe entry joins a ring with room, and the entry of a failed copy does not displace it. -/
theorem placeEntry_joins (e : Entry) (hs : d.recd.state = .ring) (hsev : 6 < e.sev) (hr : SlotsRise d.recd.ring) (hl : d.recd.ring.length < ringCap) :
    ∃ k e', (k, e') ∈ (placeEntry e d).recd.ring ∧ RingEntry e e' := by
  obtain ⟨e', he, h1⟩ := placeWith_ring tarnLimited_memories e hs
  have hst := (placeWith_recStands tarnLimited_recStands e d).state
  obtain ⟨k, r, hk, hmem, -, -, hrise⟩ := slotAccept_room hr hl e'
  rw [hk] at h1
  refine ⟨k, e', ?_, he⟩
  unfold placeEntry
  dsimp only
  generalize placeWith tarnLimited e d = p at *
  change p.recd.ring = r at h1
  split
  · obtain ⟨f, hf, h2⟩ := placeWith_ring (copy := fun _ d => d) (fun _ _ => ⟨rfl, rfl, rfl⟩) (newEntry evTarnFailed 0xFF [] p)
      (d := { p with recd := { p.recd with tarnMissed := false } }) (hst.trans hs)
    rw [h2]
    show (k, e') ∈ (slotAccept ringCap f p.recd.ring).getD p.recd.ring
    rw [h1]
    cases h3 : slotAccept ringCap f r with
    | none => exact hmem
    | some q =>
      have hfs : f.sev = 6 := hf.sev
      exact slotAccept_keeps hrise hmem (by rw [hfs, he.sev]; exact hsev) h3
  · rw [h1]
    exact hmem

/-- The ring is not empty after an entry. -/
theorem placeEntry_ring_ne (e : Entry) (hs : d.recd.state = .ring) : (placeEntry e d).recd.ring ≠ [] := by
  obtain ⟨e', -, h1⟩ := placeWith_ring tarnLimited_memories e hs
  have hne : (placeWith tarnLimited e d).recd.ring ≠ [] := by
    rw [h1]
    cases h : slotAccept ringCap e' d.recd.ring with
    | some r => exact (slotAccept_some h).1
    | none =>
      intro hnil
      have hnil : d.recd.ring = [] := hnil
      rw [hnil] at h
      exact absurd h (by simp [slotAccept, ringCap])
  unfold placeEntry
  dsimp only
  generalize placeWith tarnLimited e d = p at *
  split
  · exact (placeWith_recStands (d := { p with recd := { p.recd with tarnMissed := false } }) (fun _ d => .refl d.recd) _).ring hne
  · exact hne

end placed

/-! ### Write-back ends (R380) -/

section ends

variable {s : State}

/-- With the last entries written, write-back is over. -/
theorem logWriteComplete_ends (hs : s.dev.recd.state = .writeBack)
    (hstaged : s.dev.recd.inflight ++ s.dev.recd.staging.map (·.1) = []) (hh : s.dev.recd.holding = []) (hlen : s.dev.recd.ring.length ≤ 64)
    (hdrops : ∀ k : Fin 8, s.dev.recd.holdingDrops[k] = 0) : Completes .logWriteComplete s fun d => d.recd.state = .logging ∧
      d.recd.ring = [] ∧ d.recd.afterRing = false ∧
      (s.dev.recd.afterRing = true → cfg d 0x2A06 0x0D = min 0xFFFFFFFF (cfg s.dev 0x2A06 0x0D + 1)) := by
  have hrun : exec .logWriteComplete s = s.does fun d =>
      checkWriteBack (logWrite (writeBackChunk d.recd) { d with recd := dropWritten (writeBackChunk d.recd) d.recd }) := by
    show execLogWriteComplete s = _
    unfold execLogWriteComplete
    refine does_congr ?_
    have hs : s.found.recd.state = .writeBack := hs
    rw [hs]
  refine completes_of_exec hrun ?_
  obtain ⟨hin, hst⟩ := List.append_eq_nil_iff.1 hstaged
  have hst : s.dev.recd.staging = [] := List.map_eq_nil_iff.1 hst
  have hall : ∀ x ∈ s.dev.recd.ring, x.2 ∈ writeBackChunk s.dev.recd := fun x hx => by
    have hsort : x.2 ∈ seqSort (s.dev.recd.ring.map (·.2)) := mem_seqSort (List.mem_map_of_mem hx)
    unfold writeBackChunk
    rw [hh, List.take_of_length_le (by
      rw [List.length_append, length_seqSort, length_seqSort, List.length_map, List.length_map]
      simpa using hlen)]
    exact List.mem_append_right _ hsort
  have hempty : (dropWritten (writeBackChunk s.dev.recd) s.dev.recd).ring = [] := by
    unfold dropWritten
    refine List.filter_eq_nil_iff.2 fun x hx => ?_
    simp only [Bool.not_eq_true', Bool.not_eq_false]
    exact List.any_eq_true.2 ⟨x.2, hall x hx, by simp⟩
  have hsum : s.dev.recd.holdingDrops.toList.sum = 0 := by
    have hz : ∀ x ∈ s.dev.recd.holdingDrops.toList, x = 0 := fun x hx => by
      obtain ⟨i, hi, rfl⟩ := List.getElem_of_mem hx
      rw [Vector.getElem_toList]
      exact hdrops ⟨i, by simpa using hi⟩
    exact List.sum_eq_zero hz
  show (checkWriteBack (logWrite (writeBackChunk s.dev.recd) _)).recd.state = _ ∧ _
  generalize hb : ({ s.found with recd := dropWritten (writeBackChunk s.found.recd) s.found.recd } : Dev) = b
  obtain ⟨w1, w2, w3, w4, w5, w6, w7⟩ := logWrite_leaves (writeBackChunk s.dev.recd) b
  rw [show writeBackChunk s.found.recd = writeBackChunk s.dev.recd from rfl]
  have wring : (logWrite (writeBackChunk s.dev.recd) b).recd.ring = [] := by rw [w1, ← hb]; exact hempty
  have whold : (logWrite (writeBackChunk s.dev.recd) b).recd.holding = [] := by
    rw [w2, ← hb]
    show List.filter _ s.dev.recd.holding = []
    rw [hh]
    rfl
  have wdrops : (logWrite (writeBackChunk s.dev.recd) b).recd.holdingDrops = s.dev.recd.holdingDrops := by rw [w5, ← hb]; rfl
  have wwait : waiting (logWrite (writeBackChunk s.dev.recd) b).recd = 0 := by
    unfold waiting
    rw [w3, w4, ← hb]
    show s.dev.recd.staging.length + s.dev.recd.inflight.length = 0
    rw [hst, hin]
    rfl
  have wafter : (logWrite (writeBackChunk s.dev.recd) b).recd.afterRing = s.dev.recd.afterRing := by rw [w6, ← hb]; rfl
  have wcount : cfg (logWrite (writeBackChunk s.dev.recd) b) 0x2A06 0x0D = cfg s.dev 0x2A06 0x0D := by
    rw [w7.cfg _ _ (by decide), ← hb]
    rfl
  generalize logWrite (writeBackChunk s.dev.recd) b = w at *
  have hover : holdingOverflow (summaryDrops w) = summaryDrops w := by
    unfold holdingOverflow
    exact if_pos ((congrArg (fun v : Vector Nat 8 => v.toList.sum) wdrops).trans hsum)
  have hcheck : checkWriteBack w = finishWriteBack (summaryDrops w) := by
    unfold checkWriteBack
    dsimp only
    rw [hover, ite_self]
    exact if_pos (by
      show (w.recd.holding.isEmpty && w.recd.ring.isEmpty) = true
      rw [whold, wring]
      rfl)
  rw [hcheck]
  generalize hd1 : ({ summaryDrops w with recd := { (summaryDrops w).recd with
    state := .logging, writeDeadline := none, afterRing := false } } : Dev) = d1
  have hstate : d1.recd.state = .logging := by rw [← hd1]
  have hring : d1.recd.ring = [] := by rw [← hd1]; exact wring
  have hwait : waiting d1.recd = 0 := by rw [← hd1]; exact wwait
  have hafter : d1.recd.afterRing = false := by rw [← hd1]
  have hcount : cfg d1 0x2A06 0x0D = cfg s.dev 0x2A06 0x0D := by rw [← wcount, ← hd1]; rfl
  have hfin : finishWriteBack (summaryDrops w) = if s.dev.recd.afterRing then raise evWriteBack noInst (bump 0x2A06 0x0D d1) else d1 := by
    rw [← wafter, ← hd1]
    rfl
  rw [hfin]
  have hplaced : (raise evWriteBack noInst (bump 0x2A06 0x0D d1)).recd.ring = [] := by
    unfold raise raiseP recordEntry
    have hs' : (bump 0x2A06 0x0D d1).recd.state = .logging := hstate
    split
    · rw [bump_recd, bump_recd, hring]
    · rw [hs']
      exact (placeEntry_logging _ hs' (by show waiting d1.recd + 1 < _; rw [hwait]; decide)).trans hring
  have hstands := raiseP_recStands (d := bump 0x2A06 0x0D d1) evWriteBack noInst [] (by rw [bump_recd, hstate]; decide)
  cases s.dev.recd.afterRing with
  | true =>
    refine ⟨hstands.state.trans hstate, hplaced, hstands.afterRing.trans hafter, fun _ => ?_⟩
    rw [if_pos rfl, (raise_regs evWriteBack noInst _).cfg _ _ (by decide), cfg_bump_self _ _ _ rfl, hcount]
  | false => exact ⟨hstate, hring, hafter, fun h => absurd h (by decide)⟩

/-- A freeze that ends leads to Write-back, or with nothing held and nothing in the ring to Logging. -/
theorem unfreezeLog_ends {b : Dev} (hs : b.recd.state = .frozen) : (unfreezeLog b).recd.freezeEnd = none ∧ BackInLog (unfreezeLog b).recd ∧
    (b.recd.holding ≠ [] → (unfreezeLog b).recd.state = .writeBack) ∧ (unfreezeLog b).now = b.now ∧
    RegsFramed ((0x2A06, 0x0D) :: eventCounters) b (unfreezeLog b) := by
  unfold unfreezeLog
  rw [if_pos hs]
  dsimp only
  generalize he : ({ b with recd := { b.recd with freezeEnd := none, state := .writeBack, afterRing := false } } : Dev) = e
  have hes : e.recd.state = .writeBack := by rw [← he]
  have hee : e.recd.freezeEnd = none := by rw [← he]
  have hea : e.recd.afterRing = false := by rw [← he]
  have heh : e.recd.holding = b.recd.holding := by rw [← he]
  have hed : e.dict.od = b.dict.od := by rw [← he]
  have hen : e.now = b.now := by rw [← he]
  have hrb := raiseP_recStands (d := e) evUnfrozen noInst [] (by rw [hes]; decide)
  have hregs := raise_regs evUnfrozen noInst e
  have hrnow : (raise evUnfrozen noInst e).now = e.now := raise_now _ _ _
  change RecStands e.recd (raise evUnfrozen noInst e).recd at hrb
  generalize raise evUnfrozen noInst e = f at *
  have hw := checkWriteBack_wrote (d := f) (hrb.state.trans hes) (fun h => absurd (h.symm.trans (hrb.afterRing.trans hea)) (by decide))
  have hcn : (checkWriteBack f).now = f.now :=
    congrArg Prod.fst ((checkWriteBack_framed (L := eventParts) f (by decide) (.refl _ f)).same .clock (by decide))
  exact ⟨hw.freezeEnd.trans (hrb.freezeEnd.trans hee), hw.back, fun hne => hw.stays (.inr (hrb.holding (heh ▸ hne))),
    hcn.trans (hrnow.trans hen), (RegsFramed.of_same hed).trans ((hregs.mono fun _ => List.mem_cons_of_mem _).trans (checkWriteBack_regs f))⟩

/-- A freeze that reaches its limit ends in Write-back while entries are held. -/
theorem freezeLimit_ends {t : Nat} (ht : s.dev.recd.freezeEnd = some t) (hs : s.dev.recd.state = .frozen) (hh : s.dev.recd.holding ≠ []) :
    Completes .freezeLimit s fun d => cfg d 0x2A06 0x0F = min 0xFFFFFFFF (cfg s.dev 0x2A06 0x0F + 1) ∧ d.recd.freezeEnd = none ∧
      d.recd.state = .writeBack ∧ d.now = max s.dev.now t := by
  have hrun : exec .freezeLimit s = s.does fun d => unfreezeLog (raise evFreezeLimit noInst (bump 0x2A06 0x0F (arrive t d))) := by
    show execFreezeLimit s = _
    unfold execFreezeLimit
    refine does_congr ?_
    have ht : s.found.recd.freezeEnd = some t := ht
    rw [ht]
  refine completes_of_exec hrun ?_
  have ha : (bump 0x2A06 0x0F (arrive t s.found)).recd = s.dev.recd := by rw [bump_recd, arrive_recd]; rfl
  have hnow : (bump 0x2A06 0x0F (arrive t s.found)).now = max s.dev.now t := (bump_now _ _ _).trans (arrive_now t s.found)
  have hcount : cfg (bump 0x2A06 0x0F (arrive t s.found)) 0x2A06 0x0F = min 0xFFFFFFFF (cfg s.dev 0x2A06 0x0F + 1) := by
    rw [cfg_bump_self _ _ _ rfl, cfg_of_dict (arrive_dict t s.found)]
    rfl
  generalize bump 0x2A06 0x0F (arrive t s.found) = a at *
  have hra := raiseP_recStands (d := a) evFreezeLimit noInst [] (by rw [ha, hs]; decide)
  have hregs := raise_regs evFreezeLimit noInst a
  have hrnow : (raise evFreezeLimit noInst a).now = a.now := raise_now _ _ _
  change RecStands a.recd (raise evFreezeLimit noInst a).recd at hra
  generalize raise evFreezeLimit noInst a = b at *
  rw [ha] at hra
  obtain ⟨h1, -, h2, h3, h4⟩ := unfreezeLog_ends (hra.state.trans hs)
  refine ⟨?_, h1, h2 (hra.holding hh), ?_⟩
  · rw [h4.cfg _ _ (by decide), hregs.cfg _ _ (by decide), hcount]
  · rw [h3, hrnow, hnow]

end ends

/-! ### The medium fails (R379) -/

section fails

variable {d : Dev}

/-- The device on which the medium has just been lost: Ring, with nothing staged or held. -/
def mediumLost (cause : MediumCause) (d : Dev) : Dev :=
  { d with recd := { d.recd with
    mediumFailed := true, ddrFailed := d.recd.ddrFailed || cause = .ddr, inflight := [], staging := [], writeDeadline := none
    state := .ring, freezeEnd := none, holding := [], afterRing := false
    ring := d.recd.ring.map (fun x => (x.1, { x.2 with viaRing := true }))
    retryAt := some (d.now + cfg d 0x2A01 6 * sNs)
    summary := { d.recd.summary with failures := d.recd.summary.failures + 1 } } }

/-- What was staged and held when the medium was lost. -/
def lostEntries (d : Dev) : List Entry := seqSort (d.recd.inflight ++ d.recd.staging.map (·.1) ++ d.recd.holding.map (·.2))

/-- The device before the alarm. -/
def beforeAlarm (cause : MediumCause) (d : Dev) : Dev :=
  bump 0x2A06 0x0C (numberEarly (forEach (lostEntries d) (fun e => ringAccept { e with viaRing := true }) (mediumLost cause d)))

theorem mediumFails_runs (cause : MediumCause) (h1 : d.recd.state ≠ .off) (h2 : d.recd.state ≠ .ring) (h3 : d.recd.state ≠ .closed) :
    mediumFails cause d = raise evMediumFailed (MediumCause.code cause) (beforeAlarm cause d) := by
  have hstate : ({ d.recd with mediumFailed := true, ddrFailed := d.recd.ddrFailed || cause = .ddr } : RecS).state = d.recd.state := rfl
  unfold mediumFails
  dsimp only
  cases hs : d.recd.state with
  | off => exact absurd hs h1
  | ring => exact absurd hs h2
  | closed => exact absurd hs h3
  | _ => rfl

theorem mediumFails_idle (cause : MediumCause) (h : d.recd.state = .off ∨ d.recd.state = .ring ∨ d.recd.state = .closed) :
    mediumFails cause d = { d with recd := { d.recd with mediumFailed := true, ddrFailed := d.recd.ddrFailed || cause = .ddr } } := by
  unfold mediumFails
  dsimp only
  rcases h with h | h | h <;> rw [h]

theorem numberEarly_recStands (h : d.recd.early = []) : RecStands d.recd (numberEarly d).recd := by
  unfold numberEarly
  rw [h]
  exact ⟨rfl, rfl, rfl, rfl, rfl, rfl, rfl, rfl, rfl, rfl, h.symm, id, id, fun _ => ⟨rfl, rfl⟩, fun _ => rfl⟩

/-- Numbering the entries that waited empties their list and leaves the rest as placing entries does. -/
theorem numberEarly_stands (d : Dev) : RecStands { d.recd with early := [] } (numberEarly d).recd :=
  RecStands.forEach placeEntry_recStands d.recd.early { d with recd := { d.recd with early := [] } }

theorem placeEntries_regs (l : List Entry) (d : Dev) : RegsFramed eventCounters d (forEach l placeEntry d) :=
  forEach_regs (fun e d => (placeEntry_recordsOnly e d).1) l d

theorem numberEarly_regs (d : Dev) : RegsFramed eventCounters d (numberEarly d) := (placeEntries_regs _ _).after rfl

theorem ringAccepts_regs (g : Entry → Entry) (l : List Entry) (d : Dev) : RegsFramed eventCounters d (forEach l (fun e => ringAccept (g e)) d) :=
  forEach_regs (fun e d => (ringAccept_recordsOnly (g e) d).1) l d

theorem ringAccepts_recStands (g : Entry → Entry) (l : List Entry) (d : Dev) :
    RecStands d.recd (forEach l (fun e => ringAccept (g e)) d).recd := .forEach (fun e d => ringAccept_recStands (g e) d) l d

/-- The recorder before the alarm stands in Ring, with what was staged and held in the ring. -/
theorem beforeAlarm_stands (cause : MediumCause) (d : Dev) :
    RecStands { (mediumLost cause d).recd with early := [] } (beforeAlarm cause d).recd ∧
      cfg (beforeAlarm cause d) 0x2A06 0x0C = min 0xFFFFFFFF (cfg d 0x2A06 0x0C + 1) ∧
      cfg (beforeAlarm cause d) 0x2A01 2 = cfg d 0x2A01 2 ∧
      Grows ((lostEntries d).length + 2 * d.recd.early.length) (mediumLost cause d).recd.ring (beforeAlarm cause d).recd.ring := by
  have h1 := ringAccepts_recStands (fun e => { e with viaRing := true }) (lostEntries d) (mediumLost cause d)
  have g1 := ringAccepts_grow (fun e => { e with viaRing := true }) (lostEntries d) (mediumLost cause d)
  have r1 := (ringAccepts_regs (fun e => { e with viaRing := true }) (lostEntries d) (mediumLost cause d)).after (a := d) rfl
  unfold beforeAlarm
  generalize forEach (lostEntries d) (fun e => ringAccept { e with viaRing := true }) (mediumLost cause d) = e at *
  have h2 := numberEarly_stands e
  have r2 := numberEarly_regs e
  have g2 : Grows (2 * d.recd.early.length) e.recd.ring (numberEarly e).recd.ring := by
    have hg := placeEntries_grow (d := { e with recd := { e.recd with early := [] } }) e.recd.early h1.state
    exact hg.mono (Nat.le_of_eq (by rw [show e.recd.early = d.recd.early from h1.early]))
  generalize numberEarly e = f at *
  have hearly : RecStands { (mediumLost cause d).recd with early := [] } { e.recd with early := [] } :=
    ⟨h1.state, h1.log, h1.valid, h1.slots, h1.fmt, h1.freezeEnd, h1.retryAt, h1.mediumFailed, h1.ddrFailed, h1.afterRing, rfl, h1.ring,
      h1.holding, h1.buffers, h1.held⟩
  refine ⟨?_, ?_, ?_, ?_⟩
  · rw [bump_recd]
    exact hearly.trans h2
  · rw [cfg_bump_self _ _ _ rfl, r2.cfg _ _ (by decide), r1.cfg _ _ (by decide)]
  · rw [cfg_bump_ne _ _ _ _ _ (by decide), r2.cfg _ _ (by decide), r1.cfg _ _ (by decide)]
  · rw [bump_recd]
    exact g1.trans g2

/-- What a lost medium leaves. -/
structure MediumDown (cause : MediumCause) (d e : Dev) : Prop where
  stands : RecStands { (mediumLost cause d).recd with early := [] } e.recd
  counted : cfg e 0x2A06 0x0C = min 0xFFFFFFFF (cfg d 0x2A06 0x0C + 1)

theorem mediumFails_down (cause : MediumCause) (h1 : d.recd.state ≠ .off) (h2 : d.recd.state ≠ .ring) (h3 : d.recd.state ≠ .closed) :
    MediumDown cause d (mediumFails cause d) := by
  obtain ⟨hs, hc, -, -⟩ := beforeAlarm_stands cause d
  rw [mediumFails_runs cause h1 h2 h3]
  generalize beforeAlarm cause d = e at *
  have hstate : e.recd.state = .ring := hs.state
  refine ⟨hs.trans (raiseP_recStands _ _ [] (by rw [hstate]; decide)), ?_⟩
  rw [(raise_regs _ _ e).cfg _ _ (by decide), hc]

/-- The alarm of a lost medium joins the ring. -/
theorem mediumFails_alarm (cause : MediumCause) (h1 : d.recd.state ≠ .off) (h2 : d.recd.state ≠ .ring) (h3 : d.recd.state ≠ .closed)
    (hsev : cfg d 0x2A01 2 ≤ 7) (hr : SlotsRise d.recd.ring)
    (hlen : d.recd.ring.length + (d.recd.inflight ++ d.recd.staging.map (·.1)).length + d.recd.holding.length + 2 * d.recd.early.length < ringCap) :
    ∃ k e, (k, e) ∈ (mediumFails cause d).recd.ring ∧ e.sev = 7 ∧ e.src = 10 ∧ e.inst = MediumCause.code cause ∧ e.viaRing = true := by
  obtain ⟨hs, -, hc, hg⟩ := beforeAlarm_stands cause d
  have hlost : (lostEntries d).length = (d.recd.inflight ++ d.recd.staging.map (·.1)).length + d.recd.holding.length := by
    unfold lostEntries
    rw [length_seqSort, List.length_append, List.length_map]
  have hrise : SlotsRise (mediumLost cause d).recd.ring := by
    unfold SlotsRise mediumLost
    rw [List.map_map]
    exact hr
  have hring : (mediumLost cause d).recd.ring.length = d.recd.ring.length := List.length_map _
  rw [mediumFails_runs cause h1 h2 h3]
  generalize beforeAlarm cause d = e at *
  have hstate : e.recd.state = .ring := hs.state
  have hroom : e.recd.ring.length < ringCap := by
    have := hg.length
    omega
  have hraise : raise evMediumFailed (MediumCause.code cause) e = placeEntry (newEntry evMediumFailed (MediumCause.code cause) [] e) e := by
    unfold raise raiseP recordEntry
    rw [if_neg (by rw [hc]; exact Nat.not_lt.2 hsev), hstate]
  obtain ⟨k, x, hx, hsx, hsrc, hinst, hvia⟩ := placeEntry_joins (newEntry evMediumFailed (MediumCause.code cause) [] e) hstate
    (by decide : 6 < evMediumFailed.sev) (hg.rise hrise) hroom
  rw [hraise]
  refine ⟨k, x, hx, hsx, hsrc, hinst.trans ?_, hvia⟩
  cases cause <;> rfl

end fails

/-! ### The medium returns, and the scan (R380, R385) -/

section returns

variable {s : State} {d : Dev}

/-- Entering Write-back. -/
theorem enterWriteBack_wrote (b : Bool) (d : Dev) (hr : b = true → d.recd.ring ≠ [] ∨ 3 < cfg d 0x2A01 2) :
    WroteBack d.recd (enterWriteBack b d).recd := by
  have h := checkWriteBack_wrote (d := { d with recd := { d.recd with state := .writeBack, afterRing := b } }) rfl hr
  exact ⟨h.back, h.stays, h.log, h.valid, h.slots, h.fmt, h.freezeEnd, h.retryAt, h.mediumFailed, h.early⟩

theorem mediumRetry_exec {t : Nat} (hs : s.dev.recd.state = .ring) (ht : s.dev.recd.retryAt = some t) (ok : Bool) :
    exec (.mediumRetry ok) s = s.does fun d => if ok && !(arrive t d).recd.ddrFailed then
        enterWriteBack true (raise evMediumReturned noInst { arrive t d with recd := { (arrive t d).recd with mediumFailed := false, retryAt := none } })
      else { arrive t d with recd := { (arrive t d).recd with retryAt := some ((arrive t d).now + cfg (arrive t d) 0x2A01 6 * sNs) } } := by
  show execMediumRetry ok s = _
  unfold execMediumRetry
  refine does_congr ?_
  have hs : s.found.recd.state = .ring := hs
  have ht : s.found.recd.retryAt = some t := ht
  rw [hs, ht]

theorem mediumRetry_returns {t : Nat} (hs : s.dev.recd.state = .ring) (ht : s.dev.recd.retryAt = some t) {ok : Bool} (hok : ok = true)
    (hddr : s.dev.recd.ddrFailed = false) : Completes (.mediumRetry ok) s fun d => BackInLog d.recd ∧ d.recd.mediumFailed = false ∧
      d.recd.retryAt = none ∧ d.now = max s.dev.now t ∧ (s.dev.recd.ring ≠ [] → d.recd.state = .writeBack) := by
  refine completes_of_exec (mediumRetry_exec hs ht ok) ?_
  have hnow : (arrive t s.found).now = max s.dev.now t := arrive_now t s.found
  have hrec : (arrive t s.found).recd = s.dev.recd := arrive_recd t s.found
  generalize arrive t s.found = a at *
  rw [if_pos (by rw [hok, hrec, hddr]; rfl)]
  generalize hb : ({ a with recd := { a.recd with mediumFailed := false, retryAt := none } } : Dev) = b
  have has : a.recd.state = .ring := by rw [hrec, hs]
  have har : a.recd.ring = s.dev.recd.ring := by rw [hrec]
  have hbs : b.recd.state = .ring := by
    rw [← hb]
    exact has
  have hbr : b.recd.ring = s.dev.recd.ring := by
    rw [← hb]
    exact har
  have hbm : b.recd.mediumFailed = false := by rw [← hb]
  have hbt : b.recd.retryAt = none := by rw [← hb]
  have hbn : b.now = max s.dev.now t := by rw [← hb]; exact hnow
  have hst := raiseP_recStands (d := b) evMediumReturned noInst [] (by rw [hbs]; decide)
  have hcond : (raise evMediumReturned noInst b).recd.ring ≠ [] ∨ 3 < cfg (raise evMediumReturned noInst b) 0x2A01 2 := by
    rw [(raise_regs evMediumReturned noInst b).cfg _ _ (by decide)]
    by_cases hf : evMediumReturned.sev < cfg b 0x2A01 2
    · exact .inr (Nat.lt_of_lt_of_le (by decide) (Nat.le_of_lt hf))
    · refine .inl ?_
      unfold raise raiseP recordEntry
      rw [if_neg (show ¬ (newEntry evMediumReturned noInst [] b).sev < cfg b 0x2A01 2 from hf), hbs]
      exact placeEntry_ring_ne _ hbs
  have hrn : (raise evMediumReturned noInst b).now = b.now := raise_now _ _ _
  change RecStands b.recd (raise evMediumReturned noInst b).recd at hst
  generalize raise evMediumReturned noInst b = r at *
  have hw := enterWriteBack_wrote true r fun _ => hcond
  have hn : (enterWriteBack true r).now = r.now :=
    congrArg Prod.fst ((enterWriteBack_framed (L := eventParts) true r (by decide) (.refl _ r)).same .clock (by decide))
  exact ⟨hw.back, hw.mediumFailed.trans (hst.mediumFailed.trans hbm), hw.retryAt.trans (hst.retryAt.trans hbt), hn.trans (hrn.trans hbn),
    fun hne => hw.stays (.inl (hst.ring (hbr ▸ hne)))⟩

theorem mediumRetry_waits {t : Nat} (hs : s.dev.recd.state = .ring) (ht : s.dev.recd.retryAt = some t) {ok : Bool}
    (hok : ok = false ∨ s.dev.recd.ddrFailed = true) : Completes (.mediumRetry ok) s fun d => d.now = max s.dev.now t ∧
      d.recd = { s.dev.recd with retryAt := some (d.now + cfg s.dev 0x2A01 6 * sNs) } ∧ Framed [.clock, .recd, .counters] s.found d := by
  refine completes_of_exec (mediumRetry_exec hs ht ok) ?_
  have hnow : (arrive t s.found).now = max s.dev.now t := arrive_now t s.found
  have hrec : (arrive t s.found).recd = s.dev.recd := arrive_recd t s.found
  have hdict : (arrive t s.found).dict = s.dev.dict := arrive_dict t s.found
  have hframe : Framed [.clock, .recd, .counters] s.found (arrive t s.found) := arrive_framed _ _ (by decide) (.refl _ _)
  generalize arrive t s.found = a at *
  rw [if_neg (by rw [hrec]; rcases hok with h | h <;> rw [h] <;> simp)]
  refine ⟨hnow, ?_, hframe.trans fun p => ?_⟩
  · dsimp only
    rw [hrec, cfg_of_dict hdict]
  · cases p <;> first | exact .inr rfl | exact .inl (by decide)

theorem scanComplete_exec (hs : s.dev.recd.state = .scanning) (o : ScanOutcome) : exec (.scanComplete o) s = s.does fun d =>
    if !d.chip.emmc then mediumFails .absent { d with recd := { d.recd with lastSeq := seqAtBoot d.recd } }
    else if d.recd.ddrFailed then mediumFails .ddr { d with recd := { d.recd with lastSeq := seqAtBoot d.recd } }
    else match o with
      | .failed => mediumFails .error { d with recd := { d.recd with lastSeq := seqAtBoot d.recd } }
      | .blank => scanEnds true d
      | .logFound => scanEnds false d := by
  show execScanComplete o s = _
  unfold execScanComplete
  refine does_congr ?_
  have hs : s.found.recd.state = .scanning := hs
  rw [if_pos hs] <;> rfl

/-- A scan that fails loses the medium. -/
theorem scanComplete_fails (hs : s.dev.recd.state = .scanning) {o : ScanOutcome}
    (h : o = .failed ∨ s.dev.chip.emmc = false ∨ s.dev.recd.ddrFailed = true) : Completes (.scanComplete o) s fun d =>
      d.recd.state = .ring ∧ d.recd.mediumFailed = true ∧ cfg d 0x2A06 0x0C = min 0xFFFFFFFF (cfg s.dev 0x2A06 0x0C + 1) ∧ d.recd.early = [] := by
  have hdown : ∀ cause, let e := mediumFails cause { s.found with recd := { s.found.recd with lastSeq := seqAtBoot s.found.recd } }
      e.recd.state = .ring ∧ e.recd.mediumFailed = true ∧ cfg e 0x2A06 0x0C = min 0xFFFFFFFF (cfg s.dev 0x2A06 0x0C + 1) ∧ e.recd.early = [] :=
    fun cause => by
      have hs' : ({ s.found with recd := { s.found.recd with lastSeq := seqAtBoot s.found.recd } } : Dev).recd.state = .scanning := hs
      have hm := mediumFails_down (d := { s.found with recd := { s.found.recd with lastSeq := seqAtBoot s.found.recd } }) cause
        (by rw [hs']; decide) (by rw [hs']; decide) (by rw [hs']; decide)
      exact ⟨hm.stands.state, hm.stands.mediumFailed, hm.counted, hm.stands.early⟩
  refine completes_of_exec (scanComplete_exec hs o) ?_
  dsimp only
  split
  · exact hdown .absent
  · next hemmc =>
    have hemmc : s.dev.chip.emmc = true := (Bool.not_eq_false _).mp fun h => hemmc (by rw [show s.found.chip.emmc = false from h]; rfl)
    split
    · exact hdown .ddr
    · next hddr =>
      obtain rfl := h.resolve_right fun h => h.elim (fun h => by rw [hemmc] at h; exact absurd h (by decide)) fun h => hddr h
      exact hdown .error

theorem previousShutdown_recStands (h : d.recd.state ≠ .off ∧ d.recd.state ≠ .scanning) : RecStands d.recd (previousShutdown d).recd := by
  unfold previousShutdown
  split
  · next w hw =>
    have hp := raiseP_recStands evPrevShutdown noInst (slice w.pack 8 32) h
    split
    · refine hp.trans ?_
      exact ⟨rfl, rfl, rfl, rfl, rfl, rfl, rfl, rfl, rfl, rfl, rfl, id, id, fun _ => ⟨rfl, rfl⟩, fun _ => rfl⟩
    · exact .refl _
  · exact .refl _

/-- Steps 3 to 5 of R385 on a device whose log has been read or formatted. -/
def scanPlaces (format : Bool) (restored : List Entry) (d : Dev) : Dev :=
  checkWriteBack (previousShutdown (numberEarly (if format then
    raise evFormatted noInst (forEach restored (fun e => ringAccept { e with restored := true }) d)
    else forEach restored (fun e => ringAccept { e with restored := true }) d)))

theorem scanPlaces_wrote (format : Bool) (restored : List Entry) (hs : d.recd.state = .writeBack) (ha : d.recd.afterRing = false) :
    WroteBack { d.recd with early := [] } (scanPlaces format restored d).recd := by
  have h1 := ringAccepts_recStands (fun e => { e with restored := true }) restored d
  unfold scanPlaces
  generalize forEach restored (fun e => ringAccept { e with restored := true }) d = e at *
  have h2 : RecStands d.recd (if format then raise evFormatted noInst e else e).recd :=
    .ite (h1.trans (raiseP_recStands _ _ [] (by rw [h1.state, hs]; decide))) h1
  generalize (if format then raise evFormatted noInst e else e) = f at *
  have h3 := numberEarly_stands f
  have h2' : RecStands { d.recd with early := [] } { f.recd with early := [] } :=
    ⟨h2.state, h2.log, h2.valid, h2.slots, h2.fmt, h2.freezeEnd, h2.retryAt, h2.mediumFailed, h2.ddrFailed, h2.afterRing, rfl, h2.ring,
      h2.holding, h2.buffers, h2.held⟩
  have h4 := h2'.trans h3
  generalize numberEarly f = g at *
  have h5 := h4.trans (previousShutdown_recStands (d := g) (by rw [h4.state]; show _ ∧ _; rw [hs]; decide))
  generalize previousShutdown g = k at *
  have hw := checkWriteBack_wrote (d := k) (h5.state.trans hs) (fun h => absurd (h.symm.trans (h5.afterRing.trans ha)) (by decide))
  exact ⟨hw.back, fun h => hw.stays (h.imp h5.ring h5.holding), hw.log.trans h5.log, hw.valid.trans h5.valid, hw.slots.trans h5.slots,
    hw.fmt.trans h5.fmt, hw.freezeEnd.trans h5.freezeEnd, hw.retryAt.trans h5.retryAt, hw.mediumFailed.trans h5.mediumFailed,
    hw.early.trans h5.early⟩

/-- A scan that can read the medium. -/
theorem scanComplete_reads (hs : s.dev.recd.state = .scanning) (hemmc : s.dev.chip.emmc = true) (hddr : s.dev.recd.ddrFailed = false) :
    exec (.scanComplete .blank) s = s.does (scanEnds true) ∧ exec (.scanComplete .logFound) s = s.does (scanEnds false) := by
  have hemmc : s.found.chip.emmc = true := hemmc
  have hddr : s.found.recd.ddrFailed = false := hddr
  refine ⟨(scanComplete_exec hs _).trans (does_congr ?_), (scanComplete_exec hs _).trans (does_congr ?_)⟩
  · rw [hemmc, hddr]
    rfl
  · rw [hemmc, hddr]
    rfl

/-- A blank medium is formatted. -/
theorem scanComplete_blank (hs : s.dev.recd.state = .scanning) (hemmc : s.dev.chip.emmc = true) (hddr : s.dev.recd.ddrFailed = false) :
    Completes (.scanComplete .blank) s fun d => BackInLog d.recd ∧ d.recd.early = [] ∧ d.recd.log = [] ∧ d.recd.summary.valid = true ∧
      d.recd.summary.slots = slotsOf (cfg s.dev 0x2A01 1) := by
  refine completes_of_exec (scanComplete_reads hs hemmc hddr).1 ?_
  have hrun : ∃ (restored : List Entry) (e : Dev), scanEnds true s.found = scanPlaces true restored e ∧ e.recd.state = .writeBack ∧
      e.recd.afterRing = false ∧ e.recd.log = [] ∧ e.recd.summary.valid = true ∧
      e.recd.summary.slots = slotsOf (cfg s.dev 0x2A01 1) := by
    unfold scanEnds
    dsimp only
    rw [Bool.true_or, Bool.true_or, if_pos rfl, if_pos rfl]
    exact ⟨_, _, rfl, rfl, rfl, rfl, rfl, rfl⟩
  obtain ⟨restored, e, he, h1, h2, h3, h4, h5⟩ := hrun
  have hw := scanPlaces_wrote true restored h1 h2
  rw [he]
  exact ⟨hw.back, hw.early, hw.log.trans h3, hw.valid.trans h4, hw.slots.trans h5⟩

/-- A log of the right size is taken as it is. -/
theorem scanComplete_found (hs : s.dev.recd.state = .scanning) (hemmc : s.dev.chip.emmc = true) (hddr : s.dev.recd.ddrFailed = false)
    (hvalid : s.dev.recd.summary.valid = true) (hslots : s.dev.recd.summary.slots = slotsOf (cfg s.dev 0x2A01 1)) :
    Completes (.scanComplete .logFound) s fun d => BackInLog d.recd ∧ d.recd.early = [] ∧ d.recd.log = s.dev.recd.log ∧
      d.recd.summary.fmt = s.dev.recd.summary.fmt := by
  refine completes_of_exec (scanComplete_reads hs hemmc hddr).2 ?_
  have hrun : ∃ (restored : List Entry) (e : Dev), scanEnds false s.found = scanPlaces false restored e ∧ e.recd.state = .writeBack ∧
      e.recd.afterRing = false ∧ e.recd.log = s.dev.recd.log ∧ e.recd.summary.fmt = s.dev.recd.summary.fmt := by
    have hformat : (false || !s.found.recd.summary.valid || (decide (s.found.pow.bootCause = 1) &&
        decide (s.found.recd.summary.slots ≠ slotsOf (cfg s.found 0x2A01 1)))) = false := by
      rw [show s.found.recd.summary.valid = true from hvalid,
        show s.found.recd.summary.slots = slotsOf (cfg s.found 0x2A01 1) from hslots]
      simp
    unfold scanEnds
    dsimp only
    rw [hformat]
    exact ⟨_, _, rfl, rfl, rfl, rfl, rfl⟩
  obtain ⟨restored, e, he, h1, h2, h3, h4⟩ := hrun
  have hw := scanPlaces_wrote false restored h1 h2
  rw [he]
  exact ⟨hw.back, hw.early, hw.log.trans h3, hw.fmt.trans h4⟩

end returns

/-! ### Freezes (R377, R378) -/

section freezes

variable {d : Dev}

/-- Entries have joined the holding buffer, and nothing has left it. -/
structure HeldGrown (es : List Entry) (x y : List (Nat × Entry)) : Prop where
  length : y.length = x.length + es.length
  kept : ∀ z ∈ x, z ∈ y
  joined : ∀ e ∈ es, ∃ k, (k, e) ∈ y
  rise : SlotsRise y

theorem holdingAccepts_grow (g : Entry → Entry) {es : List Entry} (hm : SlotsRise d.recd.holding)
    (hroom : d.recd.holding.length + es.length ≤ holdingCap) :
    HeldGrown (es.map g) d.recd.holding (forEach es (fun e => holdingAccept (g e)) d).recd.holding := by
  induction es generalizing d with
  | nil => exact ⟨rfl, fun _ h => h, fun e he => absurd he List.not_mem_nil, hm⟩
  | cons e es ih =>
    rw [List.length_cons] at hroom
    obtain ⟨k, r, hr, hk, hkept, hlen, hrise⟩ := slotAccept_room hm (show d.recd.holding.length < holdingCap by omega) (g e)
    have h1 : (holdingAccept (g e) d).recd.holding = r := by
      rw [holdingAccept_holding, hr]
      rfl
    obtain ⟨h2, h3, h4, h5⟩ := ih (d := holdingAccept (g e) d) (by rw [h1]; exact hrise) (by rw [h1, hlen]; omega)
    rw [h1] at h2 h3
    refine ⟨?_, fun z hz => h3 z (hkept z hz), fun x hx => ?_, h5⟩
    · exact h2.trans (by rw [hlen, List.map_cons, List.length_cons]; omega)
    · rcases List.mem_cons.1 hx with rfl | hx
      · exact ⟨k, h3 _ hk⟩
      · exact h4 x hx

/-- Entries that are held stay held while the buffer has room for an event and for that of a failed copy. -/
theorem placeEntry_holds (e : Entry) (hs : d.recd.state = .frozen) (hr : SlotsRise d.recd.holding) (hl : d.recd.holding.length + 1 < holdingCap) :
    ∀ x ∈ d.recd.holding, x ∈ (placeEntry e d).recd.holding := by
  obtain ⟨e', h1⟩ := placeWith_frozen tarnLimited_memories e hs
  have hst := (placeWith_recStands tarnLimited_recStands e d).state
  obtain ⟨k, r, hk, -, hkept, hlen, hrise⟩ := slotAccept_room hr (show d.recd.holding.length < holdingCap by omega) e'
  rw [hk] at h1
  unfold placeEntry
  dsimp only
  generalize placeWith tarnLimited e d = p at *
  change p.recd.holding = r at h1
  split
  · obtain ⟨f, h2⟩ := placeWith_frozen (copy := fun _ d => d) (fun _ _ => ⟨rfl, rfl, rfl⟩) (newEntry evTarnFailed 0xFF [] p)
      (d := { p with recd := { p.recd with tarnMissed := false } }) (hst.trans hs)
    obtain ⟨j, q, hj, -, hq, -, -⟩ := slotAccept_room hrise (show r.length < holdingCap by omega) f
    rw [h2]
    show ∀ x ∈ d.recd.holding, x ∈ (slotAccept holdingCap f p.recd.holding).getD p.recd.holding
    rw [h1, hj]
    exact fun x hx => hq x (hkept x hx)
  · rw [h1]
    exact hkept

theorem holdingAccepts_recStands (g : Entry → Entry) (l : List Entry) {d : Dev} (hs : d.recd.state = .frozen) :
    RecStands d.recd (forEach l (fun e => holdingAccept (g e)) d).recd := by
  induction l generalizing d with
  | nil => exact .refl _
  | cons e l ih =>
    have h := holdingAccept_recStands (g e) hs
    exact h.trans (ih (h.state.trans hs))

/-- A freeze of the log moves what is staged to the holding buffer. -/
theorem freezeLog_freezes (hh : d.recd.holding = [])
    (hroom : (d.recd.inflight ++ d.recd.staging.map (·.1)).length + 1 < holdingCap) :
    (freezeLog d).recd.state = .frozen ∧ (freezeLog d).recd.staging = [] ∧ (freezeLog d).recd.inflight = [] ∧
      (freezeLog d).recd.freezeEnd = some (d.now + cfg d 0x2A02 2 * sNs) ∧
      ∀ e ∈ d.recd.inflight ++ d.recd.staging.map (·.1), ∃ k, (k, { e with viaHolding := true }) ∈ (freezeLog d).recd.holding := by
  unfold freezeLog takeStaged
  dsimp only
  generalize hb : ({ d with recd := _ } : Dev) = b
  have hbs : b.recd.state = .frozen := by rw [← hb]
  have hbst : b.recd.staging = [] := by rw [← hb]
  have hbin : b.recd.inflight = [] := by rw [← hb]
  have hbf : b.recd.freezeEnd = some (d.now + cfg d 0x2A02 2 * sNs) := by rw [← hb]; rfl
  have hbh : b.recd.holding = [] := by rw [← hb]; exact hh
  have h1 := holdingAccepts_recStands (fun e => { e with viaHolding := true }) (d.recd.inflight ++ d.recd.staging.map (·.1)) hbs
  have h2 := holdingAccepts_grow (fun e => { e with viaHolding := true }) (d := b) (es := d.recd.inflight ++ d.recd.staging.map (·.1))
    (by rw [hbh]; exact .nil) (by rw [hbh, List.length_nil]; omega)
  generalize forEach (d.recd.inflight ++ d.recd.staging.map (·.1)) (fun e => holdingAccept { e with viaHolding := true }) b = f at *
  obtain ⟨h2l, -, h2j, h2r⟩ := h2
  rw [hbh, List.length_nil, List.length_map] at h2l
  have hfs : f.recd.state = .frozen := h1.state.trans hbs
  have h3 := raiseP_recStands (d := f) evFrozen noInst [] (by rw [hfs]; decide)
  have hkeep : ∀ x ∈ f.recd.holding, x ∈ (raise evFrozen noInst f).recd.holding := by
    unfold raise raiseP recordEntry
    split
    · rw [bump_recd]
      exact fun _ h => h
    · rw [hfs]
      exact placeEntry_holds _ hfs h2r (by omega)
  change RecStands f.recd (raise evFrozen noInst f).recd at h3
  generalize raise evFrozen noInst f = g at *
  have h4 := h1.trans h3
  obtain ⟨hst, hin⟩ := h4.buffers (by rw [hbs]; decide)
  refine ⟨h4.state.trans hbs, hst.trans hbst, hin.trans hbin, h4.freezeEnd.trans hbf, fun e he => ?_⟩
  obtain ⟨k, hk⟩ := h2j _ (List.mem_map_of_mem he)
  exact ⟨k, hkeep _ hk⟩

end freezes

/-! ### The commands (R376 to R378, R390) -/

section commands

variable {s : State} {src : Src}

theorem rowOf_freeze : rowOf 0x2A02 1 = some ⟨0x2A02, 1, 1, 0x01, 1, .u8, 0x1133, .n 0, .vol, true, false, .oneOf [0, 1]⟩ := by decide +kernel

theorem rowOf_hostEntry : rowOf 0x2A04 1 = some ⟨0x2A04, 1, 1, 0x01, 1, .ostr 255, 0x0222, .nil, .vol, true, false, .lenRange 3 35⟩ := by
  decide +kernel

theorem rowOf_entries : rowOf 0x2A03 2 = some ⟨0x2A03, 1, 1, 0x02, 1, .domain 4096, 0x0111, .nil, .vol, false, false, .any⟩ := by decide +kernel

/-- The recorder that a request finds is the one before its path. -/
theorem Reached.recd {a : Dev} (h : Reached src s.found a) : (bump 0x2003 1 a).recd = s.dev.recd :=
  (bump_recd _ _ _).trans (h.pathOnly.same .recd (by decide))

/-- A write of the freeze entry reaches its act. -/
theorem freezeWrite_completes {c : Instr} {n : Nat} {P : Dev → Prop} (hc : exec c s = askNum src 0x2A02 1 1 n s) (hs : Served s.dev src)
    (hm : MayWrite s.dev src 0x2A02 1) (hn : n = 0 ∨ n = 1)
    (hP : ∀ a, Reached src s.found a → P (finishAct src 0x2A02 1 a (if n = 1 then
      Act.when (s.dev.recd.state = .logging) (freezeLog (bump 0x2003 1 a)) else .done (unfreezeLog (bump 0x2003 1 a))))) : Completes c s P := by
  refine completes_num hc hs hm rowOf_freeze rfl (by omega) rfl ?_ (by decide) rfl (by decide)
    (fun h => absurd h.1 (by decide)) fun a ha => ?_
  · rcases hn with rfl | rfl <;> rfl
  · have hact : actOn (writeOf src 0x2A02 1 0 (leBytes 1 n)) (roleOf s.dev src) (.num n) (bump 0x2003 1 a) = if n = 1 then
        Act.when ((bump 0x2003 1 a).recd.state = .logging) (freezeLog (bump 0x2003 1 a)) else .done (unfreezeLog (bump 0x2003 1 a)) := rfl
    rw [hact, ha.recd]
    exact hP a ha

theorem answerWrite_recd (src : Src) (idx sub code : Nat) (d : Dev) : (answerWrite src idx sub code d).recd = d.recd :=
  (answer_pathOnly src _ d).same .recd (by decide)

theorem freeze_acts (hs : Served s.dev src) (hm : MayWrite s.dev src 0x2A02 1) (hlog : s.dev.recd.state = .logging) (hh : s.dev.recd.holding = [])
    (hroom : (s.dev.recd.inflight ++ s.dev.recd.staging.map (·.1)).length + 1 < holdingCap) : Completes (.freeze src) s fun d =>
      ActsAtOnce s src 0x2A02 1 freezeLog d ∧ d.recd.state = .frozen ∧ d.recd.staging = [] ∧ d.recd.inflight = [] ∧
        d.recd.freezeEnd = some (s.dev.now + cfg s.dev 0x2A02 2 * sNs) ∧
        ∀ e ∈ s.dev.recd.inflight ++ s.dev.recd.staging.map (·.1), ∃ k, (k, { e with viaHolding := true }) ∈ d.recd.holding := by
  refine freezeWrite_completes (c := .freeze src) rfl hs hm (.inr rfl) fun a ha => ?_
  have hr := ha.recd
  have hnow : (bump 0x2003 1 a).now = s.dev.now := (bump_now _ _ _).trans ha.pathOnly.now
  have hcfg : cfg (bump 0x2003 1 a) 0x2A02 2 = cfg s.dev 0x2A02 2 :=
    (cfg_bump_ne _ _ _ _ _ (by decide)).trans (ha.pathOnly.cfg_free (by unfold PathFree; decide))
  rw [if_pos rfl, hlog]
  show ActsAtOnce _ _ _ _ _ (answerWrite src 0x2A02 1 0 (freezeLog (bump 0x2003 1 a))) ∧ _
  have hacts := ha.acts (freezeLog_framed (L := eventParts) (bump 0x2003 1 a) (by decide) (.refl _ _)) (by decide) (by decide) 0x2A02 1
  have hf := freezeLog_freezes (d := bump 0x2003 1 a) (by rw [hr]; exact hh) (by rw [hr]; exact hroom)
  rw [hr, hnow, hcfg, ← answerWrite_recd src 0x2A02 1 0] at hf
  exact ⟨hacts, hf⟩

theorem freeze_refused (hs : Served s.dev src) (hm : MayWrite s.dev src 0x2A02 1) (hlog : s.dev.recd.state ≠ .logging) :
    Completes (.freeze src) s (RefusedWith s src 0x2A02 1 0x08000022) :=
  freezeWrite_completes (c := .freeze src) rfl hs hm (.inr rfl) fun a ha => by
    rw [if_pos rfl, decide_eq_false hlog]
    exact finishAct_when_false ha _ _

theorem unfreeze_acts (hs : Served s.dev src) (hm : MayWrite s.dev src 0x2A02 1) (hfr : s.dev.recd.state = .frozen) :
    Completes (.unfreeze src) s fun d => ActsAtOnce s src 0x2A02 1 unfreezeLog d ∧ d.recd.freezeEnd = none ∧ BackInLog d.recd ∧
      (s.dev.recd.holding ≠ [] → d.recd.state = .writeBack) := by
  refine freezeWrite_completes (c := .unfreeze src) rfl hs hm (.inl rfl) fun a ha => ?_
  have hr := ha.recd
  have hacts := ha.acts (unfreezeLog_framed (L := eventParts) (bump 0x2003 1 a) (by decide) (.refl _ _)) (by decide) (by decide) 0x2A02 1
  obtain ⟨h1, h2, h3, -, -⟩ := unfreezeLog_ends (b := bump 0x2003 1 a) (by rw [hr]; exact hfr)
  rw [hr] at h3
  have hd := answerWrite_recd src 0x2A02 1 0 (unfreezeLog (bump 0x2003 1 a))
  rw [← hd] at h1 h2
  exact ⟨hacts, h1, h2, fun hne => (congrArg RecS.state hd).trans (h3 hne)⟩

theorem unfreeze_idle (hs : Served s.dev src) (hm : MayWrite s.dev src 0x2A02 1) (hfr : s.dev.recd.state ≠ .frozen) :
    Completes (.unfreeze src) s (ActsAtOnce s src 0x2A02 1 id) :=
  freezeWrite_completes (c := .unfreeze src) rfl hs hm (.inl rfl) fun a ha => by
    have hsame : unfreezeLog (bump 0x2003 1 a) = bump 0x2003 1 a := by
      unfold unfreezeLog
      exact if_neg (by rw [ha.recd]; exact hfr)
    rw [if_neg (by decide), hsame]
    exact ha.acts (f := id) (A := []) (.refl _ _) (by decide) (by decide) 0x2A02 1

/-- A request for a host entry is judged by its severity alone. -/
theorem checkWrite_hostEntry {data : List Byte} (h1 : 3 ≤ data.length) (h2 : data.length ≤ 35) (hm : MayWrite s.dev src 0x2A04 1) :
    checkWrite s.dev (roleOf s.dev src) 0x2A04 1 0 data = if 5 < leNat (slice data 0 1) then .error 0x06090031
      else .ok (⟨0x2A04, 1, 1, 0x01, 1, .ostr 255, 0x0222, .nil, .vol, true, false, .lenRange 3 35⟩, .bytes data) := by
  have hw := hm.of_row rowOf_hostEntry
  have hlen : writeLength s.dev ⟨0x2A04, 1, 1, 0x01, 1, .ostr 255, 0x0222, .nil, .vol, true, false, .lenRange 3 35⟩ 0x2A04 1 0 data =
      .ok (.bytes data) := by
    have hr : Range.lengthError (.lenRange 3 35) data.length = none := by
      unfold Range.lengthError
      dsimp only
      rw [if_neg (by omega), if_neg (by omega)]
    unfold writeLength
    dsimp only
    rw [hr, if_neg (by simp; omega)]
    rfl
  have hval : ∀ d : Dev, valueError d ⟨0x2A04, 1, 1, 0x01, 1, .ostr 255, 0x0222, .nil, .vol, true, false, .lenRange 3 35⟩ 0x2A04 1 (.bytes data) =
      if 5 < leNat (slice data 0 1) then some 0x06090031 else none := fun _ => rfl
  unfold checkWrite
  rw [show findRow 0x2A04 1 = .ok ⟨0x2A04, 1, 1, 0x01, 1, .ostr 255, 0x0222, .nil, .vol, true, false, .lenRange 3 35⟩ by
    simp only [findRow, rowOf_hostEntry]]
  dsimp only
  rw [show EntryRow.writeError _ (roleOf s.dev src) = none by simp only [EntryRow.writeError, hw, if_true]]
  dsimp only
  rw [hlen]
  dsimp only
  rw [hval]
  by_cases h : 5 < leNat (slice data 0 1)
  · rw [if_pos h, if_pos h]
    rfl
  · rw [if_neg h, if_neg h]
    rfl

theorem overlong_hostEntry {data : List Byte} (h : data.length ≤ 35) : overlong (writeOf src 0x2A04 1 0 data) = false := by
  have hmost : 35 ≤ mostBytes src := by
    unfold mostBytes
    split <;> decide
  unfold overlong
  dsimp only [writeOf]
  split
  · rfl
  · next heq =>
    cases heq
    exact decide_eq_false (by omega)
  · rfl

theorem hostEntry_records {data : List Byte} (hs : Served s.dev src) (hm : MayWrite s.dev src 0x2A04 1) (h1 : 3 ≤ data.length)
    (h2 : data.length ≤ 35) (hsev : leNat (slice data 0 1) ≤ 5) : Completes (.hostEntry src data) s (ActsAtOnce s src 0x2A04 1
      (raiseP ⟨0, leNat (slice data 0 1), leNat (slice data 1 2) / 256, leNat (slice data 1 2) % 256⟩ noInst (data.drop 3))) := by
  have hw := checkWrite_hostEntry h1 h2 hm
  rw [if_neg (Nat.not_lt.2 hsev)] at hw
  refine completes_imm (c := .hostEntry src data) rfl hs (overlong_hostEntry h2) (by decide) hw rfl (by decide) fun a ha => ?_
  exact ha.acts (raiseP_framed (L := eventParts) _ _ _ (bump 0x2003 1 a) (by decide) (.refl _ _)) (by decide) (by decide) 0x2A04 1

theorem hostEntry_refused {data : List Byte} (hs : Served s.dev src) (hm : MayWrite s.dev src 0x2A04 1) (h1 : 3 ≤ data.length)
    (h2 : data.length ≤ 35) (hsev : 5 < leNat (slice data 0 1)) : Completes (.hostEntry src data) s (RefusedWith s src 0x2A04 1 0x06090031) := by
  have hw := checkWrite_hostEntry h1 h2 hm
  rw [if_pos hsev] at hw
  exact completes_error (c := .hostEntry src data) rfl hs (overlong_hostEntry h2) (by decide) hw

/-- A read of a path that is served at once is judged on the device that its path leaves. -/
theorem completes_askRead {c : Instr} {idx sub : Nat} {phy : Option (BitVec 16)} {P : Dev → Prop} (hc : exec c s = askRead src idx sub phy s)
    (hs : Served s.dev src)
    (hP : ∀ a, Reached src s.found a → P (serveRead ⟨src, idx, sub, 0, .read (mostBytes src), phy⟩ (mostBytes src) a)) : Completes c s P := by
  have ho : overlong ⟨src, idx, sub, 0, .read (mostBytes src), phy⟩ = false := by
    unfold overlong
    cases src <;> rfl
  refine completes_of_exec (f := ask ⟨src, idx, sub, 0, .read (mostBytes src), phy⟩) hc ?_
  rw [ask_served (r := ⟨src, idx, sub, 0, .read (mostBytes src), phy⟩) (d := s.found) hs ho]
  obtain ⟨-, hpath, hready, hrole⟩ := served_carried (r := ⟨src, idx, sub, 0, .read (mostBytes src), phy⟩) (d := s.found) hs ho
  exact hP _ ⟨hpath, hready, hrole⟩

/-- A read from the start of an entry that the role may read. -/
theorem judgeRead_start {d : Dev} {r : Req} {row : EntryRow} (hoff : r.off = 0) (hrow : rowOf r.idx r.sub = some row)
    (hread : row.reads (roleOf d r.src) = true) :
    judgeRead d r = if readRefused d r.idx r.sub then .error 0x08000022 else .ok (readValueOf r row d) := by
  unfold judgeRead
  rw [show findRow r.idx r.sub = .ok row by simp only [findRow, hrow]]
  dsimp only
  rw [show row.readError (roleOf d r.src) = none by simp only [EntryRow.readError, hread, if_true]]
  dsimp only
  split
  · rw [hoff, if_neg (by simp)]
  · rw [hoff, if_neg (by simp)]

theorem computed_entries (d : Dev) : computed d 0x2A03 2 = some (.bytes ((List.range 64).flatMap fun i =>
    if cfg d 0x2A03 1 + i < (logMemory d).1 then slotBytes (logMemory d).2 (cfg d 0x2A03 1 + i) else List.replicate 64 0)) := by
  have h : computed d 0x2A03 2 = recRead d 0x2A03 2 := by
    unfold computed
    rfl
  rw [h]
  unfold recRead
  rfl

/-- The log memory that a window reads. -/
theorem entriesRead_completes {P : Dev → Prop} (hs : Served s.dev src) (hm : MayRead s.dev src 0x2A03 2)
    (hP : ∀ a, Reached src s.found a → P (if readRefused s.dev 0x2A03 2 then
        answer src ⟨0x2A03, 2, false, 0x08000022, [], 0⟩ a
      else answer src ⟨0x2A03, 2, false, 0, slice ((List.range 64).flatMap fun i =>
          if cfg s.dev 0x2A03 1 + i < (logMemory s.dev).1 then slotBytes (logMemory s.dev).2 (cfg s.dev 0x2A03 1 + i)
          else List.replicate 64 0) 0 (mostBytes src), ((List.range 64).flatMap fun i =>
          if cfg s.dev 0x2A03 1 + i < (logMemory s.dev).1 then slotBytes (logMemory s.dev).2 (cfg s.dev 0x2A03 1 + i)
          else List.replicate 64 0).length⟩ a)) : Completes (.entriesRead src) s P := by
  obtain ⟨row, hrow, hread⟩ := hm
  obtain rfl := Option.some.inj (hrow.symm.trans rowOf_entries)
  refine completes_askRead (c := .entriesRead src) rfl hs fun a ha => ?_
  have hrec : a.recd = s.dev.recd := ha.pathOnly.same .recd (by decide)
  have hcfg : cfg a 0x2A03 1 = cfg s.dev 0x2A03 1 := ha.pathOnly.cfg_free (by unfold PathFree; decide)
  have hmem : logMemory a = logMemory s.dev := by
    unfold logMemory
    rw [hrec]
  have hrefused : readRefused a 0x2A03 2 = readRefused s.dev 0x2A03 2 := by
    show (match a.recd.state with | .off | .scanning | .closed => true | _ => false) = (match s.dev.recd.state with | .off | .scanning | .closed => true | _ => false)
    rw [hrec]
  have hjudge := judgeRead_start (d := a) (r := ⟨src, 0x2A03, 2, 0, .read (mostBytes src), none⟩) rfl rowOf_entries
    (by rw [show roleOf a src = roleOf s.dev src from ha.role]; exact hread)
  have hvalue : readValueOf ⟨src, 0x2A03, 2, 0, .read (mostBytes src), none⟩
      ⟨0x2A03, 1, 1, 0x02, 1, .domain 4096, 0x0111, .nil, .vol, false, false, .any⟩ a = (List.range 64).flatMap fun i =>
        if cfg a 0x2A03 1 + i < (logMemory a).1 then slotBytes (logMemory a).2 (cfg a 0x2A03 1 + i) else List.replicate 64 0 := by
    unfold readValueOf entryValue
    rw [if_neg (by simp), if_neg (by simp), computed_entries]
    rfl
  rw [hvalue, hcfg, hmem] at hjudge
  dsimp only at hjudge
  rw [hrefused] at hjudge
  have h := hP a ha
  unfold serveRead
  rw [hjudge]
  split at h
  · next hr => rw [if_pos hr]; exact h
  · next hr => rw [if_neg hr]; exact h

theorem entriesRead_refused (hs : Served s.dev src) (hm : MayRead s.dev src 0x2A03 2)
    (h : s.dev.recd.state = .scanning ∨ s.dev.recd.state = .closed) : Completes (.entriesRead src) s fun d =>
      ReadRefused d src 0x2A03 2 0x08000022 ∧ PathOnly src s.found d := by
  have hr : readRefused s.dev 0x2A03 2 = true := by
    show (match s.dev.recd.state with | .off | .scanning | .closed => true | _ => false) = true
    rcases h with h | h <;> rw [h]
  refine entriesRead_completes hs hm fun a ha => ?_
  rw [if_pos hr]
  exact ⟨answer_ready _ ha.ready, ha.pathOnly.trans (answer_pathOnly _ _ _)⟩

theorem entriesRead_answered (hs : Served s.dev src) (hm : MayRead s.dev src 0x2A03 2)
    (h : s.dev.recd.state = .logging ∨ s.dev.recd.state = .frozen ∨ s.dev.recd.state = .writeBack ∨ s.dev.recd.state = .ring) :
    Completes (.entriesRead src) s fun d => ReadAnswered d src 0x2A03 2 ((List.range 64).flatMap fun i =>
        if cfg s.dev 0x2A03 1 + i < (logMemory s.dev).1 then slotBytes (logMemory s.dev).2 (cfg s.dev 0x2A03 1 + i)
        else List.replicate 64 0) ∧ PathOnly src s.found d := by
  have hr : ¬ readRefused s.dev 0x2A03 2 = true := by
    show ¬ (match s.dev.recd.state with | .off | .scanning | .closed => true | _ => false) = true
    rcases h with h | h | h | h <;> rw [h] <;> decide
  refine entriesRead_completes hs hm fun a ha => ?_
  rw [if_neg hr]
  exact ⟨answer_ready _ ha.ready, ha.pathOnly.trans (answer_pathOnly _ _ _)⟩

end commands

/-- Settles O44: each memory of the recorder is followed through the entries that its command moves and the events that it records. -/
theorem theRecorderWritesFreezesFailsAndReturnsAsGiven : Obligations.TheRecorderWritesFreezesFailsAndReturnsAsGiven := by
  unfold Obligations.TheRecorderWritesFreezesFailsAndReturnsAsGiven
  intro s m counter staged back
  refine ⟨fun e t rest => flushDelay_writes, logWriteComplete_grows, logWriteComplete_ends, fun t => freezeLimit_ends,
    fun cause => ⟨fun h => completes_of_exec (f := mediumFails cause) rfl ?_,
      fun h1 h2 h3 => completes_of_exec (f := mediumFails cause) rfl ?_⟩, fun t ok hs ht => ⟨mediumRetry_returns hs ht, mediumRetry_waits hs ht⟩,
    fun hs => ⟨fun o => scanComplete_fails hs, fun hemmc hddr => ⟨scanComplete_blank hs hemmc hddr, scanComplete_found hs hemmc hddr⟩⟩,
    fun src hs => ⟨fun hm => ⟨freeze_acts hs hm, freeze_refused hs hm, unfreeze_acts hs hm, unfreeze_idle hs hm⟩,
      fun hm data h1 h2 => ⟨hostEntry_records hs hm h1 h2, hostEntry_refused hs hm h1 h2⟩,
      fun hm => ⟨entriesRead_refused hs hm, entriesRead_answered hs hm⟩⟩⟩
  · rw [mediumFails_idle (d := s.found) cause h]
    exact ⟨rfl, fun p => by cases p <;> first | exact .inr rfl | exact .inl (by decide)⟩
  · obtain ⟨hst, hcount⟩ := mediumFails_down (d := s.found) cause h1 h2 h3
    have halarm := mediumFails_alarm (d := s.found) cause h1 h2 h3
    obtain ⟨hstage, hin⟩ := hst.buffers (show RecState.ring ≠ .logging by decide)
    have hheld := hst.held (show RecState.ring ≠ .frozen by decide)
    generalize mediumFails cause s.found = e at *
    exact ⟨hst.state, hst.mediumFailed, hst.ddrFailed, hst.freezeEnd, hheld, hstage, hin, hst.log, hcount, hst.retryAt,
      fun h1 h2 h3 => halarm h1 h2 h3⟩

end Sys2Proof.Machine
end

section
/-! PROOF. What leaves the egress queues of a port that is not Up alone, and what a port discards when it loses link (R141, R168). -/

namespace Sys2Proof.Machine

/-! ### Queues (R141) -/

section queues

variable {d : Dev} {p r : Port} {q k : Fin 8}

theorem queueOf_setQueue_self (p : Port) (q : Fin 8) (l : List QFrame) (d : Dev) : queueOf (setQueue p q l d) p q = l := by
  simp [queueOf, setQueue, vmod]

theorem queueOf_setQueue_ne (h : (r, k) ≠ (p, q)) (l : List QFrame) (d : Dev) : queueOf (setQueue p q l d) r k = queueOf d r k := by
  by_cases hr : r = p
  · subst hr
    have hk : q.val ≠ k.val := fun e => h (by rw [Fin.ext e])
    simp [queueOf, setQueue, vmod, Vector.getElem_set_ne _ _ hk]
  · have hne : p.val ≠ r.val := fun e => hr (Fin.ext e).symm
    simp [queueOf, setQueue, vmod, Vector.getElem_set_ne _ _ hne]

theorem queues_of_framed {A : List Part} {a b : Dev} (h : Framed A a b) (hq : Part.queues ∉ A) : b.fab.queues = a.fab.queues :=
  congrArg Prod.fst (h.same .queues hq)

theorem settle_queues (f : QFrame) (status : Nat) (d : Dev) : (settle f status d).fab.queues = d.fab.queues := by
  have hfree : ∀ b : Bool, (if b then onFab (fun x => { x with cells := x.cells.filter (fun c => c.1 ≠ f.uid) }) d else d).fab.queues =
      d.fab.queues := fun b => by cases b <;> rfl
  unfold settle
  dsimp only
  generalize (((queued d).map fun x => x.2.2) ++ d.fab.hostQueue).filter (fun g => decide (g.uid = f.uid)) = copies
  have hd := hfree (copies.all (·.spilled))
  generalize (if copies.all (·.spilled) = true then _ else d : Dev) = e at hd
  split
  · split
    · exact (queues_of_framed (completeTx_framed (L := [.out, .host, .ints]) _ _ _ _ (by decide) (.refl _ _)) (by decide)).trans hd
    · exact hd
  · exact hd

theorem endSpill_queues (p : Port) (q : Fin 8) (d : Dev) : (endSpill p q d).fab.queues = d.fab.queues := by
  unfold endSpill
  split <;> rfl

theorem forEach_queues {α : Type} {f : α → Dev → Dev} (hf : ∀ x d, (f x d).fab.queues = d.fab.queues) (l : List α) (d : Dev) :
    (forEach l f d).fab.queues = d.fab.queues := by
  induction l generalizing d with
  | nil => rfl
  | cons x l ih => exact (ih _).trans (hf x d)

/-- Discarding in a queue leaves what is not discarded there, and the other queues. -/
theorem discardFrom_queues {each : QFrame → Dev → Dev} (heach : ∀ f d, (each f d).fab.queues = d.fab.queues) (p : Port) (q : Fin 8)
    (bad : QFrame → Bool) (status : Nat) (d : Dev) :
    (discardFrom p q bad status each d).fab.queues = (setQueue p q ((queueOf d p q).filter (fun f => !bad f)) d).fab.queues := by
  unfold discardFrom
  dsimp only
  rw [forEach_queues fun f d => (settle_queues f status _).trans (heach f d), endSpill_queues]

theorem countUnsent_queues (p : Port) (q : Fin 8) (d : Dev) : (countUnsent p q d).fab.queues = d.fab.queues :=
  queues_of_framed (countUnsent_framed (L := [.regs]) p q d (by decide) (.refl _ d)) (by decide)

/-- A port that discards its queues has them empty, and the other ports have theirs. -/
theorem discardPort_queues (p : Port) (d : Dev) : (∀ k, queueOf (discardPort p d) p k = []) ∧
    ∀ r ≠ p, ∀ k, queueOf (discardPort p d) r k = queueOf d r k := by
  have hstep : ∀ (q : Fin 8) (e : Dev), (discardFrom p q (fun _ => true) 3 (fun _ => countUnsent p q) e).fab.queues =
      (setQueue p q [] e).fab.queues := fun q e => by
    rw [discardFrom_queues fun _ => countUnsent_queues p q]
    simp
  have hall : ∀ (l : List (Fin 8)) (e : Dev),
      let f := forEach l (fun q d => discardFrom p q (fun _ => true) 3 (fun _ => countUnsent p q) d) e
      (∀ k, (k ∈ l ∨ queueOf e p k = []) → queueOf f p k = []) ∧ ∀ r ≠ p, ∀ k, queueOf f r k = queueOf e r k := fun l e => by
    induction l generalizing e with
    | nil => exact ⟨fun k h => h.resolve_left (nomatch ·), fun _ _ _ => rfl⟩
    | cons q l ih =>
      obtain ⟨h1, h2⟩ := ih (discardFrom p q (fun _ => true) 3 (fun _ => countUnsent p q) e)
      refine ⟨fun k hk => h1 k ?_, fun r hr k => (h2 r hr k).trans ?_⟩
      · rw [queueOf_of_queues (hstep q e)]
        by_cases hkq : k = q
        · subst hkq
          exact .inr (queueOf_setQueue_self _ _ _ _)
        · refine (hk.imp (fun h => (List.mem_cons.mp h).resolve_left hkq) fun h => ?_)
          rw [queueOf_setQueue_ne fun e => hkq (Prod.ext_iff.mp e).2]
          exact h
      · rw [queueOf_of_queues (hstep q e), queueOf_setQueue_ne fun e => hr (Prod.ext_iff.mp e).1]
  obtain ⟨h1, h2⟩ := hall (List.finRange 8) d
  exact ⟨fun k => h1 k (.inl (List.mem_finRange k)), h2⟩

theorem discardPort_regs (p : Port) (d : Dev) : RegsFramed (frameCounters p) d (discardPort p d) := by
  refine forEach_regs (fun q e => ?_) _ d
  unfold discardFrom
  dsimp only
  refine (forEach_regs (fun f x => ?_) _ _).after (?_ : _ = e.dict.od)
  · exact (countUnsent_regs p q x).trans (.of_same ((settle_framed (L := [.out, .queues, .host, .ints]) f 3 _ (by decide) (.refl _ _)).same .regs (by decide)))
  · exact (endSpill_framed (L := [.queues]) p q _ (by decide) (.refl _ _)).same .regs (by decide)

theorem discardPort_sent (p : Port) (d : Dev) : Sent d (discardPort p d) := by
  refine .forEach (fun q e => ?_) _ d
  unfold discardFrom
  dsimp only
  refine (Sent.forEach (fun f x => ?_) _ _).after (?_ : _ = e.out)
  · exact ((countUnsent_framed (L := [.regs]) p q x (by decide) (.refl _ x)).sent (by decide)).trans (settle_sent f 3 _)
  · exact (endSpill_framed (L := [.queues]) p q _ (by decide) (.refl _ _)).same .out (by decide)

end queues

/-! ### Ports that are not Up -/

/-- From `a` to `b` no port changes, and the queues of a port that is not Up stay. -/
structure Shut (a b : Dev) : Prop where
  ports : b.ports = a.ports
  queues : ∀ p, portUp a p = false → ∀ q, queueOf b p q = queueOf a p q

section shut

variable {a b c d : Dev}

theorem Shut.refl (d : Dev) : Shut d d := ⟨rfl, fun _ _ _ => rfl⟩

theorem Shut.trans (h1 : Shut a b) (h2 : Shut b c) : Shut a c :=
  ⟨h2.ports.trans h1.ports, fun p hp q => (h2.queues p (by unfold portUp at *; rw [h1.ports]; exact hp) q).trans (h1.queues p hp q)⟩

theorem Shut.ite {x : Prop} [Decidable x] (h1 : Shut a b) (h2 : Shut a c) : Shut a (if x then b else c) := by
  split
  exacts [h1, h2]

theorem Shut.onlyIf {f : Dev → Dev} (x : Bool) (h : Shut d (f d)) : Shut d (onlyIf x f d) := .ite h (.refl d)

theorem Shut.forEach {α : Type} {f : α → Dev → Dev} (hf : ∀ x d, Shut d (f x d)) (l : List α) (d : Dev) : Shut d (forEach l f d) := by
  induction l generalizing d with
  | nil => exact .refl d
  | cons x l ih => exact (hf x d).trans (ih (f x d))

theorem Framed.shut {A : List Part} (h : Framed A a b) (hp : Part.ports ∉ A) (hq : Part.queues ∉ A) : Shut a b :=
  ⟨h.same .ports hp, fun p _ q => queueOf_of_queues (queues_of_framed h hq) p q⟩

theorem bump_shut (idx sub : Nat) (d : Dev) : Shut d (bump idx sub d) := ⟨bump_ports _ _ _, fun p _ q => bump_queueOf idx sub d p q⟩

theorem onInaug_shut (f : InaugS → InaugS) (d : Dev) : Shut d (onInaug f d) := ⟨rfl, fun _ _ _ => rfl⟩

theorem emit_shut (o : Out) (d : Dev) : Shut d (emit o d) := ⟨rfl, fun _ _ _ => rfl⟩

theorem draw_shut (d : Dev) : Shut d (draw d) := ⟨rfl, fun _ _ _ => rfl⟩

theorem onBack_shut (p : Port) (f : BackPort → BackPort) (d : Dev) : Shut d (onBack p f d) := ⟨rfl, fun _ _ _ => rfl⟩

theorem raise_shut (ev : Ev) (inst : Nat) (d : Dev) : Shut d (raise ev inst d) :=
  (raise_framed (L := eventParts) ev inst d (by decide) (.refl _ d)).shut (by decide) (by decide)

theorem sendOwn_shut (p : Port) (q : Fin 8) (bs : List Byte) (d : Dev) : Shut d (sendOwn p q bs d) := by
  refine ⟨(sendOwn_framed (L := [.regs, .queues, .counters]) p q bs d (by decide) (.refl _ d)).same .ports (by decide), fun r hr k => ?_⟩
  unfold sendOwn
  by_cases hrp : r = p
  · subst hrp
    dsimp only
    have hup : portUp (onFab (fun b => { b with nextUid := b.nextUid + 1 }) d) r = false := hr
    unfold admitPort
    dsimp only
    rw [hup, if_pos (by rfl)]
    exact queueOf_of_queues (countUnsent_queues r q _) r k
  · exact (admitPort_other hrp _ _ _ q k).trans rfl

/-! Rounds (R78, R85 to R89) and the changes that begin them (R72, R104). -/

theorem createSc_shut (ports : List Port) (x : ScBody) (d : Dev) : Shut d (createSc ports x d) :=
  (onInaug_shut _ d).trans (.ite (.forEach (fun _ _ => (emit_shut _ _).trans (sendOwn_shut _ _ _ _)) _ _) (.refl _))

theorem sendClaim_shut (d : Dev) : Shut d (sendClaim d) := (onInaug_shut _ d).trans (createSc_shut _ _ _)

theorem dropCommit_shut (d : Dev) : Shut d (dropCommit d) :=
  (dropCommit_framed (L := [.inaug, .sched, .strm]) d (by decide) (.refl _ d)).shut (by decide) (by decide)

theorem timeStandardHold_shut (l : List Port) (d : Dev) : Shut d (timeStandardHold l d) := ⟨rfl, fun _ _ _ => rfl⟩

theorem timeRoundStart_shut (l : List Port) (d : Dev) : Shut d (timeRoundStart l d) := ⟨rfl, fun _ _ _ => rfl⟩

theorem enterRound_shut (round : BitVec 16) (lowest : Word48) (revealed : List Port) (d : Dev) : Shut d (enterRound round lowest revealed d) :=
  (dropCommit_shut d).trans ((onInaug_shut _ _).trans ((timeRoundStart_shut _ _).trans (sendClaim_shut _)))

theorem startRound_shut (revealed : List Port) (d : Dev) : Shut d (startRound revealed d) :=
  (onInaug_shut _ d).trans ((bump_shut 0x2107 1 _).trans (enterRound_shut _ _ _ _))

theorem enterStandard_shut (d : Dev) : Shut d (enterStandard d) :=
  (dropCommit_shut d).trans ((onInaug_shut _ _).trans ((bump_shut 0x2107 4 _).trans ((raise_shut _ _ _).trans (timeStandardHold_shut _ _))))

theorem joinHeld_shut (d : Dev) : Shut d (joinHeld d) := by
  unfold joinHeld
  split
  · exact .refl d
  · exact .ite ((onInaug_shut _ d).trans ((Shut.ite (.refl _) (onInaug_shut _ _)).trans (enterRound_shut _ _ _ _))) (onInaug_shut _ d)

theorem failRound_shut (d : Dev) : Shut d (failRound d) := by
  have h := (dropCommit_shut d).trans ((onInaug_shut (fun i => { i.stopTimers with failedRounds := i.failedRounds + 1, roundOwn := false }) _).trans
    ((bump_shut 0x2107 3 _).trans (raise_shut evRoundFailed noInst _)))
  exact .ite (h.trans (enterStandard_shut _))
    (h.trans ((onInaug_shut _ _).trans ((draw_shut _).trans (joinHeld_shut _))))

theorem abortRound_shut (cause : Nat) (d : Dev) : Shut d (abortRound cause d) :=
  .ite ((createSc_shut _ _ _).trans (enterStandard_shut _)) ((createSc_shut _ _ _).trans (failRound_shut _))

theorem onChange_shut (k : Change) (ports : List Port) (d : Dev) : Shut d (onChange k ports d) := by
  unfold onChange
  refine .ite (.refl d) ?_
  split
  · exact .refl d
  · exact .ite ((onInaug_shut _ d).trans (raise_shut _ _ _)) (.ite (.ite (.refl d) (.ite (timeStandardHold_shut _ d) (startRound_shut _ d)))
      (.ite (abortRound_shut _ d) (.ite (onInaug_shut _ d) (startRound_shut _ d))))

theorem classifySide_shut (p : Port) (rear : Bool) (old : Option Word48 × Option Word48) (d : Dev) : Shut d (classifySide p rear old d) := by
  unfold classifySide
  dsimp only
  refine .ite (.refl d) ?_
  generalize hu : Machine.onlyIf _ (bump 0x2107 6) _ = u
  have hu : Shut d u := by
    subst hu
    refine .trans (.trans (.trans (.trans (onInaug_shut _ d) (.ite (raise_shut _ _ _) (.refl _)))
      (.onlyIf _ ((bump_shut 0x2107 0x0B _).trans (raise_shut _ _ _)))) (.onlyIf _ ((bump_shut 0x2107 5 _).trans ?_)))
      (.onlyIf _ (bump_shut 0x2107 6 _))
    exact ⟨rfl, fun _ _ _ => rfl⟩
  exact .ite ((hu.trans (.onlyIf _ (onChange_shut _ _ u))).trans (onChange_shut _ _ _)) (hu.trans (.onlyIf _ (onChange_shut _ _ u)))

theorem hearOn_shut (p : Port) (n : Option Neighbour) (d : Dev) : Shut d (hearOn p n d) :=
  (onBack_shut p _ d).trans (classifySide_shut _ _ _ _)

theorem backboneDown_shut (p : Port) (d : Dev) : Shut d (backboneDown p d) :=
  .ite ((hearOn_shut p none d).trans (onBack_shut _ _ _)) (.refl d)

end shut

end Sys2Proof.Machine
end

section
/-! PROOF. Links and PHYs follow their lanes, timers and commands (R164 to R174, R185). -/

namespace Sys2Proof.Machine

/-! ### What gaining and losing link leaves (R166 to R169) -/

section links

variable {a b c d : Dev} {p : Port}

/-- The counters that a change of link moves. -/
def linkCounters : List (Nat × Nat) := roundCounters ++ allPorts.map fun p => (0x2300 + p.val, 0x31)

/-- From `a` to `b` what was sent stays sent, and no register changes but the counters of a change of link. -/
structure LinkMove (a b : Dev) : Prop where
  sent : Sent a b
  regs : RegsFramed linkCounters a b

theorem linkCounters_round {r : Nat × Nat} (h : r ∈ roundCounters) : r ∈ linkCounters := List.mem_append_left _ h

theorem linkCounters_frame (p : Port) {r : Nat × Nat} (h : r ∈ frameCounters p) : r ∈ linkCounters := linkCounters_round (roundCounters_frame p h)

theorem linkCounters_ne (p : Port) {sub : Nat} (hs : sub < 0x23) : ∀ r ∈ linkCounters, odKey r.1 r.2 ≠ odKey (0x2300 + p.val) sub := by
  have h : ∀ r ∈ linkCounters, (r.1 < 0x2300 ∨ 0x2314 ≤ r.1 ∨ 0x23 ≤ r.2) ∧ r.2 < 256 := by decide +kernel
  intro r hr
  obtain ⟨h1, h2⟩ := h r hr
  have := p.isLt
  unfold odKey
  omega

theorem LinkMove.refl (d : Dev) : LinkMove d d := ⟨.refl d, .refl _ d⟩

theorem LinkMove.trans (h1 : LinkMove a b) (h2 : LinkMove b c) : LinkMove a c := ⟨h1.sent.trans h2.sent, h1.regs.trans h2.regs⟩

theorem LinkMove.ite {x : Prop} [Decidable x] (h1 : LinkMove a b) (h2 : LinkMove a c) : LinkMove a (if x then b else c) := by
  split
  exacts [h1, h2]

theorem LinkMove.forEach {α : Type} {f : α → Dev → Dev} (hf : ∀ x d, LinkMove d (f x d)) (l : List α) (d : Dev) : LinkMove d (forEach l f d) := by
  induction l generalizing d with
  | nil => exact .refl d
  | cons x l ih => exact (hf x d).trans (ih (f x d))

theorem LinkMove.portReg (h : LinkMove a b) (p : Port) {sub : Nat} (hs : sub < 0x23) : portReg b p sub = portReg a p sub :=
  h.regs.cfg _ _ (linkCounters_ne p hs)

theorem RoundMove.link (h : RoundMove a b) : LinkMove a b := ⟨h.sent, h.regs.mono fun _ => linkCounters_round⟩

theorem LinkMove.of_eq (ho : b.out = a.out) (hd : b.dict.od = a.dict.od) : LinkMove a b := ⟨.of_eq ho, .of_same hd⟩

theorem onPort_link (p : Port) (f : PortS → PortS) (d : Dev) : LinkMove d (onPort p f d) := .of_eq rfl rfl

theorem onBack_link (p : Port) (f : BackPort → BackPort) (d : Dev) : LinkMove d (onBack p f d) := .of_eq rfl rfl

theorem bump_link (idx sub : Nat) (d : Dev) (h : (idx, sub) ∈ linkCounters) : LinkMove d (bump idx sub d) :=
  ⟨.of_eq (by simp), (RegsFramed.refl _ d).bump _ _ h⟩

theorem laneChange_link (lane : Port) (p : Port) (d : Dev) : LinkMove d (laneChange lane p d) := by
  have h := laneChange_framed (L := [.sched, .strm]) lane p d (by decide) (.refl _ d)
  exact .of_eq (h.same .out (by decide)) (h.same .regs (by decide))

theorem sendPtp_link (p : Port) (m : PtpMsg) (d : Dev) : LinkMove d (sendPtp p m d) :=
  .ite (.refl d) ((emit_move _ d).trans ((draw_move _).trans (sendOwn_move _ _ _ _))).link

theorem sendPdelay_link (p : Port) (d : Dev) : LinkMove d (sendPdelay p d) := by
  unfold sendPdelay
  refine (LinkMove.of_eq ?_ ?_).trans (sendPtp_link p _ _) <;> rfl

theorem sendOffers_link (p : Port) (d : Dev) : LinkMove d (sendOffers p d) :=
  .ite (.forEach (fun _ _ => ((emit_move _ _).trans (sendOwn_move _ _ _ _)).link) _ _) (.refl d)

theorem sendProbe_link (p : Port) (d : Dev) : LinkMove d (sendProbe p d) := (createSc_move _ _ d).link.trans (onBack_link _ _ _)

theorem sendHello_link (p : Port) (d : Dev) : LinkMove d (sendHello p d) :=
  ((emit_move _ d).trans (sendOwn_move _ _ _ _)).link.trans (onBack_link _ _ _)

theorem backboneUp_link (p : Port) (d : Dev) : LinkMove d (backboneUp p d) :=
  .ite ((onBack_link p _ d).trans ((LinkMove.ite (sendProbe_link p _) (.refl _)).trans (sendHello_link p _))) (.refl d)

theorem timePortUp_link (p : Port) (d : Dev) : LinkMove d (timePortUp p d) := by
  unfold timePortUp
  refine .ite (LinkMove.trans ?_ (sendPdelay_link p _)) (.refl d)
  exact .of_eq rfl rfl

theorem backboneDown_link (p : Port) (d : Dev) : LinkMove d (backboneDown p d) :=
  .ite ((onBack_link p _ d).trans ((hearOn_move p none d).link.trans (onBack_link _ _ _))) (.refl d)

theorem sweepCells_queues (d : Dev) : (sweepCells d).fab.queues = d.fab.queues := rfl

/-- A port after the loss of its link. -/
def PortS.lost (t : PortS) (now : Nat) : PortS :=
  { t with link := .acquiring, downSince := none, txUntil := now, txCut := false, pauseUntil := none, pausePending := none, pauseAcc := 0, pauseSince := now }

theorem onPort_ports_congr (p : Port) (f : PortS → PortS) (h : b.ports = a.ports) : (onPort p f b).ports = (onPort p f a).ports := by
  unfold onPort
  rw [h]

/-- What a lost link leaves: the port as lost, its queues empty, one more loss counted, no neighbour. -/
structure LinkLost (p : Port) (d e : Dev) : Prop where
  ports : e.ports = (onPort p (fun t => t.lost d.now) d).ports
  queues : ∀ q, queueOf e p q = []
  counted : cfg e (0x2300 + p.val) 0x31 = min 0xFFFFFFFF (cfg d (0x2300 + p.val) 0x31 + 1)
  unheard : isBackbone p = true → (backOf e p).heard = none
  move : LinkMove d e

theorem loss_default (p : Port) : odDefault (odKey (0x2300 + p.val) 0x31) = .num 0 := by
  have h : ∀ p : Port, odDefault (odKey (0x2300 + p.val) 0x31) = .num 0 := by decide +kernel
  exact h p

theorem roundCounters_loss (p : Port) : ∀ r ∈ roundCounters, odKey r.1 r.2 ≠ odKey (0x2300 + p.val) 0x31 := by
  have h : ∀ r ∈ roundCounters, (r.1 < 0x2300 ∨ 0x2314 ≤ r.1 ∨ r.2 ≠ 0x31) ∧ r.2 < 256 := by decide +kernel
  intro r hr
  obtain ⟨h1, h2⟩ := h r hr
  have := p.isLt
  unfold odKey
  omega

theorem backboneDown_round (p : Port) (d : Dev) : RegsFramed roundCounters d (backboneDown p d) := by
  unfold backboneDown
  split
  · exact (((hearOn_move p none d).regs.after rfl)).trans (.of_same rfl)
  · exact .refl _ d

theorem backboneDown_heard (h : isBackbone p = true) (d : Dev) : (backOf (backboneDown p d) p).heard = none := by
  unfold backboneDown
  rw [if_pos h, backOf_onBack_self, backOf_hearOn]
  exact heardAs_heard _ _ _

/-- What follows once the queues of a port that lost link are empty (R168). -/
def lossFollows (lane : Port) (p : Port) (d : Dev) : Dev :=
  laneChange lane p (backboneDown p (timePortDown p (raise (evLinkLost p) p.val (sweepCells d))))

theorem lossFollows_shut (lane : Port) (p : Port) (d : Dev) : Shut d (lossFollows lane p d) := by
  have h0 : Shut d (sweepCells d) := ⟨rfl, fun _ _ _ => rfl⟩
  have h1 := h0.trans (raise_shut (evLinkLost p) p.val _)
  have h2 := h1.trans ((timePortDown_framed (L := [.time]) p _ (by decide) (.refl _ _)).shut (by decide) (by decide))
  exact (h2.trans (backboneDown_shut p _)).trans ((laneChange_framed (L := [.sched, .strm]) lane p _ (by decide) (.refl _ _)).shut (by decide) (by decide))

theorem lossFollows_regs (lane : Port) (p : Port) (d : Dev) : RegsFramed roundCounters d (lossFollows lane p d) := by
  have h1 : RegsFramed roundCounters d (raise (evLinkLost p) p.val (sweepCells d)) :=
    ((raise_regs _ _ _).mono fun _ => roundCounters_event).after rfl
  have h2 := h1.trans (.of_same ((timePortDown_framed (L := [.time]) p _ (by decide) (.refl _ _)).same .regs (by decide)))
  exact (h2.trans (backboneDown_round p _)).trans (.of_same ((laneChange_framed (L := [.sched, .strm]) lane p _ (by decide) (.refl _ _)).same .regs (by decide)))

theorem lossFollows_sent (lane : Port) (p : Port) (d : Dev) : Sent d (lossFollows lane p d) := by
  have h1 : Sent d (raise (evLinkLost p) p.val (sweepCells d)) := (raise_sent _ _ _).after rfl
  have h2 := h1.trans ((timePortDown_framed (L := [.time]) p _ (by decide) (.refl _ _)).sent (by decide))
  exact (h2.trans (backboneDown_link p _).sent).trans (laneChange_link lane p _).sent

theorem lossFollows_heard (lane : Port) (h : isBackbone p = true) (d : Dev) : (backOf (lossFollows lane p d) p).heard = none := by
  unfold lossFollows
  generalize timePortDown p _ = e
  rw [backOf_of_inaug ((laneChange_framed (L := [.sched, .strm]) lane p _ (by decide) (.refl _ _)).same .inaug (by decide))]
  exact backboneDown_heard h e

theorem loseLink_lost (p : Port) (d : Dev) : LinkLost p d (loseLink p d) := by
  unfold loseLink
  dsimp only
  generalize hd1 : Machine.onlyIf _ (bump (0x2300 + p.val) 0x32) d = d1
  have hm1 : LinkMove d d1 ∧ d1.ports = d.ports ∧ d1.now = d.now ∧
      cfg d1 (0x2300 + p.val) 0x31 = cfg d (0x2300 + p.val) 0x31 := by
    rw [← hd1]
    unfold Machine.onlyIf
    split
    · refine ⟨bump_link _ _ d (linkCounters_frame p (by simp [frameCounters])), bump_ports _ _ _, bump_now _ _ _, cfg_bump_ne _ _ _ _ _ ?_⟩
      unfold odKey
      omega
    · exact ⟨.refl d, rfl, rfl, rfl⟩
  obtain ⟨hm1, hp1, hn1, hc1⟩ := hm1
  generalize hd2 : onPort p (fun t => { t with link := .acquiring, downSince := none, txUntil := d.now, txCut := false }) d1 = d2
  have hm2 : LinkMove d d2 := hd2 ▸ hm1.trans (onPort_link p _ d1)
  have hf : Framed [.out, .regs, .queues, .host, .ints] d2 (discardPort p d2) := discardPort_framed p d2 (by decide) (.refl _ _)
  have hq := (discardPort_queues p d2).1
  have hr := discardPort_regs p d2
  have hs := discardPort_sent p d2
  generalize discardPort p d2 = d3 at *
  have hn3 : d3.now = d.now := (congrArg Prod.fst (hf.same .clock (by decide))).trans (by rw [← hd2]; exact hn1)
  have hp3 : d3.ports = d2.ports := hf.same .ports (by decide)
  have hports : (clearPause p d3).ports = (onPort p (fun t => t.lost d.now) d).ports := by
    unfold clearPause
    rw [hn3, onPort_ports_congr p _ hp3, ← hd2]
    unfold onPort
    rw [hp1]
    simp only [vmod, Vector.set_set]
    simp [PortS.lost]
  have hc3 : cfg (clearPause p d3) (0x2300 + p.val) 0x31 = cfg d (0x2300 + p.val) 0x31 := by
    refine (hr.cfg _ _ fun r h => roundCounters_loss p r (roundCounters_frame p h)).trans ?_
    rw [← hd2]
    exact hc1
  have hm4 : LinkMove d (bump (0x2300 + p.val) 0x31 (clearPause p d3)) := by
    refine hm2.trans (LinkMove.trans (LinkMove.trans ⟨hs, hr.mono fun _ => linkCounters_frame p⟩ (onPort_link p _ d3)) (bump_link _ _ _ ?_))
    exact List.mem_append_right _ (List.mem_map_of_mem (List.mem_finRange p))
  have hc4 : cfg (bump (0x2300 + p.val) 0x31 (clearPause p d3)) (0x2300 + p.val) 0x31 = min 0xFFFFFFFF (cfg d (0x2300 + p.val) 0x31 + 1) := by
    rw [cfg_bump_self _ _ _ (loss_default p), hc3]
  have hq4 : ∀ q, queueOf (bump (0x2300 + p.val) 0x31 (clearPause p d3)) p q = [] := fun q => (bump_queueOf _ _ _ p q).trans (hq q)
  have hp4 : (bump (0x2300 + p.val) 0x31 (clearPause p d3)).ports = (onPort p (fun t => t.lost d.now) d).ports := (bump_ports _ _ _).trans hports
  generalize bump (0x2300 + p.val) 0x31 (clearPause p d3) = d4 at *
  have hdown : portUp d4 p = false := by
    unfold portUp
    rw [hp4, onPort_self]
    rfl
  have hshut := lossFollows_shut (laneFor d (isRear p)) p d4
  exact ⟨hshut.ports.trans hp4, fun q => (hshut.queues p hdown q).trans (hq4 q),
    ((lossFollows_regs _ p d4).cfg _ _ (roundCounters_loss p)).trans hc4, fun h => lossFollows_heard _ h d4,
    hm4.trans ⟨lossFollows_sent _ p d4, (lossFollows_regs _ p d4).mono fun _ => linkCounters_round⟩⟩

/-- A port that enters Up. -/
def PortS.risen (t : PortS) (now : Nat) : PortS := { t with link := .up, holdEnd := none, downSince := none, pauseSince := now }

/-- What a port that enters Up leaves: the port as risen, and on a backbone port a probe. -/
structure LinkRisen (p : Port) (d e : Dev) : Prop where
  ports : e.ports = (onPort p (fun t => t.risen d.now) d).ports
  probed : isBackbone p = true → scEnabled d = true → ∃ round seq body, Out.springcount p d.chip.ident round seq 0 0 false (.probe body) ∈ e.out
  move : LinkMove d e

theorem backboneUp_ports (p : Port) (d : Dev) : (backboneUp p d).ports = d.ports :=
  (backboneUp_framed (L := [.out, .regs, .inaug, .queues, .counters]) p d (by decide) (.refl _ d)).same .ports (by decide)

theorem backboneUp_probes (h : isBackbone p = true) (hs : scEnabled d = true) :
    ∃ round seq body, Out.springcount p d.chip.ident round seq 0 0 false (.probe body) ∈ (backboneUp p d).out := by
  have hs' : scEnabled (onBack p (fun _ => BackPort.reset) d) = true := hs
  unfold backboneUp
  rw [if_pos h]
  dsimp only
  rw [if_pos hs']
  have hm := createSc_mem (ports := [p]) hs' (.head _) (.probe (probeBody (onBack p (fun _ => BackPort.reset) d) p))
  exact ⟨_, _, _, (sendHello_link p _).sent _ hm⟩

theorem enterUp_risen (p : Port) (d : Dev) : LinkRisen p d (enterUp p d) := by
  unfold enterUp
  dsimp only
  generalize hd1 : onPort p (fun t => { t with link := .up, holdEnd := none, downSince := none, pauseSince := d.now }) d = d1
  generalize (isBackbone p && !sideUp d (isRear p)) = first
  generalize hd2 : (if first = true then onSleep _ d1 else d1 : Dev) = d2
  have hp2 : d2.ports = (onPort p (fun t => t.risen d.now) d).ports ∧ LinkMove d d2 ∧ d2.chip = d.chip := by
    rw [← hd2, ← hd1]
    split <;> exact ⟨rfl, .of_eq rfl rfl, rfl⟩
  obtain ⟨hp2, hm2, hchip2⟩ := hp2
  have hm3 : LinkMove d (raise evLinkUp p.val d2) := hm2.trans (raise_move _ _ _).link
  have hf3 : Framed eventParts d2 (raise evLinkUp p.val d2) := raise_framed _ _ _ (by decide) (.refl _ _)
  generalize raise evLinkUp p.val d2 = d3 at *
  have hm4 := hm3.trans (timePortUp_link p d3)
  have hf4 : Framed [.fresh, .out, .regs, .queues, .time, .counters] d3 (timePortUp p d3) := timePortUp_framed p d3 (by decide) (.refl _ d3)
  generalize timePortUp p d3 = d4 at *
  have hchip4 : d4.chip = d.chip := (hf4.same .chip (by decide)).trans ((hf3.same .chip (by decide)).trans hchip2)
  have hports4 : d4.ports = (onPort p (fun t => t.risen d.now) d).ports := (hf4.same .ports (by decide)).trans ((hf3.same .ports (by decide)).trans hp2)
  have hoffers : LinkMove (backboneUp p d4) (if isBackbone p = true then sendOffers p (backboneUp p d4) else backboneUp p d4) :=
    .ite (sendOffers_link p _) (.refl _)
  have hofferports : (if isBackbone p = true then sendOffers p (backboneUp p d4) else backboneUp p d4).ports = (backboneUp p d4).ports := by
    split
    · exact (sendOffers_framed (L := [.out, .regs, .queues, .counters]) p _ (by decide) (.refl _ _)).same .ports (by decide)
    · rfl
  have hend := hoffers.trans (laneChange_link (laneFor d (isRear p)) p _)
  refine ⟨?_, fun hb hs => ?_, (hm4.trans (backboneUp_link p d4)).trans hend⟩
  · rw [show _ = _ from (laneChange_framed (L := [.sched, .strm]) _ p _ (by decide) (.refl _ _)).same .ports (by decide), hofferports, backboneUp_ports, hports4]
  · have hs4 : scEnabled d4 = true := by
      unfold scEnabled cfgB
      rw [hm4.regs.cfg 0x2100 1 (by decide +kernel)]
      exact hs
    obtain ⟨round, seq, body, hm⟩ := backboneUp_probes hb hs4
    exact ⟨round, seq, body, hend.sent _ (hchip4 ▸ hm)⟩

theorem laneCounts_onPort (up : Bool) (d : Dev) : laneCounts (onPort p (fun t => { t with laneUp := up }) d) p =
    (up && (decide (portReg d p 0x0D ≠ 1) || d.ports.p[p].phyLink)) := by
  unfold laneCounts
  rw [onPort_self]
  rfl

/-- What judging a lane leaves: the other ports, and the port's reads of its PHY. -/
structure LaneJudged (p : Port) (d e : Dev) : Prop where
  others : ∀ q ≠ p, e.ports.p[q] = d.ports.p[q]
  phyLink : e.ports.p[p].phyLink = d.ports.p[p].phyLink
  statusPoll : e.ports.p[p].statusPoll = d.ports.p[p].statusPoll
  move : LinkMove d e

theorem LaneJudged.onPort (f : PortS → PortS) (h1 : ∀ t, (f t).phyLink = t.phyLink) (h2 : ∀ t, (f t).statusPoll = t.statusPoll)
    (d : Dev) : LaneJudged p d (Machine.onPort p f d) :=
  ⟨fun _ h => onPort_ne h f d, by rw [onPort_self]; exact h1 _, by rw [onPort_self]; exact h2 _, onPort_link p f d⟩

theorem LaneJudged.trans (h1 : LaneJudged p a b) (h2 : LaneJudged p b c) : LaneJudged p a c :=
  ⟨fun q h => (h2.others q h).trans (h1.others q h), h2.phyLink.trans h1.phyLink, h2.statusPoll.trans h1.statusPoll, h1.move.trans h2.move⟩

theorem LaneJudged.of_ports {f : PortS → PortS} (hp : b.ports = (Machine.onPort p f a).ports) (h1 : ∀ t, (f t).phyLink = t.phyLink)
    (h2 : ∀ t, (f t).statusPoll = t.statusPoll) (hm : LinkMove a b) : LaneJudged p a b := by
  have h := LaneJudged.onPort (p := p) f h1 h2 a
  exact ⟨fun q hq => by rw [hp]; exact h.others q hq, by rw [hp]; exact h.phyLink, by rw [hp]; exact h.statusPoll, hm⟩

theorem judgeLane_judged (p : Port) (d : Dev) : LaneJudged p d (judgeLane p d) := by
  unfold judgeLane
  dsimp only
  generalize hd : onPort p (fun t => { t with
    anRestart := if laneCounts d p || !autoNeg d p then none else t.anRestart <|> some (d.now + 10 * msNs) }) d = e
  refine LaneJudged.trans (b := e) (by rw [← hd]; refine LaneJudged.onPort _ ?_ ?_ d <;> exact fun _ => rfl) ?_
  clear hd
  have hsame : LaneJudged p e e := ⟨fun _ _ => rfl, rfl, rfl, .refl e⟩
  have hset : ∀ f : PortS → PortS, (∀ t, (f t).phyLink = t.phyLink) → (∀ t, (f t).statusPoll = t.statusPoll) → LaneJudged p e (onPort p f e) :=
    fun f h1 h2 => .onPort f h1 h2 e
  split
  · split
    · exact hsame
    · split
      · exact .of_ports (enterUp_risen p e).ports (fun _ => rfl) (fun _ => rfl) (enterUp_risen p e).move
      · exact hset _ (fun _ => rfl) fun _ => rfl
  · split
    · exact hsame
    · exact hset _ (fun _ => rfl) fun _ => rfl
  · split
    · exact hset _ (fun _ => rfl) fun _ => rfl
    · split
      · exact .of_ports (loseLink_lost p e).ports (fun _ => rfl) (fun _ => rfl) (loseLink_lost p e).move
      · split
        · exact hsame
        · exact hset _ (fun _ => rfl) fun _ => rfl
  · exact hsame

end links

/-! ### Lanes (R164 to R169) -/

section lanes

variable {s : State} {d : Dev} {p : Port}

/-- A port whose lane has been judged, before its link follows. -/
def laneTimed (p : Port) (d : Dev) : Dev :=
  onPort p (fun t => { t with anRestart := if laneCounts d p || !autoNeg d p then none else t.anRestart <|> some (d.now + 10 * msNs) }) d

theorem laneTimed_link : (laneTimed p d).ports.p[p].link = d.ports.p[p].link := by
  rw [laneTimed, onPort_self]

theorem judgeLane_acquiring (hl : d.ports.p[p].link = .acquiring) : judgeLane p d =
    if !laneCounts d p then laneTimed p d
    else if portReg d p 0x0C = 0 then enterUp p (laneTimed p d)
    else onPort p (fun t => { t with link := .upHold, holdEnd := some (d.now + portReg d p 0x0C * msNs) }) (laneTimed p d) := by
  show (match (laneTimed p d).ports.p[p].link with
    | .acquiring => _
    | .upHold => _
    | .up => _
    | _ => _) = _
  rw [laneTimed_link, hl]
  rfl

theorem judgeLane_up (hl : d.ports.p[p].link = .up) (hc : laneCounts d p = false) : judgeLane p d =
    if portReg d p 0x0B = 0 then loseLink p (laneTimed p d)
    else if d.ports.p[p].downSince.isSome then laneTimed p d
    else onPort p (fun t => { t with downSince := some d.now }) (laneTimed p d) := by
  have hdown : (laneTimed p d).ports.p[p].downSince = d.ports.p[p].downSince := by rw [laneTimed, onPort_self]
  show (match (laneTimed p d).ports.p[p].link with
    | .acquiring => _
    | .upHold => _
    | .up => if laneCounts d p then onPort p (fun t => { t with downSince := none }) (laneTimed p d)
      else if portReg d p 0x0B = 0 then loseLink p (laneTimed p d)
      else if (laneTimed p d).ports.p[p].downSince.isSome then laneTimed p d
      else onPort p (fun t => { t with downSince := some d.now }) (laneTimed p d)
    | _ => _) = _
  rw [laneTimed_link, hl]
  show (if laneCounts d p then onPort p (fun t => { t with downSince := none }) (laneTimed p d)
    else if portReg d p 0x0B = 0 then loseLink p (laneTimed p d)
    else if (laneTimed p d).ports.p[p].downSince.isSome then laneTimed p d
    else onPort p (fun t => { t with downSince := some d.now }) (laneTimed p d)) = _
  rw [if_neg (by rw [hc]; decide), hdown]

theorem judgeSleep_ports (d : Dev) : (judgeSleep d).ports = d.ports :=
  (judgeSleep_framed (L := [.out, .regs, .recd, .sleep, .ints, .counters]) d (by decide) (.refl _ d)).same .ports (by decide)

/-- What the statement says of a lost link holds after the sleep judgement too. -/
theorem LinkLost.judged {e : Dev} (h : LinkLost p d e) : LinkLost p d (judgeSleep e) := by
  have hf : Framed [.out, .regs, .recd, .sleep, .ints, .counters] e (judgeSleep e) := judgeSleep_framed e (by decide) (.refl _ e)
  have hm := judgeSleep_move e
  exact ⟨(judgeSleep_ports e).trans h.ports, fun q => (queueOf_of_queues (queues_of_framed hf (by decide)) p q).trans (h.queues q),
    (hm.regs.cfg _ _ (roundCounters_loss p)).trans h.counted, fun hb => by rw [hm.backOf]; exact h.unheard hb, h.move.trans hm.link⟩

/-- The port of a lost link. -/
theorem LinkLost.port {e : Dev} (h : LinkLost p d e) : e.ports.p[p] = d.ports.p[p].lost d.now := by
  rw [h.ports, onPort_self]

theorem laneUp_exec (hl : s.dev.ports.p[p].link = .acquiring) :
    exec (.laneUp p) s = s.does fun d => judgeSleep (judgeLane p (onPort p (fun t => { t with laneUp := true }) d)) := by
  show execLaneUp p s = _
  unfold execLaneUp
  refine judged_congr ?_
  have hl : s.found.ports.p[p].link = .acquiring := hl
  rw [hl]

theorem laneDown_exec (hl : s.dev.ports.p[p].link = .up) :
    exec (.laneDown p) s = s.does fun d => judgeSleep (judgeLane p (onPort p (fun t => { t with laneUp := false }) d)) := by
  show execLaneDown p s = _
  unfold execLaneDown
  refine judged_congr ?_
  have hl : s.found.ports.p[p].link = .up := hl
  rw [hl]

/-- The device of a lane that has come up, before its port is judged. -/
abbrev laneRisen (p : Port) (d : Dev) : Dev := onPort p (fun t => { t with laneUp := true }) d

theorem laneRisen_link : (laneRisen p d).ports.p[p].link = d.ports.p[p].link := by rw [onPort_self]

theorem laneCounts_risen : laneCounts (laneRisen p d) p = (decide (portReg d p 0x0D ≠ 1) || d.ports.p[p].phyLink) :=
  (laneCounts_onPort true d).trans (Bool.true_and _)

theorem judgeLane_risen (hl : d.ports.p[p].link = .acquiring) : judgeLane p (laneRisen p d) =
    if !(decide (portReg d p 0x0D ≠ 1) || d.ports.p[p].phyLink) then laneTimed p (laneRisen p d)
    else if portReg d p 0x0C = 0 then enterUp p (laneTimed p (laneRisen p d))
    else onPort p (fun t => { t with link := .upHold, holdEnd := some (d.now + portReg d p 0x0C * msNs) }) (laneTimed p (laneRisen p d)) := by
  rw [judgeLane_acquiring (laneRisen_link.trans hl), laneCounts_risen]
  rfl

theorem laneUp_rises (hl : s.dev.ports.p[p].link = .acquiring) (hc : (decide (portReg s.dev p 0x0D ≠ 1) || s.dev.ports.p[p].phyLink) = true)
    (h0 : portReg s.dev p 0x0C = 0) : Completes (.laneUp p) s fun d => d.ports.p[p].link = .up ∧ d.ports.p[p].laneUp = true ∧
      (isBackbone p = true → scEnabled s.dev = true → ∃ round seq body,
        Out.springcount p s.dev.chip.ident round seq 0 0 false (.probe body) ∈ d.out) := by
  refine completes_of_exec (laneUp_exec hl) ?_
  have hc : (decide (portReg s.found p 0x0D ≠ 1) || s.found.ports.p[p].phyLink) = true := hc
  rw [judgeLane_risen (d := s.found) hl, hc, if_neg (by decide), if_pos (show portReg s.found p 0x0C = 0 from h0)]
  have h := enterUp_risen p (laneTimed p (laneRisen p s.found))
  have hj := judgeSleep_ports (enterUp p (laneTimed p (laneRisen p s.found)))
  have hs := judgeSleep_sent (enterUp p (laneTimed p (laneRisen p s.found)))
  have hport : (laneTimed p (laneRisen p s.found)).ports.p[p].laneUp = true := by rw [laneTimed, onPort_self, onPort_self]
  refine ⟨?_, ?_, fun hb he => ?_⟩
  · rw [hj, h.ports, onPort_self]
    rfl
  · rw [hj, h.ports, onPort_self]
    exact hport
  · obtain ⟨round, seq, body, hm⟩ := h.probed hb he
    exact ⟨round, seq, body, hs _ hm⟩

theorem laneUp_holds (hl : s.dev.ports.p[p].link = .acquiring) (hc : (decide (portReg s.dev p 0x0D ≠ 1) || s.dev.ports.p[p].phyLink) = true)
    (h0 : portReg s.dev p 0x0C ≠ 0) : Completes (.laneUp p) s fun d => d.ports.p[p] = { s.dev.ports.p[p] with
      link := .upHold, laneUp := true, anRestart := none, holdEnd := some (s.dev.now + portReg s.dev p 0x0C * msNs) } := by
  refine completes_of_exec (laneUp_exec hl) ?_
  have hcount : laneCounts (laneRisen p s.found) p = true := laneCounts_risen.trans hc
  have hc : (decide (portReg s.found p 0x0D ≠ 1) || s.found.ports.p[p].phyLink) = true := hc
  rw [judgeLane_risen (d := s.found) hl, hc, if_neg (by decide), if_neg (show ¬ portReg s.found p 0x0C = 0 from h0), judgeSleep_ports, onPort_self, laneTimed, onPort_self,
    onPort_self, hcount, Bool.true_or, if_pos rfl]
  rfl

theorem laneUp_waits (hl : s.dev.ports.p[p].link = .acquiring) (hc : (decide (portReg s.dev p 0x0D ≠ 1) || s.dev.ports.p[p].phyLink) = false) :
    Completes (.laneUp p) s fun d => d.ports.p[p] = { s.dev.ports.p[p] with
      laneUp := true, anRestart := if autoNeg s.dev p then s.dev.ports.p[p].anRestart <|> some (s.dev.now + 10 * msNs) else none } := by
  refine completes_of_exec (laneUp_exec hl) ?_
  have hcount : laneCounts (laneRisen p s.found) p = false := laneCounts_risen.trans hc
  have han : autoNeg (laneRisen p s.found) p = autoNeg s.dev p := rfl
  have hc : (decide (portReg s.found p 0x0D ≠ 1) || s.found.ports.p[p].phyLink) = false := hc
  rw [judgeLane_risen (d := s.found) hl, hc, if_pos (by decide), judgeSleep_ports, laneTimed, onPort_self, onPort_self, hcount, han]
  cases autoNeg s.dev p <;> rfl

/-- What the statement says of a lost link. -/
def LostFrom (p : Port) (a d : Dev) : Prop :=
  d.ports.p[p].link = .acquiring ∧ (∀ q : Fin 8, queueOf d p q = []) ∧ d.ports.p[p].pauseUntil = none ∧ d.ports.p[p].pauseAcc = 0 ∧
    cfg d (0x2300 + p.val) 0x31 = min 0xFFFFFFFF (cfg a (0x2300 + p.val) 0x31 + 1) ∧ (isBackbone p = true → (backOf d p).heard = none)

theorem LinkLost.lostFrom {a e : Dev} (h : LinkLost p d e) (hd : d.dict = a.dict) : LostFrom p a e := by
  refine ⟨?_, h.queues, ?_, ?_, ?_, h.unheard⟩
  · rw [h.port]; rfl
  · rw [h.port]; rfl
  · rw [h.port]; rfl
  · rw [h.counted, cfg_of_dict hd]

/-- The device of a lane that has gone down, before its port is judged. -/
abbrev laneFallen (p : Port) (d : Dev) : Dev := onPort p (fun t => { t with laneUp := false }) d

theorem laneFallen_port : (laneFallen p d).ports.p[p] = { d.ports.p[p] with laneUp := false } := onPort_self _ _ _

theorem judgeLane_fallen (hl : d.ports.p[p].link = .up) : judgeLane p (laneFallen p d) =
    if portReg d p 0x0B = 0 then loseLink p (laneTimed p (laneFallen p d))
    else if d.ports.p[p].downSince.isSome then laneTimed p (laneFallen p d)
    else onPort p (fun t => { t with downSince := some d.now }) (laneTimed p (laneFallen p d)) := by
  have h := judgeLane_up (d := laneFallen p d) (p := p) (by rw [laneFallen_port]; exact hl) (laneCounts_onPort false d)
  rw [laneFallen_port] at h
  exact h

theorem laneDown_loses (hl : s.dev.ports.p[p].link = .up) (h0 : portReg s.dev p 0x0B = 0) : Completes (.laneDown p) s (LostFrom p s.dev) := by
  refine completes_of_exec (laneDown_exec hl) ?_
  rw [judgeLane_fallen (d := s.found) hl, if_pos (show portReg s.found p 0x0B = 0 from h0)]
  exact (loseLink_lost p _).judged.lostFrom rfl

theorem laneDown_debounces (hl : s.dev.ports.p[p].link = .up) (h0 : portReg s.dev p 0x0B ≠ 0) : Completes (.laneDown p) s fun d =>
    d.ports.p[p].link = .up ∧ d.ports.p[p].laneUp = false ∧ d.ports.p[p].downSince = some (s.dev.ports.p[p].downSince.getD s.dev.now) := by
  refine completes_of_exec (laneDown_exec hl) ?_
  rw [judgeLane_fallen (d := s.found) hl, if_neg (show ¬ portReg s.found p 0x0B = 0 from h0), judgeSleep_ports]
  have hl : s.found.ports.p[p].link = .up := hl
  split
  · next hs =>
    obtain ⟨t, ht⟩ := Option.isSome_iff_exists.mp hs
    rw [laneTimed, onPort_self, laneFallen_port]
    exact ⟨hl, rfl, ht.trans (by rw [show s.dev.ports.p[p].downSince = some t from ht]; rfl)⟩
  · next hs =>
    have hn : s.dev.ports.p[p].downSince = none := Option.not_isSome_iff_eq_none.mp hs
    rw [onPort_self, laneTimed, onPort_self, laneFallen_port, hn]
    exact ⟨hl, rfl, rfl⟩

theorem linkDownDebounce_loses {t : Nat} (hl : s.dev.ports.p[p].link = .up) (ht : s.dev.ports.p[p].downSince = some t) :
    Completes (.linkDownDebounce p) s fun d => LostFrom p s.dev d ∧ d.now = max s.dev.now (t + portReg s.dev p 0x0B * usNs) := by
  have hrun : exec (.linkDownDebounce p) s = s.does fun d => judgeSleep (loseLink p (arrive (t + portReg d p 0x0B * usNs) d)) := by
    show execLinkDownDebounce p s = _
    unfold execLinkDownDebounce
    refine judged_congr ?_
    have hl : s.found.ports.p[p].link = .up := hl
    have ht : s.found.ports.p[p].downSince = some t := ht
    rw [hl, ht]
  refine completes_of_exec hrun ?_
  have h := (loseLink_lost p (arrive (t + portReg s.found p 0x0B * usNs) s.found)).judged
  refine ⟨h.lostFrom (arrive_dict _ _), ?_⟩
  have hnow : ∀ e, (judgeSleep (loseLink p e)).now = e.now := fun e => by
    rw [judgeSleep_now]
    exact congrArg Prod.fst ((loseLink_framed (L := [.fresh, .out, .regs, .inaug, .queues, .ports, .time, .sched, .strm, .recd, .host, .ints, .counters]) p e
      (by decide) (.refl _ e)).same .clock (by decide))
  rw [hnow, arrive_now]
  rfl

theorem linkUpHold_rises {t : Nat} (hl : s.dev.ports.p[p].link = .upHold) (ht : s.dev.ports.p[p].holdEnd = some t) :
    Completes (.linkUpHold p) s fun d => d.ports.p[p].link = .up ∧ d.ports.p[p].holdEnd = none ∧ d.now = max s.dev.now t := by
  have hrun : exec (.linkUpHold p) s = s.does fun d => judgeSleep (enterUp p (arrive t d)) := by
    show execLinkUpHold p s = _
    unfold execLinkUpHold
    refine judged_congr ?_
    have hl : s.found.ports.p[p].link = .upHold := hl
    have ht : s.found.ports.p[p].holdEnd = some t := ht
    rw [hl, ht]
  refine completes_of_exec hrun ?_
  have hnow : (judgeSleep (enterUp p (arrive t s.found))).now = (arrive t s.found).now := by
    rw [judgeSleep_now]
    exact congrArg Prod.fst ((enterUp_framed (L := [.fresh, .out, .regs, .inaug, .queues, .ports, .time, .sched, .strm, .recd, .sleep, .ints, .counters]) p _
      (by decide) (.refl _ _)).same .clock (by decide))
  rw [judgeSleep_ports, (enterUp_risen p _).ports, onPort_self, hnow, arrive_now]
  exact ⟨rfl, rfl, rfl⟩

theorem autoNegotiation_restarts {t : Nat} (ht : s.dev.ports.p[p].anRestart = some t) : Completes (.autoNegotiationRestart p) s fun d =>
    d.ports.p[p] = { s.dev.ports.p[p] with anRestart := if autoNeg s.dev p && !laneCounts s.dev p then some (d.now + 10 * msNs) else none } ∧
      d.now = max s.dev.now t ∧ Framed [.clock, .counters, .ports] s.found d := by
  have hrun : exec (.autoNegotiationRestart p) s = s.does fun d =>
      onPort p (fun x => { x with anRestart := if autoNeg d p && !laneCounts d p then some ((arrive t d).now + 10 * msNs) else none }) (arrive t d) := by
    show execAutoNegotiationRestart p s = _
    unfold execAutoNegotiationRestart
    refine does_congr ?_
    have ht : s.found.ports.p[p].anRestart = some t := ht
    rw [ht]
  refine completes_of_exec hrun ⟨?_, arrive_now t s.found, ?_⟩
  · rw [onPort_self, arrive_ports]
    rfl
  · exact onPort_framed _ _ _ (by decide) (arrive_framed _ _ (by decide) (.refl _ _))

end lanes

/-! ### PHY scripts (R169, R173) -/

section scripts

variable {s : State} {d : Dev} {p q : Port}

/-- The end of a script may make status reads due, and changes nothing else of a port. -/
theorem scriptEnded_port (p q : Port) (d : Dev) : ∃ sp, (scriptEnded p d).ports.p[q] = { d.ports.p[q] with statusPoll := sp } := by
  have hone : ∀ (x : Port) (e : Dev), ∃ sp, (if portReg e x 0x0D = 1 then onPort x (fun t => { t with statusPoll := some e.now }) e else e).ports.p[q] =
      { e.ports.p[q] with statusPoll := sp } := fun x e => by
    split
    · by_cases hx : q = x
      · subst hx
        exact ⟨_, onPort_self _ _ _⟩
      · exact ⟨_, onPort_ne hx _ _⟩
    · exact ⟨_, rfl⟩
  have hall : ∀ (l : List Port) (e : Dev), ∃ sp,
      (forEach l (fun x d => if portReg d x 0x0D = 1 then onPort x (fun t => { t with statusPoll := some d.now }) d else d) e).ports.p[q] =
        { e.ports.p[q] with statusPoll := sp } := fun l e => by
    induction l generalizing e with
    | nil => exact ⟨_, rfl⟩
    | cons x l ih =>
      obtain ⟨sp, h⟩ := ih (if portReg e x 0x0D = 1 then onPort x (fun t => { t with statusPoll := some e.now }) e else e)
      obtain ⟨sp', h'⟩ := hone x e
      exact ⟨sp, h.trans (by rw [h'])⟩
  unfold scriptEnded
  dsimp only
  split
  · exact hall _ _
  · exact ⟨_, rfl⟩

theorem scriptEnded_now (p : Port) (d : Dev) : (scriptEnded p d).now = d.now :=
  congrArg Prod.fst ((scriptEnded_framed (L := [.ports]) p d (by decide) (.refl _ d)).same .clock (by decide))

theorem enterAcquiring_port (p : Port) (d : Dev) : (enterAcquiring p d).ports.p[p].link = .acquiring ∧
    (enterAcquiring p d).ports.p[p].script = none ∧ (enterAcquiring p d).ports.p[p].releaseAt = none ∧ (enterAcquiring p d).now = d.now := by
  unfold enterAcquiring adaptReceiver
  dsimp only
  generalize he : onPort p _ d = e
  have hport : (draw (draw e)).ports.p[p] = e.ports.p[p] := rfl
  have hacq : e.ports.p[p].link = .acquiring ∧ e.ports.p[p].script = none ∧ e.ports.p[p].releaseAt = none ∧ e.now = d.now := by
    rw [← he, onPort_self]
    exact ⟨rfl, rfl, rfl, rfl⟩
  rw [onPort_self, hport]
  split <;> exact hacq

/-- What a script that ran leaves: its accesses take no time and change no port. -/
theorem scriptAccesses_framed (p : Port) (l : List PhyOp) (d : Dev) : Framed [.fresh, .out] d (forEach l (scriptAccess p) d) :=
  forEach_framed l _ _ (.refl _ d) fun r e he => scriptAccess_framed p r e (by decide) he

/-- A port whose script has ended with a fault. -/
theorem scriptFails_port (p : Port) (d : Dev) : (scriptFails p d).ports.p[p].link = .phyFault ∧ (scriptFails p d).ports.p[p].script = none ∧
    (scriptFails p d).now = d.now := by
  unfold scriptFails
  obtain ⟨sp, h⟩ := scriptEnded_port p p (raise evPhyFault p.val (onPort p (fun t => { t with link := .phyFault, script := none, laneUp := false }) d))
  rw [h, scriptEnded_now, raise_ports, onPort_self, raise_now]
  exact ⟨rfl, rfl, rfl⟩

theorem scriptSucceeds_port (p : Port) (d : Dev) : (scriptEnded p (enterAcquiring p d)).ports.p[p].link = .acquiring ∧
    (scriptEnded p (enterAcquiring p d)).ports.p[p].script = none ∧ (scriptEnded p (enterAcquiring p d)).now = d.now := by
  obtain ⟨sp, h⟩ := scriptEnded_port p p (enterAcquiring p d)
  obtain ⟨h1, h2, -, h4⟩ := enterAcquiring_port p d
  rw [h, scriptEnded_now]
  exact ⟨h1, h2, h4⟩

theorem phyReleaseDelay_starts {t : Nat} (hl : s.dev.ports.p[p].link = .phyStart) (ht : s.dev.ports.p[p].releaseAt = some t) :
    Completes (.phyReleaseDelay p) s fun d => d.now = max s.dev.now t ∧ d.ports.p[p].releaseAt = none ∧
      if phyScript s.dev p = [] then d.ports.p[p].link = .acquiring
      else d.ports.p[p].link = .phyStart ∧ ∃ r, d.ports.p[p].script = some r ∧ r.record = 0 := by
  have hrun : exec (.phyReleaseDelay p) s = s.does fun d => startScript p (arrive t d) := by
    show execPhyReleaseDelay p s = _
    unfold execPhyReleaseDelay
    refine does_congr ?_
    have hl : s.found.ports.p[p].link = .phyStart := hl
    have ht : s.found.ports.p[p].releaseAt = some t := ht
    rw [hl, ht]
  refine completes_of_exec hrun ?_
  have hscript : phyScript (arrive t s.found) p = phyScript s.dev p := by
    unfold phyScript cfgBytes
    rw [arrive_dict]
    rfl
  have hnow := arrive_now t s.found
  have hports : (arrive t s.found).ports = s.dev.ports := arrive_ports t s.found
  unfold startScript
  dsimp only
  rw [hscript]
  generalize arrive t s.found = a at *
  by_cases hnil : phyScript s.dev p = []
  · rw [hnil, if_pos (by rfl), if_pos rfl]
    obtain ⟨h1, -, h3, h4⟩ := enterAcquiring_port p a
    exact ⟨h4.trans hnow, h3, h1⟩
  · rw [if_neg (by simpa using hnil), if_neg hnil, onPort_self, hports]
    exact ⟨hnow, rfl, hl, _, rfl, rfl⟩

theorem phyScriptComplete_ends {r : ScriptRun} (hl : s.dev.ports.p[p].link = .phyStart) (hr : s.dev.ports.p[p].script = some r)
    (ok : Bool) (record : BitVec 8) : Completes (.phyScriptComplete p ok record) s fun d =>
      d.ports.p[p].link = (if ok then .acquiring else .phyFault) ∧ d.ports.p[p].script = none ∧
        let script := phyScript s.dev p
        d.now = max s.dev.now (r.started + scriptNs s.dev p (if ok then script else script.take (record.toNat + 1))) := by
  have hrun : exec (.phyScriptComplete p ok record) s = s.does fun d =>
      let ran := if ok then phyScript d p else (phyScript d p).take (record.toNat + 1)
      let d1 := forEach ran (scriptAccess p) (arrive (r.started + scriptNs d p ran) d)
      if ok then scriptEnded p (enterAcquiring p d1) else scriptFails p d1 := by
    show execPhyScriptComplete p ok record s = _
    unfold execPhyScriptComplete
    refine does_congr ?_
    have hl : s.found.ports.p[p].link = .phyStart := hl
    have hr : s.found.ports.p[p].script = some r := hr
    rw [hl, hr]
  refine completes_of_exec hrun ?_
  dsimp only
  have hnow : ∀ ran, (forEach ran (scriptAccess p) (arrive (r.started + scriptNs s.found p ran) s.found)).now =
      max s.dev.now (r.started + scriptNs s.dev p ran) := fun ran =>
    (congrArg Prod.fst ((scriptAccesses_framed p ran _).same .clock (by decide))).trans (arrive_now _ s.found)
  cases ok with
  | true =>
    obtain ⟨h1, h2, h3⟩ := scriptSucceeds_port p (forEach (phyScript s.found p) (scriptAccess p)
      (arrive (r.started + scriptNs s.found p (phyScript s.found p)) s.found))
    exact ⟨h1, h2, h3.trans (hnow _)⟩
  | false =>
    obtain ⟨h1, h2, h3⟩ := scriptFails_port p (forEach ((phyScript s.found p).take (record.toNat + 1)) (scriptAccess p)
      (arrive (r.started + scriptNs s.found p ((phyScript s.found p).take (record.toNat + 1))) s.found))
    exact ⟨h1, h2, h3.trans (hnow _)⟩

/-- Among several polls the one that is not satisfied is one of them. -/
theorem unsatisfiedPoll_mem (n : Nat) {l : List (List PhyOp)} (h : l ≠ []) : ∃ x ∈ l, unsatisfiedPoll n l = some x := by
  have hpos : 0 < l.length := List.length_pos_iff.mpr h
  unfold unsatisfiedPoll
  split
  · next x => exact ⟨x, .head _, rfl⟩
  · have hlt := Nat.mod_lt n hpos
    exact ⟨l[n % l.length], List.getElem_mem hlt, List.getElem?_eq_getElem hlt⟩

theorem phyScriptPollTimeout_fails {r : ScriptRun} (hl : s.dev.ports.p[p].link = .phyStart) (hr : s.dev.ports.p[p].script = some r)
    (hpolls : pollPrefixes (phyScript s.dev p) ≠ []) : Completes (.phyScriptPollTimeout p) s fun d =>
      d.ports.p[p].link = .phyFault ∧ d.ports.p[p].script = none ∧
        ∃ before ∈ pollPrefixes (phyScript s.dev p), d.now = max s.dev.now (r.started + scriptNs s.dev p before + 100 * msNs) := by
  obtain ⟨before, hmem, hpoll⟩ := unsatisfiedPoll_mem (Config.freeNat s.found.fresh) hpolls
  have hrun : exec (.phyScriptPollTimeout p) s = s.does fun d => scriptFails p (forEach ((phyScript d p).take (before.length + 1)) (scriptAccess p)
      (arrive (r.started + scriptNs d p before + 100 * msNs) (draw d))) := by
    show execPhyScriptPollTimeout p s = _
    unfold execPhyScriptPollTimeout
    refine does_congr ?_
    have hl : s.found.ports.p[p].link = .phyStart := hl
    have hr : s.found.ports.p[p].script = some r := hr
    have hpoll : unsatisfiedPoll (Config.freeNat s.found.fresh) (pollPrefixes (phyScript s.found p)) = some before := hpoll
    rw [hl, hr, hpoll]
  refine completes_of_exec hrun ?_
  obtain ⟨h1, h2, h3⟩ := scriptFails_port p (forEach ((phyScript s.found p).take (before.length + 1)) (scriptAccess p)
    (arrive (r.started + scriptNs s.found p before + 100 * msNs) (draw s.found)))
  refine ⟨h1, h2, before, hmem, h3.trans ?_⟩
  exact (congrArg Prod.fst ((scriptAccesses_framed p _ _).same .clock (by decide))).trans (arrive_now _ (draw s.found))

end scripts

/-! ### PHY resets (R171, R185) -/

section resets

variable {s : State} {d : Dev} {p q : Port} {src : Src}

theorem leaveUp_groups (p : Port) (d : Dev) : (leaveUp p d).ports.phyReleased = d.ports.phyReleased ∧ (leaveUp p d).ports.pulseEnd = d.ports.pulseEnd := by
  unfold leaveUp
  split
  · rw [(loseLink_lost p d).ports]
    exact ⟨rfl, rfl⟩
  · exact ⟨rfl, rfl⟩

/-- A port of a group whose reset is pulsed. -/
def resetPort (p : Port) (d : Dev) : Dev :=
  if d.ports.p[p].link = .disabled then d
  else onPort p (fun t => { t with
    link := .phyStart, laneUp := false, downSince := none, holdEnd := none, releaseAt := none, script := none, anRestart := none }) (leaveUp p d)

theorem resetPort_ne (h : q ≠ p) (d : Dev) : (resetPort p d).ports.p[q] = d.ports.p[q] := by
  unfold resetPort
  split
  · rfl
  · rw [onPort_ne h, leaveUp_ne h]

theorem resetPort_self (p : Port) (d : Dev) : (resetPort p d).ports.p[p].link = if d.ports.p[p].link = .disabled then .disabled else .phyStart := by
  unfold resetPort
  by_cases h : d.ports.p[p].link = .disabled
  · rw [if_pos h, if_pos h]
    exact h
  · rw [if_neg h, if_neg h, onPort_self]

theorem resetPort_groups (p : Port) (d : Dev) : (resetPort p d).ports.phyReleased = d.ports.phyReleased ∧
    (resetPort p d).ports.pulseEnd = d.ports.pulseEnd := by
  unfold resetPort
  split
  · exact ⟨rfl, rfl⟩
  · exact leaveUp_groups p d

theorem resetPorts_reset (l : List Port) (d : Dev) : (forEach l resetPort d).ports.phyReleased = d.ports.phyReleased ∧
    (forEach l resetPort d).ports.pulseEnd = d.ports.pulseEnd ∧
    (∀ q ∉ l, (forEach l resetPort d).ports.p[q].link = d.ports.p[q].link) ∧
    ∀ q ∈ l, (forEach l resetPort d).ports.p[q].link = if d.ports.p[q].link = .disabled then .disabled else .phyStart := by
  induction l generalizing d with
  | nil => exact ⟨rfl, rfl, fun _ _ => rfl, fun _ h => absurd h List.not_mem_nil⟩
  | cons x l ih =>
    obtain ⟨h1, h2, h3, h4⟩ := ih (resetPort x d)
    obtain ⟨g1, g2⟩ := resetPort_groups x d
    refine ⟨h1.trans g1, h2.trans g2, fun q hq => ?_, fun q hq => ?_⟩
    · obtain ⟨hx, hl⟩ := not_or.mp fun h => hq (List.mem_cons.mpr h)
      exact (h3 q hl).trans (by rw [resetPort_ne hx])
    · by_cases hx : q = x
      · subst hx
        by_cases hl : q ∈ l
        · refine (h4 q hl).trans ?_
          rw [resetPort_self]
          by_cases hd : d.ports.p[q].link = .disabled
          · rw [if_pos hd, if_pos rfl]
          · rw [if_neg hd, if_neg (by decide)]
        · exact (h3 q hl).trans (resetPort_self q d)
      · exact (h4 q ((List.mem_cons.mp hq).resolve_left hx)).trans (by rw [resetPort_ne hx])

/-- The pulse of a group: its reset asserted for 10 ms, and its ports back at the start of their PHYs. -/
theorem pulseGroup_pulses (g : Fin 4) (d : Dev) : (pulseGroup g d).ports.phyReleased[g] = false ∧
    (pulseGroup g d).ports.pulseEnd[g] = some (d.now + 10 * msNs) ∧ ∀ q ∈ groupPorts g, (pulseGroup g d).ports.p[q].link =
      if d.ports.p[q].link = .disabled then .disabled else .phyStart := by
  have hended : ∀ (x : Port) (e : Dev), (scriptEnded x e).ports.phyReleased = e.ports.phyReleased ∧ (scriptEnded x e).ports.pulseEnd = e.ports.pulseEnd := fun x e => by
    have hfold : ∀ (l : List Port) (e : Dev),
        (forEach l (fun x d => if portReg d x 0x0D = 1 then onPort x (fun t => { t with statusPoll := some d.now }) d else d) e).ports.phyReleased = e.ports.phyReleased ∧
        (forEach l (fun x d => if portReg d x 0x0D = 1 then onPort x (fun t => { t with statusPoll := some d.now }) d else d) e).ports.pulseEnd = e.ports.pulseEnd := fun l e => by
      induction l generalizing e with
      | nil => exact ⟨rfl, rfl⟩
      | cons y l ih =>
        obtain ⟨h1, h2⟩ := ih (if portReg e y 0x0D = 1 then onPort y (fun t => { t with statusPoll := some e.now }) e else e)
        refine ⟨h1.trans ?_, h2.trans ?_⟩ <;> split <;> rfl
    unfold scriptEnded
    dsimp only
    split
    · exact hfold _ _
    · exact ⟨rfl, rfl⟩
  have hrun : ∃ e, (pulseGroup g d = e ∨ ∃ x, pulseGroup g d = scriptEnded x e) ∧ e = forEach (groupPorts g) resetPort
      { d with ports := { d.ports with phyReleased := d.ports.phyReleased.set g.val false, pulseEnd := d.ports.pulseEnd.set g.val (some (d.now + 10 * msNs)) } } := by
    refine ⟨_, ?_, rfl⟩
    unfold pulseGroup
    dsimp only
    split
    · exact .inr ⟨_, rfl⟩
    · exact .inl rfl
  obtain ⟨e, he, hd⟩ := hrun
  have hset := resetPorts_reset (groupPorts g)
    { d with ports := { d.ports with phyReleased := d.ports.phyReleased.set g.val false, pulseEnd := d.ports.pulseEnd.set g.val (some (d.now + 10 * msNs)) } }
  rw [← hd] at hset
  obtain ⟨h1, h2, -, h3⟩ := hset
  have h1' : e.ports.phyReleased[g] = false := by rw [h1]; simp
  have h2' : e.ports.pulseEnd[g] = some (d.now + 10 * msNs) := by rw [h2]; simp
  rcases he with he | ⟨x, he⟩
  · rw [he]
    exact ⟨h1', h2', h3⟩
  · obtain ⟨g1, g2⟩ := hended x e
    rw [he, g1, g2]
    exact ⟨h1', h2', fun q hq => (scriptEnded_link x q e).trans (h3 q hq)⟩

theorem rowOf_phyReset (p : Port) : rowOf (0x2300 + p.val) 0x22 = some ⟨0x2300, 20, 1, 0x22, 1, .u8, 0x0022, .n 0, .vol, true, false, .oneOf [1]⟩ := by
  revert p
  decide +kernel

theorem rowOf_phyRegister (p : Port) : rowOf (0x2300 + p.val) 0x1C = some ⟨0x2300, 20, 1, 0x1C, 1, .u16, 0x0033, .n 0, .vol, true, false, .any⟩ := by
  revert p
  decide +kernel

theorem port_ofNat (p : Port) : Fin.ofNat 20 (0x2300 + p.val - 0x2300) = p := Fin.ext (by
  show (0x2300 + p.val - 0x2300) % 20 = p.val
  omega)

theorem specialError_port (d : Dev) (p : Port) (sub : Nat) (v : Value) : specialError d (0x2300 + p.val) sub v = none := by
  have := p.isLt
  unfold specialError
  dsimp only
  rw [if_neg (by simp; omega), if_neg (by simp; omega), if_neg (by simp; omega), if_neg (by simp; omega), if_neg (by simp; omega)]

theorem actOn_port (src : Src) (p : Port) {sub : Nat} (h : sub = 0x22 ∨ sub = 0x1C) (data : List Byte) (role n : Nat) (d : Dev) :
    actOn (writeOf src (0x2300 + p.val) sub 0 data) role (.num n) d = if sub = 0x1C then
        Act.when (portReg d p 0x16 ≠ 0xFF) (mdio p (bitsOf (portReg d p 0x1B) 20 16) (bitsOf (portReg d p 0x1B) 15 0) (some n) d)
      else Act.when (!resetRefused d p) (pulseGroup (groupOf p) d) := by
  have hp := p.isLt
  have h3 : (0x2300 ≤ 0x2300 + p.val && 0x2300 + p.val < 0x2314) = true := by simp; omega
  unfold actOn
  show (if 0x2300 + p.val < 0x2100 then _ else if 0x2700 ≤ 0x2300 + p.val && 0x2300 + p.val < 0x2780 then _
    else if 0x2300 + p.val < 0x2900 then netAct (writeOf src (0x2300 + p.val) sub 0 data) (.num n) d else _) = _
  rw [if_neg (by omega), if_neg (by simp; omega), if_pos (by omega)]
  unfold netAct
  show (if 0x2300 + p.val = 0x2100 && sub = 6 then _ else if 0x2300 + p.val = 0x2105 && sub = 1 then _
    else if 0x2300 + p.val = 0x2206 && sub = 3 then _ else if 0x2300 ≤ 0x2300 + p.val && 0x2300 + p.val < 0x2314 && sub = 0x1C then
      Act.when (portReg d (Fin.ofNat 20 (0x2300 + p.val - 0x2300)) 0x16 ≠ 0xFF) (mdio (Fin.ofNat 20 (0x2300 + p.val - 0x2300))
        (bitsOf (portReg d (Fin.ofNat 20 (0x2300 + p.val - 0x2300)) 0x1B) 20 16)
        (bitsOf (portReg d (Fin.ofNat 20 (0x2300 + p.val - 0x2300)) 0x1B) 15 0) (some n) d)
    else if 0x2300 ≤ 0x2300 + p.val && 0x2300 + p.val < 0x2314 && sub = 0x22 then
      Act.when (!resetRefused d (Fin.ofNat 20 (0x2300 + p.val - 0x2300))) (pulseGroup (groupOf (Fin.ofNat 20 (0x2300 + p.val - 0x2300))) d)
    else _) = _
  rw [if_neg (by simp; omega), if_neg (by simp; omega), if_neg (by simp; omega), port_ofNat, h3]
  rcases h with rfl | rfl
  · rw [if_neg (by decide), if_pos (by decide), if_neg (by decide)]
  · rw [if_pos (by decide), if_pos rfl]

theorem emit_pathOnly (src : Src) (o : Out) (d : Dev) : PathOnly src d (emit o d) := by
  have h : ∀ A : List Part, Part.out ∈ A → Framed A d (emit o d) := fun A hA => emit_framed o d (fun x hx => by
    rw [List.mem_singleton.mp hx]
    exact hA) (.refl _ d)
  cases src with
  | kda => exact ⟨h _ (by decide), .of_same rfl⟩
  | _ => exact h _ (by decide)

theorem PathOnly.portReg {a : Dev} (h : PathOnly src d a) (p : Port) {sub : Nat} (hs : sub < 0x23) : Machine.portReg a p sub = Machine.portReg d p sub := by
  have := p.isLt
  exact h.cfg_free (by unfold PathFree; omega)

theorem Reached.portReg {a : Dev} (h : Reached src s.found a) (p : Port) {sub : Nat} (hs : sub < 0x23) :
    Machine.portReg (bump 0x2003 1 a) p sub = Machine.portReg s.dev p sub := by
  refine (cfg_bump_ne _ _ _ _ _ ?_).trans (h.pathOnly.portReg (d := s.found) p hs)
  have := p.isLt
  unfold odKey
  omega

theorem resetRefused_congr {a b : Dev} (hp : b.ports = a.ports) (hs : b.sched = a.sched) (hr : b.strm = a.strm) : resetRefused b p = resetRefused a p := by
  unfold resetRefused portCarries portScheduled portUp resBank
  rw [scheduleActive_congr hs, hp, hs, hr]

theorem phyReset_completes {P : Dev → Prop} (hs : Served s.dev src) (hm : MayWrite s.dev src (0x2300 + p.val) 0x22)
    (hP : ∀ a, Reached src s.found a → P (finishAct src (0x2300 + p.val) 0x22 a
      (Act.when (!resetRefused s.dev p) (pulseGroup (groupOf p) (bump 0x2003 1 a))))) : Completes (.phyResetRequest src p) s P := by
  have hp := p.isLt
  have hval : valueError s.dev ⟨0x2300, 20, 1, 0x22, 1, .u8, 0x0022, .n 0, .vol, true, false, .oneOf [1]⟩ (0x2300 + p.val) 0x22 (.num 1) = none := by
    unfold valueError
    rw [specialError_port]
    rfl
  refine completes_num (c := .phyResetRequest src p) (n := 1) (v := 1) rfl hs hm (rowOf_phyReset p) rfl (by decide) rfl hval (by decide)
    (by simp [isTable]; omega) (by omega) (by omega) fun a ha => ?_
  rw [actOn_port src p (.inl rfl), if_neg (by decide), resetRefused_congr (a := s.dev)]
  · exact hP a ha
  · exact (bump_ports _ _ _).trans (ha.pathOnly.same .ports (by decide))
  · exact (bump_sched _ _ _).trans (ha.pathOnly.same .sched (by decide))
  · exact (bump_strm _ _ _).trans (ha.pathOnly.same .strm (by decide))

theorem phyReset_pulses (hs : Served s.dev src) (hm : MayWrite s.dev src (0x2300 + p.val) 0x22) (hr : resetRefused s.dev p = false) :
    Completes (.phyResetRequest src p) s fun d => WriteAnswered d src (0x2300 + p.val) 0x22 0 ∧ d.ports.phyReleased[groupOf p] = false ∧
      d.ports.pulseEnd[groupOf p] = some (s.dev.now + 10 * msNs) ∧ ∀ q ∈ groupPorts (groupOf p),
        d.ports.p[q].link = if s.dev.ports.p[q].link = .disabled then .disabled else .phyStart := by
  refine phyReset_completes hs hm fun a ha => ?_
  rw [hr]
  have hports : (bump 0x2003 1 a).ports = s.dev.ports := (bump_ports _ _ _).trans (ha.pathOnly.same .ports (by decide))
  have hnow : (bump 0x2003 1 a).now = s.dev.now := (bump_now _ _ _).trans (congrArg Prod.fst (ha.pathOnly.same .clock (by decide)))
  have hf : Framed [.fresh, .out, .regs, .inaug, .queues, .ports, .time, .sched, .strm, .recd, .host, .ints, .counters] (bump 0x2003 1 a)
      (pulseGroup (groupOf p) (bump 0x2003 1 a)) := pulseGroup_framed _ _ (by decide) (.refl _ _)
  have hacts := (ha.acts (f := pulseGroup (groupOf p)) hf (by decide) (by decide) (0x2300 + p.val) 0x22).2
  obtain ⟨h1, h2, h3⟩ := pulseGroup_pulses (groupOf p) (bump 0x2003 1 a)
  rw [hnow] at h2
  rw [hports] at h3
  have hp : (answerWrite src (0x2300 + p.val) 0x22 0 (pulseGroup (groupOf p) (bump 0x2003 1 a))).ports = (pulseGroup (groupOf p) (bump 0x2003 1 a)).ports :=
    PathOnly.same (answer_pathOnly _ _ _) .ports (by decide)
  rw [← hp] at h1 h2
  refine ⟨hacts, h1, h2, fun q hq => ?_⟩
  rw [← h3 q hq, ← hp]
  rfl

theorem phyReset_refused (hs : Served s.dev src) (hm : MayWrite s.dev src (0x2300 + p.val) 0x22) (hr : resetRefused s.dev p = true) :
    Completes (.phyResetRequest src p) s (RefusedWith s src (0x2300 + p.val) 0x22 0x08000022) := by
  refine phyReset_completes hs hm fun a ha => ?_
  rw [hr]
  exact finishAct_when_false ha _ _

theorem phyWrite_completes {P : Dev → Prop} (hs : Served s.dev src) (hm : MayWrite s.dev src (0x2300 + p.val) 0x1C) (v : BitVec 16)
    (hP : ∀ a, Reached src s.found a → P (finishAct src (0x2300 + p.val) 0x1C a
      (Act.when (portReg s.dev p 0x16 ≠ 0xFF) (mdio p (bitsOf (portReg s.dev p 0x1B) 20 16) (bitsOf (portReg s.dev p 0x1B) 15 0) (some v.toNat) (bump 0x2003 1 a))))) :
    Completes (.phyRegisterWrite src p v) s P := by
  have hp := p.isLt
  have hval : valueError s.dev ⟨0x2300, 20, 1, 0x1C, 1, .u16, 0x0033, .n 0, .vol, true, false, .any⟩ (0x2300 + p.val) 0x1C (.num v.toNat) = none := by
    unfold valueError
    rw [specialError_port]
    rfl
  refine completes_num (c := .phyRegisterWrite src p v) (n := 2) (v := v.toNat) rfl hs hm (rowOf_phyRegister p) rfl v.isLt rfl hval (by decide)
    (by simp [isTable]; omega) (by omega) (by omega) fun a ha => ?_
  rw [actOn_port src p (.inr rfl), if_pos rfl, ha.portReg p (by decide), ha.portReg p (by decide)]
  exact hP a ha

theorem phyWrite_acts (hs : Served s.dev src) (hm : MayWrite s.dev src (0x2300 + p.val) 0x1C) (v : BitVec 16) (hbus : portReg s.dev p 0x16 ≠ 0xFF) :
    Completes (.phyRegisterWrite src p v) s fun d => ActsAtOnce s src (0x2300 + p.val) 0x1C id d ∧
      Out.mdio p (portReg s.dev p 0x16) (portReg s.dev p 0x17) (portReg s.dev p 0x18) (bitsOf (portReg s.dev p 0x1B) 20 16)
        (bitsOf (portReg s.dev p 0x1B) 15 0) (some v.toNat) ∈ d.out := by
  refine phyWrite_completes hs hm v fun a ha => ?_
  rw [decide_eq_true hbus]
  have h16 : portReg (bump 0x2003 1 a) p 0x16 = portReg s.dev p 0x16 := ha.portReg p (by decide)
  have h17 : portReg (bump 0x2003 1 a) p 0x17 = portReg s.dev p 0x17 := ha.portReg p (by decide)
  have h18 : portReg (bump 0x2003 1 a) p 0x18 = portReg s.dev p 0x18 := ha.portReg p (by decide)
  have hacts := (ha.acts (f := mdio p (bitsOf (portReg s.dev p 0x1B) 20 16) (bitsOf (portReg s.dev p 0x1B) 15 0) (some v.toNat))
    (emit_framed (L := [.out]) _ _ (by decide) (.refl _ _)) (by decide) (by decide) (0x2300 + p.val) 0x1C).2
  refine ⟨⟨⟨a, ha.pathOnly, (emit_pathOnly src _ _).trans (answer_pathOnly _ _ _)⟩, hacts⟩, answer_sent _ _ _ _ ?_⟩
  rw [← h16, ← h17, ← h18]
  exact emit_mem _ _

theorem phyWrite_refused (hs : Served s.dev src) (hm : MayWrite s.dev src (0x2300 + p.val) 0x1C) (v : BitVec 16) (hbus : portReg s.dev p 0x16 = 0xFF) :
    Completes (.phyRegisterWrite src p v) s (RefusedWith s src (0x2300 + p.val) 0x1C 0x08000022) := by
  refine phyWrite_completes hs hm v fun a ha => ?_
  rw [decide_eq_false (not_not.mpr hbus)]
  exact finishAct_when_false ha _ _

/-- A read of a PHY register on the device that its path leaves. -/
theorem serveRead_phy {a : Dev} (v : Option (BitVec 16)) (ha : Reached src s.found a) (hm : MayRead s.dev src (0x2300 + p.val) 0x1C) :
    serveRead ⟨src, 0x2300 + p.val, 0x1C, 0, .read (mostBytes src), v⟩ (mostBytes src) a =
      if portReg s.dev p 0x16 = 0xFF then answer src ⟨0x2300 + p.val, 0x1C, false, 0x08000022, [], 0⟩ a
      else
        let bs := leBytes 2 ((v.map (·.toNat)).getD (Config.freeNat a.fresh % 65536))
        answer src ⟨0x2300 + p.val, 0x1C, false, 0, slice bs 0 (mostBytes src), bs.length⟩
          (draw (mdio p (bitsOf (portReg s.dev p 0x1B) 20 16) (bitsOf (portReg s.dev p 0x1B) 15 0) none a)) := by
  obtain ⟨row, hrow, hread⟩ := hm
  obtain rfl := Option.some.inj (hrow.symm.trans (rowOf_phyRegister p))
  have hp := p.isLt
  have h3 : (0x2300 ≤ 0x2300 + p.val && 0x2300 + p.val < 0x2314 && (0x1C : Nat) = 0x1C) = true := by simp; omega
  have h16 : portReg a p 0x16 = portReg s.dev p 0x16 := ha.pathOnly.portReg p (by decide)
  have h1B : portReg a p 0x1B = portReg s.dev p 0x1B := ha.pathOnly.portReg p (by decide)
  have hrefused : readRefused a (0x2300 + p.val) 0x1C = decide (portReg s.dev p 0x16 = 0xFF) := by
    unfold readRefused
    rw [if_pos h3, port_ofNat, h16]
  have heffect : readEffect (0x2300 + p.val) 0x1C a = draw (mdio p (bitsOf (portReg s.dev p 0x1B) 20 16) (bitsOf (portReg s.dev p 0x1B) 15 0) none a) := by
    unfold readEffect
    rw [if_neg (by simp), if_neg (by simp), if_neg (by simp), if_pos h3, port_ofNat, ← h1B]
  have hjudge := judgeRead_start (d := a) (r := ⟨src, 0x2300 + p.val, 0x1C, 0, .read (mostBytes src), v⟩) rfl (rowOf_phyRegister p)
    (by rw [show roleOf a src = roleOf s.dev src from ha.role]; exact hread)
  have hvalue : readValueOf ⟨src, 0x2300 + p.val, 0x1C, 0, .read (mostBytes src), v⟩
      ⟨0x2300, 20, 1, 0x1C, 1, .u16, 0x0033, .n 0, .vol, true, false, .any⟩ a = leBytes 2 ((v.map (·.toNat)).getD (Config.freeNat a.fresh % 65536)) := by
    unfold readValueOf
    exact if_pos h3
  rw [hvalue] at hjudge
  unfold serveRead
  rw [hjudge]
  dsimp only
  rw [hrefused]
  by_cases hbus : portReg s.dev p 0x16 = 0xFF
  · rw [if_pos hbus, if_pos (decide_eq_true hbus)]
    rfl
  · rw [if_neg hbus, if_neg (by simpa using hbus)]
    dsimp only
    rw [heffect]
    rfl

theorem phyRead_answered (hs : Served s.dev src) (hm : MayRead s.dev src (0x2300 + p.val) 0x1C) (hbus : portReg s.dev p 0x16 ≠ 0xFF) (v : BitVec 16) :
    Completes (.phyRegisterRead src p (some v)) s fun d => ReadAnswered d src (0x2300 + p.val) 0x1C (leBytes 2 v.toNat) ∧
      Out.mdio p (portReg s.dev p 0x16) (portReg s.dev p 0x17) (portReg s.dev p 0x18) (bitsOf (portReg s.dev p 0x1B) 20 16)
        (bitsOf (portReg s.dev p 0x1B) 15 0) none ∈ d.out := by
  refine completes_askRead (c := .phyRegisterRead src p (some v)) rfl hs fun a ha => ?_
  rw [serveRead_phy (some v) ha hm, if_neg hbus]
  have h16 : portReg a p 0x16 = portReg s.dev p 0x16 := ha.pathOnly.portReg p (by decide)
  have h17 : portReg a p 0x17 = portReg s.dev p 0x17 := ha.pathOnly.portReg p (by decide)
  have h18 : portReg a p 0x18 = portReg s.dev p 0x18 := ha.pathOnly.portReg p (by decide)
  have hf : Framed [.out, .fresh] a (draw (mdio p (bitsOf (portReg s.dev p 0x1B) 20 16) (bitsOf (portReg s.dev p 0x1B) 15 0) none a)) :=
    draw_framed _ (by decide) (emit_framed _ _ (by decide) (.refl _ _))
  refine ⟨answer_ready _ (ha.ready.framed hf (by decide) (by decide)), answer_sent _ _ _ _ ?_⟩
  rw [← h16, ← h17, ← h18]
  exact emit_mem _ a

theorem phyRead_refused (hs : Served s.dev src) (hm : MayRead s.dev src (0x2300 + p.val) 0x1C) (hbus : portReg s.dev p 0x16 = 0xFF)
    (v : Option (BitVec 16)) : Completes (.phyRegisterRead src p v) s fun d =>
      ReadRefused d src (0x2300 + p.val) 0x1C 0x08000022 ∧ PathOnly src s.found d := by
  refine completes_askRead (c := .phyRegisterRead src p v) rfl hs fun a ha => ?_
  rw [serveRead_phy v ha hm, if_pos hbus]
  exact ⟨answer_ready _ ha.ready, ha.pathOnly.trans (answer_pathOnly _ _ _)⟩

/-- A port whose PHY is released waits for its PHY's delay. -/
def planRelease (p : Port) (d : Dev) : Dev :=
  if d.ports.p[p].link = .phyStart then onPort p (fun t => { t with releaseAt := some (d.now + portReg d p 0x21 * msNs) }) d else d

theorem planRelease_ne (h : q ≠ p) (d : Dev) : (planRelease p d).ports.p[q] = d.ports.p[q] := by
  unfold planRelease
  split
  · exact onPort_ne h _ d
  · rfl

theorem planRelease_self (h : d.ports.p[p].link = .phyStart) : (planRelease p d).ports.p[p] =
    { d.ports.p[p] with releaseAt := some (d.now + portReg d p 0x21 * msNs) } := by
  rw [planRelease, if_pos h, onPort_self]

theorem planRelease_leaves (p : Port) (d : Dev) : (planRelease p d).now = d.now ∧ (planRelease p d).dict = d.dict ∧
    (planRelease p d).ports.phyReleased = d.ports.phyReleased ∧ (planRelease p d).ports.pulseEnd = d.ports.pulseEnd := by
  unfold planRelease
  split <;> exact ⟨rfl, rfl, rfl, rfl⟩

theorem planReleases_plan (l : List Port) (d : Dev) : (forEach l planRelease d).now = d.now ∧
    (forEach l planRelease d).ports.phyReleased = d.ports.phyReleased ∧ (forEach l planRelease d).ports.pulseEnd = d.ports.pulseEnd ∧
    (∀ q ∉ l, (forEach l planRelease d).ports.p[q] = d.ports.p[q]) ∧
    ∀ q ∈ l, d.ports.p[q].link = .phyStart → (forEach l planRelease d).ports.p[q] =
      { d.ports.p[q] with releaseAt := some (d.now + portReg d q 0x21 * msNs) } := by
  induction l generalizing d with
  | nil => exact ⟨rfl, rfl, rfl, fun _ _ => rfl, fun _ h => absurd h List.not_mem_nil⟩
  | cons x l ih =>
    obtain ⟨h1, h2, h3, h4, h5⟩ := ih (planRelease x d)
    obtain ⟨g1, g2, g3, g4⟩ := planRelease_leaves x d
    have hreg : ∀ q, portReg (planRelease x d) q 0x21 = portReg d q 0x21 := fun q => cfg_of_dict g2 _ _
    refine ⟨h1.trans g1, h2.trans g3, h3.trans g4, fun q hq => ?_, fun q hq hl => ?_⟩
    · obtain ⟨hx, hl⟩ := not_or.mp fun h => hq (List.mem_cons.mpr h)
      exact (h4 q hl).trans (planRelease_ne hx d)
    · by_cases hx : q = x
      · subst hx
        have hself := planRelease_self hl
        by_cases hm : q ∈ l
        · refine (h5 q hm (by rw [hself]; exact hl)).trans ?_
          rw [hself, g1, hreg]
        · exact (h4 q hm).trans hself
      · have hne := planRelease_ne hx d
        refine (h5 q ((List.mem_cons.mp hq).resolve_left hx) (by rw [hne]; exact hl)).trans ?_
        rw [hne, g1, hreg]

theorem planReleases_framed (l : List Port) (d : Dev) : Framed [.ports] d (forEach l planRelease d) :=
  forEach_framed l _ _ (.refl _ d) fun x _ he => ite_framed (onPort_framed x _ _ (by decide) he) he

/-- The device when the pulse of a group has ended, before the releases are planned. -/
def groupReleased (g : Fin 4) (d : Dev) : Dev :=
  regroup g { d with ports := { d.ports with
    phyReleased := d.ports.phyReleased.set g.val true
    releasedAt := d.ports.releasedAt.set g.val d.now
    pulseEnd := d.ports.pulseEnd.set g.val none } }

theorem groupReleased_leaves (g : Fin 4) (d : Dev) : (groupReleased g d).now = d.now ∧ (groupReleased g d).dict = d.dict ∧
    (groupReleased g d).ports.pulseEnd[g] = none ∧ (groupReleased g d).ports.p = d.ports.p ∧
    ((groupReleased g d).ports.phyReleased[g] = true ↔ ∃ q ∈ groupPorts g, d.ports.p[q].link ≠ .disabled) ∧
    Framed [.ports] d (groupReleased g d) := by
  have hf : ∀ f : PortsS, Framed [.ports] d { d with ports := f } := fun f x => by
    cases x <;> first | exact .inr rfl | exact .inl (by decide)
  unfold groupReleased regroup
  split
  · next h =>
    have h : ∀ q ∈ groupPorts g, d.ports.p[q].link = .disabled := fun q hq => of_decide_eq_true (List.all_eq_true.mp h q hq)
    refine ⟨rfl, rfl, by simp, rfl, ⟨fun h => absurd h (by simp), fun ⟨q, hq, hne⟩ => absurd (h q hq) hne⟩, hf _⟩
  · next h =>
    refine ⟨rfl, rfl, by simp, rfl, ⟨fun _ => ?_, fun _ => by simp⟩, hf _⟩
    obtain ⟨q, hq, hne⟩ := List.all_eq_false.mp ((Bool.not_eq_true _).mp h)
    exact ⟨q, hq, fun h => hne (decide_eq_true h)⟩

theorem phyResetEnd_plans {g : Fin 4} {t : Nat} (ht : s.dev.ports.pulseEnd[g] = some t) : Completes (.phyResetEnd g) s fun d =>
    d.now = max s.dev.now t ∧ d.ports.pulseEnd[g] = none ∧
      (d.ports.phyReleased[g] = true ↔ ∃ q ∈ groupPorts g, s.dev.ports.p[q].link ≠ .disabled) ∧
      (∀ q ∈ groupPorts g, s.dev.ports.p[q].link = .phyStart → d.ports.p[q] = { s.dev.ports.p[q] with
        releaseAt := some (d.now + portReg s.dev q 0x21 * msNs) }) ∧ Framed [.clock, .counters, .ports] s.found d := by
  have hrun : exec (.phyResetEnd g) s = s.does fun d => forEach (groupPorts g) planRelease (groupReleased g (arrive t d)) := by
    show execPhyResetEnd g s = _
    unfold execPhyResetEnd
    refine does_congr ?_
    have ht : s.found.ports.pulseEnd[g] = some t := ht
    rw [ht]
    rfl
  refine completes_of_exec hrun ?_
  have hnow := arrive_now t s.found
  have hports : (arrive t s.found).ports = s.dev.ports := arrive_ports t s.found
  have hdict : (arrive t s.found).dict = s.dev.dict := arrive_dict t s.found
  have hf : Framed [.clock, .counters] s.found (arrive t s.found) := arrive_framed _ _ (by decide) (.refl _ _)
  generalize arrive t s.found = a at *
  obtain ⟨g1, g2, g3, g4, g5, g6⟩ := groupReleased_leaves g a
  generalize groupReleased g a = b at *
  obtain ⟨h1, h2, h3, -, h5⟩ := planReleases_plan (groupPorts g) b
  have hend : Framed [.ports] b (forEach (groupPorts g) planRelease b) := planReleases_framed _ b
  generalize forEach (groupPorts g) planRelease b = e at *
  have hreg : ∀ q, portReg b q 0x21 = portReg s.dev q 0x21 := fun q => cfg_of_dict (g2.trans hdict) _ _
  rw [g4, hports] at h5
  refine ⟨h1.trans (g1.trans hnow), by rw [h3]; exact g3, by rw [h2, g5, hports], fun q hq hl => ?_, ?_⟩
  · rw [h5 q hq hl, h1, hreg]
  · exact ((hf.mono (by decide)).trans (g6.mono (by decide))).trans (hend.mono (by decide))

end resets

/-! ### PHY status (R172) -/

section status

variable {s : State} {d : Dev} {p q : Port}

/-- A status read of a port: its link bit, its MDIO access, and nothing of the other ports. -/
structure StatusRead (p : Port) (v : BitVec 16) (d e : Dev) : Prop where
  bit : e.ports.p[p].phyLink = v.getLsbD (bitsOf (portReg d p 0x1A) 27 24)
  access : Out.mdio p (portReg d p 0x16) (portReg d p 0x17) (portReg d p 0x18) (bitsOf (portReg d p 0x1A) 20 16) (bitsOf (portReg d p 0x1A) 15 0) none ∈ e.out
  poll : e.ports.p[p].statusPoll = d.ports.p[p].statusPoll
  others : ∀ q ≠ p, e.ports.p[q] = d.ports.p[q]
  move : LinkMove d e

theorem readStatus_reads (v : BitVec 16) (h : portReg d p 0x1A ≠ 0) : StatusRead p v d (readStatus p v d) := by
  unfold readStatus
  rw [if_neg h]
  have hm : LinkMove d (mdio p (bitsOf (portReg d p 0x1A) 20 16) (bitsOf (portReg d p 0x1A) 15 0) none d) := (emit_move _ d).link
  have hmem := emit_mem (Out.mdio p (portReg d p 0x16) (portReg d p 0x17) (portReg d p 0x18) (bitsOf (portReg d p 0x1A) 20 16) (bitsOf (portReg d p 0x1A) 15 0) none) d
  have hj := judgeLane_judged p (onPort p (fun t => { t with phyLink := v.getLsbD (bitsOf (portReg d p 0x1A) 27 24) })
    (mdio p (bitsOf (portReg d p 0x1A) 20 16) (bitsOf (portReg d p 0x1A) 15 0) none d))
  refine ⟨hj.phyLink.trans ?_, hj.move.sent _ hmem, hj.statusPoll.trans ?_, fun q hq => (hj.others q hq).trans (onPort_ne hq _ _),
    (hm.trans (onPort_link p _ _)).trans hj.move⟩
  · rw [onPort_self]
  · rw [onPort_self]
    rfl

theorem readStatus_ne (h : q ≠ p) (v : BitVec 16) (d : Dev) : (readStatus p v d).ports.p[q] = d.ports.p[q] ∧ LinkMove d (readStatus p v d) := by
  by_cases h0 : portReg d p 0x1A = 0
  · have hd : readStatus p v d = d := if_pos h0
    rw [hd]
    exact ⟨rfl, .refl d⟩
  · exact ⟨(readStatus_reads v h0).others q h, (readStatus_reads v h0).move⟩

theorem phyStatusPoll_reads {t : Nat} (ht : s.dev.ports.p[p].statusPoll = some t) (h : portReg s.dev p 0x1A ≠ 0) (v : BitVec 16) :
    Completes (.phyStatusPoll p v) s fun d => (d.ports.p[p].phyLink = v.getLsbD (bitsOf (portReg s.dev p 0x1A) 27 24) ∧
      Out.mdio p (portReg s.dev p 0x16) (portReg s.dev p 0x17) (portReg s.dev p 0x18) (bitsOf (portReg s.dev p 0x1A) 20 16)
        (bitsOf (portReg s.dev p 0x1A) 15 0) none ∈ d.out) ∧ d.now = max s.dev.now t ∧ d.ports.p[p].statusPoll = some (d.now + 10 * msNs) := by
  have hrun : exec (.phyStatusPoll p v) s = s.does fun d => judgeSleep (readStatus p v
      (onPort p (fun x => { x with statusPoll := some ((arrive t d).now + 10 * msNs) }) (arrive t d))) := by
    show execPhyStatusPoll p v s = _
    unfold execPhyStatusPoll
    refine judged_congr ?_
    have ht : s.found.ports.p[p].statusPoll = some t := ht
    rw [ht]
  refine completes_of_exec hrun ?_
  have hnow := arrive_now t s.found
  have hdict : (arrive t s.found).dict = s.dev.dict := arrive_dict t s.found
  generalize arrive t s.found = a at *
  have hreg : ∀ sub, portReg (onPort p (fun x => { x with statusPoll := some (a.now + 10 * msNs) }) a) p sub = portReg s.dev p sub := fun sub => cfg_of_dict hdict _ _
  have hr := readStatus_reads (d := onPort p (fun x => { x with statusPoll := some (a.now + 10 * msNs) }) a) v (by rw [hreg]; exact h)
  have hpoll := hr.poll
  rw [onPort_self] at hpoll
  have hn : (readStatus p v (onPort p (fun x => { x with statusPoll := some (a.now + 10 * msNs) }) a)).now = a.now :=
    congrArg Prod.fst ((readStatus_framed (L := [.fresh, .out, .regs, .inaug, .queues, .ports, .time, .sched, .strm, .recd, .sleep, .host, .ints, .counters])
      p v _ (by decide) (.refl _ _)).same .clock (by decide))
  obtain ⟨hbit, haccess, -, -, -⟩ := hr
  simp only [hreg] at hbit haccess
  generalize readStatus p v _ = e at *
  rw [judgeSleep_ports, judgeSleep_now, hn]
  exact ⟨⟨hbit, judgeSleep_sent e _ haccess⟩, hnow, hpoll⟩

/-- What a status word of a group makes of one of its ports. -/
def statusOf (words : List (Port × BitVec 16)) (p : Port) (d : Dev) : Dev :=
  match words.find? (fun x => x.1 = p) with
  | some (_, v) => readStatus p v d
  | none => d

theorem statusOf_ne (h : q ≠ p) (words : List (Port × BitVec 16)) (d : Dev) :
    (statusOf words p d).ports.p[q] = d.ports.p[q] ∧ LinkMove d (statusOf words p d) := by
  unfold statusOf
  split
  · exact readStatus_ne h _ d
  · exact ⟨rfl, .refl d⟩

theorem statusOf_others (words : List (Port × BitVec 16)) {l : List Port} (h : p ∉ l) (d : Dev) :
    (forEach l (statusOf words) d).ports.p[p] = d.ports.p[p] ∧ LinkMove d (forEach l (statusOf words) d) := by
  induction l generalizing d with
  | nil => exact ⟨rfl, .refl d⟩
  | cons x l ih =>
    obtain ⟨hx, hl⟩ := not_or.mp fun hm => h (List.mem_cons.mpr hm)
    obtain ⟨g1, g2⟩ := statusOf_ne (p := x) hx words d
    obtain ⟨h1, h2⟩ := ih hl (statusOf words x d)
    exact ⟨h1.trans g1, g2.trans h2⟩

/-- Among distinct ports each is read once. -/
theorem statuses_read {words : List (Port × BitVec 16)} {v : BitVec 16} (hw : words.find? (fun y => y.1 = p) = some (p, v)) {l : List Port}
    (hl : l.Nodup) (hp : p ∈ l) (h : portReg d p 0x1A ≠ 0) : (forEach l (statusOf words) d).ports.p[p].phyLink =
        v.getLsbD (bitsOf (portReg d p 0x1A) 27 24) ∧
      Out.mdio p (portReg d p 0x16) (portReg d p 0x17) (portReg d p 0x18) (bitsOf (portReg d p 0x1A) 20 16) (bitsOf (portReg d p 0x1A) 15 0) none ∈
        (forEach l (statusOf words) d).out := by
  induction l generalizing d with
  | nil => exact absurd hp List.not_mem_nil
  | cons x l ih =>
    obtain ⟨hx, hl⟩ := List.nodup_cons.mp hl
    by_cases hpx : p = x
    · subst hpx
      have hr := readStatus_reads v h
      have hone : statusOf words p d = readStatus p v d := by
        unfold statusOf
        rw [hw]
      obtain ⟨h1, h2⟩ := statusOf_others words hx (readStatus p v d)
      rw [← hone] at h1 h2
      exact ⟨(congrArg PortS.phyLink h1).trans (by rw [hone]; exact hr.bit), h2.sent _ (hone ▸ hr.access)⟩
    · obtain ⟨g1, g2⟩ := statusOf_ne (p := x) hpx words d
      have hreg : ∀ {sub}, sub < 0x23 → portReg (statusOf words x d) p sub = portReg d p sub := fun hs => g2.portReg p hs
      have hih := ih (d := statusOf words x d) hl ((List.mem_cons.mp hp).resolve_left hpx) (by rw [hreg (by decide)]; exact h)
      rw [hreg (by decide), hreg (by decide), hreg (by decide), hreg (by decide)] at hih
      exact hih

theorem phyInterrupt_reads {words : List (Port × BitVec 16)} {v : BitVec 16} (hw : words.find? (fun y => y.1 = p) = some (p, v))
    (hidle : ∀ q ∈ groupPorts (groupOf p), s.dev.ports.p[q].script = none) (hsel : portReg s.dev p 0x0D = 1) (h : portReg s.dev p 0x1A ≠ 0) :
    Completes (.phyInterrupt (groupOf p) words) s fun d => d.ports.p[p].phyLink = v.getLsbD (bitsOf (portReg s.dev p 0x1A) 27 24) ∧
      Out.mdio p (portReg s.dev p 0x16) (portReg s.dev p 0x17) (portReg s.dev p 0x18) (bitsOf (portReg s.dev p 0x1A) 20 16)
        (bitsOf (portReg s.dev p 0x1A) 15 0) none ∈ d.out := by
  have hnone : ¬ (groupPorts (groupOf p)).any (fun p => s.found.ports.p[p].script.isSome) = true := fun hany => by
    obtain ⟨q, hq, hs⟩ := List.any_eq_true.mp hany
    rw [show s.found.ports.p[q].script = none from hidle q hq] at hs
    exact absurd hs (by decide)
  have hrun : exec (.phyInterrupt (groupOf p) words) s = s.does fun d => judgeSleep (forEach
      ((groupPorts (groupOf p)).filter (fun p => portReg d p 0x0D = 1)) (statusOf words) d) := by
    show execPhyInterrupt (groupOf p) words s = _
    unfold execPhyInterrupt
    refine judged_congr ?_
    rw [if_neg hnone]
    rfl
  refine completes_of_exec hrun ?_
  have hmem : p ∈ (groupPorts (groupOf p)).filter (fun q => portReg s.found q 0x0D = 1) :=
    List.mem_filter.mpr ⟨List.mem_filter.mpr ⟨List.mem_finRange p, decide_eq_true rfl⟩, decide_eq_true hsel⟩
  have hnodup : ((groupPorts (groupOf p)).filter (fun q => portReg s.found q 0x0D = 1)).Nodup :=
    ((List.nodup_finRange 20).filter _).filter _
  obtain ⟨h1, h2⟩ := statuses_read (d := s.found) hw hnodup hmem h
  rw [judgeSleep_ports]
  exact ⟨h1, judgeSleep_sent _ _ h2⟩

theorem phyInterrupt_waits {words : List (Port × BitVec 16)} (hbusy : ∃ q ∈ groupPorts (groupOf p), s.dev.ports.p[q].script ≠ none) :
    Completes (.phyInterrupt (groupOf p) words) s fun d =>
      d.ports = { s.dev.ports with phyIntPending := s.dev.ports.phyIntPending.set (groupOf p).val true } ∧
        Framed (.ports :: .sleep :: eventParts) s.found d := by
  have hany : (groupPorts (groupOf p)).any (fun p => s.found.ports.p[p].script.isSome) = true := by
    obtain ⟨q, hq, hne⟩ := hbusy
    exact List.any_eq_true.mpr ⟨q, hq, Option.isSome_iff_ne_none.mpr hne⟩
  have hrun : exec (.phyInterrupt (groupOf p) words) s = s.does fun d => judgeSleep
      { d with ports := { d.ports with phyIntPending := d.ports.phyIntPending.set (groupOf p).val true } } := by
    show execPhyInterrupt (groupOf p) words s = _
    unfold execPhyInterrupt
    refine judged_congr ?_
    rw [if_pos hany]
  refine completes_of_exec hrun ⟨judgeSleep_ports _, judgeSleep_framed _ (by decide) fun x => ?_⟩
  cases x <;> first | exact .inr rfl | exact .inl (by decide)

end status

/-- Settles O32: what a lost or gained link leaves is said once, and each command is brought to it. -/
theorem linksFollowLanesPhysAndTimers : Obligations.LinksFollowLanesPhysAndTimers := by
  unfold Obligations.LinksFollowLanesPhysAndTimers
  intro s p x lost counts
  exact ⟨fun hl => ⟨laneUp_rises hl, laneUp_holds hl, laneUp_waits hl⟩,
    fun hl => ⟨laneDown_loses hl, laneDown_debounces hl, fun t => linkDownDebounce_loses hl⟩, fun t => linkUpHold_rises,
    fun t => autoNegotiation_restarts, fun hl => ⟨fun t => phyReleaseDelay_starts hl,
      fun r hr => ⟨phyScriptComplete_ends hl hr, phyScriptPollTimeout_fails hl hr⟩⟩,
    fun src hs => ⟨fun hm => ⟨phyReset_pulses hs hm, phyReset_refused hs hm⟩, fun hm => ⟨phyRead_answered hs hm, phyRead_refused hs hm⟩,
      fun hm v => ⟨phyWrite_acts hs hm v, phyWrite_refused hs hm v⟩⟩,
    fun g t => phyResetEnd_plans, fun v h => ⟨fun t ht => phyStatusPoll_reads ht h v,
      fun words hw => ⟨fun hidle hsel => phyInterrupt_reads hw hidle hsel h, phyInterrupt_waits⟩⟩⟩

end Sys2Proof.Machine
end

section
/-! PROOF. What the operations of network time leave: frames on the master ports, the states of R205 and the best master (R197 to R207). -/

namespace Sys2Proof.Machine

/-! ### What the operations of network time leave -/

section moves

variable {a b c d : Dev} {K : List (Fin 256)}

/-- The counters that the operations of network time and the frames they send may move, but those of 0x2404 that `K` names. -/
def timeCounters : List (Nat × Nat) := roundCounters ++ [(0x2404, 3), (0x2404, 8), (0x2404, 0x0A), (0x2505, 8), (0x2505, 9), (0x2602, 4)]

/-- From `a` to `b` network time may act: what was sent stays sent, no register changes but counters, and of 0x2404 besides only those of `K`. -/
structure TimeMove (K : List (Fin 256)) (a b : Dev) : Prop where
  sent : Sent a b
  regs : RegsFramed (timeCounters ++ K.map fun k => (0x2404, k.val)) a b
  framed : Framed [.fresh, .out, .regs, .queues, .time, .sched, .strm, .recd, .load, .ints, .health, .counters] a b

theorem TimeMove.refl (K : List (Fin 256)) (d : Dev) : TimeMove K d d := ⟨.refl d, .refl _ d, .refl _ d⟩

theorem TimeMove.trans (h1 : TimeMove K a b) (h2 : TimeMove K b c) : TimeMove K a c :=
  ⟨h1.sent.trans h2.sent, h1.regs.trans h2.regs, h1.framed.trans h2.framed⟩

theorem TimeMove.wide (h : TimeMove [] a b) (K : List (Fin 256)) : TimeMove K a b :=
  ⟨h.sent, h.regs.mono fun _ hr => List.mem_append_left _ (by simpa using hr), h.framed⟩

theorem TimeMove.ite {x : Prop} [Decidable x] (h1 : TimeMove K a b) (h2 : TimeMove K a c) : TimeMove K a (if x then b else c) := by
  split
  exacts [h1, h2]

theorem TimeMove.forEach {α : Type} {f : α → Dev → Dev} (hf : ∀ x d, TimeMove K d (f x d)) (l : List α) (d : Dev) : TimeMove K d (forEach l f d) := by
  induction l generalizing d with
  | nil => exact .refl K d
  | cons x l ih => exact (hf x d).trans (ih (f x d))

/-- A step that sends nothing and writes no register. -/
theorem TimeMove.quiet {A : List Part} (h : Framed A a b) (ho : Part.out ∉ A) (hr : Part.regs ∉ A)
    (hA : ∀ p ∈ A, p ∈ ([.fresh, .out, .regs, .queues, .time, .sched, .strm, .recd, .load, .ints, .health, .counters] : List Part)) : TimeMove K a b :=
  ⟨h.sent ho, .of_same (h.same .regs hr), h.mono hA⟩

theorem onTime_timeMove {t : TimeS} (h : t.fRaw = d.time.fRaw) : TimeMove K d { d with time := t } :=
  ⟨.of_eq rfl, .of_same rfl, fun p => by
    cases p <;> first | exact .inr rfl | exact .inl (by decide) | exact .inr (by simp [Part.same, h])⟩

theorem TimeMove.onTime {t : TimeS} (h : TimeMove K { a with time := t } b) (hf : t.fRaw = a.time.fRaw) : TimeMove K a b :=
  (onTime_timeMove hf).trans h

theorem RoundMove.time {A : List Part} (h : RoundMove a b) (hf : Framed A a b)
    (hA : ∀ p ∈ A, p ∈ ([.fresh, .out, .regs, .queues, .time, .sched, .strm, .recd, .load, .ints, .health, .counters] : List Part)) : TimeMove K a b :=
  ⟨h.sent, h.regs.mono fun _ hr => List.mem_append_left _ (List.mem_append_left _ hr), hf.mono hA⟩

theorem raise_timeMove (ev : Ev) (inst : Nat) (d : Dev) : TimeMove K d (raise ev inst d) :=
  (raise_move ev inst d).time (A := [.out, .regs, .recd, .ints, .counters]) (raise_framed _ _ _ (fun _ h => h) (.refl _ _)) (by decide)

theorem bump_timeMove (idx sub : Nat) (d : Dev) (h : (idx, sub) ∈ timeCounters ++ K.map fun k => (0x2404, k.val)) : TimeMove K d (bump idx sub d) :=
  ⟨.of_eq (by simp), (RegsFramed.refl _ d).bump _ _ h, bump_framed _ _ _ (by decide) (.refl _ d)⟩

theorem TimeMove.now (h : TimeMove K a b) : b.now = a.now := congrArg Prod.fst (h.framed.same .clock (by decide))

theorem TimeMove.ports (h : TimeMove K a b) : b.ports = a.ports := h.framed.same .ports (by decide)

theorem TimeMove.chip (h : TimeMove K a b) : b.chip = a.chip := h.framed.same .chip (by decide)

theorem TimeMove.pow (h : TimeMove K a b) : b.pow = a.pow := h.framed.same .pow (by decide)

theorem TimeMove.inaug (h : TimeMove K a b) : b.inaug = a.inaug := h.framed.same .inaug (by decide)

theorem timeCounters_cases : ∀ r ∈ timeCounters, r.2 < 256 ∧ (r.1 = 0x2404 → r.2 = 3 ∨ r.2 = 8 ∨ r.2 = 0x0A) ∧ r.1 ≠ 0x2401 ∧ r.1 ≠ 0x2402 ∧ r.1 ≠ 0x2403 ∧ r.1 ≠ 0x2501 ∧
    (r.1 < 0x2410 ∨ 0x2424 ≤ r.1) := by decide +kernel

/-- Settings stand. -/
theorem TimeMove.cfg (h : TimeMove K a b) {idx sub : Nat} (hi : idx = 0x2401 ∨ idx = 0x2402 ∨ idx = 0x2403 ∨ idx = 0x2501 ∨ (0x2410 ≤ idx ∧ idx < 0x2424)) (hs : sub < 256) :
    cfg b idx sub = cfg a idx sub := by
  refine h.regs.cfg _ _ fun r hr => ?_
  rcases List.mem_append.mp hr with hr | hr
  · obtain ⟨h1, -, h2, h3, h4, h5, h6⟩ := timeCounters_cases r hr
    unfold odKey
    omega
  · obtain ⟨k, -, rfl⟩ := List.mem_map.mp hr
    unfold odKey
    omega

/-- The counters of 0x2404 that neither the frames nor `K` move. -/
theorem TimeMove.counter (h : TimeMove K a b) {k : Nat} (hk : k < 256) (h1 : k ≠ 3 ∧ k ≠ 8 ∧ k ≠ 0x0A) (h2 : ∀ x ∈ K, x.val ≠ k) :
    Machine.cfg b 0x2404 k = Machine.cfg a 0x2404 k := by
  refine h.regs.cfg _ _ fun r hr => ?_
  rcases List.mem_append.mp hr with hr | hr
  · obtain ⟨g1, g2, -⟩ := timeCounters_cases r hr
    unfold odKey
    omega
  · obtain ⟨x, hx, rfl⟩ := List.mem_map.mp hr
    have := h2 x hx
    unfold odKey
    omega

theorem TimeMove.safeLow (h : TimeMove K a b) : Machine.safeLow b = Machine.safeLow a := by
  unfold Machine.safeLow
  rw [h.pow]

theorem TimeMove.ptpPort (h : TimeMove K a b) (p : Port) : Machine.ptpPort b p = Machine.ptpPort a p := by
  unfold Machine.ptpPort cfgB portUp
  rw [h.cfg (.inr (.inr (.inr (.inr (by have := p.isLt; omega))))) (by decide), h.ports]

theorem TimeMove.crossedPort (h : TimeMove K a b) (p : Port) : Machine.crossedPort b p = Machine.crossedPort a p := by
  unfold Machine.crossedPort
  rw [h.inaug]

theorem TimeMove.masterPorts (h : TimeMove K a b) (hp : ∀ p : Port, b.time.ports[p].role = a.time.ports[p].role) (hr : b.time.roundHold = a.time.roundHold)
    (ht : b.time.ttdpHold = a.time.ttdpHold) (hv : b.time.revealed = a.time.revealed) : Machine.masterPorts b = Machine.masterPorts a := by
  unfold Machine.masterPorts revealedPort timeHeld
  rw [hr, ht, hv]
  refine congrArg (fun f => allPorts.filter f) (funext fun p => ?_)
  rw [hp p, h.ptpPort p]

/-! ### Frames on the master ports (R197, R199) -/

theorem sendPtp_timeMove (p : Port) (m : PtpMsg) (d : Dev) : TimeMove K d (sendPtp p m d) := by
  have hf : Framed [.fresh, .out, .regs, .queues, .counters] d (sendPtp p m d) := sendPtp_framed p m d (fun _ h => h) (.refl _ d)
  refine ⟨(sendPtp_link p m d).sent, ?_, hf.mono (by decide)⟩
  refine RegsFramed.mono (A := roundCounters) ?_ fun _ hr => List.mem_append_left _ (List.mem_append_left _ hr)
  unfold sendPtp
  split
  · exact .refl _ d
  · exact ((emit_move _ d).trans ((draw_move _).trans (sendOwn_move _ _ _ _))).regs

theorem sendPtp_mem (p : Port) (m : PtpMsg) (hc : crossedPort d p = false) : Out.ptp p m ∈ (sendPtp p m d).out := by
  unfold sendPtp
  rw [hc, if_neg (by decide)]
  exact ((draw_move _).trans (sendOwn_move _ _ _ _)).sent _ (emit_mem _ d)

theorem sendPtps_mem (m : PtpMsg) {l : List Port} {p : Port} (hp : p ∈ l) (hc : crossedPort d p = false) :
    Out.ptp p m ∈ (Machine.forEach l (fun p => sendPtp p m) d).out := by
  induction l generalizing d with
  | nil => exact absurd hp List.not_mem_nil
  | cons x l ih =>
    rcases List.mem_cons.mp hp with rfl | hp
    · exact (TimeMove.forEach (K := []) (fun q e => sendPtp_timeMove q m e) l _).sent _ (sendPtp_mem p m hc)
    · exact ih (d := sendPtp x m d) hp (((sendPtp_timeMove (K := []) x m d).crossedPort p).trans hc)

theorem onMasters_timeMove (m : PtpMsg) (d : Dev) : TimeMove K d (onMasters m d) := .forEach (fun p e => sendPtp_timeMove p m e) _ d

theorem onMasters_mem (m : PtpMsg) {p : Port} (hp : p ∈ masterPorts d) (hc : crossedPort d p = false) : Out.ptp p m ∈ (onMasters m d).out :=
  sendPtps_mem m hp hc

/-- Frames that leave do not move the time. -/
theorem time_of_framed {A : List Part} (h : Framed A a b) (hc : Part.clock ∉ A) (ht : Part.time ∉ A) : b.time = a.time := by
  have h1 : b.time.rest = a.time.rest := h.same .time ht
  have h2 : b.time.fRaw = a.time.fRaw := congrArg (fun x => x.2) (h.same .clock hc)
  have h3 : ∀ t : TimeS, t = { t.rest with fRaw := t.fRaw } := fun t => rfl
  rw [h3 b.time, h1, h2]
  exact (h3 a.time).symm

theorem onMasters_time (m : PtpMsg) (d : Dev) : (onMasters m d).time = d.time :=
  time_of_framed (onMasters_framed (L := [.fresh, .out, .regs, .queues, .counters]) m d (by decide) (.refl _ d)) (by decide) (by decide)

theorem raise_timeS (ev : Ev) (inst : Nat) (d : Dev) : (raise ev inst d).time = d.time :=
  time_of_framed (raise_framed (L := eventParts) ev inst d (by decide) (.refl _ d)) (by decide) (by decide)

theorem setInt_timeS (bit : Nat) (d : Dev) : (setInt bit d).time = d.time :=
  time_of_framed (setInt_framed (L := [.out, .ints]) bit d (by decide) (.refl _ d)) (by decide) (by decide)

/-! ### The states of R205 -/

/-- A change of the time state. -/
def TimeS.enter (st : TimeState) (t : TimeS) : TimeS :=
  if t.state = st then t
  else { t with state := st, holdSince := if st = .holdover then t.holdSince else none, holdLimitPassed := st = .holdover && t.holdLimitPassed }

theorem TimeS.enter_state (st : TimeState) (t : TimeS) : (t.enter st).state = st := by
  unfold TimeS.enter
  split
  · assumption
  · rfl

/-- What a change of the time state leaves. -/
theorem TimeS.enter_rest (st : TimeState) (t : TimeS) : t.enter st = { t with
    state := st, holdSince := (t.enter st).holdSince, holdLimitPassed := (t.enter st).holdLimitPassed } := by
  unfold TimeS.enter
  split
  · next h => rw [← h]
  · rfl

theorem TimeS.enter_holdSince {st : TimeState} {t : TimeS} (h : st = .holdover ∨ t.holdSince = none) : (t.enter st).holdSince = t.holdSince := by
  unfold TimeS.enter
  split
  · rfl
  · rcases h with h | h
    · exact if_pos h
    · rw [h]
      exact ite_self _

theorem setTimeState_time (st : TimeState) (d : Dev) : (setTimeState st d).time = d.time.enter st := by
  unfold setTimeState TimeS.enter
  split
  · rfl
  · rw [setInt_timeS]

theorem setTimeState_timeMove (st : TimeState) (d : Dev) : TimeMove K d (setTimeState st d) := by
  have hi : ∀ e : Dev, TimeMove K e (setInt 7 e) := fun e => by
    have h : Framed [.out, .ints] e (setInt 7 e) := setInt_framed 7 e (fun _ h => h) (.refl _ e)
    exact ⟨setInt_sent 7 e, .of_same (h.same .regs (by decide)), h.mono (by decide)⟩
  exact .ite (.refl K d) ((hi _).onTime rfl)

theorem disarm_time (d : Dev) : (disarm d).time = { d.time with armed := none } := by
  unfold disarm
  split
  · rw [bump_time, raise_timeS]
  · next h => rw [← h]

theorem disarm_timeMove (d : Dev) : TimeMove K d (disarm d) := by
  unfold disarm
  split
  · have h := (raise_timeMove (K := K) evStepDisarmed noInst { d with time := { d.time with armed := none } }).onTime rfl
    exact h.trans (bump_timeMove _ _ _ (List.mem_append_left _ (by decide)))
  · exact .refl K d

theorem noteGm_time (gm : BitVec 64) (d : Dev) : (noteGm gm d).time = { d.time with gmIdentity := gm } := by
  unfold noteGm
  split
  · next h => rw [← h]
  · rw [raise_timeS, bump_time]

theorem noteGm_timeMove (gm : BitVec 64) (d : Dev) : TimeMove K d (noteGm gm d) := by
  have h3 : (0x2404, 3) ∈ timeCounters ++ K.map fun k => (0x2404, k.val) := List.mem_append_left _ (by decide)
  have h := (bump_timeMove _ _ { d with time := { d.time with gmIdentity := gm } } h3).onTime rfl
  exact .ite (.refl K d) (h.trans (raise_timeMove _ _ _))

/-- The time when Holdover begins. -/
def TimeS.heldFrom (now : Nat) (t : TimeS) : TimeS :=
  { t with holdSince := some now, holdLimitPassed := false, goodSyncs := 0, badSyncs := 0 }.enter .holdover

theorem enterHoldover_time (d : Dev) : (enterHoldover d).time = d.time.heldFrom d.now := by
  unfold enterHoldover
  rw [raise_timeS, bump_time, setTimeState_time]
  rfl

theorem TimeS.heldFrom_rest (now : Nat) (t : TimeS) : t.heldFrom now = { t with
    state := .holdover, holdSince := some now, holdLimitPassed := (t.heldFrom now).holdLimitPassed, goodSyncs := 0, badSyncs := 0 } := by
  have h1 := TimeS.enter_rest .holdover { t with holdSince := some now, holdLimitPassed := false, goodSyncs := 0, badSyncs := 0 }
  have h2 := TimeS.enter_holdSince (t := { t with holdSince := some now, holdLimitPassed := false, goodSyncs := 0, badSyncs := 0 }) (.inl rfl : TimeState.holdover = _ ∨ _)
  rw [h2] at h1
  exact h1

theorem enterHoldover_timeMove (h2 : 2 ∈ K) (d : Dev) : TimeMove K d (enterHoldover d) := by
  have hb : (0x2404, 2) ∈ timeCounters ++ K.map fun k => (0x2404, k.val) := List.mem_append_right _ (List.mem_map.mpr ⟨2, h2, rfl⟩)
  have h := (setTimeState_timeMove (K := K) .holdover
    { d with time := { d.time with holdSince := some d.now, holdLimitPassed := false, goodSyncs := 0, badSyncs := 0 } }).onTime rfl
  exact h.trans ((bump_timeMove _ _ _ hb).trans (raise_timeMove _ _ _))

theorem enterHoldover_counts (d : Dev) : Machine.cfg (enterHoldover d) 0x2404 2 = min 0xFFFFFFFF (Machine.cfg d 0x2404 2 + 1) := by
  unfold enterHoldover
  have hm : TimeMove [] d (setTimeState .holdover { d with time := { d.time with holdSince := some d.now, holdLimitPassed := false, goodSyncs := 0, badSyncs := 0 } }) :=
    (setTimeState_timeMove _ _).onTime rfl
  rw [(raise_timeMove (K := []) _ _ _).counter (by decide) (by decide) (by simp), cfg_bump_self _ _ _ rfl, hm.counter (by decide) (by decide) (by simp)]

/-! ### The best master (R199, R205) -/

/-- What the best master algorithm leaves of the time. -/
structure BmcaKeeps (t u : TimeS) : Prop where
  announce : ∀ p : Port, u.ports[p].announce = t.ports[p].announce
  roundHold : u.roundHold = t.roundHold
  ttdpHold : u.ttdpHold = t.ttdpHold
  revealed : u.revealed = t.revealed
  rate : u.rate = t.rate

theorem BmcaKeeps.refl (t : TimeS) : BmcaKeeps t t := ⟨fun _ => rfl, rfl, rfl, rfl, rfl⟩

theorem BmcaKeeps.trans {t u v : TimeS} (h1 : BmcaKeeps t u) (h2 : BmcaKeeps u v) : BmcaKeeps t v :=
  ⟨fun p => (h2.announce p).trans (h1.announce p), h2.roundHold.trans h1.roundHold, h2.ttdpHold.trans h1.ttdpHold,
    h2.revealed.trans h1.revealed, h2.rate.trans h1.rate⟩

/-- A time with the same ports, hold and rate. -/
theorem BmcaKeeps.of_same {t u : TimeS} (hp : u.ports = t.ports) (h1 : u.roundHold = t.roundHold) (h2 : u.ttdpHold = t.ttdpHold)
    (h3 : u.revealed = t.revealed) (h4 : u.rate = t.rate) : BmcaKeeps t u := ⟨fun p => by rw [hp], h1, h2, h3, h4⟩

/-- A time with the roles that follow from a decided master. -/
def TimeS.roled (slave : Option Port) (sent : AnnounceMsg) (live : Port → Bool) (t : TimeS) : TimeS :=
  { t with
    slavePort := slave
    ports := Vector.ofFn fun p : Fin 20 =>
      { t.ports[p] with role :=
          if !(live p) then .disabled
          else if slave = some p then .slave
          else match t.ports[p].announce with
            | some (a, _) => if lexLt (announceKey a) (announceKey sent) then .passive else .master
            | none => .master } }

theorem assignRoles_time (slave : Option Port) (sent : AnnounceMsg) (d : Dev) : (assignRoles slave sent d).time = d.time.roled slave sent (Machine.ptpPort d) := rfl

theorem TimeS.roled_keeps (slave : Option Port) (sent : AnnounceMsg) (live : Port → Bool) (t : TimeS) : BmcaKeeps t (t.roled slave sent live) :=
  ⟨fun p => by simp [TimeS.roled], rfl, rfl, rfl, rfl⟩

theorem TimeS.roled_slave {p : Port} (sent : AnnounceMsg) {live : Port → Bool} (h : live p = true) (t : TimeS) :
    (t.roled (some p) sent live).ports[p].role = .slave := by
  simp [TimeS.roled, h]

theorem TimeS.enter_keeps (st : TimeState) (t : TimeS) : BmcaKeeps t (t.enter st) := by
  rw [TimeS.enter_rest]
  exact .of_same rfl rfl rfl rfl rfl

theorem TimeS.heldFrom_keeps (now : Nat) (t : TimeS) : BmcaKeeps t (t.heldFrom now) := by
  rw [TimeS.heldFrom_rest]
  exact .of_same rfl rfl rfl rfl rfl

theorem assignRoles_timeMove (slave : Option Port) (sent : AnnounceMsg) (d : Dev) : TimeMove K d (assignRoles slave sent d) := onTime_timeMove rfl

theorem sendAnnounce_timeMove (d : Dev) : TimeMove K d (sendAnnounce d) := by
  unfold sendAnnounce
  split
  · exact onMasters_timeMove _ d
  · exact .refl K d

theorem sendAnnounce_time (d : Dev) : (sendAnnounce d).time = d.time :=
  time_of_framed (sendAnnounce_framed (L := [.fresh, .out, .regs, .queues, .counters]) d (by decide) (.refl _ d)) (by decide) (by decide)

theorem sendAnnounce_mem {x : AnnounceMsg} (h : presentAnnounce d = some x) {p : Port} (hp : p ∈ Machine.masterPorts d) (hc : Machine.crossedPort d p = false) :
    Out.ptp p (.announce x) ∈ (sendAnnounce d).out := by
  unfold sendAnnounce
  rw [h]
  exact onMasters_mem _ hp hc

theorem sendSync_timeMove (d : Dev) : TimeMove K d (sendSync d) :=
  .ite (((onMasters_timeMove _ _).trans (onMasters_timeMove _ _)).onTime rfl) (.refl K d)

/-- A Sync of the grandmaster moves the sequence number only. -/
theorem sendSync_time (d : Dev) : ∃ n, (sendSync d).time = { d.time with syncSeq := n } := by
  unfold sendSync
  split
  · exact ⟨d.time.syncSeq + 1, by rw [onMasters_time, onMasters_time]⟩
  · exact ⟨d.time.syncSeq, rfl⟩

/-- The time of a node that becomes grandmaster, before it sends. -/
def TimeS.grand (own : AnnounceMsg) (live : Port → Bool) (t : TimeS) : TimeS :=
  (TimeS.roled none own live { t with
    armed := none, gmIdentity := own.gm, gmClass := t.ownClass, stepsRemoved := 0, offset := 0, utcOffset := own.utc, holdSince := none
    announceDeadline := none, syncDeadline := none, switchRef := none, adoptedAfterSwitch := false, pendingSync := none }).enter .grandmaster

theorem TimeS.grand_keeps (own : AnnounceMsg) (live : Port → Bool) (t : TimeS) : BmcaKeeps t (t.grand own live) := by
  unfold TimeS.grand
  refine BmcaKeeps.trans (BmcaKeeps.trans ?_ (TimeS.roled_keeps _ _ _ _)) (TimeS.enter_keeps _ _)
  exact .of_same rfl rfl rfl rfl rfl

/-- A node that becomes grandmaster, before it sends. -/
def grandStart (d : Dev) : Dev :=
  let own := ownAnnounce d
  let d1 := noteGm own.gm (disarm d)
  setTimeState .grandmaster (assignRoles none own { d1 with time := { d1.time with
    gmClass := d1.time.ownClass, stepsRemoved := 0, offset := 0, utcOffset := own.utc, holdSince := none,
    announceDeadline := none, syncDeadline := none, switchRef := none, adoptedAfterSwitch := false,
    pendingSync := none } })

theorem becomeGrandmaster_eq (d : Dev) : becomeGrandmaster d =
    if d.time.state = .unsynchronised then sendSync (sendAnnounce (grandStart d)) else grandStart d := rfl

theorem grandStart_timeMove (d : Dev) : TimeMove K d (grandStart d) := by
  unfold grandStart
  have h1 : TimeMove K d (noteGm (ownAnnounce d).gm (disarm d)) := (disarm_timeMove d).trans (noteGm_timeMove _ _)
  dsimp only
  generalize noteGm (ownAnnounce d).gm (disarm d) = e at *
  exact h1.trans (((assignRoles_timeMove _ _ _).trans (setTimeState_timeMove _ _)).onTime rfl)

theorem grandStart_time (d : Dev) : (grandStart d).time = d.time.grand (ownAnnounce d) (Machine.ptpPort d) := by
  have h1 : TimeMove [] d (noteGm (ownAnnounce d).gm (disarm d)) := (disarm_timeMove d).trans (noteGm_timeMove _ _)
  have hlive : Machine.ptpPort (noteGm (ownAnnounce d).gm (disarm d)) = Machine.ptpPort d := funext h1.ptpPort
  unfold grandStart
  dsimp only
  have ht : (noteGm (ownAnnounce d).gm (disarm d)).time = { d.time with armed := none, gmIdentity := (ownAnnounce d).gm } := by
    rw [noteGm_time, disarm_time]
  generalize noteGm (ownAnnounce d).gm (disarm d) = e at *
  rw [setTimeState_time, assignRoles_time, ht]
  unfold TimeS.grand
  rw [← hlive]
  rfl

/-- What a node that has become grandmaster shows. -/
structure GrandNow (d e : Dev) : Prop where
  state : e.time.state = .grandmaster
  gm : e.time.gmIdentity = clockIdentity d.chip.ident
  keeps : BmcaKeeps d.time e.time
  move : TimeMove [] d e

theorem grandStart_grand (d : Dev) : GrandNow d (grandStart d) := by
  have ht := grandStart_time d
  refine ⟨by rw [ht]; exact TimeS.enter_state _ _, ?_, by rw [ht]; exact TimeS.grand_keeps _ _ _, grandStart_timeMove d⟩
  rw [ht]
  unfold TimeS.grand
  rw [TimeS.enter_rest]
  rfl

theorem GrandNow.sends {e : Dev} (h : GrandNow d e) : GrandNow d (sendSync (sendAnnounce e)) := by
  obtain ⟨n, ht⟩ := sendSync_time (sendAnnounce e)
  rw [sendAnnounce_time] at ht
  refine ⟨by rw [ht]; exact h.state, by rw [ht]; exact h.gm, ?_, h.move.trans ((sendAnnounce_timeMove e).trans (sendSync_timeMove _))⟩
  rw [ht]
  exact h.keeps.trans (.of_same rfl rfl rfl rfl rfl)

theorem becomeGrandmaster_grand (d : Dev) : GrandNow d (becomeGrandmaster d) := by
  rw [becomeGrandmaster_eq]
  split
  · exact (grandStart_grand d).sends
  · exact grandStart_grand d

/-- The time of a node that follows a master, before a lock is given up. -/
def TimeS.following (p : Port) (a relayed : AnnounceMsg) (live : Port → Bool) (deadline : Option Nat) (t : TimeS) : TimeS :=
  TimeS.roled (some p) relayed live { t with
    gmIdentity := a.gm, gmClass := a.clockClass.toNat, stepsRemoved := a.steps.toNat, utcOffset := a.utc, announceDeadline := deadline
    adoptedAfterSwitch := t.adoptedAfterSwitch || (decide (t.gmIdentity ≠ a.gm) && t.switchRef.isSome) }

/-- A node that follows a master, before a lock is given up. -/
def followStart (p : Port) (a : AnnounceMsg) (d : Dev) : Dev :=
  let d1 := noteGm a.gm d
  assignRoles (some p) (relayedAnnounce d a) { d1 with time := { d1.time with
    gmClass := a.clockClass.toNat, stepsRemoved := a.steps.toNat, utcOffset := a.utc,
    announceDeadline := announceTimeout d1,
    adoptedAfterSwitch := d1.time.adoptedAfterSwitch || (decide (d.time.gmIdentity ≠ a.gm) && d1.time.switchRef.isSome) } }

theorem followMaster_eq (p : Port) (a : AnnounceMsg) (d : Dev) : followMaster p a d =
    if d.time.state = .grandmaster then enterHoldover (ppsOff (followStart p a d))
    else if d.time.gmIdentity ≠ a.gm then
      match (followStart p a d).time.state with
      | .acquiring | .synchronised => enterHoldover (followStart p a d)
      | .stepPending => enterHoldover (disarm (followStart p a d))
      | _ => followStart p a d
    else followStart p a d := by
  rfl

theorem followStart_timeMove (p : Port) (a : AnnounceMsg) (d : Dev) : TimeMove K d (followStart p a d) := by
  have h1 : TimeMove K d (noteGm a.gm d) := noteGm_timeMove _ _
  unfold followStart
  dsimp only
  generalize noteGm a.gm d = e at *
  exact h1.trans ((assignRoles_timeMove _ _ _).onTime rfl)

theorem followStart_time (p : Port) (a : AnnounceMsg) (d : Dev) :
    ∃ deadline, (followStart p a d).time = d.time.following p a (relayedAnnounce d a) (Machine.ptpPort d) deadline := by
  have hlive : Machine.ptpPort (noteGm a.gm d) = Machine.ptpPort d := funext (noteGm_timeMove (K := []) a.gm d).ptpPort
  have ht := noteGm_time a.gm d
  refine ⟨announceTimeout (noteGm a.gm d), ?_⟩
  unfold followStart
  dsimp only
  generalize noteGm a.gm d = e at *
  rw [assignRoles_time, ht]
  unfold TimeS.following
  rw [← hlive]
  rfl

/-- What a node that follows a master shows. -/
structure FollowNow (p : Port) (a : AnnounceMsg) (d e : Dev) : Prop where
  slavePort : e.time.slavePort = some p
  gm : e.time.gmIdentity = a.gm
  role : Machine.ptpPort d p = true → e.time.ports[p].role = .slave
  keeps : BmcaKeeps d.time e.time
  move : TimeMove [2] d e

theorem TimeS.following_keeps (p : Port) (a relayed : AnnounceMsg) (live : Port → Bool) (deadline : Option Nat) (t : TimeS) :
    BmcaKeeps t (t.following p a relayed live deadline) := by
  unfold TimeS.following
  refine BmcaKeeps.trans ?_ (TimeS.roled_keeps _ _ _ _)
  exact .of_same rfl rfl rfl rfl rfl

theorem followStart_follows (p : Port) (a : AnnounceMsg) (d : Dev) : FollowNow p a d (followStart p a d) := by
  obtain ⟨deadline, ht⟩ := followStart_time p a d
  refine ⟨by rw [ht]; rfl, by rw [ht]; rfl, fun h => by rw [ht]; exact TimeS.roled_slave _ h _, by rw [ht]; exact TimeS.following_keeps _ _ _ _ _ _,
    followStart_timeMove p a d⟩

theorem FollowNow.time {p : Port} {a : AnnounceMsg} {d e f : Dev} (h : FollowNow p a d e) (hm : TimeMove [2] e f) (hs : f.time.slavePort = e.time.slavePort)
    (hg : f.time.gmIdentity = e.time.gmIdentity) (hp : f.time.ports = e.time.ports) (hk : BmcaKeeps e.time f.time) : FollowNow p a d f :=
  ⟨hs.trans h.slavePort, hg.trans h.gm, fun hl => by rw [hp]; exact h.role hl, h.keeps.trans hk, h.move.trans hm⟩

theorem FollowNow.held {p : Port} {a : AnnounceMsg} {d e : Dev} (h : FollowNow p a d e) : FollowNow p a d (enterHoldover e) := by
  have ht := enterHoldover_time e
  rw [TimeS.heldFrom_rest] at ht
  refine h.time (enterHoldover_timeMove (by decide) e) (by rw [ht]) (by rw [ht]) (by rw [ht]) ?_
  rw [ht]
  exact .of_same rfl rfl rfl rfl rfl

theorem FollowNow.disarmed {p : Port} {a : AnnounceMsg} {d e : Dev} (h : FollowNow p a d e) : FollowNow p a d (disarm e) := by
  have ht := disarm_time e
  refine h.time (disarm_timeMove e) (by rw [ht]) (by rw [ht]) (by rw [ht]) ?_
  rw [ht]
  exact .of_same rfl rfl rfl rfl rfl

theorem FollowNow.ppsOff {p : Port} {a : AnnounceMsg} {d e : Dev} (h : FollowNow p a d e) : FollowNow p a d (ppsOff e) :=
  h.time (onTime_timeMove rfl) rfl rfl rfl (.of_same rfl rfl rfl rfl rfl)

theorem followMaster_follows (p : Port) (a : AnnounceMsg) (d : Dev) : FollowNow p a d (followMaster p a d) := by
  have h := followStart_follows p a d
  rw [followMaster_eq]
  split
  · exact h.ppsOff.held
  · split
    · split
      · exact h.held
      · exact h.held
      · exact h.disarmed.held
      · exact h
    · exact h

theorem enterHoldover_state (d : Dev) : (enterHoldover d).time.state = .holdover := by
  rw [enterHoldover_time, TimeS.heldFrom_rest]

theorem followMaster_fromGrand (p : Port) (a : AnnounceMsg) (h : d.time.state = .grandmaster) : (followMaster p a d).time.state = .holdover := by
  rw [followMaster_eq, if_pos h]
  exact enterHoldover_state _

/-- Another master ends a lock, and an armed step. -/
theorem followMaster_relocks (p : Port) (a : AnnounceMsg) (hg : d.time.gmIdentity ≠ a.gm)
    (hst : (d.time.state = .acquiring ∨ d.time.state = .synchronised) ∨ d.time.state = .stepPending) : (followMaster p a d).time.state = .holdover ∧
      Machine.cfg (followMaster p a d) 0x2404 2 = min 0xFFFFFFFF (Machine.cfg d 0x2404 2 + 1) ∧
      (d.time.state = .stepPending → (followMaster p a d).time.armed = none) := by
  obtain ⟨deadline, ht⟩ := followStart_time p a d
  have hm : TimeMove [] d (followStart p a d) := followStart_timeMove p a d
  have hc := hm.counter (k := 2) (by decide) (by decide) (by simp)
  have hs : (followStart p a d).time.state = d.time.state := by rw [ht]; rfl
  have hng : d.time.state ≠ .grandmaster := by
    intro h
    rw [h] at hst
    rcases hst with (h | h) | h <;> cases h
  rw [followMaster_eq, if_neg hng, if_pos hg, hs]
  generalize followStart p a d = e at *
  rcases hst with (h | h) | h
  · rw [h]
    exact ⟨enterHoldover_state _, by rw [enterHoldover_counts, hc], fun h => by cases h⟩
  · rw [h]
    exact ⟨enterHoldover_state _, by rw [enterHoldover_counts, hc], fun h => by cases h⟩
  · rw [h]
    refine ⟨enterHoldover_state _, ?_, fun _ => ?_⟩
    · show Machine.cfg (enterHoldover (disarm e)) 0x2404 2 = _
      rw [enterHoldover_counts, (disarm_timeMove (K := []) e).counter (by decide) (by decide) (by simp), hc]
    · show (enterHoldover (disarm e)).time.armed = none
      rw [enterHoldover_time, TimeS.heldFrom_rest, disarm_time]

theorem runBmca_frozen (h : bmcaFrozen d = true) : runBmca d = d := if_pos h

/-- The algorithm leaves the Announces, the hold and the rate, whatever it decides. -/
theorem runBmca_keeps (d : Dev) : BmcaKeeps d.time (runBmca d).time ∧ TimeMove [2] d (runBmca d) := by
  have hf : ∀ p a, BmcaKeeps d.time (followMaster p a d).time ∧ TimeMove [2] d (followMaster p a d) := fun p a =>
    ⟨(followMaster_follows p a d).keeps, (followMaster_follows p a d).move⟩
  have hg : BmcaKeeps d.time (becomeGrandmaster d).time ∧ TimeMove [2] d (becomeGrandmaster d) :=
    ⟨(becomeGrandmaster_grand d).keeps, (becomeGrandmaster_grand d).move.wide _⟩
  have hd : BmcaKeeps d.time d.time ∧ TimeMove [2] d d := ⟨.refl _, .refl _ d⟩
  unfold runBmca
  split
  · exact hd
  · split
    · split
      · exact hf _ _
      · split
        · exact hg
        · exact hf _ _
    · split
      · exact hg
      · exact hd

theorem runBmca_follows {p : Port} {a : AnnounceMsg} (hf : bmcaFrozen d = false) (hb : bestAnnounce d = some (p, a))
    (hlt : lexLt (announceKey a) (announceKey (ownAnnounce d)) = true) : runBmca d = followMaster p a d := by
  unfold runBmca
  rw [hf, hb, if_neg (by decide)]
  dsimp only
  rw [hlt, Bool.true_or, if_pos rfl]

theorem runBmca_alone (hf : bmcaFrozen d = false) (hb : bestAnnounce d = none) (hs : maySelectSelf d = true) : runBmca d = becomeGrandmaster d := by
  unfold runBmca
  rw [hf, hb, if_neg (by decide)]
  exact if_pos hs

/-- Without Announces there is no best one. -/
theorem bestAnnounce_none (h : ∀ p : Port, d.time.ports[p].announce = none) : bestAnnounce d = none := by
  unfold bestAnnounce
  have hall : ∀ l : List Port, l.foldl (fun best p => match d.time.ports[p].announce with
      | some (a, _) => if Machine.ptpPort d p && !revealedPort d p then
          match best with
          | none => some (p, a)
          | some (_, b) => if lexLt (announceKey a) (announceKey b) then some (p, a) else best
        else best
      | none => best) (none : Option (Port × AnnounceMsg)) = none := fun l => by
    induction l with
    | nil => rfl
    | cons p l ih =>
      rw [List.foldl_cons, h p]
      exact ih
  exact hall _

theorem bestAnnounce_congr (ha : ∀ p : Port, b.time.ports[p].announce = a.time.ports[p].announce) (hp : ∀ p, Machine.ptpPort b p = Machine.ptpPort a p)
    (hr : ∀ p, revealedPort b p = revealedPort a p) : bestAnnounce b = bestAnnounce a := by
  unfold bestAnnounce
  congr 1
  funext best p
  rw [ha, hp, hr]

theorem TimeMove.ownAnnounce (h : TimeMove K a b) (hc : b.time.ownClass = a.time.ownClass) : Machine.ownAnnounce b = Machine.ownAnnounce a := by
  unfold Machine.ownAnnounce cfgI
  rw [h.cfg (.inr (.inl rfl)) (by decide), h.cfg (.inr (.inl rfl)) (by decide), h.cfg (.inl rfl) (by decide), h.chip, hc]

theorem TimeMove.bmcaFrozen (h : TimeMove K a b) (hr : b.time.roundHold = a.time.roundHold) (ht : b.time.ttdpHold = a.time.ttdpHold) :
    Machine.bmcaFrozen b = Machine.bmcaFrozen a := by
  unfold Machine.bmcaFrozen timeHeld
  rw [hr, ht, h.pow, h.safeLow]

end moves

end Sys2Proof.Machine
end

section
/-! PROOF. The time state follows Syncs, Announces, receipt timeouts, step points and limits (R188, R199, R203, R205 to R208, R215). -/

namespace Sys2Proof.Machine

section heard

variable {s : State} {d : Dev} {p : Port} {K : List (Fin 256)}

/-- The device on which a gPTP message of a type acts. -/
abbrev ptpCounted (p : Port) (type : Nat) (d : Dev) : Dev := countGood p (frameLen (ptpLength type)) d

theorem ptpCounted_timeMove (p : Port) (type : Nat) (d : Dev) : TimeMove K d (ptpCounted p type d) :=
  (countGood_move _ _ d).time (A := [.regs, .counters]) (countGood_framed _ _ _ (fun _ h => h) (.refl _ _)) (by decide)

theorem ptpCounted_time (p : Port) (type : Nat) (d : Dev) : (ptpCounted p type d).time = d.time :=
  time_of_framed (countGood_framed (L := [.regs, .counters]) _ _ _ (by decide) (.refl _ _)) (by decide) (by decide)

theorem exec_heard {c : Instr} {type : Nat} {f : Dev → Dev} (hc : exec c s = s.does (ptpHeard p type f)) (hup : portUp s.dev p = true) :
    exec c s = s.does fun d => f (ptpCounted p type d) := by
  rw [hc]
  refine does_congr ?_
  unfold ptpHeard
  rw [if_pos (show portUp s.found p = true from hup)]

theorem ptpPort_up (h : ptpPort d p = true) : portUp d p = true := by
  unfold ptpPort at h
  exact (Bool.and_eq_true_iff.mp h).2

end heard

/-! ### Announces (R199, R205 to R209) -/

section announces

variable {s : State} {p : Port} {a : AnnounceMsg}

/-- The device on which the best master algorithm runs at an Announce. -/
def announced (p : Port) (a : AnnounceMsg) (d : Dev) : Dev :=
  let d1 := onPortTime p (fun t => { t with announce := some (a, d.now) }) d
  if d1.time.slavePort = some p && d1.time.gmIdentity = a.gm then
    { d1 with time := { d1.time with announceDeadline := announceTimeout d1, utcOffset := a.utc } } else d1

theorem announced_time (p : Port) (a : AnnounceMsg) (d : Dev) : ∃ deadline utc, (announced p a d).time =
    { d.time with ports := vmod d.time.ports p fun t => { t with announce := some (a, d.now) }, announceDeadline := deadline, utcOffset := utc } := by
  unfold announced
  dsimp only
  split <;> exact ⟨_, _, rfl⟩

theorem announced_timeMove (p : Port) (a : AnnounceMsg) (d : Dev) : TimeMove [] d (announced p a d) := by
  have h : TimeMove [] d (onPortTime p (fun t => { t with announce := some (a, d.now) }) d) := onTime_timeMove rfl
  unfold announced
  exact .ite (h.trans (onTime_timeMove rfl)) h

/-- An Announce at a port that takes it. -/
theorem announce_exec (hp : ptpPort s.dev p = true) (hr : revealedPort s.dev p = false) : exec (.announce p a) s = s.does fun d =>
    let e := runBmca (announced p a (ptpCounted p 0x0B d))
    let burst := match e.time.burstUntil with | some t => e.now < t | none => false
    if burst && e.time.gmIdentity ≠ (ptpCounted p 0x0B d).time.gmIdentity then sendAnnounce e else e := by
  refine (exec_heard (c := .announce p a) rfl (ptpPort_up hp)).trans (does_congr ?_)
  have hm : TimeMove [] s.found (ptpCounted p 0x0B s.found) := ptpCounted_timeMove _ _ _
  have ht := ptpCounted_time p 0x0B s.found
  have h1 : ptpPort (ptpCounted p 0x0B s.found) p = true := (hm.ptpPort p).trans hp
  have h2 : revealedPort (ptpCounted p 0x0B s.found) p = false := by
    unfold revealedPort timeHeld
    rw [ht]
    exact hr
  rw [h1, h2, if_pos (by decide)]
  rfl

/-- What an Announce leaves is what the best master algorithm leaves. -/
theorem announce_completes {P : Dev → Prop} (hp : ptpPort s.dev p = true) (hr : revealedPort s.dev p = false)
    (hP : ∀ e d, e = announced p a (ptpCounted p 0x0B s.found) → TimeMove [] (runBmca e) d → d.time = (runBmca e).time → P d) : Completes (.announce p a) s P := by
  refine completes_of_exec (announce_exec hp hr) ?_
  have hends : ∀ b : Bool, P (if b = true then sendAnnounce (runBmca (announced p a (ptpCounted p 0x0B s.found)))
      else runBmca (announced p a (ptpCounted p 0x0B s.found))) := fun b => by
    cases b
    · exact hP _ _ rfl (.refl _ _) rfl
    · exact hP _ _ rfl (sendAnnounce_timeMove _) (sendAnnounce_time _)
  exact hends _

theorem announced_announce (d : Dev) : (announced p a d).time.ports[p].announce = some (a, d.now) := by
  obtain ⟨x, y, ht⟩ := announced_time p a d
  rw [ht]
  simp [vmod]

theorem announce_gathers (hp : ptpPort s.dev p = true) (hr : revealedPort s.dev p = false) :
    Completes (.announce p a) s fun d => d.time.ports[p].announce = some (a, s.dev.now) :=
  announce_completes hp hr fun e d he _ ht => by
    rw [ht, (runBmca_keeps e).1.announce p, he, announced_announce, (ptpCounted_timeMove (K := []) p 0x0B s.found).now]
    rfl

/-- What the algorithm finds at an Announce. -/
theorem announced_found (p : Port) (a : AnnounceMsg) (s : State) : let e := announced p a (ptpCounted p 0x0B s.found)
    TimeMove [] s.found e ∧ e.time.state = s.dev.time.state ∧ e.time.slavePort = s.dev.time.slavePort ∧ e.time.gmIdentity = s.dev.time.gmIdentity ∧
      e.time.roundHold = s.dev.time.roundHold ∧ e.time.ttdpHold = s.dev.time.ttdpHold ∧ e.time.ownClass = s.dev.time.ownClass := by
  have hm : TimeMove [] s.found (ptpCounted p 0x0B s.found) := ptpCounted_timeMove _ _ _
  have ht : (ptpCounted p 0x0B s.found).time = s.dev.time := ptpCounted_time p 0x0B s.found
  obtain ⟨x, y, he⟩ := announced_time p a (ptpCounted p 0x0B s.found)
  have h := hm.trans (announced_timeMove p a (ptpCounted p 0x0B s.found))
  refine ⟨h, ?_⟩
  rw [he, ht]
  exact ⟨rfl, rfl, rfl, rfl, rfl, rfl⟩

theorem announce_stands (hp : ptpPort s.dev p = true) (hr : revealedPort s.dev p = false) (hf : bmcaFrozen s.dev = true) :
    Completes (.announce p a) s fun d => d.time.state = s.dev.time.state ∧ d.time.slavePort = s.dev.time.slavePort ∧
      d.time.gmIdentity = s.dev.time.gmIdentity :=
  announce_completes hp hr fun e d he _ ht => by
    obtain ⟨hm, h1, h2, h3, h4, h5, -⟩ := announced_found p a s
    rw [ht, runBmca_frozen (by rw [he, hm.bmcaFrozen h4 h5]; exact hf), he]
    exact ⟨h1, h2, h3⟩

theorem announce_adopts (hp : ptpPort s.dev p = true) (hr : revealedPort s.dev p = false) (hf : bmcaFrozen s.dev = false)
    (hb : bestAnnounce (onPortTime p (fun t => { t with announce := some (a, s.dev.now) }) s.found) = some (p, a))
    (hlt : lexLt (announceKey a) (announceKey (ownAnnounce s.dev)) = true) : Completes (.announce p a) s fun d =>
      d.time.slavePort = some p ∧ d.time.gmIdentity = a.gm ∧ d.time.ports[p].role = .slave ∧
        (s.dev.time.state = .grandmaster → d.time.state = .holdover) ∧
        (s.dev.time.gmIdentity ≠ a.gm → (s.dev.time.state = .acquiring ∨ s.dev.time.state = .synchronised) ∨ s.dev.time.state = .stepPending →
          d.time.state = .holdover ∧ cfg d 0x2404 2 = min 0xFFFFFFFF (cfg s.dev 0x2404 2 + 1) ∧ (s.dev.time.state = .stepPending → d.time.armed = none)) :=
  announce_completes hp hr fun e d he hsend ht => by
    obtain ⟨hm, h1, h2, h3, h4, h5, h6⟩ := announced_found p a s
    have hbest : bestAnnounce (announced p a (ptpCounted p 0x0B s.found)) = some (p, a) := by
      rw [← hb]
      obtain ⟨x, y, hx⟩ := announced_time p a (ptpCounted p 0x0B s.found)
      have hn : (ptpCounted p 0x0B s.found).now = s.dev.now := (ptpCounted_timeMove (K := []) p 0x0B s.found).now
      rw [ptpCounted_time, hn] at hx
      refine bestAnnounce_congr (fun q => ?_) (fun q => ?_) fun q => ?_
      · rw [hx]
        rfl
      · exact (hm.ptpPort q).trans rfl
      · unfold revealedPort timeHeld
        rw [hx]
        rfl
    have hfz : bmcaFrozen (announced p a (ptpCounted p 0x0B s.found)) = false := (hm.bmcaFrozen h4 h5).trans hf
    have hlow : lexLt (announceKey a) (announceKey (ownAnnounce (announced p a (ptpCounted p 0x0B s.found)))) = true := by
      rw [hm.ownAnnounce h6]
      exact hlt
    have hport := hm.ptpPort p
    have hcount : cfg (announced p a (ptpCounted p 0x0B s.found)) 0x2404 2 = cfg s.dev 0x2404 2 :=
      hm.counter (by decide) (by decide) (by simp)
    rw [← he] at *
    rw [runBmca_follows hfz hbest hlow] at hsend ht
    have hfollow := followMaster_follows p a e
    rw [ht]
    refine ⟨hfollow.slavePort, hfollow.gm, hfollow.role (hport.trans hp), fun hg => followMaster_fromGrand p a (h1.trans hg), fun hg hst => ?_⟩
    obtain ⟨g1, g2, g3⟩ := followMaster_relocks (d := e) p a (by rw [h3]; exact hg) (by rw [h1]; exact hst)
    rw [hsend.counter (by decide) (by decide) (by simp), g2, hcount]
    exact ⟨g1, rfl, fun h => g3 (h1.trans h)⟩

end announces

/-! ### Receipt timeouts (R205, R206, R216) -/

section timeouts

variable {s : State} {d : Dev} {p : Port} {t : Nat}

theorem arrive_timeS (t : Nat) (d : Dev) : ∃ f, (arrive t d).time = { d.time with fRaw := f } := by
  have h : (arrive t d).time.rest = d.time.rest := (arrive_framed (L := [.clock, .counters]) t d (by decide) (.refl _ d)).same .time (by decide)
  have h3 : ∀ t : TimeS, t = { t.rest with fRaw := t.fRaw } := fun t => rfl
  exact ⟨(arrive t d).time.fRaw, by rw [h3 (arrive t d).time, h]; rfl⟩

/-- A timeout of Syncs, on the device at its moment. -/
def syncLost (d : Dev) : Dev := bump 0x2404 4 { d with time := { d.time with syncDeadline := none, pendingSync := none } }

theorem syncLost_time (d : Dev) : (syncLost d).time = { d.time with syncDeadline := none, pendingSync := none } := bump_time _ _ _

theorem syncReceiptTimeout_exec (ht : s.dev.time.syncDeadline = some t) : exec .syncReceiptTimeout s = s.does fun d =>
    match (syncLost (arrive t d)).time.state with
    | .acquiring | .synchronised => enterHoldover (syncLost (arrive t d))
    | _ => syncLost (arrive t d) := by
  show execSyncReceiptTimeout s = _
  unfold execSyncReceiptTimeout
  refine does_congr ?_
  have ht : s.found.time.syncDeadline = some t := ht
  rw [ht] <;> rfl

theorem syncReceiptTimeout_counts (ht : s.dev.time.syncDeadline = some t) : Completes .syncReceiptTimeout s fun d =>
    cfg d 0x2404 4 = min 0xFFFFFFFF (cfg s.dev 0x2404 4 + 1) ∧ d.now = max s.dev.now t ∧ d.time.syncDeadline = none ∧
      (s.dev.time.state = .acquiring ∨ s.dev.time.state = .synchronised → d.time.state = .holdover ∧
        cfg d 0x2404 2 = min 0xFFFFFFFF (cfg s.dev 0x2404 2 + 1) ∧ d.time.holdSince = some d.now ∧ d.time.rate = s.dev.time.rate) ∧
      (¬ (s.dev.time.state = .acquiring ∨ s.dev.time.state = .synchronised) → d.time.state = s.dev.time.state) := by
  refine completes_of_exec (syncReceiptTimeout_exec ht) ?_
  obtain ⟨f, hf⟩ := arrive_timeS t s.found
  have hnow := arrive_now t s.found
  have hdict : (arrive t s.found).dict = s.dev.dict := arrive_dict t s.found
  generalize arrive t s.found = a at *
  have htime := syncLost_time a
  rw [hf] at htime
  have hc4 : cfg (syncLost a) 0x2404 4 = min 0xFFFFFFFF (cfg s.dev 0x2404 4 + 1) := by
    unfold syncLost
    rw [cfg_bump_self _ _ _ rfl]
    exact congrArg (fun n => min 0xFFFFFFFF (n + 1)) (cfg_of_dict hdict 0x2404 4)
  have hc2 : cfg (syncLost a) 0x2404 2 = cfg s.dev 0x2404 2 := (cfg_bump_ne _ _ _ _ _ (by decide)).trans (cfg_of_dict hdict 0x2404 2)
  have hn : (syncLost a).now = max s.dev.now t := (bump_now _ _ _).trans hnow
  generalize syncLost a = b at *
  have hs : b.time.state = s.dev.time.state := by rw [htime]; rfl
  have hheld : cfg (enterHoldover b) 0x2404 4 = min 0xFFFFFFFF (cfg s.dev 0x2404 4 + 1) ∧ (enterHoldover b).now = max s.dev.now t ∧
      (enterHoldover b).time.syncDeadline = none ∧ (enterHoldover b).time.state = .holdover ∧
      cfg (enterHoldover b) 0x2404 2 = min 0xFFFFFFFF (cfg s.dev 0x2404 2 + 1) ∧ (enterHoldover b).time.holdSince = some (enterHoldover b).now ∧
      (enterHoldover b).time.rate = s.dev.time.rate := by
    have hm : TimeMove [2] b (enterHoldover b) := enterHoldover_timeMove (by decide) b
    have ht := (enterHoldover_time b).trans (TimeS.heldFrom_rest _ _)
    refine ⟨(hm.counter (by decide) (by decide) (by simp)).trans hc4, hm.now.trans hn, ?_, enterHoldover_state b, by rw [enterHoldover_counts, hc2], ?_, ?_⟩
    · rw [ht, htime]
    · rw [ht, hm.now]
    · rw [ht, htime]
      rfl
  obtain ⟨h1, h2, h3, h4, h5, h6, h7⟩ := hheld
  have hstays : b.time.syncDeadline = none := by rw [htime]
  rw [hs]
  cases hst : s.dev.time.state with
  | acquiring => exact ⟨h1, h2, h3, fun _ => ⟨h4, h5, h6, h7⟩, fun h => absurd (.inl rfl) h⟩
  | synchronised => exact ⟨h1, h2, h3, fun _ => ⟨h4, h5, h6, h7⟩, fun h => absurd (.inr rfl) h⟩
  | unsynchronised => exact ⟨hc4, hn, hstays, fun h => absurd h (by decide), fun _ => hs.trans hst⟩
  | stepPending => exact ⟨hc4, hn, hstays, fun h => absurd h (by decide), fun _ => hs.trans hst⟩
  | holdover => exact ⟨hc4, hn, hstays, fun h => absurd h (by decide), fun _ => hs.trans hst⟩
  | grandmaster => exact ⟨hc4, hn, hstays, fun h => absurd h (by decide), fun _ => hs.trans hst⟩

/-- The Announces of a master that is heard no more are dropped, and counted; without a master nothing is. -/
def masterLost (d : Dev) : Dev :=
  match d.time.slavePort with
  | some p => bump 0x2404 5 (onPortTime p (fun t => { t with announce := none }) d)
  | none => d

/-- A lock ends in Holdover. -/
def lockEnds (d : Dev) : Dev :=
  match d.time.state with
  | .acquiring | .synchronised => enterHoldover d
  | _ => d

/-- The device at a timeout of Announces, before a master is chosen again. -/
def announceLost (t : Nat) (d : Dev) : Dev :=
  lockEnds (masterLost { arrive t d with time := { (arrive t d).time with announceDeadline := none } })

theorem announceReceiptTimeout_exec (ht : s.dev.time.announceDeadline = some t) : exec .announceReceiptTimeout s = s.does fun d =>
    if bmcaFrozen (announceLost t d) then announceLost t d
    else runBmca { announceLost t d with time := { (announceLost t d).time with slavePort := none } } := by
  show execAnnounceReceiptTimeout s = _
  unfold execAnnounceReceiptTimeout
  refine does_congr ?_
  have ht : s.found.time.announceDeadline = some t := ht
  rw [ht] <;> rfl

theorem lockEnds_timeMove (d : Dev) : TimeMove [2] d (lockEnds d) := by
  unfold lockEnds
  split
  · exact enterHoldover_timeMove (by decide) d
  · exact enterHoldover_timeMove (by decide) d
  · exact .refl _ d

/-- The end of a lock leaves the ports, the rate, the slave port, the Announce deadline and the hold. -/
theorem lockEnds_time (d : Dev) : (lockEnds d).time.ports = d.time.ports ∧ (lockEnds d).time.rate = d.time.rate ∧
    (lockEnds d).time.slavePort = d.time.slavePort ∧ (lockEnds d).time.announceDeadline = d.time.announceDeadline ∧
    (lockEnds d).time.roundHold = d.time.roundHold ∧ (lockEnds d).time.ttdpHold = d.time.ttdpHold := by
  have h : (enterHoldover d).time.ports = d.time.ports ∧ (enterHoldover d).time.rate = d.time.rate ∧
      (enterHoldover d).time.slavePort = d.time.slavePort ∧ (enterHoldover d).time.announceDeadline = d.time.announceDeadline ∧
      (enterHoldover d).time.roundHold = d.time.roundHold ∧ (enterHoldover d).time.ttdpHold = d.time.ttdpHold := by
    rw [enterHoldover_time, TimeS.heldFrom_rest]
    exact ⟨rfl, rfl, rfl, rfl, rfl, rfl⟩
  unfold lockEnds
  split
  · exact h
  · exact h
  · exact ⟨rfl, rfl, rfl, rfl, rfl, rfl⟩

theorem lockEnds_holds (h : d.time.state = .acquiring ∨ d.time.state = .synchronised) : (lockEnds d).time.state = .holdover ∧
    cfg (lockEnds d) 0x2404 2 = min 0xFFFFFFFF (cfg d 0x2404 2 + 1) := by
  have hrun : lockEnds d = enterHoldover d := by
    unfold lockEnds
    rcases h with h | h <;> rw [h]
  rw [hrun]
  exact ⟨enterHoldover_state d, enterHoldover_counts d⟩

/-- What a timeout of Announces leaves before a master is chosen again. -/
structure AnnounceLost (t : Nat) (a e : Dev) : Prop where
  now : e.now = max a.now t
  deadline : e.time.announceDeadline = none
  roundHold : e.time.roundHold = a.time.roundHold
  ttdpHold : e.time.ttdpHold = a.time.ttdpHold
  rate : e.time.rate = a.time.rate
  pow : e.pow = a.pow
  chip : e.chip = a.chip
  settings : ∀ sub < 256, cfg e 0x2402 sub = cfg a 0x2402 sub

theorem announceLost_lost (t : Nat) (d : Dev) : AnnounceLost t d (announceLost t d) ∧ (announceLost t d).time.slavePort = d.time.slavePort := by
  obtain ⟨f, hf⟩ := arrive_timeS t d
  have hnow := arrive_now t d
  have hdict : (arrive t d).dict = d.dict := arrive_dict t d
  have hpow : (arrive t d).pow = d.pow := arrive_pow t d
  have hchip : (arrive t d).chip = d.chip := arrive_chip t d
  unfold announceLost
  generalize arrive t d = a at *
  have hm : ∀ e : Dev, TimeMove [5] e (masterLost e) ∧ (masterLost e).time.rate = e.time.rate ∧ (masterLost e).time.slavePort = e.time.slavePort ∧
      (masterLost e).time.announceDeadline = e.time.announceDeadline ∧ (masterLost e).time.roundHold = e.time.roundHold ∧
      (masterLost e).time.ttdpHold = e.time.ttdpHold := fun e => by
    unfold masterLost
    split
    · refine ⟨(bump_timeMove _ _ (onPortTime _ _ e) (List.mem_append_right _ (.head _))).onTime rfl, ?_⟩
      rw [bump_time]
      exact ⟨rfl, rfl, rfl, rfl, rfl⟩
    · exact ⟨.refl _ e, rfl, rfl, rfl, rfl, rfl⟩
  obtain ⟨m1, m2, m3, m4, m5, m6⟩ := hm { a with time := { a.time with announceDeadline := none } }
  generalize masterLost { a with time := { a.time with announceDeadline := none } } = b at *
  have hl := lockEnds_timeMove b
  obtain ⟨-, l2, l3, l4, l5, l6⟩ := lockEnds_time b
  refine ⟨⟨hl.now.trans (m1.now.trans hnow), l4.trans m4, l5.trans (m5.trans (by rw [hf])),
    l6.trans (m6.trans (by rw [hf])), l2.trans (m2.trans (by rw [hf])), hl.pow.trans (m1.pow.trans hpow), hl.chip.trans (m1.chip.trans hchip), fun sub hs => ?_⟩,
    l3.trans (m3.trans (by rw [hf]))⟩
  exact (hl.cfg (.inr (.inl rfl)) hs).trans ((m1.cfg (.inr (.inl rfl)) hs).trans (cfg_of_dict hdict 0x2402 sub))

theorem AnnounceLost.unslaved {a e : Dev} (h : AnnounceLost t a e) : AnnounceLost t a { e with time := { e.time with slavePort := none } } :=
  ⟨h.now, h.deadline, h.roundHold, h.ttdpHold, h.rate, h.pow, h.chip, h.settings⟩

/-- The loss of a master on a port. -/
theorem announceLost_port (h : d.time.slavePort = some p) : cfg (announceLost t d) 0x2404 5 = min 0xFFFFFFFF (cfg d 0x2404 5 + 1) ∧
    (announceLost t d).time.ports = vmod d.time.ports p (fun t => { t with announce := none }) ∧
    (d.time.state = .acquiring ∨ d.time.state = .synchronised → (announceLost t d).time.state = .holdover ∧
      cfg (announceLost t d) 0x2404 2 = min 0xFFFFFFFF (cfg d 0x2404 2 + 1)) := by
  obtain ⟨f, hf⟩ := arrive_timeS t d
  have hdict : (arrive t d).dict = d.dict := arrive_dict t d
  unfold announceLost
  generalize arrive t d = a at *
  have hrun : masterLost { a with time := { a.time with announceDeadline := none } } =
      bump 0x2404 5 (onPortTime p (fun t => { t with announce := none }) { a with time := { a.time with announceDeadline := none } }) := by
    unfold masterLost
    rw [show ({ a with time := { a.time with announceDeadline := none } } : Dev).time.slavePort = some p by rw [hf]; exact h]
  rw [hrun]
  have hb : cfg (bump 0x2404 5 (onPortTime p (fun t => { t with announce := none }) { a with time := { a.time with announceDeadline := none } })) 0x2404 5 =
      min 0xFFFFFFFF (cfg d 0x2404 5 + 1) := by
    rw [cfg_bump_self _ _ _ rfl]
    exact congrArg (fun n => min 0xFFFFFFFF (n + 1)) (cfg_of_dict hdict 0x2404 5)
  have hb2 : cfg (bump 0x2404 5 (onPortTime p (fun t => { t with announce := none }) { a with time := { a.time with announceDeadline := none } })) 0x2404 2 =
      cfg d 0x2404 2 := (cfg_bump_ne _ _ _ _ _ (by decide)).trans (cfg_of_dict hdict 0x2404 2)
  have ht : (bump 0x2404 5 (onPortTime p (fun t => { t with announce := none }) { a with time := { a.time with announceDeadline := none } })).time =
      { a.time with announceDeadline := none, ports := vmod a.time.ports p fun t => { t with announce := none } } := bump_time _ _ _
  have hp : a.time.ports = d.time.ports := by rw [hf]
  have hs : a.time.state = d.time.state := by rw [hf]
  generalize bump 0x2404 5 (onPortTime p (fun t => { t with announce := none }) { a with time := { a.time with announceDeadline := none } }) = b at *
  refine ⟨((lockEnds_timeMove b).counter (by decide) (by decide) (by simp)).trans hb, (lockEnds_time b).1.trans (by rw [ht, hp]), fun hst => ?_⟩
  obtain ⟨h1, h2⟩ := lockEnds_holds (d := b) (by rw [ht]; exact hs ▸ hst)
  exact ⟨h1, by rw [h2, hb2]⟩

/-- What a timeout of Announces leaves is what the best master algorithm makes of the loss, unless its result stands. -/
theorem announceReceiptTimeout_completes {P : Dev → Prop} (ht : s.dev.time.announceDeadline = some t)
    (hfrozen : bmcaFrozen s.dev = true → P (announceLost t s.found))
    (hruns : bmcaFrozen s.dev = false → ∀ b e : Dev, b = announceLost t s.found → e = { b with time := { b.time with slavePort := none } } →
      AnnounceLost t s.found e → bmcaFrozen e = false → P (runBmca e)) : Completes .announceReceiptTimeout s P := by
  refine completes_of_exec (announceReceiptTimeout_exec ht) ?_
  obtain ⟨hl, -⟩ := announceLost_lost t s.found
  have hf : bmcaFrozen (announceLost t s.found) = bmcaFrozen s.dev := by
    unfold bmcaFrozen timeHeld safeLow
    rw [hl.roundHold, hl.ttdpHold, hl.pow]
    rfl
  rw [hf]
  cases hb : bmcaFrozen s.dev with
  | true => exact hfrozen hb
  | false => exact hruns hb _ _ rfl rfl hl.unslaved (hf.trans hb)

theorem announceReceiptTimeout_drops (ht : s.dev.time.announceDeadline = some t) (hp : s.dev.time.slavePort = some p) :
    Completes .announceReceiptTimeout s fun d =>
      cfg d 0x2404 5 = min 0xFFFFFFFF (cfg s.dev 0x2404 5 + 1) ∧ d.now = max s.dev.now t ∧ d.time.ports[p].announce = none := by
  obtain ⟨hl, -⟩ := announceLost_lost t s.found
  obtain ⟨h1, h2, -⟩ := announceLost_port (t := t) (d := s.found) hp
  have h3 : (announceLost t s.found).time.ports[p].announce = none := by
    rw [h2]
    simp [vmod]
  refine announceReceiptTimeout_completes ht (fun _ => ⟨h1, hl.now, h3⟩) fun _ b e hb he hle _ => ?_
  rw [← hb] at h1 h3
  obtain ⟨hk, hm⟩ := runBmca_keeps e
  refine ⟨(hm.counter (by decide) (by decide) (by simp)).trans ?_, hm.now.trans hle.now, (hk.announce p).trans ?_⟩
  · rw [he]
    exact h1
  · rw [he]
    exact h3

theorem announceReceiptTimeout_stands (ht : s.dev.time.announceDeadline = some t) (hp : s.dev.time.slavePort = some p)
    (hf : bmcaFrozen s.dev = true) (hlock : s.dev.time.state = .acquiring ∨ s.dev.time.state = .synchronised) :
    Completes .announceReceiptTimeout s fun d => d.time.state = .holdover ∧ cfg d 0x2404 2 = min 0xFFFFFFFF (cfg s.dev 0x2404 2 + 1) ∧
      d.time.slavePort = some p ∧ d.time.announceDeadline = none := by
  obtain ⟨hl, hslave⟩ := announceLost_lost t s.found
  obtain ⟨-, -, h⟩ := announceLost_port (t := t) (d := s.found) hp
  obtain ⟨h1, h2⟩ := h hlock
  refine announceReceiptTimeout_completes ht (fun _ => ⟨h1, h2, hslave.trans hp, hl.deadline⟩) fun hb => ?_
  rw [hf] at hb
  cases hb

/-- A node that hears no master, keeps no state Unsynchronised or was given its settings long enough ago, may select itself. -/
theorem maySelectSelf_lost (hl : AnnounceLost t s.found d) (hf : bmcaFrozen s.dev = false) (h1 : cfg s.dev 0x2402 1 ≠ 255)
    (hst : d.time.state ≠ .unsynchronised ∨ ∃ u, d.time.appliedAt = some u ∧ u + cfg s.dev 0x2402 7 * logInterval (cfgI s.dev 8 0x2402 4) ≤ t) :
    maySelectSelf d = true := by
  have hsafe : safeLow d = false := by
    have h : safeLow s.dev = false := by
      unfold bmcaFrozen at hf
      exact (Bool.or_eq_false_iff.mp hf).2
    unfold safeLow at h ⊢
    rw [hl.pow]
    exact h
  have hset : ∀ sub < 256, cfg d 0x2402 sub = cfg s.dev 0x2402 sub := hl.settings
  have h4 : cfgI d 8 0x2402 4 = cfgI s.dev 8 0x2402 4 := congrArg (signedOf 8) (hset 4 (by decide))
  have hnow : t ≤ d.now := by
    rw [hl.now]
    exact Nat.le_max_right _ _
  unfold maySelectSelf
  rw [hset 1 (by decide), hset 7 (by decide), h4, hsafe, decide_eq_true h1, Bool.not_false, Bool.or_true, Bool.true_and, Bool.true_and]
  rcases hst with hst | ⟨u, hu, hle⟩
  · rw [decide_eq_true hst, Bool.true_or]
  · rw [hu]
    simp only [decide_eq_true (Nat.le_trans hle hnow), Bool.or_true]

theorem announceReceiptTimeout_alone (ht : s.dev.time.announceDeadline = some t) (hp : s.dev.time.slavePort = some p)
    (hf : bmcaFrozen s.dev = false) (hlock : s.dev.time.state = .acquiring ∨ s.dev.time.state = .synchronised) (h255 : cfg s.dev 0x2402 1 ≠ 255)
    (hnone : ∀ q : Port, q ≠ p → s.dev.time.ports[q].announce = none) : Completes .announceReceiptTimeout s fun d =>
      d.time.state = .grandmaster ∧ d.time.gmIdentity = clockIdentity s.dev.chip.ident ∧ d.time.rate = s.dev.time.rate := by
  obtain ⟨-, hports, h⟩ := announceLost_port (t := t) (d := s.found) hp
  obtain ⟨hst, -⟩ := h hlock
  refine announceReceiptTimeout_completes ht (fun hb => ?_) fun _ b e hb he hle hfe => ?_
  · rw [hf] at hb
    cases hb
  rw [← hb] at hports hst
  have hbest : bestAnnounce e = none := bestAnnounce_none fun q => by
    have hq : e.time.ports[q].announce = b.time.ports[q].announce := by rw [he]
    rw [hq, hports]
    by_cases hqp : q = p
    · rw [hqp]
      simp [vmod]
    · have hv : p.val ≠ q.val := fun hv => hqp (Fin.ext hv.symm)
      have h : s.found.time.ports[q].announce = none := hnone q hqp
      simpa [vmod, Vector.getElem_set, hv] using h
  have hself : maySelectSelf e = true := maySelectSelf_lost hle hf h255 (.inl (by rw [he, hst]; decide))
  rw [runBmca_alone hfe hbest hself]
  obtain ⟨g1, g2, g3, -⟩ := becomeGrandmaster_grand e
  have hc : e.chip = s.dev.chip := hle.chip
  have hr : e.time.rate = s.dev.time.rate := hle.rate
  exact ⟨g1, by rw [g2, hc], g3.rate.trans hr⟩

/-- Out of Unsynchronised, a node that becomes grandmaster announces itself on every master port. -/
theorem becomeGrandmaster_announces (h : d.time.state = .unsynchronised) : ∀ q ∈ masterPorts (becomeGrandmaster d), crossedPort d q = false →
    Out.ptp q (.announce (ownAnnounce (becomeGrandmaster d))) ∈ (becomeGrandmaster d).out := by
  have hg := grandStart_grand d
  rw [becomeGrandmaster_eq, if_pos h]
  generalize grandStart d = e at *
  obtain ⟨n, ht⟩ := sendSync_time (sendAnnounce e)
  rw [sendAnnounce_time] at ht
  have hm : TimeMove [] e (sendSync (sendAnnounce e)) := (sendAnnounce_timeMove e).trans (sendSync_timeMove _)
  intro q hq hc
  rw [hm.masterPorts (fun p => by rw [ht]) (by rw [ht]) (by rw [ht]) (by rw [ht])] at hq
  rw [hm.ownAnnounce (by rw [ht])]
  have hown : presentAnnounce e = some (ownAnnounce e) := by
    unfold presentAnnounce
    rw [if_pos hg.state]
  exact (sendSync_timeMove (K := []) _).sent _ (sendAnnounce_mem hown hq ((hg.move.crossedPort q).trans hc))

theorem announceReceiptTimeout_first {u : Nat} (ht : s.dev.time.announceDeadline = some t) (hp : s.dev.time.slavePort = none)
    (hst : s.dev.time.state = .unsynchronised) (hf : bmcaFrozen s.dev = false) (h255 : cfg s.dev 0x2402 1 ≠ 255)
    (hnone : ∀ q : Port, s.dev.time.ports[q].announce = none) (hu : s.dev.time.appliedAt = some u)
    (hle : u + cfg s.dev 0x2402 7 * logInterval (cfgI s.dev 8 0x2402 4) ≤ t) : Completes .announceReceiptTimeout s fun d =>
      d.time.state = .grandmaster ∧ d.time.gmIdentity = clockIdentity s.dev.chip.ident ∧
        ∀ q ∈ masterPorts d, crossedPort s.dev q = false → Out.ptp q (.announce (ownAnnounce d)) ∈ d.out := by
  obtain ⟨f, hft⟩ := arrive_timeS t s.found
  have hlost : (announceLost t s.found).time = { s.dev.time with fRaw := f, announceDeadline := none } ∧ (announceLost t s.found).inaug = s.dev.inaug := by
    have hi : (arrive t s.found).inaug = s.dev.inaug := arrive_inaug t s.found
    unfold announceLost
    generalize arrive t s.found = a at *
    have hm : masterLost { a with time := { a.time with announceDeadline := none } } = { a with time := { a.time with announceDeadline := none } } := by
      unfold masterLost
      rw [show ({ a with time := { a.time with announceDeadline := none } } : Dev).time.slavePort = none by rw [hft]; exact hp]
    rw [hm]
    have hk : lockEnds { a with time := { a.time with announceDeadline := none } } = { a with time := { a.time with announceDeadline := none } } := by
      unfold lockEnds
      rw [show ({ a with time := { a.time with announceDeadline := none } } : Dev).time.state = .unsynchronised by rw [hft]; exact hst]
    rw [hk]
    exact ⟨by rw [hft]; rfl, hi⟩
  obtain ⟨hlt, hli⟩ := hlost
  refine announceReceiptTimeout_completes ht (fun hb => ?_) fun _ b e hb he hle' hfe => ?_
  · rw [hf] at hb
    cases hb
  rw [← hb] at hlt hli
  have hte : e.time = { s.dev.time with fRaw := f, announceDeadline := none, slavePort := none } := by rw [he, hlt]
  have hie : e.inaug = s.dev.inaug := by rw [he, hli]
  have hbest : bestAnnounce e = none := bestAnnounce_none fun q => by
    rw [hte]
    exact hnone q
  have hself : maySelectSelf e = true := maySelectSelf_lost hle' hf h255 (.inr ⟨u, by rw [hte]; exact hu, hle⟩)
  rw [runBmca_alone hfe hbest hself]
  obtain ⟨g1, g2, -, -⟩ := becomeGrandmaster_grand e
  have hchip : e.chip = s.dev.chip := hle'.chip
  refine ⟨g1, by rw [g2, hchip],
    fun q hq hc => becomeGrandmaster_announces (by rw [hte]; exact hst) q hq ?_⟩
  unfold crossedPort at hc ⊢
  rw [hie]
  exact hc

end timeouts

end Sys2Proof.Machine
end

section
/-! PROOF. The time state follows Syncs, limits, holds and step points, and the grandmaster sends (R188, R199, R203, R205 to R208, R215). -/

namespace Sys2Proof.Machine

/-! ### Limits, holds and what the grandmaster sends (R199, R205 to R208, R215) -/

section limits

variable {s : State} {d : Dev} {t : Nat}

/-- What an arrival leaves. -/
theorem arrive_timeRest (t : Nat) (d : Dev) : ∃ f, (arrive t d).time = { d.time with fRaw := f } ∧ (arrive t d).now = max d.now t ∧
    (arrive t d).dict = d.dict ∧ (arrive t d).inaug = d.inaug ∧ (arrive t d).chip = d.chip ∧ (arrive t d).pow = d.pow ∧ (arrive t d).ports = d.ports := by
  obtain ⟨f, hf⟩ := arrive_timeS t d
  exact ⟨f, hf, arrive_now t d, arrive_dict t d, arrive_inaug t d, arrive_chip t d, arrive_pow t d, arrive_ports t d⟩

/-- The moment of an arrival. -/
theorem arrive_found (n : Nat) (s : State) : (arrive n s.found).now = max s.dev.now n := arrive_now n s.found

/-- The limit of Holdover passes. -/
def holdPassed (d : Dev) : Dev := raise evHoldLimit noInst { d with time := { d.time with holdLimitPassed := true } }

theorem holdPassed_marks (d : Dev) : (holdPassed d).time = { d.time with holdLimitPassed := true } ∧ (holdPassed d).now = d.now ∧
    Framed ([.clock, .time] ++ eventParts) d (holdPassed d) := by
  refine ⟨raise_timeS _ _ _, (raise_timeMove (K := []) _ _ _).now, raise_framed _ _ _ (by decide) fun p => ?_⟩
  cases p <;> first | exact .inl (by decide) | exact .inr rfl

theorem holdoverLimit_marks (ht : s.dev.time.holdSince = some t) (hst : s.dev.time.state = .holdover) (hp : s.dev.time.holdLimitPassed = false) :
    Completes .holdoverLimit s fun d => d.time.holdLimitPassed = true ∧ d.time.state = .holdover ∧
      d.now = max s.dev.now (t + cfg s.dev 0x2402 0x0C * sNs) ∧ Framed ([.clock, .time] ++ eventParts) s.found d := by
  have hrun : exec .holdoverLimit s = s.does fun d => holdPassed (arrive (t + cfg d 0x2402 0x0C * sNs) d) := by
    show execHoldoverLimit s = _
    unfold execHoldoverLimit holdPassed
    refine does_congr ?_
    have hc : (decide (s.found.time.state = .holdover) && !s.found.time.holdLimitPassed) = true := by
      rw [show s.found.time.state = .holdover from hst, show s.found.time.holdLimitPassed = false from hp]
      rfl
    have ht : s.found.time.holdSince = some t := ht
    rw [ht]
    exact if_pos hc
  refine completes_of_exec hrun ?_
  have hcfg : cfg s.found 0x2402 0x0C = cfg s.dev 0x2402 0x0C := rfl
  rw [hcfg]
  have hmoment : ∀ n : Nat, (holdPassed (arrive n s.found)).time.holdLimitPassed = true ∧ (holdPassed (arrive n s.found)).time.state = .holdover ∧
      (holdPassed (arrive n s.found)).now = max s.dev.now n ∧ Framed ([.clock, .time] ++ eventParts) s.found (holdPassed (arrive n s.found)) := fun n => by
    obtain ⟨h1, h2, h3⟩ := holdPassed_marks (arrive n s.found)
    obtain ⟨f, hf, -⟩ := arrive_timeRest n s.found
    refine ⟨by rw [h1], ?_, h2.trans (arrive_found n s), (arrive_framed n _ (by decide) (.refl _ s.found)).trans h3⟩
    rw [h1, hf]
    exact hst
  exact hmoment _

/-- What a device sends at the end of a hold. -/
theorem timeHoldEnd_ends (d : Dev) : (timeHoldEnd d).time.roundHold = none ∧ (timeHoldEnd d).time.ttdpHold = false ∧
    (timeHoldEnd d).time.revealed = [] ∧ (timeHoldEnd d).now = d.now ∧
    ∀ a, presentAnnounce (timeHoldEnd d) = some a → ∀ q ∈ masterPorts (timeHoldEnd d), crossedPort d q = false → Out.ptp q (.announce a) ∈ (timeHoldEnd d).out := by
  have hrun : ∃ b : Option Nat, timeHoldEnd d = sendSync (sendAnnounce (runBmca
      { d with time := { d.time with roundHold := none, ttdpHold := false, revealed := [], burstUntil := b } })) := ⟨_, rfl⟩
  obtain ⟨b, hrun⟩ := hrun
  obtain ⟨hk, hm⟩ := runBmca_keeps { d with time := { d.time with roundHold := none, ttdpHold := false, revealed := [], burstUntil := b } }
  rw [hrun]
  generalize runBmca { d with time := { d.time with roundHold := none, ttdpHold := false, revealed := [], burstUntil := b } } = e at *
  obtain ⟨n, ht⟩ := sendSync_time (sendAnnounce e)
  rw [sendAnnounce_time] at ht
  have hs : TimeMove [] e (sendSync (sendAnnounce e)) := (sendAnnounce_timeMove e).trans (sendSync_timeMove _)
  refine ⟨by rw [ht]; exact hk.roundHold, by rw [ht]; exact hk.ttdpHold, by rw [ht]; exact hk.revealed, hs.now.trans hm.now, fun a ha q hq hc => ?_⟩
  have hpresent : presentAnnounce e = some a := by
    rw [← ha]
    unfold presentAnnounce relayedAnnounce
    rw [ht, hs.ownAnnounce (by rw [ht]), hs.chip]
  rw [hs.masterPorts (fun p => by rw [ht]) (by rw [ht]) (by rw [ht]) (by rw [ht])] at hq
  exact (sendSync_timeMove (K := []) _).sent _ (sendAnnounce_mem hpresent hq ((hm.crossedPort q).trans hc))

theorem roundHoldEnd_ends (ht : s.dev.time.roundHold = some t) : Completes .roundHoldEnd s fun d =>
    d.time.roundHold = none ∧ d.time.ttdpHold = false ∧ d.time.revealed = [] ∧ d.now = max s.dev.now t ∧
      ∀ a, presentAnnounce d = some a → ∀ q ∈ masterPorts d, crossedPort s.dev q = false → Out.ptp q (.announce a) ∈ d.out := by
  have hrun : exec .roundHoldEnd s = s.does fun d => timeHoldEnd (arrive t d) := by
    show execRoundHoldEnd s = _
    unfold execRoundHoldEnd
    refine does_congr ?_
    have ht : s.found.time.roundHold = some t := ht
    rw [ht]
  refine completes_of_exec hrun ?_
  obtain ⟨f, -, hn, -, hi, -⟩ := arrive_timeRest t s.found
  obtain ⟨h1, h2, h3, h4, h5⟩ := timeHoldEnd_ends (arrive t s.found)
  refine ⟨h1, h2, h3, h4.trans hn, fun a ha q hq hc => h5 a ha q hq ?_⟩
  unfold crossedPort at hc ⊢
  rw [hi]
  exact hc

theorem syncInterval_sends (hst : s.dev.time.state = .grandmaster) : Completes .syncInterval s fun d =>
    d.time = { s.dev.time with syncSeq := s.dev.time.syncSeq + 1 } ∧
      (∀ q ∈ masterPorts s.dev, crossedPort s.dev q = false → Out.ptp q (.sync s.dev.time.syncSeq (clockIdentity s.dev.chip.ident)) ∈ d.out) ∧
      (∀ q ∈ masterPorts s.dev, crossedPort s.dev q = false →
        Out.ptp q (.followUp s.dev.time.syncSeq (clockIdentity s.dev.chip.ident) (trainTime s.dev) 0) ∈ d.out) ∧
      Framed [.time, .out, .queues, .regs, .counters, .fresh] s.found d := by
  have hrun : exec .syncInterval s = s.does fun d => onMasters (.followUp d.time.syncSeq (clockIdentity d.chip.ident) (trainTime d) 0)
      (onMasters (.sync d.time.syncSeq (clockIdentity d.chip.ident)) { d with time := { d.time with syncSeq := d.time.syncSeq + 1 } }) := by
    show s.does sendSync = _
    refine does_congr ?_
    exact if_pos (show s.found.time.state = .grandmaster from hst)
  refine completes_of_exec hrun ?_
  have hm : masterPorts { s.found with time := { s.found.time with syncSeq := s.found.time.syncSeq + 1 } } = masterPorts s.dev := rfl
  have hsync := onMasters_timeMove (K := []) (.sync s.found.time.syncSeq (clockIdentity s.found.chip.ident))
    { s.found with time := { s.found.time with syncSeq := s.found.time.syncSeq + 1 } }
  have hst := onMasters_time (.sync s.found.time.syncSeq (clockIdentity s.found.chip.ident))
    { s.found with time := { s.found.time with syncSeq := s.found.time.syncSeq + 1 } }
  refine ⟨by rw [onMasters_time, hst]; rfl, fun q hq hc => ?_, fun q hq hc => ?_, ?_⟩
  · exact (onMasters_timeMove (K := []) _ _).sent _ (onMasters_mem _ (hm.symm ▸ hq) hc)
  · refine onMasters_mem _ ?_ ((hsync.crossedPort q).trans hc)
    rw [hsync.masterPorts (fun p => by rw [hst]) (by rw [hst]) (by rw [hst]) (by rw [hst]), hm]
    exact hq
  · refine onMasters_framed _ _ (by decide) (onMasters_framed _ _ (by decide) fun p => ?_)
    cases p <;> first | exact .inl (by decide) | exact .inr rfl

theorem announceInterval_sends : Completes .announceInterval s fun d =>
    (∀ a, presentAnnounce s.dev = some a → ∀ q ∈ masterPorts s.dev, crossedPort s.dev q = false → Out.ptp q (.announce a) ∈ d.out) ∧
      Framed [.out, .queues, .regs, .counters, .fresh] s.found d := by
  refine completes_of_exec (f := sendAnnounce) rfl ?_
  exact ⟨fun a ha q hq hc => sendAnnounce_mem (d := s.found) ha hq hc, sendAnnounce_framed _ (by decide) (.refl _ _)⟩

theorem ppsDisciplines_arrive (t : Nat) (d : Dev) : ppsDisciplines (arrive t d) = ppsDisciplines d := by
  obtain ⟨f, hf, -, hd, -⟩ := arrive_timeRest t d
  unfold ppsDisciplines
  rw [hf, cfg_of_dict hd]

/-- PPS_IN is lost. -/
def ppsLost (d : Dev) : Dev :=
  if ppsDisciplines d then
    raise evPpsLost noInst { d with time := { d.time with ppsInLast := none, ppsInLostAt := some d.now, ownClass := 7, gmClass := 7 } }
  else { d with time := { d.time with ppsInLast := none } }

theorem ppsLost_announces (d : Dev) : (ppsLost d).time.ppsInLast = none ∧ (ppsLost d).now = d.now ∧ (ppsLost d).time.rate = d.time.rate ∧
    if ppsDisciplines d then (ppsLost d).time.ownClass = 7 ∧ (ppsLost d).time.ppsInLostAt = some d.now
    else (ppsLost d).time.ownClass = d.time.ownClass := by
  unfold ppsLost
  split
  · have hrt := raise_timeS evPpsLost noInst { d with time := { d.time with ppsInLast := none, ppsInLostAt := some d.now, ownClass := 7, gmClass := 7 } }
    exact ⟨by rw [hrt], (raise_timeMove (K := []) _ _ _).now, by rw [hrt], by rw [hrt], by rw [hrt]⟩
  · exact ⟨rfl, rfl, rfl, rfl⟩

theorem ppsInLoss_announces (ht : s.dev.time.ppsInLast = some t) : Completes .ppsInLoss s fun d => d.time.ppsInLast = none ∧
    d.now = max s.dev.now (t + 3 * sNs) ∧ d.time.rate = s.dev.time.rate ∧
    if ppsDisciplines s.dev then d.time.ownClass = 7 ∧ d.time.ppsInLostAt = some d.now else d.time.ownClass = s.dev.time.ownClass := by
  have hrun : exec .ppsInLoss s = s.does fun d => ppsLost (arrive (t + 3 * sNs) d) := by
    show execPpsInLoss s = _
    unfold execPpsInLoss ppsLost
    refine does_congr ?_
    have ht : s.found.time.ppsInLast = some t := ht
    rw [ht]
  refine completes_of_exec hrun ?_
  have hd : ppsDisciplines (arrive (t + 3 * sNs) s.found) = ppsDisciplines s.dev := ppsDisciplines_arrive _ s.found
  have hn := arrive_found (t + 3 * sNs) s
  obtain ⟨f, hf, -⟩ := arrive_timeRest (t + 3 * sNs) s.found
  have hr : (arrive (t + 3 * sNs) s.found).time.rate = s.dev.time.rate := by rw [hf]; rfl
  have ho : (arrive (t + 3 * sNs) s.found).time.ownClass = s.dev.time.ownClass := by rw [hf]; rfl
  obtain ⟨h1, h2, h3, h4⟩ := ppsLost_announces (arrive (t + 3 * sNs) s.found)
  rw [hd, ← h2, ho] at h4
  exact ⟨h1, h2.trans hn, h3.trans hr, h4⟩

theorem ppsInHoldoverLimit_ends (ht : s.dev.time.ppsInLostAt = some t) : Completes .ppsInHoldoverLimit s fun d => d.time.ownClass = 248 ∧
    d.time.ppsInLostAt = none ∧ d.now = max s.dev.now (t + cfg s.dev 0x2402 0x0C * sNs) ∧ Framed [.clock, .counters, .time] s.found d := by
  have hrun : exec .ppsInHoldoverLimit s = s.does fun d =>
      { arrive (t + cfg d 0x2402 0x0C * sNs) d with time := { (arrive (t + cfg d 0x2402 0x0C * sNs) d).time with
          ppsInLostAt := none, ownClass := 248
          gmClass := if (arrive (t + cfg d 0x2402 0x0C * sNs) d).time.state = .grandmaster then 248 else (arrive (t + cfg d 0x2402 0x0C * sNs) d).time.gmClass } } := by
    show execPpsInHoldoverLimit s = _
    unfold execPpsInHoldoverLimit
    refine does_congr ?_
    have ht : s.found.time.ppsInLostAt = some t := ht
    rw [ht]
  refine completes_of_exec hrun ?_
  have hn := arrive_found (t + cfg s.found 0x2402 0x0C * sNs) s
  refine ⟨rfl, rfl, hn, ?_⟩
  refine Framed.trans (arrive_framed (L := [.clock, .counters, .time]) (t + cfg s.found 0x2402 0x0C * sNs) _ (by decide) (.refl _ s.found)) fun p => ?_
  cases p <;> first | exact .inl (by decide) | exact .inr rfl

end limits

end Sys2Proof.Machine
end

section
/-! PROOF. Steps of train time: at their point and at a request (R203, R205, R213, R215, R275). -/

namespace Sys2Proof.Machine

/-! ### What a step leaves (R188, R205, R213, R275) -/

section stepped

variable {a b c d : Dev} {K : List (Fin 256)}

theorem recordEntry_timeMove (e : Entry) (d : Dev) : TimeMove K d (recordEntry e d) := by
  have hf : Framed [.out, .regs, .recd, .ints, .counters] d (recordEntry e d) := recordEntry_framed e d (fun _ h => h) (.refl _ d)
  have hr : RecordsOnly d (recordEntry e d) ∧ Sent d (recordEntry e d) := by
    unfold recordEntry
    refine ⟨.ite ((RecordsOnly.refl d).bump _ _ (by decide)) ?_, .ite (.of_eq (by simp)) ?_⟩
    · split
      · exact earlyAccept_recordsOnly e d
      · exact earlyAccept_recordsOnly e d
      · exact placeEntry_recordsOnly e d
    · split
      · exact .of_eq (by simp)
      · exact .of_eq (by simp)
      · exact placeEntry_sent e d
  exact ⟨hr.2, hr.1.1.mono fun _ h => List.mem_append_left _ (List.mem_append_left _ (roundCounters_event h)), hf.mono (by decide)⟩

theorem bumpBy_timeMove (idx sub k : Nat) (d : Dev) (h : (idx, sub) ∈ timeCounters ++ K.map fun k => (0x2404, k.val)) : TimeMove K d (bumpBy idx sub k d) :=
  ⟨.of_eq rfl, (RegsFramed.refl _ d).setReg _ _ _ h, bumpBy_framed _ _ _ _ (by decide) (.refl _ d)⟩

theorem tevtAfterStep_timeMove (d : Dev) : TimeMove K d (tevtAfterStep d) := by
  have h8 : (0x2404, 8) ∈ timeCounters ++ K.map fun k => (0x2404, k.val) := List.mem_append_left _ (by decide)
  unfold tevtAfterStep
  dsimp only
  split
  · exact .refl K d
  · exact .ite ((bumpBy_timeMove _ _ _ _ h8).onTime rfl) (.ite ((bump_timeMove _ _ _ h8).onTime rfl) (.refl K d))

theorem tevtAfterStep_time (d : Dev) : ∃ next, (tevtAfterStep d).time = { d.time with tevtNext := next } := by
  unfold tevtAfterStep
  dsimp only
  split
  · exact ⟨d.time.tevtNext, rfl⟩
  · split
    · exact ⟨_, rfl⟩
    · split
      · exact ⟨none, bump_time _ _ _⟩
      · exact ⟨d.time.tevtNext, rfl⟩

theorem streamsStep_timeMove (amount : Int) (d : Dev) : TimeMove K d (streamsStep amount d) := by
  have hs : ∀ t : StreamsS, TimeMove K d { d with strm := t } := fun t => .quiet (A := [.strm])
    (fun p => by cases p <;> first | exact .inl (by decide) | exact .inr rfl) (by decide) (by decide) (by decide)
  unfold streamsStep
  dsimp only
  split
  · exact hs _
  · exact (hs _).trans (bump_timeMove 0x2602 4 _ (List.mem_append_left _ (by decide)))

/-- A step before the load channels act. -/
theorem stepTime_timeMove (amount : Int) (d : Dev) : TimeMove K d (stepTime amount d) := by
  have hsched : ∀ (e : Dev) (t : SchedS), TimeMove K e { e with sched := t } := fun e t => .quiet (A := [.sched])
    (fun p => by cases p <;> first | exact .inl (by decide) | exact .inr rfl) (by decide) (by decide) (by decide)
  have hint : ∀ e : Dev, TimeMove K e (setInt 7 e) := fun e => by
    have h : Framed [.out, .ints] e (setInt 7 e) := setInt_framed 7 e (fun _ h => h) (.refl _ e)
    exact ⟨setInt_sent 7 e, .of_same (h.same .regs (by decide)), h.mono (by decide)⟩
  unfold stepTime
  dsimp only
  have hbase : TimeMove K d { d with time := { d.time with base := d.time.base + amount * 2 ^ 32, stepGen := (d.time.stepGen + 1) % 8 } } := onTime_timeMove rfl
  have h := (hbase.trans ((tevtAfterStep_timeMove _).trans (hint _))).trans ((recordEntry_timeMove { newEntry evStep noInst
    (leBytes 8 (trainTime d) ++ leBytes 8 (unsignedOf 64 amount)) d with stepGen := (d.time.stepGen + 1) % 8 } _).trans (streamsStep_timeMove amount _))
  exact .ite ((h.trans (hsched _ _)).trans (bump_timeMove 0x2505 9 _ (List.mem_append_left _ (by decide)))) h

theorem recordEntry_timeS (e : Entry) (d : Dev) : (recordEntry e d).time = d.time :=
  time_of_framed (recordEntry_framed (L := [.out, .regs, .recd, .ints, .counters]) e d (fun _ h => h) (.refl _ d)) (by decide) (by decide)

theorem streamsStep_timeS (amount : Int) (d : Dev) : (streamsStep amount d).time = d.time :=
  time_of_framed (streamsStep_framed (L := [.regs, .strm]) amount d (fun _ h => h) (.refl _ d)) (by decide) (by decide)

theorem stepTime_time (amount : Int) (d : Dev) : ∃ next, (stepTime amount d).time = { d.time with
    base := d.time.base + amount * 2 ^ 32, stepGen := (d.time.stepGen + 1) % 8, tevtNext := next } := by
  obtain ⟨next, h⟩ := tevtAfterStep_time { d with time := { d.time with base := d.time.base + amount * 2 ^ 32, stepGen := (d.time.stepGen + 1) % 8 } }
  refine ⟨next, ?_⟩
  unfold stepTime
  dsimp only
  split
  · rw [bump_time, streamsStep_timeS, recordEntry_timeS, setInt_timeS, h]
  · rw [streamsStep_timeS, recordEntry_timeS, setInt_timeS, h]

theorem windowsBegun_sent (stop : Nat) (n : Fin 4) (d : Dev) : Sent d (windowsBegun stop n d) :=
  .forEach (fun k e => .of_eq (e := onCh k _ e) rfl) (chansOf n) d

theorem transferSent_sent (x : Nat × Nat × Nat) (n : Fin 4) (d : Dev) : Sent d (transferSent x n d) := by
  have hlast : ∀ (o : Out) (f : Companion → Companion) (w : Dev), Sent w (emit o (onComp n f w)) := fun o f w => (emit_sent o (onComp n f w)).after rfl
  exact (windowsBegun_sent _ n d).trans (hlast _ _ _)

theorem startTransfer_sent (short : Bool) (n : Fin 4) (d : Dev) : Sent d (startTransfer short n d) := by
  have hp : Sent d (polled n d) := by
    unfold polled
    split
    · exact .of_eq rfl
    · exact .of_eq rfl
    · exact .refl d
  rw [startTransfer_eq]
  exact hp.trans (transferSent_sent _ n _)

theorem kick_sent (short : Bool) (n : Fin 4) (d : Dev) : Sent d (kick short n d) := by
  unfold kick
  exact .ite (.refl d) (.ite (.of_eq rfl) (.ite (.of_eq rfl) (startTransfer_sent short n d)))

/-- The load channels at a step: they send, and nothing else is told of it. -/
theorem rework_timeMove (was d : Dev) : TimeMove K d (rework was d) := by
  have hload : ∀ {e f : Dev}, Framed [.load] e f → TimeMove K e f := fun h => .quiet h (by decide) (by decide) (by decide)
  have hkick : ∀ (short : Bool) (n : Fin 4) (e : Dev), TimeMove K e (kick short n e) := fun short n e => by
    have h : Framed [.out, .load] e (kick short n e) := kick_framed short n e (fun _ h => h) (.refl _ e)
    exact ⟨kick_sent short n e, .of_same (h.same .regs (by decide)), h.mono (by decide)⟩
  have hedge : ∀ (k : Fin 32) (e : Dev), TimeMove K e (edgeEffect k e) := fun k e => hload (edgeEffect_framed k e (by decide) (.refl _ e))
  have hch : ∀ (k : Fin 32) (f : LoadCh → LoadCh) (e : Dev), TimeMove K e (onCh k f e) := fun k f e => hload (onCh_framed k f e (by decide) (.refl _ e))
  unfold rework
  dsimp only
  exact (TimeMove.forEach hedge _ d).trans ((TimeMove.forEach (fun k e => hch k _ e) _ _).trans (TimeMove.forEach (hkick false) _ _))

/-- The load channels leave the time. -/
theorem rework_timeS (was d : Dev) : (rework was d).time = d.time := by
  have hkick : ∀ (short : Bool) (n : Fin 4) (e : Dev), (kick short n e).time = e.time := fun short n e =>
    time_of_framed (kick_framed (L := [.out, .load]) short n e (by decide) (.refl _ e)) (by decide) (by decide)
  have hedge : ∀ (k : Fin 32) (e : Dev), (edgeEffect k e).time = e.time := fun k e =>
    time_of_framed (edgeEffect_framed (L := [.load]) k e (by decide) (.refl _ e)) (by decide) (by decide)
  have hall : ∀ {α : Type} (f : α → Dev → Dev) (_ : ∀ x e, (f x e).time = e.time) (l : List α) (e : Dev), (forEach l f e).time = e.time := fun f hf l => by
    induction l with
    | nil => exact fun _ => rfl
    | cons x l ih => exact fun e => (ih (f x e)).trans (hf x e)
  unfold rework
  dsimp only
  exact (hall _ (hkick false) _ _).trans ((hall (fun k e => onCh k (fun t => { t with edge := trainTime e }) e) (fun _ _ => rfl) _ _).trans (hall _ hedge _ _))

theorem stepAll_timeMove (amount : Int) (d : Dev) : TimeMove K d (stepAll amount d) := (stepTime_timeMove amount d).trans (rework_timeMove d _)

theorem stepAll_time (amount : Int) (d : Dev) : ∃ next, (stepAll amount d).time = { d.time with
    base := d.time.base + amount * 2 ^ 32, stepGen := (d.time.stepGen + 1) % 8, tevtNext := next } := by
  obtain ⟨next, h⟩ := stepTime_time amount d
  exact ⟨next, (rework_timeS d _).trans h⟩

end stepped

/-! ### The armed step and the step asked for (R205, R215) -/

section steps

variable {s : State}

theorem arriveTrain_timeRest (t : Nat) (d : Dev) : ∃ f, (arriveTrain t d).time = { d.time with fRaw := f } := by
  have h : (arriveTrain t d).time.rest = d.time.rest := (arriveTrain_framed (L := [.clock, .counters]) t d (by decide) (.refl _ d)).same .time (by decide)
  have h3 : ∀ t : TimeS, t = { t.rest with fRaw := t.fRaw } := fun t => rfl
  exact ⟨(arriveTrain t d).time.fRaw, by rw [h3 (arriveTrain t d).time, h]; rfl⟩

/-- The armed step applies, before the state follows. -/
def stepApplied (amount : Int) (d : Dev) : Dev :=
  let e := stepAll amount { d with time := { d.time with armed := none } }
  bump 0x2404 1 { e with time := { e.time with lastStep := amount, goodSyncs := 0 } }

/-- What an applied step leaves. -/
structure StepApplied (amount : Int) (t : TimeS) (d e : Dev) : Prop where
  armed : e.time.armed = none
  counter : cfg e 0x2404 1 = min 0xFFFFFFFF (cfg d 0x2404 1 + 1)
  last : e.time.lastStep = amount
  base : e.time.base = t.base + amount * 2 ^ 32
  stepGen : e.time.stepGen = (t.stepGen + 1) % 8

theorem stepApplied_applies (amount : Int) (d : Dev) : StepApplied amount d.time d (stepApplied amount d) ∧ (stepApplied amount d).pow = d.pow := by
  have hm : TimeMove [] d (stepAll amount { d with time := { d.time with armed := none } }) := (stepAll_timeMove _ _).onTime rfl
  obtain ⟨next, ht⟩ := stepAll_time amount { d with time := { d.time with armed := none } }
  unfold stepApplied
  dsimp only
  generalize stepAll amount { d with time := { d.time with armed := none } } = e at *
  refine ⟨⟨?_, ?_, ?_, ?_, ?_⟩, (bump_pow _ _ _).trans hm.pow⟩
  · rw [bump_time, ht]
  · rw [cfg_bump_self _ _ _ rfl]
    exact congrArg (fun n => min 0xFFFFFFFF (n + 1)) (hm.counter (by decide) (by decide) (by simp))
  · rw [bump_time]
  · rw [bump_time, ht]
  · rw [bump_time, ht]

theorem StepApplied.enters {amount : Int} {t : TimeS} {d e f : Dev} (h : StepApplied amount t d e) (hm : TimeMove [2] e f)
    (h1 : f.time.armed = e.time.armed) (h2 : f.time.lastStep = e.time.lastStep) (h3 : f.time.base = e.time.base) (h4 : f.time.stepGen = e.time.stepGen) :
    StepApplied amount t d f :=
  ⟨h1.trans h.armed, (hm.counter (by decide) (by decide) (by simp)).trans h.counter, h2.trans h.last, h3.trans h.base, h4.trans h.stepGen⟩

theorem stepPoint_applies {x : ArmedStep} (ha : s.dev.time.armed = some x) : Completes .stepPoint s fun d =>
    d.time.armed = none ∧ cfg d 0x2404 1 = min 0xFFFFFFFF (cfg s.dev 0x2404 1 + 1) ∧ d.time.lastStep = x.amount ∧
      d.time.base = s.dev.time.base + x.amount * 2 ^ 32 ∧ d.time.stepGen = (s.dev.time.stepGen + 1) % 8 ∧
      d.time.state = if s.dev.pow.agentReady then .acquiring else .holdover := by
  have hrun : exec .stepPoint s = s.does fun d => if (stepApplied x.amount (arriveTrain x.point d)).pow.agentReady then
      setTimeState .acquiring (stepApplied x.amount (arriveTrain x.point d)) else enterHoldover (stepApplied x.amount (arriveTrain x.point d)) := by
    show execStepPoint s = _
    unfold execStepPoint stepApplied
    refine does_congr ?_
    have ha : s.found.time.armed = some x := ha
    rw [ha]
  refine completes_of_exec hrun ?_
  obtain ⟨f, hf⟩ := arriveTrain_timeRest x.point s.found
  obtain ⟨-, -, -, -, hpow, hdict, -⟩ := arriveTrain_leaves (s := s) x.point
  have hb : (arriveTrain x.point s.found).time.base = s.dev.time.base := by rw [hf]; rfl
  have hg : (arriveTrain x.point s.found).time.stepGen = s.dev.time.stepGen := by rw [hf]; rfl
  have hc : cfg (arriveTrain x.point s.found) 0x2404 1 = cfg s.dev 0x2404 1 := cfg_of_dict hdict 0x2404 1
  generalize arriveTrain x.point s.found = a at *
  obtain ⟨h, hp⟩ := stepApplied_applies x.amount a
  rw [hp, hpow]
  generalize stepApplied x.amount a = e at *
  have hfin : ∀ g : Dev, StepApplied x.amount a.time a g → g.time.armed = none ∧ cfg g 0x2404 1 = min 0xFFFFFFFF (cfg s.dev 0x2404 1 + 1) ∧
      g.time.lastStep = x.amount ∧ g.time.base = s.dev.time.base + x.amount * 2 ^ 32 ∧ g.time.stepGen = (s.dev.time.stepGen + 1) % 8 := fun g hg' => by
    refine ⟨hg'.armed, ?_, hg'.last, ?_, ?_⟩
    · rw [hg'.counter, hc]
    · rw [hg'.base, hb]
    · rw [hg'.stepGen, hg]
  cases s.dev.pow.agentReady with
  | true =>
    have ht := (setTimeState_time .acquiring e).trans (TimeS.enter_rest _ _)
    obtain ⟨g1, g2, g3, g4, g5⟩ := hfin (setTimeState .acquiring e)
      (h.enters (setTimeState_timeMove _ _) (by rw [ht]) (by rw [ht]) (by rw [ht]) (by rw [ht]))
    exact ⟨g1, g2, g3, g4, g5, (setTimeState_time .acquiring e).symm ▸ TimeS.enter_state _ _⟩
  | false =>
    have ht := (enterHoldover_time e).trans (TimeS.heldFrom_rest _ _)
    obtain ⟨g1, g2, g3, g4, g5⟩ := hfin (enterHoldover e)
      (h.enters (enterHoldover_timeMove (by decide) e) (by rw [ht]) (by rw [ht]) (by rw [ht]) (by rw [ht]))
    exact ⟨g1, g2, g3, g4, g5, enterHoldover_state e⟩

/-- A signed value read from its bytes. -/
theorem signedOf_toNat (v : BitVec 64) : signedOf 64 v.toNat = v.toInt := by
  unfold signedOf
  rw [BitVec.toInt_eq_toNat_cond]
  split <;> split <;> omega

theorem actOn_step (src : Src) (data : List Byte) (role n : Nat) (d : Dev) : actOn (writeOf src 0x2401 3 0 data) role (.num n) d =
    Act.when (stepAllowed d) (requestedStep (signedOf 64 n) d) := by
  unfold actOn
  rw [if_neg (by simp [writeOf]), if_neg (by simp [writeOf]), if_pos (by simp [writeOf])]
  unfold netAct
  rw [if_neg (by simp [writeOf]), if_neg (by simp [writeOf]), if_neg (by simp [writeOf]), if_neg (by simp [writeOf]), if_neg (by simp [writeOf]),
    if_neg (by simp [writeOf]), if_pos (by simp [writeOf])]
  rfl

theorem requestedStep_steps (amount : Int) (d : Dev) : (requestedStep amount d).time.base = d.time.base + amount * 2 ^ 32 ∧
    (requestedStep amount d).time.lastStep = amount ∧ cfg (requestedStep amount d) 0x2404 1 = min 0xFFFFFFFF (cfg d 0x2404 1 + 1) := by
  have hm : TimeMove [] d (stepAll amount d) := stepAll_timeMove _ _
  obtain ⟨next, ht⟩ := stepAll_time amount d
  unfold requestedStep
  dsimp only
  generalize stepAll amount d = e at *
  refine ⟨by rw [bump_time, ht], by rw [bump_time], ?_⟩
  rw [cfg_bump_self _ _ _ rfl]
  exact congrArg (fun n => min 0xFFFFFFFF (n + 1)) (hm.counter (by decide) (by decide) (by simp))

section request

variable {src : Src} {amount : BitVec 64} (hs : Served s.dev src) (hm : MayWrite s.dev src 0x2401 3)
include hs hm

theorem stepRequest_completes {P : Dev → Prop} (hP : ∀ a, Reached src s.found a → P (finishAct src 0x2401 3 a
    (Act.when (stepAllowed s.dev) (requestedStep amount.toInt (bump 0x2003 1 a))))) : Completes (.stepRequest src amount) s P := by
  have hval : valueError s.dev ⟨0x2401, 1, 1, 0x03, 1, .i64, 0x0022, .n 0, .vol, true, false, .any⟩ 0x2401 3 (.num amount.toNat) = none := rfl
  refine completes_num (c := .stepRequest src amount) (n := 8) (v := amount.toNat) rfl hs hm rfl rfl amount.isLt rfl hval (by decide)
    rfl (by decide) (fun h => absurd h.1 (by decide)) fun a ha => ?_
  have hallow : stepAllowed (bump 0x2003 1 a) = stepAllowed s.dev := by
    have ht : (bump 0x2003 1 a).time = s.dev.time := ha.sameLoads.time
    have hsch : (bump 0x2003 1 a).sched = s.dev.sched := (bump_sched _ _ _).trans (ha.pathOnly.same .sched (by decide))
    unfold stepAllowed
    rw [ht, scheduleActive_congr hsch]
  rw [actOn_step, hallow, signedOf_toNat]
  exact hP a ha

theorem stepRequest_steps (h : stepAllowed s.dev = true) : Completes (.stepRequest src amount) s fun d =>
    d.time.base = s.dev.time.base + amount.toInt * 2 ^ 32 ∧ d.time.lastStep = amount.toInt ∧
      cfg d 0x2404 1 = min 0xFFFFFFFF (cfg s.dev 0x2404 1 + 1) ∧ WriteAnswered d src 0x2401 3 0 := by
  refine stepRequest_completes hs hm fun a ha => ?_
  rw [h]
  have hf : Framed [.out, .regs, .time, .sched, .strm, .recd, .load, .ints, .counters] (bump 0x2003 1 a) (requestedStep amount.toInt (bump 0x2003 1 a)) :=
    requestedStep_framed _ _ (by decide) (.refl _ _)
  have hacts := (ha.acts (f := requestedStep amount.toInt) hf (by decide) (by decide) 0x2401 3).2
  obtain ⟨h1, h2, h3⟩ := requestedStep_steps amount.toInt (bump 0x2003 1 a)
  have ht : (bump 0x2003 1 a).time = s.dev.time := ha.sameLoads.time
  have hc : cfg (bump 0x2003 1 a) 0x2404 1 = cfg s.dev 0x2404 1 :=
    (cfg_bump_ne _ _ _ _ _ (by decide)).trans (ha.pathOnly.cfg_free (by unfold PathFree; omega))
  rw [ht] at h1
  rw [hc] at h3
  have hpath : PathOnly src (requestedStep amount.toInt (bump 0x2003 1 a)) (answerWrite src 0x2401 3 0 (requestedStep amount.toInt (bump 0x2003 1 a))) :=
    answer_pathOnly _ _ _
  refine ⟨?_, ?_, (hpath.cfg_free (by unfold PathFree; omega)).trans h3, hacts⟩
  · exact (congrArg TimeS.base hpath.time).trans h1
  · exact (congrArg TimeS.lastStep hpath.time).trans h2

theorem stepRequest_refused (h : stepAllowed s.dev = false) : Completes (.stepRequest src amount) s (RefusedWith s src 0x2401 3 0x08000022) := by
  refine stepRequest_completes hs hm fun a ha => ?_
  rw [h]
  exact finishAct_when_false ha _ _

end request

end steps

end Sys2Proof.Machine
end

section
/-! PROOF. Syncs: relay, offset, lock and armed steps (R199, R203, R205, R247); the time state as a whole. -/

namespace Sys2Proof.Machine

/-! ### The state machine of R205 at a Sync -/

section atSync

variable {a b d : Dev} {K : List (Fin 256)}

theorem servoRate_time (d : Dev) : ∃ anchor base rate, (servoRate d).time = { d.time with anchor := anchor, base := base, rate := rate } := ⟨_, _, _, rfl⟩

theorem servoRate_timeMove (d : Dev) : TimeMove K d (servoRate d) :=
  .quiet (servoRate_framed (L := [.fresh, .time]) d (by decide) (.refl _ d)) (by decide) (by decide) (by decide)

theorem holdListeners_timeMove (d : Dev) : TimeMove K d (holdListeners d) :=
  .quiet (holdListeners_framed (L := [.strm]) d (by decide) (.refl _ d)) (by decide) (by decide) (by decide)

/-- The step that a large offset arms. -/
def armedBy (rx : Nat) (off : Int) (d : Dev) : ArmedStep :=
  match d.time.armed with
  | some a => { a with amount := -off }
  | none => { amount := -off, point := (stepPoint rx d).1, firstCase := (stepPoint rx d).2 }

theorem armStep_time (rx : Nat) (off : Int) (d : Dev) : (armStep rx off d).time =
    { d.time with armed := some (armedBy rx off d), goodSyncs := 0, badSyncs := 0 }.enter .stepPending := by
  show (setTimeState .stepPending _).time = _
  rw [setTimeState_time]
  rfl

theorem armStep_timeMove (rx : Nat) (off : Int) (d : Dev) : TimeMove K d (armStep rx off d) :=
  ((setTimeState_timeMove .stepPending { d with time := { d.time with armed := some (armedBy rx off d), goodSyncs := 0, badSyncs := 0 } }).onTime rfl).trans
    (holdListeners_timeMove _)

theorem armedBy_amount (rx : Nat) (off : Int) (d : Dev) : (armedBy rx off d).amount = -off ∧
    ∀ y, d.time.armed = some y → (armedBy rx off d).point = y.point := by
  unfold armedBy
  cases d.time.armed with
  | none => exact ⟨rfl, fun y h => by cases h⟩
  | some x => exact ⟨rfl, fun y h => by cases h; rfl⟩

/-- What a Sync with an offset that is not large leaves of the rest. -/
structure LockKeeps (t u : TimeS) : Prop where
  offset : u.offset = t.offset
  deadline : u.syncDeadline = t.syncDeadline
  armed : u.armed = t.armed
  holdSince : t.holdSince = none → u.holdSince = none

theorem LockKeeps.enter {t u : TimeS} (h : LockKeeps t u) (st : TimeState) : LockKeeps t (u.enter st) := by
  have hr := TimeS.enter_rest st u
  refine ⟨by rw [hr]; exact h.offset, by rw [hr]; exact h.deadline, by rw [hr]; exact h.armed, fun hn => ?_⟩
  rw [TimeS.enter_holdSince (.inr (h.holdSince hn))]
  exact h.holdSince hn

theorem countLock_acquiring {off : Int} (h : d.time.state = .acquiring) : LockKeeps d.time (countLock off d).time ∧
    (countLock off d).time.state = if off.natAbs ≤ cfg d 0x2402 8 ∧ 7 ≤ d.time.goodSyncs then .synchronised else .acquiring := by
  obtain ⟨x, y, z, ht⟩ := servoRate_time d
  have hs : (servoRate d).time.state = .acquiring := by rw [ht]; exact h
  have hg : (servoRate d).time.goodSyncs = d.time.goodSyncs := by rw [ht]
  have hk : ∀ g b, LockKeeps d.time { (servoRate d).time with goodSyncs := g, badSyncs := b } := fun g b => by
    rw [ht]
    exact ⟨rfl, rfl, rfl, id⟩
  have hrun : countLock off d = if 8 ≤ (if (off.natAbs : Int) ≤ (cfg d 0x2402 8 : Int) then d.time.goodSyncs + 1 else 0) then
      setTimeState .synchronised { servoRate d with time := { (servoRate d).time with goodSyncs := 0, badSyncs := 0 } }
      else { servoRate d with time := { (servoRate d).time with goodSyncs := if (off.natAbs : Int) ≤ (cfg d 0x2402 8 : Int) then d.time.goodSyncs + 1 else 0 } } := by
    rw [← hg]
    unfold countLock
    dsimp only
    rw [hs]
  have hu : ∀ g, LockKeeps d.time { (servoRate d).time with goodSyncs := g } := fun g => hk g (servoRate d).time.badSyncs
  rw [hrun]
  generalize servoRate d = e at *
  have hle : ((off.natAbs : Int) ≤ (cfg d 0x2402 8 : Int)) ↔ off.natAbs ≤ cfg d 0x2402 8 := Int.ofNat_le
  by_cases h1 : off.natAbs ≤ cfg d 0x2402 8
  · by_cases h2 : 7 ≤ d.time.goodSyncs
    · have hp : 8 ≤ (if (off.natAbs : Int) ≤ (cfg d 0x2402 8 : Int) then d.time.goodSyncs + 1 else 0) := by
        rw [if_pos (hle.2 h1)]
        omega
      rw [if_pos hp, if_pos ⟨h1, h2⟩, setTimeState_time]
      exact ⟨(hk 0 0).enter _, TimeS.enter_state _ _⟩
    · have hp : ¬ 8 ≤ (if (off.natAbs : Int) ≤ (cfg d 0x2402 8 : Int) then d.time.goodSyncs + 1 else 0) := by
        rw [if_pos (hle.2 h1)]
        omega
      rw [if_neg hp, if_neg (show ¬ (off.natAbs ≤ cfg d 0x2402 8 ∧ 7 ≤ d.time.goodSyncs) from fun h => h2 h.2)]
      exact ⟨hu _, hs⟩
  · have hp : ¬ 8 ≤ (if (off.natAbs : Int) ≤ (cfg d 0x2402 8 : Int) then d.time.goodSyncs + 1 else 0) := by
      rw [if_neg fun h => h1 (hle.1 h)]
      omega
    rw [if_neg hp, if_neg (show ¬ (off.natAbs ≤ cfg d 0x2402 8 ∧ 7 ≤ d.time.goodSyncs) from fun h => h1 h.1)]
    exact ⟨hu _, hs⟩

theorem countLock_synchronised {off : Int} (h : d.time.state = .synchronised) : LockKeeps d.time (countLock off d).time ∧
    (countLock off d).time.state = if 2 * cfg d 0x2402 8 < off.natAbs ∧ 3 ≤ d.time.badSyncs then .acquiring else .synchronised := by
  obtain ⟨x, y, z, ht⟩ := servoRate_time d
  have hs : (servoRate d).time.state = .synchronised := by rw [ht]; exact h
  have hb : (servoRate d).time.badSyncs = d.time.badSyncs := by rw [ht]
  have hk : ∀ g b, LockKeeps d.time { (servoRate d).time with goodSyncs := g, badSyncs := b } := fun g b => by
    rw [ht]
    exact ⟨rfl, rfl, rfl, id⟩
  have hrun : countLock off d = if 4 ≤ (if (off.natAbs : Int) > 2 * (cfg d 0x2402 8 : Int) then d.time.badSyncs + 1 else 0) then
      raise evLockLost noInst (setTimeState .acquiring { servoRate d with time := { (servoRate d).time with goodSyncs := 0, badSyncs := 0 } })
      else { servoRate d with time := { (servoRate d).time with badSyncs := if (off.natAbs : Int) > 2 * (cfg d 0x2402 8 : Int) then d.time.badSyncs + 1 else 0 } } := by
    rw [← hb]
    unfold countLock
    dsimp only
    rw [hs]
  have hu : ∀ b, LockKeeps d.time { (servoRate d).time with badSyncs := b } := fun b => hk (servoRate d).time.goodSyncs b
  rw [hrun]
  generalize servoRate d = e at *
  have hlt : ((off.natAbs : Int) > 2 * (cfg d 0x2402 8 : Int)) ↔ 2 * cfg d 0x2402 8 < off.natAbs := by omega
  by_cases h1 : 2 * cfg d 0x2402 8 < off.natAbs
  · by_cases h2 : 3 ≤ d.time.badSyncs
    · have hp : 4 ≤ (if (off.natAbs : Int) > 2 * (cfg d 0x2402 8 : Int) then d.time.badSyncs + 1 else 0) := by
        rw [if_pos (hlt.2 h1)]
        omega
      rw [if_pos hp, if_pos ⟨h1, h2⟩, raise_timeS, setTimeState_time]
      exact ⟨(hk 0 0).enter _, TimeS.enter_state _ _⟩
    · have hp : ¬ 4 ≤ (if (off.natAbs : Int) > 2 * (cfg d 0x2402 8 : Int) then d.time.badSyncs + 1 else 0) := by
        rw [if_pos (hlt.2 h1)]
        omega
      rw [if_neg hp, if_neg (show ¬ (2 * cfg d 0x2402 8 < off.natAbs ∧ 3 ≤ d.time.badSyncs) from fun h => h2 h.2)]
      exact ⟨hu _, hs⟩
  · have hp : ¬ 4 ≤ (if (off.natAbs : Int) > 2 * (cfg d 0x2402 8 : Int) then d.time.badSyncs + 1 else 0) := by
      rw [if_neg fun h => h1 (hlt.1 h)]
      omega
    rw [if_neg hp, if_neg (show ¬ (2 * cfg d 0x2402 8 < off.natAbs ∧ 3 ≤ d.time.badSyncs) from fun h => h1 h.1)]
    exact ⟨hu _, hs⟩

theorem countLock_timeMove (off : Int) (d : Dev) : TimeMove K d (countLock off d) := by
  have hservo := servoRate_timeMove (K := K) d
  unfold countLock
  dsimp only
  generalize servoRate d = e at *
  refine hservo.trans ?_
  split
  · exact .ite ((setTimeState_timeMove _ _).onTime rfl) (onTime_timeMove rfl)
  · exact .ite (((setTimeState_timeMove _ _).trans (raise_timeMove _ _ _)).onTime rfl) (onTime_timeMove rfl)
  · exact .refl K e

theorem atSync_timeMove (rx : Nat) (off : Int) (d : Dev) : TimeMove K d (atSync rx off d) := by
  unfold atSync
  dsimp only
  split
  · exact .refl K d
  · exact (stepAll_timeMove _ _).trans (setTimeState_timeMove _ _)
  · exact .ite (armStep_timeMove _ _ _) (countLock_timeMove _ _)
  · exact .ite (armStep_timeMove _ _ _) (countLock_timeMove _ _)
  · exact .ite (armStep_timeMove _ _ _) (((setTimeState_timeMove _ _).trans (countLock_timeMove _ _)).onTime rfl)
  · exact .ite (armStep_timeMove _ _ _) ((disarm_timeMove _).trans ((setTimeState_timeMove _ _).trans (countLock_timeMove _ _)))

/-- A large offset arms the step. -/
theorem armStep_arms {rx : Nat} {off : Int} : ((armStep rx off d).time.state = .stepPending ∧ ∃ x, (armStep rx off d).time.armed = some x ∧ x.amount = -off ∧
    ∀ y, d.time.armed = some y → x.point = y.point) ∧ (armStep rx off d).time.offset = d.time.offset ∧
    (armStep rx off d).time.syncDeadline = d.time.syncDeadline := by
  have ht := (armStep_time rx off d).trans (TimeS.enter_rest _ _)
  obtain ⟨h1, h2⟩ := armedBy_amount rx off d
  rw [ht]
  exact ⟨⟨rfl, _, rfl, h1, h2⟩, rfl, rfl⟩

theorem acquiring_locks {off : Int} {e : Dev} (h : e.time.state = .acquiring) (hc : cfg e 0x2402 8 = cfg d 0x2402 8) (hg : e.time.goodSyncs = d.time.goodSyncs) :
    LockKeeps e.time (countLock off e).time ∧
      (countLock off e).time.state = if off.natAbs ≤ cfg d 0x2402 8 ∧ 7 ≤ d.time.goodSyncs then .synchronised else .acquiring := by
  rw [← hc, ← hg]
  exact countLock_acquiring h

/-- A Sync moves the state as R205 says. -/
theorem atSync_takes (rx : Nat) {off : Int} (ho : d.time.offset = off) (hd : d.time.syncDeadline = syncTimeout d) : TakesSync d (atSync rx off d) off := by
  have hbig : decide ((cfg d 0x2402 9 : Int) < off.natAbs) = decide (cfg d 0x2402 9 < off.natAbs) := decide_eq_decide.2 Int.ofNat_lt
  obtain ⟨harm, harm2, harm3⟩ := armStep_arms (d := d) (rx := rx) (off := off)
  unfold TakesSync atSync
  dsimp only
  rw [hbig]
  generalize hy : ({ d with time := { d.time with holdSince := none } } : Dev) = y
  cases hst : d.time.state with
  | grandmaster => exact ⟨ho, hd, hst⟩
  | unsynchronised =>
    obtain ⟨next, ht⟩ := stepAll_time (-off) d
    have he := (setTimeState_time .acquiring (stepAll (-off) d)).trans (TimeS.enter_rest _ _)
    rw [ht] at he
    dsimp only
    rw [he]
    exact ⟨ho, hd, rfl, rfl⟩
  | acquiring =>
    dsimp only
    by_cases hb : cfg d 0x2402 9 < off.natAbs
    · rw [decide_eq_true hb, if_pos rfl, if_pos hb]
      exact ⟨harm2.trans ho, harm3.trans hd, harm⟩
    · rw [decide_eq_false hb, if_neg (by decide), if_neg hb]
      obtain ⟨hk, hs⟩ := countLock_acquiring (off := off) hst
      exact ⟨hk.offset.trans ho, hk.deadline.trans hd, hs⟩
  | synchronised =>
    dsimp only
    by_cases hb : cfg d 0x2402 9 < off.natAbs
    · rw [decide_eq_true hb, if_pos rfl, if_pos hb]
      exact ⟨harm2.trans ho, harm3.trans hd, harm⟩
    · rw [decide_eq_false hb, if_neg (by decide), if_neg hb]
      obtain ⟨hk, hs⟩ := countLock_synchronised (off := off) hst
      exact ⟨hk.offset.trans ho, hk.deadline.trans hd, hs⟩
  | holdover =>
    dsimp only
    by_cases hb : cfg d 0x2402 9 < off.natAbs
    · rw [decide_eq_true hb, if_pos rfl, if_pos hb]
      exact ⟨harm2.trans ho, harm3.trans hd, harm⟩
    · rw [decide_eq_false hb, if_neg (by decide), if_neg hb]
      have hyt : y.time = { d.time with holdSince := none } := by rw [← hy]
      have hym : TimeMove [] d y := by
        rw [← hy]
        exact onTime_timeMove rfl
      have hm : TimeMove [] d (setTimeState .acquiring y) := hym.trans (setTimeState_timeMove _ _)
      have ht := setTimeState_time .acquiring y
      have hr := TimeS.enter_rest .acquiring y.time
      have hn : (y.time.enter .acquiring).holdSince = none := (TimeS.enter_holdSince (.inr (by rw [hyt]))).trans (by rw [hyt])
      generalize setTimeState .acquiring y = e at *
      rw [hr, hyt] at ht
      obtain ⟨hk, hs⟩ := acquiring_locks (d := d) (e := e) (off := off) (by rw [ht]) (hm.cfg (.inr (.inl rfl)) (by decide)) (by rw [ht])
      refine ⟨hk.offset.trans (by rw [ht]; exact ho), hk.deadline.trans (by rw [ht]; exact hd), hs, hk.holdSince ?_⟩
      rw [ht]
      rw [hyt] at hn
      exact hn
  | stepPending =>
    dsimp only
    by_cases hb : cfg d 0x2402 9 < off.natAbs
    · rw [decide_eq_true hb, if_pos rfl, if_pos hb]
      exact ⟨harm2.trans ho, harm3.trans hd, harm⟩
    · rw [decide_eq_false hb, if_neg (by decide), if_neg hb]
      have hm : TimeMove [] d (setTimeState .acquiring (disarm d)) := (disarm_timeMove d).trans (setTimeState_timeMove _ _)
      have ht := (setTimeState_time .acquiring (disarm d)).trans (TimeS.enter_rest _ _)
      rw [disarm_time] at ht
      generalize setTimeState .acquiring (disarm d) = e at *
      obtain ⟨hk, hs⟩ := acquiring_locks (d := d) (e := e) (off := off) (by rw [ht]) (hm.cfg (.inr (.inl rfl)) (by decide)) (by rw [ht])
      exact ⟨hk.offset.trans (by rw [ht]; exact ho), hk.deadline.trans (by rw [ht]; exact hd), hs, hk.armed.trans (by rw [ht])⟩

theorem TakesSync.congr {off : Int} {a a' e e' : Dev} (h : TakesSync a e off) (h8 : cfg a' 0x2402 8 = cfg a 0x2402 8) (h9 : cfg a' 0x2402 9 = cfg a 0x2402 9)
    (hd : syncTimeout a' = syncTimeout a) (ha : a'.time.armed = a.time.armed) (hs : a'.time.state = a.time.state) (hg : a'.time.goodSyncs = a.time.goodSyncs)
    (hb : a'.time.badSyncs = a.time.badSyncs) (hbase : a'.time.base = a.time.base)
    (he : ∃ r x, e'.time = { e.time with switchRef := r, adoptedAfterSwitch := x }) : TakesSync a' e' off := by
  obtain ⟨r, x, he⟩ := he
  unfold TakesSync at h ⊢
  rw [he, h8, h9, hd, ha, hs, hg, hb, hbase]
  exact h

end atSync

/-! ### A Sync that is taken (R199, R203, R205, R247) -/

section syncs

variable {s : State} {d : Dev} {p : Port} {seq : BitVec 16} {gm : BitVec 64} {origin : Int} {rx : Nat} {K : List (Fin 256)}

theorem enterFence_timeMove (d : Dev) : TimeMove K d (enterFence d) := by
  have hrelease : ∀ e : Dev, TimeMove K e (releaseQ6 e) := fun e =>
    .quiet (releaseQ6_framed (L := [.queues]) e (by decide) (.refl _ e)) (by decide) (by decide) (by decide)
  have hsched : TimeMove K d { d with sched := { d.sched with state := .fenced, windows := Vector.replicate 20 none, goodCycles := 0 } } :=
    .quiet (A := [.sched]) (fun p => by cases p <;> first | exact .inl (by decide) | exact .inr rfl) (by decide) (by decide) (by decide)
  have hb : (0x2505, 8) ∈ timeCounters ++ K.map fun k => (0x2404, k.val) := List.mem_append_left _ (by decide)
  exact .ite (hsched.trans ((bump_timeMove _ _ _ hb).trans ((raise_timeMove _ _ _).trans (hrelease _)))) (.refl K d)

theorem fenceAtSync_timeMove (off : Int) (d : Dev) : TimeMove K d (fenceAtSync off d) := by
  have hseen : TimeMove K d { d with sched := { d.sched with
      syncSeen := true, badSeen := d.sched.badSeen || decide ((cfg d 0x2501 3 : Int) < 2 * off.natAbs) } } :=
    .quiet (A := [.sched]) (fun p => by cases p <;> first | exact .inl (by decide) | exact .inr rfl) (by decide) (by decide) (by decide)
  unfold fenceAtSync
  exact .ite (hseen.trans (enterFence_timeMove _)) hseen

theorem fenceAtSync_timeS (off : Int) (d : Dev) : (fenceAtSync off d).time = d.time := by
  have h : ∀ e : Dev, (enterFence e).time = e.time := fun e =>
    time_of_framed (enterFence_framed (L := [.out, .regs, .queues, .sched, .recd, .ints, .counters]) e (by decide) (.refl _ e)) (by decide) (by decide)
  unfold fenceAtSync
  dsimp only
  split
  · rw [h]
  · rfl

/-- A complete Sync is relayed and counted. -/
def syncRelayed (p : Port) (seq : BitVec 16) (gm : BitVec 64) (origin : Int) (d : Dev) : Dev :=
  bump 0x2404 9 (onMasters (.followUp seq gm origin (relayCorrection d p)) (onMasters (.sync seq gm) (draw d)))

/-- What the relay leaves. -/
structure Relayed (p : Port) (seq : BitVec 16) (gm : BitVec 64) (origin : Int) (d e : Dev) : Prop where
  counter : cfg e 0x2404 9 = min 0xFFFFFFFF (cfg d 0x2404 9 + 1)
  sync : ∀ q ∈ masterPorts d, crossedPort d q = false → Out.ptp q (.sync seq gm) ∈ e.out
  followUp : ∀ q ∈ masterPorts d, crossedPort d q = false → Out.ptp q (.followUp seq gm origin (relayCorrection d p)) ∈ e.out

theorem Relayed.later {e f : Dev} (h : Relayed p seq gm origin d e) (hm : TimeMove [] e f) : Relayed p seq gm origin d f :=
  ⟨(hm.counter (by decide) (by decide) (by simp)).trans h.counter, fun q hq hc => hm.sent _ (h.sync q hq hc), fun q hq hc => hm.sent _ (h.followUp q hq hc)⟩

theorem syncRelayed_relays (p : Port) (seq : BitVec 16) (gm : BitVec 64) (origin : Int) (d : Dev) : Relayed p seq gm origin d (syncRelayed p seq gm origin d) ∧
    TimeMove [9] d (syncRelayed p seq gm origin d) ∧ (syncRelayed p seq gm origin d).time = d.time ∧
    Framed [.out, .queues, .regs, .counters, .fresh] d (syncRelayed p seq gm origin d) := by
  have hdraw : Framed [.fresh] d (draw d) := fun p => by cases p <;> first | exact .inl (by decide) | exact .inr rfl
  have h0 : TimeMove [] d (draw d) := .quiet hdraw (by decide) (by decide) (by decide)
  have h1 : TimeMove [] d (onMasters (.sync seq gm) (draw d)) := h0.trans (onMasters_timeMove _ _)
  have ht : (onMasters (.sync seq gm) (draw d)).time = d.time := (onMasters_time _ _).trans rfl
  have h2 : TimeMove [] d (onMasters (.followUp seq gm origin (relayCorrection d p)) (onMasters (.sync seq gm) (draw d))) := h1.trans (onMasters_timeMove _ _)
  have hsent : Sent (onMasters (.sync seq gm) (draw d)) (syncRelayed p seq gm origin d) :=
    (onMasters_timeMove (K := []) (.followUp seq gm origin (relayCorrection d p)) _).sent.trans (.of_eq (by simp [syncRelayed]))
  have hmasters : masterPorts (onMasters (.sync seq gm) (draw d)) = masterPorts d :=
    h1.masterPorts (fun p => by rw [ht]) (by rw [ht]) (by rw [ht]) (by rw [ht])
  refine ⟨⟨?_, fun q hq hc => ?_, fun q hq hc => ?_⟩, (h2.wide [9]).trans (bump_timeMove _ _ _ (List.mem_append_right _ (.head _))), ?_, ?_⟩
  · unfold syncRelayed
    rw [cfg_bump_self _ _ _ rfl, h2.counter (by decide) (by decide) (by simp)]
  · refine hsent _ (onMasters_mem _ ?_ ((h0.crossedPort q).trans hc))
    rw [h0.masterPorts (fun _ => rfl) rfl rfl rfl]
    exact hq
  · have hm := onMasters_mem (d := onMasters (.sync seq gm) (draw d)) (.followUp seq gm origin (relayCorrection d p)) (p := q)
      (by rw [hmasters]; exact hq) ((h1.crossedPort q).trans hc)
    exact (show Sent _ (syncRelayed p seq gm origin d) from .of_eq (by simp [syncRelayed])) _ hm
  · unfold syncRelayed
    rw [bump_time, onMasters_time, ht]
  · unfold syncRelayed
    exact bump_framed _ _ _ (by decide) (onMasters_framed _ _ (by decide) (onMasters_framed _ _ (by decide) (hdraw.mono (by decide))))

/-- The offset of a Sync that the node received at `rx` on a port. -/
def syncOffset (d : Dev) (p : Port) (origin : Int) (rx : Nat) : Int :=
  ((rx : Int) - 2 * (origin + ((d.time.ports[p].linkDelay : Int) + cfgI d 32 (0x2410 + p.val) 5) / 1000)) / 2

/-- The device on which R205 acts at a Sync. -/
def syncMeasured (off : Int) (d : Dev) : Dev :=
  { d with
    time := { d.time with offset := off, syncDeadline := syncTimeout d }
    health := { d.health with offsetSq := d.health.offsetSq + off.natAbs * off.natAbs, offsetCount := d.health.offsetCount + 1 } }

theorem syncMeasured_timeMove (off : Int) (d : Dev) : TimeMove K d (syncMeasured off d) :=
  .quiet (A := [.time, .health]) (fun p => by cases p <;> first | exact .inl (by decide) | exact .inr rfl) (by decide) (by decide) (by decide)

/-- The Syncs of a grandmaster adopted after a switch point end its reference. -/
def switchEnds (adopted : Bool) (d : Dev) : Dev :=
  if adopted then { d with time := { d.time with switchRef := none, adoptedAfterSwitch := false } } else d

theorem switchEnds_keeps (adopted : Bool) (d : Dev) : TimeMove K d (switchEnds adopted d) ∧
    ∃ r x, (switchEnds adopted d).time = { d.time with switchRef := r, adoptedAfterSwitch := x } := by
  cases adopted with
  | true => exact ⟨onTime_timeMove rfl, _, _, rfl⟩
  | false => exact ⟨.refl K d, d.time.switchRef, d.time.adoptedAfterSwitch, rfl⟩

theorem takeSync_eq (p : Port) (seq : BitVec 16) (gm : BitVec 64) (origin : Int) (rx : Nat) (d : Dev) : takeSync p seq gm origin rx d =
    if !(syncRelayed p seq gm origin d).pow.agentReady then syncRelayed p seq gm origin d
    else switchEnds d.time.adoptedAfterSwitch (fenceAtSync (syncOffset (syncRelayed p seq gm origin d) p origin rx)
      (atSync (rx / 2) (syncOffset (syncRelayed p seq gm origin d) p origin rx)
        (syncMeasured (syncOffset (syncRelayed p seq gm origin d) p origin rx) (syncRelayed p seq gm origin d)))) := rfl

theorem TimeMove.syncTimeout {a b : Dev} (h : TimeMove K a b) : Machine.syncTimeout b = Machine.syncTimeout a := by
  unfold Machine.syncTimeout after cfgI
  rw [h.cfg (.inr (.inl rfl)) (by decide), h.cfg (.inr (.inl rfl)) (by decide), h.now]

/-- A message that is received leaves what decides on a Sync. -/
theorem syncAccepted_counted {s : State} {p : Port} (type : Nat) (gm : BitVec 64) : syncAccepted p gm (ptpCounted p type s.found) = syncAccepted p gm s.dev := by
  have hm : TimeMove [] s.found (ptpCounted p type s.found) := ptpCounted_timeMove _ _ _
  have ht : (ptpCounted p type s.found).time = s.dev.time := ptpCounted_time p type s.found
  have hp : ptpPort (ptpCounted p type s.found) p = ptpPort s.dev p := hm.ptpPort p
  unfold syncAccepted revealedPort timeHeld
  rw [ht, hp]

theorem setTimeState_pending (st : TimeState) (d : Dev) : (setTimeState st d).time.pendingSync = d.time.pendingSync := by
  rw [setTimeState_time, TimeS.enter_rest]

theorem countLock_pending (off : Int) (d : Dev) : (countLock off d).time.pendingSync = d.time.pendingSync := by
  obtain ⟨x, y, z, ht⟩ := servoRate_time d
  have hp : (servoRate d).time.pendingSync = d.time.pendingSync := by rw [ht]
  have hite : ∀ (c : Prop) [Decidable c] (x y : Dev), x.time.pendingSync = d.time.pendingSync → y.time.pendingSync = d.time.pendingSync →
      (if c then x else y).time.pendingSync = d.time.pendingSync := fun c _ x y hx hy => by
    split
    exacts [hx, hy]
  unfold countLock
  dsimp only
  generalize servoRate d = e at *
  split
  · exact hite _ _ _ ((setTimeState_pending _ _).trans hp) hp
  · exact hite _ _ _ ((congrArg TimeS.pendingSync (raise_timeS _ _ _)).trans ((setTimeState_pending _ _).trans hp)) hp
  · exact hp

/-- A Sync that waits for its Follow_Up stays. -/
theorem atSync_pending (rx : Nat) (off : Int) (d : Dev) : (atSync rx off d).time.pendingSync = d.time.pendingSync := by
  have harm : (armStep rx off d).time.pendingSync = d.time.pendingSync := by rw [armStep_time, TimeS.enter_rest]
  unfold atSync
  dsimp only
  split
  · rfl
  · obtain ⟨next, h⟩ := stepAll_time (-off) d
    rw [setTimeState_pending, h]
  · split
    · exact harm
    · exact countLock_pending off d
  · split
    · exact harm
    · exact countLock_pending off d
  · split
    · exact harm
    · rw [countLock_pending, setTimeState_pending]
  · split
    · exact harm
    · rw [countLock_pending, setTimeState_pending, disarm_time]

theorem takeSync_ready (h : d.pow.agentReady = true) : Relayed p seq gm origin d (takeSync p seq gm origin rx d) ∧
    TakesSync d (takeSync p seq gm origin rx d) (syncOffset d p origin rx) ∧ (takeSync p seq gm origin rx d).time.pendingSync = d.time.pendingSync := by
  obtain ⟨hr, hm, ht, -⟩ := syncRelayed_relays p seq gm origin d
  have hoff : syncOffset (syncRelayed p seq gm origin d) p origin rx = syncOffset d p origin rx := by
    unfold syncOffset cfgI
    rw [ht, hm.cfg (.inr (.inr (.inr (.inr (by have := p.isLt; omega))))) (by decide)]
  rw [takeSync_eq, hoff, hm.pow, h, if_neg (by decide)]
  generalize syncRelayed p seq gm origin d = e at *
  generalize syncOffset d p origin rx = off
  have hx : TimeMove [] e (syncMeasured off e) := syncMeasured_timeMove off e
  have htakes : TakesSync (syncMeasured off e) (atSync (rx / 2) off (syncMeasured off e)) off := atSync_takes (rx / 2) rfl (hx.syncTimeout.symm ▸ rfl)
  have hlast : TimeMove [] (atSync (rx / 2) off (syncMeasured off e))
      (switchEnds d.time.adoptedAfterSwitch (fenceAtSync off (atSync (rx / 2) off (syncMeasured off e)))) := (fenceAtSync_timeMove _ _).trans (switchEnds_keeps _ _).1
  obtain ⟨r, x, hend⟩ := (switchEnds_keeps (K := []) d.time.adoptedAfterSwitch (fenceAtSync off (atSync (rx / 2) off (syncMeasured off e)))).2
  rw [fenceAtSync_timeS] at hend
  have hpend := atSync_pending (rx / 2) off (syncMeasured off e)
  have hmove : TimeMove [] e (atSync (rx / 2) off (syncMeasured off e)) := hx.trans (atSync_timeMove _ _ _)
  have hxt : (syncMeasured off e).time = { d.time with offset := off, syncDeadline := syncTimeout e } := by
    rw [← ht]
    rfl
  refine ⟨hr.later (hmove.trans hlast), ?_, ?_⟩
  · refine htakes.congr ?_ ?_ ?_ ?_ ?_ ?_ ?_ ?_ ⟨r, x, hend⟩
    · exact ((hm.trans (hx.wide _)).cfg (.inr (.inl rfl)) (by decide)).symm
    · exact ((hm.trans (hx.wide _)).cfg (.inr (.inl rfl)) (by decide)).symm
    · exact (hm.trans (hx.wide _)).syncTimeout.symm
    all_goals rw [hxt]
  · rw [hend, hpend, hxt]

theorem takeSync_stopped (h : d.pow.agentReady = false) : takeSync p seq gm origin rx d = syncRelayed p seq gm origin d := by
  obtain ⟨-, hm, -⟩ := syncRelayed_relays p seq gm origin d
  rw [takeSync_eq, hm.pow, h]
  rfl

/-! ### The messages -/

/-- A device on which a Sync acts: as found but for the frame that has been counted, and for Syncs that wait for their Follow_Up. -/
structure SyncHeard (s : State) (c : Dev) : Prop where
  move : TimeMove [] s.found c
  fresh : c.fresh = s.dev.fresh
  time : ∃ y, c.time = { s.dev.time with pendingSync := y }

theorem ptpCounted_heard (p : Port) (type : Nat) (s : State) : SyncHeard s (ptpCounted p type s.found) :=
  ⟨ptpCounted_timeMove _ _ _, (countGood_framed (L := [.regs, .counters]) _ _ _ (by decide) (.refl _ s.found)).same .fresh (by decide),
    s.dev.time.pendingSync, ptpCounted_time p type s.found⟩

theorem SyncHeard.unpended {c : Dev} (h : SyncHeard s c) : SyncHeard s { c with time := { c.time with pendingSync := none } } := by
  obtain ⟨y, ht⟩ := h.time
  exact ⟨h.move.trans (onTime_timeMove rfl), h.fresh, none, by rw [ht]⟩

/-- The Sync is relayed and counted. -/
def SyncSent (s : State) (p : Port) (seq : BitVec 16) (gm : BitVec 64) (origin : Int) (d : Dev) : Prop :=
  cfg d 0x2404 9 = min 0xFFFFFFFF (cfg s.dev 0x2404 9 + 1) ∧
    (∀ q ∈ masterPorts s.dev, crossedPort s.dev q = false → Out.ptp q (.sync seq gm) ∈ d.out) ∧
    ∀ q ∈ masterPorts s.dev, crossedPort s.dev q = false → Out.ptp q (.followUp seq gm origin (relayCorrection s.dev p)) ∈ d.out

theorem Relayed.sent {c : Dev} (hc : SyncHeard s c) (h : Relayed p seq gm origin c d) : SyncSent s p seq gm origin d := by
  obtain ⟨y, ht⟩ := hc.time
  have hcount : cfg c 0x2404 9 = cfg s.dev 0x2404 9 := hc.move.counter (by decide) (by decide) (by simp)
  have hports : masterPorts c = masterPorts s.dev := hc.move.masterPorts (fun q => by rw [ht]; rfl) (by rw [ht]; rfl) (by rw [ht]; rfl) (by rw [ht]; rfl)
  have hcross : ∀ q, crossedPort c q = crossedPort s.dev q := fun q => hc.move.crossedPort q
  have hset : cfg c (0x2410 + p.val) 5 = cfg s.dev (0x2410 + p.val) 5 := hc.move.cfg (.inr (.inr (.inr (.inr (by have := p.isLt; omega))))) (by decide)
  have hcorr : relayCorrection c p = relayCorrection s.dev p := by
    unfold relayCorrection cfgI
    rw [hset, hc.fresh, ht]
  obtain ⟨h1, h2, h3⟩ := h
  simp only [hports, hcross, hcorr] at h2 h3
  exact ⟨h1.trans (by rw [hcount]), h2, h3⟩

theorem takeSync_heard {c : Dev} (hc : SyncHeard s c) (hr : s.dev.pow.agentReady = true) : SyncSent s p seq gm origin (takeSync p seq gm origin rx c) ∧
    TakesSync s.dev (takeSync p seq gm origin rx c) (syncOffset s.dev p origin rx) ∧
    (takeSync p seq gm origin rx c).time.pendingSync = c.time.pendingSync := by
  have hpow : c.pow.agentReady = true := (congrArg PowerS.agentReady hc.move.pow).trans hr
  obtain ⟨h1, h2, h3⟩ := takeSync_ready (d := c) (p := p) (seq := seq) (gm := gm) (origin := origin) (rx := rx) hpow
  obtain ⟨y, ht⟩ := hc.time
  have hset : cfg c (0x2410 + p.val) 5 = cfg s.dev (0x2410 + p.val) 5 := hc.move.cfg (.inr (.inr (.inr (.inr (by have := p.isLt; omega))))) (by decide)
  have hoff : syncOffset c p origin rx = syncOffset s.dev p origin rx := by
    unfold syncOffset cfgI
    rw [hset, ht]
  have h8 : cfg c 0x2402 8 = cfg s.dev 0x2402 8 := hc.move.cfg (.inr (.inl rfl)) (by decide)
  have h9 : cfg c 0x2402 9 = cfg s.dev 0x2402 9 := hc.move.cfg (.inr (.inl rfl)) (by decide)
  have hdead : syncTimeout c = syncTimeout s.dev := hc.move.syncTimeout
  refine ⟨h1.sent hc, ?_, h3⟩
  rw [← hoff]
  generalize takeSync p seq gm origin rx c = e at h2
  exact h2.congr h8.symm h9.symm hdead.symm (by rw [ht]) (by rw [ht]) (by rw [ht]) (by rw [ht]) (by rw [ht]) ⟨_, _, rfl⟩

theorem ptpCounted_rxStamp (p : Port) (type : Nat) (s : State) : rxStamp (ptpCounted p type s.found) p = rxStamp s.dev p := by
  have hset : cfg (ptpCounted p type s.found) (0x2300 + p.val) 0x15 = cfg s.dev (0x2300 + p.val) 0x15 := countGood_portCfg p _ _ (by decide) (by decide) (by decide)
  have ht : (ptpCounted p type s.found).time = s.dev.time := ptpCounted_time p type s.found
  unfold rxStamp
  rw [hset, ht]

/-- A Sync that is complete when it is received. -/
theorem sync_exec {two : Bool} (ha : syncAccepted p gm s.dev = true) : exec (.sync p seq gm two origin) s = s.does fun d =>
    if two then { ptpCounted p 0 d with time := { (ptpCounted p 0 d).time with
      pendingSync := some ⟨p, seq, gm, rxStamp (ptpCounted p 0 d) p⟩ } }
    else takeSync p seq gm origin (rxStamp (ptpCounted p 0 d) p) (ptpCounted p 0 d) := by
  have hup : portUp s.dev p = true := ptpPort_up (by
    unfold syncAccepted at ha
    simp only [Bool.and_eq_true] at ha
    exact ha.1.1.1)
  refine (exec_heard (c := .sync p seq gm two origin) rfl hup).trans (does_congr ?_)
  exact if_pos ((syncAccepted_counted 0 gm).trans ha)

theorem sync_takes (ha : syncAccepted p gm s.dev = true) (hr : s.dev.pow.agentReady = true) : Completes (.sync p seq gm false origin) s fun d =>
    SyncSent s p seq gm origin d ∧ TakesSync s.dev d (syncOffset s.dev p origin (rxStamp s.dev p)) := by
  refine completes_of_exec (sync_exec ha) ?_
  rw [if_neg (by decide), ptpCounted_rxStamp]
  obtain ⟨h1, h2, -⟩ := takeSync_heard (p := p) (seq := seq) (gm := gm) (origin := origin) (rx := rxStamp s.dev p) (ptpCounted_heard p 0 s) hr
  exact ⟨h1, h2⟩

theorem sync_stopped (ha : syncAccepted p gm s.dev = true) (hr : s.dev.pow.agentReady = false) : Completes (.sync p seq gm false origin) s fun d =>
    SyncSent s p seq gm origin d ∧ Framed [.out, .queues, .regs, .counters, .fresh] s.found d := by
  refine completes_of_exec (sync_exec ha) ?_
  have hc := ptpCounted_heard p 0 s
  have hf : Framed [.out, .queues, .regs, .counters, .fresh] s.found (ptpCounted p 0 s.found) := countGood_framed _ _ _ (by decide) (.refl _ _)
  have hpow : (ptpCounted p 0 s.found).pow.agentReady = false := (congrArg PowerS.agentReady hc.move.pow).trans hr
  rw [if_neg (by decide), takeSync_stopped hpow]
  obtain ⟨h1, -, -, h4⟩ := syncRelayed_relays p seq gm origin (ptpCounted p 0 s.found)
  exact ⟨h1.sent hc, hf.trans h4⟩

theorem sync_waits (ha : syncAccepted p gm s.dev = true) : Completes (.sync p seq gm true origin) s fun d =>
    d.time = { s.dev.time with pendingSync := some { port := p, seq := seq, gm := gm, rx := rxStamp s.dev p } } ∧
      Framed [.time, .regs, .counters] s.found d := by
  refine completes_of_exec (sync_exec ha) ?_
  have ht : (ptpCounted p 0 s.found).time = s.dev.time := ptpCounted_time p 0 s.found
  have hf : Framed [.time, .regs, .counters] s.found (ptpCounted p 0 s.found) := countGood_framed _ _ _ (by decide) (.refl _ _)
  rw [if_pos rfl, ptpCounted_rxStamp]
  generalize ptpCounted p 0 s.found = c at *
  refine ⟨by rw [ht], hf.trans fun x => ?_⟩
  cases x <;> first | exact .inl (by decide) | exact .inr rfl

theorem followUp_takes (ha : syncAccepted p gm s.dev = true) (hr : s.dev.pow.agentReady = true)
    (hp : s.dev.time.pendingSync = some { port := p, seq := seq, gm := gm, rx := rx }) : Completes (.followUp p seq origin) s fun d =>
      SyncSent s p seq gm origin d ∧ TakesSync s.dev d (syncOffset s.dev p origin rx) ∧ d.time.pendingSync = none := by
  have hup : portUp s.dev p = true := ptpPort_up (by
    unfold syncAccepted at ha
    simp only [Bool.and_eq_true] at ha
    exact ha.1.1.1)
  have hrun : exec (.followUp p seq origin) s = s.does fun d =>
      takeSync p seq gm origin rx { ptpCounted p 8 d with time := { (ptpCounted p 8 d).time with pendingSync := none } } := by
    refine (exec_heard (c := .followUp p seq origin) rfl hup).trans (does_congr ?_)
    have hpend : (ptpCounted p 8 s.found).time.pendingSync = some ⟨p, seq, gm, rx⟩ := (congrArg TimeS.pendingSync (ptpCounted_time p 8 s.found)).trans hp
    have hacc : syncAccepted p gm (ptpCounted p 8 s.found) = true := (syncAccepted_counted 8 gm).trans ha
    have hmatch : (decide (p = p) && decide (seq = seq) && syncAccepted p gm (ptpCounted p 8 s.found)) = true := by
      rw [hacc]
      simp
    rw [hpend]
    exact if_pos hmatch
  refine completes_of_exec hrun ?_
  exact takeSync_heard (ptpCounted_heard p 8 s).unpended hr

end syncs

/-! ### The time state as a whole -/

/-- Settles O34: one lemma per message, limit and interval, from what relays, changes of state, the best master and steps leave. -/
theorem theTimeStateFollowsSyncsAndTimeouts : Obligations.TheTimeStateFollowsSyncsAndTimeouts := by
  intro s m counter locked sends sent
  refine ⟨fun p seq gm origin ha => ⟨fun hr => ⟨sync_takes ha hr, fun rx hp => followUp_takes ha hr hp⟩, fun hr => sync_stopped ha hr, sync_waits ha⟩,
    fun p a hp hr => ⟨announce_gathers hp hr, fun hf => announce_stands hp hr hf, fun hf hb hlt => announce_adopts hp hr hf hb hlt⟩,
    fun t ht => syncReceiptTimeout_counts ht,
    fun t p ht hp => ⟨announceReceiptTimeout_drops ht hp, fun hf hl => announceReceiptTimeout_stands ht hp hf hl,
      fun hf hl h255 hn => announceReceiptTimeout_alone ht hp hf hl h255 hn⟩,
    fun t u ht hp hst hf h255 hn hu hle => announceReceiptTimeout_first ht hp hst hf h255 hn hu hle,
    fun a ha => stepPoint_applies ha, fun t ht hst hp => holdoverLimit_marks ht hst hp, fun t ht => roundHoldEnd_ends ht,
    fun hst => syncInterval_sends hst, announceInterval_sends, fun t ht => ppsInLoss_announces ht, fun t ht => ppsInHoldoverLimit_ends ht,
    fun src amount hs hm => ⟨fun h => stepRequest_steps hs hm h, fun h => stepRequest_refused hs hm h⟩⟩

end Sys2Proof.Machine
end

section
/-! PROOF. Peer delays are measured, edges captured, records read and pulses raised (R199, R200, R210, R212 to R214). -/

namespace Sys2Proof.Machine

/-! ### Peer delays (R199, R200) -/

section pdelay

variable {s : State} {d : Dev} {p : Port} {K : List (Fin 256)}

theorem sendPtp_time (p : Port) (m : PtpMsg) (d : Dev) : (sendPtp p m d).time = d.time :=
  time_of_framed (sendPtp_framed (L := [.fresh, .out, .regs, .queues, .counters]) p m d (fun _ h => h) (.refl _ d)) (by decide) (by decide)

theorem pdelayReq_answers (hp : ptpPort s.dev p = true) (seq : BitVec 16) : Completes (.pdelayReq p seq) s fun d =>
    (crossedPort s.dev p = false → Out.ptp p (.pdelayResp seq (rxStamp s.dev p)) ∈ d.out ∧
      ∃ sentAt, Out.ptp p (.pdelayRespFollowUp seq sentAt) ∈ d.out) ∧
    Framed [.out, .queues, .regs, .counters, .fresh] s.found d := by
  have hrun : exec (.pdelayReq p seq) s = s.does fun d => sendPtp p (.pdelayRespFollowUp seq (Config.freeNat (ptpCounted p 2 d).fresh))
      (sendPtp p (.pdelayResp seq (rxStamp (ptpCounted p 2 d) p)) (draw (ptpCounted p 2 d))) := by
    refine (exec_heard (c := .pdelayReq p seq) rfl (ptpPort_up hp)).trans (does_congr ?_)
    exact if_pos (((ptpCounted_timeMove (K := []) p 2 s.found).ptpPort p).trans hp)
  refine completes_of_exec hrun ?_
  rw [ptpCounted_rxStamp]
  have hc : TimeMove [] s.found (ptpCounted p 2 s.found) := ptpCounted_timeMove _ _ _
  have hf : Framed [.out, .queues, .regs, .counters, .fresh] s.found (ptpCounted p 2 s.found) := countGood_framed _ _ _ (by decide) (.refl _ _)
  generalize ptpCounted p 2 s.found = c at *
  have hdraw : Framed [.fresh] c (draw c) := fun p => by cases p <;> first | exact .inl (by decide) | exact .inr rfl
  have h0 : TimeMove [] s.found (draw c) := hc.trans (.quiet hdraw (by decide) (by decide) (by decide))
  refine ⟨fun hx => ?_, sendPtp_framed _ _ _ (by decide) (sendPtp_framed _ _ _ (by decide) (hf.trans (hdraw.mono (by decide))))⟩
  have h1 := sendPtp_mem (d := draw c) (p := p) (.pdelayResp seq (rxStamp s.dev p)) ((h0.crossedPort p).trans hx)
  refine ⟨(sendPtp_timeMove (K := []) _ _ _).sent _ h1, _, sendPtp_mem _ _ ?_⟩
  exact ((sendPtp_timeMove (K := []) _ _ _).crossedPort p).trans ((h0.crossedPort p).trans hx)

/-- What a port learns of its link from a complete exchange. -/
def PortTime.measure (trip turn : BitVec 48) (ratio : Int) (t : PortTime) : PortTime := { t with
  linkDelay := (((trip.toNat : Int) + trip.toNat * ratio / 1000000000000 - turn.toNat) / 2).toNat
  ratio := ratio, delayValid := true, measured := true, outstanding := none }

theorem onPortTime_self (p : Port) (f : PortTime → PortTime) (d : Dev) : (onPortTime p f d).time.ports[p] = f d.time.ports[p] := by
  simp [onPortTime, vmod]

theorem onPortTime_ne {q : Port} (h : q ≠ p) (f : PortTime → PortTime) (d : Dev) : (onPortTime p f d).time.ports[q] = d.time.ports[q] := by
  have hv : p.val ≠ q.val := fun hv => h (Fin.ext hv.symm)
  simp [onPortTime, vmod, hv]

theorem pdelayResp_measures (hp : ptpPort s.dev p = true) {seq : BitVec 16} (trip turn : BitVec 48) (ratio : Int)
    (ho : s.dev.time.ports[p].outstanding = some seq) : Completes (.pdelayResp p seq trip turn ratio) s fun d =>
      d.time.ports[p] = s.dev.time.ports[p].measure trip turn ratio ∧ (∀ q : Port, q ≠ p → d.time.ports[q] = s.dev.time.ports[q]) ∧
        Framed [.time, .regs, .counters] s.found d := by
  have hrun : exec (.pdelayResp p seq trip turn ratio) s = s.does fun d =>
      onPortTime p (PortTime.measure trip turn ratio) (ptpCounted p 0x0A (ptpCounted p 3 d)) := by
    refine (exec_heard (c := .pdelayResp p seq trip turn ratio) rfl (ptpPort_up hp)).trans (does_congr ?_)
    have h3 : TimeMove [] s.found (ptpCounted p 3 s.found) := ptpCounted_timeMove _ _ _
    have hA : TimeMove [] s.found (ptpCounted p 0x0A (ptpCounted p 3 s.found)) := h3.trans (ptpCounted_timeMove _ _ _)
    have ht : (ptpCounted p 0x0A (ptpCounted p 3 s.found)).time = s.dev.time := (ptpCounted_time _ _ _).trans (ptpCounted_time _ _ _)
    have hup : portUp (ptpCounted p 3 s.found) p = true := ptpPort_up ((h3.ptpPort p).trans hp)
    have hcond : (ptpPort (ptpCounted p 0x0A (ptpCounted p 3 s.found)) p &&
        decide ((ptpCounted p 0x0A (ptpCounted p 3 s.found)).time.ports[p].outstanding = some seq)) = true := by
      rw [(hA.ptpPort p).trans hp, ht, ho]
      simp
    unfold ptpHeard
    rw [if_pos hup]
    exact if_pos hcond
  refine completes_of_exec hrun ?_
  have ht : (ptpCounted p 0x0A (ptpCounted p 3 s.found)).time = s.dev.time := (ptpCounted_time _ _ _).trans (ptpCounted_time _ _ _)
  have hf : Framed [.time, .regs, .counters] s.found (ptpCounted p 0x0A (ptpCounted p 3 s.found)) :=
    countGood_framed _ _ _ (by decide) (countGood_framed _ _ _ (by decide) (.refl _ _))
  generalize ptpCounted p 0x0A (ptpCounted p 3 s.found) = c at *
  refine ⟨?_, fun q hq => ?_, onPortTime_framed _ _ _ (by decide) hf⟩
  · rw [onPortTime_self, ht]
  · rw [onPortTime_ne hq, ht]

theorem pdelayInterval_asks (hp : ptpPort s.dev p = true) {t : Nat} (ht : s.dev.time.ports[p].nextPdelay = some t) : Completes (.pdelayInterval p) s fun d =>
    d.now = max s.dev.now t ∧ (crossedPort s.dev p = false → Out.ptp p (.pdelayReq s.dev.time.pdelaySeq) ∈ d.out) ∧
      d.time.pdelaySeq = s.dev.time.pdelaySeq + 1 ∧ d.time.ports[p] = { s.dev.time.ports[p] with
        outstanding := some s.dev.time.pdelaySeq, requests := s.dev.time.ports[p].requests + 1
        nextPdelay := some (d.now + if s.dev.time.ports[p].requests < 16 then msNs else logInterval (cfgI s.dev 8 0x2402 5)) } := by
  have hlive : ∀ n : Nat, ptpPort (arrive n s.found) p = true := fun n => by
    have hd : cfg (arrive n s.found) (0x2410 + p.val) 1 = cfg s.dev (0x2410 + p.val) 1 := cfg_of_dict (arrive_dict n s.found) _ _
    have hports : (arrive n s.found).ports = s.dev.ports := arrive_ports n s.found
    unfold ptpPort cfgB portUp at hp ⊢
    rw [hd, hports]
    exact hp
  have hrun : exec (.pdelayInterval p) s = s.does fun d => sendPdelay p (arrive t d) := by
    show execPdelayInterval p s = _
    unfold execPdelayInterval
    refine does_congr ?_
    have ht : s.found.time.ports[p].nextPdelay = some t := ht
    rw [ht]
    exact if_pos (hlive t)
  refine completes_of_exec hrun ?_
  obtain ⟨f, hft, hn, hd, hi, -⟩ := arrive_timeRest t s.found
  have hcfg : cfg (arrive t s.found) 0x2402 5 = cfg s.dev 0x2402 5 := cfg_of_dict hd _ _
  generalize arrive t s.found = a at *
  have hx : crossedPort a p = crossedPort s.dev p := by
    unfold crossedPort
    rw [hi]
    rfl
  unfold sendPdelay
  dsimp only
  have hm : ∀ e : Dev, (sendPtp p (.pdelayReq a.time.pdelaySeq) e).now = e.now := fun e => (sendPtp_timeMove (K := []) p _ e).now
  refine ⟨(hm _).trans hn, fun h => ?_, ?_, ?_⟩
  · have hq : a.time.pdelaySeq = s.dev.time.pdelaySeq := by rw [hft]; rfl
    rw [hq]
    exact sendPtp_mem _ _ (hx.trans h)
  · rw [sendPtp_time]
    show a.time.pdelaySeq + 1 = _
    rw [hft]
    rfl
  · rw [hm, sendPtp_time, onPortTime_self]
    have hport : a.time.ports[p] = s.dev.time.ports[p] := by rw [hft]; rfl
    have hseq : a.time.pdelaySeq = s.dev.time.pdelaySeq := by rw [hft]; rfl
    show ({ a.time.ports[p] with
      outstanding := some a.time.pdelaySeq, requests := a.time.ports[p].requests + 1
      nextPdelay := some (a.now + if a.time.ports[p].requests < 16 then msNs else logInterval (cfgI a 8 0x2402 5)) } : PortTime) = _
    unfold cfgI
    rw [hport, hseq, hcfg]
    rfl

end pdelay

/-! ### Captured edges (R192, R214) -/

section captures

variable {s : State} {d : Dev} {inp : CapInput} {rising : Bool}

/-- The records, their identifiers and their counters stand. -/
structure CapKeeps (a b : Dev) : Prop where
  captures : b.time.captures = a.time.captures
  overflow : b.time.capOverflow = a.time.capOverflow
  ident : b.time.capIdent = a.time.capIdent
  full : cfg b 0x2404 6 = cfg a 0x2404 6
  early : cfg b 0x2404 7 = cfg a 0x2404 7

theorem CapKeeps.trans {a b c : Dev} (h1 : CapKeeps a b) (h2 : CapKeeps b c) : CapKeeps a c :=
  ⟨h2.captures.trans h1.captures, h2.overflow.trans h1.overflow, h2.ident.trans h1.ident, h2.full.trans h1.full, h2.early.trans h1.early⟩

theorem CapKeeps.ite {c : Prop} [Decidable c] {a x y : Dev} (h1 : CapKeeps a x) (h2 : CapKeeps a y) : CapKeeps a (if c then x else y) := by
  split
  exacts [h1, h2]

theorem CapKeeps.refl (d : Dev) : CapKeeps d d := ⟨rfl, rfl, rfl, rfl, rfl⟩

/-- A change that leaves the time and the registers. -/
theorem CapKeeps.of_framed {A : List Part} {a b : Dev} (h : Framed A a b) (hc : Part.clock ∉ A) (ht : Part.time ∉ A) (hr : Part.regs ∉ A) : CapKeeps a b := by
  have htime := time_of_framed h hc ht
  have hregs : RegsFramed [] a b := .of_same (h.same .regs hr)
  exact ⟨by rw [htime], by rw [htime], by rw [htime], hregs.cfg _ _ (by simp), hregs.cfg _ _ (by simp)⟩

theorem snapshot_capKeeps (d : Dev) : CapKeeps d (snapshot d) := by
  have hset : ∀ (b v : Nat) (e : Dev), CapKeeps e (setReg 0x2E08 b v e) := fun b v e =>
    ⟨rfl, rfl, rfl, cfg_setReg_ne _ _ _ _ _ _ (by unfold odKey; omega), cfg_setReg_ne _ _ _ _ _ _ (by unfold odKey; omega)⟩
  unfold snapshot
  refine .ite (.refl d) ?_
  dsimp only
  have hall : ∀ (x : HealthS) (v w : Nat), CapKeeps d (setReg 0x2E08 5 v (setReg 0x2E08 4 w { d with health := x })) := fun x v w =>
    CapKeeps.trans (b := { d with health := x }) ⟨rfl, rfl, rfl, rfl, rfl⟩ ((hset 4 w _).trans (hset 5 v _))
  exact hall _ _ _

/-- The device at an edge. -/
def edgeSeen (inp : CapInput) (rising : Bool) (d : Dev) : Dev :=
  match inp with
  | .pps => { d with time := { d.time with ppsInLevel := rising } }
  | .tevt => { d with time := { d.time with tevtInLevel := rising } }

/-- The subindex that selects the edges of an input. -/
def edgeSub (inp : CapInput) : Nat := if inp = .pps then 8 else 9

/-- What follows the capture of an edge: its event, a snapshot, and the discipline by PPS_IN. -/
def edgeFollows (inp : CapInput) (rising : Bool) (d : Dev) : Dev :=
  let d2 := if rising then countEv 0x061 (if inp = .pps then 0 else 1) 0 1 d else d
  let d3 := if rising && bitOf (cfg d2 0x2E08 1) (if inp = .pps then 1 else 2) then snapshot d2 else d2
  if rising && inp = .pps && ppsDisciplines d3 then
    onlyIf d3.pow.agentReady servoRate { d3 with time := { d3.time with ppsInLast := some d3.now, ppsInLostAt := none, ownClass := 6, gmClass := 6 } }
  else d3

theorem edgeFollows_capKeeps (inp : CapInput) (rising : Bool) (d : Dev) : CapKeeps d (edgeFollows inp rising d) := by
  have hev : ∀ e : Dev, CapKeeps e (countEv 0x061 (if inp = .pps then 0 else 1) 0 1 e) := fun e =>
    .of_framed (countEv_framed (L := [.counters]) _ _ _ _ e (by decide) (.refl _ e)) (by decide) (by decide) (by decide)
  have hservo : ∀ e : Dev, CapKeeps e (servoRate e) := fun e => ⟨rfl, rfl, rfl, rfl, rfl⟩
  have hdisc : ∀ e : Dev, CapKeeps e (onlyIf e.pow.agentReady servoRate
      { e with time := { e.time with ppsInLast := some e.now, ppsInLostAt := none, ownClass := 6, gmClass := 6 } }) := fun e => by
    unfold onlyIf
    exact .ite (CapKeeps.trans (b := { e with time := { e.time with ppsInLast := some e.now, ppsInLostAt := none, ownClass := 6, gmClass := 6 } })
      ⟨rfl, rfl, rfl, rfl, rfl⟩ (hservo _)) ⟨rfl, rfl, rfl, rfl, rfl⟩
  have h2 : CapKeeps d (if rising then countEv 0x061 (if inp = .pps then 0 else 1) 0 1 d else d) := .ite (hev d) (.refl d)
  unfold edgeFollows
  dsimp only
  generalize (if rising then countEv 0x061 (if inp = .pps then 0 else 1) 0 1 d else d) = x at *
  have h3 : CapKeeps d (if rising && bitOf (cfg x 0x2E08 1) (if inp = .pps then 1 else 2) then snapshot x else x) := h2.trans (.ite (snapshot_capKeeps x) (.refl x))
  generalize (if rising && bitOf (cfg x 0x2E08 1) (if inp = .pps then 1 else 2) then snapshot x else x) = y at *
  exact h3.trans (.ite (hdisc y) (.refl y))

theorem captureEdge_exec (inp : CapInput) (rising : Bool) (s : State) : exec (.captureEdge inp rising) s = s.does fun d =>
    edgeFollows inp rising (if edgeSelected (cfg d 0x2403 (edgeSub inp)) rising then captureEdge inp rising (edgeSeen inp rising d) else edgeSeen inp rising d) := by
  show execCaptureEdge inp rising s = _
  unfold execCaptureEdge
  refine does_congr ?_
  cases inp <;> rfl

/-- The device at an edge and the device found hold the same records. -/
theorem edgeSeen_keeps (inp : CapInput) (rising : Bool) (d : Dev) : CapKeeps d (edgeSeen inp rising d) ∧ (edgeSeen inp rising d).now = d.now ∧
    trainTime (edgeSeen inp rising d) = trainTime d ∧ (edgeSeen inp rising d).time.state = d.time.state ∧
    (edgeSeen inp rising d).time.lastEdge = d.time.lastEdge ∧ (edgeSeen inp rising d).time.lastEdgeT = d.time.lastEdgeT := by
  cases inp <;> exact ⟨⟨rfl, rfl, rfl, rfl, rfl⟩, rfl, rfl, rfl, rfl, rfl⟩

/-- The last captured edge of an input. -/
def lastCaptured (inp : CapInput) (t : TimeS) : Option Nat := if inp = .pps then t.lastEdge else t.lastEdgeT

/-- The record of an edge. -/
def edgeRecord (inp : CapInput) (rising : Bool) (d : Dev) : TsRecord :=
  { half := 2 * trainTime d, overflow := d.time.capOverflow, unsure := !d.time.state.sure, tevt := decide (inp = .tevt), rising := rising, ident := d.time.capIdent }

/-- The identifier of an edge is taken, and its moment noted. -/
def edgeNoted (inp : CapInput) (d : Dev) : Dev := { d with time := { d.time with
  capIdent := (d.time.capIdent + 1) % 65536
  lastEdge := if inp = .pps then some d.now else d.time.lastEdge
  lastEdgeT := if inp = .tevt then some d.now else d.time.lastEdgeT } }

theorem captureEdge_eq (inp : CapInput) (rising : Bool) (d : Dev) : captureEdge inp rising d =
    if (match lastCaptured inp d.time with | some t => decide (d.now < t + 40) | none => false) then bump 0x2404 7 d
    else if (edgeNoted inp d).time.captures.length < 16 then
      { edgeNoted inp d with time := { (edgeNoted inp d).time with captures := (edgeNoted inp d).time.captures ++ [edgeRecord inp rising d], capOverflow := false } }
    else noteOverflow noInst (bump 0x2404 6 { edgeNoted inp d with time := { (edgeNoted inp d).time with capOverflow := true } }) := by
  cases inp <;> rfl

theorem noteOverflow_capKeeps (inst : Nat) (d : Dev) : CapKeeps d (noteOverflow inst d) := by
  have hr : ∀ e : Dev, CapKeeps e (raise evTsOverflow inst e) := fun e => by
    have hm : TimeMove [] e (raise evTsOverflow inst e) := raise_timeMove _ _ _
    have ht := raise_timeS evTsOverflow inst e
    exact ⟨by rw [ht], by rw [ht], by rw [ht], hm.counter (by decide) (by decide) (by simp), hm.counter (by decide) (by decide) (by simp)⟩
  unfold noteOverflow
  have hall : ∀ x : Option Nat, CapKeeps d (raise evTsOverflow inst { d with time := { d.time with overflowSecond := x } }) := fun x =>
    CapKeeps.trans (b := { d with time := { d.time with overflowSecond := x } }) ⟨rfl, rfl, rfl, rfl, rfl⟩ (hr _)
  exact .ite (.refl d) (hall _)

theorem captureEdge_completes {P : Dev → Prop} (hsel : edgeSelected (cfg s.dev 0x2403 (edgeSub inp)) rising = true)
    (hP : ∀ e d, CapKeeps s.dev e → e.now = s.dev.now → lastCaptured inp e.time = lastCaptured inp s.dev.time → edgeRecord inp rising e = edgeRecord inp rising s.dev →
      CapKeeps (captureEdge inp rising e) d → P d) : Completes (.captureEdge inp rising) s P := by
  refine completes_of_exec (captureEdge_exec inp rising s) ?_
  rw [if_pos (show edgeSelected (cfg s.found 0x2403 (edgeSub inp)) rising = true from hsel)]
  obtain ⟨hk, hn, htt, hst, hl, hlt⟩ := edgeSeen_keeps inp rising s.found
  refine hP (edgeSeen inp rising s.found) _ ⟨hk.captures, hk.overflow, hk.ident, hk.full, hk.early⟩ hn ?_ ?_ (edgeFollows_capKeeps inp rising _)
  · unfold lastCaptured
    rw [hl, hlt]
    rfl
  · unfold edgeRecord
    rw [htt, hk.overflow, hk.ident, hst]
    rfl

theorem captureEdge_unselected (hsel : edgeSelected (cfg s.dev 0x2403 (edgeSub inp)) rising = false) : Completes (.captureEdge inp rising) s fun d =>
    d.time.captures = s.dev.time.captures ∧ d.time.capIdent = s.dev.time.capIdent := by
  refine completes_of_exec (captureEdge_exec inp rising s) ?_
  rw [show edgeSelected (cfg s.found 0x2403 (edgeSub inp)) rising = false from hsel, if_neg (by decide)]
  have h := (edgeSeen_keeps inp rising s.found).1.trans (edgeFollows_capKeeps inp rising (edgeSeen inp rising s.found))
  exact ⟨h.captures, h.ident⟩

theorem captureEdge_early (hsel : edgeSelected (cfg s.dev 0x2403 (edgeSub inp)) rising = true)
    (h : ∃ t, lastCaptured inp s.dev.time = some t ∧ s.dev.now < t + 40) : Completes (.captureEdge inp rising) s fun d =>
      d.time.captures = s.dev.time.captures ∧ d.time.capIdent = s.dev.time.capIdent ∧ cfg d 0x2404 7 = min 0xFFFFFFFF (cfg s.dev 0x2404 7 + 1) :=
  captureEdge_completes hsel fun e d hk hn hl _ hd => by
    obtain ⟨t, ht, hlt⟩ := h
    have hrun : captureEdge inp rising e = bump 0x2404 7 e := by
      rw [captureEdge_eq, hl, ht, hn]
      exact if_pos (decide_eq_true hlt)
    rw [hrun] at hd
    refine ⟨hd.captures.trans ((congrArg TimeS.captures (bump_time _ _ _)).trans hk.captures),
      hd.ident.trans ((congrArg TimeS.capIdent (bump_time _ _ _)).trans hk.ident), hd.early.trans ?_⟩
    rw [cfg_bump_self _ _ _ rfl, hk.early]

theorem captureEdge_late {e : Dev} (h : ¬ ∃ t, lastCaptured inp s.dev.time = some t ∧ s.dev.now < t + 40) (hn : e.now = s.dev.now)
    (hl : lastCaptured inp e.time = lastCaptured inp s.dev.time) : captureEdge inp rising e =
      if (edgeNoted inp e).time.captures.length < 16 then
        { edgeNoted inp e with time := { (edgeNoted inp e).time with captures := (edgeNoted inp e).time.captures ++ [edgeRecord inp rising e], capOverflow := false } }
      else noteOverflow noInst (bump 0x2404 6 { edgeNoted inp e with time := { (edgeNoted inp e).time with capOverflow := true } }) := by
  rw [captureEdge_eq, hl, hn]
  refine if_neg ?_
  cases hlast : lastCaptured inp s.dev.time with
  | none => exact Bool.false_ne_true
  | some t => exact fun hlt => h ⟨t, hlast, of_decide_eq_true hlt⟩

theorem captureEdge_records (hsel : edgeSelected (cfg s.dev 0x2403 (edgeSub inp)) rising = true)
    (h : ¬ ∃ t, lastCaptured inp s.dev.time = some t ∧ s.dev.now < t + 40) (hroom : s.dev.time.captures.length < 16) :
    Completes (.captureEdge inp rising) s fun d => d.time.captures = s.dev.time.captures ++ [edgeRecord inp rising s.dev] ∧
      d.time.capOverflow = false ∧ d.time.capIdent = (s.dev.time.capIdent + 1) % 65536 :=
  captureEdge_completes hsel fun e d hk hn hl hr hd => by
    have hcap : (edgeNoted inp e).time.captures = s.dev.time.captures := hk.captures
    rw [captureEdge_late h hn hl, hcap, if_pos hroom] at hd
    refine ⟨hd.captures.trans ?_, hd.overflow, hd.ident.trans ?_⟩
    · rw [hr]
    · show (e.time.capIdent + 1) % 65536 = _
      rw [hk.ident]

theorem captureEdge_overflows (hsel : edgeSelected (cfg s.dev 0x2403 (edgeSub inp)) rising = true)
    (h : ¬ ∃ t, lastCaptured inp s.dev.time = some t ∧ s.dev.now < t + 40) (hfull : 16 ≤ s.dev.time.captures.length) :
    Completes (.captureEdge inp rising) s fun d => d.time.captures = s.dev.time.captures ∧ d.time.capOverflow = true ∧
      d.time.capIdent = (s.dev.time.capIdent + 1) % 65536 ∧ cfg d 0x2404 6 = min 0xFFFFFFFF (cfg s.dev 0x2404 6 + 1) :=
  captureEdge_completes hsel fun e d hk hn hl hr hd => by
    have hcap : (edgeNoted inp e).time.captures = s.dev.time.captures := hk.captures
    have hcount : cfg (edgeNoted inp e) 0x2404 6 = cfg s.dev 0x2404 6 := hk.full
    have hid : (edgeNoted inp e).time.capIdent = (s.dev.time.capIdent + 1) % 65536 := by
      show (e.time.capIdent + 1) % 65536 = _
      rw [hk.ident]
    rw [captureEdge_late h hn hl, hcap, if_neg (by omega)] at hd
    generalize edgeNoted inp e = x at *
    have hall := (noteOverflow_capKeeps noInst (bump 0x2404 6 { x with time := { x.time with capOverflow := true } })).trans hd
    have ht := bump_time 0x2404 6 { x with time := { x.time with capOverflow := true } }
    refine ⟨hall.captures.trans (by rw [ht]; exact hcap), hall.overflow.trans (by rw [ht]), hall.ident.trans (by rw [ht]; exact hid), hall.full.trans ?_⟩
    rw [cfg_bump_self _ _ _ rfl]
    exact congrArg (fun n => min 0xFFFFFFFF (n + 1)) hcount

end captures

end Sys2Proof.Machine
end

section
/-! PROOF. Records leave their queue at a read, launches and pulses come at their time (R192, R210 to R214). -/

namespace Sys2Proof.Machine

/-! ### Records are read (R192, R210, R214) -/

section records

variable {s : State} {src : Src} {p : Port} {a : Dev}

/-- A read of a computed entry that may have an effect. -/
theorem serveRead_computed {idx sub n : Nat} {row : EntryRow} (hrow : rowOf idx sub = some row) (hread : row.reads (roleOf a src) = true)
    (href : readRefused a idx sub = false) (hidx : idx < 0x5000) (hphy : ¬ (0x2300 ≤ idx ∧ idx < 0x2314)) (hty : row.ty = .u64) (hv : computed a idx sub = some (.num n)) :
    serveRead ⟨src, idx, sub, 0, .read (mostBytes src), none⟩ (mostBytes src) a =
      answer src ⟨idx, sub, false, 0, slice (leBytes 8 n) 0 (mostBytes src), (leBytes 8 n).length⟩ (readEffect idx sub a) := by
  have hjudge := judgeRead_start (d := a) (r := ⟨src, idx, sub, 0, .read (mostBytes src), none⟩) rfl hrow hread
  have hvalue : readValueOf ⟨src, idx, sub, 0, .read (mostBytes src), none⟩ row a = leBytes 8 n := by
    unfold readValueOf entryValue
    rw [if_neg (by simp; omega), if_neg (by simp; omega), hv, hty]
    rfl
  rw [hvalue, href, if_neg (by decide)] at hjudge
  unfold serveRead
  rw [hjudge]
  rfl

theorem readRecord_completes {c : Instr} {idx sub n : Nat} {row : EntryRow} {f : Dev → Dev} (hc : exec c s = askRead src idx sub none s) (hs : Served s.dev src)
    (hm : MayRead s.dev src idx sub) (hrow : rowOf idx sub = some row) (hidx : 0x2400 ≤ idx ∧ idx < 0x2500) (hty : row.ty = .u64)
    (hv : ∀ a, a.time = s.dev.time → computed a idx sub = some (.num n)) (hf : ∀ a, readEffect idx sub a = f a) (hframe : ∀ a, Framed [.time] a (f a)) :
    Completes c s fun d => ReadAnswered d src idx sub (leBytes 8 n) ∧ Through src s f d := by
  refine completes_askRead hc hs fun a ha => ?_
  obtain ⟨row', hrow', hread⟩ := hm
  obtain rfl := Option.some.inj (hrow.symm.trans hrow')
  have href : readRefused a idx sub = false := by
    unfold readRefused
    rw [if_neg (by simp; omega), if_neg (by simp; omega), if_neg (by simp; omega)]
  rw [serveRead_computed (a := a) hrow (by rw [show roleOf a src = roleOf s.dev src from ha.role]; exact hread) href (by omega) (by omega) hty
    (hv a ha.pathOnly.time), hf]
  exact ⟨answer_ready _ (ha.ready.framed (hframe a) (by decide) (by decide)), a, ha.pathOnly, answer_pathOnly _ _ _⟩

theorem computed_capture (d : Dev) : computed d 0x2403 0x0A = some (.num ((d.time.captures.head?.map TsRecord.pack).getD 0)) := by
  show timeRead d 0x2403 0x0A = _
  unfold timeRead
  dsimp only
  rw [if_neg (by omega), if_pos rfl]
  rfl

theorem rowOf_capture : rowOf 0x2403 0x0A = some ⟨0x2403, 1, 1, 0x0A, 1, .u64, 0x1111, .n 0, .vol, false, false, .any⟩ := by decide +kernel

theorem captureRecordRead_takes (hs : Served s.dev src) (hm : MayRead s.dev src 0x2403 0x0A) : Completes (.captureRecordRead src) s fun d =>
    ReadAnswered d src 0x2403 0x0A (leBytes 8 ((s.dev.time.captures.head?.map TsRecord.pack).getD 0)) ∧
      Through src s (fun d => { d with time := { d.time with captures := d.time.captures.tail } }) d := by
  refine readRecord_completes (c := .captureRecordRead src) rfl hs hm rowOf_capture (by decide) rfl
    (fun a ht => ?_) (fun a => ?_) fun a => ?_
  · rw [computed_capture, ht]
  · unfold readEffect
    rw [if_pos (by decide), List.drop_one]
  · intro p
    cases p <;> first | exact .inl (by decide) | exact .inr rfl

theorem rowOf_txRecord (p : Port) : rowOf (0x2410 + p.val) 9 = some ⟨0x2410, 20, 1, 0x09, 1, .u64, 0x1111, .n 0, .vol, false, false, .any⟩ := by
  revert p
  decide +kernel

theorem txPort_ofNat (p : Port) : Fin.ofNat 20 (0x2410 + p.val - 0x2410) = p := by
  apply Fin.ext
  have := p.isLt
  simp only [Fin.ofNat]
  omega

theorem computed_txRecord (d : Dev) (p : Port) : computed d (0x2410 + p.val) 9 = some (.num ((d.time.ports[p].txQueue.head?.map TsRecord.pack).getD 0)) := by
  have hp := p.isLt
  have hdiv : (0x2410 + p.val) / 256 = 0x24 := by omega
  unfold computed
  rw [hdiv]
  show timeRead d (0x2410 + p.val) 9 = _
  unfold timeRead
  dsimp only
  have h24 : (0x2410 ≤ 0x2410 + p.val && 0x2410 + p.val < 0x2424) = true := by simp; omega
  rw [if_neg (by omega), if_neg (by omega), if_pos h24]
  exact congrArg (fun q : Port => some (Value.num ((d.time.ports[q].txQueue.head?.map TsRecord.pack).getD 0))) (txPort_ofNat p)

theorem transmitTimestampRead_takes (hs : Served s.dev src) (hm : MayRead s.dev src (0x2410 + p.val) 9) : Completes (.transmitTimestampRead src p) s fun d =>
    ReadAnswered d src (0x2410 + p.val) 9 (leBytes 8 ((s.dev.time.ports[p].txQueue.head?.map TsRecord.pack).getD 0)) ∧
      Through src s (onPortTime p (fun t => { t with txQueue := t.txQueue.tail })) d := by
  have hp := p.isLt
  refine readRecord_completes (c := .transmitTimestampRead src p) rfl hs hm (rowOf_txRecord p) (by omega) rfl (fun a ht => ?_) (fun a => ?_) fun a => ?_
  · rw [computed_txRecord, ht]
  · unfold readEffect
    rw [if_neg (by simp), if_pos (by simp; omega), txPort_ofNat]
    simp only [List.drop_one]
  · exact onPortTime_framed _ _ _ (by decide) (.refl _ a)

end records

/-! ### Pulses (R212, R213) -/

section pulses

variable {s : State} {t : Nat}

/-- What the passing of time leaves of a device. -/
structure Passed (s : State) (a : Dev) : Prop where
  framed : Framed [.clock, .counters, .time] s.found a
  time : ∃ f, a.time = { s.dev.time with fRaw := f }
  settings : ∀ i b, cfg a i b = cfg s.dev i b

theorem arrive_passed (n : Nat) (s : State) : Passed s (arrive n s.found) :=
  ⟨arrive_framed _ _ (by decide) (.refl _ _), arrive_timeS n s.found, fun i b => cfg_of_dict (arrive_dict n s.found) i b⟩

theorem arriveTrain_passed (n : Nat) (s : State) : Passed s (arriveTrain n s.found) :=
  ⟨arriveTrain_framed _ _ (by decide) (.refl _ _), arriveTrain_timeRest n s.found, fun i b => cfg_of_dict (arriveTrainFuel_dict 8 n s.found) i b⟩

theorem Passed.onTime {a : Dev} (h : Passed s a) (u : TimeS) : Framed [.clock, .counters, .time] s.found { a with time := u } :=
  h.framed.trans fun p => by cases p <;> first | exact .inl (by decide) | exact .inr rfl

/-- The pulse rises as 0x2403:01 allows. -/
def ppsAllowed (d : Dev) : Bool := decide (cfg d 0x2403 1 = 1) || decide (cfg d 0x2403 1 = 2) && d.time.state.sure && !d.time.holdLimitPassed

/-- A pulse of PPS_OUT at a moment of train time. -/
def ppsPulse (d : Dev) : Dev :=
  if ppsAllowed d then { d with time := { d.time with ppsOut := true, ppsOutEnd := after (cfg d 0x2403 2 * usNs) d } } else d

theorem ppsAllowed_eq (d : Dev) : (match cfg d 0x2403 1 with | 1 => true | 2 => d.time.state.sure && !d.time.holdLimitPassed | _ => false) = ppsAllowed d := by
  unfold ppsAllowed
  split
  · next h => simp [h]
  · next h => simp [h]
  · next h1 h2 =>
    rw [decide_eq_false h1, decide_eq_false h2]
    rfl

theorem ppsOutPulse_exec : ∃ n : Nat, exec .ppsOutPulse s = s.does fun d => ppsPulse (arriveTrain n d) := by
  refine ⟨(((((trainTime s.found : Int) + cfgI s.found 16 0x2403 3) / sNs + 1) * sNs - cfgI s.found 16 0x2403 3)).toNat, ?_⟩
  show execPpsOutPulse s = _
  unfold execPpsOutPulse
  refine does_congr ?_
  dsimp only
  generalize arriveTrain _ s.found = a
  unfold ppsPulse
  exact if_congr (iff_of_eq (congrArg (· = true) (ppsAllowed_eq a))) rfl rfl

/-- A pulse that comes at its moment leaves the rest alone. -/
theorem ppsPulse_raises {a : Dev} (h : Passed s a) : Framed [.clock, .counters, .time] s.found (ppsPulse a) ∧
    (ppsAllowed s.dev = true → (ppsPulse a).time.ppsOut = true ∧ (ppsPulse a).time.ppsOutEnd = some ((ppsPulse a).now + cfg s.dev 0x2403 2 * usNs)) ∧
    (ppsAllowed s.dev = false → (ppsPulse a).time.ppsOut = s.dev.time.ppsOut ∧ (ppsPulse a).time.ppsOutEnd = s.dev.time.ppsOutEnd) := by
  obtain ⟨f, ht⟩ := h.time
  have hallow : ppsAllowed a = ppsAllowed s.dev := by
    unfold ppsAllowed
    rw [h.settings, ht]
  unfold ppsPulse
  rw [hallow, h.settings]
  cases ppsAllowed s.dev with
  | true => exact ⟨h.onTime _, fun _ => ⟨rfl, rfl⟩, fun h => Bool.noConfusion h⟩
  | false => exact ⟨h.framed, fun h => Bool.noConfusion h, fun _ => ⟨by rw [if_neg (by decide), ht], by rw [if_neg (by decide), ht]⟩⟩

theorem ppsOutPulse_comes : (ppsAllowed s.dev = true → Completes .ppsOutPulse s fun d => d.time.ppsOut = true ∧
      d.time.ppsOutEnd = some (d.now + cfg s.dev 0x2403 2 * usNs) ∧ Framed [.clock, .counters, .time] s.found d) ∧
    (ppsAllowed s.dev = false → Completes .ppsOutPulse s fun d => d.time.ppsOut = s.dev.time.ppsOut ∧ d.time.ppsOutEnd = s.dev.time.ppsOutEnd ∧
      Framed [.clock, .counters, .time] s.found d) := by
  obtain ⟨n, hrun⟩ := ppsOutPulse_exec (s := s)
  obtain ⟨h1, h2, h3⟩ := ppsPulse_raises (arriveTrain_passed n s)
  exact ⟨fun h => completes_of_exec hrun ⟨(h2 h).1, (h2 h).2, h1⟩, fun h => completes_of_exec hrun ⟨(h3 h).1, (h3 h).2, h1⟩⟩

theorem ppsOutPulseEnd_falls (ht : s.dev.time.ppsOutEnd = some t) : Completes .ppsOutPulseEnd s fun d => d.time.ppsOut = false ∧ d.time.ppsOutEnd = none ∧
    d.now = max s.dev.now t ∧ Framed [.clock, .counters, .time] s.found d := by
  have hrun : exec .ppsOutPulseEnd s = s.does fun d => { arrive t d with time := { (arrive t d).time with ppsOut := false, ppsOutEnd := none } } := by
    show execPpsOutPulseEnd s = _
    unfold execPpsOutPulseEnd
    refine does_congr ?_
    have ht : s.found.time.ppsOutEnd = some t := ht
    rw [ht]
  exact completes_of_exec hrun ⟨rfl, rfl, arrive_found t s, (arrive_passed t s).onTime _⟩

theorem tevtOutPulseEnd_falls (ht : s.dev.time.tevtOutEnd = some t) : Completes .tevtOutPulseEnd s fun d => d.time.tevtOut = false ∧ d.time.tevtOutEnd = none ∧
    d.now = max s.dev.now t ∧ Framed [.clock, .counters, .time] s.found d := by
  have hrun : exec .tevtOutPulseEnd s = s.does fun d => { arrive t d with time := { (arrive t d).time with tevtOut := false, tevtOutEnd := none } } := by
    show execTevtOutPulseEnd s = _
    unfold execTevtOutPulseEnd
    refine does_congr ?_
    have ht : s.found.time.tevtOutEnd = some t := ht
    rw [ht]
  exact completes_of_exec hrun ⟨rfl, rfl, arrive_found t s, (arrive_passed t s).onTime _⟩

/-- TEVT_OUT rises, and in mode 2 its next time is planned. -/
def tevtPulse (t : Nat) (d : Dev) : Dev := { d with time := { d.time with
  tevtOut := true, tevtOutEnd := after (cfg d 0x2403 7) d
  tevtNext := if cfg d 0x2403 4 = 2 then some (t + cfg d 0x2403 6) else none } }

theorem tevtOutPulse_rises (ht : s.dev.time.tevtNext = some t) : Completes .tevtOutPulse s fun d => d.time.tevtOut = true ∧
    d.time.tevtOutEnd = some (d.now + cfg s.dev 0x2403 7) ∧
    d.time.tevtNext = (if cfg s.dev 0x2403 4 = 2 then some (t + cfg s.dev 0x2403 6) else none) ∧ Framed [.clock, .counters, .time] s.found d := by
  have hrun : exec .tevtOutPulse s = s.does fun d => tevtPulse t (arriveTrain t d) := by
    show execTevtOutPulse s = _
    unfold execTevtOutPulse tevtPulse
    refine does_congr ?_
    have ht : s.found.time.tevtNext = some t := ht
    rw [ht]
  refine completes_of_exec hrun ?_
  have h := arriveTrain_passed t s
  generalize arriveTrain t s.found = a at *
  refine ⟨rfl, ?_, ?_, h.onTime _⟩
  · show after (cfg a 0x2403 7) a = _
    rw [h.settings]
    rfl
  · show (if cfg a 0x2403 4 = 2 then some (t + cfg a 0x2403 6) else none) = _
    rw [h.settings, h.settings]

end pulses

end Sys2Proof.Machine
end

section
/-! PROOF. A frame leaves its queue, at once or at its launch time (R119, R202, R210, R211). -/

namespace Sys2Proof.Machine

section starts

variable {s : State} {d : Dev} {p : Port} {q : Fin 8} {f : QFrame} {K : List (Fin 256)}

/-- The counters that the start of a frame moves. -/
def startCounters (p : Port) : List (Nat × Nat) := (0x2410 + p.val, 0x0E) :: (0x2410 + p.val, 0x0B) :: (0x2300 + p.val, 0x25) :: eventCounters

/-- What the start of a frame leaves besides the frame that left. -/
structure Starting (p : Port) (a b : Dev) : Prop where
  sent : Sent a b
  now : b.now = a.now
  queues : b.fab.queues = a.fab.queues
  regs : RegsFramed ((0x2410 + p.val, 0x0B) :: eventCounters) a b

theorem Starting.trans {a b c : Dev} (h1 : Starting p a b) (h2 : Starting p b c) : Starting p a c :=
  ⟨h1.sent.trans h2.sent, h2.now.trans h1.now, h2.queues.trans h1.queues, h1.regs.trans h2.regs⟩

theorem Starting.refl (p : Port) (d : Dev) : Starting p d d := ⟨.refl d, rfl, rfl, .refl _ d⟩

/-- A step that sends nothing, moves no queue and writes no register. -/
theorem Starting.quiet {A : List Part} {a b : Dev} (h : Framed A a b) (ho : Part.out ∉ A) (hc : Part.clock ∉ A) (hq : Part.queues ∉ A) (hr : Part.regs ∉ A) :
    Starting p a b := ⟨h.sent ho, congrArg Prod.fst (h.same .clock hc), queues_of_framed h hq, .of_same (h.same .regs hr)⟩

theorem Starting.onlyIf {g : Dev → Dev} (c : Bool) (h : Starting p d (g d)) : Starting p d (onlyIf c g d) := by
  cases c
  · exact .refl p d
  · exact h

theorem storeTxStamp_starting (p : Port) (n : Nat) (d : Dev) : Starting p d (storeTxStamp p n d) := by
  have hport : ∀ (g : PortTime → PortTime) (e : Dev), Starting p e (onPortTime p g e) := fun g e =>
    .quiet (onPortTime_framed (L := [.time]) p g e (by decide) (.refl _ e)) (by decide) (by decide) (by decide) (by decide)
  have hraise : ∀ e : Dev, Starting p e (raise evTsOverflow p.val e) := fun e =>
    ⟨raise_sent _ _ e, (raise_timeMove (K := []) _ _ e).now, queues_of_framed (raise_framed (L := eventParts) _ _ e (by decide) (.refl _ e)) (by decide),
      (raise_regs _ _ e).mono fun _ h => List.mem_cons_of_mem _ h⟩
  have hover : ∀ e : Dev, Starting p e (noteOverflow p.val e) := fun e => by
    have hall : ∀ x : Option Nat, Starting p e (raise evTsOverflow p.val { e with time := { e.time with overflowSecond := x } }) := fun x =>
      Starting.trans (b := { e with time := { e.time with overflowSecond := x } }) ⟨.of_eq rfl, rfl, rfl, .of_same rfl⟩ (hraise _)
    unfold noteOverflow
    dsimp only
    split
    · exact .refl p e
    · exact hall _
  have hbump : ∀ e : Dev, Starting p e (bump (0x2410 + p.val) 0x0B e) := fun e =>
    ⟨.of_eq (by simp), bump_now _ _ _, queues_of_framed (bump_framed (L := [.regs]) _ _ e (by decide) (.refl _ e)) (by decide), (RegsFramed.refl _ e).bump _ _ (.head _)⟩
  unfold storeTxStamp
  dsimp only
  split
  · exact hport _ d
  · exact (hport _ d).trans ((hbump _).trans (hover _))

theorem settle_starting (f : QFrame) (status : Nat) (d : Dev) : Starting p d (settle f status d) := by
  have h : Framed [.out, .queues, .host, .ints] d (settle f status d) := settle_framed f status d (fun _ h => h) (.refl _ d)
  exact ⟨settle_sent f status d, congrArg Prod.fst (h.same .clock (by decide)), settle_queues f status d, .of_same (h.same .regs (by decide))⟩

/-- The frame has left its queue, and its port counts it. -/
def frameSent (p : Port) (q : Fin 8) (f : QFrame) (d : Dev) : Dev :=
  bump64 (0x2300 + p.val) 0x25 1 (onlyIf (correctedAt d p f).2 (bump (0x2410 + p.val) 0x0E)
    (emit (.frame p q.val (correctedAt d p f).1) (setQueue p q (queueOf d p q).tail d)))

/-- The events of a frame, in its window and out of it. -/
def frameEvents (p : Port) (q : Fin 8) (f : QFrame) (len : Nat) (inWindow : Bool) (d : Dev) : Dev :=
  onlyIf (q = 6 && inWindow) (fun d => countEv 0x010 p.val 0 1 (bumpWin (f.window.getD 0) 0 d))
    (countEv 0x002 p.val q.val len (countEv 0x001 p.val q.val 1 d))

theorem frameEvents_starting (p : Port) (q : Fin 8) (f : QFrame) (len : Nat) (inWindow : Bool) (d : Dev) : Starting p d (frameEvents p q f len inWindow d) := by
  have hev : ∀ (code inst qual k : Nat) (e : Dev), Starting p e (countEv code inst qual k e) := fun code inst qual k e =>
    .quiet (countEv_framed (L := [.counters]) _ _ _ _ e (by decide) (.refl _ e)) (by decide) (by decide) (by decide) (by decide)
  have hwin : ∀ e : Dev, Starting p e (bumpWin (f.window.getD 0) 0 e) := fun e =>
    .quiet (bumpWin_framed (L := [.sched]) _ _ e (by decide) (.refl _ e)) (by decide) (by decide) (by decide) (by decide)
  exact ((hev _ _ _ _ d).trans (hev _ _ _ _ _)).trans (.onlyIf _ ((hwin _).trans (hev _ _ _ _ _)))

/-- The port is busy with the frame, at its end its credit and its timestamp are known. -/
def frameEnds (p : Port) (q : Fin 8) (f : QFrame) (until_ : Nat) (cells : List Slice) (credit : Int) (d : Dev) : Dev :=
  let d5 := onlyIf (q = 5) (setCredit p credit until_)
    (onPort p (fun t => { t with txUntil := until_, txCut := f.cut, txQueue := q.val, txCells := cells }) d)
  let d6 := match f.tsIdent with | some n => storeTxStamp p n d5 | none => d5
  settle f 0 (onFab (fun b => { b with sentUids := if f.host.isSome then f.uid :: b.sentUids else b.sentUids }) d6)

/-- The end of the frame, with the credit of Q5. -/
theorem frameEnds_starting (p : Port) (q : Fin 8) (f : QFrame) (t : Nat) (cells : List Slice) (credit : Int) (d : Dev) :
    Starting p d (frameEnds p q f t cells credit d) ∧ (frameEnds p q f t cells credit d).ports.p[p].txUntil = t := by
  have hport : ∀ g : PortS → PortS, Starting p d (onPort p g d) := fun g =>
    .quiet (onPort_framed (L := [.ports]) p g d (by decide) (.refl _ d)) (by decide) (by decide) (by decide) (by decide)
  have hcredit : ∀ e : Dev, Framed [.strm] e (onlyIf (q = 5) (setCredit p credit t) e) := fun e => by
    unfold onlyIf
    split
    · exact fun x => by cases x <;> first | exact .inl (by decide) | exact .inr rfl
    · exact .refl _ e
  have hstamp : ∀ e : Dev, Starting p e (match f.tsIdent with | some n => storeTxStamp p n e | none => e) ∧
      (match f.tsIdent with | some n => storeTxStamp p n e | none => e).ports = e.ports := fun e => by
    split
    · exact ⟨storeTxStamp_starting p _ e, (storeTxStamp_framed (L := [.out, .regs, .time, .recd, .ints, .counters]) p _ e (by decide) (.refl _ e)).same .ports (by decide)⟩
    · exact ⟨.refl p e, rfl⟩
  have huids : ∀ e : Dev, Starting p e (onFab (fun b => { b with sentUids := if f.host.isSome then f.uid :: b.sentUids else b.sentUids }) e) := fun e =>
    ⟨.of_eq rfl, rfl, rfl, .of_same rfl⟩
  have hset : ∀ e : Dev, (settle f 0 e).ports = e.ports := fun e =>
    (settle_framed (L := [.out, .queues, .host, .ints]) f 0 e (by decide) (.refl _ e)).same .ports (by decide)
  have hp := hport fun t' => { t' with txUntil := t, txCut := f.cut, txQueue := q.val, txCells := cells }
  have ht : (onPort p (fun t' => { t' with txUntil := t, txCut := f.cut, txQueue := q.val, txCells := cells }) d).ports.p[p].txUntil = t := by rw [onPort_self]
  unfold frameEnds
  dsimp only
  generalize onPort p (fun t' => { t' with txUntil := t, txCut := f.cut, txQueue := q.val, txCells := cells }) d = d4 at *
  have h5 : Starting p d4 (onlyIf (q = 5) (setCredit p credit t) d4) := .quiet (hcredit d4) (by decide) (by decide) (by decide) (by decide)
  have h5p : (onlyIf (q = 5) (setCredit p credit t) d4).ports = d4.ports := (hcredit d4).same .ports (by decide)
  generalize onlyIf (q = 5) (setCredit p credit t) d4 = d5 at *
  obtain ⟨h6, h6p⟩ := hstamp d5
  refine ⟨hp.trans (h5.trans (h6.trans ((huids _).trans (settle_starting f 0 _)))), ?_⟩
  rw [hset]
  exact (congrArg (fun t : PortsS => t.p[p].txUntil) (h6p.trans h5p)).trans ht

/-- How long a frame of a length occupies its port. -/
def busyNs (d : Dev) (p : Port) (len : Nat) : Nat := max (wireNs d p (len + 20)) (shapedNs d p (len + 20))

theorem startFrame_eq (p : Port) (q : Fin 8) (f : QFrame) (d : Dev) : startFrame p q f d =
    frameEnds p q f (d.now + busyNs d p ((correctedAt d p f).1.length + 4)) (((d.fab.cells.find? (fun c => c.1 = f.uid)).map (·.2)).getD [])
      (creditNow d p f.queuedAt + ((idleSlope d p : Int) - rateMbps d.ports.p[p].rate * 1000000) * busyNs d p ((correctedAt d p f).1.length + 4))
      (frameEvents p q f ((correctedAt d p f).1.length + 4) (windowNow d p).isSome (frameSent p q f d)) := by
  unfold startFrame frameEnds frameEvents frameSent busyNs
  rfl

/-- The head of a queue starts. -/
structure FrameStarted (p : Port) (q : Fin 8) (f : QFrame) (rest : List QFrame) (d e : Dev) : Prop where
  queue : queueOf e p q = rest
  others : ∀ (o : Port) (k : Fin 8), (o, k) ≠ (p, q) → queueOf e o k = queueOf d o k
  frame : Out.frame p q.val (correctedAt d p f).1 ∈ e.out
  now : e.now = d.now
  busy : d.now ≤ e.ports.p[p].txUntil
  counted : cfg e (0x2300 + p.val) 0x25 = min 0xFFFFFFFFFFFFFFFF (cfg d (0x2300 + p.val) 0x25 + 1)

theorem sentDefault : ∀ p : Port, odDefault (odKey (0x2300 + p.val) 0x25) = .num 0 := by decide +kernel

theorem frameSent_leaves {rest : List QFrame} (h : queueOf d p q = f :: rest) : (frameSent p q f d).fab.queues = (setQueue p q rest d).fab.queues ∧
    Out.frame p q.val (correctedAt d p f).1 ∈ (frameSent p q f d).out ∧ (frameSent p q f d).now = d.now ∧
    cfg (frameSent p q f d) (0x2300 + p.val) 0x25 = min 0xFFFFFFFFFFFFFFFF (cfg d (0x2300 + p.val) 0x25 + 1) := by
  unfold frameSent
  rw [h]
  have hm := emit_mem (.frame p q.val (correctedAt d p f).1) (setQueue p q rest d)
  have hd : (emit (.frame p q.val (correctedAt d p f).1) (setQueue p q rest d)).dict = d.dict := rfl
  have hn : (emit (.frame p q.val (correctedAt d p f).1) (setQueue p q rest d)).now = d.now := rfl
  have hq : (emit (.frame p q.val (correctedAt d p f).1) (setQueue p q rest d)).fab.queues = (setQueue p q rest d).fab.queues := rfl
  rw [List.tail_cons]
  generalize emit (.frame p q.val (correctedAt d p f).1) (setQueue p q rest d) = e at *
  have hcorr : ∀ b : Bool, Framed [.regs] e (onlyIf b (bump (0x2410 + p.val) 0x0E) e) ∧
      cfg (onlyIf b (bump (0x2410 + p.val) 0x0E) e) (0x2300 + p.val) 0x25 = cfg d (0x2300 + p.val) 0x25 := fun b => by
    have hc : cfg e (0x2300 + p.val) 0x25 = cfg d (0x2300 + p.val) 0x25 := cfg_of_dict hd _ _
    cases b
    · exact ⟨.refl _ e, hc⟩
    · exact ⟨bump_framed _ _ e (by decide) (.refl _ e), (cfg_bump_ne _ _ _ _ _ (by have := p.isLt; unfold odKey; omega)).trans hc⟩
  obtain ⟨hf, hc⟩ := hcorr (correctedAt d p f).2
  generalize onlyIf (correctedAt d p f).2 (bump (0x2410 + p.val) 0x0E) e = x at *
  have hx : Framed [.regs] x (bump64 (0x2300 + p.val) 0x25 1 x) := bump64_framed _ _ _ _ (by decide) (.refl _ x)
  refine ⟨(queues_of_framed (hf.trans hx) (by decide)).trans hq, (hf.trans hx).sent (by decide) _ hm,
    (congrArg Prod.fst ((hf.trans hx).same .clock (by decide))).trans hn, ?_⟩
  rw [← hc]
  refine cfg_setReg_self _ _ _ _ ?_
  rw [sentDefault]
  intro h0
  injection h0 with h0
  omega

theorem startFrame_starts {rest : List QFrame} (h : queueOf d p q = f :: rest) : FrameStarted p q f rest d (startFrame p q f d) := by
  obtain ⟨h1, h2, h3, h4⟩ := frameSent_leaves h
  rw [startFrame_eq]
  generalize frameSent p q f d = x at *
  generalize (correctedAt d p f).1.length + 4 = len
  generalize busyNs d p len = dur
  generalize ((d.fab.cells.find? (fun c => c.1 = f.uid)).map (·.2)).getD [] = cells
  generalize creditNow d p f.queuedAt + ((idleSlope d p : Int) - rateMbps d.ports.p[p].rate * 1000000) * dur = credit
  have hev := frameEvents_starting p q f len (windowNow d p).isSome x
  generalize frameEvents p q f len (windowNow d p).isSome x = y at *
  obtain ⟨hend, hbusy⟩ := frameEnds_starting p q f (d.now + dur) cells credit y
  have hall := hev.trans hend
  generalize frameEnds p q f (d.now + dur) cells credit y = z at *
  have hq : z.fab.queues = (setQueue p q rest d).fab.queues := hall.queues.trans h1
  refine ⟨?_, fun o k hne => ?_, hall.sent _ h2, hall.now.trans h3, by rw [hbusy]; exact Nat.le_add_right _ _, ?_⟩
  · exact (queueOf_of_queues hq p q).trans (queueOf_setQueue_self p q rest d)
  · exact (queueOf_of_queues hq o k).trans (queueOf_setQueue_ne hne rest d)
  · refine (hall.regs.cfg _ _ fun r hr => ?_).trans h4
    have hp := p.isLt
    rcases List.mem_cons.mp hr with rfl | hr
    · unfold odKey
      omega
    · have hev : ∀ r ∈ eventCounters, 0x2A00 ≤ r.1 ∧ r.2 < 256 := by decide
      have := hev r hr
      unfold odKey
      omega

/-! ### Launch times (R211) -/

/-- The device at a launch: its port is idle. -/
structure Idle (a b : Dev) : Prop where
  fab : b.fab = a.fab
  out : b.out = a.out
  dict : b.dict = a.dict

theorem awaitIdle_idle (p : Port) (d : Dev) : Idle d (awaitIdle p d) ∧ (awaitIdle p d).now = max d.now d.ports.p[p].txUntil :=
  ⟨⟨arrive_fab d.ports.p[p].txUntil d, arrive_out d.ports.p[p].txUntil d, arrive_dict d.ports.p[p].txUntil d⟩, arrive_now d.ports.p[p].txUntil d⟩

theorem arriveTrain_idle (n : Nat) (d : Dev) : Idle d (arriveTrain n d) := by
  have hadv : ∀ (m : Nat) (e : Dev), Idle e (advance m e) := fun m e => ⟨advance_fab _ _, advance_out _ _, advance_dict _ _⟩
  have hfuel : ∀ (k : Nat) (e : Dev), Idle e (arriveTrainFuel k n e) := fun k => by
    induction k with
    | zero => exact fun _ => ⟨rfl, rfl, rfl⟩
    | succ k ih =>
      intro e
      unfold arriveTrainFuel
      split
      · exact ⟨rfl, rfl, rfl⟩
      · obtain ⟨h1, h2, h3⟩ := ih (advance (n - trainTime e + tickNs - 1) e)
        obtain ⟨g1, g2, g3⟩ := hadv (n - trainTime e + tickNs - 1) e
        exact ⟨h1.trans g1, h2.trans g2, h3.trans g3⟩
  exact hfuel 8 d

theorem Idle.trans {a b c : Dev} (h1 : Idle a b) (h2 : Idle b c) : Idle a c := ⟨h2.fab.trans h1.fab, h2.out.trans h1.out, h2.dict.trans h1.dict⟩

theorem Idle.queueOf {a b : Dev} (h : Idle a b) (o : Port) (k : Fin 8) : queueOf b o k = queueOf a o k := queueOf_of_queues (by rw [h.fab]) o k

/-- The moment of a launch, at an idle port. -/
def launchMoment (p : Port) (l : BitVec 32) (d : Dev) : Dev :=
  awaitIdle p (arriveTrain (trainTime d + (launchGap d l).toNat - cfg d (0x2300 + p.val) 0x14 / 1000) d)

variable {rest : List QFrame} {l : BitVec 32}

theorem launchTime_exec (hq : queueOf s.dev p q = f :: rest) (hl : f.launch = some l) (h1 : 0 < launchGap s.dev l) (h2 : launchGap s.dev l ≤ 1000000000) :
    exec (.launchTime p q) s = s.does fun d => if mayStart (launchMoment p l d) p q f &&
        decide (-(cfg d 0x2401 5 : Int) ≤ launchGap (launchMoment p l d) l) then startFrame p q f (launchMoment p l d) else launchMoment p l d := by
  show execLaunchTime p q s = _
  unfold execLaunchTime launchMoment
  refine does_congr ?_
  have hq : queueOf s.found p q = f :: rest := hq
  have hc : ¬ (decide (launchGap s.found l ≤ 0) || decide (1000000000 < launchGap s.found l)) = true := by
    have e : launchGap s.found l = launchGap s.dev l := rfl
    rw [e]
    simp
    omega
  rw [hq, List.head?_cons]
  dsimp only
  rw [hl]
  exact if_neg hc

theorem launchTime_starts (hq : queueOf s.dev p q = f :: rest) (hl : f.launch = some l) (h1 : 0 < launchGap s.dev l) (h2 : launchGap s.dev l ≤ 1000000000)
    (hm : mayStart (launchMoment p l s.found) p q f = true) (hlim : -(cfg s.dev 0x2401 5 : Int) ≤ launchGap (launchMoment p l s.found) l) :
    Completes (.launchTime p q) s fun d => queueOf d p q = rest ∧ Out.frame p q.val (correctedAt (launchMoment p l s.found) p f).1 ∈ d.out ∧
      d.now = (launchMoment p l s.found).now := by
  refine completes_of_exec (launchTime_exec hq hl h1 h2) ?_
  rw [hm, decide_eq_true (show -(cfg s.found 0x2401 5 : Int) ≤ launchGap (launchMoment p l s.found) l from hlim), if_pos (by decide)]
  have hi : Idle s.found (launchMoment p l s.found) := (arriveTrain_idle _ s.found).trans (awaitIdle_idle p _).1
  have h := startFrame_starts (d := launchMoment p l s.found) ((hi.queueOf p q).trans hq)
  exact ⟨h.queue, h.frame, h.now⟩

theorem launchTime_waits (hq : queueOf s.dev p q = f :: rest) (hl : f.launch = some l) (h1 : 0 < launchGap s.dev l) (h2 : launchGap s.dev l ≤ 1000000000)
    (hm : mayStart (launchMoment p l s.found) p q f = false) : Completes (.launchTime p q) s fun d =>
      queueOf d p q = f :: rest ∧ d.out = [] ∧ d.now = (launchMoment p l s.found).now := by
  refine completes_of_exec (launchTime_exec hq hl h1 h2) ?_
  rw [hm, Bool.false_and, if_neg (by decide)]
  have hi : Idle s.found (launchMoment p l s.found) := (arriveTrain_idle _ s.found).trans (awaitIdle_idle p _).1
  exact ⟨(hi.queueOf p q).trans hq, hi.out, rfl⟩

theorem lateDefault : ∀ p : Port, odDefault (odKey (0x2410 + p.val) 0x0D) = .num 0 := by decide +kernel

/-- A frame that is discarded at its launch. -/
theorem discardLaunch_discards (h : queueOf d p q = f :: rest) : queueOf (discardLaunch p q f d) p q = rest ∧
    (∀ (o : Port) (k : Fin 8), (o, k) ≠ (p, q) → queueOf (discardLaunch p q f d) o k = queueOf d o k) ∧
    cfg (discardLaunch p q f d) (0x2410 + p.val) 0x0D = min 0xFFFFFFFF (cfg d (0x2410 + p.val) 0x0D + 1) := by
  unfold discardLaunch
  rw [h, List.tail_cons]
  have hs := settle_starting (p := p) f 1 (setQueue p q rest d)
  have hd : (settle f 1 (setQueue p q rest d)).dict.od = d.dict.od :=
    (settle_framed (L := [.out, .queues, .host, .ints]) f 1 (setQueue p q rest d) (by decide) (.refl _ _)).same .regs (by decide)
  generalize settle f 1 (setQueue p q rest d) = e at *
  refine ⟨?_, fun o k hne => ?_, ?_⟩
  · rw [bump_queueOf, queueOf_of_queues hs.queues, queueOf_setQueue_self]
  · rw [bump_queueOf, queueOf_of_queues hs.queues, queueOf_setQueue_ne hne]
  · have hdef : Value.num 0 = odDefault (odKey (0x2410 + p.val) 0x0D) := (lateDefault p).symm
    rw [cfg_bump_self _ _ _ hdef.symm]
    exact congrArg (fun n => min 0xFFFFFFFF (n + 1)) ((RegsFramed.of_same (L := []) hd).cfg _ _ (by simp))

theorem launchLateDiscard_discards (hq : queueOf s.dev p q = f :: rest) (hl : f.launch = some l) (h2 : launchGap s.dev l ≤ 1000000000) :
    Completes (.launchLateDiscard p q) s fun d => queueOf d p q = rest ∧
      cfg d (0x2410 + p.val) 0x0D = min 0xFFFFFFFF (cfg s.dev (0x2410 + p.val) 0x0D + 1) ∧
      ∀ (o : Port) (k : Fin 8), (o, k) ≠ (p, q) → queueOf d o k = queueOf s.dev o k := by
  have hrun : exec (.launchLateDiscard p q) s = s.does fun d =>
      discardLaunch p q f (arriveTrain (trainTime d + (launchGap d l + cfg d 0x2401 5).toNat) d) := by
    show execLaunchLateDiscard p q s = _
    unfold execLaunchLateDiscard
    refine does_congr ?_
    have hq : queueOf s.found p q = f :: rest := hq
    have hc : ¬ 1000000000 < launchGap s.found l := not_lt.2 h2
    rw [hq, List.head?_cons]
    dsimp only
    rw [hl]
    exact if_neg hc
  refine completes_of_exec hrun ?_
  generalize trainTime s.found + (launchGap s.found l + cfg s.found 0x2401 5).toNat = n
  have hi := arriveTrain_idle n s.found
  obtain ⟨h1, h3, h4⟩ := discardLaunch_discards (d := arriveTrain n s.found) ((hi.queueOf p q).trans hq)
  refine ⟨h1, h4.trans ?_, fun o k hne => (h3 o k hne).trans (hi.queueOf o k)⟩
  exact congrArg (fun n => min 0xFFFFFFFF (n + 1)) (cfg_of_dict hi.dict _ _)

end starts

/-- Settles O35: one lemma per message, edge, read, launch and pulse. -/
theorem timestampsPulsesAndDelaysAreKeptAsGiven : Obligations.TimestampsPulsesAndDelaysAreKeptAsGiven := by
  intro s m only
  refine ⟨fun p hp => ⟨fun seq => pdelayReq_answers hp seq, fun seq trip turn ratio ho => pdelayResp_measures hp trip turn ratio ho,
      fun t ht => pdelayInterval_asks hp ht⟩,
    fun inp rising => ⟨captureEdge_unselected, captureEdge_early, captureEdge_records, captureEdge_overflows⟩,
    fun src hs => ⟨captureRecordRead_takes hs, fun p hm => transmitTimestampRead_takes hs hm⟩,
    fun p q f rest l hq hl => ⟨fun h1 h2 => ⟨launchTime_starts hq hl h1 h2, launchTime_waits hq hl h1 h2⟩, launchLateDiscard_discards hq hl⟩,
    ppsOutPulse_comes, fun t ht => ppsOutPulseEnd_falls ht, fun t ht => tevtOutPulse_rises ht, fun t ht => tevtOutPulseEnd_falls ht⟩

end Sys2Proof.Machine
end

section
/-! PROOF. A frame is received: what counts it, and the queue that its decision gives (R119, R123, R131, R139, R141, R175 to R178). -/

namespace Sys2Proof.Machine

section received

variable {s : State} {a b d : Dev} {p o : Port}

/-! ### What counting and learning leave of a decision -/

/-- The counters that move before a received frame is decided on. -/
def arrivalCounters (p : Port) : List (Nat × Nat) := [(0x2300 + p.val, 0x23), (0x2300 + p.val, 0x24), (0x2207, 0x0F)]

/-- `b` decides on frames and takes them as `a` does, but for its learned entries. -/
structure DecidesAs (p : Port) (a b : Dev) : Prop where
  fab : ∃ l u, b.fab = { a.fab with learned := l, nextUid := u }
  regs : RegsFramed (arrivalCounters p) a b
  framed : Framed [.regs, .fab, .queues, .counters] a b

theorem DecidesAs.refl (p : Port) (d : Dev) : DecidesAs p d d := ⟨⟨_, _, rfl⟩, .refl _ d, .refl _ d⟩

theorem DecidesAs.trans {c : Dev} (h1 : DecidesAs p a b) (h2 : DecidesAs p b c) : DecidesAs p a c := by
  obtain ⟨l1, u1, e1⟩ := h1.fab
  obtain ⟨l2, u2, e2⟩ := h2.fab
  exact ⟨⟨l2, u2, by rw [e2, e1]⟩, h1.regs.trans h2.regs, h1.framed.trans h2.framed⟩

/-- A change of counters. -/
theorem DecidesAs.of_framed {A : List Part} (h : Framed A a b) (hr : RegsFramed (arrivalCounters p) a b) (hfab : b.fab = a.fab)
    (hA : ∀ x ∈ A, x ∈ ([.regs, .fab, .queues, .counters] : List Part)) : DecidesAs p a b := ⟨⟨_, _, hfab⟩, hr, h.mono hA⟩

theorem countGood_fab (p : Port) (len : Nat) (d : Dev) : (countGood p len d).fab = d.fab := by simp [countGood]

theorem countGood_decides (p : Port) (len : Nat) (d : Dev) : DecidesAs p d (countGood p len d) := by
  refine .of_framed (A := [.regs, .counters]) (countGood_framed p len d (fun _ h => h) (.refl _ d)) ?_ (countGood_fab p len d) (by decide)
  exact (countGood_goodCounters p len d).mono fun r hr => by
    unfold arrivalCounters
    simp only [List.mem_cons, List.not_mem_nil, or_false] at hr ⊢
    tauto

theorem countDecisions_decides (d : Dev) : DecidesAs p d (countDecisions d) := by
  have h : Framed [.counters] d (countDecisions d) := countDecisions_framed d (fun _ h => h) (.refl _ d)
  refine .of_framed h (.of_same (h.same .regs (by decide))) ?_ (by decide)
  have hev : ∀ (c i q k : Nat) (e : Dev), (countEv c i q k e).fab = e.fab := fun _ _ _ _ _ => rfl
  unfold countDecisions onlyIf
  split <;> split <;> rfl

theorem learn_decides (q : Port) (mac vlan : Nat) (d : Dev) : DecidesAs p d (learn q mac vlan d) := by
  have hfab : ∀ l, DecidesAs p d (onFab (fun f => { f with learned := l }) d) := fun l =>
    ⟨⟨l, _, rfl⟩, .of_same rfl, fun x => by cases x <;> first | exact .inl (by decide) | exact .inr rfl⟩
  have hbump : DecidesAs p d (bump 0x2207 0x0F d) :=
    .of_framed (A := [.regs]) (bump_framed _ _ d (fun _ h => h) (.refl _ d)) ((RegsFramed.refl _ d).bump _ _ (by unfold arrivalCounters; simp)) (by simp) (by decide)
  unfold learn
  split
  · exact .refl p d
  · split
    · exact .refl p d
    · split
      · exact hfab _
      · dsimp only
        split
        · exact hfab _
        · exact hbump

/-- The next frame has the next number. -/
def numbered (d : Dev) : Dev := onFab (fun b => { b with nextUid := b.nextUid + 1 }) d

theorem numbered_decides (d : Dev) : DecidesAs p d (numbered d) :=
  ⟨⟨_, _, rfl⟩, .of_same rfl, fun x => by cases x <;> first | exact .inl (by decide) | exact .inr rfl⟩

namespace DecidesAs

variable (h : DecidesAs p a b)
include h

/-- A register that the arrival does not count in. -/
theorem cfg {idx sub : Nat} (hs : sub < 0x100) (h1 : sub ≠ 0x23 ∧ sub ≠ 0x24 ∨ idx < 0x2300 ∨ 0x2314 ≤ idx) (h2 : ¬ (idx = 0x2207 ∧ sub = 0x0F)) :
    Machine.cfg b idx sub = Machine.cfg a idx sub := by
  refine h.regs.cfg _ _ fun r hr => ?_
  have hp := p.isLt
  unfold arrivalCounters at hr
  simp only [List.mem_cons, List.not_mem_nil, or_false] at hr
  unfold odKey
  rcases hr with rfl | rfl | rfl <;> omega

theorem portUp (q : Port) : Machine.portUp b q = Machine.portUp a q := by
  unfold Machine.portUp
  rw [h.framed.same .ports (by decide)]

theorem queueOf (q : Port) (k : Fin 8) : Machine.queueOf b q k = Machine.queueOf a q k := by
  obtain ⟨l, u, e⟩ := h.fab
  unfold Machine.queueOf
  rw [e]

theorem queued : Machine.queued b = Machine.queued a := by
  unfold Machine.queued
  simp only [h.queueOf]

theorem queueCells (q : Port) (k : Fin 8) : Machine.queueCells b q k = Machine.queueCells a q k := by
  unfold Machine.queueCells
  rw [h.queueOf]

theorem roomAt (q : Port) (k : Fin 8) (n : Nat) : Machine.roomAt b q k n = Machine.roomAt a q k n := by
  obtain ⟨l, u, e⟩ := h.fab
  have h4 : ∀ i < 0x100, Machine.cfg b 0x2204 i = Machine.cfg a 0x2204 i := fun i hi => h.cfg hi (.inr (.inl (by omega))) (by omega)
  have hres : reserveTotal b = reserveTotal a := by
    unfold reserveTotal
    rw [h4 1 (by decide), h4 2 (by decide), h4 3 (by decide), h4 4 (by decide), h4 5 (by decide), h4 6 (by decide)]
  have hpool : poolUsed b = poolUsed a := by
    unfold poolUsed
    rw [h.queued, e]
  have hfree : poolFree b = poolFree a := by
    unfold poolFree
    rw [hres, hpool, e]
  have hreserve : reserveOf b q k.val = reserveOf a q k.val := by
    unfold reserveOf
    exact h4 _ (by split <;> omega)
  have hshared : portShared b q = portShared a q := by
    unfold portShared
    simp only [h.queueCells]
  unfold Machine.roomAt
  rw [h.queueCells, hreserve, hshared, hfree, h4 (if isBackbone q then 7 else 8) (by split <;> decide)]

theorem spillsAt (q : Port) (k : Fin 8) : Machine.spillsAt b q k = Machine.spillsAt a q k := by
  obtain ⟨l, u, e⟩ := h.fab
  have h5 : ∀ i < 0x100, Machine.cfg b 0x2205 i = Machine.cfg a 0x2205 i := fun i hi => h.cfg hi (.inr (.inl (by omega))) (by omega)
  unfold Machine.spillsAt spillReady cfgB
  rw [h5 1 (by decide), h5 2 (by decide), h.queueCells, e, h.framed.same .chip (by decide)]

theorem scheduleActive : Machine.scheduleActive b = Machine.scheduleActive a := scheduleActive_congr (h.framed.same .sched (by decide))

theorem matchStream (mac vlan : Nat) : Machine.matchStream b mac vlan = Machine.matchStream a mac vlan := by
  unfold Machine.matchStream txEntries resEntries resBank
  rw [h.scheduleActive, h.framed.same .sched (by decide), h.framed.same .strm (by decide)]

theorem rxEntry (q : Port) (mac vlan : Nat) : Machine.rxEntry b q mac vlan = Machine.rxEntry a q mac vlan := by
  unfold Machine.rxEntry
  rw [h.scheduleActive, h.framed.same .sched (by decide)]

theorem mayPass (bs : List Byte) (q : Port) : Machine.mayPass b bs q = Machine.mayPass a bs q := by
  unfold Machine.mayPass protocolOnly crossedPort
  rw [h.framed.same .inaug (by decide)]

theorem findUnicast (mac vlan : Nat) : Machine.findUnicast b mac vlan = Machine.findUnicast a mac vlan := by
  unfold Machine.findUnicast rowBytes tableBytes
  rw [h.framed.same .tables (by decide)]

theorem classify (q : Port) (bs : List Byte) : Machine.classify b q bs = Machine.classify a q bs := by
  have hq := q.isLt
  unfold Machine.classify
  rw [h.cfg (idx := 0x2300 + q.val) (sub := 9) (by decide) (.inl (by decide)) (by omega),
    h.cfg (idx := 0x2300 + q.val) (sub := 0x0A) (by decide) (.inl (by decide)) (by omega)]

end DecidesAs

/-! ### Errored frames (R121, R176, R177) -/

/-- What an errored frame leaves: the queues stand, and of the registers only counters of loss move. -/
structure Errored (p : Port) (a b : Dev) : Prop where
  queues : b.fab.queues = a.fab.queues
  regs : RegsFramed [(0x2207, 0x0C), (0x2300 + p.val, 0x2B), (0x2300 + p.val, 0x2C)] a b

theorem Errored.refl (p : Port) (d : Dev) : Errored p d d := ⟨rfl, .refl _ d⟩

theorem Errored.trans {c : Dev} (h1 : Errored p a b) (h2 : Errored p b c) : Errored p a c := ⟨h2.queues.trans h1.queues, h1.regs.trans h2.regs⟩

theorem Errored.ite {x : Prop} [Decidable x] {c : Dev} (h1 : Errored p a b) (h2 : Errored p a c) : Errored p a (if x then b else c) := by
  split
  exacts [h1, h2]

theorem Errored.bump {idx sub : Nat} (hr : (idx, sub) ∈ [(0x2207, 0x0C), (0x2300 + p.val, 0x2B), (0x2300 + p.val, 0x2C)]) (d : Dev) :
    Errored p d (bump idx sub d) :=
  ⟨queues_of_framed (bump_framed (L := [.regs]) _ _ d (by decide) (.refl _ d)) (by decide), (RegsFramed.refl _ d).bump _ _ hr⟩

theorem deliverHost_fab (f : QFrame) (d : Dev) : (deliverHost f d).fab = d.fab := by
  have hint : ∀ (r : Fin 10) (e : Dev), (ringInt r e).fab = e.fab := fun r e => by
    unfold ringInt
    dsimp only
    have hset : (setInt (16 + r.val) (onRing r (fun g => { g with lastInt := some e.now, deferred := false }) e)).fab = e.fab := by
      rw [setInt_fab]
      rfl
    split
    · split
      · rfl
      · exact hset
    · exact hset
  unfold deliverHost
  dsimp only
  split
  · rw [hint]
    rfl
  · rfl

theorem drainHost_queues (d : Dev) : (drainHost d).fab.queues = d.fab.queues := by
  have hstep : ∀ (l : List QFrame) (e : Dev), (l.foldl (fun acc f =>
      let waits := acc.fab.hostQueue.any (fun g => rxRing g = rxRing f)
      if ringReady acc.host.rings[rxRing f] && !waits then deliverHost f acc
      else { acc with fab := { acc.fab with hostQueue := acc.fab.hostQueue ++ [f] } }) e).fab.queues = e.fab.queues := fun l => by
    induction l with
    | nil => exact fun _ => rfl
    | cons f l ih =>
      intro e
      rw [List.foldl_cons, ih]
      dsimp only
      split
      · rw [deliverHost_fab]
      · rfl
  unfold drainHost
  split
  · exact (hstep _ _).trans rfl
  · rfl

theorem admitHost_errored (f : QFrame) (need : Nat) (d : Dev) : Errored p d (admitHost f need d) := by
  have h : Framed [.out, .fab, .queues, .host, .ints, .counters] d (admitHost f need d) := admitHost_framed f need d (fun _ h => h) (.refl _ d)
  refine ⟨?_, .of_same (h.same .regs (by decide))⟩
  have hsweep : ∀ e : Dev, (sweepCells e).fab.queues = e.fab.queues := fun e => rfl
  unfold admitHost
  split
  · rfl
  · split
    · rfl
    · split
      · rw [hsweep, drainHost_queues]
        exact allocCells_queues _ _ d
      · rfl

/-- The frames that an errored frame leaves unfinished, or none. -/
theorem takeErrored_errored (p : Port) (f : RxFrame) (counter flag : Nat) (d : Dev) : Errored p (bump (0x2300 + p.val) counter d) (takeErrored p f counter flag d) := by
  have hfresh : ∀ (u : FabricS → FabricS) (_ : ∀ x, (u x).queues = x.queues) (e : Dev), Errored p e (onFab u (draw e)) := fun u hu e => ⟨hu e.fab, .of_same rfl⟩
  have hthru : ∀ (l : List Port) (e : Dev), Errored p e (if l.isEmpty then e else bump 0x2207 0x0C (emits (l.map Out.badFcs) e)) := fun l e =>
    .ite (.refl p e) (Errored.trans (b := emits (l.map Out.badFcs) e) ⟨rfl, .of_same rfl⟩ (.bump (.head _) _))
  have hhost : ∀ (need : Nat) (q : QFrame) (x : Bool) (e : Dev), Errored p e (admitHost q need (bump (0x2300 + p.val) (if x then 0x2B else 0x2C)
      (onFab (fun b => { b with nextUid := b.nextUid + 1 }) (draw e)))) := fun need q x e => by
    refine (hfresh (fun b => { b with nextUid := b.nextUid + 1 }) (fun _ => rfl) e).trans (Errored.trans ?_ (admitHost_errored _ _ _))
    cases x
    · exact .bump (p := p) (List.mem_cons_of_mem _ (List.mem_cons_of_mem _ (.head _))) _
    · exact .bump (p := p) (List.mem_cons_of_mem _ (.head _)) _
  unfold takeErrored
  dsimp only
  generalize bump (0x2300 + p.val) counter d = e
  exact (hthru _ e).trans (.ite (.refl p _) (hhost _ _ _ _))

theorem errorClass_counter {f : RxFrame} {counter flag : Nat} (h : errorClass d p f = some (counter, flag)) : 0x26 ≤ counter ∧ counter ≤ 0x2A := by
  unfold errorClass at h
  dsimp only at h
  split at h
  · cases h
    decide
  · split at h
    · cases h
      decide
    · split at h
      · cases h
        decide
      · split at h
        · cases h
          decide
        · split at h
          · cases h
            decide
          · cases h

theorem errorDefault : ∀ p : Port, ∀ c : Fin 5, odDefault (odKey (0x2300 + p.val) (0x26 + c.val)) = .num 0 := by decide +kernel

theorem frameReceive_exec (f : RxFrame) (e : EngineFault) (hup : portUp s.dev p = true) : exec (.frameReceive p f e) s = s.does fun d =>
    match errorClass d p f with
    | some (c, flag) => takeErrored p f c flag d
    | none => match consumed p f.bytes with
      | some act => act (countGood p (f.bytes.length + 4) d)
      | none => takeGood p f.bytes e (countGood p (f.bytes.length + 4) d) := by
  show execFrameReceive p f e s = _
  unfold execFrameReceive
  refine does_congr ?_
  rw [show portUp s.found p = true from hup]
  rfl

theorem frameReceive_down (f : RxFrame) (e : EngineFault) (hup : portUp s.dev p = false) : Completes (.frameReceive p f e) s (Framed [] s.found) := by
  have hrun : exec (.frameReceive p f e) s = s.does fun d => d := by
    show execFrameReceive p f e s = _
    unfold execFrameReceive
    refine does_congr ?_
    rw [show portUp s.found p = false from hup]
    rfl
  exact completes_of_exec hrun (.refl _ _)

theorem frameReceive_errored (f : RxFrame) (e : EngineFault) (hup : portUp s.dev p = true) {counter flag : Nat}
    (h : errorClass s.dev p f = some (counter, flag)) : Completes (.frameReceive p f e) s fun d =>
      cfg d (0x2300 + p.val) counter = min 0xFFFFFFFF (cfg s.dev (0x2300 + p.val) counter + 1) ∧
        cfg d (0x2300 + p.val) 0x23 = cfg s.dev (0x2300 + p.val) 0x23 ∧
        cfg d (0x2300 + p.val) 0x24 = cfg s.dev (0x2300 + p.val) 0x24 ∧ d.fab.queues = s.dev.fab.queues := by
  refine completes_of_exec (frameReceive_exec f e hup) ?_
  rw [show errorClass s.found p f = some (counter, flag) from h]
  obtain ⟨hlo, hhi⟩ := errorClass_counter h
  have hp := p.isLt
  obtain ⟨hq, hr⟩ := takeErrored_errored p f counter flag s.found
  have hcfg : ∀ i, i = 0x23 ∨ i = 0x24 ∨ 0x26 ≤ i ∧ i ≤ 0x2A → cfg (takeErrored p f counter flag s.found) (0x2300 + p.val) i =
      cfg (bump (0x2300 + p.val) counter s.found) (0x2300 + p.val) i := fun i hi => hr.cfg _ _ fun r hr => by
    simp only [List.mem_cons, List.not_mem_nil, or_false] at hr
    unfold odKey
    rcases hr with rfl | rfl | rfl <;> omega
  have hdef : odDefault (odKey (0x2300 + p.val) counter) = .num 0 := by
    have h := errorDefault p ⟨counter - 0x26, by omega⟩
    rwa [show 0x26 + (counter - 0x26) = counter by omega] at h
  refine ⟨?_, ?_, ?_, ?_⟩
  · rw [hcfg counter (.inr (.inr ⟨hlo, hhi⟩)), cfg_bump_self _ _ _ hdef]
    rfl
  · exact (hcfg 0x23 (.inl rfl)).trans (cfg_bump_ne _ _ _ _ _ (by unfold odKey; omega))
  · exact (hcfg 0x24 (.inr (.inl rfl))).trans (cfg_bump_ne _ _ _ _ _ (by unfold odKey; omega))
  · rw [hq, bump_fab]
    rfl

/-! ### Good frames (R119, R123, R131, R139) -/

section good

variable {f : RxFrame} {e : EngineFault}

/-- A good frame that is not consumed is counted, and goes to the engines. -/
theorem frameReceive_good (hup : portUp s.dev p = true) (hc : errorClass s.dev p f = none) (hn : (consumed p f.bytes).isNone = true) :
    exec (.frameReceive p f e) s = s.does fun d => takeGood p f.bytes e (countGood p (f.bytes.length + 4) d) := by
  refine (frameReceive_exec f e hup).trans (does_congr ?_)
  rw [show errorClass s.found p f = none from hc]
  cases h : consumed p f.bytes with
  | none => rfl
  | some act =>
    rw [h] at hn
    cases hn

theorem countDecisions_fab (d : Dev) : (countDecisions d).fab = d.fab := by
  unfold countDecisions onlyIf
  split <;> split <;> rfl

theorem engineVerdict_both (h0 : d.fab.engine0 = .inService) (h1 : d.fab.engine1 = .inService) : engineVerdict (countDecisions d) e = (e.wrong0 || e.wrong1, false) := by
  unfold engineVerdict
  rw [countDecisions_fab, h0, h1]

/-- What a port takes from a frame of its own, before it is dispatched. -/
def arrivalOf (p : Port) (bs : List Byte) (d : Dev) : Arrival :=
  ⟨some p, (classify d p bs).1, (classify d p bs).2, rxStamp d p, none, some (cellsFor (cfg d (0x2300 + p.val) 4)),
    some (rateMbps d.ports.p[p].rate), none, none, none⟩

/-- The state in which a frame is dispatched: the decisions are counted, and its sender is learned. -/
def learnedFrom (p : Port) (bs : List Byte) (d : Dev) : Dev := learn p (frameSrc bs) (classify d p bs).1 (countDecisions d)

theorem learnedFrom_decides (bs : List Byte) : DecidesAs p d (learnedFrom p bs d) := (countDecisions_decides d).trans (learn_decides p _ _ _)

theorem takeGood_gate {bs : List Byte} (hfw : d.fab.forwarding = true) (hpass : mayPass d bs p = true) :
    (!d.fab.forwarding || !(mayPass d bs p || passesThrough d (some p) p)) = false := by
  rw [hfw, hpass]
  rfl

variable (hfw : d.fab.forwarding = true) (hpass : mayPass d f.bytes p = true) (h0 : d.fab.engine0 = .inService) (h1 : d.fab.engine1 = .inService)
include hfw hpass h0 h1

theorem takeGood_mismatch (h : (e.wrong0 || e.wrong1) = true) : takeGood p f.bytes e d = mismatch e (countDecisions d) := by
  unfold takeGood
  dsimp only
  rw [takeGood_gate hfw hpass, engineVerdict_both h0 h1, if_neg (by decide), h]
  rfl

theorem takeGood_dispatch (h : (e.wrong0 || e.wrong1) = false) (hrx : rxEntry d p (frameDest f.bytes) (classify d p f.bytes).1 = none) :
    takeGood p f.bytes e d = dispatchFrame (arrivalOf p f.bytes d) (matchStream d (frameDest f.bytes) (classify d p f.bytes).1)
      (decideFrame (learnedFrom p f.bytes d) (some p) (classify d p f.bytes).1 f.bytes) (learnedFrom p f.bytes d) := by
  have hrx1 : rxEntry (learnedFrom p f.bytes d) p (frameDest f.bytes) (classify d p f.bytes).1 = none :=
    ((learnedFrom_decides f.bytes).rxEntry p _ _).trans hrx
  have hm := (learnedFrom_decides (p := p) (d := d) f.bytes).matchStream (frameDest f.bytes) (classify d p f.bytes).1
  rw [← hm]
  unfold takeGood
  dsimp only
  rw [takeGood_gate hfw hpass, engineVerdict_both h0 h1, if_neg (by decide), h]
  dsimp only
  unfold learnedFrom at hrx1 ⊢
  rw [if_neg Bool.false_ne_true, if_neg Bool.false_ne_true, hrx1]
  rfl

end good

/-- The counters of a port stand. -/
def PortCounters (p : Port) (a b : Dev) : Prop := ∀ i < 0x100, cfg b (0x2300 + p.val) i = cfg a (0x2300 + p.val) i

theorem FrameCounted.after {n : Nat} (h : FrameCounted a b p n) (hp : PortCounters p b d) : FrameCounted a d p n :=
  ⟨(hp 0x23 (by decide)).trans h.1, (hp 0x24 (by decide)).trans h.2⟩

/-! ### Engines that differ (R119) -/

/-- What the decision of engines that differ leaves, but for the counters of 0x2207. -/
structure Disagreed (a b : Dev) : Prop where
  queues : b.fab.queues = a.fab.queues
  hostQueue : b.fab.hostQueue = a.fab.hostQueue
  learned : b.fab.learned = a.fab.learned
  regs : RegsFramed ([(0x2207, 2), (0x2207, 3), (0x2207, 4), (0x2207, 5)] ++ eventCounters) a b

theorem Disagreed.refl (d : Dev) : Disagreed d d := ⟨rfl, rfl, rfl, .refl _ d⟩

theorem Disagreed.trans {c : Dev} (h1 : Disagreed a b) (h2 : Disagreed b c) : Disagreed a c :=
  ⟨h2.queues.trans h1.queues, h2.hostQueue.trans h1.hostQueue, h2.learned.trans h1.learned, h1.regs.trans h2.regs⟩

theorem Disagreed.ite {x : Prop} [Decidable x] {c : Dev} (h1 : Disagreed a b) (h2 : Disagreed a c) : Disagreed a (if x then b else c) := by
  split
  exacts [h1, h2]

theorem Disagreed.bump {sub : Nat} (hs : 2 ≤ sub ∧ sub ≤ 5) (d : Dev) : Disagreed d (bump 0x2207 sub d) := by
  refine ⟨by rw [bump_fab], by rw [bump_fab], by rw [bump_fab], (RegsFramed.refl _ d).bump _ _ (List.mem_append_left _ ?_)⟩
  obtain ⟨h1, h2⟩ := hs
  interval_cases sub <;> decide

theorem Disagreed.raise (ev : Ev) (n : Nat) (d : Dev) : Disagreed d (Machine.raise ev n d) :=
  ⟨by rw [raise_fab], by rw [raise_fab], by rw [raise_fab], (raise_regs ev n d).mono fun _ h => List.mem_append_right _ h⟩

theorem blameEngine_disagreed (one : Bool) (d : Dev) : Disagreed d (blameEngine one d) := by
  have hfab : ∀ (u : FabricS → FabricS) (x : Dev), (u x.fab).queues = x.fab.queues → (u x.fab).hostQueue = x.fab.hostQueue →
      (u x.fab).learned = x.fab.learned → Disagreed x (onFab u x) := fun u x h1 h2 h3 => ⟨h1, h2, h3, .of_same rfl⟩
  have hout : ∀ x : Dev, Disagreed x (takeEngineOut one x) := fun x =>
    (hfab (setEngine one .selfTest) x (by cases one <;> rfl) (by cases one <;> rfl) (by cases one <;> rfl)).trans
      ((Disagreed.bump (sub := 5) (by decide) _).trans (.raise _ _ _))
  unfold blameEngine
  dsimp only
  refine (Disagreed.bump (sub := if one = true then 3 else 2) (by split <;> decide) d).trans ?_
  generalize bump 0x2207 (if one = true then 3 else 2) d = x
  generalize (List.filter (fun t => decide (x.now < t + cfg x 0x2201 2 * msNs)) (if one = true then x.fab.blame1 else x.fab.blame0) ++ [x.now]) = keep
  refine (hfab (fun f => if one then { f with blame1 := keep } else { f with blame0 := keep }) x (by cases one <;> rfl) (by cases one <;> rfl)
    (by cases one <;> rfl)).trans ?_
  exact .ite (.ite (hout _) (.raise _ _ _)) (.refl _)

theorem mismatch_disagreed (e : EngineFault) (d : Dev) : Disagreed (bump 0x2207 1 d) (mismatch e d) := by
  unfold mismatch
  dsimp only
  generalize bump 0x2207 1 d = x
  refine .ite (.bump (by decide) x) ?_
  have hfab : Disagreed x (onFab (fun f => { f with walkerBusyUntil := x.now + usNs }) x) := ⟨rfl, rfl, rfl, .of_same rfl⟩
  exact hfab.trans (.ite (.bump (by decide) _) (blameEngine_disagreed _ _))

/-- R119: the engines differ, the frame is discarded and counted in 0x2207:01. -/
theorem frameReceive_mismatch {f : RxFrame} {e : EngineFault} (hup : portUp s.dev p = true) (hc : errorClass s.dev p f = none)
    (hn : (consumed p f.bytes).isNone = true) (hfw : s.dev.fab.forwarding = true) (hpass : mayPass s.dev f.bytes p = true)
    (h0 : s.dev.fab.engine0 = .inService) (h1 : s.dev.fab.engine1 = .inService) (h : e.wrong0 = true ∨ e.wrong1 = true) :
    Completes (.frameReceive p f e) s fun d => FrameCounted s.dev d p (f.bytes.length + 4) ∧
      cfg d 0x2207 1 = min 0xFFFFFFFF (cfg s.dev 0x2207 1 + 1) ∧ d.fab.queues = s.dev.fab.queues ∧
      d.fab.hostQueue = s.dev.fab.hostQueue ∧ d.fab.learned = s.dev.fab.learned := by
  refine completes_of_exec (frameReceive_good hup hc hn) ?_
  have hg := countGood_decides p (f.bytes.length + 4) s.found
  have hcount : FrameCounted s.dev (countGood p (f.bytes.length + 4) s.found) p (f.bytes.length + 4) := countGood_counted p (by omega) s.found
  have hfab : (countGood p (f.bytes.length + 4) s.found).fab = s.dev.fab := countGood_fab p _ s.found
  have h2207 : cfg (countGood p (f.bytes.length + 4) s.found) 0x2207 1 = cfg s.dev 0x2207 1 :=
    hg.cfg (by decide) (.inr (.inl (by decide))) (by decide)
  have hmay := hg.mayPass f.bytes p
  generalize countGood p (f.bytes.length + 4) s.found = x at *
  rw [takeGood_mismatch (by rw [hfab]; exact hfw) (hmay.trans hpass) (by rw [hfab]; exact h0) (by rw [hfab]; exact h1) (by simpa using h)]
  have hd := mismatch_disagreed e (countDecisions x)
  have hregs : ∀ i j, cfg (countDecisions x) i j = cfg x i j := fun i j => 
    (RegsFramed.of_same (L := []) ((countDecisions_framed (L := [.counters]) x (by decide) (.refl _ x)).same .regs (by decide))).cfg i j (by simp)
  have hp := p.isLt
  refine ⟨hcount.after fun i hi => ?_, ?_, ?_, ?_, ?_⟩
  · rw [hd.regs.cfg_below (by unfold odKey; omega) (by unfold odKey; simp; omega), cfg_bump_ne _ _ _ _ _ (by unfold odKey; omega), hregs]
  · rw [hd.regs.cfg_below (by decide) (by decide), cfg_bump_self _ _ _ (by decide +kernel), hregs, h2207]
  · rw [hd.queues, bump_fab, countDecisions_fab, hfab]
  · rw [hd.hostQueue, bump_fab, countDecisions_fab, hfab]
  · rw [hd.learned, bump_fab, countDecisions_fab, hfab]

/-! ### The queue that a static record gives (R123, R131) -/

section record

variable {bs : List Byte} {vlan row : Nat} {r : List Byte}

/-- The decision for one port and nothing else. -/
def toPort (o : Port) (bs : List Byte) : Decision := ⟨[o], false, none, bs, false, false, false, false⟩

/-- A frame of a consist port that a static record of one consist port takes. -/
theorem decideFrame_record (hp : isBackbone p = false) (hmac : isGroup (frameDest bs) = false)
    (hu : findUnicast d (frameDest bs) vlan = some (row, r)) (h8 : leNat (slice r 8 1) = 3) (h9 : leNat (slice r 9 1) = o.val)
    (h10 : leNat (slice r 10 1) = 0xFF) (h4 : isIpv4 bs = false) :
    decideFrame d (some p) vlan bs = toPort o bs := by
  have hbank : chooseBank d false bs = some false := by
    have htopo : trdpTopo bs = 0 := by
      unfold trdpTopo udpPort
      rw [h4]
      rfl
    unfold chooseBank
    dsimp only
    rw [htopo]
    rfl
  have hports : ∀ o : Port, allPorts.filter (fun p => p.val = o.val) = [o] := by decide
  have h20 : o.val ≠ 20 := by omega
  have hlook : lookupDest d (some p) (frameDest bs) vlan bs = toPort o bs := by
    unfold lookupDest
    dsimp only
    rw [hmac, if_neg Bool.false_ne_true, hu]
    dsimp only
    rw [h8, h9, h10, if_neg (by decide), hports]
    simp [h20, bitOf, overrideOf, Decision.nowhere, toPort]
  unfold decideFrame
  dsimp only
  rw [show (some p).filter isBackbone = none by simp [Option.filter, hp]]
  dsimp only
  unfold decideFrame.viaBank
  dsimp only
  rw [hbank, h4, if_neg Bool.false_ne_true]
  dsimp only
  rw [if_pos rfl, hlook]
  rfl

/-- The copy that a consist port's queue takes of a frame. -/
structure CopyOf (a : Arrival) (m : StreamMatch) (bs : List Byte) (f : QFrame) : Prop where
  bytes : f.bytes = if m.strip then stripRtag bs else bs
  ingress : f.ingress = a.ingress
  vlan : f.vlan = a.vlan
  pcp : f.pcp = a.pcp
  spilled : f.spilled = false

theorem settledWhere {c : Prop} [Decidable c] (g : QFrame) (st : Nat) (x : Dev) : (if c then x else settle g st x) = x ∨
    ∃ g' st', (if c then x else settle g st x) = settle g' st' x := by
  split
  · exact .inl rfl
  · exact .inr ⟨g, st, rfl⟩

/-- The frame stands in one queue more, but where it found no room, and then its marks go. -/
theorem dispatchFrame_record {a : Arrival} {m : StreamMatch} (htx : m.tx = []) (hres : m.res = []) (hbest : a.best = none) (hin : a.ingress = some p)
    (hp : isBackbone p = false) (ho : isBackbone o = false) (hne : o ≠ p) (hnc : networkControl bs = false) {n : Nat} (hneed : a.need = some n) :
    ∃ f : QFrame, CopyOf a m bs f ∧ ∃ e : Dev,
      e = admitPort f n a.rate o (Fin.ofNat 8 (cfg d 0x2203 (1 + a.pcp % 8))) (numbered d) ∧
      (dispatchFrame a m (toPort o bs) d = e ∨
        ∃ g st, dispatchFrame a m (toPort o bs) d = settle g st e) := by
  have hzero : atEpochZero d a.ingress (toPort o bs) = toPort o bs := by
    unfold atEpochZero
    rw [hin]
    simp [hp]
  have hpass : ∀ x : Dev, mayPass x bs o = true := fun x => by
    unfold mayPass protocolOnly
    simp [ho]
  have hports : (withStream m (toPort o bs)).filter
      (fun p => some p ≠ a.ingress && (mayPass d bs p || passesThrough d a.ingress p)) = [o] := by
    unfold withStream
    rw [htx, hres, hin]
    simp [toPort, hpass, hne]
  have htag : (if a.ingress.any isBackbone then (bs, d) else tagAtTalker m bs d) = (bs, d) := by
    unfold tagAtTalker
    rw [htx]
    simp
  have hq : ∀ x : Dev, queueFor x m bs a.pcp a.best none o = Fin.ofNat 8 (cfg x 0x2203 (1 + a.pcp % 8)) := fun x => by
    unfold queueFor
    rw [htx, hres, hbest, hnc]
    simp
  have hx : (toPort o bs).bytes = bs := rfl
  have ho1 : (toPort o bs).override = none := rfl
  have ho2 : (toPort o bs).untranslatable = false := rfl
  have ho3 : (toPort o bs).host = false := rfl
  have ho4 : (toPort o bs).prevBank = false := rfl
  unfold dispatchFrame
  rw [hzero]
  dsimp only
  rw [hx, hports, htag, ho1, ho2, ho3, ho4, hneed]
  dsimp only [onlyIf, forEach, List.foldl_cons, List.foldl_nil]
  refine ⟨{ newFrame d a (toPort o bs) bs with
    bytes := if isBackbone o || !m.strip then bs else stripRtag bs
    window := if queueFor (numbered d) m bs a.pcp a.best none o = 6 then
      (m.tx.find? (·.port = o)).map (·.window) else none }, ⟨?_, rfl, rfl, rfl, rfl⟩, _, congrArg (fun q => admitPort _ n a.rate o q _) (hq _), ?_⟩
  · show (if isBackbone o || !m.strip then bs else stripRtag bs) = _
    rw [ho]
    cases m.strip <;> rfl
  · exact settledWhere _ _ _

/-- Where a frame without room is counted. -/
theorem countDiscard_counts (q : Fin 8) (d : Dev) : cfg (countDiscard o q.val d) (0x2210 + o.val) (1 + q.val) = min 0xFFFFFFFF (cfg d (0x2210 + o.val) (1 + q.val) + 1) := by
  have hdef : ∀ (o : Port) (q : Fin 8), odDefault (odKey (0x2210 + o.val) (1 + q.val)) = .num 0 := by decide +kernel
  exact cfg_bump_self _ _ _ (hdef o q)

/-- What the way of a frame into a queue leaves of the counters of another index. -/
theorem admitPort_portCounters (f : QFrame) (n : Nat) (rate : Option Nat) (q : Fin 8) (hup : portUp d o = true) (hs : spillsAt d o q = false) :
    PortCounters p d (admitPort f n rate o q d) := fun i hi => by
  have hp := p.isLt
  have ho := o.isLt
  have hb : ∀ sub < 0x100, ∀ x : Dev, cfg (bump (0x2210 + o.val) sub x) (0x2300 + p.val) i = cfg x (0x2300 + p.val) i := fun sub hsub x =>
    cfg_bump_ne _ _ _ _ _ (by unfold odKey; omega)
  unfold admitPort
  dsimp only
  rw [hup, hs, if_neg (by decide), if_neg Bool.false_ne_true]
  split
  · rw [hb _ (by split <;> decide)]
    exact (RegsWithin.cfg (P := fun _ => False) (allocCells_within _ _ d) (fun h => h)).trans rfl
  · exact hb _ (by omega) d

/-- A frame with room joins its queue, and no other. -/
theorem admitPort_room (f : QFrame) {n : Nat} (rate : Option Nat) {q : Fin 8} (hup : portUp d o = true) (hs : spillsAt d o q = false) (hr : roomAt d o q n = true) :
    (∃ cut, queueOf (admitPort f n rate o q d) o q = queueOf d o q ++ [{ f with cls := q.val, queuedAt := d.now, cut := cut }]) ∧
      ∀ (r : Port) (k : Fin 8), (r, k) ≠ (o, q) → queueOf (admitPort f n rate o q d) r k = queueOf d r k := by
  unfold admitPort
  dsimp only
  rw [hup, hs, hr, if_neg (by decide), if_neg Bool.false_ne_true, if_pos rfl]
  refine ⟨⟨cutAt d o q rate, ?_⟩, fun r k h => ?_⟩
  · rw [bump_queueOf, queueOf_push_self, queueOf_of_queues (allocCells_queues _ _ d)]
  · rw [bump_queueOf]
    exact (queueOf_setQueue_ne h _ _).trans (queueOf_of_queues (allocCells_queues _ _ d) r k)

/-- One without room is counted. -/
theorem admitPort_full (f : QFrame) {n : Nat} (rate : Option Nat) {q : Fin 8} (hup : portUp d o = true) (hs : spillsAt d o q = false) (hr : roomAt d o q n = false) :
    admitPort f n rate o q d = countDiscard o q.val d := by
  unfold admitPort
  dsimp only
  rw [hup, hs, hr, if_neg (by decide), if_neg Bool.false_ne_true, if_neg Bool.false_ne_true]

theorem learnedFrom_portCounters (bs : List Byte) (d : Dev) : PortCounters p d (learnedFrom p bs d) := fun i hi => by
  have hlearn : ∀ (mac vlan : Nat) (x : Dev), RegsFramed [(0x2207, 0x0F)] x (learn p mac vlan x) := fun mac vlan x => by
    unfold learn
    split
    · exact .refl _ x
    · split
      · exact .refl _ x
      · split
        · exact .of_same rfl
        · dsimp only
          split
          · exact .of_same rfl
          · exact (RegsFramed.refl _ x).bump _ _ (.head _)
  have hp := p.isLt
  have hd : RegsFramed [] d (countDecisions d) := .of_same ((countDecisions_framed (L := [.counters]) d (by decide) (.refl _ d)).same .regs (by decide))
  unfold learnedFrom
  rw [(hlearn _ _ _).cfg _ _ (by unfold odKey; simp; omega), hd.cfg _ _ (by simp)]

theorem settled_same {x y : Dev} (h : x = y ∨ ∃ g st, x = settle g st y) : (∀ (r : Port) (k : Fin 8), queueOf x r k = queueOf y r k) ∧ ∀ i j, cfg x i j = cfg y i j := by
  rcases h with rfl | ⟨g, st, rfl⟩
  · exact ⟨fun _ _ => rfl, fun _ _ => rfl⟩
  · exact ⟨queueOf_of_queues (settle_queues g st y), fun i j => RegsWithin.cfg (P := fun _ => False) (settle_within g st y) (fun h => h)⟩

/-- R123, R131: the way of a good frame whose destination has a static record of one consist port. -/
theorem frameReceive_record {f : RxFrame} {e : EngineFault} (hup : portUp s.dev p = true) (hc : errorClass s.dev p f = none)
    (hn : (consumed p f.bytes).isNone = true) (hfw : s.dev.fab.forwarding = true) (hpass : mayPass s.dev f.bytes p = true)
    (h0 : s.dev.fab.engine0 = .inService) (h1 : s.dev.fab.engine1 = .inService) (hw : (e.wrong0 || e.wrong1) = false)
    (hp : isBackbone p = false) (ho : isBackbone o = false) (hne : o ≠ p)
    (hmac : isGroup (frameDest f.bytes) = false) (hu : findUnicast s.dev (frameDest f.bytes) (classify s.dev p f.bytes).1 = some (row, r))
    (h8 : leNat (slice r 8 1) = 3) (h9 : leNat (slice r 9 1) = o.val) (h10 : leNat (slice r 10 1) = 0xFF) (h4 : isIpv4 f.bytes = false)
    (hnc : networkControl f.bytes = false) (htx : txEntries s.dev (frameDest f.bytes) (classify s.dev p f.bytes).1 = [])
    (hres : resEntries s.dev (frameDest f.bytes) (classify s.dev p f.bytes).1 = [])
    (hrx : rxEntry s.dev p (frameDest f.bytes) (classify s.dev p f.bytes).1 = none) :
    ∃ (a : Arrival) (g : QFrame) (z : Dev), CopyOf a (matchStream s.dev (frameDest f.bytes) (classify s.dev p f.bytes).1) f.bytes g ∧
      a.ingress = some p ∧ (a.vlan, a.pcp) = classify s.dev p f.bytes ∧ DecidesAs p s.found z ∧ FrameCounted s.dev z p (f.bytes.length + 4) ∧
      Completes (.frameReceive p f e) s fun d =>
        let b := admitPort g (cellsFor (cfg s.dev (0x2300 + p.val) 4)) a.rate o (Fin.ofNat 8 (cfg s.dev 0x2203 (1 + (classify s.dev p f.bytes).2 % 8))) z
        (∀ (r : Port) (k : Fin 8), queueOf d r k = queueOf b r k) ∧ ∀ i j, cfg d i j = cfg b i j := by
  have hg := countGood_decides p (f.bytes.length + 4) s.found
  have hcount : FrameCounted s.dev (countGood p (f.bytes.length + 4) s.found) p (f.bytes.length + 4) := countGood_counted p (by omega) s.found
  have hfab : (countGood p (f.bytes.length + 4) s.found).fab = s.dev.fab := countGood_fab p _ s.found
  have hexec := frameReceive_good (e := e) hup hc hn
  have hcls : classify (countGood p (f.bytes.length + 4) s.found) p f.bytes = classify s.dev p f.bytes := hg.classify p f.bytes
  generalize hx : countGood p (f.bytes.length + 4) s.found = x at *
  have hl := learnedFrom_decides (p := p) (d := x) f.bytes
  have hly := hg.trans hl
  have hz := hly.trans (numbered_decides (learnedFrom p f.bytes x))
  have hdec : decideFrame (learnedFrom p f.bytes x) (some p) (classify x p f.bytes).1 f.bytes = toPort o f.bytes := by
    rw [hcls]
    exact decideFrame_record hp hmac ((hly.findUnicast _ _).trans hu) h8 h9 h10 h4
  have hm : matchStream x (frameDest f.bytes) (classify x p f.bytes).1 = matchStream s.dev (frameDest f.bytes) (classify s.dev p f.bytes).1 := by
    rw [hcls]
    exact hg.matchStream _ _
  have hq : cfg (learnedFrom p f.bytes x) 0x2203 (1 + (classify x p f.bytes).2 % 8) = cfg s.dev 0x2203 (1 + (classify s.dev p f.bytes).2 % 8) := by
    rw [hcls]
    exact hly.cfg (by omega) (.inr (.inl (by decide))) (by omega)
  have hcells : cfg x (0x2300 + p.val) 4 = cfg s.dev (0x2300 + p.val) 4 := hg.cfg (by decide) (.inl (by decide)) (by omega)
  obtain ⟨g, hcopy, b, hb, hor⟩ := dispatchFrame_record (a := arrivalOf p f.bytes x) (m := matchStream x (frameDest f.bytes) (classify x p f.bytes).1)
    (d := learnedFrom p f.bytes x) (bs := f.bytes) (o := o) (by rw [hm]; exact htx) (by rw [hm]; exact hres) rfl rfl hp ho hne hnc rfl
  refine ⟨arrivalOf p f.bytes x, g, _, hm ▸ hcopy, rfl, hcls, hz, (hcount.after (learnedFrom_portCounters f.bytes x)).after fun _ _ => rfl,
    completes_of_exec hexec ?_⟩
  rw [hx, takeGood_dispatch (by rw [hfab]; exact hfw) ((hg.mayPass _ _).trans hpass) (by rw [hfab]; exact h0) (by rw [hfab]; exact h1) hw
    (by rw [hcls]; exact (hg.rxEntry _ _ _).trans hrx), hdec]
  have hsame := settled_same hor
  rw [hb] at hsame
  rw [← hq, ← hcells]
  exact hsame

end record

/-! ### The head of a queue is sent (R120) -/

theorem egressSend_exec (q : Fin 8) (f : QFrame) (rest : List QFrame) (hup : portUp s.dev p = true) (hq : queueOf s.dev p q = f :: rest) (hl : f.launch = none) :
    exec (.egressSend p q) s = s.does fun d => if mayStart (awaitIdle p d) p q f then startFrame p q f (awaitIdle p d) else awaitIdle p d := by
  show execEgressSend p q s = _
  unfold execEgressSend
  refine does_congr ?_
  have hup' : portUp s.found p = true := hup
  have hq' : queueOf (awaitIdle p s.found) p q = f :: rest := ((awaitIdle_idle p s.found).1.queueOf p q).trans hq
  rw [hup', if_pos rfl]
  unfold serveHead
  rw [hq', List.head?_cons]
  dsimp only
  rw [hl]

theorem egressSend_starts {q : Fin 8} {f : QFrame} {rest : List QFrame} (hup : portUp s.dev p = true) (hq : queueOf s.dev p q = f :: rest)
    (hl : f.launch = none) (hm : mayStart (awaitIdle p s.found) p q f = true) : Completes (.egressSend p q) s fun d => queueOf d p q = rest ∧
      Out.frame p q.val (correctedAt (awaitIdle p s.found) p f).1 ∈ d.out ∧ d.now = max s.dev.now s.dev.ports.p[p].txUntil ∧
        d.now ≤ d.ports.p[p].txUntil ∧ cfg d (0x2300 + p.val) 0x25 = min 0xFFFFFFFFFFFFFFFF (cfg s.dev (0x2300 + p.val) 0x25 + 1) ∧
        ∀ (o : Port) (k : Fin 8), (o, k) ≠ (p, q) → queueOf d o k = queueOf s.dev o k := by
  refine completes_of_exec (egressSend_exec q f rest hup hq hl) ?_
  rw [hm, if_pos rfl]
  obtain ⟨hidle, hnow⟩ := awaitIdle_idle p s.found
  generalize awaitIdle p s.found = x at *
  have h := startFrame_starts ((hidle.queueOf p q).trans hq)
  generalize startFrame p q f x = y at *
  refine ⟨h.queue, h.frame, h.now.trans hnow, h.now.trans_le h.busy, h.counted.trans ?_, fun o k hne => (h.others o k hne).trans (hidle.queueOf o k)⟩
  rw [cfg_of_dict hidle.dict]
  rfl

theorem egressSend_waits {q : Fin 8} {f : QFrame} {rest : List QFrame} (hup : portUp s.dev p = true) (hq : queueOf s.dev p q = f :: rest)
    (hl : f.launch = none) (hm : mayStart (awaitIdle p s.found) p q f = false) : Completes (.egressSend p q) s fun d =>
      d.fab = s.dev.fab ∧ d.out = [] ∧ d.now = max s.dev.now s.dev.ports.p[p].txUntil := by
  refine completes_of_exec (egressSend_exec q f rest hup hq hl) ?_
  rw [hm, if_neg Bool.false_ne_true]
  obtain ⟨hidle, hnow⟩ := awaitIdle_idle p s.found
  generalize awaitIdle p s.found = x at *
  exact ⟨hidle.fab, hidle.out, hnow⟩

end received

/-- Settles O30: a frame that is not errored and not consumed goes by the decision of the engines, and with a static record to the end of one queue. -/
theorem framesReachTheQueueOfTheirDecision : Obligations.FramesReachTheQueueOfTheirDecision := by
  intro s p
  refine ⟨fun f e => ⟨frameReceive_down f e, fun hup => ⟨fun counter flag h => frameReceive_errored f e hup h, ?_⟩⟩,
    fun q f rest hup hq hl => ⟨egressSend_starts hup hq hl, egressSend_waits hup hq hl⟩⟩
  intro hc hn hfw hpass h0 h1
  refine ⟨frameReceive_mismatch hup hc hn hfw hpass h0 h1, ?_⟩
  intro o row r hw0 hw1 hp ho hne hupo hmac hu h8 h9 h10 h4 hnc htx hres hrx q others hs room
  obtain ⟨a, g, z, hcopy, hin, hcls, hz, hcount, hrun⟩ := frameReceive_record (e := e) hup hc hn hfw hpass h0 h1 (by rw [hw0, hw1]; rfl) hp ho hne hmac hu h8 h9
    h10 h4 hnc htx hres hrx
  have hupz : portUp z o = true := (hz.portUp o).trans hupo
  have hsz : spillsAt z o q = false := (hz.spillsAt o q).trans hs
  have hroom : roomAt z o q (cellsFor (cfg s.dev (0x2300 + p.val) 4)) = room := hz.roomAt o q _
  constructor
  · intro hr
    refine hrun.mono fun d ⟨hqs, hcfg⟩ => ?_
    obtain ⟨⟨cut, hself⟩, hother⟩ := admitPort_room g a.rate hupz hsz (hroom.trans hr)
    refine ⟨hcount.after fun i hi => (hcfg _ i).trans (admitPort_portCounters g _ a.rate q hupz hsz i hi),
      fun r k h => (hqs r k).trans ((hother r k h).trans (hz.queueOf r k)), { g with cls := q.val, queuedAt := z.now, cut := cut },
      (hqs o q).trans (hself.trans ?_), hcopy.bytes, hcopy.ingress.trans hin, rfl,
      hcopy.vlan.trans (congrArg Prod.fst hcls), hcopy.pcp.trans (congrArg Prod.snd hcls), hcopy.spilled⟩
    rw [hz.queueOf]
    rfl
  · intro hr
    refine hrun.mono fun d ⟨hqs, hcfg⟩ => ?_
    have hfull := admitPort_full g a.rate hupz hsz (hroom.trans hr)
    have hstand : ∀ (r : Port) (k : Fin 8), queueOf d r k = queueOf s.dev r k := fun r k => by
      refine (hqs r k).trans ((congrArg (fun x => queueOf x r k) hfull).trans ?_)
      exact (queueOf_of_queues (by simp [countDiscard]) r k).trans (hz.queueOf r k)
    refine ⟨hcount.after fun i hi => (hcfg _ i).trans (admitPort_portCounters g _ a.rate q hupz hsz i hi), fun r k _ => hstand r k, hstand o q, ?_⟩
    refine (hcfg _ _).trans ((congrArg (fun x => cfg x (0x2210 + o.val) (1 + q.val)) hfull).trans ?_)
    rw [countDiscard_counts, hz.cfg (by omega) (.inr (.inl (by omega))) (by omega)]
    rfl

end Sys2Proof.Machine
end

section
/-! PROOF. Slice faults during the last rotation of Test-in-service: the profile that waited for the step is entered, and
Commissioning discards every Q6 frame (R23, R147). -/

namespace Sys2Proof.Machine

/-- A frame of a window, which occupies no cell of the slice that fails. -/
def windowFrame : QFrame :=
  { uid := 1, bytes := [], ingress := none, cls := 6, vlan := 1, pcp := 0, stamp := 0, queuedAt := 0, stepGen := 0, unsure := false
    epoch := 1, prevBank := false, copyToHost := false, untranslatable := false, errFlags := 0, trailer := none, cut := false
    spilled := false, window := some 0, launch := none, tsIdent := none, host := none }

/-- Test-in-service rotates slice 0, Commissioning waits for the end of the step, and a Q6 frame stands at port 0. -/
def commissioningWaits : State :=
  let d := State.reset.dev
  { dev := { d with
      node := { d.node with profile := 3, stepBusy := true, nextProfile := some 1 }
      fab := { d.fab with
        works := [{ slice := 0, incoming := some 8, rotation := true, cause := 5, started := 0 }]
        queues := vmod d.fab.queues 0 (fun v => v.set 6 [windowFrame]) } }
    pending := [] }

theorem commissioningWaits_valid : commissioningWaits.dev.Valid := theStateAfterResetIsValid.1

/-- The frames of Q6 at port 0 after a step. -/
def windowQueue (r : Result) : Option Nat :=
  match r with
  | .next t => some (queueOf t.dev 0 6).length
  | _ => none

/-- The fault ends the step, and Commissioning empties Q6. -/
theorem windowQueue_sliceFault : windowQueue (exec (.sliceFault 0 .parity) commissioningWaits) = some 0 := by decide +kernel

/-- Refutes O31: a slice fault that ends the last rotation of Test-in-service enters the Commissioning that waited for it, which
discards Q6 frames that have no cell in the slice. -/
theorem not_slicesSpillAndLearnedEntriesChangeAsGiven : ¬ Obligations.SlicesSpillAndLearnedEntriesChangeAsGiven := by
  intro h
  obtain ⟨-, -, -, hfault, -⟩ := h commissioningWaits commissioningWaits_valid
  obtain ⟨t, he, -, -, -, -, hqueues, -⟩ := hfault 0 .parity (by decide) (fun w hw _ => by
    rw [List.mem_singleton.1 hw])
  have hkept : windowQueue (exec (.sliceFault 0 .parity) commissioningWaits) = some 1 := by
    rw [he]
    exact congrArg (fun l => some l.length) ((hqueues 0 6).trans rfl)
  exact absurd (windowQueue_sliceFault.symm.trans hkept) (by decide)

end Sys2Proof.Machine
end

section
/-! PROOF. Gate banks: the builder, the change of a bank at a boundary, and the states of the schedule (R228, R234, R249 to R255). -/

namespace Sys2Proof.Machine

section gates

variable {s : State} {a b d : Dev} {g : List GateEntry}

/-! ### Discarding in every queue -/

theorem mem_allQueues (p : Port) (q : Fin 8) : (p, q) ∈ allQueues := by
  simp [allQueues, allPorts]

/-- What a discard in every queue leaves in each. -/
theorem discardAll_queueOf {each : Port → Fin 8 → QFrame → Dev → Dev} (heach : ∀ p q f d, (each p q f d).fab.queues = d.fab.queues)
    (bad : Port → Fin 8 → QFrame → Bool) (status : Nat) (d : Dev) (p : Port) (q : Fin 8) :
    queueOf (discardAll bad status each d) p q = (queueOf d p q).filter (fun f => !bad p q f) := by
  have hstep : ∀ (x : Port × Fin 8) (e : Dev), queueOf (discardFrom x.1 x.2 (bad x.1 x.2) status (each x.1 x.2) e) p q =
      if x = (p, q) then (queueOf e p q).filter (fun f => !bad p q f) else queueOf e p q := fun x e => by
    rw [queueOf_of_queues (discardFrom_queues (heach x.1 x.2) x.1 x.2 (bad x.1 x.2) status e)]
    split
    · next h => 
      subst h
      exact queueOf_setQueue_self _ _ _ _
    · next h => exact queueOf_setQueue_ne (fun e => h e.symm) _ _
  have hall : ∀ (l : List (Port × Fin 8)) (e : Dev), (p, q) ∈ l ∨ queueOf e p q = (queueOf d p q).filter (fun f => !bad p q f) →
      (queueOf e p q = queueOf d p q ∨ queueOf e p q = (queueOf d p q).filter (fun f => !bad p q f)) →
      queueOf (forEach l (fun (p, q) d => discardFrom p q (bad p q) status (each p q) d) e) p q = (queueOf d p q).filter (fun f => !bad p q f) := fun l => by
    induction l with
    | nil => exact fun e h _ => h.resolve_left (nomatch ·)
    | cons x l ih =>
      intro e hmem hval
      have hx := hstep x e
      refine ih _ ?_ ?_
      · by_cases h : x = (p, q)
        · rw [if_pos h] at hx
          refine .inr (hx.trans ?_)
          rcases hval with hv | hv <;> simp [hv]
        · rw [if_neg h] at hx
          exact hmem.imp (fun hm => (List.mem_cons.1 hm).resolve_left fun e => h e.symm) hx.trans
      · by_cases h : x = (p, q)
        · rw [if_pos h] at hx
          refine .inr (hx.trans ?_)
          rcases hval with hv | hv <;> simp [hv]
        · rw [if_neg h] at hx
          exact hval.imp hx.trans hx.trans
  exact hall allQueues d (.inl (mem_allQueues p q)) (.inl rfl)

theorem dropQ6_empties (d : Dev) (p : Port) : queueOf (dropQ6 d) p 6 = [] := by
  refine (discardAll_queueOf (fun _ _ _ _ => rfl) (fun _ q _ => q = 6) 2 d p 6).trans ?_
  simp

theorem dropQ6_sched (d : Dev) : (dropQ6 d).sched = d.sched :=
  (discardAll_framed (L := [.out, .queues, .host, .ints]) _ 2 _ d (by decide) (fun _ _ _ _ h => h) (.refl _ d)).same .sched (by decide)

/-! ### The builder (R228, R229) -/

/-- Every entry of a bank is of a window of its image. -/
theorem buildGates_windows (d : Dev) (i : SchedImage) (n : Numbering) : ∀ e ∈ (buildGates d i n).1, ∃ w ∈ i.windows, w.id = e.window := by
  have hins : ∀ (l : List Window) (w v : Window), v ∈ insertWindow w l ↔ v = w ∨ v ∈ l := fun l w v => by
    induction l with
    | nil => simp [insertWindow]
    | cons x l ih =>
      unfold insertWindow
      split
      · simp
      · simp only [List.mem_cons, ih]
        tauto
  have hsort : ∀ (l : List Window) (v : Window), v ∈ l.foldr insertWindow [] → v ∈ l := fun l v => by
    induction l with
    | nil => exact id
    | cons x l ih => exact fun h => ((hins _ _ _).1 h).elim (fun e => e ▸ .head _) fun h => .tail _ (ih h)
  have hplace : ∀ w : Window, ∀ e ∈ placeWindow d i n w, w.id = e.window := fun w e he => by
    unfold placeWindow at he
    split at he
    · cases he
    · dsimp only at he
      split at he
      · cases he
      · rcases List.mem_append.1 he with h | h
        · obtain ⟨p, -, rfl⟩ := List.mem_map.1 h
          rfl
        · split at h
          · obtain ⟨p, -, rfl⟩ := List.mem_map.1 h
            rfl
          · cases h
  unfold buildGates
  refine List.foldlRecOn (motive := fun x : List GateEntry × List Nat => ∀ e ∈ x.1, ∃ w ∈ i.windows, w.id = e.window) _ _ (fun _ h => nomatch h) ?_
  rintro ⟨bank, dropped⟩ hbank w hw e he
  dsimp only at he
  split at he
  · exact hbank e he
  · split at he
    · exact (List.mem_append.1 he).elim (hbank e) fun h => ⟨w, hsort _ w hw, hplace w e h⟩
    · exact hbank e he

theorem builtGates_fst (n : Numbering) (d : Dev) : (builtGates n d).1 = ((d.sched.image.map fun i => (buildGates d i n).1).getD []) := by
  unfold builtGates
  cases d.sched.image <;> rfl

/-- What building a bank leaves alone. -/
theorem builtGates_rest (n : Numbering) (d : Dev) : Framed [.out, .regs, .recd, .ints, .counters] d (builtGates n d).2 :=
  builtGates_framed n d (by decide) (.refl _ d)

/-! ### The change of banks (R250, R251, R255) -/

/-- From `a` to `b` every port changes to the bank `g`. -/
structure Switched (g : List GateEntry) (a b : Dev) : Prop where
  gates : b.sched.gates = g
  bank : b.sched.bankOne = !a.sched.bankOne
  done : b.sched.switchPending = false
  state : b.sched.state = a.sched.state
  boundary : b.sched.lastBoundary = trainTime b
  built : b.sched.built = if a.sched.builtFor = a.inaug.now.epoch then none else a.sched.built
  image : b.sched.image = a.sched.image
  pending : b.sched.pending = a.sched.pending
  queue : ∀ p : Port, ∀ f ∈ queueOf b p 6, ∃ e ∈ g, e.receive = false ∧ e.port = p ∧ some e.window = f.window

theorem raise_queueOf (ev : Ev) (n : Nat) (d : Dev) (p : Port) (q : Fin 8) : queueOf (raise ev n d) p q = queueOf d p q :=
  queueOf_of_queues (by rw [raise_fab]) p q

theorem switchGates_switched (g : List GateEntry) (d : Dev) : Switched g d (switchGates g d) := by
  unfold switchGates
  dsimp only
  have hq := fun p => discardAll_queueOf (each := fun _ _ _ => bump 0x2505 0x0D) (fun _ _ _ d => by rw [bump_fab])
    (fun p q f => q = 6 && !g.any (fun e => !e.receive && e.port = p && some e.window = f.window)) 2 d p 6
  have hf : Framed [.out, .regs, .queues, .host, .ints] d (discardAll (fun p q f => q = 6 && !g.any (fun e => !e.receive && e.port = p && some e.window = f.window))
      2 (fun _ _ _ => bump 0x2505 0x0D) d) :=
    discardAll_framed _ 2 _ d (by decide) (fun _ _ _ e h => bump_framed _ _ e (by decide) h) (.refl _ d)
  generalize discardAll (fun p q f => q = 6 && !g.any (fun e => !e.receive && e.port = p && some e.window = f.window)) 2 (fun _ _ _ => bump 0x2505 0x0D) d = x at *
  have hs : x.sched = d.sched := hf.same .sched (by decide)
  have hi : x.inaug = d.inaug := hf.same .inaug (by decide)
  refine ⟨?_, ?_, ?_, ?_, ?_, ?_, ?_, ?_, fun p f hm => ?_⟩
  · rw [raise_sched]
    rfl
  · rw [raise_sched]
    show (!x.sched.bankOne) = !d.sched.bankOne
    rw [hs]
  · rw [raise_sched]
    rfl
  · rw [raise_sched]
    exact (congrArg SchedS.state hs : x.sched.state = _)
  · unfold trainTime
    rw [raise_sched, raise_time]
    rfl
  · rw [raise_sched]
    show (if x.sched.builtFor = x.inaug.now.epoch then none else x.sched.built) = _
    rw [hs, hi]
  · rw [raise_sched]
    exact (congrArg SchedS.image hs : x.sched.image = _)
  · rw [raise_sched]
    exact (congrArg SchedS.pending hs : x.sched.pending = _)
  · rw [raise_queueOf] at hm
    have hm' : f ∈ queueOf x p 6 := hm
    rw [hq] at hm'
    simpa [and_assoc] using (List.mem_filter.1 hm').2

theorem switchToBuilt_eq (d : Dev) : switchToBuilt d = switchGates (builtGates d.inaug.now d).1
    (onSched (fun s => { s with building := s.building && d.inaug.accepted.isSome }) (builtGates d.inaug.now d).2) := by
  unfold switchToBuilt
  generalize builtGates d.inaug.now d = x
  rfl

theorem switchToBuilt_switched (d : Dev) : Switched ((d.sched.image.map fun i => (buildGates d i d.inaug.now).1).getD []) d (switchToBuilt d) := by
  have hf := builtGates_rest d.inaug.now d
  have hg := builtGates_fst d.inaug.now d
  rw [switchToBuilt_eq, hg]
  generalize (builtGates d.inaug.now d).2 = x at *
  have hs : x.sched = d.sched := hf.same .sched (by decide)
  have hi : x.inaug = d.inaug := hf.same .inaug (by decide)
  obtain ⟨h1, h2, h3, h4, h5, h6, h7, h8, h9⟩ := switchGates_switched ((d.sched.image.map fun i => (buildGates d i d.inaug.now).1).getD [])
    (onSched (fun s => { s with building := s.building && d.inaug.accepted.isSome }) x)
  refine ⟨h1, h2.trans ?_, h3, h4.trans ?_, h5, h6.trans ?_, h7.trans ?_, h8.trans ?_, h9⟩
  · show (!x.sched.bankOne) = _
    rw [hs]
  · show x.sched.state = _
    rw [hs]
  · show (if x.sched.builtFor = x.inaug.now.epoch then none else x.sched.built) = _
    rw [hs, hi]
  · show x.sched.image = _
    rw [hs]
  · show x.sched.pending = _
    rw [hs]

theorem forceImage_sched (i : SchedImage) (d : Dev) : (forceImage i d).sched = { d.sched with image := some i, pending := none } := by
  refine ((offerAll_framed (L := [.out, .regs, .queues, .counters]) _ (by decide) (.refl _ _)).same .sched (by decide)).trans ?_
  rw [raise_sched]
  rfl

theorem forceImage_inaug (i : SchedImage) (d : Dev) : (forceImage i d).inaug = d.inaug :=
  (forceImage_framed (L := [.out, .regs, .queues, .sched, .recd, .ints, .counters]) i d (by decide) (.refl _ d)).same .inaug (by decide)

/-- A bank built with an image has entries of its windows only. -/
theorem switchToBuilt_windows {i : SchedImage} (h : d.sched.image = some i) : ∀ e ∈ (switchToBuilt d).sched.gates, ∃ w ∈ i.windows, w.id = e.window := by
  rw [(switchToBuilt_switched d).gates, h]
  exact buildGates_windows d i d.inaug.now

/-! ### GATE_BANK_BUILT and GATE_SWITCH_BOUNDARY -/

/-- The numbering for which the builder builds. -/
def buildsFor (d : Dev) : Numbering :=
  match d.inaug.accepted with
  | some a => numberingOf d.chip.ident a.body a.ids
  | none => d.inaug.now

/-- The bank built takes its place beside the bank in force. -/
def bankBuilt (n : Numbering) (d : Dev) : Dev :=
  onSched (fun s => { s with
    building := false, built := some (builtGates n d).1, builtFor := n.epoch
    switchPending := s.switchPending || (d.inaug.accepted.isNone && scheduleActive d) }) (builtGates n d).2

theorem gateBankBuilt_builds (hb : s.dev.sched.building = true) (n : Numbering) (hn : n = (match s.dev.inaug.accepted with
      | some a => numberingOf s.dev.chip.ident a.body a.ids
      | none => s.dev.inaug.now)) : Completes .gateBankBuilt s fun d =>
    d.sched.building = false ∧ d.sched.gates = s.dev.sched.gates ∧ d.sched.builtFor = n.epoch ∧
      d.sched.built = some ((s.dev.sched.image.map fun i => (buildGates s.found i n).1).getD []) := by
  have hrun : exec .gateBankBuilt s = s.does fun d => bankBuilt (buildsFor d) d := by
    show execGateBankBuilt s = _
    unfold execGateBankBuilt
    refine does_congr ?_
    have hb' : s.found.sched.building = true := hb
    rw [hb']
    rfl
  refine completes_of_exec hrun ?_
  have hn' : buildsFor s.found = n := hn.symm
  rw [hn']
  have hf := builtGates_rest n s.found
  have hg := builtGates_fst n s.found
  unfold bankBuilt
  generalize (builtGates n s.found).2 = x at *
  have hs : x.sched = s.dev.sched := hf.same .sched (by decide)
  refine ⟨rfl, ?_, rfl, congrArg some hg⟩
  show x.sched.gates = _
  rw [hs]

/-- What a change of banks at a boundary leaves. -/
structure BankChanged (m : SchedS) (d : Dev) : Prop where
  bank : d.sched.bankOne = !m.bankOne
  done : d.sched.switchPending = false
  state : d.sched.state = m.state
  boundary : d.sched.lastBoundary = trainTime d
  queue : ∀ (p : Port), ∀ f ∈ queueOf d p 6, ∃ e ∈ d.sched.gates, e.receive = false ∧ e.port = p ∧ some e.window = f.window

theorem Switched.changed {m : SchedS} (h : Switched g a b) (hb : a.sched.bankOne = m.bankOne) (hs : a.sched.state = m.state) : BankChanged m b :=
  ⟨h.bank.trans (by rw [hb]), h.done, h.state.trans hs, h.boundary, by rw [h.gates]; exact h.queue⟩

/-- The change to the bank built for the present epoch, or to one built now. -/
def bankSwitched (d : Dev) : Dev :=
  match d.sched.built with
  | some g => if d.sched.builtFor = d.inaug.now.epoch then switchGates g d else switchToBuilt d
  | none => switchToBuilt d

theorem bankSwitched_changed (d : Dev) : BankChanged d.sched (bankSwitched d) := by
  unfold bankSwitched
  split
  · split
    · exact (switchGates_switched _ d).changed rfl rfl
    · exact (switchToBuilt_switched d).changed rfl rfl
  · exact (switchToBuilt_switched d).changed rfl rfl

/-- The image whose activation boundary has come. -/
def dueImage (d : Dev) : Option SchedImage := d.sched.pending.filter (fun i => decide (activationOf d i ≤ trainTime d))

/-- What the boundary does. -/
def atSwitchBoundary (d : Dev) : Dev :=
  match dueImage d with
  | some i => switchToBuilt (forceImage i d)
  | none => bankSwitched d

theorem forced_changed (i : SchedImage) (d : Dev) : BankChanged d.sched (switchToBuilt (forceImage i d)) := by
  have hs := forceImage_sched i d
  exact (switchToBuilt_switched _).changed (by rw [hs]) (by rw [hs])

theorem atSwitchBoundary_changed (d : Dev) : BankChanged d.sched (atSwitchBoundary d) := by
  unfold atSwitchBoundary
  split
  · exact forced_changed _ d
  · exact bankSwitched_changed d

theorem gateSwitch_exec (hp : s.dev.sched.switchPending = true) (ha : scheduleActive s.dev = true) (hl : s.dev.sched.state ≠ .localOnly) :
    exec .gateSwitchBoundary s = s.does fun d => atSwitchBoundary (arriveTrain (boundaryNow d) d) := by
  show execGateSwitchBoundary s = _
  unfold execGateSwitchBoundary
  refine does_congr ?_
  have h : (s.found.sched.switchPending && scheduleActive s.found && decide (s.found.sched.state ≠ .localOnly)) = true := by
    rw [show s.found.sched.switchPending = true from hp, show scheduleActive s.found = true from ha]
    exact decide_eq_true hl
  rw [h, if_pos rfl]
  dsimp only
  generalize arriveTrain (boundaryNow s.found) s.found = x
  unfold atSwitchBoundary dueImage bankSwitched
  cases h1 : x.sched.pending.filter (fun i => decide (activationOf x i ≤ trainTime x)) <;> cases h2 : x.sched.built <;> rfl

theorem gateSwitch_changes (hp : s.dev.sched.switchPending = true) (ha : scheduleActive s.dev = true) (hl : s.dev.sched.state ≠ .localOnly) :
    Completes .gateSwitchBoundary s (BankChanged s.dev.sched) := by
  refine completes_of_exec (gateSwitch_exec hp ha hl) ?_
  have h := atSwitchBoundary_changed (arriveTrain (boundaryNow s.found) s.found)
  rwa [arriveTrain_sched] at h

/-- The bank built for the epoch takes force. -/
theorem gateSwitch_built (hp : s.dev.sched.switchPending = true) (ha : scheduleActive s.dev = true) (hl : s.dev.sched.state ≠ .localOnly)
    (hd : dueImage (arriveTrain (boundaryNow s.found) s.found) = none) (hb : s.dev.sched.built = some g)
    (he : s.dev.sched.builtFor = s.dev.inaug.now.epoch) :
    Completes .gateSwitchBoundary s fun d => BankChanged s.dev.sched d ∧ d.sched.gates = g ∧ d.sched.built = none := by
  refine completes_of_exec (gateSwitch_exec hp ha hl) ?_
  have hs : (arriveTrain (boundaryNow s.found) s.found).sched = s.dev.sched := arriveTrain_sched _ _
  have hi : (arriveTrain (boundaryNow s.found) s.found).inaug = s.dev.inaug := arriveTrain_inaug _ _
  generalize arriveTrain (boundaryNow s.found) s.found = x at *
  have hx : atSwitchBoundary x = switchGates g x := by
    unfold atSwitchBoundary bankSwitched
    rw [hd, hs, hb]
    dsimp only
    rw [hi, if_pos he]
  rw [hx]
  have h := switchGates_switched g x
  exact ⟨h.changed (by rw [hs]) (by rw [hs]), h.gates, h.built.trans (if_pos (by rw [hs, hi]; exact he))⟩

/-- An image that is due takes force in the same change. -/
theorem gateSwitch_forces (hp : s.dev.sched.switchPending = true) (ha : scheduleActive s.dev = true) (hl : s.dev.sched.state ≠ .localOnly)
    {i : SchedImage} (hd : dueImage (arriveTrain (boundaryNow s.found) s.found) = some i) :
    Completes .gateSwitchBoundary s fun d => BankChanged s.dev.sched d ∧ d.sched.image = some i ∧ d.sched.pending = none ∧
      ∀ e ∈ d.sched.gates, ∃ w ∈ i.windows, w.id = e.window := by
  refine completes_of_exec (gateSwitch_exec hp ha hl) ?_
  have hs : (arriveTrain (boundaryNow s.found) s.found).sched = s.dev.sched := arriveTrain_sched _ _
  generalize arriveTrain (boundaryNow s.found) s.found = x at *
  have hx : atSwitchBoundary x = switchToBuilt (forceImage i x) := by
    unfold atSwitchBoundary
    rw [hd]
  rw [hx, ← hs]
  have hf := forceImage_sched i x
  have h := switchToBuilt_switched (forceImage i x)
  exact ⟨forced_changed i x, h.image.trans (by rw [hf]), h.pending.trans (by rw [hf]), switchToBuilt_windows (by rw [hf])⟩

/-! ### CYCLE_BOUNDARY (R249, R252, R254) -/

/-- The cut-through of windows ends where its time has come. -/
def cutEnds (d : Dev) : Dev := onSched (fun s => { s with cutUntil := s.cutUntil.filter (fun t => decide (trainTime d < t)) }) d

/-- The state at a cycle boundary. -/
def cycleMoment (d : Dev) : Dev := cutEnds (arriveTrain (boundaryNow d) d)

theorem cycleMoment_sched (d : Dev) : ∃ c, (cycleMoment d).sched = { d.sched with cutUntil := c } := by
  unfold cycleMoment cutEnds
  refine ⟨d.sched.cutUntil.filter (fun t => decide (trainTime (arriveTrain (boundaryNow d) d) < t)), ?_⟩
  unfold onSched
  dsimp only
  rw [arriveTrain_sched]

theorem cycle_exec (h : s.dev.sched.state ≠ .off ∨ s.dev.sched.closing ≠ none) :
    exec .cycleBoundary s = s.does fun d => atCycleBoundary (arriveTrain (boundaryNow d) d) := by
  show execCycleBoundary s = _
  unfold execCycleBoundary
  refine does_congr ?_
  refine if_neg fun hc => ?_
  obtain ⟨h1, h2⟩ := Bool.and_eq_true_iff.1 hc
  exact h.elim (fun hn => hn (of_decide_eq_true h1)) fun hn => hn (Option.isNone_iff_eq_none.1 h2)

theorem cycle_off (h : s.dev.sched.state = .off) (hc : s.dev.sched.closing = none) : Completes .cycleBoundary s fun d => d = s.found := by
  have hrun : exec .cycleBoundary s = s.does fun d => d := by
    show execCycleBoundary s = _
    unfold execCycleBoundary
    refine does_congr ?_
    refine if_pos ?_
    rw [show s.found.sched.state = .off from h, show s.found.sched.closing = none from hc]
    rfl
  exact completes_of_exec hrun rfl

/-- A schedule that ends closes and empties its gates. -/
theorem cycle_closes (hc : s.dev.sched.closing ≠ none) : Completes .cycleBoundary s fun d => d.sched.closing = none ∧ d.sched.gates = [] ∧
    (∀ p : Port, d.sched.windows[p] = none) ∧ ∀ p : Port, queueOf d p 6 = [] := by
  refine completes_of_exec (cycle_exec (.inr hc)) ?_
  obtain ⟨c, hs⟩ := cycleMoment_sched s.found
  have hx : atCycleBoundary (arriveTrain (boundaryNow s.found) s.found) =
      dropQ6 (closeWindows (onSched (fun s => { s with closing := none, gates := [], built := none }) (cycleMoment s.found))) := by
    unfold atCycleBoundary
    refine if_pos ?_
    show (cycleMoment s.found).sched.closing.isSome = true
    rw [hs]
    exact Option.isSome_iff_ne_none.2 hc
  rw [hx]
  generalize cycleMoment s.found = x at *
  refine ⟨?_, ?_, fun p => ?_, dropQ6_empties _⟩ <;> rw [dropQ6_sched]
  · rfl
  · rfl
  · exact Vector.getElem_replicate p.isLt

/-- What waits for a cycle boundary in each state. -/
def byState (d : Dev) : Dev :=
  match d.sched.state with
  | .waiting =>
    if d.sched.image.isSome && d.inaug.now.node ≠ 0 && d.inaug.now.epoch ≠ 0 && !newerDue d then
      switchToBuilt (onSched (fun s => { s with state := if timeFences d then .fenced else .running }) d)
    else d
  | .running => if timeFences d then enterFence d else onSched (fun s => { s with syncSeen := false, badSeen := false }) d
  | .fenced =>
    let good := if d.sched.badSeen then 0 else d.sched.goodCycles + 1
    let since := if d.sched.syncSeen then 0 else d.sched.sinceSync + 1
    let d1 := onSched (fun s => { s with goodCycles := good, sinceSync := since, syncSeen := false, badSeen := false }) d
    if cfg d 0x2501 4 ≤ good && since < cfg d 0x2501 4 && !timeFences d then
      raise evFenceOut noInst (onSched (fun s => { s with state := .running }) d1)
    else d1
  | .localOnly => if d.sched.switchPending then switchGates (localGates d) d else d
  | .off => d

theorem atCycleBoundary_byState (h : d.sched.closing = none) : atCycleBoundary d = byState (cutEnds d) := by
  unfold atCycleBoundary
  refine (if_neg ?_).trans ?_
  · show ¬ d.sched.closing.isSome = true
    rw [h]
    exact Bool.false_ne_true
  · show _ = byState (cutEnds d)
    unfold byState
    rfl

theorem cycle_byState {st : SchedState} (hc : s.dev.sched.closing = none) (hst : s.dev.sched.state = st) (hne : st ≠ .off) :
    exec .cycleBoundary s = s.does fun d => byState (cycleMoment d) := by
  refine (cycle_exec (.inl (hst ▸ hne))).trans (does_congr ?_)
  exact atCycleBoundary_byState (by rw [arriveTrain_sched]; exact hc)

theorem cycleMoment_cfg (d : Dev) (idx sub : Nat) : cfg (cycleMoment d) idx sub = cfg d idx sub :=
  cfg_of_dict (arriveTrain_dict _ d) idx sub

/-- Waiting ends when an image, a number and an epoch are there, and no newer generation is due. -/
theorem cycle_waiting_ends (hc : s.dev.sched.closing = none) (hst : s.dev.sched.state = .waiting) (himg : s.dev.sched.image ≠ none)
    (hnode : s.dev.inaug.now.node ≠ 0) (hepoch : s.dev.inaug.now.epoch ≠ 0) (hdue : newerDue (arriveTrain (boundaryNow s.found) s.found) = false) :
    Completes .cycleBoundary s fun d =>
      d.sched.state = (if timeFences (arriveTrain (boundaryNow s.found) s.found) then .fenced else .running) ∧ d.sched.bankOne = !s.dev.sched.bankOne := by
  refine completes_of_exec (cycle_byState hc hst (by decide)) ?_
  have hf : timeFences (cycleMoment s.found) = timeFences (arriveTrain (boundaryNow s.found) s.found) := rfl
  have hdue' : newerDue (cycleMoment s.found) = false := hdue
  have hi : (cycleMoment s.found).inaug = s.dev.inaug := arriveTrain_inaug _ _
  obtain ⟨c, hs⟩ := cycleMoment_sched s.found
  rw [← hf]
  generalize cycleMoment s.found = x at *
  have hx : byState x = switchToBuilt (onSched (fun s => { s with state := if timeFences x then .fenced else .running }) x) := by
    have hready : (x.sched.image.isSome && decide (x.inaug.now.node ≠ 0) && decide (x.inaug.now.epoch ≠ 0) && !newerDue x) = true := by
      rw [hs, hi, hdue', decide_eq_true hnode, decide_eq_true hepoch, show s.found.sched.image.isSome = true from Option.isSome_iff_ne_none.2 himg]
      rfl
    unfold byState
    rw [show x.sched.state = .waiting by rw [hs]; exact hst]
    exact if_pos hready
  rw [hx]
  have h := switchToBuilt_switched (onSched (fun s => { s with state := if timeFences x then .fenced else .running }) x)
  refine ⟨h.state, h.bank.trans ?_⟩
  show (!x.sched.bankOne) = _
  rw [hs]
  rfl

theorem cycle_waiting_stays (hc : s.dev.sched.closing = none) (hst : s.dev.sched.state = .waiting)
    (h : ¬ (s.dev.sched.image ≠ none ∧ s.dev.inaug.now.node ≠ 0 ∧ s.dev.inaug.now.epoch ≠ 0 ∧ newerDue (arriveTrain (boundaryNow s.found) s.found) = false)) :
    Completes .cycleBoundary s fun d => d.sched.state = .waiting ∧ d.sched.gates = s.dev.sched.gates := by
  refine completes_of_exec (cycle_byState hc hst (by decide)) ?_
  have hdue : newerDue (cycleMoment s.found) = newerDue (arriveTrain (boundaryNow s.found) s.found) := rfl
  have hi : (cycleMoment s.found).inaug = s.dev.inaug := arriveTrain_inaug _ _
  obtain ⟨c, hs⟩ := cycleMoment_sched s.found
  rw [← hdue] at h
  generalize cycleMoment s.found = x at *
  have hx : byState x = x := by
    unfold byState
    rw [show x.sched.state = .waiting by rw [hs]; exact hst]
    refine if_neg fun hr => h ?_
    simp only [Bool.and_eq_true, decide_eq_true_eq, Bool.not_eq_true', hi, Option.isSome_iff_ne_none] at hr
    obtain ⟨⟨⟨h1, h2⟩, h3⟩, h4⟩ := hr
    rw [hs] at h1
    exact ⟨h1, h2, h3, h4⟩
  rw [hx, hs]
  exact ⟨hst, rfl⟩

theorem now_of_framed {A : List Part} (h : Framed A a b) (hc : Part.clock ∉ A) : b.now = a.now := by
  have hp : (b.now, b.time.fRaw) = (a.now, a.time.fRaw) := h.same .clock hc
  exact (Prod.ext_iff.1 hp).1

/-- What entering the fence leaves. -/
theorem enterFence_fences (h : d.sched.state = .running) : (enterFence d).sched.state = .fenced ∧
    cfg (enterFence d) 0x2505 8 = min 0xFFFFFFFF (cfg d 0x2505 8 + 1) ∧ (∀ p : Port, (enterFence d).sched.windows[p] = none) ∧ (enterFence d).now = d.now := by
  have hx : enterFence d = releaseQ6 (raise evFenceIn noInst (bump 0x2505 8 (onSched (fun s => { s with
      state := .fenced, windows := Vector.replicate 20 none, goodCycles := 0 }) d))) := by
    unfold enterFence
    exact if_pos h
  have hrel : ∀ e, Framed [.queues] e (releaseQ6 e) := fun e => releaseQ6_framed e (by decide) (.refl _ e)
  have hs : ∀ e, (releaseQ6 e).sched = e.sched := fun e => (hrel e).same .sched (by decide)
  have hn : ∀ e, (releaseQ6 e).now = e.now := fun e => now_of_framed (hrel e) (by decide)
  have hr : ∀ e, cfg (releaseQ6 e) 0x2505 8 = cfg e 0x2505 8 := fun e => (RegsFramed.of_same (L := []) ((hrel e).same .regs (by decide))).cfg _ _ (by simp)
  rw [hx, hs, hr, hn, raise_sched, bump_sched]
  refine ⟨rfl, ?_, fun p => Vector.getElem_replicate p.isLt, ?_⟩
  · rw [(raise_regs _ _ _).cfg _ _ (by decide), cfg_bump_self _ _ _ (by decide +kernel)]
    rfl
  · rw [raise_now, bump_now]
    rfl

theorem cycle_running_fences (hc : s.dev.sched.closing = none) (hst : s.dev.sched.state = .running)
    (hf : timeFences (arriveTrain (boundaryNow s.found) s.found) = true) : Completes .cycleBoundary s fun d =>
      d.sched.state = .fenced ∧ cfg d 0x2505 8 = min 0xFFFFFFFF (cfg s.dev 0x2505 8 + 1) ∧ ∀ p : Port, d.sched.windows[p] = none := by
  refine completes_of_exec (cycle_byState hc hst (by decide)) ?_
  have hf' : timeFences (cycleMoment s.found) = true := hf
  have hcfg : cfg (cycleMoment s.found) 0x2505 8 = cfg s.dev 0x2505 8 := cycleMoment_cfg s.found _ _
  obtain ⟨c, hs⟩ := cycleMoment_sched s.found
  generalize cycleMoment s.found = x at *
  have hx : x.sched.state = .running := by
    rw [hs]
    exact hst
  have hstep : byState x = enterFence x := by
    unfold byState
    rw [hx]
    exact if_pos hf'
  obtain ⟨h1, h2, h3, -⟩ := enterFence_fences hx
  rw [hstep, ← hcfg]
  exact ⟨h1, h2, h3⟩

theorem cycle_running_stays (hc : s.dev.sched.closing = none) (hst : s.dev.sched.state = .running)
    (hf : timeFences (arriveTrain (boundaryNow s.found) s.found) = false) : Completes .cycleBoundary s fun d =>
      d.sched.state = .running ∧ cfg d 0x2505 8 = cfg s.dev 0x2505 8 ∧ d.sched.badSeen = false ∧ d.sched.syncSeen = false := by
  refine completes_of_exec (cycle_byState hc hst (by decide)) ?_
  have hf' : timeFences (cycleMoment s.found) = false := hf
  have hcfg : cfg (cycleMoment s.found) 0x2505 8 = cfg s.dev 0x2505 8 := cycleMoment_cfg s.found _ _
  obtain ⟨c, hs⟩ := cycleMoment_sched s.found
  generalize cycleMoment s.found = x at *
  have hx : x.sched.state = .running := by
    rw [hs]
    exact hst
  have hstep : byState x = onSched (fun s => { s with syncSeen := false, badSeen := false }) x := by
    unfold byState
    rw [hx]
    exact if_neg (by rw [hf']; exact Bool.false_ne_true)
  rw [hstep]
  exact ⟨hx, hcfg, rfl, rfl⟩

/-- A fenced schedule runs again after the good cycles that 0x2501:04 asks for (R249). -/
theorem cycle_fenced (hc : s.dev.sched.closing = none) (hst : s.dev.sched.state = .fenced) : Completes .cycleBoundary s fun d =>
    cfg d 0x2505 8 = cfg s.dev 0x2505 8 ∧ d.sched.badSeen = false ∧ d.sched.syncSeen = false ∧
      (d.sched.state = .running ↔ cfg s.dev 0x2501 4 ≤ (if s.dev.sched.badSeen then 0 else s.dev.sched.goodCycles + 1) ∧
        (if s.dev.sched.syncSeen then 0 else s.dev.sched.sinceSync + 1) < cfg s.dev 0x2501 4 ∧
        timeFences (arriveTrain (boundaryNow s.found) s.found) = false) ∧
      (d.sched.state ≠ .running → d.sched.state = .fenced) := by
  refine completes_of_exec (cycle_byState hc hst (by decide)) ?_
  have hf : timeFences (cycleMoment s.found) = timeFences (arriveTrain (boundaryNow s.found) s.found) := rfl
  have hcfg : ∀ i j, cfg (cycleMoment s.found) i j = cfg s.dev i j := cycleMoment_cfg s.found
  obtain ⟨c, hs⟩ := cycleMoment_sched s.found
  rw [← hf, ← hcfg 0x2501 4, ← hcfg 0x2505 8]
  generalize cycleMoment s.found = x at *
  have hx : x.sched.state = .fenced := by
    rw [hs]
    exact hst
  have hb : x.sched.badSeen = s.dev.sched.badSeen := by rw [hs]; rfl
  have hy : x.sched.syncSeen = s.dev.sched.syncSeen := by rw [hs]; rfl
  have hg : x.sched.goodCycles = s.dev.sched.goodCycles := by rw [hs]; rfl
  have hn : x.sched.sinceSync = s.dev.sched.sinceSync := by rw [hs]; rfl
  rw [← hb, ← hy, ← hg, ← hn]
  generalize hgood : (if x.sched.badSeen = true then 0 else x.sched.goodCycles + 1) = good
  generalize hsince : (if x.sched.syncSeen = true then 0 else x.sched.sinceSync + 1) = since
  have hstep : byState x =
      let d1 := onSched (fun s => { s with goodCycles := good, sinceSync := since, syncSeen := false, badSeen := false }) x
      if cfg x 0x2501 4 ≤ good && since < cfg x 0x2501 4 && !timeFences x then
        raise evFenceOut noInst (onSched (fun s => { s with state := .running }) d1)
      else d1 := by
    unfold byState
    rw [hx, ← hgood, ← hsince]
  rw [hstep]
  dsimp only
  split
  · next h =>
    simp only [Bool.and_eq_true, decide_eq_true_eq, Bool.not_eq_true'] at h
    obtain ⟨⟨h1, h2⟩, h3⟩ := h
    rw [raise_sched, (raise_regs _ _ _).cfg _ _ (by decide)]
    exact ⟨rfl, rfl, rfl, ⟨fun _ => ⟨h1, h2, h3⟩, fun _ => rfl⟩, fun hn => absurd rfl hn⟩
  · next h =>
    simp only [Bool.and_eq_true, decide_eq_true_eq, Bool.not_eq_true'] at h
    have hfen : (onSched (fun s => { s with goodCycles := good, sinceSync := since, syncSeen := false, badSeen := false }) x).sched.state = .fenced := hx
    exact ⟨rfl, rfl, rfl, ⟨fun hr => (nomatch hfen.symm.trans hr), fun ⟨h1, h2, h3⟩ => absurd ⟨⟨h1, h2⟩, h3⟩ h⟩, fun _ => hfen⟩

theorem cycle_local (hc : s.dev.sched.closing = none) (hst : s.dev.sched.state = .localOnly) (hp : s.dev.sched.switchPending = true) :
    Completes .cycleBoundary s fun d => d.sched.gates = localGates s.found ∧ d.sched.state = .localOnly ∧ d.sched.switchPending = false := by
  refine completes_of_exec (cycle_byState hc hst (by decide)) ?_
  have hl : localGates (cycleMoment s.found) = localGates s.found := by
    have hm : (cycleMoment s.found).dict = s.found.dict := arriveTrain_dict _ _
    unfold localGates tableBytes
    rw [hm]
  obtain ⟨c, hs⟩ := cycleMoment_sched s.found
  generalize cycleMoment s.found = x at *
  have hx : x.sched.state = .localOnly := by
    rw [hs]
    exact hst
  have hstep : byState x = switchGates (localGates x) x := by
    unfold byState
    rw [hx]
    exact if_pos (by rw [hs]; exact hp)
  rw [hstep]
  have h := switchGates_switched (localGates x) x
  exact ⟨h.gates.trans hl, h.state.trans hx, h.done⟩

end gates

end Sys2Proof.Machine
end

section
/-! PROOF. Activation boundaries and the windows of the gates (R234, R238, R239, R244, R246, R247, R259). -/

namespace Sys2Proof.Machine

section windows

variable {s : State} {a b d : Dev} {p : Port} {w : BitVec 16}

/-! ### ACTIVATION_BOUNDARY (R234, R235) -/

/-- The moment at which a pending image takes force. -/
def activationMoment (i : SchedImage) (d : Dev) : Dev := arriveTrain (max (activationOf d i) (firstInstant i.baseNs i.cycle (trainTime d))) d

theorem activation_exec {i : SchedImage} (h : s.dev.sched.pending = some i) : exec .activationBoundary s = s.does fun d =>
    let e := forceImage i (activationMoment i d)
    if e.sched.state = .running ∨ e.sched.state = .fenced then switchToBuilt e else e := by
  show execActivationBoundary s = _
  unfold execActivationBoundary
  refine does_congr ?_
  rw [show s.found.sched.pending = some i from h]
  unfold activationMoment
  dsimp only
  generalize arriveTrain (max (activationOf s.found i) (firstInstant i.baseNs i.cycle (trainTime s.found))) s.found = x
  generalize forceImage i x = y
  cases hst : y.sched.state with
  | running => exact (if_pos (.inl rfl)).symm
  | fenced => exact (if_pos (.inr rfl)).symm
  | off => exact (if_neg (by decide)).symm
  | waiting => exact (if_neg (by decide)).symm
  | localOnly => exact (if_neg (by decide)).symm

theorem activation_forces {i : SchedImage} (h : s.dev.sched.pending = some i) : Completes .activationBoundary s fun d =>
    d.sched.image = some i ∧ d.sched.pending = none ∧ d.sched.state = s.dev.sched.state ∧
      (s.dev.sched.state = .running ∨ s.dev.sched.state = .fenced →
        d.sched.bankOne = !s.dev.sched.bankOne ∧ ∀ e ∈ d.sched.gates, ∃ w ∈ i.windows, w.id = e.window) := by
  refine completes_of_exec (activation_exec h) ?_
  have hs : (activationMoment i s.found).sched = s.dev.sched := arriveTrain_sched _ _
  generalize activationMoment i s.found = x at *
  have hf := forceImage_sched i x
  rw [hs] at hf
  generalize forceImage i x = y at *
  have hstate : y.sched.state = s.dev.sched.state := by rw [hf]
  have himage : y.sched.image = some i := by rw [hf]
  have hpending : y.sched.pending = none := by rw [hf]
  have hbank : y.sched.bankOne = s.dev.sched.bankOne := by rw [hf]
  dsimp only
  split
  · have hsw := switchToBuilt_switched y
    exact ⟨hsw.image.trans himage, hsw.pending.trans hpending, hsw.state.trans hstate,
      fun _ => ⟨hsw.bank.trans (by rw [hbank]), switchToBuilt_windows himage⟩⟩
  · next hn => exact ⟨himage, hpending, hstate, fun ha => absurd (hstate ▸ ha) hn⟩

/-- Without the image the node waits (R254). -/
theorem activation_waits {x : Nat × Nat} (hp : s.dev.sched.pending = none) (ho : s.dev.sched.offered = some x)
    (ha : s.dev.sched.state = .running ∨ s.dev.sched.state = .fenced) : Completes .activationBoundary s fun d =>
      d.sched.state = .waiting ∧ (∀ p : Port, d.sched.windows[p] = none) ∧ d.sched.image = s.dev.sched.image ∧ d.sched.reception = s.dev.sched.reception := by
  have hrun : exec .activationBoundary s = s.does fun d => raise evWaitingAtBoundary noInst (closeWindows (onSched (fun s => { s with state := .waiting })
      (arriveTrain (max (boundaryNow d) (offeredDue d x.2)) d))) := by
    show execActivationBoundary s = _
    unfold execActivationBoundary
    refine does_congr ?_
    rw [show s.found.sched.pending = none from hp, show s.found.sched.offered = some x from ho]
    dsimp only
    rcases ha with h | h
    · rw [show s.found.sched.state = .running from h]
    · rw [show s.found.sched.state = .fenced from h]
  refine completes_of_exec hrun ?_
  have hs : (arriveTrain (max (boundaryNow s.found) (offeredDue s.found x.2)) s.found).sched = s.dev.sched := arriveTrain_sched _ _
  generalize arriveTrain (max (boundaryNow s.found) (offeredDue s.found x.2)) s.found = y at *
  rw [raise_sched]
  refine ⟨rfl, fun p => Vector.getElem_replicate p.isLt, ?_, ?_⟩
  · show y.sched.image = _
    rw [hs]
  · show y.sched.reception = _
    rw [hs]

/-! ### WINDOW_OPEN (R238, R239) -/

/-- The window of an entry, opened at an instant. -/
def openAt (g : GateEntry) (t : Nat) (d : Dev) : OpenWindow := { entry := g, openedAt := t, closeAt := t + (g.length - guardNow d g), closed := false }

/-- The window of a port becomes `o`. -/
def setWindow (p : Port) (o : Option OpenWindow) (d : Dev) : Dev := onSched (fun s => { s with windows := vmod s.windows p (fun _ => o) }) d

theorem setWindow_self (o : Option OpenWindow) (d : Dev) : (setWindow p o d).sched.windows[p] = o := by
  simp [setWindow, onSched, vmod]

theorem setWindow_ne {q : Port} (h : q ≠ p) (o : Option OpenWindow) (d : Dev) : (setWindow p o d).sched.windows[q] = d.sched.windows[q] := by
  have hne : p.val ≠ q.val := fun e => h (Fin.ext e).symm
  simp [setWindow, onSched, vmod, Vector.getElem_set_ne _ _ hne]

/-- Stale frames leave the head of Q6. -/
theorem dropStale_drops (c : Nat) : ∀ (n : Nat) (d : Dev), (queueOf d p 6).length ≤ n →
    (dropStale p n c d).sched.windows = d.sched.windows ∧ (dropStale p n c d).now = d.now ∧
      ∀ f, (queueOf (dropStale p n c d) p 6).head? = some f → d.now ≤ f.queuedAt + c := fun n => by
  induction n with
  | zero =>
    intro d hn
    refine ⟨rfl, rfl, fun f hf => ?_⟩
    rw [show queueOf (dropStale p 0 c d) p 6 = [] from List.eq_nil_of_length_eq_zero (Nat.le_zero.1 hn)] at hf
    cases hf
  | succ n ih =>
    intro d hn
    unfold dropStale
    cases hh : (queueOf d p 6).head? with
    | none => exact ⟨rfl, rfl, fun f hf => nomatch hh.symm.trans hf⟩
    | some f =>
      dsimp only
      split
      · have hset : Framed [.out, .queues, .host, .ints] (setQueue p 6 (queueOf d p 6).tail d) (settle f 2 (setQueue p 6 (queueOf d p 6).tail d)) :=
          settle_framed f 2 _ (by decide) (.refl _ _)
        have hqs := settle_queues f 2 (setQueue p 6 (queueOf d p 6).tail d)
        generalize settle f 2 (setQueue p 6 (queueOf d p 6).tail d) = y at *
        have hw : (bumpWin (f.window.getD 0) 6 (bump 0x2505 7 y)).sched.windows = d.sched.windows := by
          show (bump 0x2505 7 y).sched.windows = _
          rw [bump_sched, show y.sched = d.sched from hset.same .sched (by decide)]
        have hn' : (bumpWin (f.window.getD 0) 6 (bump 0x2505 7 y)).now = d.now := by
          show (bump 0x2505 7 y).now = _
          rw [bump_now, now_of_framed hset (by decide)]
          rfl
        have hq : queueOf (bumpWin (f.window.getD 0) 6 (bump 0x2505 7 y)) p 6 = (queueOf d p 6).tail := by
          show queueOf (bump 0x2505 7 y) p 6 = _
          rw [bump_queueOf, queueOf_of_queues hqs, queueOf_setQueue_self]
        obtain ⟨h1, h2, h3⟩ := ih (bumpWin (f.window.getD 0) 6 (bump 0x2505 7 y)) (by rw [hq, List.length_tail]; omega)
        exact ⟨h1.trans hw, h2.trans hn', hn' ▸ h3⟩
      · next hc =>
        refine ⟨rfl, rfl, fun g hg => ?_⟩
        rw [hh] at hg
        cases hg
        omega

/-- What the opening of a window does. -/
def windowOpens (p : Port) (g : GateEntry) (c t : Nat) (d : Dev) : Dev :=
  let e := holdCredit p (arriveTrain t d)
  dropStale p (queueOf (setWindow p (some (openAt g t e)) e) p 6).length c (setWindow p (some (openAt g t e)) e)

theorem windowOpen_opens {c b : Nat} {g : GateEntry} (hc : schedCycle s.dev = some (c, b)) (hr : gatesRun s.dev = true)
    (hg : s.dev.sched.gates.find? (fun g => !g.receive && g.port = p && g.window = w.toNat) = some g) :
    let t := firstInstant (b + g.openNs) c (max (trainTime s.dev) (s.dev.sched.cutUntil.getD 0))
    Completes (.windowOpen p w) s fun d =>
      d.sched.windows[p] = some { entry := g, openedAt := t, closeAt := t + (g.length - guardNow s.dev g), closed := false } ∧
      (∀ q : Port, q ≠ p → d.sched.windows[q] = s.dev.sched.windows[q]) ∧
      ∀ f, (queueOf d p 6).head? = some f → d.now ≤ f.queuedAt + c := by
  intro t
  have hrun : exec (.windowOpen p w) s = s.does fun d => windowOpens p g c (firstInstant (b + g.openNs) c (max (trainTime d) (d.sched.cutUntil.getD 0))) d := by
    show execWindowOpen p w s = _
    unfold execWindowOpen
    refine does_congr ?_
    have hc' : schedCycle s.found = some (c, b) := hc
    have hg' : s.found.sched.gates.find? (fun g => !g.receive && g.port = p && g.window = w.toNat) = some g := hg
    rw [hc', hg']
    exact if_pos hr
  refine completes_of_exec hrun ?_
  show _ ∧ _
  have ht : firstInstant (b + g.openNs) c (max (trainTime s.found) (s.found.sched.cutUntil.getD 0)) = t := rfl
  rw [ht]
  clear_value t
  have hs : (holdCredit p (arriveTrain t s.found)).sched = s.dev.sched :=
    ((holdCredit_framed (L := [.strm]) p _ (by decide) (.refl _ _)).same .sched (by decide)).trans (arriveTrain_sched t s.found)
  unfold windowOpens
  dsimp only
  generalize holdCredit p (arriveTrain t s.found) = x at *
  have ho : openAt g t x = { entry := g, openedAt := t, closeAt := t + (g.length - guardNow s.dev g), closed := false } := by
    unfold openAt guardNow
    rw [hs]
  rw [ho]
  obtain ⟨h1, h2, h3⟩ := dropStale_drops (p := p) c _ (setWindow p (some { entry := g, openedAt := t, closeAt := t + (g.length - guardNow s.dev g), closed := false }) x) le_rfl
  refine ⟨?_, fun q hq => ?_, fun f hf => h2.symm ▸ h3 f hf⟩
  · rw [h1, setWindow_self]
  · rw [h1, setWindow_ne hq, hs]

/-! ### RECEIVE_ENTRY_CLOSE and WINDOW_HARD_CLOSE (R238, R246, R259) -/

theorem receiveEntryClose_counts {c b : Nat} {g : GateEntry} {gs : List GateEntry} (hc : schedCycle s.dev = some (c, b)) (ha : scheduleActive s.dev = true)
    (hg : s.dev.sched.gates.filter (fun g => g.receive && g.window = w.toNat) = g :: gs) (hp : g.port = p) :
    Completes (.receiveEntryClose p w) s fun d =>
      (if s.dev.sched.arrived.any (fun x => decide (x.2 = w.toNat)) then cfg d 0x2505 1 = cfg s.dev 0x2505 1
        else cfg d 0x2505 1 = min 0xFFFFFFFF (cfg s.dev 0x2505 1 + 1)) ∧
      d.sched.arrived = s.dev.sched.arrived.filter (fun x => x.2 ≠ w.toNat) := by
  have hrun : exec (.receiveEntryClose p w) s = s.does fun d =>
      let e := arriveTrain (firstInstant (b + g.openNs + g.length) c (trainTime d)) d
      let f := onSched (fun s => { s with arrived := s.arrived.filter (fun x => x.2 ≠ w.toNat) }) e
      if e.sched.arrived.any (fun x => x.2 = w.toNat) then f else countEv 0x011 0 0 1 (bumpWin w.toNat 1 (bump 0x2505 1 f)) := by
    show execReceiveEntryClose p w s = _
    unfold execReceiveEntryClose
    refine does_congr ?_
    have hc' : schedCycle s.found = some (c, b) := hc
    have hg' : s.found.sched.gates.filter (fun g => g.receive && g.window = w.toNat) = g :: gs := hg
    rw [hc', hg']
    refine if_pos ?_
    rw [show scheduleActive s.found = true from ha]
    exact decide_eq_true hp
  refine completes_of_exec hrun ?_
  generalize firstInstant (b + g.openNs + g.length) c (trainTime s.found) = t
  have hs : (arriveTrain t s.found).sched = s.dev.sched := arriveTrain_sched t s.found
  have hcfg : ∀ i j, cfg (arriveTrain t s.found) i j = cfg s.dev i j := cfg_of_dict (arriveTrain_dict t s.found)
  generalize arriveTrain t s.found = x at *
  dsimp only
  rw [hs]
  have harr : (onSched (fun s => { s with arrived := s.arrived.filter (fun x => x.2 ≠ w.toNat) }) x).sched.arrived =
      s.dev.sched.arrived.filter (fun x => x.2 ≠ w.toNat) := by
    show x.sched.arrived.filter _ = _
    rw [hs]
  split
  · exact ⟨hcfg 0x2505 1, harr⟩
  · refine ⟨?_, ?_⟩
    · refine (cfg_bump_self 0x2505 1 _ (by decide +kernel)).trans ?_
      rw [← hcfg]
      rfl
    · show (bump 0x2505 1 _).sched.arrived = _
      rw [bump_sched]
      exact harr

/-- The frame that a window's hard close holds back is counted. -/
def holdsBack (p : Port) (o : OpenWindow) (d : Dev) : Dev :=
  match (queueOf d p 6).head? with
  | some f => bumpWin (f.window.getD o.entry.window) 5 (bump 0x2505 6 d)
  | none => d

theorem holdsBack_rest (o : OpenWindow) (d : Dev) : (holdsBack p o d).sched.windows = d.sched.windows ∧ (holdsBack p o d).fab = d.fab ∧
    cfg (holdsBack p o d) 0x2505 6 = if queueOf d p 6 = [] then cfg d 0x2505 6 else min 0xFFFFFFFF (cfg d 0x2505 6 + 1) := by
  unfold holdsBack
  cases hq : queueOf d p 6 with
  | nil => exact ⟨rfl, rfl, rfl⟩
  | cons f l =>
    refine ⟨?_, bump_fab 0x2505 6 d, cfg_bump_self 0x2505 6 d (by decide +kernel)⟩
    show (bump 0x2505 6 d).sched.windows = _
    rw [bump_sched]

theorem windowHardClose_closes {o : OpenWindow} (ho : windowNow s.dev p = some o) (hc : o.closed = false) : Completes (.windowHardClose p) s fun d =>
    d.sched.windows[p] = some { o with closed := true } ∧ (∀ q : Port, q ≠ p → d.sched.windows[q] = s.dev.sched.windows[q]) ∧
      queueOf d p 6 = queueOf s.dev p 6 ∧ if queueOf s.dev p 6 = [] then cfg d 0x2505 6 = cfg s.dev 0x2505 6
        else cfg d 0x2505 6 = min 0xFFFFFFFF (cfg s.dev 0x2505 6 + 1) := by
  have hrun : exec (.windowHardClose p) s = s.does fun d =>
      let e := holdsBack p o (arriveTrain o.closeAt d)
      resumeCredit p (e.now + (o.openedAt + o.entry.length - trainTime e)) (setWindow p (some { o with closed := true }) e) := by
    show execWindowHardClose p s = _
    unfold execWindowHardClose
    refine does_congr ?_
    have ho' : (windowNow s.found p).filter (fun w => !w.closed) = some o := by
      rw [show windowNow s.found p = some o from ho, Option.filter_some, hc]
      rfl
    rw [ho']
    rfl
  refine completes_of_exec hrun ?_
  have hs : (arriveTrain o.closeAt s.found).sched = s.dev.sched := arriveTrain_sched _ _
  have hf : (arriveTrain o.closeAt s.found).fab = s.dev.fab := arriveTrain_fab _ _
  have hcfg : ∀ i j, cfg (arriveTrain o.closeAt s.found) i j = cfg s.dev i j := cfg_of_dict (arriveTrain_dict _ s.found)
  generalize arriveTrain o.closeAt s.found = x at *
  have hq : queueOf x p 6 = queueOf s.dev p 6 := queueOf_of_queues (by rw [hf]) p 6
  obtain ⟨h1, h2, h3⟩ := holdsBack_rest (p := p) o x
  rw [hq, hcfg] at h3
  dsimp only
  generalize holdsBack p o x = y at *
  generalize y.now + (o.openedAt + o.entry.length - trainTime y) = t
  refine ⟨setWindow_self _ y, fun q hq => (setWindow_ne hq _ y).trans (by rw [h1, hs]), (queueOf_of_queues (b := y) (by rw [h2]) p 6).trans hq, ?_⟩
  have hy : cfg (resumeCredit p t (setWindow p (some { o with closed := true }) y)) 0x2505 6 = cfg y 0x2505 6 := rfl
  rw [hy, h3]
  split <;> rfl

/-! ### SEQUENCE_HISTORY_RESET and HOLDOVER_FENCE_TIME (R244, R247) -/

theorem sequenceReset_resets {t : Nat} (h : (seqOf s.dev w.toNat).resetAt = some t) : Completes (.sequenceHistoryReset w) s fun d =>
    d.now = max s.dev.now t ∧ (∀ v : Nat, v ≠ (seqOf s.dev w.toNat).window → seqOf d v = seqOf s.dev v) ∧
      seqOf d w.toNat = { seqOf s.dev w.toNat with started := false, history := [], resetAt := none } := by
  have hrun : exec (.sequenceHistoryReset w) s = s.does fun d => setSeq { seqOf d w.toNat with started := false, history := [], resetAt := none } (arrive t d) := by
    show execSequenceHistoryReset w s = _
    unfold execSequenceHistoryReset
    refine does_congr ?_
    have h' : (seqOf s.found w.toNat).resetAt = some t := h
    dsimp only
    rw [h']
  refine completes_of_exec hrun ?_
  have hwin : (seqOf s.dev w.toNat).window = w.toNat := by
    unfold seqOf
    cases hf : s.dev.sched.seqs.find? (·.window = w.toNat) with
    | none => rfl
    | some q => exact of_decide_eq_true (List.find?_some (p := fun x : SeqState => decide (x.window = w.toNat)) hf)
  have hs : (arrive t s.found).sched = s.dev.sched := arrive_sched t s.found
  have hn : (arrive t s.found).now = max s.dev.now t := arrive_found t s
  generalize arrive t s.found = x at *
  have hq : seqOf s.found w.toNat = seqOf s.dev w.toNat := rfl
  rw [hq]
  generalize seqOf s.dev w.toNat = q at *
  refine ⟨hn, fun v hv => ?_, ?_⟩
  · have hne : ¬ q.window = v := fun e => hv e.symm
    unfold seqOf setSeq
    dsimp only
    rw [hs, List.find?_cons_of_neg (by simpa using hne), List.find?_filter]
    congr 2
    funext y
    by_cases hy : y.window = v
    · simp [hy, hv]
    · simp [hy]
  · unfold seqOf setSeq
    dsimp only
    rw [List.find?_cons_of_pos (by simpa using hwin)]
    rfl

theorem holdoverFence_fences {t : Nat} (hh : s.dev.time.state = .holdover) (ht : s.dev.time.holdSince = some t) (hr : s.dev.sched.state = .running) :
    Completes .holdoverFenceTime s fun d => d.sched.state = .fenced ∧ cfg d 0x2505 8 = min 0xFFFFFFFF (cfg s.dev 0x2505 8 + 1) ∧
      (∀ p : Port, d.sched.windows[p] = none) ∧ d.now = max s.dev.now (t + cfg s.dev 0x2501 5 * msNs + 1) := by
  have hrun : exec .holdoverFenceTime s = s.does fun d => enterFence (arrive (t + cfg d 0x2501 5 * msNs + 1) d) := by
    show execHoldoverFenceTime s = _
    unfold execHoldoverFenceTime
    refine does_congr ?_
    rw [show s.found.time.state = .holdover from hh, show s.found.time.holdSince = some t from ht]
  refine completes_of_exec hrun ?_
  have hc : cfg s.found 0x2501 5 = cfg s.dev 0x2501 5 := rfl
  rw [hc]
  generalize t + cfg s.dev 0x2501 5 * msNs + 1 = n
  have hs : (arrive n s.found).sched = s.dev.sched := arrive_sched n s.found
  have hcfg : cfg (arrive n s.found) 0x2505 8 = cfg s.dev 0x2505 8 := cfg_of_dict (arrive_dict n s.found) _ _
  have hn : (arrive n s.found).now = max s.dev.now n := arrive_found n s
  generalize arrive n s.found = x at *
  obtain ⟨h1, h2, h3, h4⟩ := enterFence_fences (d := x) (by rw [hs]; exact hr)
  exact ⟨h1, h2.trans (by rw [hcfg]), h3, h4.trans hn⟩

end windows

/-- Settles O36: banks, boundaries and windows, command by command. -/
theorem gatesFollowBanksBoundariesAndWindows : Obligations.GatesFollowBanksBoundariesAndWindows := by
  intro s m shut counter same d0 active
  refine ⟨gateBankBuilt_builds, fun hp ha hl => ?_, ⟨cycle_closes, fun hc => ⟨fun h => cycle_off h hc, fun h => ⟨?_, cycle_waiting_stays hc h⟩,
    fun h => ⟨cycle_running_fences hc h, cycle_running_stays hc h⟩, cycle_fenced hc, cycle_local hc⟩⟩, fun i => activation_forces,
    fun x hp ho ha => activation_waits hp ho ha, fun c b p w g hc => ⟨windowOpen_opens hc, fun gs ha hg hp => receiveEntryClose_counts hc ha hg hp⟩,
    fun p o => windowHardClose_closes, fun w t => sequenceReset_resets, fun t => holdoverFence_fences⟩
  · have hdue : dueImage d0 = m.pending.filter (fun i => decide (activationOf d0 i ≤ trainTime d0)) := by
      unfold dueImage
      rw [show d0.sched = m from arriveTrain_sched _ _]
    have hof : ∀ d, BankChanged m d → d.sched.bankOne = !m.bankOne ∧ d.sched.switchPending = false ∧ d.sched.state = m.state ∧
        d.sched.lastBoundary = trainTime d ∧ ∀ (p : Port), ∀ f ∈ queueOf d p 6, ∃ e ∈ d.sched.gates, e.receive = false ∧ e.port = p ∧ some e.window = f.window :=
      fun d h => ⟨h.bank, h.done, h.state, h.boundary, h.queue⟩
    exact ⟨fun g hd hb he => (gateSwitch_built hp ha hl (hdue.trans hd) hb he).mono fun d ⟨h1, h2⟩ => ⟨hof d h1, h2⟩,
      fun i hd => (gateSwitch_forces hp ha hl (hdue.trans hd)).mono fun d ⟨h1, h2⟩ => ⟨hof d h1, h2⟩, (gateSwitch_changes hp ha hl).mono hof⟩
  · exact fun ⟨h1, h2, h3, h4⟩ => cycle_waiting_ends hc h h1 h2 h3 h4

end Sys2Proof.Machine
end

section
/-! PROOF. Distribution of schedule images: offers, requests, chunks and the checks of a whole image (R231 to R233, R235, R255). -/

namespace Sys2Proof.Machine

section distribution

variable {s : State} {a b d : Dev} {p : Port}

/-! ### Frames of distribution that leave -/

/-- From `a` to `b` frames leave, and nothing else happens. -/
structure Spread (a b : Dev) : Prop where
  framed : Framed [.out, .regs, .queues, .counters] a b
  regs : RegsFramed (allPorts.flatMap frameCounters) a b
  sent : Sent a b

theorem Spread.refl (d : Dev) : Spread d d := ⟨.refl _ d, .refl _ d, .refl d⟩

theorem Spread.trans {c : Dev} (h1 : Spread a b) (h2 : Spread b c) : Spread a c := ⟨h1.framed.trans h2.framed, h1.regs.trans h2.regs, h1.sent.trans h2.sent⟩

theorem Spread.ite {c : Prop} [Decidable c] {e : Dev} (h1 : Spread d a) (h2 : Spread d e) : Spread d (if c then a else e) := by
  split
  exacts [h1, h2]

theorem Spread.forEach {α : Type} {f : α → Dev → Dev} (hf : ∀ x d, Spread d (f x d)) (l : List α) (d : Dev) : Spread d (forEach l f d) := by
  induction l generalizing d with
  | nil => exact .refl d
  | cons x l ih => exact (hf x d).trans (ih (f x d))

theorem Spread.sched (h : Spread a b) : b.sched = a.sched := h.framed.same .sched (by decide)

theorem Spread.now (h : Spread a b) : b.now = a.now := now_of_framed h.framed (by decide)

theorem Spread.portUp (h : Spread a b) (q : Port) : portUp b q = portUp a q := by
  unfold Machine.portUp
  rw [h.framed.same .ports (by decide)]

/-- A register that no frame that leaves counts in. -/
theorem Spread.cfg (h : Spread a b) {idx sub : Nat} (hk : ∀ r ∈ allPorts.flatMap frameCounters, odKey r.1 r.2 ≠ odKey idx sub) :
    Machine.cfg b idx sub = Machine.cfg a idx sub := h.regs.cfg idx sub hk

theorem sendOwn_spread (q : Fin 8) (bs : List Byte) (d : Dev) : Spread d (sendOwn p q bs d) where
  framed := sendOwn_framed (L := [.out, .regs, .queues, .counters]) p q bs d (by decide) (.refl _ d)
  regs := (sendOwn_regs p q bs d).mono fun r hr => List.mem_flatMap.2 ⟨p, by simp [allPorts], hr⟩
  sent := .of_eq (sendOwn_out p q bs d)

theorem sendDist_spread (p : Port) (kind identity generation activation number crc : Nat) (data : List Byte) (d : Dev) :
    Spread d (sendDist p kind identity generation activation number crc data d) :=
  Spread.trans ⟨emit_framed _ d (by decide) (.refl _ d), .of_same rfl, emit_sent _ d⟩ (sendOwn_spread _ _ _)

theorem sendDist_mem (p : Port) (kind identity generation activation number crc : Nat) (data : List Byte) (d : Dev) :
    Out.dist p kind identity generation activation number crc data ∈ (sendDist p kind identity generation activation number crc data d).out :=
  (sendOwn_spread _ _ _).sent _ (emit_mem _ d)

theorem sendOffers_spread (p : Port) (d : Dev) : Spread d (sendOffers p d) := .ite (.forEach (fun _ => sendDist_spread _ _ _ _ _ _ _ _) _ d) (.refl d)

theorem offerAll_spread (d : Dev) : Spread d (offerAll d) := .forEach sendOffers_spread _ d

/-- The OFFER of an image. -/
def offerOf (p : Port) (i : SchedImage) : Out := .dist p 1 i.identity.toNat i.generation i.activation i.raw.length (crc32 i.raw).toNat []

/-- What a list of steps that spread sends, it has sent at the end. -/
theorem forEach_mem {α : Type} {f : α → Dev → Dev} (hf : ∀ x d, Spread d (f x d)) {o : Out} {x : α} {P : Dev → Prop}
    (hP : ∀ a b, Spread a b → P a → P b) (hx : ∀ d, P d → o ∈ (f x d).out) : ∀ (l : List α) (d : Dev), x ∈ l → P d → o ∈ (forEach l f d).out := fun l => by
  induction l with
  | nil => exact fun _ h => nomatch h
  | cons y l ih =>
    intro d hm hd
    rcases List.mem_cons.1 hm with rfl | h
    · exact (Spread.forEach hf l (f x d)).sent _ (hx d hd)
    · exact ih (f y d) h (hP _ _ (hf y d) hd)

theorem spread_2501 (h : Spread a b) (i : Fin 8) : cfg b 0x2501 i.val = cfg a 0x2501 i.val := by
  revert i
  exact fun i => h.cfg (by revert i; decide +kernel)

theorem sendOffers_mem {i : SchedImage} (hup : portUp d p = true) (hc : cfg d 0x2501 1 = 1) (hi : i ∈ d.sched.image.toList ++ d.sched.pending.toList) :
    offerOf p i ∈ (sendOffers p d).out := by
  unfold sendOffers
  rw [hup, decide_eq_true hc, if_pos (show (true && true) = true from rfl)]
  exact forEach_mem (P := fun _ => True) (fun _ => sendDist_spread _ _ _ _ _ _ _ _) (fun _ _ _ _ => trivial) (fun e _ => sendDist_mem _ _ _ _ _ _ _ _ e) _ d hi trivial

/-- Every image held is offered on every backbone port that is Up. -/
theorem offerAll_mem {i : SchedImage} (hb : isBackbone p = true) (hup : portUp d p = true) (hc : cfg d 0x2501 1 = 1)
    (hi : i ∈ d.sched.image.toList ++ d.sched.pending.toList) : offerOf p i ∈ (offerAll d).out := by
  have hmem : ∀ p : Port, isBackbone p = true → p ∈ backbonePorts := by decide
  refine forEach_mem (P := fun e => portUp e p = true ∧ cfg e 0x2501 1 = 1 ∧ i ∈ e.sched.image.toList ++ e.sched.pending.toList) sendOffers_spread
    (fun a b h ⟨h1, h2, h3⟩ => ⟨(h.portUp p).trans h1, (spread_2501 h 1).trans h2, by rw [h.sched]; exact h3⟩) (fun e ⟨h1, h2, h3⟩ => sendOffers_mem h1 h2 h3)
    _ d (hmem p hb) ⟨hup, hc, hi⟩

/-! ### The next chunk is asked for (R233) -/

/-- From `a` to `b` the chunk of the reception `r` is asked for. -/
structure Asked (r : Reception) (a b : Dev) : Prop where
  sched : b.sched = { a.sched with reception := some { r with deadline := a.now + 10 * msNs } }
  now : b.now = a.now
  request : Out.dist r.port 2 (cfg a 0x2501 2) r.generation 0 r.chunk 0 [] ∈ b.out

theorem requestChunk_asks {r : Reception} (h : d.sched.reception = some r) : Asked r d (requestChunk d) := by
  have hx : requestChunk d = sendDist r.port 2 (cfg d 0x2501 2) r.generation 0 r.chunk 0 []
      (onSched (fun s => { s with reception := some { r with deadline := d.now + 10 * msNs } }) d) := by
    unfold requestChunk
    rw [h]
  rw [hx]
  have hs := sendDist_spread r.port 2 (cfg d 0x2501 2) r.generation 0 r.chunk 0 [] (onSched (fun s => { s with reception := some { r with deadline := d.now + 10 * msNs } }) d)
  exact ⟨hs.sched, hs.now, sendDist_mem _ _ _ _ _ _ _ _ _⟩

/-! ### Frames of distribution that arrive (R166, R175, R231) -/

/-- A frame of distribution is counted as good. -/
structure Heard (p : Port) (n : Nat) (a b : Dev) : Prop where
  counted : FrameCounted a b p (frameLen (32 + n))
  framed : Framed [.regs, .counters] a b
  regs : RegsFramed (goodCounters p) a b

theorem countGood_heard (p : Port) (n : Nat) (d : Dev) : Heard p n d (countGood p (frameLen (32 + n)) d) where
  counted := countGood_counted p (by unfold frameLen; omega) d
  framed := countGood_framed p _ d (by decide) (.refl _ d)
  regs := countGood_goodCounters p _ d

theorem Heard.cfg {n : Nat} (h : Heard p n a b) {idx sub : Nat} (hk : odKey 0x2400 0 ≤ odKey idx sub) : Machine.cfg b idx sub = Machine.cfg a idx sub := by
  have hp := p.isLt
  refine h.regs.cfg _ _ fun r hr => ?_
  unfold goodCounters at hr
  simp only [List.mem_cons, List.not_mem_nil, or_false] at hr
  unfold odKey at hk ⊢
  rcases hr with rfl | rfl <;> dsimp only <;> omega

theorem Heard.sched {n : Nat} (h : Heard p n a b) : b.sched = a.sched := h.framed.same .sched (by decide)

theorem Heard.out {n : Nat} (h : Heard p n a b) : b.out = a.out := h.framed.same .out (by decide)

theorem Heard.pow {n : Nat} (h : Heard p n a b) : b.pow = a.pow := h.framed.same .pow (by decide)

/-- A frame that breaks its layout is counted and dropped. -/
def Dropped (p : Port) (n : Nat) (s : State) (d : Dev) : Prop :=
  cfg d 0x2505 0x0B = min 0xFFFFFFFF (cfg s.dev 0x2505 0x0B + 1) ∧ FrameCounted s.dev d p (frameLen (32 + n)) ∧
    RegsFramed [(0x2505, 0x0B), (0x2300 + p.val, 0x23), (0x2300 + p.val, 0x24)] s.found d ∧ Framed [.regs, .counters] s.found d

theorem Heard.drops {n : Nat} (h : Heard p n s.found b) : Dropped p n s (distDrop b) := by
  have hp := p.isLt
  have hcfg : ∀ i, Machine.cfg (distDrop b) (0x2300 + p.val) i = Machine.cfg b (0x2300 + p.val) i ∨ 256 ≤ i := fun i => by
    by_cases hi : i < 256
    · exact .inl (cfg_bump_ne _ _ _ _ _ (by unfold odKey; omega))
    · exact .inr (by omega)
  refine ⟨?_, ⟨((hcfg 0x23).resolve_right (by decide)).trans h.counted.1, ((hcfg 0x24).resolve_right (by decide)).trans h.counted.2⟩, ?_, ?_⟩
  · refine (cfg_bump_self _ _ _ (by decide +kernel)).trans ?_
    rw [h.cfg (by decide)]
    rfl
  · exact ((h.regs).mono fun r hr => List.mem_cons_of_mem _ hr).bump _ _ (.head _)
  · exact bump_framed _ _ b (by decide) h.framed

theorem takeDist_up (hup : portUp d p = true) (kind : Nat) (h : DistHeader) (data : List Byte) (f : Dev → Dev) : takeDist p kind h data f d =
    if distOk p kind data.length h then f (countGood p (frameLen (32 + data.length)) d) else distDrop (countGood p (frameLen (32 + data.length)) d) := by
  unfold takeDist
  rw [hup]
  rfl

/-- A frame of distribution on a port that is Up: dropped, or taken. -/
theorem completes_dist {c : Instr} {kind : Nat} {h : DistHeader} {data : List Byte} {f : Dev → Dev} (hrun : exec c s = s.does (takeDist p kind h data f))
    (hup : portUp s.dev p = true) :
    (distOk p kind data.length h = false → Completes c s (Dropped p data.length s)) ∧
      ∀ {P : Dev → Prop}, distOk p kind data.length h = true → (∀ b, Heard p data.length s.found b → P (f b)) → Completes c s P := by
  have hx := takeDist_up (d := s.found) hup kind h data f
  have hheard := countGood_heard p data.length s.found
  refine ⟨fun hok => completes_of_exec hrun ?_, fun hok hP => completes_of_exec hrun ?_⟩
  · rw [hx, hok, if_neg Bool.false_ne_true]
    exact hheard.drops
  · rw [hx, hok, if_pos rfl]
    exact hP _ hheard

/-! ### OFFER (R233, R235) -/

/-- The first step of a reception. -/
def firstChunk (p : Port) (h : DistHeader) (now : Nat) : Reception :=
  { generation := h.generation.toNat, size := h.number.toNat, crc := h.crc, activation := h.activation.toNat
    port := p, chunk := 0, repeats := 0, data := [], deadline := now + 10 * msNs, verifying := false }

/-- The node knows of a generation. -/
def knows (p : Port) (h : DistHeader) (d : Dev) : Dev :=
  onSched (fun s => { s with
    offers := (p, h.generation.toNat) :: s.offers.filter (fun x => x ≠ (p, h.generation.toNat))
    offered := if s.offered.any (fun x => decide (h.generation.toNat < x.1)) then s.offered else some (h.generation.toNat, h.activation.toNat) }) d

/-- What an OFFER that keeps its layout does. -/
def takeOffer (p : Port) (h : DistHeader) (d : Dev) : Dev :=
  if cfg d 0x2501 1 = 1 && h.identity.toNat = cfg d 0x2501 2 && h.identity ≠ 0 && newlyOffered d h.generation.toNat then
    if !d.pow.agentReady || d.sched.reception.any (fun r => h.generation.toNat ≤ r.generation) then knows p h d
    else requestChunk (onSched (fun s => { s with lastRefused := false, reception := some (firstChunk p h d.now) }) (knows p h d))
  else d

theorem offer_exec (x : DistHead) (y : DistTail) : exec (.offer p x y.number y.crc y.activation) s = s.does (takeDist p 1 ⟨x, y⟩ [] (takeOffer p ⟨x, y⟩)) := rfl

theorem knows_known (h : DistHeader) (d : Dev) : (p, h.generation.toNat) ∈ (knows p h d).sched.offers ∧ (knows p h d).sched.offered ≠ none := by
  refine ⟨.head _, ?_⟩
  show (if d.sched.offered.any (fun x => decide (h.generation.toNat < x.1)) then d.sched.offered else some (h.generation.toNat, h.activation.toNat)) ≠ none
  split
  · next hany =>
    intro hn
    rw [hn] at hany
    cases hany
  · exact fun hn => nomatch hn

section offer

variable {h : DistHeader} {n : Nat} (hb : Heard p n s.found b) (h1 : cfg s.dev 0x2501 1 = 1) (hid : h.identity.toNat = cfg s.dev 0x2501 2)
  (h0 : h.identity ≠ 0) (hnew : ∀ i ∈ s.dev.sched.image.toList ++ s.dev.sched.pending.toList, i.generation < h.generation.toNat)
include hb h1 hid h0 hnew

theorem takeOffer_known : takeOffer p h b = if !s.dev.pow.agentReady || s.dev.sched.reception.any (fun r => h.generation.toNat ≤ r.generation) then knows p h b
    else requestChunk (onSched (fun s => { s with lastRefused := false, reception := some (firstChunk p h b.now) }) (knows p h b)) := by
  have hcond : (cfg b 0x2501 1 = 1 && h.identity.toNat = cfg b 0x2501 2 && h.identity ≠ 0 && newlyOffered b h.generation.toNat) = true := by
    have hall : newlyOffered b h.generation.toNat = true := by
      unfold newlyOffered heldGenerations
      rw [hb.sched]
      simp only [List.all_map, List.all_eq_true]
      exact fun i hi => decide_eq_true (hnew i hi)
    rw [hall, hb.cfg (by decide), hb.cfg (by decide)]
    simp only [Bool.and_true, Bool.and_eq_true, decide_eq_true_eq]
    exact ⟨⟨h1, hid⟩, h0⟩
  unfold takeOffer
  rw [hcond, if_pos rfl, hb.pow, hb.sched]
  rfl

theorem takeOffer_requests (hr : s.dev.pow.agentReady = true) (hbe : ∀ r, s.dev.sched.reception = some r → r.generation < h.generation.toNat) :
    (takeOffer p h b).sched.reception = some { firstChunk p h 0 with deadline := (takeOffer p h b).now + 10 * msNs } ∧
      Out.dist p 2 (cfg s.dev 0x2501 2) h.generation.toNat 0 0 0 [] ∈ (takeOffer p h b).out ∧
      (p, h.generation.toNat) ∈ (takeOffer p h b).sched.offers ∧ (takeOffer p h b).sched.offered ≠ none := by
  have hany : (!s.dev.pow.agentReady || s.dev.sched.reception.any (fun r => h.generation.toNat ≤ r.generation)) = false := by
    rw [hr]
    cases hrec : s.dev.sched.reception with
    | none => rfl
    | some r => exact decide_eq_false (Nat.not_le.2 (hbe r hrec))
  rw [takeOffer_known hb h1 hid h0 hnew, hany, if_neg Bool.false_ne_true]
  have hk := knows_known (p := p) h b
  have hcfg : cfg (knows p h b) 0x2501 2 = cfg s.dev 0x2501 2 := hb.cfg (by decide)
  have ha := requestChunk_asks (d := onSched (fun s => { s with lastRefused := false, reception := some (firstChunk p h b.now) }) (knows p h b)) rfl
  generalize requestChunk _ = y at *
  refine ⟨?_, ?_, ?_, ?_⟩
  · rw [ha.sched, ha.now]
    rfl
  · rw [← hcfg]
    exact ha.request
  · rw [ha.sched]
    exact hk.1
  · rw [ha.sched]
    exact hk.2

theorem takeOffer_notes (hr : s.dev.pow.agentReady = false ∨ ¬ ∀ r, s.dev.sched.reception = some r → r.generation < h.generation.toNat) :
    (takeOffer p h b).sched.reception = s.dev.sched.reception ∧
      ((p, h.generation.toNat) ∈ (takeOffer p h b).sched.offers ∧ (takeOffer p h b).sched.offered ≠ none) ∧
      Framed [.sched, .regs, .counters] s.found (takeOffer p h b) := by
  have hany : (!s.dev.pow.agentReady || s.dev.sched.reception.any (fun r => h.generation.toNat ≤ r.generation)) = true := by
    rcases hr with hr | hr
    · rw [hr]
      rfl
    · cases hrec : s.dev.sched.reception with
      | none => exact absurd (fun r he => nomatch hrec.symm.trans he) hr
      | some r =>
        have hle : h.generation.toNat ≤ r.generation := Nat.not_lt.1 fun hlt => hr fun q he => by
          cases hrec.symm.trans he
          exact hlt
        show (_ || decide (h.generation.toNat ≤ r.generation)) = true
        rw [decide_eq_true hle, Bool.or_true]
  rw [takeOffer_known hb h1 hid h0 hnew, hany, if_pos rfl]
  refine ⟨(congrArg SchedS.reception hb.sched : b.sched.reception = _), knows_known h b, ?_⟩
  exact (hb.framed.mono (by decide)).trans fun q => by cases q <;> first | exact .inl (by decide) | exact .inr rfl

end offer

/-! ### REQUEST and CHUNK (R233) -/

/-- What a REQUEST that keeps its layout does. -/
def takeRequest (p : Port) (h : DistHeader) (d : Dev) : Dev :=
  match (d.sched.image.toList ++ d.sched.pending.toList).find? (fun i => i.identity = h.identity && i.generation = h.generation.toNat) with
  | some i => if (slice i.raw (1024 * h.number.toNat) 1024).isEmpty then d
    else sendDist p 3 i.identity.toNat i.generation 0 h.number.toNat 0 (slice i.raw (1024 * h.number.toNat) 1024) d
  | none => d

theorem request_exec (x : DistHead) (y : DistTail) : exec (.request p x y) s = s.does (takeDist p 2 ⟨x, y⟩ [] (takeRequest p ⟨x, y⟩)) := rfl

theorem takeRequest_answers {h : DistHeader} {n : Nat} (hb : Heard p n s.found b) {i : SchedImage}
    (hi : (s.dev.sched.image.toList ++ s.dev.sched.pending.toList).find? (fun i => i.identity = h.identity && i.generation = h.generation.toNat) = some i)
    (hne : slice i.raw (1024 * h.number.toNat) 1024 ≠ []) : Framed [.out, .queues, .regs, .counters] s.found (takeRequest p h b) ∧
      Out.dist p 3 h.identity.toNat h.generation.toNat 0 h.number.toNat 0 (slice i.raw (1024 * h.number.toNat) 1024) ∈ (takeRequest p h b).out := by
  have hfit := List.find?_some hi
  simp only [Bool.and_eq_true, decide_eq_true_eq] at hfit
  obtain ⟨hid, hgen⟩ := hfit
  have hx : takeRequest p h b = sendDist p 3 h.identity.toNat h.generation.toNat 0 h.number.toNat 0 (slice i.raw (1024 * h.number.toNat) 1024) b := by
    unfold takeRequest
    rw [hb.sched]
    have hi' : (s.found.sched.image.toList ++ s.found.sched.pending.toList).find? (fun i => i.identity = h.identity && i.generation = h.generation.toNat) = some i := hi
    rw [hi']
    dsimp only
    rw [if_neg fun he => hne (List.isEmpty_iff.1 he), hid, hgen]
  rw [hx]
  exact ⟨(hb.framed.mono (by decide)).trans ((sendDist_spread _ _ _ _ _ _ _ _ b).framed.mono (by decide)), sendDist_mem _ _ _ _ _ _ _ _ b⟩

/-- A reception with a chunk more. -/
def Reception.more (r : Reception) (data : List Byte) : Reception := { r with data := r.data ++ data, chunk := r.chunk + 1, repeats := 0 }

/-- What a CHUNK that keeps its layout does. -/
def takeChunk (p : Port) (h : DistHeader) (data : List Byte) (d : Dev) : Dev :=
  match d.sched.reception with
  | some r =>
    if r.port = p && r.generation = h.generation.toNat && h.identity.toNat = cfg d 0x2501 2 && !r.verifying && h.number.toNat = r.chunk then
      if data.length = min 1024 (r.size - r.data.length) then
        if r.size ≤ (r.more data).data.length then onSched (fun s => { s with reception := some { r.more data with verifying := true } }) d
        else
          let d1 := onSched (fun s => { s with reception := some (r.more data) }) d
          if d.pow.agentReady then requestChunk d1 else d1
      else distDrop d
    else d
  | none => d

theorem chunk_exec (x : DistHead) (y : DistTail) (data : List Byte) : exec (.chunk p x y data) s = s.does (takeDist p 3 ⟨x, y⟩ data (takeChunk p ⟨x, y⟩ data)) := rfl

/-- Every part but the schedule stands, and of the schedule the reception alone moves. -/
theorem received_framed {n : Nat} (hb : Heard p n s.found b) (q : Reception) : (onSched (fun s => { s with reception := some q }) b).sched = { s.dev.sched with reception := some q } ∧
    Framed [.sched, .regs, .counters] s.found (onSched (fun s => { s with reception := some q }) b) := by
  refine ⟨congrArg (fun x : SchedS => { x with reception := some q }) hb.sched, (hb.framed.mono (by decide)).trans fun x => ?_⟩
  cases x <;> first | exact .inl (by decide) | exact .inr rfl

section chunk

variable {h : DistHeader} {data : List Byte} {n : Nat} (hb : Heard p n s.found b) {r : Reception} (hr : s.dev.sched.reception = some r) (hp : r.port = p)
  (hg : r.generation = h.generation.toNat) (hid : h.identity.toNat = cfg s.dev 0x2501 2) (hv : r.verifying = false) (hn : h.number.toNat = r.chunk)
include hb hr hp hg hid hv hn

theorem takeChunk_expected : takeChunk p h data b = if data.length = min 1024 (r.size - r.data.length) then
      if r.size ≤ (r.more data).data.length then onSched (fun s => { s with reception := some { r.more data with verifying := true } }) b
      else if s.dev.pow.agentReady then requestChunk (onSched (fun s => { s with reception := some (r.more data) }) b)
        else onSched (fun s => { s with reception := some (r.more data) }) b
    else distDrop b := by
  unfold takeChunk
  have hrec : b.sched.reception = some r := (congrArg SchedS.reception hb.sched).trans hr
  rw [hrec]
  dsimp only
  have hcond : (r.port = p && r.generation = h.generation.toNat && h.identity.toNat = cfg b 0x2501 2 && !r.verifying && h.number.toNat = r.chunk) = true := by
    rw [hb.cfg (by decide), hv]
    simp only [Bool.and_eq_true, decide_eq_true_eq, Bool.not_false, and_true]
    exact ⟨⟨⟨hp, hg⟩, hid⟩, hn⟩
  rw [if_pos hcond, hb.pow]
  rfl

theorem takeChunk_asks (hl : data.length = min 1024 (r.size - r.data.length)) (hmore : (r.more data).data.length < r.size) (ha : s.dev.pow.agentReady = true) :
    (takeChunk p h data b).sched.reception = some { r.more data with deadline := (takeChunk p h data b).now + 10 * msNs } ∧
      Out.dist r.port 2 (cfg s.dev 0x2501 2) r.generation 0 (r.chunk + 1) 0 [] ∈ (takeChunk p h data b).out := by
  rw [takeChunk_expected hb hr hp hg hid hv hn, if_pos hl, if_neg (Nat.not_le.2 hmore), if_pos ha]
  have hcfg : cfg (onSched (fun s => { s with reception := some (r.more data) }) b) 0x2501 2 = cfg s.dev 0x2501 2 := hb.cfg (by decide)
  have hask := requestChunk_asks (d := onSched (fun s => { s with reception := some (r.more data) }) b) rfl
  generalize requestChunk _ = y at *
  refine ⟨?_, ?_⟩
  · rw [hask.sched, hask.now]
  · rw [← hcfg]
    exact hask.request

theorem takeChunk_stops (hl : data.length = min 1024 (r.size - r.data.length)) (hmore : (r.more data).data.length < r.size) (ha : s.dev.pow.agentReady = false) :
    (takeChunk p h data b).sched = { s.dev.sched with reception := some (r.more data) } ∧ Framed [.sched, .regs, .counters] s.found (takeChunk p h data b) := by
  rw [takeChunk_expected hb hr hp hg hid hv hn, if_pos hl, if_neg (Nat.not_le.2 hmore), if_neg (by rw [ha]; exact Bool.false_ne_true)]
  exact received_framed hb _

theorem takeChunk_ends (hl : data.length = min 1024 (r.size - r.data.length)) (hmore : r.size ≤ (r.more data).data.length) :
    (takeChunk p h data b).sched = { s.dev.sched with reception := some { r.more data with verifying := true } } ∧
      Framed [.sched, .regs, .counters] s.found (takeChunk p h data b) := by
  rw [takeChunk_expected hb hr hp hg hid hv hn, if_pos hl, if_pos hmore]
  exact received_framed hb _

theorem takeChunk_drops (hl : data.length ≠ min 1024 (r.size - r.data.length)) : cfg (takeChunk p h data b) 0x2505 0x0B = min 0xFFFFFFFF (cfg s.dev 0x2505 0x0B + 1) ∧
    (takeChunk p h data b).sched = s.dev.sched ∧ (takeChunk p h data b).out = [] := by
  rw [takeChunk_expected hb hr hp hg hid hv hn, if_neg hl]
  refine ⟨hb.drops.1, ?_, ?_⟩
  · unfold distDrop
    rw [bump_sched, hb.sched]
    rfl
  · unfold distDrop
    rw [bump_out, hb.out]
    rfl

end chunk

/-! ### OFFER_PERIOD and CHUNK_TIMEOUT (R232, R233, R255) -/

/-- The offers that leave at a period or after a switch point. -/
structure Offers (s : State) (n : Nat) (m : SchedS) (d : Dev) : Prop where
  offers : ∀ p : Port, isBackbone p = true → portUp s.dev p = true → cfg s.dev 0x2501 1 = 1 →
    ∀ i ∈ s.dev.sched.image.toList ++ s.dev.sched.pending.toList, offerOf p i ∈ d.out
  now : d.now = max s.dev.now n
  sched : d.sched = m

theorem offerAll_offers (n : Nat) (u : SchedS → SchedS) (hi : ∀ m, (u m).image = m.image) (hp : ∀ m, (u m).pending = m.pending) :
    Offers s n (u s.dev.sched) (offerAll (onSched u (arrive n s.found))) := by
  have hs : (arrive n s.found).sched = s.dev.sched := arrive_sched n s.found
  have hn : (arrive n s.found).now = max s.dev.now n := arrive_found n s
  have hc : cfg (arrive n s.found) 0x2501 1 = cfg s.dev 0x2501 1 := cfg_of_dict (arrive_dict n s.found) _ _
  have hports : (arrive n s.found).ports = s.dev.ports := arrive_ports n s.found
  generalize arrive n s.found = x at *
  have h := offerAll_spread (onSched u x)
  refine ⟨fun p hb hup hone i hmem => offerAll_mem hb ?_ (hc.trans hone) ?_, h.now.trans hn, h.sched.trans (congrArg u hs)⟩
  · show decide (x.ports.p[p].link = .up) = true
    rw [hports]
    exact hup
  · show i ∈ (u x.sched).image.toList ++ (u x.sched).pending.toList
    rw [hi, hp, hs]
    exact hmem

/-- The OFFERs of the period. -/
theorem offerPeriod_period {t : Nat} (ht : s.dev.sched.offerDue = some t) (hu : ∀ u, s.dev.sched.switchOffer = some u → t ≤ u) :
    Completes .offerPeriod s fun d => (∃ m, Offers s t m d) ∧ d.sched.offerDue = some (d.now + cfg s.dev 0x2501 7 * sNs) ∧
      d.sched.switchOffer = s.dev.sched.switchOffer := by
  have hrun : exec .offerPeriod s = s.does (offerPeriodically t) := by
    show execOfferPeriod s = _
    unfold execOfferPeriod
    refine does_congr ?_
    rw [show s.found.sched.offerDue = some t from ht]
    cases hs : s.found.sched.switchOffer with
    | none => rfl
    | some u => exact if_neg (Nat.not_lt.2 (hu u hs))
  refine completes_of_exec hrun ?_
  have hc : cfg (arrive t s.found) 0x2501 7 = cfg s.dev 0x2501 7 := cfg_of_dict (arrive_dict t s.found) _ _
  have hn : (arrive t s.found).now = max s.dev.now t := arrive_found t s
  unfold offerPeriodically
  dsimp only
  rw [hc, hn]
  generalize cfg s.dev 0x2501 7 * sNs = k
  have h := offerAll_offers (s := s) t (fun m => { m with offerDue := some (max s.dev.now t + k) }) (fun _ => rfl) (fun _ => rfl)
  generalize offerAll _ = y at *
  refine ⟨⟨_, h⟩, ?_, ?_⟩
  · rw [h.sched, h.now]
  · rw [h.sched]

/-- The OFFERs after a switch point. -/
theorem offerPeriod_switch {t u : Nat} (ht : s.dev.sched.offerDue = some t) (hs : s.dev.sched.switchOffer = some u) (hu : u < t) :
    Completes .offerPeriod s fun d => (∃ m, Offers s u m d) ∧ d.sched.offerDue = some t ∧ d.sched.switchOffer = none := by
  have hrun : exec .offerPeriod s = s.does fun d => offerAll (onSched (fun s => { s with switchOffer := none }) (arrive u d)) := by
    show execOfferPeriod s = _
    unfold execOfferPeriod
    refine does_congr ?_
    rw [show s.found.sched.offerDue = some t from ht, show s.found.sched.switchOffer = some u from hs]
    exact if_pos hu
  refine completes_of_exec hrun ?_
  have h := offerAll_offers (s := s) u (fun m => { m with switchOffer := none }) (fun _ => rfl) (fun _ => rfl)
  generalize offerAll _ = y at *
  refine ⟨⟨_, h⟩, ?_, ?_⟩
  · rw [h.sched]
    exact ht
  · rw [h.sched]

/-- What a missing chunk leads to, at its deadline. -/
def chunkMissing (r : Reception) (d : Dev) : Dev :=
  if !d.pow.agentReady then onSched (fun s => { s with reception := none }) d
  else if r.repeats < 3 then requestChunk (onSched (fun s => { s with reception := some { r with repeats := r.repeats + 1 } }) d)
  else
    let left := d.sched.offers.filter (fun x => x ≠ (r.port, r.generation))
    match left.find? (fun x => x.2 = r.generation) with
    | some (q, _) => requestChunk (onSched (fun s => { s with offers := left, reception := some { r with port := q, repeats := 0 } }) d)
    | none => onSched (fun s => { s with offers := left, reception := none }) d

section timeout

variable {r : Reception} (hr : s.dev.sched.reception = some r) (hv : r.verifying = false)
include hr hv

theorem chunkTimeout_exec : exec .chunkTimeout s = s.does fun d => chunkMissing r (arrive r.deadline d) := by
  show execChunkTimeout s = _
  unfold execChunkTimeout
  refine does_congr ?_
  rw [show s.found.sched.reception = some r from hr]
  dsimp only
  exact if_neg (by rw [hv]; exact Bool.false_ne_true)

/-- A chunk of the reception is asked for at the deadline of the one before. -/
theorem chunkTimeout_of (P : Dev → Prop) (h : ∀ x, x.sched = s.dev.sched → x.pow = s.dev.pow → x.out = [] → x.now = max s.dev.now r.deadline →
    cfg x 0x2501 2 = cfg s.dev 0x2501 2 → P (chunkMissing r x)) : Completes .chunkTimeout s P :=
  completes_of_exec (chunkTimeout_exec hr hv)
    (h _ (arrive_sched _ _) (arrive_pow _ _) (arrive_out _ _) (arrive_found r.deadline s) (cfg_of_dict (arrive_dict _ _) _ _))

theorem chunkTimeout_stops (ha : s.dev.pow.agentReady = false) : Completes .chunkTimeout s fun d =>
    d.sched.reception = none ∧ d.out = [] ∧ d.now = max s.dev.now r.deadline := by
  refine chunkTimeout_of hr hv _ fun x hs hp ho hn hc => ?_
  unfold chunkMissing
  rw [hp, ha, if_pos (show (!false) = true from rfl)]
  exact ⟨rfl, ho, hn⟩

theorem chunkTimeout_repeats (ha : s.dev.pow.agentReady = true) (h3 : r.repeats < 3) : Completes .chunkTimeout s fun d =>
    (d.sched.reception = some { r with repeats := r.repeats + 1, deadline := d.now + 10 * msNs } ∧
      Out.dist r.port 2 (cfg s.dev 0x2501 2) r.generation 0 r.chunk 0 [] ∈ d.out) ∧ d.now = max s.dev.now r.deadline := by
  refine chunkTimeout_of hr hv _ fun x hs hp ho hn hc => ?_
  unfold chunkMissing
  rw [hp, ha, if_neg (show ¬ (!true) = true by decide), if_pos h3]
  have h := requestChunk_asks (d := onSched (fun s => { s with reception := some { r with repeats := r.repeats + 1 } }) x) rfl
  generalize requestChunk _ = y at *
  refine ⟨⟨?_, ?_⟩, h.now.trans hn⟩
  · rw [h.sched, h.now]
  · rw [← hc]
    exact h.request

theorem chunkTimeout_turns (ha : s.dev.pow.agentReady = true) (h3 : 3 ≤ r.repeats) {x : Port × Nat}
    (hx : (s.dev.sched.offers.filter (fun x => x ≠ (r.port, r.generation))).find? (fun x => x.2 = r.generation) = some x) :
    Completes .chunkTimeout s fun d => (d.sched.reception = some { r with port := x.1, repeats := 0, deadline := d.now + 10 * msNs } ∧
      Out.dist x.1 2 (cfg s.dev 0x2501 2) r.generation 0 r.chunk 0 [] ∈ d.out) ∧
      d.sched.offers = s.dev.sched.offers.filter (fun x => x ≠ (r.port, r.generation)) := by
  refine chunkTimeout_of hr hv _ fun e hs hp ho hn hc => ?_
  unfold chunkMissing
  rw [hp, ha, if_neg (show ¬ (!true) = true by decide), if_neg (Nat.not_lt.2 h3), hs]
  dsimp only
  rw [hx]
  dsimp only
  generalize s.dev.sched.offers.filter (fun x => x ≠ (r.port, r.generation)) = left
  have h := requestChunk_asks (d := onSched (fun s => { s with offers := left, reception := some { r with port := x.1, repeats := 0 } }) e) rfl
  generalize requestChunk _ = y at *
  refine ⟨⟨?_, ?_⟩, ?_⟩
  · rw [h.sched, h.now]
  · rw [← hc]
    exact h.request
  · rw [h.sched]
    rfl

theorem chunkTimeout_gives_up (ha : s.dev.pow.agentReady = true) (h3 : 3 ≤ r.repeats)
    (hx : (s.dev.sched.offers.filter (fun x => x ≠ (r.port, r.generation))).find? (fun x => x.2 = r.generation) = none) :
    Completes .chunkTimeout s fun d => d.sched.reception = none ∧ d.out = [] ∧ d.now = max s.dev.now r.deadline := by
  refine chunkTimeout_of hr hv _ fun e hs hp ho hn hc => ?_
  unfold chunkMissing
  rw [hp, ha, if_neg (show ¬ (!true) = true by decide), if_neg (Nat.not_lt.2 h3), hs]
  dsimp only
  rw [hx]
  exact ⟨rfl, ho, hn⟩

end timeout

/-! ### SCHEDULE_IMAGE_VERIFIED (R233, R236) -/

section verified

variable {r : Reception} (hr : s.dev.sched.reception = some r) (hv : r.verifying = true)

/-- The checks of a whole image (R233). -/
def passesChecks (r : Reception) (i : SchedImage) (d : Dev) : Bool :=
  crc32 r.data = r.crc && imageSigned d r.data && i.identity.toNat = cfg d 0x2501 2 && i.generation = r.generation

/-- The reception ends. -/
def receptionEnds (d : Dev) : Dev := onSched (fun s => { s with reception := none }) d

/-- A whole image is written to 0x2503:01, and saved where the eMMC is ready. -/
def imageStored (r : Reception) (d : Dev) : Dev := onlyIf (emmcReady (setBytes 0x2503 1 r.data d)) saveCopy (setBytes 0x2503 1 r.data d)

include hr hv

theorem imageVerified_exec : exec .scheduleImageVerified s = s.does fun d =>
    match parseImage r.data with
    | some i => if passesChecks r i d then adoptImage { i with activation := r.activation } (imageStored r (receptionEnds d))
      else execScheduleImageVerified.refuse (onlyIf (!imageSigned d r.data) refuseSignature (receptionEnds d))
    | none => execScheduleImageVerified.refuse (receptionEnds d) := by
  show execScheduleImageVerified s = _
  unfold execScheduleImageVerified
  refine does_congr ?_
  rw [show s.found.sched.reception = some r from hr]
  exact if_pos hv

end verified

/-- A register of bytes that is not named reads as before. -/
theorem RegsFramed.cfgBytes {L : List (Nat × Nat)} (h : RegsFramed L a b) (idx sub : Nat) (hn : ∀ r ∈ L, odKey r.1 r.2 ≠ odKey idx sub) :
    Machine.cfgBytes b idx sub = Machine.cfgBytes a idx sub := by
  rcases h (odKey idx sub) with ⟨r, hr, e⟩ | e
  · exact absurd e (hn r hr)
  · unfold Machine.cfgBytes DictS.reg
    rw [e]

/-- An image whose text parses is not empty. -/
theorem parseImage_ne_nil {bs : List Byte} {i : SchedImage} (h : parseImage bs = some i) : bs ≠ [] := by
  rintro rfl
  have hm : beNat (slice ([] : List Byte) 0 4) ≠ 0x4B5A5453 := by decide
  unfold parseImage at h
  dsimp only at h
  rw [decide_eq_false hm] at h
  simp only [Bool.false_and, Bool.false_eq_true, if_false] at h
  cases h

/-- What the store of a verified image leaves. -/
theorem imageStored_stores {r : Reception} (hne : r.data ≠ []) (d : Dev) : (imageStored r d).sched = d.sched ∧ cfgBytes (imageStored r d) 0x2503 1 = r.data ∧
    cfg (imageStored r d) 0x2505 0x0C = cfg d 0x2505 0x0C := by
  have hset : cfgBytes (setBytes 0x2503 1 r.data d) 0x2503 1 = r.data := by
    have hdef : odDefault (odKey 0x2503 1) = .bytes [] := by decide +kernel
    unfold cfgBytes setBytes DictS.reg DictS.setReg
    rw [Store.find_put_nondefault _ _ _ _ (by rw [hdef]; exact fun e => hne (Value.bytes.inj e))]
    rfl
  have hcfg : cfg (setBytes 0x2503 1 r.data d) 0x2505 0x0C = cfg d 0x2505 0x0C := by
    unfold cfg setBytes
    dsimp only
    rw [DictS.reg_setReg_other _ _ _ _ _ _ (by decide)]
  have hsave : ∀ e : Dev, (saveCopy e).sched = e.sched ∧ (saveCopy e).dict.od = e.dict.od := fun e => by
    unfold saveCopy
    dsimp only
    split <;> exact ⟨rfl, rfl⟩
  have hbytes : ∀ e : Dev, cfgBytes (saveCopy e) 0x2503 1 = cfgBytes e 0x2503 1 := fun e => by
    unfold cfgBytes DictS.reg
    rw [(hsave e).2]
  have hnum : ∀ e : Dev, cfg (saveCopy e) 0x2505 0x0C = cfg e 0x2505 0x0C := fun e => by
    unfold cfg DictS.reg
    rw [(hsave e).2]
  unfold imageStored onlyIf
  split
  · exact ⟨(hsave _).1, (hbytes _).trans hset, (hnum _).trans hcfg⟩
  · exact ⟨rfl, hset, hcfg⟩

/-- An image that is adopted is pending and counted. -/
theorem adoptImage_adopts (i : SchedImage) (d : Dev) : (adoptImage i d).sched.pending = some i ∧ (adoptImage i d).sched.reception = d.sched.reception ∧
    (adoptImage i d).sched.image = d.sched.image ∧ cfgBytes (adoptImage i d) 0x2503 1 = cfgBytes d 0x2503 1 ∧
    cfg (adoptImage i d) 0x2505 0x0C = min 0xFFFFFFFF (cfg d 0x2505 0x0C + 1) := by
  have hx : adoptImage i d = offerAll (raise evImageAdopted noInst (bump 0x2505 0x0C (onSched (fun s => { s with
    pending := some i, lastRefused := false, offered := s.offered.filter (fun x => decide (i.generation < x.1)) }) d))) := rfl
  rw [hx]
  generalize ho : onSched (fun s => { s with pending := some i, lastRefused := false, offered := s.offered.filter (fun x => decide (i.generation < x.1)) }) d = o
  have hs := offerAll_spread (raise evImageAdopted noInst (bump 0x2505 0x0C o))
  have hr := raise_regs evImageAdopted noInst (bump 0x2505 0x0C o)
  have hsched : (offerAll (raise evImageAdopted noInst (bump 0x2505 0x0C o))).sched = o.sched := by
    rw [hs.sched, raise_sched, bump_sched]
  have hb : RegsFramed [(0x2505, 0x0C)] o (bump 0x2505 0x0C o) := (RegsFramed.refl _ o).bump _ _ (.head _)
  rw [hsched, RegsFramed.cfgBytes hs.regs 0x2503 1 (by decide +kernel), RegsFramed.cfgBytes hr 0x2503 1 (by decide), RegsFramed.cfgBytes hb 0x2503 1 (by decide), hs.cfg (by decide +kernel),
    hr.cfg 0x2505 0x0C (by decide), cfg_bump_self _ _ _ (by decide +kernel)]
  subst ho
  exact ⟨rfl, rfl, rfl, rfl, rfl⟩

/-- What the refusal of an image leaves. -/
theorem refuse_refuses (d : Dev) : let x := execScheduleImageVerified.refuse d
    x.sched = { d.sched with lastRefused := true, offers := [] } ∧ cfg x 0x2505 0x0B = min 0xFFFFFFFF (cfg d 0x2505 0x0B + 1) ∧
      cfgBytes x 0x2503 1 = cfgBytes d 0x2503 1 := by
  intro x
  have hx : x = raise evImageRefused noInst (bump 0x2505 0x0B (onSched (fun s => { s with lastRefused := true, offers := [] }) d)) := rfl
  rw [hx]
  have hr := raise_regs evImageRefused noInst (bump 0x2505 0x0B (onSched (fun s => { s with lastRefused := true, offers := [] }) d))
  have hb : RegsFramed [(0x2505, 0x0B)] (onSched (fun s => { s with lastRefused := true, offers := [] }) d)
    (bump 0x2505 0x0B (onSched (fun s => { s with lastRefused := true, offers := [] }) d)) := (RegsFramed.refl _ _).bump _ _ (.head _)
  rw [raise_sched, bump_sched, hr.cfg 0x2505 0x0B (by decide), RegsFramed.cfgBytes hr 0x2503 1 (by decide), RegsFramed.cfgBytes hb 0x2503 1 (by decide),
    cfg_bump_self _ _ _ (by decide +kernel)]
  exact ⟨rfl, rfl, rfl⟩

/-- A signature that is refused is counted elsewhere. -/
theorem refuseSignature_rest (c : Bool) (d : Dev) : (onlyIf c refuseSignature d).sched = d.sched ∧ RegsFramed ((0x2F05, 4) :: eventCounters) d (onlyIf c refuseSignature d) := by
  unfold onlyIf refuseSignature
  split
  · refine ⟨by rw [raise_sched, bump_sched], RegsFramed.trans ((RegsFramed.refl _ d).bump _ _ (.head _)) ((raise_regs _ _ _).mono fun r hr => .tail _ hr)⟩
  · exact ⟨rfl, .refl _ d⟩

section verified

variable {r : Reception} (hr : s.dev.sched.reception = some r) (hv : r.verifying = true)
include hr hv

theorem imageVerified_adopts {i : SchedImage} (hi : parseImage r.data = some i) (h : passesChecks r i s.dev = true) : Completes .scheduleImageVerified s fun d =>
    d.sched.pending = some { i with activation := r.activation } ∧ d.sched.reception = none ∧ cfgBytes d 0x2503 1 = r.data ∧
      cfg d 0x2505 0x0C = min 0xFFFFFFFF (cfg s.dev 0x2505 0x0C + 1) ∧ d.sched.image = s.dev.sched.image := by
  refine completes_of_exec (imageVerified_exec hr hv) ?_
  rw [hi]
  dsimp only
  rw [if_pos (show passesChecks r i s.found = true from h)]
  obtain ⟨h1, h2, h3⟩ := imageStored_stores (parseImage_ne_nil hi) (receptionEnds s.found)
  generalize imageStored r (receptionEnds s.found) = x at *
  obtain ⟨g1, g2, g3, g4, g5⟩ := adoptImage_adopts { i with activation := r.activation } x
  refine ⟨g1, g2.trans ?_, g4.trans h2, g5.trans ?_, g3.trans ?_⟩
  · rw [h1]
    rfl
  · rw [h3]
    rfl
  · rw [h1]
    rfl

/-- What an image that fails a check leaves. -/
structure ImageRefused (s : State) (d : Dev) : Prop where
  pending : d.sched.pending = s.dev.sched.pending
  reception : d.sched.reception = none
  refused : d.sched.lastRefused = true
  offers : d.sched.offers = []
  counted : cfg d 0x2505 0x0B = min 0xFFFFFFFF (cfg s.dev 0x2505 0x0B + 1)
  image : cfgBytes d 0x2503 1 = cfgBytes s.dev 0x2503 1

omit hr hv in
theorem refuse_of_ends {x : Dev} (hs : x.sched = (receptionEnds s.found).sched) (hregs : RegsFramed ((0x2F05, 4) :: eventCounters) (receptionEnds s.found) x) :
    ImageRefused s (execScheduleImageVerified.refuse x) := by
  obtain ⟨h1, h2, h3⟩ := refuse_refuses x
  refine ⟨?_, ?_, ?_, ?_, h2.trans ?_, h3.trans (RegsFramed.cfgBytes hregs 0x2503 1 (by decide))⟩
  · rw [h1, hs]
    rfl
  · rw [h1, hs]
    rfl
  · rw [h1]
  · rw [h1]
  · rw [hregs.cfg 0x2505 0x0B (by decide)]
    rfl

theorem imageVerified_refuses (h : ∀ i, parseImage r.data = some i → passesChecks r i s.dev = false) : Completes .scheduleImageVerified s (ImageRefused s) := by
  refine completes_of_exec (imageVerified_exec hr hv) ?_
  cases hi : parseImage r.data with
  | none => exact refuse_of_ends rfl (.refl _ _)
  | some i =>
    dsimp only
    rw [if_neg (by rw [show passesChecks r i s.found = false from h i hi]; exact Bool.false_ne_true)]
    obtain ⟨h1, h2⟩ := refuseSignature_rest (!imageSigned s.found r.data) (receptionEnds s.found)
    exact refuse_of_ends h1 h2

end verified

end distribution

/-- Settles O37: offers, requests and chunks pass an image on, and its checks take it or refuse it. -/
theorem imagesPassFromNeighbourToNeighbour : Obligations.ImagesPassFromNeighbourToNeighbour := by
  intro s m counter held received first requests
  refine ⟨fun p x y data hup => ?_, fun t ht => ?_, fun r hr => ⟨fun hv => ?_, fun hv => ?_⟩⟩
  · intro h
    obtain ⟨hdropOffer, htakeOffer⟩ := completes_dist (offer_exec (s := s) (p := p) x y) hup
    obtain ⟨hdropRequest, htakeRequest⟩ := completes_dist (request_exec (s := s) (p := p) x y) hup
    obtain ⟨hdropChunk, htakeChunk⟩ := completes_dist (chunk_exec (s := s) (p := p) x y data) hup
    refine ⟨⟨hdropOffer, hdropRequest, hdropChunk⟩, fun hok h1 hid h0 hnew => ⟨fun ha hbe => htakeOffer hok fun b hb => ?_, fun hn => htakeOffer hok fun b hb => ?_⟩,
      fun hok i hi hne => htakeRequest hok fun b hb => takeRequest_answers hb hi hne, fun hok r hr hp hg hid hv hn => ?_⟩
    · obtain ⟨g1, g2, g3⟩ := takeOffer_requests hb h1 hid h0 hnew ha hbe
      exact ⟨⟨g1, g2⟩, g3⟩
    · exact takeOffer_notes hb h1 hid h0 hnew hn
    · exact ⟨fun hl => ⟨fun hmore ha => htakeChunk hok fun b hb => takeChunk_asks hb hr hp hg hid hv hn hl hmore ha,
        fun hmore ha => htakeChunk hok fun b hb => takeChunk_stops hb hr hp hg hid hv hn hl hmore ha,
        fun hmore => htakeChunk hok fun b hb => takeChunk_ends hb hr hp hg hid hv hn hl hmore⟩,
        fun hl => htakeChunk hok fun b hb => takeChunk_drops hb hr hp hg hid hv hn hl⟩
  · exact ⟨fun hu => (offerPeriod_period ht hu).mono fun d ⟨⟨_, ho⟩, h1, h2⟩ => ⟨ho.offers, ho.now, h1, h2⟩,
      fun u hs hu => (offerPeriod_switch ht hs hu).mono fun d ⟨⟨_, ho⟩, h1, h2⟩ => ⟨ho.offers, ho.now, h1, h2⟩⟩
  · exact ⟨chunkTimeout_stops hr hv, fun ha => ⟨chunkTimeout_repeats hr hv ha,
      fun h3 => ⟨fun x hx => chunkTimeout_turns hr hv ha h3 hx, chunkTimeout_gives_up hr hv ha h3⟩⟩⟩
  · have hiff : ∀ i, passesChecks r i s.dev = true ↔ crc32 r.data = r.crc ∧ imageSigned s.dev r.data = true ∧
        i.identity.toNat = cfg s.dev 0x2501 2 ∧ i.generation = r.generation := fun i => by
      unfold passesChecks
      simp only [Bool.and_eq_true, decide_eq_true_eq, and_assoc]
    refine ⟨fun i ⟨hi, hchecks⟩ => imageVerified_adopts hr hv hi ((hiff i).2 hchecks), fun hno => ?_⟩
    refine (imageVerified_refuses hr hv fun i hi => Bool.not_eq_true _ ▸ fun hp => hno i ⟨hi, (hiff i).1 hp⟩).mono fun d h => ?_
    exact ⟨h.pending, h.reception, h.refused, h.offers, h.counted, h.image⟩

end Sys2Proof.Machine
end

section
/-! PROOF. Listeners: what a packet does to the stream that takes it, and that it leaves the other streams as they were (R265, R272, R273, R275, R282). -/

namespace Sys2Proof.Machine

section listeners

variable {a b c d : Dev} {k : Fin 64} {x y : StreamS} {m n : Fin 5 → Nat}

/-! ### Counters that hold their limit -/

/-- A counter of 32 bits after `n` counts, which no count leaves as it is. -/
def counted (v n : Nat) : Nat := if n = 0 then v else min 0xFFFFFFFF (v + n)

theorem counted_zero (v : Nat) : counted v 0 = v := rfl

theorem counted_add (v m n : Nat) : counted (counted v m) n = counted v (m + n) := by
  unfold counted
  split <;> split <;> split <;> omega

theorem counted_pos (v : Nat) {n : Nat} (h : n ≠ 0) : counted v n = min 0xFFFFFFFF (v + n) := if_neg h

/-- The counters of the recorder, which an event moves. -/
def recordCounters : List (Nat × Nat) := [(0x2A06, 9), (0x2A06, 0x0A), (0x2A06, 0x0B), (0x2A06, 0x0E), (0x2A06, 0x11)]

theorem raise_records (ev : Ev) (inst : Nat) (d : Dev) : RegsFramed recordCounters d (raise ev inst d) := fun k => by
  rcases raise_regs ev inst d k with ⟨r, hr, e⟩ | e
  · by_cases h : r = (0x2B07, 2)
    · refine .inr (raise_low ev inst d k (.inr ?_))
      rw [← e, h]
      decide
    · have hlist : ∀ r ∈ eventCounters, r ≠ (0x2B07, 2) → r ∈ recordCounters := by decide
      exact .inl ⟨r, hlist r hr h, e⟩
  · exact .inr e

/-! ### What the streams do -/

/-- The counters of a stream (R288). -/
def streamCounters (k : Fin 64) : List (Nat × Nat) := (List.range 5).map fun i => (0x2610 + k.val, 0x0D + i)

/-- From `a` to `b` streams take a packet: no register moves but counters, and time and grids stand. -/
structure Plays (a b : Dev) : Prop where
  grid : b.strm.gridOff = a.strm.gridOff
  rephase : b.strm.rephaseEnd = a.strm.rephaseEnd
  framed : Framed [.out, .regs, .strm, .recd, .host, .ints, .counters] a b
  regs : RegsFramed (allStreams.flatMap streamCounters ++ (0x2602, 3) :: recordCounters) a b
  sent : Sent a b

theorem Plays.trans (h1 : Plays a b) (h2 : Plays b c) : Plays a c :=
  ⟨h2.grid.trans h1.grid, h2.rephase.trans h1.rephase, h1.framed.trans h2.framed, h1.regs.trans h2.regs, h1.sent.trans h2.sent⟩

theorem streamCounters_mem (k : Fin 64) (i : Fin 5) : (0x2610 + k.val, 0x0D + i.val) ∈ allStreams.flatMap streamCounters ++ (0x2602, 3) :: recordCounters :=
  List.mem_append_left _ (List.mem_flatMap.2 ⟨k, List.mem_finRange k, List.mem_map.2 ⟨i.val, List.mem_range.2 i.isLt, rfl⟩⟩)

/-- What changes neither streams nor registers. -/
theorem Plays.of_framed {A : List Part} (h : Framed A a b) (hs : Sent a b) (hA : ∀ p ∈ A, p ∈ ([.out, .recd, .host, .ints, .counters] : List Part)) : Plays a b := by
  have hlist : ∀ p ∈ ([.out, .recd, .host, .ints, .counters] : List Part), p ∈ ([.out, .regs, .strm, .recd, .host, .ints, .counters] : List Part) := by decide
  have hstrm : b.strm = a.strm := h.same .strm fun hm => absurd (hA _ hm) (by decide)
  exact ⟨by rw [hstrm], by rw [hstrm], h.mono fun p hp => hlist p (hA p hp), .of_same (h.same .regs fun hm => absurd (hA _ hm) (by decide)), hs⟩

theorem Plays.setReg {r : Nat × Nat} (hr : r ∈ allStreams.flatMap streamCounters ++ (0x2602, 3) :: recordCounters) (v : Nat) (d : Dev) : Plays d (setReg r.1 r.2 v d) :=
  ⟨rfl, rfl, setReg_framed _ _ _ d (by decide) (.refl _ d), (RegsFramed.refl _ d).setReg _ _ _ hr, .refl d⟩

namespace Plays

variable (h : Plays a b)
include h

/-- A register that no stream counts in: one whose subindex is none of the counters', or a lower one of another index than 0x2602 and 0x2A06. -/
theorem cfg {idx sub : Nat} (hs : sub < 0x100) (hk : sub ∉ [3, 9, 0x0A, 0x0B, 0x0D, 0x0E, 0x0F, 0x10, 0x11] ∨
    sub < 0x0D ∧ idx ≠ 0x2602 ∧ idx ≠ 0x2A06) : Machine.cfg b idx sub = Machine.cfg a idx sub := by
  refine h.regs.cfg _ _ fun r hr => ?_
  simp only [List.mem_cons, List.not_mem_nil, or_false, not_or] at hk
  rcases List.mem_append.1 hr with hr | hr
  · obtain ⟨k, -, hr⟩ := List.mem_flatMap.1 hr
    obtain ⟨i, hi, rfl⟩ := List.mem_map.1 hr
    have := List.mem_range.1 hi
    unfold odKey
    dsimp only
    omega
  · unfold recordCounters at hr
    simp only [List.mem_cons, List.not_mem_nil, or_false] at hr
    unfold odKey
    rcases hr with rfl | rfl | rfl | rfl | rfl | rfl <;> dsimp only <;> omega

theorem strmReg (j : Fin 64) {i : Nat} (hi : i < 0x0D) : Machine.strmReg b j i = Machine.strmReg a j i := by
  have hj := j.isLt
  exact h.cfg (by omega) (.inr ⟨hi, by omega, by omega⟩)

theorem strmRate (j : Fin 64) : Machine.strmRate b j = Machine.strmRate a j := by
  unfold Machine.strmRate
  simp only [h.strmReg j (show 9 < 0x0D by decide), h.cfg (sub := 2) (by decide) (.inl (by decide))]

theorem packetSlots (j : Fin 64) (p : AvtpPacket) : Machine.packetSlots b j p = Machine.packetSlots a j p := by
  unfold Machine.packetSlots slotSamples
  simp only [h.strmReg j (show 5 < 0x0D by decide), h.strmReg j (show 6 < 0x0D by decide), h.strmReg j (show 0x0A < 0x0D by decide),
    h.strmReg j (show 0x0B < 0x0D by decide)]

theorem now : b.now = a.now := now_of_framed h.framed (by decide)

theorem time : b.time = a.time := time_of_framed h.framed (by decide) (by decide)

theorem trainTime : Machine.trainTime b = Machine.trainTime a := by
  unfold Machine.trainTime
  rw [h.time]

end Plays

/-- From `a` to `b` the stream `k` comes to be `x` and its counters count as `n` says. -/
structure Moved (k : Fin 64) (x : StreamS) (n : Fin 5 → Nat) (a b : Dev) : Prop extends Plays a b where
  stream : b.strm.s[k] = x
  others : ∀ j : Fin 64, j ≠ k → b.strm.s[j] = a.strm.s[j]
  counter : ∀ i : Fin 5, Machine.cfg b (0x2610 + k.val) (0x0D + i.val) = counted (Machine.cfg a (0x2610 + k.val) (0x0D + i.val)) (n i)
  foreign : ∀ j : Fin 64, j ≠ k → ∀ i : Fin 5, Machine.cfg b (0x2610 + j.val) (0x0D + i.val) = Machine.cfg a (0x2610 + j.val) (0x0D + i.val)

theorem Moved.trans (h1 : Moved k x m a b) (h2 : Moved k y n b c) : Moved k y (m + n) a c where
  toPlays := h1.toPlays.trans h2.toPlays
  stream := h2.stream
  others j hj := (h2.others j hj).trans (h1.others j hj)
  counter i := by rw [h2.counter, h1.counter, counted_add]; rfl
  foreign j hj i := (h2.foreign j hj i).trans (h1.foreign j hj i)

/-- What changes neither streams nor registers. -/
theorem Moved.of_framed {A : List Part} (h : Framed A a b) (hs : Sent a b)
    (hA : ∀ p ∈ A, p ∈ ([.out, .recd, .host, .ints, .counters] : List Part)) : Moved k a.strm.s[k] 0 a b := by
  have hstrm : b.strm = a.strm := h.same .strm fun hm => absurd (hA _ hm) (by decide)
  have hcfg : ∀ i j, cfg b i j = cfg a i j := fun i j =>
    (RegsFramed.of_same (L := []) (h.same .regs fun hm => absurd (hA _ hm) (by decide))).cfg i j (by simp)
  exact ⟨.of_framed h hs hA, by rw [hstrm], fun j _ => by rw [hstrm], fun i => hcfg _ _, fun j _ i => hcfg _ _⟩

theorem Moved.refl (k : Fin 64) (d : Dev) : Moved k d.strm.s[k] 0 d d := .of_framed (A := []) (.refl _ d) (.refl d) (by simp)

theorem onStream_moved (f : StreamS → StreamS) (d : Dev) : Moved k (f d.strm.s[k]) 0 d (onStream k f d) where
  toPlays := ⟨rfl, rfl, onStream_framed k f d (by decide) (.refl _ d), .of_same rfl, .refl d⟩
  stream := onStream_self k f d
  others j hj := vmod_other _ _ _ _ fun e => hj e.symm
  counter _ := rfl
  foreign _ _ _ := rfl

/-- One more in a register of the stream. -/
theorem streamKey (k : Fin 64) (i : Fin 5) : odDefault (odKey (0x2610 + k.val) (0x0D + i.val)) = .num 0 := by
  revert k i
  decide +kernel

theorem bumpBy_moved (i : Fin 5) (n : Nat) (hn : n ≠ 0) (d : Dev) : Moved k d.strm.s[k] (Pi.single i n) d (bumpBy (0x2610 + k.val) (0x0D + i.val) n d) where
  toPlays := Plays.setReg (streamCounters_mem k i) _ d
  stream := rfl
  others _ _ := rfl
  counter j := by
    by_cases h : j = i
    · subst h
      rw [Pi.single_eq_same, counted_pos _ hn]
      refine cfg_setReg_self _ _ _ _ ?_
      rw [streamKey]
      intro e
      injection e with e
      omega
    · have hne : j.val ≠ i.val := fun e => h (Fin.ext e)
      rw [Pi.single_eq_of_ne h, counted_zero]
      exact cfg_bumpBy_ne _ _ _ _ _ _ (by unfold odKey; omega)
  foreign j hj l := by
    have hne : j.val ≠ k.val := fun e => hj (Fin.ext e)
    exact cfg_bumpBy_ne _ _ _ _ _ _ (by unfold odKey; omega)

theorem bump_moved (i : Fin 5) (d : Dev) : Moved k d.strm.s[k] (Pi.single i 1) d (bump (0x2610 + k.val) (0x0D + i.val) d) := bumpBy_moved i 1 (by decide) d

theorem raise_moved (ev : Ev) (inst : Nat) (d : Dev) : Moved k d.strm.s[k] 0 d (raise ev inst d) := by
  have hf : Framed [.out, .regs, .recd, .ints, .counters] d (raise ev inst d) := raise_framed ev inst d (by decide) (.refl _ d)
  have hs : (raise ev inst d).strm = d.strm := hf.same .strm (by decide)
  have hr := raise_records ev inst d
  have hcfg : ∀ (j : Fin 64) (i : Fin 5), cfg (raise ev inst d) (0x2610 + j.val) (0x0D + i.val) = cfg d (0x2610 + j.val) (0x0D + i.val) := fun j i => by
    have hj := j.isLt
    have hi := i.isLt
    refine hr.cfg _ _ fun r hm => ?_
    have hlow : ∀ r ∈ recordCounters, odKey 0x2A00 0 ≤ odKey r.1 r.2 := by decide
    have := hlow r hm
    unfold odKey at *
    omega
  exact ⟨⟨by rw [hs], by rw [hs], hf.mono (by decide), hr.mono fun r h => List.mem_append_right _ (.tail _ h), raise_sent ev inst d⟩,
    by rw [hs], fun j _ => by rw [hs], hcfg k, fun j _ => hcfg j⟩

theorem muteFrames_moved (n : Nat) (d : Dev) : Moved k d.strm.s[k] (Pi.single 2 n) d (muteFrames k n d) := by
  unfold muteFrames
  split
  · next h =>
    rw [h, Pi.single_zero]
    exact .refl k d
  · next h =>
    have he : Moved k d.strm.s[k] 0 d (emit (.mute k.val n) d) := .of_framed (A := [.out]) (emit_framed _ d (by decide) (.refl _ d)) (emit_sent _ d) (by decide)
    have h2 := he.trans (bumpBy_moved (k := k) 2 n h (emit (.mute k.val n) d))
    rwa [zero_add] at h2

theorem blockToHost_sent (k : Fin 64) (f : Nat) (p : AvtpPacket) (d : Dev) : Sent d (blockToHost k f p d) := by
  unfold blockToHost
  split
  · refine .ite ?_ (.of_eq rfl)
    dsimp only
    exact (Sent.onlyIf _ (emit_sent _ d)).trans ((writeBackOne_sent _ _ _ _ _ _).after rfl)
  · exact .of_eq rfl

/-! ### A packet that is taken (R272, R273) -/

section packet

variable (h : Moved k x m a b) (p : AvtpPacket)
include h

theorem Moved.as (hx : x = y) (hn : m = n) : Moved k y n a b := hx ▸ hn ▸ h

/-- A step that leaves the stream as it is. -/
theorem Moved.then (h2 : Moved k b.strm.s[k] n b c) : Moved k x (m + n) a c := h.trans (h2.as h.stream rfl)

theorem Moved.still (h2 : Moved k b.strm.s[k] 0 b c) : Moved k x m a c := (h.then h2).as rfl (add_zero m)

theorem Moved.onStream (f : StreamS → StreamS) : Moved k (f x) m a (onStream k f b) :=
  (h.trans (onStream_moved f b)).as (by rw [h.stream]) (add_zero m)

theorem Moved.mute (n : Nat) : Moved k x (m + Pi.single 2 n) a (muteFrames k n b) := h.then (muteFrames_moved n b)

theorem Moved.bump (i : Fin 5) : Moved k x (m + Pi.single i 1) a (bump (0x2610 + k.val) (0x0D + i.val) b) := h.then (bump_moved i b)

theorem Moved.fillGap : let g := (p.seq - x.seq - 1).toNat
    Moved k { x with expected := x.expected + g * framesOf p } (m + Pi.single 2 (g * framesOf p) + Pi.single 4 (if g = 0 then 0 else 1)) a (fillGap k p b) := by
  intro g
  unfold Machine.fillGap
  rw [h.stream]
  dsimp only
  change Moved k _ _ a (if g = 0 then _ else _)
  by_cases hg : g = 0
  · simp only [if_pos hg]
    refine h.as ?_ ?_
    · rw [hg, Nat.zero_mul, Nat.add_zero]
    · rw [hg, Nat.zero_mul, Pi.single_zero, Pi.single_zero, add_zero, add_zero]
  · simp only [if_neg hg]
    exact ((h.onStream fun t => { t with expected := t.expected + g * framesOf p }).mute (g * framesOf p)).bump 4

theorem Moved.noteAccepted : Moved k { x with seq := p.seq, timeout := some (a.now + Machine.cfg a 0x2601 4 * msNs) } (m + Pi.single 0 1) a (noteAccepted k p b) := by
  have h1 := (h.onStream fun t => { t with seq := p.seq, timeout := some (b.now + Machine.cfg b 0x2601 4 * msNs) }).bump 0
  have hcount : ∀ e : Dev, Moved k e.strm.s[k] 0 e (countEv 0x012 k.val 0 1 e) := fun e =>
    .of_framed (A := [.counters]) (countEv_framed _ _ _ _ e (by decide) (.refl _ e)) (.refl _) (by decide)
  rw [h.now, h.cfg (idx := 0x2601) (sub := 4) (by decide) (.inl (by decide))] at h1
  have h2 := h1.still (hcount _)
  unfold Machine.noteAccepted
  rw [h.now, h.cfg (idx := 0x2601) (sub := 4) (by decide) (.inl (by decide))]
  exact h2

/-- A packet is played, or written to the host. -/
theorem Moved.playAt (f : Nat) : Moved k { x with expected := f + framesOf p } m a (playAt k f p b) ∧
    (Machine.strmReg a k 9 ≠ 0xFF → Out.play k.val (Machine.strmReg a k 9) (gridTime (Machine.strmRate a k) f) (Machine.packetSlots a k p) ∈ (playAt k f p b).out) := by
  unfold Machine.playAt
  rw [h.strmReg k (by decide), h.strmRate, h.packetSlots]
  dsimp only
  split
  · next h9 =>
    have hf : Framed [.out, .host, .ints] b (blockToHost k f p b) := blockToHost_framed k f p b (by decide) (.refl _ b)
    have hb := h.still (.of_framed hf (blockToHost_sent k f p b) (by decide))
    exact ⟨hb.onStream fun t => { t with expected := f + framesOf p }, fun hn => absurd h9 hn⟩
  · next h9 =>
    have he : Moved k b.strm.s[k] 0 b (emit (.play k.val (Machine.strmReg a k 9) (gridTime (Machine.strmRate a k) f) (Machine.packetSlots a k p)) b) :=
      .of_framed (A := [.out]) (emit_framed _ b (by decide) (.refl _ b)) (emit_sent _ b) (by decide)
    exact ⟨(h.still he).onStream fun t => { t with expected := f + framesOf p }, fun _ => emit_mem _ b⟩

theorem Moved.realign (f : Nat) : Moved k { x with expected := f + framesOf p } (m + Pi.single 2 (f - x.expected) + Pi.single 3 1) a (realign k f p b) ∧
    (Machine.strmReg a k 9 ≠ 0xFF → Out.play k.val (Machine.strmReg a k 9) (gridTime (Machine.strmRate a k) f) (Machine.packetSlots a k p) ∈ (realign k f p b).out) := by
  obtain ⟨h1, h2⟩ := (h.mute (f - x.expected)).playAt p f
  unfold Machine.realign
  rw [h.stream]
  dsimp only
  generalize Machine.playAt k f p (muteFrames k (f - x.expected) b) = e at *
  exact ⟨(h1.bump 3).still (raise_moved _ _ _), fun h9 => raise_sent _ _ _ _ (h2 h9)⟩

/-- A sound packet at its frame. -/
def soundStep (k : Fin 64) (f : Nat) (p : AvtpPacket) (d : Dev) : Dev :=
  let e := Machine.noteAccepted k p (Machine.fillGap k p d)
  if f = e.strm.s[k].expected then Machine.playAt k f p e else Machine.realign k f p e

/-- A packet taken by its sequence. -/
def unsoundStep (k : Fin 64) (p : AvtpPacket) (d : Dev) : Dev :=
  let e := Machine.fillGap k p d
  Machine.playAt k e.strm.s[k].expected p (Machine.noteAccepted k p e)

/-- What a packet taken at a frame makes of a stream. -/
def takenAt (p : AvtpPacket) (f t : Nat) (x : StreamS) : StreamS := { x with seq := p.seq, timeout := some t, expected := f + framesOf p }

/-- The counts of a packet: accepted, zeros, realignments and gaps. -/
def packetCounts (zeros jumps gaps : Nat) : Fin 5 → Nat := ![1, 0, zeros, jumps, gaps]

omit h in
theorem packetCounts_taken (m : Fin 5 → Nat) (u v : Nat) : m + Pi.single 2 u + Pi.single 4 v + Pi.single 0 1 = m + packetCounts u 0 v := by
  funext i
  fin_cases i <;> simp [packetCounts]

omit h in
theorem packetCounts_realigned (m : Fin 5 → Nat) (u v w : Nat) :
    m + Pi.single 2 u + Pi.single 4 v + Pi.single 0 1 + Pi.single 2 w + Pi.single 3 1 = m + packetCounts (u + w) 1 v := by
  funext i
  fin_cases i <;> simp [packetCounts, Nat.add_assoc]

theorem Moved.sound (f : Nat) : let g := (p.seq - x.seq - 1).toNat
    let expected := x.expected + g * framesOf p
    Moved k (takenAt p f (a.now + Machine.cfg a 0x2601 4 * msNs) x)
      (m + packetCounts (g * framesOf p + (f - expected)) (if f = expected then 0 else 1) (if g = 0 then 0 else 1)) a (soundStep k f p b) ∧
    (Machine.strmReg a k 9 ≠ 0xFF → Out.play k.val (Machine.strmReg a k 9) (gridTime (Machine.strmRate a k) f) (Machine.packetSlots a k p) ∈ (soundStep k f p b).out) := by
  intro g expected
  have h1 := (h.fillGap p).noteAccepted p
  have hexp : (Machine.noteAccepted k p (Machine.fillGap k p b)).strm.s[k].expected = expected := congrArg StreamS.expected h1.stream
  unfold soundStep
  dsimp only
  rw [hexp]
  generalize Machine.noteAccepted k p (Machine.fillGap k p b) = e at *
  split
  · next hf =>
    obtain ⟨g1, g2⟩ := h1.playAt p f
    refine ⟨g1.as rfl ?_, g2⟩
    rw [hf, Nat.sub_self, Nat.add_zero]
    exact packetCounts_taken m _ _
  · next hf =>
    obtain ⟨g1, g2⟩ := h1.realign p f
    exact ⟨g1.as rfl (packetCounts_realigned m _ _ _), g2⟩

theorem Moved.unsound : let g := (p.seq - x.seq - 1).toNat
    let expected := x.expected + g * framesOf p
    Moved k (takenAt p expected (a.now + Machine.cfg a 0x2601 4 * msNs) x) (m + packetCounts (g * framesOf p) 0 (if g = 0 then 0 else 1)) a (unsoundStep k p b) ∧
    (Machine.strmReg a k 9 ≠ 0xFF → Out.play k.val (Machine.strmReg a k 9) (gridTime (Machine.strmRate a k) expected) (Machine.packetSlots a k p) ∈ (unsoundStep k p b).out) := by
  intro g expected
  have hexp : (Machine.fillGap k p b).strm.s[k].expected = expected := congrArg StreamS.expected (h.fillGap p).stream
  have h1 := (h.fillGap p).noteAccepted p
  unfold unsoundStep
  dsimp only
  rw [hexp]
  obtain ⟨g1, g2⟩ := h1.playAt p expected
  exact ⟨g1.as rfl (packetCounts_taken m _ _), g2⟩

end packet

/-! ### What a listener does with a packet (R275) -/

section takes

/-- The frame of the grid to which a packet's timestamp is mapped. -/
def mappedFrame (p : AvtpPacket) (k : Fin 64) (d : Dev) : Nat := gridNearest (strmRate d k) ((extendShort d p.timestamp : Int) - gridOffset d (strmRate d k)).toNat

/-- The moment of the mapped frame. -/
def mappedMoment (p : AvtpPacket) (k : Fin 64) (d : Dev) : Int := gridTime (strmRate d k) (mappedFrame p k d) + gridOffset d (strmRate d k)

/-- The packet's time may be used. -/
def isSound (p : AvtpPacket) (d : Dev) : Bool := !p.tu && timeUsable d

/-- The mapped frame has come too close. -/
def isLate (p : AvtpPacket) (k : Fin 64) (d : Dev) : Bool := decide (mappedMoment p k d < trainTime d + 20 * usNs)

/-- The mapped frame is too far ahead. -/
def isFar (p : AvtpPacket) (k : Fin 64) (d : Dev) : Bool := decide ((trainTime d + cfg d 0x2601 5 * msNs : Nat) < mappedMoment p k d)

/-- A sound packet is refused where it is late or far, and taken else. -/
def takeSound (p : AvtpPacket) (k : Fin 64) (take : Dev → Dev) (d : Dev) : Dev :=
  if isLate p k d then bump (0x2610 + k.val) 0x0E d else if isFar p k d then bump 0x2602 3 d else take d

/-- The state of a stream is entered. -/
def setStream (k : Fin 64) (st : StreamState) (d : Dev) : Dev := onStream k (fun t => { t with state := st }) d

theorem listenerTakes_eq (p : AvtpPacket) (k : Fin 64) (d : Dev) : listenerTakes p k d = match d.strm.s[k].state with
    | .waiting => if !isSound p d then d
      else takeSound p k (fun d => playAt k (mappedFrame p k d) p (setStream k .playing (noteAccepted k p d))) d
    | .playing => if !isSound p d then unsoundStep k p (setStream k .holding d) else takeSound p k (fun d => soundStep k (mappedFrame p k d) p d) d
    | .holding => if !isSound p d then unsoundStep k p d
      else takeSound p k (fun d => soundStep k (mappedFrame p k d) p (setStream k .playing d)) d
    | _ => d := rfl

section plays

variable (h : Plays a b) (p : AvtpPacket) (k)
include h

theorem Plays.mapped : mappedFrame p k b = mappedFrame p k a ∧ mappedMoment p k b = mappedMoment p k a := by
  have hoff : ∀ fs, gridOffset b fs = gridOffset a fs := fun fs => by
    unfold gridOffset
    rw [h.grid]
  have hext : extendShort b p.timestamp = extendShort a p.timestamp := by
    unfold extendShort
    rw [h.trainTime]
  have hf : mappedFrame p k b = mappedFrame p k a := by
    unfold mappedFrame
    rw [h.strmRate, hoff, hext]
  refine ⟨hf, ?_⟩
  unfold mappedMoment
  rw [hf, h.strmRate, hoff]

theorem Plays.isSound : Machine.isSound p b = Machine.isSound p a := by
  unfold Machine.isSound timeUsable
  rw [h.time, h.rephase]

theorem Plays.isLate : Machine.isLate p k b = Machine.isLate p k a := by
  unfold Machine.isLate
  rw [(h.mapped k p).2, h.trainTime]

theorem Plays.isFar : Machine.isFar p k b = Machine.isFar p k a := by
  unfold Machine.isFar
  rw [(h.mapped k p).2, h.trainTime, h.cfg (idx := 0x2601) (sub := 5) (by decide) (.inl (by decide))]

end plays

theorem enter_moved (st : StreamState) (d : Dev) : Moved k { d.strm.s[k] with state := st } 0 d (setStream k st d) := onStream_moved (fun t => { t with state := st }) d

theorem stays_moved {st : StreamState} {d : Dev} (h : d.strm.s[k].state = st) : Moved k { d.strm.s[k] with state := st } 0 d d :=
  (Moved.refl k d).as (by rw [← h]) rfl

theorem tooFar_moved (d : Dev) : Moved k d.strm.s[k] 0 d (bump 0x2602 3 d) where
  toPlays := Plays.setReg (r := (0x2602, 3)) (List.mem_append_right _ (.head _)) _ d
  stream := rfl
  others _ _ := rfl
  counter i := by
    have hk := k.isLt
    exact cfg_bump_ne _ _ _ _ _ (by unfold odKey; omega)
  foreign j _ i := by
    have hj := j.isLt
    exact cfg_bump_ne _ _ _ _ _ (by unfold odKey; omega)

theorem late_moved (d : Dev) : Moved k d.strm.s[k] (Pi.single 1 1) d (bump (0x2610 + k.val) 0x0E d) := bump_moved 1 d

variable (p : AvtpPacket)

/-- A refused packet, late or far. -/
theorem takeSound_late {take : Dev → Dev} (h : isLate p k d = true) : takeSound p k take d = bump (0x2610 + k.val) 0x0E d := if_pos h

theorem takeSound_far {take : Dev → Dev} (h : isLate p k d = false) (hf : isFar p k d = true) : takeSound p k take d = bump 0x2602 3 d :=
  (if_neg (by rw [h]; exact Bool.false_ne_true)).trans (if_pos hf)

theorem takeSound_takes {take : Dev → Dev} (h : isLate p k d = false) (hf : isFar p k d = false) : takeSound p k take d = take d :=
  (if_neg (by rw [h]; exact Bool.false_ne_true)).trans (if_neg (by rw [hf]; exact Bool.false_ne_true))

/-- What the packet makes of the stream is a move of it. -/
theorem takeSound_moves {take : Dev → Dev} (h : ∃ x n, Moved k x n d (take d)) : ∃ x n, Moved k x n d (takeSound p k take d) := by
  unfold takeSound
  split
  · exact ⟨_, _, late_moved d⟩
  · split
    · exact ⟨_, _, tooFar_moved d⟩
    · exact h

/-- What a waiting stream does with a sound packet. -/
theorem waiting_takes (f : Nat) (d : Dev) :
    Moved k { takenAt p f (d.now + cfg d 0x2601 4 * msNs) d.strm.s[k] with state := .playing } (packetCounts 0 0 0) d
      (playAt k f p (setStream k .playing (noteAccepted k p d))) ∧
    (strmReg d k 9 ≠ 0xFF → Out.play k.val (strmReg d k 9) (gridTime (strmRate d k) f) (packetSlots d k p) ∈
      (playAt k f p (setStream k .playing (noteAccepted k p d))).out) := by
  obtain ⟨h1, h2⟩ := (((Moved.refl k d).noteAccepted p).onStream fun t => { t with state := .playing }).playAt p f
  refine ⟨h1.as rfl ?_, h2⟩
  funext i
  fin_cases i <;> rfl

theorem listenerTakes_moves (d : Dev) : ∃ x n, Moved k x n d (listenerTakes p k d) := by
  have hstay : ∃ x n, Moved k x n d d := ⟨_, _, .refl k d⟩
  rw [listenerTakes_eq]
  split
  · split
    · exact hstay
    · exact takeSound_moves p ⟨_, _, (waiting_takes p _ d).1⟩
  · split
    · exact ⟨_, _, ((enter_moved .holding d).unsound p).1⟩
    · exact takeSound_moves p ⟨_, _, ((Moved.refl k d).sound p _).1⟩
  · split
    · exact ⟨_, _, ((Moved.refl k d).unsound p).1⟩
    · exact takeSound_moves p ⟨_, _, ((enter_moved .playing d).sound p _).1⟩
  · exact hstay

end takes

/-! ### Packets for several listeners -/

/-- From `a` to `b` other streams than `k` take a packet. -/
structure Apart (k : Fin 64) (a b : Dev) : Prop extends Plays a b where
  stream : b.strm.s[k] = a.strm.s[k]
  counter : ∀ i : Fin 5, Machine.cfg b (0x2610 + k.val) (0x0D + i.val) = Machine.cfg a (0x2610 + k.val) (0x0D + i.val)

theorem Apart.refl (k : Fin 64) (d : Dev) : Apart k d d := ⟨(Moved.refl k d).toPlays, rfl, fun _ => rfl⟩

theorem Apart.trans (h1 : Apart k a b) (h2 : Apart k b c) : Apart k a c :=
  ⟨h1.toPlays.trans h2.toPlays, h2.stream.trans h1.stream, fun i => (h2.counter i).trans (h1.counter i)⟩

theorem Moved.apart {j : Fin 64} (h : Moved j x n a b) (hj : k ≠ j) : Apart k a b := ⟨h.toPlays, h.others k hj, h.foreign k hj⟩

theorem listeners_apart (p : AvtpPacket) : ∀ (l : List (Fin 64)) (d : Dev), k ∉ l → Apart k d (forEach l (listenerTakes p) d) := fun l => by
  induction l with
  | nil => exact fun d _ => .refl k d
  | cons j l ih =>
    intro d hk
    obtain ⟨x, n, h⟩ := listenerTakes_moves (k := j) p d
    exact (h.apart fun e => hk (e ▸ .head _)).trans (ih _ fun hm => hk (.tail _ hm))

variable {s : State}

/-- A packet reaches a listener whose fields match, after other listeners and before others. -/
theorem avtp_reaches {p : AvtpPacket} (hl : listens s.dev p k = true) (hf : fieldsMatch s.dev p k = true) :
    ∃ b, Apart k s.found b ∧ Completes (.avtpPacket p) s fun d => Apart k (listenerTakes p k b) d := by
  have hmem : k ∈ (allStreams.filter (listens s.found p)).filter (fieldsMatch s.found p) :=
    List.mem_filter.2 ⟨List.mem_filter.2 ⟨List.mem_finRange k, hl⟩, hf⟩
  have hnodup : ((allStreams.filter (listens s.found p)).filter (fieldsMatch s.found p)).Nodup := ((List.nodup_finRange 64).filter _).filter _
  have hls : (allStreams.filter (listens s.found p)).isEmpty = false := by
    cases h : allStreams.filter (listens s.found p) with
    | nil =>
      rw [h] at hmem
      cases hmem
    | cons => rfl
  have hok : ((allStreams.filter (listens s.found p)).filter (fieldsMatch s.found p)).isEmpty = false := by
    cases h : (allStreams.filter (listens s.found p)).filter (fieldsMatch s.found p) with
    | nil =>
      rw [h] at hmem
      cases hmem
    | cons => rfl
  have hrun : exec (.avtpPacket p) s = s.does fun d => forEach ((allStreams.filter (listens d p)).filter (fieldsMatch d p)) (listenerTakes p) d := by
    show execAvtpPacket p s = _
    unfold execAvtpPacket
    refine does_congr ?_
    unfold takePacket
    dsimp only
    rw [hls, hok]
    rfl
  obtain ⟨l1, l2, hsplit⟩ := List.append_of_mem hmem
  rw [hsplit] at hnodup
  have h1 : k ∉ l1 := fun h => (List.nodup_append.1 hnodup).2.2 k h k (.head _) rfl
  have h2 : k ∉ l2 := (List.nodup_cons.1 (List.nodup_append.1 hnodup).2.1).1
  refine ⟨forEach l1 (listenerTakes p) s.found, listeners_apart p l1 _ h1, completes_of_exec hrun ?_⟩
  rw [hsplit]
  unfold forEach
  rw [List.foldl_append, List.foldl_cons]
  exact listeners_apart p l2 _ h2

end listeners

end Sys2Proof.Machine
end

section
/-! PROOF. Streams, command by command: packets of listeners and talkers, timeouts, reservation banks and grids (R264, R267, R273, R275 to R278). -/

namespace Sys2Proof.Machine

section streams

variable {s : State} {a b c d : Dev} {k : Fin 64} {p : AvtpPacket} {x : StreamS} {n : Fin 5 → Nat}

/-! ### AVTP_PACKET -/

/-- A register has counted. -/
def Plus (s : State) (idx sub n : Nat) (d : Dev) : Prop :=
  if n = 0 then cfg d idx sub = cfg s.dev idx sub else cfg d idx sub = min 0xFFFFFFFF (cfg s.dev idx sub + n)

theorem plus_of_counted {idx sub n : Nat} (h : cfg d idx sub = counted (cfg s.dev idx sub) n) : Plus s idx sub n d := by
  unfold Plus
  unfold counted at h
  split <;> simp_all

/-- The listener's part in what a packet leaves. -/
structure Outcome (s : State) (k : Fin 64) (x : StreamS) (n : Fin 5 → Nat) (o : Option Out) (d : Dev) : Prop where
  stream : d.strm.s[k] = x
  counts : ∀ i : Fin 5, Plus s (0x2610 + k.val) (0x0D + i.val) (n i) d
  sent : ∀ e ∈ o, e ∈ d.out

theorem avtp_outcome (hl : listens s.dev p k = true) (hf : fieldsMatch s.dev p k = true) (o : Option Out)
    (h : ∀ b, Apart k s.found b → Moved k x n b (listenerTakes p k b) ∧ ∀ e ∈ o, e ∈ (listenerTakes p k b).out) :
    Completes (.avtpPacket p) s (Outcome s k x n o) := by
  obtain ⟨b, hb, hc⟩ := avtp_reaches hl hf
  obtain ⟨hm, hout⟩ := h b hb
  refine hc.mono fun d hd => ⟨hd.stream.trans hm.stream, fun i => plus_of_counted ?_, fun e he => hd.sent e (hout e he)⟩
  rw [hd.counter, hm.counter, hb.counter]
  rfl

theorem avtp_nobody (h : allStreams.filter (listens s.dev p) = []) : Completes (.avtpPacket p) s fun d => d = s.found := by
  have hrun : exec (.avtpPacket p) s = s.does fun d => d := by
    show execAvtpPacket p s = _
    unfold execAvtpPacket
    refine does_congr ?_
    unfold takePacket
    dsimp only
    rw [show allStreams.filter (listens s.found p) = [] from h]
    rfl
  exact completes_of_exec hrun rfl

theorem avtp_unmatched (h : allStreams.filter (listens s.dev p) ≠ []) (hf : ∀ k : Fin 64, listens s.dev p k = true → fieldsMatch s.dev p k = false) :
    Completes (.avtpPacket p) s fun d => Plus s 0x2602 3 1 d ∧ RegsFramed [(0x2602, 3)] s.found d ∧ Framed [.regs] s.found d := by
  have hrun : exec (.avtpPacket p) s = s.does fun d => bump 0x2602 3 d := by
    show execAvtpPacket p s = _
    unfold execAvtpPacket
    refine does_congr ?_
    unfold takePacket
    dsimp only
    have hok : (allStreams.filter (listens s.found p)).filter (fieldsMatch s.found p) = [] := by
      refine List.filter_eq_nil_iff.2 fun k hk => ?_
      rw [show fieldsMatch s.found p k = false from hf k (List.mem_filter.1 hk).2]
      exact Bool.false_ne_true
    rw [hok, if_neg (show ¬ (allStreams.filter (listens s.found p)).isEmpty = true from fun he => h (List.isEmpty_iff.1 he))]
    rfl
  refine completes_of_exec hrun ⟨?_, (RegsFramed.refl _ _).bump _ _ (.head _), bump_framed _ _ _ (by decide) (.refl _ _)⟩
  unfold Plus
  rw [if_neg (by decide)]
  exact cfg_bump_self 0x2602 3 s.found (by decide +kernel)

section listener

theorem takes_unsound (hst : d.strm.s[k].state = .playing ∨ d.strm.s[k].state = .holding) (hs : isSound p d = false) :
    ∃ e, listenerTakes p k d = unsoundStep k p e ∧ Moved k { d.strm.s[k] with state := .holding } 0 d e := by
  rw [listenerTakes_eq]
  rcases hst with h | h
  · rw [h]
    exact ⟨_, if_pos (by rw [hs]; rfl), enter_moved _ d⟩
  · refine ⟨d, ?_, stays_moved h⟩
    rw [h]
    exact if_pos (by rw [hs]; rfl)

theorem takes_sound (hst : d.strm.s[k].state = .playing ∨ d.strm.s[k].state = .holding) (hs : isSound p d = true) (hl : isLate p k d = false)
    (hf : isFar p k d = false) : ∃ e, listenerTakes p k d = soundStep k (mappedFrame p k d) p e ∧ Moved k { d.strm.s[k] with state := .playing } 0 d e := by
  have hn : ¬ (!isSound p d) = true := by
    rw [hs]
    exact Bool.false_ne_true
  rw [listenerTakes_eq]
  rcases hst with h | h
  · refine ⟨d, ?_, stays_moved h⟩
    rw [h]
    exact (if_neg hn).trans (takeSound_takes p hl hf)
  · rw [h]
    exact ⟨_, (if_neg hn).trans (takeSound_takes p hl hf), enter_moved _ d⟩

theorem takes_waiting (hst : d.strm.s[k].state = .waiting) (hs : isSound p d = true) (hl : isLate p k d = false) (hf : isFar p k d = false) :
    listenerTakes p k d = playAt k (mappedFrame p k d) p (setStream k .playing (noteAccepted k p d)) := by
  rw [listenerTakes_eq, hst]
  exact (if_neg (by rw [hs]; exact Bool.false_ne_true)).trans (takeSound_takes p hl hf)

theorem takes_late (hst : d.strm.s[k].state = .waiting ∨ d.strm.s[k].state = .playing ∨ d.strm.s[k].state = .holding) (hs : isSound p d = true)
    (hl : isLate p k d = true) : listenerTakes p k d = bump (0x2610 + k.val) 0x0E d := by
  have hn : ¬ (!isSound p d) = true := by
    rw [hs]
    exact Bool.false_ne_true
  rw [listenerTakes_eq]
  rcases hst with h | h | h <;> rw [h] <;> exact (if_neg hn).trans (takeSound_late p hl)

theorem takes_far (hst : d.strm.s[k].state = .waiting ∨ d.strm.s[k].state = .playing ∨ d.strm.s[k].state = .holding) (hs : isSound p d = true)
    (hl : isLate p k d = false) (hf : isFar p k d = true) : listenerTakes p k d = bump 0x2602 3 d := by
  have hn : ¬ (!isSound p d) = true := by
    rw [hs]
    exact Bool.false_ne_true
  rw [listenerTakes_eq]
  rcases hst with h | h | h <;> rw [h] <;> exact (if_neg hn).trans (takeSound_far p hl hf)

end listener

section outcome

variable (hl : listens s.dev p k = true) (hm : fieldsMatch s.dev p k = true)
include hl hm

theorem avtp_late (hst : s.dev.strm.s[k].state = .waiting ∨ s.dev.strm.s[k].state = .playing ∨ s.dev.strm.s[k].state = .holding)
    (hs : isSound p s.dev = true) (hlate : isLate p k s.dev = true) : Completes (.avtpPacket p) s (Outcome s k s.dev.strm.s[k] (Pi.single 1 1) none) := by
  refine avtp_outcome hl hm none fun b hb => ⟨?_, fun e he => nomatch he⟩
  rw [takes_late (by rw [hb.stream]; exact hst) ((hb.isSound p).trans hs) ((hb.isLate k p).trans hlate)]
  exact (late_moved b).as hb.stream rfl

theorem avtp_far (hst : s.dev.strm.s[k].state = .waiting ∨ s.dev.strm.s[k].state = .playing ∨ s.dev.strm.s[k].state = .holding)
    (hs : isSound p s.dev = true) (hlate : isLate p k s.dev = false) (hfar : isFar p k s.dev = true) :
    Completes (.avtpPacket p) s (Outcome s k s.dev.strm.s[k] 0 none) := by
  refine avtp_outcome hl hm none fun b hb => ⟨?_, fun e he => nomatch he⟩
  rw [takes_far (by rw [hb.stream]; exact hst) ((hb.isSound p).trans hs) ((hb.isLate k p).trans hlate) ((hb.isFar k p).trans hfar)]
  exact (tooFar_moved b).as hb.stream rfl

/-- What a packet plays. -/
def playOf (s : State) (k : Fin 64) (f : Nat) (p : AvtpPacket) : Option Out :=
  if strmReg s.dev k 9 = 0xFF then none else some (.play k.val (strmReg s.dev k 9) (gridTime (strmRate s.dev k) f) (packetSlots s.dev k p))

omit hl hm in
theorem playOf_of {f : Nat} (hb : Plays s.found b) (h : strmReg b k 9 ≠ 0xFF →
    Out.play k.val (strmReg b k 9) (gridTime (strmRate b k) f) (packetSlots b k p) ∈ d.out) : ∀ e ∈ playOf s k f p, e ∈ d.out := by
  have h9 : strmReg b k 9 = strmReg s.dev k 9 := hb.strmReg k (by decide)
  have hr : strmRate b k = strmRate s.dev k := hb.strmRate k
  have hp : packetSlots b k p = packetSlots s.dev k p := hb.packetSlots k p
  rw [h9, hr, hp] at h
  intro e he
  unfold playOf at he
  split at he
  · cases he
  · next hn =>
    cases he
    exact h hn

omit hl hm in
theorem timeout_of (hb : Plays s.found b) : b.now + cfg b 0x2601 4 * msNs = s.dev.now + cfg s.dev 0x2601 4 * msNs := by
  rw [hb.now, hb.cfg (idx := 0x2601) (sub := 4) (by decide) (.inl (by decide))]
  rfl

/-- A waiting stream starts to play. -/
theorem avtp_starts (hst : s.dev.strm.s[k].state = .waiting) (hs : isSound p s.dev = true) (hlate : isLate p k s.dev = false) (hfar : isFar p k s.dev = false) :
    Completes (.avtpPacket p) s (Outcome s k { takenAt p (mappedFrame p k s.dev) (s.dev.now + cfg s.dev 0x2601 4 * msNs) s.dev.strm.s[k] with state := .playing }
      (packetCounts 0 0 0) (playOf s k (mappedFrame p k s.dev) p)) := by
  refine avtp_outcome hl hm _ fun b hb => ?_
  have hf : mappedFrame p k b = mappedFrame p k s.dev := (hb.mapped k p).1
  rw [takes_waiting (by rw [hb.stream]; exact hst) ((hb.isSound p).trans hs) ((hb.isLate k p).trans hlate) ((hb.isFar k p).trans hfar), hf]
  obtain ⟨h1, h2⟩ := waiting_takes (k := k) p (mappedFrame p k s.dev) b
  rw [timeout_of hb.toPlays, hb.stream] at h1
  exact ⟨h1, playOf_of hb.toPlays h2⟩

/-- A packet that is not sound finds a waiting stream waiting. -/
theorem avtp_waits (hst : s.dev.strm.s[k].state = .waiting) (hs : isSound p s.dev = false) :
    Completes (.avtpPacket p) s (Outcome s k s.dev.strm.s[k] 0 none) := by
  refine avtp_outcome hl hm none fun b hb => ⟨?_, fun e he => nomatch he⟩
  have hx : listenerTakes p k b = b := by
    rw [listenerTakes_eq, show b.strm.s[k].state = .waiting by rw [hb.stream]; exact hst]
    exact if_pos (by rw [(hb.isSound p).trans hs]; rfl)
  rw [hx]
  exact (Moved.refl k b).as hb.stream rfl

/-- The frames that a gap in the sequence skips, and the frame expected after it. -/
def skipped (s : State) (k : Fin 64) (p : AvtpPacket) : Nat := (p.seq - s.dev.strm.s[k].seq - 1).toNat

/-- The frame expected of a packet. -/
def expectedFrame (s : State) (k : Fin 64) (p : AvtpPacket) : Nat := s.dev.strm.s[k].expected + skipped s k p * framesOf p

/-- A sound packet is taken at its mapped frame. -/
theorem avtp_sound (hst : s.dev.strm.s[k].state = .playing ∨ s.dev.strm.s[k].state = .holding) (hs : isSound p s.dev = true)
    (hlate : isLate p k s.dev = false) (hfar : isFar p k s.dev = false) :
    let f := mappedFrame p k s.dev
    Completes (.avtpPacket p) s (Outcome s k (takenAt p f (s.dev.now + cfg s.dev 0x2601 4 * msNs) { s.dev.strm.s[k] with state := .playing })
      (packetCounts (skipped s k p * framesOf p + (f - expectedFrame s k p)) (if f = expectedFrame s k p then 0 else 1) (if skipped s k p = 0 then 0 else 1))
      (playOf s k f p)) := by
  intro f
  refine avtp_outcome hl hm _ fun b hb => ?_
  have hf : mappedFrame p k b = f := (hb.mapped k p).1
  obtain ⟨e, he, hmoved⟩ := takes_sound (by rw [hb.stream]; exact hst) ((hb.isSound p).trans hs) ((hb.isLate k p).trans hlate) ((hb.isFar k p).trans hfar)
  obtain ⟨h1, h2⟩ := hmoved.sound p f
  rw [timeout_of hb.toPlays, zero_add] at h1
  rw [he, hf]
  refine ⟨h1.as ?_ ?_, playOf_of hb.toPlays h2⟩ <;> rw [hb.stream] <;> rfl

/-- One that is not sound is taken by its sequence. -/
theorem avtp_unsound (hst : s.dev.strm.s[k].state = .playing ∨ s.dev.strm.s[k].state = .holding) (hs : isSound p s.dev = false) :
    Completes (.avtpPacket p) s (Outcome s k (takenAt p (expectedFrame s k p) (s.dev.now + cfg s.dev 0x2601 4 * msNs) { s.dev.strm.s[k] with state := .holding })
      (packetCounts (skipped s k p * framesOf p) 0 (if skipped s k p = 0 then 0 else 1)) (playOf s k (expectedFrame s k p) p)) := by
  refine avtp_outcome hl hm _ fun b hb => ?_
  obtain ⟨e, he, hmoved⟩ := takes_unsound (by rw [hb.stream]; exact hst) ((hb.isSound p).trans hs)
  have hexp : b.strm.s[k].expected + (p.seq - b.strm.s[k].seq - 1).toNat * framesOf p = expectedFrame s k p := by
    rw [hb.stream]
    rfl
  obtain ⟨h1, h2⟩ := hmoved.unsound p
  rw [timeout_of hb.toPlays, zero_add] at h1
  rw [he]
  dsimp only at h1 h2
  rw [hexp] at h1 h2
  refine ⟨h1.as ?_ ?_, playOf_of hb.toPlays h2⟩ <;> rw [hb.stream] <;> rfl

end outcome

/-! ### TALKER_PACKET (R264) -/

theorem Moved.apart_still (h : Moved k a.strm.s[k] 0 a b) : Apart k a b := ⟨h.toPlays, h.stream, h.counter⟩

theorem takes_sending (h : d.strm.s[k].state = .sending) : listenerTakes p k d = d := by
  rw [listenerTakes_eq, h]

/-- The node's own packet leaves a talker as it is. -/
theorem takePacket_apart (h : d.strm.s[k].state = .sending) : Apart k d (takePacket p d) := by
  have hall : ∀ (l : List (Fin 64)) (e : Dev), e.strm.s[k].state = .sending → Apart k e (forEach l (listenerTakes p) e) := fun l => by
    induction l with
    | nil => exact fun e _ => .refl k e
    | cons j l ih =>
      intro e he
      have hj : Apart k e (listenerTakes p j e) := by
        by_cases hk : k = j
        · subst hk
          rw [takes_sending he]
          exact .refl k e
        · obtain ⟨x, n, hm⟩ := listenerTakes_moves (k := j) p e
          exact hm.apart hk
      exact hj.trans (ih _ (by rw [hj.stream]; exact he))
  unfold takePacket
  dsimp only
  split
  · exact .refl k d
  · split
    · exact (tooFar_moved d).apart_still
    · exact hall _ d h

/-- What collecting samples leaves of the talker. -/
theorem collectSamples_keeps (k : Fin 64) (frames : List (List (BitVec 32))) (d : Dev) : let e := (collectSamples k frames d).2.2
    (e.strm.s[k].state, e.strm.s[k].seq, e.strm.s[k].mr) = (d.strm.s[k].state, d.strm.s[k].seq, d.strm.s[k].mr) ∧ Framed [.strm, .host] d e := by
  intro e
  refine ⟨?_, collectSamples_framed k frames d (by decide) (.refl _ d)⟩
  show (Prod.mk _ _) = _
  have he : e = (collectSamples k frames d).2.2 := rfl
  unfold collectSamples at he
  dsimp only at he
  split at he
  · rw [he]
    show ((onStream k _ d).strm.s[k].state, (onStream k _ d).strm.s[k].seq, (onStream k _ d).strm.s[k].mr) = _
    rw [onStream_self]
  · rw [he]

/-- A frame on its way into the queues moves no stream and none of its counters. -/
theorem dispatchFrame_streams (r : Arrival) (m : StreamMatch) (y : Decision) (d : Dev) : (dispatchFrame r m y d).strm = d.strm ∧
    ∀ i : Fin 5, cfg (dispatchFrame r m y d) (0x2610 + k.val) (0x0D + i.val) = cfg d (0x2610 + k.val) (0x0D + i.val) := by
  have hf : Framed [.out, .regs, .fab, .queues, .sched, .host, .ints, .counters] d (dispatchFrame r m y d) := dispatchFrame_framed r m y d (by decide) (.refl _ d)
  have hr : RegsFramed ([(0x2207, 0x0D), (0x2207, 0x0E)] ++ allPorts.flatMap frameCounters) d (dispatchFrame r m y d) := by
    refine dispatchFrame_steps (R := RegsFramed _) RegsFramed.trans (fun _ _ => .of_same rfl) (fun m bs d => ?_) (fun b sub d hs => ?_)
      (fun f need rate p q d => ?_) (fun f need d => ?_) (fun f st d => ?_) r m y d
    · exact .of_same ((tagAtTalker_framed (L := [.sched]) m bs d (by decide) (.refl _ d)).same .regs (by decide))
    · unfold onlyIf
      split
      · exact (RegsFramed.refl _ d).bump _ _ (List.mem_append_left _ (by rcases hs with rfl | rfl <;> decide))
      · exact .refl _ d
    · exact (admitPort_regs f need rate p q d).mono fun r hr => List.mem_append_right _ (List.mem_flatMap.2 ⟨p, by simp [allPorts], hr⟩)
    · exact .of_same ((admitHost_framed (L := [.out, .fab, .queues, .host, .ints, .counters]) f need d (by decide) (.refl _ d)).same .regs (by decide))
    · exact .of_same ((settle_framed (L := [.out, .queues, .host, .ints]) f st d (by decide) (.refl _ d)).same .regs (by decide))
  refine ⟨hf.same .strm (by decide), fun i => hr.cfg _ _ fun r hm => ?_⟩
  have hlist : ∀ r ∈ [(0x2207, 0x0D), (0x2207, 0x0E)] ++ allPorts.flatMap frameCounters, odKey r.1 r.2 < odKey 0x2603 0 := by decide +kernel
  have := hlist r hm
  unfold odKey at *
  omega

/-- The talker's packet is counted and numbered. -/
def packetLeaves (k : Fin 64) (d : Dev) : Dev :=
  countEv 0x012 k.val 0 1 (bump (0x2610 + k.val) 0x0D (onStream k (fun x => { x with seq := x.seq + 1 }) d))

/-- A talker's command, with the packet, the arrival and the decision that it forms. -/
theorem talkerPacket_forms (samples : List (List (BitVec 32))) (d : Dev) (h : d.strm.s[k].state = .sending) : ∃ (p : AvtpPacket) (r : Arrival) (m : StreamMatch) (y : Decision) (e : Dev),
    e = (collectSamples k samples d).2.2 ∧ ∀ s : State, s.found = d →
      Completes (.talkerPacket k samples) s fun x => x = takePacket p (dispatchFrame r m y (packetLeaves k e)) := by
  exact ⟨_, _, _, _, _, rfl, fun s hs => completes_of_exec (show execTalkerPacket k samples s = s.does _ from rfl) (by rw [hs]; exact if_pos h)⟩

theorem packetLeaves_stream (k : Fin 64) (d : Dev) : (packetLeaves k d).strm.s[k] = { d.strm.s[k] with seq := d.strm.s[k].seq + 1 } :=
  onStream_self k _ d

theorem packetLeaves_counts (k : Fin 64) (d : Dev) : cfg (packetLeaves k d) (0x2610 + k.val) 0x0D = counted (cfg d (0x2610 + k.val) 0x0D) 1 :=
  (bump_moved (k := k) 0 (onStream k (fun x => { x with seq := x.seq + 1 }) d)).counter 0

theorem talkerPacket_sends (samples : List (List (BitVec 32))) (h : s.dev.strm.s[k].state = .sending) : Completes (.talkerPacket k samples) s fun d =>
    d.strm.s[k].state = .sending ∧ d.strm.s[k].seq = s.dev.strm.s[k].seq + 1 ∧ d.strm.s[k].mr = s.dev.strm.s[k].mr ∧
      Plus s (0x2610 + k.val) 0x0D 1 d := by
  obtain ⟨p, r, m, y, e, he, hrun⟩ := talkerPacket_forms samples s.found h
  refine (hrun s rfl).mono fun d hd => ?_
  obtain ⟨hk, hf⟩ := collectSamples_keeps k samples s.found
  rw [← he] at hk hf
  simp only [Prod.mk.injEq] at hk
  obtain ⟨hstate, hseq, hmr⟩ := hk
  obtain ⟨hstrm, hregs⟩ := dispatchFrame_streams (k := k) r m y (packetLeaves k e)
  have hq : (dispatchFrame r m y (packetLeaves k e)).strm.s[k] = { e.strm.s[k] with seq := e.strm.s[k].seq + 1 } := by
    rw [hstrm, packetLeaves_stream]
  have hlast : Apart k (dispatchFrame r m y (packetLeaves k e)) d := hd ▸ takePacket_apart (by rw [hq]; exact hstate.trans h)
  have hx := hlast.stream.trans hq
  refine ⟨by rw [hx]; exact hstate.trans h, by rw [hx]; exact congrArg (· + 1) hseq, by rw [hx]; exact hmr, plus_of_counted ?_⟩
  calc cfg d (0x2610 + k.val) 0x0D = cfg (dispatchFrame r m y (packetLeaves k e)) (0x2610 + k.val) 0x0D := hlast.counter 0
    _ = cfg (packetLeaves k e) (0x2610 + k.val) 0x0D := hregs 0
    _ = counted (cfg e (0x2610 + k.val) 0x0D) 1 := packetLeaves_counts k e
    _ = counted (cfg s.dev (0x2610 + k.val) 0x0D) 1 := by
      rw [(RegsFramed.of_same (L := []) (hf.same .regs (by decide))).cfg _ _ (by simp)]
      rfl

theorem talkerPacket_rests (samples : List (List (BitVec 32))) (h : s.dev.strm.s[k].state ≠ .sending) :
    Completes (.talkerPacket k samples) s fun d => d = s.found :=
  completes_of_exec (show execTalkerPacket k samples s = s.does _ from rfl) (if_neg h)

/-! ### Time without a packet, and the end of a re-phasing -/

theorem streamTimeout_ends {t : Nat} (ht : s.dev.strm.s[k].timeout = some t) (h : s.dev.strm.s[k].state = .playing ∨ s.dev.strm.s[k].state = .holding) :
    Completes (.streamTimeout k) s fun d => d.now = max s.dev.now t ∧
      d.strm = { s.dev.strm with s := s.dev.strm.s.set k.val { s.dev.strm.s[k] with state := .waiting, timeout := none } } ∧
      cfg d (0x2610 + k.val) 0x0F = counted (cfg s.dev (0x2610 + k.val) 0x0F) (framesMissed k (arrive t s.found)) ∧
      Framed (.clock :: .strm :: eventParts) s.found d := by
  have hrun : exec (.streamTimeout k) s = s.does fun d => match d.strm.s[k].timeout, d.strm.s[k].state with
      | some t, .playing | some t, .holding => raise evListenerLost k.val
          (onStream k (fun x => { x with state := .waiting, timeout := none }) (muteFrames k (framesMissed k (arrive t d)) (arrive t d)))
      | _, _ => d := rfl
  refine completes_of_exec hrun ?_
  have hcase : (match s.found.strm.s[k].timeout, s.found.strm.s[k].state with
      | some t, .playing | some t, .holding => raise evListenerLost k.val
          (onStream k (fun x => { x with state := .waiting, timeout := none }) (muteFrames k (framesMissed k (arrive t s.found)) (arrive t s.found)))
      | _, _ => s.found) = raise evListenerLost k.val
          (onStream k (fun x => { x with state := .waiting, timeout := none }) (muteFrames k (framesMissed k (arrive t s.found)) (arrive t s.found))) := by
    rw [show s.found.strm.s[k].timeout = some t from ht]
    rcases h with h | h <;> rw [show s.found.strm.s[k].state = _ from h]
  rw [hcase]
  generalize hn : framesMissed k (arrive t s.found) = n
  have hnow : (arrive t s.found).now = max s.dev.now t := arrive_now t s.found
  have hstrm : (arrive t s.found).strm = s.dev.strm := arrive_strm t s.found
  have hcfg : cfg (arrive t s.found) (0x2610 + k.val) 0x0F = cfg s.dev (0x2610 + k.val) 0x0F := cfg_arrive t s.found _ _
  have harr : Framed (.clock :: .strm :: eventParts) s.found (arrive t s.found) := arrive_framed t s.found (by decide) (.refl _ _)
  generalize arrive t s.found = a at *
  have hmute := muteFrames_moved (k := k) n a
  have hmuteF : Framed (.clock :: .strm :: eventParts) s.found (muteFrames k n a) := muteFrames_framed k n a (by decide) harr
  have hmuteN : (muteFrames k n a).now = a.now := now_of_framed (muteFrames_framed (L := [.out, .regs]) k n a (by decide) (.refl _ a)) (by decide)
  have hmuteS : (muteFrames k n a).strm = a.strm := (muteFrames_framed (L := [.out, .regs]) k n a (by decide) (.refl _ a)).same .strm (by decide)
  generalize muteFrames k n a = b at *
  generalize hc : onStream k (fun x => { x with state := .waiting, timeout := none }) b = c
  have hraise := raise_framed (L := [.out, .regs, .recd, .ints, .counters]) evListenerLost k.val c (by decide) (.refl _ c)
  have hmoved := raise_moved (k := k) evListenerLost k.val c
  have hend : Framed (.clock :: .strm :: eventParts) s.found (raise evListenerLost k.val c) :=
    raise_framed _ _ _ (by decide) (hc ▸ onStream_framed k _ b (by decide) hmuteF)
  generalize raise evListenerLost k.val c = d at *
  refine ⟨?_, ?_, ?_, hend⟩
  · rw [now_of_framed hraise (by decide), ← hc]
    exact hmuteN.trans hnow
  · rw [hraise.same .strm (by decide), ← hc]
    exact congrArg (fun m : StreamsS => { m with s := vmod m.s k fun x => { x with state := .waiting, timeout := none } }) (hmuteS.trans hstrm)
  · calc cfg d (0x2610 + k.val) 0x0F = cfg c (0x2610 + k.val) 0x0F := hmoved.counter 2
      _ = cfg b (0x2610 + k.val) 0x0F := by rw [← hc]; rfl
      _ = counted (cfg a (0x2610 + k.val) 0x0F) n := (hmute.counter 2).trans (by rw [Pi.single_eq_same]; rfl)
      _ = counted (cfg s.dev (0x2610 + k.val) 0x0F) n := by rw [hcfg]

theorem rephase_ends {t : Nat} (ht : s.dev.strm.rephaseEnd = some t) : Completes .rephaseEnd s fun d =>
    d.strm = { s.dev.strm with rephaseEnd := none, gridOff := Vector.replicate 3 0 } ∧ d.now = max s.dev.now t ∧
      Framed (.clock :: .strm :: eventParts) s.found d := by
  have hrun : exec .rephaseEnd s = s.does fun d => raise evRephased noInst
      (onStrm (fun r => { r with rephaseEnd := none, gridOff := Vector.replicate 3 0 }) (arrive t d)) := by
    show execRephaseEnd s = _
    unfold execRephaseEnd
    refine does_congr ?_
    rw [show s.found.strm.rephaseEnd = some t from ht]
  refine completes_of_exec hrun ?_
  have hnow : (arrive t s.found).now = max s.dev.now t := arrive_now t s.found
  have hstrm : (arrive t s.found).strm = s.dev.strm := arrive_strm t s.found
  have harr : Framed (.clock :: .strm :: eventParts) s.found (arrive t s.found) := arrive_framed t s.found (by decide) (.refl _ _)
  generalize arrive t s.found = a at *
  generalize hb : onStrm (fun r => { r with rephaseEnd := none, gridOff := Vector.replicate 3 0 }) a = b
  have hraise := raise_framed (L := [.out, .regs, .recd, .ints, .counters]) evRephased noInst b (by decide) (.refl _ b)
  refine ⟨?_, ?_, raise_framed _ _ _ (by decide) (hb ▸ onStrm_framed _ a (by decide) harr)⟩
  · rw [hraise.same .strm (by decide), ← hb]
    exact congrArg (fun m : StreamsS => { m with rephaseEnd := none, gridOff := Vector.replicate 3 0 }) hstrm
  · rw [now_of_framed hraise (by decide), ← hb]
    exact hnow

/-! ### The reservation banks -/

theorem reservationBank_built (h : s.dev.strm.building = true) {n : Numbering} (hn : n = (match s.dev.inaug.accepted with
      | some a => numberingOf s.dev.chip.ident a.body a.ids
      | none => s.dev.inaug.now)) :
    Completes .reservationBankBuilt s fun d => d.strm.building = false ∧ resBank d = resBank s.dev ∧
      d.strm.built = some (buildReservations s.found n).1 ∧ d.strm.builtFor = n.epoch ∧
      (s.dev.strm.switchPending = true ∨ s.dev.inaug.accepted = none → d.strm.switchPending = true) := by
  have hrun : exec .reservationBankBuilt s = s.does fun d => onStrm (fun r => { r with
      building := false, built := some (builtReservations n d).1, builtFor := n.epoch
      switchPending := r.switchPending || d.inaug.accepted.isNone }) (builtReservations n d).2 := by
    show execReservationBankBuilt s = _
    unfold execReservationBankBuilt
    refine does_congr ?_
    rw [hn]
    exact if_pos h
  refine completes_of_exec hrun ?_
  have hstrm : (builtReservations n s.found).2.strm = s.dev.strm :=
    (builtReservations_framed (L := [.out, .regs, .recd, .ints, .counters]) n s.found (by decide) (.refl _ _)).same .strm (by decide)
  have hbank : (builtReservations n s.found).1 = (buildReservations s.found n).1 := rfl
  generalize builtReservations n s.found = x at *
  refine ⟨rfl, ?_, congrArg some hbank, rfl, ?_⟩
  · show (if x.2.strm.bankOne then x.2.strm.bank1 else x.2.strm.bank0) = _
    rw [hstrm]
    rfl
  · rintro (hp | hp)
    · show (x.2.strm.switchPending || _) = true
      rw [hstrm, hp]
      rfl
    · show (_ || s.dev.inaug.accepted.isNone) = true
      rw [hp]
      exact Bool.or_true _

/-- The counters that a change of reservations moves (0x2602), with those of events. -/
def bankCounters : List (Nat × Nat) := [(0x2602, 1), (0x2602, 2)] ++ eventCounters

theorem strmReg_of_bankCounters (h : RegsFramed bankCounters a b) (k : Fin 64) {sub : Nat} (hs : sub < 256) : strmReg b k sub = strmReg a k sub := by
  have hk := k.isLt
  refine h.cfg_below (by unfold odKey; omega) fun r hr => ?_
  have hlow : ∀ r ∈ [(0x2602, 1), (0x2602, 2)], odKey r.1 r.2 < odKey 0x2603 0 := by decide
  have := hlow r hr
  unfold odKey at *
  omega

theorem builtReservations_regs (n : Numbering) (d : Dev) : RegsFramed bankCounters d (builtReservations n d).2 :=
  forEach_regs (fun _ e => (RegsFramed.bump _ _ (by decide) (.refl _ e)).trans ((raiseP_regs _ _ _ _).mono fun _ => List.mem_append_right _)) _ d

/-- A discard in every queue counts where its counting does. -/
theorem discardAll_regs {L : List (Nat × Nat)} {each : Port → Fin 8 → QFrame → Dev → Dev} (heach : ∀ p q f d, RegsFramed L d (each p q f d))
    (bad : Port → Fin 8 → QFrame → Bool) (status : Nat) (d : Dev) : RegsFramed L d (discardAll bad status each d) := by
  refine forEach_regs (fun x e => ?_) allQueues d
  show RegsFramed L e (discardFrom x.1 x.2 (bad x.1 x.2) status (each x.1 x.2) e)
  unfold discardFrom
  refine RegsFramed.trans (.of_same ?_) (forEach_regs (fun f e => (heach x.1 x.2 f e).trans (.of_same ?_)) _ _)
  · exact (endSpill_framed (L := [.queues]) _ _ _ (by decide) (setQueue_framed (L := [.queues]) _ _ _ e (by decide) (.refl _ e))).same .regs (by decide)
  · exact (settle_framed (L := [.out, .queues, .host, .ints]) f status _ (by decide) (.refl _ _)).same .regs (by decide)

/-- A bank depends on the dictionary, the streams, the ports and the profile alone. -/
theorem buildReservations_congr (n : Numbering) (hdict : b.dict = a.dict) (hstrm : b.strm = a.strm) (hports : b.ports = a.ports)
    (hnode : b.node = a.node) : buildReservations b n = buildReservations a n := by
  have hcfg : cfg b = cfg a := funext fun i => funext fun j => cfg_of_dict hdict i j
  have hline : lineMbps b = lineMbps a := funext fun p => by rw [lineMbps, hcfg]; rfl
  have hrow : rowBytes b = rowBytes a := funext fun i => funext fun r => by rw [rowBytes, tableBytes, hdict]; rfl
  have hmulti : findMulticast b = findMulticast a := funext fun m => funext fun v => by rw [findMulticast, hrow]; rfl
  have huni : findUnicast b = findUnicast a := funext fun m => funext fun v => by rw [findUnicast, hrow]; rfl
  have hconsist : streamConsistPorts b = streamConsistPorts a := funext fun m => funext fun v => by rw [streamConsistPorts, hmulti, huni]; rfl
  have hup : portUp b = portUp a := funext fun p => by rw [portUp, hports]; rfl
  have hlane : laneFor b = laneFor a := funext fun r => by rw [laneFor, hup]; rfl
  have hplace : placeReservation b n = placeReservation a n := funext fun r => by rw [placeReservation, hlane, hconsist]; rfl
  have hbank : resBank b = resBank a := by rw [resBank, hstrm]; rfl
  rw [buildReservations, hdict, hplace, hbank, hnode, hline, hcfg]
  rfl

/-- What a stream becomes at a boundary (R275): it talks or not, and its reservation is in the bank or not. -/
def talkerMoves (talks placed : Bool) (x : StreamS) : StreamS :=
  match talks, x.state, placed with
  | true, .waiting, true => { x with state := .sending, mr := !x.mr, seq := 0 }
  | true, .sending, false => { x with state := .waiting }
  | _, _, _ => x

theorem talkerAtBoundary_cases (j : Fin 64) (d : Dev) : (talkerAtBoundary j d = d ∨ ∃ f, talkerAtBoundary j d = onStream j f d) ∧
    (talkerAtBoundary j d).strm.s[j] = talkerMoves (strmReg d j 1 = 1) (talkerPlaced d j) d.strm.s[j] := by
  unfold talkerAtBoundary
  by_cases h : strmReg d j 1 = 1
  · rw [if_neg (by rw [h]; decide), decide_eq_true h]
    unfold talkerMoves
    cases hs : d.strm.s[j].state <;> cases hp : talkerPlaced d j
    case waiting.true | sending.false => exact ⟨.inr ⟨_, rfl⟩, onStream_self j _ d⟩
    all_goals exact ⟨.inl rfl, rfl⟩
  · rw [if_pos h, decide_eq_false h]
    exact ⟨.inl rfl, rfl⟩

/-- From `a` to `b` nothing but single streams moves. -/
structure StreamsOnly (a b : Dev) : Prop where
  framed : Framed [.strm] a b
  rest : b.strm = { a.strm with s := b.strm.s }

theorem StreamsOnly.trans (h1 : StreamsOnly a b) (h2 : StreamsOnly b c) : StreamsOnly a c :=
  ⟨h1.framed.trans h2.framed, by rw [h2.rest, h1.rest]⟩

theorem talkerAtBoundary_only (j : Fin 64) (d : Dev) : StreamsOnly d (talkerAtBoundary j d) := by
  obtain ⟨h | ⟨f, h⟩, -⟩ := talkerAtBoundary_cases j d
  · rw [h]
    exact ⟨.refl _ d, rfl⟩
  · rw [h]
    exact ⟨onStream_framed j f d (by decide) (.refl _ d), rfl⟩

theorem talkerAtBoundary_other {j : Fin 64} (h : k ≠ j) (d : Dev) : (talkerAtBoundary j d).strm.s[k] = d.strm.s[k] := by
  obtain ⟨e | ⟨f, e⟩, -⟩ := talkerAtBoundary_cases j d
  · rw [e]
  · rw [e]
    exact vmod_other _ _ _ _ fun e => h e.symm

/-- What a talker does at a boundary depends on its registers and the bank. -/
theorem StreamsOnly.asks (h : StreamsOnly a b) (k : Fin 64) : strmReg b k 1 = strmReg a k 1 ∧ talkerPlaced b k = talkerPlaced a k := by
  have hreg : ∀ sub, strmReg b k sub = strmReg a k sub := fun sub =>
    (RegsFramed.of_same (L := []) (h.framed.same .regs (by decide))).cfg _ _ (by simp)
  have hbank : resBank b = resBank a := by
    rw [resBank, h.rest]
    rfl
  exact ⟨hreg 1, by rw [talkerPlaced, hbank, hreg, hreg]; rfl⟩

/-- The talkers of a list move each for itself. -/
theorem talkers_move (k : Fin 64) : ∀ (l : List (Fin 64)) (d : Dev), l.Nodup → StreamsOnly d (forEach l talkerAtBoundary d) ∧
    (forEach l talkerAtBoundary d).strm.s[k] =
      if k ∈ l then talkerMoves (strmReg d k 1 = 1) (talkerPlaced d k) d.strm.s[k] else d.strm.s[k] := fun l => by
  induction l with
  | nil => exact fun d _ => ⟨⟨.refl _ d, rfl⟩, rfl⟩
  | cons j l ih =>
    intro d hl
    obtain ⟨hj, hl⟩ := List.nodup_cons.1 hl
    have hfirst := talkerAtBoundary_only j d
    obtain ⟨hlast, hstream⟩ := ih (talkerAtBoundary j d) hl
    refine ⟨hfirst.trans hlast, hstream.trans ?_⟩
    by_cases hk : k = j
    · subst hk
      rw [if_neg hj, if_pos (List.mem_cons_self ..)]
      exact (talkerAtBoundary_cases k d).2
    · obtain ⟨hreg, hplaced⟩ := hfirst.asks k
      rw [talkerAtBoundary_other hk, hreg, hplaced]
      exact if_congr ⟨.tail _, fun h => (List.mem_cons.1 h).resolve_left hk⟩ rfl rfl

/-- From `a` to `b` the bank `l` comes into force (R273, R275). -/
structure BankSet (l : List ResPlaced) (a b : Dev) : Prop where
  bank : resBank b = l
  bankOne : b.strm.bankOne = !a.strm.bankOne
  done : b.strm.switchPending = false
  held : b.strm.held = a.strm.held.filter (fun x => x.2 = a.inaug.now.epoch || a.inaug.heldCouplings.contains x.1)
  built : b.strm.built = if a.strm.builtFor = a.inaug.now.epoch then none else a.strm.built
  queue : ∀ (p : Port), ∀ f ∈ queueOf b p 5, ∃ r ∈ l, r.address.toNat = frameDest f.bytes ∧ r.vlan = f.vlan ∧ p ∈ r.ports
  stream : ∀ k : Fin 64, b.strm.s[k] = talkerMoves (strmReg a k 1 = 1)
    (l.any fun r => r.here && r.address.toNat = strmReg a k 2 % 2 ^ 48 && r.vlan = strmReg a k 3) a.strm.s[k]

/-- The device with the bank changed, before its frames and talkers follow. -/
def bankPut (l : List ResPlaced) (d : Dev) : Dev :=
  onStrm (fun r => { r with
    bank0 := if r.bankOne then l else r.bank0, bank1 := if r.bankOne then r.bank1 else l, bankOne := !r.bankOne
    built := if r.builtFor = d.inaug.now.epoch then none else r.built, switchPending := false
    held := r.held.filter (fun x => x.2 = d.inaug.now.epoch || d.inaug.heldCouplings.contains x.1)
    lastBoundary := some (trainTime d) }) d

theorem bankPut_resBank (l : List ResPlaced) (d : Dev) : resBank (bankPut l d) = l := by
  show (if !d.strm.bankOne then (if d.strm.bankOne then d.strm.bank1 else l) else if d.strm.bankOne then l else d.strm.bank0) = l
  cases d.strm.bankOne <;> rfl

/-- A frame of Q5 that the bank does not carry on. -/
def unreserved (d : Dev) (p : Port) (q : Fin 8) (f : QFrame) : Bool :=
  q = 5 && !(resEntries d (frameDest f.bytes) f.vlan).any (fun r => r.ports.contains p)

def unreservedDropped (d : Dev) : Dev := discardAll (unreserved d) 2 (fun _ _ _ => bump 0x2602 2) d

theorem switchReservations_eq (l : List ResPlaced) (d : Dev) : switchReservations l d =
    forEach allStreams talkerAtBoundary (raise evResChanged noInst (unreservedDropped (bankPut l d))) := rfl

theorem unreservedDropped_queue (d : Dev) (p : Port) {f : QFrame} (hf : f ∈ queueOf (unreservedDropped d) p 5) :
    ∃ r ∈ resBank d, r.address.toNat = frameDest f.bytes ∧ r.vlan = f.vlan ∧ p ∈ r.ports := by
  have hq := discardAll_queueOf (each := fun _ _ _ => bump 0x2602 2) (fun _ _ _ _ => rfl) (unreserved d) 2 d p 5
  rw [unreservedDropped, hq] at hf
  obtain ⟨r, hr, hp⟩ : ∃ r ∈ resEntries d (frameDest f.bytes) f.vlan, r.ports.contains p = true := by
    simpa [unreserved] using (List.mem_filter.1 hf).2
  obtain ⟨hmem, hkey⟩ := List.mem_filter.1 hr
  simp only [Bool.and_eq_true, decide_eq_true_eq] at hkey
  exact ⟨r, hmem, hkey.1, hkey.2, List.contains_iff_mem.1 hp⟩

theorem unreservedDropped_rest (d : Dev) : Framed [.out, .regs, .queues, .host, .ints] d (unreservedDropped d) ∧
    RegsFramed bankCounters d (unreservedDropped d) :=
  ⟨discardAll_framed _ 2 _ d (by decide) (fun _ _ _ _ h => bump_framed _ _ _ (by decide) h) (.refl _ d),
    discardAll_regs (fun _ _ _ e => (RegsFramed.refl _ e).bump _ _ (by decide)) _ 2 d⟩

theorem switchReservations_sets (l : List ResPlaced) (d : Dev) : BankSet l d (switchReservations l d) := by
  rw [switchReservations_eq]
  have hbank := bankPut_resBank l d
  have hqueue := fun p f => unreservedDropped_queue (f := f) (bankPut l d) p
  obtain ⟨hdrop, hregs⟩ := unreservedDropped_rest (bankPut l d)
  rw [hbank] at hqueue
  generalize hb : bankPut l d = b at *
  generalize unreservedDropped b = c at *
  have hraise := raise_framed (L := [.out, .regs, .recd, .ints, .counters]) evResChanged noInst c (by decide) (.refl _ c)
  have hraiseR : RegsFramed bankCounters c (raise evResChanged noInst c) := (raise_regs _ _ _).mono fun _ => List.mem_append_right _
  have hraiseQ := raise_queueOf evResChanged noInst c
  generalize raise evResChanged noInst c = e at *
  have hstrm : e.strm = b.strm := (hraise.same .strm (by decide)).trans (hdrop.same .strm (by decide))
  have hreg : ∀ (k : Fin 64) {sub : Nat}, sub < 256 → strmReg e k sub = strmReg d k sub := fun k _ hs =>
    (strmReg_of_bankCounters (hregs.trans hraiseR) k hs).trans (by rw [← hb]; rfl)
  have hbankE : resBank e = l := by
    rw [resBank, hstrm]
    exact hbank
  obtain ⟨honly, -⟩ := talkers_move 0 allStreams e (List.nodup_finRange 64)
  have hmove := fun k => (talkers_move k allStreams e (List.nodup_finRange 64)).2
  generalize forEach allStreams talkerAtBoundary e = g at *
  have hrest : g.strm = { b.strm with s := g.strm.s } := by rw [honly.rest, hstrm]
  refine ⟨?_, ?_, ?_, ?_, ?_, fun p f hf => hqueue p f ?_, fun k => ?_⟩
  · rw [resBank, hrest]
    exact hbank
  · rw [hrest, ← hb]
    rfl
  · rw [hrest, ← hb]
    rfl
  · rw [hrest, ← hb]
    rfl
  · rw [hrest, ← hb]
    rfl
  · rwa [queueOf_of_queues (queues_of_framed honly.framed (by decide)), hraiseQ] at hf
  · refine ((hmove k).trans (if_pos (List.mem_finRange k))).trans ?_
    rw [hreg k (by decide), talkerPlaced, hbankE, hreg k (by decide), hreg k (by decide), hstrm, ← hb]
    rfl

/-! ### STREAM_SWITCH_BOUNDARY -/

/-- The device at a boundary, before the bank changes: of what a bank and its change read, nothing has moved. -/
structure AtBoundary (s : State) (d : Dev) : Prop where
  bankOne : d.strm.bankOne = s.dev.strm.bankOne
  held : d.strm.held = s.dev.strm.held
  streams : d.strm.s = s.dev.strm.s
  built : d.strm.built = s.dev.strm.built
  builtFor : d.strm.builtFor = s.dev.strm.builtFor
  inaug : d.inaug = s.dev.inaug
  regs : RegsFramed bankCounters s.found d

/-- The moment of the boundary. -/
def boundaryReached (d : Dev) : Dev :=
  match d.sched.state with
  | .running | .fenced => arriveTrain (boundaryNow d) d
  | _ => d

theorem boundaryReached_leaves (d : Dev) : (boundaryReached d).dict = d.dict ∧ (boundaryReached d).strm = d.strm ∧
    (boundaryReached d).ports = d.ports ∧ (boundaryReached d).node = d.node ∧ (boundaryReached d).inaug = d.inaug := by
  unfold boundaryReached
  split
  · exact ⟨arriveTrain_dict _ _, arriveTrain_strm _ _, arriveTrain_ports _ _, arriveTrain_node _ _, arriveTrain_inaug _ _⟩
  · exact ⟨arriveTrain_dict _ _, arriveTrain_strm _ _, arriveTrain_ports _ _, arriveTrain_node _ _, arriveTrain_inaug _ _⟩
  · exact ⟨rfl, rfl, rfl, rfl, rfl⟩

theorem boundaryReached_atBoundary (s : State) : AtBoundary s (boundaryReached s.found) := by
  obtain ⟨hdict, hstrm, -, -, hinaug⟩ := boundaryReached_leaves s.found
  exact ⟨by rw [hstrm]; rfl, by rw [hstrm]; rfl, by rw [hstrm]; rfl, by rw [hstrm]; rfl, by rw [hstrm]; rfl, by rw [hinaug]; rfl, .of_same (by rw [hdict])⟩

theorem streamSwitch_exec (h : s.dev.strm.switchPending = true) : exec .streamSwitchBoundary s = s.does fun d =>
    match (boundaryReached d).strm.built.filter (fun _ => (boundaryReached d).strm.builtFor = (boundaryReached d).inaug.now.epoch) with
    | some b => switchReservations b (boundaryReached d)
    | none => switchReservations (builtReservations (boundaryReached d).inaug.now (boundaryReached d)).1
        (onStrm (fun r => { r with building := r.building && (boundaryReached d).inaug.accepted.isSome })
          (builtReservations (boundaryReached d).inaug.now (boundaryReached d)).2) := by
  show execStreamSwitchBoundary s = _
  unfold execStreamSwitchBoundary
  refine does_congr ?_
  exact if_pos h

/-- The bank `l` is in force after a boundary, from what the state of before held. -/
def SwitchedTo (s : State) (l : List ResPlaced) (d : Dev) : Prop :=
  ∃ a, AtBoundary s a ∧ BankSet l a d

theorem streamSwitch_ready (h : s.dev.strm.switchPending = true) {l : List ResPlaced} (hl : s.dev.strm.built = some l)
    (he : s.dev.strm.builtFor = s.dev.inaug.now.epoch) : Completes .streamSwitchBoundary s (SwitchedTo s l) := by
  refine completes_of_exec (streamSwitch_exec h) ?_
  have hat := boundaryReached_atBoundary s
  generalize boundaryReached s.found = a at *
  rw [hat.built, hat.builtFor, hat.inaug, hl, he, Option.filter_some, if_pos (decide_eq_true rfl)]
  exact ⟨a, hat, switchReservations_sets l a⟩

theorem streamSwitch_builds (h : s.dev.strm.switchPending = true) (hb : s.dev.strm.built = none ∨ s.dev.strm.builtFor ≠ s.dev.inaug.now.epoch) :
    Completes .streamSwitchBoundary s (SwitchedTo s (buildReservations s.found s.dev.inaug.now).1) := by
  refine completes_of_exec (streamSwitch_exec h) ?_
  have hat := boundaryReached_atBoundary s
  obtain ⟨hdict, hstrm, hports, hnode, -⟩ := boundaryReached_leaves s.found
  have hbank : buildReservations (boundaryReached s.found) s.dev.inaug.now = buildReservations s.found s.dev.inaug.now :=
    buildReservations_congr _ hdict hstrm hports hnode
  generalize boundaryReached s.found = a at *
  have hnone : a.strm.built.filter (fun _ => a.strm.builtFor = a.inaug.now.epoch) = none := by
    rw [hat.built, hat.builtFor, hat.inaug]
    rcases hb with hb | hb
    · rw [hb]
      rfl
    · simp [hb]
  rw [hnone, hat.inaug]
  have hfst : (builtReservations s.dev.inaug.now a).1 = (buildReservations s.found s.dev.inaug.now).1 := congrArg Prod.fst hbank
  have hf : Framed [.out, .regs, .recd, .ints, .counters] a (builtReservations s.dev.inaug.now a).2 := builtReservations_framed _ a (by decide) (.refl _ a)
  have hr := builtReservations_regs s.dev.inaug.now a
  rw [← hfst]
  generalize builtReservations s.dev.inaug.now a = x at *
  have hs : x.2.strm = a.strm := hf.same .strm (by decide)
  refine ⟨_, ?_, switchReservations_sets x.1 _⟩
  exact ⟨(congrArg StreamsS.bankOne hs).trans hat.bankOne, (congrArg StreamsS.held hs).trans hat.held, (congrArg StreamsS.s hs).trans hat.streams,
    (congrArg StreamsS.built hs).trans hat.built, (congrArg StreamsS.builtFor hs).trans hat.builtFor,
    (hf.same .inaug (by decide)).trans hat.inaug, hat.regs.trans (hr.trans (.of_same rfl))⟩

/-- What the obligation asks of a packet that is taken. -/
def Taken (s : State) (p : AvtpPacket) (k : Fin 64) (st : StreamState) (f : Nat) (d : Dev) : Prop :=
  d.strm.s[k] = { s.dev.strm.s[k] with
    state := st
    seq := p.seq
    timeout := some (s.dev.now + cfg s.dev 0x2601 4 * msNs)
    expected := f + framesOf p } ∧ Plus s (0x2610 + k.val) 0x0D 1 d ∧ Plus s (0x2610 + k.val) 0x0E 0 d ∧
  (strmReg s.dev k 9 ≠ 0xFF → Out.play k.val (strmReg s.dev k 9) (gridTime (strmRate s.dev k) f) (packetSlots s.dev k p) ∈ d.out)

theorem Outcome.taken {st : StreamState} {f z j g : Nat}
    (h : Outcome s k (takenAt p f (s.dev.now + cfg s.dev 0x2601 4 * msNs) { s.dev.strm.s[k] with state := st }) (packetCounts z j g) (playOf s k f p) d) :
    Taken s p k st f d ∧ Plus s (0x2610 + k.val) 0x0F z d ∧ Plus s (0x2610 + k.val) 0x10 j d ∧ Plus s (0x2610 + k.val) 0x11 g d :=
  ⟨⟨h.stream, h.counts 0, h.counts 1, fun h9 => h.sent _ (if_neg h9)⟩, h.counts 2, h.counts 3, h.counts 4⟩

theorem isSound_iff : isSound p d = true ↔ p.tu = false ∧ timeUsable d = true := by
  simp [isSound]

/-- What the obligation asks of the bank `l` in force. -/
def Changed (s : State) (l : List ResPlaced) (d : Dev) : Prop :=
  resBank d = l ∧ d.strm.bankOne = !s.dev.strm.bankOne ∧ d.strm.switchPending = false ∧
  d.strm.held = s.dev.strm.held.filter (fun x => x.2 = s.dev.inaug.now.epoch || s.dev.inaug.heldCouplings.contains x.1) ∧
  (∀ (p : Port), ∀ f ∈ queueOf d p 5, ∃ r ∈ l, r.address.toNat = frameDest f.bytes ∧ r.vlan = f.vlan ∧ p ∈ r.ports) ∧
  ∀ k : Fin 64,
    let x := s.dev.strm.s[k]
    let placed : Prop := ∃ r ∈ l, r.here = true ∧ r.address.toNat = strmReg s.dev k 2 % 2 ^ 48 ∧ r.vlan = strmReg s.dev k 3
    (strmReg s.dev k 1 ≠ 1 → d.strm.s[k] = x) ∧
    (strmReg s.dev k 1 = 1 →
      (x.state = .waiting → placed → d.strm.s[k] = { x with state := .sending, mr := !x.mr, seq := 0 }) ∧
      (x.state = .sending → ¬ placed → d.strm.s[k] = { x with state := .waiting }) ∧
      (x.state = .sending → placed → d.strm.s[k] = x))

theorem talkerMoves_starts (h : x.state = .waiting) : talkerMoves true true x = { x with state := .sending, mr := !x.mr, seq := 0 } := by
  unfold talkerMoves
  rw [h]

theorem talkerMoves_stops (h : x.state = .sending) : talkerMoves true false x = { x with state := .waiting } := by
  unfold talkerMoves
  rw [h]

theorem talkerMoves_stays (h : x.state = .sending) : talkerMoves true true x = x := by
  unfold talkerMoves
  rw [h]

theorem SwitchedTo.changed {l : List ResPlaced} (h : SwitchedTo s l d) : Changed s l d := by
  obtain ⟨a, hat, hset⟩ := h
  refine ⟨hset.bank, by rw [hset.bankOne, hat.bankOne], hset.done, by rw [hset.held, hat.held, hat.inaug], hset.queue, fun k => ?_⟩
  have hreg : ∀ {sub : Nat}, sub < 256 → strmReg a k sub = strmReg s.dev k sub := fun hs => strmReg_of_bankCounters hat.regs k hs
  have hstream := hset.stream k
  rw [hreg (by decide), hreg (by decide), hreg (by decide), hat.streams] at hstream
  have hplaced : (l.any fun r => r.here && r.address.toNat = strmReg s.dev k 2 % 2 ^ 48 && r.vlan = strmReg s.dev k 3) = true ↔
      ∃ r ∈ l, r.here = true ∧ r.address.toNat = strmReg s.dev k 2 % 2 ^ 48 ∧ r.vlan = strmReg s.dev k 3 := by
    simp [and_assoc]
  refine ⟨fun h1 => ?_, fun h1 => ?_⟩
  · rw [hstream, decide_eq_false h1]
    rfl
  · rw [decide_eq_true h1] at hstream
    refine ⟨fun hst hp => ?_, fun hst hp => ?_, fun hst hp => ?_⟩ <;> rw [← hplaced] at hp
    · rw [hstream, hp, talkerMoves_starts hst]
    · rw [hstream, Bool.eq_false_iff.2 hp, talkerMoves_stops hst]
    · rw [hstream, hp, talkerMoves_stays hst]

theorem SwitchedTo.built {l : List ResPlaced} (h : SwitchedTo s l d) (he : s.dev.strm.builtFor = s.dev.inaug.now.epoch) : d.strm.built = none := by
  obtain ⟨a, hat, hset⟩ := h
  rw [hset.built, hat.builtFor, hat.inaug]
  exact if_pos he

end streams

/-- Settles O38, command by command: a packet as its listener sees it, whatever other listeners take it too; a talker's packet; the loss of a
listener; and a bank with the frames and the talkers that follow it. -/
theorem streamsPlayTalkAndChangeBanksAsGiven : Obligations.StreamsPlayTalkAndChangeBanksAsGiven := by
  unfold Obligations.StreamsPlayTalkAndChangeBanksAsGiven
  intro s m plus
  refine ⟨fun p => ⟨avtp_nobody, avtp_unmatched, ?_⟩,
    fun k samples => ⟨talkerPacket_sends samples, talkerPacket_rests samples, fun t ht hst => streamTimeout_ends ht hst⟩,
    fun h n hn => reservationBank_built h hn,
    fun h => ⟨fun l hl he => (streamSwitch_ready h hl he).mono fun d hd => ⟨hd.changed, hd.built he⟩,
      fun hb => (streamSwitch_builds h hb).mono fun d hd => hd.changed⟩,
    fun t ht => rephase_ends ht⟩
  intro k hl hm x reg f moment late far sound g expected taken gaps
  have hsound : sound → isSound p s.dev = true := isSound_iff.2
  have hunsound : ¬ sound → isSound p s.dev = false := fun h => Bool.eq_false_iff.2 fun e => h (isSound_iff.1 e)
  have hlate : late → isLate p k s.dev = true := fun h => decide_eq_true h
  have hontime : ¬ late → isLate p k s.dev = false := fun h => decide_eq_false h
  have hfar : far → isFar p k s.dev = true := fun h => decide_eq_true h
  have hnear : ¬ far → isFar p k s.dev = false := fun h => decide_eq_false h
  refine ⟨fun h1 h2 hst => ?_, fun h1 h2 h3 hst => ?_, fun hst => ⟨fun h1 h2 h3 => ?_, fun h1 => ?_⟩, fun hst => ⟨fun h1 h2 h3 => ?_, fun h1 => ?_⟩⟩
  · exact (avtp_late hl hm hst (hsound h1) (hlate h2)).mono fun d hd => ⟨hd.stream, hd.counts 1, hd.counts 0⟩
  · exact (avtp_far hl hm hst (hsound h1) (hontime h2) (hfar h3)).mono fun d hd => ⟨hd.stream, hd.counts 1, hd.counts 0⟩
  · refine (avtp_starts hl hm hst (hsound h1) (hontime h2) (hnear h3)).mono fun d hd => ?_
    obtain ⟨htaken, hzeros, -, -⟩ := Outcome.taken hd
    exact ⟨htaken, hzeros⟩
  · exact (avtp_waits hl hm hst (hunsound h1)).mono fun d hd => ⟨hd.stream, hd.counts 0⟩
  · refine (avtp_sound hl hm hst (hsound h1) (hontime h2) (hnear h3)).mono fun d hd => ?_
    obtain ⟨htaken, hzeros, hjumps, hgaps⟩ := hd.taken
    exact ⟨htaken, hgaps, hjumps, hzeros⟩
  · refine (avtp_unsound hl hm hst (hunsound h1)).mono fun d hd => ?_
    obtain ⟨htaken, hzeros, hjumps, hgaps⟩ := hd.taken
    exact ⟨htaken, hgaps, hjumps, hzeros⟩

end Sys2Proof.Machine
end
